-- ==== Sys2Proof/Word.lean ====
section
/-! DEFINITION. Words of the module: bytes, 64-bit registers and 64-byte lines (00 R10 to R12). -/

namespace Sys2Proof

/-- A byte of data. -/
abbrev Byte := BitVec 8

/-- A 64-bit register or parameter word. -/
abbrev Word := BitVec 64

/-- A 64-byte line; byte n is bits [8n+7:8n] (00: little-endian). -/
abbrev Line512 := BitVec 512

end Sys2Proof
end

