-- ==== Sys2Proof/Machine/Tab.lean ====
section
/-! DEFINITION. Sparse tables: a numbered family of like things held as plain data in one canonical
form (keys strictly rising, no entry equal to what an unlisted key reads as). -/

namespace Sys2Proof.Machine

/-- A sparse table: pairs of number and value. -/
abbrev Tab (α : Type) := List (Nat × α)

/-- The value at number `k`; an unlisted number reads as `d k`. -/
def Tab.get {α : Type} (d : Nat → α) : Tab α → Nat → α
  | [], k => d k
  | (j, v) :: t, k => if j = k then v else Tab.get d t k

/-- The table without number `k`. -/
def Tab.erase {α : Type} : Tab α → Nat → Tab α
  | [], _ => []
  | (j, v) :: t, k => if j = k then Tab.erase t k else (j, v) :: Tab.erase t k

/-- Number `k` put in before the first greater number. -/
def Tab.put {α : Type} : Tab α → Nat → α → Tab α
  | [], k, v => [(k, v)]
  | (j, w) :: t, k, v => if k < j then (k, v) :: (j, w) :: t else (j, w) :: Tab.put t k v

/-- The table with number `k` at `v`; writing what an unlisted number reads as removes the entry. -/
def Tab.set {α : Type} [DecidableEq α] (d : Nat → α) (t : Tab α) (k : Nat) (v : α) : Tab α :=
  if v = d k then Tab.erase t k else Tab.put (Tab.erase t k) k v

/-- The table with the value at `k` changed by `f`. -/
def Tab.upd {α : Type} [DecidableEq α] (d : Nat → α) (t : Tab α) (k : Nat) (f : α → α) : Tab α :=
  Tab.set d t k (f (Tab.get d t k))

/-- The values of `vs` written to the numbers from `k` on. -/
def Tab.setRun {α : Type} [DecidableEq α] (d : Nat → α) : Tab α → Nat → List α → Tab α
  | t, _, [] => t
  | t, k, v :: vs => Tab.setRun d (Tab.set d t k v) (k + 1) vs

/-- `n` values from number `k` on. -/
def Tab.getRun {α : Type} (d : Nat → α) (t : Tab α) (k : Nat) : Nat → List α
  | 0 => []
  | n + 1 => Tab.get d t k :: Tab.getRun d t (k + 1) n

/-- Every number of `lo ≤ k < hi` back at what an unlisted number reads as. -/
def Tab.clear {α : Type} (t : Tab α) (lo hi : Nat) : Tab α :=
  t.filter (fun p => decide (p.1 < lo) || decide (hi ≤ p.1))

/-- Every listed value changed by `f`, entries that become the unlisted value removed. -/
def Tab.mapAll {α : Type} [DecidableEq α] (d : Nat → α) (f : Nat → α → α) : Tab α → Tab α
  | [] => []
  | (j, v) :: t =>
    if f j v = d j then Tab.mapAll d f t else (j, f j v) :: Tab.mapAll d f t

/-- Every value of the numbers in `ks` changed by `f`. -/
def Tab.updMany {α : Type} [DecidableEq α] (d : Nat → α) (f : α → α) : List Nat → Tab α → Tab α
  | [], t => t
  | k :: ks, t => Tab.updMany d f ks (Tab.upd d t k f)

/-- Every number of the table is greater than `k`. -/
def Tab.above {α : Type} (k : Nat) : Tab α → Bool
  | [] => true
  | (j, _) :: t => decide (k < j) && Tab.above k t

/-- The canonical form: numbers strictly rising, no entry equal to the unlisted value. -/
def Tab.wf {α : Type} [DecidableEq α] (d : Nat → α) : Tab α → Bool
  | [] => true
  | (j, v) :: t => decide (v ≠ d j) && Tab.above j t && Tab.wf d t

end Sys2Proof.Machine
end

