-- ==== Sys2Proof/Machine/Types.lean ====
section
/-! DEFINITION. The named alternatives of the spec and the records that commands carry as operands. -/

namespace Sys2Proof.Machine

/-- Class of a service slot (02 R61, 14 "Memory classes"). -/
inductive SlotClass where
  | bulk | shared | devOnly
  deriving DecidableEq, Repr

/-- NBSTAT.MODE of a channel (06 R269). -/
inductive ChanMode where
  | conv | nearBank | leaving
  deriving DecidableEq, Repr

/-- Power state of a rank (04 R141, R142). -/
inductive RankPower where
  | awake | down | selfRefresh
  deriving DecidableEq, Repr

/-- State of a sequencer context (11 R438). -/
inductive CtxState where
  | unbound | idle | running | halted | preserved
  deriving DecidableEq, Repr

/-- State of a partition (15 R560). -/
inductive PartState where
  | free | active | resetting | preserved | homeless
  deriving DecidableEq, Repr

/-- State of a manifest handle (12 R493). -/
inductive HandleState where
  | empty | translating | ready | bound
  deriving DecidableEq, Repr

/-- CLKSTAT.SRC of a hub (17 R665). -/
inductive ClockSrc where
  | crystal | internal | host | own
  deriving DecidableEq, Repr

/-- What a device write to host memory is (14 R548). -/
inductive WriteKind where
  | data | completion | event | control | mailbox | trace | report
  deriving DecidableEq, Repr

/-- BOOTSTAT.CAUSE (18 R709). -/
inductive ResetCause where
  | powerOn | command | sideband | powerReturn | watchdog
  deriving DecidableEq, Repr

/-- An exact value of a block sum: a whole number of units of 2^-25, an infinity or a NaN (05 R181, R185). -/
inductive Ext where
  | fin (m : Int)
  | inf (neg : Bool)
  | nan
  deriving DecidableEq, Repr

/-- What one sweep of a channel finds: by delay (0-16 the read, 17-33 the write delays of the byte lanes) the first tap and the length of the
longest passing run (04 R153). -/
abbrev Sweep := List (Fin 34 × BitVec 6 × BitVec 7)

/-- What a start-up finds in the parts (inputs of POWER_ON and of the warm-reset commands). -/
structure BootReport where
  /-- hubs failing verification at step 3 (18 R667) -/
  badVerify : List Nat := []
  /-- the configuration store passes its CRC (18 R668) -/
  storeOk : Bool := true
  /-- hubs failing their self-test (18 R667) -/
  badSelf : List Nat := []
  /-- what a channel's first sweep and the sweeps of its failing lanes find, by channel (04 R153, R154) -/
  sweeps : List (Fin 1536 × List Sweep) := []
  /-- stacks whose spare die fails the test of step 8 (18 R670) -/
  badSpareDies : List (Fin 96) := []
  /-- spare banks failing it: stack, rank, channel half (18 R670) -/
  badSpareBanks : List (Fin 96 × Fin 24 × Bool) := []
  /-- spare columns failing it: module bank, index (18 R670) -/
  badSpareCols : List (Fin 73728 × Fin 4) := []
  /-- spare rows failing the test of step 8: module bank, index (18 R670) -/
  badSpareRows : List (Nat × Nat) := []
  /-- reserve parcels failing the test of step 8 (18 R670) -/
  badParcels : List Nat := []
  /-- tiles failing the preserved-state check (18 R688) -/
  lostTiles : List Nat := []
  /-- tokens drawn, by partition (18 R678) -/
  tokens : List (BitVec 64) := []
  /-- matrix slices failing their self-test: tile, slice (18 R666) -/
  badSlices : List (Nat × Nat) := []
  /-- device writes to host memory that the host answered before a warm reset (18 R686) -/
  observed : List Nat := []
  deriving DecidableEq, Repr

/-- A management-core image as the boot ROM sees it (18 R702). -/
structure Image where
  sigOk : Bool := false
  stepping : Nat := 2
  svn : Nat := 0
  version : Nat := 0
  digest : BitVec 384 := 0
  deriving DecidableEq, Repr

end Sys2Proof.Machine
end

