-- ==== Sys2Proof/Machine/Bits.lean ====
section
/-! DEFINITION. Bit fields, byte order and the codes of the spec: the CRC of the column check (03 R74),
the black box's CRC-32C (19 R716) and the page code (03 R78 to R81). -/

namespace Sys2Proof.Machine

/-- Bits [lo + n - 1 : lo] of `w`. -/
def field (w lo n : Nat) : Nat := w / 2 ^ lo % 2 ^ n

/-- Bit `i` of `w`. -/
def flag (w i : Nat) : Bool := w / 2 ^ i % 2 == 1

/-- `b` as a number. -/
def nat (b : Bool) : Nat := if b then 1 else 0

/-- The low `n` bits of `w` as a two's complement number. -/
def signed (n w : Nat) : Int :=
  let v := w % 2 ^ n
  if v < 2 ^ (n - 1) then (v : Int) else (v : Int) - 2 ^ n

/-- `x` limited to `lo` to `hi`. -/
def clampInt (lo hi x : Int) : Int := if x < lo then lo else if hi < x then hi else x

/-- `x` in `n` bits, two's complement. -/
def wrapInt (n : Nat) (x : Int) : Nat := (x % (2 ^ n : Int)).toNat

/-- `n` saturating at `2^k - 1`. -/
def satNat (k n : Nat) : Nat := if n < 2 ^ k then n else 2 ^ k - 1

/-- `a` divided by `b`, rounded up. -/
def ceilDiv (a b : Nat) : Nat := (a + b - 1) / b

/-- The `n` bytes of `w`, least significant first. -/
def leBytes : Nat → Nat → List Byte
  | 0, _ => []
  | n + 1, w => BitVec.ofNat 8 w :: leBytes n (w / 256)

/-- The number whose bytes, least significant first, are `l`. -/
def ofLe : List Byte → Nat
  | [] => 0
  | b :: l => b.toNat + 256 * ofLe l

/-- The number in bytes `lo` to `lo + n - 1` of `l`, little-endian; bytes beyond the end read zero. -/
def bytesAt (l : List Byte) (lo n : Nat) : Nat := ofLe ((l.drop lo).take n)

/-- `l` with the bytes of `v` in place from `lo` on (padded with zero). -/
def putBytes (l : List Byte) (lo n v : Nat) : List Byte :=
  (l ++ List.replicate (lo - l.length) 0).take lo ++ leBytes n v ++ l.drop (lo + n)

/-- `l` cut or padded with zero bytes to `n` bytes. -/
def padTo (n : Nat) (l : List Byte) : List Byte := (l ++ List.replicate (n - l.length) 0).take n

/-- The bytes of a line. -/
def lineBytes (d : Line512) : List Byte := leBytes 64 d.toNat

/-- The line made of bytes. -/
def lineOf (l : List Byte) : Line512 := BitVec.ofNat 512 (ofLe (l.take 64))

/-- Byte `i` of `new` where `mask` enables it, otherwise of `old`. -/
def mergeBytes (mask : Nat) : List Byte → List Byte → Nat → List Byte
  | o :: old, n :: new, i => (if flag mask i then n else o) :: mergeBytes mask old new (i + 1)
  | _, _, _ => []

/-- `old` with the bytes of `new` that `mask` enables (03 R94). -/
def mergeLine (mask : BitVec 64) (old new : Line512) : Line512 :=
  lineOf (mergeBytes mask.toNat (lineBytes old) (lineBytes new) 0)

/-- Exclusive or of the low bits of `w`: `true` when an odd number of the low `n` bits are 1. -/
def parityOf : Nat → Nat → Bool
  | 0, _ => false
  | n + 1, w => (w % 2 == 1) != parityOf n (w / 2)

/-- One bit fed into the CRC of R74. -/
def crc16Bit (c : BitVec 16) (b : Bool) : BitVec 16 :=
  if c.getLsbD 15 != b then (c <<< 1) ^^^ 0x1021#16 else c <<< 1

/-- One byte, most significant bit first, fed into the CRC of R74. -/
def crc16Byte (c : BitVec 16) (b : Byte) : BitVec 16 :=
  [7, 6, 5, 4, 3, 2, 1, 0].foldl (fun c i => crc16Bit c (b.getLsbD i)) c

/-- The CRC of R74: polynomial 0x1021, initial value 0xFFFF, no final XOR. -/
def crc16 (l : List Byte) : BitVec 16 := l.foldl crc16Byte 0xFFFF#16

/-- The column check of data column `c` of row `r` (R75). -/
def columnCheck (r c : Nat) (data : List Byte) : BitVec 16 :=
  crc16 (data ++ [BitVec.ofNat 8 r, BitVec.ofNat 8 (r / 256), BitVec.ofNat 8 c])

/-- One bit fed into CRC-32C, least significant bit first. -/
def crc32cBit (c : BitVec 32) (b : Bool) : BitVec 32 :=
  if c.getLsbD 0 != b then (c >>> 1) ^^^ 0x82F63B78#32 else c >>> 1

/-- CRC-32C of `l` (19 R716). -/
def crc32c (l : List Byte) : BitVec 32 :=
  ~~~ (l.foldl (fun c b => [0, 1, 2, 3, 4, 5, 6, 7].foldl (fun c i => crc32cBit c (b.getLsbD i)) c)
    0xFFFFFFFF#32)

/-- Product of two polynomials over GF(2), `fuel` bits of `b`. -/
def polyMul : Nat → Nat → Nat → Nat
  | 0, _, _ => 0
  | n + 1, a, b => (if b % 2 = 1 then a else 0) ^^^ polyMul n (2 * a) (b / 2)

/-- Remainder of polynomial `d` of degree below `deg + n` modulo `g` of degree `deg`, taken from the
highest bit down. -/
def polyMod (g deg : Nat) : Nat → Nat → Nat
  | 0, d => d
  | n + 1, d => polyMod g deg n (if d.testBit (deg + n) then d ^^^ (g <<< n) else d)

/-- Product in GF(2^15) with field polynomial x^15 + x + 1 (R78). -/
def gfMul (a b : Nat) : Nat := polyMod 0x8003 15 15 (polyMul 15 a b)

/-- α^n in GF(2^15). -/
def gfPow : Nat → Nat
  | 0 => 1
  | n + 1 => gfMul 2 (gfPow n)

/-- A polynomial over GF(2^15), lowest coefficient first, times (x + r). -/
def gfTimesRoot (r : Nat) : Nat → List Nat → List Nat
  | carry, [] => [carry]
  | carry, a :: l => (carry ^^^ gfMul r a) :: gfTimesRoot r a l

/-- The conjugates b, b^2, b^4, … of `b`, 15 of them. -/
def conjugates : Nat → Nat → List Nat
  | 0, _ => []
  | n + 1, b => b :: conjugates n (gfMul b b)

/-- The minimal polynomial of α^i over GF(2) (R78: each has degree 15). -/
def minPoly (i : Nat) : Nat :=
  ((conjugates 15 (gfPow i)).foldl (fun p r => gfTimesRoot r 0 p) [1]).foldr (fun a n => a % 2 + 2 * n) 0

/-- The generator g_t: the product of the minimal polynomials of α^1, α^3, …, α^(2t-1) (R78). -/
def pageGen : Nat → Nat
  | 0 => 1
  | t + 1 => polyMul 16 (pageGen t) (minPoly (2 * t + 1))

/-- The strength t of a CODE value (R61, R82). -/
def strengthOf (code : Nat) : Nat :=
  if code = 0 then 8 else if code = 1 then 16 else if code = 2 then 32 else if code = 3 then 48 else 64

/-- Parity of a row at strength `t`: x^(15t) m(x) mod g_t (R80). -/
def pageParity (t : Nat) (data : Nat) : Nat :=
  polyMod (pageGen t) (15 * t) 16384 (data <<< (15 * t))

/-- The update of R95: the old parity plus the parity of the difference of old and new data. -/
def parityUpdate (t pOld old new : Nat) : Nat := pOld ^^^ pageParity t (old ^^^ new)

/-! ### Decoding the page code (03 R87) -/

/-- `a` to the power `n` in GF(2^15), `n` below 2^k, by squaring. -/
def gfExpOf : Nat → Nat → Nat → Nat
  | 0, _, _ => 1
  | k + 1, a, n => if n % 2 = 1 then gfMul a (gfExpOf k (gfMul a a) (n / 2)) else gfExpOf k (gfMul a a) (n / 2)

/-- α^n for any `n`: the order of α is 2^15 - 1. -/
def gfAlpha (n : Nat) : Nat := gfExpOf 15 2 (n % 32767)

/-- The inverse in GF(2^15). -/
def gfInv (a : Nat) : Nat := gfExpOf 15 a 32766

/-- Syndromes S_1 to S_2t of the bits in error, named by their exponents. -/
def syndromes (t : Nat) (es : List Nat) : List Nat :=
  (List.range (2 * t)).map (fun i => es.foldl (fun a e => a ^^^ gfAlpha ((i + 1) * e)) 0)

/-- Value at `x` of a polynomial over GF(2^15), lowest coefficient first. -/
def gfEval (x : Nat) : List Nat → Nat
  | [] => 0
  | a :: l => a ^^^ gfMul x (gfEval x l)

/-- Sum of two polynomials over GF(2^15), lowest coefficient first. -/
def gfAdd : List Nat → List Nat → List Nat
  | [], l => l
  | l, [] => l
  | a :: l, b :: m => (a ^^^ b) :: gfAdd l m

/-- A step of the key equation's solution: error locator, its predecessor, number of errors, distance and discrepancy of the
predecessor (the Berlekamp and Massey recursion on syndrome `n`). -/
def locatorStep (ss : List Nat) (n : Nat) (x : List Nat × List Nat × Nat × Nat × Nat) : List Nat × List Nat × Nat × Nat × Nat :=
  let c := x.1
  let b := x.2.1
  let l := x.2.2.1
  let m := x.2.2.2.1
  let d := (List.range (l + 1)).foldl (fun a i => a ^^^ gfMul (c.getD i 0) (if i ≤ n then ss.getD (n - i) 0 else 0)) 0
  if d = 0 then (c, b, l, m + 1, x.2.2.2.2)
  else
    let k := gfMul d (gfInv x.2.2.2.2)
    let c' := gfAdd c (List.replicate m 0 ++ b.map (gfMul k))
    if 2 * l ≤ n then (c', c, n + 1 - l, 1, d) else (c', b, l, m + 1, x.2.2.2.2)

/-- The error locator polynomial of `2t` syndromes and the number of errors it stands for. -/
def locator (t : Nat) (ss : List Nat) : List Nat × Nat :=
  let x := (List.range (2 * t)).foldl (fun x n => locatorStep ss n x) ([1], [1], 0, 1, 1)
  (x.1, x.2.2.1)

/-- Decode at strength `t` of a row whose bits at the exponents `es` of the code word differ from one: the exponents it corrects, or
none where it finds more than `t` errors or a location outside the shortened code (R80, R87). Up to `t` errors are exactly what it
corrects, since the distance is at least 2t + 1; beyond, it does what the syndromes say. -/
def pageDecode (t : Nat) (es : List Nat) : Option (List Nat) :=
  if es.length ≤ t then some es
  else
    let x := locator t (syndromes t es)
    let found := (List.range (16384 + 15 * t)).filter (fun e => gfEval (gfInv (gfAlpha e)) x.1 == 0)
    if x.2 ≤ t ∧ found.length = x.2 then some found else none

/-- Places of the bits of `w` that are 1, below `n`. -/
def onesOf (n w : Nat) : List Nat := (List.range n).filter (fun i => w.testBit i)

/-- `e` put into a rising list of numbers, or taken out of it. -/
def toggle (e : Nat) : List Nat → List Nat
  | [] => [e]
  | x :: l => if e < x then e :: x :: l else if e = x then l else x :: toggle e l

/-- Every number of `es` put into or taken out of a rising list. -/
def toggleAll (es l : List Nat) : List Nat := es.foldl (fun l e => toggle e l) l

/-- The number whose bits in the places `es` are 1. -/
def bitsAt (es : List Nat) : Nat := es.foldl (fun a e => a ^^^ 2 ^ e) 0

end Sys2Proof.Machine
end

