-- ==== Sys2Proof/Syntax.lean ====
section
/-! DEFINITION. The commands of the block: one constructor for each row of the opcode table, with the operands the row's
happening carries (what the host, a link, a sensor or a part reports is an operand). -/

namespace Sys2Proof

open Sys2Proof.Machine

/-- A command of the block. -/
inductive Instr where
  /-- POWER_ON: Input rises above 40 V from below 30 V; the module runs the power-on sequence in the maintenance state, from
  the always-on rail to entering service. (R666) -/
  | powerOn (r : BootReport)
  /-- CRYSTAL_QUALIFIED: A hub's amplitude detector has seen the crystal for 1024 internal-oscillator cycles and the root
  PLL locks to it. (R636) -/
  | crystalQualified (t : Fin 16)
  /-- CRYSTAL_QUALIFY_TIMEOUT: The crystal has not qualified 20 ms after power-on; the hub starts on the fallback reference
  and the module is clock-degraded. (R637) -/
  | crystalQualifyTimeout (t : Fin 16)
  /-- COOLANT_QUALIFIED: Flow and inlet temperature have been within R661 for 10 s at start-up, so the tile converters are
  switched on. (R666) -/
  | coolantQualified
  /-- POWER_FAIL: Input below 36 V for 20 µs halts contexts with reason 0x39, writes a black-box record and puts every stack
  into stack self-refresh. (R655) -/
  | powerFail (input : BitVec 10) (tokens : List (BitVec 64))
  /-- POWER_RETURN: Input returns above 40 V after a power fail without falling below 30 V, and the module performs a warm
  reset with parcels kept. (R656) -/
  | powerReturn (r : BootReport)
  /-- INPUT_LOSS: Input falls below 30 V or rises above 62 V; the converters stop and contents are lost. (R655) -/
  | inputLoss
  /-- WARM_RESET: A warm reset from RSTCMD, the sideband, R656 or R690 halts contexts, preserves partitions, keeps stacks in
  self-refresh and reboots the hubs. (R686) -/
  | warmReset (r : BootReport)
  /-- WATCHDOG_EXPIRY: A management core's watchdog expires; the core restarts from the active image and, with AUTOWARM, two
  lead expiries in 1 s begin a warm reset. (R690) -/
  | watchdogExpiry (t : Fin 16) (r : BootReport)
  /-- CRYSTAL_AMPLITUDE_LOST: The crystal amplitude stays below threshold for 16 internal-oscillator cycles; the PLL holds,
  a clock-loss event goes to the management core and clock degraded is posted. (R638) -/
  | crystalAmplitudeLost (t : Fin 16)
  /-- EDGE_COUNT_WINDOW_END: A window of 1024 internal-oscillator cycles ends; CLKMON is updated and a count outside
  963-1085 declares the crystal lost. (R638) -/
  | edgeCountWindowEnd (t : Fin 16) (n : BitVec 11)
  /-- STANDBY_PLL_LOCK: The standby PLL locks to the fallback reference after it reaches the hub. (R643) -/
  | standbyPllLock (t : Fin 16)
  /-- DOMAIN_SWITCH: At the first alignment boundary where the standby PLL is locked and channels, yield points and
  transfers allow, every domain stops for 60 ns and restarts on the standby PLL. (R644) -/
  | domainSwitch (t : Fin 16)
  /-- FORWARDED_REFERENCE_LOST: A hub loses the forwarded fallback reference, switches to its own oscillator and sets
  CLKSTAT.ISLAND. (R649) -/
  | forwardedReferenceLost (t : Fin 16)
  /-- TIMESTAMP_SYNC: Every 10 µs the lead tile sends its timestamp over the mesh and island hubs steer their counters by 0,
  1 or 2 per tick. (R649) -/
  | timestampSync (t : Fin 16) (diff : Fin 5)
  /-- TIMESTAMP_CHECKPOINT: Once per second the lead management core writes the timestamp checkpoint to the configuration
  store. (R721) -/
  | timestampCheckpoint
  /-- PTM_EXCHANGE: Every TMCFG.PERIOD ms a PTM exchange updates the host-time mapping, or begins a new epoch with event
  0x08 when the jump exceeds TMCFG.JUMP. (R722) -/
  | ptmExchange (h : Option (BitVec 64))
  /-- POWER_AVERAGE_UPDATE: Every 10 µs the governor updates its 1 ms moving average and effective cap, and applies or
  releases measure 2. (R659) -/
  | powerAverageUpdate (avg : BitVec 16) (input : BitVec 10) (tin : BitVec 10) (tout : BitVec 10) (flow : BitVec 10)
    (dp : BitVec 10)
  /-- NEAR_BANK_HOLD: The average has exceeded CAP_eff for PGCFG.HOLDT, so every channel leaves near-bank mode at its next
  yield point and is not granted to NBS contexts. (R660) -/
  | nearBankHold
  /-- GOVERNOR_WINDOW_END: At the end of each SPLCFG.PERIOD window the governor forms its power estimate and moves SHIFT on
  each tile by at most one under R513 to R518. (R512) -/
  | governorWindowEnd
  /-- COOLANT_FAULT: Flow below 8 L/min or inlet above 50 °C for 1 s holds CAP_eff at 2.0 kW and applies measure 3. (R662) -/
  | coolantFault
  /-- COOLANT_RECOVER: Flow and temperature have been within R661 for 10 s, and the coolant-fault holds are released. (R662) -/
  | coolantRecover
  /-- DIE_TEMP_SAMPLE: Each millisecond the stack controller reads every die sensor and updates tREFW and the stack's
  thermal level with its effects. (R663) -/
  | dieTempSample (st : Fin 96) (temps : List (BitVec 8))
  /-- THERMAL_LEVEL5_TIMEOUT: A die has stayed above 105 °C for 10 ms, so requests to the stack are held and it enters stack
  self-refresh with a black-box record. (R663) -/
  | thermalLevel5Timeout (st : Fin 96)
  /-- THERMAL_HALF_PERIOD: At the half of every 10 µs timestamp period, near-bank passes on level-3 stacks are held at or
  released from yield points. (R663) -/
  | thermalHalfPeriod (second : Bool)
  /-- HUB_TEMP_SAMPLE: A hub die reading sets or releases the slice-ungate and engine-issue holds of that tile. (R664) -/
  | hubTempSample (t : Fin 16) (temp : BitVec 8)
  /-- ADMISSION_GRANT: The head of a wake queue is admitted when its per-tile budget and the committed-power limit of R658
  allow. (R657) -/
  | admissionGrant (t : Fin 16) (kind : Fin 4)
  /-- GATE_ON: A GATECMD write with ON = 1 opens a clock-gate node and its closed ancestors, each held by admission where it
  applies. (R652) -/
  | gateOn (level : BitVec 3) (tile : Fin 16) (group : Fin 4) (slice : BitVec 5)
  /-- GATE_OFF: A GATECMD write with ON = 0 closes a node unless refused with a GATESTAT.STATUS code. (R652) -/
  | gateOff (level : BitVec 3) (tile : Fin 16) (group : Fin 4) (slice : BitVec 5)
  /-- SLICE_GATE: Slices idle for MECFG.IDLE are clock-gated. (R328) -/
  | sliceGate (tile : Fin 16) (slice : Fin 21)
  /-- SLICE_UNGATE: An admitted slice ungates; an MMUL held for its arrangement or an MWAKE may then proceed. (R328) -/
  | sliceUngate (tile : Fin 16) (slice : Fin 21)
  /-- CXL_MEM_READ: A CXL.mem read on a port is tested against the interleave and served from the port read buffer or the
  slot's home tile, or answered poisoned if misrouted. (R48) -/
  | cxlMemRead (p : Fin 4) (hpa : BitVec 46) (own : Bool)
  /-- CXL_MEM_WRITE: A CXL.mem write on a port is tested against the interleave, completed to the host on acceptance and
  queued to the home channel, or discarded if misrouted. (R48) -/
  | cxlMemWrite (p : Fin 4) (hpa : BitVec 46) (data : BitVec 512) (mask : BitVec 64)
  /-- DECODER_COMMIT: Committing HDM decoder 0 on a port checks R46, copies ways, granule and base into HILCFGn and
  HILBASEn, and sets AGREE on all ports when the last of W commits. (R45) -/
  | decoderCommit (p : Fin 4) (iw : BitVec 4) (ig : BitVec 4) (base : BitVec 24) (size : BitVec 64)
  /-- DECODER_UNCOMMIT: Clearing the commit of a port's decoder returns HILCFGn.AGREE to 0 on every port. (R50) -/
  | decoderUncommit (p : Fin 4)
  /-- BI_RESPONSE: The host answers a BISnpData or BISnpInv and the held device access to the shared-class line proceeds.
  (R539) -/
  | biResponse (t : Fin 16) (line : BitVec 37) (data : Option (BitVec 512))
  /-- BI_TIMEOUT: A back-invalidate unanswered for COHCFG.BITMO completes the device read poisoned or discards the write,
  logs it and counts BITMOUT. (R541) -/
  | biTimeout (t : Fin 16) (line : BitVec 37)
  /-- SNPINV: A host store to a watched line arrives as SnpInv; the hub gives the line up and reads it again with RdShared.
  (R545) -/
  | snpinv (page : Fin 68) (line : Fin 9)
  /-- WATCHED_LINE_READ: The re-read of a watched doorbell or mailbox line completes and the hub takes its new tail, heads
  or message, or raises a ring error. (R571) -/
  | watchedLineRead (page : Fin 68) (line : Fin 9) (data : BitVec 512)
  /-- DESCRIPTOR_FETCH: The hub fetches descriptors in ring order while the completion ring has room and fewer than 64 are
  in flight, then writes SQHEAD. (R573) -/
  | descriptorFetch (page : Fin 68) (data : BitVec 512) (ok : Bool)
  /-- FLAG_PERFORM: A held flag is performed once every write it covers has been performed or failed, stored poisoned if one
  failed. (R549) -/
  | flagPerform (src : Fin 20) (part : Option (Fin 64))
  /-- PDRAIN_READ: A PDRAIN read completes after every CXL.mem write of the partition accepted earlier on the port is
  performed or failed and returns the failures since the last read. (R553) -/
  | pdrainRead (p : Fin 4) (vf : Fin 17)
  /-- COHSTAT_READ: A read of COHSTAT returns the highest directory occupancy since the last read, restarting that record.
  (R558) -/
  | cohstatRead (p : Fin 4)
  /-- APTDAT_WRITE: A write of a peer-aperture entry is refused, reading back unchanged, unless SLOT is a bulk slot owned by
  PART. (R555) -/
  | aptdatWrite (p : Fin 4) (value : BitVec 32)
  /-- PEER_APERTURE_READ: A peer CXL.io read through the aperture reaches the mapped slot as a bulk-class read, or completes
  as Unsupported Request. (R555) -/
  | peerApertureRead (p : Fin 4) (e : Fin 16) (off : BitVec 25)
  /-- PEER_APERTURE_WRITE: A peer CXL.io write through the aperture reaches the mapped slot as a data write, or completes as
  Unsupported Request and is logged with reason 8. (R555) -/
  | peerApertureWrite (p : Fin 4) (e : Fin 16) (off : BitVec 25) (data : BitVec 512) (mask : BitVec 64)
  /-- GET_MEASUREMENTS: An SPDM GET_MEASUREMENTS request returns the six SHA-384 measurement blocks. (R708) -/
  | getMeasurements (p : Fin 4)
  /-- GET_CERTIFICATE: An SPDM GET_CERTIFICATE request returns the chain rooted in Niryan's device authority. (R708) -/
  | getCertificate (p : Fin 4)
  /-- PORT_LINK_DOWN: A host link goes down; partitions on that port enter PRESERVED, its read buffer and directory entries
  drop, and in-flight host writes fail late. (R673) -/
  | portLinkDown (p : Fin 4) (tokens : List (BitVec 64))
  /-- HOT_RESET: A hot reset, link disable or PF function-level reset of a port preserves the partitions whose VF lies on
  that port. (R673) -/
  | hotReset (p : Fin 4) (kind : Fin 3) (tokens : List (BitVec 64))
  /-- PERST_ASSERT: Assertion of PERST# resets only its port, taken as a hot reset. (R729) -/
  | perstAssert (p : Fin 4) (tokens : List (BitVec 64))
  /-- FUNCTION_LEVEL_RESET: A VF function-level reset begins a partition reset with KEEP from KEEPFLR. (R582) -/
  | functionLevelReset (p : Fin 4) (vf : Fin 16)
  /-- PARTITION_RESET: The management core halts the partition's contexts, drains its writes, writes back lines, unbinds
  contexts, releases watched lines and returns it to ACTIVE. (R582) -/
  | partitionReset (p : Fin 64)
  /-- SLOT_CLEAR: A tile begins clearing a slot with whole-row zero writes at the slot's strength when it has no other clear
  in progress. (R584) -/
  | slotClear (slot : Fin 7168)
  /-- SLOT_CLEAR_DONE: A slot's clear ends; the slot is freed after a release, and PTDAT.CLEARING drops after the
  partition's last clear. (R584) -/
  | slotClearDone (slot : Fin 7168)
  /-- SUCTL_WRITE: A write of SUCTL.EN starts the rings at index zero, or is refused with SUSTAT.ERR 2 or 3, and clearing EN
  stops them. (R567) -/
  | suctlWrite (page : Fin 68) (value : BitVec 32)
  /-- START: A START descriptor loads X0-X3 and moves an idle bound context to running; it completes at END or at a halt.
  (R580) -/
  | start (page : Fin 68)
  /-- HALT: A HALT descriptor halts a context with reason 0x38 at once. (R580) -/
  | halt (page : Fin 68)
  /-- LOAD: A LOAD descriptor queues a portable image for translation into a handle, or is refused when the handle is bound
  or translating. (R495) -/
  | load (page : Fin 68) (tile : Fin 16)
  /-- BIND: A BIND descriptor binds a context to a ready handle with a scratchpad window after the checks of R497, opening
  the tile's engines. (R497) -/
  | bind (page : Fin 68)
  /-- UNBIND: An UNBIND descriptor returns a halted or idle context's handle to ready and clears its window, or is refused
  for a running context. (R498) -/
  | unbind (page : Fin 68)
  /-- DISCARD: A DISCARD descriptor empties a ready handle, or is refused for a bound one. (R499) -/
  | discard (page : Fin 68)
  /-- COPY: A COPY descriptor runs a linear FCOPY of LENGTH bytes on a ferry channel of a context. (R581) -/
  | copy (page : Fin 68)
  /-- FLUSH: A FLUSH descriptor drops the partition's lines from every port read buffer. (R534) -/
  | flush (page : Fin 68)
  /-- CODE: A CODE descriptor requests a page-code strength for a slot and re-encodes it, completing when the re-encode
  ends. (R110) -/
  | code (page : Fin 68)
  /-- FENCE: A FENCE descriptor completes at start, after every earlier descriptor of the ring. (R575) -/
  | fence (page : Fin 68)
  /-- RESET: A RESET descriptor begins a partition reset with its KEEP bit. (R582) -/
  | reset (page : Fin 68)
  /-- ATTACH: An ATTACH with the matching token returns a PRESERVED partition to ACTIVE, writes held completions and resumes
  its contexts, or completes with 0x35. (R682) -/
  | attach (page : Fin 68)
  /-- PCREATE: An admin PCREATE creates a FREE partition with a VF, or is refused. (R561) -/
  | pcreate (page : Fin 68)
  /-- PDESTROY: An admin PDESTROY resets a partition with KEEP 0, clears it and frees it. (R582) -/
  | pdestroy (page : Fin 68)
  /-- PSLOT: An admin PSLOT grants a slot in a class, changes its class, or clears and releases it. (R586) -/
  | pslot (page : Fin 68)
  /-- PCTX: An admin PCTX grants an unassigned context on a live tile or releases an unbound one. (R586) -/
  | pctx (page : Fin 68)
  /-- PVF: An admin PVF gives a partition a new VF, ending a HOMELESS state and posting the re-homed event. (R562) -/
  | pvf (page : Fin 68)
  /-- STEP_FETCH: Steps fetched ahead of issue arrive in the step cache, or an uncorrectable or overrun fetch halts the
  context. (R439) -/
  | stepFetch (ctx : Fin 64) (index : BitVec 24)
  /-- NOP: The NOP step carries only header waits, distance and a tally. (R444) -/
  | nop (ctx : Fin 64)
  /-- END: The END step issues when all issued steps are complete, makes device writes coherent, posts the completion and
  leaves the context idle. (R447) -/
  | endStep (ctx : Fin 64)
  /-- REPLAY: The REPLAY step opens a body of K steps repeated N times, or halts on nesting or form errors. (R456) -/
  | replay (ctx : Fin 64)
  /-- REPLAY_REPEAT: At each repeat of a replay body the INC and patch entries are applied before its first step is decoded.
  (R457) -/
  | replayRepeat (ctx : Fin 64)
  /-- XLD: The XLD step loads parameter registers from the scratchpad. (R444) -/
  | xld (ctx : Fin 64)
  /-- XST: The XST step stores parameter registers to the scratchpad. (R444) -/
  | xst (ctx : Fin 64)
  /-- XSET: The XSET step writes an immediate into a parameter register in the maintenance state only. (R444) -/
  | xset (ctx : Fin 64)
  /-- AMOV: The AMOV step copies a parameter register's low 48 bits into an address register. (R444) -/
  | amov (ctx : Fin 64)
  /-- CMSET: The CMSET step sets a comparator's tally and threshold, absolute or relative. (R444) -/
  | cmset (ctx : Fin 64)
  /-- SPLIT: The SPLIT step computes the bank and engine shares of a cargo from batch, split table and SQGOV.SHIFT into four
  registers and an address register. (R461) -/
  | split (ctx : Fin 64)
  /-- MBXR: The MBXR step waits for an unconsumed host-to-device message, loads it into eight registers and records its SEQ
  in H2DACK. (R446) -/
  | mbxr (ctx : Fin 64)
  /-- MBXW: The MBXW step writes 60 bytes from the scratchpad and a message count into a device-to-host slot as a flag.
  (R594) -/
  | mbxw (ctx : Fin 64)
  /-- EVENT: The EVENT step posts a user event carrying a register value and a code. (R444) -/
  | event (ctx : Fin 64)
  /-- SCRATCHPAD_ACCESS_END: The 8-cycle scratchpad access of an XLD, XST, MBXW or kind-1 patch ends, completing the step
  and releasing issue. (R445) -/
  | scratchpadAccessEnd (ctx : Fin 64)
  /-- MMUL: The MMUL step is decoded, checked and placed in the matrix-engine queue. (R308) -/
  | mmul (ctx : Fin 64)
  /-- MWAKE: The MWAKE step asks for every serving slice of the tile to be ungated, its tally advancing when all are. (R329) -/
  | mwake (ctx : Fin 64)
  /-- ME_STEP_START: An MMUL reaches the head of the matrix queue and begins after setup or chaining at cycle S0. (R312) -/
  | meStepStart (tile : Fin 16)
  /-- ME_WAVE_START: A wave of an MMUL begins its operand reads, with the free slice taking over a position where a swap is
  due. (R314) -/
  | meWaveStart (tile : Fin 16)
  /-- FPQ_PANEL_ENTRY: A finished panel enters the context's FPQ share when there is room; the last panel completes the step
  and advances its tally. (R315) -/
  | fpqPanelEntry (tile : Fin 16)
  /-- KEEPMAX_EXPIRY: MECFG.KEEPMAX passes while another context waits, so the holder's resident roods are discarded and the
  waiting step runs. (R326) -/
  | keepmaxExpiry (tile : Fin 16)
  /-- PE_MISMATCH: A parity or residue mismatch in a PE poisons the rood's panels of the wave and is recorded in the black
  box. (R332) -/
  | peMismatch (tile : Fin 16) (pos : Fin 20)
  /-- SLICE_TEST_DONE: A 2 ms slice test ends; a passing slice becomes the free slice and a failing one is retired, lowering
  NW when no free slice exists. (R333) -/
  | sliceTestDone (tile : Fin 16) (pass : Bool)
  /-- SLICE_SWAP_TEST: Every MECFG.TESTINTV minutes the free slice takes over the next position at a fresh rood and the
  relieved slice is tested. (R334) -/
  | sliceSwapTest (tile : Fin 16)
  /-- VCHAIN: The VCHAIN step is decoded, checked and placed in the vector-engine queue. (R364) -/
  | vchain (ctx : Fin 64)
  /-- VE_STEP_START: A VCHAIN reaches the queue head and its first panel entry cycle F is fixed. (R372) -/
  | veStepStart (tile : Fin 16)
  /-- VE_PANEL_ENTRY: A panel enters the chain, from registers, a scratchpad load or an FPQ pop held until the panel is
  there, or the context halts with FPQ underflow. (R371) -/
  | vePanelEntry (tile : Fin 16)
  /-- VE_STEP_COMPLETE: A VCHAIN reaches its completion cycle E; its stores and drains are visible and its tally advances.
  (R373) -/
  | veStepComplete (tile : Fin 16)
  /-- FCOPY: The FCOPY step is decoded and queued on its ferry channel to copy a tensor. (R414) -/
  | fcopy (ctx : Fin 64)
  /-- FXPOSE: The FXPOSE step is decoded and queued on its ferry channel to transpose a tensor. (R415) -/
  | fxpose (ctx : Fin 64)
  /-- FGATHER: The FGATHER step is decoded and queued on its ferry channel to gather rows by index. (R416) -/
  | fgather (ctx : Fin 64)
  /-- FSCATTER: The FSCATTER step is decoded and queued on its ferry channel to scatter or accumulate rows by index. (R416) -/
  | fscatter (ctx : Fin 64)
  /-- FERRY_STEP_START: A ferry step starts on its channel once every earlier step on that channel has completed. (R409) -/
  | ferryStepStart (tile : Fin 16) (chan : Fin 16) (host : List (BitVec 8)) (bad : List Nat)
  /-- OVERLAP_HOLD_GRANT: A ferry step in overlap mode obtains the tile's 4 MiB overlap hold when it becomes free. (R425) -/
  | overlapHoldGrant (tile : Fin 16) (chan : Fin 16)
  /-- FERRY_STEP_COMPLETE: Every write of a ferry step is visible at its destination and the step's tally advances. (R421) -/
  | ferryStepComplete (tile : Fin 16) (chan : Fin 16)
  /-- FERRY_FAULT: A ferry channel halts on a fault, records FCSTAT and FCADDR, posts event 0x0A and halts the issuing
  context. (R431) -/
  | ferryFault (tile : Fin 16) (chan : Fin 16) (fault : BitVec 4) (operand : Fin 4) (addr : BitVec 48) (space :
    BitVec 3) (at_ : Fin 16) (module : BitVec 6)
  /-- NBPASS: The NBPASS step is decoded and queued for the near-bank sequencer over the cargo's units. (R462) -/
  | nbpass (ctx : Fin 64)
  /-- NB_PASS: The near-bank sequencer begins a span pass on a channel, taking the pass lock, configuring every rank and
  broadcasting activations. (R254) -/
  | nbPass (ch : Fin 1536) (ctx : Fin 64) (entry : BitVec 16) (round : Fin 8) (cell : BitVec 16) (span : BitVec 16)
  /-- NBPASS_COMPLETE: The last write of an NBPASS to DST becomes visible after channel, tile and mesh sums, and its tally
  advances. (R453) -/
  | nbpassComplete (ctx : Fin 64)
  /-- YIELD_POINT: At a yield point the NBS decides whether the channel leaves near-bank mode, and any parcel-map flip due
  there takes effect. (R240) -/
  | yieldPoint (ch : Fin 1536)
  /-- PASS_ABANDON: After a halt or partition reset the NBS abandons the pass at the next yield point, leaves near-bank mode
  and releases the lock. (R257) -/
  | passAbandon (ch : Fin 1536)
  /-- BLOCK_FOLD: 3 + B bank cycles after a block's last compute-column, the NBU folds the block sums into its accumulators.
  (R190) -/
  | blockFold (ch : Fin 1536) (j : Fin 48)
  /-- RECOMPUTE_REBUILD: The hub's recompute unit takes a handed-over bank's poisoned groups and rebuilds them by
  conventional reads and decodes. (R196) -/
  | recomputeRebuild (tile : Fin 16)
  /-- RECOMPUTE_DONE: A rebuild ends; the rebuilt group is added to the sum buffer, or poisons it on failure, and the result
  is logged. (R199) -/
  | recomputeDone (tile : Fin 16)
  /-- CRU_DRAIN: 4 hub cycles after the last beat or rebuilt group, a sum buffer is rounded, written to the step's
  destination and reset. (R263) -/
  | cruDrain (ch : Fin 1536) (buf : Fin 16)
  /-- NBRDY_RISE: The stack raises NBRDY tNBX after NBX, and conventional commands may be issued on the channel again.
  (R220) -/
  | nbrdyRise (ch : Fin 1536)
  /-- ROW_NOP: A row-bus NOP command. (R216) -/
  | rowNop (ch : Fin 1536)
  /-- ACT: The ACT command activates a row of a bank, adding to its activation tally. (R216) -/
  | act (ch : Fin 1536) (rank : BitVec 5) (bank : Bool) (row : BitVec 16) (who : BitVec 5)
  /-- PRE: The PRE command precharges one or both banks of a rank. (R216) -/
  | pre (ch : Fin 1536) (rank : BitVec 5) (bank : Bool) (both : Bool)
  /-- REF: The REF command refreshes the 8 wordlines named by a bank's refresh counter and advances it. (R136) -/
  | ref (ch : Fin 1536) (rank : BitVec 5) (bank : Bool)
  /-- POWER_DOWN_ENTRY: A rank idle with no open row for PWRCFG.PDT is put into power-down by PWR FN 0. (R141) -/
  | powerDownEntry (ch : Fin 1536) (rank : Fin 24)
  /-- SELF_REFRESH_ENTRY: A rank idle for PWRCFG.SRT enters self-refresh by PWR FN 2 and its refresh commands stop. (R142) -/
  | selfRefreshEntry (ch : Fin 1536) (rank : Fin 24)
  /-- STACK_SELF_REFRESH_ENTRY: A stack whose ranks have all been in self-refresh for PWRCFG.SST enters stack self-refresh
  by PWR FN 4. (R143) -/
  | stackSelfRefreshEntry (st : Fin 96)
  /-- STACK_SELF_REFRESH_EXIT: An admitted stack leaves stack self-refresh by PWR FN 5, taking tXSS with re-centring. (R143) -/
  | stackSelfRefreshExit (st : Fin 96)
  /-- MRW: The MRW command writes a mode register of one or every rank. (R216) -/
  | mrw (ch : Fin 1536) (rank : BitVec 5) (allr : Bool) (reg : BitVec 8) (value : BitVec 8)
  /-- NBE: The admitted NBE command puts a channel into near-bank mode when R230 holds, and NBRDY falls. (R230) -/
  | nbe (ch : Fin 1536)
  /-- NBX: The NBX command closes every open row and takes the channel out of near-bank mode. (R237) -/
  | nbx (ch : Fin 1536)
  /-- AHA: The AHA command opens an ahead row in a bank in near-bank mode. (R235) -/
  | aha (ch : Fin 1536) (rank : BitVec 5) (bank : Bool) (row : BitVec 16)
  /-- SWT: The SWT command makes the ahead row the compute row in every participating bank and closes the old one. (R233) -/
  | swt (ch : Fin 1536)
  /-- NRF: The NRF command refreshes the counter's wordlines in every bank of the channel, owing those in open subarrays.
  (R247) -/
  | nrf (ch : Fin 1536)
  /-- NNR: The NNR command refreshes the neighbour wordlines of an alerted row in one bank in near-bank mode. (R249) -/
  | nnr (ch : Fin 1536) (rank : BitVec 5) (bank : Bool)
  /-- BBQ: The BBQ command loads the channel's beat counter. (R222) -/
  | bbq (ch : Fin 1536) (q : BitVec 16)
  /-- COLUMN_NOP: A column-bus NOP command. (R217) -/
  | columnNop (ch : Fin 1536)
  /-- RD: The RD command reads one column from an open row, tested by its column check. (R217) -/
  | rd (ch : Fin 1536) (rank : BitVec 5) (bank : Bool) (col : BitVec 6) (ap : Bool)
  /-- WR: The WR command writes one column to an open row. (R217) -/
  | wr (ch : Fin 1536) (rank : BitVec 5) (bank : Bool) (col : BitVec 6) (ap : Bool) (data : BitVec 256)
  /-- MRR: The MRR command reads a mode register of a rank. (R217) -/
  | mrr (ch : Fin 1536) (rank : BitVec 5) (reg : BitVec 8)
  /-- CCL: The compute-column command moves every participating NBU through one column of its compute row, checking it and
  running B compute cycles. (R165) -/
  | ccl (ch : Fin 1536) (col : BitVec 6)
  /-- BBW: The BBW command broadcasts one beat with the current beat index to every NBU, which store their windows and
  advance the counter. (R222) -/
  | bbw (ch : Fin 1536) (data : BitVec 256) (flips : List (Fin 48 × BitVec 272))
  /-- CFGW: The CFGW command writes or parks the NBUs of one rank, accepted or rejected under R177, starting a new pass.
  (R221) -/
  | cfgw (ch : Fin 1536) (rank : BitVec 5) (beat : BitVec 272)
  /-- ACR: The ACR command reads 8 beats of an accumulator group into a CRU sum buffer, retried or handed to the recompute
  unit on check failure. (R259) -/
  | acr (ch : Fin 1536) (rank : BitVec 5) (bank : Bool) (group : BitVec 3) (buf : BitVec 4) (flips : List (List (Fin 8 × BitVec 272)))
  /-- ACL: The ACL command clears the masked accumulator groups of one rank or every rank. (R187) -/
  | acl (ch : Fin 1536) (rank : BitVec 5) (allr : Bool) (mask : BitVec 8)
  /-- STR: The STR command returns the status and configuration of a rank's two NBUs, which the NBS evaluates for recompute,
  range and saturation. (R266) -/
  | str (ch : Fin 1536) (rank : BitVec 5) (flips : List (BitVec 272))
  /-- ROW_DISTURBANCE_ALERT: An alert pulse reports a row at the threshold; its neighbours are refreshed and the causing
  requester is throttled on that bank. (R147) -/
  | rowDisturbanceAlert (ch : Fin 1536) (j : Fin 48)
  /-- THROTTLE_HOLD_END: RDCFG.HOLD passes without a further alert and a requester's throttle on a bank ends. (R148) -/
  | throttleHoldEnd (ch : Fin 1536) (who : BitVec 5) (j : Fin 48)
  /-- OWED_WORDLINE_REFRESH: Within tRP + tRC after an open row closes, the die refreshes a wordline owed in its subarray.
  (R248) -/
  | owedWordlineRefresh (ch : Fin 1536) (j : Fin 48)
  /-- COMMAND_ERROR_ALERT: An alert pulse reports a command in error; after the third failure a read is poisoned or a write
  fails, and 16 errors in a second force a full sweep. (R160) -/
  | commandErrorAlert (ch : Fin 1536) (column : Bool) (word : BitVec 28) (data : BitVec 272) (who : BitVec 5) (write : Bool) (line : Nat) (path : Fin 10)
  /-- COMMAND_REISSUE: A command reported in error is issued again after tRC. (R160) -/
  | commandReissue (ch : Fin 1536) (accepted : Bool)
  /-- CHANNEL_ACCEPT: A request enters its channel's read or write queue when there is room, becoming visible to later
  requests if a write. (R120) -/
  | channelAccept (ch : Fin 1536) (who : BitVec 5) (part : Option (Fin 64)) (j : Fin 48) (row : BitVec 16) (pair :
    BitVec 5) (write : Bool) (data : BitVec 512) (mask : BitVec 64) (poison : Bool)
  /-- ARBITRATION_POINT: At the end of a grant the channel grants the next requester in priority order, honouring masks and
  the maintenance guarantee. (R125) -/
  | arbitrationPoint (ch : Fin 1536)
  /-- ARB_WINDOW_END: An arbitration window ends and every quota count and mask resets. (R128) -/
  | arbWindowEnd
  /-- WRITE_DRAIN: A write drain started by the high mark or a conflicting read performs queued writes down to the low mark.
  (R134) -/
  | writeDrain (ch : Fin 1536) (read : Option (Fin 64))
  /-- ROW_CLOSE_TIMEOUT: A bank's open row unused for SCHCFG.PGTO with no queued request is closed. (R133) -/
  | rowCloseTimeout (ch : Fin 1536) (j : Fin 48)
  /-- REFRESH_DUE: A bank's refresh falls due at tREFIPB spacing and is issued, advanced or postponed within the allowances.
  (R138) -/
  | refreshDue (ch : Fin 1536) (j : Fin 48) (postpone : Bool)
  /-- HOT_BANK_WINDOW_END: A hot-bank count window ends; a bank with enough share sets HOTBANK and posts a hot-bank event.
  (R151) -/
  | hotBankWindowEnd (ch : Fin 1536)
  /-- RECENTRE: A channel's re-centring falls due and sweeps ±8 taps in a blackout of at most 2 µs. (R155) -/
  | recentre (ch : Fin 1536) (runs : Machine.Sweep) (sweeps : List Machine.Sweep)
  /-- FULL_ROW_DECODE: A failed column check starts a full-row decode when one of the four decoders is free. (R87) -/
  | fullRowDecode (st : Fin 96)
  /-- FULL_ROW_DECODE_DONE: A full-row decode ends; columns are returned corrected, repaired or treated as uncorrectable,
  and changes are written back. (R88) -/
  | fullRowDecodeDone (st : Fin 96)
  /-- SCRUB_PASS_START: At a scrub period boundary every tile starts a new scrub pass. (R101) -/
  | scrubPassStart
  /-- SCRUB_ROW: Scrub reads and decodes one row at its paced time, writes EPOCH and LASTCORR, and applies the escalation
  rules. (R100) -/
  | scrubRow (ch : Fin 1536)
  /-- SCRUB_RANK_WAKE: Scrub wakes a self-refreshing rank at most once per 10 s and reads the rows that have fallen due.
  (R145) -/
  | scrubRankWake (ch : Fin 1536) (rank : Fin 24)
  /-- REPAIR_FLIP: After the copy to a spare ends, the redirect flips with requests held at most 1 µs, moving NBU state in
  near-bank mode. (R42) -/
  | repairFlip (st : Fin 96)
  /-- REENCODE_ROW: One row of a parcel under re-encode is decoded at its old strength and written back at the new one; the
  last row updates CODE. (R111) -/
  | reencodeRow (p : Fin 8192)
  /-- SLOT_MOVE: The management core begins moving a slot to a chosen reserve parcel, copying with stores written to both.
  (R58) -/
  | slotMove (slot : Fin 7168)
  /-- SLOT_MOVE_FLIP: After the copy ends the parcel-map entry flips, posting placement and reserve-cover events where they
  apply. (R55) -/
  | slotMoveFlip (slot : Fin 7168)
  /-- HASH_RECORD_WRITE: A new hash record written over the sideband sets HASHCTL.PEND and takes effect at the next
  power-on. (R70) -/
  | hashRecordWrite (masks : List (BitVec 32))
  /-- MODID_DKEY_WRITE: A new module identifier or domain key written over the sideband sets XLID.PEND and takes effect at
  the next reset. (R611) -/
  | modidDkeyWrite (modid : BitVec 6) (dkey : BitVec 16)
  /-- TILE_RETIRE: A tile is retired permanently: its contexts halt with 0x13, its landing and port go, the lead role moves
  if needed, and its slots are moved. (R698) -/
  | tileRetire (t : Fin 16) (cause : Fin 5) (readable : Bool)
  /-- SPARE_TEST: Unused spares are tested in service one bank's worth per stack at a time, and failures are marked
  unusable. (R693) -/
  | spareTest (st : Fin 96) (kind : Fin 4) (rank : Fin 24) (half : Bool) (inStack : Fin 768) (idx : Fin 512) (pass :
    Bool)
  /-- SWAP_TEST_RETURN: A working bank due for its periodic test is copied to a spare bank, tested and copied back. (R694) -/
  | swapTestReturn (st : Fin 96) (inStack : Fin 768)
  /-- SWAP_TEST_DONE: A bank's swap test ends; a passing bank is returned, a failing one stays on the spare. (R696) -/
  | swapTestDone (st : Fin 96) (pass : Bool)
  /-- SCRATCHPAD_CORRECT_WRITEBACK: A word with a corrected single-bit error is written back in the bank's next idle cycle.
  (R393) -/
  | scratchpadCorrectWriteback (tile : Fin 16) (word : BitVec 21) (uncorrectable : Bool)
  /-- WINDOW_CLEAR_DONE: The zeroing of a context's scratchpad window ends and SPWIN.CLEARING drops. (R390) -/
  | windowClearDone (c : Fin 64)
  /-- TRANSLATE: A tile's translator starts the next queued load and checks, places and orders the program. (R480) -/
  | translate (tile : Fin 16) (image : List (BitVec 8)) (ok : Bool) (native : Option (List (BitVec 256))) (map :
    List (BitVec 32))
  /-- TRANSLATION_END: A translation finishes or fails, rechecks the tile tag, writes the load report and posts the
  completion. (R504) -/
  | translationEnd (tile : Fin 16)
  /-- GBAR: The GBAR step joins a global barrier instance. (R629) -/
  | gbar (ctx : Fin 64)
  /-- GBCAST: The GBCAST step joins a global broadcast instance. (R629) -/
  | gbcast (ctx : Fin 64)
  /-- GRED: The GRED step joins a global reduction instance. (R630) -/
  | gred (ctx : Fin 64)
  /-- GSNAP: The GSNAP step joins a global snapshot instance. (R629) -/
  | gsnap (ctx : Fin 64)
  /-- GLOBAL_OP_COMPLETE: A global operation instance meets its completion condition at a participant and its tally
  advances. (R629) -/
  | globalOpComplete (ctx : Fin 64)
  /-- GLOBAL_TIMEOUT: An instance not complete XLCFG.GTMO after its first issue halts every participant that issued it with
  0x30. (R631) -/
  | globalTimeout (group : Fin 64)
  /-- FLIT_RECEIVE: A sequenced flit is accepted, discarded as a duplicate, or discarded with a NAK. (R608) -/
  | flitReceive (l : Fin 16) (flit : BitVec 2048) (fixed : List (Fin 1632)) (uncw : Bool)
  /-- LINK_CONTROL: A link-control message returns an ACK, a NAK causing replay, and credits. (R605) -/
  | linkControl (l : Fin 16) (msg : BitVec 32) (level : Fin 4)
  /-- ACK_SEND: A landing sends its current ACK after 32 received flits or 50 ns with a flit unacknowledged. (R606) -/
  | ackSend (l : Fin 16)
  /-- REPLAY_TIMEOUT: ACK has not advanced for 2 µs; the sender resends from the oldest unacknowledged flit, and after 8
  such resends retrains. (R610) -/
  | replayTimeout (l : Fin 16)
  /-- REMOTE_RD: A remote read request is forwarded or checked against the admission table and served or refused. (R620) -/
  | remoteRd (land : Fin 16) (hdr : BitVec 128)
  /-- REMOTE_WR: A remote write request is forwarded or checked against the admission table and performed, held as a flag, or
  refused. (R620) -/
  | remoteWr (land : Fin 16) (hdr : BitVec 128) (data : List (BitVec 512))
  /-- RDR: A read response returns lines with their poison marks to the initiating ferry channel. (R624) -/
  | rdr (land : Fin 16) (hdr : BitVec 128) (data : List (BitVec 512))
  /-- WACK: A write acknowledgement reaches the initiator and counts toward the ferry step's completion. (R622) -/
  | wack (land : Fin 16) (hdr : BitVec 128)
  /-- LFN: A late-failure notice from a target is logged at the initiator and its event posted. (R622) -/
  | lfn (land : Fin 16) (hdr : BitVec 128) (target : BitVec 6)
  /-- GOP: A global-operation message advances an instance, or halts participants on mismatch. (R628) -/
  | gop (land : Fin 16) (hdr : BitVec 128) (group : Fin 64) (inst : BitVec 32) (op : Fin 4) (scope : Bool) (rtype :
    Fin 4) (bytes : BitVec 21) (mods : BitVec 64) (gkey : BitVec 16) (root : BitVec 6) (result : Bool) (sat : Bool)
    (data : List (BitVec 8)) (pois : List Bool)
  /-- TRANSACTION_TIMEOUT: A remote transaction without response within XLCFG.TTMO fails, halting the read's channel or
  failing the write late. (R624) -/
  | transactionTimeout (tile : Fin 16) (ch : Fin 16) (tag : BitVec 16)
  /-- LANDING_TRAIN: A landing trains after start-up, going down or replay failure, exchanging identities and failing
  outstanding transactions. (R633) -/
  | landingTrain (l : Fin 16) (peer : BitVec 6) (peerKey : BitVec 16) (peerL : BitVec 4) (good : List (Fin 26))
  /-- LANDING_DOWN: A landing goes down; routes stop choosing it and its outstanding transactions fail. (R617) -/
  | landingDown (l : Fin 16)
  /-- LANE_SPARE: A lane over its error threshold or out of lock moves onto a spare, or the landing retrains at 12 lanes.
  (R600) -/
  | laneSpare (l : Fin 16) (lane : Fin 26)
  /-- LANE_SWAP_TEST: A spare takes over a logical lane each XLCFG.TESTINTV minutes and the released lane is checked. (R602) -/
  | laneSwapTest (l : Fin 16)
  /-- LANE_CHECK_DONE: A released lane's 1 s PRBS-31 check ends and it becomes a spare or is retired. (R602) -/
  | laneCheckDone (l : Fin 16) (lane : Fin 26) (pass : Bool)
  /-- XRTDAT_WRITE: A route entry write takes effect for each source stream once it has no unacknowledged transaction to the
  destination. (R616) -/
  | xrtdatWrite (value : BitVec 32)
  /-- CBLPRS_FALL: A crossing cable is inserted and VCBL is switched on 10 ms later. (R734) -/
  | cblprsFall (l : Fin 16)
  /-- CBLPRS_RISE: A crossing cable is removed; the landing goes down and VCBL is switched off. (R734) -/
  | cblprsRise (l : Fin 16)
  /-- CABLE_OVERCURRENT: A cable drawing more than 12 W is switched off within 100 µs and its landing goes down. (R733) -/
  | cableOvercurrent (l : Fin 16)
  /-- VERIFY: The VERIFY command checks a staged image under R702 and copies it into the inactive bank. (R703) -/
  | verify (image : Image)
  /-- HANDOVER: The HANDOVER command moves tiles in turn to the staged image, the lead tile last, then starts probation.
  (R704) -/
  | handover
  /-- REVERT: FWCMD action 3 reverts to the other image bank by hand-over. (R703) -/
  | revert
  /-- PROBATION_END: 60 s of probation end; the new bank becomes active and SVN may rise, or on a failure every tile
  reverts. (R706) -/
  | probationEnd (fail : Bool)
  /-- BLACK_BOX_COMMIT: A tile commits the oldest queued happening as a 256-byte record in two halves. (R716) -/
  | blackBoxCommit (t : Fin 16)
  /-- TRACE_RECORD_OBSERVED: A trace record becomes globally observed and TRCTAIL advances. (R711) -/
  | traceRecordObserved (p : Fin 4)
  /-- TRCCTL_WRITE: A TRCCTL write enables or disables tracing, with EN staying 0 for an invalid size. (R711) -/
  | trcctlWrite (p : Fin 4) (value : BitVec 32)
  /-- COUNTER_FREEZE: Writing PMCTL.FREEZE = 1 stops every counter at one tick. (R714) -/
  | counterFreeze
  /-- COUNTER_RESTART: Writing PMCTL.FREEZE = 0 restarts every counter at one tick. (R714) -/
  | counterRestart
  /-- COUNTER_CLEAR: Writing PMCTL.CLEAR = 1 zeroes every counter and OVF at one tick. (R714) -/
  | counterClear
  /-- NBIDX_WRITE: A write to NBIDX selects a channel and resets its MAXWAIT. (R269) -/
  | nbidxWrite (value : BitVec 32)
  /-- MEIDX_WRITE: A write to MEIDX selects a tile and clears its MEHOLD fields. (R337) -/
  | meidxWrite (value : BitVec 32)
  /-- VEIDX_WRITE: A write to VEIDX selects a tile and context and clears the tile's VEHOLD fields. (R382) -/
  | veidxWrite (value : BitVec 32)
  /-- FEIDX_WRITE: A write to FEIDX selects a tile and channel and clears that channel's FEHOLD fields. (R434) -/
  | feidxWrite (value : BitVec 32)
  /-- SQIDX_WRITE: A write to SQIDX selects a context and register and clears its SQCNT fields. (R470) -/
  | sqidxWrite (value : BitVec 32)
  /-- CLKIDX_WRITE: A write to CLKIDX selects a tile and resets CLKMON.MIN, MAX and ADMSTAT.MAXW. (R665) -/
  | clkidxWrite (value : BitVec 32)
  /-- REGISTER_WRITE: A write to a register with no row of its own updates its writable fields, ignoring reserved bits and
  the values its table says are ignored. (R14) -/
  | registerWrite (port : Fin 4) (vf : Fin 17) (off : BitVec 24) (value : BitVec 64)
  /-- PORT_LINK_UP: A host port's PCIe/CXL link trains and comes up at some speed and width, after power-on, a link-down, a
  reset or the arrival of REFCLK. (R523) -/
  | portLinkUp (p : Fin 4) (speed : Fin 4) (width : Fin 3) (flit : Bool) (cache : Bool) (mem : Bool)
  /-- GLOBALLY_OBSERVED: The host returns GO, or an error completion, for a device write to host memory such as a
  completion, event, ring control line or mailbox write. (R544) -/
  | globallyObserved (id : Nat) (ok : Bool)
  /-- MMUL_KEEP_COMPLETION: An MMUL with KEEP = 1 reaches its completion cycle E, with its roods complete in the front
  accumulators, and its tally advances. (R315) -/
  | mmulKeepCompletion (tile : Fin 16)
  /-- HUB_LOGIC_FAULT: A hub reports an uncorrectable logic fault; a second within one hour retires its tile. (R698) -/
  | hubLogicFault (t : Fin 16)
  /-- MESH_SWITCH_FAILURE: The mesh switch of a retired tile fails, and traffic routed through it takes the alternative
  routes of R30. (R30) -/
  | meshSwitchFailure (t : Fin 16)
  /-- SELF_CHECK_FAILURE: A tile fails its self-check during firmware probation, and every tile is handed back to the old
  image with FWSTAT.RESULT 4. (R705) -/
  | selfCheckFailure (t : Fin 16)
  /-- SIDEBAND_IMAGE_WRITE: A new management-core image is written to the module over the I3C sideband or management
  Ethernet, ready for VERIFY. (R703) -/
  | sidebandImageWrite (image : Image)
  deriving DecidableEq, Repr

end Sys2Proof
end

