-- ==== Sys2Proof/WellFormed.lean ====
section
/-! DEFINITION. Which commands are well formed: the shapes of the lists a command carries. Widths and ranges are in the
operands' types. -/

namespace Sys2Proof

open Sys2Proof.Machine

/-- One token for each of the 64 partitions (18 R678). -/
def tokensOk (l : List (BitVec 64)) : Bool := l.length == 64

/-- A start-up report names hubs, stacks, channels, banks and parcels that exist (18 R666). -/
def reportOk (r : BootReport) : Bool :=
  r.badVerify.all (fun t => decide (t < 16)) && r.badSelf.all (fun t => decide (t < 16)) &&
    r.sweeps.all (fun e => decide (e.2.length ≤ 4)) &&
    r.badSpareRows.all (fun e => decide (e.1 < 73728) && decide (e.2 < 512)) && r.badParcels.all (fun p => decide (p < 8192)) &&
    r.lostTiles.all (fun t => decide (t < 16)) && tokensOk r.tokens && r.badSlices.all (fun e => decide (e.1 < 16) && decide (e.2 < 21))

/-- The message carries as many lines as its header says (16 R618). -/
def linesOk (hdr : BitVec 128) (n : Nat) : Bool := field hdr.toNat 4 3 == n && decide (n ≤ 4)

/-- The checks of a command's operands. -/
def Instr.wellFormed : Instr → Bool
  | .powerOn r => reportOk r
  | .warmReset r => reportOk r
  | .powerReturn r => reportOk r
  | .watchdogExpiry _ r => reportOk r
  | .powerFail _ tokens => tokensOk tokens
  | .portLinkDown _ tokens => tokensOk tokens
  | .hotReset _ _ tokens => tokensOk tokens
  | .perstAssert _ tokens => tokensOk tokens
  | .dieTempSample _ temps => decide (1 ≤ temps.length) && decide (temps.length ≤ 25)
  | .hashRecordWrite masks => masks.length == 9
  | .landingTrain _ _ _ _ good => decide good.Nodup
  | .remoteWr _ hdr data => linesOk hdr data.length
  | .rdr _ hdr data => linesOk hdr data.length
  | .gop _ _ _ _ _ _ _ _ _ _ _ _ _ data pois => data.length == pois.length
  | .ccl _ _ => true
  | .bbw _ _ _ => true
  | .scrubRow _ => true
  | .crystalQualified _ => true
  | .crystalQualifyTimeout _ => true
  | .coolantQualified => true
  | .inputLoss => true
  | .crystalAmplitudeLost _ => true
  | .edgeCountWindowEnd _ _ => true
  | .standbyPllLock _ => true
  | .domainSwitch _ => true
  | .forwardedReferenceLost _ => true
  | .timestampSync _ _ => true
  | .timestampCheckpoint => true
  | .ptmExchange _ => true
  | .powerAverageUpdate _ _ _ _ _ _ => true
  | .nearBankHold => true
  | .governorWindowEnd => true
  | .coolantFault => true
  | .coolantRecover => true
  | .thermalLevel5Timeout _ => true
  | .thermalHalfPeriod _ => true
  | .hubTempSample _ _ => true
  | .admissionGrant _ _ => true
  | .gateOn _ _ _ _ => true
  | .gateOff _ _ _ _ => true
  | .sliceGate _ _ => true
  | .sliceUngate _ _ => true
  | .cxlMemRead _ _ _ => true
  | .cxlMemWrite _ _ _ _ => true
  | .decoderCommit _ _ _ _ _ => true
  | .decoderUncommit _ => true
  | .biResponse _ _ _ => true
  | .biTimeout _ _ => true
  | .snpinv _ _ => true
  | .watchedLineRead _ _ _ => true
  | .descriptorFetch _ _ _ => true
  | .flagPerform _ _ => true
  | .pdrainRead _ _ => true
  | .cohstatRead _ => true
  | .aptdatWrite _ _ => true
  | .peerApertureRead _ _ _ => true
  | .peerApertureWrite _ _ _ _ _ => true
  | .getMeasurements _ => true
  | .getCertificate _ => true
  | .functionLevelReset _ _ => true
  | .partitionReset _ => true
  | .slotClear _ => true
  | .slotClearDone _ => true
  | .suctlWrite _ _ => true
  | .start _ => true
  | .halt _ => true
  | .load _ _ => true
  | .bind _ => true
  | .unbind _ => true
  | .discard _ => true
  | .copy _ => true
  | .flush _ => true
  | .code _ => true
  | .fence _ => true
  | .reset _ => true
  | .attach _ => true
  | .pcreate _ => true
  | .pdestroy _ => true
  | .pslot _ => true
  | .pctx _ => true
  | .pvf _ => true
  | .stepFetch _ _ => true
  | .nop _ => true
  | .endStep _ => true
  | .replay _ => true
  | .replayRepeat _ => true
  | .xld _ => true
  | .xst _ => true
  | .xset _ => true
  | .amov _ => true
  | .cmset _ => true
  | .split _ => true
  | .mbxr _ => true
  | .mbxw _ => true
  | .event _ => true
  | .scratchpadAccessEnd _ => true
  | .mmul _ => true
  | .mwake _ => true
  | .meStepStart _ => true
  | .meWaveStart _ => true
  | .fpqPanelEntry _ => true
  | .keepmaxExpiry _ => true
  | .peMismatch _ _ => true
  | .sliceTestDone _ _ => true
  | .sliceSwapTest _ => true
  | .vchain _ => true
  | .veStepStart _ => true
  | .vePanelEntry _ => true
  | .veStepComplete _ => true
  | .fcopy _ => true
  | .fxpose _ => true
  | .fgather _ => true
  | .fscatter _ => true
  | .ferryStepStart _ _ _ _ => true
  | .overlapHoldGrant _ _ => true
  | .ferryStepComplete _ _ => true
  | .ferryFault _ _ _ _ _ _ _ _ => true
  | .nbpass _ => true
  | .nbPass _ _ _ _ _ _ => true
  | .nbpassComplete _ => true
  | .yieldPoint _ => true
  | .passAbandon _ => true
  | .blockFold _ _ => true
  | .recomputeRebuild _ => true
  | .recomputeDone _ => true
  | .cruDrain _ _ => true
  | .nbrdyRise _ => true
  | .rowNop _ => true
  | .act _ _ _ _ _ => true
  | .pre _ _ _ _ => true
  | .ref _ _ _ => true
  | .powerDownEntry _ _ => true
  | .selfRefreshEntry _ _ => true
  | .stackSelfRefreshEntry _ => true
  | .stackSelfRefreshExit _ => true
  | .mrw _ _ _ _ _ => true
  | .nbe _ => true
  | .nbx _ => true
  | .aha _ _ _ _ => true
  | .swt _ => true
  | .nrf _ => true
  | .nnr _ _ _ => true
  | .bbq _ _ => true
  | .columnNop _ => true
  | .rd _ _ _ _ _ => true
  | .wr _ _ _ _ _ _ => true
  | .mrr _ _ _ => true
  | .cfgw _ _ _ => true
  | .acr _ _ _ _ _ flips => decide (flips.length ≤ 4)
  | .acl _ _ _ _ => true
  | .str _ _ flips => decide (flips.length ≤ 4)
  | .rowDisturbanceAlert _ _ => true
  | .throttleHoldEnd _ _ _ => true
  | .owedWordlineRefresh _ _ => true
  | .commandErrorAlert _ _ _ _ _ _ _ _ => true
  | .commandReissue _ _ => true
  | .channelAccept _ _ _ _ _ _ _ _ _ _ => true
  | .arbitrationPoint _ => true
  | .arbWindowEnd => true
  | .writeDrain _ _ => true
  | .rowCloseTimeout _ _ => true
  | .refreshDue _ _ _ => true
  | .hotBankWindowEnd _ => true
  | .recentre _ _ _ => true
  | .fullRowDecode _ => true
  | .fullRowDecodeDone _ => true
  | .scrubPassStart => true
  | .scrubRankWake _ _ => true
  | .repairFlip _ => true
  | .reencodeRow _ => true
  | .slotMove _ => true
  | .slotMoveFlip _ => true
  | .modidDkeyWrite _ _ => true
  | .tileRetire _ _ _ => true
  | .spareTest _ _ _ _ _ _ _ => true
  | .swapTestReturn _ _ => true
  | .swapTestDone _ _ => true
  | .scratchpadCorrectWriteback _ _ _ => true
  | .windowClearDone _ => true
  | .translate _ _ _ _ _ => true
  | .translationEnd _ => true
  | .gbar _ => true
  | .gbcast _ => true
  | .gred _ => true
  | .gsnap _ => true
  | .globalOpComplete _ => true
  | .globalTimeout _ => true
  | .flitReceive _ _ _ _ => true
  | .linkControl _ _ _ => true
  | .ackSend _ => true
  | .replayTimeout _ => true
  | .remoteRd _ _ => true
  | .wack _ _ => true
  | .lfn _ _ _ => true
  | .transactionTimeout _ _ _ => true
  | .landingDown _ => true
  | .laneSpare _ _ => true
  | .laneSwapTest _ => true
  | .laneCheckDone _ _ _ => true
  | .xrtdatWrite _ => true
  | .cblprsFall _ => true
  | .cblprsRise _ => true
  | .cableOvercurrent _ => true
  | .verify _ => true
  | .handover => true
  | .revert => true
  | .probationEnd _ => true
  | .blackBoxCommit _ => true
  | .traceRecordObserved _ => true
  | .trcctlWrite _ _ => true
  | .counterFreeze => true
  | .counterRestart => true
  | .counterClear => true
  | .nbidxWrite _ => true
  | .meidxWrite _ => true
  | .veidxWrite _ => true
  | .feidxWrite _ => true
  | .sqidxWrite _ => true
  | .clkidxWrite _ => true
  | .registerWrite _ _ _ _ => true
  | .portLinkUp _ _ _ _ _ _ => true
  | .globallyObserved _ _ => true
  | .mmulKeepCompletion _ => true
  | .hubLogicFault _ => true
  | .meshSwitchFailure _ => true
  | .selfCheckFailure _ => true
  | .sidebandImageWrite _ => true

end Sys2Proof
end

