-- ==== Sys2Proof/Machine/Float.lean ====
section
/-! DEFINITION. The number formats of the module as exact dyadic values, and rounding (05 R170, R181 to R186;
08, 09). -/

namespace Sys2Proof.Machine

/-- A value of a floating-point format: a NaN, an infinity, or sign and magnitude m × 2^e (a zero keeps its sign). -/
inductive Fl where
  | nan
  | inf (neg : Bool)
  | fin (neg : Bool) (m : Nat) (e : Int)
  deriving DecidableEq, Repr

/-- A format: exponent and mantissa widths, bias, and whether the top exponent is infinity and NaN (`ieee`)
or only the all-ones code is NaN. -/
structure Fmt where
  ew : Nat
  mw : Nat
  bias : Int
  ieee : Bool
  deriving DecidableEq, Repr

/-- FP32. -/
def fp32 : Fmt := ⟨8, 23, 127, true⟩
/-- BF16. -/
def bf16 : Fmt := ⟨8, 7, 127, true⟩
/-- FP16. -/
def fp16 : Fmt := ⟨5, 10, 15, true⟩
/-- FP8 E4M3: no infinity, S.1111.111 is NaN (05 R170). -/
def e4m3 : Fmt := ⟨4, 3, 7, false⟩
/-- FP8 E5M2 (05 R170). -/
def e5m2 : Fmt := ⟨5, 2, 15, true⟩

/-- Bits of a code of the format. -/
def Fmt.width (f : Fmt) : Nat := 1 + f.ew + f.mw

/-- Exponent of the least bit of a subnormal. -/
def Fmt.emin (f : Fmt) : Int := 1 - f.bias - f.mw

/-- The value of a code (05 R170). -/
def Fmt.decode (f : Fmt) (w : Nat) : Fl :=
  let neg := flag w (f.ew + f.mw)
  let e := field w f.mw f.ew
  let m := field w 0 f.mw
  if f.ieee = true ∧ e = 2 ^ f.ew - 1 then (if m = 0 then .inf neg else .nan)
  else if f.ieee = false ∧ e = 2 ^ f.ew - 1 ∧ m = 2 ^ f.mw - 1 then .nan
  else if e = 0 then .fin neg m f.emin
  else .fin neg (2 ^ f.mw + m) (e - 1 + f.emin)

/-- Bits of `n`: 0 for 0, otherwise one more than its highest set bit. -/
def bitLen (n : Nat) : Nat := if n = 0 then 0 else Nat.log2 n + 1

/-- `a / 2^k` rounded to nearest, ties to even. -/
def shiftRne (a k : Nat) : Nat :=
  let q := a / 2 ^ k
  let r := a % 2 ^ k
  if k = 0 then a else if 2 ^ (k - 1) < r ∨ (r = 2 ^ (k - 1) ∧ q % 2 = 1) then q + 1 else q

/-- m × 2^e rounded to a multiple of 2^q. -/
def roundAt (m : Nat) (e q : Int) : Nat :=
  if q ≤ e then m * 2 ^ (e - q).toNat else shiftRne m (q - e).toNat

/-- The magnitude code of m × 2^e in the format, rounded to nearest, ties to even; a code above the finite
range is left as it comes out. -/
def Fmt.magnitude (f : Fmt) (m : Nat) (e : Int) : Nat :=
  let q := max (e + bitLen m - (f.mw + 1 : Nat)) f.emin
  (q - f.emin).toNat * 2 ^ f.mw + roundAt m e q

/-- The largest finite magnitude code. -/
def Fmt.maxCode (f : Fmt) : Nat :=
  if f.ieee then (2 ^ f.ew - 1) * 2 ^ f.mw - 1 else 2 ^ (f.ew + f.mw) - 2

/-- The sign bit. -/
def Fmt.signBit (f : Fmt) (neg : Bool) : Nat := if neg then 2 ^ (f.ew + f.mw) else 0

/-- The NaN code: positive quiet NaN, or the all-ones code. -/
def Fmt.nanCode (f : Fmt) : Nat :=
  if f.ieee then (2 ^ f.ew - 1) * 2 ^ f.mw + 2 ^ (f.mw - 1) else 2 ^ (f.ew + f.mw) - 1

/-- Rounding with overflow to infinity (formats that have one). -/
def Fmt.encode (f : Fmt) (v : Fl) : Nat :=
  match v with
  | .nan => f.nanCode
  | .inf neg => f.signBit neg + (2 ^ f.ew - 1) * 2 ^ f.mw
  | .fin neg m e =>
    if m = 0 then f.signBit neg
    else
      let c := f.magnitude m e
      f.signBit neg + (if c ≤ f.maxCode then c else if f.ieee then (2 ^ f.ew - 1) * 2 ^ f.mw else f.maxCode)

/-- FP32 of a value (05 R182, R186: every NaN produced is 0x7FC0_0000). -/
def toF32 (v : Fl) : BitVec 32 := BitVec.ofNat 32 (fp32.encode v)

/-- The value of an FP32 code. -/
def ofF32 (w : BitVec 32) : Fl := fp32.decode w.toNat

/-- Signed dyadic m × 2^e as a value; an exact zero is +0. -/
def flOfInt (m : Int) (e : Int) : Fl := .fin (decide (m < 0)) m.natAbs e

/-- The signed mantissa. -/
def sgn (neg : Bool) (m : Nat) : Int := if neg then -(m : Int) else m

/-- Exact sum, as IEEE 754: opposite infinities give NaN; an exact zero sum is +0 unless both are −0. -/
def Fl.add (a b : Fl) : Fl :=
  match a, b with
  | .nan, _ => .nan
  | _, .nan => .nan
  | .inf x, .inf y => if x = y then .inf x else .nan
  | .inf x, _ => .inf x
  | _, .inf y => .inf y
  | .fin x m e, .fin y n d =>
    if m = 0 ∧ n = 0 then .fin (x && y) 0 0
    else if m = 0 then .fin y n d
    else if n = 0 then .fin x m e
    else
      let l := min e d
      flOfInt (sgn x m * 2 ^ (e - l).toNat + sgn y n * 2 ^ (d - l).toNat) l

/-- Exact product: infinity times zero is NaN. -/
def Fl.mul (a b : Fl) : Fl :=
  match a, b with
  | .nan, _ => .nan
  | _, .nan => .nan
  | .inf x, .inf y => .inf (x != y)
  | .inf x, .fin y n _ => if n = 0 then .nan else .inf (x != y)
  | .fin x m _, .inf y => if m = 0 then .nan else .inf (x != y)
  | .fin x m e, .fin y n d => .fin (x != y) (m * n) (e + d)

/-- The value with its sign turned. -/
def Fl.neg : Fl → Fl
  | .nan => .nan
  | .inf x => .inf (!x)
  | .fin x m e => .fin (!x) m e

/-- Value of an E2M1 code (05 R170): 0, 0.5, 1, 1.5, 2, 3, 4, 6, in halves; both zeros are zero. -/
def e2m1 (w : Nat) : Fl :=
  .fin (flag w 3 && field w 0 3 != 0) ([0, 1, 2, 3, 4, 6, 8, 12].getD (field w 0 3) 0) (-1)

/-- Value of an E8M0 code: 2^(e − 127), or NaN for 255 (05 R170). -/
def e8m0 (w : Nat) : Fl := if w % 256 = 255 then .nan else .fin false 1 ((w % 256 : Nat) - 127)

/-- FP32 sum, one rounding. -/
def addF32 (a b : BitVec 32) : BitVec 32 := toF32 ((ofF32 a).add (ofF32 b))

/-- FP32 product, one rounding. -/
def mulF32 (a b : BitVec 32) : BitVec 32 := toF32 ((ofF32 a).mul (ofF32 b))

/-- `x` limited to 32-bit two's complement, and whether it was limited (05 R183). -/
def satI32 (x : Int) : Int × Bool :=
  let y := clampInt (-2147483648) 2147483647 x
  (y, y != x)

/-- INT32 sum that saturates. -/
def addI32 (a b : BitVec 32) : BitVec 32 × Bool :=
  let r := satI32 (a.toInt + b.toInt)
  (BitVec.ofInt 32 r.1, r.2)

/-- m × 2^e as a whole number of 2^-25, for the products of R181. -/
def unit25 (m : Int) (e : Int) : Int := if -25 ≤ e then m * 2 ^ (e + 25).toNat else m / 2 ^ (-25 - e).toNat

/-- A value as an exact block sum (05 R181, R185). -/
def extOf : Fl → Ext
  | .nan => .nan
  | .inf n => .inf n
  | .fin n m e => .fin (unit25 (sgn n m) e)

/-- Sum of block sums: a NaN, or both infinities, gives NaN (05 R185). -/
def Ext.add : Ext → Ext → Ext
  | .nan, _ => .nan
  | _, .nan => .nan
  | .inf a, .inf b => if a = b then .inf a else .nan
  | .inf a, .fin _ => .inf a
  | .fin _, .inf b => .inf b
  | .fin a, .fin b => .fin (a + b)

end Sys2Proof.Machine
end

