-- ==== Sys2Proof/Config.lean ====
section
/-! DEFINITION. What an implementation fixes and the values the spec leaves open. An opaque constant has no body a proof
could see: a statement about it holds for every value (log entry 7). -/

namespace Sys2Proof.Config

/-- A value the spec leaves open, drawn fresh: the argument is the draw's number. -/
opaque freeWord : Nat → BitVec 64

/-- A byte the spec leaves open, drawn fresh. -/
opaque freeByte : Nat → BitVec 8

/-- A line the spec leaves open, drawn fresh. -/
opaque freeLine : Nat → BitVec 512

/-- Cells of the stacks that change by themselves in an engine cycle: row key and bit of the row, drawn fresh (02 R31; 03 R77, R86: the spec says
what a failed check brings, and not when cells fail). -/
opaque upset : Nat → List (Nat × Nat)

/-- SHA-384 (18 R702, R708: the function is FIPS 180-4, which the spec names and does not restate). -/
opaque sha384 : List (BitVec 8) → BitVec 384

/-- Digest of the boot ROM (18 R708 index 1: it never changes). -/
opaque bootRom : BitVec 384

/-- SHA-384 hash of the public key in the fuses (18 R702). -/
opaque fuseKey : BitVec 384

/-- The certificate chain rooted in the device authority (18 R708). -/
opaque certChain : List (BitVec 8)

/-- The ADDR field of a GOP message (16 R618: "GOP fields", whose layout the spec does not give). -/
opaque gopFields : List Nat → BitVec 48

/-- 64-byte credits of a landing's receive buffers: class x 4 + level - 1 (16 R605, R615, R633: the spec does not give their size). -/
opaque rxBuffers : Nat → BitVec 8

/-- Trim code of a hub's internal oscillator, from its fuses (17 R635, R665). -/
opaque oscTrim : Nat → BitVec 8

/-- Stepping code of the hubs (12 R486). -/
def stepping : Nat := 2

/-- Model version (12 R486). -/
def model : Nat := 1

end Sys2Proof.Config
end

