-- ==== Sys2Proof/Machine/State.lean ====
section
/-! DEFINITION. The state of the module as plain data, the state at reset, and the reasons a command can stop. -/

namespace Sys2Proof.Machine

/-- A descriptor started and not completed: where its completion goes. -/
structure DescRef where
  /-- set-up page (17*port + vf) (15 R588) -/
  page : Nat := 0
  /-- the descriptor's own number in the model (15 R573) -/
  serial : Nat := 0
  /-- TAG (15 R579) -/
  tag : BitVec 32 := 0
  /-- IRQ (15 R579) -/
  irq : Bool := false
  deriving DecidableEq, Repr

/-- Parcel-map entry of one service slot (R61) with the clear, move and re-encode in progress. -/
structure Slot where
  /-- physical parcel bound to the slot; reset per R53: (s mod 16)*512 + s div 16 (02 R53,R61) -/
  phys : Nat := 0
  /-- page-code strength in force (02 R61) -/
  code : Nat := 2
  /-- strength the owner requests, if any (03 R110) -/
  codeReq : Option Nat := none
  /-- bulk, shared or device-own (02 R61) -/
  cls : SlotClass := .bulk
  /-- owning partition (OWNER/OWNED) (02 R61) -/
  owner : Option Nat := none
  /-- a clear of the slot is queued or in progress (15 R584) -/
  clearing : Bool := false
  /-- the tile is writing the clear (15 R584) -/
  clearBusy : Bool := false
  /-- the slot is freed when its clear ends (15 R586) -/
  release : Bool := false
  /-- target parcel of a move in progress (MOVING) (02 R55) -/
  moveTo : Option Nat := none
  /-- the move's copy has ended: channels that have passed a yield point since see the target (02 R56) -/
  flipping : Bool := false
  /-- re-encode in progress: target strength and rows done (03 R111) -/
  reenc : Option (Nat × Nat) := none
  /-- CODE descriptor that completes when the re-encode ends (15 R580) -/
  codeDesc : Option DescRef := none
  /-- PSLOT descriptor that completes when the clear ends (15 R580) -/
  slotDesc : Option DescRef := none
  /-- slot counted lost (18 R672,R688) -/
  lost : Bool := false
  /-- no storage: slot stays bound to a retired parcel (18 R701) -/
  dead : Bool := false
  deriving DecidableEq, Repr

/-- What the management core keeps of one physical parcel. -/
structure Parcel where
  /-- strength its rows are encoded with while it is bound to no slot and its wear floor is not yet reached (03 R111) -/
  code : Option Nat := none
  /-- re-encode in progress while it is bound to no slot: target strength and rows done (03 R111) -/
  reenc : Option (Nat × Nat) := none
  /-- the parcel is retired (03 R108) -/
  retired : Bool := false
  /-- wear floor (03 R109) -/
  floor : Nat := 0
  /-- rows at or above the raise threshold in this scrub pass (03 R107) -/
  raised : Nat := 0
  /-- this scrub pass has raised the parcel's strength (03 R107) -/
  stepped : Bool := false
  deriving DecidableEq, Repr

/-- Outer-check area of one row: metadata word, parity, activation tally and row spare. -/
structure RowMeta where
  /-- CODE, strength the row is encoded with, where it is not that of its parcel (R111) (03 R83) -/
  code : Option Nat := none
  /-- POISON (03 R83) -/
  poison : Bool := false
  /-- LASTCORR (03 R83) -/
  lastCorr : Nat := 0
  /-- STRIKES (03 R83) -/
  strikes : Nat := 0
  /-- ROWTAG; reset: the row's own index (03 R83) -/
  tag : Nat := 0
  /-- EPOCH (03 R83) -/
  epoch : Nat := 0
  /-- bits of the row whose cells differ from what was last written there, rising: 272 x column position + bit, bits 0-255 the data,
  256-271 the check bytes or, in positions 64-67, the metadata word (02 R31; 03 R81,R83) -/
  errs : List Nat := []
  /-- activation tally of the wordline that holds the row (04 R146) -/
  tally : Nat := 0
  /-- spare row in use for the row: subarray*8 + index (02 R38) -/
  spare : Option Nat := none
  deriving DecidableEq, Repr

/-- Spares drawn in one bank. -/
structure BankSpares where
  /-- spare rows in use, subarray*8 + index (0-511) (02 R38) -/
  rows : List Nat := []
  /-- spare rows marked unusable (18 R670,R693) -/
  badRows : List Nat := []
  /-- spare rows that were in use and have been retired since (02 R73) -/
  spent : Nat := 0
  /-- column positions (0-67) replaced by a spare column, with its number (0-3) (02 R39) -/
  cols : List (Nat × Nat) := []
  /-- spare columns marked unusable (18 R670,R693) -/
  badCols : List Nat := []
  /-- per column position, rows corrected in this scrub pass (18 R692) -/
  colHits : Tab Nat := []
  deriving DecidableEq, Repr

/-- A repair decided on, its contents being copied, that waits for its flip (R42). -/
structure Repair where
  /-- 0 row, 1 bank, 2 die, 3 column position (02 R36 to R39) -/
  kind : Nat := 0
  /-- row key of a row, otherwise the module bank (02 R42) -/
  at_ : Nat := 0
  /-- spare row (subarray x 8 + index), or column position (02 R38,R39) -/
  spare : Nat := 0
  /-- the row is under R84: the spare row is written poisoned (03 R84) -/
  wrong : Bool := false
  deriving DecidableEq, Repr

/-- A request waiting in a channel's queue. -/
structure Req where
  /-- requester identifier (04 R119) -/
  who : Nat := 0
  /-- initiating partition (04 R119) -/
  part : Option Nat := none
  /-- bank of the channel, 2*rank + bank bit (04 R120) -/
  bank : Nat := 0
  /-- row (04 R120) -/
  row : Nat := 0
  /-- line of the row (column pair) (02 R35) -/
  line : Nat := 0
  /-- write (04 R120) -/
  write : Bool := false
  /-- data of a write (04 R121) -/
  data : BitVec 512 := 0
  /-- byte enables of a write (03 R94) -/
  mask : BitVec 64 := 0
  /-- data of the write is poisoned (03 R91) -/
  poison : Bool := false
  /-- where the answer of a read goes: 0 its requester, 1 its port and that port's read buffer, 2 the read buffer alone, 3 the host through
  the home line cache (14 R532, R538) -/
  fill : Nat := 0
  /-- order of acceptance (04 R122) -/
  seq : Nat := 0
  /-- column commands the request uses (68: a whole row) (04 R126) -/
  cols : Nat := 2
  /-- service address (14 R557) -/
  addr : Nat := 0
  /-- stream it belongs to (65*source + partition; source 0-3 ports, 4-19 landings) (14 R547) -/
  stream : Option Nat := none
  /-- stream interval it was accepted in (14 R549) -/
  epoch : Nat := 0
  /-- aperture entry and address of a peer's write (14 R557) -/
  peer : Option (Nat × Nat) := none
  /-- header of a write received over a landing (16 R622) -/
  hdr : Option (BitVec 128) := none
  /-- ferry channel (tile, channel) whose write it is (10 R431) -/
  fe : Option (Nat × Nat) := none
  /-- engine cycle of acceptance (04 R132) -/
  at_ : Nat := 0
  deriving DecidableEq, Repr

/-- A full-row decode asked for or in progress (R87). -/
structure Decode where
  /-- module bank x 65536 + row (03 R87) -/
  row : Nat := 0
  /-- column whose check failed (03 R87) -/
  col : Nat := 0
  /-- PATH (03 R117) -/
  path : Nat := 0
  /-- initiating partition (03 R117) -/
  part : Option Nat := none
  /-- ADDR of its log entries (03 R117) -/
  addr : Nat := 0
  /-- the read request that waits for it, if it is not a lone RD (03 R90) -/
  req : Option Req := none
  deriving DecidableEq, Repr

/-- Spares of one stack (R36, R37) and its swap test. -/
structure StackSpares where
  /-- rank the spare die answers for (DIEUSED, DIEPOS) (02 R36,R73) -/
  die : Option Nat := none
  /-- spare banks in use: rank, channel half, bank of the channel half (channel*2+bit) (02 R37) -/
  banks : List (Nat × Nat × Nat) := []
  /-- the spare die is unusable (18 R670) -/
  badDie : Bool := false
  /-- unusable spare banks: rank, half (18 R670,R693) -/
  badBanks : List (Nat × Nat) := []
  /-- bank under swap test: rank, half, bank (18 R694) -/
  testing : Option (Nat × Nat × Nat) := none
  /-- row and column repairs of the bank under swap test, which come back with it (02 R40; 18 R694) -/
  swapTable : BankSpares := {}
  /-- rows of the bank under swap test and their spare rows (02 R40; 18 R694) -/
  swapRows : List (Nat × Nat) := []
  /-- repairs being copied that wait for their flip, oldest first (02 R42; 05 R210) -/
  pendingRepair : List Repair := []
  /-- spares tested so far in service (18 R693) -/
  spareAt : Nat := 0
  /-- stack marked failed (04 R154) -/
  down : Bool := false
  /-- stack in stack self-refresh (STACKSR) (04 R143) -/
  sr : Bool := false
  /-- last die temperatures read (04 R137) -/
  temps : List Nat := []
  /-- thermal level of the stack (17 R663) -/
  level : Nat := 0
  /-- tREFW is 16 ms (04 R137) -/
  hot16 : Bool := false
  /-- near-bank passes held for the second half period (17 R663) -/
  half : Bool := false
  /-- requests to the stack held (level 5) (17 R663) -/
  hold : Bool := false
  /-- full-row decodes held for a decoder (03 R87) -/
  decWait : List Decode := []
  /-- full-row decodes in the four decoders (03 R90) -/
  decRun : List Decode := []
  deriving DecidableEq, Repr

/-- Row state of one bank of a channel. -/
structure Bank where
  /-- open row in conventional mode (06 R233) -/
  row : Option Nat := none
  /-- compute row (05 R201) -/
  compute : Option Nat := none
  /-- ahead row (05 R201) -/
  ahead : Option Nat := none
  /-- refresh counter k, 0-8255 (04 R136) -/
  refk : Nat := 0
  /-- refreshes postponed, 0-4, a fifth one due while the open row keeps the bank busy (04 R138) -/
  postponed : Nat := 0
  /-- refreshes issued early, 0-4 (04 R138) -/
  early : Nat := 0
  /-- owed wordlines, wordline*64 + subarray; at most two (06 R248) -/
  owed : List Nat := []
  /-- requester whose activation opened the row (04 R148) -/
  opener : Nat := 0
  /-- row whose alert waits for its neighbour refresh (06 R249) -/
  alert : Option Nat := none
  /-- engine cycle of the latest activate (04 R135) -/
  actAt : Nat := 0
  /-- engine cycle at which the latest precharge began (04 R135) -/
  preAt : Nat := 0
  deriving DecidableEq, Repr

/-- A row-disturbance throttle (R148). -/
structure Throttle where
  /-- requester (04 R148) -/
  who : Nat := 0
  /-- bank (04 R148) -/
  bank : Nat := 0
  /-- engine cycle of its latest activation of the bank, plus one (04 R148) -/
  last : Nat := 0
  /-- engine cycle at which the hold started (04 R148) -/
  since : Nat := 0
  deriving DecidableEq, Repr

/-- Where one drain of a near-bank step goes: its placed identity (R290) and its elements (R464). -/
structure DrainKey where
  /-- module context of the step (11 R464) -/
  ctx : Nat := 0
  /-- tile (11 R464) -/
  tile : Nat := 0
  /-- placed stack x 16 + channel (07 R290) -/
  chan : Nat := 0
  /-- cell index of the slice (11 R464) -/
  cell : Nat := 0
  /-- group of 64 output rows or tokens (11 R464) -/
  unit : Nat := 0
  /-- batch slot (11 R464) -/
  slot : Nat := 0
  /-- list entry (11 R464) -/
  entry : Nat := 0
  deriving DecidableEq, Repr

/-- A span pass of the near-bank sequencer on one channel (R254, R278). -/
structure Pass where
  /-- module context (06 R254) -/
  ctx : Nat := 0
  /-- the near-bank step's identity in its context (11 R462) -/
  step : Nat := 0
  /-- NBUCFG sent to the participating banks, WOFF apart (06 R221) -/
  cfg : Nat := 0
  /-- participating banks and their WOFF (06 R254) -/
  banks : List (Nat × Nat) := []
  /-- cell index of the pass (07 R274) -/
  cell : Nat := 0
  /-- rows of the stream streamed so far (06 R239) -/
  rowsDone : Nat := 0
  /-- the pass is to be abandoned at the next yield point (06 R257) -/
  abandon : Bool := false
  /-- reads of the pass still to make: bank, group, sum buffer and where its drain goes (06 R264) -/
  groups : List (Nat × Nat × Nat × DrainKey) := []
  /-- ranks whose STR of the pass is still to come (06 R268) -/
  strs : List Nat := []
  /-- place in the expert list (11 R462) -/
  entry : Nat := 0
  /-- round of eight slots (11 R463) -/
  round : Nat := 0
  /-- pass of the slice (07 R279) -/
  span : Nat := 0
  /-- rows of the span stream (06 R239) -/
  rows : Nat := 0
  /-- the yield point due before the next switch has been taken (06 R239) -/
  yielded : Bool := false
  /-- rows of the yield interval, from NBCFG.YROWS as it stood at the channel's latest yield point (06 R239, R269) -/
  interval : Nat := 2
  /-- rows streamed in the yield interval so far (06 R239) -/
  since : Nat := 0
  /-- service slot of the rows (02 R57) -/
  slot : Nat := 0
  /-- row-in-band of the span stream's first row (02 R57) -/
  inBand : Nat := 0
  /-- column position of the span stream's first column (05 R169) -/
  col : Nat := 0
  /-- columns of the span stream (05 R169) -/
  cols : Nat := 0
  /-- columns taken in so far (06 R239) -/
  taken : Nat := 0
  /-- outcome of the interval's test: a host-class request was waiting at the test instant (06 R241,R751) -/
  held : Option Bool := none
  deriving DecidableEq, Repr

/-- A command on a channel's row or column bus that the stack reported in error (R160). -/
structure BusCmd where
  /-- on the column bus (06 R217) -/
  column : Bool := false
  /-- its bits as they go over the bus (06 R216,R217) -/
  word : Nat := 0
  /-- requester (04 R119) -/
  who : Nat := 0
  /-- the request it serves is a write (04 R161) -/
  write : Bool := false
  /-- line it addresses (04 R161) -/
  line : Nat := 0
  /-- PATH of its requester (04 R161) -/
  path : Nat := 0
  /-- its data beat, check bytes above (06 R217) -/
  data : BitVec 272 := 0
  /-- times it has failed (04 R160) -/
  fails : Nat := 1
  /-- it is to be issued again after tRC (04 R160) -/
  waiting : Bool := true
  deriving DecidableEq, Repr

/-- One of the 1536 channels: queues, arbiter, modes, refresh, disturbance, training, near-bank state. -/
structure Channel where
  /-- NBSTAT.MODE (06 R269) -/
  mode : ChanMode := .conv
  /-- level of NBRDY (06 R220) -/
  nbrdy : Bool := true
  /-- holder of the pass lock: tile*4 + tile-local context (06 R254) -/
  lock : Option Nat := none
  /-- tile-local context of the last pass (06 R269) -/
  lastCtx : Nat := 0
  /-- partition of that context (06 R269) -/
  lastPart : Nat := 0
  /-- module context that last used the NBUs (06 R256) -/
  owner : Option Nat := none
  /-- read queue, at most 64 (04 R120) -/
  readQ : List Req := []
  /-- write queue, at most 64 (04 R120) -/
  writeQ : List Req := []
  /-- current grant: requester, column commands or intervals used (04 R126) -/
  grant : Option (Nat × Nat) := none
  /-- round-robin position of NBS contexts (04 R125) -/
  rrNbs : Nat := 0
  /-- round-robin position of ferry channels (04 R125) -/
  rrFer : Nat := 0
  /-- grants of each requester in the window (04 R128) -/
  grants : Tab Nat := []
  /-- a maintenance grant has fallen in the window (04 R129) -/
  mntDone : Bool := false
  /-- NBS contexts waiting for a grant, with the engine cycle they began to wait (04 R125) -/
  waitNbs : List (Nat × Nat) := []
  /-- banks 0-47 (04 R136) -/
  banks : Tab Bank := []
  /-- power state of ranks 0-23 (04 R141,R142) -/
  ranks : Tab RankPower := []
  /-- broadcast beat counter (06 R222) -/
  beat : Nat := 0
  /-- throttles in force (04 R148) -/
  throttles : List Throttle := []
  /-- requests per bank in the window (04 R151) -/
  hotCnt : Tab Nat := []
  /-- requests in the window (04 R151) -/
  hotTotal : Nat := 0
  /-- per bank, service slot of its last request (04 R151) -/
  hotLast : Tab Nat := []
  /-- per bank, engine cycle of its last hot-bank event, plus one (04 R151) -/
  hotAt : Tab Nat := []
  /-- SCSTAT.HOTBANK (04 R163) -/
  hotBank : Bool := false
  /-- SCSTAT.HOTIDX (04 R163) -/
  hotIdx : Nat := 0
  /-- SCSTAT.ALERTS (04 R163) -/
  alerts : Nat := 0
  /-- SCSTAT.CAERR (04 R163) -/
  caerr : Nat := 0
  /-- engine cycles of the latest 16 command errors, newest first (04 R162) -/
  caTimes : List Nat := []
  /-- command that the stack reported in error, as it goes over its bus, with its requester, and how often it has failed (04 R160) -/
  caHeld : Option BusCmd := none
  /-- SCSTAT.EYEMIN; none: every run of the start-up's sweep passed at every tap (04 R159,R163) -/
  eye : Option Nat := none
  /-- engine cycle of the latest re-centring (SCSTAT.TRNAGE counts minutes from it) (04 R163) -/
  trnAt : Nat := 0
  /-- re-centring waits for the next wake or yield point (04 R155,R158) -/
  recentreDue : Bool := false
  /-- the next re-centring is a full sweep (04 R162) -/
  sweepDue : Bool := false
  /-- read (0-16) and write (17-33) delay of each byte lane in taps; unlisted: 31, the centre of 64 passing taps (04 R153) -/
  taps : Tab Nat := []
  /-- next row that scrub reads in the running pass, bank x 65536 + row (03 R100) -/
  scrubAt : Nat := 0
  /-- per rank, engine cycle of scrub's latest wake of it, plus one (04 R145) -/
  scrubWoke : Tab Nat := []
  /-- NBSTAT.YIELDS (06 R269) -/
  yields : Nat := 0
  /-- NBSTAT.MAXWAIT (06 R269) -/
  maxWait : Nat := 0
  /-- NBSTAT.POSTPONED (06 R269) -/
  nrfPost : Nat := 0
  /-- slots whose map flip waits for the yield point (02 R56) -/
  flips : List Nat := []
  /-- measure 3: not granted to NBS contexts (17 R660) -/
  nbHold : Bool := false
  /-- span pass in progress (06 R254) -/
  pass : Option Pass := none
  /-- engine cycle of the latest NBE (MODE reads entering for tNBE after it) (06 R269) -/
  nbAt : Nat := 0
  /-- mode registers of the dies, rank*256 + register (06 R216) -/
  mrs : Tab Nat := []
  /-- the channel is at a yield point at which it leaves near-bank mode (06 R240) -/
  yield : Bool := false
  /-- engine cycle of the latest yield point, plus one; it lasts 3 bank cycles (06 R239) -/
  yieldAt : Nat := 0
  /-- engine cycle of the latest NBX (06 R252) -/
  nbxAt : Nat := 0
  /-- ranks that an ACL must clear before their next configuration (06 R267) -/
  needAcl : List Nat := []
  /-- near-bank mode was left at a yield point with the pass suspended (06 R243) -/
  yieldExit : Bool := false
  deriving DecidableEq, Repr

/-- A block whose fold is due (R190). -/
structure Fold where
  /-- B of the block (05 R182) -/
  slots : Nat := 1
  /-- accumulator set (05 R180) -/
  set : Nat := 0
  /-- weight format (05 R166) -/
  wfmt : Nat := 0
  /-- exact block sums, slot*64 + lane (05 R181) -/
  sums : Tab Ext := []
  /-- scale bytes by lane (05 R182) -/
  scale : Tab Nat := []
  /-- engine cycle from which the fold is in the accumulator (05 R190) -/
  due : Nat := 0
  deriving DecidableEq, Repr

/-- The compute cycles of a weight column (R205). -/
structure ColRun where
  /-- bank cycle of the next one (05 R205) -/
  at_ : Nat := 0
  /-- slot it computes (05 R205) -/
  slot : Nat := 0
  /-- local input of the column (05 R167,R168) -/
  input : Nat := 0
  /-- first lane (05 R168) -/
  lane0 : Nat := 0
  /-- lanes (05 R167,R168) -/
  lanes : Nat := 64
  /-- the column is its block's last (05 R190) -/
  last : Bool := false
  deriving DecidableEq, Repr

/-- Near-bank unit of one bank. -/
structure Nbu where
  /-- NBUCFG, VALID in bit 63 (05 R176) -/
  cfg : BitVec 64 := 0
  /-- POISON (05 R193) -/
  poison : BitVec 8 := 0
  /-- SAT (05 R193) -/
  sat : BitVec 8 := 0
  /-- CFGERR (05 R193) -/
  cfgerr : Bool := false
  /-- DISCARD (05 R193) -/
  discard : Bool := false
  /-- RANGE (05 R193) -/
  range : Bool := false
  /-- LOST (05 R193) -/
  lost : Bool := true
  /-- SEQERR (05 R193) -/
  seqerr : Bool := false
  /-- MULTI (05 R193) -/
  multi : Bool := false
  /-- FAULTV with FAULTROW and FAULTCOL (05 R193) -/
  fault : Option (Nat × Nat) := none
  /-- accumulators, group*64 + lane (05 R164) -/
  acc : Tab (BitVec 32) := []
  /-- bit g: the pass that last folded into group g was INT32 (05 R188) -/
  accInt : BitVec 8 := 0
  /-- activation buffer (05 R171) -/
  abuf : Tab (BitVec 8) := []
  /-- column counter inside the block (05 R178) -/
  col : Nat := 0
  /-- blocks of the pass completed: the block in progress is this one (05 R166) -/
  blk : Nat := 0
  /-- scale latch (05 R167) -/
  scale : Tab Nat := []
  /-- block-sum registers, slot*64 + lane (05 R181) -/
  sums : Tab Ext := []
  /-- folds on their way to the accumulators (05 R190) -/
  folds : List Fold := []
  /-- engine cycle at which the last column's compute cycles end (05 R204) -/
  busy : Nat := 0
  /-- column latch (05 R165) -/
  latch : BitVec 272 := 0
  /-- staging register: up to six broadcast beats of one bank cycle with their beat index, written to the buffer at its end (05 R173) -/
  staged : List (Nat × BitVec 256) := []
  /-- bank cycle of the staged beats (05 R173) -/
  stagedAt : Nat := 0
  /-- compute cycles of the latched column still to come (05 R205) -/
  run : Option ColRun := none
  deriving DecidableEq, Repr

/-- One lane of a CRU sum buffer (R258). -/
structure Lane where
  /-- exact sum, unit 2^-149 (FP32) or 1 (INT32) (06 R258) -/
  sum : Int := 0
  /-- NaN flag (06 R262) -/
  nan : Bool := false
  /-- +infinity flag (06 R262) -/
  pinf : Bool := false
  /-- -infinity flag (06 R262) -/
  ninf : Bool := false
  /-- poison flag (06 R261) -/
  poison : Bool := false
  /-- every input so far was -0 (06 R262) -/
  negz : Bool := true
  /-- an input has been added (06 R262) -/
  any : Bool := false
  /-- saturation flag (06 R258) -/
  sat : Bool := false
  deriving DecidableEq, Repr

/-- CRU sum buffer (R258). -/
structure SumBuf where
  /-- typed INT32 (06 R258) -/
  int : Bool := false
  /-- lanes 0-63 (06 R258) -/
  lanes : Tab Lane := []
  /-- holds undrained sums (06 R263) -/
  busy : Bool := false
  /-- where the drain goes (06 R263) -/
  dst : Option DrainKey := none
  /-- poison flag set for all 64 lanes (06 R261) -/
  pois : Bool := false
  /-- engine cycle of the last beat or rebuilt group (06 R265) -/
  lastAt : Nat := 0
  deriving DecidableEq, Repr

/-- A matrix step, queued or running (R308). -/
structure MeStep where
  /-- module context (08 R308) -/
  ctx : Nat := 0
  /-- native step index (08 R319) -/
  step : Nat := 0
  /-- 0 MMUL, 1 MWAKE (11 R442) -/
  op : Nat := 0
  /-- FMT (08 R299) -/
  fmt : Nat := 0
  /-- ASUB (08 R300) -/
  asub : Bool := false
  /-- BSUB (08 R300) -/
  bsub : Bool := false
  /-- ARR (08 R298) -/
  arr : Nat := 0
  /-- ORD (08 R311) -/
  ord : Bool := false
  /-- CONT (08 R309) -/
  cont : Bool := false
  /-- KEEP (08 R309) -/
  keep : Bool := false
  /-- M (08 R308) -/
  m : Nat := 0
  /-- N (08 R308) -/
  n : Nat := 0
  /-- K (08 R308) -/
  k : Nat := 0
  /-- ABASE (08 R301) -/
  abase : Nat := 0
  /-- ASTR (08 R301) -/
  astr : Int := 0
  /-- ASC (08 R302) -/
  asc : Nat := 0
  /-- ASCSTR (08 R302) -/
  ascstr : Int := 0
  /-- BBASE (08 R301) -/
  bbase : Nat := 0
  /-- BSTR (08 R301) -/
  bstr : Int := 0
  /-- BSC (08 R302) -/
  bsc : Nat := 0
  /-- BSCSTR (08 R302) -/
  bscstr : Int := 0
  /-- tally advanced at completion (11 R441) -/
  tadv : Option Nat := none
  /-- engine cycle of queue entry (11 R451) -/
  entry : Nat := 0
  deriving DecidableEq, Repr

/-- A finished panel with its 64-bit tag (R319). -/
structure Panel where
  /-- PROW (08 R319) -/
  prow : Nat := 0
  /-- PCOL (08 R319) -/
  pcol : Nat := 0
  /-- VROWS (08 R319) -/
  vrows : Nat := 0
  /-- VCOLS (08 R319) -/
  vcols : Nat := 0
  /-- INT (08 R319) -/
  int : Bool := false
  /-- POISON (08 R319) -/
  poison : Bool := false
  /-- SAT (08 R319) -/
  sat : Bool := false
  /-- LASTW (08 R319) -/
  lastw : Bool := false
  /-- LAST (08 R319) -/
  last : Bool := false
  /-- CTX (08 R319) -/
  ctx : Nat := 0
  /-- STEPTAG (08 R319) -/
  tag : Nat := 0
  /-- logical position that computed it (08 R317) -/
  pos : Nat := 0
  /-- element 32r + c (08 R319) -/
  elems : List (BitVec 32) := []
  deriving DecidableEq, Repr

/-- The running MMUL. -/
structure MeRun where
  /-- the step (08 R312) -/
  st : MeStep := {}
  /-- first operand cycle (08 R312) -/
  s0 : Nat := 0
  /-- waves started (08 R314) -/
  wave : Nat := 0
  /-- start cycle of the next wave (08 R314) -/
  start : Nat := 0
  /-- finished panels not yet in the FPQ, in emission order, each with its earliest entry cycle (08 R315) -/
  waiting : List (Nat × Panel) := []
  /-- one cycle after the entry of the previous panel (08 R315) -/
  due : Nat := 0
  /-- a panel of the step was poisoned (08 R332) -/
  poison : Bool := false
  /-- positions served when the step started (08 R298) -/
  nw : Nat := 20
  /-- GB (08 R298) -/
  gb : Nat := 20
  /-- start cycle of the wave started last (08 R314) -/
  lastStart : Nat := 0
  /-- positions lost to a retirement, their remaining panels poisoned (08 R336) -/
  lost : List Nat := []
  /-- a wave's operand cycles are in progress (08 R303) -/
  active : Bool := false
  /-- operand cycle of the wave in progress (08 R303) -/
  op : Nat := 0
  /-- scratchpad words of that cycle still to be served (08 R306) -/
  todo : List Nat := []
  /-- bytes read for the wave, and whether a word they came from was poisoned, by stream and operand cycle or scale block (08 R303; 10 R395) -/
  got : Tab (List (BitVec 8) × Bool) := []
  /-- scale bytes read ahead for the next wave's first block (08 R304) -/
  ahead : Tab (List (BitVec 8) × Bool) := []
  /-- positions with a mismatch in the wave in progress (08 R332) -/
  hit : List Nat := []
  deriving DecidableEq, Repr

/-- Resident roods (R309, R325). -/
structure Resident where
  /-- holder, tile-local (08 R325) -/
  ctx : Nat := 0
  /-- accumulator type (08 R308) -/
  int : Bool := false
  /-- ARR (08 R308) -/
  arr : Nat := 0
  /-- M (08 R308) -/
  m : Nat := 0
  /-- N (08 R308) -/
  n : Nat := 0
  /-- front accumulators, i*65536 + j (08 R297) -/
  acc : Tab (BitVec 32) := []
  /-- elements whose INT32 fold saturated (08 R320) -/
  sat : List Nat := []
  /-- positions whose rood is poisoned (08 R332, 10 R395) -/
  poison : List Nat := []
  deriving DecidableEq, Repr

/-- Matrix engine of one tile. -/
structure Matrix where
  /-- physical slice serving each position; NW is its length (08 R296) -/
  serve : List Nat := [0, 1, 2, 3, 4, 5, 6, 7, 8, 9, 10, 11, 12, 13, 14, 15, 16, 17, 18, 19]
  /-- free slice (08 R296) -/
  free : Option Nat := some 20
  /-- retired slices (08 R337) -/
  retired : List Nat := []
  /-- slice under test (08 R333) -/
  testing : Option Nat := none
  /-- MESTAT.FAULTS (08 R337) -/
  faults : Nat := 0
  /-- engine cycles of each slice's mismatches within the hour (08 R333) -/
  faultAt : Tab (List Nat) := []
  /-- position the free slice takes over at its next fresh rood (08 R333,R334) -/
  swapPos : Option Nat := none
  /-- position whose turn the next swap test is (08 R334) -/
  nextSwap : Nat := 0
  /-- slices whose clock runs (08 R328) -/
  ungated : List Nat := []
  /-- per slice, engine cycle at which its latest operand cycles end or it was ungated (08 R328) -/
  usedAt : Tab Nat := []
  /-- matrix queue, at most 16 (11 R451) -/
  queue : List MeStep := []
  /-- steps started and not complete, oldest first; the last one takes in operands (08 R312,R314) -/
  runs : List MeRun := []
  /-- completion cycle of the previous MMUL (08 R312) -/
  eprev : Nat := 0
  /-- per tile-local context, S0 of its previous step (11 R451) -/
  headAt : Tab Nat := []
  /-- per slice, cycle in which it ungated (08 R328) -/
  opened : Tab Nat := []
  /-- round-robin position (08 R325) -/
  rr : Nat := 0
  /-- resident roods (08 R325) -/
  res : Option Resident := none
  /-- contexts whose resident roods were discarded (08 R326) -/
  dropped : List Nat := []
  /-- contexts whose next MMUL halts with 0x12 (08 R336) -/
  reconf : List Nat := []
  /-- FPQ share of each context, 16 entries (08 R318) -/
  fpq : Tab (List Panel) := []
  /-- MWAKE steps waiting for the slices (08 R329) -/
  wake : List MeStep := []
  /-- MEHOLD.CONFLICT (08 R337) -/
  conflict : Nat := 0
  /-- MEHOLD.FPQ (08 R337) -/
  fpqHold : Nat := 0
  deriving DecidableEq, Repr

/-- A resolved operand of a vector, ferry or near-bank step. -/
structure Operand where
  /-- SPACE (10 R397) -/
  space : Nat := 0
  /-- TILE (10 R397) -/
  tile : Nat := 0
  /-- TYPE (10 R397) -/
  typ : Nat := 0
  /-- RANK (10 R397) -/
  rank : Nat := 0
  /-- BASE' (10 R398) -/
  base : Nat := 0
  /-- SIZE0-SIZE3 (10 R397) -/
  sizes : List Nat := [1, 1, 1, 1]
  /-- STRIDE0-STRIDE3 (10 R397) -/
  strides : List Int := [0, 0, 0, 0]
  /-- SCBASE' (10 R399) -/
  scbase : Nat := 0
  /-- SCSTR0-SCSTR3 (10 R399) -/
  scstr : List Int := [0, 0, 0, 0]
  /-- BLKDIM (10 R397) -/
  blkdim : Nat := 0
  /-- PACKDIM (10 R397) -/
  packdim : Nat := 0
  /-- DISTDIM (10 R397) -/
  distdim : Nat := 0
  /-- CHUNK (10 R397) -/
  chunk : Nat := 0
  /-- OTBASE (10 R397) -/
  otbase : Nat := 0
  /-- OTLEN (10 R397) -/
  otlen : Nat := 0
  /-- an address register was named (10 R405) -/
  areg : Bool := false
  /-- the operand is in the absolute form (11 R443) -/
  abs : Bool := false
  deriving DecidableEq, Repr

/-- A vector step, queued or running (R363). -/
structure VeStep where
  /-- module context (09 R363) -/
  ctx : Nat := 0
  /-- native step index (11 R441) -/
  step : Nat := 0
  /-- stage words of the chain, NST of them (09 R348) -/
  stages : List (BitVec 64) := []
  /-- SRC (09 R363) -/
  src : Nat := 0
  /-- NP (09 R363) -/
  np : Nat := 0
  /-- STMODE (09 R363) -/
  stmode : Nat := 0
  /-- SVAX (09 R363) -/
  svax : Bool := false
  /-- RED (09 R363) -/
  red : Nat := 0
  /-- RAX (09 R363) -/
  rax : Bool := false
  /-- LOOP (09 R363) -/
  loop : Bool := false
  /-- ORDER (09 R363) -/
  order : Bool := false
  /-- BLKCOL (09 R363) -/
  blkcol : Bool := false
  /-- COUNT address (09 R363) -/
  count : Nat := 0
  /-- LD0 (09 R363) -/
  ld0 : Option Operand := none
  /-- LD1 (09 R363) -/
  ld1 : Option Operand := none
  /-- ST (09 R363) -/
  st : Option Operand := none
  /-- SV (09 R363) -/
  sv : Option Operand := none
  /-- RD (09 R363) -/
  rd : Option Operand := none
  /-- IMM (09 R363) -/
  imm : BitVec 32 := 0
  /-- parameter registers as they stood at issue (09 R342) -/
  x : Tab (BitVec 64) := []
  /-- the poison of those registers, bit n for Xn (00 R6; 09 R340) -/
  xpois : BitVec 64 := 0
  /-- tally advanced at completion (11 R441) -/
  tadv : Option Nat := none
  /-- engine cycle of queue entry (11 R451) -/
  entry : Nat := 0
  deriving DecidableEq, Repr

/-- A panel on its way through a chain (R374). -/
structure Flight where
  /-- entry cycle (09 R371) -/
  entry : Nat := 0
  /-- cycle in which it reaches its next stage, or leaves the last one (09 R374) -/
  due : Nat := 0
  /-- next stage (09 R374) -/
  k : Nat := 0
  /-- panel row (09 R365,R347) -/
  row : Nat := 0
  /-- panel column (09 R365,R347) -/
  col : Nat := 0
  /-- rows of the panel inside the tensor (09 R360) -/
  inR : Nat := 32
  /-- columns of the panel inside the tensor (09 R360) -/
  inC : Nat := 32
  /-- panel popped or loaded (09 R349) -/
  ld0 : List (BitVec 32) := []
  /-- it is poisoned (09 R340) -/
  ld0p : Bool := false
  /-- panel of the second load stream (09 R349) -/
  ld1 : List (BitVec 32) := []
  /-- it is poisoned (09 R340) -/
  ld1p : Bool := false
  /-- side-vector values of the panel (09 R367) -/
  sv : List (BitVec 32) := []
  /-- they are poisoned (09 R340) -/
  svp : Bool := false
  /-- the panel ends a RED drain (09 R368) -/
  ends : Bool := false
  /-- results of the stages so far, first to last, with poison (09 R349) -/
  res : List (List (BitVec 32) × Bool) := []
  /-- elements selected by the last stage's mask (09 R361) -/
  sel : Nat := 0
  deriving DecidableEq, Repr

/-- A vector step started and not complete. -/
structure VeRun where
  /-- the step (09 R372) -/
  st : VeStep := {}
  /-- first panel entry cycle F (09 R372) -/
  f : Nat := 0
  /-- panels entered (09 R371) -/
  panel : Nat := 0
  /-- entry cycle of the next panel (09 R371) -/
  nextEntry : Nat := 0
  /-- entry cycle of the last panel entered (09 R373) -/
  lastEntry : Nat := 0
  /-- reduction register lanes for sums (09 R368) -/
  red : Tab Lane := []
  /-- reduction register lanes for maxima and minima (empty: none folded yet) (09 R368) -/
  redMax : List (BitVec 32) := []
  /-- the reduction register holds lanes (09 R368) -/
  redAny : Bool := false
  /-- a lane is poisoned (09 R368) -/
  redPois : Bool := false
  /-- elements appended by compress-append (09 R369) -/
  appended : Nat := 0
  /-- the step stored or drained poisoned data (09 R381) -/
  poison : Bool := false
  /-- row or column range whose side-vector values were read last (09 R367) -/
  svKey : Option Nat := none
  /-- those values (09 R367) -/
  sv : List (BitVec 32) := []
  /-- they are poisoned (09 R340) -/
  svp : Bool := false
  /-- panels in the chain, oldest first (09 R374) -/
  flights : List Flight := []
  /-- results on their way to panel registers: cycle from which they stand, register, elements, poison (09 R374) -/
  pendV : List (Nat × Nat × List (BitVec 32) × Bool) := []
  /-- results on their way to mask registers: cycle, register, bits, poison (09 R374) -/
  pendM : List (Nat × Nat × List Bool × Bool) := []
  /-- stored and drained bytes not yet visible: cycle, bytes by scratchpad address with poison (09 R375) -/
  pendS : List (Nat × Tab (BitVec 8 × Bool)) := []
  deriving DecidableEq, Repr

/-- Vector engine of one tile. -/
structure Vector where
  /-- vector queue, at most 32 (11 R451) -/
  queue : List VeStep := []
  /-- steps started and not complete, oldest first; the last one takes in panels (09 R372) -/
  runs : List VeRun := []
  /-- completion cycle of the previous step (09 R372) -/
  eprev : Nat := 0
  /-- per tile-local context, F of its previous step (11 R451) -/
  headAt : Tab Nat := []
  /-- round-robin position (09 R378) -/
  rr : Nat := 0
  /-- scratchpad words of the present cycle still to be served (09 R376) -/
  words : List Nat := []
  /-- scratchpad words to be read in the cycles to come (09 R375) -/
  loads : List (List Nat) := []
  /-- VEHOLD.CONFLICT (09 R382) -/
  conflict : Nat := 0
  /-- VEHOLD.FPQ (09 R382) -/
  fpqHold : Nat := 0
  deriving DecidableEq, Repr

/-- Register file of one module context in the vector engine. -/
structure VFile where
  /-- panel registers, 1024 n + 32 r + c (09 R338) -/
  v : Tab (BitVec 32) := []
  /-- mask registers MK1-MK7, 1024 k + 32 r + c (09 R339) -/
  mask : Tab Bool := []
  /-- poison bits of the panel registers (09 R340) -/
  vpois : BitVec 32 := 0
  /-- poison bits of the mask registers (09 R340) -/
  mpois : BitVec 8 := 0
  /-- VEXC (09 R380) -/
  exc : BitVec 7 := 0
  deriving DecidableEq, Repr

/-- An outstanding remote transaction (R619). -/
structure Xact where
  /-- WR (16 R619) -/
  write : Bool := false
  /-- TAG (16 R618) -/
  tag : Nat := 0
  /-- initiating tile (16 R618) -/
  tile : Nat := 0
  /-- initiating ferry channel (16 R618) -/
  ch : Nat := 0
  /-- destination module (16 R618) -/
  dst : Nat := 0
  /-- ADDR (16 R618) -/
  addr : Nat := 0
  /-- partition (16 R618) -/
  part : Nat := 0
  /-- landing it left through (16 R617) -/
  land : Nat := 0
  /-- LINES (16 R618) -/
  lines : Nat := 1
  /-- engine cycle of sending (16 R624) -/
  issued : Nat := 0
  /-- SP (16 R618) -/
  sp : Bool := false
  /-- tile named, for SP 0 (16 R618) -/
  mtile : Nat := 0
  /-- lines of a write (16 R618) -/
  data : List (BitVec 8) := []
  /-- POISON of the lines of a write (16 R618) -/
  pois : Nat := 0
  deriving DecidableEq, Repr

/-- A ferry step (R413). -/
structure FeStep where
  /-- module context (10 R407) -/
  ctx : Nat := 0
  /-- native step index (11 R441) -/
  step : Nat := 0
  /-- 0 FCOPY, 1 FXPOSE, 2 FGATHER, 3 FSCATTER (10 R413) -/
  op : Nat := 0
  /-- channel of the context (10 R413) -/
  ch : Nat := 0
  /-- SRC (10 R413) -/
  src : Operand := {}
  /-- DST (10 R413) -/
  dst : Operand := {}
  /-- IDX (10 R413) -/
  idx : Option Operand := none
  /-- CNT (10 R413) -/
  cnt : Nat := 0
  /-- count from SZREG (11 R454) -/
  ncount : Option Nat := none
  /-- GDIM (10 R413) -/
  gdim : Nat := 0
  /-- ACC (10 R413) -/
  acc : Nat := 0
  /-- PERM (10 R413) -/
  perm : Nat := 0
  /-- tally advanced at completion (11 R441) -/
  tadv : Option Nat := none
  /-- the COPY descriptor (15 R581) -/
  copy : Option DescRef := none
  /-- engine cycle of queue entry (11 R451) -/
  entry : Nat := 0
  deriving DecidableEq, Repr

/-- One ferry channel. -/
structure FeChan where
  /-- FCSTAT.STATE (10 R434) -/
  st : Nat := 0
  /-- FCSTAT.FAULT (10 R434) -/
  fault : Nat := 0
  /-- FCSTAT.OVLP (10 R434) -/
  ovlp : Bool := false
  /-- steps waiting, in order (10 R408) -/
  queue : List FeStep := []
  /-- step running or waiting for the hold (10 R409) -/
  cur : Option FeStep := none
  /-- FCSTAT.PART (10 R434) -/
  part : Nat := 0
  /-- FCSTAT.STEPTAG (10 R434) -/
  tag : Nat := 0
  /-- FCSTAT.POISON (10 R434) -/
  poison : Bool := false
  /-- FCSTAT.LINES (10 R434) -/
  lines : Nat := 0
  /-- FCADDR.ADDR (10 R434) -/
  addr : Nat := 0
  /-- FCADDR.SPACE (10 R434) -/
  space : Nat := 0
  /-- FCADDR.TILE (10 R434) -/
  tile : Nat := 0
  /-- FCADDR.MODULE (10 R434) -/
  module : Nat := 0
  /-- FEHOLD.BANK (10 R434) -/
  bankHold : Nat := 0
  /-- FEHOLD.OVWAIT (10 R434) -/
  ovWait : Nat := 0
  /-- engine cycle of the start of R409 (10 R428) -/
  startAt : Nat := 0
  /-- cycles T of R428 (or the least of R430) (10 R428) -/
  need : Nat := 0
  /-- writes of the step not yet visible (10 R421) -/
  posted : Nat := 0
  /-- a back-invalidate of the step is unanswered (14 R539) -/
  biWait : Bool := false
  /-- every write of the step has been made or sent (10 R421) -/
  done : Bool := false
  /-- remote transactions of the step still to send (16 R619) -/
  todo : List Xact := []
  /-- bytes of the step read from host memory and other modules, with poison (10 R410) -/
  stage : Tab (BitVec 8 × Bool) := []
  /-- lines of the step whose back-invalidate timed out (14 R541) -/
  biBad : List Nat := []
  /-- lines of device memory read for the step (10 R410) -/
  got : Tab (BitVec 512 × Bool) := []
  /-- line of device memory whose read did not decode (10 R431) -/
  badLine : Option Nat := none
  /-- writes of the step still to be made, by line: data, byte enables, poison (10 R420) -/
  left : List (Nat × BitVec 512 × BitVec 64 × Bool) := []
  /-- what the step's movements come to: the fault, operand and place that stop them once the writes are made (10 R431) -/
  haltAt : Option (Nat × Nat × Nat) := none
  /-- the step's data has been read and its writes are in `left` or made (10 R424) -/
  moved : Bool := false
  /-- scratchpad words the step has still to read and to write (10 R386) -/
  rdWords : List Nat := []
  /-- scratchpad words the step has still to write (10 R386) -/
  wrWords : List Nat := []
  /-- scratchpad words of the present cycle still to be served (10 R386) -/
  words : List Nat := []
  deriving DecidableEq, Repr

/-- A near-bank step (R462). -/
structure NbStep where
  /-- module context (11 R462) -/
  ctx : Nat := 0
  /-- native step index (11 R441) -/
  step : Nat := 0
  /-- cargo record (11 R449) -/
  cargo : Nat := 0
  /-- SRC (11 R463) -/
  src : Operand := {}
  /-- DST (11 R464) -/
  dst : Operand := {}
  /-- EXI (11 R449) -/
  exi : Option Operand := none
  /-- address of the count word (EXCA, EXCU) (11 R449) -/
  exc : Option Nat := none
  /-- expert list, as read when the step starts (11 R462) -/
  list : Option (List Int) := none
  /-- batch (11 R449) -/
  b : Nat := 1
  /-- GBASE (11 R449) -/
  gbase : Nat := 0
  /-- GCNT (11 R449) -/
  gcnt : Nat := 0
  /-- ASET (11 R449) -/
  aset : Nat := 0
  /-- CLR (11 R449) -/
  clr : Bool := false
  /-- tally advanced at completion (11 R441) -/
  tadv : Option Nat := none
  /-- engine cycle of queue entry (11 R451) -/
  entry : Nat := 0
  deriving DecidableEq, Repr

/-- A channel's drain of 64 lanes (R263), until the tile and mesh sums of R464. -/
structure DrainRes where
  /-- where it goes (11 R464) -/
  key : DrainKey := {}
  /-- drained values (06 R263) -/
  lanes : List (BitVec 32) := []
  /-- drained as poisoned (06 R263) -/
  poison : Bool := false
  deriving DecidableEq, Repr

/-- A pass folded into a group since its last clear, as the recompute unit folds it again (R196, R197). -/
structure PassRec where
  /-- the configuration the sequencer sent (05 R196) -/
  cfg : Nat := 0
  /-- first row of the span (05 R196) -/
  row : Nat := 0
  /-- first column position (05 R196) -/
  col : Nat := 0
  /-- columns of the span (05 R196) -/
  cols : Nat := 0
  /-- tile of the broadcast source (05 R197) -/
  tile : Nat := 0
  /-- broadcast source (05 R197) -/
  src : Operand := {}
  /-- list entry (05 R197) -/
  entry : Nat := 0
  /-- first slot of the round (05 R197) -/
  slot0 : Nat := 0
  /-- its place among the passes of the tile's channels (05 R196) -/
  serial : Nat := 0
  deriving DecidableEq, Repr

/-- A poisoned group with the recompute unit: what its value is rebuilt from, and where that goes (R196). -/
structure RebuildGroup where
  /-- accumulator group (05 R199) -/
  group : Nat := 0
  /-- sum buffer (06 R261) -/
  buf : Nat := 0
  /-- where its drain goes (06 R261) -/
  dst : Option DrainKey := none
  /-- passes folded into the group up to the end of the pass handed over (05 R196) -/
  passes : List PassRec := []
  /-- value the unit holds for the group, from which those passes are folded; none: the cleared value (05 R196) -/
  base : List (BitVec 32) := []
  /-- the group has been cleared since: the rebuilt value is not kept (05 R196) -/
  cleared : Bool := false
  deriving DecidableEq, Repr

/-- One bank's pass handed to the recompute unit (R196, R199). -/
structure Rebuild where
  /-- channel (05 R196) -/
  chan : Nat := 0
  /-- bank of the channel (05 R196) -/
  bank : Nat := 0
  /-- the pass: context, step, entry, round, cell and span; none for reads that belong to no pass (05 R199) -/
  pass : Option (Nat × Nat × Nat × Nat × Nat × Nat) := none
  /-- poisoned groups (05 R199) -/
  groups : List RebuildGroup := []
  /-- FAULTROW (05 R200) -/
  row : Nat := 0
  /-- FAULTCOL (05 R200) -/
  col : Nat := 0
  /-- the unit is working on it (05 R199) -/
  started : Bool := false
  deriving DecidableEq, Repr

/-- The near-bank step the sequencer of one context is running. -/
structure NbRun where
  /-- the step (06 R254) -/
  st : NbStep := {}
  /-- results the channels have drained (11 R464) -/
  drains : List DrainRes := []
  /-- poisoned result status (05 R198) -/
  poison : Bool := false
  /-- saturation status (06 R266) -/
  sat : Bool := false
  /-- range status (06 R266) -/
  range : Bool := false
  /-- module banks on which the step has run a pass (11 R752) -/
  touched : List Nat := []
  /-- passes begun: addressed channel, entry, round, cell, span (06 R254) -/
  begun : List (Nat × Nat × Nat × Nat × Nat) := []
  /-- drains that took a poisoned activation (10 R395) -/
  tainted : List DrainKey := []
  /-- list entries run: place in the list and expert (11 R462) -/
  entries : List (Nat × Nat) := []
  deriving DecidableEq, Repr

/-- One active replay body (R456). -/
structure Replay where
  /-- index of the REPLAY step (11 R456) -/
  atStep : Nat := 0
  /-- K (11 R456) -/
  k : Nat := 0
  /-- N (11 R456) -/
  n : Nat := 0
  /-- current repeat (11 R457) -/
  j : Nat := 0
  /-- the REPLAY step, for its INC and PAT entries (11 R456) -/
  word : BitVec 256 := 0
  deriving DecidableEq, Repr

/-- The header of a native manifest image (R440) with what bind checks of it. -/
structure Manifest where
  /-- STEPS (11 R440) -/
  steps : Nat := 0
  /-- NSTEP (11 R440) -/
  nstep : Nat := 0
  /-- NCHAIN (11 R440) -/
  nchain : Nat := 0
  /-- CHAINS (11 R440) -/
  chains : Nat := 0
  /-- DESCS (11 R440) -/
  descs : Nat := 0
  /-- NDESC (11 R440) -/
  ndesc : Nat := 0
  /-- NCARGO (11 R440) -/
  ncargo : Nat := 0
  /-- CARGOS (11 R440) -/
  cargos : Nat := 0
  /-- BERTHS (11 R440) -/
  berths : Nat := 0
  /-- NBERTH (11 R440) -/
  nberth : Nat := 0
  /-- NSPLIT (11 R440) -/
  nsplit : Nat := 0
  /-- SPLITS (11 R440) -/
  splits : Nat := 0
  /-- CFGTAG (11 R440) -/
  cfgtag : BitVec 64 := 0
  deriving DecidableEq, Repr

/-- An access of R445 in progress. -/
structure Access where
  /-- 0 XLD, 1 XST, 2 MBXW, 3 kind-1 patch (11 R445) -/
  kind : Nat := 0
  /-- tally advanced at its end (11 R453) -/
  tadv : Option Nat := none
  /-- sequencer cycle at which it ends when no bank makes it wait (11 R445) -/
  fin : Nat := 0
  /-- scratchpad words still to be served (11 R445) -/
  words : List Nat := []
  /-- the first of them has been refused by its bank (11 R445) -/
  late : Bool := false
  /-- cycles of bank wait (11 R445) -/
  waits : Nat := 0
  /-- native step index (11 R441) -/
  step : Nat := 0
  deriving DecidableEq, Repr

/-- A global step (R449). -/
structure GStep where
  /-- 0 GBAR, 1 GBCAST, 2 GRED, 3 GSNAP (16 R629) -/
  op : Nat := 0
  /-- GROUP (11 R449) -/
  group : Nat := 0
  /-- SCOPE (11 R449) -/
  scope : Bool := false
  /-- SRC (11 R449) -/
  src : Option Operand := none
  /-- DST (11 R449) -/
  dst : Option Operand := none
  /-- RTYPE (11 R449) -/
  rtype : Nat := 0
  /-- native step index (11 R441) -/
  step : Nat := 0
  /-- tally advanced at completion (11 R441) -/
  tadv : Option Nat := none
  /-- steps issued earlier and not complete, by the key of outst (16 R629) -/
  before : List Nat := []
  /-- instance number (16 R628) -/
  inst : Nat := 0
  /-- engine cycle of issue (16 R631) -/
  issued : Nat := 0
  /-- engine cycle of queue entry (11 R451) -/
  entry : Nat := 0
  deriving DecidableEq, Repr

/-- One sequencer context. -/
structure Ctx where
  /-- SQSTAT.STATE (11 R438) -/
  st : CtxState := .unbound
  /-- partition the context is granted to (15 R563) -/
  part : Option Nat := none
  /-- handle bound (12 R493) -/
  handle : Option Nat := none
  /-- header read at the start (11 R440) -/
  man : Manifest := {}
  /-- SHARE of the bound program (12 R497) -/
  share : Bool := false
  /-- MAINT of the bound program (12 R477) -/
  maint : Bool := false
  /-- X0-X63 (11 R435) -/
  x : Tab (BitVec 64) := []
  /-- the poison a register carries, bit n for Xn (00 R6; 10 R395) -/
  xpois : BitVec 64 := 0
  /-- A0-A15 (11 R435) -/
  a : Tab (BitVec 48) := []
  /-- TL0-TL15 (11 R435) -/
  tl : Tab (BitVec 32) := []
  /-- advances that waits do not see yet: tally, and the sequencer cycle from which they do (11 R453) -/
  fresh : List (Nat × Nat) := []
  /-- CM0-CM7: TALLY and THR; reset: CMk watches TLk (11 R435) -/
  cm : Tab (Nat × BitVec 32) := []
  /-- replay stack, innermost first (11 R435) -/
  stack : List Replay := []
  /-- SQSTAT.NEXT (11 R470) -/
  next : Nat := 0
  /-- step cache, by step index, with the poison of the fetch (11 R439) -/
  cache : Tab (Option (BitVec 256 × Bool)) := []
  /-- a repeat's entries are still to be applied (11 R457) -/
  pend : Bool := false
  /-- scratchpad access in progress (11 R445) -/
  access : Option Access := none
  /-- issue cycles (sequencer) of the latest 15 steps (11 R452) -/
  issues : List Nat := []
  /-- sequencer cycle of the latest issue, plus one (11 R450) -/
  lastIssue : Nat := 0
  /-- steps issued and not complete, oldest first, by (engine*256 + operation)*2^24 + index (11 R447) -/
  outst : List Nat := []
  /-- SQHALT.REASON (11 R470) -/
  reason : Nat := 0
  /-- SQHALT.FIELD (11 R470) -/
  hfield : Nat := 0
  /-- SQHALT.STEP (11 R470) -/
  hstep : Nat := 0
  /-- SQHADDR.ADDR (11 R470) -/
  haddr : Nat := 0
  /-- SQCNT.MISS (11 R470) -/
  miss : Nat := 0
  /-- SQCNT.STALL (11 R470) -/
  stall : Nat := 0
  /-- the START in progress (15 R580) -/
  start : Option DescRef := none
  /-- poisoned result status so far (15 R588) -/
  poison : Bool := false
  /-- saturation status so far (15 R588) -/
  sat : Bool := false
  /-- range status so far (15 R588) -/
  range : Bool := false
  /-- SPWIN.BASE (10 R434) -/
  winBase : Nat := 0
  /-- SPWIN.SIZE (10 R434) -/
  winSize : Nat := 0
  /-- SPWIN.CLEARING (10 R434) -/
  winClear : Bool := false
  /-- BIND descriptor that completes when the tile's engines are open (17 R653) -/
  binding : Option DescRef := none
  /-- UNBIND descriptor that completes after the window clear (15 R580) -/
  unbinding : Option DescRef := none
  /-- near-bank queue share, at most 4 (11 R451) -/
  nbq : List NbStep := []
  /-- near-bank step running (06 R254) -/
  nbrun : Option NbRun := none
  /-- global queue share, at most 1 (11 R451) -/
  gq : Option GStep := none
  /-- per group, instances issued (16 R628) -/
  ginst : Tab Nat := []
  /-- SQSTAT.WAITCM (11 R470) -/
  waitCm : Bool := false
  /-- SQSTAT.WAITQ (11 R470) -/
  waitQ : Bool := false
  /-- SQSTAT.WAITMB (11 R470) -/
  waitMb : Bool := false
  deriving DecidableEq, Repr

/-- A manifest handle of a partition (R493). -/
structure Handle where
  /-- empty, translating, ready or bound (12 R493) -/
  st : HandleState := .empty
  /-- a ready image is kept while a new one is translated (12 R494) -/
  old : Bool := false
  /-- slot holding the image (12 R490) -/
  slot : Nat := 0
  /-- offset of the image in the slot (12 R490) -/
  off : Nat := 0
  /-- size of the image in 4 KiB units (12 R491) -/
  size : Nat := 0
  /-- header of the image (11 R440) -/
  man : Manifest := {}
  /-- SHARE (12 R472) -/
  share : Bool := false
  /-- MAINT (12 R472) -/
  maint : Bool := false
  /-- WINMIN (12 R472) -/
  winmin : Nat := 0
  /-- tile and slot of every berth entry of the image (12 R497) -/
  berths : List (Nat × Nat) := []
  /-- context it is bound to (12 R493) -/
  ctx : Option Nat := none
  deriving DecidableEq, Repr

/-- A 16-byte completion (R588) without its phase. -/
structure Completion where
  /-- TAG (15 R588) -/
  tag : BitVec 32 := 0
  /-- STATUS (15 R588) -/
  status : BitVec 8 := 0
  /-- DETAIL (15 R588) -/
  detail : BitVec 8 := 0
  /-- POISON (15 R588) -/
  poison : Bool := false
  /-- SAT (15 R588) -/
  sat : Bool := false
  /-- RANGE (15 R588) -/
  range : Bool := false
  /-- VEXC (15 R588) -/
  vexc : BitVec 7 := 0
  /-- VALUE (15 R588) -/
  value : BitVec 32 := 0
  /-- STEP (15 R588) -/
  step : BitVec 24 := 0
  /-- CTX (15 R588) -/
  ctx : BitVec 6 := 0
  /-- vector 0 on completion (15 R579) -/
  irq : Bool := false
  deriving DecidableEq, Repr

/-- A partition reset in progress (R582). -/
structure ResetJob where
  /-- KEEP (15 R582) -/
  keep : Bool := false
  /-- the descriptor that asked for it (15 R582) -/
  desc : Option DescRef := none
  deriving DecidableEq, Repr

/-- One entry of the partition table. -/
structure Part where
  /-- state (15 R560) -/
  st : PartState := .free
  /-- PORT of the VF (15 R597) -/
  port : Nat := 0
  /-- VF number - 1 (15 R597) -/
  vf : Nat := 0
  /-- KEEPFLR (15 R597) -/
  keepflr : Bool := false
  /-- manifest handles (12 R493) -/
  handles : Tab Handle := []
  /-- preservation token, zero when not PRESERVED (18 R678) -/
  token : BitVec 64 := 0
  /-- PRSSTAT.CAUSE (18 R709) -/
  cause : Nat := 0
  /-- PRSSTAT.LOSTN (18 R709) -/
  lostN : Nat := 0
  /-- completions held until ATTACH, at most 64 (18 R675) -/
  held : List Completion := []
  /-- SEQ last consumed from each host-to-device slot (15 R591) -/
  h2dack : Tab (BitVec 32) := []
  /-- watched host-to-device slots as last read (15 R545) -/
  h2d : Tab (BitVec 512) := []
  /-- messages sent in each device-to-host slot (15 R594) -/
  d2hcnt : Tab (BitVec 32) := []
  /-- partition reset in progress (15 R582) -/
  reset : Option ResetJob := none
  /-- the reset belongs to a PDESTROY (15 R582) -/
  destroy : Bool := false
  /-- a write to host memory has failed since the last completion or event (14 R554) -/
  wfail : Bool := false
  /-- a re-homed event is due on the new VF's rings (15 R562) -/
  rehome : Bool := false
  deriving DecidableEq, Repr

/-- A descriptor fetched and not completed. -/
structure Desc where
  /-- ring index (15 R569) -/
  idx : Nat := 0
  /-- the 64 bytes (15 R579) -/
  data : BitVec 512 := 0
  /-- the host read of it succeeded (15 R589) -/
  ok : Bool := true
  /-- started (15 R575) -/
  started : Bool := false
  /-- the descriptor's own number in the model (15 R573) -/
  serial : Nat := 0
  deriving DecidableEq, Repr

/-- Set-up page of one VF, or admin ring of a port (key 17*port + vf, vf 0 the PF), and its rings. -/
structure Page where
  /-- SUCTL.EN (15 R567) -/
  en : Bool := false
  /-- SUSTAT.ERR (15 R567) -/
  err : Nat := 0
  /-- RINGSZ (15 R567) -/
  ringsz : BitVec 32 := 0
  /-- SQBASE (15 R567) -/
  sqbase : BitVec 64 := 0
  /-- CQBASE (15 R567) -/
  cqbase : BitVec 64 := 0
  /-- EQBASE (15 R567) -/
  eqbase : BitVec 64 := 0
  /-- DBADDR (15 R567) -/
  dbaddr : BitVec 64 := 0
  /-- RCADDR (15 R567) -/
  rcaddr : BitVec 64 := 0
  /-- MBXH2D (15 R567) -/
  mbxh2d : BitVec 64 := 0
  /-- MBXD2H (15 R567) -/
  mbxd2h : BitVec 64 := 0
  /-- MBXCFG (15 R567) -/
  mbxcfg : BitVec 32 := 0
  /-- SQHEAD (15 R572) -/
  sqhead : BitVec 32 := 0
  /-- SQTAIL as last read (15 R570) -/
  sqtail : BitVec 32 := 0
  /-- CQTAIL (15 R572) -/
  cqtail : BitVec 32 := 0
  /-- CQHEAD as last read (15 R570) -/
  cqhead : BitVec 32 := 0
  /-- EQTAIL (15 R572) -/
  eqtail : BitVec 32 := 0
  /-- EQHEAD as last read (15 R570) -/
  eqhead : BitVec 32 := 0
  /-- SUSTAT.EVLOST (15 R567) -/
  evlost : Nat := 0
  /-- events lost since the previous event written (15 R578) -/
  lostNow : Nat := 0
  /-- events since EN was set (15 R590) -/
  evseq : BitVec 32 := 0
  /-- descriptors fetched and not completed, oldest first (15 R573) -/
  fetched : List Desc := []
  /-- clock degraded of start-up has been posted on the ring (17 R637) -/
  told : Bool := false
  /-- watched lines (0 doorbell, k+1 mailbox slot k) given up and to be read again (15 R571) -/
  rereads : List Nat := []
  deriving DecidableEq, Repr

/-- A device write to host memory on its way (R544). -/
structure HostWrite where
  /-- order of issue (14 R544) -/
  id : Nat := 0
  /-- port that carries it (14 R546) -/
  port : Nat := 0
  /-- partition (14 R554) -/
  part : Option Nat := none
  /-- HPA (14 R544) -/
  addr : Nat := 0
  /-- bytes (14 R544) -/
  data : List (BitVec 8) := []
  /-- data, completion, event, ring control, mailbox, trace (14 R548) -/
  kind : WriteKind := .data
  /-- poisoned (14 R550) -/
  poison : Bool := false
  /-- performed by the hub; waits for GO (14 R549) -/
  sent : Bool := false
  /-- MSI-X vector raised with it (15 R568) -/
  vec : Option Nat := none
  /-- ferry channel (tile, channel) whose write it is (10 R421) -/
  fe : Option (Nat × Nat) := none
  deriving DecidableEq, Repr

/-- Trace ring of one port. -/
structure Trace where
  /-- TRCTAIL (19 R727) -/
  tail : BitVec 32 := 0
  /-- records written and perhaps not yet observed (19 R711) -/
  issued : BitVec 32 := 0
  /-- TRCSTAT.DROP (19 R727) -/
  drop : Nat := 0
  /-- records dropped since the previous record (19 R712) -/
  dropNow : Nat := 0
  /-- microsecond in which records were last written, and how many in it (19 R712) -/
  window : Nat × Nat := (0, 0)
  deriving DecidableEq, Repr

/-- One host port. -/
structure Port where
  /-- PORTSTAT.SPEED (14 R558) -/
  speed : Nat := 0
  /-- PORTSTAT.WIDTH (14 R558) -/
  width : Nat := 0
  /-- PORTSTAT.FLIT (14 R558) -/
  flit : Bool := false
  /-- PORTSTAT.CACHE (14 R558) -/
  cache : Bool := false
  /-- PORTSTAT.MEM (14 R558) -/
  mem : Bool := false
  /-- the port's tile is retired (14 R527) -/
  gone : Bool := false
  /-- HILCFG.IW (02 R73) -/
  iw : Nat := 0
  /-- HILCFG.IG (02 R73) -/
  ig : Nat := 0
  /-- HILCFG.COMMIT (02 R73) -/
  commit : Bool := false
  /-- HILCFG.AGREE (02 R73) -/
  agree : Bool := false
  /-- HILCFG.MISROUTE (02 R73) -/
  misroute : Bool := false
  /-- HILBASE (02 R73) -/
  base : Nat := 0
  /-- size of the committed decoder (02 R45) -/
  size : Nat := 0
  /-- port read buffer: line address to data and poison (14 R532) -/
  prb : Tab (BitVec 512 × Bool) := []
  /-- line of the last read plus one (prefetch) (14 R532) -/
  lastRead : Nat := 0
  /-- PDRAIN.FAILS of the PF (14 R558) -/
  fails : Nat := 0
  /-- PDRAIN.FAILS of each partition on the port (14 R553) -/
  partFails : Tab Nat := []
  /-- peer-aperture entries (14 R558) -/
  apt : Tab (BitVec 32) := []
  /-- trace ring (19 R727) -/
  trace : Trace := {}
  /-- PERST# asserted (20 R729) -/
  perst : Bool := false
  /-- decoder 0 size as last written (02 R45) -/
  decSize : Nat := 0
  deriving DecidableEq, Repr

/-- A flag held until the writes it covers are performed or failed, or a later write of the stream behind one. -/
structure FlagWait where
  /-- stream interval the flag ends (14 R549) -/
  epoch : Nat := 0
  /-- covered writes still open (14 R549) -/
  wait : Nat := 0
  /-- a covered write has failed (14 R550) -/
  failed : Bool := false
  /-- service address of the flag line (14 R548) -/
  sa : Nat := 0
  /-- its data (14 R548) -/
  data : BitVec 512 := 0
  /-- its byte enables (14 R548) -/
  mask : BitVec 64 := 0
  deriving DecidableEq, Repr

/-- The traffic of one source for one partition (14 "Flags and late failure"). -/
structure Stream where
  /-- flags accepted so far (14 R549) -/
  epoch : Nat := 0
  /-- data writes accepted since the latest flag and not yet performed or failed (14 R549) -/
  open_ : Nat := 0
  /-- one of them failed (14 R550) -/
  failed : Bool := false
  /-- writes held, oldest first (14 R547, R549) -/
  flags : List FlagWait := []
  /-- a PDRAIN read waits for the open writes (14 R553) -/
  asked : Bool := false
  deriving DecidableEq, Repr

/-- A device or host access held by a back-invalidate. -/
structure Waiter where
  /-- write (14 R539) -/
  write : Bool := false
  /-- data (14 R539) -/
  data : BitVec 512 := 0
  /-- byte enables (14 R539) -/
  mask : BitVec 64 := 0
  /-- partition (14 R539) -/
  part : Option Nat := none
  /-- ferry channel (tile, channel) (14 R539) -/
  ferry : Option (Nat × Nat) := none
  /-- host read held: port, line, and whether the host may modify it (14 R540) -/
  host : Option (Nat × Nat × Bool) := none
  /-- a remote request held: its landing, its header, its data, and its lines whose snoops have timed out (16 R621) -/
  remote : Option (Nat × BitVec 128 × List (BitVec 512) × List Nat) := none
  deriving DecidableEq, Repr

/-- One entry of a host-ownership directory. -/
structure Dir where
  /-- line service address / 64 (14 R539) -/
  line : Nat := 0
  /-- the host may hold it modified (14 R539) -/
  modified : Bool := false
  /-- snoop outstanding: 0 none, 1 BISnpData, 2 BISnpInv (14 R539) -/
  snoop : Nat := 0
  /-- access held for the snoop (14 R539) -/
  wait : Option Waiter := none
  deriving DecidableEq, Repr

/-- A line of a home line cache. -/
structure Line where
  /-- data (14 R538) -/
  data : BitVec 512 := 0
  /-- poisoned (03 R115) -/
  poison : Bool := false
  /-- to be written back (14 R543) -/
  dirty : Bool := false
  deriving DecidableEq, Repr

/-- A LOAD accepted (R495). -/
structure LoadJob where
  /-- partition (12 R495) -/
  part : Nat := 0
  /-- handle (12 R495) -/
  handle : Nat := 0
  /-- the LOAD descriptor (15 R580) -/
  desc : DescRef := {}
  /-- REPORT HPA (12 R495) -/
  report : Nat := 0
  /-- MAP HPA (12 R495) -/
  map : Nat := 0
  /-- source is a service address (12 R495) -/
  sa : Bool := false
  /-- SRC (12 R495) -/
  src : Nat := 0
  /-- LENGTH (12 R495) -/
  len : Nat := 0
  /-- image read (12 R471) -/
  image : List (BitVec 8) := []
  /-- source read failed or poisoned (12 R504) -/
  bad : Bool := false
  /-- tile tag when the translation started (12 R500) -/
  tag0 : BitVec 64 := 0
  /-- TSTAT found by the checks (12 R504) -/
  status : Nat := 0
  /-- SECTION (12 R504) -/
  section_ : Nat := 0
  /-- CASE (12 R504) -/
  case_ : Nat := 0
  /-- HCODE (12 R504) -/
  hcode : Nat := 0
  /-- INDEX (12 R504) -/
  index : Nat := 0
  /-- native steps (12 R480) -/
  native : List (BitVec 256) := []
  /-- index map (12 R485) -/
  nmap : List Nat := []
  /-- berth table with PBAND filled in (12 R480) -/
  berths : List (BitVec 8) := []
  /-- engine cycle at which the translation started (12 R504) -/
  at_ : Nat := 0
  /-- service address chosen for the image (12 R490) -/
  place : Nat := 0
  deriving DecidableEq, Repr

/-- Translator of one tile. -/
structure Translator where
  /-- loads waiting, at most 16 (12 R487) -/
  queue : List LoadJob := []
  /-- load being translated (12 R487) -/
  run : Option LoadJob := none
  /-- loads held (12 R487,R503) -/
  heldLoads : List LoadJob := []
  /-- TRSTAT.DONE (12 R505) -/
  done : Nat := 0
  /-- TRSTAT.FAILED (12 R505) -/
  failed : Nat := 0
  deriving DecidableEq, Repr

/-- A happening waiting to be recorded in the black box (R717). -/
structure Happening where
  /-- TYPE (19 R716) -/
  typ : Nat := 0
  /-- TIME (19 R716) -/
  time : BitVec 64 := 0
  /-- PART, PARTV (19 R716) -/
  part : Option Nat := none
  /-- CTX (19 R716) -/
  ctx : Nat := 63
  /-- payload fields: byte offset, length, value (19 R716) -/
  payload : List (Nat × Nat × Nat) := []
  /-- engine cycle of the happening (19 R717) -/
  cyc : Nat := 0
  deriving DecidableEq, Repr

/-- Black box of one tile. -/
structure Box where
  /-- SEQ of the next record (19 R727) -/
  next : Nat := 0
  /-- holding queue (19 R717) -/
  queue : List Happening := []
  /-- record being committed, with its LOST (19 R716) -/
  cur : Option (Happening × Nat) := none
  /-- lost count (19 R718) -/
  lost : Nat := 0
  /-- records (19 R715) -/
  slots : Tab (List (BitVec 8)) := []
  /-- always-on rail of a retired tile is down (19 R720) -/
  gone : Bool := false
  deriving DecidableEq, Repr

/-- Per-tile state of clocks, gating, admission, scratchpad counters and governor shift. -/
structure Hub where
  /-- tile retired (18 R709) -/
  retired : Bool := false
  /-- SQGOV.SHIFT (11 R470) -/
  shift : Int := 0
  /-- CLKSTAT.SRC (17 R665) -/
  src : ClockSrc := .crystal
  /-- CLKSTAT.LOCK (17 R665) -/
  lock : Bool := false
  /-- CLKSTAT.ISLAND (17 R665) -/
  island : Bool := false
  /-- CLKSTAT.XAMP (17 R665) -/
  xamp : Bool := false
  /-- CLKSTAT.SWITCHED (17 R665) -/
  switched : Bool := false
  /-- standby PLL locked (17 R643) -/
  standby : Bool := false
  /-- crystal found lost; switch pending (17 R643) -/
  xlost : Bool := false
  /-- forwarded reference lost (17 R649) -/
  fwdLost : Bool := false
  /-- CLKMON.LAST (17 R665) -/
  monLast : Nat := 0
  /-- CLKMON.MIN (17 R665) -/
  monMin : Nat := 2047
  /-- CLKMON.MAX (17 R665) -/
  monMax : Nat := 0
  /-- CLKMON.LOSSES (17 R665) -/
  losses : Nat := 0
  /-- counts by which the hub's timestamp differs from the lead's (17 R649) -/
  stampAdj : Int := 0
  /-- open engine groups (17 R650) -/
  groups : List Nat := []
  /-- open engines (17 R650) -/
  engines : List Nat := []
  /-- wakes admitted and not yet used: kind 0 stack, 1 channel of the tile, 2 slice; member (17 R657) -/
  admitted : List (Nat × Nat) := []
  /-- tile node open (17 R650) -/
  tileOpen : Bool := true
  /-- wakes waiting, in order of arrival: kind (0 stack, 1 channel of the tile, 2 slice, 3 engine group 0-3 or engine 4-7), member, engine cycle of arrival (17 R657) -/
  wakeQ : List (Nat × Nat × Nat) := []
  /-- engine cycles of the latest admissions of each budget, newest first (0 stacks, 2 slices, 3 engines, 16+s channels of stack s) (17 R657) -/
  grantAt : Tab (List Nat) := []
  /-- ADMSTAT.CAPHELD (17 R665) -/
  capHeld : Bool := false
  /-- ADMSTAT.MAXW (17 R665) -/
  maxW : Nat := 0
  /-- THSTAT.HUBT (17 R665) -/
  hubT : Nat := 0
  /-- no slice of the tile is ungated (17 R664) -/
  holdUngate : Bool := false
  /-- no engine step of the tile issues (17 R664) -/
  holdIssue : Bool := false
  /-- SPSTAT.CORR (10 R434) -/
  spCorr : Nat := 0
  /-- SPSTAT.UNC (10 R434) -/
  spUnc : Nat := 0
  /-- SPSTAT.LASTBANK (10 R434) -/
  spBank : Nat := 0
  /-- SPSTAT.LASTWORD (10 R434) -/
  spWord : Nat := 0
  /-- ferry channel using the overlap hold (10 R425) -/
  overlap : Option Nat := none
  /-- ferry channel of the tile that was served first in the previous cycle (10 R386) -/
  ferryFirst : Nat := 15
  /-- scratchpad words that the tile's near-bank sequencer has read and written in the present cycle (10 R386) -/
  nbWords : List Nat := []
  /-- recompute unit queue (05 R199) -/
  rebuilds : List Rebuild := []
  /-- rebuilt values by bank*8 + group (05 R196) -/
  rebuilt : Tab (List (BitVec 32)) := []
  /-- passes folded since the last clear and not yet in a rebuilt value, by bank*8 + group (05 R196) -/
  passHist : Tab (List PassRec) := []
  /-- passes begun on the tile's channels (the model's own count) (05 R196) -/
  passSeq : Nat := 0
  /-- engine cycles of the hub's uncorrectable logic faults within the hour (18 R698) -/
  logicAt : List Nat := []
  /-- engine cycles of the watchdog expiries within the second (18 R690) -/
  wdogAt : List Nat := []
  /-- mesh switch failed (01 R30) -/
  meshDown : Bool := false
  /-- rows scrubbed in this pass (03 R101) -/
  scrubDone : Nat := 0
  /-- black box (19 R715) -/
  bb : Box := {}
  /-- slot being cleared by the tile (15 R584) -/
  clear : Option Nat := none
  /-- version of the management-core image the tile runs (18 R704) -/
  mcore : Nat := 0
  deriving DecidableEq, Repr

/-- One physical lane of a landing. -/
structure LaneSt where
  /-- XLLANE.LOGICAL; reset: lane n carries logical n, 24 and 25 spare (16 R634) -/
  logical : Nat := 31
  /-- XLLANE.STATE (16 R634) -/
  st : Nat := 0
  /-- XLLANE.CORR (16 R634) -/
  corr : Nat := 0
  deriving DecidableEq, Repr

/-- A message that waits to leave through a landing (R613, R625). -/
structure TxMsg where
  /-- header (16 R618) -/
  hdr : BitVec 128 := 0
  /-- bytes of its lines (16 R618) -/
  data : List (BitVec 8) := []
  /-- buffer class: 0 request, 1 response, 2 global (16 R605,R618) -/
  cls : Nat := 0
  /-- source stream, 256 for forwarded traffic (16 R625) -/
  src : Nat := 0
  /-- landing through which it arrived, whose buffer it still holds (16 R613,R615) -/
  via : Option Nat := none
  deriving DecidableEq, Repr

/-- One landing. -/
structure Landing where
  /-- XLSTAT.STATE (16 R634) -/
  st : Nat := 0
  /-- XLSTAT.PEER (16 R634) -/
  peer : Nat := 0
  /-- XLSTAT.PEERL (16 R634) -/
  peerL : Nat := 0
  /-- physical lanes (16 R634) -/
  lanes : Tab LaneSt := []
  /-- SEQ of the next new flit (16 R607) -/
  seq : Nat := 0
  /-- last SEQ acknowledged (16 R607) -/
  ack : Nat := 4095
  /-- replay buffer: SEQ and payload of the flits unacknowledged, oldest first (16 R607) -/
  unack : List (Nat × List (BitVec 8)) := []
  /-- messages waiting to leave (16 R607,R615,R625) -/
  txQ : List TxMsg := []
  /-- class granted last (16 R625) -/
  lastCls : Nat := 2
  /-- per class, source granted last (16 R625) -/
  lastSrc : Tab Nat := []
  /-- receiver's expected value e (16 R608) -/
  exp : Nat := 0
  /-- a NAK for e is outstanding (16 R608) -/
  nakOut : Bool := false
  /-- flits received since the last ACK sent (16 R606) -/
  rxSince : Nat := 0
  /-- timer resends without progress (16 R610) -/
  resends : Nat := 0
  /-- XLSTAT.REPLAYS (16 R634) -/
  replays : Nat := 0
  /-- XLSTAT.UNCW (16 R634) -/
  uncw : Nat := 0
  /-- 64-byte credits held for the neighbour's buffers: class x 4 + level - 1 (16 R605,R615) -/
  credits : Tab Nat := []
  /-- cable supply on (20 R734) -/
  vcbl : Bool := false
  /-- cable present (20 R734) -/
  cable : Bool := false
  /-- logical lane whose turn the next swap is (16 R602) -/
  lastSwap : Nat := 0
  deriving DecidableEq, Repr

/-- One instance of a group's global operations (R628). -/
structure Inst where
  /-- instance number (16 R628) -/
  k : Nat := 0
  /-- operation (16 R628) -/
  op : Nat := 0
  /-- SCOPE (16 R628) -/
  scope : Bool := false
  /-- RTYPE (16 R628) -/
  rtype : Nat := 0
  /-- operand byte count (16 R628) -/
  bytes : Nat := 0
  /-- local contexts that have issued it (16 R629) -/
  ctxs : List Nat := []
  /-- engine cycle of the first issue (16 R631) -/
  firstAt : Nat := 0
  /-- modules heard from, with their partials (16 R630) -/
  parts : List (Nat × List (BitVec 8 × Bool)) := []
  /-- every local participant has issued it and this module's part is made (16 R629) -/
  sent : Bool := false
  /-- the module's partial has gone up (16 R630) -/
  up : Bool := false
  /-- the result, byte by byte with poison (16 R630) -/
  result : Option (List (BitVec 8 × Bool)) := none
  /-- an INT32 sum saturated (16 R630) -/
  sat : Bool := false
  /-- local contexts at which it has completed (16 R629) -/
  done : List Nat := []
  deriving DecidableEq, Repr

/-- One entry of the group table. -/
structure Group where
  /-- MODS (16 R634) -/
  mods : BitVec 64 := 0
  /-- CTXS (16 R634) -/
  ctxs : BitVec 64 := 0
  /-- GRPDAT2 (BUSY apart) (16 R634) -/
  dat2 : BitVec 32 := 0
  /-- instances in flight (16 R628) -/
  insts : List Inst := []
  /-- instances that timed out or failed (16 R631) -/
  failed : List Nat := []
  deriving DecidableEq, Repr

/-- Management-core images (R702 to R709). -/
structure Firmware where
  /-- FWSTAT.ACTIVE (18 R709) -/
  active : Bool := false
  /-- FWSTAT.STAGED (18 R709) -/
  staged : Bool := false
  /-- FWSTAT.STATE (18 R709) -/
  st : Nat := 0
  /-- FWSTAT.RUNVER (18 R709) -/
  runver : Nat := 0
  /-- FWSTAT.STGVER (18 R709) -/
  stgver : Nat := 0
  /-- FWSTAT.SVN (18 R709) -/
  svn : Nat := 0
  /-- security version of the staged image (18 R702) -/
  stgsvn : Nat := 0
  /-- FWSTAT.TILE (18 R709) -/
  tile : Nat := 0
  /-- FWSTAT.RESULT (18 R709) -/
  result : Nat := 0
  /-- image written over the sideband (18 R703) -/
  sideband : Option Image := none
  /-- image banks A (0) and B (1) (18 R703) -/
  banks : Tab Image := []
  deriving DecidableEq, Repr

/-- Host-time mapping and its exchanges (R722). -/
structure TimeMap where
  /-- TMMAPD.D0 (19 R727) -/
  d0 : Nat := 0
  /-- TMMAPH.H0 (19 R727) -/
  h0 : Nat := 0
  /-- TMRATE.RATE (19 R727) -/
  rate : Int := 0
  /-- TMSTAT.EPOCH (19 R727) -/
  epoch : Nat := 0
  /-- TMSTAT.STALE (19 R727) -/
  stale : Bool := false
  /-- TMSTAT.PORT (19 R727) -/
  port : Nat := 0
  /-- TMSTAT.VALID (19 R727) -/
  valid : Bool := false
  /-- consecutive failed exchanges (19 R724) -/
  fails : Nat := 0
  deriving DecidableEq, Repr

/-- Supply, governor and coolant (R655 to R662). -/
structure Power where
  /-- input voltage in 0.1 V as last measured (17 R655) -/
  input : Nat := 480
  /-- a power fail is in force (17 R655) -/
  failed : Bool := false
  /-- the always-on rail is up: from the power-on until the converters stop (17 R655; 18 R666; 20 R738) -/
  on : Bool := false
  /-- PGSTAT.AVG, 10 W units (17 R665) -/
  avg : Nat := 0
  /-- PGSTAT.CAPEFF, 50 W units (17 R665) -/
  capEff : Nat := 180
  /-- PGSTAT.M2 (17 R665) -/
  m2 : Bool := false
  /-- PGSTAT.M3 (17 R665) -/
  m3 : Bool := false
  /-- PGSTAT.M3CNT (17 R665) -/
  m3cnt : Nat := 0
  /-- engine cycle since which A exceeds CAP_eff (17 R660) -/
  overSince : Option Nat := none
  /-- SPLSTAT.PEST (13 R522) -/
  pest : Nat := 0
  /-- SPLSTAT.CHANGES (13 R522) -/
  changes : Nat := 0
  /-- SPLSTAT.ATMAX (13 R522) -/
  atmax : Nat := 0
  /-- SHIFT stood at 16 on every tile at the start of the window (13 R518) -/
  allMax : Bool := false
  /-- COOLSTAT.TIN (17 R665) -/
  tin : Nat := 0
  /-- COOLSTAT.TOUT (17 R665) -/
  tout : Nat := 0
  /-- COOLSTAT.FLOW (17 R665) -/
  flow : Nat := 0
  /-- COOLSTAT.DP (17 R665) -/
  dp : Nat := 0
  /-- COOLSTAT.FAULT (17 R665) -/
  coolFault : Bool := false
  /-- GATESTAT.STATUS (17 R665) -/
  gateStatus : Nat := 0
  /-- wake the last gate-on waits for: tile, kind, member (GATESTAT.HELD) (17 R665) -/
  gateLast : Option (Nat × Nat × Nat) := none
  /-- module node open (17 R650) -/
  modOpen : Bool := true
  deriving DecidableEq, Repr

/-- Start-up, configuration store and lead role. -/
structure Boot where
  /-- BOOTSTAT.PHASE (18 R709) -/
  phase : Nat := 0
  /-- BOOTSTAT.CAUSE (18 R709) -/
  cause : Nat := 0
  /-- BOOTSTAT.STOREBAD (18 R709) -/
  storeBad : Bool := false
  /-- BOOTSTAT.WARMCNT (18 R709) -/
  warmCnt : Nat := 0
  /-- BOOTSTAT.LEAD (18 R709) -/
  lead : Nat := 0
  /-- the module has been started before (18 R672) -/
  started : Bool := false
  /-- coolant qualified (18 R666) -/
  coolOk : Bool := false
  /-- hubs whose reference is settled (17 R636) -/
  xtalOk : List Nat := []
  /-- what the boot ROM and the self-tests find (18 R666) -/
  report : BootReport := {}
  /-- hash record in the configuration store (02 R72) -/
  hashRec : List Nat := [1026, 68, 136, 272, 544, 18432, 36864, 73728, 4325376]
  /-- HASHMSK0-HASHMSK8; reset: the default hash record (02 R69) -/
  hashMask : List Nat := [1026, 68, 136, 272, 544, 18432, 36864, 73728, 4325376]
  /-- HASHCTL.LOCK (02 R69) -/
  hashLock : Bool := false
  /-- HASHCTL.PEND (02 R70) -/
  hashPend : Bool := false
  /-- XLID.MODID in force (16 R611) -/
  modid : Nat := 0
  /-- XLID.DKEY in force (16 R611) -/
  dkey : Nat := 0
  /-- MODID and DKEY that take effect at the next reset (XLID.PEND) (16 R611) -/
  newId : Option (Nat × Nat) := none
  /-- timestamp checkpoint (19 R721) -/
  checkpoint : Nat := 0
  /-- timestamp minus engine cycles / 16: what the counter held at cycle 0 (19 R721) -/
  stampBase : Int := 0
  /-- a warm reset is in progress (18 R689) -/
  warmBusy : Bool := false
  /-- CAUSE of a warm reset asked for and not begun (18 R709) -/
  want : Option Nat := none
  /-- tile whose crystal did not qualify at start-up (17 R637) -/
  clockLate : Option Nat := none
  /-- engine cycle of the start-up's training, plus one (04 R153) -/
  trainedAt : Nat := 0
  deriving DecidableEq, Repr

/-- Module error log and late-failure log, scrub and spare counters. -/
structure Logs where
  /-- error log (03 R117) -/
  elog : Tab (List (BitVec 64)) := []
  /-- ELOGHEAD.NEXT (03 R118) -/
  ehead : Nat := 0
  /-- ELOGHEAD.WRAPPED (03 R118) -/
  ewrap : Bool := false
  /-- SEQ of the next entry (03 R117) -/
  eseq : Nat := 0
  /-- late-failure log (14 R557) -/
  lflog : Tab (List (BitVec 64)) := []
  /-- LFHEAD.NEXT (14 R558) -/
  lfhead : Nat := 0
  /-- LFHEAD.WRAPPED (14 R558) -/
  lfwrap : Bool := false
  /-- SEQ of the next entry (14 R557) -/
  lfseq : Nat := 0
  /-- CORRCNT (03 R118) -/
  corrcnt : Nat := 0
  /-- UNCCNT (03 R118) -/
  unccnt : Nat := 0
  /-- SCRBSTAT.PASS (03 R118) -/
  pass : Nat := 0
  /-- timestamp at which the running scrub pass began (03 R117) -/
  passTime : Nat := 0
  /-- SCRBSTAT.PROGRESS (03 R118) -/
  progress : Nat := 0
  /-- scrub period in force (03 R118) -/
  scrubPeriod : Nat := 24
  /-- COHSTAT.DIRMAX (14 R558) -/
  dirMax : Nat := 0
  /-- COHSTAT.BITMOUT (14 R558) -/
  bitmout : Nat := 0
  /-- directory evictions (COHSTAT.BIEVICT counts 1024) (14 R558) -/
  bievict : Nat := 0
  /-- STRSTAT.TESTED (18 R709) -/
  tested : Nat := 0
  /-- STRSTAT.FAILED (18 R709) -/
  strFailed : Nat := 0
  /-- STRSTAT.SKIPPED (18 R709) -/
  skipped : Nat := 0
  /-- STRSTAT.ACTIVE (18 R709) -/
  strActive : Bool := false
  deriving DecidableEq, Repr

/-- A message given to a landing (16 R618). -/
structure LinkMsg where
  /-- landing it leaves through (16 R613) -/
  land : Nat := 0
  /-- header (16 R618) -/
  hdr : BitVec 128 := 0
  /-- its lines (16 R618) -/
  data : List (BitVec 8) := []
  deriving DecidableEq, Repr

/-- An answer of the block. -/
structure Answer where
  /-- 0 Cmp, 1 MemData, 2 Unsupported Request, 3 register data, 4 SPDM (14 R531) -/
  kind : Nat := 0
  /-- data (14 R531) -/
  data : List (BitVec 8) := []
  /-- poisoned (02 R49) -/
  poison : Bool := false
  deriving DecidableEq, Repr

/-- What the block has given its requesters: answers to the host, posted writes. -/
structure Output where
  /-- device writes to host memory not yet globally observed (14 R544) -/
  inflight : List HostWrite := []
  /-- order of the next write (the model's own counter) (14 R544) -/
  nextId : Nat := 0
  /-- answer to the latest host, peer or management request (14 R531) -/
  answer : Option Answer := none
  /-- MSI-X messages raised: port, function, vector (15 R568) -/
  msix : List (Nat × Nat × Nat) := []
  /-- mesh route of the latest host request (01 R17) -/
  mesh : List Nat := []
  /-- answers given (14 R531) -/
  answered : Nat := 0
  /-- messages sent over landings, newest first (16 R618) -/
  link : List LinkMsg := []
  /-- flits sent over landings, newest first: landing, 256 bytes with byte 0 lowest (16 R603) -/
  flits : List (Nat × BitVec 2048) := []
  deriving DecidableEq, Repr

/-- One performance counter. -/
structure Counter where
  /-- PMSEL (19 R727) -/
  sel : BitVec 32 := 0
  /-- PMVAL (19 R727) -/
  count : BitVec 48 := 0
  deriving DecidableEq, Repr

/-- Entry of an unlisted slot: the first binding of R53, of R3 on NGM9-4608-LC. -/
def slotDefault (half : Bool) (s : Nat) : Slot :=
  if half then { phys := (s % 8) * 512 + s / 8 } else { phys := (s % 16) * 512 + s / 16 }

/-- Metadata of an unlisted row: ROWTAG is the row's own index (R83). -/
def rowDefault (k : Nat) : RowMeta := { tag := k % 65536 }

/-- Physical lane n of a landing carries logical lane n; 24 and 25 are spares (R634). -/
def laneDefault (n : Nat) : LaneSt := if n < 24 then { logical := n } else { st := 1 }

/-- Comparator k watches tally k with THR 0 (R435). -/
def cmDefault (k : Nat) : Nat × BitVec 32 := (k, 0)

/-- The module: every piece of state the spec gives it, and the queue of waiting commands. -/
structure State where
  /-- commands waiting, first in first out ((the queue the instructions ask for)) -/
  pending : List Sys2Proof.Instr := []
  /-- the part is NGM9-4608-LC, the half-populated module; no command changes it (00 R1,R3) -/
  half : Bool := false
  /-- engine cycles of 0.625 ns since the model's start (09 (engine cycle)) -/
  cyc : Nat := 0
  /-- counter of free values drawn ((the model's own)) -/
  free : Nat := 0
  /-- stored RW fields of the PF registers, by 2^20*port + offset (14 R525), and from 6*2^20 on the values in force of those that
  take effect at a boundary: SCHCFG to TRNCFG, SPLCFG, NBCFG by channel, MECFG by tile (04 R163; 06 R269; 08 R337; 13 R522) -/
  regs : Tab (BitVec 64) := []
  /-- start-up (18 R666) -/
  boot : Boot := {}
  /-- supply and governor (17 R655) -/
  power : Power := {}
  /-- parcel map (02 R61) -/
  slots : Tab Slot := []
  /-- physical parcels (03 R107) -/
  parcels : Tab Parcel := []
  /-- data bytes of the banks; reset all zero (R671) (02 R31) -/
  mem : List Host.Cell := []
  /-- columns stored with the one's complement of their check, by row key x 64 + column (03 R91) -/
  pois : Tab Bool := []
  /-- row metadata, by module bank*65536 + row (03 R83) -/
  rows : Tab RowMeta := []
  /-- spares of each bank (02 R38) -/
  bspares : Tab BankSpares := []
  /-- stacks (02 R36) -/
  stks : Tab StackSpares := []
  /-- channels (04 R119) -/
  chans : Tab Channel := []
  /-- near-bank units by module bank (05 R164) -/
  nbus : Tab Nbu := []
  /-- sum buffers by channel*16 + buffer (06 R258) -/
  crus : Tab SumBuf := []
  /-- hubs (17 R665) -/
  hubs : Tab Hub := []
  /-- matrix engines (08 R295) -/
  me : Tab Matrix := []
  /-- vector engines (09 R338) -/
  ve : Tab Vector := []
  /-- vector register files by module context (09 R338) -/
  vfiles : Tab VFile := []
  /-- ferry channels by tile*16 + channel (10 R407) -/
  fe : Tab FeChan := []
  /-- scratchpad bytes by tile*2^27 + address (10 R383) -/
  sp : Tab (BitVec 8) := []
  /-- poison bits of scratchpad words by tile*2^21 + word (10 R393) -/
  spPois : Tab Bool := []
  /-- sequencer contexts (11 R435) -/
  ctxs : Tab Ctx := []
  /-- partition table (15 R559) -/
  parts : Tab Part := []
  /-- set-up pages and admin rings (15 R566) -/
  pages : Tab Page := []
  /-- streams of the host ports and landings (14 R547) -/
  streams : Tab Stream := []
  /-- host ports (14 R558) -/
  ports : Tab Port := []
  /-- host-ownership directories, oldest entry first (14 R539) -/
  dirs : Tab (List Dir) := []
  /-- home line caches by service line (14 R538) -/
  lines : Tab Line := []
  /-- translators (12 R487) -/
  trans : Tab Translator := []
  /-- landings (16 R598) -/
  lands : Tab Landing := []
  /-- outstanding remote transactions (16 R619) -/
  xacts : List Xact := []
  /-- route table (16 R634) -/
  routes : Tab (BitVec 32) := []
  /-- admission table (16 R634) -/
  admits : Tab (BitVec 32) := []
  /-- group table (16 R634) -/
  groups : Tab Group := []
  /-- firmware (18 R709) -/
  fw : Firmware := {}
  /-- logs (03 R117) -/
  logs : Logs := {}
  /-- performance counters by tile*16 + counter (19 R713) -/
  pm : Tab Counter := []
  /-- activity in the governor's window: near-bank columns, stack-interface columns, slice operand cycles, vector port cycles, mesh and host
  units of 64 bytes, flits (13 R512; 01 R26) -/
  act : Tab Nat := []
  /-- host-time mapping (19 R722) -/
  tmap : TimeMap := {}
  /-- outputs (14 R531) -/
  out : Output := {}
  deriving DecidableEq, Repr

/-- Why the module stops. No rule of the spec stops the module as a whole: every happening the spec
describes (a halted context, a failed request, a retired tile) is a next state, so no meaning raises
a fault and there is nothing here to be unsafe about. -/
inductive Fault where
  /-- Raised by nobody: the spec names no event that leaves the module without a next state. Safe. -/
  | stuck
  deriving DecidableEq, Repr

/-- Why a command has no meaning. -/
inductive Refusal where
  /-- Raised by the dispatch of a command whose meaning is not written. Safe: the model stops. -/
  | notModelled (mnemonic : String)
  deriving DecidableEq, Repr

/-- The outcome of one command. -/
abbrev Result := Host.Outcome State Fault Refusal

/-- The module right after it is built: no supply, nothing stored, the queue empty (18 R666, R672). -/
def State.reset : State := {}

/-- The half-populated module NGM9-4608-LC right after it is built: tiles T8 to T15 with their landings and ports H2 and H3 are not
there (00 R1, R3). -/
def State.resetHalf : State :=
  { half := true
    power := { capEff := 92 }
    hubs := (List.range 8).map (fun i => (8 + i, { retired := true }))
    ports := [(2, { gone := true }), (3, { gone := true })] }

end Sys2Proof.Machine
end

