-- ==== Sys2Proof/Machine/Access.lean ====
section
/-! DEFINITION. Reading and changing one member of each numbered family of the state. -/

namespace Sys2Proof.Machine

/-- Member `k` of `slots`. -/
def State.slot (s : State) (k : Nat) : Slot := Tab.get (slotDefault s.half) s.slots k

/-- Member `k` of `slots` changed by `f`. -/
def State.modSlot (s : State) (k : Nat) (f : Slot → Slot) : State :=
  { s with slots := Tab.upd (slotDefault s.half) s.slots k f }

/-- Member `k` of `parcels`. -/
def State.parcel (s : State) (k : Nat) : Parcel := Tab.get (fun _ => {}) s.parcels k

/-- Member `k` of `parcels` changed by `f`. -/
def State.modParcel (s : State) (k : Nat) (f : Parcel → Parcel) : State :=
  { s with parcels := Tab.upd (fun _ => {}) s.parcels k f }

/-- Member `k` of `mem`. -/
def State.memByte (s : State) (k : Nat) : BitVec 8 := Tab.get (fun _ => 0) s.mem k

/-- Member `k` of `mem` changed by `f`. -/
def State.modMemByte (s : State) (k : Nat) (f : (BitVec 8) → (BitVec 8)) : State :=
  { s with mem := Tab.upd (fun _ => 0) s.mem k f }

/-- Member `k` of `pois`. -/
def State.colBad (s : State) (k : Nat) : Bool := Tab.get (fun _ => false) s.pois k

/-- Member `k` of `pois` changed by `f`. -/
def State.modColBad (s : State) (k : Nat) (f : Bool → Bool) : State :=
  { s with pois := Tab.upd (fun _ => false) s.pois k f }

/-- Member `k` of `rows`. -/
def State.row (s : State) (k : Nat) : RowMeta := Tab.get (rowDefault) s.rows k

/-- Member `k` of `rows` changed by `f`. -/
def State.modRow (s : State) (k : Nat) (f : RowMeta → RowMeta) : State :=
  { s with rows := Tab.upd (rowDefault) s.rows k f }

/-- Member `k` of `bspares`. -/
def State.bspare (s : State) (k : Nat) : BankSpares := Tab.get (fun _ => {}) s.bspares k

/-- Member `k` of `bspares` changed by `f`. -/
def State.modBspare (s : State) (k : Nat) (f : BankSpares → BankSpares) : State :=
  { s with bspares := Tab.upd (fun _ => {}) s.bspares k f }

/-- Member `k` of `stks`. -/
def State.stack (s : State) (k : Nat) : StackSpares := Tab.get (fun _ => {}) s.stks k

/-- Member `k` of `stks` changed by `f`. -/
def State.modStack (s : State) (k : Nat) (f : StackSpares → StackSpares) : State :=
  { s with stks := Tab.upd (fun _ => {}) s.stks k f }

/-- Member `k` of `chans`. -/
def State.chan (s : State) (k : Nat) : Channel := Tab.get (fun _ => {}) s.chans k

/-- Member `k` of `chans` changed by `f`. -/
def State.modChan (s : State) (k : Nat) (f : Channel → Channel) : State :=
  { s with chans := Tab.upd (fun _ => {}) s.chans k f }

/-- Member `k` of `nbus`. -/
def State.nbu (s : State) (k : Nat) : Nbu := Tab.get (fun _ => {}) s.nbus k

/-- Member `k` of `nbus` changed by `f`. -/
def State.modNbu (s : State) (k : Nat) (f : Nbu → Nbu) : State :=
  { s with nbus := Tab.upd (fun _ => {}) s.nbus k f }

/-- Member `k` of `crus`. -/
def State.cru (s : State) (k : Nat) : SumBuf := Tab.get (fun _ => {}) s.crus k

/-- Member `k` of `crus` changed by `f`. -/
def State.modCru (s : State) (k : Nat) (f : SumBuf → SumBuf) : State :=
  { s with crus := Tab.upd (fun _ => {}) s.crus k f }

/-- Member `k` of `hubs`. -/
def State.hub (s : State) (k : Nat) : Hub := Tab.get (fun _ => {}) s.hubs k

/-- Member `k` of `hubs` changed by `f`. -/
def State.modHub (s : State) (k : Nat) (f : Hub → Hub) : State :=
  { s with hubs := Tab.upd (fun _ => {}) s.hubs k f }

/-- Member `k` of `me`. -/
def State.mat (s : State) (k : Nat) : Matrix := Tab.get (fun _ => {}) s.me k

/-- Member `k` of `me` changed by `f`. -/
def State.modMat (s : State) (k : Nat) (f : Matrix → Matrix) : State :=
  { s with me := Tab.upd (fun _ => {}) s.me k f }

/-- Member `k` of `ve`. -/
def State.vec (s : State) (k : Nat) : Vector := Tab.get (fun _ => {}) s.ve k

/-- Member `k` of `ve` changed by `f`. -/
def State.modVec (s : State) (k : Nat) (f : Vector → Vector) : State :=
  { s with ve := Tab.upd (fun _ => {}) s.ve k f }

/-- Member `k` of `vfiles`. -/
def State.vfile (s : State) (k : Nat) : VFile := Tab.get (fun _ => {}) s.vfiles k

/-- Member `k` of `vfiles` changed by `f`. -/
def State.modVfile (s : State) (k : Nat) (f : VFile → VFile) : State :=
  { s with vfiles := Tab.upd (fun _ => {}) s.vfiles k f }

/-- Member `k` of `fe`. -/
def State.fchan (s : State) (k : Nat) : FeChan := Tab.get (fun _ => {}) s.fe k

/-- Member `k` of `fe` changed by `f`. -/
def State.modFchan (s : State) (k : Nat) (f : FeChan → FeChan) : State :=
  { s with fe := Tab.upd (fun _ => {}) s.fe k f }

/-- Member `k` of `sp`. -/
def State.spByte (s : State) (k : Nat) : BitVec 8 := Tab.get (fun _ => 0) s.sp k

/-- Member `k` of `sp` changed by `f`. -/
def State.modSpByte (s : State) (k : Nat) (f : (BitVec 8) → (BitVec 8)) : State :=
  { s with sp := Tab.upd (fun _ => 0) s.sp k f }

/-- Member `k` of `spPois`. -/
def State.spBad (s : State) (k : Nat) : Bool := Tab.get (fun _ => false) s.spPois k

/-- Member `k` of `spPois` changed by `f`. -/
def State.modSpBad (s : State) (k : Nat) (f : Bool → Bool) : State :=
  { s with spPois := Tab.upd (fun _ => false) s.spPois k f }

/-- Registers from `n` on take the values `vs`, with the poison of the data they come from (00 R6). -/
def Ctx.setX (x : Ctx) (n : Nat) (vs : List (BitVec 64)) (bad : Bool) : Ctx :=
  let m : BitVec 64 := BitVec.ofNat 64 ((2 ^ vs.length - 1) * 2 ^ n)
  { x with x := Tab.setRun (fun _ => 0) x.x n vs
           xpois := if bad then x.xpois ||| m else x.xpois &&& ~~~m }

/-- Member `k` of `ctxs`. -/
def State.ctx (s : State) (k : Nat) : Ctx := Tab.get (fun _ => {}) s.ctxs k

/-- Member `k` of `ctxs` changed by `f`. -/
def State.modCtx (s : State) (k : Nat) (f : Ctx → Ctx) : State :=
  { s with ctxs := Tab.upd (fun _ => {}) s.ctxs k f }

/-- Member `k` of `parts`. -/
def State.part (s : State) (k : Nat) : Part := Tab.get (fun _ => {}) s.parts k

/-- Member `k` of `parts` changed by `f`. -/
def State.modPart (s : State) (k : Nat) (f : Part → Part) : State :=
  { s with parts := Tab.upd (fun _ => {}) s.parts k f }

/-- Member `k` of `pages`. -/
def State.page (s : State) (k : Nat) : Page := Tab.get (fun _ => {}) s.pages k

/-- Member `k` of `pages` changed by `f`. -/
def State.modPage (s : State) (k : Nat) (f : Page → Page) : State :=
  { s with pages := Tab.upd (fun _ => {}) s.pages k f }

/-- Member `k` of `streams`. -/
def State.stream (s : State) (k : Nat) : Stream := Tab.get (fun _ => {}) s.streams k

/-- Member `k` of `streams` changed by `f`. -/
def State.modStream (s : State) (k : Nat) (f : Stream → Stream) : State :=
  { s with streams := Tab.upd (fun _ => {}) s.streams k f }

/-- Member `k` of `ports`. -/
def State.hport (s : State) (k : Nat) : Port := Tab.get (fun _ => {}) s.ports k

/-- Member `k` of `ports` changed by `f`. -/
def State.modHport (s : State) (k : Nat) (f : Port → Port) : State :=
  { s with ports := Tab.upd (fun _ => {}) s.ports k f }

/-- Member `k` of `dirs`. -/
def State.dir (s : State) (k : Nat) : List Dir := Tab.get (fun _ => []) s.dirs k

/-- Member `k` of `dirs` changed by `f`. -/
def State.modDir (s : State) (k : Nat) (f : (List Dir) → (List Dir)) : State :=
  { s with dirs := Tab.upd (fun _ => []) s.dirs k f }

/-- Member `k` of `trans`. -/
def State.tran (s : State) (k : Nat) : Translator := Tab.get (fun _ => {}) s.trans k

/-- Member `k` of `trans` changed by `f`. -/
def State.modTran (s : State) (k : Nat) (f : Translator → Translator) : State :=
  { s with trans := Tab.upd (fun _ => {}) s.trans k f }

/-- Member `k` of `lands`. -/
def State.landing (s : State) (k : Nat) : Landing := Tab.get (fun _ => {}) s.lands k

/-- Member `k` of `lands` changed by `f`. -/
def State.modLanding (s : State) (k : Nat) (f : Landing → Landing) : State :=
  { s with lands := Tab.upd (fun _ => {}) s.lands k f }

/-- Member `k` of `routes`. -/
def State.route (s : State) (k : Nat) : BitVec 32 := Tab.get (fun _ => 0) s.routes k

/-- Member `k` of `routes` changed by `f`. -/
def State.modRoute (s : State) (k : Nat) (f : (BitVec 32) → (BitVec 32)) : State :=
  { s with routes := Tab.upd (fun _ => 0) s.routes k f }

/-- Member `k` of `admits`. -/
def State.admission (s : State) (k : Nat) : BitVec 32 := Tab.get (fun _ => 0) s.admits k

/-- Member `k` of `admits` changed by `f`. -/
def State.modAdmit (s : State) (k : Nat) (f : (BitVec 32) → (BitVec 32)) : State :=
  { s with admits := Tab.upd (fun _ => 0) s.admits k f }

/-- Member `k` of `groups`. -/
def State.group (s : State) (k : Nat) : Group := Tab.get (fun _ => {}) s.groups k

/-- Member `k` of `groups` changed by `f`. -/
def State.modGroup (s : State) (k : Nat) (f : Group → Group) : State :=
  { s with groups := Tab.upd (fun _ => {}) s.groups k f }

/-- Member `k` of `pm`. -/
def State.counter (s : State) (k : Nat) : Counter := Tab.get (fun _ => {}) s.pm k

/-- Member `k` of `pm` changed by `f`. -/
def State.modCounter (s : State) (k : Nat) (f : Counter → Counter) : State :=
  { s with pm := Tab.upd (fun _ => {}) s.pm k f }

/-- `cyc` replaced. -/
def State.putCyc (s : State) (v : Nat) : State := { s with cyc := v }

/-- `free` replaced. -/
def State.putFree (s : State) (v : Nat) : State := { s with free := v }

/-- `regs` replaced. -/
def State.putRegs (s : State) (v : Tab (BitVec 64)) : State := { s with regs := v }

/-- `boot` replaced. -/
def State.putBoot (s : State) (v : Boot) : State := { s with boot := v }

/-- `power` replaced. -/
def State.putPower (s : State) (v : Power) : State := { s with power := v }

/-- `slots` replaced. -/
def State.putSlots (s : State) (v : Tab Slot) : State := { s with slots := v }

/-- `parcels` replaced. -/
def State.putParcels (s : State) (v : Tab Parcel) : State := { s with parcels := v }

/-- `mem` replaced. -/
def State.putMem (s : State) (v : List Host.Cell) : State := { s with mem := v }

/-- `pois` replaced. -/
def State.putPois (s : State) (v : Tab Bool) : State := { s with pois := v }

/-- `rows` replaced. -/
def State.putRows (s : State) (v : Tab RowMeta) : State := { s with rows := v }

/-- `bspares` replaced. -/
def State.putBspares (s : State) (v : Tab BankSpares) : State := { s with bspares := v }

/-- `stks` replaced. -/
def State.putStks (s : State) (v : Tab StackSpares) : State := { s with stks := v }

/-- `chans` replaced. -/
def State.putChans (s : State) (v : Tab Channel) : State := { s with chans := v }

/-- `nbus` replaced. -/
def State.putNbus (s : State) (v : Tab Nbu) : State := { s with nbus := v }

/-- `crus` replaced. -/
def State.putCrus (s : State) (v : Tab SumBuf) : State := { s with crus := v }

/-- `hubs` replaced. -/
def State.putHubs (s : State) (v : Tab Hub) : State := { s with hubs := v }

/-- `fe` replaced. -/
def State.putFe (s : State) (v : Tab FeChan) : State := { s with fe := v }

/-- `sp` replaced. -/
def State.putSp (s : State) (v : Tab (BitVec 8)) : State := { s with sp := v }

/-- `spPois` replaced. -/
def State.putSpPois (s : State) (v : Tab Bool) : State := { s with spPois := v }

/-- `ctxs` replaced. -/
def State.putCtxs (s : State) (v : Tab Ctx) : State := { s with ctxs := v }

/-- `parts` replaced. -/
def State.putParts (s : State) (v : Tab Part) : State := { s with parts := v }

/-- `pages` replaced. -/
def State.putPages (s : State) (v : Tab Page) : State := { s with pages := v }

/-- `ports` replaced. -/
def State.putPorts (s : State) (v : Tab Port) : State := { s with ports := v }

/-- `lines` replaced. -/
def State.putLines (s : State) (v : Tab Line) : State := { s with lines := v }

/-- `trans` replaced. -/
def State.putTrans (s : State) (v : Tab Translator) : State := { s with trans := v }

/-- `xacts` replaced. -/
def State.putXacts (s : State) (v : List Xact) : State := { s with xacts := v }

/-- `fw` replaced. -/
def State.putFw (s : State) (v : Firmware) : State := { s with fw := v }

/-- `logs` replaced. -/
def State.putLogs (s : State) (v : Logs) : State := { s with logs := v }

/-- `act` replaced. -/
def State.putAct (s : State) (v : Tab Nat) : State := { s with act := v }

/-- `pm` replaced. -/
def State.putPm (s : State) (v : Tab Counter) : State := { s with pm := v }

/-- `tmap` replaced. -/
def State.putTmap (s : State) (v : TimeMap) : State := { s with tmap := v }

/-- `out` replaced. -/
def State.putOut (s : State) (v : Output) : State := { s with out := v }

end Sys2Proof.Machine
end

