-- ==== Sys2Proof/Machine/Regs.lean ====
section
/-! DEFINITION. The registers of the PF register region that hold written fields: offset, writable bits,
reset value, whether each port has its own, and whether they survive a warm reset (14 R525 and the register tables of
each chapter). -/

namespace Sys2Proof.Machine

/-- A register with writable fields. -/
structure RegRow where
  off : Nat
  width : Nat
  rw : Nat
  reset : Nat
  own : Bool
  keep : Bool
  deriving DecidableEq, Repr

/-- Offset of `HILCFGn` (chapter 02 R73). -/
def rHILCFG : Nat := 0x1040
/-- Offset of `PMAPIDX` (chapter 02 R73). -/
def rPMAPIDX : Nat := 0x1050
/-- Offset of `SPRIDX` (chapter 02 R73). -/
def rSPRIDX : Nat := 0x1060
/-- Offset of `PCCFG` (chapter 03 R118). -/
def rPCCFG : Nat := 0x2000
/-- Offset of `SCRBCFG` (chapter 03 R118). -/
def rSCRBCFG : Nat := 0x2004
/-- Offset of `SCRBTHR` (chapter 03 R118). -/
def rSCRBTHR : Nat := 0x2008
/-- Offset of `ELOGIDX` (chapter 03 R118). -/
def rELOGIDX : Nat := 0x2020
/-- Offset of `SCHCFG` (chapter 04 R163). -/
def rSCHCFG : Nat := 0x3000
/-- Offset of `ARBCFG` (chapter 04 R163). -/
def rARBCFG : Nat := 0x3004
/-- Offset of `ARBHOST` (chapter 04 R163). -/
def rARBHOST : Nat := 0x3008
/-- Offset of `ARBNBS` (chapter 04 R163). -/
def rARBNBS : Nat := 0x300c
/-- Offset of `ARBFER` (chapter 04 R163). -/
def rARBFER : Nat := 0x3010
/-- Offset of `PWRCFG` (chapter 04 R163). -/
def rPWRCFG : Nat := 0x3014
/-- Offset of `RDCFG` (chapter 04 R163). -/
def rRDCFG : Nat := 0x3018
/-- Offset of `HOTCFG` (chapter 04 R163). -/
def rHOTCFG : Nat := 0x301c
/-- Offset of `TRNCFG` (chapter 04 R163). -/
def rTRNCFG : Nat := 0x3020
/-- Offset of `SCIDX` (chapter 04 R163). -/
def rSCIDX : Nat := 0x3030
/-- Offset of `NBCFG` (chapter 06 R269). -/
def rNBCFG : Nat := 0x4000
/-- Offset of `NBIDX` (chapter 06 R269). -/
def rNBIDX : Nat := 0x4008
/-- Offset of `MECFG` (chapter 08 R337). -/
def rMECFG : Nat := 0x5000
/-- Offset of `MEIDX` (chapter 08 R337). -/
def rMEIDX : Nat := 0x5008
/-- Offset of `VEIDX` (chapter 09 R382). -/
def rVEIDX : Nat := 0x6000
/-- Offset of `FEIDX` (chapter 10 R434). -/
def rFEIDX : Nat := 0x7000
/-- Offset of `SQIDX` (chapter 11 R470). -/
def rSQIDX : Nat := 0x8000
/-- Offset of `TRIDX` (chapter 12 R505). -/
def rTRIDX : Nat := 0x9000
/-- Offset of `SPLCFG` (chapter 13 R522). -/
def rSPLCFG : Nat := 0xa000
/-- Offset of `SPLPIN` (chapter 13 R522). -/
def rSPLPIN : Nat := 0xa008
/-- Offset of `COHCFG` (chapter 14 R558). -/
def rCOHCFG : Nat := 0x0008
/-- Offset of `PEERWIN` (chapter 14 R558). -/
def rPEERWIN : Nat := 0x0020
/-- Offset of `PEERSIZE` (chapter 14 R558). -/
def rPEERSIZE : Nat := 0x0028
/-- Offset of `APTIDX` (chapter 14 R558). -/
def rAPTIDX : Nat := 0x0030
/-- Offset of `LFIDX` (chapter 14 R558). -/
def rLFIDX : Nat := 0x0040
/-- Offset of `PTIDX` (chapter 15 R597). -/
def rPTIDX : Nat := 0xb000
/-- Offset of `XLCFG` (chapter 16 R634). -/
def rXLCFG : Nat := 0xc004
/-- Offset of `XLIDX` (chapter 16 R634). -/
def rXLIDX : Nat := 0xc008
/-- Offset of `XRTIDX` (chapter 16 R634). -/
def rXRTIDX : Nat := 0xc020
/-- Offset of `XADIDX` (chapter 16 R634). -/
def rXADIDX : Nat := 0xc028
/-- Offset of `GRPIDX` (chapter 16 R634). -/
def rGRPIDX : Nat := 0xc030
/-- Offset of `CLKCFG` (chapter 17 R665). -/
def rCLKCFG : Nat := 0xd000
/-- Offset of `CLKIDX` (chapter 17 R665). -/
def rCLKIDX : Nat := 0xd008
/-- Offset of `PGCFG` (chapter 17 R665). -/
def rPGCFG : Nat := 0xd030
/-- Offset of `RCVCFG` (chapter 18 R709). -/
def rRCVCFG : Nat := 0xe00c
/-- Offset of `PRSIDX` (chapter 18 R709). -/
def rPRSIDX : Nat := 0xe010
/-- Offset of `FWSRC` (chapter 18 R709). -/
def rFWSRC : Nat := 0xe028
/-- Offset of `TMCFG` (chapter 19 R727). -/
def rTMCFG : Nat := 0xf000
/-- Offset of `TRCCTL` (chapter 19 R727). -/
def rTRCCTL : Nat := 0xf030
/-- Offset of `TRCBASE` (chapter 19 R727). -/
def rTRCBASE : Nat := 0xf038
/-- Offset of `TRCPART` (chapter 19 R727). -/
def rTRCPART : Nat := 0xf040
/-- Offset of `TRCHEAD` (chapter 19 R727). -/
def rTRCHEAD : Nat := 0xf04c
/-- Offset of `PMCTL` (chapter 19 R727). -/
def rPMCTL : Nat := 0xf060
/-- Offset of `PMIDX` (chapter 19 R727). -/
def rPMIDX : Nat := 0xf064
/-- Offset of `BBIDX` (chapter 19 R727). -/
def rBBIDX : Nat := 0xf080

/-- Every register with stored writable fields. -/
def regRows : List RegRow := [
  { off := 0x1040, width := 32, rw := 0x300, reset := 0x0, own := true, keep := false },
  { off := 0x1050, width := 32, rw := 0x1fff, reset := 0x0, own := false, keep := false },
  { off := 0x1060, width := 32, rw := 0x7f, reset := 0x0, own := false, keep := false },
  { off := 0x2000, width := 32, rw := 0x7, reset := 0x2, own := false, keep := true },
  { off := 0x2004, width := 32, rw := 0xff, reset := 0x18, own := false, keep := true },
  { off := 0x2008, width := 32, rw := 0xfff3fff, reset := 0x1003c84, own := false, keep := true },
  { off := 0x2020, width := 32, rw := 0xfff, reset := 0x0, own := false, keep := true },
  { off := 0x3000, width := 32, rw := 0xfffffff, reset := 0x4300a60, own := false, keep := true },
  { off := 0x3004, width := 32, rw := 0x1ffff, reset := 0x103e8, own := false, keep := true },
  { off := 0x3008, width := 32, rw := 0xffffff, reset := 0x4020, own := false, keep := true },
  { off := 0x300c, width := 32, rw := 0xff0f, reset := 0x804, own := false, keep := true },
  { off := 0x3010, width := 32, rw := 0xffff, reset := 0x4440, own := false, keep := true },
  { off := 0x3014, width := 32, rw := 0xffffff, reset := 0xa0a14, own := false, keep := true },
  { off := 0x3018, width := 32, rw := 0xffff7, reset := 0xa0a3, own := false, keep := true },
  { off := 0x301c, width := 32, rw := 0x8fffffff, reset := 0x803e880a, own := false, keep := true },
  { off := 0x3020, width := 32, rw := 0xffffff, reset := 0x67143c, own := false, keep := true },
  { off := 0x3030, width := 32, rw := 0x7ff, reset := 0x0, own := false, keep := false },
  { off := 0x4000, width := 32, rw := 0x3f, reset := 0x12, own := false, keep := true },
  { off := 0x4008, width := 32, rw := 0x7ff, reset := 0x0, own := false, keep := false },
  { off := 0x5000, width := 32, rw := 0xfffffff, reset := 0x4043c10, own := false, keep := true },
  { off := 0x5008, width := 32, rw := 0xf, reset := 0x0, own := false, keep := false },
  { off := 0x6000, width := 32, rw := 0x3f, reset := 0x0, own := false, keep := false },
  { off := 0x7000, width := 32, rw := 0x3ff, reset := 0x0, own := false, keep := false },
  { off := 0x8000, width := 32, rw := 0x3fff, reset := 0x0, own := false, keep := false },
  { off := 0x9000, width := 32, rw := 0xf, reset := 0x0, own := false, keep := false },
  { off := 0xa000, width := 32, rw := 0x3ffffff, reset := 0x30aa0ac, own := false, keep := true },
  { off := 0xa008, width := 64, rw := 0xffffffffffffffff, reset := 0x0, own := false, keep := true },
  { off := 0x0008, width := 32, rw := 0xff03, reset := 0xa03, own := false, keep := true },
  { off := 0x0020, width := 64, rw := 0xffffffffff000, reset := 0x0, own := true, keep := true },
  { off := 0x0028, width := 32, rw := 0xfffffff, reset := 0x0, own := true, keep := true },
  { off := 0x0030, width := 32, rw := 0xf, reset := 0x0, own := true, keep := false },
  { off := 0x0040, width := 32, rw := 0x3ff, reset := 0x0, own := false, keep := false },
  { off := 0xb000, width := 32, rw := 0x3f, reset := 0x0, own := false, keep := false },
  { off := 0xc004, width := 32, rw := 0xfffffff, reset := 0xa0a53c, own := false, keep := true },
  { off := 0xc008, width := 32, rw := 0x1ff, reset := 0x0, own := false, keep := false },
  { off := 0xc020, width := 32, rw := 0x3f, reset := 0x0, own := false, keep := false },
  { off := 0xc028, width := 32, rw := 0xff, reset := 0x0, own := false, keep := false },
  { off := 0xc030, width := 32, rw := 0x3f, reset := 0x0, own := false, keep := false },
  { off := 0xd000, width := 32, rw := 0x1, reset := 0x0, own := false, keep := true },
  { off := 0xd008, width := 32, rw := 0xf, reset := 0x0, own := false, keep := false },
  { off := 0xd030, width := 32, rw := 0xfffff, reset := 0x4d2b4, own := false, keep := true },
  { off := 0xe00c, width := 32, rw := 0x3ff, reset := 0x7a, own := false, keep := true },
  { off := 0xe010, width := 32, rw := 0x3f, reset := 0x0, own := false, keep := false },
  { off := 0xe028, width := 64, rw := 0xffffffffffff, reset := 0x0, own := false, keep := true },
  { off := 0xf000, width := 32, rw := 0xffffff, reset := 0x3e864, own := false, keep := true },
  { off := 0xf030, width := 32, rw := 0xff3f, reset := 0x0, own := true, keep := false },
  { off := 0xf038, width := 64, rw := 0xfffffffffffe0, reset := 0x0, own := true, keep := false },
  { off := 0xf040, width := 64, rw := 0xffffffffffffffff, reset := 0x0, own := true, keep := false },
  { off := 0xf04c, width := 32, rw := 0xffffffff, reset := 0x0, own := true, keep := false },
  { off := 0xf060, width := 32, rw := 0x1, reset := 0x0, own := false, keep := false },
  { off := 0xf064, width := 32, rw := 0xff, reset := 0x0, own := false, keep := false },
  { off := 0xf080, width := 32, rw := 0x3ffff, reset := 0x0, own := false, keep := false }]

/-- The row of the register at `off`, if it has writable fields. -/
def regRow (off : Nat) : Option RegRow := regRows.find? (fun r => r.off == off)

/-- Where the register at `off` of port `port` is kept: shared registers once, a port's own by port. -/
def regKey (port off : Nat) : Nat :=
  match regRow off with
  | some r => if r.own then (port + 1) * 0x100000 + off else off
  | none => off

/-- Reset value of a register of either part: `PGCFG` and `SPLCFG` have their own on NGM9-4608-LC (00 R3). -/
def RegRow.resetOf (r : RegRow) (half : Bool) : Nat :=
  if half then (if r.off = rPGCFG then 0x46c5c else if r.off = rSPLCFG then 0x30a5258 else r.reset) else r.reset

/-- Reset value of the register kept at `k`. -/
def regReset (half : Bool) (k : Nat) : Word :=
  match regRow (k % 0x100000) with
  | some r => BitVec.ofNat 64 (r.resetOf half)
  | none => 0

/-- Stored fields of the register at `off` of port `port`. -/
def State.reg (s : State) (port off : Nat) : Nat := (Tab.get (regReset s.half) s.regs (regKey port off)).toNat

/-- The register at `off` of port `port` with its stored fields at `v`. -/
def State.setReg (s : State) (port off v : Nat) : State :=
  (s.putRegs (Tab.set (regReset s.half) s.regs (regKey port off) (BitVec.ofNat 64 v)))

/-- Field [lo + n - 1 : lo] of the shared register at `off`. -/
def State.cfg (s : State) (off lo n : Nat) : Nat := field (s.reg 0 off) lo n

/-- Where the value in force in unit `unit` of the register at `off` is kept: the module (unit 0), or each channel or each tile. -/
def forceKey (unit off : Nat) : Nat := (6 + unit) * 0x100000 + off

/-- Field [lo + n - 1 : lo] of the value in force of a shared register that a write changes only at a boundary (04 R163;
06 R269; 08 R337; 13 R522). -/
def State.inForce (s : State) (unit off lo n : Nat) : Nat := field (Tab.get (regReset s.half) s.regs (forceKey unit off)).toNat lo n

/-- A boundary of unit `unit`: the registers at `offs` take effect there as they now stand. -/
def State.takeUp (s : State) (unit : Nat) (offs : List Nat) : State :=
  s.putRegs (offs.foldl (fun g o => Tab.set (regReset s.half) g (forceKey unit o) (BitVec.ofNat 64 (s.reg 0 o))) s.regs)

/-- The stored fields after a write of `v`: writable bits taken, every other bit kept (00 R12 to R14). -/
def rwMerge (r : RegRow) (old v : Nat) : Nat := (old &&& (2 ^ 64 - 1 - r.rw)) ||| (v &&& r.rw)

end Sys2Proof.Machine
end

