-- ==== Sys2Proof/Machine/Geometry.lean ====
section
/-! DEFINITION. Where things are: slots, parcels, the bank hash, interleave, and the numbering of banks,
rows and lines (chapter 02). -/

namespace Sys2Proof.Machine

/-- Bytes of a service slot (R51). -/
def slotBytes : Nat := 0x48000000

/-- Tiles of the part (00 R1). -/
def State.tiles (s : State) : List Nat := List.range (if s.half then 8 else 16)

/-- Service slots of the part (00 R1; R53). -/
def State.slotCount (s : State) : Nat := if s.half then 3584 else 7168

/-- Partitions of the part (00 R1). -/
def State.partCount (s : State) : Nat := if s.half then 32 else 64

/-- Host ports of the part (00 R1). -/
def State.portCount (s : State) : Nat := if s.half then 2 else 4

/-- Bytes of the service space (R5, R51; 00 R1). -/
def State.space (s : State) : Nat := s.slotCount * slotBytes

/-- A physical location (02 "Address forms"). -/
structure Loc where
  tile : Nat
  stack : Nat
  chan : Nat
  rank : Nat
  bank : Nat
  row : Nat
  col : Nat
  byte : Nat
  deriving DecidableEq, Repr

/-- The nine bank-select bits after the hash; `inp` are the hash inputs (R66). -/
def hashSel (masks : List Nat) (inp sel : Nat) : Nat :=
  (List.range 9).foldl
    (fun acc k => acc + 2 ^ k * nat (flag sel k != parityOf 26 (inp &&& masks.getD k 0))) 0

/-- Physical location of offset `o` of parcel `p` (R62 to R66). -/
def locOf (masks : List Nat) (p o : Nat) : Loc :=
  let c := field o 5 6
  let rib := field o 20 7
  let g := field o 27 4
  let r := 128 * (p % 512) + rib
  let sel := hashSel masks (g * 2 ^ 22 + r * 2 ^ 6 + c / 2 * 2) (field o 11 9)
  { tile := p / 512
    stack := 2 * (g / 3) + field sel 8 1
    chan := field sel 1 4
    rank := 8 * (g % 3) + field sel 5 3
    bank := field sel 0 1
    row := r
    col := c
    byte := field o 0 5 }

/-- Offset in its parcel of a physical location (R68: the hash is its own inverse). -/
def offsetOf (masks : List Nat) (l : Loc) : Nat :=
  let g := 3 * (l.stack / 2) + l.rank / 8
  let sel := l.bank + 2 * l.chan + 32 * (l.rank % 8) + 256 * (l.stack % 2)
  let sel' := hashSel masks (g * 2 ^ 22 + l.row * 2 ^ 6 + l.col / 2 * 2) sel
  g * 2 ^ 27 + l.row % 128 * 2 ^ 20 + sel' * 2 ^ 11 + l.col * 32 + l.byte

/-- Bank number within the tile (R65). -/
def Loc.tileBank (l : Loc) : Nat := ((l.stack * 16 + l.chan) * 24 + l.rank) * 2 + l.bank

/-- Module bank number (R65). -/
def Loc.moduleBank (l : Loc) : Nat := l.tile * 4608 + l.tileBank

/-- Module channel: 16 × module stack + channel. -/
def chanOfBank (b : Nat) : Nat := b / 48

/-- Tile of a module channel. -/
def tileOfChan (c : Nat) : Nat := c / 96

/-- Module bank of bank `j` = 2 × rank + bank bit of a module channel (R138). -/
def bankOf (c j : Nat) : Nat := c * 48 + j

/-- Row key: module bank × 65536 + row. -/
def rowKey (b r : Nat) : Nat := b * 65536 + r

/-- Line key: row key × 32 + column pair (R35); byte n of the line is memory byte 64 × key + n. -/
def lineKey (b r pair : Nat) : Nat := rowKey b r * 32 + pair

/-- Column key: row key × 64 + column; line `k` is columns 2k and 2k + 1 (R35). -/
def colKey (rk c : Nat) : Nat := rk * 64 + c

/-- Line key of a location. -/
def Loc.line (l : Loc) : Nat := lineKey l.moduleBank l.row (l.col / 2)

/-- Location of the first byte of a line. -/
def locOfLine (k : Nat) : Loc :=
  let b := k / 32 / 65536
  { tile := b / 4608, stack := b % 4608 / 768, chan := b % 768 / 48, rank := b % 48 / 2, bank := b % 2
    row := k / 32 % 65536, col := 2 * (k % 32), byte := 0 }

/-- Physical parcel that holds a line (R52). -/
def parcelOfLine (k : Nat) : Nat := k / 32 / 65536 / 4608 * 512 + k / 32 % 65536 / 128

/-- Location of service address `sa` (02 "translate"). -/
def State.locate (s : State) (sa : Nat) : Loc :=
  locOf s.boot.hashMask (s.slot (sa / slotBytes)).phys (sa % slotBytes)

/-- Physical parcel of a slot as channel `ch` sees it: the target of a move from the channel's first yield point after the flip on
(R56). -/
def State.physOn (s : State) (ch slot : Nat) : Nat :=
  let x := s.slot slot
  match x.moveTo with
  | some q => if x.flipping ∧ ¬ slot ∈ (s.chan ch).flips then q else x.phys
  | none => x.phys

/-- Line key of service address `sa`. -/
def State.lineOfSa (s : State) (sa : Nat) : Nat := (s.locate sa).line

/-- The slot bound to parcel `p`, if any (R51). -/
def State.slotOfParcel (s : State) (p : Nat) : Option Nat :=
  match s.slots.find? (fun e => e.2.phys == p && decide (e.1 < s.slotCount)) with
  | some e => some e.1
  | none =>
    let d := if s.half then p % 512 * 8 + p / 512 else p % 512 * 16 + p / 512
    if d < s.slotCount ∧ (s.slot d).phys = p then some d else none

/-- Service address of the first byte of a line, if its parcel is bound to a slot. -/
def State.saOfLine (s : State) (k : Nat) : Option Nat :=
  (s.slotOfParcel (parcelOfLine k)).map
    (fun sl => sl * slotBytes + offsetOf s.boot.hashMask (locOfLine k))

/-- Ways of an HILCFG.IW value (R73). -/
def waysOf (iw : Nat) : Nat := if iw = 0 then 1 else if iw = 1 then 2 else if iw = 2 then 4 else if iw = 8 then 3 else 0

/-- Granule in bytes of an HILCFG.IG value (R44). -/
def granuleOf (ig : Nat) : Nat := 256 * 2 ^ ig

/-- Port DPA of a service address (R50). -/
def portDpa (g w sa : Nat) : Nat := sa / (g * w) * g + sa % g

/-- Port DPA on port `p` of a service address, under the interleave the port has committed (02 "Host interleave"). -/
def State.dpaOn (s : State) (p sa : Nat) : Nat :=
  portDpa (granuleOf (s.hport p).ig) (max 1 (waysOf (s.hport p).iw)) sa

/-- ADDR of a log entry for a request of requester `who` at service address `sa`: the port DPA for a host port's, the service address
for the others (03 R117). -/
def State.addrFor (s : State) (who sa : Nat) : Nat := if who < 4 then s.dpaOn who sa else sa

/-- HILCFGn.POS of port `p`. -/
def State.hilPos (s : State) (p : Nat) : Nat := field (s.reg p rHILCFG) 8 2

/-- The service address that host address `hpa` on port `p` stands for, when the test of R48 passes. -/
def State.hostSa (s : State) (p hpa : Nat) : Option Nat :=
  let h := s.hport p
  if h.base ≤ hpa ∧ hpa - h.base < s.space then
    let sa := hpa - h.base
    if sa / granuleOf h.ig % waysOf h.iw = s.hilPos p then some sa else none
  else none

/-- Parcels of tile `t`'s reserve that are free: in service, bound to no slot. -/
def State.parcelFree (s : State) (p : Nat) : Bool :=
  !(s.parcel p).retired && (s.slotOfParcel p).isNone

/-- Free reserve parcels of a tile, ascending band. A retired tile has none (R60). -/
def State.freeParcels (s : State) (t : Nat) : List Nat :=
  if (s.hub t).retired then []
  else ((List.range 512).map (fun b => t * 512 + b)).filter (fun p =>
    s.parcelFree p && !s.slots.any (fun e => e.2.moveTo == some p))

/-- Service slots bound to parcels of tile `t`. -/
def State.slotsOn (s : State) (t : Nat) : List Nat :=
  (List.range s.slotCount).filter (fun i => (s.slot i).phys / 512 == t)

/-- Free reserve parcels of the module (RSVSTAT.FREE). -/
def State.freeTotal (s : State) : Nat := (s.tiles.map (fun u => (s.freeParcels u).length)).sum

/-- RSVSTAT.COVER: the reserve covers every tile (R59). -/
def State.covered (s : State) : Bool :=
  s.tiles.all (fun t =>
    decide ((s.slotsOn t).length ≤
      ((s.tiles.filter (· != t)).map (fun u => (s.freeParcels u).length)).sum))

/-- The reserve parcel R58 chooses for a slot that lies on tile `t`. -/
def State.moveTarget (s : State) (t : Nat) : Option Nat :=
  match s.freeParcels t with
  | p :: _ => some p
  | [] =>
    (s.tiles.foldl (fun (best : Nat × Option Nat) u =>
      match s.freeParcels u with
      | [] => best
      | q :: l => if best.1 < l.length + 1 then (l.length + 1, some q) else best) (0, none)).2

/-- Tiles of the part that have been retired. -/
def State.lostTiles (s : State) : List Nat := s.tiles.filter (fun t => (s.hub t).retired)

/-- Slots owned by a partition (15 R563). -/
def State.slotsOf (s : State) (p : Nat) : List Nat :=
  (List.range s.slotCount).filter (fun i => (s.slot i).owner == some p)

/-- Contexts granted to a partition (15 R563). -/
def State.ctxsOf (s : State) (p : Nat) : List Nat :=
  (List.range 64).filter (fun c => (s.ctx c).part == some p)

end Sys2Proof.Machine
end

