-- ==== Sys2Proof/Machine/Report.lean ====
section
/-! DEFINITION. How the module reports: time, black box, trace, counters, writes to host memory, events,
completions and the two logs (chapters 14, 15 and 19, and 03 R117). -/

namespace Sys2Proof.Machine

/-- Timestamp of hub `t` in 100 MHz counts (19 R721): sixteen engine cycles a count. -/
def State.stampOf (s : State) (t : Nat) : Nat :=
  (s.boot.stampBase + (s.cyc / 16 : Nat) + (s.hub t).stampAdj).toNat

/-- TMSTAMP: the lead tile's counter (19 R721). -/
def State.stamp (s : State) : Nat := s.stampOf s.boot.lead

/-- The oldest queued happening starts its commit, where none is in progress (19 R716 to R718). -/
def Box.startCommit (b : Box) : Box :=
  match b.cur, b.queue with
  | none, h :: q => { b with cur := some (h, b.lost), lost := 0, queue := q }
  | _, _ => b

/-- A tile whose hand-over to another image is in progress: its black box only queues (18 R704). -/
def State.boxHeld (s : State) (t : Nat) : Bool := s.fw.st == 2 && s.fw.tile == t

/-- A happening put behind those queued, but before those of its own cycle with a greater TYPE (19 R717). -/
def insertHappening (h : Happening) : List Happening → List Happening
  | [] => [h]
  | g :: r => if g.cyc = h.cyc ∧ h.typ < g.typ then h :: g :: r else g :: insertHappening h r

/-- A happening enters the holding queue; one of its own cycle with a greater TYPE, whose commit starts in that cycle, goes behind it
(19 R717). -/
def Box.enter (b : Box) (h : Happening) : Box :=
  match b.cur with
  | some (g, l) =>
    if g.cyc = h.cyc ∧ h.typ < g.typ then { b with cur := some (h, l), queue := insertHappening g b.queue }
    else { b with queue := insertHappening h b.queue }
  | none => { b with queue := insertHappening h b.queue }

/-- A happening put into tile `t`'s holding queue, at its head or in its order, or counted lost; it starts its commit where
nothing is before it (19 R717, R718). -/
def State.bboxPut (s : State) (t : Nat) (first : Bool) (h : Happening) : State :=
  let held := s.boxHeld t
  s.modHub t (fun hb =>
    let b := hb.bb
    let b1 := if b.queue.length < 64 then (if first then { b with queue := h :: b.queue } else b.enter h)
      else { b with lost := satNat 16 (b.lost + 1) }
    { hb with bb := if held then b1 else b1.startCommit })

/-- A happening recorded in tile `t`'s black box (19 R717). -/
def State.bbox (s : State) (t : Nat) (typ : Nat) (part : Option Nat) (ctx : Nat)
    (payload : List (Nat × Nat × Nat)) : State :=
  s.bboxPut t false { typ := typ, time := BitVec.ofNat 64 (s.stampOf t), part := part, ctx := ctx, payload := payload, cyc := s.cyc }

/-- The power-fail record, which enters at the head of the queue (19 R717). -/
def State.bboxHead (s : State) (t : Nat) (typ : Nat) (payload : List (Nat × Nat × Nat)) : State :=
  s.bboxPut t true { typ := typ, time := BitVec.ofNat 64 (s.stampOf t), part := none, ctx := 63, payload := payload, cyc := s.cyc }

/-- Performance counter `i` of tile `t` advanced by `n` when it counts `event` for `part` (19 R713). -/
def State.countOne (s : State) (t i event : Nat) (part : Option Nat) (n : Nat) : State :=
  s.modCounter (t * 16 + i) (fun c =>
    let sel := c.sel.toNat
    let any := event = 0x0C ∨ event = 0x0E ∨ event = 0x0F
    if field sel 0 8 = event ∧ (flag sel 14 = false ∨ any ∨ part = some (field sel 8 6)) then
      let v := c.count.toNat + n
      { c with count := BitVec.ofNat 48 v
               sel := if v < 2 ^ 48 then c.sel else c.sel ||| 0x8000#32 }
    else c)

/-- Every counter of tile `t` told of `n` events (19 R713, R714: none counts while frozen). -/
def State.count (s : State) (t event : Nat) (part : Option Nat) (n : Nat) : State :=
  if flag (s.reg 0 rPMCTL) 0 then s
  else (List.range 16).foldl (fun s i => s.countOne t i event part n) s

/-- `n` units of activity `k` counted for the governor's estimate: 0 near-bank columns, 1 columns over the stack interface, 2 slice operand
cycles, 3 vector port cycles, 4 mesh units of 64 bytes, 5 flits, 6 host units of 64 bytes (13 R512). -/
def State.spend (s : State) (k n : Nat) : State := s.putAct (Tab.upd (fun _ => 0) s.act k (· + n))

/-- A device write to host memory put on its way (14 R544 to R554). Completions and events wait while a data
write of their partition is not yet observed, and carry poison when one of them has failed (R554). -/
def State.hostWrite (s : State) (w : HostWrite) : State :=
  let flagged := w.kind = .completion ∨ w.kind = .event
  let blocked := s.out.inflight.any (fun v => v.part == w.part && v.kind == WriteKind.data)
  let pois := w.poison || (decide flagged && (match w.part with | some p => (s.part p).wfail | none => false))
  let w' := { w with id := s.out.nextId, poison := pois, sent := !(decide flagged && blocked) }
  let s1 := (s.spend 6 (ceilDiv w.data.length 64)).putOut { s.out with inflight := s.out.inflight ++ [w'], nextId := s.out.nextId + 1 }
  match w.part with
  | some p => if flagged ∧ ¬ blocked = true then s1.modPart p (fun q => { q with wfail := false }) else s1
  | none => s1

/-- Trace records a port may write in a microsecond: 2 GB/s are 2000 bytes, 62 whole records. The time over which the rate is taken the spec
does not give (19 R712; DESIGN CHOICE, log entry 99). -/
def traceRate : Nat := 62

/-- Records written in the present microsecond of 1600 engine cycles. -/
def Trace.recent (t : Trace) (cyc : Nat) : Nat := if t.window.1 = cyc / 1600 then t.window.2 else 0

/-- One trace record on port `p`, or a dropped one (19 R711, R712). -/
def State.traceOn (s : State) (p kind : Nat) (part : Option Nat) (ctx eng step op arg1 arg2 : Nat) : State :=
  let ctl := s.reg p rTRCCTL
  let sel := match part with | some q => flag (s.reg p rTRCPART) q | none => true
  if flag ctl 0 ∧ flag ctl (8 + (kind - 1)) ∧ sel = true then
    let tr := (s.hport p).trace
    let size := 2 ^ field ctl 1 5
    if (tr.issued.toNat + 2 ^ 32 - s.reg p rTRCHEAD % 2 ^ 32) % 2 ^ 32 < size ∧ tr.recent s.cyc < traceRate then
      let data := leBytes 8 s.stamp ++ leBytes 1 kind ++ leBytes 1 ctx ++
        leBytes 1 (match part with | some q => q + 64 | none => 0) ++ leBytes 1 eng ++
        leBytes 4 (step % 2 ^ 24 + op * 2 ^ 24) ++ leBytes 8 arg1 ++ leBytes 4 arg2 ++
        leBytes 2 tr.dropNow ++ leBytes 2 0
      (s.modHport p (fun h => { h with trace := { tr with
          issued := tr.issued + 1, dropNow := 0, window := (s.cyc / 1600, tr.recent s.cyc + 1) } })).hostWrite
        { port := p, part := none, addr := s.reg p rTRCBASE + 32 * (tr.issued.toNat % size), data := data, kind := .trace }
    else
      s.modHport p (fun h => { h with trace := { tr with drop := satNat 32 (tr.drop + 1), dropNow := satNat 16 (tr.dropNow + 1) } })
  else s

/-- A happening traced on every port whose filters name it (19 R711). -/
def State.trace (s : State) (kind : Nat) (part : Option Nat) (ctx eng step op arg1 arg2 : Nat) : State :=
  (List.range 4).foldl (fun s p => s.traceOn p kind part ctx eng step op arg1 arg2) s

/-- Set-up page of a partition's VF (15 R561, R566). -/
def State.pageOfPart (s : State) (p : Nat) : Nat := 17 * (s.part p).port + (s.part p).vf + 1

/-- The partition that a set-up page serves; none for the admin ring of a PF (15 R561). -/
def State.partOfPage (s : State) (k : Nat) : Option Nat :=
  if k % 17 = 0 then none
  else (List.range 64).find? (fun p =>
    (s.part p).st != .free && (s.part p).st != .homeless && s.pageOfPart p == k)

/-- log₂ of the submission ring (15 R567). -/
def Page.sqsz (p : Page) : Nat := field p.ringsz.toNat 0 5
/-- log₂ of the completion ring (15 R567). -/
def Page.cqsz (p : Page) : Nat := field p.ringsz.toNat 8 5
/-- log₂ of the event ring (15 R567). -/
def Page.eqsz (p : Page) : Nat := field p.ringsz.toNat 16 5

/-- PHASE of ring index `i` in a ring of 2^n entries (15 R576). -/
def phaseOf (i n : Nat) : Nat := i / 2 ^ n % 2

/-- The 64 bytes of the ring control line (15 R572). -/
def State.controlLine (s : State) (k : Nat) : List Byte :=
  let p := s.page k
  let acks := match s.partOfPage k with
    | some q => (List.range 8).flatMap (fun i => leBytes 4 (Tab.get (fun _ => 0) (s.part q).h2dack i).toNat)
    | none => List.replicate 32 0
  padTo 64 (leBytes 4 p.sqhead.toNat ++ leBytes 4 p.cqtail.toNat ++ leBytes 4 p.eqtail.toNat ++ acks)

/-- The ring control line written as a flag (15 R572). -/
def State.writeControl (s : State) (k : Nat) : State :=
  s.hostWrite { port := k / 17, part := s.partOfPage k, addr := (s.page k).rcaddr.toNat, data := s.controlLine k, kind := .control }

/-- The bytes of a completion at ring index `i` (15 R588). -/
def Completion.bytes (c : Completion) (phase : Nat) : List Byte :=
  leBytes 4 c.tag.toNat ++ leBytes 1 c.status.toNat ++ leBytes 1 c.detail.toNat ++
  leBytes 1 (phase + 2 * nat c.poison + 4 * nat c.sat + 8 * nat c.range) ++ leBytes 1 c.vexc.toNat ++
  leBytes 4 c.value.toNat ++ leBytes 4 (c.step.toNat + c.ctx.toNat * 2 ^ 24)

/-- A completion written into ring `k` (15 R569, R576, R588); with the rings off it is held until they run again
(R574, R675). -/
def State.writeCompletion (s : State) (k : Nat) (c : Completion) : State :=
  let p := s.page k
  if p.en then
    let i := p.cqtail.toNat
    let part := s.partOfPage k
    let s1 := s.hostWrite
      { port := k / 17, part := part, addr := p.cqbase.toNat + 16 * (i % 2 ^ p.cqsz),
        data := c.bytes (phaseOf i p.cqsz), kind := .completion, vec := if c.irq then some 0 else none }
    let s2 := s1.modPage k (fun p => { p with cqtail := p.cqtail + 1 })
    (s2.trace 5 part c.ctx.toNat 0 0 0 c.tag.toNat c.status.toNat).writeControl k
  else match s.partOfPage k with
    | some p => s.modPart p (fun q => { q with held := q.held ++ [c] })
    | none => s

/-- Descriptor `serial` leaves the list of descriptors fetched and not completed (15 R573). -/
def State.dropDesc (s : State) (k serial : Nat) : State :=
  s.modPage k (fun p => { p with fetched := p.fetched.filter (fun d => d.serial != serial) })

/-- The completion of descriptor `r`: written, or held while its partition is PRESERVED (18 R675). -/
def State.complete (s : State) (r : DescRef) (c : Completion) : State :=
  let c := { c with tag := r.tag, irq := r.irq }
  let s1 := s.dropDesc r.page r.serial
  match s.partOfPage r.page with
  | some p =>
    if (s.part p).st = .preserved then
      s1.modPart p (fun q => { q with held := q.held ++ [c] })
    else s1.writeCompletion r.page c
  | none => s1.writeCompletion r.page c

/-- The completion of descriptor `r` written at once: ATTACH, RESET, FENCE and refusals (18 R681, R682). -/
def State.completeNow (s : State) (r : DescRef) (c : Completion) : State :=
  (s.dropDesc r.page r.serial).writeCompletion r.page { c with tag := r.tag, irq := r.irq }

/-- A payload laid out in `n` zero bytes from byte `base` (fields are byte offset, length, value). -/
def payloadBytes (base n : Nat) (fs : List (Nat × Nat × Nat)) : List Byte :=
  fs.foldl (fun l f => putBytes l (f.1 - base) f.2.1 f.2.2) (List.replicate n 0)

/-- An event written into ring `k`, or counted lost (15 R578, R590; 18 R676). -/
def State.eventOn (s : State) (k : Nat) (typ : Nat) (payload : List (Nat × Nat × Nat)) : State :=
  let p := s.page k
  let i := p.eqtail.toNat
  if p.en = true ∧ (i + 2 ^ 32 - p.eqhead.toNat) % 2 ^ 32 < 2 ^ p.eqsz then
    let part := s.partOfPage k
    let data := leBytes 8 s.stamp ++ leBytes 1 typ ++ leBytes 1 (phaseOf i p.eqsz) ++ leBytes 2 p.lostNow ++
      leBytes 4 p.evseq.toNat ++ payloadBytes 16 16 payload
    let s1 := s.hostWrite
      { port := k / 17, part := part, addr := p.eqbase.toNat + 32 * (i % 2 ^ p.eqsz), data := data,
        kind := .event, vec := some 1 }
    let s2 := s1.modPage k (fun p => { p with eqtail := p.eqtail + 1, evseq := p.evseq + 1, lostNow := 0 })
    (s2.trace 6 part 0 0 0 0 typ 0).writeControl k
  else
    s.modPage k (fun p => { p with
      evlost := if p.en then satNat 16 (p.evlost + 1) else p.evlost
      lostNow := satNat 16 (p.lostNow + 1) })

/-- An event posted to a partition (15 R590). -/
def State.event (s : State) (p : Nat) (typ : Nat) (payload : List (Nat × Nat × Nat)) : State :=
  match (s.part p).st with
  | .free | .homeless => s
  | _ => s.eventOn (s.pageOfPart p) typ payload

/-- An event posted to the owner of a slot, if it has one. -/
def State.eventOwner (s : State) (slot : Nat) (typ : Nat) (payload : List (Nat × Nat × Nat)) : State :=
  match (s.slot slot).owner with
  | some p => s.event p typ payload
  | none => s

/-- An event posted to every event ring that is enabled. -/
def State.eventAll (s : State) (typ : Nat) (payload : List (Nat × Nat × Nat)) : State :=
  (List.range 68).foldl (fun s k => if (s.page k).en then s.eventOn k typ payload else s) s

/-- Location word of an error-log entry (03 R117): `col` 127 stands for the whole row. -/
def elogLoc (line col : Nat) : Nat :=
  let l := locOfLine line
  (6 * l.tile + l.stack) + l.chan * 2 ^ 7 + l.rank * 2 ^ 11 + l.bank * 2 ^ 16 + l.row * 2 ^ 17 + col * 2 ^ 33 +
    parcelOfLine line * 2 ^ 40

/-- Strength in force of parcel `p`: its slot's CODE, or its wear floor where it is bound to no slot (03 R110;
18 R671), the strength before it while a re-encode to the floor is in progress (03 R111). -/
def State.parcelCode (s : State) (p : Nat) : Nat :=
  match s.slotOfParcel p with
  | some sl => (s.slot sl).code
  | none => ((s.parcel p).code).getD (s.parcel p).floor

/-- Strength a row is encoded with (03 R83). -/
def State.rowCode (s : State) (r : Nat) : Nat := ((s.row r).code).getD (s.parcelCode (parcelOfLine (32 * r)))

/-- An entry of the module error log, merged into an earlier one where R117 says so, with its copy in the
black box and the counters CORRCNT and UNCCNT (03 R117, R118). -/
def State.logError (s : State) (line col kind path ncorr : Nat) (part : Option Nat) (addr : Nat) : State :=
  let lg := s.logs
  let loc := elogLoc line col
  let correctable := kind = 1 ∨ kind = 2 ∨ kind = 0x0D
  let prior := lg.elog.find? (fun e =>
    decide correctable && decide (field (e.2.getD 2 0).toNat 0 8 = kind) &&
    decide (field (e.2.getD 1 0).toNat 0 33 = field loc 0 33) && decide (lg.passTime ≤ (e.2.getD 0 0).toNat))
  let lg1 := { lg with
    corrcnt := if kind = 1 then satNat 32 (lg.corrcnt + 1) else lg.corrcnt
    unccnt := if kind = 3 ∨ kind = 4 ∨ kind = 5 then satNat 32 (lg.unccnt + 1) else lg.unccnt }
  match prior with
  | some e =>
    let info := (e.2.getD 2 0).toNat
    let n := satNat 16 (field info 32 16 + 1)
    let info' := info - field info 32 16 * 2 ^ 32 + n * 2 ^ 32
    (s.putLogs { lg1 with
        elog := Tab.set (fun _ => []) lg.elog e.1
          [e.2.getD 0 0, e.2.getD 1 0, BitVec.ofNat 64 info', e.2.getD 3 0] })
  | none =>
    let code := s.rowCode (line / 32)
    let info := kind + path * 2 ^ 8 + code * 2 ^ 12 + ncorr * 2 ^ 15 +
      (match part with | some p => p * 2 ^ 22 + 2 ^ 28 | none => 0) + 2 ^ 32 + lg.eseq * 2 ^ 48
    let words : List Word := [BitVec.ofNat 64 s.stamp, BitVec.ofNat 64 loc, BitVec.ofNat 64 info, BitVec.ofNat 64 addr]
    let s1 := (s.putLogs { lg1 with
        elog := Tab.set (fun _ => []) lg.elog lg.ehead words
        ehead := (lg.ehead + 1) % 4096
        ewrap := lg.ewrap || (Tab.get (fun _ => []) lg.elog lg.ehead != [])
        eseq := (lg.eseq + 1) % 65536 })
    s1.bbox (locOfLine line).tile 2 part 63
      [(24, 8, s.stamp), (32, 8, loc), (40, 8, info), (48, 8, addr)]

/-- The memory-error event of R115 to the owner of the slot that holds `line` (15 R590). -/
def State.memEvent (s : State) (line kind seq : Nat) : State :=
  match s.slotOfParcel (parcelOfLine line) with
  | some sl => s.eventOwner sl 2 [(16, 2, seq), (18, 1, kind), (20, 2, sl)]
  | none => s

/-- Address an error-log entry carries for paths other than the host's: the service address. -/
def State.logAddr (s : State) (line : Nat) : Nat := (s.saOfLine line).getD 0

/-- An uncorrectable event logged and its event posted (03 R115). NCORR is 127, a decode failure, also in an entry of kind row tag,
for which no decode is made and the spec gives no value (DESIGN CHOICE, log entry 84); a suspected miscorrection carries the bits
its decode corrected. -/
def State.uncorrectable (s : State) (line col kind path ncorr : Nat) (part : Option Nat) (addr : Nat) : State :=
  (s.logError line col kind path ncorr part addr).memEvent line kind s.logs.eseq

/-- A late failure entered in its log, with the black-box copy on the lead tile (14 R557), and the failure
counts of PDRAIN for a host write (R553). -/
def State.lateLog (s : State) (reason srck port : Nat) (part : Option Nat) (modid addr sa : Nat) : State :=
  let lg := s.logs
  let info := srck + port * 16 + (match part with | some p => p * 2 ^ 8 + 2 ^ 14 | none => 0) + modid * 2 ^ 15 +
    reason * 2 ^ 21 + lg.lfseq * 2 ^ 32
  let words : List Word := [BitVec.ofNat 64 s.stamp, BitVec.ofNat 64 addr, BitVec.ofNat 64 info, BitVec.ofNat 64 sa]
  let s1 := (s.putLogs { lg with
      lflog := Tab.set (fun _ => []) lg.lflog lg.lfhead words
      lfhead := (lg.lfhead + 1) % 1024
      lfwrap := lg.lfwrap || (Tab.get (fun _ => []) lg.lflog lg.lfhead != [])
      lfseq := (lg.lfseq + 1) % 65536 })
  let s2 := s1.bbox s.boot.lead 3 part 63 [(24, 8, s.stamp), (32, 8, addr), (40, 8, info), (48, 8, sa)]
  if srck = 0 ∨ srck = 1 ∨ srck = 5 then s2.modHport port (fun h => { h with
      fails := satNat 32 (h.fails + 1)
      partFails := match part with
        | some p => if srck = 0 then Tab.upd (fun _ => 0) h.partFails p (fun n => satNat 32 (n + 1)) else h.partFails
        | none => h.partFails }) else s2

/-- A late failure counted on a port for its PF's PDRAIN (14 R558). -/
def Port.countFail (h : Port) : Port := { h with fails := satNat 32 (h.fails + 1) }

/-- A late failure: its log entry, and the event to the initiating partition (14 R551). -/
def State.lateFail (s : State) (reason srck port : Nat) (part : Option Nat) (modid addr sa : Nat) : State :=
  let s1 := s.lateLog reason srck port part modid addr sa
  match part with
  | some p => s1.event p 1 [(16, 2, s.logs.lfseq), (18, 1, reason)]
  | none => s1

/-- A write to host memory answered by the host or discarded with its port: a failed data write marks the
waiting flags of its partition and is a late failure (14 R550, R551, R554). -/
def State.hostDone (s : State) (w : HostWrite) (ok : Bool) : State :=
  let rest := s.out.inflight.filter (fun v => v.id != w.id)
  let marked := if !ok && w.kind == WriteKind.data then
      rest.map (fun v => if v.part == w.part && !v.sent then { v with poison := true } else v) else rest
  let anyWait := rest.any (fun v => v.part == w.part && !v.sent)
  let freed := marked.map (fun v => { v with
    sent := v.sent || !(marked.any (fun u => u.kind == WriteKind.data && u.part == v.part && decide (u.id < v.id))) })
  let s1 := (s.putOut { s.out with
    inflight := freed
    msix := match w.vec, ok with
      | some v, true => (w.port, (match w.part with | some p => (s.part p).vf + 1 | none => 0), v) :: s.out.msix
      | _, _ => s.out.msix })
  if ok then s1
  else if w.kind = .event then
    s1.lateLog 5 1 w.port w.part 0 w.addr 0
  else
    let s2 := match w.part with
      | some p => if w.kind = WriteKind.data ∧ ¬ anyWait = true then s1.modPart p (fun q => { q with wfail := true }) else s1
      | none => s1
    s2.lateFail 5 1 w.port w.part 0 w.addr 0

end Sys2Proof.Machine
end

