-- ==== Sys2Proof/Machine/Msg.lean ====
section
/-! DEFINITION. Messages over the crossing links: flits of a landing, routes, the message header, and the messages of
global operations (16 R603 to R618, R626 to R631). -/

namespace Sys2Proof.Machine

/-- A landing that carries flits: up at 24 or at 12 lanes (R634). -/
def Landing.up (l : Landing) : Bool := l.st == 2 || l.st == 3

/-- The landings that an entry of the route table can choose: valid, and up (R613, R617). -/
def State.routeLands (s : State) (dst : Nat) : List Nat :=
  let e := (s.route dst).toNat
  if flag e 18 then ((List.range (field e 16 2 + 1)).map (fun i => field e (4 * i) 4)).filter (fun l => (s.landing l).up) else []

/-- The landing of a message from stream `sstr` of module `src` to module `dst` (R613). -/
def State.routeOf (s : State) (src sstr dst : Nat) : Option Nat :=
  let ls := s.routeLands dst
  if ls = [] then none else ls[(src + sstr) % ls.length]?

/-- The header of a transaction message (R618); `addr` is the 48-bit ADDR field. -/
def msgHeader (mk lines dst src part hops sstr tag addr : Nat) (sp : Bool) (status pois : Nat) : BitVec 128 :=
  BitVec.ofNat 128 (mk + lines * 2 ^ 4 + dst * 2 ^ 8 + src * 2 ^ 14 + part * 2 ^ 20 + hops * 2 ^ 26 + sstr * 2 ^ 28 + tag * 2 ^ 36 +
    addr * 2 ^ 52 + nat sp * 2 ^ 100 + status * 2 ^ 101 + pois * 2 ^ 105)

/-! ### Flits (R603 to R607) -/

/-- The 256 bytes of a flit: SEQ and FK, the payload padded with zero units, FCRC (R603, R604). -/
def flitWord (seq fk : Nat) (payload : List Byte) : BitVec 2048 :=
  let b := leBytes 2 (seq + 4096 * fk) ++ padTo 252 payload
  BitVec.ofNat 2048 (ofLe (b ++ leBytes 2 (crc16 b).toNat))

/-- Flits put on landing `land`'s lanes, counted and charged (R603; 19 R714 event 0x0F; 13 R512). -/
def State.emit (s : State) (land : Nat) (fs : List (BitVec 2048)) : State :=
  ((s.putOut { s.out with flits := (fs.map (fun f => (land, f))).reverse ++ s.out.flits }).count land 0x0F none fs.length).spend 5 fs.length

/-- A link-control message (R605). -/
def controlUnit (ack : Nat) (nak : Bool) (cls credit : Nat) : BitVec 32 :=
  BitVec.ofNat 32 (1 + ack % 4096 * 16 + nat nak * 2 ^ 16 + cls * 2 ^ 17 + credit * 2 ^ 19)

/-- The last sequence number received in order: e − 1. -/
def Landing.lastIn (l : Landing) : Nat := (l.exp + 4095) % 4096

/-- A landing sends a link-control message in a control flit, with its current ACK (R604 to R606). -/
def State.sendControl (s : State) (land : Nat) (nak : Bool) (cls credit : Nat) : State :=
  s.emit land [flitWord 0 1 (leBytes 4 (controlUnit (s.landing land).lastIn nak cls credit).toNat)]

/-- A payload cut into flits' payloads of 252 bytes (R604). -/
def flitPayloads (l : List Byte) : List (List Byte) := (List.range (ceilDiv l.length 252)).map (fun i => (l.drop (252 * i)).take 252)

/-- A payload sent: its flits numbered, kept until acknowledged, and put on the lanes (R603, R607). -/
def State.sendPayload (s : State) (land : Nat) (l : List Byte) : State :=
  let seq := (s.landing land).seq
  let fs := (flitPayloads l).zipIdx.map (fun p => ((seq + p.2) % 4096, padTo 252 p.1))
  (s.modLanding land (fun x => { x with unack := x.unack ++ fs, seq := (seq + fs.length) % 4096 })).emit land
    (fs.map (fun f => flitWord f.1 0 f.2))

/-- Every flit kept sent again in order (R609, R610). -/
def State.replay (s : State) (land : Nat) : State :=
  (s.modLanding land (fun x => { x with replays := satNat 16 (x.replays + 1) })).emit land
    ((s.landing land).unack.map (fun f => flitWord f.1 0 f.2))

/-! ### Outgoing messages (R607, R613, R615, R625) -/

/-- Buffer class of a message kind (R618). -/
def clsOf (mk : Nat) : Nat := if mk ≤ 3 then 0 else if mk = 7 then 2 else 1

/-- Bytes of a message (R618). -/
def TxMsg.size (m : TxMsg) : Nat := 16 + m.data.length

/-- 64-byte credits that a message of `n` bytes takes. -/
def creditsOf (n : Nat) : Nat := ceilDiv n 64

/-- The neighbour's buffers that a message waits for: those of its class at level h + 1 after h landings crossed (R615). -/
def TxMsg.pool (m : TxMsg) : Nat := m.cls * 4 + field m.hdr.toNat 26 2

/-- A message may leave behind `n` bytes that leave just before it: the neighbour has buffers for it and the replay buffer has room for its
flits (R607, R615). -/
def Landing.sendable (l : Landing) (n : Nat) (m : TxMsg) : Bool :=
  decide (creditsOf m.size ≤ Tab.get (fun _ => 0) l.credits m.pool) && decide (l.unack.length + ceilDiv (n + m.size) 252 ≤ 1024)

/-- The first message of each source of a class, of those that may leave. -/
def Landing.ready (l : Landing) (n cls : Nat) : List TxMsg :=
  let q := l.txQ.filter (fun m => m.cls == cls)
  ((q.map (fun m => m.src)).eraseDups.filterMap (fun k => q.find? (fun m => m.src == k))).filter (l.sendable n)

/-- The message granted next: round robin among the classes, and within a class among source streams and forwarded traffic (R625). -/
def Landing.pickTx (l : Landing) (n : Nat) : Option TxMsg :=
  [1, 2, 3].findSome? (fun i =>
    let cls := (l.lastCls + i) % 3
    let last := Tab.get (fun _ => 256) l.lastSrc cls
    (l.ready n cls).foldl (fun best m =>
      match best with
      | none => some m
      | some b => if (m.src + 256 - last) % 257 < (b.src + 256 - last) % 257 then some m else some b) none)

/-- A landing with message `m` granted: its buffers at the neighbour taken (R615, R625). -/
def Landing.take (l : Landing) (m : TxMsg) : Landing :=
  { l with
    txQ := l.txQ.erase m
    lastCls := m.cls
    lastSrc := Tab.set (fun _ => 256) l.lastSrc m.cls m.src
    credits := Tab.upd (fun _ => 0) l.credits m.pool (· - creditsOf m.size) }

/-- Messages granted one after another while one may leave; `done` are the bytes of those granted (R604, R625). A forwarded message frees
the buffer it held at the landing it came through (R605, R615). -/
def State.grantTx : Nat → Nat → List Byte → State → State × List Byte
  | 0, _, done, s => (s, done)
  | n + 1, land, done, s =>
    match (s.landing land).pickTx done.length with
    | none => (s, done)
    | some m =>
      let s1 := (s.modLanding land (fun l => l.take m)).putOut { s.out with link := { land := land, hdr := m.hdr, data := m.data } :: s.out.link }
      let s2 := match m.via with
        | some a => s1.sendControl a false m.cls (creditsOf m.size)
        | none => s1
      State.grantTx n land (done ++ leBytes 16 m.hdr.toNat ++ m.data) s2

/-- What can leave through a landing leaves, packed back to back into flits (R604, R607, R615, R625). -/
def State.drainTx (s : State) (land : Nat) : State :=
  if (s.landing land).up then
    let r := State.grantTx (s.landing land).txQ.length land [] s
    r.1.sendPayload land r.2
  else s

/-- A message given to a landing (R613, R625); `via` is the landing through which a forwarded one arrived. -/
def State.queueMsg (s : State) (land : Nat) (hdr : BitVec 128) (data : List Byte) (via : Option Nat) : State :=
  let m : TxMsg := { hdr := hdr, data := data, cls := clsOf (field hdr.toNat 0 4), via := via
                     src := if via.isSome then 256 else field hdr.toNat 28 8 }
  (s.modLanding land (fun l => { l with txQ := l.txQ ++ [m] })).drainTx land

/-- A message of this module given to a landing. -/
def State.sendMsg (s : State) (land : Nat) (hdr : BitVec 128) (data : List Byte) : State := s.queueMsg land hdr data none

/-- A received message of `n` data bytes leaves the buffers of landing `land`: its credits are returned (R605, R615). -/
def State.freeRx (s : State) (land : Nat) (hdr : BitVec 128) (n : Nat) : State :=
  s.sendControl land false (clsOf (field hdr.toNat 0 4)) (creditsOf (16 + n))

/-- Source stream of a ferry channel (R618). -/
def sstrOf (tile ch : Nat) : Nat := 16 * tile + ch

/-- The header of the answer to a request: to its initiating module, its stream, tag and address echoed (R618). -/
def replyHeader (h : BitVec 128) (mk lines status pois : Nat) : BitVec 128 :=
  let w := h.toNat
  msgHeader mk lines (field w 14 6) (field w 14 6) (field w 20 6) 0 (field w 28 8) (field w 36 16) (field w 52 48) (flag w 100) status pois

/-- An answer sent to the initiator of a request; without a route it is not sent (R613, R618). -/
def State.reply (s : State) (h : BitVec 128) (mk lines status pois : Nat) (data : List Byte) : State :=
  match s.routeOf (field h.toNat 14 6) (field h.toNat 28 8) (field h.toNat 14 6) with
  | some l => s.sendMsg l (replyHeader h mk lines status pois) data
  | none => s

/-! ### Messages of global operations -/

/-- Modules of a group (R626). -/
def Group.members (g : Group) : List Nat := (List.range 64).filter (fun m => flag g.mods.toNat m)
/-- Contexts of a group on this module (R626). -/
def Group.locals (g : Group) : List Nat := (List.range 64).filter (fun c => flag g.ctxs.toNat c)
/-- GKEY. -/
def Group.gkey (g : Group) : Nat := field g.dat2.toNat 0 16
/-- OWNER. -/
def Group.owner (g : Group) : Nat := field g.dat2.toNat 16 6
/-- V. -/
def Group.valid (g : Group) : Bool := flag g.dat2.toNat 22
/-- ROOT. -/
def Group.root (g : Group) : Nat := field g.dat2.toNat 23 6

/-- Lines with their poison, as the bytes of 64 go. -/
def packLines (l : List (BitVec 8 × Bool)) : List (List Byte × Bool) :=
  (List.range (ceilDiv l.length 64)).map (fun i =>
    let w := (l.drop (64 * i)).take 64
    (padTo 64 (w.map (fun b => b.1)), w.any (fun b => b.2)))

/-- One GOP message to module `dst` (R618, R628): the fields its ADDR carries are `fs`, laid out as the spec leaves
open. Without a route it is not sent. -/
def State.sendGop (s : State) (g dst k : Nat) (status : Nat) (fs : List Nat) (ls : List (List Byte × Bool)) : State :=
  let e := s.group g
  let c := (e.locals.head?).getD 0
  let sstr := 16 * (c / 4) + 4 * (c % 4)
  let pois := (List.range ls.length).foldl (fun n i => n + nat ((ls.getD i ([], false)).2) * 2 ^ i) 0
  let hdr := msgHeader 7 ls.length dst s.boot.modid e.owner 0 sstr (k % 65536) (Config.gopFields fs).toNat false status pois
  match s.routeOf s.boot.modid sstr dst with
  | some l => s.sendMsg l hdr (ls.flatMap (fun x => x.1))
  | none => s

/-- A message of instance `i` of group `g` with its data, four lines to a message; `res` marks a result. -/
def State.sendPart (s : State) (g : Nat) (i : Inst) (dst : Nat) (status : Nat) (res : Bool) (data : List (BitVec 8 × Bool)) : State :=
  let ls := packLines data
  let n := max 1 (ceilDiv ls.length 4)
  (List.range n).foldl (fun s j =>
    s.sendGop g dst i.k status [g, (s.group g).mods.toNat, (s.group g).gkey, (s.group g).root, i.k, i.op, nat i.scope, i.rtype, i.bytes, nat res, nat i.sat, j] ((ls.drop (4 * j)).take 4)) s

/-- An instance's message to every other member module. -/
def State.sendAll (s : State) (g : Nat) (i : Inst) (status : Nat) (res : Bool) (data : List (BitVec 8 × Bool)) : State :=
  ((s.group g).members.filter (· != s.boot.modid)).foldl (fun s m => s.sendPart g i m status res data) s

end Sys2Proof.Machine
end

