-- ==== Sys2Proof/Machine/RowCode.lean ====
section
/-! DEFINITION. The cells of a row: column checks, outer check area and metadata word as they are read, the full-row decode with its
outcomes, the writing of columns with their parity update, poisoned lines, and the spares drawn for rows and banks (chapters 02 and
03). The banks hold what was last written (data in `mem`, checks complemented where `pois` says so) and, in `errs`, the bits whose
cells differ from it. -/

namespace Sys2Proof.Machine

/-! ### What the cells hold -/

/-- Bits `lo` to `lo + n - 1` of column position `p` whose cells differ from what was written, as one number. -/
def RowMeta.flips (m : RowMeta) (p lo n : Nat) : Nat :=
  bitsAt ((m.errs.filter (fun e => e / 272 == p && decide (lo ≤ e % 272) && decide (e % 272 < lo + n))).map (fun e => e % 272 - lo))

/-- A bit of column position `p` differs from what was written. -/
def RowMeta.touched (m : RowMeta) (p : Nat) : Bool := m.errs.any (fun e => e / 272 == p)

/-- The 32 data bytes last written to column `c` of row `rk` (row key). -/
def State.written (s : State) (rk c : Nat) : List Byte := Tab.getRun (fun _ => 0) s.mem (rk * 2048 + c * 32) 32

/-- The 32 data bytes of column `c` of row `rk` as its cells hold them. -/
def State.rawColumn (s : State) (rk c : Nat) : List Byte :=
  if (s.row rk).touched c then leBytes 32 (ofLe (s.written rk c) ^^^ (s.row rk).flips c 0 256) else s.written rk c

/-- The 64 data bytes of line `k` as its cells hold them. -/
def State.rawLine (s : State) (k : Nat) : Line512 := lineOf (s.rawColumn (k / 32) (2 * (k % 32)) ++ s.rawColumn (k / 32) (2 * (k % 32) + 1))

/-- The check bytes of data column `c` as its cells hold them, CRC[7:0] first (03 R75, R76, R91). -/
def State.storedCheck (s : State) (rk c : Nat) : BitVec 16 :=
  let w := columnCheck (rk % 65536) c (s.written rk c)
  (if s.colBad (colKey rk c) then ~~~ w else w) ^^^ BitVec.ofNat 16 ((s.row rk).flips c 256 16)

/-- What the test of a column's check finds (03 R77, R91). -/
inductive ColState where
  | good | complement | bad
  deriving DecidableEq, Repr

/-- The check of data column `c` tested against the data read (03 R77): it passes, it is the one's complement, or it fails. A column
whose cells hold what was written passes or is complemented as it was written. -/
def State.columnState (s : State) (rk c : Nat) : ColState :=
  if (s.row rk).touched c then
    let want := columnCheck (rk % 65536) c (s.rawColumn rk c)
    if s.storedCheck rk c = want then .good else if s.storedCheck rk c = ~~~ want then .complement else .bad
  else if s.colBad (colKey rk c) then .complement else .good

/-! ### Metadata word (03 R83) -/

/-- Bits [47:0] of the metadata word last written. -/
def RowMeta.low48 (m : RowMeta) (code : Nat) : Nat :=
  code % 8 + 2 ^ 3 * nat m.poison + 2 ^ 4 * (m.lastCorr % 128) + 2 ^ 11 * (m.strikes % 4) + 2 ^ 16 * (m.tag % 65536) + 2 ^ 32 * (m.epoch % 65536)

/-- The metadata word with MCRC over bits [47:0]. -/
def metaWord (low : Nat) : Nat := low + 2 ^ 48 * (crc16 (leBytes 6 low)).toNat

/-- Bits of the metadata word whose cells differ from what was written: position 64 holds bits [15:0], and so on. -/
def RowMeta.metaFlips (m : RowMeta) : Nat :=
  ((List.range 4).map (fun p => m.flips (64 + p) 256 16 * 2 ^ (16 * p))).sum

/-- The metadata word of a row as its cells hold it. -/
def State.metaRead (s : State) (rk : Nat) : Nat := metaWord ((s.row rk).low48 (s.rowCode rk)) ^^^ (s.row rk).metaFlips

/-- MCRC of the metadata word passes. -/
def State.mcrcOk (s : State) (rk : Nat) : Bool :=
  (s.row rk).metaFlips == 0 || (crc16 (leBytes 6 (s.metaRead rk))).toNat == s.metaRead rk / 2 ^ 48

/-- CODE as read. -/
def State.codeRead (s : State) (rk : Nat) : Nat := if (s.row rk).metaFlips = 0 then s.rowCode rk else field (s.metaRead rk) 0 3

/-- POISON as read. -/
def State.poisonRead (s : State) (rk : Nat) : Bool := if (s.row rk).metaFlips = 0 then (s.row rk).poison else flag (s.metaRead rk) 3

/-- ROWTAG as read. -/
def State.tagRead (s : State) (rk : Nat) : Nat := if (s.row rk).metaFlips = 0 then (s.row rk).tag else field (s.metaRead rk) 16 16

/-- A row whose MCRC passes and whose ROWTAG is not its own index (03 R84). -/
def State.badTag (s : State) (rk : Nat) : Bool := s.tagRead rk != rk % 65536 && s.mcrcOk rk

/-! ### Poisoned lines (03 R91, R92) -/

/-- Both columns of line `k` carry the complement of their check. -/
def State.lineBad (s : State) (k : Nat) : Bool :=
  s.columnState (k / 32) (2 * (k % 32)) == .complement && s.columnState (k / 32) (2 * (k % 32) + 1) == .complement

/-- Line `k` is poisoned: both checks complemented and the row's POISON set (R92). -/
def State.isPoisoned (s : State) (k : Nat) : Bool := s.lineBad k && s.poisonRead (k / 32)

/-- The row's metadata word written again whole: its cells hold it. -/
def RowMeta.freshMeta (m : RowMeta) : RowMeta := { m with errs := m.errs.filter (fun e => decide (e / 272 < 64) || decide (e % 272 < 256)) }

/-- The stored check of column `c` made that of the data its cells hold, or the one's complement of it. -/
def State.setCheck (s : State) (rk c : Nat) (comp : Bool) : State :=
  let d := (columnCheck (rk % 65536) c (s.written rk c) ^^^ columnCheck (rk % 65536) c (s.rawColumn rk c)).toNat
  let s1 := s.modColBad (colKey rk c) (fun _ => comp)
  if (s.row rk).touched c then
    s1.modRow rk (fun m => { m with
      errs := toggleAll ((onesOf 16 d).map (fun i => 272 * c + 256 + i)) (m.errs.filter (fun e => !(e / 272 == c && decide (256 ≤ e % 272)))) })
  else s1

/-- Line `k` poisoned in memory, its data kept (R91). -/
def State.poisonLine (s : State) (k : Nat) : State :=
  ((s.setCheck (k / 32) (2 * (k % 32)) true).setCheck (k / 32) (2 * (k % 32) + 1) true).modRow (k / 32) (fun m => { m.freshMeta with poison := true })

/-- The lines `ls` of row `rk` poisoned. -/
def State.poisonLines (s : State) (rk : Nat) (ls : List Nat) : State := ls.foldl (fun s l => s.poisonLine (rk * 32 + l)) s

/-! ### Writing (03 R94 to R97) -/

/-- Column `c` of row `rk` written with data `l` and its check, or the complement of it: the parity of the row is updated by the
difference from the old data as it was read, so that errors which its check did not show enter the parity (R95). -/
def State.storeColumn (s : State) (rk c : Nat) (l : List Byte) (comp : Bool) : State :=
  let m := s.row rk
  let old := m.flips c 0 256
  let t := strengthOf (s.rowCode rk)
  let s1 := (s.putMem (Tab.setRun (fun _ => 0) s.mem (rk * 2048 + c * 32) l)).modColBad (colKey rk c) (fun _ => comp)
  if m.touched c then
    let par := if old = 0 then [] else onesOf 1024 (parityUpdate t 0 (old * 2 ^ (256 * c)) 0)
    s1.modRow rk (fun m => { m with
      errs := toggleAll (par.map (fun j => 272 * (64 + j / 256) + j % 256)) (m.errs.filter (fun e => e / 272 != c)) })
  else s1

/-- Line `k` stored with data `d`, poisoned or with normal checks (R91, R94). -/
def State.storeLine (s : State) (k : Nat) (d : Line512) (pois : Bool) : State :=
  let b := lineBytes d
  let s1 := (s.storeColumn (k / 32) (2 * (k % 32)) (b.take 32) pois).storeColumn (k / 32) (2 * (k % 32) + 1) (b.drop 32) pois
  if pois then s1.modRow (k / 32) (fun m => { m.freshMeta with poison := true }) else s1

/-- Metadata of row `rk` written whole, its contents with it: the parcel's strength, its own ROWTAG, POISON as `pois` says, and
LASTCORR, STRIKES and EPOCH zero (R97; DESIGN CHOICE, log entry 85). -/
def RowMeta.rewritten (m : RowMeta) (rk : Nat) (pois : Bool) : RowMeta :=
  { rowDefault rk with poison := pois, tally := m.tally, spare := m.spare }

/-- A whole row written: 32 lines with their poison, the parity encoded from the new data without reading the row (R97). -/
def State.writeRow (s : State) (rk : Nat) (ls : List (Line512 × Bool)) : State :=
  let s1 := s.putMem (Tab.setRun (fun _ => 0) s.mem (rk * 2048) (ls.flatMap (fun l => lineBytes l.1)))
  let s2 := s1.putPois (Tab.setRun (fun _ => false) s1.pois (colKey rk 0) (ls.flatMap (fun l => [l.2, l.2])))
  s2.modRow rk (fun m => m.rewritten rk (ls.any (fun l => l.2)))

/-! ### Spare rows, columns, banks and dies (02 R36 to R42; 03 R106, R113) -/

/-- A spare row of subarray `sub` of a bank that is neither used nor unusable. -/
def BankSpares.freeRowIn (b : BankSpares) (sub : Nat) : Option Nat :=
  ((List.range 8).map (fun i => sub * 8 + i)).find? (fun x => !b.rows.contains x && !b.badRows.contains x)

/-- The spare row drawn for a row: in its own subarray, otherwise in one that is not next to it (02 R38). -/
def BankSpares.pickRow (b : BankSpares) (r : Nat) : Option Nat :=
  let sub := r % 64
  b.freeRowIn sub <|>
    ((List.range 64).filter (fun u => u != sub && u != (sub + 1) % 64 && u != (sub + 63) % 64)).findSome? b.freeRowIn

/-- The spare column that the next replaced position of a bank takes: one of four, not in use and not marked unusable (02 R39; 18 R693). -/
def BankSpares.freeCol (k : BankSpares) : Option Nat :=
  (List.range 4).find? (fun c => !k.badCols.contains c && !k.cols.any (fun e => e.2 == c))

/-- Bank number within its channel half: 2 × (channel mod 8) + bank bit (02 R37). -/
def bankInHalf (b : Nat) : Nat := b / 48 % 16 % 8 * 2 + b % 2

/-- Rank and channel half of a module bank (02 R37). -/
def dieHalf (b : Nat) : Nat × Nat := (b % 48 / 2, b / 48 % 16 / 8)

/-- The spare bank of a bank's die and channel half can be drawn for it (02 R37). -/
def StackSpares.bankFree (k : StackSpares) (b : Nat) : Bool :=
  let dh := dieHalf b
  !k.banks.any (fun x => x.1 == dh.1 && x.2.1 == dh.2) && !k.badBanks.contains dh &&
    (match k.testing with | some x => !(x.1 == dh.1 && x.2.1 == dh.2) | none => true)

/-- Module bank of rank, channel half and bank number in it. -/
def bankOfHalf (st : Nat) (x : Nat × Nat × Nat) : Nat := st * 768 + (x.2.1 * 8 + x.2.2 / 2) * 48 + 2 * x.1 + x.2.2 % 2

/-- The module bank a repair concerns. -/
def Repair.bank (r : Repair) : Nat := if r.kind = 0 then r.at_ / 65536 else r.at_

/-- The rows of bank `b` and their spare rows (02 R40). -/
def State.rowsOf (s : State) (b : Nat) : List (Nat × Nat) :=
  s.rows.filterMap (fun e => if e.1 / 65536 = b then e.2.spare.map (fun x => (e.1, x)) else none)

/-- The rows of bank `b` bound to no spare row and no column of it replaced, as a bank that has just been put in place has them
(02 R40). Its spares in use leave the counts of SPRDAT with it (DESIGN CHOICE, log entry 84). -/
def State.freshBank (s : State) (b : Nat) : State :=
  let s1 := s.modBspare b (fun _ => {})
  s1.putRows (Tab.mapAll rowDefault (fun k m => if k / 65536 = b then { m with spare := none } else m) s1.rows)

/-- The swap test of a stack's bank `x` ends: the bank is copied back and returned with its own repairs, or it stays on the spare,
logged as kind 0x09 (02 R40; 18 R694, R696). -/
def State.endSwap (s : State) (st : Nat) (x : Nat × Nat × Nat) (stays : Bool) : State :=
  let b := bankOfHalf st x
  let k := s.stack st
  let s1 := s.modStack st (fun k => { k with testing := none, swapTable := {}, swapRows := [], banks := if stays then k.banks ++ [x] else k.banks })
  let s2 := s1.putLogs { s1.logs with
    strFailed := if stays then satNat 16 (s1.logs.strFailed + 1) else s1.logs.strFailed
    strActive := (List.range 96).any (fun i => (s1.stack i).testing.isSome) }
  if stays then s2.logError (lineKey b 0 0) 127 9 8 0 none 0
  else k.swapRows.foldl (fun s e => s.modRow e.1 (fun m => { m with spare := some e.2 })) ((s2.freshBank b).modBspare b (fun _ => k.swapTable))

/-- A bank replaced by its die's spare bank, otherwise its die by the spare die, otherwise its stack marked failed
for the tile's retirement (03 R113); the copy is made and the redirect flips later (02 R42). The log entries concern no row and no
address: they hold the bank's row 0, its parcel, and ADDR 0 (DESIGN CHOICE, log entry 84). -/
def State.drawBank (s : State) (b : Nat) : State :=
  let st := b / 768
  let k := s.stack st
  let dh := dieHalf b
  if k.pendingRepair.any (fun r => (r.kind == 1 && r.at_ == b) || (r.kind == 2 && (dieHalf r.at_).1 == dh.1)) then s
  else if k.bankFree b then
    (s.modStack st (fun k => { k with
      banks := k.banks ++ [(dh.1, dh.2, bankInHalf b)], pendingRepair := k.pendingRepair ++ [{ kind := 1, at_ := b }] })).logError
      (lineKey b 0 0) 127 9 8 0 none 0
  else if k.die = none ∧ k.badDie = false then
    (s.modStack st (fun k => { k with
      die := some dh.1, banks := k.banks.filter (fun x => x.1 != dh.1), badBanks := k.badBanks.filter (fun x => x.1 != dh.1)
      pendingRepair := k.pendingRepair ++ [{ kind := 2, at_ := b }] })).logError (lineKey b 0 0) 127 0x0A 8 0 none 0
  else s.modStack st (fun k => { k with down := true })

/-- A bank that needs a spare: a test that its spare bank serves ends first, the tested bank returned, or left on the spare
where it is the bank itself (18 R697); then the spare is drawn (03 R113). -/
def State.replaceBank (s : State) (b : Nat) : State :=
  let st := b / 768
  let dh := dieHalf b
  match (s.stack st).testing with
  | some x =>
    if x = (dh.1, dh.2, bankInHalf b) then s.endSwap st x true
    else if x.1 = dh.1 ∧ x.2.1 = dh.2 then (s.endSwap st x false).drawBank b
    else s.drawBank b
  | none => s.drawBank b

/-- A row retired to a spare row, which is drawn now and takes the row's place at the flip (02 R42; 03 R84, R106). Where no spare row
can be drawn its bank is replaced (R113). -/
def State.retireRow (s : State) (rk : Nat) (wrongTag : Bool) : State :=
  let b := rk / 65536
  if (s.stack (b / 768)).pendingRepair.any (fun r => r.kind == 0 && r.at_ == rk) then s
  else match (s.bspare b).pickRow (rk % 65536) with
  | none => s.replaceBank b
  | some x =>
    ((s.modBspare b (fun k => { k with rows := x :: k.rows })).modStack (b / 768) (fun k => { k with
      pendingRepair := k.pendingRepair ++ [{ kind := 0, at_ := rk, spare := x, wrong := wrongTag }] })).logError (rk * 32) 127 7 8 0 none (s.logAddr (rk * 32))

/-- The redirect of a repair flips (02 R36 to R40, R42): the row goes to its spare row, which under R84 holds poisoned lines only, the
column position to a spare column, the bank to its spare bank, or the die to the spare die. -/
def State.flipRepair (s : State) (r : Repair) : State :=
  if r.kind = 0 then
    let b := r.at_ / 65536
    let old := (s.row r.at_).spare
    let s1 := (s.modBspare b (fun k => match old with
      | some y => { k with rows := k.rows.erase y, badRows := y :: k.badRows, spent := k.spent + 1 }
      | none => k)).modRow r.at_ (fun m => { m with spare := some r.spare, strikes := 0 })
    if r.wrong then (s1.modRow r.at_ (fun m => { m with errs := [], tag := r.at_ % 65536 })).poisonLines r.at_ (List.range 32) else s1
  else if r.kind = 3 then s.modBspare r.at_ (fun k => match k.freeCol with
    | some c => if k.cols.any (fun e => e.1 == r.spare) then k else { k with cols := k.cols ++ [(r.spare, c)] }
    | none => k)
  else if r.kind = 1 then s.freshBank r.at_
  else
    let st := r.at_ / 768
    let d := (dieHalf r.at_).1
    ((List.range 16).flatMap (fun c => [st * 768 + c * 48 + 2 * d, st * 768 + c * 48 + 2 * d + 1])).foldl State.freshBank s

/-! ### The full-row decode (03 R84 to R89, R115) -/

/-- A threshold of SCRBTHR at strength `t`: ⌈n × t ÷ 16⌉ (R104). -/
def thresholdOf (n t : Nat) : Nat := ceilDiv (n * t) 16

/-- The parity and padding bits of the outer check area as the cells hold them (R81). -/
def State.outerRead (s : State) (rk : Nat) : Nat :=
  let m := s.row rk
  let p := pageParity (strengthOf (s.rowCode rk)) (ofLe (Tab.getRun (fun _ => 0) s.mem (rk * 2048) 2048))
  p ^^^ ((List.range 4).map (fun i => m.flips (64 + i) 0 256 * 2 ^ (256 * i))).sum

/-- Place in the code word at strength `t` of bit `e` of the row, if it is one of the code's: data bits above the 15t parity bits;
the padding and the check bytes are ignored (R80, R81). -/
def exponentOf (t e : Nat) : Option Nat :=
  if 256 ≤ e % 272 then none
  else if e / 272 < 64 then some (15 * t + 256 * (e / 272) + e % 272)
  else if 256 * (e / 272 - 64) + e % 272 < 15 * t then some (256 * (e / 272 - 64) + e % 272) else none

/-- Bit of the row at a place of the code word. -/
def bitOfExponent (t x : Nat) : Nat :=
  if 15 * t ≤ x then 272 * ((x - 15 * t) / 256) + (x - 15 * t) % 256 else 272 * (64 + x / 256) + x % 256

/-- Places of the code word at CODE `code` whose bits, as read, differ from the code word of the data last written. -/
def State.codeErrors (s : State) (rk code : Nat) : List Nat :=
  let t := strengthOf code
  let m := s.row rk
  if t = strengthOf (s.rowCode rk) then m.errs.filterMap (exponentOf t)
  else
    (onesOf (15 * t) (s.outerRead rk ^^^ pageParity t (ofLe (Tab.getRun (fun _ => 0) s.mem (rk * 2048) 2048)))) ++
      (m.errs.filter (fun e => decide (e / 272 < 64))).filterMap (exponentOf t)

/-- Strengths at which a row is decoded, in their order: CODE of its metadata; where MCRC fails, CODE of its parcel, and during a
re-encode the strength it moves to (R85, R87). -/
def State.decodeCodes (s : State) (rk : Nat) : List Nat :=
  if s.mcrcOk rk then [s.codeRead rk]
  else
    let p := parcelOfLine (rk * 32)
    let next := match s.slotOfParcel p with | some sl => (s.slot sl).reenc | none => (s.parcel p).reenc
    s.parcelCode p :: (match next with | some x => [x.1] | none => [])

/-- The decode of a row: the CODE at which it succeeded and the bits of the row it corrects; none where every decode fails (R85, R87). -/
def State.decoded (s : State) (rk : Nat) : Option (Nat × List Nat) :=
  (s.decodeCodes rk).findSome? (fun code =>
    (pageDecode (strengthOf code) (s.codeErrors rk code)).map (fun xs => (code, xs.map (bitOfExponent (strengthOf code)))))

/-- The row with the bits `fix` of its code word at CODE `code` corrected and the outer check area written back, padding and metadata
with it (R89). -/
def State.writeBack (s : State) (rk code : Nat) (fix : List Nat) : State :=
  let wrong := (s.codeErrors rk code).map (bitOfExponent (strengthOf code))
  s.modRow rk (fun m => { m with
    code := if code = s.parcelCode (parcelOfLine (rk * 32)) then none else some code
    errs := toggleAll (wrong ++ fix) (m.errs.filter (fun e => decide (e / 272 < 64) && decide (256 ≤ e % 272))) })

/-- The data columns of row `rk` whose check does not pass and which belong to no poisoned line. -/
def State.failedColumns (s : State) (rk : Nat) : List Nat :=
  (List.range 64).filter (fun c => s.columnState rk c != .good && !s.isPoisoned (rk * 32 + c / 2))

/-- The data columns among which the bits `fix` lie. -/
def columnsOf (fix : List Nat) : List Nat := (fix.map (fun e => e / 272)).eraseDups

/-- An uncorrectable row: logged and posted, the lines that hold a failed column poisoned, the row retired (R106, R115). -/
def State.rowFailed (s : State) (rk col kind path ncorr : Nat) (part : Option Nat) (addr : Nat) (also : List Nat) : State :=
  ((s.uncorrectable (rk * 32 + col % 64 / 2) col kind path ncorr part addr).poisonLines rk
    (((s.failedColumns rk ++ also).map (fun c => c / 2)).eraseDups)).retireRow rk false

/-- A row whose decode succeeded with the bits `fix` corrected at CODE `code`: written back; the check bytes of columns in which no data
bit was corrected repaired, but for those of poisoned lines; the metadata rebuilt where MCRC had failed; LASTCORR set; each logged
(R85, R88, R89). `mark` sets the fields that scrub writes besides. -/
def State.rowCorrected (s : State) (rk col path code : Nat) (fix : List Nat) (part : Option Nat) (addr : Nat) (mark : RowMeta → RowMeta) : State :=
  let n := fix.length
  let line := rk * 32 + col % 64 / 2
  let s1 := s.writeBack rk code fix
  let poisoned (l : Nat) : Bool := s1.lineBad (rk * 32 + l) && (!s.mcrcOk rk || s.poisonRead rk)
  let worn := (List.range 64).filter (fun c => s1.columnState rk c != .good && !poisoned (c / 2))
  let s2 := worn.foldl (fun s c => s.setCheck rk c false) s1
  let s3 := if s.mcrcOk rk then s2 else
    (s2.modRow rk (fun m => { m with tag := rk % 65536, strikes := 0, poison := (List.range 32).any poisoned })).logError (rk * 32) 127 2 path n part addr
  let s4 := worn.foldl (fun s c => s.logError (rk * 32 + c / 2) c 0x0D path n part addr) s3
  let s5 := if 0 < n then s4.logError line col 1 path n part addr else s4
  s5.modRow rk (fun m => mark (if 0 < n ∨ worn ≠ [] ∨ s.mcrcOk rk = false then { m with lastCorr := n } else m))

/-- The columns in which a decode corrected data and whose check then fails, in no poisoned line: the decode is suspect (R88). -/
def State.suspects (s : State) (rk code : Nat) (fix : List Nat) : List Nat :=
  let s1 := s.writeBack rk code fix
  (columnsOf fix).filter (fun c => decide (c < 64) && s1.columnState rk c != .good &&
    !(s1.lineBad (rk * 32 + c / 2) && (!s.mcrcOk rk || s.poisonRead rk)))

/-- A row decoded for path `path` and all that follows: a wrong row tag, a failure, a suspected miscorrection, or a correction, which
retires the row at the RETIRE threshold (R84, R85, R87 to R89, R106, R115). -/
def State.decodeRow (s : State) (rk col path : Nat) (part : Option Nat) (addr : Nat) (mark : RowMeta → RowMeta) : State :=
  if s.badTag rk then (s.uncorrectable (rk * 32 + col % 64 / 2) 127 5 path 127 part addr).retireRow rk true
  else match s.decoded rk with
  | none => s.rowFailed rk col 3 path 127 part addr []
  | some (code, fix) =>
    match s.suspects rk code fix with
    | c :: l => s.rowFailed rk c 4 path fix.length part addr (c :: l)
    | [] =>
      let s1 := s.rowCorrected rk col path code fix part addr mark
      if thresholdOf (s.cfg rSCRBTHR 8 4) (strengthOf code) ≤ fix.length then s1.retireRow rk false else s1

/-- A read of column `c` asks for a full-row decode: MCRC fails, or the check of the column does not pass and its line is not poisoned;
a row under R84 is never decoded (R84 to R87, R92). -/
def State.columnAsks (s : State) (rk c : Nat) : Bool :=
  !s.badTag rk && (!s.mcrcOk rk || (s.columnState rk c != .good && !s.isPoisoned (rk * 32 + c / 2)))

/-- A read of line `k` asks for a full-row decode. -/
def State.lineAsks (s : State) (k : Nat) : Bool :=
  s.columnAsks (k / 32) (2 * (k % 32)) || s.columnAsks (k / 32) (2 * (k % 32) + 1)

/-- Column of line `k` whose check failed, the first of the two where both did or the metadata alone. -/
def State.askedColumn (s : State) (k : Nat) : Nat :=
  if s.columnAsks (k / 32) (2 * (k % 32)) then 2 * (k % 32) else 2 * (k % 32) + 1

/-- Line `k` tested as it is read, its row decoded first where a check fails (R77, R86, R87). -/
def State.testLine (s : State) (k path : Nat) (part : Option Nat) (addr : Nat) : State :=
  if s.lineAsks k then s.decodeRow (k / 32) (s.askedColumn k) path part addr id else s

/-- A write of line `k` under byte enables `mask` (R94 to R96), performed unless the row is under R84. `true` when performed. A failed
check of the old columns decodes and corrects the row first; the line of a row that does not decode is stored with normal checks if all
its bytes are written, otherwise poisoned (R115). A partial write to a poisoned line keeps it poisoned and is logged. -/
def State.writeLine (s : State) (k : Nat) (d : Line512) (mask : BitVec 64) (pois : Bool) (path : Nat)
    (part : Option Nat) (addr : Nat) : State × Bool :=
  if s.badTag (k / 32) then (s.uncorrectable k 127 5 path 127 part addr, false)
  else
    let s0 := s.testLine k path part addr
    let was := s0.isPoisoned k
    let full := mask = BitVec.allOnes 64
    let s1 := s0.storeLine k (mergeLine mask (s0.rawLine k) d) (pois || (was && !decide full))
    if was ∧ ¬ full then (s1.logError k (k % 32 * 2) 0x0E path 0 part addr, true)
    else (s1, true)

/-- Data of line `k` with its poison mark, as a requester gets it once the line is tested (R84, R86, R92). -/
def State.readLine (s : State) (k : Nat) : Line512 × Bool :=
  (s.rawLine k, s.isPoisoned k || s.badTag (k / 32))

/-- POISON of a row as its lines stand (R85, R94). -/
def State.rowPoisoned (s : State) (rk : Nat) : Bool := (List.range 32).any (fun i => s.lineBad (rk * 32 + i))

/-- The 34 bytes of column position `p` of a row as its cells hold them: a data column with its check bytes, or a position of the outer
check area with its share of the metadata word (R76, R81, R83; 02 R31). -/
def State.positionBytes (s : State) (rk p : Nat) : List Byte :=
  if p < 64 then s.rawColumn rk p ++ leBytes 2 (s.storedCheck rk p).toNat
  else leBytes 32 (s.outerRead rk / 2 ^ (256 * (p - 64))) ++ leBytes 2 (s.metaRead rk / 2 ^ (16 * (p - 64)))

end Sys2Proof.Machine
end

