-- ==== Sys2Proof/Machine/Ops.lean ====
section
/-! DEFINITION. The named operations over memory, slots and contexts that the meanings share. -/

namespace Sys2Proof.Machine

/-! ### Mesh routes (01 R17, R18, R30) -/

/-- Tiles on the row-then-column route between two tiles of the 4 × 4 mesh, the ends included (01 R17). -/
def routeRC (a b : Nat) : List Nat :=
  let r := a / 4
  let c := b % 4
  let xs := if a % 4 ≤ c then (List.range (c - a % 4 + 1)).map (fun i => r * 4 + a % 4 + i)
    else (List.range (a % 4 - c + 1)).map (fun i => r * 4 + a % 4 - i)
  let ys := if r ≤ b / 4 then (List.range (b / 4 - r)).map (fun i => (r + 1 + i) * 4 + c)
    else (List.range (r - b / 4)).map (fun i => (r - 1 - i) * 4 + c)
  xs ++ ys

/-- The column-then-row route: the row-then-column route of the way back, turned round. -/
def routeCR (a b : Nat) : List Nat := (routeRC b a).reverse

/-- A mesh switch on the way has failed. -/
def State.crosses (s : State) (l : List Nat) : Bool := l.any (fun t => (s.hub t).meshDown)

/-- The route of R30's first sentence, where there is one. -/
def State.directRoute (s : State) (a b : Nat) : Option (List Nat) :=
  if s.crosses (routeRC a b) = false then some (routeRC a b)
  else if s.crosses (routeCR a b) = false then some (routeCR a b) else none

/-- The route taken between two tiles with the failed switches avoided: row then column, otherwise column then row, otherwise through the
tile at the lowest position in the source row that is not retired, on from there in the same way (01 R17, R30). Where that tile is the source
itself, or its own two routes cross a failed switch, or every tile of the source row is retired, R30 names no route: the traffic then goes
row then column across the failed switch (DESIGN CHOICE, log entry 91). -/
def State.meshRoute (s : State) (a b : Nat) : List Nat :=
  match s.directRoute a b with
  | some r => r
  | none =>
    match ((List.range 4).map (fun i => a / 4 * 4 + i)).find? (fun t => !(s.hub t).retired) with
    | some v => (s.directRoute a v).getD (routeRC a v) ++ ((s.directRoute v b).getD (routeRC v b)).drop 1
    | none => routeRC a b

/-- `n` times 64 bytes sent over the mesh from tile `a` to tile `b`, counted at every tile that they leave (19 R714 event 0x0E). -/
def State.meshBytes (s : State) (a b n : Nat) : State :=
  (s.meshRoute a b).dropLast.foldl (fun s t => (s.count t 0x0E none n).spend 4 n) s

/-- A request's way over the mesh noted, with `n` times 64 bytes of data. -/
def State.viaMesh (s : State) (a b n : Nat) : State :=
  (s.putOut { s.out with mesh := s.meshRoute a b }).meshBytes a b n

/-- A read request's way over the mesh to tile `b`, and that of the `n` times 64 bytes of its answer back to tile `a`. -/
def State.readMesh (s : State) (a b n : Nat) : State := (s.viaMesh a b 0).meshBytes b a n

/-- The next free value: `s.free` is the argument of an opaque constant of Config; the counter advances. -/
def State.draw (s : State) : State := (s.putFree (s.free + 1))

/-! ### Service addresses -/

/-- Line a request of channel `ch` addresses. -/
def Req.spot (q : Req) (ch : Nat) : Nat := lineKey (bankOf ch q.bank) q.row q.line

/-- Data of a line as a read sees it: the banks, overlaid in order with the queued writes that `ok` takes (04 R121). -/
def State.overlaid (s : State) (ch k : Nat) (ok : Req → Bool) : Line512 × Bool :=
  ((s.chan ch).writeQ.filter (fun q => q.spot ch == k && ok q)).foldl (fun (d : Line512 × Bool) q =>
    (mergeLine q.mask d.1 q.data, q.poison || (d.2 && decide (q.mask ≠ BitVec.allOnes 64)))) (s.readLine k)

/-- Data of a line as a read that arrives now sees it (04 R121). -/
def State.readQueued (s : State) (ch k : Nat) : Line512 × Bool := s.overlaid ch k (fun _ => true)

/-- Line and poison at service address `sa`, queued writes included (04 R121); a slot left on a retired parcel reads
poisoned (18 R701). -/
def State.readSa (s : State) (sa : Nat) : Line512 × Bool :=
  if (s.slot (sa / slotBytes)).dead then (0, true)
  else s.readQueued (chanOfBank (s.locate sa).moduleBank) (s.lineOfSa sa)

/-- A read of line `k` that was answered poisoned where `bad`, as its stack controller enters it: a row under R84 with kind row tag
and the event of R115, any other line with kind poisoned line read (03 R84, R115, R117). -/
def State.noteRead (s : State) (bad : Bool) (k path : Nat) (part : Option Nat) (addr : Nat) : State :=
  if bad = false then s
  else if s.badTag (k / 32) then s.uncorrectable k 127 5 path 127 part addr
  else s.logError k 127 6 path 0 part addr

/-- The line at `sa` in the parcel a slot is moving to, if it is moving (02 R55). -/
def State.movingLine (s : State) (sa : Nat) : Option Nat :=
  (s.slot (sa / slotBytes)).moveTo.map (fun p => (locOf s.boot.hashMask p (sa % slotBytes)).line)

/-- A write of the line at service address `sa`, to both parcels while the slot moves (02 R55). -/
def State.writeSa (s : State) (sa : Nat) (d : Line512) (mask : BitVec 64) (pois : Bool) (path : Nat)
    (part : Option Nat) : State × Bool :=
  if (s.slot (sa / slotBytes)).dead then (s, false)
  else
    let r := s.writeLine (s.lineOfSa sa) d mask pois path part sa
    match s.movingLine sa with
    | some k => if r.2 then ((r.1.writeLine k d mask pois path part sa).1, true) else r
    | none => r

/-- Bytes `n` from service address `sa` on, line by line, and whether any line read is poisoned. -/
def State.readBytes (s : State) (sa n : Nat) : List Byte × Bool :=
  let first := sa / 64
  let last := (sa + n - 1) / 64
  let ls := (List.range (last + 1 - first)).map (fun i => s.readSa ((first + i) * 64))
  (((ls.flatMap (fun l => lineBytes l.1)).drop (sa % 64)).take n, ls.any (fun l => l.2))

/-! ### Scratchpads (chapter 10) -/

/-- Bytes of a tile's scratchpad (10 R383). -/
def spBytes : Nat := 0x8000000

/-- `n` bytes of tile `t`'s scratchpad from address `a` on. -/
def State.spRead (s : State) (t a n : Nat) : List Byte := Tab.getRun (fun _ => 0) s.sp (t * spBytes + a) n

/-- A word of tile `t`'s scratchpad holding one of the `n` bytes from `a` on is poisoned (10 R395). -/
def State.spPoisoned (s : State) (t a n : Nat) : Bool :=
  (List.range ((a + n - 1) / 64 + 1 - a / 64)).any (fun i => s.spBad (t * 2 ^ 21 + a / 64 + i))

/-- One word's poison after a write of some of its bytes (10 R394). -/
def wordPoison (whole pois was : Bool) : Bool := if whole then pois else was || pois

/-- `l` written to tile `t`'s scratchpad from address `a` on, with the poison of the data (10 R394). -/
def State.spWrite (s : State) (t a : Nat) (l : List Byte) (pois : Bool) : State :=
  if l = [] then s
  else
    let n := l.length
    let ws := List.range ((a + n - 1) / 64 + 1 - a / 64)
    let s1 := (s.putSp (Tab.setRun (fun _ => 0) s.sp (t * spBytes + a) l))
    ws.foldl (fun s i =>
      let w := a / 64 + i
      let whole := decide (a ≤ w * 64) && decide (w * 64 + 64 ≤ a + n)
      s.modSpBad (t * 2 ^ 21 + w) (wordPoison whole pois)) s1

/-! ### Scratchpad banks (10 R384 to R387) -/

/-- Number of the scratchpad word that holds byte `a` of tile `t`: 2²¹ words a tile. -/
def spWordOf (t a : Nat) : Nat := t * 2 ^ 21 + a / 64

/-- Bank of a scratchpad word, tile by tile (10 R384). -/
def spBankOf (w : Nat) : Nat := w / 2 ^ 21 * 64 + (w % 64 + 2 * (w % 2 ^ 21 / 64)) % 64

/-- Words of `len` bytes from `a` on of tile `t`. -/
def spWords (t a len : Nat) : List Nat :=
  if len = 0 then [] else (List.range ((a + len - 1) / 64 + 1 - a / 64)).map (fun i => spWordOf t (a + 64 * i))

/-- A cycle's accesses to the scratchpad: `taken` are the words its banks serve already. A word is served with them where its bank serves no
other word (10 R385, R386). The words served in the cycle, and those that wait. -/
def grantWords (taken todo : List Nat) : List Nat × List Nat :=
  todo.foldl (fun (p : List Nat × List Nat) w =>
    if p.1.contains w then p
    else if p.1.any (fun x => spBankOf x == spBankOf w) then (p.1, p.2 ++ [w])
    else (p.1 ++ [w], p.2)) (taken, [])

/-! ### Parcels -/

/-- Metadata of row `k` after its parcel `p` is written with zero at the parcel's strength (15 R584). -/
def clearedRow (p k : Nat) (r : RowMeta) : RowMeta :=
  if parcelOfLine (32 * k) = p then r.rewritten k false else r

/-- Every line of parcel `p` reads zero with POISON clear, each row at the parcel's strength (15 R584; 18 R671). -/
def State.clearParcel (s : State) (p : Nat) : State :=
  (((s.putMem (s.mem.filter (fun e => parcelOfLine (e.1 / 64) != p))).putPois (s.pois.filter (fun e => parcelOfLine (e.1 / 2) != p))).putRows (Tab.mapAll rowDefault (clearedRow p) s.rows))

/-- Strength of a slot: the greater of its owner's request and its parcel's wear floor (03 R110). -/
def State.strengthFor (s : State) (slot : Nat) : Nat :=
  let want := ((s.slot slot).codeReq).getD (s.cfg rPCCFG 0 3)
  max want (s.parcel (s.slot slot).phys).floor

/-- The contents of parcel `p` copied to parcel `q`, offset by offset, line by line: each line is read and tested at `p` and written
whole at `q`, so that a line that cannot be read and a row under R84 arrive poisoned (02 R55; 03 R84, R92, R97). -/
def State.copyParcel (s : State) (p q : Nat) : State :=
  let dest (k : Nat) : Nat := (locOf s.boot.hashMask q (offsetOf s.boot.hashMask (locOfLine k))).line
  let s0 := (s.rows.filter (fun e => parcelOfLine (32 * e.1) == p && e.2.errs != [])).foldl (fun s e =>
    if s.badTag e.1 then s else s.decodeRow e.1 127 8 none (s.logAddr (32 * e.1)) id) s
  let s1 := s0.clearParcel q
  let m := s0.mem.foldl (fun t e =>
    if parcelOfLine (e.1 / 64) = p then Tab.set (fun _ => 0) t (64 * dest (e.1 / 64) + e.1 % 64) e.2 else t) s1.mem
  let s2 := s1.putMem m
  let bad := ((s0.pois.map (fun e => e.1 / 2)).eraseDups.filter (fun k => parcelOfLine k == p && s0.isPoisoned k)) ++
    (s0.rows.filter (fun e => parcelOfLine (32 * e.1) == p && s0.badTag e.1)).flatMap (fun e => (List.range 32).map (fun i => e.1 * 32 + i))
  let s3 := (s0.rows.filter (fun e => parcelOfLine (32 * e.1) == p && e.2.errs != [])).foldl (fun s e =>
    (List.range 32).foldl (fun s i => s.storeLine (dest (e.1 * 32 + i)) (s0.rawLine (e.1 * 32 + i)) false) s) s2
  bad.foldl (fun s k => s.poisonLine (dest k)) s3

/-- A wake of tile `t` waiting for admission, unless it waits or is admitted already (17 R657). -/
def State.enqueueWake (s : State) (t kind member : Nat) : State :=
  let h := s.hub t
  if h.wakeQ.any (fun w => w.1 == kind && w.2.1 == member) ∨ (kind, member) ∈ h.admitted then s
  else s.modHub t (fun h => { h with wakeQ := h.wakeQ ++ [(kind, member, s.cyc)] })

/-! ### Contexts -/

/-- Tile of a module context (11 R435). -/
def tileOfCtx (c : Nat) : Nat := c / 4

/-- The tally of context `c` named by `t`, if any, advanced by one; waits see an advance at engine cycle E from sequencer cycle ⌈E ÷ 2⌉ + 1 on
(11 R453). -/
def State.advance (s : State) (c : Nat) (t : Option Nat) : State :=
  match t with
  | some k => s.modCtx c (fun x => { x with
      tl := Tab.upd (fun _ => 0) x.tl k (fun v => v + 1)
      fresh := (k, (s.cyc + 1) / 2 + 1) :: x.fresh.filter (fun e => decide (s.cyc / 2 < e.2)) })
  | none => s

/-- A step among those a context has outstanding: its engine, operation and index in one number. -/
def stepKey (eng op step : Nat) : Nat := (eng * 256 + op) * 2 ^ 24 + step % 2 ^ 24

/-- A step of a context that is outstanding no longer, for itself and for a GSNAP that waits for it (11 R447; 16 R629). -/
def Ctx.finish (x : Ctx) (key : Nat) : Ctx :=
  { x with outst := x.outst.erase key, gq := x.gq.map (fun g => { g with before := g.before.erase key }) }

/-- A step of context `c` completes: its tally advances and it is outstanding no longer (11 R453). -/
def State.stepDone (s : State) (c step : Nat) (eng op : Nat) (t : Option Nat) : State :=
  let s1 := (s.advance c t).modCtx c (fun x => x.finish (stepKey eng op step))
  let a := match t with | some k => (Tab.get (fun _ => 0) (s1.ctx c).tl k).toNat | none => 0
  s1.trace 2 (s.ctx c).part c eng step op a 0

/-- What the matrix engine discards of tile-local context `q` when it halts (08 R330). -/
def Matrix.stop (m : Matrix) (c : Nat) : Matrix :=
  { m with
    queue := m.queue.filter (fun e => e.ctx != c)
    runs := m.runs.filter (fun r => r.st.ctx != c)
    res := match m.res with | some r => if r.ctx = c % 4 then none else some r | none => none
    wake := m.wake.filter (fun e => e.ctx != c)
    dropped := m.dropped.filter (· != c % 4)
    reconf := m.reconf.filter (· != c % 4)
    fpq := Tab.set (fun _ => []) m.fpq (c % 4) [] }

/-- What the vector engine discards of context `c` when it halts (09 R379). -/
def Vector.stop (v : Vector) (c : Nat) : Vector :=
  { v with
    queue := v.queue.filter (fun e => e.ctx != c)
    runs := v.runs.filter (fun r => r.st.ctx != c)
    words := if v.runs.any (fun r => r.st.ctx == c) then [] else v.words
    loads := if v.runs.any (fun r => r.st.ctx == c) then [] else v.loads }

/-- A ferry channel stopped at a line boundary (10 R433). -/
def FeChan.stop (f : FeChan) : FeChan :=
  { f with queue := [], cur := none, done := false, biWait := false, left := [], haltAt := none, moved := false,
           got := [], badLine := none, rdWords := [], wrWords := [], words := [],
           st := if f.cur.isSome then 2 else f.st }

/-- COPY descriptors whose steps a channel holds (15 R581). -/
def FeChan.copies (f : FeChan) : List DescRef :=
  (match f.cur with | some x => x.copy.toList | none => []) ++ f.queue.filterMap (fun x => x.copy)

/-- COPY descriptors whose steps were discarded with their channel (15 R574, R589). -/
def State.copiesStopped (s : State) (rs : List DescRef) (c fault : Nat) : State :=
  rs.foldl (fun s r => s.complete r { status := 8, detail := BitVec.ofNat 8 fault, ctx := BitVec.ofNat 6 c }) s

/-- Every queued and running step of context `c` discarded or stopped (11 R469; 06 R257, 08 R330, 09 R379,
10 R433). -/
def State.stopEngines (s : State) (c : Nat) : State :=
  let t := tileOfCtx c
  let s1 := (s.modMat t (fun m => m.stop c)).modVec t (fun v => v.stop c)
  let chans := (List.range 4).map (fun i => 16 * t + 4 * (c % 4) + i)
  let copies := chans.flatMap (fun i => (s.fchan i).copies)
  let s2 := chans.foldl (fun s i => s.modFchan i FeChan.stop) s1
  let s3 := s2.modHub t (fun h => { h with
    overlap := match h.overlap with | some f => if f / 4 = c % 4 then none else some f | none => none })
  let mark (_ : Nat) (ch : Channel) : Channel :=
    match ch.pass with
    | some p => if p.ctx = c then { ch with pass := some { p with abandon := true } } else ch
    | none => ch
  let s4 := ((s3.putChans (Tab.mapAll (fun _ => {}) mark s3.chans)).putXacts (s3.xacts.filter (fun x => !(x.tile == t && x.ch / 4 == c % 4))))
  let s5 := ((s4.putCrus (s4.crus.filter (fun e : Nat × SumBuf => !(e.2.dst.any (fun d : DrainKey => d.ctx == c))))).putHubs (Tab.mapAll (fun _ => {}) (fun _ h => { h with
      rebuilds := h.rebuilds.filter (fun r : Rebuild => !r.groups.any (fun g : RebuildGroup => g.dst.any (fun d : DrainKey => d.ctx == c))) }) s4.hubs))
  (s5.modCtx c (fun x => { x with nbq := [], nbrun := none, gq := none, outst := [], access := none })).copiesStopped copies c 0

/-- Status bits that a completion of context `c` carries (15 R588; 09 R380). -/
def State.statusOf (s : State) (c : Nat) : Completion :=
  let x := s.ctx c
  { poison := x.poison, sat := x.sat, range := x.range, vexc := (s.vfile c).exc, ctx := BitVec.ofNat 6 c }

/-- A context that a halt reaches: running, or preserved with issued steps still to complete (11 R438; 18 R674). -/
def Ctx.live (x : Ctx) : Bool := x.st == .running || (x.st == .preserved && !x.outst.isEmpty)

/-- Context `c` halts with `reason`; `fld` and `step` name the recorded step and its part (11 R468, R469). -/
def State.haltOne (s : State) (c reason fld step : Nat) : State :=
  let x := s.ctx c
  if x.live then
    let addr := x.man.steps + 32 * step
    let s1 := (s.stopEngines c).modCtx c (fun x => { x with
      st := .halted, reason := reason, hfield := fld, hstep := step, haddr := addr, start := none,
      waitCm := false, waitQ := false, waitMb := false })
    let s2 := match x.start with
      | some r => s1.complete r { s.statusOf c with
          status := 2, detail := BitVec.ofNat 8 reason, step := BitVec.ofNat 24 step }
      | none => s1
    let s3 := s2.bbox (tileOfCtx c) 4 x.part c [(24, 1, reason), (25, 3, step), (28, 8, addr)]
    s3.trace 3 x.part c 0 step 0 0 reason
  else s

/-- Groups that hold an instance in flight of which context `c` is a participant that has not completed (16 R628). -/
def State.meets (s : State) (c : Nat) : List (Nat × Group) :=
  s.groups.filter (fun e => flag e.2.ctxs.toNat c && e.2.insts.any (fun i => !i.done.contains c))

/-- The participants that fall with context `c`: every context of the groups it meets in (16 R631). -/
def State.partners (s : State) (c : Nat) : List Nat :=
  (s.meets c).flatMap (fun e => (List.range 64).filter (fun d => d != c && flag e.2.ctxs.toNat d))

/-- The instances in `is` of group `g` told to the other member modules as failed (16 R631). -/
def State.tellFailed (s : State) (g : Nat) (is : List Inst) : State :=
  (is.filter (fun i => i.scope)).foldl (fun s i => s.sendAll g i 3 false []) s

/-- The instances that a halt of context `c` ends: they never complete, the other modules are told, and a late issue of
one halts (16 R631). -/
def State.failMeets (s : State) (c : Nat) : State :=
  (s.meets c).foldl (fun s e =>
    let dead := e.2.insts.filter (fun i => !i.done.contains c)
    (s.modGroup e.1 (fun g =>
      { g with failed := g.failed ++ dead.map (fun i => i.k)
               insts := g.insts.filter (fun i => i.done.contains c) })).tellFailed e.1 dead) s

/-- The recorded step of a halt that another participant causes: its global step, or the step it would issue next. -/
def Ctx.globalStep (x : Ctx) : Nat := match x.gq with | some g => g.step | none => x.next

/-- Contexts halted one after another, each with the participants it met in (16 R631). -/
def State.haltMany : Nat → List (Nat × Nat × Nat × Nat) → State → State
  | 0, _, s => s
  | _ + 1, [], s => s
  | n + 1, (c, reason, fld, step) :: l, s =>
    if (s.ctx c).live then
      let more := (s.partners c).map (fun d => (d, 0x30, 15, (s.ctx d).globalStep))
      haltMany n (l ++ more) ((s.failMeets c).haltOne c reason fld step)
    else haltMany n l s

/-- Context `c`, if running, halts with `reason`, and with it every participant of a global operation it is in
(11 R468, R469; 16 R631). -/
def State.halt (s : State) (c reason fld step : Nat) : State := State.haltMany 4096 [(c, reason, fld, step)] s

/-- Poisoned result status noted for context `c` (15 R588). -/
def State.notePoison (s : State) (c : Nat) : State := s.modCtx c (fun x => { x with poison := true })

/-- FCADDR as it reads (10 R434). -/
def FeChan.addrWord (f : FeChan) : Nat := f.addr + f.space * 2 ^ 48 + f.tile * 2 ^ 51 + f.module * 2 ^ 55

/-- Channel `ch` of tile `t` halts on `fault` at a line: recorded, posted and put in the black box, its queue
discarded, its COPY completed with the fault or its context halted with 0x21 (10 R431, R432). `fld` is the operand
whose line was in progress, `at_` the address, space, tile and module of the line. A queued write that fails after its step's tally has
advanced halts the channel too, under the step that the channel ran last. -/
def State.ferryFault (s : State) (t ch fault fld : Nat) (at_ : Nat × Nat × Nat × Nat) : State :=
  let k := 16 * t + ch
  let f := s.fchan k
  let c := 4 * t + ch / 4
  let copy := match f.cur with | some x => x.copy.isSome | none => false
  let step := match f.cur with | some x => x.step | none => f.tag
  let tag := if copy then 0 else step % 2 ^ 14
  let s1 := s.modFchan k (fun f => { f.stop with
    st := 2, fault := fault, addr := at_.1, space := at_.2.1, tile := at_.2.2.1, module := at_.2.2.2, tag := tag })
  let s2 := (s1.modHub t (fun h => { h with overlap := if h.overlap = some ch then none else h.overlap })).putXacts
    (s1.xacts.filter (fun x => !(x.tile == t && x.ch == ch)))
  let word := (s2.fchan k).addrWord
  let s3 := s2.bbox t 5 (s.ctx c).part c [(24, 1, fault), (25, 1, ch), (32, 8, word)]
  let s4 := match (s.ctx c).part with
    | some p => s3.event p 0x0A [(16, 1, fault), (17, 1, ch + 16 * t), (18, 2, tag), (24, 8, word)]
    | none => s3
  let s5 := s4.copiesStopped f.copies c fault
  if copy then s5 else s5.halt c 0x21 fld step

end Sys2Proof.Machine
end

