-- ==== Sys2Proof/Machine/StackCmd.lean ====
section
/-! DEFINITION. The row and column commands of a channel in conventional mode, its rank power states,
refresh and row disturbance (chapters 04 and 06). A command the stack controller may not issue in the state
at hand is not issued: the state stays (log entry 5). -/

namespace Sys2Proof.Machine

/-- Bank `j` of a channel. -/
def Channel.bank (c : Channel) (j : Nat) : Bank := Tab.get (fun _ => {}) c.banks j

/-- Bank `j` of a channel changed. -/
def Channel.modBank (c : Channel) (j : Nat) (f : Bank → Bank) : Channel :=
  { c with banks := Tab.upd (fun _ => {}) c.banks j f }

/-- Power state of a rank of a channel. -/
def Channel.rank (c : Channel) (r : Nat) : RankPower := Tab.get (fun _ => RankPower.awake) c.ranks r

/-- Rank `r` of a channel put in power state `p`. -/
def Channel.setRank (c : Channel) (r : Nat) (p : RankPower) : Channel :=
  { c with ranks := Tab.set (fun _ => RankPower.awake) c.ranks r p }

/-! ### Command words (06 R212 to R218) -/

/-- A row command word: opcode in RW[3:0], and its fields as lowest bit and value (06 R216). -/
def rowWord (op : Nat) (fs : List (Nat × Nat)) : Nat := op + (fs.map (fun f => f.2 * 2 ^ f.1)).sum
/-- ACT. -/
def actWord (rank bank row : Nat) : Nat := rowWord 1 [(4, rank), (9, bank), (10, row)]
/-- PRE. -/
def preWord (rank bank both : Nat) : Nat := rowWord 2 [(4, rank), (9, bank), (10, both)]
/-- REF. -/
def refWord (rank bank : Nat) : Nat := rowWord 3 [(4, rank), (9, bank)]
/-- PWR of function `fn`. -/
def pwrWord (fn rank : Nat) : Nat := rowWord 4 [(4, fn), (7, rank)]
/-- MRW. -/
def mrwWord (rank allr reg value : Nat) : Nat := rowWord 5 [(4, rank), (9, allr), (10, reg), (18, value)]
/-- AHA. -/
def ahaWord (rank bank row : Nat) : Nat := rowWord 0xA [(4, rank), (9, bank), (10, row)]
/-- NNR. -/
def nnrWord (rank bank : Nat) : Nat := rowWord 0xD [(4, rank), (9, bank)]
/-- BBQ. -/
def bbqWord (q : Nat) : Nat := rowWord 0xE [(4, q)]
/-- RD (opcode 1) and WR (opcode 2) on the column bus (06 R217). -/
def rdWord (op rank bank col ap : Nat) : Nat := rowWord op [(4, rank), (9, bank), (10, col), (16, ap)]
/-- MRR. -/
def mrrWord (rank reg : Nat) : Nat := rowWord 3 [(4, rank), (9, reg)]
/-- CCL. -/
def cclWord (col : Nat) : Nat := rowWord 8 [(4, col)]
/-- CFGW (opcode 0xA) and STR (opcode 0xD). -/
def rankWord (op rank : Nat) : Nat := rowWord op [(4, rank)]
/-- ACR. -/
def acrWord (rank bank group buf : Nat) : Nat := rowWord 0xB [(4, rank), (9, bank), (10, group), (13, buf)]
/-- ACL. -/
def aclWord (rank allr mask : Nat) : Nat := rowWord 0xC [(4, rank), (9, allr), (10, mask)]

/-- The bits that a row command's fields name, its opcode with them; none where the opcode is not used (06 R216). -/
def rowNamed (op : Nat) : Option Nat :=
  match op with
  | 0x0 | 0x8 | 0x9 | 0xB | 0xC => some 0xF
  | 0x1 | 0xA => some (actWord 31 1 65535 ||| 0xF)
  | 0x2 => some (preWord 31 1 1 ||| 0xF)
  | 0x3 | 0xD => some (refWord 31 1 ||| 0xF)
  | 0x4 => some (pwrWord 7 31 ||| 0xF)
  | 0x5 => some (mrwWord 31 1 255 255 ||| 0xF)
  | 0xE => some (bbqWord 65535 ||| 0xF)
  | _ => none

/-- The bits that a column command's fields name, its opcode with them; none where the opcode is not used (06 R217). -/
def columnNamed (op : Nat) : Option Nat :=
  match op with
  | 0x0 | 0x9 => some 0xF
  | 0x1 | 0x2 => some (rdWord 15 31 1 63 1)
  | 0x3 => some (mrrWord 31 255 ||| 0xF)
  | 0x8 => some (cclWord 63 ||| 0xF)
  | 0xA | 0xD => some (rankWord 15 31)
  | 0xB => some (acrWord 31 1 7 15 ||| 0xF)
  | 0xC => some (aclWord 31 1 255 ||| 0xF)
  | _ => none

/-- The rank a command names, if it names one: PWR FN 4 and 5 and commands to every rank ignore their RANK field (06 R216, R217). -/
def namedRank (column : Bool) (w : Nat) : Option Nat :=
  let op := w % 16
  if column then
    if op = 1 ∨ op = 2 ∨ op = 3 ∨ op = 0xA ∨ op = 0xB ∨ op = 0xC ∨ op = 0xD then some (field w 4 5) else none
  else if op = 4 then (if field w 4 3 < 4 then some (field w 7 5) else none)
  else if op = 1 ∨ op = 2 ∨ op = 3 ∨ op = 5 ∨ op = 0xA ∨ op = 0xD then some (field w 4 5) else none

/-- A die ignores the command and reports it in error: an unused opcode, a bit that no field names, or rank 24 to 31 (06 R218). -/
def dieRejects (column : Bool) (w : Nat) : Bool :=
  (match (if column then columnNamed (w % 16) else rowNamed (w % 16)) with
   | some m => w &&& m != w
   | none => true) ||
  (match namedRank column w with | some r => decide (24 ≤ r) | none => false)

/-- The parity pin at an edge: with it the number of ones among the bus's pins is even (06 R214). -/
def parityPin (n pins : Nat) : Bool := parityOf n pins

/-- What a row command drives at its rising and falling edge: RC[13:0] and RPAR (06 R212, R214). -/
def rowEdges (w : Nat) : List (Nat × Bool) :=
  [field w 0 14, field w 14 14].map (fun p => (p, parityPin 14 p))

/-- What a column command drives in its slot: CC[17:0] and CPAR (06 R213, R214). -/
def columnEdge (w : Nat) : Nat × Bool := (field w 0 18, parityPin 18 w)

/-- A command error counted (04 R162, R163). -/
def Channel.countError (c : Channel) (now : Nat) : Channel :=
  { c with caerr := satNat 8 (c.caerr + 1), caTimes := (now :: c.caTimes).take 16 }

/-- Sixteen command errors lie within one second (04 R162). -/
def Channel.errorStorm (c : Channel) (now : Nat) : Bool :=
  match c.caTimes[15]? with
  | some t => decide (now < t + 1600000000)
  | none => false

/-- An answer given to a requester. -/
def State.answer (s : State) (a : Answer) : State :=
  (s.putOut { s.out with answer := some a, answered := s.out.answered + 1 })

/-- The channel holds command `x` in error: one more failure of the command it holds already, or the first of another (04 R160). -/
def Channel.holdError (c : Channel) (x : BusCmd) : Channel :=
  match c.caHeld with
  | some y => { c with caHeld := some { x with fails := if y.column = x.column ∧ y.word = x.word ∧ y.line = x.line ∧ y.who = x.who then y.fails + 1 else 1 } }
  | none => { c with caHeld := some { x with fails := 1 } }

/-- A command that the stack reports in error: counted, and held to be issued again after tRC, up to two times; sixteen errors within a
second bring a full sweep (04 R160, R162, R163). -/
def State.reportError (s : State) (ch : Nat) (x : BusCmd) : State :=
  let s1 := s.modChan ch (fun c => (c.countError s.cyc).holdError { x with waiting := true })
  if (s1.chan ch).errorStorm s.cyc then s1.modChan ch (fun c => { c with sweepDue := true, recentreDue := true, caTimes := [] }) else s1

/-- A command names rank 24 to 31: the dies ignore it and report it in error (06 R218). `word` are its bits as they go over the bus; it
serves no request. -/
def State.badRank (s : State) (ch : Nat) (column : Bool) (word : Nat) : State :=
  s.reportError ch { column := column, word := word, who := 6, path := 8 }

/-- A command outside its mode is ignored and sets SEQERR in the NBUs of the banks it names (06 R231). -/
def State.wrongMode (s : State) (ch : Nat) (js : List Nat) : State :=
  (s.putNbus (Tab.updMany (fun _ => {}) (fun n : Nbu => { n with seqerr := true }) (js.map (bankOf ch)) s.nbus))

/-- The banks of a rank. -/
def rankBanks (r : Nat) : List Nat := [2 * r, 2 * r + 1]

/-- Every bank of a channel. -/
def allBanks : List Nat := List.range 48

/-- The channel takes conventional commands: mode, NBRDY and the stack's supply (06 R220, 04 R143). -/
def State.conventional (s : State) (ch : Nat) : Bool :=
  (s.chan ch).mode == .conv && (s.chan ch).nbrdy && !(s.stack (ch / 16)).sr

/-- A channel that serves requests: a re-centring that waits for a wake comes first (04 R158). -/
def State.serves (s : State) (ch : Nat) : Bool :=
  s.conventional ch && !((s.chan ch).recentreDue && (List.range 24).any (fun r => (s.chan ch).rank r != .selfRefresh))

/-- Threshold of the row-disturbance alert (04 R147, R163). -/
def State.alertAt (s : State) : Nat := 256 * 2 ^ s.inForce 0 rRDCFG 0 3

/-- Subarray and wordline that hold row `r` of module bank `b`: its own, or those of its spare row, on wordlines 1024 to 1031 of a
subarray (02 R33, R38; 04 R147). -/
def State.wordOf (s : State) (b r : Nat) : Nat × Nat :=
  match (s.row (rowKey b r)).spare with
  | some x => (x / 8, 1024 + x % 8)
  | none => (r % 64, r / 64)

/-- Keys of the rows of module bank `b` that lie on wordline `w` of subarray `u`. -/
def State.rowsAt (s : State) (b u w : Nat) : List Nat :=
  if w < 1024 then (if (s.row (rowKey b (w * 64 + u))).spare = none then [rowKey b (w * 64 + u)] else [])
  else ((s.rowsOf b).filter (fun e => e.2 == u * 8 + (w - 1024))).map Prod.fst

/-- An activation counted in its row's tally, and the alert it may bring (04 R146, R147). -/
def State.tallyRow (s : State) (ch j r who : Nat) : State :=
  if who = 28 then s
  else
    let k := rowKey (bankOf ch j) r
    let n := satNat 16 ((s.row k).tally + 1)
    let s1 := s.modRow k (fun m => { m with tally := n })
    if n = s.alertAt then s1.modChan ch (fun c => c.modBank j (fun b => { b with alert := some r })) else s1

/-- The tallies of the wordlines `ws` (subarray, wordline) of a bank cleared by a refresh (04 R146). -/
def State.clearTallies (s : State) (b : Nat) (ws : List (Nat × Nat)) : State :=
  s.putRows (Tab.updMany rowDefault (fun m : RowMeta => { m with tally := 0 }) (ws.flatMap (fun w => s.rowsAt b w.1 w.2)) s.rows)

/-- The wordlines that refresh command `k` refreshes: wordline k div 8 of subarrays (k mod 8) + 8m (04 R136). -/
def refreshWords (k : Nat) : List (Nat × Nat) := (List.range 8).map (fun m => (k % 8 + 8 * m, k / 8))

/-- A refresh of the wordlines its counter names in bank `j`, the counter then advancing (04 R136). -/
def State.refreshBank (s : State) (ch j : Nat) : State :=
  let k := ((s.chan ch).bank j).refk
  (s.clearTallies (bankOf ch j) (refreshWords k)).modChan ch (fun c =>
    c.modBank j (fun b => { b with refk := (b.refk + 1) % 8256 }))

/-- The wordlines at physical distances 1 and 2 of a wordline, spare ones included, and the wordline itself (04 R147). -/
def neighbourWords (u w : Nat) : List (Nat × Nat) :=
  (u, w) :: (([2, 1].filter (fun d => decide (d ≤ w))).map (fun d => (u, w - d)) ++
    ([1, 2].filter (fun d => decide (w + d < 1032))).map (fun d => (u, w + d)))

/-- A refresh of bank `j` repays one that was postponed. -/
def State.repay (s : State) (ch j : Nat) : State :=
  (s.refreshBank ch j).modChan ch (fun c => c.modBank j (fun b => { b with postponed := b.postponed - 1 }))

/-- The open row of bank `j` closed; with four refreshes postponed, and for a fifth one due meanwhile, the bank is refreshed at once
(04 R138). -/
def State.closeRow (s : State) (ch j : Nat) : State :=
  let s1 := s.modChan ch (fun c => c.modBank j (fun b => { b with row := none, preAt := s.cyc }))
  (List.range (((s.chan ch).bank j).postponed - 3)).foldl (fun s _ => s.repay ch j) s1

/-- Requester `who` may activate a row of bank `j` now: no alert of the bank waits for its neighbour refresh, and a throttle of the
requester on the bank leaves RDCFG.GAP between two activations (04 R147, R148). -/
def State.mayActivate (s : State) (ch j who : Nat) : Bool :=
  ((s.chan ch).bank j).alert.isNone &&
    (s.chan ch).throttles.all (fun t => !(t.who == who && t.bank == j) || decide (t.last = 0) ||
      decide (t.last + s.inForce 0 rRDCFG 4 8 * 16 ≤ s.cyc + 1))

/-- Row `r` of bank `j` activated for requester `who`: open, counted, and noted by the requester's throttle (04 R146, R148). -/
def State.openRow (s : State) (ch j r who : Nat) : State :=
  (s.modChan ch (fun c => { c.modBank j (fun b => { b with row := some r, opener := who, actAt := s.cyc }) with
    throttles := c.throttles.map (fun t => if t.who = who ∧ t.bank = j then { t with last := s.cyc + 1 } else t) })).tallyRow ch j r who

/-- A row-bus NOP changes nothing (R216). -/
def execRowNop (_ch : Fin 1536) (s : State) : Result := .next s

/-- A column-bus NOP changes nothing (R217). -/
def execColumnNop (_ch : Fin 1536) (s : State) : Result := .next s

/-- ACT opens row `row` of a bank with none open, counted in its tally (R216, 04 R146, R147). -/
def execAct (ch : Fin 1536) (rank : BitVec 5) (bank : Bool) (row : BitVec 16) (who : BitVec 5) (s : State) : Result :=
  let j := 2 * rank.toNat + nat bank
  let c := s.chan ch
  .next (
    if 24 ≤ rank.toNat then s.badRank ch false (actWord rank.toNat (nat bank) row.toNat)
    else if c.mode = .nearBank then s.wrongMode ch [j]
    else if s.serves ch = true ∧ c.rank rank.toNat = .awake ∧ (c.bank j).row = none ∧ s.mayActivate ch j who.toNat = true then
      s.openRow ch j row.toNat who.toNat
    else s)

/-- PRE closes the open row of one bank, or of both banks of the rank (R216). -/
def execPre (ch : Fin 1536) (rank : BitVec 5) (bank both : Bool) (s : State) : Result :=
  let js := if both then rankBanks rank.toNat else [2 * rank.toNat + nat bank]
  let c := s.chan ch
  .next (
    if 24 ≤ rank.toNat then s.badRank ch false (preWord rank.toNat (nat bank) (nat both))
    else if c.mode = .nearBank then s.wrongMode ch js
    else if s.conventional ch = true ∧ c.rank rank.toNat = .awake then js.foldl (fun s j => s.closeRow ch j) s
    else s)

/-- REF refreshes the eight wordlines the bank's counter names and advances it; it repays a postponed refresh, or
counts as one issued early (R136, R138). -/
def execRef (ch : Fin 1536) (rank : BitVec 5) (bank : Bool) (s : State) : Result :=
  let j := 2 * rank.toNat + nat bank
  let c := s.chan ch
  .next (
    if 24 ≤ rank.toNat then s.badRank ch false (refWord rank.toNat (nat bank))
    else if c.mode = .nearBank then s.wrongMode ch [j]
    else if s.conventional ch = true ∧ c.rank rank.toNat = .awake ∧ (c.bank j).row = none ∧
        (0 < (c.bank j).postponed ∨ (c.bank j).early < 4) then
      if 0 < (c.bank j).postponed then s.repay ch j
      else (s.refreshBank ch j).modChan ch (fun c => c.modBank j (fun b => { b with early := b.early + 1 }))
    else s)

/-- A refresh falls due on bank `j`: already issued early, postponed (up to four times), or performed; with four postponed it waits until
the open row closes (R138). In near-bank mode it is postponed for the next NRF, or for the repayment of 06 R246. A rank in self-refresh
refreshes itself, by the same counter (R142). -/
def execRefreshDue (ch : Fin 1536) (j : Fin 48) (postpone : Bool) (s : State) : Result :=
  let c := s.chan ch
  let b := c.bank j
  .next (
    if c.rank (j.val / 2) = .selfRefresh ∨ (s.stack (ch.val / 16)).sr = true then s.refreshBank ch j
    else if 0 < b.early then s.modChan ch (fun c => c.modBank j (fun b => { b with early := b.early - 1 }))
    else if c.mode ≠ .conv ∨ b.row.isSome = true ∨ (postpone = true ∧ b.postponed < 4) then
      s.modChan ch (fun c => c.modBank j (fun b => { b with postponed := min 5 (b.postponed + 1) }))
    else s.refreshBank ch j)

/-- No bank of rank `r` holds an open row and no queued request addresses it (R141). -/
def Channel.rankIdle (c : Channel) (r : Nat) : Bool :=
  (rankBanks r).all (fun j => (c.bank j).row.isNone && !(c.readQ ++ c.writeQ).any (fun q => q.bank == j))

/-- A rank may sleep: conventional mode, no pass lock held (R144, 06 R253). -/
def State.maySleep (s : State) (ch r : Nat) : Bool :=
  s.conventional ch && (s.chan ch).lock.isNone && (s.chan ch).rankIdle r &&
    (match (s.chan ch).grant with | some g => !(decide (8 ≤ g.1) && decide (g.1 ≤ 11)) | none => true)

/-- PWR FN 0: a rank idle for PWRCFG.PDT enters power-down; PDT 0 disables it (R141). -/
def execPowerDownEntry (ch : Fin 1536) (rank : Fin 24) (s : State) : Result :=
  .next (
    if (s.chan ch).mode = .nearBank then s.wrongMode ch (rankBanks rank)
    else if s.maySleep ch rank = true ∧ (s.chan ch).rank rank = .awake ∧ s.inForce 0 rPWRCFG 0 8 ≠ 0 then
      s.modChan ch (fun c => c.setRank rank .down)
    else s)

/-- NBU state lost by banks `bs` (05 R209). -/
def State.loseNbus (s : State) (bs : List Nat) : State :=
  (s.putNbus (Tab.updMany (fun _ => {}) (fun _ : Nbu => {}) bs s.nbus))

/-- PWR FN 2: a rank idle for PWRCFG.SRT enters self-refresh; its NBUs lose their state (R142, 05 R209). -/
def execSelfRefreshEntry (ch : Fin 1536) (rank : Fin 24) (s : State) : Result :=
  .next (
    if (s.chan ch).mode = .nearBank then s.wrongMode ch (rankBanks rank)
    else if s.maySleep ch rank = true ∧ (s.chan ch).rank rank ≠ .selfRefresh ∧ s.inForce 0 rPWRCFG 8 8 ≠ 0 then
      (s.modChan ch (fun c => c.setRank rank .selfRefresh)).loseNbus ((rankBanks rank).map (bankOf ch))
    else s)

/-- The sixteen channels of a module stack. -/
def stackChans (st : Nat) : List Nat := (List.range 16).map (fun i => 16 * st + i)

/-- Stack `st` put into stack self-refresh with every NBU's state lost (R143, 05 R209). -/
def State.enterStackSr (s : State) (st : Nat) : State :=
  let s1 := s.modStack st (fun k => { k with sr := true })
  let s2 := (s1.putChans (Tab.updMany (fun _ => {}) (fun c : Channel =>
    { c with ranks := (List.range 24).map (fun r => (r, RankPower.selfRefresh)),
             banks := Tab.mapAll (fun _ => {}) (fun _ b => { b with row := none, compute := none, ahead := none }) c.banks
             mode := .conv, nbrdy := true, pass := none, lock := none }) (stackChans st) s1.chans))
  s2.loseNbus ((stackChans st).flatMap (fun c => allBanks.map (bankOf c)))

/-- PWR FN 4: a stack whose ranks have all been in self-refresh for PWRCFG.SST (R143). -/
def execStackSelfRefreshEntry (st : Fin 96) (s : State) : Result :=
  let near := (stackChans st).filter (fun c => (s.chan c).mode == .nearBank)
  .next (
    if near ≠ [] then near.foldl (fun s c => s.wrongMode c allBanks) s
    else if (s.stack st).sr = false ∧ s.inForce 0 rPWRCFG 16 8 ≠ 0 ∧
        ((stackChans st).all (fun c => (List.range 24).all (fun r => (s.chan c).rank r == .selfRefresh))) = true then
      s.enterStackSr st
    else s)

/-- PWR FN 5: an admitted stack leaves stack self-refresh, every rank awake; each channel is re-centred before it serves a request (R143,
R158). -/
def execStackSelfRefreshExit (st : Fin 96) (s : State) : Result :=
  let t := st.val / 6
  .next (
    if (s.stack st).sr = true ∧ (s.stack st).hold = false ∧ (0, st.val) ∈ (s.hub t).admitted then
      let s1 := (s.modStack st (fun k => { k with sr := false })).modHub t (fun h => { h with
        admitted := h.admitted.erase (0, st.val) })
      (s1.putChans (Tab.updMany (fun _ => {}) (fun c : Channel =>
          { c with ranks := [], recentreDue := true }) (stackChans st) s1.chans))
    else s)

/-- MRW writes a mode register of one rank or of every rank (R216). -/
def execMrw (ch : Fin 1536) (rank : BitVec 5) (allr : Bool) (reg value : BitVec 8) (s : State) : Result :=
  let c := s.chan ch
  let rs := if allr then List.range 24 else [rank.toNat]
  .next (
    if 24 ≤ rank.toNat then s.badRank ch false (mrwWord rank.toNat (nat allr) reg.toNat value.toNat)
    else if c.mode = .nearBank then s.wrongMode ch (rs.flatMap rankBanks)
    else if s.conventional ch = true then
      s.modChan ch (fun c => { c with mrs := rs.foldl (fun t r => Tab.set (fun _ => 0) t (r * 256 + reg.toNat) value.toNat) c.mrs })
    else s)

/-- MRR returns a mode register of a rank (R217). -/
def execMrr (ch : Fin 1536) (rank : BitVec 5) (reg : BitVec 8) (s : State) : Result :=
  let c := s.chan ch
  .next (
    if 24 ≤ rank.toNat then s.badRank ch true (mrrWord rank.toNat reg.toNat)
    else if c.mode = .nearBank then s.wrongMode ch (rankBanks rank.toNat)
    else if s.conventional ch = true then
      s.answer { kind := 3, data := leBytes 32 (Tab.get (fun _ => 0) c.mrs (rank.toNat * 256 + reg.toNat)) }
    else s)

/-- A read whose column check failed: its row waits for one of the stack's decoders (03 R87, R90). -/
def State.askDecode (s : State) (rk col path : Nat) (part : Option Nat) (addr : Nat) (req : Option Req) : State :=
  s.modStack (rk / 65536 / 768) (fun k => { k with
    decWait := k.decWait ++ [{ row := rk, col := col, path := path, part := part, addr := addr, req := req }] })

/-- RD reads one column of the open row, tested against its check; a failed check of a column in no poisoned line asks for a full-row
decode (R217; 03 R77, R86, R87, R92). AP closes the row after. -/
def execRd (ch : Fin 1536) (rank : BitVec 5) (bank : Bool) (col : BitVec 6) (ap : Bool) (s : State) : Result :=
  let j := 2 * rank.toNat + nat bank
  let c := s.chan ch
  .next (
    if 24 ≤ rank.toNat then s.badRank ch true (rdWord 1 rank.toNat (nat bank) col.toNat (nat ap))
    else if c.mode = .nearBank then s.wrongMode ch [j]
    else match s.conventional ch, (c.bank j).row with
      | true, some r =>
        let rk := rowKey (bankOf ch j) r
        let s1 := (if ap then s.closeRow ch j else s).spend 1 1
        let line := rk * 32 + col.toNat / 2
        if s.columnAsks rk col.toNat then s1.askDecode rk col.toNat 8 none (s.logAddr line) none
        else
          let bad := s.isPoisoned line || s.badTag rk
          (s1.noteRead bad line 8 none (s.logAddr line)).answer { kind := 1, data := s.rawColumn rk col.toNat, poison := bad }
      | _, _ => s)

/-- WR writes one column of the open row with a normal check; an old column that fails its check has its row decoded first, and nothing is
written to a row under R84 (R217; 03 R84, R95, R96). -/
def execWr (ch : Fin 1536) (rank : BitVec 5) (bank : Bool) (col : BitVec 6) (ap : Bool) (data : BitVec 256)
    (s : State) : Result :=
  let j := 2 * rank.toNat + nat bank
  let c := s.chan ch
  .next (
    if 24 ≤ rank.toNat then s.badRank ch true (rdWord 2 rank.toNat (nat bank) col.toNat (nat ap))
    else if c.mode = .nearBank then s.wrongMode ch [j]
    else match s.conventional ch, (c.bank j).row with
      | true, some r =>
        let rk := rowKey (bankOf ch j) r
        let line := rk * 32 + col.toNat / 2
        let s1 := (if ap then s.closeRow ch j else s).spend 1 1
        if s.badTag rk then s1.uncorrectable line 127 5 8 127 none (s.logAddr line)
        else
          let s2 := if s.columnAsks rk col.toNat then s1.decodeRow rk col.toNat 8 none (s.logAddr line) id else s1
          s2.storeColumn rk col.toNat (leBytes 32 data.toNat) false
      | _, _ => s)

/-- The throttle of requester `who` on bank `j`, started or started again (R148). -/
def Channel.throttle (c : Channel) (who j now : Nat) : Channel :=
  if 28 ≤ who then c
  else { c with throttles := { who := who, bank := j, since := now } ::
    c.throttles.filter (fun t => !(t.who == who && t.bank == j)) }

/-- The neighbour refresh of an alerted row of bank `j`, the row's own tally cleared with it (R147). -/
def State.refreshNeighbours (s : State) (ch j r : Nat) : State :=
  let w := s.wordOf (bankOf ch j) r
  (s.clearTallies (bankOf ch j) (neighbourWords w.1 w.2)).modChan ch (fun c => c.modBank j (fun b => { b with alert := none }))

/-- An alert pulse reports bank `j`'s row at the threshold: in conventional mode its neighbours are refreshed; in
near-bank mode the NNR of R249 does that. The opener is throttled on the bank, and the alert is counted
(R147, R148, R163). -/
def execRowDisturbanceAlert (ch : Fin 1536) (j : Fin 48) (s : State) : Result :=
  let c := s.chan ch
  .next (
    match (c.bank j).alert with
    | none => s
    | some r =>
      let s1 := s.modChan ch (fun c => ({ c with alerts := satNat 16 (c.alerts + 1) }).throttle (c.bank j).opener j s.cyc)
      let s2 := s1.count (tileOfChan ch) 0x0C none 1
      if c.mode = .conv then s2.refreshNeighbours ch j r else s2)

/-- RDCFG.HOLD has passed without a further alert: the throttle ends (R148). -/
def execThrottleHoldEnd (ch : Fin 1536) (who : BitVec 5) (j : Fin 48) (s : State) : Result :=
  .next (s.modChan ch (fun c => { c with
    throttles := c.throttles.filter (fun t =>
      !(t.who == who.toNat && t.bank == j.val && decide (t.since + s.inForce 0 rRDCFG 12 8 * 160000 ≤ s.cyc))) }))

end Sys2Proof.Machine
end

