-- ==== Sys2Proof/Machine/Sched.lean ====
section
/-! DEFINITION. The queues, arbiter, write drains, hot-bank count and training of a channel (chapter 04). -/

namespace Sys2Proof.Machine

/-- Class of a requester: host 0, NBS 1, ferry 2, maintenance 3, others 4 (04 R119). -/
def classOf (who : Nat) : Nat :=
  if who ≤ 5 then 0 else if who ≤ 7 then 3 else if who ≤ 11 then 1 else if who ≤ 27 then 2 else 4

/-- No write of a stream is open or held. -/
def Stream.idle (t : Stream) : Bool := t.open_ == 0 && t.flags.isEmpty

/-- A write put behind the flags a stream holds, to be performed after them as one that waits for no other write (14 R547). -/
def Stream.hold (t : Stream) (sa : Nat) (d : Line512) (mask : BitVec 64) (pois : Bool) : Stream :=
  { t with flags := t.flags ++ [{ epoch := t.epoch, wait := 0, failed := pois, sa := sa, data := d, mask := mask }] }

/-- A data write of a stream performed or failed: counted against its interval's flag (14 R549, R550). -/
def Stream.done (t : Stream) (epoch : Nat) (ok : Bool) : Stream :=
  let t1 : Stream := if t.epoch = epoch then { t with open_ := t.open_ - 1, failed := t.failed || !ok }
    else { t with flags := t.flags.map (fun f =>
      if f.epoch = epoch ∧ f.wait ≠ 0 then { f with wait := f.wait - 1, failed := f.failed || !ok } else f) }
  { t1 with asked := t1.asked && !t1.idle }

/-- PATH of a write by requester `who` (03 R117). -/
def writePath (who : Nat) : Nat := if who ≤ 5 then 1 else if who ≤ 7 then 8 else 4

/-- PATH of a read by requester `who` (03 R117). -/
def readPath (who : Nat) : Nat := if who ≤ 4 then 0 else if who ≤ 5 then 9 else if who ≤ 7 then 8 else if who ≤ 11 then 2 else if who ≤ 27 then 3 else 8

/-- A queued data write of a stream that has failed, reported: a host's or a peer's as a late failure, a remote one in
the log and by a notice to its initiator (14 R551, R552, R557; 16 R622). -/
def State.reportFail (s : State) (q : Req) (st : Nat) : State :=
  match q.hdr, q.peer with
  | some h, _ =>
    let w := h.toNat
    (s.lateLog 1 2 (st / 65 - 4) (some (field w 20 6)) (field w 14 6) q.addr 0).reply h 6 0 3 0 []
  | none, some p => (s.lateFail 1 4 p.1 q.part 0 p.2 q.addr).modHport (st / 65) Port.countFail
  | none, none =>
    let h := s.hport (st / 65)
    s.lateFail 1 0 (st / 65) q.part 0 (portDpa (granuleOf h.ig) (max 1 (waysOf h.iw)) q.addr) q.addr

/-- A queued write counted against its stream, and reported where it failed: a ferry write as the fault of its channel, any other write of
no stream by a failure status to its requester (14 R549, R551; 10 R431; 04 R161). -/
def State.writeDone (s : State) (q : Req) (ok : Bool) : State :=
  match q.stream, q.fe with
  | some st, _ =>
    let s1 := s.modStream st (fun t => t.done q.epoch ok)
    if ok then s1 else s1.reportFail q st
  | none, some f =>
    if ok then s else s.ferryFault f.1 f.2 7 2 (q.addr, 2, 0, 0)
  | none, none => if ok then s else s.answer { kind := 5 }

/-- One queued write performed in the banks, and in the parcel its slot is moving to; a failure of a host, peer or
landing write is late (03 R84; 04 R121; 14 R531, R549, R552). -/
def State.performWrite (s : State) (ch : Nat) (q : Req) : State :=
  let k := q.spot ch
  let a := s.addrFor q.who q.addr
  let r := s.writeLine k q.data q.mask q.poison (writePath q.who) q.part a
  let s1 := match s.movingLine q.addr with
    | some m => if r.2 = true ∧ s.lineOfSa q.addr = k then (r.1.writeLine m q.data q.mask q.poison (writePath q.who) q.part a).1 else r.1
    | none => r.1
  s1.writeDone q r.2

/-- A request counted for the hot-bank window (04 R151). -/
def Channel.countBank (c : Channel) (j slot : Nat) : Channel :=
  { c with hotCnt := Tab.upd (fun _ => 0) c.hotCnt j (· + 1), hotTotal := c.hotTotal + 1
           hotLast := Tab.set (fun _ => 7168) c.hotLast j slot }

/-- The rank of bank `j` woken by a request (04 R141, R142). -/
def Channel.wake (c : Channel) (j : Nat) : Channel := c.setRank (j / 2) .awake

/-- The latest number of acceptance among the queued requests (04 R122). -/
def Channel.lastSeq (c : Channel) : Nat := (c.readQ ++ c.writeQ).foldl (fun m q => max m q.seq) 0

/-- A request put at the end of its queue. -/
def Channel.push (c : Channel) (q : Req) : Channel :=
  let q := { q with seq := c.lastSeq + 1 }
  if q.write then { c with writeQ := c.writeQ ++ [q] } else { c with readQ := c.readQ ++ [q] }

/-- The service slot a line lies in, 7168 where its parcel is bound to none. -/
def State.slotOfLine (s : State) (k : Nat) : Nat := (s.slotOfParcel (parcelOfLine k)).getD 7168

/-- A request accepted into its channel's queue, which wakes its rank; a stack in stack self-refresh asks for its exit first (04 R120,
R141 to R143, R151). -/
def State.accept (s : State) (ch : Nat) (q : Req) : State :=
  let q := { q with at_ := s.cyc }
  let sl := s.slotOfLine (q.spot ch)
  if (s.stack (ch / 16)).sr then (s.modChan ch (fun c => (c.countBank q.bank sl).push q)).enqueueWake (tileOfChan ch) 0 (ch / 16)
  else s.modChan ch (fun c => ((c.wake q.bank).countBank q.bank sl).push q)

/-- Room in the queue a request needs, and the stack not held at level 5 (04 R120; 17 R663). -/
def State.hasRoom (s : State) (ch : Nat) (write : Bool) : Bool :=
  (if write then decide ((s.chan ch).writeQ.length < 64) else decide ((s.chan ch).readQ.length < 64)) &&
    !(s.stack (ch / 16)).hold

/-- A request enters its channel's queue when there is room; otherwise it is held at the requester (R120, R121). -/
def execChannelAccept (ch : Fin 1536) (who : BitVec 5) (part : Option (Fin 64)) (j : Fin 48) (row : BitVec 16) (pair : BitVec 5)
    (write : Bool) (data : BitVec 512) (mask : BitVec 64) (poison : Bool) (s : State) : Result :=
  let k := lineKey (bankOf ch j) row.toNat pair.toNat
  .next (
    if s.hasRoom ch write then
      s.accept ch { who := who.toNat, part := part.map Fin.val, bank := j, row := row.toNat, line := pair.toNat, write := write
                    data := data, mask := mask, poison := poison, addr := s.logAddr k }
    else s)

/-- Burst limit of a requester in column commands, or yield intervals for an NBS context (R126). -/
def State.burstOf (s : State) (who : Nat) : Nat :=
  let c := classOf who
  if c = 0 then s.inForce 0 rARBHOST 0 8 else if c = 1 then s.inForce 0 rARBNBS 0 4
  else if c = 2 then s.inForce 0 rARBFER 0 8 else s.inForce 0 rARBFER 8 8

/-- Quota of a requester; 0 never masks (R128). -/
def State.quotaOf (s : State) (who : Nat) : Nat :=
  if classOf who = 0 then s.inForce 0 rARBHOST 8 16 else if classOf who = 1 then s.inForce 0 rARBNBS 8 8 else 0

/-- Requesters waiting for a grant on a channel, oldest request first, NBS contexts last; writes wait for a drain and not for
a grant (R125, R134). -/
def Channel.waiting (c : Channel) : List Nat := (c.readQ.map Req.who).eraseDups ++ c.waitNbs.map Prod.fst

/-- A requester masked for the rest of the window (R128). -/
def State.masked (s : State) (c : Channel) (who : Nat) : Bool :=
  decide (s.quotaOf who ≠ 0) && decide (s.quotaOf who ≤ Tab.get (fun _ => 0) c.grants who)

/-- The first of `n` members after position `last`, taken in turn, that is waiting. -/
def roundRobin (base n last : Nat) (w : List Nat) : Option Nat :=
  ((List.range n).map (fun i => base + (last + 1 + i) % n)).find? (fun x => w.contains x)

/-- An NBS context may be granted: no near-bank hold, and no pass lock of another context (06 R254; 17 R660). -/
def Channel.nbsMay (c : Channel) (who : Nat) : Bool :=
  !c.nbHold && (match c.lock with | some h => who == 8 + h % 4 | none => true)

/-- Engine cycle since which a requester has waited on a channel: that of its oldest read, or of its wait for a near-bank grant. -/
def Channel.since (c : Channel) (who : Nat) : Option Nat :=
  (c.readQ.find? (fun q => q.who == who)).map Req.at_ <|> (c.waitNbs.find? (fun w => w.1 == who)).map Prod.snd

/-- The requester of `w` that has waited longest on a channel, the first of equals. -/
def Channel.oldest (c : Channel) (w : List Nat) : Option Nat :=
  w.foldl (fun best x =>
    match best with
    | none => some x
    | some y => if (c.since x).getD 0 < (c.since y).getD 0 then some x else some y) none

/-- The requester granted at an arbitration point, with those in `more` waiting besides the queued ones (R125, R129). -/
def State.nextGrant (s : State) (ch : Nat) (more : List Nat) : Option Nat :=
  let c := s.chan ch
  let w := c.waiting ++ more
  let free := w.filter (fun x => !s.masked c x)
  let maint := w.find? (fun x => x == 6) <|> w.find? (fun x => x == 7)
  let win := s.inForce 0 rARBCFG 0 16
  let due := (s.inForce 0 rARBCFG 16 1 != 0) && !c.mntDone && decide (win ≤ 2 * (s.stamp % win))
  let first := if due then maint else none
  first
    <|> free.find? (fun x => classOf x == 0)
    <|> roundRobin 8 4 c.rrNbs (free.filter (fun x => classOf x == 1 && c.nbsMay x))
    <|> roundRobin 12 16 c.rrFer w
    <|> c.oldest (w.filter (fun x => classOf x == 0 || (classOf x == 1 && c.nbsMay x)))
    <|> maint

/-- A grant of requester `who` counted on channel `ch`; that of an NBS context wakes every rank, as entry into near-bank mode needs (R126 to
R129, R144). -/
def State.countGrant (s : State) (ch who : Nat) : State :=
  s.modChan ch (fun c => { c with
    grant := some (who, 0)
    grants := Tab.upd (fun _ => 0) c.grants who (· + 1)
    rrNbs := if classOf who = 1 then who - 8 else c.rrNbs
    rrFer := if classOf who = 2 then who - 12 else c.rrFer
    waitNbs := c.waitNbs.filter (fun x => x.1 != who)
    mntDone := c.mntDone || decide (classOf who = 3)
    ranks := if classOf who = 1 then [] else c.ranks })

/-- Bytes of a read that the writes accepted before it hold (R121, R134). -/
def Channel.covered (c : Channel) (ch : Nat) (q : Req) : BitVec 64 :=
  (c.writeQ.filter (fun w => decide (w.seq < q.seq) && w.spot ch == q.spot ch)).foldl (fun m w => m ||| w.mask) 0

/-- Read `q` can be served now: from the queue, from the open row, or from a row that its requester may activate (R121, R147, R148). -/
def State.canServe (s : State) (ch : Nat) (q : Req) : Bool :=
  (s.chan ch).covered ch q == BitVec.allOnes 64 || ((s.chan ch).bank q.bank).row == some q.row || s.mayActivate ch q.bank q.who

/-- The request a grant serves next: one past its age cap, then a row hit, then the oldest (R132). -/
def State.pick (s : State) (ch who : Nat) : Option Req :=
  let c := s.chan ch
  let mine := c.readQ.filter (fun q => q.who == who && s.canServe ch q)
  let cap := s.inForce 0 rSCHCFG 8 8
  (if cap = 0 then none else mine.find? (fun q => decide (q.at_ + cap * 160 < s.cyc)))
    <|> mine.find? (fun q => (c.bank q.bank).row == some q.row)
    <|> mine.head?

/-- An earlier read of a write's own requester to its line still waits for it, or for an earlier write to the line: writes to one line
are performed in the order of arrival (R122; 03 R98). -/
def Channel.behind (c : Channel) (ch : Nat) (w : Req) : Bool :=
  c.writeQ.any (fun v => v.spot ch == w.spot ch && decide (v.seq ≤ w.seq) &&
    c.readQ.any (fun r => r.who == v.who && decide (r.seq < v.seq) && r.spot ch == v.spot ch))

/-- Queued writes performed, oldest first, until the queue holds `lo` entries. -/
def State.drainTo : Nat → Nat → Nat → State → State
  | 0, _, _, s => s
  | n + 1, ch, lo, s =>
    match (s.chan ch).writeQ.find? (fun w => !(s.chan ch).behind ch w) with
    | none => s
    | some q =>
      if (s.chan ch).writeQ.length ≤ lo then s
      else drainTo n ch lo ((s.modChan ch (fun c => { c with writeQ := c.writeQ.erase q })).performWrite ch q)

/-- The writes queued to line `k` performed in their order (R134). -/
def State.drainLine (s : State) (ch k : Nat) : State :=
  let hit (q : Req) : Bool := q.spot ch == k && !(s.chan ch).behind ch q
  let qs := (s.chan ch).writeQ.filter hit
  qs.foldl (fun s q => s.performWrite ch q) (s.modChan ch (fun c => { c with writeQ := c.writeQ.filter (fun q => !hit q) }))

/-- Row `row` of bank `j` open for requester `who`: it stays open, or the open row is closed and it is activated. -/
def State.reachRow (s : State) (ch j row who : Nat) : State :=
  if ((s.chan ch).bank j).row = some row then s
  else (if ((s.chan ch).bank j).row.isSome then s.closeRow ch j else s).openRow ch j row who

/-- The read buffer of port `p` given the line at `sa`; when 2 MiB are held a line leaves, the lowest-numbered (14 R532; DESIGN CHOICE, log
entry 22). -/
def State.fillBuffer (s : State) (p sa : Nat) (d : Line512 × Bool) : State :=
  s.modHport p (fun h => { h with prb := Tab.put (Tab.erase (if h.prb.length < 32768 then h.prb else h.prb.drop 1) (sa / 64)) (sa / 64) d })

/-- A read answered from the banks and the writes accepted before it, in the form its requester asked for (R121; 14 R532, R538). -/
def State.answerRead (s : State) (ch : Nat) (q : Req) : State :=
  let d0 := s.overlaid ch (q.spot ch) (fun w => decide (w.seq < q.seq))
  let d := if q.fill = 3 then (match s.lines.find? (fun e => e.1 == q.addr / 64) with | some e => (e.2.data, e.2.poison) | none => d0) else d0
  let s1 := s.noteRead d0.2 (q.spot ch) (readPath q.who) q.part (s.addrFor q.who q.addr)
  let s2 := if q.fill = 1 ∨ q.fill = 2 then s1.fillBuffer q.who q.addr d else s1
  if q.fill = 2 then s2 else s2.answer { kind := 1, data := lineBytes d.1, poison := d.2 }

/-- The banks' part of a read: its row reached and its line tested; a failed check sends the read to wait for a decoder, otherwise it is
answered (03 R77, R86, R87, R90). -/
def State.readBanks (s : State) (ch : Nat) (q : Req) : State :=
  let k := q.spot ch
  let s1 := (s.reachRow ch q.bank q.row q.who).spend 1 2
  if s1.lineAsks k then
    s1.askDecode (k / 32) (s1.askedColumn k) (readPath q.who) q.part (s.addrFor q.who q.addr) (some q)
  else s1.answerRead ch q

/-- One read of a grant performed (R121, R131, R134): from the queue where the writes accepted before it hold every byte; where they hold a
part, the writes to its line are performed first and the drain goes on after it to the low mark; otherwise from the banks. -/
def State.serve (s : State) (ch : Nat) (q : Req) : State :=
  let m := (s.chan ch).covered ch q
  let n := (s.chan ch).writeQ.length
  let s0 := s.modChan ch (fun c => { c with readQ := c.readQ.erase q })
  if m = BitVec.allOnes 64 then s0.answerRead ch q
  else if m = 0 then s0.readBanks ch q
  else ((s0.drainLine ch (q.spot ch)).readBanks ch q).drainTo n ch (s.inForce 0 rSCHCFG 22 6)

/-- A grant's requests performed until none can be served or the burst limit is reached; the update in hand at the limit is
finished (R126, R130). -/
def State.runGrant : Nat → Nat → Nat → Nat → State → State
  | 0, _, _, _, s => s
  | n + 1, ch, who, used, s =>
    if s.burstOf who ≤ used then s
    else match s.pick ch who with
      | some q => runGrant n ch who (used + q.cols) (s.serve ch q)
      | none => s

/-- The grant of an NBS context that waits for NBE: it has not ended (R126). -/
def State.nbsPending (s : State) (ch : Nat) : Bool :=
  match (s.chan ch).grant with
  | some g => classOf g.1 == 1 && (s.chan ch).nbsMay g.1 && (s.ctx (4 * tileOfChan ch + (g.1 - 8))).nbrun.isSome
  | none => false

/-- The grant of requester `who` performed at once where the channel would choose it now: a request that reaches an idle channel (R125). -/
def State.grantNow (s : State) (ch who : Nat) : State :=
  if s.serves ch = true ∧ s.nbsPending ch = false ∧ s.nextGrant ch [] = some who then (s.countGrant ch who).runGrant 256 ch who 0 else s

/-- At the end of a grant the channel grants the next requester and counts the grant (R125 to R130). A conventional
grant performs its requests; an NBS grant waits for NBE. -/
def execArbitrationPoint (ch : Fin 1536) (s : State) : Result :=
  .next (
    if s.serves ch = true ∧ s.nbsPending ch = false then
      match s.nextGrant ch [] with
      | none => s.modChan ch (fun c => { c with grant := none })
      | some who =>
        let s1 := s.countGrant ch who
        if classOf who = 1 then s1 else s1.runGrant 256 ch who 0
    else s)

/-- The channel would grant requester `who`, which keeps its request outside the queue, if it chose now (R125). -/
def State.canGrant (s : State) (ch who : Nat) : Bool := s.serves ch && !s.nbsPending ch && s.nextGrant ch [who] == some who

/-- The grant that requester `who`, which has no request in the queue, gets where the arbiter would choose it now (R125). -/
def State.grantTo (s : State) (ch who : Nat) : Option State := if s.canGrant ch who then some (s.countGrant ch who) else none

/-- A read of the line at `sa` by requester `who` can be served now (R125, R147, R148). -/
def State.canRead (s : State) (who sa : Nat) : Bool :=
  let l := s.locate sa
  let ch := chanOfBank l.moduleBank
  let j := l.moduleBank % 48
  s.canGrant ch who && (((s.chan ch).bank j).row == some l.row || s.mayActivate ch j who)

/-- The line at `sa` read in the banks by requester `who` under its grant: its rank woken, the request counted, its row reached and the line
tested; what it reads as, the queued writes included (R121, R141, R146, R151; 03 R77, R86). -/
def State.bankRead (s : State) (who path : Nat) (part : Option Nat) (sa : Nat) : (Line512 × Bool) × State :=
  let l := s.locate sa
  let ch := chanOfBank l.moduleBank
  let k := s.lineOfSa (sa / 64 * 64)
  let j := l.moduleBank % 48
  let s1 := ((s.modChan ch (fun c => (c.wake j).countBank j (s.slotOfLine k))).reachRow ch j l.row who).spend 1 2
  let s2 := s1.testLine k path part (s.addrFor who (sa / 64 * 64))
  let d := s2.readQueued ch k
  (d, s2.noteRead d.2 k path part (s.addrFor who (sa / 64 * 64)))

/-- The configuration registers of the stack controller (R163). -/
def scConfig : List Nat := [rSCHCFG, rARBCFG, rARBHOST, rARBNBS, rARBFER, rPWRCFG, rRDCFG, rHOTCFG, rTRNCFG]

/-- An arbitration window ends: every count and mask starts again, and the stack controller's configuration registers take
effect (R128, R129, R163). -/
def execArbWindowEnd (s : State) : Result :=
  .next ((s.putChans (Tab.mapAll (fun _ => {}) (fun _ c => { c with grants := [], mntDone := false }) s.chans)).takeUp 0 scConfig)

/-- Something that the spec makes wait for the queued writes of a channel waits: an NBS context (R124; 06 R230, R243), a flag
or a PDRAIN read that covers one of them (14 R549, R553), or a partition reset (15 R582). -/
def State.drainAsked (s : State) (ch : Nat) : Bool :=
  let c := s.chan ch
  c.waitNbs != [] || c.pass.isSome || (match c.grant with | some g => classOf g.1 == 1 | none => false) ||
  c.writeQ.any (fun q =>
    (match q.stream with | some k => (s.stream k).asked || (s.stream k).flags.any (fun f => f.epoch == q.epoch) | none => false) ||
    (match q.part with | some p => (s.part p).st == .resetting | none => false))

/-- A write drain: the queue at its high mark, or the read at place `read` of the read queue, whose line the queue holds
in part; writes then go on down to the low mark (R134). A drain that something waits for goes on to the last write. -/
def execWriteDrain (ch : Fin 1536) (read : Option (Fin 64)) (s : State) : Result :=
  let c := s.chan ch
  let n := c.writeQ.length
  let lo := s.inForce 0 rSCHCFG 22 6
  .next (
    if s.conventional ch = true then
      match read with
      | none =>
        if s.drainAsked ch then s.drainTo n ch 0
        else if s.inForce 0 rSCHCFG 16 6 ≤ n then s.drainTo n ch lo else s
      | some i =>
        match c.readQ[i.val]? with
        | none => s
        | some q =>
          let m := c.covered ch q
          if m ≠ 0 ∧ m ≠ BitVec.allOnes 64 ∧ s.canServe ch q = true then s.serve ch q else s
    else s)

/-- A bank's open row that no queued request addresses is closed after SCHCFG.PGTO (R133). -/
def execRowCloseTimeout (ch : Fin 1536) (j : Fin 48) (s : State) : Result :=
  let c := s.chan ch
  .next (
    if s.conventional ch = true ∧ (c.readQ ++ c.writeQ).any (fun q => q.bank == j.val && (c.bank j).row == some q.row) = false then
      s.closeRow ch j
    else s)

/-- The bank with the most requests of the window, and its count: the bank that HOTIDX and the event name where several reach SHARE, the
lowest number among equals; the spec does not say which (DESIGN CHOICE, log entry 86). -/
def Channel.hottest (c : Channel) : Nat × Nat :=
  (List.range 48).foldl (fun b j =>
    if b.2 < Tab.get (fun _ => 0) c.hotCnt j then (j, Tab.get (fun _ => 0) c.hotCnt j) else b) (0, 0)

/-- A hot-bank count window ends: a bank with the share marks the channel hot and posts at most one event in 10 ms
to the owner of the slot of its last request (R151). -/
def execHotBankWindowEnd (ch : Fin 1536) (s : State) : Result :=
  let c := s.chan ch
  let h := c.hottest
  let hot := decide (s.inForce 0 rHOTCFG 12 16 ≤ c.hotTotal) && decide (s.inForce 0 rHOTCFG 8 4 * c.hotTotal ≤ 16 * h.2) && decide (0 < h.2)
  let last := Tab.get (fun _ => 0) c.hotAt h.1
  let slot := Tab.get (fun _ => 7168) c.hotLast h.1
  let post := hot && (s.inForce 0 rHOTCFG 31 1 != 0) && (decide (last = 0) || decide (last + 16000000 ≤ s.cyc + 1)) &&
    (s.slot slot).owner.isSome
  let s1 := s.modChan ch (fun c => { c with
    hotCnt := [], hotTotal := 0, hotBank := hot, hotIdx := if hot then h.1 else 0
    hotAt := if post then Tab.set (fun _ => 0) c.hotAt h.1 (s.cyc + 1) else c.hotAt })
  .next (if post then s1.eventOwner slot 5 [(16, 1, ch.val / 16), (17, 1, ch.val % 16), (18, 1, h.1)] else s1)

/-- What a sweep found for delay `d` (read delays 0-16, write delays 17-33 of the byte lanes): first tap and length of the longest passing
run; a delay that the sweep does not name passes at every tap (R153; DESIGN CHOICE, log entry 96). -/
def runOf (l : Sweep) (d : Nat) : Nat × Nat :=
  match l.find? (fun e => e.1.val == d) with
  | some e => (e.2.1.toNat, e.2.2.toNat)
  | none => (0, 64)

/-- What a channel's training finds for delay `d`: a lane whose run is shorter than `mineye` is swept again, up to three times (R154). -/
def trainedRun (mineye : Nat) (d : Nat) : List Sweep → Nat → Nat × Nat
  | [], _ => (0, 64)
  | [l], _ => runOf l d
  | l :: rest, again =>
    if (runOf l d).2 < mineye ∧ 0 < again then trainedRun mineye d rest (again - 1) else runOf l d

/-- The sweep that a training settles on (R153, R154). -/
def trained (mineye : Nat) (ls : List Sweep) : Sweep :=
  (List.finRange 34).map (fun d => (d, let r := trainedRun mineye d ls 3; (BitVec.ofNat 6 r.1, BitVec.ofNat 7 r.2)))

/-- Delay set from a run: first + (length - 1) div 2 (R153). -/
def centreOf (r : Nat × Nat) : Nat := r.1 + (r.2 - 1) / 2

/-- The narrowest of the 34 runs. -/
def narrowest (l : Sweep) : Nat := (List.range 34).foldl (fun m d => min m (runOf l d).2) 64

/-- The delays of the byte lanes set from what a sweep found. -/
def centres (l : Sweep) : Tab Nat :=
  (List.range 34).foldl (fun t d => Tab.set (fun _ => 31) t d (centreOf (runOf l d))) []

/-- The farthest a centre would move. -/
def Channel.farthest (c : Channel) (l : Sweep) : Nat :=
  (List.range 34).foldl (fun m d =>
    let a := Tab.get (fun _ => 31) c.taps d
    let b := centreOf (runOf l d)
    max m (max (a - b) (b - a))) 0

/-- A channel's delays set to the centres of what a sweep found (R153). -/
def Channel.tuned (c : Channel) (l : Sweep) (now : Nat) : Channel :=
  { c with trnAt := now, recentreDue := false, sweepDue := false, taps := centres l, eye := some (satNat 6 (narrowest l)) }

/-- A channel whose runs fall below WARNEYE recorded in the black box (R159; 19 R717). -/
def State.noteEye (s : State) (ch : Nat) (ls : List Sweep) : State :=
  if ls.any (fun l => decide (narrowest l < s.inForce 0 rTRNCFG 14 6)) then
    s.bbox (tileOfChan ch) 0x0A none 63 [(24, 1, 0), (25, 2, ch / 16), (27, 1, ch % 16)]
  else s

end Sys2Proof.Machine
end

