-- ==== Sys2Proof/Machine/PageCode.lean ====
section
/-! DEFINITION. Full-row decodes, scrub and its escalation, re-encode, slot moves and spares (chapters 02, 03
and 18 "Sparing over life"). -/

namespace Sys2Proof.Machine

/-! ### Decodes -/

/-- A full-row decode of a row waiting in stack `st` starts when one of the four decoders is free (R87, R90). -/
def execFullRowDecode (st : Fin 96) (s : State) : Result :=
  .next (
    match (s.stack st).decWait with
    | [] => s
    | d :: rest =>
      if (s.stack st).decRun.length < 4 then
        s.modStack st (fun k => { k with decWait := rest, decRun := k.decRun ++ [d] })
      else s)

/-- A full-row decode ends: the row decoded with all that follows (R84, R85, R87 to R89, R91, R115, R116), and the read that asked for it
answered: a request of the queue as its channel answers reads, a lone RD with its column. -/
def execFullRowDecodeDone (st : Fin 96) (s : State) : Result :=
  .next (
    match (s.stack st).decRun with
    | [] => s
    | d :: rest =>
      let s1 := (s.modStack st (fun k => { k with decRun := rest })).decodeRow d.row d.col d.path d.part d.addr id
      match d.req with
      | some q => s1.answerRead (chanOfBank (d.row / 65536)) q
      | none =>
        let line := d.row * 32 + d.col / 2
        s1.answer { kind := 1, data := s1.rawColumn d.row d.col, poison := s1.isPoisoned line || s1.badTag d.row })

/-! ### Scrub -/

/-- Working rows of a tile (03 R100). -/
def rowsPerTile : Nat := 4608 * 65536

/-- A scrub pass starts on every tile at a period boundary; the period written takes effect (R101, R118). -/
def execScrubPassStart (s : State) : Result :=
  .next (((((s.putLogs { s.logs with passTime := s.stamp, progress := 0, scrubPeriod := s.cfg rSCRBCFG 0 8 }).putHubs
    (Tab.updMany (fun _ => {}) (fun h : Hub => { h with scrubDone := 0 }) (List.range 16) s.hubs)).putParcels
    (Tab.mapAll (fun _ => {}) (fun _ p => { p with raised := 0, stepped := false }) s.parcels)).putBspares
    (Tab.mapAll (fun _ => {}) (fun _ b => { b with colHits := [] }) s.bspares)).putChans
    (Tab.mapAll (fun _ => {}) (fun _ c => { c with scrubAt := 0 }) s.chans))

/-- A rank woken for scrub out of self-refresh, at most once per 10 s; its rows due are then read by SCRUB_ROW (R145). -/
def execScrubRankWake (ch : Fin 1536) (rank : Fin 24) (s : State) : Result :=
  let c := s.chan ch
  let last := Tab.get (fun _ => 0) c.scrubWoke rank.val
  .next (
    if c.rank rank = .selfRefresh ∧ (s.stack (ch.val / 16)).sr = false ∧ (last = 0 ∨ last + 16000000000 ≤ s.cyc + 1) then
      s.modChan ch (fun c => { c.wake (2 * rank.val) with scrubWoke := Tab.set (fun _ => 0) c.scrubWoke rank.val (s.cyc + 1) })
    else s)

/-- The re-encode of a slot begun, or begun again, where the strength of R110 is no longer the one in force or in progress (R110, R111). -/
def State.reviewCode (s : State) (sl : Nat) : State :=
  let t := s.strengthFor sl
  match (s.slot sl).reenc with
  | some x => if x.1 = t then s else s.modSlot sl (fun x => { x with reenc := some (t, 0) })
  | none => if (s.slot sl).code = t then s else s.modSlot sl (fun x => { x with reenc := some (t, 0) })

/-- Every slot's strength looked at again, after a write of PCCFG.DEFCODE (R110). -/
def State.reviewAll (s : State) : State := (List.range s.slotCount).foldl State.reviewCode s

/-- First row of a parcel, as the log names the parcel; such an entry concerns no row (DESIGN CHOICE, log entry 81). -/
def parcelLine (p : Nat) : Nat := lineKey (p / 512 * 4608) (p % 512 * 128) 0

/-- A parcel that must be retired: it is retired where its slot finds a reserve parcel to move to, or at once where no slot is bound to
it; otherwise it stays in service and the case is logged (R108, R114). -/
def State.retireParcel (s : State) (p : Nat) : State :=
  match s.slotOfParcel p with
  | none => (s.modParcel p (fun x => { x with retired := true })).logError (parcelLine p) 127 0x0B 8 0 none 0
  | some _ =>
    if (s.moveTarget (p / 512)).isSome then s.modParcel p (fun x => { x with retired := true })
    else s.logError (parcelLine p) 127 0x0C 8 0 none 0

/-- A parcel's strength raised by one step, its wear floor with it, and its rows re-encoded to the strength of R110 (R107, R109 to R111).
At t = 64 it is to be retired (R108). -/
def State.raiseParcel (s : State) (p : Nat) : State :=
  let c := s.parcelCode p
  if c < 4 then
    let s1 := (s.modParcel p (fun x => { x with floor := max x.floor (c + 1) })).logError (parcelLine p) 127 8 8 0 none 0
    match s.slotOfParcel p with
    | some sl => s1.reviewCode sl
    | none => s1.modParcel p (fun x => { x with code := some c, reenc := some (x.floor, 0) })
  else s.retireParcel p

/-- Column positions corrected in a row counted; one with 64 corrected rows is spared: its contents are copied and its redirect flips later
(18 R692; 02 R39, R42). -/
def State.countColumns (s : State) (b : Nat) (cols : List Nat) : State :=
  cols.foldl (fun s c =>
    let n := Tab.get (fun _ => 0) (s.bspare b).colHits c + 1
    let s1 := s.modBspare b (fun k => { k with colHits := Tab.set (fun _ => 0) k.colHits c n })
    let due := ((s.stack (b / 768)).pendingRepair.filter (fun r => r.kind == 3 && r.at_ == b)).map Repair.spare
    let k := s.bspare b
    let free := (List.range 4).countP (fun c => !k.badCols.contains c && !k.cols.any (fun e => e.2 == c))
    if n = 64 ∧ due.length < free ∧ k.cols.any (fun e => e.1 == c) = false ∧ ¬ c ∈ due then
      s1.modStack (b / 768) (fun k => { k with pendingRepair := k.pendingRepair ++ [{ kind := 3, at_ := b, spare := c }] })
    else s1) s

/-- Scrub's decode of a row and the escalation rules (R84, R85, R88, R89, R94, R103 to R108, R115). EPOCH takes the number of completed
passes, SCRBSTAT.PASS; the spec does not say whether the pass in progress counts (DESIGN CHOICE, log entry 87). -/
def State.scrubRow (s : State) (rk : Nat) : State :=
  let addr := s.logAddr (rk * 32)
  let p := parcelOfLine (rk * 32)
  if s.badTag rk then s.decodeRow rk 127 6 none addr id
  else match s.decoded rk with
  | none => s.decodeRow rk 127 6 none addr id
  | some (code, fix) =>
    let t := strengthOf code
    let e := fix.length
    let strikes := if thresholdOf (s.cfg rSCRBTHR 0 4) t ≤ e then min 3 ((if s.mcrcOk rk then (s.row rk).strikes else 0) + 1) else 0
    let s1 := s.decodeRow rk 127 6 none addr (fun m => { m with epoch := s.logs.pass % 65536, lastCorr := e, strikes := strikes })
    if s.suspects rk code fix ≠ [] then s1
    else
      let s2 := (s1.modRow rk (fun m => { m with poison := s1.rowPoisoned rk })).countColumns (rk / 65536) (columnsOf fix)
      let hot := decide (thresholdOf (s.cfg rSCRBTHR 4 4) t ≤ e)
      let n := (s.parcel p).raised + 1
      let s3 := if hot then s2.modParcel p (fun x => { x with raised := n }) else s2
      let s4 := if hot ∧ s.cfg rSCRBTHR 16 12 ≤ n ∧ (s.parcel p).stepped = false then
          (s3.modParcel p (fun x => { x with stepped := true })).raiseParcel p else s3
      if s.cfg rSCRBTHR 12 2 ≤ strikes then s4.retireRow rk false else s4

/-- Scrub reads and decodes the next row of a channel, once a pass each (R100 to R103): as an arbitration requester it waits for its grant
and so, in near-bank mode, for a yield point; a rank in self-refresh is not woken by it (R145); with the four decoders of the stack busy it
waits (R90). The rows are taken in the order of bank and row (DESIGN CHOICE, log entry 87). -/
def execScrubRow (ch : Fin 1536) (s : State) : Result :=
  let c := s.chan ch
  let j := c.scrubAt / 65536
  let rk := rowKey (bankOf ch j) (c.scrubAt % 65536)
  let tile := tileOfChan ch
  let ready := decide (j < 48) && !(s.hub tile).retired && c.rank (j / 2) != .selfRefresh && decide ((s.stack (ch.val / 16)).decRun.length < 4) &&
    ((c.bank j).row == some (rk % 65536) || s.mayActivate ch j 7)
  .next (
    match (if ready then s.grantTo ch 7 else none) with
    | none => s
    | some g =>
      let s0 := (((g.modChan ch (fun c => { c.wake j with scrubAt := c.scrubAt + 1 })).reachRow ch j (rk % 65536) 7).scrubRow rk).modHub tile
        (fun h => { h with scrubDone := h.scrubDone + 1 })
      let live := s.tiles.filter (fun u => !(s.hub u).retired)
      let slowest := live.foldl (fun m u => min m (s0.hub u).scrubDone) rowsPerTile
      s0.putLogs { s0.logs with
        progress := slowest * 100 / rowsPerTile
        pass := if slowest = rowsPerTile ∧ (s.hub tile).scrubDone + 1 = rowsPerTile then (s0.logs.pass + 1) % 65536 else s0.logs.pass })

/-! ### Strength, moves and repairs -/

/-- Rows of a parcel (03 R107). -/
def parcelRows : Nat := 589824

/-- Row key of the n-th row of a parcel. -/
def parcelRow (p n : Nat) : Nat := rowKey (p / 512 * 4608 + n / 128) (p % 512 * 128 + n % 128)

/-- Row `rk` decoded at the strength of its metadata and written back at CODE `t`: one that fails is handled as uncorrectable, one under R84
is not written and keeps its strength (R84, R88, R89, R106, R111, R115). -/
def State.reencodeOne (s : State) (rk t : Nat) : State :=
  let addr := s.logAddr (rk * 32)
  if s.badTag rk then (s.decodeRow rk 127 8 none addr id).modRow rk (fun m => { m with code := some (s.rowCode rk) })
  else
    let s1 := if (s.row rk).errs = [] then s else s.decodeRow rk 127 8 none addr id
    s1.modRow rk (fun m => { m with code := some t })

/-- The rows of parcel `p` take their strength from the parcel again, but for those under R84. -/
def State.endReencode (s : State) (p : Nat) : State :=
  s.putRows (Tab.mapAll rowDefault (fun k m =>
    if parcelOfLine (32 * k) = p then { m with code := if s.badTag k then some (s.rowCode k) else none } else m) s.rows)

/-- The four decoders of the stack that holds row `n` of parcel `p` are busy (R90). -/
def State.noDecoder (s : State) (p n : Nat) : Bool := decide (4 ≤ (s.stack (parcelRow p n / 65536 / 768)).decRun.length)

/-- One row of a parcel under re-encode (R111): its slot's, with the descriptor that asked for it completing after the last one when CODE
shows the strength (15 R580), or an unbound parcel's after a raise. Decodes wait for a free decoder (R90). -/
def execReencodeRow (p : Fin 8192) (s : State) : Result :=
  let step (t n : Nat) : State := s.reencodeOne (parcelRow p n) t
  .next (
    match s.slotOfParcel p with
    | some sl =>
      match (s.slot sl).reenc with
      | none => s
      | some (t, n) =>
        if s.noDecoder p n then s
        else if n + 1 < parcelRows then (step t n).modSlot sl (fun x => { x with reenc := some (t, n + 1) })
        else
          let s1 := ((step t n).endReencode p).modSlot sl (fun x => { x with code := t, reenc := none, codeDesc := none })
          match (s.slot sl).codeDesc with
          | some d => s1.complete d {}
          | none => s1
    | none =>
      match (s.parcel p).reenc with
      | none => s
      | some (t, n) =>
        if s.noDecoder p n then s
        else if n + 1 < parcelRows then (step t n).modParcel p (fun x => { x with reenc := some (t, n + 1) })
        else ((step t n).endReencode p).modParcel p (fun x => { x with code := none, reenc := none }))

/-- A reserve parcel taken, or a tile lost, that leaves the reserve no longer covering every tile: a reserve-cover event to every event
ring (R60). `was` says whether it covered every tile before. -/
def State.noteCover (s : State) (was : Bool) : State :=
  if was && !s.covered then s.eventAll 4 [(16, 2, s.freeTotal)] else s

/-- The management core begins moving a slot to the reserve parcel of R58, its contents copied and every store that
follows written to both (R55). A parcel to be retired whose slot finds none stays in service, which is logged (03 R114). -/
def execSlotMove (slot : Fin 7168) (s : State) : Result :=
  let x := s.slot slot
  .next (
    if x.moveTo = none then
      match s.moveTarget (x.phys / 512) with
      | some q => ((s.copyParcel x.phys q).modSlot slot (fun x => { x with moveTo := some q })).noteCover s.covered
      | none =>
        if (s.parcel x.phys).retired then
          (s.modParcel x.phys (fun p => { p with retired := false })).logError (parcelLine x.phys) 127 0x0C 8 0 none 0
        else s
    else s)

/-- A request put into a list in order of acceptance. -/
def Req.among (q : Req) : List Req → List Req
  | [] => [q]
  | r :: l => if q.seq ≤ r.seq then q :: r :: l else r :: q.among l

/-- Requests queued to parcel `p`, by channel and in order of acceptance. -/
def State.queuedTo (s : State) (p : Nat) : List (Nat × Req) :=
  s.chans.flatMap (fun e => (((e.2.readQ ++ e.2.writeQ).filter (fun q => parcelOfLine (q.spot e.1) == p)).foldr Req.among []).map
    (fun q => (e.1, q)))

/-- A channel without its requests to parcel `p`. -/
def Channel.without (ch : Nat) (c : Channel) (p : Nat) : Channel :=
  { c with readQ := c.readQ.filter (fun q => parcelOfLine (q.spot ch) != p), writeQ := c.writeQ.filter (fun q => parcelOfLine (q.spot ch) != p) }

/-- Requests held at the flip of a map entry from parcel `p` to `q` (02 R55): the writes are performed, to both parcels, and the reads go on
to the channel that the new parcel gives them, where its queue has room, otherwise they are answered from the old one (04 R120). -/
def State.reroute (s : State) (p q : Nat) : State :=
  match s.queuedTo p with
  | [] => s
  | rs => rs.foldl (fun s r =>
      let l := locOf s.boot.hashMask q (offsetOf s.boot.hashMask (locOfLine (r.2.spot r.1)))
      let ch := chanOfBank l.moduleBank
      if r.2.write then s.performWrite r.1 r.2
      else if (s.chan ch).readQ.length < 64 then
        s.modChan ch (fun c => c.push { r.2 with bank := l.moduleBank % 48, row := l.row, line := l.col / 2 })
      else s.answerRead r.1 r.2)
    (s.putChans (Tab.mapAll (fun _ => {}) (fun ch c => Channel.without ch c p) s.chans))

/-- Writes queued to a parcel that has been cleared: performed, with the zeros over them (15 R584). -/
def State.overwrite (s : State) (p : Nat) : State :=
  let ws := (s.queuedTo p).filter (fun r => r.2.write)
  ws.foldl (fun s r => (s.modChan r.1 (fun c => { c with writeQ := c.writeQ.erase r.2 })).writeDone r.2 true) s

/-- The map entry of a slot flips to its new parcel: a placement event when the tile changes, a reserve-cover event
when the reserve no longer covers every tile, and the strength of R110 looked at again (R55, R58, R60; 03 R110). -/
def State.flipSlot (s : State) (slot : Nat) : State :=
  let x := s.slot slot
  match x.moveTo with
  | none => s
  | some q =>
    let s1 := ((s.reroute x.phys q).modSlot slot (fun x => { x with phys := q, moveTo := none, flipping := false, dead := false, reenc := none })).modParcel x.phys (fun p => { p with raised := 0 })
    let s2 := if (s.parcel x.phys).retired then s1.logError (parcelLine x.phys) 127 0x0B 8 0 none 0 else s1
    let s3 := if x.phys / 512 ≠ q / 512 then s2.eventOwner slot 3 [(16, 2, slot), (20, 4, 0)] else s2
    let s4 := if x.codeDesc.isSome ∧ s3.strengthFor slot = x.code then
        (match x.codeDesc with | some d => (s3.modSlot slot (fun x => { x with codeDesc := none })).complete d {} | none => s3) else s3
    (s4.reviewCode slot).noteCover s.covered

/-- Map flips due on a channel take effect on it; a slot whose flip waits on no other channel is bound to its new parcel
(02 R56). -/
def State.takeFlips (s : State) (ch : Nat) : State :=
  let due := (s.chan ch).flips
  let s1 := s.modChan ch (fun c => { c with flips := [] })
  due.foldl (fun s f => if s.chans.any (fun e : Nat × Channel => e.2.flips.contains f) then s else s.flipSlot f) s1

/-- Lines of a slot in its home line cache written back to the stacks (14 R543). -/
def State.writeBackSlot (s : State) (slot : Nat) : State :=
  let mine := s.lines.filter (fun e => e.1 * 64 / slotBytes == slot && e.2.dirty)
  let s1 := mine.foldl (fun (s : State) (e : Nat × Line) =>
    (s.writeSa (e.1 * 64) e.2.data (BitVec.allOnes 64) e.2.poison 8 (s.slot slot).owner).1) s
  (s1.putLines (s1.lines.filter (fun e => e.1 * 64 / slotBytes != slot)))

/-- The copy has ended: the flip takes effect at once, or, where channels of the slot's tile run a span pass, at
their next yield points (R55, R56; 14 R543). -/
def execSlotMoveFlip (slot : Fin 7168) (s : State) : Result :=
  let x := s.slot slot
  let busy := ((List.range 96).map (fun i => x.phys / 512 * 96 + i)).filter (fun c => (s.chan c).pass.isSome)
  .next (
    if x.moveTo = none then s
    else
      let s1 := s.writeBackSlot slot
      if busy = [] then s1.flipSlot slot
      else ((s1.modSlot slot (fun x => { x with flipping := true })).putChans (Tab.updMany (fun _ => {}) (fun c : Channel =>
        { c with flips := if slot.val ∈ c.flips then c.flips else c.flips ++ [slot.val] }) busy s1.chans)))

/-- The banks a repair of a stack affects: one, or the 32 of a die. -/
def Repair.chans (r : Repair) : List Nat := if r.kind = 2 then stackChans (r.at_ / 768) else [chanOfBank r.bank]

/-- No bank that a repair affects is at work inside near-bank mode: its channel is in conventional mode, or at a yield point and the bank at a
block boundary (05 R210). -/
def State.repairMay (s : State) (r : Repair) : Bool :=
  r.chans.all (fun c => (s.chan c).mode == .conv ||
    (((s.chan c).yield || (decide ((s.chan c).yieldAt ≠ 0) && decide (s.cyc + 1 < (s.chan c).yieldAt + 9))) &&
      (if r.kind = 2 then List.range 48 else [r.bank % 48]).all (fun j => (s.nbu (bankOf c j)).col == 0 && (s.nbu (bankOf c j)).run.isNone)))

/-- The copy of the oldest repair of a stack has ended and its redirect flips; in near-bank mode only at a yield point and at a
block boundary (R42, 05 R210). -/
def execRepairFlip (st : Fin 96) (s : State) : Result :=
  .next (
    match (s.stack st).pendingRepair with
    | [] => s
    | r :: rest => if s.repairMay r then (s.modStack st (fun k => { k with pendingRepair := rest })).flipRepair r else s)

/-- The sideband interfaces answer: the always-on rail is up, since the contacts are high-impedance while it is down, and the hub of T0 or
T4 has not been retired (01 R20, R21; 20 R738). -/
def State.sideband (s : State) : Bool := s.power.on && (!(s.hub 0).retired || !(s.hub 4).retired)

/-- A hash record, nine masks, written over the sideband; it takes effect at the next power-on (R66, R70). -/
def execHashRecordWrite (masks : List (BitVec 32)) (s : State) : Result :=
  let m := masks.map (fun w => w.toNat &&& 0x03FFFFFE)
  .next (if m.length = 9 ∧ s.sideband = true then (s.putBoot { s.boot with hashRec := m, hashPend := decide (m ≠ s.boot.hashMask) }) else s)

/-- A new identifier and domain key written over the sideband; they take effect at the next reset (16 R611). -/
def execModidDkeyWrite (modid : BitVec 6) (dkey : BitVec 16) (s : State) : Result :=
  .next (if s.sideband then s.putBoot { s.boot with newId := some (modid.toNat, dkey.toNat) } else s)

/-- A spare row of bank `b` that fails a test marked unusable, if it is not in use (18 R670, R693). -/
def State.failSpareRow (s : State) (b i : Nat) : State :=
  if i ∈ (s.bspare b).rows then s else s.modBspare b (fun x => { x with badRows := i :: x.badRows.erase i })

/-- A spare column of bank `b` that fails a test. -/
def State.failSpareCol (s : State) (b c : Nat) : State :=
  if (s.bspare b).cols.any (fun e => e.2 == c) then s else s.modBspare b (fun x => { x with badCols := c :: x.badCols.erase c })

/-- The spare bank of a rank and channel half that fails a test. -/
def State.failSpareBank (s : State) (st rank half : Nat) : State :=
  if (s.stack st).banks.any (fun x => x.1 == rank && x.2.1 == half) then s
  else s.modStack st (fun k => { k with badBanks := (rank, half) :: k.badBanks.erase (rank, half) })

/-- The spare die of a stack that fails a test. -/
def State.failSpareDie (s : State) (st : Nat) : State :=
  if (s.stack st).die = none then s.modStack st (fun k => { k with badDie := true }) else s

/-- What a test of an unused spare finds: a failing spare is marked unusable (18 R670, R693). `kind` 0 the spare die,
1 the spare bank of a rank and channel half, 2 a spare row of a module bank, 3 a spare column of it. -/
def execSpareTest (st : Fin 96) (kind : Fin 4) (rank : Fin 24) (half : Bool) (inStack : Fin 768) (idx : Fin 512) (pass : Bool)
    (s : State) : Result :=
  let b := st.val * 768 + inStack.val
  let s1 := s.modStack st (fun k => { k with spareAt := k.spareAt + 1 })
  .next (
    if pass then s1
    else if kind = 0 then s1.failSpareDie st
    else if kind = 1 then s1.failSpareBank st rank (nat half)
    else if kind = 2 then s1.failSpareRow b idx
    else s1.failSpareCol b (idx.val % 4))

/-- A working bank due for its test is copied to its die's spare bank and the redirect flips, in near-bank mode at a yield point only: the
spare bank takes its place without row or column repairs, which wait for its return (02 R40; 05 R210). One whose spare bank is
not free is skipped and counted (18 R694, R695). -/
def execSwapTestReturn (st : Fin 96) (inStack : Fin 768) (s : State) : Result :=
  let b := st.val * 768 + inStack.val
  let k := s.stack st
  let dh := dieHalf b
  .next (
    if flag (s.reg 0 rRCVCFG) 1 = false ∨ k.testing.isSome = true then s
    else if k.bankFree b then
      if s.repairMay { kind := 1, at_ := b } then
        ((s.modStack st (fun k => { k with
          testing := some (dh.1, dh.2, bankInHalf b), swapTable := s.bspare b, swapRows := s.rowsOf b })).freshBank b).putLogs { s.logs with strActive := true }
      else s
    else s.putLogs { s.logs with skipped := satNat 16 (s.logs.skipped + 1) })

/-- The swap test of a stack's bank ends: a passing bank is copied back and returned; a failing one stays on the
spare, logged as kind 0x09 (18 R694, R696). -/
def execSwapTestDone (st : Fin 96) (pass : Bool) (s : State) : Result :=
  .next (
    match (s.stack st).testing with
    | none => s
    | some x =>
      if s.repairMay { kind := 1, at_ := bankOfHalf st x } = false then s
      else
      let s1 := s.endSwap st x (!pass)
      s1.putLogs { s1.logs with tested := (s1.logs.tested + 1) % 2 ^ 17 })

end Sys2Proof.Machine
end

