-- ==== Sys2Proof/Machine/NearBank.lean ====
section
/-! DEFINITION. The near-bank units, the near-bank commands of a channel, the channel reduction unit's sum
buffers and the recompute unit (chapters 05 and 06). -/

namespace Sys2Proof.Machine

/-! ### The configuration of a near-bank unit (05 R176 to R180) -/

/-- NBUCFG.WFMT. -/
def Nbu.wfmt (n : Nbu) : Nat := field n.cfg.toNat 0 3
/-- Batch slots B = SLOTS + 1. -/
def Nbu.slotsB (n : Nbu) : Nat := field n.cfg.toNat 4 3 + 1
/-- NBUCFG.ASET. -/
def Nbu.aset (n : Nbu) : Nat := field n.cfg.toNat 8 3
/-- NBUCFG.WOFF. -/
def Nbu.woff (n : Nbu) : Nat := field n.cfg.toNat 12 16
/-- NBUCFG.VALID: the unit takes part in compute (06 R232). -/
def Nbu.valid (n : Nbu) : Bool := flag n.cfg.toNat 63

/-- The pitch P: the smallest of 1, 2, 4, 8 not less than B (05 R171). -/
def pitchOf (b : Nat) : Nat := if b ≤ 1 then 1 else if b ≤ 2 then 2 else if b ≤ 4 then 4 else 8

/-- The groups of the current set: q × P to q × P + B − 1 (05 R180). -/
def Nbu.groups (n : Nbu) : List Nat := (List.range n.slotsB).map (fun s => n.aset * pitchOf n.slotsB + s)

/-- Columns of a block (05 R166). -/
def blockCols (wfmt : Nat) : Nat := if wfmt ≤ 1 then 34 else 64

/-- A configuration is accepted when the four conditions of R177 hold. -/
def cfgAccepted (w : Nat) : Bool :=
  let wf := field w 0 3
  let b := field w 4 3 + 1
  decide (wf ≤ 4) &&
  (if flag w 3 then wf == 1 || wf == 4 else wf == 0 || wf == 2 || wf == 3) &&
  decide (field w 8 3 < 8 / pitchOf b) &&
  !flag w 7 && !flag w 11 && decide (field w 28 35 = 0)

/-- A block of the current pass is open: columns of it are to come, or the last one is still computed (05 R192). -/
def Nbu.open_ (n : Nbu) : Bool := decide (n.col ≠ 0) || n.run.isSome

/-- A configuration written to a unit (05 R178, R179). One that is not accepted clears VALID and leaves the other fields of NBUCFG as
they were; the spec does not say what they read then (DESIGN CHOICE, log entry 89). -/
def Nbu.configure (n : Nbu) (w : Nat) : Nbu :=
  if cfgAccepted w then
    { n with cfg := BitVec.ofNat 64 (w % 2 ^ 63 + 2 ^ 63), col := 0, blk := 0, sums := [], scale := [], run := none
             cfgerr := false, lost := false, discard := n.discard || n.open_ }
  else { n with cfg := BitVec.ofNat 64 (n.cfg.toNat % 2 ^ 63), cfgerr := true }

/-- A unit parked: VALID cleared, nothing else changed (06 R221). -/
def Nbu.park (n : Nbu) : Nbu := { n with cfg := BitVec.ofNat 64 (n.cfg.toNat % 2 ^ 63) }

/-- A configuration beat that failed its check, as a configuration not accepted (06 R225). -/
def Nbu.badCfg (n : Nbu) : Nbu := { n.park with cfgerr := true }

/-! ### Compute (05 R164 to R186) -/

/-- The value of a stored weight (05 R166, R170): lane ℓ of a weight column, 4-bit in nibble ℓ, 8-bit in byte ℓ mod 32. -/
def weightAt (wfmt : Nat) (data : List Byte) (lane : Nat) : Fl :=
  let b4 := (data.getD (lane / 2) 0).toNat / 16 ^ (lane % 2) % 16
  let b8 := (data.getD (lane % 32) 0).toNat
  if wfmt = 0 then e2m1 b4
  else if wfmt = 1 then flOfInt (signed 4 b4) 0
  else if wfmt = 2 then e4m3.decode b8
  else if wfmt = 3 then e5m2.decode b8
  else flOfInt (signed 8 b8) 0

/-- The value of an activation byte: FP8 E4M3, or INT8 with WFMT 1 and 4 (05 R166). -/
def activationOf (wfmt : Nat) (b : Byte) : Fl :=
  if wfmt = 1 ∨ wfmt = 4 then flOfInt b.toInt 0 else e4m3.decode b.toNat

/-- The activation of local input `i`, slot `s`; beyond the buffer it is zero (05 R171, R175). -/
def Nbu.activation (n : Nbu) (i s : Nat) : Fl :=
  let a := pitchOf n.slotsB * i + s
  if a < 4096 then activationOf n.wfmt (Tab.get (fun _ => 0) n.abuf a) else .fin false 0 0

/-- The block sums of slot `s` with the latched weight column of input `i` taken in, for the lanes `ls` (05 R181). -/
def Nbu.mac (n : Nbu) (data : List Byte) (i s : Nat) (ls : List Nat) : Tab Ext :=
  ls.foldl (fun t l => Tab.upd (fun _ => Ext.fin 0) t (s * 64 + l)
    (fun x => x.add (extOf ((weightAt n.wfmt data l).mul (n.activation i s))))) n.sums

/-- The block in progress handed to its fold, after the compute cycle `m` that completed its sums: it is in the accumulators three bank
cycles later, (3 + B) after the block's last compute-column (05 R190). -/
def Nbu.closeBlock (n : Nbu) (m : Nat) : Nbu :=
  { n with folds := n.folds ++ [{ slots := n.slotsB, set := n.aset, wfmt := n.wfmt, sums := n.sums, scale := n.scale, due := 3 * (m + 3) }]
           sums := [], scale := [] }

/-- The next compute cycle of the latched column: one slot, in ascending order; an activation beyond the buffer is zero and sets RANGE (05
R175, R205). -/
def Nbu.compute (n : Nbu) : Nbu :=
  match n.run with
  | none => n
  | some r =>
    let n1 := { n with
      sums := n.mac (leBytes 32 (n.latch.toNat % 2 ^ 256)) r.input r.slot ((List.range r.lanes).map (· + r.lane0))
      range := n.range || decide (4096 ≤ pitchOf n.slotsB * r.input + r.slot)
      run := if r.slot + 1 < n.slotsB then some { r with slot := r.slot + 1, at_ := r.at_ + 1 } else none }
    if r.last ∧ n.slotsB ≤ r.slot + 1 then n1.closeBlock r.at_ else n1

/-- The compute cycles of the latched column up to bank cycle `m`. -/
def Nbu.computeTo (m : Nat) : Nat → Nbu → Nbu
  | 0, n => n
  | k + 1, n =>
    match n.run with
    | some r => if r.at_ ≤ m then computeTo m k n.compute else n
    | none => n

/-- A broadcast beat of index `q` written to the window of a unit (05 R172). -/
def Nbu.writeBeat (n : Nbu) (q : Nat) (data : List Byte) : Nbu :=
  let base := 32 * n.woff
  { n with abuf := ((List.range 32).foldl (fun t i =>
      let x := 32 * q + i
      if base ≤ x ∧ x - base < 4096 then Tab.set (fun _ => 0) t (x - base) (data.getD i 0) else t) n.abuf) }

/-- The staged beats written to the buffer, at the end of their bank cycle (05 R173). -/
def Nbu.commit (n : Nbu) : Nbu :=
  { n.staged.foldl (fun n b => n.writeBeat b.1 (leBytes 32 b.2.toNat)) n with staged := [] }

/-- The unit brought up to bank cycle `m`: beats staged in earlier bank cycles are in the buffer, and every compute cycle up to `m` has run
on the buffer as it was before that cycle's beats (05 R173, R205). -/
def Nbu.upTo (n : Nbu) (m : Nat) : Nbu :=
  if n.staged ≠ [] ∧ n.stagedAt < m then ((n.computeTo n.stagedAt 8).commit).computeTo m 8 else n.computeTo m 8

/-- One column taken in by a participating unit at engine cycle `now`: `data` the column, `ok` its column check, `row` and `pos` where it
lies. A scale column goes to the scale latch; a weight column computes one slot in each of the B bank cycles after this one (05 R165 to
R168, R194, R195, R205). -/
def Nbu.takeColumn (n : Nbu) (data : List Byte) (ok : Bool) (row pos now : Nat) : Nbu :=
  let n0 := if ok then n else
    { n with poison := n.groups.foldl (fun p g => p ||| (1#8 <<< g)) n.poison
             multi := n.multi || n.fault.isSome
             fault := match n.fault with | some f => some f | none => some (row, pos) }
  let c := n.col
  let m := now / 3
  let scaleCol := decide (n.wfmt ≤ 1) && decide (c < 2)
  let last := decide (c + 1 = blockCols n.wfmt)
  let n1 := { n0 with
    latch := BitVec.ofNat 272 (ofLe data + (columnCheck row pos data).toNat * 2 ^ 256)
    busy := 3 * (m + (if scaleCol then 1 else n.slotsB))
    col := if last then 0 else c + 1, blk := if last then n.blk + 1 else n.blk }
  if scaleCol then { n1 with scale := Tab.setRun (fun _ => 0) n1.scale (32 * c) (data.map BitVec.toNat) }
  else if n.wfmt ≤ 1 then { n1 with run := some { at_ := m + 1, input := 32 * n.blk + (c - 2), last := last } }
  else { n1 with run := some { at_ := m + 1, input := 32 * n.blk + c / 2, lane0 := 32 * (c % 2), lanes := 32, last := last } }

/-- One lane's fold (05 R182, R183, R185): the new accumulator and whether it saturated. -/
def foldLane (wfmt scale : Nat) (sum : Ext) (acc : BitVec 32) : BitVec 32 × Bool :=
  if wfmt = 4 then
    match sum with
    | .fin m => addI32 acc (BitVec.ofInt 32 (m / 2 ^ 25))
    | _ => (acc, false)
  else
    let e : Int := if wfmt ≤ 1 then (scale : Int) - 127 else 0
    if wfmt ≤ 1 ∧ scale = 255 then (toF32 .nan, false)
    else match sum with
      | .nan => (toF32 .nan, false)
      | .inf neg => (toF32 ((ofF32 acc).add (.inf neg)), false)
      | .fin m => if m = 0 ∧ ofF32 acc ≠ .nan then (acc, false) else (toF32 ((ofF32 acc).add (flOfInt m (e - 25))), false)

/-- A block folded into the accumulators, lane by lane and slot by slot (05 R182 to R185, R188). -/
def Nbu.fold (n : Nbu) (f : Fold) : Nbu :=
  let base := f.set * pitchOf f.slots
  (List.range f.slots).foldl (fun n s =>
    let g := base + s
    let n1 := (List.range 64).foldl (fun (n : Nbu) l =>
      let r := foldLane f.wfmt (Tab.get (fun _ => 0) f.scale l) (Tab.get (fun _ => Ext.fin 0) f.sums (s * 64 + l))
        (Tab.get (fun _ => 0) n.acc (g * 64 + l))
      { n with acc := Tab.set (fun _ => 0) n.acc (g * 64 + l) r.1
               sat := if r.2 then n.sat ||| (1#8 <<< g) else n.sat }) n
    { n1 with accInt := if f.wfmt = 4 then n1.accInt ||| (1#8 <<< g) else n1.accInt &&& ~~~(1#8 <<< g) }) n

/-- The folds whose time has come by engine cycle `now` made, oldest first (05 R184, R190). -/
def Nbu.foldDue (n : Nbu) (now : Nat) : Nbu :=
  (n.folds.filter (fun f => decide (f.due ≤ now))).foldl Nbu.fold { n with folds := n.folds.filter (fun f => !decide (f.due ≤ now)) }

/-- The unit as it stands at engine cycle `now`. -/
def Nbu.sync (n : Nbu) (now : Nat) : Nbu := (n.upTo (now / 3)).foldDue now

/-- The groups of `mask` cleared; after a full clear FAULTROW and FAULTCOL read as zero with FAULTV, the spec clearing FAULTV alone
(DESIGN CHOICE, log entry 89) (05 R186, R187). -/
def Nbu.clearGroups (n : Nbu) (mask : BitVec 8) : Nbu :=
  let gs := (List.range 8).filter (fun g => mask.getLsbD g)
  let n1 := { n with
    acc := gs.foldl (fun t g => Tab.clear t (g * 64) (g * 64 + 64)) n.acc
    sums := n.sums.filter (fun e => !gs.contains (n.aset * pitchOf n.slotsB + e.1 / 64))
    poison := n.poison &&& ~~~mask
    sat := n.sat &&& ~~~mask }
  if mask = 0xFF#8 then { n1 with discard := false, range := false, seqerr := false, multi := false, fault := none } else n1

/-- A completed block still to be folded adds into group `g` (05 R190, R191). -/
def Nbu.foldPending (n : Nbu) (g : Nat) : Bool :=
  n.folds.any (fun f => (List.range f.slots).any (fun s => f.set * pitchOf f.slots + s == g)) ||
    (n.groups.contains g && (match n.run with | some r => r.last | none => false))

/-- A beat put in the staging register in bank cycle `m` (05 R173). -/
def Nbu.stage (n : Nbu) (q : Nat) (data : BitVec 256) (m : Nat) : Nbu := { n with staged := n.staged ++ [(q, data)], stagedAt := m }

/-- Some byte of beat `q` falls in the unit's window. -/
def Nbu.inWindow (n : Nbu) (q : Nat) : Bool :=
  (List.range 32).any (fun i => decide (32 * n.woff ≤ 32 * q + i) && decide (32 * q + i - 32 * n.woff < 4096))

/-- Every group of the current set poisoned (05 R195, 06 R226). -/
def Nbu.poisonSet (n : Nbu) : Nbu := { n with poison := n.groups.foldl (fun p g => p ||| (1#8 <<< g)) n.poison }

/-! ### Beats and their check bytes (05 R188, R189; 06 R224) -/

/-- A beat: 32 data bytes, and the CRC over them and three added bytes in its two check bytes, CRC[7:0] first. -/
def beatOf (data added : List Byte) : BitVec 272 := BitVec.ofNat 272 (ofLe data + (crc16 (data ++ added)).toNat * 2 ^ 256)

/-- The data bytes of a beat. -/
def beatData (x : BitVec 272) : List Byte := leBytes 32 (x.toNat % 2 ^ 256)

/-- The check of a received beat tested with its three added bytes. -/
def beatState (x : BitVec 272) (added : List Byte) : ColState :=
  let want := crc16 (beatData x ++ added)
  let got := BitVec.ofNat 16 (x.toNat / 2 ^ 256)
  if got = want then .good else if got = ~~~ want then .complement else .bad

/-- The bytes added to the check of a CFGW and of an STR beat of a rank, of a BBW beat of index `q`, and of beat `k` of an accumulator read
of group `g`. -/
def cfgwAdded (rank : Nat) : List Byte := [BitVec.ofNat 8 rank, 0, 0xCF]
def strAdded (rank : Nat) : List Byte := [BitVec.ofNat 8 rank, 0, 0x5A]
def bbwAdded (q : Nat) : List Byte := leBytes 2 q ++ [0xBB]
def acrAdded (g k : Nat) : List Byte := [BitVec.ofNat 8 g, BitVec.ofNat 8 k, 0xAC]

/-- The values of accumulator group `g` (05 R188). -/
def Nbu.groupVals (n : Nbu) (g : Nat) : List (BitVec 32) := Tab.getRun (fun _ => 0) n.acc (g * 64) 64

/-- Beat `k` of an accumulator read of group `g`: lanes 8k to 8k + 7, little-endian, the check complemented where the group is poisoned
(05 R188, R189). -/
def Nbu.acrBeat (n : Nbu) (g k : Nat) : BitVec 272 :=
  let x := beatOf (((n.groupVals g).drop (8 * k)).take 8 |>.flatMap (fun v => leBytes 4 v.toNat)) (acrAdded g k)
  if n.poison.getLsbD g then x ^^^ BitVec.ofNat 272 (0xFFFF * 2 ^ 256) else x

/-- The lanes of a received accumulator beat. -/
def beatLanes (x : BitVec 272) : List (BitVec 32) := (List.range 8).map (fun j => BitVec.ofNat 32 (x.toNat / 2 ^ (32 * j)))

/-- A copy of an accumulator read as it is received: its eight beats, with the bits `flips` changed on the way. -/
def Nbu.acrCopy (n : Nbu) (g : Nat) (flips : List (Fin 8 × BitVec 272)) : List (BitVec 272) :=
  (List.range 8).map (fun k => (flips.filter (fun f => f.1.val == k)).foldl (fun x f => x ^^^ f.2) (n.acrBeat g k))

/-- What the CRU makes of the copies of an accumulator read that it may request: the first in which no beat fails its check otherwise than
as the complement, its values where every check passes (06 R260). -/
def acrTaken (g : Nat) (copies : List (List (BitVec 272))) : Option (List (BitVec 32)) :=
  let st (c : List (BitVec 272)) : List ColState := (c.zip (List.range 8)).map (fun x => beatState x.1 (acrAdded g x.2))
  match copies.find? (fun c => !(st c).contains .bad) with
  | some c => if (st c).contains .complement then none else some (c.flatMap beatLanes)
  | none => none

/-! ### Sum buffers (06 R258 to R265) -/

/-- An FP32 or INT32 beat value as a lane's contribution (06 R259, R262). -/
def Lane.add (l : Lane) (int : Bool) (v : BitVec 32) : Lane :=
  if int then { l with sum := l.sum + v.toInt, negz := false, any := true }
  else match ofF32 v with
    | .nan => { l with nan := true, negz := false, any := true }
    | .inf n => { l with pinf := l.pinf || !n, ninf := l.ninf || n, negz := false, any := true }
    | .fin n m e => { l with sum := l.sum + sgn n m * 2 ^ (e + 149).toNat, negz := l.negz && n && decide (m = 0), any := true }

/-- The drained value of a lane, and whether an INT32 sum was limited (06 R263). -/
def Lane.drain (l : Lane) (int : Bool) : BitVec 32 × Bool :=
  if int then let r := satI32 l.sum; (BitVec.ofInt 32 r.1, r.2)
  else if l.nan ∨ (l.pinf ∧ l.ninf) then (toF32 .nan, false)
  else if l.pinf then (toF32 (.inf false), false)
  else if l.ninf then (toF32 (.inf true), false)
  else if l.sum = 0 then (toF32 (.fin (l.negz && l.any) 0 0), false)
  else (toF32 (flOfInt l.sum (-149)), false)

/-- A group's 64 values added into a buffer. -/
def SumBuf.addGroup (b : SumBuf) (int : Bool) (vals : List (BitVec 32)) : SumBuf :=
  { b with int := int, busy := true
           lanes := (List.range 64).foldl (fun t i => Tab.upd (fun _ => {}) t i (fun l => l.add int (vals.getD i 0))) b.lanes }

/-- A pass by its context, step, entry, round, cell and span. -/
def Pass.name (p : Pass) : Nat × Nat × Nat × Nat × Nat × Nat := (p.ctx, p.step, p.entry, p.round, p.cell, p.span)

/-- Group `g` of module bank `b` handed to the hub's recompute unit with the passes that it holds, for sum buffer `buf` and the drain `dst`;
the groups of one bank's pass are rebuilt together (05 R196, R199; 06 R260). -/
def State.handOver (s : State) (ch b g buf : Nat) (dst : Option DrainKey) : State :=
  let t := tileOfChan ch
  let f := (s.nbu b).fault.getD (0, 0)
  let pass := (s.chan ch).pass.map Pass.name
  let mine (r : Rebuild) : Bool := r.chan == ch && r.bank == b % 48 && r.pass == pass && !r.started
  let one (h : Hub) : RebuildGroup :=
    { group := g, buf := buf, dst := dst, passes := Tab.get (fun _ => []) h.passHist (b * 8 + g)
      base := match h.rebuilt.find? (fun e : Nat × List (BitVec 32) => e.1 == b * 8 + g) with | some e => e.2 | none => [] }
  let s1 := s.modHub t (fun h =>
    if h.rebuilds.any mine then
      { h with rebuilds := h.rebuilds.map (fun r => if mine r then { r with groups := r.groups ++ [one h] } else r) }
    else { h with rebuilds := h.rebuilds ++ [{ chan := ch, bank := b % 48, pass := pass, groups := [one h], row := f.1, col := f.2 }] })
  s1.count t 0x0D ((s.chan ch).pass.bind (fun p => (s.ctx p.ctx).part)) 1

/-- A pass whose last STR and ACR have been issued is over and its lock released (R254). -/
def Channel.endPass (c : Channel) : Channel :=
  match c.pass with
  | some p => if p.strs = [] ∧ p.groups = [] then { c with pass := none, lock := none } else c
  | none => c

/-- The reads `out` of a channel's pass are no longer to be made. -/
def Channel.dropReads (c : Channel) (out : Nat × Nat × Nat × DrainKey → Bool) : Channel :=
  let cut (p : Pass) : Pass := { p with groups := p.groups.filter (fun e => !out e) }
  { c with pass := c.pass.map cut }

/-- The pass of a channel ends when nothing of it is left to read; map flips due there then take effect (R254; 02 R56). -/
def State.closePass (s : State) (ch : Nat) : State :=
  let s1 := s.modChan ch Channel.endPass
  if (s1.chan ch).pass.isSome then s1 else s1.takeFlips ch

/-- The values kept for the recompute unit of the groups that `hit` names by module bank and group are forgotten at a
clear (05 R196). -/
def State.forget (s : State) (ch : Nat) (hit : Nat → Nat → Bool) : State :=
  s.modHub (tileOfChan ch) (fun h => { h with
    rebuilt := h.rebuilt.filter (fun e : Nat × List (BitVec 32) => !hit (e.1 / 8) (e.1 % 8))
    passHist := h.passHist.filter (fun e : Nat × List PassRec => !hit (e.1 / 8) (e.1 % 8))
    rebuilds := h.rebuilds.map (fun r => { r with groups := r.groups.map (fun g =>
      if hit (bankOf r.chan r.bank) g.group then { g with cleared := true } else g) }) })

/-- Columns of the span stream up to the end of its row `n` (05 R169). -/
def Pass.upToRow (p : Pass) (n : Nat) : Nat := min p.cols (64 * n - p.col)

/-- Every column of the row in hand has been taken in. -/
def Pass.rowTaken (p : Pass) : Bool := decide (p.upToRow p.rowsDone ≤ p.taken)

/-- A yield point is due before the next switch of a pass: the columns of the yield interval's last row have been taken in, and a row
remains (R239). -/
def Pass.yieldDue (p : Pass) : Bool :=
  decide (0 < p.rowsDone) && decide (p.rowsDone < p.rows) && decide (p.interval ≤ p.since) && p.rowTaken && !p.yielded

/-- The next row of a pass is the first of the next yield interval. -/
def Pass.crosses (p : Pass) : Bool := decide (p.interval ≤ p.since) && !p.yielded

/-- A host-class request waits on a channel, unmasked, that arrived before engine cycle `by_` (04 R127; 06 R241, R751). -/
def State.hostWaiting (s : State) (ch by_ : Nat) : Bool :=
  let c := s.chan ch
  (c.readQ ++ c.writeQ).any (fun q => decide (q.who ≤ 5) && decide (q.at_ < by_) && !s.masked c q.who)

/-- The test of a yield interval, made once, at the start of the bank cycle in which the sequencer would issue the first AHA for the first
row of the next interval (R241, R751). -/
def State.testHost (s : State) (ch : Nat) : State :=
  match (s.chan ch).pass with
  | some p =>
    if p.crosses ∧ p.held = none then
      let w := s.hostWaiting ch (s.cyc / 3 * 3)
      s.modChan ch (fun c => { c with pass := c.pass.map (fun p => { p with held := some w }) })
    else s
  | none => s

/-! ### Commands -/

/-- A compute cycle of some bank of the channel is still to come or under way (R234, R237). -/
def State.computing (s : State) (ch : Nat) : Bool := allBanks.any (fun j => decide (s.cyc < (s.nbu (bankOf ch j)).busy))

/-- Subarray that holds row `r` of bank `j` (02 R33, R38). -/
def State.subOf (s : State) (ch j r : Nat) : Nat := (s.wordOf (bankOf ch j) r).1

/-- The participating banks of a channel (06 R232). -/
def State.participating (s : State) (ch : Nat) : List Nat := allBanks.filter (fun j => (s.nbu (bankOf ch j)).valid)

/-- The channel's grant is an NBS context's, which may have it (06 R243, R254; 04 R126). -/
def Channel.nbsGranted (c : Channel) : Bool := match c.grant with | some g => classOf g.1 == 1 && c.nbsMay g.1 | none => false

/-- NBE puts a channel that has granted an NBS context into near-bank mode when the five conditions of R230 hold; NBRDY falls (R220, R243).
An entry within 1 µs of the channel's NBX at a yield point needs no admission (R252); a stack at thermal level 4 takes none (17 R663). -/
def execNbe (ch : Fin 1536) (s : State) : Result :=
  let c := s.chan ch
  let t := tileOfChan ch
  .next (
    if c.mode = .nearBank then s.wrongMode ch allBanks
    else if s.conventional ch = true ∧ (allBanks.all (fun j => (c.bank j).row.isNone && decide ((c.bank j).postponed ≤ 2))) = true ∧
        (List.range 24).all (fun r => c.rank r == .awake) = true ∧ c.writeQ = [] ∧ c.nbsGranted = true ∧ (s.stack (ch / 16)).level < 4 ∧
        ((1, ch.val % 96) ∈ (s.hub t).admitted ∨ (c.yieldExit = true ∧ s.cyc ≤ c.nbxAt + 1600)) then
      (s.modChan ch (fun c => { c with mode := .nearBank, nbrdy := false, nbAt := s.cyc, yieldExit := false })).modHub t
        (fun h => { h with admitted := h.admitted.erase (1, ch.val % 96) })
    else s)

/-- NBX closes every open row and takes the channel out of near-bank mode once no compute cycle runs and tRAS has
passed since its latest activate; NBU state is kept (R237). It is issued where the sequencer has decided to leave at a yield point, or no pass
is left (R239, R240). -/
def execNbx (ch : Fin 1536) (s : State) : Result :=
  let c := s.chan ch
  .next (
    if c.mode = .conv then s.wrongMode ch allBanks
    else if c.mode = .nearBank ∧ (c.yield = true ∨ c.pass = none) ∧ s.computing ch = false ∧
        allBanks.all (fun j => (c.bank j).compute.isNone && (c.bank j).ahead.isNone || decide ((c.bank j).actAt + 45 ≤ s.cyc)) = true then
      s.modChan ch (fun c => { c with
        mode := .leaving, yield := false, yieldExit := c.pass.isSome, nbxAt := s.cyc
        banks := Tab.mapAll (fun _ => {}) (fun _ b => { b with compute := none, ahead := none, preAt := s.cyc }) c.banks })
    else s)

/-- The longest wait of the host-class requests of a channel, in 5 ns units (R244, R269). -/
def State.hostWait (s : State) (c : Channel) : Nat :=
  ((c.readQ ++ c.writeQ).filter (fun q => decide (q.who ≤ 5))).foldl (fun m q => max m (satNat 10 ((s.cyc - q.at_) / 8))) 0

/-- NBRDY rises tNBX after NBX and the channel takes conventional commands again (R220); the refreshes that each bank has postponed are repaid
there (R246). -/
def execNbrdyRise (ch : Fin 1536) (s : State) : Result :=
  .next (
    if (s.chan ch).mode = .leaving then
      s.modChan ch (fun c => { c with mode := .conv, nbrdy := true, nrfPost := 0, maxWait := max c.maxWait (s.hostWait c) })
    else s)

/-- Row of bank `j` that the sequencer activates next for the channel's pass, resolved through the map as it stands for the channel (02
R57); none where it activates none: the bank is parked, or every row of the stream is open or streamed. -/
def State.nextRow (s : State) (ch j : Nat) (p : Pass) : Option Nat :=
  if (p.banks.any (fun x => x.1 == j)) = true ∧ p.rowsDone < p.rows then
    some (128 * (s.physOn ch p.slot % 512) + p.inBand + p.rowsDone) else none

/-- The sequencer may issue an AHA of row `row` to bank `j`: with a pass, it is the pass's next row, and no host-class request waited at the
interval's test where the row is the next interval's first; no leaving of near-bank mode is decided; no throttle of the context on the bank
forbids it (R241, R251; 02 R57; 04 R148). -/
def State.ahaMay (s : State) (ch j row who : Nat) : Bool :=
  let c := s.chan ch
  (match c.pass with
   | some p => s.nextRow ch j p == some row && !(p.crosses && p.held == some true)
   | none => true) && !c.yield && s.mayActivate ch j who

/-- AHA opens an ahead row (R233, R235); with two rows open, or to the compute row's subarray, the die ignores it and sets SEQERR (05 R204).
An AHA to a bank that holds only an ahead row, in another subarray, is in none of R204's cases; the die treats it in the same way (DESIGN
CHOICE, log entry 90). A subarray with an owed wordline is not activated (R248). The first one for a new yield interval makes the
interval's test (R751). -/
def execAha (ch : Fin 1536) (rank : BitVec 5) (bank : Bool) (row : BitVec 16) (s : State) : Result :=
  let j := 2 * rank.toNat + nat bank
  let c := s.chan ch
  let b := c.bank j
  let who := match c.pass with | some p => 8 + p.ctx % 4 | none => 8
  .next (
    if 24 ≤ rank.toNat then s.badRank ch false (ahaWord rank.toNat (nat bank) row.toNat)
    else if c.mode ≠ .nearBank then s.wrongMode ch [j]
    else if b.ahead.isSome = true ∨ (match b.compute with | some r => s.subOf ch j r == s.subOf ch j row.toNat | none => false) = true then
      s.wrongMode ch [j]
    else
      let s1 := s.testHost ch
      if s1.ahaMay ch j row.toNat who = false ∨ b.owed.any (fun o => o % 64 == s.subOf ch j row.toNat) = true then s1
      else (s1.modChan ch (fun c => { c.modBank j (fun b => { b with ahead := some row.toNat, opener := who, actAt := s.cyc }) with
        throttles := c.throttles.map (fun t => if t.who = who ∧ t.bank = j then { t with last := s.cyc + 1 } else t) })).tallyRow
          ch j row.toNat who)

/-- SWT makes the ahead row the compute row in every participating bank and closes the old one; it is issued only
when each of them holds an ahead row and no compute cycle of any bank runs, once the row in hand has been streamed, and not before a yield
point that is due, nor while the channel is leaving near-bank mode (R233, R234, R239). -/
def execSwt (ch : Fin 1536) (s : State) : Result :=
  let c := s.chan ch
  let js := s.participating ch
  .next (
    if c.mode ≠ .nearBank then s.wrongMode ch allBanks
    else if c.yield = false ∧ (match c.pass with | some p => p.yieldDue || !p.rowTaken | none => false) = false ∧
        js.all (fun j => (c.bank j).ahead.isSome) = true ∧ s.computing ch = false then
      s.modChan ch (fun c => js.foldl (fun c j => c.modBank j (fun b => { b with compute := b.ahead, ahead := none, preAt := s.cyc }))
        { c with pass := c.pass.map (fun p => { p with
          rowsDone := p.rowsDone + 1, since := if p.yielded then 1 else p.since + 1, yielded := false, held := if p.yielded then none else p.held }) })
    else s)

/-- Subarrays of bank `j` that hold an open row. -/
def State.openSubs (s : State) (ch j : Nat) : List Nat :=
  let b := (s.chan ch).bank j
  (b.compute.toList ++ b.ahead.toList).map (s.subOf ch j)

/-- NRF refreshes the counter's wordlines in every bank, owing those that lie in a subarray with an open row, advances the counters and repays
one postponed refresh of every bank (R246 to R248). The sequencer postpones it, up to four times, where a host-class request was waiting at
the interval's test instant (R245). -/
def execNrf (ch : Fin 1536) (s : State) : Result :=
  let c := s.chan ch
  .next (
    if c.mode ≠ .nearBank then s.wrongMode ch allBanks
    else if (match c.pass with | some p => p.held == some true | none => false) = true ∧ c.nrfPost < 4 then
      s.modChan ch (fun c => { c with nrfPost := c.nrfPost + 1 })
    else
      let s1 := allBanks.foldl (fun s' j =>
        let ws := refreshWords (c.bank j).refk
        let open_ := s.openSubs ch j
        let owe := (ws.filter (fun w => open_.contains w.1)).map (fun w => w.2 * 64 + w.1)
        (s'.clearTallies (bankOf ch j) (ws.filter (fun w => !open_.contains w.1))).modChan ch (fun c => c.modBank j (fun b =>
          { b with refk := (b.refk + 1) % 8256, owed := b.owed ++ owe, postponed := b.postponed - 1 }))) s
      s1.modChan ch (fun c => { c with nrfPost := c.nrfPost - 1 }))

/-- NNR refreshes the neighbours of an alerted row of one bank once that row has closed, accepted while the bank holds at most one open row
(R249). -/
def execNnr (ch : Fin 1536) (rank : BitVec 5) (bank : Bool) (s : State) : Result :=
  let j := 2 * rank.toNat + nat bank
  let c := s.chan ch
  let b := c.bank j
  .next (
    if 24 ≤ rank.toNat then s.badRank ch false (nnrWord rank.toNat (nat bank))
    else if c.mode ≠ .nearBank then s.wrongMode ch [j]
    else match b.alert with
      | some r =>
        if (s.openSubs ch j).length ≤ 1 ∧ b.compute ≠ some r ∧ b.ahead ≠ some r then s.refreshNeighbours ch j r else s
      | none => s)

/-- An owed wordline whose row has closed is refreshed by the die (R248). -/
def execOwedWordlineRefresh (ch : Fin 1536) (j : Fin 48) (s : State) : Result :=
  let b := (s.chan ch).bank j
  .next (
    match b.owed with
    | [] => s
    | r :: rest =>
      if (s.openSubs ch j).contains (r % 64) then s
      else (s.clearTallies (bankOf ch j) [(r % 64, r / 64)]).modChan ch (fun c => c.modBank j (fun b => { b with owed := rest })))

/-- BBQ loads the channel's beat counter (R222). -/
def execBbq (ch : Fin 1536) (q : BitVec 16) (s : State) : Result :=
  .next (
    if (s.chan ch).mode ≠ .nearBank then s.wrongMode ch allBanks
    else s.modChan ch (fun c => { c with beat := q.toNat }))

/-- The beat of index `q` with data `data` as bank `j`'s unit receives it: the bits `flips` names for the bank changed on the way (R224). -/
def bbwReceived (data : BitVec 256) (q j : Nat) (flips : List (Fin 48 × BitVec 272)) : BitVec 272 :=
  (flips.filter (fun f => f.1.val == j)).foldl (fun x f => x ^^^ f.2) (beatOf (leBytes 32 data.toNat) (bbwAdded q))

/-- BBW broadcasts one beat to every unit of the channel, parked ones included, and advances the beat counter; the units write it to their
windows at the end of the bank cycle, of which they take six beats. A beat that fails its check at a unit is stored as it was received, and
poisons that unit's current set where a byte falls in its window (R222, R224, R226; 05 R172, R173). -/
def execBbw (ch : Fin 1536) (data : BitVec 256) (flips : List (Fin 48 × BitVec 272)) (s : State) : Result :=
  let c := s.chan ch
  let m := s.cyc / 3
  let take (j : Nat) (n0 : Nbu) : Nbu :=
    let n := n0.sync s.cyc
    let x := bbwReceived data c.beat j flips
    let n1 := n.stage c.beat (x.extractLsb' 0 256) m
    if beatState x (bbwAdded c.beat) ≠ .good ∧ n.inWindow c.beat = true then n1.poisonSet else n1
  .next (
    if c.mode ≠ .nearBank then s.wrongMode ch allBanks
    else if allBanks.any (fun j => decide (6 ≤ (((s.nbu (bankOf ch j)).sync s.cyc).staged).length)) then s
    else
      let s1 := allBanks.foldl (fun s j => s.modNbu (bankOf ch j) (take j)) s
      s1.modChan ch (fun c => { c with beat := (c.beat + 1) % 65536 }))

/-- Data of a CFGW beat: two NBUCFG words, and byte 16 with the write bits and the park bits (R221). -/
def cfgwData (cfg0 cfg1 : BitVec 64) (ctl : BitVec 8) : List Byte :=
  leBytes 8 cfg0.toNat ++ leBytes 8 cfg1.toNat ++ [ctl] ++ List.replicate 15 0

/-- What a CFGW beat, as received, does to the unit of bank bit `i` (R221, R225). -/
def Nbu.takeCfgw (n : Nbu) (rank : Nat) (beat : BitVec 272) (i : Nat) : Nbu :=
  let ctl := BitVec.ofNat 8 (beat.toNat / 2 ^ 128)
  let named (i : Nat) : Bool := ctl.getLsbD i || ctl.getLsbD (2 + i)
  if beatState beat (cfgwAdded rank) = .good then
    if ctl.getLsbD (2 + i) then n.park else if ctl.getLsbD i then n.configure (beat.toNat / 2 ^ (64 * i) % 2 ^ 64) else n
  else if named i || !(named 0 || named 1) then n.badCfg else n

/-- CFGW writes or parks the two units of a rank by the beat that they receive, `beat`; park wins; a beat that fails its check is a
configuration not accepted for each bank it names, or for both (R221, R224, R225). -/
def execCfgw (ch : Fin 1536) (rank : BitVec 5) (beat : BitVec 272) (s : State) : Result :=
  let one (i : Nat) (n : Nbu) : Nbu := (n.sync s.cyc).takeCfgw rank.toNat beat i
  .next (
    if 24 ≤ rank.toNat then s.badRank ch true (rankWord 0xA rank.toNat)
    else if (s.chan ch).mode ≠ .nearBank then s.wrongMode ch (rankBanks rank.toNat)
    else (s.modNbu (bankOf ch (2 * rank.toNat)) (one 0)).modNbu (bankOf ch (2 * rank.toNat + 1)) (one 1))

/-- What CCL does at a unit whose compute row is `row`: the column at position `col` is tested and taken in; with no compute row, or before
the previous column's compute cycles have ended, it is ignored and sets SEQERR. A complemented check is a failure (05 R194, R204; 03 R93). -/
def State.takeCcl (s : State) (ch j col : Nat) (row : Option Nat) (n0 : Nbu) : Nbu :=
  let n := n0.sync s.cyc
  match row with
  | none => { n with seqerr := true }
  | some r =>
    if s.cyc < n.busy then { n with seqerr := true }
    else
      let rk := rowKey (bankOf ch j) r
      n.takeColumn (s.rawColumn rk col) (s.columnState rk col == .good) r col s.cyc

/-- The sequencer issues a CCL of column `col`: with a pass, it is the next column of the row in hand (R239; 05 R169). -/
def Channel.cclMay (c : Channel) (col : Nat) : Bool :=
  match c.pass with
  | some p => !c.yield && decide (p.taken < p.upToRow p.rowsDone) && (p.col + p.taken) % 64 == col
  | none => !c.yield

/-- CCL moves every participating unit through one column of its compute row, in step (R165, R232; 05 R194, R204). -/
def execCcl (ch : Fin 1536) (col : BitVec 6) (s : State) : Result :=
  let c := s.chan ch
  .next (
    if c.mode ≠ .nearBank then s.wrongMode ch allBanks
    else if c.cclMay col.toNat = false then s
    else
      let js := s.participating ch
      let s1 := js.foldl (fun s' j => s'.modNbu (bankOf ch j) (s.takeCcl ch j col.toNat (c.bank j).compute)) s
      let fails := (js.filter (fun j => match (c.bank j).compute with
        | some r => s.columnState (rowKey (bankOf ch j) r) col.toNat != .good
        | none => false)).length
      let part := c.pass.bind (fun p => (s.ctx p.ctx).part)
      (((s1.modChan ch (fun c => { c with pass := c.pass.map (fun p => { p with taken := p.taken + 1 }) })).count
        (tileOfChan ch) 0x08 part 1).count (tileOfChan ch) 0x0B part fails).spend 0 js.length)

/-- The oldest fold of a unit whose time has come enters the accumulators (05 R184, R190). -/
def execBlockFold (ch : Fin 1536) (j : Fin 48) (s : State) : Result :=
  .next (
    match ((s.nbu (bankOf ch j)).upTo (s.cyc / 3)).folds with
    | [] => s
    | f :: rest =>
      if f.due ≤ s.cyc then s.modNbu (bankOf ch j) (fun n => ({ n.upTo (s.cyc / 3) with folds := rest }).fold f) else s)

/-- ACR reads an accumulator group: its eight beats with their check bytes leave the die, and the CRU takes them into a sum buffer, asking
again up to NBCFG.RDRETRY times while a beat fails its check. `flips` are the bits changed on the way, copy by copy. A group whose
check bytes are complemented, or that no copy brings whole, is handed to the recompute unit and not added (R259, R260; 05 R188, R189). A
read that comes before the group's fold returns the value before it and sets SEQERR (05 R191). A read of the channel's pass is not issued while
its buffer still holds the sum of another drain (R264). -/
def execAcr (ch : Fin 1536) (rank : BitVec 5) (bank : Bool) (group : BitVec 3) (buf : BitVec 4) (flips : List (List (Fin 8 × BitVec 272)))
    (s : State) : Result :=
  let j := 2 * rank.toNat + nat bank
  let b := bankOf ch j
  let g := group.toNat
  let c := s.chan ch
  let mine : Option (Nat × Nat × Nat × DrainKey) := match c.pass with
    | some p => p.groups.find? (fun e => e.1 == j && e.2.1 == g && e.2.2.1 == buf.toNat)
    | none => none
  let dst : Option DrainKey := mine.map (fun e => e.2.2.2)
  let u := s.cru (ch * 16 + buf.toNat)
  .next (
    if 24 ≤ rank.toNat then s.badRank ch true (acrWord rank.toNat (nat bank) g buf.toNat)
    else if c.mode ≠ .nearBank then s.wrongMode ch [j]
    else if dst.isSome = true ∧ u.busy = true ∧ u.dst ≠ dst then s
    else
      let n := (s.nbu b).sync s.cyc
      let copies := (List.range (s.inForce ch rNBCFG 4 2 + 1)).map (fun i => n.acrCopy g (flips.getD i []))
      let s1 := s.modNbu b (fun _ => { n with seqerr := n.seqerr || n.foldPending g })
      let s2 := match acrTaken g copies with
        | none => s1.handOver ch b g buf.toNat dst
        | some vals => s1.modCru (ch * 16 + buf.toNat) (fun u =>
          { u.addGroup (n.accInt.getLsbD g) vals with dst := if u.busy then u.dst else dst, lastAt := s.cyc })
      ((s2.modChan ch (fun c => c.dropReads (fun e => some e == mine))).closePass ch).answer
        { kind := 3, data := (copies.headD []).flatMap (fun x => leBytes 34 x.toNat) })

/-- ACL clears the masked groups of one rank or of every rank, and the values the recompute unit keeps for them
(05 R187, R196). -/
def execAcl (ch : Fin 1536) (rank : BitVec 5) (allr : Bool) (mask : BitVec 8) (s : State) : Result :=
  let js := if allr then allBanks else rankBanks rank.toNat
  .next (
    if 24 ≤ rank.toNat then s.badRank ch true (aclWord rank.toNat (nat allr) mask.toNat)
    else if (s.chan ch).mode ≠ .nearBank then s.wrongMode ch js
    else
      let s1 := js.foldl (fun s' j => s'.modNbu (bankOf ch j) (fun n => (n.sync s.cyc).clearGroups mask)) s
      let s2 := s1.forget ch (fun b g => js.any (fun j => bankOf ch j == b) && mask.getLsbD g)
      if mask = 0xFF#8 then s2.modChan ch (fun c => { c with needAcl := c.needAcl.filter (fun r => !js.contains (2 * r)) }) else s2)

/-- NBUSTAT as a status read returns it (05 R193). -/
def Nbu.status (n : Nbu) : Nat :=
  n.poison.toNat + n.sat.toNat * 2 ^ 8 + nat n.cfgerr * 2 ^ 16 + nat n.open_ * 2 ^ 17 + nat n.discard * 2 ^ 18 +
    nat n.range * 2 ^ 19 + nat n.lost * 2 ^ 20 + nat n.seqerr * 2 ^ 21 + nat n.multi * 2 ^ 22 +
    (match n.fault with | some f => 2 ^ 23 + f.2 * 2 ^ 24 + f.1 * 2 ^ 32 | none => 0)

/-- What the near-bank sequencer does with one participating bank's status (R266): the groups it hands to the recompute
unit are not read; a group with a rebuilt value is rebuilt at every later pass (05 R196); SEQERR, RANGE and MULTI ask
for an ACL (R267). -/
def State.evaluate (s : State) (ch j : Nat) (failed : Bool) : State :=
  match (s.chan ch).pass with
  | none => s
  | some p =>
    let b := bankOf ch j
    let n := s.nbu b
    let all := failed || !n.valid || n.cfgerr || n.lost || n.seqerr || n.discard
    let kept := (s.hub (tileOfChan ch)).rebuilt
    let give (e : Nat × Nat × Nat × DrainKey) : Bool :=
      e.1 == j && (all || n.poison.getLsbD e.2.1 || kept.any (fun k : Nat × List (BitVec 32) => k.1 == b * 8 + e.2.1))
    let s1 := (p.groups.filter give).foldl (fun s e => s.handOver ch b e.2.1 e.2.2.1 (some e.2.2.2)) s
    let s2 := s1.modChan ch (fun c => { c.dropReads give with
      needAcl := if !failed && (n.seqerr || n.range || n.multi) then (c.needAcl ++ [j / 2]).dedup else c.needAcl })
    s2.modCtx p.ctx (fun x => { x with nbrun := x.nbrun.map (fun r => { r with
      range := r.range || (n.range && !failed), sat := r.sat || ((n.groups.any (fun g => n.sat.getLsbD g)) && !failed) }) })

/-- The STR beat of a rank as it stands: NBUSTAT and NBUCFG of its two units, with its check bytes (R223, R224). -/
def State.strBeat (s : State) (ch rank : Nat) : BitVec 272 :=
  beatOf ((rankBanks rank).flatMap (fun j =>
    leBytes 8 (s.nbu (bankOf ch j)).status ++ leBytes 8 (s.nbu (bankOf ch j)).cfg.toNat)) (strAdded rank)

/-- STR returns the status and configuration of a rank's two units, which the sequencer evaluates for the banks of its pass. A beat that
fails its check is requested again up to NBCFG.RDRETRY times; `flips` are the bits changed on the way, copy by copy (R223, R224, R227,
R266). -/
def execStr (ch : Fin 1536) (rank : BitVec 5) (flips : List (BitVec 272)) (s0 : State) : Result :=
  let js := rankBanks rank.toNat
  let s := if rank.toNat < 24 ∧ (s0.chan ch).mode = .nearBank then
    js.foldl (fun s' j => s'.modNbu (bankOf ch j) (fun n => n.sync s0.cyc)) s0 else s0
  let copies := (List.range (s.inForce ch rNBCFG 4 2 + 1)).map (fun i => s.strBeat ch rank.toNat ^^^ flips.getD i 0)
  let failed := copies.all (fun x => beatState x (strAdded rank.toNat) != .good)
  .next (
    if 24 ≤ rank.toNat then s.badRank ch true (rankWord 0xD rank.toNat)
    else if (s.chan ch).mode ≠ .nearBank then s.wrongMode ch js
    else
      let parts := match (s.chan ch).pass with | some p => p.banks.map Prod.fst | none => ([] : List Nat)
      let s0 := s.modChan ch (fun c => { c with pass := c.pass.map (fun p => { p with strs := p.strs.erase rank.toNat }) })
      let s1 := ((js.filter (fun j => parts.contains j)).foldl (fun s j => s.evaluate ch j failed) s0).closePass ch
      s1.answer { kind := 3, data := leBytes 34 (s.strBeat ch rank.toNat).toNat, poison := failed })

end Sys2Proof.Machine
end

