-- ==== Sys2Proof/Machine/Bus.lean ====
section
/-! DEFINITION. A command that the stack reports in error: its alert, its re-issue from the bits held, and its end after the third failure
(04 R160 to R162; 06 R216 to R219). -/

namespace Sys2Proof.Machine

/-- Rank field of a held command, below 24 by R218. -/
def wordRank (n : Nat) : Fin 24 := ⟨n % 24, by omega⟩

/-- PWR by its function: entries as their commands; the exits wake the rank from power-down or from self-refresh (R216; 04 R141, R142). -/
def runPwr (ch : Fin 1536) (fn rank : Nat) (s : State) : Result :=
  let st : Fin 96 := ⟨ch.val / 16, by omega⟩
  let exit (p : RankPower) : Result := .next (
    if (s.chan ch).mode = .nearBank then s.wrongMode ch (rankBanks rank)
    else if (s.chan ch).rank rank = p ∧ (s.stack (ch / 16)).sr = false then s.modChan ch (fun c => c.setRank rank .awake) else s)
  if fn = 0 then execPowerDownEntry ch (wordRank rank) s
  else if fn = 1 then exit .down
  else if fn = 2 then execSelfRefreshEntry ch (wordRank rank) s
  else if fn = 3 then exit .selfRefresh
  else if fn = 4 then execStackSelfRefreshEntry st s
  else if fn = 5 then execStackSelfRefreshExit st s
  else .next s

/-- The row command of word `w` for requester `who` (R216). -/
def runRow (ch : Fin 1536) (w who : Nat) (s : State) : Result :=
  let rank : BitVec 5 := BitVec.ofNat 5 (field w 4 5)
  let bank := flag w 9
  let row : BitVec 16 := BitVec.ofNat 16 (field w 10 16)
  match w % 16 with
  | 0x1 => execAct ch rank bank row (BitVec.ofNat 5 who) s
  | 0x2 => execPre ch rank bank (flag w 10) s
  | 0x3 => execRef ch rank bank s
  | 0x4 => runPwr ch (field w 4 3) (field w 7 5) s
  | 0x5 => execMrw ch rank bank (BitVec.ofNat 8 (field w 10 8)) (BitVec.ofNat 8 (field w 18 8)) s
  | 0x8 => execNbe ch s
  | 0x9 => execNbx ch s
  | 0xA => execAha ch rank bank row s
  | 0xB => execSwt ch s
  | 0xC => execNrf ch s
  | 0xD => execNnr ch rank bank s
  | 0xE => execBbq ch (BitVec.ofNat 16 (field w 4 16)) s
  | _ => .next s

/-- The column command of word `w` with its data beat (R217). -/
def runColumn (ch : Fin 1536) (w : Nat) (data : BitVec 272) (s : State) : Result :=
  let rank : BitVec 5 := BitVec.ofNat 5 (field w 4 5)
  let bank := flag w 9
  let col : BitVec 6 := BitVec.ofNat 6 (field w 10 6)
  match w % 16 with
  | 0x1 => execRd ch rank bank col (flag w 16) s
  | 0x2 => execWr ch rank bank col (flag w 16) (data.extractLsb' 0 256) s
  | 0x3 => execMrr ch rank (BitVec.ofNat 8 (field w 9 8)) s
  | 0x8 => execCcl ch (BitVec.ofNat 6 (field w 4 6)) s
  | 0x9 => execBbw ch (data.extractLsb' 0 256) [] s
  | 0xA => execCfgw ch rank data s
  | 0xB => execAcr ch rank bank (BitVec.ofNat 3 (field w 10 3)) (BitVec.ofNat 4 (field w 13 4)) [] s
  | 0xC => execAcl ch rank bank (BitVec.ofNat 8 (field w 10 8)) s
  | 0xD => execStr ch rank [] s
  | _ => .next s

/-- The queued request that a held command serves: the oldest of its requester to the line. -/
def Channel.servedBy (c : Channel) (ch : Nat) (x : BusCmd) : Option Req :=
  (if x.write then c.writeQ else c.readQ).find? (fun q => q.who == x.who && q.spot ch == x.line)

/-- A command that has failed three times is given up: its read is answered with poisoned data, its write is not performed and fails to its
requester, and either is logged with kind 0x03 and the requester's path (04 R161). -/
def State.giveUp (s : State) (ch : Nat) : State :=
  match (s.chan ch).caHeld with
  | none => s
  | some x =>
    if x.fails < 3 then s
    else
      let s1 := s.modChan ch (fun c => { c with caHeld := none })
      let q := (s.chan ch).servedBy ch x
      let s2 := match q with
        | some q => s1.modChan ch (fun c => { c with readQ := c.readQ.erase q, writeQ := c.writeQ.erase q })
        | none => s1
      let addr := match q with | some q => s.addrFor q.who q.addr | none => s.logAddr x.line
      let s3 := s2.logError x.line 127 3 x.path 127 (q.bind Req.part) addr
      if x.write then (match q with | some q => s3.writeDone q false | none => s3.answer { kind := 5 })
      else s3.answer { kind := 1, data := List.replicate 64 0, poison := true }

/-- An alert pulse reports a command that failed its parity: it is counted and held with its bits, to be issued again, and given up after the
third failure (R160 to R163; 06 R219). `word` and `data` are the command as it went over its bus; `who`, `write`, `line` and `path` say for
which request. The pulse for a command that its die ignores under 06 R218 is part of that command. -/
def execCommandErrorAlert (ch : Fin 1536) (column : Bool) (word : BitVec 28) (data : BitVec 272) (who : BitVec 5) (write : Bool) (line : Nat)
    (path : Fin 10) (s : State) : Result :=
  .next ((s.reportError ch { column := column, word := word.toNat, who := who.toNat, write := write, line := line, path := path
                             data := data }).giveUp ch)

/-- The command held in error is issued again. Accepted, it serves the request it was for, or has its own effect; otherwise it has failed once
more (R160, R161). A command that its die ignores fails again (06 R218). One whose request has been served since is dropped. -/
def execCommandReissue (ch : Fin 1536) (accepted : Bool) (s : State) : Result :=
  match (s.chan ch).caHeld with
  | none => .next s
  | some x =>
    if accepted = false ∨ dieRejects x.column x.word = true then .next ((s.reportError ch x).giveUp ch)
    else
      let s1 := s.modChan ch (fun c => { c with caHeld := none })
      match (s.chan ch).servedBy ch x with
      | some q =>
        .next (if s.serves ch = false then s
          else if x.write then
            if (s.chan ch).behind ch q then s
            else (s1.modChan ch (fun c => { c with writeQ := c.writeQ.erase q })).performWrite ch q
          else if s.canServe ch q then s1.serve ch q else s)
      | none =>
        if x.path ≠ 8 then .next s1
        else if x.column then runColumn ch x.word x.data s1 else runRow ch x.word x.who s1

end Sys2Proof.Machine
end

