-- ==== Sys2Proof/Machine/HostPort.lean ====
section
/-! DEFINITION. Host ports, memory classes, back-invalidates, flags, the peer aperture and SPDM (chapters 02
and 14, 18 R708). -/

namespace Sys2Proof.Machine

/-! ### Shared-class lines (R538 to R543) -/

/-- A line at its home: the line cache where it holds the line, otherwise the banks (R538). -/
def State.homeRead (s : State) (sa : Nat) : Line512 × Bool :=
  match s.lines.find? (fun e => e.1 == sa / 64) with
  | some e => (e.2.data, e.2.poison)
  | none => s.readSa sa

/-- The line at `sa` read by a device requester under its grant: a shared-class line at its home, any other in the queues and banks; a slot
left on a retired parcel reads poisoned (04 R121; 14 R538; 18 R701). -/
def State.deviceRead (s : State) (who path : Nat) (part : Option Nat) (sa : Nat) : (Line512 × Bool) × State :=
  if (s.slot (sa / slotBytes)).dead then ((0, true), s.logError (s.lineOfSa (sa / 64 * 64)) 127 6 path 0 part (s.addrFor who (sa / 64 * 64)))
  else match if (s.slot (sa / slotBytes)).cls = .shared then s.lines.find? (fun e => e.1 == sa / 64) else none with
    | some e => ((e.2.data, e.2.poison), s)
    | none => s.bankRead who path part sa

/-- A write performed at the home line cache, which keeps the line dirty (R538). -/
def State.homeWrite (s : State) (sa : Nat) (d : Line512) (mask : BitVec 64) (pois : Bool) : State :=
  let old := s.homeRead sa
  let p := pois || (old.2 && decide (mask ≠ BitVec.allOnes 64))
  (s.putLines (Tab.set (fun _ => {}) s.lines (sa / 64) { data := mergeLine mask old.1 d, poison := p, dirty := true }))

/-- Home tile of a service address: the tile that holds its slot (R530, R538). -/
def State.homeOf (s : State) (sa : Nat) : Nat := (s.slot (sa / slotBytes)).phys / 512

/-- COHSTAT.DIRMAX kept up to date (R558). -/
def State.noteDir (s : State) : State :=
  let m := (List.range 16).foldl (fun m t => max m (s.dir t).length) 0
  (s.putLogs { s.logs with dirMax := max s.logs.dirMax m })

/-- Entries of a host-ownership directory (R539). -/
def dirSize : Nat := 1048576

/-- The stream of source `src` and partition `p`; 64 stands for none (14 "Flags and late failure"). -/
def streamKey (src : Nat) (p : Option Nat) : Nat := src * 65 + p.getD 64

/-! ### CXL.mem -/

/-- ADDR of a log entry for a host request: port DPA, or the HPA where the address lies outside the range (R49). -/
def State.hostAddr (s : State) (p hpa : Nat) : Nat :=
  let h := s.hport p
  if h.base ≤ hpa ∧ hpa - h.base < s.space then portDpa (granuleOf h.ig) (max 1 (waysOf h.iw)) (hpa - h.base) else hpa

/-- A poisoned answer to a host read, logged against the request's address (R49, R492). What the entry's location fields hold for a
misrouted read the spec does not say: the model enters line 0 of parcel 0 (DESIGN CHOICE, log entry 92). -/
def State.poisonAnswer (s : State) (p hpa line : Nat) : State :=
  (s.logError line 127 6 0 0 none (s.hostAddr p hpa)).answer { kind := 1, data := List.replicate 64 0, poison := true }

/-- MISROUTE set on port `p` (R49). -/
def State.misroute (s : State) (p : Nat) : State := s.modHport p (fun h => { h with misroute := true })

/-- The read request of the line at `sa` by requester `who`, whose answer goes where `fill` says. -/
def State.readReq (s : State) (who fill : Nat) (part : Option Nat) (sa : Nat) : Req :=
  let l := s.locate sa
  { who := who, part := part, bank := l.moduleBank % 48, row := l.row, line := l.col / 2, addr := sa, fill := fill }

/-- A read request accepted into its channel's read queue; where the channel chooses it at once, its grant is performed (04 R120, R121,
R125). Without room it is held at its requester: the state stays. -/
def State.askRead (s : State) (ch : Nat) (q : Req) : State :=
  if s.hasRoom ch false then (s.accept ch q).grantNow ch q.who else s

/-- The read of a bulk-class line that the port's read buffer does not serve: asked of its channel, and after two consecutive line reads
the next line with it (R532, R537). -/
def State.portRead (s : State) (p sa : Nat) : State :=
  let l := sa / 64
  let buf := flag (s.reg 0 rCOHCFG) 0
  let ch (a : Nat) : Nat := chanOfBank (s.locate a).moduleBank
  let owner := (s.slot (sa / slotBytes)).owner
  let next := buf && flag (s.reg 0 rCOHCFG) 1 && (s.hport p).lastRead == l && (s.slot ((sa + 64) / slotBytes)).cls == .bulk &&
    !(s.slot ((sa + 64) / slotBytes)).dead
  if s.hasRoom (ch sa) false = false then s
  else
    let s1 := if buf then s.modHport p (fun h => { h with lastRead := l + 1 }) else s
    let s2 := (s1.readMesh (4 * p) (s.homeOf sa) 1).askRead (ch sa)
      (s.readReq p (if buf then 1 else 0) owner sa)
    if next then s2.askRead (ch (sa + 64)) (s2.readReq p 2 owner (sa + 64)) else s2

/-- A host read of a shared-class line: served at the home, its directory entry made, from the line cache or by a fill asked of the
stacks; a full directory first issues BISnpInv for its oldest entry and holds the read (R538 to R540). -/
def State.sharedHostRead (s : State) (p sa : Nat) (own : Bool) : State :=
  let t := s.homeOf sa
  let l := sa / 64
  let es := s.dir t
  let ch := chanOfBank (s.locate sa).moduleBank
  let reply (s : State) : State :=
    match s.lines.find? (fun e => e.1 == l) with
    | some e => s.answer { kind := 1, data := lineBytes e.2.data, poison := e.2.poison }
    | none => if (s.slot (sa / slotBytes)).dead then s.poisonAnswer p (s.addrFor p sa) (s.lineOfSa sa) else s.askRead ch (s.readReq 4 3 (s.slot (sa / slotBytes)).owner sa)
  if s.lines.all (fun e => e.1 != l) = true ∧ s.hasRoom ch false = false then s
  else if es.any (fun e => e.line == l) then
    reply (s.modDir t (fun es => es.map (fun e => if e.line == l then { e with modified := e.modified || own } else e)))
  else if es.length < dirSize then reply (s.modDir t (fun es => es ++ [{ line := l, modified := own }])).noteDir
  else
    (s.modDir t (fun es => match es with
      | e :: r => { e with snoop := 2, wait := some { host := some (p, l, own) } } :: r
      | [] => [])).putLogs { s.logs with bievict := s.logs.bievict + 1 }

/-- A CXL.mem read of a line on a port; `own` says the host may then modify it (R48, R49, R530 to R532, R538, R492). -/
def execCxlMemRead (p : Fin 4) (hpa : BitVec 46) (own : Bool) (s : State) : Result :=
  let a := hpa.toNat * 64
  .next (
    if (s.hport p).mem = false ∨ s.boot.phase ≠ 15 then s
    else match s.hostSa p a with
    | none => (s.misroute p).poisonAnswer p a 0
    | some sa =>
      if (s.hport p).agree = false then s.poisonAnswer p a 0
      else
        match (s.slot (sa / slotBytes)).cls with
        | .devOnly => (s.viaMesh (4 * p.val) (s.homeOf sa) 0).poisonAnswer p a (s.lineOfSa sa)
        | .shared => (s.readMesh (4 * p.val) (s.homeOf sa) 1).sharedHostRead p sa own
        | .bulk =>
          match if flag (s.reg 0 rCOHCFG) 0 then (s.hport p).prb.find? (fun e => e.1 == sa / 64) else none with
          | some e =>
            (s.modHport p (fun h => { h with lastRead := sa / 64 + 1 })).answer { kind := 1, data := lineBytes e.2.1, poison := e.2.2 }
          | none =>
            if (s.slot (sa / slotBytes)).dead then s.poisonAnswer p a (s.lineOfSa sa) else s.portRead p sa)

/-- The write request of a line put into its channel's write queue as a data write of its stream (R531, R547, R549). -/
def State.acceptWrite (s : State) (who src : Nat) (part : Option Nat) (sa : Nat) (d : Line512) (mask : BitVec 64) (pois : Bool)
    (peer : Option (Nat × Nat)) (hdr : Option (BitVec 128)) : State :=
  let l := s.locate sa
  let k := streamKey src part
  let s1 := s.modStream k (fun t => { t with open_ := t.open_ + 1 })
  s1.accept (chanOfBank l.moduleBank)
    { who := who, part := part, bank := l.moduleBank % 48, row := l.row, line := l.col / 2, write := true, data := d, mask := mask, poison := pois
      peer := peer, hdr := hdr
      addr := sa, stream := some k, epoch := (s.stream k).epoch }

/-- The port's copy of a line follows a CXL.mem write through the port (R532). -/
def State.bufferWrite (s : State) (p sa : Nat) (d : Line512) (mask : BitVec 64) : State :=
  s.modHport p (fun h => { h with prb := h.prb.map (fun e =>
    if e.1 == sa / 64 then (e.1, (mergeLine mask e.2.1 d, e.2.2 && decide (mask ≠ BitVec.allOnes 64))) else e) })

/-- A CXL.mem write of a line on a port, completed to the host on acceptance (R48, R49, R531, R536, R548, R552). -/
def execCxlMemWrite (p : Fin 4) (hpa : BitVec 46) (data : BitVec 512) (mask : BitVec 64) (s : State) : Result :=
  let a := hpa.toNat * 64
  let cmp (s : State) : State := s.answer { kind := 0 }
  .next (
    if (s.hport p).mem = false ∨ s.boot.phase ≠ 15 then s
    else match s.hostSa p a with
    | none =>
      let sa := a - (s.hport p).base
      let within := decide ((s.hport p).base ≤ a) && decide (sa < s.space)
      cmp ((s.misroute p).lateFail 2 0 p (if within then (s.slot (sa / slotBytes)).owner else none) 0 (s.hostAddr p a)
        (if within then sa else 0))
    | some sa =>
      let owner := (s.slot (sa / slotBytes)).owner
      if (s.hport p).agree = false then cmp (s.lateFail 2 0 p owner 0 (s.hostAddr p a) sa)
      else
        let s1 := s.viaMesh (4 * p.val) (s.homeOf sa) 1
        match (s.slot (sa / slotBytes)).cls with
        | .devOnly => cmp (s1.lateFail 3 0 p owner 0 (s.hostAddr p a) sa)
        | .shared =>
          if sa % slotBytes < 0x10000 then
            let k := streamKey p owner
            cmp (s1.modStream k (fun t => { t with
              flags := t.flags ++ [{ epoch := t.epoch, wait := t.open_, failed := t.failed, sa := sa, data := data, mask := mask }]
              epoch := t.epoch + 1, open_ := 0, failed := false }))
          else
            let k := streamKey p owner
            let s2 := if (s1.stream k).flags = [] then s1.homeWrite sa data mask false else s1.modStream k (fun t => t.hold sa data mask false)
            cmp (s2.modDir (s.homeOf sa) (fun es => es.map (fun e => if e.line == sa / 64 then { e with modified := false } else e)))
        | .bulk =>
          let ch := chanOfBank (s.locate sa).moduleBank
          if (s.slot (sa / slotBytes)).dead then cmp (s1.lateFail 1 0 p owner 0 (s.hostAddr p a) sa)
          else if s.hasRoom ch true then
            cmp ((s1.acceptWrite p p owner sa data mask false none none).bufferWrite p sa data mask)
          else s)

/-! ### Decoders (R44 to R50) -/

/-- Ports whose decoder is committed. -/
def State.committed (s : State) : List Nat := (List.range 4).filter (fun p => (s.hport p).commit)

/-- What a port's CXL DVSEC advertises, and its CDAT with it: the three capabilities, the number of HDM decoders, and the size and
memory class of each range (R528). -/
structure Dvsec where
  cacheCapable : Bool
  ioCapable : Bool
  memCapable : Bool
  decoders : Nat
  /-- size in bytes and whether the class is volatile -/
  ranges : List (Nat × Bool)
  deriving DecidableEq, Repr

/-- The CXL DVSEC of every port: all three capabilities, one HDM decoder, one volatile range of the part's whole size: 8064 GiB, or
4032 GiB on the half-populated part (R528; 00 R3). -/
def State.dvsec (s : State) : Dvsec :=
  { cacheCapable := true, ioCapable := true, memCapable := true, decoders := 1, ranges := [(s.space, true)] }

/-- The CDAT of every port describes the ranges its DVSEC advertises (R528). -/
def State.cdat (s : State) : List (Nat × Bool) := s.dvsec.ranges

/-- Bytes of the advertised ranges: what the committed decoders of the taking-part ports cover together (R528, R529). -/
def State.hdmSize (s : State) : Nat := (s.dvsec.ranges.map Prod.fst).sum

/-- A commit of HDM decoder 0 on a port: refused, or the decoder's values taken and AGREE set when the last of W ports
commits; a decoder already committed keeps its values and reports success (R44 to R46, R50). The answer's first
byte is 1 on success, 0 on the commit error. -/
def execDecoderCommit (p : Fin 4) (iw ig : BitVec 4) (base : BitVec 24) (size : BitVec 64) (s : State) : Result :=
  let w := waysOf iw.toNat
  let b := base.toNat * 2 ^ 28
  let others := s.committed
  let bad := decide (w = 0) || decide (6 < ig.toNat) || decide (size.toNat * w ≠ s.hdmSize) || decide (w ≤ s.hilPos p) ||
    others.any (fun q => (s.hport q).iw != iw.toNat || (s.hport q).ig != ig.toNat || (s.hport q).base != b ||
      (s.hport q).size != size.toNat || s.hilPos q == s.hilPos p)
  let say (ok : Bool) (s : State) : State := s.answer { kind := 3, data := leBytes 1 (nat ok) }
  .next (
    if (s.hport p).commit then say true s
    else if bad then say false s
    else
      let s1 := s.modHport p (fun h => { h with iw := iw.toNat, ig := ig.toNat, base := b, size := size.toNat, commit := true })
      let all := decide (s1.committed.length = w)
      say true (s1.putPorts (Tab.updMany (fun _ => {}) (fun h : Port => { h with agree := h.agree || all }) s1.committed s1.ports)))

/-- The commit of a port's decoder cleared: AGREE returns to 0 on every port (R45, R50). -/
def execDecoderUncommit (p : Fin 4) (s : State) : Result :=
  let s1 := s.modHport p (fun h => { h with commit := false })
  .next (s1.putPorts (Tab.updMany (fun _ => {}) (fun h : Port => { h with agree := false }) (List.range 4) s1.ports))

/-! ### Flags and drains -/

/-- A held flag performed at its home once no write it covers is open; stored poisoned when one has failed (R549, R550).
`src` 0 to 3 is a host port, 4 to 19 a landing. -/
def execFlagPerform (src : Fin 20) (part : Option (Fin 64)) (s : State) : Result :=
  let k := streamKey src (part.map Fin.val)
  .next (
    match (s.stream k).flags with
    | [] => s
    | f :: rest =>
      if f.wait = 0 then
        (s.modStream k (fun t => { t with flags := rest, asked := t.asked && !{ t with flags := rest }.idle })).homeWrite f.sa f.data f.mask f.failed
      else s)

/-- A PDRAIN read through a VF's set-up page, or the PF's register (`vf` 0): it completes once the earlier writes are
performed or failed, and returns the failures since the last read; until then their drain is asked for (R553, R558). -/
def execPdrainRead (p : Fin 4) (vf : Fin 17) (s : State) : Result :=
  let part := if vf.val = 0 then none else s.partOfPage (17 * p.val + vf.val)
  let ok := match part with
    | some q => (s.stream (streamKey p (some q))).idle
    | none => (List.range 65).all (fun q => (s.stream (p.val * 65 + q)).idle)
  let n := match part with
    | some q => Tab.get (fun _ => 0) (s.hport p).partFails q
    | none => (s.hport p).fails
  .next (
    if ok then
      (s.modHport p (fun h => match part with
        | some q => { h with partFails := Tab.set (fun _ => 0) h.partFails q 0 }
        | none => { h with fails := 0 })).answer { kind := 3, data := leBytes 8 (n + 2 ^ 63) }
    else
      let ks := match part with | some q => [streamKey p (some q)] | none => (List.range 65).map (fun q => p.val * 65 + q)
      ks.foldl (fun s k => s.modStream k (fun t => { t with asked := !t.idle })) s)

/-- A read of COHSTAT returns the highest directory occupancy since the last read and starts that record again (R558). -/
def execCohstatRead (_p : Fin 4) (s : State) : Result :=
  let lg := s.logs
  let now := (List.range 16).foldl (fun m t => max m (s.dir t).length) 0
  .next (((s.putLogs { lg with dirMax := now })).answer
    { kind := 3, data := leBytes 8 (lg.dirMax + lg.bitmout * 2 ^ 32 + satNat 16 (lg.bievict / 1024) * 2 ^ 48) })

/-! ### Peers (R555) -/

/-- A write of the aperture entry that APTIDX selects, refused unless SLOT is a bulk slot owned by PART (R555, R558). -/
def execAptdatWrite (p : Fin 4) (value : BitVec 32) (s : State) : Result :=
  let v := value.toNat
  let x := s.slot (field v 0 13)
  .next (
    if x.owner = some (field v 13 6) ∧ x.cls = .bulk ∧ field v 0 13 < s.slotCount then
      s.modHport p (fun h => { h with apt := Tab.set (fun _ => 0) h.apt (field (s.reg p rAPTIDX) 0 4) (BitVec.ofNat 32 (field v 0 21)) })
    else s)

/-- The service address a peer request reaches: a valid entry, a bulk-class slot, inside the slot (R555). -/
def State.peerSa (s : State) (p e off : Nat) : Option Nat :=
  let w := (Tab.get (fun _ => 0#32) (s.hport p).apt e).toNat
  let sl := field w 0 13
  if flag w 19 ∧ off < slotBytes ∧ (s.slot sl).cls = .bulk then some (sl * slotBytes + off) else none

/-- Unsupported Request. -/
def State.unsupported (s : State) : State := s.answer { kind := 2 }

/-- A peer CXL.io read of a line through the aperture (R555). -/
def execPeerApertureRead (p : Fin 4) (e : Fin 16) (off : BitVec 25) (s : State) : Result :=
  .next (
    match s.peerSa p e (off.toNat * 64) with
    | none => s.unsupported
    | some sa =>
      let s1 := s.readMesh (4 * p.val) (s.homeOf sa) 1
      if (s.slot (sa / slotBytes)).dead then (s1.logError (s.lineOfSa sa) 127 6 0 0 none (s.addrFor p sa)).answer { kind := 1, data := List.replicate 64 0, poison := true }
      else s1.askRead (chanOfBank (s.locate sa).moduleBank) (s.readReq p 0 (s.slot (sa / slotBytes)).owner sa))

/-- A peer CXL.io write of a line through the aperture: a data write of a stream of the port, the line leaving every
port read buffer; otherwise an Unsupported Request, logged with reason 8 unless the entry only bars writes (R533, R555). -/
def execPeerApertureWrite (p : Fin 4) (e : Fin 16) (off : BitVec 25) (data : BitVec 512) (mask : BitVec 64) (s : State) : Result :=
  let w := (Tab.get (fun _ => 0#32) (s.hport p).apt e).toNat
  let part := field w 13 6
  .next (
    match s.peerSa p e (off.toNat * 64) with
    | none => ((s.lateFail 8 4 e (if flag w 19 then some part else none) 0 (e.val * 2 ^ 31 + off.toNat * 64) 0).modHport p Port.countFail).unsupported
    | some sa =>
      if flag w 20 = false then s.unsupported
      else if s.hasRoom (chanOfBank (s.locate sa).moduleBank) true then
        let s1 := (s.viaMesh (4 * p.val) (s.homeOf sa) 1).acceptWrite p p (some part) sa data mask false (some (e.val, e.val * 2 ^ 31 + off.toNat * 64)) none
        ((s1.putPorts (Tab.updMany (fun _ => {}) (fun h : Port => { h with prb := Tab.erase h.prb (sa / 64) }) (List.range 4) s1.ports))).answer { kind := 0 }
      else s)

/-! ### SPDM (18 R708) -/

/-- Configuration tag of a tile; zero where it is retired (12 R488; 18 R708). -/
def State.tileTag (s : State) (t : Nat) : Nat :=
  if (s.hub t).retired then 0
  else Config.stepping + Config.model * 2 ^ 8 + t * 2 ^ 16 + (s.mat t).serve.length * 2 ^ 20

/-- The six measurement blocks (18 R708). -/
def State.measurements (s : State) : List (BitVec 384) :=
  let act := if s.fw.active then 1 else 0
  let bank (i : Nat) : BitVec 384 := match s.fw.banks.find? (fun e => e.1 == i) with
    | some e => e.2.digest
    | none => 0
  [Config.bootRom, bank act, bank (1 - act),
   Config.sha384 (leBytes 48 Config.fuseKey.toNat ++ leBytes 1 s.fw.svn),
   Config.sha384 ((List.range 16).flatMap (fun t => leBytes 8 (s.tileTag t))),
   Config.sha384 (s.boot.hashMask.flatMap (leBytes 4) ++ leBytes 1 s.boot.modid ++ leBytes 2 s.boot.dkey)]

/-- SPDM GET_MEASUREMENTS returns the six blocks (18 R708). -/
def execGetMeasurements (_p : Fin 4) (s : State) : Result :=
  .next (s.answer { kind := 4, data := s.measurements.flatMap (fun m => leBytes 48 m.toNat) })

/-- SPDM GET_CERTIFICATE returns the chain rooted in the device authority (18 R708). -/
def execGetCertificate (_p : Fin 4) (s : State) : Result :=
  .next (s.answer { kind := 4, data := Config.certChain })

/-- The host returns GO, or an error, for a device write that has been sent (R544, R554). A ferry write so observed
counts toward its step; a trace record advances TRCTAIL by its own command. -/
def execGloballyObserved (id : Nat) (ok : Bool) (s : State) : Result :=
  .next (
    match s.out.inflight.find? (fun w => w.id == id && w.sent) with
    | none => s
    | some w =>
      let s1 := s.hostDone w ok
      match w.fe with
      | some f => s1.modFchan (16 * f.1 + f.2) (fun c => { c with posted := c.posted - 1 })
      | none => s1)

end Sys2Proof.Machine
end

