-- ==== Sys2Proof/Machine/Links.lean ====
section
/-! DEFINITION. Crossing links: lanes, flits, acknowledgement and replay, routes, transactions in flight, training and
cables (chapters 16 and 20). -/

namespace Sys2Proof.Machine

/-! ### Flits and replay (16 R603 to R610) -/

/-- An ACK received: every kept flit up to it is released (R607). -/
def Landing.acked (l : Landing) (a : Nat) : Landing :=
  match l.unack.findIdx? (fun f => f.1 == a) with
  | some i => { l with unack := l.unack.drop (i + 1), ack := a, resends := 0 }
  | none => l

/-- A NAK for e, unless one is outstanding (R608). -/
def State.nak (s : State) (l : Nat) : State :=
  if (s.landing l).nakOut then s else (s.modLanding l (fun x => { x with nakOut := true })).sendControl l true 0 0

/-- Lanes over which a landing spreads its symbols: 24, or 12 after a lane failure without spare (R598, R601). -/
def Landing.width (l : Landing) : Nat := if l.st = 3 then 12 else 24

/-- Physical lane that carries symbol `i` of a group: that of logical lane i mod 24, or mod 12 (R599, R601). -/
def Landing.laneOf (l : Landing) (i : Nat) : Option Nat :=
  (List.range 26).find? (fun p => (Tab.get laneDefault l.lanes p).st == 0 && (Tab.get laneDefault l.lanes p).logical == i % l.width)

/-- Symbols `fixed` of a group that the FEC corrected, counted at the lanes that carried them (R599, R634). -/
def Landing.countFixed (l : Landing) (fixed : List (Fin 1632)) : Landing :=
  fixed.foldl (fun l i => match l.laneOf i with
    | some p => { l with lanes := Tab.upd laneDefault l.lanes p (fun a => { a with corr := satNat 32 (a.corr + 1) }) }
    | none => l) l

/-- A sequenced flit received (R608): `flit` its 256 bytes, byte 0 lowest, `fixed` the symbols that the FEC corrected in the group that brings it,
and `uncw` says it touches an uncorrectable codeword. Control flits carry no sequence number; their messages come as LINK_CONTROL (R604). -/
def execFlitReceive (l : Fin 16) (flit : BitVec 2048) (fixed : List (Fin 1632)) (uncw : Bool) (s : State) : Result :=
  let bytes := leBytes 256 flit.toNat
  let seq := field flit.toNat 0 12
  let pass := !uncw && crc16 (bytes.take 254) == BitVec.ofNat 16 (bytesAt bytes 254 2)
  let x := s.landing l
  .next (
    if x.up = false ∨ (pass = true ∧ field flit.toNat 12 4 ≠ 0) then s
    else
      let s1 := (s.spend 5 1).modLanding l (fun x =>
        let x1 := x.countFixed fixed
        if uncw then { x1 with uncw := satNat 16 (x1.uncw + 1) } else x1)
      if !pass then s1.nak l
      else if seq = x.exp then s1.modLanding l (fun x => { x with exp := (x.exp + 1) % 4096, nakOut := false, rxSince := x.rxSince + 1 })
      else if (x.exp + 4096 - seq) % 4096 ≤ 2048 then s1
      else s1.nak l)

/-- A link-control message received: its ACK releases flits, a NAK has the rest sent again, its credits return to the buffers of `level` (the
unit names their class only), and what waited for them leaves (R605, R607, R609, R615). -/
def execLinkControl (l : Fin 16) (msg : BitVec 32) (level : Fin 4) (s : State) : Result :=
  let m := msg.toNat
  let cls := field m 17 2
  .next (
    if field m 0 4 ≠ 1 ∨ field m 27 5 ≠ 0 ∨ (s.landing l).up = false then s
    else
      let s1 := s.modLanding l (fun x =>
        { x.acked (field m 4 12) with credits := Tab.upd (fun _ => 0) x.credits (cls * 4 + level.val) (· + field m 19 8) })
      (if flag m 16 then s1.replay l else s1).drainTx l)

/-- The landing sends its current ACK (R606). -/
def execAckSend (l : Fin 16) (s : State) : Result :=
  .next (
    if (s.landing l).up = true ∧ 0 < (s.landing l).rxSince then
      (s.modLanding l (fun x => { x with rxSince := 0 })).sendControl l false 0 0
    else s)

/-! ### Routes and messages (16 R613 to R618) -/

/-- ADDR of a message: a service address, or tile and scratchpad address (R618). -/
def msgAddr (sp : Bool) (tile addr : Nat) : Nat := if sp then addr else tile + addr * 16

/-- Transactions outstanding of a ferry channel (R619). -/
def State.outstanding (s : State) (t ch : Nat) : List Xact := s.xacts.filter (fun x => x.tile == t && x.ch == ch)

/-- A tag that no outstanding transaction of the channel uses. -/
def State.freeTag (s : State) (t ch : Nat) : Nat :=
  let used := (s.outstanding t ch).map (fun x => x.tag)
  ((List.range 65).find? (fun i => !used.contains i)).getD 0

/-- The landing of a new transaction: that of the stream's unacknowledged transactions to the same destination,
otherwise as the route entry now says (R616). -/
def State.landFor (s : State) (x : Xact) : Option Nat :=
  match (s.outstanding x.tile x.ch).find? (fun y => y.dst == x.dst) with
  | some y => if (s.landing y.land).up then some y.land else none
  | none => s.routeOf s.boot.modid (sstrOf x.tile x.ch) x.dst

/-- One transaction of a channel sent (R618, R619). -/
def State.sendXact (s : State) (x : Xact) (land : Nat) : State :=
  let x := { x with land := land, tag := s.freeTag x.tile x.ch, issued := s.cyc }
  let hdr := msgHeader (if x.write then 3 else 2) x.lines x.dst s.boot.modid x.part 0 (sstrOf x.tile x.ch) x.tag
    (msgAddr x.sp x.mtile x.addr) x.sp 0 x.pois
  ((s.putXacts (s.xacts ++ [x]))).sendMsg land hdr (if x.write then x.data else [])

/-- Transactions of a channel sent while fewer than 64 are outstanding (R619); the first that finds no route halts the
channel with fault 0x5 (R613, R634). -/
def State.pump : Nat → Nat → Nat → State → State
  | 0, _, _, s => s
  | n + 1, t, ch, s =>
    match (s.fchan (16 * t + ch)).todo with
    | [] => s
    | x :: rest =>
      if 64 ≤ (s.outstanding t ch).length then s
      else match s.landFor x with
        | some l => pump n t ch (((s.modFchan (16 * t + ch) (fun f => { f with todo := rest })).viaMesh t l (if x.write then x.lines else 0)).sendXact x l)
        | none => s.ferryFault t ch 5 (if x.write then 2 else 1) (x.addr, if x.sp then 2 else 1, x.mtile, x.dst)

/-- An outstanding transaction removed. -/
def State.dropXact (s : State) (x : Xact) : State := (s.putXacts (s.xacts.filter (fun y => y != x)))

/-- A transaction fails with its module out of reach: a read halts its channel with fault 0x5, a write is a late failure
with reason 7 (R617, R624). -/
def State.failXact (s : State) (x : Xact) : State :=
  let s1 := s.dropXact x
  if x.write then State.pump 64 x.tile x.ch (s1.lateFail 7 3 x.land (some x.part) x.dst x.addr 0)
  else s1.ferryFault x.tile x.ch 5 1 (x.addr, if x.sp then 2 else 1, x.mtile, x.dst)

/-- Every transaction outstanding through a landing fails (R617). -/
def State.failLanding (s : State) (l : Nat) : State :=
  (s.xacts.filter (fun x => x.land == l)).foldl (fun s x => if s.xacts.contains x then s.failXact x else s) s

/-- A landing goes down, or stops with its tile (R617). -/
def State.landingDown (s : State) (l : Nat) : State :=
  (s.modLanding l (fun x => { x with
    st := if (s.hub l).retired then 5 else 0, unack := [], txQ := [], resends := 0, nakOut := false, rxSince := 0 })).failLanding l

/-- A landing goes down; routes stop choosing it at once (R617). -/
def execLandingDown (l : Fin 16) (s : State) : Result :=
  .next (if (s.landing l).st = 0 ∨ (s.landing l).st = 5 then s else s.landingDown l)

/-- ACK has not advanced for 2 µs: the oldest flit and all after it are sent again; after 8 such resends the landing
retrains (R610). -/
def execReplayTimeout (l : Fin 16) (s : State) : Result :=
  let x := s.landing l
  .next (
    if x.up = false ∨ x.unack = [] then s
    else if x.resends < 8 then (s.modLanding l (fun x => { x with resends := x.resends + 1 })).replay l
    else (s.landingDown l).modLanding l (fun x => { x with st := 1 }))

/-- A written route entry (R616, R634): streams with a transaction unacknowledged keep their landing. -/
def execXrtdatWrite (value : BitVec 32) (s : State) : Result :=
  .next (s.modRoute (s.cfg rXRTIDX 0 6) (fun _ => BitVec.ofNat 32 (field value.toNat 0 19)))

/-! ### Lanes and training (16 R598 to R602, R612, R633) -/

/-- Physical lane `n` of a landing. -/
def Landing.lane (l : Landing) (n : Nat) : LaneSt := Tab.get laneDefault l.lanes n

/-- Physical lane `n` changed. -/
def Landing.modLane (l : Landing) (n : Nat) (f : LaneSt → LaneSt) : Landing := { l with lanes := Tab.upd laneDefault l.lanes n f }

/-- The lowest spare lane of a landing. -/
def Landing.spare (l : Landing) : Option Nat := (List.range 26).find? (fun n => (l.lane n).st == 1)

/-- A carrying lane whose error ratio passes the threshold, or that loses lock, moves onto a spare; with no spare left
the landing retrains on the lanes that remain (R600, R601). -/
def execLaneSpare (l : Fin 16) (lane : Fin 26) (s : State) : Result :=
  let x := s.landing l
  let bad := x.lane lane
  .next (
    if x.up = false ∨ bad.st ≠ 0 then s
    else
      let s1 := s.modLanding l (fun x => x.modLane lane (fun a => { a with st := 3, logical := 31 }))
      match x.spare with
      | some n => s1.modLanding l (fun x => x.modLane n (fun a => { a with st := 0, logical := bad.logical }))
      | none => (s1.landingDown l).modLanding l (fun x => { x with st := 1 }))

/-- A spare takes over the next logical lane in turn; the released lane is checked (R602). -/
def execLaneSwapTest (l : Fin 16) (s : State) : Result :=
  let x := s.landing l
  let n := x.width
  let old := (List.range 26).find? (fun p => (x.lane p).st == 0 && (x.lane p).logical == x.lastSwap % n)
  .next (
    match x.up, x.spare, old with
    | true, some p, some o =>
      if s.cfg rXLCFG 0 8 = 0 then s
      else s.modLanding l (fun x => { ((x.modLane p (fun a => { a with st := 0, logical := x.lastSwap % n })).modLane o
        (fun a => { a with st := 2, logical := 31 })) with lastSwap := (x.lastSwap + 1) % n })
    | _, _, _ => s)

/-- A released lane's check ends: it becomes a spare or is retired (R602). -/
def execLaneCheckDone (l : Fin 16) (lane : Fin 26) (pass : Bool) (s : State) : Result :=
  .next (
    if ((s.landing l).lane lane).st = 2 then
      s.modLanding l (fun x => x.modLane lane (fun a => { a with st := if pass then 1 else 3 }))
    else s)

/-- Lanes of a landing after training: `good` the lanes that lock, in ascending error ratio. With 24 or more, all but
24 are spares, taken from the lowest error ratios; with 12 to 23, logical lanes 0 to 11 go on the lowest 12 (R601,
R633). -/
def trainedLanes (good : List Nat) (x : Landing) : Landing :=
  let spares := good.take (good.length - 24)
  let carry := (List.range 26).filter (fun p => good.contains p && !spares.contains p)
  let n := if 24 ≤ good.length then 24 else 12
  (List.range 26).foldl (fun x p =>
    x.modLane p (fun a =>
      match (carry.take n).findIdx? (· == p) with
      | some i => { a with st := 0, logical := i }
      | none => if a.st = 3 then { a with logical := 31 } else { a with st := if good.contains p then 1 else 3, logical := 31 })) x

/-- A landing trains: lanes lock, identities are exchanged, sequence numbers restart, outstanding transactions fail, credits are granted, and
the landing comes up, or stays isolated where the neighbour's key differs or its identifier is this module's (R611,
R612, R633). `good` the lanes that lock, in ascending error ratio. -/
def execLandingTrain (l : Fin 16) (peer : BitVec 6) (peerKey : BitVec 16) (peerL : BitVec 4) (good : List (Fin 26)) (s : State) : Result :=
  let x := s.landing l
  let ok := (good.map Fin.val).filter (fun p => (x.lane p).st != 3)
  .next (
    if (s.hub l).retired = true ∨ x.st = 5 ∨ x.up = true ∨ x.vcbl = false then s
    else if ok.length < 12 then s.modLanding l (fun x => { x with st := 0 })
    else
      let s1 := (s.modLanding l (fun x => { (trainedLanes ok x) with
        peer := peer.toNat, peerL := peerL.toNat, seq := 0, exp := 0, ack := 4095, unack := [], txQ := []
        nakOut := false, rxSince := 0, resends := 0, credits := [] })).failLanding l
      if peerKey.toNat ≠ s.boot.dkey ∨ peer.toNat = s.boot.modid then
        (s1.modLanding l (fun x => { x with st := 4 })).bbox l 0x0A none 63 [(24, 1, 1), (25, 2, l), (27, 1, peer.toNat)]
      else (List.range 12).foldl (fun s i => s.sendControl l false (i / 4) (Config.rxBuffers i).toNat)
        (s1.modLanding l (fun x => { x with st := if 24 ≤ ok.length then 2 else 3 })))

/-! ### Cables (20 R733, R734) -/

/-- A crossing cable is inserted; its supply is switched on (R734). -/
def execCblprsFall (l : Fin 16) (s : State) : Result := .next (s.modLanding l (fun x => { x with cable := true, vcbl := true }))

/-- A crossing cable is removed: the landing goes down and the supply is switched off (R734). -/
def execCblprsRise (l : Fin 16) (s : State) : Result :=
  .next ((s.landingDown l).modLanding l (fun x => { x with cable := false, vcbl := false }))

/-- A cable that draws more than 12 W is switched off and its landing goes down (R733). -/
def execCableOvercurrent (l : Fin 16) (s : State) : Result :=
  .next (
    if (s.landing l).vcbl then (s.landingDown l).modLanding l (fun x => { x with vcbl := false }) else s)

end Sys2Proof.Machine
end

