-- ==== Sys2Proof/Machine/Snoop.lean ====
section
/-! DEFINITION. Back-invalidates of shared-class lines, and the device accesses that wait for them: remote requests among them (chapter 14; 16
R618 to R624). -/

namespace Sys2Proof.Machine

/-! ### Back-invalidates (R539 to R541) -/

/-- What a device access to the shared-class line at `sa` waits for: nothing, or a snoop, which this issues with `w` as
the access held (R539). A read snoops a line the host may hold modified; a write snoops every line the directory
names. -/
def State.deviceSnoop (s : State) (sa : Nat) (w : Waiter) : Option State :=
  let t := s.homeOf sa
  match (s.dir t).find? (fun e => e.line == sa / 64) with
  | none => none
  | some e =>
    if e.snoop ≠ 0 then some s
    else if w.write || e.modified then
      some (s.modDir t (fun es => es.map (fun x =>
        if x.line == sa / 64 then { x with snoop := if w.write then 2 else 1, wait := some w } else x)))
    else none

/-! ### Remote requests at the target (16 R618 to R624) -/

/-- Fields of a request's header. -/
structure RemReq where
  mod : Nat
  part : Nat
  lines : Nat
  sp : Bool
  addr : Nat
  deriving DecidableEq, Repr

/-- A request as its header gives it. -/
def remReq (h : BitVec 128) : RemReq :=
  let w := h.toNat
  { mod := field w 14 6, part := field w 20 6, lines := field w 4 3, sp := flag w 100, addr := field w 52 48 }

/-- Service addresses of the lines of a request with SP 1. -/
def RemReq.sas (r : RemReq) : List Nat := (List.range r.lines).map (fun i => r.addr / 64 * 64 + 64 * i)

/-- Tile of a scratchpad request (R618). -/
def RemReq.tile (r : RemReq) : Nat := field r.addr 0 4
/-- Scratchpad address of a scratchpad request (R618). -/
def RemReq.sp0 (r : RemReq) : Nat := field r.addr 4 27 / 64 * 64

/-- The first snoop that a request's shared-class lines need, if any, now outstanding; the lines in `bad` have been given up (14 R539,
R541). -/
def State.remSnoop (s : State) (h : BitVec 128) (land : Nat) (r : RemReq) (write : Bool) (p : Nat) (data : List (BitVec 512)) (bad : List Nat) :
    Option State :=
  r.sas.findSome? (fun a =>
    if (s.slot (a / slotBytes)).cls = .shared ∧ ¬ (write = true ∧ a % slotBytes < 0x10000) ∧ a / 64 ∉ bad then
      s.deviceSnoop a { write := write, part := some p, remote := some (land, h, data, bad) }
    else none)

/-- The lines of a request that the banks serve: neither shared-class nor lost with their parcel. -/
def State.remLines (s : State) (r : RemReq) : List Nat :=
  r.sas.filter (fun a => (s.slot (a / slotBytes)).cls != .shared && !(s.slot (a / slotBytes)).dead)

/-- The channels of those lines. -/
def State.remChans (s : State) (r : RemReq) : List Nat := (s.remLines r).map (fun a => chanOfBank (s.locate a).moduleBank)

/-- An admitted read request of partition `p` served: its lines taken from the line caches, the queues and the banks, or from a scratchpad. It
waits while a channel that it reads from grants the landings nothing, or a snoop is out (R620, R621, R624; 04 R119, R125; 14 R541). -/
def State.remoteRead (s : State) (land : Nat) (hdr : BitVec 128) (bad : List Nat) (p : Nat) : State :=
  let r := remReq hdr
  if r.sp then
    match s.remSnoop hdr land r false p [] bad with
    | some s1 => s1
    | none =>
      if (s.remLines r).all (fun a => s.canRead 5 a) = false then s
      else
        let s0 := (s.remChans r).eraseDups.foldl (fun s ch => s.countGrant ch 5) s
        let x := r.sas.foldl (fun (x : State × List (Line512 × Bool)) a =>
          if a / 64 ∈ bad then (x.1, x.2 ++ [(0, true)])
          else
            let y := x.1.deviceRead 5 9 (some p) a
            (y.2, x.2 ++ [y.1])) ((s0.freeRx land hdr 0).readMesh land (s.homeOf r.addr) r.lines, [])
        let pois := (List.range x.2.length).foldl (fun n i => n + nat ((x.2.getD i (0, false)).2) * 2 ^ i) 0
        x.1.reply hdr 4 r.lines (if pois = 0 then 0 else 2) pois (x.2.flatMap (fun l => lineBytes l.1))
  else
    let ls := (List.range r.lines).map (fun i => (s.spRead r.tile (r.sp0 + 64 * i) 64, s.spPoisoned r.tile (r.sp0 + 64 * i) 64))
    let pois := (List.range ls.length).foldl (fun n i => n + nat ((ls.getD i ([], false)).2) * 2 ^ i) 0
    ((s.freeRx land hdr 0).readMesh land r.tile r.lines).reply hdr 4 r.lines (if pois = 0 then 0 else 2) pois (ls.flatMap (fun l => l.1))

/-- One line of an admitted remote write performed: a flag held, a line cache written, a write queued, or a failed line
reported (R621 to R623; 14 R548, R549). -/
def State.remWriteLine (s : State) (land p : Nat) (h : BitVec 128) (sa : Nat) (d : Line512) (pois : Bool) : State :=
  let x := s.slot (sa / slotBytes)
  let k := streamKey (4 + land) (some p)
  if x.cls = .shared then
    if sa % slotBytes < 0x10000 then
      s.modStream k (fun t => { t with
        flags := t.flags ++ [{ epoch := t.epoch, wait := t.open_, failed := t.failed || pois, sa := sa, data := d, mask := BitVec.allOnes 64 }]
        epoch := t.epoch + 1, open_ := 0, failed := false })
    else if (s.stream k).flags = [] then s.homeWrite sa d (BitVec.allOnes 64) pois
    else s.modStream k (fun t => t.hold sa d (BitVec.allOnes 64) pois)
  else if x.dead then
    (s.modStream k (fun t => { t with failed := true })).reportFail { addr := sa, hdr := some h } k
  else s.acceptWrite 5 (4 + land) (some p) sa d (BitVec.allOnes 64) pois none (some h)

/-- Every channel that a request writes to has room for all of its lines (04 R120). -/
def State.remRoom (s : State) (r : RemReq) : Bool :=
  let chs := s.remChans r
  chs.all (fun ch => s.hasRoom ch true && decide ((s.chan ch).writeQ.length + (chs.filter (· == ch)).length ≤ 64))

/-- An admitted write request of partition `p` performed and acknowledged; it waits for room in the write queues, or for a snoop, and the
lines whose snoop timed out are discarded (R620 to R623; 14 R541). -/
def State.remoteWrite (s : State) (land : Nat) (hdr : BitVec 128) (data : List (BitVec 512)) (bad : List Nat) (p : Nat) : State :=
  let r := remReq hdr
  let pois (i : Nat) : Bool := flag hdr.toNat (105 + i)
  if r.sp then
    match s.remSnoop hdr land r true p data bad with
    | some s1 => s1
    | none =>
      if s.remRoom r then
        let s1 := (r.sas.zipIdx).foldl (fun s a => if a.1 / 64 ∈ bad then s else s.remWriteLine land p hdr a.1 (data.getD a.2 0) (pois a.2))
          ((s.freeRx land hdr (64 * r.lines)).viaMesh land (s.homeOf r.addr) r.lines)
        s1.reply hdr 5 0 0 0 []
      else s
  else
    let s1 := (List.range r.lines).foldl (fun s i => s.spWrite r.tile (r.sp0 + 64 * i) (lineBytes (data.getD i 0)) (pois i)) ((s.freeRx land hdr (64 * r.lines)).viaMesh land r.tile r.lines)
    s1.reply hdr 5 0 0 0 []

/-- The access that a snoop held goes ahead at the home; `bad` are the lines of a remote request whose snoops have timed out (14 R539 to
R541). -/
def State.release (s : State) (w : Waiter) (bad : List Nat) : State :=
  match w.ferry, w.host, w.remote with
  | some f, _, _ => s.modFchan (16 * f.1 + f.2) (fun c => { c with biWait := false })
  | none, some h, _ => s.sharedHostRead h.1 (h.2.1 * 64) h.2.2
  | none, none, some q => if w.write then s.remoteWrite q.1 q.2.1 q.2.2.1 bad (w.part.getD 0) else s.remoteRead q.1 q.2.1 bad (w.part.getD 0)
  | none, none, none => s

end Sys2Proof.Machine
end

