-- ==== Sys2Proof/Machine/Recover.lean ====
section
/-! DEFINITION. Preservation, unbinding, partition reset, slot clears, host-port loss and the retirement of a tile
(chapters 15 and 18). -/

namespace Sys2Proof.Machine

/-! ### Reports of a partition's own function -/

/-- An MSI-X vector raised by a function (15 R568). -/
def State.raiseVec (s : State) (k vec : Nat) : State :=
  if k % 17 = 0 then s else (s.putOut { s.out with msix := (k / 17, k % 17, vec) :: s.out.msix })

/-- State of a partition changed, with vector 3 of its VF (15 R568). -/
def State.setPartState (s : State) (p : Nat) (st : PartState) : State :=
  let s1 := s.modPart p (fun q => { q with st := st })
  if (s.part p).st = st then s1 else s1.raiseVec (s.pageOfPart p) 3

/-- SUSTAT.ERR changed, with vector 3 of the VF (15 R567, R568). -/
def State.setErr (s : State) (k e : Nat) : State :=
  let s1 := s.modPage k (fun p => { p with err := e })
  if (s.page k).err = e then s1 else s1.raiseVec k 3

/-! ### Slots and windows -/

/-- Every port read buffer drops the lines of a partition's slots (14 R534). -/
def State.dropBuffers (s : State) (p : Nat) : State :=
  let keep (e : Nat × (BitVec 512 × Bool)) : Bool := (s.slot (e.1 * 64 / slotBytes)).owner != some p
  (s.putPorts (Tab.updMany (fun _ => {}) (fun h : Port => { h with prb := h.prb.filter keep }) (List.range 4) s.ports))

/-- The shared-class lines of a partition written back (14 R543). -/
def State.writeBackPart (s : State) (p : Nat) : State :=
  ((s.slotsOf p).filter (fun i => (s.slot i).cls == .shared)).foldl State.writeBackSlot s

/-- Every byte of `size` MiB of a tile's scratchpad from MiB `base` on back at zero, unpoisoned (10 R390). -/
def State.zeroWindow (s : State) (t base size : Nat) : State :=
  ((s.putSp (Tab.clear s.sp (t * 2 ^ 27 + base * 2 ^ 20) (t * 2 ^ 27 + (base + size) * 2 ^ 20))).putSpPois (Tab.clear s.spPois (t * 2 ^ 21 + base * 2 ^ 14) (t * 2 ^ 21 + (base + size) * 2 ^ 14)))

/-- Panel registers at +0, masks at zero, poison bits and exception flags clear (09 R341, R380). -/
def State.clearVfile (s : State) (c : Nat) : State := s.modVfile c (fun _ => {})

/-- A handle changed. -/
def Part.modHandle (p : Part) (h : Nat) (f : Handle → Handle) : Part := { p with handles := Tab.upd (fun _ => {}) p.handles h f }

/-- A handle of a partition. -/
def Part.handle (p : Part) (h : Nat) : Handle := Tab.get (fun _ => {}) p.handles h

/-- Context `c` unbound: its handle back to ready, its window to be cleared (12 R493, R498; 10 R390). -/
def State.unbindCtx (s : State) (c : Nat) : State :=
  let x := s.ctx c
  if x.st = .unbound then s
  else
    let s1 := match x.part, x.handle with
      | some p, some h => s.modPart p (fun q => q.modHandle h (fun e => { e with st := .ready, ctx := none }))
      | _, _ => s
    s1.modCtx c (fun x => { part := x.part, winBase := x.winBase, winSize := x.winSize, winClear := decide (0 < x.winSize), binding := x.binding, unbinding := x.unbinding, ginst := x.ginst })

/-- The zeroing of a window ends: CLEARING drops, and an UNBIND that waited for it completes (10 R390; 15 R580). -/
def execWindowClearDone (c : Fin 64) (s : State) : Result :=
  let x := s.ctx c
  .next (
    if x.winClear then
      let s1 := (s.zeroWindow (tileOfCtx c) x.winBase x.winSize).modCtx c (fun x => { x with
        winClear := false, unbinding := none, winBase := if x.st = .unbound then 0 else x.winBase, winSize := if x.st = .unbound then 0 else x.winSize })
      match x.unbinding with
      | some r => s1.complete r { ctx := BitVec.ofNat 6 c }
      | none => s1
    else s)

/-! ### Partition reset (15 R582 to R584) -/

/-- Step 1: state RESETTING, fetching stops, descriptors in flight abandoned (R582). -/
def State.beginReset (s : State) (p : Nat) (keep destroy : Bool) (desc : Option DescRef) : State :=
  let k := s.pageOfPart p
  let homeless := decide ((s.part p).st = .homeless)
  let s1 := (s.setPartState p .resetting).modPart p (fun q => { q with
    reset := some { keep := keep, desc := desc }, destroy := destroy, held := [], token := 0, cause := 0, lostN := 0 })
  let mine (r : DescRef) : Bool := r.page == k && !homeless
  let drop (o : Option DescRef) : Option DescRef := match o with | some r => if mine r then none else some r | none => none
  let s2 := if homeless then s1 else s1.modPage k (fun g => { g with fetched := [] })
  let s3 := (s.ctxsOf p).foldl (fun s c => s.modCtx c (fun x => { x with start := none, binding := none, unbinding := none })) s2
  let cut (_ : Nat) (f : FeChan) : FeChan := { f with
    cur := f.cur.map (fun x => { x with copy := drop x.copy }), queue := f.queue.map (fun x => { x with copy := drop x.copy }) }
  ((s3.putFe (Tab.mapAll (fun _ => {}) cut s3.fe)).putSlots (Tab.mapAll (slotDefault s.half) (fun _ x => { x with codeDesc := drop x.codeDesc, slotDesc := drop x.slotDesc }) s3.slots))

/-- Step 2: every context of the partition halts, its engines stop, and its translations are abandoned (R582; 12 R502). -/
def State.resetHalts (s : State) (p : Nat) : State :=
  let s1 := (s.ctxsOf p).foldl (fun s c =>
    if (s.ctx c).live then s.halt c 0x38 15 (s.ctx c).next else s.stopEngines c) s
  let other (j : LoadJob) : Bool := j.part != p
  let cut (_ : Nat) (t : Translator) : Translator := { t with
    queue := t.queue.filter other, heldLoads := t.heldLoads.filter other
    run := match t.run with | some j => if other j then some j else none | none => none }
  (s1.putTrans (Tab.mapAll (fun _ => {}) cut s1.trans))

/-- Handles after a reset: with KEEP, those ready or bound are ready; otherwise, and where translating, empty (R582;
12 R502). -/
def keepHandle (keep : Bool) (_ : Nat) (h : Handle) : Handle :=
  if keep = true ∧ (h.st = .ready ∨ h.st = .bound) then { h with st := .ready, ctx := none } else {}

/-- A destroyed partition whose clears have ended becomes FREE, and its PDESTROY completes (R582). -/
def State.finishDestroy (s : State) (p : Nat) : State :=
  if (s.part p).destroy ∧ (s.part p).st = .resetting ∧ (s.slotsOf p) = [] then
    let job := (s.part p).reset
    let s1 := (s.setPartState p .free).modPart p (fun _ => {})
    match job.bind (fun j => j.desc) with
    | some r => s1.complete r {}
    | none => s1
  else s

/-- Steps 4 to 8 of a partition reset (R582). -/
def State.finishReset (s : State) (p : Nat) (job : ResetJob) (destroy : Bool) : State :=
  let k := s.pageOfPart p
  let s1 := (s.writeBackPart p).dropBuffers p
  let s2 := (s.ctxsOf p).foldl (fun s c => (s.unbindCtx c).clearVfile c) s1
  let s3 := s2.modPart p (fun q => { q with h2dack := [], h2d := [], d2hcnt := [], handles := Tab.mapAll (fun _ => {}) (keepHandle job.keep) q.handles })
  let s4 := if destroy then s3 else match job.desc with
    | some r => s3.completeNow r {}
    | none => s3
  let s5 := (s4.modPage k (fun g => { g with en := false })).modPart p (fun q => { q with reset := if destroy then q.reset else none })
  let s6 := if job.keep then s5
    else (s5.slotsOf p).foldl (fun s i => s.modSlot i (fun x => { x with clearing := true, release := x.release || destroy })) s5
  if destroy then
    let s7 := (s6.ctxsOf p).foldl (fun s c => s.modCtx c (fun x => { x with part := none })) s6
    s7.finishDestroy p
  else s6.setPartState p .active

/-- The management core's work on a partition reset: its contexts halt; once every write of the partition to host
memory is globally observed or has failed, the rest follows (R582). -/
def execPartitionReset (p : Fin 64) (s : State) : Result :=
  .next (
    match (s.part p).st, (s.part p).reset with
    | .resetting, some job =>
      let s1 := s.resetHalts p
      if s1.out.inflight.any (fun w => w.part == some p.val) then s1
      else if (s.part p).destroy ∧ (s.page (s.pageOfPart p)).en = false ∧ (s.ctxsOf p) = [] ∧ (s.slotsOf p).any (fun i => (s.slot i).clearing) then s
      else s1.finishReset p job (s.part p).destroy
    | _, _ => s)

/-- A VF function-level reset begins a partition reset with KEEP from KEEPFLR (R582). -/
def execFunctionLevelReset (p : Fin 4) (vf : Fin 16) (s : State) : Result :=
  .next (
    match s.partOfPage (17 * p + vf + 1) with
    | some q => if (s.part q).st = .resetting ∨ (s.hport p).gone then s else s.beginReset q (s.part q).keepflr false none
    | none => s)

/-! ### Slot clears (15 R584 to R586) -/

/-- A tile begins clearing a slot when it clears no other (R584). -/
def execSlotClear (slot : Fin 7168) (s : State) : Result :=
  let x := s.slot slot
  let t := x.phys / 512
  .next (
    if x.clearing = true ∧ x.clearBusy = false ∧ (s.hub t).clear = none then
      (s.modSlot slot (fun x => { x with clearBusy := true })).modHub t (fun h => { h with clear := some slot.val })
    else s)

/-- A slot freed (R586). -/
def Slot.freed (x : Slot) : Slot := { x with owner := none, cls := .bulk, codeReq := none, release := false, lost := false }

/-- A slot's clear ends: every line reads zero unpoisoned, each row at the slot's strength; a released slot is freed,
the descriptor that waited completes, with it a CODE whose re-encode the clear ends, and a destroyed partition whose last clear this is becomes
FREE (R582, R584; 03 R110, R111). -/
def execSlotClearDone (slot : Fin 7168) (s : State) : Result :=
  let x := s.slot slot
  .next (
    if x.clearBusy then
      let s0 := (s.overwrite x.phys).putLines (s.lines.filter (fun e => e.1 * 64 / slotBytes != slot.val))
      let s1 := match x.moveTo with | some q => (s0.clearParcel x.phys).clearParcel q | none => s0.clearParcel x.phys
      let s2 := s1.modHub (x.phys / 512) (fun h => { h with clear := none })
      let s3 := s2.modSlot slot (fun x =>
        let y := { x with clearing := false, clearBusy := false, slotDesc := none, codeDesc := none, reenc := none }
        if x.release then y.freed else y)
      let s3 := s3.modSlot slot (fun x => { x with code := s3.strengthFor slot })
      let s4 := (x.slotDesc.toList ++ x.codeDesc.toList).foldl (fun s r => s.complete r {}) s3
      match x.owner with
      | some p => if x.release then s4.finishDestroy p else s4
      | none => s4
    else s)

/-! ### Preservation (18 R673 to R681) -/

/-- The token of partition `p` from the numbers drawn; a token is never zero (18 R678). -/
def tokenOf (ts : List (BitVec 64)) (p : Nat) : BitVec 64 :=
  let w := ts.getD p 1#64
  if w = 0 then 1#64 else w

/-- Entry of a partition to PRESERVED (18 R674, R678). -/
def State.preserve (s : State) (p cause : Nat) (ts : List (BitVec 64)) : State :=
  let k := s.pageOfPart p
  let s1 := s.modPage k (fun g => { g with en := false, fetched := g.fetched.filter (fun d => d.started) })
  let s2 := (s.ctxsOf p).foldl (fun s c => s.modCtx c (fun x => if x.st = .running then { x with st := .preserved } else x)) s1
  ((s2.writeBackPart p).setPartState p .preserved).modPart p (fun q => { q with token := tokenOf ts p, cause := cause, lostN := 0 })

/-- ACTIVE partitions whose VF lies on a port. -/
def State.partsOn (s : State) (port : Nat) : List Nat :=
  (List.range 64).filter (fun p => (s.part p).st == .active && (s.part p).port == port)

/-- The port that serves a service address (02 R48). -/
def State.portOfSa (s : State) (sa : Nat) : Option Nat :=
  (List.range 4).find? (fun p => (s.hport p).commit && sa / granuleOf (s.hport p).ig % max 1 (waysOf (s.hport p).iw) == s.hilPos p)

/-- Directory entries of lines served through a port dropped; accesses that waited on them go ahead (18 R677). -/
def State.dropDirs (s : State) (port : Nat) : State :=
  (List.range 16).foldl (fun s t =>
    let gone := (s.dir t).filter (fun e => s.portOfSa (e.line * 64) == some port)
    let s1 := s.modDir t (fun es => es.filter (fun e => s.portOfSa (e.line * 64) != some port))
    gone.foldl (fun s e => match e.wait with | some w => s.release w (match w.remote with | some q => q.2.2.2 | none => []) | none => s) s1) s

/-- A port goes down: its device writes in flight fail, its read buffer and directory entries drop (18 R676, R677). -/
def State.portDown (s : State) (p : Nat) : State :=
  let s1 := s.modHport p (fun h => { h with speed := 0, width := 0, flit := false, cache := false, mem := false, prb := [], lastRead := 0 })
  let s2 := (s1.out.inflight.filter (fun w => w.port == p)).foldl (fun s w =>
    match s.out.inflight.find? (fun v => v.id == w.id) with
    | some v =>
      let s1 := s.hostDone v false
      match v.fe with
      | some f => s1.modFchan (16 * f.1 + f.2) (fun c => { c with posted := c.posted - 1 })
      | none => s1
    | none => s) s1
  s2.dropDirs p

/-- A host link goes down (18 R673, R676, R677). -/
def execPortLinkDown (p : Fin 4) (tokens : List (BitVec 64)) (s : State) : Result :=
  .next (
    if (s.hport p).speed = 0 then s
    else (s.partsOn p).foldl (fun s q => s.preserve q 1 tokens) (s.portDown p))

/-- A hot reset (kind 0), a link disable (1) or a function-level reset of the PF (2) of a port (18 R673). -/
def State.hotReset (s : State) (p kind : Nat) (tokens : List (BitVec 64)) : State :=
  if (s.hport p).gone then s
  else (s.partsOn p).foldl (fun s q => s.preserve q 2 tokens) (if kind = 2 then s else s.portDown p)

/-- A hot reset, link disable or PF function-level reset of a port (18 R673). -/
def execHotReset (p : Fin 4) (kind : Fin 3) (tokens : List (BitVec 64)) (s : State) : Result := .next (s.hotReset p kind tokens)

/-- PERST# resets only its port, taken as a hot reset; its contact is high-impedance, so nothing happens, while the always-on rail is
down (20 R729, R738). -/
def execPerstAssert (p : Fin 4) (tokens : List (BitVec 64)) (s : State) : Result :=
  .next (if s.power.on then (s.modHport p (fun h => { h with perst := true })).hotReset p 0 tokens else s)

/-- A host port's link comes up at a speed code 1 to 4 and a width of 4, 8 or 16 lanes (14 R523, R558; 18 R666). -/
def execPortLinkUp (p : Fin 4) (speed : Fin 4) (width : Fin 3) (flit cache mem : Bool) (s : State) : Result :=
  .next (
    if (s.hport p).gone = true ∨ s.boot.phase ≠ 15 ∨ s.power.failed = true ∨ (s.hport p).speed ≠ 0 then s
    else s.modHport p (fun h => { h with
      speed := speed + 1, width := 4 * 2 ^ width.val, flit := flit, cache := cache, mem := mem, perst := false }))

/-! ### Loss of a tile (18 R698 to R701) -/

/-- Every line of a parcel stored poisoned (18 R700; 03 R91). -/
def State.poisonParcel (s : State) (p : Nat) : State :=
  (List.range 4608).foldl (fun s b => (List.range 128).foldl (fun s r => (List.range 32).foldl (fun s i =>
    s.poisonLine (lineKey (p / 512 * 4608 + b) (p % 512 * 128 + r) i)) s) s) s

/-- One slot of a retired tile moved to the reserve, with its contents where they can be read, otherwise poisoned; with
no free reserve parcel it stays, which is logged as spare exhausted (18 R700, R701; 03 R114). -/
def State.evacuate (s : State) (readable : Bool) (i : Nat) : State :=
  let x := s.slot i
  match s.moveTarget (x.phys / 512) with
  | none => (s.modSlot i (fun x => { x with dead := true, moveTo := none })).logError (parcelLine x.phys) 127 0x0C 8 0 none 0
  | some q =>
    let s1 := (s.writeBackSlot i).modSlot i (fun x => { x with moveTo := some q })
    if readable then (s1.copyParcel x.phys q).flipSlot i
    else
      let s2 := ((s1.clearParcel q).poisonParcel q).flipSlot i
      s2.eventOwner i 2 [(16, 2, 0), (18, 1, 3), (20, 2, i)]

/-- Hubs not retired. -/
def State.liveTiles (s : State) : List Nat := (List.range 16).filter (fun t => !(s.hub t).retired)

/-- The lowest-numbered surviving host-port tile (18 R667, R699). -/
def State.nextLead (s : State) : Nat := (([0, 4, 8, 12].find? (fun t => !(s.hub t).retired)).getD s.boot.lead)

/-- A host port goes with its tile; the partitions whose VF lay on it become HOMELESS (14 R527; 15 R562). Whether a port lost with its tile counts
as uncommitted under 02 R50 the spec does not say: here its own COMMIT and AGREE clear and AGREE of the other ports stays (DESIGN CHOICE, log
entry 93). -/
def State.losePort (s : State) (p : Nat) : State :=
  let s1 := (s.portDown p).modHport p (fun h => { h with gone := true, commit := false, agree := false })
  let lost := (List.range 64).filter (fun q => (s.part q).st != .free && (s.part q).st != .homeless && (s.part q).port == p)
  lost.foldl (fun s q =>
    let k := s.pageOfPart q
    let s2 := (s.ctxsOf q).foldl (fun s c => s.halt c 0x13 15 (s.ctx c).next) s
    (s2.modPage k (fun _ => {})).modPart q (fun e => { e with st := .homeless, token := 0, held := [], rehome := false })) s1

/-- A tile retired for good (18 R698 to R701): `cause` 0 bank, 1 training, 2 self-test, 3 converter, 4 logic; `readable`
says every stack of it can still be read. -/
def State.retireTile (s : State) (t cause : Nat) (readable : Bool) : State :=
  if (s.hub t).retired then s
  else
    let cs := (List.range 4).map (fun q => 4 * t + q)
    let owners := (cs.filterMap (fun c => (s.ctx c).part)).eraseDups
    let slots := s.slotsOn t
    let s0 := s.bbox t 0x0C none 63 [(24, 1, t), (25, 1, cause)]
    let s1 := cs.foldl (fun s c => s.halt c 0x13 15 (s.ctx c).next) s0
    let s2 := owners.foldl (fun s p => s.event p 6 [(16, 1, t), (17, 1, 0)]) s1
    let s3 := cs.foldl (fun s c => (s.unbindCtx c).modCtx c (fun _ => {})) s2
    let s4 := ((s3.modHub t (fun h => { h with retired := true })).landingDown t).noteCover s.covered
    let s5 := if t % 4 = 0 then s4.losePort (t / 4) else s4
    let s6 := if s5.boot.lead = t then (s5.putBoot { s5.boot with lead := s5.nextLead }) else s5
    slots.foldl (fun s i => s.evacuate (readable && ((List.range 6).all (fun k => !(s6.stack (6 * t + k)).down))) i) s6

/-- A tile is retired permanently (18 R698). -/
def execTileRetire (t : Fin 16) (cause : Fin 5) (readable : Bool) (s : State) : Result := .next (s.retireTile t cause readable)

/-- Engine cycles of one hour and of one second (0.625 ns each). -/
def hourCycles : Nat := 5760000000000
/-- Engine cycles of one second. -/
def secondCycles : Nat := 1600000000

/-- A hub reports an uncorrectable logic fault; a second within one hour retires its tile (18 R698). -/
def execHubLogicFault (t : Fin 16) (s : State) : Result :=
  let recent := (s.hub t).logicAt.filter (fun a => decide (s.cyc < a + hourCycles))
  .next (
    if (s.hub t).retired then s
    else
      let s1 := s.modHub t (fun h => { h with logicAt := s.cyc :: recent })
      if recent ≠ [] then s1.retireTile t 4 true else s1)

/-- A channel's re-centring (04 R155 to R159): `runs` is what the sweep around the centres finds on the 17 lanes in both directions; a run
below MINEYE or a move past MAXMOVE brings a full sweep, as sixteen command errors do (R162), which finds `sweeps`, failing lanes swept
again. A full sweep with a run below MINEYE marks the stack failed, the channel keeps its settings, and the stack's tile is retired
(R154, R157; 18 R698). A channel whose ranks are all in self-refresh waits for its next wake, one in near-bank mode for its next yield
point (R155, R158). Every run found below WARNEYE is recorded (R159). -/
def execRecentre (ch : Fin 1536) (runs : Sweep) (sweeps : List Sweep) (s : State) : Result :=
  let c := s.chan ch
  let mineye := s.inForce 0 rTRNCFG 8 6
  let full := c.sweepDue || decide (narrowest runs < mineye) || decide (s.inForce 0 rTRNCFG 20 4 < c.farthest runs)
  let res := if full then trained mineye sweeps else runs
  let lost := full && decide (narrowest res < mineye)
  .next (
    if (List.range 24).all (fun r => c.rank r == .selfRefresh) then s.modChan ch (fun c => { c with recentreDue := true })
    else if c.mode = .nearBank ∧ c.yield = false then s.modChan ch (fun c => { c with recentreDue := true })
    else
      let s1 := (s.modChan ch (fun c => if lost then { c with recentreDue := false, sweepDue := false } else c.tuned res s.cyc)).noteEye ch
        (runs :: (if full then sweeps.take 4 else []))
      if lost then (s1.modStack (ch.val / 16) (fun k => { k with down := true })).retireTile (tileOfChan ch) 1 false else s1)

/-- The mesh switch of a retired tile fails: routes avoid it, and its black box is out of reach (01 R30; 19 R720). -/
def execMeshSwitchFailure (t : Fin 16) (s : State) : Result :=
  .next (
    if (s.hub t).retired then s.modHub t (fun h => { h with meshDown := true, bb := { h.bb with gone := true } }) else s)

end Sys2Proof.Machine
end

