-- ==== Sys2Proof/Machine/Rings.lean ====
section
/-! DEFINITION. Set-up pages, doorbells, the fetch of descriptors and the descriptors that no engine performs
(chapter 15, 12 R495 to R499, 18 R682). -/

namespace Sys2Proof.Machine

/-! ### Clock-degraded events (17 R647) -/

/-- The lead tile's host-port reference clock drives the fallback reference (17 R642). -/
def State.hostRef (s : State) : Bool :=
  flag (s.reg 0 rCLKCFG) 0 && (s.hport (s.boot.lead / 4)).speed != 0

/-- Payload of a clock-degraded event (17 R647). -/
def State.clockPayload (s : State) (reason t : Nat) : List (Nat × Nat × Nat) :=
  [(16, 1, reason), (17, 1, t), (18, 1, if s.hostRef then 2 else 1)]

/-! ### Set-up and the doorbell line -/

/-- Watched lines of a page: the doorbell, and the mailbox slots in host memory (R596). -/
def Page.watched (p : Page) : Nat := if flag p.mbxcfg.toNat 0 then 9 else 1

/-- Watched lines that the enabled pages of a port hold (R596). -/
def State.watchedOn (s : State) (port : Nat) : Nat :=
  ((List.range 17).map (fun i => let g := s.page (17 * port + i); if g.en then g.watched else 0)).sum

/-- A size field outside 4 to 16, or an address register other than MBXH2D at zero (R567). An admin ring has no
MBXD2H (R597). -/
def Page.badSetup (p : Page) (admin : Bool) : Bool :=
  [p.sqsz, p.cqsz, p.eqsz].any (fun n => decide (n < 4) || decide (16 < n)) ||
  [p.sqbase, p.cqbase, p.eqbase, p.dbaddr, p.rcaddr].any (fun a => a == 0) || (!admin && p.mbxd2h == 0)

/-- The rings at indices zero (R567). -/
def Page.started (p : Page) : Page := { p with
  en := true, err := 0, sqhead := 0, sqtail := 0, cqtail := 0, cqhead := 0, eqtail := 0, eqhead := 0, evlost := 0
  evseq := 0, rereads := List.range p.watched }

/-- Held completions of an ACTIVE partition written on the rings that now run (R574). -/
def State.writeHeld (s : State) (k p : Nat) : State :=
  (s.part p).held.foldl (fun s c => s.writeCompletion k c) (s.modPart p (fun q => { q with held := [] }))

/-- What a partition is told when its rings start: re-homed first, then clock degraded since start-up (R562;
17 R637). -/
def State.firstEvents (s : State) (k : Nat) : State :=
  let s1 := match s.partOfPage k with
    | some p => if (s.part p).rehome then
        (s.modPart p (fun q => { q with rehome := false })).eventOn k 0x0B [(16, 1, k / 17), (17, 1, k % 17 - 1)]
      else s
    | none => s
  let s2 := match s.boot.clockLate with
    | some t => if (s1.page k).told then s1
      else (s1.modPage k (fun g => { g with told := true })).eventOn k 7 (s1.clockPayload 4 t)
    | none => s1
  match s.partOfPage k with
  | some p => if (s.part p).st = .active then s2.writeHeld k p else s2
  | none => s2

/-- A write of SUCTL: EN starts the rings at index zero or is refused; clearing it stops them (R567, R596). -/
def execSuctlWrite (page : Fin 68) (value : BitVec 32) (s : State) : Result :=
  let k := page.val
  let g := s.page k
  let here := decide (k % 17 = 0) || (s.partOfPage k).isSome
  .next (
    if here = false ∨ (s.hport (k / 17)).gone = true then s
    else if value.getLsbD 0 = false then s.modPage k (fun g => { g with en := false, rereads := [] })
    else if g.en then s
    else if g.badSetup (decide (k % 17 = 0)) then s.setErr k 2
    else if 1024 < s.watchedOn (k / 17) + g.watched then s.setErr k 3
    else
      let s1 := (s.setErr k 0).modPage k Page.started
      let s2 := match s.partOfPage k with
        | some p => s1.modPart p (fun q => { q with d2hcnt := [] })
        | none => s1
      (if s.controlLine k = s2.controlLine k then s2 else s2.writeControl k).firstEvents k)

/-- The hub takes doorbell stores and messages of a page: its rings run, and its partition is not in RESETTING
(R566, R582). -/
def State.ringLive (s : State) (k : Nat) : Bool :=
  (s.page k).en && (match s.partOfPage k with | some p => (s.part p).st != .resetting | none => true)

/-- A host store to a watched line (0: doorbell, k + 1: mailbox slot k): the hub gives the line up and reads it again; a
store during a read causes another one (14 R545; R571). -/
def execSnpinv (page : Fin 68) (line : Fin 9) (s : State) : Result :=
  let g := s.page page
  .next (
    if s.ringLive page = true ∧ line.val < g.watched ∧ g.rereads.count line.val < 2 then
      s.modPage page (fun g => { g with rereads := g.rereads ++ [line.val] })
    else s)

/-- The read of a watched line completes: the doorbell's tail and heads, or a mailbox slot, are taken; a tail too far
ahead is a ring error (R570, R571, R591). -/
def execWatchedLineRead (page : Fin 68) (line : Fin 9) (data : BitVec 512) (s : State) : Result :=
  let k := page.val
  let g := s.page k
  .next (
    if s.ringLive k = true ∧ line.val ∈ g.rereads then
      let s1 := s.modPage k (fun g => { g with rereads := g.rereads.erase line.val })
      if line.val = 0 then
        let tail := data.toNat % 2 ^ 32
        let s2 := s1.modPage k (fun g => { g with
          sqtail := BitVec.ofNat 32 tail
          cqhead := BitVec.ofNat 32 (field data.toNat 32 32), eqhead := BitVec.ofNat 32 (field data.toNat 64 32) })
        if 2 ^ g.sqsz < (tail + 2 ^ 32 - g.sqhead.toNat) % 2 ^ 32 ∧ g.err ≠ 1 then
          (s2.setErr k 1).eventOn k 0x0C [(16, 4, tail), (20, 4, g.sqhead.toNat)]
        else s2
      else match s.partOfPage k with
        | some p => s1.modPart p (fun q => { q with h2d := Tab.set (fun _ => 0) q.h2d (line.val - 1) data })
        | none => s1
    else s)

/-! ### Descriptors (R573 to R580) -/

/-- Bits [lo + n - 1 : lo] of a descriptor. -/
def Desc.f (d : Desc) (lo n : Nat) : Nat := field d.data.toNat lo n
/-- OP. -/
def Desc.op (d : Desc) : Nat := d.f 0 8
/-- FENCE. -/
def Desc.fenced (d : Desc) : Bool := d.f 8 1 == 1
/-- CTX. -/
def Desc.ctx (d : Desc) : Nat := d.f 64 6
/-- PART. -/
def Desc.part (d : Desc) : Nat := d.f 64 6
/-- HANDLE. -/
def Desc.handle (d : Desc) : Nat := d.f 72 6
/-- Where the descriptor's completion goes. -/
def Desc.ref (d : Desc) (k : Nat) : DescRef := { page := k, serial := d.serial, tag := BitVec.ofNat 32 (d.f 32 32), irq := d.f 9 1 == 1 }

/-- Fields of bytes 8 to 63 that R580 assigns to an operation: lowest bit and width; none where OP is undefined. -/
def descFields (op : Nat) : Option (List (Nat × Nat)) :=
  match op with
  | 0x01 => some [(64, 6), (128, 256)]
  | 0x02 => some [(64, 6)]
  | 0x03 => some [(72, 6), (80, 1), (128, 256)]
  | 0x04 => some [(64, 6), (72, 6), (80, 8)]
  | 0x05 => some [(64, 6)]
  | 0x06 => some [(72, 6)]
  | 0x07 => some [(64, 6), (72, 2), (80, 4), (128, 192)]
  | 0x08 => some []
  | 0x09 => some [(64, 13), (80, 3)]
  | 0x0A => some []
  | 0x0B => some [(64, 1)]
  | 0x0C => some [(128, 64)]
  | 0x20 => some [(64, 6), (72, 2), (79, 1), (80, 4), (88, 1)]
  | 0x21 => some [(64, 6)]
  | 0x22 => some [(64, 6), (96, 13), (112, 2), (120, 1)]
  | 0x23 => some [(64, 6), (72, 6), (120, 1)]
  | 0x24 => some [(64, 6), (72, 2), (80, 4)]
  | _ => none

/-- The bits of a descriptor that some field covers: OP, the two flags and TAG of R579, and those of R580. -/
def descMask (fs : List (Nat × Nat)) : Nat :=
  fs.foldl (fun m f => m ||| ((2 ^ f.2 - 1) <<< f.1)) (0x3FF + 0xFFFFFFFF * 2 ^ 32)

/-- Context a descriptor names, if any (R580). -/
def Desc.names (d : Desc) : Option Nat := if d.op ∈ [1, 2, 4, 5, 7] then some d.ctx else none

/-- The refusal a descriptor meets whatever its operands: unreadable, undefined, on the wrong ring, or of a PRESERVED
partition (R587, R589; 18 R681). -/
def State.descRefusal (s : State) (k : Nat) (d : Desc) : Option Nat :=
  if d.ok = false then some 0x05
  else match descFields d.op with
    | none => some 0x10
    | some fs =>
      if d.data.toNat &&& (2 ^ 512 - 1 - descMask fs) ≠ 0 then some 0x10
      else if decide (0x20 ≤ d.op) ≠ decide (k % 17 = 0) then some 0x14
      else match s.partOfPage k with
        | some p => if (s.part p).st = .preserved ∧ d.op ∉ [0x0A, 0x0B, 0x0C] then some 0x15 else none
        | none => none

/-- The descriptor `d`, with `before` the earlier ones not completed, may start (R575). -/
def Desc.mayStart (d : Desc) (before : List Desc) : Bool :=
  (!d.fenced || before.isEmpty) &&
  (match d.names with
   | some c => d.op == 2 || !before.any (fun e => e.names == some c)
   | none => true)

/-- The first descriptor of a page that has not started and may; a held one does not hold those behind it (R575). -/
def nextDesc : List Desc → List Desc → Option Desc
  | _, [] => none
  | before, d :: rest => if !d.started && d.mayStart before then some d else nextDesc (before ++ [d]) rest

/-- Descriptor `d` of page `k` starts (R575; 19 R711, R714). -/
def State.startDesc (s : State) (k : Nat) (d : Desc) : State :=
  let s1 := s.modPage k (fun g => { g with fetched := g.fetched.map (fun e => if e.serial == d.serial then { e with started := true } else e) })
  (s1.trace 4 (s.partOfPage k) (d.names.getD 0) 0 0 0 (d.f 32 32) 0).count (4 * (k / 17)) 0x10 (s.partOfPage k) 1

/-- What holds a descriptor: a window clear (BIND), a full ferry queue share (COPY), a re-encode in progress (CODE), a partition in RESETTING
(the admin descriptors that name it) (10 R390, R408; 03 R111; R583). -/
def State.holds (s : State) (d : Desc) : Bool :=
  match d.op with
  | 0x04 => (s.ctx d.ctx).winClear
  | 0x07 => decide (8 ≤ ((List.range 4).map (fun i => (s.fchan (16 * tileOfCtx d.ctx + 4 * (d.ctx % 4) + i)).queue.length)).sum)
  | 0x09 => (s.slot (d.f 64 13)).reenc.isSome
  | 0x20 => (s.part d.part).st == .resetting
  | 0x21 => (s.part d.part).st == .resetting
  | 0x22 => (s.part d.part).st == .resetting
  | 0x23 => (s.part d.part).st == .resetting
  | 0x24 => (s.part d.part).st == .resetting
  | _ => false

/-- The next descriptor of page `k` starts, when it is an operation `op`: refused, or performed by `f`. A descriptor
that is refused whatever its operands is refused by any of these commands; one that is held is tested when it is held no longer (00 R7). -/
def State.runDesc (s : State) (k op : Nat) (f : Desc → DescRef → State → State) : State :=
  match nextDesc [] (s.page k).fetched with
  | none => s
  | some d =>
    if d.ok = true ∧ s.holds d = true then s
    else match s.descRefusal k d with
    | some st => (s.startDesc k d).completeNow (d.ref k) { status := BitVec.ofNat 8 st, ctx := BitVec.ofNat 6 (d.names.getD 0) }
    | none => if d.op = op then f d (d.ref k) (s.startDesc k d) else s

/-- A descriptor arrives from host memory in ring order; SQHEAD advances (R573). `ok` is false where the host's read
of it ended in an error. -/
def execDescriptorFetch (page : Fin 68) (data : BitVec 512) (ok : Bool) (s : State) : Result :=
  let k := page.val
  let g := s.page k
  let waiting := (g.sqtail.toNat + 2 ^ 32 - g.sqhead.toNat) % 2 ^ 32
  let used := (g.cqtail.toNat + 2 ^ 32 - g.cqhead.toNat) % 2 ^ 32
  .next (
    if s.ringLive k = true ∧ g.err ≠ 1 ∧ 0 < waiting ∧ waiting ≤ 2 ^ g.sqsz ∧ g.fetched.length < 64 ∧
        used + g.fetched.length < 2 ^ g.cqsz then
      let d : Desc := { idx := g.sqhead.toNat, data := data, ok := ok, serial := s.out.nextId }
      (((s.putOut { s.out with nextId := s.out.nextId + 1 })).modPage k (fun g => { g with
        fetched := g.fetched ++ [d], sqhead := g.sqhead + 1 })).writeControl k
    else s)

/-- Status `st` for a descriptor that names context `c`. -/
def refuse (st c : Nat) : Completion := { status := BitVec.ofNat 8 st, ctx := BitVec.ofNat 6 c }

/-- Context `c` belongs to the partition that page `k` serves (R563). -/
def State.ownsCtx (s : State) (k c : Nat) : Bool := (s.ctx c).part.isSome && (s.ctx c).part == s.partOfPage k

/-! ### Contexts: START, HALT, BIND, UNBIND -/

/-- The header of a native image (11 R440). -/
def manifestOf (l : List Byte) : Manifest :=
  { steps := bytesAt l 0 8, nstep := bytesAt l 8 4, nchain := bytesAt l 12 4, chains := bytesAt l 16 8
    descs := bytesAt l 24 8, ndesc := bytesAt l 32 4, ncargo := bytesAt l 36 4, cargos := bytesAt l 40 8
    berths := bytesAt l 48 8, nberth := bytesAt l 56 4, nsplit := bytesAt l 60 4, splits := bytesAt l 64 8
    cfgtag := BitVec.ofNat 64 (bytesAt l 72 8) }

/-- A context at its manifest's start: X0 to X3 from the descriptor, the rest of X kept (11 R435, R440). -/
def Ctx.begin (x : Ctx) (m : Manifest) (xs : List (BitVec 64)) (r : DescRef) : Ctx := { x.setX 0 xs false with
  st := .running, man := m, a := [], tl := [], fresh := [], cm := [], stack := [], next := 0
  cache := [], pend := false, access := none, issues := [], lastIssue := 0, outst := [], start := some r
  poison := false, sat := false, range := false }

/-- A START descriptor (R580; 11 R438). -/
def execStart (page : Fin 68) (s : State) : Result :=
  let k := page.val
  .next (s.runDesc k 1 (fun d r s =>
    let c := d.ctx
    if s.ownsCtx k c = false then s.complete r (refuse 0x11 c)
    else if (s.ctx c).st ≠ .idle then s.complete r (refuse 0x12 c)
    else
      let h := match (s.ctx c).part, (s.ctx c).handle with
        | some p, some i => (s.part p).handle i
        | _, _ => {}
      let b := s.readBytes (h.slot * slotBytes + h.off) 128
      let xs := (List.range 4).map (fun i => BitVec.ofNat 64 (d.f (128 + 64 * i) 64))
      let s1 := s.modCtx c (fun x => x.begin (manifestOf b.1) xs r)
      let s2 := s1.modVfile c (fun v => { v with exc := 0 })
      if b.2 then s2.halt c 0x0A 15 0 else s2))

/-- A HALT descriptor: the context halts with reason 0x38; one that is not running is left as it is (R575, R580). -/
def execHalt (page : Fin 68) (s : State) : Result :=
  let k := page.val
  .next (s.runDesc k 2 (fun d r s =>
    let c := d.ctx
    if s.ownsCtx k c = false then s.complete r (refuse 0x11 c)
    else (s.halt c 0x38 15 (s.ctx c).next).complete r { ctx := BitVec.ofNat 6 c }))

/-- The lowest base at which `n` consecutive MiB of tile `t`'s scratchpad are free of windows (10 R388). -/
def State.freeWindow (s : State) (t n : Nat) : Option Nat :=
  let used := ((List.range 4).map (fun q => s.ctx (4 * t + q))).filter (fun x => decide (0 < x.winSize))
  if n = 0 then none
  else (List.range 128).find? (fun b => decide (b + n ≤ 128) &&
    used.all (fun x => decide (b + n ≤ x.winBase) || decide (x.winBase + x.winSize ≤ b)))

/-- The statuses a bind of context `c` to handle `h` meets, in rising order (12 R497; 07 R294 case 2). -/
def State.bindRefusals (s : State) (p c win : Nat) (h : Handle) : List Nat :=
  let t := tileOfCtx c
  let tag := h.man.cfgtag.toNat
  let others := ((List.range 4).map (fun q => 4 * t + q)).filter (fun e => e != c && (s.ctx e).st != .unbound)
  (if h.st = .translating then [0x21] else []) ++
  (if h.st = .empty then [0x22] else []) ++
  (if h.st = .bound ∧ h.ctx ≠ some c then [0x23] else []) ++
  (if field tag 16 4 ≠ t ∨ (s.hub t).retired = true then [0x24] else []) ++
  (if tag ≠ s.tileTag t then [0x25] else []) ++
  (if (h.share = false ∧ others ≠ []) ∨ others.any (fun e => !(s.ctx e).share) = true then [0x26] else []) ++
  (if win < h.winmin then [0x27] else []) ++
  (if h.berths.any (fun b => (s.slot b.2).phys / 512 != b.1) then [0x28] else []) ++
  (if (s.freeWindow t win).isNone then [0x2A] else []) ++
  (if (s.part p).st = .free then [0x11] else [])

/-- Groups 0 to 2 of a tile and their engines are open (17 R653). -/
def State.enginesOpen (s : State) (t : Nat) : Bool :=
  [0, 1, 2].all (fun i => (s.hub t).groups.contains i && (s.hub t).engines.contains i)

/-- Groups 0 to 2 of a tile and their engines asked to open, parent before child (17 R651, R653). -/
def State.openEngines (s : State) (t : Nat) : State :=
  [0, 1, 2].foldl (fun s i =>
    let s1 := if (s.hub t).groups.contains i then s else s.enqueueWake t 3 i
    if (s1.hub t).engines.contains i then s1 else s1.enqueueWake t 3 (4 + i)) s

/-- A BIND descriptor: the lowest refusal of R497, otherwise the context is bound with a cleared window, its registers
as bind leaves them, the tile's engines asked to open and its ferry channels idle (12 R497; 10 R388, R390, R432; 11
R435). -/
def execBind (page : Fin 68) (s : State) : Result :=
  let k := page.val
  .next (s.runDesc k 4 (fun d r s =>
    let c := d.ctx
    let win := d.f 80 8
    match s.partOfPage k with
    | none => s.complete r (refuse 0x11 c)
    | some p =>
      let h := (s.part p).handle d.handle
      if s.ownsCtx k c = false then s.complete r (refuse 0x11 c)
      else if (s.ctx c).st ≠ .unbound then s.complete r (refuse 0x12 c)
      else match s.bindRefusals p c win h with
        | st :: _ => s.complete r (refuse st c)
        | [] =>
          let t := tileOfCtx c
          let base := (s.freeWindow t win).getD 0
          let s1 := (s.zeroWindow t base win).clearVfile c
          let s2 := s1.modCtx c (fun x => { part := x.part, st := .idle, handle := some d.handle, man := h.man, share := h.share
                                            maint := h.maint, winBase := base, winSize := win, ginst := x.ginst })
          let s3 := s2.modPart p (fun q => q.modHandle d.handle (fun e => { e with st := .bound, ctx := some c }))
          let s4 := (s3.modMat t (fun m => { m with reconf := m.reconf.filter (· != c % 4), dropped := m.dropped.filter (· != c % 4) })).openEngines t
          let s5 := (List.range 4).foldl (fun s i => s.modFchan (16 * t + 4 * (c % 4) + i) (fun f => { f with st := 0, fault := 0 })) s4
          if s5.enginesOpen t then s5.complete r { ctx := BitVec.ofNat 6 c } else s5.modCtx c (fun x => { x with binding := some r })))

/-- An UNBIND descriptor: refused for a running context, otherwise the handle is ready again and the descriptor
completes after the window clear (12 R498; R580). -/
def execUnbind (page : Fin 68) (s : State) : Result :=
  let k := page.val
  .next (s.runDesc k 5 (fun d r s =>
    let c := d.ctx
    if s.ownsCtx k c = false then s.complete r (refuse 0x11 c)
    else match (s.ctx c).st with
      | .running => s.complete r (refuse 0x29 c)
      | .preserved => s.complete r (refuse 0x29 c)
      | .unbound => s.complete r (refuse 0x12 c)
      | _ => ((s.modCtx c (fun x => { x with unbinding := some r })).unbindCtx c).clearVfile c))

/-! ### Handles: LOAD and DISCARD -/

/-- The status a load meets: a service address outside a bulk slot of the partition, or a handle that is bound or translating (12 R495, R496;
R589). -/
def State.loadRefusal (s : State) (j : LoadJob) : Option Nat :=
  let h := (s.part j.part).handle j.handle
  let sl := s.slot (j.src / slotBytes)
  if j.sa = true ∧ (sl.owner ≠ some j.part ∨ sl.cls ≠ .bulk ∨ slotBytes < j.src % slotBytes + j.len) then some 0x13
  else if h.st = .bound then some 0x20
  else if h.st = .translating then some 0x21
  else none

/-- A load taken into the queue of tile `t`'s translator: refused, or its handle translating (12 R487, R496). -/
def State.takeLoad (s : State) (t : Nat) (j : LoadJob) : State :=
  match s.loadRefusal j with
  | some st => s.complete j.desc (refuse st 0)
  | none =>
    (s.modPart j.part (fun q => q.modHandle j.handle (fun e => { e with st := .translating, old := decide (e.st = .ready) }))).modTran t
      (fun x => { x with queue := x.queue ++ [j] })

/-- The oldest held loads of tile `t` taken up, in their order, while its queue has room and no hand-over holds them; each is tested then (00
R6, R7; 12 R487, R503). -/
def State.releaseLoads (s : State) (t : Nat) : State :=
  (s.tran t).heldLoads.foldl (fun s j =>
    if (s.tran t).queue.length < 16 ∧ s.fw.st ≠ 2 then (s.modTran t (fun x => { x with heldLoads := x.heldLoads.drop 1 })).takeLoad t j else s) s

/-- A LOAD descriptor for the translator of tile `tile`: taken, or held behind those held before it while 16 loads are queued or a hand-over is
in progress (12 R487, R495, R503). -/
def execLoad (page : Fin 68) (tile : Fin 16) (s : State) : Result :=
  let k := page.val
  .next (s.runDesc k 3 (fun d r s =>
    match s.partOfPage k with
    | none => s.complete r (refuse 0x11 0)
    | some p =>
      let t := if (s.hub tile).retired then s.boot.lead else tile.val
      let j : LoadJob := { part := p, handle := d.handle, desc := r, report := d.f 256 64, map := d.f 320 64, sa := d.f 80 1 == 1
                           src := d.f 128 64, len := d.f 192 64 }
      if (s.tran t).queue.length < 16 ∧ (s.tran t).heldLoads = [] ∧ s.fw.st ≠ 2 then s.takeLoad t j
      else s.modTran t (fun x => { x with heldLoads := x.heldLoads ++ [j] })))

/-- A DISCARD descriptor: a ready handle is emptied; a bound one is refused (12 R493, R499). -/
def execDiscard (page : Fin 68) (s : State) : Result :=
  let k := page.val
  .next (s.runDesc k 6 (fun d r s =>
    match s.partOfPage k with
    | none => s.complete r (refuse 0x11 0)
    | some p =>
      match ((s.part p).handle d.handle).st with
      | .bound => s.complete r (refuse 0x20 0)
      | .translating => s.complete r (refuse 0x21 0)
      | _ => (s.modPart p (fun q => q.modHandle d.handle (fun _ => {}))).complete r {}))

/-! ### FLUSH, CODE, FENCE, RESET, ATTACH -/

/-- A FLUSH descriptor (14 R534). -/
def execFlush (page : Fin 68) (s : State) : Result :=
  let k := page.val
  .next (s.runDesc k 8 (fun _ r s =>
    match s.partOfPage k with
    | some p => (s.dropBuffers p).complete r {}
    | none => s.complete r {}))

/-- A CODE descriptor: the slot's request is recorded; it completes at once when the strength in force is already the
resulting one, otherwise when the re-encode ends (03 R110, R111; R580). -/
def execCode (page : Fin 68) (s : State) : Result :=
  let k := page.val
  .next (s.runDesc k 9 (fun d r s =>
    let sl := d.f 64 13
    let c := d.f 80 3
    if c = 5 ∨ c = 6 then s.complete r (refuse 0x10 0)
    else if s.slotCount ≤ sl ∨ (s.slot sl).owner = none ∨ (s.slot sl).owner ≠ s.partOfPage k then s.complete r (refuse 0x13 0)
    else
      let s1 := s.modSlot sl (fun x => { x with codeReq := if c = 7 then none else some c })
      if s1.strengthFor sl = (s1.slot sl).code then s1.complete r {}
      else (s1.modSlot sl (fun x => { x with codeDesc := some r })).reviewCode sl))

/-- A FENCE descriptor completes at its start (R580). -/
def execFence (page : Fin 68) (s : State) : Result := .next (s.runDesc page 0x0A (fun _ r s => s.completeNow r {}))

/-- A RESET descriptor begins a partition reset with its KEEP (R582). -/
def execReset (page : Fin 68) (s : State) : Result :=
  let k := page.val
  .next (s.runDesc k 0x0B (fun d r s =>
    match s.partOfPage k with
    | some p => s.beginReset p (d.f 64 1 == 1) false (some r)
    | none => s.completeNow r (refuse 0x11 0)))

/-- An ATTACH descriptor: with the recorded token a PRESERVED partition becomes ACTIVE, the ATTACH and the held
completions are written and its preserved contexts run again (18 R682). -/
def execAttach (page : Fin 68) (s : State) : Result :=
  let k := page.val
  .next (s.runDesc k 0x0C (fun d r s =>
    match s.partOfPage k with
    | none => s.completeNow r (refuse 0x35 0)
    | some p =>
      let q := s.part p
      if q.st = .preserved ∧ q.token.toNat = d.f 128 64 then
        let s1 := (s.modPart p (fun q => { q with token := 0, cause := 0 })).setPartState p .active
        let s2 := s1.completeNow r { value := BitVec.ofNat 32 q.lostN }
        let s3 := s2.writeHeld k p
        (s.ctxsOf p).foldl (fun s c => s.modCtx c (fun x => if x.st = .preserved then { x with st := .running } else x)) s3
      else s.completeNow r (refuse 0x35 0)))

/-! ### Admin descriptors (R559 to R563, R586) -/

/-- A VF that serves a partition, or whose port is retired (R561, R589). -/
def State.vfTaken (s : State) (port vf : Nat) : Bool :=
  (s.hport port).gone || (s.partOfPage (17 * port + vf + 1)).isSome

/-- A PCREATE descriptor (R561, R589; 01 R29; 00 R3). -/
def execPcreate (page : Fin 68) (s : State) : Result :=
  let k := page.val
  .next (s.runDesc k 0x20 (fun d r s =>
    let p := d.part
    let port := if d.f 79 1 = 1 then d.f 72 2 else p / 16
    let vf := if d.f 79 1 = 1 then d.f 80 4 else p % 16
    let live := ((List.range 64).filter (fun q => (s.part q).st != .free)).length
    if (s.part p).st ≠ .free then s.complete r (refuse 0x30 0)
    else if s.partCount ≤ p ∨ (s.lostTiles ≠ [] ∧ s.partCount - 4 ≤ live) then s.complete r (refuse 0x33 0)
    else if s.vfTaken port vf then s.complete r (refuse 0x34 0)
    else
      let s1 := s.modPart p (fun _ => { port := port, vf := vf, keepflr := d.f 88 1 == 1 })
      ((s1.modPage (17 * port + vf + 1) (fun _ => {})).setPartState p .active).complete r {}))

/-- A PDESTROY descriptor: a partition reset with KEEP 0, then the clear, then FREE (R582). -/
def execPdestroy (page : Fin 68) (s : State) : Result :=
  let k := page.val
  .next (s.runDesc k 0x21 (fun d r s =>
    if (s.part d.part).st = .free then s.complete r (refuse 0x30 0)
    else s.beginReset d.part false true (some r)))

/-- Shared-class slots of a partition and of the module, against the limits of 14 R542. -/
def State.sharedFull (s : State) (p : Nat) : Bool :=
  decide (3 ≤ ((s.slotsOf p).filter (fun i => (s.slot i).cls == .shared)).length) ||
  decide (227 ≤ (s.slots.filter (fun e => e.2.cls == SlotClass.shared)).length)

/-- The class a PSLOT names; 3 is not used. -/
def classOfCode (c : Nat) : Option SlotClass := if c = 0 then some .bulk else if c = 1 then some .shared else if c = 2 then some .devOnly else none

/-- Slot `i` holds a bound image of its partition, or a valid aperture entry names it (R589 status 0x36). -/
def State.slotPinned (s : State) (p i : Nat) : Bool :=
  (s.part p).handles.any (fun e => e.2.st == .bound && e.2.slot == i) ||
  (List.range 4).any (fun q => (s.hport q).apt.any (fun e => flag e.2.toNat 19 && field e.2.toNat 0 13 == i))

/-- The status a PSLOT meets, if any (R586, R589; 14 R542). -/
def State.slotRefusal (s : State) (p i : Nat) (cls : Option SlotClass) (rel : Bool) : Option Nat :=
  let x := s.slot i
  let mine := x.owner == some p && decide (i < s.slotCount)
  let running := (s.ctxsOf p).any (fun c => (s.ctx c).st == .running)
  if (s.part p).st = .free then some 0x30
  else if rel = false ∧ cls = none then some 0x10
  else if rel = true ∧ mine = false then some 0x13
  else if rel = false ∧ mine = false ∧ (s.slotCount ≤ i ∨ x.owner ≠ none ∨ x.clearing = true) then some 0x31
  else if rel = false ∧ cls = some .shared ∧ (mine = false ∨ x.cls ≠ .shared) ∧ s.sharedFull p = true then some 0x32
  else if rel = true ∧ s.slotPinned p i = true then some 0x36
  else if running = true ∧ mine = true ∧ (rel = true ∨ cls ≠ some x.cls) then some 0x37
  else none

/-- A PSLOT descriptor: a slot granted in a class, its class changed, or the slot cleared and then freed (R586; 14 R543; 03 R110). -/
def execPslot (page : Fin 68) (s : State) : Result :=
  let k := page.val
  .next (s.runDesc k 0x22 (fun d r s =>
    let p := d.part
    let i := d.f 96 13
    let rel := d.f 120 1 == 1
    let cls := classOfCode (d.f 112 2)
    match s.slotRefusal p i cls rel with
    | some st => s.complete r (refuse st 0)
    | none =>
      if rel then
        let s1 := s.modPart p (fun q => { q with handles := Tab.mapAll (fun _ => {}) (fun _ h => if h.st = .ready ∧ h.slot = i then {} else h) q.handles })
        (s1.writeBackSlot i).modSlot i (fun x => { x with clearing := true, release := true, slotDesc := some r })
      else
        let s1 := if (s.slot i).cls = .shared then s.writeBackSlot i else s
        ((s1.modSlot i (fun x => { x with owner := some p, cls := cls.getD .bulk, lost := decide (x.owner = some p) && x.lost })).reviewCode i).complete r {}))

/-- A PCTX descriptor: an unassigned context on a live tile granted, or an unbound one released (R586). -/
def execPctx (page : Fin 68) (s : State) : Result :=
  let k := page.val
  .next (s.runDesc k 0x23 (fun d r s =>
    let p := d.part
    let c := d.f 72 6
    let x := s.ctx c
    if (s.part p).st = .free then s.complete r (refuse 0x30 c)
    else if d.f 120 1 = 1 then
      if x.part ≠ some p then s.complete r (refuse 0x11 c)
      else if x.st ≠ .unbound ∨ x.winClear = true then s.complete r (refuse 0x12 c)
      else (s.modCtx c (fun x => { x with part := none })).complete r { ctx := BitVec.ofNat 6 c }
    else if x.part ≠ none ∨ (s.hub (tileOfCtx c)).retired = true then s.complete r (refuse 0x33 c)
    else (s.modCtx c (fun x => { x with part := some p })).complete r { ctx := BitVec.ofNat 6 c }))

/-- A PVF descriptor: the partition takes a new VF; a HOMELESS one becomes ACTIVE, and the re-homed event is the first
on the new rings (R562, R590). -/
def execPvf (page : Fin 68) (s : State) : Result :=
  let k := page.val
  .next (s.runDesc k 0x24 (fun d r s =>
    let p := d.part
    let port := d.f 72 2
    let vf := d.f 80 4
    let homeless := decide ((s.part p).st = .homeless)
    if (s.part p).st = .free then s.complete r (refuse 0x30 0)
    else if s.vfTaken port vf then s.complete r (refuse 0x34 0)
    else
      let s1 := if homeless then s else s.modPage (s.pageOfPart p) (fun _ => {})
      let s2 := s1.modPart p (fun q => { q with port := port, vf := vf, rehome := true })
      let s3 := s2.modPage (17 * port + vf + 1) (fun _ => {})
      (if homeless then s3.setPartState p .active else s3).complete r {}))

end Sys2Proof.Machine
end

