-- ==== Sys2Proof/Machine/Operands.lean ====
section
/-! DEFINITION. The fields of a native step, its operands in both forms, tensor descriptors and footprints (chapter 10, 11 R441 to R449). -/

namespace Sys2Proof.Machine

/-! ### The step word (11 R441, R443) -/

/-- Body bits [lo + n - 1 : lo] of step word `w`. -/
def body (w lo n : Nat) : Nat := field w (64 + lo) n
/-- ENG. -/
def stepEng (w : Nat) : Nat := field w 0 4
/-- OP. -/
def stepOp (w : Nat) : Nat := field w 4 8
/-- SZUSE. -/
def szUse (w : Nat) : Bool := flag w 51
/-- Tally advanced at completion: TADV when TEN is 1. -/
def stepTally (w : Nat) : Option Nat := if flag w 44 then some (field w 40 4) else none

/-- An operand field. -/
structure OpField where
  present : Bool
  abs : Bool
  desc : Nat
  areg : Nat
  ause : Bool
  fmt : Nat
  str : Nat
  bad : Bool
  deriving DecidableEq, Repr

/-- The operand field at body bit `lo` (11 R443); `bad` says a bit that must be zero is set. -/
def opField (w lo : Nat) : OpField :=
  let v := body w lo 20
  let p := flag v 0
  let a := flag v 1
  { present := p, abs := p && a, desc := field v 2 12, areg := if a then field v 2 4 else field v 14 4
    ause := a || flag v 18, fmt := field v 6 4, str := field v 10 10
    bad := if p then !a && flag v 19 else decide (v ≠ 0) }

/-! ### Tensor descriptors (10 R397 to R401) -/

/-- Bits of an element of a TYPE (10 R397; 09 R343). -/
def elemBits (typ : Nat) : Nat :=
  if typ ≤ 1 then 32 else if typ ≤ 3 then 16 else if typ = 7 ∨ typ = 8 then 4 else 8

/-- A type with block scales. -/
def blocked (typ : Nat) : Bool := typ == 7 || typ == 8

/-- The descriptor in 128 bytes, its bases moved by the value `a` of an address register (10 R397 to R399; 11 R436). -/
def operandOf (l : List Byte) (a : Nat) (used : Bool) : Operand :=
  let w0 := bytesAt l 0 8
  let w1 := bytesAt l 64 8
  let ot := bytesAt l 8 8
  { space := field w0 48 3, tile := field w0 51 4, typ := field w0 56 4, rank := field w0 60 2
    base := (field w0 0 48 + a) % 2 ^ 48
    sizes := (List.range 4).map (fun d => bytesAt l (16 + 4 * d) 4)
    strides := (List.range 4).map (fun d => signed 64 (bytesAt l (32 + 8 * d) 8))
    scbase := (field w1 0 48 + a) % 2 ^ 48
    scstr := (List.range 4).map (fun d => signed 64 (bytesAt l (72 + 8 * d) 8))
    blkdim := field w1 48 2, packdim := field w1 50 2, distdim := field w1 52 2
    chunk := bytesAt l 104 4, otbase := field ot 0 48, otlen := field ot 48 16, areg := used }

/-- A descriptor of a context's table, with the poison of its bytes (10 R396). -/
def State.descriptor (s : State) (c : Nat) (o : OpField) : Operand × Bool :=
  let x := s.ctx c
  let a := if o.ause then (Tab.get (fun _ => 0) x.a o.areg).toNat else 0
  let b := s.readBytes (x.man.descs + 128 * o.desc) 128
  (operandOf b.1 a o.ause, b.2)

/-- SIZEd. -/
def Operand.size (o : Operand) (d : Nat) : Nat := o.sizes.getD d 1
/-- STRIDEd. -/
def Operand.stride (o : Operand) (d : Nat) : Int := o.strides.getD d 0
/-- Elements of the tensor. -/
def Operand.count (o : Operand) : Nat := o.sizes.foldl (· * ·) 1

/-- The index tuple of element number `n`, dimension 0 innermost. -/
def Operand.index (o : Operand) (n : Nat) : List Nat :=
  [n % o.size 0, n / o.size 0 % o.size 1, n / (o.size 0 * o.size 1) % o.size 2, n / (o.size 0 * o.size 1 * o.size 2)]

/-- Byte address of an element from base `b` (10 R398). -/
def Operand.addrFrom (o : Operand) (b : Nat) (i : List Nat) : Int :=
  (List.range 4).foldl (fun a d =>
    let v := i.getD d 0
    a + ((if blocked o.typ ∧ d = o.packdim then v / 2 else v : Nat) : Int) * o.stride d) (b : Int)

/-- Byte address of an element (10 R398). -/
def Operand.addr (o : Operand) (i : List Nat) : Int := o.addrFrom o.base i

/-- The element is in the high nibble of its byte (10 R398). -/
def Operand.high (o : Operand) (i : List Nat) : Bool := blocked o.typ && i.getD o.packdim 0 % 2 == 1

/-- Byte address of the scale of an element from scale base `b` (10 R399). -/
def Operand.scaleFrom (o : Operand) (b : Nat) (i : List Nat) : Int :=
  (List.range 4).foldl (fun a d =>
    let v := i.getD d 0
    a + ((if d = o.blkdim then v / 32 else v : Nat) : Int) * o.scstr.getD d 0) (b : Int)

/-- Byte address of the scale of an element (10 R399). -/
def Operand.scale (o : Operand) (i : List Nat) : Int := o.scaleFrom o.scbase i

/-- Lowest and highest byte of a strided range (10 R401). -/
def rangeOf (base : Nat) (ns : List Nat) (strs : List Int) (last : Nat) : Int × Int :=
  (List.range 4).foldl (fun r d =>
    let e := ((ns.getD d 1 : Int) - 1) * strs.getD d 0
    (r.1 + min 0 e, r.2 + max 0 e)) ((base : Int), (base : Int) + last)

/-- The byte ranges of an operand's footprint: its elements and, in blocked types, its scales (10 R401). -/
def Operand.footprint (o : Operand) : List (Int × Int) :=
  let ns := (List.range 4).map (fun d => if blocked o.typ ∧ d = o.packdim then o.size d / 2 else o.size d)
  let es := rangeOf o.base ns o.strides (ceilDiv (elemBits o.typ) 8 - 1)
  if blocked o.typ then
    let ms := (List.range 4).map (fun d => if d = o.blkdim then o.size d / 32 else o.size d)
    [es, rangeOf o.scbase ms o.scstr 0]
  else [es]

/-- The footprint of an operand of which only the first `n` entries of dimension 0 count (10 R401). -/
def Operand.firstOf (o : Operand) (n : Nat) : Operand := { o with sizes := n :: o.sizes.drop 1 }

/-- Rows TR of an operand viewed as a matrix (10 R400). -/
def Operand.rows (o : Operand) : Nat := o.size 1 * o.size 2 * o.size 3
/-- Columns TC. -/
def Operand.cols (o : Operand) : Nat := o.size 0
/-- Index of element (row, col) of the view (10 R400). -/
def Operand.at2 (o : Operand) (row col : Nat) : List Nat :=
  [col, row % o.size 1, row / o.size 1 % o.size 2, row / (o.size 1 * o.size 2)]

/-! ### Footprint checks (10 R389, R419) -/

/-- A byte range of a tile's scratchpad lies in the union of windows: `ws` are base and end in bytes. -/
def rangeCovered : Nat → List (Nat × Nat) → Int → Int → Bool
  | 0, _, lo, hi => decide (hi < lo)
  | n + 1, ws, lo, hi =>
    if hi < lo then true
    else match ws.find? (fun w => decide ((w.1 : Int) ≤ lo) && decide (lo < (w.2 : Int))) with
      | some w => rangeCovered n ws (w.2 : Int) hi
      | none => false

/-- A context's window in bytes. -/
def Ctx.window (x : Ctx) : Nat × Nat := (x.winBase * 2 ^ 20, (x.winBase + x.winSize) * 2 ^ 20)

/-- Windows that an operand on tile `t` may reach for context `c`: its own on its own tile, otherwise those of contexts
of its partition (10 R389). -/
def State.windows (s : State) (c t : Nat) (own : Bool) : List (Nat × Nat) :=
  if own then [(s.ctx c).window]
  else ((List.range 4).map (fun q => s.ctx (4 * t + q))).filterMap (fun x =>
    if x.part = (s.ctx c).part ∧ x.st ≠ .unbound then some x.window else none)

/-- A scratchpad range within a context's reach. -/
def State.inWindow (s : State) (c t : Nat) (own : Bool) (r : Int × Int) : Bool := rangeCovered 4 (s.windows c t own) r.1 r.2

/-- The halt reason a resolved operand meets at decode by where it lies: 0x08 outside the windows, 0x09 outside the
partition's slots (10 R389, R419; 11 R436). -/
def State.placeHalt (s : State) (c : Nat) (o : Operand) : Option Nat :=
  let t := tileOfCtx c
  let rs := o.footprint
  match o.space with
  | 0 => if spBytes ≤ o.base ∨ rs.any (fun r => !s.inWindow c t true r) = true then some 0x08 else none
  | 1 => if (s.hub o.tile).retired = true ∨ spBytes ≤ o.base ∨ rs.any (fun r => !s.inWindow c o.tile false r) = true then some 0x08 else none
  | 2 => if rs.any (fun r => decide (r.1 < 0) || decide ((s.space : Int) ≤ r.2) ||
        (List.range (r.2.toNat / slotBytes + 1 - r.1.toNat / slotBytes)).any (fun i =>
          let x := s.slot (r.1.toNat / slotBytes + i)
          x.owner != (s.ctx c).part || x.cls == .devOnly)) = true then some 0x09 else none
  | _ => none

/-! ### Checks shared by every engine's operands -/

/-- A halt found at decode: reason, field. -/
abbrev Check := Nat × Nat

/-- Checks of a present operand that every engine makes: reserved bits and the descriptor index (11 R443, R468; 10
R396). -/
def State.fieldChecks (s : State) (c : Nat) (o : OpField) (n : Nat) : List Check :=
  (if o.bad then [(0x02, n)] else []) ++
  (if o.present = true ∧ o.abs = false ∧ (s.ctx c).man.ndesc ≤ o.desc then [(0x07, n)] else []) ++
  (if o.present = true ∧ o.abs = false ∧ o.desc < (s.ctx c).man.ndesc ∧ (s.descriptor c o).2 = true then [(0x0A, 15)] else [])

/-- An absolute operand's row or strip stride unit and base: A[AREG] (11 R443). -/
def State.absBase (s : State) (c : Nat) (o : OpField) : Nat := (Tab.get (fun _ => 0) (s.ctx c).a o.areg).toNat

/-- X[n] of context `c`. -/
def State.xreg (s : State) (c n : Nat) : BitVec 64 := Tab.get (fun _ => 0) (s.ctx c).x n

/-- Parameter register `n` of context `c` carries poison (00 R6). -/
def State.xbad (s : State) (c n : Nat) : Bool := (s.ctx c).xpois.getLsbD n

/-- A[n] of context `c`. -/
def State.areg (s : State) (c n : Nat) : Nat := (Tab.get (fun _ => 0) (s.ctx c).a n).toNat

/-- The size of a step: X[SZREG][31:0] when SZUSE is 1, otherwise what the step names (11 R454). -/
def State.sizeOf (s : State) (c w named : Nat) : Nat :=
  if szUse w then (s.xreg c (field w 45 6)).toNat % 2 ^ 32 else named

/-- The element of a descriptor-form or absolute vector operand on tile scratchpads, as bytes. -/
def Operand.bytes (o : Operand) : Nat := ceilDiv (elemBits o.typ) 8

end Sys2Proof.Machine
end

