-- ==== Sys2Proof/Machine/Checks.lean ====
section
/-! DEFINITION. The checks a step meets at decode, engine by engine: the reason and the part of the step (11 R468). -/

namespace Sys2Proof.Machine

/-- The module is in service (00 R6; 18 R709). -/
def State.inService (s : State) : Bool := s.boot.phase == 15

/-- A check that fails when `bad`. -/
def chk (bad : Bool) (code fld : Nat) : List Check := if bad then [(code, fld)] else []

/-! ### Header and body bits (11 R441, R442, R444, R448, R449) -/

/-- Body bits an operation uses: lowest and count of each run; none where ENG and OP match no row (11 R442). -/
def bodyUsed (eng op : Nat) : Option (List (Nat × Nat)) :=
  match eng, op with
  | 0, 0 => some []
  | 0, 1 => some [(0, 7)]
  | 0, 2 => some [(0, 148)]
  | 0, 3 => some [(0, 44)]
  | 0, 4 => some [(0, 44)]
  | 0, 5 => some [(0, 6), (64, 64)]
  | 0, 6 => some [(0, 10)]
  | 0, 7 => some [(0, 14)]
  | 0, 8 => some [(0, 65)]
  | 0, 9 => some [(0, 9)]
  | 0, 10 => some [(0, 35)]
  | 0, 11 => some [(0, 16)]
  | 1, 0 => some [(0, 96)]
  | 1, 1 => some []
  | 2, 0 => some [(0, 180)]
  | 3, 0 => some [(0, 101)]
  | 3, 1 => some [(0, 101)]
  | 3, 2 => some [(0, 101)]
  | 3, 3 => some [(0, 101)]
  | 4, 0 => some [(0, 124)]
  | 5, 0 => some [(0, 49)]
  | 5, 1 => some [(0, 49)]
  | 5, 2 => some [(0, 49)]
  | 5, 3 => some [(0, 49)]
  | _, _ => none

/-- Operations that name a size (11 R442, R454). -/
def sized (eng op : Nat) : Bool :=
  (eng == 0 && op == 2) || (eng == 1 && op == 0) || eng == 2 || (eng == 3 && (op == 2 || op == 3)) || eng == 4

/-- Checks of the header and of the body bits that stay zero. -/
def frameChecks (w : Nat) : List Check :=
  match bodyUsed (stepEng w) (stepOp w) with
  | none => [(0x01, 0)]
  | some fs =>
    let mask := fs.foldl (fun m f => m ||| ((2 ^ f.2 - 1) <<< f.1)) 0
    chk (field w 53 11 != 0 || (!flag w 15 && field w 16 4 != 0) || (field w 20 4 == 0 && field w 24 16 != 0) ||
      (szUse w && !sized (stepEng w) (stepOp w))) 0x02 0 ++
    chk (field w 64 192 &&& (2 ^ 192 - 1 - mask) != 0) 0x02 15

/-! ### Sequencer steps (11 R444, R460) -/

/-- Scratchpad address of an XLD, XST or MBXW: ADDR, with A[AREG] added when AUSE is 1 (11 R436, R444). -/
def State.seqAddr (s : State) (c addr areg : Nat) (ause : Bool) : Nat :=
  (addr + (if ause then s.areg c areg else 0)) % 2 ^ 48

/-- XLD and XST: first address and length in bytes. -/
def State.xldSpan (s : State) (c w : Nat) : Nat × Nat :=
  (s.seqAddr c (body w 0 27) (body w 27 4) (flag w (64 + 31)), 8 * (body w 38 6 + 1))

/-- MBXW: address of its 64 bytes. -/
def State.mbxwAddr (s : State) (c w : Nat) : Nat := s.seqAddr c (body w 3 27) (body w 30 4) (flag w (64 + 34))

/-- A span of the own scratchpad that breaks R389, R436 or its alignment. -/
def State.badSpan (s : State) (c a n al : Nat) : Bool :=
  decide (a % al ≠ 0) || !s.inWindow c (tileOfCtx c) true ((a : Int), ((a + n : Nat) : Int) - 1)

/-! ### Cargo and berth records (07 R272, R275) -/

/-- A cargo record. -/
structure Cargo where
  origin : Nat
  berth : Nat
  kind : Nat
  g : Nat
  k : Nat
  l : Nat
  ns : Nat
  e : Nat
  exstride : Nat
  deriving DecidableEq, Repr

/-- A cargo record from its 32 bytes. -/
def cargoOf (l : List Byte) : Cargo :=
  { origin := bytesAt l 0 4, berth := bytesAt l 4 2, kind := bytesAt l 6 1 % 8, g := bytesAt l 8 4, k := bytesAt l 12 4
    l := bytesAt l 16 4, ns := bytesAt l 20 4, e := bytesAt l 24 2, exstride := bytesAt l 26 4 }

/-- Cargo record `k` of a context's manifest. -/
def State.cargo (s : State) (c k : Nat) : Cargo := cargoOf (s.readBytes ((s.ctx c).man.cargos + 32 * k) 32).1

/-- A berth record. -/
structure Berth where
  tiles : List (Nat × Nat × Nat)
  h0 : Nat
  h : Nat
  cell : Nat
  wfmt : Nat
  id : Nat
  deriving DecidableEq, Repr

/-- A berth record from its 96 bytes: tile, slot and placed band of every entry with IN = 1. -/
def berthOf (l : List Byte) : Berth :=
  { tiles := (List.range 16).filterMap (fun t =>
      let v := bytesAt l (4 * t) 4
      if flag v 31 then some (t, field v 0 13, field v 13 9) else none)
    h0 := bytesAt l 64 1 % 128, h := bytesAt l 65 1, cell := bytesAt l 66 2, wfmt := bytesAt l 68 1 % 8, id := bytesAt l 72 4 }

/-- Berth record `k` of a context's manifest. -/
def State.berth (s : State) (c k : Nat) : Berth := berthOf (s.readBytes ((s.ctx c).man.berths + 96 * k) 96).1

/-- Output units of a cargo: output groups, token groups or token blocks (11 R462; 07 R281, R282). -/
def Cargo.units (c : Cargo) : Nat := if c.kind ≤ 1 then c.g else c.g / max 1 c.k

/-- A cargo index: CARGO, with A[CAREG][15:0] added when CAUSE is 1 (11 R449). -/
def State.cargoIndex (s : State) (c w : Nat) : Nat :=
  body w 0 12 + (if flag w (64 + 16) then s.areg c (body w 12 4) % 65536 else 0)

/-- Split step: the checks of 11 R461. -/
def State.splitChecks (s : State) (c w : Nat) : List Check :=
  let k := s.cargoIndex c w
  let b := (s.xreg c (body w 21 6)).toNat % 2 ^ 32
  let m := (s.ctx c).man
  chk (flag w (64 + 48) && !flag w (64 + 33)) 0x02 15 ++
  chk (decide (60 < body w 27 6)) 0x04 15 ++
  chk (decide (m.ncargo ≤ k) || decide (1 < (s.cargo c k).kind) || decide (b < 1) || decide (64 < b) ||
    decide (m.nsplit ≤ body w 17 4)) 0x2A 15

/-- The replay checks of 11 R456 and R458: bits [11:10] of a kind-1 patch name nothing, and a replay of no repeats makes
no body active (11 R457). -/
def State.replayChecks (s : State) (c w : Nat) : List Check :=
  let x := s.ctx c
  let k := body w 0 16
  let last := x.next + k
  chk ((List.range 4).any (fun m => flag w (64 + 104 + 14 * m) && body w (102 + 14 * m) 2 != 0)) 0x02 15 ++
  chk (decide (4 ≤ x.stack.length) && s.sizeOf c w (body w 16 32) != 0) 0x05 15 ++
  chk (decide (k = 0) || decide (x.man.nstep ≤ last) ||
    (match x.stack with | r :: _ => decide (r.atStep + r.k < last) | [] => false)) 0x06 15

/-- Checks of the sequencer's own steps. -/
def State.seqChecks (s : State) (c w : Nat) : List Check :=
  match stepOp w with
  | 2 => s.replayChecks c w
  | 3 | 4 => chk (decide (63 < body w 32 6 + body w 38 6)) 0x04 15 ++
      chk (let a := s.xldSpan c w; s.badSpan c a.1 a.2 8) 0x08 15
  | 5 => chk s.inService 0x03 15
  | 8 => s.splitChecks c w
  | 9 => chk (decide (56 < body w 3 6)) 0x04 15
  | 10 => chk (s.badSpan c (s.mbxwAddr c w) 64 64) 0x08 15
  | _ => []

/-! ### Matrix steps (08 R308) -/

/-- GA of an arrangement (08 R298). -/
def gaOf (arr : Nat) : Nat := [1, 2, 4, 5, 10].getD arr 0

/-- W of 08 R311. -/
def wavesOf (arr nw m n : Nat) : Nat :=
  let ga := gaOf arr
  ceilDiv (ceilDiv m 128) (max 1 ga) * ceilDiv (ceilDiv n 128) (max 1 (nw / max 1 ga))

/-- Kc of 08 R310. -/
def kcOf (fmt k : Nat) : Nat := if fmt ≤ 1 then k else if fmt ≤ 5 then k / 2 else 2 * k

/-- Bits of an A (or B) element of a format (08 R299). -/
def meBits (fmt : Nat) (b : Bool) : Nat :=
  if fmt ≤ 1 then 8 else if fmt = 2 ∨ fmt = 4 then 4 else if fmt = 3 ∨ fmt = 5 then (if b then 4 else 8) else 16

/-- Bytes of a strip of K elements (08 R301). -/
def stripBytes (bits k : Nat) : Nat := k * 128 * bits / 8

/-- An operand of an MMUL as the step takes it: base, strip stride, scale base and scale stride (10 R403; 11 R443). -/
def State.meOperand (s : State) (c : Nat) (o : OpField) : Nat × Int × Nat × Int :=
  if o.abs then (s.absBase c o, (o.str * 4096 : Nat), 0, 0)
  else
    let d := (s.descriptor c o).1
    (d.base, d.stride 2, d.scbase, d.scstr.getD 2 0)

/-- The step an MMUL word gives (11 R448). -/
def State.meStep (s : State) (c w : Nat) : MeStep :=
  let a := s.meOperand c (opField w 56)
  let b := s.meOperand c (opField w 76)
  { ctx := c, step := (s.ctx c).next, fmt := body w 45 3, asub := flag w (64 + 48), bsub := flag w (64 + 49), arr := body w 50 3
    ord := flag w (64 + 53), cont := flag w (64 + 54), keep := flag w (64 + 55)
    m := body w 0 16 + 1, n := s.sizeOf c w (body w 16 16 + 1), k := 32 * (body w 32 13 + 1)
    abase := a.1, astr := a.2.1, asc := a.2.2.1, ascstr := a.2.2.2
    bbase := b.1, bstr := b.2.1, bsc := b.2.2.1, bscstr := b.2.2.2
    tadv := stepTally w, entry := s.cyc + 4 + nat (flag w 52) }

/-- Roods that the context's latest MMUL leaves resident for the next: accumulator type, ARR, M and N (08 R308, R309). -/
def Matrix.willHold (m : Matrix) (c : Nat) : Option (Bool × Nat × Nat × Nat) :=
  let ofStep (e : MeStep) : Option (Bool × Nat × Nat × Nat) := if e.keep then some (e.fmt == 1, e.arr, e.m, e.n) else none
  match (m.queue.filter (fun e => e.ctx == c && e.op == 0)).getLast? with
  | some e => ofStep e
  | none =>
    match (m.runs.filter (fun r => r.st.ctx == c)).getLast? with
    | some r => ofStep r.st
    | none => m.res.bind (fun r => if r.ctx = c % 4 then some (r.int, r.arr, r.m, r.n) else none)

/-- The byte ranges of the strips and scales an operand reads: `n` strips (08 R301, R302). -/
def stripRanges (base : Nat) (str : Int) (sc : Nat) (scstr : Int) (n k bits : Nat) : List (Int × Int) :=
  let span (b : Nat) (st : Int) (len : Nat) : Int × Int :=
    let e := ((n : Int) - 1) * st
    ((b : Int) + min 0 e, (b : Int) + max 0 e + len - 1)
  if n = 0 then [] else span base str (stripBytes bits k) :: (if bits = 4 then [span sc scstr (k / 32 * 128)] else [])

/-- The form an MMUL descriptor must have (10 R403). -/
def Operand.matrixForm (o : Operand) : Bool :=
  o.space == 0 && o.typ != 9 && o.rank == 2 && o.size 0 == 128 &&
  o.stride 0 == (ceilDiv (elemBits o.typ) 8 : Nat) && o.stride 1 == (if elemBits o.typ = 16 then 256 else 128) &&
  (!blocked o.typ || (o.packdim == 1 && o.blkdim == 1 && o.scstr.getD 0 0 == 1 && o.scstr.getD 1 0 == 128))

/-- Checks of an MMUL (08 R308, R326, R336; 10 R389, R403; 11 R443, R468; 12 R489). -/
def State.mmulChecks (s : State) (c w : Nat) : List Check :=
  let t := tileOfCtx c
  let mt := s.mat t
  let e := s.meStep c w
  let fa := opField w 56
  let fb := opField w 76
  let form (o : OpField) (n : Nat) : List Check :=
    chk (!o.present) 0x10 n ++
    chk (o.abs && (o.fmt != 0 || (decide (2 ≤ e.fmt) && decide (e.fmt ≤ 5)))) 0x10 n ++
    chk (o.present && !o.abs && decide (o.desc < (s.ctx c).man.ndesc) && !(s.descriptor c o).1.matrixForm) 0x10 n ++
    (if o.present = true ∧ o.abs = false ∧ o.desc < (s.ctx c).man.ndesc then
      match s.placeHalt c (s.descriptor c o).1 with | some r => [(r, n)] | none => [] else [])
  let reach (o : OpField) (rs : List (Int × Int)) (n : Nat) : List Check :=
    chk (o.present && rs.any (fun r => !s.inWindow c t true r)) 0x08 n ++
    chk (o.present && rs.any (fun r => decide (r.1 < 0) || decide ((spBytes : Int) ≤ r.2))) 0x10 n
  let cont : List Check :=
    if e.cont then
      match mt.willHold c with
      | some h => chk (h != (e.fmt == 1, e.arr, e.m, e.n)) 0x10 15
      | none => if mt.dropped.contains (c % 4) then [(0x11, 15)] else [(0x10, 15)]
    else []
  s.fieldChecks c fa 1 ++ s.fieldChecks c fb 2 ++ form fa 1 ++ form fb 2 ++
  reach fa (stripRanges e.abase e.astr e.asc e.ascstr (ceilDiv e.m 128) e.k (meBits e.fmt false)) 1 ++
  reach fb (stripRanges e.bbase e.bstr e.bsc e.bscstr (ceilDiv e.n 128) e.k (meBits e.fmt true)) 2 ++
  chk (decide (4 < e.arr) || decide (mt.serve.length < gaOf e.arr) || decide (65536 < e.n) ||
    (e.asub && e.fmt != 0 && e.fmt != 3) || (e.bsub && e.fmt != 0) ||
    ((e.keep || e.cont) && decide (1 < wavesOf e.arr mt.serve.length e.m e.n)) ||
    field (s.ctx c).man.cfgtag.toNat 0 20 != s.tileTag t % 2 ^ 20) 0x10 15 ++
  cont ++ chk (mt.reconf.contains (c % 4)) 0x12 15

/-! ### Vector steps (09 R364) -/

/-- The eight stage words of a chain record, with its poison (09 R348). -/
def State.chain (s : State) (c k : Nat) : List (BitVec 64) × Bool :=
  let b := s.readBytes ((s.ctx c).man.chains + 64 * k) 64
  ((List.range 8).map (fun i => BitVec.ofNat 64 (bytesAt b.1 (8 * i) 8)), b.2)

/-- Types an operation may take: FP32, INT32 (09 R350). -/
def opTypes (op : Nat) : Bool × Bool :=
  if op ∈ [4, 5, 0x11, 0x12, 0x13] then (true, false) else if 0x0A ≤ op ∧ op ≤ 0x0F then (false, true) else (true, true)

/-- The FN of a stage is one R350 lists for its operation and TYPE. -/
def fnOk (op typ fn : Nat) : Bool :=
  if op = 8 then decide (fn ≤ 5)
  else if op = 0x10 then (if typ = 1 then decide (fn ≤ 1) else fn == 2)
  else if op = 0x11 ∨ op = 0x17 ∨ op = 0x18 then decide (fn ≤ 2)
  else if op = 0x12 ∨ op = 0x13 ∨ op = 0x14 ∨ op = 0x15 ∨ op = 0x16 then decide (fn ≤ 1)
  else fn == 0

/-- Operands an operation uses: A, B, C (09 R350). -/
def opUses (op : Nat) : Bool × Bool × Bool :=
  if op = 4 ∨ op = 5 then (true, true, true)
  else if op ∈ [0, 0x10, 0x11, 0x12, 0x14, 0x15, 0x16, 0x17, 0x18] then (true, false, false)
  else (true, true, false)

/-- Fields of a stage word (09 R348). -/
def stOP (w : BitVec 64) : Nat := field w.toNat 0 5
/-- TYPE. -/
def stTYPE (w : BitVec 64) : Nat := field w.toNat 5 1
/-- DST. -/
def stDST (w : BitVec 64) : Nat := field w.toNat 6 6
/-- SA, SB, SC. -/
def stSrc (w : BitVec 64) (i : Nat) : Nat := field w.toNat (12 + 7 * i) 7
/-- BBC. -/
def stBBC (w : BitVec 64) : Nat := field w.toNat 33 2
/-- MSK. -/
def stMSK (w : BitVec 64) : Nat := field w.toNat 35 3
/-- ZERO. -/
def stZERO (w : BitVec 64) : Bool := flag w.toNat 38
/-- MDST. -/
def stMDST (w : BitVec 64) : Nat := field w.toNat 39 3
/-- FN. -/
def stFN (w : BitVec 64) : Nat := field w.toNat 42 4

/-- The operand codes a stage's operation reads. -/
def stOperands (w : BitVec 64) : List Nat :=
  let u := opUses (stOP w)
  (if u.1 then [stSrc w 0] else []) ++ (if u.2.1 then [stSrc w 1] else []) ++ (if u.2.2 then [stSrc w 2] else [])

/-- Stage `i` of a chain breaks R364's rules of form. -/
def badStage (i : Nat) (w : BitVec 64) (src : Nat) (ld1 sv : Bool) : Bool :=
  let ty := opTypes (stOP w)
  let os := stOperands w
  decide (0x18 < stOP w) || !(if stTYPE w = 0 then ty.1 else ty.2) || decide (32 < stDST w) || stBBC w == 3 ||
  os.any (fun o => decide (47 < o) && decide (o < 64)) || !fnOk (stOP w) (stTYPE w) (stFN w) || field w.toNat 46 18 != 0 ||
  os.any (fun o => (o == 32 && i == 0) || (decide (41 ≤ o) && decide (o ≤ 47) && decide (i ≤ o - 41)) ||
    (o == 33 && src == 0) || (o == 34 && !ld1) || (o == 35 && !sv))

/-- The store format takes the last stage's TYPE (09 R343). -/
def storeTakes (fmt typ : Nat) : Bool :=
  if fmt = 1 then typ == 1 else if fmt = 6 then true else decide (fmt ≤ 8) && typ == 0

/-- An operand of a vector step, resolved: a descriptor, or one panel (or 32 values, for SV and RD) at A[AREG]
(11 R443). -/
def State.veOperand (s : State) (c : Nat) (o : OpField) (vec : Bool) : Option Operand :=
  if o.present = false then none
  else if o.abs then
    let e : Nat := ceilDiv (elemBits o.fmt) 8
    some (if vec then { typ := o.fmt, abs := true, base := s.absBase c o, sizes := [32, 1, 1, 1], strides := [4, 0, 0, 0] }
      else { typ := o.fmt, abs := true, rank := 1, base := s.absBase c o, sizes := [32, 32, 1, 1], strides := [e, (o.str * 128 : Nat), 0, 0] })
  else some (s.descriptor c o).1

/-- The vector step a VCHAIN word gives (11 R448; 09 R363). -/
def State.veStep (s : State) (c w : Nat) : VeStep :=
  let nst := body w 12 4
  { ctx := c, step := (s.ctx c).next, stages := (s.chain c (body w 0 12)).1.take nst, src := body w 16 2
    np := s.sizeOf c w (body w 18 16 + 1), stmode := body w 34 2, svax := flag w (64 + 36), red := body w 37 2, rax := flag w (64 + 39)
    loop := flag w (64 + 40), order := flag w (64 + 41), blkcol := flag w (64 + 42), count := s.areg c (body w 43 4)
    ld0 := s.veOperand c (opField w 48) false, ld1 := s.veOperand c (opField w 68) false, st := s.veOperand c (opField w 88) false
    sv := s.veOperand c (opField w 108) true, rd := s.veOperand c (opField w 128) true, imm := BitVec.ofNat 32 (body w 148 32)
    x := (s.ctx c).x, xpois := (s.ctx c).xpois, tadv := stepTally w, entry := s.cyc + 4 + nat (flag w 52) }

/-- The form of a vector descriptor (10 R403). -/
def Operand.vectorForm (o : Operand) (store blkcol : Bool) : Bool :=
  o.space == 0 && decide (o.typ ≤ 8) &&
  (if blocked o.typ then o.stride 0 == 1 && o.packdim == 0 else o.stride 0 == (ceilDiv (elemBits o.typ) 8 : Nat)) &&
  (!(store && blocked o.typ) || o.blkdim == nat blkcol)

/-- Checks of a VCHAIN (09 R364; 10 R389, R403; 11 R443, R468). A rule broken by the shape or the format of one operand
names that operand. -/
def State.vchainChecks (s : State) (c w : Nat) : List Check :=
  let x := s.ctx c
  let e := s.veStep c w
  let nst := body w 12 4
  let fs := [(opField w 48, 1), (opField w 68, 2), (opField w 88, 3), (opField w 108, 4), (opField w 128, 5)]
  let known := decide (body w 0 12 < x.man.nchain)
  let each (f : OpField × Nat) : List Check :=
    let o := f.1
    let vec := decide (3 < f.2)
    let d := (s.descriptor c o).1
    let ok := o.present && !o.abs && decide (o.desc < x.man.ndesc)
    s.fieldChecks c o f.2 ++
    chk (o.abs && (decide (7 ≤ o.fmt) || (vec && (o.str != 0 || decide (1 < o.fmt))))) 0x18 f.2 ++
    chk (ok && !d.vectorForm (f.2 == 3) e.blkcol) 0x07 f.2 ++
    (if ok = true ∨ (o.present = true ∧ o.abs = true ∧ o.fmt < 7) then
      match (s.veOperand c o vec).bind (s.placeHalt c) with | some r => [(r, f.2)] | none => [] else [])
  let last := (e.stages.getLast?).getD 0
  let lop := stOP last
  let dims (o : Option Operand) : Nat × Nat := match o with | some d => (d.rows, d.cols) | none => (0, 0)
  let tr := (dims e.ld0).1
  let tc := (dims e.ld0).2
  let holds (o : Option Operand) (n : Nat) : Bool := match o with | some d => d.count == n | none => true
  let badForm :=
    decide (nst = 0) || decide (8 < nst) || !known ||
    (e.stages.zipIdx.any (fun p => badStage p.2 p.1 e.src e.ld1.isSome e.sv.isSome)) ||
    (e.stages.dropLast.any (fun p => stOP p == 0x17 || stOP p == 0x18)) ||
    (e.stmode != 0 && e.st.isNone) ||
    (e.red != 0 && (!e.loop || e.rax != e.order || e.rd.isNone)) || (e.loop && e.src != 2) ||
    (e.src == 2 && e.ld0.isNone) ||
    e.src == 3 || e.stmode == 3 ||
    (e.stmode == 2 && (!e.loop || lop != 0x17 || stFN last != 2)) ||
    (szUse w && e.src != 1) || decide (65536 < e.np)
  fs.flatMap each ++
  chk (s.inService && (e.imm != 0 || (known && e.stages.any (fun p => (stOperands p).contains 38)))) 0x03 15 ++
  chk (known && (s.chain c (body w 0 12)).2) 0x0A 15 ++
  chk (e.stmode == 2 && s.badSpan c e.count 4 4) 0x08 15 ++
  chk (e.loop && e.ld1.isSome && dims e.ld1 != (tr, tc)) 0x18 2 ++
  chk ((e.loop && e.st.isSome && dims e.st != (tr, tc)) ||
    (e.stmode != 0 && (match e.st with | some d => !storeTakes d.typ (stTYPE last) | none => false))) 0x18 3 ++
  chk (e.loop && !holds e.sv (if e.svax then tc else tr)) 0x18 4 ++
  chk (e.loop && !holds e.rd (if e.rax then tc else tr)) 0x18 5 ++
  chk badForm 0x18 15

/-! ### Ferry steps (10 R418, R419) -/

/-- The ferry step a word gives (11 R449; 10 R413). -/
def State.feStep (s : State) (c w : Nat) : FeStep :=
  let op (lo : Nat) : Operand := (s.descriptor c (opField w lo)).1
  { ctx := c, step := (s.ctx c).next, op := stepOp w, ch := body w 0 2, src := op 2, dst := op 22
    idx := if (opField w 42).present then some (op 42) else none, cnt := body w 62 27
    ncount := if szUse w then some (s.sizeOf c w 0) else none
    gdim := body w 89 2, acc := body w 91 2, perm := body w 93 8, tadv := stepTally w, entry := s.cyc + 4 + nat (flag w 52) }

/-- Destination dimension of source dimension `d` (10 R413). -/
def FeStep.permOf (e : FeStep) (d : Nat) : Nat := field e.perm (2 * d) 2

/-- Two byte ranges meet. -/
def meetRange (a b : Int × Int) : Bool := decide (a.1 ≤ b.2) && decide (b.1 ≤ a.2)

/-- Tile whose scratchpad an operand lies in, if it is a scratchpad operand. -/
def Operand.spTile (o : Operand) (own : Nat) : Option Nat := if o.space = 0 then some own else if o.space = 1 then some o.tile else none

/-- FCOPY and FXPOSE between overlapping ranges of one scratchpad run in overlap mode (10 R424). -/
def FeStep.overlaps (e : FeStep) (own : Nat) : Bool :=
  decide (e.op ≤ 1) && (e.src.spTile own).isSome && e.src.spTile own == e.dst.spTile own &&
  e.src.footprint.any (fun a => e.dst.footprint.any (fun b => meetRange a b))

/-- Bytes of an operand's elements and scales (10 R425). -/
def Operand.dataBytes (o : Operand) : Nat := ceilDiv (o.count * elemBits o.typ) 8 + (if blocked o.typ then o.count / 32 else 0)

/-- A 4-bit operand of FGATHER or FSCATTER has GDIM as its PACKDIM or BLKDIM (10 R418). -/
def FeStep.packed (e : FeStep) : Bool :=
  decide (2 ≤ e.op) && ((blocked e.src.typ && (e.gdim == e.src.packdim || e.gdim == e.src.blkdim)) ||
    (blocked e.dst.typ && (e.gdim == e.dst.packdim || e.gdim == e.dst.blkdim)))

/-- PERM is a permutation of 0 to RANK, with zeros above (10 R413, R418). -/
def FeStep.permutes (e : FeStep) : Bool :=
  (List.range (e.src.rank + 1)).all (fun d => decide (e.permOf d ≤ e.src.rank) &&
    (List.range d).all (fun f => e.permOf f != e.permOf d)) &&
  (List.range 4).all (fun d => decide (d ≤ e.src.rank) || e.permOf d == 0)

/-- The destination does not match the source as R418 asks. -/
def FeStep.badDst (e : FeStep) : Bool :=
  let a := e.src
  let b := e.dst
  a.typ != b.typ || (match e.op with
    | 0 => a.sizes != b.sizes
    | 1 => a.rank != b.rank || (List.range (a.rank + 1)).any (fun d => b.size (e.permOf d) != a.size d) ||
        (blocked a.typ && b.blkdim != e.permOf a.blkdim)
    | _ => (List.range 4).any (fun d => d != e.gdim && a.size d != b.size d))

/-- The index operand is not the one R418 asks for: none in FCOPY and FXPOSE, otherwise one of the form of R413 with one
index per row. -/
def FeStep.badIdx (e : FeStep) : Bool :=
  match e.idx with
  | none => false
  | some i => decide (e.op ≤ 1) || i.typ != 1 || i.rank != 0 || i.space != 0 || i.stride 0 != 4 ||
      i.size 0 != (if e.op = 2 then e.dst else e.src).size e.gdim || decide (i.size 0 < e.ncount.getD 0)

/-- A body field other than the operands breaks R418. -/
def FeStep.badBody (e : FeStep) : Bool :=
  match e.op with
  | 0 => e.cnt != 0 || e.gdim != 0 || e.acc != 0 || e.perm != 0
  | 1 => e.cnt != 0 || e.gdim != 0 || e.acc != 0 || !e.permutes
  | 2 => e.perm != 0 || e.acc != 0 || e.packed
  | _ => e.perm != 0 || e.packed || (e.acc == 1 && e.src.typ != 0) || (e.acc == 2 && e.src.typ != 1) || (e.acc == 3 && e.src.typ != 2)

/-- A copy in overlap mode whose source is larger than the hold of 4 MiB (10 R425). -/
def FeStep.overlong (e : FeStep) (own : Nat) : Bool := e.overlaps own && decide (0x400000 < e.src.dataBytes)

/-- Checks of a ferry step (10 R405, R412, R418, R419, R425; 11 R443, R468). An operand unlike SRC is the operand
concerned, and the source of a copy too long for the overlap hold. -/
def State.ferryChecks (s : State) (c w : Nat) : List Check :=
  let e := s.feStep c w
  let nd := (s.ctx c).man.ndesc
  let fs := [(opField w 2, e.src, 1), (opField w 22, e.dst, 2), (opField w 42, e.idx.getD {}, 3)]
  let good (f : OpField) : Bool := f.present && !f.abs && decide (f.desc < nd)
  let each (f : OpField × Operand × Nat) : List Check :=
    s.fieldChecks c f.1 f.2.2 ++ chk f.1.abs 0x20 f.2.2 ++
    (if good f.1 then
      chk (f.2.1.space == 3 || (f.2.1.space == 4 && f.2.1.areg)) 0x20 f.2.2 ++
      (match s.placeHalt c (if f.2.2 = 3 then f.2.1.firstOf (e.ncount.getD (f.2.1.size 0)) else f.2.1) with
        | some r => [(r, f.2.2)] | none => [])
    else [])
  let usable := good (opField w 2) && good (opField w 22) && (!(opField w 42).present || good (opField w 42))
  fs.flatMap each ++
  chk (!(opField w 2).present) 0x20 1 ++ chk (!(opField w 22).present) 0x20 2 ++
  chk (decide (2 ≤ e.op) && !(opField w 42).present) 0x20 3 ++
  chk (usable && e.overlong (tileOfCtx c)) 0x20 1 ++ chk (usable && e.badDst) 0x20 2 ++ chk (usable && e.badIdx) 0x20 3 ++
  chk (e.cnt != 0 && s.badSpan c e.cnt 4 1) 0x08 15 ++
  chk ((usable && e.badBody) || (szUse w && e.cnt != 0)) 0x20 15

/-! ### Near-bank and global steps (11 R449, R462 to R464, R468) -/

/-- The near-bank step a word gives (11 R449). The expert list is read when the step starts. -/
def State.nbStep (s : State) (c w : Nat) : NbStep :=
  let op (lo : Nat) : Operand := (s.descriptor c (opField w lo)).1
  { ctx := c, step := (s.ctx c).next, cargo := s.cargoIndex c w, src := op 17, dst := op 37
    exi := if (opField w 57).present then some (op 57) else none
    exc := if flag w (64 + 81) then some (s.areg c (body w 77 4)) else none
    b := (s.xreg c (body w 82 6)).toNat % 2 ^ 32, gbase := body w 88 16, gcnt := s.sizeOf c w (body w 104 16)
    aset := body w 120 3, clr := flag w (64 + 123), tadv := stepTally w, entry := s.cyc + 4 + nat (flag w 52) }

/-- P of a batch: the pitch of a round of at most eight slots (05 R171). -/
def pitchB (b : Nat) : Nat := let k := min b 8; if k ≤ 1 then 1 else if k ≤ 2 then 2 else if k ≤ 4 then 4 else 8

/-- Checks of an NBPASS. -/
def State.nbChecks (s : State) (c w : Nat) : List Check :=
  let m := (s.ctx c).man
  let e := s.nbStep c w
  let have_ := decide (e.cargo < m.ncargo)
  let cg := s.cargo c e.cargo
  let wf := (s.berth c cg.berth).wfmt
  let ok (f : OpField) : Bool := f.present && !f.abs && decide (f.desc < m.ndesc)
  let each (f : OpField × Operand × Nat) : List Check :=
    s.fieldChecks c f.1 f.2.2 ++ chk f.1.abs 0x28 f.2.2 ++
    (if ok f.1 = true then match s.placeHalt c f.2.1 with | some r => [(r, f.2.2)] | none => [] else [])
  let fsrc := opField w 17
  let fdst := opField w 37
  let fexi := opField w 57
  each (fsrc, e.src, 1) ++ each (fdst, e.dst, 2) ++ each (fexi, e.exi.getD {}, 3) ++
  chk (!fsrc.present || (ok fsrc && (e.src.space != 0 || (have_ && e.src.typ != (if wf = 1 ∨ wf = 4 then 6 else 4))))) 0x28 1 ++
  chk (!fdst.present || (ok fdst && (e.dst.space != 0 || (have_ && e.dst.typ != (if wf = 4 then 1 else 0))))) 0x28 2 ++
  chk (fexi.present && ((have_ && cg.kind != 1) || (ok fexi && (match e.exi with
    | some d => d.typ != 1 || d.rank != 0 || d.space != 0 | none => false)))) 0x28 3 ++
  chk (e.exc.isSome && !fexi.present) 0x28 3 ++
  (match e.exc with | some a => chk (s.badSpan c a 4 1) 0x08 15 | none => []) ++
  chk (!have_ || (have_ && decide (cg.units < e.gbase + e.gcnt)) || decide (e.b < 1) || decide (64 < e.b) ||
    decide (8 ≤ e.aset * pitchB e.b)) 0x28 15

/-- Checks of a global step at decode: its operands' form and place (11 R443, R468; 10 R389, R419). -/
def State.globalChecks (s : State) (c w : Nat) : List Check :=
  let each (f : OpField × Nat) : List Check :=
    s.fieldChecks c f.1 f.2 ++ chk f.1.abs 0x30 f.2 ++
    (if f.1.present = true ∧ f.1.abs = false ∧ f.1.desc < (s.ctx c).man.ndesc then
      match s.placeHalt c (s.descriptor c f.1).1 with | some r => [(r, f.2)] | none => [] else [])
  each (opField w 7, 1) ++ each (opField w 27, 2)

/-! ### The whole decode -/

/-- Every check step word `w` of context `c` fails. They come before the step issues, so a step whose size register holds
zero meets them too (11 R450, R454, R468). -/
def State.decodeChecks (s : State) (c w : Nat) : List Check :=
  match frameChecks w with
  | [(0x01, f)] => [(0x01, f)]
  | fr => fr ++ (match stepEng w with
    | 0 => s.seqChecks c w
    | 1 => if stepOp w = 0 then s.mmulChecks c w else []
    | 2 => s.vchainChecks c w
    | 3 => s.ferryChecks c w
    | 4 => s.nbChecks c w
    | _ => s.globalChecks c w)

/-- The lower of two checks: 0x0A and 0x0B first, then the lowest code; 0x11 stands before 0x10 (11 R468). -/
def Check.before (a b : Check) : Bool :=
  let rank (k : Check) : Nat := if k.1 = 0x0A ∨ k.1 = 0x0B then 0 else if k.1 = 0x11 then 2 * 0x10 - 1 else 2 * k.1
  decide (rank a ≤ rank b)

/-- The halt a step meets at decode: the first of the checks that no other stands before (11 R468). -/
def State.decodeHalt (s : State) (c w : Nat) : Option Check :=
  match s.decodeChecks c w with
  | [] => none
  | k :: ks => some (ks.foldl (fun best e => if Check.before best e then best else e) k)

end Sys2Proof.Machine
end

