-- ==== Sys2Proof/Machine/Sequencer.lean ====
section
/-! DEFINITION. The sequencer: fetch, issue, replay and the steps it performs itself (chapter 11, 15 R591 to R594). -/

namespace Sys2Proof.Machine

/-- The sequencer cycle (11 R437). -/
def State.seqCycle (s : State) : Nat := s.cyc / 2

/-- A comparator: the tally it watches and THR (11 R435: CMk watches TLk at bind). -/
def Ctx.cmp (x : Ctx) (k : Nat) : Nat × BitVec 32 := Tab.get (fun k => (k, 0)) x.cm k

/-- A tally. -/
def Ctx.tally (x : Ctx) (k : Nat) : BitVec 32 := Tab.get (fun _ => 0) x.tl k

/-- A tally as a wait sees it at sequencer cycle `now`: without the advances it does not see yet (11 R453). -/
def Ctx.tallySeen (x : Ctx) (k now : Nat) : BitVec 32 :=
  x.tally k - BitVec.ofNat 32 (x.fresh.filter (fun e => e.1 == k && decide (now < e.2))).length

/-- The wait of R450: TL − THR, as a signed 32-bit value, is not negative. -/
def Ctx.waitMet (x : Ctx) (w now : Nat) : Bool :=
  let k := x.cmp (field w 12 3)
  !flag w 15 || decide (0 ≤ (x.tallySeen k.1 now - k.2).toInt)

/-- The distance of R450 and R452 is met at sequencer cycle `now`. -/
def Ctx.distMet (x : Ctx) (w now : Nat) : Bool :=
  let d := field w 20 4
  d == 0 || (match x.issues[d - 1]? with | some i => decide (i + field w 24 16 ≤ now) | none => true)

/-- A step whose size register holds zero: it does nothing and enters no queue (11 R454). -/
def State.sizeZero (s : State) (c w : Nat) : Bool := szUse w && s.sizeOf c w 1 == 0

/-- Entries of an engine queue that context `c` uses (11 R451). -/
def State.share (s : State) (c eng : Nat) : Nat :=
  let t := tileOfCtx c
  match eng with
  | 1 => ((s.mat t).queue.filter (fun e => e.ctx == c)).length
  | 2 => ((s.vec t).queue.filter (fun e => e.ctx == c)).length
  | 3 => ((List.range 4).map (fun i => (s.fchan (16 * t + 4 * (c % 4) + i)).queue.length)).sum
  | 4 => (s.ctx c).nbq.length
  | 5 => if (s.ctx c).gq.isSome then 1 else 0
  | _ => 0

/-- A context's share of an engine queue (11 R451). -/
def shareOf (eng : Nat) : Nat := match eng with | 1 => 4 | 2 => 8 | 3 => 8 | 4 => 4 | 5 => 1 | _ => 1

/-- The step after step `i` ends in issue order, with the replay bodies then active; `true` where a further repeat of a
body begins (11 R457). -/
def afterStep : List Replay → Nat → List Replay × Nat × Bool
  | [], i => ([], i + 1, false)
  | r :: rest, i =>
    if i = r.atStep + r.k then
      if r.j + 1 < r.n then ({ r with j := r.j + 1 } :: rest, r.atStep + 1, true) else afterStep rest i
    else (r :: rest, i + 1, false)

/-- INC entry `m` of a REPLAY step: AREG and XS, when valid (11 R456). -/
def incEntry (w m : Nat) : Option (Nat × Nat) :=
  let v := body w (48 + 11 * m) 11
  if flag v 10 then some (field v 0 4, field v 4 6) else none

/-- PAT entry `m` of a REPLAY step: XD, the source register and KIND, when valid (11 R456). -/
def patEntry (w m : Nat) : Option (Nat × Nat × Bool) :=
  let v := body w (92 + 14 * m) 14
  if flag v 13 then some (field v 0 6, field v 6 6, flag v 12) else none

/-- Entries that apply at repeat `j` of a body (11 R457). -/
def hasEntries (w j : Nat) : Bool :=
  (List.range 4).any (fun m =>
    (decide (0 < j) && (incEntry w m).isSome) ||
    (match patEntry w m with | some p => decide (0 < j) || p.2.2 | none => false))

/-- Context `c` with the replay state after a step (11 R457). -/
def Ctx.goOn (x : Ctx) (r : List Replay × Nat × Bool) : Ctx :=
  { x with stack := r.1, next := r.2.1
           pend := r.2.2 && (match r.1 with | e :: _ => hasEntries e.word.toNat e.j | [] => false) }

/-- What every issue does: THR advances by WINC, the issue cycle is noted, the step counts and is traced, and the next
step follows in manifest order (11 R450; 19 R711, R714). -/
def State.issued (s : State) (c w : Nat) : State :=
  let x := s.ctx c
  let now := s.seqCycle
  let lost := if x.lastIssue = 0 then 0 else now - x.lastIssue
  let s1 := s.modCtx c (fun x =>
    let k := field w 12 3
    ({ x with
      cm := if flag w 15 then Tab.upd (fun k => (k, 0)) x.cm k (fun e => (e.1, e.2 + BitVec.ofNat 32 (field w 16 4))) else x.cm
      issues := now :: x.issues.take 14, lastIssue := now + 1, stall := satNat 32 (x.stall + lost)
      waitCm := false, waitQ := false, waitMb := false }).goOn (afterStep x.stack x.next))
  let t := tileOfCtx c
  ((s1.trace 1 x.part c (stepEng w) x.next (stepOp w) 0 0).count t 0x01 x.part 1).count t 0x02 x.part lost

/-- A step that completes at issue (11 R453, R454). -/
def State.doneNow (s : State) (c w step : Nat) : State :=
  let s1 := s.advance c (stepTally w)
  let a := match stepTally w with | some k => ((s1.ctx c).tally k).toNat | none => 0
  s1.trace 2 (s.ctx c).part c (stepEng w) step (stepOp w) a 0

/-- One more step issued and not complete. -/
def State.outstand (s : State) (c w i : Nat) : State :=
  s.modCtx c (fun x => { x with outst := x.outst ++ [stepKey (stepEng w) (stepOp w) i] })

/-- The next step of context `c`, when it is operation `op` of engine `eng`: it halts the context at decode, waits, or
issues and has the effect `f`. A step that fails decode halts the context whichever command finds it. `mb` says R446
or R447 lets it issue; a hot hub issues no engine step (11 R450, R468; 17 R664). -/
def State.issue (s : State) (c eng op : Nat) (mb : Nat → Bool) (f : Nat → Nat → State → State) : State :=
  let x := s.ctx c
  if x.st ≠ .running ∨ x.pend = true ∨ x.access.isSome = true then s
  else match Tab.get (fun _ => none) x.cache x.next with
    | none => s
    | some (bw, bad) =>
      let w := bw.toNat
      if bad then s.halt c 0x0A 15 x.next
      else match s.decodeHalt c w with
        | some k => s.halt c k.1 k.2 x.next
        | none =>
          if stepEng w = eng ∧ stepOp w = op then
            let cm := x.waitMet w s.seqCycle
            let q := eng == 0 || s.sizeZero c w || decide (s.share c eng < shareOf eng)
            if cm && q && mb w && (eng == 0 || !(s.hub (tileOfCtx c)).holdIssue) && x.distMet w s.seqCycle && decide (x.lastIssue ≤ s.seqCycle) then
              if eng ≠ 0 ∧ s.sizeZero c w = true then (s.issued c w).doneNow c w x.next
              else f w x.next (s.issued c w)
            else s.modCtx c (fun x => { x with waitCm := !cm, waitQ := !q, waitMb := !mb w })
          else s

/-- Nothing of R446 or R447 holds the step. -/
def noWait (_ : Nat) : Bool := true

/-! ### Fetch -/

/-- A step fetched ahead arrives in the context's step cache, which then holds it in place of the step 2048 away; a fetch
at NSTEP or above halts the context when that step is next (11 R439, R468). The fetch waits until its channel grants it; R119 gives step fetches
no requester identifier, and the model lets them ask as management, 6 (DESIGN CHOICE, log entry 100). -/
def execStepFetch (ctx : Fin 64) (index : BitVec 24) (s : State) : Result :=
  let c := ctx.val
  let x := s.ctx c
  let i := index.toNat
  .next (
    if x.st ≠ .running then s
    else if x.man.nstep ≤ i then (if i = x.next then s.halt c 0x0B 15 x.next else s)
    else
      let sa := x.man.steps + 32 * i
      let dead := (s.slot (sa / slotBytes)).dead
      if dead = false ∧ s.canRead 6 sa = false then s
      else
        let s0 := if dead then s else (s.countGrant (chanOfBank (s.locate sa).moduleBank) 6).readMesh (tileOfCtx c) (s.homeOf sa) 1
        let r := s0.deviceRead 6 5 x.part sa
        let b := ((lineBytes r.1.1).drop (sa % 64)).take 32
        r.2.modCtx c (fun x => { x with
          cache := Tab.put ((Tab.erase x.cache i).filter (fun e => e.1 % 2048 != i % 2048)) i (some (BitVec.ofNat 256 (ofLe b), r.1.2))
          miss := if i = x.next then satNat 32 (x.miss + 1) else x.miss }))

/-! ### Steps that complete at issue -/

/-- NOP (11 R444). -/
def execNop (ctx : Fin 64) (s : State) : Result :=
  .next (s.issue ctx 0 0 noWait (fun w i s => s.doneNow ctx w i))

/-- XSET: X[XD] := VALUE (11 R444); in service it halts the context at decode (R468). -/
def execXset (ctx : Fin 64) (s : State) : Result :=
  .next (s.issue ctx 0 5 noWait (fun w i s =>
    (s.modCtx ctx (fun x => x.setX (body w 0 6) [BitVec.ofNat 64 (body w 64 64)] false)).doneNow ctx w i))

/-- AMOV: A[AD] := X[XS][47:0] (11 R444). -/
def execAmov (ctx : Fin 64) (s : State) : Result :=
  .next (s.issue ctx 0 6 noWait (fun w i s =>
    let v := BitVec.ofNat 48 (s.xreg ctx (body w 4 6)).toNat
    (s.modCtx ctx (fun x => { x with a := Tab.set (fun _ => 0) x.a (body w 0 4) v })).doneNow ctx w i))

/-- CMSET: a comparator's tally and THR (11 R444). -/
def execCmset (ctx : Fin 64) (s : State) : Result :=
  .next (s.issue ctx 0 7 noWait (fun w i s =>
    let t := body w 3 4
    let v := BitVec.ofNat 32 (s.xreg ctx (body w 7 6)).toNat
    let thr := if flag w (64 + 13) then (s.ctx ctx).tally t + v else v
    (s.modCtx ctx (fun x => { x with cm := Tab.set (fun k => (k, 0)) x.cm (body w 0 3) (t, thr) })).doneNow ctx w i))

/-- A split-table entry: F, FMIN, FMAX (11 R459). -/
def State.splitEntry (s : State) (c table b : Nat) : Nat × Nat × Nat :=
  let v := bytesAt (s.readBytes ((s.ctx c).man.splits + 256 * table + 4 * (b - 1)) 4).1 0 4
  (field v 0 7, field v 8 7, field v 16 7)

/-- The bank share of G output groups under a split-table entry, moved by the governor's shift (11 R461). -/
def bankShare (e : Nat × Nat × Nat) (shift : Int) (g : Nat) (gran : Bool) : Nat :=
  let f := (min (e.2.2 : Int) (max (e.2.1 : Int) ((e.1 : Int) + shift))).toNat
  let gb := g * f / 64
  if gran then gb - gb % 2 else gb

/-- SHIFT as a context's SPLIT takes it: zero for a partition pinned in SPLPIN (11 R461; 13 R508). -/
def State.shiftOf (s : State) (c : Nat) : Int :=
  match (s.ctx c).part with
  | some p => if flag (s.reg 0 rSPLPIN) p then 0 else (s.hub (tileOfCtx c)).shift
  | none => (s.hub (tileOfCtx c)).shift

/-- SPLIT (11 R461). -/
def execSplit (ctx : Fin 64) (s : State) : Result :=
  .next (s.issue ctx 0 8 noWait (fun w i s =>
    let c := ctx.val
    let b := (s.xreg c (body w 21 6)).toNat % 2 ^ 32
    let g := (s.cargo c (s.cargoIndex c w)).g
    let gb := bankShare (s.splitEntry c (body w 17 4) b) (s.shiftOf c) g (flag w (64 + 33))
    let xd := body w 27 6
    let mrows := body w 49 16 + 1
    let vs := [gb, g - gb, 64 * (g - gb), ceilDiv mrows 32 * 2 * (g - gb)]
    let a := s.areg c (body w 38 4) + 64 * gb / 128 * (s.xreg c (body w 42 6)).toNat
    (s.modCtx c (fun x => { x.setX xd (vs.map (BitVec.ofNat 64)) (s.xbad c (body w 21 6)) with
      a := if flag w (64 + 48) then Tab.set (fun _ => 0) x.a (body w 34 4) (BitVec.ofNat 48 a) else x.a })).doneNow c w i))

/-- EVENT: a user event with X[XS] and CODE (11 R444; 15 R590). -/
def execEvent (ctx : Fin 64) (s : State) : Result :=
  .next (s.issue ctx 0 11 noWait (fun w i s =>
    let v := (s.xreg ctx (body w 0 6)).toNat
    let s1 := match (s.ctx ctx).part with
      | some p => s.event p 9 [(16, 8, v), (24, 2, body w 6 10), (26, 1, ctx.val)]
      | none => s
    s1.doneNow ctx w i))

/-- END: once every issued step is complete, the port read buffers drop the partition's lines, the completion is posted
and the context is idle (11 R447; 14 R534; 15 R588). A VALUE from a poisoned register is reported as poisoned (00 R6). -/
def execEnd (ctx : Fin 64) (s : State) : Result :=
  let x := s.ctx ctx
  .next (s.issue ctx 0 1 (fun _ => x.outst.isEmpty) (fun w i s =>
    let c := ctx.val
    let s1 := match x.part with | some p => s.dropBuffers p | none => s
    let s2 := (s1.doneNow c w i).modCtx c (fun x => { x with st := .idle, start := none, stack := [], pend := false })
    let v := if flag w (64 + 6) then (s.xreg c (body w 0 6)).toNat % 2 ^ 32 else 0
    let s3 := if flag w (64 + 6) && s.xbad c (body w 0 6) then s2.notePoison c else s2
    match x.start with
    | some r => s3.complete r { s3.statusOf c with value := BitVec.ofNat 32 v }
    | none => s2))

/-! ### Replay -/

/-- REPLAY: a body of K steps opens, or is skipped when N is 0 (11 R456 to R458). -/
def execReplay (ctx : Fin 64) (s : State) : Result :=
  .next (s.issue ctx 0 2 noWait (fun w i s =>
    let c := ctx.val
    let k := body w 0 16
    let n := s.sizeOf c w (body w 16 32)
    let s1 := s.modCtx c (fun x =>
      if n = 0 then x.goOn (afterStep x.stack (i + k))
      else { x with stack := { atStep := i, k := k, n := n, word := BitVec.ofNat 256 w } :: x.stack, next := i + 1, pend := hasEntries w 0 })
    s1.doneNow c w i))

/-- INC entry `m` applied: A[AREG] := A[AREG] + X[XS][47:0] (11 R457). -/
def State.applyInc (s : State) (c w m : Nat) : State :=
  match incEntry w m with
  | some (a, xs) => s.modCtx c (fun x => { x with
      a := Tab.upd (fun _ => 0) x.a a (fun v => v + BitVec.ofNat 48 (Tab.get (fun _ => 0) x.x xs).toNat) })
  | none => s

/-- Scratchpad address of a kind-1 patch at repeat `j` (11 R457). -/
def State.patchAddr (s : State) (c areg j : Nat) : Nat := s.areg c (areg % 16) + 8 * j

/-- Register `n` of context `c` takes 8 bytes of the own scratchpad: where the word is poisoned, its mark and a value
the spec leaves open, which is noted (00 R6; 10 R395). -/
def State.loadX (s : State) (c n a : Nat) : State :=
  let t := tileOfCtx c
  if s.spPoisoned t a 8 then
    (s.draw.notePoison c).modCtx c (fun x => x.setX n [Config.freeWord s.free] true)
  else s.modCtx c (fun x => x.setX n [BitVec.ofNat 64 (ofLe (s.spRead t a 8))] false)

/-- PAT entry `m` applied at repeat `j` (11 R457). -/
def State.applyPat (s : State) (c w m j : Nat) : State :=
  match patEntry w m with
  | some (xd, src, true) =>
    s.loadX c xd (s.patchAddr c src j)
  | some (xd, src, false) =>
    if 0 < j then s.modCtx c (fun x => x.setX xd [s.xreg c xd + s.xreg c src] (s.xbad c xd || s.xbad c src)) else s
  | none => s

/-- Every entry of a repeat applied in order; a kind-1 patch at a bad address halts the context (11 R457). The second
part counts the scratchpad reads. -/
def State.applyPats : List Nat → Nat → Nat → Nat → Nat → State → State × Nat
  | [], _, _, _, reads, s => (s, reads)
  | m :: ms, c, w, j, reads, s =>
    match patEntry w m with
    | some (_, src, true) =>
      let a := s.patchAddr c src j
      if s.badSpan c a 8 8 then (s.halt c 0x08 15 (match (s.ctx c).stack with | r :: _ => r.atStep | [] => (s.ctx c).next), reads)
      else State.applyPats ms c w j (reads + 1) (s.applyPat c w m j)
    | _ => State.applyPats ms c w j reads (s.applyPat c w m j)

/-- Scratchpad words that the kind-1 patches of a repeat read (11 R445, R457). -/
def State.patchWords (s : State) (c w j : Nat) : List Nat :=
  [0, 1, 2, 3].filterMap (fun m =>
    match patEntry w m with | some (_, src, true) => some (spWordOf (tileOfCtx c) (s.patchAddr c src j)) | _ => none)

/-- The entries of a repeat are applied before its first step is decoded; kind-1 patches take a scratchpad access each
(11 R445, R457). -/
def execReplayRepeat (ctx : Fin 64) (s : State) : Result :=
  let c := ctx.val
  let x := s.ctx c
  .next (
    match x.stack with
    | [] => s
    | r :: _ =>
      if x.st ≠ .running ∨ x.pend = false ∨ x.access.isSome = true then s
      else
        let w := r.word.toNat
        let s1 := if 0 < r.j then [0, 1, 2, 3].foldl (fun s m => s.applyInc c w m) s else s
        let q := State.applyPats [0, 1, 2, 3] c w r.j 0 s1
        q.1.modCtx c (fun x => { x with
          pend := false
          access := if 0 < q.2 ∧ x.st = .running then some { kind := 3, fin := s.seqCycle + 8 * q.2, words := s1.patchWords c w r.j } else x.access }))

/-! ### Scratchpad accesses (11 R445) -/

/-- The access of an XLD, XST or MBXW to `len` bytes from address `a` on begins. -/
def State.beginAccess (s : State) (c w i kind a len : Nat) : State :=
  (s.outstand c w i).modCtx c (fun x => { x with
    access := some { kind := kind, tadv := stepTally w, fin := s.seqCycle + 8, step := i, words := spWords (tileOfCtx c) a len } })

/-- The sequencer cycle at which an access ends: each cycle of bank wait adds half a one, rounded up (11 R445). -/
def Access.ends (a : Access) : Nat := a.fin + (a.waits + 1) / 2

/-- XLD: registers loaded from the scratchpad (11 R444). -/
def execXld (ctx : Fin 64) (s : State) : Result :=
  .next (s.issue ctx 0 3 noWait (fun w i s =>
    let c := ctx.val
    let a := (s.xldSpan c w).1
    let s1 := (List.range (body w 38 6 + 1)).foldl (fun s k => s.loadX c (body w 32 6 + k) (a + 8 * k)) s
    s1.beginAccess c w i 0 a (8 * (body w 38 6 + 1))))

/-- XST: registers stored to the scratchpad (11 R444), each with its poison, which the status reports (00 R6; 10 R394). -/
def execXst (ctx : Fin 64) (s : State) : Result :=
  .next (s.issue ctx 0 4 noWait (fun w i s =>
    let c := ctx.val
    let a := (s.xldSpan c w).1
    let reg := fun k => leBytes 8 (s.xreg c (body w 32 6 + k)).toNat
    let ks := List.range (body w 38 6 + 1)
    let s1 := s.spWrite (tileOfCtx c) a (ks.flatMap reg) false
    let s2 := (ks.filter (fun k => s.xbad c (body w 32 6 + k))).foldl
      (fun s k => (s.spWrite (tileOfCtx c) (a + 8 * k) (reg k) true).notePoison c) s1
    s2.beginAccess c w i 1 a (8 * (body w 38 6 + 1))))

/-- The access ends: its step completes and issue goes on (11 R445, R453). -/
def execScratchpadAccessEnd (ctx : Fin 64) (s : State) : Result :=
  let c := ctx.val
  .next (
    match (s.ctx c).access with
    | none => s
    | some a =>
      if s.seqCycle < a.ends then s
      else
        let s1 := s.modCtx c (fun x => { x with access := none })
        if a.kind = 3 then s1 else s1.stepDone c a.step 0 ([3, 4, 10].getD a.kind 0) a.tadv)

/-! ### Mailboxes (15 R591 to R594) -/

/-- The page through which context `c`'s partition works, if it has one. -/
def State.pageOfCtx (s : State) (c : Nat) : Option Nat := (s.ctx c).part.map s.pageOfPart

/-- Service address of host-to-device slot `k` in a shared slot (15 R567, R593). -/
def Page.h2dSa (g : Page) (k : Nat) : Nat := field g.mbxh2d.toNat 16 13 * slotBytes + field g.mbxh2d.toNat 0 16 + 64 * k

/-- Host-to-device slot `k` of context `c`'s partition, with its poison (15 R591, R592). -/
def State.h2dSlot (s : State) (c k : Nat) : BitVec 512 × Bool :=
  match (s.ctx c).part with
  | none => (0, false)
  | some p =>
    let g := s.page (s.pageOfPart p)
    if flag g.mbxcfg.toNat 0 then (Tab.get (fun _ => 0) (s.part p).h2d k, false) else s.homeRead (g.h2dSa k)

/-- The slot holds a message not yet consumed: SEQ not zero and not the one of H2DACK (15 R591). -/
def State.hasMail (s : State) (c k : Nat) : Bool :=
  let seq := BitVec.ofNat 32 (field (s.h2dSlot c k).1.toNat 480 32)
  match (s.ctx c).part with
  | some p => (s.page (s.pageOfPart p)).en && seq != 0 && seq != Tab.get (fun _ => 0) (s.part p).h2dack k
  | none => false

/-- MBXR: the message is loaded into eight registers and its SEQ recorded and shown (11 R446; 15 R591). -/
def execMbxr (ctx : Fin 64) (s : State) : Result :=
  .next (s.issue ctx 0 9 (fun w => s.hasMail ctx (body w 0 3)) (fun w i s =>
    let c := ctx.val
    let k := body w 0 3
    let m := s.h2dSlot c k
    let vals := if m.2 then (List.range 8).map (fun n => Config.freeWord (s.free + n))
      else (List.range 8).map (fun n => BitVec.ofNat 64 (field m.1.toNat (64 * n) 64))
    let s1 := if m.2 then (s.putFree (s.free + 8)).notePoison c else s
    let s2 := s1.modCtx c (fun x => x.setX (body w 3 6) vals m.2)
    let s3 := match (s.ctx c).part with
      | some p => (s2.modPart p (fun q => { q with h2dack := Tab.set (fun _ => 0) q.h2dack k (BitVec.ofNat 32 (field m.1.toNat 480 32)) })).writeControl (s.pageOfPart p)
      | none => s2
    s3.doneNow c w i))

/-- The count after `v`: the next number, skipping 0 at wrap (15 R594). -/
def nextCount (v : BitVec 32) : BitVec 32 := if v + 1 = 0 then 1 else v + 1

/-- MBXW: 60 bytes of the scratchpad and the slot's count written to host memory as a flag (15 R594); held while the
mailboxes do not run. -/
def execMbxw (ctx : Fin 64) (s : State) : Result :=
  .next (s.issue ctx 0 10 (fun _ => match s.pageOfCtx ctx with | some k => (s.page k).en | none => false) (fun w i s =>
    let c := ctx.val
    let k := body w 0 3
    let a := s.mbxwAddr c w
    let t := tileOfCtx c
    match (s.ctx c).part with
    | none => s
    | some p =>
      let g := s.page (s.pageOfPart p)
      let n := nextCount (Tab.get (fun _ => 0) (s.part p).d2hcnt k)
      let s1 := s.modPart p (fun q => { q with d2hcnt := Tab.set (fun _ => 0) q.d2hcnt k n })
      let s2 := s1.hostWrite
        { port := (s.part p).port, part := some p, addr := g.mbxd2h.toNat + 64 * k, data := s.spRead t a 60 ++ leBytes 4 n.toNat
          kind := .mailbox, poison := s.spPoisoned t a 60, vec := if flag g.mbxcfg.toNat 1 then some 2 else none }
      s2.beginAccess c w i 2 a 60))

end Sys2Proof.Machine
end

