-- ==== Sys2Proof/Machine/Ferry.lean ====
section
/-! DEFINITION. The ferry engine: its steps, the movement of their data, COPY descriptors and faults (chapter 10, 15
R581). -/

namespace Sys2Proof.Machine

/-! ### Where a byte lies -/

/-- A byte's place: `kind` 0 a scratchpad of this module, 2 device memory, 3 host memory, 4 a scratchpad and 5 device
memory of another module. -/
structure Spot where
  kind : Nat
  tile : Nat
  mod : Nat
  addr : Nat
  deriving DecidableEq, Repr

/-- One number for a place; 64 numbers in a row are a line. -/
def Spot.key (p : Spot) : Nat := p.addr % 2 ^ 48 + 2 ^ 48 * (p.tile % 16 + 16 * (p.mod % 64 + 64 * p.kind))

/-- The place a number stands for. -/
def spotOf (k : Nat) : Spot := { kind := k / 2 ^ 58, tile := k / 2 ^ 48 % 16, mod := k / 2 ^ 52 % 64, addr := k % 2 ^ 48 }

/-- Address, space, tile and module as FCADDR shows them (10 R434). -/
def Spot.fc (p : Spot) : Nat × Nat × Nat × Nat :=
  (p.addr / 64 * 64, if p.kind ≤ 3 then (if p.kind = 0 ∧ p.mod = 1 then 1 else p.kind) else if p.kind = 4 then 1 else 2, p.tile, if 4 ≤ p.kind then p.mod else 0)

/-- Why a movement stops: fault, operand, place. -/
structure Stop where
  fault : Nat
  fld : Nat
  spot : Spot
  deriving DecidableEq, Repr

/-- The place of a byte of operand `o` at address `a` (SPACE 0 to 3), or why it cannot be reached (10 R431 fault 0x8). -/
def State.plainSpot (s : State) (c fld : Nat) (o : Operand) (a : Int) : Spot ⊕ Stop :=
  let n := a.toNat
  match o.space with
  | 0 => .inl { kind := 0, tile := tileOfCtx c, mod := 0, addr := n }
  | 1 =>
    let p : Spot := { kind := 0, tile := o.tile, mod := 0, addr := n }
    if s.inWindow c o.tile false (a, a) then .inl p else .inr { fault := 8, fld := fld, spot := p }
  | 2 => .inl { kind := 2, tile := 0, mod := 0, addr := n }
  | _ => .inl { kind := 3, tile := 0, mod := 0, addr := n }

/-- An owner-table entry (10 R404). -/
def State.ownerEntry (s : State) (o : Operand) (k : Nat) : Nat := bytesAt (s.readBytes (o.otbase + 8 * k) 8).1 0 8

/-- The place of an element's byte, or of its scale, through the owner table of a SPACE 4 operand (10 R404 to R406, R431
faults 0x3, 0x4 and 0x8). -/
def State.ownedSpot (s : State) (c fld : Nat) (o : Operand) (i : List Nat) (scale : Bool) : Spot ⊕ Stop :=
  let k := i.getD o.distdim 0 / max 1 o.chunk
  let e := s.ownerEntry o k
  let at_ : Spot := { kind := 2, tile := 0, mod := 0, addr := o.otbase + 8 * k }
  if flag e 59 = false then .inr { fault := 3, fld := fld, spot := at_ }
  else
    let j := i.set o.distdim (i.getD o.distdim 0 % max 1 o.chunk)
    let b := field e 0 48
    let a := (if scale then o.scaleFrom (b + o.scbase) j else o.addrFrom b j).toNat
    let m := field e 52 6
    let sp := flag e 58
    if m = s.boot.modid then
      if sp then
        let x := s.slot (a / slotBytes)
        let p : Spot := { kind := 2, tile := 0, mod := 0, addr := a }
        if x.owner = (s.ctx c).part ∧ x.cls ≠ .devOnly then .inl p else .inr { fault := 4, fld := fld, spot := p }
      else
        let p : Spot := { kind := 0, tile := field e 48 4, mod := 0, addr := a }
        if s.inWindow c p.tile false ((a : Int), (a : Int)) then .inl p else .inr { fault := 8, fld := fld, spot := p }
    else .inl { kind := if sp then 5 else 4, tile := if sp then 0 else field e 48 4, mod := m, addr := a }

/-- The place of an element of an operand. -/
def State.elemSpot (s : State) (c fld : Nat) (o : Operand) (i : List Nat) : Spot ⊕ Stop :=
  if o.space = 4 then s.ownedSpot c fld o i false else s.plainSpot c fld o (o.addr i)

/-- The place of an element's scale. -/
def State.scaleSpot (s : State) (c fld : Nat) (o : Operand) (i : List Nat) : Spot ⊕ Stop :=
  if o.space = 4 then s.ownedSpot c fld o i true else s.plainSpot c fld o (o.scale i)

/-! ### The movements of a step (10 R413 to R417) -/

/-- One element or scale moved: its places, nibbles, width in bits and ACC. -/
structure Move where
  src : Spot
  sHigh : Bool
  dst : Spot
  dHigh : Bool
  bits : Nat
  acc : Nat
  deriving DecidableEq, Repr

/-- A movement, or the fault that stops the step there. -/
abbrev Moves := List (Move ⊕ Stop)

/-- Element `i` of the source to element `j` of the destination, and the scale of a block that begins there. -/
def State.moveElem (s : State) (c : Nat) (a b : Operand) (i j : List Nat) (acc : Nat) : Moves :=
  let pair (x y : Spot ⊕ Stop) (f : Spot → Spot → Move) : Move ⊕ Stop :=
    match x, y with
    | .inr e, _ => .inr e
    | _, .inr e => .inr e
    | .inl p, .inl q => .inl (f p q)
  pair (s.elemSpot c 1 a i) (s.elemSpot c 2 b j)
    (fun p q => { src := p, sHigh := a.high i, dst := q, dHigh := b.high j, bits := elemBits a.typ, acc := acc }) ::
  (if blocked a.typ ∧ i.getD a.blkdim 0 % 32 = 0 then
    [pair (s.scaleSpot c 1 a i) (s.scaleSpot c 2 b j) (fun p q => { src := p, sHigh := false, dst := q, dHigh := false, bits := 8, acc := 0 })]
  else [])

/-- Every index of one row: dimension `g` fixed at `v` (10 R416). -/
def Operand.rowIndices (o : Operand) (g v : Nat) : List (List Nat) :=
  let r := { o with sizes := o.sizes.set g 1 }
  (List.range r.count).map (fun n => (r.index n).set g v)

/-- Destination index of source index `i` under PERM (10 R415). -/
def FeStep.permute (e : FeStep) (i : List Nat) : List Nat :=
  (List.range (e.src.rank + 1)).foldl (fun j d => j.set (e.permOf d) (i.getD d 0)) [0, 0, 0, 0]

/-- The count n of FGATHER and FSCATTER: the count word, the size register, or IDX SIZE0; none where the count word is
poisoned (10 R416). -/
def State.rowCount (s : State) (e : FeStep) : Option Nat :=
  let t := tileOfCtx e.ctx
  let top : Nat := match e.idx with | some i => i.size 0 | none => 0
  if e.cnt ≠ 0 then
    if s.spPoisoned t e.cnt 4 then none
    else some (clampInt 0 (top : Int) (signed 32 (ofLe (s.spRead t e.cnt 4)))).toNat
  else some (e.ncount.getD top)

/-- Index j of a step, none where it is poisoned (10 R416, R423). -/
def State.rowIndex (s : State) (e : FeStep) (j : Nat) : Option Int :=
  let t := tileOfCtx e.ctx
  let a := (e.idx.getD {}).base + 4 * j
  if s.spPoisoned t a 4 then none else some (signed 32 (ofLe (s.spRead t a 4)))

/-- Rows of the operand that the indices select from (10 R416). -/
def FeStep.indexedRows (e : FeStep) : Nat := if e.op = 2 then e.src.size e.gdim else e.dst.size e.gdim

/-- The movements of one row of FGATHER or FSCATTER. -/
def State.moveRow (s : State) (e : FeStep) (j : Nat) : Moves :=
  let t := tileOfCtx e.ctx
  let bad : Moves := [.inr { fault := 2, fld := 3, spot := { kind := 0, tile := t, mod := 0, addr := (e.idx.getD {}).base + 4 * j } }]
  match s.rowIndex e j with
  | none => bad
  | some v =>
    if v = -1 then []
    else if v < -1 ∨ (e.indexedRows : Int) ≤ v then bad
    else
      let r := v.toNat
      if e.op = 2 then
        (e.dst.rowIndices e.gdim j).flatMap (fun i => s.moveElem e.ctx e.src e.dst (i.set e.gdim r) i 0)
      else
        (e.src.rowIndices e.gdim j).flatMap (fun i => s.moveElem e.ctx e.src e.dst i (i.set e.gdim r) e.acc)

/-- The movements of a step, in order (10 R414 to R417). -/
def State.moves (s : State) (e : FeStep) : Moves :=
  match e.op with
  | 0 => (List.range e.src.count).flatMap (fun n => let i := e.src.index n; s.moveElem e.ctx e.src e.dst i i 0)
  | 1 => (List.range e.src.count).flatMap (fun n => let i := e.src.index n; s.moveElem e.ctx e.src e.dst i (e.permute i) 0)
  | _ =>
    match s.rowCount e with
    | none => [.inr { fault := 2, fld := 15, spot := { kind := 0, tile := tileOfCtx e.ctx, mod := 0, addr := e.cnt } }]
    | some n => (List.range n).flatMap (fun j => s.moveRow e j)

/-- The movements before the first fault. -/
def movesOf : Moves → List Move
  | .inl m :: l => m :: movesOf l
  | _ => []

/-- The fault a step's movements meet, if any. -/
def stopOf : Moves → Option Stop
  | [] => none
  | .inl _ :: l => stopOf l
  | .inr e :: _ => some e

/-! ### Reading and collecting -/

/-- Bytes of a step on their way to their places, with poison, by place number. -/
abbrev Sheet := Tab (BitVec 8 × Bool)

/-- A byte as a ferry channel reads it, with poison (10 R423; 14 R541). -/
def State.spotByte (s : State) (f : FeChan) (k : Nat) : BitVec 8 × Bool :=
  let p := spotOf k
  match p.kind with
  | 0 => (s.spByte (p.tile * spBytes + p.addr), s.spBad (p.tile * 2 ^ 21 + p.addr / 64))
  | 2 =>
    let l := Tab.get (fun _ => (0, true)) f.got (p.addr / 64)
    ((lineBytes l.1).getD (p.addr % 64) 0, l.2)
  | _ => Tab.get (fun _ => (0, true)) f.stage k

/-- A byte of a sheet, otherwise as it lies. -/
def State.sheetByte (s : State) (f : FeChan) (b : Sheet) (k : Nat) : BitVec 8 × Bool :=
  match b.find? (fun e => e.1 == k) with
  | some e => e.2
  | none => s.spotByte f k

/-- FSCATTER's ⊕ (10 R416). -/
def accumulate (acc old new : Nat) : Nat :=
  if acc = 1 then (addF32 (BitVec.ofNat 32 old) (BitVec.ofNat 32 new)).toNat
  else if acc = 2 then (old + new) % 2 ^ 32
  else bf16.encode ((bf16.decode old).add (bf16.decode new))

/-- One movement made on the sheet. Sources come from where they lie, not from the sheet (10 R424). Both nibbles of a byte are moved, the low
one first. -/
def State.applyMove (s : State) (f : FeChan) (b : Sheet) (m : Move) : Sheet :=
  let put (b : Sheet) (k : Nat) (v : BitVec 8 × Bool) : Sheet := Tab.put (Tab.erase b k) k v
  if m.bits = 4 then
    let v := s.spotByte f m.src.key
    let n := if m.sHigh then v.1.toNat / 16 else v.1.toNat % 16
    let o := (b.find? (fun e => e.1 == m.dst.key)).elim (0, false) Prod.snd
    let w := if m.dHigh then o.1.toNat % 16 + 16 * n else o.1.toNat / 16 * 16 + n
    put b m.dst.key (BitVec.ofNat 8 w, v.2 || (m.dHigh && o.2))
  else
    let n := m.bits / 8
    let vs := (List.range n).map (fun i => s.spotByte f (m.src.key + i))
    let pois := vs.any (fun v => v.2)
    if m.acc = 0 then
      (List.range n).foldl (fun b i => put b (m.dst.key + i) ((vs.getD i (0, false)).1, pois)) b
    else
      let os := (List.range n).map (fun i => s.sheetByte f b (m.dst.key + i))
      let w := leBytes n (accumulate m.acc (ofLe (os.map (fun v => v.1))) (ofLe (vs.map (fun v => v.1))))
      let bad := pois || os.any (fun v => v.2)
      (List.range n).foldl (fun b i => put b (m.dst.key + i) (w.getD i 0, bad)) b

/-- The lines of a sheet: line number, data, byte enables and poison. -/
def sheetLines : Sheet → List (Nat × Line512 × BitVec 64 × Bool)
  | b => ((b.map (fun e => e.1 / 64)).eraseDups).map (fun l =>
      let es := b.filter (fun e => e.1 / 64 == l)
      (l, lineOf (es.foldl (fun d e => d.set (e.1 % 64) e.2.1) (List.replicate 64 0)),
       BitVec.ofNat 64 (es.foldl (fun m e => m + 2 ^ (e.1 % 64)) 0), es.any (fun e => e.2.2)))

/-! ### Writing -/

/-- The port that a tile's own requests to host memory leave through (10 R411). -/
def State.ferryPort (s : State) (t : Nat) : Nat :=
  if (s.hport (t / 4)).gone then ((List.range 4).find? (fun p => !(s.hport p).gone)).getD (t / 4) else t / 4

/-- The bytes of `d` that a mask enables, as runs of address and bytes. -/
def maskedRuns (a : Nat) (d : List Byte) (mask : Nat) : List (Nat × List Byte) :=
  (List.range 64).foldl (fun rs i =>
    if flag mask i then
      match rs.getLast? with
      | some (b, l) => if b + l.length = a + i then rs.dropLast ++ [(b, l ++ [d.getD i 0])] else rs ++ [(a + i, [d.getD i 0])]
      | none => [(a + i, [d.getD i 0])]
    else rs) []

/-- A ferry write put into its channel's write queue, where it is visible (10 R420, R421; 04 R119, R121). -/
def State.acceptFerry (s : State) (t ch : Nat) (part : Option Nat) (sa : Nat) (d : Line512) (mask : BitVec 64) (pois : Bool) : State :=
  let l := s.locate sa
  s.accept (chanOfBank l.moduleBank) { who := 12 + ch, part := part, bank := l.moduleBank % 48, row := l.row, line := l.col / 2, write := true
                                       data := d, mask := mask, poison := pois, addr := sa, fe := some (t, ch) }

/-- The 32 lines of a sheet that cover the whole row of device memory in which the line at `sa` lies, if it holds them all (07 R287). -/
def State.wholeRow (s : State) (left : List (Nat × Line512 × BitVec 64 × Bool)) (sa : Nat) : Option (List (Nat × Line512 × BitVec 64 × Bool)) :=
  let rk := s.lineOfSa sa / 32
  let mates := left.filter (fun l => decide (l.1 * 64 / 2 ^ 58 = 2) && l.2.2.1 == BitVec.allOnes 64 &&
    (s.slot (sa / slotBytes)).cls != .shared && l.1 * 64 % 2 ^ 48 / slotBytes == sa / slotBytes && s.lineOfSa (l.1 * 64 % 2 ^ 48) / 32 == rk)
  if mates.length = 32 then some mates else none

/-- A whole row written under a grant: the writes queued to its lines first, its parity encoded from the new data, and the same lines in the
parcel its slot is moving to (02 R55; 03 R97; 04 R98). -/
def State.writeWhole (s : State) (who : Nat) (part : Option Nat) (sa : Nat) (ls : List (Nat × Line512 × BitVec 64 × Bool)) : State :=
  let l := s.locate sa
  let ch := chanOfBank l.moduleBank
  let rk := s.lineOfSa sa / 32
  let at_ (i : Nat) : Line512 × Bool :=
    match ls.find? (fun e => s.lineOfSa (e.1 * 64 % 2 ^ 48) == 32 * rk + i) with | some e => (e.2.1, e.2.2.2) | none => (0, false)
  let s1 := (s.modChan ch (fun c => (c.wake (l.moduleBank % 48)).countBank (l.moduleBank % 48) (s.slotOfLine (32 * rk)))).countGrant ch who
  let s2 := (List.range 32).foldl (fun s i => s.drainLine ch (32 * rk + i)) s1
  let s3 := ((s2.reachRow ch (l.moduleBank % 48) l.row who).spend 1 64).writeRow rk ((List.range 32).map at_)
  ls.foldl (fun s e => match s.movingLine (e.1 * 64 % 2 ^ 48) with
    | some m => (s.writeLine m e.2.1 e.2.2.1 e.2.2.2 (writePath who) part (s.addrFor who (e.1 * 64 % 2 ^ 48))).1
    | none => s) s3

/-- What becomes of one line of a sheet: the lines written with it, and the place of a device write that failed. -/
structure Written where
  st : State
  lines : List Nat
  fail : Option Spot

/-- One line of a sheet written where it lies, none while it must wait for room or for a grant; remote lines become transactions still to
send. A line whose back-invalidate timed out is discarded (10 R420; 14 R541). -/
def State.writeSpot (s : State) (t ch : Nat) (part : Option Nat) (l : Nat × Line512 × BitVec 64 × Bool) : Option Written :=
  let p := spotOf (l.1 * 64)
  let k := 16 * t + ch
  let rs := maskedRuns p.addr (lineBytes l.2.1) l.2.2.1.toNat
  let x := s.slot (p.addr / slotBytes)
  let one (s : State) : Option Written := some { st := s, lines := [l.1], fail := none }
  match p.kind with
  | 0 => one (rs.foldl (fun s r => s.spWrite p.tile r.1 r.2 l.2.2.2) (if p.tile = t then s else s.viaMesh t p.tile 1))
  | 2 =>
    if (s.fchan k).biBad.contains (p.addr / 64) then one s
    else if x.dead then some { st := s, lines := [l.1], fail := some p }
    else if x.cls = .shared then one ((s.viaMesh t (s.homeOf p.addr) 1).homeWrite p.addr l.2.1 l.2.2.1 l.2.2.2)
    else
      let ch1 := chanOfBank (s.locate p.addr).moduleBank
      match s.wholeRow (s.fchan k).left p.addr with
      | some ms =>
        if s.canRead (12 + ch) p.addr then
          some { st := (s.viaMesh t (s.homeOf p.addr) 32).writeWhole (12 + ch) part p.addr ms, lines := ms.map (fun e => e.1), fail := none }
        else none
      | none =>
        if s.hasRoom ch1 true then one ((s.viaMesh t (s.homeOf p.addr) 1).acceptFerry t ch part p.addr l.2.1 l.2.2.1 l.2.2.2) else none
  | 3 =>
    one (rs.foldl (fun s r => (s.hostWrite { port := s.ferryPort t, part := part, addr := r.1, data := r.2, poison := l.2.2.2, fe := some (t, ch) }).modFchan k
      (fun f => { f with posted := f.posted + 1 })) (s.viaMesh t (4 * s.ferryPort t) 1))
  | _ =>
    let d := if l.2.2.1 = BitVec.allOnes 64 then l.2.1 else mergeLine l.2.2.1 (Config.freeLine s.free) l.2.1
    let x : Xact := { write := true, tile := t, ch := ch, dst := p.mod, addr := p.addr, part := part.getD 0, sp := p.kind == 5, mtile := p.tile
                      data := lineBytes d, pois := nat l.2.2.2 }
    one ((if l.2.2.1 = BitVec.allOnes 64 then s else s.draw).modFchan k (fun f => { f with todo := f.todo ++ [x] }))

/-- Two transactions on consecutive lines of one module joined, up to four lines a message (16 R619). -/
def joinXact (a b : Xact) : Option Xact :=
  if a.write = b.write ∧ a.dst = b.dst ∧ a.sp = b.sp ∧ a.mtile = b.mtile ∧ b.addr = a.addr + 64 * a.lines ∧ a.lines + b.lines ≤ 4 then
    some { a with lines := a.lines + b.lines, data := a.data ++ b.data, pois := a.pois + b.pois * 2 ^ a.lines }
  else none

/-- Consecutive lines grouped (16 R619). -/
def groupXacts (l : List Xact) : List Xact :=
  l.foldl (fun acc x =>
    match acc.getLast? with
    | some y => match joinXact y x with | some z => acc.dropLast ++ [z] | none => acc ++ [x]
    | none => [x]) []

/-- The writes a channel's step has left, one after another until one must wait or fails (10 R420, R431). -/
def State.pushWrites : Nat → Nat → Nat → Option Nat → State → State
  | 0, _, _, _, s => s
  | n + 1, t, ch, part, s =>
    match (s.fchan (16 * t + ch)).left with
    | [] => s
    | l :: _ =>
      match s.writeSpot t ch part l with
      | none => s
      | some w =>
        match w.fail with
        | some p => w.st.ferryFault t ch 7 2 p.fc
        | none => pushWrites n t ch part (w.st.modFchan (16 * t + ch) (fun f => { f with left := f.left.filter (fun e => !w.lines.contains e.1) }))

/-! ### Lines and cycles (10 R427 to R430) -/

/-- Lines an operand's rows touch: for each run along dimension 0, its distinct lines, scales likewise. -/
def Operand.lineCount (o : Operand) (outer : List (List Nat)) : Nat :=
  let run (i : List Nat) : Nat :=
    ((List.range (o.size 0)).flatMap (fun k =>
      let a := (o.addr (i.set 0 k)).toNat
      [a / 64, (a + ceilDiv (elemBits o.typ) 8 - 1) / 64])).eraseDups.length
  let scales (i : List Nat) : Nat := ((List.range (o.size 0)).map (fun k => (o.scale (i.set 0 k)).toNat / 64)).eraseDups.length
  (outer.map (fun i => run i + (if blocked o.typ then scales i else 0))).sum

/-- The index tuples of dimensions 1 to 3, dimension 0 at zero. -/
def Operand.outer (o : Operand) : List (List Nat) :=
  let r := { o with sizes := o.sizes.set 0 1 }
  (List.range r.count).map (fun n => r.index n)

/-- Rows of a gather or scatter that count: j and its index, skipped ones left out (10 R427). -/
def State.liveRows (s : State) (e : FeStep) : List (Nat × Nat) :=
  (List.range ((s.rowCount e).getD 0)).filterMap (fun j =>
    match s.rowIndex e j with | some v => if 0 ≤ v then some (j, v.toNat) else none | none => none)

/-- Row `v` of an operand along dimension `g` as the outer indices it has. -/
def Operand.outerRow (o : Operand) (g v : Nat) : List (List Nat) :=
  if g = 0 then o.outer else (o.outer).filter (fun i => i.getD g 0 == v)

/-- Lr and Lw of a step (10 R427). -/
def State.ferryLines (s : State) (e : FeStep) : Nat × Nat :=
  if e.op ≤ 1 then (e.src.lineCount e.src.outer, e.dst.lineCount e.dst.outer)
  else
    let rows := s.liveRows e
    let one (o : Operand) (v : Nat) : Nat := if e.gdim = 0 then
        ({ o with sizes := o.sizes.set 0 1, base := (o.addr [v, 0, 0, 0]).toNat }).lineCount o.outer
      else o.lineCount (o.outerRow e.gdim v)
    let src := (rows.map (fun r => one e.src (if e.op = 2 then r.2 else r.1))).sum
    let dst := (rows.map (fun r => one e.dst (if e.op = 2 then r.1 else r.2))).sum
    let n := (s.rowCount e).getD 0
    let b := (e.idx.getD {}).base
    let il := if n = 0 then 0 else (b + 4 * n - 1) / 64 - b / 64 + 1
    (src + il + (if e.cnt ≠ 0 then 1 else 0) + (if e.acc ≠ 0 then dst else 0), dst)

/-- Collisions of an accumulating scatter (10 R429). -/
def State.collisions (s : State) (e : FeStep) : Nat :=
  if e.op = 3 ∧ e.acc ≠ 0 then
    let vs := (s.liveRows e).map (fun r => r.2)
    ((List.range vs.length).filter (fun i => ((vs.take i).drop (i - 4)).contains (vs.getD i 0))).length
  else 0

/-- Cycles from the start to the tally's advance, or the least of them; host memory takes 80 bytes a cycle each way
(10 R428, R430). -/
def State.ferryNeed (s : State) (e : FeStep) (t : Nat) : Nat :=
  let l := s.ferryLines e
  let own (o : Operand) : Bool := o.spTile t == some t
  let m := ceilDiv (max l.1 l.2) 8
  let host (o : Operand) : Nat := if o.space = 3 then ceilDiv o.dataBytes 80 else 0
  if own e.src && own e.dst then 16 + (if e.overlaps t then 2 else 1) * m + 10 * s.collisions e
  else max (16 + m) (max (host e.src) (host e.dst))

/-! ### Running a step -/

/-- Service addresses of the shared-class lines a step reads and writes (14 R539). -/
def State.sharedLines (s : State) (ms : List Move) (write : Bool) : List Nat :=
  let spots := ms.flatMap (fun m => if write then [m.dst] else if m.acc ≠ 0 then [m.src, m.dst] else [m.src])
  ((spots.filter (fun p => p.kind == 2 && (s.slot (p.addr / slotBytes)).cls == .shared)).map (fun p => p.addr / 64 * 64)).eraseDups

/-- The first snoop a step's accesses need, if any, now outstanding (14 R539). -/
def State.ferrySnoop (s : State) (t ch : Nat) (part : Option Nat) (ms : List Move) : Option State :=
  let f := s.fchan (16 * t + ch)
  let try_ (write : Bool) (sa : Nat) : Option State :=
    if f.biBad.contains (sa / 64) then none
    else s.deviceSnoop sa { write := write, part := part, ferry := some (t, ch) }
  ((s.sharedLines ms false).findSome? (try_ false)) <|> ((s.sharedLines ms true).findSome? (try_ true))

/-- Lines of other modules a step reads, as read transactions (16 R619). -/
def remoteReads (t ch part : Nat) (ms : List Move) : List Xact :=
  let spots := (ms.flatMap (fun m => if m.acc ≠ 0 then [m.src, m.dst] else [m.src])).filter (fun p => decide (4 ≤ p.kind))
  let ls := (spots.map (fun p => p.key / 64)).eraseDups
  groupXacts (ls.map (fun l =>
    let p := spotOf (l * 64)
    { tile := t, ch := ch, dst := p.mod, addr := p.addr, part := part, sp := p.kind == 5, mtile := p.tile }))

/-- Lines of device memory that a step reads. -/
def linesRead (ms : List Move) : List Nat :=
  (((ms.flatMap (fun m => if m.acc ≠ 0 then [m.src, m.dst] else [m.src])).filter (fun p => p.kind == 2)).map (fun p => p.addr / 64 * 64)).eraseDups

/-- The movements before the first that reads the line at number `l`. -/
def movesBefore (l : Nat) (ms : List Move) : List Move :=
  ms.takeWhile (fun m => !((if m.acc ≠ 0 then [m.src, m.dst] else [m.src]).any (fun p => p.kind == 2 && p.addr / 64 == l)))

/-- Lines of device memory read for a step, in order, each when its channel grants the ferry channel: a line that a failed check keeps from
decoding stops the reading (10 R407, R431; 03 R84, R115). -/
def State.ferryRead (s : State) (t ch : Nat) (part : Option Nat) (ls : List Nat) : State :=
  let k := 16 * t + ch
  ls.foldl (fun s sa =>
    let f := s.fchan k
    let x := s.slot (sa / slotBytes)
    if f.badLine.isSome || f.got.any (fun e => e.1 == sa / 64) then s
    else if f.biBad.contains (sa / 64) then s.modFchan k (fun f => { f with got := Tab.put f.got (sa / 64) (0, true) })
    else
      let cached := x.dead || (x.cls == .shared && s.lines.any (fun e => e.1 == sa / 64))
      if cached = false ∧ s.canRead (12 + ch) sa = false then s
      else
        let kl := s.lineOfSa sa
        let asks := !cached && (s.lineAsks kl || s.badTag (kl / 32))
        let s0 := (if cached then s else s.countGrant (chanOfBank (s.locate sa).moduleBank) (12 + ch)).readMesh t (s.homeOf sa) 1
        let r := s0.deviceRead (12 + ch) 3 part sa
        if asks && r.1.2 then r.2.modFchan k (fun f => { f with badLine := some (sa / 64) })
        else r.2.modFchan k (fun f => { f with got := Tab.put f.got (sa / 64) r.1 })) s

/-- Scratchpad words of this module among places, each once. -/
def spWordsOf (ps : List Spot) : List Nat := ((ps.filter (fun p => p.kind == 0)).map (fun p => spWordOf p.tile p.addr)).eraseDups

/-- A step's data read and put on its sheet, once every line it reads is there: its writes are left to be made, and the fault that its
movements meet is kept for when they are (03 R115; 10 R414 to R417, R424, R431). -/
def State.ferryMove (s : State) (t ch : Nat) (e : FeStep) : State :=
  let k := 16 * t + ch
  let ms := s.moves e
  let s1 := s.ferryRead t ch (s.ctx e.ctx).part (linesRead (movesOf ms))
  let f := s1.fchan k
  if f.badLine = none ∧ (linesRead (movesOf ms)).all (fun sa => f.got.any (fun x => x.1 == sa / 64)) = false then s1
  else
    let good := match f.badLine with | some l => movesBefore l (movesOf ms) | none => movesOf ms
    let stop : Option Stop := match f.badLine with
      | some l => some { fault := 1, fld := 1, spot := { kind := 2, tile := 0, mod := 0, addr := l * 64 } }
      | none => stopOf ms
    let sheet := good.foldl (fun b m => s1.applyMove f b m) []
    let idx : List Spot := match e.idx with
      | some o => if 2 ≤ e.op then (List.range ((s.rowCount e).getD 0)).map (fun j => { kind := 0, tile := t, mod := 0, addr := o.base + 4 * j }) else []
      | none => []
    let srcs := spWordsOf (good.flatMap (fun m => if m.acc ≠ 0 then [m.src, m.dst] else [m.src]) ++ idx)
    let s2 := (srcs.filter (fun w => w / 2 ^ 21 != t)).foldl (fun s w => s.readMesh t (w / 2 ^ 21) 1) s1
    s2.modFchan k (fun f => { f with
      moved := true, left := sheetLines sheet, poison := f.poison || sheet.any (fun p => p.2.2)
      haltAt := stop.map (fun x => (x.fault, x.fld, x.spot.key)), got := []
      rdWords := srcs, wrWords := spWordsOf (sheet.map (fun p => spotOf p.1)) })

/-- A channel's step moved on, once no snoop waits and every remote line has been read: its lines read, its writes made or sent; a fault halts
the channel where it stood (10 R414 to R417, R420, R424, R431). -/
def State.ferryGo (s : State) (t ch : Nat) : State :=
  let k := 16 * t + ch
  let f := s.fchan k
  match f.cur with
  | none => s
  | some e =>
    if f.done = true ∨ f.st ≠ 1 ∨ f.biWait = true ∨ (f.moved = false ∧ (f.todo ≠ [] ∨ s.outstanding t ch ≠ [])) then s
    else
      let part := (s.ctx e.ctx).part
      match if f.moved then none else s.ferrySnoop t ch part (movesOf (s.moves e)) with
      | some s1 => s1.modFchan k (fun f => { f with biWait := true })
      | none =>
        let s1 := if f.moved then s else s.ferryMove t ch e
        if (s1.fchan k).moved = false then s1
        else
          let s2 := State.pushWrites (s1.fchan k).left.length t ch part s1
          let g := s2.fchan k
          if g.left ≠ [] ∨ g.cur = none then s2
          else match g.haltAt with
            | some h => s2.ferryFault t ch h.1 h.2.1 (spotOf h.2.2).fc
            | none => State.pump 64 t ch (s2.modFchan k (fun f => { f with done := true, todo := groupXacts f.todo }))

/-- Host memory bytes a step reads, taken into the stage: consecutive from the operand's base. -/
def stageHost (a : Nat) (l : List Byte) (badLines : List Nat) : Sheet :=
  l.zipIdx.map (fun p => ({ kind := 3, tile := 0, mod := 0, addr := a + p.2 : Spot }.key, (p.1, badLines.contains ((a + p.2) / 64))))

/-- An operand in host memory that crosses the edge of the port's peer window (14 R556). -/
def State.crossesPeer (s : State) (port : Nat) (o : Operand) : Bool :=
  let lo := s.reg port rPEERWIN
  let hi := lo + 4096 * s.reg port rPEERSIZE
  o.space == 3 && o.footprint.any (fun r =>
    decide (r.1 < (hi : Int)) && decide ((lo : Int) ≤ r.2) && decide (lo < hi) && !(decide ((lo : Int) ≤ r.1) && decide (r.2 < (hi : Int))))

/-- A ferry step starts on its channel once every earlier step on it has completed; a step in overlap mode waits for the
hold where it is taken (10 R409, R424, R425). `host` is what host memory answers to a COPY's reads, `bad` the poisoned
lines of it. -/
def execFerryStepStart (tile : Fin 16) (chan : Fin 16) (host : List (BitVec 8)) (bad : List Nat) (s : State) : Result :=
  let t := tile.val
  let ch := chan.val
  let k := 16 * t + ch
  let f := s.fchan k
  .next (
    match f.cur, f.queue with
    | none, e :: rest =>
      if f.st ≠ 0 ∨ s.cyc < e.entry ∨ (s.hub t).engines.contains 2 = false then s
      else
        let ov := e.overlaps t
        let taken := ov && (s.hub t).overlap.isSome
        let part := (s.ctx e.ctx).part
        let l := s.ferryLines e
        let reads := remoteReads t ch (part.getD 0) (movesOf (s.moves e))
        let s1 := s.modFchan k (fun f => { f with
          cur := some e, queue := rest, st := if taken then 3 else 1, ovlp := ov, part := part.getD 0
          tag := if e.copy.isSome then 0 else e.step % 2 ^ 14, poison := false, lines := satNat 32 (l.1 + l.2), startAt := s.cyc
          need := s.ferryNeed e t, posted := 0, done := false, biBad := [], todo := reads
          got := [], badLine := none, left := [], haltAt := none, moved := false, rdWords := [], wrWords := [], words := []
          stage := if e.src.space = 3 then stageHost e.src.base (host.take e.src.count) bad else [] })
        let s2 := s1.count t 0x07 part (l.1 + l.2)
        if taken then s2
        else
          let s3 := if ov then s2.modHub t (fun h => { h with overlap := some ch }) else s2
          let p := s.ferryPort t
          if s.crossesPeer p e.src then s3.ferryFault t ch 6 1 (e.src.base, 3, 0, 0)
          else if s.crossesPeer p e.dst then s3.ferryFault t ch 6 2 (e.dst.base, 3, 0, 0)
          else (State.pump 64 t ch (if e.src.space = 3 then s3.readMesh t (4 * p) (ceilDiv e.src.count 64) else s3)).ferryGo t ch
    | _, _ => s)

/-- A channel in overlap mode obtains the tile's hold (10 R425). -/
def execOverlapHoldGrant (tile : Fin 16) (chan : Fin 16) (s : State) : Result :=
  let t := tile.val
  let k := 16 * t + chan.val
  let f := s.fchan k
  .next (
    if f.st = 3 ∧ (s.hub t).overlap = none then
      ((s.modHub t (fun h => { h with overlap := some chan.val })).modFchan k (fun f => { f with
        st := 1, ovWait := satNat 32 (f.ovWait + (s.cyc - f.startAt)), startAt := s.cyc })).ferryGo t chan.val
    else s)

/-- Every write of a ferry step is visible: its tally advances, or its COPY completes, and its channel is idle (10 R421,
R423; 15 R580). -/
def execFerryStepComplete (tile : Fin 16) (chan : Fin 16) (s : State) : Result :=
  let t := tile.val
  let ch := chan.val
  let k := 16 * t + ch
  let s0 := s.ferryGo t ch
  let f := s0.fchan k
  .next (
    match f.cur with
    | none => s0
    | some e =>
      if f.done = true ∧ f.posted = 0 ∧ f.todo = [] ∧ s0.outstanding t ch = [] ∧ f.startAt + f.need ≤ s0.cyc then
        let s1 := s0.modFchan k (fun f => { f with cur := none, st := 0, done := false, moved := false, stage := [], biBad := [], rdWords := [], wrWords := [], words := [] })
        let s2 := s1.modHub t (fun h => { h with overlap := if h.overlap = some ch then none else h.overlap })
        match e.copy with
        | some r => s2.complete r { poison := f.poison, ctx := BitVec.ofNat 6 e.ctx }
        | none =>
          let s3 := if f.poison then s2.notePoison e.ctx else s2
          s3.stepDone e.ctx e.step 3 e.op e.tadv
      else s0)

/-- A fault the channel meets outside the module's own tables: an uncorrectable read, a refusal, an unreachable module, a
host error, a failed write (10 R431). -/
def execFerryFault (tile : Fin 16) (chan : Fin 16) (fault : BitVec 4) (operand : Fin 4) (addr : BitVec 48) (space : BitVec 3)
    (at_ : Fin 16) (module : BitVec 6) (s : State) : Result :=
  .next (
    if 1 ≤ fault.toNat ∧ fault.toNat ≤ 8 ∧ (s.fchan (16 * tile + chan)).cur.isSome = true then
      s.ferryFault tile chan fault.toNat (if operand.val = 0 then 15 else operand) (addr.toNat, space.toNat, at_, module.toNat)
    else s)

/-! ### Steps and COPY -/

/-- A ferry step placed in its channel's queue (10 R408; 11 R451). -/
def State.queueFerry (s : State) (e : FeStep) : State :=
  s.modFchan (16 * tileOfCtx e.ctx + 4 * (e.ctx % 4) + e.ch) (fun f => { f with queue := f.queue ++ [e] })

/-- A ferry step issued: the next step of the context queued on its channel, its index being `i`. -/
def State.issueFerry (s : State) (c op : Nat) : State :=
  s.issue c 3 op noWait (fun w i s1 => (s1.queueFerry { s.feStep c w with step := i }).outstand c w i)

/-- FCOPY (10 R414). -/
def execFcopy (ctx : Fin 64) (s : State) : Result := .next (s.issueFerry ctx 0)
/-- FXPOSE (10 R415). -/
def execFxpose (ctx : Fin 64) (s : State) : Result := .next (s.issueFerry ctx 1)
/-- FGATHER (10 R416). -/
def execFgather (ctx : Fin 64) (s : State) : Result := .next (s.issueFerry ctx 2)
/-- FSCATTER (10 R416, R417). -/
def execFscatter (ctx : Fin 64) (s : State) : Result := .next (s.issueFerry ctx 3)

/-- An operand of a COPY: LENGTH bytes in a row (15 R581). -/
def State.copyOperand (s : State) (c sp addr len : Nat) : Operand :=
  { space := sp, typ := 9, base := if sp = 0 then ((s.ctx c).winBase * 2 ^ 20 + addr) % 2 ^ 48 else addr % 2 ^ 48
    sizes := [len, 1, 1, 1], strides := [1, 0, 0, 0] }

/-- A COPY descriptor: a linear FCOPY of LENGTH bytes on channel CH of the context, behind the steps already there
(15 R580, R581, R589). -/
def execCopy (page : Fin 68) (s : State) : Result :=
  let k := page.val
  .next (s.runDesc k 7 (fun d r s =>
    let c := d.ctx
    let len := d.f 256 64
    let src := s.copyOperand c (d.f 80 2) (d.f 128 64) len
    let dst := s.copyOperand c (d.f 82 2) (d.f 192 64) len
    let e : FeStep := { ctx := c, op := 0, ch := d.f 72 2, src := src, dst := dst, copy := some r, entry := s.cyc }
    let chan := s.fchan (16 * tileOfCtx c + 4 * (c % 4) + e.ch)
    if s.ownsCtx k c = false then s.complete r (refuse 0x11 c)
    else if len < 1 ∨ 2 ^ 40 < len then s.complete r (refuse 0x10 c)
    else if (s.ctx c).st = .unbound then s.complete r (refuse 0x12 c)
    else if src.space = 1 ∨ dst.space = 1 ∨ (s.placeHalt c src).isSome = true ∨ (s.placeHalt c dst).isSome = true ∨
        (e.overlaps (tileOfCtx c) = true ∧ 0x400000 < src.dataBytes) then s.complete r (refuse 0x13 c)
    else if chan.st = 2 then s.complete r { status := 8, detail := BitVec.ofNat 8 chan.fault, ctx := BitVec.ofNat 6 c }
    else s.queueFerry e))

/-- A word of a tile's scratchpad in which a read found an error: the corrected word is written back and counted, or the
word is poisoned, counted and recorded (10 R384, R393). -/
def execScratchpadCorrectWriteback (tile : Fin 16) (word : BitVec 21) (uncorrectable : Bool) (s : State) : Result :=
  let t := tile.val
  let w := word.toNat
  let bank := (w % 64 + 2 * (w / 64)) % 64
  .next (
    if uncorrectable then
      ((s.modSpBad (t * 2 ^ 21 + w) (fun _ => true)).modHub t (fun h => { h with
        spUnc := satNat 16 (h.spUnc + 1), spBank := bank, spWord := w / 64 })).bbox t 0x0D none 63 [(24, 1, bank), (25, 2, w / 64)]
    else s.modHub t (fun h => { h with spCorr := satNat 16 (h.spCorr + 1) }))

end Sys2Proof.Machine
end

