-- ==== Sys2Proof/Machine/NbPass.lean ====
section
/-! DEFINITION. The near-bank sequencer: NBPASS steps, span passes, yield points, the recompute unit and the sums of a
near-bank step (05 R196 to R200, 06 R239 to R268, 07 R270 to R292, 11 R462 to R465, R752). -/

namespace Sys2Proof.Machine

/-! ### Placement (07) -/

/-- Domain banks D of a berth (R270). -/
def Berth.domain (b : Berth) : Nat := 4608 * b.tiles.length

/-- Place of tile `t` among the domain tiles, with its slot and placed band (R270). -/
def Berth.entryOf (b : Berth) (t : Nat) : Option (Nat × Nat × Nat) :=
  ((List.range b.tiles.length).find? (fun i => (b.tiles.getD i (16, 0, 0)).1 == t)).map (fun i =>
    let e := b.tiles.getD i (16, 0, 0)
    (i, e.2.1, e.2.2))

/-- The slice at position `p` for expert `e`: its unit, its group of 64 results and its first input block (R276 to R282;
11 R462). -/
def Cargo.sliceAt (c : Cargo) (e p : Nat) : Option (Nat × Nat × Nat) :=
  let o := c.origin + (if c.kind = 1 then e * c.exstride else 0)
  let k := p - o
  if p < o then none
  else if c.kind ≤ 1 then
    if k < c.g * c.ns then some (k / c.ns, k / c.ns, k % c.ns * c.l) else none
  else if c.g ≤ k ∨ c.k = 0 then none
  else if c.kind = 2 then some (k / c.k, k / c.k, k % c.k)
  else some (k / c.k, k % c.k, k / c.k)

/-- Positions and result groups of the slices of unit `u` for expert `e` (R277, R280 to R282). -/
def Cargo.slicesOf (c : Cargo) (e u : Nat) : List (Nat × Nat) :=
  let o := c.origin + (if c.kind = 1 then e * c.exstride else 0)
  if c.kind ≤ 1 then (List.range c.ns).map (fun j => (o + u * c.ns + j, u))
  else if c.kind = 2 then (List.range c.k).map (fun b => (o + c.k * u + b, u))
  else (List.range c.k).map (fun v => (o + c.k * u + v, v))

/-- Blocks per slice (R276, R283). -/
def Cargo.blocks (c : Cargo) : Nat := if c.kind ≤ 1 then c.l else 1

/-- The select bits of bank `j` of module channel `ch` (R62). -/
def selOf (ch j : Nat) : Nat := j % 2 + 2 * (ch % 16) + 32 * (j / 2 % 8) + 256 * (ch / 16 % 6 % 2)

/-- Δ of a berth's tile entry: what a move within the tile has done to the select bits (R289). -/
def moveDelta (masks : List Nat) (band pband : Nat) : Nat :=
  (List.range 9).foldl (fun a k => a + 2 ^ k * nat (parityOf 26 (((band ^^^ pband) * 2 ^ 13) &&& masks.getD k 0))) 0

/-- Bank number within the tile on which the contents of bank `j` of channel `ch` were placed (R289). -/
def placedBank (masks : List Nat) (band pband ch j : Nat) : Nat :=
  let sel := selOf ch j ^^^ moveDelta masks band pband
  let stack := ch / 16 % 6 / 2 * 2 + field sel 8 1
  let rank := j / 2 / 8 * 8 + field sel 5 3
  ((stack * 16 + field sel 1 4) * 24 + rank) * 2 + field sel 0 1

/-! ### The step (11 R462 to R465) -/

/-- NBPASS (11 R462): decoded and queued for the near-bank sequencer. -/
def execNbpass (ctx : Fin 64) (s : State) : Result :=
  .next (s.issue ctx 4 0 noWait (fun w i s =>
    let c := ctx.val
    let e := { s.nbStep c w with step := i }
    (s.outstand c w i).modCtx c (fun x => { x with nbq := x.nbq ++ [e] })))

/-- An INT32 word of a scratchpad, a value the spec leaves open where the word is poisoned. -/
def State.spInt (s : State) (t : Nat) (a : Int) (free : Nat) : Int :=
  if s.spPoisoned t a.toNat 4 then signed 32 (Config.freeWord free).toNat else signed 32 (ofLe (s.spRead t a.toNat 4))

/-- Entries of a step's list: EXI SIZE0, or the count word limited to it; experts 0 to E − 1 without a list; one entry
for the other kinds (11 R462). -/
def State.nbEntries (s : State) (st : NbStep) (cg : Cargo) : List (Nat × Int) :=
  let t := tileOfCtx st.ctx
  match st.exi with
  | some d =>
    let n := match st.exc with
      | some a => (clampInt 0 (d.size 0 : Nat) (s.spInt t (a : Int) s.free)).toNat
      | none => d.size 0
    (List.range n).map (fun j => (j, s.spInt t (d.addr [j, 0, 0, 0]) (s.free + 1 + j)))
  | none => if cg.kind = 1 then (List.range cg.e).map (fun e => (e, (e : Int))) else [(0, 0)]

/-- The near-bank sequencer of context `c` takes the step at the head of its queue share: it reads the expert list, and
halts the context on an entry outside −1 to E − 1 (11 R451, R462). -/
def State.nbBegin (s : State) (c : Nat) : State :=
  let x := s.ctx c
  match x.nbrun, x.nbq with
  | none, st :: rest =>
    if st.entry ≤ s.cyc ∧ x.live = true then
      let cg := s.cargo c st.cargo
      let es := s.nbEntries st cg
      let s1 := (s.putFree (s.free + (if st.exi.isSome then 1 + es.length else 0)))
      if es.any (fun e => decide (e.2 < -1) || decide ((cg.e : Int) ≤ e.2)) = true ∧ st.exi.isSome = true then s1.halt c 0x28 3 st.step
      else
        let run := (es.filter (fun e => decide (0 ≤ e.2))).map (fun e => (e.1, e.2.toNat))
        s1.modCtx c (fun x => { x with nbq := rest, nbrun := some { st := st, entries := run } })
    else s
  | _, _ => s

/-- One member of a span pass: bank of the channel, placed stack × 16 + channel, result group, first input block. -/
structure Member where
  bank : Nat
  chan : Nat
  grp : Nat
  block : Nat
  deriving DecidableEq, Repr

/-- The banks of channel `ch` that a pass over cell `cell` for expert `e` of the step runs (06 R254, 07 R274, R289). -/
def State.nbMembers (s : State) (ch : Nat) (st : NbStep) (cg : Cargo) (br : Berth) (e cell : Nat) : List Member :=
  match br.entryOf (tileOfChan ch) with
  | none => []
  | some (i, slot, pband) =>
    let band := s.physOn ch slot % 512
    allBanks.filterMap (fun j =>
      let u := placedBank s.boot.hashMask band pband ch j
      match cg.sliceAt e (cell * br.domain + 4608 * i + u) with
      | some (unit, grp, blk) =>
        if st.gbase ≤ unit ∧ unit < st.gbase + st.gcnt then some { bank := j, chan := u / 48, grp := grp, block := blk } else none
      | none => none)

/-- Address of input `i` of slot `slot` of list entry `j` in the broadcast source, if it has one (11 R463; 10 R400). -/
def srcAddr (o : Operand) (j slot i : Nat) : Option Int :=
  if o.size 0 ≤ i ∨ o.rows ≤ slot then none
  else if 1 < o.size 2 then (if o.size 1 ≤ slot ∨ o.size 2 ≤ j then none else some (o.addr [i, slot, j, 0]))
  else some (o.addr (o.at2 slot i))

/-- A byte of the broadcast source; zero beyond it. -/
def State.srcByte (s : State) (t : Nat) (o : Operand) (j slot i : Nat) : Byte :=
  match srcAddr o j slot i with
  | some a => (s.spRead t a.toNat 1).getD 0 0
  | none => 0

/-- It lies in a poisoned word. -/
def State.srcBad (s : State) (t : Nat) (o : Operand) (j slot i : Nat) : Bool :=
  match srcAddr o j slot i with
  | some a => s.spPoisoned t a.toNat 1
  | none => false

/-- Beat `q` of the broadcast stream x = P × i + s of a round of `b` slots from slot `slot0` on (05 R172; 11 R463). -/
def State.streamBeat (s : State) (t : Nat) (o : Operand) (j slot0 b q : Nat) : List Byte :=
  (List.range 32).map (fun n =>
    let x := 32 * q + n
    let sl := x % pitchOf b
    if sl < b then s.srcByte t o j (slot0 + sl) (x / pitchOf b) else 0)

/-- Scratchpad words from which a beat of the broadcast stream is taken (10 R386). -/
def streamWords (t : Nat) (o : Operand) (j slot0 b q : Nat) : List Nat :=
  ((List.range 32).filterMap (fun n =>
    let x := 32 * q + n
    let sl := x % pitchOf b
    if sl < b then (srcAddr o j (slot0 + sl) (x / pitchOf b)).map (fun a => spWordOf t a.toNat) else none)).eraseDups

/-- Words that the near-bank sequencer of tile `t` reads or writes in the present cycle noted (10 R386). -/
def State.nbTakes (s : State) (t : Nat) (ws : List Nat) : State := s.modHub t (fun h => { h with nbWords := h.nbWords ++ ws })

/-- NBUCFG of a pass with a bank's WOFF (05 R176; 07 R278). -/
def cfgWord (wfmt b aset woff : Nat) : Nat :=
  wfmt + (if wfmt = 1 ∨ wfmt = 4 then 8 else 0) + (b - 1) * 16 + aset * 256 + woff * 4096

/-- The ownership scrub of a channel: every unit configured with zeros, its buffer filled with zero beats and every group
cleared (06 R256). -/
def State.ownScrub (s : State) (ch : Nat) : State :=
  let one (n : Nbu) : Nbu := { (n.configure 0).clearGroups 0xFF#8 with abuf := [], staged := [] }
  let s1 := allBanks.foldl (fun s j => s.modNbu (bankOf ch j) one) s
  (s1.forget ch (fun b _ => b / 48 == ch)).modChan ch (fun c => { c with beat := 128 })

/-- A pass asked for on a channel that is not in near-bank mode: the context waits for a grant, and the channel for
admission to near-bank streaming (04 R125; 06 R243, R252). -/
def State.askNbe (s : State) (ch c : Nat) : State :=
  let who := 8 + c % 4
  let s1 := s.modChan ch (fun k => { k with
    waitNbs := if k.waitNbs.any (fun w => w.1 == who) then k.waitNbs else k.waitNbs ++ [(who, s.cyc)] })
  if (s.chan ch).yieldExit = true ∧ s.cyc ≤ (s.chan ch).nbxAt + 1600 then s1 else s1.enqueueWake (tileOfChan ch) 1 (ch % 96)

/-- What a pass is over: list entry, round of eight slots, cell, and the pass of the slice. -/
structure PassId where
  entry : Nat
  round : Nat
  cell : Nat
  span : Nat
  deriving DecidableEq, Repr

/-- Everything a span pass of a step needs of the manifest. -/
structure PassPlan where
  members : List Member
  b : Nat
  wfmt : Nat
  blocks : Nat
  spans : Nat
  firstBlk : Nat
  slot : Nat
  inBand : Nat
  row : Nat
  col : Nat
  cols : Nat
  stale : Option (Nat × Nat)
  deriving DecidableEq, Repr

/-- The plan of pass `id` of a step on channel `ch`, for expert `e` (07 R271 to R279). -/
def State.passPlan (s : State) (ch : Nat) (st : NbStep) (e : Nat) (id : PassId) : PassPlan :=
  let cg := s.cargo st.ctx st.cargo
  let br := s.berth st.ctx cg.berth
  let b := min 8 (st.b - 8 * id.round)
  let lmax := 128 / pitchOf b
  let n := min lmax (cg.blocks - id.span * lmax)
  let bl := blockCols br.wfmt
  let first := id.cell * br.cell + id.span * lmax * bl
  let slot := match br.entryOf (tileOfChan ch) with | some e => e.2.1 | none => 0
  let off := (br.entryOf (tileOfChan ch)).isSome && decide (s.physOn ch slot / 512 ≠ tileOfChan ch)
  { members := s.nbMembers ch st cg br e id.cell, b := b, wfmt := br.wfmt, blocks := n, spans := ceilDiv cg.blocks lmax
    firstBlk := id.span * lmax, slot := slot, inBand := br.h0 + first / 64
    row := 128 * (s.physOn ch slot % 512) + br.h0 + first / 64, col := first % 64, cols := n * bl
    stale := if off then some (slot, br.id) else none }

/-- Where the drain of one result group and slot goes. -/
def drainKey (c tile chan : Nat) (id : PassId) (grp slot : Nat) : DrainKey :=
  { ctx := c, tile := tile, chan := chan, cell := id.cell, unit := grp, slot := 8 * id.round + slot, entry := id.entry }

/-- The reads of a pass: its result groups in rounds of at most 16 sum buffers (06 R264). -/
def passReads (c tile : Nat) (id : PassId) (pl : PassPlan) (aset : Nat) : List (Nat × Nat × Nat × DrainKey) :=
  let gs := (pl.members.map Member.grp).dedup
  let per := max 1 (16 / pl.b)
  let place (g : Nat) : Nat := (gs.findIdx? (fun x => x == g)).getD 0
  (List.range (ceilDiv gs.length per)).flatMap (fun r =>
    (pl.members.filter (fun m => place m.grp / per == r)).flatMap (fun m =>
      (List.range pl.b).map (fun k =>
        (m.bank, aset * pitchOf pl.b + k, place m.grp % per * pl.b + k, drainKey c tile m.chan id m.grp k))))

/-- The pass is taken up: ownership scrub where another context used the units last, every rank configured or parked,
the stream broadcast, the sets cleared that R752 names, the pass recorded for the recompute unit and the lock taken (06
R254 to R256; 07 R291; 11 R463, R465, R752). -/
def State.beginPass (s : State) (ch c : Nat) (r : NbRun) (id : PassId) (pl : PassPlan) : State :=
  let st := r.st
  let t := tileOfChan ch
  let src := tileOfCtx c
  let p := pitchOf pl.b
  let s0 := if (s.chan ch).owner = some c then s else s.ownScrub ch
  let woff (m : Member) : Nat := p * (m.block + pl.firstBlk)
  let member (j : Nat) : Option Member := pl.members.find? (fun m => m.bank == j)
  let set : BitVec 8 := (List.range pl.b).foldl (fun v k => v ||| (1#8 <<< (st.aset * p + k))) 0
  let clears (m : Member) : Bool := decide (id.span = 0) && (st.clr || r.touched.contains (bankOf ch m.bank))
  let qs := (pl.members.flatMap (fun m => (List.range (p * pl.blocks)).map (fun q => woff m + q))).dedup
  let beats := qs.map (fun q => (q, s.streamBeat src st.src id.entry (8 * id.round) pl.b q))
  let one (j : Nat) (n0 : Nbu) : Nbu :=
    let n := n0.sync s.cyc
    let n1 := match member j with
      | some m => n.configure (cfgWord pl.wfmt pl.b st.aset (woff m))
      | none => n.park
    let n2 := beats.foldl (fun n b => n.writeBeat b.1 b.2) n1
    match member j with
    | some m => if clears m then n2.clearGroups set else n2
    | none => n2
  let s1 := allBanks.foldl (fun s j => s.modNbu (bankOf ch j) (one j)) s0
  let s2 := s1.forget ch (fun b g => pl.members.any (fun m => bankOf ch m.bank == b && clears m) && set.getLsbD g)
  let rec1 (m : Member) : PassRec :=
    { cfg := cfgWord pl.wfmt pl.b st.aset (woff m), row := pl.row, col := pl.col, cols := pl.cols, tile := src, src := st.src
      entry := id.entry, slot0 := 8 * id.round, serial := (s.hub t).passSeq }
  let s3 := s2.modHub t (fun h => { h with passSeq := h.passSeq + 1, passHist := pl.members.foldl (fun tb m => (List.range pl.b).foldl (fun tb k =>
    Tab.upd (fun _ => []) tb (bankOf ch m.bank * 8 + st.aset * p + k) (fun l => l ++ [rec1 m])) tb) h.passHist })
  let bad (m : Member) (k : Nat) : Bool := (List.range (32 * pl.blocks)).any (fun i =>
    s.srcBad src st.src id.entry (8 * id.round + k) (32 * (m.block + pl.firstBlk) + i))
  let taint := pl.members.flatMap (fun m => ((List.range pl.b).filter (bad m)).map (fun k => drainKey c t m.chan id m.grp k))
  let s3 := s3.nbTakes src ((qs.flatMap (fun q => streamWords src st.src id.entry (8 * id.round) pl.b q)).eraseDups)
  let s4 := s3.modCtx c (fun x => { x with nbrun := some { r with
    begun := r.begun ++ [(ch, id.entry, id.round, id.cell, id.span)]
    touched := (r.touched ++ pl.members.map (fun m => bankOf ch m.bank)).dedup
    tainted := (r.tainted ++ taint).dedup } })
  s4.modChan ch (fun k => { k with
    owner := some c, lock := some c, lastCtx := c % 4, lastPart := ((s.ctx c).part).getD 0, waitNbs := k.waitNbs.filter (fun w => w.1 != 8 + c % 4)
    beat := match beats.getLast? with | some b => (b.1 + 1) % 65536 | none => k.beat
    pass := some
      { ctx := c, step := st.step, cfg := cfgWord pl.wfmt pl.b st.aset 0, banks := pl.members.map (fun m => (m.bank, woff m))
        cell := id.cell, entry := id.entry, round := id.round, span := id.span, strs := List.range 24
        rows := (pl.col + pl.cols + 63) / 64, interval := max 1 (s.inForce ch rNBCFG 0 4)
        slot := pl.slot, inBand := pl.inBand, col := pl.col, cols := pl.cols
        groups := if id.span + 1 = pl.spans then passReads c t id pl st.aset else [] } })

/-- The pass may start after those the step has begun on the channel: the passes of one slice follow one another, and a
slice is complete before the next (07 R279; 11 R752). -/
def NbRun.inOrder (r : NbRun) (ch : Nat) (id : PassId) (spans : Nat → Nat) : Bool :=
  let l := r.begun.filter (fun e => e.1 == ch)
  !l.any (fun e => e == (ch, id.entry, id.round, id.cell, id.span)) &&
  (match l.getLast? with
   | none => decide (id.span = 0)
   | some (_, en, ro, ce, sp) =>
     if sp + 1 < spans ro then decide (id = { entry := en, round := ro, cell := ce, span := sp + 1 }) else decide (id.span = 0))

/-- The near-bank sequencer of a context begins a span pass on channel `ch`: over list entry `entry`, round `round` of
eight slots, cell `cell`, pass `span` of the slice. A berth whose slot has left its tile halts the context and posts the
placement event (R254; 07 R292). -/
def execNbPass (ch : Fin 1536) (ctx : Fin 64) (entry : BitVec 16) (round : Fin 8) (cell span : BitVec 16) (s0 : State) : Result :=
  let c := ctx.val
  let s := s0.nbBegin c
  let k := s.chan ch
  let id : PassId := { entry := entry.toNat, round := round, cell := cell.toNat, span := span.toNat }
  .next (
    match (s.ctx c).nbrun with
    | none => s
    | some r =>
      match r.entries.find? (fun e => e.1 == id.entry) with
      | none => s
      | some e =>
        let pl := s.passPlan ch r.st e.2 id
        let cg := s.cargo c r.st.cargo
        let spans (ro : Nat) : Nat := ceilDiv cg.blocks (128 / pitchOf (min 8 (r.st.b - 8 * ro)))
        if r.st.b ≤ 8 * id.round ∨ pl.spans ≤ id.span ∨ (s.ctx c).live = false then s
        else match pl.stale with
          | some (slot, bid) =>
            let s1 := match (s.ctx c).part with
              | some p => s.event p 3 [(16, 2, slot), (20, 4, bid)]
              | none => s
            s1.halt c 0x29 15 r.st.step
          | none =>
            if pl.members = [] ∨ r.inOrder ch id spans = false then s
            else if k.mode ≠ .nearBank then s.askNbe ch c
            else if k.pass.isSome ∨ k.lock.isSome ∨ k.yield = true ∨ k.nbHold = true ∨ (id.span = 0 ∧ k.needAcl ≠ []) then s
            else s.beginPass ch c r id pl)

/-! ### Yield points (06 R239 to R245) -/

/-- Channel `ch` leaves near-bank mode at a yield point: the grant ends at its burst limit, with a host-class request that waits, or with
measure 3; a write is queued; re-centring is due; or the sequencer has no further step for the channel (R240; 04 R126, R127; 17 R660). -/
def State.leavesAtYield (s : State) (ch : Nat) : Bool :=
  let c := s.chan ch
  let used := match c.grant with | some g => g.2 + 1 | none => 1
  s.hostWaiting ch (s.cyc + 1) || decide (s.inForce 0 rARBNBS 0 4 ≤ used) || c.writeQ != [] || c.recentreDue || c.nbHold ||
    (match c.pass with | some p => p.abandon | none => true)

/-- A yield point: the channel leaves near-bank mode, to be left by NBX, or goes on, and then a map flip due on it takes
effect; NBCFG too takes effect there (R269). It comes after every NBCFG.YROWS rows, at the end of the passes, and once more where a repair waits (R239, R240,
R242). A stack at thermal level 3 holds its passes here in the second half of every 10 µs (17 R663). -/
def execYieldPoint (ch : Fin 1536) (s : State) : Result :=
  let c := s.chan ch
  let t := tileOfChan ch
  let part := c.pass.bind (fun p => (s.ctx p.ctx).part)
  let due := match c.pass with
    | some p => p.yieldDue || (p.abandon && (p.strs != [] || p.groups != []))
    | none => true
  let boundary := (s.participating ch).all (fun j => (s.nbu (bankOf ch j)).col == 0)
  let repair := boundary && (s.stack (ch / 16)).pendingRepair.any (fun r => r.chans.contains ch.val)
  .next (
    if c.mode = .nearBank ∧ c.yield = false ∧ (due = true ∨ repair = true) ∧ s.computing ch = false then
      let hosts := (c.readQ ++ c.writeQ).filter (fun q => decide (q.who ≤ 5))
      let leave := s.leavesAtYield ch
      if leave = false ∧ (s.stack (ch / 16)).half = true then s
      else
        let s1 := s.modChan ch (fun c => { c with
          yields := (c.yields + 1) % 65536, yield := leave, yieldAt := s.cyc + 1
          grant := if leave then none else c.grant.map (fun g => (g.1, g.2 + 1))
          waitNbs := match leave, c.pass with
            | true, some p =>
              if p.abandon || c.waitNbs.any (fun w => w.1 == 8 + p.ctx % 4) then c.waitNbs else c.waitNbs ++ [(8 + p.ctx % 4, s.cyc)]
            | _, _ => c.waitNbs
          pass := c.pass.map (fun p : Pass => { p with
            yielded := p.yielded || p.yieldDue, interval := max 1 (s.cfg rNBCFG 0 4) }) })
        let s2 := (((if leave then hosts else []).foldl (fun s q => s.count t 0x0A q.part 1)
          ((s1.takeUp ch [rNBCFG]).count t 0x09 part 1))).takeFlips ch
        if leave then
          s2.trace 7 part (match c.pass with | some p => p.ctx | none => 0) 4 (match c.pass with | some p => p.step | none => 0) 0 0 ch.val
        else s2
    else s)

/-- A pass of a context that halted, or whose partition is reset, is abandoned: the channel leaves near-bank mode, no
accumulator of the pass is read, and the lock is released (R257). -/
def execPassAbandon (ch : Fin 1536) (s : State) : Result :=
  let c := s.chan ch
  .next (
    match c.pass with
    | some p =>
      if p.abandon = true ∧ (c.mode ≠ .nearBank ∨ c.yield = true ∨ p.rowsDone = 0 ∨ p.rows ≤ p.rowsDone ∨ p.yieldDue = true) then
        (s.modChan ch (fun c => { c with
          pass := none, lock := none, yield := false, yieldExit := false, nbxAt := if c.mode = .nearBank then s.cyc else c.nbxAt
          mode := if c.mode = .nearBank then .leaving else c.mode
          banks := if c.mode = .nearBank then Tab.mapAll (fun _ => {}) (fun _ b => { b with compute := none, ahead := none, preAt := s.cyc }) c.banks
            else c.banks })).takeFlips ch
      else s
    | none => s)

/-! ### The recompute unit (05 R196 to R200) -/

/-- The recompute unit of tile `tile` takes the bank's pass that has waited longest (R199). -/
def execRecomputeRebuild (tile : Fin 16) (s : State) : Result :=
  .next (
    match (s.hub tile).rebuilds with
    | [] => s
    | r :: rest => if r.started then s else s.modHub tile (fun h => { h with rebuilds := { r with started := true } :: rest }))

/-- A unit with the folds it holds all in its accumulators. -/
def Nbu.settle (n : Nbu) : Nbu := n.folds.foldl (fun n f => n.fold f) { n with folds := [] }

/-- One pass folded again from the rows of module bank `b` and the broadcast source, as both stand when the rebuild ends; a source that was
changed before then is left open by the spec, and its bytes are taken as they are (R196, R197; DESIGN CHOICE, log entry 12). -/
def State.refold (s : State) (b : Nat) (n : Nbu) (p : PassRec) : Nbu :=
  let n0 := { n.configure p.cfg with abuf := [] }
  let blocks := p.cols / blockCols n0.wfmt
  let n1 := (List.range (pitchOf n0.slotsB * blocks)).foldl (fun n i =>
    n.writeBeat (n.woff + i) (s.streamBeat p.tile p.src p.entry p.slot0 n.slotsB (n.woff + i))) n0
  (List.range p.cols).foldl (fun n x =>
    let r := p.row + (p.col + x) / 64
    let c := (p.col + x) % 64
    ((n.takeColumn (s.rawColumn (rowKey b r) c) true r c 0).computeTo 8 8).settle) n1

/-- Row keys of the rows of module bank `b` that a pass streams. -/
def PassRec.rowKeys (p : PassRec) (b : Nat) : List Nat :=
  (List.range ((p.col + p.cols + 63) / 64)).map (fun i => rowKey b (p.row + i))

/-- The columns of row `rk` that a pass streams. -/
def PassRec.columns (p : PassRec) (b rk : Nat) : List Nat :=
  (List.range 64).filter (fun c =>
    let x := 64 * (rk - rowKey b p.row) + c
    decide (p.col ≤ x) && decide (x < p.col + p.cols))

/-- A row of the span reads without poison: no wrong tag, no poisoned line, and every column of the span passes its check (R198). -/
def State.rowClean (s : State) (b : Nat) (p : PassRec) (rk : Nat) : Bool :=
  !s.badTag rk && (p.columns b rk).all (fun c => s.columnState rk c == .good)

/-- Every row of a pass reads without poison (R198). -/
def State.passClean (s : State) (b : Nat) (p : PassRec) : Bool := (p.rowKeys b).all (fun rk => s.rowClean b p rk)

/-- The rows of a pass read conventionally, each row in which a column check fails decoded for path 2 (R196, R198; 03 R87 to R89, R115). -/
def State.readSpan (s : State) (b : Nat) (part : Option Nat) (p : PassRec) : State :=
  (p.rowKeys b).foldl (fun s rk =>
    match (p.columns b rk).find? (fun c => s.columnAsks rk c) with
    | some c => s.decodeRow rk c 2 part (s.logAddr (rk * 32 + c / 2)) id
    | none => s) s

/-- The value of a group at the end of its pass, folded from the value kept or from the cleared one (R196). -/
def State.rebuiltValue (s : State) (b : Nat) (g : RebuildGroup) : List (BitVec 32) :=
  let base := if g.base = [] then List.replicate 64 0 else g.base
  let n : Nbu := { acc := Tab.setRun (fun _ => 0) [] (g.group * 64) base }
  (g.passes.foldl (fun n p => s.refold b n p) n).groupVals g.group

/-- A rebuilt value kept by the unit until its group is cleared, the passes that it holds no longer to be folded (R196). -/
def Hub.keep (h : Hub) (b : Nat) (g : RebuildGroup) (v : List (BitVec 32)) : Hub :=
  let upto := g.passes.foldl (fun m p => max m (p.serial + 1)) 0
  if g.cleared then h
  else { h with
    rebuilt := Tab.put (Tab.erase h.rebuilt (b * 8 + g.group)) (b * 8 + g.group) v
    passHist := Tab.upd (fun _ => []) h.passHist (b * 8 + g.group) (fun l => l.filter (fun p => decide (upto ≤ p.serial))) }

/-- A sum buffer takes a rebuilt group, or the poison of a rebuild that failed (06 R261). -/
def SumBuf.takeRebuilt (u : SumBuf) (int : Bool) (vals : Option (List (BitVec 32))) (dst : Option DrainKey) (now : Nat) : SumBuf :=
  let d := if u.busy then u.dst else dst
  match vals with
  | some v => { u.addGroup int v with dst := d, lastAt := now }
  | none => { u with busy := true, pois := true, dst := d, lastAt := now }

/-- A rebuild ends (R198 to R200): the rows of the span are read, those in which a check fails decoded; the rebuilt groups are added to their
sum buffers, or poison them when a row does not decode or holds a poisoned line, and the result is logged with FAULTROW and FAULTCOL. A group
waits while its buffer still holds the sum of another drain (06 R264). -/
def execRecomputeDone (tile : Fin 16) (s : State) : Result :=
  let t := tile.val
  .next (
    match (s.hub t).rebuilds with
    | [] => s
    | r :: rest =>
      let b := bankOf r.chan r.bank
      let free := r.groups.all (fun g => let u := s.cru (r.chan * 16 + g.buf); !u.busy || u.dst == g.dst)
      if r.started = false ∨ free = false then s
      else
        let part := (r.groups.head?.bind RebuildGroup.dst).bind (fun d : DrainKey => (s.ctx d.ctx).part)
        let passes := (r.groups.flatMap RebuildGroup.passes).eraseDups
        let s0 := passes.foldl (fun s p => s.readSpan b part p) s
        let bad := passes.any (fun p => !s0.passClean b p)
        let int (g : RebuildGroup) : Bool :=
          match g.passes.getLast? with | some p => field p.cfg 0 3 == 4 | none => (s.nbu b).accInt.getLsbD g.group
        let s1 := r.groups.foldl (fun s' g =>
          let v := if bad then none else some (s0.rebuiltValue b g)
          let s2 := s'.modCru (r.chan * 16 + g.buf) (fun u => u.takeRebuilt (int g) v g.dst s.cyc)
          match v with
          | some l => s2.modHub t (fun h => h.keep b g l)
          | none => s2) s0
        let s3 := s1.modHub t (fun h => { h with rebuilds := rest })
        let line := lineKey b r.row (r.col / 2)
        if bad then s3.uncorrectable line r.col 3 2 127 part (s.logAddr line) else s3.logError line r.col 1 2 0 part (s.logAddr line))

/-! ### Drains and the sums of a step (06 R263 to R265; 11 R464) -/

/-- Reads or rebuilds still directed into a drain. -/
def State.drainOpen (s : State) (ch : Nat) (dst : Option DrainKey) : Bool :=
  (match (s.chan ch).pass with | some p => p.groups.any (fun e => some e.2.2.2 == dst) | none => false) ||
  (s.hub (tileOfChan ch)).rebuilds.any (fun r => r.chan == ch && r.groups.any (fun g => g.dst == dst))

/-- A sum buffer drained, 4 hub cycles after the last beat or rebuilt group directed into it: each lane converted once,
the result kept for its step's sums, the buffer reset (R263 to R265). -/
def execCruDrain (ch : Fin 1536) (buf : Fin 16) (s : State) : Result :=
  let i := ch.val * 16 + buf.val
  let u := s.cru i
  .next (
    if u.busy = true ∧ u.lastAt + 4 ≤ s.cyc ∧ s.drainOpen ch u.dst = false then
      let vals := (List.range 64).map (fun l => (Tab.get (fun _ => {}) u.lanes l).drain u.int)
      let s1 := s.modCru i (fun _ => {})
      match u.dst with
      | none => s1
      | some d => s1.modCtx d.ctx (fun x => { x with nbrun := x.nbrun.map (fun r => { r with
          drains := r.drains ++ [{ key := d, lanes := vals.map Prod.fst, poison := u.pois || r.tainted.contains d }]
          poison := r.poison || u.pois || r.tainted.contains d
          sat := r.sat || vals.any Prod.snd }) })
    else s)

/-- Every drain a step calls for: one for each place that holds slices of one result group, and each slot (11 R462,
R464). -/
def State.nbNeeds (s : State) (r : NbRun) : List DrainKey :=
  let st := r.st
  let cg := s.cargo st.ctx st.cargo
  let br := s.berth st.ctx cg.berth
  (r.entries.flatMap (fun e => (List.range st.gcnt).flatMap (fun i =>
    (cg.slicesOf e.2 (st.gbase + i)).flatMap (fun p =>
      let d := p.1 % br.domain
      (List.range st.b).map (fun k =>
        ({ ctx := st.ctx, tile := (br.tiles.getD (d / 4608) (0, 0, 0)).1, chan := d % 4608 / 48, cell := p.1 / br.domain
           unit := p.2, slot := k, entry := e.1 } : DrainKey)))))).dedup

/-- Two results added: one rounding in FP32, saturation in INT32 (11 R464). -/
def nbAdd (int : Bool) (a b : BitVec 32 × Bool) : BitVec 32 × Bool :=
  if int then let r := addI32 a.1 b.1; (r.1, a.2 || b.2 || r.2) else (addF32 a.1 b.1, a.2 || b.2)

/-- A list of results summed in its order. -/
def nbSum (int : Bool) : List (BitVec 32 × Bool) → BitVec 32 × Bool
  | [] => (0, false)
  | v :: l => l.foldl (nbAdd int) v

/-- Insertion in ascending order of a key. -/
def insertBy (key : DrainRes → Nat) (d : DrainRes) : List DrainRes → List DrainRes
  | [] => [d]
  | e :: l => if key d < key e then d :: e :: l else e :: insertBy key d l

/-- One result element: each tile sums its channels' drains in ascending placed channel, then cell; the issuing tile sums
the tile partials in ascending tile number (11 R464; 07 R290). -/
def nbResult (int : Bool) (ds : List DrainRes) (lane : Nat) : BitVec 32 × Bool :=
  let order (d : DrainRes) : Nat := d.key.chan * 2 ^ 32 + d.key.cell
  let tiles := (List.range 16).filter (fun t => ds.any (fun d => d.key.tile == t))
  let part (t : Nat) : BitVec 32 × Bool :=
    let mine := (ds.filter (fun d => d.key.tile == t)).foldl (fun l d => insertBy order d l) []
    nbSum int (mine.map (fun d => (d.lanes.getD lane 0, false)))
  nbSum int (tiles.map part)

/-- The last write of an NBPASS becomes visible: once every pass has run and every drain is made, the sums are written to
DST and the step's tally advances (11 R453, R464). A step whose list is empty completes with nothing written. -/
def execNbpassComplete (ctx : Fin 64) (s0 : State) : Result :=
  let c := ctx.val
  let s := s0.nbBegin c
  .next (
    match (s.ctx c).nbrun with
    | none => s
    | some r =>
      let needs := s.nbNeeds r
      if (s.ctx c).live = true ∧ needs.all (fun k => r.drains.any (fun d => d.key == k)) = true then
        let st := r.st
        let int := (s.berth c (s.cargo c st.cargo).berth).wfmt == 4
        let outs := (needs.map (fun k => (k.entry, k.unit, k.slot))).dedup
        let one (s : State × Bool) (o : Nat × Nat × Nat) : State × Bool :=
          let ds := r.drains.filter (fun d => d.key.entry == o.1 && d.key.unit == o.2.1 && d.key.slot == o.2.2)
          let pois := ds.any (fun d => d.poison)
          (List.range 64).foldl (fun (s : State × Bool) l =>
            let i := [64 * o.2.1 + l, o.2.2, o.1, 0]
            let v := nbResult int ds l
            if (List.range 3).all (fun d => decide (i.getD d 0 < st.dst.size d)) then
              (s.1.spWrite (tileOfCtx c) (st.dst.addr i).toNat (leBytes 4 v.1.toNat) pois, s.2 || v.2)
            else (s.1, s.2 || v.2)) s
        let src := ((needs.map DrainKey.tile).eraseDups).filter (fun t => t != tileOfCtx c)
        let sent (t : Nat) : Nat := 4 * (outs.filter (fun o => needs.any (fun k => k.tile == t && k.entry == o.1 && k.unit == o.2.1 && k.slot == o.2.2))).length
        let w := outs.foldl one (src.foldl (fun s t => s.meshBytes t (tileOfCtx c) (sent t)) s, false)
        let wrote := (outs.flatMap (fun o => (List.range 64).map (fun l =>
          spWordOf (tileOfCtx c) (st.dst.addr [64 * o.2.1 + l, o.2.2, o.1, 0]).toNat))).eraseDups
        let s2 := (w.1.nbTakes (tileOfCtx c) wrote).modCtx c (fun x => { x with
          nbrun := none, poison := x.poison || r.poison, sat := x.sat || r.sat || w.2, range := x.range || r.range })
        s2.stepDone c st.step 4 0 st.tadv
      else s)

end Sys2Proof.Machine
end

