-- ==== Sys2Proof/Machine/Matrix.lean ====
section
/-! DEFINITION. The matrix engine: steps, waves, panels, slices and their tests (chapter 8). -/

namespace Sys2Proof.Machine

/-! ### Operands and arithmetic -/

/-- The value of an A (or B) element's bits (08 R299, R300). -/
def meValue (fmt : Nat) (b sub : Bool) (w : Nat) : Fl :=
  match fmt with
  | 0 => (if sub then e5m2 else e4m3).decode w
  | 1 => flOfInt (signed 8 w) 0
  | 2 => e2m1 w
  | 3 => if b then e2m1 w else (if sub then e5m2 else e4m3).decode w
  | 4 => flOfInt (signed 4 w) 0
  | 5 => flOfInt (signed (if b then 4 else 8) w) 0
  | 6 => bf16.decode w
  | _ => fp16.decode w

/-- Base of strip `ρ`. -/
def stripAt (base : Nat) (str : Int) (ρ : Nat) : Nat := ((base : Int) + ρ * str).toNat

/-- Bytes that a stream of the A (or B) operand reads a cycle (08 R303). -/
def meWide (fmt : Nat) (b : Bool) : Nat := if (fmt = 3 ∨ fmt = 5) ∧ b = false then 256 else 128

/-- Place of what strip `ρ` of A (or B) gave in operand cycle `n` in the table of bytes read. -/
def meKey (b : Bool) (ρ n : Nat) : Nat := (2 * ρ + nat b) * 2 ^ 20 + n

/-- Place of the scales of block `n` of strip `ρ`. -/
def meScaleKey (b : Bool) (ρ n : Nat) : Nat := 2 ^ 40 + meKey b ρ n

/-- Byte `off` of strip `ρ` as the wave has read it (08 R303). -/
def MeRun.byte (r : MeRun) (b : Bool) (ρ off : Nat) : Nat :=
  let w := meWide r.st.fmt b
  ((Tab.get (fun _ => ([], false)) r.got (meKey b ρ (off / w))).1.getD (off % w) 0).toNat

/-- The bits of element (i, k) of a strip (08 R301). -/
def MeRun.word (r : MeRun) (b : Bool) (ρ k i : Nat) : Nat :=
  let bits := meBits r.st.fmt b
  if bits = 4 then
    let v := r.byte b ρ (k / 2 * 128 + i)
    if k % 2 = 0 then v % 16 else v / 16
  else if bits = 8 then r.byte b ρ (k * 128 + i)
  else r.byte b ρ (k * 256 + 2 * i) + 256 * r.byte b ρ (k * 256 + 2 * i + 1)

/-- A[row, k] (08 R301). -/
def MeRun.a (r : MeRun) (row k : Nat) : Fl := meValue r.st.fmt false r.st.asub (r.word false (row / 128) k (row % 128))

/-- B[k, col] (08 R301). -/
def MeRun.b (r : MeRun) (col k : Nat) : Fl := meValue r.st.fmt true r.st.bsub (r.word true (col / 128) k (col % 128))

/-- The scale byte of block `n` of row or column `i`; 127 in a format without block scales (08 R302). -/
def MeRun.scale (r : MeRun) (b : Bool) (i n : Nat) : Nat :=
  if meBits r.st.fmt b = 4 then
    ((Tab.get (fun _ => ([], false)) r.got (meScaleKey b (i / 128) n)).1.getD (i % 128) 0).toNat
  else 127

/-- The fold of a block sum into an FP32 accumulator (08 R320, R323). -/
def foldBlock (ea eb : Nat) (sum : Fl) (acc : BitVec 32) : BitVec 32 :=
  if ea = 255 ∨ eb = 255 then toF32 .nan
  else match sum with
    | .fin neg m x => if m = 0 then acc else toF32 ((ofF32 acc).add (.fin neg m (x + (ea : Int) + (eb : Int) - 254)))
    | v => toF32 ((ofF32 acc).add v)

/-- The whole number a block sum of whole numbers is. -/
def Fl.whole : Fl → Int
  | .fin neg m e => sgn neg m * 2 ^ e.toNat
  | _ => 0

/-- C[row, col] from the accumulator `acc` on, and whether an INT32 fold saturated (08 R309, R320 to R322). -/
def MeRun.elem (r : MeRun) (row col : Nat) (acc : BitVec 32) : BitVec 32 × Bool :=
  let e := r.st
  if 6 ≤ e.fmt then
    ((List.range e.k).foldl (fun a k => toF32 ((ofF32 a).add ((r.a row k).mul (r.b col k)))) acc, false)
  else
    (List.range (e.k / 32)).foldl (fun (p : BitVec 32 × Bool) n =>
      let sum := (List.range 32).foldl (fun (x : Fl) i => x.add ((r.a row (32 * n + i)).mul (r.b col (32 * n + i)))) (Fl.fin false 0 0)
      if e.fmt = 1 then
        let v := satI32 (p.1.toInt + sum.whole)
        (BitVec.ofInt 32 v.1, p.2 || v.2)
      else
        (foldBlock (r.scale false row n) (r.scale true col n) sum p.1, p.2))
      (acc, false)

/-! ### Waves (08 R298, R311, R313, R317) -/

/-- Position and rood (ρm, ρn) of every position that works in wave `w` (08 R298, R311). -/
def MeRun.roods (r : MeRun) (w : Nat) : List (Nat × Nat × Nat) :=
  let e := r.st
  let ga := gaOf e.arr
  let rm := ceilDiv e.m 128
  let rn := ceilDiv e.n 128
  let wms := ceilDiv rm ga
  let wns := ceilDiv rn r.gb
  let wm := if e.ord then w % wms else w / wns
  let wn := if e.ord then w / wms else w % wns
  ((List.range (ga * r.gb)).map (fun p => (p, wm * ga + p / r.gb, wn * r.gb + p % r.gb))).filter
    (fun x => decide (x.2.1 < rm) && decide (x.2.2 < rn))

/-- Waves of the step under its own arrangement (08 R311). -/
def MeRun.waves (r : MeRun) : Nat := wavesOf r.st.arr r.nw r.st.m r.st.n

/-- Panels of a rood (08 R313). -/
def MeStep.panelsOf (e : MeStep) (rm rn : Nat) : Nat := ceilDiv (min 128 (e.m - 128 * rm)) 32 * ceilDiv (min 128 (e.n - 128 * rn)) 32

/-- Pw of wave `w` (08 R313). -/
def MeRun.pw (r : MeRun) (w : Nat) : Nat :=
  if r.st.keep then 0 else ((r.roods w).map (fun x => r.st.panelsOf x.2.1 x.2.2)).sum

/-- Kc of the step. -/
def MeStep.kc (e : MeStep) : Nat := kcOf e.fmt e.k

/-- Strips of A (or B) that wave `w` streams (08 R303, R311). -/
def MeRun.strips (r : MeRun) (w : Nat) (b : Bool) : List Nat := ((r.roods w).map (fun x => if b then x.2.2 else x.2.1)).eraseDups

/-- A strip gave a byte from a poisoned word (10 R395). -/
def MeRun.stripBad (r : MeRun) (b : Bool) (ρ : Nat) : Bool :=
  r.got.any (fun e => e.2.2 && e.1 % 2 ^ 40 / 2 ^ 20 == 2 * ρ + nat b)

/-- A rood takes an operand byte from a poisoned word (10 R395). -/
def MeRun.roodBad (r : MeRun) (rm rn : Nat) : Bool := r.stripBad false rm || r.stripBad true rn

/-- Key of an accumulator in the table of resident roods. -/
def accKey (row col : Nat) : Nat := row * 65536 + col

/-- What a step continues from: the resident roods with CONT = 1, otherwise none (08 R309). -/
def Matrix.base (m : Matrix) (e : MeStep) : Option Resident := if e.cont then m.res else none

/-- The accumulator of C[row, col] before the step (08 R309). -/
def startAcc (b : Option Resident) (row col : Nat) : BitVec 32 :=
  match b with | some r => Tab.get (fun _ => 0) r.acc (accKey row col) | none => 0

/-- Panel (pr, pc) of a rood (08 R317, R319, R320). -/
def MeRun.panelOf (r : MeRun) (b : Option Resident) (x : Nat × Nat × Nat) (bad : Bool) (pr pc : Nat) : Panel :=
  let e := r.st
  let prow := 4 * x.2.1 + pr
  let pcol := 4 * x.2.2 + pc
  let vs := (List.range 1024).map (fun i =>
    let row := 32 * prow + i / 32
    let col := 32 * pcol + i % 32
    if row < e.m ∧ col < e.n then r.elem row col (startAcc b row col) else (0, false))
  let was := match b with
    | some r => r.sat.any (fun k => k / 65536 / 32 == prow && k % 65536 / 32 == pcol)
    | none => false
  { prow := prow, pcol := pcol, vrows := min 32 (e.m - 32 * prow) - 1, vcols := min 32 (e.n - 32 * pcol) - 1, int := e.fmt == 1
    poison := bad, sat := was || vs.any (fun v => v.2), ctx := e.ctx % 4, tag := e.step % 2 ^ 14, pos := x.1, elems := vs.map (fun v => v.1) }

/-- The panels of a wave in the order of R317, with LASTW and LAST (08 R317, R319). -/
def MeRun.wavePanels (r : MeRun) (b : Option Resident) (w : Nat) : List Panel :=
  let e := r.st
  let ps := (r.roods w).flatMap (fun x =>
    let bad := r.roodBad x.2.1 x.2.2 || r.lost.contains x.1 || r.hit.contains x.1 || (match b with | some q => q.poison.contains x.1 | none => false)
    let nr := ceilDiv (min 128 (e.m - 128 * x.2.1)) 32
    let nc := ceilDiv (min 128 (e.n - 128 * x.2.2)) 32
    (List.range (nr * nc)).map (fun i => r.panelOf b x bad (i / nc) (i % nc)))
  ps.zipIdx.map (fun p => if p.2 + 1 = ps.length then { p.1 with lastw := true, last := w + 1 == r.waves } else p.1)

/-- The roods a step with KEEP = 1 leaves in the front accumulators (08 R309). -/
def MeRun.keepRoods (r : MeRun) (b : Option Resident) : Resident :=
  let e := r.st
  let cells := (List.range e.m).flatMap (fun row => (List.range e.n).map (fun col =>
    (accKey row col, r.elem row col (startAcc b row col))))
  { ctx := e.ctx % 4, int := e.fmt == 1, arr := e.arr, m := e.m, n := e.n
    acc := cells.foldl (fun a c => Tab.set (fun _ => 0) a c.1 c.2.1) []
    sat := (match b with | some q => q.sat | none => []) ++ (cells.filter (fun c => c.2.2)).map (fun c => c.1)
    poison := ((match b with | some q => q.poison | none => []) ++
      ((r.roods 0).filter (fun x => r.roodBad x.2.1 x.2.2 || r.lost.contains x.1 || r.hit.contains x.1)).map (fun x => x.1)).eraseDups }

/-! ### Slices -/

/-- Mismatches of slice `sl` within the hour before now (08 R333). -/
def Matrix.recent (m : Matrix) (now sl : Nat) : List Nat :=
  (Tab.get (fun _ => []) m.faultAt sl).filter (fun a => decide (now < a + 5760000000000))

/-- The slice has had MECFG.FTHR mismatches within one hour (08 R333). -/
def State.worn (s : State) (t : Nat) (m : Matrix) (sl : Nat) : Bool := decide (max 1 (s.inForce t rMECFG 16 4) ≤ (m.recent s.cyc sl).length)

/-- Position served by a slice. -/
def Matrix.posOf (m : Matrix) (sl : Nat) : Option Nat := m.serve.idxOf? sl

/-- A slice goes for good (08 R333, R336). The free slice takes the place of a serving one; with no free slice NW falls by
one: the steps in flight poison the lost position's panels, every partition with a context on the tile is told, and the
next MMUL of each bound context halts with 0x12. -/
def State.retireSlice (s : State) (t sl step : Nat) (part : Option Nat) (ctx : Nat) : State :=
  let m := s.mat t
  let pos := (m.posOf sl).getD 31
  let s0 := s.bbox t 6 part ctx [(24, 1, sl), (25, 1, pos), (26, 1, 1), (27, 3, step)]
  match m.posOf sl, m.free with
  | none, _ => s0.modMat t (fun m => { m with
      retired := m.retired ++ [sl], ungated := m.ungated.erase sl, free := if m.free = some sl then none else m.free })
  | some p, some f => s0.modMat t (fun m => { m with
      serve := m.serve.set p f, free := none, retired := m.retired ++ [sl], ungated := if m.ungated.contains sl then f :: m.ungated.erase sl else m.ungated
      swapPos := if m.swapPos = some p then none else m.swapPos })
  | some p, none =>
    let s1 := s0.modMat t (fun m => { m with
      serve := m.serve.eraseIdx p, retired := m.retired ++ [sl], ungated := m.ungated.erase sl, swapPos := none
      nextSwap := if m.nextSwap < m.serve.length - 1 then m.nextSwap else 0
      runs := m.runs.map (fun r => { r with
        lost := p :: r.lost, waiting := r.waiting.map (fun w => if w.2.pos = p then (w.1, { w.2 with poison := true }) else w) })
      res := m.res.map (fun q => { q with poison := p :: q.poison })
      reconf := (List.range 4).filter (fun q => (s.ctx (4 * t + q)).st != .unbound) })
    let nw := (s1.mat t).serve.length
    let parts := ((List.range 4).filterMap (fun q => (s.ctx (4 * t + q)).part)).eraseDups
    parts.foldl (fun s p => s.event p 6 [(16, 1, t), (17, 1, nw)]) s1

/-- The position whose swap is due is taken over by the free slice at a wave that starts its rood fresh; the slice it
relieves is tested, or retired where its mismatches say so (08 R333, R334). -/
def State.takeOver (s : State) (t : Nat) (fresh : List Nat) : State :=
  let m := s.mat t
  match m.swapPos, m.free with
  | some p, some f =>
    if fresh.contains p ∧ m.testing = none then
      let sl := m.serve.getD p 0
      let s1 := s.modMat t (fun m => { m with
        serve := m.serve.set p f, free := none, testing := some sl, swapPos := none
        ungated := if m.ungated.contains f then m.ungated else f :: m.ungated })
      if s.worn t m sl then (s1.modMat t (fun m => { m with testing := none })).retireSlice t sl 0 none 63 else s1
    else s
  | _, _ => s

/-- Every slice that serves a position is ungated. -/
def Matrix.awake (m : Matrix) : Bool := m.serve.all (fun sl => m.ungated.contains sl)

/-- MWAKE steps whose slices are all ungated complete (08 R329). -/
def State.wakeDone (s : State) (t : Nat) : State :=
  let m := s.mat t
  if m.awake then
    m.wake.foldl (fun s e => s.stepDone e.ctx e.step 1 1 e.tadv) (s.modMat t (fun m => { m with wake := [] }))
  else s

/-! ### Steps -/

/-- MMUL: checked at decode and placed in the matrix queue (08 R308; 11 R451). An MMUL issued after the roods were
discarded ends the mark of R326. -/
def execMmul (ctx : Fin 64) (s : State) : Result :=
  let c := ctx.val
  .next (s.issue c 1 0 noWait (fun w i s1 =>
    ((s1.modMat (tileOfCtx c) (fun m => { m with queue := m.queue ++ [{ s.meStep c w with step := i }], dropped := m.dropped.filter (· != c % 4) }))).outstand c w i))

/-- MWAKE placed in the matrix queue (08 R329; 11 R451). -/
def execMwake (ctx : Fin 64) (s : State) : Result :=
  let c := ctx.val
  .next (s.issue c 1 1 noWait (fun w i s1 =>
    (s1.modMat (tileOfCtx c) (fun m => { m with
      queue := m.queue ++ [{ ctx := c, step := i, op := 1, tadv := stepTally w, entry := s.cyc + 4 + nat (flag w 52) }] })).outstand c w i))

/-- The first step of each tile-local context's queue, in round-robin order from the context after the last served
(08 R325; 11 R451). -/
def Matrix.heads (m : Matrix) : List MeStep :=
  ((List.range 4).map (fun i => (m.rr + 1 + i) % 4)).filterMap (fun q => m.queue.find? (fun e => e.ctx % 4 == q))

/-- Tile-local context that keeps the engine: it has resident roods, or its running step leaves some (08 R325). -/
def Matrix.holder (m : Matrix) : Option Nat :=
  match m.res, m.runs.getLast? with
  | some r, _ => some r.ctx
  | none, some r => if r.st.keep then some (r.st.ctx % 4) else none
  | none, none => none

/-- Positions an MMUL works with: those below GA × GB (08 R298). -/
def Matrix.used (m : Matrix) (e : MeStep) : List Nat := m.serve.take (gaOf e.arr * (m.serve.length / max 1 (gaOf e.arr)))

/-- First operand cycle S0 of an MMUL that stands at the queue head, if it may start: after the engine's steps have
completed, or chained behind a step of the same context, FMT and ARR. It reached the head at its entry or at S0 of its
context's previous step, and counts from the cycle its last slice ungated (08 R312, R328; 11 R451). -/
def Matrix.startCycle (m : Matrix) (e : MeStep) (now : Nat) : Option Nat :=
  let a := (m.used e).foldl (fun a sl => max a (Tab.get (fun _ => 0) m.opened sl))
    (max e.entry (Tab.get (fun _ => 0) m.headAt (e.ctx % 4)))
  match m.runs.getLast? with
  | none => some (max now (max m.eprev a + 12))
  | some r =>
    if r.st.ctx = e.ctx ∧ r.st.fmt = e.fmt ∧ r.st.arr = e.arr ∧ r.wave = r.waves then some (max now (max r.start (a + 12))) else none

/-- A step reaches the head of the matrix queue: an MWAKE asks for the serving slices; an MMUL starts, or waits for the
slices of its arrangement; MECFG takes effect at its start (08 R312, R325, R326, R328, R329, R337). -/
def execMeStepStart (tile : Fin 16) (s : State) : Result :=
  let t := tile.val
  let m := s.mat t
  let drop (e : MeStep) (m : Matrix) : Matrix := { m with queue := m.queue.erase e }
  .next (
    if (s.hub t).engines.contains 0 = false then s
    else match m.heads.find? (fun e => e.op == 1 && decide (e.entry ≤ s.cyc)) with
    | some e =>
      let s1 := s.modMat t (fun m => { drop e m with wake := m.wake ++ [e] })
      ((m.serve.filter (fun sl => !m.ungated.contains sl)).foldl (fun s sl => s.enqueueWake t 2 sl) s1).wakeDone t
    | none =>
      match m.heads.find? (fun e => e.op == 0 && (match m.holder with | some q => e.ctx % 4 == q | none => true)) with
      | none => s
      | some e =>
        if s.cyc < e.entry then s
        else if e.cont = true ∧ m.res = none ∧ m.runs = [] then s.halt e.ctx 0x11 15 e.step
        else match (m.used e).filter (fun sl => !m.ungated.contains sl) with
        | sl :: sls => (sl :: sls).foldl (fun s sl => s.enqueueWake t 2 sl) s
        | [] =>
          match m.startCycle e s.cyc with
          | none => s
          | some s0 =>
            let nw := m.serve.length
            (s.modMat t (fun m => { drop e m with
              rr := e.ctx % 4, headAt := Tab.set (fun _ => 0) m.headAt (e.ctx % 4) s0, runs := m.runs ++ [{ st := e, s0 := s0, start := s0, nw := nw, gb := nw / max 1 (gaOf e.arr) }] })).takeUp t [rMECFG])

/-- Panels that wait behind the wave that drains. -/
def behindWave : List (Nat × Panel) → List (Nat × Panel)
  | [] => []
  | p :: rest => if p.2.lastw then rest else behindWave rest

/-- The oldest wave is undrained in cycle start + Kc + 260 of the next, when its first panel would enter: every operand stream is held
(08 R316). -/
def Matrix.held (m : Matrix) (now : Nat) : Bool :=
  match behindWave (m.runs.flatMap (fun r => r.waiting)) with
  | [] => false
  | p :: _ => decide (p.1 ≤ now)

/-- Every later cycle of the panels behind the wave that drains shifted by one cycle of a hold; `drained` says that wave lies in an earlier
step (08 R316). -/
def shiftBehind (drained : Bool) : List (Nat × Panel) → List (Nat × Panel)
  | [] => []
  | p :: rest => if drained then (p.1 + 1, p.2) :: shiftBehind true rest else p :: shiftBehind p.2.lastw rest

/-- One cycle of a hold by the FPQ: all later cycles of the steps started shift by it (08 R316). -/
def shiftRuns (drained : Bool) : List MeRun → List MeRun
  | [] => []
  | r :: rest =>
    { r with start := r.start + 1, lastStart := r.lastStart + 1, waiting := shiftBehind drained r.waiting } ::
      shiftRuns (drained || r.waiting.any (fun w => w.2.lastw)) rest

/-- The last step started, changed. -/
def Matrix.modLast (m : Matrix) (f : MeRun → MeRun) : Matrix :=
  match m.runs.getLast? with | some r => { m with runs := m.runs.dropLast ++ [f r] } | none => m

/-- Scale reads of the first block of wave `w` (08 R302, R304): strip, address. -/
def MeRun.firstScales (r : MeRun) (w : Nat) (b : Bool) : List (Nat × Nat) :=
  if meBits r.st.fmt b = 4 ∧ w < r.waves then
    (r.strips w b).map (fun ρ => (ρ, if b then stripAt r.st.bsc r.st.bscstr ρ else stripAt r.st.asc r.st.ascstr ρ))
  else []

/-- What the streams of A (or B) read in the operand cycle in hand (08 R303, R304): the place it is kept at, the wave it is for (true: the
next, of this step or of the chained step `nxt`), its address and length. -/
def MeRun.reads (r : MeRun) (nxt : Option MeRun) (b : Bool) : List (Nat × Bool × Nat × Nat) :=
  let e := r.st
  let w := meWide e.fmt b
  let ops := (r.strips (r.wave - 1) b).map (fun ρ =>
    (meKey b ρ r.op, false, (if b then stripAt e.bbase e.bstr ρ else stripAt e.abase e.astr ρ) + w * r.op, w))
  let blk := r.op / 16 + 1
  let scs := if meBits e.fmt b = 4 then
      if blk < e.k / 32 then
        (r.strips (r.wave - 1) b).map (fun ρ =>
          (meScaleKey b ρ blk, false, (if b then stripAt e.bsc e.bscstr ρ else stripAt e.asc e.ascstr ρ) + blk * 128 + r.op % 16 * 8, 8))
      else []
    else []
  let kb := e.kc - 16
  let nxts := if r.op < kb then []
    else (if r.wave < r.waves then r.firstScales r.wave b else match nxt with | some q => q.firstScales 0 b | none => []).map
      (fun x => (meScaleKey b x.1 0, true, x.2 + (r.op - kb) * 8, 8))
  ops ++ scs ++ nxts

/-- The scratchpad words of the operand cycle in hand on tile `t`. -/
def MeRun.words (r : MeRun) (nxt : Option MeRun) (t : Nat) : List Nat :=
  ((r.reads nxt false ++ r.reads nxt true).flatMap (fun x => spWords t x.2.2.1 x.2.2.2)).eraseDups

/-- Bytes put behind those that the table holds at a place, with the poison of their words. -/
def State.takeBytes (s : State) (t : Nat) (g : Tab (List (BitVec 8) × Bool)) (k a n : Nat) : Tab (List (BitVec 8) × Bool) :=
  Tab.upd (fun _ => ([], false)) g k (fun p => (p.1 ++ s.spRead t a n, p.2 || s.spPoisoned t a n))

/-- The operand cycle in hand taken in. -/
def State.takeCycle (s : State) (t : Nat) (r : MeRun) (nxt : Option MeRun) : MeRun :=
  (r.reads nxt false ++ r.reads nxt true).foldl (fun r x =>
    if x.2.1 then { r with ahead := s.takeBytes t r.ahead x.1 x.2.2.1 x.2.2.2 }
    else { r with got := s.takeBytes t r.got x.1 x.2.2.1 x.2.2.2 }) r

/-- One cycle of a hold by a bank: the later cycles of the running step, and with them a chained one's, shift (08 R306, R312). -/
def MeRun.slip (r : MeRun) (todo : List Nat) : MeRun :=
  if r.active then { r with todo := todo, start := r.start + 1, lastStart := r.lastStart + 1 }
  else if r.wave = 0 then { r with start := r.start + 1 } else r

/-- The first active run changed. -/
def Matrix.modActive (m : Matrix) (f : MeRun → MeRun) : Matrix :=
  { m with runs := m.runs.map (fun r => if r.active then f r else r) }

/-- The last operand cycle of a wave has passed at the end of cycle `now`: its panels are to enter the FPQ from 260 cycles on, or its roods
stay resident (08 R309, R315). -/
def Matrix.waveEnd (m : Matrix) (r : MeRun) (now : Nat) : Matrix :=
  let b := m.base r.st
  let ps := if r.st.keep then [] else r.wavePanels b (r.wave - 1)
  { m.modActive (fun _ => { r with
      active := false, op := 0, todo := [], got := [], poison := r.poison || (r.st.keep && !r.hit.isEmpty), hit := []
      waiting := r.waiting ++ ps.zipIdx.map (fun p => (now + 1 + 260 + p.2, p.1)) }) with
    usedAt := (r.roods (r.wave - 1)).foldl (fun u x => Tab.set (fun _ => 0) u (m.serve.getD x.1 31) (now + 1)) m.usedAt
    res := if r.st.keep then some (r.keepRoods b) else if r.wave = r.waves then none else m.res }

/-- The step chained behind the one whose last wave runs, before its first wave (08 R304, R312). -/
def Matrix.chained (m : Matrix) : Option MeRun :=
  match m.runs.getLast? with
  | some r => if r.wave = 0 ∧ 2 ≤ m.runs.length then some r else none
  | none => none

/-- The cycle that now ends in the matrix engine of tile `t`: with the drain held by the FPQ every stream is held; otherwise an operand cycle
is taken in when every word it reads has been served, and while a bank is asked for two words the streams are held, and with them every
later cycle of the step (08 R303, R305, R306, R316). The words that the cycle's reads take. -/
def State.meCycle (s : State) (t : Nat) : State × List Nat :=
  let m := s.mat t
  if m.held s.cyc then
    ((s.modMat t (fun m => { m with runs := shiftRuns false m.runs, fpqHold := satNat 32 (m.fpqHold + 1) })).count t 0x04
      ((m.runs.head?).bind (fun r => (s.ctx r.st.ctx).part)) 1, [])
  else match m.runs.find? (fun r => r.active) with
  | none => (s, [])
  | some r =>
    let part := (s.ctx r.st.ctx).part
    let g := grantWords [] (if r.todo = [] then r.words m.chained t else r.todo)
    if g.2 ≠ [] then
      ((s.modMat t (fun m => { m with runs := m.runs.map (fun r => r.slip g.2), conflict := satNat 32 (m.conflict + 1) })).count t 0x04
        part 1, g.1)
    else
      let r1 : MeRun := { s.takeCycle t r m.chained with op := r.op + 1, todo := [] }
      (((s.modMat t (fun m => if r1.op = r1.st.kc then m.waveEnd r1 s.cyc else m.modActive (fun _ => r1))).count t 0x03 part 1).spend 2
        (r.roods (r.wave - 1)).length, g.1)

/-- The scales of the first block of a step's first wave: those that the step before has read ahead for a chained one, otherwise what the
setup cycles read (08 R304, R312). -/
def State.setupScales (s : State) (t : Nat) (r : MeRun) : Tab (List (BitVec 8) × Bool) :=
  let ahead := match (s.mat t).runs.reverse with | _ :: q :: _ => q.ahead | _ => []
  [false, true].foldl (fun g b => (r.firstScales 0 b).foldl (fun g x =>
    let k := meScaleKey b x.1 0
    let p := Tab.get (fun _ => ([], false)) ahead k
    if p.1.length = 128 then Tab.put g k p else s.takeBytes t g k x.2 128) g) []

/-- A wave starts: a swap that is due happens, and its operand cycles begin; the scales of its first block have been read ahead, or in the
setup cycles where no wave comes before it (08 R303, R304, R312, R314, R333). -/
def execMeWaveStart (tile : Fin 16) (s : State) : Result :=
  let t := tile.val
  .next (
    match (s.mat t).runs.getLast? with
    | none => s
    | some r =>
      if r.waves ≤ r.wave ∨ s.cyc < r.start ∨ (s.mat t).held s.cyc = true ∨ (s.mat t).runs.any (fun r => r.active) = true then s
      else
        let e := r.st
        let s1 := if e.cont then s else s.takeOver t ((r.roods r.wave).map (fun x => x.1))
        let tw := max e.kc (r.pw r.wave)
        let first := if r.wave = 0 then s.setupScales t r else r.ahead
        s1.modMat t (fun m => m.modLast (fun r => { r with
          wave := r.wave + 1, lastStart := s.cyc, start := s.cyc + tw
          active := true, op := 0, todo := [], got := first, ahead := [], hit := [] })))

/-- An MMUL completes at its cycle E; MECFG takes effect at this boundary (08 R315, R332, R337). -/
def State.mmulDone (s : State) (t : Nat) (r : MeRun) (pois : Bool) : State :=
  let s1 := (s.modMat t (fun m => { m with runs := m.runs.drop 1, eprev := s.cyc })).takeUp t [rMECFG]
  let s2 := if pois then s1.notePoison r.st.ctx else s1
  s2.stepDone r.st.ctx r.st.step 1 0 r.st.tadv

/-- The oldest finished panel enters its context's share when there is room, and the last panel of the step completes it (08 R315, R318). -/
def execFpqPanelEntry (tile : Fin 16) (s : State) : Result :=
  let t := tile.val
  let m := s.mat t
  .next (
    match m.runs with
    | [] => s
    | r :: rest =>
      match r.waiting with
      | [] => s
      | (n, p) :: more =>
        if s.cyc < n ∨ s.cyc < r.due ∨ 16 ≤ (Tab.get (fun _ => []) m.fpq p.ctx).length then s
        else
          let r1 := { r with waiting := more, due := s.cyc + 1, poison := r.poison || p.poison }
          let s1 := s.modMat t (fun m => { m with
            runs := r1 :: rest, fpq := Tab.upd (fun _ => []) m.fpq p.ctx (fun l => l ++ [p]) })
          if p.last then s1.mmulDone t r1 r1.poison else s1)

/-- An MMUL with KEEP = 1 reaches E, Kc + 260 cycles after its wave started (08 R315). -/
def execMmulKeepCompletion (tile : Fin 16) (s : State) : Result :=
  let t := tile.val
  let m := s.mat t
  .next (
    match m.runs with
    | r :: _ =>
      if r.st.keep = true ∧ r.wave = r.waves ∧ r.active = false ∧ r.lastStart + r.st.kc + 260 ≤ s.cyc then
        s.mmulDone t r (match m.res with | some q => q.ctx == r.st.ctx % 4 && !q.poison.isEmpty | none => false)
      else s
    | [] => s)

/-- KEEPMAX passes while another context waits: the holder's roods are discarded (08 R326). -/
def execKeepmaxExpiry (tile : Fin 16) (s : State) : Result :=
  let t := tile.val
  let m := s.mat t
  .next (
    match m.res with
    | some r =>
      if m.runs = [] ∧ m.queue.any (fun e => e.op == 0 && e.ctx % 4 != r.ctx) = true then
        s.modMat t (fun m => { m with res := none, dropped := r.ctx :: m.dropped.filter (· != r.ctx) })
      else s
    | none => s)

/-- A PE of the slice that serves position `pos` finds a mismatch: its rood's panels of the wave are poisoned, the
mismatch recorded, and the free slice takes the position over at its next fresh rood; with none free the slice is
tested where it serves, or retired once its mismatches reach FTHR (08 R332, R333, R336). -/
def execPeMismatch (tile : Fin 16) (pos : Fin 20) (s : State) : Result :=
  let t := tile.val
  let m := s.mat t
  .next (
    match m.runs.find? (fun r => r.active) <|> m.runs.getLast? with
    | none => s
    | some r =>
      if r.wave = 0 ∨ m.serve.length ≤ pos.val ∨ ((r.roods (r.wave - 1)).any (fun x => x.1 == pos.val)) = false then s
      else
        let sl := m.serve.getD pos 0
        let older := (r.waiting.filter (fun w => w.2.lastw)).length - 1
        let mark (l : List (Nat × Panel)) : List (Nat × Panel) :=
          l.zipIdx.map (fun w =>
            if w.1.2.pos = pos.val ∧ older ≤ ((l.take w.2).filter (fun v => v.2.lastw)).length then (w.1.1, { w.1.2 with poison := true }) else w.1)
        let s0 := s.modMat t (fun m => { m with
          faults := satNat 8 (m.faults + 1), faultAt := Tab.set (fun _ => []) m.faultAt sl (s.cyc :: m.recent s.cyc sl) })
        let s1 := s0.modMat t (fun m =>
          if r.active then m.modActive (fun r => { r with hit := pos.val :: r.hit })
          else { m.modLast (fun r => { r with waiting := mark r.waiting, poison := r.poison || r.st.keep }) with
            res := if r.st.keep then m.res.map (fun q => { q with poison := (pos.val :: q.poison).eraseDups }) else m.res })
        let part := (s.ctx r.st.ctx).part
        let s2 := s1.bbox t 6 part r.st.ctx [(24, 1, sl), (25, 1, pos.val), (26, 1, 0), (27, 3, r.st.step)]
        if m.free.isSome then s2.modMat t (fun m => { m with swapPos := some pos.val })
        else if s2.worn t (s2.mat t) sl then s2.retireSlice t sl r.st.step part r.st.ctx
        else s2.modMat t (fun m => { m with testing := if m.testing = none then some sl else m.testing }))

/-- A slice test ends: a slice that passes becomes the free slice, or goes on serving where it still serves; one that
fails, or has had FTHR mismatches within the hour, is retired (08 R333, R334, R336). -/
def execSliceTestDone (tile : Fin 16) (pass : Bool) (s : State) : Result :=
  let t := tile.val
  let m := s.mat t
  .next (
    match m.testing with
    | none => s
    | some sl =>
      let s1 := s.modMat t (fun m => { m with testing := none })
      if pass = true ∧ s.worn t m sl = false then
        if m.serve.contains sl ∨ m.free.isSome = true then s1 else s1.modMat t (fun m => { m with free := some sl })
      else s1.retireSlice t sl 0 none 63)

/-- Every TESTINTV minutes the free slice is to take over the next position (08 R334). -/
def execSliceSwapTest (tile : Fin 16) (s : State) : Result :=
  let t := tile.val
  let m := s.mat t
  .next (
    if s.inForce t rMECFG 8 8 ≠ 0 ∧ m.free.isSome = true ∧ m.testing = none ∧ m.swapPos = none ∧ m.serve ≠ [] then
      s.modMat t (fun m => { m with swapPos := some m.nextSwap, nextSwap := (m.nextSwap + 1) % m.serve.length })
    else s)

/-- A slice idle for MECFG.IDLE is clock-gated; one that holds resident roods is not (08 R328; 17 R653). -/
def execSliceGate (tile : Fin 16) (slice : Fin 21) (s : State) : Result :=
  let t := tile.val
  let m := s.mat t
  let idle := s.inForce t rMECFG 0 8
  let holds := m.res.isSome && m.serve.contains slice.val
  .next (
    if m.ungated.contains slice.val = true ∧ idle ≠ 0 ∧ m.runs = [] ∧ holds = false ∧
        Tab.get (fun _ => 0) m.usedAt slice + idle * 1024 ≤ s.cyc then
      s.modMat t (fun m => { m with ungated := m.ungated.erase slice.val })
    else s)

/-- An admitted slice ungates; MWAKE steps complete once every serving slice has (08 R328, R329; 17 R657). -/
def execSliceUngate (tile : Fin 16) (slice : Fin 21) (s : State) : Result :=
  let t := tile.val
  .next (
    if (2, slice.val) ∈ (s.hub t).admitted then
      let s1 := s.modHub t (fun h => { h with admitted := h.admitted.erase (2, slice.val) })
      (s1.modMat t (fun m => { m with
        ungated := if m.ungated.contains slice.val then m.ungated else slice.val :: m.ungated
        usedAt := Tab.set (fun _ => 0) m.usedAt slice s.cyc, opened := Tab.set (fun _ => 0) m.opened slice s.cyc })).wakeDone t
    else s)

end Sys2Proof.Machine
end

