-- ==== Sys2Proof/Machine/VecOps.lean ====
section
/-! DEFINITION. The vector engine's arithmetic: stage operations on elements and panels, and the conversions of loads and
stores (chapter 9, R343 to R362). -/

namespace Sys2Proof.Machine

/-- A word of a panel. -/
abbrev W32 := BitVec 32

/-- The flags of R380 in the order of VEXC: INV. -/
def xINV : BitVec 7 := 1
/-- OVF. -/
def xOVF : BitVec 7 := 2
/-- UNF. -/
def xUNF : BitVec 7 := 4
/-- SATC. -/
def xSATC : BitVec 7 := 8
/-- NANC. -/
def xNANC : BitVec 7 := 16
/-- POIS. -/
def xPOIS : BitVec 7 := 32
/-- SATI. -/
def xSATI : BitVec 7 := 64

/-- `f` where the condition holds. -/
def when7 (c : Bool) (f : BitVec 7) : BitVec 7 := if c then f else 0

/-! ### Elements -/

/-- An FP32 code is a NaN. -/
def isNan (w : W32) : Bool := field w.toNat 23 8 == 255 && field w.toNat 0 23 != 0

/-- A NaN in its one code, any other value as it is (R351). -/
def canon (int : Bool) (w : W32) : W32 := if !int && isNan w then toF32 .nan else w

/-- An exact result rounded once, with INV, OVF and UNF (R351). -/
def round32 (nanIn : Bool) (v : Fl) : W32 × BitVec 7 :=
  let r := toF32 v
  let e := field r.toNat 23 8
  (r, match v with
    | .nan => when7 (!nanIn) xINV
    | .inf _ => 0
    | .fin _ m _ => when7 (e == 255) xOVF ||| when7 (m != 0 && e == 0) xUNF)

/-- Order of R352: −0 below +0. -/
def orderKey (w : W32) : Int :=
  let m : Int := field w.toNat 0 31
  if flag w.toNat 31 then -m - 1 else m

/-- Order of IEEE 754 comparison: −0 equals +0. -/
def compareKey (w : W32) : Int :=
  let m : Int := field w.toNat 0 31
  if flag w.toNat 31 then -m else m

/-- The smaller or larger of two values (R352). -/
def pick (int big : Bool) (a b : W32) : W32 :=
  if int then (if decide (a.toInt ≤ b.toInt) != big then a else b)
  else if isNan a || isNan b then toF32 .nan
  else if decide (orderKey a ≤ orderKey b) != big then a else b

/-- A predicate of CMP (R352). -/
def predicate (int : Bool) (fn : Nat) (a b : W32) : Bool :=
  if !int && (isNan a || isNan b) then fn == 1
  else
    let x := if int then a.toInt else compareKey a
    let y := if int then b.toInt else compareKey b
    match fn with
    | 0 => decide (x = y)
    | 1 => decide (x ≠ y)
    | 2 => decide (x < y)
    | 3 => decide (x ≤ y)
    | 4 => decide (y < x)
    | _ => decide (y ≤ x)

/-- A finite value rounded to a whole number: 0 nearest even, 1 toward −∞, 2 toward zero; the sign apart. -/
def wholeOf (mode : Nat) (neg : Bool) (m : Nat) (e : Int) : Nat :=
  if 0 ≤ e then m * 2 ^ e.toNat
  else
    let k := (-e).toNat
    if mode = 0 then shiftRne m k else if mode = 1 ∧ neg = true then (m + 2 ^ k - 1) / 2 ^ k else m / 2 ^ k

/-- A value limited to `lo` to `hi` after rounding to a whole number; NaN gives 0 (R345, R354). -/
def toWhole (mode : Nat) (lo hi : Int) (v : Fl) : Int × BitVec 7 :=
  match v with
  | .nan => (0, xNANC)
  | .inf neg => (if neg then lo else hi, xSATC)
  | .fin neg m e =>
    let x := sgn neg (wholeOf mode neg m e)
    let y := clampInt lo hi x
    (y, when7 (y != x) xSATC)

/-- CVT (R354). -/
def convert (fn : Nat) (a : W32) : W32 × BitVec 7 :=
  if fn = 2 then round32 false (flOfInt a.toInt 0)
  else
    let r := toWhole (if fn = 0 then 0 else 2) (-2147483648) 2147483647 (ofF32 a)
    (BitVec.ofInt 32 r.1, r.2)

/-- RNDI (R350, R354). -/
def roundInt (fn : Nat) (a : W32) : W32 × BitVec 7 :=
  match ofF32 a with
  | .fin neg m e => round32 false (.fin neg (wholeOf fn neg m e) 0)
  | v => (toF32 v, 0)

/-- EXPS (R355). -/
def expSplit (fn : Nat) (a : W32) : W32 × BitVec 7 :=
  match ofF32 a with
  | .nan => (toF32 .nan, 0)
  | .inf neg => (if fn = 0 then toF32 (.inf neg) else 0, 0)
  | .fin neg m e =>
    if m = 0 then (if fn = 0 then a else 0, 0)
    else
      let n := bitLen m - 1
      if fn = 0 then (toF32 (.fin neg m (-(n : Int))), 0) else (toF32 (flOfInt (e + n) 0), 0)

/-- SCLB (R356). -/
def scaleBy (fn : Nat) (a b : W32) : W32 × BitVec 7 :=
  let n : Option Int := match ofF32 b with
    | .nan => none
    | .inf neg => some (if neg then -300 else 300)
    | .fin neg m e => some (clampInt (-300) 300 (sgn neg (wholeOf 0 neg m e)))
  match n with
  | none => (toF32 .nan, 0)
  | some n =>
    let k := if fn % 2 = 1 then -n else n
    match ofF32 a with
    | .fin neg m e => round32 false (.fin neg m (e + k))
    | v => (toF32 v, 0)

/-- One element of an elementwise operation (R350 to R356). -/
def elemOp (op fn : Nat) (int : Bool) (a b c : W32) : W32 × BitVec 7 :=
  let x := ofF32 a
  let y := ofF32 b
  let nan2 := isNan a || isNan b
  match op with
  | 0x01 => if int then (a + b, 0) else round32 nan2 (x.add y)
  | 0x02 => if int then (a - b, 0) else round32 nan2 (x.add y.neg)
  | 0x03 => if int then (a * b, 0) else round32 nan2 (x.mul y)
  | 0x04 => round32 (nan2 || isNan c) ((x.mul y).add (ofF32 c))
  | 0x05 => round32 (nan2 || isNan c) ((ofF32 c).add (x.mul y).neg)
  | 0x06 => (pick int false a b, 0)
  | 0x07 => (pick int true a b, 0)
  | 0x0A => (a &&& b, 0)
  | 0x0B => (a ||| b, 0)
  | 0x0C => (a ^^^ b, 0)
  | 0x0D => (a <<< (b.toNat % 32), 0)
  | 0x0E => (a.sshiftRight (b.toNat % 32), 0)
  | 0x0F => (a >>> (b.toNat % 32), 0)
  | 0x10 => convert fn a
  | 0x11 => roundInt fn a
  | 0x12 => expSplit fn a
  | 0x13 => scaleBy fn a b
  | _ => (canon int a, 0)

/-! ### Panels: 1024 elements, element (r, c) at place 32 r + c -/

/-- A list cut into `n` pieces of 32. -/
def chunk32 {α : Type} : Nat → List α → List (List α)
  | 0, _ => []
  | n + 1, l => l.take 32 :: chunk32 n (l.drop 32)

/-- Columns of 32 rows. -/
def transpose32 {α : Type} (d : α) (rows : List (List α)) : List (List α) :=
  (List.range 32).map (fun c => rows.map (fun r => r.getD c d))

/-- A panel's rows, or its columns. -/
def groupsOf {α : Type} (d : α) (along : Nat) (l : List α) : List (List α) :=
  if along = 0 then chunk32 32 l else if along = 1 then transpose32 d (chunk32 32 l) else [l]

/-- The panel whose rows, or columns, are `gs`. -/
def ungroup {α : Type} (d : α) (along : Nat) (gs : List (List α)) : List α :=
  if along = 1 then (transpose32 d gs).flatten else gs.flatten

/-- The elements of `l` that `m` keeps. -/
def keepBy {α : Type} : List α → List Bool → List α
  | a :: l, b :: m => if b then a :: keepBy l m else keepBy l m
  | _, _ => []

/-- Every flag of a list of results. -/
def flagsOf (l : List (W32 × BitVec 7)) : BitVec 7 := l.foldl (fun f p => f ||| p.2) 0

/-- A lane drained under 06 R263, with the flags of R351 and R357. -/
def laneSum (int : Bool) (n : Lane) : W32 × BitVec 7 :=
  let r := n.drain int
  let e := field r.1.toNat 23 8
  (r.1,
    if int then when7 r.2 xSATC
    else when7 (!n.nan && n.pinf && n.ninf) xINV ||| when7 (!n.nan && !n.pinf && !n.ninf && e == 255) xOVF |||
      when7 (!n.nan && !n.pinf && !n.ninf && n.sum != 0 && e == 0) xUNF)

/-- The exact sum of elements, drained. -/
def sumOf (int : Bool) (l : List W32) : W32 × BitVec 7 := laneSum int (l.foldl (fun (n : Lane) v => n.add int v) {})

/-- What a maximum or minimum of nothing gives (R357). -/
def emptyPick (int big : Bool) : W32 :=
  if int then (if big then 0x80000000#32 else 0x7FFFFFFF#32) else if big then 0xFF800000#32 else 0x7F800000#32

/-- The reduction of elements by RSUM, RMAX or RMIN (R352, R357). -/
def reduceOf (op : Nat) (int : Bool) (l : List W32) : W32 × BitVec 7 :=
  if op = 0x14 then sumOf int l else (l.foldl (fun a v => pick int (op == 0x15) a v) (emptyPick int (op == 0x15)), 0)

/-- CMPR on one row, column or panel (R361). -/
def compress (int zero : Bool) (a : List W32) (m : List Bool) : List W32 :=
  let s := (keepBy a m).map (canon int)
  s ++ (a.drop s.length).map (fun v => if zero then 0 else v)

/-- EXPD on one row, column or panel: `rest` are the elements still to place (R362). -/
def expand (int zero : Bool) : List W32 → List W32 → List Bool → List W32
  | rest, _ :: a, true :: m => canon int (rest.headD 0) :: expand int zero rest.tail a m
  | rest, v :: a, false :: m => (if zero then 0 else v) :: expand int zero rest a m
  | _, _, _ => []

/-- `a` where the mask is 1, otherwise `b`. -/
def select : List Bool → List W32 → List W32 → List W32
  | m :: ms, a :: l, b :: r => (if m then a else b) :: select ms l r
  | _, _, _ => []

/-- An elementwise operation over the elements the mask keeps; the others take +0 or A (R358, R380). -/
def mapOp (op fn : Nat) (int zero : Bool) : List W32 → List W32 → List W32 → List Bool → List (W32 × BitVec 7)
  | a :: as, b :: bs, c :: cs, m :: ms =>
    (if m then elemOp op fn int a b c else (if zero then 0 else a, 0)) :: mapOp op fn int zero as bs cs ms
  | _, _, _, _ => []

/-- The new mask bits of a CMP (R359). -/
def maskOp (fn : Nat) (int zero : Bool) : List W32 → List W32 → List Bool → List Bool → List Bool
  | a :: as, b :: bs, m :: ms, o :: os => (if m then predicate int fn a b else if zero then false else o) :: maskOp fn int zero as bs ms os
  | _, _, _, _ => []

/-- The result of a stage with its flags: operation, FN, TYPE, ZERO, operands and mask (R350 to R362). -/
def panelOp (op fn : Nat) (int zero : Bool) (a b c : List W32) (m : List Bool) : List W32 × BitVec 7 :=
  if op = 0x09 then ((select m a b).map (canon int), 0)
  else if op = 0x17 then
    (ungroup 0 fn (((groupsOf 0 fn a).zip (groupsOf false fn m)).map (fun p => compress int zero p.1 p.2)), 0)
  else if op = 0x18 then
    (ungroup 0 fn (((groupsOf 0 fn a).zip (groupsOf false fn m)).map (fun p => expand int zero p.1 p.1 p.2)), 0)
  else if 0x14 ≤ op then
    let rs := ((groupsOf 0 fn a).zip (groupsOf false fn m)).map (fun p => reduceOf op int (keepBy p.1 p.2))
    let out := ungroup 0 fn (rs.map (fun r => List.replicate 32 r.1))
    (select m out (a.map (fun v => if zero then 0 else v)), flagsOf rs)
  else
    let rs := mapOp op fn int zero a b c m
    (rs.map (fun r => r.1), flagsOf rs)

/-- Latency of an operation (R350). -/
def latencyOf (op : Nat) : Nat := if 0x17 ≤ op then 8 else if 0x14 ≤ op then 6 else 4

/-! ### Loads and stores (R343 to R346) -/

/-- Bytes of 32 elements in a format, in thirty-seconds of a byte per element (R343). -/
def bytes32 (typ : Nat) : Nat := if typ ≤ 1 then 128 else if typ ≤ 3 then 64 else if typ ≤ 6 then 32 else 17

/-- An element of a scratchpad format as the chain takes it; `e` is its block's scale (R344). -/
def loadValue (typ raw e : Nat) : W32 × BitVec 7 :=
  let scaled (v : Fl) : W32 × BitVec 7 :=
    if e = 255 then (toF32 .nan, 0)
    else match v with
      | .fin neg m x =>
        let r := toF32 (.fin neg m (x + (e : Int) - 127))
        (r, when7 (field r.toNat 23 8 == 255) xOVF)
      | v => (toF32 v, 0)
  match typ with
  | 2 => (toF32 (bf16.decode raw), 0)
  | 3 => (toF32 (fp16.decode raw), 0)
  | 4 => (toF32 (e4m3.decode raw), 0)
  | 5 => (toF32 (e5m2.decode raw), 0)
  | 6 => (BitVec.ofInt 32 (signed 8 raw), 0)
  | 7 => scaled (e2m1 raw)
  | 8 => scaled (flOfInt (signed 4 raw) 0)
  | _ => (BitVec.ofNat 32 raw, 0)

/-- E2M1 as a format (05 R170). -/
def fp4 : Fmt := ⟨2, 1, 1, false⟩

/-- A value stored in FP8 or FP4: never an infinity, limited to the largest finite value (R345). -/
def storeNarrow (f : Fmt) (top nanCode : Nat) (nanFlag : BitVec 7) (v : Fl) : Nat × BitVec 7 :=
  match v with
  | .nan => (nanCode, nanFlag)
  | .inf neg => (f.signBit neg + top, xSATC)
  | .fin neg m e =>
    let c := if m = 0 then 0 else f.magnitude m e
    if top < c then (f.signBit neg + top, xSATC) else (f.signBit neg + c, 0)

/-- A value stored in BF16 or FP16 (R345). -/
def storeWide (f : Fmt) (v : Fl) : Nat × BitVec 7 :=
  match v with
  | .fin _ m e => (f.encode v, when7 (m != 0 && decide (f.maxCode < f.magnitude m e)) xOVF)
  | v => (f.encode v, 0)

/-- A chain value in a scratchpad format without block scales (R345). -/
def storeValue (typ : Nat) (int : Bool) (w : W32) : Nat × BitVec 7 :=
  match typ with
  | 2 => storeWide bf16 (ofF32 w)
  | 3 => storeWide fp16 (ofF32 w)
  | 4 => storeNarrow e4m3 126 0x7F 0 (ofF32 w)
  | 5 => storeNarrow e5m2 e5m2.maxCode 0x7F 0 (ofF32 w)
  | 6 =>
    let r := if int then (let y := clampInt (-128) 127 w.toInt; (y, when7 (y != w.toInt) xSATC)) else toWhole 0 (-128) 127 (ofF32 w)
    (wrapInt 8 r.1, r.2)
  | _ => (w.toNat, 0)

/-- m × 2^x ≤ q × 2^n. -/
def fitsIn (m : Nat) (x : Int) (q : Nat) (n : Int) : Bool :=
  if n ≤ x then decide (m * 2 ^ (x - n).toNat ≤ q) else decide (m ≤ q * 2 ^ (n - x).toNat)

/-- ⌈log₂(m × 2^x ÷ q)⌉ for m > 0 (R346). -/
def ceilLog (m : Nat) (x : Int) (q : Nat) : Int :=
  let n := x + bitLen m - bitLen q - 1
  if fitsIn m x q n then n else if fitsIn m x q (n + 1) then n + 1 else n + 2

/-- The magnitude an element counts with in amax: mantissa and exponent (R346). -/
def amaxTerm (w : W32) : Nat × Int :=
  match ofF32 w with
  | .nan => (0, 0)
  | .inf _ => (2 ^ 24 - 1, 104)
  | .fin _ m e => (m, e)

/-- The larger of two magnitudes. -/
def maxTerm (a b : Nat × Int) : Nat × Int :=
  let l := min a.2 b.2
  if a.1 * 2 ^ (a.2 - l).toNat < b.1 * 2 ^ (b.2 - l).toNat then b else a

/-- The scale byte of a block (R346). -/
def blockScale (typ : Nat) (ws : List W32) : Nat :=
  let a := ws.foldl (fun a w => maxTerm a (amaxTerm w)) (0, 0)
  if a.1 = 0 then 127 else (clampInt 0 254 (ceilLog a.1 a.2 (if typ = 7 then 6 else 7) + 127)).toNat

/-- An element of a 4-bit block under its scale (R345, R346). -/
def storeNibble (typ e : Nat) (w : W32) : Nat × BitVec 7 :=
  let v := match ofF32 w with | .fin neg m x => Fl.fin neg m (x + 127 - e) | v => v
  if typ = 7 then storeNarrow fp4 7 7 xNANC v
  else let r := toWhole 0 (-8) 7 v; (wrapInt 4 r.1, r.2)

end Sys2Proof.Machine
end

