-- ==== Sys2Proof/Machine/Vector.lean ====
section
/-! DEFINITION. The vector engine: chain steps, panels in flight, register files, loads, stores and reductions
(chapter 9). -/

namespace Sys2Proof.Machine

/-! ### Loads and stores -/

/-- Bytes by scratchpad address, with poison, written to tile `t`'s scratchpad word by word (10 R394). -/
def State.spSheet (s : State) (t : Nat) (b : Sheet) : State :=
  (sheetLines b).foldl (fun s l =>
    (maskedRuns (l.1 * 64) (lineBytes l.2.1) l.2.2.1.toNat).foldl (fun s r => s.spWrite t r.1 r.2 l.2.2.2) s) s

/-- Element `i` of an operand in tile `t`'s scratchpad: value, flags, poison (09 R340, R344). -/
def State.loadElem (s : State) (t : Nat) (o : Operand) (i : List Nat) : W32 × BitVec 7 × Bool :=
  let a := (o.addr i).toNat
  let n := o.bytes
  let raw := ofLe (s.spRead t a n)
  let w := if blocked o.typ then (if o.high i then raw / 16 else raw % 16) else raw
  let sa := (o.scale i).toNat
  let e := if blocked o.typ then (s.spByte (t * spBytes + sa)).toNat else 127
  let v := loadValue o.typ w e
  (v.1, v.2, s.spPoisoned t a n || (blocked o.typ && s.spPoisoned t sa 1))

/-- A loaded panel: elements, flags, poison, elements inside the tensor. -/
structure Loaded where
  vals : List W32
  exc : BitVec 7
  pois : Bool
  n : Nat
  deriving DecidableEq, Repr

/-- The panel (row, col) of an operand viewed as a matrix; elements outside it are +0 (09 R360; 10 R400). -/
def State.loadPanel (s : State) (t : Nat) (o : Operand) (row col : Nat) : Loaded :=
  let es := (List.range 1024).map (fun i =>
    let r := 32 * row + i / 32
    let c := 32 * col + i % 32
    if r < o.rows ∧ c < o.cols then some (s.loadElem t o (o.at2 r c)) else none)
  let got := es.filterMap id
  { vals := es.map (fun e => match e with | some v => v.1 | none => 0), exc := got.foldl (fun f v => f ||| v.2.1) 0
    pois := got.any (fun v => v.2.2), n := got.length }

/-- Values 32 k to 32 k + 31 of a side vector (09 R367); those beyond its end are +0. -/
def State.loadSide (s : State) (t : Nat) (o : Operand) (k : Nat) : Loaded :=
  let es := (List.range 32).map (fun i => if 32 * k + i < o.count then some (s.loadElem t o (o.index (32 * k + i))) else none)
  let got := es.filterMap id
  { vals := es.map (fun e => match e with | some v => v.1 | none => 0), exc := got.foldl (fun f v => f ||| v.2.1) 0
    pois := got.any (fun v => v.2.2), n := got.length }

/-- A place of the panel and the tensor row and column it is stored to. -/
abbrev Spots := List (Nat × Nat × Nat)

/-- A byte put on a sheet. -/
def Sheet.put (b : Sheet) (a v : Nat) (pois : Bool) : Sheet := Tab.put (Tab.erase b a) a (BitVec.ofNat 8 v, pois)

/-- `n` bytes of `v` put on a sheet from address `a` on. -/
def Sheet.putLe (b : Sheet) (a n v : Nat) (pois : Bool) : Sheet :=
  (List.range n).foldl (fun b i => b.put (a + i) (v / 256 ^ i) pois) b

/-- One 4-bit block stored: its scale, then its elements (09 R346). -/
def State.storeBlock (s : State) (t : Nat) (o : Operand) (out : List W32) (pois : Bool) (cells : Spots) (b : Sheet) : Sheet × BitVec 7 :=
  let e := blockScale o.typ (cells.map (fun c => out.getD c.1 0))
  let b1 := match cells with
    | c :: _ => b.put (o.scale (o.at2 c.2.1 c.2.2)).toNat e pois
    | [] => b
  cells.foldl (fun (p : Sheet × BitVec 7) c =>
    let i := o.at2 c.2.1 c.2.2
    let a := (o.addr i).toNat
    let v := storeNibble o.typ e (out.getD c.1 0)
    let old := match p.1.find? (fun x => x.1 == a) with | some x => x.2.1.toNat | none => (s.spByte (t * spBytes + a)).toNat
    (p.1.put a (if o.high i then old % 16 + 16 * v.1 else old / 16 * 16 + v.1) pois, p.2 ||| v.2)) (b1, 0)

/-- The elements at `cells` stored in the operand's format: the bytes and the flags raised (09 R345, R346, R380). -/
def State.storeCells (s : State) (t : Nat) (o : Operand) (int blkcol : Bool) (out : List W32) (pois : Bool) (cells : Spots) : Sheet × BitVec 7 :=
  if blocked o.typ then
    (List.range 32).foldl (fun (p : Sheet × BitVec 7) k =>
      let r := s.storeBlock t o out pois (cells.filter (fun c => (if blkcol then c.1 % 32 else c.1 / 32) == k)) p.1
      (r.1, p.2 ||| r.2)) ([], 0)
  else
    cells.foldl (fun (p : Sheet × BitVec 7) c =>
      let v := storeValue o.typ int (out.getD c.1 0)
      (p.1.putLe (o.addr (o.at2 c.2.1 c.2.2)).toNat o.bytes v.1 pois, p.2 ||| v.2)) ([], 0)

/-! ### Register files (09 R338 to R340, R374) -/

/-- Panel register Vn. -/
def VFile.reg (v : VFile) (n : Nat) : List W32 := Tab.getRun (fun _ => 0) v.v (1024 * n) 1024

/-- Mask register MKk; MK0 reads as all ones. -/
def VFile.maskOf (v : VFile) (k : Nat) : List Bool :=
  if k = 0 then List.replicate 1024 true else Tab.getRun (fun _ => false) v.mask (1024 * k) 1024

/-- A panel register written. -/
def VFile.setV (v : VFile) (n : Nat) (l : List W32) (pois : Bool) : VFile :=
  { v with v := Tab.setRun (fun _ => 0) v.v (1024 * n) l
           vpois := if pois then v.vpois ||| (1#32 <<< n) else v.vpois &&& ~~~(1#32 <<< n) }

/-- A mask register written; a write to MK0 is ignored. -/
def VFile.setM (v : VFile) (k : Nat) (l : List Bool) (pois : Bool) : VFile :=
  if k = 0 then v
  else { v with mask := Tab.setRun (fun _ => false) v.mask (1024 * k) l
                mpois := if pois then v.mpois ||| (1#8 <<< k) else v.mpois &&& ~~~(1#8 <<< k) }

/-- Flags raised. -/
def VFile.raise (v : VFile) (f : BitVec 7) : VFile := { v with exc := v.exc ||| f }

/-! ### Stages (09 R348, R349, R358 to R360, R374) -/

/-- Elements of the panel inside the tensor (09 R360). -/
def Flight.inside (f : Flight) : List Bool := (List.range 1024).map (fun i => decide (i / 32 < f.inR) && decide (i % 32 < f.inC))

/-- The same word in every element. -/
def fill (w : W32) : List W32 := List.replicate 1024 w

/-- A panel register's first column, or first row, in every column or row (09 R348). -/
def broadcast (bbc : Nat) (l : List W32) : List W32 :=
  if bbc = 1 then (chunk32 32 l).flatMap (fun r => List.replicate 32 (r.headD 0))
  else if bbc = 2 then (List.replicate 32 (l.take 32)).flatten
  else l

/-- An operand of a stage, with its poison (09 R349). -/
def VeStep.operand (e : VeStep) (vf : VFile) (f : Flight) (int : Bool) (bbc code : Nat) : List W32 × Bool :=
  if code < 32 then (broadcast bbc (vf.reg code), vf.vpois.getLsbD code)
  else if 64 ≤ code then (fill (BitVec.ofNat 32 (Tab.get (fun _ => 0) e.x (code - 64)).toNat), e.xpois.getLsbD (code - 64))
  else match code with
    | 32 => (f.res.getLast?).getD ([], false)
    | 33 => (f.ld0, f.ld0p)
    | 34 => (f.ld1, f.ld1p)
    | 35 =>
      if e.svax then ((List.replicate 32 (f.sv.take 32)).flatten, f.svp)
      else (f.sv.flatMap (fun v => List.replicate 32 v), f.svp)
    | 36 => ((List.range 1024).map (fun i => BitVec.ofNat 32 (32 * f.row + i / 32)), false)
    | 37 => ((List.range 1024).map (fun i => BitVec.ofNat 32 (32 * f.col + i % 32)), false)
    | 38 => (fill e.imm, false)
    | 39 => (fill 0, false)
    | 40 => (fill (if int then 1 else toF32 (.fin false 1 0)), false)
    | n => f.res.getD (n - 41) ([], false)

/-- The panel `f` passes the next stage at cycle `now`: registers and masks are read, and the results are on their way
(09 R340, R358, R359, R374). -/
def VeRun.stage (r : VeRun) (vf : VFile) (f : Flight) (now : Nat) : VeRun × VFile × Flight :=
  let w := r.st.stages.getD f.k 0
  let op := stOP w
  let int := stTYPE w == 1
  let u := opUses op
  let get (use : Bool) (i bbc : Nat) : List W32 × Bool := if use then r.st.operand vf f int bbc (stSrc w i) else (fill 0, false)
  let a := get u.1 0 0
  let b := get u.2.1 1 (stBBC w)
  let c := get u.2.2 2 0
  let m := (f.inside.zip (vf.maskOf (stMSK w))).map (fun p => p.1 && p.2)
  let bad := a.2 || b.2 || c.2 || (stMSK w != 0 && vf.mpois.getLsbD (stMSK w))
  let out := panelOp op (stFN w) int (stZERO w) a.1 b.1 c.1 m
  let lat := latencyOf op
  let newMask := maskOp (stFN w) int (stZERO w) a.1 b.1 m (vf.maskOf (stMDST w))
  let kept := !stZERO w && m.any (fun x => !x) && vf.mpois.getLsbD (stMDST w)
  ({ r with
      pendV := if stDST w < 32 then r.pendV ++ [(now + lat, stDST w, out.1, bad)] else r.pendV
      pendM := if op = 8 ∧ stMDST w ≠ 0 then r.pendM ++ [(now + lat, stMDST w, newMask, bad || kept)] else r.pendM },
   vf.raise (out.2 ||| when7 bad xPOIS),
   { f with k := f.k + 1, due := now + lat, res := f.res ++ [(out.1, bad)], sel := (m.filter id).length })

/-! ### Ends of panels (09 R345 to R347, R365, R368, R369) -/

/-- Lsrc + Σ stage latencies (09 R373). -/
def VeStep.chainLen (e : VeStep) : Nat :=
  [1, 2, 12].getD e.src 12 + (e.stages.map (fun w => latencyOf (stOP w))).sum

/-- Lsnk (09 R373). -/
def VeStep.sink (e : VeStep) : Nat := if e.stmode ≠ 0 then 10 else if e.red ≠ 0 then 2 else 0

/-- Row panels and column panels of a looped step (09 R365). -/
def VeStep.grid (e : VeStep) : Nat × Nat :=
  match e.ld0 with | some o => (ceilDiv o.rows 32, ceilDiv o.cols 32) | none => (1, 1)

/-- Panels of a step (09 R371). -/
def VeStep.panels (e : VeStep) : Nat := if e.loop then e.grid.1 * e.grid.2 else if e.src = 1 then e.np else 1

/-- The last stage's values are INT32. -/
def VeStep.outInt (e : VeStep) : Bool := stTYPE ((e.stages.getLast?).getD 0) == 1

/-- Where a panel's elements go in ST (09 R347, R360, R369). -/
def VeRun.cells (r : VeRun) (f : Flight) (o : Operand) : Spots :=
  if r.st.stmode = 2 then
    ((List.range f.sel).map (fun i => (i, (r.appended + i) / max 1 o.cols, (r.appended + i) % max 1 o.cols))).filter (fun c => decide (c.2.1 < o.rows))
  else
    let pr := if o.abs then 0 else f.row
    let pc := if o.abs then 0 else f.col
    ((List.range 1024).map (fun i => (i, 32 * pr + i / 32, 32 * pc + i % 32))).filter (fun c =>
      decide (c.1 / 32 < f.inR) && decide (c.1 % 32 < f.inC) && decide (c.2.1 < o.rows) && decide (c.2.2 < o.cols))

/-- The last stage's values folded into the reduction register (09 R368). -/
def VeRun.fold (r : VeRun) (f : Flight) (out : List W32) (bad : Bool) : VeRun :=
  let int := r.st.outInt
  let gs := ((groupsOf 0 (nat r.st.rax) out).zip (groupsOf false (nat r.st.rax) f.inside)).map (fun p => keepBy p.1 p.2)
  if r.st.red = 1 then
    { r with redAny := true, redPois := r.redPois || bad
             red := (gs.zipIdx).foldl (fun t g => Tab.upd (fun _ => {}) t g.2 (fun n => g.1.foldl (fun (n : Lane) v => n.add int v) n)) r.red }
  else
    let big := r.st.red == 2
    let old := if r.redMax = [] then List.replicate 32 (emptyPick int big) else r.redMax
    { r with redAny := true, redPois := r.redPois || bad
             redMax := (old.zip gs).map (fun p => p.2.foldl (fun a v => pick int big a v) p.1) }

/-- The lanes drained: 32 values and the flags of sums (09 R368, R380; 06 R263). -/
def VeRun.drainLanes (r : VeRun) : List (W32 × BitVec 7) :=
  let int := r.st.outInt
  if r.st.red = 1 then (List.range 32).map (fun i => laneSum int (Tab.get (fun _ => {}) r.red i))
  else (if r.redMax = [] then List.replicate 32 (emptyPick int (r.st.red == 2)) else r.redMax).map (fun v => (v, 0))

/-- A RED drain: the bytes for RD, and the register reset (09 R368). -/
def VeRun.drain (r : VeRun) (f : Flight) : Sheet × BitVec 7 × VeRun :=
  let key := if r.st.rax then f.col else f.row
  let vs := r.drainLanes
  let b : Sheet := match r.st.rd with
    | some o => (vs.zipIdx).foldl (fun (b : Sheet) v =>
        let n := 32 * key + v.2
        if n < o.count then b.putLe (o.addr (o.index n)).toNat o.bytes (storeValue o.typ r.st.outInt v.1.1).1 r.redPois else b) []
    | none => []
  let live := match r.st.rd with | some o => o.count - 32 * key | none => 0
  (b, flagsOf (vs.take live), { r with red := [], redMax := [], redAny := false, redPois := false, poison := r.poison || r.redPois })

/-- The panel `f` leaves the last stage at cycle `now`: its store and reduction (09 R345, R368, R369, R375, R381). -/
def State.vePanelEnd (s : State) (t : Nat) (r : VeRun) (f : Flight) (now : Nat) : VeRun × BitVec 7 :=
  let e := r.st
  let o := (f.res.getLast?).getD ([], false)
  let stored : VeRun × BitVec 7 := match e.st with
    | some d =>
      if e.stmode = 0 then (r, 0)
      else
        let w := s.storeCells t d e.outInt e.blkcol o.1 o.2 (r.cells f d)
        ({ r with pendS := if w.1 = [] then r.pendS else r.pendS ++ [(now + 10, w.1)], poison := r.poison || (o.2 && !w.1.isEmpty)
                  appended := if e.stmode = 2 then r.appended + f.sel else r.appended }, w.2)
    | none => (r, 0)
  if e.red = 0 then stored
  else
    let r1 := stored.1.fold f o.1 o.2
    if f.ends then
      let d := r1.drain f
      ({ d.2.2 with pendS := d.2.2.pendS ++ [(now + e.sink + 4, d.1)] }, stored.2 ||| d.2.1)
    else (r1, stored.2)

/-! ### Time (09 R374, R375) -/

/-- What of a run is due at cycle `now`: results that now stand, bytes that are now visible, then every panel that
reaches a stage or leaves the last one. -/
def State.veRunAdvance (s : State) (t : Nat) (r : VeRun) (now : Nat) : VeRun × State :=
  let c := r.st.ctx
  let vf0 := s.vfile c
  let vf1 := (r.pendV.filter (fun p => decide (p.1 ≤ now))).foldl (fun (v : VFile) p => v.setV p.2.1 p.2.2.1 p.2.2.2) vf0
  let vf2 := (r.pendM.filter (fun p => decide (p.1 ≤ now))).foldl (fun (v : VFile) p => v.setM p.2.1 p.2.2.1 p.2.2.2) vf1
  let s1 := (r.pendS.filter (fun p => decide (p.1 ≤ now))).foldl (fun s p => s.spSheet t p.2) s
  let r1 := { r with
    pendV := r.pendV.filter (fun p => decide (now < p.1)), pendM := r.pendM.filter (fun p => decide (now < p.1))
    pendS := r.pendS.filter (fun p => decide (now < p.1)), flights := [] }
  let q := r.flights.foldl (fun (q : VeRun × VFile) f =>
    if now < f.due then ({ q.1 with flights := q.1.flights ++ [f] }, q.2)
    else if f.k < r.st.stages.length then
      let x := q.1.stage q.2 f now
      ({ x.1 with flights := x.1.flights ++ [x.2.2] }, x.2.1)
    else
      let x := s1.vePanelEnd t q.1 f now
      (x.1, q.2.raise x.2)) (r1, vf2)
  (q.1, s1.modVfile c (fun _ => q.2))

/-- The vector engine of tile `t` at the present cycle. -/
def State.veAdvance (s : State) (t : Nat) : State :=
  match (s.vec t).runs with
  | [] => s
  | rs =>
    let q := rs.foldl (fun (q : List VeRun × State) r =>
      let x := q.2.veRunAdvance t r s.cyc
      (q.1 ++ [x.1], x.2)) ([], s)
    q.2.modVec t (fun v => { v with runs := q.1 })

/-- Every time of a run later than cycle `now` put off by one cycle (09 R376). -/
def VeRun.shift (r : VeRun) (now : Nat) : VeRun :=
  let up (n : Nat) : Nat := if now < n then n + 1 else n
  { r with
    nextEntry := up r.nextEntry, lastEntry := if r.panel = 0 then r.lastEntry else r.lastEntry + 1
    flights := r.flights.map (fun f => { f with due := up f.due }), pendV := r.pendV.map (fun p => (up p.1, p.2))
    pendM := r.pendM.map (fun p => (up p.1, p.2)), pendS := r.pendS.map (fun p => (up p.1, p.2)) }

/-- Scratchpad words a sheet of bytes writes on tile `t`. -/
def sheetWords (t : Nat) (b : Sheet) : List Nat := (b.map (fun e => spWordOf t e.1)).eraseDups

/-- The cycle that now ends in the vector engine of tile `t`, after the matrix engine has taken the words `taken`: the words of its loads and of
the stores that become visible are served, or its steps are held for the cycle (09 R376; 10 R386, R387). The words taken by now. -/
def State.veCycle (s : State) (t : Nat) (taken : List Nat) : State × List Nat :=
  let v := s.vec t
  if v.runs = [] then (s, taken)
  else
    let stores := v.runs.flatMap (fun r => (r.pendS.filter (fun p => p.1 == s.cyc + 1)).flatMap (fun p => sheetWords t p.2))
    let g := grantWords taken (if v.words = [] then v.loads.headD [] ++ stores else v.words)
    if g.2 = [] then (s.modVec t (fun v => { v with words := [], loads := v.loads.drop 1 }), g.1)
    else ((s.modVec t (fun v => { v with
      words := g.2, conflict := satNat 32 (v.conflict + 1), runs := v.runs.map (fun r => r.shift s.cyc) })).count t 0x06
        (v.runs.head?.bind (fun r => (s.ctx r.st.ctx).part)) 1, g.1)

/-! ### Commands -/

/-- VCHAIN: checked at decode and placed in the vector queue (09 R364; 11 R451). -/
def execVchain (ctx : Fin 64) (s : State) : Result :=
  let c := ctx.val
  .next (s.issue c 2 0 noWait (fun w i s1 =>
    (s1.modVec (tileOfCtx c) (fun v => { v with queue := v.queue ++ [{ s.veStep c w with step := i }] })).outstand c w i))

/-- The first step of each tile-local context's queue, in round-robin order (09 R378). -/
def Vector.heads (v : Vector) : List VeStep :=
  ((List.range 4).map (fun i => (v.rr + 1 + i) % 4)).filterMap (fun q => v.queue.find? (fun e => e.ctx % 4 == q))

/-- F of a step that stands at the queue head, if it may start; it reached the head at its entry or at F of its
context's previous step (09 R372; 11 R451). -/
def Vector.startCycle (v : Vector) (e : VeStep) (now : Nat) : Option Nat :=
  let a := max e.entry (Tab.get (fun _ => 0) v.headAt (e.ctx % 4))
  match v.runs.getLast? with
  | none => some (max now (max a v.eprev + 4))
  | some r => if r.st.ctx = e.ctx ∧ r.panel = r.st.panels then some (max now (max (a + 4) r.nextEntry)) else none

/-- A VCHAIN reaches the queue head and its F is fixed (09 R372, R378). -/
def execVeStepStart (tile : Fin 16) (s : State) : Result :=
  let t := tile.val
  let v := s.vec t
  .next (
    match v.heads with
    | [] => s
    | e :: _ =>
      if (s.hub t).engines.contains 1 = false ∨ s.cyc < e.entry then s
      else match v.startCycle e s.cyc with
        | none => s
        | some f => s.modVec t (fun v => { v with
            queue := v.queue.erase e, rr := e.ctx % 4, headAt := Tab.set (fun _ => 0) v.headAt (e.ctx % 4) f, runs := v.runs ++ [{ st := e, f := f, nextEntry := f }] }))

/-- The panel a step takes in: the oldest of its context's FPQ share, a loaded one, or none (09 R347, R365). -/
structure Intake where
  row : Nat
  col : Nat
  ld0 : Loaded
  sati : Bool
  deriving DecidableEq, Repr

/-- Nothing loaded. -/
def noLoad : Loaded := { vals := fill 0, exc := 0, pois := false, n := 0 }

/-- Position of the next panel of a step and its LD0 (09 R347, R365); none where the FPQ share is empty. -/
def State.intake (s : State) (t : Nat) (r : VeRun) : Option Intake :=
  let e := r.st
  let g := e.grid
  let row := if e.loop then (if e.order then r.panel % max 1 g.1 else r.panel / max 1 g.2) else 0
  let col := if e.loop then (if e.order then r.panel / max 1 g.1 else r.panel % max 1 g.2) else 0
  match e.src with
  | 0 => some { row := 0, col := 0, ld0 := noLoad, sati := false }
  | 1 =>
    match Tab.get (fun _ => []) (s.mat t).fpq (e.ctx % 4) with
    | [] => none
    | p :: _ => some { row := p.prow, col := p.pcol, ld0 := { vals := p.elems, exc := 0, pois := p.poison, n := 0 }, sati := p.sat }
  | _ => some { row := row, col := col, ld0 := match e.ld0 with | some o => s.loadPanel t o row col | none => noLoad, sati := false }

/-- Scratchpad words of the elements and scales at index tuples `l` of an operand on tile `t`. -/
def Operand.wordsAt (o : Operand) (t : Nat) (l : List (List Nat)) : List Nat :=
  (l.flatMap (fun i => spWords t (o.addr i).toNat o.bytes ++ (if blocked o.typ then [spWordOf t (o.scale i).toNat] else []))).eraseDups

/-- Scratchpad words of panel (row, col) of an operand. -/
def Operand.panelWords (o : Operand) (t row col : Nat) : List Nat :=
  o.wordsAt t (((List.range 1024).map (fun i => (32 * row + i / 32, 32 * col + i % 32))).filterMap (fun p =>
    if p.1 < o.rows ∧ p.2 < o.cols then some (o.at2 p.1 p.2) else none))

/-- Scratchpad words of values 32 k to 32 k + 31 of a side vector. -/
def Operand.sideWords (o : Operand) (t k : Nat) : List Nat :=
  o.wordsAt t ((List.range (min 32 (o.count - 32 * k))).map (fun i => o.index (32 * k + i)))

/-- The words of a panel spread evenly over its `n` port cycles, in the order of its elements. The spec does not say which byte is read in which
of them; the data of the panel is taken at its entry (DESIGN CHOICE, log entry 94). -/
def spread (n : Nat) (ws : List Nat) : List (List Nat) :=
  let k := ceilDiv ws.length (max 1 n)
  (List.range n).map (fun i => (ws.drop (i * k)).take k)

/-- The matrix engine holds an MMUL of the context, running or queued (09 R377). -/
def Matrix.hasWork (m : Matrix) (c : Nat) : Bool := m.queue.any (fun e => e.ctx == c && e.op == 0) || m.runs.any (fun r => r.st.ctx == c)

/-- A panel enters the chain (09 R371, R372, R377): popped, loaded or registers alone; its second load and side vector
are read with it, and its port cycles fix the next entry. -/
def execVePanelEntry (tile : Fin 16) (s0 : State) : Result :=
  let t := tile.val
  let s := s0.veAdvance t
  .next (
    match (s.vec t).runs.getLast? with
    | none => s
    | some r =>
      let e := r.st
      if e.panels ≤ r.panel ∨ s.cyc < r.nextEntry then s
      else match s.intake t r with
        | none => if (s.mat t).hasWork e.ctx then s else s.halt e.ctx 0x19 15 e.step
        | some i =>
          let ld1 := match e.ld1 with | some o => s.loadPanel t o (if o.abs then 0 else i.row) (if o.abs then 0 else i.col) | none => noLoad
          let key := if e.svax then i.col else i.row
          let fresh := e.sv.isSome && r.svKey != some key
          let part (o : Operand) : Nat := if o.abs then 0 else key
          let sv := match e.sv with
            | some o => if fresh then s.loadSide t o (part o) else { vals := r.sv, exc := 0, pois := r.svp, n := 0 }
            | none => noLoad
          let g := e.grid
          let ends := e.red != 0 && (if e.rax then i.row + 1 == g.1 else i.col + 1 == g.2)
          let tr := match e.ld0 with | some o => o.rows | none => 32
          let tc := match e.ld0 with | some o => o.cols | none => 32
          let f : Flight := {
            entry := s.cyc, due := s.cyc + [1, 2, 12].getD e.src 12, row := i.row, col := i.col
            inR := if e.loop then min 32 (tr - 32 * i.row) else 32, inC := if e.loop then min 32 (tc - 32 * i.col) else 32
            ld0 := i.ld0.vals, ld0p := i.ld0.pois, ld1 := ld1.vals, ld1p := ld1.pois, sv := sv.vals, svp := sv.pois, ends := ends }
          let moved (o : Option Operand) (n : Nat) : Nat := match o with | some d => n * bytes32 d.typ | none => 0
          let kept := if e.stmode = 0 then 0 else match e.st with
            | some d => if e.stmode = 2 then f.inR * f.inC else (r.cells f d).length
            | none => 0
          let n32 := moved e.ld0 i.ld0.n + moved e.ld1 ld1.n + moved e.st kept + (if fresh then 32 * 128 else 0) + (if ends then 32 * 128 else 0)
          let held := if e.src = 1 then s.cyc - r.nextEntry else 0
          let r1 := { r with
            panel := r.panel + 1, lastEntry := s.cyc, nextEntry := s.cyc + max 1 (ceilDiv n32 32768), flights := r.flights ++ [f]
            svKey := if e.sv.isSome then some key else r.svKey, sv := sv.vals, svp := sv.pois }
          let panelWords (o : Option Operand) (row col : Nat) : List Nat := match o with | some d => d.panelWords t row col | none => []
          let ws := ((if e.src = 2 then panelWords e.ld0 i.row i.col else []) ++
            (match e.ld1 with | some o => panelWords e.ld1 (if o.abs then 0 else i.row) (if o.abs then 0 else i.col) | none => []) ++
            (match e.sv with | some o => if fresh then o.sideWords t (part o) else [] | none => [])).eraseDups
          let s1 := s.modVec t (fun v => { v with
            runs := v.runs.dropLast ++ [r1], fpqHold := satNat 32 (v.fpqHold + held), loads := spread (max 1 (ceilDiv n32 32768)) ws })
          let s2 := if e.src = 1 then s1.modMat t (fun m => { m with fpq := Tab.upd (fun _ => []) m.fpq (e.ctx % 4) (fun l => l.drop 1) }) else s1
          let owner := (s.ctx e.ctx).part
          (((s2.modVfile e.ctx (fun v => v.raise (i.ld0.exc ||| ld1.exc ||| sv.exc ||| when7 i.sati xSATI))).count t 0x05 owner 1).count t 0x06 owner
            held).spend 3 (max 1 (ceilDiv n32 32768)))

/-- The completion cycle E of a step has come: every panel has left the chain and every byte is visible (09 R373). -/
def VeRun.ended (r : VeRun) (now : Nat) : Bool :=
  r.panel == r.st.panels && r.flights.isEmpty && r.pendS.isEmpty &&
  decide (r.lastEntry + r.st.chainLen + r.st.sink + (if r.st.red ≠ 0 then 4 else 0) ≤ now)

/-- A VCHAIN reaches E: its stores and drains are visible, compress-append's count is written and its tally advances
(09 R369, R373, R375, R381). -/
def execVeStepComplete (tile : Fin 16) (s0 : State) : Result :=
  let t := tile.val
  let s := s0.veAdvance t
  .next (
    match (s.vec t).runs.find? (fun r => r.ended s.cyc) with
    | none => s
    | some r =>
      let e := r.st
      let s1 := s.modVec t (fun v => { v with runs := v.runs.erase r, eprev := s.cyc })
      let s2 := if e.stmode = 2 then s1.spWrite t e.count (leBytes 4 r.appended) false else s1
      let s3 := if r.poison then s2.notePoison e.ctx else s2
      s3.stepDone e.ctx e.step 2 0 e.tadv)

end Sys2Proof.Machine
end

