-- ==== Sys2Proof/Machine/Tick.lean ====
section
/-! DEFINITION. One engine cycle: the scratchpad's banks granted to the engines of every tile, the panels of the vector engines moved on, and cell
errors (chapters 03, 08, 09 and 10). -/

namespace Sys2Proof.Machine

/-- The cycle that now ends on a ferry channel of tile `t`: the words it reads and writes in the cycle are served, at most eight each way, or it
waits a cycle for those that their banks refuse. In overlap mode the reads come first (10 R386, R410, R424, R428). What the step does in which of its
cycles the spec does not say (DESIGN CHOICE, log entry 94). -/
def State.ferryCycle (s : State) (t : Nat) (taken : List Nat) (ch : Nat) : State × List Nat :=
  let k := 16 * t + ch
  let f := s.fchan k
  if f.cur = none ∨ f.moved = false then (s, taken)
  else
    let want := if f.words = [] then f.rdWords.take 8 ++ (if f.ovlp = true ∧ f.rdWords ≠ [] then [] else f.wrWords.take 8) else f.words
    if want = [] then (s, taken)
    else
      let g := grantWords taken want
      let s1 := s.modFchan k (fun f =>
        let f1 := if f.words = [] then { f with
          rdWords := f.rdWords.drop 8, wrWords := if f.ovlp = true ∧ f.rdWords ≠ [] then f.wrWords else f.wrWords.drop 8 } else f
        if g.2 = [] then { f1 with words := [] }
        else { f1 with words := g.2, bankHold := satNat 32 (f1.bankHold + 1), need := f1.need + 1 })
      (s1, g.1)

/-- The sequencer's access of context `c` in the cycle that now ends: one word each sequencer cycle, in order, and one that its bank refuses until
it is served (11 R445). In which cycle an access asks for which word the spec does not say (DESIGN CHOICE, log entry 94). -/
def State.accessCycle (s : State) (taken : List Nat) (c : Nat) : State × List Nat :=
  match (s.ctx c).access with
  | some a =>
    match a.words with
    | [] => (s, taken)
    | w :: rest =>
      if a.late = false ∧ s.cyc % 2 = 1 then (s, taken)
      else
        let g := grantWords taken [w]
        (s.modCtx c (fun x => { x with
          access := some (if g.2 = [] then { a with words := rest, late := false } else { a with late := true, waits := a.waits + 1 }) }), g.1)
  | none => (s, taken)

/-- The requester of a scratchpad word: the matrix engine, the vector engine, a tile-local context's access, a ferry channel. -/
inductive Taker where
  | matrix
  | vector
  | access (q : Nat)
  | ferry (ch : Nat)
  deriving DecidableEq, Repr

/-- The scratchpad of tile `t` in the cycle that now ends: the matrix engine first, then the vector engine, the near-bank sequencer with the
accesses of the sequencer's contexts through its port, and the ferry channels in round robin; what a bank refuses waits (10 R386; 11 R445).
With it the words that each is served. -/
def State.bankShares (s : State) (t : Nat) : State × List (Taker × List Nat) :=
  let m := s.meCycle t
  let v := m.1.veCycle t m.2
  let h := v.1.hub t
  let n0 := grantWords v.2 h.nbWords
  let n := (List.range 4).foldl (fun (p : State × List Nat × List (Taker × List Nat)) q =>
    let a := p.1.accessCycle p.2.1 (4 * t + q)
    (a.1, a.2, p.2.2 ++ [(.access q, a.2.drop p.2.1.length)])) (v.1, n0.1, [(.matrix, m.2), (.vector, v.2.drop m.2.length)])
  let order := (List.range 16).map (fun i => (h.ferryFirst + 1 + i) % 16)
  let r := order.foldl (fun (p : State × List Nat × List (Taker × List Nat)) ch =>
    let f := p.1.ferryCycle t p.2.1 ch
    (f.1, f.2, p.2.2 ++ [(.ferry ch, f.2.drop p.2.1.length)])) n
  let first := r.2.2.findSome? (fun g => match g with | (.ferry ch, _ :: _) => some ch | _ => none)
  (if h.nbWords = [] ∧ first = none then r.1
   else r.1.modHub t (fun h => { h with nbWords := n0.2, ferryFirst := first.getD h.ferryFirst }), r.2.2)

/-- The scratchpad of tile `t` in the cycle that now ends (10 R386). -/
def State.bankCycle (s : State) (t : Nat) : State := (s.bankShares t).1

/-- Tiles with an engine at work. -/
def State.busyTiles (s : State) : List Nat :=
  (s.me.map Prod.fst ++ s.ve.map Prod.fst ++ s.fe.map (fun e : Nat × FeChan => e.1 / 16) ++
    (s.ctxs.filter (fun e : Nat × Ctx => e.2.access.isSome)).map (fun e : Nat × Ctx => e.1 / 4) ++
    (s.hubs.filter (fun e : Nat × Hub => e.2.nbWords != [])).map Prod.fst).eraseDups

/-- Cells that change in the cycle: the row and the bit of each are open values, none where the cycle brings no error (03 R86; 02 R31; log entry
88). -/
def State.upsetCells (s : State) : State :=
  (s.putRows ((Config.upset s.free).foldl (fun t e =>
    Tab.upd rowDefault t e.1 (fun m => { m with errs := toggleAll [e.2 % (68 * 272)] m.errs })) s.rows)).draw

/-- One engine cycle passes: the scratchpads serve the cycle that ends, every vector engine's panels move on, and cells of the stacks may change
(03 R86; log entry 88). -/
def State.tick (s : State) : State :=
  let s1 := s.busyTiles.foldl State.bankCycle s
  let s2 := s1.putCyc (s1.cyc + 1)
  let s3 := (s2.ve.map (fun e => e.1)).foldl (fun s t => s.veAdvance t) s2
  s3.upsetCells

end Sys2Proof.Machine
end

