-- ==== Sys2Proof/Machine/Order.lean ====
section
/-! DEFINITION. How a translation orders its dependences: the issue order of a native program, the tallies it counts and the distances that the
cycle models ask for (11 R467; 12 R481 to R483). -/

namespace Sys2Proof.Machine

/-! ### Issue order (11 R456 to R458) -/

/-- K and N of the REPLAY at index `a` of a program, none where the step is no REPLAY. A count held in a register stands as none. -/
def replayAt (w : Nat → Nat) (a : Nat) : Option (Nat × Option Nat) :=
  if stepEng (w a) = 0 ∧ stepOp (w a) = 2 then some (body (w a) 0 16, if szUse (w a) then none else some (body (w a) 16 32)) else none

/-- REPLAY steps whose bodies hold step `i`, innermost first. -/
def bodiesOf (w : Nat → Nat) (i : Nat) : List Nat :=
  ((List.range i).filter (fun r => match replayAt w r with | some b => decide (i ≤ r + b.1) | none => false)).reverse

/-- Repeats that a body with its count in a register is taken to make: as many as a distance can reach back (12 R481; log entry 101). -/
def openRepeats : Nat := 16

/-- The steps from index `a` to `b` in issue order, each with the repeats of the bodies around it, innermost first. -/
def unroll (w : Nat → Nat) : Nat → Nat → Nat → List (Nat × Nat) → List (Nat × List (Nat × Nat))
  | 0, _, _, _ => []
  | f + 1, a, b, path =>
    if b ≤ a then []
    else match replayAt w a with
      | some (k, n) =>
        (a, path) :: (List.range (n.getD openRepeats)).flatMap (fun j => unroll w f (a + 1) (a + 1 + k) ((a, j) :: path)) ++ unroll w f (a + 1 + k) b path
      | none => (a, path) :: unroll w f (a + 1) b path

/-- Fewest steps with an index from `a` to below `b` that issue, over every order that the replays allow. -/
def fewestIssues (w : Nat → Nat) : Nat → Nat → Nat → Nat
  | 0, _, _ => 0
  | f + 1, a, b =>
    if b ≤ a then 0
    else match replayAt w a with
      | some (k, n) =>
        if a + k < b then 1 + n.getD 0 * fewestIssues w f (a + 1) (a + 1 + k) + fewestIssues w f (a + 1 + k) b
        else 1 + fewestIssues w f (a + 1) b
      | none => 1 + fewestIssues w f (a + 1) b

/-! ### Dependences (12 R474, R475) -/

/-- A dependence: consumer and producer, PREV and KIND. -/
structure Dep where
  cons : Nat
  prod : Nat
  prev : Bool
  kind : Nat
  deriving DecidableEq, Repr

/-- The valid entries of portable step `i`. -/
def depsOf (entries : Nat → List Nat) (i : Nat) : List Dep :=
  ((entries i).filter (fun e => flag e 24)).map (fun e => { cons := i, prod := field e 0 24, prev := flag e 25, kind := field e 26 2 })

/-- Dependences on NOPs replaced by the NOPs' own, `k` times over. -/
def chainDeps (w : Nat → Nat) (entries : Nat → List Nat) : Nat → List Dep → List Dep
  | 0, ds => ds
  | k + 1, ds => chainDeps w entries k ((ds.flatMap (fun d =>
      if stepEng (w d.prod) = 0 ∧ stepOp (w d.prod) = 0 then
        (depsOf entries d.prod).map (fun e => { cons := d.cons, prod := e.prod, prev := d.prev || e.prev, kind := e.kind })
      else [d])).eraseDups)

/-- The dependences of a program of `n` steps on steps that do something (12 R475). -/
def programDeps (w : Nat → Nat) (entries : Nat → List Nat) (n : Nat) : List Dep :=
  ((List.range n).flatMap (fun i => chainDeps w entries n (depsOf entries i))).filter
    (fun d => !(stepEng (w d.prod) == 0 && stepOp (w d.prod) == 0))

/-! ### Tally or distance (11 R467; 12 R481) -/

/-- A step that R467 names by itself: NBPASS, a global step, a mailbox step, a ferry step with an operand outside its own tile's scratchpad, or one
with SZUSE (11 R467). `s` holds the descriptors. -/
def State.namedStep (s : State) (c w : Nat) : Bool :=
  let t := tileOfCtx c
  let e := s.feStep c w
  let away (o : Operand) : Bool := o.spTile t != some t
  stepEng w == 4 || stepEng w == 5 || (stepEng w == 0 && (stepOp w == 9 || stepOp w == 10)) || szUse w ||
  (stepEng w == 3 && (away e.src || away e.dst || (match e.idx with | some o => away o | none => false)))

/-- Body bits of an engine's operand fields, in body order (11 R448, R449). -/
def operandBits (eng : Nat) : List Nat :=
  match eng with | 1 => [56, 76] | 2 => [48, 68, 88, 108, 128] | 3 => [2, 22, 42] | 4 => [17, 37, 57] | 5 => [7, 27] | _ => []

/-- An address of the step comes from an address register, or its size from SZUSE (12 R481). -/
def byRegister (w : Nat) : Bool :=
  szUse w || (operandBits (stepEng w)).any (fun lo => let o := opField w lo; o.present && (o.abs || o.ause)) ||
  (stepEng w == 0 && (stepOp w == 3 || stepOp w == 4) && flag w (64 + 31)) || (stepEng w == 0 && stepOp w == 10 && flag w (64 + 34)) ||
  (stepEng w == 2 && body w 34 2 == 2)

/-- The engines that contexts share (12 R481). -/
def sharedEngine (w : Nat) : Bool := stepEng w == 1 || stepEng w == 2 || stepEng w == 3

/-- Issued steps from the producer to the consumer, the fewest that the replays allow; `place` gives native indices of the program `v`. -/
def Dep.back (d : Dep) (v : Nat → Nat) (n : Nat) (place : Nat → Nat) : Nat :=
  let p := place d.prod
  let i := place d.cons
  if d.prev then
    match bodiesOf v i with
    | r :: _ => 1 + fewestIssues v n (p + 1) (r + 1 + body (v r) 0 16) + fewestIssues v n (r + 1) i
    | [] => 0
  else 1 + fewestIssues v n (p + 1) i

/-- A dependence ordered through a tally whatever its distance (11 R467; 12 R481). -/
def State.needsTally (s : State) (c : Nat) (share : Bool) (w v : Nat → Nat) (n : Nat) (place : Nat → Nat) (d : Dep) : Bool :=
  s.namedStep c (w d.prod) || s.namedStep c (w d.cons) || (share && (sharedEngine (w d.prod) || sharedEngine (w d.cons))) ||
  byRegister (w d.prod) || decide (15 < d.back v n place)

/-! ### Tallies (12 R479, R483, R484) -/

/-- Waits and advances of one pair over a stretch of a program: advances before its first wait, WINC of its last wait with the advances after it,
and whether every wait's WINC is the number of advances up to the next. -/
structure Waits where
  lead : Nat := 0
  last : Option (Nat × Nat) := none
  ok : Bool := true
  deriving DecidableEq, Repr

/-- One stretch after another. -/
def Waits.andThen (x y : Waits) : Waits :=
  match x.last, y.last with
  | none, l => { lead := x.lead + y.lead, last := l, ok := x.ok && y.ok }
  | some (w, a), none => { lead := x.lead, last := some (w, a + y.lead), ok := x.ok && y.ok }
  | some (w, a), some l => { lead := x.lead, last := some l, ok := x.ok && y.ok && w == a + y.lead }

/-- A stretch repeated `n` times. -/
def Waits.times (x : Waits) (n : Nat) : Waits :=
  if n = 0 then {} else if n = 1 then x else match x.last with
    | none => { x with lead := n * x.lead }
    | some _ => x.andThen x

/-- One step: its wait when it issues, then its advance. -/
def waitsOf (w k : Nat) : Waits :=
  let a := nat (stepTally w == some k)
  if flag w 15 && field w 12 3 == k then { last := some (field w 16 4, a) } else { lead := a }

/-- What the steps from index `a` to below `b` may come to for pair `k`: one case for each count that a register may hold. -/
def waitsIn (v : Nat → Nat) (k : Nat) : Nat → Nat → Nat → List Waits
  | 0, _, _ => [{}]
  | f + 1, a, b =>
    if b ≤ a then [{}]
    else match replayAt v a with
      | some (len, n) =>
        let bodies : List Waits := waitsIn v k f (a + 1) (a + 1 + len)
        let runs : List Waits := match n with
          | some m => bodies.map (fun x : Waits => x.times m)
          | none => bodies.flatMap (fun x : Waits => [x.times 0, x.times 1, x.times 2])
        let after := waitsIn v k f (a + 1 + len) b
        (runs.flatMap (fun x => after.map (fun y => ((waitsOf (v a) k).andThen x).andThen y))).eraseDups
      | none => ((waitsIn v k f (a + 1) b).map (fun y => (waitsOf (v a) k).andThen y)).eraseDups

/-- The translator's pairs are counted as R483 says: the program begins with one NOP for each of its comparators, which waits on it with WINC 1, and
every wait's WINC is the number of advances up to the next wait. -/
def countsTallies (v : Nat → Nat) (n lo : Nat) : Bool :=
  let own := (List.range (8 - lo)).map (fun k => lo + k)
  own.all (fun k => (List.range own.length).any (fun i => decide (i < n) && field (v i) 0 20 == 0x8000 + k * 4096 + 0x10000 && !flag (v i) 44)) &&
  own.all (fun k => (waitsIn v k (n + 1) 0 n).all (fun x => x.ok))

/-- The producer advances a pair of the translator, and a wait on it stands between producer and consumer in every issue order (12 R481, R483). -/
def Dep.tallied (d : Dep) (v : Nat → Nat) (n lo : Nat) (place : Nat → Nat) : Bool :=
  let p := place d.prod
  let i := place d.cons
  match stepTally (v p) with
  | none => false
  | some k =>
    decide (lo ≤ k) && (List.range n).any (fun q =>
      flag (v q) 15 && field (v q) 12 3 == k &&
      (if d.prev then bodiesOf v q == bodiesOf v i && (decide (q ≤ i) || decide (p < q))
       else decide (p < q) && decide (q ≤ i) &&
         ((bodiesOf v q).all (fun r => (bodiesOf v i).contains r) || (bodiesOf v q).all (fun r => (bodiesOf v p).contains r))))

/-! ### The cycle models (12 R482)

A trial: the program's steps in issue order, on a tile whose engines are idle, with every wait met at once. -/

/-- One access of a trial: the step, what it reaches (0 scratchpad word, 1 panel register, 2 mask register, 3 panel of the FPQ), and the cycle of a
read, or the first cycle in which a write stands. -/
structure Touch where
  step : Nat
  res : Nat × Nat
  write : Bool
  cyc : Nat
  deriving DecidableEq, Repr

/-- A trial under way: the module, the accesses so far, and the panels that have entered the FPQ and left it. -/
structure Trial where
  st : State
  log : List Touch := []
  entered : Nat := 0
  popped : Nat := 0

/-- A step as a trial runs it: without wait and tally; a step that is not of the published models as a NOP (12 R482). -/
def State.trialWord (s : State) (c w : Nat) : Nat :=
  let runs := (stepEng w == 1 || stepEng w == 2 || (stepEng w == 3 && !s.namedStep c w) ||
    (stepEng w == 0 && (stepOp w == 3 || stepOp w == 4))) && (s.decodeHalt c w).isNone
  if runs then w / 2 ^ 45 * 2 ^ 45 + field w 20 20 * 2 ^ 20 + field w 0 12 else field w 20 20 * 2 ^ 20

/-- A command of a trial. -/
def Trial.run (x : Trial) (f : State → Result) : Trial :=
  match f x.st with | .next s => { x with st := s } | _ => x

/-- Accesses noted. -/
def Trial.note (x : Trial) (l : List Touch) : Trial := { x with log := l ++ x.log }

/-- A wave starts; the scales of a step's first block that have not been read ahead are read in the setup cycles (08 R304, R312). -/
def Trial.wave (x : Trial) (tile : Fin 16) : Trial :=
  let m := x.st.mat tile
  let y := x.run (execMeWaveStart tile)
  match m.runs.getLast? with
  | some r =>
    if r.wave = 0 ∧ ((y.st.mat tile).runs.getLast?.map (fun q => q.wave)) = some 1 then
      let ahead := match m.runs.reverse with | _ :: q :: _ => q.ahead | _ => []
      let words := [false, true].flatMap (fun b => ((r.firstScales 0 b).filter (fun p =>
        (Tab.get (fun _ => ([], false)) ahead (meScaleKey b p.1 0)).1.length != 128)).flatMap (fun p => spWords tile p.2 128))
      y.note (words.flatMap (fun w => [⟨r.st.step, (0, w), false, r.start - 12⟩, ⟨r.st.step, (0, w), false, r.start - 1⟩]))
    else y
  | none => y

/-- A panel enters the FPQ (08 R315). -/
def Trial.enter (x : Trial) (tile : Fin 16) : Trial :=
  let waiting (s : State) : Nat := ((s.mat tile).runs.map (fun r => r.waiting.length)).sum
  let y := x.run (execFpqPanelEntry tile)
  match (x.st.mat tile).runs with
  | r :: _ =>
    if waiting y.st < waiting x.st then { y.note [⟨r.st.step, (3, x.entered), true, x.st.cyc⟩] with entered := x.entered + 1 } else y
  | [] => y

/-- A chain completes, its count written (09 R369, R373). -/
def Trial.chainEnd (x : Trial) (tile : Fin 16) : Trial :=
  let y := x.run (execVeStepComplete tile)
  match (x.st.vec tile).runs.find? (fun r => r.ended x.st.cyc) with
  | some r => if r.st.stmode = 2 then y.note [⟨r.st.step, (0, spWordOf tile r.st.count), true, x.st.cyc⟩] else y
  | none => y

/-- A panel enters a chain; a pop takes its panel in the cycle that the model gives it, whether the panel is there or not (09 R371, R377). -/
def Trial.pop (x : Trial) (tile : Fin 16) : Trial :=
  let y := x.run (execVePanelEntry tile)
  match (x.st.vec tile).runs.getLast?, (y.st.vec tile).runs.getLast? with
  | some r, some q =>
    if r.st.src = 1 ∧ r.panel < q.panel then { y.note [⟨r.st.step, (3, x.popped), false, r.nextEntry⟩] with popped := x.popped + 1 } else y
  | _, _ => y

/-- The next step issues in a sequencer cycle. -/
def Trial.issue (x : Trial) (c : Fin 64) : Trial :=
  if x.st.cyc % 2 = 1 then x
  else match Tab.get (fun _ => none) (x.st.ctx c).cache (x.st.ctx c).next with
    | none => x
    | some (bw, _) =>
      let w := x.st.trialWord c bw.toNat
      let y := { x with st := x.st.modCtx c (fun k => { k with cache := Tab.put (Tab.erase k.cache k.next) k.next (some (BitVec.ofNat 256 w, false)) }) }
      y.run (match stepEng w, stepOp w with
        | 0, 3 => execXld c
        | 0, 4 => execXst c
        | 1, 0 => execMmul c
        | 1, _ => execMwake c
        | 2, _ => execVchain c
        | 3, 0 => execFcopy c
        | 3, 1 => execFxpose c
        | 3, 2 => execFgather c
        | 3, _ => execFscatter c
        | _, _ => execNop c)

/-- Scratchpad accesses of the cycle that ends, by the words that each requester is served. -/
def State.trialTouches (s : State) (t : Nat) (g : Taker × List Nat) : List Touch :=
  let n := s.cyc
  match g.1 with
  | .matrix =>
    let m := s.mat t
    match m.runs.find? (fun r => r.active) with
    | some r =>
      let own := r.words none t
      let nxt := (m.chained.map (fun q => q.st.step)).getD r.st.step
      g.2.map (fun w => ⟨if own.contains w then r.st.step else nxt, (0, w), false, n⟩)
    | none => []
  | .vector =>
    let v := s.vec t
    match (v.runs.filter (fun r => decide (0 < r.panel))).getLast? with
    | some r => ((v.loads.headD []).filter (fun w => g.2.contains w)).map (fun w => ⟨r.st.step, (0, w), false, n⟩)
    | none => []
  | .access q =>
    match (s.ctx (4 * t + q)).access with
    | some a => g.2.map (fun w => ⟨a.step, (0, w), a.kind == 1, n + nat (a.kind == 1)⟩)
    | none => []
  | .ferry ch =>
    let f := s.fchan (16 * t + ch)
    match f.cur with
    | some e => g.2.flatMap (fun w =>
        (if f.words ≠ [] ∨ f.rdWords.contains w = true then [⟨e.step, (0, w), false, n⟩] else []) ++
        (if f.words ≠ [] ∨ f.wrWords.contains w = true then [⟨e.step, (0, w), true, n + 1⟩] else []))
    | none => []

/-- What the chains of a tile reach at the present cycle: stored bytes and results that now stand, and the registers that stages read (09 R374,
R375). -/
def State.chainTouches (s : State) (t : Nat) : List Touch :=
  let n := s.cyc
  (s.vec t).runs.flatMap (fun r =>
    let i := r.st.step
    ((r.pendS.filter (fun p => decide (p.1 ≤ n))).flatMap (fun p => (sheetWords t p.2).map (fun w => ⟨i, (0, w), true, n⟩))) ++
    ((r.pendV.filter (fun p => decide (p.1 ≤ n))).map (fun p => ⟨i, (1, p.2.1), true, n⟩)) ++
    ((r.pendM.filter (fun p => decide (p.1 ≤ n))).map (fun p => ⟨i, (2, p.2.1), true, n⟩)) ++
    ((r.flights.filter (fun f => decide (f.due ≤ n) && decide (f.k < r.st.stages.length))).flatMap (fun f =>
      let w := r.st.stages.getD f.k 0
      let u := opUses (stOP w)
      let reg (use : Bool) (k : Nat) : List Touch := if use && decide (stSrc w k < 32) then [⟨i, (1, stSrc w k), false, n⟩] else []
      reg u.1 0 ++ reg u.2.1 1 ++ reg u.2.2 2 ++ (if stMSK w ≠ 0 then [⟨i, (2, stMSK w), false, n⟩] else []) ++
        (if stOP w = 8 ∧ stZERO w = false then [⟨i, (2, stMDST w), false, n⟩] else []))))

/-- One engine cycle of a trial: what is due happens, then the scratchpad serves the cycle and the chains move on. -/
def Trial.cycle (x : Trial) (tile : Fin 16) : Trial :=
  let c : Fin 64 := ⟨4 * tile.val, by omega⟩
  let a := ((x.run (execScratchpadAccessEnd c)).wave tile).enter tile
  let b := ((a.run (execMmulKeepCompletion tile)).chainEnd tile).pop tile
  let d := [0, 1, 2, 3].foldl (fun (x : Trial) ch => ((x.run (execFerryStepComplete tile ch)).run (execOverlapHoldGrant tile ch)).run (execFerryStepStart tile ch [] [])) b
  let e := ((d.run (execMeStepStart tile)).run (execVeStepStart tile)).issue c
  let g := e.st.bankShares tile
  let h := g.1.putCyc (g.1.cyc + 1)
  { e.note (g.2.flatMap (e.st.trialTouches tile) ++ h.chainTouches tile) with st := h.veAdvance tile }

/-- The trial's `n` steps have issued and completed, or its context has stopped. -/
def Trial.over (x : Trial) (tile : Fin 16) (n : Nat) : Bool :=
  let c := x.st.ctx (4 * tile)
  let m := x.st.mat tile
  let v := x.st.vec tile
  c.st != .running || (decide (n ≤ c.next) && c.access.isNone && m.queue.isEmpty && m.runs.isEmpty && v.queue.isEmpty && v.runs.isEmpty &&
    [0, 1, 2, 3].all (fun ch => let f := x.st.fchan (16 * tile + ch); f.cur.isNone && f.queue.isEmpty))

/-- Cycles of a trial until it is over. -/
def Trial.cycles (tile : Fin 16) (n : Nat) : Nat → Trial → Trial
  | 0, x => x
  | f + 1, x => if x.over tile n then x else Trial.cycles tile n f (x.cycle tile)

/-- `s` with tile `tile` alone, its engines idle and ungated, and `steps` the steps of its first context in issue order. -/
def State.trialState (s : State) (tile : Fin 16) (steps : List Nat) : State :=
  let m := s.mat tile
  { (s.modCtx (4 * tile) (fun x => { x with cache := steps.zipIdx.map (fun p => (p.2, some (BitVec.ofNat 256 p.1, false))) })) with
    cyc := 0, sp := [], spPois := [], ve := [], fe := [], me := [(tile.val, { serve := m.serve, ungated := m.serve })]
    hubs := [(tile.val, { engines := [0, 1, 2, 3] })] }

/-- The accesses of steps in issue order. -/
def State.trial (s : State) (tile : Fin 16) (steps : List Nat) : List Touch :=
  (Trial.cycles tile steps.length (2 ^ 40) { st := s.trialState tile steps }).log

/-- The instances of a dependence in the unrolled program: producer and consumer. -/
def Dep.pairs (d : Dep) (u : List (Nat × List (Nat × Nat))) (place : Nat → Nat) : List (Nat × Nat) :=
  let p := place d.prod
  ((u.zipIdx).filter (fun x => x.1.1 == place d.cons)).filterMap (fun x =>
    if d.prev then
      match x.1.2 with
      | (r, j + 1) :: rest => (u.findIdx? (fun y => y.1 == p && y.2 == (r, j) :: rest)).map (fun k => (k, x.2))
      | _ => none
    else (((u.zipIdx).take x.2).reverse.find? (fun y => y.1.1 == p)).map (fun y => (y.2, x.2)))

/-- The consumer's accesses follow the producer's, by KIND: a read no earlier than the write stands; a write that stands after the read, or after the
write; a panel popped no earlier than it enters (12 R474, R482; 08 R303; 09 R374, R375). Of a consumer whose addresses come from registers
(`free`) every access to the scratchpad may be to the bytes in question. -/
def follows (free : Bool) (kind : Nat) (log : List Touch) (p c : Nat) : Bool :=
  let of (i : Nat) (wr : Bool) : List Touch := log.filter (fun x => x.step == i && x.write == wr && (x.res.1 == 3) == (kind == 3))
  (of p (kind != 1)).all (fun a => (of c (kind == 1 || kind == 2)).all (fun b =>
    (a.res != b.res && !(free && a.res.1 == 0 && b.res.1 == 0)) || (if kind = 0 ∨ kind = 3 then decide (a.cyc ≤ b.cyc) else decide (a.cyc < b.cyc))))

/-- Distances alone order the dependences `ds` in the native program `v` of `n` steps (12 R482). -/
def State.inTime (s : State) (tile : Fin 16) (v : Nat → Nat) (n : Nat) (place : Nat → Nat) (ds : List Dep) : Bool :=
  let u := unroll v (n + 1) 0 n []
  let log := s.trial tile (u.map (fun e => v e.1))
  ds.all (fun d => (d.pairs u place).all (fun q => follows (byRegister (v (place d.cons))) d.kind log q.1 q.2))

/-- A step's word with another DREF, DIST and LATE. -/
def withDistance (w dref dist late : Nat) : Nat :=
  w - field w 20 20 * 2 ^ 20 - field w 52 1 * 2 ^ 52 + dref * 2 ^ 20 + dist * 2 ^ 24 + late * 2 ^ 52

/-- The next smaller distance: LATE first (12 R482). -/
def lessDistance (w : Nat) : Option Nat :=
  let dist := field w 24 16
  if flag w 52 then some (withDistance w (field w 20 4) dist 0)
  else if 0 < dist then some (withDistance w (field w 20 4) (dist - 1) 1)
  else none

/-- No distance orders the dependence: the greatest, counted from the producer, is too short (12 R481). -/
def State.tooFar (s : State) (tile : Fin 16) (v : Nat → Nat) (n : Nat) (place : Nat → Nat) (d : Dep) : Bool :=
  let i := place d.cons
  !s.inTime tile (fun q => if q = i then withDistance (v q) (d.back v n place % 16) 65535 1 else v q) n place [d]

/-- The dependences of a program that a translation orders through its tallies (12 R481). -/
def State.tallyDeps (s : State) (tile : Fin 16) (share : Bool) (w v : Nat → Nat) (n : Nat) (place : Nat → Nat) (ds : List Dep) : List Dep :=
  ds.filter (fun d => s.needsTally (4 * tile) share w v n place d || s.tooFar tile v n place d)

/-- The native program `v` orders every dependence of the portable program `w`: those of R481 through the translator's tallies, every other one by
DREF and DIST, each distance the smallest under which the cycle models keep the order (12 R481 to R483). -/
def State.ordered (s : State) (tile : Fin 16) (share : Bool) (lo : Nat) (w v : Nat → Nat) (n : Nat) (place : Nat → Nat) (ds : List Dep) : Bool :=
  let byTally := s.tallyDeps tile share w v n place ds
  let byDist := ds.filter (fun d => !byTally.contains d)
  countsTallies v n lo && byTally.all (fun d => d.tallied v n lo place) && s.inTime tile v n place byDist &&
  (List.range n).all (fun i => match lessDistance (v i) with
    | some x => !s.inTime tile (fun q => if q = i then x else v q) n place byDist
    | none => true)

/-- A translator with `xtal` pairs may find the program short of tallies: a producer that needs one advances a tally of the program's own, or they
are more than the pairs (12 R479, R481). How producers share the pairs the spec leaves to the translator (log entry 101). -/
def State.shortOfTallies (s : State) (tile : Fin 16) (share : Bool) (xtal : Nat) (w : Nat → Nat) (n : Nat) (ds : List Dep) : Bool :=
  let prods := ((s.tallyDeps tile share w w n id ds).map (fun d => d.prod)).eraseDups
  prods.any (fun p => flag (w p) 44) || decide (xtal < prods.length)

end Sys2Proof.Machine
end

