-- ==== Sys2Proof/Machine/Translate.lean ====
section
/-! DEFINITION. The translator of a tile: the checks of a portable image, the native image and the load report
(chapter 12, 07 R294, 10 R402, R406, 11 R459). -/

namespace Sys2Proof.Machine

/-- A refusal of the translator: TSTAT, SECTION, CASE, HCODE, INDEX (12 R504). -/
structure TFail where
  tstat : Nat
  sec : Nat := 0
  case_ : Nat := 0
  hcode : Nat := 0
  index : Nat := 0
  deriving DecidableEq, Repr

/-- The fields of a portable header (12 R472). -/
structure PHeader where
  share : Bool
  xtal : Nat
  maint : Bool
  nstep : Nat
  nchain : Nat
  ndesc : Nat
  nberth : Nat
  ncargo : Nat
  nsplit : Nat
  nown : Nat
  tile : Nat
  winmin : Nat
  deriving DecidableEq, Repr

/-- The header of a portable image (12 R472). -/
def pheader (l : List Byte) : PHeader :=
  let b6 := bytesAt l 6 1
  { share := flag b6 0, xtal := field b6 1 3, maint := flag b6 4, nstep := bytesAt l 8 4, nchain := bytesAt l 12 4
    ndesc := bytesAt l 16 4, nberth := bytesAt l 20 4, ncargo := bytesAt l 24 4, nsplit := bytesAt l 28 4, nown := bytesAt l 32 4
    tile := bytesAt l 36 1 % 16, winmin := bytesAt l 37 1 }

/-- Offset of section `k`: 1 steps, 2 chains, 3 descriptors, 4 berths, 5 cargoes, 6 split tables, 7 owner tables
(12 R471). -/
def PHeader.sec (h : PHeader) (k : Nat) : Nat :=
  let sizes := [48 * h.nstep, 64 * h.nchain, 128 * h.ndesc, 96 * h.nberth, 32 * h.ncargo, 256 * h.nsplit]
  64 + (sizes.take (k - 1)).sum

/-- Offsets and entry counts of the owner tables, from offset `o` on (12 R473). -/
def ownerTables (l : List Byte) : Nat → Nat → List (Nat × Nat)
  | 0, _ => []
  | n + 1, o => (o + 8, field (bytesAt l o 8) 0 17) :: ownerTables l n (o + 8 + 8 * field (bytesAt l o 8) 0 17)

/-- The owner tables of an image. -/
def PHeader.owners (h : PHeader) (l : List Byte) : List (Nat × Nat) := ownerTables l (min h.nown 4096) (h.sec 7)

/-- The image ends where its last section does (12 R471). -/
def PHeader.size (h : PHeader) (l : List Byte) : Nat :=
  h.sec 7 + ((h.owners l).map (fun t => 8 + 8 * t.2)).sum

/-- The header check: MAGIC, VERSION, LENGTH, CRC, counts and reserved fields (12 R472, TSTAT 0x01). -/
def badHeader (l : List Byte) : Bool :=
  let h := pheader l
  decide (l.length < 64) || bytesAt l 0 4 != 0x4650474E || bytesAt l 4 2 != 1 || field (bytesAt l 6 1) 5 3 != 0 ||
  bytesAt l 7 1 != 0 || field (bytesAt l 36 1) 4 4 != 0 || bytesAt l 38 10 != 0 || bytesAt l 60 4 != 0 || decide (4 < h.xtal) ||
  decide (h.nstep < 1) || decide (2 ^ 24 < h.nstep) || decide (4096 < h.ndesc) || decide (65535 < h.nberth) ||
  decide (65535 < h.ncargo) || decide (16 < h.nsplit) || decide (4096 < h.nown) ||
  bytesAt l 48 8 != l.length || h.size l != l.length ||
  (crc32c (l.take 56 ++ [0, 0, 0, 0] ++ l.drop 60)).toNat != bytesAt l 56 4

/-! ### Placement (07 R294) -/

/-- The lowest case a berth record meets (07 R294 cases 1 to 6, 12); `before` are the berths before it. -/
def State.berthCases (s : State) (part : Nat) (rec : List Byte) (before : List (List Byte)) : List Nat :=
  let b := berthOf rec
  let words := (List.range 16).map (fun t => bytesAt rec (4 * t) 4)
  let shares (o : Berth) : Bool := b.tiles.any (fun e => o.tiles.any (fun f => e.2.1 == f.2.1)) &&
    decide (b.h0 < o.h0 + o.h) && decide (o.h0 < b.h0 + b.h)
  (if b.tiles.any (fun e => (s.slot e.2.1).owner != some part || (s.slot e.2.1).cls != .bulk || decide (s.slotCount ≤ e.2.1)) then [1] else []) ++
  (if b.tiles.any (fun e => (s.slot e.2.1).phys / 512 != e.1) then [2] else []) ++
  (if b.tiles = [] ∨ b.h = 0 ∨ 128 < b.h0 + b.h then [3] else []) ++
  (if b.cell = 0 ∨ b.cell % blockCols b.wfmt ≠ 0 ∨ 64 * b.h < b.cell then [4] else []) ++
  (if 4 < b.wfmt then [5] else []) ++
  (if before.any (fun r => shares (berthOf r)) then [6] else []) ++
  (if words.any (fun w => field w 22 9 != 0) || flag (bytesAt rec 64 1) 7 || field (bytesAt rec 68 1) 3 5 != 0 ||
      bytesAt rec 69 3 != 0 || bytesAt rec 76 20 != 0 then [12] else [])

/-- Last position of a cargo (07 R275). -/
def Cargo.last (c : Cargo) : Nat :=
  if c.kind = 0 then c.origin + c.g * c.ns - 1
  else if c.kind = 1 then c.origin + (c.e - 1) * c.exstride + c.g * c.ns - 1
  else c.origin + c.g - 1

/-- The position runs a cargo occupies: first and count (07 R277, R280, R283). -/
def Cargo.runs (c : Cargo) : List (Nat × Nat) :=
  if c.kind = 0 then [(c.origin, c.g * c.ns)]
  else if c.kind = 1 then (List.range c.e).map (fun e => (c.origin + e * c.exstride, c.g * c.ns))
  else [(c.origin, c.g)]

/-- The cases a cargo record meets (07 R294 cases 7 to 13). -/
def cargoCases (berths : List (List Byte)) (rec : List Byte) (before : List (List Byte)) : List Nat :=
  let c := cargoOf rec
  match berths[c.berth]? with
  | none => [13]
  | some r =>
    let b := berthOf r
    let nc := 64 * b.h / max 1 b.cell
    let meets (o : Cargo) : Bool := o.berth == c.berth &&
      c.runs.any (fun a => o.runs.any (fun d => decide (a.1 < d.1 + d.2) && decide (d.1 < a.1 + a.2)))
    let fixed := if c.kind = 0 then c.e != 1 || c.exstride != 0
      else if c.kind = 1 then false else c.l != 1 || c.ns != 0 || c.e != 1 || c.exstride != 0
    (if b.domain * nc ≤ c.last then [7] else []) ++
    (if before.any (fun o => meets (cargoOf o)) then [8] else []) ++
    (if c.kind ≤ 1 ∧ (c.l = 0 ∨ c.ns ≠ ceilDiv c.k (max 1 c.l) ∨ 8192 < c.k) then [9] else []) ++
    (if c.kind = 1 ∧ c.exstride < c.g * c.ns then [10] else []) ++
    (if (c.kind = 2 ∨ c.kind = 3) ∧ (b.cell ≠ 64 ∨ b.wfmt < 2 ∨ 4 < b.wfmt ∨ c.origin % 48 ≠ 0 ∨ c.k = 0 ∨ 48 % max 1 c.k ≠ 0) then [11] else []) ++
    (if field (bytesAt rec 6 1) 3 5 != 0 || bytesAt rec 7 1 != 0 || bytesAt rec 30 2 != 0 || decide (3 < c.kind) || fixed then [12] else [])

/-! ### Descriptors, owner tables, split tables (10 R402, R404, R406; 11 R459) -/

/-- A descriptor breaks R402. -/
def badDescriptor (l : List Byte) : Bool :=
  let o := operandOf l 0 false
  let w0 := bytesAt l 0 8
  let ds := List.range 4
  let four := o.space == 4
  decide (10 ≤ o.typ) || decide (5 ≤ o.space) || field w0 55 1 != 0 || field w0 62 2 != 0 ||
  field (bytesAt l 64 8) 54 10 != 0 || bytesAt l 108 20 != 0 ||
  ds.any (fun d => o.size d == 0) || ds.any (fun d => decide (o.rank < d) && o.size d != 1) || decide (2 ^ 40 < o.count) ||
  ds.any (fun d => decide (o.stride d < -(2 ^ 47)) || decide (2 ^ 47 ≤ o.stride d)) ||
  (if blocked o.typ then
    decide (o.rank < o.packdim) || decide (o.rank < o.blkdim) || o.size o.packdim % 2 != 0 || o.size o.blkdim % 32 != 0
  else o.packdim != 0 || o.blkdim != 0 || o.scbase != 0 || ds.any (fun d => o.scstr.getD d 0 != 0)) ||
  (four && (decide (o.rank < o.distdim) || o.chunk == 0 || o.otlen + 1 != ceilDiv (o.size o.distdim) (max 1 o.chunk) ||
    (blocked o.typ && ((o.packdim == o.distdim && o.chunk % 2 != 0) || (o.blkdim == o.distdim && o.chunk % 32 != 0))))) ||
  (decide (o.space ≤ 1) && decide (spBytes ≤ o.base))

/-- Windows of partition `p` on tile `t`, in bytes (10 R388). -/
def State.windowsOf (s : State) (p t : Nat) : List (Nat × Nat) :=
  ((List.range 4).map (fun q => s.ctx (4 * t + q))).filterMap (fun x =>
    if x.part = some p ∧ x.st ≠ .unbound then some x.window else none)

/-- A valid owner-table entry of this module names a chunk outside the partition's windows and slots (10 R406). -/
def State.badOwner (s : State) (p : Nat) (e : Nat) : Bool :=
  field e 60 4 != 0 ||
  (flag e 59 && field e 52 6 == s.boot.modid &&
    (if flag e 58 then
      let sl := s.slot (field e 0 48 / slotBytes)
      decide (s.space ≤ field e 0 48) || sl.owner != some p || sl.cls == .devOnly
    else !rangeCovered 4 (s.windowsOf p (field e 48 4)) (field e 0 48 : Nat) (field e 0 48 : Nat)))

/-- A split table breaks R459. -/
def badSplit (l : List Byte) : Bool :=
  (List.range 64).any (fun i =>
    let v := bytesAt l (4 * i) 4
    decide (field v 16 7 < field v 8 7) || decide (64 < field v 16 7) || flag v 7 || flag v 15 || field v 23 9 != 0)

/-! ### Steps (12 R474 to R479; 11 R468) -/

/-- A dependence entry breaks R474 or R475: `body i` names the innermost replay body that holds step `i`. -/
def badDep (n i : Nat) (inner : Nat → Option Nat) (e : Nat) : Bool :=
  let p := field e 0 24
  field e 28 4 != 0 ||
  (if flag e 24 then
    decide (n ≤ p) || (if flag e 25 then (inner i).isNone || inner p != inner i else decide (i ≤ p))
  else e != 0)

/-- The replays open around step `i` of a program, innermost first: each REPLAY's index and K (11 R456). One whose count
is in a register stands with N 0. -/
def openReplays (w : Nat → Nat) (i : Nat) : List Replay :=
  ((List.range i).filter (fun r => stepEng (w r) == 0 && stepOp (w r) == 2 && decide (i ≤ r + body (w r) 0 16))).reverse.map
    (fun r => { atStep := r, k := body (w r) 0 16, n := if szUse (w r) then 0 else body (w r) 16 32 })

/-- A check of R468 that does not depend on register values at run time (12 R480 stage 3). -/
def State.staticCheck (s : State) (c w : Nat) (k : Check) : Bool :=
  let o := opField w ((operandBits (stepEng w)).getD (k.2 - 1) 0)
  let byReg := decide (1 ≤ k.2) && decide (k.2 ≤ 5) && o.present && (o.abs || o.ause)
  let elsewhere := decide (1 ≤ k.2) && decide (k.2 ≤ 5) && o.present && !o.abs && (s.descriptor c o).1.space == 1 &&
    !(s.hub (s.descriptor c o).1.tile).retired
  let anyReg := (operandBits (stepEng w)).any (fun lo => (opField w lo).present && ((opField w lo).abs || (opField w lo).ause))
  let cause := flag w (64 + 16)
  !(k.1 == 0x0A || k.1 == 0x11 || k.1 == 0x12) &&
  !((k.1 == 0x08 || k.1 == 0x09) && (byReg || elsewhere)) &&
  !(k == (0x08, 15) && (stepEng w == 2 || stepEng w == 4 || (stepEng w == 0 && (stepOp w == 3 || stepOp w == 4) && flag w (64 + 31)) ||
    (stepEng w == 0 && stepOp w == 10 && flag w (64 + 34)))) &&
  !((k.1 == 0x28 || k.1 == 0x2A) && cause && (stepEng w == 4 || (stepEng w == 0 && stepOp w == 8))) &&
  !(k == (0x20, 1) && anyReg && o.present && !o.abs && (s.feStep c w).src.space ≤ 2) &&
  !(k.1 == 0x05 && (szUse w || (s.ctx c).stack.any (fun r => r.n == 0)))

/-- Step `i` of the program as its tile would decode it, with no register read and the whole scratchpad as window: the
lowest reason of the static checks it fails. A CONT step is checked with its residency left open. -/
def State.stepFault (s : State) (c i : Nat) (w : Nat) (stack : List Replay) : Option Nat :=
  let s1 := s.modCtx c (fun x => { x with next := i, stack := stack })
  let w1 := if stepEng w = 1 ∧ stepOp w = 0 ∧ flag w (64 + 54) = true then w - 2 ^ (64 + 54) + (if flag w (64 + 55) then 0 else 2 ^ (64 + 55)) else w
  match (s1.decodeChecks c w1).filter (fun k => s1.staticCheck c w1 k) with
  | [] => none
  | k :: ks => some (ks.foldl (fun best e => if Check.before best e then best else e) k).1

/-- A step uses a form of the maintenance state (12 R477). -/
def maintStep (w : Nat) : Bool :=
  (stepEng w == 0 && stepOp w == 5) || (stepEng w == 2 && body w 148 32 != 0)

/-- A step names a pair the translator owns, from CM`lo` on (12 R479). -/
def namesOwned (w lo : Nat) : Bool :=
  (flag w 15 && decide (lo ≤ field w 12 3)) || (flag w 44 && (decide (lo ≤ field w 40 4) && decide (field w 40 4 < 8))) ||
  (stepEng w == 0 && stepOp w == 7 && (decide (lo ≤ body w 0 3) || (decide (lo ≤ body w 3 4) && decide (body w 3 4 < 8))))

/-- Cycles and read demand of an MMUL under an arrangement (08 R305, R310 to R315; 12 R478). -/
def arrCost (w nw arr : Nat) : Nat × Nat :=
  let fmt := body w 45 3
  let m := body w 0 16 + 1
  let n := body w 16 16 + 1
  let kc := kcOf fmt (32 * (body w 32 13 + 1))
  let ga := gaOf arr
  let gb := nw / max 1 ga
  let rm := ceilDiv m 128
  let rn := ceilDiv n 128
  let part (tot i : Nat) : Nat := ceilDiv (min 128 (tot - 128 * i)) 32
  let pw (a b : Nat) : Nat := if flag w (64 + 55) then 0 else
    (((List.range ga).filter (fun i => decide (a * ga + i < rm))).map (fun i =>
      (((List.range gb).filter (fun j => decide (b * gb + j < rn))).map (fun j => part m (a * ga + i) * part n (b * gb + j))).sum)).sum
  let waves := (List.range (ceilDiv rm ga)).flatMap (fun a => (List.range (ceilDiv rn gb)).map (fun b => pw a b))
  let rd := if fmt = 2 ∨ fmt = 4 then (136, 136) else if fmt = 3 ∨ fmt = 5 then (256, 136) else (128, 128)
  ((waves.dropLast.map (fun p => max kc p)).sum + kc + 260 + waves.getLast?.getD 0, ga * rd.1 + gb * rd.2)

/-- The arrangement the translator chooses for ARR = 7: fewest cycles, then least read demand, then lowest (12 R478). -/
def chooseArr (w nw : Nat) : Nat :=
  ((List.range 5).filter (fun a => decide (gaOf a ≤ nw))).foldl (fun best a =>
    let x := arrCost w nw a
    let y := arrCost w nw best
    if x.1 < y.1 ∨ (x.1 = y.1 ∧ x.2 < y.2) then a else best) 0

/-- A portable step's word with its arrangement chosen. -/
def withArr (w nw : Nat) : Nat :=
  if stepEng w = 1 ∧ stepOp w = 0 ∧ body w 50 3 = 7 then w - 7 * 2 ^ (64 + 50) + chooseArr w nw * 2 ^ (64 + 50) else w

/-- Native step `v` stands for portable step `w`: the same but for DREF, DIST and LATE, waits and advances of the
translator's pairs where the portable step has none, and the K of a REPLAY, which is `k` (12 R474, R479, R484). -/
def standsFor (w v lo k : Nat) : Bool :=
  let replay := stepEng w == 0 && stepOp w == 2
  field v 0 12 == field w 0 12 &&
  (if flag w 15 then field v 12 8 == field w 12 8 else !flag v 15 || decide (lo ≤ field v 12 3)) &&
  (if flag w 44 then field v 40 5 == field w 40 5 else !flag v 44 || (decide (lo ≤ field v 40 4) && decide (field v 40 4 < 8))) &&
  field v 45 7 == field w 45 7 && field v 53 11 == field w 53 11 &&
  (if replay then body v 0 16 == k && field v 80 176 == field w 80 176 else field v 64 192 == field w 64 192)

/-- Native index of portable step `p` under index map `m`. -/
def placeIn (m : List Nat) (p : Nat) : Nat := (m.findIdx? (fun e => e == p)).getD 0

/-- The steps of a native program are portable steps `ws` under index map `m`: the portable steps in their order,
NOPs inserted before them (12 R484, R485). -/
def isTranslation (ws : List Nat) (lo : Nat) (native : List (BitVec 256)) (m : List Nat) : Bool :=
  let place := placeIn m
  m.length == native.length && m.filter (fun e => decide (e < 2 ^ 31)) == List.range ws.length &&
  (native.zipIdx.all (fun e =>
    let v := e.1.toNat
    let p := m.getD e.2 0
    if p < 2 ^ 31 then
      let w := ws.getD p 0
      standsFor w v lo (place (p + body w 0 16) - e.2)
    else
      let next := ((m.drop (e.2 + 1)).find? (fun q => decide (q < 2 ^ 31))).getD ws.length
      p - 2 ^ 31 == next && field v 0 12 == 0 && field v 64 192 == 0 && field v 45 7 == 0 && field v 53 11 == 0 &&
      (if flag v 15 then decide (lo ≤ field v 12 3) else true) && (if flag v 44 then decide (lo ≤ field v 40 4) && decide (field v 40 4 < 8) else true)) &&
  native.all (fun b =>
    let v := b.toNat
    (flag v 15 || (field v 12 3 == 0 && field v 16 4 == 0)) && (flag v 44 || field v 40 4 == 0) && (field v 20 4 != 0 || field v 24 16 == 0)))

/-! ### The native image (11 R440; 12 R490, R491) -/

/-- Bytes of an image, in whole 4 KiB (12 R491). -/
def PHeader.native (h : PHeader) (l : List Byte) (nnat : Nat) : Nat :=
  ceilDiv (128 + 32 * nnat + 64 * h.nchain + 128 * h.ndesc + 96 * h.nberth + 32 * h.ncargo + 256 * h.nsplit +
    8 * ((h.owners l).map Prod.snd).sum) 4096 * 4096

/-- Offsets of the tables of a native image: steps, chains, descriptors, berths, cargoes, splits, owner entries. -/
def PHeader.layout (h : PHeader) (nnat : Nat) : List Nat :=
  let sizes := [32 * nnat, 64 * h.nchain, 128 * h.ndesc, 96 * h.nberth, 32 * h.ncargo, 256 * h.nsplit]
  (List.range 7).map (fun k => 128 + (sizes.take k).sum)

/-- A descriptor with the owner table it names, in SPACE 4, replaced by its service address (12 R473). -/
def fixDescriptor (tables : List Nat) (l : List Byte) : List Byte :=
  let o := operandOf l 0 false
  if o.space = 4 then putBytes l 8 6 (tables.getD o.otbase 0) else l

/-- The berth table with PBAND filled in from the slots' PHYS (12 R480 stage 4). -/
def State.fillBands (s : State) (l : List Byte) (n : Nat) : List Byte :=
  (List.range (24 * n)).flatMap (fun k =>
    let v := bytesAt l (4 * k) 4
    if k % 24 < 16 ∧ flag v 31 = true then leBytes 4 (v - field v 13 9 * 2 ^ 13 + (s.slot (field v 0 13)).phys % 512 * 2 ^ 13)
    else leBytes 4 v)

/-- The bytes of a native image at service address `at_` (11 R440). -/
def nativeImage (h : PHeader) (l : List Byte) (native : List (BitVec 256)) (berths : List Byte) (tag at_ : Nat) : List Byte :=
  let off := h.layout native.length
  let a (k : Nat) : Nat := at_ + off.getD k 0
  let own := h.owners l
  let starts := (List.range own.length).map (fun i => a 6 + 8 * ((own.take i).map Prod.snd).sum)
  let head := leBytes 8 (a 0) ++ leBytes 4 native.length ++ leBytes 4 h.nchain ++ leBytes 8 (a 1) ++ leBytes 8 (a 2) ++
    leBytes 4 h.ndesc ++ leBytes 4 h.ncargo ++ leBytes 8 (a 4) ++ leBytes 8 (a 3) ++ leBytes 4 h.nberth ++ leBytes 4 h.nsplit ++
    leBytes 8 (a 5) ++ leBytes 8 tag
  let sec (k n : Nat) : List Byte := (l.drop (h.sec k)).take n
  padTo 128 head ++ native.flatMap (fun v => leBytes 32 v.toNat) ++ sec 2 (64 * h.nchain) ++
    (List.range h.ndesc).flatMap (fun i => fixDescriptor starts (sec 3 (128 * h.ndesc) |>.drop (128 * i) |>.take 128)) ++
    berths ++ sec 5 (32 * h.ncargo) ++ sec 6 (256 * h.nsplit) ++ own.flatMap (fun t => (l.drop t.1).take (8 * t.2))

/-- Bytes written to device memory from `sa` on; the last line is filled with zeros. -/
def State.writeImage (s : State) (sa : Nat) (l : List Byte) : State :=
  (List.range (ceilDiv l.length 64)).foldl (fun s i =>
    (s.writeSa (sa + 64 * i) (lineOf (padTo 64 (l.drop (64 * i)))) (BitVec.allOnes 64) false 8 none).1) s

/-- Runs of a slot that images of its partition hold: offset and bytes. -/
def Part.imagesIn (q : Part) (slot : Nat) : List (Nat × Nat) :=
  (List.range 64).filterMap (fun i =>
    let h := q.handle i
    if h.size ≠ 0 ∧ h.slot = slot then some (h.off, 4096 * h.size) else none)

/-- The lowest offset of a slot at which `n` bytes are free. -/
def freeRun (used : List (Nat × Nat)) (n : Nat) : Option Nat :=
  let ends := 0 :: used.map (fun u => u.1 + u.2)
  (ends.filter (fun o => decide (o + n ≤ slotBytes) && used.all (fun u => decide (o + n ≤ u.1) || decide (u.1 + u.2 ≤ o)))).foldl
    (fun best o => match best with | some b => some (min b o) | none => some o) none

/-- Where an image of `n` bytes is placed: the device-private slot of the partition on the tile with the most free space,
otherwise on any tile (12 R490). -/
def State.placeImage (s : State) (p t n : Nat) : Option Nat :=
  let mine := (List.range s.slotCount).filter (fun i => (s.slot i).owner == some p && (s.slot i).cls == .devOnly && !(s.slot i).clearing)
  let free (i : Nat) : Nat := slotBytes - (((s.part p).imagesIn i).map Prod.snd).sum
  let best (l : List Nat) : Option Nat :=
    (l.filter (fun i => (freeRun ((s.part p).imagesIn i) n).isSome)).foldl (fun b i => match b with
      | some k => if free k < free i then some i else some k
      | none => some i) none
  (best (mine.filter (fun i => (s.slot i).phys / 512 == t)) <|> best mine).bind (fun i =>
    (freeRun ((s.part p).imagesIn i) n).map (fun o => i * slotBytes + o))

/-! ### The translation -/

/-- The first index below `n` at which `f` answers, with the answer. -/
def firstSome {α : Type} (n : Nat) (f : Nat → Option α) : Option (Nat × α) :=
  match (List.range n).find? (fun i => (f i).isSome) with
  | some i => (f i).map (fun a => (i, a))
  | none => none

/-- Records of `n` bytes of a section. -/
def recordsAt (l : List Byte) (o n k : Nat) : List (List Byte) := (List.range k).map (fun i => (l.drop (o + n * i)).take n)

/-- The checks of records: berths, cargoes, descriptors, owner tables, split tables (12 R480 stage 2). -/
def State.recordFault (s : State) (p : Nat) (h : PHeader) (l : List Byte) : Option TFail :=
  let bs := recordsAt l (h.sec 4) 96 h.nberth
  let cs := recordsAt l (h.sec 5) 32 h.ncargo
  let ds := recordsAt l (h.sec 3) 128 h.ndesc
  let own := h.owners l
  let low (xs : List Nat) : Option Nat := match xs with | [] => none | x :: r => some (r.foldl min x)
  let noTable (i : Nat) : Bool :=
    let o := operandOf (ds.getD i []) 0 false
    o.space == 4 && (match own[o.otbase]? with | some t => decide (t.2 < o.otlen + 1) | none => true)
  let badHead (i : Nat) : Bool := match own[i]? with
    | some t => field (bytesAt l (t.1 - 8) 8) 17 47 != 0 || decide (t.2 < 1) || decide (65536 < t.2)
    | none => false
  ((firstSome h.nberth (fun i => low (s.berthCases p (bs.getD i []) (bs.take i)))).map (fun e => { tstat := 4, sec := 4, case_ := e.2, index := e.1 }))
  <|> ((firstSome h.ncargo (fun i => low (cargoCases bs (cs.getD i []) (cs.take i)))).map (fun e => { tstat := 4, sec := 5, case_ := e.2, index := e.1 }))
  <|> ((firstSome h.ndesc (fun i => if badDescriptor (ds.getD i []) then some () else none)).map (fun e => { tstat := 5, sec := 3, index := e.1 }))
  <|> ((firstSome h.ndesc (fun i => if noTable i then some () else none)).map (fun e => { tstat := 6, sec := 3, index := e.1 }))
  <|> ((firstSome own.length (fun i => if badHead i then some 0 else
      (firstSome (own.getD i (0, 0)).2 (fun k => if s.badOwner p (bytesAt l ((own.getD i (0, 0)).1 + 8 * k) 8) then some () else none)).map Prod.fst)).map
        (fun e => { tstat := 6, sec := 7, index := e.2 }))
  <|> ((firstSome h.nsplit (fun i => if badSplit ((l.drop (h.sec 6 + 256 * i)).take 256) then some () else none)).map (fun e => { tstat := 7, sec := 6, index := e.1 }))

/-- The context in which the steps of a program are checked: the tile's, its tables at service address 0 of a copy of the
module that is then given up. -/
def State.checkState (s : State) (p : Nat) (h : PHeader) (l : List Byte) (ws : List Nat) (tag : Nat) : State :=
  let img := nativeImage h l (ws.map (BitVec.ofNat 256)) ((l.drop (h.sec 4)).take (96 * h.nberth)) tag 0
  let s1 := s.writeImage 0 img
  s1.modCtx (4 * h.tile) (fun _ => { st := .running, part := some p, man := manifestOf (img.take 128), winBase := 0, winSize := 128
                                     x := Tab.setRun (fun _ => 0) [] 0 (List.replicate 64 1) })

/-- Portable step `i` of an image, its arrangement chosen (12 R474, R478). -/
def State.portable (s : State) (l : List Byte) (i : Nat) : Nat :=
  withArr (bytesAt l (64 + 48 * i) 32) (s.mat (pheader l).tile).serve.length

/-- The four dependence entries of portable step `i` (12 R474). -/
def entriesOf (l : List Byte) (i : Nat) : List Nat := (List.range 4).map (fun k => bytesAt l (64 + 48 * i + 32 + 4 * k) 4)

/-- The checks of the steps (12 R474 to R479, R480 stage 3). -/
def State.programFault (s : State) (p : Nat) (h : PHeader) (l : List Byte) (tag : Nat) : Option TFail :=
  let ws := (List.range h.nstep).map (s.portable l)
  let w (i : Nat) : Nat := ws.getD i 0
  let lo := 8 - h.xtal
  let chainForm (i : Nat) : Bool := (List.range 8).any (fun k =>
    (stOperands (BitVec.ofNat 64 (bytesAt l (h.sec 2 + 64 * i + 8 * k) 8))).contains 38 &&
      bytesAt l (h.sec 2 + 64 * i + 8 * k) 8 != 0)
  let inner (i : Nat) : Option Nat := (openReplays w i).head?.map (fun r => r.atStep)
  let deps (i : Nat) : Bool := (entriesOf l i).any (badDep h.nstep i inner)
  let sc := s.checkState p h l ws tag
  if s.inService = true ∧ h.maint = true then some { tstat := 0x0A }
  else
    (if s.inService then (firstSome h.nchain (fun i => if chainForm i then some () else none)).map (fun e => { tstat := 0x0A, sec := 2, index := e.1 }) else none)
    <|> ((firstSome h.nstep (fun i =>
        if s.inService = true ∧ maintStep (w i) = true then some ((0x0A, 0) : Nat × Nat)
        else if namesOwned (w i) lo then some (8, 0)
        else if field (w i) 20 20 ≠ 0 ∨ flag (w i) 52 = true ∨ deps i = true then some (3, 0)
        else (sc.stepFault (4 * h.tile) i (w i) (openReplays w i)).map (fun k => (2, k)))).map
          (fun e => { tstat := e.2.1, sec := 1, hcode := e.2.2, index := e.1 }))

/-- The ordering of a load is one the translator may make: a native program that orders every dependence, or, with none, a program that is short
of tallies (12 R481 to R483). -/
def State.orderingOk (s : State) (j : LoadJob) (native : Option (List (BitVec 256))) (m : List Nat) : Bool :=
  let l := j.image
  let h := pheader l
  let n := h.nstep
  let tile : Fin 16 := Fin.ofNat 16 h.tile
  let w := s.portable l
  let sc := s.checkState j.part h l ((List.range n).map w) (s.tileTag h.tile)
  let ds := programDeps w (entriesOf l) n
  match native with
  | none => sc.shortOfTallies tile h.share h.xtal w n ds
  | some v => isTranslation ((List.range n).map w) (8 - h.xtal) v m &&
      sc.ordered tile h.share (8 - h.xtal) w (fun q => (v.getD q 0).toNat) v.length (placeIn m) ds

/-- What the checks of a load find, in the order of R480: the source, the header, the tile, the records, the steps, the
tallies (`native` none: the program needs more than XTAL gives), the length and the place. -/
def State.loadFault (s : State) (j : LoadJob) (native : Option (List (BitVec 256))) : Option TFail :=
  let l := j.image
  let h := pheader l
  if j.bad then some { tstat := 0x0C }
  else if badHeader l then some { tstat := 1 }
  else if (s.hub h.tile).retired = true ∨ h.winmin < 1 ∨ 128 < h.winmin then some { tstat := 0x0D }
  else (s.recordFault j.part h l) <|> (s.programFault j.part h l (s.tileTag h.tile)) <|>
    (match native with
     | none => some { tstat := 8 }
     | some v => if 2 ^ 24 < v.length then some { tstat := 9 }
       else if (s.placeImage j.part h.tile (h.native l v.length)).isNone then some { tstat := 0x0B } else none)

/-- The next queued load of tile `tile` is translated (12 R480, R487): `image` and `ok` are what reading its source in
host memory gave; `native` and `map` the native steps and index map that the translator made, none where the program
needs more tallies than it has. Native steps that are no translation of the program, or that do not order its dependences as R481 to R483 say,
are not taken; nor is none where the program is not short of tallies. -/
def execTranslate (tile : Fin 16) (image : List (BitVec 8)) (ok : Bool) (native : Option (List (BitVec 256))) (map : List (BitVec 32))
    (s : State) : Result :=
  let t := tile.val
  let x := s.tran t
  .next (
    match x.run, x.queue with
    | none, j :: rest =>
      let src := if j.sa then s.readBytes j.src j.len else (image, !ok)
      let j1 := { j with image := src.1, bad := src.2, at_ := s.cyc }
      let h := pheader j1.image
      let fault := s.loadFault j1 native
      let nat := native.getD []
      let m := map.map BitVec.toNat
      if (fault = none ∨ (fault = some { tstat := 8 } ∧ native = none)) ∧ s.orderingOk j1 native m = false then s
      else
        let j2 := match fault with
          | some f => { j1 with status := f.tstat, section_ := f.sec, case_ := f.case_, hcode := f.hcode, index := f.index }
          | none => { j1 with
              native := nat, nmap := m, tag0 := BitVec.ofNat 64 (s.tileTag h.tile)
              berths := s.fillBands ((j1.image.drop (h.sec 4)).take (96 * h.nberth)) h.nberth
              place := (s.placeImage j.part h.tile (h.native j1.image nat.length)).getD 0 }
        (s.modTran t (fun y => { y with run := some { j2 with tag0 := BitVec.ofNat 64 (s.tileTag h.tile) }, queue := rest })).releaseLoads t
    | _, _ => s)

/-- The load report (12 R504). -/
def LoadJob.reportBytes (j : LoadJob) (st nnat size : Nat) (us : Nat) : List Byte :=
  padTo 32 (leBytes 1 st ++ leBytes 1 (j.section_ + 16 * j.case_) ++ leBytes 1 j.hcode ++ leBytes 1 0 ++ leBytes 4 j.index ++
    leBytes 4 nnat ++ leBytes 4 size ++ leBytes 8 j.tag0.toNat ++ leBytes 4 (satNat 32 us))

/-- A translation ends: the tile's tag is checked again, the image written and the handle made ready, or left as it was;
the index map and the report are written before the completion is posted (12 R485, R493, R494, R500, R504). -/
def execTranslationEnd (tile : Fin 16) (s : State) : Result :=
  let t := tile.val
  .next (
    match (s.tran t).run with
    | none => s
    | some j =>
      let h := pheader j.image
      let st := if j.status = 0 ∧ BitVec.ofNat 64 (s.tileTag h.tile) ≠ j.tag0 then 0x0E else j.status
      let ok := st = 0
      let bytes := h.native j.image j.native.length
      let img := nativeImage h j.image j.native j.berths j.tag0.toNat j.place
      let s1 := s.modTran t (fun x => { x with
        run := none, done := if ok then satNat 32 (x.done + 1) else x.done, failed := if ok then x.failed else satNat 14 (x.failed + 1) })
      let bs := (recordsAt j.berths 0 96 h.nberth).flatMap (fun r => (berthOf r).tiles.map (fun e => (e.1, e.2.1)))
      let s2 := if ok then
          (s1.writeImage j.place img).modPart j.part (fun q => q.modHandle j.handle (fun _ =>
            { st := .ready, slot := j.place / slotBytes, off := j.place % slotBytes, size := bytes / 4096
              man := manifestOf (img.take 128), share := h.share, maint := h.maint, winmin := h.winmin, berths := bs }))
        else s1.modPart j.part (fun q => q.modHandle j.handle (fun e => if e.old then { e with st := .ready, old := false } else {}))
      let port := j.desc.page / 17
      let s3 := if ok then s2.hostWrite { port := port, part := some j.part, addr := j.map, kind := .report
                                          data := j.nmap.flatMap (fun e => leBytes 4 e) } else s2
      let s4 := s3.hostWrite { port := port, part := some j.part, addr := j.report, kind := .report
                               data := j.reportBytes st (if ok then j.native.length else 0) (if ok then bytes / 4096 else 0) ((s.cyc - j.at_) / 1600) }
      s4.complete j.desc (if ok then {} else { status := if st = 0x0C ∨ st = 0x0E then 4 else 3, detail := BitVec.ofNat 8 st }))

end Sys2Proof.Machine
end

