-- ==== Sys2Proof/Machine/Firmware.lean ====
section
/-! DEFINITION. Signed management-core images: staging, verification, hand-over, probation (18 R702 to R707). -/

namespace Sys2Proof.Machine

/-- The bank marked active. -/
def Firmware.bank (f : Firmware) : Nat := if f.active then 1 else 0

/-- The record of a hand-over step on tile `t` (19 R716). -/
def State.fwRecord (s : State) (t ver : Nat) : State :=
  s.bbox t 0x0B none 63 [(24, 1, s.fw.st), (25, 1, s.fw.result), (26, 2, ver)]

/-- The order of a hand-over: ascending tiles, the lead tile last (18 R704). -/
def State.handOrder (s : State) : List Nat :=
  (List.range 16).filter (fun t => !(s.hub t).retired && t != s.boot.lead) ++ [s.boot.lead]

/-- Every tile handed back to the old image (18 R705). -/
def State.fwRevert (s : State) : State :=
  let s1 := (s.putFw { s.fw with st := 0, result := 4, tile := 0 })
  s1.handOrder.foldl (fun s t => ((s.modHub t (fun h => { h with mcore := s.fw.runver })).fwRecord t s.fw.runver).releaseLoads t) s1

/-- What the boot ROM finds wrong with an image, as FWSTAT.RESULT: 1 signature, 2 security version, 3 stepping (18
R702). -/
def State.imageFault (s : State) (i : Image) : Nat :=
  if i.sigOk = false then 1 else if i.stepping ≠ Config.stepping then 3 else if i.svn < s.fw.svn then 2 else 0

/-- A new image written over the sideband, ready for VERIFY (18 R703). -/
def execSidebandImageWrite (i : Image) (s : State) : Result := 
  .next (if s.sideband then s.putFw { s.fw with sideband := some i } else s)

/-- VERIFY: the staged image checked, and copied into the inactive bank (18 R702, R703). `i` is what the boot ROM reads from
the unowned slot that FWSRC names, unless an image came over the sideband. -/
def execVerify (i : Image) (s : State) : Result :=
  let src := s.cfg rFWSRC 0 48 / slotBytes
  .next (
    if s.fw.st ≠ 0 ∨ s.boot.phase ≠ 15 then s
    else if s.fw.sideband = none ∧ ((s.slot src).owner ≠ none ∨ s.slotCount ≤ src) then s
    else
      let im := s.fw.sideband.getD i
      let e := s.imageFault im
      if e = 0 then
        (s.putFw { s.fw with
            banks := Tab.set (fun _ => {}) s.fw.banks (1 - s.fw.bank) im, staged := true, stgver := im.version, stgsvn := im.svn
            sideband := none, result := 0 })
      else (s.putFw { s.fw with result := e, sideband := none }))

/-- Version that a hand-over moves the tiles to: the inactive bank's. -/
def State.nextVersion (s : State) : Nat := (Tab.get (fun _ => ({} : Image)) s.fw.banks (1 - s.fw.bank)).version

/-- One more step of a hand-over: it begins at the first tile, or the tile in hand-over ends it and the next begins; after
the lead tile the new image is on probation (18 R704, R705). -/
def State.fwStep (s : State) : State :=
  match s.handOrder with
  | [] => s
  | t0 :: _ =>
    if s.fw.st = 0 then ((s.putFw { s.fw with st := 2, tile := t0, result := 0 })).fwRecord t0 s.nextVersion
    else if s.fw.st ≠ 2 then s
    else
      let t := s.fw.tile
      let rest := (s.handOrder.dropWhile (· != t)).drop 1
      let s1 := s.modHub t (fun h => { h with mcore := s.nextVersion })
      match rest with
      | u :: _ =>
        let s2 := (s1.putFw { s1.fw with tile := u })
        (s2.modHub t (fun h => { h with bb := h.bb.startCommit })).fwRecord u s.nextVersion
      | [] =>
        let s2 := (s1.putFw { s1.fw with st := 3 })
        s.handOrder.foldl State.releaseLoads ((s2.modHub t (fun h => { h with bb := h.bb.startCommit })).fwRecord t s.nextVersion)

/-- HANDOVER: tiles move in turn to the staged image, the lead tile last; each further command of a hand-over in progress
moves the next tile (18 R704). -/
def execHandover (s : State) : Result :=
  .next (if s.boot.phase = 15 ∧ (s.fw.st = 2 ∨ s.fw.staged = true) then s.fwStep else s)

/-- REVERT: a hand-over to the other image bank (18 R709 ACT 3). -/
def execRevert (s : State) : Result :=
  .next (if s.boot.phase = 15 ∧ (s.fw.banks.any (fun e => e.1 == 1 - s.fw.bank)) = true then s.fwStep else s)

/-- Probation ends: the new bank is active and the fuse counter may rise, or every tile is handed back (18 R705, R706). -/
def execProbationEnd (fail : Bool) (s : State) : Result :=
  .next (
    if s.fw.st ≠ 3 then s
    else if fail then s.fwRevert
    else
      let im := Tab.get (fun _ => ({} : Image)) s.fw.banks (1 - s.fw.bank)
      let s1 := (s.putFw { s.fw with
        active := !s.fw.active, staged := false, st := 0, runver := im.version, stgver := 0, svn := max s.fw.svn im.svn, tile := 0, result := 0 })
      s1.fwRecord s1.boot.lead im.version)

/-- A tile fails its self-check during probation: every tile is handed back (18 R705). -/
def execSelfCheckFailure (t : Fin 16) (s : State) : Result :=
  .next (if s.fw.st = 3 ∧ (s.hub t).retired = false then s.fwRevert else s)

end Sys2Proof.Machine
end

