-- ==== Sys2Proof/Machine/Global.lean ====
section
/-! DEFINITION. Global operations: barriers, broadcasts, reductions and snapshots over the contexts of a group, on one
module and across modules (16 R626 to R632). -/

namespace Sys2Proof.Machine

/-! ### Operands as bytes -/

/-- Bytes with the poison of their words. -/
abbrev Strip := List (BitVec 8 × Bool)

/-- A byte of tile `t`'s scratchpad with its poison (10 R395). -/
def State.spMarked (s : State) (t a : Nat) : BitVec 8 × Bool := (s.spByte (t * spBytes + a), s.spBad (t * 2 ^ 21 + a / 64))

/-- A 4-bit element of tile `t`'s scratchpad. -/
def State.spNibble (s : State) (t : Nat) (o : Operand) (i : List Nat) : Nat × Bool :=
  let b := s.spMarked t (o.addr i).toNat
  (if o.high i then b.1.toNat / 16 else b.1.toNat % 16, b.2)

/-- Index tuples of the elements at which a block of a blocked type begins. -/
def Operand.blockStarts (o : Operand) : List (List Nat) :=
  if blocked o.typ then ((List.range o.count).map o.index).filter (fun i => i.getD o.blkdim 0 % 32 == 0) else []

/-- The bytes of an operand on tile `t` in element order, two 4-bit elements to a byte, the scales after them. -/
def State.packOperand (s : State) (t : Nat) (o : Operand) : Strip :=
  if blocked o.typ then
    (List.range (o.count / 2)).map (fun n =>
      let a := s.spNibble t o (o.index (2 * n))
      let b := s.spNibble t o (o.index (2 * n + 1))
      (BitVec.ofNat 8 (a.1 + 16 * b.1), a.2 || b.2)) ++
    o.blockStarts.map (fun i => s.spMarked t (o.scale i).toNat)
  else
    (List.range o.count).flatMap (fun n => (List.range o.bytes).map (fun b => s.spMarked t ((o.addr (o.index n)).toNat + b)))

/-- A byte written with its poison. -/
def State.spPut (s : State) (t a : Nat) (b : BitVec 8 × Bool) : State := s.spWrite t a [b.1] b.2

/-- A 4-bit element written. -/
def State.spPutNibble (s : State) (t : Nat) (o : Operand) (i : List Nat) (v : Nat) (pois : Bool) : State :=
  let a := (o.addr i).toNat
  let old := (s.spByte (t * spBytes + a)).toNat
  s.spPut t a (BitVec.ofNat 8 (if o.high i then old % 16 + 16 * v else old / 16 * 16 + v), pois)

/-- The bytes of a strip laid into an operand on tile `t`. -/
def State.unpackOperand (s : State) (t : Nat) (o : Operand) (l : Strip) : State :=
  if blocked o.typ then
    let s1 := (List.range (o.count / 2)).foldl (fun s n =>
      let b := l.getD n (0, false)
      (s.spPutNibble t o (o.index (2 * n)) (b.1.toNat % 16) b.2).spPutNibble t o (o.index (2 * n + 1)) (b.1.toNat / 16) b.2) s
    o.blockStarts.zipIdx.foldl (fun s p => s.spPut t (o.scale p.1).toNat (l.getD (o.count / 2 + p.2) (0, false))) s1
  else
    (List.range o.count).foldl (fun s n =>
      let e := (l.drop (n * o.bytes)).take o.bytes
      s.spWrite t (o.addr (o.index n)).toNat (e.map (fun b => b.1)) (e.any (fun b => b.2))) s

/-! ### Reductions (R630) -/

/-- A strip as 32-bit elements with poison. -/
def strip32 : Strip → List (BitVec 32 × Bool)
  | a :: b :: c :: d :: l =>
    (BitVec.ofNat 32 (a.1.toNat + 2 ^ 8 * b.1.toNat + 2 ^ 16 * c.1.toNat + 2 ^ 24 * d.1.toNat), a.2 || b.2 || c.2 || d.2) :: strip32 l
  | _ => []

/-- 32-bit elements as a strip. -/
def strip8 (l : List (BitVec 32 × Bool)) : Strip := l.flatMap (fun e => (leBytes 4 e.1.toNat).map (fun b => (b, e.2)))

/-- Two elements combined under RTYPE: FP32 sum, INT32 sum, maximum, minimum; and whether an INT32 sum saturated (R630;
09 R351, R352). -/
def combine32 (rtype : Nat) (int : Bool) (a b : BitVec 32) : BitVec 32 × Bool :=
  if rtype = 0 then (addF32 a b, false)
  else if rtype = 1 then addI32 a b
  else (pick int (rtype == 2) a b, false)

/-- Two partials combined, element by element; whether any sum saturated. -/
def combineStrips (rtype : Nat) (int : Bool) (a b : Strip) : Strip × Bool :=
  let rs := ((strip32 a).zip (strip32 b)).map (fun p => (combine32 rtype int p.1.1 p.2.1, p.1.2 || p.2.2))
  (strip8 (rs.map (fun r => (r.1.1, r.2))), rs.any (fun r => r.1.2))

/-- Partials combined in order, the first one taken as it is. -/
def combineAll (rtype : Nat) (int : Bool) : List Strip → Strip × Bool
  | [] => ([], false)
  | p :: ps => ps.foldl (fun acc q => let r := combineStrips rtype int acc.1 q; (r.1, acc.2 || r.2)) (p, false)

/-! ### Ranks (R630) -/

/-- The members of an instance: every member module with SCOPE 1, this one alone with SCOPE 0. -/
def State.instMods (s : State) (g : Group) (i : Inst) : List Nat := if i.scope then g.members else [s.boot.modid]

/-- Rank of a module among the members. -/
def rankOf (ms : List Nat) (m : Nat) : Nat := (ms.filter (fun x => decide (x < m))).length

/-- The ranks whose partials rank `r` of `n` adds to its own, round by round: r + 2^k while r is a multiple of 2^(k+1). -/
def childRanks (n r : Nat) : List Nat :=
  (((List.range 6).takeWhile (fun k => r % 2 ^ (k + 1) == 0)).map (fun k => r + 2 ^ k)).filter (fun q => decide (q < n))

/-- The rank to which rank `r` > 0 gives its partial: r less its lowest set bit. -/
def parentRank (r : Nat) : Nat := r - 2 ^ (((List.range 6).find? (fun k => flag r k)).getD 0)

/-! ### An instance's progress (R628, R629) -/

/-- Instance `k` of group `g`. -/
def State.inst (s : State) (g k : Nat) : Option Inst := (s.group g).insts.find? (fun i => i.k == k)

/-- Instance `k` of group `g` changed. -/
def State.modInst (s : State) (g k : Nat) (f : Inst → Inst) : State :=
  s.modGroup g (fun x => { x with insts := x.insts.map (fun i => if i.k = k then f i else i) })

/-- Every local participant has issued the instance, and for GSNAP every step it issued earlier is complete (R629). -/
def State.localReady (s : State) (g : Group) (i : Inst) : Bool :=
  g.locals.all (fun c => i.ctxs.contains c && (i.op != 3 || match (s.ctx c).gq with | some q => q.before.isEmpty | none => true))

/-- SRC of a context's global step as bytes. -/
def State.srcStrip (s : State) (c : Nat) : Strip :=
  match (s.ctx c).gq.bind (fun q : GStep => q.src) with
  | some o => s.packOperand (tileOfCtx c) o
  | none => []

/-- The reduction is of INT32 elements: the TYPE of DST on the lowest local participant. -/
def State.instInt (s : State) (g : Group) : Bool :=
  match (g.locals.head?).bind (fun c => (s.ctx c).gq.bind (fun q : GStep => q.dst)) with
  | some o => o.typ == 1
  | none => false

/-- This module's contribution: SRC of its lowest context for a broadcast it is the root of, the sum of its contexts in
ascending number for a reduction (R629, R630). -/
def State.localPart (s : State) (g : Group) (i : Inst) : Strip × Bool :=
  if i.op = 1 then
    (if i.scope = false ∨ g.root = s.boot.modid then (match g.locals.head? with | some c => s.srcStrip c | none => []) else [], false)
  else if i.op = 2 then combineAll i.rtype (s.instInt g) (g.locals.map s.srcStrip)
  else ([], false)

/-- This module's part of an instance made, once it is ready, and told to the members that need it. -/
def State.makePart (s : State) (gk k : Nat) : State :=
  let g := s.group gk
  match s.inst gk k with
  | some i =>
    if i.sent = false ∧ s.localReady g i = true then
      let p := s.localPart g i
      let j := { i with sent := true, parts := i.parts ++ [(s.boot.modid, p.1)], sat := i.sat || p.2 }
      let s1 := s.modInst gk k (fun _ => j)
      if i.scope = false ∨ i.op = 2 then s1
      else if i.op = 1 then (if g.root = s.boot.modid then s1.sendAll gk j 0 true p.1 else s1)
      else s1.sendAll gk j 0 false []
    else s
  | none => s

/-- The result of an instance whose condition holds on this module, and a reduction's partial sent on (R629, R630). -/
def State.settle (s : State) (gk k : Nat) : State :=
  let g := s.group gk
  match s.inst gk k with
  | none => s
  | some i =>
    if i.sent = false ∨ i.result.isSome = true then s
    else
      let ms := s.instMods g i
      let part (m : Nat) : Option Strip := (i.parts.find? (fun p => p.1 == m)).map (fun p => p.2)
      let have_ (l : List Nat) : Bool := l.all (fun m => (part m).isSome)
      if i.op = 2 then
        let r := rankOf ms s.boot.modid
        let kids := (childRanks ms.length r).filterMap (fun q => ms[q]?)
        if have_ kids = false ∨ i.up = true then s
        else
          let t := combineAll i.rtype (s.instInt g) ((s.boot.modid :: kids).filterMap part)
          let j := { i with up := true, sat := i.sat || t.2 }
          if r = 0 then
            let s1 := s.modInst gk k (fun _ => { j with result := some t.1 })
            if i.scope then s1.sendAll gk j 0 true t.1 else s1
          else (s.modInst gk k (fun _ => j)).sendPart gk j (ms.getD (parentRank r) 0) 0 false t.1
      else if i.op = 1 then
        (if i.scope = false ∨ g.root = s.boot.modid then s.modInst gk k (fun i => { i with result := part s.boot.modid }) else s)
      else if have_ ms then s.modInst gk k (fun i => { i with result := some [] }) else s

/-- An instance moved on as far as it goes. -/
def State.advanceInst (s : State) (gk k : Nat) : State := (s.makePart gk k).settle gk k

/-- Every context of group `g` on this module that runs halts with 0x30; instance `k` never completes (R628, R631). -/
def State.failInst (s : State) (g k : Nat) : State :=
  let s1 := s.modGroup g (fun x => { x with failed := k :: x.failed, insts := x.insts.filter (fun i => i.k != k) })
  State.haltMany 4096 ((s1.group g).locals.map (fun c => (c, 0x30, 15, (s1.ctx c).globalStep))) s1

/-! ### The steps (R627 to R629) -/

/-- Bytes that a global step's operands count (R628). -/
def GStep.bytes (q : GStep) : Nat := if q.op = 1 ∨ q.op = 2 then (match q.dst with | some o => o.dataBytes | none => 0) else 0

/-- A global step that the global unit turns away: the entry, the owner, the context's bit, the operands (R627, R629). -/
def State.globalBad (s : State) (c : Nat) (q : GStep) : Bool :=
  let g := s.group q.group
  let src := q.src.any (fun o : Operand => o.space == 0 && decide (o.dataBytes ≤ 0x100000))
  let dst := q.dst.any (fun o : Operand => o.space == 0 && decide (o.dataBytes ≤ 0x100000))
  let same := match q.src, q.dst with | some a, some b => a.dataBytes == b.dataBytes | _, _ => true
  let gives := q.op == 2 || ((!q.scope || g.root == s.boot.modid) && g.locals.head? == some c)
  let types := match q.src, q.dst with
    | some a, some b => a.typ == b.typ && decide (a.typ ≤ 1) && (decide (2 ≤ q.rtype) || a.typ == q.rtype)
    | _, _ => false
  !g.valid || some g.owner != (s.ctx c).part || !flag g.ctxs.toNat c ||
  ((q.op == 1 || q.op == 2) && (!dst || !same || (gives && !src) || (q.op == 2 && !types)))

/-- The global step a word gives (11 R449). -/
def State.globalStep (s : State) (c w i : Nat) : GStep :=
  let op (lo : Nat) : Option Operand := if (opField w lo).present then some (s.descriptor c (opField w lo)).1 else none
  let g := body w 0 6
  { op := stepOp w, group := g, scope := flag w 70, src := op 7, dst := op 27, rtype := body w 47 2, step := i, tadv := stepTally w
    before := (s.ctx c).outst, inst := Tab.get (fun _ => 0) (s.ctx c).ginst g, issued := s.cyc, entry := s.cyc + 4 + nat (flag w 52) }

/-- A context joins the instance its global step belongs to, which begins with it where it is the first; a step that
differs from the instance, or comes late to one that failed, halts (R627, R628, R631). -/
def State.joinGlobal (s : State) (c : Nat) (q : GStep) : State :=
  let s1 := s.modCtx c (fun x => { x with gq := some q, ginst := Tab.set (fun _ => 0) x.ginst q.group (q.inst + 1) })
  if s.globalBad c q = true ∨ (s.group q.group).failed.contains q.inst = true then s1.halt c 0x30 15 q.step
  else match s.inst q.group q.inst with
    | some i =>
      if i.op = q.op ∧ i.scope = q.scope ∧ i.rtype = q.rtype ∧ i.bytes = q.bytes then
        (s1.modInst q.group q.inst (fun i => { i with ctxs := c :: i.ctxs })).advanceInst q.group q.inst
      else s1.halt c 0x30 15 q.step
    | none =>
      (s1.modGroup q.group (fun g => { g with insts := g.insts ++
        [{ k := q.inst, op := q.op, scope := q.scope, rtype := q.rtype, bytes := q.bytes, ctxs := [c], firstAt := s.cyc }] })).advanceInst q.group q.inst

/-- A global step issued (11 R449, R450). -/
def State.issueGlobal (s : State) (c op : Nat) : State :=
  s.issue c 5 op noWait (fun w i s1 =>
    let q := s1.globalStep c w i
    (s1.outstand c w i).joinGlobal c q)

/-- GBAR (R629). -/
def execGbar (ctx : Fin 64) (s : State) : Result := .next (s.issueGlobal ctx 0)
/-- GBCAST (R629). -/
def execGbcast (ctx : Fin 64) (s : State) : Result := .next (s.issueGlobal ctx 1)
/-- GRED (R629, R630). -/
def execGred (ctx : Fin 64) (s : State) : Result := .next (s.issueGlobal ctx 2)
/-- GSNAP (R629). -/
def execGsnap (ctx : Fin 64) (s : State) : Result := .next (s.issueGlobal ctx 3)

/-- The operation of context `c` completes where its condition holds: DST written, the status noted, the tally advanced;
an instance complete at every local participant is over (R629, R630; 11 R453). -/
def execGlobalOpComplete (ctx : Fin 64) (s : State) : Result :=
  let c := ctx.val
  .next (
    match (s.ctx c).gq with
    | none => s
    | some q =>
      let s0 := s.advanceInst q.group q.inst
      match s0.inst q.group q.inst with
      | none => s0
      | some i =>
        match i.sent, i.result with
        | true, some r =>
          let s1 := match q.op, q.dst with
            | 1, some o => s0.unpackOperand (tileOfCtx c) o r
            | 2, some o => s0.unpackOperand (tileOfCtx c) o r
            | _, _ => s0
          let s2 := s1.modCtx c (fun x => { x with
            gq := none, sat := x.sat || i.sat, poison := x.poison || r.any (fun b => b.2) })
          let s3 := s2.stepDone c q.step 5 q.op q.tadv
          let done := c :: i.done
          if (s3.group q.group).locals.all (fun d => done.contains d) then
            s3.modGroup q.group (fun g => { g with insts := g.insts.filter (fun i => i.k != q.inst) })
          else s3.modInst q.group q.inst (fun i => { i with done := done })
        | _, _ => s0)

/-- The oldest instance of a group that is not complete XLCFG.GTMO after its first issue: every participant that has
issued it halts, and so will a late one (R631). -/
def execGlobalTimeout (group : Fin 64) (s : State) : Result :=
  let g := group.val
  .next (
    match (s.group g).insts.find? (fun i => i.ctxs != [] && decide (i.firstAt + s.cfg rXLCFG 20 8 * 1600000 ≤ s.cyc)) with
    | none => s
    | some i =>
      let s1 := s.modGroup g (fun x => { x with failed := i.k :: x.failed, insts := x.insts.filter (fun j => j.k != i.k) })
      State.haltMany 4096 ((i.ctxs.filter (fun c => !i.done.contains c)).map (fun c => (c, 0x30, 15, (s1.ctx c).globalStep))) s1)

/-! ### Messages (R618, R628) -/

/-- A message that names another module, moved to the landing its route gives, one hop further; at HOPS 3 it is
discarded and logged (R613, R614). -/
def State.forward (s : State) (land : Nat) (h : BitVec 128) (data : List Byte) : State :=
  let w := h.toNat
  let mod := field w 14 6
  if field w 26 2 = 3 then (s.freeRx land h data.length).lateLog 7 2 land (some (field w 20 6)) mod (field w 52 48) 0
  else match s.routeOf mod (field w 28 8) (field w 8 6) with
    | some l => (s.viaMesh land l ((data.length + 63) / 64)).queueMsg l (h + BitVec.ofNat 128 (2 ^ 26)) data (some land)
    | none => s.freeRx land h data.length

/-- A GOP message: `hdr` its header; the fields its ADDR carries, and those it must agree in with the entry, as operands,
since the spec lays none of them out; `data` the whole partial or result, `pois` the marks of its lines. It advances its
instance; where it differs from the instance, or reports a failure, the participants halt; where the entry differs it
is answered with STATUS 1 (R626, R628, R630, R631). -/
def execGop (land : Fin 16) (hdr : BitVec 128) (group : Fin 64) (inst : BitVec 32) (op : Fin 4) (scope : Bool) (rtype : Fin 4)
    (bytes : BitVec 21) (mods : BitVec 64) (gkey : BitVec 16) (root : BitVec 6) (result sat : Bool)
    (data : List (BitVec 8)) (pois : List Bool) (s0 : State) : Result :=
  let s := s0.freeRx land hdr (64 * field hdr.toNat 4 3)
  let w := hdr.toNat
  let gk := group.val
  let k := inst.toNat
  let g := s.group gk
  let src := field w 14 6
  let strip : Strip := (data.take bytes.toNat).zipIdx.map (fun p => (p.1, pois.getD (p.2 / 64) false))
  let past := g.locals.all (fun c => decide (k < Tab.get (fun _ => 0) (s.ctx c).ginst gk)) && (s.inst gk k).isNone
  .next (
    if (s0.landing land).up = false ∨ field w 0 4 ≠ 7 then s0
    else if field w 8 6 ≠ s0.boot.modid then s0.forward land hdr data
    else if field w 101 4 ≠ 0 then
      (if past = true ∨ g.failed.contains k = true then s
       else
         let s1 := match s.inst gk k with
           | some i => if field w 101 4 = 1 then s.tellFailed gk [i] else s
           | none => s
         s1.failInst gk k)
    else if g.valid = false ∨ g.mods ≠ mods ∨ g.gkey ≠ gkey.toNat ∨ g.root ≠ root.toNat then
      s.sendPart gk { k := k, op := op, scope := scope, rtype := rtype, bytes := bytes.toNat } src 1 false []
    else if past = true ∨ g.failed.contains k = true then s
    else
      let s1 := if (s.inst gk k).isSome then s else s.modGroup gk (fun x => { x with insts := x.insts ++
        [{ k := k, op := op, scope := scope, rtype := rtype, bytes := bytes.toNat, firstAt := s.cyc }] })
      match s1.inst gk k with
      | none => s1
      | some i =>
        if i.op = op.val ∧ i.scope = scope ∧ i.rtype = rtype.val ∧ i.bytes = bytes.toNat then
          (s1.modInst gk k (fun i => { i with
            sat := i.sat || sat
            parts := if result ∨ i.parts.any (fun p => p.1 == src) then i.parts else i.parts ++ [(src, strip)]
            result := if result ∧ i.result.isNone then some strip else i.result })).advanceInst gk k
        else (s1.tellFailed gk [i]).failInst gk k)

end Sys2Proof.Machine
end

