-- ==== Sys2Proof/Machine/Startup.lean ====
section
/-! DEFINITION. Power-on, loss and return of the input, warm reset, and the clocks of start-up (17 R635 to R637, R655, R656;
18 R666 to R672, R684 to R690). -/

namespace Sys2Proof.Machine

/-! ### What lasts (02 R54; 18 R672, R687; 19 R715) -/

/-- What a hub keeps through a reset of its logic: its always-on parts and what the configuration store records. -/
def Hub.kept (h : Hub) : Hub :=
  { retired := h.retired, losses := h.losses, stampAdj := h.stampAdj, hubT := h.hubT, logicAt := h.logicAt, wdogAt := h.wdogAt
    meshDown := h.meshDown, scrubDone := h.scrubDone, bb := h.bb, mcore := h.mcore }

/-- What a matrix engine keeps: its slices' places and their mismatches (08 R333, R337). -/
def Matrix.kept (m : Matrix) : Matrix :=
  { serve := m.serve, free := m.free, retired := m.retired, faults := m.faults, faultAt := m.faultAt, nextSwap := m.nextSwap }

/-- What a landing keeps: its cable, its retired lanes and the counts since first start-up (16 R634). -/
def Landing.kept (l : Landing) : Landing :=
  { lanes := l.lanes, replays := l.replays, uncw := l.uncw, vcbl := l.vcbl, cable := l.cable }

/-- A group entry without its instances (16 R634). -/
def Group.kept (g : Group) : Group := { mods := g.mods, ctxs := g.ctxs, dat2 := g.dat2 }

/-- A slot across a warm reset: the parcel map, moves and re-encodes in progress among it, without the descriptors (02 R54, R55; 03 R111;
18 R687). -/
def Slot.kept (x : Slot) : Slot := { x with clearBusy := false, codeDesc := none, slotDesc := none }

/-- A slot as the configuration store records it through a loss of the input. A move in progress ends at its target, since there is no
content left to copy (02 R54, R55; DESIGN CHOICE, log entry 96). -/
def Slot.stored (x : Slot) : Slot :=
  { x.kept with phys := x.moveTo.getD x.phys, moveTo := none, flipping := false, reenc := none }

/-- A stack's spares across a warm reset, with a swap test and copies in progress (02 R36, R37, R42; 18 R694). -/
def StackSpares.kept (k : StackSpares) : StackSpares :=
  { k with sr := false, level := 0, hot16 := false, half := false, hold := false, decWait := [], decRun := [] }

/-- What a channel's stack controller and its dies keep: the counts since first start-up, the delays trained and the place of scrub (03
R118; 04 R153, R163). -/
def Channel.kept (c : Channel) : Channel :=
  { alerts := c.alerts, caerr := c.caerr, eye := c.eye, trnAt := c.trnAt, taps := c.taps, sweepDue := c.sweepDue, scrubAt := c.scrubAt
    scrubWoke := c.scrubWoke, mrs := c.mrs }

/-- A row's spare, which lasts where its contents do not. -/
def bareRow (k : Nat) (r : RowMeta) : RowMeta := { rowDefault k with spare := r.spare }

/-! ### Black box across a loss (19 R716, R719) -/

/-- The 256 bytes of a record of tile `t` (19 R716). -/
def recordBytes (t seq lost : Nat) (h : Happening) : List Byte :=
  let head := leBytes 8 (seq % 2 ^ 48 + t * 2 ^ 48) ++ leBytes 8 h.time.toNat ++ leBytes 1 h.typ ++
    leBytes 1 (match h.part with | some p => p + 64 | none => 0) ++ leBytes 2 lost ++ leBytes 4 h.ctx
  let b := head ++ payloadBytes 24 216 h.payload ++ leBytes 6 seq ++ leBytes 2 0
  b ++ leBytes 4 (crc32c b).toNat ++ leBytes 4 0

/-- A record that passes its CRC and whose two sequence numbers agree (19 R716). -/
def validRecord (l : List Byte) : Bool :=
  bytesAt l 248 4 == (crc32c (l.take 248)).toNat && bytesAt l 240 6 == bytesAt l 0 6

/-- Torn slots: written, and not valid (19 R719). -/
def Box.torn (b : Box) : Nat := (b.slots.filter (fun e : Nat × List Byte => !validRecord e.2)).length

/-- The rail fails in the middle of a commit: its first half stands over the slot's old second half (19 R716, R719). -/
def Box.tear (b : Box) (t : Nat) : Box :=
  match b.cur with
  | some (h, lost) =>
    let k := b.next % 16384
    let old := padTo 256 (Tab.get (fun _ => []) b.slots k)
    { b with cur := none, queue := [], slots := Tab.set (fun _ => []) b.slots k ((recordBytes t b.next lost h).take 128 ++ old.drop 128) }
  | none => { b with queue := [] }

/-! ### Loss of the input (17 R655) -/

/-- Every repair decided on is in force and every swap test ends with its bank returned: without contents there is nothing to copy
(02 R42; 18 R694; DESIGN CHOICE, log entry 96). -/
def State.settleSpares (s : State) : State :=
  (s.stks.map (fun e => e.1)).foldl (fun s st =>
    let k := s.stack st
    let s1 := match k.testing with | some x => s.endSwap st x false | none => s
    k.pendingRepair.foldl State.flipRepair (s1.modStack st (fun k => { k with pendingRepair := [] }))) s

/-- The configuration store, the parts' wear and the black boxes: what is left when the converters stop. -/
def State.unpowered (s0 : State) : State :=
  let s := s0.settleSpares
  let hub (t : Nat) (h : Hub) : Hub := { h.kept with stampAdj := 0, hubT := 0, scrubDone := 0, bb := h.bb.tear t }
  let part (_ : Nat) (p : Part) : Part := { st := p.st, port := p.port, vf := p.vf, keepflr := p.keepflr, destroy := p.destroy
                                            reset := p.reset.map (fun j => { j with desc := none }) }
  { pending := s.pending, cyc := s.cyc, free := s.free, half := s.half
    boot := { s.boot with trainedAt := 0, phase := 0, coolOk := false, xtalOk := [], warmBusy := false, want := none, clockLate := none }
    slots := Tab.mapAll (slotDefault s.half) (fun _ x => x.stored) s.slots
    parcels := Tab.mapAll (fun _ => {}) (fun _ p => { retired := p.retired, floor := p.floor }) s.parcels
    chans := Tab.mapAll (fun _ => {}) (fun _ c => { alerts := c.alerts, caerr := c.caerr }) s.chans
    rows := Tab.mapAll rowDefault bareRow s.rows
    bspares := Tab.mapAll (fun _ => {}) (fun _ b => { b with colHits := [] }) s.bspares
    stks := Tab.mapAll (fun _ => {}) (fun _ k => { k.kept with temps := [], spareAt := 0 }) s.stks
    hubs := Tab.mapAll (fun _ => {}) hub s.hubs
    me := Tab.mapAll (fun _ => {}) (fun _ m => m.kept) s.me
    ctxs := Tab.mapAll (fun _ => {}) (fun _ x => { part := x.part }) s.ctxs
    parts := Tab.mapAll (fun _ => {}) part s.parts
    ports := Tab.mapAll (fun _ => {}) (fun _ h => { gone := h.gone }) s.ports
    lands := Tab.mapAll (fun _ => {}) (fun _ l => l.kept) s.lands
    fw := { s.fw with st := 0, tile := 0, sideband := none }
    logs := { strFailed := s.logs.strFailed, corrcnt := s.logs.corrcnt, unccnt := s.logs.unccnt }
    out := { nextId := s.out.nextId, answered := s.out.answered } }

/-- The input falls below 30 V or rises above 62 V: the converters stop and contents are lost (17 R655). -/
def execInputLoss (s : State) : Result := .next (if s.power.on then s.unpowered else s)

/-! ### Start-up (18 R666 to R672) -/

/-- Tiles that fail at start-up retired, and the lead role moved where it must be (18 R667). -/
def State.retireAll (s : State) (ts : List Nat) : State := ts.foldl (fun s t => s.retireTile t 2 true) s

/-- The configuration store fails its check: the module starts as at first start-up (18 R668). -/
def State.storeLost (s : State) : State :=
  (((((((s.putSlots []).putParcels []).putBspares []).putStks []).putRows []).putParts []).putCtxs []).putBoot
    { s.boot with storeBad := true, started := false, newId := none, hashPend := false, hashRec := ({} : Boot).hashRec, modid := 0, dkey := 0, checkpoint := 0 }

/-- The identifiers written over the sideband take effect (16 R611). -/
def State.takeId (s : State) : State :=
  match s.boot.newId with
  | some (m, k) => (s.putBoot { s.boot with modid := m, dkey := k, newId := none })
  | none => s

/-- Steps 3 and 4 of a power-on: the images verified, the lead tile chosen, the configuration store read (18 R666 to R668;
02 R69). -/
def State.readStore (s : State) : State :=
  let r := s.boot.report
  let s1 := s.retireAll r.badVerify
  let s2 := if r.storeOk then (s1.putBoot { s1.boot with storeBad := false }) else s1.storeLost
  let s3 := s2.takeId
  (s3.putBoot { s3.boot with phase := 5, hashMask := s3.boot.hashRec, hashPend := false, hashLock := false, lead := if (s3.hub s3.boot.lead).retired then s3.nextLead else s3.boot.lead })

/-- Step 6: hubs and slices that fail their self-test (18 R666, R667). -/
def State.selfTests (s : State) : State :=
  let r := s.boot.report
  (r.badSlices.foldl (fun s e =>
    if (s.mat e.1).retired.contains e.2 then s else s.retireSlice e.1 e.2 0 none 63) s).retireAll r.badSelf

/-- Step 7: the stacks trained, each channel's delays at the centres of its runs; narrow runs recorded; a stack with a lane that still
fails is marked failed and its tile retired (04 R153, R154, R159). -/
def State.trainStacks (s : State) : State :=
  let mineye := s.inForce 0 rTRNCFG 8 6
  s.boot.report.sweeps.foldl (fun s e =>
    let res := trained mineye e.2
    let s1 := (s.modChan e.1 (fun c => c.tuned res s.cyc)).noteEye e.1 e.2
    if narrowest res < mineye ∧ (s1.stack (e.1 / 16)).down = false then
      (s1.modStack (e.1 / 16) (fun k => { k with down := true })).retireTile (tileOfChan e.1) 1 true
    else s1) (s.putBoot { s.boot with trainedAt := s.cyc + 1 })

/-- Step 8: spares and reserve parcels that fail their test (18 R669, R670). -/
def State.testSpares (s : State) : State :=
  let r := s.boot.report
  let s1 := r.badSpareDies.foldl (fun s st => s.failSpareDie st) s
  let s2 := r.badSpareBanks.foldl (fun s e => s.failSpareBank e.1 e.2.1 (nat e.2.2)) s1
  let s3 := r.badSpareRows.foldl (fun s e => s.failSpareRow e.1 e.2) s2
  let s4 := r.badSpareCols.foldl (fun s e => s.failSpareCol e.1 e.2) s3
  r.badParcels.foldl (fun s p => if s.parcelFree p then s.modParcel p (fun x => { x with retired := true }) else s) s4

/-- Step 9 of a power-on: every row of every parcel zero at its strength, handles empty; after the first start-up every
partition that was not FREE is PRESERVED with its slots lost (18 R671, R672). -/
def State.initMemory (s : State) : State :=
  let s1 := ((((s.putMem []).putPois []).putRows (Tab.mapAll rowDefault bareRow s.rows)).putParts (Tab.mapAll (fun _ => {}) (fun _ p => { p with handles := [] }) s.parts))
  let s2 := (List.range s.slotCount).foldl (fun s i => if s.strengthFor i = (s.slot i).code then s else s.modSlot i (fun x => { x with code := s.strengthFor i })) s1
  let ps := (List.range 64).filter (fun p => (s.part p).st != .free)
  ps.foldl (fun s p =>
    let mine := s.slotsOf p
    (mine.foldl (fun s i => s.modSlot i (fun x => { x with lost := true, clearing := false, release := false })) s).modPart p (fun q => { q with
      st := .preserved, token := tokenOf s.boot.report.tokens p, cause := 4, lostN := mine.length, reset := none, destroy := false })) s2

/-- Step 10: the start recorded on every tile, the landings' clocks open, and the module in service (18 R666; 02 R69; 19
R719). Landings and host ports then train by their own commands. -/
def State.enterService (s : State) : State :=
  let s1 := s.liveTiles.foldl (fun s t =>
    (s.bbox t 1 none 63 [(24, 1, s.boot.cause), (25, 2, (s.hub t).bb.torn), (27, 1, s.boot.lead)]).modHub t (fun h => { h with
      groups := [3], engines := [3] })) s
  (s1.putBoot { s1.boot with phase := 15, hashLock := true, started := true, warmBusy := false, report := {} })

/-- Steps 6 to 10 of a power-on, once the coolant is qualified (18 R666). -/
def State.coldTail (s : State) : State := (s.selfTests.trainStacks.testSpares.initMemory).enterService

/-- The input rises above 40 V from below 30 V: step 1 of the power-on, up to the wait for the crystals (18 R666; 17 R636;
19 R721). `r` is what this start-up will find in the parts. -/
def execPowerOn (r : BootReport) (s : State) : Result :=
  .next (
    if s.power.on then s
    else
      let s1 := s.unpowered
      let hubs := Tab.updMany (fun _ => {}) (fun h : Hub => { h with src := .internal, lock := false }) s1.liveTiles s1.hubs
      (((s1.putHubs hubs).putPower { on := true, capEff := if s.half then 92 else 180 }).putBoot { s1.boot with
          phase := 2, cause := if s1.boot.started then 1 else 0, report := r
          stampBase := (s1.boot.checkpoint : Int) + 100000000 - (s.cyc / 16 : Nat) }))

/-! ### Warm reset (18 R684 to R690) -/

/-- Every descriptor in progress forgotten: a warm reset writes no completion for it (18 R687). -/
def State.forgetDescs (s : State) : State :=
  let cut (_ : Nat) (f : FeChan) : FeChan := { f with
    cur := f.cur.map (fun x => { x with copy := none }), queue := f.queue.map (fun x => { x with copy := none }) }
  ((((((s.putPages (Tab.mapAll (fun _ => {}) (fun _ g => { g with en := false, fetched := [] }) s.pages)).putCtxs (Tab.mapAll (fun _ => {}) (fun _ x => { x with start := none, binding := none, unbinding := none }) s.ctxs)).putFe (Tab.mapAll (fun _ => {}) cut s.fe)).putSlots (Tab.mapAll (slotDefault s.half) (fun _ x => { x with codeDesc := none, slotDesc := none }) s.slots)).putParts (Tab.mapAll (fun _ => {}) (fun _ p => { p with reset := p.reset.map (fun j => { j with desc := none }) }) s.parts)).putTrans [])

/-- Steps 1 to 3 of a warm reset: contexts halted, writes settled, flags performed, shared-class lines written back,
partitions PRESERVED (18 R686). Device writes to host memory that the host has not answered fail. -/
def State.settleAll (s : State) (r : BootReport) : State :=
  let s1 := (List.range 64).foldl (fun s c => s.halt c 0x39 15 (s.ctx c).next) s.forgetDescs
  let s2 := s1.out.inflight.foldl (fun s w => s.hostDone w (r.observed.contains w.id)) s1
  let s3 := (s2.chans.map (fun e => e.1)).foldl (fun s ch =>
    (s.modChan ch (fun c => { c with readQ := [] })).drainTo (s.chan ch).writeQ.length ch 0) s2
  let s4 := (s3.streams.map (fun e => e.1)).foldl (fun s k =>
    (s.stream k).flags.foldl (fun s f => s.homeWrite f.sa f.data f.mask f.failed) (s.modStream k (fun t => { t with flags := [] }))) s3
  let s5 := ((s4.lines.map (fun e => e.1 * 64 / slotBytes)).eraseDups).foldl State.writeBackSlot s4
  ((List.range 64).filter (fun p => (s5.part p).st == .active || (s5.part p).st == .preserved)).foldl (fun s p => s.preserve p 3 r.tokens) s5

/-- A handle after a warm reset: bound ones are ready again, translating ones as before their load (18 R687; 12 R502). -/
def warmHandle (_ : Nat) (h : Handle) : Handle :=
  if h.st = .ready ∨ h.st = .bound ∨ h.old = true then { h with st := .ready, ctx := none, old := false } else {}

/-- Steps 4 and 5: the stacks asleep, the hubs reset but for their always-on logic, registers at their reset values but
for those that survive (18 R686, R687; 05 R209; 13 R519; 16 R634; 02 R73). -/
def State.resetHubs (s : State) : State :=
  let keep (e : Nat × Word) : Bool := match regRow (e.1 % 0x100000) with | some r => r.keep | none => false
  { pending := s.pending, cyc := s.cyc, free := s.free, half := s.half
    regs := s.regs.filter keep
    boot := s.boot, power := { input := s.power.input, on := s.power.on, tin := s.power.tin, tout := s.power.tout
                               flow := s.power.flow, dp := s.power.dp, coolFault := s.power.coolFault }
    slots := Tab.mapAll (slotDefault s.half) (fun _ x => x.kept) s.slots
    parcels := s.parcels, mem := s.mem, pois := s.pois, rows := s.rows, bspares := s.bspares
    stks := Tab.updMany (fun _ => {}) (fun k : StackSpares => { k.kept with sr := true }) (List.range 96) s.stks
    chans := Tab.mapAll (fun _ => {}) (fun _ c => c.kept) s.chans
    hubs := Tab.updMany (fun _ => {}) (fun h : Hub => { h with src := .internal, lock := false }) s.liveTiles
      (Tab.mapAll (fun _ => {}) (fun _ h => h.kept) s.hubs)
    me := Tab.mapAll (fun _ => {}) (fun _ m => m.kept) s.me
    ctxs := Tab.mapAll (fun _ => {}) (fun _ x => { part := x.part }) s.ctxs
    parts := Tab.mapAll (fun _ => {}) (fun _ p => { p with handles := Tab.mapAll (fun _ => {}) warmHandle p.handles, h2d := [] }) s.parts
    ports := Tab.mapAll (fun _ => {}) (fun _ h => { gone := h.gone, apt := h.apt }) s.ports
    lands := Tab.mapAll (fun _ => {}) (fun _ l => l.kept) s.lands
    routes := s.routes, admits := s.admits, groups := Tab.mapAll (fun _ => {}) (fun _ g => g.kept) s.groups
    fw := { s.fw with st := 0, tile := 0 }
    logs := { s.logs with lflog := [], lfhead := 0, lfwrap := false, lfseq := 0, dirMax := 0, bitmout := 0, bievict := 0
                          tested := 0, skipped := 0 }
    out := { nextId := s.out.nextId, answered := s.out.answered } }

/-- Slots on the tiles that fail the preserved-state check: lost and cleared (18 R688). -/
def State.loseTile (s : State) (t : Nat) : State :=
  (s.slotsOn t).foldl (fun s i =>
    let x := s.slot i
    let s1 := (s.clearParcel x.phys).modSlot i (fun x => { x with lost := true })
    match x.owner with
    | some p => s1.modPart p (fun q => { q with lostN := q.lostN + 1 })
    | none => s1) s

/-- First rows of bands of tile `t` that the sample read of the preserved-state check finds at fault: wrong tags, and rows that do not
decode (18 R688; 02 R57). -/
def State.sampleFaults (s : State) (t : Nat) : List Nat × List Nat :=
  let rs := (s.rows.map (fun e => e.1)).filter (fun r => r / 65536 / 4608 == t && r % 128 == 0)
  (rs.filter s.badTag, rs.filter (fun r => !s.badTag r && (s.decoded r).isNone))

/-- The sample of 2,359,296 rows, one of every band of every bank, finds a wrong tag, or more than 1 row of every 4096 that does not decode
(18 R688). -/
def State.sampleLost (s : State) (t : Nat) : Bool :=
  let f := s.sampleFaults t
  !f.1.isEmpty || decide (2359296 < 4096 * f.2.length)

/-- Step 9 of a warm reset: the slots of a tile that fails the preserved-state check are lost; other rows that do not decode are handled
(18 R688; 03 R115). -/
def State.preservedCheck (s : State) (t : Nat) : State :=
  if s.boot.report.lostTiles.contains t || s.sampleLost t then s.loseTile t
  else (s.sampleFaults t).2.foldl (fun s rk => s.decodeRow rk 0 8 none 0 id) s

/-- Steps 6 to 10 of a warm reset: the stacks awake, each channel re-centred before it serves a request (18 R686, R688; 04 R143, R158). -/
def State.warmTail (s : State) : State :=
  let r := s.boot.report
  let s1 := (s.retireAll r.badVerify).retireAll r.badSelf
  let s2 := (s1.putStks (Tab.updMany (fun _ => {}) (fun k : StackSpares => { k with sr := false }) (List.range 96) s1.stks))
  let s3 := s2.putChans (Tab.updMany (fun _ => {}) (fun c : Channel => { c with recentreDue := true }) (List.range 1536) s2.chans)
  (s3.tiles.foldl State.preservedCheck s3).enterService

/-- A warm reset up to the wait for the crystals: a second request during one is ignored, and a firmware hand-over is
abandoned (18 R686, R689). -/
def State.warmReset (s : State) (cause : Nat) (r : BootReport) : State :=
  if s.power.on = false ∨ s.boot.phase ≠ 15 then s
  else
    let s1 := ((s.settleAll r).resetHubs).takeId
    ((s1.putPower { s1.power with failed := false }).putBoot { s1.boot with phase := 5, warmBusy := true, cause := cause, want := none, warmCnt := satNat 16 (s.boot.warmCnt + 1), xtalOk := [], clockLate := none, report := r })

/-- A warm reset asked for by RSTCMD, or commanded over the sideband (18 R685, R686; 01 R21). -/
def execWarmReset (r : BootReport) (s : State) : Result :=
  .next (if s.boot.want.isSome = true ∨ s.sideband = true then s.warmReset (s.boot.want.getD 2) r else s)

/-! ### Power fail (17 R655, R656) -/

/-- Below 36 V for 20 µs: contexts halt, the record is written at the head of the queue, host ports go down and every
stack enters stack self-refresh; a warm reset in progress goes on (17 R655; 18 R673, R689). `input` in 0.1 V. -/
def execPowerFail (input : BitVec 10) (tokens : List (BitVec 64)) (s : State) : Result :=
  let s0 := (s.putPower { s.power with input := input.toNat, failed := true })
  .next (
    if s.power.on = false ∨ s.power.failed = true then s
    else if s.boot.phase ≠ 15 then s0
    else
      let s1 := (List.range 64).foldl (fun s c => s.halt c 0x39 15 (s.ctx c).next) s0
      let s2 := s1.liveTiles.foldl (fun s t => s.bboxHead t 8 [(24, 2, input.toNat)]) s1
      let s3 := (List.range 4).foldl (fun s p =>
        if (s.hport p).speed = 0 then s else (s.partsOn p).foldl (fun s q => s.preserve q 1 tokens) (s.portDown p)) s2
      (List.range 96).foldl State.enterStackSr s3)

/-- The input returns above 40 V after a power fail without falling below 30 V: a warm reset with parcels kept (17
R656). -/
def execPowerReturn (r : BootReport) (s : State) : Result :=
  .next (
    if s.power.failed then
      let s1 := (s.putPower { s.power with failed := false, input := 480 })
      if s.boot.phase = 15 then s1.warmReset 3 r else s1
    else s)

/-- A management core's watchdog expires: recorded, its translations start again, a hand-over on probation is reverted,
and with AUTOWARM a second expiry of the lead tile within 1 s begins a warm reset (18 R690, R705). -/
def execWatchdogExpiry (t : Fin 16) (r : BootReport) (s : State) : Result :=
  let recent := s.cyc :: (s.hub t).wdogAt.filter (fun a => decide (s.cyc < a + secondCycles))
  .next (
    if s.boot.phase ≠ 15 ∨ (s.hub t).retired = true then s
    else
      let s1 := (s.modHub t (fun h => { h with wdogAt := recent })).bbox t 0x0F none 63 [(24, 1, recent.length)]
      let s2 := s1.modTran t (fun x => match x.run with
        | some j => { x with run := none, queue := { j with native := [], nmap := [], status := 0 } :: x.queue }
        | none => x)
      let s3 := if s2.fw.st = 3 then s2.fwRevert else s2
      if t.val = s.boot.lead ∧ flag (s.reg 0 rRCVCFG) 0 = true ∧ 2 ≤ recent.length then s3.warmReset 4 r else s3)

/-! ### The reference at start-up (17 R636, R637, R648) -/

/-- A start-up waits for the crystals: step 2 of a power-on, step 5 of a warm reset (18 R666, R686). -/
def Boot.awaitsClock (b : Boot) : Bool := (b.phase == 2 && !b.warmBusy) || (b.phase == 5 && b.warmBusy)

/-- A hub's reference is settled; once every hub's is, the start-up goes on. -/
def State.clockSettled (s : State) (t : Nat) (f : Hub → Hub) : State :=
  if s.boot.awaitsClock = false ∨ s.boot.xtalOk.contains t = true ∨ (s.hub t).retired = true then s
  else
    let s1 := s.modHub t f
    let s2 := (s1.putBoot { s1.boot with xtalOk := t :: s1.boot.xtalOk })
    if s2.liveTiles.all (fun u => s2.boot.xtalOk.contains u) then
      (if s2.boot.warmBusy then s2.warmTail
       else
         let s3 := s2.readStore
         if s3.boot.coolOk then s3.coldTail else s3)
    else s2

/-- A hub's crystal qualifies and its root PLL locks (17 R636). -/
def execCrystalQualified (t : Fin 16) (s : State) : Result :=
  .next (s.clockSettled t (fun h => { h with src := .crystal, lock := true, xamp := true }))

/-- The crystal has not qualified 20 ms after power-on: the hub starts on the fallback reference (17 R637). -/
def execCrystalQualifyTimeout (t : Fin 16) (s : State) : Result :=
  let s0 := (s.putBoot { s.boot with clockLate := s.boot.clockLate <|> some t.val })
  .next (
    if s.boot.awaitsClock = true ∧ s.boot.xtalOk.contains t.val = false ∧ (s.hub t).retired = false then
      s0.clockSettled t (fun h => { h with src := if s.hostRef then .host else .internal, lock := true })
    else s)

/-- Flow and inlet temperature have been within R661 for 10 s at start-up: the tile converters are switched on (18 R666
step 5). -/
def execCoolantQualified (s : State) : Result :=
  let s1 := (s.putBoot { s.boot with coolOk := true })
  .next (
    if s.power.on = false ∨ s.boot.phase = 15 ∨ s.boot.warmBusy = true then s
    else if s.boot.phase = 5 then s1.coldTail else s1)

end Sys2Proof.Machine
end

