-- ==== Sys2Proof/Machine/Observe.lean ====
section
/-! DEFINITION. Black-box commits, trace rings and performance counters (19 R711 to R720). -/

namespace Sys2Proof.Machine

/-- The record in commit stands whole in its slot, and the oldest queued happening starts its commit (R716, R717). -/
def Box.commit (b : Box) (t : Nat) (held : Bool) : Box :=
  let b1 := match b.cur with
    | some (h, lost) =>
      let rec_ := recordBytes t b.next lost h
      { b with cur := none, next := (b.next + 1) % 2 ^ 48, slots := Tab.set (fun _ => []) b.slots (b.next % 16384) rec_ }
    | none => b
  if held then b1 else b1.startCommit

/-- The record in commit and every queued one committed. -/
def Box.flush (t : Nat) : Nat → Box → Box
  | 0, b => b
  | n + 1, b => if b.cur = none ∧ b.queue = [] then b else Box.flush t n (b.commit t false)

/-- The commit in progress ends (R716); a tile in hand-over starts no other one (18 R704). -/
def execBlackBoxCommit (t : Fin 16) (s : State) : Result :=
  .next (s.modHub t (fun h => { h with bb := h.bb.commit t (s.boxHeld t) }))

/-- The host observes the oldest trace record on its way from a port: TRCTAIL advances (R711). -/
def execTraceRecordObserved (p : Fin 4) (s : State) : Result :=
  .next (
    match s.out.inflight.find? (fun w => w.kind == WriteKind.trace && w.port == p.val && w.sent) with
    | some w => (s.hostDone w true).modHport p (fun h => { h with trace := { h.trace with tail := h.trace.tail + 1 } })
    | none => s)

/-- TRCCTL after a write of `v` over `old`: SZ is kept while EN is 1, and EN stays 0 for a size outside 8 to 20 (R727). -/
def trcctlAfter (old v : Nat) : Nat :=
  let sz := if flag old 0 then field old 1 5 else field v 1 5
  let en := flag v 0 && (flag old 0 || (decide (8 ≤ sz) && decide (sz ≤ 20)))
  nat en + 2 * sz + 2 ^ 8 * field v 8 8

/-- A write of TRCCTL; setting EN starts TRCSTAT.DROP again (R711, R727). -/
def execTrcctlWrite (p : Fin 4) (value : BitVec 32) (s : State) : Result :=
  let old := s.reg p rTRCCTL
  let new := trcctlAfter old value.toNat
  let s1 := s.setReg p rTRCCTL new
  .next (
    if flag new 0 = true ∧ flag old 0 = false then s1.modHport p (fun h => { h with trace := { h.trace with drop := 0 } })
    else s1)

/-- PMCTL.FREEZE written 1: every counter of the module stops (R714). -/
def execCounterFreeze (s : State) : Result := .next (s.setReg 0 rPMCTL 1)

/-- PMCTL.FREEZE written 0: every counter runs again (R714). -/
def execCounterRestart (s : State) : Result := .next (s.setReg 0 rPMCTL 0)

/-- PMCTL.CLEAR written 1: every count at zero and every OVF clear (R714). -/
def execCounterClear (s : State) : Result :=
  .next (s.putPm (Tab.mapAll (fun _ => {}) (fun _ c => { c with count := 0, sel := c.sel &&& 0xFFFF7FFF#32 }) s.pm))

end Sys2Proof.Machine
end

