-- ==== Sys2Proof/Machine/Power.lean ====
section
/-! DEFINITION. Loss of the reference, timestamps, admission of wakes, clock gates, the governor, coolant and temperature
(chapters 13, 17 and 19). -/

namespace Sys2Proof.Machine

/-! ### Loss of the crystal (17 R638 to R649) -/

/-- Code of CLKSTAT.SRC's fallback source: 1 internal oscillator, 2 host reference (17 R642, R647). -/
def State.lossPayload (s : State) (reason t : Nat) : List (Nat × Nat × Nat) :=
  (s.clockPayload reason t).map (fun e => (e.1 + 8, e.2))

/-- A clock loss found by hub `t`: counted, recorded, and posted to every enabled event ring where no other hub has found
it already (17 R643, R647; 19 R716). -/
def State.clockLoss (s : State) (t reason : Nat) : State :=
  let first := s.liveTiles.all (fun u => u == t || (!(s.hub u).xlost && (s.hub u).src == .crystal))
  let s1 := (s.modHub t (fun h => { h with losses := satNat 16 (h.losses + 1) })).bbox t 7 none 63 (s.lossPayload reason t)
  if first ∨ reason = 3 then s1.eventAll 7 (s.clockPayload reason t) else s1

/-- The crystal found lost by a hub that runs from it; its PLL holds until the switch (17 R638, R643). -/
def State.loseCrystal (s : State) (t reason : Nat) : State :=
  let h := s.hub t
  if s.boot.phase ≠ 15 ∨ h.retired = true ∨ h.src ≠ .crystal ∨ h.xlost = true then s
  else (s.clockLoss t reason).modHub t (fun h => { h with xlost := true })

/-- The amplitude has stayed below threshold for 16 cycles of the internal oscillator (17 R638). -/
def execCrystalAmplitudeLost (t : Fin 16) (s : State) : Result :=
  .next (if (s.hub t).retired then s else (s.loseCrystal t 1).modHub t (fun h => { h with xamp := false }))

/-- A monitor window ends with `n` crystal edges: CLKMON follows, and a count outside 963 to 1085 is a loss (17 R638). -/
def execEdgeCountWindowEnd (t : Fin 16) (n : BitVec 11) (s : State) : Result :=
  let s1 := s.modHub t (fun h => { h with monLast := n.toNat, monMin := min h.monMin n.toNat, monMax := max h.monMax n.toNat })
  .next (if (s.hub t).retired then s else if n.toNat < 963 ∨ 1085 < n.toNat then s1.loseCrystal t 2 else s1)

/-- The standby PLL locks to the reference that replaces a lost one (17 R643, R649). -/
def execStandbyPllLock (t : Fin 16) (s : State) : Result :=
  let h := s.hub t
  .next (if h.xlost = true ∨ h.fwdLost = true then s.modHub t (fun h => { h with standby := true }) else s)

/-- At an alignment boundary with the standby PLL locked and every near-bank channel of the hub at a yield point, the
domains restart on the standby PLL; with an internal oscillator as reference the landing cannot hold lock (17 R644,
R646, R649). -/
def execDomainSwitch (t : Fin 16) (s : State) : Result :=
  let h := s.hub t
  let quiet := (List.range 96).all (fun i => let c := s.chan (96 * t.val + i); c.mode != .nearBank || c.yield)
  let src : ClockSrc := if h.fwdLost then .own else if s.hostRef then .host else .internal
  .next (
    if h.standby = true ∧ quiet = true then
      let s1 := s.modHub t (fun h => { h with src := src, lock := true, switched := true, standby := false, xlost := false, fwdLost := false })
      if src = .host ∨ (s.landing t).up = false then s1 else s1.landingDown t
    else s)

/-- A hub on the fallback reference loses it and goes over to its own oscillator (17 R649). -/
def execForwardedReferenceLost (t : Fin 16) (s : State) : Result :=
  let h := s.hub t
  .next (
    if h.retired = false ∧ h.fwdLost = false ∧ h.src ≠ .own ∧ (h.src ≠ .crystal ∨ h.xlost = true) then
      (s.clockLoss t 3).modHub t (fun h => { h with fwdLost := true, island := true, standby := false })
    else s)

/-- The lead tile's timestamp reaches an island hub, whose counter then differs from it by `diff` − 2 counts; a counter
never goes back (17 R649). -/
def execTimestampSync (t : Fin 16) (diff : Fin 5) (s : State) : Result :=
  let d : Int := (diff.val : Int) - 2
  .next (
    if (s.hub t).island = true ∧ t.val ≠ s.boot.lead ∧ (s.hub t).stampAdj ≤ d then s.modHub t (fun h => { h with stampAdj := d })
    else s)

/-- The timestamp written to the configuration store, once a second (19 R721). -/
def execTimestampCheckpoint (s : State) : Result :=
  .next (if s.power.on then (s.putBoot { s.boot with checkpoint := s.stamp }) else s)

/-! ### Host time (19 R722 to R724) -/

/-- The port that performs PTM: the lead tile's, or the lowest that is up (R722). -/
def State.ptmPort (s : State) : Option Nat :=
  if (s.hport (s.boot.lead / 4)).speed ≠ 0 then some (s.boot.lead / 4)
  else (List.range 4).find? (fun p => (s.hport p).speed != 0)

/-- Host time that the mapping gives for device stamp `d`, in ns, rounded down (R722). -/
def TimeMap.host (m : TimeMap) (d : Nat) : Int :=
  let dt := 10 * ((d : Int) - m.d0)
  (m.h0 : Int) + dt + dt * m.rate / 1000000000

/-- A PTM exchange: `h` the host time it gives, none where it fails. A jump beyond TMCFG.JUMP begins a new epoch (R722 to
R724). -/
def execPtmExchange (h : Option (BitVec 64)) (s : State) : Result :=
  let m := s.tmap
  let d := s.stamp
  let period := s.cfg rTMCFG 0 8
  .next (
    if s.boot.phase ≠ 15 then s
    else match h, s.ptmPort with
    | some hh, some p =>
      let e := (hh.toNat : Int) - m.host d
      if m.valid = true ∧ e.natAbs ≤ 1000 * s.cfg rTMCFG 8 16 then
        (s.putTmap { m with
            h0 := (m.host d).toNat, d0 := d, rate := clampInt (-1000000) 1000000 (m.rate + e * 1000 / (max 1 period : Nat))
            stale := false, port := p, fails := 0 })
      else
        let ep := (m.epoch + 1) % 2 ^ 24
        let s1 := (s.putTmap { m with epoch := ep, d0 := d, h0 := hh.toNat, stale := false, port := p, valid := true, fails := 0 })
        let r := wrapInt 32 m.rate
        (s1.eventAll 8 [(16, 8, hh.toNat), (24, 4, ep), (28, 4, r)]).bbox s.boot.lead 0x0E none 63
          [(24, 8, hh.toNat), (32, 4, ep), (36, 4, r), (40, 8, d)]
    | _, _ => (s.putTmap { m with fails := m.fails + 1, stale := m.stale || decide (10 ≤ m.fails + 1) }))

/-! ### Admission (17 R657, R658) -/

/-- P_c of R658 in units of 1/128 W: 4.3 kW (2.15 kW on NGM9-4608-LC), 250/128 W a channel, 1800/128 W a slice; wakes admitted and not
yet used count (00 R3). -/
def State.committedPower (s : State) : Nat :=
  let chans := (s.chans.filter (fun e : Nat × Channel => e.2.mode != .conv || e.2.lock.isSome)).length
  let slices := (s.me.map (fun e : Nat × Matrix => (e.2.ungated.filter (fun sl => !e.2.retired.contains sl)).length)).sum
  let adm (k : Nat) : Nat := (s.hubs.map (fun e : Nat × Hub => (e.2.admitted.filter (fun a => a.1 == k)).length)).sum
  (if s.half then 2150 else 4300) * 128 + 250 * (chans + adm 1) + 1800 * (slices + adm 2)

/-- The limit of R658 in the same units: the commit cap, or CAP_eff under measure 2 (R660). -/
def State.commitLimit (s : State) : Nat := 6400 * (if s.power.m2 then s.power.capEff else s.cfg rPGCFG 8 8)

/-- Admissions a budget allows, and within how many engine cycles (R657). -/
def wakeBudget (kind : Nat) : Nat × Nat := if kind = 0 then (2, 6400) else if kind = 1 then (1, 320) else if kind = 2 then (4, 1600) else (1, 1600)

/-- The budget a wake draws on: near-bank joins have one a stack (R657). -/
def budgetKey (kind member : Nat) : Nat := if kind = 1 then 16 + member / 16 else kind

/-- A wake of a tile that R658 or R664 holds, or a thermal level (R663). -/
def State.wakeHeld (s : State) (t kind member : Nat) : Bool :=
  (kind == 2 && (s.hub t).holdUngate) || (kind == 1 && decide (4 ≤ (s.stack (6 * t + member / 16)).level))

/-- A bind that waited for the tile's engines completes (R653). -/
def State.finishBinds (s : State) (t : Nat) : State :=
  if s.enginesOpen t then
    (List.range 4).foldl (fun s q =>
      let c := 4 * t + q
      match (s.ctx c).binding with
      | some r => (s.modCtx c (fun x => { x with binding := none })).complete r { ctx := BitVec.ofNat 6 c }
      | none => s) s
  else s

/-- A wake admitted: an engine group or engine opens, any other wake may now be used (R657). -/
def State.grantWake (s : State) (t kind member since : Nat) : State :=
  let key := budgetKey kind member
  let s1 := s.modHub t (fun h => { h with
    wakeQ := h.wakeQ.filter (fun w => !(w.1 == kind && w.2.1 == member))
    grantAt := Tab.upd (fun _ => []) h.grantAt key (fun l => s.cyc :: l.take 3)
    capHeld := false, maxW := max h.maxW (satNat 16 ((s.cyc - since) / 160)) })
  if kind = 3 then
    (s1.modHub t (fun h =>
      if member < 4 then { h with groups := if h.groups.contains member then h.groups else member :: h.groups }
      else { h with engines := if h.engines.contains (member - 4) then h.engines else (member - 4) :: h.engines })).finishBinds t
  else s1.modHub t (fun h => { h with admitted := h.admitted ++ [(kind, member)] })

/-- The head of a wake queue of a tile is admitted when its budget and the committed power allow: kind 0 stacks, 1
near-bank joins, 2 slices, 3 engine groups and engines (R657, R658). -/
def execAdmissionGrant (t : Fin 16) (kind : Fin 4) (s : State) : Result :=
  let h := s.hub t
  .next (
    match h.wakeQ.find? (fun w => w.1 == kind.val) with
    | none => s
    | some w =>
      let b := wakeBudget kind
      let recent := (Tab.get (fun _ => []) h.grantAt (budgetKey kind w.2.1)).filter (fun a => decide (s.cyc < a + b.2))
      let adds := if kind.val = 1 then 250 else if kind.val = 2 then 1800 else 0
      if b.1 ≤ recent.length ∨ s.wakeHeld t kind w.2.1 = true then s
      else if adds ≠ 0 ∧ s.commitLimit < s.committedPower + adds then s.modHub t (fun h => { h with capHeld := true })
      else s.grantWake t kind w.2.1 w.2.2)

/-! ### Clock gates (17 R650 to R653) -/

/-- Steps queued or running on an engine of a tile, or its landing up (R652). -/
def State.engineBusy (s : State) (t e : Nat) : Bool :=
  match e with
  | 0 => let m := s.mat t; m.queue != [] || m.runs != [] || m.wake != [] || m.res.isSome
  | 1 => let v := s.vec t; v.queue != [] || v.runs != []
  | 2 => (List.range 16).any (fun i => let f := s.fchan (16 * t + i); f.cur.isSome || f.queue != [])
  | _ => (s.landing t).up

/-- A context of the tile is bound (R652). -/
def State.tileBound (s : State) (t : Nat) : Bool := (List.range 4).any (fun q => (s.ctx (4 * t + q)).st != .unbound)

/-- A node that does not exist (5), or is retired (4), else 0 (R652). -/
def State.gateNode (s : State) (level t slice : Nat) : Nat :=
  if 4 < level ∨ (level = 4 ∧ 20 < slice) then 5
  else if 1 ≤ level ∧ ((s.hub t).retired = true ∨ (level = 4 ∧ (s.mat t).retired.contains slice = true)) then 4
  else 0

/-- The STATUS of a gate-off command (R652); where several hold, the lowest of 1 to 3. -/
def State.gateOffStatus (s : State) (level t g slice : Nat) : Nat :=
  let h := s.hub t
  let n := s.gateNode level t slice
  let child := match level with
    | 0 => s.liveTiles.any (fun u => (s.hub u).tileOpen)
    | 1 => h.groups != []
    | 2 => h.engines.contains g
    | 3 => g == 0 && (s.mat t).ungated != []
    | _ => false
  let busy := match level with
    | 2 => g == 3 && s.engineBusy t 3
    | 3 => s.engineBusy t g
    | 4 => s.engineBusy t 0
    | _ => false
  if n ≠ 0 then n
  else if child then 1
  else if busy then 2
  else if (level = 2 ∨ level = 3) ∧ g ≤ 2 ∧ s.tileBound t = true then 3
  else 0

/-- GATESTAT after a command. -/
def State.gateStatus (s : State) (st : Nat) (last : Option (Nat × Nat × Nat)) : State :=
  (s.putPower { s.power with gateStatus := st, gateLast := last })

/-- A gate-on command: the node's closed ancestors and the node open, parent before child, engine groups, engines and
slices each held by admission (R651, R652, R657). -/
def execGateOn (level : BitVec 3) (tile : Fin 16) (group : Fin 4) (slice : BitVec 5) (s : State) : Result :=
  let t := tile.val
  let lv := level.toNat
  let n := s.gateNode lv t slice.toNat
  let g := if lv = 4 then 0 else group.val
  let h := s.hub t
  .next (
    if s.boot.phase ≠ 15 then s
    else if n ≠ 0 then s.gateStatus n none
    else
      let s1 := (s.putPower { s.power with modOpen := true })
      let s2 := if 1 ≤ lv then s1.modHub t (fun h => { h with tileOpen := true }) else s1
      let ws := (if 2 ≤ lv ∧ h.groups.contains g = false then [(3, g)] else []) ++
        (if 3 ≤ lv ∧ h.engines.contains g = false then [(3, 4 + g)] else []) ++
        (if lv = 4 ∧ (s.mat t).ungated.contains slice.toNat = false then [(2, slice.toNat)] else [])
      let s3 := ws.foldl (fun s w => s.enqueueWake t w.1 w.2) s2
      s3.gateStatus 0 (ws.getLast?.map (fun w => (t, w.1, w.2))))

/-- A gate-off command: refused with its STATUS, or the node closes (R652). -/
def execGateOff (level : BitVec 3) (tile : Fin 16) (group : Fin 4) (slice : BitVec 5) (s : State) : Result :=
  let t := tile.val
  let g := group.val
  let n := s.gateOffStatus level.toNat t g slice.toNat
  .next (
    if s.boot.phase ≠ 15 then s
    else if n ≠ 0 then s.gateStatus n none
    else
      let s1 := match level.toNat with
        | 0 => (s.putPower { s.power with modOpen := false })
        | 1 => s.modHub t (fun h => { h with tileOpen := false })
        | 2 => s.modHub t (fun h => { h with groups := h.groups.erase g })
        | 3 => s.modHub t (fun h => { h with engines := h.engines.erase g })
        | _ => s.modMat t (fun m => { m with ungated := m.ungated.erase slice.toNat })
      s1.gateStatus 0 none)

/-! ### The governor (13 R512 to R519; 17 R659, R660, R662) -/

/-- Measure 3 put in force or released on every channel, and traced (17 R660; 19 R711). -/
def State.setM3 (s : State) (on : Bool) : State :=
  if s.power.m3 = on then s
  else
    let cs := if on then Tab.updMany (fun _ => {}) (fun c : Channel => { c with nbHold := true }) (List.range 1536) s.chans
      else Tab.mapAll (fun _ => {}) (fun _ c => { c with nbHold := false }) s.chans
    let s1 := ((s.putChans cs).putPower { s.power with m3 := on, m3cnt := if on then satNat 16 (s.power.m3cnt + 1) else s.power.m3cnt })
    s1.trace 8 none 0 0 0 0 s.power.avg 3

/-- Measure 2 put in force or released, and traced. -/
def State.setM2 (s : State) (on : Bool) : State :=
  if s.power.m2 = on then s
  else ((s.putPower { s.power with m2 := on })).trace 8 none 0 0 0 0 s.power.avg 2

/-- CAP_eff under a coolant fault in 50 W units (R662; 00 R3). -/
def State.faultCap (s : State) : Nat := if s.half then 20 else 40

/-- CAP_eff of R659 in 50 W units, limited at low input (R655) and under a coolant fault (R662); NGM9-4608-LC has its own figures (00
R3). -/
def State.capOf (s : State) (input tin flow : Nat) : Nat :=
  let a := s.cfg rPGCFG 0 8
  let b := if s.half then (4600 - 15 * (tin - 400)) / 50 else (9000 - 30 * (tin - 400)) / 50
  let c := if s.half then 4600 * flow / 80 / 50 else 9000 * flow / 160 / 50
  let m := min a (min b c)
  if s.power.coolFault then s.faultCap
  else if input < 400 ∧ s.power.failed = false then min m (if s.half then 82 else 160) else m

/-- SHIFT stands at 16 on every tile (17 R660; 13 R518). -/
def State.shiftFull (s : State) : Bool := s.liveTiles.all (fun t => (s.hub t).shift == 16)

/-- The governor's update every 10 µs, with what telemetry measures: the average in 10 W units, the input in 0.1 V, the
coolant (17 R655, R659, R660). -/
def execPowerAverageUpdate (avg : BitVec 16) (input tin tout flow dp : BitVec 10) (s : State) : Result :=
  let a := avg.toNat * 10
  let cap := s.capOf input.toNat tin.toNat flow.toNat
  let above := decide (cap * 50 < a)
  let low := decide (a < s.inForce 0 rSPLCFG 8 8 * 50)
  .next (
    if s.boot.phase ≠ 15 then s
    else
      let s1 := (s.putPower { s.power with
        avg := avg.toNat, capEff := cap, input := input.toNat, tin := tin.toNat, tout := tout.toNat, flow := flow.toNat, dp := dp.toNat
        overSince := if above then s.power.overSince <|> some s.cyc else none })
      let s2 := if above = true ∧ (s.shiftFull = true ∨ (s.inForce 0 rSPLCFG 24 1 != 0) = false) then s1.setM2 true
        else if low then s1.setM2 false else s1
      if low = true ∧ s.power.coolFault = false then s2.setM3 false else s2)

/-- The average has exceeded CAP_eff for PGCFG.HOLDT: measure 3 (17 R660). -/
def execNearBankHold (s : State) : Result :=
  .next (
    match s.power.overSince with
    | some since => if since + s.cfg rPGCFG 16 4 * 1600000 ≤ s.cyc then s.setM3 true else s
    | none => s)

/-- How SHIFT of a tile moves at the end of a window: `est` above HI raises it, an estimate below LO or a hot stack moves
it (13 R513 to R516). -/
def State.shiftStep (s : State) (t est : Nat) : Int :=
  let sh := (s.hub t).shift
  let dies := ((List.range 6).flatMap (fun k => (s.stack (6 * t + k)).temps))
  let therm := (s.inForce 0 rSPLCFG 25 1 != 0)
  if s.inForce 0 rSPLCFG 0 8 * 5 < est then (if sh < 16 then 1 else 0)
  else if 0 < sh ∧ est < s.inForce 0 rSPLCFG 8 8 * 5 then -1
  else if therm = true ∧ dies.any (fun d => decide (90 < d)) = true then (if -16 < sh then -1 else 0)
  else if therm = true ∧ sh < 0 ∧ dies.all (fun d => decide (d ≤ 85)) = true then 1
  else 0

/-- The charge of each activity at full rate in W, and its full rate in units a microsecond (01 R26; 00 R4): near-bank columns at 1.16 PB/s,
columns of 32 bytes over the stack interface at 157.3 TB/s, slice operand cycles of 320 slices, vector port cycles of 16 engines, 64-byte units
over 48 directed mesh links of 1.5 TB/s, flits over 16 landings both ways at 634.79 GB/s, and 64-byte units over four host ports both ways. What
counts as an activity's rate the spec leaves open (DESIGN CHOICE, log entry 97). The half-populated module's charges and rates are both half. -/
def chargeRows : List (Nat × Nat) :=
  [(4600, 36250000), (1600, 4915625), (4500, 512000), (700, 25600), (300, 1125000), (500, 79349), (100, 16000)]

/-- The governor's estimate of a window of SPLCFG.PERIOD µs, in 10 W units: the base and the charges of what was counted (R512; 01 R26). -/
def State.estimate (s : State) : Nat :=
  let p := max 1 (s.inForce 0 rSPLCFG 16 8)
  let w := chargeRows.zipIdx.map (fun r => r.1.1 * Tab.get (fun _ => 0) s.act r.2 * 1000 / (r.1.2 * p))
  satNat 16 (((if s.half then 550 else 1100) + w.sum / 1000) / 10)

/-- A governor window ends: SHIFT follows the estimate, and the count begins again; SPLCFG takes effect for the next window (13 R512 to R518,
R522). -/
def execGovernorWindowEnd (s : State) : Result :=
  let e := s.estimate
  let ts := s.liveTiles
  let on := (s.inForce 0 rSPLCFG 24 1 != 0)
  let moves := ts.map (fun t => (t, if on then s.shiftStep t e else -(s.hub t).shift))
  let changed := moves.any (fun m => m.2 != 0)
  .next (
    if s.boot.phase ≠ 15 then s
    else
      let s1 := moves.foldl (fun s m => if m.2 = 0 then s else s.modHub m.1 (fun h => { h with shift := h.shift + m.2 })) s
      let s2 := (s1.putPower { s1.power with
        pest := e
        changes := if changed then satNat 16 (s.power.changes + 1) else s.power.changes
        atmax := if on = true ∧ s.power.allMax = true ∧ s.shiftFull = true ∧ s.inForce 0 rSPLCFG 0 8 * 5 < e then satNat 16 (s.power.atmax + 1) else s.power.atmax
        allMax := s1.shiftFull })
      ((if changed then s2.trace 8 none 0 0 0 0 s.power.avg 1 else s2).takeUp 0 [rSPLCFG]).putAct [])

/-- Flow below 8 L/min or inlet above 50 °C for 1 s: CAP_eff at 2.0 kW and measure 3 at once (17 R662). -/
def execCoolantFault (s : State) : Result :=
  .next (
    if s.power.on = false ∨ s.power.coolFault = true then s
    else ((s.putPower { s.power with coolFault := true, capEff := s.faultCap })).setM3 true)

/-- Flow and temperature have been within R661 for 10 s: both holds end (17 R662). -/
def execCoolantRecover (s : State) : Result :=
  .next (
    if s.power.coolFault then
      let s1 := (s.putPower { s.power with coolFault := false })
      ((s1.putPower { s1.power with capEff := s1.capOf s.power.input s.power.tin s.power.flow })).setM3 false
    else s)

/-! ### Temperature (17 R663, R664; 04 R137) -/

/-- Thermal level 0 to 4 from the hottest die and the level before: a level ends 5 °C below its threshold (R663). -/
def thermLevel (old hot : Nat) : Nat :=
  let held (k : Nat) : Bool := decide (80 + 5 * k < hot) || (decide (k ≤ old) && decide (75 + 5 * k < hot))
  if held 4 then 4 else if held 3 then 3 else if held 2 then 2 else if held 1 then 1 else 0

/-- A stack at level 5: requests held, stack self-refresh, recorded (R663). -/
def State.level5 (s : State) (st die hot : Nat) : State :=
  ((s.modStack st (fun k => { k with level := 5, hot16 := true, hold := true })).enterStackSr st).bbox (st / 6) 9 none 63
    [(24, 1, st), (25, 1, die), (26, 1, hot)]

/-- A stack's dies read, once a millisecond: tREFW and the level follow; above 110 °C level 5 begins at once, and it ends at
95 °C (R663; 04 R137). -/
def execDieTempSample (st : Fin 96) (temps : List (BitVec 8)) (s : State) : Result :=
  let ts := temps.map BitVec.toNat
  let hot := ts.foldl max 0
  let die := (ts.idxOf? hot).getD 0
  let k := s.stack st
  .next (
    if ts = [] then s
    else
      let s1 := s.modStack st (fun k => { k with temps := ts })
      if k.level = 5 then
        (if hot ≤ 95 then
          (s1.modStack st (fun k => { k with level := thermLevel 4 hot, hot16 := decide (80 < hot), hold := false })).enqueueWake (st / 6) 0 st
         else s1)
      else if 110 < hot then s1.level5 st die hot
      else
        let l := thermLevel k.level hot
        s1.modStack st (fun k => { k with level := l, hot16 := decide (1 ≤ l), half := k.half && decide (3 ≤ l) }))

/-- A die has stayed above 105 °C for 10 ms: level 5 (R663). -/
def execThermalLevel5Timeout (st : Fin 96) (s : State) : Result :=
  let ts := (s.stack st).temps
  let hot := ts.foldl max 0
  .next (if 105 < hot ∧ (s.stack st).level ≠ 5 then s.level5 st ((ts.idxOf? hot).getD 0) hot else s)

/-- The half of a 10 µs period: near-bank passes on stacks at level 3 or above are held in its second half (R663). -/
def execThermalHalfPeriod (second : Bool) (s : State) : Result :=
  .next (s.putStks (Tab.mapAll (fun _ => {}) (fun _ k => { k with half := second && decide (3 ≤ k.level) }) s.stks))

/-- A hub die above 115 °C: its record of type 0x09 is committed, with every record that waits, every tile converter stops, and
what memory held is lost (20 R745). The record's stack and die are not stated for a hub: free bytes. -/
def State.overheat (s : State) (t c : Nat) : State :=
  let s1 := (s.putFree (s.free + 2)).bbox t 9 none 63 [(24, 1, (Config.freeByte s.free).toNat), (25, 1, (Config.freeByte (s.free + 1)).toNat), (26, 1, c)]
  ((List.range 16).foldl (fun s u => s.modHub u (fun h => { h with bb := h.bb.flush u 66 })) s1).unpowered

/-- A hub die's reading: above 100 °C no slice ungates, above 105 °C no engine step issues, until it reads 95 °C or below; above
115 °C the module's converters stop (R664; 20 R745). -/
def execHubTempSample (t : Fin 16) (temp : BitVec 8) (s : State) : Result :=
  let c := temp.toNat
  .next (
    if 115 < c ∧ s.power.on = true then s.overheat t c
    else s.modHub t (fun h => { h with
      hubT := c
      holdUngate := if 100 < c then true else if c ≤ 95 then false else h.holdUngate
      holdIssue := if 105 < c then true else if c ≤ 95 then false else h.holdIssue }))

/-- ALERT# is to be low (20 R736): the module is out of service, a coolant fault holds, a stack is at level 5, or a tile is off its
crystal. -/
def State.alerting (s : State) : Bool :=
  s.boot.phase != 15 || s.power.coolFault || (List.range 96).any (fun k => (s.stack k).level == 5) ||
    s.tiles.any (fun t => (s.hub t).src != .crystal)

/-- What the module drives on ALERT#: nothing while the always-on rail is down, since the contact is then high-impedance, otherwise low
or released (20 R736, R738). -/
def State.alertPin (s : State) : Option Bool := if s.power.on then some (!s.alerting) else none

/-- ALERT# is driven low (20 R736, R738). -/
def State.alertLow (s : State) : Bool := s.power.on && s.alerting

/-- AON is high while the always-on rail is up (20 R735). -/
def State.aonPin (s : State) : Bool := s.power.on

end Sys2Proof.Machine
end

