-- ==== Sys2Proof/Machine/RegWrite.lean ====
section
/-! DEFINITION. Register writes: the index registers that reset what they select, and every register with no command of
its own (00 R12 to R14 and the register tables of each chapter). -/

namespace Sys2Proof.Machine

/-! ### Index registers that clear what they select -/

/-- A write of `v` to the index register at `off` names a tile, landing, stack, slot or partition that NGM9-4608-LC has not: it is ignored
(00 R3). -/
def State.writesAbsent (s : State) (off v : Nat) : Bool :=
  s.half &&
    (if [rMEIDX, rVEIDX, rFEIDX, rSQIDX, rTRIDX, rCLKIDX, rXLIDX, rPMIDX].contains off then decide (8 ≤ field v 0 4)
     else if off = rBBIDX then decide (8 ≤ field v 14 4)
     else if [rSCIDX, rNBIDX, rSPRIDX].contains off then decide (48 ≤ field v 0 7)
     else if [rPTIDX, rPRSIDX].contains off then decide (32 ≤ field v 0 6)
     else off == rPMAPIDX && decide (3584 ≤ field v 0 13))

/-- The value without the bits of partitions 32 to 63 in the registers that have one bit a partition, on NGM9-4608-LC (00 R3). -/
def State.partBits (s : State) (off v : Nat) : Nat :=
  if s.half ∧ (off = rSPLPIN ∨ off = rTRCPART) then v % 2 ^ 32 else v

/-- NBIDX selects a channel and resets its MAXWAIT (06 R269). -/
def execNbidxWrite (value : BitVec 32) (s : State) : Result :=
  let v := value.toNat
  let s1 := s.setReg 0 rNBIDX (v % 2 ^ 11)
  .next (if s.writesAbsent rNBIDX v then s else if field v 0 7 < 96 then s1.modChan (16 * field v 0 7 + field v 7 4) (fun c => { c with maxWait := 0 }) else s1)

/-- MEIDX selects a tile and clears its MEHOLD (08 R337). -/
def execMeidxWrite (value : BitVec 32) (s : State) : Result :=
  let t := value.toNat % 16
  .next (if s.writesAbsent rMEIDX t then s else (s.setReg 0 rMEIDX t).modMat t (fun m => { m with conflict := 0, fpqHold := 0 }))

/-- VEIDX selects a tile and a context and clears the tile's VEHOLD (09 R382). -/
def execVeidxWrite (value : BitVec 32) (s : State) : Result :=
  let v := value.toNat
  .next (if s.writesAbsent rVEIDX v then s else (s.setReg 0 rVEIDX (v % 2 ^ 6)).modVec (v % 16) (fun m => { m with conflict := 0, fpqHold := 0 }))

/-- FEIDX selects a tile and a channel and clears the channel's FEHOLD (10 R434). -/
def execFeidxWrite (value : BitVec 32) (s : State) : Result :=
  let v := value.toNat
  .next (if s.writesAbsent rFEIDX v then s else (s.setReg 0 rFEIDX (v % 2 ^ 10)).modFchan (field v 0 4 * 16 + field v 4 4) (fun f => { f with bankHold := 0, ovWait := 0 }))

/-- SQIDX selects a context and a register and clears the context's SQCNT (11 R470). -/
def execSqidxWrite (value : BitVec 32) (s : State) : Result :=
  let v := value.toNat
  .next (if s.writesAbsent rSQIDX v then s else (s.setReg 0 rSQIDX (v % 2 ^ 14)).modCtx (4 * field v 0 4 + field v 4 2) (fun x => { x with miss := 0, stall := 0 }))

/-- CLKIDX selects a tile and resets its CLKMON.MIN and MAX and its ADMSTAT.MAXW (17 R665). -/
def execClkidxWrite (value : BitVec 32) (s : State) : Result :=
  let t := value.toNat % 16
  .next (if s.writesAbsent rCLKIDX t then s else (s.setReg 0 rCLKIDX t).modHub t (fun h => { h with monMin := 0x7FF, monMax := 0, maxW := 0 }))

/-! ### Registers with no command of their own -/

/-- The written value with the field [lo + n - 1 : lo] put back to what it was when `bad` holds of the value written. -/
def keepField (lo n : Nat) (bad : Nat → Bool) (old v : Nat) : Nat :=
  if bad (field v lo n) then v - field v lo n * 2 ^ lo + field old lo n * 2 ^ lo else v

/-- A field that ignores a write of zero. -/
def notZero (lo n : Nat) (old v : Nat) : Nat := keepField lo n (fun x => x == 0) old v

/-- The value a write of `v` leaves in the register at `off` that holds `old`, before reserved bits are put aside; none
where the write is ignored as a whole; `half` is NGM9-4608-LC (00 R3; the register tables of R118, R163, R269, R337, R522, R558, R634, R665, R709, R727). -/
def takenValue (half : Bool) (off old v : Nat) : Option Nat :=
  if off = rPCCFG then some (keepField 0 3 (fun x => decide (4 < x)) old v)
  else if off = rSCRBCFG then some (keepField 0 8 (fun x => x == 0 || decide (168 < x)) old v)
  else if off = rSCRBTHR then
    if field v 4 4 < field v 0 4 ∨ field v 8 4 < field v 4 4 ∨ field v 0 4 = 0 ∨ field v 12 2 = 0 ∨ field v 16 12 = 0 then none
    else some v
  else if off = rSCHCFG then if field v 16 6 ≤ field v 22 6 then none else some v
  else if off = rARBCFG then some (keepField 0 16 (fun x => decide (x < 100)) old v)
  else if off = rARBHOST then some (notZero 0 8 old v)
  else if off = rARBNBS then some (notZero 0 4 old v)
  else if off = rARBFER then some (keepField 8 8 (fun x => decide (x < 68)) old (notZero 0 8 old v))
  else if off = rRDCFG then
    some (keepField 0 3 (fun x => decide (4 < x)) old (keepField 4 8 (fun x => decide (x < 5)) old (notZero 12 8 old v)))
  else if off = rHOTCFG then some (notZero 0 8 old v)
  else if off = rTRNCFG then if field v 14 6 < field v 8 6 then none else some (notZero 0 8 old v)
  else if off = rNBCFG then some (keepField 0 4 (fun x => x == 0 || decide (8 < x)) old v)
  else if off = rMECFG then some (notZero 16 4 old (notZero 20 8 old v))
  else if off = rSPLCFG then if field v 0 8 ≤ field v 8 8 ∨ (if half then 92 else 180) < field v 0 8 then none else some (notZero 16 8 old v)
  else if off = rCOHCFG then some (notZero 8 8 old v)
  else if off = rXLCFG then
    some (keepField 8 4 (fun x => decide (x < 3)) old (notZero 12 8 old (notZero 20 8 old v)))
  else if off = rPGCFG then
    if field v 8 8 < field v 0 8 then none
    else some (keepField 0 8 (fun x => decide ((if half then 92 else 180) < x)) old (keepField 8 8 (fun x => decide ((if half then 108 else 210) < x)) old (notZero 16 4 old v)))
  else if off = rRCVCFG then some (notZero 2 8 old v)
  else if off = rTMCFG then some (notZero 0 8 old (notZero 8 16 old v))
  else some v

/-- Registers whose writes are commands of their own: NBIDX, MEIDX, VEIDX, FEIDX, SQIDX, CLKIDX, TRCCTL and PMCTL. -/
def ownRow (off : Nat) : Bool :=
  [rNBIDX, rMEIDX, rVEIDX, rFEIDX, rSQIDX, rCLKIDX, rTRCCTL, rPMCTL].contains off

/-- A write to a register that State keeps as its stored fields: HILCFGn.POS is fixed while committed (02 R47), TRCBASE while
TRCCTL.EN is 1 (19 R727); every other write takes its writable bits (00 R14). -/
def State.storedWrite (s : State) (p off v : Nat) : State :=
  let fixed := (decide (off = rHILCFG) && (s.hport p).commit) || (decide (off = rTRCBASE) && flag (s.reg p rTRCCTL) 0)
  match regRow off, takenValue s.half off (s.reg p off) (s.partBits off v) with
  | some r, some x => if s.writesAbsent off v ∨ fixed ∨ ownRow off then s else s.setReg p off (rwMerge r (s.reg p off) x)
  | _, _ => s

/-- The group table entry that GRPIDX selects, written: ignored while an instance is in flight, and a written entry starts
its instance counts again (16 R628, R634). -/
def State.groupWrite (s : State) (f : Group → Group) : State :=
  let g := s.cfg rGRPIDX 0 6
  if (s.group g).insts.isEmpty then
    (s.modGroup g (fun x => { f x with failed := [] })).putCtxs
      (Tab.mapAll (fun _ => {}) (fun _ c => { c with ginst := Tab.erase c.ginst g }) s.ctxs)
  else s

/-- A write to a register of the PF region that is not a stored configuration field: HILCFGn.MISROUTE, VEXC, XADDAT, the
group table, PMSEL and RSTCMD (02 R73; 09 R382; 16 R634; 18 R709; 19 R727). -/
def State.specialWrite (s : State) (p off v : Nat) : State :=
  if off = rHILCFG then if flag v 18 then s.modHport p (fun h => { h with misroute := false }) else s
  else if off = 0x6010 then
    s.modVfile (4 * s.cfg rVEIDX 0 4 + s.cfg rVEIDX 4 2) (fun f => { f with exc := f.exc &&& ~~~ (BitVec.ofNat 7 v) })
  else if off = 0xC02C then s.modAdmit (s.cfg rXADIDX 0 8) (fun _ => BitVec.ofNat 32 (field v 0 20))
  else if off = 0xC038 then s.groupWrite (fun g => { g with mods := BitVec.ofNat 64 v })
  else if off = 0xC040 then s.groupWrite (fun g => { g with ctxs := BitVec.ofNat 64 (if s.half then v % 2 ^ 32 else v) })
  else if off = 0xC048 then s.groupWrite (fun g => { g with dat2 := BitVec.ofNat 32 (field v 0 29) })
  else if off = 0xF068 then
    s.modCounter (16 * s.cfg rPMIDX 0 4 + s.cfg rPMIDX 4 4) (fun c =>
      { c with sel := BitVec.ofNat 32 (field v 0 15) ||| (c.sel &&& 0x8000#32 &&& ~~~ (BitVec.ofNat 32 v)) })
  else if off = 0xE008 then
    if field v 0 16 = 0xC35A ∧ flag v 16 = true then (s.putBoot { s.boot with want := some 2 }) else s
  else s

/-- The bits an address register of a set-up page keeps: HPA bits [51:6] (15 R567). -/
def hpaBits (v : Nat) : BitVec 64 := BitVec.ofNat 64 (field v 6 46 * 64)

/-- A write to a set-up page: RINGSZ, the address registers and MBXCFG are ignored while EN is 1, and every other offset
but SUCTL's is ignored (15 R566, R567). MBXH2D keeps what either reading of it needs, a shared slot and its offset or an HPA;
MBXCFG says which bits it shows. -/
def Page.write (g : Page) (off v : Nat) : Page :=
  if g.en then g
  else if off = 0x00C then { g with ringsz := BitVec.ofNat 32 (v &&& 0x001F1F1F) }
  else if off = 0x010 then { g with sqbase := hpaBits v }
  else if off = 0x018 then { g with cqbase := hpaBits v }
  else if off = 0x020 then { g with eqbase := hpaBits v }
  else if off = 0x028 then { g with dbaddr := hpaBits v }
  else if off = 0x030 then { g with rcaddr := hpaBits v }
  else if off = 0x038 then { g with mbxh2d := BitVec.ofNat 64 (field v 0 52) }
  else if off = 0x040 then { g with mbxd2h := hpaBits v }
  else if off = 0x048 then { g with mbxcfg := BitVec.ofNat 32 (field v 0 2) }
  else g

/-- A write to a register with no command of its own, through the PF of a port (`vf` 0) or the set-up page of one of its VFs.
A port whose tile is retired does not answer (14 R527), a VF that serves no partition holds no rings, offsets that name no
register and reserved bits are ignored (00 R14; 14 R525, R526; 15 R566, R597). A changed PCCFG.DEFCODE has the strength of every slot
without a request examined again (03 R110). -/
def execRegisterWrite (port : Fin 4) (vf : Fin 17) (off : BitVec 24) (value : BitVec 64) (s : State) : Result :=
  let p := port.val
  let k := 17 * p + vf.val
  let o := off.toNat
  let v := value.toNat
  .next (
    if (s.hport p).gone then s
    else if vf.val ≠ 0 then if (s.partOfPage k).isSome then s.modPage k (fun g => g.write o v) else s
    else if 0xB100 ≤ o ∧ o < 0xB140 then s.modPage k (fun g => g.write (o - 0xB100) v)
    else
      let s1 := (s.storedWrite p o v).specialWrite p o v
      if o = rPCCFG ∧ s1.reg 0 rPCCFG ≠ s.reg 0 rPCCFG then s1.reviewAll else s1)

end Sys2Proof.Machine
end

