-- ==== Sys2Proof/Machine/Remote.lean ====
section
/-! DEFINITION. Remote access over crossing links: requests of other modules, their answers, and time-outs (16 R619 to
R625). -/

namespace Sys2Proof.Machine

/-! ### Requests at the target (R620 to R623) -/

/-- A partition's resources that a remote request may reach: its slots of bulk or shared class, or the windows of its
contexts (R620; 10 R389). -/
def State.remReach (s : State) (r : RemReq) (p : Nat) : Bool :=
  if r.sp then
    r.sas.all (fun a =>
      let x := s.slot (a / slotBytes)
      decide (a < s.space) && x.owner == some p && x.cls != .devOnly)
  else
    let ws := ((List.range 4).map (fun q => s.ctx (4 * r.tile + q))).filterMap (fun x =>
      if x.part = some p ∧ x.st ≠ .unbound then some x.window else none)
    rangeCovered 4 ws (r.sp0 : Int) ((r.sp0 + 64 * r.lines - 1 : Nat) : Int)

/-- The local partition through which the admission table lets a request in (R620). -/
def State.admitted (s : State) (r : RemReq) (write : Bool) : Option Nat :=
  (List.range 256).findSome? (fun e =>
    let w := (s.admission e).toNat
    if flag w 19 ∧ field w 0 6 = r.mod ∧ field w 6 6 = r.part ∧ (write = false ∨ flag w 18) ∧ s.remReach r (field w 12 6) = true then
      some (field w 12 6)
    else none)

/-- A remote read request: forwarded, refused, or served (R613, R620, R621, R624). -/
def execRemoteRd (land : Fin 16) (hdr : BitVec 128) (s : State) : Result :=
  let w := hdr.toNat
  let r := remReq hdr
  .next (
    if (s.landing land).up = false ∨ field w 0 4 ≠ 2 ∨ r.lines = 0 ∨ 4 < r.lines then s
    else if field w 8 6 ≠ s.boot.modid then s.forward land hdr []
    else match s.admitted r false with
      | none => (s.freeRx land hdr 0).reply hdr 4 0 1 0 []
      | some p => s.remoteRead land hdr [] p)

/-- A remote write request: forwarded, refused, or performed and acknowledged (R613, R620 to R623). -/
def execRemoteWr (land : Fin 16) (hdr : BitVec 128) (data : List (BitVec 512)) (s : State) : Result :=
  let w := hdr.toNat
  let r := remReq hdr
  .next (
    if (s.landing land).up = false ∨ field w 0 4 ≠ 3 ∨ r.lines = 0 ∨ 4 < r.lines then s
    else if field w 8 6 ≠ s.boot.modid then s.forward land hdr ((data.take r.lines).flatMap lineBytes)
    else match s.admitted r true with
      | none => (s.freeRx land hdr (64 * r.lines)).reply hdr 5 0 1 0 []
      | some p => s.remoteWrite land hdr data [] p)

/-! ### Answers to snoops (14 R539 to R541) -/

/-- The host answers the snoop outstanding on a line, with its modified data where it held the line modified; the held
access proceeds (14 R539, R540). -/
def execBiResponse (t : Fin 16) (line : BitVec 37) (data : Option (BitVec 512)) (s : State) : Result :=
  .next (
    match (s.dir t).find? (fun e => e.line == line.toNat && e.snoop != 0) with
    | none => s
    | some e =>
      let s1 := match data with
        | some d => s.homeWrite (line.toNat * 64) d (BitVec.allOnes 64) false
        | none => s
      let s2 := s1.modDir t (fun es =>
        if e.snoop = 2 then es.filter (fun x => x.line != line.toNat)
        else es.map (fun x => if x.line == line.toNat then { x with modified := false, snoop := 0, wait := none } else x))
      match e.wait with
      | some w => s2.release w (match w.remote with | some q => q.2.2.2 | none => [])
      | none => s2)

/-- A snoop unanswered for COHCFG.BITMO: the device access completes with the line poisoned, or its write of the line is discarded, logged with
kind 0x03; the directory entry is kept (14 R541). -/
def execBiTimeout (t : Fin 16) (line : BitVec 37) (s : State) : Result :=
  .next (
    match (s.dir t).find? (fun e => e.line == line.toNat && e.snoop != 0) with
    | none => s
    | some e =>
      let sa := line.toNat * 64
      let s1 := s.modDir t (fun es => es.map (fun x => if x.line == line.toNat then { x with snoop := 0, wait := none } else x))
      let s2 := (s1.putLogs { s1.logs with bitmout := satNat 16 (s1.logs.bitmout + 1) })
      let part := e.wait.bind (fun w => w.part)
      let s3 := s2.logError (s.lineOfSa sa) 127 3 7 127 part sa
      match e.wait with
      | some w =>
        match w.ferry, w.host with
        | some f, _ => s3.modFchan (16 * f.1 + f.2) (fun c => { c with biWait := false, biBad := line.toNat :: c.biBad })
        | none, some _ => s3.answer { kind := 1, data := List.replicate 64 0, poison := true }
        | none, none => s3.release w (line.toNat :: (match w.remote with | some q => q.2.2.2 | none => []))
      | none => s3)

/-! ### Answers at the initiator (R620, R622, R624) -/

/-- The outstanding transaction that an answer names by stream and tag. -/
def State.answered (s : State) (h : BitVec 128) (write : Bool) : Option Xact :=
  let w := h.toNat
  s.xacts.find? (fun x => x.write == write && x.tag == field w 36 16 && 16 * x.tile + x.ch == field w 28 8)

/-- The place FCADDR shows for a transaction. -/
def Xact.fc (x : Xact) : Nat × Nat × Nat × Nat := (x.addr, if x.sp then 2 else 1, x.mtile, x.dst)

/-- The lines of a read answer taken into the channel's stage. -/
def Xact.taken (x : Xact) (f : FeChan) (data : List (BitVec 512)) (pois : Nat) : FeChan :=
  let key (i b : Nat) : Nat := Spot.key { kind := if x.sp then 5 else 4, tile := if x.sp then 0 else x.mtile, mod := x.dst, addr := x.addr + 64 * i + b }
  { f with stage := (List.range x.lines).foldl (fun st i =>
      (lineBytes (data.getD i 0)).zipIdx.foldl (fun st p => Tab.put (Tab.erase st (key i p.2)) (key i p.2) (p.1, flag pois i)) st) f.stage }

/-- A read response: its lines go to the initiating channel with their poison, or the refusal halts it with fault 0x4
(R620, R624). -/
def execRdr (land : Fin 16) (hdr : BitVec 128) (data : List (BitVec 512)) (s : State) : Result :=
  let w := hdr.toNat
  let st := field w 101 4
  .next (
    if (s.landing land).up = false ∨ field w 0 4 ≠ 4 then s
    else if field w 8 6 ≠ s.boot.modid then s.forward land hdr (data.flatMap lineBytes)
    else match s.answered hdr false with
      | none => s.freeRx land hdr (64 * data.length)
      | some x =>
        let s1 := ((s.freeRx land hdr (64 * data.length)).dropXact x).viaMesh land x.tile x.lines
        if st = 1 then s1.ferryFault x.tile x.ch 4 1 x.fc
        else if st = 3 then s1.ferryFault x.tile x.ch 5 1 x.fc
        else
          let s2 := s1.modFchan (16 * x.tile + x.ch) (fun f => x.taken f data (field w 105 4))
          (State.pump 64 x.tile x.ch s2).ferryGo x.tile x.ch)

/-- A write acknowledgement: counted toward the step's completion, or the refusal is a late failure and halts the channel
with fault 0x4 (R620, R622; 14 R552). -/
def execWack (land : Fin 16) (hdr : BitVec 128) (s : State) : Result :=
  let w := hdr.toNat
  .next (
    if (s.landing land).up = false ∨ field w 0 4 ≠ 5 then s
    else if field w 8 6 ≠ s.boot.modid then s.forward land hdr []
    else match s.answered hdr true with
      | none => s.freeRx land hdr 0
      | some x =>
        let s1 := (s.freeRx land hdr 0).dropXact x
        if field w 101 4 = 1 then
          (s1.lateFail 6 3 land (some x.part) x.dst x.addr 0).ferryFault x.tile x.ch 4 2 x.fc
        else State.pump 64 x.tile x.ch s1)

/-- A late-failure notice: logged at the initiator with SRCK 3, and its event posted (R622; 14 R551). `target` is the
module that sends it, which the header does not name. -/
def execLfn (land : Fin 16) (hdr : BitVec 128) (target : BitVec 6) (s : State) : Result :=
  let w := hdr.toNat
  .next (
    if (s.landing land).up = false ∨ field w 0 4 ≠ 6 then s
    else if field w 8 6 ≠ s.boot.modid then s.forward land hdr []
    else (s.freeRx land hdr 0).lateFail 1 3 land (some (field w 20 6)) target.toNat (field w 52 48) 0)

/-- A transaction without an answer within XLCFG.TTMO fails (R624). -/
def execTransactionTimeout (tile : Fin 16) (ch : Fin 16) (tag : BitVec 16) (s : State) : Result :=
  .next (
    match (s.outstanding tile ch).find? (fun x => x.tag == tag.toNat) with
    | none => s
    | some x => if x.issued + s.cfg rXLCFG 12 8 * 16000 ≤ s.cyc then s.failXact x else s)

end Sys2Proof.Machine
end

