-- ==== Sys2Proof/Machine/Dispatch.lean ====
section
/-! DEFINITION. The dispatch: one arm for each command, each one direct call of its meaning. -/

namespace Sys2Proof.Machine

/-- The effect of a command on everything but the queue of waiting commands. -/
def exec (i : Instr) (s : State) : Host.Outcome State Fault Refusal :=
  match i with
  | .powerOn r => Sys2Proof.Machine.execPowerOn r s
  | .crystalQualified t => Sys2Proof.Machine.execCrystalQualified t s
  | .crystalQualifyTimeout t => Sys2Proof.Machine.execCrystalQualifyTimeout t s
  | .coolantQualified => Sys2Proof.Machine.execCoolantQualified s
  | .powerFail input tokens => Sys2Proof.Machine.execPowerFail input tokens s
  | .powerReturn r => Sys2Proof.Machine.execPowerReturn r s
  | .inputLoss => Sys2Proof.Machine.execInputLoss s
  | .warmReset r => Sys2Proof.Machine.execWarmReset r s
  | .watchdogExpiry t r => Sys2Proof.Machine.execWatchdogExpiry t r s
  | .crystalAmplitudeLost t => Sys2Proof.Machine.execCrystalAmplitudeLost t s
  | .edgeCountWindowEnd t n => Sys2Proof.Machine.execEdgeCountWindowEnd t n s
  | .standbyPllLock t => Sys2Proof.Machine.execStandbyPllLock t s
  | .domainSwitch t => Sys2Proof.Machine.execDomainSwitch t s
  | .forwardedReferenceLost t => Sys2Proof.Machine.execForwardedReferenceLost t s
  | .timestampSync t diff => Sys2Proof.Machine.execTimestampSync t diff s
  | .timestampCheckpoint => Sys2Proof.Machine.execTimestampCheckpoint s
  | .ptmExchange h => Sys2Proof.Machine.execPtmExchange h s
  | .powerAverageUpdate avg input tin tout flow dp => Sys2Proof.Machine.execPowerAverageUpdate avg input tin tout flow dp s
  | .nearBankHold => Sys2Proof.Machine.execNearBankHold s
  | .governorWindowEnd => Sys2Proof.Machine.execGovernorWindowEnd s
  | .coolantFault => Sys2Proof.Machine.execCoolantFault s
  | .coolantRecover => Sys2Proof.Machine.execCoolantRecover s
  | .dieTempSample st temps => Sys2Proof.Machine.execDieTempSample st temps s
  | .thermalLevel5Timeout st => Sys2Proof.Machine.execThermalLevel5Timeout st s
  | .thermalHalfPeriod second => Sys2Proof.Machine.execThermalHalfPeriod second s
  | .hubTempSample t temp => Sys2Proof.Machine.execHubTempSample t temp s
  | .admissionGrant t kind => Sys2Proof.Machine.execAdmissionGrant t kind s
  | .gateOn level tile group slice => Sys2Proof.Machine.execGateOn level tile group slice s
  | .gateOff level tile group slice => Sys2Proof.Machine.execGateOff level tile group slice s
  | .sliceGate tile slice => Sys2Proof.Machine.execSliceGate tile slice s
  | .sliceUngate tile slice => Sys2Proof.Machine.execSliceUngate tile slice s
  | .cxlMemRead p hpa own => Sys2Proof.Machine.execCxlMemRead p hpa own s
  | .cxlMemWrite p hpa data mask => Sys2Proof.Machine.execCxlMemWrite p hpa data mask s
  | .decoderCommit p iw ig base size => Sys2Proof.Machine.execDecoderCommit p iw ig base size s
  | .decoderUncommit p => Sys2Proof.Machine.execDecoderUncommit p s
  | .biResponse t line data => Sys2Proof.Machine.execBiResponse t line data s
  | .biTimeout t line => Sys2Proof.Machine.execBiTimeout t line s
  | .snpinv page line => Sys2Proof.Machine.execSnpinv page line s
  | .watchedLineRead page line data => Sys2Proof.Machine.execWatchedLineRead page line data s
  | .descriptorFetch page data ok => Sys2Proof.Machine.execDescriptorFetch page data ok s
  | .flagPerform src part => Sys2Proof.Machine.execFlagPerform src part s
  | .pdrainRead p vf => Sys2Proof.Machine.execPdrainRead p vf s
  | .cohstatRead p => Sys2Proof.Machine.execCohstatRead p s
  | .aptdatWrite p value => Sys2Proof.Machine.execAptdatWrite p value s
  | .peerApertureRead p e off => Sys2Proof.Machine.execPeerApertureRead p e off s
  | .peerApertureWrite p e off data mask => Sys2Proof.Machine.execPeerApertureWrite p e off data mask s
  | .getMeasurements p => Sys2Proof.Machine.execGetMeasurements p s
  | .getCertificate p => Sys2Proof.Machine.execGetCertificate p s
  | .portLinkDown p tokens => Sys2Proof.Machine.execPortLinkDown p tokens s
  | .hotReset p kind tokens => Sys2Proof.Machine.execHotReset p kind tokens s
  | .perstAssert p tokens => Sys2Proof.Machine.execPerstAssert p tokens s
  | .functionLevelReset p vf => Sys2Proof.Machine.execFunctionLevelReset p vf s
  | .partitionReset p => Sys2Proof.Machine.execPartitionReset p s
  | .slotClear slot => Sys2Proof.Machine.execSlotClear slot s
  | .slotClearDone slot => Sys2Proof.Machine.execSlotClearDone slot s
  | .suctlWrite page value => Sys2Proof.Machine.execSuctlWrite page value s
  | .start page => Sys2Proof.Machine.execStart page s
  | .halt page => Sys2Proof.Machine.execHalt page s
  | .load page tile => Sys2Proof.Machine.execLoad page tile s
  | .bind page => Sys2Proof.Machine.execBind page s
  | .unbind page => Sys2Proof.Machine.execUnbind page s
  | .discard page => Sys2Proof.Machine.execDiscard page s
  | .copy page => Sys2Proof.Machine.execCopy page s
  | .flush page => Sys2Proof.Machine.execFlush page s
  | .code page => Sys2Proof.Machine.execCode page s
  | .fence page => Sys2Proof.Machine.execFence page s
  | .reset page => Sys2Proof.Machine.execReset page s
  | .attach page => Sys2Proof.Machine.execAttach page s
  | .pcreate page => Sys2Proof.Machine.execPcreate page s
  | .pdestroy page => Sys2Proof.Machine.execPdestroy page s
  | .pslot page => Sys2Proof.Machine.execPslot page s
  | .pctx page => Sys2Proof.Machine.execPctx page s
  | .pvf page => Sys2Proof.Machine.execPvf page s
  | .stepFetch ctx index => Sys2Proof.Machine.execStepFetch ctx index s
  | .nop ctx => Sys2Proof.Machine.execNop ctx s
  | .endStep ctx => Sys2Proof.Machine.execEnd ctx s
  | .replay ctx => Sys2Proof.Machine.execReplay ctx s
  | .replayRepeat ctx => Sys2Proof.Machine.execReplayRepeat ctx s
  | .xld ctx => Sys2Proof.Machine.execXld ctx s
  | .xst ctx => Sys2Proof.Machine.execXst ctx s
  | .xset ctx => Sys2Proof.Machine.execXset ctx s
  | .amov ctx => Sys2Proof.Machine.execAmov ctx s
  | .cmset ctx => Sys2Proof.Machine.execCmset ctx s
  | .split ctx => Sys2Proof.Machine.execSplit ctx s
  | .mbxr ctx => Sys2Proof.Machine.execMbxr ctx s
  | .mbxw ctx => Sys2Proof.Machine.execMbxw ctx s
  | .event ctx => Sys2Proof.Machine.execEvent ctx s
  | .scratchpadAccessEnd ctx => Sys2Proof.Machine.execScratchpadAccessEnd ctx s
  | .mmul ctx => Sys2Proof.Machine.execMmul ctx s
  | .mwake ctx => Sys2Proof.Machine.execMwake ctx s
  | .meStepStart tile => Sys2Proof.Machine.execMeStepStart tile s
  | .meWaveStart tile => Sys2Proof.Machine.execMeWaveStart tile s
  | .fpqPanelEntry tile => Sys2Proof.Machine.execFpqPanelEntry tile s
  | .keepmaxExpiry tile => Sys2Proof.Machine.execKeepmaxExpiry tile s
  | .peMismatch tile pos => Sys2Proof.Machine.execPeMismatch tile pos s
  | .sliceTestDone tile pass => Sys2Proof.Machine.execSliceTestDone tile pass s
  | .sliceSwapTest tile => Sys2Proof.Machine.execSliceSwapTest tile s
  | .vchain ctx => Sys2Proof.Machine.execVchain ctx s
  | .veStepStart tile => Sys2Proof.Machine.execVeStepStart tile s
  | .vePanelEntry tile => Sys2Proof.Machine.execVePanelEntry tile s
  | .veStepComplete tile => Sys2Proof.Machine.execVeStepComplete tile s
  | .fcopy ctx => Sys2Proof.Machine.execFcopy ctx s
  | .fxpose ctx => Sys2Proof.Machine.execFxpose ctx s
  | .fgather ctx => Sys2Proof.Machine.execFgather ctx s
  | .fscatter ctx => Sys2Proof.Machine.execFscatter ctx s
  | .ferryStepStart tile chan host bad => Sys2Proof.Machine.execFerryStepStart tile chan host bad s
  | .overlapHoldGrant tile chan => Sys2Proof.Machine.execOverlapHoldGrant tile chan s
  | .ferryStepComplete tile chan => Sys2Proof.Machine.execFerryStepComplete tile chan s
  | .ferryFault tile chan fault operand addr space at_ module => Sys2Proof.Machine.execFerryFault tile chan fault operand addr space at_ module s
  | .nbpass ctx => Sys2Proof.Machine.execNbpass ctx s
  | .nbPass ch ctx entry round cell span => Sys2Proof.Machine.execNbPass ch ctx entry round cell span s
  | .nbpassComplete ctx => Sys2Proof.Machine.execNbpassComplete ctx s
  | .yieldPoint ch => Sys2Proof.Machine.execYieldPoint ch s
  | .passAbandon ch => Sys2Proof.Machine.execPassAbandon ch s
  | .blockFold ch j => Sys2Proof.Machine.execBlockFold ch j s
  | .recomputeRebuild tile => Sys2Proof.Machine.execRecomputeRebuild tile s
  | .recomputeDone tile => Sys2Proof.Machine.execRecomputeDone tile s
  | .cruDrain ch buf => Sys2Proof.Machine.execCruDrain ch buf s
  | .nbrdyRise ch => Sys2Proof.Machine.execNbrdyRise ch s
  | .rowNop ch => Sys2Proof.Machine.execRowNop ch s
  | .act ch rank bank row who => Sys2Proof.Machine.execAct ch rank bank row who s
  | .pre ch rank bank both => Sys2Proof.Machine.execPre ch rank bank both s
  | .ref ch rank bank => Sys2Proof.Machine.execRef ch rank bank s
  | .powerDownEntry ch rank => Sys2Proof.Machine.execPowerDownEntry ch rank s
  | .selfRefreshEntry ch rank => Sys2Proof.Machine.execSelfRefreshEntry ch rank s
  | .stackSelfRefreshEntry st => Sys2Proof.Machine.execStackSelfRefreshEntry st s
  | .stackSelfRefreshExit st => Sys2Proof.Machine.execStackSelfRefreshExit st s
  | .mrw ch rank allr reg value => Sys2Proof.Machine.execMrw ch rank allr reg value s
  | .nbe ch => Sys2Proof.Machine.execNbe ch s
  | .nbx ch => Sys2Proof.Machine.execNbx ch s
  | .aha ch rank bank row => Sys2Proof.Machine.execAha ch rank bank row s
  | .swt ch => Sys2Proof.Machine.execSwt ch s
  | .nrf ch => Sys2Proof.Machine.execNrf ch s
  | .nnr ch rank bank => Sys2Proof.Machine.execNnr ch rank bank s
  | .bbq ch q => Sys2Proof.Machine.execBbq ch q s
  | .columnNop ch => Sys2Proof.Machine.execColumnNop ch s
  | .rd ch rank bank col ap => Sys2Proof.Machine.execRd ch rank bank col ap s
  | .wr ch rank bank col ap data => Sys2Proof.Machine.execWr ch rank bank col ap data s
  | .mrr ch rank reg => Sys2Proof.Machine.execMrr ch rank reg s
  | .ccl ch col => Sys2Proof.Machine.execCcl ch col s
  | .bbw ch data flips => Sys2Proof.Machine.execBbw ch data flips s
  | .cfgw ch rank beat => Sys2Proof.Machine.execCfgw ch rank beat s
  | .acr ch rank bank group buf flips => Sys2Proof.Machine.execAcr ch rank bank group buf flips s
  | .acl ch rank allr mask => Sys2Proof.Machine.execAcl ch rank allr mask s
  | .str ch rank flips => Sys2Proof.Machine.execStr ch rank flips s
  | .rowDisturbanceAlert ch j => Sys2Proof.Machine.execRowDisturbanceAlert ch j s
  | .throttleHoldEnd ch who j => Sys2Proof.Machine.execThrottleHoldEnd ch who j s
  | .owedWordlineRefresh ch j => Sys2Proof.Machine.execOwedWordlineRefresh ch j s
  | .commandErrorAlert ch column word data who write line path => Sys2Proof.Machine.execCommandErrorAlert ch column word data who write line path s
  | .commandReissue ch accepted => Sys2Proof.Machine.execCommandReissue ch accepted s
  | .channelAccept ch who part j row pair write data mask poison => Sys2Proof.Machine.execChannelAccept ch who part j row pair write data mask poison s
  | .arbitrationPoint ch => Sys2Proof.Machine.execArbitrationPoint ch s
  | .arbWindowEnd => Sys2Proof.Machine.execArbWindowEnd s
  | .writeDrain ch read => Sys2Proof.Machine.execWriteDrain ch read s
  | .rowCloseTimeout ch j => Sys2Proof.Machine.execRowCloseTimeout ch j s
  | .refreshDue ch j postpone => Sys2Proof.Machine.execRefreshDue ch j postpone s
  | .hotBankWindowEnd ch => Sys2Proof.Machine.execHotBankWindowEnd ch s
  | .recentre ch runs sweeps => Sys2Proof.Machine.execRecentre ch runs sweeps s
  | .fullRowDecode st => Sys2Proof.Machine.execFullRowDecode st s
  | .fullRowDecodeDone st => Sys2Proof.Machine.execFullRowDecodeDone st s
  | .scrubPassStart => Sys2Proof.Machine.execScrubPassStart s
  | .scrubRow ch => Sys2Proof.Machine.execScrubRow ch s
  | .scrubRankWake ch rank => Sys2Proof.Machine.execScrubRankWake ch rank s
  | .repairFlip st => Sys2Proof.Machine.execRepairFlip st s
  | .reencodeRow p => Sys2Proof.Machine.execReencodeRow p s
  | .slotMove slot => Sys2Proof.Machine.execSlotMove slot s
  | .slotMoveFlip slot => Sys2Proof.Machine.execSlotMoveFlip slot s
  | .hashRecordWrite masks => Sys2Proof.Machine.execHashRecordWrite masks s
  | .modidDkeyWrite modid dkey => Sys2Proof.Machine.execModidDkeyWrite modid dkey s
  | .tileRetire t cause readable => Sys2Proof.Machine.execTileRetire t cause readable s
  | .spareTest st kind rank half inStack idx pass => Sys2Proof.Machine.execSpareTest st kind rank half inStack idx pass s
  | .swapTestReturn st inStack => Sys2Proof.Machine.execSwapTestReturn st inStack s
  | .swapTestDone st pass => Sys2Proof.Machine.execSwapTestDone st pass s
  | .scratchpadCorrectWriteback tile word uncorrectable => Sys2Proof.Machine.execScratchpadCorrectWriteback tile word uncorrectable s
  | .windowClearDone c => Sys2Proof.Machine.execWindowClearDone c s
  | .translate tile image ok native map => Sys2Proof.Machine.execTranslate tile image ok native map s
  | .translationEnd tile => Sys2Proof.Machine.execTranslationEnd tile s
  | .gbar ctx => Sys2Proof.Machine.execGbar ctx s
  | .gbcast ctx => Sys2Proof.Machine.execGbcast ctx s
  | .gred ctx => Sys2Proof.Machine.execGred ctx s
  | .gsnap ctx => Sys2Proof.Machine.execGsnap ctx s
  | .globalOpComplete ctx => Sys2Proof.Machine.execGlobalOpComplete ctx s
  | .globalTimeout group => Sys2Proof.Machine.execGlobalTimeout group s
  | .flitReceive l flit fixed uncw => Sys2Proof.Machine.execFlitReceive l flit fixed uncw s
  | .linkControl l msg level => Sys2Proof.Machine.execLinkControl l msg level s
  | .ackSend l => Sys2Proof.Machine.execAckSend l s
  | .replayTimeout l => Sys2Proof.Machine.execReplayTimeout l s
  | .remoteRd land hdr => Sys2Proof.Machine.execRemoteRd land hdr s
  | .remoteWr land hdr data => Sys2Proof.Machine.execRemoteWr land hdr data s
  | .rdr land hdr data => Sys2Proof.Machine.execRdr land hdr data s
  | .wack land hdr => Sys2Proof.Machine.execWack land hdr s
  | .lfn land hdr target => Sys2Proof.Machine.execLfn land hdr target s
  | .gop land hdr group inst op scope rtype bytes mods gkey root result sat data pois => Sys2Proof.Machine.execGop land hdr group inst op scope rtype bytes mods gkey root result sat data pois s
  | .transactionTimeout tile ch tag => Sys2Proof.Machine.execTransactionTimeout tile ch tag s
  | .landingTrain l peer peerKey peerL good => Sys2Proof.Machine.execLandingTrain l peer peerKey peerL good s
  | .landingDown l => Sys2Proof.Machine.execLandingDown l s
  | .laneSpare l lane => Sys2Proof.Machine.execLaneSpare l lane s
  | .laneSwapTest l => Sys2Proof.Machine.execLaneSwapTest l s
  | .laneCheckDone l lane pass => Sys2Proof.Machine.execLaneCheckDone l lane pass s
  | .xrtdatWrite value => Sys2Proof.Machine.execXrtdatWrite value s
  | .cblprsFall l => Sys2Proof.Machine.execCblprsFall l s
  | .cblprsRise l => Sys2Proof.Machine.execCblprsRise l s
  | .cableOvercurrent l => Sys2Proof.Machine.execCableOvercurrent l s
  | .verify image => Sys2Proof.Machine.execVerify image s
  | .handover => Sys2Proof.Machine.execHandover s
  | .revert => Sys2Proof.Machine.execRevert s
  | .probationEnd fail => Sys2Proof.Machine.execProbationEnd fail s
  | .blackBoxCommit t => Sys2Proof.Machine.execBlackBoxCommit t s
  | .traceRecordObserved p => Sys2Proof.Machine.execTraceRecordObserved p s
  | .trcctlWrite p value => Sys2Proof.Machine.execTrcctlWrite p value s
  | .counterFreeze => Sys2Proof.Machine.execCounterFreeze s
  | .counterRestart => Sys2Proof.Machine.execCounterRestart s
  | .counterClear => Sys2Proof.Machine.execCounterClear s
  | .nbidxWrite value => Sys2Proof.Machine.execNbidxWrite value s
  | .meidxWrite value => Sys2Proof.Machine.execMeidxWrite value s
  | .veidxWrite value => Sys2Proof.Machine.execVeidxWrite value s
  | .feidxWrite value => Sys2Proof.Machine.execFeidxWrite value s
  | .sqidxWrite value => Sys2Proof.Machine.execSqidxWrite value s
  | .clkidxWrite value => Sys2Proof.Machine.execClkidxWrite value s
  | .registerWrite port vf off value => Sys2Proof.Machine.execRegisterWrite port vf off value s
  | .portLinkUp p speed width flit cache mem => Sys2Proof.Machine.execPortLinkUp p speed width flit cache mem s
  | .globallyObserved id ok => Sys2Proof.Machine.execGloballyObserved id ok s
  | .mmulKeepCompletion tile => Sys2Proof.Machine.execMmulKeepCompletion tile s
  | .hubLogicFault t => Sys2Proof.Machine.execHubLogicFault t s
  | .meshSwitchFailure t => Sys2Proof.Machine.execMeshSwitchFailure t s
  | .selfCheckFailure t => Sys2Proof.Machine.execSelfCheckFailure t s
  | .sidebandImageWrite image => Sys2Proof.Machine.execSidebandImageWrite image s

end Sys2Proof.Machine
end

