-- ==== Sys2Proof/Safety.lean ====
section
/-! DEFINITION. What a sound state is and what a statement says of a command, in the terms the statements use: the banks in
their one canonical form, the parts of the state a command may change, and what a command that completes leaves. -/

namespace Sys2Proof.Machine

/-- The canonical form of the banks' bytes: addresses strictly rising, no listed byte zero (02 R31; 18 R671). -/
abbrev Memory.wf (m : List Host.Cell) : Bool := Tab.wf (fun _ => 0) m

/-- The banks are in canonical form: their bytes, and the marks of their poisoned columns. -/
structure State.MemOk (s : State) : Prop where
  /-- the bytes -/
  mem : Memory.wf s.mem = true
  /-- the marks -/
  pois : Tab.wf (fun _ => false) s.pois = true

/-- Nothing is stored, moved or marked in the banks: their bytes and their poison are as before. -/
def SameBanks (s t : State) : Prop := t.mem = s.mem ∧ t.pois = s.pois

/-- Every register of the physical-function region is stored as it was, whatever is in force. -/
def SameRegs (s t : State) : Prop := ∀ p off, p < 4 → off < 0x100000 → t.reg p off = s.reg p off

/-- A command completes: it answers a next state, of which `P` holds. -/
def Does (c : Instr) (s : State) (P : State → Prop) : Prop := ∃ t, exec c s = .next t ∧ P t

/-- The parts of the state, by their field of `State`. -/
inductive Field where
  /-- the commands waiting -/
  | pending
  /-- which module it is -/
  | half
  /-- engine cycles -/
  | cyc
  /-- the counter of free values -/
  | free
  /-- the stored register fields -/
  | regs
  /-- start-up -/
  | boot
  /-- supply and governor -/
  | power
  /-- the parcel map -/
  | slots
  /-- the physical parcels -/
  | parcels
  /-- the banks' bytes -/
  | mem
  /-- the poisoned columns -/
  | pois
  /-- row metadata -/
  | rows
  /-- spares of the banks -/
  | bspares
  /-- the stacks -/
  | stks
  /-- the channels -/
  | chans
  /-- the near-bank units -/
  | nbus
  /-- the sum buffers -/
  | crus
  /-- the hubs -/
  | hubs
  /-- the matrix engines -/
  | me
  /-- the vector engines -/
  | ve
  /-- the vector register files -/
  | vfiles
  /-- the ferry channels -/
  | fe
  /-- the scratchpad bytes -/
  | sp
  /-- the scratchpad poison bits -/
  | spPois
  /-- the sequencer contexts -/
  | ctxs
  /-- the partition table -/
  | parts
  /-- the set-up pages and rings -/
  | pages
  /-- the write streams -/
  | streams
  /-- the host ports -/
  | ports
  /-- the host-ownership directories -/
  | dirs
  /-- the home line caches -/
  | lines
  /-- the translators -/
  | trans
  /-- the landings -/
  | lands
  /-- the remote transactions -/
  | xacts
  /-- the route table -/
  | routes
  /-- the admission table -/
  | admits
  /-- the group table -/
  | groups
  /-- firmware -/
  | fw
  /-- the logs -/
  | logs
  /-- the performance counters -/
  | pm
  /-- activity counted for the governor -/
  | act
  /-- the host-time mapping -/
  | tmap
  /-- what is sent to the host and the links -/
  | out
  deriving DecidableEq, Repr

/-- A part of the state is as it was. -/
def Field.same : Field → State → State → Prop
  | .pending, s, t => t.pending = s.pending
  | .half, s, t => t.half = s.half
  | .cyc, s, t => t.cyc = s.cyc
  | .free, s, t => t.free = s.free
  | .regs, s, t => t.regs = s.regs
  | .boot, s, t => t.boot = s.boot
  | .power, s, t => t.power = s.power
  | .slots, s, t => t.slots = s.slots
  | .parcels, s, t => t.parcels = s.parcels
  | .mem, s, t => t.mem = s.mem
  | .pois, s, t => t.pois = s.pois
  | .rows, s, t => t.rows = s.rows
  | .bspares, s, t => t.bspares = s.bspares
  | .stks, s, t => t.stks = s.stks
  | .chans, s, t => t.chans = s.chans
  | .nbus, s, t => t.nbus = s.nbus
  | .crus, s, t => t.crus = s.crus
  | .hubs, s, t => t.hubs = s.hubs
  | .me, s, t => t.me = s.me
  | .ve, s, t => t.ve = s.ve
  | .vfiles, s, t => t.vfiles = s.vfiles
  | .fe, s, t => t.fe = s.fe
  | .sp, s, t => t.sp = s.sp
  | .spPois, s, t => t.spPois = s.spPois
  | .ctxs, s, t => t.ctxs = s.ctxs
  | .parts, s, t => t.parts = s.parts
  | .pages, s, t => t.pages = s.pages
  | .streams, s, t => t.streams = s.streams
  | .ports, s, t => t.ports = s.ports
  | .dirs, s, t => t.dirs = s.dirs
  | .lines, s, t => t.lines = s.lines
  | .trans, s, t => t.trans = s.trans
  | .lands, s, t => t.lands = s.lands
  | .xacts, s, t => t.xacts = s.xacts
  | .routes, s, t => t.routes = s.routes
  | .admits, s, t => t.admits = s.admits
  | .groups, s, t => t.groups = s.groups
  | .fw, s, t => t.fw = s.fw
  | .logs, s, t => t.logs = s.logs
  | .pm, s, t => t.pm = s.pm
  | .act, s, t => t.act = s.act
  | .tmap, s, t => t.tmap = s.tmap
  | .out, s, t => t.out = s.out

/-- Every part of the state but those of `L` is as it was. -/
structure Keeps (L : List Field) (s t : State) : Prop where
  /-- the parts kept -/
  same : ∀ f, f ∉ L → f.same s t

/-- The parts of the state that a command may change; a command changes no other. -/
def mayChange : Instr → List Field
  | .powerOn _ => [.regs, .boot, .power, .slots, .parcels, .mem, .pois, .rows, .bspares, .stks, .chans, .nbus, .crus, .hubs, .me, .ve, .vfiles, .fe, .sp, .spPois, .ctxs, .parts, .pages, .streams, .ports, .dirs, .lines, .trans, .lands, .xacts, .routes, .admits, .groups, .fw, .logs, .pm, .tmap, .act, .out]
  | .crystalQualified _ => [.boot, .slots, .parcels, .mem, .pois, .rows, .bspares, .stks, .chans, .crus, .hubs, .me, .ve, .fe, .sp, .spPois, .ctxs, .parts, .pages, .streams, .ports, .dirs, .lines, .lands, .xacts, .groups, .logs, .pm, .act, .out]
  | .crystalQualifyTimeout _ => [.boot, .slots, .parcels, .mem, .pois, .rows, .bspares, .stks, .chans, .crus, .hubs, .me, .ve, .fe, .sp, .spPois, .ctxs, .parts, .pages, .streams, .ports, .dirs, .lines, .lands, .xacts, .groups, .logs, .pm, .act, .out]
  | .coolantQualified => [.boot, .slots, .parcels, .mem, .pois, .rows, .bspares, .stks, .chans, .crus, .hubs, .me, .ve, .fe, .sp, .spPois, .ctxs, .parts, .pages, .streams, .ports, .dirs, .lines, .lands, .xacts, .groups, .logs, .pm, .act, .out]
  | .powerFail _ _ => [.power, .mem, .pois, .rows, .bspares, .stks, .chans, .nbus, .crus, .hubs, .me, .ve, .fe, .sp, .spPois, .ctxs, .parts, .pages, .streams, .ports, .dirs, .lines, .lands, .xacts, .groups, .logs, .pm, .act, .out]
  | .powerReturn _ => [.regs, .boot, .power, .slots, .mem, .pois, .rows, .bspares, .stks, .chans, .nbus, .crus, .hubs, .me, .ve, .vfiles, .fe, .sp, .spPois, .ctxs, .parts, .pages, .streams, .ports, .dirs, .lines, .trans, .lands, .xacts, .groups, .fw, .logs, .pm, .tmap, .act, .out]
  | .inputLoss => [.regs, .boot, .power, .slots, .parcels, .mem, .pois, .rows, .bspares, .stks, .chans, .nbus, .crus, .hubs, .me, .ve, .vfiles, .fe, .sp, .spPois, .ctxs, .parts, .pages, .streams, .ports, .dirs, .lines, .trans, .lands, .xacts, .routes, .admits, .groups, .fw, .logs, .pm, .tmap, .act, .out]
  | .warmReset _ => [.regs, .boot, .power, .slots, .mem, .pois, .rows, .bspares, .stks, .chans, .nbus, .crus, .hubs, .me, .ve, .vfiles, .fe, .sp, .spPois, .ctxs, .parts, .pages, .streams, .ports, .dirs, .lines, .trans, .lands, .xacts, .groups, .fw, .logs, .pm, .tmap, .act, .out]
  | .watchdogExpiry _ _ => [.regs, .boot, .power, .slots, .mem, .pois, .rows, .bspares, .stks, .chans, .nbus, .crus, .hubs, .me, .ve, .vfiles, .fe, .sp, .spPois, .ctxs, .parts, .pages, .streams, .ports, .dirs, .lines, .trans, .lands, .xacts, .groups, .fw, .logs, .pm, .tmap, .act, .out]
  | .crystalAmplitudeLost _ => [.hubs, .parts, .pages, .ports, .act, .out]
  | .edgeCountWindowEnd _ _ => [.hubs, .parts, .pages, .ports, .act, .out]
  | .standbyPllLock _ => [.hubs]
  | .domainSwitch _ => [.chans, .crus, .hubs, .me, .ve, .fe, .ctxs, .parts, .pages, .ports, .lands, .xacts, .groups, .logs, .pm, .act, .out]
  | .forwardedReferenceLost _ => [.hubs, .parts, .pages, .ports, .act, .out]
  | .timestampSync _ _ => [.hubs]
  | .timestampCheckpoint => [.boot]
  | .ptmExchange _ => [.hubs, .parts, .pages, .ports, .tmap, .act, .out]
  | .powerAverageUpdate _ _ _ _ _ _ => [.power, .chans, .parts, .ports, .act, .out]
  | .nearBankHold => [.power, .chans, .parts, .ports, .act, .out]
  | .governorWindowEnd => [.regs, .power, .hubs, .parts, .ports, .act, .out]
  | .coolantFault => [.power, .chans, .parts, .ports, .act, .out]
  | .coolantRecover => [.power, .chans, .parts, .ports, .act, .out]
  | .dieTempSample _ _ => [.stks, .chans, .nbus, .hubs]
  | .thermalLevel5Timeout _ => [.stks, .chans, .nbus, .hubs]
  | .thermalHalfPeriod _ => [.stks]
  | .hubTempSample _ _ => [.free, .regs, .boot, .power, .slots, .parcels, .mem, .pois, .rows, .bspares, .stks, .chans, .nbus, .crus, .hubs, .me, .ve, .vfiles, .fe, .sp, .spPois, .ctxs, .parts, .pages, .streams, .ports, .dirs, .lines, .trans, .lands, .xacts, .routes, .admits, .groups, .fw, .logs, .pm, .tmap, .act, .out]
  | .admissionGrant _ _ => [.hubs, .ctxs, .parts, .pages, .ports, .act, .out]
  | .gateOn _ _ _ _ => [.power, .hubs]
  | .gateOff _ _ _ _ => [.power, .hubs, .me]
  | .sliceGate _ _ => [.me]
  | .sliceUngate _ _ => [.hubs, .me, .ctxs, .parts, .ports, .act, .out]
  | .cxlMemRead _ _ _ => [.mem, .pois, .rows, .bspares, .stks, .chans, .crus, .hubs, .me, .ve, .fe, .ctxs, .parts, .pages, .streams, .ports, .dirs, .lands, .xacts, .groups, .logs, .pm, .act, .out]
  | .cxlMemWrite _ _ _ _ => [.chans, .hubs, .parts, .pages, .streams, .ports, .dirs, .lines, .logs, .pm, .act, .out]
  | .decoderCommit _ _ _ _ _ => [.ports, .out]
  | .decoderUncommit _ => [.ports]
  | .biResponse _ _ _ => [.mem, .pois, .rows, .bspares, .stks, .chans, .crus, .hubs, .me, .ve, .fe, .sp, .spPois, .ctxs, .parts, .pages, .streams, .ports, .dirs, .lines, .lands, .xacts, .groups, .logs, .pm, .act, .out]
  | .biTimeout _ _ => [.mem, .pois, .rows, .bspares, .stks, .chans, .crus, .hubs, .me, .ve, .fe, .sp, .spPois, .ctxs, .parts, .pages, .streams, .ports, .dirs, .lines, .lands, .xacts, .groups, .logs, .pm, .act, .out]
  | .snpinv _ _ => [.pages]
  | .watchedLineRead _ _ _ => [.parts, .pages, .ports, .act, .out]
  | .descriptorFetch _ _ _ => [.parts, .pages, .act, .out]
  | .flagPerform _ _ => [.streams, .lines]
  | .pdrainRead _ _ => [.streams, .ports, .out]
  | .cohstatRead _ => [.logs, .out]
  | .aptdatWrite _ _ => [.ports]
  | .peerApertureRead _ _ _ => [.mem, .pois, .rows, .bspares, .stks, .chans, .crus, .hubs, .me, .ve, .fe, .ctxs, .parts, .pages, .streams, .ports, .lands, .xacts, .groups, .logs, .pm, .act, .out]
  | .peerApertureWrite _ _ _ _ _ => [.chans, .hubs, .parts, .pages, .streams, .ports, .logs, .pm, .act, .out]
  | .getMeasurements _ => [.out]
  | .getCertificate _ => [.out]
  | .portLinkDown _ _ => [.mem, .pois, .rows, .bspares, .stks, .chans, .crus, .hubs, .me, .ve, .fe, .sp, .spPois, .ctxs, .parts, .pages, .streams, .ports, .dirs, .lines, .lands, .xacts, .groups, .logs, .pm, .act, .out]
  | .hotReset _ _ _ => [.mem, .pois, .rows, .bspares, .stks, .chans, .crus, .hubs, .me, .ve, .fe, .sp, .spPois, .ctxs, .parts, .pages, .streams, .ports, .dirs, .lines, .lands, .xacts, .groups, .logs, .pm, .act, .out]
  | .perstAssert _ _ => [.mem, .pois, .rows, .bspares, .stks, .chans, .crus, .hubs, .me, .ve, .fe, .sp, .spPois, .ctxs, .parts, .pages, .streams, .ports, .dirs, .lines, .lands, .xacts, .groups, .logs, .pm, .act, .out]
  | .functionLevelReset _ _ => [.slots, .fe, .ctxs, .parts, .pages, .out]
  | .partitionReset _ => [.slots, .mem, .pois, .rows, .bspares, .stks, .chans, .crus, .hubs, .me, .ve, .vfiles, .fe, .ctxs, .parts, .pages, .ports, .lines, .trans, .lands, .xacts, .groups, .logs, .pm, .act, .out]
  | .slotClear _ => [.slots, .hubs]
  | .slotClearDone _ => [.slots, .mem, .pois, .rows, .chans, .crus, .hubs, .me, .ve, .fe, .ctxs, .parts, .pages, .streams, .ports, .lines, .lands, .xacts, .groups, .logs, .pm, .act, .out]
  | .suctlWrite _ _ => [.parts, .pages, .ports, .act, .out]
  | .start _ => [.chans, .crus, .hubs, .me, .ve, .vfiles, .fe, .ctxs, .parts, .pages, .ports, .lands, .xacts, .groups, .pm, .act, .out]
  | .halt _ => [.chans, .crus, .hubs, .me, .ve, .fe, .ctxs, .parts, .pages, .ports, .lands, .xacts, .groups, .pm, .act, .out]
  | .load _ _ => [.parts, .pages, .ports, .trans, .pm, .act, .out]
  | .bind _ => [.hubs, .me, .vfiles, .fe, .sp, .spPois, .ctxs, .parts, .pages, .ports, .pm, .act, .out]
  | .unbind _ => [.vfiles, .ctxs, .parts, .pages, .ports, .pm, .act, .out]
  | .discard _ => [.parts, .pages, .ports, .pm, .act, .out]
  | .copy _ => [.fe, .parts, .pages, .ports, .pm, .act, .out]
  | .flush _ => [.parts, .pages, .ports, .pm, .act, .out]
  | .code _ => [.slots, .parts, .pages, .ports, .pm, .act, .out]
  | .fence _ => [.parts, .pages, .ports, .pm, .act, .out]
  | .reset _ => [.slots, .fe, .ctxs, .parts, .pages, .ports, .pm, .act, .out]
  | .attach _ => [.ctxs, .parts, .pages, .ports, .pm, .act, .out]
  | .pcreate _ => [.parts, .pages, .ports, .pm, .act, .out]
  | .pdestroy _ => [.slots, .fe, .ctxs, .parts, .pages, .ports, .pm, .act, .out]
  | .pslot _ => [.slots, .mem, .pois, .rows, .bspares, .stks, .hubs, .parts, .pages, .ports, .lines, .logs, .pm, .act, .out]
  | .pctx _ => [.ctxs, .parts, .pages, .ports, .pm, .act, .out]
  | .pvf _ => [.parts, .pages, .ports, .pm, .act, .out]
  | .stepFetch _ _ => [.pois, .rows, .bspares, .stks, .chans, .crus, .hubs, .me, .ve, .fe, .ctxs, .parts, .pages, .ports, .lands, .xacts, .groups, .logs, .pm, .act, .out]
  | .nop _ => [.chans, .crus, .hubs, .me, .ve, .fe, .ctxs, .parts, .pages, .ports, .lands, .xacts, .groups, .pm, .act, .out]
  | .endStep _ => [.chans, .crus, .hubs, .me, .ve, .fe, .ctxs, .parts, .pages, .ports, .lands, .xacts, .groups, .pm, .act, .out]
  | .replay _ => [.chans, .crus, .hubs, .me, .ve, .fe, .ctxs, .parts, .pages, .ports, .lands, .xacts, .groups, .pm, .act, .out]
  | .replayRepeat _ => [.free, .chans, .crus, .hubs, .me, .ve, .fe, .ctxs, .parts, .pages, .ports, .lands, .xacts, .groups, .pm, .act, .out]
  | .xld _ => [.free, .chans, .crus, .hubs, .me, .ve, .fe, .ctxs, .parts, .pages, .ports, .lands, .xacts, .groups, .pm, .act, .out]
  | .xst _ => [.chans, .crus, .hubs, .me, .ve, .fe, .sp, .spPois, .ctxs, .parts, .pages, .ports, .lands, .xacts, .groups, .pm, .act, .out]
  | .xset _ => [.chans, .crus, .hubs, .me, .ve, .fe, .ctxs, .parts, .pages, .ports, .lands, .xacts, .groups, .pm, .act, .out]
  | .amov _ => [.chans, .crus, .hubs, .me, .ve, .fe, .ctxs, .parts, .pages, .ports, .lands, .xacts, .groups, .pm, .act, .out]
  | .cmset _ => [.chans, .crus, .hubs, .me, .ve, .fe, .ctxs, .parts, .pages, .ports, .lands, .xacts, .groups, .pm, .act, .out]
  | .split _ => [.chans, .crus, .hubs, .me, .ve, .fe, .ctxs, .parts, .pages, .ports, .lands, .xacts, .groups, .pm, .act, .out]
  | .mbxr _ => [.free, .chans, .crus, .hubs, .me, .ve, .fe, .ctxs, .parts, .pages, .ports, .lands, .xacts, .groups, .pm, .act, .out]
  | .mbxw _ => [.chans, .crus, .hubs, .me, .ve, .fe, .ctxs, .parts, .pages, .ports, .lands, .xacts, .groups, .pm, .act, .out]
  | .event _ => [.chans, .crus, .hubs, .me, .ve, .fe, .ctxs, .parts, .pages, .ports, .lands, .xacts, .groups, .pm, .act, .out]
  | .scratchpadAccessEnd _ => [.ctxs, .parts, .ports, .act, .out]
  | .mmul _ => [.chans, .crus, .hubs, .me, .ve, .fe, .ctxs, .parts, .pages, .ports, .lands, .xacts, .groups, .pm, .act, .out]
  | .mwake _ => [.chans, .crus, .hubs, .me, .ve, .fe, .ctxs, .parts, .pages, .ports, .lands, .xacts, .groups, .pm, .act, .out]
  | .meStepStart _ => [.regs, .chans, .crus, .hubs, .me, .ve, .fe, .ctxs, .parts, .pages, .ports, .lands, .xacts, .groups, .pm, .act, .out]
  | .meWaveStart _ => [.hubs, .me, .parts, .pages, .ports, .act, .out]
  | .fpqPanelEntry _ => [.regs, .me, .ctxs, .parts, .ports, .act, .out]
  | .keepmaxExpiry _ => [.me]
  | .peMismatch _ _ => [.hubs, .me, .parts, .pages, .ports, .act, .out]
  | .sliceTestDone _ _ => [.hubs, .me, .parts, .pages, .ports, .act, .out]
  | .sliceSwapTest _ => [.me]
  | .vchain _ => [.chans, .crus, .hubs, .me, .ve, .fe, .ctxs, .parts, .pages, .ports, .lands, .xacts, .groups, .pm, .act, .out]
  | .veStepStart _ => [.ve]
  | .vePanelEntry _ => [.chans, .crus, .hubs, .me, .ve, .vfiles, .fe, .sp, .spPois, .ctxs, .parts, .pages, .ports, .lands, .xacts, .groups, .pm, .act, .out]
  | .veStepComplete _ => [.ve, .vfiles, .sp, .spPois, .ctxs, .parts, .ports, .act, .out]
  | .fcopy _ => [.chans, .crus, .hubs, .me, .ve, .fe, .ctxs, .parts, .pages, .ports, .lands, .xacts, .groups, .pm, .act, .out]
  | .fxpose _ => [.chans, .crus, .hubs, .me, .ve, .fe, .ctxs, .parts, .pages, .ports, .lands, .xacts, .groups, .pm, .act, .out]
  | .fgather _ => [.chans, .crus, .hubs, .me, .ve, .fe, .ctxs, .parts, .pages, .ports, .lands, .xacts, .groups, .pm, .act, .out]
  | .fscatter _ => [.chans, .crus, .hubs, .me, .ve, .fe, .ctxs, .parts, .pages, .ports, .lands, .xacts, .groups, .pm, .act, .out]
  | .ferryStepStart _ _ _ _ => [.free, .mem, .pois, .rows, .bspares, .stks, .chans, .crus, .hubs, .me, .ve, .fe, .sp, .spPois, .ctxs, .parts, .pages, .streams, .ports, .dirs, .lines, .lands, .xacts, .groups, .logs, .pm, .act, .out]
  | .overlapHoldGrant _ _ => [.free, .mem, .pois, .rows, .bspares, .stks, .chans, .crus, .hubs, .me, .ve, .fe, .sp, .spPois, .ctxs, .parts, .pages, .streams, .ports, .dirs, .lines, .lands, .xacts, .groups, .logs, .pm, .act, .out]
  | .ferryStepComplete _ _ => [.free, .mem, .pois, .rows, .bspares, .stks, .chans, .crus, .hubs, .me, .ve, .fe, .sp, .spPois, .ctxs, .parts, .pages, .streams, .ports, .dirs, .lines, .lands, .xacts, .groups, .logs, .pm, .act, .out]
  | .ferryFault _ _ _ _ _ _ _ _ => [.chans, .crus, .hubs, .me, .ve, .fe, .ctxs, .parts, .pages, .ports, .lands, .xacts, .groups, .pm, .act, .out]
  | .nbpass _ => [.chans, .crus, .hubs, .me, .ve, .fe, .ctxs, .parts, .pages, .ports, .lands, .xacts, .groups, .pm, .act, .out]
  | .nbPass _ _ _ _ _ _ => [.free, .chans, .nbus, .crus, .hubs, .me, .ve, .fe, .ctxs, .parts, .pages, .ports, .lands, .xacts, .groups, .pm, .act, .out]
  | .nbpassComplete _ => [.free, .chans, .crus, .hubs, .me, .ve, .fe, .sp, .spPois, .ctxs, .parts, .pages, .ports, .lands, .xacts, .groups, .pm, .act, .out]
  | .yieldPoint _ => [.regs, .slots, .parcels, .mem, .pois, .rows, .bspares, .stks, .chans, .crus, .hubs, .me, .ve, .fe, .ctxs, .parts, .pages, .streams, .ports, .lands, .xacts, .groups, .logs, .pm, .act, .out]
  | .passAbandon _ => [.slots, .parcels, .mem, .pois, .rows, .bspares, .stks, .chans, .crus, .hubs, .me, .ve, .fe, .ctxs, .parts, .pages, .streams, .ports, .lands, .xacts, .groups, .logs, .pm, .act, .out]
  | .blockFold _ _ => [.nbus]
  | .recomputeRebuild _ => [.hubs]
  | .recomputeDone _ => [.pois, .rows, .bspares, .stks, .crus, .hubs, .parts, .pages, .ports, .logs, .act, .out]
  | .cruDrain _ _ => [.crus, .ctxs]
  | .nbrdyRise _ => [.chans]
  | .rowNop _ => []
  | .act _ _ _ _ _ => [.rows, .chans, .nbus]
  | .pre _ _ _ _ => [.rows, .chans, .nbus]
  | .ref _ _ _ => [.rows, .chans, .nbus]
  | .powerDownEntry _ _ => [.chans, .nbus]
  | .selfRefreshEntry _ _ => [.chans, .nbus]
  | .stackSelfRefreshEntry _ => [.stks, .chans, .nbus]
  | .stackSelfRefreshExit _ => [.stks, .chans, .hubs]
  | .mrw _ _ _ _ _ => [.chans, .nbus]
  | .nbe _ => [.chans, .nbus, .hubs]
  | .nbx _ => [.chans, .nbus]
  | .aha _ _ _ _ => [.rows, .chans, .nbus]
  | .swt _ => [.chans, .nbus]
  | .nrf _ => [.rows, .chans, .nbus]
  | .nnr _ _ _ => [.rows, .chans, .nbus]
  | .bbq _ _ => [.chans, .nbus]
  | .columnNop _ => []
  | .rd _ _ _ _ _ => [.rows, .stks, .chans, .nbus, .hubs, .parts, .pages, .ports, .logs, .act, .out]
  | .wr _ _ _ _ _ _ => [.mem, .pois, .rows, .bspares, .stks, .chans, .nbus, .hubs, .parts, .pages, .ports, .logs, .act, .out]
  | .mrr _ _ _ => [.chans, .nbus, .out]
  | .ccl _ _ => [.chans, .nbus, .pm, .act]
  | .bbw _ _ _ => [.chans, .nbus]
  | .cfgw _ _ _ => [.chans, .nbus]
  | .acr _ _ _ _ _ _ => [.slots, .parcels, .mem, .pois, .rows, .bspares, .stks, .chans, .nbus, .crus, .hubs, .me, .ve, .fe, .ctxs, .parts, .pages, .streams, .ports, .lands, .xacts, .groups, .logs, .pm, .act, .out]
  | .acl _ _ _ _ => [.chans, .nbus, .hubs]
  | .str _ _ _ => [.slots, .parcels, .mem, .pois, .rows, .bspares, .stks, .chans, .nbus, .crus, .hubs, .me, .ve, .fe, .ctxs, .parts, .pages, .streams, .ports, .lands, .xacts, .groups, .logs, .pm, .act, .out]
  | .rowDisturbanceAlert _ _ => [.rows, .chans, .pm]
  | .throttleHoldEnd _ _ _ => [.chans]
  | .owedWordlineRefresh _ _ => [.rows, .chans]
  | .commandErrorAlert _ _ _ _ _ _ _ _ => [.chans, .crus, .hubs, .me, .ve, .fe, .ctxs, .parts, .pages, .streams, .ports, .lands, .xacts, .groups, .logs, .pm, .act, .out]
  | .commandReissue _ _ => [.slots, .parcels, .mem, .pois, .rows, .bspares, .stks, .chans, .nbus, .crus, .hubs, .me, .ve, .fe, .ctxs, .parts, .pages, .streams, .ports, .lands, .xacts, .groups, .logs, .pm, .act, .out]
  | .channelAccept _ _ _ _ _ _ _ _ _ _ => [.chans, .hubs]
  | .arbitrationPoint _ => [.mem, .pois, .rows, .bspares, .stks, .chans, .crus, .hubs, .me, .ve, .fe, .ctxs, .parts, .pages, .streams, .ports, .lands, .xacts, .groups, .logs, .pm, .act, .out]
  | .arbWindowEnd => [.regs, .chans]
  | .writeDrain _ _ => [.mem, .pois, .rows, .bspares, .stks, .chans, .crus, .hubs, .me, .ve, .fe, .ctxs, .parts, .pages, .streams, .ports, .lands, .xacts, .groups, .logs, .pm, .act, .out]
  | .rowCloseTimeout _ _ => [.rows, .chans]
  | .refreshDue _ _ _ => [.rows, .chans]
  | .hotBankWindowEnd _ => [.chans, .parts, .pages, .ports, .act, .out]
  | .recentre _ _ _ => [.boot, .slots, .parcels, .mem, .pois, .rows, .bspares, .stks, .chans, .crus, .hubs, .me, .ve, .fe, .sp, .spPois, .ctxs, .parts, .pages, .streams, .ports, .dirs, .lines, .lands, .xacts, .groups, .logs, .pm, .act, .out]
  | .fullRowDecode _ => [.stks]
  | .fullRowDecodeDone _ => [.pois, .rows, .bspares, .stks, .hubs, .parts, .pages, .ports, .logs, .act, .out]
  | .scrubPassStart => [.parcels, .bspares, .chans, .hubs, .logs]
  | .scrubRow _ => [.slots, .parcels, .pois, .rows, .bspares, .stks, .chans, .hubs, .parts, .pages, .ports, .logs, .act, .out]
  | .scrubRankWake _ _ => [.chans]
  | .repairFlip _ => [.pois, .rows, .bspares, .stks]
  | .reencodeRow _ => [.slots, .parcels, .pois, .rows, .bspares, .stks, .hubs, .parts, .pages, .ports, .logs, .act, .out]
  | .slotMove _ => [.slots, .parcels, .mem, .pois, .rows, .bspares, .stks, .hubs, .parts, .pages, .ports, .logs, .act, .out]
  | .slotMoveFlip _ => [.slots, .parcels, .mem, .pois, .rows, .bspares, .stks, .chans, .crus, .hubs, .me, .ve, .fe, .ctxs, .parts, .pages, .streams, .ports, .lines, .lands, .xacts, .groups, .logs, .pm, .act, .out]
  | .hashRecordWrite _ => [.boot]
  | .modidDkeyWrite _ _ => [.boot]
  | .tileRetire _ _ _ => [.boot, .slots, .parcels, .mem, .pois, .rows, .bspares, .stks, .chans, .crus, .hubs, .me, .ve, .fe, .sp, .spPois, .ctxs, .parts, .pages, .streams, .ports, .dirs, .lines, .lands, .xacts, .groups, .logs, .pm, .act, .out]
  | .spareTest _ _ _ _ _ _ _ => [.bspares, .stks]
  | .swapTestReturn _ _ => [.rows, .bspares, .stks, .logs]
  | .swapTestDone _ _ => [.rows, .bspares, .stks, .hubs, .logs]
  | .scratchpadCorrectWriteback _ _ _ => [.hubs, .spPois]
  | .windowClearDone _ => [.sp, .spPois, .ctxs, .parts, .pages, .ports, .act, .out]
  | .translate _ _ _ _ _ => [.parts, .pages, .ports, .trans, .act, .out]
  | .translationEnd _ => [.mem, .pois, .rows, .bspares, .stks, .hubs, .parts, .pages, .ports, .trans, .logs, .act, .out]
  | .gbar _ => [.chans, .crus, .hubs, .me, .ve, .fe, .ctxs, .parts, .pages, .ports, .lands, .xacts, .groups, .pm, .act, .out]
  | .gbcast _ => [.chans, .crus, .hubs, .me, .ve, .fe, .ctxs, .parts, .pages, .ports, .lands, .xacts, .groups, .pm, .act, .out]
  | .gred _ => [.chans, .crus, .hubs, .me, .ve, .fe, .ctxs, .parts, .pages, .ports, .lands, .xacts, .groups, .pm, .act, .out]
  | .gsnap _ => [.chans, .crus, .hubs, .me, .ve, .fe, .ctxs, .parts, .pages, .ports, .lands, .xacts, .groups, .pm, .act, .out]
  | .globalOpComplete _ => [.sp, .spPois, .ctxs, .parts, .ports, .lands, .groups, .pm, .act, .out]
  | .globalTimeout _ => [.chans, .crus, .hubs, .me, .ve, .fe, .ctxs, .parts, .pages, .ports, .lands, .xacts, .groups, .pm, .act, .out]
  | .flitReceive _ _ _ _ => [.lands, .pm, .act, .out]
  | .linkControl _ _ _ => [.lands, .pm, .act, .out]
  | .ackSend _ => [.lands, .pm, .act, .out]
  | .replayTimeout _ => [.chans, .crus, .hubs, .me, .ve, .fe, .ctxs, .parts, .pages, .ports, .lands, .xacts, .groups, .logs, .pm, .act, .out]
  | .remoteRd _ _ => [.pois, .rows, .bspares, .stks, .chans, .hubs, .parts, .pages, .ports, .dirs, .lands, .logs, .pm, .act, .out]
  | .remoteWr _ _ _ => [.chans, .hubs, .sp, .spPois, .parts, .pages, .streams, .ports, .dirs, .lines, .lands, .logs, .pm, .act, .out]
  | .rdr _ _ _ => [.free, .mem, .pois, .rows, .bspares, .stks, .chans, .crus, .hubs, .me, .ve, .fe, .sp, .spPois, .ctxs, .parts, .pages, .streams, .ports, .dirs, .lines, .lands, .xacts, .groups, .logs, .pm, .act, .out]
  | .wack _ _ => [.chans, .crus, .hubs, .me, .ve, .fe, .ctxs, .parts, .pages, .ports, .lands, .xacts, .groups, .logs, .pm, .act, .out]
  | .lfn _ _ _ => [.hubs, .parts, .pages, .ports, .lands, .logs, .pm, .act, .out]
  | .gop _ _ _ _ _ _ _ _ _ _ _ _ _ _ _ => [.chans, .crus, .hubs, .me, .ve, .fe, .ctxs, .parts, .pages, .ports, .lands, .xacts, .groups, .logs, .pm, .act, .out]
  | .transactionTimeout _ _ _ => [.chans, .crus, .hubs, .me, .ve, .fe, .ctxs, .parts, .pages, .ports, .lands, .xacts, .groups, .logs, .pm, .act, .out]
  | .landingTrain _ _ _ _ _ => [.chans, .crus, .hubs, .me, .ve, .fe, .ctxs, .parts, .pages, .ports, .lands, .xacts, .groups, .logs, .pm, .act, .out]
  | .landingDown _ => [.chans, .crus, .hubs, .me, .ve, .fe, .ctxs, .parts, .pages, .ports, .lands, .xacts, .groups, .logs, .pm, .act, .out]
  | .laneSpare _ _ => [.chans, .crus, .hubs, .me, .ve, .fe, .ctxs, .parts, .pages, .ports, .lands, .xacts, .groups, .logs, .pm, .act, .out]
  | .laneSwapTest _ => [.lands]
  | .laneCheckDone _ _ _ => [.lands]
  | .xrtdatWrite _ => [.routes]
  | .cblprsFall _ => [.lands]
  | .cblprsRise _ => [.chans, .crus, .hubs, .me, .ve, .fe, .ctxs, .parts, .pages, .ports, .lands, .xacts, .groups, .logs, .pm, .act, .out]
  | .cableOvercurrent _ => [.chans, .crus, .hubs, .me, .ve, .fe, .ctxs, .parts, .pages, .ports, .lands, .xacts, .groups, .logs, .pm, .act, .out]
  | .verify _ => [.fw]
  | .handover => [.hubs, .parts, .pages, .ports, .trans, .fw, .act, .out]
  | .revert => [.hubs, .parts, .pages, .ports, .trans, .fw, .act, .out]
  | .probationEnd _ => [.hubs, .parts, .pages, .ports, .trans, .fw, .act, .out]
  | .blackBoxCommit _ => [.hubs]
  | .traceRecordObserved _ => [.hubs, .parts, .pages, .ports, .logs, .act, .out]
  | .trcctlWrite _ _ => [.regs, .ports]
  | .counterFreeze => [.regs]
  | .counterRestart => [.regs]
  | .counterClear => [.pm]
  | .nbidxWrite _ => [.regs, .chans]
  | .meidxWrite _ => [.regs, .me]
  | .veidxWrite _ => [.regs, .ve]
  | .feidxWrite _ => [.regs, .fe]
  | .sqidxWrite _ => [.regs, .ctxs]
  | .clkidxWrite _ => [.regs, .hubs]
  | .registerWrite _ _ _ _ => [.regs, .boot, .slots, .vfiles, .ctxs, .pages, .ports, .admits, .groups, .pm]
  | .portLinkUp _ _ _ _ _ _ => [.ports]
  | .globallyObserved _ _ => [.hubs, .fe, .parts, .pages, .ports, .logs, .act, .out]
  | .mmulKeepCompletion _ => [.regs, .me, .ctxs, .parts, .ports, .act, .out]
  | .hubLogicFault _ => [.boot, .slots, .parcels, .mem, .pois, .rows, .bspares, .stks, .chans, .crus, .hubs, .me, .ve, .fe, .sp, .spPois, .ctxs, .parts, .pages, .streams, .ports, .dirs, .lines, .lands, .xacts, .groups, .logs, .pm, .act, .out]
  | .meshSwitchFailure _ => [.hubs]
  | .selfCheckFailure _ => [.hubs, .parts, .pages, .ports, .trans, .fw, .act, .out]
  | .sidebandImageWrite _ => [.fw]

/-! ### The terms of the statements about steps and descriptors -/

/-- Descriptor `d` is the next one of page `k` to start, nothing holds it, nothing refuses it whatever its operands, and it is an operation `op`
(00 R7; 15 R575, R583, R587, R589). -/
def DescReady (s : State) (k op : Nat) (d : Desc) : Prop :=
  nextDesc [] (s.page k).fetched = some d ∧ s.holds d = false ∧ s.descRefusal k d = none ∧ d.op = op

/-- A host's or peer's read (requester `who`) of row `row` of bank `j` that reaches channel `ch` is granted and performed at once: the channel
serves, nothing else is queued on it, the requester is not masked, and the row is open (04 R125 to R132, R158). -/
structure ReadsAtOnce (s : State) (ch who j row : Nat) : Prop where
  /-- the channel takes conventional commands -/
  conv : s.conventional ch = true
  /-- no re-centring comes first -/
  centred : (s.chan ch).recentreDue = false
  /-- no near-bank grant is pending -/
  nbs : s.nbsPending ch = false
  /-- no read is queued -/
  reads : (s.chan ch).readQ = []
  /-- no write is queued -/
  writes : (s.chan ch).writeQ = []
  /-- no near-bank context waits -/
  waiters : (s.chan ch).waitNbs = []
  /-- the stack takes requests -/
  held : (s.stack (ch / 16)).hold = false
  /-- the requester has quota left -/
  quota : s.masked (s.chan ch) who = false
  /-- and a burst -/
  burst : 0 < s.burstOf who
  /-- the row is open -/
  isOpen : ((s.chan ch).bank j).row = some row

/-- The next step of context `c` is the word `w`, an operation `op` of engine `eng`, in the step cache unpoisoned; it passes
decode, and nothing holds its issue (11 R446, R450 to R452, R454, R468; 17 R664). -/
structure StepReady (s : State) (c eng op w : Nat) : Prop where
  /-- the context runs -/
  running : (s.ctx c).st = .running
  /-- no entries of a repeat are to be applied -/
  pend : (s.ctx c).pend = false
  /-- no scratchpad access is in progress -/
  access : (s.ctx c).access = none
  /-- the word is in the step cache -/
  cached : ∃ bw, Tab.get (fun _ => none) (s.ctx c).cache (s.ctx c).next = some (bw, false) ∧ bw.toNat = w
  /-- it passes decode -/
  decoded : s.decodeHalt c w = none
  /-- its engine -/
  isEng : stepEng w = eng
  /-- its operation -/
  isOp : stepOp w = op
  /-- its wait is met -/
  waited : (s.ctx c).waitMet w s.seqCycle = true
  /-- its distance is met -/
  dist : (s.ctx c).distMet w s.seqCycle = true
  /-- no step has issued in this cycle -/
  cycle : (s.ctx c).lastIssue ≤ s.seqCycle
  /-- the context's share of the queue has room -/
  room : eng = 0 ∨ s.share c eng < shareOf eng
  /-- the tile issues engine steps -/
  cool : eng = 0 ∨ (s.hub (tileOfCtx c)).holdIssue = false
  /-- its size is not zero -/
  sized : eng = 0 ∨ s.sizeZero c w = false

/-- What the issue of step `w` of context `c` leaves, whatever the step: the next step in manifest order, THR advanced by WINC
where the step waits, and the issue noted (11 R450, R452, R457). -/
def IssuedNext (c w : Nat) (s t : State) : Prop :=
  (t.ctx c).next = (afterStep (s.ctx c).stack (s.ctx c).next).2.1 ∧
  (flag w 15 = true → ((t.ctx c).cmp (field w 12 3)).2 = ((s.ctx c).cmp (field w 12 3)).2 + BitVec.ofNat 32 (field w 16 4)) ∧
  (t.ctx c).lastIssue = s.seqCycle + 1

/-- The tally a step names has advanced by one, and no other tally has changed (11 R453). -/
def TallyDone (c w : Nat) (s t : State) : Prop :=
  ∀ k, (t.ctx c).tally k = (s.ctx c).tally k + (if stepTally w = some k then 1 else 0)

/-- Registers X other than those of `ks` are unchanged. -/
def XSame (c : Nat) (ks : Nat → Prop) (s t : State) : Prop := ∀ k, ¬ ks k → t.xreg c k = s.xreg c k

/-- The ferry step `w` of context `c`, issued: it stands last in its channel's queue and is outstanding (10 R408; 11 R451). -/
def FerryQueued (c op w : Nat) (s t : State) : Prop :=
  (∃ e : FeStep, e.op = op ∧ e.ctx = c ∧ e.step = (s.ctx c).next ∧ e.copy = none ∧ e.ch = (s.feStep c w).ch ∧
    (t.fchan (16 * tileOfCtx c + 4 * (c % 4) + e.ch)).queue = (s.fchan (16 * tileOfCtx c + 4 * (c % 4) + e.ch)).queue ++ [e]) ∧
  (t.ctx c).outst = (s.ctx c).outst ++ [stepKey 3 op (s.ctx c).next] ∧ IssuedNext c w s t ∧ XSame c (fun _ => False) s t ∧
  t.sp = s.sp ∧ SameBanks s t

/-- The word in `c`'s step cache is global step `q` with operation `op`, and is issued now. -/
structure GlobalNext (s : State) (c op w : Nat) (q : GStep) : Prop where
  /-- it issues -/
  ready : StepReady s c 5 op w
  /-- it gives `q` -/
  step : q = (s.issued c w).globalStep c w (s.ctx c).next

/-- The global unit takes step `q`: nothing turns it away, its instance has not failed, and it agrees with the instance it meets (16 R627 to
R629). -/
structure GlobalFits (s : State) (c : Nat) (q : GStep) : Prop where
  /-- entry, owner, bit and operands -/
  good : s.globalBad c q = false
  /-- the instance is not failed -/
  alive : (s.group q.group).failed.contains q.inst = false
  /-- it begins the instance or agrees with it -/
  agrees : s.inst q.group q.inst = none ∨
    ∃ i, s.inst q.group q.inst = some i ∧ i.op = q.op ∧ i.scope = q.scope ∧ i.rtype = q.rtype ∧ i.bytes = q.bytes

/-- Context `c` has joined the instance that its global step `q` names (16 R627, R628; 11 R449, R450). -/
def GlobalJoined (c op w : Nat) (q : GStep) (s t : State) : Prop :=
  (t.ctx c).gq = some q ∧ q.op = op ∧ q.group = body w 0 6 ∧ q.scope = flag w 70 ∧
  Tab.get (fun _ => 0) (t.ctx c).ginst q.group = Tab.get (fun _ => 0) (s.ctx c).ginst q.group + 1 ∧
  (∃ i, t.inst q.group q.inst = some i ∧ c ∈ i.ctxs) ∧
  (t.ctx c).outst = (s.ctx c).outst ++ [stepKey 5 op (s.ctx c).next] ∧ IssuedNext c w s t ∧ XSame c (fun _ => False) s t ∧
  (t.ctx c).st = .running ∧ SameBanks s t

end Sys2Proof.Machine
end

