-- ==== Sys2Proof/Certificates/Slice0/Obligations.lean ====
section
/-! DEFINITION. The statements for the provers. `Does c s P` says that command `c` completes at `s` with a next state of which `P`
holds; `Keeps L s t` that every part of the state but those of `L` is as it was. Each statement says what the spec gives a command
where its conditions hold; a command whose conditions do not hold changes nothing, which is the model's choice (log entry 5) wherever
a clause says so without a rule. -/

open Sys2Proof Sys2Proof.Machine

/-- Row and column commands of a channel in conventional mode (06 R216, R217; 04 R136, R138, R146 to R148; 03 R86, R87): NOPs change
nothing; ACT opens the row where the channel serves and no alert or throttle holds the bank, and counts it; PRE closes; REF clears
the tallies of the rows on the wordlines its counter names, advances it, and repays a postponed refresh or counts as an early one;
MRW writes the mode register, MRR answers it; RD answers the column of the open row, or, where its check or the row's metadata fails,
has the row wait for a decoder. No other channel changes, and nothing moves in the banks. -/
def Obligations.ConventionalCommandsComplete : Prop :=
  (∀ (s : State) (ch : Fin 1536), exec (.rowNop ch) s = .next s) ∧
  (∀ (s : State) (ch : Fin 1536), exec (.columnNop ch) s = .next s) ∧
  (∀ (s : State) (ch : Fin 1536) (rank : BitVec 5) (bank : Bool) (row : BitVec 16) (who : BitVec 5) (j rk : Nat),
    j = 2 * rank.toNat + nat bank → rk = rowKey (bankOf ch j) row.toNat →
    rank.toNat < 24 → s.serves ch = true → (s.chan ch).rank rank.toNat = .awake →
    ((s.chan ch).bank j).row = none → s.mayActivate ch j who.toNat = true →
    Does (.act ch rank bank row who) s (fun t =>
      ((t.chan ch).bank j).row = some row.toNat ∧ ((t.chan ch).bank j).opener = who.toNat ∧
      (t.row rk).tally = (if who.toNat = 28 then (s.row rk).tally else satNat 16 ((s.row rk).tally + 1)) ∧
      (∀ k, k ≠ ch.val → t.chan k = s.chan k) ∧ SameBanks s t)) ∧
  (∀ (s : State) (ch : Fin 1536) (rank : BitVec 5) (bank both : Bool) (j : Nat), j = 2 * rank.toNat + nat bank →
    rank.toNat < 24 → s.conventional ch = true → (s.chan ch).rank rank.toNat = .awake →
    Does (.pre ch rank bank both) s (fun t =>
      ((t.chan ch).bank j).row = none ∧
      (both = true → ∀ j ∈ rankBanks rank.toNat, ((t.chan ch).bank j).row = none) ∧
      (∀ j, j ∉ rankBanks rank.toNat → (t.chan ch).bank j = (s.chan ch).bank j) ∧
      (∀ k, k ≠ ch.val → t.chan k = s.chan k) ∧ SameBanks s t)) ∧
  (∀ (s : State) (ch : Fin 1536) (rank : BitVec 5) (bank : Bool) (j : Nat) (b : Bank), j = 2 * rank.toNat + nat bank →
    b = (s.chan ch).bank j → rank.toNat < 24 → s.conventional ch = true → (s.chan ch).rank rank.toNat = .awake →
    b.row = none → (0 < b.postponed ∨ b.early < 4) →
    Does (.ref ch rank bank) s (fun t =>
      ((t.chan ch).bank j).refk = (b.refk + 1) % 8256 ∧
      (∀ w ∈ refreshWords b.refk, ∀ x ∈ s.rowsAt (bankOf ch j) w.1 w.2, (t.row x).tally = 0) ∧
      (0 < b.postponed → ((t.chan ch).bank j).postponed = b.postponed - 1 ∧ ((t.chan ch).bank j).early = b.early) ∧
      (b.postponed = 0 → ((t.chan ch).bank j).early = b.early + 1) ∧
      (∀ k, k ≠ ch.val → t.chan k = s.chan k) ∧ SameBanks s t)) ∧
  (∀ (s : State) (ch : Fin 1536) (rank : BitVec 5) (allr : Bool) (reg value : BitVec 8),
    rank.toNat < 24 → s.conventional ch = true →
    Does (.mrw ch rank allr reg value) s (fun t =>
      Tab.get (fun _ => 0) (t.chan ch).mrs (rank.toNat * 256 + reg.toNat) = value.toNat ∧
      (allr = true → ∀ r < 24, Tab.get (fun _ => 0) (t.chan ch).mrs (r * 256 + reg.toNat) = value.toNat) ∧
      (∀ k, k ≠ ch.val → t.chan k = s.chan k) ∧ Keeps [.chans] s t)) ∧
  (∀ (s : State) (ch : Fin 1536) (rank : BitVec 5) (reg : BitVec 8), rank.toNat < 24 → s.conventional ch = true →
    Does (.mrr ch rank reg) s (fun t =>
      t.out.answer = some { kind := 3, data := leBytes 32 (Tab.get (fun _ => 0) (s.chan ch).mrs (rank.toNat * 256 + reg.toNat)) } ∧
      Keeps [.out] s t)) ∧
  (∀ (s : State) (ch : Fin 1536) (rank : BitVec 5) (bank ap : Bool) (col : BitVec 6) (j r rk : Nat), j = 2 * rank.toNat + nat bank →
    rk = rowKey (bankOf ch j) r → rank.toNat < 24 → s.conventional ch = true → ((s.chan ch).bank j).row = some r →
    s.columnAsks rk col.toNat = false →
    Does (.rd ch rank bank col ap) s (fun t =>
      t.out.answer = some { kind := 1, data := s.rawColumn rk col.toNat, poison := s.isPoisoned (rk * 32 + col.toNat / 2) || s.badTag rk } ∧
      ((t.chan ch).bank j).row = (if ap then none else some r) ∧
      (∀ k, k ≠ ch.val → t.chan k = s.chan k) ∧ SameBanks s t)) ∧
  (∀ (s : State) (ch : Fin 1536) (rank : BitVec 5) (bank ap : Bool) (col : BitVec 6) (j r rk : Nat), j = 2 * rank.toNat + nat bank →
    rk = rowKey (bankOf ch j) r → rank.toNat < 24 → s.conventional ch = true → ((s.chan ch).bank j).row = some r →
    s.columnAsks rk col.toNat = true →
    Does (.rd ch rank bank col ap) s (fun t =>
      (∃ d : Decode, (t.stack (rk / 65536 / 768)).decWait = (s.stack (rk / 65536 / 768)).decWait ++ [d] ∧ d.row = rk ∧ d.col = col.toNat) ∧
      t.out.answer = s.out.answer ∧ (∀ k, k ≠ ch.val → t.chan k = s.chan k) ∧ SameBanks s t))

/-- WR stores one column of the open row with a normal check (06 R217; 03 R95): the 32 bytes at the column's place in the row are the
data and read so, every other byte of the banks is as before, every other data column reads as before, no other check is complemented
or made normal, and AP closes the row. -/
def Obligations.ColumnWriteStoresOneColumn : Prop :=
  ∀ (s : State) (ch : Fin 1536) (rank : BitVec 5) (bank ap : Bool) (col : BitVec 6) (data : BitVec 256) (j r rk : Nat),
    j = 2 * rank.toNat + nat bank → rk = rowKey (bankOf ch j) r →
    rank.toNat < 24 → s.conventional ch = true → ((s.chan ch).bank j).row = some r →
    s.badTag rk = false → s.columnAsks rk col.toNat = false →
    Does (.wr ch rank bank col ap data) s (fun t =>
      t.rawColumn rk col.toNat = leBytes 32 data.toNat ∧ t.columnState rk col.toNat = .good ∧
      (∀ a, a < rk * 2048 + col.toNat * 32 ∨ rk * 2048 + col.toNat * 32 + 32 ≤ a → t.memByte a = s.memByte a) ∧
      (∀ c, c < 64 → c ≠ col.toNat → t.rawColumn rk c = s.rawColumn rk c) ∧
      (∀ k, k ≠ colKey rk col.toNat → t.colBad k = s.colBad k) ∧
      ((t.chan ch).bank j).row = (if ap then none else some r) ∧
      (∀ k, k ≠ ch.val → t.chan k = s.chan k) ∧ Keeps [.mem, .pois, .rows, .chans, .act] s t)

/-- A command that names rank 24 to 31 is ignored, counted as a command error and held to be issued again (06 R218; 04 R160); one
outside its mode sets SEQERR in the banks it names and has no other effect (06 R231). -/
def Obligations.IgnoredChannelCommands : Prop :=
  (∀ (s : State) (ch : Fin 1536) (rank : BitVec 5) (bank both ap : Bool) (row : BitVec 16) (col : BitVec 6) (who : BitVec 5)
      (allr : Bool) (reg value : BitVec 8) (data : BitVec 256), 24 ≤ rank.toNat →
    ∀ c ∈ [Instr.act ch rank bank row who, .pre ch rank bank both, .ref ch rank bank, .mrw ch rank allr reg value,
        .mrr ch rank reg, .rd ch rank bank col ap, .wr ch rank bank col ap data],
      Does c s (fun t => (t.chan ch).caerr = satNat 8 ((s.chan ch).caerr + 1) ∧
        (∃ x : BusCmd, (t.chan ch).caHeld = some x ∧ x.waiting = true ∧ ((s.chan ch).caHeld = none → x.fails = 1)) ∧
        (t.chan ch).banks = (s.chan ch).banks ∧ (t.chan ch).mrs = (s.chan ch).mrs ∧
        (∀ k, k ≠ ch.val → t.chan k = s.chan k) ∧ Keeps [.chans] s t)) ∧
  (∀ (s : State) (ch : Fin 1536) (rank : BitVec 5) (bank ap : Bool) (row : BitVec 16) (col : BitVec 6) (who : BitVec 5)
      (data : BitVec 256), rank.toNat < 24 → (s.chan ch).mode = .nearBank →
    ∀ c ∈ [Instr.act ch rank bank row who, .pre ch rank bank false, .ref ch rank bank, .rd ch rank bank col ap,
        .wr ch rank bank col ap data],
      Does c s (fun t => (t.nbu (bankOf ch (2 * rank.toNat + nat bank))).seqerr = true ∧
        (∀ b, b ≠ bankOf ch (2 * rank.toNat + nat bank) → t.nbu b = s.nbu b) ∧ Keeps [.nbus] s t))

/-- Requests and grants of a channel (04 R120 to R134): a request enters its queue and wakes its rank, or asks for the wake of a stack in
stack self-refresh, or is held where there is no room; a grant counts for its requester and performs its reads, which change nothing in
the banks where no write is queued; a window's end clears the counts and masks and puts the configuration registers in force; a drain
performs the oldest writes down to the low mark, all of them where something waits for them (the model's choice: log entry 79), or every
write to the line of the read that needs them but those that R122 holds behind an earlier read; a row that no queued request addresses is
closed; a window of the hot-bank count finds the bank with the most requests (the model's choice among several: log entry 86). -/
def Obligations.QueuesAndGrantsComplete : Prop :=
  (∀ (s : State) (ch : Fin 1536) (who : BitVec 5) (part : Option (Fin 64)) (j : Fin 48) (row : BitVec 16) (pair : BitVec 5)
      (write : Bool) (data : BitVec 512) (mask : BitVec 64) (poison : Bool), s.hasRoom ch write = true →
    Does (.channelAccept ch who part j row pair write data mask poison) s (fun t =>
      (∃ q : Req, q.who = who.toNat ∧ q.bank = j.val ∧ q.row = row.toNat ∧ q.line = pair.toNat ∧ q.data = data ∧ q.mask = mask ∧
        (t.chan ch).readQ = (if write then (s.chan ch).readQ else (s.chan ch).readQ ++ [q]) ∧
        (t.chan ch).writeQ = (if write then (s.chan ch).writeQ ++ [q] else (s.chan ch).writeQ)) ∧
      ((s.stack (ch.val / 16)).sr = false → (t.chan ch).rank (j.val / 2) = .awake) ∧
      ((s.stack (ch.val / 16)).sr = true → (0, ch.val / 16) ∈ (t.hub (tileOfChan ch)).admitted ∨
        ∃ a, (0, ch.val / 16, a) ∈ (t.hub (tileOfChan ch)).wakeQ) ∧
      (∀ k, k ≠ ch.val → t.chan k = s.chan k) ∧ SameBanks s t)) ∧
  (∀ (s : State) (ch : Fin 1536) (who : BitVec 5) (part : Option (Fin 64)) (j : Fin 48) (row : BitVec 16) (pair : BitVec 5)
      (write : Bool) (data : BitVec 512) (mask : BitVec 64) (poison : Bool), s.hasRoom ch write = false →
    exec (.channelAccept ch who part j row pair write data mask poison) s = .next s) ∧
  (∀ (s : State) (ch : Fin 1536) (who : Nat), s.serves ch = true → s.nbsPending ch = false → s.nextGrant ch [] = some who →
    Does (.arbitrationPoint ch) s (fun t => (∃ u : State, (u.chan ch).grant = some (who, 0) ∧
      Tab.get (fun _ => 0) (u.chan ch).grants who = Tab.get (fun _ => 0) (s.chan ch).grants who + 1 ∧
      (u.chan ch).readQ = (s.chan ch).readQ ∧ (u.chan ch).writeQ = (s.chan ch).writeQ ∧ Keeps [.chans] s u ∧
      t = if classOf who = 1 then u else u.runGrant 256 ch who 0) ∧
      ((s.chan ch).writeQ = [] → SameBanks s t))) ∧
  (∀ (s : State) (ch : Fin 1536), s.serves ch = true → s.nbsPending ch = false → s.nextGrant ch [] = none →
    exec (.arbitrationPoint ch) s = .next (s.modChan ch (fun c => { c with grant := none }))) ∧
  (∀ (s : State) (k : Nat), Does .arbWindowEnd s (fun t =>
    (t.chan k).grants = [] ∧ (t.chan k).mntDone = false ∧
    (∀ o ∈ scConfig, ∀ lo n, t.inForce 0 o lo n = s.cfg o lo n) ∧ SameRegs s t ∧ Keeps [.regs, .chans] s t)) ∧
  (∀ (s : State) (ch : Fin 1536), s.conventional ch = true → s.drainAsked ch = false →
    s.inForce 0 rSCHCFG 16 6 ≤ (s.chan ch).writeQ.length → (∀ w ∈ (s.chan ch).writeQ, (s.chan ch).behind ch w = false) →
    Does (.writeDrain ch none) s (fun t =>
      (t.chan ch).writeQ = (s.chan ch).writeQ.drop ((s.chan ch).writeQ.length - s.inForce 0 rSCHCFG 22 6))) ∧
  (∀ (s : State) (ch : Fin 1536), s.conventional ch = true → s.drainAsked ch = true →
    (∀ w ∈ (s.chan ch).writeQ, (s.chan ch).behind ch w = false) →
    Does (.writeDrain ch none) s (fun t => (t.chan ch).writeQ = [] ∧ (t.chan ch).readQ = (s.chan ch).readQ)) ∧
  (∀ (s : State) (ch : Fin 1536) (i : Fin 64) (q : Req), s.conventional ch = true → (s.chan ch).readQ[i.val]? = some q →
    (s.chan ch).covered ch q ≠ 0 → (s.chan ch).covered ch q ≠ BitVec.allOnes 64 → s.canServe ch q = true →
    Does (.writeDrain ch (some i)) s (fun t =>
      (t.chan ch).readQ = (s.chan ch).readQ.erase q ∧
      ∀ w ∈ (t.chan ch).writeQ, w.spot ch = q.spot ch → (s.chan ch).behind ch w = true)) ∧
  (∀ (s : State) (ch : Fin 1536) (j : Fin 48), s.conventional ch = true →
    ((s.chan ch).readQ ++ (s.chan ch).writeQ).any (fun q => q.bank == j.val && ((s.chan ch).bank j).row == some q.row) = false →
    Does (.rowCloseTimeout ch j) s (fun t => ((t.chan ch).bank j).row = none ∧
      (∀ k, k ≠ j.val → (t.chan ch).bank k = (s.chan ch).bank k) ∧ Keeps [.chans, .rows] s t)) ∧
  (∀ (s : State) (ch : Fin 1536), Does (.hotBankWindowEnd ch) s (fun t =>
    (t.chan ch).hotCnt = [] ∧ (t.chan ch).hotTotal = 0 ∧
    (t.chan ch).hotBank = (decide (s.inForce 0 rHOTCFG 12 16 ≤ (s.chan ch).hotTotal) &&
      decide (s.inForce 0 rHOTCFG 8 4 * (s.chan ch).hotTotal ≤ 16 * (s.chan ch).hottest.2) && decide (0 < (s.chan ch).hottest.2)) ∧
    ((t.chan ch).hotBank = true → (t.chan ch).hotIdx = (s.chan ch).hottest.1) ∧ SameBanks s t))

/-- Refresh, disturbance and errors of a channel (04 R136, R138, R142, R147, R148, R160 to R162; 06 R216 to R219): a refresh that falls due
is already issued, postponed at most four times and once more while a row is open, or performed, and a sleeping rank refreshes itself; an
alert clears the tallies of the row's wordline and its neighbours, spare ones included, and is counted, and its opener is throttled on the
bank; an error is counted and its command held to be issued again, and after the third failure it is given up: its read is answered
poisoned, its write is not performed; a command accepted when issued again serves its request or has its own effect. -/
def Obligations.RefreshAndAlertsComplete : Prop :=
  (∀ (s : State) (ch : Fin 1536) (j : Fin 48) (postpone : Bool) (b : Bank), b = (s.chan ch).bank j →
    (s.chan ch).rank (j.val / 2) ≠ .selfRefresh → (s.stack (ch.val / 16)).sr = false → (s.chan ch).mode = .conv →
    Does (.refreshDue ch j postpone) s (fun t =>
      (0 < b.early → ((t.chan ch).bank j).early = b.early - 1) ∧
      (b.early = 0 → b.row.isSome = true ∨ (postpone = true ∧ b.postponed < 4) →
        ((t.chan ch).bank j).postponed = min 5 (b.postponed + 1)) ∧
      (b.early = 0 → b.row = none → (postpone = false ∨ 4 ≤ b.postponed) →
        ((t.chan ch).bank j).refk = (b.refk + 1) % 8256 ∧
        ∀ w ∈ refreshWords b.refk, ∀ x ∈ s.rowsAt (bankOf ch j) w.1 w.2, (t.row x).tally = 0) ∧
      (∀ k, k ≠ ch.val → t.chan k = s.chan k) ∧ SameBanks s t)) ∧
  (∀ (s : State) (ch : Fin 1536) (j : Fin 48) (postpone : Bool),
    (s.chan ch).rank (j.val / 2) = .selfRefresh ∨ (s.stack (ch.val / 16)).sr = true →
    Does (.refreshDue ch j postpone) s (fun t =>
      ((t.chan ch).bank j).refk = (((s.chan ch).bank j).refk + 1) % 8256 ∧
      (∀ w ∈ refreshWords ((s.chan ch).bank j).refk, ∀ x ∈ s.rowsAt (bankOf ch j) w.1 w.2, (t.row x).tally = 0) ∧
      Keeps [.chans, .rows] s t)) ∧
  (∀ (s : State) (ch : Fin 1536) (j : Fin 48) (r : Nat), ((s.chan ch).bank j).alert = some r → (s.chan ch).mode = .conv →
    Does (.rowDisturbanceAlert ch j) s (fun t => ((t.chan ch).bank j).alert = none ∧
      (t.chan ch).alerts = satNat 16 ((s.chan ch).alerts + 1) ∧
      (((s.chan ch).bank j).opener < 28 → ∃ x ∈ (t.chan ch).throttles,
        x.who = ((s.chan ch).bank j).opener ∧ x.bank = j.val ∧ x.since = s.cyc) ∧
      (∀ w ∈ neighbourWords (s.wordOf (bankOf ch j) r).1 (s.wordOf (bankOf ch j) r).2,
        ∀ x ∈ s.rowsAt (bankOf ch j) w.1 w.2, (t.row x).tally = 0) ∧ SameBanks s t)) ∧
  (∀ (s : State) (ch : Fin 1536) (j : Fin 48) (r : Nat), ((s.chan ch).bank j).alert = some r → (s.chan ch).mode ≠ .conv →
    Does (.rowDisturbanceAlert ch j) s (fun t => ((t.chan ch).bank j).alert = some r ∧
      (t.chan ch).alerts = satNat 16 ((s.chan ch).alerts + 1) ∧ t.rows = s.rows ∧ SameBanks s t)) ∧
  (∀ (s : State) (ch : Fin 1536) (who : BitVec 5) (j : Fin 48),
    exec (.throttleHoldEnd ch who j) s = .next (s.modChan ch (fun c => { c with
      throttles := c.throttles.filter (fun x =>
        !(x.who == who.toNat && x.bank == j.val && decide (x.since + s.inForce 0 rRDCFG 12 8 * 160000 ≤ s.cyc))) }))) ∧
  (∀ (s : State) (ch : Fin 1536) (column write : Bool) (word : BitVec 28) (data : BitVec 272) (who : BitVec 5) (line : Nat) (path : Fin 10)
      (n : Nat), ((s.chan ch).caHeld = none ∧ n = 1) ∨
      (∃ y : BusCmd, (s.chan ch).caHeld = some y ∧ n = y.fails + 1 ∧ n < 3 ∧
        y.column = column ∧ y.word = word.toNat ∧ y.line = line ∧ y.who = who.toNat) →
    Does (.commandErrorAlert ch column word data who write line path) s (fun t =>
      (t.chan ch).caHeld = some { column := column, word := word.toNat, who := who.toNat, write := write, line := line, path := path
                                  data := data, fails := n, waiting := true } ∧
      (t.chan ch).caerr = satNat 8 ((s.chan ch).caerr + 1) ∧ (t.chan ch).readQ = (s.chan ch).readQ ∧
      (t.chan ch).writeQ = (s.chan ch).writeQ ∧ Keeps [.chans] s t)) ∧
  (∀ (s : State) (ch : Fin 1536) (column : Bool) (word : BitVec 28) (data : BitVec 272) (who : BitVec 5) (line : Nat) (path : Fin 10)
      (y : BusCmd), (s.chan ch).caHeld = some y → 2 ≤ y.fails → y.column = column → y.word = word.toNat → y.line = line → y.who = who.toNat →
    Does (.commandErrorAlert ch column word data who false line path) s (fun t => (t.chan ch).caHeld = none ∧
      (t.chan ch).caerr = satNat 8 ((s.chan ch).caerr + 1) ∧ (∃ a, t.out.answer = some a ∧ a.poison = true) ∧
      (∀ q, (s.chan ch).readQ.find? (fun q => q.who == who.toNat && q.spot ch == line) = some q →
        (t.chan ch).readQ = (s.chan ch).readQ.erase q) ∧ SameBanks s t)) ∧
  (∀ (s : State) (ch : Fin 1536) (column : Bool) (word : BitVec 28) (data : BitVec 272) (who : BitVec 5) (line : Nat) (path : Fin 10)
      (y : BusCmd), (s.chan ch).caHeld = some y → 2 ≤ y.fails → y.column = column → y.word = word.toNat → y.line = line → y.who = who.toNat →
    Does (.commandErrorAlert ch column word data who true line path) s (fun t => (t.chan ch).caHeld = none ∧
      (∀ q, (s.chan ch).writeQ.find? (fun q => q.who == who.toNat && q.spot ch == line) = some q →
        (t.chan ch).writeQ = (s.chan ch).writeQ.erase q) ∧ SameBanks s t)) ∧
  (∀ (s : State) (ch : Fin 1536) (accepted : Bool), (s.chan ch).caHeld = none → exec (.commandReissue ch accepted) s = .next s) ∧
  (∀ (s : State) (ch : Fin 1536) (x : BusCmd), (s.chan ch).caHeld = some x → x.fails < 2 →
    Does (.commandReissue ch false) s (fun t => (∃ y : BusCmd, (t.chan ch).caHeld = some y ∧ y.fails = x.fails + 1 ∧ y.word = x.word) ∧
      (t.chan ch).caerr = satNat 8 ((s.chan ch).caerr + 1) ∧ Keeps [.chans] s t)) ∧
  (∀ (s : State) (ch : Fin 1536) (x : BusCmd) (q : Req), (s.chan ch).caHeld = some x → dieRejects x.column x.word = false →
    (s.chan ch).servedBy ch x = some q → x.write = false → s.serves ch = true → s.canServe ch q = true →
    exec (.commandReissue ch true) s = .next ((s.modChan ch (fun c => { c with caHeld := none })).serve ch q)) ∧
  (∀ (s : State) (ch : Fin 1536) (x : BusCmd) (q : Req), (s.chan ch).caHeld = some x → dieRejects x.column x.word = false →
    (s.chan ch).servedBy ch x = some q → x.write = true → s.serves ch = true → (s.chan ch).behind ch q = false →
    exec (.commandReissue ch true) s =
      .next (((s.modChan ch (fun c => { c with caHeld := none })).modChan ch (fun c => { c with
        writeQ := c.writeQ.erase q })).performWrite ch q)) ∧
  (∀ (s : State) (ch : Fin 1536) (x : BusCmd) (s1 : State), (s.chan ch).caHeld = some x → dieRejects x.column x.word = false →
    (s.chan ch).servedBy ch x = none → s1 = s.modChan ch (fun c => { c with caHeld := none }) →
    exec (.commandReissue ch true) s =
      if x.path ≠ 8 then .next s1 else if x.column then runColumn ch x.word x.data s1 else runRow ch x.word x.who s1)

/-- Power states and training of a channel (04 R141 to R143, R153 to R158; 05 R209): an idle rank enters power-down, or
self-refresh with its near-bank units' state lost; a stack whose ranks all are in self-refresh enters stack self-refresh and
leaves it when its wake is admitted, each channel to be re-centred first; a re-centring sets the delays to the centres of the runs it
finds, or of the full sweep's where a run is short, a centre moves too far or errors asked for one, and starts its age again; a full sweep
with a run below MINEYE fails the stack and retires its tile; a channel asleep, or in near-bank mode between yield points, waits. -/
def Obligations.PowerStatesComplete : Prop :=
  (∀ (s : State) (ch : Fin 1536) (rank : Fin 24), s.maySleep ch rank = true → (s.chan ch).rank rank = .awake → s.inForce 0 rPWRCFG 0 8 ≠ 0 →
    Does (.powerDownEntry ch rank) s (fun t => (t.chan ch).rank rank = .down ∧
      (∀ r, r ≠ rank.val → (t.chan ch).rank r = (s.chan ch).rank r) ∧ Keeps [.chans] s t)) ∧
  (∀ (s : State) (ch : Fin 1536) (rank : Fin 24), s.maySleep ch rank = true → (s.chan ch).rank rank ≠ .selfRefresh →
    s.inForce 0 rPWRCFG 8 8 ≠ 0 →
    Does (.selfRefreshEntry ch rank) s (fun t => (t.chan ch).rank rank = .selfRefresh ∧
      (∀ j ∈ rankBanks rank, t.nbu (bankOf ch j) = {}) ∧ Keeps [.chans, .nbus] s t)) ∧
  (∀ (s : State) (st : Fin 96), (s.stack st).sr = false → s.inForce 0 rPWRCFG 16 8 ≠ 0 →
    (∀ c ∈ stackChans st, (s.chan c).mode ≠ .nearBank) →
    ((stackChans st).all (fun c => (List.range 24).all (fun r => (s.chan c).rank r == .selfRefresh))) = true →
    Does (.stackSelfRefreshEntry st) s (fun t => (t.stack st).sr = true ∧ Keeps [.stks, .chans, .nbus] s t)) ∧
  (∀ (s : State) (st : Fin 96), (s.stack st).sr = true → (s.stack st).hold = false → (0, st.val) ∈ (s.hub (st.val / 6)).admitted →
    Does (.stackSelfRefreshExit st) s (fun t => (t.stack st).sr = false ∧
      (∀ i < 16, ∀ r, (t.chan (16 * st.val + i)).rank r = .awake) ∧
      (∀ i < 16, (t.chan (16 * st.val + i)).recentreDue = true) ∧ Keeps [.stks, .chans, .hubs] s t)) ∧
  (∀ (s : State) (ch : Fin 1536) (runs res : Sweep) (sweeps : List Sweep) (full : Bool),
    ((List.range 24).all (fun r => (s.chan ch).rank r == .selfRefresh)) = false →
    ((s.chan ch).mode = .nearBank → (s.chan ch).yield = true) →
    full = ((s.chan ch).sweepDue || decide (narrowest runs < s.inForce 0 rTRNCFG 8 6) ||
      decide (s.inForce 0 rTRNCFG 20 4 < (s.chan ch).farthest runs)) →
    res = (if full then trained (s.inForce 0 rTRNCFG 8 6) sweeps else runs) → (full = true → s.inForce 0 rTRNCFG 8 6 ≤ narrowest res) →
    Does (.recentre ch runs sweeps) s (fun t => (t.chan ch).trnAt = s.cyc ∧ (t.chan ch).recentreDue = false ∧
      (t.chan ch).sweepDue = false ∧ (t.chan ch).eye = some (satNat 6 (narrowest res)) ∧
      (∀ d, d < 34 → Tab.get (fun _ => 31) (t.chan ch).taps d = centreOf (runOf res d)) ∧
      (∀ k, k ≠ ch.val → t.chan k = s.chan k) ∧ Keeps [.chans, .hubs] s t)) ∧
  (∀ (s : State) (ch : Fin 1536) (runs : Sweep) (sweeps : List Sweep),
    ((List.range 24).all (fun r => (s.chan ch).rank r == .selfRefresh)) = false →
    ((s.chan ch).mode = .nearBank → (s.chan ch).yield = true) →
    (s.chan ch).sweepDue = true ∨ narrowest runs < s.inForce 0 rTRNCFG 8 6 ∨ s.inForce 0 rTRNCFG 20 4 < (s.chan ch).farthest runs →
    narrowest (trained (s.inForce 0 rTRNCFG 8 6) sweeps) < s.inForce 0 rTRNCFG 8 6 →
    Does (.recentre ch runs sweeps) s (fun t => ∃ u : State, (u.stack (ch.val / 16)).down = true ∧ (u.chan ch).taps = (s.chan ch).taps ∧
      Keeps [.chans, .hubs, .stks] s u ∧ t = u.retireTile (tileOfChan ch) 1 false)) ∧
  (∀ (s : State) (ch : Fin 1536) (runs : Sweep) (sweeps : List Sweep),
    ((List.range 24).all (fun r => (s.chan ch).rank r == .selfRefresh)) = true ∨
      ((s.chan ch).mode = .nearBank ∧ (s.chan ch).yield = false) →
    exec (.recentre ch runs sweeps) s = .next (s.modChan ch (fun c => { c with recentreDue := true })))

/-- Decodes, scrub and re-encode of the page code (03 R84 to R90, R94, R100 to R111, R115): a waiting decode starts when a decoder is free;
one that succeeds sets LASTCORR, counts the correction and answers the column, one that fails poisons the lines of every failed column and
is counted, and a row under R84 is answered poisoned; scrub reads a channel's next row under its grant and, below every threshold,
writes EPOCH (the completed passes: the model's choice, log entry 87), LASTCORR and STRIKES, retires a row at the RETIRE threshold to
a spare row, and poisons the failed columns' lines of one that does not decode; a re-encode writes one row at a time at its new strength, and
leaves a row under R84 at its own (the model's choice, log entry 81). The bytes of the banks stay. -/
def Obligations.PageCodeCommandsComplete : Prop :=
  (∀ (s : State) (st : Fin 96) (d : Decode) (rest : List Decode), (s.stack st).decWait = d :: rest → (s.stack st).decRun.length < 4 →
    exec (.fullRowDecode st) s = .next (s.modStack st (fun k => { k with decWait := rest, decRun := k.decRun ++ [d] }))) ∧
  (∀ (s : State) (st : Fin 96) (d : Decode) (rest : List Decode), (s.stack st).decRun = d :: rest → d.req = none →
    Does (.fullRowDecodeDone st) s (fun t => t.mem = s.mem ∧
      t.out.answer = some { kind := 1, data := t.rawColumn d.row d.col, poison := t.isPoisoned (d.row * 32 + d.col / 2) || t.badTag d.row } ∧
      (s.badTag d.row = true → t.pois = s.pois ∧ t.logs.unccnt = satNat 32 (s.logs.unccnt + 1)) ∧
      (s.badTag d.row = false → s.decoded d.row = none → t.logs.unccnt = satNat 32 (s.logs.unccnt + 1) ∧
        ∀ c ∈ s.failedColumns d.row, t.colBad (colKey d.row c) = true) ∧
      (∀ code fix, s.badTag d.row = false → s.decoded d.row = some (code, fix) → s.suspects d.row code fix = [] → 0 < fix.length →
        (t.row d.row).lastCorr = fix.length ∧ t.logs.corrcnt = satNat 32 (s.logs.corrcnt + 1) ∧ t.logs.unccnt = s.logs.unccnt))) ∧
  (∀ (s : State) (st : Fin 96) (d : Decode) (rest : List Decode) (q : Req), (s.stack st).decRun = d :: rest → d.req = some q → q.fill ≠ 2 →
    Does (.fullRowDecodeDone st) s (fun t => t.mem = s.mem ∧ ∃ a, t.out.answer = some a ∧ a.kind = 1)) ∧
  (∀ (s : State), Does .scrubPassStart s (fun t =>
    t.logs.passTime = s.stamp ∧ t.logs.progress = 0 ∧ t.logs.scrubPeriod = s.cfg rSCRBCFG 0 8 ∧
    (∀ k < 16, (t.hub k).scrubDone = 0) ∧ (∀ p, (t.parcel p).raised = 0 ∧ (t.parcel p).stepped = false) ∧
    (∀ b, (t.bspare b).colHits = []) ∧ (∀ c, (t.chan c).scrubAt = 0) ∧ SameBanks s t)) ∧
  (∀ (s : State) (ch : Fin 1536) (rank : Fin 24) (last : Nat), (s.chan ch).rank rank = .selfRefresh → (s.stack (ch.val / 16)).sr = false →
    last = Tab.get (fun _ => 0) (s.chan ch).scrubWoke rank.val → (last = 0 ∨ last + 16000000000 ≤ s.cyc + 1) →
    Does (.scrubRankWake ch rank) s (fun t => (t.chan ch).rank rank = .awake ∧
      Tab.get (fun _ => 0) (t.chan ch).scrubWoke rank.val = s.cyc + 1 ∧ (∀ k, k ≠ ch.val → t.chan k = s.chan k) ∧ Keeps [.chans] s t)) ∧
  (∀ (s : State) (ch : Fin 1536) (rank : Fin 24), 0 < Tab.get (fun _ => 0) (s.chan ch).scrubWoke rank.val →
    s.cyc + 1 < Tab.get (fun _ => 0) (s.chan ch).scrubWoke rank.val + 16000000000 → exec (.scrubRankWake ch rank) s = .next s) ∧
  (∀ (s : State) (ch : Fin 1536) (at_ j rk : Nat), at_ = (s.chan ch).scrubAt → j = at_ / 65536 → rk = rowKey (bankOf ch j) (at_ % 65536) →
    j < 48 → (s.hub (tileOfChan ch)).retired = false → (s.chan ch).rank (j / 2) ≠ .selfRefresh → (s.stack (ch.val / 16)).decRun.length < 4 →
    (((s.chan ch).bank j).row = some (at_ % 65536) ∨ s.mayActivate ch j 7 = true) → s.canGrant ch 7 = true →
    Does (.scrubRow ch) s (fun t => t.mem = s.mem ∧
      (t.chan ch).scrubAt = at_ + 1 ∧ (t.hub (tileOfChan ch)).scrubDone = (s.hub (tileOfChan ch)).scrubDone + 1 ∧
      (s.badTag rk = false → s.decoded rk = none → t.logs.unccnt = satNat 32 (s.logs.unccnt + 1) ∧
        ∀ c ∈ s.failedColumns rk, t.colBad (colKey rk c) = true) ∧
      (∀ code fix x, s.badTag rk = false → s.decoded rk = some (code, fix) → s.suspects rk code fix = [] →
        x = strengthOf code → fix.length < thresholdOf (s.cfg rSCRBTHR 0 4) x → fix.length < thresholdOf (s.cfg rSCRBTHR 4 4) x →
        fix.length < thresholdOf (s.cfg rSCRBTHR 8 4) x → 0 < s.cfg rSCRBTHR 12 2 →
        (t.row rk).epoch = s.logs.pass % 65536 ∧ (t.row rk).lastCorr = fix.length ∧ (t.row rk).strikes = 0) ∧
      (∀ code fix x, s.badTag rk = false → s.decoded rk = some (code, fix) → s.suspects rk code fix = [] →
        thresholdOf (s.cfg rSCRBTHR 8 4) (strengthOf code) ≤ fix.length → (s.bspare (bankOf ch j)).pickRow (at_ % 65536) = some x →
        (s.stack (ch.val / 16)).pendingRepair.any (fun r => r.kind == 0 && r.at_ == rk) = false →
        { kind := 0, at_ := rk, spare := x } ∈ (t.stack (ch.val / 16)).pendingRepair))) ∧
  (∀ (s : State) (ch : Fin 1536), s.canGrant ch 7 = false → exec (.scrubRow ch) s = .next s) ∧
  (∀ (s : State) (p : Fin 8192) (sl x n r : Nat), s.noDecoder p n = false → s.slotOfParcel p = some sl →
    (s.slot sl).reenc = some (x, n) → r = parcelRow p n →
    Does (.reencodeRow p) s (fun t => t.mem = s.mem ∧
      (n + 1 < parcelRows → (t.slot sl).reenc = some (x, n + 1) ∧
        (s.badTag r = false → (t.row r).code = some x) ∧
        (s.badTag r = false → (s.row r).errs = [] → Keeps [.rows, .slots] s t) ∧
        (s.badTag r = true → (t.row r).code = some (s.rowCode r) ∧ t.logs.unccnt = satNat 32 (s.logs.unccnt + 1))) ∧
      (n + 1 = parcelRows → (t.slot sl).reenc = none ∧ (t.slot sl).code = x ∧ (t.slot sl).codeDesc = none))) ∧
  (∀ (s : State) (p : Fin 8192) (x n r : Nat), s.noDecoder p n = false → s.slotOfParcel p = none →
    (s.parcel p).reenc = some (x, n) → r = parcelRow p n →
    Does (.reencodeRow p) s (fun t => t.mem = s.mem ∧
      (n + 1 < parcelRows → (t.parcel p).reenc = some (x, n + 1) ∧ (s.badTag r = false → (t.row r).code = some x)) ∧
      (n + 1 = parcelRows → (t.parcel p).reenc = none ∧ (t.parcel p).code = none))) ∧
  (∀ (s : State) (p : Fin 8192) (sl x n : Nat), s.slotOfParcel p = some sl → (s.slot sl).reenc = some (x, n) → s.noDecoder p n = true →
    exec (.reencodeRow p) s = .next s)

/-- Slot moves, repairs and spares (02 R36 to R42, R55, R56; 03 R114; 05 R210; 18 R670, R693 to R696): a move is directed to the
reserve parcel R58 names, a parcel to be retired that finds none staying in service; its flip binds the slot to its new parcel, at once or, for
channels that run a pass, at their yield points; a repair's redirect flips when its copy has ended, in near-bank mode only where its
banks are at a yield point and a block boundary; a spare that fails its test is marked unusable; a swap test returns a passing bank with
the repairs it had and keeps the spare for a failing one. -/
def Obligations.MovesAndSparesComplete : Prop :=
  (∀ (s : State) (slot : Fin 7168) (q : Nat), (s.slot slot).moveTo = none → s.moveTarget ((s.slot slot).phys / 512) = some q →
    Does (.slotMove slot) s (fun t => (t.slot slot).moveTo = some q ∧ (t.slot slot).phys = (s.slot slot).phys ∧
      ∀ i, i ≠ slot.val → t.slot i = s.slot i)) ∧
  (∀ (s : State) (slot : Fin 7168), (s.slot slot).moveTo = none → s.moveTarget ((s.slot slot).phys / 512) = none →
    (s.parcel (s.slot slot).phys).retired = true →
    Does (.slotMove slot) s (fun t => (t.parcel (s.slot slot).phys).retired = false ∧ t.slots = s.slots ∧ SameBanks s t)) ∧
  (∀ (s : State) (slot : Fin 7168) (q : Nat), (s.slot slot).moveTo = some q →
    (∀ i < 96, (s.chan ((s.slot slot).phys / 512 * 96 + i)).pass = none) →
    Does (.slotMoveFlip slot) s (fun t => (t.slot slot).phys = q ∧ (t.slot slot).moveTo = none)) ∧
  (∀ (s : State) (slot : Fin 7168) (q i : Nat), (s.slot slot).moveTo = some q → i < 96 →
    (s.chan ((s.slot slot).phys / 512 * 96 + i)).pass ≠ none →
    Does (.slotMoveFlip slot) s (fun t => slot.val ∈ (t.chan ((s.slot slot).phys / 512 * 96 + i)).flips ∧
      (t.slot slot).phys = (s.slot slot).phys ∧ (t.slot slot).moveTo = some q ∧ (t.slot slot).flipping = true)) ∧
  (∀ (s : State) (st : Fin 96) (r : Repair) (rest : List Repair), (s.stack st).pendingRepair = r :: rest → s.repairMay r = true →
    Does (.repairFlip st) s (fun t => (t.stack st).pendingRepair = rest ∧ t.mem = s.mem ∧
      (r.kind = 0 → (t.row r.at_).spare = some r.spare ∧ (r.wrong = false → SameBanks s t)) ∧
      (r.kind = 1 → ∀ k, k / 65536 = r.at_ → (t.row k).spare = none) ∧
      (∀ c, r.kind = 3 → (s.bspare r.at_).freeCol = some c → (s.bspare r.at_).cols.any (fun e => e.1 == r.spare) = false →
        (t.bspare r.at_).cols = (s.bspare r.at_).cols ++ [(r.spare, c)]))) ∧
  (∀ (s : State) (st : Fin 96) (r : Repair) (rest : List Repair), (s.stack st).pendingRepair = r :: rest → s.repairMay r = false →
    exec (.repairFlip st) s = .next s) ∧
  (∀ (s : State) (st : Fin 96) (kind : Fin 4) (rank : Fin 24) (half : Bool) (inStack : Fin 768) (idx : Fin 512),
    exec (.spareTest st kind rank half inStack idx true) s = .next (s.modStack st (fun k => { k with spareAt := k.spareAt + 1 }))) ∧
  (∀ (s : State) (st : Fin 96) (kind : Fin 4) (rank : Fin 24) (half : Bool) (inStack : Fin 768) (idx : Fin 512) (b : Nat),
    b = st.val * 768 + inStack.val →
    Does (.spareTest st kind rank half inStack idx false) s (fun t =>
      (kind = 0 → (s.stack st).die = none → (t.stack st).badDie = true) ∧
      (kind = 1 → (s.stack st).banks.any (fun x => x.1 == rank.val && x.2.1 == nat half) = false →
        (rank.val, nat half) ∈ (t.stack st).badBanks) ∧
      (kind = 2 → idx.val ∉ (s.bspare b).rows → idx.val ∈ (t.bspare b).badRows) ∧
      (kind = 3 → (s.bspare b).cols.any (fun e => e.2 == idx.val % 4) = false → idx.val % 4 ∈ (t.bspare b).badCols) ∧
      Keeps [.stks, .bspares] s t)) ∧
  (∀ (s : State) (st : Fin 96) (inStack : Fin 768) (b : Nat), b = st.val * 768 + inStack.val → flag (s.reg 0 rRCVCFG) 1 = true →
    (s.stack st).testing = none → (s.stack st).bankFree b = true → s.repairMay { kind := 1, at_ := b } = true →
    Does (.swapTestReturn st inStack) s (fun t =>
      (t.stack st).testing = some ((dieHalf b).1, (dieHalf b).2, bankInHalf b) ∧ (t.stack st).swapTable = s.bspare b ∧
      (∀ k, k / 65536 = b → (t.row k).spare = none) ∧ t.logs.strActive = true ∧ Keeps [.stks, .bspares, .rows, .logs] s t)) ∧
  (∀ (s : State) (st : Fin 96) (inStack : Fin 768), flag (s.reg 0 rRCVCFG) 1 = true → (s.stack st).testing = none →
    (s.stack st).bankFree (st.val * 768 + inStack.val) = false →
    exec (.swapTestReturn st inStack) s = .next (s.putLogs { s.logs with skipped := satNat 16 (s.logs.skipped + 1) })) ∧
  (∀ (s : State) (st : Fin 96) (x : Nat × Nat × Nat) (pass : Bool), (s.stack st).testing = some x →
    s.repairMay { kind := 1, at_ := bankOfHalf st x } = true →
    Does (.swapTestDone st pass) s (fun t => (t.stack st).testing = none ∧
      (t.stack st).banks = (if pass then (s.stack st).banks else (s.stack st).banks ++ [x]) ∧
      (pass = true → t.bspare (bankOfHalf st x) = (s.stack st).swapTable) ∧
      t.logs.tested = (s.logs.tested + 1) % 2 ^ 17 ∧
      t.logs.strFailed = (if pass then s.logs.strFailed else satNat 16 (s.logs.strFailed + 1)) ∧ SameBanks s t))

/-- The records written over the sideband (02 R66, R70; 16 R611; 20 R738): a hash record of nine masks, and an identifier with its domain
key, are kept and do not take effect yet: the masks, the identifier and the key in use stay. Nothing is written while the always-on rail is
down, or where the hubs of T0 and T4 are both retired. -/
def Obligations.SidebandRecordsWait : Prop :=
  (∀ (s : State) (masks : List (BitVec 32)), masks.length = 9 → s.sideband = true →
    Does (.hashRecordWrite masks) s (fun t => t.boot.hashRec = masks.map (fun w => w.toNat &&& 0x03FFFFFE) ∧
      t.boot.hashMask = s.boot.hashMask ∧ Keeps [.boot] s t)) ∧
  (∀ (s : State) (modid : BitVec 6) (dkey : BitVec 16), s.sideband = true →
    Does (.modidDkeyWrite modid dkey) s (fun t => t.boot.newId = some (modid.toNat, dkey.toNat) ∧
      t.boot.modid = s.boot.modid ∧ t.boot.dkey = s.boot.dkey ∧ Keeps [.boot] s t)) ∧
  (∀ (s : State) (masks : List (BitVec 32)) (modid : BitVec 6) (dkey : BitVec 16) (image : Image),
    (s.power.on = false ∨ ((s.hub 0).retired = true ∧ (s.hub 4).retired = true)) →
    exec (.hashRecordWrite masks) s = .next s ∧ exec (.modidDkeyWrite modid dkey) s = .next s ∧
      exec (.sidebandImageWrite image) s = .next s)

/-- Near-bank mode and rows (06 R220, R230, R233 to R237, R239 to R241, R245 to R249, R751; 05 R204): NBE and NBX enter and leave the mode
and NBRDY's rise ends the leaving; AHA opens the ahead row, but not for a new yield interval at whose test a host-class request waited; SWT
makes it the compute row in every participating bank; NRF refreshes, owing the wordlines of subarrays with an open row, and is
postponed up to four times where a host waited; NNR refreshes the neighbours of an alerted row; an owed wordline is refreshed when its
subarray has closed. -/
def Obligations.NearBankRowsComplete : Prop :=
  (∀ (s : State) (ch : Fin 1536), s.conventional ch = true → (s.chan ch).nbsGranted = true →
    (∀ j ∈ allBanks, ((s.chan ch).bank j).row = none ∧ ((s.chan ch).bank j).postponed ≤ 2) →
    (∀ r < 24, (s.chan ch).rank r = .awake) → (s.chan ch).writeQ = [] → (s.stack (ch.val / 16)).level < 4 →
    ((1, ch.val % 96) ∈ (s.hub (tileOfChan ch)).admitted ∨ ((s.chan ch).yieldExit = true ∧ s.cyc ≤ (s.chan ch).nbxAt + 1600)) →
    Does (.nbe ch) s (fun t => (t.chan ch).mode = .nearBank ∧ (t.chan ch).nbrdy = false ∧
      (∀ k, k ≠ ch.val → t.chan k = s.chan k) ∧ Keeps [.chans, .hubs] s t)) ∧
  (∀ (s : State) (ch : Fin 1536), (s.chan ch).mode = .nearBank → ((s.chan ch).yield = true ∨ (s.chan ch).pass = none) →
    s.computing ch = false →
    (∀ j ∈ allBanks, ((s.chan ch).bank j).compute = none ∧ ((s.chan ch).bank j).ahead = none ∨ ((s.chan ch).bank j).actAt + 45 ≤ s.cyc) →
    Does (.nbx ch) s (fun t => (t.chan ch).mode = .leaving ∧
      (∀ j, ((t.chan ch).bank j).compute = none ∧ ((t.chan ch).bank j).ahead = none) ∧ Keeps [.chans] s t)) ∧
  (∀ (s : State) (ch : Fin 1536), (s.chan ch).mode = .leaving →
    Does (.nbrdyRise ch) s (fun t => (t.chan ch).mode = .conv ∧ (t.chan ch).nbrdy = true ∧ (t.chan ch).nrfPost = 0 ∧
      (t.chan ch).banks = (s.chan ch).banks ∧ Keeps [.chans] s t)) ∧
  (∀ (s : State) (ch : Fin 1536) (rank : BitVec 5) (bank : Bool) (row : BitVec 16) (j who rk : Nat), rank.toNat < 24 →
    j = 2 * rank.toNat + nat bank → rk = rowKey (bankOf ch j) row.toNat →
    (s.chan ch).mode = .nearBank → ((s.chan ch).bank j).ahead = none →
    (∀ r, ((s.chan ch).bank j).compute = some r → s.subOf ch j r ≠ s.subOf ch j row.toNat) →
    (∀ o ∈ ((s.chan ch).bank j).owed, o % 64 ≠ s.subOf ch j row.toNat) →
    who = (match (s.chan ch).pass with | some p => 8 + p.ctx % 4 | none => 8) → (s.testHost ch).ahaMay ch j row.toNat who = true →
    Does (.aha ch rank bank row) s (fun t =>
      ((t.chan ch).bank j).ahead = some row.toNat ∧ ((t.chan ch).bank j).compute = ((s.chan ch).bank j).compute ∧
      (t.row rk).tally = satNat 16 ((s.row rk).tally + 1) ∧ Keeps [.chans, .rows] s t)) ∧
  (∀ (s : State) (ch : Fin 1536) (rank : BitVec 5) (bank : Bool) (row : BitVec 16) (p : Pass), rank.toNat < 24 →
    (s.chan ch).mode = .nearBank → ((s.chan ch).bank (2 * rank.toNat + nat bank)).ahead = none →
    ((s.chan ch).bank (2 * rank.toNat + nat bank)).compute = none → (s.chan ch).pass = some p → p.crosses = true → p.held = none →
    s.hostWaiting ch (s.cyc / 3 * 3) = true →
    Does (.aha ch rank bank row) s (fun t => (t.chan ch).banks = (s.chan ch).banks ∧
      (t.chan ch).pass = some { p with held := some true } ∧ Keeps [.chans] s t)) ∧
  (∀ (s : State) (ch : Fin 1536) (rank : BitVec 5) (bank : Bool) (row : BitVec 16) (j : Nat), rank.toNat < 24 →
    j = 2 * rank.toNat + nat bank → (s.chan ch).mode = .nearBank →
    (((s.chan ch).bank j).ahead ≠ none ∨ ∃ r, ((s.chan ch).bank j).compute = some r ∧ s.subOf ch j r = s.subOf ch j row.toNat) →
    Does (.aha ch rank bank row) s (fun t => (t.nbu (bankOf ch j)).seqerr = true ∧ Keeps [.nbus] s t)) ∧
  (∀ (s : State) (ch : Fin 1536), (s.chan ch).mode = .nearBank → (s.chan ch).yield = false →
    (∀ p, (s.chan ch).pass = some p → p.yieldDue = false ∧ p.rowTaken = true) →
    (∀ j ∈ s.participating ch, ((s.chan ch).bank j).ahead ≠ none) → s.computing ch = false →
    Does (.swt ch) s (fun t =>
      (∀ j ∈ s.participating ch, ((t.chan ch).bank j).compute = ((s.chan ch).bank j).ahead ∧ ((t.chan ch).bank j).ahead = none) ∧
      (∀ j, j ∉ s.participating ch → (t.chan ch).bank j = (s.chan ch).bank j) ∧ Keeps [.chans] s t)) ∧
  (∀ (s : State) (ch : Fin 1536), (s.chan ch).mode = .nearBank →
    ((∀ p, (s.chan ch).pass = some p → p.held ≠ some true) ∨ 4 ≤ (s.chan ch).nrfPost) →
    Does (.nrf ch) s (fun t => (t.chan ch).nrfPost = (s.chan ch).nrfPost - 1 ∧
      (∀ j ∈ allBanks, ∀ b, b = (s.chan ch).bank j → ((t.chan ch).bank j).refk = (b.refk + 1) % 8256 ∧
        ((t.chan ch).bank j).postponed = b.postponed - 1 ∧
        ((t.chan ch).bank j).owed = b.owed ++
          ((refreshWords b.refk).filter (fun w => (s.openSubs ch j).contains w.1)).map (fun w => w.2 * 64 + w.1) ∧
        ∀ w ∈ refreshWords b.refk, w.1 ∉ s.openSubs ch j → ∀ x ∈ s.rowsAt (bankOf ch j) w.1 w.2, (t.row x).tally = 0) ∧
      Keeps [.chans, .rows] s t)) ∧
  (∀ (s : State) (ch : Fin 1536) (p : Pass), (s.chan ch).mode = .nearBank → (s.chan ch).pass = some p → p.held = some true →
    (s.chan ch).nrfPost < 4 → exec (.nrf ch) s = .next (s.modChan ch (fun c => { c with nrfPost := c.nrfPost + 1 }))) ∧
  (∀ (s : State) (ch : Fin 1536) (rank : BitVec 5) (bank : Bool) (r j : Nat), rank.toNat < 24 → j = 2 * rank.toNat + nat bank →
    (s.chan ch).mode = .nearBank → ((s.chan ch).bank j).alert = some r → (s.openSubs ch j).length ≤ 1 →
    ((s.chan ch).bank j).compute ≠ some r → ((s.chan ch).bank j).ahead ≠ some r →
    Does (.nnr ch rank bank) s (fun t => ((t.chan ch).bank j).alert = none ∧
      (∀ w ∈ neighbourWords (s.wordOf (bankOf ch j) r).1 (s.wordOf (bankOf ch j) r).2,
        ∀ x ∈ s.rowsAt (bankOf ch j) w.1 w.2, (t.row x).tally = 0) ∧ Keeps [.chans, .rows] s t)) ∧
  (∀ (s : State) (ch : Fin 1536) (j : Fin 48) (r : Nat) (rest : List Nat), ((s.chan ch).bank j).owed = r :: rest →
    r % 64 ∉ s.openSubs ch j →
    Does (.owedWordlineRefresh ch j) s (fun t => ((t.chan ch).bank j).owed = rest ∧
      (∀ x ∈ s.rowsAt (bankOf ch j) (r % 64) (r / 64), (t.row x).tally = 0) ∧ Keeps [.chans, .rows] s t))

/-- Near-bank operands (06 R221, R222, R224 to R226, R239; 05 R165, R172, R173, R177 to R179, R194, R204): BBQ sets the beat counter; BBW
stages one beat at every unit, and a staged beat is stored in the bytes of the unit's window and in no other; a beat that fails its check
poisons the set in whose window it falls; CFGW configures or parks the units it names and no other, and a beat that fails its check
configures none; CCL moves every participating unit that may compute through one column, and a unit that may not sets SEQERR. -/
def Obligations.NearBankOperandsComplete : Prop :=
  (∀ (s : State) (ch : Fin 1536) (q : BitVec 16), (s.chan ch).mode = .nearBank →
    exec (.bbq ch q) s = .next (s.modChan ch (fun c => { c with beat := q.toNat }))) ∧
  (∀ (s : State) (ch : Fin 1536) (data : BitVec 256) (flips : List (Fin 48 × BitVec 272)) (q : Nat), q = (s.chan ch).beat →
    (s.chan ch).mode = .nearBank → (∀ j ∈ allBanks, ((s.nbu (bankOf ch j)).sync s.cyc).staged.length < 6) →
    Does (.bbw ch data flips) s (fun t => (t.chan ch).beat = (q + 1) % 65536 ∧
      (∀ j ∈ allBanks, ∀ n x, n = (s.nbu (bankOf ch j)).sync s.cyc → x = bbwReceived data q j flips →
        (t.nbu (bankOf ch j)).stagedAt = s.cyc / 3 ∧ (t.nbu (bankOf ch j)).staged = n.staged ++ [(q, x.extractLsb' 0 256)] ∧
        ((∀ f ∈ flips, f.1.val ≠ j) → x.extractLsb' 0 256 = data ∧ (t.nbu (bankOf ch j)).poison = n.poison) ∧
        (beatState x (bbwAdded q) ≠ .good → n.inWindow q = true → (t.nbu (bankOf ch j)).poison = n.poisonSet.poison)) ∧
      Keeps [.chans, .nbus] s t)) ∧
  (∀ (n : Nbu) (q : Nat) (data : List Byte) (x : Nat), data.length = 32 → x < 4096 →
    Tab.get (fun _ => 0) (n.writeBeat q data).abuf x =
      (if 32 * q ≤ 32 * n.woff + x ∧ 32 * n.woff + x < 32 * q + 32 then data.getD (32 * n.woff + x - 32 * q) 0
       else Tab.get (fun _ => 0) n.abuf x)) ∧
  (∀ (s : State) (ch : Fin 1536) (rank : BitVec 5) (beat : BitVec 272) (ctl : BitVec 8), rank.toNat < 24 →
    (s.chan ch).mode = .nearBank → ctl = BitVec.ofNat 8 (beat.toNat / 2 ^ 128) →
    Does (.cfgw ch rank beat) s (fun t =>
      (∀ i < 2, ∀ b n w, b = bankOf ch (2 * rank.toNat + i) → n = (s.nbu b).sync s.cyc → w = beat.toNat / 2 ^ (64 * i) % 2 ^ 64 →
        (beatState beat (cfgwAdded rank.toNat) = .good →
          (ctl.getLsbD (2 + i) = true → t.nbu b = n.park) ∧
          (ctl.getLsbD (2 + i) = false → ctl.getLsbD i = true →
            (t.nbu b).valid = cfgAccepted w ∧ (t.nbu b).cfgerr = !cfgAccepted w ∧
            (cfgAccepted w = true → (t.nbu b).cfg.toNat % 2 ^ 63 = w % 2 ^ 63 ∧ (t.nbu b).col = 0 ∧ (t.nbu b).blk = 0)) ∧
          (ctl.getLsbD (2 + i) = false → ctl.getLsbD i = false → t.nbu b = n)) ∧
        (beatState beat (cfgwAdded rank.toNat) ≠ .good → (ctl.getLsbD i = true ∨ ctl.getLsbD (2 + i) = true) →
          (t.nbu b).valid = false ∧ (t.nbu b).cfgerr = true)) ∧
      (∀ b, b ≠ bankOf ch (2 * rank.toNat) → b ≠ bankOf ch (2 * rank.toNat + 1) → t.nbu b = s.nbu b) ∧ Keeps [.nbus] s t)) ∧
  (∀ (s : State) (ch : Fin 1536) (col : BitVec 6), (s.chan ch).mode = .nearBank → (s.chan ch).cclMay col.toNat = true →
    Does (.ccl ch col) s (fun t =>
      (∀ j ∈ s.participating ch, ∀ r n, ((s.chan ch).bank j).compute = some r → n = (s.nbu (bankOf ch j)).sync s.cyc → n.busy ≤ s.cyc →
        t.nbu (bankOf ch j) = n.takeColumn (s.rawColumn (rowKey (bankOf ch j) r) col.toNat)
          (s.columnState (rowKey (bankOf ch j) r) col.toNat == .good) r col.toNat s.cyc) ∧
      (∀ j ∈ s.participating ch, ∀ n, n = (s.nbu (bankOf ch j)).sync s.cyc → (((s.chan ch).bank j).compute = none ∨ s.cyc < n.busy) →
        t.nbu (bankOf ch j) = { n with seqerr := true }) ∧
      (∀ b, (∀ j ∈ s.participating ch, b ≠ bankOf ch j) → t.nbu b = s.nbu b) ∧ Keeps [.nbus, .chans, .act, .pm] s t)) ∧
  (∀ (s : State) (ch : Fin 1536) (col : BitVec 6), (s.chan ch).mode = .nearBank → (s.chan ch).cclMay col.toNat = false →
    exec (.ccl ch col) s = .next s)

/-- Near-bank results (05 R182 to R193; 06 R223, R224, R227, R259, R260, R263): a fold adds its block's scaled sums into the accumulators
of its slots and into no other; ACR adds the group's values into the sum buffer, a poisoned group going to the recompute unit
instead; ACL clears the masked groups; STR answers status and configuration. -/
def Obligations.NearBankResultsComplete : Prop :=
  (∀ (s : State) (ch : Fin 1536) (j : Fin 48) (f : Fold) (rest : List Fold) (n : Nbu) (base : Nat),
    n = (s.nbu (bankOf ch j)).upTo (s.cyc / 3) → n.folds = f :: rest → f.due ≤ s.cyc → base = f.set * pitchOf f.slots →
    Does (.blockFold ch j) s (fun t => (t.nbu (bankOf ch j)).folds = rest ∧
      (∀ i < f.slots, ∀ l < 64, Tab.get (fun _ => 0) (t.nbu (bankOf ch j)).acc ((base + i) * 64 + l) =
        (foldLane f.wfmt (Tab.get (fun _ => 0) f.scale l) (Tab.get (fun _ => Ext.fin 0) f.sums (i * 64 + l))
          (Tab.get (fun _ => 0) n.acc ((base + i) * 64 + l))).1) ∧
      (∀ a, (a < base * 64 ∨ (base + f.slots) * 64 ≤ a) →
        Tab.get (fun _ => 0) (t.nbu (bankOf ch j)).acc a = Tab.get (fun _ => 0) n.acc a) ∧ Keeps [.nbus] s t)) ∧
  (∀ (s : State) (ch : Fin 1536) (rank : BitVec 5) (bank : Bool) (group : BitVec 3) (buf : BitVec 4) (b k : Nat) (n : Nbu), rank.toNat < 24 →
    b = bankOf ch (2 * rank.toNat + nat bank) → n = (s.nbu b).sync s.cyc → k = ch.val * 16 + buf.toNat →
    (s.chan ch).mode = .nearBank → (s.cru k).busy = false → n.poison.getLsbD group.toNat = false →
    Does (.acr ch rank bank group buf []) s (fun t => (t.cru k).busy = true ∧ (t.cru k).int = n.accInt.getLsbD group.toNat ∧
      (∀ l < 64, Tab.get (fun _ => {}) (t.cru k).lanes l = (Tab.get (fun _ => {}) (s.cru k).lanes l).add (n.accInt.getLsbD group.toNat)
        (Tab.get (fun _ => 0) n.acc (group.toNat * 64 + l))) ∧
      (∀ i, i ≠ k → t.cru i = s.cru i) ∧ t.nbu b = { n with seqerr := n.seqerr || n.foldPending group.toNat } ∧
      (∃ a, t.out.answer = some a ∧ a.kind = 3 ∧ a.data.length = 272))) ∧
  (∀ (s : State) (ch : Fin 1536) (rank : BitVec 5) (bank : Bool) (group : BitVec 3) (buf : BitVec 4), rank.toNat < 24 →
    (s.chan ch).mode = .nearBank → (s.cru (ch.val * 16 + buf.toNat)).busy = false →
    ((s.nbu (bankOf ch (2 * rank.toNat + nat bank))).sync s.cyc).poison.getLsbD group.toNat = true →
    Does (.acr ch rank bank group buf []) s (fun t => t.crus = s.crus ∧
      ∃ r ∈ (t.hub (tileOfChan ch)).rebuilds, r.chan = ch.val ∧ r.bank = 2 * rank.toNat + nat bank ∧
        ∃ e ∈ r.groups, e.group = group.toNat ∧ e.buf = buf.toNat)) ∧
  (∀ (s : State) (ch : Fin 1536) (rank : BitVec 5) (allr : Bool) (mask : BitVec 8) (js : List Nat), rank.toNat < 24 →
    (s.chan ch).mode = .nearBank → js = (if allr then allBanks else rankBanks rank.toNat) →
    Does (.acl ch rank allr mask) s (fun t =>
      (∀ j ∈ js, ∀ g < 8, mask.getLsbD g = true →
        (∀ l < 64, Tab.get (fun _ => 0) (t.nbu (bankOf ch j)).acc (g * 64 + l) = 0) ∧
        (t.nbu (bankOf ch j)).poison.getLsbD g = false ∧ (t.nbu (bankOf ch j)).sat.getLsbD g = false) ∧
      (∀ j ∈ js, ∀ n, n = (s.nbu (bankOf ch j)).sync s.cyc → ∀ g < 8, mask.getLsbD g = false →
        (∀ l < 64, Tab.get (fun _ => 0) (t.nbu (bankOf ch j)).acc (g * 64 + l) = Tab.get (fun _ => 0) n.acc (g * 64 + l)) ∧
        (t.nbu (bankOf ch j)).poison.getLsbD g = n.poison.getLsbD g) ∧
      (∀ j, j ∉ js → t.nbu (bankOf ch j) = s.nbu (bankOf ch j)) ∧ Keeps [.nbus, .hubs, .chans] s t)) ∧
  (∀ (s : State) (ch : Fin 1536) (rank : BitVec 5), rank.toNat < 24 → (s.chan ch).mode = .nearBank →
    Does (.str ch rank []) s (fun t => ∃ a, t.out.answer = some a ∧ a.poison = false ∧
      a.data.take 32 = (rankBanks rank.toNat).flatMap (fun j => leBytes 8 ((s.nbu (bankOf ch j)).sync s.cyc).status ++
        leBytes 8 ((s.nbu (bankOf ch j)).sync s.cyc).cfg.toNat)))

/-- Host reads and writes of a line (02 R48, R49; 04 R120, R121; 14 R530 to R532, R538, R540, R547 to R549, R552): a bulk read is asked of
its channel and, where the channel grants it at once, answered with the line of the banks; a read that the port's buffer holds is answered from
it; a shared read is answered with the line at its home; a write is acknowledged and queued, performed at its home, or held as a flag or
behind one (14 R547, log entry 80); an address that the port does not own sets MISROUTE and is answered poisoned, or acknowledged and
reported late; a device-only line reads poisoned and is not written. -/
def Obligations.HostLineCommandsComplete : Prop :=
  (∀ (s : State) (p : Fin 4) (hpa : BitVec 46) (own : Bool) (sa : Nat) (l : Loc), (s.hport p).mem = true → s.boot.phase = 15 →
    s.hostSa p (hpa.toNat * 64) = some sa → (s.hport p).agree = true → (s.slot (sa / slotBytes)).cls = .bulk →
    (s.slot (sa / slotBytes)).dead = false → flag (s.reg 0 rCOHCFG) 0 = false → l = s.locate sa →
    ReadsAtOnce s (chanOfBank l.moduleBank) p (l.moduleBank % 48) l.row → s.lineAsks (s.lineOfSa sa) = false →
    Does (.cxlMemRead p hpa own) s (fun t =>
      t.out.answer = some { kind := 1, data := lineBytes (s.readLine (s.lineOfSa sa)).1, poison := (s.readLine (s.lineOfSa sa)).2 } ∧
      SameBanks s t)) ∧
  (∀ (s : State) (p : Fin 4) (hpa : BitVec 46) (own : Bool) (sa : Nat) (l : Loc), (s.hport p).mem = true → s.boot.phase = 15 →
    s.hostSa p (hpa.toNat * 64) = some sa → (s.hport p).agree = true → (s.slot (sa / slotBytes)).cls = .bulk →
    (s.slot (sa / slotBytes)).dead = false → (flag (s.reg 0 rCOHCFG) 0 = false ∨ ∀ e ∈ (s.hport p).prb, e.1 ≠ sa / 64) →
    l = s.locate sa → s.hasRoom (chanOfBank l.moduleBank) false = true → s.serves (chanOfBank l.moduleBank) = false →
    Does (.cxlMemRead p hpa own) s (fun t => (∃ q ∈ (t.chan (chanOfBank l.moduleBank)).readQ, q.who = p.val ∧ q.addr = sa ∧
      q.bank = l.moduleBank % 48 ∧ q.row = l.row ∧ q.line = l.col / 2))) ∧
  (∀ (s : State) (p : Fin 4) (hpa : BitVec 46) (own : Bool) (sa : Nat) (e : Nat × (BitVec 512 × Bool)), (s.hport p).mem = true →
    s.boot.phase = 15 → s.hostSa p (hpa.toNat * 64) = some sa → (s.hport p).agree = true → (s.slot (sa / slotBytes)).cls = .bulk →
    flag (s.reg 0 rCOHCFG) 0 = true → (s.hport p).prb.find? (fun e => e.1 == sa / 64) = some e →
    Does (.cxlMemRead p hpa own) s (fun t => t.out.answer = some { kind := 1, data := lineBytes e.2.1, poison := e.2.2 } ∧
      SameBanks s t ∧ t.chans = s.chans)) ∧
  (∀ (s : State) (p : Fin 4) (hpa : BitVec 46) (own : Bool) (sa : Nat), (s.hport p).mem = true → s.boot.phase = 15 →
    s.hostSa p (hpa.toNat * 64) = some sa → (s.hport p).agree = true → (s.slot (sa / slotBytes)).cls = .shared →
    (s.lines.find? (fun e => e.1 == sa / 64)).isSome = true → (s.dir (s.homeOf sa)).length < dirSize →
    Does (.cxlMemRead p hpa own) s (fun t =>
      t.out.answer = some { kind := 1, data := lineBytes (s.homeRead sa).1, poison := (s.homeRead sa).2 } ∧
      (∃ e ∈ t.dir (s.homeOf sa), e.line = sa / 64 ∧ (own = true → e.modified = true)) ∧ SameBanks s t)) ∧
  (∀ (s : State) (p : Fin 4) (hpa : BitVec 46) (own : Bool) (sa : Nat) (e : Dir) (rest : List Dir), (s.hport p).mem = true →
    s.boot.phase = 15 → s.hostSa p (hpa.toNat * 64) = some sa → (s.hport p).agree = true → (s.slot (sa / slotBytes)).cls = .shared →
    (s.lines.find? (fun e => e.1 == sa / 64)).isSome = true → s.dir (s.homeOf sa) = e :: rest → dirSize ≤ rest.length + 1 →
    (∀ x ∈ e :: rest, x.line ≠ sa / 64) →
    Does (.cxlMemRead p hpa own) s (fun t => (∃ x, t.dir (s.homeOf sa) = x :: rest ∧ x.line = e.line ∧ x.snoop = 2 ∧ x.wait.isSome = true) ∧
      t.logs.bievict = s.logs.bievict + 1 ∧ t.out.answer = s.out.answer ∧ SameBanks s t)) ∧
  (∀ (s : State) (p : Fin 4) (hpa : BitVec 46) (own : Bool), (s.hport p).mem = true → s.boot.phase = 15 →
    s.hostSa p (hpa.toNat * 64) = none →
    Does (.cxlMemRead p hpa own) s (fun t => t.out.answer = some { kind := 1, data := List.replicate 64 0, poison := true } ∧
      (t.hport p).misroute = true ∧ SameBanks s t)) ∧
  (∀ (s : State) (p : Fin 4) (hpa : BitVec 46) (own : Bool) (sa : Nat), (s.hport p).mem = true → s.boot.phase = 15 →
    s.hostSa p (hpa.toNat * 64) = some sa → ((s.hport p).agree = false ∨ (s.slot (sa / slotBytes)).cls = .devOnly) →
    Does (.cxlMemRead p hpa own) s (fun t => t.out.answer = some { kind := 1, data := List.replicate 64 0, poison := true } ∧
      (t.hport p).misroute = (s.hport p).misroute ∧ SameBanks s t)) ∧
  (∀ (s : State) (p : Fin 4) (hpa : BitVec 46) (data : BitVec 512) (mask : BitVec 64) (sa : Nat) (l : Loc), (s.hport p).mem = true →
    s.boot.phase = 15 → s.hostSa p (hpa.toNat * 64) = some sa → (s.hport p).agree = true →
    (s.slot (sa / slotBytes)).cls = .bulk → (s.slot (sa / slotBytes)).dead = false → l = s.locate sa →
    s.hasRoom (chanOfBank l.moduleBank) true = true →
    Does (.cxlMemWrite p hpa data mask) s (fun t => (∃ a, t.out.answer = some a ∧ a.kind = 0) ∧
      (∃ q : Req, (t.chan (chanOfBank l.moduleBank)).writeQ = (s.chan (chanOfBank l.moduleBank)).writeQ ++ [q] ∧
        q.bank = l.moduleBank % 48 ∧ q.row = l.row ∧ q.line = l.col / 2 ∧
        q.data = data ∧ q.mask = mask ∧ q.who = p.val) ∧ SameBanks s t)) ∧
  (∀ (s : State) (p : Fin 4) (hpa : BitVec 46) (data : BitVec 512) (mask : BitVec 64) (sa k : Nat), (s.hport p).mem = true →
    s.boot.phase = 15 → s.hostSa p (hpa.toNat * 64) = some sa → (s.hport p).agree = true →
    (s.slot (sa / slotBytes)).cls = .shared → sa % slotBytes < 0x10000 → k = streamKey p (s.slot (sa / slotBytes)).owner →
    Does (.cxlMemWrite p hpa data mask) s (fun t => (∃ a, t.out.answer = some a ∧ a.kind = 0) ∧
      (∃ f : FlagWait, f.sa = sa ∧ f.data = data ∧ f.mask = mask ∧ f.wait = (s.stream k).open_ ∧
        (t.stream k).flags = (s.stream k).flags ++ [f]) ∧ t.lines = s.lines ∧ SameBanks s t)) ∧
  (∀ (s : State) (p : Fin 4) (hpa : BitVec 46) (data : BitVec 512) (mask : BitVec 64) (sa : Nat), (s.hport p).mem = true →
    s.boot.phase = 15 → s.hostSa p (hpa.toNat * 64) = some sa → (s.hport p).agree = true →
    (s.slot (sa / slotBytes)).cls = .shared → 0x10000 ≤ sa % slotBytes →
    (s.stream (streamKey p (s.slot (sa / slotBytes)).owner)).flags = [] →
    Does (.cxlMemWrite p hpa data mask) s (fun t => (∃ a, t.out.answer = some a ∧ a.kind = 0) ∧
      (t.homeRead sa).1 = mergeLine mask (s.homeRead sa).1 data ∧ SameBanks s t)) ∧
  (∀ (s : State) (p : Fin 4) (hpa : BitVec 46) (data : BitVec 512) (mask : BitVec 64) (sa k : Nat), (s.hport p).mem = true →
    s.boot.phase = 15 → s.hostSa p (hpa.toNat * 64) = some sa → (s.hport p).agree = true →
    (s.slot (sa / slotBytes)).cls = .shared → 0x10000 ≤ sa % slotBytes → k = streamKey p (s.slot (sa / slotBytes)).owner →
    (s.stream k).flags ≠ [] →
    Does (.cxlMemWrite p hpa data mask) s (fun t => (∃ a, t.out.answer = some a ∧ a.kind = 0) ∧
      (∃ f : FlagWait, f.sa = sa ∧ f.data = data ∧ f.mask = mask ∧ f.wait = 0 ∧ f.failed = false ∧
        (t.stream k).flags = (s.stream k).flags ++ [f]) ∧ t.lines = s.lines ∧ SameBanks s t)) ∧
  (∀ (s : State) (p : Fin 4) (hpa : BitVec 46) (data : BitVec 512) (mask : BitVec 64), (s.hport p).mem = true →
    s.boot.phase = 15 → s.hostSa p (hpa.toNat * 64) = none →
    Does (.cxlMemWrite p hpa data mask) s (fun t => (∃ a, t.out.answer = some a ∧ a.kind = 0) ∧
      (t.hport p).misroute = true ∧ t.logs.lfseq = (s.logs.lfseq + 1) % 65536 ∧ SameBanks s t)) ∧
  (∀ (s : State) (p : Fin 4) (hpa : BitVec 46) (data : BitVec 512) (mask : BitVec 64) (sa : Nat), (s.hport p).mem = true →
    s.boot.phase = 15 → s.hostSa p (hpa.toNat * 64) = some sa →
    ((s.hport p).agree = false ∨ (s.slot (sa / slotBytes)).cls = .devOnly) →
    Does (.cxlMemWrite p hpa data mask) s (fun t => (∃ a, t.out.answer = some a ∧ a.kind = 0) ∧
      t.logs.lfseq = (s.logs.lfseq + 1) % 65536 ∧ t.lines = s.lines ∧ t.chans = s.chans ∧ SameBanks s t))

/-- Decoders, flags and drains of the host ports (02 R44 to R46, R50; 14 R528, R544, R549, R550, R553, R558): a commit is taken or
refused whole and AGREE follows the last port; a flag is performed when no write it covers is open; PDRAIN and COHSTAT answer
and start their records again; a device write the host has observed is no longer on its way. -/
def Obligations.HostPortCommandsComplete : Prop :=
  (∀ (s : State) (p : Fin 4) (iw ig : BitVec 4) (base : BitVec 24) (size : BitVec 64), (s.hport p).commit = false →
    waysOf iw.toNat ≠ 0 → ig.toNat ≤ 6 → size.toNat * waysOf iw.toNat = s.hdmSize → s.hilPos p < waysOf iw.toNat →
    (∀ q ∈ s.committed, (s.hport q).iw = iw.toNat ∧ (s.hport q).ig = ig.toNat ∧ (s.hport q).base = base.toNat * 2 ^ 28 ∧
      (s.hport q).size = size.toNat ∧ s.hilPos q ≠ s.hilPos p) →
    Does (.decoderCommit p iw ig base size) s (fun t => (t.hport p).commit = true ∧ (t.hport p).iw = iw.toNat ∧
      (t.hport p).ig = ig.toNat ∧ (t.hport p).base = base.toNat * 2 ^ 28 ∧
      (s.committed.length + 1 = waysOf iw.toNat → ∀ q ∈ t.committed, (t.hport q).agree = true) ∧
      (∃ a, t.out.answer = some a ∧ a.data = [1#8]) ∧ Keeps [.ports, .out] s t)) ∧
  (∀ (s : State) (p : Fin 4) (iw ig : BitVec 4) (base : BitVec 24) (size : BitVec 64), (s.hport p).commit = false →
    (6 < ig.toNat ∨ waysOf iw.toNat = 0 ∨ size.toNat * waysOf iw.toNat ≠ s.hdmSize ∨ waysOf iw.toNat ≤ s.hilPos p ∨
      ∃ q ∈ s.committed, (s.hport q).base ≠ base.toNat * 2 ^ 28 ∨ s.hilPos q = s.hilPos p) →
    Does (.decoderCommit p iw ig base size) s (fun t => t.ports = s.ports ∧ (∃ a, t.out.answer = some a ∧ a.data = [0#8]) ∧
      Keeps [.out] s t)) ∧
  (∀ (s : State) (p : Fin 4), Does (.decoderUncommit p) s (fun t => (t.hport p).commit = false ∧
    (∀ q < 4, (t.hport q).agree = false) ∧ (∀ q < 4, q ≠ p.val → (t.hport q).commit = (s.hport q).commit) ∧ Keeps [.ports] s t)) ∧
  (∀ (s : State) (src : Fin 20) (part : Option (Fin 64)) (f : FlagWait) (rest : List FlagWait),
    (s.stream (streamKey src (part.map Fin.val))).flags = f :: rest → f.wait = 0 →
    Does (.flagPerform src part) s (fun t => (t.stream (streamKey src (part.map Fin.val))).flags = rest ∧
      (t.homeRead f.sa).1 = mergeLine f.mask (s.homeRead f.sa).1 f.data ∧
      (f.failed = true → (t.homeRead f.sa).2 = true) ∧ Keeps [.streams, .lines] s t)) ∧
  (∀ (s : State) (src : Fin 20) (part : Option (Fin 64)) (f : FlagWait) (rest : List FlagWait),
    (s.stream (streamKey src (part.map Fin.val))).flags = f :: rest → f.wait ≠ 0 → exec (.flagPerform src part) s = .next s) ∧
  (∀ (s : State) (p : Fin 4), ((List.range 65).all (fun q => (s.stream (p.val * 65 + q)).idle)) = true →
    Does (.pdrainRead p 0) s (fun t => (t.hport p).fails = 0 ∧
      (∃ a, t.out.answer = some a ∧ a.data = leBytes 8 ((s.hport p).fails + 2 ^ 63)) ∧ Keeps [.ports, .out] s t)) ∧
  (∀ (s : State) (p : Fin 4) (vf : Fin 17) (q : Nat), vf.val ≠ 0 → s.partOfPage (17 * p.val + vf.val) = some q →
    (s.stream (streamKey p (some q))).idle = true →
    Does (.pdrainRead p vf) s (fun t => Tab.get (fun _ => 0) (t.hport p).partFails q = 0 ∧
      (∃ a, t.out.answer = some a ∧ a.data = leBytes 8 (Tab.get (fun _ => 0) (s.hport p).partFails q + 2 ^ 63)) ∧
      Keeps [.ports, .out] s t)) ∧
  (∀ (s : State) (p : Fin 4) (vf : Fin 17) (q : Nat), vf.val ≠ 0 → s.partOfPage (17 * p.val + vf.val) = some q →
    (s.stream (streamKey p (some q))).idle = false →
    Does (.pdrainRead p vf) s (fun t => (t.stream (streamKey p (some q))).asked = true ∧ Keeps [.streams] s t)) ∧
  (∀ (s : State) (p : Fin 4), Does (.cohstatRead p) s (fun t =>
    (∃ a, t.out.answer = some a ∧ a.data = leBytes 8 (s.logs.dirMax + s.logs.bitmout * 2 ^ 32 + satNat 16 (s.logs.bievict / 1024) * 2 ^ 48)) ∧
    (∀ k < 16, (s.dir k).length ≤ t.logs.dirMax) ∧ Keeps [.logs, .out] s t)) ∧
  (∀ (s : State) (id : Nat) (w : HostWrite), s.out.inflight.find? (fun v => v.id == id && v.sent) = some w →
    Does (.globallyObserved id true) s (fun t => (∀ v ∈ t.out.inflight, v.id ≠ w.id) ∧
      (∀ v ∈ s.out.inflight, v.id ≠ w.id → ∃ x ∈ t.out.inflight, x.id = v.id ∧ x.data = v.data) ∧
      (∀ f, w.fe = some f → (t.fchan (16 * f.1 + f.2)).posted = (s.fchan (16 * f.1 + f.2)).posted - 1) ∧ SameBanks s t)) ∧
  (∀ (s : State) (id : Nat) (w : HostWrite), s.out.inflight.find? (fun v => v.id == id && v.sent) = some w →
    Does (.globallyObserved id false) s (fun t => t.logs.lfseq = (s.logs.lfseq + 1) % 65536 ∧ SameBanks s t))

/-- The peer aperture and SPDM (14 R555; 18 R708): an aperture entry is taken only for a bulk slot its partition owns; a peer
reaches a bulk slot through a valid entry (its read asked of the channel and, where granted at once, answered), writes only where the entry
allows, and is otherwise answered Unsupported Request;
SPDM answers the six measurements and the certificate chain. -/
def Obligations.PeerAndSpdmComplete : Prop :=
  (∀ (s : State) (p : Fin 4) (value : BitVec 32), (s.slot (field value.toNat 0 13)).owner = some (field value.toNat 13 6) →
    (s.slot (field value.toNat 0 13)).cls = .bulk → field value.toNat 0 13 < s.slotCount →
    Does (.aptdatWrite p value) s (fun t =>
      Tab.get (fun _ => 0) (t.hport p).apt (field (s.reg p rAPTIDX) 0 4) = BitVec.ofNat 32 (field value.toNat 0 21) ∧ Keeps [.ports] s t)) ∧
  (∀ (s : State) (p : Fin 4) (value : BitVec 32), ((s.slot (field value.toNat 0 13)).owner ≠ some (field value.toNat 13 6) ∨
    (s.slot (field value.toNat 0 13)).cls ≠ .bulk) → exec (.aptdatWrite p value) s = .next s) ∧
  (∀ (s : State) (p : Fin 4) (e : Fin 16) (off : BitVec 25) (sa : Nat) (l : Loc), s.peerSa p e (off.toNat * 64) = some sa →
    (s.slot (sa / slotBytes)).dead = false → l = s.locate sa →
    ReadsAtOnce s (chanOfBank l.moduleBank) p (l.moduleBank % 48) l.row → s.lineAsks (s.lineOfSa sa) = false →
    Does (.peerApertureRead p e off) s (fun t =>
      t.out.answer = some { kind := 1, data := lineBytes (s.readLine (s.lineOfSa sa)).1, poison := (s.readLine (s.lineOfSa sa)).2 } ∧
      SameBanks s t)) ∧
  (∀ (s : State) (p : Fin 4) (e : Fin 16) (off : BitVec 25) (sa : Nat) (l : Loc), s.peerSa p e (off.toNat * 64) = some sa →
    (s.slot (sa / slotBytes)).dead = false → l = s.locate sa → s.hasRoom (chanOfBank l.moduleBank) false = true →
    s.serves (chanOfBank l.moduleBank) = false →
    Does (.peerApertureRead p e off) s (fun t => (∃ q ∈ (t.chan (chanOfBank l.moduleBank)).readQ, q.who = p.val ∧ q.addr = sa ∧
      q.bank = l.moduleBank % 48 ∧ q.row = l.row ∧ q.line = l.col / 2) ∧ t.out.answer = s.out.answer)) ∧
  (∀ (s : State) (p : Fin 4) (e : Fin 16) (off : BitVec 25), s.peerSa p e (off.toNat * 64) = none →
    Does (.peerApertureRead p e off) s (fun t => (∃ a, t.out.answer = some a ∧ a.kind = 2) ∧ Keeps [.out] s t)) ∧
  (∀ (s : State) (p : Fin 4) (e : Fin 16) (off : BitVec 25) (data : BitVec 512) (mask : BitVec 64) (sa : Nat),
    s.peerSa p e (off.toNat * 64) = some sa → flag (Tab.get (fun _ => 0#32) (s.hport p).apt e).toNat 20 = true →
    s.hasRoom (chanOfBank (s.locate sa).moduleBank) true = true →
    Does (.peerApertureWrite p e off data mask) s (fun t => (∃ a, t.out.answer = some a ∧ a.kind = 0) ∧
      (∃ q : Req, (t.chan (chanOfBank (s.locate sa).moduleBank)).writeQ = (s.chan (chanOfBank (s.locate sa).moduleBank)).writeQ ++ [q] ∧
        q.bank = (s.locate sa).moduleBank % 48 ∧ q.row = (s.locate sa).row ∧ q.line = (s.locate sa).col / 2 ∧
        q.data = data ∧ q.mask = mask) ∧ (∀ k < 4, ∀ x ∈ (t.hport k).prb, x.1 ≠ sa / 64) ∧ SameBanks s t)) ∧
  (∀ (s : State) (p : Fin 4) (e : Fin 16) (off : BitVec 25) (data : BitVec 512) (mask : BitVec 64) (sa : Nat),
    s.peerSa p e (off.toNat * 64) = some sa → flag (Tab.get (fun _ => 0#32) (s.hport p).apt e).toNat 20 = false →
    Does (.peerApertureWrite p e off data mask) s (fun t => (∃ a, t.out.answer = some a ∧ a.kind = 2) ∧ Keeps [.out] s t)) ∧
  (∀ (s : State) (p : Fin 4), Does (.getMeasurements p) s (fun t =>
    (∃ a, t.out.answer = some a ∧ a.kind = 4 ∧ a.data = s.measurements.flatMap (fun m => leBytes 48 m.toNat)) ∧ Keeps [.out] s t)) ∧
  (∀ (s : State) (p : Fin 4), Does (.getCertificate p) s (fun t =>
    (∃ a, t.out.answer = some a ∧ a.kind = 4 ∧ a.data = Config.certChain) ∧ Keeps [.out] s t))

/-- Flits and acknowledgement of a landing that is up (16 R604 to R610, R615): the flit expected next is taken, one received before
changes nothing, one ahead of it or one that fails its check brings one NAK until a flit is accepted; an ACK releases the kept flits up to it,
credits return to the buffers of their class and level (the level is the model's operand: log entry 98), and a NAK or the replay timer
sends the kept flits again in order, or after eight times retrains the landing; a due ACK is sent. -/
def Obligations.FlitCommandsComplete : Prop :=
  (∀ (s : State) (l : Fin 16) (flit : BitVec 2048) (fixed : List (Fin 1632)), (s.landing l).up = true → field flit.toNat 12 4 = 0 →
    crc16 ((leBytes 256 flit.toNat).take 254) = BitVec.ofNat 16 (bytesAt (leBytes 256 flit.toNat) 254 2) →
    field flit.toNat 0 12 = (s.landing l).exp →
    Does (.flitReceive l flit fixed false) s (fun t => (t.landing l).exp = ((s.landing l).exp + 1) % 4096 ∧
      (t.landing l).nakOut = false ∧ (t.landing l).rxSince = (s.landing l).rxSince + 1 ∧
      (∀ k, k ≠ l.val → t.landing k = s.landing k) ∧ Keeps [.lands, .act] s t)) ∧
  (∀ (s : State) (l : Fin 16) (flit : BitVec 2048) (fixed : List (Fin 1632)), (s.landing l).up = true → field flit.toNat 12 4 = 0 →
    crc16 ((leBytes 256 flit.toNat).take 254) = BitVec.ofNat 16 (bytesAt (leBytes 256 flit.toNat) 254 2) →
    field flit.toNat 0 12 ≠ (s.landing l).exp → ((s.landing l).exp + 4096 - field flit.toNat 0 12) % 4096 ≤ 2048 →
    Does (.flitReceive l flit fixed false) s (fun t => (t.landing l).exp = (s.landing l).exp ∧ (t.landing l).nakOut = (s.landing l).nakOut ∧
      (t.landing l).rxSince = (s.landing l).rxSince ∧ Keeps [.lands, .act] s t)) ∧
  (∀ (s : State) (l : Fin 16) (flit : BitVec 2048) (fixed : List (Fin 1632)) (uncw : Bool), (s.landing l).up = true →
    (uncw = true ∨ crc16 ((leBytes 256 flit.toNat).take 254) ≠ BitVec.ofNat 16 (bytesAt (leBytes 256 flit.toNat) 254 2) ∨
      (field flit.toNat 12 4 = 0 ∧ field flit.toNat 0 12 ≠ (s.landing l).exp ∧
        2048 < ((s.landing l).exp + 4096 - field flit.toNat 0 12) % 4096)) →
    Does (.flitReceive l flit fixed uncw) s (fun t => (t.landing l).exp = (s.landing l).exp ∧ (t.landing l).nakOut = true ∧
      (t.landing l).rxSince = (s.landing l).rxSince ∧
      t.out.flits = (if (s.landing l).nakOut then s.out.flits
        else (l.val, flitWord 0 1 (leBytes 4 (controlUnit (s.landing l).lastIn true 0 0).toNat)) :: s.out.flits) ∧
      Keeps [.lands, .pm, .act, .out] s t)) ∧
  (∀ (s : State) (l : Fin 16) (msg : BitVec 32) (level : Fin 4) (i k : Nat), (s.landing l).up = true → field msg.toNat 0 4 = 1 →
    field msg.toNat 27 5 = 0 → flag msg.toNat 16 = false → (s.landing l).txQ = [] → k = field msg.toNat 17 2 * 4 + level.val →
    (s.landing l).unack.findIdx? (fun f => f.1 == field msg.toNat 4 12) = some i →
    Does (.linkControl l msg level) s (fun t => (t.landing l).ack = field msg.toNat 4 12 ∧ (t.landing l).resends = 0 ∧
      (t.landing l).unack = (s.landing l).unack.drop (i + 1) ∧ t.out.flits = s.out.flits ∧
      Tab.get (fun _ => 0) (t.landing l).credits k = Tab.get (fun _ => 0) (s.landing l).credits k + field msg.toNat 19 8 ∧
      (∀ j, j ≠ k → Tab.get (fun _ => 0) (t.landing l).credits j = Tab.get (fun _ => 0) (s.landing l).credits j) ∧
      Keeps [.lands, .pm, .act, .out] s t)) ∧
  (∀ (s : State) (l : Fin 16) (msg : BitVec 32) (level : Fin 4), (s.landing l).up = true → field msg.toNat 0 4 = 1 →
    field msg.toNat 27 5 = 0 → flag msg.toNat 16 = true → (s.landing l).txQ = [] →
    (s.landing l).unack.findIdx? (fun f => f.1 == field msg.toNat 4 12) = none →
    Does (.linkControl l msg level) s (fun t => (t.landing l).unack = (s.landing l).unack ∧
      (t.landing l).replays = satNat 16 ((s.landing l).replays + 1) ∧
      t.out.flits = ((s.landing l).unack.map (fun f => (l.val, flitWord f.1 0 f.2))).reverse ++ s.out.flits ∧
      Keeps [.lands, .pm, .act, .out] s t)) ∧
  (∀ (s : State) (l : Fin 16), (s.landing l).up = true → 0 < (s.landing l).rxSince →
    Does (.ackSend l) s (fun t => (t.landing l).rxSince = 0 ∧
      t.out.flits = (l.val, flitWord 0 1 (leBytes 4 (controlUnit (s.landing l).lastIn false 0 0).toNat)) :: s.out.flits ∧
      Keeps [.lands, .pm, .act, .out] s t)) ∧
  (∀ (s : State) (l : Fin 16), (s.landing l).up = true → (s.landing l).unack ≠ [] → (s.landing l).resends < 8 →
    Does (.replayTimeout l) s (fun t => (t.landing l).unack = (s.landing l).unack ∧
      (t.landing l).resends = (s.landing l).resends + 1 ∧ (t.landing l).replays = satNat 16 ((s.landing l).replays + 1) ∧
      t.out.flits = ((s.landing l).unack.map (fun f => (l.val, flitWord f.1 0 f.2))).reverse ++ s.out.flits ∧
      Keeps [.lands, .pm, .act, .out] s t)) ∧
  (∀ (s : State) (l : Fin 16), (s.landing l).up = true → (s.landing l).unack ≠ [] → 8 ≤ (s.landing l).resends →
    Does (.replayTimeout l) s (fun t => (t.landing l).st = 1))

/-- Lanes, training, cables and routes (16 R600 to R602, R611, R612, R616, R617, R633; 20 R733, R734): a failing lane's logical
lane moves onto a spare, or the landing retrains; a swap test releases a lane and its check makes it a spare or retires it; a
landing that trains starts its sequence numbers again and comes up at 24 or 12 lanes, isolated where the neighbour's key
differs; a cable switches the supply; a route entry takes its written value. -/
def Obligations.LandingCommandsComplete : Prop :=
  (∀ (s : State) (l : Fin 16) (lane : Fin 26) (n : Nat), (s.landing l).up = true → ((s.landing l).lane lane).st = 0 →
    (s.landing l).spare = some n →
    Does (.laneSpare l lane) s (fun t => ((t.landing l).lane n).logical = ((s.landing l).lane lane).logical ∧
      ((t.landing l).lane n).st = 0 ∧ ((t.landing l).lane lane).st = 3 ∧ (t.landing l).st = (s.landing l).st ∧ Keeps [.lands] s t)) ∧
  (∀ (s : State) (l : Fin 16) (p o : Nat), (s.landing l).st = 2 → (s.landing l).spare = some p →
    (List.range 26).find? (fun k => ((s.landing l).lane k).st == 0 && ((s.landing l).lane k).logical == (s.landing l).lastSwap % 24) = some o →
    s.cfg rXLCFG 0 8 ≠ 0 →
    Does (.laneSwapTest l) s (fun t => ((t.landing l).lane p).logical = (s.landing l).lastSwap % 24 ∧
      ((t.landing l).lane p).st = 0 ∧ ((t.landing l).lane o).st = 2 ∧
      (t.landing l).lastSwap = ((s.landing l).lastSwap + 1) % 24 ∧ Keeps [.lands] s t)) ∧
  (∀ (s : State) (l : Fin 16) (lane : Fin 26) (pass : Bool), ((s.landing l).lane lane).st = 2 →
    Does (.laneCheckDone l lane pass) s (fun t => ((t.landing l).lane lane).st = (if pass then 1 else 3) ∧ Keeps [.lands] s t)) ∧
  (∀ (s : State) (l : Fin 16) (peer : BitVec 6) (peerKey : BitVec 16) (peerL : BitVec 4) (good : List (Fin 26)),
    (s.hub l).retired = false → (s.landing l).st = 0 → (s.landing l).vcbl = true →
    12 ≤ ((good.map Fin.val).filter (fun p => ((s.landing l).lane p).st != 3)).length → (∀ x ∈ s.xacts, x.land ≠ l.val) →
    Does (.landingTrain l peer peerKey peerL good) s (fun t =>
      (t.landing l).st = (if peerKey.toNat ≠ s.boot.dkey ∨ peer.toNat = s.boot.modid then 4
        else if 24 ≤ ((good.map Fin.val).filter (fun p => ((s.landing l).lane p).st != 3)).length then 2 else 3) ∧
      (t.landing l).peer = peer.toNat ∧ (t.landing l).peerL = peerL.toNat ∧ (t.landing l).seq = 0 ∧ (t.landing l).exp = 0 ∧
      (t.landing l).unack = [])) ∧
  (∀ (s : State) (l : Fin 16), (s.landing l).st ≠ 0 → (s.landing l).st ≠ 5 → exec (.landingDown l) s = .next (s.landingDown l)) ∧
  (∀ (s : State) (l : Fin 16), Does (.cblprsFall l) s (fun t => (t.landing l).cable = true ∧ (t.landing l).vcbl = true ∧ Keeps [.lands] s t)) ∧
  (∀ (s : State) (l : Fin 16), Does (.cblprsRise l) s (fun t => (t.landing l).cable = false ∧ (t.landing l).vcbl = false)) ∧
  (∀ (s : State) (l : Fin 16), (s.landing l).vcbl = true → Does (.cableOvercurrent l) s (fun t => (t.landing l).vcbl = false)) ∧
  (∀ (s : State) (value : BitVec 32), Does (.xrtdatWrite value) s (fun t =>
    t.route (s.cfg rXRTIDX 0 6) = BitVec.ofNat 32 (field value.toNat 0 19) ∧
    (∀ d, d ≠ s.cfg rXRTIDX 0 6 → t.route d = s.route d) ∧ t.lands = s.lands ∧ t.xacts = s.xacts ∧ Keeps [.routes] s t))

/-- Back-invalidates (14 R539 to R541): the host's answer to a snoop of a line it held modified brings the data home and the
directory's entry is cleared of the snoop, or removed; a snoop that is not answered leaves the entry, counts, and fails the
access it held. -/
def Obligations.SnoopCommandsComplete : Prop :=
  (∀ (s : State) (t : Fin 16) (line : BitVec 37) (e : Dir) (d : BitVec 512),
    (s.dir t).find? (fun e => e.line == line.toNat && e.snoop != 0) = some e → e.wait = none → e.snoop = 2 →
    Does (.biResponse t line (some d)) s (fun u => (∀ x ∈ u.dir t, x.line ≠ line.toNat) ∧
      u.homeRead (line.toNat * 64) = (mergeLine (BitVec.allOnes 64) (s.homeRead (line.toNat * 64)).1 d, false) ∧ SameBanks s u)) ∧
  (∀ (s : State) (t : Fin 16) (line : BitVec 37) (e : Dir),
    (s.dir t).find? (fun e => e.line == line.toNat && e.snoop != 0) = some e → e.wait = none → e.snoop ≠ 2 →
    Does (.biResponse t line none) s (fun u => (∀ x ∈ u.dir t, x.line = line.toNat → x.snoop = 0 ∧ x.modified = false) ∧
      u.lines = s.lines ∧ SameBanks s u)) ∧
  (∀ (s : State) (t : Fin 16) (line : BitVec 37) (e : Dir) (f : Nat × Nat) (w : Waiter),
    (s.dir t).find? (fun e => e.line == line.toNat && e.snoop != 0) = some e → e.wait = some w → w.ferry = some f →
    Does (.biTimeout t line) s (fun u => (∀ x ∈ u.dir t, x.line = line.toNat → x.snoop = 0) ∧
      (u.dir t).length = (s.dir t).length ∧ u.logs.bitmout = satNat 16 (s.logs.bitmout + 1) ∧
      (u.fchan (16 * f.1 + f.2)).biWait = false ∧ line.toNat ∈ (u.fchan (16 * f.1 + f.2)).biBad ∧ SameBanks s u)) ∧
  (∀ (s : State) (t : Fin 16) (line : BitVec 37) (e : Dir) (h : Nat × Nat × Bool) (w : Waiter),
    (s.dir t).find? (fun e => e.line == line.toNat && e.snoop != 0) = some e → e.wait = some w → w.ferry = none → w.host = some h →
    Does (.biTimeout t line) s (fun u => (∀ x ∈ u.dir t, x.line = line.toNat → x.snoop = 0) ∧
      u.logs.bitmout = satNat 16 (s.logs.bitmout + 1) ∧
      u.out.answer = some { kind := 1, data := List.replicate 64 0, poison := true } ∧ SameBanks s u))

/-- Clears and partition resets (10 R390; 15 R582 to R586): a window's clear leaves every byte of the window zero and unpoisoned
and no other byte changed; a slot's clear is begun by its tile when it clears no other, and leaves every byte of the slot's
parcel zero and unpoisoned and no other; a function-level reset begins a partition reset, and one whose writes have all been
observed ends with the partition active, its rings off, and its slots to be cleared unless they are kept. -/
def Obligations.ClearsAndResetsComplete : Prop :=
  (∀ (s : State) (c : Fin 64), (s.ctx c).winClear = true →
    Does (.windowClearDone c) s (fun t => (t.ctx c).winClear = false ∧
      (∀ a, (c.val / 4) * 2 ^ 27 + (s.ctx c).winBase * 2 ^ 20 ≤ a →
        a < (c.val / 4) * 2 ^ 27 + ((s.ctx c).winBase + (s.ctx c).winSize) * 2 ^ 20 → t.spByte a = 0) ∧
      (∀ a, (a < (c.val / 4) * 2 ^ 27 + (s.ctx c).winBase * 2 ^ 20 ∨
        (c.val / 4) * 2 ^ 27 + ((s.ctx c).winBase + (s.ctx c).winSize) * 2 ^ 20 ≤ a) → t.spByte a = s.spByte a) ∧
      (∀ w, (c.val / 4) * 2 ^ 21 + (s.ctx c).winBase * 2 ^ 14 ≤ w →
        w < (c.val / 4) * 2 ^ 21 + ((s.ctx c).winBase + (s.ctx c).winSize) * 2 ^ 14 → t.spBad w = false) ∧ SameBanks s t)) ∧
  (∀ (s : State) (slot : Fin 7168), (s.slot slot).clearing = true → (s.slot slot).clearBusy = false →
    (s.hub ((s.slot slot).phys / 512)).clear = none →
    Does (.slotClear slot) s (fun t => (t.slot slot).clearBusy = true ∧ (t.hub ((s.slot slot).phys / 512)).clear = some slot.val ∧
      Keeps [.slots, .hubs] s t)) ∧
  (∀ (s : State) (slot : Fin 7168), (s.slot slot).clearBusy = true → (s.slot slot).moveTo = none →
    Does (.slotClearDone slot) s (fun t => (t.slot slot).clearing = false ∧ (t.slot slot).clearBusy = false ∧
      ((s.slot slot).release = true → (t.slot slot).owner = none) ∧
      (∀ a, parcelOfLine (a / 64) = (s.slot slot).phys → t.memByte a = 0) ∧
      (∀ a, parcelOfLine (a / 64) ≠ (s.slot slot).phys → t.memByte a = s.memByte a) ∧
      (∀ k, parcelOfLine k = (s.slot slot).phys → t.lineBad k = false) ∧
      (∀ k, parcelOfLine k ≠ (s.slot slot).phys → t.lineBad k = s.lineBad k))) ∧
  (∀ (s : State) (p : Fin 4) (vf : Fin 16) (q : Nat), s.partOfPage (17 * p.val + vf.val + 1) = some q →
    (s.part q).st ≠ .resetting → (s.hport p).gone = false →
    Does (.functionLevelReset p vf) s (fun t => (t.part q).st = .resetting ∧
      (t.part q).reset = some { keep := (s.part q).keepflr, desc := none } ∧ (t.part q).held = [] ∧
      (t.page (s.pageOfPart q)).fetched = [] ∧ SameBanks s t)) ∧
  (∀ (s : State) (p : Fin 64) (job : ResetJob), (s.part p).st = .resetting → (s.part p).reset = some job → (s.part p).destroy = false →
    ((s.resetHalts p).out.inflight.any (fun w => w.part == some p.val)) = false →
    Does (.partitionReset p) s (fun t => (t.part p).st = .active ∧ (t.part p).reset = none ∧
      (t.page (s.pageOfPart p)).en = false ∧
      (job.keep = false → ∀ i ∈ s.slotsOf p, (t.slot i).clearing = true))) ∧
  (∀ (s : State) (p : Fin 64) (job : ResetJob), (s.part p).st = .resetting → (s.part p).reset = some job →
    ((s.resetHalts p).out.inflight.any (fun w => w.part == some p.val)) = true →
    exec (.partitionReset p) s = .next (s.resetHalts p))

/-- Host ports and tiles (01 R30; 14 R523; 18 R673 to R678, R698 to R701; 20 R729, R738): a link that goes down, a hot reset, or PERST#
(of no effect while the always-on rail is down) takes the port down and preserves every active partition on it with its cause and a token that is not zero; a link comes up at its speed
and width; a tile retires, by command or at its second logic fault within the hour; a failed mesh switch takes its black box
away. -/
def Obligations.PortsAndTilesComplete : Prop :=
  (∀ (s : State) (p : Fin 4) (tokens : List (BitVec 64)), (s.hport p).speed ≠ 0 →
    Does (.portLinkDown p tokens) s (fun t => (t.hport p).speed = 0 ∧ (t.hport p).mem = false ∧ (t.hport p).prb = [] ∧
      ∀ q < 64, (s.part q).st = .active → (s.part q).port = p.val →
        (t.part q).st = .preserved ∧ (t.part q).cause = 1 ∧ (t.part q).token = tokenOf tokens q)) ∧
  (∀ (s : State) (p : Fin 4) (kind : Fin 3) (tokens : List (BitVec 64)), (s.hport p).gone = false →
    Does (.hotReset p kind tokens) s (fun t => (kind ≠ 2 → (t.hport p).speed = 0 ∧ (t.hport p).prb = []) ∧
      (kind = 2 → (t.hport p).speed = (s.hport p).speed) ∧
      ∀ q < 64, (s.part q).st = .active → (s.part q).port = p.val →
        (t.part q).st = .preserved ∧ (t.part q).cause = 2 ∧ (t.part q).token = tokenOf tokens q)) ∧
  (∀ (s : State) (p : Fin 4) (tokens : List (BitVec 64)), s.power.on = false → exec (.perstAssert p tokens) s = .next s) ∧
  (∀ (s : State) (p : Fin 4) (tokens : List (BitVec 64)), s.power.on = true → (s.hport p).gone = false →
    Does (.perstAssert p tokens) s (fun t => (t.hport p).perst = true ∧ (t.hport p).speed = 0 ∧
      ∀ q < 64, (s.part q).st = .active → (s.part q).port = p.val →
        (t.part q).st = .preserved ∧ (t.part q).cause = 2 ∧ (t.part q).token = tokenOf tokens q)) ∧
  (∀ (s : State) (p : Fin 4) (speed : Fin 4) (width : Fin 3) (flit cache mem : Bool), (s.hport p).gone = false →
    s.boot.phase = 15 → s.power.failed = false → (s.hport p).speed = 0 →
    exec (.portLinkUp p speed width flit cache mem) s = .next (s.modHport p (fun h => { h with
      speed := speed + 1, width := 4 * 2 ^ width.val, flit := flit, cache := cache, mem := mem, perst := false }))) ∧
  (∀ (ts : List (BitVec 64)) (p : Nat), tokenOf ts p ≠ 0) ∧
  (∀ (s : State) (t : Fin 16) (cause : Fin 5) (readable : Bool), (s.hub t).retired = false →
    Does (.tileRetire t cause readable) s (fun u => (u.hub t).retired = true)) ∧
  (∀ (s : State) (t : Fin 16), (s.hub t).retired = false →
    ((s.hub t).logicAt.filter (fun a => decide (s.cyc < a + hourCycles))) = [] →
    exec (.hubLogicFault t) s = .next (s.modHub t (fun h => { h with logicAt := [s.cyc] }))) ∧
  (∀ (s : State) (t : Fin 16) (a : Nat), (s.hub t).retired = false → a ∈ (s.hub t).logicAt → s.cyc < a + hourCycles →
    Does (.hubLogicFault t) s (fun u => (u.hub t).retired = true)) ∧
  (∀ (s : State) (t : Fin 16), (s.hub t).retired = true →
    Does (.meshSwitchFailure t) s (fun u => (u.hub t).meshDown = true ∧ (u.hub t).bb.gone = true ∧ Keeps [.hubs] s u))

/-- Rings (15 R566, R567, R570 to R573, R576, R588): EN starts the rings at index zero, or is refused with its error; a
host store makes the hub read the watched line again, and the read takes the doorbell's words or the mailbox slot; a fetched descriptor
advances SQHEAD; a descriptor that is refused is answered in the completion ring at CQTAIL, with its status and the phase. -/
def Obligations.RingCommandsComplete : Prop :=
  (∀ (s : State) (page : Fin 68) (value : BitVec 32), (page.val % 17 = 0 ∨ (s.partOfPage page).isSome = true) →
    (s.hport (page.val / 17)).gone = false → value.getLsbD 0 = true → (s.page page).en = false →
    (s.page page).badSetup (decide (page.val % 17 = 0)) = false → s.watchedOn (page.val / 17) + (s.page page).watched ≤ 1024 →
    Does (.suctlWrite page value) s (fun t => (t.page page).en = true ∧ (t.page page).err = 0 ∧ (t.page page).sqhead = 0 ∧
      (t.page page).sqtail = 0 ∧ SameBanks s t)) ∧
  (∀ (s : State) (page : Fin 68) (value : BitVec 32), (page.val % 17 = 0 ∨ (s.partOfPage page).isSome = true) →
    (s.hport (page.val / 17)).gone = false → value.getLsbD 0 = true → (s.page page).en = false →
    (s.page page).badSetup (decide (page.val % 17 = 0)) = true →
    Does (.suctlWrite page value) s (fun t => (t.page page).en = false ∧ (t.page page).err = 2 ∧ SameBanks s t)) ∧
  (∀ (s : State) (page : Fin 68) (value : BitVec 32), (page.val % 17 = 0 ∨ (s.partOfPage page).isSome = true) →
    (s.hport (page.val / 17)).gone = false → value.getLsbD 0 = false →
    Does (.suctlWrite page value) s (fun t => (t.page page).en = false ∧ Keeps [.pages] s t)) ∧
  (∀ (s : State) (page : Fin 68) (line : Fin 9), s.ringLive page = true → line.val < (s.page page).watched →
    (s.page page).rereads.count line.val < 2 →
    Does (.snpinv page line) s (fun t => (t.page page).rereads = (s.page page).rereads ++ [line.val] ∧ Keeps [.pages] s t)) ∧
  (∀ (s : State) (page : Fin 68) (data : BitVec 512), s.ringLive page = true → 0 ∈ (s.page page).rereads →
    Does (.watchedLineRead page 0 data) s (fun t => (t.page page).sqtail = BitVec.ofNat 32 (data.toNat % 2 ^ 32) ∧
      (t.page page).cqhead = BitVec.ofNat 32 (field data.toNat 32 32) ∧ (t.page page).eqhead = BitVec.ofNat 32 (field data.toNat 64 32) ∧
      (2 ^ (s.page page).sqsz < (data.toNat % 2 ^ 32 + 2 ^ 32 - (s.page page).sqhead.toNat) % 2 ^ 32 → (t.page page).err = 1))) ∧
  (∀ (s : State) (page : Fin 68) (line : Fin 9) (data : BitVec 512) (p : Nat), s.ringLive page = true → line.val ≠ 0 →
    line.val ∈ (s.page page).rereads → s.partOfPage page = some p →
    Does (.watchedLineRead page line data) s (fun t => Tab.get (fun _ => 0) (t.part p).h2d (line.val - 1) = data ∧ Keeps [.pages, .parts] s t)) ∧
  (∀ (s : State) (page : Fin 68) (data : BitVec 512) (ok : Bool), s.ringLive page = true → (s.page page).err ≠ 1 →
    0 < ((s.page page).sqtail.toNat + 2 ^ 32 - (s.page page).sqhead.toNat) % 2 ^ 32 →
    ((s.page page).sqtail.toNat + 2 ^ 32 - (s.page page).sqhead.toNat) % 2 ^ 32 ≤ 2 ^ (s.page page).sqsz →
    (s.page page).fetched.length < 64 →
    ((s.page page).cqtail.toNat + 2 ^ 32 - (s.page page).cqhead.toNat) % 2 ^ 32 + (s.page page).fetched.length < 2 ^ (s.page page).cqsz →
    Does (.descriptorFetch page data ok) s (fun t => (t.page page).sqhead = (s.page page).sqhead + 1 ∧
      ∃ d : Desc, d.data = data ∧ d.ok = ok ∧ d.started = false ∧ (t.page page).fetched = (s.page page).fetched ++ [d])) ∧
  (∀ (s : State) (page : Fin 68) (tile : Fin 16) (d : Desc) (st : Nat), nextDesc [] (s.page page).fetched = some d →
    s.descRefusal page d = some st → (d.ok = false ∨ s.holds d = false) → (s.page page).en = true →
    ∀ c ∈ [Instr.start page, .halt page, .bind page, .unbind page, .load page tile, .discard page, .flush page, .code page,
        .fence page, .reset page, .attach page, .pcreate page, .pdestroy page, .pslot page, .pctx page, .pvf page],
      Does c s (fun t => (t.page page).cqtail = (s.page page).cqtail + 1 ∧ (∀ e ∈ (t.page page).fetched, e.serial ≠ d.serial) ∧
        ∃ w ∈ t.out.inflight, w.kind = .completion ∧
          w.addr = (s.page page).cqbase.toNat + 16 * ((s.page page).cqtail.toNat % 2 ^ (s.page page).cqsz) ∧
          w.data = Completion.bytes { tag := BitVec.ofNat 32 (d.f 32 32), status := BitVec.ofNat 8 st, irq := d.f 9 1 == 1,
                                      ctx := BitVec.ofNat 6 (d.names.getD 0) } (phaseOf (s.page page).cqtail.toNat (s.page page).cqsz)))

/-- Descriptors of contexts and handles (15 R575, R580; 12 R493 to R499; 10 R388, R390; 11 R435, R440): START runs an idle context from step 0
with its X0 to X3; HALT halts a running one with reason 0x38; BIND binds an unbound one with a window of zeros; UNBIND returns
its handle and asks for the window's clear; LOAD queues the load, or holds it behind those held before it; DISCARD empties the handle; FLUSH empties the port read
buffers of the partition's lines; CODE records the request; FENCE completes. -/
def Obligations.ContextDescriptorsComplete : Prop :=
  (∀ (s : State) (page : Fin 68) (d : Desc) (p i : Nat), DescReady s page 1 d → s.partOfPage page = some p →
    (s.ctx d.ctx).part = some p → (s.ctx d.ctx).handle = some i → (s.ctx d.ctx).st = .idle →
    (s.readBytes (((s.part p).handle i).slot * slotBytes + ((s.part p).handle i).off) 128).2 = false →
    Does (.start page) s (fun t => (t.ctx d.ctx).st = .running ∧ (t.ctx d.ctx).next = 0 ∧
      (t.ctx d.ctx).man = manifestOf (s.readBytes (((s.part p).handle i).slot * slotBytes + ((s.part p).handle i).off) 128).1 ∧
      (∀ j < 4, Tab.get (fun _ => 0) (t.ctx d.ctx).x j = BitVec.ofNat 64 (d.f (128 + 64 * j) 64)) ∧
      (∀ j, 4 ≤ j → Tab.get (fun _ => 0) (t.ctx d.ctx).x j = Tab.get (fun _ => 0) (s.ctx d.ctx).x j) ∧
      (t.ctx d.ctx).tl = [] ∧ (t.vfile d.ctx).exc = 0 ∧ SameBanks s t)) ∧
  (∀ (s : State) (page : Fin 68) (d : Desc), DescReady s page 2 d → s.ownsCtx page d.ctx = true → (s.ctx d.ctx).st = .running →
    Does (.halt page) s (fun t => (t.ctx d.ctx).st = .halted ∧ (t.ctx d.ctx).reason = 0x38 ∧ (t.ctx d.ctx).outst = [])) ∧
  (∀ (s : State) (page : Fin 68) (d : Desc) (p base : Nat), DescReady s page 4 d → s.partOfPage page = some p →
    (s.ctx d.ctx).part = some p → (s.ctx d.ctx).st = .unbound → (s.ctx d.ctx).winClear = false →
    s.bindRefusals p d.ctx (d.f 80 8) ((s.part p).handle d.handle) = [] → s.freeWindow (tileOfCtx d.ctx) (d.f 80 8) = some base →
    Does (.bind page) s (fun t => (t.ctx d.ctx).st = .idle ∧ (t.ctx d.ctx).handle = some d.handle ∧
      (t.ctx d.ctx).winBase = base ∧ (t.ctx d.ctx).winSize = d.f 80 8 ∧ (t.ctx d.ctx).x = [] ∧
      ((t.part p).handle d.handle).st = .bound ∧ ((t.part p).handle d.handle).ctx = some d.ctx ∧
      (∀ a, tileOfCtx d.ctx * 2 ^ 27 + base * 2 ^ 20 ≤ a → a < tileOfCtx d.ctx * 2 ^ 27 + (base + d.f 80 8) * 2 ^ 20 →
        t.spByte a = 0) ∧ SameBanks s t)) ∧
  (∀ (s : State) (page : Fin 68) (d : Desc), DescReady s page 5 d → s.ownsCtx page d.ctx = true →
    ((s.ctx d.ctx).st = .idle ∨ (s.ctx d.ctx).st = .halted) →
    Does (.unbind page) s (fun t => (t.ctx d.ctx).st = .unbound ∧ (t.ctx d.ctx).unbinding = some (d.ref page) ∧
      (t.ctx d.ctx).winClear = decide (0 < (s.ctx d.ctx).winSize) ∧
      (∀ p h, (s.ctx d.ctx).part = some p → (s.ctx d.ctx).handle = some h → ((t.part p).handle h).st = .ready) ∧ SameBanks s t)) ∧
  (∀ (s : State) (page : Fin 68) (tile : Fin 16) (d : Desc) (p : Nat), DescReady s page 3 d → s.partOfPage page = some p →
    (d.f 80 1 = 1 → (s.slot (d.f 128 64 / slotBytes)).owner = some p ∧ (s.slot (d.f 128 64 / slotBytes)).cls = .bulk ∧
      d.f 128 64 % slotBytes + d.f 192 64 ≤ slotBytes) →
    ((s.part p).handle d.handle).st ≠ .bound → ((s.part p).handle d.handle).st ≠ .translating →
    (s.hub tile).retired = false → (s.tran tile).queue.length < 16 → (s.tran tile).heldLoads = [] → s.fw.st ≠ 2 →
    Does (.load page tile) s (fun t => ((t.part p).handle d.handle).st = .translating ∧
      (∃ j : LoadJob, (t.tran tile).queue = (s.tran tile).queue ++ [j] ∧ j.part = p ∧ j.handle = d.handle ∧
        j.src = d.f 128 64 ∧ j.len = d.f 192 64) ∧ SameBanks s t)) ∧
  (∀ (s : State) (page : Fin 68) (tile : Fin 16) (d : Desc) (p : Nat), DescReady s page 3 d → s.partOfPage page = some p →
    (s.hub tile).retired = false → (16 ≤ (s.tran tile).queue.length ∨ (s.tran tile).heldLoads ≠ [] ∨ s.fw.st = 2) →
    Does (.load page tile) s (fun t => (t.part p).handle d.handle = (s.part p).handle d.handle ∧
      (∃ j : LoadJob, (t.tran tile).heldLoads = (s.tran tile).heldLoads ++ [j] ∧ j.part = p ∧ j.handle = d.handle ∧
        j.src = d.f 128 64 ∧ j.len = d.f 192 64) ∧ (t.tran tile).queue = (s.tran tile).queue ∧ SameBanks s t)) ∧
  (∀ (s : State) (page : Fin 68) (d : Desc) (p : Nat), DescReady s page 6 d → s.partOfPage page = some p →
    (((s.part p).handle d.handle).st = .empty ∨ ((s.part p).handle d.handle).st = .ready) →
    Does (.discard page) s (fun t => (t.part p).handle d.handle = {} ∧ SameBanks s t)) ∧
  (∀ (s : State) (page : Fin 68) (d : Desc) (p : Nat), DescReady s page 8 d → s.partOfPage page = some p →
    Does (.flush page) s (fun t => (∀ k < 4, ∀ e ∈ (t.hport k).prb, (s.slot (e.1 * 64 / slotBytes)).owner ≠ some p) ∧ SameBanks s t)) ∧
  (∀ (s : State) (page : Fin 68) (d : Desc) (p : Nat), DescReady s page 9 d → s.partOfPage page = some p →
    d.f 80 3 ≠ 5 → d.f 80 3 ≠ 6 → d.f 64 13 < s.slotCount → (s.slot (d.f 64 13)).owner = some p →
    Does (.code page) s (fun t => (t.slot (d.f 64 13)).codeReq = (if d.f 80 3 = 7 then none else some (d.f 80 3)) ∧
      (t.slot (d.f 64 13)).code = (s.slot (d.f 64 13)).code ∧ SameBanks s t)) ∧
  (∀ (s : State) (page : Fin 68) (d : Desc), DescReady s page 0x0A d → (s.page page).en = true →
    Does (.fence page) s (fun t => (t.page page).cqtail = (s.page page).cqtail + 1 ∧ (∀ e ∈ (t.page page).fetched, e.serial ≠ d.serial) ∧
      SameBanks s t))

/-- Descriptors of partitions and slots (15 R559 to R563, R582, R586; 18 R682): RESET and PDESTROY begin a partition reset;
ATTACH with the recorded token makes a preserved partition active and runs its preserved contexts again; PCREATE makes a partition on
its VF; PSLOT grants a slot in its class or asks for its clear; PCTX grants a context and takes it back; PVF moves a partition
to another VF. -/
def Obligations.PartitionDescriptorsComplete : Prop :=
  (∀ (s : State) (page : Fin 68) (d : Desc) (p : Nat), DescReady s page 0x0B d → s.partOfPage page = some p →
    Does (.reset page) s (fun t => (t.part p).st = .resetting ∧ (t.part p).destroy = false ∧
      (t.part p).reset = some { keep := d.f 64 1 == 1, desc := some (d.ref page) } ∧ SameBanks s t)) ∧
  (∀ (s : State) (page : Fin 68) (d : Desc) (p : Nat), DescReady s page 0x0C d → s.partOfPage page = some p →
    (s.part p).st = .preserved → (s.part p).token.toNat = d.f 128 64 →
    Does (.attach page) s (fun t => (t.part p).st = .active ∧ (t.part p).token = 0 ∧
      (∀ c < 64, (s.ctx c).part = some p → (s.ctx c).st = .preserved → (t.ctx c).st = .running) ∧ SameBanks s t)) ∧
  (∀ (s : State) (page : Fin 68) (d : Desc), DescReady s page 0x20 d → (s.part d.part).st = .free →
    d.part < s.partCount → (s.lostTiles = [] ∨ ((List.range 64).filter (fun q => (s.part q).st != .free)).length < s.partCount - 4) →
    s.vfTaken (if d.f 79 1 = 1 then d.f 72 2 else d.part / 16) (if d.f 79 1 = 1 then d.f 80 4 else d.part % 16) = false →
    Does (.pcreate page) s (fun t => (t.part d.part).st = .active ∧
      (t.part d.part).port = (if d.f 79 1 = 1 then d.f 72 2 else d.part / 16) ∧
      (t.part d.part).vf = (if d.f 79 1 = 1 then d.f 80 4 else d.part % 16) ∧ (t.part d.part).keepflr = (d.f 88 1 == 1) ∧ SameBanks s t)) ∧
  (∀ (s : State) (page : Fin 68) (d : Desc), DescReady s page 0x21 d → (s.part d.part).st ≠ .free → (s.part d.part).st ≠ .resetting →
    Does (.pdestroy page) s (fun t => (t.part d.part).st = .resetting ∧ (t.part d.part).destroy = true ∧ SameBanks s t)) ∧
  (∀ (s : State) (page : Fin 68) (d : Desc) (cls : SlotClass), DescReady s page 0x22 d → (s.part d.part).st ≠ .resetting →
    d.f 120 1 = 0 → classOfCode (d.f 112 2) = some cls → s.slotRefusal d.part (d.f 96 13) (some cls) false = none →
    Does (.pslot page) s (fun t => (t.slot (d.f 96 13)).owner = some d.part ∧ (t.slot (d.f 96 13)).cls = cls)) ∧
  (∀ (s : State) (page : Fin 68) (d : Desc), DescReady s page 0x22 d → (s.part d.part).st ≠ .resetting →
    d.f 120 1 = 1 → s.slotRefusal d.part (d.f 96 13) (classOfCode (d.f 112 2)) true = none →
    Does (.pslot page) s (fun t => (t.slot (d.f 96 13)).clearing = true ∧ (t.slot (d.f 96 13)).release = true ∧
      (t.slot (d.f 96 13)).slotDesc = some (d.ref page))) ∧
  (∀ (s : State) (page : Fin 68) (d : Desc), DescReady s page 0x23 d → (s.part d.part).st ≠ .free → (s.part d.part).st ≠ .resetting →
    d.f 120 1 = 0 → (s.ctx (d.f 72 6)).part = none → (s.hub (tileOfCtx (d.f 72 6))).retired = false →
    Does (.pctx page) s (fun t => (t.ctx (d.f 72 6)).part = some d.part ∧
      (∀ c, c ≠ d.f 72 6 → t.ctx c = s.ctx c) ∧ SameBanks s t)) ∧
  (∀ (s : State) (page : Fin 68) (d : Desc), DescReady s page 0x23 d → (s.part d.part).st ≠ .free → (s.part d.part).st ≠ .resetting →
    d.f 120 1 = 1 → (s.ctx (d.f 72 6)).part = some d.part → (s.ctx (d.f 72 6)).st = .unbound → (s.ctx (d.f 72 6)).winClear = false →
    Does (.pctx page) s (fun t => (t.ctx (d.f 72 6)).part = none ∧ (∀ c, c ≠ d.f 72 6 → t.ctx c = s.ctx c) ∧ SameBanks s t)) ∧
  (∀ (s : State) (page : Fin 68) (d : Desc), DescReady s page 0x24 d → (s.part d.part).st ≠ .free → (s.part d.part).st ≠ .resetting →
    s.vfTaken (d.f 72 2) (d.f 80 4) = false →
    Does (.pvf page) s (fun t => (t.part d.part).port = d.f 72 2 ∧ (t.part d.part).vf = d.f 80 4 ∧
      ((s.part d.part).st = .homeless → (t.part d.part).st = .active) ∧ SameBanks s t))

/-- Steps of the sequencer that move registers (11 R444, R450, R453, R459 to R461): NOP, XSET, AMOV, CMSET and SPLIT issue, complete
at issue, and write the registers their words name and no other. -/
def Obligations.RegisterStepsComplete : Prop :=
  (∀ (s : State) (c : Fin 64) (w : Nat), StepReady s c 0 0 w →
    Does (.nop c) s (fun t => IssuedNext c w s t ∧ TallyDone c w s t ∧ XSame c (fun _ => False) s t ∧
      (t.ctx c).a = (s.ctx c).a ∧ SameBanks s t)) ∧
  (∀ (s : State) (c : Fin 64) (w : Nat), StepReady s c 0 5 w →
    Does (.xset c) s (fun t => t.xreg c (body w 0 6) = BitVec.ofNat 64 (body w 64 64) ∧ XSame c (· = body w 0 6) s t ∧
      (t.ctx c).a = (s.ctx c).a ∧ IssuedNext c w s t ∧ TallyDone c w s t ∧ SameBanks s t)) ∧
  (∀ (s : State) (c : Fin 64) (w : Nat), StepReady s c 0 6 w →
    Does (.amov c) s (fun t => t.areg c (body w 0 4) = (s.xreg c (body w 4 6)).toNat % 2 ^ 48 ∧
      (∀ k, k ≠ body w 0 4 → t.areg c k = s.areg c k) ∧ XSame c (fun _ => False) s t ∧
      IssuedNext c w s t ∧ TallyDone c w s t ∧ SameBanks s t)) ∧
  (∀ (s : State) (c : Fin 64) (w : Nat), StepReady s c 0 7 w →
    Does (.cmset c) s (fun t => (t.ctx c).cmp (body w 0 3) = (body w 3 4,
        (if flag w 77 then (s.ctx c).tally (body w 3 4) else 0) + BitVec.ofNat 32 (s.xreg c (body w 7 6)).toNat) ∧
      (∀ k, k ≠ body w 0 3 → (flag w 15 = false ∨ k ≠ field w 12 3) → (t.ctx c).cmp k = (s.ctx c).cmp k) ∧ XSame c (fun _ => False) s t ∧ TallyDone c w s t ∧ SameBanks s t)) ∧
  (∀ (s : State) (c : Fin 64) (w gb : Nat), StepReady s c 0 8 w →
    gb = bankShare (s.splitEntry c (body w 17 4) ((s.xreg c (body w 21 6)).toNat % 2 ^ 32)) (s.shiftOf c)
      (s.cargo c (s.cargoIndex c w)).g (flag w 97) →
    Does (.split c) s (fun t => t.xreg c (body w 27 6) = BitVec.ofNat 64 gb ∧
      t.xreg c (body w 27 6 + 1) = BitVec.ofNat 64 ((s.cargo c (s.cargoIndex c w)).g - gb) ∧
      t.xreg c (body w 27 6 + 2) = BitVec.ofNat 64 (64 * ((s.cargo c (s.cargoIndex c w)).g - gb)) ∧
      t.xreg c (body w 27 6 + 3) = BitVec.ofNat 64 (ceilDiv (body w 49 16 + 1) 32 * 2 * ((s.cargo c (s.cargoIndex c w)).g - gb)) ∧
      XSame c (fun k => body w 27 6 ≤ k ∧ k ≤ body w 27 6 + 3) s t ∧
      (flag w 112 = true → t.areg c (body w 34 4) =
        (s.areg c (body w 38 4) + 64 * gb / 128 * (s.xreg c (body w 42 6)).toNat) % 2 ^ 48) ∧
      (flag w 112 = false → (t.ctx c).a = (s.ctx c).a) ∧ TallyDone c w s t ∧ SameBanks s t))

/-- Steps of the sequencer that order, repeat and report (11 R439, R444, R447, R456 to R458; 15 R588, R590): a fetch fills the
step cache with the step's 32 bytes once its channel grants it, poisoned where its slot has lost its storage, and waits before that (it asks
as requester 6: log entry 100); a fetch past the last step halts; END makes the context idle once nothing is outstanding; REPLAY opens a body of N repeats, or
skips it; a repeat's entries move the registers they name; EVENT posts a user event in the ring. -/
def Obligations.ControlStepsComplete : Prop :=
  (∀ (s : State) (c : Fin 64) (index : BitVec 24) (sa : Nat) (l : Loc), (s.ctx c).st = .running → index.toNat < (s.ctx c).man.nstep →
    sa = (s.ctx c).man.steps + 32 * index.toNat → (s.slot (sa / slotBytes)).dead = false → (s.slot (sa / slotBytes)).cls ≠ .shared →
    l = s.locate sa → ReadsAtOnce s (chanOfBank l.moduleBank) 6 (l.moduleBank % 48) l.row →
    s.lineAsks (s.lineOfSa (sa / 64 * 64)) = false →
    Does (.stepFetch c index) s (fun t =>
      Tab.get (fun _ => none) (t.ctx c).cache index.toNat =
        some (BitVec.ofNat 256 (ofLe (((lineBytes (s.readLine (s.lineOfSa (sa / 64 * 64))).1).drop (sa % 64)).take 32)),
          (s.readLine (s.lineOfSa (sa / 64 * 64))).2) ∧ SameBanks s t)) ∧
  (∀ (s : State) (c : Fin 64) (index : BitVec 24) (sa : Nat), (s.ctx c).st = .running → index.toNat < (s.ctx c).man.nstep →
    sa = (s.ctx c).man.steps + 32 * index.toNat → (s.slot (sa / slotBytes)).dead = true →
    Does (.stepFetch c index) s (fun t => (∃ v, Tab.get (fun _ => none) (t.ctx c).cache index.toNat = some (v, true)) ∧ SameBanks s t)) ∧
  (∀ (s : State) (c : Fin 64) (index : BitVec 24) (sa : Nat), (s.ctx c).st = .running → index.toNat < (s.ctx c).man.nstep →
    sa = (s.ctx c).man.steps + 32 * index.toNat → (s.slot (sa / slotBytes)).dead = false → s.canRead 6 sa = false →
    exec (.stepFetch c index) s = .next s) ∧
  (∀ (s : State) (c : Fin 64), (s.ctx c).st = .running → (s.ctx c).man.nstep ≤ (s.ctx c).next → (s.ctx c).next < 2 ^ 24 →
    Does (.stepFetch c (BitVec.ofNat 24 (s.ctx c).next)) s (fun t => (t.ctx c).st = .halted ∧ (t.ctx c).reason = 0x0B)) ∧
  (∀ (s : State) (c : Fin 64) (w : Nat), StepReady s c 0 1 w → (s.ctx c).outst = [] →
    Does (.endStep c) s (fun t => (t.ctx c).st = .idle ∧ (t.ctx c).start = none ∧ (t.ctx c).stack = [] ∧
      XSame c (fun _ => False) s t ∧ SameBanks s t)) ∧
  (∀ (s : State) (c : Fin 64) (w : Nat), StepReady s c 0 2 w → s.sizeOf c w (body w 16 32) ≠ 0 →
    Does (.replay c) s (fun t => (t.ctx c).next = (s.ctx c).next + 1 ∧
      (∃ r rest, (t.ctx c).stack = r :: rest ∧ r.atStep = (s.ctx c).next ∧ r.k = body w 0 16 ∧ r.n = s.sizeOf c w (body w 16 32) ∧ r.j = 0) ∧
      XSame c (fun _ => False) s t ∧ TallyDone c w s t ∧ SameBanks s t)) ∧
  (∀ (s : State) (c : Fin 64) (w : Nat), StepReady s c 0 2 w → s.sizeOf c w (body w 16 32) = 0 → (s.ctx c).stack = [] →
    Does (.replay c) s (fun t => (t.ctx c).next = (s.ctx c).next + body w 0 16 + 1 ∧ (t.ctx c).stack = [] ∧
      XSame c (fun _ => False) s t ∧ TallyDone c w s t ∧ SameBanks s t)) ∧
  (∀ (s : State) (c : Fin 64) (r : Replay) (rest : List Replay), (s.ctx c).st = .running → (s.ctx c).pend = true →
    (s.ctx c).access = none → (s.ctx c).stack = r :: rest →
    Does (.replayRepeat c) s (fun t => (t.ctx c).pend = false ∧ SameBanks s t)) ∧
  (∀ (s : State) (c : Fin 64) (r : Replay) (rest : List Replay) (a xs : Nat), (s.ctx c).st = .running → (s.ctx c).pend = true →
    (s.ctx c).access = none → (s.ctx c).stack = r :: rest → 0 < r.j → incEntry r.word.toNat 0 = some (a, xs) →
    (∀ m, 0 < m → m < 4 → incEntry r.word.toNat m = none) → (∀ m < 4, patEntry r.word.toNat m = none) →
    Does (.replayRepeat c) s (fun t => t.areg c a = (s.areg c a + (s.xreg c xs).toNat) % 2 ^ 48 ∧
      (∀ k, k ≠ a → t.areg c k = s.areg c k) ∧ XSame c (fun _ => False) s t ∧ (t.ctx c).access = none)) ∧
  (∀ (s : State) (c : Fin 64) (r : Replay) (rest : List Replay) (xd src : Nat), (s.ctx c).st = .running → (s.ctx c).pend = true →
    (s.ctx c).access = none → (s.ctx c).stack = r :: rest → 0 < r.j → patEntry r.word.toNat 0 = some (xd, src, false) →
    (∀ m < 4, incEntry r.word.toNat m = none) → (∀ m, 0 < m → m < 4 → patEntry r.word.toNat m = none) →
    Does (.replayRepeat c) s (fun t => t.xreg c xd = s.xreg c xd + s.xreg c src ∧ XSame c (· = xd) s t ∧ (t.ctx c).a = (s.ctx c).a)) ∧
  (∀ (s : State) (c : Fin 64) (w p : Nat), StepReady s c 0 11 w → (s.ctx c).part = some p →
    (s.part p).st ≠ .free → (s.part p).st ≠ .homeless → (s.page (s.pageOfPart p)).en = true →
    ((s.page (s.pageOfPart p)).eqtail.toNat + 2 ^ 32 - (s.page (s.pageOfPart p)).eqhead.toNat) % 2 ^ 32 < 2 ^ (s.page (s.pageOfPart p)).eqsz →
    Does (.event c) s (fun t => (t.page (s.pageOfPart p)).eqtail = (s.page (s.pageOfPart p)).eqtail + 1 ∧
      (t.page (s.pageOfPart p)).evseq = (s.page (s.pageOfPart p)).evseq + 1 ∧
      (∃ v ∈ t.out.inflight, v.kind = .event ∧
        v.addr = (s.page (s.pageOfPart p)).eqbase.toNat + 32 * ((s.page (s.pageOfPart p)).eqtail.toNat % 2 ^ (s.page (s.pageOfPart p)).eqsz)) ∧
      XSame c (fun _ => False) s t ∧ TallyDone c w s t ∧ SameBanks s t))

/-- Steps of the sequencer on the scratchpad and the mailboxes (11 R444 to R446; 15 R591, R594): XLD loads registers from the
window and XST stores them, and their step completes when the access ends, each cycle a bank is taken adding to it; MBXR takes a message into eight registers and shows
its SEQ; MBXW sends 60 bytes of the scratchpad with the slot's next count. -/
def Obligations.ScratchpadStepsComplete : Prop :=
  (∀ (s : State) (c : Fin 64) (w : Nat), StepReady s c 0 3 w →
    (∀ k ≤ body w 38 6, s.spPoisoned (tileOfCtx c) ((s.xldSpan c w).1 + 8 * k) 8 = false) →
    Does (.xld c) s (fun t =>
      (∀ k ≤ body w 38 6, t.xreg c (body w 32 6 + k) = BitVec.ofNat 64 (ofLe (s.spRead (tileOfCtx c) ((s.xldSpan c w).1 + 8 * k) 8))) ∧
      XSame c (fun k => body w 32 6 ≤ k ∧ k ≤ body w 32 6 + body w 38 6) s t ∧
      (∃ a, (t.ctx c).access = some a ∧ a.kind = 0 ∧ a.fin = s.seqCycle + 8 ∧ a.tadv = stepTally w) ∧ t.sp = s.sp ∧ SameBanks s t)) ∧
  (∀ (s : State) (c : Fin 64) (w : Nat), StepReady s c 0 3 w →
    Does (.xld c) s (fun t => (∀ k ≤ body w 38 6, t.xbad c (body w 32 6 + k) = s.spPoisoned (tileOfCtx c) ((s.xldSpan c w).1 + 8 * k) 8) ∧
      XSame c (fun k => body w 32 6 ≤ k ∧ k ≤ body w 32 6 + body w 38 6) s t ∧
      (∃ a, (t.ctx c).access = some a ∧ a.kind = 0 ∧ a.fin = s.seqCycle + 8) ∧ t.sp = s.sp ∧ SameBanks s t)) ∧
  (∀ (s : State) (c : Fin 64) (w : Nat), StepReady s c 0 4 w →
    Does (.xst c) s (fun t =>
      (∀ k ≤ body w 38 6, ∀ b < 8, t.spByte (tileOfCtx c * spBytes + (s.xldSpan c w).1 + 8 * k + b) =
        (leBytes 8 (s.xreg c (body w 32 6 + k)).toNat).getD b 0) ∧
      (∀ a, (a < tileOfCtx c * spBytes + (s.xldSpan c w).1 ∨ tileOfCtx c * spBytes + (s.xldSpan c w).1 + 8 * (body w 38 6 + 1) ≤ a) →
        t.spByte a = s.spByte a) ∧ XSame c (fun _ => False) s t ∧
      (∃ a, (t.ctx c).access = some a ∧ a.kind = 1 ∧ a.fin = s.seqCycle + 8) ∧ SameBanks s t)) ∧
  (∀ (s : State) (c : Fin 64) (a : Access), (s.ctx c).access = some a → a.ends ≤ s.seqCycle → a.kind < 3 →
    Does (.scratchpadAccessEnd c) s (fun t => (t.ctx c).access = none ∧
      (∀ k, (t.ctx c).tally k = (s.ctx c).tally k + (if a.tadv = some k then 1 else 0)) ∧
      (t.ctx c).outst = (s.ctx c).outst.erase (stepKey 0 ([3, 4, 10].getD a.kind 0) a.step) ∧ SameBanks s t)) ∧
  (∀ (s : State) (c : Fin 64) (a : Access), (s.ctx c).access = some a → a.ends ≤ s.seqCycle → a.kind = 3 →
    Does (.scratchpadAccessEnd c) s (fun t => (t.ctx c).access = none ∧ (t.ctx c).tl = (s.ctx c).tl ∧
      (t.ctx c).outst = (s.ctx c).outst ∧ Keeps [.ctxs] s t)) ∧
  (∀ (s : State) (c : Fin 64) (a : Access), (s.ctx c).access = some a → s.seqCycle < a.ends →
    exec (.scratchpadAccessEnd c) s = .next s) ∧
  (∀ (s : State) (c : Fin 64) (w p : Nat), StepReady s c 0 9 w → s.hasMail c (body w 0 3) = true → (s.ctx c).part = some p →
    (s.h2dSlot c (body w 0 3)).2 = false →
    Does (.mbxr c) s (fun t =>
      (∀ n < 8, t.xreg c (body w 3 6 + n) = BitVec.ofNat 64 (field (s.h2dSlot c (body w 0 3)).1.toNat (64 * n) 64)) ∧
      XSame c (fun k => body w 3 6 ≤ k ∧ k < body w 3 6 + 8) s t ∧
      Tab.get (fun _ => 0) (t.part p).h2dack (body w 0 3) = BitVec.ofNat 32 (field (s.h2dSlot c (body w 0 3)).1.toNat 480 32) ∧
      TallyDone c w s t ∧ SameBanks s t)) ∧
  (∀ (s : State) (c : Fin 64) (w p : Nat), StepReady s c 0 9 w → s.hasMail c (body w 0 3) = true → (s.ctx c).part = some p →
    (s.h2dSlot c (body w 0 3)).2 = true →
    Does (.mbxr c) s (fun t => (∀ n < 8, t.xbad c (body w 3 6 + n) = true) ∧ (t.ctx c).poison = true ∧
      XSame c (fun k => body w 3 6 ≤ k ∧ k < body w 3 6 + 8) s t ∧ TallyDone c w s t ∧ SameBanks s t)) ∧
  (∀ (s : State) (c : Fin 64) (w p : Nat), StepReady s c 0 10 w → (s.ctx c).part = some p → (s.page (s.pageOfPart p)).en = true →
    Does (.mbxw c) s (fun t =>
      Tab.get (fun _ => 0) (t.part p).d2hcnt (body w 0 3) = nextCount (Tab.get (fun _ => 0) (s.part p).d2hcnt (body w 0 3)) ∧
      (∃ v ∈ t.out.inflight, v.kind = .mailbox ∧ v.addr = (s.page (s.pageOfPart p)).mbxd2h.toNat + 64 * body w 0 3 ∧
        v.data = s.spRead (tileOfCtx c) (s.mbxwAddr c w) 60 ++
          leBytes 4 (nextCount (Tab.get (fun _ => 0) (s.part p).d2hcnt (body w 0 3))).toNat) ∧
      (∃ a, (t.ctx c).access = some a ∧ a.kind = 2 ∧ a.fin = s.seqCycle + 8) ∧ XSame c (fun _ => False) s t ∧ SameBanks s t))

/-- A step that fails decode halts its context with the reason R468 gives it, whichever operation it is; a poisoned fetch
halts with 0x0A (11 R468, R469). -/
def Obligations.DecodeFailureHalts : Prop :=
  ∀ (s : State) (c : Fin 64) (bw : BitVec 256) (bad : Bool), (s.ctx c).st = .running → (s.ctx c).pend = false → (s.ctx c).access = none →
    Tab.get (fun _ => none) (s.ctx c).cache (s.ctx c).next = some (bw, bad) →
    ∀ i ∈ [Instr.nop c, .xset c, .amov c, .cmset c, .split c, .event c, .endStep c, .replay c, .xld c, .xst c, .mbxr c, .mbxw c,
        .mmul c, .mwake c, .vchain c, .fcopy c, .fxpose c, .fgather c, .fscatter c, .nbpass c, .gbar c, .gbcast c, .gred c, .gsnap c],
      (bad = true → Does i s (fun t => (t.ctx c).st = .halted ∧ (t.ctx c).reason = 0x0A ∧ (t.ctx c).hstep = (s.ctx c).next ∧
        (t.ctx c).outst = [])) ∧
      (∀ reason fld, bad = false → s.decodeHalt c bw.toNat = some (reason, fld) →
        Does i s (fun t => (t.ctx c).st = .halted ∧ (t.ctx c).reason = reason ∧ (t.ctx c).hfield = fld ∧
          (t.ctx c).hstep = (s.ctx c).next ∧ (t.ctx c).outst = []))

/-- Steps and descriptors of the ferry (10 R408 to R410, R425, R431 to R433; 11 R451; 15 R581): a ferry step or a COPY enters the queue of its
channel in order; a step starts, moves its data and completes, with its tally or its COPY's completion; a step in overlap mode
waits for the tile's hold; a fault halts the channel and its context, or fails the COPY; a corrected word is counted, an
uncorrectable one poisoned. -/
def Obligations.FerryCommandsComplete : Prop :=
  (∀ (s : State) (c : Fin 64) (w : Nat), StepReady s c 3 0 w → Does (.fcopy c) s (FerryQueued c 0 w s)) ∧
  (∀ (s : State) (c : Fin 64) (w : Nat), StepReady s c 3 1 w → Does (.fxpose c) s (FerryQueued c 1 w s)) ∧
  (∀ (s : State) (c : Fin 64) (w : Nat), StepReady s c 3 2 w → Does (.fgather c) s (FerryQueued c 2 w s)) ∧
  (∀ (s : State) (c : Fin 64) (w : Nat), StepReady s c 3 3 w → Does (.fscatter c) s (FerryQueued c 3 w s)) ∧
  (∀ (s : State) (page : Fin 68) (d : Desc) (src dst : Operand), DescReady s page 7 d → s.ownsCtx page d.ctx = true →
    1 ≤ d.f 256 64 → d.f 256 64 ≤ 2 ^ 40 → (s.ctx d.ctx).st ≠ .unbound → s.share d.ctx 3 < 8 →
    src = s.copyOperand d.ctx (d.f 80 2) (d.f 128 64) (d.f 256 64) → dst = s.copyOperand d.ctx (d.f 82 2) (d.f 192 64) (d.f 256 64) →
    src.space ≠ 1 → dst.space ≠ 1 → s.placeHalt d.ctx src = none → s.placeHalt d.ctx dst = none →
    (({ ctx := d.ctx, src := src, dst := dst } : FeStep).overlaps (tileOfCtx d.ctx) = true → src.dataBytes ≤ 0x400000) →
    (s.fchan (16 * tileOfCtx d.ctx + 4 * (d.ctx % 4) + d.f 72 2)).st ≠ 2 →
    Does (.copy page) s (fun t => (∃ e : FeStep, e.op = 0 ∧ e.ctx = d.ctx ∧ e.src = src ∧ e.dst = dst ∧ e.copy = some (d.ref page) ∧
      (t.fchan (16 * tileOfCtx d.ctx + 4 * (d.ctx % 4) + d.f 72 2)).queue =
        (s.fchan (16 * tileOfCtx d.ctx + 4 * (d.ctx % 4) + d.f 72 2)).queue ++ [e]) ∧ SameBanks s t)) ∧
  (∀ (s : State) (tile chan : Fin 16) (host : List (BitVec 8)) (bad : List Nat) (e : FeStep) (rest : List FeStep),
    (s.fchan (16 * tile.val + chan.val)).cur = none → (s.fchan (16 * tile.val + chan.val)).queue = e :: rest →
    (s.fchan (16 * tile.val + chan.val)).st = 0 → e.entry ≤ s.cyc → (s.hub tile).engines.contains 2 = true →
    e.overlaps tile = true → (s.hub tile).overlap.isSome = true →
    Does (.ferryStepStart tile chan host bad) s (fun t => (t.fchan (16 * tile.val + chan.val)).st = 3 ∧
      (t.fchan (16 * tile.val + chan.val)).cur = some e ∧ (t.fchan (16 * tile.val + chan.val)).queue = rest ∧ t.sp = s.sp ∧ SameBanks s t)) ∧
  (∀ (s : State) (tile chan : Fin 16) (host : List (BitVec 8)) (bad : List Nat) (e : FeStep) (rest : List FeStep),
    (s.fchan (16 * tile.val + chan.val)).cur = none → (s.fchan (16 * tile.val + chan.val)).queue = e :: rest →
    (s.fchan (16 * tile.val + chan.val)).st = 0 → (s.fchan (16 * tile.val + chan.val)).biWait = false →
    e.entry ≤ s.cyc → (s.hub tile).engines.contains 2 = true →
    e.src.space = 0 → e.dst.space = 0 → stopOf (s.moves e) = none → s.outstanding tile chan = [] →
    (e.overlaps tile = true → (s.hub tile).overlap = none) →
    Does (.ferryStepStart tile chan host bad) s (fun t => (t.fchan (16 * tile.val + chan.val)).st = 1 ∧
      (t.fchan (16 * tile.val + chan.val)).cur = some e ∧ (t.fchan (16 * tile.val + chan.val)).queue = rest ∧
      (t.fchan (16 * tile.val + chan.val)).done = true ∧ (t.fchan (16 * tile.val + chan.val)).startAt = s.cyc ∧
      (e.overlaps tile = true → (t.hub tile).overlap = some chan.val) ∧ SameBanks s t)) ∧
  (∀ (s : State) (tile chan : Fin 16) (e : FeStep), (s.fchan (16 * tile.val + chan.val)).cur = some e →
    (s.fchan (16 * tile.val + chan.val)).st = 3 → (s.hub tile).overlap = none →
    (s.fchan (16 * tile.val + chan.val)).biWait = false → (s.fchan (16 * tile.val + chan.val)).done = false →
    (s.fchan (16 * tile.val + chan.val)).moved = false → (s.fchan (16 * tile.val + chan.val)).badLine = none →
    (s.fchan (16 * tile.val + chan.val)).todo = [] → e.src.space = 0 → e.dst.space = 0 → stopOf (s.moves e) = none →
    s.outstanding tile chan = [] →
    Does (.overlapHoldGrant tile chan) s (fun t => (t.fchan (16 * tile.val + chan.val)).st = 1 ∧
      (t.hub tile).overlap = some chan.val ∧ (t.fchan (16 * tile.val + chan.val)).done = true ∧ SameBanks s t)) ∧
  (∀ (s : State) (tile chan : Fin 16) (e : FeStep), (s.fchan (16 * tile.val + chan.val)).cur = some e →
    (s.fchan (16 * tile.val + chan.val)).done = true → (s.fchan (16 * tile.val + chan.val)).posted = 0 →
    (s.fchan (16 * tile.val + chan.val)).todo = [] → s.outstanding tile chan = [] →
    (s.fchan (16 * tile.val + chan.val)).startAt + (s.fchan (16 * tile.val + chan.val)).need ≤ s.cyc →
    Does (.ferryStepComplete tile chan) s (fun t => (t.fchan (16 * tile.val + chan.val)).cur = none ∧
      (t.fchan (16 * tile.val + chan.val)).st = 0 ∧ (t.hub tile).overlap ≠ some chan.val ∧
      (e.copy = none → (t.ctx e.ctx).outst = (s.ctx e.ctx).outst.erase (stepKey 3 e.op e.step) ∧
        ∀ k, (t.ctx e.ctx).tally k = (s.ctx e.ctx).tally k + (if e.tadv = some k then 1 else 0)) ∧
      (∀ r, e.copy = some r → ∀ x ∈ (t.page r.page).fetched, x.serial ≠ r.serial) ∧ SameBanks s t)) ∧
  (∀ (s : State) (tile chan : Fin 16) (fault : BitVec 4) (operand : Fin 4) (addr : BitVec 48) (space : BitVec 3) (at_ : Fin 16)
      (module : BitVec 6) (e : FeStep), 1 ≤ fault.toNat → fault.toNat ≤ 8 → (s.fchan (16 * tile.val + chan.val)).cur = some e →
    Does (.ferryFault tile chan fault operand addr space at_ module) s (fun t =>
      (t.fchan (16 * tile.val + chan.val)).st = 2 ∧ (t.fchan (16 * tile.val + chan.val)).fault = fault.toNat ∧
      (t.fchan (16 * tile.val + chan.val)).queue = [] ∧ (t.fchan (16 * tile.val + chan.val)).cur = none ∧
      (t.fchan (16 * tile.val + chan.val)).addr = addr.toNat ∧
      (e.copy = none → (s.ctx (4 * tile.val + chan.val / 4)).st = .running →
        (t.ctx (4 * tile.val + chan.val / 4)).st = .halted ∧ (t.ctx (4 * tile.val + chan.val / 4)).reason = 0x21) ∧ SameBanks s t)) ∧
  (∀ (s : State) (tile : Fin 16) (word : BitVec 21),
    Does (.scratchpadCorrectWriteback tile word true) s (fun t => t.spBad (tile.val * 2 ^ 21 + word.toNat) = true ∧
      (t.hub tile).spUnc = satNat 16 ((s.hub tile).spUnc + 1) ∧ (t.hub tile).spWord = word.toNat / 64 ∧ t.sp = s.sp)) ∧
  (∀ (s : State) (tile : Fin 16) (word : BitVec 21),
    Does (.scratchpadCorrectWriteback tile word false) s (fun t => t.spPois = s.spPois ∧ t.sp = s.sp ∧
      (t.hub tile).spCorr = satNat 16 ((s.hub tile).spCorr + 1)))

/-- Steps of the matrix engine (08 R308 to R319, R325, R329; 11 R451): MMUL and MWAKE enter the matrix queue; a step starts when the engine, its
arrangement's slices and its predecessor let it; a wave begins its operand cycles, a cycle in which a bank is asked for two words holds
the streams and counts as a conflict (R306), and the wave's panels enter the finished-panel queue in order, the last one completing the
step; a step with KEEP completes at E with its roods resident. -/
def Obligations.MatrixStepsComplete : Prop :=
  (∀ (s : State) (c : Fin 64) (w : Nat), StepReady s c 1 0 w →
    Does (.mmul c) s (fun t => (∃ e : MeStep, (t.mat (tileOfCtx c)).queue = (s.mat (tileOfCtx c)).queue ++ [e] ∧ e.ctx = c.val ∧
        e.step = (s.ctx c).next ∧ e.op = 0 ∧ e.fmt = body w 45 3 ∧ e.m = body w 0 16 + 1 ∧ e.n = s.sizeOf c w (body w 16 16 + 1) ∧
        e.k = 32 * (body w 32 13 + 1) ∧ e.cont = flag w 118 ∧ e.keep = flag w 119) ∧
      (t.ctx c).outst = (s.ctx c).outst ++ [stepKey 1 0 (s.ctx c).next] ∧ IssuedNext c w s t ∧ XSame c (fun _ => False) s t ∧ SameBanks s t)) ∧
  (∀ (s : State) (c : Fin 64) (w : Nat), StepReady s c 1 1 w →
    Does (.mwake c) s (fun t => (∃ e : MeStep, (t.mat (tileOfCtx c)).queue = (s.mat (tileOfCtx c)).queue ++ [e] ∧ e.ctx = c.val ∧
        e.step = (s.ctx c).next ∧ e.op = 1) ∧
      (t.ctx c).outst = (s.ctx c).outst ++ [stepKey 1 1 (s.ctx c).next] ∧ IssuedNext c w s t ∧ XSame c (fun _ => False) s t ∧ SameBanks s t)) ∧
  (∀ (s : State) (tile : Fin 16) (e : MeStep), (s.hub tile).engines.contains 0 = true →
    (s.mat tile).heads.find? (fun e => e.op == 1 && decide (e.entry ≤ s.cyc)) = some e → (s.mat tile).awake = true → (s.mat tile).wake = [] →
    Does (.meStepStart tile) s (fun t => (t.mat tile).queue = (s.mat tile).queue.erase e ∧ (t.mat tile).wake = [] ∧
      (t.ctx e.ctx).outst = (s.ctx e.ctx).outst.erase (stepKey 1 1 e.step) ∧
      (∀ k, (t.ctx e.ctx).tally k = (s.ctx e.ctx).tally k + (if e.tadv = some k then 1 else 0)) ∧ SameBanks s t)) ∧
  (∀ (s : State) (tile : Fin 16) (e : MeStep), (s.hub tile).engines.contains 0 = true →
    (s.mat tile).heads.find? (fun e => e.op == 1 && decide (e.entry ≤ s.cyc)) = some e → (s.mat tile).awake = false →
    Does (.meStepStart tile) s (fun t => (t.mat tile).queue = (s.mat tile).queue.erase e ∧
      (t.mat tile).wake = (s.mat tile).wake ++ [e] ∧
      (∀ sl ∈ (s.mat tile).serve, sl ∉ (s.mat tile).ungated →
        (2, sl) ∈ (t.hub tile).admitted ∨ ∃ a, (2, sl, a) ∈ (t.hub tile).wakeQ) ∧ SameBanks s t)) ∧
  (∀ (s : State) (tile : Fin 16) (e : MeStep) (s0 : Nat), (s.hub tile).engines.contains 0 = true →
    (s.mat tile).heads.find? (fun e => e.op == 1 && decide (e.entry ≤ s.cyc)) = none →
    (s.mat tile).heads.find? (fun e => e.op == 0 && (match (s.mat tile).holder with | some q => e.ctx % 4 == q | none => true)) = some e →
    e.entry ≤ s.cyc → (e.cont = true → (s.mat tile).res ≠ none ∨ (s.mat tile).runs ≠ []) →
    (∀ sl ∈ (s.mat tile).used e, sl ∈ (s.mat tile).ungated) → (s.mat tile).startCycle e s.cyc = some s0 →
    Does (.meStepStart tile) s (fun t => (t.mat tile).queue = (s.mat tile).queue.erase e ∧ (t.mat tile).rr = e.ctx % 4 ∧
      (∃ r : MeRun, (t.mat tile).runs = (s.mat tile).runs ++ [r] ∧ r.st = e ∧ r.s0 = s0 ∧ r.wave = 0 ∧ r.nw = (s.mat tile).serve.length) ∧
      (∀ lo n, t.inForce tile rMECFG lo n = s.cfg rMECFG lo n) ∧ SameRegs s t ∧ Keeps [.regs, .me] s t)) ∧
  (∀ (s : State) (tile : Fin 16) (r : MeRun) (front : List MeRun), (s.mat tile).runs = front ++ [r] → r.wave < r.waves → r.start ≤ s.cyc →
    (s.mat tile).held s.cyc = false → (∀ q ∈ (s.mat tile).runs, q.active = false) → (s.mat tile).swapPos = none →
    Does (.meWaveStart tile) s (fun t =>
      (∃ q : MeRun, (t.mat tile).runs = front ++ [q] ∧ q.st = r.st ∧ q.wave = r.wave + 1 ∧ q.start = s.cyc + max r.st.kc (r.pw r.wave) ∧
        q.lastStart = s.cyc ∧ q.active = true ∧ q.op = 0 ∧ q.waiting = r.waiting) ∧
      (t.mat tile).res = (s.mat tile).res ∧ Keeps [.me] s t)) ∧
  (∀ (s : State) (tile : Fin 16) (r : MeRun) (i : Nat), (s.mat tile).held s.cyc = false →
    (s.mat tile).runs.find? (fun q => q.active) = some r → (s.mat tile).runs[i]? = some r →
    (grantWords [] (if r.todo = [] then r.words (s.mat tile).chained tile else r.todo)).2 ≠ [] →
    ((s.meCycle tile).1.mat tile).conflict = satNat 32 ((s.mat tile).conflict + 1) ∧
      ∃ q, ((s.meCycle tile).1.mat tile).runs[i]? = some q ∧ q.op = r.op ∧ q.got = r.got ∧ q.start = r.start + 1 ∧ q.lastStart = r.lastStart + 1) ∧
  (∀ (s : State) (tile : Fin 16) (r : MeRun) (rest : List MeRun) (n : Nat) (p : Panel) (more : List (Nat × Panel)),
    (s.mat tile).runs = r :: rest → r.waiting = (n, p) :: more → n ≤ s.cyc → r.due ≤ s.cyc →
    (Tab.get (fun _ => []) (s.mat tile).fpq p.ctx).length < 16 →
    Does (.fpqPanelEntry tile) s (fun t =>
      Tab.get (fun _ => []) (t.mat tile).fpq p.ctx = Tab.get (fun _ => []) (s.mat tile).fpq p.ctx ++ [p] ∧
      (p.last = false → ∃ q : MeRun, (t.mat tile).runs = q :: rest ∧ q.st = r.st ∧ q.waiting.map Prod.snd = more.map Prod.snd) ∧
      (p.last = true → (t.mat tile).runs = rest ∧
        (t.ctx r.st.ctx).outst = (s.ctx r.st.ctx).outst.erase (stepKey 1 0 r.st.step) ∧
        (∀ k, (t.ctx r.st.ctx).tally k = (s.ctx r.st.ctx).tally k + (if r.st.tadv = some k then 1 else 0)) ∧
        (∀ lo n, t.inForce tile rMECFG lo n = s.cfg rMECFG lo n) ∧
        ((r.poison || p.poison) = true → (t.ctx r.st.ctx).poison = true)) ∧ SameRegs s t ∧ SameBanks s t)) ∧
  (∀ (s : State) (tile : Fin 16) (r : MeRun) (rest : List MeRun), (s.mat tile).runs = r :: rest → r.st.keep = true → r.wave = r.waves →
    r.active = false → r.lastStart + r.st.kc + 260 ≤ s.cyc →
    Does (.mmulKeepCompletion tile) s (fun t => (t.mat tile).runs = rest ∧ (t.mat tile).res = (s.mat tile).res ∧
      (t.ctx r.st.ctx).outst = (s.ctx r.st.ctx).outst.erase (stepKey 1 0 r.st.step) ∧
      (∀ k, (t.ctx r.st.ctx).tally k = (s.ctx r.st.ctx).tally k + (if r.st.tadv = some k then 1 else 0)) ∧
      (∀ lo n, t.inForce tile rMECFG lo n = s.cfg rMECFG lo n) ∧ SameRegs s t ∧ SameBanks s t))

/-- Slices of the matrix engine (08 R326, R328, R332 to R336; 17 R657): KEEPMAX discards the holder's roods; a mismatch is counted,
poisons its position's panels of the wave that runs or drains, and the free slice is to take the position over; a tested slice becomes free or is
retired; a swap is due in turn; an idle slice gates and an admitted one ungates. -/
def Obligations.SliceCommandsComplete : Prop :=
  (∀ (s : State) (tile : Fin 16) (r : Resident), (s.mat tile).res = some r → (s.mat tile).runs = [] →
    (∃ e ∈ (s.mat tile).queue, e.op = 0 ∧ e.ctx % 4 ≠ r.ctx) →
    Does (.keepmaxExpiry tile) s (fun t => (t.mat tile).res = none ∧ r.ctx ∈ (t.mat tile).dropped ∧ Keeps [.me] s t)) ∧
  (∀ (s : State) (tile : Fin 16) (pos : Fin 20) (r : MeRun), (s.mat tile).runs.find? (fun q => q.active) = some r → 0 < r.wave →
    pos.val < (s.mat tile).serve.length → (∃ x ∈ r.roods (r.wave - 1), x.1 = pos.val) → (s.mat tile).free ≠ none →
    Does (.peMismatch tile pos) s (fun t => (t.mat tile).swapPos = some pos.val ∧ (t.mat tile).serve = (s.mat tile).serve ∧
      (t.mat tile).faults = satNat 8 ((s.mat tile).faults + 1) ∧
      (∀ q ∈ (t.mat tile).runs, q.active = true → pos.val ∈ q.hit) ∧ SameBanks s t)) ∧
  (∀ (s : State) (tile : Fin 16) (pos : Fin 20) (r : MeRun) (front : List MeRun), (s.mat tile).runs = front ++ [r] → 0 < r.wave →
    (∀ q ∈ (s.mat tile).runs, q.active = false) → pos.val < (s.mat tile).serve.length → (∃ x ∈ r.roods (r.wave - 1), x.1 = pos.val) → (s.mat tile).free ≠ none →
    Does (.peMismatch tile pos) s (fun t => (t.mat tile).swapPos = some pos.val ∧ (t.mat tile).serve = (s.mat tile).serve ∧
      (t.mat tile).faults = satNat 8 ((s.mat tile).faults + 1) ∧
      (∃ q : MeRun, (t.mat tile).runs = front ++ [q] ∧ q.waiting.length = r.waiting.length ∧
        ((r.waiting.filter (fun w => w.2.lastw)).length ≤ 1 → ∀ w ∈ q.waiting, w.2.pos = pos.val → w.2.poison = true)) ∧ SameBanks s t)) ∧
  (∀ (s : State) (tile : Fin 16) (sl : Nat), (s.mat tile).testing = some sl → s.worn tile (s.mat tile) sl = false →
    sl ∉ (s.mat tile).serve → (s.mat tile).free = none →
    Does (.sliceTestDone tile true) s (fun t => (t.mat tile).testing = none ∧ (t.mat tile).free = some sl ∧
      (t.mat tile).serve = (s.mat tile).serve ∧ Keeps [.me] s t)) ∧
  (∀ (s : State) (tile : Fin 16) (sl : Nat), (s.mat tile).testing = some sl →
    Does (.sliceTestDone tile false) s (fun t => (t.mat tile).testing = none ∧ sl ∈ (t.mat tile).retired ∧ SameBanks s t)) ∧
  (∀ (s : State) (tile : Fin 16), s.inForce tile rMECFG 8 8 ≠ 0 → (s.mat tile).free ≠ none → (s.mat tile).testing = none →
    (s.mat tile).swapPos = none → (s.mat tile).serve ≠ [] →
    Does (.sliceSwapTest tile) s (fun t => (t.mat tile).swapPos = some (s.mat tile).nextSwap ∧
      (t.mat tile).nextSwap = ((s.mat tile).nextSwap + 1) % (s.mat tile).serve.length ∧ Keeps [.me] s t)) ∧
  (∀ (s : State) (tile : Fin 16) (slice : Fin 21), slice.val ∈ (s.mat tile).ungated → s.inForce tile rMECFG 0 8 ≠ 0 → (s.mat tile).runs = [] →
    (s.mat tile).res = none → Tab.get (fun _ => 0) (s.mat tile).usedAt slice + s.inForce tile rMECFG 0 8 * 1024 ≤ s.cyc →
    Does (.sliceGate tile slice) s (fun t => (t.mat tile).ungated = (s.mat tile).ungated.erase slice.val ∧ Keeps [.me] s t)) ∧
  (∀ (s : State) (tile : Fin 16) (slice : Fin 21), (2, slice.val) ∈ (s.hub tile).admitted →
    Does (.sliceUngate tile slice) s (fun t => slice.val ∈ (t.mat tile).ungated ∧
      (t.hub tile).admitted = (s.hub tile).admitted.erase (2, slice.val) ∧ SameBanks s t))

/-- The near-bank sequencer (06 R239 to R243, R252 to R257, R263 to R265; 11 R451, R453, R462, R464): an NBPASS enters its context's share; a
pass begins on a channel in near-bank mode that nobody holds, or asks for the mode, and halts its context where the slot has left its tile;
a yield point counts, and the channel leaves or goes on, a map flip due on it alone then taking effect; an abandoned pass releases its lock; a drained buffer's lanes go to their step; a step whose drains are all
made completes. -/
def Obligations.NearBankStepsComplete : Prop :=
  (∀ (s : State) (c : Fin 64) (w : Nat), StepReady s c 4 0 w →
    Does (.nbpass c) s (fun t => (∃ e : NbStep, (t.ctx c).nbq = (s.ctx c).nbq ++ [e] ∧ e.ctx = c.val ∧ e.step = (s.ctx c).next ∧
        e.cargo = s.cargoIndex c w ∧ e.gbase = body w 88 16 ∧ e.gcnt = s.sizeOf c w (body w 104 16) ∧ e.clr = flag w 187) ∧
      (t.ctx c).outst = (s.ctx c).outst ++ [stepKey 4 0 (s.ctx c).next] ∧ IssuedNext c w s t ∧ XSame c (fun _ => False) s t ∧ SameBanks s t)) ∧
  (∀ (s : State) (ch : Fin 1536) (c : Fin 64) (entry : BitVec 16) (round : Fin 8) (cell span : BitVec 16) (r : NbRun) (e : Nat × Nat)
      (id : PassId), id = { entry := entry.toNat, round := round, cell := cell.toNat, span := span.toNat } →
    (s.ctx c).nbrun = some r → r.entries.find? (fun e => e.1 == entry.toNat) = some e → 8 * round.val < r.st.b →
    span.toNat < (s.passPlan ch r.st e.2 id).spans → (s.ctx c).live = true → (s.passPlan ch r.st e.2 id).stale = none →
    (s.passPlan ch r.st e.2 id).members ≠ [] →
    r.inOrder ch id (fun ro => ceilDiv (s.cargo c r.st.cargo).blocks (128 / pitchOf (min 8 (r.st.b - 8 * ro)))) = true →
    (s.chan ch).mode = .nearBank → (s.chan ch).pass = none → (s.chan ch).lock = none → (s.chan ch).yield = false →
    (s.chan ch).nbHold = false → (span.toNat ≠ 0 ∨ (s.chan ch).needAcl = []) →
    Does (.nbPass ch c entry round cell span) s (fun t => (t.chan ch).lock = some c.val ∧ (t.chan ch).owner = some c.val ∧
      (∃ p : Pass, (t.chan ch).pass = some p ∧ p.ctx = c.val ∧ p.step = r.st.step ∧ p.rowsDone = 0 ∧ p.abandon = false ∧
        p.banks.map Prod.fst = (s.passPlan ch r.st e.2 id).members.map Member.bank) ∧
      (∃ q, (t.ctx c).nbrun = some q ∧ (ch.val, entry.toNat, round.val, cell.toNat, span.toNat) ∈ q.begun) ∧ SameBanks s t)) ∧
  (∀ (s : State) (ch : Fin 1536) (c : Fin 64) (entry : BitVec 16) (round : Fin 8) (cell span : BitVec 16) (r : NbRun) (e : Nat × Nat)
      (id : PassId), id = { entry := entry.toNat, round := round, cell := cell.toNat, span := span.toNat } →
    (s.ctx c).nbrun = some r → r.entries.find? (fun e => e.1 == entry.toNat) = some e → 8 * round.val < r.st.b →
    span.toNat < (s.passPlan ch r.st e.2 id).spans → (s.ctx c).live = true → (s.passPlan ch r.st e.2 id).stale = none →
    (s.passPlan ch r.st e.2 id).members ≠ [] →
    r.inOrder ch id (fun ro => ceilDiv (s.cargo c r.st.cargo).blocks (128 / pitchOf (min 8 (r.st.b - 8 * ro)))) = true →
    (s.chan ch).mode ≠ .nearBank →
    Does (.nbPass ch c entry round cell span) s (fun t => (∃ w ∈ (t.chan ch).waitNbs, w.1 = 8 + c.val % 4) ∧
      (t.chan ch).mode = (s.chan ch).mode ∧ (t.chan ch).pass = (s.chan ch).pass ∧ Keeps [.chans, .hubs] s t)) ∧
  (∀ (s : State) (ch : Fin 1536) (c : Fin 64) (entry : BitVec 16) (round : Fin 8) (cell span : BitVec 16) (r : NbRun) (e : Nat × Nat)
      (id : PassId) (x : Nat × Nat), id = { entry := entry.toNat, round := round, cell := cell.toNat, span := span.toNat } →
    (s.ctx c).nbrun = some r → r.entries.find? (fun e => e.1 == entry.toNat) = some e → 8 * round.val < r.st.b →
    span.toNat < (s.passPlan ch r.st e.2 id).spans → (s.ctx c).live = true → (s.passPlan ch r.st e.2 id).stale = some x →
    Does (.nbPass ch c entry round cell span) s (fun t => (t.ctx c).st = .halted ∧ (t.ctx c).reason = 0x29 ∧ SameBanks s t)) ∧
  (∀ (s : State) (ch : Fin 1536) (p : Pass) (f q : Nat), (s.chan ch).mode = .nearBank → (s.chan ch).yield = false →
    (s.chan ch).pass = some p → p.yieldDue = true → s.computing ch = false →
    (s.leavesAtYield ch = true ∨ (s.stack (ch.val / 16)).half = false) → (s.chan ch).flips = [f] →
    Tab.wf (fun _ => ({} : Channel)) s.chans = true → (∀ k, k ≠ ch.val → f ∉ (s.chan k).flips) → (s.slot f).moveTo = some q →
    Does (.yieldPoint ch) s (fun t => (t.slot f).phys = q ∧ (t.slot f).moveTo = none ∧ (t.slot f).flipping = false)) ∧
  (∀ (s : State) (ch : Fin 1536) (p : Pass), (s.chan ch).mode = .nearBank → (s.chan ch).yield = false → (s.chan ch).pass = some p →
    p.yieldDue = true → s.computing ch = false → (s.leavesAtYield ch = true ∨ (s.stack (ch.val / 16)).half = false) →
    (s.chan ch).flips = [] →
    Does (.yieldPoint ch) s (fun t => (t.chan ch).yields = ((s.chan ch).yields + 1) % 65536 ∧ (t.chan ch).yield = s.leavesAtYield ch ∧
      (t.chan ch).mode = .nearBank ∧ (∃ q, (t.chan ch).pass = some q ∧ q.yielded = true ∧ q.rowsDone = p.rowsDone ∧
        q.interval = max 1 (s.cfg rNBCFG 0 4)) ∧ (∀ lo n, t.inForce ch rNBCFG lo n = s.cfg rNBCFG lo n) ∧ SameRegs s t ∧ SameBanks s t)) ∧
  (∀ (s : State) (ch : Fin 1536) (p : Pass), (s.chan ch).pass = some p → p.abandon = true →
    ((s.chan ch).mode ≠ .nearBank ∨ (s.chan ch).yield = true ∨ p.rowsDone = 0 ∨ p.rows ≤ p.rowsDone ∨ p.yieldDue = true) →
    (s.chan ch).flips = [] →
    Does (.passAbandon ch) s (fun t => (t.chan ch).pass = none ∧ (t.chan ch).lock = none ∧ (t.chan ch).mode ≠ .nearBank ∧
      t.nbus = s.nbus ∧ SameBanks s t)) ∧
  (∀ (s : State) (ch : Fin 1536) (buf : Fin 16) (d : DrainKey) (r : NbRun), (s.cru (ch.val * 16 + buf.val)).busy = true →
    (s.cru (ch.val * 16 + buf.val)).lastAt + 4 ≤ s.cyc → (s.cru (ch.val * 16 + buf.val)).dst = some d →
    s.drainOpen ch (some d) = false → (s.ctx d.ctx).nbrun = some r →
    Does (.cruDrain ch buf) s (fun t => t.cru (ch.val * 16 + buf.val) = {} ∧
      (∃ q : NbRun, ∃ x : DrainRes, (t.ctx d.ctx).nbrun = some q ∧ q.drains = r.drains ++ [x] ∧ x.key = d ∧
        (∀ l < 64, x.lanes.getD l 0 = ((Tab.get (fun _ => {}) (s.cru (ch.val * 16 + buf.val)).lanes l).drain (s.cru (ch.val * 16 + buf.val)).int).1) ∧
        ((s.cru (ch.val * 16 + buf.val)).pois = true → x.poison = true)) ∧ Keeps [.crus, .ctxs] s t)) ∧
  (∀ (s : State) (c : Fin 64) (r : NbRun), (s.ctx c).nbrun = some r → (s.ctx c).live = true →
    (s.nbNeeds r).all (fun k => r.drains.any (fun d => d.key == k)) = true → r.st.ctx = c.val →
    Does (.nbpassComplete c) s (fun t => (t.ctx c).nbrun = none ∧
      (t.ctx c).outst = (s.ctx c).outst.erase (stepKey 4 0 r.st.step) ∧
      (∀ k, (t.ctx c).tally k = (s.ctx c).tally k + (if r.st.tadv = some k then 1 else 0)) ∧
      (r.poison = true → (t.ctx c).poison = true) ∧ (s.nbNeeds r = [] → t.sp = s.sp) ∧ SameBanks s t))

/-- The recompute unit (05 R196 to R200; 06 R261): it takes the bank's pass that has waited longest; a rebuild whose rows all pass their
checks gives its groups' values to their sum buffers and keeps those of groups not cleared since, counted as corrected; one that meets a
poisoned line or a wrong tag poisons the buffers, counted as uncorrectable; a rebuild waits while a buffer holds the sum of another drain. -/
def Obligations.RecomputeComplete : Prop :=
  (∀ (s : State) (tile : Fin 16) (r : Rebuild) (rest : List Rebuild), (s.hub tile).rebuilds = r :: rest → r.started = false →
    Does (.recomputeRebuild tile) s (fun t => (t.hub tile).rebuilds = { r with started := true } :: rest ∧ Keeps [.hubs] s t)) ∧
  (∀ (s : State) (tile : Fin 16) (r : Rebuild) (rest : List Rebuild) (b : Nat), (s.hub tile).rebuilds = r :: rest → r.started = true →
    b = bankOf r.chan r.bank →
    (∀ g ∈ r.groups, (s.cru (r.chan * 16 + g.buf)).busy = false ∨ (s.cru (r.chan * 16 + g.buf)).dst = g.dst) →
    (∀ g ∈ r.groups, ∀ p ∈ g.passes, ∀ rk ∈ p.rowKeys b, ∀ c ∈ p.columns b rk, s.columnAsks rk c = false) →
    (∃ g ∈ r.groups, ∃ p ∈ g.passes, s.passClean b p = false) →
    Does (.recomputeDone tile) s (fun t => (t.hub tile).rebuilds = rest ∧
      (∀ g ∈ r.groups, (t.cru (r.chan * 16 + g.buf)).pois = true ∧ (t.cru (r.chan * 16 + g.buf)).busy = true) ∧
      t.logs.unccnt = satNat 32 (s.logs.unccnt + 1) ∧ SameBanks s t)) ∧
  (∀ (s : State) (tile : Fin 16) (r : Rebuild) (rest : List Rebuild) (b : Nat), (s.hub tile).rebuilds = r :: rest → r.started = true →
    b = bankOf r.chan r.bank → (r.groups.map RebuildGroup.group).Nodup → (∀ g ∈ r.groups, g.group < 8) →
    (∀ g ∈ r.groups, (s.cru (r.chan * 16 + g.buf)).busy = false ∨ (s.cru (r.chan * 16 + g.buf)).dst = g.dst) →
    (∀ g ∈ r.groups, ∀ p ∈ g.passes, ∀ rk ∈ p.rowKeys b, ∀ c ∈ p.columns b rk, s.columnAsks rk c = false) →
    (∀ g ∈ r.groups, ∀ p ∈ g.passes, s.passClean b p = true) →
    Does (.recomputeDone tile) s (fun t => (t.hub tile).rebuilds = rest ∧
      (∀ g ∈ r.groups, (t.cru (r.chan * 16 + g.buf)).busy = true ∧
        (g.cleared = false → Tab.get (fun _ => []) (t.hub tile).rebuilt (b * 8 + g.group) = s.rebuiltValue b g)) ∧
      t.logs.corrcnt = satNat 32 (s.logs.corrcnt + 1) ∧ SameBanks s t)) ∧
  (∀ (s : State) (tile : Fin 16) (r : Rebuild) (rest : List Rebuild), (s.hub tile).rebuilds = r :: rest → r.started = true →
    (∃ g ∈ r.groups, (s.cru (r.chan * 16 + g.buf)).busy = true ∧ (s.cru (r.chan * 16 + g.buf)).dst ≠ g.dst) →
    exec (.recomputeDone tile) s = .next s)

/-- The vector engine (09 R347, R365, R369, R371 to R373, R377, R378; 11 R451): a VCHAIN enters the vector queue; a step starts with its first
entry cycle fixed; a panel is taken from the finished-panel queue, from the scratchpad or from nowhere, and enters the chain; a
step that finds the queue empty with no matrix work coming halts with 0x19; a word that its bank refuses holds the steps for the cycle and
counts as a conflict (R376; 10 R387); a step that has ended completes. -/
def Obligations.VectorStepsComplete : Prop :=
  (∀ (s : State) (tile : Fin 16) (taken : List Nat) (i : Nat) (r : VeRun), (s.vec tile).runs[i]? = some r → (s.vec tile).words ≠ [] →
    (grantWords taken (s.vec tile).words).2 ≠ [] →
    ((s.veCycle tile taken).1.vec tile).conflict = satNat 32 ((s.vec tile).conflict + 1) ∧
      ∃ q, ((s.veCycle tile taken).1.vec tile).runs[i]? = some q ∧ q.st = r.st ∧ q.panel = r.panel ∧
        (s.cyc < r.nextEntry → q.nextEntry = r.nextEntry + 1)) ∧
  (∀ (s : State) (c : Fin 64) (w : Nat), StepReady s c 2 0 w →
    Does (.vchain c) s (fun t => (∃ e : VeStep, (t.vec (tileOfCtx c)).queue = (s.vec (tileOfCtx c)).queue ++ [e] ∧ e.ctx = c.val ∧
        e.step = (s.ctx c).next ∧ e.src = body w 16 2 ∧ e.stages = (s.chain c (body w 0 12)).1.take (body w 12 4)) ∧
      (t.ctx c).outst = (s.ctx c).outst ++ [stepKey 2 0 (s.ctx c).next] ∧ IssuedNext c w s t ∧ XSame c (fun _ => False) s t ∧ SameBanks s t)) ∧
  (∀ (s : State) (tile : Fin 16) (e : VeStep) (more : List VeStep) (f : Nat), (s.vec tile).heads = e :: more →
    (s.hub tile).engines.contains 1 = true → e.entry ≤ s.cyc → (s.vec tile).startCycle e s.cyc = some f →
    Does (.veStepStart tile) s (fun t => (t.vec tile).queue = (s.vec tile).queue.erase e ∧ (t.vec tile).rr = e.ctx % 4 ∧
      (∃ r : VeRun, (t.vec tile).runs = (s.vec tile).runs ++ [r] ∧ r.st = e ∧ r.f = f ∧ r.nextEntry = f ∧ r.panel = 0) ∧ Keeps [.ve] s t)) ∧
  (∀ (s u : State) (tile : Fin 16) (r : VeRun) (front : List VeRun) (i : Intake), u = s.veAdvance tile → (u.vec tile).runs = front ++ [r] →
    r.panel < r.st.panels → r.nextEntry ≤ u.cyc → u.intake tile r = some i →
    Does (.vePanelEntry tile) s (fun t => (∃ q : VeRun, ∃ f : Flight, (t.vec tile).runs = front ++ [q] ∧ q.st = r.st ∧
        q.panel = r.panel + 1 ∧ q.lastEntry = u.cyc ∧ q.flights = r.flights ++ [f] ∧ f.row = i.row ∧ f.col = i.col ∧
        f.ld0 = i.ld0.vals ∧ f.ld0p = i.ld0.pois ∧ f.entry = u.cyc) ∧
      (r.st.src = 1 → Tab.get (fun _ => []) (t.mat tile).fpq (r.st.ctx % 4) =
        (Tab.get (fun _ => []) (u.mat tile).fpq (r.st.ctx % 4)).drop 1) ∧
      (r.st.src ≠ 1 → t.me = u.me) ∧ SameBanks s t)) ∧
  (∀ (s u : State) (tile : Fin 16) (r : VeRun) (front : List VeRun), u = s.veAdvance tile → (u.vec tile).runs = front ++ [r] →
    r.panel < r.st.panels → r.nextEntry ≤ u.cyc → r.st.src = 1 → Tab.get (fun _ => []) (u.mat tile).fpq (r.st.ctx % 4) = [] →
    (u.mat tile).hasWork r.st.ctx = false → (u.ctx r.st.ctx).st = .running →
    Does (.vePanelEntry tile) s (fun t => (t.ctx r.st.ctx).st = .halted ∧ (t.ctx r.st.ctx).reason = 0x19)) ∧
  (∀ (s u : State) (tile : Fin 16) (r : VeRun), u = s.veAdvance tile → (u.vec tile).runs.find? (fun r => r.ended u.cyc) = some r →
    Does (.veStepComplete tile) s (fun t => (t.vec tile).runs = (u.vec tile).runs.erase r ∧
      (t.ctx r.st.ctx).outst = (u.ctx r.st.ctx).outst.erase (stepKey 2 0 r.st.step) ∧
      (∀ k, (t.ctx r.st.ctx).tally k = (u.ctx r.st.ctx).tally k + (if r.st.tadv = some k then 1 else 0)) ∧
      (r.poison = true → (t.ctx r.st.ctx).poison = true) ∧
      (r.st.stmode = 2 → t.spRead tile r.st.count 4 = leBytes 4 r.appended) ∧ (r.st.stmode ≠ 2 → t.sp = u.sp) ∧ SameBanks s t))

/-- Translation (12 R480, R485, R487, R493, R494, R500, R503, R504): the translator takes the next load, with the fault its checks find or the native
steps of the translation, which must order its dependences, and held loads follow while there is room; at the end the handle is ready, or is as it was before, and the load is counted. -/
def Obligations.TranslationComplete : Prop :=
  (∀ (s : State) (tile : Fin 16) (image : List (BitVec 8)) (ok : Bool) (native : Option (List (BitVec 256))) (map : List (BitVec 32))
      (j j1 : LoadJob) (rest : List LoadJob) (src : List (BitVec 8) × Bool) (f : TFail), (s.tran tile).run = none →
    (s.tran tile).queue = j :: rest → src = (if j.sa then s.readBytes j.src j.len else (image, !ok)) →
    j1 = { j with image := src.1, bad := src.2, at_ := s.cyc } → s.loadFault j1 native = some f →
    (f = { tstat := 8 } → native = none → s.orderingOk j1 native (map.map BitVec.toNat) = true) →
    Does (.translate tile image ok native map) s (fun t => ∃ u : State, (∃ q : LoadJob, (u.tran tile).run = some q ∧ q.status = f.tstat ∧
        q.handle = j.handle ∧ q.part = j.part ∧ q.image = src.1) ∧ (u.tran tile).queue = rest ∧
      (u.tran tile).heldLoads = (s.tran tile).heldLoads ∧ Keeps [.trans] s u ∧ t = u.releaseLoads tile)) ∧
  (∀ (s : State) (tile : Fin 16) (image : List (BitVec 8)) (ok : Bool) (native : List (BitVec 256)) (map : List (BitVec 32))
      (j j1 : LoadJob) (rest : List LoadJob) (src : List (BitVec 8) × Bool), (s.tran tile).run = none →
    (s.tran tile).queue = j :: rest → src = (if j.sa then s.readBytes j.src j.len else (image, !ok)) →
    j1 = { j with image := src.1, bad := src.2, at_ := s.cyc } → s.loadFault j1 (some native) = none →
    s.orderingOk j1 (some native) (map.map BitVec.toNat) = true →
    Does (.translate tile image ok (some native) map) s (fun t => ∃ u : State, (∃ q : LoadJob, (u.tran tile).run = some q ∧
        q.status = j.status ∧ q.native = native ∧ q.nmap = map.map BitVec.toNat ∧ q.handle = j.handle ∧ q.part = j.part) ∧
      (u.tran tile).queue = rest ∧ (u.tran tile).heldLoads = (s.tran tile).heldLoads ∧ Keeps [.trans] s u ∧ t = u.releaseLoads tile)) ∧
  (∀ (s : State) (tile : Fin 16) (x : LoadJob), (s.tran tile).heldLoads = [x] → (s.tran tile).queue.length < 16 → s.fw.st ≠ 2 →
    s.loadRefusal x = none → ((s.releaseLoads tile).tran tile).queue = (s.tran tile).queue ++ [x] ∧
      ((s.releaseLoads tile).tran tile).heldLoads = [] ∧ (((s.releaseLoads tile).part x.part).handle x.handle).st = .translating) ∧
  (∀ (s : State) (tile : Fin 16) (j : LoadJob), (s.tran tile).run = some j → j.status = 0 →
    BitVec.ofNat 64 (s.tileTag (pheader j.image).tile) = j.tag0 →
    Does (.translationEnd tile) s (fun t => (t.tran tile).run = none ∧ (t.tran tile).done = satNat 32 ((s.tran tile).done + 1) ∧
      (t.tran tile).failed = (s.tran tile).failed ∧ ((t.part j.part).handle j.handle).st = .ready ∧
      ((t.part j.part).handle j.handle).slot = j.place / slotBytes ∧ ((t.part j.part).handle j.handle).off = j.place % slotBytes)) ∧
  (∀ (s : State) (tile : Fin 16) (j : LoadJob), (s.tran tile).run = some j → j.status ≠ 0 →
    Does (.translationEnd tile) s (fun t => (t.tran tile).run = none ∧ (t.tran tile).failed = satNat 14 ((s.tran tile).failed + 1) ∧
      (t.tran tile).done = (s.tran tile).done ∧
      (((s.part j.part).handle j.handle).old = true → ((t.part j.part).handle j.handle).st = .ready) ∧
      (((s.part j.part).handle j.handle).old = false → (t.part j.part).handle j.handle = {}) ∧ SameBanks s t))

/-- Global operations (16 R626 to R631; 11 R449, R450, R453): a global step issued joins the instance of its group that the context's count
names, which begins with it where it is the first; it completes when the instance's condition holds, DST of a broadcast or
reduction written with the result; an instance overdue by XLCFG.GTMO halts the contexts that issued it; a GOP message gives its
sender's partial, or the result, to the instance it agrees with, halts the participants where it reports a failure, and is answered with
STATUS 1 where the entry differs. -/
def Obligations.GlobalOperationsComplete : Prop :=
  (∀ (s : State) (c : Fin 64) (w : Nat) (q : GStep), GlobalNext s c 0 w q → GlobalFits s c q →
    Does (.gbar c) s (GlobalJoined c 0 w q s)) ∧
  (∀ (s : State) (c : Fin 64) (w : Nat) (q : GStep), GlobalNext s c 1 w q → GlobalFits s c q →
    Does (.gbcast c) s (GlobalJoined c 1 w q s)) ∧
  (∀ (s : State) (c : Fin 64) (w : Nat) (q : GStep), GlobalNext s c 2 w q → GlobalFits s c q →
    Does (.gred c) s (GlobalJoined c 2 w q s)) ∧
  (∀ (s : State) (c : Fin 64) (w : Nat) (q : GStep), GlobalNext s c 3 w q → GlobalFits s c q →
    Does (.gsnap c) s (GlobalJoined c 3 w q s)) ∧
  (∀ (s : State) (c : Fin 64) (w op : Nat) (cmd : Instr) (q : GStep),
    (cmd, op) ∈ [(Instr.gbar c, 0), (Instr.gbcast c, 1), (Instr.gred c, 2), (Instr.gsnap c, 3)] → GlobalNext s c op w q →
    ¬ GlobalFits s c q →
    Does cmd s (fun t => (t.ctx c).st = .halted ∧ (t.ctx c).reason = 0x30 ∧ (t.ctx c).hstep = (s.ctx c).next ∧ SameBanks s t)) ∧
  (∀ (s s0 : State) (c : Fin 64) (q : GStep) (i : Inst) (r : Strip), (s.ctx c).gq = some q → s0 = s.advanceInst q.group q.inst →
    s0.inst q.group q.inst = some i → i.sent = true → i.result = some r →
    Does (.globalOpComplete c) s (fun t => (t.ctx c).gq = none ∧ (t.ctx c).outst = (s.ctx c).outst.erase (stepKey 5 q.op q.step) ∧
      (∀ k, (t.ctx c).tally k = (s.ctx c).tally k + (if q.tadv = some k then 1 else 0)) ∧
      (i.sat = true → (t.ctx c).sat = true) ∧ (r.any (fun b => b.2) = true → (t.ctx c).poison = true) ∧
      (∀ o, q.dst = some o → q.op = 1 ∨ q.op = 2 → t.sp = (s0.unpackOperand (tileOfCtx c) o r).sp) ∧
      (q.dst = none ∨ (q.op ≠ 1 ∧ q.op ≠ 2) → t.sp = s.sp) ∧ SameBanks s t)) ∧
  (∀ (s : State) (g : Fin 64) (i : Inst),
    (s.group g).insts.find? (fun i => i.ctxs != [] && decide (i.firstAt + s.cfg rXLCFG 20 8 * 1600000 ≤ s.cyc)) = some i →
    i.ctxs.length ≤ 64 →
    Does (.globalTimeout g) s (fun t => (∀ j ∈ (t.group g).insts, j.k ≠ i.k) ∧ (t.group g).failed.contains i.k = true ∧
      (∀ c ∈ i.ctxs, c ∉ i.done → (s.ctx c).st = .running → (t.ctx c).st = .halted ∧ (t.ctx c).reason = 0x30) ∧ SameBanks s t)) ∧
  (∀ (s : State) (land : Fin 16) (hdr : BitVec 128) (g : Fin 64) (inst : BitVec 32) (op rtype : Fin 4) (scope result sat : Bool)
      (bytes : BitVec 21) (mods : BitVec 64) (gkey : BitVec 16) (root : BitVec 6) (data : List (BitVec 8)) (pois : List Bool) (i : Inst),
    (s.landing land).up = true → field hdr.toNat 0 4 = 7 → field hdr.toNat 8 6 = s.boot.modid → field hdr.toNat 101 4 = 0 →
    (s.group g).valid = true → (s.group g).mods = mods → (s.group g).gkey = gkey.toNat → (s.group g).root = root.toNat →
    (s.group g).failed.contains inst.toNat = false → s.inst g inst.toNat = some i → i.op = op.val → i.scope = scope →
    i.rtype = rtype.val → i.bytes = bytes.toNat →
    Does (.gop land hdr g inst op scope rtype bytes mods gkey root result sat data pois) s (fun t => (∃ j, t.inst g inst.toNat = some j ∧
        (sat = true → j.sat = true) ∧
        (result = false → (∀ p ∈ i.parts, p.1 ≠ field hdr.toNat 14 6) →
          (field hdr.toNat 14 6, (data.take bytes.toNat).zipIdx.map (fun p => (p.1, pois.getD (p.2 / 64) false))) ∈ j.parts) ∧
        (result = true → i.result = none →
          j.result = some ((data.take bytes.toNat).zipIdx.map (fun p => (p.1, pois.getD (p.2 / 64) false))))) ∧
      Keeps [.out, .lands, .pm, .groups, .act] s t)) ∧
  (∀ (s : State) (land : Fin 16) (hdr : BitVec 128) (g : Fin 64) (inst : BitVec 32) (op rtype : Fin 4) (scope result sat : Bool)
      (bytes : BitVec 21) (mods : BitVec 64) (gkey : BitVec 16) (root : BitVec 6) (data : List (BitVec 8)) (pois : List Bool) (i : Inst),
    (s.landing land).up = true → field hdr.toNat 0 4 = 7 → field hdr.toNat 8 6 = s.boot.modid → field hdr.toNat 101 4 ≠ 0 →
    (s.group g).failed.contains inst.toNat = false → s.inst g inst.toNat = some i →
    Does (.gop land hdr g inst op scope rtype bytes mods gkey root result sat data pois) s (fun t =>
      (t.group g).failed.contains inst.toNat = true ∧
      (∀ c ∈ (s.group g).locals, (s.ctx c).st = .running → (t.ctx c).st = .halted ∧ (t.ctx c).reason = 0x30) ∧ SameBanks s t)) ∧
  (∀ (s : State) (land : Fin 16) (hdr : BitVec 128) (g : Fin 64) (inst : BitVec 32) (op rtype : Fin 4) (scope result sat : Bool)
      (bytes : BitVec 21) (mods : BitVec 64) (gkey : BitVec 16) (root : BitVec 6) (data : List (BitVec 8)) (pois : List Bool),
    (s.landing land).up = true → field hdr.toNat 0 4 = 7 → field hdr.toNat 8 6 = s.boot.modid → field hdr.toNat 101 4 = 0 →
    ((s.group g).valid = false ∨ (s.group g).mods ≠ mods ∨ (s.group g).gkey ≠ gkey.toNat ∨ (s.group g).root ≠ root.toNat) →
    Does (.gop land hdr g inst op scope rtype bytes mods gkey root result sat data pois) s (fun t => t = (s.freeRx land hdr
      (64 * field hdr.toNat 4 3)).sendPart g { k := inst.toNat, op := op.val, scope := scope, rtype := rtype.val, bytes := bytes.toNat } (field hdr.toNat 14 6) 1 false []))

/-- Remote access (16 R607, R613 to R615, R618, R620 to R624; 14 R551): a message given to a landing leaves at once where its neighbour has buffers
for it and the replay buffer room, and waits otherwise; a request admitted is served and answered, a read waiting while a channel grants the
landings nothing, one that no entry of the admission table lets in is answered with STATUS 1; a message for another module goes on along its
route with HOPS advanced, or at HOPS 3 is logged; an answer ends its transaction, with its lines, its refusal as fault 0x4, or its module out
of reach as fault 0x5. -/
def Obligations.RemoteCommandsComplete : Prop :=
  (∀ (s : State) (l : Nat) (hdr : BitVec 128) (data : List Byte) (k c : Nat), (s.landing l).up = true → (s.landing l).txQ = [] →
    k = clsOf (field hdr.toNat 0 4) * 4 + field hdr.toNat 26 2 → c = creditsOf (16 + data.length) →
    c ≤ Tab.get (fun _ => 0) (s.landing l).credits k → (s.landing l).unack.length + ceilDiv (16 + data.length) 252 ≤ 1024 →
    (s.sendMsg l hdr data).out.link = { land := l, hdr := hdr, data := data } :: s.out.link ∧
      ((s.sendMsg l hdr data).landing l).txQ = [] ∧
      Tab.get (fun _ => 0) ((s.sendMsg l hdr data).landing l).credits k = Tab.get (fun _ => 0) (s.landing l).credits k - c) ∧
  (∀ (s : State) (l : Nat) (hdr : BitVec 128) (data : List Byte), (s.landing l).up = true → (s.landing l).txQ = [] →
    Tab.get (fun _ => 0) (s.landing l).credits (clsOf (field hdr.toNat 0 4) * 4 + field hdr.toNat 26 2) < creditsOf (16 + data.length) →
    (s.sendMsg l hdr data).out.link = s.out.link ∧
      ∃ m : TxMsg, ((s.sendMsg l hdr data).landing l).txQ = [m] ∧ m.hdr = hdr ∧ m.data = data) ∧
  (∀ (s : State) (land : Fin 16) (hdr : BitVec 128) (p : Nat), (s.landing land).up = true → field hdr.toNat 0 4 = 2 →
    1 ≤ (remReq hdr).lines → (remReq hdr).lines ≤ 4 → field hdr.toNat 8 6 = s.boot.modid →
    s.admitted (remReq hdr) false = some p → (remReq hdr).sp = false →
    Does (.remoteRd land hdr) s (fun t => ∃ (u : State) (bits : Nat), t = u.reply hdr 4 (remReq hdr).lines (if bits = 0 then 0 else 2) bits
        ((List.range (remReq hdr).lines).flatMap (fun i => s.spRead (remReq hdr).tile ((remReq hdr).sp0 + 64 * i) 64)) ∧
      (∀ i, i < (remReq hdr).lines → flag bits i = s.spPoisoned (remReq hdr).tile ((remReq hdr).sp0 + 64 * i) 64) ∧
      u.out.link = s.out.link ∧ Keeps [.out, .pm, .act] s u)) ∧
  (∀ (s : State) (land : Fin 16) (hdr : BitVec 128) (p a : Nat) (l : Loc), (s.landing land).up = true → field hdr.toNat 0 4 = 2 →
    (remReq hdr).lines = 1 → field hdr.toNat 8 6 = s.boot.modid →
    s.admitted (remReq hdr) false = some p → (remReq hdr).sp = true → a = (remReq hdr).addr / 64 * 64 →
    (s.slot (a / slotBytes)).cls = .bulk → (s.slot (a / slotBytes)).dead = false → l = s.locate a →
    ReadsAtOnce s (chanOfBank l.moduleBank) 5 (l.moduleBank % 48) l.row → s.lineAsks (s.lineOfSa a) = false →
    Does (.remoteRd land hdr) s (fun t => ∃ u : State, u.out.link = s.out.link ∧ u.lands = s.lands ∧ SameBanks s u ∧
      t = u.reply hdr 4 1 (if (s.readLine (s.lineOfSa a)).2 then 2 else 0) (nat (s.readLine (s.lineOfSa a)).2)
        (lineBytes (s.readLine (s.lineOfSa a)).1))) ∧
  (∀ (s : State) (land : Fin 16) (hdr : BitVec 128) (p a : Nat) (e : Nat × Line), (s.landing land).up = true → field hdr.toNat 0 4 = 2 →
    (remReq hdr).lines = 1 → field hdr.toNat 8 6 = s.boot.modid →
    s.admitted (remReq hdr) false = some p → (remReq hdr).sp = true → a = (remReq hdr).addr / 64 * 64 →
    (s.slot (a / slotBytes)).cls = .shared → (s.slot (a / slotBytes)).dead = false →
    s.remSnoop hdr land (remReq hdr) false p [] [] = none → s.lines.find? (fun e => e.1 == a / 64) = some e →
    Does (.remoteRd land hdr) s (fun t => ∃ u : State, u.out.link = s.out.link ∧ u.lands = s.lands ∧ SameBanks s u ∧
      t = u.reply hdr 4 1 (if e.2.poison then 2 else 0) (nat e.2.poison) (lineBytes e.2.data))) ∧
  (∀ (s : State) (land : Fin 16) (hdr : BitVec 128) (p : Nat), (s.landing land).up = true → field hdr.toNat 0 4 = 2 →
    1 ≤ (remReq hdr).lines → (remReq hdr).lines ≤ 4 → field hdr.toNat 8 6 = s.boot.modid →
    s.admitted (remReq hdr) false = some p → (remReq hdr).sp = true → s.remSnoop hdr land (remReq hdr) false p [] [] = none →
    (∃ a ∈ s.remLines (remReq hdr), s.canRead 5 a = false) → exec (.remoteRd land hdr) s = .next s) ∧
  (∀ (s : State) (land : Fin 16) (hdr : BitVec 128), (s.landing land).up = true → field hdr.toNat 0 4 = 2 →
    1 ≤ (remReq hdr).lines → (remReq hdr).lines ≤ 4 → field hdr.toNat 8 6 = s.boot.modid → s.admitted (remReq hdr) false = none →
    Does (.remoteRd land hdr) s (fun t => t = (s.freeRx land hdr 0).reply hdr 4 0 1 0 [] ∧ t.sp = s.sp ∧ SameBanks s t)) ∧
  (∀ (s : State) (land : Fin 16) (hdr : BitVec 128) (data : List (BitVec 512)), (s.landing land).up = true →
    field hdr.toNat 0 4 = 3 → 1 ≤ (remReq hdr).lines → (remReq hdr).lines ≤ 4 → field hdr.toNat 8 6 = s.boot.modid →
    s.admitted (remReq hdr) true = none →
    Does (.remoteWr land hdr data) s (fun t => t = (s.freeRx land hdr (64 * (remReq hdr).lines)).reply hdr 5 0 1 0 [] ∧
      t.sp = s.sp ∧ SameBanks s t)) ∧
  (∀ (s : State) (land : Fin 16) (hdr : BitVec 128) (data : List (BitVec 512)) (p : Nat), (s.landing land).up = true →
    field hdr.toNat 0 4 = 3 → 1 ≤ (remReq hdr).lines → (remReq hdr).lines ≤ 4 → field hdr.toNat 8 6 = s.boot.modid →
    s.admitted (remReq hdr) true = some p → (remReq hdr).sp = false →
    Does (.remoteWr land hdr data) s (fun t => (∃ u : State, u.out.link = s.out.link ∧ u.lands = s.lands ∧ t = u.reply hdr 5 0 0 0 []) ∧
      (∀ i, i < (remReq hdr).lines → t.spRead (remReq hdr).tile ((remReq hdr).sp0 + 64 * i) 64 = lineBytes (data.getD i 0)) ∧
      (∀ a n, (∀ x, a ≤ x → x < a + n → x < (remReq hdr).sp0 ∨ (remReq hdr).sp0 + 64 * (remReq hdr).lines ≤ x) →
        t.spRead (remReq hdr).tile a n = s.spRead (remReq hdr).tile a n) ∧ SameBanks s t)) ∧
  (∀ (s : State) (land : Fin 16) (hdr : BitVec 128) (data : List (BitVec 512)) (p sa : Nat), (s.landing land).up = true →
    field hdr.toNat 0 4 = 3 → (remReq hdr).lines = 1 → field hdr.toNat 8 6 = s.boot.modid →
    s.admitted (remReq hdr) true = some p → (remReq hdr).sp = true → sa = (remReq hdr).addr / 64 * 64 →
    (s.slot (sa / slotBytes)).cls = .bulk → (s.slot (sa / slotBytes)).dead = false →
    s.hasRoom (chanOfBank (s.locate sa).moduleBank) true = true →
    Does (.remoteWr land hdr data) s (fun t =>
      (∃ u : State, u.out.link = s.out.link ∧ u.lands = s.lands ∧ t = u.reply hdr 5 0 0 0 []) ∧
      (∃ q : Req, (t.chan (chanOfBank (s.locate sa).moduleBank)).writeQ = (s.chan (chanOfBank (s.locate sa).moduleBank)).writeQ ++ [q] ∧
        q.bank = (s.locate sa).moduleBank % 48 ∧ q.row = (s.locate sa).row ∧ q.line = (s.locate sa).col / 2 ∧
        q.data = data.getD 0 0 ∧ q.mask = BitVec.allOnes 64 ∧ q.poison = flag hdr.toNat 105 ∧ q.who = 5) ∧ SameBanks s t)) ∧
  (∀ (s : State) (land : Fin 16) (hdr : BitVec 128) (data : List (BitVec 512)) (target : BitVec 6) (l kind : Nat) (cmd : Instr)
      (bytes : List Byte), (kind, cmd, bytes) ∈ [(2, Instr.remoteRd land hdr, []),
      (3, Instr.remoteWr land hdr data, (data.take (remReq hdr).lines).flatMap lineBytes), (4, Instr.rdr land hdr data, data.flatMap lineBytes),
      (5, Instr.wack land hdr, []), (6, Instr.lfn land hdr target, [])] →
    (s.landing land).up = true → field hdr.toNat 0 4 = kind → (kind ≤ 3 → 1 ≤ (remReq hdr).lines ∧ (remReq hdr).lines ≤ 4) →
    field hdr.toNat 8 6 ≠ s.boot.modid → field hdr.toNat 26 2 < 3 →
    s.routeOf (field hdr.toNat 14 6) (field hdr.toNat 28 8) (field hdr.toNat 8 6) = some l →
    Does cmd s (fun t => ∃ u : State, u.out.link = s.out.link ∧ u.lands = s.lands ∧ SameBanks s u ∧
      t = u.queueMsg l (hdr + BitVec.ofNat 128 (2 ^ 26)) bytes (some land))) ∧
  (∀ (s : State) (land : Fin 16) (hdr : BitVec 128) (data : List (BitVec 512)) (target : BitVec 6) (kind : Nat) (cmd : Instr),
    (kind, cmd) ∈ [(2, Instr.remoteRd land hdr), (3, Instr.remoteWr land hdr data), (4, Instr.rdr land hdr data),
      (5, Instr.wack land hdr), (6, Instr.lfn land hdr target)] →
    (s.landing land).up = true → field hdr.toNat 0 4 = kind → (kind ≤ 3 → 1 ≤ (remReq hdr).lines ∧ (remReq hdr).lines ≤ 4) →
    field hdr.toNat 8 6 ≠ s.boot.modid → field hdr.toNat 26 2 = 3 →
    Does cmd s (fun t => t.out.link = s.out.link ∧ t.logs.lfseq = (s.logs.lfseq + 1) % 65536 ∧ SameBanks s t)) ∧
  (∀ (s : State) (land : Fin 16) (hdr : BitVec 128) (data : List (BitVec 512)), (s.landing land).up = true →
    field hdr.toNat 0 4 = 4 → field hdr.toNat 8 6 = s.boot.modid → s.answered hdr false = none →
    Does (.rdr land hdr data) s (fun t => t = s.freeRx land hdr (64 * data.length) ∧ Keeps [.out, .pm, .act] s t)) ∧
  (∀ (s : State) (land : Fin 16) (hdr : BitVec 128), (s.landing land).up = true →
    field hdr.toNat 0 4 = 5 → field hdr.toNat 8 6 = s.boot.modid → s.answered hdr true = none →
    Does (.wack land hdr) s (fun t => t = s.freeRx land hdr 0 ∧ Keeps [.out, .pm, .act] s t)) ∧
  (∀ (s : State) (land : Fin 16) (hdr : BitVec 128) (data : List (BitVec 512)) (x : Xact), (s.landing land).up = true →
    field hdr.toNat 0 4 = 4 → field hdr.toNat 8 6 = s.boot.modid → s.answered hdr false = some x →
    field hdr.toNat 101 4 ≠ 1 → field hdr.toNat 101 4 ≠ 3 → (s.fchan (16 * x.tile + x.ch)).todo = [] →
    (s.fchan (16 * x.tile + x.ch)).moved = false → (s.dropXact x).outstanding x.tile x.ch ≠ [] →
    Does (.rdr land hdr data) s (fun t => t.xacts = s.xacts.filter (fun y => y != x) ∧
      (t.fchan (16 * x.tile + x.ch)).stage = (x.taken (s.fchan (16 * x.tile + x.ch)) data (field hdr.toNat 105 4)).stage ∧
      Keeps [.xacts, .fe, .out, .pm, .act] s t)) ∧
  (∀ (s : State) (land : Fin 16) (hdr : BitVec 128) (data : List (BitVec 512)) (x : Xact) (e : FeStep), (s.landing land).up = true →
    field hdr.toNat 0 4 = 4 → field hdr.toNat 8 6 = s.boot.modid → s.answered hdr false = some x →
    (field hdr.toNat 101 4 = 1 ∨ field hdr.toNat 101 4 = 3) → (s.fchan (16 * x.tile + x.ch)).cur = some e →
    Does (.rdr land hdr data) s (fun t => x ∉ t.xacts ∧ (t.fchan (16 * x.tile + x.ch)).st = 2 ∧
      (t.fchan (16 * x.tile + x.ch)).fault = (if field hdr.toNat 101 4 = 1 then 4 else 5) ∧
      (t.fchan (16 * x.tile + x.ch)).addr = x.addr ∧ (t.fchan (16 * x.tile + x.ch)).module = x.dst ∧ SameBanks s t)) ∧
  (∀ (s : State) (land : Fin 16) (hdr : BitVec 128) (x : Xact), (s.landing land).up = true → field hdr.toNat 0 4 = 5 →
    field hdr.toNat 8 6 = s.boot.modid → s.answered hdr true = some x → field hdr.toNat 101 4 ≠ 1 →
    (s.fchan (16 * x.tile + x.ch)).todo = [] →
    Does (.wack land hdr) s (fun t => t.xacts = s.xacts.filter (fun y => y != x) ∧ Keeps [.xacts, .out, .pm, .act] s t)) ∧
  (∀ (s : State) (land : Fin 16) (hdr : BitVec 128) (x : Xact) (e : FeStep), (s.landing land).up = true → field hdr.toNat 0 4 = 5 →
    field hdr.toNat 8 6 = s.boot.modid → s.answered hdr true = some x → field hdr.toNat 101 4 = 1 →
    (s.fchan (16 * x.tile + x.ch)).cur = some e →
    Does (.wack land hdr) s (fun t => x ∉ t.xacts ∧ (t.fchan (16 * x.tile + x.ch)).st = 2 ∧
      (t.fchan (16 * x.tile + x.ch)).fault = 4 ∧ t.logs.lfseq = (s.logs.lfseq + 1) % 65536 ∧ SameBanks s t)) ∧
  (∀ (s : State) (land : Fin 16) (hdr : BitVec 128) (target : BitVec 6), (s.landing land).up = true → field hdr.toNat 0 4 = 6 →
    field hdr.toNat 8 6 = s.boot.modid →
    Does (.lfn land hdr target) s (fun t => t.logs.lfseq = (s.logs.lfseq + 1) % 65536 ∧
      t.logs.lfhead = (s.logs.lfhead + 1) % 1024 ∧
      (∃ w0 w1 w2 w3 : Word, Tab.get (fun _ => []) t.logs.lflog s.logs.lfhead = [w0, w1, w2, w3] ∧ w1.toNat = field hdr.toNat 52 48 ∧
        field w2.toNat 0 4 = 3 ∧ field w2.toNat 8 6 = field hdr.toNat 20 6 ∧ field w2.toNat 15 6 = target.toNat ∧
        field w2.toNat 21 4 = 1) ∧ SameBanks s t)) ∧
  (∀ (s : State) (tile ch : Fin 16) (tag : BitVec 16) (x : Xact) (e : FeStep),
    (s.outstanding tile ch).find? (fun x => x.tag == tag.toNat) = some x → x.issued + s.cfg rXLCFG 12 8 * 16000 ≤ s.cyc →
    x.write = false → (s.fchan (16 * tile.val + ch.val)).cur = some e →
    Does (.transactionTimeout tile ch tag) s (fun t => x ∉ t.xacts ∧ (t.fchan (16 * tile.val + ch.val)).st = 2 ∧
      (t.fchan (16 * tile.val + ch.val)).fault = 5 ∧ SameBanks s t)) ∧
  (∀ (s : State) (tile ch : Fin 16) (tag : BitVec 16) (x : Xact),
    (s.outstanding tile ch).find? (fun x => x.tag == tag.toNat) = some x → x.issued + s.cfg rXLCFG 12 8 * 16000 ≤ s.cyc →
    x.write = true → (s.fchan (16 * tile.val + ch.val)).todo = [] →
    Does (.transactionTimeout tile ch tag) s (fun t => x ∉ t.xacts ∧ t.logs.lfseq = (s.logs.lfseq + 1) % 65536 ∧ SameBanks s t))

/-- Management-core images (18 R702 to R707, R709): an image over the sideband waits for VERIFY; VERIFY of a good image fills the inactive
bank and stages it, and of a bad one reports what is wrong; HANDOVER and REVERT move the tiles in turn to the inactive bank's
image and end in probation; a probation that ends well makes the bank active and never lowers the fuse counter, one that fails,
or a failed self-check, hands every tile back; loads held by a hand-over follow when it ends. -/
def Obligations.FirmwareCommandsComplete : Prop :=
  (∀ (s : State) (i : Image), s.sideband = true → Does (.sidebandImageWrite i) s (fun t => t.fw.sideband = some i ∧ t.fw.banks = s.fw.banks ∧
    t.fw.st = s.fw.st ∧ Keeps [.fw] s t)) ∧
  (∀ (s : State) (i im : Image), s.fw.st = 0 → s.boot.phase = 15 →
    (s.fw.sideband ≠ none ∨ ((s.slot (s.cfg rFWSRC 0 48 / slotBytes)).owner = none ∧ s.cfg rFWSRC 0 48 / slotBytes < s.slotCount)) →
    im = s.fw.sideband.getD i → s.imageFault im = 0 →
    Does (.verify i) s (fun t => Tab.get (fun _ => {}) t.fw.banks (1 - s.fw.bank) = im ∧
      Tab.get (fun _ => {}) t.fw.banks s.fw.bank = Tab.get (fun _ => {}) s.fw.banks s.fw.bank ∧ t.fw.staged = true ∧
      t.fw.stgver = im.version ∧ t.fw.stgsvn = im.svn ∧ t.fw.sideband = none ∧ t.fw.result = 0 ∧ t.fw.active = s.fw.active ∧
      t.fw.svn = s.fw.svn ∧ Keeps [.fw] s t)) ∧
  (∀ (s : State) (i im : Image), s.fw.st = 0 → s.boot.phase = 15 →
    (s.fw.sideband ≠ none ∨ ((s.slot (s.cfg rFWSRC 0 48 / slotBytes)).owner = none ∧ s.cfg rFWSRC 0 48 / slotBytes < s.slotCount)) →
    im = s.fw.sideband.getD i → s.imageFault im ≠ 0 →
    Does (.verify i) s (fun t => t.fw.result = s.imageFault im ∧ t.fw.banks = s.fw.banks ∧ t.fw.staged = s.fw.staged ∧
      t.fw.active = s.fw.active ∧ t.fw.sideband = none ∧ Keeps [.fw] s t)) ∧
  (∀ (s : State) (t0 : Nat) (P : State → Prop), s.boot.phase = 15 → s.fw.st = 0 → s.handOrder.head? = some t0 →
    P = (fun t => t.fw.st = 2 ∧ t.fw.tile = t0 ∧ t.fw.result = 0 ∧ t.fw.banks = s.fw.banks ∧ Keeps [.fw, .hubs] s t) →
    (s.fw.staged = true → Does .handover s P) ∧
    (s.fw.banks.any (fun e => e.1 == 1 - s.fw.bank) = true → Does .revert s P)) ∧
  (∀ (s : State) (u : Nat) (more : List Nat) (P : State → Prop), s.boot.phase = 15 → s.fw.st = 2 →
    (s.handOrder.dropWhile (· != s.fw.tile)).drop 1 = u :: more →
    P = (fun t => t.fw.st = 2 ∧ t.fw.tile = u ∧ (t.hub s.fw.tile).mcore = s.nextVersion ∧ t.fw.active = s.fw.active ∧
      Keeps [.fw, .hubs] s t) →
    Does .handover s P ∧ (s.fw.banks.any (fun e => e.1 == 1 - s.fw.bank) = true → Does .revert s P)) ∧
  (∀ (s : State) (P : State → Prop), s.boot.phase = 15 → s.fw.st = 2 → (s.handOrder.dropWhile (· != s.fw.tile)).drop 1 = [] →
    P = (fun t => ∃ u : State, u.fw.st = 3 ∧ (u.hub s.fw.tile).mcore = s.nextVersion ∧ u.fw.active = s.fw.active ∧
      Keeps [.fw, .hubs] s u ∧ t = s.handOrder.foldl State.releaseLoads u) →
    Does .handover s P ∧ (s.fw.banks.any (fun e => e.1 == 1 - s.fw.bank) = true → Does .revert s P)) ∧
  (∀ (s : State) (P : State → Prop), s.fw.st = 3 →
    P = (fun t => t.fw.st = 0 ∧ t.fw.result = 4 ∧ t.fw.active = s.fw.active ∧ t.fw.svn = s.fw.svn ∧
      (∀ x ∈ s.handOrder, (t.hub x).mcore = s.fw.runver) ∧ SameRegs s t ∧ SameBanks s t) →
    Does (.probationEnd true) s P ∧ (∀ x : Fin 16, (s.hub x).retired = false → Does (.selfCheckFailure x) s P)) ∧
  (∀ (s : State) (im : Image), s.fw.st = 3 → im = Tab.get (fun _ => {}) s.fw.banks (1 - s.fw.bank) →
    Does (.probationEnd false) s (fun t => t.fw.st = 0 ∧ t.fw.active = !s.fw.active ∧ t.fw.staged = false ∧ t.fw.result = 0 ∧
      t.fw.runver = im.version ∧ t.fw.svn = max s.fw.svn im.svn ∧ Keeps [.fw, .hubs] s t))

/-- Start-up (17 R636, R637; 18 R666 to R672; 02 R69): the input's return begins a power-on; each hub's crystal qualifies or the hub
starts on the fallback reference; the last one lets the start-up go on; once the coolant qualifies memory reads zero, partitions
that were not FREE are PRESERVED, and the module is in service. -/
def Obligations.PowerOnCompletes : Prop :=
  (∀ (s : State) (r : BootReport), s.power.on = false →
    Does (.powerOn r) s (fun t => t.power.on = true ∧ t.boot.phase = 2 ∧ t.boot.cause = (if s.boot.started then 1 else 0) ∧
      t.boot.report = r ∧ t.regs = [] ∧ t.mem = [] ∧ t.sp = [] ∧ t.nbus = [] ∧
      (∀ i ∈ t.liveTiles, (t.hub i).src = .internal ∧ (t.hub i).lock = false))) ∧
  (∀ (s : State) (i : Fin 16), s.boot.awaitsClock = true → s.boot.xtalOk.contains i.val = false → (s.hub i).retired = false →
    (∃ u ∈ s.liveTiles, u ≠ i.val ∧ s.boot.xtalOk.contains u = false) →
    Does (.crystalQualified i) s (fun t => t.boot.xtalOk = i.val :: s.boot.xtalOk ∧ t.boot.phase = s.boot.phase ∧
      (t.hub i).lock = true ∧ (t.hub i).src = .crystal ∧ Keeps [.boot, .hubs] s t)) ∧
  (∀ (s : State) (i : Fin 16), s.boot.awaitsClock = true → s.boot.xtalOk.contains i.val = false → (s.hub i).retired = false →
    (∃ u ∈ s.liveTiles, u ≠ i.val ∧ s.boot.xtalOk.contains u = false) →
    Does (.crystalQualifyTimeout i) s (fun t => t.boot.xtalOk = i.val :: s.boot.xtalOk ∧ t.boot.phase = s.boot.phase ∧
      (t.hub i).lock = true ∧ (t.hub i).src = (if s.hostRef then .host else .internal) ∧
      t.boot.clockLate = (s.boot.clockLate <|> some i.val) ∧ Keeps [.boot, .hubs] s t)) ∧
  (∀ (s : State) (i : Fin 16) (P : State → Prop), s.boot.awaitsClock = true → s.boot.xtalOk.contains i.val = false →
    (s.hub i).retired = false → (∀ u ∈ s.liveTiles, u ≠ i.val → s.boot.xtalOk.contains u = true) →
    P = (fun t =>
      (s.boot.warmBusy = true → t.boot.phase = 15 ∧ t.boot.warmBusy = false ∧ t.boot.hashLock = true) ∧
      (s.boot.warmBusy = false → s.boot.coolOk = true → t.boot.phase = 15 ∧ t.boot.hashLock = true ∧ t.mem = [] ∧ t.pois = []) ∧
      (s.boot.warmBusy = false → s.boot.coolOk = false → t.boot.phase = 5 ∧ t.boot.hashLock = false ∧
        t.boot.hashMask = t.boot.hashRec)) →
    Does (.crystalQualified i) s P ∧ Does (.crystalQualifyTimeout i) s P) ∧
  (∀ s : State, s.power.on = true → s.boot.phase = 5 → s.boot.warmBusy = false →
    Does .coolantQualified s (fun t => t.boot.phase = 15 ∧ t.boot.started = true ∧ t.boot.hashLock = true ∧ t.mem = [] ∧ t.pois = [] ∧
      (∀ p : Fin 64, (t.part p).st = .free ∨ (t.part p).st = .preserved) ∧
      (∀ i ∈ t.liveTiles, (t.hub i).groups = [3] ∧ (t.hub i).engines = [3]))) ∧
  (∀ s : State, s.power.on = true → s.boot.phase ≠ 5 → s.boot.phase ≠ 15 → s.boot.warmBusy = false →
    Does .coolantQualified s (fun t => t.boot = { s.boot with coolOk := true } ∧ Keeps [.boot] s t))

/-- Loss of the input and warm reset (17 R655, R656; 18 R673, R684 to R690): below 36 V no context is left running and every stack
enters stack self-refresh; below 30 V only the configuration store, wear and black boxes are left; a warm reset is entered once,
from service, its cause recorded, every context unbound and the stacks asleep until the crystals are back; a watchdog expiry
restarts the tile's translation, and with AUTOWARM a second one of the lead tile within a second begins a warm reset. -/
def Obligations.ResetCommandsComplete : Prop :=
  (∀ (s : State) (input : BitVec 10) (ts : List (BitVec 64)), s.power.on = true → s.power.failed = false → s.boot.phase = 15 →
    Does (.powerFail input ts) s (fun t => t.power.failed = true ∧ t.power.input = input.toNat ∧ t.boot.phase = 15 ∧
      (∀ c : Fin 64, (t.ctx c).st ≠ .running) ∧ (∀ k : Fin 96, (t.stack k).sr = true) ∧ (∀ p : Fin 4, (t.hport p).speed = 0))) ∧
  (∀ (s : State) (input : BitVec 10) (ts : List (BitVec 64)), s.power.on = true → s.power.failed = false → s.boot.phase ≠ 15 →
    Does (.powerFail input ts) s (fun t => t.power = { s.power with input := input.toNat, failed := true } ∧ Keeps [.power] s t)) ∧
  (∀ s : State, s.power.on = true →
    Does .inputLoss s (fun t => t.power = {} ∧ t.boot.phase = 0 ∧ t.regs = [] ∧ t.mem = [] ∧ t.sp = [] ∧ t.nbus = [] ∧
      t.boot.hashRec = s.boot.hashRec ∧ (∀ c : Fin 64, (t.ctx c).st = .unbound))) ∧
  (∀ (s : State) (r : BootReport) (P : State → Prop), s.power.on = true → s.boot.phase = 15 →
    P = (fun t => t.boot.phase = 5 ∧ t.boot.warmBusy = true ∧ t.boot.want = none ∧ t.boot.xtalOk = [] ∧
      t.boot.warmCnt = satNat 16 (s.boot.warmCnt + 1) ∧ t.power.failed = false ∧ (∀ c : Fin 64, (t.ctx c).st = .unbound) ∧
      (∀ k : Fin 96, (t.stack k).sr = true)) →
    (s.boot.want ≠ none ∨ s.sideband = true → Does (.warmReset r) s (fun t => P t ∧ t.boot.cause = s.boot.want.getD 2)) ∧
    (s.power.failed = true → Does (.powerReturn r) s (fun t => P t ∧ t.boot.cause = 3))) ∧
  (∀ (s : State) (r : BootReport), s.power.failed = true → s.boot.phase ≠ 15 →
    Does (.powerReturn r) s (fun t => t.power = { s.power with failed := false, input := 480 } ∧ Keeps [.power] s t)) ∧
  (∀ (s : State) (i : Fin 16) (r : BootReport) (recent : List Nat), s.boot.phase = 15 → (s.hub i).retired = false → s.fw.st ≠ 3 →
    recent = s.cyc :: (s.hub i).wdogAt.filter (fun a => decide (s.cyc < a + secondCycles)) →
    ¬ (i.val = s.boot.lead ∧ flag (s.reg 0 rRCVCFG) 0 = true ∧ 2 ≤ recent.length) →
    Does (.watchdogExpiry i r) s (fun t => (t.hub i).wdogAt = recent ∧ (t.tran i).run = none ∧
      (∀ j, (s.tran i).run = some j → (t.tran i).queue = { j with native := [], nmap := [], status := 0 } :: (s.tran i).queue) ∧
      t.boot = s.boot ∧ Keeps [.hubs, .trans] s t)) ∧
  (∀ (s : State) (i : Fin 16) (r : BootReport), s.boot.phase = 15 → s.power.on = true → (s.hub i).retired = false →
    i.val = s.boot.lead → flag (s.reg 0 rRCVCFG) 0 = true →
    (s.hub i).wdogAt.filter (fun a => decide (s.cyc < a + secondCycles)) ≠ [] →
    Does (.watchdogExpiry i r) s (fun t => t.boot.phase = 5 ∧ t.boot.warmBusy = true ∧ t.boot.cause = 4))

/-- Loss of the reference and time (17 R638, R643 to R649; 19 R721 to R724): a hub on its crystal that finds it lost counts the loss
and holds until its standby PLL and its near-bank channels let the domains switch to the host reference or the internal
oscillator; a lost fallback leaves the hub on its own oscillator, an island whose counter follows the lead tile's without going
back; a PTM exchange within TMCFG.JUMP trims the rate, one beyond it begins a new epoch, ten that fail make the mapping stale. -/
def Obligations.ClockAndTimeComplete : Prop :=
  (∀ (s : State) (i : Fin 16) (n : BitVec 11) (P : State → Prop),
    s.boot.phase = 15 → (s.hub i).retired = false → (s.hub i).src = .crystal → (s.hub i).xlost = false →
    P = (fun t => (t.hub i).xlost = true ∧ (t.hub i).losses = satNat 16 ((s.hub i).losses + 1) ∧ (t.hub i).src = .crystal ∧
      SameBanks s t) →
    Does (.crystalAmplitudeLost i) s (fun t => P t ∧ (t.hub i).xamp = false) ∧
    (n.toNat < 963 ∨ 1085 < n.toNat → Does (.edgeCountWindowEnd i n) s P)) ∧
  (∀ (s : State) (i : Fin 16), (s.hub i).retired = false →
    (s.boot.phase ≠ 15 ∨ (s.hub i).src ≠ .crystal ∨ (s.hub i).xlost = true) →
    Does (.crystalAmplitudeLost i) s (fun t => t.hub i = { s.hub i with xamp := false } ∧ Keeps [.hubs] s t)) ∧
  (∀ (s : State) (i : Fin 16) (n : BitVec 11), (s.hub i).retired = false → 963 ≤ n.toNat → n.toNat ≤ 1085 →
    Does (.edgeCountWindowEnd i n) s (fun t => (t.hub i).monLast = n.toNat ∧ (t.hub i).monMin = min (s.hub i).monMin n.toNat ∧
      (t.hub i).monMax = max (s.hub i).monMax n.toNat ∧ (t.hub i).xlost = (s.hub i).xlost ∧ Keeps [.hubs] s t)) ∧
  (∀ (s : State) (i : Fin 16), (s.hub i).xlost = true ∨ (s.hub i).fwdLost = true →
    Does (.standbyPllLock i) s (fun t => t.hub i = { s.hub i with standby := true } ∧ Keeps [.hubs] s t)) ∧
  (∀ (s : State) (i : Fin 16), (s.hub i).standby = true →
    (∀ k, k < 96 → (s.chan (96 * i.val + k)).mode ≠ .nearBank ∨ (s.chan (96 * i.val + k)).yield = true) →
    Does (.domainSwitch i) s (fun t => (t.hub i).src = (if (s.hub i).fwdLost then .own else if s.hostRef then .host else .internal) ∧
      (t.hub i).switched = true ∧ (t.hub i).lock = true ∧ (t.hub i).standby = false ∧ (t.hub i).xlost = false ∧
      ((t.hub i).src ≠ .host → (s.landing i).up = true → (t.landing i).up = false) ∧
      ((t.hub i).src = .host → Keeps [.hubs] s t))) ∧
  (∀ (s : State) (i : Fin 16), (s.hub i).retired = false → (s.hub i).fwdLost = false → (s.hub i).src ≠ .own →
    ((s.hub i).src ≠ .crystal ∨ (s.hub i).xlost = true) →
    Does (.forwardedReferenceLost i) s (fun t => (t.hub i).fwdLost = true ∧ (t.hub i).island = true ∧ (t.hub i).standby = false ∧
      (t.hub i).losses = satNat 16 ((s.hub i).losses + 1) ∧ SameBanks s t)) ∧
  (∀ (s : State) (i : Fin 16) (diff : Fin 5), (s.hub i).island = true → i.val ≠ s.boot.lead →
    Does (.timestampSync i diff) s (fun t => (t.hub i).stampAdj = max (s.hub i).stampAdj ((diff.val : Int) - 2) ∧ Keeps [.hubs] s t)) ∧
  (∀ s : State, s.power.on = true → Does .timestampCheckpoint s (fun t => t.boot = { s.boot with checkpoint := s.stamp } ∧ Keeps [.boot] s t)) ∧
  (∀ (s : State) (h : BitVec 64) (p : Nat), s.boot.phase = 15 → s.ptmPort = some p → s.tmap.valid = true →
    ((h.toNat : Int) - s.tmap.host s.stamp).natAbs ≤ 1000 * s.cfg rTMCFG 8 16 →
    Does (.ptmExchange (some h)) s (fun t => t.tmap.h0 = (s.tmap.host s.stamp).toNat ∧ t.tmap.d0 = s.stamp ∧
      t.tmap.epoch = s.tmap.epoch ∧ t.tmap.valid = true ∧ t.tmap.stale = false ∧ t.tmap.port = p ∧
      -1000000 ≤ t.tmap.rate ∧ t.tmap.rate ≤ 1000000 ∧ Keeps [.tmap] s t)) ∧
  (∀ (s : State) (h : BitVec 64) (p : Nat), s.boot.phase = 15 → s.ptmPort = some p →
    (s.tmap.valid = false ∨ 1000 * s.cfg rTMCFG 8 16 < ((h.toNat : Int) - s.tmap.host s.stamp).natAbs) →
    Does (.ptmExchange (some h)) s (fun t => t.tmap.h0 = h.toNat ∧ t.tmap.d0 = s.stamp ∧ t.tmap.epoch = (s.tmap.epoch + 1) % 2 ^ 24 ∧
      t.tmap.valid = true ∧ t.tmap.rate = s.tmap.rate ∧ SameBanks s t)) ∧
  (∀ (s : State) (h : Option (BitVec 64)), s.boot.phase = 15 → h = none ∨ s.ptmPort = none →
    Does (.ptmExchange h) s (fun t => t.tmap.fails = s.tmap.fails + 1 ∧ (10 ≤ t.tmap.fails → t.tmap.stale = true) ∧
      t.tmap.epoch = s.tmap.epoch ∧ Keeps [.tmap] s t))

/-- The governor and the coolant (13 R512 to R518; 17 R655, R659 to R662): each update notes what telemetry measures and sets CAP_eff
and measures 2 and 3; an average above CAP_eff for PGCFG.HOLDT, or a coolant fault at once, holds near-bank passes on every
channel; each window moves every tile's SHIFT by one step; recovery ends a coolant fault's holds. -/
def Obligations.GovernorCommandsComplete : Prop :=
  (∀ (s : State) (avg : BitVec 16) (input tin tout flow dp : BitVec 10), s.boot.phase = 15 →
    Does (.powerAverageUpdate avg input tin tout flow dp) s (fun t => t.power.avg = avg.toNat ∧
      t.power.capEff = s.capOf input.toNat tin.toNat flow.toNat ∧ t.power.tin = tin.toNat ∧ t.power.tout = tout.toNat ∧
      t.power.flow = flow.toNat ∧ t.power.dp = dp.toNat ∧ t.power.input = input.toNat ∧
      (t.power.capEff * 50 < avg.toNat * 10 → s.shiftFull = true ∨ s.inForce 0 rSPLCFG 24 1 = 0 → t.power.m2 = true) ∧
      (avg.toNat * 10 < s.inForce 0 rSPLCFG 8 8 * 50 → avg.toNat * 10 ≤ t.power.capEff * 50 → t.power.m2 = false) ∧
      (avg.toNat * 10 < s.inForce 0 rSPLCFG 8 8 * 50 → s.power.coolFault = false → t.power.m3 = false) ∧
      (s.inForce 0 rSPLCFG 8 8 * 50 ≤ avg.toNat * 10 → t.power.m3 = s.power.m3) ∧ SameBanks s t)) ∧
  (∀ (s : State) (a : Nat), s.power.overSince = some a → a + s.cfg rPGCFG 16 4 * 1600000 ≤ s.cyc → s.power.m3 = false →
    Does .nearBankHold s (fun t => t.power.m3 = true ∧ t.power.m3cnt = satNat 16 (s.power.m3cnt + 1) ∧
      (∀ ch, ch < 1536 → (t.chan ch).nbHold = true ∧ (t.chan ch).mode = (s.chan ch).mode) ∧ SameBanks s t)) ∧
  (∀ s : State, s.boot.phase = 15 → s.inForce 0 rSPLCFG 24 1 ≠ 0 →
    Does .governorWindowEnd s (fun t => t.power.pest = s.estimate ∧ t.act = [] ∧
      (∀ i : Fin 16, (s.hub i).retired = false → (t.hub i).shift = (s.hub i).shift + s.shiftStep i s.estimate) ∧
      (∀ i : Fin 16, (s.hub i).retired = true → t.hub i = s.hub i) ∧
      (∀ lo n, t.inForce 0 rSPLCFG lo n = s.cfg rSPLCFG lo n) ∧ SameRegs s t ∧ SameBanks s t)) ∧
  (∀ s : State, s.boot.phase = 15 → s.inForce 0 rSPLCFG 24 1 = 0 →
    Does .governorWindowEnd s (fun t => t.power.pest = s.estimate ∧ t.act = [] ∧
      (∀ i : Fin 16, (s.hub i).retired = false → (t.hub i).shift = 0) ∧ SameBanks s t)) ∧
  (∀ s : State, s.power.on = true → s.power.coolFault = false →
    Does .coolantFault s (fun t => t.power.coolFault = true ∧ t.power.capEff = (if s.half then 20 else 40) ∧ t.power.m3 = true ∧
      (s.power.m3 = false → ∀ ch, ch < 1536 → (t.chan ch).nbHold = true) ∧ SameBanks s t)) ∧
  (∀ s : State, s.power.coolFault = true →
    Does .coolantRecover s (fun t => t.power.coolFault = false ∧ t.power.m3 = false ∧
      (s.power.m3 = true → ∀ ch, (t.chan ch).nbHold = false) ∧ SameBanks s t))

/-- Temperature, admission and clock gates (17 R650 to R652, R657, R658, R663, R664; 04 R137; 20 R745): a stack's level follows its hottest die, held
5 °C below its threshold, and level 5 holds the stack in self-refresh until 95 °C; a hot hub holds ungating and issue, and above
115 °C the converters stop; the
oldest wake of a queue is admitted within its budget and the committed power; a gate-on opens a node after its parents, each by
admission, and a gate-off is refused with its STATUS or closes the node. -/
def Obligations.ThermalAndGateCommandsComplete : Prop :=
  (∀ (s : State) (st : Fin 96) (ts : List (BitVec 8)) (hot : Nat), ts ≠ [] → hot = (ts.map BitVec.toNat).foldl max 0 →
    (s.stack st).level ≠ 5 → hot ≤ 110 →
    Does (.dieTempSample st ts) s (fun t => (t.stack st).temps = ts.map BitVec.toNat ∧
      (t.stack st).level = thermLevel (s.stack st).level hot ∧ (t.stack st).hot16 = decide (1 ≤ thermLevel (s.stack st).level hot) ∧
      Keeps [.stks] s t)) ∧
  (∀ (s : State) (st : Fin 96) (ts : List (BitVec 8)), 110 < (ts.map BitVec.toNat).foldl max 0 → (s.stack st).level ≠ 5 →
    Does (.dieTempSample st ts) s (fun t => (t.stack st).level = 5 ∧ (t.stack st).hold = true ∧ (t.stack st).sr = true ∧ SameBanks s t)) ∧
  (∀ (s : State) (st : Fin 96) (ts : List (BitVec 8)), ts ≠ [] → (s.stack st).level = 5 →
    Does (.dieTempSample st ts) s (fun t => (t.stack st).temps = ts.map BitVec.toNat ∧ SameBanks s t ∧
      ((ts.map BitVec.toNat).foldl max 0 ≤ 95 → (t.stack st).hold = false ∧
        (t.stack st).level = thermLevel 4 ((ts.map BitVec.toNat).foldl max 0)) ∧
      (95 < (ts.map BitVec.toNat).foldl max 0 → (t.stack st).level = 5 ∧ (t.stack st).hold = (s.stack st).hold))) ∧
  (∀ (s : State) (st : Fin 96), 105 < (s.stack st).temps.foldl max 0 → (s.stack st).level ≠ 5 →
    Does (.thermalLevel5Timeout st) s (fun t => (t.stack st).level = 5 ∧ (t.stack st).hold = true ∧ (t.stack st).sr = true ∧
      SameBanks s t)) ∧
  (∀ (s : State) (second : Bool), Does (.thermalHalfPeriod second) s (fun t =>
    (∀ st : Fin 96, second = true → 3 ≤ (s.stack st).level → (t.stack st).half = true) ∧
    (∀ st : Fin 96, (t.stack st).half = true → second = true ∧ 3 ≤ (t.stack st).level) ∧ Keeps [.stks] s t)) ∧
  (∀ (s : State) (i : Fin 16) (c : BitVec 8), 115 < c.toNat → s.power.on = true → Does (.hubTempSample i c) s (fun t =>
    t.power.on = false ∧ t.boot.phase = 0 ∧ t.mem = [] ∧ t.pois = [] ∧ (∀ k : Fin 16, (t.hub k).bb.cur = none ∧ (t.hub k).bb.queue = []))) ∧
  (∀ (s : State) (i : Fin 16) (c : BitVec 8), c.toNat ≤ 115 ∨ s.power.on = false →
    Does (.hubTempSample i c) s (fun t => (t.hub i).hubT = c.toNat ∧
    (t.hub i).holdUngate = (decide (100 < c.toNat) || (decide (95 < c.toNat) && (s.hub i).holdUngate)) ∧
    (t.hub i).holdIssue = (decide (105 < c.toNat) || (decide (95 < c.toNat) && (s.hub i).holdIssue)) ∧ Keeps [.hubs] s t)) ∧
  (∀ (s : State) (i : Fin 16) (kind : Fin 4) (m a : Nat), (s.hub i).wakeQ.find? (fun w => w.1 == kind.val) = some (kind.val, m, a) →
    ((Tab.get (fun _ => []) (s.hub i).grantAt (budgetKey kind m)).filter
      (fun b => decide (s.cyc < b + (wakeBudget kind).2))).length < (wakeBudget kind).1 → s.wakeHeld i kind m = false →
    (kind.val = 1 → s.committedPower + 250 ≤ s.commitLimit) → (kind.val = 2 → s.committedPower + 1800 ≤ s.commitLimit) →
    Does (.admissionGrant i kind) s (fun t => (∀ w ∈ (t.hub i).wakeQ, ¬ (w.1 = kind.val ∧ w.2.1 = m)) ∧
      (kind.val ≠ 3 → (kind.val, m) ∈ (t.hub i).admitted) ∧ (kind.val = 3 → m < 4 → m ∈ (t.hub i).groups) ∧
      (kind.val = 3 → 4 ≤ m → m - 4 ∈ (t.hub i).engines) ∧ (t.hub i).capHeld = false ∧ SameBanks s t)) ∧
  (∀ (s : State) (i : Fin 16) (kind : Fin 4) (m a : Nat), (s.hub i).wakeQ.find? (fun w => w.1 == kind.val) = some (kind.val, m, a) →
    ((Tab.get (fun _ => []) (s.hub i).grantAt (budgetKey kind m)).filter
      (fun b => decide (s.cyc < b + (wakeBudget kind).2))).length < (wakeBudget kind).1 → s.wakeHeld i kind m = false →
    ((kind.val = 1 ∧ s.commitLimit < s.committedPower + 250) ∨ (kind.val = 2 ∧ s.commitLimit < s.committedPower + 1800)) →
    Does (.admissionGrant i kind) s (fun t => t.hub i = { s.hub i with capHeld := true } ∧ Keeps [.hubs] s t)) ∧
  (∀ (s : State) (level : BitVec 3) (i : Fin 16) (g : Fin 4) (slice : BitVec 5), s.boot.phase = 15 →
    s.gateNode level.toNat i slice.toNat = 0 →
    Does (.gateOn level i g slice) s (fun t => t.power.gateStatus = 0 ∧ t.power.modOpen = true ∧
      (1 ≤ level.toNat → (t.hub i).tileOpen = true) ∧
      (∀ k, 2 ≤ level.toNat → k = (if level.toNat = 4 then 0 else g.val) →
        k ∈ (t.hub i).groups ∨ (3, k) ∈ (t.hub i).admitted ∨ ∃ a, (3, k, a) ∈ (t.hub i).wakeQ) ∧
      (level.toNat = 4 → slice.toNat ∈ (t.mat i).ungated ∨ (2, slice.toNat) ∈ (t.hub i).admitted ∨
        ∃ a, (2, slice.toNat, a) ∈ (t.hub i).wakeQ) ∧ Keeps [.power, .hubs] s t)) ∧
  (∀ (s : State) (level : BitVec 3) (i : Fin 16) (g : Fin 4) (slice : BitVec 5) (cmd : Instr) (n : Nat), s.boot.phase = 15 → n ≠ 0 →
    (cmd = .gateOn level i g slice ∧ s.gateNode level.toNat i slice.toNat = n) ∨
      (cmd = .gateOff level i g slice ∧ s.gateOffStatus level.toNat i g slice.toNat = n) →
    Does cmd s (fun t => t.power = { s.power with gateStatus := n, gateLast := none } ∧ Keeps [.power] s t)) ∧
  (∀ (s : State) (level : BitVec 3) (i : Fin 16) (g : Fin 4) (slice : BitVec 5), s.boot.phase = 15 →
    s.gateOffStatus level.toNat i g slice.toNat = 0 →
    Does (.gateOff level i g slice) s (fun t => t.power.gateStatus = 0 ∧ (level.toNat = 0 → t.power.modOpen = false) ∧
      (level.toNat = 1 → (t.hub i).tileOpen = false) ∧ (level.toNat = 2 → (t.hub i).groups = (s.hub i).groups.erase g.val) ∧
      (level.toNat = 3 → (t.hub i).engines = (s.hub i).engines.erase g.val) ∧
      (level.toNat = 4 → (t.mat i).ungated = (s.mat i).ungated.erase slice.toNat) ∧ Keeps [.power, .hubs, .me] s t))

/-- Black boxes, traces, counters and index registers (06 R269; 08 R337; 09 R382; 10 R434; 11 R470; 17 R665; 19 R711, R714, R716, R727): a commit puts the whole record in
its slot; an observed trace record advances TRCTAIL; TRCCTL keeps SZ while EN is 1 and refuses EN for a size outside 8 to 20;
PMCTL freezes, restarts and clears every counter; a write of an index register selects, and clears what it says it clears; on
NGM9-4608-LC a write that names a tile or stack it has not is ignored (00 R3). -/
def Obligations.ObservationCommandsComplete : Prop :=
  (∀ (s : State) (i : Fin 16) (h : Happening) (lost : Nat), (s.hub i).bb.cur = some (h, lost) →
    Does (.blackBoxCommit i) s (fun t => (t.hub i).bb.next = ((s.hub i).bb.next + 1) % 2 ^ 48 ∧
      Tab.get (fun _ => []) (t.hub i).bb.slots ((s.hub i).bb.next % 16384) = recordBytes i (s.hub i).bb.next lost h ∧
      (∀ k, k ≠ (s.hub i).bb.next % 16384 → Tab.get (fun _ => []) (t.hub i).bb.slots k = Tab.get (fun _ => []) (s.hub i).bb.slots k) ∧
      Keeps [.hubs] s t)) ∧
  (∀ (s : State) (p : Fin 4) (w : HostWrite),
    s.out.inflight.find? (fun w => w.kind == WriteKind.trace && w.port == p.val && w.sent) = some w →
    Does (.traceRecordObserved p) s (fun t => (t.hport p).trace.tail = (s.hport p).trace.tail + 1 ∧
      (∀ v ∈ t.out.inflight, v.id ≠ w.id) ∧ SameBanks s t)) ∧
  (∀ (s : State) (p : Fin 4) (v : BitVec 32), Does (.trcctlWrite p v) s (fun t =>
    t.reg p rTRCCTL = trcctlAfter (s.reg p rTRCCTL) v.toNat ∧
    (flag (s.reg p rTRCCTL) 0 = false → flag (t.reg p rTRCCTL) 0 = true → (t.hport p).trace.drop = 0) ∧ Keeps [.regs, .ports] s t)) ∧
  (∀ s : State, Does .counterFreeze s (fun t => flag (t.reg 0 rPMCTL) 0 = true ∧ t.pm = s.pm ∧ Keeps [.regs] s t)) ∧
  (∀ s : State, Does .counterRestart s (fun t => flag (t.reg 0 rPMCTL) 0 = false ∧ t.pm = s.pm ∧ Keeps [.regs] s t)) ∧
  (∀ s : State, Does .counterClear s (fun t => (∀ k, (t.counter k).count = 0 ∧ flag (t.counter k).sel.toNat 15 = false) ∧
    t.regs = s.regs ∧ Keeps [.pm] s t)) ∧
  (∀ (s : State) (v : BitVec 32), s.writesAbsent rNBIDX v.toNat = false → field v.toNat 0 7 < 96 → Does (.nbidxWrite v) s (fun t => t.reg 0 rNBIDX = v.toNat % 2 ^ 11 ∧
    t.chan (16 * field v.toNat 0 7 + field v.toNat 7 4) = { s.chan (16 * field v.toNat 0 7 + field v.toNat 7 4) with maxWait := 0 } ∧
    Keeps [.regs, .chans] s t)) ∧
  (∀ (s : State) (v : BitVec 32), s.writesAbsent rNBIDX v.toNat = false → 96 ≤ field v.toNat 0 7 → Does (.nbidxWrite v) s (fun t => t.reg 0 rNBIDX = v.toNat % 2 ^ 11 ∧
    Keeps [.regs] s t)) ∧
  (∀ (s : State) (v : BitVec 32), s.writesAbsent rMEIDX v.toNat = false → Does (.meidxWrite v) s (fun t => t.reg 0 rMEIDX = v.toNat % 16 ∧
    t.mat (v.toNat % 16) = { s.mat (v.toNat % 16) with conflict := 0, fpqHold := 0 } ∧ Keeps [.regs, .me] s t)) ∧
  (∀ (s : State) (v : BitVec 32), s.writesAbsent rVEIDX v.toNat = false → Does (.veidxWrite v) s (fun t => t.reg 0 rVEIDX = v.toNat % 2 ^ 6 ∧
    t.vec (v.toNat % 16) = { s.vec (v.toNat % 16) with conflict := 0, fpqHold := 0 } ∧ Keeps [.regs, .ve] s t)) ∧
  (∀ (s : State) (v : BitVec 32), s.writesAbsent rFEIDX v.toNat = false → Does (.feidxWrite v) s (fun t => t.reg 0 rFEIDX = v.toNat % 2 ^ 10 ∧
    t.fchan (16 * field v.toNat 0 4 + field v.toNat 4 4) =
      { s.fchan (16 * field v.toNat 0 4 + field v.toNat 4 4) with bankHold := 0, ovWait := 0 } ∧ Keeps [.regs, .fe] s t)) ∧
  (∀ (s : State) (v : BitVec 32), s.writesAbsent rSQIDX v.toNat = false → Does (.sqidxWrite v) s (fun t => t.reg 0 rSQIDX = v.toNat % 2 ^ 14 ∧
    t.ctx (4 * field v.toNat 0 4 + field v.toNat 4 2) = { s.ctx (4 * field v.toNat 0 4 + field v.toNat 4 2) with miss := 0, stall := 0 } ∧
    Keeps [.regs, .ctxs] s t)) ∧
  (∀ (s : State) (v : BitVec 32), s.writesAbsent rCLKIDX v.toNat = false → Does (.clkidxWrite v) s (fun t => t.reg 0 rCLKIDX = v.toNat % 16 ∧
    t.hub (v.toNat % 16) = { s.hub (v.toNat % 16) with monMin := 0x7FF, monMax := 0, maxW := 0 } ∧ Keeps [.regs, .hubs] s t)) ∧
  (∀ (s : State) (v : BitVec 32), ∀ c ∈ [(Instr.nbidxWrite v, rNBIDX), (.meidxWrite v, rMEIDX), (.veidxWrite v, rVEIDX), (.feidxWrite v, rFEIDX),
    (.sqidxWrite v, rSQIDX), (.clkidxWrite v, rCLKIDX)], s.half = true → s.writesAbsent c.2 v.toNat = true → exec c.1 s = .next s)

/-- Register writes (00 R12 to R14; 02 R47, R73; 09 R382; 14 R527; 15 R566; 16 R634; 18 R709; 19 R727): a register takes its writable bits and
keeps its others, or ignores a value its table refuses; status bits written 1 clear; table windows write the selected entry, a
group's only while none of its instances is in flight; a set-up page takes its fields while EN is 0; and a port whose tile is
retired, and an offset that names no register, change nothing. -/
def Obligations.RegisterWritesComplete : Prop :=
  (∀ (s : State) (p : Fin 4) (o : BitVec 24) (v : BitVec 64) (r : RegRow) (x : Nat), (s.hport p).gone = false →
    (o.toNat < 0xB100 ∨ 0xB140 ≤ o.toNat) → regRow o.toNat = some r →
    takenValue s.half o.toNat (s.reg p o.toNat) (s.partBits o.toNat v.toNat) = some x → s.writesAbsent o.toNat v.toNat = false →
    ownRow o.toNat = false → (o.toNat = rHILCFG → (s.hport p).commit = false) →
    (o.toNat = rTRCBASE → flag (s.reg p rTRCCTL) 0 = false) →
    Does (.registerWrite p 0 o v) s (fun t => t.reg p o.toNat = rwMerge r (s.reg p o.toNat) x ∧
      (∀ q f, regKey q f ≠ regKey p o.toNat → t.reg q f = s.reg q f) ∧
      (o.toNat ∉ [rHILCFG, rPCCFG] → Keeps [.regs] s t) ∧ (o.toNat = rPCCFG → Keeps [.regs, .slots] s t) ∧ (o.toNat = rHILCFG → flag v.toNat 18 = true → (t.hport p).misroute = false))) ∧
  (∀ (s : State) (p : Fin 4) (o : BitVec 24) (v : BitVec 64), (s.hport p).gone = false → (o.toNat < 0xB100 ∨ 0xB140 ≤ o.toNat) →
    (regRow o.toNat).isSome = true → o.toNat ≠ rHILCFG → takenValue s.half o.toNat (s.reg p o.toNat) (s.partBits o.toNat v.toNat) = none ∨ s.writesAbsent o.toNat v.toNat = true →
    exec (.registerWrite p 0 o v) s = .next s) ∧
  (∀ (s : State) (p : Fin 4) (o : BitVec 24) (v : BitVec 64), (s.hport p).gone = false → regRow o.toNat = none →
    (o.toNat < 0xB100 ∨ 0xB140 ≤ o.toNat) →
    o.toNat ∉ [0x6010, 0xC02C, 0xC038, 0xC040, 0xC048, 0xF068, 0xE008] → exec (.registerWrite p 0 o v) s = .next s) ∧
  (∀ (s : State) (p : Fin 4) (vf : Fin 17) (o : BitVec 24) (v : BitVec 64), (s.hport p).gone = true →
    exec (.registerWrite p vf o v) s = .next s) ∧
  (∀ (s : State) (p : Fin 4) (v : BitVec 64), (s.hport p).gone = false →
    Does (.registerWrite p 0 0x6010 v) s (fun t =>
      (t.vfile (4 * s.cfg rVEIDX 0 4 + s.cfg rVEIDX 4 2)).exc =
        (s.vfile (4 * s.cfg rVEIDX 0 4 + s.cfg rVEIDX 4 2)).exc &&& ~~~ (BitVec.ofNat 7 v.toNat) ∧ Keeps [.vfiles] s t)) ∧
  (∀ (s : State) (p : Fin 4) (v : BitVec 64), (s.hport p).gone = false →
    Does (.registerWrite p 0 0xC02C v) s (fun t => t.admission (s.cfg rXADIDX 0 8) = BitVec.ofNat 32 (field v.toNat 0 20) ∧
      Keeps [.admits] s t)) ∧
  (∀ (s : State) (p : Fin 4) (v : BitVec 64), (s.hport p).gone = false → (s.group (s.cfg rGRPIDX 0 6)).insts = [] →
    Does (.registerWrite p 0 0xC038 v) s (fun t => (t.group (s.cfg rGRPIDX 0 6)).mods = v ∧
      (t.group (s.cfg rGRPIDX 0 6)).ctxs = (s.group (s.cfg rGRPIDX 0 6)).ctxs ∧ Keeps [.groups, .ctxs] s t) ∧
    Does (.registerWrite p 0 0xC040 v) s (fun t => (t.group (s.cfg rGRPIDX 0 6)).ctxs = (if s.half then v &&& 0xFFFFFFFF#64 else v) ∧
      (t.group (s.cfg rGRPIDX 0 6)).mods = (s.group (s.cfg rGRPIDX 0 6)).mods ∧ Keeps [.groups, .ctxs] s t) ∧
    Does (.registerWrite p 0 0xC048 v) s (fun t => (t.group (s.cfg rGRPIDX 0 6)).dat2 = BitVec.ofNat 32 (field v.toNat 0 29) ∧
      (t.group (s.cfg rGRPIDX 0 6)).mods = (s.group (s.cfg rGRPIDX 0 6)).mods ∧ Keeps [.groups, .ctxs] s t)) ∧
  (∀ (s : State) (p : Fin 4) (o : BitVec 24) (v : BitVec 64), o.toNat ∈ [0xC038, 0xC040, 0xC048] →
    (s.group (s.cfg rGRPIDX 0 6)).insts ≠ [] → exec (.registerWrite p 0 o v) s = .next s) ∧
  (∀ (s : State) (p : Fin 4) (v : BitVec 64), (s.hport p).gone = false → field v.toNat 0 16 = 0xC35A → flag v.toNat 16 = true →
    Does (.registerWrite p 0 0xE008 v) s (fun t => t.boot = { s.boot with want := some 2 } ∧ Keeps [.boot] s t)) ∧
  (∀ (s : State) (p : Fin 4) (v : BitVec 64) (k : Nat), (s.hport p).gone = false → k = 16 * s.cfg rPMIDX 0 4 + s.cfg rPMIDX 4 4 →
    Does (.registerWrite p 0 0xF068 v) s (fun t => field (t.counter k).sel.toNat 0 15 = field v.toNat 0 15 ∧
      flag (t.counter k).sel.toNat 15 = (flag (s.counter k).sel.toNat 15 && !flag v.toNat 15) ∧
      (t.counter k).count = (s.counter k).count ∧ Keeps [.pm] s t)) ∧
  (∀ (s : State) (p : Fin 4) (vf : Fin 17) (o : BitVec 24) (v : BitVec 64) (off : Nat), (s.hport p).gone = false →
    (vf.val = 0 ∧ 0xB100 ≤ o.toNat ∧ o.toNat < 0xB140 ∧ off = o.toNat - 0xB100) ∨
      (vf.val ≠ 0 ∧ (s.partOfPage (17 * p.val + vf.val)).isSome = true ∧ off = o.toNat) →
    Does (.registerWrite p vf o v) s (fun t => t.page (17 * p.val + vf.val) = (s.page (17 * p.val + vf.val)).write off v.toNat ∧
      ((s.page (17 * p.val + vf.val)).en = true → t.page (17 * p.val + vf.val) = s.page (17 * p.val + vf.val)) ∧ Keeps [.pages] s t)) ∧
  (∀ (s : State) (p : Fin 4) (vf : Fin 17) (o : BitVec 24) (v : BitVec 64), vf.val ≠ 0 →
    s.partOfPage (17 * p.val + vf.val) = none → exec (.registerWrite p vf o v) s = .next s)

/-- A step takes the command at the front of the queue: with `c` in front, it is `exec c` on the state with the queue's rest. -/
def Obligations.StepRunsTheFrontCommand : Prop :=
  ∀ (c : Instr) (s : State) (rest : List Instr), s.pending = c :: rest → step s = exec c { s with pending := rest }

/-- With no command waiting a step is one engine cycle (the model's choice: log entry 1): the cycle count goes up by one; the engines and
the ferry channels are served by the scratchpads' banks, and cell errors may come. No byte of the banks' memory, no register and no other part of
the state changes; of a hub, only who waits for its scratchpad and whose turn it is, and of a row, only its cell errors. -/
def Obligations.IdleStepIsOneCycle : Prop :=
  ∀ s : State, s.pending = [] → ∃ t, step s = .next t ∧ t.cyc = s.cyc + 1 ∧ t.pending = [] ∧
    (∀ i, t.hub i = { s.hub i with nbWords := (t.hub i).nbWords, ferryFirst := (t.hub i).ferryFirst }) ∧
    (∀ k, t.row k = { s.row k with errs := (t.row k).errs }) ∧
    Keeps [.cyc, .free, .rows, .hubs, .me, .ve, .vfiles, .fe, .sp, .spPois, .ctxs, .pm, .act] s t

/-- The state after reset: the banks in their canonical form, no command waiting, out of service, no context bound, no partition but
FREE ones, and the configuration registers at the values their tables give, on NGM9-4608-LC at its own (00 R3; 03 R118; 04 R163; 06 R269; 08 R337; 13 R522; 16 R634; 17 R665;
18 R709; 19 R727). -/
def Obligations.ResetStateIsCanonical : Prop :=
  State.reset.MemOk ∧ State.reset.pending = [] ∧ State.reset.boot.phase = 0 ∧ State.reset.power.on = false ∧
  (∀ c : Fin 64, (State.reset.ctx c).st = .unbound) ∧ (∀ p : Fin 64, (State.reset.part p).st = .free) ∧
  State.reset.reg 0 rPCCFG = 2 ∧ State.reset.reg 0 rSCRBCFG = 24 ∧ State.reset.reg 0 rSCRBTHR = 0x1003C84 ∧
  State.reset.reg 0 rNBCFG = 0x12 ∧ State.reset.reg 0 rMECFG = 0x4043C10 ∧ State.reset.reg 0 rSPLCFG = 0x30AA0AC ∧
  State.reset.reg 0 rXLCFG = 0xA0A53C ∧ State.reset.reg 0 rPGCFG = 0x4D2B4 ∧ State.reset.reg 0 rRCVCFG = 0x7A ∧
  State.resetHalf.MemOk ∧ State.resetHalf.pending = [] ∧ State.resetHalf.liveTiles = List.range 8 ∧
  State.resetHalf.reg 0 rSPLCFG = 0x30A5258 ∧ State.resetHalf.reg 0 rPGCFG = 0x46C5C ∧
  State.reset.reg 0 rTMCFG = 0x3E864 ∧ State.reset.reg 0 rPMCTL = 0 ∧ State.reset.reg 0 rCLKCFG = 0

/-- Every step keeps the banks in their canonical form, from whatever state has it: the bytes and poison marks rise by address and
list nothing that an unlisted address would read as. -/
def Obligations.BanksStayCanonical : Prop := ∀ s t : State, s.MemOk → step s = .next t → t.MemOk

/-- The frame of every command: whatever its operands and the state, a next state keeps every part of the state that `mayChange`
does not list for the command: the registers, banks, queues, contexts, tables and logs that the command has no business with. -/
def Obligations.FrameOfEveryCommand : Prop := ∀ (c : Instr) (s t : State), exec c s = .next t → Keeps (mayChange c) s t

/-- In service no command changes the hash masks in use: a new record waits for the next power-on (02 R69, R70). -/
def Obligations.HashMasksFixedInService : Prop :=
  ∀ (c : Instr) (s t : State), s.boot.phase = 15 → exec c s = .next t → t.boot.hashMask = s.boot.hashMask

/-- Until the end of probation the old bank stays marked active (18 R707): no command but the end of probation changes which bank is
active, and that one only while an image is on probation and does not fail. -/
def Obligations.OldImageActiveUntilProbationEnds : Prop :=
  ∀ (c : Instr) (s t : State), exec c s = .next t → t.fw.active ≠ s.fw.active → c = .probationEnd false ∧ s.fw.st = 3

/-- A running context that halts (11 R468, R469): it records its reason, part and step, has no step outstanding or queued and no
access in progress, issues no step command any more, and its START completes; contexts it meets in no group with stay as they
are. -/
def Obligations.HaltStopsAContext : Prop :=
  ∀ (s : State) (c reason fld n : Nat), (s.ctx c).st = .running →
    ((s.halt c reason fld n).ctx c).st = .halted ∧ ((s.halt c reason fld n).ctx c).reason = reason ∧
    ((s.halt c reason fld n).ctx c).hfield = fld ∧ ((s.halt c reason fld n).ctx c).hstep = n ∧
    ((s.halt c reason fld n).ctx c).outst = [] ∧ ((s.halt c reason fld n).ctx c).access = none ∧
    ((s.halt c reason fld n).ctx c).nbrun = none ∧ ((s.halt c reason fld n).ctx c).gq = none ∧
    ((s.halt c reason fld n).ctx c).start = none ∧
    (∀ e ∈ ((s.halt c reason fld n).mat (tileOfCtx c)).queue, e.ctx ≠ c) ∧
    (∀ e ∈ ((s.halt c reason fld n).vec (tileOfCtx c)).queue, e.ctx ≠ c) ∧
    (s.meets c = [] → ∀ d, d ≠ c → (s.halt c reason fld n).ctx d = s.ctx d) ∧
    SameBanks s (s.halt c reason fld n)

/-- A landing that goes down (16 R617): it carries nothing until it trains, no flit is left to resend, no route chooses it, and no
transaction is left on it. -/
def Obligations.LandingDownFailsItsTransactions : Prop :=
  ∀ (s : State) (l : Nat), ((s.landingDown l).landing l).up = false ∧ ((s.landingDown l).landing l).unack = [] ∧ (∀ x ∈ (s.landingDown l).xacts, x.land ≠ l) ∧
    (∀ d, l ∉ (s.landingDown l).routeLands d) ∧ SameBanks s (s.landingDown l)

/-- Near-bank commands outside near-bank mode, and NBE in it (06 R231): the command is ignored but for SEQERR in the units of the banks
it names, every unit of the channel for a command that names none; no alert is raised and nothing else changes. -/
def Obligations.NearBankCommandsOutsideTheirMode : Prop :=
  (∀ (s : State) (ch : Fin 1536) (rank : BitVec 5) (bank allr : Bool) (row q : BitVec 16) (data : BitVec 256)
      (beat : BitVec 272) (flips : List (Fin 48 × BitVec 272)) (reads : List (List (Fin 8 × BitVec 272))) (beats : List (BitVec 272))
      (mask : BitVec 8) (col : BitVec 6) (group : BitVec 3) (buf : BitVec 4),
    rank.toNat < 24 → (s.chan ch).mode ≠ .nearBank →
    ∀ p ∈ [(Instr.swt ch, allBanks), (.nrf ch, allBanks), (.bbq ch q, allBanks), (.bbw ch data flips, allBanks),
        (.ccl ch col, allBanks), (.aha ch rank bank row, [2 * rank.toNat + nat bank]), (.nnr ch rank bank, [2 * rank.toNat + nat bank]),
        (.acr ch rank bank group buf reads, [2 * rank.toNat + nat bank]), (.cfgw ch rank beat, rankBanks rank.toNat),
        (.str ch rank beats, rankBanks rank.toNat), (.acl ch rank allr mask, if allr then allBanks else rankBanks rank.toNat)],
      Does p.1 s (fun t => (∀ j ∈ p.2, (t.nbu (bankOf ch j)).seqerr = true) ∧
        (∀ b, (∀ j ∈ p.2, b ≠ bankOf ch j) → t.nbu b = s.nbu b) ∧ Keeps [.nbus] s t)) ∧
  (∀ (s : State) (ch : Fin 1536) (cmd : Instr), (cmd = .nbe ch ∧ (s.chan ch).mode = .nearBank) ∨ (cmd = .nbx ch ∧ (s.chan ch).mode = .conv) →
    Does cmd s (fun t => (∀ j, j < 48 → (t.nbu (bankOf ch j)).seqerr = true) ∧
      (∀ b, chanOfBank b ≠ ch.val → t.nbu b = s.nbu b) ∧ Keeps [.nbus] s t))

/-- A partial write's parity (03 R95): the old parity with the parity of what changed is the parity of the new row, at every
strength and for all data. -/
def Obligations.ParityUpdateEncodesTheRow : Prop :=
  ∀ t old new : Nat, parityUpdate t (pageParity t old) old new = pageParity t new

/-- Performance counters (19 R713, R714): while they run, each counter of a tile whose PMSEL names the event, and the partition where
it restricts to one, advances by the count modulo 2⁴⁸ and sets OVF when it wraps; every other counter, and every counter while
frozen, is as before. -/
def Obligations.CountersCount : Prop :=
  ∀ (s : State) (t ev n : Nat) (part : Option Nat), flag (s.reg 0 rPMCTL) 0 = false →
    (∀ i, i < 16 → field (s.counter (16 * t + i)).sel.toNat 0 8 = ev →
      (flag (s.counter (16 * t + i)).sel.toNat 14 = false ∨ part = some (field (s.counter (16 * t + i)).sel.toNat 8 6)) →
      ((s.count t ev part n).counter (16 * t + i)).count.toNat = ((s.counter (16 * t + i)).count.toNat + n) % 2 ^ 48 ∧
      flag ((s.count t ev part n).counter (16 * t + i)).sel.toNat 15 =
        (flag (s.counter (16 * t + i)).sel.toNat 15 || decide (2 ^ 48 ≤ (s.counter (16 * t + i)).count.toNat + n))) ∧
    (∀ k, (k < 16 * t ∨ 16 * t + 16 ≤ k ∨ field (s.counter k).sel.toNat 0 8 ≠ ev ∨
      (ev ∉ [0x0C, 0x0E, 0x0F] ∧ flag (s.counter k).sel.toNat 14 = true ∧ part ≠ some (field (s.counter k).sel.toNat 8 6))) →
      (s.count t ev part n).counter k = s.counter k) ∧
    (∀ u : State, flag (u.reg 0 rPMCTL) 0 = true → u.count t ev part n = u)

/-- A happening that finds the queue full is lost, and the 16-bit lost count advances and saturates; each commit takes the oldest
entry, carries the lost count as it stands then, and zeroes it (19 R717, R718). -/
def Obligations.FullBlackBoxQueueLosesHappenings : Prop :=
  (∀ (s : State) (i typ ctx : Nat) (part : Option Nat) (payload : List (Nat × Nat × Nat)), 64 ≤ (s.hub i).bb.queue.length →
    (s.hub i).bb.cur.isSome = true →
    ((s.bbox i typ part ctx payload).hub i).bb.queue = (s.hub i).bb.queue ∧
    ((s.bbox i typ part ctx payload).hub i).bb.lost = min ((s.hub i).bb.lost + 1) 65535) ∧
  (∀ (s : State) (i : Fin 16) (h g : Happening) (lost : Nat) (q : List Happening), (s.hub i).bb.cur = some (h, lost) →
    (s.hub i).bb.queue = g :: q → s.boxHeld i = false →
    Does (.blackBoxCommit i) s (fun t => (t.hub i).bb.cur = some (g, (s.hub i).bb.lost) ∧ (t.hub i).bb.lost = 0 ∧
      (t.hub i).bb.queue = q ∧ Keeps [.hubs] s t))

/-- Column bit c[0] is never a hash input, so both columns of a 64-byte line lie in the same bank and row (02 R35, R71), whatever
the masks and the map. -/
def Obligations.LineColumnsShareABank : Prop :=
  ∀ (s : State) (sa : Nat), sa % 64 = 0 → (s.locate (sa + 32)).moduleBank = (s.locate sa).moduleBank ∧
    (s.locate (sa + 32)).row = (s.locate sa).row ∧ (s.locate (sa + 32)).col = (s.locate sa).col + 1 ∧ (s.locate sa).col % 2 = 0

/-- The tile, the group index, the row and the column are never hash outputs, and the hash is its own inverse for any mask setting: the
parcel offset comes back from the physical location (02 R68). -/
def Obligations.HashIsItsOwnInverse : Prop :=
  ∀ (masks : List Nat) (p o : Nat), o < slotBytes → offsetOf masks (locOf masks p o) = o ∧
    (∀ other : List Nat, (locOf other p o).tile = (locOf masks p o).tile ∧ (locOf other p o).row = (locOf masks p o).row ∧
      (locOf other p o).col = (locOf masks p o).col ∧ (locOf other p o).stack / 2 = (locOf masks p o).stack / 2 ∧
      (locOf other p o).rank / 8 = (locOf masks p o).rank / 8)

/-- First start-up binds slot s to physical parcel (s mod 16) × 512 + s div 16, and leaves bands 448 to 511 of every tile as the
reserve (02 R53); on NGM9-4608-LC it is (s mod 8) × 512 + s div 8 over eight tiles (00 R3). -/
def Obligations.FirstBindingAndReserve : Prop :=
  (∀ i, i < 7168 → (State.reset.slot i).phys = i % 16 * 512 + i / 16) ∧
  (∀ p, p < 8192 → (State.reset.parcelFree p = true ↔ 448 ≤ p % 512)) ∧
  (∀ i, i < 3584 → (State.resetHalf.slot i).phys = i % 8 * 512 + i / 8) ∧
  (∀ p, p < 4096 → (State.resetHalf.parcelFree p = true ↔ 448 ≤ p % 512))
end

