-- ==== Sys2Proof/Laws/Keeps.lean ====
section
/-! SUPPORT. What each shared operation can change: one lemma an operation, and its use under further operations. -/

set_option linter.all false

namespace Sys2Proof.Machine

theorem Field.same_refl (f : Field) (s : State) : f.same s s := by cases f <;> rfl
theorem Field.same_trans (f : Field) {s t u : State} (h : f.same s t) (g : f.same t u) : f.same s u := by
  cases f <;> exact Eq.trans g h
theorem Keeps.refl (L : List Field) (s : State) : Keeps L s s := ⟨fun f _ => f.same_refl s⟩
theorem Keeps.via {L M : List Field} {s t u : State} (h : Keeps L s t) (g : Keeps M t u) (hl : M.all L.contains = true) : Keeps L s u := by
  refine ⟨fun f hf => f.same_trans (h.same f hf) (g.same f fun hm => hf ?_)⟩
  simpa using List.all_eq_true.1 hl f hm
theorem Keeps.foldl {α : Type} {L : List Field} (f : State → α → State) (h : ∀ s a, Keeps L s (f s a)) :
    ∀ (l : List α) (s : State), Keeps L s (l.foldl f s)
  | [], s => Keeps.refl L s
  | a :: l, s => Keeps.via (h s a) (Keeps.foldl f h l _) (by simp)
theorem Keeps.iff_of {L M : List Field} {s t u : State} (g : Keeps M t u) (hl : M.all L.contains = true) :
    Keeps L s u ↔ Keeps L s t := by
  have e : ∀ f, f ∉ L → f.same t u := fun f hf => g.same f fun hm => hf (by simpa using List.all_eq_true.1 hl f hm)
  constructor <;> intro h <;> constructor <;> intro f hf <;> have a := h.same f hf <;> have b := e f hf <;>
    cases f <;> first | exact Eq.trans b a | exact Eq.trans (Eq.symm b) a
theorem Keeps.self_iff (L : List Field) (s : State) : Keeps L s s ↔ True := iff_true_intro (Keeps.refl L s)
theorem Keeps.ite_iff {L : List Field} {s t u : State} {c : Prop} [Decidable c] :
    Keeps L s (if c then t else u) ↔ if c then Keeps L s t else Keeps L s u := by split <;> rfl
theorem Keeps.foldl_iff {α : Type} {L : List Field} (f : State → α → State) (l : List α) (s t : State) (h : ∀ s a, Keeps L s (f s a)) :
    Keeps L s (l.foldl f t) ↔ Keeps L s t := by
  induction l generalizing t with
  | nil => rfl
  | cons a l ih => rw [List.foldl_cons, ih]; exact Keeps.iff_of (h t a) (by simp)
theorem Keeps.ite {L : List Field} {s t u : State} {c : Prop} [Decidable c] (h : Keeps L s t) (g : Keeps L s u) : Keeps L s (if c then t else u) := by
  split <;> assumption
theorem Keeps.mono {L M : List Field} {s t : State} (h : Keeps M s t) (hl : M.all L.contains = true) : Keeps L s t :=
  (Keeps.iff_of h hl).2 (Keeps.refl L s)
theorem Keeps.foldl_fst_iff {α β : Type} {L : List Field} (f : State × β → α → State × β) (l : List α) (s : State) (p : State × β)
    (h : ∀ p a, Keeps L p.1 (f p a).1) : Keeps L s (l.foldl f p).1 ↔ Keeps L s p.1 := by
  induction l generalizing p with
  | nil => rfl
  | cons a l ih => rw [List.foldl_cons, ih]; exact Keeps.iff_of (h p a) (by simp)
theorem Keeps.foldl_snd_iff {α β : Type} {L : List Field} (f : β × State → α → β × State) (l : List α) (s : State) (p : β × State)
    (h : ∀ p a, Keeps L p.2 (f p a).2) : Keeps L s (l.foldl f p).2 ↔ Keeps L s p.2 := by
  induction l generalizing p with
  | nil => rfl
  | cons a l ih => rw [List.foldl_cons, ih]; exact Keeps.iff_of (h p a) (by simp)

theorem Keeps.with_pending (s : State) v : Keeps [.pending] s { s with pending := v } := by constructor; intro x hx; cases x <;> first | rfl | exact absurd List.mem_cons_self hx
theorem Keeps.with_cyc (s : State) v : Keeps [.cyc] s { s with cyc := v } := by constructor; intro x hx; cases x <;> first | rfl | exact absurd List.mem_cons_self hx
theorem Keeps.with_free (s : State) v : Keeps [.free] s { s with free := v } := by constructor; intro x hx; cases x <;> first | rfl | exact absurd List.mem_cons_self hx
theorem Keeps.with_half (s : State) v : Keeps [.half] s { s with half := v } := by constructor; intro x hx; cases x <;> first | rfl | exact absurd List.mem_cons_self hx
theorem Keeps.with_regs (s : State) v : Keeps [.regs] s { s with regs := v } := by constructor; intro x hx; cases x <;> first | rfl | exact absurd List.mem_cons_self hx
theorem Keeps.with_boot (s : State) v : Keeps [.boot] s { s with boot := v } := by constructor; intro x hx; cases x <;> first | rfl | exact absurd List.mem_cons_self hx
theorem Keeps.with_power (s : State) v : Keeps [.power] s { s with power := v } := by constructor; intro x hx; cases x <;> first | rfl | exact absurd List.mem_cons_self hx
theorem Keeps.with_slots (s : State) v : Keeps [.slots] s { s with slots := v } := by constructor; intro x hx; cases x <;> first | rfl | exact absurd List.mem_cons_self hx
theorem Keeps.with_parcels (s : State) v : Keeps [.parcels] s { s with parcels := v } := by constructor; intro x hx; cases x <;> first | rfl | exact absurd List.mem_cons_self hx
theorem Keeps.with_mem (s : State) v : Keeps [.mem] s { s with mem := v } := by constructor; intro x hx; cases x <;> first | rfl | exact absurd List.mem_cons_self hx
theorem Keeps.with_pois (s : State) v : Keeps [.pois] s { s with pois := v } := by constructor; intro x hx; cases x <;> first | rfl | exact absurd List.mem_cons_self hx
theorem Keeps.with_rows (s : State) v : Keeps [.rows] s { s with rows := v } := by constructor; intro x hx; cases x <;> first | rfl | exact absurd List.mem_cons_self hx
theorem Keeps.with_bspares (s : State) v : Keeps [.bspares] s { s with bspares := v } := by constructor; intro x hx; cases x <;> first | rfl | exact absurd List.mem_cons_self hx
theorem Keeps.with_stks (s : State) v : Keeps [.stks] s { s with stks := v } := by constructor; intro x hx; cases x <;> first | rfl | exact absurd List.mem_cons_self hx
theorem Keeps.with_chans (s : State) v : Keeps [.chans] s { s with chans := v } := by constructor; intro x hx; cases x <;> first | rfl | exact absurd List.mem_cons_self hx
theorem Keeps.with_nbus (s : State) v : Keeps [.nbus] s { s with nbus := v } := by constructor; intro x hx; cases x <;> first | rfl | exact absurd List.mem_cons_self hx
theorem Keeps.with_crus (s : State) v : Keeps [.crus] s { s with crus := v } := by constructor; intro x hx; cases x <;> first | rfl | exact absurd List.mem_cons_self hx
theorem Keeps.with_hubs (s : State) v : Keeps [.hubs] s { s with hubs := v } := by constructor; intro x hx; cases x <;> first | rfl | exact absurd List.mem_cons_self hx
theorem Keeps.with_me (s : State) v : Keeps [.me] s { s with me := v } := by constructor; intro x hx; cases x <;> first | rfl | exact absurd List.mem_cons_self hx
theorem Keeps.with_ve (s : State) v : Keeps [.ve] s { s with ve := v } := by constructor; intro x hx; cases x <;> first | rfl | exact absurd List.mem_cons_self hx
theorem Keeps.with_vfiles (s : State) v : Keeps [.vfiles] s { s with vfiles := v } := by constructor; intro x hx; cases x <;> first | rfl | exact absurd List.mem_cons_self hx
theorem Keeps.with_fe (s : State) v : Keeps [.fe] s { s with fe := v } := by constructor; intro x hx; cases x <;> first | rfl | exact absurd List.mem_cons_self hx
theorem Keeps.with_sp (s : State) v : Keeps [.sp] s { s with sp := v } := by constructor; intro x hx; cases x <;> first | rfl | exact absurd List.mem_cons_self hx
theorem Keeps.with_spPois (s : State) v : Keeps [.spPois] s { s with spPois := v } := by constructor; intro x hx; cases x <;> first | rfl | exact absurd List.mem_cons_self hx
theorem Keeps.with_ctxs (s : State) v : Keeps [.ctxs] s { s with ctxs := v } := by constructor; intro x hx; cases x <;> first | rfl | exact absurd List.mem_cons_self hx
theorem Keeps.with_parts (s : State) v : Keeps [.parts] s { s with parts := v } := by constructor; intro x hx; cases x <;> first | rfl | exact absurd List.mem_cons_self hx
theorem Keeps.with_pages (s : State) v : Keeps [.pages] s { s with pages := v } := by constructor; intro x hx; cases x <;> first | rfl | exact absurd List.mem_cons_self hx
theorem Keeps.with_streams (s : State) v : Keeps [.streams] s { s with streams := v } := by constructor; intro x hx; cases x <;> first | rfl | exact absurd List.mem_cons_self hx
theorem Keeps.with_ports (s : State) v : Keeps [.ports] s { s with ports := v } := by constructor; intro x hx; cases x <;> first | rfl | exact absurd List.mem_cons_self hx
theorem Keeps.with_dirs (s : State) v : Keeps [.dirs] s { s with dirs := v } := by constructor; intro x hx; cases x <;> first | rfl | exact absurd List.mem_cons_self hx
theorem Keeps.with_lines (s : State) v : Keeps [.lines] s { s with lines := v } := by constructor; intro x hx; cases x <;> first | rfl | exact absurd List.mem_cons_self hx
theorem Keeps.with_trans (s : State) v : Keeps [.trans] s { s with trans := v } := by constructor; intro x hx; cases x <;> first | rfl | exact absurd List.mem_cons_self hx
theorem Keeps.with_lands (s : State) v : Keeps [.lands] s { s with lands := v } := by constructor; intro x hx; cases x <;> first | rfl | exact absurd List.mem_cons_self hx
theorem Keeps.with_xacts (s : State) v : Keeps [.xacts] s { s with xacts := v } := by constructor; intro x hx; cases x <;> first | rfl | exact absurd List.mem_cons_self hx
theorem Keeps.with_routes (s : State) v : Keeps [.routes] s { s with routes := v } := by constructor; intro x hx; cases x <;> first | rfl | exact absurd List.mem_cons_self hx
theorem Keeps.with_admits (s : State) v : Keeps [.admits] s { s with admits := v } := by constructor; intro x hx; cases x <;> first | rfl | exact absurd List.mem_cons_self hx
theorem Keeps.with_groups (s : State) v : Keeps [.groups] s { s with groups := v } := by constructor; intro x hx; cases x <;> first | rfl | exact absurd List.mem_cons_self hx
theorem Keeps.with_fw (s : State) v : Keeps [.fw] s { s with fw := v } := by constructor; intro x hx; cases x <;> first | rfl | exact absurd List.mem_cons_self hx
theorem Keeps.with_logs (s : State) v : Keeps [.logs] s { s with logs := v } := by constructor; intro x hx; cases x <;> first | rfl | exact absurd List.mem_cons_self hx
theorem Keeps.with_pm (s : State) v : Keeps [.pm] s { s with pm := v } := by constructor; intro x hx; cases x <;> first | rfl | exact absurd List.mem_cons_self hx
theorem Keeps.with_tmap (s : State) v : Keeps [.tmap] s { s with tmap := v } := by constructor; intro x hx; cases x <;> first | rfl | exact absurd List.mem_cons_self hx
theorem Keeps.with_act (s : State) v : Keeps [.act] s { s with act := v } := by constructor; intro x hx; cases x <;> first | rfl | exact absurd List.mem_cons_self hx
theorem Keeps.with_out (s : State) v : Keeps [.out] s { s with out := v } := by constructor; intro x hx; cases x <;> first | rfl | exact absurd List.mem_cons_self hx
theorem Keeps.modSlot (s : State) k g : Keeps [.slots] s (s.modSlot k g) := Keeps.with_slots s _
theorem Keeps.modParcel (s : State) k g : Keeps [.parcels] s (s.modParcel k g) := Keeps.with_parcels s _
theorem Keeps.modMemByte (s : State) k g : Keeps [.mem] s (s.modMemByte k g) := Keeps.with_mem s _
theorem Keeps.modColBad (s : State) k g : Keeps [.pois] s (s.modColBad k g) := Keeps.with_pois s _
theorem Keeps.modRow (s : State) k g : Keeps [.rows] s (s.modRow k g) := Keeps.with_rows s _
theorem Keeps.modBspare (s : State) k g : Keeps [.bspares] s (s.modBspare k g) := Keeps.with_bspares s _
theorem Keeps.modStack (s : State) k g : Keeps [.stks] s (s.modStack k g) := Keeps.with_stks s _
theorem Keeps.modChan (s : State) k g : Keeps [.chans] s (s.modChan k g) := Keeps.with_chans s _
theorem Keeps.modNbu (s : State) k g : Keeps [.nbus] s (s.modNbu k g) := Keeps.with_nbus s _
theorem Keeps.modCru (s : State) k g : Keeps [.crus] s (s.modCru k g) := Keeps.with_crus s _
theorem Keeps.modHub (s : State) k g : Keeps [.hubs] s (s.modHub k g) := Keeps.with_hubs s _
theorem Keeps.modMat (s : State) k g : Keeps [.me] s (s.modMat k g) := Keeps.with_me s _
theorem Keeps.modVec (s : State) k g : Keeps [.ve] s (s.modVec k g) := Keeps.with_ve s _
theorem Keeps.modVfile (s : State) k g : Keeps [.vfiles] s (s.modVfile k g) := Keeps.with_vfiles s _
theorem Keeps.modFchan (s : State) k g : Keeps [.fe] s (s.modFchan k g) := Keeps.with_fe s _
theorem Keeps.modSpByte (s : State) k g : Keeps [.sp] s (s.modSpByte k g) := Keeps.with_sp s _
theorem Keeps.modSpBad (s : State) k g : Keeps [.spPois] s (s.modSpBad k g) := Keeps.with_spPois s _
theorem Keeps.modCtx (s : State) k g : Keeps [.ctxs] s (s.modCtx k g) := Keeps.with_ctxs s _
theorem Keeps.modPart (s : State) k g : Keeps [.parts] s (s.modPart k g) := Keeps.with_parts s _
theorem Keeps.modPage (s : State) k g : Keeps [.pages] s (s.modPage k g) := Keeps.with_pages s _
theorem Keeps.modStream (s : State) k g : Keeps [.streams] s (s.modStream k g) := Keeps.with_streams s _
theorem Keeps.modHport (s : State) k g : Keeps [.ports] s (s.modHport k g) := Keeps.with_ports s _
theorem Keeps.modDir (s : State) k g : Keeps [.dirs] s (s.modDir k g) := Keeps.with_dirs s _
theorem Keeps.modTran (s : State) k g : Keeps [.trans] s (s.modTran k g) := Keeps.with_trans s _
theorem Keeps.modLanding (s : State) k g : Keeps [.lands] s (s.modLanding k g) := Keeps.with_lands s _
theorem Keeps.modRoute (s : State) k g : Keeps [.routes] s (s.modRoute k g) := Keeps.with_routes s _
theorem Keeps.modAdmit (s : State) k g : Keeps [.admits] s (s.modAdmit k g) := Keeps.with_admits s _
theorem Keeps.modGroup (s : State) k g : Keeps [.groups] s (s.modGroup k g) := Keeps.with_groups s _
theorem Keeps.modCounter (s : State) k g : Keeps [.pm] s (s.modCounter k g) := Keeps.with_pm s _
theorem Keeps.putCyc (s : State) v : Keeps [.cyc] s (s.putCyc v) := Keeps.with_cyc s v
theorem Keeps.putFree (s : State) v : Keeps [.free] s (s.putFree v) := Keeps.with_free s v
theorem Keeps.putRegs (s : State) v : Keeps [.regs] s (s.putRegs v) := Keeps.with_regs s v
theorem Keeps.putBoot (s : State) v : Keeps [.boot] s (s.putBoot v) := Keeps.with_boot s v
theorem Keeps.putPower (s : State) v : Keeps [.power] s (s.putPower v) := Keeps.with_power s v
theorem Keeps.putSlots (s : State) v : Keeps [.slots] s (s.putSlots v) := Keeps.with_slots s v
theorem Keeps.putParcels (s : State) v : Keeps [.parcels] s (s.putParcels v) := Keeps.with_parcels s v
theorem Keeps.putMem (s : State) v : Keeps [.mem] s (s.putMem v) := Keeps.with_mem s v
theorem Keeps.putPois (s : State) v : Keeps [.pois] s (s.putPois v) := Keeps.with_pois s v
theorem Keeps.putRows (s : State) v : Keeps [.rows] s (s.putRows v) := Keeps.with_rows s v
theorem Keeps.putBspares (s : State) v : Keeps [.bspares] s (s.putBspares v) := Keeps.with_bspares s v
theorem Keeps.putStks (s : State) v : Keeps [.stks] s (s.putStks v) := Keeps.with_stks s v
theorem Keeps.putChans (s : State) v : Keeps [.chans] s (s.putChans v) := Keeps.with_chans s v
theorem Keeps.putNbus (s : State) v : Keeps [.nbus] s (s.putNbus v) := Keeps.with_nbus s v
theorem Keeps.putCrus (s : State) v : Keeps [.crus] s (s.putCrus v) := Keeps.with_crus s v
theorem Keeps.putHubs (s : State) v : Keeps [.hubs] s (s.putHubs v) := Keeps.with_hubs s v
theorem Keeps.putFe (s : State) v : Keeps [.fe] s (s.putFe v) := Keeps.with_fe s v
theorem Keeps.putSp (s : State) v : Keeps [.sp] s (s.putSp v) := Keeps.with_sp s v
theorem Keeps.putSpPois (s : State) v : Keeps [.spPois] s (s.putSpPois v) := Keeps.with_spPois s v
theorem Keeps.putCtxs (s : State) v : Keeps [.ctxs] s (s.putCtxs v) := Keeps.with_ctxs s v
theorem Keeps.putParts (s : State) v : Keeps [.parts] s (s.putParts v) := Keeps.with_parts s v
theorem Keeps.putPages (s : State) v : Keeps [.pages] s (s.putPages v) := Keeps.with_pages s v
theorem Keeps.putPorts (s : State) v : Keeps [.ports] s (s.putPorts v) := Keeps.with_ports s v
theorem Keeps.putLines (s : State) v : Keeps [.lines] s (s.putLines v) := Keeps.with_lines s v
theorem Keeps.putTrans (s : State) v : Keeps [.trans] s (s.putTrans v) := Keeps.with_trans s v
theorem Keeps.putXacts (s : State) v : Keeps [.xacts] s (s.putXacts v) := Keeps.with_xacts s v
theorem Keeps.putFw (s : State) v : Keeps [.fw] s (s.putFw v) := Keeps.with_fw s v
theorem Keeps.putLogs (s : State) v : Keeps [.logs] s (s.putLogs v) := Keeps.with_logs s v
theorem Keeps.putAct (s : State) v : Keeps [.act] s (s.putAct v) := Keeps.with_act s v
theorem Keeps.putPm (s : State) v : Keeps [.pm] s (s.putPm v) := Keeps.with_pm s v
theorem Keeps.putTmap (s : State) v : Keeps [.tmap] s (s.putTmap v) := Keeps.with_tmap s v
theorem Keeps.putOut (s : State) v : Keeps [.out] s (s.putOut v) := Keeps.with_out s v
theorem Keeps.modSlot_iff {L : List Field} (s0 s : State) k g (h : [Field.slots].all L.contains = true) : Keeps L s0 (s.modSlot k g) ↔ Keeps L s0 s := Keeps.iff_of (Keeps.modSlot s k g) h
theorem Keeps.modParcel_iff {L : List Field} (s0 s : State) k g (h : [Field.parcels].all L.contains = true) : Keeps L s0 (s.modParcel k g) ↔ Keeps L s0 s := Keeps.iff_of (Keeps.modParcel s k g) h
theorem Keeps.modMemByte_iff {L : List Field} (s0 s : State) k g (h : [Field.mem].all L.contains = true) : Keeps L s0 (s.modMemByte k g) ↔ Keeps L s0 s := Keeps.iff_of (Keeps.modMemByte s k g) h
theorem Keeps.modColBad_iff {L : List Field} (s0 s : State) k g (h : [Field.pois].all L.contains = true) : Keeps L s0 (s.modColBad k g) ↔ Keeps L s0 s := Keeps.iff_of (Keeps.modColBad s k g) h
theorem Keeps.modRow_iff {L : List Field} (s0 s : State) k g (h : [Field.rows].all L.contains = true) : Keeps L s0 (s.modRow k g) ↔ Keeps L s0 s := Keeps.iff_of (Keeps.modRow s k g) h
theorem Keeps.modBspare_iff {L : List Field} (s0 s : State) k g (h : [Field.bspares].all L.contains = true) : Keeps L s0 (s.modBspare k g) ↔ Keeps L s0 s := Keeps.iff_of (Keeps.modBspare s k g) h
theorem Keeps.modStack_iff {L : List Field} (s0 s : State) k g (h : [Field.stks].all L.contains = true) : Keeps L s0 (s.modStack k g) ↔ Keeps L s0 s := Keeps.iff_of (Keeps.modStack s k g) h
theorem Keeps.modChan_iff {L : List Field} (s0 s : State) k g (h : [Field.chans].all L.contains = true) : Keeps L s0 (s.modChan k g) ↔ Keeps L s0 s := Keeps.iff_of (Keeps.modChan s k g) h
theorem Keeps.modNbu_iff {L : List Field} (s0 s : State) k g (h : [Field.nbus].all L.contains = true) : Keeps L s0 (s.modNbu k g) ↔ Keeps L s0 s := Keeps.iff_of (Keeps.modNbu s k g) h
theorem Keeps.modCru_iff {L : List Field} (s0 s : State) k g (h : [Field.crus].all L.contains = true) : Keeps L s0 (s.modCru k g) ↔ Keeps L s0 s := Keeps.iff_of (Keeps.modCru s k g) h
theorem Keeps.modHub_iff {L : List Field} (s0 s : State) k g (h : [Field.hubs].all L.contains = true) : Keeps L s0 (s.modHub k g) ↔ Keeps L s0 s := Keeps.iff_of (Keeps.modHub s k g) h
theorem Keeps.modMat_iff {L : List Field} (s0 s : State) k g (h : [Field.me].all L.contains = true) : Keeps L s0 (s.modMat k g) ↔ Keeps L s0 s := Keeps.iff_of (Keeps.modMat s k g) h
theorem Keeps.modVec_iff {L : List Field} (s0 s : State) k g (h : [Field.ve].all L.contains = true) : Keeps L s0 (s.modVec k g) ↔ Keeps L s0 s := Keeps.iff_of (Keeps.modVec s k g) h
theorem Keeps.modVfile_iff {L : List Field} (s0 s : State) k g (h : [Field.vfiles].all L.contains = true) : Keeps L s0 (s.modVfile k g) ↔ Keeps L s0 s := Keeps.iff_of (Keeps.modVfile s k g) h
theorem Keeps.modFchan_iff {L : List Field} (s0 s : State) k g (h : [Field.fe].all L.contains = true) : Keeps L s0 (s.modFchan k g) ↔ Keeps L s0 s := Keeps.iff_of (Keeps.modFchan s k g) h
theorem Keeps.modSpByte_iff {L : List Field} (s0 s : State) k g (h : [Field.sp].all L.contains = true) : Keeps L s0 (s.modSpByte k g) ↔ Keeps L s0 s := Keeps.iff_of (Keeps.modSpByte s k g) h
theorem Keeps.modSpBad_iff {L : List Field} (s0 s : State) k g (h : [Field.spPois].all L.contains = true) : Keeps L s0 (s.modSpBad k g) ↔ Keeps L s0 s := Keeps.iff_of (Keeps.modSpBad s k g) h
theorem Keeps.modCtx_iff {L : List Field} (s0 s : State) k g (h : [Field.ctxs].all L.contains = true) : Keeps L s0 (s.modCtx k g) ↔ Keeps L s0 s := Keeps.iff_of (Keeps.modCtx s k g) h
theorem Keeps.modPart_iff {L : List Field} (s0 s : State) k g (h : [Field.parts].all L.contains = true) : Keeps L s0 (s.modPart k g) ↔ Keeps L s0 s := Keeps.iff_of (Keeps.modPart s k g) h
theorem Keeps.modPage_iff {L : List Field} (s0 s : State) k g (h : [Field.pages].all L.contains = true) : Keeps L s0 (s.modPage k g) ↔ Keeps L s0 s := Keeps.iff_of (Keeps.modPage s k g) h
theorem Keeps.modStream_iff {L : List Field} (s0 s : State) k g (h : [Field.streams].all L.contains = true) : Keeps L s0 (s.modStream k g) ↔ Keeps L s0 s := Keeps.iff_of (Keeps.modStream s k g) h
theorem Keeps.modHport_iff {L : List Field} (s0 s : State) k g (h : [Field.ports].all L.contains = true) : Keeps L s0 (s.modHport k g) ↔ Keeps L s0 s := Keeps.iff_of (Keeps.modHport s k g) h
theorem Keeps.modDir_iff {L : List Field} (s0 s : State) k g (h : [Field.dirs].all L.contains = true) : Keeps L s0 (s.modDir k g) ↔ Keeps L s0 s := Keeps.iff_of (Keeps.modDir s k g) h
theorem Keeps.modTran_iff {L : List Field} (s0 s : State) k g (h : [Field.trans].all L.contains = true) : Keeps L s0 (s.modTran k g) ↔ Keeps L s0 s := Keeps.iff_of (Keeps.modTran s k g) h
theorem Keeps.modLanding_iff {L : List Field} (s0 s : State) k g (h : [Field.lands].all L.contains = true) : Keeps L s0 (s.modLanding k g) ↔ Keeps L s0 s := Keeps.iff_of (Keeps.modLanding s k g) h
theorem Keeps.modRoute_iff {L : List Field} (s0 s : State) k g (h : [Field.routes].all L.contains = true) : Keeps L s0 (s.modRoute k g) ↔ Keeps L s0 s := Keeps.iff_of (Keeps.modRoute s k g) h
theorem Keeps.modAdmit_iff {L : List Field} (s0 s : State) k g (h : [Field.admits].all L.contains = true) : Keeps L s0 (s.modAdmit k g) ↔ Keeps L s0 s := Keeps.iff_of (Keeps.modAdmit s k g) h
theorem Keeps.modGroup_iff {L : List Field} (s0 s : State) k g (h : [Field.groups].all L.contains = true) : Keeps L s0 (s.modGroup k g) ↔ Keeps L s0 s := Keeps.iff_of (Keeps.modGroup s k g) h
theorem Keeps.modCounter_iff {L : List Field} (s0 s : State) k g (h : [Field.pm].all L.contains = true) : Keeps L s0 (s.modCounter k g) ↔ Keeps L s0 s := Keeps.iff_of (Keeps.modCounter s k g) h
theorem Keeps.putCyc_iff {L : List Field} (s0 s : State) v (h : [Field.cyc].all L.contains = true) : Keeps L s0 (s.putCyc v) ↔ Keeps L s0 s := Keeps.iff_of (Keeps.putCyc s v) h
theorem Keeps.putFree_iff {L : List Field} (s0 s : State) v (h : [Field.free].all L.contains = true) : Keeps L s0 (s.putFree v) ↔ Keeps L s0 s := Keeps.iff_of (Keeps.putFree s v) h
theorem Keeps.putRegs_iff {L : List Field} (s0 s : State) v (h : [Field.regs].all L.contains = true) : Keeps L s0 (s.putRegs v) ↔ Keeps L s0 s := Keeps.iff_of (Keeps.putRegs s v) h
theorem Keeps.putBoot_iff {L : List Field} (s0 s : State) v (h : [Field.boot].all L.contains = true) : Keeps L s0 (s.putBoot v) ↔ Keeps L s0 s := Keeps.iff_of (Keeps.putBoot s v) h
theorem Keeps.putPower_iff {L : List Field} (s0 s : State) v (h : [Field.power].all L.contains = true) : Keeps L s0 (s.putPower v) ↔ Keeps L s0 s := Keeps.iff_of (Keeps.putPower s v) h
theorem Keeps.putSlots_iff {L : List Field} (s0 s : State) v (h : [Field.slots].all L.contains = true) : Keeps L s0 (s.putSlots v) ↔ Keeps L s0 s := Keeps.iff_of (Keeps.putSlots s v) h
theorem Keeps.putParcels_iff {L : List Field} (s0 s : State) v (h : [Field.parcels].all L.contains = true) : Keeps L s0 (s.putParcels v) ↔ Keeps L s0 s := Keeps.iff_of (Keeps.putParcels s v) h
theorem Keeps.putMem_iff {L : List Field} (s0 s : State) v (h : [Field.mem].all L.contains = true) : Keeps L s0 (s.putMem v) ↔ Keeps L s0 s := Keeps.iff_of (Keeps.putMem s v) h
theorem Keeps.putPois_iff {L : List Field} (s0 s : State) v (h : [Field.pois].all L.contains = true) : Keeps L s0 (s.putPois v) ↔ Keeps L s0 s := Keeps.iff_of (Keeps.putPois s v) h
theorem Keeps.putRows_iff {L : List Field} (s0 s : State) v (h : [Field.rows].all L.contains = true) : Keeps L s0 (s.putRows v) ↔ Keeps L s0 s := Keeps.iff_of (Keeps.putRows s v) h
theorem Keeps.putBspares_iff {L : List Field} (s0 s : State) v (h : [Field.bspares].all L.contains = true) : Keeps L s0 (s.putBspares v) ↔ Keeps L s0 s := Keeps.iff_of (Keeps.putBspares s v) h
theorem Keeps.putStks_iff {L : List Field} (s0 s : State) v (h : [Field.stks].all L.contains = true) : Keeps L s0 (s.putStks v) ↔ Keeps L s0 s := Keeps.iff_of (Keeps.putStks s v) h
theorem Keeps.putChans_iff {L : List Field} (s0 s : State) v (h : [Field.chans].all L.contains = true) : Keeps L s0 (s.putChans v) ↔ Keeps L s0 s := Keeps.iff_of (Keeps.putChans s v) h
theorem Keeps.putNbus_iff {L : List Field} (s0 s : State) v (h : [Field.nbus].all L.contains = true) : Keeps L s0 (s.putNbus v) ↔ Keeps L s0 s := Keeps.iff_of (Keeps.putNbus s v) h
theorem Keeps.putCrus_iff {L : List Field} (s0 s : State) v (h : [Field.crus].all L.contains = true) : Keeps L s0 (s.putCrus v) ↔ Keeps L s0 s := Keeps.iff_of (Keeps.putCrus s v) h
theorem Keeps.putHubs_iff {L : List Field} (s0 s : State) v (h : [Field.hubs].all L.contains = true) : Keeps L s0 (s.putHubs v) ↔ Keeps L s0 s := Keeps.iff_of (Keeps.putHubs s v) h
theorem Keeps.putFe_iff {L : List Field} (s0 s : State) v (h : [Field.fe].all L.contains = true) : Keeps L s0 (s.putFe v) ↔ Keeps L s0 s := Keeps.iff_of (Keeps.putFe s v) h
theorem Keeps.putSp_iff {L : List Field} (s0 s : State) v (h : [Field.sp].all L.contains = true) : Keeps L s0 (s.putSp v) ↔ Keeps L s0 s := Keeps.iff_of (Keeps.putSp s v) h
theorem Keeps.putSpPois_iff {L : List Field} (s0 s : State) v (h : [Field.spPois].all L.contains = true) : Keeps L s0 (s.putSpPois v) ↔ Keeps L s0 s := Keeps.iff_of (Keeps.putSpPois s v) h
theorem Keeps.putCtxs_iff {L : List Field} (s0 s : State) v (h : [Field.ctxs].all L.contains = true) : Keeps L s0 (s.putCtxs v) ↔ Keeps L s0 s := Keeps.iff_of (Keeps.putCtxs s v) h
theorem Keeps.putParts_iff {L : List Field} (s0 s : State) v (h : [Field.parts].all L.contains = true) : Keeps L s0 (s.putParts v) ↔ Keeps L s0 s := Keeps.iff_of (Keeps.putParts s v) h
theorem Keeps.putPages_iff {L : List Field} (s0 s : State) v (h : [Field.pages].all L.contains = true) : Keeps L s0 (s.putPages v) ↔ Keeps L s0 s := Keeps.iff_of (Keeps.putPages s v) h
theorem Keeps.putPorts_iff {L : List Field} (s0 s : State) v (h : [Field.ports].all L.contains = true) : Keeps L s0 (s.putPorts v) ↔ Keeps L s0 s := Keeps.iff_of (Keeps.putPorts s v) h
theorem Keeps.putLines_iff {L : List Field} (s0 s : State) v (h : [Field.lines].all L.contains = true) : Keeps L s0 (s.putLines v) ↔ Keeps L s0 s := Keeps.iff_of (Keeps.putLines s v) h
theorem Keeps.putTrans_iff {L : List Field} (s0 s : State) v (h : [Field.trans].all L.contains = true) : Keeps L s0 (s.putTrans v) ↔ Keeps L s0 s := Keeps.iff_of (Keeps.putTrans s v) h
theorem Keeps.putXacts_iff {L : List Field} (s0 s : State) v (h : [Field.xacts].all L.contains = true) : Keeps L s0 (s.putXacts v) ↔ Keeps L s0 s := Keeps.iff_of (Keeps.putXacts s v) h
theorem Keeps.putFw_iff {L : List Field} (s0 s : State) v (h : [Field.fw].all L.contains = true) : Keeps L s0 (s.putFw v) ↔ Keeps L s0 s := Keeps.iff_of (Keeps.putFw s v) h
theorem Keeps.putLogs_iff {L : List Field} (s0 s : State) v (h : [Field.logs].all L.contains = true) : Keeps L s0 (s.putLogs v) ↔ Keeps L s0 s := Keeps.iff_of (Keeps.putLogs s v) h
theorem Keeps.putAct_iff {L : List Field} (s0 s : State) v (h : [Field.act].all L.contains = true) : Keeps L s0 (s.putAct v) ↔ Keeps L s0 s := Keeps.iff_of (Keeps.putAct s v) h
theorem Keeps.putPm_iff {L : List Field} (s0 s : State) v (h : [Field.pm].all L.contains = true) : Keeps L s0 (s.putPm v) ↔ Keeps L s0 s := Keeps.iff_of (Keeps.putPm s v) h
theorem Keeps.putTmap_iff {L : List Field} (s0 s : State) v (h : [Field.tmap].all L.contains = true) : Keeps L s0 (s.putTmap v) ↔ Keeps L s0 s := Keeps.iff_of (Keeps.putTmap s v) h
theorem Keeps.putOut_iff {L : List Field} (s0 s : State) v (h : [Field.out].all L.contains = true) : Keeps L s0 (s.putOut v) ↔ Keeps L s0 s := Keeps.iff_of (Keeps.putOut s v) h

theorem Keeps.setReg (s : State) (port : Nat) (off : Nat) (v : Nat) : Keeps [.regs] s (State.setReg s port off v) := by
  unfold State.setReg
  repeat' first
    | done
    | simp (disch := decide) only [↓Keeps.self_iff, ↓Keeps.ite_iff, ↓ite_self, ↓Keeps.putRegs_iff]
    | split
    | dsimp only
theorem Keeps.setReg_iff {M : List Field} (sB : State) (s : State) (port : Nat) (off : Nat) (v : Nat)
    (hk : [.regs].all M.contains = true) : Keeps M sB (State.setReg s port off v) ↔ Keeps M sB s := Keeps.iff_of (Keeps.setReg s port off v) hk

theorem Keeps.takeUp (s : State) (unit : Nat) (offs : List Nat) : Keeps [.regs] s (State.takeUp s unit offs) := by
  unfold State.takeUp
  repeat' first
    | done
    | simp (disch := decide) only [↓Keeps.self_iff, ↓Keeps.ite_iff, ↓ite_self, ↓Keeps.putRegs_iff]
    | with_reducible refine (Keeps.foldl_iff _ _ _ _ (fun _ _ => ?_)).2 ?_
    | split
    | dsimp only
theorem Keeps.takeUp_iff {M : List Field} (sB : State) (s : State) (unit : Nat) (offs : List Nat)
    (hk : [.regs].all M.contains = true) : Keeps M sB (State.takeUp s unit offs) ↔ Keeps M sB s := Keeps.iff_of (Keeps.takeUp s unit offs) hk

theorem Keeps.bboxPut (s : State) (t : Nat) (first : Bool) (h : Happening) : Keeps [.hubs] s (State.bboxPut s t first h) := by
  unfold State.bboxPut
  repeat' first
    | done
    | simp (disch := decide) only [↓Keeps.self_iff, ↓Keeps.ite_iff, ↓ite_self, ↓Keeps.modHub_iff]
    | split
    | dsimp only
theorem Keeps.bboxPut_iff {M : List Field} (sB : State) (s : State) (t : Nat) (first : Bool) (h : Happening)
    (hk : [.hubs].all M.contains = true) : Keeps M sB (State.bboxPut s t first h) ↔ Keeps M sB s := Keeps.iff_of (Keeps.bboxPut s t first h) hk

theorem Keeps.bbox (s : State) (t : Nat) (typ : Nat) (part : Option Nat) (ctx : Nat) (payload : List (Nat × Nat × Nat)) : Keeps [.hubs] s (State.bbox s t typ part ctx payload) := by
  unfold State.bbox
  repeat' first
    | done
    | simp (disch := decide) only [↓Keeps.self_iff, ↓Keeps.ite_iff, ↓ite_self, ↓Keeps.bboxPut_iff]
    | split
    | dsimp only
theorem Keeps.bbox_iff {M : List Field} (sB : State) (s : State) (t : Nat) (typ : Nat) (part : Option Nat) (ctx : Nat) (payload : List (Nat × Nat × Nat))
    (hk : [.hubs].all M.contains = true) : Keeps M sB (State.bbox s t typ part ctx payload) ↔ Keeps M sB s := Keeps.iff_of (Keeps.bbox s t typ part ctx payload) hk

theorem Keeps.bboxHead (s : State) (t : Nat) (typ : Nat) (payload : List (Nat × Nat × Nat)) : Keeps [.hubs] s (State.bboxHead s t typ payload) := by
  unfold State.bboxHead
  repeat' first
    | done
    | simp (disch := decide) only [↓Keeps.self_iff, ↓Keeps.ite_iff, ↓ite_self, ↓Keeps.bboxPut_iff]
    | split
    | dsimp only
theorem Keeps.bboxHead_iff {M : List Field} (sB : State) (s : State) (t : Nat) (typ : Nat) (payload : List (Nat × Nat × Nat))
    (hk : [.hubs].all M.contains = true) : Keeps M sB (State.bboxHead s t typ payload) ↔ Keeps M sB s := Keeps.iff_of (Keeps.bboxHead s t typ payload) hk

theorem Keeps.countOne (s : State) (t : Nat) (i : Nat) (event : Nat) (part : Option Nat) (n : Nat) : Keeps [.pm] s (State.countOne s t i event part n) := by
  unfold State.countOne
  repeat' first
    | done
    | simp (disch := decide) only [↓Keeps.self_iff, ↓Keeps.ite_iff, ↓ite_self, ↓Keeps.modCounter_iff]
    | split
    | dsimp only
theorem Keeps.countOne_iff {M : List Field} (sB : State) (s : State) (t : Nat) (i : Nat) (event : Nat) (part : Option Nat) (n : Nat)
    (hk : [.pm].all M.contains = true) : Keeps M sB (State.countOne s t i event part n) ↔ Keeps M sB s := Keeps.iff_of (Keeps.countOne s t i event part n) hk

theorem Keeps.count (s : State) (t : Nat) (event : Nat) (part : Option Nat) (n : Nat) : Keeps [.pm] s (State.count s t event part n) := by
  unfold State.count
  repeat' first
    | done
    | simp (disch := decide) only [↓Keeps.self_iff, ↓Keeps.ite_iff, ↓ite_self, ↓Keeps.countOne_iff]
    | with_reducible refine (Keeps.foldl_iff _ _ _ _ (fun _ _ => ?_)).2 ?_
    | split
    | dsimp only
theorem Keeps.count_iff {M : List Field} (sB : State) (s : State) (t : Nat) (event : Nat) (part : Option Nat) (n : Nat)
    (hk : [.pm].all M.contains = true) : Keeps M sB (State.count s t event part n) ↔ Keeps M sB s := Keeps.iff_of (Keeps.count s t event part n) hk

theorem Keeps.spend (s : State) (k : Nat) (n : Nat) : Keeps [.act] s (State.spend s k n) := by
  unfold State.spend
  repeat' first
    | done
    | simp (disch := decide) only [↓Keeps.self_iff, ↓Keeps.ite_iff, ↓ite_self, ↓Keeps.putAct_iff]
    | split
    | dsimp only
theorem Keeps.spend_iff {M : List Field} (sB : State) (s : State) (k : Nat) (n : Nat)
    (hk : [.act].all M.contains = true) : Keeps M sB (State.spend s k n) ↔ Keeps M sB s := Keeps.iff_of (Keeps.spend s k n) hk

theorem Keeps.hostWrite (s : State) (w : HostWrite) : Keeps [.parts, .act, .out] s (State.hostWrite s w) := by
  unfold State.hostWrite
  repeat' first
    | done
    | simp (disch := decide) only [↓Keeps.self_iff, ↓Keeps.ite_iff, ↓ite_self, ↓Keeps.modPart_iff, ↓Keeps.putOut_iff, ↓Keeps.spend_iff]
    | split
    | dsimp only
theorem Keeps.hostWrite_iff {M : List Field} (sB : State) (s : State) (w : HostWrite)
    (hk : [.parts, .act, .out].all M.contains = true) : Keeps M sB (State.hostWrite s w) ↔ Keeps M sB s := Keeps.iff_of (Keeps.hostWrite s w) hk

theorem Keeps.traceOn (s : State) (p : Nat) (kind : Nat) (part : Option Nat) (ctx : Nat) (eng : Nat) (step : Nat) (op : Nat) (arg1 : Nat) (arg2 : Nat) : Keeps [.parts, .ports, .act, .out] s (State.traceOn s p kind part ctx eng step op arg1 arg2) := by
  unfold State.traceOn
  repeat' first
    | done
    | simp (disch := decide) only [↓Keeps.self_iff, ↓Keeps.ite_iff, ↓ite_self, ↓Keeps.hostWrite_iff, ↓Keeps.modHport_iff]
    | split
    | dsimp only
theorem Keeps.traceOn_iff {M : List Field} (sB : State) (s : State) (p : Nat) (kind : Nat) (part : Option Nat) (ctx : Nat) (eng : Nat) (step : Nat) (op : Nat) (arg1 : Nat) (arg2 : Nat)
    (hk : [.parts, .ports, .act, .out].all M.contains = true) : Keeps M sB (State.traceOn s p kind part ctx eng step op arg1 arg2) ↔ Keeps M sB s := Keeps.iff_of (Keeps.traceOn s p kind part ctx eng step op arg1 arg2) hk

theorem Keeps.trace (s : State) (kind : Nat) (part : Option Nat) (ctx : Nat) (eng : Nat) (step : Nat) (op : Nat) (arg1 : Nat) (arg2 : Nat) : Keeps [.parts, .ports, .act, .out] s (State.trace s kind part ctx eng step op arg1 arg2) := by
  unfold State.trace
  repeat' first
    | done
    | simp (disch := decide) only [↓Keeps.self_iff, ↓Keeps.ite_iff, ↓ite_self, ↓Keeps.traceOn_iff]
    | with_reducible refine (Keeps.foldl_iff _ _ _ _ (fun _ _ => ?_)).2 ?_
    | split
    | dsimp only
theorem Keeps.trace_iff {M : List Field} (sB : State) (s : State) (kind : Nat) (part : Option Nat) (ctx : Nat) (eng : Nat) (step : Nat) (op : Nat) (arg1 : Nat) (arg2 : Nat)
    (hk : [.parts, .ports, .act, .out].all M.contains = true) : Keeps M sB (State.trace s kind part ctx eng step op arg1 arg2) ↔ Keeps M sB s := Keeps.iff_of (Keeps.trace s kind part ctx eng step op arg1 arg2) hk

theorem Keeps.writeControl (s : State) (k : Nat) : Keeps [.parts, .act, .out] s (State.writeControl s k) := by
  unfold State.writeControl
  repeat' first
    | done
    | simp (disch := decide) only [↓Keeps.self_iff, ↓Keeps.ite_iff, ↓ite_self, ↓Keeps.hostWrite_iff]
    | split
    | dsimp only
theorem Keeps.writeControl_iff {M : List Field} (sB : State) (s : State) (k : Nat)
    (hk : [.parts, .act, .out].all M.contains = true) : Keeps M sB (State.writeControl s k) ↔ Keeps M sB s := Keeps.iff_of (Keeps.writeControl s k) hk

theorem Keeps.writeCompletion (s : State) (k : Nat) (c : Completion) : Keeps [.parts, .pages, .ports, .act, .out] s (State.writeCompletion s k c) := by
  unfold State.writeCompletion
  repeat' first
    | done
    | simp (disch := decide) only [↓Keeps.self_iff, ↓Keeps.ite_iff, ↓ite_self, ↓Keeps.hostWrite_iff, ↓Keeps.modPage_iff, ↓Keeps.modPart_iff, ↓Keeps.trace_iff, ↓Keeps.writeControl_iff]
    | split
    | dsimp only
theorem Keeps.writeCompletion_iff {M : List Field} (sB : State) (s : State) (k : Nat) (c : Completion)
    (hk : [.parts, .pages, .ports, .act, .out].all M.contains = true) : Keeps M sB (State.writeCompletion s k c) ↔ Keeps M sB s := Keeps.iff_of (Keeps.writeCompletion s k c) hk

theorem Keeps.dropDesc (s : State) (k : Nat) (serial : Nat) : Keeps [.pages] s (State.dropDesc s k serial) := by
  unfold State.dropDesc
  repeat' first
    | done
    | simp (disch := decide) only [↓Keeps.self_iff, ↓Keeps.ite_iff, ↓ite_self, ↓Keeps.modPage_iff]
    | split
    | dsimp only
theorem Keeps.dropDesc_iff {M : List Field} (sB : State) (s : State) (k : Nat) (serial : Nat)
    (hk : [.pages].all M.contains = true) : Keeps M sB (State.dropDesc s k serial) ↔ Keeps M sB s := Keeps.iff_of (Keeps.dropDesc s k serial) hk

theorem Keeps.complete (s : State) (r : DescRef) (c : Completion) : Keeps [.parts, .pages, .ports, .act, .out] s (State.complete s r c) := by
  unfold State.complete
  repeat' first
    | done
    | simp (disch := decide) only [↓Keeps.self_iff, ↓Keeps.ite_iff, ↓ite_self, ↓Keeps.dropDesc_iff, ↓Keeps.modPart_iff, ↓Keeps.writeCompletion_iff]
    | split
    | dsimp only
theorem Keeps.complete_iff {M : List Field} (sB : State) (s : State) (r : DescRef) (c : Completion)
    (hk : [.parts, .pages, .ports, .act, .out].all M.contains = true) : Keeps M sB (State.complete s r c) ↔ Keeps M sB s := Keeps.iff_of (Keeps.complete s r c) hk

theorem Keeps.completeNow (s : State) (r : DescRef) (c : Completion) : Keeps [.parts, .pages, .ports, .act, .out] s (State.completeNow s r c) := by
  unfold State.completeNow
  repeat' first
    | done
    | simp (disch := decide) only [↓Keeps.self_iff, ↓Keeps.ite_iff, ↓ite_self, ↓Keeps.dropDesc_iff, ↓Keeps.writeCompletion_iff]
    | split
    | dsimp only
theorem Keeps.completeNow_iff {M : List Field} (sB : State) (s : State) (r : DescRef) (c : Completion)
    (hk : [.parts, .pages, .ports, .act, .out].all M.contains = true) : Keeps M sB (State.completeNow s r c) ↔ Keeps M sB s := Keeps.iff_of (Keeps.completeNow s r c) hk

theorem Keeps.eventOn (s : State) (k : Nat) (typ : Nat) (payload : List (Nat × Nat × Nat)) : Keeps [.parts, .pages, .ports, .act, .out] s (State.eventOn s k typ payload) := by
  unfold State.eventOn
  repeat' first
    | done
    | simp (disch := decide) only [↓Keeps.self_iff, ↓Keeps.ite_iff, ↓ite_self, ↓Keeps.hostWrite_iff, ↓Keeps.modPage_iff, ↓Keeps.trace_iff, ↓Keeps.writeControl_iff]
    | split
    | dsimp only
theorem Keeps.eventOn_iff {M : List Field} (sB : State) (s : State) (k : Nat) (typ : Nat) (payload : List (Nat × Nat × Nat))
    (hk : [.parts, .pages, .ports, .act, .out].all M.contains = true) : Keeps M sB (State.eventOn s k typ payload) ↔ Keeps M sB s := Keeps.iff_of (Keeps.eventOn s k typ payload) hk

theorem Keeps.event (s : State) (p : Nat) (typ : Nat) (payload : List (Nat × Nat × Nat)) : Keeps [.parts, .pages, .ports, .act, .out] s (State.event s p typ payload) := by
  unfold State.event
  repeat' first
    | done
    | simp (disch := decide) only [↓Keeps.self_iff, ↓Keeps.ite_iff, ↓ite_self, ↓Keeps.eventOn_iff]
    | split
    | dsimp only
theorem Keeps.event_iff {M : List Field} (sB : State) (s : State) (p : Nat) (typ : Nat) (payload : List (Nat × Nat × Nat))
    (hk : [.parts, .pages, .ports, .act, .out].all M.contains = true) : Keeps M sB (State.event s p typ payload) ↔ Keeps M sB s := Keeps.iff_of (Keeps.event s p typ payload) hk

theorem Keeps.eventOwner (s : State) (slot : Nat) (typ : Nat) (payload : List (Nat × Nat × Nat)) : Keeps [.parts, .pages, .ports, .act, .out] s (State.eventOwner s slot typ payload) := by
  unfold State.eventOwner
  repeat' first
    | done
    | simp (disch := decide) only [↓Keeps.self_iff, ↓Keeps.ite_iff, ↓ite_self, ↓Keeps.event_iff]
    | split
    | dsimp only
theorem Keeps.eventOwner_iff {M : List Field} (sB : State) (s : State) (slot : Nat) (typ : Nat) (payload : List (Nat × Nat × Nat))
    (hk : [.parts, .pages, .ports, .act, .out].all M.contains = true) : Keeps M sB (State.eventOwner s slot typ payload) ↔ Keeps M sB s := Keeps.iff_of (Keeps.eventOwner s slot typ payload) hk

theorem Keeps.eventAll (s : State) (typ : Nat) (payload : List (Nat × Nat × Nat)) : Keeps [.parts, .pages, .ports, .act, .out] s (State.eventAll s typ payload) := by
  unfold State.eventAll
  repeat' first
    | done
    | simp (disch := decide) only [↓Keeps.self_iff, ↓Keeps.ite_iff, ↓ite_self, ↓Keeps.eventOn_iff]
    | with_reducible refine (Keeps.foldl_iff _ _ _ _ (fun _ _ => ?_)).2 ?_
    | split
    | dsimp only
theorem Keeps.eventAll_iff {M : List Field} (sB : State) (s : State) (typ : Nat) (payload : List (Nat × Nat × Nat))
    (hk : [.parts, .pages, .ports, .act, .out].all M.contains = true) : Keeps M sB (State.eventAll s typ payload) ↔ Keeps M sB s := Keeps.iff_of (Keeps.eventAll s typ payload) hk

theorem Keeps.logError (s : State) (line : Nat) (col : Nat) (kind : Nat) (path : Nat) (ncorr : Nat) (part : Option Nat) (addr : Nat) : Keeps [.hubs, .logs] s (State.logError s line col kind path ncorr part addr) := by
  unfold State.logError
  repeat' first
    | done
    | simp (disch := decide) only [↓Keeps.self_iff, ↓Keeps.ite_iff, ↓ite_self, ↓Keeps.bbox_iff, ↓Keeps.putLogs_iff]
    | split
    | dsimp only
theorem Keeps.logError_iff {M : List Field} (sB : State) (s : State) (line : Nat) (col : Nat) (kind : Nat) (path : Nat) (ncorr : Nat) (part : Option Nat) (addr : Nat)
    (hk : [.hubs, .logs].all M.contains = true) : Keeps M sB (State.logError s line col kind path ncorr part addr) ↔ Keeps M sB s := Keeps.iff_of (Keeps.logError s line col kind path ncorr part addr) hk

theorem Keeps.memEvent (s : State) (line : Nat) (kind : Nat) (seq : Nat) : Keeps [.parts, .pages, .ports, .act, .out] s (State.memEvent s line kind seq) := by
  unfold State.memEvent
  repeat' first
    | done
    | simp (disch := decide) only [↓Keeps.self_iff, ↓Keeps.ite_iff, ↓ite_self, ↓Keeps.eventOwner_iff]
    | split
    | dsimp only
theorem Keeps.memEvent_iff {M : List Field} (sB : State) (s : State) (line : Nat) (kind : Nat) (seq : Nat)
    (hk : [.parts, .pages, .ports, .act, .out].all M.contains = true) : Keeps M sB (State.memEvent s line kind seq) ↔ Keeps M sB s := Keeps.iff_of (Keeps.memEvent s line kind seq) hk

theorem Keeps.uncorrectable (s : State) (line : Nat) (col : Nat) (kind : Nat) (path : Nat) (ncorr : Nat) (part : Option Nat) (addr : Nat) : Keeps [.hubs, .parts, .pages, .ports, .logs, .act, .out] s (State.uncorrectable s line col kind path ncorr part addr) := by
  unfold State.uncorrectable
  repeat' first
    | done
    | simp (disch := decide) only [↓Keeps.self_iff, ↓Keeps.ite_iff, ↓ite_self, ↓Keeps.logError_iff, ↓Keeps.memEvent_iff]
    | split
    | dsimp only
theorem Keeps.uncorrectable_iff {M : List Field} (sB : State) (s : State) (line : Nat) (col : Nat) (kind : Nat) (path : Nat) (ncorr : Nat) (part : Option Nat) (addr : Nat)
    (hk : [.hubs, .parts, .pages, .ports, .logs, .act, .out].all M.contains = true) : Keeps M sB (State.uncorrectable s line col kind path ncorr part addr) ↔ Keeps M sB s := Keeps.iff_of (Keeps.uncorrectable s line col kind path ncorr part addr) hk

theorem Keeps.lateLog (s : State) (reason : Nat) (srck : Nat) (port : Nat) (part : Option Nat) (modid : Nat) (addr : Nat) (sa : Nat) : Keeps [.hubs, .ports, .logs] s (State.lateLog s reason srck port part modid addr sa) := by
  unfold State.lateLog
  repeat' first
    | done
    | simp (disch := decide) only [↓Keeps.self_iff, ↓Keeps.ite_iff, ↓ite_self, ↓Keeps.bbox_iff, ↓Keeps.modHport_iff, ↓Keeps.putLogs_iff]
    | split
    | dsimp only
theorem Keeps.lateLog_iff {M : List Field} (sB : State) (s : State) (reason : Nat) (srck : Nat) (port : Nat) (part : Option Nat) (modid : Nat) (addr : Nat) (sa : Nat)
    (hk : [.hubs, .ports, .logs].all M.contains = true) : Keeps M sB (State.lateLog s reason srck port part modid addr sa) ↔ Keeps M sB s := Keeps.iff_of (Keeps.lateLog s reason srck port part modid addr sa) hk

theorem Keeps.lateFail (s : State) (reason : Nat) (srck : Nat) (port : Nat) (part : Option Nat) (modid : Nat) (addr : Nat) (sa : Nat) : Keeps [.hubs, .parts, .pages, .ports, .logs, .act, .out] s (State.lateFail s reason srck port part modid addr sa) := by
  unfold State.lateFail
  repeat' first
    | done
    | simp (disch := decide) only [↓Keeps.self_iff, ↓Keeps.ite_iff, ↓ite_self, ↓Keeps.event_iff, ↓Keeps.lateLog_iff]
    | split
    | dsimp only
theorem Keeps.lateFail_iff {M : List Field} (sB : State) (s : State) (reason : Nat) (srck : Nat) (port : Nat) (part : Option Nat) (modid : Nat) (addr : Nat) (sa : Nat)
    (hk : [.hubs, .parts, .pages, .ports, .logs, .act, .out].all M.contains = true) : Keeps M sB (State.lateFail s reason srck port part modid addr sa) ↔ Keeps M sB s := Keeps.iff_of (Keeps.lateFail s reason srck port part modid addr sa) hk

theorem Keeps.hostDone (s : State) (w : HostWrite) (ok : Bool) : Keeps [.hubs, .parts, .pages, .ports, .logs, .act, .out] s (State.hostDone s w ok) := by
  unfold State.hostDone
  repeat' first
    | done
    | simp (disch := decide) only [↓Keeps.self_iff, ↓Keeps.ite_iff, ↓ite_self, ↓Keeps.lateFail_iff, ↓Keeps.lateLog_iff, ↓Keeps.modPart_iff, ↓Keeps.putOut_iff]
    | split
    | dsimp only
theorem Keeps.hostDone_iff {M : List Field} (sB : State) (s : State) (w : HostWrite) (ok : Bool)
    (hk : [.hubs, .parts, .pages, .ports, .logs, .act, .out].all M.contains = true) : Keeps M sB (State.hostDone s w ok) ↔ Keeps M sB s := Keeps.iff_of (Keeps.hostDone s w ok) hk

theorem Keeps.emit (s : State) (land : Nat) (fs : List (BitVec 2048)) : Keeps [.pm, .act, .out] s (State.emit s land fs) := by
  unfold State.emit
  repeat' first
    | done
    | simp (disch := decide) only [↓Keeps.self_iff, ↓Keeps.ite_iff, ↓ite_self, ↓Keeps.count_iff, ↓Keeps.putOut_iff, ↓Keeps.spend_iff]
    | split
    | dsimp only
theorem Keeps.emit_iff {M : List Field} (sB : State) (s : State) (land : Nat) (fs : List (BitVec 2048))
    (hk : [.pm, .act, .out].all M.contains = true) : Keeps M sB (State.emit s land fs) ↔ Keeps M sB s := Keeps.iff_of (Keeps.emit s land fs) hk

theorem Keeps.sendControl (s : State) (land : Nat) (nak : Bool) (cls : Nat) (credit : Nat) : Keeps [.pm, .act, .out] s (State.sendControl s land nak cls credit) := by
  unfold State.sendControl
  repeat' first
    | done
    | simp (disch := decide) only [↓Keeps.self_iff, ↓Keeps.ite_iff, ↓ite_self, ↓Keeps.emit_iff]
    | split
    | dsimp only
theorem Keeps.sendControl_iff {M : List Field} (sB : State) (s : State) (land : Nat) (nak : Bool) (cls : Nat) (credit : Nat)
    (hk : [.pm, .act, .out].all M.contains = true) : Keeps M sB (State.sendControl s land nak cls credit) ↔ Keeps M sB s := Keeps.iff_of (Keeps.sendControl s land nak cls credit) hk

theorem Keeps.sendPayload (s : State) (land : Nat) (l : List Byte) : Keeps [.lands, .pm, .act, .out] s (State.sendPayload s land l) := by
  unfold State.sendPayload
  repeat' first
    | done
    | simp (disch := decide) only [↓Keeps.self_iff, ↓Keeps.ite_iff, ↓ite_self, ↓Keeps.emit_iff, ↓Keeps.modLanding_iff]
    | split
    | dsimp only
theorem Keeps.sendPayload_iff {M : List Field} (sB : State) (s : State) (land : Nat) (l : List Byte)
    (hk : [.lands, .pm, .act, .out].all M.contains = true) : Keeps M sB (State.sendPayload s land l) ↔ Keeps M sB s := Keeps.iff_of (Keeps.sendPayload s land l) hk

theorem Keeps.replay (s : State) (land : Nat) : Keeps [.lands, .pm, .act, .out] s (State.replay s land) := by
  unfold State.replay
  repeat' first
    | done
    | simp (disch := decide) only [↓Keeps.self_iff, ↓Keeps.ite_iff, ↓ite_self, ↓Keeps.emit_iff, ↓Keeps.modLanding_iff]
    | split
    | dsimp only
theorem Keeps.replay_iff {M : List Field} (sB : State) (s : State) (land : Nat)
    (hk : [.lands, .pm, .act, .out].all M.contains = true) : Keeps M sB (State.replay s land) ↔ Keeps M sB s := Keeps.iff_of (Keeps.replay s land) hk

theorem Keeps.grantTx (a0 : Nat) (a1 : Nat) (a2 : List Byte) (a3 : State) : Keeps [.lands, .pm, .act, .out] a3 (State.grantTx a0 a1 a2 a3).1 := by
  induction a0 generalizing a1 a2 a3 with
  | zero => exact Keeps.refl _ _
  | succ n ih =>
    unfold State.grantTx
    repeat' first
      | done
      | (with_reducible refine (Keeps.iff_of (ih ..) (by decide)).2 ?_)
      | simp (disch := decide) only [↓Keeps.self_iff, ↓Keeps.ite_iff, ↓ite_self, ↓Keeps.modLanding_iff, ↓Keeps.putOut_iff, ↓Keeps.sendControl_iff]
      | split
      | dsimp only
theorem Keeps.grantTx_iff {M : List Field} (sB : State) (a0 : Nat) (a1 : Nat) (a2 : List Byte) (a3 : State)
    (hk : [.lands, .pm, .act, .out].all M.contains = true) : Keeps M sB (State.grantTx a0 a1 a2 a3).1 ↔ Keeps M sB a3 := Keeps.iff_of (Keeps.grantTx a0 a1 a2 a3) hk
theorem Keeps.grantTx_eq {a0 : Nat} {a1 : Nat} {a2 : List Byte} {a3 : State} {u0 : State} {y : List Sys2Proof.Byte} (h : State.grantTx a0 a1 a2 a3 = (u0, y)) : Keeps [.lands, .pm, .act, .out] a3 u0 := by
  have k := Keeps.grantTx a0 a1 a2 a3
  rw [h] at k
  exact k

theorem Keeps.drainTx (s : State) (land : Nat) : Keeps [.lands, .pm, .act, .out] s (State.drainTx s land) := by
  unfold State.drainTx
  repeat' first
    | done
    | simp (disch := decide) only [↓Keeps.self_iff, ↓Keeps.ite_iff, ↓ite_self, ↓Keeps.grantTx_iff, ↓Keeps.sendPayload_iff]
    | (with_reducible refine (Keeps.iff_of (Keeps.grantTx_eq ‹_›) (by decide)).2 ?_)
    | split
    | dsimp only
theorem Keeps.drainTx_iff {M : List Field} (sB : State) (s : State) (land : Nat)
    (hk : [.lands, .pm, .act, .out].all M.contains = true) : Keeps M sB (State.drainTx s land) ↔ Keeps M sB s := Keeps.iff_of (Keeps.drainTx s land) hk

theorem Keeps.queueMsg (s : State) (land : Nat) (hdr : BitVec 128) (data : List Byte) (via : Option Nat) : Keeps [.lands, .pm, .act, .out] s (State.queueMsg s land hdr data via) := by
  unfold State.queueMsg
  repeat' first
    | done
    | simp (disch := decide) only [↓Keeps.self_iff, ↓Keeps.ite_iff, ↓ite_self, ↓Keeps.drainTx_iff, ↓Keeps.modLanding_iff]
    | split
    | dsimp only
theorem Keeps.queueMsg_iff {M : List Field} (sB : State) (s : State) (land : Nat) (hdr : BitVec 128) (data : List Byte) (via : Option Nat)
    (hk : [.lands, .pm, .act, .out].all M.contains = true) : Keeps M sB (State.queueMsg s land hdr data via) ↔ Keeps M sB s := Keeps.iff_of (Keeps.queueMsg s land hdr data via) hk

theorem Keeps.sendMsg (s : State) (land : Nat) (hdr : BitVec 128) (data : List Byte) : Keeps [.lands, .pm, .act, .out] s (State.sendMsg s land hdr data) := by
  unfold State.sendMsg
  repeat' first
    | done
    | simp (disch := decide) only [↓Keeps.self_iff, ↓Keeps.ite_iff, ↓ite_self, ↓Keeps.queueMsg_iff]
    | split
    | dsimp only
theorem Keeps.sendMsg_iff {M : List Field} (sB : State) (s : State) (land : Nat) (hdr : BitVec 128) (data : List Byte)
    (hk : [.lands, .pm, .act, .out].all M.contains = true) : Keeps M sB (State.sendMsg s land hdr data) ↔ Keeps M sB s := Keeps.iff_of (Keeps.sendMsg s land hdr data) hk

theorem Keeps.freeRx (s : State) (land : Nat) (hdr : BitVec 128) (n : Nat) : Keeps [.pm, .act, .out] s (State.freeRx s land hdr n) := by
  unfold State.freeRx
  repeat' first
    | done
    | simp (disch := decide) only [↓Keeps.self_iff, ↓Keeps.ite_iff, ↓ite_self, ↓Keeps.sendControl_iff]
    | split
    | dsimp only
theorem Keeps.freeRx_iff {M : List Field} (sB : State) (s : State) (land : Nat) (hdr : BitVec 128) (n : Nat)
    (hk : [.pm, .act, .out].all M.contains = true) : Keeps M sB (State.freeRx s land hdr n) ↔ Keeps M sB s := Keeps.iff_of (Keeps.freeRx s land hdr n) hk

theorem Keeps.reply (s : State) (h : BitVec 128) (mk : Nat) (lines : Nat) (status : Nat) (pois : Nat) (data : List Byte) : Keeps [.lands, .pm, .act, .out] s (State.reply s h mk lines status pois data) := by
  unfold State.reply
  repeat' first
    | done
    | simp (disch := decide) only [↓Keeps.self_iff, ↓Keeps.ite_iff, ↓ite_self, ↓Keeps.sendMsg_iff]
    | split
    | dsimp only
theorem Keeps.reply_iff {M : List Field} (sB : State) (s : State) (h : BitVec 128) (mk : Nat) (lines : Nat) (status : Nat) (pois : Nat) (data : List Byte)
    (hk : [.lands, .pm, .act, .out].all M.contains = true) : Keeps M sB (State.reply s h mk lines status pois data) ↔ Keeps M sB s := Keeps.iff_of (Keeps.reply s h mk lines status pois data) hk

theorem Keeps.sendGop (s : State) (g : Nat) (dst : Nat) (k : Nat) (status : Nat) (fs : List Nat) (ls : List (List Byte × Bool)) : Keeps [.lands, .pm, .act, .out] s (State.sendGop s g dst k status fs ls) := by
  unfold State.sendGop
  repeat' first
    | done
    | simp (disch := decide) only [↓Keeps.self_iff, ↓Keeps.ite_iff, ↓ite_self, ↓Keeps.sendMsg_iff]
    | with_reducible refine (Keeps.foldl_iff _ _ _ _ (fun _ _ => ?_)).2 ?_
    | with_reducible refine (Keeps.foldl_fst_iff _ _ _ _ (fun _ _ => ?_)).2 ?_
    | with_reducible refine (Keeps.foldl_snd_iff _ _ _ _ (fun _ _ => ?_)).2 ?_
    | split
    | dsimp only
theorem Keeps.sendGop_iff {M : List Field} (sB : State) (s : State) (g : Nat) (dst : Nat) (k : Nat) (status : Nat) (fs : List Nat) (ls : List (List Byte × Bool))
    (hk : [.lands, .pm, .act, .out].all M.contains = true) : Keeps M sB (State.sendGop s g dst k status fs ls) ↔ Keeps M sB s := Keeps.iff_of (Keeps.sendGop s g dst k status fs ls) hk

theorem Keeps.sendPart (s : State) (g : Nat) (i : Inst) (dst : Nat) (status : Nat) (res : Bool) (data : List (BitVec 8 × Bool)) : Keeps [.lands, .pm, .act, .out] s (State.sendPart s g i dst status res data) := by
  unfold State.sendPart
  repeat' first
    | done
    | simp (disch := decide) only [↓Keeps.self_iff, ↓Keeps.ite_iff, ↓ite_self, ↓Keeps.sendGop_iff]
    | with_reducible refine (Keeps.foldl_iff _ _ _ _ (fun _ _ => ?_)).2 ?_
    | split
    | dsimp only
theorem Keeps.sendPart_iff {M : List Field} (sB : State) (s : State) (g : Nat) (i : Inst) (dst : Nat) (status : Nat) (res : Bool) (data : List (BitVec 8 × Bool))
    (hk : [.lands, .pm, .act, .out].all M.contains = true) : Keeps M sB (State.sendPart s g i dst status res data) ↔ Keeps M sB s := Keeps.iff_of (Keeps.sendPart s g i dst status res data) hk

theorem Keeps.sendAll (s : State) (g : Nat) (i : Inst) (status : Nat) (res : Bool) (data : List (BitVec 8 × Bool)) : Keeps [.lands, .pm, .act, .out] s (State.sendAll s g i status res data) := by
  unfold State.sendAll
  repeat' first
    | done
    | simp (disch := decide) only [↓Keeps.self_iff, ↓Keeps.ite_iff, ↓ite_self, ↓Keeps.sendPart_iff]
    | with_reducible refine (Keeps.foldl_iff _ _ _ _ (fun _ _ => ?_)).2 ?_
    | split
    | dsimp only
theorem Keeps.sendAll_iff {M : List Field} (sB : State) (s : State) (g : Nat) (i : Inst) (status : Nat) (res : Bool) (data : List (BitVec 8 × Bool))
    (hk : [.lands, .pm, .act, .out].all M.contains = true) : Keeps M sB (State.sendAll s g i status res data) ↔ Keeps M sB s := Keeps.iff_of (Keeps.sendAll s g i status res data) hk

theorem Keeps.setCheck (s : State) (rk : Nat) (c : Nat) (comp : Bool) : Keeps [.pois, .rows] s (State.setCheck s rk c comp) := by
  unfold State.setCheck
  repeat' first
    | done
    | simp (disch := decide) only [↓Keeps.self_iff, ↓Keeps.ite_iff, ↓ite_self, ↓Keeps.modColBad_iff, ↓Keeps.modRow_iff]
    | split
    | dsimp only
theorem Keeps.setCheck_iff {M : List Field} (sB : State) (s : State) (rk : Nat) (c : Nat) (comp : Bool)
    (hk : [.pois, .rows].all M.contains = true) : Keeps M sB (State.setCheck s rk c comp) ↔ Keeps M sB s := Keeps.iff_of (Keeps.setCheck s rk c comp) hk

theorem Keeps.poisonLine (s : State) (k : Nat) : Keeps [.pois, .rows] s (State.poisonLine s k) := by
  unfold State.poisonLine
  repeat' first
    | done
    | simp (disch := decide) only [↓Keeps.self_iff, ↓Keeps.ite_iff, ↓ite_self, ↓Keeps.modRow_iff, ↓Keeps.setCheck_iff]
    | split
    | dsimp only
theorem Keeps.poisonLine_iff {M : List Field} (sB : State) (s : State) (k : Nat)
    (hk : [.pois, .rows].all M.contains = true) : Keeps M sB (State.poisonLine s k) ↔ Keeps M sB s := Keeps.iff_of (Keeps.poisonLine s k) hk

theorem Keeps.poisonLines (s : State) (rk : Nat) (ls : List Nat) : Keeps [.pois, .rows] s (State.poisonLines s rk ls) := by
  unfold State.poisonLines
  repeat' first
    | done
    | simp (disch := decide) only [↓Keeps.self_iff, ↓Keeps.ite_iff, ↓ite_self, ↓Keeps.poisonLine_iff]
    | with_reducible refine (Keeps.foldl_iff _ _ _ _ (fun _ _ => ?_)).2 ?_
    | split
    | dsimp only
theorem Keeps.poisonLines_iff {M : List Field} (sB : State) (s : State) (rk : Nat) (ls : List Nat)
    (hk : [.pois, .rows].all M.contains = true) : Keeps M sB (State.poisonLines s rk ls) ↔ Keeps M sB s := Keeps.iff_of (Keeps.poisonLines s rk ls) hk

theorem Keeps.storeColumn (s : State) (rk : Nat) (c : Nat) (l : List Byte) (comp : Bool) : Keeps [.mem, .pois, .rows] s (State.storeColumn s rk c l comp) := by
  unfold State.storeColumn
  repeat' first
    | done
    | simp (disch := decide) only [↓Keeps.self_iff, ↓Keeps.ite_iff, ↓ite_self, ↓Keeps.modColBad_iff, ↓Keeps.modRow_iff, ↓Keeps.putMem_iff]
    | split
    | dsimp only
theorem Keeps.storeColumn_iff {M : List Field} (sB : State) (s : State) (rk : Nat) (c : Nat) (l : List Byte) (comp : Bool)
    (hk : [.mem, .pois, .rows].all M.contains = true) : Keeps M sB (State.storeColumn s rk c l comp) ↔ Keeps M sB s := Keeps.iff_of (Keeps.storeColumn s rk c l comp) hk

theorem Keeps.storeLine (s : State) (k : Nat) (d : Line512) (pois : Bool) : Keeps [.mem, .pois, .rows] s (State.storeLine s k d pois) := by
  unfold State.storeLine
  repeat' first
    | done
    | simp (disch := decide) only [↓Keeps.self_iff, ↓Keeps.ite_iff, ↓ite_self, ↓Keeps.modRow_iff, ↓Keeps.storeColumn_iff]
    | split
    | dsimp only
theorem Keeps.storeLine_iff {M : List Field} (sB : State) (s : State) (k : Nat) (d : Line512) (pois : Bool)
    (hk : [.mem, .pois, .rows].all M.contains = true) : Keeps M sB (State.storeLine s k d pois) ↔ Keeps M sB s := Keeps.iff_of (Keeps.storeLine s k d pois) hk

theorem Keeps.writeRow (s : State) (rk : Nat) (ls : List (Line512 × Bool)) : Keeps [.mem, .pois, .rows] s (State.writeRow s rk ls) := by
  unfold State.writeRow
  repeat' first
    | done
    | simp (disch := decide) only [↓Keeps.self_iff, ↓Keeps.ite_iff, ↓ite_self, ↓Keeps.modRow_iff, ↓Keeps.putMem_iff, ↓Keeps.putPois_iff]
    | split
    | dsimp only
theorem Keeps.writeRow_iff {M : List Field} (sB : State) (s : State) (rk : Nat) (ls : List (Line512 × Bool))
    (hk : [.mem, .pois, .rows].all M.contains = true) : Keeps M sB (State.writeRow s rk ls) ↔ Keeps M sB s := Keeps.iff_of (Keeps.writeRow s rk ls) hk

theorem Keeps.freshBank (s : State) (b : Nat) : Keeps [.rows, .bspares] s (State.freshBank s b) := by
  unfold State.freshBank
  repeat' first
    | done
    | simp (disch := decide) only [↓Keeps.self_iff, ↓Keeps.ite_iff, ↓ite_self, ↓Keeps.modBspare_iff, ↓Keeps.putRows_iff]
    | split
    | dsimp only
theorem Keeps.freshBank_iff {M : List Field} (sB : State) (s : State) (b : Nat)
    (hk : [.rows, .bspares].all M.contains = true) : Keeps M sB (State.freshBank s b) ↔ Keeps M sB s := Keeps.iff_of (Keeps.freshBank s b) hk

theorem Keeps.endSwap (s : State) (st : Nat) (x : Nat × Nat × Nat) (stays : Bool) : Keeps [.rows, .bspares, .stks, .hubs, .logs] s (State.endSwap s st x stays) := by
  unfold State.endSwap
  repeat' first
    | done
    | simp (disch := decide) only [↓Keeps.self_iff, ↓Keeps.ite_iff, ↓ite_self, ↓Keeps.freshBank_iff, ↓Keeps.logError_iff, ↓Keeps.modBspare_iff, ↓Keeps.modRow_iff, ↓Keeps.modStack_iff, ↓Keeps.putLogs_iff]
    | with_reducible refine (Keeps.foldl_iff _ _ _ _ (fun _ _ => ?_)).2 ?_
    | with_reducible refine (Keeps.foldl_fst_iff _ _ _ _ (fun _ _ => ?_)).2 ?_
    | with_reducible refine (Keeps.foldl_snd_iff _ _ _ _ (fun _ _ => ?_)).2 ?_
    | split
    | dsimp only
theorem Keeps.endSwap_iff {M : List Field} (sB : State) (s : State) (st : Nat) (x : Nat × Nat × Nat) (stays : Bool)
    (hk : [.rows, .bspares, .stks, .hubs, .logs].all M.contains = true) : Keeps M sB (State.endSwap s st x stays) ↔ Keeps M sB s := Keeps.iff_of (Keeps.endSwap s st x stays) hk

theorem Keeps.drawBank (s : State) (b : Nat) : Keeps [.stks, .hubs, .logs] s (State.drawBank s b) := by
  unfold State.drawBank
  repeat' first
    | done
    | simp (disch := decide) only [↓Keeps.self_iff, ↓Keeps.ite_iff, ↓ite_self, ↓Keeps.logError_iff, ↓Keeps.modStack_iff]
    | split
    | dsimp only
theorem Keeps.drawBank_iff {M : List Field} (sB : State) (s : State) (b : Nat)
    (hk : [.stks, .hubs, .logs].all M.contains = true) : Keeps M sB (State.drawBank s b) ↔ Keeps M sB s := Keeps.iff_of (Keeps.drawBank s b) hk

theorem Keeps.replaceBank (s : State) (b : Nat) : Keeps [.rows, .bspares, .stks, .hubs, .logs] s (State.replaceBank s b) := by
  unfold State.replaceBank
  repeat' first
    | done
    | simp (disch := decide) only [↓Keeps.self_iff, ↓Keeps.ite_iff, ↓ite_self, ↓Keeps.drawBank_iff, ↓Keeps.endSwap_iff]
    | split
    | dsimp only
theorem Keeps.replaceBank_iff {M : List Field} (sB : State) (s : State) (b : Nat)
    (hk : [.rows, .bspares, .stks, .hubs, .logs].all M.contains = true) : Keeps M sB (State.replaceBank s b) ↔ Keeps M sB s := Keeps.iff_of (Keeps.replaceBank s b) hk

theorem Keeps.retireRow (s : State) (rk : Nat) (wrongTag : Bool) : Keeps [.rows, .bspares, .stks, .hubs, .logs] s (State.retireRow s rk wrongTag) := by
  unfold State.retireRow
  repeat' first
    | done
    | simp (disch := decide) only [↓Keeps.self_iff, ↓Keeps.ite_iff, ↓ite_self, ↓Keeps.logError_iff, ↓Keeps.modBspare_iff, ↓Keeps.modStack_iff, ↓Keeps.replaceBank_iff]
    | split
    | dsimp only
theorem Keeps.retireRow_iff {M : List Field} (sB : State) (s : State) (rk : Nat) (wrongTag : Bool)
    (hk : [.rows, .bspares, .stks, .hubs, .logs].all M.contains = true) : Keeps M sB (State.retireRow s rk wrongTag) ↔ Keeps M sB s := Keeps.iff_of (Keeps.retireRow s rk wrongTag) hk

theorem Keeps.flipRepair (s : State) (r : Repair) : Keeps [.pois, .rows, .bspares] s (State.flipRepair s r) := by
  unfold State.flipRepair
  repeat' first
    | done
    | simp (disch := decide) only [↓Keeps.self_iff, ↓Keeps.ite_iff, ↓ite_self, ↓Keeps.freshBank_iff, ↓Keeps.modBspare_iff, ↓Keeps.modRow_iff, ↓Keeps.poisonLines_iff]
    | with_reducible refine (Keeps.foldl_iff _ _ _ _ (fun _ _ => ?_)).2 ?_
    | with_reducible refine (Keeps.foldl_fst_iff _ _ _ _ (fun _ _ => ?_)).2 ?_
    | with_reducible refine (Keeps.foldl_snd_iff _ _ _ _ (fun _ _ => ?_)).2 ?_
    | split
    | dsimp only
theorem Keeps.flipRepair_iff {M : List Field} (sB : State) (s : State) (r : Repair)
    (hk : [.pois, .rows, .bspares].all M.contains = true) : Keeps M sB (State.flipRepair s r) ↔ Keeps M sB s := Keeps.iff_of (Keeps.flipRepair s r) hk

theorem Keeps.writeBack (s : State) (rk : Nat) (code : Nat) (fix : List Nat) : Keeps [.rows] s (State.writeBack s rk code fix) := by
  unfold State.writeBack
  repeat' first
    | done
    | simp (disch := decide) only [↓Keeps.self_iff, ↓Keeps.ite_iff, ↓ite_self, ↓Keeps.modRow_iff]
    | split
    | dsimp only
theorem Keeps.writeBack_iff {M : List Field} (sB : State) (s : State) (rk : Nat) (code : Nat) (fix : List Nat)
    (hk : [.rows].all M.contains = true) : Keeps M sB (State.writeBack s rk code fix) ↔ Keeps M sB s := Keeps.iff_of (Keeps.writeBack s rk code fix) hk

theorem Keeps.rowFailed (s : State) (rk : Nat) (col : Nat) (kind : Nat) (path : Nat) (ncorr : Nat) (part : Option Nat) (addr : Nat) (also : List Nat) : Keeps [.pois, .rows, .bspares, .stks, .hubs, .parts, .pages, .ports, .logs, .act, .out] s (State.rowFailed s rk col kind path ncorr part addr also) := by
  unfold State.rowFailed
  repeat' first
    | done
    | simp (disch := decide) only [↓Keeps.self_iff, ↓Keeps.ite_iff, ↓ite_self, ↓Keeps.poisonLines_iff, ↓Keeps.retireRow_iff, ↓Keeps.uncorrectable_iff]
    | split
    | dsimp only
theorem Keeps.rowFailed_iff {M : List Field} (sB : State) (s : State) (rk : Nat) (col : Nat) (kind : Nat) (path : Nat) (ncorr : Nat) (part : Option Nat) (addr : Nat) (also : List Nat)
    (hk : [.pois, .rows, .bspares, .stks, .hubs, .parts, .pages, .ports, .logs, .act, .out].all M.contains = true) : Keeps M sB (State.rowFailed s rk col kind path ncorr part addr also) ↔ Keeps M sB s := Keeps.iff_of (Keeps.rowFailed s rk col kind path ncorr part addr also) hk

theorem Keeps.rowCorrected (s : State) (rk : Nat) (col : Nat) (path : Nat) (code : Nat) (fix : List Nat) (part : Option Nat) (addr : Nat) (mark : RowMeta → RowMeta) : Keeps [.pois, .rows, .hubs, .logs] s (State.rowCorrected s rk col path code fix part addr mark) := by
  unfold State.rowCorrected
  repeat' first
    | done
    | simp (disch := decide) only [↓Keeps.self_iff, ↓Keeps.ite_iff, ↓ite_self, ↓Keeps.logError_iff, ↓Keeps.modRow_iff, ↓Keeps.setCheck_iff, ↓Keeps.writeBack_iff]
    | with_reducible refine (Keeps.foldl_iff _ _ _ _ (fun _ _ => ?_)).2 ?_
    | split
    | dsimp only
theorem Keeps.rowCorrected_iff {M : List Field} (sB : State) (s : State) (rk : Nat) (col : Nat) (path : Nat) (code : Nat) (fix : List Nat) (part : Option Nat) (addr : Nat) (mark : RowMeta → RowMeta)
    (hk : [.pois, .rows, .hubs, .logs].all M.contains = true) : Keeps M sB (State.rowCorrected s rk col path code fix part addr mark) ↔ Keeps M sB s := Keeps.iff_of (Keeps.rowCorrected s rk col path code fix part addr mark) hk

theorem Keeps.decodeRow (s : State) (rk : Nat) (col : Nat) (path : Nat) (part : Option Nat) (addr : Nat) (mark : RowMeta → RowMeta) :
    Keeps [.pois, .rows, .bspares, .stks, .hubs, .parts, .pages, .ports, .logs, .act, .out] s (State.decodeRow s rk col path part addr mark) := by
  unfold State.decodeRow
  split
  · exact Keeps.via ((Keeps.uncorrectable ..).mono (L := [.pois, .rows, .bspares, .stks, .hubs, .parts, .pages, .ports, .logs, .act, .out]) (by decide)) (Keeps.retireRow ..) (by decide)
  · split
    · exact (Keeps.rowFailed ..).mono (by decide)
    · split
      · exact (Keeps.rowFailed ..).mono (by decide)
      · dsimp only
        split
        · exact Keeps.via ((Keeps.rowCorrected ..).mono (L := [.pois, .rows, .bspares, .stks, .hubs, .parts, .pages, .ports, .logs, .act, .out]) (by decide)) (Keeps.retireRow ..) (by decide)
        · exact (Keeps.rowCorrected ..).mono (by decide)
theorem Keeps.decodeRow_iff {M : List Field} (sB : State) (s : State) (rk : Nat) (col : Nat) (path : Nat) (part : Option Nat) (addr : Nat) (mark : RowMeta → RowMeta)
    (hk : [.pois, .rows, .bspares, .stks, .hubs, .parts, .pages, .ports, .logs, .act, .out].all M.contains = true) : Keeps M sB (State.decodeRow s rk col path part addr mark) ↔ Keeps M sB s := Keeps.iff_of (Keeps.decodeRow s rk col path part addr mark) hk

theorem Keeps.testLine (s : State) (k : Nat) (path : Nat) (part : Option Nat) (addr : Nat) : Keeps [.pois, .rows, .bspares, .stks, .hubs, .parts, .pages, .ports, .logs, .act, .out] s (State.testLine s k path part addr) := by
  unfold State.testLine
  repeat' first
    | done
    | simp (disch := decide) only [↓Keeps.self_iff, ↓Keeps.ite_iff, ↓ite_self, ↓Keeps.decodeRow_iff]
    | split
    | dsimp only
theorem Keeps.testLine_iff {M : List Field} (sB : State) (s : State) (k : Nat) (path : Nat) (part : Option Nat) (addr : Nat)
    (hk : [.pois, .rows, .bspares, .stks, .hubs, .parts, .pages, .ports, .logs, .act, .out].all M.contains = true) : Keeps M sB (State.testLine s k path part addr) ↔ Keeps M sB s := Keeps.iff_of (Keeps.testLine s k path part addr) hk

theorem Keeps.writeLine (s : State) (k : Nat) (d : Line512) (mask : BitVec 64) (pois : Bool) (path : Nat) (part : Option Nat) (addr : Nat) : Keeps [.mem, .pois, .rows, .bspares, .stks, .hubs, .parts, .pages, .ports, .logs, .act, .out] s (State.writeLine s k d mask pois path part addr).1 := by
  unfold State.writeLine
  repeat' first
    | done
    | simp (disch := decide) only [↓Keeps.self_iff, ↓Keeps.ite_iff, ↓ite_self, ↓Keeps.logError_iff, ↓Keeps.storeLine_iff, ↓Keeps.testLine_iff, ↓Keeps.uncorrectable_iff]
    | split
    | dsimp only
theorem Keeps.writeLine_iff {M : List Field} (sB : State) (s : State) (k : Nat) (d : Line512) (mask : BitVec 64) (pois : Bool) (path : Nat) (part : Option Nat) (addr : Nat)
    (hk : [.mem, .pois, .rows, .bspares, .stks, .hubs, .parts, .pages, .ports, .logs, .act, .out].all M.contains = true) : Keeps M sB (State.writeLine s k d mask pois path part addr).1 ↔ Keeps M sB s := Keeps.iff_of (Keeps.writeLine s k d mask pois path part addr) hk
theorem Keeps.writeLine_eq {s : State} {k : Nat} {d : Line512} {mask : BitVec 64} {pois : Bool} {path : Nat} {part : Option Nat} {addr : Nat} {u0 : State} {y : Bool} (h : State.writeLine s k d mask pois path part addr = (u0, y)) : Keeps [.mem, .pois, .rows, .bspares, .stks, .hubs, .parts, .pages, .ports, .logs, .act, .out] s u0 := by
  have k := Keeps.writeLine s k d mask pois path part addr
  rw [h] at k
  exact k

theorem Keeps.meshBytes (s : State) (a : Nat) (b : Nat) (n : Nat) : Keeps [.pm, .act] s (State.meshBytes s a b n) := by
  unfold State.meshBytes
  repeat' first
    | done
    | simp (disch := decide) only [↓Keeps.self_iff, ↓Keeps.ite_iff, ↓ite_self, ↓Keeps.count_iff, ↓Keeps.spend_iff]
    | with_reducible refine (Keeps.foldl_iff _ _ _ _ (fun _ _ => ?_)).2 ?_
    | split
    | dsimp only
theorem Keeps.meshBytes_iff {M : List Field} (sB : State) (s : State) (a : Nat) (b : Nat) (n : Nat)
    (hk : [.pm, .act].all M.contains = true) : Keeps M sB (State.meshBytes s a b n) ↔ Keeps M sB s := Keeps.iff_of (Keeps.meshBytes s a b n) hk

theorem Keeps.viaMesh (s : State) (a : Nat) (b : Nat) (n : Nat) : Keeps [.pm, .act, .out] s (State.viaMesh s a b n) := by
  unfold State.viaMesh
  repeat' first
    | done
    | simp (disch := decide) only [↓Keeps.self_iff, ↓Keeps.ite_iff, ↓ite_self, ↓Keeps.meshBytes_iff, ↓Keeps.putOut_iff]
    | split
    | dsimp only
theorem Keeps.viaMesh_iff {M : List Field} (sB : State) (s : State) (a : Nat) (b : Nat) (n : Nat)
    (hk : [.pm, .act, .out].all M.contains = true) : Keeps M sB (State.viaMesh s a b n) ↔ Keeps M sB s := Keeps.iff_of (Keeps.viaMesh s a b n) hk

theorem Keeps.readMesh (s : State) (a : Nat) (b : Nat) (n : Nat) : Keeps [.pm, .act, .out] s (State.readMesh s a b n) := by
  unfold State.readMesh
  repeat' first
    | done
    | simp (disch := decide) only [↓Keeps.self_iff, ↓Keeps.ite_iff, ↓ite_self, ↓Keeps.meshBytes_iff, ↓Keeps.viaMesh_iff]
    | split
    | dsimp only
theorem Keeps.readMesh_iff {M : List Field} (sB : State) (s : State) (a : Nat) (b : Nat) (n : Nat)
    (hk : [.pm, .act, .out].all M.contains = true) : Keeps M sB (State.readMesh s a b n) ↔ Keeps M sB s := Keeps.iff_of (Keeps.readMesh s a b n) hk

theorem Keeps.draw (s : State) : Keeps [.free] s (State.draw s) := by
  unfold State.draw
  repeat' first
    | done
    | simp (disch := decide) only [↓Keeps.self_iff, ↓Keeps.ite_iff, ↓ite_self, ↓Keeps.putFree_iff]
    | split
    | dsimp only
theorem Keeps.draw_iff {M : List Field} (sB : State) (s : State)
    (hk : [.free].all M.contains = true) : Keeps M sB (State.draw s) ↔ Keeps M sB s := Keeps.iff_of (Keeps.draw s) hk

theorem Keeps.noteRead (s : State) (bad : Bool) (k : Nat) (path : Nat) (part : Option Nat) (addr : Nat) : Keeps [.hubs, .parts, .pages, .ports, .logs, .act, .out] s (State.noteRead s bad k path part addr) := by
  unfold State.noteRead
  repeat' first
    | done
    | simp (disch := decide) only [↓Keeps.self_iff, ↓Keeps.ite_iff, ↓ite_self, ↓Keeps.logError_iff, ↓Keeps.uncorrectable_iff]
    | split
    | dsimp only
theorem Keeps.noteRead_iff {M : List Field} (sB : State) (s : State) (bad : Bool) (k : Nat) (path : Nat) (part : Option Nat) (addr : Nat)
    (hk : [.hubs, .parts, .pages, .ports, .logs, .act, .out].all M.contains = true) : Keeps M sB (State.noteRead s bad k path part addr) ↔ Keeps M sB s := Keeps.iff_of (Keeps.noteRead s bad k path part addr) hk

theorem Keeps.writeSa (s : State) (sa : Nat) (d : Line512) (mask : BitVec 64) (pois : Bool) (path : Nat) (part : Option Nat) :
    Keeps [.mem, .pois, .rows, .bspares, .stks, .hubs, .parts, .pages, .ports, .logs, .act, .out] s (State.writeSa s sa d mask pois path part).1 := by
  have y : ∀ (L : List Field) (f : State → Nat → Line512 → BitVec 64 → Bool → Nat → Option Nat → Nat → State × Bool), (∀ s k a b c d e g, Keeps L s (f s k a b c d e g).1) →
      Keeps L s (if (s.slot (sa / slotBytes)).dead then (s, false) else let r := f s (s.lineOfSa sa) d mask pois path part sa
        match s.movingLine sa with
        | some m => if r.2 then ((f r.1 m d mask pois path part sa).1, true) else r
        | none => r).1 := by
    intro L f h
    split
    · exact Keeps.refl _ _
    · dsimp only
      split
      · split
        · exact Keeps.via (h ..) (h ..) (by simp)
        · exact h ..
      · exact h ..
  unfold State.writeSa
  exact y _ _ Keeps.writeLine
theorem Keeps.writeSa_iff {M : List Field} (sB : State) (s : State) (sa : Nat) (d : Line512) (mask : BitVec 64) (pois : Bool) (path : Nat) (part : Option Nat)
    (hk : [.mem, .pois, .rows, .bspares, .stks, .hubs, .parts, .pages, .ports, .logs, .act, .out].all M.contains = true) : Keeps M sB (State.writeSa s sa d mask pois path part).1 ↔ Keeps M sB s := Keeps.iff_of (Keeps.writeSa s sa d mask pois path part) hk
theorem Keeps.writeSa_eq {s : State} {sa : Nat} {d : Line512} {mask : BitVec 64} {pois : Bool} {path : Nat} {part : Option Nat} {u0 : State} {y : Bool} (h : State.writeSa s sa d mask pois path part = (u0, y)) : Keeps [.mem, .pois, .rows, .bspares, .stks, .hubs, .parts, .pages, .ports, .logs, .act, .out] s u0 := by
  have k := Keeps.writeSa s sa d mask pois path part
  rw [h] at k
  exact k

theorem Keeps.spWrite (s : State) (t : Nat) (a : Nat) (l : List Byte) (pois : Bool) : Keeps [.sp, .spPois] s (State.spWrite s t a l pois) := by
  unfold State.spWrite
  repeat' first
    | done
    | simp (disch := decide) only [↓Keeps.self_iff, ↓Keeps.ite_iff, ↓ite_self, ↓Keeps.modSpBad_iff, ↓Keeps.putSp_iff]
    | with_reducible refine (Keeps.foldl_iff _ _ _ _ (fun _ _ => ?_)).2 ?_
    | split
    | dsimp only
theorem Keeps.spWrite_iff {M : List Field} (sB : State) (s : State) (t : Nat) (a : Nat) (l : List Byte) (pois : Bool)
    (hk : [.sp, .spPois].all M.contains = true) : Keeps M sB (State.spWrite s t a l pois) ↔ Keeps M sB s := Keeps.iff_of (Keeps.spWrite s t a l pois) hk

theorem Keeps.clearParcel (s : State) (p : Nat) : Keeps [.mem, .pois, .rows] s (State.clearParcel s p) := by
  unfold State.clearParcel
  repeat' first
    | done
    | simp (disch := decide) only [↓Keeps.self_iff, ↓Keeps.ite_iff, ↓ite_self, ↓Keeps.putMem_iff, ↓Keeps.putPois_iff, ↓Keeps.putRows_iff]
    | split
    | dsimp only
theorem Keeps.clearParcel_iff {M : List Field} (sB : State) (s : State) (p : Nat)
    (hk : [.mem, .pois, .rows].all M.contains = true) : Keeps M sB (State.clearParcel s p) ↔ Keeps M sB s := Keeps.iff_of (Keeps.clearParcel s p) hk

theorem Keeps.copyParcel (s : State) (p : Nat) (q : Nat) : Keeps [.mem, .pois, .rows, .bspares, .stks, .hubs, .parts, .pages, .ports, .logs, .act, .out] s (State.copyParcel s p q) := by
  unfold State.copyParcel
  repeat' first
    | done
    | simp (disch := decide) only [↓Keeps.self_iff, ↓Keeps.ite_iff, ↓ite_self, ↓Keeps.clearParcel_iff, ↓Keeps.decodeRow_iff, ↓Keeps.poisonLine_iff, ↓Keeps.putMem_iff, ↓Keeps.storeLine_iff]
    | with_reducible refine (Keeps.foldl_iff _ _ _ _ (fun _ _ => ?_)).2 ?_
    | with_reducible refine (Keeps.foldl_fst_iff _ _ _ _ (fun _ _ => ?_)).2 ?_
    | with_reducible refine (Keeps.foldl_snd_iff _ _ _ _ (fun _ _ => ?_)).2 ?_
    | split
    | dsimp only
theorem Keeps.copyParcel_iff {M : List Field} (sB : State) (s : State) (p : Nat) (q : Nat)
    (hk : [.mem, .pois, .rows, .bspares, .stks, .hubs, .parts, .pages, .ports, .logs, .act, .out].all M.contains = true) : Keeps M sB (State.copyParcel s p q) ↔ Keeps M sB s := Keeps.iff_of (Keeps.copyParcel s p q) hk

theorem Keeps.enqueueWake (s : State) (t : Nat) (kind : Nat) (member : Nat) : Keeps [.hubs] s (State.enqueueWake s t kind member) := by
  unfold State.enqueueWake
  repeat' first
    | done
    | simp (disch := decide) only [↓Keeps.self_iff, ↓Keeps.ite_iff, ↓ite_self, ↓Keeps.modHub_iff]
    | split
    | dsimp only
theorem Keeps.enqueueWake_iff {M : List Field} (sB : State) (s : State) (t : Nat) (kind : Nat) (member : Nat)
    (hk : [.hubs].all M.contains = true) : Keeps M sB (State.enqueueWake s t kind member) ↔ Keeps M sB s := Keeps.iff_of (Keeps.enqueueWake s t kind member) hk

theorem Keeps.advance (s : State) (c : Nat) (t : Option Nat) : Keeps [.ctxs] s (State.advance s c t) := by
  unfold State.advance
  repeat' first
    | done
    | simp (disch := decide) only [↓Keeps.self_iff, ↓Keeps.ite_iff, ↓ite_self, ↓Keeps.modCtx_iff]
    | split
    | dsimp only
theorem Keeps.advance_iff {M : List Field} (sB : State) (s : State) (c : Nat) (t : Option Nat)
    (hk : [.ctxs].all M.contains = true) : Keeps M sB (State.advance s c t) ↔ Keeps M sB s := Keeps.iff_of (Keeps.advance s c t) hk

theorem Keeps.stepDone (s : State) (c : Nat) (step : Nat) (eng : Nat) (op : Nat) (t : Option Nat) : Keeps [.ctxs, .parts, .ports, .act, .out] s (State.stepDone s c step eng op t) := by
  unfold State.stepDone
  repeat' first
    | done
    | simp (disch := decide) only [↓Keeps.self_iff, ↓Keeps.ite_iff, ↓ite_self, ↓Keeps.advance_iff, ↓Keeps.modCtx_iff, ↓Keeps.trace_iff]
    | split
    | dsimp only
theorem Keeps.stepDone_iff {M : List Field} (sB : State) (s : State) (c : Nat) (step : Nat) (eng : Nat) (op : Nat) (t : Option Nat)
    (hk : [.ctxs, .parts, .ports, .act, .out].all M.contains = true) : Keeps M sB (State.stepDone s c step eng op t) ↔ Keeps M sB s := Keeps.iff_of (Keeps.stepDone s c step eng op t) hk

theorem Keeps.copiesStopped (s : State) (rs : List DescRef) (c : Nat) (fault : Nat) : Keeps [.parts, .pages, .ports, .act, .out] s (State.copiesStopped s rs c fault) := by
  unfold State.copiesStopped
  repeat' first
    | done
    | simp (disch := decide) only [↓Keeps.self_iff, ↓Keeps.ite_iff, ↓ite_self, ↓Keeps.complete_iff]
    | with_reducible refine (Keeps.foldl_iff _ _ _ _ (fun _ _ => ?_)).2 ?_
    | split
    | dsimp only
theorem Keeps.copiesStopped_iff {M : List Field} (sB : State) (s : State) (rs : List DescRef) (c : Nat) (fault : Nat)
    (hk : [.parts, .pages, .ports, .act, .out].all M.contains = true) : Keeps M sB (State.copiesStopped s rs c fault) ↔ Keeps M sB s := Keeps.iff_of (Keeps.copiesStopped s rs c fault) hk

theorem Keeps.stopEngines (s : State) (c : Nat) : Keeps [.chans, .crus, .hubs, .me, .ve, .fe, .ctxs, .parts, .pages, .ports, .xacts, .act, .out] s (State.stopEngines s c) := by
  unfold State.stopEngines
  repeat' first
    | done
    | simp (disch := decide) only [↓Keeps.self_iff, ↓Keeps.ite_iff, ↓ite_self, ↓Keeps.copiesStopped_iff, ↓Keeps.modCtx_iff, ↓Keeps.modFchan_iff, ↓Keeps.modHub_iff, ↓Keeps.modMat_iff, ↓Keeps.modVec_iff, ↓Keeps.putChans_iff, ↓Keeps.putCrus_iff, ↓Keeps.putHubs_iff, ↓Keeps.putXacts_iff]
    | with_reducible refine (Keeps.foldl_iff _ _ _ _ (fun _ _ => ?_)).2 ?_
    | with_reducible refine (Keeps.foldl_fst_iff _ _ _ _ (fun _ _ => ?_)).2 ?_
    | with_reducible refine (Keeps.foldl_snd_iff _ _ _ _ (fun _ _ => ?_)).2 ?_
    | split
    | dsimp only
theorem Keeps.stopEngines_iff {M : List Field} (sB : State) (s : State) (c : Nat)
    (hk : [.chans, .crus, .hubs, .me, .ve, .fe, .ctxs, .parts, .pages, .ports, .xacts, .act, .out].all M.contains = true) : Keeps M sB (State.stopEngines s c) ↔ Keeps M sB s := Keeps.iff_of (Keeps.stopEngines s c) hk

theorem Keeps.haltOne (s : State) (c : Nat) (reason : Nat) (fld : Nat) (step : Nat) : Keeps [.chans, .crus, .hubs, .me, .ve, .fe, .ctxs, .parts, .pages, .ports, .xacts, .act, .out] s (State.haltOne s c reason fld step) := by
  unfold State.haltOne
  repeat' first
    | done
    | simp (disch := decide) only [↓Keeps.self_iff, ↓Keeps.ite_iff, ↓ite_self, ↓Keeps.bbox_iff, ↓Keeps.complete_iff, ↓Keeps.modCtx_iff, ↓Keeps.stopEngines_iff, ↓Keeps.trace_iff]
    | split
    | dsimp only
theorem Keeps.haltOne_iff {M : List Field} (sB : State) (s : State) (c : Nat) (reason : Nat) (fld : Nat) (step : Nat)
    (hk : [.chans, .crus, .hubs, .me, .ve, .fe, .ctxs, .parts, .pages, .ports, .xacts, .act, .out].all M.contains = true) : Keeps M sB (State.haltOne s c reason fld step) ↔ Keeps M sB s := Keeps.iff_of (Keeps.haltOne s c reason fld step) hk

theorem Keeps.tellFailed (s : State) (g : Nat) (is : List Inst) : Keeps [.lands, .pm, .act, .out] s (State.tellFailed s g is) := by
  unfold State.tellFailed
  repeat' first
    | done
    | simp (disch := decide) only [↓Keeps.self_iff, ↓Keeps.ite_iff, ↓ite_self, ↓Keeps.sendAll_iff]
    | with_reducible refine (Keeps.foldl_iff _ _ _ _ (fun _ _ => ?_)).2 ?_
    | split
    | dsimp only
theorem Keeps.tellFailed_iff {M : List Field} (sB : State) (s : State) (g : Nat) (is : List Inst)
    (hk : [.lands, .pm, .act, .out].all M.contains = true) : Keeps M sB (State.tellFailed s g is) ↔ Keeps M sB s := Keeps.iff_of (Keeps.tellFailed s g is) hk

theorem Keeps.failMeets (s : State) (c : Nat) : Keeps [.lands, .groups, .pm, .act, .out] s (State.failMeets s c) := by
  unfold State.failMeets
  repeat' first
    | done
    | simp (disch := decide) only [↓Keeps.self_iff, ↓Keeps.ite_iff, ↓ite_self, ↓Keeps.modGroup_iff, ↓Keeps.tellFailed_iff]
    | with_reducible refine (Keeps.foldl_iff _ _ _ _ (fun _ _ => ?_)).2 ?_
    | with_reducible refine (Keeps.foldl_fst_iff _ _ _ _ (fun _ _ => ?_)).2 ?_
    | with_reducible refine (Keeps.foldl_snd_iff _ _ _ _ (fun _ _ => ?_)).2 ?_
    | split
    | dsimp only
theorem Keeps.failMeets_iff {M : List Field} (sB : State) (s : State) (c : Nat)
    (hk : [.lands, .groups, .pm, .act, .out].all M.contains = true) : Keeps M sB (State.failMeets s c) ↔ Keeps M sB s := Keeps.iff_of (Keeps.failMeets s c) hk

theorem Keeps.haltMany (a0 : Nat) (a1 : List (Nat × Nat × Nat × Nat)) (a2 : State) : Keeps [.chans, .crus, .hubs, .me, .ve, .fe, .ctxs, .parts, .pages, .ports, .lands, .xacts, .groups, .pm, .act, .out] a2 (State.haltMany a0 a1 a2) := by
  induction a0 generalizing a1 a2 with
  | zero => exact Keeps.refl _ _
  | succ n ih =>
    cases a1 with
    | nil => exact Keeps.refl _ _
    | cons x l =>
      obtain ⟨c, reason, fld, step⟩ := x
      unfold State.haltMany
      split
      · refine (Keeps.iff_of (ih ..) (by decide)).2 ?_
        simp (disch := decide) only [↓Keeps.self_iff, ↓Keeps.haltOne_iff, ↓Keeps.failMeets_iff]
      · exact ih ..
theorem Keeps.haltMany_iff {M : List Field} (sB : State) (a0 : Nat) (a1 : List (Nat × Nat × Nat × Nat)) (a2 : State)
    (hk : [.chans, .crus, .hubs, .me, .ve, .fe, .ctxs, .parts, .pages, .ports, .lands, .xacts, .groups, .pm, .act, .out].all M.contains = true) : Keeps M sB (State.haltMany a0 a1 a2) ↔ Keeps M sB a2 := Keeps.iff_of (Keeps.haltMany a0 a1 a2) hk

theorem Keeps.halt (s : State) (c : Nat) (reason : Nat) (fld : Nat) (step : Nat) : Keeps [.chans, .crus, .hubs, .me, .ve, .fe, .ctxs, .parts, .pages, .ports, .lands, .xacts, .groups, .pm, .act, .out] s (State.halt s c reason fld step) := by
  unfold State.halt
  repeat' first
    | done
    | simp (disch := decide) only [↓Keeps.self_iff, ↓Keeps.ite_iff, ↓ite_self, ↓Keeps.haltMany_iff]
    | split
    | dsimp only
theorem Keeps.halt_iff {M : List Field} (sB : State) (s : State) (c : Nat) (reason : Nat) (fld : Nat) (step : Nat)
    (hk : [.chans, .crus, .hubs, .me, .ve, .fe, .ctxs, .parts, .pages, .ports, .lands, .xacts, .groups, .pm, .act, .out].all M.contains = true) : Keeps M sB (State.halt s c reason fld step) ↔ Keeps M sB s := Keeps.iff_of (Keeps.halt s c reason fld step) hk

theorem Keeps.notePoison (s : State) (c : Nat) : Keeps [.ctxs] s (State.notePoison s c) := by
  unfold State.notePoison
  repeat' first
    | done
    | simp (disch := decide) only [↓Keeps.self_iff, ↓Keeps.ite_iff, ↓ite_self, ↓Keeps.modCtx_iff]
    | split
    | dsimp only
theorem Keeps.notePoison_iff {M : List Field} (sB : State) (s : State) (c : Nat)
    (hk : [.ctxs].all M.contains = true) : Keeps M sB (State.notePoison s c) ↔ Keeps M sB s := Keeps.iff_of (Keeps.notePoison s c) hk

theorem Keeps.ferryFault (s : State) (t : Nat) (ch : Nat) (fault : Nat) (fld : Nat) (at_ : Nat × Nat × Nat × Nat) : Keeps [.chans, .crus, .hubs, .me, .ve, .fe, .ctxs, .parts, .pages, .ports, .lands, .xacts, .groups, .pm, .act, .out] s (State.ferryFault s t ch fault fld at_) := by
  unfold State.ferryFault
  repeat' first
    | done
    | simp (disch := decide) only [↓Keeps.self_iff, ↓Keeps.ite_iff, ↓ite_self, ↓Keeps.bbox_iff, ↓Keeps.copiesStopped_iff, ↓Keeps.event_iff, ↓Keeps.halt_iff, ↓Keeps.modFchan_iff, ↓Keeps.modHub_iff, ↓Keeps.putXacts_iff]
    | split
    | dsimp only
theorem Keeps.ferryFault_iff {M : List Field} (sB : State) (s : State) (t : Nat) (ch : Nat) (fault : Nat) (fld : Nat) (at_ : Nat × Nat × Nat × Nat)
    (hk : [.chans, .crus, .hubs, .me, .ve, .fe, .ctxs, .parts, .pages, .ports, .lands, .xacts, .groups, .pm, .act, .out].all M.contains = true) : Keeps M sB (State.ferryFault s t ch fault fld at_) ↔ Keeps M sB s := Keeps.iff_of (Keeps.ferryFault s t ch fault fld at_) hk

theorem Keeps.answer (s : State) (a : Answer) : Keeps [.out] s (State.answer s a) := by
  unfold State.answer
  repeat' first
    | done
    | simp (disch := decide) only [↓Keeps.self_iff, ↓Keeps.ite_iff, ↓ite_self, ↓Keeps.putOut_iff]
    | split
    | dsimp only
theorem Keeps.answer_iff {M : List Field} (sB : State) (s : State) (a : Answer)
    (hk : [.out].all M.contains = true) : Keeps M sB (State.answer s a) ↔ Keeps M sB s := Keeps.iff_of (Keeps.answer s a) hk

theorem Keeps.reportError (s : State) (ch : Nat) (x : BusCmd) : Keeps [.chans] s (State.reportError s ch x) := by
  unfold State.reportError
  repeat' first
    | done
    | simp (disch := decide) only [↓Keeps.self_iff, ↓Keeps.ite_iff, ↓ite_self, ↓Keeps.modChan_iff]
    | split
    | dsimp only
theorem Keeps.reportError_iff {M : List Field} (sB : State) (s : State) (ch : Nat) (x : BusCmd)
    (hk : [.chans].all M.contains = true) : Keeps M sB (State.reportError s ch x) ↔ Keeps M sB s := Keeps.iff_of (Keeps.reportError s ch x) hk

theorem Keeps.badRank (s : State) (ch : Nat) (column : Bool) (word : Nat) : Keeps [.chans] s (State.badRank s ch column word) := by
  unfold State.badRank
  repeat' first
    | done
    | simp (disch := decide) only [↓Keeps.self_iff, ↓Keeps.ite_iff, ↓ite_self, ↓Keeps.reportError_iff]
    | split
    | dsimp only
theorem Keeps.badRank_iff {M : List Field} (sB : State) (s : State) (ch : Nat) (column : Bool) (word : Nat)
    (hk : [.chans].all M.contains = true) : Keeps M sB (State.badRank s ch column word) ↔ Keeps M sB s := Keeps.iff_of (Keeps.badRank s ch column word) hk

theorem Keeps.wrongMode (s : State) (ch : Nat) (js : List Nat) : Keeps [.nbus] s (State.wrongMode s ch js) := by
  unfold State.wrongMode
  repeat' first
    | done
    | simp (disch := decide) only [↓Keeps.self_iff, ↓Keeps.ite_iff, ↓ite_self, ↓Keeps.putNbus_iff]
    | split
    | dsimp only
theorem Keeps.wrongMode_iff {M : List Field} (sB : State) (s : State) (ch : Nat) (js : List Nat)
    (hk : [.nbus].all M.contains = true) : Keeps M sB (State.wrongMode s ch js) ↔ Keeps M sB s := Keeps.iff_of (Keeps.wrongMode s ch js) hk

theorem Keeps.tallyRow (s : State) (ch : Nat) (j : Nat) (r : Nat) (who : Nat) : Keeps [.rows, .chans] s (State.tallyRow s ch j r who) := by
  unfold State.tallyRow
  repeat' first
    | done
    | simp (disch := decide) only [↓Keeps.self_iff, ↓Keeps.ite_iff, ↓ite_self, ↓Keeps.modChan_iff, ↓Keeps.modRow_iff]
    | split
    | dsimp only
theorem Keeps.tallyRow_iff {M : List Field} (sB : State) (s : State) (ch : Nat) (j : Nat) (r : Nat) (who : Nat)
    (hk : [.rows, .chans].all M.contains = true) : Keeps M sB (State.tallyRow s ch j r who) ↔ Keeps M sB s := Keeps.iff_of (Keeps.tallyRow s ch j r who) hk

theorem Keeps.clearTallies (s : State) (b : Nat) (ws : List (Nat × Nat)) : Keeps [.rows] s (State.clearTallies s b ws) := by
  unfold State.clearTallies
  repeat' first
    | done
    | simp (disch := decide) only [↓Keeps.self_iff, ↓Keeps.ite_iff, ↓ite_self, ↓Keeps.putRows_iff]
    | split
    | dsimp only
theorem Keeps.clearTallies_iff {M : List Field} (sB : State) (s : State) (b : Nat) (ws : List (Nat × Nat))
    (hk : [.rows].all M.contains = true) : Keeps M sB (State.clearTallies s b ws) ↔ Keeps M sB s := Keeps.iff_of (Keeps.clearTallies s b ws) hk

theorem Keeps.refreshBank (s : State) (ch : Nat) (j : Nat) : Keeps [.rows, .chans] s (State.refreshBank s ch j) := by
  unfold State.refreshBank
  repeat' first
    | done
    | simp (disch := decide) only [↓Keeps.self_iff, ↓Keeps.ite_iff, ↓ite_self, ↓Keeps.clearTallies_iff, ↓Keeps.modChan_iff]
    | split
    | dsimp only
theorem Keeps.refreshBank_iff {M : List Field} (sB : State) (s : State) (ch : Nat) (j : Nat)
    (hk : [.rows, .chans].all M.contains = true) : Keeps M sB (State.refreshBank s ch j) ↔ Keeps M sB s := Keeps.iff_of (Keeps.refreshBank s ch j) hk

theorem Keeps.repay (s : State) (ch : Nat) (j : Nat) : Keeps [.rows, .chans] s (State.repay s ch j) := by
  unfold State.repay
  repeat' first
    | done
    | simp (disch := decide) only [↓Keeps.self_iff, ↓Keeps.ite_iff, ↓ite_self, ↓Keeps.modChan_iff, ↓Keeps.refreshBank_iff]
    | split
    | dsimp only
theorem Keeps.repay_iff {M : List Field} (sB : State) (s : State) (ch : Nat) (j : Nat)
    (hk : [.rows, .chans].all M.contains = true) : Keeps M sB (State.repay s ch j) ↔ Keeps M sB s := Keeps.iff_of (Keeps.repay s ch j) hk

theorem Keeps.closeRow (s : State) (ch : Nat) (j : Nat) : Keeps [.rows, .chans] s (State.closeRow s ch j) := by
  unfold State.closeRow
  repeat' first
    | done
    | simp (disch := decide) only [↓Keeps.self_iff, ↓Keeps.ite_iff, ↓ite_self, ↓Keeps.modChan_iff, ↓Keeps.repay_iff]
    | with_reducible refine (Keeps.foldl_iff _ _ _ _ (fun _ _ => ?_)).2 ?_
    | split
    | dsimp only
theorem Keeps.closeRow_iff {M : List Field} (sB : State) (s : State) (ch : Nat) (j : Nat)
    (hk : [.rows, .chans].all M.contains = true) : Keeps M sB (State.closeRow s ch j) ↔ Keeps M sB s := Keeps.iff_of (Keeps.closeRow s ch j) hk

theorem Keeps.openRow (s : State) (ch : Nat) (j : Nat) (r : Nat) (who : Nat) : Keeps [.rows, .chans] s (State.openRow s ch j r who) := by
  unfold State.openRow
  repeat' first
    | done
    | simp (disch := decide) only [↓Keeps.self_iff, ↓Keeps.ite_iff, ↓ite_self, ↓Keeps.modChan_iff, ↓Keeps.tallyRow_iff]
    | split
    | dsimp only
theorem Keeps.openRow_iff {M : List Field} (sB : State) (s : State) (ch : Nat) (j : Nat) (r : Nat) (who : Nat)
    (hk : [.rows, .chans].all M.contains = true) : Keeps M sB (State.openRow s ch j r who) ↔ Keeps M sB s := Keeps.iff_of (Keeps.openRow s ch j r who) hk

theorem Keeps.loseNbus (s : State) (bs : List Nat) : Keeps [.nbus] s (State.loseNbus s bs) := by
  unfold State.loseNbus
  repeat' first
    | done
    | simp (disch := decide) only [↓Keeps.self_iff, ↓Keeps.ite_iff, ↓ite_self, ↓Keeps.putNbus_iff]
    | split
    | dsimp only
theorem Keeps.loseNbus_iff {M : List Field} (sB : State) (s : State) (bs : List Nat)
    (hk : [.nbus].all M.contains = true) : Keeps M sB (State.loseNbus s bs) ↔ Keeps M sB s := Keeps.iff_of (Keeps.loseNbus s bs) hk

theorem Keeps.enterStackSr (s : State) (st : Nat) : Keeps [.stks, .chans, .nbus] s (State.enterStackSr s st) := by
  unfold State.enterStackSr
  repeat' first
    | done
    | simp (disch := decide) only [↓Keeps.self_iff, ↓Keeps.ite_iff, ↓ite_self, ↓Keeps.loseNbus_iff, ↓Keeps.modStack_iff, ↓Keeps.putChans_iff]
    | split
    | dsimp only
theorem Keeps.enterStackSr_iff {M : List Field} (sB : State) (s : State) (st : Nat)
    (hk : [.stks, .chans, .nbus].all M.contains = true) : Keeps M sB (State.enterStackSr s st) ↔ Keeps M sB s := Keeps.iff_of (Keeps.enterStackSr s st) hk

theorem Keeps.askDecode (s : State) (rk : Nat) (col : Nat) (path : Nat) (part : Option Nat) (addr : Nat) (req : Option Req) : Keeps [.stks] s (State.askDecode s rk col path part addr req) := by
  unfold State.askDecode
  repeat' first
    | done
    | simp (disch := decide) only [↓Keeps.self_iff, ↓Keeps.ite_iff, ↓ite_self, ↓Keeps.modStack_iff]
    | split
    | dsimp only
theorem Keeps.askDecode_iff {M : List Field} (sB : State) (s : State) (rk : Nat) (col : Nat) (path : Nat) (part : Option Nat) (addr : Nat) (req : Option Req)
    (hk : [.stks].all M.contains = true) : Keeps M sB (State.askDecode s rk col path part addr req) ↔ Keeps M sB s := Keeps.iff_of (Keeps.askDecode s rk col path part addr req) hk

theorem Keeps.refreshNeighbours (s : State) (ch : Nat) (j : Nat) (r : Nat) : Keeps [.rows, .chans] s (State.refreshNeighbours s ch j r) := by
  unfold State.refreshNeighbours
  repeat' first
    | done
    | simp (disch := decide) only [↓Keeps.self_iff, ↓Keeps.ite_iff, ↓ite_self, ↓Keeps.clearTallies_iff, ↓Keeps.modChan_iff]
    | split
    | dsimp only
theorem Keeps.refreshNeighbours_iff {M : List Field} (sB : State) (s : State) (ch : Nat) (j : Nat) (r : Nat)
    (hk : [.rows, .chans].all M.contains = true) : Keeps M sB (State.refreshNeighbours s ch j r) ↔ Keeps M sB s := Keeps.iff_of (Keeps.refreshNeighbours s ch j r) hk

theorem Keeps.reportFail (s : State) (q : Req) (st : Nat) : Keeps [.hubs, .parts, .pages, .ports, .lands, .logs, .pm, .act, .out] s (State.reportFail s q st) := by
  unfold State.reportFail
  repeat' first
    | done
    | simp (disch := decide) only [↓Keeps.self_iff, ↓Keeps.ite_iff, ↓ite_self, ↓Keeps.lateFail_iff, ↓Keeps.lateLog_iff, ↓Keeps.modHport_iff, ↓Keeps.reply_iff]
    | split
    | dsimp only
theorem Keeps.reportFail_iff {M : List Field} (sB : State) (s : State) (q : Req) (st : Nat)
    (hk : [.hubs, .parts, .pages, .ports, .lands, .logs, .pm, .act, .out].all M.contains = true) : Keeps M sB (State.reportFail s q st) ↔ Keeps M sB s := Keeps.iff_of (Keeps.reportFail s q st) hk

theorem Keeps.writeDone (s : State) (q : Req) (ok : Bool) : Keeps [.chans, .crus, .hubs, .me, .ve, .fe, .ctxs, .parts, .pages, .streams, .ports, .lands, .xacts, .groups, .logs, .pm, .act, .out] s (State.writeDone s q ok) := by
  unfold State.writeDone
  repeat' first
    | done
    | simp (disch := decide) only [↓Keeps.self_iff, ↓Keeps.ite_iff, ↓ite_self, ↓Keeps.answer_iff, ↓Keeps.ferryFault_iff, ↓Keeps.modStream_iff, ↓Keeps.reportFail_iff]
    | split
    | dsimp only
theorem Keeps.writeDone_iff {M : List Field} (sB : State) (s : State) (q : Req) (ok : Bool)
    (hk : [.chans, .crus, .hubs, .me, .ve, .fe, .ctxs, .parts, .pages, .streams, .ports, .lands, .xacts, .groups, .logs, .pm, .act, .out].all M.contains = true) : Keeps M sB (State.writeDone s q ok) ↔ Keeps M sB s := Keeps.iff_of (Keeps.writeDone s q ok) hk

theorem Keeps.performWrite (s : State) (ch : Nat) (q : Req) : Keeps [.mem, .pois, .rows, .bspares, .stks, .chans, .crus, .hubs, .me, .ve, .fe, .ctxs, .parts, .pages, .streams, .ports, .lands, .xacts, .groups, .logs, .pm, .act, .out] s (State.performWrite s ch q) := by
  have y : ∀ (L : List Field) (f : State → Nat → Line512 → BitVec 64 → Bool → Nat → Option Nat → Nat → State × Bool), (∀ s k a b c d e g, Keeps L s (f s k a b c d e g).1) →
      Keeps L s (let k := q.spot ch
        let a := s.addrFor q.who q.addr
        let r := f s k q.data q.mask q.poison (writePath q.who) q.part a
        match s.movingLine q.addr with
        | some m => if r.2 = true ∧ s.lineOfSa q.addr = k then (f r.1 m q.data q.mask q.poison (writePath q.who) q.part a).1 else r.1
        | none => r.1) := by
    intro L f h
    dsimp only
    split
    · split
      · exact Keeps.via (h ..) (h ..) (by simp)
      · exact h ..
    · exact h ..
  unfold State.performWrite
  exact (Keeps.writeDone_iff _ _ _ _ (by decide)).2 (y [.mem, .pois, .rows, .bspares, .stks, .chans, .crus, .hubs, .me, .ve, .fe, .ctxs, .parts, .pages, .streams, .ports, .lands, .xacts, .groups, .logs, .pm, .act, .out] State.writeLine (fun _ _ _ _ _ _ _ _ => Keeps.mono (Keeps.writeLine ..) (by decide)))
theorem Keeps.performWrite_iff {M : List Field} (sB : State) (s : State) (ch : Nat) (q : Req)
    (hk : [.mem, .pois, .rows, .bspares, .stks, .chans, .crus, .hubs, .me, .ve, .fe, .ctxs, .parts, .pages, .streams, .ports, .lands, .xacts, .groups, .logs, .pm, .act, .out].all M.contains = true) : Keeps M sB (State.performWrite s ch q) ↔ Keeps M sB s := Keeps.iff_of (Keeps.performWrite s ch q) hk

theorem Keeps.accept (s : State) (ch : Nat) (q : Req) : Keeps [.chans, .hubs] s (State.accept s ch q) := by
  unfold State.accept
  repeat' first
    | done
    | simp (disch := decide) only [↓Keeps.self_iff, ↓Keeps.ite_iff, ↓ite_self, ↓Keeps.enqueueWake_iff, ↓Keeps.modChan_iff]
    | split
    | dsimp only
theorem Keeps.accept_iff {M : List Field} (sB : State) (s : State) (ch : Nat) (q : Req)
    (hk : [.chans, .hubs].all M.contains = true) : Keeps M sB (State.accept s ch q) ↔ Keeps M sB s := Keeps.iff_of (Keeps.accept s ch q) hk

theorem Keeps.countGrant (s : State) (ch : Nat) (who : Nat) : Keeps [.chans] s (State.countGrant s ch who) := by
  unfold State.countGrant
  repeat' first
    | done
    | simp (disch := decide) only [↓Keeps.self_iff, ↓Keeps.ite_iff, ↓ite_self, ↓Keeps.modChan_iff]
    | split
    | dsimp only
theorem Keeps.countGrant_iff {M : List Field} (sB : State) (s : State) (ch : Nat) (who : Nat)
    (hk : [.chans].all M.contains = true) : Keeps M sB (State.countGrant s ch who) ↔ Keeps M sB s := Keeps.iff_of (Keeps.countGrant s ch who) hk

theorem Keeps.drainTo (a0 : Nat) (a1 : Nat) (a2 : Nat) (a3 : State) : Keeps [.mem, .pois, .rows, .bspares, .stks, .chans, .crus, .hubs, .me, .ve, .fe, .ctxs, .parts, .pages, .streams, .ports, .lands, .xacts, .groups, .logs, .pm, .act, .out] a3 (State.drainTo a0 a1 a2 a3) := by
  induction a0 generalizing a1 a2 a3 with
  | zero => exact Keeps.refl _ _
  | succ n ih =>
    unfold State.drainTo
    repeat' first
      | done
      | (with_reducible refine (Keeps.iff_of (ih ..) (by decide)).2 ?_)
      | simp (disch := decide) only [↓Keeps.self_iff, ↓Keeps.ite_iff, ↓ite_self, ↓Keeps.modChan_iff, ↓Keeps.performWrite_iff]
      | split
      | dsimp only
theorem Keeps.drainTo_iff {M : List Field} (sB : State) (a0 : Nat) (a1 : Nat) (a2 : Nat) (a3 : State)
    (hk : [.mem, .pois, .rows, .bspares, .stks, .chans, .crus, .hubs, .me, .ve, .fe, .ctxs, .parts, .pages, .streams, .ports, .lands, .xacts, .groups, .logs, .pm, .act, .out].all M.contains = true) : Keeps M sB (State.drainTo a0 a1 a2 a3) ↔ Keeps M sB a3 := Keeps.iff_of (Keeps.drainTo a0 a1 a2 a3) hk

theorem Keeps.drainLine (s : State) (ch : Nat) (k : Nat) : Keeps [.mem, .pois, .rows, .bspares, .stks, .chans, .crus, .hubs, .me, .ve, .fe, .ctxs, .parts, .pages, .streams, .ports, .lands, .xacts, .groups, .logs, .pm, .act, .out] s (State.drainLine s ch k) := by
  unfold State.drainLine
  repeat' first
    | done
    | simp (disch := decide) only [↓Keeps.self_iff, ↓Keeps.ite_iff, ↓ite_self, ↓Keeps.modChan_iff, ↓Keeps.performWrite_iff]
    | with_reducible refine (Keeps.foldl_iff _ _ _ _ (fun _ _ => ?_)).2 ?_
    | split
    | dsimp only
theorem Keeps.drainLine_iff {M : List Field} (sB : State) (s : State) (ch : Nat) (k : Nat)
    (hk : [.mem, .pois, .rows, .bspares, .stks, .chans, .crus, .hubs, .me, .ve, .fe, .ctxs, .parts, .pages, .streams, .ports, .lands, .xacts, .groups, .logs, .pm, .act, .out].all M.contains = true) : Keeps M sB (State.drainLine s ch k) ↔ Keeps M sB s := Keeps.iff_of (Keeps.drainLine s ch k) hk

theorem Keeps.reachRow (s : State) (ch : Nat) (j : Nat) (row : Nat) (who : Nat) : Keeps [.rows, .chans] s (State.reachRow s ch j row who) := by
  unfold State.reachRow
  repeat' first
    | done
    | simp (disch := decide) only [↓Keeps.self_iff, ↓Keeps.ite_iff, ↓ite_self, ↓Keeps.closeRow_iff, ↓Keeps.openRow_iff]
    | split
    | dsimp only
theorem Keeps.reachRow_iff {M : List Field} (sB : State) (s : State) (ch : Nat) (j : Nat) (row : Nat) (who : Nat)
    (hk : [.rows, .chans].all M.contains = true) : Keeps M sB (State.reachRow s ch j row who) ↔ Keeps M sB s := Keeps.iff_of (Keeps.reachRow s ch j row who) hk

theorem Keeps.fillBuffer (s : State) (p : Nat) (sa : Nat) (d : Line512 × Bool) : Keeps [.ports] s (State.fillBuffer s p sa d) := by
  unfold State.fillBuffer
  repeat' first
    | done
    | simp (disch := decide) only [↓Keeps.self_iff, ↓Keeps.ite_iff, ↓ite_self, ↓Keeps.modHport_iff]
    | split
    | dsimp only
theorem Keeps.fillBuffer_iff {M : List Field} (sB : State) (s : State) (p : Nat) (sa : Nat) (d : Line512 × Bool)
    (hk : [.ports].all M.contains = true) : Keeps M sB (State.fillBuffer s p sa d) ↔ Keeps M sB s := Keeps.iff_of (Keeps.fillBuffer s p sa d) hk

theorem Keeps.answerRead (s : State) (ch : Nat) (q : Req) : Keeps [.hubs, .parts, .pages, .ports, .logs, .act, .out] s (State.answerRead s ch q) := by
  unfold State.answerRead
  repeat' first
    | done
    | simp (disch := decide) only [↓Keeps.self_iff, ↓Keeps.ite_iff, ↓ite_self, ↓Keeps.answer_iff, ↓Keeps.fillBuffer_iff, ↓Keeps.noteRead_iff]
    | split
    | dsimp only
theorem Keeps.answerRead_iff {M : List Field} (sB : State) (s : State) (ch : Nat) (q : Req)
    (hk : [.hubs, .parts, .pages, .ports, .logs, .act, .out].all M.contains = true) : Keeps M sB (State.answerRead s ch q) ↔ Keeps M sB s := Keeps.iff_of (Keeps.answerRead s ch q) hk

theorem Keeps.readBanks (s : State) (ch : Nat) (q : Req) : Keeps [.rows, .stks, .chans, .hubs, .parts, .pages, .ports, .logs, .act, .out] s (State.readBanks s ch q) := by
  unfold State.readBanks
  repeat' first
    | done
    | simp (disch := decide) only [↓Keeps.self_iff, ↓Keeps.ite_iff, ↓ite_self, ↓Keeps.answerRead_iff, ↓Keeps.askDecode_iff, ↓Keeps.reachRow_iff, ↓Keeps.spend_iff]
    | split
    | dsimp only
theorem Keeps.readBanks_iff {M : List Field} (sB : State) (s : State) (ch : Nat) (q : Req)
    (hk : [.rows, .stks, .chans, .hubs, .parts, .pages, .ports, .logs, .act, .out].all M.contains = true) : Keeps M sB (State.readBanks s ch q) ↔ Keeps M sB s := Keeps.iff_of (Keeps.readBanks s ch q) hk

theorem Keeps.serve (s : State) (ch : Nat) (q : Req) : Keeps [.mem, .pois, .rows, .bspares, .stks, .chans, .crus, .hubs, .me, .ve, .fe, .ctxs, .parts, .pages, .streams, .ports, .lands, .xacts, .groups, .logs, .pm, .act, .out] s (State.serve s ch q) := by
  unfold State.serve
  repeat' first
    | done
    | simp (disch := decide) only [↓Keeps.self_iff, ↓Keeps.ite_iff, ↓ite_self, ↓Keeps.answerRead_iff, ↓Keeps.drainLine_iff, ↓Keeps.drainTo_iff, ↓Keeps.modChan_iff, ↓Keeps.readBanks_iff]
    | split
    | dsimp only
theorem Keeps.serve_iff {M : List Field} (sB : State) (s : State) (ch : Nat) (q : Req)
    (hk : [.mem, .pois, .rows, .bspares, .stks, .chans, .crus, .hubs, .me, .ve, .fe, .ctxs, .parts, .pages, .streams, .ports, .lands, .xacts, .groups, .logs, .pm, .act, .out].all M.contains = true) : Keeps M sB (State.serve s ch q) ↔ Keeps M sB s := Keeps.iff_of (Keeps.serve s ch q) hk

theorem Keeps.runGrant (a0 : Nat) (a1 : Nat) (a2 : Nat) (a3 : Nat) (a4 : State) : Keeps [.mem, .pois, .rows, .bspares, .stks, .chans, .crus, .hubs, .me, .ve, .fe, .ctxs, .parts, .pages, .streams, .ports, .lands, .xacts, .groups, .logs, .pm, .act, .out] a4 (State.runGrant a0 a1 a2 a3 a4) := by
  induction a0 generalizing a1 a2 a3 a4 with
  | zero => exact Keeps.refl _ _
  | succ n ih =>
    unfold State.runGrant
    repeat' first
      | done
      | (with_reducible refine (Keeps.iff_of (ih ..) (by decide)).2 ?_)
      | simp (disch := decide) only [↓Keeps.self_iff, ↓Keeps.ite_iff, ↓ite_self, ↓Keeps.serve_iff]
      | split
      | dsimp only
theorem Keeps.runGrant_iff {M : List Field} (sB : State) (a0 : Nat) (a1 : Nat) (a2 : Nat) (a3 : Nat) (a4 : State)
    (hk : [.mem, .pois, .rows, .bspares, .stks, .chans, .crus, .hubs, .me, .ve, .fe, .ctxs, .parts, .pages, .streams, .ports, .lands, .xacts, .groups, .logs, .pm, .act, .out].all M.contains = true) : Keeps M sB (State.runGrant a0 a1 a2 a3 a4) ↔ Keeps M sB a4 := Keeps.iff_of (Keeps.runGrant a0 a1 a2 a3 a4) hk

theorem Keeps.grantNow (s : State) (ch : Nat) (who : Nat) : Keeps [.mem, .pois, .rows, .bspares, .stks, .chans, .crus, .hubs, .me, .ve, .fe, .ctxs, .parts, .pages, .streams, .ports, .lands, .xacts, .groups, .logs, .pm, .act, .out] s (State.grantNow s ch who) := by
  unfold State.grantNow
  repeat' first
    | done
    | simp (disch := decide) only [↓Keeps.self_iff, ↓Keeps.ite_iff, ↓ite_self, ↓Keeps.countGrant_iff, ↓Keeps.runGrant_iff]
    | split
    | dsimp only
theorem Keeps.grantNow_iff {M : List Field} (sB : State) (s : State) (ch : Nat) (who : Nat)
    (hk : [.mem, .pois, .rows, .bspares, .stks, .chans, .crus, .hubs, .me, .ve, .fe, .ctxs, .parts, .pages, .streams, .ports, .lands, .xacts, .groups, .logs, .pm, .act, .out].all M.contains = true) : Keeps M sB (State.grantNow s ch who) ↔ Keeps M sB s := Keeps.iff_of (Keeps.grantNow s ch who) hk

theorem Keeps.grantTo_some {s : State} {ch : Nat} {who : Nat} {u0 : Sys2Proof.Machine.State} (h : State.grantTo s ch who = some u0) : Keeps [.chans] s u0 := by
  unfold State.grantTo at h
  repeat' first
    | done
    | (cases h; done)
    | (cases h; simp (disch := decide) only [↓Keeps.self_iff, ↓Keeps.ite_iff, ↓ite_self, ↓Keeps.countGrant_iff]; done)
    | (exact Keeps.refl _ _)
    | split at h
    | dsimp only at h

theorem Keeps.bankRead (s : State) (who : Nat) (path : Nat) (part : Option Nat) (sa : Nat) : Keeps [.pois, .rows, .bspares, .stks, .chans, .hubs, .parts, .pages, .ports, .logs, .act, .out] s (State.bankRead s who path part sa).2 := by
  unfold State.bankRead
  repeat' first
    | done
    | simp (disch := decide) only [↓Keeps.self_iff, ↓Keeps.ite_iff, ↓ite_self, ↓Keeps.modChan_iff, ↓Keeps.noteRead_iff, ↓Keeps.reachRow_iff, ↓Keeps.spend_iff, ↓Keeps.testLine_iff]
    | split
    | dsimp only
theorem Keeps.bankRead_iff {M : List Field} (sB : State) (s : State) (who : Nat) (path : Nat) (part : Option Nat) (sa : Nat)
    (hk : [.pois, .rows, .bspares, .stks, .chans, .hubs, .parts, .pages, .ports, .logs, .act, .out].all M.contains = true) : Keeps M sB (State.bankRead s who path part sa).2 ↔ Keeps M sB s := Keeps.iff_of (Keeps.bankRead s who path part sa) hk
theorem Keeps.bankRead_eq {s : State} {who : Nat} {path : Nat} {part : Option Nat} {sa : Nat} {u0 : State} {y : (Sys2Proof.Line512 × Bool)} (h : State.bankRead s who path part sa = (y, u0)) : Keeps [.pois, .rows, .bspares, .stks, .chans, .hubs, .parts, .pages, .ports, .logs, .act, .out] s u0 := by
  have k := Keeps.bankRead s who path part sa
  rw [h] at k
  exact k

theorem Keeps.noteEye (s : State) (ch : Nat) (ls : List Sweep) : Keeps [.hubs] s (State.noteEye s ch ls) := by
  unfold State.noteEye
  repeat' first
    | done
    | simp (disch := decide) only [↓Keeps.self_iff, ↓Keeps.ite_iff, ↓ite_self, ↓Keeps.bbox_iff]
    | split
    | dsimp only
theorem Keeps.noteEye_iff {M : List Field} (sB : State) (s : State) (ch : Nat) (ls : List Sweep)
    (hk : [.hubs].all M.contains = true) : Keeps M sB (State.noteEye s ch ls) ↔ Keeps M sB s := Keeps.iff_of (Keeps.noteEye s ch ls) hk

theorem Keeps.reviewCode (s : State) (sl : Nat) : Keeps [.slots] s (State.reviewCode s sl) := by
  unfold State.reviewCode
  repeat' first
    | done
    | simp (disch := decide) only [↓Keeps.self_iff, ↓Keeps.ite_iff, ↓ite_self, ↓Keeps.modSlot_iff]
    | split
    | dsimp only
theorem Keeps.reviewCode_iff {M : List Field} (sB : State) (s : State) (sl : Nat)
    (hk : [.slots].all M.contains = true) : Keeps M sB (State.reviewCode s sl) ↔ Keeps M sB s := Keeps.iff_of (Keeps.reviewCode s sl) hk

theorem Keeps.reviewAll (s : State) : Keeps [.slots] s (State.reviewAll s) := by
  unfold State.reviewAll
  repeat' first
    | done
    | simp (disch := decide) only [↓Keeps.self_iff, ↓Keeps.ite_iff, ↓ite_self, ↓Keeps.reviewCode_iff]
    | with_reducible refine (Keeps.foldl_iff _ _ _ _ (fun _ _ => ?_)).2 ?_
    | split
    | dsimp only
theorem Keeps.reviewAll_iff {M : List Field} (sB : State) (s : State)
    (hk : [.slots].all M.contains = true) : Keeps M sB (State.reviewAll s) ↔ Keeps M sB s := Keeps.iff_of (Keeps.reviewAll s) hk

theorem Keeps.retireParcel (s : State) (p : Nat) : Keeps [.parcels, .hubs, .logs] s (State.retireParcel s p) := by
  unfold State.retireParcel
  repeat' first
    | done
    | simp (disch := decide) only [↓Keeps.self_iff, ↓Keeps.ite_iff, ↓ite_self, ↓Keeps.logError_iff, ↓Keeps.modParcel_iff]
    | split
    | dsimp only
theorem Keeps.retireParcel_iff {M : List Field} (sB : State) (s : State) (p : Nat)
    (hk : [.parcels, .hubs, .logs].all M.contains = true) : Keeps M sB (State.retireParcel s p) ↔ Keeps M sB s := Keeps.iff_of (Keeps.retireParcel s p) hk

theorem Keeps.raiseParcel (s : State) (p : Nat) : Keeps [.slots, .parcels, .hubs, .logs] s (State.raiseParcel s p) := by
  unfold State.raiseParcel
  repeat' first
    | done
    | simp (disch := decide) only [↓Keeps.self_iff, ↓Keeps.ite_iff, ↓ite_self, ↓Keeps.logError_iff, ↓Keeps.modParcel_iff, ↓Keeps.retireParcel_iff, ↓Keeps.reviewCode_iff]
    | split
    | dsimp only
theorem Keeps.raiseParcel_iff {M : List Field} (sB : State) (s : State) (p : Nat)
    (hk : [.slots, .parcels, .hubs, .logs].all M.contains = true) : Keeps M sB (State.raiseParcel s p) ↔ Keeps M sB s := Keeps.iff_of (Keeps.raiseParcel s p) hk

theorem Keeps.countColumns (s : State) (b : Nat) (cols : List Nat) : Keeps [.bspares, .stks] s (State.countColumns s b cols) := by
  unfold State.countColumns
  repeat' first
    | done
    | simp (disch := decide) only [↓Keeps.self_iff, ↓Keeps.ite_iff, ↓ite_self, ↓Keeps.modBspare_iff, ↓Keeps.modStack_iff]
    | with_reducible refine (Keeps.foldl_iff _ _ _ _ (fun _ _ => ?_)).2 ?_
    | with_reducible refine (Keeps.foldl_fst_iff _ _ _ _ (fun _ _ => ?_)).2 ?_
    | with_reducible refine (Keeps.foldl_snd_iff _ _ _ _ (fun _ _ => ?_)).2 ?_
    | split
    | dsimp only
theorem Keeps.countColumns_iff {M : List Field} (sB : State) (s : State) (b : Nat) (cols : List Nat)
    (hk : [.bspares, .stks].all M.contains = true) : Keeps M sB (State.countColumns s b cols) ↔ Keeps M sB s := Keeps.iff_of (Keeps.countColumns s b cols) hk

theorem Keeps.scrubRow (s : State) (rk : Nat) : Keeps [.slots, .parcels, .pois, .rows, .bspares, .stks, .hubs, .parts, .pages, .ports, .logs, .act, .out] s (State.scrubRow s rk) := by
  unfold State.scrubRow
  repeat' first
    | done
    | simp (disch := decide) only [↓Keeps.self_iff, ↓Keeps.ite_iff, ↓ite_self, ↓Keeps.countColumns_iff, ↓Keeps.decodeRow_iff, ↓Keeps.modParcel_iff, ↓Keeps.modRow_iff, ↓Keeps.raiseParcel_iff, ↓Keeps.retireRow_iff]
    | split
    | dsimp only
theorem Keeps.scrubRow_iff {M : List Field} (sB : State) (s : State) (rk : Nat)
    (hk : [.slots, .parcels, .pois, .rows, .bspares, .stks, .hubs, .parts, .pages, .ports, .logs, .act, .out].all M.contains = true) : Keeps M sB (State.scrubRow s rk) ↔ Keeps M sB s := Keeps.iff_of (Keeps.scrubRow s rk) hk

theorem Keeps.reencodeOne (s : State) (rk : Nat) (t : Nat) : Keeps [.pois, .rows, .bspares, .stks, .hubs, .parts, .pages, .ports, .logs, .act, .out] s (State.reencodeOne s rk t) := by
  unfold State.reencodeOne
  repeat' first
    | done
    | simp (disch := decide) only [↓Keeps.self_iff, ↓Keeps.ite_iff, ↓ite_self, ↓Keeps.decodeRow_iff, ↓Keeps.modRow_iff]
    | split
    | dsimp only
theorem Keeps.reencodeOne_iff {M : List Field} (sB : State) (s : State) (rk : Nat) (t : Nat)
    (hk : [.pois, .rows, .bspares, .stks, .hubs, .parts, .pages, .ports, .logs, .act, .out].all M.contains = true) : Keeps M sB (State.reencodeOne s rk t) ↔ Keeps M sB s := Keeps.iff_of (Keeps.reencodeOne s rk t) hk

theorem Keeps.endReencode (s : State) (p : Nat) : Keeps [.rows] s (State.endReencode s p) := by
  unfold State.endReencode
  repeat' first
    | done
    | simp (disch := decide) only [↓Keeps.self_iff, ↓Keeps.ite_iff, ↓ite_self, ↓Keeps.putRows_iff]
    | split
    | dsimp only
theorem Keeps.endReencode_iff {M : List Field} (sB : State) (s : State) (p : Nat)
    (hk : [.rows].all M.contains = true) : Keeps M sB (State.endReencode s p) ↔ Keeps M sB s := Keeps.iff_of (Keeps.endReencode s p) hk

theorem Keeps.noteCover (s : State) (was : Bool) : Keeps [.parts, .pages, .ports, .act, .out] s (State.noteCover s was) := by
  unfold State.noteCover
  repeat' first
    | done
    | simp (disch := decide) only [↓Keeps.self_iff, ↓Keeps.ite_iff, ↓ite_self, ↓Keeps.eventAll_iff]
    | split
    | dsimp only
theorem Keeps.noteCover_iff {M : List Field} (sB : State) (s : State) (was : Bool)
    (hk : [.parts, .pages, .ports, .act, .out].all M.contains = true) : Keeps M sB (State.noteCover s was) ↔ Keeps M sB s := Keeps.iff_of (Keeps.noteCover s was) hk

theorem Keeps.reroute (s : State) (p : Nat) (q : Nat) : Keeps [.mem, .pois, .rows, .bspares, .stks, .chans, .crus, .hubs, .me, .ve, .fe, .ctxs, .parts, .pages, .streams, .ports, .lands, .xacts, .groups, .logs, .pm, .act, .out] s (State.reroute s p q) := by
  unfold State.reroute
  repeat' first
    | done
    | simp (disch := decide) only [↓Keeps.self_iff, ↓Keeps.ite_iff, ↓ite_self, ↓Keeps.answerRead_iff, ↓Keeps.modChan_iff, ↓Keeps.performWrite_iff, ↓Keeps.putChans_iff]
    | with_reducible refine (Keeps.foldl_iff _ _ _ _ (fun _ _ => ?_)).2 ?_
    | with_reducible refine (Keeps.foldl_fst_iff _ _ _ _ (fun _ _ => ?_)).2 ?_
    | with_reducible refine (Keeps.foldl_snd_iff _ _ _ _ (fun _ _ => ?_)).2 ?_
    | split
    | dsimp only
theorem Keeps.reroute_iff {M : List Field} (sB : State) (s : State) (p : Nat) (q : Nat)
    (hk : [.mem, .pois, .rows, .bspares, .stks, .chans, .crus, .hubs, .me, .ve, .fe, .ctxs, .parts, .pages, .streams, .ports, .lands, .xacts, .groups, .logs, .pm, .act, .out].all M.contains = true) : Keeps M sB (State.reroute s p q) ↔ Keeps M sB s := Keeps.iff_of (Keeps.reroute s p q) hk

theorem Keeps.overwrite (s : State) (p : Nat) : Keeps [.chans, .crus, .hubs, .me, .ve, .fe, .ctxs, .parts, .pages, .streams, .ports, .lands, .xacts, .groups, .logs, .pm, .act, .out] s (State.overwrite s p) := by
  unfold State.overwrite
  repeat' first
    | done
    | simp (disch := decide) only [↓Keeps.self_iff, ↓Keeps.ite_iff, ↓ite_self, ↓Keeps.modChan_iff, ↓Keeps.writeDone_iff]
    | with_reducible refine (Keeps.foldl_iff _ _ _ _ (fun _ _ => ?_)).2 ?_
    | with_reducible refine (Keeps.foldl_fst_iff _ _ _ _ (fun _ _ => ?_)).2 ?_
    | with_reducible refine (Keeps.foldl_snd_iff _ _ _ _ (fun _ _ => ?_)).2 ?_
    | split
    | dsimp only
theorem Keeps.overwrite_iff {M : List Field} (sB : State) (s : State) (p : Nat)
    (hk : [.chans, .crus, .hubs, .me, .ve, .fe, .ctxs, .parts, .pages, .streams, .ports, .lands, .xacts, .groups, .logs, .pm, .act, .out].all M.contains = true) : Keeps M sB (State.overwrite s p) ↔ Keeps M sB s := Keeps.iff_of (Keeps.overwrite s p) hk

theorem Keeps.flipSlot (s : State) (slot : Nat) : Keeps [.slots, .parcels, .mem, .pois, .rows, .bspares, .stks, .chans, .crus, .hubs, .me, .ve, .fe, .ctxs, .parts, .pages, .streams, .ports, .lands, .xacts, .groups, .logs, .pm, .act, .out] s (State.flipSlot s slot) := by
  unfold State.flipSlot
  repeat' first
    | done
    | simp (disch := decide) only [↓Keeps.self_iff, ↓Keeps.ite_iff, ↓ite_self, ↓Keeps.complete_iff, ↓Keeps.eventOwner_iff, ↓Keeps.logError_iff, ↓Keeps.modParcel_iff, ↓Keeps.modSlot_iff, ↓Keeps.noteCover_iff, ↓Keeps.reroute_iff, ↓Keeps.reviewCode_iff]
    | split
    | dsimp only
theorem Keeps.flipSlot_iff {M : List Field} (sB : State) (s : State) (slot : Nat)
    (hk : [.slots, .parcels, .mem, .pois, .rows, .bspares, .stks, .chans, .crus, .hubs, .me, .ve, .fe, .ctxs, .parts, .pages, .streams, .ports, .lands, .xacts, .groups, .logs, .pm, .act, .out].all M.contains = true) : Keeps M sB (State.flipSlot s slot) ↔ Keeps M sB s := Keeps.iff_of (Keeps.flipSlot s slot) hk

theorem Keeps.takeFlips (s : State) (ch : Nat) : Keeps [.slots, .parcels, .mem, .pois, .rows, .bspares, .stks, .chans, .crus, .hubs, .me, .ve, .fe, .ctxs, .parts, .pages, .streams, .ports, .lands, .xacts, .groups, .logs, .pm, .act, .out] s (State.takeFlips s ch) := by
  unfold State.takeFlips
  repeat' first
    | done
    | simp (disch := decide) only [↓Keeps.self_iff, ↓Keeps.ite_iff, ↓ite_self, ↓Keeps.flipSlot_iff, ↓Keeps.modChan_iff]
    | with_reducible refine (Keeps.foldl_iff _ _ _ _ (fun _ _ => ?_)).2 ?_
    | with_reducible refine (Keeps.foldl_fst_iff _ _ _ _ (fun _ _ => ?_)).2 ?_
    | with_reducible refine (Keeps.foldl_snd_iff _ _ _ _ (fun _ _ => ?_)).2 ?_
    | split
    | dsimp only
theorem Keeps.takeFlips_iff {M : List Field} (sB : State) (s : State) (ch : Nat)
    (hk : [.slots, .parcels, .mem, .pois, .rows, .bspares, .stks, .chans, .crus, .hubs, .me, .ve, .fe, .ctxs, .parts, .pages, .streams, .ports, .lands, .xacts, .groups, .logs, .pm, .act, .out].all M.contains = true) : Keeps M sB (State.takeFlips s ch) ↔ Keeps M sB s := Keeps.iff_of (Keeps.takeFlips s ch) hk

theorem Keeps.writeBackSlot (s : State) (slot : Nat) : Keeps [.mem, .pois, .rows, .bspares, .stks, .hubs, .parts, .pages, .ports, .lines, .logs, .act, .out] s (State.writeBackSlot s slot) := by
  unfold State.writeBackSlot
  repeat' first
    | done
    | simp (disch := decide) only [↓Keeps.self_iff, ↓Keeps.ite_iff, ↓ite_self, ↓Keeps.putLines_iff, ↓Keeps.writeSa_iff]
    | with_reducible refine (Keeps.foldl_iff _ _ _ _ (fun _ _ => ?_)).2 ?_
    | with_reducible refine (Keeps.foldl_fst_iff _ _ _ _ (fun _ _ => ?_)).2 ?_
    | with_reducible refine (Keeps.foldl_snd_iff _ _ _ _ (fun _ _ => ?_)).2 ?_
    | (with_reducible refine (Keeps.iff_of (Keeps.writeSa_eq ‹_›) (by decide)).2 ?_)
    | split
    | dsimp only
theorem Keeps.writeBackSlot_iff {M : List Field} (sB : State) (s : State) (slot : Nat)
    (hk : [.mem, .pois, .rows, .bspares, .stks, .hubs, .parts, .pages, .ports, .lines, .logs, .act, .out].all M.contains = true) : Keeps M sB (State.writeBackSlot s slot) ↔ Keeps M sB s := Keeps.iff_of (Keeps.writeBackSlot s slot) hk

theorem Keeps.failSpareRow (s : State) (b : Nat) (i : Nat) : Keeps [.bspares] s (State.failSpareRow s b i) := by
  unfold State.failSpareRow
  repeat' first
    | done
    | simp (disch := decide) only [↓Keeps.self_iff, ↓Keeps.ite_iff, ↓ite_self, ↓Keeps.modBspare_iff]
    | split
    | dsimp only
theorem Keeps.failSpareRow_iff {M : List Field} (sB : State) (s : State) (b : Nat) (i : Nat)
    (hk : [.bspares].all M.contains = true) : Keeps M sB (State.failSpareRow s b i) ↔ Keeps M sB s := Keeps.iff_of (Keeps.failSpareRow s b i) hk

theorem Keeps.failSpareCol (s : State) (b : Nat) (c : Nat) : Keeps [.bspares] s (State.failSpareCol s b c) := by
  unfold State.failSpareCol
  repeat' first
    | done
    | simp (disch := decide) only [↓Keeps.self_iff, ↓Keeps.ite_iff, ↓ite_self, ↓Keeps.modBspare_iff]
    | split
    | dsimp only
theorem Keeps.failSpareCol_iff {M : List Field} (sB : State) (s : State) (b : Nat) (c : Nat)
    (hk : [.bspares].all M.contains = true) : Keeps M sB (State.failSpareCol s b c) ↔ Keeps M sB s := Keeps.iff_of (Keeps.failSpareCol s b c) hk

theorem Keeps.failSpareBank (s : State) (st : Nat) (rank : Nat) (half : Nat) : Keeps [.stks] s (State.failSpareBank s st rank half) := by
  unfold State.failSpareBank
  repeat' first
    | done
    | simp (disch := decide) only [↓Keeps.self_iff, ↓Keeps.ite_iff, ↓ite_self, ↓Keeps.modStack_iff]
    | split
    | dsimp only
theorem Keeps.failSpareBank_iff {M : List Field} (sB : State) (s : State) (st : Nat) (rank : Nat) (half : Nat)
    (hk : [.stks].all M.contains = true) : Keeps M sB (State.failSpareBank s st rank half) ↔ Keeps M sB s := Keeps.iff_of (Keeps.failSpareBank s st rank half) hk

theorem Keeps.failSpareDie (s : State) (st : Nat) : Keeps [.stks] s (State.failSpareDie s st) := by
  unfold State.failSpareDie
  repeat' first
    | done
    | simp (disch := decide) only [↓Keeps.self_iff, ↓Keeps.ite_iff, ↓ite_self, ↓Keeps.modStack_iff]
    | split
    | dsimp only
theorem Keeps.failSpareDie_iff {M : List Field} (sB : State) (s : State) (st : Nat)
    (hk : [.stks].all M.contains = true) : Keeps M sB (State.failSpareDie s st) ↔ Keeps M sB s := Keeps.iff_of (Keeps.failSpareDie s st) hk

theorem Keeps.handOver (s : State) (ch : Nat) (b : Nat) (g : Nat) (buf : Nat) (dst : Option DrainKey) : Keeps [.hubs, .pm] s (State.handOver s ch b g buf dst) := by
  unfold State.handOver
  repeat' first
    | done
    | simp (disch := decide) only [↓Keeps.self_iff, ↓Keeps.ite_iff, ↓ite_self, ↓Keeps.count_iff, ↓Keeps.modHub_iff]
    | split
    | dsimp only
theorem Keeps.handOver_iff {M : List Field} (sB : State) (s : State) (ch : Nat) (b : Nat) (g : Nat) (buf : Nat) (dst : Option DrainKey)
    (hk : [.hubs, .pm].all M.contains = true) : Keeps M sB (State.handOver s ch b g buf dst) ↔ Keeps M sB s := Keeps.iff_of (Keeps.handOver s ch b g buf dst) hk

theorem Keeps.closePass (s : State) (ch : Nat) : Keeps [.slots, .parcels, .mem, .pois, .rows, .bspares, .stks, .chans, .crus, .hubs, .me, .ve, .fe, .ctxs, .parts, .pages, .streams, .ports, .lands, .xacts, .groups, .logs, .pm, .act, .out] s (State.closePass s ch) := by
  unfold State.closePass
  repeat' first
    | done
    | simp (disch := decide) only [↓Keeps.self_iff, ↓Keeps.ite_iff, ↓ite_self, ↓Keeps.modChan_iff, ↓Keeps.takeFlips_iff]
    | split
    | dsimp only
theorem Keeps.closePass_iff {M : List Field} (sB : State) (s : State) (ch : Nat)
    (hk : [.slots, .parcels, .mem, .pois, .rows, .bspares, .stks, .chans, .crus, .hubs, .me, .ve, .fe, .ctxs, .parts, .pages, .streams, .ports, .lands, .xacts, .groups, .logs, .pm, .act, .out].all M.contains = true) : Keeps M sB (State.closePass s ch) ↔ Keeps M sB s := Keeps.iff_of (Keeps.closePass s ch) hk

theorem Keeps.forget (s : State) (ch : Nat) (hit : Nat → Nat → Bool) : Keeps [.hubs] s (State.forget s ch hit) := by
  unfold State.forget
  repeat' first
    | done
    | simp (disch := decide) only [↓Keeps.self_iff, ↓Keeps.ite_iff, ↓ite_self, ↓Keeps.modHub_iff]
    | split
    | dsimp only
theorem Keeps.forget_iff {M : List Field} (sB : State) (s : State) (ch : Nat) (hit : Nat → Nat → Bool)
    (hk : [.hubs].all M.contains = true) : Keeps M sB (State.forget s ch hit) ↔ Keeps M sB s := Keeps.iff_of (Keeps.forget s ch hit) hk

theorem Keeps.testHost (s : State) (ch : Nat) : Keeps [.chans] s (State.testHost s ch) := by
  unfold State.testHost
  repeat' first
    | done
    | simp (disch := decide) only [↓Keeps.self_iff, ↓Keeps.ite_iff, ↓ite_self, ↓Keeps.modChan_iff]
    | split
    | dsimp only
theorem Keeps.testHost_iff {M : List Field} (sB : State) (s : State) (ch : Nat)
    (hk : [.chans].all M.contains = true) : Keeps M sB (State.testHost s ch) ↔ Keeps M sB s := Keeps.iff_of (Keeps.testHost s ch) hk

theorem Keeps.evaluate (s : State) (ch : Nat) (j : Nat) (failed : Bool) : Keeps [.chans, .hubs, .ctxs, .pm] s (State.evaluate s ch j failed) := by
  unfold State.evaluate
  repeat' first
    | done
    | simp (disch := decide) only [↓Keeps.self_iff, ↓Keeps.ite_iff, ↓ite_self, ↓Keeps.handOver_iff, ↓Keeps.modChan_iff, ↓Keeps.modCtx_iff]
    | with_reducible refine (Keeps.foldl_iff _ _ _ _ (fun _ _ => ?_)).2 ?_
    | with_reducible refine (Keeps.foldl_fst_iff _ _ _ _ (fun _ _ => ?_)).2 ?_
    | with_reducible refine (Keeps.foldl_snd_iff _ _ _ _ (fun _ _ => ?_)).2 ?_
    | split
    | dsimp only
theorem Keeps.evaluate_iff {M : List Field} (sB : State) (s : State) (ch : Nat) (j : Nat) (failed : Bool)
    (hk : [.chans, .hubs, .ctxs, .pm].all M.contains = true) : Keeps M sB (State.evaluate s ch j failed) ↔ Keeps M sB s := Keeps.iff_of (Keeps.evaluate s ch j failed) hk

theorem Keeps.giveUp (s : State) (ch : Nat) : Keeps [.chans, .crus, .hubs, .me, .ve, .fe, .ctxs, .parts, .pages, .streams, .ports, .lands, .xacts, .groups, .logs, .pm, .act, .out] s (State.giveUp s ch) := by
  unfold State.giveUp
  repeat' first
    | done
    | simp (disch := decide) only [↓Keeps.self_iff, ↓Keeps.ite_iff, ↓ite_self, ↓Keeps.answer_iff, ↓Keeps.logError_iff, ↓Keeps.modChan_iff, ↓Keeps.writeDone_iff]
    | split
    | dsimp only
theorem Keeps.giveUp_iff {M : List Field} (sB : State) (s : State) (ch : Nat)
    (hk : [.chans, .crus, .hubs, .me, .ve, .fe, .ctxs, .parts, .pages, .streams, .ports, .lands, .xacts, .groups, .logs, .pm, .act, .out].all M.contains = true) : Keeps M sB (State.giveUp s ch) ↔ Keeps M sB s := Keeps.iff_of (Keeps.giveUp s ch) hk

theorem Keeps.deviceRead (s : State) (who : Nat) (path : Nat) (part : Option Nat) (sa : Nat) : Keeps [.pois, .rows, .bspares, .stks, .chans, .hubs, .parts, .pages, .ports, .logs, .act, .out] s (State.deviceRead s who path part sa).2 := by
  unfold State.deviceRead
  repeat' first
    | done
    | simp (disch := decide) only [↓Keeps.self_iff, ↓Keeps.ite_iff, ↓ite_self, ↓Keeps.bankRead_iff, ↓Keeps.logError_iff]
    | (with_reducible refine (Keeps.iff_of (Keeps.bankRead_eq ‹_›) (by decide)).2 ?_)
    | split
    | dsimp only
theorem Keeps.deviceRead_iff {M : List Field} (sB : State) (s : State) (who : Nat) (path : Nat) (part : Option Nat) (sa : Nat)
    (hk : [.pois, .rows, .bspares, .stks, .chans, .hubs, .parts, .pages, .ports, .logs, .act, .out].all M.contains = true) : Keeps M sB (State.deviceRead s who path part sa).2 ↔ Keeps M sB s := Keeps.iff_of (Keeps.deviceRead s who path part sa) hk
theorem Keeps.deviceRead_eq {s : State} {who : Nat} {path : Nat} {part : Option Nat} {sa : Nat} {u0 : State} {y : (Sys2Proof.Line512 × Bool)} (h : State.deviceRead s who path part sa = (y, u0)) : Keeps [.pois, .rows, .bspares, .stks, .chans, .hubs, .parts, .pages, .ports, .logs, .act, .out] s u0 := by
  have k := Keeps.deviceRead s who path part sa
  rw [h] at k
  exact k

theorem Keeps.homeWrite (s : State) (sa : Nat) (d : Line512) (mask : BitVec 64) (pois : Bool) : Keeps [.lines] s (State.homeWrite s sa d mask pois) := by
  unfold State.homeWrite
  repeat' first
    | done
    | simp (disch := decide) only [↓Keeps.self_iff, ↓Keeps.ite_iff, ↓ite_self, ↓Keeps.putLines_iff]
    | split
    | dsimp only
theorem Keeps.homeWrite_iff {M : List Field} (sB : State) (s : State) (sa : Nat) (d : Line512) (mask : BitVec 64) (pois : Bool)
    (hk : [.lines].all M.contains = true) : Keeps M sB (State.homeWrite s sa d mask pois) ↔ Keeps M sB s := Keeps.iff_of (Keeps.homeWrite s sa d mask pois) hk

theorem Keeps.noteDir (s : State) : Keeps [.logs] s (State.noteDir s) := by
  unfold State.noteDir
  repeat' first
    | done
    | simp (disch := decide) only [↓Keeps.self_iff, ↓Keeps.ite_iff, ↓ite_self, ↓Keeps.putLogs_iff]
    | with_reducible refine (Keeps.foldl_iff _ _ _ _ (fun _ _ => ?_)).2 ?_
    | split
    | dsimp only
theorem Keeps.noteDir_iff {M : List Field} (sB : State) (s : State)
    (hk : [.logs].all M.contains = true) : Keeps M sB (State.noteDir s) ↔ Keeps M sB s := Keeps.iff_of (Keeps.noteDir s) hk

theorem Keeps.poisonAnswer (s : State) (p : Nat) (hpa : Nat) (line : Nat) : Keeps [.hubs, .logs, .out] s (State.poisonAnswer s p hpa line) := by
  unfold State.poisonAnswer
  repeat' first
    | done
    | simp (disch := decide) only [↓Keeps.self_iff, ↓Keeps.ite_iff, ↓ite_self, ↓Keeps.answer_iff, ↓Keeps.logError_iff]
    | split
    | dsimp only
theorem Keeps.poisonAnswer_iff {M : List Field} (sB : State) (s : State) (p : Nat) (hpa : Nat) (line : Nat)
    (hk : [.hubs, .logs, .out].all M.contains = true) : Keeps M sB (State.poisonAnswer s p hpa line) ↔ Keeps M sB s := Keeps.iff_of (Keeps.poisonAnswer s p hpa line) hk

theorem Keeps.misroute (s : State) (p : Nat) : Keeps [.ports] s (State.misroute s p) := by
  unfold State.misroute
  repeat' first
    | done
    | simp (disch := decide) only [↓Keeps.self_iff, ↓Keeps.ite_iff, ↓ite_self, ↓Keeps.modHport_iff]
    | split
    | dsimp only
theorem Keeps.misroute_iff {M : List Field} (sB : State) (s : State) (p : Nat)
    (hk : [.ports].all M.contains = true) : Keeps M sB (State.misroute s p) ↔ Keeps M sB s := Keeps.iff_of (Keeps.misroute s p) hk

theorem Keeps.askRead (s : State) (ch : Nat) (q : Req) : Keeps [.mem, .pois, .rows, .bspares, .stks, .chans, .crus, .hubs, .me, .ve, .fe, .ctxs, .parts, .pages, .streams, .ports, .lands, .xacts, .groups, .logs, .pm, .act, .out] s (State.askRead s ch q) := by
  unfold State.askRead
  repeat' first
    | done
    | simp (disch := decide) only [↓Keeps.self_iff, ↓Keeps.ite_iff, ↓ite_self, ↓Keeps.accept_iff, ↓Keeps.grantNow_iff]
    | split
    | dsimp only
theorem Keeps.askRead_iff {M : List Field} (sB : State) (s : State) (ch : Nat) (q : Req)
    (hk : [.mem, .pois, .rows, .bspares, .stks, .chans, .crus, .hubs, .me, .ve, .fe, .ctxs, .parts, .pages, .streams, .ports, .lands, .xacts, .groups, .logs, .pm, .act, .out].all M.contains = true) : Keeps M sB (State.askRead s ch q) ↔ Keeps M sB s := Keeps.iff_of (Keeps.askRead s ch q) hk

theorem Keeps.portRead (s : State) (p : Nat) (sa : Nat) : Keeps [.mem, .pois, .rows, .bspares, .stks, .chans, .crus, .hubs, .me, .ve, .fe, .ctxs, .parts, .pages, .streams, .ports, .lands, .xacts, .groups, .logs, .pm, .act, .out] s (State.portRead s p sa) := by
  unfold State.portRead
  repeat' first
    | done
    | simp (disch := decide) only [↓Keeps.self_iff, ↓Keeps.ite_iff, ↓ite_self, ↓Keeps.askRead_iff, ↓Keeps.modHport_iff, ↓Keeps.readMesh_iff]
    | split
    | dsimp only
theorem Keeps.portRead_iff {M : List Field} (sB : State) (s : State) (p : Nat) (sa : Nat)
    (hk : [.mem, .pois, .rows, .bspares, .stks, .chans, .crus, .hubs, .me, .ve, .fe, .ctxs, .parts, .pages, .streams, .ports, .lands, .xacts, .groups, .logs, .pm, .act, .out].all M.contains = true) : Keeps M sB (State.portRead s p sa) ↔ Keeps M sB s := Keeps.iff_of (Keeps.portRead s p sa) hk

theorem Keeps.sharedHostRead (s : State) (p : Nat) (sa : Nat) (own : Bool) : Keeps [.mem, .pois, .rows, .bspares, .stks, .chans, .crus, .hubs, .me, .ve, .fe, .ctxs, .parts, .pages, .streams, .ports, .dirs, .lands, .xacts, .groups, .logs, .pm, .act, .out] s (State.sharedHostRead s p sa own) := by
  unfold State.sharedHostRead
  repeat' first
    | done
    | simp (disch := decide) only [↓Keeps.self_iff, ↓Keeps.ite_iff, ↓ite_self, ↓Keeps.answer_iff, ↓Keeps.askRead_iff, ↓Keeps.modDir_iff, ↓Keeps.noteDir_iff, ↓Keeps.poisonAnswer_iff, ↓Keeps.putLogs_iff]
    | split
    | dsimp only
theorem Keeps.sharedHostRead_iff {M : List Field} (sB : State) (s : State) (p : Nat) (sa : Nat) (own : Bool)
    (hk : [.mem, .pois, .rows, .bspares, .stks, .chans, .crus, .hubs, .me, .ve, .fe, .ctxs, .parts, .pages, .streams, .ports, .dirs, .lands, .xacts, .groups, .logs, .pm, .act, .out].all M.contains = true) : Keeps M sB (State.sharedHostRead s p sa own) ↔ Keeps M sB s := Keeps.iff_of (Keeps.sharedHostRead s p sa own) hk

theorem Keeps.acceptWrite (s : State) (who : Nat) (src : Nat) (part : Option Nat) (sa : Nat) (d : Line512) (mask : BitVec 64) (pois : Bool) (peer : Option (Nat × Nat)) (hdr : Option (BitVec 128)) : Keeps [.chans, .hubs, .streams] s (State.acceptWrite s who src part sa d mask pois peer hdr) := by
  unfold State.acceptWrite
  repeat' first
    | done
    | simp (disch := decide) only [↓Keeps.self_iff, ↓Keeps.ite_iff, ↓ite_self, ↓Keeps.accept_iff, ↓Keeps.modStream_iff]
    | split
    | dsimp only
theorem Keeps.acceptWrite_iff {M : List Field} (sB : State) (s : State) (who : Nat) (src : Nat) (part : Option Nat) (sa : Nat) (d : Line512) (mask : BitVec 64) (pois : Bool) (peer : Option (Nat × Nat)) (hdr : Option (BitVec 128))
    (hk : [.chans, .hubs, .streams].all M.contains = true) : Keeps M sB (State.acceptWrite s who src part sa d mask pois peer hdr) ↔ Keeps M sB s := Keeps.iff_of (Keeps.acceptWrite s who src part sa d mask pois peer hdr) hk

theorem Keeps.bufferWrite (s : State) (p : Nat) (sa : Nat) (d : Line512) (mask : BitVec 64) : Keeps [.ports] s (State.bufferWrite s p sa d mask) := by
  unfold State.bufferWrite
  repeat' first
    | done
    | simp (disch := decide) only [↓Keeps.self_iff, ↓Keeps.ite_iff, ↓ite_self, ↓Keeps.modHport_iff]
    | split
    | dsimp only
theorem Keeps.bufferWrite_iff {M : List Field} (sB : State) (s : State) (p : Nat) (sa : Nat) (d : Line512) (mask : BitVec 64)
    (hk : [.ports].all M.contains = true) : Keeps M sB (State.bufferWrite s p sa d mask) ↔ Keeps M sB s := Keeps.iff_of (Keeps.bufferWrite s p sa d mask) hk

theorem Keeps.unsupported (s : State) : Keeps [.out] s (State.unsupported s) := by
  unfold State.unsupported
  repeat' first
    | done
    | simp (disch := decide) only [↓Keeps.self_iff, ↓Keeps.ite_iff, ↓ite_self, ↓Keeps.answer_iff]
    | split
    | dsimp only
theorem Keeps.unsupported_iff {M : List Field} (sB : State) (s : State)
    (hk : [.out].all M.contains = true) : Keeps M sB (State.unsupported s) ↔ Keeps M sB s := Keeps.iff_of (Keeps.unsupported s) hk

theorem Keeps.nak (s : State) (l : Nat) : Keeps [.lands, .pm, .act, .out] s (State.nak s l) := by
  unfold State.nak
  repeat' first
    | done
    | simp (disch := decide) only [↓Keeps.self_iff, ↓Keeps.ite_iff, ↓ite_self, ↓Keeps.modLanding_iff, ↓Keeps.sendControl_iff]
    | split
    | dsimp only
theorem Keeps.nak_iff {M : List Field} (sB : State) (s : State) (l : Nat)
    (hk : [.lands, .pm, .act, .out].all M.contains = true) : Keeps M sB (State.nak s l) ↔ Keeps M sB s := Keeps.iff_of (Keeps.nak s l) hk

theorem Keeps.sendXact (s : State) (x : Xact) (land : Nat) : Keeps [.lands, .xacts, .pm, .act, .out] s (State.sendXact s x land) := by
  unfold State.sendXact
  repeat' first
    | done
    | simp (disch := decide) only [↓Keeps.self_iff, ↓Keeps.ite_iff, ↓ite_self, ↓Keeps.putXacts_iff, ↓Keeps.sendMsg_iff]
    | split
    | dsimp only
theorem Keeps.sendXact_iff {M : List Field} (sB : State) (s : State) (x : Xact) (land : Nat)
    (hk : [.lands, .xacts, .pm, .act, .out].all M.contains = true) : Keeps M sB (State.sendXact s x land) ↔ Keeps M sB s := Keeps.iff_of (Keeps.sendXact s x land) hk

theorem Keeps.pump (a0 : Nat) (a1 : Nat) (a2 : Nat) (a3 : State) : Keeps [.chans, .crus, .hubs, .me, .ve, .fe, .ctxs, .parts, .pages, .ports, .lands, .xacts, .groups, .pm, .act, .out] a3 (State.pump a0 a1 a2 a3) := by
  induction a0 generalizing a1 a2 a3 with
  | zero => exact Keeps.refl _ _
  | succ n ih =>
    unfold State.pump
    repeat' first
      | done
      | (with_reducible refine (Keeps.iff_of (ih ..) (by decide)).2 ?_)
      | simp (disch := decide) only [↓Keeps.self_iff, ↓Keeps.ite_iff, ↓ite_self, ↓Keeps.ferryFault_iff, ↓Keeps.modFchan_iff, ↓Keeps.sendXact_iff, ↓Keeps.viaMesh_iff]
      | split
      | dsimp only
theorem Keeps.pump_iff {M : List Field} (sB : State) (a0 : Nat) (a1 : Nat) (a2 : Nat) (a3 : State)
    (hk : [.chans, .crus, .hubs, .me, .ve, .fe, .ctxs, .parts, .pages, .ports, .lands, .xacts, .groups, .pm, .act, .out].all M.contains = true) : Keeps M sB (State.pump a0 a1 a2 a3) ↔ Keeps M sB a3 := Keeps.iff_of (Keeps.pump a0 a1 a2 a3) hk

theorem Keeps.dropXact (s : State) (x : Xact) : Keeps [.xacts] s (State.dropXact s x) := by
  unfold State.dropXact
  repeat' first
    | done
    | simp (disch := decide) only [↓Keeps.self_iff, ↓Keeps.ite_iff, ↓ite_self, ↓Keeps.putXacts_iff]
    | split
    | dsimp only
theorem Keeps.dropXact_iff {M : List Field} (sB : State) (s : State) (x : Xact)
    (hk : [.xacts].all M.contains = true) : Keeps M sB (State.dropXact s x) ↔ Keeps M sB s := Keeps.iff_of (Keeps.dropXact s x) hk

theorem Keeps.failXact (s : State) (x : Xact) : Keeps [.chans, .crus, .hubs, .me, .ve, .fe, .ctxs, .parts, .pages, .ports, .lands, .xacts, .groups, .logs, .pm, .act, .out] s (State.failXact s x) := by
  unfold State.failXact
  repeat' first
    | done
    | simp (disch := decide) only [↓Keeps.self_iff, ↓Keeps.ite_iff, ↓ite_self, ↓Keeps.dropXact_iff, ↓Keeps.ferryFault_iff, ↓Keeps.lateFail_iff, ↓Keeps.pump_iff]
    | split
    | dsimp only
theorem Keeps.failXact_iff {M : List Field} (sB : State) (s : State) (x : Xact)
    (hk : [.chans, .crus, .hubs, .me, .ve, .fe, .ctxs, .parts, .pages, .ports, .lands, .xacts, .groups, .logs, .pm, .act, .out].all M.contains = true) : Keeps M sB (State.failXact s x) ↔ Keeps M sB s := Keeps.iff_of (Keeps.failXact s x) hk

theorem Keeps.failLanding (s : State) (l : Nat) : Keeps [.chans, .crus, .hubs, .me, .ve, .fe, .ctxs, .parts, .pages, .ports, .lands, .xacts, .groups, .logs, .pm, .act, .out] s (State.failLanding s l) := by
  unfold State.failLanding
  repeat' first
    | done
    | simp (disch := decide) only [↓Keeps.self_iff, ↓Keeps.ite_iff, ↓ite_self, ↓Keeps.failXact_iff]
    | with_reducible refine (Keeps.foldl_iff _ _ _ _ (fun _ _ => ?_)).2 ?_
    | split
    | dsimp only
theorem Keeps.failLanding_iff {M : List Field} (sB : State) (s : State) (l : Nat)
    (hk : [.chans, .crus, .hubs, .me, .ve, .fe, .ctxs, .parts, .pages, .ports, .lands, .xacts, .groups, .logs, .pm, .act, .out].all M.contains = true) : Keeps M sB (State.failLanding s l) ↔ Keeps M sB s := Keeps.iff_of (Keeps.failLanding s l) hk

theorem Keeps.landingDown (s : State) (l : Nat) : Keeps [.chans, .crus, .hubs, .me, .ve, .fe, .ctxs, .parts, .pages, .ports, .lands, .xacts, .groups, .logs, .pm, .act, .out] s (State.landingDown s l) := by
  unfold State.landingDown
  repeat' first
    | done
    | simp (disch := decide) only [↓Keeps.self_iff, ↓Keeps.ite_iff, ↓ite_self, ↓Keeps.failLanding_iff, ↓Keeps.modLanding_iff]
    | split
    | dsimp only
theorem Keeps.landingDown_iff {M : List Field} (sB : State) (s : State) (l : Nat)
    (hk : [.chans, .crus, .hubs, .me, .ve, .fe, .ctxs, .parts, .pages, .ports, .lands, .xacts, .groups, .logs, .pm, .act, .out].all M.contains = true) : Keeps M sB (State.landingDown s l) ↔ Keeps M sB s := Keeps.iff_of (Keeps.landingDown s l) hk

theorem Keeps.deviceSnoop_some {s : State} {sa : Nat} {w : Waiter} {u0 : Sys2Proof.Machine.State} (h : State.deviceSnoop s sa w = some u0) : Keeps [.dirs] s u0 := by
  unfold State.deviceSnoop at h
  repeat' first
    | done
    | (cases h; done)
    | (cases h; simp (disch := decide) only [↓Keeps.self_iff, ↓Keeps.ite_iff, ↓ite_self, ↓Keeps.modDir_iff]; done)
    | (exact Keeps.refl _ _)
    | split at h
    | dsimp only at h

theorem Keeps.remSnoop_some {s : State} {h : BitVec 128} {land : Nat} {r : RemReq} {write : Bool} {p : Nat} {data : List (BitVec 512)} {bad : List Nat} {u0 : Sys2Proof.Machine.State} (h : State.remSnoop s h land r write p data bad = some u0) : Keeps [.dirs] s u0 := by
  unfold State.remSnoop at h
  obtain ⟨_, _, e⟩ := List.exists_of_findSome?_eq_some h
  split at e
  · exact Keeps.deviceSnoop_some e
  · cases e

theorem Keeps.remoteRead (s : State) (land : Nat) (hdr : BitVec 128) (bad : List Nat) (p : Nat) : Keeps [.pois, .rows, .bspares, .stks, .chans, .hubs, .parts, .pages, .ports, .dirs, .lands, .logs, .pm, .act, .out] s (State.remoteRead s land hdr bad p) := by
  unfold State.remoteRead
  repeat' first
    | done
    | simp (disch := decide) only [↓Keeps.self_iff, ↓Keeps.ite_iff, ↓ite_self, ↓Keeps.countGrant_iff, ↓Keeps.deviceRead_iff, ↓Keeps.freeRx_iff, ↓Keeps.readMesh_iff, ↓Keeps.reply_iff]
    | with_reducible refine (Keeps.foldl_iff _ _ _ _ (fun _ _ => ?_)).2 ?_
    | with_reducible refine (Keeps.foldl_fst_iff _ _ _ _ (fun _ _ => ?_)).2 ?_
    | with_reducible refine (Keeps.foldl_snd_iff _ _ _ _ (fun _ _ => ?_)).2 ?_
    | (with_reducible refine (Keeps.iff_of (Keeps.remSnoop_some ‹_›) (by decide)).2 ?_)
    | (with_reducible refine (Keeps.iff_of (Keeps.deviceRead_eq ‹_›) (by decide)).2 ?_)
    | split
    | dsimp only
theorem Keeps.remoteRead_iff {M : List Field} (sB : State) (s : State) (land : Nat) (hdr : BitVec 128) (bad : List Nat) (p : Nat)
    (hk : [.pois, .rows, .bspares, .stks, .chans, .hubs, .parts, .pages, .ports, .dirs, .lands, .logs, .pm, .act, .out].all M.contains = true) : Keeps M sB (State.remoteRead s land hdr bad p) ↔ Keeps M sB s := Keeps.iff_of (Keeps.remoteRead s land hdr bad p) hk

theorem Keeps.remWriteLine (s : State) (land : Nat) (p : Nat) (h : BitVec 128) (sa : Nat) (d : Line512) (pois : Bool) : Keeps [.chans, .hubs, .parts, .pages, .streams, .ports, .lines, .lands, .logs, .pm, .act, .out] s (State.remWriteLine s land p h sa d pois) := by
  unfold State.remWriteLine
  repeat' first
    | done
    | simp (disch := decide) only [↓Keeps.self_iff, ↓Keeps.ite_iff, ↓ite_self, ↓Keeps.acceptWrite_iff, ↓Keeps.homeWrite_iff, ↓Keeps.modStream_iff, ↓Keeps.reportFail_iff]
    | split
    | dsimp only
theorem Keeps.remWriteLine_iff {M : List Field} (sB : State) (s : State) (land : Nat) (p : Nat) (h : BitVec 128) (sa : Nat) (d : Line512) (pois : Bool)
    (hk : [.chans, .hubs, .parts, .pages, .streams, .ports, .lines, .lands, .logs, .pm, .act, .out].all M.contains = true) : Keeps M sB (State.remWriteLine s land p h sa d pois) ↔ Keeps M sB s := Keeps.iff_of (Keeps.remWriteLine s land p h sa d pois) hk

theorem Keeps.remoteWrite (s : State) (land : Nat) (hdr : BitVec 128) (data : List (BitVec 512)) (bad : List Nat) (p : Nat) : Keeps [.chans, .hubs, .sp, .spPois, .parts, .pages, .streams, .ports, .dirs, .lines, .lands, .logs, .pm, .act, .out] s (State.remoteWrite s land hdr data bad p) := by
  unfold State.remoteWrite
  repeat' first
    | done
    | simp (disch := decide) only [↓Keeps.self_iff, ↓Keeps.ite_iff, ↓ite_self, ↓Keeps.freeRx_iff, ↓Keeps.remWriteLine_iff, ↓Keeps.reply_iff, ↓Keeps.spWrite_iff, ↓Keeps.viaMesh_iff]
    | with_reducible refine (Keeps.foldl_iff _ _ _ _ (fun _ _ => ?_)).2 ?_
    | with_reducible refine (Keeps.foldl_fst_iff _ _ _ _ (fun _ _ => ?_)).2 ?_
    | with_reducible refine (Keeps.foldl_snd_iff _ _ _ _ (fun _ _ => ?_)).2 ?_
    | (with_reducible refine (Keeps.iff_of (Keeps.remSnoop_some ‹_›) (by decide)).2 ?_)
    | split
    | dsimp only
theorem Keeps.remoteWrite_iff {M : List Field} (sB : State) (s : State) (land : Nat) (hdr : BitVec 128) (data : List (BitVec 512)) (bad : List Nat) (p : Nat)
    (hk : [.chans, .hubs, .sp, .spPois, .parts, .pages, .streams, .ports, .dirs, .lines, .lands, .logs, .pm, .act, .out].all M.contains = true) : Keeps M sB (State.remoteWrite s land hdr data bad p) ↔ Keeps M sB s := Keeps.iff_of (Keeps.remoteWrite s land hdr data bad p) hk

theorem Keeps.release (s : State) (w : Waiter) (bad : List Nat) : Keeps [.mem, .pois, .rows, .bspares, .stks, .chans, .crus, .hubs, .me, .ve, .fe, .sp, .spPois, .ctxs, .parts, .pages, .streams, .ports, .dirs, .lines, .lands, .xacts, .groups, .logs, .pm, .act, .out] s (State.release s w bad) := by
  unfold State.release
  repeat' first
    | done
    | simp (disch := decide) only [↓Keeps.self_iff, ↓Keeps.ite_iff, ↓ite_self, ↓Keeps.modFchan_iff, ↓Keeps.remoteRead_iff, ↓Keeps.remoteWrite_iff, ↓Keeps.sharedHostRead_iff]
    | split
    | dsimp only
theorem Keeps.release_iff {M : List Field} (sB : State) (s : State) (w : Waiter) (bad : List Nat)
    (hk : [.mem, .pois, .rows, .bspares, .stks, .chans, .crus, .hubs, .me, .ve, .fe, .sp, .spPois, .ctxs, .parts, .pages, .streams, .ports, .dirs, .lines, .lands, .xacts, .groups, .logs, .pm, .act, .out].all M.contains = true) : Keeps M sB (State.release s w bad) ↔ Keeps M sB s := Keeps.iff_of (Keeps.release s w bad) hk

theorem Keeps.raiseVec (s : State) (k : Nat) (vec : Nat) : Keeps [.out] s (State.raiseVec s k vec) := by
  unfold State.raiseVec
  repeat' first
    | done
    | simp (disch := decide) only [↓Keeps.self_iff, ↓Keeps.ite_iff, ↓ite_self, ↓Keeps.putOut_iff]
    | split
    | dsimp only
theorem Keeps.raiseVec_iff {M : List Field} (sB : State) (s : State) (k : Nat) (vec : Nat)
    (hk : [.out].all M.contains = true) : Keeps M sB (State.raiseVec s k vec) ↔ Keeps M sB s := Keeps.iff_of (Keeps.raiseVec s k vec) hk

theorem Keeps.setPartState (s : State) (p : Nat) (st : PartState) : Keeps [.parts, .out] s (State.setPartState s p st) := by
  unfold State.setPartState
  repeat' first
    | done
    | simp (disch := decide) only [↓Keeps.self_iff, ↓Keeps.ite_iff, ↓ite_self, ↓Keeps.modPart_iff, ↓Keeps.raiseVec_iff]
    | split
    | dsimp only
theorem Keeps.setPartState_iff {M : List Field} (sB : State) (s : State) (p : Nat) (st : PartState)
    (hk : [.parts, .out].all M.contains = true) : Keeps M sB (State.setPartState s p st) ↔ Keeps M sB s := Keeps.iff_of (Keeps.setPartState s p st) hk

theorem Keeps.setErr (s : State) (k : Nat) (e : Nat) : Keeps [.pages, .out] s (State.setErr s k e) := by
  unfold State.setErr
  repeat' first
    | done
    | simp (disch := decide) only [↓Keeps.self_iff, ↓Keeps.ite_iff, ↓ite_self, ↓Keeps.modPage_iff, ↓Keeps.raiseVec_iff]
    | split
    | dsimp only
theorem Keeps.setErr_iff {M : List Field} (sB : State) (s : State) (k : Nat) (e : Nat)
    (hk : [.pages, .out].all M.contains = true) : Keeps M sB (State.setErr s k e) ↔ Keeps M sB s := Keeps.iff_of (Keeps.setErr s k e) hk

theorem Keeps.dropBuffers (s : State) (p : Nat) : Keeps [.ports] s (State.dropBuffers s p) := by
  unfold State.dropBuffers
  repeat' first
    | done
    | simp (disch := decide) only [↓Keeps.self_iff, ↓Keeps.ite_iff, ↓ite_self, ↓Keeps.putPorts_iff]
    | split
    | dsimp only
theorem Keeps.dropBuffers_iff {M : List Field} (sB : State) (s : State) (p : Nat)
    (hk : [.ports].all M.contains = true) : Keeps M sB (State.dropBuffers s p) ↔ Keeps M sB s := Keeps.iff_of (Keeps.dropBuffers s p) hk

theorem Keeps.writeBackPart (s : State) (p : Nat) : Keeps [.mem, .pois, .rows, .bspares, .stks, .hubs, .parts, .pages, .ports, .lines, .logs, .act, .out] s (State.writeBackPart s p) := by
  unfold State.writeBackPart
  repeat' first
    | done
    | simp (disch := decide) only [↓Keeps.self_iff, ↓Keeps.ite_iff, ↓ite_self, ↓Keeps.writeBackSlot_iff]
    | with_reducible refine (Keeps.foldl_iff _ _ _ _ (fun _ _ => ?_)).2 ?_
    | split
    | dsimp only
theorem Keeps.writeBackPart_iff {M : List Field} (sB : State) (s : State) (p : Nat)
    (hk : [.mem, .pois, .rows, .bspares, .stks, .hubs, .parts, .pages, .ports, .lines, .logs, .act, .out].all M.contains = true) : Keeps M sB (State.writeBackPart s p) ↔ Keeps M sB s := Keeps.iff_of (Keeps.writeBackPart s p) hk

theorem Keeps.zeroWindow (s : State) (t : Nat) (base : Nat) (size : Nat) : Keeps [.sp, .spPois] s (State.zeroWindow s t base size) := by
  unfold State.zeroWindow
  repeat' first
    | done
    | simp (disch := decide) only [↓Keeps.self_iff, ↓Keeps.ite_iff, ↓ite_self, ↓Keeps.putSp_iff, ↓Keeps.putSpPois_iff]
    | split
    | dsimp only
theorem Keeps.zeroWindow_iff {M : List Field} (sB : State) (s : State) (t : Nat) (base : Nat) (size : Nat)
    (hk : [.sp, .spPois].all M.contains = true) : Keeps M sB (State.zeroWindow s t base size) ↔ Keeps M sB s := Keeps.iff_of (Keeps.zeroWindow s t base size) hk

theorem Keeps.clearVfile (s : State) (c : Nat) : Keeps [.vfiles] s (State.clearVfile s c) := by
  unfold State.clearVfile
  repeat' first
    | done
    | simp (disch := decide) only [↓Keeps.self_iff, ↓Keeps.ite_iff, ↓ite_self, ↓Keeps.modVfile_iff]
    | split
    | dsimp only
theorem Keeps.clearVfile_iff {M : List Field} (sB : State) (s : State) (c : Nat)
    (hk : [.vfiles].all M.contains = true) : Keeps M sB (State.clearVfile s c) ↔ Keeps M sB s := Keeps.iff_of (Keeps.clearVfile s c) hk

theorem Keeps.unbindCtx (s : State) (c : Nat) : Keeps [.ctxs, .parts] s (State.unbindCtx s c) := by
  unfold State.unbindCtx
  repeat' first
    | done
    | simp (disch := decide) only [↓Keeps.self_iff, ↓Keeps.ite_iff, ↓ite_self, ↓Keeps.modCtx_iff, ↓Keeps.modPart_iff]
    | split
    | dsimp only
theorem Keeps.unbindCtx_iff {M : List Field} (sB : State) (s : State) (c : Nat)
    (hk : [.ctxs, .parts].all M.contains = true) : Keeps M sB (State.unbindCtx s c) ↔ Keeps M sB s := Keeps.iff_of (Keeps.unbindCtx s c) hk

theorem Keeps.beginReset (s : State) (p : Nat) (keep : Bool) (destroy : Bool) (desc : Option DescRef) : Keeps [.slots, .fe, .ctxs, .parts, .pages, .out] s (State.beginReset s p keep destroy desc) := by
  unfold State.beginReset
  repeat' first
    | done
    | simp (disch := decide) only [↓Keeps.self_iff, ↓Keeps.ite_iff, ↓ite_self, ↓Keeps.modCtx_iff, ↓Keeps.modPage_iff, ↓Keeps.modPart_iff, ↓Keeps.putFe_iff, ↓Keeps.putSlots_iff, ↓Keeps.setPartState_iff]
    | with_reducible refine (Keeps.foldl_iff _ _ _ _ (fun _ _ => ?_)).2 ?_
    | split
    | dsimp only
theorem Keeps.beginReset_iff {M : List Field} (sB : State) (s : State) (p : Nat) (keep : Bool) (destroy : Bool) (desc : Option DescRef)
    (hk : [.slots, .fe, .ctxs, .parts, .pages, .out].all M.contains = true) : Keeps M sB (State.beginReset s p keep destroy desc) ↔ Keeps M sB s := Keeps.iff_of (Keeps.beginReset s p keep destroy desc) hk

theorem Keeps.resetHalts (s : State) (p : Nat) : Keeps [.chans, .crus, .hubs, .me, .ve, .fe, .ctxs, .parts, .pages, .ports, .trans, .lands, .xacts, .groups, .pm, .act, .out] s (State.resetHalts s p) := by
  unfold State.resetHalts
  repeat' first
    | done
    | simp (disch := decide) only [↓Keeps.self_iff, ↓Keeps.ite_iff, ↓ite_self, ↓Keeps.halt_iff, ↓Keeps.putTrans_iff, ↓Keeps.stopEngines_iff]
    | with_reducible refine (Keeps.foldl_iff _ _ _ _ (fun _ _ => ?_)).2 ?_
    | split
    | dsimp only
theorem Keeps.resetHalts_iff {M : List Field} (sB : State) (s : State) (p : Nat)
    (hk : [.chans, .crus, .hubs, .me, .ve, .fe, .ctxs, .parts, .pages, .ports, .trans, .lands, .xacts, .groups, .pm, .act, .out].all M.contains = true) : Keeps M sB (State.resetHalts s p) ↔ Keeps M sB s := Keeps.iff_of (Keeps.resetHalts s p) hk

theorem Keeps.finishDestroy (s : State) (p : Nat) : Keeps [.parts, .pages, .ports, .act, .out] s (State.finishDestroy s p) := by
  unfold State.finishDestroy
  repeat' first
    | done
    | simp (disch := decide) only [↓Keeps.self_iff, ↓Keeps.ite_iff, ↓ite_self, ↓Keeps.complete_iff, ↓Keeps.modPart_iff, ↓Keeps.setPartState_iff]
    | split
    | dsimp only
theorem Keeps.finishDestroy_iff {M : List Field} (sB : State) (s : State) (p : Nat)
    (hk : [.parts, .pages, .ports, .act, .out].all M.contains = true) : Keeps M sB (State.finishDestroy s p) ↔ Keeps M sB s := Keeps.iff_of (Keeps.finishDestroy s p) hk

theorem Keeps.finishReset (s : State) (p : Nat) (job : ResetJob) (destroy : Bool) : Keeps [.slots, .mem, .pois, .rows, .bspares, .stks, .hubs, .vfiles, .ctxs, .parts, .pages, .ports, .lines, .logs, .act, .out] s (State.finishReset s p job destroy) := by
  unfold State.finishReset
  repeat' first
    | done
    | simp (disch := decide) only [↓Keeps.self_iff, ↓Keeps.ite_iff, ↓ite_self, ↓Keeps.clearVfile_iff, ↓Keeps.completeNow_iff, ↓Keeps.dropBuffers_iff, ↓Keeps.finishDestroy_iff, ↓Keeps.modCtx_iff, ↓Keeps.modPage_iff, ↓Keeps.modPart_iff, ↓Keeps.modSlot_iff, ↓Keeps.setPartState_iff, ↓Keeps.unbindCtx_iff, ↓Keeps.writeBackPart_iff]
    | with_reducible refine (Keeps.foldl_iff _ _ _ _ (fun _ _ => ?_)).2 ?_
    | split
    | dsimp only
theorem Keeps.finishReset_iff {M : List Field} (sB : State) (s : State) (p : Nat) (job : ResetJob) (destroy : Bool)
    (hk : [.slots, .mem, .pois, .rows, .bspares, .stks, .hubs, .vfiles, .ctxs, .parts, .pages, .ports, .lines, .logs, .act, .out].all M.contains = true) : Keeps M sB (State.finishReset s p job destroy) ↔ Keeps M sB s := Keeps.iff_of (Keeps.finishReset s p job destroy) hk

theorem Keeps.preserve (s : State) (p : Nat) (cause : Nat) (ts : List (BitVec 64)) : Keeps [.mem, .pois, .rows, .bspares, .stks, .hubs, .ctxs, .parts, .pages, .ports, .lines, .logs, .act, .out] s (State.preserve s p cause ts) := by
  unfold State.preserve
  repeat' first
    | done
    | simp (disch := decide) only [↓Keeps.self_iff, ↓Keeps.ite_iff, ↓ite_self, ↓Keeps.modCtx_iff, ↓Keeps.modPage_iff, ↓Keeps.modPart_iff, ↓Keeps.setPartState_iff, ↓Keeps.writeBackPart_iff]
    | with_reducible refine (Keeps.foldl_iff _ _ _ _ (fun _ _ => ?_)).2 ?_
    | split
    | dsimp only
theorem Keeps.preserve_iff {M : List Field} (sB : State) (s : State) (p : Nat) (cause : Nat) (ts : List (BitVec 64))
    (hk : [.mem, .pois, .rows, .bspares, .stks, .hubs, .ctxs, .parts, .pages, .ports, .lines, .logs, .act, .out].all M.contains = true) : Keeps M sB (State.preserve s p cause ts) ↔ Keeps M sB s := Keeps.iff_of (Keeps.preserve s p cause ts) hk

theorem Keeps.dropDirs (s : State) (port : Nat) : Keeps [.mem, .pois, .rows, .bspares, .stks, .chans, .crus, .hubs, .me, .ve, .fe, .sp, .spPois, .ctxs, .parts, .pages, .streams, .ports, .dirs, .lines, .lands, .xacts, .groups, .logs, .pm, .act, .out] s (State.dropDirs s port) := by
  unfold State.dropDirs
  repeat' first
    | done
    | simp (disch := decide) only [↓Keeps.self_iff, ↓Keeps.ite_iff, ↓ite_self, ↓Keeps.modDir_iff, ↓Keeps.release_iff]
    | with_reducible refine (Keeps.foldl_iff _ _ _ _ (fun _ _ => ?_)).2 ?_
    | with_reducible refine (Keeps.foldl_fst_iff _ _ _ _ (fun _ _ => ?_)).2 ?_
    | with_reducible refine (Keeps.foldl_snd_iff _ _ _ _ (fun _ _ => ?_)).2 ?_
    | split
    | dsimp only
theorem Keeps.dropDirs_iff {M : List Field} (sB : State) (s : State) (port : Nat)
    (hk : [.mem, .pois, .rows, .bspares, .stks, .chans, .crus, .hubs, .me, .ve, .fe, .sp, .spPois, .ctxs, .parts, .pages, .streams, .ports, .dirs, .lines, .lands, .xacts, .groups, .logs, .pm, .act, .out].all M.contains = true) : Keeps M sB (State.dropDirs s port) ↔ Keeps M sB s := Keeps.iff_of (Keeps.dropDirs s port) hk

theorem Keeps.portDown (s : State) (p : Nat) : Keeps [.mem, .pois, .rows, .bspares, .stks, .chans, .crus, .hubs, .me, .ve, .fe, .sp, .spPois, .ctxs, .parts, .pages, .streams, .ports, .dirs, .lines, .lands, .xacts, .groups, .logs, .pm, .act, .out] s (State.portDown s p) := by
  unfold State.portDown
  repeat' first
    | done
    | simp (disch := decide) only [↓Keeps.self_iff, ↓Keeps.ite_iff, ↓ite_self, ↓Keeps.dropDirs_iff, ↓Keeps.hostDone_iff, ↓Keeps.modFchan_iff, ↓Keeps.modHport_iff]
    | with_reducible refine (Keeps.foldl_iff _ _ _ _ (fun _ _ => ?_)).2 ?_
    | with_reducible refine (Keeps.foldl_fst_iff _ _ _ _ (fun _ _ => ?_)).2 ?_
    | with_reducible refine (Keeps.foldl_snd_iff _ _ _ _ (fun _ _ => ?_)).2 ?_
    | split
    | dsimp only
theorem Keeps.portDown_iff {M : List Field} (sB : State) (s : State) (p : Nat)
    (hk : [.mem, .pois, .rows, .bspares, .stks, .chans, .crus, .hubs, .me, .ve, .fe, .sp, .spPois, .ctxs, .parts, .pages, .streams, .ports, .dirs, .lines, .lands, .xacts, .groups, .logs, .pm, .act, .out].all M.contains = true) : Keeps M sB (State.portDown s p) ↔ Keeps M sB s := Keeps.iff_of (Keeps.portDown s p) hk

theorem Keeps.hotReset (s : State) (p : Nat) (kind : Nat) (tokens : List (BitVec 64)) : Keeps [.mem, .pois, .rows, .bspares, .stks, .chans, .crus, .hubs, .me, .ve, .fe, .sp, .spPois, .ctxs, .parts, .pages, .streams, .ports, .dirs, .lines, .lands, .xacts, .groups, .logs, .pm, .act, .out] s (State.hotReset s p kind tokens) := by
  unfold State.hotReset
  repeat' first
    | done
    | simp (disch := decide) only [↓Keeps.self_iff, ↓Keeps.ite_iff, ↓ite_self, ↓Keeps.portDown_iff, ↓Keeps.preserve_iff]
    | with_reducible refine (Keeps.foldl_iff _ _ _ _ (fun _ _ => ?_)).2 ?_
    | split
    | dsimp only
theorem Keeps.hotReset_iff {M : List Field} (sB : State) (s : State) (p : Nat) (kind : Nat) (tokens : List (BitVec 64))
    (hk : [.mem, .pois, .rows, .bspares, .stks, .chans, .crus, .hubs, .me, .ve, .fe, .sp, .spPois, .ctxs, .parts, .pages, .streams, .ports, .dirs, .lines, .lands, .xacts, .groups, .logs, .pm, .act, .out].all M.contains = true) : Keeps M sB (State.hotReset s p kind tokens) ↔ Keeps M sB s := Keeps.iff_of (Keeps.hotReset s p kind tokens) hk

theorem Keeps.poisonParcel (s : State) (p : Nat) : Keeps [.pois, .rows] s (State.poisonParcel s p) := by
  unfold State.poisonParcel
  repeat' first
    | done
    | simp (disch := decide) only [↓Keeps.self_iff, ↓Keeps.ite_iff, ↓ite_self, ↓Keeps.poisonLine_iff]
    | with_reducible refine (Keeps.foldl_iff _ _ _ _ (fun _ _ => ?_)).2 ?_
    | split
    | dsimp only
theorem Keeps.poisonParcel_iff {M : List Field} (sB : State) (s : State) (p : Nat)
    (hk : [.pois, .rows].all M.contains = true) : Keeps M sB (State.poisonParcel s p) ↔ Keeps M sB s := Keeps.iff_of (Keeps.poisonParcel s p) hk

theorem Keeps.evacuate (s : State) (readable : Bool) (i : Nat) : Keeps [.slots, .parcels, .mem, .pois, .rows, .bspares, .stks, .chans, .crus, .hubs, .me, .ve, .fe, .ctxs, .parts, .pages, .streams, .ports, .lines, .lands, .xacts, .groups, .logs, .pm, .act, .out] s (State.evacuate s readable i) := by
  unfold State.evacuate
  repeat' first
    | done
    | simp (disch := decide) only [↓Keeps.self_iff, ↓Keeps.ite_iff, ↓ite_self, ↓Keeps.clearParcel_iff, ↓Keeps.copyParcel_iff, ↓Keeps.eventOwner_iff, ↓Keeps.flipSlot_iff, ↓Keeps.logError_iff, ↓Keeps.modSlot_iff, ↓Keeps.poisonParcel_iff, ↓Keeps.writeBackSlot_iff]
    | split
    | dsimp only
theorem Keeps.evacuate_iff {M : List Field} (sB : State) (s : State) (readable : Bool) (i : Nat)
    (hk : [.slots, .parcels, .mem, .pois, .rows, .bspares, .stks, .chans, .crus, .hubs, .me, .ve, .fe, .ctxs, .parts, .pages, .streams, .ports, .lines, .lands, .xacts, .groups, .logs, .pm, .act, .out].all M.contains = true) : Keeps M sB (State.evacuate s readable i) ↔ Keeps M sB s := Keeps.iff_of (Keeps.evacuate s readable i) hk

theorem Keeps.losePort (s : State) (p : Nat) : Keeps [.mem, .pois, .rows, .bspares, .stks, .chans, .crus, .hubs, .me, .ve, .fe, .sp, .spPois, .ctxs, .parts, .pages, .streams, .ports, .dirs, .lines, .lands, .xacts, .groups, .logs, .pm, .act, .out] s (State.losePort s p) := by
  unfold State.losePort
  repeat' first
    | done
    | simp (disch := decide) only [↓Keeps.self_iff, ↓Keeps.ite_iff, ↓ite_self, ↓Keeps.halt_iff, ↓Keeps.modHport_iff, ↓Keeps.modPage_iff, ↓Keeps.modPart_iff, ↓Keeps.portDown_iff]
    | with_reducible refine (Keeps.foldl_iff _ _ _ _ (fun _ _ => ?_)).2 ?_
    | split
    | dsimp only
theorem Keeps.losePort_iff {M : List Field} (sB : State) (s : State) (p : Nat)
    (hk : [.mem, .pois, .rows, .bspares, .stks, .chans, .crus, .hubs, .me, .ve, .fe, .sp, .spPois, .ctxs, .parts, .pages, .streams, .ports, .dirs, .lines, .lands, .xacts, .groups, .logs, .pm, .act, .out].all M.contains = true) : Keeps M sB (State.losePort s p) ↔ Keeps M sB s := Keeps.iff_of (Keeps.losePort s p) hk

theorem Keeps.retireTile (s : State) (t : Nat) (cause : Nat) (readable : Bool) : Keeps [.boot, .slots, .parcels, .mem, .pois, .rows, .bspares, .stks, .chans, .crus, .hubs, .me, .ve, .fe, .sp, .spPois, .ctxs, .parts, .pages, .streams, .ports, .dirs, .lines, .lands, .xacts, .groups, .logs, .pm, .act, .out] s (State.retireTile s t cause readable) := by
  unfold State.retireTile
  repeat' first
    | done
    | simp (disch := decide) only [↓Keeps.self_iff, ↓Keeps.ite_iff, ↓ite_self, ↓Keeps.bbox_iff, ↓Keeps.evacuate_iff, ↓Keeps.event_iff, ↓Keeps.halt_iff, ↓Keeps.landingDown_iff, ↓Keeps.losePort_iff, ↓Keeps.modCtx_iff, ↓Keeps.modHub_iff, ↓Keeps.noteCover_iff, ↓Keeps.putBoot_iff, ↓Keeps.unbindCtx_iff]
    | with_reducible refine (Keeps.foldl_iff _ _ _ _ (fun _ _ => ?_)).2 ?_
    | split
    | dsimp only
theorem Keeps.retireTile_iff {M : List Field} (sB : State) (s : State) (t : Nat) (cause : Nat) (readable : Bool)
    (hk : [.boot, .slots, .parcels, .mem, .pois, .rows, .bspares, .stks, .chans, .crus, .hubs, .me, .ve, .fe, .sp, .spPois, .ctxs, .parts, .pages, .streams, .ports, .dirs, .lines, .lands, .xacts, .groups, .logs, .pm, .act, .out].all M.contains = true) : Keeps M sB (State.retireTile s t cause readable) ↔ Keeps M sB s := Keeps.iff_of (Keeps.retireTile s t cause readable) hk

theorem Keeps.writeHeld (s : State) (k : Nat) (p : Nat) : Keeps [.parts, .pages, .ports, .act, .out] s (State.writeHeld s k p) := by
  unfold State.writeHeld
  repeat' first
    | done
    | simp (disch := decide) only [↓Keeps.self_iff, ↓Keeps.ite_iff, ↓ite_self, ↓Keeps.modPart_iff, ↓Keeps.writeCompletion_iff]
    | with_reducible refine (Keeps.foldl_iff _ _ _ _ (fun _ _ => ?_)).2 ?_
    | split
    | dsimp only
theorem Keeps.writeHeld_iff {M : List Field} (sB : State) (s : State) (k : Nat) (p : Nat)
    (hk : [.parts, .pages, .ports, .act, .out].all M.contains = true) : Keeps M sB (State.writeHeld s k p) ↔ Keeps M sB s := Keeps.iff_of (Keeps.writeHeld s k p) hk

theorem Keeps.firstEvents (s : State) (k : Nat) : Keeps [.parts, .pages, .ports, .act, .out] s (State.firstEvents s k) := by
  unfold State.firstEvents
  repeat' first
    | done
    | simp (disch := decide) only [↓Keeps.self_iff, ↓Keeps.ite_iff, ↓ite_self, ↓Keeps.eventOn_iff, ↓Keeps.modPage_iff, ↓Keeps.modPart_iff, ↓Keeps.writeHeld_iff]
    | split
    | dsimp only
theorem Keeps.firstEvents_iff {M : List Field} (sB : State) (s : State) (k : Nat)
    (hk : [.parts, .pages, .ports, .act, .out].all M.contains = true) : Keeps M sB (State.firstEvents s k) ↔ Keeps M sB s := Keeps.iff_of (Keeps.firstEvents s k) hk

theorem Keeps.startDesc (s : State) (k : Nat) (d : Desc) : Keeps [.parts, .pages, .ports, .pm, .act, .out] s (State.startDesc s k d) := by
  unfold State.startDesc
  repeat' first
    | done
    | simp (disch := decide) only [↓Keeps.self_iff, ↓Keeps.ite_iff, ↓ite_self, ↓Keeps.count_iff, ↓Keeps.modPage_iff, ↓Keeps.trace_iff]
    | split
    | dsimp only
theorem Keeps.startDesc_iff {M : List Field} (sB : State) (s : State) (k : Nat) (d : Desc)
    (hk : [.parts, .pages, .ports, .pm, .act, .out].all M.contains = true) : Keeps M sB (State.startDesc s k d) ↔ Keeps M sB s := Keeps.iff_of (Keeps.startDesc s k d) hk

theorem Keeps.runDesc {M : List Field} (s0 : State) (s : State) (k : Nat) (op : Nat) (f : Desc → DescRef → State → State)
    (hk : [.parts, .pages, .ports, .pm, .act, .out].all M.contains = true) (hf : ∀ x0 x1 u, Keeps M u (f x0 x1 u)) : Keeps M s0 (State.runDesc s k op f) ↔ Keeps M s0 s := by
  refine Keeps.iff_of (M := M) ?_ (by simp)
  have e : ∀ u, Keeps [.parts, .pages, .ports, .pm, .act, .out] s u → Keeps M s u := fun u h => (Keeps.iff_of h hk).2 (Keeps.refl _ s)
  unfold State.runDesc
  repeat' first
    | exact Keeps.refl _ s
    | split
    | dsimp only
    | (exact e _ (by simp (disch := decide) only [↓Keeps.self_iff, ↓Keeps.startDesc_iff, ↓Keeps.completeNow_iff]))
    | (exact Keeps.via (e _ (by simp (disch := decide) only [↓Keeps.self_iff, ↓Keeps.startDesc_iff, ↓Keeps.completeNow_iff])) (hf ..) (by simp))

theorem Keeps.openEngines (s : State) (t : Nat) : Keeps [.hubs] s (State.openEngines s t) := by
  unfold State.openEngines
  repeat' first
    | done
    | simp (disch := decide) only [↓Keeps.self_iff, ↓Keeps.ite_iff, ↓ite_self, ↓Keeps.enqueueWake_iff]
    | with_reducible refine (Keeps.foldl_iff _ _ _ _ (fun _ _ => ?_)).2 ?_
    | split
    | dsimp only
theorem Keeps.openEngines_iff {M : List Field} (sB : State) (s : State) (t : Nat)
    (hk : [.hubs].all M.contains = true) : Keeps M sB (State.openEngines s t) ↔ Keeps M sB s := Keeps.iff_of (Keeps.openEngines s t) hk

theorem Keeps.takeLoad (s : State) (t : Nat) (j : LoadJob) : Keeps [.parts, .pages, .ports, .trans, .act, .out] s (State.takeLoad s t j) := by
  unfold State.takeLoad
  repeat' first
    | done
    | simp (disch := decide) only [↓Keeps.self_iff, ↓Keeps.ite_iff, ↓ite_self, ↓Keeps.complete_iff, ↓Keeps.modPart_iff, ↓Keeps.modTran_iff]
    | split
    | dsimp only
theorem Keeps.takeLoad_iff {M : List Field} (sB : State) (s : State) (t : Nat) (j : LoadJob)
    (hk : [.parts, .pages, .ports, .trans, .act, .out].all M.contains = true) : Keeps M sB (State.takeLoad s t j) ↔ Keeps M sB s := Keeps.iff_of (Keeps.takeLoad s t j) hk

theorem Keeps.releaseLoads (s : State) (t : Nat) : Keeps [.parts, .pages, .ports, .trans, .act, .out] s (State.releaseLoads s t) := by
  unfold State.releaseLoads
  repeat' first
    | done
    | simp (disch := decide) only [↓Keeps.self_iff, ↓Keeps.ite_iff, ↓ite_self, ↓Keeps.modTran_iff, ↓Keeps.takeLoad_iff]
    | with_reducible refine (Keeps.foldl_iff _ _ _ _ (fun _ _ => ?_)).2 ?_
    | split
    | dsimp only
theorem Keeps.releaseLoads_iff {M : List Field} (sB : State) (s : State) (t : Nat)
    (hk : [.parts, .pages, .ports, .trans, .act, .out].all M.contains = true) : Keeps M sB (State.releaseLoads s t) ↔ Keeps M sB s := Keeps.iff_of (Keeps.releaseLoads s t) hk

theorem Keeps.issued (s : State) (c : Nat) (w : Nat) : Keeps [.ctxs, .parts, .ports, .pm, .act, .out] s (State.issued s c w) := by
  unfold State.issued
  repeat' first
    | done
    | simp (disch := decide) only [↓Keeps.self_iff, ↓Keeps.ite_iff, ↓ite_self, ↓Keeps.count_iff, ↓Keeps.modCtx_iff, ↓Keeps.trace_iff]
    | split
    | dsimp only
theorem Keeps.issued_iff {M : List Field} (sB : State) (s : State) (c : Nat) (w : Nat)
    (hk : [.ctxs, .parts, .ports, .pm, .act, .out].all M.contains = true) : Keeps M sB (State.issued s c w) ↔ Keeps M sB s := Keeps.iff_of (Keeps.issued s c w) hk

theorem Keeps.doneNow (s : State) (c : Nat) (w : Nat) (step : Nat) : Keeps [.ctxs, .parts, .ports, .act, .out] s (State.doneNow s c w step) := by
  unfold State.doneNow
  repeat' first
    | done
    | simp (disch := decide) only [↓Keeps.self_iff, ↓Keeps.ite_iff, ↓ite_self, ↓Keeps.advance_iff, ↓Keeps.trace_iff]
    | split
    | dsimp only
theorem Keeps.doneNow_iff {M : List Field} (sB : State) (s : State) (c : Nat) (w : Nat) (step : Nat)
    (hk : [.ctxs, .parts, .ports, .act, .out].all M.contains = true) : Keeps M sB (State.doneNow s c w step) ↔ Keeps M sB s := Keeps.iff_of (Keeps.doneNow s c w step) hk

theorem Keeps.outstand (s : State) (c : Nat) (w : Nat) (i : Nat) : Keeps [.ctxs] s (State.outstand s c w i) := by
  unfold State.outstand
  repeat' first
    | done
    | simp (disch := decide) only [↓Keeps.self_iff, ↓Keeps.ite_iff, ↓ite_self, ↓Keeps.modCtx_iff]
    | split
    | dsimp only
theorem Keeps.outstand_iff {M : List Field} (sB : State) (s : State) (c : Nat) (w : Nat) (i : Nat)
    (hk : [.ctxs].all M.contains = true) : Keeps M sB (State.outstand s c w i) ↔ Keeps M sB s := Keeps.iff_of (Keeps.outstand s c w i) hk

theorem Keeps.issue {M : List Field} (s0 : State) (s : State) (c : Nat) (eng : Nat) (op : Nat) (mb : Nat → Bool) (f : Nat → Nat → State → State)
    (hk : [.chans, .crus, .hubs, .me, .ve, .fe, .ctxs, .parts, .pages, .ports, .lands, .xacts, .groups, .pm, .act, .out].all M.contains = true) (hf : ∀ x0 x1 u, Keeps M u (f x0 x1 u)) : Keeps M s0 (State.issue s c eng op mb f) ↔ Keeps M s0 s := by
  refine Keeps.iff_of (M := M) ?_ (by simp)
  have e : ∀ u, Keeps [.chans, .crus, .hubs, .me, .ve, .fe, .ctxs, .parts, .pages, .ports, .lands, .xacts, .groups, .pm, .act, .out] s u → Keeps M s u := fun u h => (Keeps.iff_of h hk).2 (Keeps.refl _ s)
  unfold State.issue
  repeat' first
    | exact Keeps.refl _ s
    | split
    | dsimp only
    | (exact e _ (by simp (disch := decide) only [↓Keeps.self_iff, ↓Keeps.halt_iff, ↓Keeps.modCtx_iff, ↓Keeps.doneNow_iff, ↓Keeps.issued_iff]))
    | (exact Keeps.via (e _ (by simp (disch := decide) only [↓Keeps.self_iff, ↓Keeps.halt_iff, ↓Keeps.modCtx_iff, ↓Keeps.doneNow_iff, ↓Keeps.issued_iff])) (hf ..) (by simp))

theorem Keeps.applyInc (s : State) (c : Nat) (w : Nat) (m : Nat) : Keeps [.ctxs] s (State.applyInc s c w m) := by
  unfold State.applyInc
  repeat' first
    | done
    | simp (disch := decide) only [↓Keeps.self_iff, ↓Keeps.ite_iff, ↓ite_self, ↓Keeps.modCtx_iff]
    | split
    | dsimp only
theorem Keeps.applyInc_iff {M : List Field} (sB : State) (s : State) (c : Nat) (w : Nat) (m : Nat)
    (hk : [.ctxs].all M.contains = true) : Keeps M sB (State.applyInc s c w m) ↔ Keeps M sB s := Keeps.iff_of (Keeps.applyInc s c w m) hk

theorem Keeps.loadX (s : State) (c : Nat) (n : Nat) (a : Nat) : Keeps [.free, .ctxs] s (State.loadX s c n a) := by
  unfold State.loadX
  repeat' first
    | done
    | simp (disch := decide) only [↓Keeps.self_iff, ↓Keeps.ite_iff, ↓ite_self, ↓Keeps.draw_iff, ↓Keeps.modCtx_iff, ↓Keeps.notePoison_iff]
    | split
    | dsimp only
theorem Keeps.loadX_iff {M : List Field} (sB : State) (s : State) (c : Nat) (n : Nat) (a : Nat)
    (hk : [.free, .ctxs].all M.contains = true) : Keeps M sB (State.loadX s c n a) ↔ Keeps M sB s := Keeps.iff_of (Keeps.loadX s c n a) hk

theorem Keeps.applyPat (s : State) (c : Nat) (w : Nat) (m : Nat) (j : Nat) : Keeps [.free, .ctxs] s (State.applyPat s c w m j) := by
  unfold State.applyPat
  repeat' first
    | done
    | simp (disch := decide) only [↓Keeps.self_iff, ↓Keeps.ite_iff, ↓ite_self, ↓Keeps.loadX_iff, ↓Keeps.modCtx_iff]
    | split
    | dsimp only
theorem Keeps.applyPat_iff {M : List Field} (sB : State) (s : State) (c : Nat) (w : Nat) (m : Nat) (j : Nat)
    (hk : [.free, .ctxs].all M.contains = true) : Keeps M sB (State.applyPat s c w m j) ↔ Keeps M sB s := Keeps.iff_of (Keeps.applyPat s c w m j) hk

theorem Keeps.applyPats (a0 : List Nat) (a1 : Nat) (a2 : Nat) (a3 : Nat) (a4 : Nat) (a5 : State) : Keeps [.free, .chans, .crus, .hubs, .me, .ve, .fe, .ctxs, .parts, .pages, .ports, .lands, .xacts, .groups, .pm, .act, .out] a5 (State.applyPats a0 a1 a2 a3 a4 a5).1 := by
  induction a0 generalizing a1 a2 a3 a4 a5 with
  | nil => exact Keeps.refl _ _
  | cons m ms ih =>
    unfold State.applyPats
    repeat' first
      | done
      | (with_reducible refine (Keeps.iff_of (ih ..) (by decide)).2 ?_)
      | simp (disch := decide) only [↓Keeps.self_iff, ↓Keeps.ite_iff, ↓ite_self, ↓Keeps.applyPat_iff, ↓Keeps.halt_iff]
      | split
      | dsimp only
theorem Keeps.applyPats_iff {M : List Field} (sB : State) (a0 : List Nat) (a1 : Nat) (a2 : Nat) (a3 : Nat) (a4 : Nat) (a5 : State)
    (hk : [.free, .chans, .crus, .hubs, .me, .ve, .fe, .ctxs, .parts, .pages, .ports, .lands, .xacts, .groups, .pm, .act, .out].all M.contains = true) : Keeps M sB (State.applyPats a0 a1 a2 a3 a4 a5).1 ↔ Keeps M sB a5 := Keeps.iff_of (Keeps.applyPats a0 a1 a2 a3 a4 a5) hk
theorem Keeps.applyPats_eq {a0 : List Nat} {a1 : Nat} {a2 : Nat} {a3 : Nat} {a4 : Nat} {a5 : State} {u0 : State} {y : ℕ} (h : State.applyPats a0 a1 a2 a3 a4 a5 = (u0, y)) : Keeps [.free, .chans, .crus, .hubs, .me, .ve, .fe, .ctxs, .parts, .pages, .ports, .lands, .xacts, .groups, .pm, .act, .out] a5 u0 := by
  have k := Keeps.applyPats a0 a1 a2 a3 a4 a5
  rw [h] at k
  exact k

theorem Keeps.beginAccess (s : State) (c : Nat) (w : Nat) (i : Nat) (kind : Nat) (a : Nat) (len : Nat) : Keeps [.ctxs] s (State.beginAccess s c w i kind a len) := by
  unfold State.beginAccess
  repeat' first
    | done
    | simp (disch := decide) only [↓Keeps.self_iff, ↓Keeps.ite_iff, ↓ite_self, ↓Keeps.modCtx_iff, ↓Keeps.outstand_iff]
    | split
    | dsimp only
theorem Keeps.beginAccess_iff {M : List Field} (sB : State) (s : State) (c : Nat) (w : Nat) (i : Nat) (kind : Nat) (a : Nat) (len : Nat)
    (hk : [.ctxs].all M.contains = true) : Keeps M sB (State.beginAccess s c w i kind a len) ↔ Keeps M sB s := Keeps.iff_of (Keeps.beginAccess s c w i kind a len) hk

theorem Keeps.acceptFerry (s : State) (t : Nat) (ch : Nat) (part : Option Nat) (sa : Nat) (d : Line512) (mask : BitVec 64) (pois : Bool) : Keeps [.chans, .hubs] s (State.acceptFerry s t ch part sa d mask pois) := by
  unfold State.acceptFerry
  repeat' first
    | done
    | simp (disch := decide) only [↓Keeps.self_iff, ↓Keeps.ite_iff, ↓ite_self, ↓Keeps.accept_iff]
    | split
    | dsimp only
theorem Keeps.acceptFerry_iff {M : List Field} (sB : State) (s : State) (t : Nat) (ch : Nat) (part : Option Nat) (sa : Nat) (d : Line512) (mask : BitVec 64) (pois : Bool)
    (hk : [.chans, .hubs].all M.contains = true) : Keeps M sB (State.acceptFerry s t ch part sa d mask pois) ↔ Keeps M sB s := Keeps.iff_of (Keeps.acceptFerry s t ch part sa d mask pois) hk

theorem Keeps.writeWhole (s : State) (who : Nat) (part : Option Nat) (sa : Nat) (ls : List (Nat × Line512 × BitVec 64 × Bool)) :
    Keeps [.mem, .pois, .rows, .bspares, .stks, .chans, .crus, .hubs, .me, .ve, .fe, .ctxs, .parts, .pages, .streams, .ports, .lands, .xacts, .groups, .logs, .pm, .act, .out] s (State.writeWhole s who part sa ls) := by
  have y : ∀ (L : List Field) (f : State → Nat → Line512 → BitVec 64 → Bool → Nat → Option Nat → Nat → State × Bool), (∀ s k a b c d e g, Keeps L s (f s k a b c d e g).1) → ∀ u, Keeps L s u →
      Keeps L s (ls.foldl (fun s e => match s.movingLine (e.1 * 64 % 2 ^ 48) with
        | some m => (f s m e.2.1 e.2.2.1 e.2.2.2 (writePath who) part (s.addrFor who (e.1 * 64 % 2 ^ 48))).1
        | none => s) u) := by
    intro L f h u hu
    refine (Keeps.foldl_iff _ _ _ _ fun v e => ?_).2 hu
    split
    · exact h ..
    · exact Keeps.refl _ _
  unfold State.writeWhole
  refine y [.mem, .pois, .rows, .bspares, .stks, .chans, .crus, .hubs, .me, .ve, .fe, .ctxs, .parts, .pages, .streams, .ports, .lands, .xacts, .groups, .logs, .pm, .act, .out] State.writeLine (fun _ _ _ _ _ _ _ _ => (Keeps.writeLine ..).mono (by decide)) _ ?_
  repeat' first
    | done
    | simp (disch := decide) only [↓Keeps.self_iff, ↓Keeps.ite_iff, ↓ite_self, ↓Keeps.modChan_iff, ↓Keeps.countGrant_iff, ↓Keeps.drainLine_iff, ↓Keeps.reachRow_iff, ↓Keeps.spend_iff, ↓Keeps.writeRow_iff]
    | with_reducible refine (Keeps.foldl_iff _ _ _ _ (fun _ _ => ?_)).2 ?_
theorem Keeps.writeWhole_iff {M : List Field} (sB : State) (s : State) (who : Nat) (part : Option Nat) (sa : Nat) (ls : List (Nat × Line512 × BitVec 64 × Bool))
    (hk : [.mem, .pois, .rows, .bspares, .stks, .chans, .crus, .hubs, .me, .ve, .fe, .ctxs, .parts, .pages, .streams, .ports, .lands, .xacts, .groups, .logs, .pm, .act, .out].all M.contains = true) : Keeps M sB (State.writeWhole s who part sa ls) ↔ Keeps M sB s := Keeps.iff_of (Keeps.writeWhole s who part sa ls) hk

theorem Keeps.writeSpot_some {s : State} {t : Nat} {ch : Nat} {part : Option Nat} {l : Nat × Line512 × BitVec 64 × Bool} {u0 : Sys2Proof.Machine.Written} (h : State.writeSpot s t ch part l = some u0) : Keeps [.free, .mem, .pois, .rows, .bspares, .stks, .chans, .crus, .hubs, .me, .ve, .fe, .sp, .spPois, .ctxs, .parts, .pages, .streams, .ports, .lines, .lands, .xacts, .groups, .logs, .pm, .act, .out] s u0.st := by
  unfold State.writeSpot at h
  repeat' first
    | done
    | (cases h; done)
    | (cases h; simp (disch := decide) only [↓Keeps.self_iff, ↓Keeps.ite_iff, ↓ite_self, ↓Keeps.acceptFerry_iff, ↓Keeps.draw_iff, ↓Keeps.homeWrite_iff, ↓Keeps.hostWrite_iff, ↓Keeps.modFchan_iff, ↓Keeps.spWrite_iff, ↓Keeps.viaMesh_iff, ↓Keeps.writeWhole_iff]; done)
    | (exact Keeps.refl _ _)
    | split at h
    | dsimp only at h
    | (cases h; repeat' first
        | done
        | simp (disch := decide) only [↓Keeps.self_iff, ↓Keeps.ite_iff, ↓ite_self, ↓Keeps.acceptFerry_iff, ↓Keeps.draw_iff, ↓Keeps.homeWrite_iff, ↓Keeps.hostWrite_iff, ↓Keeps.modFchan_iff, ↓Keeps.spWrite_iff, ↓Keeps.viaMesh_iff, ↓Keeps.writeWhole_iff]
        | with_reducible refine (Keeps.foldl_iff _ _ _ _ (fun _ _ => ?_)).2 ?_
        | with_reducible refine (Keeps.foldl_fst_iff _ _ _ _ (fun _ _ => ?_)).2 ?_
        | with_reducible refine (Keeps.foldl_snd_iff _ _ _ _ (fun _ _ => ?_)).2 ?_
        | split)

theorem Keeps.pushWrites (a0 : Nat) (a1 : Nat) (a2 : Nat) (a3 : Option Nat) (a4 : State) : Keeps [.free, .mem, .pois, .rows, .bspares, .stks, .chans, .crus, .hubs, .me, .ve, .fe, .sp, .spPois, .ctxs, .parts, .pages, .streams, .ports, .lines, .lands, .xacts, .groups, .logs, .pm, .act, .out] a4 (State.pushWrites a0 a1 a2 a3 a4) := by
  induction a0 generalizing a1 a2 a3 a4 with
  | zero => exact Keeps.refl _ _
  | succ n ih =>
    unfold State.pushWrites
    repeat' first
      | done
      | (with_reducible refine (Keeps.iff_of (ih ..) (by decide)).2 ?_)
      | simp (disch := decide) only [↓Keeps.self_iff, ↓Keeps.ite_iff, ↓ite_self, ↓Keeps.ferryFault_iff, ↓Keeps.modFchan_iff]
      | (with_reducible refine (Keeps.iff_of (Keeps.writeSpot_some ‹_›) (by decide)).2 ?_)
      | split
      | dsimp only
theorem Keeps.pushWrites_iff {M : List Field} (sB : State) (a0 : Nat) (a1 : Nat) (a2 : Nat) (a3 : Option Nat) (a4 : State)
    (hk : [.free, .mem, .pois, .rows, .bspares, .stks, .chans, .crus, .hubs, .me, .ve, .fe, .sp, .spPois, .ctxs, .parts, .pages, .streams, .ports, .lines, .lands, .xacts, .groups, .logs, .pm, .act, .out].all M.contains = true) : Keeps M sB (State.pushWrites a0 a1 a2 a3 a4) ↔ Keeps M sB a4 := Keeps.iff_of (Keeps.pushWrites a0 a1 a2 a3 a4) hk

theorem Keeps.ferrySnoop_some {s : State} {t : Nat} {ch : Nat} {part : Option Nat} {ms : List Move} {u0 : Sys2Proof.Machine.State} (h : State.ferrySnoop s t ch part ms = some u0) : Keeps [.dirs] s u0 := by
  have key : ∀ (l : List Nat) (w : Bool), l.findSome? (fun sa => if (s.fchan (16 * t + ch)).biBad.contains (sa / 64) then none
      else s.deviceSnoop sa { write := w, part := part, ferry := some (t, ch) }) = some u0 → Keeps [.dirs] s u0 := by
    intro l w hl
    obtain ⟨sa, _, e⟩ := List.exists_of_findSome?_eq_some hl
    split at e
    · cases e
    · exact Keeps.deviceSnoop_some e
  unfold State.ferrySnoop at h
  dsimp only at h
  cases h1 : (s.sharedLines ms false).findSome? (fun sa => if (s.fchan (16 * t + ch)).biBad.contains (sa / 64) then none
      else s.deviceSnoop sa { write := false, part := part, ferry := some (t, ch) }) with
  | some v =>
    rw [h1] at h
    cases h
    exact key _ _ h1
  | none =>
    rw [h1] at h
    exact key _ _ h

theorem Keeps.ferryRead (s : State) (t : Nat) (ch : Nat) (part : Option Nat) (ls : List Nat) : Keeps [.pois, .rows, .bspares, .stks, .chans, .hubs, .fe, .parts, .pages, .ports, .logs, .pm, .act, .out] s (State.ferryRead s t ch part ls) := by
  unfold State.ferryRead
  repeat' first
    | done
    | simp (disch := decide) only [↓Keeps.self_iff, ↓Keeps.ite_iff, ↓ite_self, ↓Keeps.countGrant_iff, ↓Keeps.deviceRead_iff, ↓Keeps.modFchan_iff, ↓Keeps.readMesh_iff]
    | with_reducible refine (Keeps.foldl_iff _ _ _ _ (fun _ _ => ?_)).2 ?_
    | with_reducible refine (Keeps.foldl_fst_iff _ _ _ _ (fun _ _ => ?_)).2 ?_
    | with_reducible refine (Keeps.foldl_snd_iff _ _ _ _ (fun _ _ => ?_)).2 ?_
    | (with_reducible refine (Keeps.iff_of (Keeps.deviceRead_eq ‹_›) (by decide)).2 ?_)
    | split
    | dsimp only
theorem Keeps.ferryRead_iff {M : List Field} (sB : State) (s : State) (t : Nat) (ch : Nat) (part : Option Nat) (ls : List Nat)
    (hk : [.pois, .rows, .bspares, .stks, .chans, .hubs, .fe, .parts, .pages, .ports, .logs, .pm, .act, .out].all M.contains = true) : Keeps M sB (State.ferryRead s t ch part ls) ↔ Keeps M sB s := Keeps.iff_of (Keeps.ferryRead s t ch part ls) hk

theorem Keeps.ferryMove (s : State) (t : Nat) (ch : Nat) (e : FeStep) : Keeps [.pois, .rows, .bspares, .stks, .chans, .hubs, .fe, .parts, .pages, .ports, .logs, .pm, .act, .out] s (State.ferryMove s t ch e) := by
  unfold State.ferryMove
  repeat' first
    | done
    | simp (disch := decide) only [↓Keeps.self_iff, ↓Keeps.ite_iff, ↓ite_self, ↓Keeps.ferryRead_iff, ↓Keeps.modFchan_iff, ↓Keeps.readMesh_iff]
    | with_reducible refine (Keeps.foldl_iff _ _ _ _ (fun _ _ => ?_)).2 ?_
    | with_reducible refine (Keeps.foldl_fst_iff _ _ _ _ (fun _ _ => ?_)).2 ?_
    | with_reducible refine (Keeps.foldl_snd_iff _ _ _ _ (fun _ _ => ?_)).2 ?_
    | split
    | dsimp only
theorem Keeps.ferryMove_iff {M : List Field} (sB : State) (s : State) (t : Nat) (ch : Nat) (e : FeStep)
    (hk : [.pois, .rows, .bspares, .stks, .chans, .hubs, .fe, .parts, .pages, .ports, .logs, .pm, .act, .out].all M.contains = true) : Keeps M sB (State.ferryMove s t ch e) ↔ Keeps M sB s := Keeps.iff_of (Keeps.ferryMove s t ch e) hk

theorem Keeps.ferryGo (s : State) (t ch : Nat) : Keeps [.free, .mem, .pois, .rows, .bspares, .stks, .chans, .crus, .hubs, .me, .ve, .fe, .sp, .spPois, .ctxs, .parts, .pages, .streams, .ports, .dirs, .lines, .lands, .xacts, .groups, .logs, .pm, .act, .out] s (State.ferryGo s t ch) := by
  unfold State.ferryGo
  dsimp only
  split
  · exact Keeps.refl _ _
  · split
    · exact Keeps.refl _ _
    · split
      · rename_i q
        refine (Keeps.modFchan_iff _ _ _ _ (by decide)).2 ?_
        split at q
        · cases q
        · exact (Keeps.ferrySnoop_some q).mono (by decide)
      · repeat' first
          | done
          | simp (disch := decide) only [↓Keeps.self_iff, ↓Keeps.ite_iff, ↓ite_self, ↓Keeps.ferryFault_iff, ↓Keeps.ferryMove_iff, ↓Keeps.modFchan_iff, ↓Keeps.pump_iff, ↓Keeps.pushWrites_iff]
          | split
theorem Keeps.ferryGo_iff {M : List Field} (sB : State) (s : State) (t : Nat) (ch : Nat)
    (hk : [.free, .mem, .pois, .rows, .bspares, .stks, .chans, .crus, .hubs, .me, .ve, .fe, .sp, .spPois, .ctxs, .parts, .pages, .streams, .ports, .dirs, .lines, .lands, .xacts, .groups, .logs, .pm, .act, .out].all M.contains = true) : Keeps M sB (State.ferryGo s t ch) ↔ Keeps M sB s := Keeps.iff_of (Keeps.ferryGo s t ch) hk

theorem Keeps.queueFerry (s : State) (e : FeStep) : Keeps [.fe] s (State.queueFerry s e) := by
  unfold State.queueFerry
  repeat' first
    | done
    | simp (disch := decide) only [↓Keeps.self_iff, ↓Keeps.ite_iff, ↓ite_self, ↓Keeps.modFchan_iff]
    | split
    | dsimp only
theorem Keeps.queueFerry_iff {M : List Field} (sB : State) (s : State) (e : FeStep)
    (hk : [.fe].all M.contains = true) : Keeps M sB (State.queueFerry s e) ↔ Keeps M sB s := Keeps.iff_of (Keeps.queueFerry s e) hk

theorem Keeps.issueFerry (s : State) (c : Nat) (op : Nat) : Keeps [.chans, .crus, .hubs, .me, .ve, .fe, .ctxs, .parts, .pages, .ports, .lands, .xacts, .groups, .pm, .act, .out] s (State.issueFerry s c op) := by
  unfold State.issueFerry
  repeat' first
    | done
    | simp (disch := decide) only [↓Keeps.self_iff, ↓Keeps.ite_iff, ↓ite_self, ↓Keeps.outstand_iff, ↓Keeps.queueFerry_iff]
    | (with_reducible refine (Keeps.issue _ _ _ _ _ _ _ (by decide) (fun _ _ _ => ?_)).2 ?_)
    | split
    | dsimp only
theorem Keeps.issueFerry_iff {M : List Field} (sB : State) (s : State) (c : Nat) (op : Nat)
    (hk : [.chans, .crus, .hubs, .me, .ve, .fe, .ctxs, .parts, .pages, .ports, .lands, .xacts, .groups, .pm, .act, .out].all M.contains = true) : Keeps M sB (State.issueFerry s c op) ↔ Keeps M sB s := Keeps.iff_of (Keeps.issueFerry s c op) hk

theorem Keeps.retireSlice (s : State) (t : Nat) (sl : Nat) (step : Nat) (part : Option Nat) (ctx : Nat) : Keeps [.hubs, .me, .parts, .pages, .ports, .act, .out] s (State.retireSlice s t sl step part ctx) := by
  unfold State.retireSlice
  repeat' first
    | done
    | simp (disch := decide) only [↓Keeps.self_iff, ↓Keeps.ite_iff, ↓ite_self, ↓Keeps.bbox_iff, ↓Keeps.event_iff, ↓Keeps.modMat_iff]
    | with_reducible refine (Keeps.foldl_iff _ _ _ _ (fun _ _ => ?_)).2 ?_
    | with_reducible refine (Keeps.foldl_fst_iff _ _ _ _ (fun _ _ => ?_)).2 ?_
    | with_reducible refine (Keeps.foldl_snd_iff _ _ _ _ (fun _ _ => ?_)).2 ?_
    | split
    | dsimp only
theorem Keeps.retireSlice_iff {M : List Field} (sB : State) (s : State) (t : Nat) (sl : Nat) (step : Nat) (part : Option Nat) (ctx : Nat)
    (hk : [.hubs, .me, .parts, .pages, .ports, .act, .out].all M.contains = true) : Keeps M sB (State.retireSlice s t sl step part ctx) ↔ Keeps M sB s := Keeps.iff_of (Keeps.retireSlice s t sl step part ctx) hk

theorem Keeps.takeOver (s : State) (t : Nat) (fresh : List Nat) : Keeps [.hubs, .me, .parts, .pages, .ports, .act, .out] s (State.takeOver s t fresh) := by
  unfold State.takeOver
  repeat' first
    | done
    | simp (disch := decide) only [↓Keeps.self_iff, ↓Keeps.ite_iff, ↓ite_self, ↓Keeps.modMat_iff, ↓Keeps.retireSlice_iff]
    | split
    | dsimp only
theorem Keeps.takeOver_iff {M : List Field} (sB : State) (s : State) (t : Nat) (fresh : List Nat)
    (hk : [.hubs, .me, .parts, .pages, .ports, .act, .out].all M.contains = true) : Keeps M sB (State.takeOver s t fresh) ↔ Keeps M sB s := Keeps.iff_of (Keeps.takeOver s t fresh) hk

theorem Keeps.wakeDone (s : State) (t : Nat) : Keeps [.me, .ctxs, .parts, .ports, .act, .out] s (State.wakeDone s t) := by
  unfold State.wakeDone
  repeat' first
    | done
    | simp (disch := decide) only [↓Keeps.self_iff, ↓Keeps.ite_iff, ↓ite_self, ↓Keeps.modMat_iff, ↓Keeps.stepDone_iff]
    | with_reducible refine (Keeps.foldl_iff _ _ _ _ (fun _ _ => ?_)).2 ?_
    | split
    | dsimp only
theorem Keeps.wakeDone_iff {M : List Field} (sB : State) (s : State) (t : Nat)
    (hk : [.me, .ctxs, .parts, .ports, .act, .out].all M.contains = true) : Keeps M sB (State.wakeDone s t) ↔ Keeps M sB s := Keeps.iff_of (Keeps.wakeDone s t) hk

theorem Keeps.meCycle (s : State) (t : Nat) : Keeps [.me, .pm, .act] s (State.meCycle s t).1 := by
  unfold State.meCycle
  repeat' first
    | done
    | simp (disch := decide) only [↓Keeps.self_iff, ↓Keeps.ite_iff, ↓ite_self, ↓Keeps.count_iff, ↓Keeps.modMat_iff, ↓Keeps.spend_iff]
    | split
    | dsimp only
theorem Keeps.meCycle_iff {M : List Field} (sB : State) (s : State) (t : Nat)
    (hk : [.me, .pm, .act].all M.contains = true) : Keeps M sB (State.meCycle s t).1 ↔ Keeps M sB s := Keeps.iff_of (Keeps.meCycle s t) hk
theorem Keeps.meCycle_eq {s : State} {t : Nat} {u0 : State} {y : List ℕ} (h : State.meCycle s t = (u0, y)) : Keeps [.me, .pm, .act] s u0 := by
  have k := Keeps.meCycle s t
  rw [h] at k
  exact k

theorem Keeps.mmulDone (s : State) (t : Nat) (r : MeRun) (pois : Bool) : Keeps [.regs, .me, .ctxs, .parts, .ports, .act, .out] s (State.mmulDone s t r pois) := by
  unfold State.mmulDone
  repeat' first
    | done
    | simp (disch := decide) only [↓Keeps.self_iff, ↓Keeps.ite_iff, ↓ite_self, ↓Keeps.modMat_iff, ↓Keeps.notePoison_iff, ↓Keeps.stepDone_iff, ↓Keeps.takeUp_iff]
    | split
    | dsimp only
theorem Keeps.mmulDone_iff {M : List Field} (sB : State) (s : State) (t : Nat) (r : MeRun) (pois : Bool)
    (hk : [.regs, .me, .ctxs, .parts, .ports, .act, .out].all M.contains = true) : Keeps M sB (State.mmulDone s t r pois) ↔ Keeps M sB s := Keeps.iff_of (Keeps.mmulDone s t r pois) hk

theorem Keeps.spSheet (s : State) (t : Nat) (b : Sheet) : Keeps [.sp, .spPois] s (State.spSheet s t b) := by
  unfold State.spSheet
  repeat' first
    | done
    | simp (disch := decide) only [↓Keeps.self_iff, ↓Keeps.ite_iff, ↓ite_self, ↓Keeps.spWrite_iff]
    | with_reducible refine (Keeps.foldl_iff _ _ _ _ (fun _ _ => ?_)).2 ?_
    | with_reducible refine (Keeps.foldl_fst_iff _ _ _ _ (fun _ _ => ?_)).2 ?_
    | with_reducible refine (Keeps.foldl_snd_iff _ _ _ _ (fun _ _ => ?_)).2 ?_
    | split
    | dsimp only
theorem Keeps.spSheet_iff {M : List Field} (sB : State) (s : State) (t : Nat) (b : Sheet)
    (hk : [.sp, .spPois].all M.contains = true) : Keeps M sB (State.spSheet s t b) ↔ Keeps M sB s := Keeps.iff_of (Keeps.spSheet s t b) hk

theorem Keeps.veRunAdvance (s : State) (t : Nat) (r : VeRun) (now : Nat) : Keeps [.vfiles, .sp, .spPois] s (State.veRunAdvance s t r now).2 := by
  unfold State.veRunAdvance
  repeat' first
    | done
    | simp (disch := decide) only [↓Keeps.self_iff, ↓Keeps.ite_iff, ↓ite_self, ↓Keeps.modVfile_iff, ↓Keeps.spSheet_iff]
    | with_reducible refine (Keeps.foldl_iff _ _ _ _ (fun _ _ => ?_)).2 ?_
    | with_reducible refine (Keeps.foldl_fst_iff _ _ _ _ (fun _ _ => ?_)).2 ?_
    | with_reducible refine (Keeps.foldl_snd_iff _ _ _ _ (fun _ _ => ?_)).2 ?_
    | split
    | dsimp only
theorem Keeps.veRunAdvance_iff {M : List Field} (sB : State) (s : State) (t : Nat) (r : VeRun) (now : Nat)
    (hk : [.vfiles, .sp, .spPois].all M.contains = true) : Keeps M sB (State.veRunAdvance s t r now).2 ↔ Keeps M sB s := Keeps.iff_of (Keeps.veRunAdvance s t r now) hk
theorem Keeps.veRunAdvance_eq {s : State} {t : Nat} {r : VeRun} {now : Nat} {u0 : State} {y : Sys2Proof.Machine.VeRun} (h : State.veRunAdvance s t r now = (y, u0)) : Keeps [.vfiles, .sp, .spPois] s u0 := by
  have k := Keeps.veRunAdvance s t r now
  rw [h] at k
  exact k

theorem Keeps.veAdvance (s : State) (t : Nat) : Keeps [.ve, .vfiles, .sp, .spPois] s (State.veAdvance s t) := by
  unfold State.veAdvance
  repeat' first
    | done
    | simp (disch := decide) only [↓Keeps.self_iff, ↓Keeps.ite_iff, ↓ite_self, ↓Keeps.modVec_iff, ↓Keeps.veRunAdvance_iff]
    | with_reducible refine (Keeps.foldl_iff _ _ _ _ (fun _ _ => ?_)).2 ?_
    | with_reducible refine (Keeps.foldl_fst_iff _ _ _ _ (fun _ _ => ?_)).2 ?_
    | with_reducible refine (Keeps.foldl_snd_iff _ _ _ _ (fun _ _ => ?_)).2 ?_
    | (with_reducible refine (Keeps.iff_of (Keeps.veRunAdvance_eq ‹_›) (by decide)).2 ?_)
    | split
    | dsimp only
theorem Keeps.veAdvance_iff {M : List Field} (sB : State) (s : State) (t : Nat)
    (hk : [.ve, .vfiles, .sp, .spPois].all M.contains = true) : Keeps M sB (State.veAdvance s t) ↔ Keeps M sB s := Keeps.iff_of (Keeps.veAdvance s t) hk

theorem Keeps.veCycle (s : State) (t : Nat) (taken : List Nat) : Keeps [.ve, .pm] s (State.veCycle s t taken).1 := by
  unfold State.veCycle
  repeat' first
    | done
    | simp (disch := decide) only [↓Keeps.self_iff, ↓Keeps.ite_iff, ↓ite_self, ↓Keeps.count_iff, ↓Keeps.modVec_iff]
    | split
    | dsimp only
theorem Keeps.veCycle_iff {M : List Field} (sB : State) (s : State) (t : Nat) (taken : List Nat)
    (hk : [.ve, .pm].all M.contains = true) : Keeps M sB (State.veCycle s t taken).1 ↔ Keeps M sB s := Keeps.iff_of (Keeps.veCycle s t taken) hk
theorem Keeps.veCycle_eq {s : State} {t : Nat} {taken : List Nat} {u0 : State} {y : List ℕ} (h : State.veCycle s t taken = (u0, y)) : Keeps [.ve, .pm] s u0 := by
  have k := Keeps.veCycle s t taken
  rw [h] at k
  exact k

theorem Keeps.ferryCycle (s : State) (t : Nat) (taken : List Nat) (ch : Nat) : Keeps [.fe] s (State.ferryCycle s t taken ch).1 := by
  unfold State.ferryCycle
  repeat' first
    | done
    | simp (disch := decide) only [↓Keeps.self_iff, ↓Keeps.ite_iff, ↓ite_self, ↓Keeps.modFchan_iff]
    | split
    | dsimp only
theorem Keeps.ferryCycle_iff {M : List Field} (sB : State) (s : State) (t : Nat) (taken : List Nat) (ch : Nat)
    (hk : [.fe].all M.contains = true) : Keeps M sB (State.ferryCycle s t taken ch).1 ↔ Keeps M sB s := Keeps.iff_of (Keeps.ferryCycle s t taken ch) hk
theorem Keeps.ferryCycle_eq {s : State} {t : Nat} {taken : List Nat} {ch : Nat} {u0 : State} {y : List ℕ} (h : State.ferryCycle s t taken ch = (u0, y)) : Keeps [.fe] s u0 := by
  have k := Keeps.ferryCycle s t taken ch
  rw [h] at k
  exact k

theorem Keeps.accessCycle (s : State) (taken : List Nat) (c : Nat) : Keeps [.ctxs] s (State.accessCycle s taken c).1 := by
  unfold State.accessCycle
  repeat' first
    | done
    | simp (disch := decide) only [↓Keeps.self_iff, ↓Keeps.ite_iff, ↓ite_self, ↓Keeps.modCtx_iff]
    | split
    | dsimp only
theorem Keeps.accessCycle_iff {M : List Field} (sB : State) (s : State) (taken : List Nat) (c : Nat)
    (hk : [.ctxs].all M.contains = true) : Keeps M sB (State.accessCycle s taken c).1 ↔ Keeps M sB s := Keeps.iff_of (Keeps.accessCycle s taken c) hk
theorem Keeps.accessCycle_eq {s : State} {taken : List Nat} {c : Nat} {u0 : State} {y : List ℕ} (h : State.accessCycle s taken c = (u0, y)) : Keeps [.ctxs] s u0 := by
  have k := Keeps.accessCycle s taken c
  rw [h] at k
  exact k

theorem Keeps.bankShares (s : State) (t : Nat) : Keeps [.hubs, .me, .ve, .fe, .ctxs, .pm, .act] s (State.bankShares s t).1 := by
  unfold State.bankShares
  repeat' first
    | done
    | simp (disch := decide) only [↓Keeps.self_iff, ↓Keeps.ite_iff, ↓ite_self, ↓Keeps.accessCycle_iff, ↓Keeps.ferryCycle_iff, ↓Keeps.meCycle_iff, ↓Keeps.modHub_iff, ↓Keeps.veCycle_iff]
    | with_reducible refine (Keeps.foldl_iff _ _ _ _ (fun _ _ => ?_)).2 ?_
    | with_reducible refine (Keeps.foldl_fst_iff _ _ _ _ (fun _ _ => ?_)).2 ?_
    | with_reducible refine (Keeps.foldl_snd_iff _ _ _ _ (fun _ _ => ?_)).2 ?_
    | (with_reducible refine (Keeps.iff_of (Keeps.accessCycle_eq ‹_›) (by decide)).2 ?_)
    | (with_reducible refine (Keeps.iff_of (Keeps.ferryCycle_eq ‹_›) (by decide)).2 ?_)
    | (with_reducible refine (Keeps.iff_of (Keeps.meCycle_eq ‹_›) (by decide)).2 ?_)
    | (with_reducible refine (Keeps.iff_of (Keeps.veCycle_eq ‹_›) (by decide)).2 ?_)
    | split
    | dsimp only
theorem Keeps.bankShares_iff {M : List Field} (sB : State) (s : State) (t : Nat)
    (hk : [.hubs, .me, .ve, .fe, .ctxs, .pm, .act].all M.contains = true) : Keeps M sB (State.bankShares s t).1 ↔ Keeps M sB s := Keeps.iff_of (Keeps.bankShares s t) hk
theorem Keeps.bankShares_eq {s : State} {t : Nat} {u0 : State} {y : List (Sys2Proof.Machine.Taker × List ℕ)} (h : State.bankShares s t = (u0, y)) : Keeps [.hubs, .me, .ve, .fe, .ctxs, .pm, .act] s u0 := by
  have k := Keeps.bankShares s t
  rw [h] at k
  exact k

theorem Keeps.bankCycle (s : State) (t : Nat) : Keeps [.hubs, .me, .ve, .fe, .ctxs, .pm, .act] s (State.bankCycle s t) := by
  unfold State.bankCycle
  repeat' first
    | done
    | simp (disch := decide) only [↓Keeps.self_iff, ↓Keeps.ite_iff, ↓ite_self, ↓Keeps.bankShares_iff]
    | (with_reducible refine (Keeps.iff_of (Keeps.bankShares_eq ‹_›) (by decide)).2 ?_)
    | split
    | dsimp only
theorem Keeps.bankCycle_iff {M : List Field} (sB : State) (s : State) (t : Nat)
    (hk : [.hubs, .me, .ve, .fe, .ctxs, .pm, .act].all M.contains = true) : Keeps M sB (State.bankCycle s t) ↔ Keeps M sB s := Keeps.iff_of (Keeps.bankCycle s t) hk

theorem Keeps.upsetCells (s : State) : Keeps [.free, .rows] s (State.upsetCells s) := by
  unfold State.upsetCells
  repeat' first
    | done
    | simp (disch := decide) only [↓Keeps.self_iff, ↓Keeps.ite_iff, ↓ite_self, ↓Keeps.draw_iff, ↓Keeps.putRows_iff]
    | with_reducible refine (Keeps.foldl_iff _ _ _ _ (fun _ _ => ?_)).2 ?_
    | with_reducible refine (Keeps.foldl_fst_iff _ _ _ _ (fun _ _ => ?_)).2 ?_
    | with_reducible refine (Keeps.foldl_snd_iff _ _ _ _ (fun _ _ => ?_)).2 ?_
    | split
    | dsimp only
theorem Keeps.upsetCells_iff {M : List Field} (sB : State) (s : State)
    (hk : [.free, .rows].all M.contains = true) : Keeps M sB (State.upsetCells s) ↔ Keeps M sB s := Keeps.iff_of (Keeps.upsetCells s) hk

theorem Keeps.tick (s : State) : Keeps [.cyc, .free, .rows, .hubs, .me, .ve, .vfiles, .fe, .sp, .spPois, .ctxs, .pm, .act] s (State.tick s) := by
  unfold State.tick
  repeat' first
    | done
    | simp (disch := decide) only [↓Keeps.self_iff, ↓Keeps.ite_iff, ↓ite_self, ↓Keeps.bankCycle_iff, ↓Keeps.putCyc_iff, ↓Keeps.upsetCells_iff, ↓Keeps.veAdvance_iff]
    | with_reducible refine (Keeps.foldl_iff _ _ _ _ (fun _ _ => ?_)).2 ?_
    | with_reducible refine (Keeps.foldl_fst_iff _ _ _ _ (fun _ _ => ?_)).2 ?_
    | with_reducible refine (Keeps.foldl_snd_iff _ _ _ _ (fun _ _ => ?_)).2 ?_
    | split
    | dsimp only
theorem Keeps.tick_iff {M : List Field} (sB : State) (s : State)
    (hk : [.cyc, .free, .rows, .hubs, .me, .ve, .vfiles, .fe, .sp, .spPois, .ctxs, .pm, .act].all M.contains = true) : Keeps M sB (State.tick s) ↔ Keeps M sB s := Keeps.iff_of (Keeps.tick s) hk

theorem Keeps.nbBegin (s : State) (c : Nat) : Keeps [.free, .chans, .crus, .hubs, .me, .ve, .fe, .ctxs, .parts, .pages, .ports, .lands, .xacts, .groups, .pm, .act, .out] s (State.nbBegin s c) := by
  unfold State.nbBegin
  repeat' first
    | done
    | simp (disch := decide) only [↓Keeps.self_iff, ↓Keeps.ite_iff, ↓ite_self, ↓Keeps.halt_iff, ↓Keeps.modCtx_iff, ↓Keeps.putFree_iff]
    | split
    | dsimp only
theorem Keeps.nbBegin_iff {M : List Field} (sB : State) (s : State) (c : Nat)
    (hk : [.free, .chans, .crus, .hubs, .me, .ve, .fe, .ctxs, .parts, .pages, .ports, .lands, .xacts, .groups, .pm, .act, .out].all M.contains = true) : Keeps M sB (State.nbBegin s c) ↔ Keeps M sB s := Keeps.iff_of (Keeps.nbBegin s c) hk

theorem Keeps.nbTakes (s : State) (t : Nat) (ws : List Nat) : Keeps [.hubs] s (State.nbTakes s t ws) := by
  unfold State.nbTakes
  repeat' first
    | done
    | simp (disch := decide) only [↓Keeps.self_iff, ↓Keeps.ite_iff, ↓ite_self, ↓Keeps.modHub_iff]
    | split
    | dsimp only
theorem Keeps.nbTakes_iff {M : List Field} (sB : State) (s : State) (t : Nat) (ws : List Nat)
    (hk : [.hubs].all M.contains = true) : Keeps M sB (State.nbTakes s t ws) ↔ Keeps M sB s := Keeps.iff_of (Keeps.nbTakes s t ws) hk

theorem Keeps.ownScrub (s : State) (ch : Nat) : Keeps [.chans, .nbus, .hubs] s (State.ownScrub s ch) := by
  unfold State.ownScrub
  repeat' first
    | done
    | simp (disch := decide) only [↓Keeps.self_iff, ↓Keeps.ite_iff, ↓ite_self, ↓Keeps.forget_iff, ↓Keeps.modChan_iff, ↓Keeps.modNbu_iff]
    | with_reducible refine (Keeps.foldl_iff _ _ _ _ (fun _ _ => ?_)).2 ?_
    | split
    | dsimp only
theorem Keeps.ownScrub_iff {M : List Field} (sB : State) (s : State) (ch : Nat)
    (hk : [.chans, .nbus, .hubs].all M.contains = true) : Keeps M sB (State.ownScrub s ch) ↔ Keeps M sB s := Keeps.iff_of (Keeps.ownScrub s ch) hk

theorem Keeps.askNbe (s : State) (ch : Nat) (c : Nat) : Keeps [.chans, .hubs] s (State.askNbe s ch c) := by
  unfold State.askNbe
  repeat' first
    | done
    | simp (disch := decide) only [↓Keeps.self_iff, ↓Keeps.ite_iff, ↓ite_self, ↓Keeps.enqueueWake_iff, ↓Keeps.modChan_iff]
    | split
    | dsimp only
theorem Keeps.askNbe_iff {M : List Field} (sB : State) (s : State) (ch : Nat) (c : Nat)
    (hk : [.chans, .hubs].all M.contains = true) : Keeps M sB (State.askNbe s ch c) ↔ Keeps M sB s := Keeps.iff_of (Keeps.askNbe s ch c) hk

theorem Keeps.beginPass (s : State) (ch : Nat) (c : Nat) (r : NbRun) (id : PassId) (pl : PassPlan) : Keeps [.chans, .nbus, .hubs, .ctxs] s (State.beginPass s ch c r id pl) := by
  unfold State.beginPass
  repeat' first
    | done
    | simp (disch := decide) only [↓Keeps.self_iff, ↓Keeps.ite_iff, ↓ite_self, ↓Keeps.forget_iff, ↓Keeps.modChan_iff, ↓Keeps.modCtx_iff, ↓Keeps.modHub_iff, ↓Keeps.modNbu_iff, ↓Keeps.nbTakes_iff, ↓Keeps.ownScrub_iff]
    | with_reducible refine (Keeps.foldl_iff _ _ _ _ (fun _ _ => ?_)).2 ?_
    | with_reducible refine (Keeps.foldl_fst_iff _ _ _ _ (fun _ _ => ?_)).2 ?_
    | with_reducible refine (Keeps.foldl_snd_iff _ _ _ _ (fun _ _ => ?_)).2 ?_
    | split
    | dsimp only
theorem Keeps.beginPass_iff {M : List Field} (sB : State) (s : State) (ch : Nat) (c : Nat) (r : NbRun) (id : PassId) (pl : PassPlan)
    (hk : [.chans, .nbus, .hubs, .ctxs].all M.contains = true) : Keeps M sB (State.beginPass s ch c r id pl) ↔ Keeps M sB s := Keeps.iff_of (Keeps.beginPass s ch c r id pl) hk

theorem Keeps.readSpan (s : State) (b : Nat) (part : Option Nat) (p : PassRec) : Keeps [.pois, .rows, .bspares, .stks, .hubs, .parts, .pages, .ports, .logs, .act, .out] s (State.readSpan s b part p) := by
  unfold State.readSpan
  repeat' first
    | done
    | simp (disch := decide) only [↓Keeps.self_iff, ↓Keeps.ite_iff, ↓ite_self, ↓Keeps.decodeRow_iff]
    | with_reducible refine (Keeps.foldl_iff _ _ _ _ (fun _ _ => ?_)).2 ?_
    | split
    | dsimp only
theorem Keeps.readSpan_iff {M : List Field} (sB : State) (s : State) (b : Nat) (part : Option Nat) (p : PassRec)
    (hk : [.pois, .rows, .bspares, .stks, .hubs, .parts, .pages, .ports, .logs, .act, .out].all M.contains = true) : Keeps M sB (State.readSpan s b part p) ↔ Keeps M sB s := Keeps.iff_of (Keeps.readSpan s b part p) hk

theorem Keeps.writeImage (s : State) (sa : Nat) (l : List Byte) : Keeps [.mem, .pois, .rows, .bspares, .stks, .hubs, .parts, .pages, .ports, .logs, .act, .out] s (State.writeImage s sa l) := by
  unfold State.writeImage
  repeat' first
    | done
    | simp (disch := decide) only [↓Keeps.self_iff, ↓Keeps.ite_iff, ↓ite_self, ↓Keeps.writeSa_iff]
    | with_reducible refine (Keeps.foldl_iff _ _ _ _ (fun _ _ => ?_)).2 ?_
    | with_reducible refine (Keeps.foldl_fst_iff _ _ _ _ (fun _ _ => ?_)).2 ?_
    | with_reducible refine (Keeps.foldl_snd_iff _ _ _ _ (fun _ _ => ?_)).2 ?_
    | (with_reducible refine (Keeps.iff_of (Keeps.writeSa_eq ‹_›) (by decide)).2 ?_)
    | split
    | dsimp only
theorem Keeps.writeImage_iff {M : List Field} (sB : State) (s : State) (sa : Nat) (l : List Byte)
    (hk : [.mem, .pois, .rows, .bspares, .stks, .hubs, .parts, .pages, .ports, .logs, .act, .out].all M.contains = true) : Keeps M sB (State.writeImage s sa l) ↔ Keeps M sB s := Keeps.iff_of (Keeps.writeImage s sa l) hk

theorem Keeps.checkState (s : State) (p : Nat) (h : PHeader) (l : List Byte) (ws : List Nat) (tag : Nat) : Keeps [.mem, .pois, .rows, .bspares, .stks, .hubs, .ctxs, .parts, .pages, .ports, .logs, .act, .out] s (State.checkState s p h l ws tag) := by
  unfold State.checkState
  repeat' first
    | done
    | simp (disch := decide) only [↓Keeps.self_iff, ↓Keeps.ite_iff, ↓ite_self, ↓Keeps.modCtx_iff, ↓Keeps.writeImage_iff]
    | split
    | dsimp only
theorem Keeps.checkState_iff {M : List Field} (sB : State) (s : State) (p : Nat) (h : PHeader) (l : List Byte) (ws : List Nat) (tag : Nat)
    (hk : [.mem, .pois, .rows, .bspares, .stks, .hubs, .ctxs, .parts, .pages, .ports, .logs, .act, .out].all M.contains = true) : Keeps M sB (State.checkState s p h l ws tag) ↔ Keeps M sB s := Keeps.iff_of (Keeps.checkState s p h l ws tag) hk

theorem Keeps.fwRecord (s : State) (t : Nat) (ver : Nat) : Keeps [.hubs] s (State.fwRecord s t ver) := by
  unfold State.fwRecord
  repeat' first
    | done
    | simp (disch := decide) only [↓Keeps.self_iff, ↓Keeps.ite_iff, ↓ite_self, ↓Keeps.bbox_iff]
    | split
    | dsimp only
theorem Keeps.fwRecord_iff {M : List Field} (sB : State) (s : State) (t : Nat) (ver : Nat)
    (hk : [.hubs].all M.contains = true) : Keeps M sB (State.fwRecord s t ver) ↔ Keeps M sB s := Keeps.iff_of (Keeps.fwRecord s t ver) hk

theorem Keeps.fwRevert (s : State) : Keeps [.hubs, .parts, .pages, .ports, .trans, .fw, .act, .out] s (State.fwRevert s) := by
  unfold State.fwRevert
  repeat' first
    | done
    | simp (disch := decide) only [↓Keeps.self_iff, ↓Keeps.ite_iff, ↓ite_self, ↓Keeps.fwRecord_iff, ↓Keeps.modHub_iff, ↓Keeps.putFw_iff, ↓Keeps.releaseLoads_iff]
    | with_reducible refine (Keeps.foldl_iff _ _ _ _ (fun _ _ => ?_)).2 ?_
    | split
    | dsimp only
theorem Keeps.fwRevert_iff {M : List Field} (sB : State) (s : State)
    (hk : [.hubs, .parts, .pages, .ports, .trans, .fw, .act, .out].all M.contains = true) : Keeps M sB (State.fwRevert s) ↔ Keeps M sB s := Keeps.iff_of (Keeps.fwRevert s) hk

theorem Keeps.fwStep (s : State) : Keeps [.hubs, .parts, .pages, .ports, .trans, .fw, .act, .out] s (State.fwStep s) := by
  unfold State.fwStep
  repeat' first
    | done
    | simp (disch := decide) only [↓Keeps.self_iff, ↓Keeps.ite_iff, ↓ite_self, ↓Keeps.fwRecord_iff, ↓Keeps.modHub_iff, ↓Keeps.putFw_iff, ↓Keeps.releaseLoads_iff]
    | with_reducible refine (Keeps.foldl_iff _ _ _ _ (fun _ _ => ?_)).2 ?_
    | split
    | dsimp only
theorem Keeps.fwStep_iff {M : List Field} (sB : State) (s : State)
    (hk : [.hubs, .parts, .pages, .ports, .trans, .fw, .act, .out].all M.contains = true) : Keeps M sB (State.fwStep s) ↔ Keeps M sB s := Keeps.iff_of (Keeps.fwStep s) hk

theorem Keeps.spPut (s : State) (t : Nat) (a : Nat) (b : BitVec 8 × Bool) : Keeps [.sp, .spPois] s (State.spPut s t a b) := by
  unfold State.spPut
  repeat' first
    | done
    | simp (disch := decide) only [↓Keeps.self_iff, ↓Keeps.ite_iff, ↓ite_self, ↓Keeps.spWrite_iff]
    | split
    | dsimp only
theorem Keeps.spPut_iff {M : List Field} (sB : State) (s : State) (t : Nat) (a : Nat) (b : BitVec 8 × Bool)
    (hk : [.sp, .spPois].all M.contains = true) : Keeps M sB (State.spPut s t a b) ↔ Keeps M sB s := Keeps.iff_of (Keeps.spPut s t a b) hk

theorem Keeps.spPutNibble (s : State) (t : Nat) (o : Operand) (i : List Nat) (v : Nat) (pois : Bool) : Keeps [.sp, .spPois] s (State.spPutNibble s t o i v pois) := by
  unfold State.spPutNibble
  repeat' first
    | done
    | simp (disch := decide) only [↓Keeps.self_iff, ↓Keeps.ite_iff, ↓ite_self, ↓Keeps.spPut_iff]
    | split
    | dsimp only
theorem Keeps.spPutNibble_iff {M : List Field} (sB : State) (s : State) (t : Nat) (o : Operand) (i : List Nat) (v : Nat) (pois : Bool)
    (hk : [.sp, .spPois].all M.contains = true) : Keeps M sB (State.spPutNibble s t o i v pois) ↔ Keeps M sB s := Keeps.iff_of (Keeps.spPutNibble s t o i v pois) hk

theorem Keeps.unpackOperand (s : State) (t : Nat) (o : Operand) (l : Strip) : Keeps [.sp, .spPois] s (State.unpackOperand s t o l) := by
  unfold State.unpackOperand
  repeat' first
    | done
    | simp (disch := decide) only [↓Keeps.self_iff, ↓Keeps.ite_iff, ↓ite_self, ↓Keeps.spPut_iff, ↓Keeps.spPutNibble_iff, ↓Keeps.spWrite_iff]
    | with_reducible refine (Keeps.foldl_iff _ _ _ _ (fun _ _ => ?_)).2 ?_
    | with_reducible refine (Keeps.foldl_fst_iff _ _ _ _ (fun _ _ => ?_)).2 ?_
    | with_reducible refine (Keeps.foldl_snd_iff _ _ _ _ (fun _ _ => ?_)).2 ?_
    | split
    | dsimp only
theorem Keeps.unpackOperand_iff {M : List Field} (sB : State) (s : State) (t : Nat) (o : Operand) (l : Strip)
    (hk : [.sp, .spPois].all M.contains = true) : Keeps M sB (State.unpackOperand s t o l) ↔ Keeps M sB s := Keeps.iff_of (Keeps.unpackOperand s t o l) hk

theorem Keeps.modInst (s : State) (g : Nat) (k : Nat) (f : Inst → Inst) : Keeps [.groups] s (State.modInst s g k f) := by
  unfold State.modInst
  repeat' first
    | done
    | simp (disch := decide) only [↓Keeps.self_iff, ↓Keeps.ite_iff, ↓ite_self, ↓Keeps.modGroup_iff]
    | split
    | dsimp only
theorem Keeps.modInst_iff {M : List Field} (sB : State) (s : State) (g : Nat) (k : Nat) (f : Inst → Inst)
    (hk : [.groups].all M.contains = true) : Keeps M sB (State.modInst s g k f) ↔ Keeps M sB s := Keeps.iff_of (Keeps.modInst s g k f) hk

theorem Keeps.makePart (s : State) (gk : Nat) (k : Nat) : Keeps [.lands, .groups, .pm, .act, .out] s (State.makePart s gk k) := by
  unfold State.makePart
  repeat' first
    | done
    | simp (disch := decide) only [↓Keeps.self_iff, ↓Keeps.ite_iff, ↓ite_self, ↓Keeps.modInst_iff, ↓Keeps.sendAll_iff]
    | split
    | dsimp only
theorem Keeps.makePart_iff {M : List Field} (sB : State) (s : State) (gk : Nat) (k : Nat)
    (hk : [.lands, .groups, .pm, .act, .out].all M.contains = true) : Keeps M sB (State.makePart s gk k) ↔ Keeps M sB s := Keeps.iff_of (Keeps.makePart s gk k) hk

theorem Keeps.settle (s : State) (gk : Nat) (k : Nat) : Keeps [.lands, .groups, .pm, .act, .out] s (State.settle s gk k) := by
  unfold State.settle
  repeat' first
    | done
    | simp (disch := decide) only [↓Keeps.self_iff, ↓Keeps.ite_iff, ↓ite_self, ↓Keeps.modInst_iff, ↓Keeps.sendAll_iff, ↓Keeps.sendPart_iff]
    | split
    | dsimp only
theorem Keeps.settle_iff {M : List Field} (sB : State) (s : State) (gk : Nat) (k : Nat)
    (hk : [.lands, .groups, .pm, .act, .out].all M.contains = true) : Keeps M sB (State.settle s gk k) ↔ Keeps M sB s := Keeps.iff_of (Keeps.settle s gk k) hk

theorem Keeps.advanceInst (s : State) (gk : Nat) (k : Nat) : Keeps [.lands, .groups, .pm, .act, .out] s (State.advanceInst s gk k) := by
  unfold State.advanceInst
  repeat' first
    | done
    | simp (disch := decide) only [↓Keeps.self_iff, ↓Keeps.ite_iff, ↓ite_self, ↓Keeps.makePart_iff, ↓Keeps.settle_iff]
    | split
    | dsimp only
theorem Keeps.advanceInst_iff {M : List Field} (sB : State) (s : State) (gk : Nat) (k : Nat)
    (hk : [.lands, .groups, .pm, .act, .out].all M.contains = true) : Keeps M sB (State.advanceInst s gk k) ↔ Keeps M sB s := Keeps.iff_of (Keeps.advanceInst s gk k) hk

theorem Keeps.failInst (s : State) (g : Nat) (k : Nat) : Keeps [.chans, .crus, .hubs, .me, .ve, .fe, .ctxs, .parts, .pages, .ports, .lands, .xacts, .groups, .pm, .act, .out] s (State.failInst s g k) := by
  unfold State.failInst
  repeat' first
    | done
    | simp (disch := decide) only [↓Keeps.self_iff, ↓Keeps.ite_iff, ↓ite_self, ↓Keeps.haltMany_iff, ↓Keeps.modGroup_iff]
    | split
    | dsimp only
theorem Keeps.failInst_iff {M : List Field} (sB : State) (s : State) (g : Nat) (k : Nat)
    (hk : [.chans, .crus, .hubs, .me, .ve, .fe, .ctxs, .parts, .pages, .ports, .lands, .xacts, .groups, .pm, .act, .out].all M.contains = true) : Keeps M sB (State.failInst s g k) ↔ Keeps M sB s := Keeps.iff_of (Keeps.failInst s g k) hk

theorem Keeps.joinGlobal (s : State) (c : Nat) (q : GStep) : Keeps [.chans, .crus, .hubs, .me, .ve, .fe, .ctxs, .parts, .pages, .ports, .lands, .xacts, .groups, .pm, .act, .out] s (State.joinGlobal s c q) := by
  unfold State.joinGlobal
  repeat' first
    | done
    | simp (disch := decide) only [↓Keeps.self_iff, ↓Keeps.ite_iff, ↓ite_self, ↓Keeps.advanceInst_iff, ↓Keeps.halt_iff, ↓Keeps.modCtx_iff, ↓Keeps.modGroup_iff, ↓Keeps.modInst_iff]
    | split
    | dsimp only
theorem Keeps.joinGlobal_iff {M : List Field} (sB : State) (s : State) (c : Nat) (q : GStep)
    (hk : [.chans, .crus, .hubs, .me, .ve, .fe, .ctxs, .parts, .pages, .ports, .lands, .xacts, .groups, .pm, .act, .out].all M.contains = true) : Keeps M sB (State.joinGlobal s c q) ↔ Keeps M sB s := Keeps.iff_of (Keeps.joinGlobal s c q) hk

theorem Keeps.issueGlobal (s : State) (c : Nat) (op : Nat) : Keeps [.chans, .crus, .hubs, .me, .ve, .fe, .ctxs, .parts, .pages, .ports, .lands, .xacts, .groups, .pm, .act, .out] s (State.issueGlobal s c op) := by
  unfold State.issueGlobal
  repeat' first
    | done
    | simp (disch := decide) only [↓Keeps.self_iff, ↓Keeps.ite_iff, ↓ite_self, ↓Keeps.joinGlobal_iff, ↓Keeps.outstand_iff]
    | (with_reducible refine (Keeps.issue _ _ _ _ _ _ _ (by decide) (fun _ _ _ => ?_)).2 ?_)
    | split
    | dsimp only
theorem Keeps.issueGlobal_iff {M : List Field} (sB : State) (s : State) (c : Nat) (op : Nat)
    (hk : [.chans, .crus, .hubs, .me, .ve, .fe, .ctxs, .parts, .pages, .ports, .lands, .xacts, .groups, .pm, .act, .out].all M.contains = true) : Keeps M sB (State.issueGlobal s c op) ↔ Keeps M sB s := Keeps.iff_of (Keeps.issueGlobal s c op) hk

theorem Keeps.forward (s : State) (land : Nat) (h : BitVec 128) (data : List Byte) : Keeps [.hubs, .ports, .lands, .logs, .pm, .act, .out] s (State.forward s land h data) := by
  unfold State.forward
  repeat' first
    | done
    | simp (disch := decide) only [↓Keeps.self_iff, ↓Keeps.ite_iff, ↓ite_self, ↓Keeps.freeRx_iff, ↓Keeps.lateLog_iff, ↓Keeps.queueMsg_iff, ↓Keeps.viaMesh_iff]
    | split
    | dsimp only
theorem Keeps.forward_iff {M : List Field} (sB : State) (s : State) (land : Nat) (h : BitVec 128) (data : List Byte)
    (hk : [.hubs, .ports, .lands, .logs, .pm, .act, .out].all M.contains = true) : Keeps M sB (State.forward s land h data) ↔ Keeps M sB s := Keeps.iff_of (Keeps.forward s land h data) hk

theorem Keeps.settleSpares (s : State) : Keeps [.pois, .rows, .bspares, .stks, .hubs, .logs] s (State.settleSpares s) := by
  unfold State.settleSpares
  repeat' first
    | done
    | simp (disch := decide) only [↓Keeps.self_iff, ↓Keeps.ite_iff, ↓ite_self, ↓Keeps.endSwap_iff, ↓Keeps.flipRepair_iff, ↓Keeps.modStack_iff]
    | with_reducible refine (Keeps.foldl_iff _ _ _ _ (fun _ _ => ?_)).2 ?_
    | with_reducible refine (Keeps.foldl_fst_iff _ _ _ _ (fun _ _ => ?_)).2 ?_
    | with_reducible refine (Keeps.foldl_snd_iff _ _ _ _ (fun _ _ => ?_)).2 ?_
    | split
    | dsimp only
theorem Keeps.settleSpares_iff {M : List Field} (sB : State) (s : State)
    (hk : [.pois, .rows, .bspares, .stks, .hubs, .logs].all M.contains = true) : Keeps M sB (State.settleSpares s) ↔ Keeps M sB s := Keeps.iff_of (Keeps.settleSpares s) hk

theorem Keeps.unpowered (s0 : State) : Keeps [.regs, .boot, .power, .slots, .parcels, .mem, .pois, .rows, .bspares, .stks, .chans, .nbus, .crus, .hubs, .me, .ve, .vfiles, .fe, .sp, .spPois, .ctxs, .parts, .pages, .streams, .ports, .dirs, .lines, .trans, .lands, .xacts, .routes, .admits, .groups, .fw, .logs, .pm, .tmap, .act, .out] s0 (State.unpowered s0) := by
  have k := Keeps.settleSpares s0
  constructor
  intro x hx
  unfold State.unpowered
  cases x
  case pending => exact k.same .pending (by decide)
  case cyc => exact k.same .cyc (by decide)
  case free => exact k.same .free (by decide)
  case half => exact k.same .half (by decide)
  all_goals exact absurd (by decide) hx
theorem Keeps.unpowered_iff {M : List Field} (sB : State) (s0 : State)
    (hk : [.regs, .boot, .power, .slots, .parcels, .mem, .pois, .rows, .bspares, .stks, .chans, .nbus, .crus, .hubs, .me, .ve, .vfiles, .fe, .sp, .spPois, .ctxs, .parts, .pages, .streams, .ports, .dirs, .lines, .trans, .lands, .xacts, .routes, .admits, .groups, .fw, .logs, .pm, .tmap, .act, .out].all M.contains = true) : Keeps M sB (State.unpowered s0) ↔ Keeps M sB s0 := Keeps.iff_of (Keeps.unpowered s0) hk

theorem Keeps.retireAll (s : State) (ts : List Nat) : Keeps [.boot, .slots, .parcels, .mem, .pois, .rows, .bspares, .stks, .chans, .crus, .hubs, .me, .ve, .fe, .sp, .spPois, .ctxs, .parts, .pages, .streams, .ports, .dirs, .lines, .lands, .xacts, .groups, .logs, .pm, .act, .out] s (State.retireAll s ts) := by
  unfold State.retireAll
  repeat' first
    | done
    | simp (disch := decide) only [↓Keeps.self_iff, ↓Keeps.ite_iff, ↓ite_self, ↓Keeps.retireTile_iff]
    | with_reducible refine (Keeps.foldl_iff _ _ _ _ (fun _ _ => ?_)).2 ?_
    | split
    | dsimp only
theorem Keeps.retireAll_iff {M : List Field} (sB : State) (s : State) (ts : List Nat)
    (hk : [.boot, .slots, .parcels, .mem, .pois, .rows, .bspares, .stks, .chans, .crus, .hubs, .me, .ve, .fe, .sp, .spPois, .ctxs, .parts, .pages, .streams, .ports, .dirs, .lines, .lands, .xacts, .groups, .logs, .pm, .act, .out].all M.contains = true) : Keeps M sB (State.retireAll s ts) ↔ Keeps M sB s := Keeps.iff_of (Keeps.retireAll s ts) hk

theorem Keeps.storeLost (s : State) : Keeps [.boot, .slots, .parcels, .rows, .bspares, .stks, .ctxs, .parts] s (State.storeLost s) := by
  unfold State.storeLost
  repeat' first
    | done
    | simp (disch := decide) only [↓Keeps.self_iff, ↓Keeps.ite_iff, ↓ite_self, ↓Keeps.putBoot_iff, ↓Keeps.putBspares_iff, ↓Keeps.putCtxs_iff, ↓Keeps.putParcels_iff, ↓Keeps.putParts_iff, ↓Keeps.putRows_iff, ↓Keeps.putSlots_iff, ↓Keeps.putStks_iff]
    | split
    | dsimp only
theorem Keeps.storeLost_iff {M : List Field} (sB : State) (s : State)
    (hk : [.boot, .slots, .parcels, .rows, .bspares, .stks, .ctxs, .parts].all M.contains = true) : Keeps M sB (State.storeLost s) ↔ Keeps M sB s := Keeps.iff_of (Keeps.storeLost s) hk

theorem Keeps.takeId (s : State) : Keeps [.boot] s (State.takeId s) := by
  unfold State.takeId
  repeat' first
    | done
    | simp (disch := decide) only [↓Keeps.self_iff, ↓Keeps.ite_iff, ↓ite_self, ↓Keeps.putBoot_iff]
    | split
    | dsimp only
theorem Keeps.takeId_iff {M : List Field} (sB : State) (s : State)
    (hk : [.boot].all M.contains = true) : Keeps M sB (State.takeId s) ↔ Keeps M sB s := Keeps.iff_of (Keeps.takeId s) hk

theorem Keeps.readStore (s : State) : Keeps [.boot, .slots, .parcels, .mem, .pois, .rows, .bspares, .stks, .chans, .crus, .hubs, .me, .ve, .fe, .sp, .spPois, .ctxs, .parts, .pages, .streams, .ports, .dirs, .lines, .lands, .xacts, .groups, .logs, .pm, .act, .out] s (State.readStore s) := by
  unfold State.readStore
  repeat' first
    | done
    | simp (disch := decide) only [↓Keeps.self_iff, ↓Keeps.ite_iff, ↓ite_self, ↓Keeps.putBoot_iff, ↓Keeps.retireAll_iff, ↓Keeps.storeLost_iff, ↓Keeps.takeId_iff]
    | split
    | dsimp only
theorem Keeps.readStore_iff {M : List Field} (sB : State) (s : State)
    (hk : [.boot, .slots, .parcels, .mem, .pois, .rows, .bspares, .stks, .chans, .crus, .hubs, .me, .ve, .fe, .sp, .spPois, .ctxs, .parts, .pages, .streams, .ports, .dirs, .lines, .lands, .xacts, .groups, .logs, .pm, .act, .out].all M.contains = true) : Keeps M sB (State.readStore s) ↔ Keeps M sB s := Keeps.iff_of (Keeps.readStore s) hk

theorem Keeps.selfTests (s : State) : Keeps [.boot, .slots, .parcels, .mem, .pois, .rows, .bspares, .stks, .chans, .crus, .hubs, .me, .ve, .fe, .sp, .spPois, .ctxs, .parts, .pages, .streams, .ports, .dirs, .lines, .lands, .xacts, .groups, .logs, .pm, .act, .out] s (State.selfTests s) := by
  unfold State.selfTests
  repeat' first
    | done
    | simp (disch := decide) only [↓Keeps.self_iff, ↓Keeps.ite_iff, ↓ite_self, ↓Keeps.retireAll_iff, ↓Keeps.retireSlice_iff]
    | with_reducible refine (Keeps.foldl_iff _ _ _ _ (fun _ _ => ?_)).2 ?_
    | with_reducible refine (Keeps.foldl_fst_iff _ _ _ _ (fun _ _ => ?_)).2 ?_
    | with_reducible refine (Keeps.foldl_snd_iff _ _ _ _ (fun _ _ => ?_)).2 ?_
    | split
    | dsimp only
theorem Keeps.selfTests_iff {M : List Field} (sB : State) (s : State)
    (hk : [.boot, .slots, .parcels, .mem, .pois, .rows, .bspares, .stks, .chans, .crus, .hubs, .me, .ve, .fe, .sp, .spPois, .ctxs, .parts, .pages, .streams, .ports, .dirs, .lines, .lands, .xacts, .groups, .logs, .pm, .act, .out].all M.contains = true) : Keeps M sB (State.selfTests s) ↔ Keeps M sB s := Keeps.iff_of (Keeps.selfTests s) hk

theorem Keeps.trainStacks (s : State) : Keeps [.boot, .slots, .parcels, .mem, .pois, .rows, .bspares, .stks, .chans, .crus, .hubs, .me, .ve, .fe, .sp, .spPois, .ctxs, .parts, .pages, .streams, .ports, .dirs, .lines, .lands, .xacts, .groups, .logs, .pm, .act, .out] s (State.trainStacks s) := by
  unfold State.trainStacks
  repeat' first
    | done
    | simp (disch := decide) only [↓Keeps.self_iff, ↓Keeps.ite_iff, ↓ite_self, ↓Keeps.modChan_iff, ↓Keeps.modStack_iff, ↓Keeps.noteEye_iff, ↓Keeps.putBoot_iff, ↓Keeps.retireTile_iff]
    | with_reducible refine (Keeps.foldl_iff _ _ _ _ (fun _ _ => ?_)).2 ?_
    | with_reducible refine (Keeps.foldl_fst_iff _ _ _ _ (fun _ _ => ?_)).2 ?_
    | with_reducible refine (Keeps.foldl_snd_iff _ _ _ _ (fun _ _ => ?_)).2 ?_
    | split
    | dsimp only
theorem Keeps.trainStacks_iff {M : List Field} (sB : State) (s : State)
    (hk : [.boot, .slots, .parcels, .mem, .pois, .rows, .bspares, .stks, .chans, .crus, .hubs, .me, .ve, .fe, .sp, .spPois, .ctxs, .parts, .pages, .streams, .ports, .dirs, .lines, .lands, .xacts, .groups, .logs, .pm, .act, .out].all M.contains = true) : Keeps M sB (State.trainStacks s) ↔ Keeps M sB s := Keeps.iff_of (Keeps.trainStacks s) hk

theorem Keeps.testSpares (s : State) : Keeps [.parcels, .bspares, .stks] s (State.testSpares s) := by
  unfold State.testSpares
  repeat' first
    | done
    | simp (disch := decide) only [↓Keeps.self_iff, ↓Keeps.ite_iff, ↓ite_self, ↓Keeps.failSpareBank_iff, ↓Keeps.failSpareCol_iff, ↓Keeps.failSpareDie_iff, ↓Keeps.failSpareRow_iff, ↓Keeps.modParcel_iff]
    | with_reducible refine (Keeps.foldl_iff _ _ _ _ (fun _ _ => ?_)).2 ?_
    | with_reducible refine (Keeps.foldl_fst_iff _ _ _ _ (fun _ _ => ?_)).2 ?_
    | with_reducible refine (Keeps.foldl_snd_iff _ _ _ _ (fun _ _ => ?_)).2 ?_
    | split
    | dsimp only
theorem Keeps.testSpares_iff {M : List Field} (sB : State) (s : State)
    (hk : [.parcels, .bspares, .stks].all M.contains = true) : Keeps M sB (State.testSpares s) ↔ Keeps M sB s := Keeps.iff_of (Keeps.testSpares s) hk

theorem Keeps.initMemory (s : State) : Keeps [.slots, .mem, .pois, .rows, .parts] s (State.initMemory s) := by
  unfold State.initMemory
  repeat' first
    | done
    | simp (disch := decide) only [↓Keeps.self_iff, ↓Keeps.ite_iff, ↓ite_self, ↓Keeps.modPart_iff, ↓Keeps.modSlot_iff, ↓Keeps.putMem_iff, ↓Keeps.putParts_iff, ↓Keeps.putPois_iff, ↓Keeps.putRows_iff]
    | with_reducible refine (Keeps.foldl_iff _ _ _ _ (fun _ _ => ?_)).2 ?_
    | split
    | dsimp only
theorem Keeps.initMemory_iff {M : List Field} (sB : State) (s : State)
    (hk : [.slots, .mem, .pois, .rows, .parts].all M.contains = true) : Keeps M sB (State.initMemory s) ↔ Keeps M sB s := Keeps.iff_of (Keeps.initMemory s) hk

theorem Keeps.enterService (s : State) : Keeps [.boot, .hubs] s (State.enterService s) := by
  unfold State.enterService
  repeat' first
    | done
    | simp (disch := decide) only [↓Keeps.self_iff, ↓Keeps.ite_iff, ↓ite_self, ↓Keeps.bbox_iff, ↓Keeps.modHub_iff, ↓Keeps.putBoot_iff]
    | with_reducible refine (Keeps.foldl_iff _ _ _ _ (fun _ _ => ?_)).2 ?_
    | split
    | dsimp only
theorem Keeps.enterService_iff {M : List Field} (sB : State) (s : State)
    (hk : [.boot, .hubs].all M.contains = true) : Keeps M sB (State.enterService s) ↔ Keeps M sB s := Keeps.iff_of (Keeps.enterService s) hk

theorem Keeps.coldTail (s : State) : Keeps [.boot, .slots, .parcels, .mem, .pois, .rows, .bspares, .stks, .chans, .crus, .hubs, .me, .ve, .fe, .sp, .spPois, .ctxs, .parts, .pages, .streams, .ports, .dirs, .lines, .lands, .xacts, .groups, .logs, .pm, .act, .out] s (State.coldTail s) := by
  unfold State.coldTail
  repeat' first
    | done
    | simp (disch := decide) only [↓Keeps.self_iff, ↓Keeps.ite_iff, ↓ite_self, ↓Keeps.enterService_iff, ↓Keeps.initMemory_iff, ↓Keeps.selfTests_iff, ↓Keeps.testSpares_iff, ↓Keeps.trainStacks_iff]
    | split
    | dsimp only
theorem Keeps.coldTail_iff {M : List Field} (sB : State) (s : State)
    (hk : [.boot, .slots, .parcels, .mem, .pois, .rows, .bspares, .stks, .chans, .crus, .hubs, .me, .ve, .fe, .sp, .spPois, .ctxs, .parts, .pages, .streams, .ports, .dirs, .lines, .lands, .xacts, .groups, .logs, .pm, .act, .out].all M.contains = true) : Keeps M sB (State.coldTail s) ↔ Keeps M sB s := Keeps.iff_of (Keeps.coldTail s) hk

theorem Keeps.forgetDescs (s : State) : Keeps [.slots, .fe, .ctxs, .parts, .pages, .trans] s (State.forgetDescs s) := by
  unfold State.forgetDescs
  repeat' first
    | done
    | simp (disch := decide) only [↓Keeps.self_iff, ↓Keeps.ite_iff, ↓ite_self, ↓Keeps.putCtxs_iff, ↓Keeps.putFe_iff, ↓Keeps.putPages_iff, ↓Keeps.putParts_iff, ↓Keeps.putSlots_iff, ↓Keeps.putTrans_iff]
    | split
    | dsimp only
theorem Keeps.forgetDescs_iff {M : List Field} (sB : State) (s : State)
    (hk : [.slots, .fe, .ctxs, .parts, .pages, .trans].all M.contains = true) : Keeps M sB (State.forgetDescs s) ↔ Keeps M sB s := Keeps.iff_of (Keeps.forgetDescs s) hk

theorem Keeps.settleAll (s : State) (r : BootReport) : Keeps [.slots, .mem, .pois, .rows, .bspares, .stks, .chans, .crus, .hubs, .me, .ve, .fe, .ctxs, .parts, .pages, .streams, .ports, .lines, .trans, .lands, .xacts, .groups, .logs, .pm, .act, .out] s (State.settleAll s r) := by
  unfold State.settleAll
  repeat' first
    | done
    | simp (disch := decide) only [↓Keeps.self_iff, ↓Keeps.ite_iff, ↓ite_self, ↓Keeps.drainTo_iff, ↓Keeps.forgetDescs_iff, ↓Keeps.halt_iff, ↓Keeps.homeWrite_iff, ↓Keeps.hostDone_iff, ↓Keeps.modChan_iff, ↓Keeps.modStream_iff, ↓Keeps.preserve_iff, ↓Keeps.writeBackSlot_iff]
    | with_reducible refine (Keeps.foldl_iff _ _ _ _ (fun _ _ => ?_)).2 ?_
    | with_reducible refine (Keeps.foldl_fst_iff _ _ _ _ (fun _ _ => ?_)).2 ?_
    | with_reducible refine (Keeps.foldl_snd_iff _ _ _ _ (fun _ _ => ?_)).2 ?_
    | split
    | dsimp only
theorem Keeps.settleAll_iff {M : List Field} (sB : State) (s : State) (r : BootReport)
    (hk : [.slots, .mem, .pois, .rows, .bspares, .stks, .chans, .crus, .hubs, .me, .ve, .fe, .ctxs, .parts, .pages, .streams, .ports, .lines, .trans, .lands, .xacts, .groups, .logs, .pm, .act, .out].all M.contains = true) : Keeps M sB (State.settleAll s r) ↔ Keeps M sB s := Keeps.iff_of (Keeps.settleAll s r) hk

theorem Keeps.resetHubs (s : State) : Keeps [.regs, .power, .slots, .stks, .chans, .nbus, .crus, .hubs, .me, .ve, .vfiles, .fe, .sp, .spPois, .ctxs, .parts, .pages, .streams, .ports, .dirs, .lines, .trans, .lands, .xacts, .groups, .fw, .logs, .pm, .tmap, .act, .out] s (State.resetHubs s) := by
  constructor
  intro x hx
  unfold State.resetHubs
  cases x <;> first | exact absurd (by decide) hx | exact rfl
theorem Keeps.resetHubs_iff {M : List Field} (sB : State) (s : State)
    (hk : [.regs, .power, .slots, .stks, .chans, .nbus, .crus, .hubs, .me, .ve, .vfiles, .fe, .sp, .spPois, .ctxs, .parts, .pages, .streams, .ports, .dirs, .lines, .trans, .lands, .xacts, .groups, .fw, .logs, .pm, .tmap, .act, .out].all M.contains = true) : Keeps M sB (State.resetHubs s) ↔ Keeps M sB s := Keeps.iff_of (Keeps.resetHubs s) hk

theorem Keeps.loseTile (s : State) (t : Nat) : Keeps [.slots, .mem, .pois, .rows, .parts] s (State.loseTile s t) := by
  unfold State.loseTile
  repeat' first
    | done
    | simp (disch := decide) only [↓Keeps.self_iff, ↓Keeps.ite_iff, ↓ite_self, ↓Keeps.clearParcel_iff, ↓Keeps.modPart_iff, ↓Keeps.modSlot_iff]
    | with_reducible refine (Keeps.foldl_iff _ _ _ _ (fun _ _ => ?_)).2 ?_
    | split
    | dsimp only
theorem Keeps.loseTile_iff {M : List Field} (sB : State) (s : State) (t : Nat)
    (hk : [.slots, .mem, .pois, .rows, .parts].all M.contains = true) : Keeps M sB (State.loseTile s t) ↔ Keeps M sB s := Keeps.iff_of (Keeps.loseTile s t) hk

theorem Keeps.preservedCheck (s : State) (t : Nat) : Keeps [.slots, .mem, .pois, .rows, .bspares, .stks, .hubs, .parts, .pages, .ports, .logs, .act, .out] s (State.preservedCheck s t) := by
  unfold State.preservedCheck
  repeat' first
    | done
    | simp (disch := decide) only [↓Keeps.self_iff, ↓Keeps.ite_iff, ↓ite_self, ↓Keeps.decodeRow_iff, ↓Keeps.loseTile_iff]
    | with_reducible refine (Keeps.foldl_iff _ _ _ _ (fun _ _ => ?_)).2 ?_
    | with_reducible refine (Keeps.foldl_fst_iff _ _ _ _ (fun _ _ => ?_)).2 ?_
    | with_reducible refine (Keeps.foldl_snd_iff _ _ _ _ (fun _ _ => ?_)).2 ?_
    | split
    | dsimp only
theorem Keeps.preservedCheck_iff {M : List Field} (sB : State) (s : State) (t : Nat)
    (hk : [.slots, .mem, .pois, .rows, .bspares, .stks, .hubs, .parts, .pages, .ports, .logs, .act, .out].all M.contains = true) : Keeps M sB (State.preservedCheck s t) ↔ Keeps M sB s := Keeps.iff_of (Keeps.preservedCheck s t) hk

theorem Keeps.warmTail (s : State) : Keeps [.boot, .slots, .parcels, .mem, .pois, .rows, .bspares, .stks, .chans, .crus, .hubs, .me, .ve, .fe, .sp, .spPois, .ctxs, .parts, .pages, .streams, .ports, .dirs, .lines, .lands, .xacts, .groups, .logs, .pm, .act, .out] s (State.warmTail s) := by
  unfold State.warmTail
  repeat' first
    | done
    | simp (disch := decide) only [↓Keeps.self_iff, ↓Keeps.ite_iff, ↓ite_self, ↓Keeps.enterService_iff, ↓Keeps.preservedCheck_iff, ↓Keeps.putChans_iff, ↓Keeps.putStks_iff, ↓Keeps.retireAll_iff]
    | with_reducible refine (Keeps.foldl_iff _ _ _ _ (fun _ _ => ?_)).2 ?_
    | split
    | dsimp only
theorem Keeps.warmTail_iff {M : List Field} (sB : State) (s : State)
    (hk : [.boot, .slots, .parcels, .mem, .pois, .rows, .bspares, .stks, .chans, .crus, .hubs, .me, .ve, .fe, .sp, .spPois, .ctxs, .parts, .pages, .streams, .ports, .dirs, .lines, .lands, .xacts, .groups, .logs, .pm, .act, .out].all M.contains = true) : Keeps M sB (State.warmTail s) ↔ Keeps M sB s := Keeps.iff_of (Keeps.warmTail s) hk

theorem Keeps.warmReset (s : State) (cause : Nat) (r : BootReport) : Keeps [.regs, .boot, .power, .slots, .mem, .pois, .rows, .bspares, .stks, .chans, .nbus, .crus, .hubs, .me, .ve, .vfiles, .fe, .sp, .spPois, .ctxs, .parts, .pages, .streams, .ports, .dirs, .lines, .trans, .lands, .xacts, .groups, .fw, .logs, .pm, .tmap, .act, .out] s (State.warmReset s cause r) := by
  unfold State.warmReset
  repeat' first
    | done
    | simp (disch := decide) only [↓Keeps.self_iff, ↓Keeps.ite_iff, ↓ite_self, ↓Keeps.putBoot_iff, ↓Keeps.putPower_iff, ↓Keeps.resetHubs_iff, ↓Keeps.settleAll_iff, ↓Keeps.takeId_iff]
    | split
    | dsimp only
theorem Keeps.warmReset_iff {M : List Field} (sB : State) (s : State) (cause : Nat) (r : BootReport)
    (hk : [.regs, .boot, .power, .slots, .mem, .pois, .rows, .bspares, .stks, .chans, .nbus, .crus, .hubs, .me, .ve, .vfiles, .fe, .sp, .spPois, .ctxs, .parts, .pages, .streams, .ports, .dirs, .lines, .trans, .lands, .xacts, .groups, .fw, .logs, .pm, .tmap, .act, .out].all M.contains = true) : Keeps M sB (State.warmReset s cause r) ↔ Keeps M sB s := Keeps.iff_of (Keeps.warmReset s cause r) hk

theorem Keeps.clockSettled (s : State) (t : Nat) (f : Hub → Hub) : Keeps [.boot, .slots, .parcels, .mem, .pois, .rows, .bspares, .stks, .chans, .crus, .hubs, .me, .ve, .fe, .sp, .spPois, .ctxs, .parts, .pages, .streams, .ports, .dirs, .lines, .lands, .xacts, .groups, .logs, .pm, .act, .out] s (State.clockSettled s t f) := by
  unfold State.clockSettled
  repeat' first
    | done
    | simp (disch := decide) only [↓Keeps.self_iff, ↓Keeps.ite_iff, ↓ite_self, ↓Keeps.coldTail_iff, ↓Keeps.modHub_iff, ↓Keeps.putBoot_iff, ↓Keeps.readStore_iff, ↓Keeps.warmTail_iff]
    | split
    | dsimp only
theorem Keeps.clockSettled_iff {M : List Field} (sB : State) (s : State) (t : Nat) (f : Hub → Hub)
    (hk : [.boot, .slots, .parcels, .mem, .pois, .rows, .bspares, .stks, .chans, .crus, .hubs, .me, .ve, .fe, .sp, .spPois, .ctxs, .parts, .pages, .streams, .ports, .dirs, .lines, .lands, .xacts, .groups, .logs, .pm, .act, .out].all M.contains = true) : Keeps M sB (State.clockSettled s t f) ↔ Keeps M sB s := Keeps.iff_of (Keeps.clockSettled s t f) hk

theorem Keeps.clockLoss (s : State) (t : Nat) (reason : Nat) : Keeps [.hubs, .parts, .pages, .ports, .act, .out] s (State.clockLoss s t reason) := by
  unfold State.clockLoss
  repeat' first
    | done
    | simp (disch := decide) only [↓Keeps.self_iff, ↓Keeps.ite_iff, ↓ite_self, ↓Keeps.bbox_iff, ↓Keeps.eventAll_iff, ↓Keeps.modHub_iff]
    | split
    | dsimp only
theorem Keeps.clockLoss_iff {M : List Field} (sB : State) (s : State) (t : Nat) (reason : Nat)
    (hk : [.hubs, .parts, .pages, .ports, .act, .out].all M.contains = true) : Keeps M sB (State.clockLoss s t reason) ↔ Keeps M sB s := Keeps.iff_of (Keeps.clockLoss s t reason) hk

theorem Keeps.loseCrystal (s : State) (t : Nat) (reason : Nat) : Keeps [.hubs, .parts, .pages, .ports, .act, .out] s (State.loseCrystal s t reason) := by
  unfold State.loseCrystal
  repeat' first
    | done
    | simp (disch := decide) only [↓Keeps.self_iff, ↓Keeps.ite_iff, ↓ite_self, ↓Keeps.clockLoss_iff, ↓Keeps.modHub_iff]
    | split
    | dsimp only
theorem Keeps.loseCrystal_iff {M : List Field} (sB : State) (s : State) (t : Nat) (reason : Nat)
    (hk : [.hubs, .parts, .pages, .ports, .act, .out].all M.contains = true) : Keeps M sB (State.loseCrystal s t reason) ↔ Keeps M sB s := Keeps.iff_of (Keeps.loseCrystal s t reason) hk

theorem Keeps.finishBinds (s : State) (t : Nat) : Keeps [.ctxs, .parts, .pages, .ports, .act, .out] s (State.finishBinds s t) := by
  unfold State.finishBinds
  repeat' first
    | done
    | simp (disch := decide) only [↓Keeps.self_iff, ↓Keeps.ite_iff, ↓ite_self, ↓Keeps.complete_iff, ↓Keeps.modCtx_iff]
    | with_reducible refine (Keeps.foldl_iff _ _ _ _ (fun _ _ => ?_)).2 ?_
    | split
    | dsimp only
theorem Keeps.finishBinds_iff {M : List Field} (sB : State) (s : State) (t : Nat)
    (hk : [.ctxs, .parts, .pages, .ports, .act, .out].all M.contains = true) : Keeps M sB (State.finishBinds s t) ↔ Keeps M sB s := Keeps.iff_of (Keeps.finishBinds s t) hk

theorem Keeps.grantWake (s : State) (t : Nat) (kind : Nat) (member : Nat) (since : Nat) : Keeps [.hubs, .ctxs, .parts, .pages, .ports, .act, .out] s (State.grantWake s t kind member since) := by
  unfold State.grantWake
  repeat' first
    | done
    | simp (disch := decide) only [↓Keeps.self_iff, ↓Keeps.ite_iff, ↓ite_self, ↓Keeps.finishBinds_iff, ↓Keeps.modHub_iff]
    | split
    | dsimp only
theorem Keeps.grantWake_iff {M : List Field} (sB : State) (s : State) (t : Nat) (kind : Nat) (member : Nat) (since : Nat)
    (hk : [.hubs, .ctxs, .parts, .pages, .ports, .act, .out].all M.contains = true) : Keeps M sB (State.grantWake s t kind member since) ↔ Keeps M sB s := Keeps.iff_of (Keeps.grantWake s t kind member since) hk

theorem Keeps.gateStatus (s : State) (st : Nat) (last : Option (Nat × Nat × Nat)) : Keeps [.power] s (State.gateStatus s st last) := by
  unfold State.gateStatus
  repeat' first
    | done
    | simp (disch := decide) only [↓Keeps.self_iff, ↓Keeps.ite_iff, ↓ite_self, ↓Keeps.putPower_iff]
    | split
    | dsimp only
theorem Keeps.gateStatus_iff {M : List Field} (sB : State) (s : State) (st : Nat) (last : Option (Nat × Nat × Nat))
    (hk : [.power].all M.contains = true) : Keeps M sB (State.gateStatus s st last) ↔ Keeps M sB s := Keeps.iff_of (Keeps.gateStatus s st last) hk

theorem Keeps.setM3 (s : State) (on : Bool) : Keeps [.power, .chans, .parts, .ports, .act, .out] s (State.setM3 s on) := by
  unfold State.setM3
  repeat' first
    | done
    | simp (disch := decide) only [↓Keeps.self_iff, ↓Keeps.ite_iff, ↓ite_self, ↓Keeps.putChans_iff, ↓Keeps.putPower_iff, ↓Keeps.trace_iff]
    | split
    | dsimp only
theorem Keeps.setM3_iff {M : List Field} (sB : State) (s : State) (on : Bool)
    (hk : [.power, .chans, .parts, .ports, .act, .out].all M.contains = true) : Keeps M sB (State.setM3 s on) ↔ Keeps M sB s := Keeps.iff_of (Keeps.setM3 s on) hk

theorem Keeps.setM2 (s : State) (on : Bool) : Keeps [.power, .parts, .ports, .act, .out] s (State.setM2 s on) := by
  unfold State.setM2
  repeat' first
    | done
    | simp (disch := decide) only [↓Keeps.self_iff, ↓Keeps.ite_iff, ↓ite_self, ↓Keeps.putPower_iff, ↓Keeps.trace_iff]
    | split
    | dsimp only
theorem Keeps.setM2_iff {M : List Field} (sB : State) (s : State) (on : Bool)
    (hk : [.power, .parts, .ports, .act, .out].all M.contains = true) : Keeps M sB (State.setM2 s on) ↔ Keeps M sB s := Keeps.iff_of (Keeps.setM2 s on) hk

theorem Keeps.level5 (s : State) (st : Nat) (die : Nat) (hot : Nat) : Keeps [.stks, .chans, .nbus, .hubs] s (State.level5 s st die hot) := by
  unfold State.level5
  repeat' first
    | done
    | simp (disch := decide) only [↓Keeps.self_iff, ↓Keeps.ite_iff, ↓ite_self, ↓Keeps.bbox_iff, ↓Keeps.enterStackSr_iff, ↓Keeps.modStack_iff]
    | split
    | dsimp only
theorem Keeps.level5_iff {M : List Field} (sB : State) (s : State) (st : Nat) (die : Nat) (hot : Nat)
    (hk : [.stks, .chans, .nbus, .hubs].all M.contains = true) : Keeps M sB (State.level5 s st die hot) ↔ Keeps M sB s := Keeps.iff_of (Keeps.level5 s st die hot) hk

theorem Keeps.overheat (s : State) (t : Nat) (c : Nat) : Keeps [.free, .regs, .boot, .power, .slots, .parcels, .mem, .pois, .rows, .bspares, .stks, .chans, .nbus, .crus, .hubs, .me, .ve, .vfiles, .fe, .sp, .spPois, .ctxs, .parts, .pages, .streams, .ports, .dirs, .lines, .trans, .lands, .xacts, .routes, .admits, .groups, .fw, .logs, .pm, .tmap, .act, .out] s (State.overheat s t c) := by
  unfold State.overheat
  repeat' first
    | done
    | simp (disch := decide) only [↓Keeps.self_iff, ↓Keeps.ite_iff, ↓ite_self, ↓Keeps.bbox_iff, ↓Keeps.modHub_iff, ↓Keeps.putFree_iff, ↓Keeps.unpowered_iff]
    | with_reducible refine (Keeps.foldl_iff _ _ _ _ (fun _ _ => ?_)).2 ?_
    | split
    | dsimp only
theorem Keeps.overheat_iff {M : List Field} (sB : State) (s : State) (t : Nat) (c : Nat)
    (hk : [.free, .regs, .boot, .power, .slots, .parcels, .mem, .pois, .rows, .bspares, .stks, .chans, .nbus, .crus, .hubs, .me, .ve, .vfiles, .fe, .sp, .spPois, .ctxs, .parts, .pages, .streams, .ports, .dirs, .lines, .trans, .lands, .xacts, .routes, .admits, .groups, .fw, .logs, .pm, .tmap, .act, .out].all M.contains = true) : Keeps M sB (State.overheat s t c) ↔ Keeps M sB s := Keeps.iff_of (Keeps.overheat s t c) hk

theorem Keeps.storedWrite (s : State) (p : Nat) (off : Nat) (v : Nat) : Keeps [.regs] s (State.storedWrite s p off v) := by
  unfold State.storedWrite
  repeat' first
    | done
    | simp (disch := decide) only [↓Keeps.self_iff, ↓Keeps.ite_iff, ↓ite_self, ↓Keeps.setReg_iff]
    | split
    | dsimp only
theorem Keeps.storedWrite_iff {M : List Field} (sB : State) (s : State) (p : Nat) (off : Nat) (v : Nat)
    (hk : [.regs].all M.contains = true) : Keeps M sB (State.storedWrite s p off v) ↔ Keeps M sB s := Keeps.iff_of (Keeps.storedWrite s p off v) hk

theorem Keeps.groupWrite (s : State) (f : Group → Group) : Keeps [.ctxs, .groups] s (State.groupWrite s f) := by
  unfold State.groupWrite
  repeat' first
    | done
    | simp (disch := decide) only [↓Keeps.self_iff, ↓Keeps.ite_iff, ↓ite_self, ↓Keeps.modGroup_iff, ↓Keeps.putCtxs_iff]
    | split
    | dsimp only
theorem Keeps.groupWrite_iff {M : List Field} (sB : State) (s : State) (f : Group → Group)
    (hk : [.ctxs, .groups].all M.contains = true) : Keeps M sB (State.groupWrite s f) ↔ Keeps M sB s := Keeps.iff_of (Keeps.groupWrite s f) hk

theorem Keeps.specialWrite (s : State) (p : Nat) (off : Nat) (v : Nat) : Keeps [.boot, .vfiles, .ctxs, .ports, .admits, .groups, .pm] s (State.specialWrite s p off v) := by
  unfold State.specialWrite
  repeat' first
    | done
    | simp (disch := decide) only [↓Keeps.self_iff, ↓Keeps.ite_iff, ↓ite_self, ↓Keeps.groupWrite_iff, ↓Keeps.modAdmit_iff, ↓Keeps.modCounter_iff, ↓Keeps.modHport_iff, ↓Keeps.modVfile_iff, ↓Keeps.putBoot_iff]
    | split
    | dsimp only
theorem Keeps.specialWrite_iff {M : List Field} (sB : State) (s : State) (p : Nat) (off : Nat) (v : Nat)
    (hk : [.boot, .vfiles, .ctxs, .ports, .admits, .groups, .pm].all M.contains = true) : Keeps M sB (State.specialWrite s p off v) ↔ Keeps M sB s := Keeps.iff_of (Keeps.specialWrite s p off v) hk

end Sys2Proof.Machine
end

