-- ==== Sys2Proof/Laws/Tab.lean ====
section
/-! SUPPORT. The laws of sparse tables: a read after a write, what a write leaves alone, and that every
operation keeps the canonical form. -/

namespace Sys2Proof.Machine

variable {α : Type}

theorem Tab.get_erase_same (d : Nat → α) (t : Tab α) (k : Nat) : Tab.get d (Tab.erase t k) k = d k := by
  induction t with
  | nil => rfl
  | cons p t ih =>
    obtain ⟨j, v⟩ := p
    by_cases h : j = k <;> simp [Tab.erase, Tab.get, h, ih]

theorem Tab.get_erase_ne (d : Nat → α) (t : Tab α) (k j : Nat) (h : j ≠ k) :
    Tab.get d (Tab.erase t k) j = Tab.get d t j := by
  induction t with
  | nil => rfl
  | cons p t ih =>
    obtain ⟨i, v⟩ := p
    by_cases hi : i = k
    · subst hi
      simp [Tab.erase, Tab.get, ih, Ne.symm h]
    · simp [Tab.erase, Tab.get, hi, ih]

theorem Tab.get_put_same (d : Nat → α) (t : Tab α) (k : Nat) (v : α)
    (h : ∀ p ∈ t, p.1 ≠ k) : Tab.get d (Tab.put t k v) k = v := by
  induction t with
  | nil => simp [Tab.put, Tab.get]
  | cons p t ih =>
    obtain ⟨j, w⟩ := p
    have hj : j ≠ k := h (j, w) (by simp)
    by_cases hk : k < j
    · simp [Tab.put, Tab.get, hk]
    · simp only [Tab.put, hk, if_false, Tab.get, hj]
      exact ih (fun p hp => h p (by simp [hp]))

theorem Tab.get_put_ne (d : Nat → α) (t : Tab α) (k j : Nat) (v : α) (h : j ≠ k) :
    Tab.get d (Tab.put t k v) j = Tab.get d t j := by
  induction t with
  | nil => simp [Tab.put, Tab.get, Ne.symm h]
  | cons p t ih =>
    obtain ⟨i, w⟩ := p
    by_cases hk : k < i
    · simp [Tab.put, Tab.get, hk, Ne.symm h]
    · simp [Tab.put, Tab.get, hk, ih]

theorem Tab.mem_erase (t : Tab α) (k : Nat) : ∀ p ∈ Tab.erase t k, p.1 ≠ k := by
  induction t with
  | nil => simp [Tab.erase]
  | cons p t ih =>
    obtain ⟨j, v⟩ := p
    by_cases h : j = k
    · simpa [Tab.erase, h] using ih
    · intro q hq
      simp only [Tab.erase, h, if_false, List.mem_cons] at hq
      rcases hq with rfl | hq
      · exact h
      · exact ih q hq

variable [DecidableEq α]

theorem Tab.get_set_same (d : Nat → α) (t : Tab α) (k : Nat) (v : α) :
    Tab.get d (Tab.set d t k v) k = v := by
  unfold Tab.set
  split
  · rename_i h; rw [Tab.get_erase_same, h]
  · exact Tab.get_put_same d _ k v (Tab.mem_erase t k)

theorem Tab.get_set_ne (d : Nat → α) (t : Tab α) (k j : Nat) (v : α) (h : j ≠ k) :
    Tab.get d (Tab.set d t k v) j = Tab.get d t j := by
  unfold Tab.set
  split
  · exact Tab.get_erase_ne d t k j h
  · rw [Tab.get_put_ne _ _ _ _ _ h, Tab.get_erase_ne _ _ _ _ h]

theorem Tab.get_upd_same (d : Nat → α) (t : Tab α) (k : Nat) (f : α → α) :
    Tab.get d (Tab.upd d t k f) k = f (Tab.get d t k) := Tab.get_set_same d t k _

theorem Tab.get_upd_ne (d : Nat → α) (t : Tab α) (k j : Nat) (f : α → α) (h : j ≠ k) :
    Tab.get d (Tab.upd d t k f) j = Tab.get d t j := Tab.get_set_ne d t k j _ h

omit [DecidableEq α] in
theorem Tab.above_erase (t : Tab α) (i k : Nat) (h : Tab.above i t = true) :
    Tab.above i (Tab.erase t k) = true := by
  induction t with
  | nil => rfl
  | cons p t ih =>
    obtain ⟨j, v⟩ := p
    simp only [Tab.above, Bool.and_eq_true, decide_eq_true_eq] at h
    by_cases hj : j = k
    · simpa [Tab.erase, hj] using ih h.2
    · simp [Tab.erase, hj, Tab.above, h.1, ih h.2]

omit [DecidableEq α] in
theorem Tab.above_put (t : Tab α) (i k : Nat) (v : α) (h : Tab.above i t = true) (hk : i < k) :
    Tab.above i (Tab.put t k v) = true := by
  induction t with
  | nil => simp [Tab.put, Tab.above, hk]
  | cons p t ih =>
    obtain ⟨j, w⟩ := p
    simp only [Tab.above, Bool.and_eq_true, decide_eq_true_eq] at h
    by_cases hj : k < j
    · simp [Tab.put, hj, Tab.above, hk, h.1, h.2]
    · simp [Tab.put, hj, Tab.above, h.1, ih h.2]

omit [DecidableEq α] in
theorem Tab.above_mono (t : Tab α) (i j : Nat) (h : Tab.above j t = true) (hi : i < j) :
    Tab.above i t = true := by
  induction t with
  | nil => rfl
  | cons p t ih =>
    obtain ⟨k, v⟩ := p
    simp only [Tab.above, Bool.and_eq_true, decide_eq_true_eq] at h ⊢
    exact ⟨by omega, ih h.2⟩

theorem Tab.wf_erase (d : Nat → α) (t : Tab α) (k : Nat) (h : Tab.wf d t = true) :
    Tab.wf d (Tab.erase t k) = true := by
  induction t with
  | nil => rfl
  | cons p t ih =>
    obtain ⟨j, v⟩ := p
    simp only [Tab.wf, Bool.and_eq_true, decide_eq_true_eq] at h
    by_cases hj : j = k
    · simpa [Tab.erase, hj] using ih h.2
    · simp [Tab.erase, hj, Tab.wf, h.1.1, Tab.above_erase t j k h.1.2, ih h.2]

theorem Tab.wf_put (d : Nat → α) (t : Tab α) (k : Nat) (v : α) (h : Tab.wf d t = true)
    (hv : v ≠ d k) (hk : ∀ p ∈ t, p.1 ≠ k) : Tab.wf d (Tab.put t k v) = true := by
  induction t with
  | nil => simp [Tab.put, Tab.wf, Tab.above, hv]
  | cons p t ih =>
    obtain ⟨j, w⟩ := p
    simp only [Tab.wf, Bool.and_eq_true, decide_eq_true_eq] at h
    have hne : j ≠ k := hk (j, w) (by simp)
    by_cases hj : k < j
    · simp [Tab.put, hj, Tab.wf, Tab.above, hv, h.1.1, h.1.2, h.2, Tab.above_mono t k j h.1.2 hj]
    · have hlt : j < k := by omega
      simp only [Tab.put, hj, if_false, Tab.wf, Bool.and_eq_true, decide_eq_true_eq]
      exact ⟨⟨h.1.1, Tab.above_put t j k v h.1.2 hlt⟩, ih h.2 (fun p hp => hk p (by simp [hp]))⟩

theorem Tab.wf_set (d : Nat → α) (t : Tab α) (k : Nat) (v : α) (h : Tab.wf d t = true) :
    Tab.wf d (Tab.set d t k v) = true := by
  unfold Tab.set
  split
  · exact Tab.wf_erase d t k h
  · rename_i hv
    exact Tab.wf_put d _ k v (Tab.wf_erase d t k h) hv (Tab.mem_erase t k)

theorem Tab.wf_upd (d : Nat → α) (t : Tab α) (k : Nat) (f : α → α) (h : Tab.wf d t = true) :
    Tab.wf d (Tab.upd d t k f) = true := Tab.wf_set d t k _ h

omit [DecidableEq α] in
theorem Tab.above_filter (t : Tab α) (i : Nat) (p : Nat × α → Bool) (h : Tab.above i t = true) :
    Tab.above i (t.filter p) = true := by
  induction t with
  | nil => rfl
  | cons q t ih =>
    obtain ⟨j, v⟩ := q
    simp only [Tab.above, Bool.and_eq_true, decide_eq_true_eq] at h
    by_cases hp : p (j, v) = true
    · simp [List.filter, hp, Tab.above, h.1, ih h.2]
    · simp only [Bool.not_eq_true] at hp
      simp [List.filter, hp, ih h.2]

theorem Tab.wf_filter (d : Nat → α) (t : Tab α) (p : Nat × α → Bool) (h : Tab.wf d t = true) :
    Tab.wf d (t.filter p) = true := by
  induction t with
  | nil => rfl
  | cons q t ih =>
    obtain ⟨j, v⟩ := q
    simp only [Tab.wf, Bool.and_eq_true, decide_eq_true_eq] at h
    by_cases hp : p (j, v) = true
    · simp [List.filter, hp, Tab.wf, h.1.1, Tab.above_filter t j p h.1.2, ih h.2]
    · simp only [Bool.not_eq_true] at hp
      simp [List.filter, hp, ih h.2]

theorem Tab.wf_clear (d : Nat → α) (t : Tab α) (lo hi : Nat) (h : Tab.wf d t = true) :
    Tab.wf d (Tab.clear t lo hi) = true := Tab.wf_filter d t _ h

theorem Tab.wf_setRun (d : Nat → α) (vs : List α) : ∀ (t : Tab α) (k : Nat), Tab.wf d t = true →
    Tab.wf d (Tab.setRun d t k vs) = true := by
  induction vs with
  | nil => intro t k h; exact h
  | cons v vs ih => intro t k h; exact ih _ _ (Tab.wf_set d t k v h)

theorem Tab.wf_updMany (d : Nat → α) (f : α → α) (ks : List Nat) : ∀ (t : Tab α), Tab.wf d t = true →
    Tab.wf d (Tab.updMany d f ks t) = true := by
  induction ks with
  | nil => intro t h; exact h
  | cons k ks ih => intro t h; exact ih _ (Tab.wf_upd d t k f h)

theorem Tab.above_mapAll (d : Nat → α) (f : Nat → α → α) (t : Tab α) (i : Nat)
    (h : Tab.above i t = true) : Tab.above i (Tab.mapAll d f t) = true := by
  induction t with
  | nil => rfl
  | cons p t ih =>
    obtain ⟨j, v⟩ := p
    simp only [Tab.above, Bool.and_eq_true, decide_eq_true_eq] at h
    by_cases hf : f j v = d j <;> simp [Tab.mapAll, hf, Tab.above, h.1, ih h.2]

theorem Tab.wf_mapAll (d : Nat → α) (f : Nat → α → α) (t : Tab α) (h : Tab.wf d t = true) :
    Tab.wf d (Tab.mapAll d f t) = true := by
  induction t with
  | nil => rfl
  | cons p t ih =>
    obtain ⟨j, v⟩ := p
    simp only [Tab.wf, Bool.and_eq_true, decide_eq_true_eq] at h
    by_cases hf : f j v = d j <;> simp [Tab.mapAll, hf, Tab.wf, Tab.above_mapAll d f t j h.1.2, ih h.2]

end Sys2Proof.Machine
end

