-- ==== Sys2Proof/Laws/Banks.lean ====
section
/-! SUPPORT. Every operation over the banks keeps their canonical form. -/

set_option linter.all false

namespace Sys2Proof.Machine

theorem MemOk.keeps {M : List Field} {s t : State} (g : Keeps M s t) (h1 : M.contains .mem = false) (h2 : M.contains .pois = false) :
    t.MemOk ↔ s.MemOk := by
  have a : t.mem = s.mem := g.same .mem (by simpa using h1)
  have b : t.pois = s.pois := g.same .pois (by simpa using h2)
  constructor <;> intro h <;> constructor
  · rw [← a]; exact h.mem
  · rw [← b]; exact h.pois
  · rw [a]; exact h.mem
  · rw [b]; exact h.pois
theorem MemOk.foldl {α : Type} (f : State → α → State) (h : ∀ s a, s.MemOk → (f s a).MemOk) :
    ∀ (l : List α) (s : State), s.MemOk → (l.foldl f s).MemOk
  | [], _, hs => hs
  | a :: l, s, hs => MemOk.foldl f h l _ (h s a hs)
theorem MemOk.ite_iff {s t : State} {c : Prop} [Decidable c] : (if c then s else t).MemOk ↔ if c then s.MemOk else t.MemOk := by
  split <;> rfl
theorem MemOk.modMemByte (s : State) k f (h : s.MemOk) : (s.modMemByte k f).MemOk := ⟨Tab.wf_upd _ _ _ _ h.mem, h.pois⟩
theorem MemOk.modColBad (s : State) k f (h : s.MemOk) : (s.modColBad k f).MemOk := ⟨h.mem, Tab.wf_upd _ _ _ _ h.pois⟩
theorem MemOk.putMem (s : State) v (h : s.MemOk) (hv : Memory.wf v = true) : (s.putMem v).MemOk := ⟨hv, h.pois⟩
theorem MemOk.putPois (s : State) v (h : s.MemOk) (hv : Tab.wf (fun _ => false) v = true) : (s.putPois v).MemOk := ⟨h.mem, hv⟩
theorem MemOk.foldl_fst {α β : Type} (f : State × β → α → State × β) (h : ∀ p a, p.1.MemOk → (f p a).1.MemOk) (l : List α) (p : State × β)
    (hp : p.1.MemOk) : (l.foldl f p).1.MemOk := by
  induction l generalizing p with
  | nil => exact hp
  | cons a l ih => exact ih _ (h p a hp)
theorem MemOk.foldl_snd {α β : Type} (f : β × State → α → β × State) (h : ∀ p a, p.2.MemOk → (f p a).2.MemOk) (l : List α) (p : β × State)
    (hp : p.2.MemOk) : (l.foldl f p).2.MemOk := by
  induction l generalizing p with
  | nil => exact hp
  | cons a l ih => exact ih _ (h p a hp)

theorem MemOk.modRow_iff (s : State) k f : (s.modRow k f).MemOk ↔ s.MemOk := MemOk.keeps (Keeps.modRow s k f) rfl rfl
theorem MemOk.modBspare_iff (s : State) k f : (s.modBspare k f).MemOk ↔ s.MemOk := MemOk.keeps (Keeps.modBspare s k f) rfl rfl
theorem MemOk.putRows_iff (s : State) v : (s.putRows v).MemOk ↔ s.MemOk := MemOk.keeps (Keeps.putRows s v) rfl rfl
theorem MemOk.modChan_iff (s : State) k f : (s.modChan k f).MemOk ↔ s.MemOk := MemOk.keeps (Keeps.modChan s k f) rfl rfl
theorem MemOk.modParcel_iff (s : State) k f : (s.modParcel k f).MemOk ↔ s.MemOk := MemOk.keeps (Keeps.modParcel s k f) rfl rfl
theorem MemOk.putChans_iff (s : State) v : (s.putChans v).MemOk ↔ s.MemOk := MemOk.keeps (Keeps.putChans s v) rfl rfl
theorem MemOk.modSlot_iff (s : State) k f : (s.modSlot k f).MemOk ↔ s.MemOk := MemOk.keeps (Keeps.modSlot s k f) rfl rfl
theorem MemOk.putLines_iff (s : State) v : (s.putLines v).MemOk ↔ s.MemOk := MemOk.keeps (Keeps.putLines s v) rfl rfl
theorem MemOk.modHport_iff (s : State) k f : (s.modHport k f).MemOk ↔ s.MemOk := MemOk.keeps (Keeps.modHport s k f) rfl rfl
theorem MemOk.modDir_iff (s : State) k f : (s.modDir k f).MemOk ↔ s.MemOk := MemOk.keeps (Keeps.modDir s k f) rfl rfl
theorem MemOk.putLogs_iff (s : State) v : (s.putLogs v).MemOk ↔ s.MemOk := MemOk.keeps (Keeps.putLogs s v) rfl rfl
theorem MemOk.modFchan_iff (s : State) k f : (s.modFchan k f).MemOk ↔ s.MemOk := MemOk.keeps (Keeps.modFchan s k f) rfl rfl
theorem MemOk.modCtx_iff (s : State) k f : (s.modCtx k f).MemOk ↔ s.MemOk := MemOk.keeps (Keeps.modCtx s k f) rfl rfl
theorem MemOk.modPage_iff (s : State) k f : (s.modPage k f).MemOk ↔ s.MemOk := MemOk.keeps (Keeps.modPage s k f) rfl rfl
theorem MemOk.modPart_iff (s : State) k f : (s.modPart k f).MemOk ↔ s.MemOk := MemOk.keeps (Keeps.modPart s k f) rfl rfl
theorem MemOk.modHub_iff (s : State) k f : (s.modHub k f).MemOk ↔ s.MemOk := MemOk.keeps (Keeps.modHub s k f) rfl rfl
theorem MemOk.putBoot_iff (s : State) v : (s.putBoot v).MemOk ↔ s.MemOk := MemOk.keeps (Keeps.putBoot s v) rfl rfl
theorem MemOk.modStack_iff (s : State) k f : (s.modStack k f).MemOk ↔ s.MemOk := MemOk.keeps (Keeps.modStack s k f) rfl rfl
theorem MemOk.putParts_iff (s : State) v : (s.putParts v).MemOk ↔ s.MemOk := MemOk.keeps (Keeps.putParts s v) rfl rfl
theorem MemOk.modStream_iff (s : State) k f : (s.modStream k f).MemOk ↔ s.MemOk := MemOk.keeps (Keeps.modStream s k f) rfl rfl
theorem MemOk.putStks_iff (s : State) v : (s.putStks v).MemOk ↔ s.MemOk := MemOk.keeps (Keeps.putStks s v) rfl rfl
theorem MemOk.putPower_iff (s : State) v : (s.putPower v).MemOk ↔ s.MemOk := MemOk.keeps (Keeps.putPower s v) rfl rfl
theorem MemOk.putFree_iff (s : State) v : (s.putFree v).MemOk ↔ s.MemOk := MemOk.keeps (Keeps.putFree s v) rfl rfl
theorem MemOk.bbox_iff (s : State) (t : Nat) (typ : Nat) (part : Option Nat) (ctx : Nat) (payload : List (Nat × Nat × Nat)) : State.MemOk (State.bbox s t typ part ctx payload) ↔ s.MemOk :=
  MemOk.keeps (Keeps.bbox s t typ part ctx payload) rfl rfl
theorem MemOk.spend_iff (s : State) (k : Nat) (n : Nat) : State.MemOk (State.spend s k n) ↔ s.MemOk :=
  MemOk.keeps (Keeps.spend s k n) rfl rfl
theorem MemOk.hostWrite_iff (s : State) (w : HostWrite) : State.MemOk (State.hostWrite s w) ↔ s.MemOk :=
  MemOk.keeps (Keeps.hostWrite s w) rfl rfl
theorem MemOk.complete_iff (s : State) (r : DescRef) (c : Completion) : State.MemOk (State.complete s r c) ↔ s.MemOk :=
  MemOk.keeps (Keeps.complete s r c) rfl rfl
theorem MemOk.completeNow_iff (s : State) (r : DescRef) (c : Completion) : State.MemOk (State.completeNow s r c) ↔ s.MemOk :=
  MemOk.keeps (Keeps.completeNow s r c) rfl rfl
theorem MemOk.event_iff (s : State) (p : Nat) (typ : Nat) (payload : List (Nat × Nat × Nat)) : State.MemOk (State.event s p typ payload) ↔ s.MemOk :=
  MemOk.keeps (Keeps.event s p typ payload) rfl rfl
theorem MemOk.eventOwner_iff (s : State) (slot : Nat) (typ : Nat) (payload : List (Nat × Nat × Nat)) : State.MemOk (State.eventOwner s slot typ payload) ↔ s.MemOk :=
  MemOk.keeps (Keeps.eventOwner s slot typ payload) rfl rfl
theorem MemOk.logError_iff (s : State) (line : Nat) (col : Nat) (kind : Nat) (path : Nat) (ncorr : Nat) (part : Option Nat) (addr : Nat) : State.MemOk (State.logError s line col kind path ncorr part addr) ↔ s.MemOk :=
  MemOk.keeps (Keeps.logError s line col kind path ncorr part addr) rfl rfl
theorem MemOk.uncorrectable_iff (s : State) (line : Nat) (col : Nat) (kind : Nat) (path : Nat) (ncorr : Nat) (part : Option Nat) (addr : Nat) : State.MemOk (State.uncorrectable s line col kind path ncorr part addr) ↔ s.MemOk :=
  MemOk.keeps (Keeps.uncorrectable s line col kind path ncorr part addr) rfl rfl
theorem MemOk.hostDone_iff (s : State) (w : HostWrite) (ok : Bool) : State.MemOk (State.hostDone s w ok) ↔ s.MemOk :=
  MemOk.keeps (Keeps.hostDone s w ok) rfl rfl
theorem MemOk.freeRx_iff (s : State) (land : Nat) (hdr : BitVec 128) (n : Nat) : State.MemOk (State.freeRx s land hdr n) ↔ s.MemOk :=
  MemOk.keeps (Keeps.freeRx s land hdr n) rfl rfl
theorem MemOk.reply_iff (s : State) (h : BitVec 128) (mk : Nat) (lines : Nat) (status : Nat) (pois : Nat) (data : List Byte) : State.MemOk (State.reply s h mk lines status pois data) ↔ s.MemOk :=
  MemOk.keeps (Keeps.reply s h mk lines status pois data) rfl rfl
theorem MemOk.freshBank_iff (s : State) (b : Nat) : State.MemOk (State.freshBank s b) ↔ s.MemOk :=
  MemOk.keeps (Keeps.freshBank s b) rfl rfl
theorem MemOk.endSwap_iff (s : State) (st : Nat) (x : Nat × Nat × Nat) (stays : Bool) : State.MemOk (State.endSwap s st x stays) ↔ s.MemOk :=
  MemOk.keeps (Keeps.endSwap s st x stays) rfl rfl
theorem MemOk.retireRow_iff (s : State) (rk : Nat) (wrongTag : Bool) : State.MemOk (State.retireRow s rk wrongTag) ↔ s.MemOk :=
  MemOk.keeps (Keeps.retireRow s rk wrongTag) rfl rfl
theorem MemOk.writeBack_iff (s : State) (rk : Nat) (code : Nat) (fix : List Nat) : State.MemOk (State.writeBack s rk code fix) ↔ s.MemOk :=
  MemOk.keeps (Keeps.writeBack s rk code fix) rfl rfl
theorem MemOk.viaMesh_iff (s : State) (a : Nat) (b : Nat) (n : Nat) : State.MemOk (State.viaMesh s a b n) ↔ s.MemOk :=
  MemOk.keeps (Keeps.viaMesh s a b n) rfl rfl
theorem MemOk.readMesh_iff (s : State) (a : Nat) (b : Nat) (n : Nat) : State.MemOk (State.readMesh s a b n) ↔ s.MemOk :=
  MemOk.keeps (Keeps.readMesh s a b n) rfl rfl
theorem MemOk.draw_iff (s : State) : State.MemOk (State.draw s) ↔ s.MemOk :=
  MemOk.keeps (Keeps.draw s) rfl rfl
theorem MemOk.noteRead_iff (s : State) (bad : Bool) (k : Nat) (path : Nat) (part : Option Nat) (addr : Nat) : State.MemOk (State.noteRead s bad k path part addr) ↔ s.MemOk :=
  MemOk.keeps (Keeps.noteRead s bad k path part addr) rfl rfl
theorem MemOk.spWrite_iff (s : State) (t : Nat) (a : Nat) (l : List Byte) (pois : Bool) : State.MemOk (State.spWrite s t a l pois) ↔ s.MemOk :=
  MemOk.keeps (Keeps.spWrite s t a l pois) rfl rfl
theorem MemOk.halt_iff (s : State) (c : Nat) (reason : Nat) (fld : Nat) (step : Nat) : State.MemOk (State.halt s c reason fld step) ↔ s.MemOk :=
  MemOk.keeps (Keeps.halt s c reason fld step) rfl rfl
theorem MemOk.ferryFault_iff (s : State) (t : Nat) (ch : Nat) (fault : Nat) (fld : Nat) (at_ : Nat × Nat × Nat × Nat) : State.MemOk (State.ferryFault s t ch fault fld at_) ↔ s.MemOk :=
  MemOk.keeps (Keeps.ferryFault s t ch fault fld at_) rfl rfl
theorem MemOk.answer_iff (s : State) (a : Answer) : State.MemOk (State.answer s a) ↔ s.MemOk :=
  MemOk.keeps (Keeps.answer s a) rfl rfl
theorem MemOk.writeDone_iff (s : State) (q : Req) (ok : Bool) : State.MemOk (State.writeDone s q ok) ↔ s.MemOk :=
  MemOk.keeps (Keeps.writeDone s q ok) rfl rfl
theorem MemOk.accept_iff (s : State) (ch : Nat) (q : Req) : State.MemOk (State.accept s ch q) ↔ s.MemOk :=
  MemOk.keeps (Keeps.accept s ch q) rfl rfl
theorem MemOk.countGrant_iff (s : State) (ch : Nat) (who : Nat) : State.MemOk (State.countGrant s ch who) ↔ s.MemOk :=
  MemOk.keeps (Keeps.countGrant s ch who) rfl rfl
theorem MemOk.reachRow_iff (s : State) (ch : Nat) (j : Nat) (row : Nat) (who : Nat) : State.MemOk (State.reachRow s ch j row who) ↔ s.MemOk :=
  MemOk.keeps (Keeps.reachRow s ch j row who) rfl rfl
theorem MemOk.answerRead_iff (s : State) (ch : Nat) (q : Req) : State.MemOk (State.answerRead s ch q) ↔ s.MemOk :=
  MemOk.keeps (Keeps.answerRead s ch q) rfl rfl
theorem MemOk.readBanks_iff (s : State) (ch : Nat) (q : Req) : State.MemOk (State.readBanks s ch q) ↔ s.MemOk :=
  MemOk.keeps (Keeps.readBanks s ch q) rfl rfl
theorem MemOk.noteEye_iff (s : State) (ch : Nat) (ls : List Sweep) : State.MemOk (State.noteEye s ch ls) ↔ s.MemOk :=
  MemOk.keeps (Keeps.noteEye s ch ls) rfl rfl
theorem MemOk.reviewCode_iff (s : State) (sl : Nat) : State.MemOk (State.reviewCode s sl) ↔ s.MemOk :=
  MemOk.keeps (Keeps.reviewCode s sl) rfl rfl
theorem MemOk.raiseParcel_iff (s : State) (p : Nat) : State.MemOk (State.raiseParcel s p) ↔ s.MemOk :=
  MemOk.keeps (Keeps.raiseParcel s p) rfl rfl
theorem MemOk.countColumns_iff (s : State) (b : Nat) (cols : List Nat) : State.MemOk (State.countColumns s b cols) ↔ s.MemOk :=
  MemOk.keeps (Keeps.countColumns s b cols) rfl rfl
theorem MemOk.noteCover_iff (s : State) (was : Bool) : State.MemOk (State.noteCover s was) ↔ s.MemOk :=
  MemOk.keeps (Keeps.noteCover s was) rfl rfl
theorem MemOk.homeWrite_iff (s : State) (sa : Nat) (d : Line512) (mask : BitVec 64) (pois : Bool) : State.MemOk (State.homeWrite s sa d mask pois) ↔ s.MemOk :=
  MemOk.keeps (Keeps.homeWrite s sa d mask pois) rfl rfl
theorem MemOk.noteDir_iff (s : State) : State.MemOk (State.noteDir s) ↔ s.MemOk :=
  MemOk.keeps (Keeps.noteDir s) rfl rfl
theorem MemOk.poisonAnswer_iff (s : State) (p : Nat) (hpa : Nat) (line : Nat) : State.MemOk (State.poisonAnswer s p hpa line) ↔ s.MemOk :=
  MemOk.keeps (Keeps.poisonAnswer s p hpa line) rfl rfl
theorem MemOk.pump_iff (a0 : Nat) (a1 : Nat) (a2 : Nat) (a3 : State) : State.MemOk (State.pump a0 a1 a2 a3) ↔ a3.MemOk :=
  MemOk.keeps (Keeps.pump a0 a1 a2 a3) rfl rfl
theorem MemOk.landingDown_iff (s : State) (l : Nat) : State.MemOk (State.landingDown s l) ↔ s.MemOk :=
  MemOk.keeps (Keeps.landingDown s l) rfl rfl
theorem MemOk.remoteWrite_iff (s : State) (land : Nat) (hdr : BitVec 128) (data : List (BitVec 512)) (bad : List Nat) (p : Nat) : State.MemOk (State.remoteWrite s land hdr data bad p) ↔ s.MemOk :=
  MemOk.keeps (Keeps.remoteWrite s land hdr data bad p) rfl rfl
theorem MemOk.setPartState_iff (s : State) (p : Nat) (st : PartState) : State.MemOk (State.setPartState s p st) ↔ s.MemOk :=
  MemOk.keeps (Keeps.setPartState s p st) rfl rfl
theorem MemOk.dropBuffers_iff (s : State) (p : Nat) : State.MemOk (State.dropBuffers s p) ↔ s.MemOk :=
  MemOk.keeps (Keeps.dropBuffers s p) rfl rfl
theorem MemOk.clearVfile_iff (s : State) (c : Nat) : State.MemOk (State.clearVfile s c) ↔ s.MemOk :=
  MemOk.keeps (Keeps.clearVfile s c) rfl rfl
theorem MemOk.unbindCtx_iff (s : State) (c : Nat) : State.MemOk (State.unbindCtx s c) ↔ s.MemOk :=
  MemOk.keeps (Keeps.unbindCtx s c) rfl rfl
theorem MemOk.finishDestroy_iff (s : State) (p : Nat) : State.MemOk (State.finishDestroy s p) ↔ s.MemOk :=
  MemOk.keeps (Keeps.finishDestroy s p) rfl rfl
theorem MemOk.acceptFerry_iff (s : State) (t : Nat) (ch : Nat) (part : Option Nat) (sa : Nat) (d : Line512) (mask : BitVec 64) (pois : Bool) : State.MemOk (State.acceptFerry s t ch part sa d mask pois) ↔ s.MemOk :=
  MemOk.keeps (Keeps.acceptFerry s t ch part sa d mask pois) rfl rfl
theorem MemOk.retireSlice_iff (s : State) (t : Nat) (sl : Nat) (step : Nat) (part : Option Nat) (ctx : Nat) : State.MemOk (State.retireSlice s t sl step part ctx) ↔ s.MemOk :=
  MemOk.keeps (Keeps.retireSlice s t sl step part ctx) rfl rfl
theorem MemOk.storeLost_iff (s : State) : State.MemOk (State.storeLost s) ↔ s.MemOk :=
  MemOk.keeps (Keeps.storeLost s) rfl rfl
theorem MemOk.takeId_iff (s : State) : State.MemOk (State.takeId s) ↔ s.MemOk :=
  MemOk.keeps (Keeps.takeId s) rfl rfl
theorem MemOk.testSpares_iff (s : State) : State.MemOk (State.testSpares s) ↔ s.MemOk :=
  MemOk.keeps (Keeps.testSpares s) rfl rfl
theorem MemOk.enterService_iff (s : State) : State.MemOk (State.enterService s) ↔ s.MemOk :=
  MemOk.keeps (Keeps.enterService s) rfl rfl
theorem MemOk.forgetDescs_iff (s : State) : State.MemOk (State.forgetDescs s) ↔ s.MemOk :=
  MemOk.keeps (Keeps.forgetDescs s) rfl rfl
theorem MemOk.resetHubs_iff (s : State) : State.MemOk (State.resetHubs s) ↔ s.MemOk :=
  MemOk.keeps (Keeps.resetHubs s) rfl rfl

theorem MemOk.setCheck (s : State) (rk : Nat) (c : Nat) (comp : Bool) (hm : s.MemOk) : State.MemOk (State.setCheck s rk c comp) := by
  unfold State.setCheck
  repeat' first
    | done
    | with_reducible assumption
    | simp only [↓MemOk.ite_iff, ↓MemOk.modRow_iff]
    | with_reducible refine MemOk.modColBad _ _ _ ?_
    | split
    | dsimp only

theorem MemOk.poisonLine (s : State) (k : Nat) (hm : s.MemOk) : State.MemOk (State.poisonLine s k) := by
  unfold State.poisonLine
  repeat' first
    | done
    | with_reducible assumption
    | simp only [↓MemOk.ite_iff, ↓MemOk.modRow_iff]
    | with_reducible refine MemOk.setCheck _ _ _ _ ?_
    | split
    | dsimp only

theorem MemOk.poisonLines (s : State) (rk : Nat) (ls : List Nat) (hm : s.MemOk) : State.MemOk (State.poisonLines s rk ls) := by
  unfold State.poisonLines
  repeat' first
    | done
    | with_reducible assumption
    | simp only [↓MemOk.ite_iff]
    | with_reducible refine MemOk.poisonLine _ _ ?_
    | with_reducible refine MemOk.foldl _ (fun _ _ h => ?_) _ _ ?_
    | split
    | dsimp only

theorem MemOk.storeColumn (s : State) (rk : Nat) (c : Nat) (l : List Byte) (comp : Bool) (hm : s.MemOk) : State.MemOk (State.storeColumn s rk c l comp) := by
  have a := MemOk.putMem s _ hm (Tab.wf_setRun _ l _ (rk * 2048 + c * 32) hm.mem)
  unfold State.storeColumn
  dsimp only
  split
  · exact (MemOk.modRow_iff _ _ _).2 (MemOk.modColBad _ _ _ a)
  · exact MemOk.modColBad _ _ _ a

theorem MemOk.storeLine (s : State) (k : Nat) (d : Line512) (pois : Bool) (hm : s.MemOk) : State.MemOk (State.storeLine s k d pois) := by
  unfold State.storeLine
  repeat' first
    | done
    | with_reducible assumption
    | simp only [↓MemOk.ite_iff, ↓MemOk.modRow_iff]
    | with_reducible refine MemOk.storeColumn _ _ _ _ _ ?_
    | split
    | dsimp only

theorem MemOk.writeRow (s : State) (rk : Nat) (ls : List (Line512 × Bool)) (hm : s.MemOk) : State.MemOk (State.writeRow s rk ls) := by
  have a := MemOk.putMem s _ hm (Tab.wf_setRun _ (ls.flatMap (fun l => lineBytes l.1)) _ (rk * 2048) hm.mem)
  have b := MemOk.putPois _ _ a (Tab.wf_setRun _ (ls.flatMap (fun l => [l.2, l.2])) _ (colKey rk 0) a.pois)
  exact (MemOk.modRow_iff _ _ _).2 b

theorem MemOk.flipRepair (s : State) (r : Repair) (hm : s.MemOk) : State.MemOk (State.flipRepair s r) := by
  unfold State.flipRepair
  repeat' first
    | done
    | with_reducible assumption
    | simp only [↓MemOk.ite_iff, ↓MemOk.freshBank_iff, ↓MemOk.modBspare_iff, ↓MemOk.modRow_iff]
    | with_reducible refine MemOk.poisonLines _ _ _ ?_
    | with_reducible refine MemOk.foldl _ (fun _ _ h => ?_) _ _ ?_
    | with_reducible refine MemOk.foldl_fst _ (fun _ _ h => ?_) _ _ ?_
    | split
    | dsimp only

theorem MemOk.rowFailed (s : State) (rk : Nat) (col : Nat) (kind : Nat) (path : Nat) (ncorr : Nat) (part : Option Nat) (addr : Nat) (also : List Nat) (hm : s.MemOk) : State.MemOk (State.rowFailed s rk col kind path ncorr part addr also) := by
  unfold State.rowFailed
  repeat' first
    | done
    | with_reducible assumption
    | simp only [↓MemOk.ite_iff, ↓MemOk.retireRow_iff, ↓MemOk.uncorrectable_iff]
    | with_reducible refine MemOk.poisonLines _ _ _ ?_
    | split
    | dsimp only

theorem MemOk.rowCorrected (s : State) (rk : Nat) (col : Nat) (path : Nat) (code : Nat) (fix : List Nat) (part : Option Nat) (addr : Nat) (mark : RowMeta → RowMeta) (hm : s.MemOk) : State.MemOk (State.rowCorrected s rk col path code fix part addr mark) := by
  unfold State.rowCorrected
  repeat' first
    | done
    | with_reducible assumption
    | simp only [↓MemOk.ite_iff, ↓MemOk.logError_iff, ↓MemOk.modRow_iff, ↓MemOk.writeBack_iff]
    | with_reducible refine MemOk.setCheck _ _ _ _ ?_
    | with_reducible refine MemOk.foldl _ (fun _ _ h => ?_) _ _ ?_
    | split
    | dsimp only

theorem MemOk.decodeRow (s : State) (rk : Nat) (col : Nat) (path : Nat) (part : Option Nat) (addr : Nat) (mark : RowMeta → RowMeta) (hm : s.MemOk) : State.MemOk (State.decodeRow s rk col path part addr mark) := by
  unfold State.decodeRow
  split
  · exact (MemOk.retireRow_iff ..).2 ((MemOk.uncorrectable_iff ..).2 hm)
  · split
    · exact MemOk.rowFailed _ _ _ _ _ _ _ _ _ hm
    · split
      · exact MemOk.rowFailed _ _ _ _ _ _ _ _ _ hm
      · rename_i _ code fix _ _ _
        have g := MemOk.rowCorrected s rk col path code fix part addr mark hm
        dsimp only
        split
        · exact (MemOk.retireRow_iff ..).2 g
        · exact g

theorem MemOk.testLine (s : State) (k : Nat) (path : Nat) (part : Option Nat) (addr : Nat) (hm : s.MemOk) : State.MemOk (State.testLine s k path part addr) := by
  unfold State.testLine
  repeat' first
    | done
    | with_reducible assumption
    | simp only [↓MemOk.ite_iff]
    | with_reducible refine MemOk.decodeRow _ _ _ _ _ _ _ ?_
    | split
    | dsimp only

theorem MemOk.writeLine (s : State) (k : Nat) (d : Line512) (mask : BitVec 64) (pois : Bool) (path : Nat) (part : Option Nat) (addr : Nat) (hm : s.MemOk) : State.MemOk (State.writeLine s k d mask pois path part addr).1 := by
  unfold State.writeLine
  repeat' first
    | done
    | with_reducible assumption
    | simp only [↓MemOk.ite_iff, ↓MemOk.logError_iff, ↓MemOk.uncorrectable_iff]
    | with_reducible refine MemOk.storeLine _ _ _ _ ?_
    | with_reducible refine MemOk.testLine _ _ _ _ _ ?_
    | split
    | dsimp only

theorem MemOk.writeLine_eq {s : State} {k : Nat} {d : Line512} {mask : BitVec 64} {pois : Bool} {path : Nat} {part : Option Nat} {addr : Nat} {u0 : State} {y : Bool} (h : State.writeLine s k d mask pois path part addr = (u0, y)) (hm : s.MemOk) : u0.MemOk := by
  have k := MemOk.writeLine s k d mask pois path part addr hm
  rw [h] at k
  exact k

theorem MemOk.writeSa (s : State) (sa : Nat) (d : Line512) (mask : BitVec 64) (pois : Bool) (path : Nat) (part : Option Nat) (hm : s.MemOk) : State.MemOk (State.writeSa s sa d mask pois path part).1 := by
  have y : ∀ f : State → Nat → Line512 → BitVec 64 → Bool → Nat → Option Nat → Nat → State × Bool, (∀ s k a b c d e g, s.MemOk → (f s k a b c d e g).1.MemOk) →
      State.MemOk (if (s.slot (sa / slotBytes)).dead then (s, false) else let r := f s (s.lineOfSa sa) d mask pois path part sa
        match s.movingLine sa with
        | some m => if r.2 then ((f r.1 m d mask pois path part sa).1, true) else r
        | none => r).1 := by
    intro f h
    have g := h s (s.lineOfSa sa) d mask pois path part sa hm
    split
    · exact hm
    · dsimp only
      split
      · split
        · exact h _ _ _ _ _ _ _ _ g
        · exact g
      · exact g
  unfold State.writeSa
  exact y _ MemOk.writeLine

theorem MemOk.writeSa_eq {s : State} {sa : Nat} {d : Line512} {mask : BitVec 64} {pois : Bool} {path : Nat} {part : Option Nat} {u0 : State} {y : Bool} (h : State.writeSa s sa d mask pois path part = (u0, y)) (hm : s.MemOk) : u0.MemOk := by
  have k := MemOk.writeSa s sa d mask pois path part hm
  rw [h] at k
  exact k

theorem MemOk.clearParcel (s : State) (p : Nat) (hm : s.MemOk) : State.MemOk (State.clearParcel s p) := by
  refine (MemOk.keeps (Keeps.putRows ..) rfl rfl).2 ?_
  exact ⟨Tab.wf_filter _ _ _ hm.mem, Tab.wf_filter _ _ _ hm.pois⟩

theorem Tab.wf_foldl_set {α β : Type} [DecidableEq α] (d : Nat → α) (c : β → Bool) (k : β → Nat) (v : β → α) :
    ∀ (l : List β) (t : Tab α), Tab.wf d t = true → Tab.wf d (l.foldl (fun t e => if c e then Tab.set d t (k e) (v e) else t) t) = true
  | [], _, h => h
  | e :: l, t, h => by
    refine Tab.wf_foldl_set d c k v l _ ?_
    dsimp only
    split
    · exact Tab.wf_set d t _ _ h
    · exact h

theorem MemOk.copyParcel (s : State) (p : Nat) (q : Nat) (hm : s.MemOk) : State.MemOk (State.copyParcel s p q) := by
  unfold State.copyParcel
  dsimp only
  have h0 : State.MemOk ((s.rows.filter (fun e => parcelOfLine (32 * e.1) == p && e.2.errs != [])).foldl (fun s e =>
      if s.badTag e.1 then s else s.decodeRow e.1 127 8 none (s.logAddr (32 * e.1)) id) s) := by
    refine MemOk.foldl _ (fun v e hv => ?_) _ _ hm
    split
    · exact hv
    · exact MemOk.decodeRow _ _ _ _ _ _ _ hv
  generalize ((s.rows.filter (fun e => parcelOfLine (32 * e.1) == p && e.2.errs != [])).foldl (fun s e =>
      if s.badTag e.1 then s else s.decodeRow e.1 127 8 none (s.logAddr (32 * e.1)) id) s) = s0 at h0 ⊢
  have h1 := MemOk.clearParcel s0 q h0
  refine MemOk.foldl _ (fun v e hv => MemOk.poisonLine _ _ hv) _ _ ?_
  refine MemOk.foldl _ (fun v e hv => MemOk.foldl _ (fun v e hv => MemOk.storeLine _ _ _ _ hv) _ _ hv) _ _ ?_
  have h2 := Tab.wf_foldl_set (fun _ => (0 : BitVec 8)) (fun e : Nat × BitVec 8 => decide (parcelOfLine (e.1 / 64) = p))
    (fun e => 64 * (locOf s.boot.hashMask q (offsetOf s.boot.hashMask (locOfLine (e.1 / 64)))).line + e.1 % 64) (fun e => e.2) s0.mem _ h1.mem
  simp only [decide_eq_true_eq] at h2
  exact MemOk.putMem _ _ h1 h2

theorem MemOk.performWrite (s : State) (ch : Nat) (q : Req) (hm : s.MemOk) : State.MemOk (State.performWrite s ch q) := by
  have y : ∀ f : State → Nat → Line512 → BitVec 64 → Bool → Nat → Option Nat → Nat → State × Bool, (∀ s k a b c d e g, s.MemOk → (f s k a b c d e g).1.MemOk) →
      State.MemOk (let k := q.spot ch
        let a := s.addrFor q.who q.addr
        let r := f s k q.data q.mask q.poison (writePath q.who) q.part a
        match s.movingLine q.addr with
        | some m => if r.2 = true ∧ s.lineOfSa q.addr = k then (f r.1 m q.data q.mask q.poison (writePath q.who) q.part a).1 else r.1
        | none => r.1) := by
    intro f h
    have g := h s (q.spot ch) q.data q.mask q.poison (writePath q.who) q.part (s.addrFor q.who q.addr) hm
    dsimp only
    split
    · split
      · exact h _ _ _ _ _ _ _ _ g
      · exact g
    · exact g
  unfold State.performWrite
  exact (MemOk.writeDone_iff ..).2 (y State.writeLine MemOk.writeLine)

theorem MemOk.drainTo (a0 : Nat) (a1 : Nat) (a2 : Nat) (a3 : State) (hm : a3.MemOk) : State.MemOk (State.drainTo a0 a1 a2 a3) := by
  induction a0 generalizing a1 a2 a3 with
  | zero => exact hm
  | succ n ih =>
    unfold State.drainTo
    repeat' first
      | done
      | with_reducible assumption
      | (with_reducible refine ih _ _ _ ?_)
      | simp only [↓MemOk.ite_iff, ↓MemOk.modChan_iff]
      | with_reducible refine MemOk.performWrite _ _ _ ?_
      | split
      | dsimp only

theorem MemOk.drainLine (s : State) (ch : Nat) (k : Nat) (hm : s.MemOk) : State.MemOk (State.drainLine s ch k) := by
  unfold State.drainLine
  repeat' first
    | done
    | with_reducible assumption
    | simp only [↓MemOk.ite_iff, ↓MemOk.modChan_iff]
    | with_reducible refine MemOk.performWrite _ _ _ ?_
    | with_reducible refine MemOk.foldl _ (fun _ _ h => ?_) _ _ ?_
    | split
    | dsimp only

theorem MemOk.serve (s : State) (ch : Nat) (q : Req) (hm : s.MemOk) : State.MemOk (State.serve s ch q) := by
  unfold State.serve
  repeat' first
    | done
    | with_reducible assumption
    | simp only [↓MemOk.ite_iff, ↓MemOk.answerRead_iff, ↓MemOk.modChan_iff, ↓MemOk.readBanks_iff]
    | with_reducible refine MemOk.drainLine _ _ _ ?_
    | with_reducible refine MemOk.drainTo _ _ _ _ ?_
    | split
    | dsimp only

theorem MemOk.runGrant (a0 : Nat) (a1 : Nat) (a2 : Nat) (a3 : Nat) (a4 : State) (hm : a4.MemOk) : State.MemOk (State.runGrant a0 a1 a2 a3 a4) := by
  induction a0 generalizing a1 a2 a3 a4 with
  | zero => exact hm
  | succ n ih =>
    unfold State.runGrant
    repeat' first
      | done
      | with_reducible assumption
      | (with_reducible refine ih _ _ _ _ ?_)
      | simp only [↓MemOk.ite_iff]
      | with_reducible refine MemOk.serve _ _ _ ?_
      | split
      | dsimp only

theorem MemOk.grantNow (s : State) (ch : Nat) (who : Nat) (hm : s.MemOk) : State.MemOk (State.grantNow s ch who) := by
  unfold State.grantNow
  repeat' first
    | done
    | with_reducible assumption
    | simp only [↓MemOk.ite_iff, ↓MemOk.countGrant_iff]
    | with_reducible refine MemOk.runGrant _ _ _ _ _ ?_
    | split
    | dsimp only

theorem MemOk.bankRead (s : State) (who : Nat) (path : Nat) (part : Option Nat) (sa : Nat) (hm : s.MemOk) : State.MemOk (State.bankRead s who path part sa).2 := by
  unfold State.bankRead
  repeat' first
    | done
    | with_reducible assumption
    | simp only [↓MemOk.ite_iff, ↓MemOk.modChan_iff, ↓MemOk.noteRead_iff, ↓MemOk.reachRow_iff, ↓MemOk.spend_iff]
    | with_reducible refine MemOk.testLine _ _ _ _ _ ?_
    | split
    | dsimp only

theorem MemOk.bankRead_eq {s : State} {who : Nat} {path : Nat} {part : Option Nat} {sa : Nat} {u0 : State} {y : (Sys2Proof.Line512 × Bool)} (h : State.bankRead s who path part sa = (y, u0)) (hm : s.MemOk) : u0.MemOk := by
  have k := MemOk.bankRead s who path part sa hm
  rw [h] at k
  exact k

theorem MemOk.scrubRow (s : State) (rk : Nat) (hm : s.MemOk) : State.MemOk (State.scrubRow s rk) := by
  unfold State.scrubRow
  repeat' first
    | done
    | with_reducible assumption
    | simp only [↓MemOk.ite_iff, ↓MemOk.countColumns_iff, ↓MemOk.modParcel_iff, ↓MemOk.modRow_iff, ↓MemOk.raiseParcel_iff, ↓MemOk.retireRow_iff]
    | with_reducible refine MemOk.decodeRow _ _ _ _ _ _ _ ?_
    | split
    | dsimp only

theorem MemOk.reencodeOne (s : State) (rk : Nat) (t : Nat) (hm : s.MemOk) : State.MemOk (State.reencodeOne s rk t) := by
  unfold State.reencodeOne
  repeat' first
    | done
    | with_reducible assumption
    | simp only [↓MemOk.ite_iff, ↓MemOk.modRow_iff]
    | with_reducible refine MemOk.decodeRow _ _ _ _ _ _ _ ?_
    | split
    | dsimp only

theorem MemOk.reroute (s : State) (p : Nat) (q : Nat) (hm : s.MemOk) : State.MemOk (State.reroute s p q) := by
  unfold State.reroute
  repeat' first
    | done
    | with_reducible assumption
    | simp only [↓MemOk.ite_iff, ↓MemOk.answerRead_iff, ↓MemOk.modChan_iff, ↓MemOk.putChans_iff]
    | with_reducible refine MemOk.performWrite _ _ _ ?_
    | with_reducible refine MemOk.foldl _ (fun _ _ h => ?_) _ _ ?_
    | with_reducible refine MemOk.foldl_fst _ (fun _ _ h => ?_) _ _ ?_
    | with_reducible refine MemOk.foldl_snd _ (fun _ _ h => ?_) _ _ ?_
    | split
    | dsimp only

theorem MemOk.flipSlot (s : State) (slot : Nat) (hm : s.MemOk) : State.MemOk (State.flipSlot s slot) := by
  unfold State.flipSlot
  repeat' first
    | done
    | with_reducible assumption
    | simp only [↓MemOk.ite_iff, ↓MemOk.complete_iff, ↓MemOk.eventOwner_iff, ↓MemOk.logError_iff, ↓MemOk.modParcel_iff, ↓MemOk.modSlot_iff, ↓MemOk.noteCover_iff, ↓MemOk.reviewCode_iff]
    | with_reducible refine MemOk.reroute _ _ _ ?_
    | split
    | dsimp only

theorem MemOk.takeFlips (s : State) (ch : Nat) (hm : s.MemOk) : State.MemOk (State.takeFlips s ch) := by
  unfold State.takeFlips
  repeat' first
    | done
    | with_reducible assumption
    | simp only [↓MemOk.ite_iff, ↓MemOk.modChan_iff]
    | with_reducible refine MemOk.flipSlot _ _ ?_
    | with_reducible refine MemOk.foldl _ (fun _ _ h => ?_) _ _ ?_
    | with_reducible refine MemOk.foldl_snd _ (fun _ _ h => ?_) _ _ ?_
    | split
    | dsimp only

theorem MemOk.writeBackSlot (s : State) (slot : Nat) (hm : s.MemOk) : State.MemOk (State.writeBackSlot s slot) := by
  unfold State.writeBackSlot
  repeat' first
    | done
    | with_reducible assumption
    | simp only [↓MemOk.ite_iff, ↓MemOk.putLines_iff]
    | with_reducible refine MemOk.writeSa _ _ _ _ _ _ _ ?_
    | with_reducible refine MemOk.foldl _ (fun _ _ h => ?_) _ _ ?_
    | with_reducible refine MemOk.foldl_fst _ (fun _ _ h => ?_) _ _ ?_
    | with_reducible refine MemOk.foldl_snd _ (fun _ _ h => ?_) _ _ ?_
    | with_reducible refine MemOk.writeSa_eq ‹_› ?_
    | split
    | dsimp only

theorem MemOk.closePass (s : State) (ch : Nat) (hm : s.MemOk) : State.MemOk (State.closePass s ch) := by
  unfold State.closePass
  repeat' first
    | done
    | with_reducible assumption
    | simp only [↓MemOk.ite_iff, ↓MemOk.modChan_iff]
    | with_reducible refine MemOk.takeFlips _ _ ?_
    | split
    | dsimp only

theorem MemOk.deviceRead (s : State) (who : Nat) (path : Nat) (part : Option Nat) (sa : Nat) (hm : s.MemOk) : State.MemOk (State.deviceRead s who path part sa).2 := by
  unfold State.deviceRead
  repeat' first
    | done
    | with_reducible assumption
    | simp only [↓MemOk.ite_iff, ↓MemOk.logError_iff]
    | with_reducible refine MemOk.bankRead _ _ _ _ _ ?_
    | with_reducible refine MemOk.bankRead_eq ‹_› ?_
    | split
    | dsimp only

theorem MemOk.deviceRead_eq {s : State} {who : Nat} {path : Nat} {part : Option Nat} {sa : Nat} {u0 : State} {y : (Sys2Proof.Line512 × Bool)} (h : State.deviceRead s who path part sa = (y, u0)) (hm : s.MemOk) : u0.MemOk := by
  have k := MemOk.deviceRead s who path part sa hm
  rw [h] at k
  exact k

theorem MemOk.askRead (s : State) (ch : Nat) (q : Req) (hm : s.MemOk) : State.MemOk (State.askRead s ch q) := by
  unfold State.askRead
  repeat' first
    | done
    | with_reducible assumption
    | simp only [↓MemOk.ite_iff, ↓MemOk.accept_iff]
    | with_reducible refine MemOk.grantNow _ _ _ ?_
    | split
    | dsimp only

theorem MemOk.portRead (s : State) (p : Nat) (sa : Nat) (hm : s.MemOk) : State.MemOk (State.portRead s p sa) := by
  unfold State.portRead
  repeat' first
    | done
    | with_reducible assumption
    | simp only [↓MemOk.ite_iff, ↓MemOk.modHport_iff, ↓MemOk.readMesh_iff]
    | with_reducible refine MemOk.askRead _ _ _ ?_
    | split
    | dsimp only

theorem MemOk.sharedHostRead (s : State) (p : Nat) (sa : Nat) (own : Bool) (hm : s.MemOk) : State.MemOk (State.sharedHostRead s p sa own) := by
  unfold State.sharedHostRead
  repeat' first
    | done
    | with_reducible assumption
    | simp only [↓MemOk.ite_iff, ↓MemOk.answer_iff, ↓MemOk.modDir_iff, ↓MemOk.noteDir_iff, ↓MemOk.poisonAnswer_iff, ↓MemOk.putLogs_iff]
    | with_reducible refine MemOk.askRead _ _ _ ?_
    | split
    | dsimp only

theorem MemOk.remoteRead (s : State) (land : Nat) (hdr : BitVec 128) (bad : List Nat) (p : Nat) (hm : s.MemOk) : State.MemOk (State.remoteRead s land hdr bad p) := by
  unfold State.remoteRead
  repeat' first
    | done
    | with_reducible assumption
    | simp only [↓MemOk.ite_iff, ↓MemOk.countGrant_iff, ↓MemOk.freeRx_iff, ↓MemOk.readMesh_iff, ↓MemOk.reply_iff]
    | with_reducible refine MemOk.deviceRead _ _ _ _ _ ?_
    | with_reducible refine MemOk.foldl _ (fun _ _ h => ?_) _ _ ?_
    | with_reducible refine MemOk.foldl_fst _ (fun _ _ h => ?_) _ _ ?_
    | with_reducible refine MemOk.foldl_snd _ (fun _ _ h => ?_) _ _ ?_
    | with_reducible refine MemOk.deviceRead_eq ‹_› ?_
    | (with_reducible refine (MemOk.keeps (Keeps.remSnoop_some ‹_›) rfl rfl).2 ?_)
    | split
    | dsimp only

theorem MemOk.release (s : State) (w : Waiter) (bad : List Nat) (hm : s.MemOk) : State.MemOk (State.release s w bad) := by
  unfold State.release
  repeat' first
    | done
    | with_reducible assumption
    | simp only [↓MemOk.ite_iff, ↓MemOk.modFchan_iff, ↓MemOk.remoteWrite_iff]
    | with_reducible refine MemOk.remoteRead _ _ _ _ _ ?_
    | with_reducible refine MemOk.sharedHostRead _ _ _ _ ?_
    | split
    | dsimp only

theorem MemOk.writeBackPart (s : State) (p : Nat) (hm : s.MemOk) : State.MemOk (State.writeBackPart s p) := by
  unfold State.writeBackPart
  repeat' first
    | done
    | with_reducible assumption
    | simp only [↓MemOk.ite_iff]
    | with_reducible refine MemOk.writeBackSlot _ _ ?_
    | with_reducible refine MemOk.foldl _ (fun _ _ h => ?_) _ _ ?_
    | split
    | dsimp only

theorem MemOk.finishReset (s : State) (p : Nat) (job : ResetJob) (destroy : Bool) (hm : s.MemOk) : State.MemOk (State.finishReset s p job destroy) := by
  unfold State.finishReset
  repeat' first
    | done
    | with_reducible assumption
    | simp only [↓MemOk.ite_iff, ↓MemOk.clearVfile_iff, ↓MemOk.completeNow_iff, ↓MemOk.dropBuffers_iff, ↓MemOk.finishDestroy_iff, ↓MemOk.modCtx_iff, ↓MemOk.modPage_iff, ↓MemOk.modPart_iff, ↓MemOk.modSlot_iff, ↓MemOk.setPartState_iff, ↓MemOk.unbindCtx_iff]
    | with_reducible refine MemOk.writeBackPart _ _ ?_
    | with_reducible refine MemOk.foldl _ (fun _ _ h => ?_) _ _ ?_
    | split
    | dsimp only

theorem MemOk.preserve (s : State) (p : Nat) (cause : Nat) (ts : List (BitVec 64)) (hm : s.MemOk) : State.MemOk (State.preserve s p cause ts) := by
  unfold State.preserve
  repeat' first
    | done
    | with_reducible assumption
    | simp only [↓MemOk.ite_iff, ↓MemOk.modCtx_iff, ↓MemOk.modPage_iff, ↓MemOk.modPart_iff, ↓MemOk.setPartState_iff]
    | with_reducible refine MemOk.writeBackPart _ _ ?_
    | with_reducible refine MemOk.foldl _ (fun _ _ h => ?_) _ _ ?_
    | split
    | dsimp only

theorem MemOk.dropDirs (s : State) (port : Nat) (hm : s.MemOk) : State.MemOk (State.dropDirs s port) := by
  unfold State.dropDirs
  repeat' first
    | done
    | with_reducible assumption
    | simp only [↓MemOk.ite_iff, ↓MemOk.modDir_iff]
    | with_reducible refine MemOk.release _ _ _ ?_
    | with_reducible refine MemOk.foldl _ (fun _ _ h => ?_) _ _ ?_
    | with_reducible refine MemOk.foldl_snd _ (fun _ _ h => ?_) _ _ ?_
    | split
    | dsimp only

theorem MemOk.portDown (s : State) (p : Nat) (hm : s.MemOk) : State.MemOk (State.portDown s p) := by
  unfold State.portDown
  repeat' first
    | done
    | with_reducible assumption
    | simp only [↓MemOk.ite_iff, ↓MemOk.hostDone_iff, ↓MemOk.modFchan_iff, ↓MemOk.modHport_iff]
    | with_reducible refine MemOk.dropDirs _ _ ?_
    | with_reducible refine MemOk.foldl _ (fun _ _ h => ?_) _ _ ?_
    | with_reducible refine MemOk.foldl_fst _ (fun _ _ h => ?_) _ _ ?_
    | with_reducible refine MemOk.foldl_snd _ (fun _ _ h => ?_) _ _ ?_
    | split
    | dsimp only

theorem MemOk.hotReset (s : State) (p : Nat) (kind : Nat) (tokens : List (BitVec 64)) (hm : s.MemOk) : State.MemOk (State.hotReset s p kind tokens) := by
  unfold State.hotReset
  repeat' first
    | done
    | with_reducible assumption
    | simp only [↓MemOk.ite_iff]
    | with_reducible refine MemOk.portDown _ _ ?_
    | with_reducible refine MemOk.preserve _ _ _ _ ?_
    | with_reducible refine MemOk.foldl _ (fun _ _ h => ?_) _ _ ?_
    | split
    | dsimp only

theorem MemOk.poisonParcel (s : State) (p : Nat) (hm : s.MemOk) : State.MemOk (State.poisonParcel s p) := by
  unfold State.poisonParcel
  repeat' first
    | done
    | with_reducible assumption
    | simp only [↓MemOk.ite_iff]
    | with_reducible refine MemOk.poisonLine _ _ ?_
    | with_reducible refine MemOk.foldl _ (fun _ _ h => ?_) _ _ ?_
    | split
    | dsimp only

theorem MemOk.evacuate (s : State) (readable : Bool) (i : Nat) (hm : s.MemOk) : State.MemOk (State.evacuate s readable i) := by
  unfold State.evacuate
  repeat' first
    | done
    | with_reducible assumption
    | simp only [↓MemOk.ite_iff, ↓MemOk.eventOwner_iff, ↓MemOk.logError_iff, ↓MemOk.modSlot_iff]
    | with_reducible refine MemOk.clearParcel _ _ ?_
    | with_reducible refine MemOk.copyParcel _ _ _ ?_
    | with_reducible refine MemOk.flipSlot _ _ ?_
    | with_reducible refine MemOk.poisonParcel _ _ ?_
    | with_reducible refine MemOk.writeBackSlot _ _ ?_
    | split
    | dsimp only

theorem MemOk.losePort (s : State) (p : Nat) (hm : s.MemOk) : State.MemOk (State.losePort s p) := by
  unfold State.losePort
  repeat' first
    | done
    | with_reducible assumption
    | simp only [↓MemOk.ite_iff, ↓MemOk.halt_iff, ↓MemOk.modHport_iff, ↓MemOk.modPage_iff, ↓MemOk.modPart_iff]
    | with_reducible refine MemOk.portDown _ _ ?_
    | with_reducible refine MemOk.foldl _ (fun _ _ h => ?_) _ _ ?_
    | split
    | dsimp only

theorem MemOk.retireTile (s : State) (t : Nat) (cause : Nat) (readable : Bool) (hm : s.MemOk) : State.MemOk (State.retireTile s t cause readable) := by
  unfold State.retireTile
  repeat' first
    | done
    | with_reducible assumption
    | simp only [↓MemOk.ite_iff, ↓MemOk.bbox_iff, ↓MemOk.event_iff, ↓MemOk.halt_iff, ↓MemOk.landingDown_iff, ↓MemOk.modCtx_iff, ↓MemOk.modHub_iff, ↓MemOk.noteCover_iff, ↓MemOk.putBoot_iff, ↓MemOk.unbindCtx_iff]
    | with_reducible refine MemOk.evacuate _ _ _ ?_
    | with_reducible refine MemOk.losePort _ _ ?_
    | with_reducible refine MemOk.foldl _ (fun _ _ h => ?_) _ _ ?_
    | split
    | dsimp only

theorem MemOk.writeWhole (s : State) (who : Nat) (part : Option Nat) (sa : Nat) (ls : List (Nat × Line512 × BitVec 64 × Bool)) (hm : s.MemOk) : State.MemOk (State.writeWhole s who part sa ls) := by
  have y : ∀ f : State → Nat → Line512 → BitVec 64 → Bool → Nat → Option Nat → Nat → State × Bool, (∀ s k a b c d e g, s.MemOk → (f s k a b c d e g).1.MemOk) → ∀ u : State, u.MemOk →
      State.MemOk (ls.foldl (fun s e => match s.movingLine (e.1 * 64 % 2 ^ 48) with
        | some m => (f s m e.2.1 e.2.2.1 e.2.2.2 (writePath who) part (s.addrFor who (e.1 * 64 % 2 ^ 48))).1
        | none => s) u) := by
    intro f h u hu
    refine MemOk.foldl _ (fun v e hv => ?_) _ _ hu
    split
    · exact h _ _ _ _ _ _ _ _ hv
    · exact hv
  unfold State.writeWhole
  refine y State.writeLine MemOk.writeLine _ (MemOk.writeRow _ _ _ ((MemOk.spend_iff ..).2 ((MemOk.reachRow_iff ..).2 ?_)))
  refine MemOk.foldl _ (fun v e hv => MemOk.drainLine _ _ _ hv) _ _ ?_
  exact (MemOk.countGrant_iff ..).2 ((MemOk.modChan_iff ..).2 hm)

theorem MemOk.writeSpot_some {s : State} {t : Nat} {ch : Nat} {part : Option Nat} {l : Nat × Line512 × BitVec 64 × Bool} {u0 : Written} (h : State.writeSpot s t ch part l = some u0) (hm : s.MemOk) : u0.st.MemOk := by
  unfold State.writeSpot at h
  repeat' first
    | done
    | (cases h; done)
    | split at h
    | dsimp only at h
    | (cases h; repeat' first
        | done
        | with_reducible assumption
        | simp only [↓MemOk.ite_iff, ↓MemOk.acceptFerry_iff, ↓MemOk.draw_iff, ↓MemOk.homeWrite_iff, ↓MemOk.hostWrite_iff, ↓MemOk.modFchan_iff, ↓MemOk.spWrite_iff, ↓MemOk.viaMesh_iff]
        | with_reducible refine MemOk.writeWhole _ _ _ _ _ ?_
        | with_reducible refine MemOk.foldl _ (fun _ _ h => ?_) _ _ ?_
        | split)

theorem MemOk.pushWrites (a0 : Nat) (a1 : Nat) (a2 : Nat) (a3 : Option Nat) (a4 : State) (hm : a4.MemOk) : State.MemOk (State.pushWrites a0 a1 a2 a3 a4) := by
  induction a0 generalizing a1 a2 a3 a4 with
  | zero => exact hm
  | succ n ih =>
    unfold State.pushWrites
    repeat' first
      | done
      | with_reducible assumption
      | (with_reducible refine ih _ _ _ _ ?_)
      | simp only [↓MemOk.ite_iff, ↓MemOk.ferryFault_iff, ↓MemOk.modFchan_iff]
      | with_reducible refine MemOk.writeSpot_some ‹_› ?_
      | split
      | dsimp only

theorem MemOk.ferryRead (s : State) (t : Nat) (ch : Nat) (part : Option Nat) (ls : List Nat) (hm : s.MemOk) : State.MemOk (State.ferryRead s t ch part ls) := by
  unfold State.ferryRead
  repeat' first
    | done
    | with_reducible assumption
    | simp only [↓MemOk.ite_iff, ↓MemOk.countGrant_iff, ↓MemOk.modFchan_iff, ↓MemOk.readMesh_iff]
    | with_reducible refine MemOk.deviceRead _ _ _ _ _ ?_
    | with_reducible refine MemOk.foldl _ (fun _ _ h => ?_) _ _ ?_
    | with_reducible refine MemOk.foldl_fst _ (fun _ _ h => ?_) _ _ ?_
    | with_reducible refine MemOk.foldl_snd _ (fun _ _ h => ?_) _ _ ?_
    | with_reducible refine MemOk.deviceRead_eq ‹_› ?_
    | split
    | dsimp only

theorem MemOk.ferryMove (s : State) (t : Nat) (ch : Nat) (e : FeStep) (hm : s.MemOk) : State.MemOk (State.ferryMove s t ch e) := by
  unfold State.ferryMove
  repeat' first
    | done
    | with_reducible assumption
    | simp only [↓MemOk.ite_iff, ↓MemOk.modFchan_iff, ↓MemOk.readMesh_iff]
    | with_reducible refine MemOk.ferryRead _ _ _ _ _ ?_
    | with_reducible refine MemOk.foldl _ (fun _ _ h => ?_) _ _ ?_
    | with_reducible refine MemOk.foldl_fst _ (fun _ _ h => ?_) _ _ ?_
    | with_reducible refine MemOk.foldl_snd _ (fun _ _ h => ?_) _ _ ?_
    | split
    | dsimp only

theorem MemOk.ferryGo (s : State) (t : Nat) (ch : Nat) (hm : s.MemOk) : State.MemOk (State.ferryGo s t ch) := by
  unfold State.ferryGo
  dsimp only
  split
  · exact hm
  · split
    · exact hm
    · split
      · rename_i q
        refine (MemOk.modFchan_iff ..).2 ?_
        split at q
        · cases q
        · exact (MemOk.keeps (Keeps.ferrySnoop_some q) rfl rfl).2 hm
      · repeat' first
          | done
          | with_reducible assumption
          | simp only [↓MemOk.ite_iff, ↓MemOk.modFchan_iff, ↓MemOk.pump_iff, ↓MemOk.ferryFault_iff]
          | with_reducible refine MemOk.pushWrites _ _ _ _ _ ?_
          | with_reducible refine MemOk.ferryMove _ _ _ _ ?_
          | split

theorem MemOk.readSpan (s : State) (b : Nat) (part : Option Nat) (p : PassRec) (hm : s.MemOk) : State.MemOk (State.readSpan s b part p) := by
  unfold State.readSpan
  repeat' first
    | done
    | with_reducible assumption
    | simp only [↓MemOk.ite_iff]
    | with_reducible refine MemOk.decodeRow _ _ _ _ _ _ _ ?_
    | with_reducible refine MemOk.foldl _ (fun _ _ h => ?_) _ _ ?_
    | split
    | dsimp only

theorem MemOk.writeImage (s : State) (sa : Nat) (l : List Byte) (hm : s.MemOk) : State.MemOk (State.writeImage s sa l) := by
  unfold State.writeImage
  repeat' first
    | done
    | with_reducible assumption
    | simp only [↓MemOk.ite_iff]
    | with_reducible refine MemOk.writeSa _ _ _ _ _ _ _ ?_
    | with_reducible refine MemOk.foldl _ (fun _ _ h => ?_) _ _ ?_
    | with_reducible refine MemOk.foldl_fst _ (fun _ _ h => ?_) _ _ ?_
    | with_reducible refine MemOk.writeSa_eq ‹_› ?_
    | split
    | dsimp only

theorem MemOk.checkState (s : State) (p : Nat) (h : PHeader) (l : List Byte) (ws : List Nat) (tag : Nat) (hm : s.MemOk) : State.MemOk (State.checkState s p h l ws tag) := by
  unfold State.checkState
  repeat' first
    | done
    | with_reducible assumption
    | simp only [↓MemOk.ite_iff, ↓MemOk.modCtx_iff]
    | with_reducible refine MemOk.writeImage _ _ _ ?_
    | split
    | dsimp only

theorem MemOk.settleSpares (s : State) (hm : s.MemOk) : State.MemOk (State.settleSpares s) := by
  unfold State.settleSpares
  repeat' first
    | done
    | with_reducible assumption
    | simp only [↓MemOk.ite_iff, ↓MemOk.endSwap_iff, ↓MemOk.modStack_iff]
    | with_reducible refine MemOk.flipRepair _ _ ?_
    | with_reducible refine MemOk.foldl _ (fun _ _ h => ?_) _ _ ?_
    | with_reducible refine MemOk.foldl_fst _ (fun _ _ h => ?_) _ _ ?_
    | split
    | dsimp only

theorem MemOk.unpowered (s0 : State) (hm : s0.MemOk) : State.MemOk (State.unpowered s0) := by
  exact ⟨rfl, rfl⟩

theorem MemOk.retireAll (s : State) (ts : List Nat) (hm : s.MemOk) : State.MemOk (State.retireAll s ts) := by
  unfold State.retireAll
  repeat' first
    | done
    | with_reducible assumption
    | simp only [↓MemOk.ite_iff]
    | with_reducible refine MemOk.retireTile _ _ _ _ ?_
    | with_reducible refine MemOk.foldl _ (fun _ _ h => ?_) _ _ ?_
    | split
    | dsimp only

theorem MemOk.readStore (s : State) (hm : s.MemOk) : State.MemOk (State.readStore s) := by
  unfold State.readStore
  repeat' first
    | done
    | with_reducible assumption
    | simp only [↓MemOk.ite_iff, ↓MemOk.putBoot_iff, ↓MemOk.storeLost_iff, ↓MemOk.takeId_iff]
    | with_reducible refine MemOk.retireAll _ _ ?_
    | split
    | dsimp only

theorem MemOk.selfTests (s : State) (hm : s.MemOk) : State.MemOk (State.selfTests s) := by
  unfold State.selfTests
  repeat' first
    | done
    | with_reducible assumption
    | simp only [↓MemOk.ite_iff, ↓MemOk.retireSlice_iff]
    | with_reducible refine MemOk.retireAll _ _ ?_
    | with_reducible refine MemOk.foldl _ (fun _ _ h => ?_) _ _ ?_
    | with_reducible refine MemOk.foldl_fst _ (fun _ _ h => ?_) _ _ ?_
    | with_reducible refine MemOk.foldl_snd _ (fun _ _ h => ?_) _ _ ?_
    | split
    | dsimp only

theorem MemOk.trainStacks (s : State) (hm : s.MemOk) : State.MemOk (State.trainStacks s) := by
  unfold State.trainStacks
  repeat' first
    | done
    | with_reducible assumption
    | simp only [↓MemOk.ite_iff, ↓MemOk.modChan_iff, ↓MemOk.modStack_iff, ↓MemOk.noteEye_iff, ↓MemOk.putBoot_iff]
    | with_reducible refine MemOk.retireTile _ _ _ _ ?_
    | with_reducible refine MemOk.foldl _ (fun _ _ h => ?_) _ _ ?_
    | with_reducible refine MemOk.foldl_fst _ (fun _ _ h => ?_) _ _ ?_
    | with_reducible refine MemOk.foldl_snd _ (fun _ _ h => ?_) _ _ ?_
    | split
    | dsimp only

theorem MemOk.initMemory (s : State) (hm : s.MemOk) : State.MemOk (State.initMemory s) := by
  unfold State.initMemory
  repeat' first
    | done
    | exact ⟨rfl, rfl⟩
    | with_reducible assumption
    | simp only [↓MemOk.ite_iff, ↓MemOk.modSlot_iff, ↓MemOk.modPart_iff, ↓MemOk.putParts_iff, ↓MemOk.putRows_iff]
    | with_reducible refine MemOk.foldl _ (fun _ _ h => ?_) _ _ ?_
    | split
    | dsimp only

theorem MemOk.coldTail (s : State) (hm : s.MemOk) : State.MemOk (State.coldTail s) := by
  unfold State.coldTail
  repeat' first
    | done
    | with_reducible assumption
    | simp only [↓MemOk.ite_iff, ↓MemOk.enterService_iff, ↓MemOk.testSpares_iff]
    | with_reducible refine MemOk.initMemory _ ?_
    | with_reducible refine MemOk.selfTests _ ?_
    | with_reducible refine MemOk.trainStacks _ ?_
    | split
    | dsimp only

theorem MemOk.settleAll (s : State) (r : BootReport) (hm : s.MemOk) : State.MemOk (State.settleAll s r) := by
  unfold State.settleAll
  repeat' first
    | done
    | with_reducible assumption
    | simp only [↓MemOk.ite_iff, ↓MemOk.forgetDescs_iff, ↓MemOk.halt_iff, ↓MemOk.homeWrite_iff, ↓MemOk.hostDone_iff, ↓MemOk.modChan_iff, ↓MemOk.modStream_iff]
    | with_reducible refine MemOk.drainTo _ _ _ _ ?_
    | with_reducible refine MemOk.preserve _ _ _ _ ?_
    | with_reducible refine MemOk.writeBackSlot _ _ ?_
    | with_reducible refine MemOk.foldl _ (fun _ _ h => ?_) _ _ ?_
    | with_reducible refine MemOk.foldl_fst _ (fun _ _ h => ?_) _ _ ?_
    | split
    | dsimp only

theorem MemOk.loseTile (s : State) (t : Nat) (hm : s.MemOk) : State.MemOk (State.loseTile s t) := by
  unfold State.loseTile
  repeat' first
    | done
    | with_reducible assumption
    | simp only [↓MemOk.ite_iff, ↓MemOk.modPart_iff, ↓MemOk.modSlot_iff]
    | with_reducible refine MemOk.clearParcel _ _ ?_
    | with_reducible refine MemOk.foldl _ (fun _ _ h => ?_) _ _ ?_
    | split
    | dsimp only

theorem MemOk.preservedCheck (s : State) (t : Nat) (hm : s.MemOk) : State.MemOk (State.preservedCheck s t) := by
  unfold State.preservedCheck
  repeat' first
    | done
    | with_reducible assumption
    | simp only [↓MemOk.ite_iff]
    | with_reducible refine MemOk.decodeRow _ _ _ _ _ _ _ ?_
    | with_reducible refine MemOk.loseTile _ _ ?_
    | with_reducible refine MemOk.foldl _ (fun _ _ h => ?_) _ _ ?_
    | with_reducible refine MemOk.foldl_snd _ (fun _ _ h => ?_) _ _ ?_
    | split
    | dsimp only

theorem MemOk.warmTail (s : State) (hm : s.MemOk) : State.MemOk (State.warmTail s) := by
  unfold State.warmTail
  repeat' first
    | done
    | with_reducible assumption
    | simp only [↓MemOk.ite_iff, ↓MemOk.enterService_iff, ↓MemOk.putChans_iff, ↓MemOk.putStks_iff]
    | with_reducible refine MemOk.preservedCheck _ _ ?_
    | with_reducible refine MemOk.retireAll _ _ ?_
    | with_reducible refine MemOk.foldl _ (fun _ _ h => ?_) _ _ ?_
    | split
    | dsimp only

theorem MemOk.warmReset (s : State) (cause : Nat) (r : BootReport) (hm : s.MemOk) : State.MemOk (State.warmReset s cause r) := by
  unfold State.warmReset
  repeat' first
    | done
    | with_reducible assumption
    | simp only [↓MemOk.ite_iff, ↓MemOk.putBoot_iff, ↓MemOk.putPower_iff, ↓MemOk.resetHubs_iff, ↓MemOk.takeId_iff]
    | with_reducible refine MemOk.settleAll _ _ ?_
    | split
    | dsimp only

theorem MemOk.clockSettled (s : State) (t : Nat) (f : Hub → Hub) (hm : s.MemOk) : State.MemOk (State.clockSettled s t f) := by
  unfold State.clockSettled
  repeat' first
    | done
    | with_reducible assumption
    | simp only [↓MemOk.ite_iff, ↓MemOk.modHub_iff, ↓MemOk.putBoot_iff]
    | with_reducible refine MemOk.coldTail _ ?_
    | with_reducible refine MemOk.readStore _ ?_
    | with_reducible refine MemOk.warmTail _ ?_
    | split
    | dsimp only

theorem MemOk.overheat (s : State) (t : Nat) (c : Nat) (hm : s.MemOk) : State.MemOk (State.overheat s t c) := by
  unfold State.overheat
  repeat' first
    | done
    | with_reducible assumption
    | simp only [↓MemOk.ite_iff, ↓MemOk.bbox_iff, ↓MemOk.modHub_iff, ↓MemOk.putFree_iff]
    | with_reducible refine MemOk.unpowered _ ?_
    | with_reducible refine MemOk.foldl _ (fun _ _ h => ?_) _ _ ?_
    | split
    | dsimp only

theorem MemOk.runDesc (s : State) (k op : Nat) (f : Desc → DescRef → State → State)
    (hf : ∀ d r t, t.MemOk → (f d r t).MemOk) (hm : s.MemOk) : (s.runDesc k op f).MemOk := by
  have h1 : ∀ d, (s.startDesc k d).MemOk := fun d => (MemOk.keeps (Keeps.startDesc s k d) rfl rfl).2 hm
  unfold State.runDesc
  repeat' first
    | exact hm
    | exact (MemOk.keeps (Keeps.completeNow ..) rfl rfl).2 (h1 _)
    | exact hf _ _ _ (h1 _)
    | split

end Sys2Proof.Machine
end

