-- ==== Sys2Proof/Laws/State.lean ====
section
/-! SUPPORT. What each single-member update of the state leaves as it was, one lemma a field, by rfl. -/

namespace Sys2Proof.Machine

@[simp] theorem State.modSlot_pending (s : State) (k : Nat) (f : Slot → Slot) : (s.modSlot k f).pending = s.pending := rfl
@[simp] theorem State.modSlot_cyc (s : State) (k : Nat) (f : Slot → Slot) : (s.modSlot k f).cyc = s.cyc := rfl
@[simp] theorem State.modSlot_free (s : State) (k : Nat) (f : Slot → Slot) : (s.modSlot k f).free = s.free := rfl
@[simp] theorem State.modSlot_half (s : State) (k : Nat) (f : Slot → Slot) : (s.modSlot k f).half = s.half := rfl
@[simp] theorem State.modSlot_regs (s : State) (k : Nat) (f : Slot → Slot) : (s.modSlot k f).regs = s.regs := rfl
@[simp] theorem State.modSlot_boot (s : State) (k : Nat) (f : Slot → Slot) : (s.modSlot k f).boot = s.boot := rfl
@[simp] theorem State.modSlot_power (s : State) (k : Nat) (f : Slot → Slot) : (s.modSlot k f).power = s.power := rfl
@[simp] theorem State.modSlot_parcels (s : State) (k : Nat) (f : Slot → Slot) : (s.modSlot k f).parcels = s.parcels := rfl
@[simp] theorem State.modSlot_mem (s : State) (k : Nat) (f : Slot → Slot) : (s.modSlot k f).mem = s.mem := rfl
@[simp] theorem State.modSlot_pois (s : State) (k : Nat) (f : Slot → Slot) : (s.modSlot k f).pois = s.pois := rfl
@[simp] theorem State.modSlot_rows (s : State) (k : Nat) (f : Slot → Slot) : (s.modSlot k f).rows = s.rows := rfl
@[simp] theorem State.modSlot_bspares (s : State) (k : Nat) (f : Slot → Slot) : (s.modSlot k f).bspares = s.bspares := rfl
@[simp] theorem State.modSlot_stks (s : State) (k : Nat) (f : Slot → Slot) : (s.modSlot k f).stks = s.stks := rfl
@[simp] theorem State.modSlot_chans (s : State) (k : Nat) (f : Slot → Slot) : (s.modSlot k f).chans = s.chans := rfl
@[simp] theorem State.modSlot_nbus (s : State) (k : Nat) (f : Slot → Slot) : (s.modSlot k f).nbus = s.nbus := rfl
@[simp] theorem State.modSlot_crus (s : State) (k : Nat) (f : Slot → Slot) : (s.modSlot k f).crus = s.crus := rfl
@[simp] theorem State.modSlot_hubs (s : State) (k : Nat) (f : Slot → Slot) : (s.modSlot k f).hubs = s.hubs := rfl
@[simp] theorem State.modSlot_me (s : State) (k : Nat) (f : Slot → Slot) : (s.modSlot k f).me = s.me := rfl
@[simp] theorem State.modSlot_ve (s : State) (k : Nat) (f : Slot → Slot) : (s.modSlot k f).ve = s.ve := rfl
@[simp] theorem State.modSlot_vfiles (s : State) (k : Nat) (f : Slot → Slot) : (s.modSlot k f).vfiles = s.vfiles := rfl
@[simp] theorem State.modSlot_fe (s : State) (k : Nat) (f : Slot → Slot) : (s.modSlot k f).fe = s.fe := rfl
@[simp] theorem State.modSlot_sp (s : State) (k : Nat) (f : Slot → Slot) : (s.modSlot k f).sp = s.sp := rfl
@[simp] theorem State.modSlot_spPois (s : State) (k : Nat) (f : Slot → Slot) : (s.modSlot k f).spPois = s.spPois := rfl
@[simp] theorem State.modSlot_ctxs (s : State) (k : Nat) (f : Slot → Slot) : (s.modSlot k f).ctxs = s.ctxs := rfl
@[simp] theorem State.modSlot_parts (s : State) (k : Nat) (f : Slot → Slot) : (s.modSlot k f).parts = s.parts := rfl
@[simp] theorem State.modSlot_pages (s : State) (k : Nat) (f : Slot → Slot) : (s.modSlot k f).pages = s.pages := rfl
@[simp] theorem State.modSlot_streams (s : State) (k : Nat) (f : Slot → Slot) : (s.modSlot k f).streams = s.streams := rfl
@[simp] theorem State.modSlot_ports (s : State) (k : Nat) (f : Slot → Slot) : (s.modSlot k f).ports = s.ports := rfl
@[simp] theorem State.modSlot_dirs (s : State) (k : Nat) (f : Slot → Slot) : (s.modSlot k f).dirs = s.dirs := rfl
@[simp] theorem State.modSlot_lines (s : State) (k : Nat) (f : Slot → Slot) : (s.modSlot k f).lines = s.lines := rfl
@[simp] theorem State.modSlot_trans (s : State) (k : Nat) (f : Slot → Slot) : (s.modSlot k f).trans = s.trans := rfl
@[simp] theorem State.modSlot_lands (s : State) (k : Nat) (f : Slot → Slot) : (s.modSlot k f).lands = s.lands := rfl
@[simp] theorem State.modSlot_xacts (s : State) (k : Nat) (f : Slot → Slot) : (s.modSlot k f).xacts = s.xacts := rfl
@[simp] theorem State.modSlot_routes (s : State) (k : Nat) (f : Slot → Slot) : (s.modSlot k f).routes = s.routes := rfl
@[simp] theorem State.modSlot_admits (s : State) (k : Nat) (f : Slot → Slot) : (s.modSlot k f).admits = s.admits := rfl
@[simp] theorem State.modSlot_groups (s : State) (k : Nat) (f : Slot → Slot) : (s.modSlot k f).groups = s.groups := rfl
@[simp] theorem State.modSlot_fw (s : State) (k : Nat) (f : Slot → Slot) : (s.modSlot k f).fw = s.fw := rfl
@[simp] theorem State.modSlot_logs (s : State) (k : Nat) (f : Slot → Slot) : (s.modSlot k f).logs = s.logs := rfl
@[simp] theorem State.modSlot_pm (s : State) (k : Nat) (f : Slot → Slot) : (s.modSlot k f).pm = s.pm := rfl
@[simp] theorem State.modSlot_tmap (s : State) (k : Nat) (f : Slot → Slot) : (s.modSlot k f).tmap = s.tmap := rfl
@[simp] theorem State.modSlot_act (s : State) (k : Nat) (f : Slot → Slot) : (s.modSlot k f).act = s.act := rfl
@[simp] theorem State.modSlot_out (s : State) (k : Nat) (f : Slot → Slot) : (s.modSlot k f).out = s.out := rfl
@[simp] theorem State.slot_modSlot (s : State) (k : Nat) (f : Slot → Slot) : (s.modSlot k f).slot k = f (s.slot k) := by
  simp [State.slot, State.modSlot, Tab.get_upd_same]
theorem State.slot_modSlot_ne (s : State) (k j : Nat) (f : Slot → Slot) (h : j ≠ k) : (s.modSlot k f).slot j = s.slot j := by
  simp [State.slot, State.modSlot, Tab.get_upd_ne _ _ _ _ _ h]
@[simp] theorem State.modSlot_members (s : State) (k : Nat) (f : Slot → Slot) :
    (∀ j, (s.modSlot k f).parcel j = s.parcel j) ∧
    (∀ j, (s.modSlot k f).memByte j = s.memByte j) ∧
    (∀ j, (s.modSlot k f).colBad j = s.colBad j) ∧
    (∀ j, (s.modSlot k f).row j = s.row j) ∧
    (∀ j, (s.modSlot k f).bspare j = s.bspare j) ∧
    (∀ j, (s.modSlot k f).stack j = s.stack j) ∧
    (∀ j, (s.modSlot k f).chan j = s.chan j) ∧
    (∀ j, (s.modSlot k f).nbu j = s.nbu j) ∧
    (∀ j, (s.modSlot k f).cru j = s.cru j) ∧
    (∀ j, (s.modSlot k f).hub j = s.hub j) ∧
    (∀ j, (s.modSlot k f).mat j = s.mat j) ∧
    (∀ j, (s.modSlot k f).vec j = s.vec j) ∧
    (∀ j, (s.modSlot k f).vfile j = s.vfile j) ∧
    (∀ j, (s.modSlot k f).fchan j = s.fchan j) ∧
    (∀ j, (s.modSlot k f).spByte j = s.spByte j) ∧
    (∀ j, (s.modSlot k f).spBad j = s.spBad j) ∧
    (∀ j, (s.modSlot k f).ctx j = s.ctx j) ∧
    (∀ j, (s.modSlot k f).part j = s.part j) ∧
    (∀ j, (s.modSlot k f).page j = s.page j) ∧
    (∀ j, (s.modSlot k f).stream j = s.stream j) ∧
    (∀ j, (s.modSlot k f).hport j = s.hport j) ∧
    (∀ j, (s.modSlot k f).dir j = s.dir j) ∧
    (∀ j, (s.modSlot k f).tran j = s.tran j) ∧
    (∀ j, (s.modSlot k f).landing j = s.landing j) ∧
    (∀ j, (s.modSlot k f).route j = s.route j) ∧
    (∀ j, (s.modSlot k f).admission j = s.admission j) ∧
    (∀ j, (s.modSlot k f).group j = s.group j) ∧
    (∀ j, (s.modSlot k f).counter j = s.counter j) := by
  and_intros <;> exact fun _ => rfl
@[simp] theorem State.modParcel_pending (s : State) (k : Nat) (f : Parcel → Parcel) : (s.modParcel k f).pending = s.pending := rfl
@[simp] theorem State.modParcel_cyc (s : State) (k : Nat) (f : Parcel → Parcel) : (s.modParcel k f).cyc = s.cyc := rfl
@[simp] theorem State.modParcel_free (s : State) (k : Nat) (f : Parcel → Parcel) : (s.modParcel k f).free = s.free := rfl
@[simp] theorem State.modParcel_half (s : State) (k : Nat) (f : Parcel → Parcel) : (s.modParcel k f).half = s.half := rfl
@[simp] theorem State.modParcel_regs (s : State) (k : Nat) (f : Parcel → Parcel) : (s.modParcel k f).regs = s.regs := rfl
@[simp] theorem State.modParcel_boot (s : State) (k : Nat) (f : Parcel → Parcel) : (s.modParcel k f).boot = s.boot := rfl
@[simp] theorem State.modParcel_power (s : State) (k : Nat) (f : Parcel → Parcel) : (s.modParcel k f).power = s.power := rfl
@[simp] theorem State.modParcel_slots (s : State) (k : Nat) (f : Parcel → Parcel) : (s.modParcel k f).slots = s.slots := rfl
@[simp] theorem State.modParcel_mem (s : State) (k : Nat) (f : Parcel → Parcel) : (s.modParcel k f).mem = s.mem := rfl
@[simp] theorem State.modParcel_pois (s : State) (k : Nat) (f : Parcel → Parcel) : (s.modParcel k f).pois = s.pois := rfl
@[simp] theorem State.modParcel_rows (s : State) (k : Nat) (f : Parcel → Parcel) : (s.modParcel k f).rows = s.rows := rfl
@[simp] theorem State.modParcel_bspares (s : State) (k : Nat) (f : Parcel → Parcel) : (s.modParcel k f).bspares = s.bspares := rfl
@[simp] theorem State.modParcel_stks (s : State) (k : Nat) (f : Parcel → Parcel) : (s.modParcel k f).stks = s.stks := rfl
@[simp] theorem State.modParcel_chans (s : State) (k : Nat) (f : Parcel → Parcel) : (s.modParcel k f).chans = s.chans := rfl
@[simp] theorem State.modParcel_nbus (s : State) (k : Nat) (f : Parcel → Parcel) : (s.modParcel k f).nbus = s.nbus := rfl
@[simp] theorem State.modParcel_crus (s : State) (k : Nat) (f : Parcel → Parcel) : (s.modParcel k f).crus = s.crus := rfl
@[simp] theorem State.modParcel_hubs (s : State) (k : Nat) (f : Parcel → Parcel) : (s.modParcel k f).hubs = s.hubs := rfl
@[simp] theorem State.modParcel_me (s : State) (k : Nat) (f : Parcel → Parcel) : (s.modParcel k f).me = s.me := rfl
@[simp] theorem State.modParcel_ve (s : State) (k : Nat) (f : Parcel → Parcel) : (s.modParcel k f).ve = s.ve := rfl
@[simp] theorem State.modParcel_vfiles (s : State) (k : Nat) (f : Parcel → Parcel) : (s.modParcel k f).vfiles = s.vfiles := rfl
@[simp] theorem State.modParcel_fe (s : State) (k : Nat) (f : Parcel → Parcel) : (s.modParcel k f).fe = s.fe := rfl
@[simp] theorem State.modParcel_sp (s : State) (k : Nat) (f : Parcel → Parcel) : (s.modParcel k f).sp = s.sp := rfl
@[simp] theorem State.modParcel_spPois (s : State) (k : Nat) (f : Parcel → Parcel) : (s.modParcel k f).spPois = s.spPois := rfl
@[simp] theorem State.modParcel_ctxs (s : State) (k : Nat) (f : Parcel → Parcel) : (s.modParcel k f).ctxs = s.ctxs := rfl
@[simp] theorem State.modParcel_parts (s : State) (k : Nat) (f : Parcel → Parcel) : (s.modParcel k f).parts = s.parts := rfl
@[simp] theorem State.modParcel_pages (s : State) (k : Nat) (f : Parcel → Parcel) : (s.modParcel k f).pages = s.pages := rfl
@[simp] theorem State.modParcel_streams (s : State) (k : Nat) (f : Parcel → Parcel) : (s.modParcel k f).streams = s.streams := rfl
@[simp] theorem State.modParcel_ports (s : State) (k : Nat) (f : Parcel → Parcel) : (s.modParcel k f).ports = s.ports := rfl
@[simp] theorem State.modParcel_dirs (s : State) (k : Nat) (f : Parcel → Parcel) : (s.modParcel k f).dirs = s.dirs := rfl
@[simp] theorem State.modParcel_lines (s : State) (k : Nat) (f : Parcel → Parcel) : (s.modParcel k f).lines = s.lines := rfl
@[simp] theorem State.modParcel_trans (s : State) (k : Nat) (f : Parcel → Parcel) : (s.modParcel k f).trans = s.trans := rfl
@[simp] theorem State.modParcel_lands (s : State) (k : Nat) (f : Parcel → Parcel) : (s.modParcel k f).lands = s.lands := rfl
@[simp] theorem State.modParcel_xacts (s : State) (k : Nat) (f : Parcel → Parcel) : (s.modParcel k f).xacts = s.xacts := rfl
@[simp] theorem State.modParcel_routes (s : State) (k : Nat) (f : Parcel → Parcel) : (s.modParcel k f).routes = s.routes := rfl
@[simp] theorem State.modParcel_admits (s : State) (k : Nat) (f : Parcel → Parcel) : (s.modParcel k f).admits = s.admits := rfl
@[simp] theorem State.modParcel_groups (s : State) (k : Nat) (f : Parcel → Parcel) : (s.modParcel k f).groups = s.groups := rfl
@[simp] theorem State.modParcel_fw (s : State) (k : Nat) (f : Parcel → Parcel) : (s.modParcel k f).fw = s.fw := rfl
@[simp] theorem State.modParcel_logs (s : State) (k : Nat) (f : Parcel → Parcel) : (s.modParcel k f).logs = s.logs := rfl
@[simp] theorem State.modParcel_pm (s : State) (k : Nat) (f : Parcel → Parcel) : (s.modParcel k f).pm = s.pm := rfl
@[simp] theorem State.modParcel_tmap (s : State) (k : Nat) (f : Parcel → Parcel) : (s.modParcel k f).tmap = s.tmap := rfl
@[simp] theorem State.modParcel_act (s : State) (k : Nat) (f : Parcel → Parcel) : (s.modParcel k f).act = s.act := rfl
@[simp] theorem State.modParcel_out (s : State) (k : Nat) (f : Parcel → Parcel) : (s.modParcel k f).out = s.out := rfl
@[simp] theorem State.parcel_modParcel (s : State) (k : Nat) (f : Parcel → Parcel) : (s.modParcel k f).parcel k = f (s.parcel k) := by
  simp [State.parcel, State.modParcel, Tab.get_upd_same]
theorem State.parcel_modParcel_ne (s : State) (k j : Nat) (f : Parcel → Parcel) (h : j ≠ k) : (s.modParcel k f).parcel j = s.parcel j := by
  simp [State.parcel, State.modParcel, Tab.get_upd_ne _ _ _ _ _ h]
@[simp] theorem State.modParcel_members (s : State) (k : Nat) (f : Parcel → Parcel) :
    (∀ j, (s.modParcel k f).slot j = s.slot j) ∧
    (∀ j, (s.modParcel k f).memByte j = s.memByte j) ∧
    (∀ j, (s.modParcel k f).colBad j = s.colBad j) ∧
    (∀ j, (s.modParcel k f).row j = s.row j) ∧
    (∀ j, (s.modParcel k f).bspare j = s.bspare j) ∧
    (∀ j, (s.modParcel k f).stack j = s.stack j) ∧
    (∀ j, (s.modParcel k f).chan j = s.chan j) ∧
    (∀ j, (s.modParcel k f).nbu j = s.nbu j) ∧
    (∀ j, (s.modParcel k f).cru j = s.cru j) ∧
    (∀ j, (s.modParcel k f).hub j = s.hub j) ∧
    (∀ j, (s.modParcel k f).mat j = s.mat j) ∧
    (∀ j, (s.modParcel k f).vec j = s.vec j) ∧
    (∀ j, (s.modParcel k f).vfile j = s.vfile j) ∧
    (∀ j, (s.modParcel k f).fchan j = s.fchan j) ∧
    (∀ j, (s.modParcel k f).spByte j = s.spByte j) ∧
    (∀ j, (s.modParcel k f).spBad j = s.spBad j) ∧
    (∀ j, (s.modParcel k f).ctx j = s.ctx j) ∧
    (∀ j, (s.modParcel k f).part j = s.part j) ∧
    (∀ j, (s.modParcel k f).page j = s.page j) ∧
    (∀ j, (s.modParcel k f).stream j = s.stream j) ∧
    (∀ j, (s.modParcel k f).hport j = s.hport j) ∧
    (∀ j, (s.modParcel k f).dir j = s.dir j) ∧
    (∀ j, (s.modParcel k f).tran j = s.tran j) ∧
    (∀ j, (s.modParcel k f).landing j = s.landing j) ∧
    (∀ j, (s.modParcel k f).route j = s.route j) ∧
    (∀ j, (s.modParcel k f).admission j = s.admission j) ∧
    (∀ j, (s.modParcel k f).group j = s.group j) ∧
    (∀ j, (s.modParcel k f).counter j = s.counter j) := by
  and_intros <;> exact fun _ => rfl
@[simp] theorem State.modMemByte_pending (s : State) (k : Nat) (f : (BitVec 8) → (BitVec 8)) : (s.modMemByte k f).pending = s.pending := rfl
@[simp] theorem State.modMemByte_cyc (s : State) (k : Nat) (f : (BitVec 8) → (BitVec 8)) : (s.modMemByte k f).cyc = s.cyc := rfl
@[simp] theorem State.modMemByte_free (s : State) (k : Nat) (f : (BitVec 8) → (BitVec 8)) : (s.modMemByte k f).free = s.free := rfl
@[simp] theorem State.modMemByte_half (s : State) (k : Nat) (f : (BitVec 8) → (BitVec 8)) : (s.modMemByte k f).half = s.half := rfl
@[simp] theorem State.modMemByte_regs (s : State) (k : Nat) (f : (BitVec 8) → (BitVec 8)) : (s.modMemByte k f).regs = s.regs := rfl
@[simp] theorem State.modMemByte_boot (s : State) (k : Nat) (f : (BitVec 8) → (BitVec 8)) : (s.modMemByte k f).boot = s.boot := rfl
@[simp] theorem State.modMemByte_power (s : State) (k : Nat) (f : (BitVec 8) → (BitVec 8)) : (s.modMemByte k f).power = s.power := rfl
@[simp] theorem State.modMemByte_slots (s : State) (k : Nat) (f : (BitVec 8) → (BitVec 8)) : (s.modMemByte k f).slots = s.slots := rfl
@[simp] theorem State.modMemByte_parcels (s : State) (k : Nat) (f : (BitVec 8) → (BitVec 8)) : (s.modMemByte k f).parcels = s.parcels := rfl
@[simp] theorem State.modMemByte_pois (s : State) (k : Nat) (f : (BitVec 8) → (BitVec 8)) : (s.modMemByte k f).pois = s.pois := rfl
@[simp] theorem State.modMemByte_rows (s : State) (k : Nat) (f : (BitVec 8) → (BitVec 8)) : (s.modMemByte k f).rows = s.rows := rfl
@[simp] theorem State.modMemByte_bspares (s : State) (k : Nat) (f : (BitVec 8) → (BitVec 8)) : (s.modMemByte k f).bspares = s.bspares := rfl
@[simp] theorem State.modMemByte_stks (s : State) (k : Nat) (f : (BitVec 8) → (BitVec 8)) : (s.modMemByte k f).stks = s.stks := rfl
@[simp] theorem State.modMemByte_chans (s : State) (k : Nat) (f : (BitVec 8) → (BitVec 8)) : (s.modMemByte k f).chans = s.chans := rfl
@[simp] theorem State.modMemByte_nbus (s : State) (k : Nat) (f : (BitVec 8) → (BitVec 8)) : (s.modMemByte k f).nbus = s.nbus := rfl
@[simp] theorem State.modMemByte_crus (s : State) (k : Nat) (f : (BitVec 8) → (BitVec 8)) : (s.modMemByte k f).crus = s.crus := rfl
@[simp] theorem State.modMemByte_hubs (s : State) (k : Nat) (f : (BitVec 8) → (BitVec 8)) : (s.modMemByte k f).hubs = s.hubs := rfl
@[simp] theorem State.modMemByte_me (s : State) (k : Nat) (f : (BitVec 8) → (BitVec 8)) : (s.modMemByte k f).me = s.me := rfl
@[simp] theorem State.modMemByte_ve (s : State) (k : Nat) (f : (BitVec 8) → (BitVec 8)) : (s.modMemByte k f).ve = s.ve := rfl
@[simp] theorem State.modMemByte_vfiles (s : State) (k : Nat) (f : (BitVec 8) → (BitVec 8)) : (s.modMemByte k f).vfiles = s.vfiles := rfl
@[simp] theorem State.modMemByte_fe (s : State) (k : Nat) (f : (BitVec 8) → (BitVec 8)) : (s.modMemByte k f).fe = s.fe := rfl
@[simp] theorem State.modMemByte_sp (s : State) (k : Nat) (f : (BitVec 8) → (BitVec 8)) : (s.modMemByte k f).sp = s.sp := rfl
@[simp] theorem State.modMemByte_spPois (s : State) (k : Nat) (f : (BitVec 8) → (BitVec 8)) : (s.modMemByte k f).spPois = s.spPois := rfl
@[simp] theorem State.modMemByte_ctxs (s : State) (k : Nat) (f : (BitVec 8) → (BitVec 8)) : (s.modMemByte k f).ctxs = s.ctxs := rfl
@[simp] theorem State.modMemByte_parts (s : State) (k : Nat) (f : (BitVec 8) → (BitVec 8)) : (s.modMemByte k f).parts = s.parts := rfl
@[simp] theorem State.modMemByte_pages (s : State) (k : Nat) (f : (BitVec 8) → (BitVec 8)) : (s.modMemByte k f).pages = s.pages := rfl
@[simp] theorem State.modMemByte_streams (s : State) (k : Nat) (f : (BitVec 8) → (BitVec 8)) : (s.modMemByte k f).streams = s.streams := rfl
@[simp] theorem State.modMemByte_ports (s : State) (k : Nat) (f : (BitVec 8) → (BitVec 8)) : (s.modMemByte k f).ports = s.ports := rfl
@[simp] theorem State.modMemByte_dirs (s : State) (k : Nat) (f : (BitVec 8) → (BitVec 8)) : (s.modMemByte k f).dirs = s.dirs := rfl
@[simp] theorem State.modMemByte_lines (s : State) (k : Nat) (f : (BitVec 8) → (BitVec 8)) : (s.modMemByte k f).lines = s.lines := rfl
@[simp] theorem State.modMemByte_trans (s : State) (k : Nat) (f : (BitVec 8) → (BitVec 8)) : (s.modMemByte k f).trans = s.trans := rfl
@[simp] theorem State.modMemByte_lands (s : State) (k : Nat) (f : (BitVec 8) → (BitVec 8)) : (s.modMemByte k f).lands = s.lands := rfl
@[simp] theorem State.modMemByte_xacts (s : State) (k : Nat) (f : (BitVec 8) → (BitVec 8)) : (s.modMemByte k f).xacts = s.xacts := rfl
@[simp] theorem State.modMemByte_routes (s : State) (k : Nat) (f : (BitVec 8) → (BitVec 8)) : (s.modMemByte k f).routes = s.routes := rfl
@[simp] theorem State.modMemByte_admits (s : State) (k : Nat) (f : (BitVec 8) → (BitVec 8)) : (s.modMemByte k f).admits = s.admits := rfl
@[simp] theorem State.modMemByte_groups (s : State) (k : Nat) (f : (BitVec 8) → (BitVec 8)) : (s.modMemByte k f).groups = s.groups := rfl
@[simp] theorem State.modMemByte_fw (s : State) (k : Nat) (f : (BitVec 8) → (BitVec 8)) : (s.modMemByte k f).fw = s.fw := rfl
@[simp] theorem State.modMemByte_logs (s : State) (k : Nat) (f : (BitVec 8) → (BitVec 8)) : (s.modMemByte k f).logs = s.logs := rfl
@[simp] theorem State.modMemByte_pm (s : State) (k : Nat) (f : (BitVec 8) → (BitVec 8)) : (s.modMemByte k f).pm = s.pm := rfl
@[simp] theorem State.modMemByte_tmap (s : State) (k : Nat) (f : (BitVec 8) → (BitVec 8)) : (s.modMemByte k f).tmap = s.tmap := rfl
@[simp] theorem State.modMemByte_act (s : State) (k : Nat) (f : (BitVec 8) → (BitVec 8)) : (s.modMemByte k f).act = s.act := rfl
@[simp] theorem State.modMemByte_out (s : State) (k : Nat) (f : (BitVec 8) → (BitVec 8)) : (s.modMemByte k f).out = s.out := rfl
@[simp] theorem State.memByte_modMemByte (s : State) (k : Nat) (f : (BitVec 8) → (BitVec 8)) : (s.modMemByte k f).memByte k = f (s.memByte k) := by
  simp [State.memByte, State.modMemByte, Tab.get_upd_same]
theorem State.memByte_modMemByte_ne (s : State) (k j : Nat) (f : (BitVec 8) → (BitVec 8)) (h : j ≠ k) : (s.modMemByte k f).memByte j = s.memByte j := by
  simp [State.memByte, State.modMemByte, Tab.get_upd_ne _ _ _ _ _ h]
@[simp] theorem State.modMemByte_members (s : State) (k : Nat) (f : (BitVec 8) → (BitVec 8)) :
    (∀ j, (s.modMemByte k f).slot j = s.slot j) ∧
    (∀ j, (s.modMemByte k f).parcel j = s.parcel j) ∧
    (∀ j, (s.modMemByte k f).colBad j = s.colBad j) ∧
    (∀ j, (s.modMemByte k f).row j = s.row j) ∧
    (∀ j, (s.modMemByte k f).bspare j = s.bspare j) ∧
    (∀ j, (s.modMemByte k f).stack j = s.stack j) ∧
    (∀ j, (s.modMemByte k f).chan j = s.chan j) ∧
    (∀ j, (s.modMemByte k f).nbu j = s.nbu j) ∧
    (∀ j, (s.modMemByte k f).cru j = s.cru j) ∧
    (∀ j, (s.modMemByte k f).hub j = s.hub j) ∧
    (∀ j, (s.modMemByte k f).mat j = s.mat j) ∧
    (∀ j, (s.modMemByte k f).vec j = s.vec j) ∧
    (∀ j, (s.modMemByte k f).vfile j = s.vfile j) ∧
    (∀ j, (s.modMemByte k f).fchan j = s.fchan j) ∧
    (∀ j, (s.modMemByte k f).spByte j = s.spByte j) ∧
    (∀ j, (s.modMemByte k f).spBad j = s.spBad j) ∧
    (∀ j, (s.modMemByte k f).ctx j = s.ctx j) ∧
    (∀ j, (s.modMemByte k f).part j = s.part j) ∧
    (∀ j, (s.modMemByte k f).page j = s.page j) ∧
    (∀ j, (s.modMemByte k f).stream j = s.stream j) ∧
    (∀ j, (s.modMemByte k f).hport j = s.hport j) ∧
    (∀ j, (s.modMemByte k f).dir j = s.dir j) ∧
    (∀ j, (s.modMemByte k f).tran j = s.tran j) ∧
    (∀ j, (s.modMemByte k f).landing j = s.landing j) ∧
    (∀ j, (s.modMemByte k f).route j = s.route j) ∧
    (∀ j, (s.modMemByte k f).admission j = s.admission j) ∧
    (∀ j, (s.modMemByte k f).group j = s.group j) ∧
    (∀ j, (s.modMemByte k f).counter j = s.counter j) := by
  and_intros <;> exact fun _ => rfl
@[simp] theorem State.modColBad_pending (s : State) (k : Nat) (f : Bool → Bool) : (s.modColBad k f).pending = s.pending := rfl
@[simp] theorem State.modColBad_cyc (s : State) (k : Nat) (f : Bool → Bool) : (s.modColBad k f).cyc = s.cyc := rfl
@[simp] theorem State.modColBad_free (s : State) (k : Nat) (f : Bool → Bool) : (s.modColBad k f).free = s.free := rfl
@[simp] theorem State.modColBad_half (s : State) (k : Nat) (f : Bool → Bool) : (s.modColBad k f).half = s.half := rfl
@[simp] theorem State.modColBad_regs (s : State) (k : Nat) (f : Bool → Bool) : (s.modColBad k f).regs = s.regs := rfl
@[simp] theorem State.modColBad_boot (s : State) (k : Nat) (f : Bool → Bool) : (s.modColBad k f).boot = s.boot := rfl
@[simp] theorem State.modColBad_power (s : State) (k : Nat) (f : Bool → Bool) : (s.modColBad k f).power = s.power := rfl
@[simp] theorem State.modColBad_slots (s : State) (k : Nat) (f : Bool → Bool) : (s.modColBad k f).slots = s.slots := rfl
@[simp] theorem State.modColBad_parcels (s : State) (k : Nat) (f : Bool → Bool) : (s.modColBad k f).parcels = s.parcels := rfl
@[simp] theorem State.modColBad_mem (s : State) (k : Nat) (f : Bool → Bool) : (s.modColBad k f).mem = s.mem := rfl
@[simp] theorem State.modColBad_rows (s : State) (k : Nat) (f : Bool → Bool) : (s.modColBad k f).rows = s.rows := rfl
@[simp] theorem State.modColBad_bspares (s : State) (k : Nat) (f : Bool → Bool) : (s.modColBad k f).bspares = s.bspares := rfl
@[simp] theorem State.modColBad_stks (s : State) (k : Nat) (f : Bool → Bool) : (s.modColBad k f).stks = s.stks := rfl
@[simp] theorem State.modColBad_chans (s : State) (k : Nat) (f : Bool → Bool) : (s.modColBad k f).chans = s.chans := rfl
@[simp] theorem State.modColBad_nbus (s : State) (k : Nat) (f : Bool → Bool) : (s.modColBad k f).nbus = s.nbus := rfl
@[simp] theorem State.modColBad_crus (s : State) (k : Nat) (f : Bool → Bool) : (s.modColBad k f).crus = s.crus := rfl
@[simp] theorem State.modColBad_hubs (s : State) (k : Nat) (f : Bool → Bool) : (s.modColBad k f).hubs = s.hubs := rfl
@[simp] theorem State.modColBad_me (s : State) (k : Nat) (f : Bool → Bool) : (s.modColBad k f).me = s.me := rfl
@[simp] theorem State.modColBad_ve (s : State) (k : Nat) (f : Bool → Bool) : (s.modColBad k f).ve = s.ve := rfl
@[simp] theorem State.modColBad_vfiles (s : State) (k : Nat) (f : Bool → Bool) : (s.modColBad k f).vfiles = s.vfiles := rfl
@[simp] theorem State.modColBad_fe (s : State) (k : Nat) (f : Bool → Bool) : (s.modColBad k f).fe = s.fe := rfl
@[simp] theorem State.modColBad_sp (s : State) (k : Nat) (f : Bool → Bool) : (s.modColBad k f).sp = s.sp := rfl
@[simp] theorem State.modColBad_spPois (s : State) (k : Nat) (f : Bool → Bool) : (s.modColBad k f).spPois = s.spPois := rfl
@[simp] theorem State.modColBad_ctxs (s : State) (k : Nat) (f : Bool → Bool) : (s.modColBad k f).ctxs = s.ctxs := rfl
@[simp] theorem State.modColBad_parts (s : State) (k : Nat) (f : Bool → Bool) : (s.modColBad k f).parts = s.parts := rfl
@[simp] theorem State.modColBad_pages (s : State) (k : Nat) (f : Bool → Bool) : (s.modColBad k f).pages = s.pages := rfl
@[simp] theorem State.modColBad_streams (s : State) (k : Nat) (f : Bool → Bool) : (s.modColBad k f).streams = s.streams := rfl
@[simp] theorem State.modColBad_ports (s : State) (k : Nat) (f : Bool → Bool) : (s.modColBad k f).ports = s.ports := rfl
@[simp] theorem State.modColBad_dirs (s : State) (k : Nat) (f : Bool → Bool) : (s.modColBad k f).dirs = s.dirs := rfl
@[simp] theorem State.modColBad_lines (s : State) (k : Nat) (f : Bool → Bool) : (s.modColBad k f).lines = s.lines := rfl
@[simp] theorem State.modColBad_trans (s : State) (k : Nat) (f : Bool → Bool) : (s.modColBad k f).trans = s.trans := rfl
@[simp] theorem State.modColBad_lands (s : State) (k : Nat) (f : Bool → Bool) : (s.modColBad k f).lands = s.lands := rfl
@[simp] theorem State.modColBad_xacts (s : State) (k : Nat) (f : Bool → Bool) : (s.modColBad k f).xacts = s.xacts := rfl
@[simp] theorem State.modColBad_routes (s : State) (k : Nat) (f : Bool → Bool) : (s.modColBad k f).routes = s.routes := rfl
@[simp] theorem State.modColBad_admits (s : State) (k : Nat) (f : Bool → Bool) : (s.modColBad k f).admits = s.admits := rfl
@[simp] theorem State.modColBad_groups (s : State) (k : Nat) (f : Bool → Bool) : (s.modColBad k f).groups = s.groups := rfl
@[simp] theorem State.modColBad_fw (s : State) (k : Nat) (f : Bool → Bool) : (s.modColBad k f).fw = s.fw := rfl
@[simp] theorem State.modColBad_logs (s : State) (k : Nat) (f : Bool → Bool) : (s.modColBad k f).logs = s.logs := rfl
@[simp] theorem State.modColBad_pm (s : State) (k : Nat) (f : Bool → Bool) : (s.modColBad k f).pm = s.pm := rfl
@[simp] theorem State.modColBad_tmap (s : State) (k : Nat) (f : Bool → Bool) : (s.modColBad k f).tmap = s.tmap := rfl
@[simp] theorem State.modColBad_act (s : State) (k : Nat) (f : Bool → Bool) : (s.modColBad k f).act = s.act := rfl
@[simp] theorem State.modColBad_out (s : State) (k : Nat) (f : Bool → Bool) : (s.modColBad k f).out = s.out := rfl
@[simp] theorem State.colBad_modColBad (s : State) (k : Nat) (f : Bool → Bool) : (s.modColBad k f).colBad k = f (s.colBad k) := by
  simp [State.colBad, State.modColBad, Tab.get_upd_same]
theorem State.colBad_modColBad_ne (s : State) (k j : Nat) (f : Bool → Bool) (h : j ≠ k) : (s.modColBad k f).colBad j = s.colBad j := by
  simp [State.colBad, State.modColBad, Tab.get_upd_ne _ _ _ _ _ h]
@[simp] theorem State.modColBad_members (s : State) (k : Nat) (f : Bool → Bool) :
    (∀ j, (s.modColBad k f).slot j = s.slot j) ∧
    (∀ j, (s.modColBad k f).parcel j = s.parcel j) ∧
    (∀ j, (s.modColBad k f).memByte j = s.memByte j) ∧
    (∀ j, (s.modColBad k f).row j = s.row j) ∧
    (∀ j, (s.modColBad k f).bspare j = s.bspare j) ∧
    (∀ j, (s.modColBad k f).stack j = s.stack j) ∧
    (∀ j, (s.modColBad k f).chan j = s.chan j) ∧
    (∀ j, (s.modColBad k f).nbu j = s.nbu j) ∧
    (∀ j, (s.modColBad k f).cru j = s.cru j) ∧
    (∀ j, (s.modColBad k f).hub j = s.hub j) ∧
    (∀ j, (s.modColBad k f).mat j = s.mat j) ∧
    (∀ j, (s.modColBad k f).vec j = s.vec j) ∧
    (∀ j, (s.modColBad k f).vfile j = s.vfile j) ∧
    (∀ j, (s.modColBad k f).fchan j = s.fchan j) ∧
    (∀ j, (s.modColBad k f).spByte j = s.spByte j) ∧
    (∀ j, (s.modColBad k f).spBad j = s.spBad j) ∧
    (∀ j, (s.modColBad k f).ctx j = s.ctx j) ∧
    (∀ j, (s.modColBad k f).part j = s.part j) ∧
    (∀ j, (s.modColBad k f).page j = s.page j) ∧
    (∀ j, (s.modColBad k f).stream j = s.stream j) ∧
    (∀ j, (s.modColBad k f).hport j = s.hport j) ∧
    (∀ j, (s.modColBad k f).dir j = s.dir j) ∧
    (∀ j, (s.modColBad k f).tran j = s.tran j) ∧
    (∀ j, (s.modColBad k f).landing j = s.landing j) ∧
    (∀ j, (s.modColBad k f).route j = s.route j) ∧
    (∀ j, (s.modColBad k f).admission j = s.admission j) ∧
    (∀ j, (s.modColBad k f).group j = s.group j) ∧
    (∀ j, (s.modColBad k f).counter j = s.counter j) := by
  and_intros <;> exact fun _ => rfl
@[simp] theorem State.modRow_pending (s : State) (k : Nat) (f : RowMeta → RowMeta) : (s.modRow k f).pending = s.pending := rfl
@[simp] theorem State.modRow_cyc (s : State) (k : Nat) (f : RowMeta → RowMeta) : (s.modRow k f).cyc = s.cyc := rfl
@[simp] theorem State.modRow_free (s : State) (k : Nat) (f : RowMeta → RowMeta) : (s.modRow k f).free = s.free := rfl
@[simp] theorem State.modRow_half (s : State) (k : Nat) (f : RowMeta → RowMeta) : (s.modRow k f).half = s.half := rfl
@[simp] theorem State.modRow_regs (s : State) (k : Nat) (f : RowMeta → RowMeta) : (s.modRow k f).regs = s.regs := rfl
@[simp] theorem State.modRow_boot (s : State) (k : Nat) (f : RowMeta → RowMeta) : (s.modRow k f).boot = s.boot := rfl
@[simp] theorem State.modRow_power (s : State) (k : Nat) (f : RowMeta → RowMeta) : (s.modRow k f).power = s.power := rfl
@[simp] theorem State.modRow_slots (s : State) (k : Nat) (f : RowMeta → RowMeta) : (s.modRow k f).slots = s.slots := rfl
@[simp] theorem State.modRow_parcels (s : State) (k : Nat) (f : RowMeta → RowMeta) : (s.modRow k f).parcels = s.parcels := rfl
@[simp] theorem State.modRow_mem (s : State) (k : Nat) (f : RowMeta → RowMeta) : (s.modRow k f).mem = s.mem := rfl
@[simp] theorem State.modRow_pois (s : State) (k : Nat) (f : RowMeta → RowMeta) : (s.modRow k f).pois = s.pois := rfl
@[simp] theorem State.modRow_bspares (s : State) (k : Nat) (f : RowMeta → RowMeta) : (s.modRow k f).bspares = s.bspares := rfl
@[simp] theorem State.modRow_stks (s : State) (k : Nat) (f : RowMeta → RowMeta) : (s.modRow k f).stks = s.stks := rfl
@[simp] theorem State.modRow_chans (s : State) (k : Nat) (f : RowMeta → RowMeta) : (s.modRow k f).chans = s.chans := rfl
@[simp] theorem State.modRow_nbus (s : State) (k : Nat) (f : RowMeta → RowMeta) : (s.modRow k f).nbus = s.nbus := rfl
@[simp] theorem State.modRow_crus (s : State) (k : Nat) (f : RowMeta → RowMeta) : (s.modRow k f).crus = s.crus := rfl
@[simp] theorem State.modRow_hubs (s : State) (k : Nat) (f : RowMeta → RowMeta) : (s.modRow k f).hubs = s.hubs := rfl
@[simp] theorem State.modRow_me (s : State) (k : Nat) (f : RowMeta → RowMeta) : (s.modRow k f).me = s.me := rfl
@[simp] theorem State.modRow_ve (s : State) (k : Nat) (f : RowMeta → RowMeta) : (s.modRow k f).ve = s.ve := rfl
@[simp] theorem State.modRow_vfiles (s : State) (k : Nat) (f : RowMeta → RowMeta) : (s.modRow k f).vfiles = s.vfiles := rfl
@[simp] theorem State.modRow_fe (s : State) (k : Nat) (f : RowMeta → RowMeta) : (s.modRow k f).fe = s.fe := rfl
@[simp] theorem State.modRow_sp (s : State) (k : Nat) (f : RowMeta → RowMeta) : (s.modRow k f).sp = s.sp := rfl
@[simp] theorem State.modRow_spPois (s : State) (k : Nat) (f : RowMeta → RowMeta) : (s.modRow k f).spPois = s.spPois := rfl
@[simp] theorem State.modRow_ctxs (s : State) (k : Nat) (f : RowMeta → RowMeta) : (s.modRow k f).ctxs = s.ctxs := rfl
@[simp] theorem State.modRow_parts (s : State) (k : Nat) (f : RowMeta → RowMeta) : (s.modRow k f).parts = s.parts := rfl
@[simp] theorem State.modRow_pages (s : State) (k : Nat) (f : RowMeta → RowMeta) : (s.modRow k f).pages = s.pages := rfl
@[simp] theorem State.modRow_streams (s : State) (k : Nat) (f : RowMeta → RowMeta) : (s.modRow k f).streams = s.streams := rfl
@[simp] theorem State.modRow_ports (s : State) (k : Nat) (f : RowMeta → RowMeta) : (s.modRow k f).ports = s.ports := rfl
@[simp] theorem State.modRow_dirs (s : State) (k : Nat) (f : RowMeta → RowMeta) : (s.modRow k f).dirs = s.dirs := rfl
@[simp] theorem State.modRow_lines (s : State) (k : Nat) (f : RowMeta → RowMeta) : (s.modRow k f).lines = s.lines := rfl
@[simp] theorem State.modRow_trans (s : State) (k : Nat) (f : RowMeta → RowMeta) : (s.modRow k f).trans = s.trans := rfl
@[simp] theorem State.modRow_lands (s : State) (k : Nat) (f : RowMeta → RowMeta) : (s.modRow k f).lands = s.lands := rfl
@[simp] theorem State.modRow_xacts (s : State) (k : Nat) (f : RowMeta → RowMeta) : (s.modRow k f).xacts = s.xacts := rfl
@[simp] theorem State.modRow_routes (s : State) (k : Nat) (f : RowMeta → RowMeta) : (s.modRow k f).routes = s.routes := rfl
@[simp] theorem State.modRow_admits (s : State) (k : Nat) (f : RowMeta → RowMeta) : (s.modRow k f).admits = s.admits := rfl
@[simp] theorem State.modRow_groups (s : State) (k : Nat) (f : RowMeta → RowMeta) : (s.modRow k f).groups = s.groups := rfl
@[simp] theorem State.modRow_fw (s : State) (k : Nat) (f : RowMeta → RowMeta) : (s.modRow k f).fw = s.fw := rfl
@[simp] theorem State.modRow_logs (s : State) (k : Nat) (f : RowMeta → RowMeta) : (s.modRow k f).logs = s.logs := rfl
@[simp] theorem State.modRow_pm (s : State) (k : Nat) (f : RowMeta → RowMeta) : (s.modRow k f).pm = s.pm := rfl
@[simp] theorem State.modRow_tmap (s : State) (k : Nat) (f : RowMeta → RowMeta) : (s.modRow k f).tmap = s.tmap := rfl
@[simp] theorem State.modRow_act (s : State) (k : Nat) (f : RowMeta → RowMeta) : (s.modRow k f).act = s.act := rfl
@[simp] theorem State.modRow_out (s : State) (k : Nat) (f : RowMeta → RowMeta) : (s.modRow k f).out = s.out := rfl
@[simp] theorem State.row_modRow (s : State) (k : Nat) (f : RowMeta → RowMeta) : (s.modRow k f).row k = f (s.row k) := by
  simp [State.row, State.modRow, Tab.get_upd_same]
theorem State.row_modRow_ne (s : State) (k j : Nat) (f : RowMeta → RowMeta) (h : j ≠ k) : (s.modRow k f).row j = s.row j := by
  simp [State.row, State.modRow, Tab.get_upd_ne _ _ _ _ _ h]
@[simp] theorem State.modRow_members (s : State) (k : Nat) (f : RowMeta → RowMeta) :
    (∀ j, (s.modRow k f).slot j = s.slot j) ∧
    (∀ j, (s.modRow k f).parcel j = s.parcel j) ∧
    (∀ j, (s.modRow k f).memByte j = s.memByte j) ∧
    (∀ j, (s.modRow k f).colBad j = s.colBad j) ∧
    (∀ j, (s.modRow k f).bspare j = s.bspare j) ∧
    (∀ j, (s.modRow k f).stack j = s.stack j) ∧
    (∀ j, (s.modRow k f).chan j = s.chan j) ∧
    (∀ j, (s.modRow k f).nbu j = s.nbu j) ∧
    (∀ j, (s.modRow k f).cru j = s.cru j) ∧
    (∀ j, (s.modRow k f).hub j = s.hub j) ∧
    (∀ j, (s.modRow k f).mat j = s.mat j) ∧
    (∀ j, (s.modRow k f).vec j = s.vec j) ∧
    (∀ j, (s.modRow k f).vfile j = s.vfile j) ∧
    (∀ j, (s.modRow k f).fchan j = s.fchan j) ∧
    (∀ j, (s.modRow k f).spByte j = s.spByte j) ∧
    (∀ j, (s.modRow k f).spBad j = s.spBad j) ∧
    (∀ j, (s.modRow k f).ctx j = s.ctx j) ∧
    (∀ j, (s.modRow k f).part j = s.part j) ∧
    (∀ j, (s.modRow k f).page j = s.page j) ∧
    (∀ j, (s.modRow k f).stream j = s.stream j) ∧
    (∀ j, (s.modRow k f).hport j = s.hport j) ∧
    (∀ j, (s.modRow k f).dir j = s.dir j) ∧
    (∀ j, (s.modRow k f).tran j = s.tran j) ∧
    (∀ j, (s.modRow k f).landing j = s.landing j) ∧
    (∀ j, (s.modRow k f).route j = s.route j) ∧
    (∀ j, (s.modRow k f).admission j = s.admission j) ∧
    (∀ j, (s.modRow k f).group j = s.group j) ∧
    (∀ j, (s.modRow k f).counter j = s.counter j) := by
  and_intros <;> exact fun _ => rfl
@[simp] theorem State.modBspare_pending (s : State) (k : Nat) (f : BankSpares → BankSpares) : (s.modBspare k f).pending = s.pending := rfl
@[simp] theorem State.modBspare_cyc (s : State) (k : Nat) (f : BankSpares → BankSpares) : (s.modBspare k f).cyc = s.cyc := rfl
@[simp] theorem State.modBspare_free (s : State) (k : Nat) (f : BankSpares → BankSpares) : (s.modBspare k f).free = s.free := rfl
@[simp] theorem State.modBspare_half (s : State) (k : Nat) (f : BankSpares → BankSpares) : (s.modBspare k f).half = s.half := rfl
@[simp] theorem State.modBspare_regs (s : State) (k : Nat) (f : BankSpares → BankSpares) : (s.modBspare k f).regs = s.regs := rfl
@[simp] theorem State.modBspare_boot (s : State) (k : Nat) (f : BankSpares → BankSpares) : (s.modBspare k f).boot = s.boot := rfl
@[simp] theorem State.modBspare_power (s : State) (k : Nat) (f : BankSpares → BankSpares) : (s.modBspare k f).power = s.power := rfl
@[simp] theorem State.modBspare_slots (s : State) (k : Nat) (f : BankSpares → BankSpares) : (s.modBspare k f).slots = s.slots := rfl
@[simp] theorem State.modBspare_parcels (s : State) (k : Nat) (f : BankSpares → BankSpares) : (s.modBspare k f).parcels = s.parcels := rfl
@[simp] theorem State.modBspare_mem (s : State) (k : Nat) (f : BankSpares → BankSpares) : (s.modBspare k f).mem = s.mem := rfl
@[simp] theorem State.modBspare_pois (s : State) (k : Nat) (f : BankSpares → BankSpares) : (s.modBspare k f).pois = s.pois := rfl
@[simp] theorem State.modBspare_rows (s : State) (k : Nat) (f : BankSpares → BankSpares) : (s.modBspare k f).rows = s.rows := rfl
@[simp] theorem State.modBspare_stks (s : State) (k : Nat) (f : BankSpares → BankSpares) : (s.modBspare k f).stks = s.stks := rfl
@[simp] theorem State.modBspare_chans (s : State) (k : Nat) (f : BankSpares → BankSpares) : (s.modBspare k f).chans = s.chans := rfl
@[simp] theorem State.modBspare_nbus (s : State) (k : Nat) (f : BankSpares → BankSpares) : (s.modBspare k f).nbus = s.nbus := rfl
@[simp] theorem State.modBspare_crus (s : State) (k : Nat) (f : BankSpares → BankSpares) : (s.modBspare k f).crus = s.crus := rfl
@[simp] theorem State.modBspare_hubs (s : State) (k : Nat) (f : BankSpares → BankSpares) : (s.modBspare k f).hubs = s.hubs := rfl
@[simp] theorem State.modBspare_me (s : State) (k : Nat) (f : BankSpares → BankSpares) : (s.modBspare k f).me = s.me := rfl
@[simp] theorem State.modBspare_ve (s : State) (k : Nat) (f : BankSpares → BankSpares) : (s.modBspare k f).ve = s.ve := rfl
@[simp] theorem State.modBspare_vfiles (s : State) (k : Nat) (f : BankSpares → BankSpares) : (s.modBspare k f).vfiles = s.vfiles := rfl
@[simp] theorem State.modBspare_fe (s : State) (k : Nat) (f : BankSpares → BankSpares) : (s.modBspare k f).fe = s.fe := rfl
@[simp] theorem State.modBspare_sp (s : State) (k : Nat) (f : BankSpares → BankSpares) : (s.modBspare k f).sp = s.sp := rfl
@[simp] theorem State.modBspare_spPois (s : State) (k : Nat) (f : BankSpares → BankSpares) : (s.modBspare k f).spPois = s.spPois := rfl
@[simp] theorem State.modBspare_ctxs (s : State) (k : Nat) (f : BankSpares → BankSpares) : (s.modBspare k f).ctxs = s.ctxs := rfl
@[simp] theorem State.modBspare_parts (s : State) (k : Nat) (f : BankSpares → BankSpares) : (s.modBspare k f).parts = s.parts := rfl
@[simp] theorem State.modBspare_pages (s : State) (k : Nat) (f : BankSpares → BankSpares) : (s.modBspare k f).pages = s.pages := rfl
@[simp] theorem State.modBspare_streams (s : State) (k : Nat) (f : BankSpares → BankSpares) : (s.modBspare k f).streams = s.streams := rfl
@[simp] theorem State.modBspare_ports (s : State) (k : Nat) (f : BankSpares → BankSpares) : (s.modBspare k f).ports = s.ports := rfl
@[simp] theorem State.modBspare_dirs (s : State) (k : Nat) (f : BankSpares → BankSpares) : (s.modBspare k f).dirs = s.dirs := rfl
@[simp] theorem State.modBspare_lines (s : State) (k : Nat) (f : BankSpares → BankSpares) : (s.modBspare k f).lines = s.lines := rfl
@[simp] theorem State.modBspare_trans (s : State) (k : Nat) (f : BankSpares → BankSpares) : (s.modBspare k f).trans = s.trans := rfl
@[simp] theorem State.modBspare_lands (s : State) (k : Nat) (f : BankSpares → BankSpares) : (s.modBspare k f).lands = s.lands := rfl
@[simp] theorem State.modBspare_xacts (s : State) (k : Nat) (f : BankSpares → BankSpares) : (s.modBspare k f).xacts = s.xacts := rfl
@[simp] theorem State.modBspare_routes (s : State) (k : Nat) (f : BankSpares → BankSpares) : (s.modBspare k f).routes = s.routes := rfl
@[simp] theorem State.modBspare_admits (s : State) (k : Nat) (f : BankSpares → BankSpares) : (s.modBspare k f).admits = s.admits := rfl
@[simp] theorem State.modBspare_groups (s : State) (k : Nat) (f : BankSpares → BankSpares) : (s.modBspare k f).groups = s.groups := rfl
@[simp] theorem State.modBspare_fw (s : State) (k : Nat) (f : BankSpares → BankSpares) : (s.modBspare k f).fw = s.fw := rfl
@[simp] theorem State.modBspare_logs (s : State) (k : Nat) (f : BankSpares → BankSpares) : (s.modBspare k f).logs = s.logs := rfl
@[simp] theorem State.modBspare_pm (s : State) (k : Nat) (f : BankSpares → BankSpares) : (s.modBspare k f).pm = s.pm := rfl
@[simp] theorem State.modBspare_tmap (s : State) (k : Nat) (f : BankSpares → BankSpares) : (s.modBspare k f).tmap = s.tmap := rfl
@[simp] theorem State.modBspare_act (s : State) (k : Nat) (f : BankSpares → BankSpares) : (s.modBspare k f).act = s.act := rfl
@[simp] theorem State.modBspare_out (s : State) (k : Nat) (f : BankSpares → BankSpares) : (s.modBspare k f).out = s.out := rfl
@[simp] theorem State.bspare_modBspare (s : State) (k : Nat) (f : BankSpares → BankSpares) : (s.modBspare k f).bspare k = f (s.bspare k) := by
  simp [State.bspare, State.modBspare, Tab.get_upd_same]
theorem State.bspare_modBspare_ne (s : State) (k j : Nat) (f : BankSpares → BankSpares) (h : j ≠ k) : (s.modBspare k f).bspare j = s.bspare j := by
  simp [State.bspare, State.modBspare, Tab.get_upd_ne _ _ _ _ _ h]
@[simp] theorem State.modBspare_members (s : State) (k : Nat) (f : BankSpares → BankSpares) :
    (∀ j, (s.modBspare k f).slot j = s.slot j) ∧
    (∀ j, (s.modBspare k f).parcel j = s.parcel j) ∧
    (∀ j, (s.modBspare k f).memByte j = s.memByte j) ∧
    (∀ j, (s.modBspare k f).colBad j = s.colBad j) ∧
    (∀ j, (s.modBspare k f).row j = s.row j) ∧
    (∀ j, (s.modBspare k f).stack j = s.stack j) ∧
    (∀ j, (s.modBspare k f).chan j = s.chan j) ∧
    (∀ j, (s.modBspare k f).nbu j = s.nbu j) ∧
    (∀ j, (s.modBspare k f).cru j = s.cru j) ∧
    (∀ j, (s.modBspare k f).hub j = s.hub j) ∧
    (∀ j, (s.modBspare k f).mat j = s.mat j) ∧
    (∀ j, (s.modBspare k f).vec j = s.vec j) ∧
    (∀ j, (s.modBspare k f).vfile j = s.vfile j) ∧
    (∀ j, (s.modBspare k f).fchan j = s.fchan j) ∧
    (∀ j, (s.modBspare k f).spByte j = s.spByte j) ∧
    (∀ j, (s.modBspare k f).spBad j = s.spBad j) ∧
    (∀ j, (s.modBspare k f).ctx j = s.ctx j) ∧
    (∀ j, (s.modBspare k f).part j = s.part j) ∧
    (∀ j, (s.modBspare k f).page j = s.page j) ∧
    (∀ j, (s.modBspare k f).stream j = s.stream j) ∧
    (∀ j, (s.modBspare k f).hport j = s.hport j) ∧
    (∀ j, (s.modBspare k f).dir j = s.dir j) ∧
    (∀ j, (s.modBspare k f).tran j = s.tran j) ∧
    (∀ j, (s.modBspare k f).landing j = s.landing j) ∧
    (∀ j, (s.modBspare k f).route j = s.route j) ∧
    (∀ j, (s.modBspare k f).admission j = s.admission j) ∧
    (∀ j, (s.modBspare k f).group j = s.group j) ∧
    (∀ j, (s.modBspare k f).counter j = s.counter j) := by
  and_intros <;> exact fun _ => rfl
@[simp] theorem State.modStack_pending (s : State) (k : Nat) (f : StackSpares → StackSpares) : (s.modStack k f).pending = s.pending := rfl
@[simp] theorem State.modStack_cyc (s : State) (k : Nat) (f : StackSpares → StackSpares) : (s.modStack k f).cyc = s.cyc := rfl
@[simp] theorem State.modStack_free (s : State) (k : Nat) (f : StackSpares → StackSpares) : (s.modStack k f).free = s.free := rfl
@[simp] theorem State.modStack_half (s : State) (k : Nat) (f : StackSpares → StackSpares) : (s.modStack k f).half = s.half := rfl
@[simp] theorem State.modStack_regs (s : State) (k : Nat) (f : StackSpares → StackSpares) : (s.modStack k f).regs = s.regs := rfl
@[simp] theorem State.modStack_boot (s : State) (k : Nat) (f : StackSpares → StackSpares) : (s.modStack k f).boot = s.boot := rfl
@[simp] theorem State.modStack_power (s : State) (k : Nat) (f : StackSpares → StackSpares) : (s.modStack k f).power = s.power := rfl
@[simp] theorem State.modStack_slots (s : State) (k : Nat) (f : StackSpares → StackSpares) : (s.modStack k f).slots = s.slots := rfl
@[simp] theorem State.modStack_parcels (s : State) (k : Nat) (f : StackSpares → StackSpares) : (s.modStack k f).parcels = s.parcels := rfl
@[simp] theorem State.modStack_mem (s : State) (k : Nat) (f : StackSpares → StackSpares) : (s.modStack k f).mem = s.mem := rfl
@[simp] theorem State.modStack_pois (s : State) (k : Nat) (f : StackSpares → StackSpares) : (s.modStack k f).pois = s.pois := rfl
@[simp] theorem State.modStack_rows (s : State) (k : Nat) (f : StackSpares → StackSpares) : (s.modStack k f).rows = s.rows := rfl
@[simp] theorem State.modStack_bspares (s : State) (k : Nat) (f : StackSpares → StackSpares) : (s.modStack k f).bspares = s.bspares := rfl
@[simp] theorem State.modStack_chans (s : State) (k : Nat) (f : StackSpares → StackSpares) : (s.modStack k f).chans = s.chans := rfl
@[simp] theorem State.modStack_nbus (s : State) (k : Nat) (f : StackSpares → StackSpares) : (s.modStack k f).nbus = s.nbus := rfl
@[simp] theorem State.modStack_crus (s : State) (k : Nat) (f : StackSpares → StackSpares) : (s.modStack k f).crus = s.crus := rfl
@[simp] theorem State.modStack_hubs (s : State) (k : Nat) (f : StackSpares → StackSpares) : (s.modStack k f).hubs = s.hubs := rfl
@[simp] theorem State.modStack_me (s : State) (k : Nat) (f : StackSpares → StackSpares) : (s.modStack k f).me = s.me := rfl
@[simp] theorem State.modStack_ve (s : State) (k : Nat) (f : StackSpares → StackSpares) : (s.modStack k f).ve = s.ve := rfl
@[simp] theorem State.modStack_vfiles (s : State) (k : Nat) (f : StackSpares → StackSpares) : (s.modStack k f).vfiles = s.vfiles := rfl
@[simp] theorem State.modStack_fe (s : State) (k : Nat) (f : StackSpares → StackSpares) : (s.modStack k f).fe = s.fe := rfl
@[simp] theorem State.modStack_sp (s : State) (k : Nat) (f : StackSpares → StackSpares) : (s.modStack k f).sp = s.sp := rfl
@[simp] theorem State.modStack_spPois (s : State) (k : Nat) (f : StackSpares → StackSpares) : (s.modStack k f).spPois = s.spPois := rfl
@[simp] theorem State.modStack_ctxs (s : State) (k : Nat) (f : StackSpares → StackSpares) : (s.modStack k f).ctxs = s.ctxs := rfl
@[simp] theorem State.modStack_parts (s : State) (k : Nat) (f : StackSpares → StackSpares) : (s.modStack k f).parts = s.parts := rfl
@[simp] theorem State.modStack_pages (s : State) (k : Nat) (f : StackSpares → StackSpares) : (s.modStack k f).pages = s.pages := rfl
@[simp] theorem State.modStack_streams (s : State) (k : Nat) (f : StackSpares → StackSpares) : (s.modStack k f).streams = s.streams := rfl
@[simp] theorem State.modStack_ports (s : State) (k : Nat) (f : StackSpares → StackSpares) : (s.modStack k f).ports = s.ports := rfl
@[simp] theorem State.modStack_dirs (s : State) (k : Nat) (f : StackSpares → StackSpares) : (s.modStack k f).dirs = s.dirs := rfl
@[simp] theorem State.modStack_lines (s : State) (k : Nat) (f : StackSpares → StackSpares) : (s.modStack k f).lines = s.lines := rfl
@[simp] theorem State.modStack_trans (s : State) (k : Nat) (f : StackSpares → StackSpares) : (s.modStack k f).trans = s.trans := rfl
@[simp] theorem State.modStack_lands (s : State) (k : Nat) (f : StackSpares → StackSpares) : (s.modStack k f).lands = s.lands := rfl
@[simp] theorem State.modStack_xacts (s : State) (k : Nat) (f : StackSpares → StackSpares) : (s.modStack k f).xacts = s.xacts := rfl
@[simp] theorem State.modStack_routes (s : State) (k : Nat) (f : StackSpares → StackSpares) : (s.modStack k f).routes = s.routes := rfl
@[simp] theorem State.modStack_admits (s : State) (k : Nat) (f : StackSpares → StackSpares) : (s.modStack k f).admits = s.admits := rfl
@[simp] theorem State.modStack_groups (s : State) (k : Nat) (f : StackSpares → StackSpares) : (s.modStack k f).groups = s.groups := rfl
@[simp] theorem State.modStack_fw (s : State) (k : Nat) (f : StackSpares → StackSpares) : (s.modStack k f).fw = s.fw := rfl
@[simp] theorem State.modStack_logs (s : State) (k : Nat) (f : StackSpares → StackSpares) : (s.modStack k f).logs = s.logs := rfl
@[simp] theorem State.modStack_pm (s : State) (k : Nat) (f : StackSpares → StackSpares) : (s.modStack k f).pm = s.pm := rfl
@[simp] theorem State.modStack_tmap (s : State) (k : Nat) (f : StackSpares → StackSpares) : (s.modStack k f).tmap = s.tmap := rfl
@[simp] theorem State.modStack_act (s : State) (k : Nat) (f : StackSpares → StackSpares) : (s.modStack k f).act = s.act := rfl
@[simp] theorem State.modStack_out (s : State) (k : Nat) (f : StackSpares → StackSpares) : (s.modStack k f).out = s.out := rfl
@[simp] theorem State.stack_modStack (s : State) (k : Nat) (f : StackSpares → StackSpares) : (s.modStack k f).stack k = f (s.stack k) := by
  simp [State.stack, State.modStack, Tab.get_upd_same]
theorem State.stack_modStack_ne (s : State) (k j : Nat) (f : StackSpares → StackSpares) (h : j ≠ k) : (s.modStack k f).stack j = s.stack j := by
  simp [State.stack, State.modStack, Tab.get_upd_ne _ _ _ _ _ h]
@[simp] theorem State.modStack_members (s : State) (k : Nat) (f : StackSpares → StackSpares) :
    (∀ j, (s.modStack k f).slot j = s.slot j) ∧
    (∀ j, (s.modStack k f).parcel j = s.parcel j) ∧
    (∀ j, (s.modStack k f).memByte j = s.memByte j) ∧
    (∀ j, (s.modStack k f).colBad j = s.colBad j) ∧
    (∀ j, (s.modStack k f).row j = s.row j) ∧
    (∀ j, (s.modStack k f).bspare j = s.bspare j) ∧
    (∀ j, (s.modStack k f).chan j = s.chan j) ∧
    (∀ j, (s.modStack k f).nbu j = s.nbu j) ∧
    (∀ j, (s.modStack k f).cru j = s.cru j) ∧
    (∀ j, (s.modStack k f).hub j = s.hub j) ∧
    (∀ j, (s.modStack k f).mat j = s.mat j) ∧
    (∀ j, (s.modStack k f).vec j = s.vec j) ∧
    (∀ j, (s.modStack k f).vfile j = s.vfile j) ∧
    (∀ j, (s.modStack k f).fchan j = s.fchan j) ∧
    (∀ j, (s.modStack k f).spByte j = s.spByte j) ∧
    (∀ j, (s.modStack k f).spBad j = s.spBad j) ∧
    (∀ j, (s.modStack k f).ctx j = s.ctx j) ∧
    (∀ j, (s.modStack k f).part j = s.part j) ∧
    (∀ j, (s.modStack k f).page j = s.page j) ∧
    (∀ j, (s.modStack k f).stream j = s.stream j) ∧
    (∀ j, (s.modStack k f).hport j = s.hport j) ∧
    (∀ j, (s.modStack k f).dir j = s.dir j) ∧
    (∀ j, (s.modStack k f).tran j = s.tran j) ∧
    (∀ j, (s.modStack k f).landing j = s.landing j) ∧
    (∀ j, (s.modStack k f).route j = s.route j) ∧
    (∀ j, (s.modStack k f).admission j = s.admission j) ∧
    (∀ j, (s.modStack k f).group j = s.group j) ∧
    (∀ j, (s.modStack k f).counter j = s.counter j) := by
  and_intros <;> exact fun _ => rfl
@[simp] theorem State.modChan_pending (s : State) (k : Nat) (f : Channel → Channel) : (s.modChan k f).pending = s.pending := rfl
@[simp] theorem State.modChan_cyc (s : State) (k : Nat) (f : Channel → Channel) : (s.modChan k f).cyc = s.cyc := rfl
@[simp] theorem State.modChan_free (s : State) (k : Nat) (f : Channel → Channel) : (s.modChan k f).free = s.free := rfl
@[simp] theorem State.modChan_half (s : State) (k : Nat) (f : Channel → Channel) : (s.modChan k f).half = s.half := rfl
@[simp] theorem State.modChan_regs (s : State) (k : Nat) (f : Channel → Channel) : (s.modChan k f).regs = s.regs := rfl
@[simp] theorem State.modChan_boot (s : State) (k : Nat) (f : Channel → Channel) : (s.modChan k f).boot = s.boot := rfl
@[simp] theorem State.modChan_power (s : State) (k : Nat) (f : Channel → Channel) : (s.modChan k f).power = s.power := rfl
@[simp] theorem State.modChan_slots (s : State) (k : Nat) (f : Channel → Channel) : (s.modChan k f).slots = s.slots := rfl
@[simp] theorem State.modChan_parcels (s : State) (k : Nat) (f : Channel → Channel) : (s.modChan k f).parcels = s.parcels := rfl
@[simp] theorem State.modChan_mem (s : State) (k : Nat) (f : Channel → Channel) : (s.modChan k f).mem = s.mem := rfl
@[simp] theorem State.modChan_pois (s : State) (k : Nat) (f : Channel → Channel) : (s.modChan k f).pois = s.pois := rfl
@[simp] theorem State.modChan_rows (s : State) (k : Nat) (f : Channel → Channel) : (s.modChan k f).rows = s.rows := rfl
@[simp] theorem State.modChan_bspares (s : State) (k : Nat) (f : Channel → Channel) : (s.modChan k f).bspares = s.bspares := rfl
@[simp] theorem State.modChan_stks (s : State) (k : Nat) (f : Channel → Channel) : (s.modChan k f).stks = s.stks := rfl
@[simp] theorem State.modChan_nbus (s : State) (k : Nat) (f : Channel → Channel) : (s.modChan k f).nbus = s.nbus := rfl
@[simp] theorem State.modChan_crus (s : State) (k : Nat) (f : Channel → Channel) : (s.modChan k f).crus = s.crus := rfl
@[simp] theorem State.modChan_hubs (s : State) (k : Nat) (f : Channel → Channel) : (s.modChan k f).hubs = s.hubs := rfl
@[simp] theorem State.modChan_me (s : State) (k : Nat) (f : Channel → Channel) : (s.modChan k f).me = s.me := rfl
@[simp] theorem State.modChan_ve (s : State) (k : Nat) (f : Channel → Channel) : (s.modChan k f).ve = s.ve := rfl
@[simp] theorem State.modChan_vfiles (s : State) (k : Nat) (f : Channel → Channel) : (s.modChan k f).vfiles = s.vfiles := rfl
@[simp] theorem State.modChan_fe (s : State) (k : Nat) (f : Channel → Channel) : (s.modChan k f).fe = s.fe := rfl
@[simp] theorem State.modChan_sp (s : State) (k : Nat) (f : Channel → Channel) : (s.modChan k f).sp = s.sp := rfl
@[simp] theorem State.modChan_spPois (s : State) (k : Nat) (f : Channel → Channel) : (s.modChan k f).spPois = s.spPois := rfl
@[simp] theorem State.modChan_ctxs (s : State) (k : Nat) (f : Channel → Channel) : (s.modChan k f).ctxs = s.ctxs := rfl
@[simp] theorem State.modChan_parts (s : State) (k : Nat) (f : Channel → Channel) : (s.modChan k f).parts = s.parts := rfl
@[simp] theorem State.modChan_pages (s : State) (k : Nat) (f : Channel → Channel) : (s.modChan k f).pages = s.pages := rfl
@[simp] theorem State.modChan_streams (s : State) (k : Nat) (f : Channel → Channel) : (s.modChan k f).streams = s.streams := rfl
@[simp] theorem State.modChan_ports (s : State) (k : Nat) (f : Channel → Channel) : (s.modChan k f).ports = s.ports := rfl
@[simp] theorem State.modChan_dirs (s : State) (k : Nat) (f : Channel → Channel) : (s.modChan k f).dirs = s.dirs := rfl
@[simp] theorem State.modChan_lines (s : State) (k : Nat) (f : Channel → Channel) : (s.modChan k f).lines = s.lines := rfl
@[simp] theorem State.modChan_trans (s : State) (k : Nat) (f : Channel → Channel) : (s.modChan k f).trans = s.trans := rfl
@[simp] theorem State.modChan_lands (s : State) (k : Nat) (f : Channel → Channel) : (s.modChan k f).lands = s.lands := rfl
@[simp] theorem State.modChan_xacts (s : State) (k : Nat) (f : Channel → Channel) : (s.modChan k f).xacts = s.xacts := rfl
@[simp] theorem State.modChan_routes (s : State) (k : Nat) (f : Channel → Channel) : (s.modChan k f).routes = s.routes := rfl
@[simp] theorem State.modChan_admits (s : State) (k : Nat) (f : Channel → Channel) : (s.modChan k f).admits = s.admits := rfl
@[simp] theorem State.modChan_groups (s : State) (k : Nat) (f : Channel → Channel) : (s.modChan k f).groups = s.groups := rfl
@[simp] theorem State.modChan_fw (s : State) (k : Nat) (f : Channel → Channel) : (s.modChan k f).fw = s.fw := rfl
@[simp] theorem State.modChan_logs (s : State) (k : Nat) (f : Channel → Channel) : (s.modChan k f).logs = s.logs := rfl
@[simp] theorem State.modChan_pm (s : State) (k : Nat) (f : Channel → Channel) : (s.modChan k f).pm = s.pm := rfl
@[simp] theorem State.modChan_tmap (s : State) (k : Nat) (f : Channel → Channel) : (s.modChan k f).tmap = s.tmap := rfl
@[simp] theorem State.modChan_act (s : State) (k : Nat) (f : Channel → Channel) : (s.modChan k f).act = s.act := rfl
@[simp] theorem State.modChan_out (s : State) (k : Nat) (f : Channel → Channel) : (s.modChan k f).out = s.out := rfl
@[simp] theorem State.chan_modChan (s : State) (k : Nat) (f : Channel → Channel) : (s.modChan k f).chan k = f (s.chan k) := by
  simp [State.chan, State.modChan, Tab.get_upd_same]
theorem State.chan_modChan_ne (s : State) (k j : Nat) (f : Channel → Channel) (h : j ≠ k) : (s.modChan k f).chan j = s.chan j := by
  simp [State.chan, State.modChan, Tab.get_upd_ne _ _ _ _ _ h]
@[simp] theorem State.modChan_members (s : State) (k : Nat) (f : Channel → Channel) :
    (∀ j, (s.modChan k f).slot j = s.slot j) ∧
    (∀ j, (s.modChan k f).parcel j = s.parcel j) ∧
    (∀ j, (s.modChan k f).memByte j = s.memByte j) ∧
    (∀ j, (s.modChan k f).colBad j = s.colBad j) ∧
    (∀ j, (s.modChan k f).row j = s.row j) ∧
    (∀ j, (s.modChan k f).bspare j = s.bspare j) ∧
    (∀ j, (s.modChan k f).stack j = s.stack j) ∧
    (∀ j, (s.modChan k f).nbu j = s.nbu j) ∧
    (∀ j, (s.modChan k f).cru j = s.cru j) ∧
    (∀ j, (s.modChan k f).hub j = s.hub j) ∧
    (∀ j, (s.modChan k f).mat j = s.mat j) ∧
    (∀ j, (s.modChan k f).vec j = s.vec j) ∧
    (∀ j, (s.modChan k f).vfile j = s.vfile j) ∧
    (∀ j, (s.modChan k f).fchan j = s.fchan j) ∧
    (∀ j, (s.modChan k f).spByte j = s.spByte j) ∧
    (∀ j, (s.modChan k f).spBad j = s.spBad j) ∧
    (∀ j, (s.modChan k f).ctx j = s.ctx j) ∧
    (∀ j, (s.modChan k f).part j = s.part j) ∧
    (∀ j, (s.modChan k f).page j = s.page j) ∧
    (∀ j, (s.modChan k f).stream j = s.stream j) ∧
    (∀ j, (s.modChan k f).hport j = s.hport j) ∧
    (∀ j, (s.modChan k f).dir j = s.dir j) ∧
    (∀ j, (s.modChan k f).tran j = s.tran j) ∧
    (∀ j, (s.modChan k f).landing j = s.landing j) ∧
    (∀ j, (s.modChan k f).route j = s.route j) ∧
    (∀ j, (s.modChan k f).admission j = s.admission j) ∧
    (∀ j, (s.modChan k f).group j = s.group j) ∧
    (∀ j, (s.modChan k f).counter j = s.counter j) := by
  and_intros <;> exact fun _ => rfl
@[simp] theorem State.modNbu_pending (s : State) (k : Nat) (f : Nbu → Nbu) : (s.modNbu k f).pending = s.pending := rfl
@[simp] theorem State.modNbu_cyc (s : State) (k : Nat) (f : Nbu → Nbu) : (s.modNbu k f).cyc = s.cyc := rfl
@[simp] theorem State.modNbu_free (s : State) (k : Nat) (f : Nbu → Nbu) : (s.modNbu k f).free = s.free := rfl
@[simp] theorem State.modNbu_half (s : State) (k : Nat) (f : Nbu → Nbu) : (s.modNbu k f).half = s.half := rfl
@[simp] theorem State.modNbu_regs (s : State) (k : Nat) (f : Nbu → Nbu) : (s.modNbu k f).regs = s.regs := rfl
@[simp] theorem State.modNbu_boot (s : State) (k : Nat) (f : Nbu → Nbu) : (s.modNbu k f).boot = s.boot := rfl
@[simp] theorem State.modNbu_power (s : State) (k : Nat) (f : Nbu → Nbu) : (s.modNbu k f).power = s.power := rfl
@[simp] theorem State.modNbu_slots (s : State) (k : Nat) (f : Nbu → Nbu) : (s.modNbu k f).slots = s.slots := rfl
@[simp] theorem State.modNbu_parcels (s : State) (k : Nat) (f : Nbu → Nbu) : (s.modNbu k f).parcels = s.parcels := rfl
@[simp] theorem State.modNbu_mem (s : State) (k : Nat) (f : Nbu → Nbu) : (s.modNbu k f).mem = s.mem := rfl
@[simp] theorem State.modNbu_pois (s : State) (k : Nat) (f : Nbu → Nbu) : (s.modNbu k f).pois = s.pois := rfl
@[simp] theorem State.modNbu_rows (s : State) (k : Nat) (f : Nbu → Nbu) : (s.modNbu k f).rows = s.rows := rfl
@[simp] theorem State.modNbu_bspares (s : State) (k : Nat) (f : Nbu → Nbu) : (s.modNbu k f).bspares = s.bspares := rfl
@[simp] theorem State.modNbu_stks (s : State) (k : Nat) (f : Nbu → Nbu) : (s.modNbu k f).stks = s.stks := rfl
@[simp] theorem State.modNbu_chans (s : State) (k : Nat) (f : Nbu → Nbu) : (s.modNbu k f).chans = s.chans := rfl
@[simp] theorem State.modNbu_crus (s : State) (k : Nat) (f : Nbu → Nbu) : (s.modNbu k f).crus = s.crus := rfl
@[simp] theorem State.modNbu_hubs (s : State) (k : Nat) (f : Nbu → Nbu) : (s.modNbu k f).hubs = s.hubs := rfl
@[simp] theorem State.modNbu_me (s : State) (k : Nat) (f : Nbu → Nbu) : (s.modNbu k f).me = s.me := rfl
@[simp] theorem State.modNbu_ve (s : State) (k : Nat) (f : Nbu → Nbu) : (s.modNbu k f).ve = s.ve := rfl
@[simp] theorem State.modNbu_vfiles (s : State) (k : Nat) (f : Nbu → Nbu) : (s.modNbu k f).vfiles = s.vfiles := rfl
@[simp] theorem State.modNbu_fe (s : State) (k : Nat) (f : Nbu → Nbu) : (s.modNbu k f).fe = s.fe := rfl
@[simp] theorem State.modNbu_sp (s : State) (k : Nat) (f : Nbu → Nbu) : (s.modNbu k f).sp = s.sp := rfl
@[simp] theorem State.modNbu_spPois (s : State) (k : Nat) (f : Nbu → Nbu) : (s.modNbu k f).spPois = s.spPois := rfl
@[simp] theorem State.modNbu_ctxs (s : State) (k : Nat) (f : Nbu → Nbu) : (s.modNbu k f).ctxs = s.ctxs := rfl
@[simp] theorem State.modNbu_parts (s : State) (k : Nat) (f : Nbu → Nbu) : (s.modNbu k f).parts = s.parts := rfl
@[simp] theorem State.modNbu_pages (s : State) (k : Nat) (f : Nbu → Nbu) : (s.modNbu k f).pages = s.pages := rfl
@[simp] theorem State.modNbu_streams (s : State) (k : Nat) (f : Nbu → Nbu) : (s.modNbu k f).streams = s.streams := rfl
@[simp] theorem State.modNbu_ports (s : State) (k : Nat) (f : Nbu → Nbu) : (s.modNbu k f).ports = s.ports := rfl
@[simp] theorem State.modNbu_dirs (s : State) (k : Nat) (f : Nbu → Nbu) : (s.modNbu k f).dirs = s.dirs := rfl
@[simp] theorem State.modNbu_lines (s : State) (k : Nat) (f : Nbu → Nbu) : (s.modNbu k f).lines = s.lines := rfl
@[simp] theorem State.modNbu_trans (s : State) (k : Nat) (f : Nbu → Nbu) : (s.modNbu k f).trans = s.trans := rfl
@[simp] theorem State.modNbu_lands (s : State) (k : Nat) (f : Nbu → Nbu) : (s.modNbu k f).lands = s.lands := rfl
@[simp] theorem State.modNbu_xacts (s : State) (k : Nat) (f : Nbu → Nbu) : (s.modNbu k f).xacts = s.xacts := rfl
@[simp] theorem State.modNbu_routes (s : State) (k : Nat) (f : Nbu → Nbu) : (s.modNbu k f).routes = s.routes := rfl
@[simp] theorem State.modNbu_admits (s : State) (k : Nat) (f : Nbu → Nbu) : (s.modNbu k f).admits = s.admits := rfl
@[simp] theorem State.modNbu_groups (s : State) (k : Nat) (f : Nbu → Nbu) : (s.modNbu k f).groups = s.groups := rfl
@[simp] theorem State.modNbu_fw (s : State) (k : Nat) (f : Nbu → Nbu) : (s.modNbu k f).fw = s.fw := rfl
@[simp] theorem State.modNbu_logs (s : State) (k : Nat) (f : Nbu → Nbu) : (s.modNbu k f).logs = s.logs := rfl
@[simp] theorem State.modNbu_pm (s : State) (k : Nat) (f : Nbu → Nbu) : (s.modNbu k f).pm = s.pm := rfl
@[simp] theorem State.modNbu_tmap (s : State) (k : Nat) (f : Nbu → Nbu) : (s.modNbu k f).tmap = s.tmap := rfl
@[simp] theorem State.modNbu_act (s : State) (k : Nat) (f : Nbu → Nbu) : (s.modNbu k f).act = s.act := rfl
@[simp] theorem State.modNbu_out (s : State) (k : Nat) (f : Nbu → Nbu) : (s.modNbu k f).out = s.out := rfl
@[simp] theorem State.nbu_modNbu (s : State) (k : Nat) (f : Nbu → Nbu) : (s.modNbu k f).nbu k = f (s.nbu k) := by
  simp [State.nbu, State.modNbu, Tab.get_upd_same]
theorem State.nbu_modNbu_ne (s : State) (k j : Nat) (f : Nbu → Nbu) (h : j ≠ k) : (s.modNbu k f).nbu j = s.nbu j := by
  simp [State.nbu, State.modNbu, Tab.get_upd_ne _ _ _ _ _ h]
@[simp] theorem State.modNbu_members (s : State) (k : Nat) (f : Nbu → Nbu) :
    (∀ j, (s.modNbu k f).slot j = s.slot j) ∧
    (∀ j, (s.modNbu k f).parcel j = s.parcel j) ∧
    (∀ j, (s.modNbu k f).memByte j = s.memByte j) ∧
    (∀ j, (s.modNbu k f).colBad j = s.colBad j) ∧
    (∀ j, (s.modNbu k f).row j = s.row j) ∧
    (∀ j, (s.modNbu k f).bspare j = s.bspare j) ∧
    (∀ j, (s.modNbu k f).stack j = s.stack j) ∧
    (∀ j, (s.modNbu k f).chan j = s.chan j) ∧
    (∀ j, (s.modNbu k f).cru j = s.cru j) ∧
    (∀ j, (s.modNbu k f).hub j = s.hub j) ∧
    (∀ j, (s.modNbu k f).mat j = s.mat j) ∧
    (∀ j, (s.modNbu k f).vec j = s.vec j) ∧
    (∀ j, (s.modNbu k f).vfile j = s.vfile j) ∧
    (∀ j, (s.modNbu k f).fchan j = s.fchan j) ∧
    (∀ j, (s.modNbu k f).spByte j = s.spByte j) ∧
    (∀ j, (s.modNbu k f).spBad j = s.spBad j) ∧
    (∀ j, (s.modNbu k f).ctx j = s.ctx j) ∧
    (∀ j, (s.modNbu k f).part j = s.part j) ∧
    (∀ j, (s.modNbu k f).page j = s.page j) ∧
    (∀ j, (s.modNbu k f).stream j = s.stream j) ∧
    (∀ j, (s.modNbu k f).hport j = s.hport j) ∧
    (∀ j, (s.modNbu k f).dir j = s.dir j) ∧
    (∀ j, (s.modNbu k f).tran j = s.tran j) ∧
    (∀ j, (s.modNbu k f).landing j = s.landing j) ∧
    (∀ j, (s.modNbu k f).route j = s.route j) ∧
    (∀ j, (s.modNbu k f).admission j = s.admission j) ∧
    (∀ j, (s.modNbu k f).group j = s.group j) ∧
    (∀ j, (s.modNbu k f).counter j = s.counter j) := by
  and_intros <;> exact fun _ => rfl
@[simp] theorem State.modCru_pending (s : State) (k : Nat) (f : SumBuf → SumBuf) : (s.modCru k f).pending = s.pending := rfl
@[simp] theorem State.modCru_cyc (s : State) (k : Nat) (f : SumBuf → SumBuf) : (s.modCru k f).cyc = s.cyc := rfl
@[simp] theorem State.modCru_free (s : State) (k : Nat) (f : SumBuf → SumBuf) : (s.modCru k f).free = s.free := rfl
@[simp] theorem State.modCru_half (s : State) (k : Nat) (f : SumBuf → SumBuf) : (s.modCru k f).half = s.half := rfl
@[simp] theorem State.modCru_regs (s : State) (k : Nat) (f : SumBuf → SumBuf) : (s.modCru k f).regs = s.regs := rfl
@[simp] theorem State.modCru_boot (s : State) (k : Nat) (f : SumBuf → SumBuf) : (s.modCru k f).boot = s.boot := rfl
@[simp] theorem State.modCru_power (s : State) (k : Nat) (f : SumBuf → SumBuf) : (s.modCru k f).power = s.power := rfl
@[simp] theorem State.modCru_slots (s : State) (k : Nat) (f : SumBuf → SumBuf) : (s.modCru k f).slots = s.slots := rfl
@[simp] theorem State.modCru_parcels (s : State) (k : Nat) (f : SumBuf → SumBuf) : (s.modCru k f).parcels = s.parcels := rfl
@[simp] theorem State.modCru_mem (s : State) (k : Nat) (f : SumBuf → SumBuf) : (s.modCru k f).mem = s.mem := rfl
@[simp] theorem State.modCru_pois (s : State) (k : Nat) (f : SumBuf → SumBuf) : (s.modCru k f).pois = s.pois := rfl
@[simp] theorem State.modCru_rows (s : State) (k : Nat) (f : SumBuf → SumBuf) : (s.modCru k f).rows = s.rows := rfl
@[simp] theorem State.modCru_bspares (s : State) (k : Nat) (f : SumBuf → SumBuf) : (s.modCru k f).bspares = s.bspares := rfl
@[simp] theorem State.modCru_stks (s : State) (k : Nat) (f : SumBuf → SumBuf) : (s.modCru k f).stks = s.stks := rfl
@[simp] theorem State.modCru_chans (s : State) (k : Nat) (f : SumBuf → SumBuf) : (s.modCru k f).chans = s.chans := rfl
@[simp] theorem State.modCru_nbus (s : State) (k : Nat) (f : SumBuf → SumBuf) : (s.modCru k f).nbus = s.nbus := rfl
@[simp] theorem State.modCru_hubs (s : State) (k : Nat) (f : SumBuf → SumBuf) : (s.modCru k f).hubs = s.hubs := rfl
@[simp] theorem State.modCru_me (s : State) (k : Nat) (f : SumBuf → SumBuf) : (s.modCru k f).me = s.me := rfl
@[simp] theorem State.modCru_ve (s : State) (k : Nat) (f : SumBuf → SumBuf) : (s.modCru k f).ve = s.ve := rfl
@[simp] theorem State.modCru_vfiles (s : State) (k : Nat) (f : SumBuf → SumBuf) : (s.modCru k f).vfiles = s.vfiles := rfl
@[simp] theorem State.modCru_fe (s : State) (k : Nat) (f : SumBuf → SumBuf) : (s.modCru k f).fe = s.fe := rfl
@[simp] theorem State.modCru_sp (s : State) (k : Nat) (f : SumBuf → SumBuf) : (s.modCru k f).sp = s.sp := rfl
@[simp] theorem State.modCru_spPois (s : State) (k : Nat) (f : SumBuf → SumBuf) : (s.modCru k f).spPois = s.spPois := rfl
@[simp] theorem State.modCru_ctxs (s : State) (k : Nat) (f : SumBuf → SumBuf) : (s.modCru k f).ctxs = s.ctxs := rfl
@[simp] theorem State.modCru_parts (s : State) (k : Nat) (f : SumBuf → SumBuf) : (s.modCru k f).parts = s.parts := rfl
@[simp] theorem State.modCru_pages (s : State) (k : Nat) (f : SumBuf → SumBuf) : (s.modCru k f).pages = s.pages := rfl
@[simp] theorem State.modCru_streams (s : State) (k : Nat) (f : SumBuf → SumBuf) : (s.modCru k f).streams = s.streams := rfl
@[simp] theorem State.modCru_ports (s : State) (k : Nat) (f : SumBuf → SumBuf) : (s.modCru k f).ports = s.ports := rfl
@[simp] theorem State.modCru_dirs (s : State) (k : Nat) (f : SumBuf → SumBuf) : (s.modCru k f).dirs = s.dirs := rfl
@[simp] theorem State.modCru_lines (s : State) (k : Nat) (f : SumBuf → SumBuf) : (s.modCru k f).lines = s.lines := rfl
@[simp] theorem State.modCru_trans (s : State) (k : Nat) (f : SumBuf → SumBuf) : (s.modCru k f).trans = s.trans := rfl
@[simp] theorem State.modCru_lands (s : State) (k : Nat) (f : SumBuf → SumBuf) : (s.modCru k f).lands = s.lands := rfl
@[simp] theorem State.modCru_xacts (s : State) (k : Nat) (f : SumBuf → SumBuf) : (s.modCru k f).xacts = s.xacts := rfl
@[simp] theorem State.modCru_routes (s : State) (k : Nat) (f : SumBuf → SumBuf) : (s.modCru k f).routes = s.routes := rfl
@[simp] theorem State.modCru_admits (s : State) (k : Nat) (f : SumBuf → SumBuf) : (s.modCru k f).admits = s.admits := rfl
@[simp] theorem State.modCru_groups (s : State) (k : Nat) (f : SumBuf → SumBuf) : (s.modCru k f).groups = s.groups := rfl
@[simp] theorem State.modCru_fw (s : State) (k : Nat) (f : SumBuf → SumBuf) : (s.modCru k f).fw = s.fw := rfl
@[simp] theorem State.modCru_logs (s : State) (k : Nat) (f : SumBuf → SumBuf) : (s.modCru k f).logs = s.logs := rfl
@[simp] theorem State.modCru_pm (s : State) (k : Nat) (f : SumBuf → SumBuf) : (s.modCru k f).pm = s.pm := rfl
@[simp] theorem State.modCru_tmap (s : State) (k : Nat) (f : SumBuf → SumBuf) : (s.modCru k f).tmap = s.tmap := rfl
@[simp] theorem State.modCru_act (s : State) (k : Nat) (f : SumBuf → SumBuf) : (s.modCru k f).act = s.act := rfl
@[simp] theorem State.modCru_out (s : State) (k : Nat) (f : SumBuf → SumBuf) : (s.modCru k f).out = s.out := rfl
@[simp] theorem State.cru_modCru (s : State) (k : Nat) (f : SumBuf → SumBuf) : (s.modCru k f).cru k = f (s.cru k) := by
  simp [State.cru, State.modCru, Tab.get_upd_same]
theorem State.cru_modCru_ne (s : State) (k j : Nat) (f : SumBuf → SumBuf) (h : j ≠ k) : (s.modCru k f).cru j = s.cru j := by
  simp [State.cru, State.modCru, Tab.get_upd_ne _ _ _ _ _ h]
@[simp] theorem State.modCru_members (s : State) (k : Nat) (f : SumBuf → SumBuf) :
    (∀ j, (s.modCru k f).slot j = s.slot j) ∧
    (∀ j, (s.modCru k f).parcel j = s.parcel j) ∧
    (∀ j, (s.modCru k f).memByte j = s.memByte j) ∧
    (∀ j, (s.modCru k f).colBad j = s.colBad j) ∧
    (∀ j, (s.modCru k f).row j = s.row j) ∧
    (∀ j, (s.modCru k f).bspare j = s.bspare j) ∧
    (∀ j, (s.modCru k f).stack j = s.stack j) ∧
    (∀ j, (s.modCru k f).chan j = s.chan j) ∧
    (∀ j, (s.modCru k f).nbu j = s.nbu j) ∧
    (∀ j, (s.modCru k f).hub j = s.hub j) ∧
    (∀ j, (s.modCru k f).mat j = s.mat j) ∧
    (∀ j, (s.modCru k f).vec j = s.vec j) ∧
    (∀ j, (s.modCru k f).vfile j = s.vfile j) ∧
    (∀ j, (s.modCru k f).fchan j = s.fchan j) ∧
    (∀ j, (s.modCru k f).spByte j = s.spByte j) ∧
    (∀ j, (s.modCru k f).spBad j = s.spBad j) ∧
    (∀ j, (s.modCru k f).ctx j = s.ctx j) ∧
    (∀ j, (s.modCru k f).part j = s.part j) ∧
    (∀ j, (s.modCru k f).page j = s.page j) ∧
    (∀ j, (s.modCru k f).stream j = s.stream j) ∧
    (∀ j, (s.modCru k f).hport j = s.hport j) ∧
    (∀ j, (s.modCru k f).dir j = s.dir j) ∧
    (∀ j, (s.modCru k f).tran j = s.tran j) ∧
    (∀ j, (s.modCru k f).landing j = s.landing j) ∧
    (∀ j, (s.modCru k f).route j = s.route j) ∧
    (∀ j, (s.modCru k f).admission j = s.admission j) ∧
    (∀ j, (s.modCru k f).group j = s.group j) ∧
    (∀ j, (s.modCru k f).counter j = s.counter j) := by
  and_intros <;> exact fun _ => rfl
@[simp] theorem State.modHub_pending (s : State) (k : Nat) (f : Hub → Hub) : (s.modHub k f).pending = s.pending := rfl
@[simp] theorem State.modHub_cyc (s : State) (k : Nat) (f : Hub → Hub) : (s.modHub k f).cyc = s.cyc := rfl
@[simp] theorem State.modHub_free (s : State) (k : Nat) (f : Hub → Hub) : (s.modHub k f).free = s.free := rfl
@[simp] theorem State.modHub_half (s : State) (k : Nat) (f : Hub → Hub) : (s.modHub k f).half = s.half := rfl
@[simp] theorem State.modHub_regs (s : State) (k : Nat) (f : Hub → Hub) : (s.modHub k f).regs = s.regs := rfl
@[simp] theorem State.modHub_boot (s : State) (k : Nat) (f : Hub → Hub) : (s.modHub k f).boot = s.boot := rfl
@[simp] theorem State.modHub_power (s : State) (k : Nat) (f : Hub → Hub) : (s.modHub k f).power = s.power := rfl
@[simp] theorem State.modHub_slots (s : State) (k : Nat) (f : Hub → Hub) : (s.modHub k f).slots = s.slots := rfl
@[simp] theorem State.modHub_parcels (s : State) (k : Nat) (f : Hub → Hub) : (s.modHub k f).parcels = s.parcels := rfl
@[simp] theorem State.modHub_mem (s : State) (k : Nat) (f : Hub → Hub) : (s.modHub k f).mem = s.mem := rfl
@[simp] theorem State.modHub_pois (s : State) (k : Nat) (f : Hub → Hub) : (s.modHub k f).pois = s.pois := rfl
@[simp] theorem State.modHub_rows (s : State) (k : Nat) (f : Hub → Hub) : (s.modHub k f).rows = s.rows := rfl
@[simp] theorem State.modHub_bspares (s : State) (k : Nat) (f : Hub → Hub) : (s.modHub k f).bspares = s.bspares := rfl
@[simp] theorem State.modHub_stks (s : State) (k : Nat) (f : Hub → Hub) : (s.modHub k f).stks = s.stks := rfl
@[simp] theorem State.modHub_chans (s : State) (k : Nat) (f : Hub → Hub) : (s.modHub k f).chans = s.chans := rfl
@[simp] theorem State.modHub_nbus (s : State) (k : Nat) (f : Hub → Hub) : (s.modHub k f).nbus = s.nbus := rfl
@[simp] theorem State.modHub_crus (s : State) (k : Nat) (f : Hub → Hub) : (s.modHub k f).crus = s.crus := rfl
@[simp] theorem State.modHub_me (s : State) (k : Nat) (f : Hub → Hub) : (s.modHub k f).me = s.me := rfl
@[simp] theorem State.modHub_ve (s : State) (k : Nat) (f : Hub → Hub) : (s.modHub k f).ve = s.ve := rfl
@[simp] theorem State.modHub_vfiles (s : State) (k : Nat) (f : Hub → Hub) : (s.modHub k f).vfiles = s.vfiles := rfl
@[simp] theorem State.modHub_fe (s : State) (k : Nat) (f : Hub → Hub) : (s.modHub k f).fe = s.fe := rfl
@[simp] theorem State.modHub_sp (s : State) (k : Nat) (f : Hub → Hub) : (s.modHub k f).sp = s.sp := rfl
@[simp] theorem State.modHub_spPois (s : State) (k : Nat) (f : Hub → Hub) : (s.modHub k f).spPois = s.spPois := rfl
@[simp] theorem State.modHub_ctxs (s : State) (k : Nat) (f : Hub → Hub) : (s.modHub k f).ctxs = s.ctxs := rfl
@[simp] theorem State.modHub_parts (s : State) (k : Nat) (f : Hub → Hub) : (s.modHub k f).parts = s.parts := rfl
@[simp] theorem State.modHub_pages (s : State) (k : Nat) (f : Hub → Hub) : (s.modHub k f).pages = s.pages := rfl
@[simp] theorem State.modHub_streams (s : State) (k : Nat) (f : Hub → Hub) : (s.modHub k f).streams = s.streams := rfl
@[simp] theorem State.modHub_ports (s : State) (k : Nat) (f : Hub → Hub) : (s.modHub k f).ports = s.ports := rfl
@[simp] theorem State.modHub_dirs (s : State) (k : Nat) (f : Hub → Hub) : (s.modHub k f).dirs = s.dirs := rfl
@[simp] theorem State.modHub_lines (s : State) (k : Nat) (f : Hub → Hub) : (s.modHub k f).lines = s.lines := rfl
@[simp] theorem State.modHub_trans (s : State) (k : Nat) (f : Hub → Hub) : (s.modHub k f).trans = s.trans := rfl
@[simp] theorem State.modHub_lands (s : State) (k : Nat) (f : Hub → Hub) : (s.modHub k f).lands = s.lands := rfl
@[simp] theorem State.modHub_xacts (s : State) (k : Nat) (f : Hub → Hub) : (s.modHub k f).xacts = s.xacts := rfl
@[simp] theorem State.modHub_routes (s : State) (k : Nat) (f : Hub → Hub) : (s.modHub k f).routes = s.routes := rfl
@[simp] theorem State.modHub_admits (s : State) (k : Nat) (f : Hub → Hub) : (s.modHub k f).admits = s.admits := rfl
@[simp] theorem State.modHub_groups (s : State) (k : Nat) (f : Hub → Hub) : (s.modHub k f).groups = s.groups := rfl
@[simp] theorem State.modHub_fw (s : State) (k : Nat) (f : Hub → Hub) : (s.modHub k f).fw = s.fw := rfl
@[simp] theorem State.modHub_logs (s : State) (k : Nat) (f : Hub → Hub) : (s.modHub k f).logs = s.logs := rfl
@[simp] theorem State.modHub_pm (s : State) (k : Nat) (f : Hub → Hub) : (s.modHub k f).pm = s.pm := rfl
@[simp] theorem State.modHub_tmap (s : State) (k : Nat) (f : Hub → Hub) : (s.modHub k f).tmap = s.tmap := rfl
@[simp] theorem State.modHub_act (s : State) (k : Nat) (f : Hub → Hub) : (s.modHub k f).act = s.act := rfl
@[simp] theorem State.modHub_out (s : State) (k : Nat) (f : Hub → Hub) : (s.modHub k f).out = s.out := rfl
@[simp] theorem State.hub_modHub (s : State) (k : Nat) (f : Hub → Hub) : (s.modHub k f).hub k = f (s.hub k) := by
  simp [State.hub, State.modHub, Tab.get_upd_same]
theorem State.hub_modHub_ne (s : State) (k j : Nat) (f : Hub → Hub) (h : j ≠ k) : (s.modHub k f).hub j = s.hub j := by
  simp [State.hub, State.modHub, Tab.get_upd_ne _ _ _ _ _ h]
@[simp] theorem State.modHub_members (s : State) (k : Nat) (f : Hub → Hub) :
    (∀ j, (s.modHub k f).slot j = s.slot j) ∧
    (∀ j, (s.modHub k f).parcel j = s.parcel j) ∧
    (∀ j, (s.modHub k f).memByte j = s.memByte j) ∧
    (∀ j, (s.modHub k f).colBad j = s.colBad j) ∧
    (∀ j, (s.modHub k f).row j = s.row j) ∧
    (∀ j, (s.modHub k f).bspare j = s.bspare j) ∧
    (∀ j, (s.modHub k f).stack j = s.stack j) ∧
    (∀ j, (s.modHub k f).chan j = s.chan j) ∧
    (∀ j, (s.modHub k f).nbu j = s.nbu j) ∧
    (∀ j, (s.modHub k f).cru j = s.cru j) ∧
    (∀ j, (s.modHub k f).mat j = s.mat j) ∧
    (∀ j, (s.modHub k f).vec j = s.vec j) ∧
    (∀ j, (s.modHub k f).vfile j = s.vfile j) ∧
    (∀ j, (s.modHub k f).fchan j = s.fchan j) ∧
    (∀ j, (s.modHub k f).spByte j = s.spByte j) ∧
    (∀ j, (s.modHub k f).spBad j = s.spBad j) ∧
    (∀ j, (s.modHub k f).ctx j = s.ctx j) ∧
    (∀ j, (s.modHub k f).part j = s.part j) ∧
    (∀ j, (s.modHub k f).page j = s.page j) ∧
    (∀ j, (s.modHub k f).stream j = s.stream j) ∧
    (∀ j, (s.modHub k f).hport j = s.hport j) ∧
    (∀ j, (s.modHub k f).dir j = s.dir j) ∧
    (∀ j, (s.modHub k f).tran j = s.tran j) ∧
    (∀ j, (s.modHub k f).landing j = s.landing j) ∧
    (∀ j, (s.modHub k f).route j = s.route j) ∧
    (∀ j, (s.modHub k f).admission j = s.admission j) ∧
    (∀ j, (s.modHub k f).group j = s.group j) ∧
    (∀ j, (s.modHub k f).counter j = s.counter j) := by
  and_intros <;> exact fun _ => rfl
@[simp] theorem State.modMat_pending (s : State) (k : Nat) (f : Matrix → Matrix) : (s.modMat k f).pending = s.pending := rfl
@[simp] theorem State.modMat_cyc (s : State) (k : Nat) (f : Matrix → Matrix) : (s.modMat k f).cyc = s.cyc := rfl
@[simp] theorem State.modMat_free (s : State) (k : Nat) (f : Matrix → Matrix) : (s.modMat k f).free = s.free := rfl
@[simp] theorem State.modMat_half (s : State) (k : Nat) (f : Matrix → Matrix) : (s.modMat k f).half = s.half := rfl
@[simp] theorem State.modMat_regs (s : State) (k : Nat) (f : Matrix → Matrix) : (s.modMat k f).regs = s.regs := rfl
@[simp] theorem State.modMat_boot (s : State) (k : Nat) (f : Matrix → Matrix) : (s.modMat k f).boot = s.boot := rfl
@[simp] theorem State.modMat_power (s : State) (k : Nat) (f : Matrix → Matrix) : (s.modMat k f).power = s.power := rfl
@[simp] theorem State.modMat_slots (s : State) (k : Nat) (f : Matrix → Matrix) : (s.modMat k f).slots = s.slots := rfl
@[simp] theorem State.modMat_parcels (s : State) (k : Nat) (f : Matrix → Matrix) : (s.modMat k f).parcels = s.parcels := rfl
@[simp] theorem State.modMat_mem (s : State) (k : Nat) (f : Matrix → Matrix) : (s.modMat k f).mem = s.mem := rfl
@[simp] theorem State.modMat_pois (s : State) (k : Nat) (f : Matrix → Matrix) : (s.modMat k f).pois = s.pois := rfl
@[simp] theorem State.modMat_rows (s : State) (k : Nat) (f : Matrix → Matrix) : (s.modMat k f).rows = s.rows := rfl
@[simp] theorem State.modMat_bspares (s : State) (k : Nat) (f : Matrix → Matrix) : (s.modMat k f).bspares = s.bspares := rfl
@[simp] theorem State.modMat_stks (s : State) (k : Nat) (f : Matrix → Matrix) : (s.modMat k f).stks = s.stks := rfl
@[simp] theorem State.modMat_chans (s : State) (k : Nat) (f : Matrix → Matrix) : (s.modMat k f).chans = s.chans := rfl
@[simp] theorem State.modMat_nbus (s : State) (k : Nat) (f : Matrix → Matrix) : (s.modMat k f).nbus = s.nbus := rfl
@[simp] theorem State.modMat_crus (s : State) (k : Nat) (f : Matrix → Matrix) : (s.modMat k f).crus = s.crus := rfl
@[simp] theorem State.modMat_hubs (s : State) (k : Nat) (f : Matrix → Matrix) : (s.modMat k f).hubs = s.hubs := rfl
@[simp] theorem State.modMat_ve (s : State) (k : Nat) (f : Matrix → Matrix) : (s.modMat k f).ve = s.ve := rfl
@[simp] theorem State.modMat_vfiles (s : State) (k : Nat) (f : Matrix → Matrix) : (s.modMat k f).vfiles = s.vfiles := rfl
@[simp] theorem State.modMat_fe (s : State) (k : Nat) (f : Matrix → Matrix) : (s.modMat k f).fe = s.fe := rfl
@[simp] theorem State.modMat_sp (s : State) (k : Nat) (f : Matrix → Matrix) : (s.modMat k f).sp = s.sp := rfl
@[simp] theorem State.modMat_spPois (s : State) (k : Nat) (f : Matrix → Matrix) : (s.modMat k f).spPois = s.spPois := rfl
@[simp] theorem State.modMat_ctxs (s : State) (k : Nat) (f : Matrix → Matrix) : (s.modMat k f).ctxs = s.ctxs := rfl
@[simp] theorem State.modMat_parts (s : State) (k : Nat) (f : Matrix → Matrix) : (s.modMat k f).parts = s.parts := rfl
@[simp] theorem State.modMat_pages (s : State) (k : Nat) (f : Matrix → Matrix) : (s.modMat k f).pages = s.pages := rfl
@[simp] theorem State.modMat_streams (s : State) (k : Nat) (f : Matrix → Matrix) : (s.modMat k f).streams = s.streams := rfl
@[simp] theorem State.modMat_ports (s : State) (k : Nat) (f : Matrix → Matrix) : (s.modMat k f).ports = s.ports := rfl
@[simp] theorem State.modMat_dirs (s : State) (k : Nat) (f : Matrix → Matrix) : (s.modMat k f).dirs = s.dirs := rfl
@[simp] theorem State.modMat_lines (s : State) (k : Nat) (f : Matrix → Matrix) : (s.modMat k f).lines = s.lines := rfl
@[simp] theorem State.modMat_trans (s : State) (k : Nat) (f : Matrix → Matrix) : (s.modMat k f).trans = s.trans := rfl
@[simp] theorem State.modMat_lands (s : State) (k : Nat) (f : Matrix → Matrix) : (s.modMat k f).lands = s.lands := rfl
@[simp] theorem State.modMat_xacts (s : State) (k : Nat) (f : Matrix → Matrix) : (s.modMat k f).xacts = s.xacts := rfl
@[simp] theorem State.modMat_routes (s : State) (k : Nat) (f : Matrix → Matrix) : (s.modMat k f).routes = s.routes := rfl
@[simp] theorem State.modMat_admits (s : State) (k : Nat) (f : Matrix → Matrix) : (s.modMat k f).admits = s.admits := rfl
@[simp] theorem State.modMat_groups (s : State) (k : Nat) (f : Matrix → Matrix) : (s.modMat k f).groups = s.groups := rfl
@[simp] theorem State.modMat_fw (s : State) (k : Nat) (f : Matrix → Matrix) : (s.modMat k f).fw = s.fw := rfl
@[simp] theorem State.modMat_logs (s : State) (k : Nat) (f : Matrix → Matrix) : (s.modMat k f).logs = s.logs := rfl
@[simp] theorem State.modMat_pm (s : State) (k : Nat) (f : Matrix → Matrix) : (s.modMat k f).pm = s.pm := rfl
@[simp] theorem State.modMat_tmap (s : State) (k : Nat) (f : Matrix → Matrix) : (s.modMat k f).tmap = s.tmap := rfl
@[simp] theorem State.modMat_act (s : State) (k : Nat) (f : Matrix → Matrix) : (s.modMat k f).act = s.act := rfl
@[simp] theorem State.modMat_out (s : State) (k : Nat) (f : Matrix → Matrix) : (s.modMat k f).out = s.out := rfl
@[simp] theorem State.mat_modMat (s : State) (k : Nat) (f : Matrix → Matrix) : (s.modMat k f).mat k = f (s.mat k) := by
  simp [State.mat, State.modMat, Tab.get_upd_same]
theorem State.mat_modMat_ne (s : State) (k j : Nat) (f : Matrix → Matrix) (h : j ≠ k) : (s.modMat k f).mat j = s.mat j := by
  simp [State.mat, State.modMat, Tab.get_upd_ne _ _ _ _ _ h]
@[simp] theorem State.modMat_members (s : State) (k : Nat) (f : Matrix → Matrix) :
    (∀ j, (s.modMat k f).slot j = s.slot j) ∧
    (∀ j, (s.modMat k f).parcel j = s.parcel j) ∧
    (∀ j, (s.modMat k f).memByte j = s.memByte j) ∧
    (∀ j, (s.modMat k f).colBad j = s.colBad j) ∧
    (∀ j, (s.modMat k f).row j = s.row j) ∧
    (∀ j, (s.modMat k f).bspare j = s.bspare j) ∧
    (∀ j, (s.modMat k f).stack j = s.stack j) ∧
    (∀ j, (s.modMat k f).chan j = s.chan j) ∧
    (∀ j, (s.modMat k f).nbu j = s.nbu j) ∧
    (∀ j, (s.modMat k f).cru j = s.cru j) ∧
    (∀ j, (s.modMat k f).hub j = s.hub j) ∧
    (∀ j, (s.modMat k f).vec j = s.vec j) ∧
    (∀ j, (s.modMat k f).vfile j = s.vfile j) ∧
    (∀ j, (s.modMat k f).fchan j = s.fchan j) ∧
    (∀ j, (s.modMat k f).spByte j = s.spByte j) ∧
    (∀ j, (s.modMat k f).spBad j = s.spBad j) ∧
    (∀ j, (s.modMat k f).ctx j = s.ctx j) ∧
    (∀ j, (s.modMat k f).part j = s.part j) ∧
    (∀ j, (s.modMat k f).page j = s.page j) ∧
    (∀ j, (s.modMat k f).stream j = s.stream j) ∧
    (∀ j, (s.modMat k f).hport j = s.hport j) ∧
    (∀ j, (s.modMat k f).dir j = s.dir j) ∧
    (∀ j, (s.modMat k f).tran j = s.tran j) ∧
    (∀ j, (s.modMat k f).landing j = s.landing j) ∧
    (∀ j, (s.modMat k f).route j = s.route j) ∧
    (∀ j, (s.modMat k f).admission j = s.admission j) ∧
    (∀ j, (s.modMat k f).group j = s.group j) ∧
    (∀ j, (s.modMat k f).counter j = s.counter j) := by
  and_intros <;> exact fun _ => rfl
@[simp] theorem State.modVec_pending (s : State) (k : Nat) (f : Vector → Vector) : (s.modVec k f).pending = s.pending := rfl
@[simp] theorem State.modVec_cyc (s : State) (k : Nat) (f : Vector → Vector) : (s.modVec k f).cyc = s.cyc := rfl
@[simp] theorem State.modVec_free (s : State) (k : Nat) (f : Vector → Vector) : (s.modVec k f).free = s.free := rfl
@[simp] theorem State.modVec_half (s : State) (k : Nat) (f : Vector → Vector) : (s.modVec k f).half = s.half := rfl
@[simp] theorem State.modVec_regs (s : State) (k : Nat) (f : Vector → Vector) : (s.modVec k f).regs = s.regs := rfl
@[simp] theorem State.modVec_boot (s : State) (k : Nat) (f : Vector → Vector) : (s.modVec k f).boot = s.boot := rfl
@[simp] theorem State.modVec_power (s : State) (k : Nat) (f : Vector → Vector) : (s.modVec k f).power = s.power := rfl
@[simp] theorem State.modVec_slots (s : State) (k : Nat) (f : Vector → Vector) : (s.modVec k f).slots = s.slots := rfl
@[simp] theorem State.modVec_parcels (s : State) (k : Nat) (f : Vector → Vector) : (s.modVec k f).parcels = s.parcels := rfl
@[simp] theorem State.modVec_mem (s : State) (k : Nat) (f : Vector → Vector) : (s.modVec k f).mem = s.mem := rfl
@[simp] theorem State.modVec_pois (s : State) (k : Nat) (f : Vector → Vector) : (s.modVec k f).pois = s.pois := rfl
@[simp] theorem State.modVec_rows (s : State) (k : Nat) (f : Vector → Vector) : (s.modVec k f).rows = s.rows := rfl
@[simp] theorem State.modVec_bspares (s : State) (k : Nat) (f : Vector → Vector) : (s.modVec k f).bspares = s.bspares := rfl
@[simp] theorem State.modVec_stks (s : State) (k : Nat) (f : Vector → Vector) : (s.modVec k f).stks = s.stks := rfl
@[simp] theorem State.modVec_chans (s : State) (k : Nat) (f : Vector → Vector) : (s.modVec k f).chans = s.chans := rfl
@[simp] theorem State.modVec_nbus (s : State) (k : Nat) (f : Vector → Vector) : (s.modVec k f).nbus = s.nbus := rfl
@[simp] theorem State.modVec_crus (s : State) (k : Nat) (f : Vector → Vector) : (s.modVec k f).crus = s.crus := rfl
@[simp] theorem State.modVec_hubs (s : State) (k : Nat) (f : Vector → Vector) : (s.modVec k f).hubs = s.hubs := rfl
@[simp] theorem State.modVec_me (s : State) (k : Nat) (f : Vector → Vector) : (s.modVec k f).me = s.me := rfl
@[simp] theorem State.modVec_vfiles (s : State) (k : Nat) (f : Vector → Vector) : (s.modVec k f).vfiles = s.vfiles := rfl
@[simp] theorem State.modVec_fe (s : State) (k : Nat) (f : Vector → Vector) : (s.modVec k f).fe = s.fe := rfl
@[simp] theorem State.modVec_sp (s : State) (k : Nat) (f : Vector → Vector) : (s.modVec k f).sp = s.sp := rfl
@[simp] theorem State.modVec_spPois (s : State) (k : Nat) (f : Vector → Vector) : (s.modVec k f).spPois = s.spPois := rfl
@[simp] theorem State.modVec_ctxs (s : State) (k : Nat) (f : Vector → Vector) : (s.modVec k f).ctxs = s.ctxs := rfl
@[simp] theorem State.modVec_parts (s : State) (k : Nat) (f : Vector → Vector) : (s.modVec k f).parts = s.parts := rfl
@[simp] theorem State.modVec_pages (s : State) (k : Nat) (f : Vector → Vector) : (s.modVec k f).pages = s.pages := rfl
@[simp] theorem State.modVec_streams (s : State) (k : Nat) (f : Vector → Vector) : (s.modVec k f).streams = s.streams := rfl
@[simp] theorem State.modVec_ports (s : State) (k : Nat) (f : Vector → Vector) : (s.modVec k f).ports = s.ports := rfl
@[simp] theorem State.modVec_dirs (s : State) (k : Nat) (f : Vector → Vector) : (s.modVec k f).dirs = s.dirs := rfl
@[simp] theorem State.modVec_lines (s : State) (k : Nat) (f : Vector → Vector) : (s.modVec k f).lines = s.lines := rfl
@[simp] theorem State.modVec_trans (s : State) (k : Nat) (f : Vector → Vector) : (s.modVec k f).trans = s.trans := rfl
@[simp] theorem State.modVec_lands (s : State) (k : Nat) (f : Vector → Vector) : (s.modVec k f).lands = s.lands := rfl
@[simp] theorem State.modVec_xacts (s : State) (k : Nat) (f : Vector → Vector) : (s.modVec k f).xacts = s.xacts := rfl
@[simp] theorem State.modVec_routes (s : State) (k : Nat) (f : Vector → Vector) : (s.modVec k f).routes = s.routes := rfl
@[simp] theorem State.modVec_admits (s : State) (k : Nat) (f : Vector → Vector) : (s.modVec k f).admits = s.admits := rfl
@[simp] theorem State.modVec_groups (s : State) (k : Nat) (f : Vector → Vector) : (s.modVec k f).groups = s.groups := rfl
@[simp] theorem State.modVec_fw (s : State) (k : Nat) (f : Vector → Vector) : (s.modVec k f).fw = s.fw := rfl
@[simp] theorem State.modVec_logs (s : State) (k : Nat) (f : Vector → Vector) : (s.modVec k f).logs = s.logs := rfl
@[simp] theorem State.modVec_pm (s : State) (k : Nat) (f : Vector → Vector) : (s.modVec k f).pm = s.pm := rfl
@[simp] theorem State.modVec_tmap (s : State) (k : Nat) (f : Vector → Vector) : (s.modVec k f).tmap = s.tmap := rfl
@[simp] theorem State.modVec_act (s : State) (k : Nat) (f : Vector → Vector) : (s.modVec k f).act = s.act := rfl
@[simp] theorem State.modVec_out (s : State) (k : Nat) (f : Vector → Vector) : (s.modVec k f).out = s.out := rfl
@[simp] theorem State.vec_modVec (s : State) (k : Nat) (f : Vector → Vector) : (s.modVec k f).vec k = f (s.vec k) := by
  simp [State.vec, State.modVec, Tab.get_upd_same]
theorem State.vec_modVec_ne (s : State) (k j : Nat) (f : Vector → Vector) (h : j ≠ k) : (s.modVec k f).vec j = s.vec j := by
  simp [State.vec, State.modVec, Tab.get_upd_ne _ _ _ _ _ h]
@[simp] theorem State.modVec_members (s : State) (k : Nat) (f : Vector → Vector) :
    (∀ j, (s.modVec k f).slot j = s.slot j) ∧
    (∀ j, (s.modVec k f).parcel j = s.parcel j) ∧
    (∀ j, (s.modVec k f).memByte j = s.memByte j) ∧
    (∀ j, (s.modVec k f).colBad j = s.colBad j) ∧
    (∀ j, (s.modVec k f).row j = s.row j) ∧
    (∀ j, (s.modVec k f).bspare j = s.bspare j) ∧
    (∀ j, (s.modVec k f).stack j = s.stack j) ∧
    (∀ j, (s.modVec k f).chan j = s.chan j) ∧
    (∀ j, (s.modVec k f).nbu j = s.nbu j) ∧
    (∀ j, (s.modVec k f).cru j = s.cru j) ∧
    (∀ j, (s.modVec k f).hub j = s.hub j) ∧
    (∀ j, (s.modVec k f).mat j = s.mat j) ∧
    (∀ j, (s.modVec k f).vfile j = s.vfile j) ∧
    (∀ j, (s.modVec k f).fchan j = s.fchan j) ∧
    (∀ j, (s.modVec k f).spByte j = s.spByte j) ∧
    (∀ j, (s.modVec k f).spBad j = s.spBad j) ∧
    (∀ j, (s.modVec k f).ctx j = s.ctx j) ∧
    (∀ j, (s.modVec k f).part j = s.part j) ∧
    (∀ j, (s.modVec k f).page j = s.page j) ∧
    (∀ j, (s.modVec k f).stream j = s.stream j) ∧
    (∀ j, (s.modVec k f).hport j = s.hport j) ∧
    (∀ j, (s.modVec k f).dir j = s.dir j) ∧
    (∀ j, (s.modVec k f).tran j = s.tran j) ∧
    (∀ j, (s.modVec k f).landing j = s.landing j) ∧
    (∀ j, (s.modVec k f).route j = s.route j) ∧
    (∀ j, (s.modVec k f).admission j = s.admission j) ∧
    (∀ j, (s.modVec k f).group j = s.group j) ∧
    (∀ j, (s.modVec k f).counter j = s.counter j) := by
  and_intros <;> exact fun _ => rfl
@[simp] theorem State.modVfile_pending (s : State) (k : Nat) (f : VFile → VFile) : (s.modVfile k f).pending = s.pending := rfl
@[simp] theorem State.modVfile_cyc (s : State) (k : Nat) (f : VFile → VFile) : (s.modVfile k f).cyc = s.cyc := rfl
@[simp] theorem State.modVfile_free (s : State) (k : Nat) (f : VFile → VFile) : (s.modVfile k f).free = s.free := rfl
@[simp] theorem State.modVfile_half (s : State) (k : Nat) (f : VFile → VFile) : (s.modVfile k f).half = s.half := rfl
@[simp] theorem State.modVfile_regs (s : State) (k : Nat) (f : VFile → VFile) : (s.modVfile k f).regs = s.regs := rfl
@[simp] theorem State.modVfile_boot (s : State) (k : Nat) (f : VFile → VFile) : (s.modVfile k f).boot = s.boot := rfl
@[simp] theorem State.modVfile_power (s : State) (k : Nat) (f : VFile → VFile) : (s.modVfile k f).power = s.power := rfl
@[simp] theorem State.modVfile_slots (s : State) (k : Nat) (f : VFile → VFile) : (s.modVfile k f).slots = s.slots := rfl
@[simp] theorem State.modVfile_parcels (s : State) (k : Nat) (f : VFile → VFile) : (s.modVfile k f).parcels = s.parcels := rfl
@[simp] theorem State.modVfile_mem (s : State) (k : Nat) (f : VFile → VFile) : (s.modVfile k f).mem = s.mem := rfl
@[simp] theorem State.modVfile_pois (s : State) (k : Nat) (f : VFile → VFile) : (s.modVfile k f).pois = s.pois := rfl
@[simp] theorem State.modVfile_rows (s : State) (k : Nat) (f : VFile → VFile) : (s.modVfile k f).rows = s.rows := rfl
@[simp] theorem State.modVfile_bspares (s : State) (k : Nat) (f : VFile → VFile) : (s.modVfile k f).bspares = s.bspares := rfl
@[simp] theorem State.modVfile_stks (s : State) (k : Nat) (f : VFile → VFile) : (s.modVfile k f).stks = s.stks := rfl
@[simp] theorem State.modVfile_chans (s : State) (k : Nat) (f : VFile → VFile) : (s.modVfile k f).chans = s.chans := rfl
@[simp] theorem State.modVfile_nbus (s : State) (k : Nat) (f : VFile → VFile) : (s.modVfile k f).nbus = s.nbus := rfl
@[simp] theorem State.modVfile_crus (s : State) (k : Nat) (f : VFile → VFile) : (s.modVfile k f).crus = s.crus := rfl
@[simp] theorem State.modVfile_hubs (s : State) (k : Nat) (f : VFile → VFile) : (s.modVfile k f).hubs = s.hubs := rfl
@[simp] theorem State.modVfile_me (s : State) (k : Nat) (f : VFile → VFile) : (s.modVfile k f).me = s.me := rfl
@[simp] theorem State.modVfile_ve (s : State) (k : Nat) (f : VFile → VFile) : (s.modVfile k f).ve = s.ve := rfl
@[simp] theorem State.modVfile_fe (s : State) (k : Nat) (f : VFile → VFile) : (s.modVfile k f).fe = s.fe := rfl
@[simp] theorem State.modVfile_sp (s : State) (k : Nat) (f : VFile → VFile) : (s.modVfile k f).sp = s.sp := rfl
@[simp] theorem State.modVfile_spPois (s : State) (k : Nat) (f : VFile → VFile) : (s.modVfile k f).spPois = s.spPois := rfl
@[simp] theorem State.modVfile_ctxs (s : State) (k : Nat) (f : VFile → VFile) : (s.modVfile k f).ctxs = s.ctxs := rfl
@[simp] theorem State.modVfile_parts (s : State) (k : Nat) (f : VFile → VFile) : (s.modVfile k f).parts = s.parts := rfl
@[simp] theorem State.modVfile_pages (s : State) (k : Nat) (f : VFile → VFile) : (s.modVfile k f).pages = s.pages := rfl
@[simp] theorem State.modVfile_streams (s : State) (k : Nat) (f : VFile → VFile) : (s.modVfile k f).streams = s.streams := rfl
@[simp] theorem State.modVfile_ports (s : State) (k : Nat) (f : VFile → VFile) : (s.modVfile k f).ports = s.ports := rfl
@[simp] theorem State.modVfile_dirs (s : State) (k : Nat) (f : VFile → VFile) : (s.modVfile k f).dirs = s.dirs := rfl
@[simp] theorem State.modVfile_lines (s : State) (k : Nat) (f : VFile → VFile) : (s.modVfile k f).lines = s.lines := rfl
@[simp] theorem State.modVfile_trans (s : State) (k : Nat) (f : VFile → VFile) : (s.modVfile k f).trans = s.trans := rfl
@[simp] theorem State.modVfile_lands (s : State) (k : Nat) (f : VFile → VFile) : (s.modVfile k f).lands = s.lands := rfl
@[simp] theorem State.modVfile_xacts (s : State) (k : Nat) (f : VFile → VFile) : (s.modVfile k f).xacts = s.xacts := rfl
@[simp] theorem State.modVfile_routes (s : State) (k : Nat) (f : VFile → VFile) : (s.modVfile k f).routes = s.routes := rfl
@[simp] theorem State.modVfile_admits (s : State) (k : Nat) (f : VFile → VFile) : (s.modVfile k f).admits = s.admits := rfl
@[simp] theorem State.modVfile_groups (s : State) (k : Nat) (f : VFile → VFile) : (s.modVfile k f).groups = s.groups := rfl
@[simp] theorem State.modVfile_fw (s : State) (k : Nat) (f : VFile → VFile) : (s.modVfile k f).fw = s.fw := rfl
@[simp] theorem State.modVfile_logs (s : State) (k : Nat) (f : VFile → VFile) : (s.modVfile k f).logs = s.logs := rfl
@[simp] theorem State.modVfile_pm (s : State) (k : Nat) (f : VFile → VFile) : (s.modVfile k f).pm = s.pm := rfl
@[simp] theorem State.modVfile_tmap (s : State) (k : Nat) (f : VFile → VFile) : (s.modVfile k f).tmap = s.tmap := rfl
@[simp] theorem State.modVfile_act (s : State) (k : Nat) (f : VFile → VFile) : (s.modVfile k f).act = s.act := rfl
@[simp] theorem State.modVfile_out (s : State) (k : Nat) (f : VFile → VFile) : (s.modVfile k f).out = s.out := rfl
@[simp] theorem State.vfile_modVfile (s : State) (k : Nat) (f : VFile → VFile) : (s.modVfile k f).vfile k = f (s.vfile k) := by
  simp [State.vfile, State.modVfile, Tab.get_upd_same]
theorem State.vfile_modVfile_ne (s : State) (k j : Nat) (f : VFile → VFile) (h : j ≠ k) : (s.modVfile k f).vfile j = s.vfile j := by
  simp [State.vfile, State.modVfile, Tab.get_upd_ne _ _ _ _ _ h]
@[simp] theorem State.modVfile_members (s : State) (k : Nat) (f : VFile → VFile) :
    (∀ j, (s.modVfile k f).slot j = s.slot j) ∧
    (∀ j, (s.modVfile k f).parcel j = s.parcel j) ∧
    (∀ j, (s.modVfile k f).memByte j = s.memByte j) ∧
    (∀ j, (s.modVfile k f).colBad j = s.colBad j) ∧
    (∀ j, (s.modVfile k f).row j = s.row j) ∧
    (∀ j, (s.modVfile k f).bspare j = s.bspare j) ∧
    (∀ j, (s.modVfile k f).stack j = s.stack j) ∧
    (∀ j, (s.modVfile k f).chan j = s.chan j) ∧
    (∀ j, (s.modVfile k f).nbu j = s.nbu j) ∧
    (∀ j, (s.modVfile k f).cru j = s.cru j) ∧
    (∀ j, (s.modVfile k f).hub j = s.hub j) ∧
    (∀ j, (s.modVfile k f).mat j = s.mat j) ∧
    (∀ j, (s.modVfile k f).vec j = s.vec j) ∧
    (∀ j, (s.modVfile k f).fchan j = s.fchan j) ∧
    (∀ j, (s.modVfile k f).spByte j = s.spByte j) ∧
    (∀ j, (s.modVfile k f).spBad j = s.spBad j) ∧
    (∀ j, (s.modVfile k f).ctx j = s.ctx j) ∧
    (∀ j, (s.modVfile k f).part j = s.part j) ∧
    (∀ j, (s.modVfile k f).page j = s.page j) ∧
    (∀ j, (s.modVfile k f).stream j = s.stream j) ∧
    (∀ j, (s.modVfile k f).hport j = s.hport j) ∧
    (∀ j, (s.modVfile k f).dir j = s.dir j) ∧
    (∀ j, (s.modVfile k f).tran j = s.tran j) ∧
    (∀ j, (s.modVfile k f).landing j = s.landing j) ∧
    (∀ j, (s.modVfile k f).route j = s.route j) ∧
    (∀ j, (s.modVfile k f).admission j = s.admission j) ∧
    (∀ j, (s.modVfile k f).group j = s.group j) ∧
    (∀ j, (s.modVfile k f).counter j = s.counter j) := by
  and_intros <;> exact fun _ => rfl
@[simp] theorem State.modFchan_pending (s : State) (k : Nat) (f : FeChan → FeChan) : (s.modFchan k f).pending = s.pending := rfl
@[simp] theorem State.modFchan_cyc (s : State) (k : Nat) (f : FeChan → FeChan) : (s.modFchan k f).cyc = s.cyc := rfl
@[simp] theorem State.modFchan_free (s : State) (k : Nat) (f : FeChan → FeChan) : (s.modFchan k f).free = s.free := rfl
@[simp] theorem State.modFchan_half (s : State) (k : Nat) (f : FeChan → FeChan) : (s.modFchan k f).half = s.half := rfl
@[simp] theorem State.modFchan_regs (s : State) (k : Nat) (f : FeChan → FeChan) : (s.modFchan k f).regs = s.regs := rfl
@[simp] theorem State.modFchan_boot (s : State) (k : Nat) (f : FeChan → FeChan) : (s.modFchan k f).boot = s.boot := rfl
@[simp] theorem State.modFchan_power (s : State) (k : Nat) (f : FeChan → FeChan) : (s.modFchan k f).power = s.power := rfl
@[simp] theorem State.modFchan_slots (s : State) (k : Nat) (f : FeChan → FeChan) : (s.modFchan k f).slots = s.slots := rfl
@[simp] theorem State.modFchan_parcels (s : State) (k : Nat) (f : FeChan → FeChan) : (s.modFchan k f).parcels = s.parcels := rfl
@[simp] theorem State.modFchan_mem (s : State) (k : Nat) (f : FeChan → FeChan) : (s.modFchan k f).mem = s.mem := rfl
@[simp] theorem State.modFchan_pois (s : State) (k : Nat) (f : FeChan → FeChan) : (s.modFchan k f).pois = s.pois := rfl
@[simp] theorem State.modFchan_rows (s : State) (k : Nat) (f : FeChan → FeChan) : (s.modFchan k f).rows = s.rows := rfl
@[simp] theorem State.modFchan_bspares (s : State) (k : Nat) (f : FeChan → FeChan) : (s.modFchan k f).bspares = s.bspares := rfl
@[simp] theorem State.modFchan_stks (s : State) (k : Nat) (f : FeChan → FeChan) : (s.modFchan k f).stks = s.stks := rfl
@[simp] theorem State.modFchan_chans (s : State) (k : Nat) (f : FeChan → FeChan) : (s.modFchan k f).chans = s.chans := rfl
@[simp] theorem State.modFchan_nbus (s : State) (k : Nat) (f : FeChan → FeChan) : (s.modFchan k f).nbus = s.nbus := rfl
@[simp] theorem State.modFchan_crus (s : State) (k : Nat) (f : FeChan → FeChan) : (s.modFchan k f).crus = s.crus := rfl
@[simp] theorem State.modFchan_hubs (s : State) (k : Nat) (f : FeChan → FeChan) : (s.modFchan k f).hubs = s.hubs := rfl
@[simp] theorem State.modFchan_me (s : State) (k : Nat) (f : FeChan → FeChan) : (s.modFchan k f).me = s.me := rfl
@[simp] theorem State.modFchan_ve (s : State) (k : Nat) (f : FeChan → FeChan) : (s.modFchan k f).ve = s.ve := rfl
@[simp] theorem State.modFchan_vfiles (s : State) (k : Nat) (f : FeChan → FeChan) : (s.modFchan k f).vfiles = s.vfiles := rfl
@[simp] theorem State.modFchan_sp (s : State) (k : Nat) (f : FeChan → FeChan) : (s.modFchan k f).sp = s.sp := rfl
@[simp] theorem State.modFchan_spPois (s : State) (k : Nat) (f : FeChan → FeChan) : (s.modFchan k f).spPois = s.spPois := rfl
@[simp] theorem State.modFchan_ctxs (s : State) (k : Nat) (f : FeChan → FeChan) : (s.modFchan k f).ctxs = s.ctxs := rfl
@[simp] theorem State.modFchan_parts (s : State) (k : Nat) (f : FeChan → FeChan) : (s.modFchan k f).parts = s.parts := rfl
@[simp] theorem State.modFchan_pages (s : State) (k : Nat) (f : FeChan → FeChan) : (s.modFchan k f).pages = s.pages := rfl
@[simp] theorem State.modFchan_streams (s : State) (k : Nat) (f : FeChan → FeChan) : (s.modFchan k f).streams = s.streams := rfl
@[simp] theorem State.modFchan_ports (s : State) (k : Nat) (f : FeChan → FeChan) : (s.modFchan k f).ports = s.ports := rfl
@[simp] theorem State.modFchan_dirs (s : State) (k : Nat) (f : FeChan → FeChan) : (s.modFchan k f).dirs = s.dirs := rfl
@[simp] theorem State.modFchan_lines (s : State) (k : Nat) (f : FeChan → FeChan) : (s.modFchan k f).lines = s.lines := rfl
@[simp] theorem State.modFchan_trans (s : State) (k : Nat) (f : FeChan → FeChan) : (s.modFchan k f).trans = s.trans := rfl
@[simp] theorem State.modFchan_lands (s : State) (k : Nat) (f : FeChan → FeChan) : (s.modFchan k f).lands = s.lands := rfl
@[simp] theorem State.modFchan_xacts (s : State) (k : Nat) (f : FeChan → FeChan) : (s.modFchan k f).xacts = s.xacts := rfl
@[simp] theorem State.modFchan_routes (s : State) (k : Nat) (f : FeChan → FeChan) : (s.modFchan k f).routes = s.routes := rfl
@[simp] theorem State.modFchan_admits (s : State) (k : Nat) (f : FeChan → FeChan) : (s.modFchan k f).admits = s.admits := rfl
@[simp] theorem State.modFchan_groups (s : State) (k : Nat) (f : FeChan → FeChan) : (s.modFchan k f).groups = s.groups := rfl
@[simp] theorem State.modFchan_fw (s : State) (k : Nat) (f : FeChan → FeChan) : (s.modFchan k f).fw = s.fw := rfl
@[simp] theorem State.modFchan_logs (s : State) (k : Nat) (f : FeChan → FeChan) : (s.modFchan k f).logs = s.logs := rfl
@[simp] theorem State.modFchan_pm (s : State) (k : Nat) (f : FeChan → FeChan) : (s.modFchan k f).pm = s.pm := rfl
@[simp] theorem State.modFchan_tmap (s : State) (k : Nat) (f : FeChan → FeChan) : (s.modFchan k f).tmap = s.tmap := rfl
@[simp] theorem State.modFchan_act (s : State) (k : Nat) (f : FeChan → FeChan) : (s.modFchan k f).act = s.act := rfl
@[simp] theorem State.modFchan_out (s : State) (k : Nat) (f : FeChan → FeChan) : (s.modFchan k f).out = s.out := rfl
@[simp] theorem State.fchan_modFchan (s : State) (k : Nat) (f : FeChan → FeChan) : (s.modFchan k f).fchan k = f (s.fchan k) := by
  simp [State.fchan, State.modFchan, Tab.get_upd_same]
theorem State.fchan_modFchan_ne (s : State) (k j : Nat) (f : FeChan → FeChan) (h : j ≠ k) : (s.modFchan k f).fchan j = s.fchan j := by
  simp [State.fchan, State.modFchan, Tab.get_upd_ne _ _ _ _ _ h]
@[simp] theorem State.modFchan_members (s : State) (k : Nat) (f : FeChan → FeChan) :
    (∀ j, (s.modFchan k f).slot j = s.slot j) ∧
    (∀ j, (s.modFchan k f).parcel j = s.parcel j) ∧
    (∀ j, (s.modFchan k f).memByte j = s.memByte j) ∧
    (∀ j, (s.modFchan k f).colBad j = s.colBad j) ∧
    (∀ j, (s.modFchan k f).row j = s.row j) ∧
    (∀ j, (s.modFchan k f).bspare j = s.bspare j) ∧
    (∀ j, (s.modFchan k f).stack j = s.stack j) ∧
    (∀ j, (s.modFchan k f).chan j = s.chan j) ∧
    (∀ j, (s.modFchan k f).nbu j = s.nbu j) ∧
    (∀ j, (s.modFchan k f).cru j = s.cru j) ∧
    (∀ j, (s.modFchan k f).hub j = s.hub j) ∧
    (∀ j, (s.modFchan k f).mat j = s.mat j) ∧
    (∀ j, (s.modFchan k f).vec j = s.vec j) ∧
    (∀ j, (s.modFchan k f).vfile j = s.vfile j) ∧
    (∀ j, (s.modFchan k f).spByte j = s.spByte j) ∧
    (∀ j, (s.modFchan k f).spBad j = s.spBad j) ∧
    (∀ j, (s.modFchan k f).ctx j = s.ctx j) ∧
    (∀ j, (s.modFchan k f).part j = s.part j) ∧
    (∀ j, (s.modFchan k f).page j = s.page j) ∧
    (∀ j, (s.modFchan k f).stream j = s.stream j) ∧
    (∀ j, (s.modFchan k f).hport j = s.hport j) ∧
    (∀ j, (s.modFchan k f).dir j = s.dir j) ∧
    (∀ j, (s.modFchan k f).tran j = s.tran j) ∧
    (∀ j, (s.modFchan k f).landing j = s.landing j) ∧
    (∀ j, (s.modFchan k f).route j = s.route j) ∧
    (∀ j, (s.modFchan k f).admission j = s.admission j) ∧
    (∀ j, (s.modFchan k f).group j = s.group j) ∧
    (∀ j, (s.modFchan k f).counter j = s.counter j) := by
  and_intros <;> exact fun _ => rfl
@[simp] theorem State.modSpByte_pending (s : State) (k : Nat) (f : (BitVec 8) → (BitVec 8)) : (s.modSpByte k f).pending = s.pending := rfl
@[simp] theorem State.modSpByte_cyc (s : State) (k : Nat) (f : (BitVec 8) → (BitVec 8)) : (s.modSpByte k f).cyc = s.cyc := rfl
@[simp] theorem State.modSpByte_free (s : State) (k : Nat) (f : (BitVec 8) → (BitVec 8)) : (s.modSpByte k f).free = s.free := rfl
@[simp] theorem State.modSpByte_half (s : State) (k : Nat) (f : (BitVec 8) → (BitVec 8)) : (s.modSpByte k f).half = s.half := rfl
@[simp] theorem State.modSpByte_regs (s : State) (k : Nat) (f : (BitVec 8) → (BitVec 8)) : (s.modSpByte k f).regs = s.regs := rfl
@[simp] theorem State.modSpByte_boot (s : State) (k : Nat) (f : (BitVec 8) → (BitVec 8)) : (s.modSpByte k f).boot = s.boot := rfl
@[simp] theorem State.modSpByte_power (s : State) (k : Nat) (f : (BitVec 8) → (BitVec 8)) : (s.modSpByte k f).power = s.power := rfl
@[simp] theorem State.modSpByte_slots (s : State) (k : Nat) (f : (BitVec 8) → (BitVec 8)) : (s.modSpByte k f).slots = s.slots := rfl
@[simp] theorem State.modSpByte_parcels (s : State) (k : Nat) (f : (BitVec 8) → (BitVec 8)) : (s.modSpByte k f).parcels = s.parcels := rfl
@[simp] theorem State.modSpByte_mem (s : State) (k : Nat) (f : (BitVec 8) → (BitVec 8)) : (s.modSpByte k f).mem = s.mem := rfl
@[simp] theorem State.modSpByte_pois (s : State) (k : Nat) (f : (BitVec 8) → (BitVec 8)) : (s.modSpByte k f).pois = s.pois := rfl
@[simp] theorem State.modSpByte_rows (s : State) (k : Nat) (f : (BitVec 8) → (BitVec 8)) : (s.modSpByte k f).rows = s.rows := rfl
@[simp] theorem State.modSpByte_bspares (s : State) (k : Nat) (f : (BitVec 8) → (BitVec 8)) : (s.modSpByte k f).bspares = s.bspares := rfl
@[simp] theorem State.modSpByte_stks (s : State) (k : Nat) (f : (BitVec 8) → (BitVec 8)) : (s.modSpByte k f).stks = s.stks := rfl
@[simp] theorem State.modSpByte_chans (s : State) (k : Nat) (f : (BitVec 8) → (BitVec 8)) : (s.modSpByte k f).chans = s.chans := rfl
@[simp] theorem State.modSpByte_nbus (s : State) (k : Nat) (f : (BitVec 8) → (BitVec 8)) : (s.modSpByte k f).nbus = s.nbus := rfl
@[simp] theorem State.modSpByte_crus (s : State) (k : Nat) (f : (BitVec 8) → (BitVec 8)) : (s.modSpByte k f).crus = s.crus := rfl
@[simp] theorem State.modSpByte_hubs (s : State) (k : Nat) (f : (BitVec 8) → (BitVec 8)) : (s.modSpByte k f).hubs = s.hubs := rfl
@[simp] theorem State.modSpByte_me (s : State) (k : Nat) (f : (BitVec 8) → (BitVec 8)) : (s.modSpByte k f).me = s.me := rfl
@[simp] theorem State.modSpByte_ve (s : State) (k : Nat) (f : (BitVec 8) → (BitVec 8)) : (s.modSpByte k f).ve = s.ve := rfl
@[simp] theorem State.modSpByte_vfiles (s : State) (k : Nat) (f : (BitVec 8) → (BitVec 8)) : (s.modSpByte k f).vfiles = s.vfiles := rfl
@[simp] theorem State.modSpByte_fe (s : State) (k : Nat) (f : (BitVec 8) → (BitVec 8)) : (s.modSpByte k f).fe = s.fe := rfl
@[simp] theorem State.modSpByte_spPois (s : State) (k : Nat) (f : (BitVec 8) → (BitVec 8)) : (s.modSpByte k f).spPois = s.spPois := rfl
@[simp] theorem State.modSpByte_ctxs (s : State) (k : Nat) (f : (BitVec 8) → (BitVec 8)) : (s.modSpByte k f).ctxs = s.ctxs := rfl
@[simp] theorem State.modSpByte_parts (s : State) (k : Nat) (f : (BitVec 8) → (BitVec 8)) : (s.modSpByte k f).parts = s.parts := rfl
@[simp] theorem State.modSpByte_pages (s : State) (k : Nat) (f : (BitVec 8) → (BitVec 8)) : (s.modSpByte k f).pages = s.pages := rfl
@[simp] theorem State.modSpByte_streams (s : State) (k : Nat) (f : (BitVec 8) → (BitVec 8)) : (s.modSpByte k f).streams = s.streams := rfl
@[simp] theorem State.modSpByte_ports (s : State) (k : Nat) (f : (BitVec 8) → (BitVec 8)) : (s.modSpByte k f).ports = s.ports := rfl
@[simp] theorem State.modSpByte_dirs (s : State) (k : Nat) (f : (BitVec 8) → (BitVec 8)) : (s.modSpByte k f).dirs = s.dirs := rfl
@[simp] theorem State.modSpByte_lines (s : State) (k : Nat) (f : (BitVec 8) → (BitVec 8)) : (s.modSpByte k f).lines = s.lines := rfl
@[simp] theorem State.modSpByte_trans (s : State) (k : Nat) (f : (BitVec 8) → (BitVec 8)) : (s.modSpByte k f).trans = s.trans := rfl
@[simp] theorem State.modSpByte_lands (s : State) (k : Nat) (f : (BitVec 8) → (BitVec 8)) : (s.modSpByte k f).lands = s.lands := rfl
@[simp] theorem State.modSpByte_xacts (s : State) (k : Nat) (f : (BitVec 8) → (BitVec 8)) : (s.modSpByte k f).xacts = s.xacts := rfl
@[simp] theorem State.modSpByte_routes (s : State) (k : Nat) (f : (BitVec 8) → (BitVec 8)) : (s.modSpByte k f).routes = s.routes := rfl
@[simp] theorem State.modSpByte_admits (s : State) (k : Nat) (f : (BitVec 8) → (BitVec 8)) : (s.modSpByte k f).admits = s.admits := rfl
@[simp] theorem State.modSpByte_groups (s : State) (k : Nat) (f : (BitVec 8) → (BitVec 8)) : (s.modSpByte k f).groups = s.groups := rfl
@[simp] theorem State.modSpByte_fw (s : State) (k : Nat) (f : (BitVec 8) → (BitVec 8)) : (s.modSpByte k f).fw = s.fw := rfl
@[simp] theorem State.modSpByte_logs (s : State) (k : Nat) (f : (BitVec 8) → (BitVec 8)) : (s.modSpByte k f).logs = s.logs := rfl
@[simp] theorem State.modSpByte_pm (s : State) (k : Nat) (f : (BitVec 8) → (BitVec 8)) : (s.modSpByte k f).pm = s.pm := rfl
@[simp] theorem State.modSpByte_tmap (s : State) (k : Nat) (f : (BitVec 8) → (BitVec 8)) : (s.modSpByte k f).tmap = s.tmap := rfl
@[simp] theorem State.modSpByte_act (s : State) (k : Nat) (f : (BitVec 8) → (BitVec 8)) : (s.modSpByte k f).act = s.act := rfl
@[simp] theorem State.modSpByte_out (s : State) (k : Nat) (f : (BitVec 8) → (BitVec 8)) : (s.modSpByte k f).out = s.out := rfl
@[simp] theorem State.spByte_modSpByte (s : State) (k : Nat) (f : (BitVec 8) → (BitVec 8)) : (s.modSpByte k f).spByte k = f (s.spByte k) := by
  simp [State.spByte, State.modSpByte, Tab.get_upd_same]
theorem State.spByte_modSpByte_ne (s : State) (k j : Nat) (f : (BitVec 8) → (BitVec 8)) (h : j ≠ k) : (s.modSpByte k f).spByte j = s.spByte j := by
  simp [State.spByte, State.modSpByte, Tab.get_upd_ne _ _ _ _ _ h]
@[simp] theorem State.modSpByte_members (s : State) (k : Nat) (f : (BitVec 8) → (BitVec 8)) :
    (∀ j, (s.modSpByte k f).slot j = s.slot j) ∧
    (∀ j, (s.modSpByte k f).parcel j = s.parcel j) ∧
    (∀ j, (s.modSpByte k f).memByte j = s.memByte j) ∧
    (∀ j, (s.modSpByte k f).colBad j = s.colBad j) ∧
    (∀ j, (s.modSpByte k f).row j = s.row j) ∧
    (∀ j, (s.modSpByte k f).bspare j = s.bspare j) ∧
    (∀ j, (s.modSpByte k f).stack j = s.stack j) ∧
    (∀ j, (s.modSpByte k f).chan j = s.chan j) ∧
    (∀ j, (s.modSpByte k f).nbu j = s.nbu j) ∧
    (∀ j, (s.modSpByte k f).cru j = s.cru j) ∧
    (∀ j, (s.modSpByte k f).hub j = s.hub j) ∧
    (∀ j, (s.modSpByte k f).mat j = s.mat j) ∧
    (∀ j, (s.modSpByte k f).vec j = s.vec j) ∧
    (∀ j, (s.modSpByte k f).vfile j = s.vfile j) ∧
    (∀ j, (s.modSpByte k f).fchan j = s.fchan j) ∧
    (∀ j, (s.modSpByte k f).spBad j = s.spBad j) ∧
    (∀ j, (s.modSpByte k f).ctx j = s.ctx j) ∧
    (∀ j, (s.modSpByte k f).part j = s.part j) ∧
    (∀ j, (s.modSpByte k f).page j = s.page j) ∧
    (∀ j, (s.modSpByte k f).stream j = s.stream j) ∧
    (∀ j, (s.modSpByte k f).hport j = s.hport j) ∧
    (∀ j, (s.modSpByte k f).dir j = s.dir j) ∧
    (∀ j, (s.modSpByte k f).tran j = s.tran j) ∧
    (∀ j, (s.modSpByte k f).landing j = s.landing j) ∧
    (∀ j, (s.modSpByte k f).route j = s.route j) ∧
    (∀ j, (s.modSpByte k f).admission j = s.admission j) ∧
    (∀ j, (s.modSpByte k f).group j = s.group j) ∧
    (∀ j, (s.modSpByte k f).counter j = s.counter j) := by
  and_intros <;> exact fun _ => rfl
@[simp] theorem State.modSpBad_pending (s : State) (k : Nat) (f : Bool → Bool) : (s.modSpBad k f).pending = s.pending := rfl
@[simp] theorem State.modSpBad_cyc (s : State) (k : Nat) (f : Bool → Bool) : (s.modSpBad k f).cyc = s.cyc := rfl
@[simp] theorem State.modSpBad_free (s : State) (k : Nat) (f : Bool → Bool) : (s.modSpBad k f).free = s.free := rfl
@[simp] theorem State.modSpBad_half (s : State) (k : Nat) (f : Bool → Bool) : (s.modSpBad k f).half = s.half := rfl
@[simp] theorem State.modSpBad_regs (s : State) (k : Nat) (f : Bool → Bool) : (s.modSpBad k f).regs = s.regs := rfl
@[simp] theorem State.modSpBad_boot (s : State) (k : Nat) (f : Bool → Bool) : (s.modSpBad k f).boot = s.boot := rfl
@[simp] theorem State.modSpBad_power (s : State) (k : Nat) (f : Bool → Bool) : (s.modSpBad k f).power = s.power := rfl
@[simp] theorem State.modSpBad_slots (s : State) (k : Nat) (f : Bool → Bool) : (s.modSpBad k f).slots = s.slots := rfl
@[simp] theorem State.modSpBad_parcels (s : State) (k : Nat) (f : Bool → Bool) : (s.modSpBad k f).parcels = s.parcels := rfl
@[simp] theorem State.modSpBad_mem (s : State) (k : Nat) (f : Bool → Bool) : (s.modSpBad k f).mem = s.mem := rfl
@[simp] theorem State.modSpBad_pois (s : State) (k : Nat) (f : Bool → Bool) : (s.modSpBad k f).pois = s.pois := rfl
@[simp] theorem State.modSpBad_rows (s : State) (k : Nat) (f : Bool → Bool) : (s.modSpBad k f).rows = s.rows := rfl
@[simp] theorem State.modSpBad_bspares (s : State) (k : Nat) (f : Bool → Bool) : (s.modSpBad k f).bspares = s.bspares := rfl
@[simp] theorem State.modSpBad_stks (s : State) (k : Nat) (f : Bool → Bool) : (s.modSpBad k f).stks = s.stks := rfl
@[simp] theorem State.modSpBad_chans (s : State) (k : Nat) (f : Bool → Bool) : (s.modSpBad k f).chans = s.chans := rfl
@[simp] theorem State.modSpBad_nbus (s : State) (k : Nat) (f : Bool → Bool) : (s.modSpBad k f).nbus = s.nbus := rfl
@[simp] theorem State.modSpBad_crus (s : State) (k : Nat) (f : Bool → Bool) : (s.modSpBad k f).crus = s.crus := rfl
@[simp] theorem State.modSpBad_hubs (s : State) (k : Nat) (f : Bool → Bool) : (s.modSpBad k f).hubs = s.hubs := rfl
@[simp] theorem State.modSpBad_me (s : State) (k : Nat) (f : Bool → Bool) : (s.modSpBad k f).me = s.me := rfl
@[simp] theorem State.modSpBad_ve (s : State) (k : Nat) (f : Bool → Bool) : (s.modSpBad k f).ve = s.ve := rfl
@[simp] theorem State.modSpBad_vfiles (s : State) (k : Nat) (f : Bool → Bool) : (s.modSpBad k f).vfiles = s.vfiles := rfl
@[simp] theorem State.modSpBad_fe (s : State) (k : Nat) (f : Bool → Bool) : (s.modSpBad k f).fe = s.fe := rfl
@[simp] theorem State.modSpBad_sp (s : State) (k : Nat) (f : Bool → Bool) : (s.modSpBad k f).sp = s.sp := rfl
@[simp] theorem State.modSpBad_ctxs (s : State) (k : Nat) (f : Bool → Bool) : (s.modSpBad k f).ctxs = s.ctxs := rfl
@[simp] theorem State.modSpBad_parts (s : State) (k : Nat) (f : Bool → Bool) : (s.modSpBad k f).parts = s.parts := rfl
@[simp] theorem State.modSpBad_pages (s : State) (k : Nat) (f : Bool → Bool) : (s.modSpBad k f).pages = s.pages := rfl
@[simp] theorem State.modSpBad_streams (s : State) (k : Nat) (f : Bool → Bool) : (s.modSpBad k f).streams = s.streams := rfl
@[simp] theorem State.modSpBad_ports (s : State) (k : Nat) (f : Bool → Bool) : (s.modSpBad k f).ports = s.ports := rfl
@[simp] theorem State.modSpBad_dirs (s : State) (k : Nat) (f : Bool → Bool) : (s.modSpBad k f).dirs = s.dirs := rfl
@[simp] theorem State.modSpBad_lines (s : State) (k : Nat) (f : Bool → Bool) : (s.modSpBad k f).lines = s.lines := rfl
@[simp] theorem State.modSpBad_trans (s : State) (k : Nat) (f : Bool → Bool) : (s.modSpBad k f).trans = s.trans := rfl
@[simp] theorem State.modSpBad_lands (s : State) (k : Nat) (f : Bool → Bool) : (s.modSpBad k f).lands = s.lands := rfl
@[simp] theorem State.modSpBad_xacts (s : State) (k : Nat) (f : Bool → Bool) : (s.modSpBad k f).xacts = s.xacts := rfl
@[simp] theorem State.modSpBad_routes (s : State) (k : Nat) (f : Bool → Bool) : (s.modSpBad k f).routes = s.routes := rfl
@[simp] theorem State.modSpBad_admits (s : State) (k : Nat) (f : Bool → Bool) : (s.modSpBad k f).admits = s.admits := rfl
@[simp] theorem State.modSpBad_groups (s : State) (k : Nat) (f : Bool → Bool) : (s.modSpBad k f).groups = s.groups := rfl
@[simp] theorem State.modSpBad_fw (s : State) (k : Nat) (f : Bool → Bool) : (s.modSpBad k f).fw = s.fw := rfl
@[simp] theorem State.modSpBad_logs (s : State) (k : Nat) (f : Bool → Bool) : (s.modSpBad k f).logs = s.logs := rfl
@[simp] theorem State.modSpBad_pm (s : State) (k : Nat) (f : Bool → Bool) : (s.modSpBad k f).pm = s.pm := rfl
@[simp] theorem State.modSpBad_tmap (s : State) (k : Nat) (f : Bool → Bool) : (s.modSpBad k f).tmap = s.tmap := rfl
@[simp] theorem State.modSpBad_act (s : State) (k : Nat) (f : Bool → Bool) : (s.modSpBad k f).act = s.act := rfl
@[simp] theorem State.modSpBad_out (s : State) (k : Nat) (f : Bool → Bool) : (s.modSpBad k f).out = s.out := rfl
@[simp] theorem State.spBad_modSpBad (s : State) (k : Nat) (f : Bool → Bool) : (s.modSpBad k f).spBad k = f (s.spBad k) := by
  simp [State.spBad, State.modSpBad, Tab.get_upd_same]
theorem State.spBad_modSpBad_ne (s : State) (k j : Nat) (f : Bool → Bool) (h : j ≠ k) : (s.modSpBad k f).spBad j = s.spBad j := by
  simp [State.spBad, State.modSpBad, Tab.get_upd_ne _ _ _ _ _ h]
@[simp] theorem State.modSpBad_members (s : State) (k : Nat) (f : Bool → Bool) :
    (∀ j, (s.modSpBad k f).slot j = s.slot j) ∧
    (∀ j, (s.modSpBad k f).parcel j = s.parcel j) ∧
    (∀ j, (s.modSpBad k f).memByte j = s.memByte j) ∧
    (∀ j, (s.modSpBad k f).colBad j = s.colBad j) ∧
    (∀ j, (s.modSpBad k f).row j = s.row j) ∧
    (∀ j, (s.modSpBad k f).bspare j = s.bspare j) ∧
    (∀ j, (s.modSpBad k f).stack j = s.stack j) ∧
    (∀ j, (s.modSpBad k f).chan j = s.chan j) ∧
    (∀ j, (s.modSpBad k f).nbu j = s.nbu j) ∧
    (∀ j, (s.modSpBad k f).cru j = s.cru j) ∧
    (∀ j, (s.modSpBad k f).hub j = s.hub j) ∧
    (∀ j, (s.modSpBad k f).mat j = s.mat j) ∧
    (∀ j, (s.modSpBad k f).vec j = s.vec j) ∧
    (∀ j, (s.modSpBad k f).vfile j = s.vfile j) ∧
    (∀ j, (s.modSpBad k f).fchan j = s.fchan j) ∧
    (∀ j, (s.modSpBad k f).spByte j = s.spByte j) ∧
    (∀ j, (s.modSpBad k f).ctx j = s.ctx j) ∧
    (∀ j, (s.modSpBad k f).part j = s.part j) ∧
    (∀ j, (s.modSpBad k f).page j = s.page j) ∧
    (∀ j, (s.modSpBad k f).stream j = s.stream j) ∧
    (∀ j, (s.modSpBad k f).hport j = s.hport j) ∧
    (∀ j, (s.modSpBad k f).dir j = s.dir j) ∧
    (∀ j, (s.modSpBad k f).tran j = s.tran j) ∧
    (∀ j, (s.modSpBad k f).landing j = s.landing j) ∧
    (∀ j, (s.modSpBad k f).route j = s.route j) ∧
    (∀ j, (s.modSpBad k f).admission j = s.admission j) ∧
    (∀ j, (s.modSpBad k f).group j = s.group j) ∧
    (∀ j, (s.modSpBad k f).counter j = s.counter j) := by
  and_intros <;> exact fun _ => rfl
@[simp] theorem State.modCtx_pending (s : State) (k : Nat) (f : Ctx → Ctx) : (s.modCtx k f).pending = s.pending := rfl
@[simp] theorem State.modCtx_cyc (s : State) (k : Nat) (f : Ctx → Ctx) : (s.modCtx k f).cyc = s.cyc := rfl
@[simp] theorem State.modCtx_free (s : State) (k : Nat) (f : Ctx → Ctx) : (s.modCtx k f).free = s.free := rfl
@[simp] theorem State.modCtx_half (s : State) (k : Nat) (f : Ctx → Ctx) : (s.modCtx k f).half = s.half := rfl
@[simp] theorem State.modCtx_regs (s : State) (k : Nat) (f : Ctx → Ctx) : (s.modCtx k f).regs = s.regs := rfl
@[simp] theorem State.modCtx_boot (s : State) (k : Nat) (f : Ctx → Ctx) : (s.modCtx k f).boot = s.boot := rfl
@[simp] theorem State.modCtx_power (s : State) (k : Nat) (f : Ctx → Ctx) : (s.modCtx k f).power = s.power := rfl
@[simp] theorem State.modCtx_slots (s : State) (k : Nat) (f : Ctx → Ctx) : (s.modCtx k f).slots = s.slots := rfl
@[simp] theorem State.modCtx_parcels (s : State) (k : Nat) (f : Ctx → Ctx) : (s.modCtx k f).parcels = s.parcels := rfl
@[simp] theorem State.modCtx_mem (s : State) (k : Nat) (f : Ctx → Ctx) : (s.modCtx k f).mem = s.mem := rfl
@[simp] theorem State.modCtx_pois (s : State) (k : Nat) (f : Ctx → Ctx) : (s.modCtx k f).pois = s.pois := rfl
@[simp] theorem State.modCtx_rows (s : State) (k : Nat) (f : Ctx → Ctx) : (s.modCtx k f).rows = s.rows := rfl
@[simp] theorem State.modCtx_bspares (s : State) (k : Nat) (f : Ctx → Ctx) : (s.modCtx k f).bspares = s.bspares := rfl
@[simp] theorem State.modCtx_stks (s : State) (k : Nat) (f : Ctx → Ctx) : (s.modCtx k f).stks = s.stks := rfl
@[simp] theorem State.modCtx_chans (s : State) (k : Nat) (f : Ctx → Ctx) : (s.modCtx k f).chans = s.chans := rfl
@[simp] theorem State.modCtx_nbus (s : State) (k : Nat) (f : Ctx → Ctx) : (s.modCtx k f).nbus = s.nbus := rfl
@[simp] theorem State.modCtx_crus (s : State) (k : Nat) (f : Ctx → Ctx) : (s.modCtx k f).crus = s.crus := rfl
@[simp] theorem State.modCtx_hubs (s : State) (k : Nat) (f : Ctx → Ctx) : (s.modCtx k f).hubs = s.hubs := rfl
@[simp] theorem State.modCtx_me (s : State) (k : Nat) (f : Ctx → Ctx) : (s.modCtx k f).me = s.me := rfl
@[simp] theorem State.modCtx_ve (s : State) (k : Nat) (f : Ctx → Ctx) : (s.modCtx k f).ve = s.ve := rfl
@[simp] theorem State.modCtx_vfiles (s : State) (k : Nat) (f : Ctx → Ctx) : (s.modCtx k f).vfiles = s.vfiles := rfl
@[simp] theorem State.modCtx_fe (s : State) (k : Nat) (f : Ctx → Ctx) : (s.modCtx k f).fe = s.fe := rfl
@[simp] theorem State.modCtx_sp (s : State) (k : Nat) (f : Ctx → Ctx) : (s.modCtx k f).sp = s.sp := rfl
@[simp] theorem State.modCtx_spPois (s : State) (k : Nat) (f : Ctx → Ctx) : (s.modCtx k f).spPois = s.spPois := rfl
@[simp] theorem State.modCtx_parts (s : State) (k : Nat) (f : Ctx → Ctx) : (s.modCtx k f).parts = s.parts := rfl
@[simp] theorem State.modCtx_pages (s : State) (k : Nat) (f : Ctx → Ctx) : (s.modCtx k f).pages = s.pages := rfl
@[simp] theorem State.modCtx_streams (s : State) (k : Nat) (f : Ctx → Ctx) : (s.modCtx k f).streams = s.streams := rfl
@[simp] theorem State.modCtx_ports (s : State) (k : Nat) (f : Ctx → Ctx) : (s.modCtx k f).ports = s.ports := rfl
@[simp] theorem State.modCtx_dirs (s : State) (k : Nat) (f : Ctx → Ctx) : (s.modCtx k f).dirs = s.dirs := rfl
@[simp] theorem State.modCtx_lines (s : State) (k : Nat) (f : Ctx → Ctx) : (s.modCtx k f).lines = s.lines := rfl
@[simp] theorem State.modCtx_trans (s : State) (k : Nat) (f : Ctx → Ctx) : (s.modCtx k f).trans = s.trans := rfl
@[simp] theorem State.modCtx_lands (s : State) (k : Nat) (f : Ctx → Ctx) : (s.modCtx k f).lands = s.lands := rfl
@[simp] theorem State.modCtx_xacts (s : State) (k : Nat) (f : Ctx → Ctx) : (s.modCtx k f).xacts = s.xacts := rfl
@[simp] theorem State.modCtx_routes (s : State) (k : Nat) (f : Ctx → Ctx) : (s.modCtx k f).routes = s.routes := rfl
@[simp] theorem State.modCtx_admits (s : State) (k : Nat) (f : Ctx → Ctx) : (s.modCtx k f).admits = s.admits := rfl
@[simp] theorem State.modCtx_groups (s : State) (k : Nat) (f : Ctx → Ctx) : (s.modCtx k f).groups = s.groups := rfl
@[simp] theorem State.modCtx_fw (s : State) (k : Nat) (f : Ctx → Ctx) : (s.modCtx k f).fw = s.fw := rfl
@[simp] theorem State.modCtx_logs (s : State) (k : Nat) (f : Ctx → Ctx) : (s.modCtx k f).logs = s.logs := rfl
@[simp] theorem State.modCtx_pm (s : State) (k : Nat) (f : Ctx → Ctx) : (s.modCtx k f).pm = s.pm := rfl
@[simp] theorem State.modCtx_tmap (s : State) (k : Nat) (f : Ctx → Ctx) : (s.modCtx k f).tmap = s.tmap := rfl
@[simp] theorem State.modCtx_act (s : State) (k : Nat) (f : Ctx → Ctx) : (s.modCtx k f).act = s.act := rfl
@[simp] theorem State.modCtx_out (s : State) (k : Nat) (f : Ctx → Ctx) : (s.modCtx k f).out = s.out := rfl
@[simp] theorem State.ctx_modCtx (s : State) (k : Nat) (f : Ctx → Ctx) : (s.modCtx k f).ctx k = f (s.ctx k) := by
  simp [State.ctx, State.modCtx, Tab.get_upd_same]
theorem State.ctx_modCtx_ne (s : State) (k j : Nat) (f : Ctx → Ctx) (h : j ≠ k) : (s.modCtx k f).ctx j = s.ctx j := by
  simp [State.ctx, State.modCtx, Tab.get_upd_ne _ _ _ _ _ h]
@[simp] theorem State.modCtx_members (s : State) (k : Nat) (f : Ctx → Ctx) :
    (∀ j, (s.modCtx k f).slot j = s.slot j) ∧
    (∀ j, (s.modCtx k f).parcel j = s.parcel j) ∧
    (∀ j, (s.modCtx k f).memByte j = s.memByte j) ∧
    (∀ j, (s.modCtx k f).colBad j = s.colBad j) ∧
    (∀ j, (s.modCtx k f).row j = s.row j) ∧
    (∀ j, (s.modCtx k f).bspare j = s.bspare j) ∧
    (∀ j, (s.modCtx k f).stack j = s.stack j) ∧
    (∀ j, (s.modCtx k f).chan j = s.chan j) ∧
    (∀ j, (s.modCtx k f).nbu j = s.nbu j) ∧
    (∀ j, (s.modCtx k f).cru j = s.cru j) ∧
    (∀ j, (s.modCtx k f).hub j = s.hub j) ∧
    (∀ j, (s.modCtx k f).mat j = s.mat j) ∧
    (∀ j, (s.modCtx k f).vec j = s.vec j) ∧
    (∀ j, (s.modCtx k f).vfile j = s.vfile j) ∧
    (∀ j, (s.modCtx k f).fchan j = s.fchan j) ∧
    (∀ j, (s.modCtx k f).spByte j = s.spByte j) ∧
    (∀ j, (s.modCtx k f).spBad j = s.spBad j) ∧
    (∀ j, (s.modCtx k f).part j = s.part j) ∧
    (∀ j, (s.modCtx k f).page j = s.page j) ∧
    (∀ j, (s.modCtx k f).stream j = s.stream j) ∧
    (∀ j, (s.modCtx k f).hport j = s.hport j) ∧
    (∀ j, (s.modCtx k f).dir j = s.dir j) ∧
    (∀ j, (s.modCtx k f).tran j = s.tran j) ∧
    (∀ j, (s.modCtx k f).landing j = s.landing j) ∧
    (∀ j, (s.modCtx k f).route j = s.route j) ∧
    (∀ j, (s.modCtx k f).admission j = s.admission j) ∧
    (∀ j, (s.modCtx k f).group j = s.group j) ∧
    (∀ j, (s.modCtx k f).counter j = s.counter j) := by
  and_intros <;> exact fun _ => rfl
@[simp] theorem State.modPart_pending (s : State) (k : Nat) (f : Part → Part) : (s.modPart k f).pending = s.pending := rfl
@[simp] theorem State.modPart_cyc (s : State) (k : Nat) (f : Part → Part) : (s.modPart k f).cyc = s.cyc := rfl
@[simp] theorem State.modPart_free (s : State) (k : Nat) (f : Part → Part) : (s.modPart k f).free = s.free := rfl
@[simp] theorem State.modPart_half (s : State) (k : Nat) (f : Part → Part) : (s.modPart k f).half = s.half := rfl
@[simp] theorem State.modPart_regs (s : State) (k : Nat) (f : Part → Part) : (s.modPart k f).regs = s.regs := rfl
@[simp] theorem State.modPart_boot (s : State) (k : Nat) (f : Part → Part) : (s.modPart k f).boot = s.boot := rfl
@[simp] theorem State.modPart_power (s : State) (k : Nat) (f : Part → Part) : (s.modPart k f).power = s.power := rfl
@[simp] theorem State.modPart_slots (s : State) (k : Nat) (f : Part → Part) : (s.modPart k f).slots = s.slots := rfl
@[simp] theorem State.modPart_parcels (s : State) (k : Nat) (f : Part → Part) : (s.modPart k f).parcels = s.parcels := rfl
@[simp] theorem State.modPart_mem (s : State) (k : Nat) (f : Part → Part) : (s.modPart k f).mem = s.mem := rfl
@[simp] theorem State.modPart_pois (s : State) (k : Nat) (f : Part → Part) : (s.modPart k f).pois = s.pois := rfl
@[simp] theorem State.modPart_rows (s : State) (k : Nat) (f : Part → Part) : (s.modPart k f).rows = s.rows := rfl
@[simp] theorem State.modPart_bspares (s : State) (k : Nat) (f : Part → Part) : (s.modPart k f).bspares = s.bspares := rfl
@[simp] theorem State.modPart_stks (s : State) (k : Nat) (f : Part → Part) : (s.modPart k f).stks = s.stks := rfl
@[simp] theorem State.modPart_chans (s : State) (k : Nat) (f : Part → Part) : (s.modPart k f).chans = s.chans := rfl
@[simp] theorem State.modPart_nbus (s : State) (k : Nat) (f : Part → Part) : (s.modPart k f).nbus = s.nbus := rfl
@[simp] theorem State.modPart_crus (s : State) (k : Nat) (f : Part → Part) : (s.modPart k f).crus = s.crus := rfl
@[simp] theorem State.modPart_hubs (s : State) (k : Nat) (f : Part → Part) : (s.modPart k f).hubs = s.hubs := rfl
@[simp] theorem State.modPart_me (s : State) (k : Nat) (f : Part → Part) : (s.modPart k f).me = s.me := rfl
@[simp] theorem State.modPart_ve (s : State) (k : Nat) (f : Part → Part) : (s.modPart k f).ve = s.ve := rfl
@[simp] theorem State.modPart_vfiles (s : State) (k : Nat) (f : Part → Part) : (s.modPart k f).vfiles = s.vfiles := rfl
@[simp] theorem State.modPart_fe (s : State) (k : Nat) (f : Part → Part) : (s.modPart k f).fe = s.fe := rfl
@[simp] theorem State.modPart_sp (s : State) (k : Nat) (f : Part → Part) : (s.modPart k f).sp = s.sp := rfl
@[simp] theorem State.modPart_spPois (s : State) (k : Nat) (f : Part → Part) : (s.modPart k f).spPois = s.spPois := rfl
@[simp] theorem State.modPart_ctxs (s : State) (k : Nat) (f : Part → Part) : (s.modPart k f).ctxs = s.ctxs := rfl
@[simp] theorem State.modPart_pages (s : State) (k : Nat) (f : Part → Part) : (s.modPart k f).pages = s.pages := rfl
@[simp] theorem State.modPart_streams (s : State) (k : Nat) (f : Part → Part) : (s.modPart k f).streams = s.streams := rfl
@[simp] theorem State.modPart_ports (s : State) (k : Nat) (f : Part → Part) : (s.modPart k f).ports = s.ports := rfl
@[simp] theorem State.modPart_dirs (s : State) (k : Nat) (f : Part → Part) : (s.modPart k f).dirs = s.dirs := rfl
@[simp] theorem State.modPart_lines (s : State) (k : Nat) (f : Part → Part) : (s.modPart k f).lines = s.lines := rfl
@[simp] theorem State.modPart_trans (s : State) (k : Nat) (f : Part → Part) : (s.modPart k f).trans = s.trans := rfl
@[simp] theorem State.modPart_lands (s : State) (k : Nat) (f : Part → Part) : (s.modPart k f).lands = s.lands := rfl
@[simp] theorem State.modPart_xacts (s : State) (k : Nat) (f : Part → Part) : (s.modPart k f).xacts = s.xacts := rfl
@[simp] theorem State.modPart_routes (s : State) (k : Nat) (f : Part → Part) : (s.modPart k f).routes = s.routes := rfl
@[simp] theorem State.modPart_admits (s : State) (k : Nat) (f : Part → Part) : (s.modPart k f).admits = s.admits := rfl
@[simp] theorem State.modPart_groups (s : State) (k : Nat) (f : Part → Part) : (s.modPart k f).groups = s.groups := rfl
@[simp] theorem State.modPart_fw (s : State) (k : Nat) (f : Part → Part) : (s.modPart k f).fw = s.fw := rfl
@[simp] theorem State.modPart_logs (s : State) (k : Nat) (f : Part → Part) : (s.modPart k f).logs = s.logs := rfl
@[simp] theorem State.modPart_pm (s : State) (k : Nat) (f : Part → Part) : (s.modPart k f).pm = s.pm := rfl
@[simp] theorem State.modPart_tmap (s : State) (k : Nat) (f : Part → Part) : (s.modPart k f).tmap = s.tmap := rfl
@[simp] theorem State.modPart_act (s : State) (k : Nat) (f : Part → Part) : (s.modPart k f).act = s.act := rfl
@[simp] theorem State.modPart_out (s : State) (k : Nat) (f : Part → Part) : (s.modPart k f).out = s.out := rfl
@[simp] theorem State.part_modPart (s : State) (k : Nat) (f : Part → Part) : (s.modPart k f).part k = f (s.part k) := by
  simp [State.part, State.modPart, Tab.get_upd_same]
theorem State.part_modPart_ne (s : State) (k j : Nat) (f : Part → Part) (h : j ≠ k) : (s.modPart k f).part j = s.part j := by
  simp [State.part, State.modPart, Tab.get_upd_ne _ _ _ _ _ h]
@[simp] theorem State.modPart_members (s : State) (k : Nat) (f : Part → Part) :
    (∀ j, (s.modPart k f).slot j = s.slot j) ∧
    (∀ j, (s.modPart k f).parcel j = s.parcel j) ∧
    (∀ j, (s.modPart k f).memByte j = s.memByte j) ∧
    (∀ j, (s.modPart k f).colBad j = s.colBad j) ∧
    (∀ j, (s.modPart k f).row j = s.row j) ∧
    (∀ j, (s.modPart k f).bspare j = s.bspare j) ∧
    (∀ j, (s.modPart k f).stack j = s.stack j) ∧
    (∀ j, (s.modPart k f).chan j = s.chan j) ∧
    (∀ j, (s.modPart k f).nbu j = s.nbu j) ∧
    (∀ j, (s.modPart k f).cru j = s.cru j) ∧
    (∀ j, (s.modPart k f).hub j = s.hub j) ∧
    (∀ j, (s.modPart k f).mat j = s.mat j) ∧
    (∀ j, (s.modPart k f).vec j = s.vec j) ∧
    (∀ j, (s.modPart k f).vfile j = s.vfile j) ∧
    (∀ j, (s.modPart k f).fchan j = s.fchan j) ∧
    (∀ j, (s.modPart k f).spByte j = s.spByte j) ∧
    (∀ j, (s.modPart k f).spBad j = s.spBad j) ∧
    (∀ j, (s.modPart k f).ctx j = s.ctx j) ∧
    (∀ j, (s.modPart k f).page j = s.page j) ∧
    (∀ j, (s.modPart k f).stream j = s.stream j) ∧
    (∀ j, (s.modPart k f).hport j = s.hport j) ∧
    (∀ j, (s.modPart k f).dir j = s.dir j) ∧
    (∀ j, (s.modPart k f).tran j = s.tran j) ∧
    (∀ j, (s.modPart k f).landing j = s.landing j) ∧
    (∀ j, (s.modPart k f).route j = s.route j) ∧
    (∀ j, (s.modPart k f).admission j = s.admission j) ∧
    (∀ j, (s.modPart k f).group j = s.group j) ∧
    (∀ j, (s.modPart k f).counter j = s.counter j) := by
  and_intros <;> exact fun _ => rfl
@[simp] theorem State.modPage_pending (s : State) (k : Nat) (f : Page → Page) : (s.modPage k f).pending = s.pending := rfl
@[simp] theorem State.modPage_cyc (s : State) (k : Nat) (f : Page → Page) : (s.modPage k f).cyc = s.cyc := rfl
@[simp] theorem State.modPage_free (s : State) (k : Nat) (f : Page → Page) : (s.modPage k f).free = s.free := rfl
@[simp] theorem State.modPage_half (s : State) (k : Nat) (f : Page → Page) : (s.modPage k f).half = s.half := rfl
@[simp] theorem State.modPage_regs (s : State) (k : Nat) (f : Page → Page) : (s.modPage k f).regs = s.regs := rfl
@[simp] theorem State.modPage_boot (s : State) (k : Nat) (f : Page → Page) : (s.modPage k f).boot = s.boot := rfl
@[simp] theorem State.modPage_power (s : State) (k : Nat) (f : Page → Page) : (s.modPage k f).power = s.power := rfl
@[simp] theorem State.modPage_slots (s : State) (k : Nat) (f : Page → Page) : (s.modPage k f).slots = s.slots := rfl
@[simp] theorem State.modPage_parcels (s : State) (k : Nat) (f : Page → Page) : (s.modPage k f).parcels = s.parcels := rfl
@[simp] theorem State.modPage_mem (s : State) (k : Nat) (f : Page → Page) : (s.modPage k f).mem = s.mem := rfl
@[simp] theorem State.modPage_pois (s : State) (k : Nat) (f : Page → Page) : (s.modPage k f).pois = s.pois := rfl
@[simp] theorem State.modPage_rows (s : State) (k : Nat) (f : Page → Page) : (s.modPage k f).rows = s.rows := rfl
@[simp] theorem State.modPage_bspares (s : State) (k : Nat) (f : Page → Page) : (s.modPage k f).bspares = s.bspares := rfl
@[simp] theorem State.modPage_stks (s : State) (k : Nat) (f : Page → Page) : (s.modPage k f).stks = s.stks := rfl
@[simp] theorem State.modPage_chans (s : State) (k : Nat) (f : Page → Page) : (s.modPage k f).chans = s.chans := rfl
@[simp] theorem State.modPage_nbus (s : State) (k : Nat) (f : Page → Page) : (s.modPage k f).nbus = s.nbus := rfl
@[simp] theorem State.modPage_crus (s : State) (k : Nat) (f : Page → Page) : (s.modPage k f).crus = s.crus := rfl
@[simp] theorem State.modPage_hubs (s : State) (k : Nat) (f : Page → Page) : (s.modPage k f).hubs = s.hubs := rfl
@[simp] theorem State.modPage_me (s : State) (k : Nat) (f : Page → Page) : (s.modPage k f).me = s.me := rfl
@[simp] theorem State.modPage_ve (s : State) (k : Nat) (f : Page → Page) : (s.modPage k f).ve = s.ve := rfl
@[simp] theorem State.modPage_vfiles (s : State) (k : Nat) (f : Page → Page) : (s.modPage k f).vfiles = s.vfiles := rfl
@[simp] theorem State.modPage_fe (s : State) (k : Nat) (f : Page → Page) : (s.modPage k f).fe = s.fe := rfl
@[simp] theorem State.modPage_sp (s : State) (k : Nat) (f : Page → Page) : (s.modPage k f).sp = s.sp := rfl
@[simp] theorem State.modPage_spPois (s : State) (k : Nat) (f : Page → Page) : (s.modPage k f).spPois = s.spPois := rfl
@[simp] theorem State.modPage_ctxs (s : State) (k : Nat) (f : Page → Page) : (s.modPage k f).ctxs = s.ctxs := rfl
@[simp] theorem State.modPage_parts (s : State) (k : Nat) (f : Page → Page) : (s.modPage k f).parts = s.parts := rfl
@[simp] theorem State.modPage_streams (s : State) (k : Nat) (f : Page → Page) : (s.modPage k f).streams = s.streams := rfl
@[simp] theorem State.modPage_ports (s : State) (k : Nat) (f : Page → Page) : (s.modPage k f).ports = s.ports := rfl
@[simp] theorem State.modPage_dirs (s : State) (k : Nat) (f : Page → Page) : (s.modPage k f).dirs = s.dirs := rfl
@[simp] theorem State.modPage_lines (s : State) (k : Nat) (f : Page → Page) : (s.modPage k f).lines = s.lines := rfl
@[simp] theorem State.modPage_trans (s : State) (k : Nat) (f : Page → Page) : (s.modPage k f).trans = s.trans := rfl
@[simp] theorem State.modPage_lands (s : State) (k : Nat) (f : Page → Page) : (s.modPage k f).lands = s.lands := rfl
@[simp] theorem State.modPage_xacts (s : State) (k : Nat) (f : Page → Page) : (s.modPage k f).xacts = s.xacts := rfl
@[simp] theorem State.modPage_routes (s : State) (k : Nat) (f : Page → Page) : (s.modPage k f).routes = s.routes := rfl
@[simp] theorem State.modPage_admits (s : State) (k : Nat) (f : Page → Page) : (s.modPage k f).admits = s.admits := rfl
@[simp] theorem State.modPage_groups (s : State) (k : Nat) (f : Page → Page) : (s.modPage k f).groups = s.groups := rfl
@[simp] theorem State.modPage_fw (s : State) (k : Nat) (f : Page → Page) : (s.modPage k f).fw = s.fw := rfl
@[simp] theorem State.modPage_logs (s : State) (k : Nat) (f : Page → Page) : (s.modPage k f).logs = s.logs := rfl
@[simp] theorem State.modPage_pm (s : State) (k : Nat) (f : Page → Page) : (s.modPage k f).pm = s.pm := rfl
@[simp] theorem State.modPage_tmap (s : State) (k : Nat) (f : Page → Page) : (s.modPage k f).tmap = s.tmap := rfl
@[simp] theorem State.modPage_act (s : State) (k : Nat) (f : Page → Page) : (s.modPage k f).act = s.act := rfl
@[simp] theorem State.modPage_out (s : State) (k : Nat) (f : Page → Page) : (s.modPage k f).out = s.out := rfl
@[simp] theorem State.page_modPage (s : State) (k : Nat) (f : Page → Page) : (s.modPage k f).page k = f (s.page k) := by
  simp [State.page, State.modPage, Tab.get_upd_same]
theorem State.page_modPage_ne (s : State) (k j : Nat) (f : Page → Page) (h : j ≠ k) : (s.modPage k f).page j = s.page j := by
  simp [State.page, State.modPage, Tab.get_upd_ne _ _ _ _ _ h]
@[simp] theorem State.modPage_members (s : State) (k : Nat) (f : Page → Page) :
    (∀ j, (s.modPage k f).slot j = s.slot j) ∧
    (∀ j, (s.modPage k f).parcel j = s.parcel j) ∧
    (∀ j, (s.modPage k f).memByte j = s.memByte j) ∧
    (∀ j, (s.modPage k f).colBad j = s.colBad j) ∧
    (∀ j, (s.modPage k f).row j = s.row j) ∧
    (∀ j, (s.modPage k f).bspare j = s.bspare j) ∧
    (∀ j, (s.modPage k f).stack j = s.stack j) ∧
    (∀ j, (s.modPage k f).chan j = s.chan j) ∧
    (∀ j, (s.modPage k f).nbu j = s.nbu j) ∧
    (∀ j, (s.modPage k f).cru j = s.cru j) ∧
    (∀ j, (s.modPage k f).hub j = s.hub j) ∧
    (∀ j, (s.modPage k f).mat j = s.mat j) ∧
    (∀ j, (s.modPage k f).vec j = s.vec j) ∧
    (∀ j, (s.modPage k f).vfile j = s.vfile j) ∧
    (∀ j, (s.modPage k f).fchan j = s.fchan j) ∧
    (∀ j, (s.modPage k f).spByte j = s.spByte j) ∧
    (∀ j, (s.modPage k f).spBad j = s.spBad j) ∧
    (∀ j, (s.modPage k f).ctx j = s.ctx j) ∧
    (∀ j, (s.modPage k f).part j = s.part j) ∧
    (∀ j, (s.modPage k f).stream j = s.stream j) ∧
    (∀ j, (s.modPage k f).hport j = s.hport j) ∧
    (∀ j, (s.modPage k f).dir j = s.dir j) ∧
    (∀ j, (s.modPage k f).tran j = s.tran j) ∧
    (∀ j, (s.modPage k f).landing j = s.landing j) ∧
    (∀ j, (s.modPage k f).route j = s.route j) ∧
    (∀ j, (s.modPage k f).admission j = s.admission j) ∧
    (∀ j, (s.modPage k f).group j = s.group j) ∧
    (∀ j, (s.modPage k f).counter j = s.counter j) := by
  and_intros <;> exact fun _ => rfl
@[simp] theorem State.modStream_pending (s : State) (k : Nat) (f : Stream → Stream) : (s.modStream k f).pending = s.pending := rfl
@[simp] theorem State.modStream_cyc (s : State) (k : Nat) (f : Stream → Stream) : (s.modStream k f).cyc = s.cyc := rfl
@[simp] theorem State.modStream_free (s : State) (k : Nat) (f : Stream → Stream) : (s.modStream k f).free = s.free := rfl
@[simp] theorem State.modStream_half (s : State) (k : Nat) (f : Stream → Stream) : (s.modStream k f).half = s.half := rfl
@[simp] theorem State.modStream_regs (s : State) (k : Nat) (f : Stream → Stream) : (s.modStream k f).regs = s.regs := rfl
@[simp] theorem State.modStream_boot (s : State) (k : Nat) (f : Stream → Stream) : (s.modStream k f).boot = s.boot := rfl
@[simp] theorem State.modStream_power (s : State) (k : Nat) (f : Stream → Stream) : (s.modStream k f).power = s.power := rfl
@[simp] theorem State.modStream_slots (s : State) (k : Nat) (f : Stream → Stream) : (s.modStream k f).slots = s.slots := rfl
@[simp] theorem State.modStream_parcels (s : State) (k : Nat) (f : Stream → Stream) : (s.modStream k f).parcels = s.parcels := rfl
@[simp] theorem State.modStream_mem (s : State) (k : Nat) (f : Stream → Stream) : (s.modStream k f).mem = s.mem := rfl
@[simp] theorem State.modStream_pois (s : State) (k : Nat) (f : Stream → Stream) : (s.modStream k f).pois = s.pois := rfl
@[simp] theorem State.modStream_rows (s : State) (k : Nat) (f : Stream → Stream) : (s.modStream k f).rows = s.rows := rfl
@[simp] theorem State.modStream_bspares (s : State) (k : Nat) (f : Stream → Stream) : (s.modStream k f).bspares = s.bspares := rfl
@[simp] theorem State.modStream_stks (s : State) (k : Nat) (f : Stream → Stream) : (s.modStream k f).stks = s.stks := rfl
@[simp] theorem State.modStream_chans (s : State) (k : Nat) (f : Stream → Stream) : (s.modStream k f).chans = s.chans := rfl
@[simp] theorem State.modStream_nbus (s : State) (k : Nat) (f : Stream → Stream) : (s.modStream k f).nbus = s.nbus := rfl
@[simp] theorem State.modStream_crus (s : State) (k : Nat) (f : Stream → Stream) : (s.modStream k f).crus = s.crus := rfl
@[simp] theorem State.modStream_hubs (s : State) (k : Nat) (f : Stream → Stream) : (s.modStream k f).hubs = s.hubs := rfl
@[simp] theorem State.modStream_me (s : State) (k : Nat) (f : Stream → Stream) : (s.modStream k f).me = s.me := rfl
@[simp] theorem State.modStream_ve (s : State) (k : Nat) (f : Stream → Stream) : (s.modStream k f).ve = s.ve := rfl
@[simp] theorem State.modStream_vfiles (s : State) (k : Nat) (f : Stream → Stream) : (s.modStream k f).vfiles = s.vfiles := rfl
@[simp] theorem State.modStream_fe (s : State) (k : Nat) (f : Stream → Stream) : (s.modStream k f).fe = s.fe := rfl
@[simp] theorem State.modStream_sp (s : State) (k : Nat) (f : Stream → Stream) : (s.modStream k f).sp = s.sp := rfl
@[simp] theorem State.modStream_spPois (s : State) (k : Nat) (f : Stream → Stream) : (s.modStream k f).spPois = s.spPois := rfl
@[simp] theorem State.modStream_ctxs (s : State) (k : Nat) (f : Stream → Stream) : (s.modStream k f).ctxs = s.ctxs := rfl
@[simp] theorem State.modStream_parts (s : State) (k : Nat) (f : Stream → Stream) : (s.modStream k f).parts = s.parts := rfl
@[simp] theorem State.modStream_pages (s : State) (k : Nat) (f : Stream → Stream) : (s.modStream k f).pages = s.pages := rfl
@[simp] theorem State.modStream_ports (s : State) (k : Nat) (f : Stream → Stream) : (s.modStream k f).ports = s.ports := rfl
@[simp] theorem State.modStream_dirs (s : State) (k : Nat) (f : Stream → Stream) : (s.modStream k f).dirs = s.dirs := rfl
@[simp] theorem State.modStream_lines (s : State) (k : Nat) (f : Stream → Stream) : (s.modStream k f).lines = s.lines := rfl
@[simp] theorem State.modStream_trans (s : State) (k : Nat) (f : Stream → Stream) : (s.modStream k f).trans = s.trans := rfl
@[simp] theorem State.modStream_lands (s : State) (k : Nat) (f : Stream → Stream) : (s.modStream k f).lands = s.lands := rfl
@[simp] theorem State.modStream_xacts (s : State) (k : Nat) (f : Stream → Stream) : (s.modStream k f).xacts = s.xacts := rfl
@[simp] theorem State.modStream_routes (s : State) (k : Nat) (f : Stream → Stream) : (s.modStream k f).routes = s.routes := rfl
@[simp] theorem State.modStream_admits (s : State) (k : Nat) (f : Stream → Stream) : (s.modStream k f).admits = s.admits := rfl
@[simp] theorem State.modStream_groups (s : State) (k : Nat) (f : Stream → Stream) : (s.modStream k f).groups = s.groups := rfl
@[simp] theorem State.modStream_fw (s : State) (k : Nat) (f : Stream → Stream) : (s.modStream k f).fw = s.fw := rfl
@[simp] theorem State.modStream_logs (s : State) (k : Nat) (f : Stream → Stream) : (s.modStream k f).logs = s.logs := rfl
@[simp] theorem State.modStream_pm (s : State) (k : Nat) (f : Stream → Stream) : (s.modStream k f).pm = s.pm := rfl
@[simp] theorem State.modStream_tmap (s : State) (k : Nat) (f : Stream → Stream) : (s.modStream k f).tmap = s.tmap := rfl
@[simp] theorem State.modStream_act (s : State) (k : Nat) (f : Stream → Stream) : (s.modStream k f).act = s.act := rfl
@[simp] theorem State.modStream_out (s : State) (k : Nat) (f : Stream → Stream) : (s.modStream k f).out = s.out := rfl
@[simp] theorem State.stream_modStream (s : State) (k : Nat) (f : Stream → Stream) : (s.modStream k f).stream k = f (s.stream k) := by
  simp [State.stream, State.modStream, Tab.get_upd_same]
theorem State.stream_modStream_ne (s : State) (k j : Nat) (f : Stream → Stream) (h : j ≠ k) : (s.modStream k f).stream j = s.stream j := by
  simp [State.stream, State.modStream, Tab.get_upd_ne _ _ _ _ _ h]
@[simp] theorem State.modStream_members (s : State) (k : Nat) (f : Stream → Stream) :
    (∀ j, (s.modStream k f).slot j = s.slot j) ∧
    (∀ j, (s.modStream k f).parcel j = s.parcel j) ∧
    (∀ j, (s.modStream k f).memByte j = s.memByte j) ∧
    (∀ j, (s.modStream k f).colBad j = s.colBad j) ∧
    (∀ j, (s.modStream k f).row j = s.row j) ∧
    (∀ j, (s.modStream k f).bspare j = s.bspare j) ∧
    (∀ j, (s.modStream k f).stack j = s.stack j) ∧
    (∀ j, (s.modStream k f).chan j = s.chan j) ∧
    (∀ j, (s.modStream k f).nbu j = s.nbu j) ∧
    (∀ j, (s.modStream k f).cru j = s.cru j) ∧
    (∀ j, (s.modStream k f).hub j = s.hub j) ∧
    (∀ j, (s.modStream k f).mat j = s.mat j) ∧
    (∀ j, (s.modStream k f).vec j = s.vec j) ∧
    (∀ j, (s.modStream k f).vfile j = s.vfile j) ∧
    (∀ j, (s.modStream k f).fchan j = s.fchan j) ∧
    (∀ j, (s.modStream k f).spByte j = s.spByte j) ∧
    (∀ j, (s.modStream k f).spBad j = s.spBad j) ∧
    (∀ j, (s.modStream k f).ctx j = s.ctx j) ∧
    (∀ j, (s.modStream k f).part j = s.part j) ∧
    (∀ j, (s.modStream k f).page j = s.page j) ∧
    (∀ j, (s.modStream k f).hport j = s.hport j) ∧
    (∀ j, (s.modStream k f).dir j = s.dir j) ∧
    (∀ j, (s.modStream k f).tran j = s.tran j) ∧
    (∀ j, (s.modStream k f).landing j = s.landing j) ∧
    (∀ j, (s.modStream k f).route j = s.route j) ∧
    (∀ j, (s.modStream k f).admission j = s.admission j) ∧
    (∀ j, (s.modStream k f).group j = s.group j) ∧
    (∀ j, (s.modStream k f).counter j = s.counter j) := by
  and_intros <;> exact fun _ => rfl
@[simp] theorem State.modHport_pending (s : State) (k : Nat) (f : Port → Port) : (s.modHport k f).pending = s.pending := rfl
@[simp] theorem State.modHport_cyc (s : State) (k : Nat) (f : Port → Port) : (s.modHport k f).cyc = s.cyc := rfl
@[simp] theorem State.modHport_free (s : State) (k : Nat) (f : Port → Port) : (s.modHport k f).free = s.free := rfl
@[simp] theorem State.modHport_half (s : State) (k : Nat) (f : Port → Port) : (s.modHport k f).half = s.half := rfl
@[simp] theorem State.modHport_regs (s : State) (k : Nat) (f : Port → Port) : (s.modHport k f).regs = s.regs := rfl
@[simp] theorem State.modHport_boot (s : State) (k : Nat) (f : Port → Port) : (s.modHport k f).boot = s.boot := rfl
@[simp] theorem State.modHport_power (s : State) (k : Nat) (f : Port → Port) : (s.modHport k f).power = s.power := rfl
@[simp] theorem State.modHport_slots (s : State) (k : Nat) (f : Port → Port) : (s.modHport k f).slots = s.slots := rfl
@[simp] theorem State.modHport_parcels (s : State) (k : Nat) (f : Port → Port) : (s.modHport k f).parcels = s.parcels := rfl
@[simp] theorem State.modHport_mem (s : State) (k : Nat) (f : Port → Port) : (s.modHport k f).mem = s.mem := rfl
@[simp] theorem State.modHport_pois (s : State) (k : Nat) (f : Port → Port) : (s.modHport k f).pois = s.pois := rfl
@[simp] theorem State.modHport_rows (s : State) (k : Nat) (f : Port → Port) : (s.modHport k f).rows = s.rows := rfl
@[simp] theorem State.modHport_bspares (s : State) (k : Nat) (f : Port → Port) : (s.modHport k f).bspares = s.bspares := rfl
@[simp] theorem State.modHport_stks (s : State) (k : Nat) (f : Port → Port) : (s.modHport k f).stks = s.stks := rfl
@[simp] theorem State.modHport_chans (s : State) (k : Nat) (f : Port → Port) : (s.modHport k f).chans = s.chans := rfl
@[simp] theorem State.modHport_nbus (s : State) (k : Nat) (f : Port → Port) : (s.modHport k f).nbus = s.nbus := rfl
@[simp] theorem State.modHport_crus (s : State) (k : Nat) (f : Port → Port) : (s.modHport k f).crus = s.crus := rfl
@[simp] theorem State.modHport_hubs (s : State) (k : Nat) (f : Port → Port) : (s.modHport k f).hubs = s.hubs := rfl
@[simp] theorem State.modHport_me (s : State) (k : Nat) (f : Port → Port) : (s.modHport k f).me = s.me := rfl
@[simp] theorem State.modHport_ve (s : State) (k : Nat) (f : Port → Port) : (s.modHport k f).ve = s.ve := rfl
@[simp] theorem State.modHport_vfiles (s : State) (k : Nat) (f : Port → Port) : (s.modHport k f).vfiles = s.vfiles := rfl
@[simp] theorem State.modHport_fe (s : State) (k : Nat) (f : Port → Port) : (s.modHport k f).fe = s.fe := rfl
@[simp] theorem State.modHport_sp (s : State) (k : Nat) (f : Port → Port) : (s.modHport k f).sp = s.sp := rfl
@[simp] theorem State.modHport_spPois (s : State) (k : Nat) (f : Port → Port) : (s.modHport k f).spPois = s.spPois := rfl
@[simp] theorem State.modHport_ctxs (s : State) (k : Nat) (f : Port → Port) : (s.modHport k f).ctxs = s.ctxs := rfl
@[simp] theorem State.modHport_parts (s : State) (k : Nat) (f : Port → Port) : (s.modHport k f).parts = s.parts := rfl
@[simp] theorem State.modHport_pages (s : State) (k : Nat) (f : Port → Port) : (s.modHport k f).pages = s.pages := rfl
@[simp] theorem State.modHport_streams (s : State) (k : Nat) (f : Port → Port) : (s.modHport k f).streams = s.streams := rfl
@[simp] theorem State.modHport_dirs (s : State) (k : Nat) (f : Port → Port) : (s.modHport k f).dirs = s.dirs := rfl
@[simp] theorem State.modHport_lines (s : State) (k : Nat) (f : Port → Port) : (s.modHport k f).lines = s.lines := rfl
@[simp] theorem State.modHport_trans (s : State) (k : Nat) (f : Port → Port) : (s.modHport k f).trans = s.trans := rfl
@[simp] theorem State.modHport_lands (s : State) (k : Nat) (f : Port → Port) : (s.modHport k f).lands = s.lands := rfl
@[simp] theorem State.modHport_xacts (s : State) (k : Nat) (f : Port → Port) : (s.modHport k f).xacts = s.xacts := rfl
@[simp] theorem State.modHport_routes (s : State) (k : Nat) (f : Port → Port) : (s.modHport k f).routes = s.routes := rfl
@[simp] theorem State.modHport_admits (s : State) (k : Nat) (f : Port → Port) : (s.modHport k f).admits = s.admits := rfl
@[simp] theorem State.modHport_groups (s : State) (k : Nat) (f : Port → Port) : (s.modHport k f).groups = s.groups := rfl
@[simp] theorem State.modHport_fw (s : State) (k : Nat) (f : Port → Port) : (s.modHport k f).fw = s.fw := rfl
@[simp] theorem State.modHport_logs (s : State) (k : Nat) (f : Port → Port) : (s.modHport k f).logs = s.logs := rfl
@[simp] theorem State.modHport_pm (s : State) (k : Nat) (f : Port → Port) : (s.modHport k f).pm = s.pm := rfl
@[simp] theorem State.modHport_tmap (s : State) (k : Nat) (f : Port → Port) : (s.modHport k f).tmap = s.tmap := rfl
@[simp] theorem State.modHport_act (s : State) (k : Nat) (f : Port → Port) : (s.modHport k f).act = s.act := rfl
@[simp] theorem State.modHport_out (s : State) (k : Nat) (f : Port → Port) : (s.modHport k f).out = s.out := rfl
@[simp] theorem State.hport_modHport (s : State) (k : Nat) (f : Port → Port) : (s.modHport k f).hport k = f (s.hport k) := by
  simp [State.hport, State.modHport, Tab.get_upd_same]
theorem State.hport_modHport_ne (s : State) (k j : Nat) (f : Port → Port) (h : j ≠ k) : (s.modHport k f).hport j = s.hport j := by
  simp [State.hport, State.modHport, Tab.get_upd_ne _ _ _ _ _ h]
@[simp] theorem State.modHport_members (s : State) (k : Nat) (f : Port → Port) :
    (∀ j, (s.modHport k f).slot j = s.slot j) ∧
    (∀ j, (s.modHport k f).parcel j = s.parcel j) ∧
    (∀ j, (s.modHport k f).memByte j = s.memByte j) ∧
    (∀ j, (s.modHport k f).colBad j = s.colBad j) ∧
    (∀ j, (s.modHport k f).row j = s.row j) ∧
    (∀ j, (s.modHport k f).bspare j = s.bspare j) ∧
    (∀ j, (s.modHport k f).stack j = s.stack j) ∧
    (∀ j, (s.modHport k f).chan j = s.chan j) ∧
    (∀ j, (s.modHport k f).nbu j = s.nbu j) ∧
    (∀ j, (s.modHport k f).cru j = s.cru j) ∧
    (∀ j, (s.modHport k f).hub j = s.hub j) ∧
    (∀ j, (s.modHport k f).mat j = s.mat j) ∧
    (∀ j, (s.modHport k f).vec j = s.vec j) ∧
    (∀ j, (s.modHport k f).vfile j = s.vfile j) ∧
    (∀ j, (s.modHport k f).fchan j = s.fchan j) ∧
    (∀ j, (s.modHport k f).spByte j = s.spByte j) ∧
    (∀ j, (s.modHport k f).spBad j = s.spBad j) ∧
    (∀ j, (s.modHport k f).ctx j = s.ctx j) ∧
    (∀ j, (s.modHport k f).part j = s.part j) ∧
    (∀ j, (s.modHport k f).page j = s.page j) ∧
    (∀ j, (s.modHport k f).stream j = s.stream j) ∧
    (∀ j, (s.modHport k f).dir j = s.dir j) ∧
    (∀ j, (s.modHport k f).tran j = s.tran j) ∧
    (∀ j, (s.modHport k f).landing j = s.landing j) ∧
    (∀ j, (s.modHport k f).route j = s.route j) ∧
    (∀ j, (s.modHport k f).admission j = s.admission j) ∧
    (∀ j, (s.modHport k f).group j = s.group j) ∧
    (∀ j, (s.modHport k f).counter j = s.counter j) := by
  and_intros <;> exact fun _ => rfl
@[simp] theorem State.modDir_pending (s : State) (k : Nat) (f : (List Dir) → (List Dir)) : (s.modDir k f).pending = s.pending := rfl
@[simp] theorem State.modDir_cyc (s : State) (k : Nat) (f : (List Dir) → (List Dir)) : (s.modDir k f).cyc = s.cyc := rfl
@[simp] theorem State.modDir_free (s : State) (k : Nat) (f : (List Dir) → (List Dir)) : (s.modDir k f).free = s.free := rfl
@[simp] theorem State.modDir_half (s : State) (k : Nat) (f : (List Dir) → (List Dir)) : (s.modDir k f).half = s.half := rfl
@[simp] theorem State.modDir_regs (s : State) (k : Nat) (f : (List Dir) → (List Dir)) : (s.modDir k f).regs = s.regs := rfl
@[simp] theorem State.modDir_boot (s : State) (k : Nat) (f : (List Dir) → (List Dir)) : (s.modDir k f).boot = s.boot := rfl
@[simp] theorem State.modDir_power (s : State) (k : Nat) (f : (List Dir) → (List Dir)) : (s.modDir k f).power = s.power := rfl
@[simp] theorem State.modDir_slots (s : State) (k : Nat) (f : (List Dir) → (List Dir)) : (s.modDir k f).slots = s.slots := rfl
@[simp] theorem State.modDir_parcels (s : State) (k : Nat) (f : (List Dir) → (List Dir)) : (s.modDir k f).parcels = s.parcels := rfl
@[simp] theorem State.modDir_mem (s : State) (k : Nat) (f : (List Dir) → (List Dir)) : (s.modDir k f).mem = s.mem := rfl
@[simp] theorem State.modDir_pois (s : State) (k : Nat) (f : (List Dir) → (List Dir)) : (s.modDir k f).pois = s.pois := rfl
@[simp] theorem State.modDir_rows (s : State) (k : Nat) (f : (List Dir) → (List Dir)) : (s.modDir k f).rows = s.rows := rfl
@[simp] theorem State.modDir_bspares (s : State) (k : Nat) (f : (List Dir) → (List Dir)) : (s.modDir k f).bspares = s.bspares := rfl
@[simp] theorem State.modDir_stks (s : State) (k : Nat) (f : (List Dir) → (List Dir)) : (s.modDir k f).stks = s.stks := rfl
@[simp] theorem State.modDir_chans (s : State) (k : Nat) (f : (List Dir) → (List Dir)) : (s.modDir k f).chans = s.chans := rfl
@[simp] theorem State.modDir_nbus (s : State) (k : Nat) (f : (List Dir) → (List Dir)) : (s.modDir k f).nbus = s.nbus := rfl
@[simp] theorem State.modDir_crus (s : State) (k : Nat) (f : (List Dir) → (List Dir)) : (s.modDir k f).crus = s.crus := rfl
@[simp] theorem State.modDir_hubs (s : State) (k : Nat) (f : (List Dir) → (List Dir)) : (s.modDir k f).hubs = s.hubs := rfl
@[simp] theorem State.modDir_me (s : State) (k : Nat) (f : (List Dir) → (List Dir)) : (s.modDir k f).me = s.me := rfl
@[simp] theorem State.modDir_ve (s : State) (k : Nat) (f : (List Dir) → (List Dir)) : (s.modDir k f).ve = s.ve := rfl
@[simp] theorem State.modDir_vfiles (s : State) (k : Nat) (f : (List Dir) → (List Dir)) : (s.modDir k f).vfiles = s.vfiles := rfl
@[simp] theorem State.modDir_fe (s : State) (k : Nat) (f : (List Dir) → (List Dir)) : (s.modDir k f).fe = s.fe := rfl
@[simp] theorem State.modDir_sp (s : State) (k : Nat) (f : (List Dir) → (List Dir)) : (s.modDir k f).sp = s.sp := rfl
@[simp] theorem State.modDir_spPois (s : State) (k : Nat) (f : (List Dir) → (List Dir)) : (s.modDir k f).spPois = s.spPois := rfl
@[simp] theorem State.modDir_ctxs (s : State) (k : Nat) (f : (List Dir) → (List Dir)) : (s.modDir k f).ctxs = s.ctxs := rfl
@[simp] theorem State.modDir_parts (s : State) (k : Nat) (f : (List Dir) → (List Dir)) : (s.modDir k f).parts = s.parts := rfl
@[simp] theorem State.modDir_pages (s : State) (k : Nat) (f : (List Dir) → (List Dir)) : (s.modDir k f).pages = s.pages := rfl
@[simp] theorem State.modDir_streams (s : State) (k : Nat) (f : (List Dir) → (List Dir)) : (s.modDir k f).streams = s.streams := rfl
@[simp] theorem State.modDir_ports (s : State) (k : Nat) (f : (List Dir) → (List Dir)) : (s.modDir k f).ports = s.ports := rfl
@[simp] theorem State.modDir_lines (s : State) (k : Nat) (f : (List Dir) → (List Dir)) : (s.modDir k f).lines = s.lines := rfl
@[simp] theorem State.modDir_trans (s : State) (k : Nat) (f : (List Dir) → (List Dir)) : (s.modDir k f).trans = s.trans := rfl
@[simp] theorem State.modDir_lands (s : State) (k : Nat) (f : (List Dir) → (List Dir)) : (s.modDir k f).lands = s.lands := rfl
@[simp] theorem State.modDir_xacts (s : State) (k : Nat) (f : (List Dir) → (List Dir)) : (s.modDir k f).xacts = s.xacts := rfl
@[simp] theorem State.modDir_routes (s : State) (k : Nat) (f : (List Dir) → (List Dir)) : (s.modDir k f).routes = s.routes := rfl
@[simp] theorem State.modDir_admits (s : State) (k : Nat) (f : (List Dir) → (List Dir)) : (s.modDir k f).admits = s.admits := rfl
@[simp] theorem State.modDir_groups (s : State) (k : Nat) (f : (List Dir) → (List Dir)) : (s.modDir k f).groups = s.groups := rfl
@[simp] theorem State.modDir_fw (s : State) (k : Nat) (f : (List Dir) → (List Dir)) : (s.modDir k f).fw = s.fw := rfl
@[simp] theorem State.modDir_logs (s : State) (k : Nat) (f : (List Dir) → (List Dir)) : (s.modDir k f).logs = s.logs := rfl
@[simp] theorem State.modDir_pm (s : State) (k : Nat) (f : (List Dir) → (List Dir)) : (s.modDir k f).pm = s.pm := rfl
@[simp] theorem State.modDir_tmap (s : State) (k : Nat) (f : (List Dir) → (List Dir)) : (s.modDir k f).tmap = s.tmap := rfl
@[simp] theorem State.modDir_act (s : State) (k : Nat) (f : (List Dir) → (List Dir)) : (s.modDir k f).act = s.act := rfl
@[simp] theorem State.modDir_out (s : State) (k : Nat) (f : (List Dir) → (List Dir)) : (s.modDir k f).out = s.out := rfl
@[simp] theorem State.dir_modDir (s : State) (k : Nat) (f : (List Dir) → (List Dir)) : (s.modDir k f).dir k = f (s.dir k) := by
  simp [State.dir, State.modDir, Tab.get_upd_same]
theorem State.dir_modDir_ne (s : State) (k j : Nat) (f : (List Dir) → (List Dir)) (h : j ≠ k) : (s.modDir k f).dir j = s.dir j := by
  simp [State.dir, State.modDir, Tab.get_upd_ne _ _ _ _ _ h]
@[simp] theorem State.modDir_members (s : State) (k : Nat) (f : (List Dir) → (List Dir)) :
    (∀ j, (s.modDir k f).slot j = s.slot j) ∧
    (∀ j, (s.modDir k f).parcel j = s.parcel j) ∧
    (∀ j, (s.modDir k f).memByte j = s.memByte j) ∧
    (∀ j, (s.modDir k f).colBad j = s.colBad j) ∧
    (∀ j, (s.modDir k f).row j = s.row j) ∧
    (∀ j, (s.modDir k f).bspare j = s.bspare j) ∧
    (∀ j, (s.modDir k f).stack j = s.stack j) ∧
    (∀ j, (s.modDir k f).chan j = s.chan j) ∧
    (∀ j, (s.modDir k f).nbu j = s.nbu j) ∧
    (∀ j, (s.modDir k f).cru j = s.cru j) ∧
    (∀ j, (s.modDir k f).hub j = s.hub j) ∧
    (∀ j, (s.modDir k f).mat j = s.mat j) ∧
    (∀ j, (s.modDir k f).vec j = s.vec j) ∧
    (∀ j, (s.modDir k f).vfile j = s.vfile j) ∧
    (∀ j, (s.modDir k f).fchan j = s.fchan j) ∧
    (∀ j, (s.modDir k f).spByte j = s.spByte j) ∧
    (∀ j, (s.modDir k f).spBad j = s.spBad j) ∧
    (∀ j, (s.modDir k f).ctx j = s.ctx j) ∧
    (∀ j, (s.modDir k f).part j = s.part j) ∧
    (∀ j, (s.modDir k f).page j = s.page j) ∧
    (∀ j, (s.modDir k f).stream j = s.stream j) ∧
    (∀ j, (s.modDir k f).hport j = s.hport j) ∧
    (∀ j, (s.modDir k f).tran j = s.tran j) ∧
    (∀ j, (s.modDir k f).landing j = s.landing j) ∧
    (∀ j, (s.modDir k f).route j = s.route j) ∧
    (∀ j, (s.modDir k f).admission j = s.admission j) ∧
    (∀ j, (s.modDir k f).group j = s.group j) ∧
    (∀ j, (s.modDir k f).counter j = s.counter j) := by
  and_intros <;> exact fun _ => rfl
@[simp] theorem State.modTran_pending (s : State) (k : Nat) (f : Translator → Translator) : (s.modTran k f).pending = s.pending := rfl
@[simp] theorem State.modTran_cyc (s : State) (k : Nat) (f : Translator → Translator) : (s.modTran k f).cyc = s.cyc := rfl
@[simp] theorem State.modTran_free (s : State) (k : Nat) (f : Translator → Translator) : (s.modTran k f).free = s.free := rfl
@[simp] theorem State.modTran_half (s : State) (k : Nat) (f : Translator → Translator) : (s.modTran k f).half = s.half := rfl
@[simp] theorem State.modTran_regs (s : State) (k : Nat) (f : Translator → Translator) : (s.modTran k f).regs = s.regs := rfl
@[simp] theorem State.modTran_boot (s : State) (k : Nat) (f : Translator → Translator) : (s.modTran k f).boot = s.boot := rfl
@[simp] theorem State.modTran_power (s : State) (k : Nat) (f : Translator → Translator) : (s.modTran k f).power = s.power := rfl
@[simp] theorem State.modTran_slots (s : State) (k : Nat) (f : Translator → Translator) : (s.modTran k f).slots = s.slots := rfl
@[simp] theorem State.modTran_parcels (s : State) (k : Nat) (f : Translator → Translator) : (s.modTran k f).parcels = s.parcels := rfl
@[simp] theorem State.modTran_mem (s : State) (k : Nat) (f : Translator → Translator) : (s.modTran k f).mem = s.mem := rfl
@[simp] theorem State.modTran_pois (s : State) (k : Nat) (f : Translator → Translator) : (s.modTran k f).pois = s.pois := rfl
@[simp] theorem State.modTran_rows (s : State) (k : Nat) (f : Translator → Translator) : (s.modTran k f).rows = s.rows := rfl
@[simp] theorem State.modTran_bspares (s : State) (k : Nat) (f : Translator → Translator) : (s.modTran k f).bspares = s.bspares := rfl
@[simp] theorem State.modTran_stks (s : State) (k : Nat) (f : Translator → Translator) : (s.modTran k f).stks = s.stks := rfl
@[simp] theorem State.modTran_chans (s : State) (k : Nat) (f : Translator → Translator) : (s.modTran k f).chans = s.chans := rfl
@[simp] theorem State.modTran_nbus (s : State) (k : Nat) (f : Translator → Translator) : (s.modTran k f).nbus = s.nbus := rfl
@[simp] theorem State.modTran_crus (s : State) (k : Nat) (f : Translator → Translator) : (s.modTran k f).crus = s.crus := rfl
@[simp] theorem State.modTran_hubs (s : State) (k : Nat) (f : Translator → Translator) : (s.modTran k f).hubs = s.hubs := rfl
@[simp] theorem State.modTran_me (s : State) (k : Nat) (f : Translator → Translator) : (s.modTran k f).me = s.me := rfl
@[simp] theorem State.modTran_ve (s : State) (k : Nat) (f : Translator → Translator) : (s.modTran k f).ve = s.ve := rfl
@[simp] theorem State.modTran_vfiles (s : State) (k : Nat) (f : Translator → Translator) : (s.modTran k f).vfiles = s.vfiles := rfl
@[simp] theorem State.modTran_fe (s : State) (k : Nat) (f : Translator → Translator) : (s.modTran k f).fe = s.fe := rfl
@[simp] theorem State.modTran_sp (s : State) (k : Nat) (f : Translator → Translator) : (s.modTran k f).sp = s.sp := rfl
@[simp] theorem State.modTran_spPois (s : State) (k : Nat) (f : Translator → Translator) : (s.modTran k f).spPois = s.spPois := rfl
@[simp] theorem State.modTran_ctxs (s : State) (k : Nat) (f : Translator → Translator) : (s.modTran k f).ctxs = s.ctxs := rfl
@[simp] theorem State.modTran_parts (s : State) (k : Nat) (f : Translator → Translator) : (s.modTran k f).parts = s.parts := rfl
@[simp] theorem State.modTran_pages (s : State) (k : Nat) (f : Translator → Translator) : (s.modTran k f).pages = s.pages := rfl
@[simp] theorem State.modTran_streams (s : State) (k : Nat) (f : Translator → Translator) : (s.modTran k f).streams = s.streams := rfl
@[simp] theorem State.modTran_ports (s : State) (k : Nat) (f : Translator → Translator) : (s.modTran k f).ports = s.ports := rfl
@[simp] theorem State.modTran_dirs (s : State) (k : Nat) (f : Translator → Translator) : (s.modTran k f).dirs = s.dirs := rfl
@[simp] theorem State.modTran_lines (s : State) (k : Nat) (f : Translator → Translator) : (s.modTran k f).lines = s.lines := rfl
@[simp] theorem State.modTran_lands (s : State) (k : Nat) (f : Translator → Translator) : (s.modTran k f).lands = s.lands := rfl
@[simp] theorem State.modTran_xacts (s : State) (k : Nat) (f : Translator → Translator) : (s.modTran k f).xacts = s.xacts := rfl
@[simp] theorem State.modTran_routes (s : State) (k : Nat) (f : Translator → Translator) : (s.modTran k f).routes = s.routes := rfl
@[simp] theorem State.modTran_admits (s : State) (k : Nat) (f : Translator → Translator) : (s.modTran k f).admits = s.admits := rfl
@[simp] theorem State.modTran_groups (s : State) (k : Nat) (f : Translator → Translator) : (s.modTran k f).groups = s.groups := rfl
@[simp] theorem State.modTran_fw (s : State) (k : Nat) (f : Translator → Translator) : (s.modTran k f).fw = s.fw := rfl
@[simp] theorem State.modTran_logs (s : State) (k : Nat) (f : Translator → Translator) : (s.modTran k f).logs = s.logs := rfl
@[simp] theorem State.modTran_pm (s : State) (k : Nat) (f : Translator → Translator) : (s.modTran k f).pm = s.pm := rfl
@[simp] theorem State.modTran_tmap (s : State) (k : Nat) (f : Translator → Translator) : (s.modTran k f).tmap = s.tmap := rfl
@[simp] theorem State.modTran_act (s : State) (k : Nat) (f : Translator → Translator) : (s.modTran k f).act = s.act := rfl
@[simp] theorem State.modTran_out (s : State) (k : Nat) (f : Translator → Translator) : (s.modTran k f).out = s.out := rfl
@[simp] theorem State.tran_modTran (s : State) (k : Nat) (f : Translator → Translator) : (s.modTran k f).tran k = f (s.tran k) := by
  simp [State.tran, State.modTran, Tab.get_upd_same]
theorem State.tran_modTran_ne (s : State) (k j : Nat) (f : Translator → Translator) (h : j ≠ k) : (s.modTran k f).tran j = s.tran j := by
  simp [State.tran, State.modTran, Tab.get_upd_ne _ _ _ _ _ h]
@[simp] theorem State.modTran_members (s : State) (k : Nat) (f : Translator → Translator) :
    (∀ j, (s.modTran k f).slot j = s.slot j) ∧
    (∀ j, (s.modTran k f).parcel j = s.parcel j) ∧
    (∀ j, (s.modTran k f).memByte j = s.memByte j) ∧
    (∀ j, (s.modTran k f).colBad j = s.colBad j) ∧
    (∀ j, (s.modTran k f).row j = s.row j) ∧
    (∀ j, (s.modTran k f).bspare j = s.bspare j) ∧
    (∀ j, (s.modTran k f).stack j = s.stack j) ∧
    (∀ j, (s.modTran k f).chan j = s.chan j) ∧
    (∀ j, (s.modTran k f).nbu j = s.nbu j) ∧
    (∀ j, (s.modTran k f).cru j = s.cru j) ∧
    (∀ j, (s.modTran k f).hub j = s.hub j) ∧
    (∀ j, (s.modTran k f).mat j = s.mat j) ∧
    (∀ j, (s.modTran k f).vec j = s.vec j) ∧
    (∀ j, (s.modTran k f).vfile j = s.vfile j) ∧
    (∀ j, (s.modTran k f).fchan j = s.fchan j) ∧
    (∀ j, (s.modTran k f).spByte j = s.spByte j) ∧
    (∀ j, (s.modTran k f).spBad j = s.spBad j) ∧
    (∀ j, (s.modTran k f).ctx j = s.ctx j) ∧
    (∀ j, (s.modTran k f).part j = s.part j) ∧
    (∀ j, (s.modTran k f).page j = s.page j) ∧
    (∀ j, (s.modTran k f).stream j = s.stream j) ∧
    (∀ j, (s.modTran k f).hport j = s.hport j) ∧
    (∀ j, (s.modTran k f).dir j = s.dir j) ∧
    (∀ j, (s.modTran k f).landing j = s.landing j) ∧
    (∀ j, (s.modTran k f).route j = s.route j) ∧
    (∀ j, (s.modTran k f).admission j = s.admission j) ∧
    (∀ j, (s.modTran k f).group j = s.group j) ∧
    (∀ j, (s.modTran k f).counter j = s.counter j) := by
  and_intros <;> exact fun _ => rfl
@[simp] theorem State.modLanding_pending (s : State) (k : Nat) (f : Landing → Landing) : (s.modLanding k f).pending = s.pending := rfl
@[simp] theorem State.modLanding_cyc (s : State) (k : Nat) (f : Landing → Landing) : (s.modLanding k f).cyc = s.cyc := rfl
@[simp] theorem State.modLanding_free (s : State) (k : Nat) (f : Landing → Landing) : (s.modLanding k f).free = s.free := rfl
@[simp] theorem State.modLanding_half (s : State) (k : Nat) (f : Landing → Landing) : (s.modLanding k f).half = s.half := rfl
@[simp] theorem State.modLanding_regs (s : State) (k : Nat) (f : Landing → Landing) : (s.modLanding k f).regs = s.regs := rfl
@[simp] theorem State.modLanding_boot (s : State) (k : Nat) (f : Landing → Landing) : (s.modLanding k f).boot = s.boot := rfl
@[simp] theorem State.modLanding_power (s : State) (k : Nat) (f : Landing → Landing) : (s.modLanding k f).power = s.power := rfl
@[simp] theorem State.modLanding_slots (s : State) (k : Nat) (f : Landing → Landing) : (s.modLanding k f).slots = s.slots := rfl
@[simp] theorem State.modLanding_parcels (s : State) (k : Nat) (f : Landing → Landing) : (s.modLanding k f).parcels = s.parcels := rfl
@[simp] theorem State.modLanding_mem (s : State) (k : Nat) (f : Landing → Landing) : (s.modLanding k f).mem = s.mem := rfl
@[simp] theorem State.modLanding_pois (s : State) (k : Nat) (f : Landing → Landing) : (s.modLanding k f).pois = s.pois := rfl
@[simp] theorem State.modLanding_rows (s : State) (k : Nat) (f : Landing → Landing) : (s.modLanding k f).rows = s.rows := rfl
@[simp] theorem State.modLanding_bspares (s : State) (k : Nat) (f : Landing → Landing) : (s.modLanding k f).bspares = s.bspares := rfl
@[simp] theorem State.modLanding_stks (s : State) (k : Nat) (f : Landing → Landing) : (s.modLanding k f).stks = s.stks := rfl
@[simp] theorem State.modLanding_chans (s : State) (k : Nat) (f : Landing → Landing) : (s.modLanding k f).chans = s.chans := rfl
@[simp] theorem State.modLanding_nbus (s : State) (k : Nat) (f : Landing → Landing) : (s.modLanding k f).nbus = s.nbus := rfl
@[simp] theorem State.modLanding_crus (s : State) (k : Nat) (f : Landing → Landing) : (s.modLanding k f).crus = s.crus := rfl
@[simp] theorem State.modLanding_hubs (s : State) (k : Nat) (f : Landing → Landing) : (s.modLanding k f).hubs = s.hubs := rfl
@[simp] theorem State.modLanding_me (s : State) (k : Nat) (f : Landing → Landing) : (s.modLanding k f).me = s.me := rfl
@[simp] theorem State.modLanding_ve (s : State) (k : Nat) (f : Landing → Landing) : (s.modLanding k f).ve = s.ve := rfl
@[simp] theorem State.modLanding_vfiles (s : State) (k : Nat) (f : Landing → Landing) : (s.modLanding k f).vfiles = s.vfiles := rfl
@[simp] theorem State.modLanding_fe (s : State) (k : Nat) (f : Landing → Landing) : (s.modLanding k f).fe = s.fe := rfl
@[simp] theorem State.modLanding_sp (s : State) (k : Nat) (f : Landing → Landing) : (s.modLanding k f).sp = s.sp := rfl
@[simp] theorem State.modLanding_spPois (s : State) (k : Nat) (f : Landing → Landing) : (s.modLanding k f).spPois = s.spPois := rfl
@[simp] theorem State.modLanding_ctxs (s : State) (k : Nat) (f : Landing → Landing) : (s.modLanding k f).ctxs = s.ctxs := rfl
@[simp] theorem State.modLanding_parts (s : State) (k : Nat) (f : Landing → Landing) : (s.modLanding k f).parts = s.parts := rfl
@[simp] theorem State.modLanding_pages (s : State) (k : Nat) (f : Landing → Landing) : (s.modLanding k f).pages = s.pages := rfl
@[simp] theorem State.modLanding_streams (s : State) (k : Nat) (f : Landing → Landing) : (s.modLanding k f).streams = s.streams := rfl
@[simp] theorem State.modLanding_ports (s : State) (k : Nat) (f : Landing → Landing) : (s.modLanding k f).ports = s.ports := rfl
@[simp] theorem State.modLanding_dirs (s : State) (k : Nat) (f : Landing → Landing) : (s.modLanding k f).dirs = s.dirs := rfl
@[simp] theorem State.modLanding_lines (s : State) (k : Nat) (f : Landing → Landing) : (s.modLanding k f).lines = s.lines := rfl
@[simp] theorem State.modLanding_trans (s : State) (k : Nat) (f : Landing → Landing) : (s.modLanding k f).trans = s.trans := rfl
@[simp] theorem State.modLanding_xacts (s : State) (k : Nat) (f : Landing → Landing) : (s.modLanding k f).xacts = s.xacts := rfl
@[simp] theorem State.modLanding_routes (s : State) (k : Nat) (f : Landing → Landing) : (s.modLanding k f).routes = s.routes := rfl
@[simp] theorem State.modLanding_admits (s : State) (k : Nat) (f : Landing → Landing) : (s.modLanding k f).admits = s.admits := rfl
@[simp] theorem State.modLanding_groups (s : State) (k : Nat) (f : Landing → Landing) : (s.modLanding k f).groups = s.groups := rfl
@[simp] theorem State.modLanding_fw (s : State) (k : Nat) (f : Landing → Landing) : (s.modLanding k f).fw = s.fw := rfl
@[simp] theorem State.modLanding_logs (s : State) (k : Nat) (f : Landing → Landing) : (s.modLanding k f).logs = s.logs := rfl
@[simp] theorem State.modLanding_pm (s : State) (k : Nat) (f : Landing → Landing) : (s.modLanding k f).pm = s.pm := rfl
@[simp] theorem State.modLanding_tmap (s : State) (k : Nat) (f : Landing → Landing) : (s.modLanding k f).tmap = s.tmap := rfl
@[simp] theorem State.modLanding_act (s : State) (k : Nat) (f : Landing → Landing) : (s.modLanding k f).act = s.act := rfl
@[simp] theorem State.modLanding_out (s : State) (k : Nat) (f : Landing → Landing) : (s.modLanding k f).out = s.out := rfl
@[simp] theorem State.landing_modLanding (s : State) (k : Nat) (f : Landing → Landing) : (s.modLanding k f).landing k = f (s.landing k) := by
  simp [State.landing, State.modLanding, Tab.get_upd_same]
theorem State.landing_modLanding_ne (s : State) (k j : Nat) (f : Landing → Landing) (h : j ≠ k) : (s.modLanding k f).landing j = s.landing j := by
  simp [State.landing, State.modLanding, Tab.get_upd_ne _ _ _ _ _ h]
@[simp] theorem State.modLanding_members (s : State) (k : Nat) (f : Landing → Landing) :
    (∀ j, (s.modLanding k f).slot j = s.slot j) ∧
    (∀ j, (s.modLanding k f).parcel j = s.parcel j) ∧
    (∀ j, (s.modLanding k f).memByte j = s.memByte j) ∧
    (∀ j, (s.modLanding k f).colBad j = s.colBad j) ∧
    (∀ j, (s.modLanding k f).row j = s.row j) ∧
    (∀ j, (s.modLanding k f).bspare j = s.bspare j) ∧
    (∀ j, (s.modLanding k f).stack j = s.stack j) ∧
    (∀ j, (s.modLanding k f).chan j = s.chan j) ∧
    (∀ j, (s.modLanding k f).nbu j = s.nbu j) ∧
    (∀ j, (s.modLanding k f).cru j = s.cru j) ∧
    (∀ j, (s.modLanding k f).hub j = s.hub j) ∧
    (∀ j, (s.modLanding k f).mat j = s.mat j) ∧
    (∀ j, (s.modLanding k f).vec j = s.vec j) ∧
    (∀ j, (s.modLanding k f).vfile j = s.vfile j) ∧
    (∀ j, (s.modLanding k f).fchan j = s.fchan j) ∧
    (∀ j, (s.modLanding k f).spByte j = s.spByte j) ∧
    (∀ j, (s.modLanding k f).spBad j = s.spBad j) ∧
    (∀ j, (s.modLanding k f).ctx j = s.ctx j) ∧
    (∀ j, (s.modLanding k f).part j = s.part j) ∧
    (∀ j, (s.modLanding k f).page j = s.page j) ∧
    (∀ j, (s.modLanding k f).stream j = s.stream j) ∧
    (∀ j, (s.modLanding k f).hport j = s.hport j) ∧
    (∀ j, (s.modLanding k f).dir j = s.dir j) ∧
    (∀ j, (s.modLanding k f).tran j = s.tran j) ∧
    (∀ j, (s.modLanding k f).route j = s.route j) ∧
    (∀ j, (s.modLanding k f).admission j = s.admission j) ∧
    (∀ j, (s.modLanding k f).group j = s.group j) ∧
    (∀ j, (s.modLanding k f).counter j = s.counter j) := by
  and_intros <;> exact fun _ => rfl
@[simp] theorem State.modRoute_pending (s : State) (k : Nat) (f : (BitVec 32) → (BitVec 32)) : (s.modRoute k f).pending = s.pending := rfl
@[simp] theorem State.modRoute_cyc (s : State) (k : Nat) (f : (BitVec 32) → (BitVec 32)) : (s.modRoute k f).cyc = s.cyc := rfl
@[simp] theorem State.modRoute_free (s : State) (k : Nat) (f : (BitVec 32) → (BitVec 32)) : (s.modRoute k f).free = s.free := rfl
@[simp] theorem State.modRoute_half (s : State) (k : Nat) (f : (BitVec 32) → (BitVec 32)) : (s.modRoute k f).half = s.half := rfl
@[simp] theorem State.modRoute_regs (s : State) (k : Nat) (f : (BitVec 32) → (BitVec 32)) : (s.modRoute k f).regs = s.regs := rfl
@[simp] theorem State.modRoute_boot (s : State) (k : Nat) (f : (BitVec 32) → (BitVec 32)) : (s.modRoute k f).boot = s.boot := rfl
@[simp] theorem State.modRoute_power (s : State) (k : Nat) (f : (BitVec 32) → (BitVec 32)) : (s.modRoute k f).power = s.power := rfl
@[simp] theorem State.modRoute_slots (s : State) (k : Nat) (f : (BitVec 32) → (BitVec 32)) : (s.modRoute k f).slots = s.slots := rfl
@[simp] theorem State.modRoute_parcels (s : State) (k : Nat) (f : (BitVec 32) → (BitVec 32)) : (s.modRoute k f).parcels = s.parcels := rfl
@[simp] theorem State.modRoute_mem (s : State) (k : Nat) (f : (BitVec 32) → (BitVec 32)) : (s.modRoute k f).mem = s.mem := rfl
@[simp] theorem State.modRoute_pois (s : State) (k : Nat) (f : (BitVec 32) → (BitVec 32)) : (s.modRoute k f).pois = s.pois := rfl
@[simp] theorem State.modRoute_rows (s : State) (k : Nat) (f : (BitVec 32) → (BitVec 32)) : (s.modRoute k f).rows = s.rows := rfl
@[simp] theorem State.modRoute_bspares (s : State) (k : Nat) (f : (BitVec 32) → (BitVec 32)) : (s.modRoute k f).bspares = s.bspares := rfl
@[simp] theorem State.modRoute_stks (s : State) (k : Nat) (f : (BitVec 32) → (BitVec 32)) : (s.modRoute k f).stks = s.stks := rfl
@[simp] theorem State.modRoute_chans (s : State) (k : Nat) (f : (BitVec 32) → (BitVec 32)) : (s.modRoute k f).chans = s.chans := rfl
@[simp] theorem State.modRoute_nbus (s : State) (k : Nat) (f : (BitVec 32) → (BitVec 32)) : (s.modRoute k f).nbus = s.nbus := rfl
@[simp] theorem State.modRoute_crus (s : State) (k : Nat) (f : (BitVec 32) → (BitVec 32)) : (s.modRoute k f).crus = s.crus := rfl
@[simp] theorem State.modRoute_hubs (s : State) (k : Nat) (f : (BitVec 32) → (BitVec 32)) : (s.modRoute k f).hubs = s.hubs := rfl
@[simp] theorem State.modRoute_me (s : State) (k : Nat) (f : (BitVec 32) → (BitVec 32)) : (s.modRoute k f).me = s.me := rfl
@[simp] theorem State.modRoute_ve (s : State) (k : Nat) (f : (BitVec 32) → (BitVec 32)) : (s.modRoute k f).ve = s.ve := rfl
@[simp] theorem State.modRoute_vfiles (s : State) (k : Nat) (f : (BitVec 32) → (BitVec 32)) : (s.modRoute k f).vfiles = s.vfiles := rfl
@[simp] theorem State.modRoute_fe (s : State) (k : Nat) (f : (BitVec 32) → (BitVec 32)) : (s.modRoute k f).fe = s.fe := rfl
@[simp] theorem State.modRoute_sp (s : State) (k : Nat) (f : (BitVec 32) → (BitVec 32)) : (s.modRoute k f).sp = s.sp := rfl
@[simp] theorem State.modRoute_spPois (s : State) (k : Nat) (f : (BitVec 32) → (BitVec 32)) : (s.modRoute k f).spPois = s.spPois := rfl
@[simp] theorem State.modRoute_ctxs (s : State) (k : Nat) (f : (BitVec 32) → (BitVec 32)) : (s.modRoute k f).ctxs = s.ctxs := rfl
@[simp] theorem State.modRoute_parts (s : State) (k : Nat) (f : (BitVec 32) → (BitVec 32)) : (s.modRoute k f).parts = s.parts := rfl
@[simp] theorem State.modRoute_pages (s : State) (k : Nat) (f : (BitVec 32) → (BitVec 32)) : (s.modRoute k f).pages = s.pages := rfl
@[simp] theorem State.modRoute_streams (s : State) (k : Nat) (f : (BitVec 32) → (BitVec 32)) : (s.modRoute k f).streams = s.streams := rfl
@[simp] theorem State.modRoute_ports (s : State) (k : Nat) (f : (BitVec 32) → (BitVec 32)) : (s.modRoute k f).ports = s.ports := rfl
@[simp] theorem State.modRoute_dirs (s : State) (k : Nat) (f : (BitVec 32) → (BitVec 32)) : (s.modRoute k f).dirs = s.dirs := rfl
@[simp] theorem State.modRoute_lines (s : State) (k : Nat) (f : (BitVec 32) → (BitVec 32)) : (s.modRoute k f).lines = s.lines := rfl
@[simp] theorem State.modRoute_trans (s : State) (k : Nat) (f : (BitVec 32) → (BitVec 32)) : (s.modRoute k f).trans = s.trans := rfl
@[simp] theorem State.modRoute_lands (s : State) (k : Nat) (f : (BitVec 32) → (BitVec 32)) : (s.modRoute k f).lands = s.lands := rfl
@[simp] theorem State.modRoute_xacts (s : State) (k : Nat) (f : (BitVec 32) → (BitVec 32)) : (s.modRoute k f).xacts = s.xacts := rfl
@[simp] theorem State.modRoute_admits (s : State) (k : Nat) (f : (BitVec 32) → (BitVec 32)) : (s.modRoute k f).admits = s.admits := rfl
@[simp] theorem State.modRoute_groups (s : State) (k : Nat) (f : (BitVec 32) → (BitVec 32)) : (s.modRoute k f).groups = s.groups := rfl
@[simp] theorem State.modRoute_fw (s : State) (k : Nat) (f : (BitVec 32) → (BitVec 32)) : (s.modRoute k f).fw = s.fw := rfl
@[simp] theorem State.modRoute_logs (s : State) (k : Nat) (f : (BitVec 32) → (BitVec 32)) : (s.modRoute k f).logs = s.logs := rfl
@[simp] theorem State.modRoute_pm (s : State) (k : Nat) (f : (BitVec 32) → (BitVec 32)) : (s.modRoute k f).pm = s.pm := rfl
@[simp] theorem State.modRoute_tmap (s : State) (k : Nat) (f : (BitVec 32) → (BitVec 32)) : (s.modRoute k f).tmap = s.tmap := rfl
@[simp] theorem State.modRoute_act (s : State) (k : Nat) (f : (BitVec 32) → (BitVec 32)) : (s.modRoute k f).act = s.act := rfl
@[simp] theorem State.modRoute_out (s : State) (k : Nat) (f : (BitVec 32) → (BitVec 32)) : (s.modRoute k f).out = s.out := rfl
@[simp] theorem State.route_modRoute (s : State) (k : Nat) (f : (BitVec 32) → (BitVec 32)) : (s.modRoute k f).route k = f (s.route k) := by
  simp [State.route, State.modRoute, Tab.get_upd_same]
theorem State.route_modRoute_ne (s : State) (k j : Nat) (f : (BitVec 32) → (BitVec 32)) (h : j ≠ k) : (s.modRoute k f).route j = s.route j := by
  simp [State.route, State.modRoute, Tab.get_upd_ne _ _ _ _ _ h]
@[simp] theorem State.modRoute_members (s : State) (k : Nat) (f : (BitVec 32) → (BitVec 32)) :
    (∀ j, (s.modRoute k f).slot j = s.slot j) ∧
    (∀ j, (s.modRoute k f).parcel j = s.parcel j) ∧
    (∀ j, (s.modRoute k f).memByte j = s.memByte j) ∧
    (∀ j, (s.modRoute k f).colBad j = s.colBad j) ∧
    (∀ j, (s.modRoute k f).row j = s.row j) ∧
    (∀ j, (s.modRoute k f).bspare j = s.bspare j) ∧
    (∀ j, (s.modRoute k f).stack j = s.stack j) ∧
    (∀ j, (s.modRoute k f).chan j = s.chan j) ∧
    (∀ j, (s.modRoute k f).nbu j = s.nbu j) ∧
    (∀ j, (s.modRoute k f).cru j = s.cru j) ∧
    (∀ j, (s.modRoute k f).hub j = s.hub j) ∧
    (∀ j, (s.modRoute k f).mat j = s.mat j) ∧
    (∀ j, (s.modRoute k f).vec j = s.vec j) ∧
    (∀ j, (s.modRoute k f).vfile j = s.vfile j) ∧
    (∀ j, (s.modRoute k f).fchan j = s.fchan j) ∧
    (∀ j, (s.modRoute k f).spByte j = s.spByte j) ∧
    (∀ j, (s.modRoute k f).spBad j = s.spBad j) ∧
    (∀ j, (s.modRoute k f).ctx j = s.ctx j) ∧
    (∀ j, (s.modRoute k f).part j = s.part j) ∧
    (∀ j, (s.modRoute k f).page j = s.page j) ∧
    (∀ j, (s.modRoute k f).stream j = s.stream j) ∧
    (∀ j, (s.modRoute k f).hport j = s.hport j) ∧
    (∀ j, (s.modRoute k f).dir j = s.dir j) ∧
    (∀ j, (s.modRoute k f).tran j = s.tran j) ∧
    (∀ j, (s.modRoute k f).landing j = s.landing j) ∧
    (∀ j, (s.modRoute k f).admission j = s.admission j) ∧
    (∀ j, (s.modRoute k f).group j = s.group j) ∧
    (∀ j, (s.modRoute k f).counter j = s.counter j) := by
  and_intros <;> exact fun _ => rfl
@[simp] theorem State.modAdmit_pending (s : State) (k : Nat) (f : (BitVec 32) → (BitVec 32)) : (s.modAdmit k f).pending = s.pending := rfl
@[simp] theorem State.modAdmit_cyc (s : State) (k : Nat) (f : (BitVec 32) → (BitVec 32)) : (s.modAdmit k f).cyc = s.cyc := rfl
@[simp] theorem State.modAdmit_free (s : State) (k : Nat) (f : (BitVec 32) → (BitVec 32)) : (s.modAdmit k f).free = s.free := rfl
@[simp] theorem State.modAdmit_half (s : State) (k : Nat) (f : (BitVec 32) → (BitVec 32)) : (s.modAdmit k f).half = s.half := rfl
@[simp] theorem State.modAdmit_regs (s : State) (k : Nat) (f : (BitVec 32) → (BitVec 32)) : (s.modAdmit k f).regs = s.regs := rfl
@[simp] theorem State.modAdmit_boot (s : State) (k : Nat) (f : (BitVec 32) → (BitVec 32)) : (s.modAdmit k f).boot = s.boot := rfl
@[simp] theorem State.modAdmit_power (s : State) (k : Nat) (f : (BitVec 32) → (BitVec 32)) : (s.modAdmit k f).power = s.power := rfl
@[simp] theorem State.modAdmit_slots (s : State) (k : Nat) (f : (BitVec 32) → (BitVec 32)) : (s.modAdmit k f).slots = s.slots := rfl
@[simp] theorem State.modAdmit_parcels (s : State) (k : Nat) (f : (BitVec 32) → (BitVec 32)) : (s.modAdmit k f).parcels = s.parcels := rfl
@[simp] theorem State.modAdmit_mem (s : State) (k : Nat) (f : (BitVec 32) → (BitVec 32)) : (s.modAdmit k f).mem = s.mem := rfl
@[simp] theorem State.modAdmit_pois (s : State) (k : Nat) (f : (BitVec 32) → (BitVec 32)) : (s.modAdmit k f).pois = s.pois := rfl
@[simp] theorem State.modAdmit_rows (s : State) (k : Nat) (f : (BitVec 32) → (BitVec 32)) : (s.modAdmit k f).rows = s.rows := rfl
@[simp] theorem State.modAdmit_bspares (s : State) (k : Nat) (f : (BitVec 32) → (BitVec 32)) : (s.modAdmit k f).bspares = s.bspares := rfl
@[simp] theorem State.modAdmit_stks (s : State) (k : Nat) (f : (BitVec 32) → (BitVec 32)) : (s.modAdmit k f).stks = s.stks := rfl
@[simp] theorem State.modAdmit_chans (s : State) (k : Nat) (f : (BitVec 32) → (BitVec 32)) : (s.modAdmit k f).chans = s.chans := rfl
@[simp] theorem State.modAdmit_nbus (s : State) (k : Nat) (f : (BitVec 32) → (BitVec 32)) : (s.modAdmit k f).nbus = s.nbus := rfl
@[simp] theorem State.modAdmit_crus (s : State) (k : Nat) (f : (BitVec 32) → (BitVec 32)) : (s.modAdmit k f).crus = s.crus := rfl
@[simp] theorem State.modAdmit_hubs (s : State) (k : Nat) (f : (BitVec 32) → (BitVec 32)) : (s.modAdmit k f).hubs = s.hubs := rfl
@[simp] theorem State.modAdmit_me (s : State) (k : Nat) (f : (BitVec 32) → (BitVec 32)) : (s.modAdmit k f).me = s.me := rfl
@[simp] theorem State.modAdmit_ve (s : State) (k : Nat) (f : (BitVec 32) → (BitVec 32)) : (s.modAdmit k f).ve = s.ve := rfl
@[simp] theorem State.modAdmit_vfiles (s : State) (k : Nat) (f : (BitVec 32) → (BitVec 32)) : (s.modAdmit k f).vfiles = s.vfiles := rfl
@[simp] theorem State.modAdmit_fe (s : State) (k : Nat) (f : (BitVec 32) → (BitVec 32)) : (s.modAdmit k f).fe = s.fe := rfl
@[simp] theorem State.modAdmit_sp (s : State) (k : Nat) (f : (BitVec 32) → (BitVec 32)) : (s.modAdmit k f).sp = s.sp := rfl
@[simp] theorem State.modAdmit_spPois (s : State) (k : Nat) (f : (BitVec 32) → (BitVec 32)) : (s.modAdmit k f).spPois = s.spPois := rfl
@[simp] theorem State.modAdmit_ctxs (s : State) (k : Nat) (f : (BitVec 32) → (BitVec 32)) : (s.modAdmit k f).ctxs = s.ctxs := rfl
@[simp] theorem State.modAdmit_parts (s : State) (k : Nat) (f : (BitVec 32) → (BitVec 32)) : (s.modAdmit k f).parts = s.parts := rfl
@[simp] theorem State.modAdmit_pages (s : State) (k : Nat) (f : (BitVec 32) → (BitVec 32)) : (s.modAdmit k f).pages = s.pages := rfl
@[simp] theorem State.modAdmit_streams (s : State) (k : Nat) (f : (BitVec 32) → (BitVec 32)) : (s.modAdmit k f).streams = s.streams := rfl
@[simp] theorem State.modAdmit_ports (s : State) (k : Nat) (f : (BitVec 32) → (BitVec 32)) : (s.modAdmit k f).ports = s.ports := rfl
@[simp] theorem State.modAdmit_dirs (s : State) (k : Nat) (f : (BitVec 32) → (BitVec 32)) : (s.modAdmit k f).dirs = s.dirs := rfl
@[simp] theorem State.modAdmit_lines (s : State) (k : Nat) (f : (BitVec 32) → (BitVec 32)) : (s.modAdmit k f).lines = s.lines := rfl
@[simp] theorem State.modAdmit_trans (s : State) (k : Nat) (f : (BitVec 32) → (BitVec 32)) : (s.modAdmit k f).trans = s.trans := rfl
@[simp] theorem State.modAdmit_lands (s : State) (k : Nat) (f : (BitVec 32) → (BitVec 32)) : (s.modAdmit k f).lands = s.lands := rfl
@[simp] theorem State.modAdmit_xacts (s : State) (k : Nat) (f : (BitVec 32) → (BitVec 32)) : (s.modAdmit k f).xacts = s.xacts := rfl
@[simp] theorem State.modAdmit_routes (s : State) (k : Nat) (f : (BitVec 32) → (BitVec 32)) : (s.modAdmit k f).routes = s.routes := rfl
@[simp] theorem State.modAdmit_groups (s : State) (k : Nat) (f : (BitVec 32) → (BitVec 32)) : (s.modAdmit k f).groups = s.groups := rfl
@[simp] theorem State.modAdmit_fw (s : State) (k : Nat) (f : (BitVec 32) → (BitVec 32)) : (s.modAdmit k f).fw = s.fw := rfl
@[simp] theorem State.modAdmit_logs (s : State) (k : Nat) (f : (BitVec 32) → (BitVec 32)) : (s.modAdmit k f).logs = s.logs := rfl
@[simp] theorem State.modAdmit_pm (s : State) (k : Nat) (f : (BitVec 32) → (BitVec 32)) : (s.modAdmit k f).pm = s.pm := rfl
@[simp] theorem State.modAdmit_tmap (s : State) (k : Nat) (f : (BitVec 32) → (BitVec 32)) : (s.modAdmit k f).tmap = s.tmap := rfl
@[simp] theorem State.modAdmit_act (s : State) (k : Nat) (f : (BitVec 32) → (BitVec 32)) : (s.modAdmit k f).act = s.act := rfl
@[simp] theorem State.modAdmit_out (s : State) (k : Nat) (f : (BitVec 32) → (BitVec 32)) : (s.modAdmit k f).out = s.out := rfl
@[simp] theorem State.admit_modAdmit (s : State) (k : Nat) (f : (BitVec 32) → (BitVec 32)) : (s.modAdmit k f).admission k = f (s.admission k) := by
  simp [State.admission, State.modAdmit, Tab.get_upd_same]
theorem State.admit_modAdmit_ne (s : State) (k j : Nat) (f : (BitVec 32) → (BitVec 32)) (h : j ≠ k) : (s.modAdmit k f).admission j = s.admission j := by
  simp [State.admission, State.modAdmit, Tab.get_upd_ne _ _ _ _ _ h]
@[simp] theorem State.modAdmit_members (s : State) (k : Nat) (f : (BitVec 32) → (BitVec 32)) :
    (∀ j, (s.modAdmit k f).slot j = s.slot j) ∧
    (∀ j, (s.modAdmit k f).parcel j = s.parcel j) ∧
    (∀ j, (s.modAdmit k f).memByte j = s.memByte j) ∧
    (∀ j, (s.modAdmit k f).colBad j = s.colBad j) ∧
    (∀ j, (s.modAdmit k f).row j = s.row j) ∧
    (∀ j, (s.modAdmit k f).bspare j = s.bspare j) ∧
    (∀ j, (s.modAdmit k f).stack j = s.stack j) ∧
    (∀ j, (s.modAdmit k f).chan j = s.chan j) ∧
    (∀ j, (s.modAdmit k f).nbu j = s.nbu j) ∧
    (∀ j, (s.modAdmit k f).cru j = s.cru j) ∧
    (∀ j, (s.modAdmit k f).hub j = s.hub j) ∧
    (∀ j, (s.modAdmit k f).mat j = s.mat j) ∧
    (∀ j, (s.modAdmit k f).vec j = s.vec j) ∧
    (∀ j, (s.modAdmit k f).vfile j = s.vfile j) ∧
    (∀ j, (s.modAdmit k f).fchan j = s.fchan j) ∧
    (∀ j, (s.modAdmit k f).spByte j = s.spByte j) ∧
    (∀ j, (s.modAdmit k f).spBad j = s.spBad j) ∧
    (∀ j, (s.modAdmit k f).ctx j = s.ctx j) ∧
    (∀ j, (s.modAdmit k f).part j = s.part j) ∧
    (∀ j, (s.modAdmit k f).page j = s.page j) ∧
    (∀ j, (s.modAdmit k f).stream j = s.stream j) ∧
    (∀ j, (s.modAdmit k f).hport j = s.hport j) ∧
    (∀ j, (s.modAdmit k f).dir j = s.dir j) ∧
    (∀ j, (s.modAdmit k f).tran j = s.tran j) ∧
    (∀ j, (s.modAdmit k f).landing j = s.landing j) ∧
    (∀ j, (s.modAdmit k f).route j = s.route j) ∧
    (∀ j, (s.modAdmit k f).group j = s.group j) ∧
    (∀ j, (s.modAdmit k f).counter j = s.counter j) := by
  and_intros <;> exact fun _ => rfl
@[simp] theorem State.modGroup_pending (s : State) (k : Nat) (f : Group → Group) : (s.modGroup k f).pending = s.pending := rfl
@[simp] theorem State.modGroup_cyc (s : State) (k : Nat) (f : Group → Group) : (s.modGroup k f).cyc = s.cyc := rfl
@[simp] theorem State.modGroup_free (s : State) (k : Nat) (f : Group → Group) : (s.modGroup k f).free = s.free := rfl
@[simp] theorem State.modGroup_half (s : State) (k : Nat) (f : Group → Group) : (s.modGroup k f).half = s.half := rfl
@[simp] theorem State.modGroup_regs (s : State) (k : Nat) (f : Group → Group) : (s.modGroup k f).regs = s.regs := rfl
@[simp] theorem State.modGroup_boot (s : State) (k : Nat) (f : Group → Group) : (s.modGroup k f).boot = s.boot := rfl
@[simp] theorem State.modGroup_power (s : State) (k : Nat) (f : Group → Group) : (s.modGroup k f).power = s.power := rfl
@[simp] theorem State.modGroup_slots (s : State) (k : Nat) (f : Group → Group) : (s.modGroup k f).slots = s.slots := rfl
@[simp] theorem State.modGroup_parcels (s : State) (k : Nat) (f : Group → Group) : (s.modGroup k f).parcels = s.parcels := rfl
@[simp] theorem State.modGroup_mem (s : State) (k : Nat) (f : Group → Group) : (s.modGroup k f).mem = s.mem := rfl
@[simp] theorem State.modGroup_pois (s : State) (k : Nat) (f : Group → Group) : (s.modGroup k f).pois = s.pois := rfl
@[simp] theorem State.modGroup_rows (s : State) (k : Nat) (f : Group → Group) : (s.modGroup k f).rows = s.rows := rfl
@[simp] theorem State.modGroup_bspares (s : State) (k : Nat) (f : Group → Group) : (s.modGroup k f).bspares = s.bspares := rfl
@[simp] theorem State.modGroup_stks (s : State) (k : Nat) (f : Group → Group) : (s.modGroup k f).stks = s.stks := rfl
@[simp] theorem State.modGroup_chans (s : State) (k : Nat) (f : Group → Group) : (s.modGroup k f).chans = s.chans := rfl
@[simp] theorem State.modGroup_nbus (s : State) (k : Nat) (f : Group → Group) : (s.modGroup k f).nbus = s.nbus := rfl
@[simp] theorem State.modGroup_crus (s : State) (k : Nat) (f : Group → Group) : (s.modGroup k f).crus = s.crus := rfl
@[simp] theorem State.modGroup_hubs (s : State) (k : Nat) (f : Group → Group) : (s.modGroup k f).hubs = s.hubs := rfl
@[simp] theorem State.modGroup_me (s : State) (k : Nat) (f : Group → Group) : (s.modGroup k f).me = s.me := rfl
@[simp] theorem State.modGroup_ve (s : State) (k : Nat) (f : Group → Group) : (s.modGroup k f).ve = s.ve := rfl
@[simp] theorem State.modGroup_vfiles (s : State) (k : Nat) (f : Group → Group) : (s.modGroup k f).vfiles = s.vfiles := rfl
@[simp] theorem State.modGroup_fe (s : State) (k : Nat) (f : Group → Group) : (s.modGroup k f).fe = s.fe := rfl
@[simp] theorem State.modGroup_sp (s : State) (k : Nat) (f : Group → Group) : (s.modGroup k f).sp = s.sp := rfl
@[simp] theorem State.modGroup_spPois (s : State) (k : Nat) (f : Group → Group) : (s.modGroup k f).spPois = s.spPois := rfl
@[simp] theorem State.modGroup_ctxs (s : State) (k : Nat) (f : Group → Group) : (s.modGroup k f).ctxs = s.ctxs := rfl
@[simp] theorem State.modGroup_parts (s : State) (k : Nat) (f : Group → Group) : (s.modGroup k f).parts = s.parts := rfl
@[simp] theorem State.modGroup_pages (s : State) (k : Nat) (f : Group → Group) : (s.modGroup k f).pages = s.pages := rfl
@[simp] theorem State.modGroup_streams (s : State) (k : Nat) (f : Group → Group) : (s.modGroup k f).streams = s.streams := rfl
@[simp] theorem State.modGroup_ports (s : State) (k : Nat) (f : Group → Group) : (s.modGroup k f).ports = s.ports := rfl
@[simp] theorem State.modGroup_dirs (s : State) (k : Nat) (f : Group → Group) : (s.modGroup k f).dirs = s.dirs := rfl
@[simp] theorem State.modGroup_lines (s : State) (k : Nat) (f : Group → Group) : (s.modGroup k f).lines = s.lines := rfl
@[simp] theorem State.modGroup_trans (s : State) (k : Nat) (f : Group → Group) : (s.modGroup k f).trans = s.trans := rfl
@[simp] theorem State.modGroup_lands (s : State) (k : Nat) (f : Group → Group) : (s.modGroup k f).lands = s.lands := rfl
@[simp] theorem State.modGroup_xacts (s : State) (k : Nat) (f : Group → Group) : (s.modGroup k f).xacts = s.xacts := rfl
@[simp] theorem State.modGroup_routes (s : State) (k : Nat) (f : Group → Group) : (s.modGroup k f).routes = s.routes := rfl
@[simp] theorem State.modGroup_admits (s : State) (k : Nat) (f : Group → Group) : (s.modGroup k f).admits = s.admits := rfl
@[simp] theorem State.modGroup_fw (s : State) (k : Nat) (f : Group → Group) : (s.modGroup k f).fw = s.fw := rfl
@[simp] theorem State.modGroup_logs (s : State) (k : Nat) (f : Group → Group) : (s.modGroup k f).logs = s.logs := rfl
@[simp] theorem State.modGroup_pm (s : State) (k : Nat) (f : Group → Group) : (s.modGroup k f).pm = s.pm := rfl
@[simp] theorem State.modGroup_tmap (s : State) (k : Nat) (f : Group → Group) : (s.modGroup k f).tmap = s.tmap := rfl
@[simp] theorem State.modGroup_act (s : State) (k : Nat) (f : Group → Group) : (s.modGroup k f).act = s.act := rfl
@[simp] theorem State.modGroup_out (s : State) (k : Nat) (f : Group → Group) : (s.modGroup k f).out = s.out := rfl
@[simp] theorem State.group_modGroup (s : State) (k : Nat) (f : Group → Group) : (s.modGroup k f).group k = f (s.group k) := by
  simp [State.group, State.modGroup, Tab.get_upd_same]
theorem State.group_modGroup_ne (s : State) (k j : Nat) (f : Group → Group) (h : j ≠ k) : (s.modGroup k f).group j = s.group j := by
  simp [State.group, State.modGroup, Tab.get_upd_ne _ _ _ _ _ h]
@[simp] theorem State.modGroup_members (s : State) (k : Nat) (f : Group → Group) :
    (∀ j, (s.modGroup k f).slot j = s.slot j) ∧
    (∀ j, (s.modGroup k f).parcel j = s.parcel j) ∧
    (∀ j, (s.modGroup k f).memByte j = s.memByte j) ∧
    (∀ j, (s.modGroup k f).colBad j = s.colBad j) ∧
    (∀ j, (s.modGroup k f).row j = s.row j) ∧
    (∀ j, (s.modGroup k f).bspare j = s.bspare j) ∧
    (∀ j, (s.modGroup k f).stack j = s.stack j) ∧
    (∀ j, (s.modGroup k f).chan j = s.chan j) ∧
    (∀ j, (s.modGroup k f).nbu j = s.nbu j) ∧
    (∀ j, (s.modGroup k f).cru j = s.cru j) ∧
    (∀ j, (s.modGroup k f).hub j = s.hub j) ∧
    (∀ j, (s.modGroup k f).mat j = s.mat j) ∧
    (∀ j, (s.modGroup k f).vec j = s.vec j) ∧
    (∀ j, (s.modGroup k f).vfile j = s.vfile j) ∧
    (∀ j, (s.modGroup k f).fchan j = s.fchan j) ∧
    (∀ j, (s.modGroup k f).spByte j = s.spByte j) ∧
    (∀ j, (s.modGroup k f).spBad j = s.spBad j) ∧
    (∀ j, (s.modGroup k f).ctx j = s.ctx j) ∧
    (∀ j, (s.modGroup k f).part j = s.part j) ∧
    (∀ j, (s.modGroup k f).page j = s.page j) ∧
    (∀ j, (s.modGroup k f).stream j = s.stream j) ∧
    (∀ j, (s.modGroup k f).hport j = s.hport j) ∧
    (∀ j, (s.modGroup k f).dir j = s.dir j) ∧
    (∀ j, (s.modGroup k f).tran j = s.tran j) ∧
    (∀ j, (s.modGroup k f).landing j = s.landing j) ∧
    (∀ j, (s.modGroup k f).route j = s.route j) ∧
    (∀ j, (s.modGroup k f).admission j = s.admission j) ∧
    (∀ j, (s.modGroup k f).counter j = s.counter j) := by
  and_intros <;> exact fun _ => rfl
@[simp] theorem State.modCounter_pending (s : State) (k : Nat) (f : Counter → Counter) : (s.modCounter k f).pending = s.pending := rfl
@[simp] theorem State.modCounter_cyc (s : State) (k : Nat) (f : Counter → Counter) : (s.modCounter k f).cyc = s.cyc := rfl
@[simp] theorem State.modCounter_free (s : State) (k : Nat) (f : Counter → Counter) : (s.modCounter k f).free = s.free := rfl
@[simp] theorem State.modCounter_half (s : State) (k : Nat) (f : Counter → Counter) : (s.modCounter k f).half = s.half := rfl
@[simp] theorem State.modCounter_regs (s : State) (k : Nat) (f : Counter → Counter) : (s.modCounter k f).regs = s.regs := rfl
@[simp] theorem State.modCounter_boot (s : State) (k : Nat) (f : Counter → Counter) : (s.modCounter k f).boot = s.boot := rfl
@[simp] theorem State.modCounter_power (s : State) (k : Nat) (f : Counter → Counter) : (s.modCounter k f).power = s.power := rfl
@[simp] theorem State.modCounter_slots (s : State) (k : Nat) (f : Counter → Counter) : (s.modCounter k f).slots = s.slots := rfl
@[simp] theorem State.modCounter_parcels (s : State) (k : Nat) (f : Counter → Counter) : (s.modCounter k f).parcels = s.parcels := rfl
@[simp] theorem State.modCounter_mem (s : State) (k : Nat) (f : Counter → Counter) : (s.modCounter k f).mem = s.mem := rfl
@[simp] theorem State.modCounter_pois (s : State) (k : Nat) (f : Counter → Counter) : (s.modCounter k f).pois = s.pois := rfl
@[simp] theorem State.modCounter_rows (s : State) (k : Nat) (f : Counter → Counter) : (s.modCounter k f).rows = s.rows := rfl
@[simp] theorem State.modCounter_bspares (s : State) (k : Nat) (f : Counter → Counter) : (s.modCounter k f).bspares = s.bspares := rfl
@[simp] theorem State.modCounter_stks (s : State) (k : Nat) (f : Counter → Counter) : (s.modCounter k f).stks = s.stks := rfl
@[simp] theorem State.modCounter_chans (s : State) (k : Nat) (f : Counter → Counter) : (s.modCounter k f).chans = s.chans := rfl
@[simp] theorem State.modCounter_nbus (s : State) (k : Nat) (f : Counter → Counter) : (s.modCounter k f).nbus = s.nbus := rfl
@[simp] theorem State.modCounter_crus (s : State) (k : Nat) (f : Counter → Counter) : (s.modCounter k f).crus = s.crus := rfl
@[simp] theorem State.modCounter_hubs (s : State) (k : Nat) (f : Counter → Counter) : (s.modCounter k f).hubs = s.hubs := rfl
@[simp] theorem State.modCounter_me (s : State) (k : Nat) (f : Counter → Counter) : (s.modCounter k f).me = s.me := rfl
@[simp] theorem State.modCounter_ve (s : State) (k : Nat) (f : Counter → Counter) : (s.modCounter k f).ve = s.ve := rfl
@[simp] theorem State.modCounter_vfiles (s : State) (k : Nat) (f : Counter → Counter) : (s.modCounter k f).vfiles = s.vfiles := rfl
@[simp] theorem State.modCounter_fe (s : State) (k : Nat) (f : Counter → Counter) : (s.modCounter k f).fe = s.fe := rfl
@[simp] theorem State.modCounter_sp (s : State) (k : Nat) (f : Counter → Counter) : (s.modCounter k f).sp = s.sp := rfl
@[simp] theorem State.modCounter_spPois (s : State) (k : Nat) (f : Counter → Counter) : (s.modCounter k f).spPois = s.spPois := rfl
@[simp] theorem State.modCounter_ctxs (s : State) (k : Nat) (f : Counter → Counter) : (s.modCounter k f).ctxs = s.ctxs := rfl
@[simp] theorem State.modCounter_parts (s : State) (k : Nat) (f : Counter → Counter) : (s.modCounter k f).parts = s.parts := rfl
@[simp] theorem State.modCounter_pages (s : State) (k : Nat) (f : Counter → Counter) : (s.modCounter k f).pages = s.pages := rfl
@[simp] theorem State.modCounter_streams (s : State) (k : Nat) (f : Counter → Counter) : (s.modCounter k f).streams = s.streams := rfl
@[simp] theorem State.modCounter_ports (s : State) (k : Nat) (f : Counter → Counter) : (s.modCounter k f).ports = s.ports := rfl
@[simp] theorem State.modCounter_dirs (s : State) (k : Nat) (f : Counter → Counter) : (s.modCounter k f).dirs = s.dirs := rfl
@[simp] theorem State.modCounter_lines (s : State) (k : Nat) (f : Counter → Counter) : (s.modCounter k f).lines = s.lines := rfl
@[simp] theorem State.modCounter_trans (s : State) (k : Nat) (f : Counter → Counter) : (s.modCounter k f).trans = s.trans := rfl
@[simp] theorem State.modCounter_lands (s : State) (k : Nat) (f : Counter → Counter) : (s.modCounter k f).lands = s.lands := rfl
@[simp] theorem State.modCounter_xacts (s : State) (k : Nat) (f : Counter → Counter) : (s.modCounter k f).xacts = s.xacts := rfl
@[simp] theorem State.modCounter_routes (s : State) (k : Nat) (f : Counter → Counter) : (s.modCounter k f).routes = s.routes := rfl
@[simp] theorem State.modCounter_admits (s : State) (k : Nat) (f : Counter → Counter) : (s.modCounter k f).admits = s.admits := rfl
@[simp] theorem State.modCounter_groups (s : State) (k : Nat) (f : Counter → Counter) : (s.modCounter k f).groups = s.groups := rfl
@[simp] theorem State.modCounter_fw (s : State) (k : Nat) (f : Counter → Counter) : (s.modCounter k f).fw = s.fw := rfl
@[simp] theorem State.modCounter_logs (s : State) (k : Nat) (f : Counter → Counter) : (s.modCounter k f).logs = s.logs := rfl
@[simp] theorem State.modCounter_tmap (s : State) (k : Nat) (f : Counter → Counter) : (s.modCounter k f).tmap = s.tmap := rfl
@[simp] theorem State.modCounter_act (s : State) (k : Nat) (f : Counter → Counter) : (s.modCounter k f).act = s.act := rfl
@[simp] theorem State.modCounter_out (s : State) (k : Nat) (f : Counter → Counter) : (s.modCounter k f).out = s.out := rfl
@[simp] theorem State.counter_modCounter (s : State) (k : Nat) (f : Counter → Counter) : (s.modCounter k f).counter k = f (s.counter k) := by
  simp [State.counter, State.modCounter, Tab.get_upd_same]
theorem State.counter_modCounter_ne (s : State) (k j : Nat) (f : Counter → Counter) (h : j ≠ k) : (s.modCounter k f).counter j = s.counter j := by
  simp [State.counter, State.modCounter, Tab.get_upd_ne _ _ _ _ _ h]
@[simp] theorem State.modCounter_members (s : State) (k : Nat) (f : Counter → Counter) :
    (∀ j, (s.modCounter k f).slot j = s.slot j) ∧
    (∀ j, (s.modCounter k f).parcel j = s.parcel j) ∧
    (∀ j, (s.modCounter k f).memByte j = s.memByte j) ∧
    (∀ j, (s.modCounter k f).colBad j = s.colBad j) ∧
    (∀ j, (s.modCounter k f).row j = s.row j) ∧
    (∀ j, (s.modCounter k f).bspare j = s.bspare j) ∧
    (∀ j, (s.modCounter k f).stack j = s.stack j) ∧
    (∀ j, (s.modCounter k f).chan j = s.chan j) ∧
    (∀ j, (s.modCounter k f).nbu j = s.nbu j) ∧
    (∀ j, (s.modCounter k f).cru j = s.cru j) ∧
    (∀ j, (s.modCounter k f).hub j = s.hub j) ∧
    (∀ j, (s.modCounter k f).mat j = s.mat j) ∧
    (∀ j, (s.modCounter k f).vec j = s.vec j) ∧
    (∀ j, (s.modCounter k f).vfile j = s.vfile j) ∧
    (∀ j, (s.modCounter k f).fchan j = s.fchan j) ∧
    (∀ j, (s.modCounter k f).spByte j = s.spByte j) ∧
    (∀ j, (s.modCounter k f).spBad j = s.spBad j) ∧
    (∀ j, (s.modCounter k f).ctx j = s.ctx j) ∧
    (∀ j, (s.modCounter k f).part j = s.part j) ∧
    (∀ j, (s.modCounter k f).page j = s.page j) ∧
    (∀ j, (s.modCounter k f).stream j = s.stream j) ∧
    (∀ j, (s.modCounter k f).hport j = s.hport j) ∧
    (∀ j, (s.modCounter k f).dir j = s.dir j) ∧
    (∀ j, (s.modCounter k f).tran j = s.tran j) ∧
    (∀ j, (s.modCounter k f).landing j = s.landing j) ∧
    (∀ j, (s.modCounter k f).route j = s.route j) ∧
    (∀ j, (s.modCounter k f).admission j = s.admission j) ∧
    (∀ j, (s.modCounter k f).group j = s.group j) := by
  and_intros <;> exact fun _ => rfl
@[simp] theorem State.putCyc_cyc (s : State) (v : Nat) : (s.putCyc v).cyc = v := rfl
@[simp] theorem State.putCyc_pending (s : State) (v : Nat) : (s.putCyc v).pending = s.pending := rfl
@[simp] theorem State.putCyc_free (s : State) (v : Nat) : (s.putCyc v).free = s.free := rfl
@[simp] theorem State.putCyc_half (s : State) (v : Nat) : (s.putCyc v).half = s.half := rfl
@[simp] theorem State.putCyc_regs (s : State) (v : Nat) : (s.putCyc v).regs = s.regs := rfl
@[simp] theorem State.putCyc_boot (s : State) (v : Nat) : (s.putCyc v).boot = s.boot := rfl
@[simp] theorem State.putCyc_power (s : State) (v : Nat) : (s.putCyc v).power = s.power := rfl
@[simp] theorem State.putCyc_slots (s : State) (v : Nat) : (s.putCyc v).slots = s.slots := rfl
@[simp] theorem State.putCyc_parcels (s : State) (v : Nat) : (s.putCyc v).parcels = s.parcels := rfl
@[simp] theorem State.putCyc_mem (s : State) (v : Nat) : (s.putCyc v).mem = s.mem := rfl
@[simp] theorem State.putCyc_pois (s : State) (v : Nat) : (s.putCyc v).pois = s.pois := rfl
@[simp] theorem State.putCyc_rows (s : State) (v : Nat) : (s.putCyc v).rows = s.rows := rfl
@[simp] theorem State.putCyc_bspares (s : State) (v : Nat) : (s.putCyc v).bspares = s.bspares := rfl
@[simp] theorem State.putCyc_stks (s : State) (v : Nat) : (s.putCyc v).stks = s.stks := rfl
@[simp] theorem State.putCyc_chans (s : State) (v : Nat) : (s.putCyc v).chans = s.chans := rfl
@[simp] theorem State.putCyc_nbus (s : State) (v : Nat) : (s.putCyc v).nbus = s.nbus := rfl
@[simp] theorem State.putCyc_crus (s : State) (v : Nat) : (s.putCyc v).crus = s.crus := rfl
@[simp] theorem State.putCyc_hubs (s : State) (v : Nat) : (s.putCyc v).hubs = s.hubs := rfl
@[simp] theorem State.putCyc_me (s : State) (v : Nat) : (s.putCyc v).me = s.me := rfl
@[simp] theorem State.putCyc_ve (s : State) (v : Nat) : (s.putCyc v).ve = s.ve := rfl
@[simp] theorem State.putCyc_vfiles (s : State) (v : Nat) : (s.putCyc v).vfiles = s.vfiles := rfl
@[simp] theorem State.putCyc_fe (s : State) (v : Nat) : (s.putCyc v).fe = s.fe := rfl
@[simp] theorem State.putCyc_sp (s : State) (v : Nat) : (s.putCyc v).sp = s.sp := rfl
@[simp] theorem State.putCyc_spPois (s : State) (v : Nat) : (s.putCyc v).spPois = s.spPois := rfl
@[simp] theorem State.putCyc_ctxs (s : State) (v : Nat) : (s.putCyc v).ctxs = s.ctxs := rfl
@[simp] theorem State.putCyc_parts (s : State) (v : Nat) : (s.putCyc v).parts = s.parts := rfl
@[simp] theorem State.putCyc_pages (s : State) (v : Nat) : (s.putCyc v).pages = s.pages := rfl
@[simp] theorem State.putCyc_streams (s : State) (v : Nat) : (s.putCyc v).streams = s.streams := rfl
@[simp] theorem State.putCyc_ports (s : State) (v : Nat) : (s.putCyc v).ports = s.ports := rfl
@[simp] theorem State.putCyc_dirs (s : State) (v : Nat) : (s.putCyc v).dirs = s.dirs := rfl
@[simp] theorem State.putCyc_lines (s : State) (v : Nat) : (s.putCyc v).lines = s.lines := rfl
@[simp] theorem State.putCyc_trans (s : State) (v : Nat) : (s.putCyc v).trans = s.trans := rfl
@[simp] theorem State.putCyc_lands (s : State) (v : Nat) : (s.putCyc v).lands = s.lands := rfl
@[simp] theorem State.putCyc_xacts (s : State) (v : Nat) : (s.putCyc v).xacts = s.xacts := rfl
@[simp] theorem State.putCyc_routes (s : State) (v : Nat) : (s.putCyc v).routes = s.routes := rfl
@[simp] theorem State.putCyc_admits (s : State) (v : Nat) : (s.putCyc v).admits = s.admits := rfl
@[simp] theorem State.putCyc_groups (s : State) (v : Nat) : (s.putCyc v).groups = s.groups := rfl
@[simp] theorem State.putCyc_fw (s : State) (v : Nat) : (s.putCyc v).fw = s.fw := rfl
@[simp] theorem State.putCyc_logs (s : State) (v : Nat) : (s.putCyc v).logs = s.logs := rfl
@[simp] theorem State.putCyc_pm (s : State) (v : Nat) : (s.putCyc v).pm = s.pm := rfl
@[simp] theorem State.putCyc_tmap (s : State) (v : Nat) : (s.putCyc v).tmap = s.tmap := rfl
@[simp] theorem State.putCyc_act (s : State) (v : Nat) : (s.putCyc v).act = s.act := rfl
@[simp] theorem State.putCyc_out (s : State) (v : Nat) : (s.putCyc v).out = s.out := rfl
@[simp] theorem State.putCyc_members (s : State) (v : Nat) :
    (∀ j, (s.putCyc v).slot j = s.slot j) ∧
    (∀ j, (s.putCyc v).parcel j = s.parcel j) ∧
    (∀ j, (s.putCyc v).memByte j = s.memByte j) ∧
    (∀ j, (s.putCyc v).colBad j = s.colBad j) ∧
    (∀ j, (s.putCyc v).row j = s.row j) ∧
    (∀ j, (s.putCyc v).bspare j = s.bspare j) ∧
    (∀ j, (s.putCyc v).stack j = s.stack j) ∧
    (∀ j, (s.putCyc v).chan j = s.chan j) ∧
    (∀ j, (s.putCyc v).nbu j = s.nbu j) ∧
    (∀ j, (s.putCyc v).cru j = s.cru j) ∧
    (∀ j, (s.putCyc v).hub j = s.hub j) ∧
    (∀ j, (s.putCyc v).mat j = s.mat j) ∧
    (∀ j, (s.putCyc v).vec j = s.vec j) ∧
    (∀ j, (s.putCyc v).vfile j = s.vfile j) ∧
    (∀ j, (s.putCyc v).fchan j = s.fchan j) ∧
    (∀ j, (s.putCyc v).spByte j = s.spByte j) ∧
    (∀ j, (s.putCyc v).spBad j = s.spBad j) ∧
    (∀ j, (s.putCyc v).ctx j = s.ctx j) ∧
    (∀ j, (s.putCyc v).part j = s.part j) ∧
    (∀ j, (s.putCyc v).page j = s.page j) ∧
    (∀ j, (s.putCyc v).stream j = s.stream j) ∧
    (∀ j, (s.putCyc v).hport j = s.hport j) ∧
    (∀ j, (s.putCyc v).dir j = s.dir j) ∧
    (∀ j, (s.putCyc v).tran j = s.tran j) ∧
    (∀ j, (s.putCyc v).landing j = s.landing j) ∧
    (∀ j, (s.putCyc v).route j = s.route j) ∧
    (∀ j, (s.putCyc v).admission j = s.admission j) ∧
    (∀ j, (s.putCyc v).group j = s.group j) ∧
    (∀ j, (s.putCyc v).counter j = s.counter j) := by
  and_intros <;> exact fun _ => rfl
@[simp] theorem State.putFree_free (s : State) (v : Nat) : (s.putFree v).free = v := rfl
@[simp] theorem State.putFree_pending (s : State) (v : Nat) : (s.putFree v).pending = s.pending := rfl
@[simp] theorem State.putFree_cyc (s : State) (v : Nat) : (s.putFree v).cyc = s.cyc := rfl
@[simp] theorem State.putFree_half (s : State) (v : Nat) : (s.putFree v).half = s.half := rfl
@[simp] theorem State.putFree_regs (s : State) (v : Nat) : (s.putFree v).regs = s.regs := rfl
@[simp] theorem State.putFree_boot (s : State) (v : Nat) : (s.putFree v).boot = s.boot := rfl
@[simp] theorem State.putFree_power (s : State) (v : Nat) : (s.putFree v).power = s.power := rfl
@[simp] theorem State.putFree_slots (s : State) (v : Nat) : (s.putFree v).slots = s.slots := rfl
@[simp] theorem State.putFree_parcels (s : State) (v : Nat) : (s.putFree v).parcels = s.parcels := rfl
@[simp] theorem State.putFree_mem (s : State) (v : Nat) : (s.putFree v).mem = s.mem := rfl
@[simp] theorem State.putFree_pois (s : State) (v : Nat) : (s.putFree v).pois = s.pois := rfl
@[simp] theorem State.putFree_rows (s : State) (v : Nat) : (s.putFree v).rows = s.rows := rfl
@[simp] theorem State.putFree_bspares (s : State) (v : Nat) : (s.putFree v).bspares = s.bspares := rfl
@[simp] theorem State.putFree_stks (s : State) (v : Nat) : (s.putFree v).stks = s.stks := rfl
@[simp] theorem State.putFree_chans (s : State) (v : Nat) : (s.putFree v).chans = s.chans := rfl
@[simp] theorem State.putFree_nbus (s : State) (v : Nat) : (s.putFree v).nbus = s.nbus := rfl
@[simp] theorem State.putFree_crus (s : State) (v : Nat) : (s.putFree v).crus = s.crus := rfl
@[simp] theorem State.putFree_hubs (s : State) (v : Nat) : (s.putFree v).hubs = s.hubs := rfl
@[simp] theorem State.putFree_me (s : State) (v : Nat) : (s.putFree v).me = s.me := rfl
@[simp] theorem State.putFree_ve (s : State) (v : Nat) : (s.putFree v).ve = s.ve := rfl
@[simp] theorem State.putFree_vfiles (s : State) (v : Nat) : (s.putFree v).vfiles = s.vfiles := rfl
@[simp] theorem State.putFree_fe (s : State) (v : Nat) : (s.putFree v).fe = s.fe := rfl
@[simp] theorem State.putFree_sp (s : State) (v : Nat) : (s.putFree v).sp = s.sp := rfl
@[simp] theorem State.putFree_spPois (s : State) (v : Nat) : (s.putFree v).spPois = s.spPois := rfl
@[simp] theorem State.putFree_ctxs (s : State) (v : Nat) : (s.putFree v).ctxs = s.ctxs := rfl
@[simp] theorem State.putFree_parts (s : State) (v : Nat) : (s.putFree v).parts = s.parts := rfl
@[simp] theorem State.putFree_pages (s : State) (v : Nat) : (s.putFree v).pages = s.pages := rfl
@[simp] theorem State.putFree_streams (s : State) (v : Nat) : (s.putFree v).streams = s.streams := rfl
@[simp] theorem State.putFree_ports (s : State) (v : Nat) : (s.putFree v).ports = s.ports := rfl
@[simp] theorem State.putFree_dirs (s : State) (v : Nat) : (s.putFree v).dirs = s.dirs := rfl
@[simp] theorem State.putFree_lines (s : State) (v : Nat) : (s.putFree v).lines = s.lines := rfl
@[simp] theorem State.putFree_trans (s : State) (v : Nat) : (s.putFree v).trans = s.trans := rfl
@[simp] theorem State.putFree_lands (s : State) (v : Nat) : (s.putFree v).lands = s.lands := rfl
@[simp] theorem State.putFree_xacts (s : State) (v : Nat) : (s.putFree v).xacts = s.xacts := rfl
@[simp] theorem State.putFree_routes (s : State) (v : Nat) : (s.putFree v).routes = s.routes := rfl
@[simp] theorem State.putFree_admits (s : State) (v : Nat) : (s.putFree v).admits = s.admits := rfl
@[simp] theorem State.putFree_groups (s : State) (v : Nat) : (s.putFree v).groups = s.groups := rfl
@[simp] theorem State.putFree_fw (s : State) (v : Nat) : (s.putFree v).fw = s.fw := rfl
@[simp] theorem State.putFree_logs (s : State) (v : Nat) : (s.putFree v).logs = s.logs := rfl
@[simp] theorem State.putFree_pm (s : State) (v : Nat) : (s.putFree v).pm = s.pm := rfl
@[simp] theorem State.putFree_tmap (s : State) (v : Nat) : (s.putFree v).tmap = s.tmap := rfl
@[simp] theorem State.putFree_act (s : State) (v : Nat) : (s.putFree v).act = s.act := rfl
@[simp] theorem State.putFree_out (s : State) (v : Nat) : (s.putFree v).out = s.out := rfl
@[simp] theorem State.putFree_members (s : State) (v : Nat) :
    (∀ j, (s.putFree v).slot j = s.slot j) ∧
    (∀ j, (s.putFree v).parcel j = s.parcel j) ∧
    (∀ j, (s.putFree v).memByte j = s.memByte j) ∧
    (∀ j, (s.putFree v).colBad j = s.colBad j) ∧
    (∀ j, (s.putFree v).row j = s.row j) ∧
    (∀ j, (s.putFree v).bspare j = s.bspare j) ∧
    (∀ j, (s.putFree v).stack j = s.stack j) ∧
    (∀ j, (s.putFree v).chan j = s.chan j) ∧
    (∀ j, (s.putFree v).nbu j = s.nbu j) ∧
    (∀ j, (s.putFree v).cru j = s.cru j) ∧
    (∀ j, (s.putFree v).hub j = s.hub j) ∧
    (∀ j, (s.putFree v).mat j = s.mat j) ∧
    (∀ j, (s.putFree v).vec j = s.vec j) ∧
    (∀ j, (s.putFree v).vfile j = s.vfile j) ∧
    (∀ j, (s.putFree v).fchan j = s.fchan j) ∧
    (∀ j, (s.putFree v).spByte j = s.spByte j) ∧
    (∀ j, (s.putFree v).spBad j = s.spBad j) ∧
    (∀ j, (s.putFree v).ctx j = s.ctx j) ∧
    (∀ j, (s.putFree v).part j = s.part j) ∧
    (∀ j, (s.putFree v).page j = s.page j) ∧
    (∀ j, (s.putFree v).stream j = s.stream j) ∧
    (∀ j, (s.putFree v).hport j = s.hport j) ∧
    (∀ j, (s.putFree v).dir j = s.dir j) ∧
    (∀ j, (s.putFree v).tran j = s.tran j) ∧
    (∀ j, (s.putFree v).landing j = s.landing j) ∧
    (∀ j, (s.putFree v).route j = s.route j) ∧
    (∀ j, (s.putFree v).admission j = s.admission j) ∧
    (∀ j, (s.putFree v).group j = s.group j) ∧
    (∀ j, (s.putFree v).counter j = s.counter j) := by
  and_intros <;> exact fun _ => rfl
@[simp] theorem State.putRegs_regs (s : State) (v : Tab (BitVec 64)) : (s.putRegs v).regs = v := rfl
@[simp] theorem State.putRegs_pending (s : State) (v : Tab (BitVec 64)) : (s.putRegs v).pending = s.pending := rfl
@[simp] theorem State.putRegs_cyc (s : State) (v : Tab (BitVec 64)) : (s.putRegs v).cyc = s.cyc := rfl
@[simp] theorem State.putRegs_free (s : State) (v : Tab (BitVec 64)) : (s.putRegs v).free = s.free := rfl
@[simp] theorem State.putRegs_half (s : State) (v : Tab (BitVec 64)) : (s.putRegs v).half = s.half := rfl
@[simp] theorem State.putRegs_boot (s : State) (v : Tab (BitVec 64)) : (s.putRegs v).boot = s.boot := rfl
@[simp] theorem State.putRegs_power (s : State) (v : Tab (BitVec 64)) : (s.putRegs v).power = s.power := rfl
@[simp] theorem State.putRegs_slots (s : State) (v : Tab (BitVec 64)) : (s.putRegs v).slots = s.slots := rfl
@[simp] theorem State.putRegs_parcels (s : State) (v : Tab (BitVec 64)) : (s.putRegs v).parcels = s.parcels := rfl
@[simp] theorem State.putRegs_mem (s : State) (v : Tab (BitVec 64)) : (s.putRegs v).mem = s.mem := rfl
@[simp] theorem State.putRegs_pois (s : State) (v : Tab (BitVec 64)) : (s.putRegs v).pois = s.pois := rfl
@[simp] theorem State.putRegs_rows (s : State) (v : Tab (BitVec 64)) : (s.putRegs v).rows = s.rows := rfl
@[simp] theorem State.putRegs_bspares (s : State) (v : Tab (BitVec 64)) : (s.putRegs v).bspares = s.bspares := rfl
@[simp] theorem State.putRegs_stks (s : State) (v : Tab (BitVec 64)) : (s.putRegs v).stks = s.stks := rfl
@[simp] theorem State.putRegs_chans (s : State) (v : Tab (BitVec 64)) : (s.putRegs v).chans = s.chans := rfl
@[simp] theorem State.putRegs_nbus (s : State) (v : Tab (BitVec 64)) : (s.putRegs v).nbus = s.nbus := rfl
@[simp] theorem State.putRegs_crus (s : State) (v : Tab (BitVec 64)) : (s.putRegs v).crus = s.crus := rfl
@[simp] theorem State.putRegs_hubs (s : State) (v : Tab (BitVec 64)) : (s.putRegs v).hubs = s.hubs := rfl
@[simp] theorem State.putRegs_me (s : State) (v : Tab (BitVec 64)) : (s.putRegs v).me = s.me := rfl
@[simp] theorem State.putRegs_ve (s : State) (v : Tab (BitVec 64)) : (s.putRegs v).ve = s.ve := rfl
@[simp] theorem State.putRegs_vfiles (s : State) (v : Tab (BitVec 64)) : (s.putRegs v).vfiles = s.vfiles := rfl
@[simp] theorem State.putRegs_fe (s : State) (v : Tab (BitVec 64)) : (s.putRegs v).fe = s.fe := rfl
@[simp] theorem State.putRegs_sp (s : State) (v : Tab (BitVec 64)) : (s.putRegs v).sp = s.sp := rfl
@[simp] theorem State.putRegs_spPois (s : State) (v : Tab (BitVec 64)) : (s.putRegs v).spPois = s.spPois := rfl
@[simp] theorem State.putRegs_ctxs (s : State) (v : Tab (BitVec 64)) : (s.putRegs v).ctxs = s.ctxs := rfl
@[simp] theorem State.putRegs_parts (s : State) (v : Tab (BitVec 64)) : (s.putRegs v).parts = s.parts := rfl
@[simp] theorem State.putRegs_pages (s : State) (v : Tab (BitVec 64)) : (s.putRegs v).pages = s.pages := rfl
@[simp] theorem State.putRegs_streams (s : State) (v : Tab (BitVec 64)) : (s.putRegs v).streams = s.streams := rfl
@[simp] theorem State.putRegs_ports (s : State) (v : Tab (BitVec 64)) : (s.putRegs v).ports = s.ports := rfl
@[simp] theorem State.putRegs_dirs (s : State) (v : Tab (BitVec 64)) : (s.putRegs v).dirs = s.dirs := rfl
@[simp] theorem State.putRegs_lines (s : State) (v : Tab (BitVec 64)) : (s.putRegs v).lines = s.lines := rfl
@[simp] theorem State.putRegs_trans (s : State) (v : Tab (BitVec 64)) : (s.putRegs v).trans = s.trans := rfl
@[simp] theorem State.putRegs_lands (s : State) (v : Tab (BitVec 64)) : (s.putRegs v).lands = s.lands := rfl
@[simp] theorem State.putRegs_xacts (s : State) (v : Tab (BitVec 64)) : (s.putRegs v).xacts = s.xacts := rfl
@[simp] theorem State.putRegs_routes (s : State) (v : Tab (BitVec 64)) : (s.putRegs v).routes = s.routes := rfl
@[simp] theorem State.putRegs_admits (s : State) (v : Tab (BitVec 64)) : (s.putRegs v).admits = s.admits := rfl
@[simp] theorem State.putRegs_groups (s : State) (v : Tab (BitVec 64)) : (s.putRegs v).groups = s.groups := rfl
@[simp] theorem State.putRegs_fw (s : State) (v : Tab (BitVec 64)) : (s.putRegs v).fw = s.fw := rfl
@[simp] theorem State.putRegs_logs (s : State) (v : Tab (BitVec 64)) : (s.putRegs v).logs = s.logs := rfl
@[simp] theorem State.putRegs_pm (s : State) (v : Tab (BitVec 64)) : (s.putRegs v).pm = s.pm := rfl
@[simp] theorem State.putRegs_tmap (s : State) (v : Tab (BitVec 64)) : (s.putRegs v).tmap = s.tmap := rfl
@[simp] theorem State.putRegs_act (s : State) (v : Tab (BitVec 64)) : (s.putRegs v).act = s.act := rfl
@[simp] theorem State.putRegs_out (s : State) (v : Tab (BitVec 64)) : (s.putRegs v).out = s.out := rfl
@[simp] theorem State.putRegs_members (s : State) (v : Tab (BitVec 64)) :
    (∀ j, (s.putRegs v).slot j = s.slot j) ∧
    (∀ j, (s.putRegs v).parcel j = s.parcel j) ∧
    (∀ j, (s.putRegs v).memByte j = s.memByte j) ∧
    (∀ j, (s.putRegs v).colBad j = s.colBad j) ∧
    (∀ j, (s.putRegs v).row j = s.row j) ∧
    (∀ j, (s.putRegs v).bspare j = s.bspare j) ∧
    (∀ j, (s.putRegs v).stack j = s.stack j) ∧
    (∀ j, (s.putRegs v).chan j = s.chan j) ∧
    (∀ j, (s.putRegs v).nbu j = s.nbu j) ∧
    (∀ j, (s.putRegs v).cru j = s.cru j) ∧
    (∀ j, (s.putRegs v).hub j = s.hub j) ∧
    (∀ j, (s.putRegs v).mat j = s.mat j) ∧
    (∀ j, (s.putRegs v).vec j = s.vec j) ∧
    (∀ j, (s.putRegs v).vfile j = s.vfile j) ∧
    (∀ j, (s.putRegs v).fchan j = s.fchan j) ∧
    (∀ j, (s.putRegs v).spByte j = s.spByte j) ∧
    (∀ j, (s.putRegs v).spBad j = s.spBad j) ∧
    (∀ j, (s.putRegs v).ctx j = s.ctx j) ∧
    (∀ j, (s.putRegs v).part j = s.part j) ∧
    (∀ j, (s.putRegs v).page j = s.page j) ∧
    (∀ j, (s.putRegs v).stream j = s.stream j) ∧
    (∀ j, (s.putRegs v).hport j = s.hport j) ∧
    (∀ j, (s.putRegs v).dir j = s.dir j) ∧
    (∀ j, (s.putRegs v).tran j = s.tran j) ∧
    (∀ j, (s.putRegs v).landing j = s.landing j) ∧
    (∀ j, (s.putRegs v).route j = s.route j) ∧
    (∀ j, (s.putRegs v).admission j = s.admission j) ∧
    (∀ j, (s.putRegs v).group j = s.group j) ∧
    (∀ j, (s.putRegs v).counter j = s.counter j) := by
  and_intros <;> exact fun _ => rfl
@[simp] theorem State.putBoot_boot (s : State) (v : Boot) : (s.putBoot v).boot = v := rfl
@[simp] theorem State.putBoot_pending (s : State) (v : Boot) : (s.putBoot v).pending = s.pending := rfl
@[simp] theorem State.putBoot_cyc (s : State) (v : Boot) : (s.putBoot v).cyc = s.cyc := rfl
@[simp] theorem State.putBoot_free (s : State) (v : Boot) : (s.putBoot v).free = s.free := rfl
@[simp] theorem State.putBoot_half (s : State) (v : Boot) : (s.putBoot v).half = s.half := rfl
@[simp] theorem State.putBoot_regs (s : State) (v : Boot) : (s.putBoot v).regs = s.regs := rfl
@[simp] theorem State.putBoot_power (s : State) (v : Boot) : (s.putBoot v).power = s.power := rfl
@[simp] theorem State.putBoot_slots (s : State) (v : Boot) : (s.putBoot v).slots = s.slots := rfl
@[simp] theorem State.putBoot_parcels (s : State) (v : Boot) : (s.putBoot v).parcels = s.parcels := rfl
@[simp] theorem State.putBoot_mem (s : State) (v : Boot) : (s.putBoot v).mem = s.mem := rfl
@[simp] theorem State.putBoot_pois (s : State) (v : Boot) : (s.putBoot v).pois = s.pois := rfl
@[simp] theorem State.putBoot_rows (s : State) (v : Boot) : (s.putBoot v).rows = s.rows := rfl
@[simp] theorem State.putBoot_bspares (s : State) (v : Boot) : (s.putBoot v).bspares = s.bspares := rfl
@[simp] theorem State.putBoot_stks (s : State) (v : Boot) : (s.putBoot v).stks = s.stks := rfl
@[simp] theorem State.putBoot_chans (s : State) (v : Boot) : (s.putBoot v).chans = s.chans := rfl
@[simp] theorem State.putBoot_nbus (s : State) (v : Boot) : (s.putBoot v).nbus = s.nbus := rfl
@[simp] theorem State.putBoot_crus (s : State) (v : Boot) : (s.putBoot v).crus = s.crus := rfl
@[simp] theorem State.putBoot_hubs (s : State) (v : Boot) : (s.putBoot v).hubs = s.hubs := rfl
@[simp] theorem State.putBoot_me (s : State) (v : Boot) : (s.putBoot v).me = s.me := rfl
@[simp] theorem State.putBoot_ve (s : State) (v : Boot) : (s.putBoot v).ve = s.ve := rfl
@[simp] theorem State.putBoot_vfiles (s : State) (v : Boot) : (s.putBoot v).vfiles = s.vfiles := rfl
@[simp] theorem State.putBoot_fe (s : State) (v : Boot) : (s.putBoot v).fe = s.fe := rfl
@[simp] theorem State.putBoot_sp (s : State) (v : Boot) : (s.putBoot v).sp = s.sp := rfl
@[simp] theorem State.putBoot_spPois (s : State) (v : Boot) : (s.putBoot v).spPois = s.spPois := rfl
@[simp] theorem State.putBoot_ctxs (s : State) (v : Boot) : (s.putBoot v).ctxs = s.ctxs := rfl
@[simp] theorem State.putBoot_parts (s : State) (v : Boot) : (s.putBoot v).parts = s.parts := rfl
@[simp] theorem State.putBoot_pages (s : State) (v : Boot) : (s.putBoot v).pages = s.pages := rfl
@[simp] theorem State.putBoot_streams (s : State) (v : Boot) : (s.putBoot v).streams = s.streams := rfl
@[simp] theorem State.putBoot_ports (s : State) (v : Boot) : (s.putBoot v).ports = s.ports := rfl
@[simp] theorem State.putBoot_dirs (s : State) (v : Boot) : (s.putBoot v).dirs = s.dirs := rfl
@[simp] theorem State.putBoot_lines (s : State) (v : Boot) : (s.putBoot v).lines = s.lines := rfl
@[simp] theorem State.putBoot_trans (s : State) (v : Boot) : (s.putBoot v).trans = s.trans := rfl
@[simp] theorem State.putBoot_lands (s : State) (v : Boot) : (s.putBoot v).lands = s.lands := rfl
@[simp] theorem State.putBoot_xacts (s : State) (v : Boot) : (s.putBoot v).xacts = s.xacts := rfl
@[simp] theorem State.putBoot_routes (s : State) (v : Boot) : (s.putBoot v).routes = s.routes := rfl
@[simp] theorem State.putBoot_admits (s : State) (v : Boot) : (s.putBoot v).admits = s.admits := rfl
@[simp] theorem State.putBoot_groups (s : State) (v : Boot) : (s.putBoot v).groups = s.groups := rfl
@[simp] theorem State.putBoot_fw (s : State) (v : Boot) : (s.putBoot v).fw = s.fw := rfl
@[simp] theorem State.putBoot_logs (s : State) (v : Boot) : (s.putBoot v).logs = s.logs := rfl
@[simp] theorem State.putBoot_pm (s : State) (v : Boot) : (s.putBoot v).pm = s.pm := rfl
@[simp] theorem State.putBoot_tmap (s : State) (v : Boot) : (s.putBoot v).tmap = s.tmap := rfl
@[simp] theorem State.putBoot_act (s : State) (v : Boot) : (s.putBoot v).act = s.act := rfl
@[simp] theorem State.putBoot_out (s : State) (v : Boot) : (s.putBoot v).out = s.out := rfl
@[simp] theorem State.putBoot_members (s : State) (v : Boot) :
    (∀ j, (s.putBoot v).slot j = s.slot j) ∧
    (∀ j, (s.putBoot v).parcel j = s.parcel j) ∧
    (∀ j, (s.putBoot v).memByte j = s.memByte j) ∧
    (∀ j, (s.putBoot v).colBad j = s.colBad j) ∧
    (∀ j, (s.putBoot v).row j = s.row j) ∧
    (∀ j, (s.putBoot v).bspare j = s.bspare j) ∧
    (∀ j, (s.putBoot v).stack j = s.stack j) ∧
    (∀ j, (s.putBoot v).chan j = s.chan j) ∧
    (∀ j, (s.putBoot v).nbu j = s.nbu j) ∧
    (∀ j, (s.putBoot v).cru j = s.cru j) ∧
    (∀ j, (s.putBoot v).hub j = s.hub j) ∧
    (∀ j, (s.putBoot v).mat j = s.mat j) ∧
    (∀ j, (s.putBoot v).vec j = s.vec j) ∧
    (∀ j, (s.putBoot v).vfile j = s.vfile j) ∧
    (∀ j, (s.putBoot v).fchan j = s.fchan j) ∧
    (∀ j, (s.putBoot v).spByte j = s.spByte j) ∧
    (∀ j, (s.putBoot v).spBad j = s.spBad j) ∧
    (∀ j, (s.putBoot v).ctx j = s.ctx j) ∧
    (∀ j, (s.putBoot v).part j = s.part j) ∧
    (∀ j, (s.putBoot v).page j = s.page j) ∧
    (∀ j, (s.putBoot v).stream j = s.stream j) ∧
    (∀ j, (s.putBoot v).hport j = s.hport j) ∧
    (∀ j, (s.putBoot v).dir j = s.dir j) ∧
    (∀ j, (s.putBoot v).tran j = s.tran j) ∧
    (∀ j, (s.putBoot v).landing j = s.landing j) ∧
    (∀ j, (s.putBoot v).route j = s.route j) ∧
    (∀ j, (s.putBoot v).admission j = s.admission j) ∧
    (∀ j, (s.putBoot v).group j = s.group j) ∧
    (∀ j, (s.putBoot v).counter j = s.counter j) := by
  and_intros <;> exact fun _ => rfl
@[simp] theorem State.putPower_power (s : State) (v : Power) : (s.putPower v).power = v := rfl
@[simp] theorem State.putPower_pending (s : State) (v : Power) : (s.putPower v).pending = s.pending := rfl
@[simp] theorem State.putPower_cyc (s : State) (v : Power) : (s.putPower v).cyc = s.cyc := rfl
@[simp] theorem State.putPower_free (s : State) (v : Power) : (s.putPower v).free = s.free := rfl
@[simp] theorem State.putPower_half (s : State) (v : Power) : (s.putPower v).half = s.half := rfl
@[simp] theorem State.putPower_regs (s : State) (v : Power) : (s.putPower v).regs = s.regs := rfl
@[simp] theorem State.putPower_boot (s : State) (v : Power) : (s.putPower v).boot = s.boot := rfl
@[simp] theorem State.putPower_slots (s : State) (v : Power) : (s.putPower v).slots = s.slots := rfl
@[simp] theorem State.putPower_parcels (s : State) (v : Power) : (s.putPower v).parcels = s.parcels := rfl
@[simp] theorem State.putPower_mem (s : State) (v : Power) : (s.putPower v).mem = s.mem := rfl
@[simp] theorem State.putPower_pois (s : State) (v : Power) : (s.putPower v).pois = s.pois := rfl
@[simp] theorem State.putPower_rows (s : State) (v : Power) : (s.putPower v).rows = s.rows := rfl
@[simp] theorem State.putPower_bspares (s : State) (v : Power) : (s.putPower v).bspares = s.bspares := rfl
@[simp] theorem State.putPower_stks (s : State) (v : Power) : (s.putPower v).stks = s.stks := rfl
@[simp] theorem State.putPower_chans (s : State) (v : Power) : (s.putPower v).chans = s.chans := rfl
@[simp] theorem State.putPower_nbus (s : State) (v : Power) : (s.putPower v).nbus = s.nbus := rfl
@[simp] theorem State.putPower_crus (s : State) (v : Power) : (s.putPower v).crus = s.crus := rfl
@[simp] theorem State.putPower_hubs (s : State) (v : Power) : (s.putPower v).hubs = s.hubs := rfl
@[simp] theorem State.putPower_me (s : State) (v : Power) : (s.putPower v).me = s.me := rfl
@[simp] theorem State.putPower_ve (s : State) (v : Power) : (s.putPower v).ve = s.ve := rfl
@[simp] theorem State.putPower_vfiles (s : State) (v : Power) : (s.putPower v).vfiles = s.vfiles := rfl
@[simp] theorem State.putPower_fe (s : State) (v : Power) : (s.putPower v).fe = s.fe := rfl
@[simp] theorem State.putPower_sp (s : State) (v : Power) : (s.putPower v).sp = s.sp := rfl
@[simp] theorem State.putPower_spPois (s : State) (v : Power) : (s.putPower v).spPois = s.spPois := rfl
@[simp] theorem State.putPower_ctxs (s : State) (v : Power) : (s.putPower v).ctxs = s.ctxs := rfl
@[simp] theorem State.putPower_parts (s : State) (v : Power) : (s.putPower v).parts = s.parts := rfl
@[simp] theorem State.putPower_pages (s : State) (v : Power) : (s.putPower v).pages = s.pages := rfl
@[simp] theorem State.putPower_streams (s : State) (v : Power) : (s.putPower v).streams = s.streams := rfl
@[simp] theorem State.putPower_ports (s : State) (v : Power) : (s.putPower v).ports = s.ports := rfl
@[simp] theorem State.putPower_dirs (s : State) (v : Power) : (s.putPower v).dirs = s.dirs := rfl
@[simp] theorem State.putPower_lines (s : State) (v : Power) : (s.putPower v).lines = s.lines := rfl
@[simp] theorem State.putPower_trans (s : State) (v : Power) : (s.putPower v).trans = s.trans := rfl
@[simp] theorem State.putPower_lands (s : State) (v : Power) : (s.putPower v).lands = s.lands := rfl
@[simp] theorem State.putPower_xacts (s : State) (v : Power) : (s.putPower v).xacts = s.xacts := rfl
@[simp] theorem State.putPower_routes (s : State) (v : Power) : (s.putPower v).routes = s.routes := rfl
@[simp] theorem State.putPower_admits (s : State) (v : Power) : (s.putPower v).admits = s.admits := rfl
@[simp] theorem State.putPower_groups (s : State) (v : Power) : (s.putPower v).groups = s.groups := rfl
@[simp] theorem State.putPower_fw (s : State) (v : Power) : (s.putPower v).fw = s.fw := rfl
@[simp] theorem State.putPower_logs (s : State) (v : Power) : (s.putPower v).logs = s.logs := rfl
@[simp] theorem State.putPower_pm (s : State) (v : Power) : (s.putPower v).pm = s.pm := rfl
@[simp] theorem State.putPower_tmap (s : State) (v : Power) : (s.putPower v).tmap = s.tmap := rfl
@[simp] theorem State.putPower_act (s : State) (v : Power) : (s.putPower v).act = s.act := rfl
@[simp] theorem State.putPower_out (s : State) (v : Power) : (s.putPower v).out = s.out := rfl
@[simp] theorem State.putPower_members (s : State) (v : Power) :
    (∀ j, (s.putPower v).slot j = s.slot j) ∧
    (∀ j, (s.putPower v).parcel j = s.parcel j) ∧
    (∀ j, (s.putPower v).memByte j = s.memByte j) ∧
    (∀ j, (s.putPower v).colBad j = s.colBad j) ∧
    (∀ j, (s.putPower v).row j = s.row j) ∧
    (∀ j, (s.putPower v).bspare j = s.bspare j) ∧
    (∀ j, (s.putPower v).stack j = s.stack j) ∧
    (∀ j, (s.putPower v).chan j = s.chan j) ∧
    (∀ j, (s.putPower v).nbu j = s.nbu j) ∧
    (∀ j, (s.putPower v).cru j = s.cru j) ∧
    (∀ j, (s.putPower v).hub j = s.hub j) ∧
    (∀ j, (s.putPower v).mat j = s.mat j) ∧
    (∀ j, (s.putPower v).vec j = s.vec j) ∧
    (∀ j, (s.putPower v).vfile j = s.vfile j) ∧
    (∀ j, (s.putPower v).fchan j = s.fchan j) ∧
    (∀ j, (s.putPower v).spByte j = s.spByte j) ∧
    (∀ j, (s.putPower v).spBad j = s.spBad j) ∧
    (∀ j, (s.putPower v).ctx j = s.ctx j) ∧
    (∀ j, (s.putPower v).part j = s.part j) ∧
    (∀ j, (s.putPower v).page j = s.page j) ∧
    (∀ j, (s.putPower v).stream j = s.stream j) ∧
    (∀ j, (s.putPower v).hport j = s.hport j) ∧
    (∀ j, (s.putPower v).dir j = s.dir j) ∧
    (∀ j, (s.putPower v).tran j = s.tran j) ∧
    (∀ j, (s.putPower v).landing j = s.landing j) ∧
    (∀ j, (s.putPower v).route j = s.route j) ∧
    (∀ j, (s.putPower v).admission j = s.admission j) ∧
    (∀ j, (s.putPower v).group j = s.group j) ∧
    (∀ j, (s.putPower v).counter j = s.counter j) := by
  and_intros <;> exact fun _ => rfl
@[simp] theorem State.putSlots_slots (s : State) (v : Tab Slot) : (s.putSlots v).slots = v := rfl
@[simp] theorem State.putSlots_pending (s : State) (v : Tab Slot) : (s.putSlots v).pending = s.pending := rfl
@[simp] theorem State.putSlots_cyc (s : State) (v : Tab Slot) : (s.putSlots v).cyc = s.cyc := rfl
@[simp] theorem State.putSlots_free (s : State) (v : Tab Slot) : (s.putSlots v).free = s.free := rfl
@[simp] theorem State.putSlots_half (s : State) (v : Tab Slot) : (s.putSlots v).half = s.half := rfl
@[simp] theorem State.putSlots_regs (s : State) (v : Tab Slot) : (s.putSlots v).regs = s.regs := rfl
@[simp] theorem State.putSlots_boot (s : State) (v : Tab Slot) : (s.putSlots v).boot = s.boot := rfl
@[simp] theorem State.putSlots_power (s : State) (v : Tab Slot) : (s.putSlots v).power = s.power := rfl
@[simp] theorem State.putSlots_parcels (s : State) (v : Tab Slot) : (s.putSlots v).parcels = s.parcels := rfl
@[simp] theorem State.putSlots_mem (s : State) (v : Tab Slot) : (s.putSlots v).mem = s.mem := rfl
@[simp] theorem State.putSlots_pois (s : State) (v : Tab Slot) : (s.putSlots v).pois = s.pois := rfl
@[simp] theorem State.putSlots_rows (s : State) (v : Tab Slot) : (s.putSlots v).rows = s.rows := rfl
@[simp] theorem State.putSlots_bspares (s : State) (v : Tab Slot) : (s.putSlots v).bspares = s.bspares := rfl
@[simp] theorem State.putSlots_stks (s : State) (v : Tab Slot) : (s.putSlots v).stks = s.stks := rfl
@[simp] theorem State.putSlots_chans (s : State) (v : Tab Slot) : (s.putSlots v).chans = s.chans := rfl
@[simp] theorem State.putSlots_nbus (s : State) (v : Tab Slot) : (s.putSlots v).nbus = s.nbus := rfl
@[simp] theorem State.putSlots_crus (s : State) (v : Tab Slot) : (s.putSlots v).crus = s.crus := rfl
@[simp] theorem State.putSlots_hubs (s : State) (v : Tab Slot) : (s.putSlots v).hubs = s.hubs := rfl
@[simp] theorem State.putSlots_me (s : State) (v : Tab Slot) : (s.putSlots v).me = s.me := rfl
@[simp] theorem State.putSlots_ve (s : State) (v : Tab Slot) : (s.putSlots v).ve = s.ve := rfl
@[simp] theorem State.putSlots_vfiles (s : State) (v : Tab Slot) : (s.putSlots v).vfiles = s.vfiles := rfl
@[simp] theorem State.putSlots_fe (s : State) (v : Tab Slot) : (s.putSlots v).fe = s.fe := rfl
@[simp] theorem State.putSlots_sp (s : State) (v : Tab Slot) : (s.putSlots v).sp = s.sp := rfl
@[simp] theorem State.putSlots_spPois (s : State) (v : Tab Slot) : (s.putSlots v).spPois = s.spPois := rfl
@[simp] theorem State.putSlots_ctxs (s : State) (v : Tab Slot) : (s.putSlots v).ctxs = s.ctxs := rfl
@[simp] theorem State.putSlots_parts (s : State) (v : Tab Slot) : (s.putSlots v).parts = s.parts := rfl
@[simp] theorem State.putSlots_pages (s : State) (v : Tab Slot) : (s.putSlots v).pages = s.pages := rfl
@[simp] theorem State.putSlots_streams (s : State) (v : Tab Slot) : (s.putSlots v).streams = s.streams := rfl
@[simp] theorem State.putSlots_ports (s : State) (v : Tab Slot) : (s.putSlots v).ports = s.ports := rfl
@[simp] theorem State.putSlots_dirs (s : State) (v : Tab Slot) : (s.putSlots v).dirs = s.dirs := rfl
@[simp] theorem State.putSlots_lines (s : State) (v : Tab Slot) : (s.putSlots v).lines = s.lines := rfl
@[simp] theorem State.putSlots_trans (s : State) (v : Tab Slot) : (s.putSlots v).trans = s.trans := rfl
@[simp] theorem State.putSlots_lands (s : State) (v : Tab Slot) : (s.putSlots v).lands = s.lands := rfl
@[simp] theorem State.putSlots_xacts (s : State) (v : Tab Slot) : (s.putSlots v).xacts = s.xacts := rfl
@[simp] theorem State.putSlots_routes (s : State) (v : Tab Slot) : (s.putSlots v).routes = s.routes := rfl
@[simp] theorem State.putSlots_admits (s : State) (v : Tab Slot) : (s.putSlots v).admits = s.admits := rfl
@[simp] theorem State.putSlots_groups (s : State) (v : Tab Slot) : (s.putSlots v).groups = s.groups := rfl
@[simp] theorem State.putSlots_fw (s : State) (v : Tab Slot) : (s.putSlots v).fw = s.fw := rfl
@[simp] theorem State.putSlots_logs (s : State) (v : Tab Slot) : (s.putSlots v).logs = s.logs := rfl
@[simp] theorem State.putSlots_pm (s : State) (v : Tab Slot) : (s.putSlots v).pm = s.pm := rfl
@[simp] theorem State.putSlots_tmap (s : State) (v : Tab Slot) : (s.putSlots v).tmap = s.tmap := rfl
@[simp] theorem State.putSlots_act (s : State) (v : Tab Slot) : (s.putSlots v).act = s.act := rfl
@[simp] theorem State.putSlots_out (s : State) (v : Tab Slot) : (s.putSlots v).out = s.out := rfl
@[simp] theorem State.putSlots_members (s : State) (v : Tab Slot) :
    (∀ j, (s.putSlots v).parcel j = s.parcel j) ∧
    (∀ j, (s.putSlots v).memByte j = s.memByte j) ∧
    (∀ j, (s.putSlots v).colBad j = s.colBad j) ∧
    (∀ j, (s.putSlots v).row j = s.row j) ∧
    (∀ j, (s.putSlots v).bspare j = s.bspare j) ∧
    (∀ j, (s.putSlots v).stack j = s.stack j) ∧
    (∀ j, (s.putSlots v).chan j = s.chan j) ∧
    (∀ j, (s.putSlots v).nbu j = s.nbu j) ∧
    (∀ j, (s.putSlots v).cru j = s.cru j) ∧
    (∀ j, (s.putSlots v).hub j = s.hub j) ∧
    (∀ j, (s.putSlots v).mat j = s.mat j) ∧
    (∀ j, (s.putSlots v).vec j = s.vec j) ∧
    (∀ j, (s.putSlots v).vfile j = s.vfile j) ∧
    (∀ j, (s.putSlots v).fchan j = s.fchan j) ∧
    (∀ j, (s.putSlots v).spByte j = s.spByte j) ∧
    (∀ j, (s.putSlots v).spBad j = s.spBad j) ∧
    (∀ j, (s.putSlots v).ctx j = s.ctx j) ∧
    (∀ j, (s.putSlots v).part j = s.part j) ∧
    (∀ j, (s.putSlots v).page j = s.page j) ∧
    (∀ j, (s.putSlots v).stream j = s.stream j) ∧
    (∀ j, (s.putSlots v).hport j = s.hport j) ∧
    (∀ j, (s.putSlots v).dir j = s.dir j) ∧
    (∀ j, (s.putSlots v).tran j = s.tran j) ∧
    (∀ j, (s.putSlots v).landing j = s.landing j) ∧
    (∀ j, (s.putSlots v).route j = s.route j) ∧
    (∀ j, (s.putSlots v).admission j = s.admission j) ∧
    (∀ j, (s.putSlots v).group j = s.group j) ∧
    (∀ j, (s.putSlots v).counter j = s.counter j) := by
  and_intros <;> exact fun _ => rfl
@[simp] theorem State.putParcels_parcels (s : State) (v : Tab Parcel) : (s.putParcels v).parcels = v := rfl
@[simp] theorem State.putParcels_pending (s : State) (v : Tab Parcel) : (s.putParcels v).pending = s.pending := rfl
@[simp] theorem State.putParcels_cyc (s : State) (v : Tab Parcel) : (s.putParcels v).cyc = s.cyc := rfl
@[simp] theorem State.putParcels_free (s : State) (v : Tab Parcel) : (s.putParcels v).free = s.free := rfl
@[simp] theorem State.putParcels_half (s : State) (v : Tab Parcel) : (s.putParcels v).half = s.half := rfl
@[simp] theorem State.putParcels_regs (s : State) (v : Tab Parcel) : (s.putParcels v).regs = s.regs := rfl
@[simp] theorem State.putParcels_boot (s : State) (v : Tab Parcel) : (s.putParcels v).boot = s.boot := rfl
@[simp] theorem State.putParcels_power (s : State) (v : Tab Parcel) : (s.putParcels v).power = s.power := rfl
@[simp] theorem State.putParcels_slots (s : State) (v : Tab Parcel) : (s.putParcels v).slots = s.slots := rfl
@[simp] theorem State.putParcels_mem (s : State) (v : Tab Parcel) : (s.putParcels v).mem = s.mem := rfl
@[simp] theorem State.putParcels_pois (s : State) (v : Tab Parcel) : (s.putParcels v).pois = s.pois := rfl
@[simp] theorem State.putParcels_rows (s : State) (v : Tab Parcel) : (s.putParcels v).rows = s.rows := rfl
@[simp] theorem State.putParcels_bspares (s : State) (v : Tab Parcel) : (s.putParcels v).bspares = s.bspares := rfl
@[simp] theorem State.putParcels_stks (s : State) (v : Tab Parcel) : (s.putParcels v).stks = s.stks := rfl
@[simp] theorem State.putParcels_chans (s : State) (v : Tab Parcel) : (s.putParcels v).chans = s.chans := rfl
@[simp] theorem State.putParcels_nbus (s : State) (v : Tab Parcel) : (s.putParcels v).nbus = s.nbus := rfl
@[simp] theorem State.putParcels_crus (s : State) (v : Tab Parcel) : (s.putParcels v).crus = s.crus := rfl
@[simp] theorem State.putParcels_hubs (s : State) (v : Tab Parcel) : (s.putParcels v).hubs = s.hubs := rfl
@[simp] theorem State.putParcels_me (s : State) (v : Tab Parcel) : (s.putParcels v).me = s.me := rfl
@[simp] theorem State.putParcels_ve (s : State) (v : Tab Parcel) : (s.putParcels v).ve = s.ve := rfl
@[simp] theorem State.putParcels_vfiles (s : State) (v : Tab Parcel) : (s.putParcels v).vfiles = s.vfiles := rfl
@[simp] theorem State.putParcels_fe (s : State) (v : Tab Parcel) : (s.putParcels v).fe = s.fe := rfl
@[simp] theorem State.putParcels_sp (s : State) (v : Tab Parcel) : (s.putParcels v).sp = s.sp := rfl
@[simp] theorem State.putParcels_spPois (s : State) (v : Tab Parcel) : (s.putParcels v).spPois = s.spPois := rfl
@[simp] theorem State.putParcels_ctxs (s : State) (v : Tab Parcel) : (s.putParcels v).ctxs = s.ctxs := rfl
@[simp] theorem State.putParcels_parts (s : State) (v : Tab Parcel) : (s.putParcels v).parts = s.parts := rfl
@[simp] theorem State.putParcels_pages (s : State) (v : Tab Parcel) : (s.putParcels v).pages = s.pages := rfl
@[simp] theorem State.putParcels_streams (s : State) (v : Tab Parcel) : (s.putParcels v).streams = s.streams := rfl
@[simp] theorem State.putParcels_ports (s : State) (v : Tab Parcel) : (s.putParcels v).ports = s.ports := rfl
@[simp] theorem State.putParcels_dirs (s : State) (v : Tab Parcel) : (s.putParcels v).dirs = s.dirs := rfl
@[simp] theorem State.putParcels_lines (s : State) (v : Tab Parcel) : (s.putParcels v).lines = s.lines := rfl
@[simp] theorem State.putParcels_trans (s : State) (v : Tab Parcel) : (s.putParcels v).trans = s.trans := rfl
@[simp] theorem State.putParcels_lands (s : State) (v : Tab Parcel) : (s.putParcels v).lands = s.lands := rfl
@[simp] theorem State.putParcels_xacts (s : State) (v : Tab Parcel) : (s.putParcels v).xacts = s.xacts := rfl
@[simp] theorem State.putParcels_routes (s : State) (v : Tab Parcel) : (s.putParcels v).routes = s.routes := rfl
@[simp] theorem State.putParcels_admits (s : State) (v : Tab Parcel) : (s.putParcels v).admits = s.admits := rfl
@[simp] theorem State.putParcels_groups (s : State) (v : Tab Parcel) : (s.putParcels v).groups = s.groups := rfl
@[simp] theorem State.putParcels_fw (s : State) (v : Tab Parcel) : (s.putParcels v).fw = s.fw := rfl
@[simp] theorem State.putParcels_logs (s : State) (v : Tab Parcel) : (s.putParcels v).logs = s.logs := rfl
@[simp] theorem State.putParcels_pm (s : State) (v : Tab Parcel) : (s.putParcels v).pm = s.pm := rfl
@[simp] theorem State.putParcels_tmap (s : State) (v : Tab Parcel) : (s.putParcels v).tmap = s.tmap := rfl
@[simp] theorem State.putParcels_act (s : State) (v : Tab Parcel) : (s.putParcels v).act = s.act := rfl
@[simp] theorem State.putParcels_out (s : State) (v : Tab Parcel) : (s.putParcels v).out = s.out := rfl
@[simp] theorem State.putParcels_members (s : State) (v : Tab Parcel) :
    (∀ j, (s.putParcels v).slot j = s.slot j) ∧
    (∀ j, (s.putParcels v).memByte j = s.memByte j) ∧
    (∀ j, (s.putParcels v).colBad j = s.colBad j) ∧
    (∀ j, (s.putParcels v).row j = s.row j) ∧
    (∀ j, (s.putParcels v).bspare j = s.bspare j) ∧
    (∀ j, (s.putParcels v).stack j = s.stack j) ∧
    (∀ j, (s.putParcels v).chan j = s.chan j) ∧
    (∀ j, (s.putParcels v).nbu j = s.nbu j) ∧
    (∀ j, (s.putParcels v).cru j = s.cru j) ∧
    (∀ j, (s.putParcels v).hub j = s.hub j) ∧
    (∀ j, (s.putParcels v).mat j = s.mat j) ∧
    (∀ j, (s.putParcels v).vec j = s.vec j) ∧
    (∀ j, (s.putParcels v).vfile j = s.vfile j) ∧
    (∀ j, (s.putParcels v).fchan j = s.fchan j) ∧
    (∀ j, (s.putParcels v).spByte j = s.spByte j) ∧
    (∀ j, (s.putParcels v).spBad j = s.spBad j) ∧
    (∀ j, (s.putParcels v).ctx j = s.ctx j) ∧
    (∀ j, (s.putParcels v).part j = s.part j) ∧
    (∀ j, (s.putParcels v).page j = s.page j) ∧
    (∀ j, (s.putParcels v).stream j = s.stream j) ∧
    (∀ j, (s.putParcels v).hport j = s.hport j) ∧
    (∀ j, (s.putParcels v).dir j = s.dir j) ∧
    (∀ j, (s.putParcels v).tran j = s.tran j) ∧
    (∀ j, (s.putParcels v).landing j = s.landing j) ∧
    (∀ j, (s.putParcels v).route j = s.route j) ∧
    (∀ j, (s.putParcels v).admission j = s.admission j) ∧
    (∀ j, (s.putParcels v).group j = s.group j) ∧
    (∀ j, (s.putParcels v).counter j = s.counter j) := by
  and_intros <;> exact fun _ => rfl
@[simp] theorem State.putMem_mem (s : State) (v : List Host.Cell) : (s.putMem v).mem = v := rfl
@[simp] theorem State.putMem_pending (s : State) (v : List Host.Cell) : (s.putMem v).pending = s.pending := rfl
@[simp] theorem State.putMem_cyc (s : State) (v : List Host.Cell) : (s.putMem v).cyc = s.cyc := rfl
@[simp] theorem State.putMem_free (s : State) (v : List Host.Cell) : (s.putMem v).free = s.free := rfl
@[simp] theorem State.putMem_half (s : State) (v : List Host.Cell) : (s.putMem v).half = s.half := rfl
@[simp] theorem State.putMem_regs (s : State) (v : List Host.Cell) : (s.putMem v).regs = s.regs := rfl
@[simp] theorem State.putMem_boot (s : State) (v : List Host.Cell) : (s.putMem v).boot = s.boot := rfl
@[simp] theorem State.putMem_power (s : State) (v : List Host.Cell) : (s.putMem v).power = s.power := rfl
@[simp] theorem State.putMem_slots (s : State) (v : List Host.Cell) : (s.putMem v).slots = s.slots := rfl
@[simp] theorem State.putMem_parcels (s : State) (v : List Host.Cell) : (s.putMem v).parcels = s.parcels := rfl
@[simp] theorem State.putMem_pois (s : State) (v : List Host.Cell) : (s.putMem v).pois = s.pois := rfl
@[simp] theorem State.putMem_rows (s : State) (v : List Host.Cell) : (s.putMem v).rows = s.rows := rfl
@[simp] theorem State.putMem_bspares (s : State) (v : List Host.Cell) : (s.putMem v).bspares = s.bspares := rfl
@[simp] theorem State.putMem_stks (s : State) (v : List Host.Cell) : (s.putMem v).stks = s.stks := rfl
@[simp] theorem State.putMem_chans (s : State) (v : List Host.Cell) : (s.putMem v).chans = s.chans := rfl
@[simp] theorem State.putMem_nbus (s : State) (v : List Host.Cell) : (s.putMem v).nbus = s.nbus := rfl
@[simp] theorem State.putMem_crus (s : State) (v : List Host.Cell) : (s.putMem v).crus = s.crus := rfl
@[simp] theorem State.putMem_hubs (s : State) (v : List Host.Cell) : (s.putMem v).hubs = s.hubs := rfl
@[simp] theorem State.putMem_me (s : State) (v : List Host.Cell) : (s.putMem v).me = s.me := rfl
@[simp] theorem State.putMem_ve (s : State) (v : List Host.Cell) : (s.putMem v).ve = s.ve := rfl
@[simp] theorem State.putMem_vfiles (s : State) (v : List Host.Cell) : (s.putMem v).vfiles = s.vfiles := rfl
@[simp] theorem State.putMem_fe (s : State) (v : List Host.Cell) : (s.putMem v).fe = s.fe := rfl
@[simp] theorem State.putMem_sp (s : State) (v : List Host.Cell) : (s.putMem v).sp = s.sp := rfl
@[simp] theorem State.putMem_spPois (s : State) (v : List Host.Cell) : (s.putMem v).spPois = s.spPois := rfl
@[simp] theorem State.putMem_ctxs (s : State) (v : List Host.Cell) : (s.putMem v).ctxs = s.ctxs := rfl
@[simp] theorem State.putMem_parts (s : State) (v : List Host.Cell) : (s.putMem v).parts = s.parts := rfl
@[simp] theorem State.putMem_pages (s : State) (v : List Host.Cell) : (s.putMem v).pages = s.pages := rfl
@[simp] theorem State.putMem_streams (s : State) (v : List Host.Cell) : (s.putMem v).streams = s.streams := rfl
@[simp] theorem State.putMem_ports (s : State) (v : List Host.Cell) : (s.putMem v).ports = s.ports := rfl
@[simp] theorem State.putMem_dirs (s : State) (v : List Host.Cell) : (s.putMem v).dirs = s.dirs := rfl
@[simp] theorem State.putMem_lines (s : State) (v : List Host.Cell) : (s.putMem v).lines = s.lines := rfl
@[simp] theorem State.putMem_trans (s : State) (v : List Host.Cell) : (s.putMem v).trans = s.trans := rfl
@[simp] theorem State.putMem_lands (s : State) (v : List Host.Cell) : (s.putMem v).lands = s.lands := rfl
@[simp] theorem State.putMem_xacts (s : State) (v : List Host.Cell) : (s.putMem v).xacts = s.xacts := rfl
@[simp] theorem State.putMem_routes (s : State) (v : List Host.Cell) : (s.putMem v).routes = s.routes := rfl
@[simp] theorem State.putMem_admits (s : State) (v : List Host.Cell) : (s.putMem v).admits = s.admits := rfl
@[simp] theorem State.putMem_groups (s : State) (v : List Host.Cell) : (s.putMem v).groups = s.groups := rfl
@[simp] theorem State.putMem_fw (s : State) (v : List Host.Cell) : (s.putMem v).fw = s.fw := rfl
@[simp] theorem State.putMem_logs (s : State) (v : List Host.Cell) : (s.putMem v).logs = s.logs := rfl
@[simp] theorem State.putMem_pm (s : State) (v : List Host.Cell) : (s.putMem v).pm = s.pm := rfl
@[simp] theorem State.putMem_tmap (s : State) (v : List Host.Cell) : (s.putMem v).tmap = s.tmap := rfl
@[simp] theorem State.putMem_act (s : State) (v : List Host.Cell) : (s.putMem v).act = s.act := rfl
@[simp] theorem State.putMem_out (s : State) (v : List Host.Cell) : (s.putMem v).out = s.out := rfl
@[simp] theorem State.putMem_members (s : State) (v : List Host.Cell) :
    (∀ j, (s.putMem v).slot j = s.slot j) ∧
    (∀ j, (s.putMem v).parcel j = s.parcel j) ∧
    (∀ j, (s.putMem v).colBad j = s.colBad j) ∧
    (∀ j, (s.putMem v).row j = s.row j) ∧
    (∀ j, (s.putMem v).bspare j = s.bspare j) ∧
    (∀ j, (s.putMem v).stack j = s.stack j) ∧
    (∀ j, (s.putMem v).chan j = s.chan j) ∧
    (∀ j, (s.putMem v).nbu j = s.nbu j) ∧
    (∀ j, (s.putMem v).cru j = s.cru j) ∧
    (∀ j, (s.putMem v).hub j = s.hub j) ∧
    (∀ j, (s.putMem v).mat j = s.mat j) ∧
    (∀ j, (s.putMem v).vec j = s.vec j) ∧
    (∀ j, (s.putMem v).vfile j = s.vfile j) ∧
    (∀ j, (s.putMem v).fchan j = s.fchan j) ∧
    (∀ j, (s.putMem v).spByte j = s.spByte j) ∧
    (∀ j, (s.putMem v).spBad j = s.spBad j) ∧
    (∀ j, (s.putMem v).ctx j = s.ctx j) ∧
    (∀ j, (s.putMem v).part j = s.part j) ∧
    (∀ j, (s.putMem v).page j = s.page j) ∧
    (∀ j, (s.putMem v).stream j = s.stream j) ∧
    (∀ j, (s.putMem v).hport j = s.hport j) ∧
    (∀ j, (s.putMem v).dir j = s.dir j) ∧
    (∀ j, (s.putMem v).tran j = s.tran j) ∧
    (∀ j, (s.putMem v).landing j = s.landing j) ∧
    (∀ j, (s.putMem v).route j = s.route j) ∧
    (∀ j, (s.putMem v).admission j = s.admission j) ∧
    (∀ j, (s.putMem v).group j = s.group j) ∧
    (∀ j, (s.putMem v).counter j = s.counter j) := by
  and_intros <;> exact fun _ => rfl
@[simp] theorem State.putPois_pois (s : State) (v : Tab Bool) : (s.putPois v).pois = v := rfl
@[simp] theorem State.putPois_pending (s : State) (v : Tab Bool) : (s.putPois v).pending = s.pending := rfl
@[simp] theorem State.putPois_cyc (s : State) (v : Tab Bool) : (s.putPois v).cyc = s.cyc := rfl
@[simp] theorem State.putPois_free (s : State) (v : Tab Bool) : (s.putPois v).free = s.free := rfl
@[simp] theorem State.putPois_half (s : State) (v : Tab Bool) : (s.putPois v).half = s.half := rfl
@[simp] theorem State.putPois_regs (s : State) (v : Tab Bool) : (s.putPois v).regs = s.regs := rfl
@[simp] theorem State.putPois_boot (s : State) (v : Tab Bool) : (s.putPois v).boot = s.boot := rfl
@[simp] theorem State.putPois_power (s : State) (v : Tab Bool) : (s.putPois v).power = s.power := rfl
@[simp] theorem State.putPois_slots (s : State) (v : Tab Bool) : (s.putPois v).slots = s.slots := rfl
@[simp] theorem State.putPois_parcels (s : State) (v : Tab Bool) : (s.putPois v).parcels = s.parcels := rfl
@[simp] theorem State.putPois_mem (s : State) (v : Tab Bool) : (s.putPois v).mem = s.mem := rfl
@[simp] theorem State.putPois_rows (s : State) (v : Tab Bool) : (s.putPois v).rows = s.rows := rfl
@[simp] theorem State.putPois_bspares (s : State) (v : Tab Bool) : (s.putPois v).bspares = s.bspares := rfl
@[simp] theorem State.putPois_stks (s : State) (v : Tab Bool) : (s.putPois v).stks = s.stks := rfl
@[simp] theorem State.putPois_chans (s : State) (v : Tab Bool) : (s.putPois v).chans = s.chans := rfl
@[simp] theorem State.putPois_nbus (s : State) (v : Tab Bool) : (s.putPois v).nbus = s.nbus := rfl
@[simp] theorem State.putPois_crus (s : State) (v : Tab Bool) : (s.putPois v).crus = s.crus := rfl
@[simp] theorem State.putPois_hubs (s : State) (v : Tab Bool) : (s.putPois v).hubs = s.hubs := rfl
@[simp] theorem State.putPois_me (s : State) (v : Tab Bool) : (s.putPois v).me = s.me := rfl
@[simp] theorem State.putPois_ve (s : State) (v : Tab Bool) : (s.putPois v).ve = s.ve := rfl
@[simp] theorem State.putPois_vfiles (s : State) (v : Tab Bool) : (s.putPois v).vfiles = s.vfiles := rfl
@[simp] theorem State.putPois_fe (s : State) (v : Tab Bool) : (s.putPois v).fe = s.fe := rfl
@[simp] theorem State.putPois_sp (s : State) (v : Tab Bool) : (s.putPois v).sp = s.sp := rfl
@[simp] theorem State.putPois_spPois (s : State) (v : Tab Bool) : (s.putPois v).spPois = s.spPois := rfl
@[simp] theorem State.putPois_ctxs (s : State) (v : Tab Bool) : (s.putPois v).ctxs = s.ctxs := rfl
@[simp] theorem State.putPois_parts (s : State) (v : Tab Bool) : (s.putPois v).parts = s.parts := rfl
@[simp] theorem State.putPois_pages (s : State) (v : Tab Bool) : (s.putPois v).pages = s.pages := rfl
@[simp] theorem State.putPois_streams (s : State) (v : Tab Bool) : (s.putPois v).streams = s.streams := rfl
@[simp] theorem State.putPois_ports (s : State) (v : Tab Bool) : (s.putPois v).ports = s.ports := rfl
@[simp] theorem State.putPois_dirs (s : State) (v : Tab Bool) : (s.putPois v).dirs = s.dirs := rfl
@[simp] theorem State.putPois_lines (s : State) (v : Tab Bool) : (s.putPois v).lines = s.lines := rfl
@[simp] theorem State.putPois_trans (s : State) (v : Tab Bool) : (s.putPois v).trans = s.trans := rfl
@[simp] theorem State.putPois_lands (s : State) (v : Tab Bool) : (s.putPois v).lands = s.lands := rfl
@[simp] theorem State.putPois_xacts (s : State) (v : Tab Bool) : (s.putPois v).xacts = s.xacts := rfl
@[simp] theorem State.putPois_routes (s : State) (v : Tab Bool) : (s.putPois v).routes = s.routes := rfl
@[simp] theorem State.putPois_admits (s : State) (v : Tab Bool) : (s.putPois v).admits = s.admits := rfl
@[simp] theorem State.putPois_groups (s : State) (v : Tab Bool) : (s.putPois v).groups = s.groups := rfl
@[simp] theorem State.putPois_fw (s : State) (v : Tab Bool) : (s.putPois v).fw = s.fw := rfl
@[simp] theorem State.putPois_logs (s : State) (v : Tab Bool) : (s.putPois v).logs = s.logs := rfl
@[simp] theorem State.putPois_pm (s : State) (v : Tab Bool) : (s.putPois v).pm = s.pm := rfl
@[simp] theorem State.putPois_tmap (s : State) (v : Tab Bool) : (s.putPois v).tmap = s.tmap := rfl
@[simp] theorem State.putPois_act (s : State) (v : Tab Bool) : (s.putPois v).act = s.act := rfl
@[simp] theorem State.putPois_out (s : State) (v : Tab Bool) : (s.putPois v).out = s.out := rfl
@[simp] theorem State.putPois_members (s : State) (v : Tab Bool) :
    (∀ j, (s.putPois v).slot j = s.slot j) ∧
    (∀ j, (s.putPois v).parcel j = s.parcel j) ∧
    (∀ j, (s.putPois v).memByte j = s.memByte j) ∧
    (∀ j, (s.putPois v).row j = s.row j) ∧
    (∀ j, (s.putPois v).bspare j = s.bspare j) ∧
    (∀ j, (s.putPois v).stack j = s.stack j) ∧
    (∀ j, (s.putPois v).chan j = s.chan j) ∧
    (∀ j, (s.putPois v).nbu j = s.nbu j) ∧
    (∀ j, (s.putPois v).cru j = s.cru j) ∧
    (∀ j, (s.putPois v).hub j = s.hub j) ∧
    (∀ j, (s.putPois v).mat j = s.mat j) ∧
    (∀ j, (s.putPois v).vec j = s.vec j) ∧
    (∀ j, (s.putPois v).vfile j = s.vfile j) ∧
    (∀ j, (s.putPois v).fchan j = s.fchan j) ∧
    (∀ j, (s.putPois v).spByte j = s.spByte j) ∧
    (∀ j, (s.putPois v).spBad j = s.spBad j) ∧
    (∀ j, (s.putPois v).ctx j = s.ctx j) ∧
    (∀ j, (s.putPois v).part j = s.part j) ∧
    (∀ j, (s.putPois v).page j = s.page j) ∧
    (∀ j, (s.putPois v).stream j = s.stream j) ∧
    (∀ j, (s.putPois v).hport j = s.hport j) ∧
    (∀ j, (s.putPois v).dir j = s.dir j) ∧
    (∀ j, (s.putPois v).tran j = s.tran j) ∧
    (∀ j, (s.putPois v).landing j = s.landing j) ∧
    (∀ j, (s.putPois v).route j = s.route j) ∧
    (∀ j, (s.putPois v).admission j = s.admission j) ∧
    (∀ j, (s.putPois v).group j = s.group j) ∧
    (∀ j, (s.putPois v).counter j = s.counter j) := by
  and_intros <;> exact fun _ => rfl
@[simp] theorem State.putRows_rows (s : State) (v : Tab RowMeta) : (s.putRows v).rows = v := rfl
@[simp] theorem State.putRows_pending (s : State) (v : Tab RowMeta) : (s.putRows v).pending = s.pending := rfl
@[simp] theorem State.putRows_cyc (s : State) (v : Tab RowMeta) : (s.putRows v).cyc = s.cyc := rfl
@[simp] theorem State.putRows_free (s : State) (v : Tab RowMeta) : (s.putRows v).free = s.free := rfl
@[simp] theorem State.putRows_half (s : State) (v : Tab RowMeta) : (s.putRows v).half = s.half := rfl
@[simp] theorem State.putRows_regs (s : State) (v : Tab RowMeta) : (s.putRows v).regs = s.regs := rfl
@[simp] theorem State.putRows_boot (s : State) (v : Tab RowMeta) : (s.putRows v).boot = s.boot := rfl
@[simp] theorem State.putRows_power (s : State) (v : Tab RowMeta) : (s.putRows v).power = s.power := rfl
@[simp] theorem State.putRows_slots (s : State) (v : Tab RowMeta) : (s.putRows v).slots = s.slots := rfl
@[simp] theorem State.putRows_parcels (s : State) (v : Tab RowMeta) : (s.putRows v).parcels = s.parcels := rfl
@[simp] theorem State.putRows_mem (s : State) (v : Tab RowMeta) : (s.putRows v).mem = s.mem := rfl
@[simp] theorem State.putRows_pois (s : State) (v : Tab RowMeta) : (s.putRows v).pois = s.pois := rfl
@[simp] theorem State.putRows_bspares (s : State) (v : Tab RowMeta) : (s.putRows v).bspares = s.bspares := rfl
@[simp] theorem State.putRows_stks (s : State) (v : Tab RowMeta) : (s.putRows v).stks = s.stks := rfl
@[simp] theorem State.putRows_chans (s : State) (v : Tab RowMeta) : (s.putRows v).chans = s.chans := rfl
@[simp] theorem State.putRows_nbus (s : State) (v : Tab RowMeta) : (s.putRows v).nbus = s.nbus := rfl
@[simp] theorem State.putRows_crus (s : State) (v : Tab RowMeta) : (s.putRows v).crus = s.crus := rfl
@[simp] theorem State.putRows_hubs (s : State) (v : Tab RowMeta) : (s.putRows v).hubs = s.hubs := rfl
@[simp] theorem State.putRows_me (s : State) (v : Tab RowMeta) : (s.putRows v).me = s.me := rfl
@[simp] theorem State.putRows_ve (s : State) (v : Tab RowMeta) : (s.putRows v).ve = s.ve := rfl
@[simp] theorem State.putRows_vfiles (s : State) (v : Tab RowMeta) : (s.putRows v).vfiles = s.vfiles := rfl
@[simp] theorem State.putRows_fe (s : State) (v : Tab RowMeta) : (s.putRows v).fe = s.fe := rfl
@[simp] theorem State.putRows_sp (s : State) (v : Tab RowMeta) : (s.putRows v).sp = s.sp := rfl
@[simp] theorem State.putRows_spPois (s : State) (v : Tab RowMeta) : (s.putRows v).spPois = s.spPois := rfl
@[simp] theorem State.putRows_ctxs (s : State) (v : Tab RowMeta) : (s.putRows v).ctxs = s.ctxs := rfl
@[simp] theorem State.putRows_parts (s : State) (v : Tab RowMeta) : (s.putRows v).parts = s.parts := rfl
@[simp] theorem State.putRows_pages (s : State) (v : Tab RowMeta) : (s.putRows v).pages = s.pages := rfl
@[simp] theorem State.putRows_streams (s : State) (v : Tab RowMeta) : (s.putRows v).streams = s.streams := rfl
@[simp] theorem State.putRows_ports (s : State) (v : Tab RowMeta) : (s.putRows v).ports = s.ports := rfl
@[simp] theorem State.putRows_dirs (s : State) (v : Tab RowMeta) : (s.putRows v).dirs = s.dirs := rfl
@[simp] theorem State.putRows_lines (s : State) (v : Tab RowMeta) : (s.putRows v).lines = s.lines := rfl
@[simp] theorem State.putRows_trans (s : State) (v : Tab RowMeta) : (s.putRows v).trans = s.trans := rfl
@[simp] theorem State.putRows_lands (s : State) (v : Tab RowMeta) : (s.putRows v).lands = s.lands := rfl
@[simp] theorem State.putRows_xacts (s : State) (v : Tab RowMeta) : (s.putRows v).xacts = s.xacts := rfl
@[simp] theorem State.putRows_routes (s : State) (v : Tab RowMeta) : (s.putRows v).routes = s.routes := rfl
@[simp] theorem State.putRows_admits (s : State) (v : Tab RowMeta) : (s.putRows v).admits = s.admits := rfl
@[simp] theorem State.putRows_groups (s : State) (v : Tab RowMeta) : (s.putRows v).groups = s.groups := rfl
@[simp] theorem State.putRows_fw (s : State) (v : Tab RowMeta) : (s.putRows v).fw = s.fw := rfl
@[simp] theorem State.putRows_logs (s : State) (v : Tab RowMeta) : (s.putRows v).logs = s.logs := rfl
@[simp] theorem State.putRows_pm (s : State) (v : Tab RowMeta) : (s.putRows v).pm = s.pm := rfl
@[simp] theorem State.putRows_tmap (s : State) (v : Tab RowMeta) : (s.putRows v).tmap = s.tmap := rfl
@[simp] theorem State.putRows_act (s : State) (v : Tab RowMeta) : (s.putRows v).act = s.act := rfl
@[simp] theorem State.putRows_out (s : State) (v : Tab RowMeta) : (s.putRows v).out = s.out := rfl
@[simp] theorem State.putRows_members (s : State) (v : Tab RowMeta) :
    (∀ j, (s.putRows v).slot j = s.slot j) ∧
    (∀ j, (s.putRows v).parcel j = s.parcel j) ∧
    (∀ j, (s.putRows v).memByte j = s.memByte j) ∧
    (∀ j, (s.putRows v).colBad j = s.colBad j) ∧
    (∀ j, (s.putRows v).bspare j = s.bspare j) ∧
    (∀ j, (s.putRows v).stack j = s.stack j) ∧
    (∀ j, (s.putRows v).chan j = s.chan j) ∧
    (∀ j, (s.putRows v).nbu j = s.nbu j) ∧
    (∀ j, (s.putRows v).cru j = s.cru j) ∧
    (∀ j, (s.putRows v).hub j = s.hub j) ∧
    (∀ j, (s.putRows v).mat j = s.mat j) ∧
    (∀ j, (s.putRows v).vec j = s.vec j) ∧
    (∀ j, (s.putRows v).vfile j = s.vfile j) ∧
    (∀ j, (s.putRows v).fchan j = s.fchan j) ∧
    (∀ j, (s.putRows v).spByte j = s.spByte j) ∧
    (∀ j, (s.putRows v).spBad j = s.spBad j) ∧
    (∀ j, (s.putRows v).ctx j = s.ctx j) ∧
    (∀ j, (s.putRows v).part j = s.part j) ∧
    (∀ j, (s.putRows v).page j = s.page j) ∧
    (∀ j, (s.putRows v).stream j = s.stream j) ∧
    (∀ j, (s.putRows v).hport j = s.hport j) ∧
    (∀ j, (s.putRows v).dir j = s.dir j) ∧
    (∀ j, (s.putRows v).tran j = s.tran j) ∧
    (∀ j, (s.putRows v).landing j = s.landing j) ∧
    (∀ j, (s.putRows v).route j = s.route j) ∧
    (∀ j, (s.putRows v).admission j = s.admission j) ∧
    (∀ j, (s.putRows v).group j = s.group j) ∧
    (∀ j, (s.putRows v).counter j = s.counter j) := by
  and_intros <;> exact fun _ => rfl
@[simp] theorem State.putBspares_bspares (s : State) (v : Tab BankSpares) : (s.putBspares v).bspares = v := rfl
@[simp] theorem State.putBspares_pending (s : State) (v : Tab BankSpares) : (s.putBspares v).pending = s.pending := rfl
@[simp] theorem State.putBspares_cyc (s : State) (v : Tab BankSpares) : (s.putBspares v).cyc = s.cyc := rfl
@[simp] theorem State.putBspares_free (s : State) (v : Tab BankSpares) : (s.putBspares v).free = s.free := rfl
@[simp] theorem State.putBspares_half (s : State) (v : Tab BankSpares) : (s.putBspares v).half = s.half := rfl
@[simp] theorem State.putBspares_regs (s : State) (v : Tab BankSpares) : (s.putBspares v).regs = s.regs := rfl
@[simp] theorem State.putBspares_boot (s : State) (v : Tab BankSpares) : (s.putBspares v).boot = s.boot := rfl
@[simp] theorem State.putBspares_power (s : State) (v : Tab BankSpares) : (s.putBspares v).power = s.power := rfl
@[simp] theorem State.putBspares_slots (s : State) (v : Tab BankSpares) : (s.putBspares v).slots = s.slots := rfl
@[simp] theorem State.putBspares_parcels (s : State) (v : Tab BankSpares) : (s.putBspares v).parcels = s.parcels := rfl
@[simp] theorem State.putBspares_mem (s : State) (v : Tab BankSpares) : (s.putBspares v).mem = s.mem := rfl
@[simp] theorem State.putBspares_pois (s : State) (v : Tab BankSpares) : (s.putBspares v).pois = s.pois := rfl
@[simp] theorem State.putBspares_rows (s : State) (v : Tab BankSpares) : (s.putBspares v).rows = s.rows := rfl
@[simp] theorem State.putBspares_stks (s : State) (v : Tab BankSpares) : (s.putBspares v).stks = s.stks := rfl
@[simp] theorem State.putBspares_chans (s : State) (v : Tab BankSpares) : (s.putBspares v).chans = s.chans := rfl
@[simp] theorem State.putBspares_nbus (s : State) (v : Tab BankSpares) : (s.putBspares v).nbus = s.nbus := rfl
@[simp] theorem State.putBspares_crus (s : State) (v : Tab BankSpares) : (s.putBspares v).crus = s.crus := rfl
@[simp] theorem State.putBspares_hubs (s : State) (v : Tab BankSpares) : (s.putBspares v).hubs = s.hubs := rfl
@[simp] theorem State.putBspares_me (s : State) (v : Tab BankSpares) : (s.putBspares v).me = s.me := rfl
@[simp] theorem State.putBspares_ve (s : State) (v : Tab BankSpares) : (s.putBspares v).ve = s.ve := rfl
@[simp] theorem State.putBspares_vfiles (s : State) (v : Tab BankSpares) : (s.putBspares v).vfiles = s.vfiles := rfl
@[simp] theorem State.putBspares_fe (s : State) (v : Tab BankSpares) : (s.putBspares v).fe = s.fe := rfl
@[simp] theorem State.putBspares_sp (s : State) (v : Tab BankSpares) : (s.putBspares v).sp = s.sp := rfl
@[simp] theorem State.putBspares_spPois (s : State) (v : Tab BankSpares) : (s.putBspares v).spPois = s.spPois := rfl
@[simp] theorem State.putBspares_ctxs (s : State) (v : Tab BankSpares) : (s.putBspares v).ctxs = s.ctxs := rfl
@[simp] theorem State.putBspares_parts (s : State) (v : Tab BankSpares) : (s.putBspares v).parts = s.parts := rfl
@[simp] theorem State.putBspares_pages (s : State) (v : Tab BankSpares) : (s.putBspares v).pages = s.pages := rfl
@[simp] theorem State.putBspares_streams (s : State) (v : Tab BankSpares) : (s.putBspares v).streams = s.streams := rfl
@[simp] theorem State.putBspares_ports (s : State) (v : Tab BankSpares) : (s.putBspares v).ports = s.ports := rfl
@[simp] theorem State.putBspares_dirs (s : State) (v : Tab BankSpares) : (s.putBspares v).dirs = s.dirs := rfl
@[simp] theorem State.putBspares_lines (s : State) (v : Tab BankSpares) : (s.putBspares v).lines = s.lines := rfl
@[simp] theorem State.putBspares_trans (s : State) (v : Tab BankSpares) : (s.putBspares v).trans = s.trans := rfl
@[simp] theorem State.putBspares_lands (s : State) (v : Tab BankSpares) : (s.putBspares v).lands = s.lands := rfl
@[simp] theorem State.putBspares_xacts (s : State) (v : Tab BankSpares) : (s.putBspares v).xacts = s.xacts := rfl
@[simp] theorem State.putBspares_routes (s : State) (v : Tab BankSpares) : (s.putBspares v).routes = s.routes := rfl
@[simp] theorem State.putBspares_admits (s : State) (v : Tab BankSpares) : (s.putBspares v).admits = s.admits := rfl
@[simp] theorem State.putBspares_groups (s : State) (v : Tab BankSpares) : (s.putBspares v).groups = s.groups := rfl
@[simp] theorem State.putBspares_fw (s : State) (v : Tab BankSpares) : (s.putBspares v).fw = s.fw := rfl
@[simp] theorem State.putBspares_logs (s : State) (v : Tab BankSpares) : (s.putBspares v).logs = s.logs := rfl
@[simp] theorem State.putBspares_pm (s : State) (v : Tab BankSpares) : (s.putBspares v).pm = s.pm := rfl
@[simp] theorem State.putBspares_tmap (s : State) (v : Tab BankSpares) : (s.putBspares v).tmap = s.tmap := rfl
@[simp] theorem State.putBspares_act (s : State) (v : Tab BankSpares) : (s.putBspares v).act = s.act := rfl
@[simp] theorem State.putBspares_out (s : State) (v : Tab BankSpares) : (s.putBspares v).out = s.out := rfl
@[simp] theorem State.putBspares_members (s : State) (v : Tab BankSpares) :
    (∀ j, (s.putBspares v).slot j = s.slot j) ∧
    (∀ j, (s.putBspares v).parcel j = s.parcel j) ∧
    (∀ j, (s.putBspares v).memByte j = s.memByte j) ∧
    (∀ j, (s.putBspares v).colBad j = s.colBad j) ∧
    (∀ j, (s.putBspares v).row j = s.row j) ∧
    (∀ j, (s.putBspares v).stack j = s.stack j) ∧
    (∀ j, (s.putBspares v).chan j = s.chan j) ∧
    (∀ j, (s.putBspares v).nbu j = s.nbu j) ∧
    (∀ j, (s.putBspares v).cru j = s.cru j) ∧
    (∀ j, (s.putBspares v).hub j = s.hub j) ∧
    (∀ j, (s.putBspares v).mat j = s.mat j) ∧
    (∀ j, (s.putBspares v).vec j = s.vec j) ∧
    (∀ j, (s.putBspares v).vfile j = s.vfile j) ∧
    (∀ j, (s.putBspares v).fchan j = s.fchan j) ∧
    (∀ j, (s.putBspares v).spByte j = s.spByte j) ∧
    (∀ j, (s.putBspares v).spBad j = s.spBad j) ∧
    (∀ j, (s.putBspares v).ctx j = s.ctx j) ∧
    (∀ j, (s.putBspares v).part j = s.part j) ∧
    (∀ j, (s.putBspares v).page j = s.page j) ∧
    (∀ j, (s.putBspares v).stream j = s.stream j) ∧
    (∀ j, (s.putBspares v).hport j = s.hport j) ∧
    (∀ j, (s.putBspares v).dir j = s.dir j) ∧
    (∀ j, (s.putBspares v).tran j = s.tran j) ∧
    (∀ j, (s.putBspares v).landing j = s.landing j) ∧
    (∀ j, (s.putBspares v).route j = s.route j) ∧
    (∀ j, (s.putBspares v).admission j = s.admission j) ∧
    (∀ j, (s.putBspares v).group j = s.group j) ∧
    (∀ j, (s.putBspares v).counter j = s.counter j) := by
  and_intros <;> exact fun _ => rfl
@[simp] theorem State.putStks_stks (s : State) (v : Tab StackSpares) : (s.putStks v).stks = v := rfl
@[simp] theorem State.putStks_pending (s : State) (v : Tab StackSpares) : (s.putStks v).pending = s.pending := rfl
@[simp] theorem State.putStks_cyc (s : State) (v : Tab StackSpares) : (s.putStks v).cyc = s.cyc := rfl
@[simp] theorem State.putStks_free (s : State) (v : Tab StackSpares) : (s.putStks v).free = s.free := rfl
@[simp] theorem State.putStks_half (s : State) (v : Tab StackSpares) : (s.putStks v).half = s.half := rfl
@[simp] theorem State.putStks_regs (s : State) (v : Tab StackSpares) : (s.putStks v).regs = s.regs := rfl
@[simp] theorem State.putStks_boot (s : State) (v : Tab StackSpares) : (s.putStks v).boot = s.boot := rfl
@[simp] theorem State.putStks_power (s : State) (v : Tab StackSpares) : (s.putStks v).power = s.power := rfl
@[simp] theorem State.putStks_slots (s : State) (v : Tab StackSpares) : (s.putStks v).slots = s.slots := rfl
@[simp] theorem State.putStks_parcels (s : State) (v : Tab StackSpares) : (s.putStks v).parcels = s.parcels := rfl
@[simp] theorem State.putStks_mem (s : State) (v : Tab StackSpares) : (s.putStks v).mem = s.mem := rfl
@[simp] theorem State.putStks_pois (s : State) (v : Tab StackSpares) : (s.putStks v).pois = s.pois := rfl
@[simp] theorem State.putStks_rows (s : State) (v : Tab StackSpares) : (s.putStks v).rows = s.rows := rfl
@[simp] theorem State.putStks_bspares (s : State) (v : Tab StackSpares) : (s.putStks v).bspares = s.bspares := rfl
@[simp] theorem State.putStks_chans (s : State) (v : Tab StackSpares) : (s.putStks v).chans = s.chans := rfl
@[simp] theorem State.putStks_nbus (s : State) (v : Tab StackSpares) : (s.putStks v).nbus = s.nbus := rfl
@[simp] theorem State.putStks_crus (s : State) (v : Tab StackSpares) : (s.putStks v).crus = s.crus := rfl
@[simp] theorem State.putStks_hubs (s : State) (v : Tab StackSpares) : (s.putStks v).hubs = s.hubs := rfl
@[simp] theorem State.putStks_me (s : State) (v : Tab StackSpares) : (s.putStks v).me = s.me := rfl
@[simp] theorem State.putStks_ve (s : State) (v : Tab StackSpares) : (s.putStks v).ve = s.ve := rfl
@[simp] theorem State.putStks_vfiles (s : State) (v : Tab StackSpares) : (s.putStks v).vfiles = s.vfiles := rfl
@[simp] theorem State.putStks_fe (s : State) (v : Tab StackSpares) : (s.putStks v).fe = s.fe := rfl
@[simp] theorem State.putStks_sp (s : State) (v : Tab StackSpares) : (s.putStks v).sp = s.sp := rfl
@[simp] theorem State.putStks_spPois (s : State) (v : Tab StackSpares) : (s.putStks v).spPois = s.spPois := rfl
@[simp] theorem State.putStks_ctxs (s : State) (v : Tab StackSpares) : (s.putStks v).ctxs = s.ctxs := rfl
@[simp] theorem State.putStks_parts (s : State) (v : Tab StackSpares) : (s.putStks v).parts = s.parts := rfl
@[simp] theorem State.putStks_pages (s : State) (v : Tab StackSpares) : (s.putStks v).pages = s.pages := rfl
@[simp] theorem State.putStks_streams (s : State) (v : Tab StackSpares) : (s.putStks v).streams = s.streams := rfl
@[simp] theorem State.putStks_ports (s : State) (v : Tab StackSpares) : (s.putStks v).ports = s.ports := rfl
@[simp] theorem State.putStks_dirs (s : State) (v : Tab StackSpares) : (s.putStks v).dirs = s.dirs := rfl
@[simp] theorem State.putStks_lines (s : State) (v : Tab StackSpares) : (s.putStks v).lines = s.lines := rfl
@[simp] theorem State.putStks_trans (s : State) (v : Tab StackSpares) : (s.putStks v).trans = s.trans := rfl
@[simp] theorem State.putStks_lands (s : State) (v : Tab StackSpares) : (s.putStks v).lands = s.lands := rfl
@[simp] theorem State.putStks_xacts (s : State) (v : Tab StackSpares) : (s.putStks v).xacts = s.xacts := rfl
@[simp] theorem State.putStks_routes (s : State) (v : Tab StackSpares) : (s.putStks v).routes = s.routes := rfl
@[simp] theorem State.putStks_admits (s : State) (v : Tab StackSpares) : (s.putStks v).admits = s.admits := rfl
@[simp] theorem State.putStks_groups (s : State) (v : Tab StackSpares) : (s.putStks v).groups = s.groups := rfl
@[simp] theorem State.putStks_fw (s : State) (v : Tab StackSpares) : (s.putStks v).fw = s.fw := rfl
@[simp] theorem State.putStks_logs (s : State) (v : Tab StackSpares) : (s.putStks v).logs = s.logs := rfl
@[simp] theorem State.putStks_pm (s : State) (v : Tab StackSpares) : (s.putStks v).pm = s.pm := rfl
@[simp] theorem State.putStks_tmap (s : State) (v : Tab StackSpares) : (s.putStks v).tmap = s.tmap := rfl
@[simp] theorem State.putStks_act (s : State) (v : Tab StackSpares) : (s.putStks v).act = s.act := rfl
@[simp] theorem State.putStks_out (s : State) (v : Tab StackSpares) : (s.putStks v).out = s.out := rfl
@[simp] theorem State.putStks_members (s : State) (v : Tab StackSpares) :
    (∀ j, (s.putStks v).slot j = s.slot j) ∧
    (∀ j, (s.putStks v).parcel j = s.parcel j) ∧
    (∀ j, (s.putStks v).memByte j = s.memByte j) ∧
    (∀ j, (s.putStks v).colBad j = s.colBad j) ∧
    (∀ j, (s.putStks v).row j = s.row j) ∧
    (∀ j, (s.putStks v).bspare j = s.bspare j) ∧
    (∀ j, (s.putStks v).chan j = s.chan j) ∧
    (∀ j, (s.putStks v).nbu j = s.nbu j) ∧
    (∀ j, (s.putStks v).cru j = s.cru j) ∧
    (∀ j, (s.putStks v).hub j = s.hub j) ∧
    (∀ j, (s.putStks v).mat j = s.mat j) ∧
    (∀ j, (s.putStks v).vec j = s.vec j) ∧
    (∀ j, (s.putStks v).vfile j = s.vfile j) ∧
    (∀ j, (s.putStks v).fchan j = s.fchan j) ∧
    (∀ j, (s.putStks v).spByte j = s.spByte j) ∧
    (∀ j, (s.putStks v).spBad j = s.spBad j) ∧
    (∀ j, (s.putStks v).ctx j = s.ctx j) ∧
    (∀ j, (s.putStks v).part j = s.part j) ∧
    (∀ j, (s.putStks v).page j = s.page j) ∧
    (∀ j, (s.putStks v).stream j = s.stream j) ∧
    (∀ j, (s.putStks v).hport j = s.hport j) ∧
    (∀ j, (s.putStks v).dir j = s.dir j) ∧
    (∀ j, (s.putStks v).tran j = s.tran j) ∧
    (∀ j, (s.putStks v).landing j = s.landing j) ∧
    (∀ j, (s.putStks v).route j = s.route j) ∧
    (∀ j, (s.putStks v).admission j = s.admission j) ∧
    (∀ j, (s.putStks v).group j = s.group j) ∧
    (∀ j, (s.putStks v).counter j = s.counter j) := by
  and_intros <;> exact fun _ => rfl
@[simp] theorem State.putChans_chans (s : State) (v : Tab Channel) : (s.putChans v).chans = v := rfl
@[simp] theorem State.putChans_pending (s : State) (v : Tab Channel) : (s.putChans v).pending = s.pending := rfl
@[simp] theorem State.putChans_cyc (s : State) (v : Tab Channel) : (s.putChans v).cyc = s.cyc := rfl
@[simp] theorem State.putChans_free (s : State) (v : Tab Channel) : (s.putChans v).free = s.free := rfl
@[simp] theorem State.putChans_half (s : State) (v : Tab Channel) : (s.putChans v).half = s.half := rfl
@[simp] theorem State.putChans_regs (s : State) (v : Tab Channel) : (s.putChans v).regs = s.regs := rfl
@[simp] theorem State.putChans_boot (s : State) (v : Tab Channel) : (s.putChans v).boot = s.boot := rfl
@[simp] theorem State.putChans_power (s : State) (v : Tab Channel) : (s.putChans v).power = s.power := rfl
@[simp] theorem State.putChans_slots (s : State) (v : Tab Channel) : (s.putChans v).slots = s.slots := rfl
@[simp] theorem State.putChans_parcels (s : State) (v : Tab Channel) : (s.putChans v).parcels = s.parcels := rfl
@[simp] theorem State.putChans_mem (s : State) (v : Tab Channel) : (s.putChans v).mem = s.mem := rfl
@[simp] theorem State.putChans_pois (s : State) (v : Tab Channel) : (s.putChans v).pois = s.pois := rfl
@[simp] theorem State.putChans_rows (s : State) (v : Tab Channel) : (s.putChans v).rows = s.rows := rfl
@[simp] theorem State.putChans_bspares (s : State) (v : Tab Channel) : (s.putChans v).bspares = s.bspares := rfl
@[simp] theorem State.putChans_stks (s : State) (v : Tab Channel) : (s.putChans v).stks = s.stks := rfl
@[simp] theorem State.putChans_nbus (s : State) (v : Tab Channel) : (s.putChans v).nbus = s.nbus := rfl
@[simp] theorem State.putChans_crus (s : State) (v : Tab Channel) : (s.putChans v).crus = s.crus := rfl
@[simp] theorem State.putChans_hubs (s : State) (v : Tab Channel) : (s.putChans v).hubs = s.hubs := rfl
@[simp] theorem State.putChans_me (s : State) (v : Tab Channel) : (s.putChans v).me = s.me := rfl
@[simp] theorem State.putChans_ve (s : State) (v : Tab Channel) : (s.putChans v).ve = s.ve := rfl
@[simp] theorem State.putChans_vfiles (s : State) (v : Tab Channel) : (s.putChans v).vfiles = s.vfiles := rfl
@[simp] theorem State.putChans_fe (s : State) (v : Tab Channel) : (s.putChans v).fe = s.fe := rfl
@[simp] theorem State.putChans_sp (s : State) (v : Tab Channel) : (s.putChans v).sp = s.sp := rfl
@[simp] theorem State.putChans_spPois (s : State) (v : Tab Channel) : (s.putChans v).spPois = s.spPois := rfl
@[simp] theorem State.putChans_ctxs (s : State) (v : Tab Channel) : (s.putChans v).ctxs = s.ctxs := rfl
@[simp] theorem State.putChans_parts (s : State) (v : Tab Channel) : (s.putChans v).parts = s.parts := rfl
@[simp] theorem State.putChans_pages (s : State) (v : Tab Channel) : (s.putChans v).pages = s.pages := rfl
@[simp] theorem State.putChans_streams (s : State) (v : Tab Channel) : (s.putChans v).streams = s.streams := rfl
@[simp] theorem State.putChans_ports (s : State) (v : Tab Channel) : (s.putChans v).ports = s.ports := rfl
@[simp] theorem State.putChans_dirs (s : State) (v : Tab Channel) : (s.putChans v).dirs = s.dirs := rfl
@[simp] theorem State.putChans_lines (s : State) (v : Tab Channel) : (s.putChans v).lines = s.lines := rfl
@[simp] theorem State.putChans_trans (s : State) (v : Tab Channel) : (s.putChans v).trans = s.trans := rfl
@[simp] theorem State.putChans_lands (s : State) (v : Tab Channel) : (s.putChans v).lands = s.lands := rfl
@[simp] theorem State.putChans_xacts (s : State) (v : Tab Channel) : (s.putChans v).xacts = s.xacts := rfl
@[simp] theorem State.putChans_routes (s : State) (v : Tab Channel) : (s.putChans v).routes = s.routes := rfl
@[simp] theorem State.putChans_admits (s : State) (v : Tab Channel) : (s.putChans v).admits = s.admits := rfl
@[simp] theorem State.putChans_groups (s : State) (v : Tab Channel) : (s.putChans v).groups = s.groups := rfl
@[simp] theorem State.putChans_fw (s : State) (v : Tab Channel) : (s.putChans v).fw = s.fw := rfl
@[simp] theorem State.putChans_logs (s : State) (v : Tab Channel) : (s.putChans v).logs = s.logs := rfl
@[simp] theorem State.putChans_pm (s : State) (v : Tab Channel) : (s.putChans v).pm = s.pm := rfl
@[simp] theorem State.putChans_tmap (s : State) (v : Tab Channel) : (s.putChans v).tmap = s.tmap := rfl
@[simp] theorem State.putChans_act (s : State) (v : Tab Channel) : (s.putChans v).act = s.act := rfl
@[simp] theorem State.putChans_out (s : State) (v : Tab Channel) : (s.putChans v).out = s.out := rfl
@[simp] theorem State.putChans_members (s : State) (v : Tab Channel) :
    (∀ j, (s.putChans v).slot j = s.slot j) ∧
    (∀ j, (s.putChans v).parcel j = s.parcel j) ∧
    (∀ j, (s.putChans v).memByte j = s.memByte j) ∧
    (∀ j, (s.putChans v).colBad j = s.colBad j) ∧
    (∀ j, (s.putChans v).row j = s.row j) ∧
    (∀ j, (s.putChans v).bspare j = s.bspare j) ∧
    (∀ j, (s.putChans v).stack j = s.stack j) ∧
    (∀ j, (s.putChans v).nbu j = s.nbu j) ∧
    (∀ j, (s.putChans v).cru j = s.cru j) ∧
    (∀ j, (s.putChans v).hub j = s.hub j) ∧
    (∀ j, (s.putChans v).mat j = s.mat j) ∧
    (∀ j, (s.putChans v).vec j = s.vec j) ∧
    (∀ j, (s.putChans v).vfile j = s.vfile j) ∧
    (∀ j, (s.putChans v).fchan j = s.fchan j) ∧
    (∀ j, (s.putChans v).spByte j = s.spByte j) ∧
    (∀ j, (s.putChans v).spBad j = s.spBad j) ∧
    (∀ j, (s.putChans v).ctx j = s.ctx j) ∧
    (∀ j, (s.putChans v).part j = s.part j) ∧
    (∀ j, (s.putChans v).page j = s.page j) ∧
    (∀ j, (s.putChans v).stream j = s.stream j) ∧
    (∀ j, (s.putChans v).hport j = s.hport j) ∧
    (∀ j, (s.putChans v).dir j = s.dir j) ∧
    (∀ j, (s.putChans v).tran j = s.tran j) ∧
    (∀ j, (s.putChans v).landing j = s.landing j) ∧
    (∀ j, (s.putChans v).route j = s.route j) ∧
    (∀ j, (s.putChans v).admission j = s.admission j) ∧
    (∀ j, (s.putChans v).group j = s.group j) ∧
    (∀ j, (s.putChans v).counter j = s.counter j) := by
  and_intros <;> exact fun _ => rfl
@[simp] theorem State.putNbus_nbus (s : State) (v : Tab Nbu) : (s.putNbus v).nbus = v := rfl
@[simp] theorem State.putNbus_pending (s : State) (v : Tab Nbu) : (s.putNbus v).pending = s.pending := rfl
@[simp] theorem State.putNbus_cyc (s : State) (v : Tab Nbu) : (s.putNbus v).cyc = s.cyc := rfl
@[simp] theorem State.putNbus_free (s : State) (v : Tab Nbu) : (s.putNbus v).free = s.free := rfl
@[simp] theorem State.putNbus_half (s : State) (v : Tab Nbu) : (s.putNbus v).half = s.half := rfl
@[simp] theorem State.putNbus_regs (s : State) (v : Tab Nbu) : (s.putNbus v).regs = s.regs := rfl
@[simp] theorem State.putNbus_boot (s : State) (v : Tab Nbu) : (s.putNbus v).boot = s.boot := rfl
@[simp] theorem State.putNbus_power (s : State) (v : Tab Nbu) : (s.putNbus v).power = s.power := rfl
@[simp] theorem State.putNbus_slots (s : State) (v : Tab Nbu) : (s.putNbus v).slots = s.slots := rfl
@[simp] theorem State.putNbus_parcels (s : State) (v : Tab Nbu) : (s.putNbus v).parcels = s.parcels := rfl
@[simp] theorem State.putNbus_mem (s : State) (v : Tab Nbu) : (s.putNbus v).mem = s.mem := rfl
@[simp] theorem State.putNbus_pois (s : State) (v : Tab Nbu) : (s.putNbus v).pois = s.pois := rfl
@[simp] theorem State.putNbus_rows (s : State) (v : Tab Nbu) : (s.putNbus v).rows = s.rows := rfl
@[simp] theorem State.putNbus_bspares (s : State) (v : Tab Nbu) : (s.putNbus v).bspares = s.bspares := rfl
@[simp] theorem State.putNbus_stks (s : State) (v : Tab Nbu) : (s.putNbus v).stks = s.stks := rfl
@[simp] theorem State.putNbus_chans (s : State) (v : Tab Nbu) : (s.putNbus v).chans = s.chans := rfl
@[simp] theorem State.putNbus_crus (s : State) (v : Tab Nbu) : (s.putNbus v).crus = s.crus := rfl
@[simp] theorem State.putNbus_hubs (s : State) (v : Tab Nbu) : (s.putNbus v).hubs = s.hubs := rfl
@[simp] theorem State.putNbus_me (s : State) (v : Tab Nbu) : (s.putNbus v).me = s.me := rfl
@[simp] theorem State.putNbus_ve (s : State) (v : Tab Nbu) : (s.putNbus v).ve = s.ve := rfl
@[simp] theorem State.putNbus_vfiles (s : State) (v : Tab Nbu) : (s.putNbus v).vfiles = s.vfiles := rfl
@[simp] theorem State.putNbus_fe (s : State) (v : Tab Nbu) : (s.putNbus v).fe = s.fe := rfl
@[simp] theorem State.putNbus_sp (s : State) (v : Tab Nbu) : (s.putNbus v).sp = s.sp := rfl
@[simp] theorem State.putNbus_spPois (s : State) (v : Tab Nbu) : (s.putNbus v).spPois = s.spPois := rfl
@[simp] theorem State.putNbus_ctxs (s : State) (v : Tab Nbu) : (s.putNbus v).ctxs = s.ctxs := rfl
@[simp] theorem State.putNbus_parts (s : State) (v : Tab Nbu) : (s.putNbus v).parts = s.parts := rfl
@[simp] theorem State.putNbus_pages (s : State) (v : Tab Nbu) : (s.putNbus v).pages = s.pages := rfl
@[simp] theorem State.putNbus_streams (s : State) (v : Tab Nbu) : (s.putNbus v).streams = s.streams := rfl
@[simp] theorem State.putNbus_ports (s : State) (v : Tab Nbu) : (s.putNbus v).ports = s.ports := rfl
@[simp] theorem State.putNbus_dirs (s : State) (v : Tab Nbu) : (s.putNbus v).dirs = s.dirs := rfl
@[simp] theorem State.putNbus_lines (s : State) (v : Tab Nbu) : (s.putNbus v).lines = s.lines := rfl
@[simp] theorem State.putNbus_trans (s : State) (v : Tab Nbu) : (s.putNbus v).trans = s.trans := rfl
@[simp] theorem State.putNbus_lands (s : State) (v : Tab Nbu) : (s.putNbus v).lands = s.lands := rfl
@[simp] theorem State.putNbus_xacts (s : State) (v : Tab Nbu) : (s.putNbus v).xacts = s.xacts := rfl
@[simp] theorem State.putNbus_routes (s : State) (v : Tab Nbu) : (s.putNbus v).routes = s.routes := rfl
@[simp] theorem State.putNbus_admits (s : State) (v : Tab Nbu) : (s.putNbus v).admits = s.admits := rfl
@[simp] theorem State.putNbus_groups (s : State) (v : Tab Nbu) : (s.putNbus v).groups = s.groups := rfl
@[simp] theorem State.putNbus_fw (s : State) (v : Tab Nbu) : (s.putNbus v).fw = s.fw := rfl
@[simp] theorem State.putNbus_logs (s : State) (v : Tab Nbu) : (s.putNbus v).logs = s.logs := rfl
@[simp] theorem State.putNbus_pm (s : State) (v : Tab Nbu) : (s.putNbus v).pm = s.pm := rfl
@[simp] theorem State.putNbus_tmap (s : State) (v : Tab Nbu) : (s.putNbus v).tmap = s.tmap := rfl
@[simp] theorem State.putNbus_act (s : State) (v : Tab Nbu) : (s.putNbus v).act = s.act := rfl
@[simp] theorem State.putNbus_out (s : State) (v : Tab Nbu) : (s.putNbus v).out = s.out := rfl
@[simp] theorem State.putNbus_members (s : State) (v : Tab Nbu) :
    (∀ j, (s.putNbus v).slot j = s.slot j) ∧
    (∀ j, (s.putNbus v).parcel j = s.parcel j) ∧
    (∀ j, (s.putNbus v).memByte j = s.memByte j) ∧
    (∀ j, (s.putNbus v).colBad j = s.colBad j) ∧
    (∀ j, (s.putNbus v).row j = s.row j) ∧
    (∀ j, (s.putNbus v).bspare j = s.bspare j) ∧
    (∀ j, (s.putNbus v).stack j = s.stack j) ∧
    (∀ j, (s.putNbus v).chan j = s.chan j) ∧
    (∀ j, (s.putNbus v).cru j = s.cru j) ∧
    (∀ j, (s.putNbus v).hub j = s.hub j) ∧
    (∀ j, (s.putNbus v).mat j = s.mat j) ∧
    (∀ j, (s.putNbus v).vec j = s.vec j) ∧
    (∀ j, (s.putNbus v).vfile j = s.vfile j) ∧
    (∀ j, (s.putNbus v).fchan j = s.fchan j) ∧
    (∀ j, (s.putNbus v).spByte j = s.spByte j) ∧
    (∀ j, (s.putNbus v).spBad j = s.spBad j) ∧
    (∀ j, (s.putNbus v).ctx j = s.ctx j) ∧
    (∀ j, (s.putNbus v).part j = s.part j) ∧
    (∀ j, (s.putNbus v).page j = s.page j) ∧
    (∀ j, (s.putNbus v).stream j = s.stream j) ∧
    (∀ j, (s.putNbus v).hport j = s.hport j) ∧
    (∀ j, (s.putNbus v).dir j = s.dir j) ∧
    (∀ j, (s.putNbus v).tran j = s.tran j) ∧
    (∀ j, (s.putNbus v).landing j = s.landing j) ∧
    (∀ j, (s.putNbus v).route j = s.route j) ∧
    (∀ j, (s.putNbus v).admission j = s.admission j) ∧
    (∀ j, (s.putNbus v).group j = s.group j) ∧
    (∀ j, (s.putNbus v).counter j = s.counter j) := by
  and_intros <;> exact fun _ => rfl
@[simp] theorem State.putCrus_crus (s : State) (v : Tab SumBuf) : (s.putCrus v).crus = v := rfl
@[simp] theorem State.putCrus_pending (s : State) (v : Tab SumBuf) : (s.putCrus v).pending = s.pending := rfl
@[simp] theorem State.putCrus_cyc (s : State) (v : Tab SumBuf) : (s.putCrus v).cyc = s.cyc := rfl
@[simp] theorem State.putCrus_free (s : State) (v : Tab SumBuf) : (s.putCrus v).free = s.free := rfl
@[simp] theorem State.putCrus_half (s : State) (v : Tab SumBuf) : (s.putCrus v).half = s.half := rfl
@[simp] theorem State.putCrus_regs (s : State) (v : Tab SumBuf) : (s.putCrus v).regs = s.regs := rfl
@[simp] theorem State.putCrus_boot (s : State) (v : Tab SumBuf) : (s.putCrus v).boot = s.boot := rfl
@[simp] theorem State.putCrus_power (s : State) (v : Tab SumBuf) : (s.putCrus v).power = s.power := rfl
@[simp] theorem State.putCrus_slots (s : State) (v : Tab SumBuf) : (s.putCrus v).slots = s.slots := rfl
@[simp] theorem State.putCrus_parcels (s : State) (v : Tab SumBuf) : (s.putCrus v).parcels = s.parcels := rfl
@[simp] theorem State.putCrus_mem (s : State) (v : Tab SumBuf) : (s.putCrus v).mem = s.mem := rfl
@[simp] theorem State.putCrus_pois (s : State) (v : Tab SumBuf) : (s.putCrus v).pois = s.pois := rfl
@[simp] theorem State.putCrus_rows (s : State) (v : Tab SumBuf) : (s.putCrus v).rows = s.rows := rfl
@[simp] theorem State.putCrus_bspares (s : State) (v : Tab SumBuf) : (s.putCrus v).bspares = s.bspares := rfl
@[simp] theorem State.putCrus_stks (s : State) (v : Tab SumBuf) : (s.putCrus v).stks = s.stks := rfl
@[simp] theorem State.putCrus_chans (s : State) (v : Tab SumBuf) : (s.putCrus v).chans = s.chans := rfl
@[simp] theorem State.putCrus_nbus (s : State) (v : Tab SumBuf) : (s.putCrus v).nbus = s.nbus := rfl
@[simp] theorem State.putCrus_hubs (s : State) (v : Tab SumBuf) : (s.putCrus v).hubs = s.hubs := rfl
@[simp] theorem State.putCrus_me (s : State) (v : Tab SumBuf) : (s.putCrus v).me = s.me := rfl
@[simp] theorem State.putCrus_ve (s : State) (v : Tab SumBuf) : (s.putCrus v).ve = s.ve := rfl
@[simp] theorem State.putCrus_vfiles (s : State) (v : Tab SumBuf) : (s.putCrus v).vfiles = s.vfiles := rfl
@[simp] theorem State.putCrus_fe (s : State) (v : Tab SumBuf) : (s.putCrus v).fe = s.fe := rfl
@[simp] theorem State.putCrus_sp (s : State) (v : Tab SumBuf) : (s.putCrus v).sp = s.sp := rfl
@[simp] theorem State.putCrus_spPois (s : State) (v : Tab SumBuf) : (s.putCrus v).spPois = s.spPois := rfl
@[simp] theorem State.putCrus_ctxs (s : State) (v : Tab SumBuf) : (s.putCrus v).ctxs = s.ctxs := rfl
@[simp] theorem State.putCrus_parts (s : State) (v : Tab SumBuf) : (s.putCrus v).parts = s.parts := rfl
@[simp] theorem State.putCrus_pages (s : State) (v : Tab SumBuf) : (s.putCrus v).pages = s.pages := rfl
@[simp] theorem State.putCrus_streams (s : State) (v : Tab SumBuf) : (s.putCrus v).streams = s.streams := rfl
@[simp] theorem State.putCrus_ports (s : State) (v : Tab SumBuf) : (s.putCrus v).ports = s.ports := rfl
@[simp] theorem State.putCrus_dirs (s : State) (v : Tab SumBuf) : (s.putCrus v).dirs = s.dirs := rfl
@[simp] theorem State.putCrus_lines (s : State) (v : Tab SumBuf) : (s.putCrus v).lines = s.lines := rfl
@[simp] theorem State.putCrus_trans (s : State) (v : Tab SumBuf) : (s.putCrus v).trans = s.trans := rfl
@[simp] theorem State.putCrus_lands (s : State) (v : Tab SumBuf) : (s.putCrus v).lands = s.lands := rfl
@[simp] theorem State.putCrus_xacts (s : State) (v : Tab SumBuf) : (s.putCrus v).xacts = s.xacts := rfl
@[simp] theorem State.putCrus_routes (s : State) (v : Tab SumBuf) : (s.putCrus v).routes = s.routes := rfl
@[simp] theorem State.putCrus_admits (s : State) (v : Tab SumBuf) : (s.putCrus v).admits = s.admits := rfl
@[simp] theorem State.putCrus_groups (s : State) (v : Tab SumBuf) : (s.putCrus v).groups = s.groups := rfl
@[simp] theorem State.putCrus_fw (s : State) (v : Tab SumBuf) : (s.putCrus v).fw = s.fw := rfl
@[simp] theorem State.putCrus_logs (s : State) (v : Tab SumBuf) : (s.putCrus v).logs = s.logs := rfl
@[simp] theorem State.putCrus_pm (s : State) (v : Tab SumBuf) : (s.putCrus v).pm = s.pm := rfl
@[simp] theorem State.putCrus_tmap (s : State) (v : Tab SumBuf) : (s.putCrus v).tmap = s.tmap := rfl
@[simp] theorem State.putCrus_act (s : State) (v : Tab SumBuf) : (s.putCrus v).act = s.act := rfl
@[simp] theorem State.putCrus_out (s : State) (v : Tab SumBuf) : (s.putCrus v).out = s.out := rfl
@[simp] theorem State.putCrus_members (s : State) (v : Tab SumBuf) :
    (∀ j, (s.putCrus v).slot j = s.slot j) ∧
    (∀ j, (s.putCrus v).parcel j = s.parcel j) ∧
    (∀ j, (s.putCrus v).memByte j = s.memByte j) ∧
    (∀ j, (s.putCrus v).colBad j = s.colBad j) ∧
    (∀ j, (s.putCrus v).row j = s.row j) ∧
    (∀ j, (s.putCrus v).bspare j = s.bspare j) ∧
    (∀ j, (s.putCrus v).stack j = s.stack j) ∧
    (∀ j, (s.putCrus v).chan j = s.chan j) ∧
    (∀ j, (s.putCrus v).nbu j = s.nbu j) ∧
    (∀ j, (s.putCrus v).hub j = s.hub j) ∧
    (∀ j, (s.putCrus v).mat j = s.mat j) ∧
    (∀ j, (s.putCrus v).vec j = s.vec j) ∧
    (∀ j, (s.putCrus v).vfile j = s.vfile j) ∧
    (∀ j, (s.putCrus v).fchan j = s.fchan j) ∧
    (∀ j, (s.putCrus v).spByte j = s.spByte j) ∧
    (∀ j, (s.putCrus v).spBad j = s.spBad j) ∧
    (∀ j, (s.putCrus v).ctx j = s.ctx j) ∧
    (∀ j, (s.putCrus v).part j = s.part j) ∧
    (∀ j, (s.putCrus v).page j = s.page j) ∧
    (∀ j, (s.putCrus v).stream j = s.stream j) ∧
    (∀ j, (s.putCrus v).hport j = s.hport j) ∧
    (∀ j, (s.putCrus v).dir j = s.dir j) ∧
    (∀ j, (s.putCrus v).tran j = s.tran j) ∧
    (∀ j, (s.putCrus v).landing j = s.landing j) ∧
    (∀ j, (s.putCrus v).route j = s.route j) ∧
    (∀ j, (s.putCrus v).admission j = s.admission j) ∧
    (∀ j, (s.putCrus v).group j = s.group j) ∧
    (∀ j, (s.putCrus v).counter j = s.counter j) := by
  and_intros <;> exact fun _ => rfl
@[simp] theorem State.putHubs_hubs (s : State) (v : Tab Hub) : (s.putHubs v).hubs = v := rfl
@[simp] theorem State.putHubs_pending (s : State) (v : Tab Hub) : (s.putHubs v).pending = s.pending := rfl
@[simp] theorem State.putHubs_cyc (s : State) (v : Tab Hub) : (s.putHubs v).cyc = s.cyc := rfl
@[simp] theorem State.putHubs_free (s : State) (v : Tab Hub) : (s.putHubs v).free = s.free := rfl
@[simp] theorem State.putHubs_half (s : State) (v : Tab Hub) : (s.putHubs v).half = s.half := rfl
@[simp] theorem State.putHubs_regs (s : State) (v : Tab Hub) : (s.putHubs v).regs = s.regs := rfl
@[simp] theorem State.putHubs_boot (s : State) (v : Tab Hub) : (s.putHubs v).boot = s.boot := rfl
@[simp] theorem State.putHubs_power (s : State) (v : Tab Hub) : (s.putHubs v).power = s.power := rfl
@[simp] theorem State.putHubs_slots (s : State) (v : Tab Hub) : (s.putHubs v).slots = s.slots := rfl
@[simp] theorem State.putHubs_parcels (s : State) (v : Tab Hub) : (s.putHubs v).parcels = s.parcels := rfl
@[simp] theorem State.putHubs_mem (s : State) (v : Tab Hub) : (s.putHubs v).mem = s.mem := rfl
@[simp] theorem State.putHubs_pois (s : State) (v : Tab Hub) : (s.putHubs v).pois = s.pois := rfl
@[simp] theorem State.putHubs_rows (s : State) (v : Tab Hub) : (s.putHubs v).rows = s.rows := rfl
@[simp] theorem State.putHubs_bspares (s : State) (v : Tab Hub) : (s.putHubs v).bspares = s.bspares := rfl
@[simp] theorem State.putHubs_stks (s : State) (v : Tab Hub) : (s.putHubs v).stks = s.stks := rfl
@[simp] theorem State.putHubs_chans (s : State) (v : Tab Hub) : (s.putHubs v).chans = s.chans := rfl
@[simp] theorem State.putHubs_nbus (s : State) (v : Tab Hub) : (s.putHubs v).nbus = s.nbus := rfl
@[simp] theorem State.putHubs_crus (s : State) (v : Tab Hub) : (s.putHubs v).crus = s.crus := rfl
@[simp] theorem State.putHubs_me (s : State) (v : Tab Hub) : (s.putHubs v).me = s.me := rfl
@[simp] theorem State.putHubs_ve (s : State) (v : Tab Hub) : (s.putHubs v).ve = s.ve := rfl
@[simp] theorem State.putHubs_vfiles (s : State) (v : Tab Hub) : (s.putHubs v).vfiles = s.vfiles := rfl
@[simp] theorem State.putHubs_fe (s : State) (v : Tab Hub) : (s.putHubs v).fe = s.fe := rfl
@[simp] theorem State.putHubs_sp (s : State) (v : Tab Hub) : (s.putHubs v).sp = s.sp := rfl
@[simp] theorem State.putHubs_spPois (s : State) (v : Tab Hub) : (s.putHubs v).spPois = s.spPois := rfl
@[simp] theorem State.putHubs_ctxs (s : State) (v : Tab Hub) : (s.putHubs v).ctxs = s.ctxs := rfl
@[simp] theorem State.putHubs_parts (s : State) (v : Tab Hub) : (s.putHubs v).parts = s.parts := rfl
@[simp] theorem State.putHubs_pages (s : State) (v : Tab Hub) : (s.putHubs v).pages = s.pages := rfl
@[simp] theorem State.putHubs_streams (s : State) (v : Tab Hub) : (s.putHubs v).streams = s.streams := rfl
@[simp] theorem State.putHubs_ports (s : State) (v : Tab Hub) : (s.putHubs v).ports = s.ports := rfl
@[simp] theorem State.putHubs_dirs (s : State) (v : Tab Hub) : (s.putHubs v).dirs = s.dirs := rfl
@[simp] theorem State.putHubs_lines (s : State) (v : Tab Hub) : (s.putHubs v).lines = s.lines := rfl
@[simp] theorem State.putHubs_trans (s : State) (v : Tab Hub) : (s.putHubs v).trans = s.trans := rfl
@[simp] theorem State.putHubs_lands (s : State) (v : Tab Hub) : (s.putHubs v).lands = s.lands := rfl
@[simp] theorem State.putHubs_xacts (s : State) (v : Tab Hub) : (s.putHubs v).xacts = s.xacts := rfl
@[simp] theorem State.putHubs_routes (s : State) (v : Tab Hub) : (s.putHubs v).routes = s.routes := rfl
@[simp] theorem State.putHubs_admits (s : State) (v : Tab Hub) : (s.putHubs v).admits = s.admits := rfl
@[simp] theorem State.putHubs_groups (s : State) (v : Tab Hub) : (s.putHubs v).groups = s.groups := rfl
@[simp] theorem State.putHubs_fw (s : State) (v : Tab Hub) : (s.putHubs v).fw = s.fw := rfl
@[simp] theorem State.putHubs_logs (s : State) (v : Tab Hub) : (s.putHubs v).logs = s.logs := rfl
@[simp] theorem State.putHubs_pm (s : State) (v : Tab Hub) : (s.putHubs v).pm = s.pm := rfl
@[simp] theorem State.putHubs_tmap (s : State) (v : Tab Hub) : (s.putHubs v).tmap = s.tmap := rfl
@[simp] theorem State.putHubs_act (s : State) (v : Tab Hub) : (s.putHubs v).act = s.act := rfl
@[simp] theorem State.putHubs_out (s : State) (v : Tab Hub) : (s.putHubs v).out = s.out := rfl
@[simp] theorem State.putHubs_members (s : State) (v : Tab Hub) :
    (∀ j, (s.putHubs v).slot j = s.slot j) ∧
    (∀ j, (s.putHubs v).parcel j = s.parcel j) ∧
    (∀ j, (s.putHubs v).memByte j = s.memByte j) ∧
    (∀ j, (s.putHubs v).colBad j = s.colBad j) ∧
    (∀ j, (s.putHubs v).row j = s.row j) ∧
    (∀ j, (s.putHubs v).bspare j = s.bspare j) ∧
    (∀ j, (s.putHubs v).stack j = s.stack j) ∧
    (∀ j, (s.putHubs v).chan j = s.chan j) ∧
    (∀ j, (s.putHubs v).nbu j = s.nbu j) ∧
    (∀ j, (s.putHubs v).cru j = s.cru j) ∧
    (∀ j, (s.putHubs v).mat j = s.mat j) ∧
    (∀ j, (s.putHubs v).vec j = s.vec j) ∧
    (∀ j, (s.putHubs v).vfile j = s.vfile j) ∧
    (∀ j, (s.putHubs v).fchan j = s.fchan j) ∧
    (∀ j, (s.putHubs v).spByte j = s.spByte j) ∧
    (∀ j, (s.putHubs v).spBad j = s.spBad j) ∧
    (∀ j, (s.putHubs v).ctx j = s.ctx j) ∧
    (∀ j, (s.putHubs v).part j = s.part j) ∧
    (∀ j, (s.putHubs v).page j = s.page j) ∧
    (∀ j, (s.putHubs v).stream j = s.stream j) ∧
    (∀ j, (s.putHubs v).hport j = s.hport j) ∧
    (∀ j, (s.putHubs v).dir j = s.dir j) ∧
    (∀ j, (s.putHubs v).tran j = s.tran j) ∧
    (∀ j, (s.putHubs v).landing j = s.landing j) ∧
    (∀ j, (s.putHubs v).route j = s.route j) ∧
    (∀ j, (s.putHubs v).admission j = s.admission j) ∧
    (∀ j, (s.putHubs v).group j = s.group j) ∧
    (∀ j, (s.putHubs v).counter j = s.counter j) := by
  and_intros <;> exact fun _ => rfl
@[simp] theorem State.putFe_fe (s : State) (v : Tab FeChan) : (s.putFe v).fe = v := rfl
@[simp] theorem State.putFe_pending (s : State) (v : Tab FeChan) : (s.putFe v).pending = s.pending := rfl
@[simp] theorem State.putFe_cyc (s : State) (v : Tab FeChan) : (s.putFe v).cyc = s.cyc := rfl
@[simp] theorem State.putFe_free (s : State) (v : Tab FeChan) : (s.putFe v).free = s.free := rfl
@[simp] theorem State.putFe_half (s : State) (v : Tab FeChan) : (s.putFe v).half = s.half := rfl
@[simp] theorem State.putFe_regs (s : State) (v : Tab FeChan) : (s.putFe v).regs = s.regs := rfl
@[simp] theorem State.putFe_boot (s : State) (v : Tab FeChan) : (s.putFe v).boot = s.boot := rfl
@[simp] theorem State.putFe_power (s : State) (v : Tab FeChan) : (s.putFe v).power = s.power := rfl
@[simp] theorem State.putFe_slots (s : State) (v : Tab FeChan) : (s.putFe v).slots = s.slots := rfl
@[simp] theorem State.putFe_parcels (s : State) (v : Tab FeChan) : (s.putFe v).parcels = s.parcels := rfl
@[simp] theorem State.putFe_mem (s : State) (v : Tab FeChan) : (s.putFe v).mem = s.mem := rfl
@[simp] theorem State.putFe_pois (s : State) (v : Tab FeChan) : (s.putFe v).pois = s.pois := rfl
@[simp] theorem State.putFe_rows (s : State) (v : Tab FeChan) : (s.putFe v).rows = s.rows := rfl
@[simp] theorem State.putFe_bspares (s : State) (v : Tab FeChan) : (s.putFe v).bspares = s.bspares := rfl
@[simp] theorem State.putFe_stks (s : State) (v : Tab FeChan) : (s.putFe v).stks = s.stks := rfl
@[simp] theorem State.putFe_chans (s : State) (v : Tab FeChan) : (s.putFe v).chans = s.chans := rfl
@[simp] theorem State.putFe_nbus (s : State) (v : Tab FeChan) : (s.putFe v).nbus = s.nbus := rfl
@[simp] theorem State.putFe_crus (s : State) (v : Tab FeChan) : (s.putFe v).crus = s.crus := rfl
@[simp] theorem State.putFe_hubs (s : State) (v : Tab FeChan) : (s.putFe v).hubs = s.hubs := rfl
@[simp] theorem State.putFe_me (s : State) (v : Tab FeChan) : (s.putFe v).me = s.me := rfl
@[simp] theorem State.putFe_ve (s : State) (v : Tab FeChan) : (s.putFe v).ve = s.ve := rfl
@[simp] theorem State.putFe_vfiles (s : State) (v : Tab FeChan) : (s.putFe v).vfiles = s.vfiles := rfl
@[simp] theorem State.putFe_sp (s : State) (v : Tab FeChan) : (s.putFe v).sp = s.sp := rfl
@[simp] theorem State.putFe_spPois (s : State) (v : Tab FeChan) : (s.putFe v).spPois = s.spPois := rfl
@[simp] theorem State.putFe_ctxs (s : State) (v : Tab FeChan) : (s.putFe v).ctxs = s.ctxs := rfl
@[simp] theorem State.putFe_parts (s : State) (v : Tab FeChan) : (s.putFe v).parts = s.parts := rfl
@[simp] theorem State.putFe_pages (s : State) (v : Tab FeChan) : (s.putFe v).pages = s.pages := rfl
@[simp] theorem State.putFe_streams (s : State) (v : Tab FeChan) : (s.putFe v).streams = s.streams := rfl
@[simp] theorem State.putFe_ports (s : State) (v : Tab FeChan) : (s.putFe v).ports = s.ports := rfl
@[simp] theorem State.putFe_dirs (s : State) (v : Tab FeChan) : (s.putFe v).dirs = s.dirs := rfl
@[simp] theorem State.putFe_lines (s : State) (v : Tab FeChan) : (s.putFe v).lines = s.lines := rfl
@[simp] theorem State.putFe_trans (s : State) (v : Tab FeChan) : (s.putFe v).trans = s.trans := rfl
@[simp] theorem State.putFe_lands (s : State) (v : Tab FeChan) : (s.putFe v).lands = s.lands := rfl
@[simp] theorem State.putFe_xacts (s : State) (v : Tab FeChan) : (s.putFe v).xacts = s.xacts := rfl
@[simp] theorem State.putFe_routes (s : State) (v : Tab FeChan) : (s.putFe v).routes = s.routes := rfl
@[simp] theorem State.putFe_admits (s : State) (v : Tab FeChan) : (s.putFe v).admits = s.admits := rfl
@[simp] theorem State.putFe_groups (s : State) (v : Tab FeChan) : (s.putFe v).groups = s.groups := rfl
@[simp] theorem State.putFe_fw (s : State) (v : Tab FeChan) : (s.putFe v).fw = s.fw := rfl
@[simp] theorem State.putFe_logs (s : State) (v : Tab FeChan) : (s.putFe v).logs = s.logs := rfl
@[simp] theorem State.putFe_pm (s : State) (v : Tab FeChan) : (s.putFe v).pm = s.pm := rfl
@[simp] theorem State.putFe_tmap (s : State) (v : Tab FeChan) : (s.putFe v).tmap = s.tmap := rfl
@[simp] theorem State.putFe_act (s : State) (v : Tab FeChan) : (s.putFe v).act = s.act := rfl
@[simp] theorem State.putFe_out (s : State) (v : Tab FeChan) : (s.putFe v).out = s.out := rfl
@[simp] theorem State.putFe_members (s : State) (v : Tab FeChan) :
    (∀ j, (s.putFe v).slot j = s.slot j) ∧
    (∀ j, (s.putFe v).parcel j = s.parcel j) ∧
    (∀ j, (s.putFe v).memByte j = s.memByte j) ∧
    (∀ j, (s.putFe v).colBad j = s.colBad j) ∧
    (∀ j, (s.putFe v).row j = s.row j) ∧
    (∀ j, (s.putFe v).bspare j = s.bspare j) ∧
    (∀ j, (s.putFe v).stack j = s.stack j) ∧
    (∀ j, (s.putFe v).chan j = s.chan j) ∧
    (∀ j, (s.putFe v).nbu j = s.nbu j) ∧
    (∀ j, (s.putFe v).cru j = s.cru j) ∧
    (∀ j, (s.putFe v).hub j = s.hub j) ∧
    (∀ j, (s.putFe v).mat j = s.mat j) ∧
    (∀ j, (s.putFe v).vec j = s.vec j) ∧
    (∀ j, (s.putFe v).vfile j = s.vfile j) ∧
    (∀ j, (s.putFe v).spByte j = s.spByte j) ∧
    (∀ j, (s.putFe v).spBad j = s.spBad j) ∧
    (∀ j, (s.putFe v).ctx j = s.ctx j) ∧
    (∀ j, (s.putFe v).part j = s.part j) ∧
    (∀ j, (s.putFe v).page j = s.page j) ∧
    (∀ j, (s.putFe v).stream j = s.stream j) ∧
    (∀ j, (s.putFe v).hport j = s.hport j) ∧
    (∀ j, (s.putFe v).dir j = s.dir j) ∧
    (∀ j, (s.putFe v).tran j = s.tran j) ∧
    (∀ j, (s.putFe v).landing j = s.landing j) ∧
    (∀ j, (s.putFe v).route j = s.route j) ∧
    (∀ j, (s.putFe v).admission j = s.admission j) ∧
    (∀ j, (s.putFe v).group j = s.group j) ∧
    (∀ j, (s.putFe v).counter j = s.counter j) := by
  and_intros <;> exact fun _ => rfl
@[simp] theorem State.putSp_sp (s : State) (v : Tab (BitVec 8)) : (s.putSp v).sp = v := rfl
@[simp] theorem State.putSp_pending (s : State) (v : Tab (BitVec 8)) : (s.putSp v).pending = s.pending := rfl
@[simp] theorem State.putSp_cyc (s : State) (v : Tab (BitVec 8)) : (s.putSp v).cyc = s.cyc := rfl
@[simp] theorem State.putSp_free (s : State) (v : Tab (BitVec 8)) : (s.putSp v).free = s.free := rfl
@[simp] theorem State.putSp_half (s : State) (v : Tab (BitVec 8)) : (s.putSp v).half = s.half := rfl
@[simp] theorem State.putSp_regs (s : State) (v : Tab (BitVec 8)) : (s.putSp v).regs = s.regs := rfl
@[simp] theorem State.putSp_boot (s : State) (v : Tab (BitVec 8)) : (s.putSp v).boot = s.boot := rfl
@[simp] theorem State.putSp_power (s : State) (v : Tab (BitVec 8)) : (s.putSp v).power = s.power := rfl
@[simp] theorem State.putSp_slots (s : State) (v : Tab (BitVec 8)) : (s.putSp v).slots = s.slots := rfl
@[simp] theorem State.putSp_parcels (s : State) (v : Tab (BitVec 8)) : (s.putSp v).parcels = s.parcels := rfl
@[simp] theorem State.putSp_mem (s : State) (v : Tab (BitVec 8)) : (s.putSp v).mem = s.mem := rfl
@[simp] theorem State.putSp_pois (s : State) (v : Tab (BitVec 8)) : (s.putSp v).pois = s.pois := rfl
@[simp] theorem State.putSp_rows (s : State) (v : Tab (BitVec 8)) : (s.putSp v).rows = s.rows := rfl
@[simp] theorem State.putSp_bspares (s : State) (v : Tab (BitVec 8)) : (s.putSp v).bspares = s.bspares := rfl
@[simp] theorem State.putSp_stks (s : State) (v : Tab (BitVec 8)) : (s.putSp v).stks = s.stks := rfl
@[simp] theorem State.putSp_chans (s : State) (v : Tab (BitVec 8)) : (s.putSp v).chans = s.chans := rfl
@[simp] theorem State.putSp_nbus (s : State) (v : Tab (BitVec 8)) : (s.putSp v).nbus = s.nbus := rfl
@[simp] theorem State.putSp_crus (s : State) (v : Tab (BitVec 8)) : (s.putSp v).crus = s.crus := rfl
@[simp] theorem State.putSp_hubs (s : State) (v : Tab (BitVec 8)) : (s.putSp v).hubs = s.hubs := rfl
@[simp] theorem State.putSp_me (s : State) (v : Tab (BitVec 8)) : (s.putSp v).me = s.me := rfl
@[simp] theorem State.putSp_ve (s : State) (v : Tab (BitVec 8)) : (s.putSp v).ve = s.ve := rfl
@[simp] theorem State.putSp_vfiles (s : State) (v : Tab (BitVec 8)) : (s.putSp v).vfiles = s.vfiles := rfl
@[simp] theorem State.putSp_fe (s : State) (v : Tab (BitVec 8)) : (s.putSp v).fe = s.fe := rfl
@[simp] theorem State.putSp_spPois (s : State) (v : Tab (BitVec 8)) : (s.putSp v).spPois = s.spPois := rfl
@[simp] theorem State.putSp_ctxs (s : State) (v : Tab (BitVec 8)) : (s.putSp v).ctxs = s.ctxs := rfl
@[simp] theorem State.putSp_parts (s : State) (v : Tab (BitVec 8)) : (s.putSp v).parts = s.parts := rfl
@[simp] theorem State.putSp_pages (s : State) (v : Tab (BitVec 8)) : (s.putSp v).pages = s.pages := rfl
@[simp] theorem State.putSp_streams (s : State) (v : Tab (BitVec 8)) : (s.putSp v).streams = s.streams := rfl
@[simp] theorem State.putSp_ports (s : State) (v : Tab (BitVec 8)) : (s.putSp v).ports = s.ports := rfl
@[simp] theorem State.putSp_dirs (s : State) (v : Tab (BitVec 8)) : (s.putSp v).dirs = s.dirs := rfl
@[simp] theorem State.putSp_lines (s : State) (v : Tab (BitVec 8)) : (s.putSp v).lines = s.lines := rfl
@[simp] theorem State.putSp_trans (s : State) (v : Tab (BitVec 8)) : (s.putSp v).trans = s.trans := rfl
@[simp] theorem State.putSp_lands (s : State) (v : Tab (BitVec 8)) : (s.putSp v).lands = s.lands := rfl
@[simp] theorem State.putSp_xacts (s : State) (v : Tab (BitVec 8)) : (s.putSp v).xacts = s.xacts := rfl
@[simp] theorem State.putSp_routes (s : State) (v : Tab (BitVec 8)) : (s.putSp v).routes = s.routes := rfl
@[simp] theorem State.putSp_admits (s : State) (v : Tab (BitVec 8)) : (s.putSp v).admits = s.admits := rfl
@[simp] theorem State.putSp_groups (s : State) (v : Tab (BitVec 8)) : (s.putSp v).groups = s.groups := rfl
@[simp] theorem State.putSp_fw (s : State) (v : Tab (BitVec 8)) : (s.putSp v).fw = s.fw := rfl
@[simp] theorem State.putSp_logs (s : State) (v : Tab (BitVec 8)) : (s.putSp v).logs = s.logs := rfl
@[simp] theorem State.putSp_pm (s : State) (v : Tab (BitVec 8)) : (s.putSp v).pm = s.pm := rfl
@[simp] theorem State.putSp_tmap (s : State) (v : Tab (BitVec 8)) : (s.putSp v).tmap = s.tmap := rfl
@[simp] theorem State.putSp_act (s : State) (v : Tab (BitVec 8)) : (s.putSp v).act = s.act := rfl
@[simp] theorem State.putSp_out (s : State) (v : Tab (BitVec 8)) : (s.putSp v).out = s.out := rfl
@[simp] theorem State.putSp_members (s : State) (v : Tab (BitVec 8)) :
    (∀ j, (s.putSp v).slot j = s.slot j) ∧
    (∀ j, (s.putSp v).parcel j = s.parcel j) ∧
    (∀ j, (s.putSp v).memByte j = s.memByte j) ∧
    (∀ j, (s.putSp v).colBad j = s.colBad j) ∧
    (∀ j, (s.putSp v).row j = s.row j) ∧
    (∀ j, (s.putSp v).bspare j = s.bspare j) ∧
    (∀ j, (s.putSp v).stack j = s.stack j) ∧
    (∀ j, (s.putSp v).chan j = s.chan j) ∧
    (∀ j, (s.putSp v).nbu j = s.nbu j) ∧
    (∀ j, (s.putSp v).cru j = s.cru j) ∧
    (∀ j, (s.putSp v).hub j = s.hub j) ∧
    (∀ j, (s.putSp v).mat j = s.mat j) ∧
    (∀ j, (s.putSp v).vec j = s.vec j) ∧
    (∀ j, (s.putSp v).vfile j = s.vfile j) ∧
    (∀ j, (s.putSp v).fchan j = s.fchan j) ∧
    (∀ j, (s.putSp v).spBad j = s.spBad j) ∧
    (∀ j, (s.putSp v).ctx j = s.ctx j) ∧
    (∀ j, (s.putSp v).part j = s.part j) ∧
    (∀ j, (s.putSp v).page j = s.page j) ∧
    (∀ j, (s.putSp v).stream j = s.stream j) ∧
    (∀ j, (s.putSp v).hport j = s.hport j) ∧
    (∀ j, (s.putSp v).dir j = s.dir j) ∧
    (∀ j, (s.putSp v).tran j = s.tran j) ∧
    (∀ j, (s.putSp v).landing j = s.landing j) ∧
    (∀ j, (s.putSp v).route j = s.route j) ∧
    (∀ j, (s.putSp v).admission j = s.admission j) ∧
    (∀ j, (s.putSp v).group j = s.group j) ∧
    (∀ j, (s.putSp v).counter j = s.counter j) := by
  and_intros <;> exact fun _ => rfl
@[simp] theorem State.putSpPois_spPois (s : State) (v : Tab Bool) : (s.putSpPois v).spPois = v := rfl
@[simp] theorem State.putSpPois_pending (s : State) (v : Tab Bool) : (s.putSpPois v).pending = s.pending := rfl
@[simp] theorem State.putSpPois_cyc (s : State) (v : Tab Bool) : (s.putSpPois v).cyc = s.cyc := rfl
@[simp] theorem State.putSpPois_free (s : State) (v : Tab Bool) : (s.putSpPois v).free = s.free := rfl
@[simp] theorem State.putSpPois_half (s : State) (v : Tab Bool) : (s.putSpPois v).half = s.half := rfl
@[simp] theorem State.putSpPois_regs (s : State) (v : Tab Bool) : (s.putSpPois v).regs = s.regs := rfl
@[simp] theorem State.putSpPois_boot (s : State) (v : Tab Bool) : (s.putSpPois v).boot = s.boot := rfl
@[simp] theorem State.putSpPois_power (s : State) (v : Tab Bool) : (s.putSpPois v).power = s.power := rfl
@[simp] theorem State.putSpPois_slots (s : State) (v : Tab Bool) : (s.putSpPois v).slots = s.slots := rfl
@[simp] theorem State.putSpPois_parcels (s : State) (v : Tab Bool) : (s.putSpPois v).parcels = s.parcels := rfl
@[simp] theorem State.putSpPois_mem (s : State) (v : Tab Bool) : (s.putSpPois v).mem = s.mem := rfl
@[simp] theorem State.putSpPois_pois (s : State) (v : Tab Bool) : (s.putSpPois v).pois = s.pois := rfl
@[simp] theorem State.putSpPois_rows (s : State) (v : Tab Bool) : (s.putSpPois v).rows = s.rows := rfl
@[simp] theorem State.putSpPois_bspares (s : State) (v : Tab Bool) : (s.putSpPois v).bspares = s.bspares := rfl
@[simp] theorem State.putSpPois_stks (s : State) (v : Tab Bool) : (s.putSpPois v).stks = s.stks := rfl
@[simp] theorem State.putSpPois_chans (s : State) (v : Tab Bool) : (s.putSpPois v).chans = s.chans := rfl
@[simp] theorem State.putSpPois_nbus (s : State) (v : Tab Bool) : (s.putSpPois v).nbus = s.nbus := rfl
@[simp] theorem State.putSpPois_crus (s : State) (v : Tab Bool) : (s.putSpPois v).crus = s.crus := rfl
@[simp] theorem State.putSpPois_hubs (s : State) (v : Tab Bool) : (s.putSpPois v).hubs = s.hubs := rfl
@[simp] theorem State.putSpPois_me (s : State) (v : Tab Bool) : (s.putSpPois v).me = s.me := rfl
@[simp] theorem State.putSpPois_ve (s : State) (v : Tab Bool) : (s.putSpPois v).ve = s.ve := rfl
@[simp] theorem State.putSpPois_vfiles (s : State) (v : Tab Bool) : (s.putSpPois v).vfiles = s.vfiles := rfl
@[simp] theorem State.putSpPois_fe (s : State) (v : Tab Bool) : (s.putSpPois v).fe = s.fe := rfl
@[simp] theorem State.putSpPois_sp (s : State) (v : Tab Bool) : (s.putSpPois v).sp = s.sp := rfl
@[simp] theorem State.putSpPois_ctxs (s : State) (v : Tab Bool) : (s.putSpPois v).ctxs = s.ctxs := rfl
@[simp] theorem State.putSpPois_parts (s : State) (v : Tab Bool) : (s.putSpPois v).parts = s.parts := rfl
@[simp] theorem State.putSpPois_pages (s : State) (v : Tab Bool) : (s.putSpPois v).pages = s.pages := rfl
@[simp] theorem State.putSpPois_streams (s : State) (v : Tab Bool) : (s.putSpPois v).streams = s.streams := rfl
@[simp] theorem State.putSpPois_ports (s : State) (v : Tab Bool) : (s.putSpPois v).ports = s.ports := rfl
@[simp] theorem State.putSpPois_dirs (s : State) (v : Tab Bool) : (s.putSpPois v).dirs = s.dirs := rfl
@[simp] theorem State.putSpPois_lines (s : State) (v : Tab Bool) : (s.putSpPois v).lines = s.lines := rfl
@[simp] theorem State.putSpPois_trans (s : State) (v : Tab Bool) : (s.putSpPois v).trans = s.trans := rfl
@[simp] theorem State.putSpPois_lands (s : State) (v : Tab Bool) : (s.putSpPois v).lands = s.lands := rfl
@[simp] theorem State.putSpPois_xacts (s : State) (v : Tab Bool) : (s.putSpPois v).xacts = s.xacts := rfl
@[simp] theorem State.putSpPois_routes (s : State) (v : Tab Bool) : (s.putSpPois v).routes = s.routes := rfl
@[simp] theorem State.putSpPois_admits (s : State) (v : Tab Bool) : (s.putSpPois v).admits = s.admits := rfl
@[simp] theorem State.putSpPois_groups (s : State) (v : Tab Bool) : (s.putSpPois v).groups = s.groups := rfl
@[simp] theorem State.putSpPois_fw (s : State) (v : Tab Bool) : (s.putSpPois v).fw = s.fw := rfl
@[simp] theorem State.putSpPois_logs (s : State) (v : Tab Bool) : (s.putSpPois v).logs = s.logs := rfl
@[simp] theorem State.putSpPois_pm (s : State) (v : Tab Bool) : (s.putSpPois v).pm = s.pm := rfl
@[simp] theorem State.putSpPois_tmap (s : State) (v : Tab Bool) : (s.putSpPois v).tmap = s.tmap := rfl
@[simp] theorem State.putSpPois_act (s : State) (v : Tab Bool) : (s.putSpPois v).act = s.act := rfl
@[simp] theorem State.putSpPois_out (s : State) (v : Tab Bool) : (s.putSpPois v).out = s.out := rfl
@[simp] theorem State.putSpPois_members (s : State) (v : Tab Bool) :
    (∀ j, (s.putSpPois v).slot j = s.slot j) ∧
    (∀ j, (s.putSpPois v).parcel j = s.parcel j) ∧
    (∀ j, (s.putSpPois v).memByte j = s.memByte j) ∧
    (∀ j, (s.putSpPois v).colBad j = s.colBad j) ∧
    (∀ j, (s.putSpPois v).row j = s.row j) ∧
    (∀ j, (s.putSpPois v).bspare j = s.bspare j) ∧
    (∀ j, (s.putSpPois v).stack j = s.stack j) ∧
    (∀ j, (s.putSpPois v).chan j = s.chan j) ∧
    (∀ j, (s.putSpPois v).nbu j = s.nbu j) ∧
    (∀ j, (s.putSpPois v).cru j = s.cru j) ∧
    (∀ j, (s.putSpPois v).hub j = s.hub j) ∧
    (∀ j, (s.putSpPois v).mat j = s.mat j) ∧
    (∀ j, (s.putSpPois v).vec j = s.vec j) ∧
    (∀ j, (s.putSpPois v).vfile j = s.vfile j) ∧
    (∀ j, (s.putSpPois v).fchan j = s.fchan j) ∧
    (∀ j, (s.putSpPois v).spByte j = s.spByte j) ∧
    (∀ j, (s.putSpPois v).ctx j = s.ctx j) ∧
    (∀ j, (s.putSpPois v).part j = s.part j) ∧
    (∀ j, (s.putSpPois v).page j = s.page j) ∧
    (∀ j, (s.putSpPois v).stream j = s.stream j) ∧
    (∀ j, (s.putSpPois v).hport j = s.hport j) ∧
    (∀ j, (s.putSpPois v).dir j = s.dir j) ∧
    (∀ j, (s.putSpPois v).tran j = s.tran j) ∧
    (∀ j, (s.putSpPois v).landing j = s.landing j) ∧
    (∀ j, (s.putSpPois v).route j = s.route j) ∧
    (∀ j, (s.putSpPois v).admission j = s.admission j) ∧
    (∀ j, (s.putSpPois v).group j = s.group j) ∧
    (∀ j, (s.putSpPois v).counter j = s.counter j) := by
  and_intros <;> exact fun _ => rfl
@[simp] theorem State.putCtxs_ctxs (s : State) (v : Tab Ctx) : (s.putCtxs v).ctxs = v := rfl
@[simp] theorem State.putCtxs_pending (s : State) (v : Tab Ctx) : (s.putCtxs v).pending = s.pending := rfl
@[simp] theorem State.putCtxs_cyc (s : State) (v : Tab Ctx) : (s.putCtxs v).cyc = s.cyc := rfl
@[simp] theorem State.putCtxs_free (s : State) (v : Tab Ctx) : (s.putCtxs v).free = s.free := rfl
@[simp] theorem State.putCtxs_half (s : State) (v : Tab Ctx) : (s.putCtxs v).half = s.half := rfl
@[simp] theorem State.putCtxs_regs (s : State) (v : Tab Ctx) : (s.putCtxs v).regs = s.regs := rfl
@[simp] theorem State.putCtxs_boot (s : State) (v : Tab Ctx) : (s.putCtxs v).boot = s.boot := rfl
@[simp] theorem State.putCtxs_power (s : State) (v : Tab Ctx) : (s.putCtxs v).power = s.power := rfl
@[simp] theorem State.putCtxs_slots (s : State) (v : Tab Ctx) : (s.putCtxs v).slots = s.slots := rfl
@[simp] theorem State.putCtxs_parcels (s : State) (v : Tab Ctx) : (s.putCtxs v).parcels = s.parcels := rfl
@[simp] theorem State.putCtxs_mem (s : State) (v : Tab Ctx) : (s.putCtxs v).mem = s.mem := rfl
@[simp] theorem State.putCtxs_pois (s : State) (v : Tab Ctx) : (s.putCtxs v).pois = s.pois := rfl
@[simp] theorem State.putCtxs_rows (s : State) (v : Tab Ctx) : (s.putCtxs v).rows = s.rows := rfl
@[simp] theorem State.putCtxs_bspares (s : State) (v : Tab Ctx) : (s.putCtxs v).bspares = s.bspares := rfl
@[simp] theorem State.putCtxs_stks (s : State) (v : Tab Ctx) : (s.putCtxs v).stks = s.stks := rfl
@[simp] theorem State.putCtxs_chans (s : State) (v : Tab Ctx) : (s.putCtxs v).chans = s.chans := rfl
@[simp] theorem State.putCtxs_nbus (s : State) (v : Tab Ctx) : (s.putCtxs v).nbus = s.nbus := rfl
@[simp] theorem State.putCtxs_crus (s : State) (v : Tab Ctx) : (s.putCtxs v).crus = s.crus := rfl
@[simp] theorem State.putCtxs_hubs (s : State) (v : Tab Ctx) : (s.putCtxs v).hubs = s.hubs := rfl
@[simp] theorem State.putCtxs_me (s : State) (v : Tab Ctx) : (s.putCtxs v).me = s.me := rfl
@[simp] theorem State.putCtxs_ve (s : State) (v : Tab Ctx) : (s.putCtxs v).ve = s.ve := rfl
@[simp] theorem State.putCtxs_vfiles (s : State) (v : Tab Ctx) : (s.putCtxs v).vfiles = s.vfiles := rfl
@[simp] theorem State.putCtxs_fe (s : State) (v : Tab Ctx) : (s.putCtxs v).fe = s.fe := rfl
@[simp] theorem State.putCtxs_sp (s : State) (v : Tab Ctx) : (s.putCtxs v).sp = s.sp := rfl
@[simp] theorem State.putCtxs_spPois (s : State) (v : Tab Ctx) : (s.putCtxs v).spPois = s.spPois := rfl
@[simp] theorem State.putCtxs_parts (s : State) (v : Tab Ctx) : (s.putCtxs v).parts = s.parts := rfl
@[simp] theorem State.putCtxs_pages (s : State) (v : Tab Ctx) : (s.putCtxs v).pages = s.pages := rfl
@[simp] theorem State.putCtxs_streams (s : State) (v : Tab Ctx) : (s.putCtxs v).streams = s.streams := rfl
@[simp] theorem State.putCtxs_ports (s : State) (v : Tab Ctx) : (s.putCtxs v).ports = s.ports := rfl
@[simp] theorem State.putCtxs_dirs (s : State) (v : Tab Ctx) : (s.putCtxs v).dirs = s.dirs := rfl
@[simp] theorem State.putCtxs_lines (s : State) (v : Tab Ctx) : (s.putCtxs v).lines = s.lines := rfl
@[simp] theorem State.putCtxs_trans (s : State) (v : Tab Ctx) : (s.putCtxs v).trans = s.trans := rfl
@[simp] theorem State.putCtxs_lands (s : State) (v : Tab Ctx) : (s.putCtxs v).lands = s.lands := rfl
@[simp] theorem State.putCtxs_xacts (s : State) (v : Tab Ctx) : (s.putCtxs v).xacts = s.xacts := rfl
@[simp] theorem State.putCtxs_routes (s : State) (v : Tab Ctx) : (s.putCtxs v).routes = s.routes := rfl
@[simp] theorem State.putCtxs_admits (s : State) (v : Tab Ctx) : (s.putCtxs v).admits = s.admits := rfl
@[simp] theorem State.putCtxs_groups (s : State) (v : Tab Ctx) : (s.putCtxs v).groups = s.groups := rfl
@[simp] theorem State.putCtxs_fw (s : State) (v : Tab Ctx) : (s.putCtxs v).fw = s.fw := rfl
@[simp] theorem State.putCtxs_logs (s : State) (v : Tab Ctx) : (s.putCtxs v).logs = s.logs := rfl
@[simp] theorem State.putCtxs_pm (s : State) (v : Tab Ctx) : (s.putCtxs v).pm = s.pm := rfl
@[simp] theorem State.putCtxs_tmap (s : State) (v : Tab Ctx) : (s.putCtxs v).tmap = s.tmap := rfl
@[simp] theorem State.putCtxs_act (s : State) (v : Tab Ctx) : (s.putCtxs v).act = s.act := rfl
@[simp] theorem State.putCtxs_out (s : State) (v : Tab Ctx) : (s.putCtxs v).out = s.out := rfl
@[simp] theorem State.putCtxs_members (s : State) (v : Tab Ctx) :
    (∀ j, (s.putCtxs v).slot j = s.slot j) ∧
    (∀ j, (s.putCtxs v).parcel j = s.parcel j) ∧
    (∀ j, (s.putCtxs v).memByte j = s.memByte j) ∧
    (∀ j, (s.putCtxs v).colBad j = s.colBad j) ∧
    (∀ j, (s.putCtxs v).row j = s.row j) ∧
    (∀ j, (s.putCtxs v).bspare j = s.bspare j) ∧
    (∀ j, (s.putCtxs v).stack j = s.stack j) ∧
    (∀ j, (s.putCtxs v).chan j = s.chan j) ∧
    (∀ j, (s.putCtxs v).nbu j = s.nbu j) ∧
    (∀ j, (s.putCtxs v).cru j = s.cru j) ∧
    (∀ j, (s.putCtxs v).hub j = s.hub j) ∧
    (∀ j, (s.putCtxs v).mat j = s.mat j) ∧
    (∀ j, (s.putCtxs v).vec j = s.vec j) ∧
    (∀ j, (s.putCtxs v).vfile j = s.vfile j) ∧
    (∀ j, (s.putCtxs v).fchan j = s.fchan j) ∧
    (∀ j, (s.putCtxs v).spByte j = s.spByte j) ∧
    (∀ j, (s.putCtxs v).spBad j = s.spBad j) ∧
    (∀ j, (s.putCtxs v).part j = s.part j) ∧
    (∀ j, (s.putCtxs v).page j = s.page j) ∧
    (∀ j, (s.putCtxs v).stream j = s.stream j) ∧
    (∀ j, (s.putCtxs v).hport j = s.hport j) ∧
    (∀ j, (s.putCtxs v).dir j = s.dir j) ∧
    (∀ j, (s.putCtxs v).tran j = s.tran j) ∧
    (∀ j, (s.putCtxs v).landing j = s.landing j) ∧
    (∀ j, (s.putCtxs v).route j = s.route j) ∧
    (∀ j, (s.putCtxs v).admission j = s.admission j) ∧
    (∀ j, (s.putCtxs v).group j = s.group j) ∧
    (∀ j, (s.putCtxs v).counter j = s.counter j) := by
  and_intros <;> exact fun _ => rfl
@[simp] theorem State.putParts_parts (s : State) (v : Tab Part) : (s.putParts v).parts = v := rfl
@[simp] theorem State.putParts_pending (s : State) (v : Tab Part) : (s.putParts v).pending = s.pending := rfl
@[simp] theorem State.putParts_cyc (s : State) (v : Tab Part) : (s.putParts v).cyc = s.cyc := rfl
@[simp] theorem State.putParts_free (s : State) (v : Tab Part) : (s.putParts v).free = s.free := rfl
@[simp] theorem State.putParts_half (s : State) (v : Tab Part) : (s.putParts v).half = s.half := rfl
@[simp] theorem State.putParts_regs (s : State) (v : Tab Part) : (s.putParts v).regs = s.regs := rfl
@[simp] theorem State.putParts_boot (s : State) (v : Tab Part) : (s.putParts v).boot = s.boot := rfl
@[simp] theorem State.putParts_power (s : State) (v : Tab Part) : (s.putParts v).power = s.power := rfl
@[simp] theorem State.putParts_slots (s : State) (v : Tab Part) : (s.putParts v).slots = s.slots := rfl
@[simp] theorem State.putParts_parcels (s : State) (v : Tab Part) : (s.putParts v).parcels = s.parcels := rfl
@[simp] theorem State.putParts_mem (s : State) (v : Tab Part) : (s.putParts v).mem = s.mem := rfl
@[simp] theorem State.putParts_pois (s : State) (v : Tab Part) : (s.putParts v).pois = s.pois := rfl
@[simp] theorem State.putParts_rows (s : State) (v : Tab Part) : (s.putParts v).rows = s.rows := rfl
@[simp] theorem State.putParts_bspares (s : State) (v : Tab Part) : (s.putParts v).bspares = s.bspares := rfl
@[simp] theorem State.putParts_stks (s : State) (v : Tab Part) : (s.putParts v).stks = s.stks := rfl
@[simp] theorem State.putParts_chans (s : State) (v : Tab Part) : (s.putParts v).chans = s.chans := rfl
@[simp] theorem State.putParts_nbus (s : State) (v : Tab Part) : (s.putParts v).nbus = s.nbus := rfl
@[simp] theorem State.putParts_crus (s : State) (v : Tab Part) : (s.putParts v).crus = s.crus := rfl
@[simp] theorem State.putParts_hubs (s : State) (v : Tab Part) : (s.putParts v).hubs = s.hubs := rfl
@[simp] theorem State.putParts_me (s : State) (v : Tab Part) : (s.putParts v).me = s.me := rfl
@[simp] theorem State.putParts_ve (s : State) (v : Tab Part) : (s.putParts v).ve = s.ve := rfl
@[simp] theorem State.putParts_vfiles (s : State) (v : Tab Part) : (s.putParts v).vfiles = s.vfiles := rfl
@[simp] theorem State.putParts_fe (s : State) (v : Tab Part) : (s.putParts v).fe = s.fe := rfl
@[simp] theorem State.putParts_sp (s : State) (v : Tab Part) : (s.putParts v).sp = s.sp := rfl
@[simp] theorem State.putParts_spPois (s : State) (v : Tab Part) : (s.putParts v).spPois = s.spPois := rfl
@[simp] theorem State.putParts_ctxs (s : State) (v : Tab Part) : (s.putParts v).ctxs = s.ctxs := rfl
@[simp] theorem State.putParts_pages (s : State) (v : Tab Part) : (s.putParts v).pages = s.pages := rfl
@[simp] theorem State.putParts_streams (s : State) (v : Tab Part) : (s.putParts v).streams = s.streams := rfl
@[simp] theorem State.putParts_ports (s : State) (v : Tab Part) : (s.putParts v).ports = s.ports := rfl
@[simp] theorem State.putParts_dirs (s : State) (v : Tab Part) : (s.putParts v).dirs = s.dirs := rfl
@[simp] theorem State.putParts_lines (s : State) (v : Tab Part) : (s.putParts v).lines = s.lines := rfl
@[simp] theorem State.putParts_trans (s : State) (v : Tab Part) : (s.putParts v).trans = s.trans := rfl
@[simp] theorem State.putParts_lands (s : State) (v : Tab Part) : (s.putParts v).lands = s.lands := rfl
@[simp] theorem State.putParts_xacts (s : State) (v : Tab Part) : (s.putParts v).xacts = s.xacts := rfl
@[simp] theorem State.putParts_routes (s : State) (v : Tab Part) : (s.putParts v).routes = s.routes := rfl
@[simp] theorem State.putParts_admits (s : State) (v : Tab Part) : (s.putParts v).admits = s.admits := rfl
@[simp] theorem State.putParts_groups (s : State) (v : Tab Part) : (s.putParts v).groups = s.groups := rfl
@[simp] theorem State.putParts_fw (s : State) (v : Tab Part) : (s.putParts v).fw = s.fw := rfl
@[simp] theorem State.putParts_logs (s : State) (v : Tab Part) : (s.putParts v).logs = s.logs := rfl
@[simp] theorem State.putParts_pm (s : State) (v : Tab Part) : (s.putParts v).pm = s.pm := rfl
@[simp] theorem State.putParts_tmap (s : State) (v : Tab Part) : (s.putParts v).tmap = s.tmap := rfl
@[simp] theorem State.putParts_act (s : State) (v : Tab Part) : (s.putParts v).act = s.act := rfl
@[simp] theorem State.putParts_out (s : State) (v : Tab Part) : (s.putParts v).out = s.out := rfl
@[simp] theorem State.putParts_members (s : State) (v : Tab Part) :
    (∀ j, (s.putParts v).slot j = s.slot j) ∧
    (∀ j, (s.putParts v).parcel j = s.parcel j) ∧
    (∀ j, (s.putParts v).memByte j = s.memByte j) ∧
    (∀ j, (s.putParts v).colBad j = s.colBad j) ∧
    (∀ j, (s.putParts v).row j = s.row j) ∧
    (∀ j, (s.putParts v).bspare j = s.bspare j) ∧
    (∀ j, (s.putParts v).stack j = s.stack j) ∧
    (∀ j, (s.putParts v).chan j = s.chan j) ∧
    (∀ j, (s.putParts v).nbu j = s.nbu j) ∧
    (∀ j, (s.putParts v).cru j = s.cru j) ∧
    (∀ j, (s.putParts v).hub j = s.hub j) ∧
    (∀ j, (s.putParts v).mat j = s.mat j) ∧
    (∀ j, (s.putParts v).vec j = s.vec j) ∧
    (∀ j, (s.putParts v).vfile j = s.vfile j) ∧
    (∀ j, (s.putParts v).fchan j = s.fchan j) ∧
    (∀ j, (s.putParts v).spByte j = s.spByte j) ∧
    (∀ j, (s.putParts v).spBad j = s.spBad j) ∧
    (∀ j, (s.putParts v).ctx j = s.ctx j) ∧
    (∀ j, (s.putParts v).page j = s.page j) ∧
    (∀ j, (s.putParts v).stream j = s.stream j) ∧
    (∀ j, (s.putParts v).hport j = s.hport j) ∧
    (∀ j, (s.putParts v).dir j = s.dir j) ∧
    (∀ j, (s.putParts v).tran j = s.tran j) ∧
    (∀ j, (s.putParts v).landing j = s.landing j) ∧
    (∀ j, (s.putParts v).route j = s.route j) ∧
    (∀ j, (s.putParts v).admission j = s.admission j) ∧
    (∀ j, (s.putParts v).group j = s.group j) ∧
    (∀ j, (s.putParts v).counter j = s.counter j) := by
  and_intros <;> exact fun _ => rfl
@[simp] theorem State.putPages_pages (s : State) (v : Tab Page) : (s.putPages v).pages = v := rfl
@[simp] theorem State.putPages_pending (s : State) (v : Tab Page) : (s.putPages v).pending = s.pending := rfl
@[simp] theorem State.putPages_cyc (s : State) (v : Tab Page) : (s.putPages v).cyc = s.cyc := rfl
@[simp] theorem State.putPages_free (s : State) (v : Tab Page) : (s.putPages v).free = s.free := rfl
@[simp] theorem State.putPages_half (s : State) (v : Tab Page) : (s.putPages v).half = s.half := rfl
@[simp] theorem State.putPages_regs (s : State) (v : Tab Page) : (s.putPages v).regs = s.regs := rfl
@[simp] theorem State.putPages_boot (s : State) (v : Tab Page) : (s.putPages v).boot = s.boot := rfl
@[simp] theorem State.putPages_power (s : State) (v : Tab Page) : (s.putPages v).power = s.power := rfl
@[simp] theorem State.putPages_slots (s : State) (v : Tab Page) : (s.putPages v).slots = s.slots := rfl
@[simp] theorem State.putPages_parcels (s : State) (v : Tab Page) : (s.putPages v).parcels = s.parcels := rfl
@[simp] theorem State.putPages_mem (s : State) (v : Tab Page) : (s.putPages v).mem = s.mem := rfl
@[simp] theorem State.putPages_pois (s : State) (v : Tab Page) : (s.putPages v).pois = s.pois := rfl
@[simp] theorem State.putPages_rows (s : State) (v : Tab Page) : (s.putPages v).rows = s.rows := rfl
@[simp] theorem State.putPages_bspares (s : State) (v : Tab Page) : (s.putPages v).bspares = s.bspares := rfl
@[simp] theorem State.putPages_stks (s : State) (v : Tab Page) : (s.putPages v).stks = s.stks := rfl
@[simp] theorem State.putPages_chans (s : State) (v : Tab Page) : (s.putPages v).chans = s.chans := rfl
@[simp] theorem State.putPages_nbus (s : State) (v : Tab Page) : (s.putPages v).nbus = s.nbus := rfl
@[simp] theorem State.putPages_crus (s : State) (v : Tab Page) : (s.putPages v).crus = s.crus := rfl
@[simp] theorem State.putPages_hubs (s : State) (v : Tab Page) : (s.putPages v).hubs = s.hubs := rfl
@[simp] theorem State.putPages_me (s : State) (v : Tab Page) : (s.putPages v).me = s.me := rfl
@[simp] theorem State.putPages_ve (s : State) (v : Tab Page) : (s.putPages v).ve = s.ve := rfl
@[simp] theorem State.putPages_vfiles (s : State) (v : Tab Page) : (s.putPages v).vfiles = s.vfiles := rfl
@[simp] theorem State.putPages_fe (s : State) (v : Tab Page) : (s.putPages v).fe = s.fe := rfl
@[simp] theorem State.putPages_sp (s : State) (v : Tab Page) : (s.putPages v).sp = s.sp := rfl
@[simp] theorem State.putPages_spPois (s : State) (v : Tab Page) : (s.putPages v).spPois = s.spPois := rfl
@[simp] theorem State.putPages_ctxs (s : State) (v : Tab Page) : (s.putPages v).ctxs = s.ctxs := rfl
@[simp] theorem State.putPages_parts (s : State) (v : Tab Page) : (s.putPages v).parts = s.parts := rfl
@[simp] theorem State.putPages_streams (s : State) (v : Tab Page) : (s.putPages v).streams = s.streams := rfl
@[simp] theorem State.putPages_ports (s : State) (v : Tab Page) : (s.putPages v).ports = s.ports := rfl
@[simp] theorem State.putPages_dirs (s : State) (v : Tab Page) : (s.putPages v).dirs = s.dirs := rfl
@[simp] theorem State.putPages_lines (s : State) (v : Tab Page) : (s.putPages v).lines = s.lines := rfl
@[simp] theorem State.putPages_trans (s : State) (v : Tab Page) : (s.putPages v).trans = s.trans := rfl
@[simp] theorem State.putPages_lands (s : State) (v : Tab Page) : (s.putPages v).lands = s.lands := rfl
@[simp] theorem State.putPages_xacts (s : State) (v : Tab Page) : (s.putPages v).xacts = s.xacts := rfl
@[simp] theorem State.putPages_routes (s : State) (v : Tab Page) : (s.putPages v).routes = s.routes := rfl
@[simp] theorem State.putPages_admits (s : State) (v : Tab Page) : (s.putPages v).admits = s.admits := rfl
@[simp] theorem State.putPages_groups (s : State) (v : Tab Page) : (s.putPages v).groups = s.groups := rfl
@[simp] theorem State.putPages_fw (s : State) (v : Tab Page) : (s.putPages v).fw = s.fw := rfl
@[simp] theorem State.putPages_logs (s : State) (v : Tab Page) : (s.putPages v).logs = s.logs := rfl
@[simp] theorem State.putPages_pm (s : State) (v : Tab Page) : (s.putPages v).pm = s.pm := rfl
@[simp] theorem State.putPages_tmap (s : State) (v : Tab Page) : (s.putPages v).tmap = s.tmap := rfl
@[simp] theorem State.putPages_act (s : State) (v : Tab Page) : (s.putPages v).act = s.act := rfl
@[simp] theorem State.putPages_out (s : State) (v : Tab Page) : (s.putPages v).out = s.out := rfl
@[simp] theorem State.putPages_members (s : State) (v : Tab Page) :
    (∀ j, (s.putPages v).slot j = s.slot j) ∧
    (∀ j, (s.putPages v).parcel j = s.parcel j) ∧
    (∀ j, (s.putPages v).memByte j = s.memByte j) ∧
    (∀ j, (s.putPages v).colBad j = s.colBad j) ∧
    (∀ j, (s.putPages v).row j = s.row j) ∧
    (∀ j, (s.putPages v).bspare j = s.bspare j) ∧
    (∀ j, (s.putPages v).stack j = s.stack j) ∧
    (∀ j, (s.putPages v).chan j = s.chan j) ∧
    (∀ j, (s.putPages v).nbu j = s.nbu j) ∧
    (∀ j, (s.putPages v).cru j = s.cru j) ∧
    (∀ j, (s.putPages v).hub j = s.hub j) ∧
    (∀ j, (s.putPages v).mat j = s.mat j) ∧
    (∀ j, (s.putPages v).vec j = s.vec j) ∧
    (∀ j, (s.putPages v).vfile j = s.vfile j) ∧
    (∀ j, (s.putPages v).fchan j = s.fchan j) ∧
    (∀ j, (s.putPages v).spByte j = s.spByte j) ∧
    (∀ j, (s.putPages v).spBad j = s.spBad j) ∧
    (∀ j, (s.putPages v).ctx j = s.ctx j) ∧
    (∀ j, (s.putPages v).part j = s.part j) ∧
    (∀ j, (s.putPages v).stream j = s.stream j) ∧
    (∀ j, (s.putPages v).hport j = s.hport j) ∧
    (∀ j, (s.putPages v).dir j = s.dir j) ∧
    (∀ j, (s.putPages v).tran j = s.tran j) ∧
    (∀ j, (s.putPages v).landing j = s.landing j) ∧
    (∀ j, (s.putPages v).route j = s.route j) ∧
    (∀ j, (s.putPages v).admission j = s.admission j) ∧
    (∀ j, (s.putPages v).group j = s.group j) ∧
    (∀ j, (s.putPages v).counter j = s.counter j) := by
  and_intros <;> exact fun _ => rfl
@[simp] theorem State.putPorts_ports (s : State) (v : Tab Port) : (s.putPorts v).ports = v := rfl
@[simp] theorem State.putPorts_pending (s : State) (v : Tab Port) : (s.putPorts v).pending = s.pending := rfl
@[simp] theorem State.putPorts_cyc (s : State) (v : Tab Port) : (s.putPorts v).cyc = s.cyc := rfl
@[simp] theorem State.putPorts_free (s : State) (v : Tab Port) : (s.putPorts v).free = s.free := rfl
@[simp] theorem State.putPorts_half (s : State) (v : Tab Port) : (s.putPorts v).half = s.half := rfl
@[simp] theorem State.putPorts_regs (s : State) (v : Tab Port) : (s.putPorts v).regs = s.regs := rfl
@[simp] theorem State.putPorts_boot (s : State) (v : Tab Port) : (s.putPorts v).boot = s.boot := rfl
@[simp] theorem State.putPorts_power (s : State) (v : Tab Port) : (s.putPorts v).power = s.power := rfl
@[simp] theorem State.putPorts_slots (s : State) (v : Tab Port) : (s.putPorts v).slots = s.slots := rfl
@[simp] theorem State.putPorts_parcels (s : State) (v : Tab Port) : (s.putPorts v).parcels = s.parcels := rfl
@[simp] theorem State.putPorts_mem (s : State) (v : Tab Port) : (s.putPorts v).mem = s.mem := rfl
@[simp] theorem State.putPorts_pois (s : State) (v : Tab Port) : (s.putPorts v).pois = s.pois := rfl
@[simp] theorem State.putPorts_rows (s : State) (v : Tab Port) : (s.putPorts v).rows = s.rows := rfl
@[simp] theorem State.putPorts_bspares (s : State) (v : Tab Port) : (s.putPorts v).bspares = s.bspares := rfl
@[simp] theorem State.putPorts_stks (s : State) (v : Tab Port) : (s.putPorts v).stks = s.stks := rfl
@[simp] theorem State.putPorts_chans (s : State) (v : Tab Port) : (s.putPorts v).chans = s.chans := rfl
@[simp] theorem State.putPorts_nbus (s : State) (v : Tab Port) : (s.putPorts v).nbus = s.nbus := rfl
@[simp] theorem State.putPorts_crus (s : State) (v : Tab Port) : (s.putPorts v).crus = s.crus := rfl
@[simp] theorem State.putPorts_hubs (s : State) (v : Tab Port) : (s.putPorts v).hubs = s.hubs := rfl
@[simp] theorem State.putPorts_me (s : State) (v : Tab Port) : (s.putPorts v).me = s.me := rfl
@[simp] theorem State.putPorts_ve (s : State) (v : Tab Port) : (s.putPorts v).ve = s.ve := rfl
@[simp] theorem State.putPorts_vfiles (s : State) (v : Tab Port) : (s.putPorts v).vfiles = s.vfiles := rfl
@[simp] theorem State.putPorts_fe (s : State) (v : Tab Port) : (s.putPorts v).fe = s.fe := rfl
@[simp] theorem State.putPorts_sp (s : State) (v : Tab Port) : (s.putPorts v).sp = s.sp := rfl
@[simp] theorem State.putPorts_spPois (s : State) (v : Tab Port) : (s.putPorts v).spPois = s.spPois := rfl
@[simp] theorem State.putPorts_ctxs (s : State) (v : Tab Port) : (s.putPorts v).ctxs = s.ctxs := rfl
@[simp] theorem State.putPorts_parts (s : State) (v : Tab Port) : (s.putPorts v).parts = s.parts := rfl
@[simp] theorem State.putPorts_pages (s : State) (v : Tab Port) : (s.putPorts v).pages = s.pages := rfl
@[simp] theorem State.putPorts_streams (s : State) (v : Tab Port) : (s.putPorts v).streams = s.streams := rfl
@[simp] theorem State.putPorts_dirs (s : State) (v : Tab Port) : (s.putPorts v).dirs = s.dirs := rfl
@[simp] theorem State.putPorts_lines (s : State) (v : Tab Port) : (s.putPorts v).lines = s.lines := rfl
@[simp] theorem State.putPorts_trans (s : State) (v : Tab Port) : (s.putPorts v).trans = s.trans := rfl
@[simp] theorem State.putPorts_lands (s : State) (v : Tab Port) : (s.putPorts v).lands = s.lands := rfl
@[simp] theorem State.putPorts_xacts (s : State) (v : Tab Port) : (s.putPorts v).xacts = s.xacts := rfl
@[simp] theorem State.putPorts_routes (s : State) (v : Tab Port) : (s.putPorts v).routes = s.routes := rfl
@[simp] theorem State.putPorts_admits (s : State) (v : Tab Port) : (s.putPorts v).admits = s.admits := rfl
@[simp] theorem State.putPorts_groups (s : State) (v : Tab Port) : (s.putPorts v).groups = s.groups := rfl
@[simp] theorem State.putPorts_fw (s : State) (v : Tab Port) : (s.putPorts v).fw = s.fw := rfl
@[simp] theorem State.putPorts_logs (s : State) (v : Tab Port) : (s.putPorts v).logs = s.logs := rfl
@[simp] theorem State.putPorts_pm (s : State) (v : Tab Port) : (s.putPorts v).pm = s.pm := rfl
@[simp] theorem State.putPorts_tmap (s : State) (v : Tab Port) : (s.putPorts v).tmap = s.tmap := rfl
@[simp] theorem State.putPorts_act (s : State) (v : Tab Port) : (s.putPorts v).act = s.act := rfl
@[simp] theorem State.putPorts_out (s : State) (v : Tab Port) : (s.putPorts v).out = s.out := rfl
@[simp] theorem State.putPorts_members (s : State) (v : Tab Port) :
    (∀ j, (s.putPorts v).slot j = s.slot j) ∧
    (∀ j, (s.putPorts v).parcel j = s.parcel j) ∧
    (∀ j, (s.putPorts v).memByte j = s.memByte j) ∧
    (∀ j, (s.putPorts v).colBad j = s.colBad j) ∧
    (∀ j, (s.putPorts v).row j = s.row j) ∧
    (∀ j, (s.putPorts v).bspare j = s.bspare j) ∧
    (∀ j, (s.putPorts v).stack j = s.stack j) ∧
    (∀ j, (s.putPorts v).chan j = s.chan j) ∧
    (∀ j, (s.putPorts v).nbu j = s.nbu j) ∧
    (∀ j, (s.putPorts v).cru j = s.cru j) ∧
    (∀ j, (s.putPorts v).hub j = s.hub j) ∧
    (∀ j, (s.putPorts v).mat j = s.mat j) ∧
    (∀ j, (s.putPorts v).vec j = s.vec j) ∧
    (∀ j, (s.putPorts v).vfile j = s.vfile j) ∧
    (∀ j, (s.putPorts v).fchan j = s.fchan j) ∧
    (∀ j, (s.putPorts v).spByte j = s.spByte j) ∧
    (∀ j, (s.putPorts v).spBad j = s.spBad j) ∧
    (∀ j, (s.putPorts v).ctx j = s.ctx j) ∧
    (∀ j, (s.putPorts v).part j = s.part j) ∧
    (∀ j, (s.putPorts v).page j = s.page j) ∧
    (∀ j, (s.putPorts v).stream j = s.stream j) ∧
    (∀ j, (s.putPorts v).dir j = s.dir j) ∧
    (∀ j, (s.putPorts v).tran j = s.tran j) ∧
    (∀ j, (s.putPorts v).landing j = s.landing j) ∧
    (∀ j, (s.putPorts v).route j = s.route j) ∧
    (∀ j, (s.putPorts v).admission j = s.admission j) ∧
    (∀ j, (s.putPorts v).group j = s.group j) ∧
    (∀ j, (s.putPorts v).counter j = s.counter j) := by
  and_intros <;> exact fun _ => rfl
@[simp] theorem State.putLines_lines (s : State) (v : Tab Line) : (s.putLines v).lines = v := rfl
@[simp] theorem State.putLines_pending (s : State) (v : Tab Line) : (s.putLines v).pending = s.pending := rfl
@[simp] theorem State.putLines_cyc (s : State) (v : Tab Line) : (s.putLines v).cyc = s.cyc := rfl
@[simp] theorem State.putLines_free (s : State) (v : Tab Line) : (s.putLines v).free = s.free := rfl
@[simp] theorem State.putLines_half (s : State) (v : Tab Line) : (s.putLines v).half = s.half := rfl
@[simp] theorem State.putLines_regs (s : State) (v : Tab Line) : (s.putLines v).regs = s.regs := rfl
@[simp] theorem State.putLines_boot (s : State) (v : Tab Line) : (s.putLines v).boot = s.boot := rfl
@[simp] theorem State.putLines_power (s : State) (v : Tab Line) : (s.putLines v).power = s.power := rfl
@[simp] theorem State.putLines_slots (s : State) (v : Tab Line) : (s.putLines v).slots = s.slots := rfl
@[simp] theorem State.putLines_parcels (s : State) (v : Tab Line) : (s.putLines v).parcels = s.parcels := rfl
@[simp] theorem State.putLines_mem (s : State) (v : Tab Line) : (s.putLines v).mem = s.mem := rfl
@[simp] theorem State.putLines_pois (s : State) (v : Tab Line) : (s.putLines v).pois = s.pois := rfl
@[simp] theorem State.putLines_rows (s : State) (v : Tab Line) : (s.putLines v).rows = s.rows := rfl
@[simp] theorem State.putLines_bspares (s : State) (v : Tab Line) : (s.putLines v).bspares = s.bspares := rfl
@[simp] theorem State.putLines_stks (s : State) (v : Tab Line) : (s.putLines v).stks = s.stks := rfl
@[simp] theorem State.putLines_chans (s : State) (v : Tab Line) : (s.putLines v).chans = s.chans := rfl
@[simp] theorem State.putLines_nbus (s : State) (v : Tab Line) : (s.putLines v).nbus = s.nbus := rfl
@[simp] theorem State.putLines_crus (s : State) (v : Tab Line) : (s.putLines v).crus = s.crus := rfl
@[simp] theorem State.putLines_hubs (s : State) (v : Tab Line) : (s.putLines v).hubs = s.hubs := rfl
@[simp] theorem State.putLines_me (s : State) (v : Tab Line) : (s.putLines v).me = s.me := rfl
@[simp] theorem State.putLines_ve (s : State) (v : Tab Line) : (s.putLines v).ve = s.ve := rfl
@[simp] theorem State.putLines_vfiles (s : State) (v : Tab Line) : (s.putLines v).vfiles = s.vfiles := rfl
@[simp] theorem State.putLines_fe (s : State) (v : Tab Line) : (s.putLines v).fe = s.fe := rfl
@[simp] theorem State.putLines_sp (s : State) (v : Tab Line) : (s.putLines v).sp = s.sp := rfl
@[simp] theorem State.putLines_spPois (s : State) (v : Tab Line) : (s.putLines v).spPois = s.spPois := rfl
@[simp] theorem State.putLines_ctxs (s : State) (v : Tab Line) : (s.putLines v).ctxs = s.ctxs := rfl
@[simp] theorem State.putLines_parts (s : State) (v : Tab Line) : (s.putLines v).parts = s.parts := rfl
@[simp] theorem State.putLines_pages (s : State) (v : Tab Line) : (s.putLines v).pages = s.pages := rfl
@[simp] theorem State.putLines_streams (s : State) (v : Tab Line) : (s.putLines v).streams = s.streams := rfl
@[simp] theorem State.putLines_ports (s : State) (v : Tab Line) : (s.putLines v).ports = s.ports := rfl
@[simp] theorem State.putLines_dirs (s : State) (v : Tab Line) : (s.putLines v).dirs = s.dirs := rfl
@[simp] theorem State.putLines_trans (s : State) (v : Tab Line) : (s.putLines v).trans = s.trans := rfl
@[simp] theorem State.putLines_lands (s : State) (v : Tab Line) : (s.putLines v).lands = s.lands := rfl
@[simp] theorem State.putLines_xacts (s : State) (v : Tab Line) : (s.putLines v).xacts = s.xacts := rfl
@[simp] theorem State.putLines_routes (s : State) (v : Tab Line) : (s.putLines v).routes = s.routes := rfl
@[simp] theorem State.putLines_admits (s : State) (v : Tab Line) : (s.putLines v).admits = s.admits := rfl
@[simp] theorem State.putLines_groups (s : State) (v : Tab Line) : (s.putLines v).groups = s.groups := rfl
@[simp] theorem State.putLines_fw (s : State) (v : Tab Line) : (s.putLines v).fw = s.fw := rfl
@[simp] theorem State.putLines_logs (s : State) (v : Tab Line) : (s.putLines v).logs = s.logs := rfl
@[simp] theorem State.putLines_pm (s : State) (v : Tab Line) : (s.putLines v).pm = s.pm := rfl
@[simp] theorem State.putLines_tmap (s : State) (v : Tab Line) : (s.putLines v).tmap = s.tmap := rfl
@[simp] theorem State.putLines_act (s : State) (v : Tab Line) : (s.putLines v).act = s.act := rfl
@[simp] theorem State.putLines_out (s : State) (v : Tab Line) : (s.putLines v).out = s.out := rfl
@[simp] theorem State.putLines_members (s : State) (v : Tab Line) :
    (∀ j, (s.putLines v).slot j = s.slot j) ∧
    (∀ j, (s.putLines v).parcel j = s.parcel j) ∧
    (∀ j, (s.putLines v).memByte j = s.memByte j) ∧
    (∀ j, (s.putLines v).colBad j = s.colBad j) ∧
    (∀ j, (s.putLines v).row j = s.row j) ∧
    (∀ j, (s.putLines v).bspare j = s.bspare j) ∧
    (∀ j, (s.putLines v).stack j = s.stack j) ∧
    (∀ j, (s.putLines v).chan j = s.chan j) ∧
    (∀ j, (s.putLines v).nbu j = s.nbu j) ∧
    (∀ j, (s.putLines v).cru j = s.cru j) ∧
    (∀ j, (s.putLines v).hub j = s.hub j) ∧
    (∀ j, (s.putLines v).mat j = s.mat j) ∧
    (∀ j, (s.putLines v).vec j = s.vec j) ∧
    (∀ j, (s.putLines v).vfile j = s.vfile j) ∧
    (∀ j, (s.putLines v).fchan j = s.fchan j) ∧
    (∀ j, (s.putLines v).spByte j = s.spByte j) ∧
    (∀ j, (s.putLines v).spBad j = s.spBad j) ∧
    (∀ j, (s.putLines v).ctx j = s.ctx j) ∧
    (∀ j, (s.putLines v).part j = s.part j) ∧
    (∀ j, (s.putLines v).page j = s.page j) ∧
    (∀ j, (s.putLines v).stream j = s.stream j) ∧
    (∀ j, (s.putLines v).hport j = s.hport j) ∧
    (∀ j, (s.putLines v).dir j = s.dir j) ∧
    (∀ j, (s.putLines v).tran j = s.tran j) ∧
    (∀ j, (s.putLines v).landing j = s.landing j) ∧
    (∀ j, (s.putLines v).route j = s.route j) ∧
    (∀ j, (s.putLines v).admission j = s.admission j) ∧
    (∀ j, (s.putLines v).group j = s.group j) ∧
    (∀ j, (s.putLines v).counter j = s.counter j) := by
  and_intros <;> exact fun _ => rfl
@[simp] theorem State.putTrans_trans (s : State) (v : Tab Translator) : (s.putTrans v).trans = v := rfl
@[simp] theorem State.putTrans_pending (s : State) (v : Tab Translator) : (s.putTrans v).pending = s.pending := rfl
@[simp] theorem State.putTrans_cyc (s : State) (v : Tab Translator) : (s.putTrans v).cyc = s.cyc := rfl
@[simp] theorem State.putTrans_free (s : State) (v : Tab Translator) : (s.putTrans v).free = s.free := rfl
@[simp] theorem State.putTrans_half (s : State) (v : Tab Translator) : (s.putTrans v).half = s.half := rfl
@[simp] theorem State.putTrans_regs (s : State) (v : Tab Translator) : (s.putTrans v).regs = s.regs := rfl
@[simp] theorem State.putTrans_boot (s : State) (v : Tab Translator) : (s.putTrans v).boot = s.boot := rfl
@[simp] theorem State.putTrans_power (s : State) (v : Tab Translator) : (s.putTrans v).power = s.power := rfl
@[simp] theorem State.putTrans_slots (s : State) (v : Tab Translator) : (s.putTrans v).slots = s.slots := rfl
@[simp] theorem State.putTrans_parcels (s : State) (v : Tab Translator) : (s.putTrans v).parcels = s.parcels := rfl
@[simp] theorem State.putTrans_mem (s : State) (v : Tab Translator) : (s.putTrans v).mem = s.mem := rfl
@[simp] theorem State.putTrans_pois (s : State) (v : Tab Translator) : (s.putTrans v).pois = s.pois := rfl
@[simp] theorem State.putTrans_rows (s : State) (v : Tab Translator) : (s.putTrans v).rows = s.rows := rfl
@[simp] theorem State.putTrans_bspares (s : State) (v : Tab Translator) : (s.putTrans v).bspares = s.bspares := rfl
@[simp] theorem State.putTrans_stks (s : State) (v : Tab Translator) : (s.putTrans v).stks = s.stks := rfl
@[simp] theorem State.putTrans_chans (s : State) (v : Tab Translator) : (s.putTrans v).chans = s.chans := rfl
@[simp] theorem State.putTrans_nbus (s : State) (v : Tab Translator) : (s.putTrans v).nbus = s.nbus := rfl
@[simp] theorem State.putTrans_crus (s : State) (v : Tab Translator) : (s.putTrans v).crus = s.crus := rfl
@[simp] theorem State.putTrans_hubs (s : State) (v : Tab Translator) : (s.putTrans v).hubs = s.hubs := rfl
@[simp] theorem State.putTrans_me (s : State) (v : Tab Translator) : (s.putTrans v).me = s.me := rfl
@[simp] theorem State.putTrans_ve (s : State) (v : Tab Translator) : (s.putTrans v).ve = s.ve := rfl
@[simp] theorem State.putTrans_vfiles (s : State) (v : Tab Translator) : (s.putTrans v).vfiles = s.vfiles := rfl
@[simp] theorem State.putTrans_fe (s : State) (v : Tab Translator) : (s.putTrans v).fe = s.fe := rfl
@[simp] theorem State.putTrans_sp (s : State) (v : Tab Translator) : (s.putTrans v).sp = s.sp := rfl
@[simp] theorem State.putTrans_spPois (s : State) (v : Tab Translator) : (s.putTrans v).spPois = s.spPois := rfl
@[simp] theorem State.putTrans_ctxs (s : State) (v : Tab Translator) : (s.putTrans v).ctxs = s.ctxs := rfl
@[simp] theorem State.putTrans_parts (s : State) (v : Tab Translator) : (s.putTrans v).parts = s.parts := rfl
@[simp] theorem State.putTrans_pages (s : State) (v : Tab Translator) : (s.putTrans v).pages = s.pages := rfl
@[simp] theorem State.putTrans_streams (s : State) (v : Tab Translator) : (s.putTrans v).streams = s.streams := rfl
@[simp] theorem State.putTrans_ports (s : State) (v : Tab Translator) : (s.putTrans v).ports = s.ports := rfl
@[simp] theorem State.putTrans_dirs (s : State) (v : Tab Translator) : (s.putTrans v).dirs = s.dirs := rfl
@[simp] theorem State.putTrans_lines (s : State) (v : Tab Translator) : (s.putTrans v).lines = s.lines := rfl
@[simp] theorem State.putTrans_lands (s : State) (v : Tab Translator) : (s.putTrans v).lands = s.lands := rfl
@[simp] theorem State.putTrans_xacts (s : State) (v : Tab Translator) : (s.putTrans v).xacts = s.xacts := rfl
@[simp] theorem State.putTrans_routes (s : State) (v : Tab Translator) : (s.putTrans v).routes = s.routes := rfl
@[simp] theorem State.putTrans_admits (s : State) (v : Tab Translator) : (s.putTrans v).admits = s.admits := rfl
@[simp] theorem State.putTrans_groups (s : State) (v : Tab Translator) : (s.putTrans v).groups = s.groups := rfl
@[simp] theorem State.putTrans_fw (s : State) (v : Tab Translator) : (s.putTrans v).fw = s.fw := rfl
@[simp] theorem State.putTrans_logs (s : State) (v : Tab Translator) : (s.putTrans v).logs = s.logs := rfl
@[simp] theorem State.putTrans_pm (s : State) (v : Tab Translator) : (s.putTrans v).pm = s.pm := rfl
@[simp] theorem State.putTrans_tmap (s : State) (v : Tab Translator) : (s.putTrans v).tmap = s.tmap := rfl
@[simp] theorem State.putTrans_act (s : State) (v : Tab Translator) : (s.putTrans v).act = s.act := rfl
@[simp] theorem State.putTrans_out (s : State) (v : Tab Translator) : (s.putTrans v).out = s.out := rfl
@[simp] theorem State.putTrans_members (s : State) (v : Tab Translator) :
    (∀ j, (s.putTrans v).slot j = s.slot j) ∧
    (∀ j, (s.putTrans v).parcel j = s.parcel j) ∧
    (∀ j, (s.putTrans v).memByte j = s.memByte j) ∧
    (∀ j, (s.putTrans v).colBad j = s.colBad j) ∧
    (∀ j, (s.putTrans v).row j = s.row j) ∧
    (∀ j, (s.putTrans v).bspare j = s.bspare j) ∧
    (∀ j, (s.putTrans v).stack j = s.stack j) ∧
    (∀ j, (s.putTrans v).chan j = s.chan j) ∧
    (∀ j, (s.putTrans v).nbu j = s.nbu j) ∧
    (∀ j, (s.putTrans v).cru j = s.cru j) ∧
    (∀ j, (s.putTrans v).hub j = s.hub j) ∧
    (∀ j, (s.putTrans v).mat j = s.mat j) ∧
    (∀ j, (s.putTrans v).vec j = s.vec j) ∧
    (∀ j, (s.putTrans v).vfile j = s.vfile j) ∧
    (∀ j, (s.putTrans v).fchan j = s.fchan j) ∧
    (∀ j, (s.putTrans v).spByte j = s.spByte j) ∧
    (∀ j, (s.putTrans v).spBad j = s.spBad j) ∧
    (∀ j, (s.putTrans v).ctx j = s.ctx j) ∧
    (∀ j, (s.putTrans v).part j = s.part j) ∧
    (∀ j, (s.putTrans v).page j = s.page j) ∧
    (∀ j, (s.putTrans v).stream j = s.stream j) ∧
    (∀ j, (s.putTrans v).hport j = s.hport j) ∧
    (∀ j, (s.putTrans v).dir j = s.dir j) ∧
    (∀ j, (s.putTrans v).landing j = s.landing j) ∧
    (∀ j, (s.putTrans v).route j = s.route j) ∧
    (∀ j, (s.putTrans v).admission j = s.admission j) ∧
    (∀ j, (s.putTrans v).group j = s.group j) ∧
    (∀ j, (s.putTrans v).counter j = s.counter j) := by
  and_intros <;> exact fun _ => rfl
@[simp] theorem State.putXacts_xacts (s : State) (v : List Xact) : (s.putXacts v).xacts = v := rfl
@[simp] theorem State.putXacts_pending (s : State) (v : List Xact) : (s.putXacts v).pending = s.pending := rfl
@[simp] theorem State.putXacts_cyc (s : State) (v : List Xact) : (s.putXacts v).cyc = s.cyc := rfl
@[simp] theorem State.putXacts_free (s : State) (v : List Xact) : (s.putXacts v).free = s.free := rfl
@[simp] theorem State.putXacts_half (s : State) (v : List Xact) : (s.putXacts v).half = s.half := rfl
@[simp] theorem State.putXacts_regs (s : State) (v : List Xact) : (s.putXacts v).regs = s.regs := rfl
@[simp] theorem State.putXacts_boot (s : State) (v : List Xact) : (s.putXacts v).boot = s.boot := rfl
@[simp] theorem State.putXacts_power (s : State) (v : List Xact) : (s.putXacts v).power = s.power := rfl
@[simp] theorem State.putXacts_slots (s : State) (v : List Xact) : (s.putXacts v).slots = s.slots := rfl
@[simp] theorem State.putXacts_parcels (s : State) (v : List Xact) : (s.putXacts v).parcels = s.parcels := rfl
@[simp] theorem State.putXacts_mem (s : State) (v : List Xact) : (s.putXacts v).mem = s.mem := rfl
@[simp] theorem State.putXacts_pois (s : State) (v : List Xact) : (s.putXacts v).pois = s.pois := rfl
@[simp] theorem State.putXacts_rows (s : State) (v : List Xact) : (s.putXacts v).rows = s.rows := rfl
@[simp] theorem State.putXacts_bspares (s : State) (v : List Xact) : (s.putXacts v).bspares = s.bspares := rfl
@[simp] theorem State.putXacts_stks (s : State) (v : List Xact) : (s.putXacts v).stks = s.stks := rfl
@[simp] theorem State.putXacts_chans (s : State) (v : List Xact) : (s.putXacts v).chans = s.chans := rfl
@[simp] theorem State.putXacts_nbus (s : State) (v : List Xact) : (s.putXacts v).nbus = s.nbus := rfl
@[simp] theorem State.putXacts_crus (s : State) (v : List Xact) : (s.putXacts v).crus = s.crus := rfl
@[simp] theorem State.putXacts_hubs (s : State) (v : List Xact) : (s.putXacts v).hubs = s.hubs := rfl
@[simp] theorem State.putXacts_me (s : State) (v : List Xact) : (s.putXacts v).me = s.me := rfl
@[simp] theorem State.putXacts_ve (s : State) (v : List Xact) : (s.putXacts v).ve = s.ve := rfl
@[simp] theorem State.putXacts_vfiles (s : State) (v : List Xact) : (s.putXacts v).vfiles = s.vfiles := rfl
@[simp] theorem State.putXacts_fe (s : State) (v : List Xact) : (s.putXacts v).fe = s.fe := rfl
@[simp] theorem State.putXacts_sp (s : State) (v : List Xact) : (s.putXacts v).sp = s.sp := rfl
@[simp] theorem State.putXacts_spPois (s : State) (v : List Xact) : (s.putXacts v).spPois = s.spPois := rfl
@[simp] theorem State.putXacts_ctxs (s : State) (v : List Xact) : (s.putXacts v).ctxs = s.ctxs := rfl
@[simp] theorem State.putXacts_parts (s : State) (v : List Xact) : (s.putXacts v).parts = s.parts := rfl
@[simp] theorem State.putXacts_pages (s : State) (v : List Xact) : (s.putXacts v).pages = s.pages := rfl
@[simp] theorem State.putXacts_streams (s : State) (v : List Xact) : (s.putXacts v).streams = s.streams := rfl
@[simp] theorem State.putXacts_ports (s : State) (v : List Xact) : (s.putXacts v).ports = s.ports := rfl
@[simp] theorem State.putXacts_dirs (s : State) (v : List Xact) : (s.putXacts v).dirs = s.dirs := rfl
@[simp] theorem State.putXacts_lines (s : State) (v : List Xact) : (s.putXacts v).lines = s.lines := rfl
@[simp] theorem State.putXacts_trans (s : State) (v : List Xact) : (s.putXacts v).trans = s.trans := rfl
@[simp] theorem State.putXacts_lands (s : State) (v : List Xact) : (s.putXacts v).lands = s.lands := rfl
@[simp] theorem State.putXacts_routes (s : State) (v : List Xact) : (s.putXacts v).routes = s.routes := rfl
@[simp] theorem State.putXacts_admits (s : State) (v : List Xact) : (s.putXacts v).admits = s.admits := rfl
@[simp] theorem State.putXacts_groups (s : State) (v : List Xact) : (s.putXacts v).groups = s.groups := rfl
@[simp] theorem State.putXacts_fw (s : State) (v : List Xact) : (s.putXacts v).fw = s.fw := rfl
@[simp] theorem State.putXacts_logs (s : State) (v : List Xact) : (s.putXacts v).logs = s.logs := rfl
@[simp] theorem State.putXacts_pm (s : State) (v : List Xact) : (s.putXacts v).pm = s.pm := rfl
@[simp] theorem State.putXacts_tmap (s : State) (v : List Xact) : (s.putXacts v).tmap = s.tmap := rfl
@[simp] theorem State.putXacts_act (s : State) (v : List Xact) : (s.putXacts v).act = s.act := rfl
@[simp] theorem State.putXacts_out (s : State) (v : List Xact) : (s.putXacts v).out = s.out := rfl
@[simp] theorem State.putXacts_members (s : State) (v : List Xact) :
    (∀ j, (s.putXacts v).slot j = s.slot j) ∧
    (∀ j, (s.putXacts v).parcel j = s.parcel j) ∧
    (∀ j, (s.putXacts v).memByte j = s.memByte j) ∧
    (∀ j, (s.putXacts v).colBad j = s.colBad j) ∧
    (∀ j, (s.putXacts v).row j = s.row j) ∧
    (∀ j, (s.putXacts v).bspare j = s.bspare j) ∧
    (∀ j, (s.putXacts v).stack j = s.stack j) ∧
    (∀ j, (s.putXacts v).chan j = s.chan j) ∧
    (∀ j, (s.putXacts v).nbu j = s.nbu j) ∧
    (∀ j, (s.putXacts v).cru j = s.cru j) ∧
    (∀ j, (s.putXacts v).hub j = s.hub j) ∧
    (∀ j, (s.putXacts v).mat j = s.mat j) ∧
    (∀ j, (s.putXacts v).vec j = s.vec j) ∧
    (∀ j, (s.putXacts v).vfile j = s.vfile j) ∧
    (∀ j, (s.putXacts v).fchan j = s.fchan j) ∧
    (∀ j, (s.putXacts v).spByte j = s.spByte j) ∧
    (∀ j, (s.putXacts v).spBad j = s.spBad j) ∧
    (∀ j, (s.putXacts v).ctx j = s.ctx j) ∧
    (∀ j, (s.putXacts v).part j = s.part j) ∧
    (∀ j, (s.putXacts v).page j = s.page j) ∧
    (∀ j, (s.putXacts v).stream j = s.stream j) ∧
    (∀ j, (s.putXacts v).hport j = s.hport j) ∧
    (∀ j, (s.putXacts v).dir j = s.dir j) ∧
    (∀ j, (s.putXacts v).tran j = s.tran j) ∧
    (∀ j, (s.putXacts v).landing j = s.landing j) ∧
    (∀ j, (s.putXacts v).route j = s.route j) ∧
    (∀ j, (s.putXacts v).admission j = s.admission j) ∧
    (∀ j, (s.putXacts v).group j = s.group j) ∧
    (∀ j, (s.putXacts v).counter j = s.counter j) := by
  and_intros <;> exact fun _ => rfl
@[simp] theorem State.putFw_fw (s : State) (v : Firmware) : (s.putFw v).fw = v := rfl
@[simp] theorem State.putFw_pending (s : State) (v : Firmware) : (s.putFw v).pending = s.pending := rfl
@[simp] theorem State.putFw_cyc (s : State) (v : Firmware) : (s.putFw v).cyc = s.cyc := rfl
@[simp] theorem State.putFw_free (s : State) (v : Firmware) : (s.putFw v).free = s.free := rfl
@[simp] theorem State.putFw_half (s : State) (v : Firmware) : (s.putFw v).half = s.half := rfl
@[simp] theorem State.putFw_regs (s : State) (v : Firmware) : (s.putFw v).regs = s.regs := rfl
@[simp] theorem State.putFw_boot (s : State) (v : Firmware) : (s.putFw v).boot = s.boot := rfl
@[simp] theorem State.putFw_power (s : State) (v : Firmware) : (s.putFw v).power = s.power := rfl
@[simp] theorem State.putFw_slots (s : State) (v : Firmware) : (s.putFw v).slots = s.slots := rfl
@[simp] theorem State.putFw_parcels (s : State) (v : Firmware) : (s.putFw v).parcels = s.parcels := rfl
@[simp] theorem State.putFw_mem (s : State) (v : Firmware) : (s.putFw v).mem = s.mem := rfl
@[simp] theorem State.putFw_pois (s : State) (v : Firmware) : (s.putFw v).pois = s.pois := rfl
@[simp] theorem State.putFw_rows (s : State) (v : Firmware) : (s.putFw v).rows = s.rows := rfl
@[simp] theorem State.putFw_bspares (s : State) (v : Firmware) : (s.putFw v).bspares = s.bspares := rfl
@[simp] theorem State.putFw_stks (s : State) (v : Firmware) : (s.putFw v).stks = s.stks := rfl
@[simp] theorem State.putFw_chans (s : State) (v : Firmware) : (s.putFw v).chans = s.chans := rfl
@[simp] theorem State.putFw_nbus (s : State) (v : Firmware) : (s.putFw v).nbus = s.nbus := rfl
@[simp] theorem State.putFw_crus (s : State) (v : Firmware) : (s.putFw v).crus = s.crus := rfl
@[simp] theorem State.putFw_hubs (s : State) (v : Firmware) : (s.putFw v).hubs = s.hubs := rfl
@[simp] theorem State.putFw_me (s : State) (v : Firmware) : (s.putFw v).me = s.me := rfl
@[simp] theorem State.putFw_ve (s : State) (v : Firmware) : (s.putFw v).ve = s.ve := rfl
@[simp] theorem State.putFw_vfiles (s : State) (v : Firmware) : (s.putFw v).vfiles = s.vfiles := rfl
@[simp] theorem State.putFw_fe (s : State) (v : Firmware) : (s.putFw v).fe = s.fe := rfl
@[simp] theorem State.putFw_sp (s : State) (v : Firmware) : (s.putFw v).sp = s.sp := rfl
@[simp] theorem State.putFw_spPois (s : State) (v : Firmware) : (s.putFw v).spPois = s.spPois := rfl
@[simp] theorem State.putFw_ctxs (s : State) (v : Firmware) : (s.putFw v).ctxs = s.ctxs := rfl
@[simp] theorem State.putFw_parts (s : State) (v : Firmware) : (s.putFw v).parts = s.parts := rfl
@[simp] theorem State.putFw_pages (s : State) (v : Firmware) : (s.putFw v).pages = s.pages := rfl
@[simp] theorem State.putFw_streams (s : State) (v : Firmware) : (s.putFw v).streams = s.streams := rfl
@[simp] theorem State.putFw_ports (s : State) (v : Firmware) : (s.putFw v).ports = s.ports := rfl
@[simp] theorem State.putFw_dirs (s : State) (v : Firmware) : (s.putFw v).dirs = s.dirs := rfl
@[simp] theorem State.putFw_lines (s : State) (v : Firmware) : (s.putFw v).lines = s.lines := rfl
@[simp] theorem State.putFw_trans (s : State) (v : Firmware) : (s.putFw v).trans = s.trans := rfl
@[simp] theorem State.putFw_lands (s : State) (v : Firmware) : (s.putFw v).lands = s.lands := rfl
@[simp] theorem State.putFw_xacts (s : State) (v : Firmware) : (s.putFw v).xacts = s.xacts := rfl
@[simp] theorem State.putFw_routes (s : State) (v : Firmware) : (s.putFw v).routes = s.routes := rfl
@[simp] theorem State.putFw_admits (s : State) (v : Firmware) : (s.putFw v).admits = s.admits := rfl
@[simp] theorem State.putFw_groups (s : State) (v : Firmware) : (s.putFw v).groups = s.groups := rfl
@[simp] theorem State.putFw_logs (s : State) (v : Firmware) : (s.putFw v).logs = s.logs := rfl
@[simp] theorem State.putFw_pm (s : State) (v : Firmware) : (s.putFw v).pm = s.pm := rfl
@[simp] theorem State.putFw_tmap (s : State) (v : Firmware) : (s.putFw v).tmap = s.tmap := rfl
@[simp] theorem State.putFw_act (s : State) (v : Firmware) : (s.putFw v).act = s.act := rfl
@[simp] theorem State.putFw_out (s : State) (v : Firmware) : (s.putFw v).out = s.out := rfl
@[simp] theorem State.putFw_members (s : State) (v : Firmware) :
    (∀ j, (s.putFw v).slot j = s.slot j) ∧
    (∀ j, (s.putFw v).parcel j = s.parcel j) ∧
    (∀ j, (s.putFw v).memByte j = s.memByte j) ∧
    (∀ j, (s.putFw v).colBad j = s.colBad j) ∧
    (∀ j, (s.putFw v).row j = s.row j) ∧
    (∀ j, (s.putFw v).bspare j = s.bspare j) ∧
    (∀ j, (s.putFw v).stack j = s.stack j) ∧
    (∀ j, (s.putFw v).chan j = s.chan j) ∧
    (∀ j, (s.putFw v).nbu j = s.nbu j) ∧
    (∀ j, (s.putFw v).cru j = s.cru j) ∧
    (∀ j, (s.putFw v).hub j = s.hub j) ∧
    (∀ j, (s.putFw v).mat j = s.mat j) ∧
    (∀ j, (s.putFw v).vec j = s.vec j) ∧
    (∀ j, (s.putFw v).vfile j = s.vfile j) ∧
    (∀ j, (s.putFw v).fchan j = s.fchan j) ∧
    (∀ j, (s.putFw v).spByte j = s.spByte j) ∧
    (∀ j, (s.putFw v).spBad j = s.spBad j) ∧
    (∀ j, (s.putFw v).ctx j = s.ctx j) ∧
    (∀ j, (s.putFw v).part j = s.part j) ∧
    (∀ j, (s.putFw v).page j = s.page j) ∧
    (∀ j, (s.putFw v).stream j = s.stream j) ∧
    (∀ j, (s.putFw v).hport j = s.hport j) ∧
    (∀ j, (s.putFw v).dir j = s.dir j) ∧
    (∀ j, (s.putFw v).tran j = s.tran j) ∧
    (∀ j, (s.putFw v).landing j = s.landing j) ∧
    (∀ j, (s.putFw v).route j = s.route j) ∧
    (∀ j, (s.putFw v).admission j = s.admission j) ∧
    (∀ j, (s.putFw v).group j = s.group j) ∧
    (∀ j, (s.putFw v).counter j = s.counter j) := by
  and_intros <;> exact fun _ => rfl
@[simp] theorem State.putLogs_logs (s : State) (v : Logs) : (s.putLogs v).logs = v := rfl
@[simp] theorem State.putLogs_pending (s : State) (v : Logs) : (s.putLogs v).pending = s.pending := rfl
@[simp] theorem State.putLogs_cyc (s : State) (v : Logs) : (s.putLogs v).cyc = s.cyc := rfl
@[simp] theorem State.putLogs_free (s : State) (v : Logs) : (s.putLogs v).free = s.free := rfl
@[simp] theorem State.putLogs_half (s : State) (v : Logs) : (s.putLogs v).half = s.half := rfl
@[simp] theorem State.putLogs_regs (s : State) (v : Logs) : (s.putLogs v).regs = s.regs := rfl
@[simp] theorem State.putLogs_boot (s : State) (v : Logs) : (s.putLogs v).boot = s.boot := rfl
@[simp] theorem State.putLogs_power (s : State) (v : Logs) : (s.putLogs v).power = s.power := rfl
@[simp] theorem State.putLogs_slots (s : State) (v : Logs) : (s.putLogs v).slots = s.slots := rfl
@[simp] theorem State.putLogs_parcels (s : State) (v : Logs) : (s.putLogs v).parcels = s.parcels := rfl
@[simp] theorem State.putLogs_mem (s : State) (v : Logs) : (s.putLogs v).mem = s.mem := rfl
@[simp] theorem State.putLogs_pois (s : State) (v : Logs) : (s.putLogs v).pois = s.pois := rfl
@[simp] theorem State.putLogs_rows (s : State) (v : Logs) : (s.putLogs v).rows = s.rows := rfl
@[simp] theorem State.putLogs_bspares (s : State) (v : Logs) : (s.putLogs v).bspares = s.bspares := rfl
@[simp] theorem State.putLogs_stks (s : State) (v : Logs) : (s.putLogs v).stks = s.stks := rfl
@[simp] theorem State.putLogs_chans (s : State) (v : Logs) : (s.putLogs v).chans = s.chans := rfl
@[simp] theorem State.putLogs_nbus (s : State) (v : Logs) : (s.putLogs v).nbus = s.nbus := rfl
@[simp] theorem State.putLogs_crus (s : State) (v : Logs) : (s.putLogs v).crus = s.crus := rfl
@[simp] theorem State.putLogs_hubs (s : State) (v : Logs) : (s.putLogs v).hubs = s.hubs := rfl
@[simp] theorem State.putLogs_me (s : State) (v : Logs) : (s.putLogs v).me = s.me := rfl
@[simp] theorem State.putLogs_ve (s : State) (v : Logs) : (s.putLogs v).ve = s.ve := rfl
@[simp] theorem State.putLogs_vfiles (s : State) (v : Logs) : (s.putLogs v).vfiles = s.vfiles := rfl
@[simp] theorem State.putLogs_fe (s : State) (v : Logs) : (s.putLogs v).fe = s.fe := rfl
@[simp] theorem State.putLogs_sp (s : State) (v : Logs) : (s.putLogs v).sp = s.sp := rfl
@[simp] theorem State.putLogs_spPois (s : State) (v : Logs) : (s.putLogs v).spPois = s.spPois := rfl
@[simp] theorem State.putLogs_ctxs (s : State) (v : Logs) : (s.putLogs v).ctxs = s.ctxs := rfl
@[simp] theorem State.putLogs_parts (s : State) (v : Logs) : (s.putLogs v).parts = s.parts := rfl
@[simp] theorem State.putLogs_pages (s : State) (v : Logs) : (s.putLogs v).pages = s.pages := rfl
@[simp] theorem State.putLogs_streams (s : State) (v : Logs) : (s.putLogs v).streams = s.streams := rfl
@[simp] theorem State.putLogs_ports (s : State) (v : Logs) : (s.putLogs v).ports = s.ports := rfl
@[simp] theorem State.putLogs_dirs (s : State) (v : Logs) : (s.putLogs v).dirs = s.dirs := rfl
@[simp] theorem State.putLogs_lines (s : State) (v : Logs) : (s.putLogs v).lines = s.lines := rfl
@[simp] theorem State.putLogs_trans (s : State) (v : Logs) : (s.putLogs v).trans = s.trans := rfl
@[simp] theorem State.putLogs_lands (s : State) (v : Logs) : (s.putLogs v).lands = s.lands := rfl
@[simp] theorem State.putLogs_xacts (s : State) (v : Logs) : (s.putLogs v).xacts = s.xacts := rfl
@[simp] theorem State.putLogs_routes (s : State) (v : Logs) : (s.putLogs v).routes = s.routes := rfl
@[simp] theorem State.putLogs_admits (s : State) (v : Logs) : (s.putLogs v).admits = s.admits := rfl
@[simp] theorem State.putLogs_groups (s : State) (v : Logs) : (s.putLogs v).groups = s.groups := rfl
@[simp] theorem State.putLogs_fw (s : State) (v : Logs) : (s.putLogs v).fw = s.fw := rfl
@[simp] theorem State.putLogs_pm (s : State) (v : Logs) : (s.putLogs v).pm = s.pm := rfl
@[simp] theorem State.putLogs_tmap (s : State) (v : Logs) : (s.putLogs v).tmap = s.tmap := rfl
@[simp] theorem State.putLogs_act (s : State) (v : Logs) : (s.putLogs v).act = s.act := rfl
@[simp] theorem State.putLogs_out (s : State) (v : Logs) : (s.putLogs v).out = s.out := rfl
@[simp] theorem State.putLogs_members (s : State) (v : Logs) :
    (∀ j, (s.putLogs v).slot j = s.slot j) ∧
    (∀ j, (s.putLogs v).parcel j = s.parcel j) ∧
    (∀ j, (s.putLogs v).memByte j = s.memByte j) ∧
    (∀ j, (s.putLogs v).colBad j = s.colBad j) ∧
    (∀ j, (s.putLogs v).row j = s.row j) ∧
    (∀ j, (s.putLogs v).bspare j = s.bspare j) ∧
    (∀ j, (s.putLogs v).stack j = s.stack j) ∧
    (∀ j, (s.putLogs v).chan j = s.chan j) ∧
    (∀ j, (s.putLogs v).nbu j = s.nbu j) ∧
    (∀ j, (s.putLogs v).cru j = s.cru j) ∧
    (∀ j, (s.putLogs v).hub j = s.hub j) ∧
    (∀ j, (s.putLogs v).mat j = s.mat j) ∧
    (∀ j, (s.putLogs v).vec j = s.vec j) ∧
    (∀ j, (s.putLogs v).vfile j = s.vfile j) ∧
    (∀ j, (s.putLogs v).fchan j = s.fchan j) ∧
    (∀ j, (s.putLogs v).spByte j = s.spByte j) ∧
    (∀ j, (s.putLogs v).spBad j = s.spBad j) ∧
    (∀ j, (s.putLogs v).ctx j = s.ctx j) ∧
    (∀ j, (s.putLogs v).part j = s.part j) ∧
    (∀ j, (s.putLogs v).page j = s.page j) ∧
    (∀ j, (s.putLogs v).stream j = s.stream j) ∧
    (∀ j, (s.putLogs v).hport j = s.hport j) ∧
    (∀ j, (s.putLogs v).dir j = s.dir j) ∧
    (∀ j, (s.putLogs v).tran j = s.tran j) ∧
    (∀ j, (s.putLogs v).landing j = s.landing j) ∧
    (∀ j, (s.putLogs v).route j = s.route j) ∧
    (∀ j, (s.putLogs v).admission j = s.admission j) ∧
    (∀ j, (s.putLogs v).group j = s.group j) ∧
    (∀ j, (s.putLogs v).counter j = s.counter j) := by
  and_intros <;> exact fun _ => rfl
@[simp] theorem State.putAct_act (s : State) (v : Tab Nat) : (s.putAct v).act = v := rfl
@[simp] theorem State.putAct_pending (s : State) (v : Tab Nat) : (s.putAct v).pending = s.pending := rfl
@[simp] theorem State.putAct_cyc (s : State) (v : Tab Nat) : (s.putAct v).cyc = s.cyc := rfl
@[simp] theorem State.putAct_free (s : State) (v : Tab Nat) : (s.putAct v).free = s.free := rfl
@[simp] theorem State.putAct_half (s : State) (v : Tab Nat) : (s.putAct v).half = s.half := rfl
@[simp] theorem State.putAct_regs (s : State) (v : Tab Nat) : (s.putAct v).regs = s.regs := rfl
@[simp] theorem State.putAct_boot (s : State) (v : Tab Nat) : (s.putAct v).boot = s.boot := rfl
@[simp] theorem State.putAct_power (s : State) (v : Tab Nat) : (s.putAct v).power = s.power := rfl
@[simp] theorem State.putAct_slots (s : State) (v : Tab Nat) : (s.putAct v).slots = s.slots := rfl
@[simp] theorem State.putAct_parcels (s : State) (v : Tab Nat) : (s.putAct v).parcels = s.parcels := rfl
@[simp] theorem State.putAct_mem (s : State) (v : Tab Nat) : (s.putAct v).mem = s.mem := rfl
@[simp] theorem State.putAct_pois (s : State) (v : Tab Nat) : (s.putAct v).pois = s.pois := rfl
@[simp] theorem State.putAct_rows (s : State) (v : Tab Nat) : (s.putAct v).rows = s.rows := rfl
@[simp] theorem State.putAct_bspares (s : State) (v : Tab Nat) : (s.putAct v).bspares = s.bspares := rfl
@[simp] theorem State.putAct_stks (s : State) (v : Tab Nat) : (s.putAct v).stks = s.stks := rfl
@[simp] theorem State.putAct_chans (s : State) (v : Tab Nat) : (s.putAct v).chans = s.chans := rfl
@[simp] theorem State.putAct_nbus (s : State) (v : Tab Nat) : (s.putAct v).nbus = s.nbus := rfl
@[simp] theorem State.putAct_crus (s : State) (v : Tab Nat) : (s.putAct v).crus = s.crus := rfl
@[simp] theorem State.putAct_hubs (s : State) (v : Tab Nat) : (s.putAct v).hubs = s.hubs := rfl
@[simp] theorem State.putAct_me (s : State) (v : Tab Nat) : (s.putAct v).me = s.me := rfl
@[simp] theorem State.putAct_ve (s : State) (v : Tab Nat) : (s.putAct v).ve = s.ve := rfl
@[simp] theorem State.putAct_vfiles (s : State) (v : Tab Nat) : (s.putAct v).vfiles = s.vfiles := rfl
@[simp] theorem State.putAct_fe (s : State) (v : Tab Nat) : (s.putAct v).fe = s.fe := rfl
@[simp] theorem State.putAct_sp (s : State) (v : Tab Nat) : (s.putAct v).sp = s.sp := rfl
@[simp] theorem State.putAct_spPois (s : State) (v : Tab Nat) : (s.putAct v).spPois = s.spPois := rfl
@[simp] theorem State.putAct_ctxs (s : State) (v : Tab Nat) : (s.putAct v).ctxs = s.ctxs := rfl
@[simp] theorem State.putAct_parts (s : State) (v : Tab Nat) : (s.putAct v).parts = s.parts := rfl
@[simp] theorem State.putAct_pages (s : State) (v : Tab Nat) : (s.putAct v).pages = s.pages := rfl
@[simp] theorem State.putAct_streams (s : State) (v : Tab Nat) : (s.putAct v).streams = s.streams := rfl
@[simp] theorem State.putAct_ports (s : State) (v : Tab Nat) : (s.putAct v).ports = s.ports := rfl
@[simp] theorem State.putAct_dirs (s : State) (v : Tab Nat) : (s.putAct v).dirs = s.dirs := rfl
@[simp] theorem State.putAct_lines (s : State) (v : Tab Nat) : (s.putAct v).lines = s.lines := rfl
@[simp] theorem State.putAct_trans (s : State) (v : Tab Nat) : (s.putAct v).trans = s.trans := rfl
@[simp] theorem State.putAct_lands (s : State) (v : Tab Nat) : (s.putAct v).lands = s.lands := rfl
@[simp] theorem State.putAct_xacts (s : State) (v : Tab Nat) : (s.putAct v).xacts = s.xacts := rfl
@[simp] theorem State.putAct_routes (s : State) (v : Tab Nat) : (s.putAct v).routes = s.routes := rfl
@[simp] theorem State.putAct_admits (s : State) (v : Tab Nat) : (s.putAct v).admits = s.admits := rfl
@[simp] theorem State.putAct_groups (s : State) (v : Tab Nat) : (s.putAct v).groups = s.groups := rfl
@[simp] theorem State.putAct_fw (s : State) (v : Tab Nat) : (s.putAct v).fw = s.fw := rfl
@[simp] theorem State.putAct_logs (s : State) (v : Tab Nat) : (s.putAct v).logs = s.logs := rfl
@[simp] theorem State.putAct_pm (s : State) (v : Tab Nat) : (s.putAct v).pm = s.pm := rfl
@[simp] theorem State.putAct_tmap (s : State) (v : Tab Nat) : (s.putAct v).tmap = s.tmap := rfl
@[simp] theorem State.putAct_out (s : State) (v : Tab Nat) : (s.putAct v).out = s.out := rfl
@[simp] theorem State.putAct_members (s : State) (v : Tab Nat) :
    (∀ j, (s.putAct v).slot j = s.slot j) ∧
    (∀ j, (s.putAct v).parcel j = s.parcel j) ∧
    (∀ j, (s.putAct v).memByte j = s.memByte j) ∧
    (∀ j, (s.putAct v).colBad j = s.colBad j) ∧
    (∀ j, (s.putAct v).row j = s.row j) ∧
    (∀ j, (s.putAct v).bspare j = s.bspare j) ∧
    (∀ j, (s.putAct v).stack j = s.stack j) ∧
    (∀ j, (s.putAct v).chan j = s.chan j) ∧
    (∀ j, (s.putAct v).nbu j = s.nbu j) ∧
    (∀ j, (s.putAct v).cru j = s.cru j) ∧
    (∀ j, (s.putAct v).hub j = s.hub j) ∧
    (∀ j, (s.putAct v).mat j = s.mat j) ∧
    (∀ j, (s.putAct v).vec j = s.vec j) ∧
    (∀ j, (s.putAct v).vfile j = s.vfile j) ∧
    (∀ j, (s.putAct v).fchan j = s.fchan j) ∧
    (∀ j, (s.putAct v).spByte j = s.spByte j) ∧
    (∀ j, (s.putAct v).spBad j = s.spBad j) ∧
    (∀ j, (s.putAct v).ctx j = s.ctx j) ∧
    (∀ j, (s.putAct v).part j = s.part j) ∧
    (∀ j, (s.putAct v).page j = s.page j) ∧
    (∀ j, (s.putAct v).stream j = s.stream j) ∧
    (∀ j, (s.putAct v).hport j = s.hport j) ∧
    (∀ j, (s.putAct v).dir j = s.dir j) ∧
    (∀ j, (s.putAct v).tran j = s.tran j) ∧
    (∀ j, (s.putAct v).landing j = s.landing j) ∧
    (∀ j, (s.putAct v).route j = s.route j) ∧
    (∀ j, (s.putAct v).admission j = s.admission j) ∧
    (∀ j, (s.putAct v).group j = s.group j) ∧
    (∀ j, (s.putAct v).counter j = s.counter j) := by
  and_intros <;> exact fun _ => rfl
@[simp] theorem State.putPm_pm (s : State) (v : Tab Counter) : (s.putPm v).pm = v := rfl
@[simp] theorem State.putPm_pending (s : State) (v : Tab Counter) : (s.putPm v).pending = s.pending := rfl
@[simp] theorem State.putPm_cyc (s : State) (v : Tab Counter) : (s.putPm v).cyc = s.cyc := rfl
@[simp] theorem State.putPm_free (s : State) (v : Tab Counter) : (s.putPm v).free = s.free := rfl
@[simp] theorem State.putPm_half (s : State) (v : Tab Counter) : (s.putPm v).half = s.half := rfl
@[simp] theorem State.putPm_regs (s : State) (v : Tab Counter) : (s.putPm v).regs = s.regs := rfl
@[simp] theorem State.putPm_boot (s : State) (v : Tab Counter) : (s.putPm v).boot = s.boot := rfl
@[simp] theorem State.putPm_power (s : State) (v : Tab Counter) : (s.putPm v).power = s.power := rfl
@[simp] theorem State.putPm_slots (s : State) (v : Tab Counter) : (s.putPm v).slots = s.slots := rfl
@[simp] theorem State.putPm_parcels (s : State) (v : Tab Counter) : (s.putPm v).parcels = s.parcels := rfl
@[simp] theorem State.putPm_mem (s : State) (v : Tab Counter) : (s.putPm v).mem = s.mem := rfl
@[simp] theorem State.putPm_pois (s : State) (v : Tab Counter) : (s.putPm v).pois = s.pois := rfl
@[simp] theorem State.putPm_rows (s : State) (v : Tab Counter) : (s.putPm v).rows = s.rows := rfl
@[simp] theorem State.putPm_bspares (s : State) (v : Tab Counter) : (s.putPm v).bspares = s.bspares := rfl
@[simp] theorem State.putPm_stks (s : State) (v : Tab Counter) : (s.putPm v).stks = s.stks := rfl
@[simp] theorem State.putPm_chans (s : State) (v : Tab Counter) : (s.putPm v).chans = s.chans := rfl
@[simp] theorem State.putPm_nbus (s : State) (v : Tab Counter) : (s.putPm v).nbus = s.nbus := rfl
@[simp] theorem State.putPm_crus (s : State) (v : Tab Counter) : (s.putPm v).crus = s.crus := rfl
@[simp] theorem State.putPm_hubs (s : State) (v : Tab Counter) : (s.putPm v).hubs = s.hubs := rfl
@[simp] theorem State.putPm_me (s : State) (v : Tab Counter) : (s.putPm v).me = s.me := rfl
@[simp] theorem State.putPm_ve (s : State) (v : Tab Counter) : (s.putPm v).ve = s.ve := rfl
@[simp] theorem State.putPm_vfiles (s : State) (v : Tab Counter) : (s.putPm v).vfiles = s.vfiles := rfl
@[simp] theorem State.putPm_fe (s : State) (v : Tab Counter) : (s.putPm v).fe = s.fe := rfl
@[simp] theorem State.putPm_sp (s : State) (v : Tab Counter) : (s.putPm v).sp = s.sp := rfl
@[simp] theorem State.putPm_spPois (s : State) (v : Tab Counter) : (s.putPm v).spPois = s.spPois := rfl
@[simp] theorem State.putPm_ctxs (s : State) (v : Tab Counter) : (s.putPm v).ctxs = s.ctxs := rfl
@[simp] theorem State.putPm_parts (s : State) (v : Tab Counter) : (s.putPm v).parts = s.parts := rfl
@[simp] theorem State.putPm_pages (s : State) (v : Tab Counter) : (s.putPm v).pages = s.pages := rfl
@[simp] theorem State.putPm_streams (s : State) (v : Tab Counter) : (s.putPm v).streams = s.streams := rfl
@[simp] theorem State.putPm_ports (s : State) (v : Tab Counter) : (s.putPm v).ports = s.ports := rfl
@[simp] theorem State.putPm_dirs (s : State) (v : Tab Counter) : (s.putPm v).dirs = s.dirs := rfl
@[simp] theorem State.putPm_lines (s : State) (v : Tab Counter) : (s.putPm v).lines = s.lines := rfl
@[simp] theorem State.putPm_trans (s : State) (v : Tab Counter) : (s.putPm v).trans = s.trans := rfl
@[simp] theorem State.putPm_lands (s : State) (v : Tab Counter) : (s.putPm v).lands = s.lands := rfl
@[simp] theorem State.putPm_xacts (s : State) (v : Tab Counter) : (s.putPm v).xacts = s.xacts := rfl
@[simp] theorem State.putPm_routes (s : State) (v : Tab Counter) : (s.putPm v).routes = s.routes := rfl
@[simp] theorem State.putPm_admits (s : State) (v : Tab Counter) : (s.putPm v).admits = s.admits := rfl
@[simp] theorem State.putPm_groups (s : State) (v : Tab Counter) : (s.putPm v).groups = s.groups := rfl
@[simp] theorem State.putPm_fw (s : State) (v : Tab Counter) : (s.putPm v).fw = s.fw := rfl
@[simp] theorem State.putPm_logs (s : State) (v : Tab Counter) : (s.putPm v).logs = s.logs := rfl
@[simp] theorem State.putPm_tmap (s : State) (v : Tab Counter) : (s.putPm v).tmap = s.tmap := rfl
@[simp] theorem State.putPm_act (s : State) (v : Tab Counter) : (s.putPm v).act = s.act := rfl
@[simp] theorem State.putPm_out (s : State) (v : Tab Counter) : (s.putPm v).out = s.out := rfl
@[simp] theorem State.putPm_members (s : State) (v : Tab Counter) :
    (∀ j, (s.putPm v).slot j = s.slot j) ∧
    (∀ j, (s.putPm v).parcel j = s.parcel j) ∧
    (∀ j, (s.putPm v).memByte j = s.memByte j) ∧
    (∀ j, (s.putPm v).colBad j = s.colBad j) ∧
    (∀ j, (s.putPm v).row j = s.row j) ∧
    (∀ j, (s.putPm v).bspare j = s.bspare j) ∧
    (∀ j, (s.putPm v).stack j = s.stack j) ∧
    (∀ j, (s.putPm v).chan j = s.chan j) ∧
    (∀ j, (s.putPm v).nbu j = s.nbu j) ∧
    (∀ j, (s.putPm v).cru j = s.cru j) ∧
    (∀ j, (s.putPm v).hub j = s.hub j) ∧
    (∀ j, (s.putPm v).mat j = s.mat j) ∧
    (∀ j, (s.putPm v).vec j = s.vec j) ∧
    (∀ j, (s.putPm v).vfile j = s.vfile j) ∧
    (∀ j, (s.putPm v).fchan j = s.fchan j) ∧
    (∀ j, (s.putPm v).spByte j = s.spByte j) ∧
    (∀ j, (s.putPm v).spBad j = s.spBad j) ∧
    (∀ j, (s.putPm v).ctx j = s.ctx j) ∧
    (∀ j, (s.putPm v).part j = s.part j) ∧
    (∀ j, (s.putPm v).page j = s.page j) ∧
    (∀ j, (s.putPm v).stream j = s.stream j) ∧
    (∀ j, (s.putPm v).hport j = s.hport j) ∧
    (∀ j, (s.putPm v).dir j = s.dir j) ∧
    (∀ j, (s.putPm v).tran j = s.tran j) ∧
    (∀ j, (s.putPm v).landing j = s.landing j) ∧
    (∀ j, (s.putPm v).route j = s.route j) ∧
    (∀ j, (s.putPm v).admission j = s.admission j) ∧
    (∀ j, (s.putPm v).group j = s.group j) := by
  and_intros <;> exact fun _ => rfl
@[simp] theorem State.putTmap_tmap (s : State) (v : TimeMap) : (s.putTmap v).tmap = v := rfl
@[simp] theorem State.putTmap_pending (s : State) (v : TimeMap) : (s.putTmap v).pending = s.pending := rfl
@[simp] theorem State.putTmap_cyc (s : State) (v : TimeMap) : (s.putTmap v).cyc = s.cyc := rfl
@[simp] theorem State.putTmap_free (s : State) (v : TimeMap) : (s.putTmap v).free = s.free := rfl
@[simp] theorem State.putTmap_half (s : State) (v : TimeMap) : (s.putTmap v).half = s.half := rfl
@[simp] theorem State.putTmap_regs (s : State) (v : TimeMap) : (s.putTmap v).regs = s.regs := rfl
@[simp] theorem State.putTmap_boot (s : State) (v : TimeMap) : (s.putTmap v).boot = s.boot := rfl
@[simp] theorem State.putTmap_power (s : State) (v : TimeMap) : (s.putTmap v).power = s.power := rfl
@[simp] theorem State.putTmap_slots (s : State) (v : TimeMap) : (s.putTmap v).slots = s.slots := rfl
@[simp] theorem State.putTmap_parcels (s : State) (v : TimeMap) : (s.putTmap v).parcels = s.parcels := rfl
@[simp] theorem State.putTmap_mem (s : State) (v : TimeMap) : (s.putTmap v).mem = s.mem := rfl
@[simp] theorem State.putTmap_pois (s : State) (v : TimeMap) : (s.putTmap v).pois = s.pois := rfl
@[simp] theorem State.putTmap_rows (s : State) (v : TimeMap) : (s.putTmap v).rows = s.rows := rfl
@[simp] theorem State.putTmap_bspares (s : State) (v : TimeMap) : (s.putTmap v).bspares = s.bspares := rfl
@[simp] theorem State.putTmap_stks (s : State) (v : TimeMap) : (s.putTmap v).stks = s.stks := rfl
@[simp] theorem State.putTmap_chans (s : State) (v : TimeMap) : (s.putTmap v).chans = s.chans := rfl
@[simp] theorem State.putTmap_nbus (s : State) (v : TimeMap) : (s.putTmap v).nbus = s.nbus := rfl
@[simp] theorem State.putTmap_crus (s : State) (v : TimeMap) : (s.putTmap v).crus = s.crus := rfl
@[simp] theorem State.putTmap_hubs (s : State) (v : TimeMap) : (s.putTmap v).hubs = s.hubs := rfl
@[simp] theorem State.putTmap_me (s : State) (v : TimeMap) : (s.putTmap v).me = s.me := rfl
@[simp] theorem State.putTmap_ve (s : State) (v : TimeMap) : (s.putTmap v).ve = s.ve := rfl
@[simp] theorem State.putTmap_vfiles (s : State) (v : TimeMap) : (s.putTmap v).vfiles = s.vfiles := rfl
@[simp] theorem State.putTmap_fe (s : State) (v : TimeMap) : (s.putTmap v).fe = s.fe := rfl
@[simp] theorem State.putTmap_sp (s : State) (v : TimeMap) : (s.putTmap v).sp = s.sp := rfl
@[simp] theorem State.putTmap_spPois (s : State) (v : TimeMap) : (s.putTmap v).spPois = s.spPois := rfl
@[simp] theorem State.putTmap_ctxs (s : State) (v : TimeMap) : (s.putTmap v).ctxs = s.ctxs := rfl
@[simp] theorem State.putTmap_parts (s : State) (v : TimeMap) : (s.putTmap v).parts = s.parts := rfl
@[simp] theorem State.putTmap_pages (s : State) (v : TimeMap) : (s.putTmap v).pages = s.pages := rfl
@[simp] theorem State.putTmap_streams (s : State) (v : TimeMap) : (s.putTmap v).streams = s.streams := rfl
@[simp] theorem State.putTmap_ports (s : State) (v : TimeMap) : (s.putTmap v).ports = s.ports := rfl
@[simp] theorem State.putTmap_dirs (s : State) (v : TimeMap) : (s.putTmap v).dirs = s.dirs := rfl
@[simp] theorem State.putTmap_lines (s : State) (v : TimeMap) : (s.putTmap v).lines = s.lines := rfl
@[simp] theorem State.putTmap_trans (s : State) (v : TimeMap) : (s.putTmap v).trans = s.trans := rfl
@[simp] theorem State.putTmap_lands (s : State) (v : TimeMap) : (s.putTmap v).lands = s.lands := rfl
@[simp] theorem State.putTmap_xacts (s : State) (v : TimeMap) : (s.putTmap v).xacts = s.xacts := rfl
@[simp] theorem State.putTmap_routes (s : State) (v : TimeMap) : (s.putTmap v).routes = s.routes := rfl
@[simp] theorem State.putTmap_admits (s : State) (v : TimeMap) : (s.putTmap v).admits = s.admits := rfl
@[simp] theorem State.putTmap_groups (s : State) (v : TimeMap) : (s.putTmap v).groups = s.groups := rfl
@[simp] theorem State.putTmap_fw (s : State) (v : TimeMap) : (s.putTmap v).fw = s.fw := rfl
@[simp] theorem State.putTmap_logs (s : State) (v : TimeMap) : (s.putTmap v).logs = s.logs := rfl
@[simp] theorem State.putTmap_pm (s : State) (v : TimeMap) : (s.putTmap v).pm = s.pm := rfl
@[simp] theorem State.putTmap_act (s : State) (v : TimeMap) : (s.putTmap v).act = s.act := rfl
@[simp] theorem State.putTmap_out (s : State) (v : TimeMap) : (s.putTmap v).out = s.out := rfl
@[simp] theorem State.putTmap_members (s : State) (v : TimeMap) :
    (∀ j, (s.putTmap v).slot j = s.slot j) ∧
    (∀ j, (s.putTmap v).parcel j = s.parcel j) ∧
    (∀ j, (s.putTmap v).memByte j = s.memByte j) ∧
    (∀ j, (s.putTmap v).colBad j = s.colBad j) ∧
    (∀ j, (s.putTmap v).row j = s.row j) ∧
    (∀ j, (s.putTmap v).bspare j = s.bspare j) ∧
    (∀ j, (s.putTmap v).stack j = s.stack j) ∧
    (∀ j, (s.putTmap v).chan j = s.chan j) ∧
    (∀ j, (s.putTmap v).nbu j = s.nbu j) ∧
    (∀ j, (s.putTmap v).cru j = s.cru j) ∧
    (∀ j, (s.putTmap v).hub j = s.hub j) ∧
    (∀ j, (s.putTmap v).mat j = s.mat j) ∧
    (∀ j, (s.putTmap v).vec j = s.vec j) ∧
    (∀ j, (s.putTmap v).vfile j = s.vfile j) ∧
    (∀ j, (s.putTmap v).fchan j = s.fchan j) ∧
    (∀ j, (s.putTmap v).spByte j = s.spByte j) ∧
    (∀ j, (s.putTmap v).spBad j = s.spBad j) ∧
    (∀ j, (s.putTmap v).ctx j = s.ctx j) ∧
    (∀ j, (s.putTmap v).part j = s.part j) ∧
    (∀ j, (s.putTmap v).page j = s.page j) ∧
    (∀ j, (s.putTmap v).stream j = s.stream j) ∧
    (∀ j, (s.putTmap v).hport j = s.hport j) ∧
    (∀ j, (s.putTmap v).dir j = s.dir j) ∧
    (∀ j, (s.putTmap v).tran j = s.tran j) ∧
    (∀ j, (s.putTmap v).landing j = s.landing j) ∧
    (∀ j, (s.putTmap v).route j = s.route j) ∧
    (∀ j, (s.putTmap v).admission j = s.admission j) ∧
    (∀ j, (s.putTmap v).group j = s.group j) ∧
    (∀ j, (s.putTmap v).counter j = s.counter j) := by
  and_intros <;> exact fun _ => rfl
@[simp] theorem State.putOut_out (s : State) (v : Output) : (s.putOut v).out = v := rfl
@[simp] theorem State.putOut_pending (s : State) (v : Output) : (s.putOut v).pending = s.pending := rfl
@[simp] theorem State.putOut_cyc (s : State) (v : Output) : (s.putOut v).cyc = s.cyc := rfl
@[simp] theorem State.putOut_free (s : State) (v : Output) : (s.putOut v).free = s.free := rfl
@[simp] theorem State.putOut_half (s : State) (v : Output) : (s.putOut v).half = s.half := rfl
@[simp] theorem State.putOut_regs (s : State) (v : Output) : (s.putOut v).regs = s.regs := rfl
@[simp] theorem State.putOut_boot (s : State) (v : Output) : (s.putOut v).boot = s.boot := rfl
@[simp] theorem State.putOut_power (s : State) (v : Output) : (s.putOut v).power = s.power := rfl
@[simp] theorem State.putOut_slots (s : State) (v : Output) : (s.putOut v).slots = s.slots := rfl
@[simp] theorem State.putOut_parcels (s : State) (v : Output) : (s.putOut v).parcels = s.parcels := rfl
@[simp] theorem State.putOut_mem (s : State) (v : Output) : (s.putOut v).mem = s.mem := rfl
@[simp] theorem State.putOut_pois (s : State) (v : Output) : (s.putOut v).pois = s.pois := rfl
@[simp] theorem State.putOut_rows (s : State) (v : Output) : (s.putOut v).rows = s.rows := rfl
@[simp] theorem State.putOut_bspares (s : State) (v : Output) : (s.putOut v).bspares = s.bspares := rfl
@[simp] theorem State.putOut_stks (s : State) (v : Output) : (s.putOut v).stks = s.stks := rfl
@[simp] theorem State.putOut_chans (s : State) (v : Output) : (s.putOut v).chans = s.chans := rfl
@[simp] theorem State.putOut_nbus (s : State) (v : Output) : (s.putOut v).nbus = s.nbus := rfl
@[simp] theorem State.putOut_crus (s : State) (v : Output) : (s.putOut v).crus = s.crus := rfl
@[simp] theorem State.putOut_hubs (s : State) (v : Output) : (s.putOut v).hubs = s.hubs := rfl
@[simp] theorem State.putOut_me (s : State) (v : Output) : (s.putOut v).me = s.me := rfl
@[simp] theorem State.putOut_ve (s : State) (v : Output) : (s.putOut v).ve = s.ve := rfl
@[simp] theorem State.putOut_vfiles (s : State) (v : Output) : (s.putOut v).vfiles = s.vfiles := rfl
@[simp] theorem State.putOut_fe (s : State) (v : Output) : (s.putOut v).fe = s.fe := rfl
@[simp] theorem State.putOut_sp (s : State) (v : Output) : (s.putOut v).sp = s.sp := rfl
@[simp] theorem State.putOut_spPois (s : State) (v : Output) : (s.putOut v).spPois = s.spPois := rfl
@[simp] theorem State.putOut_ctxs (s : State) (v : Output) : (s.putOut v).ctxs = s.ctxs := rfl
@[simp] theorem State.putOut_parts (s : State) (v : Output) : (s.putOut v).parts = s.parts := rfl
@[simp] theorem State.putOut_pages (s : State) (v : Output) : (s.putOut v).pages = s.pages := rfl
@[simp] theorem State.putOut_streams (s : State) (v : Output) : (s.putOut v).streams = s.streams := rfl
@[simp] theorem State.putOut_ports (s : State) (v : Output) : (s.putOut v).ports = s.ports := rfl
@[simp] theorem State.putOut_dirs (s : State) (v : Output) : (s.putOut v).dirs = s.dirs := rfl
@[simp] theorem State.putOut_lines (s : State) (v : Output) : (s.putOut v).lines = s.lines := rfl
@[simp] theorem State.putOut_trans (s : State) (v : Output) : (s.putOut v).trans = s.trans := rfl
@[simp] theorem State.putOut_lands (s : State) (v : Output) : (s.putOut v).lands = s.lands := rfl
@[simp] theorem State.putOut_xacts (s : State) (v : Output) : (s.putOut v).xacts = s.xacts := rfl
@[simp] theorem State.putOut_routes (s : State) (v : Output) : (s.putOut v).routes = s.routes := rfl
@[simp] theorem State.putOut_admits (s : State) (v : Output) : (s.putOut v).admits = s.admits := rfl
@[simp] theorem State.putOut_groups (s : State) (v : Output) : (s.putOut v).groups = s.groups := rfl
@[simp] theorem State.putOut_fw (s : State) (v : Output) : (s.putOut v).fw = s.fw := rfl
@[simp] theorem State.putOut_logs (s : State) (v : Output) : (s.putOut v).logs = s.logs := rfl
@[simp] theorem State.putOut_pm (s : State) (v : Output) : (s.putOut v).pm = s.pm := rfl
@[simp] theorem State.putOut_tmap (s : State) (v : Output) : (s.putOut v).tmap = s.tmap := rfl
@[simp] theorem State.putOut_act (s : State) (v : Output) : (s.putOut v).act = s.act := rfl
@[simp] theorem State.putOut_members (s : State) (v : Output) :
    (∀ j, (s.putOut v).slot j = s.slot j) ∧
    (∀ j, (s.putOut v).parcel j = s.parcel j) ∧
    (∀ j, (s.putOut v).memByte j = s.memByte j) ∧
    (∀ j, (s.putOut v).colBad j = s.colBad j) ∧
    (∀ j, (s.putOut v).row j = s.row j) ∧
    (∀ j, (s.putOut v).bspare j = s.bspare j) ∧
    (∀ j, (s.putOut v).stack j = s.stack j) ∧
    (∀ j, (s.putOut v).chan j = s.chan j) ∧
    (∀ j, (s.putOut v).nbu j = s.nbu j) ∧
    (∀ j, (s.putOut v).cru j = s.cru j) ∧
    (∀ j, (s.putOut v).hub j = s.hub j) ∧
    (∀ j, (s.putOut v).mat j = s.mat j) ∧
    (∀ j, (s.putOut v).vec j = s.vec j) ∧
    (∀ j, (s.putOut v).vfile j = s.vfile j) ∧
    (∀ j, (s.putOut v).fchan j = s.fchan j) ∧
    (∀ j, (s.putOut v).spByte j = s.spByte j) ∧
    (∀ j, (s.putOut v).spBad j = s.spBad j) ∧
    (∀ j, (s.putOut v).ctx j = s.ctx j) ∧
    (∀ j, (s.putOut v).part j = s.part j) ∧
    (∀ j, (s.putOut v).page j = s.page j) ∧
    (∀ j, (s.putOut v).stream j = s.stream j) ∧
    (∀ j, (s.putOut v).hport j = s.hport j) ∧
    (∀ j, (s.putOut v).dir j = s.dir j) ∧
    (∀ j, (s.putOut v).tran j = s.tran j) ∧
    (∀ j, (s.putOut v).landing j = s.landing j) ∧
    (∀ j, (s.putOut v).route j = s.route j) ∧
    (∀ j, (s.putOut v).admission j = s.admission j) ∧
    (∀ j, (s.putOut v).group j = s.group j) ∧
    (∀ j, (s.putOut v).counter j = s.counter j) := by
  and_intros <;> exact fun _ => rfl

end Sys2Proof.Machine
end

