-- ==== Sys2Proof/Laws/Regs.lean ====
section
/-! SUPPORT. The stored fields of the registers, and the values in force of those that take effect at a boundary. -/

namespace Sys2Proof.Machine

/-- What a write of the stored fields leaves in the register, and in every other. -/
theorem State.setReg_reg (s : State) (p off v q f : Nat) :
    (s.setReg p off v).reg q f = if regKey q f = regKey p off then v % 2 ^ 64 else s.reg q f := by
  unfold State.reg State.setReg
  simp only [State.putRegs_regs, State.putRegs_half]
  split
  next h => rw [h, Tab.get_set_same, BitVec.toNat_ofNat]
  next h => rw [Tab.get_set_ne _ _ _ _ _ h]

/-- No register of a port is stored where a value in force is. -/
theorem regKey_ne_forceKey (p off unit o : Nat) (hp : p < 4) (ho : off < 0x100000) : regKey p off ≠ forceKey unit o := by
  unfold regKey forceKey
  split
  · split <;> omega
  · omega

/-- The values in force are kept one beside the other. -/
theorem forceKey_inj (u v o f : Nat) (ho : o < 0x100000) (hf : f < 0x100000) (h : forceKey u o = forceKey v f) : u = v ∧ o = f := by
  unfold forceKey at h
  omega

/-- A boundary leaves every register as it is stored. -/
theorem State.takeUp_sameRegs (s : State) (unit : Nat) (offs : List Nat) : SameRegs s (s.takeUp unit offs) := by
  intro p off hp ho
  unfold State.reg State.takeUp
  simp only [State.putRegs_regs, State.putRegs_half]
  suffices h : ∀ (l : List Nat) (g : Tab Word),
      Tab.get (regReset s.half) (l.foldl (fun g o => Tab.set (regReset s.half) g (forceKey unit o) (BitVec.ofNat 64 (s.reg 0 o))) g) (regKey p off) =
        Tab.get (regReset s.half) g (regKey p off) by rw [h]
  intro l
  induction l with
  | nil => intro g; rfl
  | cons a l ih =>
    intro g
    rw [List.foldl_cons, ih, Tab.get_set_ne _ _ _ _ _ (regKey_ne_forceKey p off unit a hp ho)]

/-- After a boundary of a unit the registers named are in force there as they are stored; every other value in force stands. -/
theorem State.takeUp_inForce (s : State) (unit : Nat) (offs : List Nat) (u o lo n : Nat) (ho : o < 0x100000)
    (hs : ∀ f ∈ offs, f < 0x100000) :
    (s.takeUp unit offs).inForce u o lo n = if u = unit ∧ o ∈ offs then s.cfg o lo n else s.inForce u o lo n := by
  unfold State.inForce State.takeUp State.cfg
  simp only [State.putRegs_regs, State.putRegs_half]
  suffices h : ∀ (l : List Nat) (g : Tab Word), (∀ f ∈ l, f < 0x100000) →
      Tab.get (regReset s.half) (l.foldl (fun g o => Tab.set (regReset s.half) g (forceKey unit o) (BitVec.ofNat 64 (s.reg 0 o))) g) (forceKey u o) =
        if u = unit ∧ o ∈ l then BitVec.ofNat 64 (s.reg 0 o) else Tab.get (regReset s.half) g (forceKey u o) by
    rw [h offs s.regs hs]
    split
    · have hlt : s.reg 0 o < 2 ^ 64 := (Tab.get (regReset s.half) s.regs (regKey 0 o)).isLt
      rw [BitVec.toNat_ofNat, Nat.mod_eq_of_lt hlt]
    · rfl
  intro l
  induction l with
  | nil => intro g _; simp
  | cons a l ih =>
    intro g hl
    rw [List.foldl_cons, ih _ (fun f hf => hl f (by simp [hf]))]
    by_cases h1 : u = unit ∧ o ∈ l
    · simp [h1]
    · rw [if_neg h1]
      by_cases h2 : u = unit ∧ o = a
      · obtain ⟨rfl, rfl⟩ := h2
        simp [Tab.get_set_same]
      · rw [Tab.get_set_ne _ _ _ _ _ (fun h => h2 (forceKey_inj _ _ _ _ ho (hl a (by simp)) h))]
        have h3 : ¬ (u = unit ∧ o ∈ a :: l) := by
          intro h
          rcases List.mem_cons.1 h.2 with h4 | h4
          · exact h2 ⟨h.1, h4⟩
          · exact h1 ⟨h.1, h4⟩
        rw [if_neg h3]

end Sys2Proof.Machine
end

