-- ==== Sys2Proof/Laws/Same.lean ====
section
/-! SUPPORT. What the most used shared operations leave as it was, field by field and member by member. -/

set_option linter.all false

namespace Sys2Proof.Machine

@[simp] theorem State.setReg_same (s : State) (port : Nat) (off : Nat) (v : Nat) :
    (State.setReg s port off v).pending = s.pending ∧
    (State.setReg s port off v).cyc = s.cyc ∧
    (State.setReg s port off v).free = s.free ∧
    (State.setReg s port off v).half = s.half ∧
    (State.setReg s port off v).boot = s.boot ∧
    (State.setReg s port off v).power = s.power ∧
    (State.setReg s port off v).slots = s.slots ∧
    (State.setReg s port off v).parcels = s.parcels ∧
    (State.setReg s port off v).mem = s.mem ∧
    (State.setReg s port off v).pois = s.pois ∧
    (State.setReg s port off v).rows = s.rows ∧
    (State.setReg s port off v).bspares = s.bspares ∧
    (State.setReg s port off v).stks = s.stks ∧
    (State.setReg s port off v).chans = s.chans ∧
    (State.setReg s port off v).nbus = s.nbus ∧
    (State.setReg s port off v).crus = s.crus ∧
    (State.setReg s port off v).hubs = s.hubs ∧
    (State.setReg s port off v).me = s.me ∧
    (State.setReg s port off v).ve = s.ve ∧
    (State.setReg s port off v).vfiles = s.vfiles ∧
    (State.setReg s port off v).fe = s.fe ∧
    (State.setReg s port off v).sp = s.sp ∧
    (State.setReg s port off v).spPois = s.spPois ∧
    (State.setReg s port off v).ctxs = s.ctxs ∧
    (State.setReg s port off v).parts = s.parts ∧
    (State.setReg s port off v).pages = s.pages ∧
    (State.setReg s port off v).streams = s.streams ∧
    (State.setReg s port off v).ports = s.ports ∧
    (State.setReg s port off v).dirs = s.dirs ∧
    (State.setReg s port off v).lines = s.lines ∧
    (State.setReg s port off v).trans = s.trans ∧
    (State.setReg s port off v).lands = s.lands ∧
    (State.setReg s port off v).xacts = s.xacts ∧
    (State.setReg s port off v).routes = s.routes ∧
    (State.setReg s port off v).admits = s.admits ∧
    (State.setReg s port off v).groups = s.groups ∧
    (State.setReg s port off v).fw = s.fw ∧
    (State.setReg s port off v).logs = s.logs ∧
    (State.setReg s port off v).pm = s.pm ∧
    (State.setReg s port off v).tmap = s.tmap ∧
    (State.setReg s port off v).act = s.act ∧
    (State.setReg s port off v).out = s.out := by
  have h := Keeps.setReg s port off v
  and_intros
  · exact h.same .pending (by decide)
  · exact h.same .cyc (by decide)
  · exact h.same .free (by decide)
  · exact h.same .half (by decide)
  · exact h.same .boot (by decide)
  · exact h.same .power (by decide)
  · exact h.same .slots (by decide)
  · exact h.same .parcels (by decide)
  · exact h.same .mem (by decide)
  · exact h.same .pois (by decide)
  · exact h.same .rows (by decide)
  · exact h.same .bspares (by decide)
  · exact h.same .stks (by decide)
  · exact h.same .chans (by decide)
  · exact h.same .nbus (by decide)
  · exact h.same .crus (by decide)
  · exact h.same .hubs (by decide)
  · exact h.same .me (by decide)
  · exact h.same .ve (by decide)
  · exact h.same .vfiles (by decide)
  · exact h.same .fe (by decide)
  · exact h.same .sp (by decide)
  · exact h.same .spPois (by decide)
  · exact h.same .ctxs (by decide)
  · exact h.same .parts (by decide)
  · exact h.same .pages (by decide)
  · exact h.same .streams (by decide)
  · exact h.same .ports (by decide)
  · exact h.same .dirs (by decide)
  · exact h.same .lines (by decide)
  · exact h.same .trans (by decide)
  · exact h.same .lands (by decide)
  · exact h.same .xacts (by decide)
  · exact h.same .routes (by decide)
  · exact h.same .admits (by decide)
  · exact h.same .groups (by decide)
  · exact h.same .fw (by decide)
  · exact h.same .logs (by decide)
  · exact h.same .pm (by decide)
  · exact h.same .tmap (by decide)
  · exact h.same .act (by decide)
  · exact h.same .out (by decide)

@[simp] theorem State.setReg_members (s : State) (port : Nat) (off : Nat) (v : Nat) :
    (∀ k, (State.setReg s port off v).slot k = s.slot k) ∧
    (∀ k, (State.setReg s port off v).parcel k = s.parcel k) ∧
    (∀ k, (State.setReg s port off v).memByte k = s.memByte k) ∧
    (∀ k, (State.setReg s port off v).colBad k = s.colBad k) ∧
    (∀ k, (State.setReg s port off v).row k = s.row k) ∧
    (∀ k, (State.setReg s port off v).bspare k = s.bspare k) ∧
    (∀ k, (State.setReg s port off v).stack k = s.stack k) ∧
    (∀ k, (State.setReg s port off v).chan k = s.chan k) ∧
    (∀ k, (State.setReg s port off v).nbu k = s.nbu k) ∧
    (∀ k, (State.setReg s port off v).cru k = s.cru k) ∧
    (∀ k, (State.setReg s port off v).hub k = s.hub k) ∧
    (∀ k, (State.setReg s port off v).mat k = s.mat k) ∧
    (∀ k, (State.setReg s port off v).vec k = s.vec k) ∧
    (∀ k, (State.setReg s port off v).vfile k = s.vfile k) ∧
    (∀ k, (State.setReg s port off v).fchan k = s.fchan k) ∧
    (∀ k, (State.setReg s port off v).spByte k = s.spByte k) ∧
    (∀ k, (State.setReg s port off v).spBad k = s.spBad k) ∧
    (∀ k, (State.setReg s port off v).ctx k = s.ctx k) ∧
    (∀ k, (State.setReg s port off v).part k = s.part k) ∧
    (∀ k, (State.setReg s port off v).page k = s.page k) ∧
    (∀ k, (State.setReg s port off v).stream k = s.stream k) ∧
    (∀ k, (State.setReg s port off v).hport k = s.hport k) ∧
    (∀ k, (State.setReg s port off v).dir k = s.dir k) ∧
    (∀ k, (State.setReg s port off v).tran k = s.tran k) ∧
    (∀ k, (State.setReg s port off v).landing k = s.landing k) ∧
    (∀ k, (State.setReg s port off v).route k = s.route k) ∧
    (∀ k, (State.setReg s port off v).admission k = s.admission k) ∧
    (∀ k, (State.setReg s port off v).group k = s.group k) ∧
    (∀ k, (State.setReg s port off v).counter k = s.counter k) := by
  simp [State.slot, State.parcel, State.memByte, State.colBad, State.row, State.bspare, State.stack, State.chan, State.nbu, State.cru, State.hub, State.mat, State.vec, State.vfile, State.fchan, State.spByte, State.spBad, State.ctx, State.part, State.page, State.stream, State.hport, State.dir, State.tran, State.landing, State.route, State.admission, State.group, State.counter]

@[simp] theorem State.takeUp_same (s : State) (unit : Nat) (offs : List Nat) :
    (State.takeUp s unit offs).pending = s.pending ∧
    (State.takeUp s unit offs).cyc = s.cyc ∧
    (State.takeUp s unit offs).free = s.free ∧
    (State.takeUp s unit offs).half = s.half ∧
    (State.takeUp s unit offs).boot = s.boot ∧
    (State.takeUp s unit offs).power = s.power ∧
    (State.takeUp s unit offs).slots = s.slots ∧
    (State.takeUp s unit offs).parcels = s.parcels ∧
    (State.takeUp s unit offs).mem = s.mem ∧
    (State.takeUp s unit offs).pois = s.pois ∧
    (State.takeUp s unit offs).rows = s.rows ∧
    (State.takeUp s unit offs).bspares = s.bspares ∧
    (State.takeUp s unit offs).stks = s.stks ∧
    (State.takeUp s unit offs).chans = s.chans ∧
    (State.takeUp s unit offs).nbus = s.nbus ∧
    (State.takeUp s unit offs).crus = s.crus ∧
    (State.takeUp s unit offs).hubs = s.hubs ∧
    (State.takeUp s unit offs).me = s.me ∧
    (State.takeUp s unit offs).ve = s.ve ∧
    (State.takeUp s unit offs).vfiles = s.vfiles ∧
    (State.takeUp s unit offs).fe = s.fe ∧
    (State.takeUp s unit offs).sp = s.sp ∧
    (State.takeUp s unit offs).spPois = s.spPois ∧
    (State.takeUp s unit offs).ctxs = s.ctxs ∧
    (State.takeUp s unit offs).parts = s.parts ∧
    (State.takeUp s unit offs).pages = s.pages ∧
    (State.takeUp s unit offs).streams = s.streams ∧
    (State.takeUp s unit offs).ports = s.ports ∧
    (State.takeUp s unit offs).dirs = s.dirs ∧
    (State.takeUp s unit offs).lines = s.lines ∧
    (State.takeUp s unit offs).trans = s.trans ∧
    (State.takeUp s unit offs).lands = s.lands ∧
    (State.takeUp s unit offs).xacts = s.xacts ∧
    (State.takeUp s unit offs).routes = s.routes ∧
    (State.takeUp s unit offs).admits = s.admits ∧
    (State.takeUp s unit offs).groups = s.groups ∧
    (State.takeUp s unit offs).fw = s.fw ∧
    (State.takeUp s unit offs).logs = s.logs ∧
    (State.takeUp s unit offs).pm = s.pm ∧
    (State.takeUp s unit offs).tmap = s.tmap ∧
    (State.takeUp s unit offs).act = s.act ∧
    (State.takeUp s unit offs).out = s.out := by
  have h := Keeps.takeUp s unit offs
  and_intros
  · exact h.same .pending (by decide)
  · exact h.same .cyc (by decide)
  · exact h.same .free (by decide)
  · exact h.same .half (by decide)
  · exact h.same .boot (by decide)
  · exact h.same .power (by decide)
  · exact h.same .slots (by decide)
  · exact h.same .parcels (by decide)
  · exact h.same .mem (by decide)
  · exact h.same .pois (by decide)
  · exact h.same .rows (by decide)
  · exact h.same .bspares (by decide)
  · exact h.same .stks (by decide)
  · exact h.same .chans (by decide)
  · exact h.same .nbus (by decide)
  · exact h.same .crus (by decide)
  · exact h.same .hubs (by decide)
  · exact h.same .me (by decide)
  · exact h.same .ve (by decide)
  · exact h.same .vfiles (by decide)
  · exact h.same .fe (by decide)
  · exact h.same .sp (by decide)
  · exact h.same .spPois (by decide)
  · exact h.same .ctxs (by decide)
  · exact h.same .parts (by decide)
  · exact h.same .pages (by decide)
  · exact h.same .streams (by decide)
  · exact h.same .ports (by decide)
  · exact h.same .dirs (by decide)
  · exact h.same .lines (by decide)
  · exact h.same .trans (by decide)
  · exact h.same .lands (by decide)
  · exact h.same .xacts (by decide)
  · exact h.same .routes (by decide)
  · exact h.same .admits (by decide)
  · exact h.same .groups (by decide)
  · exact h.same .fw (by decide)
  · exact h.same .logs (by decide)
  · exact h.same .pm (by decide)
  · exact h.same .tmap (by decide)
  · exact h.same .act (by decide)
  · exact h.same .out (by decide)

@[simp] theorem State.takeUp_members (s : State) (unit : Nat) (offs : List Nat) :
    (∀ k, (State.takeUp s unit offs).slot k = s.slot k) ∧
    (∀ k, (State.takeUp s unit offs).parcel k = s.parcel k) ∧
    (∀ k, (State.takeUp s unit offs).memByte k = s.memByte k) ∧
    (∀ k, (State.takeUp s unit offs).colBad k = s.colBad k) ∧
    (∀ k, (State.takeUp s unit offs).row k = s.row k) ∧
    (∀ k, (State.takeUp s unit offs).bspare k = s.bspare k) ∧
    (∀ k, (State.takeUp s unit offs).stack k = s.stack k) ∧
    (∀ k, (State.takeUp s unit offs).chan k = s.chan k) ∧
    (∀ k, (State.takeUp s unit offs).nbu k = s.nbu k) ∧
    (∀ k, (State.takeUp s unit offs).cru k = s.cru k) ∧
    (∀ k, (State.takeUp s unit offs).hub k = s.hub k) ∧
    (∀ k, (State.takeUp s unit offs).mat k = s.mat k) ∧
    (∀ k, (State.takeUp s unit offs).vec k = s.vec k) ∧
    (∀ k, (State.takeUp s unit offs).vfile k = s.vfile k) ∧
    (∀ k, (State.takeUp s unit offs).fchan k = s.fchan k) ∧
    (∀ k, (State.takeUp s unit offs).spByte k = s.spByte k) ∧
    (∀ k, (State.takeUp s unit offs).spBad k = s.spBad k) ∧
    (∀ k, (State.takeUp s unit offs).ctx k = s.ctx k) ∧
    (∀ k, (State.takeUp s unit offs).part k = s.part k) ∧
    (∀ k, (State.takeUp s unit offs).page k = s.page k) ∧
    (∀ k, (State.takeUp s unit offs).stream k = s.stream k) ∧
    (∀ k, (State.takeUp s unit offs).hport k = s.hport k) ∧
    (∀ k, (State.takeUp s unit offs).dir k = s.dir k) ∧
    (∀ k, (State.takeUp s unit offs).tran k = s.tran k) ∧
    (∀ k, (State.takeUp s unit offs).landing k = s.landing k) ∧
    (∀ k, (State.takeUp s unit offs).route k = s.route k) ∧
    (∀ k, (State.takeUp s unit offs).admission k = s.admission k) ∧
    (∀ k, (State.takeUp s unit offs).group k = s.group k) ∧
    (∀ k, (State.takeUp s unit offs).counter k = s.counter k) := by
  simp [State.slot, State.parcel, State.memByte, State.colBad, State.row, State.bspare, State.stack, State.chan, State.nbu, State.cru, State.hub, State.mat, State.vec, State.vfile, State.fchan, State.spByte, State.spBad, State.ctx, State.part, State.page, State.stream, State.hport, State.dir, State.tran, State.landing, State.route, State.admission, State.group, State.counter]

@[simp] theorem State.bbox_same (s : State) (t : Nat) (typ : Nat) (part : Option Nat) (ctx : Nat) (payload : List (Nat × Nat × Nat)) :
    (State.bbox s t typ part ctx payload).pending = s.pending ∧
    (State.bbox s t typ part ctx payload).cyc = s.cyc ∧
    (State.bbox s t typ part ctx payload).free = s.free ∧
    (State.bbox s t typ part ctx payload).half = s.half ∧
    (State.bbox s t typ part ctx payload).regs = s.regs ∧
    (State.bbox s t typ part ctx payload).boot = s.boot ∧
    (State.bbox s t typ part ctx payload).power = s.power ∧
    (State.bbox s t typ part ctx payload).slots = s.slots ∧
    (State.bbox s t typ part ctx payload).parcels = s.parcels ∧
    (State.bbox s t typ part ctx payload).mem = s.mem ∧
    (State.bbox s t typ part ctx payload).pois = s.pois ∧
    (State.bbox s t typ part ctx payload).rows = s.rows ∧
    (State.bbox s t typ part ctx payload).bspares = s.bspares ∧
    (State.bbox s t typ part ctx payload).stks = s.stks ∧
    (State.bbox s t typ part ctx payload).chans = s.chans ∧
    (State.bbox s t typ part ctx payload).nbus = s.nbus ∧
    (State.bbox s t typ part ctx payload).crus = s.crus ∧
    (State.bbox s t typ part ctx payload).me = s.me ∧
    (State.bbox s t typ part ctx payload).ve = s.ve ∧
    (State.bbox s t typ part ctx payload).vfiles = s.vfiles ∧
    (State.bbox s t typ part ctx payload).fe = s.fe ∧
    (State.bbox s t typ part ctx payload).sp = s.sp ∧
    (State.bbox s t typ part ctx payload).spPois = s.spPois ∧
    (State.bbox s t typ part ctx payload).ctxs = s.ctxs ∧
    (State.bbox s t typ part ctx payload).parts = s.parts ∧
    (State.bbox s t typ part ctx payload).pages = s.pages ∧
    (State.bbox s t typ part ctx payload).streams = s.streams ∧
    (State.bbox s t typ part ctx payload).ports = s.ports ∧
    (State.bbox s t typ part ctx payload).dirs = s.dirs ∧
    (State.bbox s t typ part ctx payload).lines = s.lines ∧
    (State.bbox s t typ part ctx payload).trans = s.trans ∧
    (State.bbox s t typ part ctx payload).lands = s.lands ∧
    (State.bbox s t typ part ctx payload).xacts = s.xacts ∧
    (State.bbox s t typ part ctx payload).routes = s.routes ∧
    (State.bbox s t typ part ctx payload).admits = s.admits ∧
    (State.bbox s t typ part ctx payload).groups = s.groups ∧
    (State.bbox s t typ part ctx payload).fw = s.fw ∧
    (State.bbox s t typ part ctx payload).logs = s.logs ∧
    (State.bbox s t typ part ctx payload).pm = s.pm ∧
    (State.bbox s t typ part ctx payload).tmap = s.tmap ∧
    (State.bbox s t typ part ctx payload).act = s.act ∧
    (State.bbox s t typ part ctx payload).out = s.out := by
  have h := Keeps.bbox s t typ part ctx payload
  and_intros
  · exact h.same .pending (by decide)
  · exact h.same .cyc (by decide)
  · exact h.same .free (by decide)
  · exact h.same .half (by decide)
  · exact h.same .regs (by decide)
  · exact h.same .boot (by decide)
  · exact h.same .power (by decide)
  · exact h.same .slots (by decide)
  · exact h.same .parcels (by decide)
  · exact h.same .mem (by decide)
  · exact h.same .pois (by decide)
  · exact h.same .rows (by decide)
  · exact h.same .bspares (by decide)
  · exact h.same .stks (by decide)
  · exact h.same .chans (by decide)
  · exact h.same .nbus (by decide)
  · exact h.same .crus (by decide)
  · exact h.same .me (by decide)
  · exact h.same .ve (by decide)
  · exact h.same .vfiles (by decide)
  · exact h.same .fe (by decide)
  · exact h.same .sp (by decide)
  · exact h.same .spPois (by decide)
  · exact h.same .ctxs (by decide)
  · exact h.same .parts (by decide)
  · exact h.same .pages (by decide)
  · exact h.same .streams (by decide)
  · exact h.same .ports (by decide)
  · exact h.same .dirs (by decide)
  · exact h.same .lines (by decide)
  · exact h.same .trans (by decide)
  · exact h.same .lands (by decide)
  · exact h.same .xacts (by decide)
  · exact h.same .routes (by decide)
  · exact h.same .admits (by decide)
  · exact h.same .groups (by decide)
  · exact h.same .fw (by decide)
  · exact h.same .logs (by decide)
  · exact h.same .pm (by decide)
  · exact h.same .tmap (by decide)
  · exact h.same .act (by decide)
  · exact h.same .out (by decide)

@[simp] theorem State.bbox_members (s : State) (t : Nat) (typ : Nat) (part : Option Nat) (ctx : Nat) (payload : List (Nat × Nat × Nat)) :
    (∀ k, (State.bbox s t typ part ctx payload).slot k = s.slot k) ∧
    (∀ k, (State.bbox s t typ part ctx payload).parcel k = s.parcel k) ∧
    (∀ k, (State.bbox s t typ part ctx payload).memByte k = s.memByte k) ∧
    (∀ k, (State.bbox s t typ part ctx payload).colBad k = s.colBad k) ∧
    (∀ k, (State.bbox s t typ part ctx payload).row k = s.row k) ∧
    (∀ k, (State.bbox s t typ part ctx payload).bspare k = s.bspare k) ∧
    (∀ k, (State.bbox s t typ part ctx payload).stack k = s.stack k) ∧
    (∀ k, (State.bbox s t typ part ctx payload).chan k = s.chan k) ∧
    (∀ k, (State.bbox s t typ part ctx payload).nbu k = s.nbu k) ∧
    (∀ k, (State.bbox s t typ part ctx payload).cru k = s.cru k) ∧
    (∀ k, (State.bbox s t typ part ctx payload).mat k = s.mat k) ∧
    (∀ k, (State.bbox s t typ part ctx payload).vec k = s.vec k) ∧
    (∀ k, (State.bbox s t typ part ctx payload).vfile k = s.vfile k) ∧
    (∀ k, (State.bbox s t typ part ctx payload).fchan k = s.fchan k) ∧
    (∀ k, (State.bbox s t typ part ctx payload).spByte k = s.spByte k) ∧
    (∀ k, (State.bbox s t typ part ctx payload).spBad k = s.spBad k) ∧
    (∀ k, (State.bbox s t typ part ctx payload).ctx k = s.ctx k) ∧
    (∀ k, (State.bbox s t typ part ctx payload).part k = s.part k) ∧
    (∀ k, (State.bbox s t typ part ctx payload).page k = s.page k) ∧
    (∀ k, (State.bbox s t typ part ctx payload).stream k = s.stream k) ∧
    (∀ k, (State.bbox s t typ part ctx payload).hport k = s.hport k) ∧
    (∀ k, (State.bbox s t typ part ctx payload).dir k = s.dir k) ∧
    (∀ k, (State.bbox s t typ part ctx payload).tran k = s.tran k) ∧
    (∀ k, (State.bbox s t typ part ctx payload).landing k = s.landing k) ∧
    (∀ k, (State.bbox s t typ part ctx payload).route k = s.route k) ∧
    (∀ k, (State.bbox s t typ part ctx payload).admission k = s.admission k) ∧
    (∀ k, (State.bbox s t typ part ctx payload).group k = s.group k) ∧
    (∀ k, (State.bbox s t typ part ctx payload).counter k = s.counter k) := by
  simp [State.slot, State.parcel, State.memByte, State.colBad, State.row, State.bspare, State.stack, State.chan, State.nbu, State.cru, State.mat, State.vec, State.vfile, State.fchan, State.spByte, State.spBad, State.ctx, State.part, State.page, State.stream, State.hport, State.dir, State.tran, State.landing, State.route, State.admission, State.group, State.counter]

@[simp] theorem State.bboxHead_same (s : State) (t : Nat) (typ : Nat) (payload : List (Nat × Nat × Nat)) :
    (State.bboxHead s t typ payload).pending = s.pending ∧
    (State.bboxHead s t typ payload).cyc = s.cyc ∧
    (State.bboxHead s t typ payload).free = s.free ∧
    (State.bboxHead s t typ payload).half = s.half ∧
    (State.bboxHead s t typ payload).regs = s.regs ∧
    (State.bboxHead s t typ payload).boot = s.boot ∧
    (State.bboxHead s t typ payload).power = s.power ∧
    (State.bboxHead s t typ payload).slots = s.slots ∧
    (State.bboxHead s t typ payload).parcels = s.parcels ∧
    (State.bboxHead s t typ payload).mem = s.mem ∧
    (State.bboxHead s t typ payload).pois = s.pois ∧
    (State.bboxHead s t typ payload).rows = s.rows ∧
    (State.bboxHead s t typ payload).bspares = s.bspares ∧
    (State.bboxHead s t typ payload).stks = s.stks ∧
    (State.bboxHead s t typ payload).chans = s.chans ∧
    (State.bboxHead s t typ payload).nbus = s.nbus ∧
    (State.bboxHead s t typ payload).crus = s.crus ∧
    (State.bboxHead s t typ payload).me = s.me ∧
    (State.bboxHead s t typ payload).ve = s.ve ∧
    (State.bboxHead s t typ payload).vfiles = s.vfiles ∧
    (State.bboxHead s t typ payload).fe = s.fe ∧
    (State.bboxHead s t typ payload).sp = s.sp ∧
    (State.bboxHead s t typ payload).spPois = s.spPois ∧
    (State.bboxHead s t typ payload).ctxs = s.ctxs ∧
    (State.bboxHead s t typ payload).parts = s.parts ∧
    (State.bboxHead s t typ payload).pages = s.pages ∧
    (State.bboxHead s t typ payload).streams = s.streams ∧
    (State.bboxHead s t typ payload).ports = s.ports ∧
    (State.bboxHead s t typ payload).dirs = s.dirs ∧
    (State.bboxHead s t typ payload).lines = s.lines ∧
    (State.bboxHead s t typ payload).trans = s.trans ∧
    (State.bboxHead s t typ payload).lands = s.lands ∧
    (State.bboxHead s t typ payload).xacts = s.xacts ∧
    (State.bboxHead s t typ payload).routes = s.routes ∧
    (State.bboxHead s t typ payload).admits = s.admits ∧
    (State.bboxHead s t typ payload).groups = s.groups ∧
    (State.bboxHead s t typ payload).fw = s.fw ∧
    (State.bboxHead s t typ payload).logs = s.logs ∧
    (State.bboxHead s t typ payload).pm = s.pm ∧
    (State.bboxHead s t typ payload).tmap = s.tmap ∧
    (State.bboxHead s t typ payload).act = s.act ∧
    (State.bboxHead s t typ payload).out = s.out := by
  have h := Keeps.bboxHead s t typ payload
  and_intros
  · exact h.same .pending (by decide)
  · exact h.same .cyc (by decide)
  · exact h.same .free (by decide)
  · exact h.same .half (by decide)
  · exact h.same .regs (by decide)
  · exact h.same .boot (by decide)
  · exact h.same .power (by decide)
  · exact h.same .slots (by decide)
  · exact h.same .parcels (by decide)
  · exact h.same .mem (by decide)
  · exact h.same .pois (by decide)
  · exact h.same .rows (by decide)
  · exact h.same .bspares (by decide)
  · exact h.same .stks (by decide)
  · exact h.same .chans (by decide)
  · exact h.same .nbus (by decide)
  · exact h.same .crus (by decide)
  · exact h.same .me (by decide)
  · exact h.same .ve (by decide)
  · exact h.same .vfiles (by decide)
  · exact h.same .fe (by decide)
  · exact h.same .sp (by decide)
  · exact h.same .spPois (by decide)
  · exact h.same .ctxs (by decide)
  · exact h.same .parts (by decide)
  · exact h.same .pages (by decide)
  · exact h.same .streams (by decide)
  · exact h.same .ports (by decide)
  · exact h.same .dirs (by decide)
  · exact h.same .lines (by decide)
  · exact h.same .trans (by decide)
  · exact h.same .lands (by decide)
  · exact h.same .xacts (by decide)
  · exact h.same .routes (by decide)
  · exact h.same .admits (by decide)
  · exact h.same .groups (by decide)
  · exact h.same .fw (by decide)
  · exact h.same .logs (by decide)
  · exact h.same .pm (by decide)
  · exact h.same .tmap (by decide)
  · exact h.same .act (by decide)
  · exact h.same .out (by decide)

@[simp] theorem State.bboxHead_members (s : State) (t : Nat) (typ : Nat) (payload : List (Nat × Nat × Nat)) :
    (∀ k, (State.bboxHead s t typ payload).slot k = s.slot k) ∧
    (∀ k, (State.bboxHead s t typ payload).parcel k = s.parcel k) ∧
    (∀ k, (State.bboxHead s t typ payload).memByte k = s.memByte k) ∧
    (∀ k, (State.bboxHead s t typ payload).colBad k = s.colBad k) ∧
    (∀ k, (State.bboxHead s t typ payload).row k = s.row k) ∧
    (∀ k, (State.bboxHead s t typ payload).bspare k = s.bspare k) ∧
    (∀ k, (State.bboxHead s t typ payload).stack k = s.stack k) ∧
    (∀ k, (State.bboxHead s t typ payload).chan k = s.chan k) ∧
    (∀ k, (State.bboxHead s t typ payload).nbu k = s.nbu k) ∧
    (∀ k, (State.bboxHead s t typ payload).cru k = s.cru k) ∧
    (∀ k, (State.bboxHead s t typ payload).mat k = s.mat k) ∧
    (∀ k, (State.bboxHead s t typ payload).vec k = s.vec k) ∧
    (∀ k, (State.bboxHead s t typ payload).vfile k = s.vfile k) ∧
    (∀ k, (State.bboxHead s t typ payload).fchan k = s.fchan k) ∧
    (∀ k, (State.bboxHead s t typ payload).spByte k = s.spByte k) ∧
    (∀ k, (State.bboxHead s t typ payload).spBad k = s.spBad k) ∧
    (∀ k, (State.bboxHead s t typ payload).ctx k = s.ctx k) ∧
    (∀ k, (State.bboxHead s t typ payload).part k = s.part k) ∧
    (∀ k, (State.bboxHead s t typ payload).page k = s.page k) ∧
    (∀ k, (State.bboxHead s t typ payload).stream k = s.stream k) ∧
    (∀ k, (State.bboxHead s t typ payload).hport k = s.hport k) ∧
    (∀ k, (State.bboxHead s t typ payload).dir k = s.dir k) ∧
    (∀ k, (State.bboxHead s t typ payload).tran k = s.tran k) ∧
    (∀ k, (State.bboxHead s t typ payload).landing k = s.landing k) ∧
    (∀ k, (State.bboxHead s t typ payload).route k = s.route k) ∧
    (∀ k, (State.bboxHead s t typ payload).admission k = s.admission k) ∧
    (∀ k, (State.bboxHead s t typ payload).group k = s.group k) ∧
    (∀ k, (State.bboxHead s t typ payload).counter k = s.counter k) := by
  simp [State.slot, State.parcel, State.memByte, State.colBad, State.row, State.bspare, State.stack, State.chan, State.nbu, State.cru, State.mat, State.vec, State.vfile, State.fchan, State.spByte, State.spBad, State.ctx, State.part, State.page, State.stream, State.hport, State.dir, State.tran, State.landing, State.route, State.admission, State.group, State.counter]

@[simp] theorem State.count_same (s : State) (t : Nat) (event : Nat) (part : Option Nat) (n : Nat) :
    (State.count s t event part n).pending = s.pending ∧
    (State.count s t event part n).cyc = s.cyc ∧
    (State.count s t event part n).free = s.free ∧
    (State.count s t event part n).half = s.half ∧
    (State.count s t event part n).regs = s.regs ∧
    (State.count s t event part n).boot = s.boot ∧
    (State.count s t event part n).power = s.power ∧
    (State.count s t event part n).slots = s.slots ∧
    (State.count s t event part n).parcels = s.parcels ∧
    (State.count s t event part n).mem = s.mem ∧
    (State.count s t event part n).pois = s.pois ∧
    (State.count s t event part n).rows = s.rows ∧
    (State.count s t event part n).bspares = s.bspares ∧
    (State.count s t event part n).stks = s.stks ∧
    (State.count s t event part n).chans = s.chans ∧
    (State.count s t event part n).nbus = s.nbus ∧
    (State.count s t event part n).crus = s.crus ∧
    (State.count s t event part n).hubs = s.hubs ∧
    (State.count s t event part n).me = s.me ∧
    (State.count s t event part n).ve = s.ve ∧
    (State.count s t event part n).vfiles = s.vfiles ∧
    (State.count s t event part n).fe = s.fe ∧
    (State.count s t event part n).sp = s.sp ∧
    (State.count s t event part n).spPois = s.spPois ∧
    (State.count s t event part n).ctxs = s.ctxs ∧
    (State.count s t event part n).parts = s.parts ∧
    (State.count s t event part n).pages = s.pages ∧
    (State.count s t event part n).streams = s.streams ∧
    (State.count s t event part n).ports = s.ports ∧
    (State.count s t event part n).dirs = s.dirs ∧
    (State.count s t event part n).lines = s.lines ∧
    (State.count s t event part n).trans = s.trans ∧
    (State.count s t event part n).lands = s.lands ∧
    (State.count s t event part n).xacts = s.xacts ∧
    (State.count s t event part n).routes = s.routes ∧
    (State.count s t event part n).admits = s.admits ∧
    (State.count s t event part n).groups = s.groups ∧
    (State.count s t event part n).fw = s.fw ∧
    (State.count s t event part n).logs = s.logs ∧
    (State.count s t event part n).tmap = s.tmap ∧
    (State.count s t event part n).act = s.act ∧
    (State.count s t event part n).out = s.out := by
  have h := Keeps.count s t event part n
  and_intros
  · exact h.same .pending (by decide)
  · exact h.same .cyc (by decide)
  · exact h.same .free (by decide)
  · exact h.same .half (by decide)
  · exact h.same .regs (by decide)
  · exact h.same .boot (by decide)
  · exact h.same .power (by decide)
  · exact h.same .slots (by decide)
  · exact h.same .parcels (by decide)
  · exact h.same .mem (by decide)
  · exact h.same .pois (by decide)
  · exact h.same .rows (by decide)
  · exact h.same .bspares (by decide)
  · exact h.same .stks (by decide)
  · exact h.same .chans (by decide)
  · exact h.same .nbus (by decide)
  · exact h.same .crus (by decide)
  · exact h.same .hubs (by decide)
  · exact h.same .me (by decide)
  · exact h.same .ve (by decide)
  · exact h.same .vfiles (by decide)
  · exact h.same .fe (by decide)
  · exact h.same .sp (by decide)
  · exact h.same .spPois (by decide)
  · exact h.same .ctxs (by decide)
  · exact h.same .parts (by decide)
  · exact h.same .pages (by decide)
  · exact h.same .streams (by decide)
  · exact h.same .ports (by decide)
  · exact h.same .dirs (by decide)
  · exact h.same .lines (by decide)
  · exact h.same .trans (by decide)
  · exact h.same .lands (by decide)
  · exact h.same .xacts (by decide)
  · exact h.same .routes (by decide)
  · exact h.same .admits (by decide)
  · exact h.same .groups (by decide)
  · exact h.same .fw (by decide)
  · exact h.same .logs (by decide)
  · exact h.same .tmap (by decide)
  · exact h.same .act (by decide)
  · exact h.same .out (by decide)

@[simp] theorem State.count_members (s : State) (t : Nat) (event : Nat) (part : Option Nat) (n : Nat) :
    (∀ k, (State.count s t event part n).slot k = s.slot k) ∧
    (∀ k, (State.count s t event part n).parcel k = s.parcel k) ∧
    (∀ k, (State.count s t event part n).memByte k = s.memByte k) ∧
    (∀ k, (State.count s t event part n).colBad k = s.colBad k) ∧
    (∀ k, (State.count s t event part n).row k = s.row k) ∧
    (∀ k, (State.count s t event part n).bspare k = s.bspare k) ∧
    (∀ k, (State.count s t event part n).stack k = s.stack k) ∧
    (∀ k, (State.count s t event part n).chan k = s.chan k) ∧
    (∀ k, (State.count s t event part n).nbu k = s.nbu k) ∧
    (∀ k, (State.count s t event part n).cru k = s.cru k) ∧
    (∀ k, (State.count s t event part n).hub k = s.hub k) ∧
    (∀ k, (State.count s t event part n).mat k = s.mat k) ∧
    (∀ k, (State.count s t event part n).vec k = s.vec k) ∧
    (∀ k, (State.count s t event part n).vfile k = s.vfile k) ∧
    (∀ k, (State.count s t event part n).fchan k = s.fchan k) ∧
    (∀ k, (State.count s t event part n).spByte k = s.spByte k) ∧
    (∀ k, (State.count s t event part n).spBad k = s.spBad k) ∧
    (∀ k, (State.count s t event part n).ctx k = s.ctx k) ∧
    (∀ k, (State.count s t event part n).part k = s.part k) ∧
    (∀ k, (State.count s t event part n).page k = s.page k) ∧
    (∀ k, (State.count s t event part n).stream k = s.stream k) ∧
    (∀ k, (State.count s t event part n).hport k = s.hport k) ∧
    (∀ k, (State.count s t event part n).dir k = s.dir k) ∧
    (∀ k, (State.count s t event part n).tran k = s.tran k) ∧
    (∀ k, (State.count s t event part n).landing k = s.landing k) ∧
    (∀ k, (State.count s t event part n).route k = s.route k) ∧
    (∀ k, (State.count s t event part n).admission k = s.admission k) ∧
    (∀ k, (State.count s t event part n).group k = s.group k) := by
  simp [State.slot, State.parcel, State.memByte, State.colBad, State.row, State.bspare, State.stack, State.chan, State.nbu, State.cru, State.hub, State.mat, State.vec, State.vfile, State.fchan, State.spByte, State.spBad, State.ctx, State.part, State.page, State.stream, State.hport, State.dir, State.tran, State.landing, State.route, State.admission, State.group]

@[simp] theorem State.hostWrite_same (s : State) (w : HostWrite) :
    (State.hostWrite s w).pending = s.pending ∧
    (State.hostWrite s w).cyc = s.cyc ∧
    (State.hostWrite s w).free = s.free ∧
    (State.hostWrite s w).half = s.half ∧
    (State.hostWrite s w).regs = s.regs ∧
    (State.hostWrite s w).boot = s.boot ∧
    (State.hostWrite s w).power = s.power ∧
    (State.hostWrite s w).slots = s.slots ∧
    (State.hostWrite s w).parcels = s.parcels ∧
    (State.hostWrite s w).mem = s.mem ∧
    (State.hostWrite s w).pois = s.pois ∧
    (State.hostWrite s w).rows = s.rows ∧
    (State.hostWrite s w).bspares = s.bspares ∧
    (State.hostWrite s w).stks = s.stks ∧
    (State.hostWrite s w).chans = s.chans ∧
    (State.hostWrite s w).nbus = s.nbus ∧
    (State.hostWrite s w).crus = s.crus ∧
    (State.hostWrite s w).hubs = s.hubs ∧
    (State.hostWrite s w).me = s.me ∧
    (State.hostWrite s w).ve = s.ve ∧
    (State.hostWrite s w).vfiles = s.vfiles ∧
    (State.hostWrite s w).fe = s.fe ∧
    (State.hostWrite s w).sp = s.sp ∧
    (State.hostWrite s w).spPois = s.spPois ∧
    (State.hostWrite s w).ctxs = s.ctxs ∧
    (State.hostWrite s w).pages = s.pages ∧
    (State.hostWrite s w).streams = s.streams ∧
    (State.hostWrite s w).ports = s.ports ∧
    (State.hostWrite s w).dirs = s.dirs ∧
    (State.hostWrite s w).lines = s.lines ∧
    (State.hostWrite s w).trans = s.trans ∧
    (State.hostWrite s w).lands = s.lands ∧
    (State.hostWrite s w).xacts = s.xacts ∧
    (State.hostWrite s w).routes = s.routes ∧
    (State.hostWrite s w).admits = s.admits ∧
    (State.hostWrite s w).groups = s.groups ∧
    (State.hostWrite s w).fw = s.fw ∧
    (State.hostWrite s w).logs = s.logs ∧
    (State.hostWrite s w).pm = s.pm ∧
    (State.hostWrite s w).tmap = s.tmap := by
  have h := Keeps.hostWrite s w
  and_intros
  · exact h.same .pending (by decide)
  · exact h.same .cyc (by decide)
  · exact h.same .free (by decide)
  · exact h.same .half (by decide)
  · exact h.same .regs (by decide)
  · exact h.same .boot (by decide)
  · exact h.same .power (by decide)
  · exact h.same .slots (by decide)
  · exact h.same .parcels (by decide)
  · exact h.same .mem (by decide)
  · exact h.same .pois (by decide)
  · exact h.same .rows (by decide)
  · exact h.same .bspares (by decide)
  · exact h.same .stks (by decide)
  · exact h.same .chans (by decide)
  · exact h.same .nbus (by decide)
  · exact h.same .crus (by decide)
  · exact h.same .hubs (by decide)
  · exact h.same .me (by decide)
  · exact h.same .ve (by decide)
  · exact h.same .vfiles (by decide)
  · exact h.same .fe (by decide)
  · exact h.same .sp (by decide)
  · exact h.same .spPois (by decide)
  · exact h.same .ctxs (by decide)
  · exact h.same .pages (by decide)
  · exact h.same .streams (by decide)
  · exact h.same .ports (by decide)
  · exact h.same .dirs (by decide)
  · exact h.same .lines (by decide)
  · exact h.same .trans (by decide)
  · exact h.same .lands (by decide)
  · exact h.same .xacts (by decide)
  · exact h.same .routes (by decide)
  · exact h.same .admits (by decide)
  · exact h.same .groups (by decide)
  · exact h.same .fw (by decide)
  · exact h.same .logs (by decide)
  · exact h.same .pm (by decide)
  · exact h.same .tmap (by decide)

@[simp] theorem State.hostWrite_members (s : State) (w : HostWrite) :
    (∀ k, (State.hostWrite s w).slot k = s.slot k) ∧
    (∀ k, (State.hostWrite s w).parcel k = s.parcel k) ∧
    (∀ k, (State.hostWrite s w).memByte k = s.memByte k) ∧
    (∀ k, (State.hostWrite s w).colBad k = s.colBad k) ∧
    (∀ k, (State.hostWrite s w).row k = s.row k) ∧
    (∀ k, (State.hostWrite s w).bspare k = s.bspare k) ∧
    (∀ k, (State.hostWrite s w).stack k = s.stack k) ∧
    (∀ k, (State.hostWrite s w).chan k = s.chan k) ∧
    (∀ k, (State.hostWrite s w).nbu k = s.nbu k) ∧
    (∀ k, (State.hostWrite s w).cru k = s.cru k) ∧
    (∀ k, (State.hostWrite s w).hub k = s.hub k) ∧
    (∀ k, (State.hostWrite s w).mat k = s.mat k) ∧
    (∀ k, (State.hostWrite s w).vec k = s.vec k) ∧
    (∀ k, (State.hostWrite s w).vfile k = s.vfile k) ∧
    (∀ k, (State.hostWrite s w).fchan k = s.fchan k) ∧
    (∀ k, (State.hostWrite s w).spByte k = s.spByte k) ∧
    (∀ k, (State.hostWrite s w).spBad k = s.spBad k) ∧
    (∀ k, (State.hostWrite s w).ctx k = s.ctx k) ∧
    (∀ k, (State.hostWrite s w).page k = s.page k) ∧
    (∀ k, (State.hostWrite s w).stream k = s.stream k) ∧
    (∀ k, (State.hostWrite s w).hport k = s.hport k) ∧
    (∀ k, (State.hostWrite s w).dir k = s.dir k) ∧
    (∀ k, (State.hostWrite s w).tran k = s.tran k) ∧
    (∀ k, (State.hostWrite s w).landing k = s.landing k) ∧
    (∀ k, (State.hostWrite s w).route k = s.route k) ∧
    (∀ k, (State.hostWrite s w).admission k = s.admission k) ∧
    (∀ k, (State.hostWrite s w).group k = s.group k) ∧
    (∀ k, (State.hostWrite s w).counter k = s.counter k) := by
  simp [State.slot, State.parcel, State.memByte, State.colBad, State.row, State.bspare, State.stack, State.chan, State.nbu, State.cru, State.hub, State.mat, State.vec, State.vfile, State.fchan, State.spByte, State.spBad, State.ctx, State.page, State.stream, State.hport, State.dir, State.tran, State.landing, State.route, State.admission, State.group, State.counter]

@[simp] theorem State.trace_same (s : State) (kind : Nat) (part : Option Nat) (ctx : Nat) (eng : Nat) (step : Nat) (op : Nat) (arg1 : Nat) (arg2 : Nat) :
    (State.trace s kind part ctx eng step op arg1 arg2).pending = s.pending ∧
    (State.trace s kind part ctx eng step op arg1 arg2).cyc = s.cyc ∧
    (State.trace s kind part ctx eng step op arg1 arg2).free = s.free ∧
    (State.trace s kind part ctx eng step op arg1 arg2).half = s.half ∧
    (State.trace s kind part ctx eng step op arg1 arg2).regs = s.regs ∧
    (State.trace s kind part ctx eng step op arg1 arg2).boot = s.boot ∧
    (State.trace s kind part ctx eng step op arg1 arg2).power = s.power ∧
    (State.trace s kind part ctx eng step op arg1 arg2).slots = s.slots ∧
    (State.trace s kind part ctx eng step op arg1 arg2).parcels = s.parcels ∧
    (State.trace s kind part ctx eng step op arg1 arg2).mem = s.mem ∧
    (State.trace s kind part ctx eng step op arg1 arg2).pois = s.pois ∧
    (State.trace s kind part ctx eng step op arg1 arg2).rows = s.rows ∧
    (State.trace s kind part ctx eng step op arg1 arg2).bspares = s.bspares ∧
    (State.trace s kind part ctx eng step op arg1 arg2).stks = s.stks ∧
    (State.trace s kind part ctx eng step op arg1 arg2).chans = s.chans ∧
    (State.trace s kind part ctx eng step op arg1 arg2).nbus = s.nbus ∧
    (State.trace s kind part ctx eng step op arg1 arg2).crus = s.crus ∧
    (State.trace s kind part ctx eng step op arg1 arg2).hubs = s.hubs ∧
    (State.trace s kind part ctx eng step op arg1 arg2).me = s.me ∧
    (State.trace s kind part ctx eng step op arg1 arg2).ve = s.ve ∧
    (State.trace s kind part ctx eng step op arg1 arg2).vfiles = s.vfiles ∧
    (State.trace s kind part ctx eng step op arg1 arg2).fe = s.fe ∧
    (State.trace s kind part ctx eng step op arg1 arg2).sp = s.sp ∧
    (State.trace s kind part ctx eng step op arg1 arg2).spPois = s.spPois ∧
    (State.trace s kind part ctx eng step op arg1 arg2).ctxs = s.ctxs ∧
    (State.trace s kind part ctx eng step op arg1 arg2).pages = s.pages ∧
    (State.trace s kind part ctx eng step op arg1 arg2).streams = s.streams ∧
    (State.trace s kind part ctx eng step op arg1 arg2).dirs = s.dirs ∧
    (State.trace s kind part ctx eng step op arg1 arg2).lines = s.lines ∧
    (State.trace s kind part ctx eng step op arg1 arg2).trans = s.trans ∧
    (State.trace s kind part ctx eng step op arg1 arg2).lands = s.lands ∧
    (State.trace s kind part ctx eng step op arg1 arg2).xacts = s.xacts ∧
    (State.trace s kind part ctx eng step op arg1 arg2).routes = s.routes ∧
    (State.trace s kind part ctx eng step op arg1 arg2).admits = s.admits ∧
    (State.trace s kind part ctx eng step op arg1 arg2).groups = s.groups ∧
    (State.trace s kind part ctx eng step op arg1 arg2).fw = s.fw ∧
    (State.trace s kind part ctx eng step op arg1 arg2).logs = s.logs ∧
    (State.trace s kind part ctx eng step op arg1 arg2).pm = s.pm ∧
    (State.trace s kind part ctx eng step op arg1 arg2).tmap = s.tmap := by
  have h := Keeps.trace s kind part ctx eng step op arg1 arg2
  and_intros
  · exact h.same .pending (by decide)
  · exact h.same .cyc (by decide)
  · exact h.same .free (by decide)
  · exact h.same .half (by decide)
  · exact h.same .regs (by decide)
  · exact h.same .boot (by decide)
  · exact h.same .power (by decide)
  · exact h.same .slots (by decide)
  · exact h.same .parcels (by decide)
  · exact h.same .mem (by decide)
  · exact h.same .pois (by decide)
  · exact h.same .rows (by decide)
  · exact h.same .bspares (by decide)
  · exact h.same .stks (by decide)
  · exact h.same .chans (by decide)
  · exact h.same .nbus (by decide)
  · exact h.same .crus (by decide)
  · exact h.same .hubs (by decide)
  · exact h.same .me (by decide)
  · exact h.same .ve (by decide)
  · exact h.same .vfiles (by decide)
  · exact h.same .fe (by decide)
  · exact h.same .sp (by decide)
  · exact h.same .spPois (by decide)
  · exact h.same .ctxs (by decide)
  · exact h.same .pages (by decide)
  · exact h.same .streams (by decide)
  · exact h.same .dirs (by decide)
  · exact h.same .lines (by decide)
  · exact h.same .trans (by decide)
  · exact h.same .lands (by decide)
  · exact h.same .xacts (by decide)
  · exact h.same .routes (by decide)
  · exact h.same .admits (by decide)
  · exact h.same .groups (by decide)
  · exact h.same .fw (by decide)
  · exact h.same .logs (by decide)
  · exact h.same .pm (by decide)
  · exact h.same .tmap (by decide)

@[simp] theorem State.trace_members (s : State) (kind : Nat) (part : Option Nat) (ctx : Nat) (eng : Nat) (step : Nat) (op : Nat) (arg1 : Nat) (arg2 : Nat) :
    (∀ k, (State.trace s kind part ctx eng step op arg1 arg2).slot k = s.slot k) ∧
    (∀ k, (State.trace s kind part ctx eng step op arg1 arg2).parcel k = s.parcel k) ∧
    (∀ k, (State.trace s kind part ctx eng step op arg1 arg2).memByte k = s.memByte k) ∧
    (∀ k, (State.trace s kind part ctx eng step op arg1 arg2).colBad k = s.colBad k) ∧
    (∀ k, (State.trace s kind part ctx eng step op arg1 arg2).row k = s.row k) ∧
    (∀ k, (State.trace s kind part ctx eng step op arg1 arg2).bspare k = s.bspare k) ∧
    (∀ k, (State.trace s kind part ctx eng step op arg1 arg2).stack k = s.stack k) ∧
    (∀ k, (State.trace s kind part ctx eng step op arg1 arg2).chan k = s.chan k) ∧
    (∀ k, (State.trace s kind part ctx eng step op arg1 arg2).nbu k = s.nbu k) ∧
    (∀ k, (State.trace s kind part ctx eng step op arg1 arg2).cru k = s.cru k) ∧
    (∀ k, (State.trace s kind part ctx eng step op arg1 arg2).hub k = s.hub k) ∧
    (∀ k, (State.trace s kind part ctx eng step op arg1 arg2).mat k = s.mat k) ∧
    (∀ k, (State.trace s kind part ctx eng step op arg1 arg2).vec k = s.vec k) ∧
    (∀ k, (State.trace s kind part ctx eng step op arg1 arg2).vfile k = s.vfile k) ∧
    (∀ k, (State.trace s kind part ctx eng step op arg1 arg2).fchan k = s.fchan k) ∧
    (∀ k, (State.trace s kind part ctx eng step op arg1 arg2).spByte k = s.spByte k) ∧
    (∀ k, (State.trace s kind part ctx eng step op arg1 arg2).spBad k = s.spBad k) ∧
    (∀ k, (State.trace s kind part ctx eng step op arg1 arg2).ctx k = s.ctx k) ∧
    (∀ k, (State.trace s kind part ctx eng step op arg1 arg2).page k = s.page k) ∧
    (∀ k, (State.trace s kind part ctx eng step op arg1 arg2).stream k = s.stream k) ∧
    (∀ k, (State.trace s kind part ctx eng step op arg1 arg2).dir k = s.dir k) ∧
    (∀ k, (State.trace s kind part ctx eng step op arg1 arg2).tran k = s.tran k) ∧
    (∀ k, (State.trace s kind part ctx eng step op arg1 arg2).landing k = s.landing k) ∧
    (∀ k, (State.trace s kind part ctx eng step op arg1 arg2).route k = s.route k) ∧
    (∀ k, (State.trace s kind part ctx eng step op arg1 arg2).admission k = s.admission k) ∧
    (∀ k, (State.trace s kind part ctx eng step op arg1 arg2).group k = s.group k) ∧
    (∀ k, (State.trace s kind part ctx eng step op arg1 arg2).counter k = s.counter k) := by
  simp [State.slot, State.parcel, State.memByte, State.colBad, State.row, State.bspare, State.stack, State.chan, State.nbu, State.cru, State.hub, State.mat, State.vec, State.vfile, State.fchan, State.spByte, State.spBad, State.ctx, State.page, State.stream, State.dir, State.tran, State.landing, State.route, State.admission, State.group, State.counter]

@[simp] theorem State.writeControl_same (s : State) (k : Nat) :
    (State.writeControl s k).pending = s.pending ∧
    (State.writeControl s k).cyc = s.cyc ∧
    (State.writeControl s k).free = s.free ∧
    (State.writeControl s k).half = s.half ∧
    (State.writeControl s k).regs = s.regs ∧
    (State.writeControl s k).boot = s.boot ∧
    (State.writeControl s k).power = s.power ∧
    (State.writeControl s k).slots = s.slots ∧
    (State.writeControl s k).parcels = s.parcels ∧
    (State.writeControl s k).mem = s.mem ∧
    (State.writeControl s k).pois = s.pois ∧
    (State.writeControl s k).rows = s.rows ∧
    (State.writeControl s k).bspares = s.bspares ∧
    (State.writeControl s k).stks = s.stks ∧
    (State.writeControl s k).chans = s.chans ∧
    (State.writeControl s k).nbus = s.nbus ∧
    (State.writeControl s k).crus = s.crus ∧
    (State.writeControl s k).hubs = s.hubs ∧
    (State.writeControl s k).me = s.me ∧
    (State.writeControl s k).ve = s.ve ∧
    (State.writeControl s k).vfiles = s.vfiles ∧
    (State.writeControl s k).fe = s.fe ∧
    (State.writeControl s k).sp = s.sp ∧
    (State.writeControl s k).spPois = s.spPois ∧
    (State.writeControl s k).ctxs = s.ctxs ∧
    (State.writeControl s k).pages = s.pages ∧
    (State.writeControl s k).streams = s.streams ∧
    (State.writeControl s k).ports = s.ports ∧
    (State.writeControl s k).dirs = s.dirs ∧
    (State.writeControl s k).lines = s.lines ∧
    (State.writeControl s k).trans = s.trans ∧
    (State.writeControl s k).lands = s.lands ∧
    (State.writeControl s k).xacts = s.xacts ∧
    (State.writeControl s k).routes = s.routes ∧
    (State.writeControl s k).admits = s.admits ∧
    (State.writeControl s k).groups = s.groups ∧
    (State.writeControl s k).fw = s.fw ∧
    (State.writeControl s k).logs = s.logs ∧
    (State.writeControl s k).pm = s.pm ∧
    (State.writeControl s k).tmap = s.tmap := by
  have h := Keeps.writeControl s k
  and_intros
  · exact h.same .pending (by decide)
  · exact h.same .cyc (by decide)
  · exact h.same .free (by decide)
  · exact h.same .half (by decide)
  · exact h.same .regs (by decide)
  · exact h.same .boot (by decide)
  · exact h.same .power (by decide)
  · exact h.same .slots (by decide)
  · exact h.same .parcels (by decide)
  · exact h.same .mem (by decide)
  · exact h.same .pois (by decide)
  · exact h.same .rows (by decide)
  · exact h.same .bspares (by decide)
  · exact h.same .stks (by decide)
  · exact h.same .chans (by decide)
  · exact h.same .nbus (by decide)
  · exact h.same .crus (by decide)
  · exact h.same .hubs (by decide)
  · exact h.same .me (by decide)
  · exact h.same .ve (by decide)
  · exact h.same .vfiles (by decide)
  · exact h.same .fe (by decide)
  · exact h.same .sp (by decide)
  · exact h.same .spPois (by decide)
  · exact h.same .ctxs (by decide)
  · exact h.same .pages (by decide)
  · exact h.same .streams (by decide)
  · exact h.same .ports (by decide)
  · exact h.same .dirs (by decide)
  · exact h.same .lines (by decide)
  · exact h.same .trans (by decide)
  · exact h.same .lands (by decide)
  · exact h.same .xacts (by decide)
  · exact h.same .routes (by decide)
  · exact h.same .admits (by decide)
  · exact h.same .groups (by decide)
  · exact h.same .fw (by decide)
  · exact h.same .logs (by decide)
  · exact h.same .pm (by decide)
  · exact h.same .tmap (by decide)

@[simp] theorem State.writeControl_members (s : State) (k : Nat) :
    (∀ k, (State.writeControl s k).slot k = s.slot k) ∧
    (∀ k, (State.writeControl s k).parcel k = s.parcel k) ∧
    (∀ k, (State.writeControl s k).memByte k = s.memByte k) ∧
    (∀ k, (State.writeControl s k).colBad k = s.colBad k) ∧
    (∀ k, (State.writeControl s k).row k = s.row k) ∧
    (∀ k, (State.writeControl s k).bspare k = s.bspare k) ∧
    (∀ k, (State.writeControl s k).stack k = s.stack k) ∧
    (∀ k, (State.writeControl s k).chan k = s.chan k) ∧
    (∀ k, (State.writeControl s k).nbu k = s.nbu k) ∧
    (∀ k, (State.writeControl s k).cru k = s.cru k) ∧
    (∀ k, (State.writeControl s k).hub k = s.hub k) ∧
    (∀ k, (State.writeControl s k).mat k = s.mat k) ∧
    (∀ k, (State.writeControl s k).vec k = s.vec k) ∧
    (∀ k, (State.writeControl s k).vfile k = s.vfile k) ∧
    (∀ k, (State.writeControl s k).fchan k = s.fchan k) ∧
    (∀ k, (State.writeControl s k).spByte k = s.spByte k) ∧
    (∀ k, (State.writeControl s k).spBad k = s.spBad k) ∧
    (∀ k, (State.writeControl s k).ctx k = s.ctx k) ∧
    (∀ k, (State.writeControl s k).page k = s.page k) ∧
    (∀ k, (State.writeControl s k).stream k = s.stream k) ∧
    (∀ k, (State.writeControl s k).hport k = s.hport k) ∧
    (∀ k, (State.writeControl s k).dir k = s.dir k) ∧
    (∀ k, (State.writeControl s k).tran k = s.tran k) ∧
    (∀ k, (State.writeControl s k).landing k = s.landing k) ∧
    (∀ k, (State.writeControl s k).route k = s.route k) ∧
    (∀ k, (State.writeControl s k).admission k = s.admission k) ∧
    (∀ k, (State.writeControl s k).group k = s.group k) ∧
    (∀ k, (State.writeControl s k).counter k = s.counter k) := by
  simp [State.slot, State.parcel, State.memByte, State.colBad, State.row, State.bspare, State.stack, State.chan, State.nbu, State.cru, State.hub, State.mat, State.vec, State.vfile, State.fchan, State.spByte, State.spBad, State.ctx, State.page, State.stream, State.hport, State.dir, State.tran, State.landing, State.route, State.admission, State.group, State.counter]

@[simp] theorem State.writeCompletion_same (s : State) (k : Nat) (c : Completion) :
    (State.writeCompletion s k c).pending = s.pending ∧
    (State.writeCompletion s k c).cyc = s.cyc ∧
    (State.writeCompletion s k c).free = s.free ∧
    (State.writeCompletion s k c).half = s.half ∧
    (State.writeCompletion s k c).regs = s.regs ∧
    (State.writeCompletion s k c).boot = s.boot ∧
    (State.writeCompletion s k c).power = s.power ∧
    (State.writeCompletion s k c).slots = s.slots ∧
    (State.writeCompletion s k c).parcels = s.parcels ∧
    (State.writeCompletion s k c).mem = s.mem ∧
    (State.writeCompletion s k c).pois = s.pois ∧
    (State.writeCompletion s k c).rows = s.rows ∧
    (State.writeCompletion s k c).bspares = s.bspares ∧
    (State.writeCompletion s k c).stks = s.stks ∧
    (State.writeCompletion s k c).chans = s.chans ∧
    (State.writeCompletion s k c).nbus = s.nbus ∧
    (State.writeCompletion s k c).crus = s.crus ∧
    (State.writeCompletion s k c).hubs = s.hubs ∧
    (State.writeCompletion s k c).me = s.me ∧
    (State.writeCompletion s k c).ve = s.ve ∧
    (State.writeCompletion s k c).vfiles = s.vfiles ∧
    (State.writeCompletion s k c).fe = s.fe ∧
    (State.writeCompletion s k c).sp = s.sp ∧
    (State.writeCompletion s k c).spPois = s.spPois ∧
    (State.writeCompletion s k c).ctxs = s.ctxs ∧
    (State.writeCompletion s k c).streams = s.streams ∧
    (State.writeCompletion s k c).dirs = s.dirs ∧
    (State.writeCompletion s k c).lines = s.lines ∧
    (State.writeCompletion s k c).trans = s.trans ∧
    (State.writeCompletion s k c).lands = s.lands ∧
    (State.writeCompletion s k c).xacts = s.xacts ∧
    (State.writeCompletion s k c).routes = s.routes ∧
    (State.writeCompletion s k c).admits = s.admits ∧
    (State.writeCompletion s k c).groups = s.groups ∧
    (State.writeCompletion s k c).fw = s.fw ∧
    (State.writeCompletion s k c).logs = s.logs ∧
    (State.writeCompletion s k c).pm = s.pm ∧
    (State.writeCompletion s k c).tmap = s.tmap := by
  have h := Keeps.writeCompletion s k c
  and_intros
  · exact h.same .pending (by decide)
  · exact h.same .cyc (by decide)
  · exact h.same .free (by decide)
  · exact h.same .half (by decide)
  · exact h.same .regs (by decide)
  · exact h.same .boot (by decide)
  · exact h.same .power (by decide)
  · exact h.same .slots (by decide)
  · exact h.same .parcels (by decide)
  · exact h.same .mem (by decide)
  · exact h.same .pois (by decide)
  · exact h.same .rows (by decide)
  · exact h.same .bspares (by decide)
  · exact h.same .stks (by decide)
  · exact h.same .chans (by decide)
  · exact h.same .nbus (by decide)
  · exact h.same .crus (by decide)
  · exact h.same .hubs (by decide)
  · exact h.same .me (by decide)
  · exact h.same .ve (by decide)
  · exact h.same .vfiles (by decide)
  · exact h.same .fe (by decide)
  · exact h.same .sp (by decide)
  · exact h.same .spPois (by decide)
  · exact h.same .ctxs (by decide)
  · exact h.same .streams (by decide)
  · exact h.same .dirs (by decide)
  · exact h.same .lines (by decide)
  · exact h.same .trans (by decide)
  · exact h.same .lands (by decide)
  · exact h.same .xacts (by decide)
  · exact h.same .routes (by decide)
  · exact h.same .admits (by decide)
  · exact h.same .groups (by decide)
  · exact h.same .fw (by decide)
  · exact h.same .logs (by decide)
  · exact h.same .pm (by decide)
  · exact h.same .tmap (by decide)

@[simp] theorem State.writeCompletion_members (s : State) (k : Nat) (c : Completion) :
    (∀ k, (State.writeCompletion s k c).slot k = s.slot k) ∧
    (∀ k, (State.writeCompletion s k c).parcel k = s.parcel k) ∧
    (∀ k, (State.writeCompletion s k c).memByte k = s.memByte k) ∧
    (∀ k, (State.writeCompletion s k c).colBad k = s.colBad k) ∧
    (∀ k, (State.writeCompletion s k c).row k = s.row k) ∧
    (∀ k, (State.writeCompletion s k c).bspare k = s.bspare k) ∧
    (∀ k, (State.writeCompletion s k c).stack k = s.stack k) ∧
    (∀ k, (State.writeCompletion s k c).chan k = s.chan k) ∧
    (∀ k, (State.writeCompletion s k c).nbu k = s.nbu k) ∧
    (∀ k, (State.writeCompletion s k c).cru k = s.cru k) ∧
    (∀ k, (State.writeCompletion s k c).hub k = s.hub k) ∧
    (∀ k, (State.writeCompletion s k c).mat k = s.mat k) ∧
    (∀ k, (State.writeCompletion s k c).vec k = s.vec k) ∧
    (∀ k, (State.writeCompletion s k c).vfile k = s.vfile k) ∧
    (∀ k, (State.writeCompletion s k c).fchan k = s.fchan k) ∧
    (∀ k, (State.writeCompletion s k c).spByte k = s.spByte k) ∧
    (∀ k, (State.writeCompletion s k c).spBad k = s.spBad k) ∧
    (∀ k, (State.writeCompletion s k c).ctx k = s.ctx k) ∧
    (∀ k, (State.writeCompletion s k c).stream k = s.stream k) ∧
    (∀ k, (State.writeCompletion s k c).dir k = s.dir k) ∧
    (∀ k, (State.writeCompletion s k c).tran k = s.tran k) ∧
    (∀ k, (State.writeCompletion s k c).landing k = s.landing k) ∧
    (∀ k, (State.writeCompletion s k c).route k = s.route k) ∧
    (∀ k, (State.writeCompletion s k c).admission k = s.admission k) ∧
    (∀ k, (State.writeCompletion s k c).group k = s.group k) ∧
    (∀ k, (State.writeCompletion s k c).counter k = s.counter k) := by
  simp [State.slot, State.parcel, State.memByte, State.colBad, State.row, State.bspare, State.stack, State.chan, State.nbu, State.cru, State.hub, State.mat, State.vec, State.vfile, State.fchan, State.spByte, State.spBad, State.ctx, State.stream, State.dir, State.tran, State.landing, State.route, State.admission, State.group, State.counter]

@[simp] theorem State.dropDesc_same (s : State) (k : Nat) (serial : Nat) :
    (State.dropDesc s k serial).pending = s.pending ∧
    (State.dropDesc s k serial).cyc = s.cyc ∧
    (State.dropDesc s k serial).free = s.free ∧
    (State.dropDesc s k serial).half = s.half ∧
    (State.dropDesc s k serial).regs = s.regs ∧
    (State.dropDesc s k serial).boot = s.boot ∧
    (State.dropDesc s k serial).power = s.power ∧
    (State.dropDesc s k serial).slots = s.slots ∧
    (State.dropDesc s k serial).parcels = s.parcels ∧
    (State.dropDesc s k serial).mem = s.mem ∧
    (State.dropDesc s k serial).pois = s.pois ∧
    (State.dropDesc s k serial).rows = s.rows ∧
    (State.dropDesc s k serial).bspares = s.bspares ∧
    (State.dropDesc s k serial).stks = s.stks ∧
    (State.dropDesc s k serial).chans = s.chans ∧
    (State.dropDesc s k serial).nbus = s.nbus ∧
    (State.dropDesc s k serial).crus = s.crus ∧
    (State.dropDesc s k serial).hubs = s.hubs ∧
    (State.dropDesc s k serial).me = s.me ∧
    (State.dropDesc s k serial).ve = s.ve ∧
    (State.dropDesc s k serial).vfiles = s.vfiles ∧
    (State.dropDesc s k serial).fe = s.fe ∧
    (State.dropDesc s k serial).sp = s.sp ∧
    (State.dropDesc s k serial).spPois = s.spPois ∧
    (State.dropDesc s k serial).ctxs = s.ctxs ∧
    (State.dropDesc s k serial).parts = s.parts ∧
    (State.dropDesc s k serial).streams = s.streams ∧
    (State.dropDesc s k serial).ports = s.ports ∧
    (State.dropDesc s k serial).dirs = s.dirs ∧
    (State.dropDesc s k serial).lines = s.lines ∧
    (State.dropDesc s k serial).trans = s.trans ∧
    (State.dropDesc s k serial).lands = s.lands ∧
    (State.dropDesc s k serial).xacts = s.xacts ∧
    (State.dropDesc s k serial).routes = s.routes ∧
    (State.dropDesc s k serial).admits = s.admits ∧
    (State.dropDesc s k serial).groups = s.groups ∧
    (State.dropDesc s k serial).fw = s.fw ∧
    (State.dropDesc s k serial).logs = s.logs ∧
    (State.dropDesc s k serial).pm = s.pm ∧
    (State.dropDesc s k serial).tmap = s.tmap ∧
    (State.dropDesc s k serial).act = s.act ∧
    (State.dropDesc s k serial).out = s.out := by
  have h := Keeps.dropDesc s k serial
  and_intros
  · exact h.same .pending (by decide)
  · exact h.same .cyc (by decide)
  · exact h.same .free (by decide)
  · exact h.same .half (by decide)
  · exact h.same .regs (by decide)
  · exact h.same .boot (by decide)
  · exact h.same .power (by decide)
  · exact h.same .slots (by decide)
  · exact h.same .parcels (by decide)
  · exact h.same .mem (by decide)
  · exact h.same .pois (by decide)
  · exact h.same .rows (by decide)
  · exact h.same .bspares (by decide)
  · exact h.same .stks (by decide)
  · exact h.same .chans (by decide)
  · exact h.same .nbus (by decide)
  · exact h.same .crus (by decide)
  · exact h.same .hubs (by decide)
  · exact h.same .me (by decide)
  · exact h.same .ve (by decide)
  · exact h.same .vfiles (by decide)
  · exact h.same .fe (by decide)
  · exact h.same .sp (by decide)
  · exact h.same .spPois (by decide)
  · exact h.same .ctxs (by decide)
  · exact h.same .parts (by decide)
  · exact h.same .streams (by decide)
  · exact h.same .ports (by decide)
  · exact h.same .dirs (by decide)
  · exact h.same .lines (by decide)
  · exact h.same .trans (by decide)
  · exact h.same .lands (by decide)
  · exact h.same .xacts (by decide)
  · exact h.same .routes (by decide)
  · exact h.same .admits (by decide)
  · exact h.same .groups (by decide)
  · exact h.same .fw (by decide)
  · exact h.same .logs (by decide)
  · exact h.same .pm (by decide)
  · exact h.same .tmap (by decide)
  · exact h.same .act (by decide)
  · exact h.same .out (by decide)

@[simp] theorem State.dropDesc_members (s : State) (k : Nat) (serial : Nat) :
    (∀ k, (State.dropDesc s k serial).slot k = s.slot k) ∧
    (∀ k, (State.dropDesc s k serial).parcel k = s.parcel k) ∧
    (∀ k, (State.dropDesc s k serial).memByte k = s.memByte k) ∧
    (∀ k, (State.dropDesc s k serial).colBad k = s.colBad k) ∧
    (∀ k, (State.dropDesc s k serial).row k = s.row k) ∧
    (∀ k, (State.dropDesc s k serial).bspare k = s.bspare k) ∧
    (∀ k, (State.dropDesc s k serial).stack k = s.stack k) ∧
    (∀ k, (State.dropDesc s k serial).chan k = s.chan k) ∧
    (∀ k, (State.dropDesc s k serial).nbu k = s.nbu k) ∧
    (∀ k, (State.dropDesc s k serial).cru k = s.cru k) ∧
    (∀ k, (State.dropDesc s k serial).hub k = s.hub k) ∧
    (∀ k, (State.dropDesc s k serial).mat k = s.mat k) ∧
    (∀ k, (State.dropDesc s k serial).vec k = s.vec k) ∧
    (∀ k, (State.dropDesc s k serial).vfile k = s.vfile k) ∧
    (∀ k, (State.dropDesc s k serial).fchan k = s.fchan k) ∧
    (∀ k, (State.dropDesc s k serial).spByte k = s.spByte k) ∧
    (∀ k, (State.dropDesc s k serial).spBad k = s.spBad k) ∧
    (∀ k, (State.dropDesc s k serial).ctx k = s.ctx k) ∧
    (∀ k, (State.dropDesc s k serial).part k = s.part k) ∧
    (∀ k, (State.dropDesc s k serial).stream k = s.stream k) ∧
    (∀ k, (State.dropDesc s k serial).hport k = s.hport k) ∧
    (∀ k, (State.dropDesc s k serial).dir k = s.dir k) ∧
    (∀ k, (State.dropDesc s k serial).tran k = s.tran k) ∧
    (∀ k, (State.dropDesc s k serial).landing k = s.landing k) ∧
    (∀ k, (State.dropDesc s k serial).route k = s.route k) ∧
    (∀ k, (State.dropDesc s k serial).admission k = s.admission k) ∧
    (∀ k, (State.dropDesc s k serial).group k = s.group k) ∧
    (∀ k, (State.dropDesc s k serial).counter k = s.counter k) := by
  simp [State.slot, State.parcel, State.memByte, State.colBad, State.row, State.bspare, State.stack, State.chan, State.nbu, State.cru, State.hub, State.mat, State.vec, State.vfile, State.fchan, State.spByte, State.spBad, State.ctx, State.part, State.stream, State.hport, State.dir, State.tran, State.landing, State.route, State.admission, State.group, State.counter]

@[simp] theorem State.complete_same (s : State) (r : DescRef) (c : Completion) :
    (State.complete s r c).pending = s.pending ∧
    (State.complete s r c).cyc = s.cyc ∧
    (State.complete s r c).free = s.free ∧
    (State.complete s r c).half = s.half ∧
    (State.complete s r c).regs = s.regs ∧
    (State.complete s r c).boot = s.boot ∧
    (State.complete s r c).power = s.power ∧
    (State.complete s r c).slots = s.slots ∧
    (State.complete s r c).parcels = s.parcels ∧
    (State.complete s r c).mem = s.mem ∧
    (State.complete s r c).pois = s.pois ∧
    (State.complete s r c).rows = s.rows ∧
    (State.complete s r c).bspares = s.bspares ∧
    (State.complete s r c).stks = s.stks ∧
    (State.complete s r c).chans = s.chans ∧
    (State.complete s r c).nbus = s.nbus ∧
    (State.complete s r c).crus = s.crus ∧
    (State.complete s r c).hubs = s.hubs ∧
    (State.complete s r c).me = s.me ∧
    (State.complete s r c).ve = s.ve ∧
    (State.complete s r c).vfiles = s.vfiles ∧
    (State.complete s r c).fe = s.fe ∧
    (State.complete s r c).sp = s.sp ∧
    (State.complete s r c).spPois = s.spPois ∧
    (State.complete s r c).ctxs = s.ctxs ∧
    (State.complete s r c).streams = s.streams ∧
    (State.complete s r c).dirs = s.dirs ∧
    (State.complete s r c).lines = s.lines ∧
    (State.complete s r c).trans = s.trans ∧
    (State.complete s r c).lands = s.lands ∧
    (State.complete s r c).xacts = s.xacts ∧
    (State.complete s r c).routes = s.routes ∧
    (State.complete s r c).admits = s.admits ∧
    (State.complete s r c).groups = s.groups ∧
    (State.complete s r c).fw = s.fw ∧
    (State.complete s r c).logs = s.logs ∧
    (State.complete s r c).pm = s.pm ∧
    (State.complete s r c).tmap = s.tmap := by
  have h := Keeps.complete s r c
  and_intros
  · exact h.same .pending (by decide)
  · exact h.same .cyc (by decide)
  · exact h.same .free (by decide)
  · exact h.same .half (by decide)
  · exact h.same .regs (by decide)
  · exact h.same .boot (by decide)
  · exact h.same .power (by decide)
  · exact h.same .slots (by decide)
  · exact h.same .parcels (by decide)
  · exact h.same .mem (by decide)
  · exact h.same .pois (by decide)
  · exact h.same .rows (by decide)
  · exact h.same .bspares (by decide)
  · exact h.same .stks (by decide)
  · exact h.same .chans (by decide)
  · exact h.same .nbus (by decide)
  · exact h.same .crus (by decide)
  · exact h.same .hubs (by decide)
  · exact h.same .me (by decide)
  · exact h.same .ve (by decide)
  · exact h.same .vfiles (by decide)
  · exact h.same .fe (by decide)
  · exact h.same .sp (by decide)
  · exact h.same .spPois (by decide)
  · exact h.same .ctxs (by decide)
  · exact h.same .streams (by decide)
  · exact h.same .dirs (by decide)
  · exact h.same .lines (by decide)
  · exact h.same .trans (by decide)
  · exact h.same .lands (by decide)
  · exact h.same .xacts (by decide)
  · exact h.same .routes (by decide)
  · exact h.same .admits (by decide)
  · exact h.same .groups (by decide)
  · exact h.same .fw (by decide)
  · exact h.same .logs (by decide)
  · exact h.same .pm (by decide)
  · exact h.same .tmap (by decide)

@[simp] theorem State.complete_members (s : State) (r : DescRef) (c : Completion) :
    (∀ k, (State.complete s r c).slot k = s.slot k) ∧
    (∀ k, (State.complete s r c).parcel k = s.parcel k) ∧
    (∀ k, (State.complete s r c).memByte k = s.memByte k) ∧
    (∀ k, (State.complete s r c).colBad k = s.colBad k) ∧
    (∀ k, (State.complete s r c).row k = s.row k) ∧
    (∀ k, (State.complete s r c).bspare k = s.bspare k) ∧
    (∀ k, (State.complete s r c).stack k = s.stack k) ∧
    (∀ k, (State.complete s r c).chan k = s.chan k) ∧
    (∀ k, (State.complete s r c).nbu k = s.nbu k) ∧
    (∀ k, (State.complete s r c).cru k = s.cru k) ∧
    (∀ k, (State.complete s r c).hub k = s.hub k) ∧
    (∀ k, (State.complete s r c).mat k = s.mat k) ∧
    (∀ k, (State.complete s r c).vec k = s.vec k) ∧
    (∀ k, (State.complete s r c).vfile k = s.vfile k) ∧
    (∀ k, (State.complete s r c).fchan k = s.fchan k) ∧
    (∀ k, (State.complete s r c).spByte k = s.spByte k) ∧
    (∀ k, (State.complete s r c).spBad k = s.spBad k) ∧
    (∀ k, (State.complete s r c).ctx k = s.ctx k) ∧
    (∀ k, (State.complete s r c).stream k = s.stream k) ∧
    (∀ k, (State.complete s r c).dir k = s.dir k) ∧
    (∀ k, (State.complete s r c).tran k = s.tran k) ∧
    (∀ k, (State.complete s r c).landing k = s.landing k) ∧
    (∀ k, (State.complete s r c).route k = s.route k) ∧
    (∀ k, (State.complete s r c).admission k = s.admission k) ∧
    (∀ k, (State.complete s r c).group k = s.group k) ∧
    (∀ k, (State.complete s r c).counter k = s.counter k) := by
  simp [State.slot, State.parcel, State.memByte, State.colBad, State.row, State.bspare, State.stack, State.chan, State.nbu, State.cru, State.hub, State.mat, State.vec, State.vfile, State.fchan, State.spByte, State.spBad, State.ctx, State.stream, State.dir, State.tran, State.landing, State.route, State.admission, State.group, State.counter]

@[simp] theorem State.completeNow_same (s : State) (r : DescRef) (c : Completion) :
    (State.completeNow s r c).pending = s.pending ∧
    (State.completeNow s r c).cyc = s.cyc ∧
    (State.completeNow s r c).free = s.free ∧
    (State.completeNow s r c).half = s.half ∧
    (State.completeNow s r c).regs = s.regs ∧
    (State.completeNow s r c).boot = s.boot ∧
    (State.completeNow s r c).power = s.power ∧
    (State.completeNow s r c).slots = s.slots ∧
    (State.completeNow s r c).parcels = s.parcels ∧
    (State.completeNow s r c).mem = s.mem ∧
    (State.completeNow s r c).pois = s.pois ∧
    (State.completeNow s r c).rows = s.rows ∧
    (State.completeNow s r c).bspares = s.bspares ∧
    (State.completeNow s r c).stks = s.stks ∧
    (State.completeNow s r c).chans = s.chans ∧
    (State.completeNow s r c).nbus = s.nbus ∧
    (State.completeNow s r c).crus = s.crus ∧
    (State.completeNow s r c).hubs = s.hubs ∧
    (State.completeNow s r c).me = s.me ∧
    (State.completeNow s r c).ve = s.ve ∧
    (State.completeNow s r c).vfiles = s.vfiles ∧
    (State.completeNow s r c).fe = s.fe ∧
    (State.completeNow s r c).sp = s.sp ∧
    (State.completeNow s r c).spPois = s.spPois ∧
    (State.completeNow s r c).ctxs = s.ctxs ∧
    (State.completeNow s r c).streams = s.streams ∧
    (State.completeNow s r c).dirs = s.dirs ∧
    (State.completeNow s r c).lines = s.lines ∧
    (State.completeNow s r c).trans = s.trans ∧
    (State.completeNow s r c).lands = s.lands ∧
    (State.completeNow s r c).xacts = s.xacts ∧
    (State.completeNow s r c).routes = s.routes ∧
    (State.completeNow s r c).admits = s.admits ∧
    (State.completeNow s r c).groups = s.groups ∧
    (State.completeNow s r c).fw = s.fw ∧
    (State.completeNow s r c).logs = s.logs ∧
    (State.completeNow s r c).pm = s.pm ∧
    (State.completeNow s r c).tmap = s.tmap := by
  have h := Keeps.completeNow s r c
  and_intros
  · exact h.same .pending (by decide)
  · exact h.same .cyc (by decide)
  · exact h.same .free (by decide)
  · exact h.same .half (by decide)
  · exact h.same .regs (by decide)
  · exact h.same .boot (by decide)
  · exact h.same .power (by decide)
  · exact h.same .slots (by decide)
  · exact h.same .parcels (by decide)
  · exact h.same .mem (by decide)
  · exact h.same .pois (by decide)
  · exact h.same .rows (by decide)
  · exact h.same .bspares (by decide)
  · exact h.same .stks (by decide)
  · exact h.same .chans (by decide)
  · exact h.same .nbus (by decide)
  · exact h.same .crus (by decide)
  · exact h.same .hubs (by decide)
  · exact h.same .me (by decide)
  · exact h.same .ve (by decide)
  · exact h.same .vfiles (by decide)
  · exact h.same .fe (by decide)
  · exact h.same .sp (by decide)
  · exact h.same .spPois (by decide)
  · exact h.same .ctxs (by decide)
  · exact h.same .streams (by decide)
  · exact h.same .dirs (by decide)
  · exact h.same .lines (by decide)
  · exact h.same .trans (by decide)
  · exact h.same .lands (by decide)
  · exact h.same .xacts (by decide)
  · exact h.same .routes (by decide)
  · exact h.same .admits (by decide)
  · exact h.same .groups (by decide)
  · exact h.same .fw (by decide)
  · exact h.same .logs (by decide)
  · exact h.same .pm (by decide)
  · exact h.same .tmap (by decide)

@[simp] theorem State.completeNow_members (s : State) (r : DescRef) (c : Completion) :
    (∀ k, (State.completeNow s r c).slot k = s.slot k) ∧
    (∀ k, (State.completeNow s r c).parcel k = s.parcel k) ∧
    (∀ k, (State.completeNow s r c).memByte k = s.memByte k) ∧
    (∀ k, (State.completeNow s r c).colBad k = s.colBad k) ∧
    (∀ k, (State.completeNow s r c).row k = s.row k) ∧
    (∀ k, (State.completeNow s r c).bspare k = s.bspare k) ∧
    (∀ k, (State.completeNow s r c).stack k = s.stack k) ∧
    (∀ k, (State.completeNow s r c).chan k = s.chan k) ∧
    (∀ k, (State.completeNow s r c).nbu k = s.nbu k) ∧
    (∀ k, (State.completeNow s r c).cru k = s.cru k) ∧
    (∀ k, (State.completeNow s r c).hub k = s.hub k) ∧
    (∀ k, (State.completeNow s r c).mat k = s.mat k) ∧
    (∀ k, (State.completeNow s r c).vec k = s.vec k) ∧
    (∀ k, (State.completeNow s r c).vfile k = s.vfile k) ∧
    (∀ k, (State.completeNow s r c).fchan k = s.fchan k) ∧
    (∀ k, (State.completeNow s r c).spByte k = s.spByte k) ∧
    (∀ k, (State.completeNow s r c).spBad k = s.spBad k) ∧
    (∀ k, (State.completeNow s r c).ctx k = s.ctx k) ∧
    (∀ k, (State.completeNow s r c).stream k = s.stream k) ∧
    (∀ k, (State.completeNow s r c).dir k = s.dir k) ∧
    (∀ k, (State.completeNow s r c).tran k = s.tran k) ∧
    (∀ k, (State.completeNow s r c).landing k = s.landing k) ∧
    (∀ k, (State.completeNow s r c).route k = s.route k) ∧
    (∀ k, (State.completeNow s r c).admission k = s.admission k) ∧
    (∀ k, (State.completeNow s r c).group k = s.group k) ∧
    (∀ k, (State.completeNow s r c).counter k = s.counter k) := by
  simp [State.slot, State.parcel, State.memByte, State.colBad, State.row, State.bspare, State.stack, State.chan, State.nbu, State.cru, State.hub, State.mat, State.vec, State.vfile, State.fchan, State.spByte, State.spBad, State.ctx, State.stream, State.dir, State.tran, State.landing, State.route, State.admission, State.group, State.counter]

@[simp] theorem State.eventOn_same (s : State) (k : Nat) (typ : Nat) (payload : List (Nat × Nat × Nat)) :
    (State.eventOn s k typ payload).pending = s.pending ∧
    (State.eventOn s k typ payload).cyc = s.cyc ∧
    (State.eventOn s k typ payload).free = s.free ∧
    (State.eventOn s k typ payload).half = s.half ∧
    (State.eventOn s k typ payload).regs = s.regs ∧
    (State.eventOn s k typ payload).boot = s.boot ∧
    (State.eventOn s k typ payload).power = s.power ∧
    (State.eventOn s k typ payload).slots = s.slots ∧
    (State.eventOn s k typ payload).parcels = s.parcels ∧
    (State.eventOn s k typ payload).mem = s.mem ∧
    (State.eventOn s k typ payload).pois = s.pois ∧
    (State.eventOn s k typ payload).rows = s.rows ∧
    (State.eventOn s k typ payload).bspares = s.bspares ∧
    (State.eventOn s k typ payload).stks = s.stks ∧
    (State.eventOn s k typ payload).chans = s.chans ∧
    (State.eventOn s k typ payload).nbus = s.nbus ∧
    (State.eventOn s k typ payload).crus = s.crus ∧
    (State.eventOn s k typ payload).hubs = s.hubs ∧
    (State.eventOn s k typ payload).me = s.me ∧
    (State.eventOn s k typ payload).ve = s.ve ∧
    (State.eventOn s k typ payload).vfiles = s.vfiles ∧
    (State.eventOn s k typ payload).fe = s.fe ∧
    (State.eventOn s k typ payload).sp = s.sp ∧
    (State.eventOn s k typ payload).spPois = s.spPois ∧
    (State.eventOn s k typ payload).ctxs = s.ctxs ∧
    (State.eventOn s k typ payload).streams = s.streams ∧
    (State.eventOn s k typ payload).dirs = s.dirs ∧
    (State.eventOn s k typ payload).lines = s.lines ∧
    (State.eventOn s k typ payload).trans = s.trans ∧
    (State.eventOn s k typ payload).lands = s.lands ∧
    (State.eventOn s k typ payload).xacts = s.xacts ∧
    (State.eventOn s k typ payload).routes = s.routes ∧
    (State.eventOn s k typ payload).admits = s.admits ∧
    (State.eventOn s k typ payload).groups = s.groups ∧
    (State.eventOn s k typ payload).fw = s.fw ∧
    (State.eventOn s k typ payload).logs = s.logs ∧
    (State.eventOn s k typ payload).pm = s.pm ∧
    (State.eventOn s k typ payload).tmap = s.tmap := by
  have h := Keeps.eventOn s k typ payload
  and_intros
  · exact h.same .pending (by decide)
  · exact h.same .cyc (by decide)
  · exact h.same .free (by decide)
  · exact h.same .half (by decide)
  · exact h.same .regs (by decide)
  · exact h.same .boot (by decide)
  · exact h.same .power (by decide)
  · exact h.same .slots (by decide)
  · exact h.same .parcels (by decide)
  · exact h.same .mem (by decide)
  · exact h.same .pois (by decide)
  · exact h.same .rows (by decide)
  · exact h.same .bspares (by decide)
  · exact h.same .stks (by decide)
  · exact h.same .chans (by decide)
  · exact h.same .nbus (by decide)
  · exact h.same .crus (by decide)
  · exact h.same .hubs (by decide)
  · exact h.same .me (by decide)
  · exact h.same .ve (by decide)
  · exact h.same .vfiles (by decide)
  · exact h.same .fe (by decide)
  · exact h.same .sp (by decide)
  · exact h.same .spPois (by decide)
  · exact h.same .ctxs (by decide)
  · exact h.same .streams (by decide)
  · exact h.same .dirs (by decide)
  · exact h.same .lines (by decide)
  · exact h.same .trans (by decide)
  · exact h.same .lands (by decide)
  · exact h.same .xacts (by decide)
  · exact h.same .routes (by decide)
  · exact h.same .admits (by decide)
  · exact h.same .groups (by decide)
  · exact h.same .fw (by decide)
  · exact h.same .logs (by decide)
  · exact h.same .pm (by decide)
  · exact h.same .tmap (by decide)

@[simp] theorem State.eventOn_members (s : State) (k : Nat) (typ : Nat) (payload : List (Nat × Nat × Nat)) :
    (∀ k, (State.eventOn s k typ payload).slot k = s.slot k) ∧
    (∀ k, (State.eventOn s k typ payload).parcel k = s.parcel k) ∧
    (∀ k, (State.eventOn s k typ payload).memByte k = s.memByte k) ∧
    (∀ k, (State.eventOn s k typ payload).colBad k = s.colBad k) ∧
    (∀ k, (State.eventOn s k typ payload).row k = s.row k) ∧
    (∀ k, (State.eventOn s k typ payload).bspare k = s.bspare k) ∧
    (∀ k, (State.eventOn s k typ payload).stack k = s.stack k) ∧
    (∀ k, (State.eventOn s k typ payload).chan k = s.chan k) ∧
    (∀ k, (State.eventOn s k typ payload).nbu k = s.nbu k) ∧
    (∀ k, (State.eventOn s k typ payload).cru k = s.cru k) ∧
    (∀ k, (State.eventOn s k typ payload).hub k = s.hub k) ∧
    (∀ k, (State.eventOn s k typ payload).mat k = s.mat k) ∧
    (∀ k, (State.eventOn s k typ payload).vec k = s.vec k) ∧
    (∀ k, (State.eventOn s k typ payload).vfile k = s.vfile k) ∧
    (∀ k, (State.eventOn s k typ payload).fchan k = s.fchan k) ∧
    (∀ k, (State.eventOn s k typ payload).spByte k = s.spByte k) ∧
    (∀ k, (State.eventOn s k typ payload).spBad k = s.spBad k) ∧
    (∀ k, (State.eventOn s k typ payload).ctx k = s.ctx k) ∧
    (∀ k, (State.eventOn s k typ payload).stream k = s.stream k) ∧
    (∀ k, (State.eventOn s k typ payload).dir k = s.dir k) ∧
    (∀ k, (State.eventOn s k typ payload).tran k = s.tran k) ∧
    (∀ k, (State.eventOn s k typ payload).landing k = s.landing k) ∧
    (∀ k, (State.eventOn s k typ payload).route k = s.route k) ∧
    (∀ k, (State.eventOn s k typ payload).admission k = s.admission k) ∧
    (∀ k, (State.eventOn s k typ payload).group k = s.group k) ∧
    (∀ k, (State.eventOn s k typ payload).counter k = s.counter k) := by
  simp [State.slot, State.parcel, State.memByte, State.colBad, State.row, State.bspare, State.stack, State.chan, State.nbu, State.cru, State.hub, State.mat, State.vec, State.vfile, State.fchan, State.spByte, State.spBad, State.ctx, State.stream, State.dir, State.tran, State.landing, State.route, State.admission, State.group, State.counter]

@[simp] theorem State.event_same (s : State) (p : Nat) (typ : Nat) (payload : List (Nat × Nat × Nat)) :
    (State.event s p typ payload).pending = s.pending ∧
    (State.event s p typ payload).cyc = s.cyc ∧
    (State.event s p typ payload).free = s.free ∧
    (State.event s p typ payload).half = s.half ∧
    (State.event s p typ payload).regs = s.regs ∧
    (State.event s p typ payload).boot = s.boot ∧
    (State.event s p typ payload).power = s.power ∧
    (State.event s p typ payload).slots = s.slots ∧
    (State.event s p typ payload).parcels = s.parcels ∧
    (State.event s p typ payload).mem = s.mem ∧
    (State.event s p typ payload).pois = s.pois ∧
    (State.event s p typ payload).rows = s.rows ∧
    (State.event s p typ payload).bspares = s.bspares ∧
    (State.event s p typ payload).stks = s.stks ∧
    (State.event s p typ payload).chans = s.chans ∧
    (State.event s p typ payload).nbus = s.nbus ∧
    (State.event s p typ payload).crus = s.crus ∧
    (State.event s p typ payload).hubs = s.hubs ∧
    (State.event s p typ payload).me = s.me ∧
    (State.event s p typ payload).ve = s.ve ∧
    (State.event s p typ payload).vfiles = s.vfiles ∧
    (State.event s p typ payload).fe = s.fe ∧
    (State.event s p typ payload).sp = s.sp ∧
    (State.event s p typ payload).spPois = s.spPois ∧
    (State.event s p typ payload).ctxs = s.ctxs ∧
    (State.event s p typ payload).streams = s.streams ∧
    (State.event s p typ payload).dirs = s.dirs ∧
    (State.event s p typ payload).lines = s.lines ∧
    (State.event s p typ payload).trans = s.trans ∧
    (State.event s p typ payload).lands = s.lands ∧
    (State.event s p typ payload).xacts = s.xacts ∧
    (State.event s p typ payload).routes = s.routes ∧
    (State.event s p typ payload).admits = s.admits ∧
    (State.event s p typ payload).groups = s.groups ∧
    (State.event s p typ payload).fw = s.fw ∧
    (State.event s p typ payload).logs = s.logs ∧
    (State.event s p typ payload).pm = s.pm ∧
    (State.event s p typ payload).tmap = s.tmap := by
  have h := Keeps.event s p typ payload
  and_intros
  · exact h.same .pending (by decide)
  · exact h.same .cyc (by decide)
  · exact h.same .free (by decide)
  · exact h.same .half (by decide)
  · exact h.same .regs (by decide)
  · exact h.same .boot (by decide)
  · exact h.same .power (by decide)
  · exact h.same .slots (by decide)
  · exact h.same .parcels (by decide)
  · exact h.same .mem (by decide)
  · exact h.same .pois (by decide)
  · exact h.same .rows (by decide)
  · exact h.same .bspares (by decide)
  · exact h.same .stks (by decide)
  · exact h.same .chans (by decide)
  · exact h.same .nbus (by decide)
  · exact h.same .crus (by decide)
  · exact h.same .hubs (by decide)
  · exact h.same .me (by decide)
  · exact h.same .ve (by decide)
  · exact h.same .vfiles (by decide)
  · exact h.same .fe (by decide)
  · exact h.same .sp (by decide)
  · exact h.same .spPois (by decide)
  · exact h.same .ctxs (by decide)
  · exact h.same .streams (by decide)
  · exact h.same .dirs (by decide)
  · exact h.same .lines (by decide)
  · exact h.same .trans (by decide)
  · exact h.same .lands (by decide)
  · exact h.same .xacts (by decide)
  · exact h.same .routes (by decide)
  · exact h.same .admits (by decide)
  · exact h.same .groups (by decide)
  · exact h.same .fw (by decide)
  · exact h.same .logs (by decide)
  · exact h.same .pm (by decide)
  · exact h.same .tmap (by decide)

@[simp] theorem State.event_members (s : State) (p : Nat) (typ : Nat) (payload : List (Nat × Nat × Nat)) :
    (∀ k, (State.event s p typ payload).slot k = s.slot k) ∧
    (∀ k, (State.event s p typ payload).parcel k = s.parcel k) ∧
    (∀ k, (State.event s p typ payload).memByte k = s.memByte k) ∧
    (∀ k, (State.event s p typ payload).colBad k = s.colBad k) ∧
    (∀ k, (State.event s p typ payload).row k = s.row k) ∧
    (∀ k, (State.event s p typ payload).bspare k = s.bspare k) ∧
    (∀ k, (State.event s p typ payload).stack k = s.stack k) ∧
    (∀ k, (State.event s p typ payload).chan k = s.chan k) ∧
    (∀ k, (State.event s p typ payload).nbu k = s.nbu k) ∧
    (∀ k, (State.event s p typ payload).cru k = s.cru k) ∧
    (∀ k, (State.event s p typ payload).hub k = s.hub k) ∧
    (∀ k, (State.event s p typ payload).mat k = s.mat k) ∧
    (∀ k, (State.event s p typ payload).vec k = s.vec k) ∧
    (∀ k, (State.event s p typ payload).vfile k = s.vfile k) ∧
    (∀ k, (State.event s p typ payload).fchan k = s.fchan k) ∧
    (∀ k, (State.event s p typ payload).spByte k = s.spByte k) ∧
    (∀ k, (State.event s p typ payload).spBad k = s.spBad k) ∧
    (∀ k, (State.event s p typ payload).ctx k = s.ctx k) ∧
    (∀ k, (State.event s p typ payload).stream k = s.stream k) ∧
    (∀ k, (State.event s p typ payload).dir k = s.dir k) ∧
    (∀ k, (State.event s p typ payload).tran k = s.tran k) ∧
    (∀ k, (State.event s p typ payload).landing k = s.landing k) ∧
    (∀ k, (State.event s p typ payload).route k = s.route k) ∧
    (∀ k, (State.event s p typ payload).admission k = s.admission k) ∧
    (∀ k, (State.event s p typ payload).group k = s.group k) ∧
    (∀ k, (State.event s p typ payload).counter k = s.counter k) := by
  simp [State.slot, State.parcel, State.memByte, State.colBad, State.row, State.bspare, State.stack, State.chan, State.nbu, State.cru, State.hub, State.mat, State.vec, State.vfile, State.fchan, State.spByte, State.spBad, State.ctx, State.stream, State.dir, State.tran, State.landing, State.route, State.admission, State.group, State.counter]

@[simp] theorem State.eventOwner_same (s : State) (slot : Nat) (typ : Nat) (payload : List (Nat × Nat × Nat)) :
    (State.eventOwner s slot typ payload).pending = s.pending ∧
    (State.eventOwner s slot typ payload).cyc = s.cyc ∧
    (State.eventOwner s slot typ payload).free = s.free ∧
    (State.eventOwner s slot typ payload).half = s.half ∧
    (State.eventOwner s slot typ payload).regs = s.regs ∧
    (State.eventOwner s slot typ payload).boot = s.boot ∧
    (State.eventOwner s slot typ payload).power = s.power ∧
    (State.eventOwner s slot typ payload).slots = s.slots ∧
    (State.eventOwner s slot typ payload).parcels = s.parcels ∧
    (State.eventOwner s slot typ payload).mem = s.mem ∧
    (State.eventOwner s slot typ payload).pois = s.pois ∧
    (State.eventOwner s slot typ payload).rows = s.rows ∧
    (State.eventOwner s slot typ payload).bspares = s.bspares ∧
    (State.eventOwner s slot typ payload).stks = s.stks ∧
    (State.eventOwner s slot typ payload).chans = s.chans ∧
    (State.eventOwner s slot typ payload).nbus = s.nbus ∧
    (State.eventOwner s slot typ payload).crus = s.crus ∧
    (State.eventOwner s slot typ payload).hubs = s.hubs ∧
    (State.eventOwner s slot typ payload).me = s.me ∧
    (State.eventOwner s slot typ payload).ve = s.ve ∧
    (State.eventOwner s slot typ payload).vfiles = s.vfiles ∧
    (State.eventOwner s slot typ payload).fe = s.fe ∧
    (State.eventOwner s slot typ payload).sp = s.sp ∧
    (State.eventOwner s slot typ payload).spPois = s.spPois ∧
    (State.eventOwner s slot typ payload).ctxs = s.ctxs ∧
    (State.eventOwner s slot typ payload).streams = s.streams ∧
    (State.eventOwner s slot typ payload).dirs = s.dirs ∧
    (State.eventOwner s slot typ payload).lines = s.lines ∧
    (State.eventOwner s slot typ payload).trans = s.trans ∧
    (State.eventOwner s slot typ payload).lands = s.lands ∧
    (State.eventOwner s slot typ payload).xacts = s.xacts ∧
    (State.eventOwner s slot typ payload).routes = s.routes ∧
    (State.eventOwner s slot typ payload).admits = s.admits ∧
    (State.eventOwner s slot typ payload).groups = s.groups ∧
    (State.eventOwner s slot typ payload).fw = s.fw ∧
    (State.eventOwner s slot typ payload).logs = s.logs ∧
    (State.eventOwner s slot typ payload).pm = s.pm ∧
    (State.eventOwner s slot typ payload).tmap = s.tmap := by
  have h := Keeps.eventOwner s slot typ payload
  and_intros
  · exact h.same .pending (by decide)
  · exact h.same .cyc (by decide)
  · exact h.same .free (by decide)
  · exact h.same .half (by decide)
  · exact h.same .regs (by decide)
  · exact h.same .boot (by decide)
  · exact h.same .power (by decide)
  · exact h.same .slots (by decide)
  · exact h.same .parcels (by decide)
  · exact h.same .mem (by decide)
  · exact h.same .pois (by decide)
  · exact h.same .rows (by decide)
  · exact h.same .bspares (by decide)
  · exact h.same .stks (by decide)
  · exact h.same .chans (by decide)
  · exact h.same .nbus (by decide)
  · exact h.same .crus (by decide)
  · exact h.same .hubs (by decide)
  · exact h.same .me (by decide)
  · exact h.same .ve (by decide)
  · exact h.same .vfiles (by decide)
  · exact h.same .fe (by decide)
  · exact h.same .sp (by decide)
  · exact h.same .spPois (by decide)
  · exact h.same .ctxs (by decide)
  · exact h.same .streams (by decide)
  · exact h.same .dirs (by decide)
  · exact h.same .lines (by decide)
  · exact h.same .trans (by decide)
  · exact h.same .lands (by decide)
  · exact h.same .xacts (by decide)
  · exact h.same .routes (by decide)
  · exact h.same .admits (by decide)
  · exact h.same .groups (by decide)
  · exact h.same .fw (by decide)
  · exact h.same .logs (by decide)
  · exact h.same .pm (by decide)
  · exact h.same .tmap (by decide)

@[simp] theorem State.eventOwner_members (s : State) (slot : Nat) (typ : Nat) (payload : List (Nat × Nat × Nat)) :
    (∀ k, (State.eventOwner s slot typ payload).slot k = s.slot k) ∧
    (∀ k, (State.eventOwner s slot typ payload).parcel k = s.parcel k) ∧
    (∀ k, (State.eventOwner s slot typ payload).memByte k = s.memByte k) ∧
    (∀ k, (State.eventOwner s slot typ payload).colBad k = s.colBad k) ∧
    (∀ k, (State.eventOwner s slot typ payload).row k = s.row k) ∧
    (∀ k, (State.eventOwner s slot typ payload).bspare k = s.bspare k) ∧
    (∀ k, (State.eventOwner s slot typ payload).stack k = s.stack k) ∧
    (∀ k, (State.eventOwner s slot typ payload).chan k = s.chan k) ∧
    (∀ k, (State.eventOwner s slot typ payload).nbu k = s.nbu k) ∧
    (∀ k, (State.eventOwner s slot typ payload).cru k = s.cru k) ∧
    (∀ k, (State.eventOwner s slot typ payload).hub k = s.hub k) ∧
    (∀ k, (State.eventOwner s slot typ payload).mat k = s.mat k) ∧
    (∀ k, (State.eventOwner s slot typ payload).vec k = s.vec k) ∧
    (∀ k, (State.eventOwner s slot typ payload).vfile k = s.vfile k) ∧
    (∀ k, (State.eventOwner s slot typ payload).fchan k = s.fchan k) ∧
    (∀ k, (State.eventOwner s slot typ payload).spByte k = s.spByte k) ∧
    (∀ k, (State.eventOwner s slot typ payload).spBad k = s.spBad k) ∧
    (∀ k, (State.eventOwner s slot typ payload).ctx k = s.ctx k) ∧
    (∀ k, (State.eventOwner s slot typ payload).stream k = s.stream k) ∧
    (∀ k, (State.eventOwner s slot typ payload).dir k = s.dir k) ∧
    (∀ k, (State.eventOwner s slot typ payload).tran k = s.tran k) ∧
    (∀ k, (State.eventOwner s slot typ payload).landing k = s.landing k) ∧
    (∀ k, (State.eventOwner s slot typ payload).route k = s.route k) ∧
    (∀ k, (State.eventOwner s slot typ payload).admission k = s.admission k) ∧
    (∀ k, (State.eventOwner s slot typ payload).group k = s.group k) ∧
    (∀ k, (State.eventOwner s slot typ payload).counter k = s.counter k) := by
  simp [State.slot, State.parcel, State.memByte, State.colBad, State.row, State.bspare, State.stack, State.chan, State.nbu, State.cru, State.hub, State.mat, State.vec, State.vfile, State.fchan, State.spByte, State.spBad, State.ctx, State.stream, State.dir, State.tran, State.landing, State.route, State.admission, State.group, State.counter]

@[simp] theorem State.eventAll_same (s : State) (typ : Nat) (payload : List (Nat × Nat × Nat)) :
    (State.eventAll s typ payload).pending = s.pending ∧
    (State.eventAll s typ payload).cyc = s.cyc ∧
    (State.eventAll s typ payload).free = s.free ∧
    (State.eventAll s typ payload).half = s.half ∧
    (State.eventAll s typ payload).regs = s.regs ∧
    (State.eventAll s typ payload).boot = s.boot ∧
    (State.eventAll s typ payload).power = s.power ∧
    (State.eventAll s typ payload).slots = s.slots ∧
    (State.eventAll s typ payload).parcels = s.parcels ∧
    (State.eventAll s typ payload).mem = s.mem ∧
    (State.eventAll s typ payload).pois = s.pois ∧
    (State.eventAll s typ payload).rows = s.rows ∧
    (State.eventAll s typ payload).bspares = s.bspares ∧
    (State.eventAll s typ payload).stks = s.stks ∧
    (State.eventAll s typ payload).chans = s.chans ∧
    (State.eventAll s typ payload).nbus = s.nbus ∧
    (State.eventAll s typ payload).crus = s.crus ∧
    (State.eventAll s typ payload).hubs = s.hubs ∧
    (State.eventAll s typ payload).me = s.me ∧
    (State.eventAll s typ payload).ve = s.ve ∧
    (State.eventAll s typ payload).vfiles = s.vfiles ∧
    (State.eventAll s typ payload).fe = s.fe ∧
    (State.eventAll s typ payload).sp = s.sp ∧
    (State.eventAll s typ payload).spPois = s.spPois ∧
    (State.eventAll s typ payload).ctxs = s.ctxs ∧
    (State.eventAll s typ payload).streams = s.streams ∧
    (State.eventAll s typ payload).dirs = s.dirs ∧
    (State.eventAll s typ payload).lines = s.lines ∧
    (State.eventAll s typ payload).trans = s.trans ∧
    (State.eventAll s typ payload).lands = s.lands ∧
    (State.eventAll s typ payload).xacts = s.xacts ∧
    (State.eventAll s typ payload).routes = s.routes ∧
    (State.eventAll s typ payload).admits = s.admits ∧
    (State.eventAll s typ payload).groups = s.groups ∧
    (State.eventAll s typ payload).fw = s.fw ∧
    (State.eventAll s typ payload).logs = s.logs ∧
    (State.eventAll s typ payload).pm = s.pm ∧
    (State.eventAll s typ payload).tmap = s.tmap := by
  have h := Keeps.eventAll s typ payload
  and_intros
  · exact h.same .pending (by decide)
  · exact h.same .cyc (by decide)
  · exact h.same .free (by decide)
  · exact h.same .half (by decide)
  · exact h.same .regs (by decide)
  · exact h.same .boot (by decide)
  · exact h.same .power (by decide)
  · exact h.same .slots (by decide)
  · exact h.same .parcels (by decide)
  · exact h.same .mem (by decide)
  · exact h.same .pois (by decide)
  · exact h.same .rows (by decide)
  · exact h.same .bspares (by decide)
  · exact h.same .stks (by decide)
  · exact h.same .chans (by decide)
  · exact h.same .nbus (by decide)
  · exact h.same .crus (by decide)
  · exact h.same .hubs (by decide)
  · exact h.same .me (by decide)
  · exact h.same .ve (by decide)
  · exact h.same .vfiles (by decide)
  · exact h.same .fe (by decide)
  · exact h.same .sp (by decide)
  · exact h.same .spPois (by decide)
  · exact h.same .ctxs (by decide)
  · exact h.same .streams (by decide)
  · exact h.same .dirs (by decide)
  · exact h.same .lines (by decide)
  · exact h.same .trans (by decide)
  · exact h.same .lands (by decide)
  · exact h.same .xacts (by decide)
  · exact h.same .routes (by decide)
  · exact h.same .admits (by decide)
  · exact h.same .groups (by decide)
  · exact h.same .fw (by decide)
  · exact h.same .logs (by decide)
  · exact h.same .pm (by decide)
  · exact h.same .tmap (by decide)

@[simp] theorem State.eventAll_members (s : State) (typ : Nat) (payload : List (Nat × Nat × Nat)) :
    (∀ k, (State.eventAll s typ payload).slot k = s.slot k) ∧
    (∀ k, (State.eventAll s typ payload).parcel k = s.parcel k) ∧
    (∀ k, (State.eventAll s typ payload).memByte k = s.memByte k) ∧
    (∀ k, (State.eventAll s typ payload).colBad k = s.colBad k) ∧
    (∀ k, (State.eventAll s typ payload).row k = s.row k) ∧
    (∀ k, (State.eventAll s typ payload).bspare k = s.bspare k) ∧
    (∀ k, (State.eventAll s typ payload).stack k = s.stack k) ∧
    (∀ k, (State.eventAll s typ payload).chan k = s.chan k) ∧
    (∀ k, (State.eventAll s typ payload).nbu k = s.nbu k) ∧
    (∀ k, (State.eventAll s typ payload).cru k = s.cru k) ∧
    (∀ k, (State.eventAll s typ payload).hub k = s.hub k) ∧
    (∀ k, (State.eventAll s typ payload).mat k = s.mat k) ∧
    (∀ k, (State.eventAll s typ payload).vec k = s.vec k) ∧
    (∀ k, (State.eventAll s typ payload).vfile k = s.vfile k) ∧
    (∀ k, (State.eventAll s typ payload).fchan k = s.fchan k) ∧
    (∀ k, (State.eventAll s typ payload).spByte k = s.spByte k) ∧
    (∀ k, (State.eventAll s typ payload).spBad k = s.spBad k) ∧
    (∀ k, (State.eventAll s typ payload).ctx k = s.ctx k) ∧
    (∀ k, (State.eventAll s typ payload).stream k = s.stream k) ∧
    (∀ k, (State.eventAll s typ payload).dir k = s.dir k) ∧
    (∀ k, (State.eventAll s typ payload).tran k = s.tran k) ∧
    (∀ k, (State.eventAll s typ payload).landing k = s.landing k) ∧
    (∀ k, (State.eventAll s typ payload).route k = s.route k) ∧
    (∀ k, (State.eventAll s typ payload).admission k = s.admission k) ∧
    (∀ k, (State.eventAll s typ payload).group k = s.group k) ∧
    (∀ k, (State.eventAll s typ payload).counter k = s.counter k) := by
  simp [State.slot, State.parcel, State.memByte, State.colBad, State.row, State.bspare, State.stack, State.chan, State.nbu, State.cru, State.hub, State.mat, State.vec, State.vfile, State.fchan, State.spByte, State.spBad, State.ctx, State.stream, State.dir, State.tran, State.landing, State.route, State.admission, State.group, State.counter]

@[simp] theorem State.logError_same (s : State) (line : Nat) (col : Nat) (kind : Nat) (path : Nat) (ncorr : Nat) (part : Option Nat) (addr : Nat) :
    (State.logError s line col kind path ncorr part addr).pending = s.pending ∧
    (State.logError s line col kind path ncorr part addr).cyc = s.cyc ∧
    (State.logError s line col kind path ncorr part addr).free = s.free ∧
    (State.logError s line col kind path ncorr part addr).half = s.half ∧
    (State.logError s line col kind path ncorr part addr).regs = s.regs ∧
    (State.logError s line col kind path ncorr part addr).boot = s.boot ∧
    (State.logError s line col kind path ncorr part addr).power = s.power ∧
    (State.logError s line col kind path ncorr part addr).slots = s.slots ∧
    (State.logError s line col kind path ncorr part addr).parcels = s.parcels ∧
    (State.logError s line col kind path ncorr part addr).mem = s.mem ∧
    (State.logError s line col kind path ncorr part addr).pois = s.pois ∧
    (State.logError s line col kind path ncorr part addr).rows = s.rows ∧
    (State.logError s line col kind path ncorr part addr).bspares = s.bspares ∧
    (State.logError s line col kind path ncorr part addr).stks = s.stks ∧
    (State.logError s line col kind path ncorr part addr).chans = s.chans ∧
    (State.logError s line col kind path ncorr part addr).nbus = s.nbus ∧
    (State.logError s line col kind path ncorr part addr).crus = s.crus ∧
    (State.logError s line col kind path ncorr part addr).me = s.me ∧
    (State.logError s line col kind path ncorr part addr).ve = s.ve ∧
    (State.logError s line col kind path ncorr part addr).vfiles = s.vfiles ∧
    (State.logError s line col kind path ncorr part addr).fe = s.fe ∧
    (State.logError s line col kind path ncorr part addr).sp = s.sp ∧
    (State.logError s line col kind path ncorr part addr).spPois = s.spPois ∧
    (State.logError s line col kind path ncorr part addr).ctxs = s.ctxs ∧
    (State.logError s line col kind path ncorr part addr).parts = s.parts ∧
    (State.logError s line col kind path ncorr part addr).pages = s.pages ∧
    (State.logError s line col kind path ncorr part addr).streams = s.streams ∧
    (State.logError s line col kind path ncorr part addr).ports = s.ports ∧
    (State.logError s line col kind path ncorr part addr).dirs = s.dirs ∧
    (State.logError s line col kind path ncorr part addr).lines = s.lines ∧
    (State.logError s line col kind path ncorr part addr).trans = s.trans ∧
    (State.logError s line col kind path ncorr part addr).lands = s.lands ∧
    (State.logError s line col kind path ncorr part addr).xacts = s.xacts ∧
    (State.logError s line col kind path ncorr part addr).routes = s.routes ∧
    (State.logError s line col kind path ncorr part addr).admits = s.admits ∧
    (State.logError s line col kind path ncorr part addr).groups = s.groups ∧
    (State.logError s line col kind path ncorr part addr).fw = s.fw ∧
    (State.logError s line col kind path ncorr part addr).pm = s.pm ∧
    (State.logError s line col kind path ncorr part addr).tmap = s.tmap ∧
    (State.logError s line col kind path ncorr part addr).act = s.act ∧
    (State.logError s line col kind path ncorr part addr).out = s.out := by
  have h := Keeps.logError s line col kind path ncorr part addr
  and_intros
  · exact h.same .pending (by decide)
  · exact h.same .cyc (by decide)
  · exact h.same .free (by decide)
  · exact h.same .half (by decide)
  · exact h.same .regs (by decide)
  · exact h.same .boot (by decide)
  · exact h.same .power (by decide)
  · exact h.same .slots (by decide)
  · exact h.same .parcels (by decide)
  · exact h.same .mem (by decide)
  · exact h.same .pois (by decide)
  · exact h.same .rows (by decide)
  · exact h.same .bspares (by decide)
  · exact h.same .stks (by decide)
  · exact h.same .chans (by decide)
  · exact h.same .nbus (by decide)
  · exact h.same .crus (by decide)
  · exact h.same .me (by decide)
  · exact h.same .ve (by decide)
  · exact h.same .vfiles (by decide)
  · exact h.same .fe (by decide)
  · exact h.same .sp (by decide)
  · exact h.same .spPois (by decide)
  · exact h.same .ctxs (by decide)
  · exact h.same .parts (by decide)
  · exact h.same .pages (by decide)
  · exact h.same .streams (by decide)
  · exact h.same .ports (by decide)
  · exact h.same .dirs (by decide)
  · exact h.same .lines (by decide)
  · exact h.same .trans (by decide)
  · exact h.same .lands (by decide)
  · exact h.same .xacts (by decide)
  · exact h.same .routes (by decide)
  · exact h.same .admits (by decide)
  · exact h.same .groups (by decide)
  · exact h.same .fw (by decide)
  · exact h.same .pm (by decide)
  · exact h.same .tmap (by decide)
  · exact h.same .act (by decide)
  · exact h.same .out (by decide)

@[simp] theorem State.logError_members (s : State) (line : Nat) (col : Nat) (kind : Nat) (path : Nat) (ncorr : Nat) (part : Option Nat) (addr : Nat) :
    (∀ k, (State.logError s line col kind path ncorr part addr).slot k = s.slot k) ∧
    (∀ k, (State.logError s line col kind path ncorr part addr).parcel k = s.parcel k) ∧
    (∀ k, (State.logError s line col kind path ncorr part addr).memByte k = s.memByte k) ∧
    (∀ k, (State.logError s line col kind path ncorr part addr).colBad k = s.colBad k) ∧
    (∀ k, (State.logError s line col kind path ncorr part addr).row k = s.row k) ∧
    (∀ k, (State.logError s line col kind path ncorr part addr).bspare k = s.bspare k) ∧
    (∀ k, (State.logError s line col kind path ncorr part addr).stack k = s.stack k) ∧
    (∀ k, (State.logError s line col kind path ncorr part addr).chan k = s.chan k) ∧
    (∀ k, (State.logError s line col kind path ncorr part addr).nbu k = s.nbu k) ∧
    (∀ k, (State.logError s line col kind path ncorr part addr).cru k = s.cru k) ∧
    (∀ k, (State.logError s line col kind path ncorr part addr).mat k = s.mat k) ∧
    (∀ k, (State.logError s line col kind path ncorr part addr).vec k = s.vec k) ∧
    (∀ k, (State.logError s line col kind path ncorr part addr).vfile k = s.vfile k) ∧
    (∀ k, (State.logError s line col kind path ncorr part addr).fchan k = s.fchan k) ∧
    (∀ k, (State.logError s line col kind path ncorr part addr).spByte k = s.spByte k) ∧
    (∀ k, (State.logError s line col kind path ncorr part addr).spBad k = s.spBad k) ∧
    (∀ k, (State.logError s line col kind path ncorr part addr).ctx k = s.ctx k) ∧
    (∀ k, (State.logError s line col kind path ncorr part addr).part k = s.part k) ∧
    (∀ k, (State.logError s line col kind path ncorr part addr).page k = s.page k) ∧
    (∀ k, (State.logError s line col kind path ncorr part addr).stream k = s.stream k) ∧
    (∀ k, (State.logError s line col kind path ncorr part addr).hport k = s.hport k) ∧
    (∀ k, (State.logError s line col kind path ncorr part addr).dir k = s.dir k) ∧
    (∀ k, (State.logError s line col kind path ncorr part addr).tran k = s.tran k) ∧
    (∀ k, (State.logError s line col kind path ncorr part addr).landing k = s.landing k) ∧
    (∀ k, (State.logError s line col kind path ncorr part addr).route k = s.route k) ∧
    (∀ k, (State.logError s line col kind path ncorr part addr).admission k = s.admission k) ∧
    (∀ k, (State.logError s line col kind path ncorr part addr).group k = s.group k) ∧
    (∀ k, (State.logError s line col kind path ncorr part addr).counter k = s.counter k) := by
  simp [State.slot, State.parcel, State.memByte, State.colBad, State.row, State.bspare, State.stack, State.chan, State.nbu, State.cru, State.mat, State.vec, State.vfile, State.fchan, State.spByte, State.spBad, State.ctx, State.part, State.page, State.stream, State.hport, State.dir, State.tran, State.landing, State.route, State.admission, State.group, State.counter]

@[simp] theorem State.memEvent_same (s : State) (line : Nat) (kind : Nat) (seq : Nat) :
    (State.memEvent s line kind seq).pending = s.pending ∧
    (State.memEvent s line kind seq).cyc = s.cyc ∧
    (State.memEvent s line kind seq).free = s.free ∧
    (State.memEvent s line kind seq).half = s.half ∧
    (State.memEvent s line kind seq).regs = s.regs ∧
    (State.memEvent s line kind seq).boot = s.boot ∧
    (State.memEvent s line kind seq).power = s.power ∧
    (State.memEvent s line kind seq).slots = s.slots ∧
    (State.memEvent s line kind seq).parcels = s.parcels ∧
    (State.memEvent s line kind seq).mem = s.mem ∧
    (State.memEvent s line kind seq).pois = s.pois ∧
    (State.memEvent s line kind seq).rows = s.rows ∧
    (State.memEvent s line kind seq).bspares = s.bspares ∧
    (State.memEvent s line kind seq).stks = s.stks ∧
    (State.memEvent s line kind seq).chans = s.chans ∧
    (State.memEvent s line kind seq).nbus = s.nbus ∧
    (State.memEvent s line kind seq).crus = s.crus ∧
    (State.memEvent s line kind seq).hubs = s.hubs ∧
    (State.memEvent s line kind seq).me = s.me ∧
    (State.memEvent s line kind seq).ve = s.ve ∧
    (State.memEvent s line kind seq).vfiles = s.vfiles ∧
    (State.memEvent s line kind seq).fe = s.fe ∧
    (State.memEvent s line kind seq).sp = s.sp ∧
    (State.memEvent s line kind seq).spPois = s.spPois ∧
    (State.memEvent s line kind seq).ctxs = s.ctxs ∧
    (State.memEvent s line kind seq).streams = s.streams ∧
    (State.memEvent s line kind seq).dirs = s.dirs ∧
    (State.memEvent s line kind seq).lines = s.lines ∧
    (State.memEvent s line kind seq).trans = s.trans ∧
    (State.memEvent s line kind seq).lands = s.lands ∧
    (State.memEvent s line kind seq).xacts = s.xacts ∧
    (State.memEvent s line kind seq).routes = s.routes ∧
    (State.memEvent s line kind seq).admits = s.admits ∧
    (State.memEvent s line kind seq).groups = s.groups ∧
    (State.memEvent s line kind seq).fw = s.fw ∧
    (State.memEvent s line kind seq).logs = s.logs ∧
    (State.memEvent s line kind seq).pm = s.pm ∧
    (State.memEvent s line kind seq).tmap = s.tmap := by
  have h := Keeps.memEvent s line kind seq
  and_intros
  · exact h.same .pending (by decide)
  · exact h.same .cyc (by decide)
  · exact h.same .free (by decide)
  · exact h.same .half (by decide)
  · exact h.same .regs (by decide)
  · exact h.same .boot (by decide)
  · exact h.same .power (by decide)
  · exact h.same .slots (by decide)
  · exact h.same .parcels (by decide)
  · exact h.same .mem (by decide)
  · exact h.same .pois (by decide)
  · exact h.same .rows (by decide)
  · exact h.same .bspares (by decide)
  · exact h.same .stks (by decide)
  · exact h.same .chans (by decide)
  · exact h.same .nbus (by decide)
  · exact h.same .crus (by decide)
  · exact h.same .hubs (by decide)
  · exact h.same .me (by decide)
  · exact h.same .ve (by decide)
  · exact h.same .vfiles (by decide)
  · exact h.same .fe (by decide)
  · exact h.same .sp (by decide)
  · exact h.same .spPois (by decide)
  · exact h.same .ctxs (by decide)
  · exact h.same .streams (by decide)
  · exact h.same .dirs (by decide)
  · exact h.same .lines (by decide)
  · exact h.same .trans (by decide)
  · exact h.same .lands (by decide)
  · exact h.same .xacts (by decide)
  · exact h.same .routes (by decide)
  · exact h.same .admits (by decide)
  · exact h.same .groups (by decide)
  · exact h.same .fw (by decide)
  · exact h.same .logs (by decide)
  · exact h.same .pm (by decide)
  · exact h.same .tmap (by decide)

@[simp] theorem State.memEvent_members (s : State) (line : Nat) (kind : Nat) (seq : Nat) :
    (∀ k, (State.memEvent s line kind seq).slot k = s.slot k) ∧
    (∀ k, (State.memEvent s line kind seq).parcel k = s.parcel k) ∧
    (∀ k, (State.memEvent s line kind seq).memByte k = s.memByte k) ∧
    (∀ k, (State.memEvent s line kind seq).colBad k = s.colBad k) ∧
    (∀ k, (State.memEvent s line kind seq).row k = s.row k) ∧
    (∀ k, (State.memEvent s line kind seq).bspare k = s.bspare k) ∧
    (∀ k, (State.memEvent s line kind seq).stack k = s.stack k) ∧
    (∀ k, (State.memEvent s line kind seq).chan k = s.chan k) ∧
    (∀ k, (State.memEvent s line kind seq).nbu k = s.nbu k) ∧
    (∀ k, (State.memEvent s line kind seq).cru k = s.cru k) ∧
    (∀ k, (State.memEvent s line kind seq).hub k = s.hub k) ∧
    (∀ k, (State.memEvent s line kind seq).mat k = s.mat k) ∧
    (∀ k, (State.memEvent s line kind seq).vec k = s.vec k) ∧
    (∀ k, (State.memEvent s line kind seq).vfile k = s.vfile k) ∧
    (∀ k, (State.memEvent s line kind seq).fchan k = s.fchan k) ∧
    (∀ k, (State.memEvent s line kind seq).spByte k = s.spByte k) ∧
    (∀ k, (State.memEvent s line kind seq).spBad k = s.spBad k) ∧
    (∀ k, (State.memEvent s line kind seq).ctx k = s.ctx k) ∧
    (∀ k, (State.memEvent s line kind seq).stream k = s.stream k) ∧
    (∀ k, (State.memEvent s line kind seq).dir k = s.dir k) ∧
    (∀ k, (State.memEvent s line kind seq).tran k = s.tran k) ∧
    (∀ k, (State.memEvent s line kind seq).landing k = s.landing k) ∧
    (∀ k, (State.memEvent s line kind seq).route k = s.route k) ∧
    (∀ k, (State.memEvent s line kind seq).admission k = s.admission k) ∧
    (∀ k, (State.memEvent s line kind seq).group k = s.group k) ∧
    (∀ k, (State.memEvent s line kind seq).counter k = s.counter k) := by
  simp [State.slot, State.parcel, State.memByte, State.colBad, State.row, State.bspare, State.stack, State.chan, State.nbu, State.cru, State.hub, State.mat, State.vec, State.vfile, State.fchan, State.spByte, State.spBad, State.ctx, State.stream, State.dir, State.tran, State.landing, State.route, State.admission, State.group, State.counter]

@[simp] theorem State.uncorrectable_same (s : State) (line : Nat) (col : Nat) (kind : Nat) (path : Nat) (ncorr : Nat) (part : Option Nat) (addr : Nat) :
    (State.uncorrectable s line col kind path ncorr part addr).pending = s.pending ∧
    (State.uncorrectable s line col kind path ncorr part addr).cyc = s.cyc ∧
    (State.uncorrectable s line col kind path ncorr part addr).free = s.free ∧
    (State.uncorrectable s line col kind path ncorr part addr).half = s.half ∧
    (State.uncorrectable s line col kind path ncorr part addr).regs = s.regs ∧
    (State.uncorrectable s line col kind path ncorr part addr).boot = s.boot ∧
    (State.uncorrectable s line col kind path ncorr part addr).power = s.power ∧
    (State.uncorrectable s line col kind path ncorr part addr).slots = s.slots ∧
    (State.uncorrectable s line col kind path ncorr part addr).parcels = s.parcels ∧
    (State.uncorrectable s line col kind path ncorr part addr).mem = s.mem ∧
    (State.uncorrectable s line col kind path ncorr part addr).pois = s.pois ∧
    (State.uncorrectable s line col kind path ncorr part addr).rows = s.rows ∧
    (State.uncorrectable s line col kind path ncorr part addr).bspares = s.bspares ∧
    (State.uncorrectable s line col kind path ncorr part addr).stks = s.stks ∧
    (State.uncorrectable s line col kind path ncorr part addr).chans = s.chans ∧
    (State.uncorrectable s line col kind path ncorr part addr).nbus = s.nbus ∧
    (State.uncorrectable s line col kind path ncorr part addr).crus = s.crus ∧
    (State.uncorrectable s line col kind path ncorr part addr).me = s.me ∧
    (State.uncorrectable s line col kind path ncorr part addr).ve = s.ve ∧
    (State.uncorrectable s line col kind path ncorr part addr).vfiles = s.vfiles ∧
    (State.uncorrectable s line col kind path ncorr part addr).fe = s.fe ∧
    (State.uncorrectable s line col kind path ncorr part addr).sp = s.sp ∧
    (State.uncorrectable s line col kind path ncorr part addr).spPois = s.spPois ∧
    (State.uncorrectable s line col kind path ncorr part addr).ctxs = s.ctxs ∧
    (State.uncorrectable s line col kind path ncorr part addr).streams = s.streams ∧
    (State.uncorrectable s line col kind path ncorr part addr).dirs = s.dirs ∧
    (State.uncorrectable s line col kind path ncorr part addr).lines = s.lines ∧
    (State.uncorrectable s line col kind path ncorr part addr).trans = s.trans ∧
    (State.uncorrectable s line col kind path ncorr part addr).lands = s.lands ∧
    (State.uncorrectable s line col kind path ncorr part addr).xacts = s.xacts ∧
    (State.uncorrectable s line col kind path ncorr part addr).routes = s.routes ∧
    (State.uncorrectable s line col kind path ncorr part addr).admits = s.admits ∧
    (State.uncorrectable s line col kind path ncorr part addr).groups = s.groups ∧
    (State.uncorrectable s line col kind path ncorr part addr).fw = s.fw ∧
    (State.uncorrectable s line col kind path ncorr part addr).pm = s.pm ∧
    (State.uncorrectable s line col kind path ncorr part addr).tmap = s.tmap := by
  have h := Keeps.uncorrectable s line col kind path ncorr part addr
  and_intros
  · exact h.same .pending (by decide)
  · exact h.same .cyc (by decide)
  · exact h.same .free (by decide)
  · exact h.same .half (by decide)
  · exact h.same .regs (by decide)
  · exact h.same .boot (by decide)
  · exact h.same .power (by decide)
  · exact h.same .slots (by decide)
  · exact h.same .parcels (by decide)
  · exact h.same .mem (by decide)
  · exact h.same .pois (by decide)
  · exact h.same .rows (by decide)
  · exact h.same .bspares (by decide)
  · exact h.same .stks (by decide)
  · exact h.same .chans (by decide)
  · exact h.same .nbus (by decide)
  · exact h.same .crus (by decide)
  · exact h.same .me (by decide)
  · exact h.same .ve (by decide)
  · exact h.same .vfiles (by decide)
  · exact h.same .fe (by decide)
  · exact h.same .sp (by decide)
  · exact h.same .spPois (by decide)
  · exact h.same .ctxs (by decide)
  · exact h.same .streams (by decide)
  · exact h.same .dirs (by decide)
  · exact h.same .lines (by decide)
  · exact h.same .trans (by decide)
  · exact h.same .lands (by decide)
  · exact h.same .xacts (by decide)
  · exact h.same .routes (by decide)
  · exact h.same .admits (by decide)
  · exact h.same .groups (by decide)
  · exact h.same .fw (by decide)
  · exact h.same .pm (by decide)
  · exact h.same .tmap (by decide)

@[simp] theorem State.uncorrectable_members (s : State) (line : Nat) (col : Nat) (kind : Nat) (path : Nat) (ncorr : Nat) (part : Option Nat) (addr : Nat) :
    (∀ k, (State.uncorrectable s line col kind path ncorr part addr).slot k = s.slot k) ∧
    (∀ k, (State.uncorrectable s line col kind path ncorr part addr).parcel k = s.parcel k) ∧
    (∀ k, (State.uncorrectable s line col kind path ncorr part addr).memByte k = s.memByte k) ∧
    (∀ k, (State.uncorrectable s line col kind path ncorr part addr).colBad k = s.colBad k) ∧
    (∀ k, (State.uncorrectable s line col kind path ncorr part addr).row k = s.row k) ∧
    (∀ k, (State.uncorrectable s line col kind path ncorr part addr).bspare k = s.bspare k) ∧
    (∀ k, (State.uncorrectable s line col kind path ncorr part addr).stack k = s.stack k) ∧
    (∀ k, (State.uncorrectable s line col kind path ncorr part addr).chan k = s.chan k) ∧
    (∀ k, (State.uncorrectable s line col kind path ncorr part addr).nbu k = s.nbu k) ∧
    (∀ k, (State.uncorrectable s line col kind path ncorr part addr).cru k = s.cru k) ∧
    (∀ k, (State.uncorrectable s line col kind path ncorr part addr).mat k = s.mat k) ∧
    (∀ k, (State.uncorrectable s line col kind path ncorr part addr).vec k = s.vec k) ∧
    (∀ k, (State.uncorrectable s line col kind path ncorr part addr).vfile k = s.vfile k) ∧
    (∀ k, (State.uncorrectable s line col kind path ncorr part addr).fchan k = s.fchan k) ∧
    (∀ k, (State.uncorrectable s line col kind path ncorr part addr).spByte k = s.spByte k) ∧
    (∀ k, (State.uncorrectable s line col kind path ncorr part addr).spBad k = s.spBad k) ∧
    (∀ k, (State.uncorrectable s line col kind path ncorr part addr).ctx k = s.ctx k) ∧
    (∀ k, (State.uncorrectable s line col kind path ncorr part addr).stream k = s.stream k) ∧
    (∀ k, (State.uncorrectable s line col kind path ncorr part addr).dir k = s.dir k) ∧
    (∀ k, (State.uncorrectable s line col kind path ncorr part addr).tran k = s.tran k) ∧
    (∀ k, (State.uncorrectable s line col kind path ncorr part addr).landing k = s.landing k) ∧
    (∀ k, (State.uncorrectable s line col kind path ncorr part addr).route k = s.route k) ∧
    (∀ k, (State.uncorrectable s line col kind path ncorr part addr).admission k = s.admission k) ∧
    (∀ k, (State.uncorrectable s line col kind path ncorr part addr).group k = s.group k) ∧
    (∀ k, (State.uncorrectable s line col kind path ncorr part addr).counter k = s.counter k) := by
  simp [State.slot, State.parcel, State.memByte, State.colBad, State.row, State.bspare, State.stack, State.chan, State.nbu, State.cru, State.mat, State.vec, State.vfile, State.fchan, State.spByte, State.spBad, State.ctx, State.stream, State.dir, State.tran, State.landing, State.route, State.admission, State.group, State.counter]

@[simp] theorem State.lateLog_same (s : State) (reason : Nat) (srck : Nat) (port : Nat) (part : Option Nat) (modid : Nat) (addr : Nat) (sa : Nat) :
    (State.lateLog s reason srck port part modid addr sa).pending = s.pending ∧
    (State.lateLog s reason srck port part modid addr sa).cyc = s.cyc ∧
    (State.lateLog s reason srck port part modid addr sa).free = s.free ∧
    (State.lateLog s reason srck port part modid addr sa).half = s.half ∧
    (State.lateLog s reason srck port part modid addr sa).regs = s.regs ∧
    (State.lateLog s reason srck port part modid addr sa).boot = s.boot ∧
    (State.lateLog s reason srck port part modid addr sa).power = s.power ∧
    (State.lateLog s reason srck port part modid addr sa).slots = s.slots ∧
    (State.lateLog s reason srck port part modid addr sa).parcels = s.parcels ∧
    (State.lateLog s reason srck port part modid addr sa).mem = s.mem ∧
    (State.lateLog s reason srck port part modid addr sa).pois = s.pois ∧
    (State.lateLog s reason srck port part modid addr sa).rows = s.rows ∧
    (State.lateLog s reason srck port part modid addr sa).bspares = s.bspares ∧
    (State.lateLog s reason srck port part modid addr sa).stks = s.stks ∧
    (State.lateLog s reason srck port part modid addr sa).chans = s.chans ∧
    (State.lateLog s reason srck port part modid addr sa).nbus = s.nbus ∧
    (State.lateLog s reason srck port part modid addr sa).crus = s.crus ∧
    (State.lateLog s reason srck port part modid addr sa).me = s.me ∧
    (State.lateLog s reason srck port part modid addr sa).ve = s.ve ∧
    (State.lateLog s reason srck port part modid addr sa).vfiles = s.vfiles ∧
    (State.lateLog s reason srck port part modid addr sa).fe = s.fe ∧
    (State.lateLog s reason srck port part modid addr sa).sp = s.sp ∧
    (State.lateLog s reason srck port part modid addr sa).spPois = s.spPois ∧
    (State.lateLog s reason srck port part modid addr sa).ctxs = s.ctxs ∧
    (State.lateLog s reason srck port part modid addr sa).parts = s.parts ∧
    (State.lateLog s reason srck port part modid addr sa).pages = s.pages ∧
    (State.lateLog s reason srck port part modid addr sa).streams = s.streams ∧
    (State.lateLog s reason srck port part modid addr sa).dirs = s.dirs ∧
    (State.lateLog s reason srck port part modid addr sa).lines = s.lines ∧
    (State.lateLog s reason srck port part modid addr sa).trans = s.trans ∧
    (State.lateLog s reason srck port part modid addr sa).lands = s.lands ∧
    (State.lateLog s reason srck port part modid addr sa).xacts = s.xacts ∧
    (State.lateLog s reason srck port part modid addr sa).routes = s.routes ∧
    (State.lateLog s reason srck port part modid addr sa).admits = s.admits ∧
    (State.lateLog s reason srck port part modid addr sa).groups = s.groups ∧
    (State.lateLog s reason srck port part modid addr sa).fw = s.fw ∧
    (State.lateLog s reason srck port part modid addr sa).pm = s.pm ∧
    (State.lateLog s reason srck port part modid addr sa).tmap = s.tmap ∧
    (State.lateLog s reason srck port part modid addr sa).act = s.act ∧
    (State.lateLog s reason srck port part modid addr sa).out = s.out := by
  have h := Keeps.lateLog s reason srck port part modid addr sa
  and_intros
  · exact h.same .pending (by decide)
  · exact h.same .cyc (by decide)
  · exact h.same .free (by decide)
  · exact h.same .half (by decide)
  · exact h.same .regs (by decide)
  · exact h.same .boot (by decide)
  · exact h.same .power (by decide)
  · exact h.same .slots (by decide)
  · exact h.same .parcels (by decide)
  · exact h.same .mem (by decide)
  · exact h.same .pois (by decide)
  · exact h.same .rows (by decide)
  · exact h.same .bspares (by decide)
  · exact h.same .stks (by decide)
  · exact h.same .chans (by decide)
  · exact h.same .nbus (by decide)
  · exact h.same .crus (by decide)
  · exact h.same .me (by decide)
  · exact h.same .ve (by decide)
  · exact h.same .vfiles (by decide)
  · exact h.same .fe (by decide)
  · exact h.same .sp (by decide)
  · exact h.same .spPois (by decide)
  · exact h.same .ctxs (by decide)
  · exact h.same .parts (by decide)
  · exact h.same .pages (by decide)
  · exact h.same .streams (by decide)
  · exact h.same .dirs (by decide)
  · exact h.same .lines (by decide)
  · exact h.same .trans (by decide)
  · exact h.same .lands (by decide)
  · exact h.same .xacts (by decide)
  · exact h.same .routes (by decide)
  · exact h.same .admits (by decide)
  · exact h.same .groups (by decide)
  · exact h.same .fw (by decide)
  · exact h.same .pm (by decide)
  · exact h.same .tmap (by decide)
  · exact h.same .act (by decide)
  · exact h.same .out (by decide)

@[simp] theorem State.lateLog_members (s : State) (reason : Nat) (srck : Nat) (port : Nat) (part : Option Nat) (modid : Nat) (addr : Nat) (sa : Nat) :
    (∀ k, (State.lateLog s reason srck port part modid addr sa).slot k = s.slot k) ∧
    (∀ k, (State.lateLog s reason srck port part modid addr sa).parcel k = s.parcel k) ∧
    (∀ k, (State.lateLog s reason srck port part modid addr sa).memByte k = s.memByte k) ∧
    (∀ k, (State.lateLog s reason srck port part modid addr sa).colBad k = s.colBad k) ∧
    (∀ k, (State.lateLog s reason srck port part modid addr sa).row k = s.row k) ∧
    (∀ k, (State.lateLog s reason srck port part modid addr sa).bspare k = s.bspare k) ∧
    (∀ k, (State.lateLog s reason srck port part modid addr sa).stack k = s.stack k) ∧
    (∀ k, (State.lateLog s reason srck port part modid addr sa).chan k = s.chan k) ∧
    (∀ k, (State.lateLog s reason srck port part modid addr sa).nbu k = s.nbu k) ∧
    (∀ k, (State.lateLog s reason srck port part modid addr sa).cru k = s.cru k) ∧
    (∀ k, (State.lateLog s reason srck port part modid addr sa).mat k = s.mat k) ∧
    (∀ k, (State.lateLog s reason srck port part modid addr sa).vec k = s.vec k) ∧
    (∀ k, (State.lateLog s reason srck port part modid addr sa).vfile k = s.vfile k) ∧
    (∀ k, (State.lateLog s reason srck port part modid addr sa).fchan k = s.fchan k) ∧
    (∀ k, (State.lateLog s reason srck port part modid addr sa).spByte k = s.spByte k) ∧
    (∀ k, (State.lateLog s reason srck port part modid addr sa).spBad k = s.spBad k) ∧
    (∀ k, (State.lateLog s reason srck port part modid addr sa).ctx k = s.ctx k) ∧
    (∀ k, (State.lateLog s reason srck port part modid addr sa).part k = s.part k) ∧
    (∀ k, (State.lateLog s reason srck port part modid addr sa).page k = s.page k) ∧
    (∀ k, (State.lateLog s reason srck port part modid addr sa).stream k = s.stream k) ∧
    (∀ k, (State.lateLog s reason srck port part modid addr sa).dir k = s.dir k) ∧
    (∀ k, (State.lateLog s reason srck port part modid addr sa).tran k = s.tran k) ∧
    (∀ k, (State.lateLog s reason srck port part modid addr sa).landing k = s.landing k) ∧
    (∀ k, (State.lateLog s reason srck port part modid addr sa).route k = s.route k) ∧
    (∀ k, (State.lateLog s reason srck port part modid addr sa).admission k = s.admission k) ∧
    (∀ k, (State.lateLog s reason srck port part modid addr sa).group k = s.group k) ∧
    (∀ k, (State.lateLog s reason srck port part modid addr sa).counter k = s.counter k) := by
  simp [State.slot, State.parcel, State.memByte, State.colBad, State.row, State.bspare, State.stack, State.chan, State.nbu, State.cru, State.mat, State.vec, State.vfile, State.fchan, State.spByte, State.spBad, State.ctx, State.part, State.page, State.stream, State.dir, State.tran, State.landing, State.route, State.admission, State.group, State.counter]

@[simp] theorem State.lateFail_same (s : State) (reason : Nat) (srck : Nat) (port : Nat) (part : Option Nat) (modid : Nat) (addr : Nat) (sa : Nat) :
    (State.lateFail s reason srck port part modid addr sa).pending = s.pending ∧
    (State.lateFail s reason srck port part modid addr sa).cyc = s.cyc ∧
    (State.lateFail s reason srck port part modid addr sa).free = s.free ∧
    (State.lateFail s reason srck port part modid addr sa).half = s.half ∧
    (State.lateFail s reason srck port part modid addr sa).regs = s.regs ∧
    (State.lateFail s reason srck port part modid addr sa).boot = s.boot ∧
    (State.lateFail s reason srck port part modid addr sa).power = s.power ∧
    (State.lateFail s reason srck port part modid addr sa).slots = s.slots ∧
    (State.lateFail s reason srck port part modid addr sa).parcels = s.parcels ∧
    (State.lateFail s reason srck port part modid addr sa).mem = s.mem ∧
    (State.lateFail s reason srck port part modid addr sa).pois = s.pois ∧
    (State.lateFail s reason srck port part modid addr sa).rows = s.rows ∧
    (State.lateFail s reason srck port part modid addr sa).bspares = s.bspares ∧
    (State.lateFail s reason srck port part modid addr sa).stks = s.stks ∧
    (State.lateFail s reason srck port part modid addr sa).chans = s.chans ∧
    (State.lateFail s reason srck port part modid addr sa).nbus = s.nbus ∧
    (State.lateFail s reason srck port part modid addr sa).crus = s.crus ∧
    (State.lateFail s reason srck port part modid addr sa).me = s.me ∧
    (State.lateFail s reason srck port part modid addr sa).ve = s.ve ∧
    (State.lateFail s reason srck port part modid addr sa).vfiles = s.vfiles ∧
    (State.lateFail s reason srck port part modid addr sa).fe = s.fe ∧
    (State.lateFail s reason srck port part modid addr sa).sp = s.sp ∧
    (State.lateFail s reason srck port part modid addr sa).spPois = s.spPois ∧
    (State.lateFail s reason srck port part modid addr sa).ctxs = s.ctxs ∧
    (State.lateFail s reason srck port part modid addr sa).streams = s.streams ∧
    (State.lateFail s reason srck port part modid addr sa).dirs = s.dirs ∧
    (State.lateFail s reason srck port part modid addr sa).lines = s.lines ∧
    (State.lateFail s reason srck port part modid addr sa).trans = s.trans ∧
    (State.lateFail s reason srck port part modid addr sa).lands = s.lands ∧
    (State.lateFail s reason srck port part modid addr sa).xacts = s.xacts ∧
    (State.lateFail s reason srck port part modid addr sa).routes = s.routes ∧
    (State.lateFail s reason srck port part modid addr sa).admits = s.admits ∧
    (State.lateFail s reason srck port part modid addr sa).groups = s.groups ∧
    (State.lateFail s reason srck port part modid addr sa).fw = s.fw ∧
    (State.lateFail s reason srck port part modid addr sa).pm = s.pm ∧
    (State.lateFail s reason srck port part modid addr sa).tmap = s.tmap := by
  have h := Keeps.lateFail s reason srck port part modid addr sa
  and_intros
  · exact h.same .pending (by decide)
  · exact h.same .cyc (by decide)
  · exact h.same .free (by decide)
  · exact h.same .half (by decide)
  · exact h.same .regs (by decide)
  · exact h.same .boot (by decide)
  · exact h.same .power (by decide)
  · exact h.same .slots (by decide)
  · exact h.same .parcels (by decide)
  · exact h.same .mem (by decide)
  · exact h.same .pois (by decide)
  · exact h.same .rows (by decide)
  · exact h.same .bspares (by decide)
  · exact h.same .stks (by decide)
  · exact h.same .chans (by decide)
  · exact h.same .nbus (by decide)
  · exact h.same .crus (by decide)
  · exact h.same .me (by decide)
  · exact h.same .ve (by decide)
  · exact h.same .vfiles (by decide)
  · exact h.same .fe (by decide)
  · exact h.same .sp (by decide)
  · exact h.same .spPois (by decide)
  · exact h.same .ctxs (by decide)
  · exact h.same .streams (by decide)
  · exact h.same .dirs (by decide)
  · exact h.same .lines (by decide)
  · exact h.same .trans (by decide)
  · exact h.same .lands (by decide)
  · exact h.same .xacts (by decide)
  · exact h.same .routes (by decide)
  · exact h.same .admits (by decide)
  · exact h.same .groups (by decide)
  · exact h.same .fw (by decide)
  · exact h.same .pm (by decide)
  · exact h.same .tmap (by decide)

@[simp] theorem State.lateFail_members (s : State) (reason : Nat) (srck : Nat) (port : Nat) (part : Option Nat) (modid : Nat) (addr : Nat) (sa : Nat) :
    (∀ k, (State.lateFail s reason srck port part modid addr sa).slot k = s.slot k) ∧
    (∀ k, (State.lateFail s reason srck port part modid addr sa).parcel k = s.parcel k) ∧
    (∀ k, (State.lateFail s reason srck port part modid addr sa).memByte k = s.memByte k) ∧
    (∀ k, (State.lateFail s reason srck port part modid addr sa).colBad k = s.colBad k) ∧
    (∀ k, (State.lateFail s reason srck port part modid addr sa).row k = s.row k) ∧
    (∀ k, (State.lateFail s reason srck port part modid addr sa).bspare k = s.bspare k) ∧
    (∀ k, (State.lateFail s reason srck port part modid addr sa).stack k = s.stack k) ∧
    (∀ k, (State.lateFail s reason srck port part modid addr sa).chan k = s.chan k) ∧
    (∀ k, (State.lateFail s reason srck port part modid addr sa).nbu k = s.nbu k) ∧
    (∀ k, (State.lateFail s reason srck port part modid addr sa).cru k = s.cru k) ∧
    (∀ k, (State.lateFail s reason srck port part modid addr sa).mat k = s.mat k) ∧
    (∀ k, (State.lateFail s reason srck port part modid addr sa).vec k = s.vec k) ∧
    (∀ k, (State.lateFail s reason srck port part modid addr sa).vfile k = s.vfile k) ∧
    (∀ k, (State.lateFail s reason srck port part modid addr sa).fchan k = s.fchan k) ∧
    (∀ k, (State.lateFail s reason srck port part modid addr sa).spByte k = s.spByte k) ∧
    (∀ k, (State.lateFail s reason srck port part modid addr sa).spBad k = s.spBad k) ∧
    (∀ k, (State.lateFail s reason srck port part modid addr sa).ctx k = s.ctx k) ∧
    (∀ k, (State.lateFail s reason srck port part modid addr sa).stream k = s.stream k) ∧
    (∀ k, (State.lateFail s reason srck port part modid addr sa).dir k = s.dir k) ∧
    (∀ k, (State.lateFail s reason srck port part modid addr sa).tran k = s.tran k) ∧
    (∀ k, (State.lateFail s reason srck port part modid addr sa).landing k = s.landing k) ∧
    (∀ k, (State.lateFail s reason srck port part modid addr sa).route k = s.route k) ∧
    (∀ k, (State.lateFail s reason srck port part modid addr sa).admission k = s.admission k) ∧
    (∀ k, (State.lateFail s reason srck port part modid addr sa).group k = s.group k) ∧
    (∀ k, (State.lateFail s reason srck port part modid addr sa).counter k = s.counter k) := by
  simp [State.slot, State.parcel, State.memByte, State.colBad, State.row, State.bspare, State.stack, State.chan, State.nbu, State.cru, State.mat, State.vec, State.vfile, State.fchan, State.spByte, State.spBad, State.ctx, State.stream, State.dir, State.tran, State.landing, State.route, State.admission, State.group, State.counter]

@[simp] theorem State.hostDone_same (s : State) (w : HostWrite) (ok : Bool) :
    (State.hostDone s w ok).pending = s.pending ∧
    (State.hostDone s w ok).cyc = s.cyc ∧
    (State.hostDone s w ok).free = s.free ∧
    (State.hostDone s w ok).half = s.half ∧
    (State.hostDone s w ok).regs = s.regs ∧
    (State.hostDone s w ok).boot = s.boot ∧
    (State.hostDone s w ok).power = s.power ∧
    (State.hostDone s w ok).slots = s.slots ∧
    (State.hostDone s w ok).parcels = s.parcels ∧
    (State.hostDone s w ok).mem = s.mem ∧
    (State.hostDone s w ok).pois = s.pois ∧
    (State.hostDone s w ok).rows = s.rows ∧
    (State.hostDone s w ok).bspares = s.bspares ∧
    (State.hostDone s w ok).stks = s.stks ∧
    (State.hostDone s w ok).chans = s.chans ∧
    (State.hostDone s w ok).nbus = s.nbus ∧
    (State.hostDone s w ok).crus = s.crus ∧
    (State.hostDone s w ok).me = s.me ∧
    (State.hostDone s w ok).ve = s.ve ∧
    (State.hostDone s w ok).vfiles = s.vfiles ∧
    (State.hostDone s w ok).fe = s.fe ∧
    (State.hostDone s w ok).sp = s.sp ∧
    (State.hostDone s w ok).spPois = s.spPois ∧
    (State.hostDone s w ok).ctxs = s.ctxs ∧
    (State.hostDone s w ok).streams = s.streams ∧
    (State.hostDone s w ok).dirs = s.dirs ∧
    (State.hostDone s w ok).lines = s.lines ∧
    (State.hostDone s w ok).trans = s.trans ∧
    (State.hostDone s w ok).lands = s.lands ∧
    (State.hostDone s w ok).xacts = s.xacts ∧
    (State.hostDone s w ok).routes = s.routes ∧
    (State.hostDone s w ok).admits = s.admits ∧
    (State.hostDone s w ok).groups = s.groups ∧
    (State.hostDone s w ok).fw = s.fw ∧
    (State.hostDone s w ok).pm = s.pm ∧
    (State.hostDone s w ok).tmap = s.tmap := by
  have h := Keeps.hostDone s w ok
  and_intros
  · exact h.same .pending (by decide)
  · exact h.same .cyc (by decide)
  · exact h.same .free (by decide)
  · exact h.same .half (by decide)
  · exact h.same .regs (by decide)
  · exact h.same .boot (by decide)
  · exact h.same .power (by decide)
  · exact h.same .slots (by decide)
  · exact h.same .parcels (by decide)
  · exact h.same .mem (by decide)
  · exact h.same .pois (by decide)
  · exact h.same .rows (by decide)
  · exact h.same .bspares (by decide)
  · exact h.same .stks (by decide)
  · exact h.same .chans (by decide)
  · exact h.same .nbus (by decide)
  · exact h.same .crus (by decide)
  · exact h.same .me (by decide)
  · exact h.same .ve (by decide)
  · exact h.same .vfiles (by decide)
  · exact h.same .fe (by decide)
  · exact h.same .sp (by decide)
  · exact h.same .spPois (by decide)
  · exact h.same .ctxs (by decide)
  · exact h.same .streams (by decide)
  · exact h.same .dirs (by decide)
  · exact h.same .lines (by decide)
  · exact h.same .trans (by decide)
  · exact h.same .lands (by decide)
  · exact h.same .xacts (by decide)
  · exact h.same .routes (by decide)
  · exact h.same .admits (by decide)
  · exact h.same .groups (by decide)
  · exact h.same .fw (by decide)
  · exact h.same .pm (by decide)
  · exact h.same .tmap (by decide)

@[simp] theorem State.hostDone_members (s : State) (w : HostWrite) (ok : Bool) :
    (∀ k, (State.hostDone s w ok).slot k = s.slot k) ∧
    (∀ k, (State.hostDone s w ok).parcel k = s.parcel k) ∧
    (∀ k, (State.hostDone s w ok).memByte k = s.memByte k) ∧
    (∀ k, (State.hostDone s w ok).colBad k = s.colBad k) ∧
    (∀ k, (State.hostDone s w ok).row k = s.row k) ∧
    (∀ k, (State.hostDone s w ok).bspare k = s.bspare k) ∧
    (∀ k, (State.hostDone s w ok).stack k = s.stack k) ∧
    (∀ k, (State.hostDone s w ok).chan k = s.chan k) ∧
    (∀ k, (State.hostDone s w ok).nbu k = s.nbu k) ∧
    (∀ k, (State.hostDone s w ok).cru k = s.cru k) ∧
    (∀ k, (State.hostDone s w ok).mat k = s.mat k) ∧
    (∀ k, (State.hostDone s w ok).vec k = s.vec k) ∧
    (∀ k, (State.hostDone s w ok).vfile k = s.vfile k) ∧
    (∀ k, (State.hostDone s w ok).fchan k = s.fchan k) ∧
    (∀ k, (State.hostDone s w ok).spByte k = s.spByte k) ∧
    (∀ k, (State.hostDone s w ok).spBad k = s.spBad k) ∧
    (∀ k, (State.hostDone s w ok).ctx k = s.ctx k) ∧
    (∀ k, (State.hostDone s w ok).stream k = s.stream k) ∧
    (∀ k, (State.hostDone s w ok).dir k = s.dir k) ∧
    (∀ k, (State.hostDone s w ok).tran k = s.tran k) ∧
    (∀ k, (State.hostDone s w ok).landing k = s.landing k) ∧
    (∀ k, (State.hostDone s w ok).route k = s.route k) ∧
    (∀ k, (State.hostDone s w ok).admission k = s.admission k) ∧
    (∀ k, (State.hostDone s w ok).group k = s.group k) ∧
    (∀ k, (State.hostDone s w ok).counter k = s.counter k) := by
  simp [State.slot, State.parcel, State.memByte, State.colBad, State.row, State.bspare, State.stack, State.chan, State.nbu, State.cru, State.mat, State.vec, State.vfile, State.fchan, State.spByte, State.spBad, State.ctx, State.stream, State.dir, State.tran, State.landing, State.route, State.admission, State.group, State.counter]

@[simp] theorem State.sendMsg_same (s : State) (land : Nat) (hdr : BitVec 128) (data : List Byte) :
    (State.sendMsg s land hdr data).pending = s.pending ∧
    (State.sendMsg s land hdr data).cyc = s.cyc ∧
    (State.sendMsg s land hdr data).free = s.free ∧
    (State.sendMsg s land hdr data).half = s.half ∧
    (State.sendMsg s land hdr data).regs = s.regs ∧
    (State.sendMsg s land hdr data).boot = s.boot ∧
    (State.sendMsg s land hdr data).power = s.power ∧
    (State.sendMsg s land hdr data).slots = s.slots ∧
    (State.sendMsg s land hdr data).parcels = s.parcels ∧
    (State.sendMsg s land hdr data).mem = s.mem ∧
    (State.sendMsg s land hdr data).pois = s.pois ∧
    (State.sendMsg s land hdr data).rows = s.rows ∧
    (State.sendMsg s land hdr data).bspares = s.bspares ∧
    (State.sendMsg s land hdr data).stks = s.stks ∧
    (State.sendMsg s land hdr data).chans = s.chans ∧
    (State.sendMsg s land hdr data).nbus = s.nbus ∧
    (State.sendMsg s land hdr data).crus = s.crus ∧
    (State.sendMsg s land hdr data).hubs = s.hubs ∧
    (State.sendMsg s land hdr data).me = s.me ∧
    (State.sendMsg s land hdr data).ve = s.ve ∧
    (State.sendMsg s land hdr data).vfiles = s.vfiles ∧
    (State.sendMsg s land hdr data).fe = s.fe ∧
    (State.sendMsg s land hdr data).sp = s.sp ∧
    (State.sendMsg s land hdr data).spPois = s.spPois ∧
    (State.sendMsg s land hdr data).ctxs = s.ctxs ∧
    (State.sendMsg s land hdr data).parts = s.parts ∧
    (State.sendMsg s land hdr data).pages = s.pages ∧
    (State.sendMsg s land hdr data).streams = s.streams ∧
    (State.sendMsg s land hdr data).ports = s.ports ∧
    (State.sendMsg s land hdr data).dirs = s.dirs ∧
    (State.sendMsg s land hdr data).lines = s.lines ∧
    (State.sendMsg s land hdr data).trans = s.trans ∧
    (State.sendMsg s land hdr data).xacts = s.xacts ∧
    (State.sendMsg s land hdr data).routes = s.routes ∧
    (State.sendMsg s land hdr data).admits = s.admits ∧
    (State.sendMsg s land hdr data).groups = s.groups ∧
    (State.sendMsg s land hdr data).fw = s.fw ∧
    (State.sendMsg s land hdr data).logs = s.logs ∧
    (State.sendMsg s land hdr data).tmap = s.tmap := by
  have h := Keeps.sendMsg s land hdr data
  and_intros
  · exact h.same .pending (by decide)
  · exact h.same .cyc (by decide)
  · exact h.same .free (by decide)
  · exact h.same .half (by decide)
  · exact h.same .regs (by decide)
  · exact h.same .boot (by decide)
  · exact h.same .power (by decide)
  · exact h.same .slots (by decide)
  · exact h.same .parcels (by decide)
  · exact h.same .mem (by decide)
  · exact h.same .pois (by decide)
  · exact h.same .rows (by decide)
  · exact h.same .bspares (by decide)
  · exact h.same .stks (by decide)
  · exact h.same .chans (by decide)
  · exact h.same .nbus (by decide)
  · exact h.same .crus (by decide)
  · exact h.same .hubs (by decide)
  · exact h.same .me (by decide)
  · exact h.same .ve (by decide)
  · exact h.same .vfiles (by decide)
  · exact h.same .fe (by decide)
  · exact h.same .sp (by decide)
  · exact h.same .spPois (by decide)
  · exact h.same .ctxs (by decide)
  · exact h.same .parts (by decide)
  · exact h.same .pages (by decide)
  · exact h.same .streams (by decide)
  · exact h.same .ports (by decide)
  · exact h.same .dirs (by decide)
  · exact h.same .lines (by decide)
  · exact h.same .trans (by decide)
  · exact h.same .xacts (by decide)
  · exact h.same .routes (by decide)
  · exact h.same .admits (by decide)
  · exact h.same .groups (by decide)
  · exact h.same .fw (by decide)
  · exact h.same .logs (by decide)
  · exact h.same .tmap (by decide)

@[simp] theorem State.sendMsg_members (s : State) (land : Nat) (hdr : BitVec 128) (data : List Byte) :
    (∀ k, (State.sendMsg s land hdr data).slot k = s.slot k) ∧
    (∀ k, (State.sendMsg s land hdr data).parcel k = s.parcel k) ∧
    (∀ k, (State.sendMsg s land hdr data).memByte k = s.memByte k) ∧
    (∀ k, (State.sendMsg s land hdr data).colBad k = s.colBad k) ∧
    (∀ k, (State.sendMsg s land hdr data).row k = s.row k) ∧
    (∀ k, (State.sendMsg s land hdr data).bspare k = s.bspare k) ∧
    (∀ k, (State.sendMsg s land hdr data).stack k = s.stack k) ∧
    (∀ k, (State.sendMsg s land hdr data).chan k = s.chan k) ∧
    (∀ k, (State.sendMsg s land hdr data).nbu k = s.nbu k) ∧
    (∀ k, (State.sendMsg s land hdr data).cru k = s.cru k) ∧
    (∀ k, (State.sendMsg s land hdr data).hub k = s.hub k) ∧
    (∀ k, (State.sendMsg s land hdr data).mat k = s.mat k) ∧
    (∀ k, (State.sendMsg s land hdr data).vec k = s.vec k) ∧
    (∀ k, (State.sendMsg s land hdr data).vfile k = s.vfile k) ∧
    (∀ k, (State.sendMsg s land hdr data).fchan k = s.fchan k) ∧
    (∀ k, (State.sendMsg s land hdr data).spByte k = s.spByte k) ∧
    (∀ k, (State.sendMsg s land hdr data).spBad k = s.spBad k) ∧
    (∀ k, (State.sendMsg s land hdr data).ctx k = s.ctx k) ∧
    (∀ k, (State.sendMsg s land hdr data).part k = s.part k) ∧
    (∀ k, (State.sendMsg s land hdr data).page k = s.page k) ∧
    (∀ k, (State.sendMsg s land hdr data).stream k = s.stream k) ∧
    (∀ k, (State.sendMsg s land hdr data).hport k = s.hport k) ∧
    (∀ k, (State.sendMsg s land hdr data).dir k = s.dir k) ∧
    (∀ k, (State.sendMsg s land hdr data).tran k = s.tran k) ∧
    (∀ k, (State.sendMsg s land hdr data).route k = s.route k) ∧
    (∀ k, (State.sendMsg s land hdr data).admission k = s.admission k) ∧
    (∀ k, (State.sendMsg s land hdr data).group k = s.group k) := by
  simp [State.slot, State.parcel, State.memByte, State.colBad, State.row, State.bspare, State.stack, State.chan, State.nbu, State.cru, State.hub, State.mat, State.vec, State.vfile, State.fchan, State.spByte, State.spBad, State.ctx, State.part, State.page, State.stream, State.hport, State.dir, State.tran, State.route, State.admission, State.group]

@[simp] theorem State.reply_same (s : State) (h : BitVec 128) (mk : Nat) (lines : Nat) (status : Nat) (pois : Nat) (data : List Byte) :
    (State.reply s h mk lines status pois data).pending = s.pending ∧
    (State.reply s h mk lines status pois data).cyc = s.cyc ∧
    (State.reply s h mk lines status pois data).free = s.free ∧
    (State.reply s h mk lines status pois data).half = s.half ∧
    (State.reply s h mk lines status pois data).regs = s.regs ∧
    (State.reply s h mk lines status pois data).boot = s.boot ∧
    (State.reply s h mk lines status pois data).power = s.power ∧
    (State.reply s h mk lines status pois data).slots = s.slots ∧
    (State.reply s h mk lines status pois data).parcels = s.parcels ∧
    (State.reply s h mk lines status pois data).mem = s.mem ∧
    (State.reply s h mk lines status pois data).pois = s.pois ∧
    (State.reply s h mk lines status pois data).rows = s.rows ∧
    (State.reply s h mk lines status pois data).bspares = s.bspares ∧
    (State.reply s h mk lines status pois data).stks = s.stks ∧
    (State.reply s h mk lines status pois data).chans = s.chans ∧
    (State.reply s h mk lines status pois data).nbus = s.nbus ∧
    (State.reply s h mk lines status pois data).crus = s.crus ∧
    (State.reply s h mk lines status pois data).hubs = s.hubs ∧
    (State.reply s h mk lines status pois data).me = s.me ∧
    (State.reply s h mk lines status pois data).ve = s.ve ∧
    (State.reply s h mk lines status pois data).vfiles = s.vfiles ∧
    (State.reply s h mk lines status pois data).fe = s.fe ∧
    (State.reply s h mk lines status pois data).sp = s.sp ∧
    (State.reply s h mk lines status pois data).spPois = s.spPois ∧
    (State.reply s h mk lines status pois data).ctxs = s.ctxs ∧
    (State.reply s h mk lines status pois data).parts = s.parts ∧
    (State.reply s h mk lines status pois data).pages = s.pages ∧
    (State.reply s h mk lines status pois data).streams = s.streams ∧
    (State.reply s h mk lines status pois data).ports = s.ports ∧
    (State.reply s h mk lines status pois data).dirs = s.dirs ∧
    (State.reply s h mk lines status pois data).lines = s.lines ∧
    (State.reply s h mk lines status pois data).trans = s.trans ∧
    (State.reply s h mk lines status pois data).xacts = s.xacts ∧
    (State.reply s h mk lines status pois data).routes = s.routes ∧
    (State.reply s h mk lines status pois data).admits = s.admits ∧
    (State.reply s h mk lines status pois data).groups = s.groups ∧
    (State.reply s h mk lines status pois data).fw = s.fw ∧
    (State.reply s h mk lines status pois data).logs = s.logs ∧
    (State.reply s h mk lines status pois data).tmap = s.tmap := by
  have h := Keeps.reply s h mk lines status pois data
  and_intros
  · exact h.same .pending (by decide)
  · exact h.same .cyc (by decide)
  · exact h.same .free (by decide)
  · exact h.same .half (by decide)
  · exact h.same .regs (by decide)
  · exact h.same .boot (by decide)
  · exact h.same .power (by decide)
  · exact h.same .slots (by decide)
  · exact h.same .parcels (by decide)
  · exact h.same .mem (by decide)
  · exact h.same .pois (by decide)
  · exact h.same .rows (by decide)
  · exact h.same .bspares (by decide)
  · exact h.same .stks (by decide)
  · exact h.same .chans (by decide)
  · exact h.same .nbus (by decide)
  · exact h.same .crus (by decide)
  · exact h.same .hubs (by decide)
  · exact h.same .me (by decide)
  · exact h.same .ve (by decide)
  · exact h.same .vfiles (by decide)
  · exact h.same .fe (by decide)
  · exact h.same .sp (by decide)
  · exact h.same .spPois (by decide)
  · exact h.same .ctxs (by decide)
  · exact h.same .parts (by decide)
  · exact h.same .pages (by decide)
  · exact h.same .streams (by decide)
  · exact h.same .ports (by decide)
  · exact h.same .dirs (by decide)
  · exact h.same .lines (by decide)
  · exact h.same .trans (by decide)
  · exact h.same .xacts (by decide)
  · exact h.same .routes (by decide)
  · exact h.same .admits (by decide)
  · exact h.same .groups (by decide)
  · exact h.same .fw (by decide)
  · exact h.same .logs (by decide)
  · exact h.same .tmap (by decide)

@[simp] theorem State.reply_members (s : State) (h : BitVec 128) (mk : Nat) (lines : Nat) (status : Nat) (pois : Nat) (data : List Byte) :
    (∀ k, (State.reply s h mk lines status pois data).slot k = s.slot k) ∧
    (∀ k, (State.reply s h mk lines status pois data).parcel k = s.parcel k) ∧
    (∀ k, (State.reply s h mk lines status pois data).memByte k = s.memByte k) ∧
    (∀ k, (State.reply s h mk lines status pois data).colBad k = s.colBad k) ∧
    (∀ k, (State.reply s h mk lines status pois data).row k = s.row k) ∧
    (∀ k, (State.reply s h mk lines status pois data).bspare k = s.bspare k) ∧
    (∀ k, (State.reply s h mk lines status pois data).stack k = s.stack k) ∧
    (∀ k, (State.reply s h mk lines status pois data).chan k = s.chan k) ∧
    (∀ k, (State.reply s h mk lines status pois data).nbu k = s.nbu k) ∧
    (∀ k, (State.reply s h mk lines status pois data).cru k = s.cru k) ∧
    (∀ k, (State.reply s h mk lines status pois data).hub k = s.hub k) ∧
    (∀ k, (State.reply s h mk lines status pois data).mat k = s.mat k) ∧
    (∀ k, (State.reply s h mk lines status pois data).vec k = s.vec k) ∧
    (∀ k, (State.reply s h mk lines status pois data).vfile k = s.vfile k) ∧
    (∀ k, (State.reply s h mk lines status pois data).fchan k = s.fchan k) ∧
    (∀ k, (State.reply s h mk lines status pois data).spByte k = s.spByte k) ∧
    (∀ k, (State.reply s h mk lines status pois data).spBad k = s.spBad k) ∧
    (∀ k, (State.reply s h mk lines status pois data).ctx k = s.ctx k) ∧
    (∀ k, (State.reply s h mk lines status pois data).part k = s.part k) ∧
    (∀ k, (State.reply s h mk lines status pois data).page k = s.page k) ∧
    (∀ k, (State.reply s h mk lines status pois data).stream k = s.stream k) ∧
    (∀ k, (State.reply s h mk lines status pois data).hport k = s.hport k) ∧
    (∀ k, (State.reply s h mk lines status pois data).dir k = s.dir k) ∧
    (∀ k, (State.reply s h mk lines status pois data).tran k = s.tran k) ∧
    (∀ k, (State.reply s h mk lines status pois data).route k = s.route k) ∧
    (∀ k, (State.reply s h mk lines status pois data).admission k = s.admission k) ∧
    (∀ k, (State.reply s h mk lines status pois data).group k = s.group k) := by
  simp [State.slot, State.parcel, State.memByte, State.colBad, State.row, State.bspare, State.stack, State.chan, State.nbu, State.cru, State.hub, State.mat, State.vec, State.vfile, State.fchan, State.spByte, State.spBad, State.ctx, State.part, State.page, State.stream, State.hport, State.dir, State.tran, State.route, State.admission, State.group]

@[simp] theorem State.draw_same (s : State) :
    (State.draw s).pending = s.pending ∧
    (State.draw s).cyc = s.cyc ∧
    (State.draw s).half = s.half ∧
    (State.draw s).regs = s.regs ∧
    (State.draw s).boot = s.boot ∧
    (State.draw s).power = s.power ∧
    (State.draw s).slots = s.slots ∧
    (State.draw s).parcels = s.parcels ∧
    (State.draw s).mem = s.mem ∧
    (State.draw s).pois = s.pois ∧
    (State.draw s).rows = s.rows ∧
    (State.draw s).bspares = s.bspares ∧
    (State.draw s).stks = s.stks ∧
    (State.draw s).chans = s.chans ∧
    (State.draw s).nbus = s.nbus ∧
    (State.draw s).crus = s.crus ∧
    (State.draw s).hubs = s.hubs ∧
    (State.draw s).me = s.me ∧
    (State.draw s).ve = s.ve ∧
    (State.draw s).vfiles = s.vfiles ∧
    (State.draw s).fe = s.fe ∧
    (State.draw s).sp = s.sp ∧
    (State.draw s).spPois = s.spPois ∧
    (State.draw s).ctxs = s.ctxs ∧
    (State.draw s).parts = s.parts ∧
    (State.draw s).pages = s.pages ∧
    (State.draw s).streams = s.streams ∧
    (State.draw s).ports = s.ports ∧
    (State.draw s).dirs = s.dirs ∧
    (State.draw s).lines = s.lines ∧
    (State.draw s).trans = s.trans ∧
    (State.draw s).lands = s.lands ∧
    (State.draw s).xacts = s.xacts ∧
    (State.draw s).routes = s.routes ∧
    (State.draw s).admits = s.admits ∧
    (State.draw s).groups = s.groups ∧
    (State.draw s).fw = s.fw ∧
    (State.draw s).logs = s.logs ∧
    (State.draw s).pm = s.pm ∧
    (State.draw s).tmap = s.tmap ∧
    (State.draw s).act = s.act ∧
    (State.draw s).out = s.out := by
  have h := Keeps.draw s
  and_intros
  · exact h.same .pending (by decide)
  · exact h.same .cyc (by decide)
  · exact h.same .half (by decide)
  · exact h.same .regs (by decide)
  · exact h.same .boot (by decide)
  · exact h.same .power (by decide)
  · exact h.same .slots (by decide)
  · exact h.same .parcels (by decide)
  · exact h.same .mem (by decide)
  · exact h.same .pois (by decide)
  · exact h.same .rows (by decide)
  · exact h.same .bspares (by decide)
  · exact h.same .stks (by decide)
  · exact h.same .chans (by decide)
  · exact h.same .nbus (by decide)
  · exact h.same .crus (by decide)
  · exact h.same .hubs (by decide)
  · exact h.same .me (by decide)
  · exact h.same .ve (by decide)
  · exact h.same .vfiles (by decide)
  · exact h.same .fe (by decide)
  · exact h.same .sp (by decide)
  · exact h.same .spPois (by decide)
  · exact h.same .ctxs (by decide)
  · exact h.same .parts (by decide)
  · exact h.same .pages (by decide)
  · exact h.same .streams (by decide)
  · exact h.same .ports (by decide)
  · exact h.same .dirs (by decide)
  · exact h.same .lines (by decide)
  · exact h.same .trans (by decide)
  · exact h.same .lands (by decide)
  · exact h.same .xacts (by decide)
  · exact h.same .routes (by decide)
  · exact h.same .admits (by decide)
  · exact h.same .groups (by decide)
  · exact h.same .fw (by decide)
  · exact h.same .logs (by decide)
  · exact h.same .pm (by decide)
  · exact h.same .tmap (by decide)
  · exact h.same .act (by decide)
  · exact h.same .out (by decide)

@[simp] theorem State.draw_members (s : State) :
    (∀ k, (State.draw s).slot k = s.slot k) ∧
    (∀ k, (State.draw s).parcel k = s.parcel k) ∧
    (∀ k, (State.draw s).memByte k = s.memByte k) ∧
    (∀ k, (State.draw s).colBad k = s.colBad k) ∧
    (∀ k, (State.draw s).row k = s.row k) ∧
    (∀ k, (State.draw s).bspare k = s.bspare k) ∧
    (∀ k, (State.draw s).stack k = s.stack k) ∧
    (∀ k, (State.draw s).chan k = s.chan k) ∧
    (∀ k, (State.draw s).nbu k = s.nbu k) ∧
    (∀ k, (State.draw s).cru k = s.cru k) ∧
    (∀ k, (State.draw s).hub k = s.hub k) ∧
    (∀ k, (State.draw s).mat k = s.mat k) ∧
    (∀ k, (State.draw s).vec k = s.vec k) ∧
    (∀ k, (State.draw s).vfile k = s.vfile k) ∧
    (∀ k, (State.draw s).fchan k = s.fchan k) ∧
    (∀ k, (State.draw s).spByte k = s.spByte k) ∧
    (∀ k, (State.draw s).spBad k = s.spBad k) ∧
    (∀ k, (State.draw s).ctx k = s.ctx k) ∧
    (∀ k, (State.draw s).part k = s.part k) ∧
    (∀ k, (State.draw s).page k = s.page k) ∧
    (∀ k, (State.draw s).stream k = s.stream k) ∧
    (∀ k, (State.draw s).hport k = s.hport k) ∧
    (∀ k, (State.draw s).dir k = s.dir k) ∧
    (∀ k, (State.draw s).tran k = s.tran k) ∧
    (∀ k, (State.draw s).landing k = s.landing k) ∧
    (∀ k, (State.draw s).route k = s.route k) ∧
    (∀ k, (State.draw s).admission k = s.admission k) ∧
    (∀ k, (State.draw s).group k = s.group k) ∧
    (∀ k, (State.draw s).counter k = s.counter k) := by
  simp [State.slot, State.parcel, State.memByte, State.colBad, State.row, State.bspare, State.stack, State.chan, State.nbu, State.cru, State.hub, State.mat, State.vec, State.vfile, State.fchan, State.spByte, State.spBad, State.ctx, State.part, State.page, State.stream, State.hport, State.dir, State.tran, State.landing, State.route, State.admission, State.group, State.counter]

@[simp] theorem State.storeLine_same (s : State) (k : Nat) (d : Line512) (pois : Bool) :
    (State.storeLine s k d pois).pending = s.pending ∧
    (State.storeLine s k d pois).cyc = s.cyc ∧
    (State.storeLine s k d pois).free = s.free ∧
    (State.storeLine s k d pois).half = s.half ∧
    (State.storeLine s k d pois).regs = s.regs ∧
    (State.storeLine s k d pois).boot = s.boot ∧
    (State.storeLine s k d pois).power = s.power ∧
    (State.storeLine s k d pois).slots = s.slots ∧
    (State.storeLine s k d pois).parcels = s.parcels ∧
    (State.storeLine s k d pois).bspares = s.bspares ∧
    (State.storeLine s k d pois).stks = s.stks ∧
    (State.storeLine s k d pois).chans = s.chans ∧
    (State.storeLine s k d pois).nbus = s.nbus ∧
    (State.storeLine s k d pois).crus = s.crus ∧
    (State.storeLine s k d pois).hubs = s.hubs ∧
    (State.storeLine s k d pois).me = s.me ∧
    (State.storeLine s k d pois).ve = s.ve ∧
    (State.storeLine s k d pois).vfiles = s.vfiles ∧
    (State.storeLine s k d pois).fe = s.fe ∧
    (State.storeLine s k d pois).sp = s.sp ∧
    (State.storeLine s k d pois).spPois = s.spPois ∧
    (State.storeLine s k d pois).ctxs = s.ctxs ∧
    (State.storeLine s k d pois).parts = s.parts ∧
    (State.storeLine s k d pois).pages = s.pages ∧
    (State.storeLine s k d pois).streams = s.streams ∧
    (State.storeLine s k d pois).ports = s.ports ∧
    (State.storeLine s k d pois).dirs = s.dirs ∧
    (State.storeLine s k d pois).lines = s.lines ∧
    (State.storeLine s k d pois).trans = s.trans ∧
    (State.storeLine s k d pois).lands = s.lands ∧
    (State.storeLine s k d pois).xacts = s.xacts ∧
    (State.storeLine s k d pois).routes = s.routes ∧
    (State.storeLine s k d pois).admits = s.admits ∧
    (State.storeLine s k d pois).groups = s.groups ∧
    (State.storeLine s k d pois).fw = s.fw ∧
    (State.storeLine s k d pois).logs = s.logs ∧
    (State.storeLine s k d pois).pm = s.pm ∧
    (State.storeLine s k d pois).tmap = s.tmap ∧
    (State.storeLine s k d pois).act = s.act ∧
    (State.storeLine s k d pois).out = s.out := by
  have h := Keeps.storeLine s k d pois
  and_intros
  · exact h.same .pending (by decide)
  · exact h.same .cyc (by decide)
  · exact h.same .free (by decide)
  · exact h.same .half (by decide)
  · exact h.same .regs (by decide)
  · exact h.same .boot (by decide)
  · exact h.same .power (by decide)
  · exact h.same .slots (by decide)
  · exact h.same .parcels (by decide)
  · exact h.same .bspares (by decide)
  · exact h.same .stks (by decide)
  · exact h.same .chans (by decide)
  · exact h.same .nbus (by decide)
  · exact h.same .crus (by decide)
  · exact h.same .hubs (by decide)
  · exact h.same .me (by decide)
  · exact h.same .ve (by decide)
  · exact h.same .vfiles (by decide)
  · exact h.same .fe (by decide)
  · exact h.same .sp (by decide)
  · exact h.same .spPois (by decide)
  · exact h.same .ctxs (by decide)
  · exact h.same .parts (by decide)
  · exact h.same .pages (by decide)
  · exact h.same .streams (by decide)
  · exact h.same .ports (by decide)
  · exact h.same .dirs (by decide)
  · exact h.same .lines (by decide)
  · exact h.same .trans (by decide)
  · exact h.same .lands (by decide)
  · exact h.same .xacts (by decide)
  · exact h.same .routes (by decide)
  · exact h.same .admits (by decide)
  · exact h.same .groups (by decide)
  · exact h.same .fw (by decide)
  · exact h.same .logs (by decide)
  · exact h.same .pm (by decide)
  · exact h.same .tmap (by decide)
  · exact h.same .act (by decide)
  · exact h.same .out (by decide)

@[simp] theorem State.storeLine_members (s : State) (k : Nat) (d : Line512) (pois : Bool) :
    (∀ k, (State.storeLine s k d pois).slot k = s.slot k) ∧
    (∀ k, (State.storeLine s k d pois).parcel k = s.parcel k) ∧
    (∀ k, (State.storeLine s k d pois).bspare k = s.bspare k) ∧
    (∀ k, (State.storeLine s k d pois).stack k = s.stack k) ∧
    (∀ k, (State.storeLine s k d pois).chan k = s.chan k) ∧
    (∀ k, (State.storeLine s k d pois).nbu k = s.nbu k) ∧
    (∀ k, (State.storeLine s k d pois).cru k = s.cru k) ∧
    (∀ k, (State.storeLine s k d pois).hub k = s.hub k) ∧
    (∀ k, (State.storeLine s k d pois).mat k = s.mat k) ∧
    (∀ k, (State.storeLine s k d pois).vec k = s.vec k) ∧
    (∀ k, (State.storeLine s k d pois).vfile k = s.vfile k) ∧
    (∀ k, (State.storeLine s k d pois).fchan k = s.fchan k) ∧
    (∀ k, (State.storeLine s k d pois).spByte k = s.spByte k) ∧
    (∀ k, (State.storeLine s k d pois).spBad k = s.spBad k) ∧
    (∀ k, (State.storeLine s k d pois).ctx k = s.ctx k) ∧
    (∀ k, (State.storeLine s k d pois).part k = s.part k) ∧
    (∀ k, (State.storeLine s k d pois).page k = s.page k) ∧
    (∀ k, (State.storeLine s k d pois).stream k = s.stream k) ∧
    (∀ k, (State.storeLine s k d pois).hport k = s.hport k) ∧
    (∀ k, (State.storeLine s k d pois).dir k = s.dir k) ∧
    (∀ k, (State.storeLine s k d pois).tran k = s.tran k) ∧
    (∀ k, (State.storeLine s k d pois).landing k = s.landing k) ∧
    (∀ k, (State.storeLine s k d pois).route k = s.route k) ∧
    (∀ k, (State.storeLine s k d pois).admission k = s.admission k) ∧
    (∀ k, (State.storeLine s k d pois).group k = s.group k) ∧
    (∀ k, (State.storeLine s k d pois).counter k = s.counter k) := by
  simp [State.slot, State.parcel, State.bspare, State.stack, State.chan, State.nbu, State.cru, State.hub, State.mat, State.vec, State.vfile, State.fchan, State.spByte, State.spBad, State.ctx, State.part, State.page, State.stream, State.hport, State.dir, State.tran, State.landing, State.route, State.admission, State.group, State.counter]

@[simp] theorem State.poisonLine_same (s : State) (k : Nat) :
    (State.poisonLine s k).pending = s.pending ∧
    (State.poisonLine s k).cyc = s.cyc ∧
    (State.poisonLine s k).free = s.free ∧
    (State.poisonLine s k).half = s.half ∧
    (State.poisonLine s k).regs = s.regs ∧
    (State.poisonLine s k).boot = s.boot ∧
    (State.poisonLine s k).power = s.power ∧
    (State.poisonLine s k).slots = s.slots ∧
    (State.poisonLine s k).parcels = s.parcels ∧
    (State.poisonLine s k).mem = s.mem ∧
    (State.poisonLine s k).bspares = s.bspares ∧
    (State.poisonLine s k).stks = s.stks ∧
    (State.poisonLine s k).chans = s.chans ∧
    (State.poisonLine s k).nbus = s.nbus ∧
    (State.poisonLine s k).crus = s.crus ∧
    (State.poisonLine s k).hubs = s.hubs ∧
    (State.poisonLine s k).me = s.me ∧
    (State.poisonLine s k).ve = s.ve ∧
    (State.poisonLine s k).vfiles = s.vfiles ∧
    (State.poisonLine s k).fe = s.fe ∧
    (State.poisonLine s k).sp = s.sp ∧
    (State.poisonLine s k).spPois = s.spPois ∧
    (State.poisonLine s k).ctxs = s.ctxs ∧
    (State.poisonLine s k).parts = s.parts ∧
    (State.poisonLine s k).pages = s.pages ∧
    (State.poisonLine s k).streams = s.streams ∧
    (State.poisonLine s k).ports = s.ports ∧
    (State.poisonLine s k).dirs = s.dirs ∧
    (State.poisonLine s k).lines = s.lines ∧
    (State.poisonLine s k).trans = s.trans ∧
    (State.poisonLine s k).lands = s.lands ∧
    (State.poisonLine s k).xacts = s.xacts ∧
    (State.poisonLine s k).routes = s.routes ∧
    (State.poisonLine s k).admits = s.admits ∧
    (State.poisonLine s k).groups = s.groups ∧
    (State.poisonLine s k).fw = s.fw ∧
    (State.poisonLine s k).logs = s.logs ∧
    (State.poisonLine s k).pm = s.pm ∧
    (State.poisonLine s k).tmap = s.tmap ∧
    (State.poisonLine s k).act = s.act ∧
    (State.poisonLine s k).out = s.out := by
  have h := Keeps.poisonLine s k
  and_intros
  · exact h.same .pending (by decide)
  · exact h.same .cyc (by decide)
  · exact h.same .free (by decide)
  · exact h.same .half (by decide)
  · exact h.same .regs (by decide)
  · exact h.same .boot (by decide)
  · exact h.same .power (by decide)
  · exact h.same .slots (by decide)
  · exact h.same .parcels (by decide)
  · exact h.same .mem (by decide)
  · exact h.same .bspares (by decide)
  · exact h.same .stks (by decide)
  · exact h.same .chans (by decide)
  · exact h.same .nbus (by decide)
  · exact h.same .crus (by decide)
  · exact h.same .hubs (by decide)
  · exact h.same .me (by decide)
  · exact h.same .ve (by decide)
  · exact h.same .vfiles (by decide)
  · exact h.same .fe (by decide)
  · exact h.same .sp (by decide)
  · exact h.same .spPois (by decide)
  · exact h.same .ctxs (by decide)
  · exact h.same .parts (by decide)
  · exact h.same .pages (by decide)
  · exact h.same .streams (by decide)
  · exact h.same .ports (by decide)
  · exact h.same .dirs (by decide)
  · exact h.same .lines (by decide)
  · exact h.same .trans (by decide)
  · exact h.same .lands (by decide)
  · exact h.same .xacts (by decide)
  · exact h.same .routes (by decide)
  · exact h.same .admits (by decide)
  · exact h.same .groups (by decide)
  · exact h.same .fw (by decide)
  · exact h.same .logs (by decide)
  · exact h.same .pm (by decide)
  · exact h.same .tmap (by decide)
  · exact h.same .act (by decide)
  · exact h.same .out (by decide)

@[simp] theorem State.poisonLine_members (s : State) (k : Nat) :
    (∀ k, (State.poisonLine s k).slot k = s.slot k) ∧
    (∀ k, (State.poisonLine s k).parcel k = s.parcel k) ∧
    (∀ k, (State.poisonLine s k).memByte k = s.memByte k) ∧
    (∀ k, (State.poisonLine s k).bspare k = s.bspare k) ∧
    (∀ k, (State.poisonLine s k).stack k = s.stack k) ∧
    (∀ k, (State.poisonLine s k).chan k = s.chan k) ∧
    (∀ k, (State.poisonLine s k).nbu k = s.nbu k) ∧
    (∀ k, (State.poisonLine s k).cru k = s.cru k) ∧
    (∀ k, (State.poisonLine s k).hub k = s.hub k) ∧
    (∀ k, (State.poisonLine s k).mat k = s.mat k) ∧
    (∀ k, (State.poisonLine s k).vec k = s.vec k) ∧
    (∀ k, (State.poisonLine s k).vfile k = s.vfile k) ∧
    (∀ k, (State.poisonLine s k).fchan k = s.fchan k) ∧
    (∀ k, (State.poisonLine s k).spByte k = s.spByte k) ∧
    (∀ k, (State.poisonLine s k).spBad k = s.spBad k) ∧
    (∀ k, (State.poisonLine s k).ctx k = s.ctx k) ∧
    (∀ k, (State.poisonLine s k).part k = s.part k) ∧
    (∀ k, (State.poisonLine s k).page k = s.page k) ∧
    (∀ k, (State.poisonLine s k).stream k = s.stream k) ∧
    (∀ k, (State.poisonLine s k).hport k = s.hport k) ∧
    (∀ k, (State.poisonLine s k).dir k = s.dir k) ∧
    (∀ k, (State.poisonLine s k).tran k = s.tran k) ∧
    (∀ k, (State.poisonLine s k).landing k = s.landing k) ∧
    (∀ k, (State.poisonLine s k).route k = s.route k) ∧
    (∀ k, (State.poisonLine s k).admission k = s.admission k) ∧
    (∀ k, (State.poisonLine s k).group k = s.group k) ∧
    (∀ k, (State.poisonLine s k).counter k = s.counter k) := by
  simp [State.slot, State.parcel, State.memByte, State.bspare, State.stack, State.chan, State.nbu, State.cru, State.hub, State.mat, State.vec, State.vfile, State.fchan, State.spByte, State.spBad, State.ctx, State.part, State.page, State.stream, State.hport, State.dir, State.tran, State.landing, State.route, State.admission, State.group, State.counter]

@[simp] theorem State.enqueueWake_same (s : State) (t : Nat) (kind : Nat) (member : Nat) :
    (State.enqueueWake s t kind member).pending = s.pending ∧
    (State.enqueueWake s t kind member).cyc = s.cyc ∧
    (State.enqueueWake s t kind member).free = s.free ∧
    (State.enqueueWake s t kind member).half = s.half ∧
    (State.enqueueWake s t kind member).regs = s.regs ∧
    (State.enqueueWake s t kind member).boot = s.boot ∧
    (State.enqueueWake s t kind member).power = s.power ∧
    (State.enqueueWake s t kind member).slots = s.slots ∧
    (State.enqueueWake s t kind member).parcels = s.parcels ∧
    (State.enqueueWake s t kind member).mem = s.mem ∧
    (State.enqueueWake s t kind member).pois = s.pois ∧
    (State.enqueueWake s t kind member).rows = s.rows ∧
    (State.enqueueWake s t kind member).bspares = s.bspares ∧
    (State.enqueueWake s t kind member).stks = s.stks ∧
    (State.enqueueWake s t kind member).chans = s.chans ∧
    (State.enqueueWake s t kind member).nbus = s.nbus ∧
    (State.enqueueWake s t kind member).crus = s.crus ∧
    (State.enqueueWake s t kind member).me = s.me ∧
    (State.enqueueWake s t kind member).ve = s.ve ∧
    (State.enqueueWake s t kind member).vfiles = s.vfiles ∧
    (State.enqueueWake s t kind member).fe = s.fe ∧
    (State.enqueueWake s t kind member).sp = s.sp ∧
    (State.enqueueWake s t kind member).spPois = s.spPois ∧
    (State.enqueueWake s t kind member).ctxs = s.ctxs ∧
    (State.enqueueWake s t kind member).parts = s.parts ∧
    (State.enqueueWake s t kind member).pages = s.pages ∧
    (State.enqueueWake s t kind member).streams = s.streams ∧
    (State.enqueueWake s t kind member).ports = s.ports ∧
    (State.enqueueWake s t kind member).dirs = s.dirs ∧
    (State.enqueueWake s t kind member).lines = s.lines ∧
    (State.enqueueWake s t kind member).trans = s.trans ∧
    (State.enqueueWake s t kind member).lands = s.lands ∧
    (State.enqueueWake s t kind member).xacts = s.xacts ∧
    (State.enqueueWake s t kind member).routes = s.routes ∧
    (State.enqueueWake s t kind member).admits = s.admits ∧
    (State.enqueueWake s t kind member).groups = s.groups ∧
    (State.enqueueWake s t kind member).fw = s.fw ∧
    (State.enqueueWake s t kind member).logs = s.logs ∧
    (State.enqueueWake s t kind member).pm = s.pm ∧
    (State.enqueueWake s t kind member).tmap = s.tmap ∧
    (State.enqueueWake s t kind member).act = s.act ∧
    (State.enqueueWake s t kind member).out = s.out := by
  have h := Keeps.enqueueWake s t kind member
  and_intros
  · exact h.same .pending (by decide)
  · exact h.same .cyc (by decide)
  · exact h.same .free (by decide)
  · exact h.same .half (by decide)
  · exact h.same .regs (by decide)
  · exact h.same .boot (by decide)
  · exact h.same .power (by decide)
  · exact h.same .slots (by decide)
  · exact h.same .parcels (by decide)
  · exact h.same .mem (by decide)
  · exact h.same .pois (by decide)
  · exact h.same .rows (by decide)
  · exact h.same .bspares (by decide)
  · exact h.same .stks (by decide)
  · exact h.same .chans (by decide)
  · exact h.same .nbus (by decide)
  · exact h.same .crus (by decide)
  · exact h.same .me (by decide)
  · exact h.same .ve (by decide)
  · exact h.same .vfiles (by decide)
  · exact h.same .fe (by decide)
  · exact h.same .sp (by decide)
  · exact h.same .spPois (by decide)
  · exact h.same .ctxs (by decide)
  · exact h.same .parts (by decide)
  · exact h.same .pages (by decide)
  · exact h.same .streams (by decide)
  · exact h.same .ports (by decide)
  · exact h.same .dirs (by decide)
  · exact h.same .lines (by decide)
  · exact h.same .trans (by decide)
  · exact h.same .lands (by decide)
  · exact h.same .xacts (by decide)
  · exact h.same .routes (by decide)
  · exact h.same .admits (by decide)
  · exact h.same .groups (by decide)
  · exact h.same .fw (by decide)
  · exact h.same .logs (by decide)
  · exact h.same .pm (by decide)
  · exact h.same .tmap (by decide)
  · exact h.same .act (by decide)
  · exact h.same .out (by decide)

@[simp] theorem State.enqueueWake_members (s : State) (t : Nat) (kind : Nat) (member : Nat) :
    (∀ k, (State.enqueueWake s t kind member).slot k = s.slot k) ∧
    (∀ k, (State.enqueueWake s t kind member).parcel k = s.parcel k) ∧
    (∀ k, (State.enqueueWake s t kind member).memByte k = s.memByte k) ∧
    (∀ k, (State.enqueueWake s t kind member).colBad k = s.colBad k) ∧
    (∀ k, (State.enqueueWake s t kind member).row k = s.row k) ∧
    (∀ k, (State.enqueueWake s t kind member).bspare k = s.bspare k) ∧
    (∀ k, (State.enqueueWake s t kind member).stack k = s.stack k) ∧
    (∀ k, (State.enqueueWake s t kind member).chan k = s.chan k) ∧
    (∀ k, (State.enqueueWake s t kind member).nbu k = s.nbu k) ∧
    (∀ k, (State.enqueueWake s t kind member).cru k = s.cru k) ∧
    (∀ k, (State.enqueueWake s t kind member).mat k = s.mat k) ∧
    (∀ k, (State.enqueueWake s t kind member).vec k = s.vec k) ∧
    (∀ k, (State.enqueueWake s t kind member).vfile k = s.vfile k) ∧
    (∀ k, (State.enqueueWake s t kind member).fchan k = s.fchan k) ∧
    (∀ k, (State.enqueueWake s t kind member).spByte k = s.spByte k) ∧
    (∀ k, (State.enqueueWake s t kind member).spBad k = s.spBad k) ∧
    (∀ k, (State.enqueueWake s t kind member).ctx k = s.ctx k) ∧
    (∀ k, (State.enqueueWake s t kind member).part k = s.part k) ∧
    (∀ k, (State.enqueueWake s t kind member).page k = s.page k) ∧
    (∀ k, (State.enqueueWake s t kind member).stream k = s.stream k) ∧
    (∀ k, (State.enqueueWake s t kind member).hport k = s.hport k) ∧
    (∀ k, (State.enqueueWake s t kind member).dir k = s.dir k) ∧
    (∀ k, (State.enqueueWake s t kind member).tran k = s.tran k) ∧
    (∀ k, (State.enqueueWake s t kind member).landing k = s.landing k) ∧
    (∀ k, (State.enqueueWake s t kind member).route k = s.route k) ∧
    (∀ k, (State.enqueueWake s t kind member).admission k = s.admission k) ∧
    (∀ k, (State.enqueueWake s t kind member).group k = s.group k) ∧
    (∀ k, (State.enqueueWake s t kind member).counter k = s.counter k) := by
  simp [State.slot, State.parcel, State.memByte, State.colBad, State.row, State.bspare, State.stack, State.chan, State.nbu, State.cru, State.mat, State.vec, State.vfile, State.fchan, State.spByte, State.spBad, State.ctx, State.part, State.page, State.stream, State.hport, State.dir, State.tran, State.landing, State.route, State.admission, State.group, State.counter]

@[simp] theorem State.advance_same (s : State) (c : Nat) (t : Option Nat) :
    (State.advance s c t).pending = s.pending ∧
    (State.advance s c t).cyc = s.cyc ∧
    (State.advance s c t).free = s.free ∧
    (State.advance s c t).half = s.half ∧
    (State.advance s c t).regs = s.regs ∧
    (State.advance s c t).boot = s.boot ∧
    (State.advance s c t).power = s.power ∧
    (State.advance s c t).slots = s.slots ∧
    (State.advance s c t).parcels = s.parcels ∧
    (State.advance s c t).mem = s.mem ∧
    (State.advance s c t).pois = s.pois ∧
    (State.advance s c t).rows = s.rows ∧
    (State.advance s c t).bspares = s.bspares ∧
    (State.advance s c t).stks = s.stks ∧
    (State.advance s c t).chans = s.chans ∧
    (State.advance s c t).nbus = s.nbus ∧
    (State.advance s c t).crus = s.crus ∧
    (State.advance s c t).hubs = s.hubs ∧
    (State.advance s c t).me = s.me ∧
    (State.advance s c t).ve = s.ve ∧
    (State.advance s c t).vfiles = s.vfiles ∧
    (State.advance s c t).fe = s.fe ∧
    (State.advance s c t).sp = s.sp ∧
    (State.advance s c t).spPois = s.spPois ∧
    (State.advance s c t).parts = s.parts ∧
    (State.advance s c t).pages = s.pages ∧
    (State.advance s c t).streams = s.streams ∧
    (State.advance s c t).ports = s.ports ∧
    (State.advance s c t).dirs = s.dirs ∧
    (State.advance s c t).lines = s.lines ∧
    (State.advance s c t).trans = s.trans ∧
    (State.advance s c t).lands = s.lands ∧
    (State.advance s c t).xacts = s.xacts ∧
    (State.advance s c t).routes = s.routes ∧
    (State.advance s c t).admits = s.admits ∧
    (State.advance s c t).groups = s.groups ∧
    (State.advance s c t).fw = s.fw ∧
    (State.advance s c t).logs = s.logs ∧
    (State.advance s c t).pm = s.pm ∧
    (State.advance s c t).tmap = s.tmap ∧
    (State.advance s c t).act = s.act ∧
    (State.advance s c t).out = s.out := by
  have h := Keeps.advance s c t
  and_intros
  · exact h.same .pending (by decide)
  · exact h.same .cyc (by decide)
  · exact h.same .free (by decide)
  · exact h.same .half (by decide)
  · exact h.same .regs (by decide)
  · exact h.same .boot (by decide)
  · exact h.same .power (by decide)
  · exact h.same .slots (by decide)
  · exact h.same .parcels (by decide)
  · exact h.same .mem (by decide)
  · exact h.same .pois (by decide)
  · exact h.same .rows (by decide)
  · exact h.same .bspares (by decide)
  · exact h.same .stks (by decide)
  · exact h.same .chans (by decide)
  · exact h.same .nbus (by decide)
  · exact h.same .crus (by decide)
  · exact h.same .hubs (by decide)
  · exact h.same .me (by decide)
  · exact h.same .ve (by decide)
  · exact h.same .vfiles (by decide)
  · exact h.same .fe (by decide)
  · exact h.same .sp (by decide)
  · exact h.same .spPois (by decide)
  · exact h.same .parts (by decide)
  · exact h.same .pages (by decide)
  · exact h.same .streams (by decide)
  · exact h.same .ports (by decide)
  · exact h.same .dirs (by decide)
  · exact h.same .lines (by decide)
  · exact h.same .trans (by decide)
  · exact h.same .lands (by decide)
  · exact h.same .xacts (by decide)
  · exact h.same .routes (by decide)
  · exact h.same .admits (by decide)
  · exact h.same .groups (by decide)
  · exact h.same .fw (by decide)
  · exact h.same .logs (by decide)
  · exact h.same .pm (by decide)
  · exact h.same .tmap (by decide)
  · exact h.same .act (by decide)
  · exact h.same .out (by decide)

@[simp] theorem State.advance_members (s : State) (c : Nat) (t : Option Nat) :
    (∀ k, (State.advance s c t).slot k = s.slot k) ∧
    (∀ k, (State.advance s c t).parcel k = s.parcel k) ∧
    (∀ k, (State.advance s c t).memByte k = s.memByte k) ∧
    (∀ k, (State.advance s c t).colBad k = s.colBad k) ∧
    (∀ k, (State.advance s c t).row k = s.row k) ∧
    (∀ k, (State.advance s c t).bspare k = s.bspare k) ∧
    (∀ k, (State.advance s c t).stack k = s.stack k) ∧
    (∀ k, (State.advance s c t).chan k = s.chan k) ∧
    (∀ k, (State.advance s c t).nbu k = s.nbu k) ∧
    (∀ k, (State.advance s c t).cru k = s.cru k) ∧
    (∀ k, (State.advance s c t).hub k = s.hub k) ∧
    (∀ k, (State.advance s c t).mat k = s.mat k) ∧
    (∀ k, (State.advance s c t).vec k = s.vec k) ∧
    (∀ k, (State.advance s c t).vfile k = s.vfile k) ∧
    (∀ k, (State.advance s c t).fchan k = s.fchan k) ∧
    (∀ k, (State.advance s c t).spByte k = s.spByte k) ∧
    (∀ k, (State.advance s c t).spBad k = s.spBad k) ∧
    (∀ k, (State.advance s c t).part k = s.part k) ∧
    (∀ k, (State.advance s c t).page k = s.page k) ∧
    (∀ k, (State.advance s c t).stream k = s.stream k) ∧
    (∀ k, (State.advance s c t).hport k = s.hport k) ∧
    (∀ k, (State.advance s c t).dir k = s.dir k) ∧
    (∀ k, (State.advance s c t).tran k = s.tran k) ∧
    (∀ k, (State.advance s c t).landing k = s.landing k) ∧
    (∀ k, (State.advance s c t).route k = s.route k) ∧
    (∀ k, (State.advance s c t).admission k = s.admission k) ∧
    (∀ k, (State.advance s c t).group k = s.group k) ∧
    (∀ k, (State.advance s c t).counter k = s.counter k) := by
  simp [State.slot, State.parcel, State.memByte, State.colBad, State.row, State.bspare, State.stack, State.chan, State.nbu, State.cru, State.hub, State.mat, State.vec, State.vfile, State.fchan, State.spByte, State.spBad, State.part, State.page, State.stream, State.hport, State.dir, State.tran, State.landing, State.route, State.admission, State.group, State.counter]

@[simp] theorem State.stepDone_same (s : State) (c : Nat) (step : Nat) (eng : Nat) (op : Nat) (t : Option Nat) :
    (State.stepDone s c step eng op t).pending = s.pending ∧
    (State.stepDone s c step eng op t).cyc = s.cyc ∧
    (State.stepDone s c step eng op t).free = s.free ∧
    (State.stepDone s c step eng op t).half = s.half ∧
    (State.stepDone s c step eng op t).regs = s.regs ∧
    (State.stepDone s c step eng op t).boot = s.boot ∧
    (State.stepDone s c step eng op t).power = s.power ∧
    (State.stepDone s c step eng op t).slots = s.slots ∧
    (State.stepDone s c step eng op t).parcels = s.parcels ∧
    (State.stepDone s c step eng op t).mem = s.mem ∧
    (State.stepDone s c step eng op t).pois = s.pois ∧
    (State.stepDone s c step eng op t).rows = s.rows ∧
    (State.stepDone s c step eng op t).bspares = s.bspares ∧
    (State.stepDone s c step eng op t).stks = s.stks ∧
    (State.stepDone s c step eng op t).chans = s.chans ∧
    (State.stepDone s c step eng op t).nbus = s.nbus ∧
    (State.stepDone s c step eng op t).crus = s.crus ∧
    (State.stepDone s c step eng op t).hubs = s.hubs ∧
    (State.stepDone s c step eng op t).me = s.me ∧
    (State.stepDone s c step eng op t).ve = s.ve ∧
    (State.stepDone s c step eng op t).vfiles = s.vfiles ∧
    (State.stepDone s c step eng op t).fe = s.fe ∧
    (State.stepDone s c step eng op t).sp = s.sp ∧
    (State.stepDone s c step eng op t).spPois = s.spPois ∧
    (State.stepDone s c step eng op t).pages = s.pages ∧
    (State.stepDone s c step eng op t).streams = s.streams ∧
    (State.stepDone s c step eng op t).dirs = s.dirs ∧
    (State.stepDone s c step eng op t).lines = s.lines ∧
    (State.stepDone s c step eng op t).trans = s.trans ∧
    (State.stepDone s c step eng op t).lands = s.lands ∧
    (State.stepDone s c step eng op t).xacts = s.xacts ∧
    (State.stepDone s c step eng op t).routes = s.routes ∧
    (State.stepDone s c step eng op t).admits = s.admits ∧
    (State.stepDone s c step eng op t).groups = s.groups ∧
    (State.stepDone s c step eng op t).fw = s.fw ∧
    (State.stepDone s c step eng op t).logs = s.logs ∧
    (State.stepDone s c step eng op t).pm = s.pm ∧
    (State.stepDone s c step eng op t).tmap = s.tmap := by
  have h := Keeps.stepDone s c step eng op t
  and_intros
  · exact h.same .pending (by decide)
  · exact h.same .cyc (by decide)
  · exact h.same .free (by decide)
  · exact h.same .half (by decide)
  · exact h.same .regs (by decide)
  · exact h.same .boot (by decide)
  · exact h.same .power (by decide)
  · exact h.same .slots (by decide)
  · exact h.same .parcels (by decide)
  · exact h.same .mem (by decide)
  · exact h.same .pois (by decide)
  · exact h.same .rows (by decide)
  · exact h.same .bspares (by decide)
  · exact h.same .stks (by decide)
  · exact h.same .chans (by decide)
  · exact h.same .nbus (by decide)
  · exact h.same .crus (by decide)
  · exact h.same .hubs (by decide)
  · exact h.same .me (by decide)
  · exact h.same .ve (by decide)
  · exact h.same .vfiles (by decide)
  · exact h.same .fe (by decide)
  · exact h.same .sp (by decide)
  · exact h.same .spPois (by decide)
  · exact h.same .pages (by decide)
  · exact h.same .streams (by decide)
  · exact h.same .dirs (by decide)
  · exact h.same .lines (by decide)
  · exact h.same .trans (by decide)
  · exact h.same .lands (by decide)
  · exact h.same .xacts (by decide)
  · exact h.same .routes (by decide)
  · exact h.same .admits (by decide)
  · exact h.same .groups (by decide)
  · exact h.same .fw (by decide)
  · exact h.same .logs (by decide)
  · exact h.same .pm (by decide)
  · exact h.same .tmap (by decide)

@[simp] theorem State.stepDone_members (s : State) (c : Nat) (step : Nat) (eng : Nat) (op : Nat) (t : Option Nat) :
    (∀ k, (State.stepDone s c step eng op t).slot k = s.slot k) ∧
    (∀ k, (State.stepDone s c step eng op t).parcel k = s.parcel k) ∧
    (∀ k, (State.stepDone s c step eng op t).memByte k = s.memByte k) ∧
    (∀ k, (State.stepDone s c step eng op t).colBad k = s.colBad k) ∧
    (∀ k, (State.stepDone s c step eng op t).row k = s.row k) ∧
    (∀ k, (State.stepDone s c step eng op t).bspare k = s.bspare k) ∧
    (∀ k, (State.stepDone s c step eng op t).stack k = s.stack k) ∧
    (∀ k, (State.stepDone s c step eng op t).chan k = s.chan k) ∧
    (∀ k, (State.stepDone s c step eng op t).nbu k = s.nbu k) ∧
    (∀ k, (State.stepDone s c step eng op t).cru k = s.cru k) ∧
    (∀ k, (State.stepDone s c step eng op t).hub k = s.hub k) ∧
    (∀ k, (State.stepDone s c step eng op t).mat k = s.mat k) ∧
    (∀ k, (State.stepDone s c step eng op t).vec k = s.vec k) ∧
    (∀ k, (State.stepDone s c step eng op t).vfile k = s.vfile k) ∧
    (∀ k, (State.stepDone s c step eng op t).fchan k = s.fchan k) ∧
    (∀ k, (State.stepDone s c step eng op t).spByte k = s.spByte k) ∧
    (∀ k, (State.stepDone s c step eng op t).spBad k = s.spBad k) ∧
    (∀ k, (State.stepDone s c step eng op t).page k = s.page k) ∧
    (∀ k, (State.stepDone s c step eng op t).stream k = s.stream k) ∧
    (∀ k, (State.stepDone s c step eng op t).dir k = s.dir k) ∧
    (∀ k, (State.stepDone s c step eng op t).tran k = s.tran k) ∧
    (∀ k, (State.stepDone s c step eng op t).landing k = s.landing k) ∧
    (∀ k, (State.stepDone s c step eng op t).route k = s.route k) ∧
    (∀ k, (State.stepDone s c step eng op t).admission k = s.admission k) ∧
    (∀ k, (State.stepDone s c step eng op t).group k = s.group k) ∧
    (∀ k, (State.stepDone s c step eng op t).counter k = s.counter k) := by
  simp [State.slot, State.parcel, State.memByte, State.colBad, State.row, State.bspare, State.stack, State.chan, State.nbu, State.cru, State.hub, State.mat, State.vec, State.vfile, State.fchan, State.spByte, State.spBad, State.page, State.stream, State.dir, State.tran, State.landing, State.route, State.admission, State.group, State.counter]

@[simp] theorem State.notePoison_same (s : State) (c : Nat) :
    (State.notePoison s c).pending = s.pending ∧
    (State.notePoison s c).cyc = s.cyc ∧
    (State.notePoison s c).free = s.free ∧
    (State.notePoison s c).half = s.half ∧
    (State.notePoison s c).regs = s.regs ∧
    (State.notePoison s c).boot = s.boot ∧
    (State.notePoison s c).power = s.power ∧
    (State.notePoison s c).slots = s.slots ∧
    (State.notePoison s c).parcels = s.parcels ∧
    (State.notePoison s c).mem = s.mem ∧
    (State.notePoison s c).pois = s.pois ∧
    (State.notePoison s c).rows = s.rows ∧
    (State.notePoison s c).bspares = s.bspares ∧
    (State.notePoison s c).stks = s.stks ∧
    (State.notePoison s c).chans = s.chans ∧
    (State.notePoison s c).nbus = s.nbus ∧
    (State.notePoison s c).crus = s.crus ∧
    (State.notePoison s c).hubs = s.hubs ∧
    (State.notePoison s c).me = s.me ∧
    (State.notePoison s c).ve = s.ve ∧
    (State.notePoison s c).vfiles = s.vfiles ∧
    (State.notePoison s c).fe = s.fe ∧
    (State.notePoison s c).sp = s.sp ∧
    (State.notePoison s c).spPois = s.spPois ∧
    (State.notePoison s c).parts = s.parts ∧
    (State.notePoison s c).pages = s.pages ∧
    (State.notePoison s c).streams = s.streams ∧
    (State.notePoison s c).ports = s.ports ∧
    (State.notePoison s c).dirs = s.dirs ∧
    (State.notePoison s c).lines = s.lines ∧
    (State.notePoison s c).trans = s.trans ∧
    (State.notePoison s c).lands = s.lands ∧
    (State.notePoison s c).xacts = s.xacts ∧
    (State.notePoison s c).routes = s.routes ∧
    (State.notePoison s c).admits = s.admits ∧
    (State.notePoison s c).groups = s.groups ∧
    (State.notePoison s c).fw = s.fw ∧
    (State.notePoison s c).logs = s.logs ∧
    (State.notePoison s c).pm = s.pm ∧
    (State.notePoison s c).tmap = s.tmap ∧
    (State.notePoison s c).act = s.act ∧
    (State.notePoison s c).out = s.out := by
  have h := Keeps.notePoison s c
  and_intros
  · exact h.same .pending (by decide)
  · exact h.same .cyc (by decide)
  · exact h.same .free (by decide)
  · exact h.same .half (by decide)
  · exact h.same .regs (by decide)
  · exact h.same .boot (by decide)
  · exact h.same .power (by decide)
  · exact h.same .slots (by decide)
  · exact h.same .parcels (by decide)
  · exact h.same .mem (by decide)
  · exact h.same .pois (by decide)
  · exact h.same .rows (by decide)
  · exact h.same .bspares (by decide)
  · exact h.same .stks (by decide)
  · exact h.same .chans (by decide)
  · exact h.same .nbus (by decide)
  · exact h.same .crus (by decide)
  · exact h.same .hubs (by decide)
  · exact h.same .me (by decide)
  · exact h.same .ve (by decide)
  · exact h.same .vfiles (by decide)
  · exact h.same .fe (by decide)
  · exact h.same .sp (by decide)
  · exact h.same .spPois (by decide)
  · exact h.same .parts (by decide)
  · exact h.same .pages (by decide)
  · exact h.same .streams (by decide)
  · exact h.same .ports (by decide)
  · exact h.same .dirs (by decide)
  · exact h.same .lines (by decide)
  · exact h.same .trans (by decide)
  · exact h.same .lands (by decide)
  · exact h.same .xacts (by decide)
  · exact h.same .routes (by decide)
  · exact h.same .admits (by decide)
  · exact h.same .groups (by decide)
  · exact h.same .fw (by decide)
  · exact h.same .logs (by decide)
  · exact h.same .pm (by decide)
  · exact h.same .tmap (by decide)
  · exact h.same .act (by decide)
  · exact h.same .out (by decide)

@[simp] theorem State.notePoison_members (s : State) (c : Nat) :
    (∀ k, (State.notePoison s c).slot k = s.slot k) ∧
    (∀ k, (State.notePoison s c).parcel k = s.parcel k) ∧
    (∀ k, (State.notePoison s c).memByte k = s.memByte k) ∧
    (∀ k, (State.notePoison s c).colBad k = s.colBad k) ∧
    (∀ k, (State.notePoison s c).row k = s.row k) ∧
    (∀ k, (State.notePoison s c).bspare k = s.bspare k) ∧
    (∀ k, (State.notePoison s c).stack k = s.stack k) ∧
    (∀ k, (State.notePoison s c).chan k = s.chan k) ∧
    (∀ k, (State.notePoison s c).nbu k = s.nbu k) ∧
    (∀ k, (State.notePoison s c).cru k = s.cru k) ∧
    (∀ k, (State.notePoison s c).hub k = s.hub k) ∧
    (∀ k, (State.notePoison s c).mat k = s.mat k) ∧
    (∀ k, (State.notePoison s c).vec k = s.vec k) ∧
    (∀ k, (State.notePoison s c).vfile k = s.vfile k) ∧
    (∀ k, (State.notePoison s c).fchan k = s.fchan k) ∧
    (∀ k, (State.notePoison s c).spByte k = s.spByte k) ∧
    (∀ k, (State.notePoison s c).spBad k = s.spBad k) ∧
    (∀ k, (State.notePoison s c).part k = s.part k) ∧
    (∀ k, (State.notePoison s c).page k = s.page k) ∧
    (∀ k, (State.notePoison s c).stream k = s.stream k) ∧
    (∀ k, (State.notePoison s c).hport k = s.hport k) ∧
    (∀ k, (State.notePoison s c).dir k = s.dir k) ∧
    (∀ k, (State.notePoison s c).tran k = s.tran k) ∧
    (∀ k, (State.notePoison s c).landing k = s.landing k) ∧
    (∀ k, (State.notePoison s c).route k = s.route k) ∧
    (∀ k, (State.notePoison s c).admission k = s.admission k) ∧
    (∀ k, (State.notePoison s c).group k = s.group k) ∧
    (∀ k, (State.notePoison s c).counter k = s.counter k) := by
  simp [State.slot, State.parcel, State.memByte, State.colBad, State.row, State.bspare, State.stack, State.chan, State.nbu, State.cru, State.hub, State.mat, State.vec, State.vfile, State.fchan, State.spByte, State.spBad, State.part, State.page, State.stream, State.hport, State.dir, State.tran, State.landing, State.route, State.admission, State.group, State.counter]

@[simp] theorem State.halt_same (s : State) (c : Nat) (reason : Nat) (fld : Nat) (step : Nat) :
    (State.halt s c reason fld step).pending = s.pending ∧
    (State.halt s c reason fld step).cyc = s.cyc ∧
    (State.halt s c reason fld step).free = s.free ∧
    (State.halt s c reason fld step).half = s.half ∧
    (State.halt s c reason fld step).regs = s.regs ∧
    (State.halt s c reason fld step).boot = s.boot ∧
    (State.halt s c reason fld step).power = s.power ∧
    (State.halt s c reason fld step).slots = s.slots ∧
    (State.halt s c reason fld step).parcels = s.parcels ∧
    (State.halt s c reason fld step).mem = s.mem ∧
    (State.halt s c reason fld step).pois = s.pois ∧
    (State.halt s c reason fld step).rows = s.rows ∧
    (State.halt s c reason fld step).bspares = s.bspares ∧
    (State.halt s c reason fld step).stks = s.stks ∧
    (State.halt s c reason fld step).nbus = s.nbus ∧
    (State.halt s c reason fld step).vfiles = s.vfiles ∧
    (State.halt s c reason fld step).sp = s.sp ∧
    (State.halt s c reason fld step).spPois = s.spPois ∧
    (State.halt s c reason fld step).streams = s.streams ∧
    (State.halt s c reason fld step).dirs = s.dirs ∧
    (State.halt s c reason fld step).lines = s.lines ∧
    (State.halt s c reason fld step).trans = s.trans ∧
    (State.halt s c reason fld step).routes = s.routes ∧
    (State.halt s c reason fld step).admits = s.admits ∧
    (State.halt s c reason fld step).fw = s.fw ∧
    (State.halt s c reason fld step).logs = s.logs ∧
    (State.halt s c reason fld step).tmap = s.tmap := by
  have h := Keeps.halt s c reason fld step
  and_intros
  · exact h.same .pending (by decide)
  · exact h.same .cyc (by decide)
  · exact h.same .free (by decide)
  · exact h.same .half (by decide)
  · exact h.same .regs (by decide)
  · exact h.same .boot (by decide)
  · exact h.same .power (by decide)
  · exact h.same .slots (by decide)
  · exact h.same .parcels (by decide)
  · exact h.same .mem (by decide)
  · exact h.same .pois (by decide)
  · exact h.same .rows (by decide)
  · exact h.same .bspares (by decide)
  · exact h.same .stks (by decide)
  · exact h.same .nbus (by decide)
  · exact h.same .vfiles (by decide)
  · exact h.same .sp (by decide)
  · exact h.same .spPois (by decide)
  · exact h.same .streams (by decide)
  · exact h.same .dirs (by decide)
  · exact h.same .lines (by decide)
  · exact h.same .trans (by decide)
  · exact h.same .routes (by decide)
  · exact h.same .admits (by decide)
  · exact h.same .fw (by decide)
  · exact h.same .logs (by decide)
  · exact h.same .tmap (by decide)

@[simp] theorem State.halt_members (s : State) (c : Nat) (reason : Nat) (fld : Nat) (step : Nat) :
    (∀ k, (State.halt s c reason fld step).slot k = s.slot k) ∧
    (∀ k, (State.halt s c reason fld step).parcel k = s.parcel k) ∧
    (∀ k, (State.halt s c reason fld step).memByte k = s.memByte k) ∧
    (∀ k, (State.halt s c reason fld step).colBad k = s.colBad k) ∧
    (∀ k, (State.halt s c reason fld step).row k = s.row k) ∧
    (∀ k, (State.halt s c reason fld step).bspare k = s.bspare k) ∧
    (∀ k, (State.halt s c reason fld step).stack k = s.stack k) ∧
    (∀ k, (State.halt s c reason fld step).nbu k = s.nbu k) ∧
    (∀ k, (State.halt s c reason fld step).vfile k = s.vfile k) ∧
    (∀ k, (State.halt s c reason fld step).spByte k = s.spByte k) ∧
    (∀ k, (State.halt s c reason fld step).spBad k = s.spBad k) ∧
    (∀ k, (State.halt s c reason fld step).stream k = s.stream k) ∧
    (∀ k, (State.halt s c reason fld step).dir k = s.dir k) ∧
    (∀ k, (State.halt s c reason fld step).tran k = s.tran k) ∧
    (∀ k, (State.halt s c reason fld step).route k = s.route k) ∧
    (∀ k, (State.halt s c reason fld step).admission k = s.admission k) := by
  simp [State.slot, State.parcel, State.memByte, State.colBad, State.row, State.bspare, State.stack, State.nbu, State.vfile, State.spByte, State.spBad, State.stream, State.dir, State.tran, State.route, State.admission]

@[simp] theorem State.ferryFault_same (s : State) (t : Nat) (ch : Nat) (fault : Nat) (fld : Nat) (at_ : Nat × Nat × Nat × Nat) :
    (State.ferryFault s t ch fault fld at_).pending = s.pending ∧
    (State.ferryFault s t ch fault fld at_).cyc = s.cyc ∧
    (State.ferryFault s t ch fault fld at_).free = s.free ∧
    (State.ferryFault s t ch fault fld at_).half = s.half ∧
    (State.ferryFault s t ch fault fld at_).regs = s.regs ∧
    (State.ferryFault s t ch fault fld at_).boot = s.boot ∧
    (State.ferryFault s t ch fault fld at_).power = s.power ∧
    (State.ferryFault s t ch fault fld at_).slots = s.slots ∧
    (State.ferryFault s t ch fault fld at_).parcels = s.parcels ∧
    (State.ferryFault s t ch fault fld at_).mem = s.mem ∧
    (State.ferryFault s t ch fault fld at_).pois = s.pois ∧
    (State.ferryFault s t ch fault fld at_).rows = s.rows ∧
    (State.ferryFault s t ch fault fld at_).bspares = s.bspares ∧
    (State.ferryFault s t ch fault fld at_).stks = s.stks ∧
    (State.ferryFault s t ch fault fld at_).nbus = s.nbus ∧
    (State.ferryFault s t ch fault fld at_).vfiles = s.vfiles ∧
    (State.ferryFault s t ch fault fld at_).sp = s.sp ∧
    (State.ferryFault s t ch fault fld at_).spPois = s.spPois ∧
    (State.ferryFault s t ch fault fld at_).streams = s.streams ∧
    (State.ferryFault s t ch fault fld at_).dirs = s.dirs ∧
    (State.ferryFault s t ch fault fld at_).lines = s.lines ∧
    (State.ferryFault s t ch fault fld at_).trans = s.trans ∧
    (State.ferryFault s t ch fault fld at_).routes = s.routes ∧
    (State.ferryFault s t ch fault fld at_).admits = s.admits ∧
    (State.ferryFault s t ch fault fld at_).fw = s.fw ∧
    (State.ferryFault s t ch fault fld at_).logs = s.logs ∧
    (State.ferryFault s t ch fault fld at_).tmap = s.tmap := by
  have h := Keeps.ferryFault s t ch fault fld at_
  and_intros
  · exact h.same .pending (by decide)
  · exact h.same .cyc (by decide)
  · exact h.same .free (by decide)
  · exact h.same .half (by decide)
  · exact h.same .regs (by decide)
  · exact h.same .boot (by decide)
  · exact h.same .power (by decide)
  · exact h.same .slots (by decide)
  · exact h.same .parcels (by decide)
  · exact h.same .mem (by decide)
  · exact h.same .pois (by decide)
  · exact h.same .rows (by decide)
  · exact h.same .bspares (by decide)
  · exact h.same .stks (by decide)
  · exact h.same .nbus (by decide)
  · exact h.same .vfiles (by decide)
  · exact h.same .sp (by decide)
  · exact h.same .spPois (by decide)
  · exact h.same .streams (by decide)
  · exact h.same .dirs (by decide)
  · exact h.same .lines (by decide)
  · exact h.same .trans (by decide)
  · exact h.same .routes (by decide)
  · exact h.same .admits (by decide)
  · exact h.same .fw (by decide)
  · exact h.same .logs (by decide)
  · exact h.same .tmap (by decide)

@[simp] theorem State.ferryFault_members (s : State) (t : Nat) (ch : Nat) (fault : Nat) (fld : Nat) (at_ : Nat × Nat × Nat × Nat) :
    (∀ k, (State.ferryFault s t ch fault fld at_).slot k = s.slot k) ∧
    (∀ k, (State.ferryFault s t ch fault fld at_).parcel k = s.parcel k) ∧
    (∀ k, (State.ferryFault s t ch fault fld at_).memByte k = s.memByte k) ∧
    (∀ k, (State.ferryFault s t ch fault fld at_).colBad k = s.colBad k) ∧
    (∀ k, (State.ferryFault s t ch fault fld at_).row k = s.row k) ∧
    (∀ k, (State.ferryFault s t ch fault fld at_).bspare k = s.bspare k) ∧
    (∀ k, (State.ferryFault s t ch fault fld at_).stack k = s.stack k) ∧
    (∀ k, (State.ferryFault s t ch fault fld at_).nbu k = s.nbu k) ∧
    (∀ k, (State.ferryFault s t ch fault fld at_).vfile k = s.vfile k) ∧
    (∀ k, (State.ferryFault s t ch fault fld at_).spByte k = s.spByte k) ∧
    (∀ k, (State.ferryFault s t ch fault fld at_).spBad k = s.spBad k) ∧
    (∀ k, (State.ferryFault s t ch fault fld at_).stream k = s.stream k) ∧
    (∀ k, (State.ferryFault s t ch fault fld at_).dir k = s.dir k) ∧
    (∀ k, (State.ferryFault s t ch fault fld at_).tran k = s.tran k) ∧
    (∀ k, (State.ferryFault s t ch fault fld at_).route k = s.route k) ∧
    (∀ k, (State.ferryFault s t ch fault fld at_).admission k = s.admission k) := by
  simp [State.slot, State.parcel, State.memByte, State.colBad, State.row, State.bspare, State.stack, State.nbu, State.vfile, State.spByte, State.spBad, State.stream, State.dir, State.tran, State.route, State.admission]

@[simp] theorem State.badRank_same (s : State) (ch : Nat) (column : Bool) (word : Nat) :
    (State.badRank s ch column word).pending = s.pending ∧
    (State.badRank s ch column word).cyc = s.cyc ∧
    (State.badRank s ch column word).free = s.free ∧
    (State.badRank s ch column word).half = s.half ∧
    (State.badRank s ch column word).regs = s.regs ∧
    (State.badRank s ch column word).boot = s.boot ∧
    (State.badRank s ch column word).power = s.power ∧
    (State.badRank s ch column word).slots = s.slots ∧
    (State.badRank s ch column word).parcels = s.parcels ∧
    (State.badRank s ch column word).mem = s.mem ∧
    (State.badRank s ch column word).pois = s.pois ∧
    (State.badRank s ch column word).rows = s.rows ∧
    (State.badRank s ch column word).bspares = s.bspares ∧
    (State.badRank s ch column word).stks = s.stks ∧
    (State.badRank s ch column word).nbus = s.nbus ∧
    (State.badRank s ch column word).crus = s.crus ∧
    (State.badRank s ch column word).hubs = s.hubs ∧
    (State.badRank s ch column word).me = s.me ∧
    (State.badRank s ch column word).ve = s.ve ∧
    (State.badRank s ch column word).vfiles = s.vfiles ∧
    (State.badRank s ch column word).fe = s.fe ∧
    (State.badRank s ch column word).sp = s.sp ∧
    (State.badRank s ch column word).spPois = s.spPois ∧
    (State.badRank s ch column word).ctxs = s.ctxs ∧
    (State.badRank s ch column word).parts = s.parts ∧
    (State.badRank s ch column word).pages = s.pages ∧
    (State.badRank s ch column word).streams = s.streams ∧
    (State.badRank s ch column word).ports = s.ports ∧
    (State.badRank s ch column word).dirs = s.dirs ∧
    (State.badRank s ch column word).lines = s.lines ∧
    (State.badRank s ch column word).trans = s.trans ∧
    (State.badRank s ch column word).lands = s.lands ∧
    (State.badRank s ch column word).xacts = s.xacts ∧
    (State.badRank s ch column word).routes = s.routes ∧
    (State.badRank s ch column word).admits = s.admits ∧
    (State.badRank s ch column word).groups = s.groups ∧
    (State.badRank s ch column word).fw = s.fw ∧
    (State.badRank s ch column word).logs = s.logs ∧
    (State.badRank s ch column word).pm = s.pm ∧
    (State.badRank s ch column word).tmap = s.tmap ∧
    (State.badRank s ch column word).act = s.act ∧
    (State.badRank s ch column word).out = s.out := by
  have h := Keeps.badRank s ch column word
  and_intros
  · exact h.same .pending (by decide)
  · exact h.same .cyc (by decide)
  · exact h.same .free (by decide)
  · exact h.same .half (by decide)
  · exact h.same .regs (by decide)
  · exact h.same .boot (by decide)
  · exact h.same .power (by decide)
  · exact h.same .slots (by decide)
  · exact h.same .parcels (by decide)
  · exact h.same .mem (by decide)
  · exact h.same .pois (by decide)
  · exact h.same .rows (by decide)
  · exact h.same .bspares (by decide)
  · exact h.same .stks (by decide)
  · exact h.same .nbus (by decide)
  · exact h.same .crus (by decide)
  · exact h.same .hubs (by decide)
  · exact h.same .me (by decide)
  · exact h.same .ve (by decide)
  · exact h.same .vfiles (by decide)
  · exact h.same .fe (by decide)
  · exact h.same .sp (by decide)
  · exact h.same .spPois (by decide)
  · exact h.same .ctxs (by decide)
  · exact h.same .parts (by decide)
  · exact h.same .pages (by decide)
  · exact h.same .streams (by decide)
  · exact h.same .ports (by decide)
  · exact h.same .dirs (by decide)
  · exact h.same .lines (by decide)
  · exact h.same .trans (by decide)
  · exact h.same .lands (by decide)
  · exact h.same .xacts (by decide)
  · exact h.same .routes (by decide)
  · exact h.same .admits (by decide)
  · exact h.same .groups (by decide)
  · exact h.same .fw (by decide)
  · exact h.same .logs (by decide)
  · exact h.same .pm (by decide)
  · exact h.same .tmap (by decide)
  · exact h.same .act (by decide)
  · exact h.same .out (by decide)

@[simp] theorem State.badRank_members (s : State) (ch : Nat) (column : Bool) (word : Nat) :
    (∀ k, (State.badRank s ch column word).slot k = s.slot k) ∧
    (∀ k, (State.badRank s ch column word).parcel k = s.parcel k) ∧
    (∀ k, (State.badRank s ch column word).memByte k = s.memByte k) ∧
    (∀ k, (State.badRank s ch column word).colBad k = s.colBad k) ∧
    (∀ k, (State.badRank s ch column word).row k = s.row k) ∧
    (∀ k, (State.badRank s ch column word).bspare k = s.bspare k) ∧
    (∀ k, (State.badRank s ch column word).stack k = s.stack k) ∧
    (∀ k, (State.badRank s ch column word).nbu k = s.nbu k) ∧
    (∀ k, (State.badRank s ch column word).cru k = s.cru k) ∧
    (∀ k, (State.badRank s ch column word).hub k = s.hub k) ∧
    (∀ k, (State.badRank s ch column word).mat k = s.mat k) ∧
    (∀ k, (State.badRank s ch column word).vec k = s.vec k) ∧
    (∀ k, (State.badRank s ch column word).vfile k = s.vfile k) ∧
    (∀ k, (State.badRank s ch column word).fchan k = s.fchan k) ∧
    (∀ k, (State.badRank s ch column word).spByte k = s.spByte k) ∧
    (∀ k, (State.badRank s ch column word).spBad k = s.spBad k) ∧
    (∀ k, (State.badRank s ch column word).ctx k = s.ctx k) ∧
    (∀ k, (State.badRank s ch column word).part k = s.part k) ∧
    (∀ k, (State.badRank s ch column word).page k = s.page k) ∧
    (∀ k, (State.badRank s ch column word).stream k = s.stream k) ∧
    (∀ k, (State.badRank s ch column word).hport k = s.hport k) ∧
    (∀ k, (State.badRank s ch column word).dir k = s.dir k) ∧
    (∀ k, (State.badRank s ch column word).tran k = s.tran k) ∧
    (∀ k, (State.badRank s ch column word).landing k = s.landing k) ∧
    (∀ k, (State.badRank s ch column word).route k = s.route k) ∧
    (∀ k, (State.badRank s ch column word).admission k = s.admission k) ∧
    (∀ k, (State.badRank s ch column word).group k = s.group k) ∧
    (∀ k, (State.badRank s ch column word).counter k = s.counter k) := by
  simp [State.slot, State.parcel, State.memByte, State.colBad, State.row, State.bspare, State.stack, State.nbu, State.cru, State.hub, State.mat, State.vec, State.vfile, State.fchan, State.spByte, State.spBad, State.ctx, State.part, State.page, State.stream, State.hport, State.dir, State.tran, State.landing, State.route, State.admission, State.group, State.counter]

@[simp] theorem State.wrongMode_same (s : State) (ch : Nat) (js : List Nat) :
    (State.wrongMode s ch js).pending = s.pending ∧
    (State.wrongMode s ch js).cyc = s.cyc ∧
    (State.wrongMode s ch js).free = s.free ∧
    (State.wrongMode s ch js).half = s.half ∧
    (State.wrongMode s ch js).regs = s.regs ∧
    (State.wrongMode s ch js).boot = s.boot ∧
    (State.wrongMode s ch js).power = s.power ∧
    (State.wrongMode s ch js).slots = s.slots ∧
    (State.wrongMode s ch js).parcels = s.parcels ∧
    (State.wrongMode s ch js).mem = s.mem ∧
    (State.wrongMode s ch js).pois = s.pois ∧
    (State.wrongMode s ch js).rows = s.rows ∧
    (State.wrongMode s ch js).bspares = s.bspares ∧
    (State.wrongMode s ch js).stks = s.stks ∧
    (State.wrongMode s ch js).chans = s.chans ∧
    (State.wrongMode s ch js).crus = s.crus ∧
    (State.wrongMode s ch js).hubs = s.hubs ∧
    (State.wrongMode s ch js).me = s.me ∧
    (State.wrongMode s ch js).ve = s.ve ∧
    (State.wrongMode s ch js).vfiles = s.vfiles ∧
    (State.wrongMode s ch js).fe = s.fe ∧
    (State.wrongMode s ch js).sp = s.sp ∧
    (State.wrongMode s ch js).spPois = s.spPois ∧
    (State.wrongMode s ch js).ctxs = s.ctxs ∧
    (State.wrongMode s ch js).parts = s.parts ∧
    (State.wrongMode s ch js).pages = s.pages ∧
    (State.wrongMode s ch js).streams = s.streams ∧
    (State.wrongMode s ch js).ports = s.ports ∧
    (State.wrongMode s ch js).dirs = s.dirs ∧
    (State.wrongMode s ch js).lines = s.lines ∧
    (State.wrongMode s ch js).trans = s.trans ∧
    (State.wrongMode s ch js).lands = s.lands ∧
    (State.wrongMode s ch js).xacts = s.xacts ∧
    (State.wrongMode s ch js).routes = s.routes ∧
    (State.wrongMode s ch js).admits = s.admits ∧
    (State.wrongMode s ch js).groups = s.groups ∧
    (State.wrongMode s ch js).fw = s.fw ∧
    (State.wrongMode s ch js).logs = s.logs ∧
    (State.wrongMode s ch js).pm = s.pm ∧
    (State.wrongMode s ch js).tmap = s.tmap ∧
    (State.wrongMode s ch js).act = s.act ∧
    (State.wrongMode s ch js).out = s.out := by
  have h := Keeps.wrongMode s ch js
  and_intros
  · exact h.same .pending (by decide)
  · exact h.same .cyc (by decide)
  · exact h.same .free (by decide)
  · exact h.same .half (by decide)
  · exact h.same .regs (by decide)
  · exact h.same .boot (by decide)
  · exact h.same .power (by decide)
  · exact h.same .slots (by decide)
  · exact h.same .parcels (by decide)
  · exact h.same .mem (by decide)
  · exact h.same .pois (by decide)
  · exact h.same .rows (by decide)
  · exact h.same .bspares (by decide)
  · exact h.same .stks (by decide)
  · exact h.same .chans (by decide)
  · exact h.same .crus (by decide)
  · exact h.same .hubs (by decide)
  · exact h.same .me (by decide)
  · exact h.same .ve (by decide)
  · exact h.same .vfiles (by decide)
  · exact h.same .fe (by decide)
  · exact h.same .sp (by decide)
  · exact h.same .spPois (by decide)
  · exact h.same .ctxs (by decide)
  · exact h.same .parts (by decide)
  · exact h.same .pages (by decide)
  · exact h.same .streams (by decide)
  · exact h.same .ports (by decide)
  · exact h.same .dirs (by decide)
  · exact h.same .lines (by decide)
  · exact h.same .trans (by decide)
  · exact h.same .lands (by decide)
  · exact h.same .xacts (by decide)
  · exact h.same .routes (by decide)
  · exact h.same .admits (by decide)
  · exact h.same .groups (by decide)
  · exact h.same .fw (by decide)
  · exact h.same .logs (by decide)
  · exact h.same .pm (by decide)
  · exact h.same .tmap (by decide)
  · exact h.same .act (by decide)
  · exact h.same .out (by decide)

@[simp] theorem State.wrongMode_members (s : State) (ch : Nat) (js : List Nat) :
    (∀ k, (State.wrongMode s ch js).slot k = s.slot k) ∧
    (∀ k, (State.wrongMode s ch js).parcel k = s.parcel k) ∧
    (∀ k, (State.wrongMode s ch js).memByte k = s.memByte k) ∧
    (∀ k, (State.wrongMode s ch js).colBad k = s.colBad k) ∧
    (∀ k, (State.wrongMode s ch js).row k = s.row k) ∧
    (∀ k, (State.wrongMode s ch js).bspare k = s.bspare k) ∧
    (∀ k, (State.wrongMode s ch js).stack k = s.stack k) ∧
    (∀ k, (State.wrongMode s ch js).chan k = s.chan k) ∧
    (∀ k, (State.wrongMode s ch js).cru k = s.cru k) ∧
    (∀ k, (State.wrongMode s ch js).hub k = s.hub k) ∧
    (∀ k, (State.wrongMode s ch js).mat k = s.mat k) ∧
    (∀ k, (State.wrongMode s ch js).vec k = s.vec k) ∧
    (∀ k, (State.wrongMode s ch js).vfile k = s.vfile k) ∧
    (∀ k, (State.wrongMode s ch js).fchan k = s.fchan k) ∧
    (∀ k, (State.wrongMode s ch js).spByte k = s.spByte k) ∧
    (∀ k, (State.wrongMode s ch js).spBad k = s.spBad k) ∧
    (∀ k, (State.wrongMode s ch js).ctx k = s.ctx k) ∧
    (∀ k, (State.wrongMode s ch js).part k = s.part k) ∧
    (∀ k, (State.wrongMode s ch js).page k = s.page k) ∧
    (∀ k, (State.wrongMode s ch js).stream k = s.stream k) ∧
    (∀ k, (State.wrongMode s ch js).hport k = s.hport k) ∧
    (∀ k, (State.wrongMode s ch js).dir k = s.dir k) ∧
    (∀ k, (State.wrongMode s ch js).tran k = s.tran k) ∧
    (∀ k, (State.wrongMode s ch js).landing k = s.landing k) ∧
    (∀ k, (State.wrongMode s ch js).route k = s.route k) ∧
    (∀ k, (State.wrongMode s ch js).admission k = s.admission k) ∧
    (∀ k, (State.wrongMode s ch js).group k = s.group k) ∧
    (∀ k, (State.wrongMode s ch js).counter k = s.counter k) := by
  simp [State.slot, State.parcel, State.memByte, State.colBad, State.row, State.bspare, State.stack, State.chan, State.cru, State.hub, State.mat, State.vec, State.vfile, State.fchan, State.spByte, State.spBad, State.ctx, State.part, State.page, State.stream, State.hport, State.dir, State.tran, State.landing, State.route, State.admission, State.group, State.counter]

@[simp] theorem State.tallyRow_same (s : State) (ch : Nat) (j : Nat) (r : Nat) (who : Nat) :
    (State.tallyRow s ch j r who).pending = s.pending ∧
    (State.tallyRow s ch j r who).cyc = s.cyc ∧
    (State.tallyRow s ch j r who).free = s.free ∧
    (State.tallyRow s ch j r who).half = s.half ∧
    (State.tallyRow s ch j r who).regs = s.regs ∧
    (State.tallyRow s ch j r who).boot = s.boot ∧
    (State.tallyRow s ch j r who).power = s.power ∧
    (State.tallyRow s ch j r who).slots = s.slots ∧
    (State.tallyRow s ch j r who).parcels = s.parcels ∧
    (State.tallyRow s ch j r who).mem = s.mem ∧
    (State.tallyRow s ch j r who).pois = s.pois ∧
    (State.tallyRow s ch j r who).bspares = s.bspares ∧
    (State.tallyRow s ch j r who).stks = s.stks ∧
    (State.tallyRow s ch j r who).nbus = s.nbus ∧
    (State.tallyRow s ch j r who).crus = s.crus ∧
    (State.tallyRow s ch j r who).hubs = s.hubs ∧
    (State.tallyRow s ch j r who).me = s.me ∧
    (State.tallyRow s ch j r who).ve = s.ve ∧
    (State.tallyRow s ch j r who).vfiles = s.vfiles ∧
    (State.tallyRow s ch j r who).fe = s.fe ∧
    (State.tallyRow s ch j r who).sp = s.sp ∧
    (State.tallyRow s ch j r who).spPois = s.spPois ∧
    (State.tallyRow s ch j r who).ctxs = s.ctxs ∧
    (State.tallyRow s ch j r who).parts = s.parts ∧
    (State.tallyRow s ch j r who).pages = s.pages ∧
    (State.tallyRow s ch j r who).streams = s.streams ∧
    (State.tallyRow s ch j r who).ports = s.ports ∧
    (State.tallyRow s ch j r who).dirs = s.dirs ∧
    (State.tallyRow s ch j r who).lines = s.lines ∧
    (State.tallyRow s ch j r who).trans = s.trans ∧
    (State.tallyRow s ch j r who).lands = s.lands ∧
    (State.tallyRow s ch j r who).xacts = s.xacts ∧
    (State.tallyRow s ch j r who).routes = s.routes ∧
    (State.tallyRow s ch j r who).admits = s.admits ∧
    (State.tallyRow s ch j r who).groups = s.groups ∧
    (State.tallyRow s ch j r who).fw = s.fw ∧
    (State.tallyRow s ch j r who).logs = s.logs ∧
    (State.tallyRow s ch j r who).pm = s.pm ∧
    (State.tallyRow s ch j r who).tmap = s.tmap ∧
    (State.tallyRow s ch j r who).act = s.act ∧
    (State.tallyRow s ch j r who).out = s.out := by
  have h := Keeps.tallyRow s ch j r who
  and_intros
  · exact h.same .pending (by decide)
  · exact h.same .cyc (by decide)
  · exact h.same .free (by decide)
  · exact h.same .half (by decide)
  · exact h.same .regs (by decide)
  · exact h.same .boot (by decide)
  · exact h.same .power (by decide)
  · exact h.same .slots (by decide)
  · exact h.same .parcels (by decide)
  · exact h.same .mem (by decide)
  · exact h.same .pois (by decide)
  · exact h.same .bspares (by decide)
  · exact h.same .stks (by decide)
  · exact h.same .nbus (by decide)
  · exact h.same .crus (by decide)
  · exact h.same .hubs (by decide)
  · exact h.same .me (by decide)
  · exact h.same .ve (by decide)
  · exact h.same .vfiles (by decide)
  · exact h.same .fe (by decide)
  · exact h.same .sp (by decide)
  · exact h.same .spPois (by decide)
  · exact h.same .ctxs (by decide)
  · exact h.same .parts (by decide)
  · exact h.same .pages (by decide)
  · exact h.same .streams (by decide)
  · exact h.same .ports (by decide)
  · exact h.same .dirs (by decide)
  · exact h.same .lines (by decide)
  · exact h.same .trans (by decide)
  · exact h.same .lands (by decide)
  · exact h.same .xacts (by decide)
  · exact h.same .routes (by decide)
  · exact h.same .admits (by decide)
  · exact h.same .groups (by decide)
  · exact h.same .fw (by decide)
  · exact h.same .logs (by decide)
  · exact h.same .pm (by decide)
  · exact h.same .tmap (by decide)
  · exact h.same .act (by decide)
  · exact h.same .out (by decide)

@[simp] theorem State.tallyRow_members (s : State) (ch : Nat) (j : Nat) (r : Nat) (who : Nat) :
    (∀ k, (State.tallyRow s ch j r who).slot k = s.slot k) ∧
    (∀ k, (State.tallyRow s ch j r who).parcel k = s.parcel k) ∧
    (∀ k, (State.tallyRow s ch j r who).memByte k = s.memByte k) ∧
    (∀ k, (State.tallyRow s ch j r who).colBad k = s.colBad k) ∧
    (∀ k, (State.tallyRow s ch j r who).bspare k = s.bspare k) ∧
    (∀ k, (State.tallyRow s ch j r who).stack k = s.stack k) ∧
    (∀ k, (State.tallyRow s ch j r who).nbu k = s.nbu k) ∧
    (∀ k, (State.tallyRow s ch j r who).cru k = s.cru k) ∧
    (∀ k, (State.tallyRow s ch j r who).hub k = s.hub k) ∧
    (∀ k, (State.tallyRow s ch j r who).mat k = s.mat k) ∧
    (∀ k, (State.tallyRow s ch j r who).vec k = s.vec k) ∧
    (∀ k, (State.tallyRow s ch j r who).vfile k = s.vfile k) ∧
    (∀ k, (State.tallyRow s ch j r who).fchan k = s.fchan k) ∧
    (∀ k, (State.tallyRow s ch j r who).spByte k = s.spByte k) ∧
    (∀ k, (State.tallyRow s ch j r who).spBad k = s.spBad k) ∧
    (∀ k, (State.tallyRow s ch j r who).ctx k = s.ctx k) ∧
    (∀ k, (State.tallyRow s ch j r who).part k = s.part k) ∧
    (∀ k, (State.tallyRow s ch j r who).page k = s.page k) ∧
    (∀ k, (State.tallyRow s ch j r who).stream k = s.stream k) ∧
    (∀ k, (State.tallyRow s ch j r who).hport k = s.hport k) ∧
    (∀ k, (State.tallyRow s ch j r who).dir k = s.dir k) ∧
    (∀ k, (State.tallyRow s ch j r who).tran k = s.tran k) ∧
    (∀ k, (State.tallyRow s ch j r who).landing k = s.landing k) ∧
    (∀ k, (State.tallyRow s ch j r who).route k = s.route k) ∧
    (∀ k, (State.tallyRow s ch j r who).admission k = s.admission k) ∧
    (∀ k, (State.tallyRow s ch j r who).group k = s.group k) ∧
    (∀ k, (State.tallyRow s ch j r who).counter k = s.counter k) := by
  simp [State.slot, State.parcel, State.memByte, State.colBad, State.bspare, State.stack, State.nbu, State.cru, State.hub, State.mat, State.vec, State.vfile, State.fchan, State.spByte, State.spBad, State.ctx, State.part, State.page, State.stream, State.hport, State.dir, State.tran, State.landing, State.route, State.admission, State.group, State.counter]

@[simp] theorem State.refreshBank_same (s : State) (ch : Nat) (j : Nat) :
    (State.refreshBank s ch j).pending = s.pending ∧
    (State.refreshBank s ch j).cyc = s.cyc ∧
    (State.refreshBank s ch j).free = s.free ∧
    (State.refreshBank s ch j).half = s.half ∧
    (State.refreshBank s ch j).regs = s.regs ∧
    (State.refreshBank s ch j).boot = s.boot ∧
    (State.refreshBank s ch j).power = s.power ∧
    (State.refreshBank s ch j).slots = s.slots ∧
    (State.refreshBank s ch j).parcels = s.parcels ∧
    (State.refreshBank s ch j).mem = s.mem ∧
    (State.refreshBank s ch j).pois = s.pois ∧
    (State.refreshBank s ch j).bspares = s.bspares ∧
    (State.refreshBank s ch j).stks = s.stks ∧
    (State.refreshBank s ch j).nbus = s.nbus ∧
    (State.refreshBank s ch j).crus = s.crus ∧
    (State.refreshBank s ch j).hubs = s.hubs ∧
    (State.refreshBank s ch j).me = s.me ∧
    (State.refreshBank s ch j).ve = s.ve ∧
    (State.refreshBank s ch j).vfiles = s.vfiles ∧
    (State.refreshBank s ch j).fe = s.fe ∧
    (State.refreshBank s ch j).sp = s.sp ∧
    (State.refreshBank s ch j).spPois = s.spPois ∧
    (State.refreshBank s ch j).ctxs = s.ctxs ∧
    (State.refreshBank s ch j).parts = s.parts ∧
    (State.refreshBank s ch j).pages = s.pages ∧
    (State.refreshBank s ch j).streams = s.streams ∧
    (State.refreshBank s ch j).ports = s.ports ∧
    (State.refreshBank s ch j).dirs = s.dirs ∧
    (State.refreshBank s ch j).lines = s.lines ∧
    (State.refreshBank s ch j).trans = s.trans ∧
    (State.refreshBank s ch j).lands = s.lands ∧
    (State.refreshBank s ch j).xacts = s.xacts ∧
    (State.refreshBank s ch j).routes = s.routes ∧
    (State.refreshBank s ch j).admits = s.admits ∧
    (State.refreshBank s ch j).groups = s.groups ∧
    (State.refreshBank s ch j).fw = s.fw ∧
    (State.refreshBank s ch j).logs = s.logs ∧
    (State.refreshBank s ch j).pm = s.pm ∧
    (State.refreshBank s ch j).tmap = s.tmap ∧
    (State.refreshBank s ch j).act = s.act ∧
    (State.refreshBank s ch j).out = s.out := by
  have h := Keeps.refreshBank s ch j
  and_intros
  · exact h.same .pending (by decide)
  · exact h.same .cyc (by decide)
  · exact h.same .free (by decide)
  · exact h.same .half (by decide)
  · exact h.same .regs (by decide)
  · exact h.same .boot (by decide)
  · exact h.same .power (by decide)
  · exact h.same .slots (by decide)
  · exact h.same .parcels (by decide)
  · exact h.same .mem (by decide)
  · exact h.same .pois (by decide)
  · exact h.same .bspares (by decide)
  · exact h.same .stks (by decide)
  · exact h.same .nbus (by decide)
  · exact h.same .crus (by decide)
  · exact h.same .hubs (by decide)
  · exact h.same .me (by decide)
  · exact h.same .ve (by decide)
  · exact h.same .vfiles (by decide)
  · exact h.same .fe (by decide)
  · exact h.same .sp (by decide)
  · exact h.same .spPois (by decide)
  · exact h.same .ctxs (by decide)
  · exact h.same .parts (by decide)
  · exact h.same .pages (by decide)
  · exact h.same .streams (by decide)
  · exact h.same .ports (by decide)
  · exact h.same .dirs (by decide)
  · exact h.same .lines (by decide)
  · exact h.same .trans (by decide)
  · exact h.same .lands (by decide)
  · exact h.same .xacts (by decide)
  · exact h.same .routes (by decide)
  · exact h.same .admits (by decide)
  · exact h.same .groups (by decide)
  · exact h.same .fw (by decide)
  · exact h.same .logs (by decide)
  · exact h.same .pm (by decide)
  · exact h.same .tmap (by decide)
  · exact h.same .act (by decide)
  · exact h.same .out (by decide)

@[simp] theorem State.refreshBank_members (s : State) (ch : Nat) (j : Nat) :
    (∀ k, (State.refreshBank s ch j).slot k = s.slot k) ∧
    (∀ k, (State.refreshBank s ch j).parcel k = s.parcel k) ∧
    (∀ k, (State.refreshBank s ch j).memByte k = s.memByte k) ∧
    (∀ k, (State.refreshBank s ch j).colBad k = s.colBad k) ∧
    (∀ k, (State.refreshBank s ch j).bspare k = s.bspare k) ∧
    (∀ k, (State.refreshBank s ch j).stack k = s.stack k) ∧
    (∀ k, (State.refreshBank s ch j).nbu k = s.nbu k) ∧
    (∀ k, (State.refreshBank s ch j).cru k = s.cru k) ∧
    (∀ k, (State.refreshBank s ch j).hub k = s.hub k) ∧
    (∀ k, (State.refreshBank s ch j).mat k = s.mat k) ∧
    (∀ k, (State.refreshBank s ch j).vec k = s.vec k) ∧
    (∀ k, (State.refreshBank s ch j).vfile k = s.vfile k) ∧
    (∀ k, (State.refreshBank s ch j).fchan k = s.fchan k) ∧
    (∀ k, (State.refreshBank s ch j).spByte k = s.spByte k) ∧
    (∀ k, (State.refreshBank s ch j).spBad k = s.spBad k) ∧
    (∀ k, (State.refreshBank s ch j).ctx k = s.ctx k) ∧
    (∀ k, (State.refreshBank s ch j).part k = s.part k) ∧
    (∀ k, (State.refreshBank s ch j).page k = s.page k) ∧
    (∀ k, (State.refreshBank s ch j).stream k = s.stream k) ∧
    (∀ k, (State.refreshBank s ch j).hport k = s.hport k) ∧
    (∀ k, (State.refreshBank s ch j).dir k = s.dir k) ∧
    (∀ k, (State.refreshBank s ch j).tran k = s.tran k) ∧
    (∀ k, (State.refreshBank s ch j).landing k = s.landing k) ∧
    (∀ k, (State.refreshBank s ch j).route k = s.route k) ∧
    (∀ k, (State.refreshBank s ch j).admission k = s.admission k) ∧
    (∀ k, (State.refreshBank s ch j).group k = s.group k) ∧
    (∀ k, (State.refreshBank s ch j).counter k = s.counter k) := by
  simp [State.slot, State.parcel, State.memByte, State.colBad, State.bspare, State.stack, State.nbu, State.cru, State.hub, State.mat, State.vec, State.vfile, State.fchan, State.spByte, State.spBad, State.ctx, State.part, State.page, State.stream, State.hport, State.dir, State.tran, State.landing, State.route, State.admission, State.group, State.counter]

@[simp] theorem State.answer_same (s : State) (a : Answer) :
    (State.answer s a).pending = s.pending ∧
    (State.answer s a).cyc = s.cyc ∧
    (State.answer s a).free = s.free ∧
    (State.answer s a).half = s.half ∧
    (State.answer s a).regs = s.regs ∧
    (State.answer s a).boot = s.boot ∧
    (State.answer s a).power = s.power ∧
    (State.answer s a).slots = s.slots ∧
    (State.answer s a).parcels = s.parcels ∧
    (State.answer s a).mem = s.mem ∧
    (State.answer s a).pois = s.pois ∧
    (State.answer s a).rows = s.rows ∧
    (State.answer s a).bspares = s.bspares ∧
    (State.answer s a).stks = s.stks ∧
    (State.answer s a).chans = s.chans ∧
    (State.answer s a).nbus = s.nbus ∧
    (State.answer s a).crus = s.crus ∧
    (State.answer s a).hubs = s.hubs ∧
    (State.answer s a).me = s.me ∧
    (State.answer s a).ve = s.ve ∧
    (State.answer s a).vfiles = s.vfiles ∧
    (State.answer s a).fe = s.fe ∧
    (State.answer s a).sp = s.sp ∧
    (State.answer s a).spPois = s.spPois ∧
    (State.answer s a).ctxs = s.ctxs ∧
    (State.answer s a).parts = s.parts ∧
    (State.answer s a).pages = s.pages ∧
    (State.answer s a).streams = s.streams ∧
    (State.answer s a).ports = s.ports ∧
    (State.answer s a).dirs = s.dirs ∧
    (State.answer s a).lines = s.lines ∧
    (State.answer s a).trans = s.trans ∧
    (State.answer s a).lands = s.lands ∧
    (State.answer s a).xacts = s.xacts ∧
    (State.answer s a).routes = s.routes ∧
    (State.answer s a).admits = s.admits ∧
    (State.answer s a).groups = s.groups ∧
    (State.answer s a).fw = s.fw ∧
    (State.answer s a).logs = s.logs ∧
    (State.answer s a).pm = s.pm ∧
    (State.answer s a).tmap = s.tmap ∧
    (State.answer s a).act = s.act := by
  have h := Keeps.answer s a
  and_intros
  · exact h.same .pending (by decide)
  · exact h.same .cyc (by decide)
  · exact h.same .free (by decide)
  · exact h.same .half (by decide)
  · exact h.same .regs (by decide)
  · exact h.same .boot (by decide)
  · exact h.same .power (by decide)
  · exact h.same .slots (by decide)
  · exact h.same .parcels (by decide)
  · exact h.same .mem (by decide)
  · exact h.same .pois (by decide)
  · exact h.same .rows (by decide)
  · exact h.same .bspares (by decide)
  · exact h.same .stks (by decide)
  · exact h.same .chans (by decide)
  · exact h.same .nbus (by decide)
  · exact h.same .crus (by decide)
  · exact h.same .hubs (by decide)
  · exact h.same .me (by decide)
  · exact h.same .ve (by decide)
  · exact h.same .vfiles (by decide)
  · exact h.same .fe (by decide)
  · exact h.same .sp (by decide)
  · exact h.same .spPois (by decide)
  · exact h.same .ctxs (by decide)
  · exact h.same .parts (by decide)
  · exact h.same .pages (by decide)
  · exact h.same .streams (by decide)
  · exact h.same .ports (by decide)
  · exact h.same .dirs (by decide)
  · exact h.same .lines (by decide)
  · exact h.same .trans (by decide)
  · exact h.same .lands (by decide)
  · exact h.same .xacts (by decide)
  · exact h.same .routes (by decide)
  · exact h.same .admits (by decide)
  · exact h.same .groups (by decide)
  · exact h.same .fw (by decide)
  · exact h.same .logs (by decide)
  · exact h.same .pm (by decide)
  · exact h.same .tmap (by decide)
  · exact h.same .act (by decide)

@[simp] theorem State.answer_members (s : State) (a : Answer) :
    (∀ k, (State.answer s a).slot k = s.slot k) ∧
    (∀ k, (State.answer s a).parcel k = s.parcel k) ∧
    (∀ k, (State.answer s a).memByte k = s.memByte k) ∧
    (∀ k, (State.answer s a).colBad k = s.colBad k) ∧
    (∀ k, (State.answer s a).row k = s.row k) ∧
    (∀ k, (State.answer s a).bspare k = s.bspare k) ∧
    (∀ k, (State.answer s a).stack k = s.stack k) ∧
    (∀ k, (State.answer s a).chan k = s.chan k) ∧
    (∀ k, (State.answer s a).nbu k = s.nbu k) ∧
    (∀ k, (State.answer s a).cru k = s.cru k) ∧
    (∀ k, (State.answer s a).hub k = s.hub k) ∧
    (∀ k, (State.answer s a).mat k = s.mat k) ∧
    (∀ k, (State.answer s a).vec k = s.vec k) ∧
    (∀ k, (State.answer s a).vfile k = s.vfile k) ∧
    (∀ k, (State.answer s a).fchan k = s.fchan k) ∧
    (∀ k, (State.answer s a).spByte k = s.spByte k) ∧
    (∀ k, (State.answer s a).spBad k = s.spBad k) ∧
    (∀ k, (State.answer s a).ctx k = s.ctx k) ∧
    (∀ k, (State.answer s a).part k = s.part k) ∧
    (∀ k, (State.answer s a).page k = s.page k) ∧
    (∀ k, (State.answer s a).stream k = s.stream k) ∧
    (∀ k, (State.answer s a).hport k = s.hport k) ∧
    (∀ k, (State.answer s a).dir k = s.dir k) ∧
    (∀ k, (State.answer s a).tran k = s.tran k) ∧
    (∀ k, (State.answer s a).landing k = s.landing k) ∧
    (∀ k, (State.answer s a).route k = s.route k) ∧
    (∀ k, (State.answer s a).admission k = s.admission k) ∧
    (∀ k, (State.answer s a).group k = s.group k) ∧
    (∀ k, (State.answer s a).counter k = s.counter k) := by
  simp [State.slot, State.parcel, State.memByte, State.colBad, State.row, State.bspare, State.stack, State.chan, State.nbu, State.cru, State.hub, State.mat, State.vec, State.vfile, State.fchan, State.spByte, State.spBad, State.ctx, State.part, State.page, State.stream, State.hport, State.dir, State.tran, State.landing, State.route, State.admission, State.group, State.counter]

@[simp] theorem State.askDecode_same (s : State) (rk : Nat) (col : Nat) (path : Nat) (part : Option Nat) (addr : Nat) (req : Option Req) :
    (State.askDecode s rk col path part addr req).pending = s.pending ∧
    (State.askDecode s rk col path part addr req).cyc = s.cyc ∧
    (State.askDecode s rk col path part addr req).free = s.free ∧
    (State.askDecode s rk col path part addr req).half = s.half ∧
    (State.askDecode s rk col path part addr req).regs = s.regs ∧
    (State.askDecode s rk col path part addr req).boot = s.boot ∧
    (State.askDecode s rk col path part addr req).power = s.power ∧
    (State.askDecode s rk col path part addr req).slots = s.slots ∧
    (State.askDecode s rk col path part addr req).parcels = s.parcels ∧
    (State.askDecode s rk col path part addr req).mem = s.mem ∧
    (State.askDecode s rk col path part addr req).pois = s.pois ∧
    (State.askDecode s rk col path part addr req).rows = s.rows ∧
    (State.askDecode s rk col path part addr req).bspares = s.bspares ∧
    (State.askDecode s rk col path part addr req).chans = s.chans ∧
    (State.askDecode s rk col path part addr req).nbus = s.nbus ∧
    (State.askDecode s rk col path part addr req).crus = s.crus ∧
    (State.askDecode s rk col path part addr req).hubs = s.hubs ∧
    (State.askDecode s rk col path part addr req).me = s.me ∧
    (State.askDecode s rk col path part addr req).ve = s.ve ∧
    (State.askDecode s rk col path part addr req).vfiles = s.vfiles ∧
    (State.askDecode s rk col path part addr req).fe = s.fe ∧
    (State.askDecode s rk col path part addr req).sp = s.sp ∧
    (State.askDecode s rk col path part addr req).spPois = s.spPois ∧
    (State.askDecode s rk col path part addr req).ctxs = s.ctxs ∧
    (State.askDecode s rk col path part addr req).parts = s.parts ∧
    (State.askDecode s rk col path part addr req).pages = s.pages ∧
    (State.askDecode s rk col path part addr req).streams = s.streams ∧
    (State.askDecode s rk col path part addr req).ports = s.ports ∧
    (State.askDecode s rk col path part addr req).dirs = s.dirs ∧
    (State.askDecode s rk col path part addr req).lines = s.lines ∧
    (State.askDecode s rk col path part addr req).trans = s.trans ∧
    (State.askDecode s rk col path part addr req).lands = s.lands ∧
    (State.askDecode s rk col path part addr req).xacts = s.xacts ∧
    (State.askDecode s rk col path part addr req).routes = s.routes ∧
    (State.askDecode s rk col path part addr req).admits = s.admits ∧
    (State.askDecode s rk col path part addr req).groups = s.groups ∧
    (State.askDecode s rk col path part addr req).fw = s.fw ∧
    (State.askDecode s rk col path part addr req).logs = s.logs ∧
    (State.askDecode s rk col path part addr req).pm = s.pm ∧
    (State.askDecode s rk col path part addr req).tmap = s.tmap ∧
    (State.askDecode s rk col path part addr req).act = s.act ∧
    (State.askDecode s rk col path part addr req).out = s.out := by
  have h := Keeps.askDecode s rk col path part addr req
  and_intros
  · exact h.same .pending (by decide)
  · exact h.same .cyc (by decide)
  · exact h.same .free (by decide)
  · exact h.same .half (by decide)
  · exact h.same .regs (by decide)
  · exact h.same .boot (by decide)
  · exact h.same .power (by decide)
  · exact h.same .slots (by decide)
  · exact h.same .parcels (by decide)
  · exact h.same .mem (by decide)
  · exact h.same .pois (by decide)
  · exact h.same .rows (by decide)
  · exact h.same .bspares (by decide)
  · exact h.same .chans (by decide)
  · exact h.same .nbus (by decide)
  · exact h.same .crus (by decide)
  · exact h.same .hubs (by decide)
  · exact h.same .me (by decide)
  · exact h.same .ve (by decide)
  · exact h.same .vfiles (by decide)
  · exact h.same .fe (by decide)
  · exact h.same .sp (by decide)
  · exact h.same .spPois (by decide)
  · exact h.same .ctxs (by decide)
  · exact h.same .parts (by decide)
  · exact h.same .pages (by decide)
  · exact h.same .streams (by decide)
  · exact h.same .ports (by decide)
  · exact h.same .dirs (by decide)
  · exact h.same .lines (by decide)
  · exact h.same .trans (by decide)
  · exact h.same .lands (by decide)
  · exact h.same .xacts (by decide)
  · exact h.same .routes (by decide)
  · exact h.same .admits (by decide)
  · exact h.same .groups (by decide)
  · exact h.same .fw (by decide)
  · exact h.same .logs (by decide)
  · exact h.same .pm (by decide)
  · exact h.same .tmap (by decide)
  · exact h.same .act (by decide)
  · exact h.same .out (by decide)

@[simp] theorem State.askDecode_members (s : State) (rk : Nat) (col : Nat) (path : Nat) (part : Option Nat) (addr : Nat) (req : Option Req) :
    (∀ k, (State.askDecode s rk col path part addr req).slot k = s.slot k) ∧
    (∀ k, (State.askDecode s rk col path part addr req).parcel k = s.parcel k) ∧
    (∀ k, (State.askDecode s rk col path part addr req).memByte k = s.memByte k) ∧
    (∀ k, (State.askDecode s rk col path part addr req).colBad k = s.colBad k) ∧
    (∀ k, (State.askDecode s rk col path part addr req).row k = s.row k) ∧
    (∀ k, (State.askDecode s rk col path part addr req).bspare k = s.bspare k) ∧
    (∀ k, (State.askDecode s rk col path part addr req).chan k = s.chan k) ∧
    (∀ k, (State.askDecode s rk col path part addr req).nbu k = s.nbu k) ∧
    (∀ k, (State.askDecode s rk col path part addr req).cru k = s.cru k) ∧
    (∀ k, (State.askDecode s rk col path part addr req).hub k = s.hub k) ∧
    (∀ k, (State.askDecode s rk col path part addr req).mat k = s.mat k) ∧
    (∀ k, (State.askDecode s rk col path part addr req).vec k = s.vec k) ∧
    (∀ k, (State.askDecode s rk col path part addr req).vfile k = s.vfile k) ∧
    (∀ k, (State.askDecode s rk col path part addr req).fchan k = s.fchan k) ∧
    (∀ k, (State.askDecode s rk col path part addr req).spByte k = s.spByte k) ∧
    (∀ k, (State.askDecode s rk col path part addr req).spBad k = s.spBad k) ∧
    (∀ k, (State.askDecode s rk col path part addr req).ctx k = s.ctx k) ∧
    (∀ k, (State.askDecode s rk col path part addr req).part k = s.part k) ∧
    (∀ k, (State.askDecode s rk col path part addr req).page k = s.page k) ∧
    (∀ k, (State.askDecode s rk col path part addr req).stream k = s.stream k) ∧
    (∀ k, (State.askDecode s rk col path part addr req).hport k = s.hport k) ∧
    (∀ k, (State.askDecode s rk col path part addr req).dir k = s.dir k) ∧
    (∀ k, (State.askDecode s rk col path part addr req).tran k = s.tran k) ∧
    (∀ k, (State.askDecode s rk col path part addr req).landing k = s.landing k) ∧
    (∀ k, (State.askDecode s rk col path part addr req).route k = s.route k) ∧
    (∀ k, (State.askDecode s rk col path part addr req).admission k = s.admission k) ∧
    (∀ k, (State.askDecode s rk col path part addr req).group k = s.group k) ∧
    (∀ k, (State.askDecode s rk col path part addr req).counter k = s.counter k) := by
  simp [State.slot, State.parcel, State.memByte, State.colBad, State.row, State.bspare, State.chan, State.nbu, State.cru, State.hub, State.mat, State.vec, State.vfile, State.fchan, State.spByte, State.spBad, State.ctx, State.part, State.page, State.stream, State.hport, State.dir, State.tran, State.landing, State.route, State.admission, State.group, State.counter]

@[simp] theorem State.writeDone_same (s : State) (q : Req) (ok : Bool) :
    (State.writeDone s q ok).pending = s.pending ∧
    (State.writeDone s q ok).cyc = s.cyc ∧
    (State.writeDone s q ok).free = s.free ∧
    (State.writeDone s q ok).half = s.half ∧
    (State.writeDone s q ok).regs = s.regs ∧
    (State.writeDone s q ok).boot = s.boot ∧
    (State.writeDone s q ok).power = s.power ∧
    (State.writeDone s q ok).slots = s.slots ∧
    (State.writeDone s q ok).parcels = s.parcels ∧
    (State.writeDone s q ok).mem = s.mem ∧
    (State.writeDone s q ok).pois = s.pois ∧
    (State.writeDone s q ok).rows = s.rows ∧
    (State.writeDone s q ok).bspares = s.bspares ∧
    (State.writeDone s q ok).stks = s.stks ∧
    (State.writeDone s q ok).nbus = s.nbus ∧
    (State.writeDone s q ok).vfiles = s.vfiles ∧
    (State.writeDone s q ok).sp = s.sp ∧
    (State.writeDone s q ok).spPois = s.spPois ∧
    (State.writeDone s q ok).dirs = s.dirs ∧
    (State.writeDone s q ok).lines = s.lines ∧
    (State.writeDone s q ok).trans = s.trans ∧
    (State.writeDone s q ok).routes = s.routes ∧
    (State.writeDone s q ok).admits = s.admits ∧
    (State.writeDone s q ok).fw = s.fw ∧
    (State.writeDone s q ok).tmap = s.tmap := by
  have h := Keeps.writeDone s q ok
  and_intros
  · exact h.same .pending (by decide)
  · exact h.same .cyc (by decide)
  · exact h.same .free (by decide)
  · exact h.same .half (by decide)
  · exact h.same .regs (by decide)
  · exact h.same .boot (by decide)
  · exact h.same .power (by decide)
  · exact h.same .slots (by decide)
  · exact h.same .parcels (by decide)
  · exact h.same .mem (by decide)
  · exact h.same .pois (by decide)
  · exact h.same .rows (by decide)
  · exact h.same .bspares (by decide)
  · exact h.same .stks (by decide)
  · exact h.same .nbus (by decide)
  · exact h.same .vfiles (by decide)
  · exact h.same .sp (by decide)
  · exact h.same .spPois (by decide)
  · exact h.same .dirs (by decide)
  · exact h.same .lines (by decide)
  · exact h.same .trans (by decide)
  · exact h.same .routes (by decide)
  · exact h.same .admits (by decide)
  · exact h.same .fw (by decide)
  · exact h.same .tmap (by decide)

@[simp] theorem State.writeDone_members (s : State) (q : Req) (ok : Bool) :
    (∀ k, (State.writeDone s q ok).slot k = s.slot k) ∧
    (∀ k, (State.writeDone s q ok).parcel k = s.parcel k) ∧
    (∀ k, (State.writeDone s q ok).memByte k = s.memByte k) ∧
    (∀ k, (State.writeDone s q ok).colBad k = s.colBad k) ∧
    (∀ k, (State.writeDone s q ok).row k = s.row k) ∧
    (∀ k, (State.writeDone s q ok).bspare k = s.bspare k) ∧
    (∀ k, (State.writeDone s q ok).stack k = s.stack k) ∧
    (∀ k, (State.writeDone s q ok).nbu k = s.nbu k) ∧
    (∀ k, (State.writeDone s q ok).vfile k = s.vfile k) ∧
    (∀ k, (State.writeDone s q ok).spByte k = s.spByte k) ∧
    (∀ k, (State.writeDone s q ok).spBad k = s.spBad k) ∧
    (∀ k, (State.writeDone s q ok).dir k = s.dir k) ∧
    (∀ k, (State.writeDone s q ok).tran k = s.tran k) ∧
    (∀ k, (State.writeDone s q ok).route k = s.route k) ∧
    (∀ k, (State.writeDone s q ok).admission k = s.admission k) := by
  simp [State.slot, State.parcel, State.memByte, State.colBad, State.row, State.bspare, State.stack, State.nbu, State.vfile, State.spByte, State.spBad, State.dir, State.tran, State.route, State.admission]

@[simp] theorem State.performWrite_same (s : State) (ch : Nat) (q : Req) :
    (State.performWrite s ch q).pending = s.pending ∧
    (State.performWrite s ch q).cyc = s.cyc ∧
    (State.performWrite s ch q).free = s.free ∧
    (State.performWrite s ch q).half = s.half ∧
    (State.performWrite s ch q).regs = s.regs ∧
    (State.performWrite s ch q).boot = s.boot ∧
    (State.performWrite s ch q).power = s.power ∧
    (State.performWrite s ch q).slots = s.slots ∧
    (State.performWrite s ch q).parcels = s.parcels ∧
    (State.performWrite s ch q).nbus = s.nbus ∧
    (State.performWrite s ch q).vfiles = s.vfiles ∧
    (State.performWrite s ch q).sp = s.sp ∧
    (State.performWrite s ch q).spPois = s.spPois ∧
    (State.performWrite s ch q).dirs = s.dirs ∧
    (State.performWrite s ch q).lines = s.lines ∧
    (State.performWrite s ch q).trans = s.trans ∧
    (State.performWrite s ch q).routes = s.routes ∧
    (State.performWrite s ch q).admits = s.admits ∧
    (State.performWrite s ch q).fw = s.fw ∧
    (State.performWrite s ch q).tmap = s.tmap := by
  have h := Keeps.performWrite s ch q
  and_intros
  · exact h.same .pending (by decide)
  · exact h.same .cyc (by decide)
  · exact h.same .free (by decide)
  · exact h.same .half (by decide)
  · exact h.same .regs (by decide)
  · exact h.same .boot (by decide)
  · exact h.same .power (by decide)
  · exact h.same .slots (by decide)
  · exact h.same .parcels (by decide)
  · exact h.same .nbus (by decide)
  · exact h.same .vfiles (by decide)
  · exact h.same .sp (by decide)
  · exact h.same .spPois (by decide)
  · exact h.same .dirs (by decide)
  · exact h.same .lines (by decide)
  · exact h.same .trans (by decide)
  · exact h.same .routes (by decide)
  · exact h.same .admits (by decide)
  · exact h.same .fw (by decide)
  · exact h.same .tmap (by decide)

@[simp] theorem State.performWrite_members (s : State) (ch : Nat) (q : Req) :
    (∀ k, (State.performWrite s ch q).slot k = s.slot k) ∧
    (∀ k, (State.performWrite s ch q).parcel k = s.parcel k) ∧
    (∀ k, (State.performWrite s ch q).nbu k = s.nbu k) ∧
    (∀ k, (State.performWrite s ch q).vfile k = s.vfile k) ∧
    (∀ k, (State.performWrite s ch q).spByte k = s.spByte k) ∧
    (∀ k, (State.performWrite s ch q).spBad k = s.spBad k) ∧
    (∀ k, (State.performWrite s ch q).dir k = s.dir k) ∧
    (∀ k, (State.performWrite s ch q).tran k = s.tran k) ∧
    (∀ k, (State.performWrite s ch q).route k = s.route k) ∧
    (∀ k, (State.performWrite s ch q).admission k = s.admission k) := by
  simp [State.slot, State.parcel, State.nbu, State.vfile, State.spByte, State.spBad, State.dir, State.tran, State.route, State.admission]

@[simp] theorem State.raiseVec_same (s : State) (k : Nat) (vec : Nat) :
    (State.raiseVec s k vec).pending = s.pending ∧
    (State.raiseVec s k vec).cyc = s.cyc ∧
    (State.raiseVec s k vec).free = s.free ∧
    (State.raiseVec s k vec).half = s.half ∧
    (State.raiseVec s k vec).regs = s.regs ∧
    (State.raiseVec s k vec).boot = s.boot ∧
    (State.raiseVec s k vec).power = s.power ∧
    (State.raiseVec s k vec).slots = s.slots ∧
    (State.raiseVec s k vec).parcels = s.parcels ∧
    (State.raiseVec s k vec).mem = s.mem ∧
    (State.raiseVec s k vec).pois = s.pois ∧
    (State.raiseVec s k vec).rows = s.rows ∧
    (State.raiseVec s k vec).bspares = s.bspares ∧
    (State.raiseVec s k vec).stks = s.stks ∧
    (State.raiseVec s k vec).chans = s.chans ∧
    (State.raiseVec s k vec).nbus = s.nbus ∧
    (State.raiseVec s k vec).crus = s.crus ∧
    (State.raiseVec s k vec).hubs = s.hubs ∧
    (State.raiseVec s k vec).me = s.me ∧
    (State.raiseVec s k vec).ve = s.ve ∧
    (State.raiseVec s k vec).vfiles = s.vfiles ∧
    (State.raiseVec s k vec).fe = s.fe ∧
    (State.raiseVec s k vec).sp = s.sp ∧
    (State.raiseVec s k vec).spPois = s.spPois ∧
    (State.raiseVec s k vec).ctxs = s.ctxs ∧
    (State.raiseVec s k vec).parts = s.parts ∧
    (State.raiseVec s k vec).pages = s.pages ∧
    (State.raiseVec s k vec).streams = s.streams ∧
    (State.raiseVec s k vec).ports = s.ports ∧
    (State.raiseVec s k vec).dirs = s.dirs ∧
    (State.raiseVec s k vec).lines = s.lines ∧
    (State.raiseVec s k vec).trans = s.trans ∧
    (State.raiseVec s k vec).lands = s.lands ∧
    (State.raiseVec s k vec).xacts = s.xacts ∧
    (State.raiseVec s k vec).routes = s.routes ∧
    (State.raiseVec s k vec).admits = s.admits ∧
    (State.raiseVec s k vec).groups = s.groups ∧
    (State.raiseVec s k vec).fw = s.fw ∧
    (State.raiseVec s k vec).logs = s.logs ∧
    (State.raiseVec s k vec).pm = s.pm ∧
    (State.raiseVec s k vec).tmap = s.tmap ∧
    (State.raiseVec s k vec).act = s.act := by
  have h := Keeps.raiseVec s k vec
  and_intros
  · exact h.same .pending (by decide)
  · exact h.same .cyc (by decide)
  · exact h.same .free (by decide)
  · exact h.same .half (by decide)
  · exact h.same .regs (by decide)
  · exact h.same .boot (by decide)
  · exact h.same .power (by decide)
  · exact h.same .slots (by decide)
  · exact h.same .parcels (by decide)
  · exact h.same .mem (by decide)
  · exact h.same .pois (by decide)
  · exact h.same .rows (by decide)
  · exact h.same .bspares (by decide)
  · exact h.same .stks (by decide)
  · exact h.same .chans (by decide)
  · exact h.same .nbus (by decide)
  · exact h.same .crus (by decide)
  · exact h.same .hubs (by decide)
  · exact h.same .me (by decide)
  · exact h.same .ve (by decide)
  · exact h.same .vfiles (by decide)
  · exact h.same .fe (by decide)
  · exact h.same .sp (by decide)
  · exact h.same .spPois (by decide)
  · exact h.same .ctxs (by decide)
  · exact h.same .parts (by decide)
  · exact h.same .pages (by decide)
  · exact h.same .streams (by decide)
  · exact h.same .ports (by decide)
  · exact h.same .dirs (by decide)
  · exact h.same .lines (by decide)
  · exact h.same .trans (by decide)
  · exact h.same .lands (by decide)
  · exact h.same .xacts (by decide)
  · exact h.same .routes (by decide)
  · exact h.same .admits (by decide)
  · exact h.same .groups (by decide)
  · exact h.same .fw (by decide)
  · exact h.same .logs (by decide)
  · exact h.same .pm (by decide)
  · exact h.same .tmap (by decide)
  · exact h.same .act (by decide)

@[simp] theorem State.raiseVec_members (s : State) (k : Nat) (vec : Nat) :
    (∀ k, (State.raiseVec s k vec).slot k = s.slot k) ∧
    (∀ k, (State.raiseVec s k vec).parcel k = s.parcel k) ∧
    (∀ k, (State.raiseVec s k vec).memByte k = s.memByte k) ∧
    (∀ k, (State.raiseVec s k vec).colBad k = s.colBad k) ∧
    (∀ k, (State.raiseVec s k vec).row k = s.row k) ∧
    (∀ k, (State.raiseVec s k vec).bspare k = s.bspare k) ∧
    (∀ k, (State.raiseVec s k vec).stack k = s.stack k) ∧
    (∀ k, (State.raiseVec s k vec).chan k = s.chan k) ∧
    (∀ k, (State.raiseVec s k vec).nbu k = s.nbu k) ∧
    (∀ k, (State.raiseVec s k vec).cru k = s.cru k) ∧
    (∀ k, (State.raiseVec s k vec).hub k = s.hub k) ∧
    (∀ k, (State.raiseVec s k vec).mat k = s.mat k) ∧
    (∀ k, (State.raiseVec s k vec).vec k = s.vec k) ∧
    (∀ k, (State.raiseVec s k vec).vfile k = s.vfile k) ∧
    (∀ k, (State.raiseVec s k vec).fchan k = s.fchan k) ∧
    (∀ k, (State.raiseVec s k vec).spByte k = s.spByte k) ∧
    (∀ k, (State.raiseVec s k vec).spBad k = s.spBad k) ∧
    (∀ k, (State.raiseVec s k vec).ctx k = s.ctx k) ∧
    (∀ k, (State.raiseVec s k vec).part k = s.part k) ∧
    (∀ k, (State.raiseVec s k vec).page k = s.page k) ∧
    (∀ k, (State.raiseVec s k vec).stream k = s.stream k) ∧
    (∀ k, (State.raiseVec s k vec).hport k = s.hport k) ∧
    (∀ k, (State.raiseVec s k vec).dir k = s.dir k) ∧
    (∀ k, (State.raiseVec s k vec).tran k = s.tran k) ∧
    (∀ k, (State.raiseVec s k vec).landing k = s.landing k) ∧
    (∀ k, (State.raiseVec s k vec).route k = s.route k) ∧
    (∀ k, (State.raiseVec s k vec).admission k = s.admission k) ∧
    (∀ k, (State.raiseVec s k vec).group k = s.group k) ∧
    (∀ k, (State.raiseVec s k vec).counter k = s.counter k) := by
  simp [State.slot, State.parcel, State.memByte, State.colBad, State.row, State.bspare, State.stack, State.chan, State.nbu, State.cru, State.hub, State.mat, State.vec, State.vfile, State.fchan, State.spByte, State.spBad, State.ctx, State.part, State.page, State.stream, State.hport, State.dir, State.tran, State.landing, State.route, State.admission, State.group, State.counter]

@[simp] theorem State.setPartState_same (s : State) (p : Nat) (st : PartState) :
    (State.setPartState s p st).pending = s.pending ∧
    (State.setPartState s p st).cyc = s.cyc ∧
    (State.setPartState s p st).free = s.free ∧
    (State.setPartState s p st).half = s.half ∧
    (State.setPartState s p st).regs = s.regs ∧
    (State.setPartState s p st).boot = s.boot ∧
    (State.setPartState s p st).power = s.power ∧
    (State.setPartState s p st).slots = s.slots ∧
    (State.setPartState s p st).parcels = s.parcels ∧
    (State.setPartState s p st).mem = s.mem ∧
    (State.setPartState s p st).pois = s.pois ∧
    (State.setPartState s p st).rows = s.rows ∧
    (State.setPartState s p st).bspares = s.bspares ∧
    (State.setPartState s p st).stks = s.stks ∧
    (State.setPartState s p st).chans = s.chans ∧
    (State.setPartState s p st).nbus = s.nbus ∧
    (State.setPartState s p st).crus = s.crus ∧
    (State.setPartState s p st).hubs = s.hubs ∧
    (State.setPartState s p st).me = s.me ∧
    (State.setPartState s p st).ve = s.ve ∧
    (State.setPartState s p st).vfiles = s.vfiles ∧
    (State.setPartState s p st).fe = s.fe ∧
    (State.setPartState s p st).sp = s.sp ∧
    (State.setPartState s p st).spPois = s.spPois ∧
    (State.setPartState s p st).ctxs = s.ctxs ∧
    (State.setPartState s p st).pages = s.pages ∧
    (State.setPartState s p st).streams = s.streams ∧
    (State.setPartState s p st).ports = s.ports ∧
    (State.setPartState s p st).dirs = s.dirs ∧
    (State.setPartState s p st).lines = s.lines ∧
    (State.setPartState s p st).trans = s.trans ∧
    (State.setPartState s p st).lands = s.lands ∧
    (State.setPartState s p st).xacts = s.xacts ∧
    (State.setPartState s p st).routes = s.routes ∧
    (State.setPartState s p st).admits = s.admits ∧
    (State.setPartState s p st).groups = s.groups ∧
    (State.setPartState s p st).fw = s.fw ∧
    (State.setPartState s p st).logs = s.logs ∧
    (State.setPartState s p st).pm = s.pm ∧
    (State.setPartState s p st).tmap = s.tmap ∧
    (State.setPartState s p st).act = s.act := by
  have h := Keeps.setPartState s p st
  and_intros
  · exact h.same .pending (by decide)
  · exact h.same .cyc (by decide)
  · exact h.same .free (by decide)
  · exact h.same .half (by decide)
  · exact h.same .regs (by decide)
  · exact h.same .boot (by decide)
  · exact h.same .power (by decide)
  · exact h.same .slots (by decide)
  · exact h.same .parcels (by decide)
  · exact h.same .mem (by decide)
  · exact h.same .pois (by decide)
  · exact h.same .rows (by decide)
  · exact h.same .bspares (by decide)
  · exact h.same .stks (by decide)
  · exact h.same .chans (by decide)
  · exact h.same .nbus (by decide)
  · exact h.same .crus (by decide)
  · exact h.same .hubs (by decide)
  · exact h.same .me (by decide)
  · exact h.same .ve (by decide)
  · exact h.same .vfiles (by decide)
  · exact h.same .fe (by decide)
  · exact h.same .sp (by decide)
  · exact h.same .spPois (by decide)
  · exact h.same .ctxs (by decide)
  · exact h.same .pages (by decide)
  · exact h.same .streams (by decide)
  · exact h.same .ports (by decide)
  · exact h.same .dirs (by decide)
  · exact h.same .lines (by decide)
  · exact h.same .trans (by decide)
  · exact h.same .lands (by decide)
  · exact h.same .xacts (by decide)
  · exact h.same .routes (by decide)
  · exact h.same .admits (by decide)
  · exact h.same .groups (by decide)
  · exact h.same .fw (by decide)
  · exact h.same .logs (by decide)
  · exact h.same .pm (by decide)
  · exact h.same .tmap (by decide)
  · exact h.same .act (by decide)

@[simp] theorem State.setPartState_members (s : State) (p : Nat) (st : PartState) :
    (∀ k, (State.setPartState s p st).slot k = s.slot k) ∧
    (∀ k, (State.setPartState s p st).parcel k = s.parcel k) ∧
    (∀ k, (State.setPartState s p st).memByte k = s.memByte k) ∧
    (∀ k, (State.setPartState s p st).colBad k = s.colBad k) ∧
    (∀ k, (State.setPartState s p st).row k = s.row k) ∧
    (∀ k, (State.setPartState s p st).bspare k = s.bspare k) ∧
    (∀ k, (State.setPartState s p st).stack k = s.stack k) ∧
    (∀ k, (State.setPartState s p st).chan k = s.chan k) ∧
    (∀ k, (State.setPartState s p st).nbu k = s.nbu k) ∧
    (∀ k, (State.setPartState s p st).cru k = s.cru k) ∧
    (∀ k, (State.setPartState s p st).hub k = s.hub k) ∧
    (∀ k, (State.setPartState s p st).mat k = s.mat k) ∧
    (∀ k, (State.setPartState s p st).vec k = s.vec k) ∧
    (∀ k, (State.setPartState s p st).vfile k = s.vfile k) ∧
    (∀ k, (State.setPartState s p st).fchan k = s.fchan k) ∧
    (∀ k, (State.setPartState s p st).spByte k = s.spByte k) ∧
    (∀ k, (State.setPartState s p st).spBad k = s.spBad k) ∧
    (∀ k, (State.setPartState s p st).ctx k = s.ctx k) ∧
    (∀ k, (State.setPartState s p st).page k = s.page k) ∧
    (∀ k, (State.setPartState s p st).stream k = s.stream k) ∧
    (∀ k, (State.setPartState s p st).hport k = s.hport k) ∧
    (∀ k, (State.setPartState s p st).dir k = s.dir k) ∧
    (∀ k, (State.setPartState s p st).tran k = s.tran k) ∧
    (∀ k, (State.setPartState s p st).landing k = s.landing k) ∧
    (∀ k, (State.setPartState s p st).route k = s.route k) ∧
    (∀ k, (State.setPartState s p st).admission k = s.admission k) ∧
    (∀ k, (State.setPartState s p st).group k = s.group k) ∧
    (∀ k, (State.setPartState s p st).counter k = s.counter k) := by
  simp [State.slot, State.parcel, State.memByte, State.colBad, State.row, State.bspare, State.stack, State.chan, State.nbu, State.cru, State.hub, State.mat, State.vec, State.vfile, State.fchan, State.spByte, State.spBad, State.ctx, State.page, State.stream, State.hport, State.dir, State.tran, State.landing, State.route, State.admission, State.group, State.counter]

@[simp] theorem State.setErr_same (s : State) (k : Nat) (e : Nat) :
    (State.setErr s k e).pending = s.pending ∧
    (State.setErr s k e).cyc = s.cyc ∧
    (State.setErr s k e).free = s.free ∧
    (State.setErr s k e).half = s.half ∧
    (State.setErr s k e).regs = s.regs ∧
    (State.setErr s k e).boot = s.boot ∧
    (State.setErr s k e).power = s.power ∧
    (State.setErr s k e).slots = s.slots ∧
    (State.setErr s k e).parcels = s.parcels ∧
    (State.setErr s k e).mem = s.mem ∧
    (State.setErr s k e).pois = s.pois ∧
    (State.setErr s k e).rows = s.rows ∧
    (State.setErr s k e).bspares = s.bspares ∧
    (State.setErr s k e).stks = s.stks ∧
    (State.setErr s k e).chans = s.chans ∧
    (State.setErr s k e).nbus = s.nbus ∧
    (State.setErr s k e).crus = s.crus ∧
    (State.setErr s k e).hubs = s.hubs ∧
    (State.setErr s k e).me = s.me ∧
    (State.setErr s k e).ve = s.ve ∧
    (State.setErr s k e).vfiles = s.vfiles ∧
    (State.setErr s k e).fe = s.fe ∧
    (State.setErr s k e).sp = s.sp ∧
    (State.setErr s k e).spPois = s.spPois ∧
    (State.setErr s k e).ctxs = s.ctxs ∧
    (State.setErr s k e).parts = s.parts ∧
    (State.setErr s k e).streams = s.streams ∧
    (State.setErr s k e).ports = s.ports ∧
    (State.setErr s k e).dirs = s.dirs ∧
    (State.setErr s k e).lines = s.lines ∧
    (State.setErr s k e).trans = s.trans ∧
    (State.setErr s k e).lands = s.lands ∧
    (State.setErr s k e).xacts = s.xacts ∧
    (State.setErr s k e).routes = s.routes ∧
    (State.setErr s k e).admits = s.admits ∧
    (State.setErr s k e).groups = s.groups ∧
    (State.setErr s k e).fw = s.fw ∧
    (State.setErr s k e).logs = s.logs ∧
    (State.setErr s k e).pm = s.pm ∧
    (State.setErr s k e).tmap = s.tmap ∧
    (State.setErr s k e).act = s.act := by
  have h := Keeps.setErr s k e
  and_intros
  · exact h.same .pending (by decide)
  · exact h.same .cyc (by decide)
  · exact h.same .free (by decide)
  · exact h.same .half (by decide)
  · exact h.same .regs (by decide)
  · exact h.same .boot (by decide)
  · exact h.same .power (by decide)
  · exact h.same .slots (by decide)
  · exact h.same .parcels (by decide)
  · exact h.same .mem (by decide)
  · exact h.same .pois (by decide)
  · exact h.same .rows (by decide)
  · exact h.same .bspares (by decide)
  · exact h.same .stks (by decide)
  · exact h.same .chans (by decide)
  · exact h.same .nbus (by decide)
  · exact h.same .crus (by decide)
  · exact h.same .hubs (by decide)
  · exact h.same .me (by decide)
  · exact h.same .ve (by decide)
  · exact h.same .vfiles (by decide)
  · exact h.same .fe (by decide)
  · exact h.same .sp (by decide)
  · exact h.same .spPois (by decide)
  · exact h.same .ctxs (by decide)
  · exact h.same .parts (by decide)
  · exact h.same .streams (by decide)
  · exact h.same .ports (by decide)
  · exact h.same .dirs (by decide)
  · exact h.same .lines (by decide)
  · exact h.same .trans (by decide)
  · exact h.same .lands (by decide)
  · exact h.same .xacts (by decide)
  · exact h.same .routes (by decide)
  · exact h.same .admits (by decide)
  · exact h.same .groups (by decide)
  · exact h.same .fw (by decide)
  · exact h.same .logs (by decide)
  · exact h.same .pm (by decide)
  · exact h.same .tmap (by decide)
  · exact h.same .act (by decide)

@[simp] theorem State.setErr_members (s : State) (k : Nat) (e : Nat) :
    (∀ k, (State.setErr s k e).slot k = s.slot k) ∧
    (∀ k, (State.setErr s k e).parcel k = s.parcel k) ∧
    (∀ k, (State.setErr s k e).memByte k = s.memByte k) ∧
    (∀ k, (State.setErr s k e).colBad k = s.colBad k) ∧
    (∀ k, (State.setErr s k e).row k = s.row k) ∧
    (∀ k, (State.setErr s k e).bspare k = s.bspare k) ∧
    (∀ k, (State.setErr s k e).stack k = s.stack k) ∧
    (∀ k, (State.setErr s k e).chan k = s.chan k) ∧
    (∀ k, (State.setErr s k e).nbu k = s.nbu k) ∧
    (∀ k, (State.setErr s k e).cru k = s.cru k) ∧
    (∀ k, (State.setErr s k e).hub k = s.hub k) ∧
    (∀ k, (State.setErr s k e).mat k = s.mat k) ∧
    (∀ k, (State.setErr s k e).vec k = s.vec k) ∧
    (∀ k, (State.setErr s k e).vfile k = s.vfile k) ∧
    (∀ k, (State.setErr s k e).fchan k = s.fchan k) ∧
    (∀ k, (State.setErr s k e).spByte k = s.spByte k) ∧
    (∀ k, (State.setErr s k e).spBad k = s.spBad k) ∧
    (∀ k, (State.setErr s k e).ctx k = s.ctx k) ∧
    (∀ k, (State.setErr s k e).part k = s.part k) ∧
    (∀ k, (State.setErr s k e).stream k = s.stream k) ∧
    (∀ k, (State.setErr s k e).hport k = s.hport k) ∧
    (∀ k, (State.setErr s k e).dir k = s.dir k) ∧
    (∀ k, (State.setErr s k e).tran k = s.tran k) ∧
    (∀ k, (State.setErr s k e).landing k = s.landing k) ∧
    (∀ k, (State.setErr s k e).route k = s.route k) ∧
    (∀ k, (State.setErr s k e).admission k = s.admission k) ∧
    (∀ k, (State.setErr s k e).group k = s.group k) ∧
    (∀ k, (State.setErr s k e).counter k = s.counter k) := by
  simp [State.slot, State.parcel, State.memByte, State.colBad, State.row, State.bspare, State.stack, State.chan, State.nbu, State.cru, State.hub, State.mat, State.vec, State.vfile, State.fchan, State.spByte, State.spBad, State.ctx, State.part, State.stream, State.hport, State.dir, State.tran, State.landing, State.route, State.admission, State.group, State.counter]

@[simp] theorem State.spWrite_same (s : State) (t : Nat) (a : Nat) (l : List Byte) (pois : Bool) :
    (State.spWrite s t a l pois).pending = s.pending ∧
    (State.spWrite s t a l pois).cyc = s.cyc ∧
    (State.spWrite s t a l pois).free = s.free ∧
    (State.spWrite s t a l pois).half = s.half ∧
    (State.spWrite s t a l pois).regs = s.regs ∧
    (State.spWrite s t a l pois).boot = s.boot ∧
    (State.spWrite s t a l pois).power = s.power ∧
    (State.spWrite s t a l pois).slots = s.slots ∧
    (State.spWrite s t a l pois).parcels = s.parcels ∧
    (State.spWrite s t a l pois).mem = s.mem ∧
    (State.spWrite s t a l pois).pois = s.pois ∧
    (State.spWrite s t a l pois).rows = s.rows ∧
    (State.spWrite s t a l pois).bspares = s.bspares ∧
    (State.spWrite s t a l pois).stks = s.stks ∧
    (State.spWrite s t a l pois).chans = s.chans ∧
    (State.spWrite s t a l pois).nbus = s.nbus ∧
    (State.spWrite s t a l pois).crus = s.crus ∧
    (State.spWrite s t a l pois).hubs = s.hubs ∧
    (State.spWrite s t a l pois).me = s.me ∧
    (State.spWrite s t a l pois).ve = s.ve ∧
    (State.spWrite s t a l pois).vfiles = s.vfiles ∧
    (State.spWrite s t a l pois).fe = s.fe ∧
    (State.spWrite s t a l pois).ctxs = s.ctxs ∧
    (State.spWrite s t a l pois).parts = s.parts ∧
    (State.spWrite s t a l pois).pages = s.pages ∧
    (State.spWrite s t a l pois).streams = s.streams ∧
    (State.spWrite s t a l pois).ports = s.ports ∧
    (State.spWrite s t a l pois).dirs = s.dirs ∧
    (State.spWrite s t a l pois).lines = s.lines ∧
    (State.spWrite s t a l pois).trans = s.trans ∧
    (State.spWrite s t a l pois).lands = s.lands ∧
    (State.spWrite s t a l pois).xacts = s.xacts ∧
    (State.spWrite s t a l pois).routes = s.routes ∧
    (State.spWrite s t a l pois).admits = s.admits ∧
    (State.spWrite s t a l pois).groups = s.groups ∧
    (State.spWrite s t a l pois).fw = s.fw ∧
    (State.spWrite s t a l pois).logs = s.logs ∧
    (State.spWrite s t a l pois).pm = s.pm ∧
    (State.spWrite s t a l pois).tmap = s.tmap ∧
    (State.spWrite s t a l pois).act = s.act ∧
    (State.spWrite s t a l pois).out = s.out := by
  have h := Keeps.spWrite s t a l pois
  and_intros
  · exact h.same .pending (by decide)
  · exact h.same .cyc (by decide)
  · exact h.same .free (by decide)
  · exact h.same .half (by decide)
  · exact h.same .regs (by decide)
  · exact h.same .boot (by decide)
  · exact h.same .power (by decide)
  · exact h.same .slots (by decide)
  · exact h.same .parcels (by decide)
  · exact h.same .mem (by decide)
  · exact h.same .pois (by decide)
  · exact h.same .rows (by decide)
  · exact h.same .bspares (by decide)
  · exact h.same .stks (by decide)
  · exact h.same .chans (by decide)
  · exact h.same .nbus (by decide)
  · exact h.same .crus (by decide)
  · exact h.same .hubs (by decide)
  · exact h.same .me (by decide)
  · exact h.same .ve (by decide)
  · exact h.same .vfiles (by decide)
  · exact h.same .fe (by decide)
  · exact h.same .ctxs (by decide)
  · exact h.same .parts (by decide)
  · exact h.same .pages (by decide)
  · exact h.same .streams (by decide)
  · exact h.same .ports (by decide)
  · exact h.same .dirs (by decide)
  · exact h.same .lines (by decide)
  · exact h.same .trans (by decide)
  · exact h.same .lands (by decide)
  · exact h.same .xacts (by decide)
  · exact h.same .routes (by decide)
  · exact h.same .admits (by decide)
  · exact h.same .groups (by decide)
  · exact h.same .fw (by decide)
  · exact h.same .logs (by decide)
  · exact h.same .pm (by decide)
  · exact h.same .tmap (by decide)
  · exact h.same .act (by decide)
  · exact h.same .out (by decide)

@[simp] theorem State.spWrite_members (s : State) (t : Nat) (a : Nat) (l : List Byte) (pois : Bool) :
    (∀ k, (State.spWrite s t a l pois).slot k = s.slot k) ∧
    (∀ k, (State.spWrite s t a l pois).parcel k = s.parcel k) ∧
    (∀ k, (State.spWrite s t a l pois).memByte k = s.memByte k) ∧
    (∀ k, (State.spWrite s t a l pois).colBad k = s.colBad k) ∧
    (∀ k, (State.spWrite s t a l pois).row k = s.row k) ∧
    (∀ k, (State.spWrite s t a l pois).bspare k = s.bspare k) ∧
    (∀ k, (State.spWrite s t a l pois).stack k = s.stack k) ∧
    (∀ k, (State.spWrite s t a l pois).chan k = s.chan k) ∧
    (∀ k, (State.spWrite s t a l pois).nbu k = s.nbu k) ∧
    (∀ k, (State.spWrite s t a l pois).cru k = s.cru k) ∧
    (∀ k, (State.spWrite s t a l pois).hub k = s.hub k) ∧
    (∀ k, (State.spWrite s t a l pois).mat k = s.mat k) ∧
    (∀ k, (State.spWrite s t a l pois).vec k = s.vec k) ∧
    (∀ k, (State.spWrite s t a l pois).vfile k = s.vfile k) ∧
    (∀ k, (State.spWrite s t a l pois).fchan k = s.fchan k) ∧
    (∀ k, (State.spWrite s t a l pois).ctx k = s.ctx k) ∧
    (∀ k, (State.spWrite s t a l pois).part k = s.part k) ∧
    (∀ k, (State.spWrite s t a l pois).page k = s.page k) ∧
    (∀ k, (State.spWrite s t a l pois).stream k = s.stream k) ∧
    (∀ k, (State.spWrite s t a l pois).hport k = s.hport k) ∧
    (∀ k, (State.spWrite s t a l pois).dir k = s.dir k) ∧
    (∀ k, (State.spWrite s t a l pois).tran k = s.tran k) ∧
    (∀ k, (State.spWrite s t a l pois).landing k = s.landing k) ∧
    (∀ k, (State.spWrite s t a l pois).route k = s.route k) ∧
    (∀ k, (State.spWrite s t a l pois).admission k = s.admission k) ∧
    (∀ k, (State.spWrite s t a l pois).group k = s.group k) ∧
    (∀ k, (State.spWrite s t a l pois).counter k = s.counter k) := by
  simp [State.slot, State.parcel, State.memByte, State.colBad, State.row, State.bspare, State.stack, State.chan, State.nbu, State.cru, State.hub, State.mat, State.vec, State.vfile, State.fchan, State.ctx, State.part, State.page, State.stream, State.hport, State.dir, State.tran, State.landing, State.route, State.admission, State.group, State.counter]

@[simp] theorem State.issued_same (s : State) (c : Nat) (w : Nat) :
    (State.issued s c w).pending = s.pending ∧
    (State.issued s c w).cyc = s.cyc ∧
    (State.issued s c w).free = s.free ∧
    (State.issued s c w).half = s.half ∧
    (State.issued s c w).regs = s.regs ∧
    (State.issued s c w).boot = s.boot ∧
    (State.issued s c w).power = s.power ∧
    (State.issued s c w).slots = s.slots ∧
    (State.issued s c w).parcels = s.parcels ∧
    (State.issued s c w).mem = s.mem ∧
    (State.issued s c w).pois = s.pois ∧
    (State.issued s c w).rows = s.rows ∧
    (State.issued s c w).bspares = s.bspares ∧
    (State.issued s c w).stks = s.stks ∧
    (State.issued s c w).chans = s.chans ∧
    (State.issued s c w).nbus = s.nbus ∧
    (State.issued s c w).crus = s.crus ∧
    (State.issued s c w).hubs = s.hubs ∧
    (State.issued s c w).me = s.me ∧
    (State.issued s c w).ve = s.ve ∧
    (State.issued s c w).vfiles = s.vfiles ∧
    (State.issued s c w).fe = s.fe ∧
    (State.issued s c w).sp = s.sp ∧
    (State.issued s c w).spPois = s.spPois ∧
    (State.issued s c w).pages = s.pages ∧
    (State.issued s c w).streams = s.streams ∧
    (State.issued s c w).dirs = s.dirs ∧
    (State.issued s c w).lines = s.lines ∧
    (State.issued s c w).trans = s.trans ∧
    (State.issued s c w).lands = s.lands ∧
    (State.issued s c w).xacts = s.xacts ∧
    (State.issued s c w).routes = s.routes ∧
    (State.issued s c w).admits = s.admits ∧
    (State.issued s c w).groups = s.groups ∧
    (State.issued s c w).fw = s.fw ∧
    (State.issued s c w).logs = s.logs ∧
    (State.issued s c w).tmap = s.tmap := by
  have h := Keeps.issued s c w
  and_intros
  · exact h.same .pending (by decide)
  · exact h.same .cyc (by decide)
  · exact h.same .free (by decide)
  · exact h.same .half (by decide)
  · exact h.same .regs (by decide)
  · exact h.same .boot (by decide)
  · exact h.same .power (by decide)
  · exact h.same .slots (by decide)
  · exact h.same .parcels (by decide)
  · exact h.same .mem (by decide)
  · exact h.same .pois (by decide)
  · exact h.same .rows (by decide)
  · exact h.same .bspares (by decide)
  · exact h.same .stks (by decide)
  · exact h.same .chans (by decide)
  · exact h.same .nbus (by decide)
  · exact h.same .crus (by decide)
  · exact h.same .hubs (by decide)
  · exact h.same .me (by decide)
  · exact h.same .ve (by decide)
  · exact h.same .vfiles (by decide)
  · exact h.same .fe (by decide)
  · exact h.same .sp (by decide)
  · exact h.same .spPois (by decide)
  · exact h.same .pages (by decide)
  · exact h.same .streams (by decide)
  · exact h.same .dirs (by decide)
  · exact h.same .lines (by decide)
  · exact h.same .trans (by decide)
  · exact h.same .lands (by decide)
  · exact h.same .xacts (by decide)
  · exact h.same .routes (by decide)
  · exact h.same .admits (by decide)
  · exact h.same .groups (by decide)
  · exact h.same .fw (by decide)
  · exact h.same .logs (by decide)
  · exact h.same .tmap (by decide)

@[simp] theorem State.issued_members (s : State) (c : Nat) (w : Nat) :
    (∀ k, (State.issued s c w).slot k = s.slot k) ∧
    (∀ k, (State.issued s c w).parcel k = s.parcel k) ∧
    (∀ k, (State.issued s c w).memByte k = s.memByte k) ∧
    (∀ k, (State.issued s c w).colBad k = s.colBad k) ∧
    (∀ k, (State.issued s c w).row k = s.row k) ∧
    (∀ k, (State.issued s c w).bspare k = s.bspare k) ∧
    (∀ k, (State.issued s c w).stack k = s.stack k) ∧
    (∀ k, (State.issued s c w).chan k = s.chan k) ∧
    (∀ k, (State.issued s c w).nbu k = s.nbu k) ∧
    (∀ k, (State.issued s c w).cru k = s.cru k) ∧
    (∀ k, (State.issued s c w).hub k = s.hub k) ∧
    (∀ k, (State.issued s c w).mat k = s.mat k) ∧
    (∀ k, (State.issued s c w).vec k = s.vec k) ∧
    (∀ k, (State.issued s c w).vfile k = s.vfile k) ∧
    (∀ k, (State.issued s c w).fchan k = s.fchan k) ∧
    (∀ k, (State.issued s c w).spByte k = s.spByte k) ∧
    (∀ k, (State.issued s c w).spBad k = s.spBad k) ∧
    (∀ k, (State.issued s c w).page k = s.page k) ∧
    (∀ k, (State.issued s c w).stream k = s.stream k) ∧
    (∀ k, (State.issued s c w).dir k = s.dir k) ∧
    (∀ k, (State.issued s c w).tran k = s.tran k) ∧
    (∀ k, (State.issued s c w).landing k = s.landing k) ∧
    (∀ k, (State.issued s c w).route k = s.route k) ∧
    (∀ k, (State.issued s c w).admission k = s.admission k) ∧
    (∀ k, (State.issued s c w).group k = s.group k) := by
  simp [State.slot, State.parcel, State.memByte, State.colBad, State.row, State.bspare, State.stack, State.chan, State.nbu, State.cru, State.hub, State.mat, State.vec, State.vfile, State.fchan, State.spByte, State.spBad, State.page, State.stream, State.dir, State.tran, State.landing, State.route, State.admission, State.group]

@[simp] theorem State.doneNow_same (s : State) (c : Nat) (w : Nat) (step : Nat) :
    (State.doneNow s c w step).pending = s.pending ∧
    (State.doneNow s c w step).cyc = s.cyc ∧
    (State.doneNow s c w step).free = s.free ∧
    (State.doneNow s c w step).half = s.half ∧
    (State.doneNow s c w step).regs = s.regs ∧
    (State.doneNow s c w step).boot = s.boot ∧
    (State.doneNow s c w step).power = s.power ∧
    (State.doneNow s c w step).slots = s.slots ∧
    (State.doneNow s c w step).parcels = s.parcels ∧
    (State.doneNow s c w step).mem = s.mem ∧
    (State.doneNow s c w step).pois = s.pois ∧
    (State.doneNow s c w step).rows = s.rows ∧
    (State.doneNow s c w step).bspares = s.bspares ∧
    (State.doneNow s c w step).stks = s.stks ∧
    (State.doneNow s c w step).chans = s.chans ∧
    (State.doneNow s c w step).nbus = s.nbus ∧
    (State.doneNow s c w step).crus = s.crus ∧
    (State.doneNow s c w step).hubs = s.hubs ∧
    (State.doneNow s c w step).me = s.me ∧
    (State.doneNow s c w step).ve = s.ve ∧
    (State.doneNow s c w step).vfiles = s.vfiles ∧
    (State.doneNow s c w step).fe = s.fe ∧
    (State.doneNow s c w step).sp = s.sp ∧
    (State.doneNow s c w step).spPois = s.spPois ∧
    (State.doneNow s c w step).pages = s.pages ∧
    (State.doneNow s c w step).streams = s.streams ∧
    (State.doneNow s c w step).dirs = s.dirs ∧
    (State.doneNow s c w step).lines = s.lines ∧
    (State.doneNow s c w step).trans = s.trans ∧
    (State.doneNow s c w step).lands = s.lands ∧
    (State.doneNow s c w step).xacts = s.xacts ∧
    (State.doneNow s c w step).routes = s.routes ∧
    (State.doneNow s c w step).admits = s.admits ∧
    (State.doneNow s c w step).groups = s.groups ∧
    (State.doneNow s c w step).fw = s.fw ∧
    (State.doneNow s c w step).logs = s.logs ∧
    (State.doneNow s c w step).pm = s.pm ∧
    (State.doneNow s c w step).tmap = s.tmap := by
  have h := Keeps.doneNow s c w step
  and_intros
  · exact h.same .pending (by decide)
  · exact h.same .cyc (by decide)
  · exact h.same .free (by decide)
  · exact h.same .half (by decide)
  · exact h.same .regs (by decide)
  · exact h.same .boot (by decide)
  · exact h.same .power (by decide)
  · exact h.same .slots (by decide)
  · exact h.same .parcels (by decide)
  · exact h.same .mem (by decide)
  · exact h.same .pois (by decide)
  · exact h.same .rows (by decide)
  · exact h.same .bspares (by decide)
  · exact h.same .stks (by decide)
  · exact h.same .chans (by decide)
  · exact h.same .nbus (by decide)
  · exact h.same .crus (by decide)
  · exact h.same .hubs (by decide)
  · exact h.same .me (by decide)
  · exact h.same .ve (by decide)
  · exact h.same .vfiles (by decide)
  · exact h.same .fe (by decide)
  · exact h.same .sp (by decide)
  · exact h.same .spPois (by decide)
  · exact h.same .pages (by decide)
  · exact h.same .streams (by decide)
  · exact h.same .dirs (by decide)
  · exact h.same .lines (by decide)
  · exact h.same .trans (by decide)
  · exact h.same .lands (by decide)
  · exact h.same .xacts (by decide)
  · exact h.same .routes (by decide)
  · exact h.same .admits (by decide)
  · exact h.same .groups (by decide)
  · exact h.same .fw (by decide)
  · exact h.same .logs (by decide)
  · exact h.same .pm (by decide)
  · exact h.same .tmap (by decide)

@[simp] theorem State.doneNow_members (s : State) (c : Nat) (w : Nat) (step : Nat) :
    (∀ k, (State.doneNow s c w step).slot k = s.slot k) ∧
    (∀ k, (State.doneNow s c w step).parcel k = s.parcel k) ∧
    (∀ k, (State.doneNow s c w step).memByte k = s.memByte k) ∧
    (∀ k, (State.doneNow s c w step).colBad k = s.colBad k) ∧
    (∀ k, (State.doneNow s c w step).row k = s.row k) ∧
    (∀ k, (State.doneNow s c w step).bspare k = s.bspare k) ∧
    (∀ k, (State.doneNow s c w step).stack k = s.stack k) ∧
    (∀ k, (State.doneNow s c w step).chan k = s.chan k) ∧
    (∀ k, (State.doneNow s c w step).nbu k = s.nbu k) ∧
    (∀ k, (State.doneNow s c w step).cru k = s.cru k) ∧
    (∀ k, (State.doneNow s c w step).hub k = s.hub k) ∧
    (∀ k, (State.doneNow s c w step).mat k = s.mat k) ∧
    (∀ k, (State.doneNow s c w step).vec k = s.vec k) ∧
    (∀ k, (State.doneNow s c w step).vfile k = s.vfile k) ∧
    (∀ k, (State.doneNow s c w step).fchan k = s.fchan k) ∧
    (∀ k, (State.doneNow s c w step).spByte k = s.spByte k) ∧
    (∀ k, (State.doneNow s c w step).spBad k = s.spBad k) ∧
    (∀ k, (State.doneNow s c w step).page k = s.page k) ∧
    (∀ k, (State.doneNow s c w step).stream k = s.stream k) ∧
    (∀ k, (State.doneNow s c w step).dir k = s.dir k) ∧
    (∀ k, (State.doneNow s c w step).tran k = s.tran k) ∧
    (∀ k, (State.doneNow s c w step).landing k = s.landing k) ∧
    (∀ k, (State.doneNow s c w step).route k = s.route k) ∧
    (∀ k, (State.doneNow s c w step).admission k = s.admission k) ∧
    (∀ k, (State.doneNow s c w step).group k = s.group k) ∧
    (∀ k, (State.doneNow s c w step).counter k = s.counter k) := by
  simp [State.slot, State.parcel, State.memByte, State.colBad, State.row, State.bspare, State.stack, State.chan, State.nbu, State.cru, State.hub, State.mat, State.vec, State.vfile, State.fchan, State.spByte, State.spBad, State.page, State.stream, State.dir, State.tran, State.landing, State.route, State.admission, State.group, State.counter]

@[simp] theorem State.outstand_same (s : State) (c : Nat) (w : Nat) (i : Nat) :
    (State.outstand s c w i).pending = s.pending ∧
    (State.outstand s c w i).cyc = s.cyc ∧
    (State.outstand s c w i).free = s.free ∧
    (State.outstand s c w i).half = s.half ∧
    (State.outstand s c w i).regs = s.regs ∧
    (State.outstand s c w i).boot = s.boot ∧
    (State.outstand s c w i).power = s.power ∧
    (State.outstand s c w i).slots = s.slots ∧
    (State.outstand s c w i).parcels = s.parcels ∧
    (State.outstand s c w i).mem = s.mem ∧
    (State.outstand s c w i).pois = s.pois ∧
    (State.outstand s c w i).rows = s.rows ∧
    (State.outstand s c w i).bspares = s.bspares ∧
    (State.outstand s c w i).stks = s.stks ∧
    (State.outstand s c w i).chans = s.chans ∧
    (State.outstand s c w i).nbus = s.nbus ∧
    (State.outstand s c w i).crus = s.crus ∧
    (State.outstand s c w i).hubs = s.hubs ∧
    (State.outstand s c w i).me = s.me ∧
    (State.outstand s c w i).ve = s.ve ∧
    (State.outstand s c w i).vfiles = s.vfiles ∧
    (State.outstand s c w i).fe = s.fe ∧
    (State.outstand s c w i).sp = s.sp ∧
    (State.outstand s c w i).spPois = s.spPois ∧
    (State.outstand s c w i).parts = s.parts ∧
    (State.outstand s c w i).pages = s.pages ∧
    (State.outstand s c w i).streams = s.streams ∧
    (State.outstand s c w i).ports = s.ports ∧
    (State.outstand s c w i).dirs = s.dirs ∧
    (State.outstand s c w i).lines = s.lines ∧
    (State.outstand s c w i).trans = s.trans ∧
    (State.outstand s c w i).lands = s.lands ∧
    (State.outstand s c w i).xacts = s.xacts ∧
    (State.outstand s c w i).routes = s.routes ∧
    (State.outstand s c w i).admits = s.admits ∧
    (State.outstand s c w i).groups = s.groups ∧
    (State.outstand s c w i).fw = s.fw ∧
    (State.outstand s c w i).logs = s.logs ∧
    (State.outstand s c w i).pm = s.pm ∧
    (State.outstand s c w i).tmap = s.tmap ∧
    (State.outstand s c w i).act = s.act ∧
    (State.outstand s c w i).out = s.out := by
  have h := Keeps.outstand s c w i
  and_intros
  · exact h.same .pending (by decide)
  · exact h.same .cyc (by decide)
  · exact h.same .free (by decide)
  · exact h.same .half (by decide)
  · exact h.same .regs (by decide)
  · exact h.same .boot (by decide)
  · exact h.same .power (by decide)
  · exact h.same .slots (by decide)
  · exact h.same .parcels (by decide)
  · exact h.same .mem (by decide)
  · exact h.same .pois (by decide)
  · exact h.same .rows (by decide)
  · exact h.same .bspares (by decide)
  · exact h.same .stks (by decide)
  · exact h.same .chans (by decide)
  · exact h.same .nbus (by decide)
  · exact h.same .crus (by decide)
  · exact h.same .hubs (by decide)
  · exact h.same .me (by decide)
  · exact h.same .ve (by decide)
  · exact h.same .vfiles (by decide)
  · exact h.same .fe (by decide)
  · exact h.same .sp (by decide)
  · exact h.same .spPois (by decide)
  · exact h.same .parts (by decide)
  · exact h.same .pages (by decide)
  · exact h.same .streams (by decide)
  · exact h.same .ports (by decide)
  · exact h.same .dirs (by decide)
  · exact h.same .lines (by decide)
  · exact h.same .trans (by decide)
  · exact h.same .lands (by decide)
  · exact h.same .xacts (by decide)
  · exact h.same .routes (by decide)
  · exact h.same .admits (by decide)
  · exact h.same .groups (by decide)
  · exact h.same .fw (by decide)
  · exact h.same .logs (by decide)
  · exact h.same .pm (by decide)
  · exact h.same .tmap (by decide)
  · exact h.same .act (by decide)
  · exact h.same .out (by decide)

@[simp] theorem State.outstand_members (s : State) (c : Nat) (w : Nat) (i : Nat) :
    (∀ k, (State.outstand s c w i).slot k = s.slot k) ∧
    (∀ k, (State.outstand s c w i).parcel k = s.parcel k) ∧
    (∀ k, (State.outstand s c w i).memByte k = s.memByte k) ∧
    (∀ k, (State.outstand s c w i).colBad k = s.colBad k) ∧
    (∀ k, (State.outstand s c w i).row k = s.row k) ∧
    (∀ k, (State.outstand s c w i).bspare k = s.bspare k) ∧
    (∀ k, (State.outstand s c w i).stack k = s.stack k) ∧
    (∀ k, (State.outstand s c w i).chan k = s.chan k) ∧
    (∀ k, (State.outstand s c w i).nbu k = s.nbu k) ∧
    (∀ k, (State.outstand s c w i).cru k = s.cru k) ∧
    (∀ k, (State.outstand s c w i).hub k = s.hub k) ∧
    (∀ k, (State.outstand s c w i).mat k = s.mat k) ∧
    (∀ k, (State.outstand s c w i).vec k = s.vec k) ∧
    (∀ k, (State.outstand s c w i).vfile k = s.vfile k) ∧
    (∀ k, (State.outstand s c w i).fchan k = s.fchan k) ∧
    (∀ k, (State.outstand s c w i).spByte k = s.spByte k) ∧
    (∀ k, (State.outstand s c w i).spBad k = s.spBad k) ∧
    (∀ k, (State.outstand s c w i).part k = s.part k) ∧
    (∀ k, (State.outstand s c w i).page k = s.page k) ∧
    (∀ k, (State.outstand s c w i).stream k = s.stream k) ∧
    (∀ k, (State.outstand s c w i).hport k = s.hport k) ∧
    (∀ k, (State.outstand s c w i).dir k = s.dir k) ∧
    (∀ k, (State.outstand s c w i).tran k = s.tran k) ∧
    (∀ k, (State.outstand s c w i).landing k = s.landing k) ∧
    (∀ k, (State.outstand s c w i).route k = s.route k) ∧
    (∀ k, (State.outstand s c w i).admission k = s.admission k) ∧
    (∀ k, (State.outstand s c w i).group k = s.group k) ∧
    (∀ k, (State.outstand s c w i).counter k = s.counter k) := by
  simp [State.slot, State.parcel, State.memByte, State.colBad, State.row, State.bspare, State.stack, State.chan, State.nbu, State.cru, State.hub, State.mat, State.vec, State.vfile, State.fchan, State.spByte, State.spBad, State.part, State.page, State.stream, State.hport, State.dir, State.tran, State.landing, State.route, State.admission, State.group, State.counter]

@[simp] theorem State.startDesc_same (s : State) (k : Nat) (d : Desc) :
    (State.startDesc s k d).pending = s.pending ∧
    (State.startDesc s k d).cyc = s.cyc ∧
    (State.startDesc s k d).free = s.free ∧
    (State.startDesc s k d).half = s.half ∧
    (State.startDesc s k d).regs = s.regs ∧
    (State.startDesc s k d).boot = s.boot ∧
    (State.startDesc s k d).power = s.power ∧
    (State.startDesc s k d).slots = s.slots ∧
    (State.startDesc s k d).parcels = s.parcels ∧
    (State.startDesc s k d).mem = s.mem ∧
    (State.startDesc s k d).pois = s.pois ∧
    (State.startDesc s k d).rows = s.rows ∧
    (State.startDesc s k d).bspares = s.bspares ∧
    (State.startDesc s k d).stks = s.stks ∧
    (State.startDesc s k d).chans = s.chans ∧
    (State.startDesc s k d).nbus = s.nbus ∧
    (State.startDesc s k d).crus = s.crus ∧
    (State.startDesc s k d).hubs = s.hubs ∧
    (State.startDesc s k d).me = s.me ∧
    (State.startDesc s k d).ve = s.ve ∧
    (State.startDesc s k d).vfiles = s.vfiles ∧
    (State.startDesc s k d).fe = s.fe ∧
    (State.startDesc s k d).sp = s.sp ∧
    (State.startDesc s k d).spPois = s.spPois ∧
    (State.startDesc s k d).ctxs = s.ctxs ∧
    (State.startDesc s k d).streams = s.streams ∧
    (State.startDesc s k d).dirs = s.dirs ∧
    (State.startDesc s k d).lines = s.lines ∧
    (State.startDesc s k d).trans = s.trans ∧
    (State.startDesc s k d).lands = s.lands ∧
    (State.startDesc s k d).xacts = s.xacts ∧
    (State.startDesc s k d).routes = s.routes ∧
    (State.startDesc s k d).admits = s.admits ∧
    (State.startDesc s k d).groups = s.groups ∧
    (State.startDesc s k d).fw = s.fw ∧
    (State.startDesc s k d).logs = s.logs ∧
    (State.startDesc s k d).tmap = s.tmap := by
  have h := Keeps.startDesc s k d
  and_intros
  · exact h.same .pending (by decide)
  · exact h.same .cyc (by decide)
  · exact h.same .free (by decide)
  · exact h.same .half (by decide)
  · exact h.same .regs (by decide)
  · exact h.same .boot (by decide)
  · exact h.same .power (by decide)
  · exact h.same .slots (by decide)
  · exact h.same .parcels (by decide)
  · exact h.same .mem (by decide)
  · exact h.same .pois (by decide)
  · exact h.same .rows (by decide)
  · exact h.same .bspares (by decide)
  · exact h.same .stks (by decide)
  · exact h.same .chans (by decide)
  · exact h.same .nbus (by decide)
  · exact h.same .crus (by decide)
  · exact h.same .hubs (by decide)
  · exact h.same .me (by decide)
  · exact h.same .ve (by decide)
  · exact h.same .vfiles (by decide)
  · exact h.same .fe (by decide)
  · exact h.same .sp (by decide)
  · exact h.same .spPois (by decide)
  · exact h.same .ctxs (by decide)
  · exact h.same .streams (by decide)
  · exact h.same .dirs (by decide)
  · exact h.same .lines (by decide)
  · exact h.same .trans (by decide)
  · exact h.same .lands (by decide)
  · exact h.same .xacts (by decide)
  · exact h.same .routes (by decide)
  · exact h.same .admits (by decide)
  · exact h.same .groups (by decide)
  · exact h.same .fw (by decide)
  · exact h.same .logs (by decide)
  · exact h.same .tmap (by decide)

@[simp] theorem State.startDesc_members (s : State) (k : Nat) (d : Desc) :
    (∀ k, (State.startDesc s k d).slot k = s.slot k) ∧
    (∀ k, (State.startDesc s k d).parcel k = s.parcel k) ∧
    (∀ k, (State.startDesc s k d).memByte k = s.memByte k) ∧
    (∀ k, (State.startDesc s k d).colBad k = s.colBad k) ∧
    (∀ k, (State.startDesc s k d).row k = s.row k) ∧
    (∀ k, (State.startDesc s k d).bspare k = s.bspare k) ∧
    (∀ k, (State.startDesc s k d).stack k = s.stack k) ∧
    (∀ k, (State.startDesc s k d).chan k = s.chan k) ∧
    (∀ k, (State.startDesc s k d).nbu k = s.nbu k) ∧
    (∀ k, (State.startDesc s k d).cru k = s.cru k) ∧
    (∀ k, (State.startDesc s k d).hub k = s.hub k) ∧
    (∀ k, (State.startDesc s k d).mat k = s.mat k) ∧
    (∀ k, (State.startDesc s k d).vec k = s.vec k) ∧
    (∀ k, (State.startDesc s k d).vfile k = s.vfile k) ∧
    (∀ k, (State.startDesc s k d).fchan k = s.fchan k) ∧
    (∀ k, (State.startDesc s k d).spByte k = s.spByte k) ∧
    (∀ k, (State.startDesc s k d).spBad k = s.spBad k) ∧
    (∀ k, (State.startDesc s k d).ctx k = s.ctx k) ∧
    (∀ k, (State.startDesc s k d).stream k = s.stream k) ∧
    (∀ k, (State.startDesc s k d).dir k = s.dir k) ∧
    (∀ k, (State.startDesc s k d).tran k = s.tran k) ∧
    (∀ k, (State.startDesc s k d).landing k = s.landing k) ∧
    (∀ k, (State.startDesc s k d).route k = s.route k) ∧
    (∀ k, (State.startDesc s k d).admission k = s.admission k) ∧
    (∀ k, (State.startDesc s k d).group k = s.group k) := by
  simp [State.slot, State.parcel, State.memByte, State.colBad, State.row, State.bspare, State.stack, State.chan, State.nbu, State.cru, State.hub, State.mat, State.vec, State.vfile, State.fchan, State.spByte, State.spBad, State.ctx, State.stream, State.dir, State.tran, State.landing, State.route, State.admission, State.group]

@[simp] theorem State.clearVfile_same (s : State) (c : Nat) :
    (State.clearVfile s c).pending = s.pending ∧
    (State.clearVfile s c).cyc = s.cyc ∧
    (State.clearVfile s c).free = s.free ∧
    (State.clearVfile s c).half = s.half ∧
    (State.clearVfile s c).regs = s.regs ∧
    (State.clearVfile s c).boot = s.boot ∧
    (State.clearVfile s c).power = s.power ∧
    (State.clearVfile s c).slots = s.slots ∧
    (State.clearVfile s c).parcels = s.parcels ∧
    (State.clearVfile s c).mem = s.mem ∧
    (State.clearVfile s c).pois = s.pois ∧
    (State.clearVfile s c).rows = s.rows ∧
    (State.clearVfile s c).bspares = s.bspares ∧
    (State.clearVfile s c).stks = s.stks ∧
    (State.clearVfile s c).chans = s.chans ∧
    (State.clearVfile s c).nbus = s.nbus ∧
    (State.clearVfile s c).crus = s.crus ∧
    (State.clearVfile s c).hubs = s.hubs ∧
    (State.clearVfile s c).me = s.me ∧
    (State.clearVfile s c).ve = s.ve ∧
    (State.clearVfile s c).fe = s.fe ∧
    (State.clearVfile s c).sp = s.sp ∧
    (State.clearVfile s c).spPois = s.spPois ∧
    (State.clearVfile s c).ctxs = s.ctxs ∧
    (State.clearVfile s c).parts = s.parts ∧
    (State.clearVfile s c).pages = s.pages ∧
    (State.clearVfile s c).streams = s.streams ∧
    (State.clearVfile s c).ports = s.ports ∧
    (State.clearVfile s c).dirs = s.dirs ∧
    (State.clearVfile s c).lines = s.lines ∧
    (State.clearVfile s c).trans = s.trans ∧
    (State.clearVfile s c).lands = s.lands ∧
    (State.clearVfile s c).xacts = s.xacts ∧
    (State.clearVfile s c).routes = s.routes ∧
    (State.clearVfile s c).admits = s.admits ∧
    (State.clearVfile s c).groups = s.groups ∧
    (State.clearVfile s c).fw = s.fw ∧
    (State.clearVfile s c).logs = s.logs ∧
    (State.clearVfile s c).pm = s.pm ∧
    (State.clearVfile s c).tmap = s.tmap ∧
    (State.clearVfile s c).act = s.act ∧
    (State.clearVfile s c).out = s.out := by
  have h := Keeps.clearVfile s c
  and_intros
  · exact h.same .pending (by decide)
  · exact h.same .cyc (by decide)
  · exact h.same .free (by decide)
  · exact h.same .half (by decide)
  · exact h.same .regs (by decide)
  · exact h.same .boot (by decide)
  · exact h.same .power (by decide)
  · exact h.same .slots (by decide)
  · exact h.same .parcels (by decide)
  · exact h.same .mem (by decide)
  · exact h.same .pois (by decide)
  · exact h.same .rows (by decide)
  · exact h.same .bspares (by decide)
  · exact h.same .stks (by decide)
  · exact h.same .chans (by decide)
  · exact h.same .nbus (by decide)
  · exact h.same .crus (by decide)
  · exact h.same .hubs (by decide)
  · exact h.same .me (by decide)
  · exact h.same .ve (by decide)
  · exact h.same .fe (by decide)
  · exact h.same .sp (by decide)
  · exact h.same .spPois (by decide)
  · exact h.same .ctxs (by decide)
  · exact h.same .parts (by decide)
  · exact h.same .pages (by decide)
  · exact h.same .streams (by decide)
  · exact h.same .ports (by decide)
  · exact h.same .dirs (by decide)
  · exact h.same .lines (by decide)
  · exact h.same .trans (by decide)
  · exact h.same .lands (by decide)
  · exact h.same .xacts (by decide)
  · exact h.same .routes (by decide)
  · exact h.same .admits (by decide)
  · exact h.same .groups (by decide)
  · exact h.same .fw (by decide)
  · exact h.same .logs (by decide)
  · exact h.same .pm (by decide)
  · exact h.same .tmap (by decide)
  · exact h.same .act (by decide)
  · exact h.same .out (by decide)

@[simp] theorem State.clearVfile_members (s : State) (c : Nat) :
    (∀ k, (State.clearVfile s c).slot k = s.slot k) ∧
    (∀ k, (State.clearVfile s c).parcel k = s.parcel k) ∧
    (∀ k, (State.clearVfile s c).memByte k = s.memByte k) ∧
    (∀ k, (State.clearVfile s c).colBad k = s.colBad k) ∧
    (∀ k, (State.clearVfile s c).row k = s.row k) ∧
    (∀ k, (State.clearVfile s c).bspare k = s.bspare k) ∧
    (∀ k, (State.clearVfile s c).stack k = s.stack k) ∧
    (∀ k, (State.clearVfile s c).chan k = s.chan k) ∧
    (∀ k, (State.clearVfile s c).nbu k = s.nbu k) ∧
    (∀ k, (State.clearVfile s c).cru k = s.cru k) ∧
    (∀ k, (State.clearVfile s c).hub k = s.hub k) ∧
    (∀ k, (State.clearVfile s c).mat k = s.mat k) ∧
    (∀ k, (State.clearVfile s c).vec k = s.vec k) ∧
    (∀ k, (State.clearVfile s c).fchan k = s.fchan k) ∧
    (∀ k, (State.clearVfile s c).spByte k = s.spByte k) ∧
    (∀ k, (State.clearVfile s c).spBad k = s.spBad k) ∧
    (∀ k, (State.clearVfile s c).ctx k = s.ctx k) ∧
    (∀ k, (State.clearVfile s c).part k = s.part k) ∧
    (∀ k, (State.clearVfile s c).page k = s.page k) ∧
    (∀ k, (State.clearVfile s c).stream k = s.stream k) ∧
    (∀ k, (State.clearVfile s c).hport k = s.hport k) ∧
    (∀ k, (State.clearVfile s c).dir k = s.dir k) ∧
    (∀ k, (State.clearVfile s c).tran k = s.tran k) ∧
    (∀ k, (State.clearVfile s c).landing k = s.landing k) ∧
    (∀ k, (State.clearVfile s c).route k = s.route k) ∧
    (∀ k, (State.clearVfile s c).admission k = s.admission k) ∧
    (∀ k, (State.clearVfile s c).group k = s.group k) ∧
    (∀ k, (State.clearVfile s c).counter k = s.counter k) := by
  simp [State.slot, State.parcel, State.memByte, State.colBad, State.row, State.bspare, State.stack, State.chan, State.nbu, State.cru, State.hub, State.mat, State.vec, State.fchan, State.spByte, State.spBad, State.ctx, State.part, State.page, State.stream, State.hport, State.dir, State.tran, State.landing, State.route, State.admission, State.group, State.counter]

@[simp] theorem State.zeroWindow_same (s : State) (t : Nat) (base : Nat) (size : Nat) :
    (State.zeroWindow s t base size).pending = s.pending ∧
    (State.zeroWindow s t base size).cyc = s.cyc ∧
    (State.zeroWindow s t base size).free = s.free ∧
    (State.zeroWindow s t base size).half = s.half ∧
    (State.zeroWindow s t base size).regs = s.regs ∧
    (State.zeroWindow s t base size).boot = s.boot ∧
    (State.zeroWindow s t base size).power = s.power ∧
    (State.zeroWindow s t base size).slots = s.slots ∧
    (State.zeroWindow s t base size).parcels = s.parcels ∧
    (State.zeroWindow s t base size).mem = s.mem ∧
    (State.zeroWindow s t base size).pois = s.pois ∧
    (State.zeroWindow s t base size).rows = s.rows ∧
    (State.zeroWindow s t base size).bspares = s.bspares ∧
    (State.zeroWindow s t base size).stks = s.stks ∧
    (State.zeroWindow s t base size).chans = s.chans ∧
    (State.zeroWindow s t base size).nbus = s.nbus ∧
    (State.zeroWindow s t base size).crus = s.crus ∧
    (State.zeroWindow s t base size).hubs = s.hubs ∧
    (State.zeroWindow s t base size).me = s.me ∧
    (State.zeroWindow s t base size).ve = s.ve ∧
    (State.zeroWindow s t base size).vfiles = s.vfiles ∧
    (State.zeroWindow s t base size).fe = s.fe ∧
    (State.zeroWindow s t base size).ctxs = s.ctxs ∧
    (State.zeroWindow s t base size).parts = s.parts ∧
    (State.zeroWindow s t base size).pages = s.pages ∧
    (State.zeroWindow s t base size).streams = s.streams ∧
    (State.zeroWindow s t base size).ports = s.ports ∧
    (State.zeroWindow s t base size).dirs = s.dirs ∧
    (State.zeroWindow s t base size).lines = s.lines ∧
    (State.zeroWindow s t base size).trans = s.trans ∧
    (State.zeroWindow s t base size).lands = s.lands ∧
    (State.zeroWindow s t base size).xacts = s.xacts ∧
    (State.zeroWindow s t base size).routes = s.routes ∧
    (State.zeroWindow s t base size).admits = s.admits ∧
    (State.zeroWindow s t base size).groups = s.groups ∧
    (State.zeroWindow s t base size).fw = s.fw ∧
    (State.zeroWindow s t base size).logs = s.logs ∧
    (State.zeroWindow s t base size).pm = s.pm ∧
    (State.zeroWindow s t base size).tmap = s.tmap ∧
    (State.zeroWindow s t base size).act = s.act ∧
    (State.zeroWindow s t base size).out = s.out := by
  have h := Keeps.zeroWindow s t base size
  and_intros
  · exact h.same .pending (by decide)
  · exact h.same .cyc (by decide)
  · exact h.same .free (by decide)
  · exact h.same .half (by decide)
  · exact h.same .regs (by decide)
  · exact h.same .boot (by decide)
  · exact h.same .power (by decide)
  · exact h.same .slots (by decide)
  · exact h.same .parcels (by decide)
  · exact h.same .mem (by decide)
  · exact h.same .pois (by decide)
  · exact h.same .rows (by decide)
  · exact h.same .bspares (by decide)
  · exact h.same .stks (by decide)
  · exact h.same .chans (by decide)
  · exact h.same .nbus (by decide)
  · exact h.same .crus (by decide)
  · exact h.same .hubs (by decide)
  · exact h.same .me (by decide)
  · exact h.same .ve (by decide)
  · exact h.same .vfiles (by decide)
  · exact h.same .fe (by decide)
  · exact h.same .ctxs (by decide)
  · exact h.same .parts (by decide)
  · exact h.same .pages (by decide)
  · exact h.same .streams (by decide)
  · exact h.same .ports (by decide)
  · exact h.same .dirs (by decide)
  · exact h.same .lines (by decide)
  · exact h.same .trans (by decide)
  · exact h.same .lands (by decide)
  · exact h.same .xacts (by decide)
  · exact h.same .routes (by decide)
  · exact h.same .admits (by decide)
  · exact h.same .groups (by decide)
  · exact h.same .fw (by decide)
  · exact h.same .logs (by decide)
  · exact h.same .pm (by decide)
  · exact h.same .tmap (by decide)
  · exact h.same .act (by decide)
  · exact h.same .out (by decide)

@[simp] theorem State.zeroWindow_members (s : State) (t : Nat) (base : Nat) (size : Nat) :
    (∀ k, (State.zeroWindow s t base size).slot k = s.slot k) ∧
    (∀ k, (State.zeroWindow s t base size).parcel k = s.parcel k) ∧
    (∀ k, (State.zeroWindow s t base size).memByte k = s.memByte k) ∧
    (∀ k, (State.zeroWindow s t base size).colBad k = s.colBad k) ∧
    (∀ k, (State.zeroWindow s t base size).row k = s.row k) ∧
    (∀ k, (State.zeroWindow s t base size).bspare k = s.bspare k) ∧
    (∀ k, (State.zeroWindow s t base size).stack k = s.stack k) ∧
    (∀ k, (State.zeroWindow s t base size).chan k = s.chan k) ∧
    (∀ k, (State.zeroWindow s t base size).nbu k = s.nbu k) ∧
    (∀ k, (State.zeroWindow s t base size).cru k = s.cru k) ∧
    (∀ k, (State.zeroWindow s t base size).hub k = s.hub k) ∧
    (∀ k, (State.zeroWindow s t base size).mat k = s.mat k) ∧
    (∀ k, (State.zeroWindow s t base size).vec k = s.vec k) ∧
    (∀ k, (State.zeroWindow s t base size).vfile k = s.vfile k) ∧
    (∀ k, (State.zeroWindow s t base size).fchan k = s.fchan k) ∧
    (∀ k, (State.zeroWindow s t base size).ctx k = s.ctx k) ∧
    (∀ k, (State.zeroWindow s t base size).part k = s.part k) ∧
    (∀ k, (State.zeroWindow s t base size).page k = s.page k) ∧
    (∀ k, (State.zeroWindow s t base size).stream k = s.stream k) ∧
    (∀ k, (State.zeroWindow s t base size).hport k = s.hport k) ∧
    (∀ k, (State.zeroWindow s t base size).dir k = s.dir k) ∧
    (∀ k, (State.zeroWindow s t base size).tran k = s.tran k) ∧
    (∀ k, (State.zeroWindow s t base size).landing k = s.landing k) ∧
    (∀ k, (State.zeroWindow s t base size).route k = s.route k) ∧
    (∀ k, (State.zeroWindow s t base size).admission k = s.admission k) ∧
    (∀ k, (State.zeroWindow s t base size).group k = s.group k) ∧
    (∀ k, (State.zeroWindow s t base size).counter k = s.counter k) := by
  simp [State.slot, State.parcel, State.memByte, State.colBad, State.row, State.bspare, State.stack, State.chan, State.nbu, State.cru, State.hub, State.mat, State.vec, State.vfile, State.fchan, State.ctx, State.part, State.page, State.stream, State.hport, State.dir, State.tran, State.landing, State.route, State.admission, State.group, State.counter]

@[simp] theorem State.unbindCtx_same (s : State) (c : Nat) :
    (State.unbindCtx s c).pending = s.pending ∧
    (State.unbindCtx s c).cyc = s.cyc ∧
    (State.unbindCtx s c).free = s.free ∧
    (State.unbindCtx s c).half = s.half ∧
    (State.unbindCtx s c).regs = s.regs ∧
    (State.unbindCtx s c).boot = s.boot ∧
    (State.unbindCtx s c).power = s.power ∧
    (State.unbindCtx s c).slots = s.slots ∧
    (State.unbindCtx s c).parcels = s.parcels ∧
    (State.unbindCtx s c).mem = s.mem ∧
    (State.unbindCtx s c).pois = s.pois ∧
    (State.unbindCtx s c).rows = s.rows ∧
    (State.unbindCtx s c).bspares = s.bspares ∧
    (State.unbindCtx s c).stks = s.stks ∧
    (State.unbindCtx s c).chans = s.chans ∧
    (State.unbindCtx s c).nbus = s.nbus ∧
    (State.unbindCtx s c).crus = s.crus ∧
    (State.unbindCtx s c).hubs = s.hubs ∧
    (State.unbindCtx s c).me = s.me ∧
    (State.unbindCtx s c).ve = s.ve ∧
    (State.unbindCtx s c).vfiles = s.vfiles ∧
    (State.unbindCtx s c).fe = s.fe ∧
    (State.unbindCtx s c).sp = s.sp ∧
    (State.unbindCtx s c).spPois = s.spPois ∧
    (State.unbindCtx s c).pages = s.pages ∧
    (State.unbindCtx s c).streams = s.streams ∧
    (State.unbindCtx s c).ports = s.ports ∧
    (State.unbindCtx s c).dirs = s.dirs ∧
    (State.unbindCtx s c).lines = s.lines ∧
    (State.unbindCtx s c).trans = s.trans ∧
    (State.unbindCtx s c).lands = s.lands ∧
    (State.unbindCtx s c).xacts = s.xacts ∧
    (State.unbindCtx s c).routes = s.routes ∧
    (State.unbindCtx s c).admits = s.admits ∧
    (State.unbindCtx s c).groups = s.groups ∧
    (State.unbindCtx s c).fw = s.fw ∧
    (State.unbindCtx s c).logs = s.logs ∧
    (State.unbindCtx s c).pm = s.pm ∧
    (State.unbindCtx s c).tmap = s.tmap ∧
    (State.unbindCtx s c).act = s.act ∧
    (State.unbindCtx s c).out = s.out := by
  have h := Keeps.unbindCtx s c
  and_intros
  · exact h.same .pending (by decide)
  · exact h.same .cyc (by decide)
  · exact h.same .free (by decide)
  · exact h.same .half (by decide)
  · exact h.same .regs (by decide)
  · exact h.same .boot (by decide)
  · exact h.same .power (by decide)
  · exact h.same .slots (by decide)
  · exact h.same .parcels (by decide)
  · exact h.same .mem (by decide)
  · exact h.same .pois (by decide)
  · exact h.same .rows (by decide)
  · exact h.same .bspares (by decide)
  · exact h.same .stks (by decide)
  · exact h.same .chans (by decide)
  · exact h.same .nbus (by decide)
  · exact h.same .crus (by decide)
  · exact h.same .hubs (by decide)
  · exact h.same .me (by decide)
  · exact h.same .ve (by decide)
  · exact h.same .vfiles (by decide)
  · exact h.same .fe (by decide)
  · exact h.same .sp (by decide)
  · exact h.same .spPois (by decide)
  · exact h.same .pages (by decide)
  · exact h.same .streams (by decide)
  · exact h.same .ports (by decide)
  · exact h.same .dirs (by decide)
  · exact h.same .lines (by decide)
  · exact h.same .trans (by decide)
  · exact h.same .lands (by decide)
  · exact h.same .xacts (by decide)
  · exact h.same .routes (by decide)
  · exact h.same .admits (by decide)
  · exact h.same .groups (by decide)
  · exact h.same .fw (by decide)
  · exact h.same .logs (by decide)
  · exact h.same .pm (by decide)
  · exact h.same .tmap (by decide)
  · exact h.same .act (by decide)
  · exact h.same .out (by decide)

@[simp] theorem State.unbindCtx_members (s : State) (c : Nat) :
    (∀ k, (State.unbindCtx s c).slot k = s.slot k) ∧
    (∀ k, (State.unbindCtx s c).parcel k = s.parcel k) ∧
    (∀ k, (State.unbindCtx s c).memByte k = s.memByte k) ∧
    (∀ k, (State.unbindCtx s c).colBad k = s.colBad k) ∧
    (∀ k, (State.unbindCtx s c).row k = s.row k) ∧
    (∀ k, (State.unbindCtx s c).bspare k = s.bspare k) ∧
    (∀ k, (State.unbindCtx s c).stack k = s.stack k) ∧
    (∀ k, (State.unbindCtx s c).chan k = s.chan k) ∧
    (∀ k, (State.unbindCtx s c).nbu k = s.nbu k) ∧
    (∀ k, (State.unbindCtx s c).cru k = s.cru k) ∧
    (∀ k, (State.unbindCtx s c).hub k = s.hub k) ∧
    (∀ k, (State.unbindCtx s c).mat k = s.mat k) ∧
    (∀ k, (State.unbindCtx s c).vec k = s.vec k) ∧
    (∀ k, (State.unbindCtx s c).vfile k = s.vfile k) ∧
    (∀ k, (State.unbindCtx s c).fchan k = s.fchan k) ∧
    (∀ k, (State.unbindCtx s c).spByte k = s.spByte k) ∧
    (∀ k, (State.unbindCtx s c).spBad k = s.spBad k) ∧
    (∀ k, (State.unbindCtx s c).page k = s.page k) ∧
    (∀ k, (State.unbindCtx s c).stream k = s.stream k) ∧
    (∀ k, (State.unbindCtx s c).hport k = s.hport k) ∧
    (∀ k, (State.unbindCtx s c).dir k = s.dir k) ∧
    (∀ k, (State.unbindCtx s c).tran k = s.tran k) ∧
    (∀ k, (State.unbindCtx s c).landing k = s.landing k) ∧
    (∀ k, (State.unbindCtx s c).route k = s.route k) ∧
    (∀ k, (State.unbindCtx s c).admission k = s.admission k) ∧
    (∀ k, (State.unbindCtx s c).group k = s.group k) ∧
    (∀ k, (State.unbindCtx s c).counter k = s.counter k) := by
  simp [State.slot, State.parcel, State.memByte, State.colBad, State.row, State.bspare, State.stack, State.chan, State.nbu, State.cru, State.hub, State.mat, State.vec, State.vfile, State.fchan, State.spByte, State.spBad, State.page, State.stream, State.hport, State.dir, State.tran, State.landing, State.route, State.admission, State.group, State.counter]

@[simp] theorem State.homeWrite_same (s : State) (sa : Nat) (d : Line512) (mask : BitVec 64) (pois : Bool) :
    (State.homeWrite s sa d mask pois).pending = s.pending ∧
    (State.homeWrite s sa d mask pois).cyc = s.cyc ∧
    (State.homeWrite s sa d mask pois).free = s.free ∧
    (State.homeWrite s sa d mask pois).half = s.half ∧
    (State.homeWrite s sa d mask pois).regs = s.regs ∧
    (State.homeWrite s sa d mask pois).boot = s.boot ∧
    (State.homeWrite s sa d mask pois).power = s.power ∧
    (State.homeWrite s sa d mask pois).slots = s.slots ∧
    (State.homeWrite s sa d mask pois).parcels = s.parcels ∧
    (State.homeWrite s sa d mask pois).mem = s.mem ∧
    (State.homeWrite s sa d mask pois).pois = s.pois ∧
    (State.homeWrite s sa d mask pois).rows = s.rows ∧
    (State.homeWrite s sa d mask pois).bspares = s.bspares ∧
    (State.homeWrite s sa d mask pois).stks = s.stks ∧
    (State.homeWrite s sa d mask pois).chans = s.chans ∧
    (State.homeWrite s sa d mask pois).nbus = s.nbus ∧
    (State.homeWrite s sa d mask pois).crus = s.crus ∧
    (State.homeWrite s sa d mask pois).hubs = s.hubs ∧
    (State.homeWrite s sa d mask pois).me = s.me ∧
    (State.homeWrite s sa d mask pois).ve = s.ve ∧
    (State.homeWrite s sa d mask pois).vfiles = s.vfiles ∧
    (State.homeWrite s sa d mask pois).fe = s.fe ∧
    (State.homeWrite s sa d mask pois).sp = s.sp ∧
    (State.homeWrite s sa d mask pois).spPois = s.spPois ∧
    (State.homeWrite s sa d mask pois).ctxs = s.ctxs ∧
    (State.homeWrite s sa d mask pois).parts = s.parts ∧
    (State.homeWrite s sa d mask pois).pages = s.pages ∧
    (State.homeWrite s sa d mask pois).streams = s.streams ∧
    (State.homeWrite s sa d mask pois).ports = s.ports ∧
    (State.homeWrite s sa d mask pois).dirs = s.dirs ∧
    (State.homeWrite s sa d mask pois).trans = s.trans ∧
    (State.homeWrite s sa d mask pois).lands = s.lands ∧
    (State.homeWrite s sa d mask pois).xacts = s.xacts ∧
    (State.homeWrite s sa d mask pois).routes = s.routes ∧
    (State.homeWrite s sa d mask pois).admits = s.admits ∧
    (State.homeWrite s sa d mask pois).groups = s.groups ∧
    (State.homeWrite s sa d mask pois).fw = s.fw ∧
    (State.homeWrite s sa d mask pois).logs = s.logs ∧
    (State.homeWrite s sa d mask pois).pm = s.pm ∧
    (State.homeWrite s sa d mask pois).tmap = s.tmap ∧
    (State.homeWrite s sa d mask pois).act = s.act ∧
    (State.homeWrite s sa d mask pois).out = s.out := by
  have h := Keeps.homeWrite s sa d mask pois
  and_intros
  · exact h.same .pending (by decide)
  · exact h.same .cyc (by decide)
  · exact h.same .free (by decide)
  · exact h.same .half (by decide)
  · exact h.same .regs (by decide)
  · exact h.same .boot (by decide)
  · exact h.same .power (by decide)
  · exact h.same .slots (by decide)
  · exact h.same .parcels (by decide)
  · exact h.same .mem (by decide)
  · exact h.same .pois (by decide)
  · exact h.same .rows (by decide)
  · exact h.same .bspares (by decide)
  · exact h.same .stks (by decide)
  · exact h.same .chans (by decide)
  · exact h.same .nbus (by decide)
  · exact h.same .crus (by decide)
  · exact h.same .hubs (by decide)
  · exact h.same .me (by decide)
  · exact h.same .ve (by decide)
  · exact h.same .vfiles (by decide)
  · exact h.same .fe (by decide)
  · exact h.same .sp (by decide)
  · exact h.same .spPois (by decide)
  · exact h.same .ctxs (by decide)
  · exact h.same .parts (by decide)
  · exact h.same .pages (by decide)
  · exact h.same .streams (by decide)
  · exact h.same .ports (by decide)
  · exact h.same .dirs (by decide)
  · exact h.same .trans (by decide)
  · exact h.same .lands (by decide)
  · exact h.same .xacts (by decide)
  · exact h.same .routes (by decide)
  · exact h.same .admits (by decide)
  · exact h.same .groups (by decide)
  · exact h.same .fw (by decide)
  · exact h.same .logs (by decide)
  · exact h.same .pm (by decide)
  · exact h.same .tmap (by decide)
  · exact h.same .act (by decide)
  · exact h.same .out (by decide)

@[simp] theorem State.homeWrite_members (s : State) (sa : Nat) (d : Line512) (mask : BitVec 64) (pois : Bool) :
    (∀ k, (State.homeWrite s sa d mask pois).slot k = s.slot k) ∧
    (∀ k, (State.homeWrite s sa d mask pois).parcel k = s.parcel k) ∧
    (∀ k, (State.homeWrite s sa d mask pois).memByte k = s.memByte k) ∧
    (∀ k, (State.homeWrite s sa d mask pois).colBad k = s.colBad k) ∧
    (∀ k, (State.homeWrite s sa d mask pois).row k = s.row k) ∧
    (∀ k, (State.homeWrite s sa d mask pois).bspare k = s.bspare k) ∧
    (∀ k, (State.homeWrite s sa d mask pois).stack k = s.stack k) ∧
    (∀ k, (State.homeWrite s sa d mask pois).chan k = s.chan k) ∧
    (∀ k, (State.homeWrite s sa d mask pois).nbu k = s.nbu k) ∧
    (∀ k, (State.homeWrite s sa d mask pois).cru k = s.cru k) ∧
    (∀ k, (State.homeWrite s sa d mask pois).hub k = s.hub k) ∧
    (∀ k, (State.homeWrite s sa d mask pois).mat k = s.mat k) ∧
    (∀ k, (State.homeWrite s sa d mask pois).vec k = s.vec k) ∧
    (∀ k, (State.homeWrite s sa d mask pois).vfile k = s.vfile k) ∧
    (∀ k, (State.homeWrite s sa d mask pois).fchan k = s.fchan k) ∧
    (∀ k, (State.homeWrite s sa d mask pois).spByte k = s.spByte k) ∧
    (∀ k, (State.homeWrite s sa d mask pois).spBad k = s.spBad k) ∧
    (∀ k, (State.homeWrite s sa d mask pois).ctx k = s.ctx k) ∧
    (∀ k, (State.homeWrite s sa d mask pois).part k = s.part k) ∧
    (∀ k, (State.homeWrite s sa d mask pois).page k = s.page k) ∧
    (∀ k, (State.homeWrite s sa d mask pois).stream k = s.stream k) ∧
    (∀ k, (State.homeWrite s sa d mask pois).hport k = s.hport k) ∧
    (∀ k, (State.homeWrite s sa d mask pois).dir k = s.dir k) ∧
    (∀ k, (State.homeWrite s sa d mask pois).tran k = s.tran k) ∧
    (∀ k, (State.homeWrite s sa d mask pois).landing k = s.landing k) ∧
    (∀ k, (State.homeWrite s sa d mask pois).route k = s.route k) ∧
    (∀ k, (State.homeWrite s sa d mask pois).admission k = s.admission k) ∧
    (∀ k, (State.homeWrite s sa d mask pois).group k = s.group k) ∧
    (∀ k, (State.homeWrite s sa d mask pois).counter k = s.counter k) := by
  simp [State.slot, State.parcel, State.memByte, State.colBad, State.row, State.bspare, State.stack, State.chan, State.nbu, State.cru, State.hub, State.mat, State.vec, State.vfile, State.fchan, State.spByte, State.spBad, State.ctx, State.part, State.page, State.stream, State.hport, State.dir, State.tran, State.landing, State.route, State.admission, State.group, State.counter]

@[simp] theorem State.noteDir_same (s : State) :
    (State.noteDir s).pending = s.pending ∧
    (State.noteDir s).cyc = s.cyc ∧
    (State.noteDir s).free = s.free ∧
    (State.noteDir s).half = s.half ∧
    (State.noteDir s).regs = s.regs ∧
    (State.noteDir s).boot = s.boot ∧
    (State.noteDir s).power = s.power ∧
    (State.noteDir s).slots = s.slots ∧
    (State.noteDir s).parcels = s.parcels ∧
    (State.noteDir s).mem = s.mem ∧
    (State.noteDir s).pois = s.pois ∧
    (State.noteDir s).rows = s.rows ∧
    (State.noteDir s).bspares = s.bspares ∧
    (State.noteDir s).stks = s.stks ∧
    (State.noteDir s).chans = s.chans ∧
    (State.noteDir s).nbus = s.nbus ∧
    (State.noteDir s).crus = s.crus ∧
    (State.noteDir s).hubs = s.hubs ∧
    (State.noteDir s).me = s.me ∧
    (State.noteDir s).ve = s.ve ∧
    (State.noteDir s).vfiles = s.vfiles ∧
    (State.noteDir s).fe = s.fe ∧
    (State.noteDir s).sp = s.sp ∧
    (State.noteDir s).spPois = s.spPois ∧
    (State.noteDir s).ctxs = s.ctxs ∧
    (State.noteDir s).parts = s.parts ∧
    (State.noteDir s).pages = s.pages ∧
    (State.noteDir s).streams = s.streams ∧
    (State.noteDir s).ports = s.ports ∧
    (State.noteDir s).dirs = s.dirs ∧
    (State.noteDir s).lines = s.lines ∧
    (State.noteDir s).trans = s.trans ∧
    (State.noteDir s).lands = s.lands ∧
    (State.noteDir s).xacts = s.xacts ∧
    (State.noteDir s).routes = s.routes ∧
    (State.noteDir s).admits = s.admits ∧
    (State.noteDir s).groups = s.groups ∧
    (State.noteDir s).fw = s.fw ∧
    (State.noteDir s).pm = s.pm ∧
    (State.noteDir s).tmap = s.tmap ∧
    (State.noteDir s).act = s.act ∧
    (State.noteDir s).out = s.out := by
  have h := Keeps.noteDir s
  and_intros
  · exact h.same .pending (by decide)
  · exact h.same .cyc (by decide)
  · exact h.same .free (by decide)
  · exact h.same .half (by decide)
  · exact h.same .regs (by decide)
  · exact h.same .boot (by decide)
  · exact h.same .power (by decide)
  · exact h.same .slots (by decide)
  · exact h.same .parcels (by decide)
  · exact h.same .mem (by decide)
  · exact h.same .pois (by decide)
  · exact h.same .rows (by decide)
  · exact h.same .bspares (by decide)
  · exact h.same .stks (by decide)
  · exact h.same .chans (by decide)
  · exact h.same .nbus (by decide)
  · exact h.same .crus (by decide)
  · exact h.same .hubs (by decide)
  · exact h.same .me (by decide)
  · exact h.same .ve (by decide)
  · exact h.same .vfiles (by decide)
  · exact h.same .fe (by decide)
  · exact h.same .sp (by decide)
  · exact h.same .spPois (by decide)
  · exact h.same .ctxs (by decide)
  · exact h.same .parts (by decide)
  · exact h.same .pages (by decide)
  · exact h.same .streams (by decide)
  · exact h.same .ports (by decide)
  · exact h.same .dirs (by decide)
  · exact h.same .lines (by decide)
  · exact h.same .trans (by decide)
  · exact h.same .lands (by decide)
  · exact h.same .xacts (by decide)
  · exact h.same .routes (by decide)
  · exact h.same .admits (by decide)
  · exact h.same .groups (by decide)
  · exact h.same .fw (by decide)
  · exact h.same .pm (by decide)
  · exact h.same .tmap (by decide)
  · exact h.same .act (by decide)
  · exact h.same .out (by decide)

@[simp] theorem State.noteDir_members (s : State) :
    (∀ k, (State.noteDir s).slot k = s.slot k) ∧
    (∀ k, (State.noteDir s).parcel k = s.parcel k) ∧
    (∀ k, (State.noteDir s).memByte k = s.memByte k) ∧
    (∀ k, (State.noteDir s).colBad k = s.colBad k) ∧
    (∀ k, (State.noteDir s).row k = s.row k) ∧
    (∀ k, (State.noteDir s).bspare k = s.bspare k) ∧
    (∀ k, (State.noteDir s).stack k = s.stack k) ∧
    (∀ k, (State.noteDir s).chan k = s.chan k) ∧
    (∀ k, (State.noteDir s).nbu k = s.nbu k) ∧
    (∀ k, (State.noteDir s).cru k = s.cru k) ∧
    (∀ k, (State.noteDir s).hub k = s.hub k) ∧
    (∀ k, (State.noteDir s).mat k = s.mat k) ∧
    (∀ k, (State.noteDir s).vec k = s.vec k) ∧
    (∀ k, (State.noteDir s).vfile k = s.vfile k) ∧
    (∀ k, (State.noteDir s).fchan k = s.fchan k) ∧
    (∀ k, (State.noteDir s).spByte k = s.spByte k) ∧
    (∀ k, (State.noteDir s).spBad k = s.spBad k) ∧
    (∀ k, (State.noteDir s).ctx k = s.ctx k) ∧
    (∀ k, (State.noteDir s).part k = s.part k) ∧
    (∀ k, (State.noteDir s).page k = s.page k) ∧
    (∀ k, (State.noteDir s).stream k = s.stream k) ∧
    (∀ k, (State.noteDir s).hport k = s.hport k) ∧
    (∀ k, (State.noteDir s).dir k = s.dir k) ∧
    (∀ k, (State.noteDir s).tran k = s.tran k) ∧
    (∀ k, (State.noteDir s).landing k = s.landing k) ∧
    (∀ k, (State.noteDir s).route k = s.route k) ∧
    (∀ k, (State.noteDir s).admission k = s.admission k) ∧
    (∀ k, (State.noteDir s).group k = s.group k) ∧
    (∀ k, (State.noteDir s).counter k = s.counter k) := by
  simp [State.slot, State.parcel, State.memByte, State.colBad, State.row, State.bspare, State.stack, State.chan, State.nbu, State.cru, State.hub, State.mat, State.vec, State.vfile, State.fchan, State.spByte, State.spBad, State.ctx, State.part, State.page, State.stream, State.hport, State.dir, State.tran, State.landing, State.route, State.admission, State.group, State.counter]

@[simp] theorem State.misroute_same (s : State) (p : Nat) :
    (State.misroute s p).pending = s.pending ∧
    (State.misroute s p).cyc = s.cyc ∧
    (State.misroute s p).free = s.free ∧
    (State.misroute s p).half = s.half ∧
    (State.misroute s p).regs = s.regs ∧
    (State.misroute s p).boot = s.boot ∧
    (State.misroute s p).power = s.power ∧
    (State.misroute s p).slots = s.slots ∧
    (State.misroute s p).parcels = s.parcels ∧
    (State.misroute s p).mem = s.mem ∧
    (State.misroute s p).pois = s.pois ∧
    (State.misroute s p).rows = s.rows ∧
    (State.misroute s p).bspares = s.bspares ∧
    (State.misroute s p).stks = s.stks ∧
    (State.misroute s p).chans = s.chans ∧
    (State.misroute s p).nbus = s.nbus ∧
    (State.misroute s p).crus = s.crus ∧
    (State.misroute s p).hubs = s.hubs ∧
    (State.misroute s p).me = s.me ∧
    (State.misroute s p).ve = s.ve ∧
    (State.misroute s p).vfiles = s.vfiles ∧
    (State.misroute s p).fe = s.fe ∧
    (State.misroute s p).sp = s.sp ∧
    (State.misroute s p).spPois = s.spPois ∧
    (State.misroute s p).ctxs = s.ctxs ∧
    (State.misroute s p).parts = s.parts ∧
    (State.misroute s p).pages = s.pages ∧
    (State.misroute s p).streams = s.streams ∧
    (State.misroute s p).dirs = s.dirs ∧
    (State.misroute s p).lines = s.lines ∧
    (State.misroute s p).trans = s.trans ∧
    (State.misroute s p).lands = s.lands ∧
    (State.misroute s p).xacts = s.xacts ∧
    (State.misroute s p).routes = s.routes ∧
    (State.misroute s p).admits = s.admits ∧
    (State.misroute s p).groups = s.groups ∧
    (State.misroute s p).fw = s.fw ∧
    (State.misroute s p).logs = s.logs ∧
    (State.misroute s p).pm = s.pm ∧
    (State.misroute s p).tmap = s.tmap ∧
    (State.misroute s p).act = s.act ∧
    (State.misroute s p).out = s.out := by
  have h := Keeps.misroute s p
  and_intros
  · exact h.same .pending (by decide)
  · exact h.same .cyc (by decide)
  · exact h.same .free (by decide)
  · exact h.same .half (by decide)
  · exact h.same .regs (by decide)
  · exact h.same .boot (by decide)
  · exact h.same .power (by decide)
  · exact h.same .slots (by decide)
  · exact h.same .parcels (by decide)
  · exact h.same .mem (by decide)
  · exact h.same .pois (by decide)
  · exact h.same .rows (by decide)
  · exact h.same .bspares (by decide)
  · exact h.same .stks (by decide)
  · exact h.same .chans (by decide)
  · exact h.same .nbus (by decide)
  · exact h.same .crus (by decide)
  · exact h.same .hubs (by decide)
  · exact h.same .me (by decide)
  · exact h.same .ve (by decide)
  · exact h.same .vfiles (by decide)
  · exact h.same .fe (by decide)
  · exact h.same .sp (by decide)
  · exact h.same .spPois (by decide)
  · exact h.same .ctxs (by decide)
  · exact h.same .parts (by decide)
  · exact h.same .pages (by decide)
  · exact h.same .streams (by decide)
  · exact h.same .dirs (by decide)
  · exact h.same .lines (by decide)
  · exact h.same .trans (by decide)
  · exact h.same .lands (by decide)
  · exact h.same .xacts (by decide)
  · exact h.same .routes (by decide)
  · exact h.same .admits (by decide)
  · exact h.same .groups (by decide)
  · exact h.same .fw (by decide)
  · exact h.same .logs (by decide)
  · exact h.same .pm (by decide)
  · exact h.same .tmap (by decide)
  · exact h.same .act (by decide)
  · exact h.same .out (by decide)

@[simp] theorem State.misroute_members (s : State) (p : Nat) :
    (∀ k, (State.misroute s p).slot k = s.slot k) ∧
    (∀ k, (State.misroute s p).parcel k = s.parcel k) ∧
    (∀ k, (State.misroute s p).memByte k = s.memByte k) ∧
    (∀ k, (State.misroute s p).colBad k = s.colBad k) ∧
    (∀ k, (State.misroute s p).row k = s.row k) ∧
    (∀ k, (State.misroute s p).bspare k = s.bspare k) ∧
    (∀ k, (State.misroute s p).stack k = s.stack k) ∧
    (∀ k, (State.misroute s p).chan k = s.chan k) ∧
    (∀ k, (State.misroute s p).nbu k = s.nbu k) ∧
    (∀ k, (State.misroute s p).cru k = s.cru k) ∧
    (∀ k, (State.misroute s p).hub k = s.hub k) ∧
    (∀ k, (State.misroute s p).mat k = s.mat k) ∧
    (∀ k, (State.misroute s p).vec k = s.vec k) ∧
    (∀ k, (State.misroute s p).vfile k = s.vfile k) ∧
    (∀ k, (State.misroute s p).fchan k = s.fchan k) ∧
    (∀ k, (State.misroute s p).spByte k = s.spByte k) ∧
    (∀ k, (State.misroute s p).spBad k = s.spBad k) ∧
    (∀ k, (State.misroute s p).ctx k = s.ctx k) ∧
    (∀ k, (State.misroute s p).part k = s.part k) ∧
    (∀ k, (State.misroute s p).page k = s.page k) ∧
    (∀ k, (State.misroute s p).stream k = s.stream k) ∧
    (∀ k, (State.misroute s p).dir k = s.dir k) ∧
    (∀ k, (State.misroute s p).tran k = s.tran k) ∧
    (∀ k, (State.misroute s p).landing k = s.landing k) ∧
    (∀ k, (State.misroute s p).route k = s.route k) ∧
    (∀ k, (State.misroute s p).admission k = s.admission k) ∧
    (∀ k, (State.misroute s p).group k = s.group k) ∧
    (∀ k, (State.misroute s p).counter k = s.counter k) := by
  simp [State.slot, State.parcel, State.memByte, State.colBad, State.row, State.bspare, State.stack, State.chan, State.nbu, State.cru, State.hub, State.mat, State.vec, State.vfile, State.fchan, State.spByte, State.spBad, State.ctx, State.part, State.page, State.stream, State.dir, State.tran, State.landing, State.route, State.admission, State.group, State.counter]

@[simp] theorem State.openEngines_same (s : State) (t : Nat) :
    (State.openEngines s t).pending = s.pending ∧
    (State.openEngines s t).cyc = s.cyc ∧
    (State.openEngines s t).free = s.free ∧
    (State.openEngines s t).half = s.half ∧
    (State.openEngines s t).regs = s.regs ∧
    (State.openEngines s t).boot = s.boot ∧
    (State.openEngines s t).power = s.power ∧
    (State.openEngines s t).slots = s.slots ∧
    (State.openEngines s t).parcels = s.parcels ∧
    (State.openEngines s t).mem = s.mem ∧
    (State.openEngines s t).pois = s.pois ∧
    (State.openEngines s t).rows = s.rows ∧
    (State.openEngines s t).bspares = s.bspares ∧
    (State.openEngines s t).stks = s.stks ∧
    (State.openEngines s t).chans = s.chans ∧
    (State.openEngines s t).nbus = s.nbus ∧
    (State.openEngines s t).crus = s.crus ∧
    (State.openEngines s t).me = s.me ∧
    (State.openEngines s t).ve = s.ve ∧
    (State.openEngines s t).vfiles = s.vfiles ∧
    (State.openEngines s t).fe = s.fe ∧
    (State.openEngines s t).sp = s.sp ∧
    (State.openEngines s t).spPois = s.spPois ∧
    (State.openEngines s t).ctxs = s.ctxs ∧
    (State.openEngines s t).parts = s.parts ∧
    (State.openEngines s t).pages = s.pages ∧
    (State.openEngines s t).streams = s.streams ∧
    (State.openEngines s t).ports = s.ports ∧
    (State.openEngines s t).dirs = s.dirs ∧
    (State.openEngines s t).lines = s.lines ∧
    (State.openEngines s t).trans = s.trans ∧
    (State.openEngines s t).lands = s.lands ∧
    (State.openEngines s t).xacts = s.xacts ∧
    (State.openEngines s t).routes = s.routes ∧
    (State.openEngines s t).admits = s.admits ∧
    (State.openEngines s t).groups = s.groups ∧
    (State.openEngines s t).fw = s.fw ∧
    (State.openEngines s t).logs = s.logs ∧
    (State.openEngines s t).pm = s.pm ∧
    (State.openEngines s t).tmap = s.tmap ∧
    (State.openEngines s t).act = s.act ∧
    (State.openEngines s t).out = s.out := by
  have h := Keeps.openEngines s t
  and_intros
  · exact h.same .pending (by decide)
  · exact h.same .cyc (by decide)
  · exact h.same .free (by decide)
  · exact h.same .half (by decide)
  · exact h.same .regs (by decide)
  · exact h.same .boot (by decide)
  · exact h.same .power (by decide)
  · exact h.same .slots (by decide)
  · exact h.same .parcels (by decide)
  · exact h.same .mem (by decide)
  · exact h.same .pois (by decide)
  · exact h.same .rows (by decide)
  · exact h.same .bspares (by decide)
  · exact h.same .stks (by decide)
  · exact h.same .chans (by decide)
  · exact h.same .nbus (by decide)
  · exact h.same .crus (by decide)
  · exact h.same .me (by decide)
  · exact h.same .ve (by decide)
  · exact h.same .vfiles (by decide)
  · exact h.same .fe (by decide)
  · exact h.same .sp (by decide)
  · exact h.same .spPois (by decide)
  · exact h.same .ctxs (by decide)
  · exact h.same .parts (by decide)
  · exact h.same .pages (by decide)
  · exact h.same .streams (by decide)
  · exact h.same .ports (by decide)
  · exact h.same .dirs (by decide)
  · exact h.same .lines (by decide)
  · exact h.same .trans (by decide)
  · exact h.same .lands (by decide)
  · exact h.same .xacts (by decide)
  · exact h.same .routes (by decide)
  · exact h.same .admits (by decide)
  · exact h.same .groups (by decide)
  · exact h.same .fw (by decide)
  · exact h.same .logs (by decide)
  · exact h.same .pm (by decide)
  · exact h.same .tmap (by decide)
  · exact h.same .act (by decide)
  · exact h.same .out (by decide)

@[simp] theorem State.openEngines_members (s : State) (t : Nat) :
    (∀ k, (State.openEngines s t).slot k = s.slot k) ∧
    (∀ k, (State.openEngines s t).parcel k = s.parcel k) ∧
    (∀ k, (State.openEngines s t).memByte k = s.memByte k) ∧
    (∀ k, (State.openEngines s t).colBad k = s.colBad k) ∧
    (∀ k, (State.openEngines s t).row k = s.row k) ∧
    (∀ k, (State.openEngines s t).bspare k = s.bspare k) ∧
    (∀ k, (State.openEngines s t).stack k = s.stack k) ∧
    (∀ k, (State.openEngines s t).chan k = s.chan k) ∧
    (∀ k, (State.openEngines s t).nbu k = s.nbu k) ∧
    (∀ k, (State.openEngines s t).cru k = s.cru k) ∧
    (∀ k, (State.openEngines s t).mat k = s.mat k) ∧
    (∀ k, (State.openEngines s t).vec k = s.vec k) ∧
    (∀ k, (State.openEngines s t).vfile k = s.vfile k) ∧
    (∀ k, (State.openEngines s t).fchan k = s.fchan k) ∧
    (∀ k, (State.openEngines s t).spByte k = s.spByte k) ∧
    (∀ k, (State.openEngines s t).spBad k = s.spBad k) ∧
    (∀ k, (State.openEngines s t).ctx k = s.ctx k) ∧
    (∀ k, (State.openEngines s t).part k = s.part k) ∧
    (∀ k, (State.openEngines s t).page k = s.page k) ∧
    (∀ k, (State.openEngines s t).stream k = s.stream k) ∧
    (∀ k, (State.openEngines s t).hport k = s.hport k) ∧
    (∀ k, (State.openEngines s t).dir k = s.dir k) ∧
    (∀ k, (State.openEngines s t).tran k = s.tran k) ∧
    (∀ k, (State.openEngines s t).landing k = s.landing k) ∧
    (∀ k, (State.openEngines s t).route k = s.route k) ∧
    (∀ k, (State.openEngines s t).admission k = s.admission k) ∧
    (∀ k, (State.openEngines s t).group k = s.group k) ∧
    (∀ k, (State.openEngines s t).counter k = s.counter k) := by
  simp [State.slot, State.parcel, State.memByte, State.colBad, State.row, State.bspare, State.stack, State.chan, State.nbu, State.cru, State.mat, State.vec, State.vfile, State.fchan, State.spByte, State.spBad, State.ctx, State.part, State.page, State.stream, State.hport, State.dir, State.tran, State.landing, State.route, State.admission, State.group, State.counter]

end Sys2Proof.Machine
end

