-- ==== Sys2Proof/Machine/Flags.lean ====
section
/-! DEFINITION. What every register reads as: the status fields computed from the state (the register tables of chapters 02
to 19; 00 R12: reserved bits read zero). -/

namespace Sys2Proof.Machine

/-- A register put together from its fields: lowest bit, width, value. -/
def pack : List (Nat × Nat × Nat) → Nat
  | [] => 0
  | (lo, n, v) :: l => v % 2 ^ n * 2 ^ lo + pack l

/-- A partition number, zero where there is none. -/
def partNo (p : Option Nat) : Nat := p.getD 0

/-! ### Geometry (02 R73) -/

/-- PMAPDAT: the parcel-map entry of a slot (R61). -/
def State.pmapdat (s : State) (sl : Nat) : Nat :=
  let x := s.slot sl
  if s.slotCount ≤ sl then 0
  else pack [(0, 13, x.phys), (13, 1, nat x.moveTo.isSome), (14, 1, nat (x.phys / 512 != (slotDefault s.half sl).phys / 512)), (15, 3, x.code),
    (18, 2, match x.cls with | .bulk => 0 | .shared => 1 | .devOnly => 2), (20, 6, partNo x.owner), (26, 1, nat x.owner.isSome)]

/-- RSVSTAT: free reserve parcels, retired parcels (a retired tile's 512 among them, 18 R701), COVER and TILELOSS. -/
def State.rsvstat (s : State) : Nat :=
  pack [(0, 11, s.freeTotal),
    (11, 11, (s.parcels.filter (fun e : Nat × Parcel => e.2.retired && !(s.hub (e.1 / 512)).retired)).length + 512 * s.lostTiles.length),
    (22, 1, nat s.covered), (23, 1, nat (s.lostTiles != []))]

/-- SPRDAT: the spares of a stack in use (R36 to R39), a spare bank that serves a swap test among them. The rows and columns counted
are those of the 768 banks in place: the spares that a replaced bank had in use leave with it (DESIGN CHOICE, log entry 84). -/
def State.sprdat (s : State) (st : Nat) : Nat :=
  let k := s.stack st
  let bs := s.bspares.filter (fun e : Nat × BankSpares => e.1 / 768 == st)
  if 96 ≤ st then 0
  else pack [(0, 1, nat k.die.isSome), (1, 5, k.die.getD 0), (6, 6, k.banks.length + nat k.testing.isSome),
    (12, 19, (bs.map (fun e : Nat × BankSpares => e.2.rows.length)).sum), (31, 12, (bs.map (fun e : Nat × BankSpares => e.2.cols.length)).sum),
    (43, 1, nat (bs.any (fun e : Nat × BankSpares => decide (512 ≤ e.2.rows.length + e.2.spent))))]

/-- HILCFGn. -/
def State.hilcfg (s : State) (p : Nat) : Nat :=
  let h := s.hport p
  pack [(0, 4, h.iw), (4, 4, h.ig), (8, 2, s.hilPos p), (16, 1, nat h.commit), (17, 1, nat h.agree), (18, 1, nat h.misroute)]

/-! ### Stack controller and near-bank (04 R163; 06 R269) -/

/-- SCSTAT of a channel. -/
def State.scstat (s : State) (st ch : Nat) : Nat :=
  let c := s.chan (16 * st + ch)
  let inSt (p : RankPower) : Nat := ((List.range 24).filter (fun r => c.rank r == p)).length
  if 96 ≤ st then 0
  else pack [(0, 6, c.eye.getD (if s.boot.trainedAt = 0 then 0 else 63)), (6, 12, satNat 12 ((s.cyc - max c.trnAt (s.boot.trainedAt - 1)) / 96000000000)), (18, 1, nat (c.mode == .nearBank)), (19, 5, inSt .down),
    (24, 5, inSt .selfRefresh), (29, 1, nat (s.stack st).sr), (30, 1, nat (c.throttles != [])), (31, 1, nat c.hotBank),
    (32, 6, c.hotIdx), (38, 16, c.alerts), (54, 8, c.caerr)]

/-- NBSTAT.MODE: entering for tNBE after NBE, near-bank, or leaving from NBX until NBRDY rises (06 R269, R226). -/
def Channel.nbMode (c : Channel) (now : Nat) : Nat :=
  match c.mode with
  | .conv => 0
  | .nearBank => if now < c.nbAt + 8 then 1 else 2
  | .leaving => 3

/-- NBSTAT of a channel. -/
def State.nbstat (s : State) (st ch : Nat) : Nat :=
  let k := 16 * st + ch
  let c := s.chan k
  let waits := c.mode == .nearBank && (c.readQ ++ c.writeQ).any (fun r => classOf r.who == 0)
  let busy := (List.range 16).filter (fun b => (s.cru (16 * k + b)).busy)
  if 96 ≤ st then 0
  else pack [(0, 2, c.nbMode s.cyc), (2, 1, nat c.nbrdy), (3, 1, nat c.lock.isSome), (4, 2, c.lastCtx), (6, 6, c.lastPart),
    (12, 1, nat waits), (13, 3, c.nrfPost), (16, 6, ((List.range 48).filter (fun j => (c.bank j).owed != [])).length),
    (22, 16, c.yields), (38, 10, satNat 10 c.maxWait), (48, 5, busy.length),
    (53, 1, nat ((s.hub (tileOfChan k)).rebuilds.any (fun r => r.chan == k)))]

/-! ### Engines (08 R337; 09 R382; 10 R434) -/

/-- MESTAT of a tile. -/
def State.mestat (s : State) (t : Nat) : Nat :=
  let m := s.mat t
  if (s.hub t).retired then 0
  else pack [(0, 21, (((List.range 21).filter (fun sl => !m.retired.contains sl)).map (fun sl => 2 ^ sl)).sum), (21, 5, m.serve.length),
    (26, 5, m.free.getD 31), (31, 1, nat m.testing.isSome), (32, 8, m.faults),
    (40, 7, (m.fpq.map (fun e : Nat × List Panel => e.2.length)).sum),
    (47, 1, nat (m.serve.all (fun sl => !m.ungated.contains sl))), (48, 2, match m.res with | some r => r.ctx | none => 0),
    (50, 1, nat m.res.isSome)]

/-- MEHOLD of a tile. -/
def State.mehold (s : State) (t : Nat) : Nat := pack [(0, 32, (s.mat t).conflict), (32, 32, (s.mat t).fpqHold)]

/-- VESTAT of a tile-local context. -/
def State.vestat (s : State) (t q : Nat) : Nat :=
  let c := 4 * t + q
  let f := s.vfile c
  let v := s.vec t
  if (s.hub t).retired then 0
  else pack [(0, 32, f.vpois.toNat), (32, 7, f.mpois.toNat / 2), (39, 5, (Tab.get (fun _ => []) (s.mat t).fpq q).length),
    (44, 6, s.share c 2), (50, 1, nat (v.runs.any (fun r => r.st.ctx == c))),
    (51, 1, nat (v.runs.any (fun r => r.st.ctx == c && r.redAny)))]

/-- VEHOLD of a tile. -/
def State.vehold (s : State) (t : Nat) : Nat := pack [(0, 32, (s.vec t).conflict), (32, 32, (s.vec t).fpqHold)]

/-- FCSTAT of a ferry channel. -/
def State.fcstat (s : State) (t ch : Nat) : Nat :=
  let f := s.fchan (16 * t + ch)
  if (s.hub t).retired then 0
  else pack [(0, 2, f.st), (2, 4, if f.st = 2 then f.fault else 0), (6, 1, nat f.ovlp), (7, 4, f.queue.length), (11, 6, f.part),
    (17, 14, f.tag), (31, 1, nat f.poison), (32, 32, f.lines)]

/-- FCADDR of a ferry channel. -/
def State.fcaddr (s : State) (t ch : Nat) : Nat :=
  let f := s.fchan (16 * t + ch)
  pack [(0, 48, f.addr), (48, 3, f.space), (51, 4, f.tile), (55, 6, f.module)]

/-- SPWIN of a tile-local context. -/
def State.spwin (s : State) (t q : Nat) : Nat :=
  let x := s.ctx (4 * t + q)
  pack [(0, 7, x.winBase), (8, 8, x.winSize), (16, 1, nat x.winClear)]

/-- SPSTAT of a tile. -/
def State.spstat (s : State) (t : Nat) : Nat :=
  let h := s.hub t
  pack [(0, 16, h.spCorr), (16, 16, h.spUnc), (32, 6, h.spBank), (38, 15, h.spWord)]

/-- FEHOLD of a ferry channel. -/
def State.fehold (s : State) (t ch : Nat) : Nat :=
  let f := s.fchan (16 * t + ch)
  pack [(0, 32, f.bankHold), (32, 32, f.ovWait)]

/-! ### Sequencer and translation (11 R470; 12 R505) -/

/-- SQSTAT.STATE: a context preserved with steps of it outstanding still shows running (11 R470; 18 R675). -/
def Ctx.stateCode (x : Ctx) : Nat :=
  match x.st with
  | .unbound => 0
  | .idle => 1
  | .running => 2
  | .halted => 3
  | .preserved => if x.outst = [] then 4 else 2

/-- SQSTAT of a module context. -/
def State.sqstat (s : State) (c : Nat) : Nat :=
  let x := s.ctx c
  if (s.hub (c / 4)).retired then 0
  else pack [(0, 3, x.stateCode), (3, 6, partNo x.part), (9, 24, x.next), (33, 3, x.stack.length), (36, 3, s.share c 1),
    (39, 4, s.share c 2), (43, 4, s.share c 3), (47, 3, s.share c 4), (50, 1, nat x.waitCm), (51, 1, nat x.waitQ), (52, 1, nat x.waitMb)]

/-- SQHALT of a module context: zero when it is not halted. -/
def State.sqhalt (s : State) (c : Nat) : Nat :=
  let x := s.ctx c
  if x.st = .halted then pack [(0, 8, x.reason), (8, 4, x.hfield), (12, 24, x.hstep)] else 0

/-- SQREG: register NUM of KIND, zero beyond the kind's range. -/
def State.sqreg (s : State) (c kind n : Nat) : Nat :=
  let x := s.ctx c
  match kind with
  | 0 => (Tab.get (fun _ => 0) x.x n).toNat
  | 1 => if n < 16 then (Tab.get (fun _ => 0) x.a n).toNat else 0
  | 2 => if n < 16 then (Tab.get (fun _ => 0) x.tl n).toNat else 0
  | _ => if n < 8 then let k := Tab.get cmDefault x.cm n; k.2.toNat + k.1 % 16 * 2 ^ 32 else 0

/-- TRSTAT of a tile. -/
def State.trstat (s : State) (t : Nat) : Nat :=
  let x := s.tran t
  pack [(0, 1, nat x.run.isSome), (1, 5, x.queue.length), (6, 6, match x.run with | some j => j.part | none => 0),
    (12, 6, match x.run with | some j => j.handle | none => 0), (18, 32, satNat 32 x.done), (50, 14, satNat 14 x.failed)]

/-! ### Port, partitions and links (14 R558; 15 R567, R597; 16 R634) -/

/-- PORTSTAT of a port. -/
def State.portstat (s : State) (p : Nat) : Nat :=
  let h := s.hport p
  pack [(0, 2, p), (2, 4, 4 * p), (6, 3, h.speed), (9, 5, h.width), (14, 1, nat h.flit), (15, 1, nat h.cache), (16, 1, nat h.mem),
    (17, 11, s.watchedOn p)]

/-- SUSTAT.STATE. -/
def PartState.code (x : PartState) : Nat :=
  match x with
  | .free => 0
  | .active => 1
  | .resetting => 2
  | .preserved => 3
  | .homeless => 4

/-- Service slots of a partition that are of interest. -/
def State.partSlots (s : State) (p : Nat) (f : Slot → Bool) : Nat :=
  (s.slots.filter (fun e : Nat × Slot => decide (e.1 < 7168) && e.2.owner == some p && f e.2)).length

/-- PTDAT of a partition. -/
def State.ptdat (s : State) (p : Nat) : Nat :=
  let q := s.part p
  pack [(0, 3, q.st.code), (3, 2, q.port), (5, 4, q.vf), (9, 1, nat q.keepflr),
    (10, 1, nat (s.slots.any (fun e : Nat × Slot => e.2.owner == some p && e.2.clearing))), (11, 13, s.partSlots p (fun _ => true)),
    (24, 2, s.partSlots p (fun x => x.cls == .shared)), (26, 13, s.partSlots p (fun x => x.cls == .devOnly))]

/-- PTCTX of a partition. -/
def State.ptctx (s : State) (p : Nat) : Nat := ((s.ctxsOf p).map (fun c => 2 ^ c)).sum

/-- A register of set-up page `k` (R566, R567); an offset that names none reads zero. -/
def State.readPage (s : State) (k off : Nat) : Nat :=
  let g := s.page k
  let part := s.partOfPage k
  if off = 0x000 then nat g.en
  else if off = 0x004 then
    pack [(0, 3, match part with | some p => (s.part p).st.code | none => 0), (3, 4, g.err), (7, 7, g.fetched.length), (14, 16, g.evlost)]
  else if off = 0x008 then
    match part with
    | some p => pack [(0, 6, p), (6, 2, k / 17), (8, 4, k % 17 - 1), (12, 13, s.partSlots p (fun _ => true)), (25, 7, (s.ctxsOf p).length)]
    | none => pack [(6, 2, k / 17), (8, 4, k % 17 - 1)]
  else if off = 0x00C then g.ringsz.toNat
  else if off = 0x010 then g.sqbase.toNat
  else if off = 0x018 then g.cqbase.toNat
  else if off = 0x020 then g.eqbase.toNat
  else if off = 0x028 then g.dbaddr.toNat
  else if off = 0x030 then g.rcaddr.toNat
  else if off = 0x038 then if flag g.mbxcfg.toNat 0 then (hpaBits g.mbxh2d.toNat).toNat else field g.mbxh2d.toNat 0 29
  else if off = 0x040 then g.mbxd2h.toNat
  else if off = 0x048 then g.mbxcfg.toNat
  else 0

/-- XLSTAT of a landing. -/
def State.xlstat (s : State) (l : Nat) : Nat :=
  let x := s.landing l
  pack [(0, 3, x.st), (3, 6, x.peer), (9, 4, x.peerL), (13, 2, ((List.range 26).filter (fun n => (x.lane n).st == 1)).length),
    (15, 11, x.unack.length), (26, 16, x.replays), (42, 16, x.uncw)]

/-- XLLANE of a physical lane. -/
def State.xllane (s : State) (l n : Nat) : Nat :=
  let x := (s.landing l).lane n
  if 26 ≤ n then 0 else pack [(0, 5, x.logical), (5, 2, x.st), (7, 32, x.corr)]

/-- GRPDAT2 with BUSY. -/
def State.grpdat2 (s : State) (g : Nat) : Nat :=
  let x := s.group g
  pack [(0, 29, x.dat2.toNat), (29, 1, nat (x.insts != []))]

/-! ### Clocks, power and start-up (17 R665; 18 R709; 13 R522) -/

/-- CLKSTAT of a tile. -/
def State.clkstat (s : State) (t : Nat) : Nat :=
  let h := s.hub t
  pack [(0, 2, match h.src with | .crystal => 0 | .internal => 1 | .host => 2 | .own => 3), (2, 1, nat h.lock), (3, 1, nat h.island),
    (4, 1, nat h.xamp), (5, 8, (Config.oscTrim t).toNat), (13, 1, nat h.switched)]

/-- CLKMON of a tile. -/
def State.clkmon (s : State) (t : Nat) : Nat :=
  let h := s.hub t
  pack [(0, 11, h.monLast), (11, 11, h.monMin), (22, 11, h.monMax), (33, 16, h.losses)]

/-- GATESTAT: the last command's result, and whether its gate-on still waits for admission (R652). -/
def State.gatestat (s : State) : Nat :=
  let held := match s.power.gateLast with
    | some (t, kind, m) => (s.hub t).wakeQ.any (fun w : Nat × Nat × Nat => w.1 == kind && w.2.1 == m)
    | none => false
  pack [(0, 3, s.power.gateStatus), (3, 1, nat held)]

/-- PGSTAT. -/
def State.pgstat (s : State) : Nat :=
  let p := s.power
  pack [(0, 16, p.avg), (16, 16, s.committedPower / 1280), (32, 8, p.capEff), (40, 1, nat p.m2), (41, 1, nat p.m3), (42, 16, p.m3cnt)]

/-- ADMSTAT of a tile. -/
def State.admstat (s : State) (t : Nat) : Nat :=
  let h := s.hub t
  let n (k : Nat) : Nat := (h.wakeQ.filter (fun w : Nat × Nat × Nat => w.1 == k)).length
  pack [(0, 4, n 0), (4, 7, n 1), (11, 5, n 2), (16, 1, nat h.capHeld), (17, 16, h.maxW)]

/-- Hottest die of a tile's stacks, with its local stack. -/
def State.hottestDie (s : State) (t : Nat) : Nat × Nat :=
  (List.range 6).foldl (fun m k =>
    let d := (s.stack (6 * t + k)).temps.foldl max 0
    if m.1 < d then (d, k) else m) (0, 0)

/-- THSTAT of a tile. -/
def State.thstat (s : State) (t : Nat) : Nat :=
  let h := s.hub t
  let d := s.hottestDie t
  pack [(0, 8, d.1), (8, 3, d.2), (11, 3, (List.range 6).foldl (fun m k => max m (s.stack (6 * t + k)).level) 0), (14, 8, h.hubT),
    (22, 1, nat (h.holdUngate || h.holdIssue))]

/-- COOLSTAT. -/
def State.coolstat (s : State) : Nat :=
  let p := s.power
  pack [(0, 10, p.tin), (10, 10, p.tout), (20, 10, p.flow), (30, 10, p.dp), (40, 1, nat p.coolFault)]

/-- BOOTSTAT. -/
def State.bootstat (s : State) : Nat :=
  let b := s.boot
  pack [(0, 4, b.phase), (4, 3, b.cause), (7, 1, nat b.storeBad), (8, 16, b.warmCnt),
    (24, 16, (s.lostTiles.map (fun t => 2 ^ t)).sum), (40, 4, b.lead)]

/-- PRSSTAT of a partition; 64 held completions read as 63. -/
def State.prsstat (s : State) (p : Nat) : Nat :=
  let q := s.part p
  pack [(0, 1, nat (q.st == .preserved)), (1, 3, q.cause), (4, 13, q.lostN), (17, 6, min 63 q.held.length)]

/-- FWSTAT. -/
def State.fwstat (s : State) : Nat :=
  let f := s.fw
  pack [(0, 1, nat f.active), (1, 1, nat f.staged), (2, 2, f.st), (4, 16, f.runver), (20, 16, f.stgver), (36, 8, f.svn), (44, 4, f.tile),
    (48, 3, f.result)]

/-- STRSTAT. -/
def State.strstat (s : State) : Nat :=
  let l := s.logs
  pack [(0, 17, l.tested), (17, 16, l.strFailed), (33, 16, l.skipped), (49, 1, nat l.strActive)]

/-- BBSTAT of a tile. -/
def State.bbstat (s : State) (t : Nat) : Nat :=
  let b := (s.hub t).bb
  pack [(0, 48, b.next), (48, 7, b.queue.length), (55, 1, nat b.gone)]

/-- BBWIN: word `k` of a slot as stored, zero where the black box is out of reach (19 R720). -/
def State.bbwin (s : State) (t slot k : Nat) : Nat :=
  let b := (s.hub t).bb
  if b.gone then 0 else bytesAt (Tab.get (fun _ => []) b.slots slot) (8 * k) 8

/-! ### The PF register region (14 R525) -/

/-- Word `k` of a log entry. -/
def logWord (t : Tab (List Word)) (e k : Nat) : Nat := ((Tab.get (fun _ => []) t e).getD k 0).toNat

/-- The blocks of the upper half: partitions, links, power, start-up and observation. -/
def State.readHigh (s : State) (p off : Nat) : Nat :=
  let pt := s.cfg rPTIDX 0 6
  let l := s.cfg rXLIDX 0 4
  let g := s.cfg rGRPIDX 0 6
  let t := s.cfg rCLKIDX 0 4
  let pr := s.cfg rPRSIDX 0 6
  let pm := s.counter (16 * s.cfg rPMIDX 0 4 + s.cfg rPMIDX 4 4)
  let bt := s.cfg rBBIDX 14 4
  if 0xB100 ≤ off ∧ off < 0xB140 then s.readPage (17 * p) (off - 0xB100)
  else if 0xF100 ≤ off ∧ off ≤ 0xF1F8 ∧ off % 8 = 0 then s.bbwin bt (s.cfg rBBIDX 0 14) ((off - 0xF100) / 8)
  else match off with
  | 0xB008 => s.ptdat pt
  | 0xB010 => s.ptctx pt
  | 0xC000 => pack [(0, 6, s.boot.modid), (6, 1, nat s.boot.newId.isSome), (16, 16, s.boot.dkey)]
  | 0xC010 => s.xlstat l
  | 0xC018 => s.xllane l (s.cfg rXLIDX 4 5)
  | 0xC024 => (s.route (s.cfg rXRTIDX 0 6)).toNat
  | 0xC02C => (s.admission (s.cfg rXADIDX 0 8)).toNat
  | 0xC038 => (s.group g).mods.toNat
  | 0xC040 => (s.group g).ctxs.toNat
  | 0xC048 => s.grpdat2 g
  | 0xD010 => s.clkstat t
  | 0xD018 => s.clkmon t
  | 0xD024 => s.gatestat
  | 0xD038 => s.pgstat
  | 0xD040 => s.admstat t
  | 0xD048 => s.thstat t
  | 0xD050 => s.coolstat
  | 0xE000 => s.bootstat
  | 0xE018 => (s.part pr).token.toNat
  | 0xE020 => s.prsstat pr
  | 0xE038 => s.fwstat
  | 0xE040 => s.strstat
  | 0xF008 => s.stamp
  | 0xF010 => s.tmap.d0
  | 0xF018 => s.tmap.h0
  | 0xF020 => wrapInt 32 s.tmap.rate
  | 0xF024 => pack [(0, 24, s.tmap.epoch), (24, 1, nat s.tmap.stale), (25, 2, s.tmap.port), (27, 1, nat s.tmap.valid)]
  | 0xF048 => (s.hport p).trace.tail.toNat
  | 0xF050 => (s.hport p).trace.drop
  | 0xF068 => pm.sel.toNat
  | 0xF070 => pm.count.toNat
  | 0xF088 => s.bbstat bt
  | _ => 0

/-- The blocks of the lower half: port, geometry, page code, stack controller, engines, sequencer, translation, split. -/
def State.readLow (s : State) (p off : Nat) : Nat :=
  let lf := s.cfg rLFIDX 0 10
  let el := s.cfg rELOGIDX 0 12
  let mt := s.cfg rMEIDX 0 4
  let vt := s.cfg rVEIDX 0 4
  let ft := s.cfg rFEIDX 0 4
  let fc := s.cfg rFEIDX 4 4
  let c := 4 * s.cfg rSQIDX 0 4 + s.cfg rSQIDX 4 2
  let tt := s.cfg rTRIDX 0 4
  if 0x1004 ≤ off ∧ off ≤ 0x1024 ∧ off % 4 = 0 then s.boot.hashMask.getD ((off - 0x1004) / 4) 0
  else if 0x0048 ≤ off ∧ off ≤ 0x0060 ∧ off % 8 = 0 then logWord s.logs.lflog lf ((off - 0x0048) / 8)
  else if 0x2028 ≤ off ∧ off ≤ 0x2040 ∧ off % 8 = 0 then logWord s.logs.elog el ((off - 0x2028) / 8)
  else match off with
  | 0x0000 => s.portstat p
  | 0x0034 => (Tab.get (fun _ => 0#32) (s.hport p).apt (field (s.reg p rAPTIDX) 0 4)).toNat
  | 0x0044 => pack [(0, 10, s.logs.lfhead), (10, 1, nat s.logs.lfwrap)]
  | 0x1000 => pack [(0, 1, nat s.boot.hashLock), (1, 1, nat s.boot.hashPend)]
  | 0x1040 => s.hilcfg p
  | 0x1048 => field (s.hport p).base 28 24 * 2 ^ 28
  | 0x1054 => s.pmapdat (s.cfg rPMAPIDX 0 13)
  | 0x1058 => s.rsvstat
  | 0x1068 => s.sprdat (s.cfg rSPRIDX 0 7)
  | 0x2000 => s.reg 0 rPCCFG + 4 * 16
  | 0x200C => pack [(0, 16, s.logs.pass), (16, 7, s.logs.progress)]
  | 0x2010 => s.logs.corrcnt
  | 0x2014 => s.logs.unccnt
  | 0x2024 => pack [(0, 12, s.logs.ehead), (12, 1, nat s.logs.ewrap)]
  | 0x3038 => s.scstat (s.cfg rSCIDX 0 7) (s.cfg rSCIDX 7 4)
  | 0x4010 => s.nbstat (s.cfg rNBIDX 0 7) (s.cfg rNBIDX 7 4)
  | 0x5010 => s.mestat mt
  | 0x5018 => s.mehold mt
  | 0x6008 => s.vestat vt (s.cfg rVEIDX 4 2)
  | 0x6010 => (s.vfile (4 * vt + s.cfg rVEIDX 4 2)).exc.toNat
  | 0x6018 => s.vehold vt
  | 0x7008 => s.fcstat ft fc
  | 0x7010 => s.fcaddr ft fc
  | 0x7018 => s.spwin ft (s.cfg rFEIDX 8 2)
  | 0x7020 => s.spstat ft
  | 0x7028 => s.fehold ft fc
  | 0x8008 => s.sqstat c
  | 0x8010 => s.sqhalt c
  | 0x8018 => (s.ctx c).haddr % 2 ^ 48
  | 0x8020 => s.sqreg c (s.cfg rSQIDX 6 2) (s.cfg rSQIDX 8 6)
  | 0x8028 => pack [(0, 32, (s.ctx c).miss), (32, 32, (s.ctx c).stall)]
  | 0x8030 => wrapInt 6 (s.hub (s.cfg rSQIDX 0 4)).shift
  | 0x9008 => s.tileTag tt
  | 0x9010 => s.trstat tt
  | 0xA010 => pack [(0, 16, s.power.pest), (16, 16, s.power.changes), (32, 16, s.power.atmax)]
  | _ => 0

/-- The register at `off`, by its index register, names a tile, landing, stack, slot or partition that NGM9-4608-LC has not (00 R3). -/
def State.namesAbsent (s : State) (off : Nat) : Bool :=
  s.half &&
    (if off = 0x1054 then decide (3584 ≤ s.cfg rPMAPIDX 0 13)
     else if off = 0x1068 then decide (48 ≤ s.cfg rSPRIDX 0 7)
     else if off = 0x3038 then decide (48 ≤ s.cfg rSCIDX 0 7)
     else if off = 0x4010 then decide (48 ≤ s.cfg rNBIDX 0 7)
     else if off = 0x5010 ∨ off = 0x5018 then decide (8 ≤ s.cfg rMEIDX 0 4)
     else if 0x6008 ≤ off ∧ off ≤ 0x6018 then decide (8 ≤ s.cfg rVEIDX 0 4)
     else if 0x7008 ≤ off ∧ off ≤ 0x7028 then decide (8 ≤ s.cfg rFEIDX 0 4)
     else if 0x8008 ≤ off ∧ off ≤ 0x8030 then decide (8 ≤ s.cfg rSQIDX 0 4)
     else if off = 0x9008 ∨ off = 0x9010 then decide (8 ≤ s.cfg rTRIDX 0 4)
     else if off = 0xB008 ∨ off = 0xB010 then decide (32 ≤ s.cfg rPTIDX 0 6)
     else if off = 0xC010 ∨ off = 0xC018 then decide (8 ≤ s.cfg rXLIDX 0 4)
     else if off = 0xD010 ∨ off = 0xD018 ∨ off = 0xD040 ∨ off = 0xD048 then decide (8 ≤ s.cfg rCLKIDX 0 4)
     else if off = 0xE018 ∨ off = 0xE020 then decide (32 ≤ s.cfg rPRSIDX 0 6)
     else if off = 0xF068 ∨ off = 0xF070 then decide (8 ≤ s.cfg rPMIDX 0 4)
     else decide (0xF088 ≤ off) && decide (off ≤ 0xF1F8) && decide (8 ≤ s.cfg rBBIDX 14 4))

/-- What the register at `off` of port `p`'s PF region reads as: its stored fields, or its status fields; an offset that
names no register reads zero (14 R525). PDRAIN and COHSTAT, whose reads change state, are commands of their own; GATECMD,
RSTCMD and FWCMD are write-only. -/
def State.readReg (s : State) (p off : Nat) : Nat :=
  if s.namesAbsent off then 0
  else match regRow off with
  | some _ => if off = rPCCFG then s.readLow p off else if off = rHILCFG then s.hilcfg p else s.reg p off
  | none => if off < 0xB000 then s.readLow p off else s.readHigh p off

end Sys2Proof.Machine
end

