-- ==== Sys2Proof/Tests/Slice0.lean ====
section
/-! SUPPORT. Tests of the model: ill-formed terms that the checks refuse, the worked examples of the spec, and for every statement with
hypotheses a state and operands that meet them, clause by clause at boundary values. -/

namespace Sys2Proof.Tests.Slice0

open Sys2Proof Sys2Proof.Machine

set_option Elab.async false
set_option linter.unusedVariables false

/-! ### States the tests start from -/

/-- In service, powered, otherwise as after reset. -/
def live : State := { State.reset with boot := { phase := 15 }, power := { on := true } }

/-- In service, the last channel as given. -/
def chanState (c : Channel) : State := { live with chans := [(1535, c)] }

/-- A fold over `bs` from the number `n`, every value worked out before the next byte. -/
def foldRun (f : Nat → Byte → Nat) (bs : List Byte) : Nat → Nat :=
  bs.foldr (fun b k n => match f n b with | 0 => k 0 | m + 1 => k (m + 1)) id

theorem foldRun_eq {w : Nat} (g : BitVec w → Byte → BitVec w) (bs : List Byte) : ∀ n < 2 ^ w,
    foldRun (fun n b => (g (BitVec.ofNat w n) b).toNat) bs n = (bs.foldl g (BitVec.ofNat w n)).toNat := by
  induction bs with
  | nil => intro n h; simp [foldRun, Nat.mod_eq_of_lt h]
  | cons b bs ih =>
    intro n h
    have e : foldRun (fun n b => (g (BitVec.ofNat w n) b).toNat) (b :: bs) n =
        foldRun (fun n b => (g (BitVec.ofNat w n) b).toNat) bs (g (BitVec.ofNat w n) b).toNat := by
      simp only [foldRun, List.foldr_cons]; split <;> simp_all
    rw [e, ih _ (BitVec.isLt _), List.foldl_cons, BitVec.ofNat_toNat, BitVec.setWidth_eq]

theorem crc16_of_run (bs : List Byte) (v : BitVec 16)
    (h : foldRun (fun n b => (crc16Byte (BitVec.ofNat 16 n) b).toNat) bs 65535 = v.toNat) : crc16 bs = v :=
  BitVec.eq_of_toNat_eq ((foldRun_eq crc16Byte bs 65535 (by decide)).symm.trans h)

/-- A flit of payload kind whose header's first sixteen bits are 4095, with its check. -/
def flitOne : BitVec 2048 := BitVec.ofNat 2048 (4095 + 60797 * 2 ^ 2032)

/-- The last partition, active on the last VF, and what the fields given say of it. -/
def partState (h : Handle) (x : Ctx) (n : Nat) : State :=
  { live with
    parts := [(63, { st := .active, port := 3, vf := 15, handles := [(63, h)] })]
    ctxs := [(63, x)]
    pages := [(67, { en := true, fetched := [{ data := BitVec.ofNat 512 n }] })] }

/-- A descriptor `n` on the admin ring of the last port. -/
def adminState (n : Nat) (ps : Tab Part) (x : Ctx) : State :=
  { live with parts := ps, ctxs := [(63, x)], pages := [(51, { en := true, fetched := [{ data := BitVec.ofNat 512 n }] })] }

/-- The first bytes of slot 0: three tensor descriptors of one element, of FP32, FP8 and INT32; a cargo record of 4608 groups, each of
one slice of one block; a berth record of tile 15, its cargoes in slot 15. -/
def image : List Host.Cell :=
  [(16, 1), (20, 1), (24, 1), (28, 1), (32, 4), (6442451079, 4), (6442451088, 1), (6442451092, 1), (6442451096, 1), (6442451100, 1),
   (6442451104, 1), (12884902151, 1), (12884902160, 1), (12884902164, 1), (12884902168, 1), (12884902172, 1), (12884902176, 4),
   (19327353225, 18), (19327353228, 1), (19327353232, 1), (19327353236, 1), (25769804348, 15), (25769804351, 128), (25904022081, 1),
   (25904022082, 1)]

/-- The last context runs a manifest whose step 0 is `w`, in the step cache. -/
def stepState (w : Nat) : State :=
  { live with
    mem := image
    parts := [(63, { st := .active, port := 3, vf := 15 })]
    pages := [(67, { en := true, ringsz := 0x40404, mbxcfg := 1 })]
    ctxs := [(63, { st := .running, part := some 63, winSize := 128, x := [(0, 1)]
                    man := { nstep := 3, nchain := 1, chains := 448, ndesc := 3, ncargo := 1, cargos := 384, berths := 512, nberth := 1
                             splits := 768, nsplit := 1, cfgtag := 0x14F0102 }
                    cache := [(0, some (BitVec.ofNat 256 w, false))] })] }

/-- The parts of `StepReady`, worked out. -/
def stepOk (s : State) (c eng op w : Nat) : Bool :=
  let x := s.ctx c
  x.st == .running && !x.pend && x.access.isNone &&
  (match Tab.get (fun _ => none) x.cache x.next with | some e => e.1.toNat == w && !e.2 | none => false) &&
  (s.decodeHalt c w).isNone && stepEng w == eng && stepOp w == op && x.waitMet w s.seqCycle && x.distMet w s.seqCycle &&
  decide (x.lastIssue ≤ s.seqCycle) && (eng == 0 || decide (s.share c eng < shareOf eng)) &&
  (eng == 0 || !(s.hub (tileOfCtx c)).holdIssue) && (eng == 0 || !s.sizeZero c w)

theorem stepReady_of_ok (s : State) (c eng op w : Nat) (h : stepOk s c eng op w = true) : StepReady s c eng op w := by
  simp only [stepOk, Bool.and_eq_true, Bool.or_eq_true, beq_iff_eq, Bool.not_eq_true', decide_eq_true_eq, Option.isNone_iff_eq_none] at h
  obtain ⟨⟨⟨⟨⟨⟨⟨⟨⟨⟨⟨⟨h1, h2⟩, h3⟩, h4⟩, h5⟩, h6⟩, h7⟩, h8⟩, h9⟩, h10⟩, h11⟩, h12⟩, h13⟩ := h
  refine ⟨h1, h2, h3, ?_, h5, h6, h7, h8, h9, h10, h11, h12, h13⟩
  split at h4
  · rename_i e he
    simp only [Bool.and_eq_true, beq_iff_eq, Bool.not_eq_true'] at h4
    exact ⟨e.1, by rw [he, ← h4.2], h4.1⟩
  · simp at h4

/-- The last context's near-bank step runs, and the last channel is as given. -/
def nbState (r : NbRun) (c : Channel) : State :=
  { stepState 0 with chans := [(1535, c)], ctxs := [(63, { (stepState 0).ctx 63 with nbrun := some r })] }

/-- The last tile's matrix engine as given, its engines ungated, a million cycles in. -/
def meState (m : Matrix) : State := { live with cyc := 1000000, me := [(15, m)], hubs := [(15, { engines := [0, 1, 2] })] }

/-- The last tile's vector engine as given. -/
def veState (v : Vector) : State := { live with ve := [(15, v)], hubs := [(15, { engines := [0, 1, 2] })], ctxs := [(60, { st := .running })] }

/-- The last tile's last ferry channel as given. -/
def feState (f : FeChan) (ov : Option Nat) : State := { live with fe := [(255, f)], hubs := [(15, { engines := [0, 1, 2], overlap := ov })] }

/-- The last landing up and routed to module 63, whose requests as its partition 63 the last admission entry lets reach the last
partition here. -/
def remState : State :=
  { live with
    lands := [(15, { st := 2 })]
    routes := [(63, 0x4000F)]
    admits := [(255, BitVec.ofNat 32 (2 ^ 19 + 2 ^ 18 + 63 * 2 ^ 12 + 63 * 2 ^ 6 + 63))]
    slots := [(0, { owner := some 63 })]
    ctxs := [(63, { st := .idle, part := some 63, winSize := 128 })]
    parts := [(63, { st := .active, port := 3, vf := 15 })] }

/-- A group of the last context and module 63, owned by the last partition, with its instances. -/
def groupState (w : Nat) (l : List Inst) : State :=
  { stepState w with
    lands := [(15, { st := 2 })]
    groups := [(63, { mods := 2 ^ 63 + 1, ctxs := 2 ^ 63, dat2 := BitVec.ofNat 32 (0xFFFF + 63 * 2 ^ 16 + 2 ^ 22), insts := l })] }

/-- Channel of the line at service address 4032. -/
def lineChan : Nat := chanOfBank (live.locate 4032).moduleBank

/-- In service, the last port committed, and the row of the line at 4032 open. -/
def lineOpen : State :=
  { live with
    regs := [(rCOHCFG, 0)]
    ports := [(3, { mem := true, agree := true })]
    chans := [(lineChan, { banks := [((live.locate 4032).moduleBank % 48, { row := some (live.locate 4032).row })] })] }

/-- The parts of `ReadsAtOnce`, worked out. -/
def atOnceOk (s : State) (ch who j row : Nat) : Bool :=
  let c := s.chan ch
  s.conventional ch && !c.recentreDue && !s.nbsPending ch && c.readQ == [] && c.writeQ == [] && c.waitNbs == [] &&
    !(s.stack (ch / 16)).hold && !s.masked c who && decide (0 < s.burstOf who) && (c.bank j).row == some row

theorem atOnce_of_ok (s : State) (ch who j row : Nat) (h : atOnceOk s ch who j row = true) : ReadsAtOnce s ch who j row := by
  simp only [atOnceOk, Bool.and_eq_true, Bool.not_eq_true', beq_iff_eq, decide_eq_true_eq] at h
  obtain ⟨⟨⟨⟨⟨⟨⟨⟨⟨h1, h2⟩, h3⟩, h4⟩, h5⟩, h6⟩, h7⟩, h8⟩, h9⟩, h10⟩ := h
  exact { conv := h1, centred := h2, nbs := h3, reads := h4, writes := h5, waiters := h6, held := h7, quota := h8, burst := h9, isOpen := h10 }

/-- A channel that `chanState` does not give is as after reset. -/
theorem chan_other (c : Channel) (k : Nat) (h : k ≠ 1535) : (chanState c).chan k = {} := by
  simp [State.chan, chanState, Tab.get, Ne.symm h]

theorem chan_other_slots (c : Channel) (l : Tab Slot) (k : Nat) (h : k ≠ 1535) : ({ chanState c with slots := l } : State).chan k = {} :=
  chan_other c k h

/-- The line at 4032 is shared and at its home, whose snoop filter is full of other lines. -/
def fullDir : State :=
  { live with
    ports := [(3, { mem := true, agree := true })], slots := [(0, { cls := .shared })], lines := [(63, {})]
    dirs := [(live.homeOf 4032, List.replicate dirSize { line := 1 })] }

theorem fullDir_dir : fullDir.dir (fullDir.homeOf 4032) = { line := 1 } :: List.replicate (dirSize - 1) { line := 1 } := by
  have h : fullDir.homeOf 4032 = live.homeOf 4032 := by decide +kernel
  rw [h, ← List.replicate_succ]
  show Tab.get _ [(live.homeOf 4032, List.replicate dirSize _)] _ = _
  unfold Tab.get
  rfl

theorem fullDir_lines : ∀ x ∈ ({ line := 1 } : Dir) :: List.replicate (dirSize - 1) { line := 1 }, x.line ≠ 4032 / 64 := by
  intro x h
  rw [← List.replicate_succ] at h
  rw [List.eq_of_mem_replicate h]
  decide

/-- A portable image of one END step, for tile 15. -/
def program : List Byte :=
  leBytes 4 0x4650474E ++ leBytes 2 1 ++ [8, 0] ++ leBytes 4 1 ++ List.replicate 24 0 ++ [15, 1] ++ List.replicate 10 0 ++
    leBytes 8 112 ++ leBytes 4 1678111194 ++ List.replicate 4 0 ++ 16 :: List.replicate 47 0

/-- Its translation: a first wait for each of its four pairs, then the END. -/
def native : List (BitVec 256) := (List.range 4).map (fun k => BitVec.ofNat 256 (2 ^ 15 + (4 + k) * 2 ^ 12 + 2 ^ 16)) ++ [16]

theorem program_header : badHeader program = false := by
  have h : crc32c (program.take 56 ++ [0, 0, 0, 0] ++ program.drop 60) = 1678111194#32 :=
    BitVec.eq_of_toNat_eq (by
      unfold crc32c
      rw [show (0xFFFFFFFF#32) = BitVec.ofNat 32 4294967295 from rfl, BitVec.toNat_not, ← foldRun_eq _ _ _ (by decide)]
      decide +kernel)
  unfold badHeader
  rw [h]
  decide +kernel

/-- What the checks of `program` still ask, its header being good. -/
theorem loadFault_program (s : State) {j : LoadJob} (hj : j = { part := 63, image := program })
    (h : (decide ((s.hub 15).retired = false) && (s.recordFault 63 (pheader program) program).isNone &&
      (s.programFault 63 (pheader program) program (s.tileTag 15)).isNone &&
      (s.placeImage 63 15 ((pheader program).native program 5)).isSome) = true) : s.loadFault j (some native) = none := by
  have hp : (pheader program).tile = 15 ∧ (pheader program).winmin = 1 := by decide +kernel
  simp only [Bool.and_eq_true, decide_eq_true_eq, Option.isNone_iff_eq_none] at h
  obtain ⟨⟨⟨h1, h2⟩, h3⟩, h4⟩ := h
  subst hj
  have hn : native.length = 5 := by decide
  simp [State.loadFault, program_header, hp.1, hp.2, h1, h2, h3, hn]
  intro e; simp [e] at h4

/-! ### Well-formedness: an ill-formed term for each check -/

/-- A report of a start-up with 64 tokens and nothing wrong. -/
def goodReport : BootReport := { tokens := List.replicate 64 0 }

theorem test_report_ok : (Instr.powerOn goodReport).wellFormed = true := by decide +kernel
theorem test_report_tokens : (Instr.powerOn { goodReport with tokens := [] }).wellFormed = false := by decide +kernel
theorem test_report_verify : (Instr.warmReset { goodReport with badVerify := [16] }).wellFormed = false := by decide +kernel
theorem test_report_self : (Instr.powerReturn { goodReport with badSelf := [16] }).wellFormed = false := by decide +kernel
theorem test_report_sweeps : (Instr.watchdogExpiry 0 { goodReport with sweeps := [(0, List.replicate 5 [])] }).wellFormed = false := by decide +kernel
theorem test_report_rows : (Instr.powerOn { goodReport with badSpareRows := [(73728, 0)] }).wellFormed = false := by decide +kernel
theorem test_report_parcels : (Instr.powerOn { goodReport with badParcels := [8192] }).wellFormed = false := by decide +kernel
theorem test_report_tiles : (Instr.powerOn { goodReport with lostTiles := [16] }).wellFormed = false := by decide +kernel
theorem test_report_slices : (Instr.powerOn { goodReport with badSlices := [(0, 21)] }).wellFormed = false := by decide +kernel
theorem test_tokens : (Instr.powerFail 0 []).wellFormed = false ∧ (Instr.portLinkDown 0 []).wellFormed = false ∧
    (Instr.hotReset 0 0 []).wellFormed = false ∧ (Instr.perstAssert 0 []).wellFormed = false := by decide +kernel
theorem test_temps : (Instr.dieTempSample 0 []).wellFormed = false ∧ (Instr.dieTempSample 0 (List.replicate 26 0)).wellFormed = false := by decide
theorem test_masks : (Instr.hashRecordWrite []).wellFormed = false := by decide
theorem test_lanes : (Instr.landingTrain 0 0 0 0 [25, 25]).wellFormed = false := by decide
theorem test_lines : (Instr.remoteWr 0 0x20 [0]).wellFormed = false ∧ (Instr.rdr 0 0x50 (List.replicate 5 0)).wellFormed = false := by decide
theorem test_gop_marks : (Instr.gop 0 0 0 0 0 false 0 0 0 0 0 false false [0] []).wellFormed = false := by decide

/-! ### The spec's worked examples -/

/-- 02 "Worked example": port H2 at position 2 of four, granule 4 KiB, base 0x4000_0000_0000. -/
def portTwo : State :=
  { live with ports := [(2, { iw := 2, ig := 4, base := 0x400000000000 })], regs := [(3 * 0x100000 + rHILCFG, 0x200)] }

/-- 02 "Worked example": HPA 0x4123_4567_A9C0 is service address 0x0123_4567_A9C0 there. -/
theorem test_host_interleave : portTwo.hostSa 2 0x41234567A9C0 = some 0x01234567A9C0 := by decide +kernel

/-- 02 "Worked example": its port DPA. -/
theorem test_port_dpa : portDpa 0x1000 4 0x01234567A9C0 = 0x0048D159E9C0 := by decide +kernel

/-- 02 "Worked example": its slot, its offset and its place: T11, S3, channel 15, rank 21, bank bit 1, row 8278, columns from 14. -/
theorem test_locate : 0x01234567A9C0 / slotBytes = 1035 ∧ 0x01234567A9C0 % slotBytes = 0x2D67A9C0 ∧ (live.slot 1035).phys = 5696 ∧
    live.locate 0x01234567A9C0 = { tile := 11, stack := 3, chan := 15, rank := 21, bank := 1, row := 8278, col := 14, byte := 0 } ∧
    (live.locate 0x01234567A9C0).moduleBank = 53755 := by decide +kernel

/-- 04 "Worked example": an alert on row 8278 names rows 8150, 8214, 8342 and 8406. -/
theorem test_neighbours : ∀ r ∈ [8150, 8214, 8342, 8406], (r % 64, r / 64) ∈ neighbourWords (8278 % 64) (8278 / 64) := by decide

/-- 06 "Worked example": 2^24, 1.0 and -2^24 summed exactly drain as 1.0. -/
theorem test_sum_buffer :
    (Lane.drain (Tab.get (fun _ => {}) (((({} : SumBuf).addGroup false [0x4B800000]).addGroup false [0x3F800000]).addGroup false
      [0xCB800000]).lanes 0) false).1 = 0x3F800000 := by decide +kernel

/-- 07 "Worked example": the weight at SA 0x00B6_40A2_F328 lies on T8, S0, channel 3, rank 6, and on rank 2 once slot 648 is in band 41. -/
theorem test_weight_place : (live.locate 0x00B640A2F328).rank = 6 ∧ (live.locate 0x00B640A2F328).chan = 3 ∧
    (State.locate { live with slots := [(648, { phys := 8 * 512 + 41 })] } 0x00B640A2F328).rank = 2 := by decide +kernel

/-- 08 "Worked example": 16 waves of 8192 cycles, strips of 2 MiB and 1 MiB. -/
theorem test_waves : wavesOf 2 20 2048 2560 = 16 ∧ kcOf 3 16384 = 8192 ∧ stripBytes 8 16384 = 2097152 ∧ stripBytes 4 16384 = 1048576 := by
  decide +kernel

/-- 12 "Worked example": for FMT 0, M = N = 128, K = 1024 the translator chooses ARR 2. -/
theorem test_arrangement : chooseArr (1 + (127 + 127 * 2 ^ 16 + 31 * 2 ^ 32 + 7 * 2 ^ 50) * 2 ^ 64) 20 = 2 := by decide +kernel

/-- 11 and 13 "Worked example": the bank shares of their splits. -/
theorem test_split : bankShare (16, 8, 32) 2 256 true = 72 ∧ bankShare (0, 0, 16) 1 384 true = 6 ∧ bankShare (0, 0, 16) 2 384 true = 12 := by
  decide

/-- 13 "Worked example": a window at 8.72 kW moves SHIFT from 0 to 1. -/
theorem test_shift : (State.estimate { live with act := [(0, 362500000), (2, 3436089)] } = 872) ∧
    (match exec .governorWindowEnd { live with act := [(0, 362500000), (2, 3436089)] } with | .next t => (t.hub 5).shift | _ => 0) = 1 := by
  decide +kernel

/-- 00 R3: NGM9-4608-LC has tiles T0 to T7, PGCFG.CAP at 92 and a coolant fault's limit of 1.0 kW. -/
theorem test_half : State.resetHalf.liveTiles = List.range 8 ∧ State.resetHalf.cfg rPGCFG 0 8 = 92 ∧ State.resetHalf.faultCap = 20 := by decide +kernel

/-- 10 "Worked example": the step collides 3 times and takes 53 cycles. -/
theorem test_scatter :
    let e : FeStep :=
      { ctx := 25, op := 3, src := { rank := 1, sizes := [64, 6, 1, 1], strides := [4, 256, 0, 0], base := 0x401800 }
        dst := { rank := 1, sizes := [64, 4, 1, 1], strides := [4, 256, 0, 0], base := 0x400000 }
        idx := some { typ := 1, sizes := [6, 1, 1, 1], strides := [4, 0, 0, 0], base := 0x402E80 }, gdim := 1, acc := 1 }
    let s := live.spWrite 6 0x402E80 ([3, 1, 3, 0, 3, 1].flatMap (leBytes 4)) false
    s.collisions e = 3 ∧ s.ferryNeed e 6 = 53 := by decide +kernel

/-- 15 "Worked example": the completion of the START with TAG 0xA17 at ring index 0xC05. -/
theorem test_completion : Completion.bytes { tag := 0xA17, value := 8000, ctx := 12 } (phaseOf 0xC05 10) =
    [0x17, 0x0A, 0, 0, 0, 0, 1, 0, 0x40, 0x1F, 0, 0, 0, 0, 0, 0x0C] := by decide +kernel

/-- 17 "Worked example": 1440 channels and 220 slices commit 10,206.25 W, in units of 1/128 W. -/
theorem test_committed : State.committedPower { live with
    chans := (List.range 1440).map (fun c => (c, { mode := .nearBank })), me := (List.range 11).map (fun t => (t, { ungated := List.range 20 })) } =
    10206 * 128 + 32 := by decide +kernel

/-- 05 "Worked example": block 1 of slot 0, the sum -3.2490234375 scaled by 2^-2 into 2,757,504.0, gives 2,757,503.25. -/
theorem test_fold : foldLane 0 0x7D (.fin (-3327 * 32768)) 0x4A284E00 = (0x4A284DFD, false) := by decide +kernel

/-- The table gives no row bits, so no word spells a command. -/
theorem test_decode_table : decodeTableWord 32 0 = none := by decide

/-! ### States that meet the hypotheses of the statements, clause by clause -/

/-- The hypotheses of `Obligations.ConventionalCommandsComplete`, clause by clause. -/
theorem witness_ConventionalCommandsComplete :
    (∃ (s : State) (ch : Fin 1536) (rank : BitVec 5) (bank : Bool) (row : BitVec 16) (who : BitVec 5) (j rk : Nat), j = 2 * rank.toNat + nat bank ∧ rk
      = rowKey (bankOf ch j) row.toNat ∧ rank.toNat < 24 ∧ s.serves ch = true ∧ (s.chan ch).rank rank.toNat = .awake ∧ ((s.chan ch).bank j).row = none
      ∧ s.mayActivate ch j who.toNat = true) ∧
    (∃ (s : State) (ch : Fin 1536) (rank : BitVec 5) (bank both : Bool) (j : Nat), j = 2 * rank.toNat + nat bank ∧ rank.toNat < 24 ∧ s.conventional ch
      = true ∧ (s.chan ch).rank rank.toNat = .awake) ∧
    (∃ (s : State) (ch : Fin 1536) (rank : BitVec 5) (bank : Bool) (j : Nat) (b : Bank), j = 2 * rank.toNat + nat bank ∧ b = (s.chan ch).bank j ∧
      rank.toNat < 24 ∧ s.conventional ch = true ∧ (s.chan ch).rank rank.toNat = .awake ∧ b.row = none ∧ (0 < b.postponed ∨ b.early < 4)) ∧
    (∃ (s : State) (ch : Fin 1536) (rank : BitVec 5) (allr : Bool) (reg value : BitVec 8), rank.toNat < 24 ∧ s.conventional ch = true) ∧
    (∃ (s : State) (ch : Fin 1536) (rank : BitVec 5) (reg : BitVec 8), rank.toNat < 24 ∧ s.conventional ch = true) ∧
    (∃ (s : State) (ch : Fin 1536) (rank : BitVec 5) (bank ap : Bool) (col : BitVec 6) (j r rk : Nat), j = 2 * rank.toNat + nat bank ∧ rk = rowKey
      (bankOf ch j) r ∧ rank.toNat < 24 ∧ s.conventional ch = true ∧ ((s.chan ch).bank j).row = some r ∧ s.columnAsks rk col.toNat = false) ∧
    (∃ (s : State) (ch : Fin 1536) (rank : BitVec 5) (bank ap : Bool) (col : BitVec 6) (j r rk : Nat), j = 2 * rank.toNat + nat bank ∧ rk = rowKey
      (bankOf ch j) r ∧ rank.toNat < 24 ∧ s.conventional ch = true ∧ ((s.chan ch).bank j).row = some r ∧ s.columnAsks rk col.toNat = true) :=
  ⟨⟨live, 1535, 23, true, 0xFFFF, 31, _, _, rfl, rfl, by decide +kernel⟩,
    ⟨live, 1535, 23, true, true, _, rfl, by decide +kernel⟩,
    ⟨live, 1535, 23, true, _, _, rfl, rfl, by decide +kernel⟩,
    ⟨live, 1535, 23, true, 255, 255, by decide +kernel⟩,
    ⟨live, 1535, 23, 255, by decide +kernel⟩,
    ⟨chanState { banks := [(47, { row := some 0xFFFF })] }, 1535, 23, true, true, 63, _, 0xFFFF, _, rfl, rfl, by decide +kernel⟩,
    ⟨{ chanState { banks := [(47, { row := some 0xFFFF })] } with rows := [(rowKey (bankOf 1535 47) 0xFFFF, { tag := 0xFFFF, errs := [63 * 272] })] },
      1535, 23, true, true, 63, _, 0xFFFF, _, rfl, rfl, by decide +kernel⟩⟩

/-- The hypotheses of `Obligations.ColumnWriteStoresOneColumn`, clause by clause. -/
theorem witness_ColumnWriteStoresOneColumn :
    ∃ (s : State) (ch : Fin 1536) (rank : BitVec 5) (bank ap : Bool) (col : BitVec 6) (data : BitVec 256) (j r rk : Nat), j = 2 * rank.toNat + nat
      bank ∧ rk = rowKey (bankOf ch j) r ∧ rank.toNat < 24 ∧ s.conventional ch = true ∧ ((s.chan ch).bank j).row = some r ∧ s.badTag rk = false ∧
      s.columnAsks rk col.toNat = false :=
  ⟨chanState { banks := [(47, { row := some 0xFFFF })] }, 1535, 23, true, true, 63, 0, _, 0xFFFF, _, rfl, rfl, by decide +kernel⟩

/-- The hypotheses of `Obligations.IgnoredChannelCommands`, clause by clause. -/
theorem witness_IgnoredChannelCommands :
    (∃ (s : State) (ch : Fin 1536) (rank : BitVec 5) (bank both ap : Bool) (row : BitVec 16) (col : BitVec 6) (who : BitVec 5) (allr : Bool) (reg
      value : BitVec 8) (data : BitVec 256), ∃ c, 24 ≤ rank.toNat ∧ c ∈ [Instr.act ch rank bank row who, .pre ch rank bank both, .ref ch rank bank,
      .mrw ch rank allr reg value, .mrr ch rank reg, .rd ch rank bank col ap, .wr ch rank bank col ap data]) ∧
    (∃ (s : State) (ch : Fin 1536) (rank : BitVec 5) (bank ap : Bool) (row : BitVec 16) (col : BitVec 6) (who : BitVec 5) (data : BitVec 256), ∃ c,
      rank.toNat < 24 ∧ (s.chan ch).mode = .nearBank ∧ c ∈ [Instr.act ch rank bank row who, .pre ch rank bank false, .ref ch rank bank, .rd ch rank
      bank col ap, .wr ch rank bank col ap data]) :=
  ⟨⟨live, 1535, 24, true, true, true, 0, 0, 0, true, 0, 0, 0, .rd 1535 24 true 0 true, by decide +kernel⟩,
    ⟨chanState { mode := .nearBank }, 1535, 23, true, true, 0, 0, 0, 0, .wr 1535 23 true 0 true 0, by decide +kernel⟩⟩

/-- The hypotheses of `Obligations.QueuesAndGrantsComplete`, clause by clause. -/
theorem witness_QueuesAndGrantsComplete :
    (∃ (s : State) (ch : Fin 1536) (who : BitVec 5) (part : Option (Fin 64)) (j : Fin 48) (row : BitVec 16) (pair : BitVec 5) (write : Bool) (data :
      BitVec 512) (mask : BitVec 64) (poison : Bool), s.hasRoom ch write = true) ∧
    (∃ (s : State) (ch : Fin 1536) (who : BitVec 5) (part : Option (Fin 64)) (j : Fin 48) (row : BitVec 16) (pair : BitVec 5) (write : Bool) (data :
      BitVec 512) (mask : BitVec 64) (poison : Bool), s.hasRoom ch write = false) ∧
    (∃ (s : State) (ch : Fin 1536) (who : Nat), s.serves ch = true ∧ s.nbsPending ch = false ∧ s.nextGrant ch [] = some who) ∧
    (∃ (s : State) (ch : Fin 1536), s.serves ch = true ∧ s.nbsPending ch = false ∧ s.nextGrant ch [] = none) ∧
    (∃ (s : State) (ch : Fin 1536), s.conventional ch = true ∧ s.drainAsked ch = false ∧ s.inForce 0 rSCHCFG 16 6 ≤ (s.chan ch).writeQ.length ∧ (∀ w ∈
      (s.chan ch).writeQ, (s.chan ch).behind ch w = false)) ∧
    (∃ (s : State) (ch : Fin 1536), s.conventional ch = true ∧ s.drainAsked ch = true ∧ (∀ w ∈ (s.chan ch).writeQ, (s.chan ch).behind ch w = false)) ∧
    (∃ (s : State) (ch : Fin 1536) (i : Fin 64) (q : Req), s.conventional ch = true ∧ (s.chan ch).readQ[i.val]? = some q ∧ (s.chan ch).covered ch q ≠
      0 ∧ (s.chan ch).covered ch q ≠ BitVec.allOnes 64 ∧ s.canServe ch q = true) ∧
    (∃ (s : State) (ch : Fin 1536) (j : Fin 48), s.conventional ch = true ∧ (((s.chan ch).readQ ++ (s.chan ch).writeQ).any (fun q => q.bank == j.val
      && ((s.chan ch).bank j).row == some q.row) = false)) :=
  ⟨⟨chanState { readQ := List.replicate 63 {}, writeQ := List.replicate 63 {} }, 1535, 31, some 63, 47, 0xFFFF, 31, true, 0, 0, true,
      by decide +kernel⟩,
    ⟨chanState { readQ := List.replicate 64 {} }, 1535, 31, some 63, 47, 0xFFFF, 31, false, 0, 0, true, by decide +kernel⟩,
    ⟨chanState { readQ := [{ who := 27 }] }, 1535, 27, by decide +kernel⟩,
    ⟨live, 1535, by decide +kernel⟩,
    ⟨chanState { writeQ := List.replicate 64 { write := true } }, 1535, by decide +kernel⟩,
    ⟨chanState { waitNbs := [8], writeQ := [{ write := true }] }, 1535, by decide +kernel⟩,
    ⟨chanState { readQ := List.replicate 64 { seq := 1 }, writeQ := [{ write := true, mask := 1 }] }, 1535, 63, { seq := 1 }, by decide +kernel⟩,
    ⟨live, 1535, 47, by decide +kernel⟩⟩

/-- The hypotheses of `Obligations.RefreshAndAlertsComplete`, clause by clause. -/
theorem witness_RefreshAndAlertsComplete :
    (∃ (s : State) (ch : Fin 1536) (j : Fin 48) (postpone : Bool) (b : Bank), b = (s.chan ch).bank j ∧ (s.chan ch).rank (j.val / 2) ≠ .selfRefresh ∧
      (s.stack (ch.val / 16)).sr = false ∧ (s.chan ch).mode = .conv) ∧
    (∃ (s : State) (ch : Fin 1536) (j : Fin 48) (postpone : Bool), ((s.chan ch).rank (j.val / 2) = .selfRefresh ∨ (s.stack (ch.val / 16)).sr = true)) ∧
    (∃ (s : State) (ch : Fin 1536) (j : Fin 48) (r : Nat), ((s.chan ch).bank j).alert = some r ∧ (s.chan ch).mode = .conv) ∧
    (∃ (s : State) (ch : Fin 1536) (j : Fin 48) (r : Nat), ((s.chan ch).bank j).alert = some r ∧ (s.chan ch).mode ≠ .conv) ∧
    (∃ (s : State) (ch : Fin 1536) (column write : Bool) (word : BitVec 28) (data : BitVec 272) (who : BitVec 5) (line : Nat) (path : Fin 10) (n :
      Nat), (((s.chan ch).caHeld = none ∧ n = 1) ∨ (∃ y : BusCmd, (s.chan ch).caHeld = some y ∧ n = y.fails + 1 ∧ n < 3 ∧ y.column = column ∧ y.word =
      word.toNat ∧ y.line = line ∧ y.who = who.toNat))) ∧
    (∃ (s : State) (ch : Fin 1536) (column : Bool) (word : BitVec 28) (data : BitVec 272) (who : BitVec 5) (line : Nat) (path : Fin 10) (y : BusCmd),
      (s.chan ch).caHeld = some y ∧ 2 ≤ y.fails ∧ y.column = column ∧ y.word = word.toNat ∧ y.line = line ∧ y.who = who.toNat) ∧
    (∃ (s : State) (ch : Fin 1536) (column : Bool) (word : BitVec 28) (data : BitVec 272) (who : BitVec 5) (line : Nat) (path : Fin 10) (y : BusCmd),
      (s.chan ch).caHeld = some y ∧ 2 ≤ y.fails ∧ y.column = column ∧ y.word = word.toNat ∧ y.line = line ∧ y.who = who.toNat) ∧
    (∃ (s : State) (ch : Fin 1536) (accepted : Bool), (s.chan ch).caHeld = none) ∧
    (∃ (s : State) (ch : Fin 1536) (x : BusCmd), (s.chan ch).caHeld = some x ∧ x.fails < 2) ∧
    (∃ (s : State) (ch : Fin 1536) (x : BusCmd) (q : Req), (s.chan ch).caHeld = some x ∧ dieRejects x.column x.word = false ∧ (s.chan ch).servedBy ch
      x = some q ∧ x.write = false ∧ s.serves ch = true ∧ s.canServe ch q = true) ∧
    (∃ (s : State) (ch : Fin 1536) (x : BusCmd) (q : Req), (s.chan ch).caHeld = some x ∧ dieRejects x.column x.word = false ∧ (s.chan ch).servedBy ch
      x = some q ∧ x.write = true ∧ s.serves ch = true ∧ (s.chan ch).behind ch q = false) ∧
    (∃ (s : State) (ch : Fin 1536) (x : BusCmd) (s1 : State), (s.chan ch).caHeld = some x ∧ dieRejects x.column x.word = false ∧ (s.chan ch).servedBy
      ch x = none ∧ (s1 = s.modChan ch (fun c => { c with caHeld := none }))) :=
  ⟨⟨live, 1535, 47, true, _, rfl, by decide +kernel⟩,
    ⟨{ live with stks := [(95, { sr := true })] }, 1535, 47, true, by decide +kernel⟩,
    ⟨chanState { banks := [(47, { alert := some 0xFFFF })] }, 1535, 47, 0xFFFF, by decide +kernel⟩,
    ⟨chanState { mode := .nearBank, banks := [(47, { alert := some 0xFFFF })] }, 1535, 47, 0xFFFF, by decide +kernel⟩,
    ⟨live, 1535, true, true, 0, 0, 31, 0, 9, 1, .inl ⟨by decide +kernel, rfl⟩⟩,
    ⟨chanState { caHeld := some { column := true, who := 31, fails := 2 } }, 1535, true, 0, 0, 31, 0, 9, { column := true, who := 31, fails := 2 },
      by decide +kernel⟩,
    ⟨chanState { caHeld := some { column := true, who := 31, fails := 2 } }, 1535, true, 0, 0, 31, 0, 9, { column := true, who := 31, fails := 2 },
      by decide +kernel⟩,
    ⟨live, 1535, true, by decide +kernel⟩,
    ⟨chanState { caHeld := some {} }, 1535, {}, by decide +kernel⟩,
    ⟨chanState { caHeld := some { word := 1, line := Req.spot { who := 31 } 1535, who := 31 }, readQ := [{ who := 31 }] }, 1535,
      { word := 1, line := Req.spot { who := 31 } 1535, who := 31 }, { who := 31 }, by decide +kernel⟩,
    ⟨chanState { caHeld := some { word := 1, line := Req.spot { who := 31 } 1535, who := 31, write := true }, writeQ := [{ who := 31, write := true }] },
      1535, { word := 1, line := Req.spot { who := 31 } 1535, who := 31, write := true }, { who := 31, write := true }, by decide +kernel⟩,
    ⟨chanState { caHeld := some { word := 1 } }, 1535, { word := 1 }, _, by decide +kernel, by decide +kernel, by decide +kernel, rfl⟩⟩

/-- The hypotheses of `Obligations.PowerStatesComplete`, clause by clause. -/
theorem witness_PowerStatesComplete :
    (∃ (s : State) (ch : Fin 1536) (rank : Fin 24), s.maySleep ch rank = true ∧ (s.chan ch).rank rank = .awake ∧ s.inForce 0 rPWRCFG 0 8 ≠ 0) ∧
    (∃ (s : State) (ch : Fin 1536) (rank : Fin 24), s.maySleep ch rank = true ∧ (s.chan ch).rank rank ≠ .selfRefresh ∧ s.inForce 0 rPWRCFG 8 8 ≠ 0) ∧
    (∃ (s : State) (st : Fin 96), (s.stack st).sr = false ∧ s.inForce 0 rPWRCFG 16 8 ≠ 0 ∧ (∀ c ∈ stackChans st, (s.chan c).mode ≠ .nearBank) ∧
      (((stackChans st).all (fun c => (List.range 24).all (fun r => (s.chan c).rank r == .selfRefresh))) = true)) ∧
    (∃ (s : State) (st : Fin 96), (s.stack st).sr = true ∧ (s.stack st).hold = false ∧ (0, st.val) ∈ (s.hub (st.val / 6)).admitted) ∧
    (∃ (s : State) (ch : Fin 1536) (runs res : Sweep) (sweeps : List Sweep) (full : Bool), (((List.range 24).all (fun r => (s.chan ch).rank r ==
      .selfRefresh)) = false) ∧ ((s.chan ch).mode = .nearBank → (s.chan ch).yield = true) ∧ full = ((s.chan ch).sweepDue || decide (narrowest runs <
      s.inForce 0 rTRNCFG 8 6) || decide (s.inForce 0 rTRNCFG 20 4 < (s.chan ch).farthest runs)) ∧ res = (if full then trained (s.inForce 0 rTRNCFG 8
      6) sweeps else runs) ∧ (full = true → s.inForce 0 rTRNCFG 8 6 ≤ narrowest res)) ∧
    (∃ (s : State) (ch : Fin 1536) (runs : Sweep) (sweeps : List Sweep), (((List.range 24).all (fun r => (s.chan ch).rank r == .selfRefresh)) = false)
      ∧ ((s.chan ch).mode = .nearBank → (s.chan ch).yield = true) ∧ ((s.chan ch).sweepDue = true ∨ narrowest runs < s.inForce 0 rTRNCFG 8 6 ∨
      s.inForce 0 rTRNCFG 20 4 < (s.chan ch).farthest runs) ∧ narrowest (trained (s.inForce 0 rTRNCFG 8 6) sweeps) < s.inForce 0 rTRNCFG 8 6) ∧
    (∃ (s : State) (ch : Fin 1536) (runs : Sweep) (sweeps : List Sweep), (((List.range 24).all (fun r => (s.chan ch).rank r == .selfRefresh)) = true ∨
      ((s.chan ch).mode = .nearBank ∧ (s.chan ch).yield = false))) :=
  ⟨⟨live, 1535, 23, by decide +kernel⟩,
    ⟨live, 1535, 23, by decide +kernel⟩,
    ⟨{ live with chans := (List.range 16).map (fun i => (1520 + i, { ranks := (List.range 24).map (fun r => (r, .selfRefresh)) })) }, 95,
      by decide +kernel⟩,
    ⟨{ live with stks := [(95, { sr := true })], hubs := [(15, { admitted := [(0, 95)] })] }, 95, by decide +kernel⟩,
    ⟨live, 1535, (List.finRange 34).map (fun d => (d, (0, 64))), _, [], _, by decide +kernel, by decide +kernel, rfl, rfl, by decide +kernel⟩,
    ⟨live, 1535, [(0, (0, 0))], List.replicate 4 [(0, (0, 0))], by decide +kernel⟩,
    ⟨{ live with chans := (List.range 16).map (fun i => (1520 + i, { ranks := (List.range 24).map (fun r => (r, .selfRefresh)) })) }, 1535, [], [],
      by decide +kernel⟩⟩

/-- The hypotheses of `Obligations.PageCodeCommandsComplete`, clause by clause. -/
theorem witness_PageCodeCommandsComplete :
    (∃ (s : State) (st : Fin 96) (d : Decode) (rest : List Decode), (s.stack st).decWait = d :: rest ∧ (s.stack st).decRun.length < 4) ∧
    (∃ (s : State) (st : Fin 96) (d : Decode) (rest : List Decode), (s.stack st).decRun = d :: rest ∧ d.req = none) ∧
    (∃ (s : State) (st : Fin 96) (d : Decode) (rest : List Decode) (q : Req), (s.stack st).decRun = d :: rest ∧ d.req = some q ∧ q.fill ≠ 2) ∧
    (∃ (s : State) (ch : Fin 1536) (rank : Fin 24) (last : Nat), (s.chan ch).rank rank = .selfRefresh ∧ (s.stack (ch.val / 16)).sr = false ∧ (last =
      Tab.get (fun _ => 0) (s.chan ch).scrubWoke rank.val) ∧ (last = 0 ∨ last + 16000000000 ≤ s.cyc + 1)) ∧
    (∃ (s : State) (ch : Fin 1536) (rank : Fin 24), (0 < Tab.get (fun _ => 0) (s.chan ch).scrubWoke rank.val) ∧ (s.cyc + 1 < Tab.get (fun _ => 0)
      (s.chan ch).scrubWoke rank.val + 16000000000)) ∧
    (∃ (s : State) (ch : Fin 1536) (at_ j rk : Nat), at_ = (s.chan ch).scrubAt ∧ j = at_ / 65536 ∧ rk = rowKey (bankOf ch j) (at_ % 65536) ∧ j < 48 ∧
      (s.hub (tileOfChan ch)).retired = false ∧ (s.chan ch).rank (j / 2) ≠ .selfRefresh ∧ (s.stack (ch.val / 16)).decRun.length < 4 ∧ (((s.chan
      ch).bank j).row = some (at_ % 65536) ∨ s.mayActivate ch j 7 = true) ∧ s.canGrant ch 7 = true) ∧
    (∃ (s : State) (ch : Fin 1536), s.canGrant ch 7 = false) ∧
    (∃ (s : State) (p : Fin 8192) (sl x n r : Nat), s.noDecoder p n = false ∧ s.slotOfParcel p = some sl ∧ (s.slot sl).reenc = some (x, n) ∧ r =
      parcelRow p n) ∧
    (∃ (s : State) (p : Fin 8192) (x n r : Nat), s.noDecoder p n = false ∧ s.slotOfParcel p = none ∧ (s.parcel p).reenc = some (x, n) ∧ r = parcelRow
      p n) ∧
    (∃ (s : State) (p : Fin 8192) (sl x n : Nat), s.slotOfParcel p = some sl ∧ (s.slot sl).reenc = some (x, n) ∧ s.noDecoder p n = true) :=
  ⟨⟨{ live with stks := [(95, { decWait := [{}], decRun := [{}, {}, {}] })] }, 95, {}, [], by decide +kernel⟩,
    ⟨{ live with stks := [(95, { decRun := [{}] })] }, 95, {}, [], by decide +kernel⟩,
    ⟨{ live with stks := [(95, { decRun := [{ req := some {} }] })] }, 95, { req := some {} }, [], {}, by decide +kernel⟩,
    ⟨chanState { ranks := [(23, .selfRefresh)] }, 1535, 23, _, by decide +kernel, by decide +kernel, rfl, by decide +kernel⟩,
    ⟨chanState { scrubWoke := [(23, 1)] }, 1535, 23, by decide +kernel⟩,
    ⟨chanState { scrubAt := 47 * 65536 + 0xFFFF }, 1535, _, _, _, rfl, rfl, rfl, by decide +kernel⟩,
    ⟨chanState { mode := .nearBank }, 1535, by decide +kernel⟩,
    ⟨{ live with slots := [(7167, { phys := 8191, reenc := some (3, 589823) })] }, 8191, 7167, 3, 589823, _, by decide +kernel, by decide +kernel,
      by decide +kernel, rfl⟩,
    ⟨{ live with parcels := [(8191, { reenc := some (3, 589823) })] }, 8191, 3, 589823, _, by decide +kernel, by decide +kernel, by decide +kernel,
      rfl⟩,
    ⟨{ live with slots := [(7167, { phys := 8191, reenc := some (3, 589823) })], stks := [(95, { decRun := [{}, {}, {}, {}] })] }, 8191, 7167, 3,
      589823, by decide +kernel⟩⟩

/-- The hypotheses of `Obligations.MovesAndSparesComplete`, clause by clause. -/
theorem witness_MovesAndSparesComplete :
    (∃ (s : State) (slot : Fin 7168) (q : Nat), (s.slot slot).moveTo = none ∧ s.moveTarget ((s.slot slot).phys / 512) = some q) ∧
    (∃ (s : State) (slot : Fin 7168), (s.slot slot).moveTo = none ∧ s.moveTarget ((s.slot slot).phys / 512) = none ∧ (s.parcel (s.slot
      slot).phys).retired = true) ∧
    (∃ (s : State) (slot : Fin 7168) (q : Nat), (s.slot slot).moveTo = some q ∧ (∀ i < 96, (s.chan ((s.slot slot).phys / 512 * 96 + i)).pass = none)) ∧
    (∃ (s : State) (slot : Fin 7168) (q i : Nat), (s.slot slot).moveTo = some q ∧ i < 96 ∧ (s.chan ((s.slot slot).phys / 512 * 96 + i)).pass ≠ none) ∧
    (∃ (s : State) (st : Fin 96) (r : Repair) (rest : List Repair), (s.stack st).pendingRepair = r :: rest ∧ s.repairMay r = true) ∧
    (∃ (s : State) (st : Fin 96) (r : Repair) (rest : List Repair), (s.stack st).pendingRepair = r :: rest ∧ s.repairMay r = false) ∧
    (∃ (s : State) (st : Fin 96) (kind : Fin 4) (rank : Fin 24) (half : Bool) (inStack : Fin 768) (idx : Fin 512) (b : Nat), b = st.val * 768 +
      inStack.val) ∧
    (∃ (s : State) (st : Fin 96) (inStack : Fin 768) (b : Nat), b = st.val * 768 + inStack.val ∧ flag (s.reg 0 rRCVCFG) 1 = true ∧ (s.stack
      st).testing = none ∧ (s.stack st).bankFree b = true ∧ s.repairMay { kind := 1, at_ := b } = true) ∧
    (∃ (s : State) (st : Fin 96) (inStack : Fin 768), flag (s.reg 0 rRCVCFG) 1 = true ∧ (s.stack st).testing = none ∧ (s.stack st).bankFree (st.val *
      768 + inStack.val) = false) ∧
    (∃ (s : State) (st : Fin 96) (x : Nat × Nat × Nat) (pass : Bool), (s.stack st).testing = some x ∧ s.repairMay { kind := 1, at_ := bankOfHalf st x
      } = true) :=
  ⟨⟨{ live with slots := [(0, { phys := 8191 }), (7167, { phys := 511 })] }, 7167, 0, by decide +kernel⟩,
    ⟨{ live with parcels := [((live.slot 7167).phys, { retired := true })], hubs := (List.range 16).map (fun i => (i, { retired := true })) }, 7167,
      by decide +kernel⟩,
    ⟨{ live with slots := [(7167, { phys := 8191, moveTo := some 0 })] }, 7167, 0, by decide +kernel⟩,
    ⟨{ live with slots := [(7167, { phys := 8191, moveTo := some 0 })], chans := [(1535, { pass := some {} })] }, 7167, 0, 95, by decide +kernel⟩,
    ⟨{ live with stks := [(95, { pendingRepair := [{ kind := 3, at_ := 73727, spare := 3 }] })] }, 95, { kind := 3, at_ := 73727, spare := 3 }, [],
      by decide +kernel⟩,
    ⟨{ chanState { mode := .nearBank } with stks := [(95, { pendingRepair := [{ kind := 3, at_ := 73727, spare := 3 }] })] }, 95,
      { kind := 3, at_ := 73727, spare := 3 }, [], by decide +kernel⟩,
    ⟨live, 95, 3, 23, true, 767, 511, _, rfl⟩,
    ⟨live, 95, 767, _, rfl, by decide +kernel⟩,
    ⟨{ live with stks := [(95, { badBanks := [dieHalf (95 * 768 + 767)] })] }, 95, 767, by decide +kernel⟩,
    ⟨{ live with stks := [(95, { testing := some (23, 1, 0) })] }, 95, (23, 1, 0), false, by decide +kernel⟩⟩

/-- The hypotheses of `Obligations.SidebandRecordsWait`, clause by clause. -/
theorem witness_SidebandRecordsWait :
    (∃ (s : State) (masks : List (BitVec 32)), masks.length = 9 ∧ s.sideband = true) ∧
    (∃ (s : State) (modid : BitVec 6) (dkey : BitVec 16), s.sideband = true) ∧
    (∃ (s : State) (masks : List (BitVec 32)) (modid : BitVec 6) (dkey : BitVec 16) (image : Image), (s.power.on = false ∨ ((s.hub 0).retired = true ∧
      (s.hub 4).retired = true))) :=
  ⟨⟨live, List.replicate 9 0, by decide +kernel⟩,
    ⟨live, 63, 0xFFFF, by decide +kernel⟩,
    ⟨State.reset, [], 63, 0xFFFF, {}, by decide +kernel⟩⟩

/-- The hypotheses of `Obligations.NearBankRowsComplete`, clause by clause. -/
theorem witness_NearBankRowsComplete :
    (∃ (s : State) (ch : Fin 1536), s.conventional ch = true ∧ (s.chan ch).nbsGranted = true ∧ (∀ j ∈ allBanks, ((s.chan ch).bank j).row = none ∧
      ((s.chan ch).bank j).postponed ≤ 2) ∧ (∀ r < 24, (s.chan ch).rank r = .awake) ∧ (s.chan ch).writeQ = [] ∧ (s.stack (ch.val / 16)).level < 4 ∧
      ((1, ch.val % 96) ∈ (s.hub (tileOfChan ch)).admitted ∨ ((s.chan ch).yieldExit = true ∧ s.cyc ≤ (s.chan ch).nbxAt + 1600))) ∧
    (∃ (s : State) (ch : Fin 1536), (s.chan ch).mode = .nearBank ∧ ((s.chan ch).yield = true ∨ (s.chan ch).pass = none) ∧ s.computing ch = false ∧ (∀
      j ∈ allBanks, ((s.chan ch).bank j).compute = none ∧ ((s.chan ch).bank j).ahead = none ∨ ((s.chan ch).bank j).actAt + 45 ≤ s.cyc)) ∧
    (∃ (s : State) (ch : Fin 1536), (s.chan ch).mode = .leaving) ∧
    (∃ (s : State) (ch : Fin 1536) (rank : BitVec 5) (bank : Bool) (row : BitVec 16) (j who rk : Nat), rank.toNat < 24 ∧ j = 2 * rank.toNat + nat bank
      ∧ rk = rowKey (bankOf ch j) row.toNat ∧ (s.chan ch).mode = .nearBank ∧ ((s.chan ch).bank j).ahead = none ∧ (∀ r, ((s.chan ch).bank j).compute =
      some r → s.subOf ch j r ≠ s.subOf ch j row.toNat) ∧ (∀ o ∈ ((s.chan ch).bank j).owed, o % 64 ≠ s.subOf ch j row.toNat) ∧ (who =
      (match (s.chan ch).pass with | some p => 8 + p.ctx % 4 | none => 8)) ∧ (s.testHost ch).ahaMay ch j row.toNat who = true) ∧
    (∃ (s : State) (ch : Fin 1536) (rank : BitVec 5) (bank : Bool) (row : BitVec 16) (p : Pass), rank.toNat < 24 ∧ (s.chan ch).mode = .nearBank ∧
      ((s.chan ch).bank (2 * rank.toNat + nat bank)).ahead = none ∧ ((s.chan ch).bank (2 * rank.toNat + nat bank)).compute = none ∧ (s.chan ch).pass =
      some p ∧ p.crosses = true ∧ p.held = none ∧ s.hostWaiting ch (s.cyc / 3 * 3) = true) ∧
    (∃ (s : State) (ch : Fin 1536) (rank : BitVec 5) (bank : Bool) (row : BitVec 16) (j : Nat), rank.toNat < 24 ∧ j = 2 * rank.toNat + nat bank ∧
      (s.chan ch).mode = .nearBank ∧ (((s.chan ch).bank j).ahead ≠ none ∨ ∃ r, ((s.chan ch).bank j).compute = some r ∧ s.subOf ch j r = s.subOf ch j
      row.toNat)) ∧
    (∃ (s : State) (ch : Fin 1536), (s.chan ch).mode = .nearBank ∧ (s.chan ch).yield = false ∧ (∀ p, (s.chan ch).pass = some p → p.yieldDue = false ∧
      p.rowTaken = true) ∧ (∀ j ∈ s.participating ch, ((s.chan ch).bank j).ahead ≠ none) ∧ s.computing ch = false) ∧
    (∃ (s : State) (ch : Fin 1536), (s.chan ch).mode = .nearBank ∧ ((∀ p, (s.chan ch).pass = some p → p.held ≠ some true) ∨ 4 ≤ (s.chan ch).nrfPost)) ∧
    (∃ (s : State) (ch : Fin 1536) (p : Pass), (s.chan ch).mode = .nearBank ∧ (s.chan ch).pass = some p ∧ p.held = some true ∧ (s.chan ch).nrfPost <
      4) ∧
    (∃ (s : State) (ch : Fin 1536) (rank : BitVec 5) (bank : Bool) (r j : Nat), rank.toNat < 24 ∧ j = 2 * rank.toNat + nat bank ∧ (s.chan ch).mode =
      .nearBank ∧ ((s.chan ch).bank j).alert = some r ∧ (s.openSubs ch j).length ≤ 1 ∧ ((s.chan ch).bank j).compute ≠ some r ∧ ((s.chan ch).bank
      j).ahead ≠ some r) ∧
    (∃ (s : State) (ch : Fin 1536) (j : Fin 48) (r : Nat) (rest : List Nat), ((s.chan ch).bank j).owed = r :: rest ∧ r % 64 ∉ s.openSubs ch j) :=
  ⟨⟨{ chanState { grant := some (8, 0) } with hubs := [(15, { admitted := [(1, 95)] })], ctxs := [(60, { nbrun := some {} })] }, 1535,
      by decide +kernel⟩,
    ⟨chanState { mode := .nearBank }, 1535, by decide +kernel⟩,
    ⟨chanState { mode := .leaving }, 1535, by decide +kernel⟩,
    ⟨chanState { mode := .nearBank }, 1535, 23, true, 0xFFFF, _, _, _, by decide +kernel, rfl, rfl, by decide +kernel, by decide +kernel,
      fun r h => (Option.some_ne_none r (h.symm.trans (by decide +kernel))).elim, by decide +kernel, rfl, by decide +kernel⟩,
    ⟨{ chanState { mode := .nearBank, pass := some { interval := 0 }, readQ := [{}] } with cyc := 100 }, 1535, 23, true, 0xFFFF, { interval := 0 },
      by decide +kernel⟩,
    ⟨chanState { mode := .nearBank, banks := [(47, { ahead := some 0 })] }, 1535, 23, true, 0xFFFF, _, by decide +kernel, rfl, by decide +kernel,
      .inl (by decide +kernel)⟩,
    ⟨{ chanState { mode := .nearBank, banks := allBanks.map (fun j => (j, { ahead := some 0 })) } with nbus := [(bankOf 1535 47, { cfg := 0x8000000000000000#64 })] },
      1535, by decide +kernel, by decide +kernel, fun p h => (Option.some_ne_none p (h.symm.trans (by decide +kernel))).elim, by decide +kernel⟩,
    ⟨chanState { mode := .nearBank }, 1535, by decide +kernel, .inl (fun p h => (Option.some_ne_none p (h.symm.trans (by decide +kernel))).elim)⟩,
    ⟨chanState { mode := .nearBank, pass := some { held := some true }, nrfPost := 3 }, 1535, { held := some true }, by decide +kernel⟩,
    ⟨chanState { mode := .nearBank, banks := [(47, { alert := some 0xFFFF })] }, 1535, 23, true, 0xFFFF, _, by decide +kernel, rfl, by decide +kernel⟩,
    ⟨chanState { mode := .nearBank, banks := [(47, { owed := [0xFFFF] })] }, 1535, 47, 0xFFFF, [], by decide +kernel⟩⟩

/-- The hypotheses of `Obligations.NearBankOperandsComplete`, clause by clause. -/
theorem witness_NearBankOperandsComplete :
    (∃ (s : State) (ch : Fin 1536) (q : BitVec 16), (s.chan ch).mode = .nearBank) ∧
    (∃ (s : State) (ch : Fin 1536) (data : BitVec 256) (flips : List (Fin 48 × BitVec 272)) (q : Nat), q = (s.chan ch).beat ∧ (s.chan ch).mode =
      .nearBank ∧ (∀ j ∈ allBanks, ((s.nbu (bankOf ch j)).sync s.cyc).staged.length < 6)) ∧
    (∃ (n : Nbu) (q : Nat) (data : List Byte) (x : Nat), data.length = 32 ∧ x < 4096) ∧
    (∃ (s : State) (ch : Fin 1536) (rank : BitVec 5) (beat : BitVec 272) (ctl : BitVec 8), rank.toNat < 24 ∧ (s.chan ch).mode = .nearBank ∧ ctl =
      BitVec.ofNat 8 (beat.toNat / 2 ^ 128)) ∧
    (∃ (s : State) (ch : Fin 1536) (col : BitVec 6), (s.chan ch).mode = .nearBank ∧ (s.chan ch).cclMay col.toNat = true) ∧
    (∃ (s : State) (ch : Fin 1536) (col : BitVec 6), (s.chan ch).mode = .nearBank ∧ (s.chan ch).cclMay col.toNat = false) :=
  ⟨⟨chanState { mode := .nearBank }, 1535, 0xFFFF, by decide +kernel⟩,
    ⟨chanState { mode := .nearBank }, 1535, 0, [(47, 1)], _, rfl, by decide +kernel⟩,
    ⟨{}, 0xFFFF, List.replicate 32 0, 4095, by decide +kernel⟩,
    ⟨chanState { mode := .nearBank }, 1535, 23, 0xFF, _, by decide +kernel, by decide +kernel, rfl⟩,
    ⟨chanState { mode := .nearBank }, 1535, 63, by decide +kernel⟩,
    ⟨chanState { mode := .nearBank, yield := true }, 1535, 63, by decide +kernel⟩⟩

/-- The hypotheses of `Obligations.NearBankResultsComplete`, clause by clause. -/
theorem witness_NearBankResultsComplete :
    (∃ (s : State) (ch : Fin 1536) (j : Fin 48) (f : Fold) (rest : List Fold) (n : Nbu) (base : Nat), n = (s.nbu (bankOf ch j)).upTo (s.cyc / 3) ∧
      n.folds = f :: rest ∧ f.due ≤ s.cyc ∧ base = f.set * pitchOf f.slots) ∧
    (∃ (s : State) (ch : Fin 1536) (rank : BitVec 5) (bank : Bool) (group : BitVec 3) (buf : BitVec 4) (b k : Nat) (n : Nbu), rank.toNat < 24 ∧ b =
      bankOf ch (2 * rank.toNat + nat bank) ∧ n = (s.nbu b).sync s.cyc ∧ k = ch.val * 16 + buf.toNat ∧ (s.chan ch).mode = .nearBank ∧ (s.cru k).busy =
      false ∧ n.poison.getLsbD group.toNat = false) ∧
    (∃ (s : State) (ch : Fin 1536) (rank : BitVec 5) (bank : Bool) (group : BitVec 3) (buf : BitVec 4), rank.toNat < 24 ∧ (s.chan ch).mode = .nearBank
      ∧ (s.cru (ch.val * 16 + buf.toNat)).busy = false ∧ ((s.nbu (bankOf ch (2 * rank.toNat + nat bank))).sync s.cyc).poison.getLsbD group.toNat =
      true) ∧
    (∃ (s : State) (ch : Fin 1536) (rank : BitVec 5) (allr : Bool) (mask : BitVec 8) (js : List Nat), rank.toNat < 24 ∧ (s.chan ch).mode = .nearBank ∧
      js = (if allr then allBanks else rankBanks rank.toNat)) ∧
    (∃ (s : State) (ch : Fin 1536) (rank : BitVec 5), rank.toNat < 24 ∧ (s.chan ch).mode = .nearBank) :=
  ⟨⟨{ live with nbus := [(73727, { folds := [{}] })] }, 1535, 47, {}, [], _, _, rfl, by decide +kernel, by decide +kernel, rfl⟩,
    ⟨chanState { mode := .nearBank }, 1535, 23, true, 7, 15, _, _, _, by decide +kernel, rfl, rfl, rfl, by decide +kernel⟩,
    ⟨{ chanState { mode := .nearBank } with nbus := [(73727, { poison := 0x80 })] }, 1535, 23, true, 7, 15, by decide +kernel⟩,
    ⟨chanState { mode := .nearBank }, 1535, 23, true, 0xFF, _, by decide +kernel, by decide +kernel, rfl⟩,
    ⟨chanState { mode := .nearBank }, 1535, 23, by decide +kernel⟩⟩

/-- The hypotheses of `Obligations.HostLineCommandsComplete`, clause by clause. -/
theorem witness_HostLineCommandsComplete :
    (∃ (s : State) (p : Fin 4) (hpa : BitVec 46) (own : Bool) (sa : Nat) (l : Loc), (s.hport p).mem = true ∧ s.boot.phase = 15 ∧ s.hostSa p (hpa.toNat
      * 64) = some sa ∧ (s.hport p).agree = true ∧ (s.slot (sa / slotBytes)).cls = .bulk ∧ (s.slot (sa / slotBytes)).dead = false ∧ flag (s.reg 0
      rCOHCFG) 0 = false ∧ l = s.locate sa ∧ ReadsAtOnce s (chanOfBank l.moduleBank) p (l.moduleBank % 48) l.row ∧ s.lineAsks (s.lineOfSa sa) = false) ∧
    (∃ (s : State) (p : Fin 4) (hpa : BitVec 46) (own : Bool) (sa : Nat) (l : Loc), (s.hport p).mem = true ∧ s.boot.phase = 15 ∧ s.hostSa p (hpa.toNat
      * 64) = some sa ∧ (s.hport p).agree = true ∧ (s.slot (sa / slotBytes)).cls = .bulk ∧ (s.slot (sa / slotBytes)).dead = false ∧ (flag (s.reg 0
      rCOHCFG) 0 = false ∨ ∀ e ∈ (s.hport p).prb, e.1 ≠ sa / 64) ∧ l = s.locate sa ∧ s.hasRoom (chanOfBank l.moduleBank) false = true ∧ s.serves
      (chanOfBank l.moduleBank) = false) ∧
    (∃ (s : State) (p : Fin 4) (hpa : BitVec 46) (own : Bool) (sa : Nat) (e : Nat × (BitVec 512 × Bool)), (s.hport p).mem = true ∧ s.boot.phase = 15 ∧
      s.hostSa p (hpa.toNat * 64) = some sa ∧ (s.hport p).agree = true ∧ (s.slot (sa / slotBytes)).cls = .bulk ∧ flag (s.reg 0 rCOHCFG) 0 = true ∧
      ((s.hport p).prb.find? (fun e => e.1 == sa / 64) = some e)) ∧
    (∃ (s : State) (p : Fin 4) (hpa : BitVec 46) (own : Bool) (sa : Nat), (s.hport p).mem = true ∧ s.boot.phase = 15 ∧ s.hostSa p (hpa.toNat * 64) =
      some sa ∧ (s.hport p).agree = true ∧ (s.slot (sa / slotBytes)).cls = .shared ∧ ((s.lines.find? (fun e => e.1 == sa / 64)).isSome = true) ∧
      (s.dir (s.homeOf sa)).length < dirSize) ∧
    (∃ (s : State) (p : Fin 4) (hpa : BitVec 46) (own : Bool) (sa : Nat) (e : Dir) (rest : List Dir), (s.hport p).mem = true ∧ s.boot.phase = 15 ∧
      s.hostSa p (hpa.toNat * 64) = some sa ∧ (s.hport p).agree = true ∧ (s.slot (sa / slotBytes)).cls = .shared ∧ ((s.lines.find? (fun e => e.1 == sa
      / 64)).isSome = true) ∧ s.dir (s.homeOf sa) = e :: rest ∧ dirSize ≤ rest.length + 1 ∧ (∀ x ∈ e :: rest, x.line ≠ sa / 64)) ∧
    (∃ (s : State) (p : Fin 4) (hpa : BitVec 46) (own : Bool), (s.hport p).mem = true ∧ s.boot.phase = 15 ∧ s.hostSa p (hpa.toNat * 64) = none) ∧
    (∃ (s : State) (p : Fin 4) (hpa : BitVec 46) (own : Bool) (sa : Nat), (s.hport p).mem = true ∧ s.boot.phase = 15 ∧ s.hostSa p (hpa.toNat * 64) =
      some sa ∧ ((s.hport p).agree = false ∨ (s.slot (sa / slotBytes)).cls = .devOnly)) ∧
    (∃ (s : State) (p : Fin 4) (hpa : BitVec 46) (data : BitVec 512) (mask : BitVec 64) (sa : Nat) (l : Loc), (s.hport p).mem = true ∧ s.boot.phase =
      15 ∧ s.hostSa p (hpa.toNat * 64) = some sa ∧ (s.hport p).agree = true ∧ (s.slot (sa / slotBytes)).cls = .bulk ∧ (s.slot (sa / slotBytes)).dead =
      false ∧ l = s.locate sa ∧ s.hasRoom (chanOfBank l.moduleBank) true = true) ∧
    (∃ (s : State) (p : Fin 4) (hpa : BitVec 46) (data : BitVec 512) (mask : BitVec 64) (sa k : Nat), (s.hport p).mem = true ∧ s.boot.phase = 15 ∧
      s.hostSa p (hpa.toNat * 64) = some sa ∧ (s.hport p).agree = true ∧ (s.slot (sa / slotBytes)).cls = .shared ∧ sa % slotBytes < 0x10000 ∧ k =
      streamKey p (s.slot (sa / slotBytes)).owner) ∧
    (∃ (s : State) (p : Fin 4) (hpa : BitVec 46) (data : BitVec 512) (mask : BitVec 64) (sa : Nat), (s.hport p).mem = true ∧ s.boot.phase = 15 ∧
      s.hostSa p (hpa.toNat * 64) = some sa ∧ (s.hport p).agree = true ∧ (s.slot (sa / slotBytes)).cls = .shared ∧ 0x10000 ≤ sa % slotBytes ∧
      (s.stream (streamKey p (s.slot (sa / slotBytes)).owner)).flags = []) ∧
    (∃ (s : State) (p : Fin 4) (hpa : BitVec 46) (data : BitVec 512) (mask : BitVec 64) (sa k : Nat), (s.hport p).mem = true ∧ s.boot.phase = 15 ∧
      s.hostSa p (hpa.toNat * 64) = some sa ∧ (s.hport p).agree = true ∧ (s.slot (sa / slotBytes)).cls = .shared ∧ 0x10000 ≤ sa % slotBytes ∧ k =
      streamKey p (s.slot (sa / slotBytes)).owner ∧ (s.stream k).flags ≠ []) ∧
    (∃ (s : State) (p : Fin 4) (hpa : BitVec 46) (data : BitVec 512) (mask : BitVec 64), (s.hport p).mem = true ∧ s.boot.phase = 15 ∧ s.hostSa p
      (hpa.toNat * 64) = none) ∧
    (∃ (s : State) (p : Fin 4) (hpa : BitVec 46) (data : BitVec 512) (mask : BitVec 64) (sa : Nat), (s.hport p).mem = true ∧ s.boot.phase = 15 ∧
      s.hostSa p (hpa.toNat * 64) = some sa ∧ ((s.hport p).agree = false ∨ (s.slot (sa / slotBytes)).cls = .devOnly)) :=
  ⟨⟨lineOpen, 3, 63, true, 4032, _, by decide +kernel, by decide +kernel, by decide +kernel, by decide +kernel, by decide +kernel, by decide +kernel,
      by decide +kernel, rfl, atOnce_of_ok _ _ _ _ _ (by decide +kernel), by decide +kernel⟩,
    ⟨{ lineOpen with chans := [(lineChan, { mode := .nearBank })] }, 3, 63, true, 4032, _, by decide +kernel, by decide +kernel, by decide +kernel,
      by decide +kernel, by decide +kernel, by decide +kernel, by decide +kernel, rfl, by decide +kernel⟩,
    ⟨{ live with ports := [(3, { mem := true, agree := true, prb := [(63, (0, false))] })], regs := [(rCOHCFG, 1)] }, 3, 63, true, 4032,
      (63, (0, false)), by decide +kernel⟩,
    ⟨{ live with ports := [(3, { mem := true, agree := true, iw := 0, ig := 0, base := 0 })], slots := [(0, { cls := .shared })], lines := [(63, {})] },
      3, 63, true, 4032, by decide +kernel⟩,
    ⟨fullDir, 3, 63, true, 4032, { line := 1 }, List.replicate (dirSize - 1) { line := 1 }, by decide +kernel, by decide +kernel, by decide +kernel,
      by decide +kernel, by decide +kernel, by decide +kernel, fullDir_dir, by rw [List.length_replicate]; decide, fullDir_lines⟩,
    ⟨{ live with ports := [(3, { mem := true, agree := true, iw := 0, ig := 0, base := 0 })] }, 3, 0x3FFFFFFFFFFF, true, by decide +kernel⟩,
    ⟨{ live with ports := [(3, { mem := true })] }, 3, 63, true, 4032, by decide +kernel⟩,
    ⟨{ live with ports := [(3, { mem := true, agree := true, iw := 0, ig := 0, base := 0 })] }, 3, 63, 0, 0, 4032, _, by decide +kernel,
      by decide +kernel, by decide +kernel, by decide +kernel, by decide +kernel, by decide +kernel, rfl, by decide +kernel⟩,
    ⟨{ live with ports := [(3, { mem := true, agree := true, iw := 0, ig := 0, base := 0 })], slots := [(0, { cls := .shared })] }, 3, 63, 0, 0, 4032,
      _, by decide +kernel, by decide +kernel, by decide +kernel, by decide +kernel, by decide +kernel, by decide +kernel, rfl⟩,
    ⟨{ live with ports := [(3, { mem := true, agree := true, iw := 0, ig := 0, base := 0 })], slots := [(0, { cls := .shared })] }, 3, 0x400, 0, 0,
      0x10000, by decide +kernel⟩,
    ⟨{ live with ports := [(3, { mem := true, agree := true, iw := 0, ig := 0, base := 0 })], slots := [(0, { cls := .shared })], streams := [(streamKey 3 none, { flags := [{}] })] },
      3, 1024, 0, 0, 65536, _, by decide +kernel, by decide +kernel, by decide +kernel, by decide +kernel, by decide +kernel, by decide +kernel, rfl,
      by decide +kernel⟩,
    ⟨{ live with ports := [(3, { mem := true, agree := true, iw := 0, ig := 0, base := 0 })] }, 3, 0x3FFFFFFFFFFF, 0, 0, by decide +kernel⟩,
    ⟨{ live with ports := [(3, { mem := true })] }, 3, 63, 0, 0, 4032, by decide +kernel⟩⟩

/-- The hypotheses of `Obligations.HostPortCommandsComplete`, clause by clause. -/
theorem witness_HostPortCommandsComplete :
    (∃ (s : State) (p : Fin 4) (iw ig : BitVec 4) (base : BitVec 24) (size : BitVec 64), (s.hport p).commit = false ∧ waysOf iw.toNat ≠ 0 ∧ ig.toNat ≤
      6 ∧ size.toNat * waysOf iw.toNat = s.hdmSize ∧ s.hilPos p < waysOf iw.toNat ∧ (∀ q ∈ s.committed, (s.hport q).iw = iw.toNat ∧ (s.hport q).ig =
      ig.toNat ∧ (s.hport q).base = base.toNat * 2 ^ 28 ∧ (s.hport q).size = size.toNat ∧ s.hilPos q ≠ s.hilPos p)) ∧
    (∃ (s : State) (p : Fin 4) (iw ig : BitVec 4) (base : BitVec 24) (size : BitVec 64), (s.hport p).commit = false ∧ (6 < ig.toNat ∨ waysOf iw.toNat
      = 0 ∨ size.toNat * waysOf iw.toNat ≠ s.hdmSize ∨ waysOf iw.toNat ≤ s.hilPos p ∨ ∃ q ∈ s.committed, (s.hport q).base ≠ base.toNat * 2 ^ 28 ∨
      s.hilPos q = s.hilPos p)) ∧
    (∃ (s : State) (src : Fin 20) (part : Option (Fin 64)) (f : FlagWait) (rest : List FlagWait), (s.stream (streamKey src (part.map Fin.val))).flags
      = f :: rest ∧ f.wait = 0) ∧
    (∃ (s : State) (src : Fin 20) (part : Option (Fin 64)) (f : FlagWait) (rest : List FlagWait), (s.stream (streamKey src (part.map Fin.val))).flags
      = f :: rest ∧ f.wait ≠ 0) ∧
    (∃ (s : State) (p : Fin 4), (((List.range 65).all (fun q => (s.stream (p.val * 65 + q)).idle)) = true)) ∧
    (∃ (s : State) (p : Fin 4) (vf : Fin 17) (q : Nat), vf.val ≠ 0 ∧ s.partOfPage (17 * p.val + vf.val) = some q ∧ (s.stream (streamKey p (some
      q))).idle = true) ∧
    (∃ (s : State) (p : Fin 4) (vf : Fin 17) (q : Nat), vf.val ≠ 0 ∧ s.partOfPage (17 * p.val + vf.val) = some q ∧ (s.stream (streamKey p (some
      q))).idle = false) ∧
    (∃ (s : State) (id : Nat) (w : HostWrite), (s.out.inflight.find? (fun v => v.id == id && v.sent) = some w)) ∧
    (∃ (s : State) (id : Nat) (w : HostWrite), (s.out.inflight.find? (fun v => v.id == id && v.sent) = some w)) :=
  ⟨⟨live, 3, 0, 6, 0xFFFFFF, BitVec.ofNat 64 live.hdmSize, by decide +kernel⟩,
    ⟨live, 3, 15, 15, 0, 0, by decide +kernel⟩,
    ⟨{ live with streams := [(streamKey 19 (some 63), { flags := [{}] })] }, 19, some 63, {}, [], by decide +kernel⟩,
    ⟨{ live with streams := [(streamKey 19 (some 63), { flags := [{ wait := 1 }] })] }, 19, some 63, { wait := 1 }, [], by decide +kernel⟩,
    ⟨live, 3, by decide +kernel⟩,
    ⟨{ live with parts := [(63, { st := .active, port := 3, vf := 15 })] }, 3, 16, 63, by decide +kernel⟩,
    ⟨{ live with parts := [(63, { st := .active, port := 3, vf := 15 })], streams := [(streamKey 3 (some 63), { open_ := 1 })] }, 3, 16, 63,
      by decide +kernel⟩,
    ⟨{ live with out := { inflight := [{ id := 5, sent := true }] } }, 5, { id := 5, sent := true }, by decide +kernel⟩,
    ⟨{ live with out := { inflight := [{ id := 5, sent := true }] } }, 5, { id := 5, sent := true }, by decide +kernel⟩⟩

/-- The hypotheses of `Obligations.PeerAndSpdmComplete`, clause by clause. -/
theorem witness_PeerAndSpdmComplete :
    (∃ (s : State) (p : Fin 4) (value : BitVec 32), (s.slot (field value.toNat 0 13)).owner = some (field value.toNat 13 6) ∧ (s.slot (field
      value.toNat 0 13)).cls = .bulk ∧ field value.toNat 0 13 < s.slotCount) ∧
    (∃ (s : State) (p : Fin 4) (value : BitVec 32), ((s.slot (field value.toNat 0 13)).owner ≠ some (field value.toNat 13 6) ∨ (s.slot (field
      value.toNat 0 13)).cls ≠ .bulk)) ∧
    (∃ (s : State) (p : Fin 4) (e : Fin 16) (off : BitVec 25) (sa : Nat) (l : Loc), s.peerSa p e (off.toNat * 64) = some sa ∧ (s.slot (sa /
      slotBytes)).dead = false ∧ l = s.locate sa ∧ ReadsAtOnce s (chanOfBank l.moduleBank) p (l.moduleBank % 48) l.row ∧ s.lineAsks (s.lineOfSa sa) =
      false) ∧
    (∃ (s : State) (p : Fin 4) (e : Fin 16) (off : BitVec 25) (sa : Nat) (l : Loc), s.peerSa p e (off.toNat * 64) = some sa ∧ (s.slot (sa /
      slotBytes)).dead = false ∧ l = s.locate sa ∧ s.hasRoom (chanOfBank l.moduleBank) false = true ∧ s.serves (chanOfBank l.moduleBank) = false) ∧
    (∃ (s : State) (p : Fin 4) (e : Fin 16) (off : BitVec 25), s.peerSa p e (off.toNat * 64) = none) ∧
    (∃ (s : State) (p : Fin 4) (e : Fin 16) (off : BitVec 25) (data : BitVec 512) (mask : BitVec 64) (sa : Nat), s.peerSa p e (off.toNat * 64) = some
      sa ∧ (flag (Tab.get (fun _ => 0#32) (s.hport p).apt e).toNat 20 = true) ∧ s.hasRoom (chanOfBank (s.locate sa).moduleBank) true = true) ∧
    (∃ (s : State) (p : Fin 4) (e : Fin 16) (off : BitVec 25) (data : BitVec 512) (mask : BitVec 64) (sa : Nat), s.peerSa p e (off.toNat * 64) = some
      sa ∧ (flag (Tab.get (fun _ => 0#32) (s.hport p).apt e).toNat 20 = false)) :=
  ⟨⟨{ live with slots := [(7167, { owner := some 63 })] }, 3, BitVec.ofNat 32 (7167 + 63 * 2 ^ 13), by decide +kernel⟩,
    ⟨live, 3, BitVec.ofNat 32 (7168 + 63 * 8192), by decide +kernel⟩,
    ⟨{ lineOpen with ports := [(3, { apt := [(15, BitVec.ofNat 32 (2 ^ 19))] })] }, 3, 15, 63, 4032, _, by decide +kernel, by decide +kernel, rfl,
      atOnce_of_ok _ _ _ _ _ (by decide +kernel), by decide +kernel⟩,
    ⟨{ live with ports := [(3, { apt := [(15, BitVec.ofNat 32 (2 ^ 19))] })], chans := [(lineChan, { mode := .nearBank })] }, 3, 15, 63, 4032, _,
      by decide +kernel, by decide +kernel, rfl, by decide +kernel⟩,
    ⟨{ live with ports := [(3, { apt := [(15, 0x80000)] })] }, 3, 15, 0x1200000, by decide +kernel⟩,
    ⟨{ live with ports := [(3, { apt := [(15, 0x180000)] })] }, 3, 15, 0x11FFFFF, 0, 0, slotBytes - 64, by decide +kernel⟩,
    ⟨{ live with ports := [(3, { apt := [(15, 0x80000)] })] }, 3, 15, 0x11FFFFF, 0, 0, slotBytes - 64, by decide +kernel⟩⟩

/-- The hypotheses of `Obligations.FlitCommandsComplete`, clause by clause. -/
theorem witness_FlitCommandsComplete :
    (∃ (s : State) (l : Fin 16) (flit : BitVec 2048) (fixed : List (Fin 1632)), (s.landing l).up = true ∧ field flit.toNat 12 4 = 0 ∧ crc16 ((leBytes
      256 flit.toNat).take 254) = BitVec.ofNat 16 (bytesAt (leBytes 256 flit.toNat) 254 2) ∧ field flit.toNat 0 12 = (s.landing l).exp) ∧
    (∃ (s : State) (l : Fin 16) (flit : BitVec 2048) (fixed : List (Fin 1632)), (s.landing l).up = true ∧ field flit.toNat 12 4 = 0 ∧ crc16 ((leBytes
      256 flit.toNat).take 254) = BitVec.ofNat 16 (bytesAt (leBytes 256 flit.toNat) 254 2) ∧ field flit.toNat 0 12 ≠ (s.landing l).exp ∧ ((s.landing
      l).exp + 4096 - field flit.toNat 0 12) % 4096 ≤ 2048) ∧
    (∃ (s : State) (l : Fin 16) (flit : BitVec 2048) (fixed : List (Fin 1632)) (uncw : Bool), (s.landing l).up = true ∧ (uncw = true ∨ crc16 ((leBytes
      256 flit.toNat).take 254) ≠ BitVec.ofNat 16 (bytesAt (leBytes 256 flit.toNat) 254 2) ∨ (field flit.toNat 12 4 = 0 ∧ field flit.toNat 0 12 ≠
      (s.landing l).exp ∧ 2048 < ((s.landing l).exp + 4096 - field flit.toNat 0 12) % 4096))) ∧
    (∃ (s : State) (l : Fin 16) (msg : BitVec 32) (level : Fin 4) (i k : Nat), (s.landing l).up = true ∧ field msg.toNat 0 4 = 1 ∧ field msg.toNat 27
      5 = 0 ∧ flag msg.toNat 16 = false ∧ (s.landing l).txQ = [] ∧ k = field msg.toNat 17 2 * 4 + level.val ∧ ((s.landing l).unack.findIdx? (fun f =>
      f.1 == field msg.toNat 4 12) = some i)) ∧
    (∃ (s : State) (l : Fin 16) (msg : BitVec 32) (level : Fin 4), (s.landing l).up = true ∧ field msg.toNat 0 4 = 1 ∧ field msg.toNat 27 5 = 0 ∧ flag
      msg.toNat 16 = true ∧ (s.landing l).txQ = [] ∧ ((s.landing l).unack.findIdx? (fun f => f.1 == field msg.toNat 4 12) = none)) ∧
    (∃ (s : State) (l : Fin 16), (s.landing l).up = true ∧ 0 < (s.landing l).rxSince) ∧
    (∃ (s : State) (l : Fin 16), (s.landing l).up = true ∧ (s.landing l).unack ≠ [] ∧ (s.landing l).resends < 8) ∧
    (∃ (s : State) (l : Fin 16), (s.landing l).up = true ∧ (s.landing l).unack ≠ [] ∧ 8 ≤ (s.landing l).resends) :=
  ⟨⟨{ live with lands := [(15, { st := 2, exp := 4095 })] }, 15, flitOne, [], by decide +kernel, by decide +kernel,
      crc16_of_run _ _ (by decide +kernel), by decide +kernel⟩,
    ⟨{ live with lands := [(15, { st := 2, exp := 2047 })] }, 15, flitOne, [], by decide +kernel, by decide +kernel,
      crc16_of_run _ _ (by decide +kernel), by decide +kernel⟩,
    ⟨{ live with lands := [(15, { st := 2 })] }, 15, flitOne, [], true, by decide +kernel, .inl rfl⟩,
    ⟨{ live with lands := [(15, { st := 2, unack := [(0, [])] })] }, 15, 1, 3, 0, _, by decide +kernel, by decide +kernel, by decide +kernel,
      by decide +kernel, by decide +kernel, rfl, by decide +kernel⟩,
    ⟨{ live with lands := [(15, { st := 2 })] }, 15, BitVec.ofNat 32 (1 + 2 ^ 16), 3, by decide +kernel⟩,
    ⟨{ live with lands := [(15, { st := 2, rxSince := 1 })] }, 15, by decide +kernel⟩,
    ⟨{ live with lands := [(15, { st := 2, unack := [(0, [])], resends := 7 })] }, 15, by decide +kernel⟩,
    ⟨{ live with lands := [(15, { st := 2, unack := [(0, [])], resends := 8 })] }, 15, by decide +kernel⟩⟩

/-- The hypotheses of `Obligations.LandingCommandsComplete`, clause by clause. -/
theorem witness_LandingCommandsComplete :
    (∃ (s : State) (l : Fin 16) (lane : Fin 26) (n : Nat), (s.landing l).up = true ∧ ((s.landing l).lane lane).st = 0 ∧ (s.landing l).spare = some n) ∧
    (∃ (s : State) (l : Fin 16) (p o : Nat), (s.landing l).st = 2 ∧ (s.landing l).spare = some p ∧ ((List.range 26).find? (fun k => ((s.landing
      l).lane k).st == 0 && ((s.landing l).lane k).logical == (s.landing l).lastSwap % 24) = some o) ∧ s.cfg rXLCFG 0 8 ≠ 0) ∧
    (∃ (s : State) (l : Fin 16) (lane : Fin 26) (pass : Bool), ((s.landing l).lane lane).st = 2) ∧
    (∃ (s : State) (l : Fin 16) (peer : BitVec 6) (peerKey : BitVec 16) (peerL : BitVec 4) (good : List (Fin 26)), (s.hub l).retired = false ∧
      (s.landing l).st = 0 ∧ (s.landing l).vcbl = true ∧ (12 ≤ ((good.map Fin.val).filter (fun p => ((s.landing l).lane p).st != 3)).length) ∧ (∀ x ∈
      s.xacts, x.land ≠ l.val)) ∧
    (∃ (s : State) (l : Fin 16), (s.landing l).st ≠ 0 ∧ (s.landing l).st ≠ 5) ∧
    (∃ (s : State) (l : Fin 16), (s.landing l).vcbl = true) :=
  ⟨⟨{ live with lands := [(15, { st := 2 })] }, 15, 23, 24, by decide +kernel⟩,
    ⟨{ live with lands := [(15, { st := 2, lastSwap := 23 })] }, 15, 24, 23, by decide +kernel⟩,
    ⟨{ live with lands := [(15, { lanes := [(25, { st := 2 })] })] }, 15, 25, true, by decide +kernel⟩,
    ⟨{ live with lands := [(15, { vcbl := true })] }, 15, 63, 0xFFFF, 15, [14, 15, 16, 17, 18, 19, 20, 21, 22, 23, 24, 25], by decide +kernel⟩,
    ⟨{ live with lands := [(15, { st := 4 })] }, 15, by decide +kernel⟩,
    ⟨{ live with lands := [(15, { vcbl := true })] }, 15, by decide +kernel⟩⟩

/-- The hypotheses of `Obligations.SnoopCommandsComplete`, clause by clause. -/
theorem witness_SnoopCommandsComplete :
    (∃ (s : State) (t : Fin 16) (line : BitVec 37) (e : Dir) (d : BitVec 512), ((s.dir t).find? (fun e => e.line == line.toNat && e.snoop != 0) = some
      e) ∧ e.wait = none ∧ e.snoop = 2) ∧
    (∃ (s : State) (t : Fin 16) (line : BitVec 37) (e : Dir), ((s.dir t).find? (fun e => e.line == line.toNat && e.snoop != 0) = some e) ∧ e.wait =
      none ∧ e.snoop ≠ 2) ∧
    (∃ (s : State) (t : Fin 16) (line : BitVec 37) (e : Dir) (f : Nat × Nat) (w : Waiter), ((s.dir t).find? (fun e => e.line == line.toNat && e.snoop
      != 0) = some e) ∧ e.wait = some w ∧ w.ferry = some f) ∧
    (∃ (s : State) (t : Fin 16) (line : BitVec 37) (e : Dir) (h : Nat × Nat × Bool) (w : Waiter), ((s.dir t).find? (fun e => e.line == line.toNat &&
      e.snoop != 0) = some e) ∧ e.wait = some w ∧ w.ferry = none ∧ w.host = some h) :=
  ⟨⟨{ live with dirs := [(15, [{ snoop := 2 }])] }, 15, 0, { snoop := 2 }, 0, by decide +kernel⟩,
    ⟨{ live with dirs := [(15, [{ snoop := 1 }])] }, 15, 0, { snoop := 1 }, by decide +kernel⟩,
    ⟨{ live with dirs := [(15, [{ snoop := 1, wait := some { ferry := some (15, 15) } }])] }, 15, 0,
      { snoop := 1, wait := some { ferry := some (15, 15) } }, (15, 15), { ferry := some (15, 15) }, by decide +kernel⟩,
    ⟨{ live with dirs := [(15, [{ line := 9, snoop := 1, wait := some { host := some (3, 9, true) } }])] }, 15, 9,
      { line := 9, snoop := 1, wait := some { host := some (3, 9, true) } }, (3, 9, true), { host := some (3, 9, true) }, by decide +kernel⟩⟩

/-- The hypotheses of `Obligations.ClearsAndResetsComplete`, clause by clause. -/
theorem witness_ClearsAndResetsComplete :
    (∃ (s : State) (c : Fin 64), (s.ctx c).winClear = true) ∧
    (∃ (s : State) (slot : Fin 7168), (s.slot slot).clearing = true ∧ (s.slot slot).clearBusy = false ∧ (s.hub ((s.slot slot).phys / 512)).clear =
      none) ∧
    (∃ (s : State) (slot : Fin 7168), (s.slot slot).clearBusy = true ∧ (s.slot slot).moveTo = none) ∧
    (∃ (s : State) (p : Fin 4) (vf : Fin 16) (q : Nat), s.partOfPage (17 * p.val + vf.val + 1) = some q ∧ (s.part q).st ≠ .resetting ∧ (s.hport
      p).gone = false) ∧
    (∃ (s : State) (p : Fin 64) (job : ResetJob), (s.part p).st = .resetting ∧ (s.part p).reset = some job ∧ (s.part p).destroy = false ∧
      (((s.resetHalts p).out.inflight.any (fun w => w.part == some p.val)) = false)) ∧
    (∃ (s : State) (p : Fin 64) (job : ResetJob), (s.part p).st = .resetting ∧ (s.part p).reset = some job ∧ (((s.resetHalts p).out.inflight.any (fun
      w => w.part == some p.val)) = true)) :=
  ⟨⟨{ live with ctxs := [(63, { winClear := true })] }, 63, by decide +kernel⟩,
    ⟨{ live with slots := [(7167, { phys := 8191, clearing := true })] }, 7167, by decide +kernel⟩,
    ⟨{ live with slots := [(7167, { phys := 8191, clearing := true, clearBusy := true })] }, 7167, by decide +kernel⟩,
    ⟨{ live with parts := [(63, { st := .active, port := 3, vf := 15 })] }, 3, 15, 63, by decide +kernel⟩,
    ⟨{ live with parts := [(63, { st := .resetting, port := 3, vf := 15, reset := some {} })] }, 63, {}, by decide +kernel⟩,
    ⟨{ live with parts := [(63, { st := .resetting, port := 3, vf := 15, reset := some {} })], out := { inflight := [{ part := some 63 }] } }, 63, {},
      by decide +kernel⟩⟩

/-- The hypotheses of `Obligations.PortsAndTilesComplete`, clause by clause. -/
theorem witness_PortsAndTilesComplete :
    (∃ (s : State) (p : Fin 4) (tokens : List (BitVec 64)), (s.hport p).speed ≠ 0) ∧
    (∃ (s : State) (p : Fin 4) (kind : Fin 3) (tokens : List (BitVec 64)), (s.hport p).gone = false) ∧
    (∃ (s : State) (p : Fin 4) (tokens : List (BitVec 64)), s.power.on = false) ∧
    (∃ (s : State) (p : Fin 4) (tokens : List (BitVec 64)), s.power.on = true ∧ (s.hport p).gone = false) ∧
    (∃ (s : State) (p : Fin 4) (speed : Fin 4) (width : Fin 3) (flit cache mem : Bool), (s.hport p).gone = false ∧ s.boot.phase = 15 ∧ s.power.failed
      = false ∧ (s.hport p).speed = 0) ∧
    (∃ (s : State) (t : Fin 16) (cause : Fin 5) (readable : Bool), (s.hub t).retired = false) ∧
    (∃ (s : State) (t : Fin 16), (s.hub t).retired = false ∧ (((s.hub t).logicAt.filter (fun a => decide (s.cyc < a + hourCycles))) = [])) ∧
    (∃ (s : State) (t : Fin 16) (a : Nat), (s.hub t).retired = false ∧ a ∈ (s.hub t).logicAt ∧ s.cyc < a + hourCycles) ∧
    (∃ (s : State) (t : Fin 16), (s.hub t).retired = true) :=
  ⟨⟨{ live with ports := [(3, { speed := 3 })] }, 3, [], by decide +kernel⟩,
    ⟨live, 3, 2, [], by decide +kernel⟩,
    ⟨State.reset, 3, [], by decide +kernel⟩,
    ⟨live, 3, [], by decide +kernel⟩,
    ⟨live, 3, 3, 2, true, true, true, by decide +kernel⟩,
    ⟨live, 15, 4, true, by decide +kernel⟩,
    ⟨live, 15, by decide +kernel⟩,
    ⟨{ live with hubs := [(15, { logicAt := [0] })] }, 15, 0, by decide +kernel⟩,
    ⟨{ live with hubs := [(15, { retired := true })] }, 15, by decide +kernel⟩⟩

/-- The hypotheses of `Obligations.RingCommandsComplete`, clause by clause. -/
theorem witness_RingCommandsComplete :
    (∃ (s : State) (page : Fin 68) (value : BitVec 32), (page.val % 17 = 0 ∨ (s.partOfPage page).isSome = true) ∧ (s.hport (page.val / 17)).gone =
      false ∧ value.getLsbD 0 = true ∧ (s.page page).en = false ∧ (s.page page).badSetup (decide (page.val % 17 = 0)) = false ∧ s.watchedOn (page.val
      / 17) + (s.page page).watched ≤ 1024) ∧
    (∃ (s : State) (page : Fin 68) (value : BitVec 32), (page.val % 17 = 0 ∨ (s.partOfPage page).isSome = true) ∧ (s.hport (page.val / 17)).gone =
      false ∧ value.getLsbD 0 = true ∧ (s.page page).en = false ∧ (s.page page).badSetup (decide (page.val % 17 = 0)) = true) ∧
    (∃ (s : State) (page : Fin 68) (value : BitVec 32), (page.val % 17 = 0 ∨ (s.partOfPage page).isSome = true) ∧ (s.hport (page.val / 17)).gone =
      false ∧ value.getLsbD 0 = false) ∧
    (∃ (s : State) (page : Fin 68) (line : Fin 9), s.ringLive page = true ∧ line.val < (s.page page).watched ∧ (s.page page).rereads.count line.val <
      2) ∧
    (∃ (s : State) (page : Fin 68) (data : BitVec 512), s.ringLive page = true ∧ 0 ∈ (s.page page).rereads) ∧
    (∃ (s : State) (page : Fin 68) (line : Fin 9) (data : BitVec 512) (p : Nat), s.ringLive page = true ∧ line.val ≠ 0 ∧ line.val ∈ (s.page
      page).rereads ∧ s.partOfPage page = some p) ∧
    (∃ (s : State) (page : Fin 68) (data : BitVec 512) (ok : Bool), s.ringLive page = true ∧ (s.page page).err ≠ 1 ∧ 0 < ((s.page page).sqtail.toNat +
      2 ^ 32 - (s.page page).sqhead.toNat) % 2 ^ 32 ∧ ((s.page page).sqtail.toNat + 2 ^ 32 - (s.page page).sqhead.toNat) % 2 ^ 32 ≤ 2 ^ (s.page
      page).sqsz ∧ (s.page page).fetched.length < 64 ∧ ((s.page page).cqtail.toNat + 2 ^ 32 - (s.page page).cqhead.toNat) % 2 ^ 32 + (s.page
      page).fetched.length < 2 ^ (s.page page).cqsz) ∧
    (∃ (s : State) (page : Fin 68) (tile : Fin 16) (d : Desc) (st : Nat), ∃ c, nextDesc [] (s.page page).fetched = some d ∧ s.descRefusal page d =
      some st ∧ (d.ok = false ∨ s.holds d = false) ∧ (s.page page).en = true ∧ c ∈ [Instr.start page, .halt page, .bind page, .unbind page, .load page
      tile, .discard page, .flush page, .code page, .fence page, .reset page, .attach page, .pcreate page, .pdestroy page, .pslot page, .pctx page,
      .pvf page]) :=
  ⟨⟨{ live with parts := [(63, { st := .active, port := 3, vf := 15 })], pages := [(67, { ringsz := 0x40404, sqbase := 64, cqbase := 64, eqbase := 64, dbaddr := 64, rcaddr := 64, mbxd2h := 64, mbxcfg := 1 })] },
      67, 0xFFFFFFFF, by decide +kernel⟩,
    ⟨{ live with parts := [(63, { st := .active, port := 3, vf := 15 })] }, 67, 1, by decide +kernel⟩,
    ⟨{ live with parts := [(63, { st := .active, port := 3, vf := 15 })], pages := [(67, { en := true, ringsz := 0x40404, sqbase := 64, cqbase := 64, eqbase := 64, dbaddr := 64, rcaddr := 64, mbxd2h := 64, mbxcfg := 1 })] },
      67, 0xFFFFFFFE, by decide +kernel⟩,
    ⟨{ live with parts := [(63, { st := .active, port := 3, vf := 15 })], pages := [(67, { en := true, ringsz := 0x40404, sqbase := 64, cqbase := 64, eqbase := 64, dbaddr := 64, rcaddr := 64, mbxd2h := 64, mbxcfg := 1, rereads := [8] })] },
      67, 8, by decide +kernel⟩,
    ⟨{ live with parts := [(63, { st := .active, port := 3, vf := 15 })], pages := [(67, { en := true, ringsz := 0x40404, sqbase := 64, cqbase := 64, eqbase := 64, dbaddr := 64, rcaddr := 64, mbxd2h := 64, mbxcfg := 1, rereads := [0] })] },
      67, 0, by decide +kernel⟩,
    ⟨{ live with parts := [(63, { st := .active, port := 3, vf := 15 })], pages := [(67, { en := true, ringsz := 0x40404, sqbase := 64, cqbase := 64, eqbase := 64, dbaddr := 64, rcaddr := 64, mbxd2h := 64, mbxcfg := 1, rereads := [8] })] },
      67, 8, 0, 63, by decide +kernel⟩,
    ⟨{ live with parts := [(63, { st := .active, port := 3, vf := 15 })], pages := [(67, { en := true, ringsz := 0x40404, sqbase := 64, cqbase := 64, eqbase := 64, dbaddr := 64, rcaddr := 64, mbxd2h := 64, mbxcfg := 1, sqtail := 3, sqhead := 0xFFFFFFF3, fetched := List.replicate 15 {} })] },
      67, 0, true, by decide +kernel⟩,
    ⟨{ adminState 0 [] {} with pages := [(51, { en := true, fetched := [{ ok := false }] })] }, 51, 15, { ok := false }, 5, .start 51,
      by decide +kernel⟩⟩

/-- The hypotheses of `Obligations.ContextDescriptorsComplete`, clause by clause. -/
theorem witness_ContextDescriptorsComplete :
    (∃ (s : State) (page : Fin 68) (d : Desc) (p i : Nat), DescReady s page 1 d ∧ s.partOfPage page = some p ∧ (s.ctx d.ctx).part = some p ∧ (s.ctx
      d.ctx).handle = some i ∧ (s.ctx d.ctx).st = .idle ∧ (s.readBytes (((s.part p).handle i).slot * slotBytes + ((s.part p).handle i).off) 128).2 =
      false) ∧
    (∃ (s : State) (page : Fin 68) (d : Desc), DescReady s page 2 d ∧ s.ownsCtx page d.ctx = true ∧ (s.ctx d.ctx).st = .running) ∧
    (∃ (s : State) (page : Fin 68) (d : Desc) (p base : Nat), DescReady s page 4 d ∧ s.partOfPage page = some p ∧ (s.ctx d.ctx).part = some p ∧ (s.ctx
      d.ctx).st = .unbound ∧ (s.ctx d.ctx).winClear = false ∧ s.bindRefusals p d.ctx (d.f 80 8) ((s.part p).handle d.handle) = [] ∧ s.freeWindow
      (tileOfCtx d.ctx) (d.f 80 8) = some base) ∧
    (∃ (s : State) (page : Fin 68) (d : Desc), DescReady s page 5 d ∧ s.ownsCtx page d.ctx = true ∧ ((s.ctx d.ctx).st = .idle ∨ (s.ctx d.ctx).st =
      .halted)) ∧
    (∃ (s : State) (page : Fin 68) (tile : Fin 16) (d : Desc) (p : Nat), DescReady s page 3 d ∧ s.partOfPage page = some p ∧ (d.f 80 1 = 1 → (s.slot
      (d.f 128 64 / slotBytes)).owner = some p ∧ (s.slot (d.f 128 64 / slotBytes)).cls = .bulk ∧ d.f 128 64 % slotBytes + d.f 192 64 ≤ slotBytes) ∧
      ((s.part p).handle d.handle).st ≠ .bound ∧ ((s.part p).handle d.handle).st ≠ .translating ∧ (s.hub tile).retired = false ∧ (s.tran
      tile).queue.length < 16 ∧ (s.tran tile).heldLoads = [] ∧ s.fw.st ≠ 2) ∧
    (∃ (s : State) (page : Fin 68) (tile : Fin 16) (d : Desc) (p : Nat), DescReady s page 3 d ∧ s.partOfPage page = some p ∧ (s.hub tile).retired =
      false ∧ (16 ≤ (s.tran tile).queue.length ∨ (s.tran tile).heldLoads ≠ [] ∨ s.fw.st = 2)) ∧
    (∃ (s : State) (page : Fin 68) (d : Desc) (p : Nat), DescReady s page 6 d ∧ s.partOfPage page = some p ∧ (((s.part p).handle d.handle).st = .empty
      ∨ ((s.part p).handle d.handle).st = .ready)) ∧
    (∃ (s : State) (page : Fin 68) (d : Desc) (p : Nat), DescReady s page 8 d ∧ s.partOfPage page = some p) ∧
    (∃ (s : State) (page : Fin 68) (d : Desc) (p : Nat), DescReady s page 9 d ∧ s.partOfPage page = some p ∧ d.f 80 3 ≠ 5 ∧ d.f 80 3 ≠ 6 ∧ d.f 64 13 <
      s.slotCount ∧ (s.slot (d.f 64 13)).owner = some p) ∧
    (∃ (s : State) (page : Fin 68) (d : Desc), DescReady s page 0x0A d ∧ (s.page page).en = true) :=
  ⟨⟨partState { slot := 7167, off := slotBytes - 128 } { part := some 63, handle := some 63, st := .idle } (1 + 63 * 2 ^ 64), 67,
      { data := BitVec.ofNat 512 (1 + 63 * 2 ^ 64) }, 63, 63, by unfold DescReady; decide +kernel, by decide +kernel⟩,
    ⟨partState {} { part := some 63, st := .running } (2 + 63 * 2 ^ 64), 67, { data := BitVec.ofNat 512 (2 + 63 * 2 ^ 64) },
      by unfold DescReady; decide +kernel, by decide +kernel⟩,
    ⟨partState { st := .ready, man := { cfgtag := 0x14F0102 } } { part := some 63 } (4 + 63 * 2 ^ 64 + 63 * 2 ^ 72 + 128 * 2 ^ 80), 67,
      { data := BitVec.ofNat 512 (4 + 63 * 2 ^ 64 + 63 * 2 ^ 72 + 128 * 2 ^ 80) }, 63, 0, by unfold DescReady; decide +kernel, by decide +kernel⟩,
    ⟨partState {} { part := some 63, st := .halted } (5 + 63 * 2 ^ 64), 67, { data := BitVec.ofNat 512 (5 + 63 * 2 ^ 64) },
      by unfold DescReady; decide +kernel, by decide +kernel⟩,
    ⟨{ partState {} {} (3 + 63 * 2 ^ 72 + 2 ^ 80 + slotBytes * 2 ^ 192) with slots := [(0, { owner := some 63 })] }, 67, 15,
      { data := BitVec.ofNat 512 (3 + 63 * 2 ^ 72 + 2 ^ 80 + slotBytes * 2 ^ 192) }, 63, by unfold DescReady; decide +kernel, by decide +kernel⟩,
    ⟨{ partState {} {} (3 + 63 * 2 ^ 72 + 2 ^ 80 + slotBytes * 2 ^ 192) with fw := { st := 2 } }, 67, 15,
      { data := BitVec.ofNat 512 (3 + 63 * 2 ^ 72 + 2 ^ 80 + slotBytes * 2 ^ 192) }, 63, by unfold DescReady; decide +kernel, by decide +kernel⟩,
    ⟨partState { st := .ready } {} (6 + 63 * 2 ^ 72), 67, { data := BitVec.ofNat 512 (6 + 63 * 2 ^ 72) }, 63, by unfold DescReady; decide +kernel,
      by decide +kernel⟩,
    ⟨partState {} {} (8), 67, { data := BitVec.ofNat 512 (8) }, 63, by unfold DescReady; decide +kernel, by decide +kernel⟩,
    ⟨{ partState {} {} (9 + 7167 * 2 ^ 64 + 7 * 2 ^ 80) with slots := [(7167, { owner := some 63 })] }, 67,
      { data := BitVec.ofNat 512 (9 + 7167 * 2 ^ 64 + 7 * 2 ^ 80) }, 63, by unfold DescReady; decide +kernel, by decide +kernel⟩,
    ⟨partState {} {} (10), 67, { data := BitVec.ofNat 512 (10) }, by unfold DescReady; decide +kernel, by decide +kernel⟩⟩

/-- The hypotheses of `Obligations.PartitionDescriptorsComplete`, clause by clause. -/
theorem witness_PartitionDescriptorsComplete :
    (∃ (s : State) (page : Fin 68) (d : Desc) (p : Nat), DescReady s page 0x0B d ∧ s.partOfPage page = some p) ∧
    (∃ (s : State) (page : Fin 68) (d : Desc) (p : Nat), DescReady s page 0x0C d ∧ s.partOfPage page = some p ∧ (s.part p).st = .preserved ∧ (s.part
      p).token.toNat = d.f 128 64) ∧
    (∃ (s : State) (page : Fin 68) (d : Desc), DescReady s page 0x20 d ∧ (s.part d.part).st = .free ∧ d.part < s.partCount ∧ (s.lostTiles = [] ∨
      ((List.range 64).filter (fun q => (s.part q).st != .free)).length < s.partCount - 4) ∧ s.vfTaken (if d.f 79 1 = 1 then d.f 72 2 else d.part /
      16) (if d.f 79 1 = 1 then d.f 80 4 else d.part % 16) = false) ∧
    (∃ (s : State) (page : Fin 68) (d : Desc), DescReady s page 0x21 d ∧ (s.part d.part).st ≠ .free ∧ (s.part d.part).st ≠ .resetting) ∧
    (∃ (s : State) (page : Fin 68) (d : Desc) (cls : SlotClass), DescReady s page 0x22 d ∧ (s.part d.part).st ≠ .resetting ∧ d.f 120 1 = 0 ∧
      classOfCode (d.f 112 2) = some cls ∧ s.slotRefusal d.part (d.f 96 13) (some cls) false = none) ∧
    (∃ (s : State) (page : Fin 68) (d : Desc), DescReady s page 0x22 d ∧ (s.part d.part).st ≠ .resetting ∧ d.f 120 1 = 1 ∧ s.slotRefusal d.part (d.f
      96 13) (classOfCode (d.f 112 2)) true = none) ∧
    (∃ (s : State) (page : Fin 68) (d : Desc), DescReady s page 0x23 d ∧ (s.part d.part).st ≠ .free ∧ (s.part d.part).st ≠ .resetting ∧ d.f 120 1 = 0
      ∧ (s.ctx (d.f 72 6)).part = none ∧ (s.hub (tileOfCtx (d.f 72 6))).retired = false) ∧
    (∃ (s : State) (page : Fin 68) (d : Desc), DescReady s page 0x23 d ∧ (s.part d.part).st ≠ .free ∧ (s.part d.part).st ≠ .resetting ∧ d.f 120 1 = 1
      ∧ (s.ctx (d.f 72 6)).part = some d.part ∧ (s.ctx (d.f 72 6)).st = .unbound ∧ (s.ctx (d.f 72 6)).winClear = false) ∧
    (∃ (s : State) (page : Fin 68) (d : Desc), DescReady s page 0x24 d ∧ (s.part d.part).st ≠ .free ∧ (s.part d.part).st ≠ .resetting ∧ s.vfTaken (d.f
      72 2) (d.f 80 4) = false) :=
  ⟨⟨partState {} {} (0x0B + 2 ^ 64), 67, { data := BitVec.ofNat 512 (0x0B + 2 ^ 64) }, 63, by unfold DescReady; decide +kernel, by decide +kernel⟩,
    ⟨{ partState {} {} (0x0C + 7 * 2 ^ 128) with parts := [(63, { st := .preserved, token := 7, port := 3, vf := 15 })] }, 67,
      { data := BitVec.ofNat 512 (0x0C + 7 * 2 ^ 128) }, 63, by unfold DescReady; decide +kernel, by decide +kernel⟩,
    ⟨adminState (0x20 + 63 * 2 ^ 64 + 3 * 2 ^ 72 + 2 ^ 79 + 15 * 2 ^ 80) [] {}, 51,
      { data := BitVec.ofNat 512 (0x20 + 63 * 2 ^ 64 + 3 * 2 ^ 72 + 2 ^ 79 + 15 * 2 ^ 80) }, by unfold DescReady; decide +kernel, by decide +kernel⟩,
    ⟨adminState (0x21 + 63 * 2 ^ 64) [(63, { st := .active, port := 3, vf := 15 })] {}, 51, { data := BitVec.ofNat 512 (0x21 + 63 * 2 ^ 64) },
      by unfold DescReady; decide +kernel, by decide +kernel⟩,
    ⟨adminState (0x22 + 63 * 2 ^ 64 + 7167 * 2 ^ 96 + 2 * 2 ^ 112) [(63, { st := .active, port := 3, vf := 15 })] {}, 51,
      { data := BitVec.ofNat 512 (0x22 + 63 * 2 ^ 64 + 7167 * 2 ^ 96 + 2 * 2 ^ 112) }, .devOnly, by unfold DescReady; decide +kernel,
      by decide +kernel⟩,
    ⟨{ adminState (0x22 + 63 * 2 ^ 64 + 7167 * 2 ^ 96 + 2 ^ 120) [(63, { st := .active, port := 3, vf := 15 })] {} with slots := [(7167, { phys := 8191, owner := some 63 })] },
      51, { data := BitVec.ofNat 512 (0x22 + 63 * 2 ^ 64 + 7167 * 2 ^ 96 + 2 ^ 120) }, by unfold DescReady; decide +kernel, by decide +kernel⟩,
    ⟨adminState (0x23 + 63 * 2 ^ 64 + 63 * 2 ^ 72) [(63, { st := .active, port := 3, vf := 15 })] {}, 51,
      { data := BitVec.ofNat 512 (0x23 + 63 * 2 ^ 64 + 63 * 2 ^ 72) }, by unfold DescReady; decide +kernel, by decide +kernel⟩,
    ⟨adminState (0x23 + 63 * 2 ^ 64 + 63 * 2 ^ 72 + 2 ^ 120) [(63, { st := .active, port := 3, vf := 15 })] { part := some 63 }, 51,
      { data := BitVec.ofNat 512 (0x23 + 63 * 2 ^ 64 + 63 * 2 ^ 72 + 2 ^ 120) }, by unfold DescReady; decide +kernel, by decide +kernel⟩,
    ⟨adminState (0x24 + 63 * 2 ^ 64 + 3 * 2 ^ 72 + 14 * 2 ^ 80) [(63, { st := .active, port := 3, vf := 15 })] {}, 51,
      { data := BitVec.ofNat 512 (0x24 + 63 * 2 ^ 64 + 3 * 2 ^ 72 + 14 * 2 ^ 80) }, by unfold DescReady; decide +kernel, by decide +kernel⟩⟩

/-- The hypotheses of `Obligations.RegisterStepsComplete`, clause by clause. -/
theorem witness_RegisterStepsComplete :
    (∃ (s : State) (c : Fin 64) (w : Nat), StepReady s c 0 0 w) ∧
    (∃ (s : State) (c : Fin 64) (w : Nat), StepReady s c 0 5 w) ∧
    (∃ (s : State) (c : Fin 64) (w : Nat), StepReady s c 0 6 w) ∧
    (∃ (s : State) (c : Fin 64) (w : Nat), StepReady s c 0 7 w) ∧
    (∃ (s : State) (c : Fin 64) (w gb : Nat), StepReady s c 0 8 w ∧ gb = bankShare (s.splitEntry c (body w 17 4) ((s.xreg c (body w 21 6)).toNat % 2 ^
      32)) (s.shiftOf c) (s.cargo c (s.cargoIndex c w)).g (flag w 97)) :=
  ⟨⟨stepState (0 + 0 * 16 + 0 + (0) * 2 ^ 64), 63, (0 + 0 * 16 + 0 + (0) * 2 ^ 64), stepReady_of_ok _ _ _ _ _ (by decide +kernel)⟩,
    ⟨{ stepState (0 + 5 * 16 + 0 + (0) * 2 ^ 64) with boot := {} }, 63, (0 + 5 * 16 + 0 + (0) * 2 ^ 64),
      stepReady_of_ok _ _ _ _ _ (by decide +kernel)⟩,
    ⟨stepState (0 + 6 * 16 + 0 + (0) * 2 ^ 64), 63, (0 + 6 * 16 + 0 + (0) * 2 ^ 64), stepReady_of_ok _ _ _ _ _ (by decide +kernel)⟩,
    ⟨stepState (0 + 7 * 16 + 0 + (0) * 2 ^ 64), 63, (0 + 7 * 16 + 0 + (0) * 2 ^ 64), stepReady_of_ok _ _ _ _ _ (by decide +kernel)⟩,
    ⟨stepState (0 + 8 * 16 + 0 + (0) * 2 ^ 64), 63, (0 + 8 * 16 + 0 + (0) * 2 ^ 64), _, stepReady_of_ok _ _ _ _ _ (by decide +kernel), rfl⟩⟩

/-- The hypotheses of `Obligations.ControlStepsComplete`, clause by clause. -/
theorem witness_ControlStepsComplete :
    (∃ (s : State) (c : Fin 64) (index : BitVec 24) (sa : Nat) (l : Loc), (s.ctx c).st = .running ∧ index.toNat < (s.ctx c).man.nstep ∧ sa = (s.ctx
      c).man.steps + 32 * index.toNat ∧ (s.slot (sa / slotBytes)).dead = false ∧ (s.slot (sa / slotBytes)).cls ≠ .shared ∧ l = s.locate sa ∧
      ReadsAtOnce s (chanOfBank l.moduleBank) 6 (l.moduleBank % 48) l.row ∧ s.lineAsks (s.lineOfSa (sa / 64 * 64)) = false) ∧
    (∃ (s : State) (c : Fin 64) (index : BitVec 24) (sa : Nat), (s.ctx c).st = .running ∧ index.toNat < (s.ctx c).man.nstep ∧ sa = (s.ctx c).man.steps
      + 32 * index.toNat ∧ (s.slot (sa / slotBytes)).dead = true) ∧
    (∃ (s : State) (c : Fin 64) (index : BitVec 24) (sa : Nat), (s.ctx c).st = .running ∧ index.toNat < (s.ctx c).man.nstep ∧ sa = (s.ctx c).man.steps
      + 32 * index.toNat ∧ (s.slot (sa / slotBytes)).dead = false ∧ s.canRead 6 sa = false) ∧
    (∃ (s : State) (c : Fin 64), (s.ctx c).st = .running ∧ (s.ctx c).man.nstep ≤ (s.ctx c).next ∧ (s.ctx c).next < 2 ^ 24) ∧
    (∃ (s : State) (c : Fin 64) (w : Nat), StepReady s c 0 1 w ∧ (s.ctx c).outst = []) ∧
    (∃ (s : State) (c : Fin 64) (w : Nat), StepReady s c 0 2 w ∧ s.sizeOf c w (body w 16 32) ≠ 0) ∧
    (∃ (s : State) (c : Fin 64) (w : Nat), StepReady s c 0 2 w ∧ s.sizeOf c w (body w 16 32) = 0 ∧ (s.ctx c).stack = []) ∧
    (∃ (s : State) (c : Fin 64) (r : Replay) (rest : List Replay), (s.ctx c).st = .running ∧ (s.ctx c).pend = true ∧ (s.ctx c).access = none ∧ (s.ctx
      c).stack = r :: rest) ∧
    (∃ (s : State) (c : Fin 64) (r : Replay) (rest : List Replay) (a xs : Nat), (s.ctx c).st = .running ∧ (s.ctx c).pend = true ∧ (s.ctx c).access =
      none ∧ (s.ctx c).stack = r :: rest ∧ 0 < r.j ∧ incEntry r.word.toNat 0 = some (a, xs) ∧ (∀ m, 0 < m → m < 4 → incEntry r.word.toNat m = none) ∧
      (∀ m < 4, patEntry r.word.toNat m = none)) ∧
    (∃ (s : State) (c : Fin 64) (r : Replay) (rest : List Replay) (xd src : Nat), (s.ctx c).st = .running ∧ (s.ctx c).pend = true ∧ (s.ctx c).access =
      none ∧ (s.ctx c).stack = r :: rest ∧ 0 < r.j ∧ patEntry r.word.toNat 0 = some (xd, src, false) ∧ (∀ m < 4, incEntry r.word.toNat m = none) ∧ (∀
      m, 0 < m → m < 4 → patEntry r.word.toNat m = none)) ∧
    (∃ (s : State) (c : Fin 64) (w p : Nat), StepReady s c 0 11 w ∧ (s.ctx c).part = some p ∧ (s.part p).st ≠ .free ∧ (s.part p).st ≠ .homeless ∧
      (s.page (s.pageOfPart p)).en = true ∧ ((s.page (s.pageOfPart p)).eqtail.toNat + 2 ^ 32 - (s.page (s.pageOfPart p)).eqhead.toNat) % 2 ^ 32 < 2 ^
      (s.page (s.pageOfPart p)).eqsz) :=
  ⟨⟨{ lineOpen with ctxs := [(63, { st := .running, man := { nstep := 1, steps := 4032 } })] }, 63, 0, _, _, by decide +kernel, by decide +kernel,
      rfl, by decide +kernel, by decide +kernel, rfl, atOnce_of_ok _ _ _ _ _ (by decide +kernel), by decide +kernel⟩,
    ⟨{ live with ctxs := [(63, { st := .running, man := { nstep := 1, steps := 4032 } })], slots := [(0, { dead := true })] }, 63, 0, _,
      by decide +kernel, by decide +kernel, rfl, by decide +kernel⟩,
    ⟨{ live with ctxs := [(63, { st := .running, man := { nstep := 1, steps := 4032 } })], chans := [(lineChan, { mode := .nearBank })] }, 63, 0, _,
      by decide +kernel, by decide +kernel, rfl, by decide +kernel⟩,
    ⟨{ live with ctxs := [(63, { st := .running, next := 2 ^ 24 - 1, man := { nstep := 2 ^ 24 - 1 } })] }, 63, by decide +kernel⟩,
    ⟨stepState (0 + 1 * 16 + 0 + (0) * 2 ^ 64), 63, (0 + 1 * 16 + 0 + (0) * 2 ^ 64), stepReady_of_ok _ _ _ _ _ (by decide +kernel), by decide +kernel⟩,
    ⟨stepState (0 + 2 * 16 + 0 + (1 + 3 * 2 ^ 16) * 2 ^ 64), 63, (0 + 2 * 16 + 0 + (1 + 3 * 2 ^ 16) * 2 ^ 64),
      stepReady_of_ok _ _ _ _ _ (by decide +kernel), by decide +kernel⟩,
    ⟨stepState (0 + 2 * 16 + 0 + (1) * 2 ^ 64), 63, (0 + 2 * 16 + 0 + (1) * 2 ^ 64), stepReady_of_ok _ _ _ _ _ (by decide +kernel), by decide +kernel⟩,
    ⟨{ live with ctxs := [(63, { st := .running, pend := true, stack := [{ j := 1, n := 2, k := 1, word := BitVec.ofNat 256 (0) }] })] }, 63,
      { j := 1, n := 2, k := 1, word := BitVec.ofNat 256 (0) }, [], by decide +kernel⟩,
    ⟨{ live with ctxs := [(63, { st := .running, pend := true, stack := [{ j := 1, n := 2, k := 1, word := BitVec.ofNat 256 ((2 ^ 10 + 15 + 63 * 16) * 2 ^ 112) }] })] },
      63, { j := 1, n := 2, k := 1, word := BitVec.ofNat 256 ((2 ^ 10 + 15 + 63 * 16) * 2 ^ 112) }, [], 15, 63, by decide +kernel, by decide +kernel,
      by decide +kernel, by decide +kernel, by decide +kernel, by decide +kernel, by intro m h0 h; revert h0; revert h; revert m; decide +kernel,
      by decide +kernel⟩,
    ⟨{ live with ctxs := [(63, { st := .running, pend := true, stack := [{ j := 1, n := 2, k := 1, word := BitVec.ofNat 256 ((2 ^ 13 + 63 + 63 * 64) * 2 ^ 156) }] })] },
      63, { j := 1, n := 2, k := 1, word := BitVec.ofNat 256 ((2 ^ 13 + 63 + 63 * 64) * 2 ^ 156) }, [], 63, 63, by decide +kernel, by decide +kernel,
      by decide +kernel, by decide +kernel, by decide +kernel, by decide +kernel, by decide +kernel,
      by intro m h0 h; revert h0; revert h; revert m; decide +kernel⟩,
    ⟨stepState (0 + 11 * 16 + 0 + (0) * 2 ^ 64), 63, (0 + 11 * 16 + 0 + (0) * 2 ^ 64), 63, stepReady_of_ok _ _ _ _ _ (by decide +kernel),
      by decide +kernel⟩⟩

/-- The hypotheses of `Obligations.ScratchpadStepsComplete`, clause by clause. -/
theorem witness_ScratchpadStepsComplete :
    (∃ (s : State) (c : Fin 64) (w : Nat), StepReady s c 0 3 w ∧ (∀ k ≤ body w 38 6, s.spPoisoned (tileOfCtx c) ((s.xldSpan c w).1 + 8 * k) 8 =
      false)) ∧
    (∃ (s : State) (c : Fin 64) (w : Nat), StepReady s c 0 3 w) ∧
    (∃ (s : State) (c : Fin 64) (w : Nat), StepReady s c 0 4 w) ∧
    (∃ (s : State) (c : Fin 64) (a : Access), (s.ctx c).access = some a ∧ a.ends ≤ s.seqCycle ∧ a.kind < 3) ∧
    (∃ (s : State) (c : Fin 64) (a : Access), (s.ctx c).access = some a ∧ a.ends ≤ s.seqCycle ∧ a.kind = 3) ∧
    (∃ (s : State) (c : Fin 64) (a : Access), (s.ctx c).access = some a ∧ s.seqCycle < a.ends) ∧
    (∃ (s : State) (c : Fin 64) (w p : Nat), StepReady s c 0 9 w ∧ s.hasMail c (body w 0 3) = true ∧ (s.ctx c).part = some p ∧ (s.h2dSlot c (body w 0
      3)).2 = false) ∧
    (∃ (s : State) (c : Fin 64) (w p : Nat), StepReady s c 0 9 w ∧ s.hasMail c (body w 0 3) = true ∧ (s.ctx c).part = some p ∧ (s.h2dSlot c (body w 0
      3)).2 = true) ∧
    (∃ (s : State) (c : Fin 64) (w p : Nat), StepReady s c 0 10 w ∧ (s.ctx c).part = some p ∧ (s.page (s.pageOfPart p)).en = true) :=
  ⟨⟨stepState (0 + 3 * 16 + 0 + (63 * 2 ^ 38) * 2 ^ 64), 63, (0 + 3 * 16 + 0 + (63 * 2 ^ 38) * 2 ^ 64),
      stepReady_of_ok _ _ _ _ _ (by decide +kernel), by decide +kernel⟩,
    ⟨stepState (3 * 16 + 63 * 2 ^ 38 * 2 ^ 64), 63, 3 * 16 + 63 * 2 ^ 38 * 2 ^ 64, stepReady_of_ok _ _ _ _ _ (by decide +kernel)⟩,
    ⟨stepState (0 + 4 * 16 + 0 + (63 * 2 ^ 38) * 2 ^ 64), 63, (0 + 4 * 16 + 0 + (63 * 2 ^ 38) * 2 ^ 64),
      stepReady_of_ok _ _ _ _ _ (by decide +kernel)⟩,
    ⟨{ live with ctxs := [(63, { st := .running, access := some { kind := 2, fin := 10 } })], cyc := 100 }, 63, { kind := 2, fin := 10 },
      by decide +kernel⟩,
    ⟨{ live with ctxs := [(63, { st := .running, access := some { kind := 3, fin := 10 } })], cyc := 100 }, 63, { kind := 3, fin := 10 },
      by decide +kernel⟩,
    ⟨{ live with ctxs := [(63, { st := .running, access := some { fin := 1000 } })], cyc := 100 }, 63, { fin := 1000 }, by decide +kernel⟩,
    ⟨{ stepState (0 + 9 * 16 + 0 + (0) * 2 ^ 64) with parts := [(63, { st := .active, port := 3, vf := 15, h2d := [(0, BitVec.ofNat 512 (2 ^ 480))] })] },
      63, (0 + 9 * 16 + 0 + (0) * 2 ^ 64), 63, stepReady_of_ok _ _ _ _ _ (by decide +kernel), by decide +kernel⟩,
    ⟨{ stepState (9 * 16) with pages := [(67, { en := true, ringsz := 0x40404 })], lines := [(0, { data := BitVec.ofNat 512 (2 ^ 480), poison := true })] },
      63, 9 * 16, 63, stepReady_of_ok _ _ _ _ _ (by decide +kernel), by decide +kernel⟩,
    ⟨stepState (0 + 10 * 16 + 0 + (0) * 2 ^ 64), 63, (0 + 10 * 16 + 0 + (0) * 2 ^ 64), 63, stepReady_of_ok _ _ _ _ _ (by decide +kernel),
      by decide +kernel⟩⟩

/-- The hypotheses of `Obligations.DecodeFailureHalts`, clause by clause. -/
theorem witness_DecodeFailureHalts :
    ∃ (s : State) (c : Fin 64) (bw : BitVec 256) (bad : Bool), ∃ i, (s.ctx c).st = .running ∧ (s.ctx c).pend = false ∧ (s.ctx c).access = none ∧
      (Tab.get (fun _ => none) (s.ctx c).cache (s.ctx c).next = some (bw, bad)) ∧ i ∈ [Instr.nop c, .xset c, .amov c, .cmset c, .split c, .event c,
      .endStep c, .replay c, .xld c, .xst c, .mbxr c, .mbxw c, .mmul c, .mwake c, .vchain c, .fcopy c, .fxpose c, .fgather c, .fscatter c, .nbpass c,
      .gbar c, .gbcast c, .gred c, .gsnap c] :=
  ⟨stepState 0xFF, 63, 0xFF, false, .nop 63, by decide +kernel⟩

/-- The hypotheses of `Obligations.FerryCommandsComplete`, clause by clause. -/
theorem witness_FerryCommandsComplete :
    (∃ (s : State) (c : Fin 64) (w : Nat), StepReady s c 3 0 w) ∧
    (∃ (s : State) (c : Fin 64) (w : Nat), StepReady s c 3 1 w) ∧
    (∃ (s : State) (c : Fin 64) (w : Nat), StepReady s c 3 2 w) ∧
    (∃ (s : State) (c : Fin 64) (w : Nat), StepReady s c 3 3 w) ∧
    (∃ (s : State) (page : Fin 68) (d : Desc) (src dst : Operand), DescReady s page 7 d ∧ s.ownsCtx page d.ctx = true ∧ 1 ≤ d.f 256 64 ∧ d.f 256 64 ≤
      2 ^ 40 ∧ (s.ctx d.ctx).st ≠ .unbound ∧ s.share d.ctx 3 < 8 ∧ src = s.copyOperand d.ctx (d.f 80 2) (d.f 128 64) (d.f 256 64) ∧ dst =
      s.copyOperand d.ctx (d.f 82 2) (d.f 192 64) (d.f 256 64) ∧ src.space ≠ 1 ∧ dst.space ≠ 1 ∧ s.placeHalt d.ctx src = none ∧ s.placeHalt d.ctx dst
      = none ∧ (({ ctx := d.ctx, src := src, dst := dst } : FeStep).overlaps (tileOfCtx d.ctx) = true → src.dataBytes ≤ 0x400000) ∧ (s.fchan (16 *
      tileOfCtx d.ctx + 4 * (d.ctx % 4) + d.f 72 2)).st ≠ 2) ∧
    (∃ (s : State) (tile chan : Fin 16) (host : List (BitVec 8)) (bad : List Nat) (e : FeStep) (rest : List FeStep), (s.fchan (16 * tile.val +
      chan.val)).cur = none ∧ (s.fchan (16 * tile.val + chan.val)).queue = e :: rest ∧ (s.fchan (16 * tile.val + chan.val)).st = 0 ∧ e.entry ≤ s.cyc ∧
      (s.hub tile).engines.contains 2 = true ∧ e.overlaps tile = true ∧ (s.hub tile).overlap.isSome = true) ∧
    (∃ (s : State) (tile chan : Fin 16) (host : List (BitVec 8)) (bad : List Nat) (e : FeStep) (rest : List FeStep), (s.fchan (16 * tile.val +
      chan.val)).cur = none ∧ (s.fchan (16 * tile.val + chan.val)).queue = e :: rest ∧ (s.fchan (16 * tile.val + chan.val)).st = 0 ∧ (s.fchan (16 *
      tile.val + chan.val)).biWait = false ∧ e.entry ≤ s.cyc ∧ (s.hub tile).engines.contains 2 = true ∧ e.src.space = 0 ∧ e.dst.space = 0 ∧ stopOf
      (s.moves e) = none ∧ s.outstanding tile chan = [] ∧ (e.overlaps tile = true → (s.hub tile).overlap = none)) ∧
    (∃ (s : State) (tile chan : Fin 16) (e : FeStep), (s.fchan (16 * tile.val + chan.val)).cur = some e ∧ (s.fchan (16 * tile.val + chan.val)).st = 3
      ∧ (s.hub tile).overlap = none ∧ (s.fchan (16 * tile.val + chan.val)).biWait = false ∧ (s.fchan (16 * tile.val + chan.val)).done = false ∧
      (s.fchan (16 * tile.val + chan.val)).moved = false ∧ (s.fchan (16 * tile.val + chan.val)).badLine = none ∧ (s.fchan (16 * tile.val +
      chan.val)).todo = [] ∧ e.src.space = 0 ∧ e.dst.space = 0 ∧ stopOf (s.moves e) = none ∧ s.outstanding tile chan = []) ∧
    (∃ (s : State) (tile chan : Fin 16) (e : FeStep), (s.fchan (16 * tile.val + chan.val)).cur = some e ∧ (s.fchan (16 * tile.val + chan.val)).done =
      true ∧ (s.fchan (16 * tile.val + chan.val)).posted = 0 ∧ (s.fchan (16 * tile.val + chan.val)).todo = [] ∧ s.outstanding tile chan = [] ∧
      (s.fchan (16 * tile.val + chan.val)).startAt + (s.fchan (16 * tile.val + chan.val)).need ≤ s.cyc) ∧
    (∃ (s : State) (tile chan : Fin 16) (fault : BitVec 4) (operand : Fin 4) (addr : BitVec 48) (space : BitVec 3) (at_ : Fin 16) (module : BitVec 6)
      (e : FeStep), 1 ≤ fault.toNat ∧ fault.toNat ≤ 8 ∧ (s.fchan (16 * tile.val + chan.val)).cur = some e) :=
  ⟨⟨stepState (3 + 0 * 16 + (2 ^ 2 + 2 ^ 22) * 2 ^ 64), 63, 3 + 0 * 16 + (2 ^ 2 + 2 ^ 22) * 2 ^ 64, stepReady_of_ok _ _ _ _ _ (by decide +kernel)⟩,
    ⟨stepState (3 + 1 * 16 + (2 ^ 2 + 2 ^ 22) * 2 ^ 64), 63, 3 + 1 * 16 + (2 ^ 2 + 2 ^ 22) * 2 ^ 64, stepReady_of_ok _ _ _ _ _ (by decide +kernel)⟩,
    ⟨stepState (3 + 2 * 16 + (2 ^ 2 + 2 ^ 22 + 9 * 2 ^ 42) * 2 ^ 64), 63, 3 + 2 * 16 + (2 ^ 2 + 2 ^ 22 + 9 * 2 ^ 42) * 2 ^ 64,
      stepReady_of_ok _ _ _ _ _ (by decide +kernel)⟩,
    ⟨stepState (3 + 3 * 16 + (2 ^ 2 + 2 ^ 22 + 9 * 2 ^ 42) * 2 ^ 64), 63, 3 + 3 * 16 + (2 ^ 2 + 2 ^ 22 + 9 * 2 ^ 42) * 2 ^ 64,
      stepReady_of_ok _ _ _ _ _ (by decide +kernel)⟩,
    ⟨{ partState {} { part := some 63, st := .idle, winSize := 128 } (7 + 63 * 2 ^ 64 + 3 * 2 ^ 72 + 4096 * 2 ^ 192 + 1 * 2 ^ 256) with hubs := [] },
      67, { data := BitVec.ofNat 512 (7 + 63 * 2 ^ 64 + 3 * 2 ^ 72 + 4096 * 2 ^ 192 + 1 * 2 ^ 256) }, _, _, by unfold DescReady; decide +kernel,
      by decide +kernel, by decide +kernel, by decide +kernel, by decide +kernel, by decide +kernel, rfl, rfl, by decide +kernel⟩,
    ⟨feState { queue := [{ ctx := 60 }] } (some 0), 15, 15, [], [], { ctx := 60 }, [], by decide +kernel⟩,
    ⟨feState { queue := [{ ctx := 60, dst := { base := 4096 } }] } none, 15, 15, [], [], { ctx := 60, dst := { base := 4096 } }, [],
      by decide +kernel⟩,
    ⟨feState { cur := some { ctx := 60, dst := { base := 4096 } }, st := 3 } none, 15, 15, { ctx := 60, dst := { base := 4096 } }, by decide +kernel⟩,
    ⟨feState { cur := some { ctx := 60, dst := { base := 4096 } }, done := true } none, 15, 15, { ctx := 60, dst := { base := 4096 } },
      by decide +kernel⟩,
    ⟨feState { cur := some { ctx := 60, dst := { base := 4096 } } } none, 15, 15, 8, 3, 0xFFFFFFFFFFFF, 7, 15, 63,
      { ctx := 60, dst := { base := 4096 } }, by decide +kernel⟩⟩

/-- The hypotheses of `Obligations.MatrixStepsComplete`, clause by clause. -/
theorem witness_MatrixStepsComplete :
    (∃ (s : State) (c : Fin 64) (w : Nat), StepReady s c 1 0 w) ∧
    (∃ (s : State) (c : Fin 64) (w : Nat), StepReady s c 1 1 w) ∧
    (∃ (s : State) (tile : Fin 16) (e : MeStep), (s.hub tile).engines.contains 0 = true ∧ ((s.mat tile).heads.find? (fun e => e.op == 1 && decide
      (e.entry ≤ s.cyc)) = some e) ∧ (s.mat tile).awake = true ∧ (s.mat tile).wake = []) ∧
    (∃ (s : State) (tile : Fin 16) (e : MeStep), (s.hub tile).engines.contains 0 = true ∧ ((s.mat tile).heads.find? (fun e => e.op == 1 && decide
      (e.entry ≤ s.cyc)) = some e) ∧ (s.mat tile).awake = false) ∧
    (∃ (s : State) (tile : Fin 16) (e : MeStep) (s0 : Nat), (s.hub tile).engines.contains 0 = true ∧ ((s.mat tile).heads.find? (fun e => e.op == 1 &&
      decide (e.entry ≤ s.cyc)) = none) ∧ ((s.mat tile).heads.find? (fun e => e.op == 0 &&
      (match (s.mat tile).holder with | some q => e.ctx % 4 == q | none => true)) = some e) ∧ e.entry ≤ s.cyc ∧ (e.cont = true → (s.mat tile).res ≠
      none ∨ (s.mat tile).runs ≠ []) ∧ (∀ sl ∈ (s.mat tile).used e, sl ∈ (s.mat tile).ungated) ∧ (s.mat tile).startCycle e s.cyc = some s0) ∧
    (∃ (s : State) (tile : Fin 16) (r : MeRun) (front : List MeRun), (s.mat tile).runs = front ++ [r] ∧ r.wave < r.waves ∧ r.start ≤ s.cyc ∧ (s.mat
      tile).held s.cyc = false ∧ (∀ q ∈ (s.mat tile).runs, q.active = false) ∧ (s.mat tile).swapPos = none) ∧
    (∃ (s : State) (tile : Fin 16) (r : MeRun) (i : Nat), (s.mat tile).held s.cyc = false ∧ ((s.mat tile).runs.find? (fun q => q.active) = some r) ∧
      (s.mat tile).runs[i]? = some r ∧ (grantWords [] (if r.todo = [] then r.words (s.mat tile).chained tile else r.todo)).2 ≠ []) ∧
    (∃ (s : State) (tile : Fin 16) (r : MeRun) (rest : List MeRun) (n : Nat) (p : Panel) (more : List (Nat × Panel)), (s.mat tile).runs = r :: rest ∧
      r.waiting = (n, p) :: more ∧ n ≤ s.cyc ∧ r.due ≤ s.cyc ∧ ((Tab.get (fun _ => []) (s.mat tile).fpq p.ctx).length < 16)) ∧
    (∃ (s : State) (tile : Fin 16) (r : MeRun) (rest : List MeRun), (s.mat tile).runs = r :: rest ∧ r.st.keep = true ∧ r.wave = r.waves ∧ r.active =
      false ∧ r.lastStart + r.st.kc + 260 ≤ s.cyc) :=
  ⟨⟨stepState (1 + 0 * 16 + 0 + (3 * 2 ^ 56 + 3 * 2 ^ 76) * 2 ^ 64), 63, (1 + 0 * 16 + 0 + (3 * 2 ^ 56 + 3 * 2 ^ 76) * 2 ^ 64),
      stepReady_of_ok _ _ _ _ _ (by decide +kernel)⟩,
    ⟨stepState (1 + 1 * 16 + 0 + (0) * 2 ^ 64), 63, (1 + 1 * 16 + 0 + (0) * 2 ^ 64), stepReady_of_ok _ _ _ _ _ (by decide +kernel)⟩,
    ⟨meState { queue := [{ ctx := 60, op := 1 }], ungated := List.range 20 }, 15, { ctx := 60, op := 1 }, by decide +kernel⟩,
    ⟨meState { queue := [{ ctx := 60, op := 1 }] }, 15, { ctx := 60, op := 1 }, by decide +kernel⟩,
    ⟨meState { queue := [{ ctx := 60, m := 128, n := 128, k := 32 }], ungated := List.range 20 }, 15, { ctx := 60, m := 128, n := 128, k := 32 },
      1000000, by decide +kernel⟩,
    ⟨meState { runs := [{ st := { ctx := 60, m := 128, n := 128, k := 32 } }] }, 15, { st := { ctx := 60, m := 128, n := 128, k := 32 } }, [],
      by decide +kernel⟩,
    ⟨meState { runs := [{ st := { ctx := 60, m := 128, n := 128, k := 32 }, active := true, todo := [0, 2048] }] }, 15,
      { st := { ctx := 60, m := 128, n := 128, k := 32 }, active := true, todo := [0, 2048] }, 0, by decide +kernel⟩,
    ⟨meState { runs := [{ st := { ctx := 60, m := 128, n := 128, k := 32 }, waiting := [(1000000, { ctx := 0 })], due := 1000000 }], fpq := [(0, List.replicate 15 {})] },
      15, { st := { ctx := 60, m := 128, n := 128, k := 32 }, waiting := [(1000000, { ctx := 0 })], due := 1000000 }, [], 1000000, { ctx := 0 }, [],
      by decide +kernel⟩,
    ⟨meState { runs := [{ st := { ctx := 60, m := 128, n := 128, k := 32, keep := true }, wave := 1 }] }, 15,
      { st := { ctx := 60, m := 128, n := 128, k := 32, keep := true }, wave := 1 }, [], by decide +kernel⟩⟩

/-- The hypotheses of `Obligations.SliceCommandsComplete`, clause by clause. -/
theorem witness_SliceCommandsComplete :
    (∃ (s : State) (tile : Fin 16) (r : Resident), (s.mat tile).res = some r ∧ (s.mat tile).runs = [] ∧ (∃ e ∈ (s.mat tile).queue, e.op = 0 ∧ e.ctx %
      4 ≠ r.ctx)) ∧
    (∃ (s : State) (tile : Fin 16) (pos : Fin 20) (r : MeRun), ((s.mat tile).runs.find? (fun q => q.active) = some r) ∧ 0 < r.wave ∧ pos.val < (s.mat
      tile).serve.length ∧ (∃ x ∈ r.roods (r.wave - 1), x.1 = pos.val) ∧ (s.mat tile).free ≠ none) ∧
    (∃ (s : State) (tile : Fin 16) (pos : Fin 20) (r : MeRun) (front : List MeRun), (s.mat tile).runs = front ++ [r] ∧ 0 < r.wave ∧ (∀ q ∈ (s.mat
      tile).runs, q.active = false) ∧ pos.val < (s.mat tile).serve.length ∧ (∃ x ∈ r.roods (r.wave - 1), x.1 = pos.val) ∧ (s.mat tile).free ≠ none) ∧
    (∃ (s : State) (tile : Fin 16) (sl : Nat), (s.mat tile).testing = some sl ∧ s.worn tile (s.mat tile) sl = false ∧ sl ∉ (s.mat tile).serve ∧ (s.mat
      tile).free = none) ∧
    (∃ (s : State) (tile : Fin 16) (sl : Nat), (s.mat tile).testing = some sl) ∧
    (∃ (s : State) (tile : Fin 16), s.inForce tile rMECFG 8 8 ≠ 0 ∧ (s.mat tile).free ≠ none ∧ (s.mat tile).testing = none ∧ (s.mat tile).swapPos =
      none ∧ (s.mat tile).serve ≠ []) ∧
    (∃ (s : State) (tile : Fin 16) (slice : Fin 21), slice.val ∈ (s.mat tile).ungated ∧ s.inForce tile rMECFG 0 8 ≠ 0 ∧ (s.mat tile).runs = [] ∧
      (s.mat tile).res = none ∧ (Tab.get (fun _ => 0) (s.mat tile).usedAt slice + s.inForce tile rMECFG 0 8 * 1024 ≤ s.cyc)) ∧
    (∃ (s : State) (tile : Fin 16) (slice : Fin 21), (2, slice.val) ∈ (s.hub tile).admitted) :=
  ⟨⟨meState { res := some { ctx := 1 }, queue := [{ ctx := 60, m := 128, n := 128, k := 32 }] }, 15, { ctx := 1 }, by decide +kernel⟩,
    ⟨meState { runs := [{ st := { ctx := 60, m := 128, n := 2560, k := 32 }, wave := 1, active := true }] }, 15, 19,
      { st := { ctx := 60, m := 128, n := 2560, k := 32 }, wave := 1, active := true }, by decide +kernel⟩,
    ⟨meState { runs := [{ st := { ctx := 60, m := 128, n := 2560, k := 32 }, wave := 1 }] }, 15, 19,
      { st := { ctx := 60, m := 128, n := 2560, k := 32 }, wave := 1 }, [], by decide +kernel⟩,
    ⟨meState { testing := some 20, free := none }, 15, 20, by decide +kernel⟩,
    ⟨meState { testing := some 20, free := none }, 15, 20, by decide +kernel⟩,
    ⟨meState {}, 15, by decide +kernel⟩,
    ⟨meState { ungated := [20] }, 15, 20, by decide +kernel⟩,
    ⟨{ live with hubs := [(15, { admitted := [(2, 20)] })] }, 15, 20, by decide +kernel⟩⟩

/-- The hypotheses of `Obligations.NearBankStepsComplete`, clause by clause. -/
theorem witness_NearBankStepsComplete :
    (∃ (s : State) (c : Fin 64) (w : Nat), StepReady s c 4 0 w) ∧
    (∃ (s : State) (ch : Fin 1536) (c : Fin 64) (entry : BitVec 16) (round : Fin 8) (cell span : BitVec 16) (r : NbRun) (e : Nat × Nat) (id : PassId),
      id = { entry := entry.toNat, round := round, cell := cell.toNat, span := span.toNat } ∧ (s.ctx c).nbrun = some r ∧ (r.entries.find? (fun e =>
      e.1 == entry.toNat) = some e) ∧ 8 * round.val < r.st.b ∧ span.toNat < (s.passPlan ch r.st e.2 id).spans ∧ (s.ctx c).live = true ∧ (s.passPlan ch
      r.st e.2 id).stale = none ∧ (s.passPlan ch r.st e.2 id).members ≠ [] ∧ (r.inOrder ch id (fun ro => ceilDiv (s.cargo c r.st.cargo).blocks (128 /
      pitchOf (min 8 (r.st.b - 8 * ro)))) = true) ∧ (s.chan ch).mode = .nearBank ∧ (s.chan ch).pass = none ∧ (s.chan ch).lock = none ∧ (s.chan
      ch).yield = false ∧ (s.chan ch).nbHold = false ∧ (span.toNat ≠ 0 ∨ (s.chan ch).needAcl = [])) ∧
    (∃ (s : State) (ch : Fin 1536) (c : Fin 64) (entry : BitVec 16) (round : Fin 8) (cell span : BitVec 16) (r : NbRun) (e : Nat × Nat) (id : PassId),
      id = { entry := entry.toNat, round := round, cell := cell.toNat, span := span.toNat } ∧ (s.ctx c).nbrun = some r ∧ (r.entries.find? (fun e =>
      e.1 == entry.toNat) = some e) ∧ 8 * round.val < r.st.b ∧ span.toNat < (s.passPlan ch r.st e.2 id).spans ∧ (s.ctx c).live = true ∧ (s.passPlan ch
      r.st e.2 id).stale = none ∧ (s.passPlan ch r.st e.2 id).members ≠ [] ∧ (r.inOrder ch id (fun ro => ceilDiv (s.cargo c r.st.cargo).blocks (128 /
      pitchOf (min 8 (r.st.b - 8 * ro)))) = true) ∧ (s.chan ch).mode ≠ .nearBank) ∧
    (∃ (s : State) (ch : Fin 1536) (c : Fin 64) (entry : BitVec 16) (round : Fin 8) (cell span : BitVec 16) (r : NbRun) (e : Nat × Nat) (id : PassId)
      (x : Nat × Nat), id = { entry := entry.toNat, round := round, cell := cell.toNat, span := span.toNat } ∧ (s.ctx c).nbrun = some r ∧
      (r.entries.find? (fun e => e.1 == entry.toNat) = some e) ∧ 8 * round.val < r.st.b ∧ span.toNat < (s.passPlan ch r.st e.2 id).spans ∧ (s.ctx
      c).live = true ∧ (s.passPlan ch r.st e.2 id).stale = some x) ∧
    (∃ (s : State) (ch : Fin 1536) (p : Pass) (f q : Nat), (s.chan ch).mode = .nearBank ∧ (s.chan ch).yield = false ∧ (s.chan ch).pass = some p ∧
      p.yieldDue = true ∧ s.computing ch = false ∧ (s.leavesAtYield ch = true ∨ (s.stack (ch.val / 16)).half = false) ∧ (s.chan ch).flips = [f] ∧
      (Tab.wf (fun _ => ({} : Channel)) s.chans = true) ∧ (∀ k, k ≠ ch.val → f ∉ (s.chan k).flips) ∧ (s.slot f).moveTo = some q) ∧
    (∃ (s : State) (ch : Fin 1536) (p : Pass), (s.chan ch).mode = .nearBank ∧ (s.chan ch).yield = false ∧ (s.chan ch).pass = some p ∧ p.yieldDue =
      true ∧ s.computing ch = false ∧ (s.leavesAtYield ch = true ∨ (s.stack (ch.val / 16)).half = false) ∧ (s.chan ch).flips = []) ∧
    (∃ (s : State) (ch : Fin 1536) (p : Pass), (s.chan ch).pass = some p ∧ p.abandon = true ∧ ((s.chan ch).mode ≠ .nearBank ∨ (s.chan ch).yield = true
      ∨ p.rowsDone = 0 ∨ p.rows ≤ p.rowsDone ∨ p.yieldDue = true) ∧ (s.chan ch).flips = []) ∧
    (∃ (s : State) (ch : Fin 1536) (buf : Fin 16) (d : DrainKey) (r : NbRun), (s.cru (ch.val * 16 + buf.val)).busy = true ∧ (s.cru (ch.val * 16 +
      buf.val)).lastAt + 4 ≤ s.cyc ∧ (s.cru (ch.val * 16 + buf.val)).dst = some d ∧ s.drainOpen ch (some d) = false ∧ (s.ctx d.ctx).nbrun = some r) ∧
    (∃ (s : State) (c : Fin 64) (r : NbRun), (s.ctx c).nbrun = some r ∧ (s.ctx c).live = true ∧ ((s.nbNeeds r).all (fun k => r.drains.any (fun d =>
      d.key == k)) = true) ∧ r.st.ctx = c.val) :=
  ⟨⟨stepState (4 + 0 * 16 + 0 + (5 * 2 ^ 17 + 2 ^ 37 + 4608 * 2 ^ 104) * 2 ^ 64), 63,
      (4 + 0 * 16 + 0 + (5 * 2 ^ 17 + 2 ^ 37 + 4608 * 2 ^ 104) * 2 ^ 64), stepReady_of_ok _ _ _ _ _ (by decide +kernel)⟩,
    ⟨nbState { st := { ctx := 63, b := 64, gcnt := 4608 }, entries := [(0, 0)] } { mode := .nearBank }, 1535, 63, 0, 7, 0, 0,
      { st := { ctx := 63, b := 64, gcnt := 4608 }, entries := [(0, 0)] }, (0, 0), { entry := 0, round := 7, cell := 0, span := 0 },
      by decide +kernel⟩,
    ⟨nbState { st := { ctx := 63, b := 64, gcnt := 4608 }, entries := [(0, 0)] } {}, 1535, 63, 0, 7, 0, 0,
      { st := { ctx := 63, b := 64, gcnt := 4608 }, entries := [(0, 0)] }, (0, 0), { entry := 0, round := 7, cell := 0, span := 0 },
      by decide +kernel⟩,
    ⟨{ nbState { st := { ctx := 63, b := 64, gcnt := 4608 }, entries := [(0, 0)] } {} with slots := [(15, { phys := 0 })] }, 1535, 63, 0, 7, 0, 0,
      { st := { ctx := 63, b := 64, gcnt := 4608 }, entries := [(0, 0)] }, (0, 0), _, (15, 0), rfl, by decide +kernel⟩,
    ⟨{ chanState { mode := .nearBank, pass := some { rowsDone := 2, rows := 3, since := 2, taken := 1000 }, flips := [7167] } with slots := [(7167, { phys := 511, moveTo := some 8191 })] },
      1535, { rowsDone := 2, rows := 3, since := 2, taken := 1000 }, 7167, 8191, by decide +kernel, by decide +kernel, by decide +kernel,
      by decide +kernel, by decide +kernel, by decide +kernel, by decide +kernel, by decide +kernel,
      fun k h => by rw [chan_other_slots _ _ k h]; exact List.not_mem_nil, by decide +kernel⟩,
    ⟨chanState { mode := .nearBank, pass := some { rowsDone := 2, rows := 3, since := 2, taken := 1000 } }, 1535,
      { rowsDone := 2, rows := 3, since := 2, taken := 1000 }, by decide +kernel⟩,
    ⟨chanState { pass := some { abandon := true } }, 1535, { abandon := true }, by decide +kernel⟩,
    ⟨{ nbState { st := { ctx := 63, b := 64, gcnt := 4608 }, entries := [(0, 0)] } {} with cyc := 4, crus := [(24575, { busy := true, dst := some { ctx := 63 } })] },
      1535, 15, { ctx := 63 }, { st := { ctx := 63, b := 64, gcnt := 4608 }, entries := [(0, 0)] }, by decide +kernel⟩,
    ⟨nbState { st := { ctx := 63, gcnt := 1 }, entries := [(0, 0)], drains := [{ key := { ctx := 63, tile := 15 } }] } {}, 63,
      { st := { ctx := 63, gcnt := 1 }, entries := [(0, 0)], drains := [{ key := { ctx := 63, tile := 15 } }] }, by decide +kernel⟩⟩

/-- The hypotheses of `Obligations.RecomputeComplete`, clause by clause. -/
theorem witness_RecomputeComplete :
    (∃ (s : State) (tile : Fin 16) (r : Rebuild) (rest : List Rebuild), (s.hub tile).rebuilds = r :: rest ∧ r.started = false) ∧
    (∃ (s : State) (tile : Fin 16) (r : Rebuild) (rest : List Rebuild) (b : Nat), (s.hub tile).rebuilds = r :: rest ∧ r.started = true ∧ b = bankOf
      r.chan r.bank ∧ (∀ g ∈ r.groups, (s.cru (r.chan * 16 + g.buf)).busy = false ∨ (s.cru (r.chan * 16 + g.buf)).dst = g.dst) ∧ (∀ g ∈ r.groups, ∀ p
      ∈ g.passes, ∀ rk ∈ p.rowKeys b, ∀ c ∈ p.columns b rk, s.columnAsks rk c = false) ∧ (∃ g ∈ r.groups, ∃ p ∈ g.passes, s.passClean b p = false)) ∧
    (∃ (s : State) (tile : Fin 16) (r : Rebuild) (rest : List Rebuild) (b : Nat), (s.hub tile).rebuilds = r :: rest ∧ r.started = true ∧ b = bankOf
      r.chan r.bank ∧ (r.groups.map RebuildGroup.group).Nodup ∧ (∀ g ∈ r.groups, g.group < 8) ∧ (∀ g ∈ r.groups, (s.cru (r.chan * 16 + g.buf)).busy =
      false ∨ (s.cru (r.chan * 16 + g.buf)).dst = g.dst) ∧ (∀ g ∈ r.groups, ∀ p ∈ g.passes, ∀ rk ∈ p.rowKeys b, ∀ c ∈ p.columns b rk, s.columnAsks rk
      c = false) ∧ (∀ g ∈ r.groups, ∀ p ∈ g.passes, s.passClean b p = true)) ∧
    (∃ (s : State) (tile : Fin 16) (r : Rebuild) (rest : List Rebuild), (s.hub tile).rebuilds = r :: rest ∧ r.started = true ∧ (∃ g ∈ r.groups, (s.cru
      (r.chan * 16 + g.buf)).busy = true ∧ (s.cru (r.chan * 16 + g.buf)).dst ≠ g.dst)) :=
  ⟨⟨{ live with hubs := [(15, { rebuilds := [{ chan := 1535, bank := 47, groups := [{ group := 7, buf := 15 }] }] })] }, 15,
      { chan := 1535, bank := 47, groups := [{ group := 7, buf := 15 }] }, [], by decide +kernel⟩,
    ⟨{ live with hubs := [(15, { rebuilds := [{ chan := 1535, bank := 47, groups := [{ group := 7, buf := 15, passes := [{ row := 0xFFFF, cols := 64 }] }], started := true }] })], rows := [(rowKey 73727 0xFFFF, { tag := 1 })] },
      15, { chan := 1535, bank := 47, groups := [{ group := 7, buf := 15, passes := [{ row := 0xFFFF, cols := 64 }] }], started := true }, [], _,
      by decide +kernel, by decide +kernel, rfl, by decide +kernel⟩,
    ⟨{ live with hubs := [(15, { rebuilds := [{ chan := 1535, bank := 47, groups := [{ group := 7, buf := 15, passes := [{ row := 0xFFFF, col := 62, cols := 2 }] }], started := true }] })] },
      15, { chan := 1535, bank := 47, groups := [{ group := 7, buf := 15, passes := [{ row := 0xFFFF, col := 62, cols := 2 }] }], started := true },
      [], _, by decide +kernel, by decide +kernel, rfl, by decide +kernel⟩,
    ⟨{ live with hubs := [(15, { rebuilds := [{ chan := 1535, bank := 47, groups := [{ group := 7, buf := 15, passes := [{ row := 0xFFFF, col := 62, cols := 2 }] }], started := true }] })], crus := [(24575, { busy := true, dst := some { ctx := 63 } })] },
      15, { chan := 1535, bank := 47, groups := [{ group := 7, buf := 15, passes := [{ row := 0xFFFF, col := 62, cols := 2 }] }], started := true },
      [], by decide +kernel⟩⟩

/-- The hypotheses of `Obligations.VectorStepsComplete`, clause by clause. -/
theorem witness_VectorStepsComplete :
    (∃ (s : State) (tile : Fin 16) (taken : List Nat) (i : Nat) (r : VeRun), (s.vec tile).runs[i]? = some r ∧ (s.vec tile).words ≠ [] ∧ (grantWords
      taken (s.vec tile).words).2 ≠ []) ∧
    (∃ (s : State) (c : Fin 64) (w : Nat), StepReady s c 2 0 w) ∧
    (∃ (s : State) (tile : Fin 16) (e : VeStep) (more : List VeStep) (f : Nat), (s.vec tile).heads = e :: more ∧ (s.hub tile).engines.contains 1 =
      true ∧ e.entry ≤ s.cyc ∧ (s.vec tile).startCycle e s.cyc = some f) ∧
    (∃ (s u : State) (tile : Fin 16) (r : VeRun) (front : List VeRun) (i : Intake), u = s.veAdvance tile ∧ (u.vec tile).runs = front ++ [r] ∧ r.panel
      < r.st.panels ∧ r.nextEntry ≤ u.cyc ∧ u.intake tile r = some i) ∧
    (∃ (s u : State) (tile : Fin 16) (r : VeRun) (front : List VeRun), u = s.veAdvance tile ∧ (u.vec tile).runs = front ++ [r] ∧ r.panel < r.st.panels
      ∧ r.nextEntry ≤ u.cyc ∧ r.st.src = 1 ∧ (Tab.get (fun _ => []) (u.mat tile).fpq (r.st.ctx % 4) = []) ∧ (u.mat tile).hasWork r.st.ctx = false ∧
      (u.ctx r.st.ctx).st = .running) ∧
    (∃ (s u : State) (tile : Fin 16) (r : VeRun), u = s.veAdvance tile ∧ ((u.vec tile).runs.find? (fun r => r.ended u.cyc) = some r)) :=
  ⟨⟨veState { runs := [{}], words := [2048] }, 15, [0], 0, {}, by decide +kernel⟩,
    ⟨stepState (2 + 0 * 16 + 0 + (2 ^ 12) * 2 ^ 64), 63, (2 + 0 * 16 + 0 + (2 ^ 12) * 2 ^ 64), stepReady_of_ok _ _ _ _ _ (by decide +kernel)⟩,
    ⟨veState { queue := [{ ctx := 60 }] }, 15, { ctx := 60 }, [], 4, by decide +kernel⟩,
    ⟨veState { runs := [{ st := { ctx := 60 } }] }, (veState { runs := [{ st := { ctx := 60 } }] }).veAdvance 15, 15, { st := { ctx := 60 } }, [],
      { row := 0, col := 0, ld0 := noLoad, sati := false }, rfl, by decide +kernel⟩,
    ⟨veState { runs := [{ st := { ctx := 60, src := 1, np := 1 } }] },
      (veState { runs := [{ st := { ctx := 60, src := 1, np := 1 } }] }).veAdvance 15, 15, { st := { ctx := 60, src := 1, np := 1 } }, [], rfl,
      by decide +kernel⟩,
    ⟨{ veState { runs := [{ st := { ctx := 60 }, panel := 1 }] } with cyc := 1000 },
      ({ veState { runs := [{ st := { ctx := 60 }, panel := 1 }] } with cyc := 1000 } : State).veAdvance 15, 15, { st := { ctx := 60 }, panel := 1 },
      rfl, by decide +kernel⟩⟩

/-- The hypotheses of `Obligations.TranslationComplete`, clause by clause. -/
theorem witness_TranslationComplete :
    (∃ (s : State) (tile : Fin 16) (image : List (BitVec 8)) (ok : Bool) (native : Option (List (BitVec 256))) (map : List (BitVec 32)) (j j1 :
      LoadJob) (rest : List LoadJob) (src : List (BitVec 8) × Bool) (f : TFail), (s.tran tile).run = none ∧ (s.tran tile).queue = j :: rest ∧ src =
      (if j.sa then s.readBytes j.src j.len else (image, !ok)) ∧ j1 = { j with image := src.1, bad := src.2, at_ := s.cyc } ∧ s.loadFault j1 native =
      some f ∧ (f = { tstat := 8 } → native = none → s.orderingOk j1 native (map.map BitVec.toNat) = true)) ∧
    (∃ (s : State) (tile : Fin 16) (image : List (BitVec 8)) (ok : Bool) (native : List (BitVec 256)) (map : List (BitVec 32)) (j j1 : LoadJob) (rest
      : List LoadJob) (src : List (BitVec 8) × Bool), (s.tran tile).run = none ∧ (s.tran tile).queue = j :: rest ∧ src = (if j.sa then s.readBytes
      j.src j.len else (image, !ok)) ∧ j1 = { j with image := src.1, bad := src.2, at_ := s.cyc } ∧ s.loadFault j1 (some native) = none ∧ s.orderingOk
      j1 (some native) (map.map BitVec.toNat) = true) ∧
    (∃ (s : State) (tile : Fin 16) (x : LoadJob), (s.tran tile).heldLoads = [x] ∧ (s.tran tile).queue.length < 16 ∧ s.fw.st ≠ 2 ∧ s.loadRefusal x =
      none) ∧
    (∃ (s : State) (tile : Fin 16) (j : LoadJob), (s.tran tile).run = some j ∧ j.status = 0 ∧ BitVec.ofNat 64 (s.tileTag (pheader j.image).tile) =
      j.tag0) ∧
    (∃ (s : State) (tile : Fin 16) (j : LoadJob), (s.tran tile).run = some j ∧ j.status ≠ 0) :=
  ⟨⟨{ live with trans := [(15, { queue := [{ part := 63 }] })] }, 15, [], true, none, [], { part := 63 }, _, [], _, { tstat := 1 },
      by decide +kernel, by decide +kernel, rfl, rfl, by decide +kernel⟩,
    ⟨{ live with trans := [(15, { queue := [{ part := 63 }] })], slots := [(7167, { phys := 8191, owner := some 63, cls := .devOnly })] }, 15,
      program, true, native, [0x80000000, 0x80000000, 0x80000000, 0x80000000, 0], { part := 63 }, _, [], _, by decide +kernel, by decide +kernel, rfl,
      rfl, loadFault_program _ rfl (by decide +kernel), by decide +kernel⟩,
    ⟨{ live with trans := [(15, { heldLoads := [{}] })] }, 15, {}, by decide +kernel⟩,
    ⟨{ live with trans := [(15, { run := some { image := program, tag0 := 0x14F0102 } })] }, 15, { image := program, tag0 := 0x14F0102 },
      by decide +kernel⟩,
    ⟨{ live with trans := [(15, { run := some { status := 13 } })] }, 15, { status := 13 }, by decide +kernel⟩⟩

/-- The hypotheses of `Obligations.GlobalOperationsComplete`, clause by clause. -/
theorem witness_GlobalOperationsComplete :
    (∃ (s : State) (c : Fin 64) (w : Nat) (q : GStep), GlobalNext s c 0 w q ∧ GlobalFits s c q) ∧
    (∃ (s : State) (c : Fin 64) (w : Nat) (q : GStep), GlobalNext s c 1 w q ∧ GlobalFits s c q) ∧
    (∃ (s : State) (c : Fin 64) (w : Nat) (q : GStep), GlobalNext s c 2 w q ∧ GlobalFits s c q) ∧
    (∃ (s : State) (c : Fin 64) (w : Nat) (q : GStep), GlobalNext s c 3 w q ∧ GlobalFits s c q) ∧
    (∃ (s : State) (c : Fin 64) (w op : Nat) (cmd : Instr) (q : GStep), (cmd, op) ∈ [(Instr.gbar c, 0), (Instr.gbcast c, 1), (Instr.gred c, 2),
      (Instr.gsnap c, 3)] ∧ GlobalNext s c op w q ∧ (¬ GlobalFits s c q)) ∧
    (∃ (s s0 : State) (c : Fin 64) (q : GStep) (i : Inst) (r : Strip), (s.ctx c).gq = some q ∧ s0 = s.advanceInst q.group q.inst ∧ s0.inst q.group
      q.inst = some i ∧ i.sent = true ∧ i.result = some r) ∧
    (∃ (s : State) (g : Fin 64) (i : Inst), ((s.group g).insts.find? (fun i => i.ctxs != [] && decide (i.firstAt + s.cfg rXLCFG 20 8 * 1600000 ≤
      s.cyc)) = some i) ∧ i.ctxs.length ≤ 64) ∧
    (∃ (s : State) (land : Fin 16) (hdr : BitVec 128) (g : Fin 64) (inst : BitVec 32) (op rtype : Fin 4) (scope result sat : Bool) (bytes : BitVec 21)
      (mods : BitVec 64) (gkey : BitVec 16) (root : BitVec 6) (data : List (BitVec 8)) (pois : List Bool) (i : Inst), (s.landing land).up = true ∧
      field hdr.toNat 0 4 = 7 ∧ field hdr.toNat 8 6 = s.boot.modid ∧ field hdr.toNat 101 4 = 0 ∧ (s.group g).valid = true ∧ (s.group g).mods = mods ∧
      (s.group g).gkey = gkey.toNat ∧ (s.group g).root = root.toNat ∧ (s.group g).failed.contains inst.toNat = false ∧ s.inst g inst.toNat = some i ∧
      i.op = op.val ∧ i.scope = scope ∧ i.rtype = rtype.val ∧ i.bytes = bytes.toNat) ∧
    (∃ (s : State) (land : Fin 16) (hdr : BitVec 128) (g : Fin 64) (inst : BitVec 32) (op rtype : Fin 4) (scope result sat : Bool) (bytes : BitVec 21)
      (mods : BitVec 64) (gkey : BitVec 16) (root : BitVec 6) (data : List (BitVec 8)) (pois : List Bool) (i : Inst), (s.landing land).up = true ∧
      field hdr.toNat 0 4 = 7 ∧ field hdr.toNat 8 6 = s.boot.modid ∧ field hdr.toNat 101 4 ≠ 0 ∧ (s.group g).failed.contains inst.toNat = false ∧
      s.inst g inst.toNat = some i) ∧
    (∃ (s : State) (land : Fin 16) (hdr : BitVec 128) (g : Fin 64) (inst : BitVec 32) (op rtype : Fin 4) (scope result sat : Bool) (bytes : BitVec 21)
      (mods : BitVec 64) (gkey : BitVec 16) (root : BitVec 6) (data : List (BitVec 8)) (pois : List Bool), (s.landing land).up = true ∧ field
      hdr.toNat 0 4 = 7 ∧ field hdr.toNat 8 6 = s.boot.modid ∧ field hdr.toNat 101 4 = 0 ∧ ((s.group g).valid = false ∨ (s.group g).mods ≠ mods ∨
      (s.group g).gkey ≠ gkey.toNat ∨ (s.group g).root ≠ root.toNat)) :=
  ⟨⟨groupState (5 + 0 * 16 + 63 * 2 ^ 64) [], 63, 5 + 0 * 16 + 63 * 2 ^ 64, _, ⟨stepReady_of_ok _ _ _ _ _ (by decide +kernel), rfl⟩,
      ⟨by decide +kernel, by decide +kernel, .inl (by decide +kernel)⟩⟩,
    ⟨groupState (5 + 1 * 16 + (63 + 2 ^ 7 + 2 ^ 27) * 2 ^ 64) [], 63, 5 + 1 * 16 + (63 + 2 ^ 7 + 2 ^ 27) * 2 ^ 64, _,
      ⟨stepReady_of_ok _ _ _ _ _ (by decide +kernel), rfl⟩, ⟨by decide +kernel, by decide +kernel, .inl (by decide +kernel)⟩⟩,
    ⟨groupState (5 + 2 * 16 + (63 + 2 ^ 7 + 2 ^ 27) * 2 ^ 64) [], 63, 5 + 2 * 16 + (63 + 2 ^ 7 + 2 ^ 27) * 2 ^ 64, _,
      ⟨stepReady_of_ok _ _ _ _ _ (by decide +kernel), rfl⟩, ⟨by decide +kernel, by decide +kernel, .inl (by decide +kernel)⟩⟩,
    ⟨groupState (5 + 3 * 16 + 63 * 2 ^ 64) [], 63, 5 + 3 * 16 + 63 * 2 ^ 64, _, ⟨stepReady_of_ok _ _ _ _ _ (by decide +kernel), rfl⟩,
      ⟨by decide +kernel, by decide +kernel, .inl (by decide +kernel)⟩⟩,
    ⟨stepState (5 + 3 * 16 + 63 * 2 ^ 64), 63, 5 + 3 * 16 + 63 * 2 ^ 64, 3, .gsnap 63, _, by decide +kernel,
      ⟨stepReady_of_ok _ _ _ _ _ (by decide +kernel), rfl⟩, fun h => absurd h.good (by decide +kernel)⟩,
    ⟨{ groupState 0 [{ sent := true, result := some [] }] with ctxs := [(63, { gq := some { group := 63 } })] }, _, 63, { group := 63 },
      { sent := true, result := some [] }, [], by decide +kernel, rfl, by decide +kernel⟩,
    ⟨{ groupState 0 [{ ctxs := [63] }] with cyc := 1600000 * 255 }, 63, { ctxs := [63] }, by decide +kernel⟩,
    ⟨groupState 0 [{ op := 3, bytes := 0 }], 15, msgHeader 7 0 0 63 0 0 0 0 0 false 0 0, 63, 0, 3, 0, false, true, true, 0, 2 ^ 63 + 1, 0xFFFF, 0, [],
      [], { op := 3, bytes := 0 }, by decide +kernel⟩,
    ⟨groupState 0 [{ op := 3, bytes := 0 }], 15, msgHeader 7 0 0 63 0 0 0 0 0 false 3 0, 63, 0, 3, 0, false, true, true, 0, 2 ^ 63 + 1, 0xFFFF, 0, [],
      [], { op := 3, bytes := 0 }, by decide +kernel⟩,
    ⟨groupState 0 [{ op := 3, bytes := 0 }], 15, msgHeader 7 0 0 63 0 0 0 0 0 false 0 0, 63, 0, 3, 0, false, true, true, 0, 0, 0xFFFF, 0, [], [],
      by decide +kernel⟩⟩

/-- The hypotheses of `Obligations.RemoteCommandsComplete`, clause by clause. -/
theorem witness_RemoteCommandsComplete :
    (∃ (s : State) (l : Nat) (hdr : BitVec 128) (data : List Byte) (k c : Nat), (s.landing l).up = true ∧ (s.landing l).txQ = [] ∧ k = clsOf (field
      hdr.toNat 0 4) * 4 + field hdr.toNat 26 2 ∧ c = creditsOf (16 + data.length) ∧ (c ≤ Tab.get (fun _ => 0) (s.landing l).credits k) ∧ (s.landing
      l).unack.length + ceilDiv (16 + data.length) 252 ≤ 1024) ∧
    (∃ (s : State) (l : Nat) (hdr : BitVec 128) (data : List Byte), (s.landing l).up = true ∧ (s.landing l).txQ = [] ∧ (Tab.get (fun _ => 0)
      (s.landing l).credits (clsOf (field hdr.toNat 0 4) * 4 + field hdr.toNat 26 2) < creditsOf (16 + data.length))) ∧
    (∃ (s : State) (land : Fin 16) (hdr : BitVec 128) (p : Nat), (s.landing land).up = true ∧ field hdr.toNat 0 4 = 2 ∧ 1 ≤ (remReq hdr).lines ∧
      (remReq hdr).lines ≤ 4 ∧ field hdr.toNat 8 6 = s.boot.modid ∧ s.admitted (remReq hdr) false = some p ∧ (remReq hdr).sp = false) ∧
    (∃ (s : State) (land : Fin 16) (hdr : BitVec 128) (p a : Nat) (l : Loc), (s.landing land).up = true ∧ field hdr.toNat 0 4 = 2 ∧ (remReq hdr).lines
      = 1 ∧ field hdr.toNat 8 6 = s.boot.modid ∧ s.admitted (remReq hdr) false = some p ∧ (remReq hdr).sp = true ∧ a = (remReq hdr).addr / 64 * 64 ∧
      (s.slot (a / slotBytes)).cls = .bulk ∧ (s.slot (a / slotBytes)).dead = false ∧ l = s.locate a ∧ ReadsAtOnce s (chanOfBank l.moduleBank) 5
      (l.moduleBank % 48) l.row ∧ s.lineAsks (s.lineOfSa a) = false) ∧
    (∃ (s : State) (land : Fin 16) (hdr : BitVec 128) (p a : Nat) (e : Nat × Line), (s.landing land).up = true ∧ field hdr.toNat 0 4 = 2 ∧ (remReq
      hdr).lines = 1 ∧ field hdr.toNat 8 6 = s.boot.modid ∧ s.admitted (remReq hdr) false = some p ∧ (remReq hdr).sp = true ∧ a = (remReq hdr).addr /
      64 * 64 ∧ (s.slot (a / slotBytes)).cls = .shared ∧ (s.slot (a / slotBytes)).dead = false ∧ s.remSnoop hdr land (remReq hdr) false p [] [] = none
      ∧ (s.lines.find? (fun e => e.1 == a / 64) = some e)) ∧
    (∃ (s : State) (land : Fin 16) (hdr : BitVec 128) (p : Nat), (s.landing land).up = true ∧ field hdr.toNat 0 4 = 2 ∧ 1 ≤ (remReq hdr).lines ∧
      (remReq hdr).lines ≤ 4 ∧ field hdr.toNat 8 6 = s.boot.modid ∧ s.admitted (remReq hdr) false = some p ∧ (remReq hdr).sp = true ∧ s.remSnoop hdr
      land (remReq hdr) false p [] [] = none ∧ (∃ a ∈ s.remLines (remReq hdr), s.canRead 5 a = false)) ∧
    (∃ (s : State) (land : Fin 16) (hdr : BitVec 128), (s.landing land).up = true ∧ field hdr.toNat 0 4 = 2 ∧ 1 ≤ (remReq hdr).lines ∧ (remReq
      hdr).lines ≤ 4 ∧ field hdr.toNat 8 6 = s.boot.modid ∧ s.admitted (remReq hdr) false = none) ∧
    (∃ (s : State) (land : Fin 16) (hdr : BitVec 128) (data : List (BitVec 512)), (s.landing land).up = true ∧ field hdr.toNat 0 4 = 3 ∧ 1 ≤ (remReq
      hdr).lines ∧ (remReq hdr).lines ≤ 4 ∧ field hdr.toNat 8 6 = s.boot.modid ∧ s.admitted (remReq hdr) true = none) ∧
    (∃ (s : State) (land : Fin 16) (hdr : BitVec 128) (data : List (BitVec 512)) (p : Nat), (s.landing land).up = true ∧ field hdr.toNat 0 4 = 3 ∧ 1 ≤
      (remReq hdr).lines ∧ (remReq hdr).lines ≤ 4 ∧ field hdr.toNat 8 6 = s.boot.modid ∧ s.admitted (remReq hdr) true = some p ∧ (remReq hdr).sp =
      false) ∧
    (∃ (s : State) (land : Fin 16) (hdr : BitVec 128) (data : List (BitVec 512)) (p sa : Nat), (s.landing land).up = true ∧ field hdr.toNat 0 4 = 3 ∧
      (remReq hdr).lines = 1 ∧ field hdr.toNat 8 6 = s.boot.modid ∧ s.admitted (remReq hdr) true = some p ∧ (remReq hdr).sp = true ∧ sa = (remReq
      hdr).addr / 64 * 64 ∧ (s.slot (sa / slotBytes)).cls = .bulk ∧ (s.slot (sa / slotBytes)).dead = false ∧ s.hasRoom (chanOfBank (s.locate
      sa).moduleBank) true = true) ∧
    (∃ (s : State) (land : Fin 16) (hdr : BitVec 128) (data : List (BitVec 512)) (target : BitVec 6) (l kind : Nat) (cmd : Instr) (bytes : List Byte),
      (kind, cmd, bytes) ∈ [(2, Instr.remoteRd land hdr, []), (3, Instr.remoteWr land hdr data, (data.take (remReq hdr).lines).flatMap lineBytes), (4,
      Instr.rdr land hdr data, data.flatMap lineBytes), (5, Instr.wack land hdr, []), (6, Instr.lfn land hdr target, [])] ∧ (s.landing land).up = true
      ∧ field hdr.toNat 0 4 = kind ∧ (kind ≤ 3 → 1 ≤ (remReq hdr).lines ∧ (remReq hdr).lines ≤ 4) ∧ field hdr.toNat 8 6 ≠ s.boot.modid ∧ field
      hdr.toNat 26 2 < 3 ∧ s.routeOf (field hdr.toNat 14 6) (field hdr.toNat 28 8) (field hdr.toNat 8 6) = some l) ∧
    (∃ (s : State) (land : Fin 16) (hdr : BitVec 128) (data : List (BitVec 512)) (target : BitVec 6) (kind : Nat) (cmd : Instr), (kind, cmd) ∈ [(2,
      Instr.remoteRd land hdr), (3, Instr.remoteWr land hdr data), (4, Instr.rdr land hdr data), (5, Instr.wack land hdr), (6, Instr.lfn land hdr
      target)] ∧ (s.landing land).up = true ∧ field hdr.toNat 0 4 = kind ∧ (kind ≤ 3 → 1 ≤ (remReq hdr).lines ∧ (remReq hdr).lines ≤ 4) ∧ field
      hdr.toNat 8 6 ≠ s.boot.modid ∧ field hdr.toNat 26 2 = 3) ∧
    (∃ (s : State) (land : Fin 16) (hdr : BitVec 128) (data : List (BitVec 512)), (s.landing land).up = true ∧ field hdr.toNat 0 4 = 4 ∧ field
      hdr.toNat 8 6 = s.boot.modid ∧ s.answered hdr false = none) ∧
    (∃ (s : State) (land : Fin 16) (hdr : BitVec 128), (s.landing land).up = true ∧ field hdr.toNat 0 4 = 5 ∧ field hdr.toNat 8 6 = s.boot.modid ∧
      s.answered hdr true = none) ∧
    (∃ (s : State) (land : Fin 16) (hdr : BitVec 128) (data : List (BitVec 512)) (x : Xact), (s.landing land).up = true ∧ field hdr.toNat 0 4 = 4 ∧
      field hdr.toNat 8 6 = s.boot.modid ∧ s.answered hdr false = some x ∧ field hdr.toNat 101 4 ≠ 1 ∧ field hdr.toNat 101 4 ≠ 3 ∧ (s.fchan (16 *
      x.tile + x.ch)).todo = [] ∧ (s.fchan (16 * x.tile + x.ch)).moved = false ∧ (s.dropXact x).outstanding x.tile x.ch ≠ []) ∧
    (∃ (s : State) (land : Fin 16) (hdr : BitVec 128) (data : List (BitVec 512)) (x : Xact) (e : FeStep), (s.landing land).up = true ∧ field hdr.toNat
      0 4 = 4 ∧ field hdr.toNat 8 6 = s.boot.modid ∧ s.answered hdr false = some x ∧ (field hdr.toNat 101 4 = 1 ∨ field hdr.toNat 101 4 = 3) ∧
      (s.fchan (16 * x.tile + x.ch)).cur = some e) ∧
    (∃ (s : State) (land : Fin 16) (hdr : BitVec 128) (x : Xact), (s.landing land).up = true ∧ field hdr.toNat 0 4 = 5 ∧ field hdr.toNat 8 6 =
      s.boot.modid ∧ s.answered hdr true = some x ∧ field hdr.toNat 101 4 ≠ 1 ∧ (s.fchan (16 * x.tile + x.ch)).todo = []) ∧
    (∃ (s : State) (land : Fin 16) (hdr : BitVec 128) (x : Xact) (e : FeStep), (s.landing land).up = true ∧ field hdr.toNat 0 4 = 5 ∧ field hdr.toNat
      8 6 = s.boot.modid ∧ s.answered hdr true = some x ∧ field hdr.toNat 101 4 = 1 ∧ (s.fchan (16 * x.tile + x.ch)).cur = some e) ∧
    (∃ (s : State) (land : Fin 16) (hdr : BitVec 128) (target : BitVec 6), (s.landing land).up = true ∧ field hdr.toNat 0 4 = 6 ∧ field hdr.toNat 8 6
      = s.boot.modid) ∧
    (∃ (s : State) (tile ch : Fin 16) (tag : BitVec 16) (x : Xact) (e : FeStep), ((s.outstanding tile ch).find? (fun x => x.tag == tag.toNat) = some
      x) ∧ x.issued + s.cfg rXLCFG 12 8 * 16000 ≤ s.cyc ∧ x.write = false ∧ (s.fchan (16 * tile.val + ch.val)).cur = some e) ∧
    (∃ (s : State) (tile ch : Fin 16) (tag : BitVec 16) (x : Xact), ((s.outstanding tile ch).find? (fun x => x.tag == tag.toNat) = some x) ∧ x.issued
      + s.cfg rXLCFG 12 8 * 16000 ≤ s.cyc ∧ x.write = true ∧ (s.fchan (16 * tile.val + ch.val)).todo = []) :=
  ⟨⟨{ live with lands := [(15, { st := 2, credits := [(4, 1)] })] }, 15, msgHeader 4 0 63 0 0 0 0 0 0 false 0 0, [], _, _, by decide +kernel,
      by decide +kernel, rfl, rfl, by decide +kernel⟩,
    ⟨{ live with lands := [(15, { st := 2, credits := [(4, 1)] })] }, 15, msgHeader 4 1 63 0 0 0 0 0 0 false 0 0, List.replicate 64 0,
      by decide +kernel⟩,
    ⟨remState, 15, msgHeader 2 4 0 63 63 0 255 0xFFFF 15 false 0 0, 63, by decide +kernel⟩,
    ⟨{ remState with chans := lineOpen.chans }, 15, msgHeader 2 1 0 63 63 0 255 0xFFFF 4032 true 0 0, 63, _, _, by decide +kernel, by decide +kernel,
      by decide +kernel, by decide +kernel, by decide +kernel, by decide +kernel, rfl, by decide +kernel, by decide +kernel, rfl,
      atOnce_of_ok _ _ _ _ _ (by decide +kernel), by decide +kernel⟩,
    ⟨{ remState with slots := [(0, { owner := some 63, cls := .shared })], lines := [(63, {})] }, 15,
      msgHeader 2 1 0 63 63 0 255 0xFFFF 4032 true 0 0, 63, _, (63, {}), by decide +kernel, by decide +kernel, by decide +kernel, by decide +kernel,
      by decide +kernel, by decide +kernel, rfl, by decide +kernel⟩,
    ⟨{ remState with chans := [(lineChan, { mode := .nearBank })] }, 15, msgHeader 2 1 0 63 63 0 255 0xFFFF 4032 true 0 0, 63, by decide +kernel⟩,
    ⟨remState, 15, msgHeader 2 4 0 63 63 0 255 0xFFFF 14 false 0 0, by decide +kernel⟩,
    ⟨remState, 15, msgHeader 3 4 0 63 63 0 255 0xFFFF 14 false 0 0, [], by decide +kernel⟩,
    ⟨remState, 15, msgHeader 3 4 0 63 63 0 255 0xFFFF 15 false 0 0, [], 63, by decide +kernel⟩,
    ⟨remState, 15, msgHeader 3 1 0 63 63 0 255 0xFFFF (slotBytes - 64) true 0 0, [0], 63, _, by decide +kernel, by decide +kernel, by decide +kernel,
      by decide +kernel, by decide +kernel, by decide +kernel, rfl, by decide +kernel⟩,
    ⟨remState, 15, msgHeader 6 0 63 63 63 2 255 0xFFFF 15 false 0 0, [], 63, 15, 6, _, _, .tail _ (.tail _ (.tail _ (.tail _ (.head _)))),
      by decide +kernel⟩,
    ⟨remState, 15, msgHeader 6 0 63 63 63 3 255 0xFFFF 15 false 0 0, [], 63, 6, _, .tail _ (.tail _ (.tail _ (.tail _ (.head _)))), by decide +kernel⟩,
    ⟨remState, 15, msgHeader 4 1 0 63 63 0 255 0xFFFF 15 false 0 0, [0], by decide +kernel⟩,
    ⟨remState, 15, msgHeader 5 0 0 63 63 0 255 0xFFFF 15 false 0 0, by decide +kernel⟩,
    ⟨{ remState with xacts := [{ tile := 15, ch := 15, tag := 0xFFFF }, { tile := 15, ch := 15 }] }, 15,
      msgHeader 4 1 0 63 63 0 255 0xFFFF 15 false 0 0, [0], { tile := 15, ch := 15, tag := 0xFFFF }, by decide +kernel⟩,
    ⟨{ remState with xacts := [{ tile := 15, ch := 15, tag := 0xFFFF }], fe := [(255, { cur := some {} })] }, 15,
      msgHeader 4 1 0 63 63 0 255 0xFFFF 15 false 3 0, [0], { tile := 15, ch := 15, tag := 0xFFFF }, {}, by decide +kernel⟩,
    ⟨{ remState with xacts := [{ tile := 15, ch := 15, tag := 0xFFFF, write := true }], fe := [(255, { cur := none })] }, 15,
      msgHeader 5 0 0 63 63 0 255 0xFFFF 15 false 0 0, { tile := 15, ch := 15, tag := 0xFFFF, write := true }, by decide +kernel⟩,
    ⟨{ remState with xacts := [{ tile := 15, ch := 15, tag := 0xFFFF, write := true }], fe := [(255, { cur := some {} })] }, 15,
      msgHeader 5 0 0 63 63 0 255 0xFFFF 15 false 1 0, { tile := 15, ch := 15, tag := 0xFFFF, write := true }, {}, by decide +kernel⟩,
    ⟨remState, 15, msgHeader 6 0 0 63 63 0 255 0xFFFF 15 false 0 0, 63, by decide +kernel⟩,
    ⟨{ { remState with xacts := [{ tile := 15, ch := 15, tag := 0xFFFF }], fe := [(255, { cur := some {} })] } with cyc := 16000 * 255 }, 15, 15,
      0xFFFF, { tile := 15, ch := 15, tag := 0xFFFF }, {}, by decide +kernel⟩,
    ⟨{ { remState with xacts := [{ tile := 15, ch := 15, tag := 0xFFFF, write := true }], fe := [(255, { cur := none })] } with cyc := 16000 * 255 },
      15, 15, 0xFFFF, { tile := 15, ch := 15, tag := 0xFFFF, write := true }, by decide +kernel⟩⟩

/-- The hypotheses of `Obligations.FirmwareCommandsComplete`, clause by clause. -/
theorem witness_FirmwareCommandsComplete :
    (∃ (s : State) (i : Image), s.sideband = true) ∧
    (∃ (s : State) (i im : Image), s.fw.st = 0 ∧ s.boot.phase = 15 ∧ (s.fw.sideband ≠ none ∨ ((s.slot (s.cfg rFWSRC 0 48 / slotBytes)).owner = none ∧
      s.cfg rFWSRC 0 48 / slotBytes < s.slotCount)) ∧ im = s.fw.sideband.getD i ∧ s.imageFault im = 0) ∧
    (∃ (s : State) (i im : Image), s.fw.st = 0 ∧ s.boot.phase = 15 ∧ (s.fw.sideband ≠ none ∨ ((s.slot (s.cfg rFWSRC 0 48 / slotBytes)).owner = none ∧
      s.cfg rFWSRC 0 48 / slotBytes < s.slotCount)) ∧ im = s.fw.sideband.getD i ∧ s.imageFault im ≠ 0) ∧
    (∃ (s : State) (t0 : Nat) (P : State → Prop), s.boot.phase = 15 ∧ s.fw.st = 0 ∧ s.handOrder.head? = some t0 ∧ (P = (fun t => t.fw.st = 2 ∧
      t.fw.tile = t0 ∧ t.fw.result = 0 ∧ t.fw.banks = s.fw.banks ∧ Keeps [.fw, .hubs] s t))) ∧
    (∃ (s : State) (u : Nat) (more : List Nat) (P : State → Prop), s.boot.phase = 15 ∧ s.fw.st = 2 ∧ (s.handOrder.dropWhile (· != s.fw.tile)).drop 1 =
      u :: more ∧ (P = (fun t => t.fw.st = 2 ∧ t.fw.tile = u ∧ (t.hub s.fw.tile).mcore = s.nextVersion ∧ t.fw.active = s.fw.active ∧ Keeps [.fw,
      .hubs] s t))) ∧
    (∃ (s : State) (P : State → Prop), s.boot.phase = 15 ∧ s.fw.st = 2 ∧ (s.handOrder.dropWhile (· != s.fw.tile)).drop 1 = [] ∧ (P = (fun t => ∃ u :
      State, u.fw.st = 3 ∧ (u.hub s.fw.tile).mcore = s.nextVersion ∧ u.fw.active = s.fw.active ∧ Keeps [.fw, .hubs] s u ∧ t = s.handOrder.foldl
      State.releaseLoads u))) ∧
    (∃ (s : State) (P : State → Prop), s.fw.st = 3 ∧ (P = (fun t => t.fw.st = 0 ∧ t.fw.result = 4 ∧ t.fw.active = s.fw.active ∧ t.fw.svn = s.fw.svn ∧
      (∀ x ∈ s.handOrder, (t.hub x).mcore = s.fw.runver) ∧ SameRegs s t ∧ SameBanks s t))) ∧
    (∃ (s : State) (im : Image), s.fw.st = 3 ∧ (im = Tab.get (fun _ => {}) s.fw.banks (1 - s.fw.bank))) :=
  ⟨⟨live, {}, by decide +kernel⟩,
    ⟨live, { sigOk := true }, _, by decide +kernel, by decide +kernel, by decide +kernel, rfl, by decide +kernel⟩,
    ⟨live, {}, _, by decide +kernel, by decide +kernel, by decide +kernel, rfl, by decide +kernel⟩,
    ⟨{ live with fw := { staged := true, banks := [(1, {})] } }, 1, _, by decide +kernel, by decide +kernel, by decide +kernel, rfl⟩,
    ⟨{ live with fw := { st := 2, tile := 15, banks := [(1, {})] } }, 0, [], _, by decide +kernel, by decide +kernel, by decide +kernel, rfl⟩,
    ⟨{ live with fw := { st := 2, tile := 0, banks := [(1, {})] } }, _, by decide +kernel, by decide +kernel, by decide +kernel, rfl⟩,
    ⟨{ live with fw := { st := 3 } }, _, by decide +kernel, rfl⟩,
    ⟨{ live with fw := { st := 3 } }, _, by decide +kernel, rfl⟩⟩

/-- The hypotheses of `Obligations.PowerOnCompletes`, clause by clause. -/
theorem witness_PowerOnCompletes :
    (∃ (s : State) (r : BootReport), s.power.on = false) ∧
    (∃ (s : State) (i : Fin 16), s.boot.awaitsClock = true ∧ s.boot.xtalOk.contains i.val = false ∧ (s.hub i).retired = false ∧ (∃ u ∈ s.liveTiles, u
      ≠ i.val ∧ s.boot.xtalOk.contains u = false)) ∧
    (∃ (s : State) (i : Fin 16), s.boot.awaitsClock = true ∧ s.boot.xtalOk.contains i.val = false ∧ (s.hub i).retired = false ∧ (∃ u ∈ s.liveTiles, u
      ≠ i.val ∧ s.boot.xtalOk.contains u = false)) ∧
    (∃ (s : State) (i : Fin 16) (P : State → Prop), s.boot.awaitsClock = true ∧ s.boot.xtalOk.contains i.val = false ∧ (s.hub i).retired = false ∧ (∀
      u ∈ s.liveTiles, u ≠ i.val → s.boot.xtalOk.contains u = true) ∧ (P = (fun t => (s.boot.warmBusy = true → t.boot.phase = 15 ∧ t.boot.warmBusy =
      false ∧ t.boot.hashLock = true) ∧ (s.boot.warmBusy = false → s.boot.coolOk = true → t.boot.phase = 15 ∧ t.boot.hashLock = true ∧ t.mem = [] ∧
      t.pois = []) ∧ (s.boot.warmBusy = false → s.boot.coolOk = false → t.boot.phase = 5 ∧ t.boot.hashLock = false ∧ t.boot.hashMask =
      t.boot.hashRec)))) ∧
    (∃ (s : State), s.power.on = true ∧ s.boot.phase = 5 ∧ s.boot.warmBusy = false) ∧
    (∃ (s : State), s.power.on = true ∧ s.boot.phase ≠ 5 ∧ s.boot.phase ≠ 15 ∧ s.boot.warmBusy = false) :=
  ⟨⟨State.reset, {}, by decide +kernel⟩,
    ⟨{ State.reset with power := { on := true }, boot := { phase := 2 } }, 15, by decide +kernel⟩,
    ⟨{ State.reset with power := { on := true }, boot := { phase := 2 } }, 15, by decide +kernel⟩,
    ⟨{ State.reset with power := { on := true }, boot := { phase := 2, xtalOk := List.range 15 } }, 15, _, by decide +kernel, by decide +kernel,
      by decide +kernel, by decide +kernel, rfl⟩,
    ⟨{ State.reset with power := { on := true }, boot := { phase := 5 } }, by decide +kernel⟩,
    ⟨{ State.reset with power := { on := true }, boot := { phase := 2 } }, by decide +kernel⟩⟩

/-- The hypotheses of `Obligations.ResetCommandsComplete`, clause by clause. -/
theorem witness_ResetCommandsComplete :
    (∃ (s : State) (input : BitVec 10) (ts : List (BitVec 64)), s.power.on = true ∧ s.power.failed = false ∧ s.boot.phase = 15) ∧
    (∃ (s : State) (input : BitVec 10) (ts : List (BitVec 64)), s.power.on = true ∧ s.power.failed = false ∧ s.boot.phase ≠ 15) ∧
    (∃ (s : State), s.power.on = true) ∧
    (∃ (s : State) (r : BootReport) (P : State → Prop), s.power.on = true ∧ s.boot.phase = 15 ∧ (P = (fun t => t.boot.phase = 5 ∧ t.boot.warmBusy =
      true ∧ t.boot.want = none ∧ t.boot.xtalOk = [] ∧ t.boot.warmCnt = satNat 16 (s.boot.warmCnt + 1) ∧ t.power.failed = false ∧ (∀ c : Fin 64,
      (t.ctx c).st = .unbound) ∧ (∀ k : Fin 96, (t.stack k).sr = true)))) ∧
    (∃ (s : State) (r : BootReport), s.power.failed = true ∧ s.boot.phase ≠ 15) ∧
    (∃ (s : State) (i : Fin 16) (r : BootReport) (recent : List Nat), s.boot.phase = 15 ∧ (s.hub i).retired = false ∧ s.fw.st ≠ 3 ∧ (recent = s.cyc ::
      (s.hub i).wdogAt.filter (fun a => decide (s.cyc < a + secondCycles))) ∧ (¬ (i.val = s.boot.lead ∧ flag (s.reg 0 rRCVCFG) 0 = true ∧ 2 ≤
      recent.length))) ∧
    (∃ (s : State) (i : Fin 16) (r : BootReport), s.boot.phase = 15 ∧ s.power.on = true ∧ (s.hub i).retired = false ∧ i.val = s.boot.lead ∧ flag
      (s.reg 0 rRCVCFG) 0 = true ∧ ((s.hub i).wdogAt.filter (fun a => decide (s.cyc < a + secondCycles)) ≠ [])) :=
  ⟨⟨live, 1023, [], by decide +kernel⟩,
    ⟨{ State.reset with power := { on := true } }, 1023, [], by decide +kernel⟩,
    ⟨live, by decide +kernel⟩,
    ⟨{ live with boot := { phase := 15, want := some 0 }, power := { on := true, failed := true } }, {}, _, by decide +kernel, by decide +kernel, rfl⟩,
    ⟨{ State.reset with power := { on := true, failed := true } }, {}, by decide +kernel⟩,
    ⟨{ live with boot := { phase := 15, lead := 15 } }, 15, {}, [0], by decide +kernel⟩,
    ⟨{ live with hubs := [(0, { wdogAt := [0] })], regs := [(rRCVCFG, 0x7B)] }, 0, {}, by decide +kernel⟩⟩

/-- The hypotheses of `Obligations.ClockAndTimeComplete`, clause by clause. -/
theorem witness_ClockAndTimeComplete :
    (∃ (s : State) (i : Fin 16) (n : BitVec 11) (P : State → Prop), s.boot.phase = 15 ∧ (s.hub i).retired = false ∧ (s.hub i).src = .crystal ∧ (s.hub
      i).xlost = false ∧ (P = (fun t => (t.hub i).xlost = true ∧ (t.hub i).losses = satNat 16 ((s.hub i).losses + 1) ∧ (t.hub i).src = .crystal ∧
      SameBanks s t))) ∧
    (∃ (s : State) (i : Fin 16), (s.hub i).retired = false ∧ (s.boot.phase ≠ 15 ∨ (s.hub i).src ≠ .crystal ∨ (s.hub i).xlost = true)) ∧
    (∃ (s : State) (i : Fin 16) (n : BitVec 11), (s.hub i).retired = false ∧ 963 ≤ n.toNat ∧ n.toNat ≤ 1085) ∧
    (∃ (s : State) (i : Fin 16), ((s.hub i).xlost = true ∨ (s.hub i).fwdLost = true)) ∧
    (∃ (s : State) (i : Fin 16), (s.hub i).standby = true ∧ (∀ k, k < 96 → (s.chan (96 * i.val + k)).mode ≠ .nearBank ∨ (s.chan (96 * i.val +
      k)).yield = true)) ∧
    (∃ (s : State) (i : Fin 16), (s.hub i).retired = false ∧ (s.hub i).fwdLost = false ∧ (s.hub i).src ≠ .own ∧ ((s.hub i).src ≠ .crystal ∨ (s.hub
      i).xlost = true)) ∧
    (∃ (s : State) (i : Fin 16) (diff : Fin 5), (s.hub i).island = true ∧ i.val ≠ s.boot.lead) ∧
    (∃ (s : State), s.power.on = true) ∧
    (∃ (s : State) (h : BitVec 64) (p : Nat), s.boot.phase = 15 ∧ s.ptmPort = some p ∧ s.tmap.valid = true ∧ ((h.toNat : Int) - s.tmap.host
      s.stamp).natAbs ≤ 1000 * s.cfg rTMCFG 8 16) ∧
    (∃ (s : State) (h : BitVec 64) (p : Nat), s.boot.phase = 15 ∧ s.ptmPort = some p ∧ (s.tmap.valid = false ∨ 1000 * s.cfg rTMCFG 8 16 < ((h.toNat :
      Int) - s.tmap.host s.stamp).natAbs)) ∧
    (∃ (s : State) (h : Option (BitVec 64)), s.boot.phase = 15 ∧ (h = none ∨ s.ptmPort = none)) :=
  ⟨⟨live, 15, 962, _, by decide +kernel, by decide +kernel, by decide +kernel, by decide +kernel, rfl⟩,
    ⟨{ live with hubs := [(15, { xlost := true })] }, 15, by decide +kernel⟩,
    ⟨live, 15, 963, by decide +kernel⟩,
    ⟨{ live with hubs := [(15, { xlost := true })] }, 15, by decide +kernel⟩,
    ⟨{ live with hubs := [(15, { standby := true })] }, 15, by decide +kernel⟩,
    ⟨{ live with hubs := [(15, { src := .internal })] }, 15, by decide +kernel⟩,
    ⟨{ live with hubs := [(15, { island := true })] }, 15, 4, by decide +kernel⟩,
    ⟨live, by decide +kernel⟩,
    ⟨{ live with ports := [(3, { speed := 1 })], tmap := { valid := true } }, 1000000, 3, by decide +kernel⟩,
    ⟨{ live with ports := [(3, { speed := 1 })], tmap := { valid := true } }, 1000001, 3, by decide +kernel⟩,
    ⟨{ live with ports := [(3, { speed := 1 })] }, none, by decide +kernel⟩⟩

/-- The hypotheses of `Obligations.GovernorCommandsComplete`, clause by clause. -/
theorem witness_GovernorCommandsComplete :
    (∃ (s : State) (avg : BitVec 16) (input tin tout flow dp : BitVec 10), s.boot.phase = 15) ∧
    (∃ (s : State) (a : Nat), s.power.overSince = some a ∧ a + s.cfg rPGCFG 16 4 * 1600000 ≤ s.cyc ∧ s.power.m3 = false) ∧
    (∃ (s : State), s.boot.phase = 15 ∧ s.inForce 0 rSPLCFG 24 1 ≠ 0) ∧
    (∃ (s : State), s.boot.phase = 15 ∧ s.inForce 0 rSPLCFG 24 1 = 0) ∧
    (∃ (s : State), s.power.on = true ∧ s.power.coolFault = false) ∧
    (∃ (s : State), s.power.coolFault = true) :=
  ⟨⟨live, 0xFFFF, 1023, 1023, 1023, 1023, 1023, by decide +kernel⟩,
    ⟨{ live with cyc := 1600000 * 15, power := { on := true, overSince := some 0 } }, 0, by decide +kernel⟩,
    ⟨live, by decide +kernel⟩,
    ⟨{ live with regs := [(forceKey 0 rSPLCFG, 0x20AA0AC)] }, by decide +kernel⟩,
    ⟨live, by decide +kernel⟩,
    ⟨{ live with power := { on := true, coolFault := true } }, by decide +kernel⟩⟩

/-- The hypotheses of `Obligations.ThermalAndGateCommandsComplete`, clause by clause. -/
theorem witness_ThermalAndGateCommandsComplete :
    (∃ (s : State) (st : Fin 96) (ts : List (BitVec 8)) (hot : Nat), ts ≠ [] ∧ hot = (ts.map BitVec.toNat).foldl max 0 ∧ (s.stack st).level ≠ 5 ∧ hot
      ≤ 110) ∧
    (∃ (s : State) (st : Fin 96) (ts : List (BitVec 8)), 110 < (ts.map BitVec.toNat).foldl max 0 ∧ (s.stack st).level ≠ 5) ∧
    (∃ (s : State) (st : Fin 96) (ts : List (BitVec 8)), ts ≠ [] ∧ (s.stack st).level = 5) ∧
    (∃ (s : State) (st : Fin 96), 105 < (s.stack st).temps.foldl max 0 ∧ (s.stack st).level ≠ 5) ∧
    (∃ (s : State) (i : Fin 16) (c : BitVec 8), 115 < c.toNat ∧ s.power.on = true) ∧
    (∃ (s : State) (i : Fin 16) (c : BitVec 8), (c.toNat ≤ 115 ∨ s.power.on = false)) ∧
    (∃ (s : State) (i : Fin 16) (kind : Fin 4) (m a : Nat), ((s.hub i).wakeQ.find? (fun w => w.1 == kind.val) = some (kind.val, m, a)) ∧ (((Tab.get
      (fun _ => []) (s.hub i).grantAt (budgetKey kind m)).filter (fun b => decide (s.cyc < b + (wakeBudget kind).2))).length < (wakeBudget kind).1) ∧
      s.wakeHeld i kind m = false ∧ (kind.val = 1 → s.committedPower + 250 ≤ s.commitLimit) ∧ (kind.val = 2 → s.committedPower + 1800 ≤
      s.commitLimit)) ∧
    (∃ (s : State) (i : Fin 16) (kind : Fin 4) (m a : Nat), ((s.hub i).wakeQ.find? (fun w => w.1 == kind.val) = some (kind.val, m, a)) ∧ (((Tab.get
      (fun _ => []) (s.hub i).grantAt (budgetKey kind m)).filter (fun b => decide (s.cyc < b + (wakeBudget kind).2))).length < (wakeBudget kind).1) ∧
      s.wakeHeld i kind m = false ∧ ((kind.val = 1 ∧ s.commitLimit < s.committedPower + 250) ∨ (kind.val = 2 ∧ s.commitLimit < s.committedPower +
      1800))) ∧
    (∃ (s : State) (level : BitVec 3) (i : Fin 16) (g : Fin 4) (slice : BitVec 5), s.boot.phase = 15 ∧ s.gateNode level.toNat i slice.toNat = 0) ∧
    (∃ (s : State) (level : BitVec 3) (i : Fin 16) (g : Fin 4) (slice : BitVec 5) (cmd : Instr) (n : Nat), s.boot.phase = 15 ∧ n ≠ 0 ∧ ((cmd = .gateOn
      level i g slice ∧ s.gateNode level.toNat i slice.toNat = n) ∨ (cmd = .gateOff level i g slice ∧ s.gateOffStatus level.toNat i g slice.toNat =
      n))) ∧
    (∃ (s : State) (level : BitVec 3) (i : Fin 16) (g : Fin 4) (slice : BitVec 5), s.boot.phase = 15 ∧ s.gateOffStatus level.toNat i g slice.toNat =
      0) :=
  ⟨⟨live, 95, [110], 110, by decide +kernel⟩,
    ⟨live, 95, [111], by decide +kernel⟩,
    ⟨{ live with stks := [(95, { level := 5 })] }, 95, [0], by decide +kernel⟩,
    ⟨{ live with stks := [(95, { temps := [106] })] }, 95, by decide +kernel⟩,
    ⟨live, 15, 116, by decide +kernel⟩,
    ⟨live, 15, 115, by decide +kernel⟩,
    ⟨{ live with hubs := [(15, { wakeQ := [(2, 20, 0)] })] }, 15, 2, 20, 0, by decide +kernel⟩,
    ⟨{ live with hubs := [(15, { wakeQ := [(2, 20, 0)] })], power := { on := true, m2 := true, capEff := 1 } }, 15, 2, 20, 0, by decide +kernel⟩,
    ⟨live, 4, 15, 3, 20, by decide +kernel⟩,
    ⟨live, 5, 15, 3, 20, .gateOn 5 15 3 20, 5, by decide +kernel, by decide +kernel, .inl ⟨rfl, by decide +kernel⟩⟩,
    ⟨live, 4, 15, 3, 20, by decide +kernel⟩⟩

/-- The hypotheses of `Obligations.ObservationCommandsComplete`, clause by clause. -/
theorem witness_ObservationCommandsComplete :
    (∃ (s : State) (i : Fin 16) (h : Happening) (lost : Nat), (s.hub i).bb.cur = some (h, lost)) ∧
    (∃ (s : State) (p : Fin 4) (w : HostWrite), (s.out.inflight.find? (fun w => w.kind == WriteKind.trace && w.port == p.val && w.sent) = some w)) ∧
    (∃ (s : State) (v : BitVec 32), s.writesAbsent rNBIDX v.toNat = false ∧ field v.toNat 0 7 < 96) ∧
    (∃ (s : State) (v : BitVec 32), s.writesAbsent rNBIDX v.toNat = false ∧ 96 ≤ field v.toNat 0 7) ∧
    (∃ (s : State) (v : BitVec 32), s.writesAbsent rMEIDX v.toNat = false) ∧
    (∃ (s : State) (v : BitVec 32), s.writesAbsent rVEIDX v.toNat = false) ∧
    (∃ (s : State) (v : BitVec 32), s.writesAbsent rFEIDX v.toNat = false) ∧
    (∃ (s : State) (v : BitVec 32), s.writesAbsent rSQIDX v.toNat = false) ∧
    (∃ (s : State) (v : BitVec 32), s.writesAbsent rCLKIDX v.toNat = false) ∧
    (∃ (s : State) (v : BitVec 32), ∃ c, c ∈ [(Instr.nbidxWrite v, rNBIDX), (.meidxWrite v, rMEIDX), (.veidxWrite v, rVEIDX), (.feidxWrite v, rFEIDX),
      (.sqidxWrite v, rSQIDX), (.clkidxWrite v, rCLKIDX)] ∧ s.half = true ∧ s.writesAbsent c.2 v.toNat = true) :=
  ⟨⟨{ live with hubs := [(15, { bb := { cur := some ({ typ := 1 }, 0xFFFF) } })] }, 15, { typ := 1 }, 0xFFFF, by decide +kernel⟩,
    ⟨{ live with out := { inflight := [{ kind := .trace, port := 3, sent := true }] } }, 3, { kind := .trace, port := 3, sent := true },
      by decide +kernel⟩,
    ⟨live, 95, by decide +kernel⟩,
    ⟨live, 127, by decide +kernel⟩,
    ⟨live, 15, by decide +kernel⟩,
    ⟨live, 15, by decide +kernel⟩,
    ⟨live, 15, by decide +kernel⟩,
    ⟨live, 15, by decide +kernel⟩,
    ⟨live, 15, by decide +kernel⟩,
    ⟨{ live with half := true }, 15, (.meidxWrite 15, rMEIDX), by decide +kernel⟩⟩

/-- The hypotheses of `Obligations.RegisterWritesComplete`, clause by clause. -/
theorem witness_RegisterWritesComplete :
    (∃ (s : State) (p : Fin 4) (o : BitVec 24) (v : BitVec 64) (r : RegRow) (x : Nat), (s.hport p).gone = false ∧ (o.toNat < 0xB100 ∨ 0xB140 ≤
      o.toNat) ∧ regRow o.toNat = some r ∧ takenValue s.half o.toNat (s.reg p o.toNat) (s.partBits o.toNat v.toNat) = some x ∧ s.writesAbsent o.toNat
      v.toNat = false ∧ ownRow o.toNat = false ∧ (o.toNat = rHILCFG → (s.hport p).commit = false) ∧ (o.toNat = rTRCBASE → flag (s.reg p rTRCCTL) 0 =
      false)) ∧
    (∃ (s : State) (p : Fin 4) (o : BitVec 24) (v : BitVec 64), (s.hport p).gone = false ∧ (o.toNat < 0xB100 ∨ 0xB140 ≤ o.toNat) ∧ (regRow
      o.toNat).isSome = true ∧ o.toNat ≠ rHILCFG ∧ (takenValue s.half o.toNat (s.reg p o.toNat) (s.partBits o.toNat v.toNat) = none ∨ s.writesAbsent
      o.toNat v.toNat = true)) ∧
    (∃ (s : State) (p : Fin 4) (o : BitVec 24) (v : BitVec 64), (s.hport p).gone = false ∧ regRow o.toNat = none ∧ (o.toNat < 0xB100 ∨ 0xB140 ≤
      o.toNat) ∧ o.toNat ∉ [0x6010, 0xC02C, 0xC038, 0xC040, 0xC048, 0xF068, 0xE008]) ∧
    (∃ (s : State) (p : Fin 4) (vf : Fin 17) (o : BitVec 24) (v : BitVec 64), (s.hport p).gone = true) ∧
    (∃ (s : State) (p : Fin 4) (v : BitVec 64), (s.hport p).gone = false) ∧
    (∃ (s : State) (p : Fin 4) (v : BitVec 64), (s.hport p).gone = false) ∧
    (∃ (s : State) (p : Fin 4) (v : BitVec 64), (s.hport p).gone = false ∧ (s.group (s.cfg rGRPIDX 0 6)).insts = []) ∧
    (∃ (s : State) (p : Fin 4) (o : BitVec 24) (v : BitVec 64), o.toNat ∈ [0xC038, 0xC040, 0xC048] ∧ (s.group (s.cfg rGRPIDX 0 6)).insts ≠ []) ∧
    (∃ (s : State) (p : Fin 4) (v : BitVec 64), (s.hport p).gone = false ∧ field v.toNat 0 16 = 0xC35A ∧ flag v.toNat 16 = true) ∧
    (∃ (s : State) (p : Fin 4) (v : BitVec 64) (k : Nat), (s.hport p).gone = false ∧ k = 16 * s.cfg rPMIDX 0 4 + s.cfg rPMIDX 4 4) ∧
    (∃ (s : State) (p : Fin 4) (vf : Fin 17) (o : BitVec 24) (v : BitVec 64) (off : Nat), (s.hport p).gone = false ∧ ((vf.val = 0 ∧ 0xB100 ≤ o.toNat ∧
      o.toNat < 0xB140 ∧ off = o.toNat - 0xB100) ∨ (vf.val ≠ 0 ∧ (s.partOfPage (17 * p.val + vf.val)).isSome = true ∧ off = o.toNat))) ∧
    (∃ (s : State) (p : Fin 4) (vf : Fin 17) (o : BitVec 24) (v : BitVec 64), vf.val ≠ 0 ∧ s.partOfPage (17 * p.val + vf.val) = none) :=
  ⟨⟨live, 3, BitVec.ofNat 24 rPCCFG, 0xFFFFFFFFFFFFFFFC, _, _, by decide +kernel, by decide +kernel, rfl, rfl, by decide +kernel⟩,
    ⟨{ live with half := true }, 3, BitVec.ofNat 24 rPMAPIDX, 3584, by decide +kernel⟩,
    ⟨live, 3, 0xFFFFFF, 0, by decide +kernel⟩,
    ⟨{ live with ports := [(3, { gone := true })] }, 3, 16, 0xFFFFFF, 0, by decide +kernel⟩,
    ⟨live, 3, 0, by decide +kernel⟩,
    ⟨live, 3, 0, by decide +kernel⟩,
    ⟨live, 3, 0, by decide +kernel⟩,
    ⟨{ groupState 0 [{ ctxs := [63] }] with regs := [(rGRPIDX, 63)] }, 3, 0xC048, 0, by decide +kernel⟩,
    ⟨live, 3, 0x1C35A, by decide +kernel⟩,
    ⟨live, 3, 0, _, by decide +kernel, rfl⟩,
    ⟨{ live with parts := [(63, { st := .active, port := 3, vf := 15 })] }, 3, 16, 0x3F, 0, 0x3F, by decide +kernel⟩,
    ⟨live, 3, 16, 0x3F, 0, by decide +kernel⟩⟩

/-- The hypotheses of `Obligations.StepRunsTheFrontCommand`, clause by clause. -/
theorem witness_StepRunsTheFrontCommand :
    ∃ (c : Instr) (s : State) (rest : List Instr), s.pending = c :: rest :=
  ⟨.rowNop 0, { live with pending := [.rowNop 0] }, [], by decide +kernel⟩

/-- The hypotheses of `Obligations.IdleStepIsOneCycle`, clause by clause. -/
theorem witness_IdleStepIsOneCycle :
    ∃ (s : State), s.pending = [] :=
  ⟨State.reset, by decide +kernel⟩

/-- The hypotheses of `Obligations.BanksStayCanonical`, clause by clause. -/
theorem witness_BanksStayCanonical :
    ∃ (s t : State), s.MemOk ∧ step s = .next t :=
  ⟨{ stepState 0 with pending := [.rowNop 0] }, _, ⟨by decide +kernel, by decide +kernel⟩, rfl⟩

/-- The hypotheses of `Obligations.FrameOfEveryCommand`, clause by clause. -/
theorem witness_FrameOfEveryCommand :
    ∃ (c : Instr) (s t : State), exec c s = .next t :=
  ⟨.rowNop 0, live, _, rfl⟩

/-- The hypotheses of `Obligations.HashMasksFixedInService`, clause by clause. -/
theorem witness_HashMasksFixedInService :
    ∃ (c : Instr) (s t : State), s.boot.phase = 15 ∧ exec c s = .next t :=
  ⟨.hashRecordWrite (List.replicate 9 2), live, _, by decide +kernel, rfl⟩

/-- The hypotheses of `Obligations.OldImageActiveUntilProbationEnds`, clause by clause. -/
theorem witness_OldImageActiveUntilProbationEnds :
    ∃ (c : Instr) (s t : State), exec c s = .next t ∧ t.fw.active ≠ s.fw.active :=
  ⟨.probationEnd false, { live with fw := { st := 3 } }, _, rfl, by decide +kernel⟩

/-- The hypotheses of `Obligations.HaltStopsAContext`, clause by clause. -/
theorem witness_HaltStopsAContext :
    ∃ (s : State) (c reason fld n : Nat), (s.ctx c).st = .running :=
  ⟨stepState 0, 63, 0x38, 15, 0, by decide +kernel⟩

/-- The hypotheses of `Obligations.NearBankCommandsOutsideTheirMode`, clause by clause. -/
theorem witness_NearBankCommandsOutsideTheirMode :
    (∃ (s : State) (ch : Fin 1536) (rank : BitVec 5) (bank allr : Bool) (row q : BitVec 16) (data : BitVec 256) (beat : BitVec 272) (flips : List (Fin
      48 × BitVec 272)) (reads : List (List (Fin 8 × BitVec 272))) (beats : List (BitVec 272)) (mask : BitVec 8) (col : BitVec 6) (group : BitVec 3)
      (buf : BitVec 4), ∃ p, rank.toNat < 24 ∧ (s.chan ch).mode ≠ .nearBank ∧ p ∈ [(Instr.swt ch, allBanks), (.nrf ch, allBanks), (.bbq ch q,
      allBanks), (.bbw ch data flips, allBanks), (.ccl ch col, allBanks), (.aha ch rank bank row, [2 * rank.toNat + nat bank]), (.nnr ch rank bank, [2
      * rank.toNat + nat bank]), (.acr ch rank bank group buf reads, [2 * rank.toNat + nat bank]), (.cfgw ch rank beat, rankBanks rank.toNat), (.str
      ch rank beats, rankBanks rank.toNat), (.acl ch rank allr mask, if allr then allBanks else rankBanks rank.toNat)]) ∧
    (∃ (s : State) (ch : Fin 1536) (cmd : Instr), ((cmd = .nbe ch ∧ (s.chan ch).mode = .nearBank) ∨ (cmd = .nbx ch ∧ (s.chan ch).mode = .conv))) :=
  ⟨⟨live, 1535, 23, true, true, 0, 0, 0, 0, [], [], [], 0, 0, 0, 0, (.swt 1535, allBanks), by decide +kernel⟩,
    ⟨live, 1535, .nbx 1535, by decide +kernel⟩⟩

/-- The hypotheses of `Obligations.CountersCount`, clause by clause. -/
theorem witness_CountersCount :
    ∃ (s : State) (t ev n : Nat) (part : Option Nat), flag (s.reg 0 rPMCTL) 0 = false :=
  ⟨live, 15, 0x10, 5, some 63, by decide +kernel⟩

/-- The hypotheses of `Obligations.FullBlackBoxQueueLosesHappenings`, clause by clause. -/
theorem witness_FullBlackBoxQueueLosesHappenings :
    (∃ (s : State) (i typ ctx : Nat) (part : Option Nat) (payload : List (Nat × Nat × Nat)), 64 ≤ (s.hub i).bb.queue.length ∧ (s.hub i).bb.cur.isSome
      = true) ∧
    (∃ (s : State) (i : Fin 16) (h g : Happening) (lost : Nat) (q : List Happening), (s.hub i).bb.cur = some (h, lost) ∧ (s.hub i).bb.queue = g :: q ∧
      s.boxHeld i = false) :=
  ⟨⟨{ live with hubs := [(15, { bb := { cur := some ({ typ := 1 }, 0), queue := List.replicate 64 { typ := 1 } } })] }, 15, 1, 63, none, [],
      by decide +kernel⟩,
    ⟨{ live with hubs := [(15, { bb := { cur := some ({ typ := 1 }, 0), queue := [{ typ := 1 }] } })] }, 15, { typ := 1 }, { typ := 1 }, 0, [],
      by decide +kernel⟩⟩

/-- The hypotheses of `Obligations.LineColumnsShareABank`, clause by clause. -/
theorem witness_LineColumnsShareABank :
    ∃ (s : State) (sa : Nat), sa % 64 = 0 :=
  ⟨live, live.space - 64, by decide +kernel⟩

/-- The hypotheses of `Obligations.HashIsItsOwnInverse`, clause by clause. -/
theorem witness_HashIsItsOwnInverse :
    ∃ (masks : List Nat) (p o : Nat), o < slotBytes :=
  ⟨State.reset.boot.hashMask, 8191, slotBytes - 1, by decide +kernel⟩

/-- The hypotheses of `Obligations.FirstBindingAndReserve`, clause by clause. -/
theorem witness_FirstBindingAndReserve :
    (∃ (i : Nat), i < 7168) ∧
    (∃ (p : Nat), p < 8192) ∧
    (∃ (i : Nat), i < 3584) ∧
    (∃ (p : Nat), p < 4096) :=
  ⟨⟨7167, by decide +kernel⟩,
    ⟨8191, by decide +kernel⟩,
    ⟨3583, by decide +kernel⟩,
    ⟨4095, by decide +kernel⟩⟩

end Sys2Proof.Tests.Slice0
end

section
/-! The geometry of chapter 02: the bank hash undone by itself, the two columns of a line, and the first binding of the slots. -/

namespace Sys2Proof.Machine

theorem flag_eq_testBit (w i : Nat) : flag w i = w.testBit i := by
  rw [Nat.testBit_eq_decide_div_mod_eq]; rfl

/-- The number below `2 ^ n` whose bit `k` is `f k`. -/
def numberOfBits (f : Nat → Bool) (n : Nat) : Nat := (List.range n).foldl (fun acc k => acc + 2 ^ k * nat (f k)) 0

theorem hashSel_eq_numberOfBits (masks : List Nat) (inp sel : Nat) :
    hashSel masks inp sel = numberOfBits (fun k => flag sel k != parityOf 26 (inp &&& masks.getD k 0)) 9 := rfl

theorem numberOfBits_succ (f : Nat → Bool) (n : Nat) :
    numberOfBits f (n + 1) = numberOfBits f n + 2 ^ n * nat (f n) := by
  simp [numberOfBits, List.range_succ]

theorem numberOfBits_lt (f : Nat → Bool) (n : Nat) : numberOfBits f n < 2 ^ n := by
  induction n with
  | zero => exact Nat.one_pos
  | succ n ih => cases h : f n <;> simp [numberOfBits_succ, nat, h, Nat.pow_succ] <;> omega

theorem testBit_numberOfBits (f : Nat → Bool) {n k : Nat} (hk : k < n) : (numberOfBits f n).testBit k = f k := by
  induction n with
  | zero => omega
  | succ n ih =>
    have hlt := numberOfBits_lt f n
    rw [numberOfBits_succ, Nat.add_comm, Nat.testBit_two_pow_mul_add _ hlt]
    obtain h | rfl := Nat.lt_succ_iff_lt_or_eq.1 hk
    · simp [h, ih]
    · cases h : f k <;> simp [nat]

theorem hashSel_lt (masks : List Nat) (inp sel : Nat) : hashSel masks inp sel < 512 := numberOfBits_lt _ 9

theorem testBit_hashSel (masks : List Nat) (inp sel : Nat) {k : Nat} (hk : k < 9) :
    (hashSel masks inp sel).testBit k = (sel.testBit k != parityOf 26 (inp &&& masks.getD k 0)) := by
  rw [hashSel_eq_numberOfBits, testBit_numberOfBits _ hk, flag_eq_testBit]

/-- R68: each select bit keeps itself as an input, so a second hash with the same inputs takes the first one's parity away again. -/
theorem hashSel_hashSel (masks : List Nat) (inp : Nat) {sel : Nat} (hs : sel < 512) :
    hashSel masks inp (hashSel masks inp sel) = sel := by
  refine Nat.eq_of_testBit_eq fun k => ?_
  by_cases hk : k < 9
  · simp [testBit_hashSel masks inp _ hk]
  · have hp : 512 ≤ 2 ^ k := Nat.pow_le_pow_right (n := 2) (i := 9) (by decide) (by omega)
    rw [Nat.testBit_lt_two_pow (lt_of_lt_of_le hs hp), Nat.testBit_lt_two_pow (lt_of_lt_of_le (hashSel_lt ..) hp)]

/-- The group index of a location (R63). -/
def Loc.group (l : Loc) : Nat := 3 * (l.stack / 2) + l.rank / 8

/-- The nine bank-select bits of a location (R62). -/
def Loc.sel (l : Loc) : Nat := l.bank + 2 * l.chan + 32 * (l.rank % 8) + 256 * (l.stack % 2)

/-- The hash inputs of a location (R66). -/
def Loc.hashInputs (l : Loc) : Nat := l.group * 2 ^ 22 + l.row * 2 ^ 6 + l.col / 2 * 2

theorem offsetOf_eq (masks : List Nat) (l : Loc) :
    offsetOf masks l =
      l.group * 2 ^ 27 + l.row % 128 * 2 ^ 20 + hashSel masks l.hashInputs l.sel * 2 ^ 11 + l.col * 32 + l.byte := rfl

/-- R63: the hash moves only the low parts of the stack and the rank. -/
theorem locOf_stack_div (masks : List Nat) (p o : Nat) : (locOf masks p o).stack / 2 = field o 27 4 / 3 := by
  simp only [locOf, field]
  omega

theorem locOf_rank_div (masks : List Nat) (p o : Nat) : (locOf masks p o).rank / 8 = field o 27 4 % 3 := by
  simp only [locOf, field]
  omega

theorem locOf_group (masks : List Nat) (p o : Nat) : (locOf masks p o).group = field o 27 4 := by
  rw [Loc.group, locOf_stack_div, locOf_rank_div]
  exact Nat.div_add_mod _ 3

theorem locOf_hashInputs (masks : List Nat) (p o : Nat) :
    (locOf masks p o).hashInputs =
      field o 27 4 * 2 ^ 22 + (128 * (p % 512) + field o 20 7) * 2 ^ 6 + field o 5 6 / 2 * 2 := by
  rw [Loc.hashInputs, locOf_group]; rfl

/-- R62: nine select bits cut into bank, channel, rank and stack part, and put together again. -/
theorem join_selFields {w : Nat} (hw : w < 512) : field w 0 1 + 2 * field w 1 4 + 32 * field w 5 3 + 256 * field w 8 1 = w := by
  simp only [field]
  omega

theorem locOf_sel (masks : List Nat) (p o : Nat) :
    (locOf masks p o).sel = hashSel masks (locOf masks p o).hashInputs (field o 11 9) := by
  rw [locOf_hashInputs]
  refine Eq.trans ?_ (join_selFields (hashSel_lt ..))
  simp only [Loc.sel, locOf, field]
  omega

/-- R62: an offset in a parcel is its fields put together. -/
theorem join_offsetFields {o : Nat} (ho : o < slotBytes) :
    field o 27 4 * 2 ^ 27 + field o 20 7 * 2 ^ 20 + field o 11 9 * 2 ^ 11 + field o 5 6 * 32 + field o 0 5 = o := by
  simp only [slotBytes, field] at ho ⊢
  omega

theorem offsetOf_locOf (masks : List Nat) (p : Nat) {o : Nat} (ho : o < slotBytes) :
    offsetOf masks (locOf masks p o) = o := by
  have hrow : (locOf masks p o).row % 128 = field o 20 7 := by
    simp only [locOf, field]
    omega
  have hsel : field o 11 9 < 512 := Nat.mod_lt _ (by decide)
  rw [offsetOf_eq, locOf_sel, hashSel_hashSel masks _ hsel, locOf_group, hrow]
  exact join_offsetFields ho

/-- Settles O59: the second hash has the inputs of the first, since the location's unhashed parts give them back. -/
theorem hashIsItsOwnInverse : Obligations.HashIsItsOwnInverse := by
  intro masks p o ho
  refine ⟨offsetOf_locOf masks p ho, fun other => ⟨rfl, rfl, rfl, ?_, ?_⟩⟩
  · rw [locOf_stack_div, locOf_stack_div]
  · rw [locOf_rank_div, locOf_rank_div]

/-- R35: the offset bits above a line's are those of both its columns. -/
theorem field_add_32 {o lo : Nat} (ho : o % 64 = 0) (hlo : 6 ≤ lo) (n : Nat) : field (o + 32) lo n = field o lo n := by
  have hline : (o + 32) / 64 = o / 64 := by omega
  have hpow : 2 ^ lo = 64 * 2 ^ (lo - 6) := (pow_mul_pow_sub 2 hlo).symm
  simp only [field, hpow, ← Nat.div_div_eq_div_mul, hline]

/-- R35, R71: 32 bytes past the start of a line lies the next column, at the same place otherwise; the hash inputs leave c[0] out. -/
theorem locOf_add_32 (masks : List Nat) (p : Nat) {o : Nat} (ho : o % 64 = 0) :
    locOf masks p (o + 32) = { locOf masks p o with col := (locOf masks p o).col + 1 } := by
  have hcol : field (o + 32) 5 6 = field o 5 6 + 1 := by simp only [field]; omega
  have hpair : (field o 5 6 + 1) / 2 = field o 5 6 / 2 := by simp only [field]; omega
  have hbyte : field (o + 32) 0 5 = field o 0 5 := by simp only [field]; omega
  simp only [locOf, hcol, hpair, hbyte, field_add_32 ho (show 6 ≤ 11 by decide), field_add_32 ho (show 6 ≤ 20 by decide),
    field_add_32 ho (show 6 ≤ 27 by decide)]

theorem State.locate_add_32 (s : State) {sa : Nat} (h : sa % 64 = 0) :
    s.locate (sa + 32) = { s.locate sa with col := (s.locate sa).col + 1 } := by
  have hslot : (sa + 32) / slotBytes = sa / slotBytes := by simp only [slotBytes]; omega
  have hoff : (sa + 32) % slotBytes = sa % slotBytes + 32 := by simp only [slotBytes]; omega
  have hline : sa % slotBytes % 64 = 0 := by simp only [slotBytes]; omega
  simp only [State.locate, hslot, hoff, locOf_add_32 _ _ hline]

theorem State.locate_col_even (s : State) {sa : Nat} (h : sa % 64 = 0) : (s.locate sa).col % 2 = 0 := by
  simp only [State.locate, locOf, field, slotBytes]
  omega

/-- Settles O58: the two columns' locations differ in the column alone. -/
theorem lineColumnsShareABank : Obligations.LineColumnsShareABank := by
  intro s sa h
  rw [s.locate_add_32 h]
  exact ⟨rfl, rfl, rfl, s.locate_col_even h⟩

/-- The slot first bound to parcel `p`: R53's binding read backwards, or 00 R3's on the half module. -/
def firstSlotOf (half : Bool) (p : Nat) : Nat := if half then p % 512 * 8 + p / 512 else p % 512 * 16 + p / 512

theorem slotDefault_firstSlotOf {half : Bool} {p : Nat} (hp : p / 512 < if half then 8 else 16) :
    (slotDefault half (firstSlotOf half p)).phys = p := by
  have undo : ∀ n, p / 512 < n → (p % 512 * n + p / 512) % n * 512 + (p % 512 * n + p / 512) / n = p := by
    intro n hn
    rw [Nat.mul_add_mod', Nat.mod_eq_of_lt hn, Nat.add_comm (p % 512 * n), Nat.add_mul_div_right _ _ (by omega),
      Nat.div_eq_of_lt hn, Nat.zero_add, Nat.div_add_mod']
  cases half
  case false => exact undo 16 hp
  case true => exact undo 8 hp

theorem State.firstSlotOf_lt_slotCount (s : State) {p : Nat} (hp : p / 512 < if s.half then 8 else 16) :
    firstSlotOf s.half p < s.slotCount ↔ p % 512 < 448 := by
  cases h : s.half <;> simp only [firstSlotOf, State.slotCount, h, Bool.false_eq_true, if_true, if_false] at hp ⊢ <;> omega

section FirstBinding

variable {s : State} (hslots : s.slots = [])
include hslots

theorem State.slot_of_slots_nil (i : Nat) : s.slot i = slotDefault s.half i := by
  rw [State.slot, hslots]; rfl

theorem State.slotOfParcel_of_slots_nil (p : Nat) :
    s.slotOfParcel p =
      if firstSlotOf s.half p < s.slotCount ∧ (s.slot (firstSlotOf s.half p)).phys = p then some (firstSlotOf s.half p) else none := by
  rw [State.slotOfParcel, hslots]; rfl

/-- R53: the parcels whose first slot would lie past the last one are those of bands 448 to 511. -/
theorem State.parcelFree_of_slots_nil (hparcels : s.parcels = []) {p : Nat} (hp : p / 512 < if s.half then 8 else 16) :
    s.parcelFree p = true ↔ 448 ≤ p % 512 := by
  have hbound : (s.slot (firstSlotOf s.half p)).phys = p := by
    rw [State.slot_of_slots_nil hslots, slotDefault_firstSlotOf hp]
  have hret : (s.parcel p).retired = false := by rw [State.parcel, hparcels]; rfl
  simp [State.parcelFree, hret, State.slotOfParcel_of_slots_nil hslots, hbound, s.firstSlotOf_lt_slotCount hp]

end FirstBinding

/-- Settles O60: at reset no slot and no parcel is listed, so the first binding (R53; 00 R3 on the half module) stands. -/
theorem firstBindingAndReserve : Obligations.FirstBindingAndReserve :=
  ⟨fun i _ => congrArg Slot.phys (State.slot_of_slots_nil (s := State.reset) rfl i),
    fun _ hp => State.parcelFree_of_slots_nil (s := State.reset) rfl rfl (Nat.div_lt_of_lt_mul hp),
    fun i _ => congrArg Slot.phys (State.slot_of_slots_nil (s := State.resetHalf) rfl i),
    fun _ hp => State.parcelFree_of_slots_nil (s := State.resetHalf) rfl rfl (Nat.div_lt_of_lt_mul hp)⟩

end Sys2Proof.Machine
end

section
/-! The frame of every command, by the frames of the shared operations it goes through, and the image bank marked active, which only
the end of a probation changes (18 R707). -/

namespace Sys2Proof.Machine

/-! ### What a meaning's next state leaves as it was -/

/-- The parts that a halt of contexts may change. -/
def haltParts : List Field := [.chans, .crus, .hubs, .me, .ve, .fe, .ctxs, .parts, .pages, .ports, .lands, .xacts, .groups, .pm, .act, .out]

/-- The parts that a landing going down may change. -/
def landingDownParts : List Field :=
  [.chans, .crus, .hubs, .me, .ve, .fe, .ctxs, .parts, .pages, .ports, .lands, .xacts, .groups, .logs, .pm, .act, .out]

/-- The parts that a host port going down may change. -/
def portDownParts : List Field :=
  [.mem, .pois, .rows, .bspares, .stks, .chans, .crus, .hubs, .me, .ve, .fe, .sp, .spPois, .ctxs, .parts, .pages, .streams, .ports, .dirs,
   .lines, .lands, .xacts, .groups, .logs, .pm, .act, .out]

/-- The parts that serving a request of a channel may change. -/
def serveParts : List Field :=
  [.mem, .pois, .rows, .bspares, .stks, .chans, .crus, .hubs, .me, .ve, .fe, .ctxs, .parts, .pages, .streams, .ports, .lands, .xacts,
   .groups, .logs, .pm, .act, .out]

/-- The parts that a warm reset may change. -/
def warmResetParts : List Field :=
  [.regs, .boot, .power, .slots, .mem, .pois, .rows, .bspares, .stks, .chans, .nbus, .crus, .hubs, .me, .ve, .vfiles, .fe, .sp, .spPois,
   .ctxs, .parts, .pages, .streams, .ports, .dirs, .lines, .trans, .lands, .xacts, .groups, .fw, .logs, .pm, .tmap, .act, .out]

/-- The parts that a loss of the input may change. -/
def unpoweredParts : List Field :=
  [.regs, .boot, .power, .slots, .parcels, .mem, .pois, .rows, .bspares, .stks, .chans, .nbus, .crus, .hubs, .me, .ve, .vfiles, .fe, .sp,
   .spPois, .ctxs, .parts, .pages, .streams, .ports, .dirs, .lines, .trans, .lands, .xacts, .routes, .admits, .groups, .fw, .logs, .pm,
   .tmap, .act, .out]

/-- The parts that a command of the near-bank mode may change, whichever it is. -/
def nearBankParts : List Field :=
  [.slots, .parcels, .mem, .pois, .rows, .bspares, .stks, .chans, .nbus, .crus, .hubs, .me, .ve, .fe, .ctxs, .parts, .pages, .streams,
   .ports, .lands, .xacts, .groups, .logs, .pm, .act, .out]

/-- A meaning that goes on changes no part of the state but those of `L`. -/
structure KeepsNext (L : List Field) (s : State) (r : Result) : Prop where
  /-- the frame of its next state -/
  keeps : ∀ t, r = .next t → Keeps L s t

theorem KeepsNext.next {L : List Field} {s t : State} (h : Keeps L s t) : KeepsNext L s (.next t) :=
  ⟨by rintro _ ⟨⟩; exact h⟩

theorem KeepsNext.mono {L M : List Field} {s : State} {r : Result} (h : KeepsNext M s r) (hM : M.all L.contains = true) :
    KeepsNext L s r := ⟨fun t ht => (h.keeps t ht).mono hM⟩

theorem KeepsNext.after {L : List Field} {s u : State} {r : Result} (h : KeepsNext L u r) (k : Keeps L s u) : KeepsNext L s r :=
  ⟨fun t ht => k.via (h.keeps t ht) (by simp)⟩

/-- A step command: what an issue may change, and what its step does. -/
theorem KeepsNext.issue {L : List Field} {s : State} {c eng op : Nat} {mb : Nat → Bool} {f : Nat → Nat → State → State}
    (hL : haltParts.all L.contains = true) (hf : ∀ w i u, Keeps L u (f w i u)) :
    KeepsNext L s (.next (s.issue c eng op mb f)) :=
  .next ((Keeps.issue s s c eng op mb f hL hf).2 (.refl ..))

/-- A descriptor: what taking it up may change, and what its operation does. -/
theorem KeepsNext.runDesc {L : List Field} {s : State} {k op : Nat} {f : Desc → DescRef → State → State}
    (hL : [.parts, .pages, .ports, .pm, .act, .out].all L.contains = true) (hf : ∀ d r u, Keeps L u (f d r u)) :
    KeepsNext L s (.next (s.runDesc k op f)) :=
  .next ((Keeps.runDesc s s k op f hL hf).2 (.refl ..))

/-- A fold whose every step keeps all but `M`, below a larger list. -/
theorem Keeps.foldl_within {α : Type} {L M : List Field} {f : State → α → State} (h : ∀ u a, Keeps M u (f u a))
    (hM : M.all L.contains = true) (l : List α) (s t : State) : Keeps L s (l.foldl f t) ↔ Keeps L s t :=
  Keeps.foldl_iff f l s t fun u a => (h u a).mono hM

/-! ### Start-up, supply and clocks -/

theorem execPowerOn_keeps (r s) : KeepsNext unpoweredParts s (execPowerOn r s) := .next <| by
  simp (disch := decide) only [Keeps.self_iff, Keeps.ite_iff, ite_self, Keeps.putBoot_iff, Keeps.putHubs_iff, Keeps.putPower_iff,
      Keeps.unpowered_iff]

theorem execCrystalQualified_keeps (t s) :
    KeepsNext (.boot :: .slots :: .parcels :: portDownParts) s (execCrystalQualified t s) := .next (Keeps.clockSettled ..)

theorem execCrystalQualifyTimeout_keeps (t s) :
    KeepsNext (.boot :: .slots :: .parcels :: portDownParts) s (execCrystalQualifyTimeout t s) := .next <| by
  simp (disch := decide) only [Keeps.self_iff, Keeps.ite_iff, ite_self, Keeps.clockSettled_iff, Keeps.putBoot_iff]

theorem execCoolantQualified_keeps (s) : KeepsNext (.boot :: .slots :: .parcels :: portDownParts) s (execCoolantQualified s) := .next <| by
  simp (disch := decide) only [Keeps.self_iff, Keeps.ite_iff, ite_self, Keeps.coldTail_iff, Keeps.putBoot_iff]

theorem execPowerFail_keeps (input tokens s) :
    KeepsNext [.power, .mem, .pois, .rows, .bspares, .stks, .chans, .nbus, .crus, .hubs, .me, .ve, .fe, .sp, .spPois, .ctxs, .parts, .pages,
      .streams, .ports, .dirs, .lines, .lands, .xacts, .groups, .logs, .pm, .act, .out] s (execPowerFail input tokens s) := .next <| by
  have down (u : State) (p : Nat) :
      Keeps portDownParts u
        (if (u.hport p).speed = 0 then u else (u.partsOn p).foldl (fun v q => v.preserve q 1 tokens) (u.portDown p)) := by
    simp (disch := decide) only [Keeps.self_iff, Keeps.ite_iff, ite_self, Keeps.portDown_iff,
        Keeps.foldl_within fun _ _ => Keeps.preserve ..]
  simp (disch := decide) only [Keeps.self_iff, Keeps.ite_iff, ite_self, Keeps.putPower_iff, Keeps.foldl_within fun _ _ => Keeps.halt ..,
      Keeps.foldl_within fun _ _ => Keeps.bboxHead .., Keeps.foldl_within fun _ _ => Keeps.enterStackSr .., Keeps.foldl_within down]

theorem execPowerReturn_keeps (r s) : KeepsNext warmResetParts s (execPowerReturn r s) := .next <| by
  simp (disch := decide) only [Keeps.self_iff, Keeps.ite_iff, ite_self, Keeps.putPower_iff, Keeps.warmReset_iff]

theorem execInputLoss_keeps (s) : KeepsNext unpoweredParts s (execInputLoss s) := .next (.ite (Keeps.unpowered ..) (.refl ..))

theorem execWarmReset_keeps (r s) : KeepsNext warmResetParts s (execWarmReset r s) := .next (.ite (Keeps.warmReset ..) (.refl ..))

theorem execWatchdogExpiry_keeps (t r s) : KeepsNext warmResetParts s (execWatchdogExpiry t r s) := .next <| by
  simp (disch := decide) only [Keeps.self_iff, Keeps.ite_iff, ite_self, Keeps.bbox_iff, Keeps.fwRevert_iff, Keeps.modHub_iff,
      Keeps.modTran_iff, Keeps.warmReset_iff]

theorem execCrystalAmplitudeLost_keeps (t s) :
    KeepsNext [.hubs, .parts, .pages, .ports, .act, .out] s (execCrystalAmplitudeLost t s) := .next <| by
  simp (disch := decide) only [Keeps.self_iff, Keeps.ite_iff, ite_self, Keeps.loseCrystal_iff, Keeps.modHub_iff]

theorem execEdgeCountWindowEnd_keeps (t n s) :
    KeepsNext [.hubs, .parts, .pages, .ports, .act, .out] s (execEdgeCountWindowEnd t n s) := .next <| by
  simp (disch := decide) only [Keeps.self_iff, Keeps.ite_iff, ite_self, Keeps.loseCrystal_iff, Keeps.modHub_iff]

theorem execStandbyPllLock_keeps (t s) : KeepsNext [.hubs] s (execStandbyPllLock t s) := .next (.ite (Keeps.modHub ..) (.refl ..))

theorem execDomainSwitch_keeps (t s) : KeepsNext landingDownParts s (execDomainSwitch t s) := .next <| by
  simp (disch := decide) only [Keeps.self_iff, Keeps.ite_iff, ite_self, Keeps.landingDown_iff, Keeps.modHub_iff]

theorem execForwardedReferenceLost_keeps (t s) :
    KeepsNext [.hubs, .parts, .pages, .ports, .act, .out] s (execForwardedReferenceLost t s) := .next <| by
  simp (disch := decide) only [Keeps.self_iff, Keeps.ite_iff, ite_self, Keeps.clockLoss_iff, Keeps.modHub_iff]

theorem execTimestampSync_keeps (t diff s) : KeepsNext [.hubs] s (execTimestampSync t diff s) := .next (.ite (Keeps.modHub ..) (.refl ..))

theorem execTimestampCheckpoint_keeps (s) : KeepsNext [.boot] s (execTimestampCheckpoint s) := .next (.ite (Keeps.putBoot ..) (.refl ..))

theorem execPtmExchange_keeps (h s) : KeepsNext [.hubs, .parts, .pages, .ports, .tmap, .act, .out] s (execPtmExchange h s) := .next <| by
  repeat' split
  all_goals simp (disch := decide) only [Keeps.self_iff, Keeps.ite_iff, ite_self, Keeps.bbox_iff, Keeps.eventAll_iff, Keeps.putTmap_iff]

/-! ### The governor, temperatures and power gates -/

theorem execPowerAverageUpdate_keeps (avg input tin tout flow dp s) :
    KeepsNext [.power, .chans, .parts, .ports, .act, .out] s (execPowerAverageUpdate avg input tin tout flow dp s) := .next <| by
  simp (disch := decide) only [Keeps.self_iff, Keeps.ite_iff, ite_self, Keeps.putPower_iff, Keeps.setM2_iff, Keeps.setM3_iff]

theorem execNearBankHold_keeps (s) : KeepsNext [.power, .chans, .parts, .ports, .act, .out] s (execNearBankHold s) := .next <| by
  split <;> simp (disch := decide) only [Keeps.self_iff, Keeps.ite_iff, ite_self, Keeps.setM3_iff]

theorem execGovernorWindowEnd_keeps (s) :
    KeepsNext [.regs, .power, .hubs, .parts, .ports, .act, .out] s (execGovernorWindowEnd s) := .next <| by
  have shifted (u : State) (m : Nat × Int) : Keeps [.hubs] u
      (if m.2 = 0 then u else u.modHub m.1 (fun h => { h with shift := h.shift + m.2 })) := by
    simp (disch := decide) only [Keeps.self_iff, Keeps.ite_iff, ite_self, Keeps.modHub_iff]
  simp (disch := decide) only [Keeps.self_iff, Keeps.ite_iff, ite_self, Keeps.putAct_iff, Keeps.takeUp_iff, Keeps.trace_iff,
      Keeps.putPower_iff, Keeps.foldl_within shifted]

theorem execCoolantFault_keeps (s) : KeepsNext [.power, .chans, .parts, .ports, .act, .out] s (execCoolantFault s) := .next <| by
  simp (disch := decide) only [Keeps.self_iff, Keeps.ite_iff, ite_self, Keeps.putPower_iff, Keeps.setM3_iff]

theorem execCoolantRecover_keeps (s) : KeepsNext [.power, .chans, .parts, .ports, .act, .out] s (execCoolantRecover s) := .next <| by
  simp (disch := decide) only [Keeps.self_iff, Keeps.ite_iff, ite_self, Keeps.putPower_iff, Keeps.setM3_iff]

theorem execDieTempSample_keeps (st temps s) : KeepsNext [.stks, .chans, .nbus, .hubs] s (execDieTempSample st temps s) := .next <| by
  simp (disch := decide) only [Keeps.self_iff, Keeps.ite_iff, ite_self, Keeps.enqueueWake_iff, Keeps.level5_iff, Keeps.modStack_iff]

theorem execThermalLevel5Timeout_keeps (st s) :
    KeepsNext [.stks, .chans, .nbus, .hubs] s (execThermalLevel5Timeout st s) := .next (.ite (Keeps.level5 ..) (.refl ..))

theorem execThermalHalfPeriod_keeps (second s) : KeepsNext [.stks] s (execThermalHalfPeriod second s) := .next (Keeps.putStks ..)

theorem execHubTempSample_keeps (t temp s) : KeepsNext (.free :: unpoweredParts) s (execHubTempSample t temp s) := .next <| by
  simp (disch := decide) only [Keeps.self_iff, Keeps.ite_iff, ite_self, Keeps.modHub_iff, Keeps.overheat_iff]

theorem execAdmissionGrant_keeps (t kind s) :
    KeepsNext [.hubs, .ctxs, .parts, .pages, .ports, .act, .out] s (execAdmissionGrant t kind s) := .next <| by
  split <;> simp (disch := decide) only [Keeps.self_iff, Keeps.ite_iff, ite_self, Keeps.grantWake_iff, Keeps.modHub_iff]

theorem execGateOn_keeps (level tile group slice s) : KeepsNext [.power, .hubs] s (execGateOn level tile group slice s) := .next <| by
  simp (disch := decide) only [Keeps.self_iff, Keeps.ite_iff, ite_self, Keeps.gateStatus_iff, Keeps.modHub_iff, Keeps.putPower_iff,
      Keeps.foldl_within fun _ _ => Keeps.enqueueWake ..]

theorem execGateOff_keeps (level tile group slice s) :
    KeepsNext [.power, .hubs, .me] s (execGateOff level tile group slice s) := .next <| by
  repeat' split
  all_goals simp (disch := decide) only [Keeps.self_iff, Keeps.gateStatus_iff, Keeps.modHub_iff, Keeps.modMat_iff, Keeps.putPower_iff]

theorem execSliceGate_keeps (tile slice s) : KeepsNext [.me] s (execSliceGate tile slice s) := .next <| by
  simp (disch := decide) only [Keeps.self_iff, Keeps.ite_iff, ite_self, Keeps.modMat_iff]

theorem execSliceUngate_keeps (tile slice s) :
    KeepsNext [.hubs, .me, .ctxs, .parts, .ports, .act, .out] s (execSliceUngate tile slice s) := .next <| by
  simp (disch := decide) only [Keeps.self_iff, Keeps.ite_iff, ite_self, Keeps.modHub_iff, Keeps.modMat_iff, Keeps.wakeDone_iff]

/-! ### Host ports, rings and resets -/

theorem execCxlMemRead_keeps (p hpa own s) :
    KeepsNext [.mem, .pois, .rows, .bspares, .stks, .chans, .crus, .hubs, .me, .ve, .fe, .ctxs, .parts, .pages, .streams, .ports, .dirs,
      .lands, .xacts, .groups, .logs, .pm, .act, .out] s (execCxlMemRead p hpa own s) := .next <| by
  repeat' split
  all_goals simp (disch := decide) only [Keeps.self_iff, Keeps.answer_iff, Keeps.misroute_iff, Keeps.modHport_iff, Keeps.poisonAnswer_iff,
      Keeps.portRead_iff, Keeps.readMesh_iff, Keeps.sharedHostRead_iff, Keeps.viaMesh_iff]

theorem execCxlMemWrite_keeps (p hpa data mask s) :
    KeepsNext [.chans, .hubs, .parts, .pages, .streams, .ports, .dirs, .lines, .logs, .pm, .act, .out]
      s (execCxlMemWrite p hpa data mask s) := .next <| by
  repeat' split
  all_goals simp (disch := decide) only [Keeps.self_iff, Keeps.ite_iff, ite_self, Keeps.acceptWrite_iff, Keeps.answer_iff,
      Keeps.bufferWrite_iff, Keeps.homeWrite_iff, Keeps.lateFail_iff, Keeps.misroute_iff, Keeps.modDir_iff, Keeps.modStream_iff,
      Keeps.viaMesh_iff]

theorem execDecoderCommit_keeps (p iw ig base size s) : KeepsNext [.ports, .out] s (execDecoderCommit p iw ig base size s) := .next <| by
  simp (disch := decide) only [Keeps.self_iff, Keeps.ite_iff, ite_self, Keeps.answer_iff, Keeps.modHport_iff, Keeps.putPorts_iff]

theorem execDecoderUncommit_keeps (p s) : KeepsNext [.ports] s (execDecoderUncommit p s) := .next <| by
  simp (disch := decide) only [Keeps.self_iff, Keeps.modHport_iff, Keeps.putPorts_iff]

theorem execBiResponse_keeps (t line data s) : KeepsNext portDownParts s (execBiResponse t line data s) := .next <| by
  repeat' split
  all_goals simp (disch := decide) only [Keeps.self_iff, Keeps.homeWrite_iff, Keeps.modDir_iff, Keeps.release_iff]

theorem execBiTimeout_keeps (t line s) : KeepsNext portDownParts s (execBiTimeout t line s) := .next <| by
  repeat' split
  all_goals simp (disch := decide) only [Keeps.self_iff, Keeps.answer_iff, Keeps.logError_iff, Keeps.modDir_iff, Keeps.modFchan_iff,
      Keeps.putLogs_iff, Keeps.release_iff]

theorem execSnpinv_keeps (page line s) : KeepsNext [.pages] s (execSnpinv page line s) := .next <| by
  simp (disch := decide) only [Keeps.self_iff, Keeps.ite_iff, ite_self, Keeps.modPage_iff]

theorem execWatchedLineRead_keeps (page line data s) :
    KeepsNext [.parts, .pages, .ports, .act, .out] s (execWatchedLineRead page line data s) := .next <| by
  repeat' split
  all_goals simp (disch := decide) only [Keeps.self_iff, Keeps.ite_iff, ite_self, Keeps.eventOn_iff, Keeps.modPage_iff, Keeps.modPart_iff,
      Keeps.setErr_iff]

theorem execDescriptorFetch_keeps (page data ok s) :
    KeepsNext [.parts, .pages, .act, .out] s (execDescriptorFetch page data ok s) := .next <| by
  simp (disch := decide) only [Keeps.self_iff, Keeps.ite_iff, ite_self, Keeps.modPage_iff, Keeps.putOut_iff, Keeps.writeControl_iff]

theorem execFlagPerform_keeps (src part s) : KeepsNext [.streams, .lines] s (execFlagPerform src part s) := .next <| by
  split <;> simp (disch := decide) only [Keeps.self_iff, Keeps.ite_iff, ite_self, Keeps.homeWrite_iff, Keeps.modStream_iff]

theorem execPdrainRead_keeps (p vf s) : KeepsNext [.streams, .ports, .out] s (execPdrainRead p vf s) := .next <| by
  simp (disch := decide) only [Keeps.self_iff, Keeps.ite_iff, ite_self, Keeps.answer_iff, Keeps.modHport_iff,
      Keeps.foldl_within fun _ _ => Keeps.modStream ..]

theorem execCohstatRead_keeps (p s) : KeepsNext [.logs, .out] s (execCohstatRead p s) := .next <| by
  simp (disch := decide) only [Keeps.self_iff, Keeps.answer_iff, Keeps.putLogs_iff]

theorem execAptdatWrite_keeps (p value s) : KeepsNext [.ports] s (execAptdatWrite p value s) := .next (.ite (Keeps.modHport ..) (.refl ..))

theorem execPeerApertureRead_keeps (p e off s) : KeepsNext serveParts s (execPeerApertureRead p e off s) := .next <| by
  split <;> simp (disch := decide) only [Keeps.self_iff, Keeps.ite_iff, ite_self, Keeps.answer_iff, Keeps.askRead_iff, Keeps.logError_iff,
      Keeps.readMesh_iff, Keeps.unsupported_iff]

theorem execPeerApertureWrite_keeps (p e off data mask s) :
    KeepsNext [.chans, .hubs, .parts, .pages, .streams, .ports, .logs, .pm, .act, .out] s (execPeerApertureWrite p e off data mask s) :=
  .next <| by
    split <;> simp (disch := decide) only [Keeps.self_iff, Keeps.ite_iff, ite_self, Keeps.acceptWrite_iff, Keeps.answer_iff,
        Keeps.lateFail_iff, Keeps.modHport_iff, Keeps.putPorts_iff, Keeps.unsupported_iff, Keeps.viaMesh_iff]

theorem execGetMeasurements_keeps (p s) : KeepsNext [.out] s (execGetMeasurements p s) := .next (Keeps.answer ..)

theorem execGetCertificate_keeps (p s) : KeepsNext [.out] s (execGetCertificate p s) := .next (Keeps.answer ..)

theorem execPortLinkDown_keeps (p tokens s) : KeepsNext portDownParts s (execPortLinkDown p tokens s) := .next <| by
  simp (disch := decide) only [Keeps.self_iff, Keeps.ite_iff, ite_self, Keeps.foldl_within fun _ _ => Keeps.preserve .., Keeps.portDown_iff]

theorem execHotReset_keeps (p kind tokens s) : KeepsNext portDownParts s (execHotReset p kind tokens s) := .next (Keeps.hotReset ..)

theorem execPerstAssert_keeps (p tokens s) : KeepsNext portDownParts s (execPerstAssert p tokens s) := .next <| by
  simp (disch := decide) only [Keeps.self_iff, Keeps.ite_iff, ite_self, Keeps.hotReset_iff, Keeps.modHport_iff]

theorem execFunctionLevelReset_keeps (p vf s) :
    KeepsNext [.slots, .fe, .ctxs, .parts, .pages, .out] s (execFunctionLevelReset p vf s) := .next <| by
  split <;> simp (disch := decide) only [Keeps.self_iff, Keeps.ite_iff, ite_self, Keeps.beginReset_iff]

theorem execPartitionReset_keeps (p s) :
    KeepsNext [.slots, .mem, .pois, .rows, .bspares, .stks, .chans, .crus, .hubs, .me, .ve, .vfiles, .fe, .ctxs, .parts, .pages, .ports,
      .lines, .trans, .lands, .xacts, .groups, .logs, .pm, .act, .out] s (execPartitionReset p s) := .next <| by
  split <;> simp (disch := decide) only [Keeps.self_iff, Keeps.ite_iff, ite_self, Keeps.finishReset_iff, Keeps.resetHalts_iff]

theorem execSlotClear_keeps (slot s) : KeepsNext [.slots, .hubs] s (execSlotClear slot s) := .next <| by
  simp (disch := decide) only [Keeps.self_iff, Keeps.ite_iff, ite_self, Keeps.modHub_iff, Keeps.modSlot_iff]

theorem execSlotClearDone_keeps (slot s) :
    KeepsNext [.slots, .mem, .pois, .rows, .chans, .crus, .hubs, .me, .ve, .fe, .ctxs, .parts, .pages, .streams, .ports, .lines, .lands,
      .xacts, .groups, .logs, .pm, .act, .out] s (execSlotClearDone slot s) := .next <| by
  split
  · generalize (s.slot slot).moveTo = m, (s.slot slot).owner = o
    cases m <;> cases o <;>
      simp (disch := decide) only [Keeps.self_iff, Keeps.ite_iff, ite_self, Keeps.finishDestroy_iff,
          Keeps.foldl_within fun _ _ => Keeps.complete .., Keeps.modSlot_iff, Keeps.modHub_iff, Keeps.clearParcel_iff, Keeps.putLines_iff,
          Keeps.overwrite_iff]
  · exact Keeps.refl ..

theorem execSuctlWrite_keeps (page value s) : KeepsNext [.parts, .pages, .ports, .act, .out] s (execSuctlWrite page value s) := .next <| by
  repeat' split
  all_goals simp (disch := decide) only [Keeps.self_iff, Keeps.ite_iff, ite_self, Keeps.firstEvents_iff, Keeps.modPage_iff,
      Keeps.modPart_iff, Keeps.setErr_iff, Keeps.writeControl_iff]

/-! ### Descriptors -/

theorem execStart_keeps (page s) :
    KeepsNext [.chans, .crus, .hubs, .me, .ve, .vfiles, .fe, .ctxs, .parts, .pages, .ports, .lands, .xacts, .groups, .pm, .act, .out]
      s (execStart page s) := .runDesc (by decide) fun _ _ _ => by
  simp (disch := decide) only [Keeps.self_iff, Keeps.ite_iff, ite_self, Keeps.complete_iff, Keeps.halt_iff, Keeps.modCtx_iff,
      Keeps.modVfile_iff]

theorem execHalt_keeps (page s) : KeepsNext haltParts s (execHalt page s) := .runDesc (by decide) fun _ _ _ => by
  simp (disch := decide) only [Keeps.self_iff, Keeps.ite_iff, ite_self, Keeps.complete_iff, Keeps.halt_iff]

theorem execLoad_keeps (page tile s) :
    KeepsNext [.parts, .pages, .ports, .trans, .pm, .act, .out] s (execLoad page tile s) := .runDesc (by decide) fun _ _ _ => by
  split <;> simp (disch := decide) only [Keeps.self_iff, Keeps.ite_iff, ite_self, Keeps.complete_iff, Keeps.modTran_iff, Keeps.takeLoad_iff]

theorem execBind_keeps (page s) :
    KeepsNext [.hubs, .me, .vfiles, .fe, .sp, .spPois, .ctxs, .parts, .pages, .ports, .pm, .act, .out] s (execBind page s) :=
  .runDesc (by decide) fun _ _ _ => by
    dsimp only
    split
    · simp (disch := decide) only [Keeps.self_iff, Keeps.complete_iff]
    split
    · simp (disch := decide) only [Keeps.self_iff, Keeps.complete_iff]
    split
    · simp (disch := decide) only [Keeps.self_iff, Keeps.complete_iff]
    split
    · simp (disch := decide) only [Keeps.self_iff, Keeps.complete_iff]
    · simp (disch := decide) only [Keeps.self_iff, Keeps.ite_iff, ite_self, Keeps.complete_iff, Keeps.modCtx_iff,
        Keeps.foldl_within fun _ _ => Keeps.modFchan .., Keeps.openEngines_iff, Keeps.modMat_iff, Keeps.modPart_iff, Keeps.clearVfile_iff,
        Keeps.zeroWindow_iff]

theorem execUnbind_keeps (page s) :
    KeepsNext [.vfiles, .ctxs, .parts, .pages, .ports, .pm, .act, .out] s (execUnbind page s) := .runDesc (by decide) fun _ _ _ => by
  dsimp only
  split
  · simp (disch := decide) only [Keeps.self_iff, Keeps.complete_iff]
  split <;> simp (disch := decide) only [Keeps.self_iff, Keeps.complete_iff, Keeps.clearVfile_iff, Keeps.unbindCtx_iff, Keeps.modCtx_iff]

theorem execDiscard_keeps (page s) :
    KeepsNext [.parts, .pages, .ports, .pm, .act, .out] s (execDiscard page s) := .runDesc (by decide) fun _ _ _ => by
  repeat' split
  all_goals simp (disch := decide) only [Keeps.self_iff, Keeps.complete_iff, Keeps.modPart_iff]

theorem execCopy_keeps (page s) :
    KeepsNext [.fe, .parts, .pages, .ports, .pm, .act, .out] s (execCopy page s) := .runDesc (by decide) fun _ _ _ => by
  simp (disch := decide) only [Keeps.self_iff, Keeps.ite_iff, ite_self, Keeps.complete_iff, Keeps.queueFerry_iff]

theorem execFlush_keeps (page s) :
    KeepsNext [.parts, .pages, .ports, .pm, .act, .out] s (execFlush page s) := .runDesc (by decide) fun _ _ _ => by
  split <;> simp (disch := decide) only [Keeps.self_iff, Keeps.complete_iff, Keeps.dropBuffers_iff]

theorem execCode_keeps (page s) :
    KeepsNext [.slots, .parts, .pages, .ports, .pm, .act, .out] s (execCode page s) := .runDesc (by decide) fun _ _ _ => by
  simp (disch := decide) only [Keeps.self_iff, Keeps.ite_iff, ite_self, Keeps.complete_iff, Keeps.modSlot_iff, Keeps.reviewCode_iff]

theorem execFence_keeps (page s) :
    KeepsNext [.parts, .pages, .ports, .pm, .act, .out] s (execFence page s) := .runDesc (by decide) fun _ _ _ => by
  simp (disch := decide) only [Keeps.self_iff, Keeps.completeNow_iff]

theorem execReset_keeps (page s) :
    KeepsNext [.slots, .fe, .ctxs, .parts, .pages, .ports, .pm, .act, .out] s (execReset page s) := .runDesc (by decide) fun _ _ _ => by
  split <;> simp (disch := decide) only [Keeps.self_iff, Keeps.beginReset_iff, Keeps.completeNow_iff]

theorem execAttach_keeps (page s) :
    KeepsNext [.ctxs, .parts, .pages, .ports, .pm, .act, .out] s (execAttach page s) := .runDesc (by decide) fun _ _ _ => by
  dsimp only
  split <;> simp (disch := decide) only [Keeps.self_iff, Keeps.ite_iff, ite_self, Keeps.foldl_within fun _ _ => Keeps.modCtx ..,
      Keeps.writeHeld_iff, Keeps.completeNow_iff, Keeps.setPartState_iff, Keeps.modPart_iff]

theorem execPcreate_keeps (page s) :
    KeepsNext [.parts, .pages, .ports, .pm, .act, .out] s (execPcreate page s) := .runDesc (by decide) fun _ _ _ => by
  simp (disch := decide) only [Keeps.self_iff, Keeps.ite_iff, ite_self, Keeps.complete_iff, Keeps.modPage_iff, Keeps.modPart_iff,
      Keeps.setPartState_iff]

theorem execPdestroy_keeps (page s) :
    KeepsNext [.slots, .fe, .ctxs, .parts, .pages, .ports, .pm, .act, .out] s (execPdestroy page s) := .runDesc (by decide) fun _ _ _ => by
  simp (disch := decide) only [Keeps.self_iff, Keeps.ite_iff, ite_self, Keeps.beginReset_iff, Keeps.complete_iff]

theorem execPslot_keeps (page s) :
    KeepsNext [.slots, .mem, .pois, .rows, .bspares, .stks, .hubs, .parts, .pages, .ports, .lines, .logs, .pm, .act, .out]
      s (execPslot page s) := .runDesc (by decide) fun _ _ _ => by
  dsimp only
  split <;> simp (disch := decide) only [Keeps.self_iff, Keeps.ite_iff, ite_self, Keeps.complete_iff, Keeps.modPart_iff, Keeps.modSlot_iff,
      Keeps.reviewCode_iff, Keeps.writeBackSlot_iff]

theorem execPctx_keeps (page s) :
    KeepsNext [.ctxs, .parts, .pages, .ports, .pm, .act, .out] s (execPctx page s) := .runDesc (by decide) fun _ _ _ => by
  simp (disch := decide) only [Keeps.self_iff, Keeps.ite_iff, ite_self, Keeps.complete_iff, Keeps.modCtx_iff]

theorem execPvf_keeps (page s) :
    KeepsNext [.parts, .pages, .ports, .pm, .act, .out] s (execPvf page s) := .runDesc (by decide) fun _ _ _ => by
  simp (disch := decide) only [Keeps.self_iff, Keeps.ite_iff, ite_self, Keeps.complete_iff, Keeps.modPage_iff, Keeps.modPart_iff,
      Keeps.setPartState_iff]

/-! ### Steps of the sequencer -/

theorem execStepFetch_keeps (ctx index s) :
    KeepsNext [.pois, .rows, .bspares, .stks, .chans, .crus, .hubs, .me, .ve, .fe, .ctxs, .parts, .pages, .ports, .lands, .xacts, .groups,
      .logs, .pm, .act, .out] s (execStepFetch ctx index s) := .next <| by
  simp (disch := decide) only [Keeps.self_iff, Keeps.ite_iff, ite_self, Keeps.countGrant_iff, Keeps.deviceRead_iff, Keeps.halt_iff,
      Keeps.modCtx_iff, Keeps.readMesh_iff]

theorem execNop_keeps (ctx s) : KeepsNext haltParts s (execNop ctx s) := .issue (by decide) fun _ _ _ => by
  simp (disch := decide) only [Keeps.self_iff, Keeps.doneNow_iff]

theorem execEnd_keeps (ctx s) : KeepsNext haltParts s (execEnd ctx s) := .issue (by decide) fun _ _ _ => by
  repeat' split
  all_goals simp (disch := decide) only [Keeps.self_iff, Keeps.ite_iff, ite_self, Keeps.complete_iff, Keeps.doneNow_iff,
      Keeps.dropBuffers_iff, Keeps.modCtx_iff, Keeps.notePoison_iff]

theorem execReplay_keeps (ctx s) : KeepsNext haltParts s (execReplay ctx s) := .issue (by decide) fun _ _ _ => by
  simp (disch := decide) only [Keeps.self_iff, Keeps.doneNow_iff, Keeps.modCtx_iff]

theorem execReplayRepeat_keeps (ctx s) : KeepsNext (.free :: haltParts) s (execReplayRepeat ctx s) := .next <| by
  split <;> simp (disch := decide) only [Keeps.self_iff, Keeps.ite_iff, ite_self, Keeps.modCtx_iff, Keeps.applyPats_iff,
      Keeps.foldl_within fun _ _ => Keeps.applyInc ..]

theorem execXld_keeps (ctx s) : KeepsNext (.free :: haltParts) s (execXld ctx s) := .issue (by decide) fun _ _ _ => by
  simp (disch := decide) only [Keeps.self_iff, Keeps.beginAccess_iff, Keeps.foldl_within fun _ _ => Keeps.loadX ..]

theorem execXst_keeps (ctx s) :
    KeepsNext [.chans, .crus, .hubs, .me, .ve, .fe, .sp, .spPois, .ctxs, .parts, .pages, .ports, .lands, .xacts, .groups, .pm, .act, .out]
      s (execXst ctx s) := .issue (by decide) fun _ _ u => by
  have marked (v : State) (a : Nat) (l : List Byte) :
      Keeps [.sp, .spPois, .ctxs] v ((v.spWrite (tileOfCtx ctx) a l true).notePoison ctx) := by
    simp (disch := decide) only [Keeps.self_iff, Keeps.notePoison_iff, Keeps.spWrite_iff]
  simp (disch := decide) only [Keeps.self_iff, Keeps.beginAccess_iff, Keeps.spWrite_iff, Keeps.foldl_within fun _ _ => marked ..]

theorem execXset_keeps (ctx s) : KeepsNext haltParts s (execXset ctx s) := .issue (by decide) fun _ _ _ => by
  simp (disch := decide) only [Keeps.self_iff, Keeps.doneNow_iff, Keeps.modCtx_iff]

theorem execAmov_keeps (ctx s) : KeepsNext haltParts s (execAmov ctx s) := .issue (by decide) fun _ _ _ => by
  simp (disch := decide) only [Keeps.self_iff, Keeps.doneNow_iff, Keeps.modCtx_iff]

theorem execCmset_keeps (ctx s) : KeepsNext haltParts s (execCmset ctx s) := .issue (by decide) fun _ _ _ => by
  simp (disch := decide) only [Keeps.self_iff, Keeps.doneNow_iff, Keeps.modCtx_iff]

theorem execSplit_keeps (ctx s) : KeepsNext haltParts s (execSplit ctx s) := .issue (by decide) fun _ _ _ => by
  simp (disch := decide) only [Keeps.self_iff, Keeps.doneNow_iff, Keeps.modCtx_iff]

theorem execMbxr_keeps (ctx s) : KeepsNext (.free :: haltParts) s (execMbxr ctx s) := .issue (by decide) fun _ _ _ => by
  dsimp only
  split <;> simp (disch := decide) only [Keeps.self_iff, Keeps.ite_iff, ite_self, Keeps.doneNow_iff, Keeps.modCtx_iff, Keeps.modPart_iff,
      Keeps.notePoison_iff, Keeps.putFree_iff, Keeps.writeControl_iff]

theorem execMbxw_keeps (ctx s) : KeepsNext haltParts s (execMbxw ctx s) := .issue (by decide) fun _ _ _ => by
  dsimp only
  split <;> simp (disch := decide) only [Keeps.self_iff, Keeps.beginAccess_iff, Keeps.hostWrite_iff, Keeps.modPart_iff]

theorem execEvent_keeps (ctx s) : KeepsNext haltParts s (execEvent ctx s) := .issue (by decide) fun _ _ _ => by
  split <;> simp (disch := decide) only [Keeps.self_iff, Keeps.doneNow_iff, Keeps.event_iff]

theorem execScratchpadAccessEnd_keeps (ctx s) :
    KeepsNext [.ctxs, .parts, .ports, .act, .out] s (execScratchpadAccessEnd ctx s) := .next <| by
  split <;> simp (disch := decide) only [Keeps.self_iff, Keeps.ite_iff, ite_self, Keeps.modCtx_iff, Keeps.stepDone_iff]

/-! ### The matrix engine -/

theorem execMmul_keeps (ctx s) : KeepsNext haltParts s (execMmul ctx s) := .issue (by decide) fun _ _ _ => by
  simp (disch := decide) only [Keeps.self_iff, Keeps.modMat_iff, Keeps.outstand_iff]

theorem execMwake_keeps (ctx s) : KeepsNext haltParts s (execMwake ctx s) := .issue (by decide) fun _ _ _ => by
  simp (disch := decide) only [Keeps.self_iff, Keeps.modMat_iff, Keeps.outstand_iff]

theorem execMeStepStart_keeps (tile s) : KeepsNext (.regs :: haltParts) s (execMeStepStart tile s) := .next <| by
  split
  · exact Keeps.refl ..
  split
  · simp (disch := decide) only [Keeps.self_iff, Keeps.wakeDone_iff, Keeps.foldl_within fun _ _ => Keeps.enqueueWake .., Keeps.modMat_iff]
  split
  · exact Keeps.refl ..
  split
  · exact Keeps.refl ..
  split
  · exact .mono (Keeps.halt ..) (by decide)
  split
  · simp (disch := decide) only [Keeps.self_iff, Keeps.foldl_within fun _ _ => Keeps.enqueueWake ..]
  split <;> simp (disch := decide) only [Keeps.self_iff, Keeps.takeUp_iff, Keeps.modMat_iff]

theorem execMeWaveStart_keeps (tile s) :
    KeepsNext [.hubs, .me, .parts, .pages, .ports, .act, .out] s (execMeWaveStart tile s) := .next <| by
  split <;> simp (disch := decide) only [Keeps.self_iff, Keeps.ite_iff, ite_self, Keeps.modMat_iff, Keeps.takeOver_iff]

theorem execFpqPanelEntry_keeps (tile s) :
    KeepsNext [.regs, .me, .ctxs, .parts, .ports, .act, .out] s (execFpqPanelEntry tile s) := .next <| by
  repeat' split
  all_goals simp (disch := decide) only [Keeps.self_iff, Keeps.mmulDone_iff, Keeps.modMat_iff]

theorem execKeepmaxExpiry_keeps (tile s) : KeepsNext [.me] s (execKeepmaxExpiry tile s) := .next <| by
  split <;> simp (disch := decide) only [Keeps.self_iff, Keeps.ite_iff, ite_self, Keeps.modMat_iff]

theorem execPeMismatch_keeps (tile pos s) :
    KeepsNext [.hubs, .me, .parts, .pages, .ports, .act, .out] s (execPeMismatch tile pos s) := .next <| by
  split
  · exact Keeps.refl ..
  · simp (disch := decide) only [↓Keeps.self_iff, ↓Keeps.ite_iff, ite_self, ↓Keeps.retireSlice_iff, ↓Keeps.bbox_iff, ↓Keeps.modMat_iff]

theorem execSliceTestDone_keeps (tile pass s) :
    KeepsNext [.hubs, .me, .parts, .pages, .ports, .act, .out] s (execSliceTestDone tile pass s) := .next <| by
  split <;> simp (disch := decide) only [Keeps.self_iff, Keeps.ite_iff, ite_self, Keeps.modMat_iff, Keeps.retireSlice_iff]

theorem execSliceSwapTest_keeps (tile s) : KeepsNext [.me] s (execSliceSwapTest tile s) := .next <| by
  simp (disch := decide) only [Keeps.self_iff, Keeps.ite_iff, ite_self, Keeps.modMat_iff]

/-! ### The vector engine -/

theorem execVchain_keeps (ctx s) : KeepsNext haltParts s (execVchain ctx s) := .issue (by decide) fun _ _ _ => by
  simp (disch := decide) only [Keeps.self_iff, Keeps.modVec_iff, Keeps.outstand_iff]

theorem execVeStepStart_keeps (tile s) : KeepsNext [.ve] s (execVeStepStart tile s) := .next <| by
  repeat' split
  all_goals simp (disch := decide) only [Keeps.self_iff, Keeps.modVec_iff]

theorem execVePanelEntry_keeps (tile s) :
    KeepsNext [.chans, .crus, .hubs, .me, .ve, .vfiles, .fe, .sp, .spPois, .ctxs, .parts, .pages, .ports, .lands, .xacts, .groups, .pm, .act,
      .out] s (execVePanelEntry tile s) := .next <| by
  generalize ((s.veAdvance tile).vec tile).runs.getLast? = last
  cases last with
  | none => exact .mono (Keeps.veAdvance ..) (by decide)
  | some r =>
    refine .ite (.mono (Keeps.veAdvance ..) (by decide)) ?_
    generalize (s.veAdvance tile).intake tile r = taken
    cases taken <;>
      simp (disch := decide) only [↓Keeps.self_iff, ↓Keeps.ite_iff, ite_self, ↓Keeps.halt_iff, ↓Keeps.spend_iff, ↓Keeps.count_iff,
          ↓Keeps.modVfile_iff, ↓Keeps.modMat_iff, ↓Keeps.modVec_iff, ↓Keeps.veAdvance_iff]

theorem execVeStepComplete_keeps (tile s) :
    KeepsNext [.ve, .vfiles, .sp, .spPois, .ctxs, .parts, .ports, .act, .out] s (execVeStepComplete tile s) := .next <| by
  split <;> simp (disch := decide) only [Keeps.self_iff, Keeps.ite_iff, ite_self, Keeps.modVec_iff, Keeps.notePoison_iff, Keeps.spWrite_iff,
      Keeps.stepDone_iff, Keeps.veAdvance_iff]

/-! ### The ferry engine -/

theorem execFcopy_keeps (ctx s) : KeepsNext haltParts s (execFcopy ctx s) := .next (Keeps.issueFerry ..)

theorem execFxpose_keeps (ctx s) : KeepsNext haltParts s (execFxpose ctx s) := .next (Keeps.issueFerry ..)

theorem execFgather_keeps (ctx s) : KeepsNext haltParts s (execFgather ctx s) := .next (Keeps.issueFerry ..)

theorem execFscatter_keeps (ctx s) : KeepsNext haltParts s (execFscatter ctx s) := .next (Keeps.issueFerry ..)

theorem execFerryStepStart_keeps (tile chan host bad s) :
    KeepsNext (.free :: portDownParts) s (execFerryStepStart tile chan host bad s) := .next <| by
  split
  · simp (disch := decide) only [↓Keeps.self_iff, ↓Keeps.ite_iff, ite_self, ↓Keeps.ferryFault_iff, ↓Keeps.ferryGo_iff, ↓Keeps.pump_iff,
      ↓Keeps.readMesh_iff, ↓Keeps.modHub_iff, ↓Keeps.count_iff, ↓Keeps.modFchan_iff]
  · exact Keeps.refl ..

theorem execOverlapHoldGrant_keeps (tile chan s) : KeepsNext (.free :: portDownParts) s (execOverlapHoldGrant tile chan s) := .next <| by
  simp (disch := decide) only [Keeps.self_iff, Keeps.ite_iff, ite_self, Keeps.ferryGo_iff, Keeps.modFchan_iff, Keeps.modHub_iff]

theorem execFerryStepComplete_keeps (tile chan s) : KeepsNext (.free :: portDownParts) s (execFerryStepComplete tile chan s) := .next <| by
  repeat' split
  all_goals simp (disch := decide) only [Keeps.self_iff, Keeps.complete_iff, Keeps.ferryGo_iff, Keeps.modFchan_iff, Keeps.modHub_iff,
      Keeps.notePoison_iff, Keeps.stepDone_iff]

theorem execFerryFault_keeps (tile chan fault operand addr space at_ module s) :
    KeepsNext haltParts s (execFerryFault tile chan fault operand addr space at_ module s) := .next (.ite (Keeps.ferryFault ..) (.refl ..))

/-! ### Near-bank passes and rebuilds -/

theorem execNbpass_keeps (ctx s) : KeepsNext haltParts s (execNbpass ctx s) := .issue (by decide) fun _ _ _ => by
  simp (disch := decide) only [Keeps.self_iff, Keeps.modCtx_iff, Keeps.outstand_iff]

theorem execNbPass_keeps (ch ctx entry round cell span s) :
    KeepsNext [.free, .chans, .nbus, .crus, .hubs, .me, .ve, .fe, .ctxs, .parts, .pages, .ports, .lands, .xacts, .groups, .pm, .act, .out]
      s (execNbPass ch ctx entry round cell span s) := .next <| by
  split
  · exact .mono (Keeps.nbBegin ..) (by decide)
  split
  · exact .mono (Keeps.nbBegin ..) (by decide)
  simp (disch := decide) only [Keeps.ite_iff, Keeps.self_iff, Keeps.nbBegin_iff]
  repeat' split
  all_goals simp (disch := decide) only [Keeps.self_iff, Keeps.askNbe_iff, Keeps.beginPass_iff, Keeps.halt_iff, Keeps.event_iff,
      Keeps.nbBegin_iff]

theorem execNbpassComplete_keeps (ctx s) :
    KeepsNext [.free, .chans, .crus, .hubs, .me, .ve, .fe, .sp, .spPois, .ctxs, .parts, .pages, .ports, .lands, .xacts, .groups, .pm, .act,
      .out] s (execNbpassComplete ctx s) := .next <| by
  split
  · exact .mono (Keeps.nbBegin ..) (by decide)
  dsimp only
  split
  · simp (disch := decide) only [Keeps.stepDone_iff, Keeps.modCtx_iff, Keeps.nbTakes_iff]
    refine (Keeps.foldl_fst_iff _ _ _ _ fun p o => ?_).2 (by simp (disch := decide) only [Keeps.self_iff,
        Keeps.foldl_within fun _ _ => Keeps.meshBytes .., Keeps.nbBegin_iff])
    refine (Keeps.foldl_fst_iff _ _ _ _ fun q l => ?_).2 (Keeps.refl ..)
    split <;> simp (disch := decide) only [Keeps.self_iff, Keeps.spWrite_iff]
  · exact .mono (Keeps.nbBegin ..) (by decide)

theorem execYieldPoint_keeps (ch s) : KeepsNext (.regs :: .slots :: .parcels :: serveParts) s (execYieldPoint ch s) := .next <| by
  simp (disch := decide) only [Keeps.self_iff, Keeps.ite_iff, ite_self, Keeps.trace_iff, Keeps.takeFlips_iff,
      Keeps.foldl_within fun _ _ => Keeps.count .., Keeps.count_iff, Keeps.takeUp_iff, Keeps.modChan_iff]

theorem execPassAbandon_keeps (ch s) : KeepsNext (.slots :: .parcels :: serveParts) s (execPassAbandon ch s) := .next <| by
  split <;> simp (disch := decide) only [Keeps.self_iff, Keeps.ite_iff, ite_self, Keeps.modChan_iff, Keeps.takeFlips_iff]

theorem execBlockFold_keeps (ch j s) : KeepsNext [.nbus] s (execBlockFold ch j s) := .next <| by
  split <;> simp (disch := decide) only [Keeps.self_iff, Keeps.ite_iff, ite_self, Keeps.modNbu_iff]

theorem execRecomputeRebuild_keeps (tile s) : KeepsNext [.hubs] s (execRecomputeRebuild tile s) := .next <| by
  split <;> simp (disch := decide) only [Keeps.self_iff, Keeps.ite_iff, ite_self, Keeps.modHub_iff]

theorem execRecomputeDone_keeps (tile s) :
    KeepsNext [.pois, .rows, .bspares, .stks, .crus, .hubs, .parts, .pages, .ports, .logs, .act, .out] s (execRecomputeDone tile s) :=
  .next <| by
    split
    · exact Keeps.refl ..
    next r rest _ =>
      dsimp only
      split
      · exact Keeps.refl ..
      simp (disch := decide) only [Keeps.ite_iff, ite_self, Keeps.uncorrectable_iff, Keeps.logError_iff, Keeps.modHub_iff]
      refine (Keeps.foldl_iff _ _ _ _ fun u g => ?_).2 ?_
      · split <;> simp (disch := decide) only [Keeps.self_iff, Keeps.modHub_iff, Keeps.modCru_iff]
      · simp (disch := decide) only [Keeps.self_iff, Keeps.foldl_within fun _ _ => Keeps.readSpan ..]

theorem execCruDrain_keeps (ch buf s) : KeepsNext [.crus, .ctxs] s (execCruDrain ch buf s) := .next <| by
  repeat' split
  all_goals simp (disch := decide) only [Keeps.self_iff, Keeps.modCru_iff, Keeps.modCtx_iff]

theorem execNbrdyRise_keeps (ch s) : KeepsNext [.chans] s (execNbrdyRise ch s) := .next (.ite (Keeps.modChan ..) (.refl ..))

/-! ### Row and column commands -/

theorem execRowNop_keeps (ch s) : KeepsNext [] s (execRowNop ch s) := .next (Keeps.refl ..)

theorem execAct_keeps (ch rank bank row who s) : KeepsNext [.rows, .chans, .nbus] s (execAct ch rank bank row who s) := .next <| by
  simp (disch := decide) only [Keeps.self_iff, Keeps.ite_iff, ite_self, Keeps.badRank_iff, Keeps.openRow_iff, Keeps.wrongMode_iff]

theorem execPre_keeps (ch rank bank both s) : KeepsNext [.rows, .chans, .nbus] s (execPre ch rank bank both s) := .next <| by
  simp (disch := decide) only [Keeps.self_iff, Keeps.ite_iff, ite_self, Keeps.badRank_iff, Keeps.wrongMode_iff,
      Keeps.foldl_within fun _ _ => Keeps.closeRow ..]

theorem execRef_keeps (ch rank bank s) : KeepsNext [.rows, .chans, .nbus] s (execRef ch rank bank s) := .next <| by
  simp (disch := decide) only [Keeps.self_iff, Keeps.ite_iff, ite_self, Keeps.badRank_iff, Keeps.modChan_iff, Keeps.refreshBank_iff,
      Keeps.repay_iff, Keeps.wrongMode_iff]

theorem execPowerDownEntry_keeps (ch rank s) : KeepsNext [.chans, .nbus] s (execPowerDownEntry ch rank s) := .next <| by
  simp (disch := decide) only [Keeps.self_iff, Keeps.ite_iff, ite_self, Keeps.modChan_iff, Keeps.wrongMode_iff]

theorem execSelfRefreshEntry_keeps (ch rank s) : KeepsNext [.chans, .nbus] s (execSelfRefreshEntry ch rank s) := .next <| by
  simp (disch := decide) only [Keeps.self_iff, Keeps.ite_iff, ite_self, Keeps.loseNbus_iff, Keeps.modChan_iff, Keeps.wrongMode_iff]

theorem execStackSelfRefreshEntry_keeps (st s) : KeepsNext [.stks, .chans, .nbus] s (execStackSelfRefreshEntry st s) := .next <| by
  simp (disch := decide) only [Keeps.self_iff, Keeps.ite_iff, ite_self, Keeps.enterStackSr_iff,
      Keeps.foldl_within fun _ _ => Keeps.wrongMode ..]

theorem execStackSelfRefreshExit_keeps (st s) : KeepsNext [.stks, .chans, .hubs] s (execStackSelfRefreshExit st s) := .next <| by
  simp (disch := decide) only [Keeps.self_iff, Keeps.ite_iff, ite_self, Keeps.modHub_iff, Keeps.modStack_iff, Keeps.putChans_iff]

theorem execMrw_keeps (ch rank allr reg value s) : KeepsNext [.chans, .nbus] s (execMrw ch rank allr reg value s) := .next <| by
  simp (disch := decide) only [Keeps.self_iff, Keeps.ite_iff, ite_self, Keeps.badRank_iff, Keeps.modChan_iff, Keeps.wrongMode_iff]

theorem execNbe_keeps (ch s) : KeepsNext [.chans, .nbus, .hubs] s (execNbe ch s) := .next <| by
  simp (disch := decide) only [Keeps.self_iff, Keeps.ite_iff, ite_self, Keeps.modChan_iff, Keeps.modHub_iff, Keeps.wrongMode_iff]

theorem execNbx_keeps (ch s) : KeepsNext [.chans, .nbus] s (execNbx ch s) := .next <| by
  simp (disch := decide) only [Keeps.self_iff, Keeps.ite_iff, ite_self, Keeps.modChan_iff, Keeps.wrongMode_iff]

theorem execAha_keeps (ch rank bank row s) : KeepsNext [.rows, .chans, .nbus] s (execAha ch rank bank row s) := .next <| by
  simp (disch := decide) only [Keeps.self_iff, Keeps.ite_iff, ite_self, Keeps.badRank_iff, Keeps.modChan_iff, Keeps.tallyRow_iff,
      Keeps.testHost_iff, Keeps.wrongMode_iff]

theorem execSwt_keeps (ch s) : KeepsNext [.chans, .nbus] s (execSwt ch s) := .next <| by
  simp (disch := decide) only [Keeps.self_iff, Keeps.ite_iff, ite_self, Keeps.modChan_iff, Keeps.wrongMode_iff]

theorem execNrf_keeps (ch s) : KeepsNext [.rows, .chans, .nbus] s (execNrf ch s) := .next <| by
  have refreshed (u : State) (k : Nat) (l : List (Nat × Nat)) (f : Channel → Channel) :
      Keeps [.rows, .chans] u ((u.clearTallies k l).modChan ch f) := by
    simp (disch := decide) only [Keeps.self_iff, Keeps.modChan_iff, Keeps.clearTallies_iff]
  simp (disch := decide) only [Keeps.self_iff, Keeps.ite_iff, ite_self, Keeps.wrongMode_iff, Keeps.modChan_iff,
      Keeps.foldl_within fun _ _ => refreshed ..]

theorem execNnr_keeps (ch rank bank s) : KeepsNext [.rows, .chans, .nbus] s (execNnr ch rank bank s) := .next <| by
  repeat' split
  all_goals simp (disch := decide) only [Keeps.self_iff, Keeps.badRank_iff, Keeps.refreshNeighbours_iff, Keeps.wrongMode_iff]

theorem execBbq_keeps (ch q s) : KeepsNext [.chans, .nbus] s (execBbq ch q s) := .next <| by
  simp (disch := decide) only [Keeps.self_iff, Keeps.ite_iff, ite_self, Keeps.modChan_iff, Keeps.wrongMode_iff]

theorem execColumnNop_keeps (ch s) : KeepsNext [] s (execColumnNop ch s) := .next (Keeps.refl ..)

theorem execRd_keeps (ch rank bank col ap s) :
    KeepsNext [.rows, .stks, .chans, .nbus, .hubs, .parts, .pages, .ports, .logs, .act, .out] s (execRd ch rank bank col ap s) :=
  .next <| by
    repeat' split
    all_goals simp (disch := decide) only [Keeps.self_iff, Keeps.ite_iff, ite_self, Keeps.answer_iff, Keeps.askDecode_iff, Keeps.badRank_iff,
        Keeps.closeRow_iff, Keeps.noteRead_iff, Keeps.spend_iff, Keeps.wrongMode_iff]

theorem execWr_keeps (ch rank bank col ap data s) :
    KeepsNext [.mem, .pois, .rows, .bspares, .stks, .chans, .nbus, .hubs, .parts, .pages, .ports, .logs, .act, .out]
      s (execWr ch rank bank col ap data s) := .next <| by
  repeat' split
  all_goals simp (disch := decide) only [Keeps.self_iff, Keeps.ite_iff, ite_self, Keeps.badRank_iff, Keeps.closeRow_iff, Keeps.decodeRow_iff,
      Keeps.spend_iff, Keeps.storeColumn_iff, Keeps.uncorrectable_iff, Keeps.wrongMode_iff]

theorem execMrr_keeps (ch rank reg s) : KeepsNext [.chans, .nbus, .out] s (execMrr ch rank reg s) := .next <| by
  simp (disch := decide) only [Keeps.self_iff, Keeps.ite_iff, ite_self, Keeps.answer_iff, Keeps.badRank_iff, Keeps.wrongMode_iff]

theorem execCcl_keeps (ch col s) : KeepsNext [.chans, .nbus, .pm, .act] s (execCcl ch col s) := .next <| by
  simp (disch := decide) only [Keeps.self_iff, Keeps.ite_iff, ite_self, Keeps.wrongMode_iff, Keeps.modChan_iff, Keeps.count_iff,
      Keeps.spend_iff, Keeps.foldl_within fun _ _ => Keeps.modNbu ..]

theorem execBbw_keeps (ch data flips s) : KeepsNext [.chans, .nbus] s (execBbw ch data flips s) := .next <| by
  simp (disch := decide) only [Keeps.self_iff, Keeps.ite_iff, ite_self, Keeps.wrongMode_iff, Keeps.modChan_iff,
      Keeps.foldl_within fun _ _ => Keeps.modNbu ..]

theorem execCfgw_keeps (ch rank beat s) : KeepsNext [.chans, .nbus] s (execCfgw ch rank beat s) := .next <| by
  simp (disch := decide) only [Keeps.self_iff, Keeps.ite_iff, ite_self, Keeps.badRank_iff, Keeps.modNbu_iff, Keeps.wrongMode_iff]

theorem execAcr_keeps (ch rank bank group buf flips s) : KeepsNext nearBankParts s (execAcr ch rank bank group buf flips s) := .next <| by
  simp (disch := decide) only [Keeps.self_iff, Keeps.ite_iff, Keeps.badRank_iff, Keeps.wrongMode_iff, Keeps.answer_iff, Keeps.closePass_iff,
      Keeps.modChan_iff]
  generalize acrTaken _ _ = v
  cases v <;> simp (disch := decide) only [Keeps.self_iff, ite_self, Keeps.handOver_iff, Keeps.modCru_iff, Keeps.modNbu_iff]

theorem execAcl_keeps (ch rank allr mask s) : KeepsNext [.chans, .nbus, .hubs] s (execAcl ch rank allr mask s) := .next <| by
  simp (disch := decide) only [Keeps.self_iff, Keeps.ite_iff, ite_self, Keeps.badRank_iff, Keeps.wrongMode_iff, Keeps.modChan_iff,
      Keeps.forget_iff, Keeps.foldl_within fun _ _ => Keeps.modNbu ..]

theorem execStr_keeps (ch rank flips s) : KeepsNext nearBankParts s (execStr ch rank flips s) := .next <| by
  simp (disch := decide) only [Keeps.self_iff, Keeps.ite_iff, ite_self, Keeps.badRank_iff, Keeps.wrongMode_iff, Keeps.answer_iff,
      Keeps.closePass_iff, Keeps.modChan_iff, Keeps.foldl_within fun _ _ => Keeps.evaluate .., Keeps.foldl_within fun _ _ => Keeps.modNbu ..]

/-! ### The stack controller -/

theorem execRowDisturbanceAlert_keeps (ch j s) : KeepsNext [.rows, .chans, .pm] s (execRowDisturbanceAlert ch j s) := .next <| by
  split <;> simp (disch := decide) only [Keeps.self_iff, Keeps.ite_iff, ite_self, Keeps.count_iff, Keeps.modChan_iff,
      Keeps.refreshNeighbours_iff]

theorem execThrottleHoldEnd_keeps (ch who j s) : KeepsNext [.chans] s (execThrottleHoldEnd ch who j s) := .next (Keeps.modChan ..)

theorem execOwedWordlineRefresh_keeps (ch j s) : KeepsNext [.rows, .chans] s (execOwedWordlineRefresh ch j s) := .next <| by
  split <;> simp (disch := decide) only [Keeps.self_iff, Keeps.ite_iff, ite_self, Keeps.clearTallies_iff, Keeps.modChan_iff]

theorem execCommandErrorAlert_keeps (ch column word data who write line path s) :
    KeepsNext [.chans, .crus, .hubs, .me, .ve, .fe, .ctxs, .parts, .pages, .streams, .ports, .lands, .xacts, .groups, .logs, .pm, .act, .out]
      s (execCommandErrorAlert ch column word data who write line path s) := .next <| by
  simp (disch := decide) only [Keeps.self_iff, Keeps.giveUp_iff, Keeps.reportError_iff]

theorem runPwr_keeps (ch fn rank s) : KeepsNext [.stks, .chans, .nbus, .hubs] s (runPwr ch fn rank s) := by
  dsimp only [runPwr]
  split
  · exact .mono (execPowerDownEntry_keeps ..) (by decide)
  split
  · exact .next (by simp (disch := decide) only [Keeps.self_iff, Keeps.ite_iff, ite_self, Keeps.wrongMode_iff, Keeps.modChan_iff])
  split
  · exact .mono (execSelfRefreshEntry_keeps ..) (by decide)
  split
  · exact .next (by simp (disch := decide) only [Keeps.self_iff, Keeps.ite_iff, ite_self, Keeps.wrongMode_iff, Keeps.modChan_iff])
  split
  · exact .mono (execStackSelfRefreshEntry_keeps ..) (by decide)
  split
  · exact .mono (execStackSelfRefreshExit_keeps ..) (by decide)
  · exact .next (.refl ..)

theorem runRow_keeps (ch w who s) : KeepsNext [.rows, .stks, .chans, .nbus, .hubs] s (runRow ch w who s) := by
  dsimp only [runRow]
  split
  · exact .mono (execAct_keeps ..) (by decide)
  · exact .mono (execPre_keeps ..) (by decide)
  · exact .mono (execRef_keeps ..) (by decide)
  · exact .mono (runPwr_keeps ..) (by decide)
  · exact .mono (execMrw_keeps ..) (by decide)
  · exact .mono (execNbe_keeps ..) (by decide)
  · exact .mono (execNbx_keeps ..) (by decide)
  · exact .mono (execAha_keeps ..) (by decide)
  · exact .mono (execSwt_keeps ..) (by decide)
  · exact .mono (execNrf_keeps ..) (by decide)
  · exact .mono (execNnr_keeps ..) (by decide)
  · exact .mono (execBbq_keeps ..) (by decide)
  · exact .next (.refl ..)

theorem runColumn_keeps (ch w data s) : KeepsNext nearBankParts s (runColumn ch w data s) := by
  dsimp only [runColumn]
  split
  · exact .mono (execRd_keeps ..) (by decide)
  · exact .mono (execWr_keeps ..) (by decide)
  · exact .mono (execMrr_keeps ..) (by decide)
  · exact .mono (execCcl_keeps ..) (by decide)
  · exact .mono (execBbw_keeps ..) (by decide)
  · exact .mono (execCfgw_keeps ..) (by decide)
  · exact execAcr_keeps ..
  · exact .mono (execAcl_keeps ..) (by decide)
  · exact execStr_keeps ..
  · exact .next (.refl ..)

theorem execCommandReissue_keeps (ch accepted s) : KeepsNext nearBankParts s (execCommandReissue ch accepted s) := by
  unfold execCommandReissue
  split
  · exact .next (.refl ..)
  split
  · exact .next (by simp (disch := decide) only [Keeps.self_iff, Keeps.giveUp_iff, Keeps.reportError_iff])
  dsimp only
  split
  · exact .next (by
      simp (disch := decide) only [Keeps.self_iff, Keeps.ite_iff, ite_self, Keeps.performWrite_iff, Keeps.serve_iff, Keeps.modChan_iff])
  split
  · exact .next (.mono (Keeps.modChan ..) (by decide))
  split
  · exact .after (runColumn_keeps ..) (.mono (Keeps.modChan ..) (by decide))
  · exact .after (.mono (runRow_keeps ..) (by decide)) (.mono (Keeps.modChan ..) (by decide))

theorem execChannelAccept_keeps (ch who part j row pair write data mask poison s) :
    KeepsNext [.chans, .hubs] s (execChannelAccept ch who part j row pair write data mask poison s) :=
  .next (.ite (Keeps.accept ..) (.refl ..))

theorem execArbitrationPoint_keeps (ch s) : KeepsNext serveParts s (execArbitrationPoint ch s) := .next <| by
  repeat' split
  all_goals simp (disch := decide) only [Keeps.self_iff, Keeps.countGrant_iff, Keeps.modChan_iff, Keeps.runGrant_iff]

theorem execArbWindowEnd_keeps (s) : KeepsNext [.regs, .chans] s (execArbWindowEnd s) := .next <| by
  simp (disch := decide) only [Keeps.self_iff, Keeps.putChans_iff, Keeps.takeUp_iff]

theorem execWriteDrain_keeps (ch read s) : KeepsNext serveParts s (execWriteDrain ch read s) := .next <| by
  repeat' split
  all_goals simp (disch := decide) only [Keeps.self_iff, Keeps.ite_iff, ite_self, Keeps.drainTo_iff, Keeps.serve_iff]

theorem execRowCloseTimeout_keeps (ch j s) :
    KeepsNext [.rows, .chans] s (execRowCloseTimeout ch j s) := .next (.ite (Keeps.closeRow ..) (.refl ..))

theorem execRefreshDue_keeps (ch j postpone s) : KeepsNext [.rows, .chans] s (execRefreshDue ch j postpone s) := .next <| by
  simp (disch := decide) only [Keeps.self_iff, Keeps.ite_iff, ite_self, Keeps.modChan_iff, Keeps.refreshBank_iff]

theorem execHotBankWindowEnd_keeps (ch s) :
    KeepsNext [.chans, .parts, .pages, .ports, .act, .out] s (execHotBankWindowEnd ch s) := .next <| by
  simp (disch := decide) only [Keeps.self_iff, Keeps.ite_iff, ite_self, Keeps.eventOwner_iff, Keeps.modChan_iff]

theorem execRecentre_keeps (ch runs sweeps s) :
    KeepsNext (.boot :: .slots :: .parcels :: portDownParts) s (execRecentre ch runs sweeps s) := .next <| by
  simp (disch := decide) only [Keeps.self_iff, Keeps.ite_iff, ite_self, Keeps.modChan_iff, Keeps.modStack_iff, Keeps.noteEye_iff,
      Keeps.retireTile_iff]

theorem execFullRowDecode_keeps (st s) : KeepsNext [.stks] s (execFullRowDecode st s) := .next <| by
  split <;> simp (disch := decide) only [Keeps.self_iff, Keeps.ite_iff, ite_self, Keeps.modStack_iff]

theorem execFullRowDecodeDone_keeps (st s) :
    KeepsNext [.pois, .rows, .bspares, .stks, .hubs, .parts, .pages, .ports, .logs, .act, .out] s (execFullRowDecodeDone st s) :=
  .next <| by
    repeat' split
    all_goals simp (disch := decide) only [Keeps.self_iff, Keeps.answer_iff, Keeps.answerRead_iff, Keeps.decodeRow_iff, Keeps.modStack_iff]

/-! ### Scrub, repair, moves and identity -/

theorem execScrubPassStart_keeps (s) : KeepsNext [.parcels, .bspares, .chans, .hubs, .logs] s (execScrubPassStart s) := .next <| by
  simp (disch := decide) only [Keeps.self_iff, Keeps.putBspares_iff, Keeps.putChans_iff, Keeps.putHubs_iff, Keeps.putLogs_iff,
      Keeps.putParcels_iff]

theorem execScrubRow_keeps (ch s) :
    KeepsNext [.slots, .parcels, .pois, .rows, .bspares, .stks, .chans, .hubs, .parts, .pages, .ports, .logs, .act, .out]
      s (execScrubRow ch s) := .next <| by
  split
  · exact Keeps.refl ..
  next u hu =>
    have granted : Keeps [.chans] s u := by
      split at hu
      · exact Keeps.grantTo_some hu
      · cases hu
    simp (disch := decide) only [Keeps.putLogs_iff, Keeps.modHub_iff, Keeps.scrubRow_iff, Keeps.reachRow_iff, Keeps.modChan_iff]
    exact granted.mono (by decide)

theorem execScrubRankWake_keeps (ch rank s) :
    KeepsNext [.chans] s (execScrubRankWake ch rank s) := .next (.ite (Keeps.modChan ..) (.refl ..))

theorem execRepairFlip_keeps (st s) : KeepsNext [.pois, .rows, .bspares, .stks] s (execRepairFlip st s) := .next <| by
  split <;> simp (disch := decide) only [Keeps.self_iff, Keeps.ite_iff, ite_self, Keeps.flipRepair_iff, Keeps.modStack_iff]

theorem execReencodeRow_keeps (p s) :
    KeepsNext [.slots, .parcels, .pois, .rows, .bspares, .stks, .hubs, .parts, .pages, .ports, .logs, .act, .out] s (execReencodeRow p s) :=
  .next <| by
    repeat' split
    all_goals simp (disch := decide) only [Keeps.self_iff, Keeps.complete_iff, Keeps.endReencode_iff, Keeps.modParcel_iff, Keeps.modSlot_iff,
        Keeps.reencodeOne_iff]

theorem execSlotMove_keeps (slot s) :
    KeepsNext [.slots, .parcels, .mem, .pois, .rows, .bspares, .stks, .hubs, .parts, .pages, .ports, .logs, .act, .out]
      s (execSlotMove slot s) := .next <| by
  repeat' split
  all_goals simp (disch := decide) only [Keeps.self_iff, Keeps.copyParcel_iff, Keeps.logError_iff, Keeps.modParcel_iff, Keeps.modSlot_iff,
      Keeps.noteCover_iff]

theorem execSlotMoveFlip_keeps (slot s) :
    KeepsNext [.slots, .parcels, .mem, .pois, .rows, .bspares, .stks, .chans, .crus, .hubs, .me, .ve, .fe, .ctxs, .parts, .pages, .streams,
      .ports, .lines, .lands, .xacts, .groups, .logs, .pm, .act, .out] s (execSlotMoveFlip slot s) := .next <| by
  simp (disch := decide) only [Keeps.self_iff, Keeps.ite_iff, ite_self, Keeps.flipSlot_iff, Keeps.modSlot_iff, Keeps.putChans_iff,
      Keeps.writeBackSlot_iff]

theorem execHashRecordWrite_keeps (masks s) :
    KeepsNext [.boot] s (execHashRecordWrite masks s) := .next (.ite (Keeps.putBoot ..) (.refl ..))

theorem execModidDkeyWrite_keeps (modid dkey s) :
    KeepsNext [.boot] s (execModidDkeyWrite modid dkey s) := .next (.ite (Keeps.putBoot ..) (.refl ..))

theorem execTileRetire_keeps (t cause readable s) :
    KeepsNext (.boot :: .slots :: .parcels :: portDownParts) s (execTileRetire t cause readable s) := .next (Keeps.retireTile ..)

theorem execSpareTest_keeps (st kind rank half inStack idx pass s) :
    KeepsNext [.bspares, .stks] s (execSpareTest st kind rank half inStack idx pass s) := .next <| by
  simp (disch := decide) only [Keeps.self_iff, Keeps.ite_iff, ite_self, Keeps.failSpareBank_iff, Keeps.failSpareCol_iff,
      Keeps.failSpareDie_iff, Keeps.failSpareRow_iff, Keeps.modStack_iff]

theorem execSwapTestReturn_keeps (st inStack s) :
    KeepsNext [.rows, .bspares, .stks, .logs] s (execSwapTestReturn st inStack s) := .next <| by
  simp (disch := decide) only [Keeps.self_iff, Keeps.ite_iff, ite_self, Keeps.freshBank_iff, Keeps.modStack_iff, Keeps.putLogs_iff]

theorem execSwapTestDone_keeps (st pass s) : KeepsNext [.rows, .bspares, .stks, .hubs, .logs] s (execSwapTestDone st pass s) := .next <| by
  split <;> simp (disch := decide) only [Keeps.self_iff, Keeps.ite_iff, ite_self, Keeps.endSwap_iff, Keeps.putLogs_iff]

theorem execScratchpadCorrectWriteback_keeps (tile word uncorrectable s) :
    KeepsNext [.hubs, .spPois] s (execScratchpadCorrectWriteback tile word uncorrectable s) := .next <| by
  simp (disch := decide) only [Keeps.self_iff, Keeps.ite_iff, ite_self, Keeps.bbox_iff, Keeps.modHub_iff, Keeps.modSpBad_iff]

theorem execWindowClearDone_keeps (c s) :
    KeepsNext [.sp, .spPois, .ctxs, .parts, .pages, .ports, .act, .out] s (execWindowClearDone c s) := .next <| by
  repeat' split
  all_goals simp (disch := decide) only [Keeps.self_iff, Keeps.complete_iff, Keeps.modCtx_iff, Keeps.zeroWindow_iff]

/-! ### Translation and global operations -/

theorem execTranslate_keeps (tile image ok native map s) :
    KeepsNext [.parts, .pages, .ports, .trans, .act, .out] s (execTranslate tile image ok native map s) := .next <| by
  split <;> simp (disch := decide) only [Keeps.self_iff, Keeps.ite_iff, ite_self, Keeps.modTran_iff, Keeps.releaseLoads_iff]

theorem execTranslationEnd_keeps (tile s) :
    KeepsNext [.mem, .pois, .rows, .bspares, .stks, .hubs, .parts, .pages, .ports, .trans, .logs, .act, .out]
      s (execTranslationEnd tile s) := .next <| by
  split <;> simp (disch := decide) only [Keeps.self_iff, Keeps.ite_iff, ite_self, Keeps.complete_iff, Keeps.hostWrite_iff, Keeps.modPart_iff,
      Keeps.modTran_iff, Keeps.writeImage_iff]

theorem execGbar_keeps (ctx s) : KeepsNext haltParts s (execGbar ctx s) := .next (Keeps.issueGlobal ..)

theorem execGbcast_keeps (ctx s) : KeepsNext haltParts s (execGbcast ctx s) := .next (Keeps.issueGlobal ..)

theorem execGred_keeps (ctx s) : KeepsNext haltParts s (execGred ctx s) := .next (Keeps.issueGlobal ..)

theorem execGsnap_keeps (ctx s) : KeepsNext haltParts s (execGsnap ctx s) := .next (Keeps.issueGlobal ..)

theorem execGlobalOpComplete_keeps (ctx s) :
    KeepsNext [.sp, .spPois, .ctxs, .parts, .ports, .lands, .groups, .pm, .act, .out] s (execGlobalOpComplete ctx s) := .next <| by
  split
  · exact Keeps.refl ..
  dsimp only
  split
  · exact .mono (Keeps.advanceInst ..) (by decide)
  split
  · simp (disch := decide) only [Keeps.ite_iff, ite_self, Keeps.modGroup_iff, Keeps.modInst_iff, Keeps.stepDone_iff, Keeps.modCtx_iff]
    split <;> simp (disch := decide) only [Keeps.self_iff, Keeps.advanceInst_iff, Keeps.unpackOperand_iff]
  · exact .mono (Keeps.advanceInst ..) (by decide)

theorem execGlobalTimeout_keeps (group s) : KeepsNext haltParts s (execGlobalTimeout group s) := .next <| by
  split <;> simp (disch := decide) only [Keeps.self_iff, Keeps.haltMany_iff, Keeps.modGroup_iff]

/-! ### Landings and remote transactions -/

theorem execFlitReceive_keeps (l flit fixed uncw s) :
    KeepsNext [.lands, .pm, .act, .out] s (execFlitReceive l flit fixed uncw s) := .next <| by
  simp (disch := decide) only [Keeps.self_iff, Keeps.ite_iff, ite_self, Keeps.modLanding_iff, Keeps.nak_iff, Keeps.spend_iff]

theorem execLinkControl_keeps (l msg level s) : KeepsNext [.lands, .pm, .act, .out] s (execLinkControl l msg level s) := .next <| by
  simp (disch := decide) only [Keeps.self_iff, Keeps.ite_iff, ite_self, Keeps.drainTx_iff, Keeps.modLanding_iff, Keeps.replay_iff]

theorem execAckSend_keeps (l s) : KeepsNext [.lands, .pm, .act, .out] s (execAckSend l s) := .next <| by
  simp (disch := decide) only [Keeps.self_iff, Keeps.ite_iff, ite_self, Keeps.modLanding_iff, Keeps.sendControl_iff]

theorem execReplayTimeout_keeps (l s) : KeepsNext landingDownParts s (execReplayTimeout l s) := .next <| by
  simp (disch := decide) only [Keeps.self_iff, Keeps.ite_iff, ite_self, Keeps.landingDown_iff, Keeps.modLanding_iff, Keeps.replay_iff]

theorem execRemoteRd_keeps (land hdr s) :
    KeepsNext [.pois, .rows, .bspares, .stks, .chans, .hubs, .parts, .pages, .ports, .dirs, .lands, .logs, .pm, .act, .out]
      s (execRemoteRd land hdr s) := .next <| by
  repeat' split
  all_goals simp (disch := decide) only [Keeps.self_iff, Keeps.forward_iff, Keeps.freeRx_iff, Keeps.remoteRead_iff, Keeps.reply_iff]

theorem execRemoteWr_keeps (land hdr data s) :
    KeepsNext [.chans, .hubs, .sp, .spPois, .parts, .pages, .streams, .ports, .dirs, .lines, .lands, .logs, .pm, .act, .out]
      s (execRemoteWr land hdr data s) := .next <| by
  repeat' split
  all_goals simp (disch := decide) only [Keeps.self_iff, Keeps.forward_iff, Keeps.freeRx_iff, Keeps.remoteWrite_iff, Keeps.reply_iff]

theorem execRdr_keeps (land hdr data s) : KeepsNext (.free :: portDownParts) s (execRdr land hdr data s) := .next <| by
  repeat' split
  all_goals simp (disch := decide) only [Keeps.self_iff, Keeps.dropXact_iff, Keeps.ferryFault_iff, Keeps.ferryGo_iff, Keeps.forward_iff,
      Keeps.freeRx_iff, Keeps.modFchan_iff, Keeps.pump_iff, Keeps.viaMesh_iff]

theorem execWack_keeps (land hdr s) : KeepsNext landingDownParts s (execWack land hdr s) := .next <| by
  repeat' split
  all_goals simp (disch := decide) only [Keeps.self_iff, Keeps.dropXact_iff, Keeps.ferryFault_iff, Keeps.forward_iff, Keeps.freeRx_iff,
      Keeps.lateFail_iff, Keeps.pump_iff]

theorem execLfn_keeps (land hdr target s) :
    KeepsNext [.hubs, .parts, .pages, .ports, .lands, .logs, .pm, .act, .out] s (execLfn land hdr target s) := .next <| by
  simp (disch := decide) only [Keeps.self_iff, Keeps.ite_iff, ite_self, Keeps.forward_iff, Keeps.freeRx_iff, Keeps.lateFail_iff]

theorem execGop_keeps (land hdr group inst op scope rtype bytes mods gkey root result sat data pois s) :
    KeepsNext landingDownParts s (execGop land hdr group inst op scope rtype bytes mods gkey root result sat data pois s) := .next <| by
  refine .ite (Keeps.refl ..) (.ite (.mono (Keeps.forward ..) (by decide)) (.ite ?_ (.ite ?_ (.ite ?_ ?_))))
  · refine .ite (.mono (Keeps.freeRx ..) (by decide)) ?_
    simp (disch := decide) only [Keeps.failInst_iff]
    split <;> simp (disch := decide) only [Keeps.self_iff, Keeps.ite_iff, ite_self, Keeps.tellFailed_iff, Keeps.freeRx_iff]
  · simp (disch := decide) only [Keeps.self_iff, Keeps.sendPart_iff, Keeps.freeRx_iff]
  · exact .mono (Keeps.freeRx ..) (by decide)
  · dsimp only
    split <;>
      simp (disch := decide) only [Keeps.self_iff, Keeps.ite_iff, ite_self, Keeps.failInst_iff, Keeps.tellFailed_iff, Keeps.advanceInst_iff,
          Keeps.modInst_iff, Keeps.modGroup_iff, Keeps.freeRx_iff]

theorem execTransactionTimeout_keeps (tile ch tag s) : KeepsNext landingDownParts s (execTransactionTimeout tile ch tag s) := .next <| by
  split <;> simp (disch := decide) only [Keeps.self_iff, Keeps.ite_iff, ite_self, Keeps.failXact_iff]

theorem execLandingTrain_keeps (l peer peerKey peerL good s) :
    KeepsNext landingDownParts s (execLandingTrain l peer peerKey peerL good s) := .next <| by
  simp (disch := decide) only [Keeps.self_iff, Keeps.ite_iff, ite_self, Keeps.bbox_iff, Keeps.modLanding_iff, Keeps.failLanding_iff,
      Keeps.foldl_within fun _ _ => Keeps.sendControl ..]

theorem execLandingDown_keeps (l s) : KeepsNext landingDownParts s (execLandingDown l s) := .next (.ite (.refl ..) (Keeps.landingDown ..))

theorem execLaneSpare_keeps (l lane s) : KeepsNext landingDownParts s (execLaneSpare l lane s) := .next <| by
  repeat' split
  all_goals simp (disch := decide) only [Keeps.self_iff, Keeps.landingDown_iff, Keeps.modLanding_iff]

theorem execLaneSwapTest_keeps (l s) : KeepsNext [.lands] s (execLaneSwapTest l s) := .next <| by
  split <;> simp (disch := decide) only [Keeps.self_iff, Keeps.ite_iff, ite_self, Keeps.modLanding_iff]

theorem execLaneCheckDone_keeps (l lane pass s) :
    KeepsNext [.lands] s (execLaneCheckDone l lane pass s) := .next (.ite (Keeps.modLanding ..) (.refl ..))

theorem execXrtdatWrite_keeps (value s) : KeepsNext [.routes] s (execXrtdatWrite value s) := .next (Keeps.modRoute ..)

theorem execCblprsFall_keeps (l s) : KeepsNext [.lands] s (execCblprsFall l s) := .next (Keeps.modLanding ..)

theorem execCblprsRise_keeps (l s) : KeepsNext landingDownParts s (execCblprsRise l s) := .next <| by
  simp (disch := decide) only [Keeps.self_iff, Keeps.landingDown_iff, Keeps.modLanding_iff]

theorem execCableOvercurrent_keeps (l s) : KeepsNext landingDownParts s (execCableOvercurrent l s) := .next <| by
  simp (disch := decide) only [Keeps.self_iff, Keeps.ite_iff, ite_self, Keeps.landingDown_iff, Keeps.modLanding_iff]

/-! ### Firmware -/

theorem execVerify_keeps (image s) : KeepsNext [.fw] s (execVerify image s) := .next <| by
  simp (disch := decide) only [Keeps.self_iff, Keeps.ite_iff, ite_self, Keeps.putFw_iff]

theorem execHandover_keeps (s) :
    KeepsNext [.hubs, .parts, .pages, .ports, .trans, .fw, .act, .out] s (execHandover s) := .next (.ite (Keeps.fwStep ..) (.refl ..))

theorem execRevert_keeps (s) :
    KeepsNext [.hubs, .parts, .pages, .ports, .trans, .fw, .act, .out] s (execRevert s) := .next (.ite (Keeps.fwStep ..) (.refl ..))

theorem execProbationEnd_keeps (fail s) :
    KeepsNext [.hubs, .parts, .pages, .ports, .trans, .fw, .act, .out] s (execProbationEnd fail s) := .next <| by
  simp (disch := decide) only [Keeps.self_iff, Keeps.ite_iff, ite_self, Keeps.fwRecord_iff, Keeps.fwRevert_iff, Keeps.putFw_iff]

/-! ### Observation and register writes -/

theorem execBlackBoxCommit_keeps (t s) : KeepsNext [.hubs] s (execBlackBoxCommit t s) := .next (Keeps.modHub ..)

theorem execTraceRecordObserved_keeps (p s) :
    KeepsNext [.hubs, .parts, .pages, .ports, .logs, .act, .out] s (execTraceRecordObserved p s) := .next <| by
  split <;> simp (disch := decide) only [Keeps.self_iff, Keeps.hostDone_iff, Keeps.modHport_iff]

theorem execTrcctlWrite_keeps (p value s) : KeepsNext [.regs, .ports] s (execTrcctlWrite p value s) := .next <| by
  simp (disch := decide) only [Keeps.self_iff, Keeps.ite_iff, ite_self, Keeps.modHport_iff, Keeps.setReg_iff]

theorem execCounterFreeze_keeps (s) : KeepsNext [.regs] s (execCounterFreeze s) := .next (Keeps.setReg ..)

theorem execCounterRestart_keeps (s) : KeepsNext [.regs] s (execCounterRestart s) := .next (Keeps.setReg ..)

theorem execCounterClear_keeps (s) : KeepsNext [.pm] s (execCounterClear s) := .next (Keeps.putPm ..)

theorem execNbidxWrite_keeps (value s) : KeepsNext [.regs, .chans] s (execNbidxWrite value s) := .next <| by
  simp (disch := decide) only [Keeps.self_iff, Keeps.ite_iff, ite_self, Keeps.modChan_iff, Keeps.setReg_iff]

theorem execMeidxWrite_keeps (value s) : KeepsNext [.regs, .me] s (execMeidxWrite value s) := .next <| by
  simp (disch := decide) only [Keeps.self_iff, Keeps.ite_iff, ite_self, Keeps.modMat_iff, Keeps.setReg_iff]

theorem execVeidxWrite_keeps (value s) : KeepsNext [.regs, .ve] s (execVeidxWrite value s) := .next <| by
  simp (disch := decide) only [Keeps.self_iff, Keeps.ite_iff, ite_self, Keeps.modVec_iff, Keeps.setReg_iff]

theorem execFeidxWrite_keeps (value s) : KeepsNext [.regs, .fe] s (execFeidxWrite value s) := .next <| by
  simp (disch := decide) only [Keeps.self_iff, Keeps.ite_iff, ite_self, Keeps.modFchan_iff, Keeps.setReg_iff]

theorem execSqidxWrite_keeps (value s) : KeepsNext [.regs, .ctxs] s (execSqidxWrite value s) := .next <| by
  simp (disch := decide) only [Keeps.self_iff, Keeps.ite_iff, ite_self, Keeps.modCtx_iff, Keeps.setReg_iff]

theorem execClkidxWrite_keeps (value s) : KeepsNext [.regs, .hubs] s (execClkidxWrite value s) := .next <| by
  simp (disch := decide) only [Keeps.self_iff, Keeps.ite_iff, ite_self, Keeps.modHub_iff, Keeps.setReg_iff]

theorem execRegisterWrite_keeps (port vf off value s) :
    KeepsNext [.regs, .boot, .slots, .vfiles, .ctxs, .pages, .ports, .admits, .groups, .pm] s (execRegisterWrite port vf off value s) :=
  .next <| by
    simp (disch := decide) only [Keeps.self_iff, Keeps.ite_iff, ite_self, Keeps.modPage_iff, Keeps.reviewAll_iff, Keeps.specialWrite_iff,
        Keeps.storedWrite_iff]

theorem execPortLinkUp_keeps (p speed width flit cache mem s) :
    KeepsNext [.ports] s (execPortLinkUp p speed width flit cache mem s) := .next (.ite (.refl ..) (Keeps.modHport ..))

theorem execGloballyObserved_keeps (id ok s) :
    KeepsNext [.hubs, .fe, .parts, .pages, .ports, .logs, .act, .out] s (execGloballyObserved id ok s) := .next <| by
  repeat' split
  all_goals simp (disch := decide) only [Keeps.self_iff, Keeps.hostDone_iff, Keeps.modFchan_iff]

theorem execMmulKeepCompletion_keeps (tile s) :
    KeepsNext [.regs, .me, .ctxs, .parts, .ports, .act, .out] s (execMmulKeepCompletion tile s) := .next <| by
  split <;> simp (disch := decide) only [Keeps.self_iff, Keeps.ite_iff, ite_self, Keeps.mmulDone_iff]

theorem execHubLogicFault_keeps (t s) : KeepsNext (.boot :: .slots :: .parcels :: portDownParts) s (execHubLogicFault t s) := .next <| by
  simp (disch := decide) only [Keeps.self_iff, Keeps.ite_iff, ite_self, Keeps.modHub_iff, Keeps.retireTile_iff]

theorem execMeshSwitchFailure_keeps (t s) : KeepsNext [.hubs] s (execMeshSwitchFailure t s) := .next (.ite (Keeps.modHub ..) (.refl ..))

theorem execSelfCheckFailure_keeps (t s) :
    KeepsNext [.hubs, .parts, .pages, .ports, .trans, .fw, .act, .out] s (execSelfCheckFailure t s) :=
  .next (.ite (Keeps.fwRevert ..) (.refl ..))

theorem execSidebandImageWrite_keeps (image s) :
    KeepsNext [.fw] s (execSidebandImageWrite image s) := .next (.ite (Keeps.putFw ..) (.refl ..))

/-! ### Every command -/

/-- The frame of every command, from the frame of its meaning. -/
theorem exec_keeps : ∀ (c : Instr) (s : State), KeepsNext (mayChange c) s (exec c s)
  | .powerOn r => execPowerOn_keeps r
  | .crystalQualified t => execCrystalQualified_keeps t
  | .crystalQualifyTimeout t => execCrystalQualifyTimeout_keeps t
  | .coolantQualified => execCoolantQualified_keeps
  | .powerFail input tokens => execPowerFail_keeps input tokens
  | .powerReturn r => execPowerReturn_keeps r
  | .inputLoss => execInputLoss_keeps
  | .warmReset r => execWarmReset_keeps r
  | .watchdogExpiry t r => execWatchdogExpiry_keeps t r
  | .crystalAmplitudeLost t => execCrystalAmplitudeLost_keeps t
  | .edgeCountWindowEnd t n => execEdgeCountWindowEnd_keeps t n
  | .standbyPllLock t => execStandbyPllLock_keeps t
  | .domainSwitch t => execDomainSwitch_keeps t
  | .forwardedReferenceLost t => execForwardedReferenceLost_keeps t
  | .timestampSync t diff => execTimestampSync_keeps t diff
  | .timestampCheckpoint => execTimestampCheckpoint_keeps
  | .ptmExchange h => execPtmExchange_keeps h
  | .powerAverageUpdate avg input tin tout flow dp => execPowerAverageUpdate_keeps avg input tin tout flow dp
  | .nearBankHold => execNearBankHold_keeps
  | .governorWindowEnd => execGovernorWindowEnd_keeps
  | .coolantFault => execCoolantFault_keeps
  | .coolantRecover => execCoolantRecover_keeps
  | .dieTempSample st temps => execDieTempSample_keeps st temps
  | .thermalLevel5Timeout st => execThermalLevel5Timeout_keeps st
  | .thermalHalfPeriod second => execThermalHalfPeriod_keeps second
  | .hubTempSample t temp => execHubTempSample_keeps t temp
  | .admissionGrant t kind => execAdmissionGrant_keeps t kind
  | .gateOn level tile group slice => execGateOn_keeps level tile group slice
  | .gateOff level tile group slice => execGateOff_keeps level tile group slice
  | .sliceGate tile slice => execSliceGate_keeps tile slice
  | .sliceUngate tile slice => execSliceUngate_keeps tile slice
  | .cxlMemRead p hpa own => execCxlMemRead_keeps p hpa own
  | .cxlMemWrite p hpa data mask => execCxlMemWrite_keeps p hpa data mask
  | .decoderCommit p iw ig base size => execDecoderCommit_keeps p iw ig base size
  | .decoderUncommit p => execDecoderUncommit_keeps p
  | .biResponse t line data => execBiResponse_keeps t line data
  | .biTimeout t line => execBiTimeout_keeps t line
  | .snpinv page line => execSnpinv_keeps page line
  | .watchedLineRead page line data => execWatchedLineRead_keeps page line data
  | .descriptorFetch page data ok => execDescriptorFetch_keeps page data ok
  | .flagPerform src part => execFlagPerform_keeps src part
  | .pdrainRead p vf => execPdrainRead_keeps p vf
  | .cohstatRead p => execCohstatRead_keeps p
  | .aptdatWrite p value => execAptdatWrite_keeps p value
  | .peerApertureRead p e off => execPeerApertureRead_keeps p e off
  | .peerApertureWrite p e off data mask => execPeerApertureWrite_keeps p e off data mask
  | .getMeasurements p => execGetMeasurements_keeps p
  | .getCertificate p => execGetCertificate_keeps p
  | .portLinkDown p tokens => execPortLinkDown_keeps p tokens
  | .hotReset p kind tokens => execHotReset_keeps p kind tokens
  | .perstAssert p tokens => execPerstAssert_keeps p tokens
  | .functionLevelReset p vf => execFunctionLevelReset_keeps p vf
  | .partitionReset p => execPartitionReset_keeps p
  | .slotClear slot => execSlotClear_keeps slot
  | .slotClearDone slot => execSlotClearDone_keeps slot
  | .suctlWrite page value => execSuctlWrite_keeps page value
  | .start page => execStart_keeps page
  | .halt page => execHalt_keeps page
  | .load page tile => execLoad_keeps page tile
  | .bind page => execBind_keeps page
  | .unbind page => execUnbind_keeps page
  | .discard page => execDiscard_keeps page
  | .copy page => execCopy_keeps page
  | .flush page => execFlush_keeps page
  | .code page => execCode_keeps page
  | .fence page => execFence_keeps page
  | .reset page => execReset_keeps page
  | .attach page => execAttach_keeps page
  | .pcreate page => execPcreate_keeps page
  | .pdestroy page => execPdestroy_keeps page
  | .pslot page => execPslot_keeps page
  | .pctx page => execPctx_keeps page
  | .pvf page => execPvf_keeps page
  | .stepFetch ctx index => execStepFetch_keeps ctx index
  | .nop ctx => execNop_keeps ctx
  | .endStep ctx => execEnd_keeps ctx
  | .replay ctx => execReplay_keeps ctx
  | .replayRepeat ctx => execReplayRepeat_keeps ctx
  | .xld ctx => execXld_keeps ctx
  | .xst ctx => execXst_keeps ctx
  | .xset ctx => execXset_keeps ctx
  | .amov ctx => execAmov_keeps ctx
  | .cmset ctx => execCmset_keeps ctx
  | .split ctx => execSplit_keeps ctx
  | .mbxr ctx => execMbxr_keeps ctx
  | .mbxw ctx => execMbxw_keeps ctx
  | .event ctx => execEvent_keeps ctx
  | .scratchpadAccessEnd ctx => execScratchpadAccessEnd_keeps ctx
  | .mmul ctx => execMmul_keeps ctx
  | .mwake ctx => execMwake_keeps ctx
  | .meStepStart tile => execMeStepStart_keeps tile
  | .meWaveStart tile => execMeWaveStart_keeps tile
  | .fpqPanelEntry tile => execFpqPanelEntry_keeps tile
  | .keepmaxExpiry tile => execKeepmaxExpiry_keeps tile
  | .peMismatch tile pos => execPeMismatch_keeps tile pos
  | .sliceTestDone tile pass => execSliceTestDone_keeps tile pass
  | .sliceSwapTest tile => execSliceSwapTest_keeps tile
  | .vchain ctx => execVchain_keeps ctx
  | .veStepStart tile => execVeStepStart_keeps tile
  | .vePanelEntry tile => execVePanelEntry_keeps tile
  | .veStepComplete tile => execVeStepComplete_keeps tile
  | .fcopy ctx => execFcopy_keeps ctx
  | .fxpose ctx => execFxpose_keeps ctx
  | .fgather ctx => execFgather_keeps ctx
  | .fscatter ctx => execFscatter_keeps ctx
  | .ferryStepStart tile chan host bad => execFerryStepStart_keeps tile chan host bad
  | .overlapHoldGrant tile chan => execOverlapHoldGrant_keeps tile chan
  | .ferryStepComplete tile chan => execFerryStepComplete_keeps tile chan
  | .ferryFault tile chan fault operand addr space at_ module => execFerryFault_keeps tile chan fault operand addr space at_ module
  | .nbpass ctx => execNbpass_keeps ctx
  | .nbPass ch ctx entry round cell span => execNbPass_keeps ch ctx entry round cell span
  | .nbpassComplete ctx => execNbpassComplete_keeps ctx
  | .yieldPoint ch => execYieldPoint_keeps ch
  | .passAbandon ch => execPassAbandon_keeps ch
  | .blockFold ch j => execBlockFold_keeps ch j
  | .recomputeRebuild tile => execRecomputeRebuild_keeps tile
  | .recomputeDone tile => execRecomputeDone_keeps tile
  | .cruDrain ch buf => execCruDrain_keeps ch buf
  | .nbrdyRise ch => execNbrdyRise_keeps ch
  | .rowNop ch => execRowNop_keeps ch
  | .act ch rank bank row who => execAct_keeps ch rank bank row who
  | .pre ch rank bank both => execPre_keeps ch rank bank both
  | .ref ch rank bank => execRef_keeps ch rank bank
  | .powerDownEntry ch rank => execPowerDownEntry_keeps ch rank
  | .selfRefreshEntry ch rank => execSelfRefreshEntry_keeps ch rank
  | .stackSelfRefreshEntry st => execStackSelfRefreshEntry_keeps st
  | .stackSelfRefreshExit st => execStackSelfRefreshExit_keeps st
  | .mrw ch rank allr reg value => execMrw_keeps ch rank allr reg value
  | .nbe ch => execNbe_keeps ch
  | .nbx ch => execNbx_keeps ch
  | .aha ch rank bank row => execAha_keeps ch rank bank row
  | .swt ch => execSwt_keeps ch
  | .nrf ch => execNrf_keeps ch
  | .nnr ch rank bank => execNnr_keeps ch rank bank
  | .bbq ch q => execBbq_keeps ch q
  | .columnNop ch => execColumnNop_keeps ch
  | .rd ch rank bank col ap => execRd_keeps ch rank bank col ap
  | .wr ch rank bank col ap data => execWr_keeps ch rank bank col ap data
  | .mrr ch rank reg => execMrr_keeps ch rank reg
  | .ccl ch col => execCcl_keeps ch col
  | .bbw ch data flips => execBbw_keeps ch data flips
  | .cfgw ch rank beat => execCfgw_keeps ch rank beat
  | .acr ch rank bank group buf flips => execAcr_keeps ch rank bank group buf flips
  | .acl ch rank allr mask => execAcl_keeps ch rank allr mask
  | .str ch rank flips => execStr_keeps ch rank flips
  | .rowDisturbanceAlert ch j => execRowDisturbanceAlert_keeps ch j
  | .throttleHoldEnd ch who j => execThrottleHoldEnd_keeps ch who j
  | .owedWordlineRefresh ch j => execOwedWordlineRefresh_keeps ch j
  | .commandErrorAlert ch column word data who write line path => execCommandErrorAlert_keeps ch column word data who write line path
  | .commandReissue ch accepted => execCommandReissue_keeps ch accepted
  | .channelAccept ch who part j row pair write data mask poison => execChannelAccept_keeps ch who part j row pair write data mask poison
  | .arbitrationPoint ch => execArbitrationPoint_keeps ch
  | .arbWindowEnd => execArbWindowEnd_keeps
  | .writeDrain ch read => execWriteDrain_keeps ch read
  | .rowCloseTimeout ch j => execRowCloseTimeout_keeps ch j
  | .refreshDue ch j postpone => execRefreshDue_keeps ch j postpone
  | .hotBankWindowEnd ch => execHotBankWindowEnd_keeps ch
  | .recentre ch runs sweeps => execRecentre_keeps ch runs sweeps
  | .fullRowDecode st => execFullRowDecode_keeps st
  | .fullRowDecodeDone st => execFullRowDecodeDone_keeps st
  | .scrubPassStart => execScrubPassStart_keeps
  | .scrubRow ch => execScrubRow_keeps ch
  | .scrubRankWake ch rank => execScrubRankWake_keeps ch rank
  | .repairFlip st => execRepairFlip_keeps st
  | .reencodeRow p => execReencodeRow_keeps p
  | .slotMove slot => execSlotMove_keeps slot
  | .slotMoveFlip slot => execSlotMoveFlip_keeps slot
  | .hashRecordWrite masks => execHashRecordWrite_keeps masks
  | .modidDkeyWrite modid dkey => execModidDkeyWrite_keeps modid dkey
  | .tileRetire t cause readable => execTileRetire_keeps t cause readable
  | .spareTest st kind rank half inStack idx pass => execSpareTest_keeps st kind rank half inStack idx pass
  | .swapTestReturn st inStack => execSwapTestReturn_keeps st inStack
  | .swapTestDone st pass => execSwapTestDone_keeps st pass
  | .scratchpadCorrectWriteback tile word uncorrectable => execScratchpadCorrectWriteback_keeps tile word uncorrectable
  | .windowClearDone c => execWindowClearDone_keeps c
  | .translate tile image ok native map => execTranslate_keeps tile image ok native map
  | .translationEnd tile => execTranslationEnd_keeps tile
  | .gbar ctx => execGbar_keeps ctx
  | .gbcast ctx => execGbcast_keeps ctx
  | .gred ctx => execGred_keeps ctx
  | .gsnap ctx => execGsnap_keeps ctx
  | .globalOpComplete ctx => execGlobalOpComplete_keeps ctx
  | .globalTimeout group => execGlobalTimeout_keeps group
  | .flitReceive l flit fixed uncw => execFlitReceive_keeps l flit fixed uncw
  | .linkControl l msg level => execLinkControl_keeps l msg level
  | .ackSend l => execAckSend_keeps l
  | .replayTimeout l => execReplayTimeout_keeps l
  | .remoteRd land hdr => execRemoteRd_keeps land hdr
  | .remoteWr land hdr data => execRemoteWr_keeps land hdr data
  | .rdr land hdr data => execRdr_keeps land hdr data
  | .wack land hdr => execWack_keeps land hdr
  | .lfn land hdr target => execLfn_keeps land hdr target
  | .gop land hdr group inst op scope rtype bytes mods gkey root result sat data pois =>
    execGop_keeps land hdr group inst op scope rtype bytes mods gkey root result sat data pois
  | .transactionTimeout tile ch tag => execTransactionTimeout_keeps tile ch tag
  | .landingTrain l peer peerKey peerL good => execLandingTrain_keeps l peer peerKey peerL good
  | .landingDown l => execLandingDown_keeps l
  | .laneSpare l lane => execLaneSpare_keeps l lane
  | .laneSwapTest l => execLaneSwapTest_keeps l
  | .laneCheckDone l lane pass => execLaneCheckDone_keeps l lane pass
  | .xrtdatWrite value => execXrtdatWrite_keeps value
  | .cblprsFall l => execCblprsFall_keeps l
  | .cblprsRise l => execCblprsRise_keeps l
  | .cableOvercurrent l => execCableOvercurrent_keeps l
  | .verify image => execVerify_keeps image
  | .handover => execHandover_keeps
  | .revert => execRevert_keeps
  | .probationEnd fail => execProbationEnd_keeps fail
  | .blackBoxCommit t => execBlackBoxCommit_keeps t
  | .traceRecordObserved p => execTraceRecordObserved_keeps p
  | .trcctlWrite p value => execTrcctlWrite_keeps p value
  | .counterFreeze => execCounterFreeze_keeps
  | .counterRestart => execCounterRestart_keeps
  | .counterClear => execCounterClear_keeps
  | .nbidxWrite value => execNbidxWrite_keeps value
  | .meidxWrite value => execMeidxWrite_keeps value
  | .veidxWrite value => execVeidxWrite_keeps value
  | .feidxWrite value => execFeidxWrite_keeps value
  | .sqidxWrite value => execSqidxWrite_keeps value
  | .clkidxWrite value => execClkidxWrite_keeps value
  | .registerWrite port vf off value => execRegisterWrite_keeps port vf off value
  | .portLinkUp p speed width flit cache mem => execPortLinkUp_keeps p speed width flit cache mem
  | .globallyObserved id ok => execGloballyObserved_keeps id ok
  | .mmulKeepCompletion tile => execMmulKeepCompletion_keeps tile
  | .hubLogicFault t => execHubLogicFault_keeps t
  | .meshSwitchFailure t => execMeshSwitchFailure_keeps t
  | .selfCheckFailure t => execSelfCheckFailure_keeps t
  | .sidebandImageWrite image => execSidebandImageWrite_keeps image

/-! ### The bank marked active -/

theorem Keeps.active_eq {L : List Field} {s t : State} (h : Keeps L s t) (hL : L.contains .fw = false) :
    t.fw.active = s.fw.active :=
  congrArg Firmware.active (h.same .fw (by simpa using hL))

theorem State.unpowered_active (s : State) : s.unpowered.fw.active = s.fw.active :=
  (Keeps.settleSpares s).active_eq rfl

theorem State.overheat_active (s : State) (t c : Nat) : (s.overheat t c).fw.active = s.fw.active := by
  have flushed (u : State) : Keeps [.hubs] u ((List.range 16).foldl (fun s i => s.modHub i (fun h => { h with bb := h.bb.flush i 66 })) u) :=
    Keeps.foldl _ (fun _ _ => Keeps.modHub ..) _ _
  rw [State.overheat, State.unpowered_active, (flushed _).active_eq rfl, (Keeps.bbox ..).active_eq rfl, State.putFree_fw]

theorem State.resetHubs_active (s : State) : s.resetHubs.fw.active = s.fw.active := rfl

theorem State.warmReset_active (s : State) (cause : Nat) (r : BootReport) : (s.warmReset cause r).fw.active = s.fw.active := by
  unfold State.warmReset
  split
  · rfl
  · rw [State.putBoot_fw, State.putPower_fw, (Keeps.takeId _).active_eq rfl, State.resetHubs_active, (Keeps.settleAll s r).active_eq rfl]

theorem State.fwRecord_active (s : State) (t ver : Nat) : (s.fwRecord t ver).fw.active = s.fw.active :=
  (Keeps.fwRecord s t ver).active_eq rfl

theorem State.fwRevert_active (s : State) : s.fwRevert.fw.active = s.fw.active := by
  have handedBack (u : State) (t : Nat) : Keeps [.hubs, .parts, .pages, .ports, .trans, .act, .out] u
      (((u.modHub t (fun h => { h with mcore := u.fw.runver })).fwRecord t u.fw.runver).releaseLoads t) := by
    simp (disch := decide) only [Keeps.self_iff, Keeps.modHub_iff, Keeps.fwRecord_iff, Keeps.releaseLoads_iff]
  rw [State.fwRevert, (Keeps.foldl _ handedBack _ _).active_eq rfl, State.putFw_fw]

theorem State.fwStep_active (s : State) : s.fwStep.fw.active = s.fw.active := by
  unfold State.fwStep
  split
  · rfl
  dsimp only
  split
  · rw [State.fwRecord_active, State.putFw_fw]
  split
  · rfl
  split
  · rw [State.fwRecord_active, State.modHub_fw, State.putFw_fw, State.modHub_fw]
  · rw [(Keeps.foldl _ Keeps.releaseLoads _ _).active_eq rfl, State.fwRecord_active, State.modHub_fw, State.putFw_fw, State.modHub_fw]

/-- A meaning that goes on leaves the same image bank active. -/
def KeepsActive (s : State) (r : Result) : Prop := ∀ t, r = .next t → t.fw.active = s.fw.active

theorem KeepsActive.next {s t : State} (h : t.fw.active = s.fw.active) : KeepsActive s (.next t) := by
  rintro _ ⟨⟩
  exact h

theorem KeepsNext.active {L : List Field} {s : State} {r : Result} (h : KeepsNext L s r) (hL : L.contains .fw = false) :
    KeepsActive s r := fun t ht => (h.keeps t ht).active_eq hL

theorem State.ite_active {p : Prop} [Decidable p] {s t u : State} (ht : t.fw.active = s.fw.active) (hu : u.fw.active = s.fw.active) :
    (if p then t else u).fw.active = s.fw.active := by
  split <;> assumption

theorem execPowerOn_active (r s) : KeepsActive s (execPowerOn r s) :=
  .next (State.ite_active rfl (State.unpowered_active s))

theorem execPowerReturn_active (r s) : KeepsActive s (execPowerReturn r s) :=
  .next (State.ite_active (State.ite_active (State.warmReset_active ..) rfl) rfl)

theorem execInputLoss_active (s) : KeepsActive s (execInputLoss s) := .next (State.ite_active (State.unpowered_active s) rfl)

theorem execWarmReset_active (r s) : KeepsActive s (execWarmReset r s) := .next (State.ite_active (State.warmReset_active ..) rfl)

/-- A watchdog that expires reverts an image on probation, and may begin a warm reset (18 R690, R705). -/
theorem execWatchdogExpiry_active (t r s) : KeepsActive s (execWatchdogExpiry t r s) := .next <| by
  split
  · rfl
  refine State.ite_active ((State.warmReset_active ..).trans ?_) ?_ <;> refine State.ite_active ?_ ?_
  all_goals simp only [State.fwRevert_active, State.modTran_fw, (Keeps.bbox ..).active_eq rfl, State.modHub_fw]

theorem execHubTempSample_active (t temp s) : KeepsActive s (execHubTempSample t temp s) :=
  .next (State.ite_active (State.overheat_active ..) rfl)

theorem execSidebandImageWrite_active (image s) : KeepsActive s (execSidebandImageWrite image s) := .next (State.ite_active rfl rfl)

theorem execVerify_active (image s) : KeepsActive s (execVerify image s) :=
  .next (State.ite_active rfl (State.ite_active rfl (State.ite_active rfl rfl)))

theorem execHandover_active (s) : KeepsActive s (execHandover s) := .next (State.ite_active (State.fwStep_active s) rfl)

theorem execRevert_active (s) : KeepsActive s (execRevert s) := .next (State.ite_active (State.fwStep_active s) rfl)

theorem execSelfCheckFailure_active (t s) : KeepsActive s (execSelfCheckFailure t s) :=
  .next (State.ite_active (State.fwRevert_active s) rfl)

/-- A probation that fails hands every tile back to the bank that stays active (18 R705). -/
theorem execProbationEnd_fail_active (s) : KeepsActive s (execProbationEnd true s) :=
  .next (State.ite_active rfl (State.fwRevert_active s))

/-- Without an image on probation its end changes nothing. -/
theorem execProbationEnd_of_st_ne {s : State} (h : s.fw.st ≠ 3) (fail : Bool) : execProbationEnd fail s = .next s :=
  congrArg Host.Outcome.next (if_pos h)

/-- No command but the end of a probation that does not fail changes which bank is active: the commands that write the firmware's
state leave its bank, and the frame of every other command leaves the firmware's state. -/
theorem exec_active (c : Instr) (s : State) (hc : c ≠ .probationEnd false) : KeepsActive s (exec c s) := by
  cases c with
  | powerOn r => exact execPowerOn_active r s
  | powerReturn r => exact execPowerReturn_active r s
  | inputLoss => exact execInputLoss_active s
  | warmReset r => exact execWarmReset_active r s
  | watchdogExpiry t r => exact execWatchdogExpiry_active t r s
  | hubTempSample t temp => exact execHubTempSample_active t temp s
  | sidebandImageWrite image => exact execSidebandImageWrite_active image s
  | verify image => exact execVerify_active image s
  | handover => exact execHandover_active s
  | revert => exact execRevert_active s
  | selfCheckFailure t => exact execSelfCheckFailure_active t s
  | probationEnd fail =>
    cases fail with
    | false => exact absurd rfl hc
    | true => exact execProbationEnd_fail_active s
  | _ => exact (exec_keeps _ s).active rfl

/-- Settles O51: a command that changes the active bank is the end of a probation that does not fail, and it finds an image on
probation (18 R705 to R707). -/
theorem oldImageActiveUntilProbationEnds : Obligations.OldImageActiveUntilProbationEnds := by
  intro c s t h hne
  have hc : c = .probationEnd false := by_contra fun hc => hne (exec_active c s hc t h)
  subst hc
  refine ⟨rfl, by_contra fun hst => hne ?_⟩
  have unchanged : t = s := by
    injection h.symm.trans (execProbationEnd_of_st_ne hst false)
  rw [unchanged]

end Sys2Proof.Machine
end

section
/-! The limits of observation of chapter 19: what the performance counters of a tile count, and what a black box loses while its
holding queue is full. -/

namespace Sys2Proof.Machine

/-! ### One performance counter (19 R713) -/

/-- The counter names the event, and its partition where it restricts to one; three events are of no partition. -/
def Counter.Selects (c : Counter) (event : Nat) (part : Option Nat) : Prop :=
  field c.sel.toNat 0 8 = event ∧
    (flag c.sel.toNat 14 = false ∨ (event = 0x0C ∨ event = 0x0E ∨ event = 0x0F) ∨ part = some (field c.sel.toNat 8 6))

/-- The counter `n` events on: its value wraps modulo 2⁴⁸ and marks OVF when it does. -/
def Counter.advance (c : Counter) (n : Nat) : Counter :=
  { c with
    count := BitVec.ofNat 48 (c.count.toNat + n)
    sel := if c.count.toNat + n < 2 ^ 48 then c.sel else c.sel ||| 0x8000#32 }

theorem Counter.advance_count (c : Counter) (n : Nat) : (c.advance n).count.toNat = (c.count.toNat + n) % 2 ^ 48 :=
  BitVec.toNat_ofNat ..

/-- Bit 15 of PMSEL is OVF, and 0x8000 is that bit alone. -/
theorem flag_or_ovf (sel : BitVec 32) : flag (sel ||| 0x8000#32).toNat 15 = true := by
  have hbit : (0x8000#32).toNat.testBit 15 = true := by decide
  rw [flag_eq_testBit, BitVec.toNat_or, Nat.testBit_or, hbit, Bool.or_true]

theorem Counter.advance_ovf (c : Counter) (n : Nat) :
    flag (c.advance n).sel.toNat 15 = (flag c.sel.toNat 15 || decide (2 ^ 48 ≤ c.count.toNat + n)) := by
  by_cases h : c.count.toNat + n < 2 ^ 48
  · have hsel : (c.advance n).sel = c.sel := if_pos h
    rw [hsel, decide_eq_false (Nat.not_le.2 h), Bool.or_false]
  · have hsel : (c.advance n).sel = c.sel ||| 0x8000#32 := if_neg h
    rw [hsel, flag_or_ovf, decide_eq_true (Nat.not_lt.1 h), Bool.or_true]

/-! ### The sixteen counters of a tile told of an event (19 R713, R714) -/

theorem State.counter_countOne_of_selects {s : State} {t i event : Nat} {part : Option Nat} (n : Nat)
    (h : (s.counter (t * 16 + i)).Selects event part) :
    (s.countOne t i event part n).counter (t * 16 + i) = (s.counter (t * 16 + i)).advance n :=
  (State.counter_modCounter ..).trans (if_pos h)

theorem State.counter_countOne_of_not_selects {s : State} {t i event : Nat} {part : Option Nat} (n : Nat)
    (h : ¬ (s.counter (t * 16 + i)).Selects event part) :
    (s.countOne t i event part n).counter (t * 16 + i) = s.counter (t * 16 + i) :=
  (State.counter_modCounter ..).trans (if_neg h)

theorem State.counter_countOne_ne (s : State) (t event n : Nat) (part : Option Nat) {i k : Nat} (h : k ≠ t * 16 + i) :
    (s.countOne t i event part n).counter k = s.counter k :=
  State.counter_modCounter_ne _ _ _ _ h

/-- The first `m` counters of tile `t` told of `n` events. -/
def State.countFirst (s : State) (t event : Nat) (part : Option Nat) (n m : Nat) : State :=
  (List.range m).foldl (fun s i => s.countOne t i event part n) s

theorem State.count_of_running {s : State} (h : flag (s.reg 0 rPMCTL) 0 = false) (t event n : Nat) (part : Option Nat) :
    s.count t event part n = s.countFirst t event part n 16 :=
  if_neg (by rw [h]; decide)

theorem State.count_of_frozen {s : State} (h : flag (s.reg 0 rPMCTL) 0 = true) (t event n : Nat) (part : Option Nat) :
    s.count t event part n = s :=
  if_pos h

theorem State.countFirst_succ (s : State) (t event : Nat) (part : Option Nat) (n m : Nat) :
    s.countFirst t event part n (m + 1) = (s.countFirst t event part n m).countOne t m event part n := by
  simp only [State.countFirst, List.range_succ, List.foldl_append, List.foldl_cons, List.foldl_nil]

theorem State.counter_countFirst_outside (s : State) (t event n : Nat) (part : Option Nat) (m : Nat) {k : Nat}
    (hk : k < t * 16 ∨ t * 16 + m ≤ k) : (s.countFirst t event part n m).counter k = s.counter k := by
  induction m with
  | zero => rfl
  | succ m ih => rw [State.countFirst_succ, State.counter_countOne_ne _ _ _ _ _ (by omega), ih (by omega)]

theorem State.counter_countFirst_of_not_selects {s : State} {event k : Nat} {part : Option Nat} (t n m : Nat)
    (h : ¬ (s.counter k).Selects event part) : (s.countFirst t event part n m).counter k = s.counter k := by
  induction m with
  | zero => rfl
  | succ m ih =>
    rw [State.countFirst_succ]
    by_cases hk : k = t * 16 + m
    · subst hk
      rw [State.counter_countOne_of_not_selects n (by rwa [ih]), ih]
    · rw [State.counter_countOne_ne _ _ _ _ _ hk, ih]

/-- A counter that selects the event advances once: only its own turn reaches it. -/
theorem State.counter_countFirst_of_selects {s : State} {t i event : Nat} {part : Option Nat} (n : Nat) {m : Nat} (hi : i < m)
    (h : (s.counter (t * 16 + i)).Selects event part) :
    (s.countFirst t event part n m).counter (t * 16 + i) = (s.counter (t * 16 + i)).advance n := by
  induction m with
  | zero => exact absurd hi (Nat.not_lt_zero i)
  | succ m ih =>
    rw [State.countFirst_succ]
    rcases Nat.lt_succ_iff_lt_or_eq.1 hi with him | rfl
    · rw [State.counter_countOne_ne _ _ _ _ _ (by omega), ih him]
    · have before := State.counter_countFirst_outside s t event n part i (k := t * 16 + i) (.inr le_rfl)
      rw [State.counter_countOne_of_selects n (by rwa [before]), before]

/-- Settles O56: every counter of the tile has one turn, and advances in it if it selects the event (19 R713, R714). -/
theorem countersCount : Obligations.CountersCount := by
  intro s t ev n part running
  refine ⟨fun i hi hev hpart => ?_, fun k hk => ?_, fun u frozen => State.count_of_frozen frozen ..⟩
  · rw [Nat.mul_comm 16 t] at hev hpart ⊢
    have selects : (s.counter (t * 16 + i)).Selects ev part := ⟨hev, hpart.imp_right .inr⟩
    rw [State.count_of_running running, State.counter_countFirst_of_selects n hi selects]
    exact ⟨Counter.advance_count .., Counter.advance_ovf ..⟩
  · rw [State.count_of_running running]
    rcases hk with below | above | hev | ⟨hany, restricts, hpart⟩
    · exact State.counter_countFirst_outside _ _ _ _ _ _ (.inl (by omega))
    · exact State.counter_countFirst_outside _ _ _ _ _ _ (.inr (by omega))
    · exact State.counter_countFirst_of_not_selects _ _ _ fun selects => hev selects.1
    · refine State.counter_countFirst_of_not_selects _ _ _ fun ⟨_, selects⟩ => ?_
      rcases selects with free | every | same
      · exact Bool.false_ne_true (free.symm.trans restricts)
      · exact hany (by simpa using every)
      · exact hpart same

/-! ### The holding queue of a black box (19 R717, R718) -/

theorem satNat_eq_min (k n : Nat) : satNat k n = min n (2 ^ k - 1) := by
  unfold satNat
  split <;> omega

theorem Box.startCommit_of_busy {b : Box} (h : b.cur.isSome = true) : b.startCommit = b := by
  obtain ⟨x, hx⟩ := Option.isSome_iff_exists.1 h
  simp only [Box.startCommit, hx]

/-- A happening that finds the queue full, with a commit in progress, does nothing but advance the lost count. -/
theorem State.bboxPut_bb_of_full {s : State} {t : Nat} (hfull : 64 ≤ (s.hub t).bb.queue.length)
    (hbusy : (s.hub t).bb.cur.isSome = true) (first : Bool) (h : Happening) :
    ((s.bboxPut t first h).hub t).bb = { (s.hub t).bb with lost := satNat 16 ((s.hub t).bb.lost + 1) } := by
  simp only [State.bboxPut, State.hub_modHub, if_neg (Nat.not_lt.2 hfull), Box.startCommit_of_busy, hbusy, ite_self]

/-- The commit in progress ends, and the oldest queued happening starts its own with the lost count as it stands. -/
theorem Box.commit_of_queued {b : Box} {h g : Happening} {lost : Nat} {q : List Happening} (hcur : b.cur = some (h, lost))
    (hq : b.queue = g :: q) (t : Nat) :
    (b.commit t false).cur = some (g, b.lost) ∧ (b.commit t false).lost = 0 ∧ (b.commit t false).queue = q := by
  simp only [Box.commit, hcur, Bool.false_eq_true, if_false, Box.startCommit, hq, and_self]

/-- The end of a commit changes the tile's black box by `Box.commit`, and no part of the state but the hubs. -/
theorem does_blackBoxCommit (t : Fin 16) (s : State) :
    Does (.blackBoxCommit t) s fun u => (u.hub t).bb = (s.hub t).bb.commit t (s.boxHeld t) ∧ Keeps [.hubs] s u :=
  ⟨_, rfl, congrArg Hub.bb (State.hub_modHub ..), Keeps.modHub ..⟩

/-- Settles O57: a full queue only advances the lost count, and a commit's end starts that of the oldest entry, which takes the
count with it (19 R717, R718). -/
theorem fullBlackBoxQueueLosesHappenings : Obligations.FullBlackBoxQueueLosesHappenings := by
  refine ⟨fun s i typ ctx part payload hfull hbusy => ?_, fun s i h g lost q hcur hq hheld => ?_⟩
  · rw [State.bbox, State.bboxPut_bb_of_full hfull hbusy, satNat_eq_min]
    exact ⟨rfl, rfl⟩
  · obtain ⟨u, next, box, keeps⟩ := does_blackBoxCommit i s
    rw [hheld] at box
    obtain ⟨cur, lostZero, queue⟩ := Box.commit_of_queued hcur hq i
    rw [← box] at cur lostZero queue
    exact ⟨u, next, cur, lostZero, queue, keeps⟩

end Sys2Proof.Machine
end

section
/-! The frame of every command, one step of the queue or one idle engine cycle, and the state after reset. -/

namespace Sys2Proof.Machine

/-- Settles O49: every meaning answers a next state that keeps all but the parts listed for its command. -/
theorem frameOfEveryCommand : Obligations.FrameOfEveryCommand := fun c s => (exec_keeps c s).keeps

theorem step_of_cons {s : State} {c : Instr} {rest : List Instr} (h : s.pending = c :: rest) :
    step s = exec c { s with pending := rest } := by
  unfold step
  rw [h]

theorem step_of_nil {s : State} (h : s.pending = []) : step s = .next s.tick := by
  unfold step
  rw [h]

/-- Settles O45, by the definition of a step (log entry 1). -/
theorem stepRunsTheFrontCommand : Obligations.StepRunsTheFrontCommand := fun _ _ _ h => step_of_cons h

/-! ### The idle engine cycle -/

/-- Of a hub, at most who waits for its scratchpad and whose turn it is differ (10 R386). -/
def SameButTurns (h h' : Hub) : Prop := h' = { h with nbWords := h'.nbWords, ferryFirst := h'.ferryFirst }

theorem SameButTurns.refl (h : Hub) : SameButTurns h h := rfl

theorem SameButTurns.trans {h h' h'' : Hub} (a : SameButTurns h h') (b : SameButTurns h' h'') : SameButTurns h h'' := by
  unfold SameButTurns at *
  rw [b, a]

/-- The parts of the state that the requesters of a scratchpad change in a cycle. -/
def requesterParts : List Field := [.me, .ve, .fe, .ctxs, .pm, .act]

theorem Keeps.hub_eq {L : List Field} {s t : State} (h : Keeps L s t) (hL : L.contains .hubs = false) (i : Nat) : t.hub i = s.hub i :=
  congrArg (Tab.get (fun _ => ({} : Hub)) · i) (h.same .hubs (by simpa using hL))

theorem Keeps.row_eq {L : List Field} {s t : State} (h : Keeps L s t) (hL : L.contains .rows = false) (k : Nat) : t.row k = s.row k :=
  congrArg (Tab.get rowDefault · k) (h.same .rows (by simpa using hL))

/-- After the grants at most the turn is noted. -/
theorem Keeps.sameButTurns {s u : State} (keeps : Keeps requesterParts s u) (c : Prop) [Decidable c] (t : Nat) (words : List Nat)
    (first : Option Nat) (i : Nat) :
    SameButTurns (s.hub i)
      ((if c then u else u.modHub t (fun h => { h with nbWords := words, ferryFirst := first.getD h.ferryFirst })).hub i) := by
  rw [← keeps.hub_eq rfl]
  split
  · exact .refl _
  · by_cases hi : i = t
    · rw [hi, State.hub_modHub]
      rfl
    · rw [State.hub_modHub_ne _ _ _ _ hi]
      exact .refl _

theorem State.bankCycle_hub (s : State) (t i : Nat) : SameButTurns (s.hub i) ((s.bankCycle t).hub i) := by
  unfold State.bankCycle State.bankShares
  extract_lets m v h n0 n order r first
  have engines : Keeps requesterParts s v.1 :=
    ((Keeps.meCycle s t).mono rfl).via ((Keeps.veCycle m.1 t m.2).mono (L := requesterParts) rfl) rfl
  have accesses : Keeps requesterParts s n.1 := by
    refine (Keeps.foldl_fst_iff _ _ _ _ fun p q => ?_).2 engines
    exact (Keeps.accessCycle ..).mono rfl
  have ferries : Keeps requesterParts s r.1 := by
    refine (Keeps.foldl_fst_iff _ _ _ _ fun p ch => ?_).2 accesses
    exact (Keeps.ferryCycle ..).mono rfl
  exact ferries.sameButTurns _ t n0.2 first i

theorem State.foldl_bankCycle_hub (ts : List Nat) (s : State) (i : Nat) :
    SameButTurns (s.hub i) ((ts.foldl State.bankCycle s).hub i) := by
  induction ts generalizing s with
  | nil => exact .refl _
  | cons t ts ih => exact (s.bankCycle_hub t i).trans (ih _)

/-- A cell error changes no row but in its cell errors. -/
theorem upset_get (errs : List (Nat × Nat)) (rows : Tab RowMeta) (k : Nat) :
    ∃ e, Tab.get rowDefault (errs.foldl (fun t e =>
      Tab.upd rowDefault t e.1 (fun m => { m with errs := toggleAll [e.2 % (68 * 272)] m.errs })) rows) k =
        { Tab.get rowDefault rows k with errs := e } := by
  induction errs generalizing rows with
  | nil => exact ⟨_, rfl⟩
  | cons x xs ih =>
    obtain ⟨e, he⟩ := ih (Tab.upd rowDefault rows x.1 (fun m => { m with errs := toggleAll [x.2 % (68 * 272)] m.errs }))
    refine ⟨e, he.trans ?_⟩
    by_cases hk : k = x.1
    · rw [hk, Tab.get_upd_same]
    · rw [Tab.get_upd_ne _ _ _ _ _ hk]

theorem State.upsetCells_row (s : State) (k : Nat) : ∃ e, s.upsetCells.row k = { s.row k with errs := e } :=
  upset_get (Config.upset s.free) s.rows k

/-- An engine cycle up to its cell errors. -/
def State.tickEngines (s : State) : State :=
  let u := s.busyTiles.foldl State.bankCycle s
  ((u.putCyc (u.cyc + 1)).ve.map Prod.fst).foldl (fun s t => s.veAdvance t) (u.putCyc (u.cyc + 1))

theorem State.tick_eq (s : State) : s.tick = s.tickEngines.upsetCells := rfl

theorem Keeps.foldl_bankCycle (ts : List Nat) (s : State) : Keeps (.hubs :: requesterParts) s (ts.foldl State.bankCycle s) :=
  Keeps.foldl _ (fun u t => (Keeps.bankCycle u t).mono rfl) _ _

theorem Keeps.foldl_veAdvance (ts : List Nat) (s : State) :
    Keeps [.ve, .vfiles, .sp, .spPois] s (ts.foldl (fun s t => s.veAdvance t) s) :=
  Keeps.foldl _ Keeps.veAdvance _ _

theorem State.tickEngines_cyc (s : State) : s.tickEngines.cyc = s.cyc + 1 := by
  have banks : (s.busyTiles.foldl State.bankCycle s).cyc = s.cyc := (Keeps.foldl_bankCycle s.busyTiles s).same .cyc (by decide)
  refine ((Keeps.foldl_veAdvance _ _).same .cyc (by decide)).trans ?_
  rw [State.putCyc_cyc, banks]

theorem State.tickEngines_hub (s : State) (i : Nat) : SameButTurns (s.hub i) (s.tickEngines.hub i) := by
  have hub : s.tickEngines.hub i = (s.busyTiles.foldl State.bankCycle s).hub i :=
    ((Keeps.foldl_veAdvance _ _).hub_eq rfl i).trans ((Keeps.putCyc _ _).hub_eq rfl i)
  rw [hub]
  exact State.foldl_bankCycle_hub ..

theorem State.tickEngines_row (s : State) (k : Nat) : s.tickEngines.row k = s.row k :=
  ((Keeps.foldl_veAdvance _ _).row_eq rfl k).trans
    (((Keeps.putCyc _ _).row_eq rfl k).trans ((Keeps.foldl_bankCycle _ s).row_eq rfl k))

/-- Settles O46: the engines and ferry channels take their words, the count goes up, cells may fail (10 R386; 03 R86; log entry 1). -/
theorem idleStepIsOneCycle : Obligations.IdleStepIsOneCycle := by
  intro s hpending
  have keeps := Keeps.tick s
  have errors := Keeps.upsetCells s.tickEngines
  refine ⟨s.tick, step_of_nil hpending, ?_, ?_, fun i => ?_, fun k => ?_, keeps⟩
  · exact (errors.same .cyc (by decide)).trans s.tickEngines_cyc
  · exact (keeps.same .pending (by decide)).trans hpending
  · have hub : s.tick.hub i = s.tickEngines.hub i := errors.hub_eq rfl i
    rw [hub]
    exact s.tickEngines_hub i
  · obtain ⟨e, he⟩ := s.tickEngines.upsetCells_row k
    rw [State.tick_eq, he, State.tickEngines_row]

/-! ### The state after reset -/

theorem memOk_of_nil {s : State} (hmem : s.mem = []) (hpois : s.pois = []) : s.MemOk :=
  ⟨by rw [hmem]; rfl, by rw [hpois]; rfl⟩

theorem State.reg_of_regs_nil {s : State} (h : s.regs = []) (port off : Nat) : s.reg port off = (regReset s.half (regKey port off)).toNat := by
  rw [State.reg, h]; rfl

/-- Settles O47: no table of the reset state lists anything, so each member reads as an unlisted one (00 R3 on the half module). -/
theorem resetStateIsCanonical : Obligations.ResetStateIsCanonical := by
  have full (off : Nat) := State.reg_of_regs_nil (s := State.reset) rfl 0 off
  have half (off : Nat) := State.reg_of_regs_nil (s := State.resetHalf) rfl 0 off
  refine ⟨memOk_of_nil rfl rfl, rfl, rfl, rfl, fun _ => rfl, fun _ => rfl, (full _).trans ?_, (full _).trans ?_, (full _).trans ?_,
    (full _).trans ?_, (full _).trans ?_, (full _).trans ?_, (full _).trans ?_, (full _).trans ?_, (full _).trans ?_,
    memOk_of_nil rfl rfl, rfl, ?_, (half _).trans ?_, (half _).trans ?_, (full _).trans ?_, (full _).trans ?_, (full _).trans ?_⟩ <;> decide

end Sys2Proof.Machine
end

section
/-! The canonical form of the banks, which every command keeps: the commands that may write bytes or marks go through shared operations
that keep it, and every other command leaves both parts as they are (02 R31; 03 R91). -/

namespace Sys2Proof.Machine

/-- A meaning that goes on leaves the banks in canonical form. -/
structure MemOkNext (r : Result) : Prop where
  /-- the canonical form of its next state -/
  memOk : ∀ t, r = .next t → t.MemOk

theorem MemOkNext.next {t : State} (h : t.MemOk) : MemOkNext (.next t) := ⟨by rintro _ ⟨⟩; exact h⟩

theorem KeepsNext.memOk {L : List Field} {s : State} {r : Result} (h : KeepsNext L s r) (hmem : L.contains .mem = false)
    (hpois : L.contains .pois = false) (hs : s.MemOk) : MemOkNext r :=
  ⟨fun t ht => (MemOk.keeps (h.keeps t ht) hmem hpois).2 hs⟩

/-- A frame without the banks keeps their form. -/
theorem Keeps.memOk {L : List Field} {s t : State} (h : Keeps L s t) (hmem : L.contains .mem = false) (hpois : L.contains .pois = false) (hs : s.MemOk) : t.MemOk := (MemOk.keeps h hmem hpois).2 hs

theorem ite_memOk {s t : State} {c : Prop} [Decidable c] (hs : s.MemOk) (ht : t.MemOk) : (if c then s else t).MemOk := by
  split <;> assumption

theorem MemOk.count_iff (s : State) (t event) (part) (n) : (s.count t event part n).MemOk ↔ s.MemOk := MemOk.keeps (Keeps.count ..) rfl rfl
theorem MemOk.takeUp_iff (s : State) (unit offs) : (s.takeUp unit offs).MemOk ↔ s.MemOk := MemOk.keeps (Keeps.takeUp ..) rfl rfl
theorem MemOk.overwrite_iff (s : State) (p) : (s.overwrite p).MemOk ↔ s.MemOk := MemOk.keeps (Keeps.overwrite ..) rfl rfl
theorem MemOk.modNbu_iff (s : State) (k f) : (s.modNbu k f).MemOk ↔ s.MemOk := MemOk.keeps (Keeps.modNbu ..) rfl rfl
theorem MemOk.modCru_iff (s : State) (k f) : (s.modCru k f).MemOk ↔ s.MemOk := MemOk.keeps (Keeps.modCru ..) rfl rfl
theorem MemOk.modTran_iff (s : State) (k f) : (s.modTran k f).MemOk ↔ s.MemOk := MemOk.keeps (Keeps.modTran ..) rfl rfl
theorem MemOk.dropXact_iff (s : State) (x) : (s.dropXact x).MemOk ↔ s.MemOk := MemOk.keeps (Keeps.dropXact ..) rfl rfl
theorem MemOk.stepDone_iff (s : State) (c step engine op tadv) : (s.stepDone c step engine op tadv).MemOk ↔ s.MemOk :=
  MemOk.keeps (Keeps.stepDone ..) rfl rfl
theorem MemOk.notePoison_iff (s : State) (c) : (s.notePoison c).MemOk ↔ s.MemOk := MemOk.keeps (Keeps.notePoison ..) rfl rfl
theorem MemOk.endReencode_iff (s : State) (p) : (s.endReencode p).MemOk ↔ s.MemOk := MemOk.keeps (Keeps.endReencode ..) rfl rfl
theorem MemOk.handOver_iff (s : State) (ch b g buf dst) : (s.handOver ch b g buf dst).MemOk ↔ s.MemOk :=
  MemOk.keeps (Keeps.handOver ..) rfl rfl

/-! ### Start-up, supply and clocks -/

theorem execPowerOn_memOk (r) {s : State} (h : s.MemOk) : MemOkNext (execPowerOn r s) := .next <| by
  have bare (u : State) (hubs power boot) : Keeps [.hubs, .power, .boot] u (((u.putHubs hubs).putPower power).putBoot boot) := by
    simp (disch := decide) only [Keeps.self_iff, Keeps.putHubs_iff, Keeps.putPower_iff, Keeps.putBoot_iff]
  split
  · exact h
  · exact (bare ..).memOk rfl rfl (MemOk.unpowered _ h)

theorem execCrystalQualifyTimeout_memOk (t) {s : State} (h : s.MemOk) : MemOkNext (execCrystalQualifyTimeout t s) := .next <| by
  simp only [MemOk.ite_iff, MemOk.clockSettled, MemOk.putBoot_iff, h, ite_self]

theorem execCoolantQualified_memOk {s : State} (h : s.MemOk) : MemOkNext (execCoolantQualified s) := .next <| by
  simp only [MemOk.ite_iff, MemOk.coldTail, MemOk.putBoot_iff, h, ite_self]

theorem execPowerFail_memOk (input tokens) {s : State} (h : s.MemOk) : MemOkNext (execPowerFail input tokens s) := .next <| by
  have down (u : State) (p : Nat) (hu : u.MemOk) :
      (if (u.hport p).speed = 0 then u else (u.partsOn p).foldl (fun v q => v.preserve q 1 tokens) (u.portDown p)).MemOk := by
    split
    · exact hu
    · exact MemOk.foldl _ (fun _ _ hv => MemOk.preserve _ _ _ _ hv) _ _ (MemOk.portDown _ _ hu)
  have halted : ((List.range 64).foldl (fun s c => s.halt c 0x39 15 (s.ctx c).next)
      (s.putPower { s.power with input := input.toNat, failed := true })).MemOk :=
    MemOk.foldl _ (fun _ _ hu => (MemOk.halt_iff ..).2 hu) _ _ ((MemOk.putPower_iff ..).2 h)
  split
  · exact h
  split
  · exact (MemOk.putPower_iff ..).2 h
  · refine (Keeps.foldl _ Keeps.enterStackSr _ _).memOk rfl rfl (MemOk.foldl _ down _ _ ?_)
    exact (Keeps.foldl _ (fun _ _ => Keeps.bboxHead ..) _ _).memOk rfl rfl halted

theorem execPowerReturn_memOk (r) {s : State} (h : s.MemOk) : MemOkNext (execPowerReturn r s) := .next <| by
  simp only [MemOk.ite_iff, MemOk.warmReset, MemOk.putPower_iff, h, ite_self]

theorem execInputLoss_memOk {s : State} (h : s.MemOk) : MemOkNext (execInputLoss s) := .next <| by
  simp only [MemOk.ite_iff, MemOk.unpowered, h, ite_self]

theorem execWarmReset_memOk (r) {s : State} (h : s.MemOk) : MemOkNext (execWarmReset r s) := .next <| by
  simp only [MemOk.ite_iff, MemOk.warmReset, h, ite_self]

theorem execWatchdogExpiry_memOk (t r) {s : State} (h : s.MemOk) : MemOkNext (execWatchdogExpiry t r s) := .next <| by
  have restart (u : State) (f) (hu : u.MemOk) :
      (if (u.modTran t f).fw.st = 3 then (u.modTran t f).fwRevert else u.modTran t f).MemOk := by
    split
    · exact (Keeps.fwRevert _).memOk rfl rfl ((Keeps.modTran ..).memOk rfl rfl hu)
    · exact (Keeps.modTran ..).memOk rfl rfl hu
  have noted := (MemOk.bbox_iff _ t 0x0F none 63 [(24, 1, (s.cyc :: (s.hub t).wdogAt.filter (fun a => decide (s.cyc < a + secondCycles))).length)]).2
    ((MemOk.modHub_iff s t (fun h => { h with wdogAt := s.cyc :: (s.hub t).wdogAt.filter (fun a => decide (s.cyc < a + secondCycles)) })).2 h)
  split
  · exact h
  · have restarted := restart _ (fun x => match x.run with
      | some j => { x with run := none, queue := { j with native := [], nmap := [], status := 0 } :: x.queue }
      | none => x) noted
    split
    · exact MemOk.warmReset _ _ _ restarted
    · exact restarted

theorem execHubTempSample_memOk (t temp) {s : State} (h : s.MemOk) : MemOkNext (execHubTempSample t temp s) := .next <| by
  simp only [MemOk.ite_iff, MemOk.overheat, MemOk.modHub_iff, h, ite_self]

/-! ### Host ports and resets -/

theorem execCxlMemRead_memOk (p hpa own) {s : State} (h : s.MemOk) : MemOkNext (execCxlMemRead p hpa own s) := .next <| by
  have misrouted : (s.misroute p).MemOk := (Keeps.misroute ..).memOk rfl rfl h
  repeat' split
  all_goals simp only [MemOk.poisonAnswer_iff, misrouted, MemOk.viaMesh_iff, MemOk.readMesh_iff, MemOk.sharedHostRead, MemOk.answer_iff,
    MemOk.modHport_iff, MemOk.portRead, h]

theorem execBiResponse_memOk (t line data) {s : State} (h : s.MemOk) : MemOkNext (execBiResponse t line data s) := .next <| by
  repeat' split
  all_goals simp only [MemOk.release, MemOk.modDir_iff, MemOk.homeWrite_iff, h]

theorem execBiTimeout_memOk (t line) {s : State} (h : s.MemOk) : MemOkNext (execBiTimeout t line s) := .next <| by
  repeat' split
  all_goals simp only [MemOk.release, MemOk.modDir_iff, MemOk.modFchan_iff, MemOk.answer_iff, MemOk.logError_iff, MemOk.putLogs_iff, h]

theorem execPeerApertureRead_memOk (p e off) {s : State} (h : s.MemOk) : MemOkNext (execPeerApertureRead p e off s) := .next <| by
  split
  · exact (Keeps.unsupported _).memOk rfl rfl h
  · simp only [MemOk.ite_iff, MemOk.answer_iff, MemOk.logError_iff, MemOk.askRead, MemOk.readMesh_iff, h, ite_self]

theorem foldl_preserve_memOk (tokens : List (BitVec 64)) (ps : List Nat) {s : State} (h : s.MemOk) :
    (ps.foldl (fun u q => u.preserve q 1 tokens) s).MemOk := MemOk.foldl _ (fun _ _ hu => MemOk.preserve _ _ _ _ hu) _ _ h

theorem execPortLinkDown_memOk (p tokens) {s : State} (h : s.MemOk) : MemOkNext (execPortLinkDown p tokens s) := .next <| by
  simp only [MemOk.ite_iff, foldl_preserve_memOk, MemOk.portDown, h, ite_self]

theorem execPerstAssert_memOk (p tokens) {s : State} (h : s.MemOk) : MemOkNext (execPerstAssert p tokens s) := .next <| by
  simp only [MemOk.ite_iff, MemOk.hotReset, MemOk.modHport_iff, h, ite_self]

theorem execPartitionReset_memOk (p) {s : State} (h : s.MemOk) : MemOkNext (execPartitionReset p s) := .next <| by
  have halted : (s.resetHalts p).MemOk := (Keeps.resetHalts ..).memOk rfl rfl h
  split
  · simp only [MemOk.ite_iff, MemOk.finishReset, halted, h, ite_self]
  · exact h

theorem foldl_complete_memOk_iff (rs : List DescRef) (s : State) :
    (rs.foldl (fun u r => u.complete r {}) s).MemOk ↔ s.MemOk := MemOk.keeps (Keeps.foldl _ (fun _ _ => Keeps.complete ..) _ _) rfl rfl

theorem execSlotClearDone_memOk (slot) {s : State} (h : s.MemOk) : MemOkNext (execSlotClearDone slot s) := .next <| by
  have cleared (p : Nat) (lines) : (((s.overwrite p).putLines lines).clearParcel p).MemOk :=
    MemOk.clearParcel _ _ ((MemOk.putLines_iff ..).2 ((MemOk.overwrite_iff ..).2 h))
  split
  · generalize (s.slot slot).moveTo = m, (s.slot slot).owner = o
    cases m <;> cases o <;>
      simp only [MemOk.ite_iff, MemOk.finishDestroy_iff, foldl_complete_memOk_iff, MemOk.modSlot_iff, MemOk.modHub_iff, MemOk.clearParcel,
        cleared, ite_self]
  · exact h

theorem execPslot_memOk (page) {s : State} (h : s.MemOk) : MemOkNext (execPslot page s) := .next <| by
  refine MemOk.runDesc _ _ _ _ (fun d r u hu => ?_) h
  dsimp only
  split
  · exact (MemOk.complete_iff ..).2 hu
  · simp only [MemOk.ite_iff, MemOk.complete_iff, MemOk.reviewCode_iff, MemOk.modSlot_iff, MemOk.writeBackSlot, MemOk.modPart_iff, hu, ite_self]

theorem execStepFetch_memOk (ctx index) {s : State} (h : s.MemOk) : MemOkNext (execStepFetch ctx index s) := .next <| by
  simp only [MemOk.ite_iff, MemOk.halt_iff, MemOk.modCtx_iff, MemOk.deviceRead, MemOk.readMesh_iff, MemOk.countGrant_iff, h, ite_self]

/-! ### The ferry engine -/

theorem execFerryStepStart_memOk (tile chan host bad) {s : State} (h : s.MemOk) :
    MemOkNext (execFerryStepStart tile chan host bad s) := .next <| by
  split
  · simp only [MemOk.ite_iff, MemOk.ferryFault_iff, MemOk.ferryGo, MemOk.pump_iff, MemOk.readMesh_iff, MemOk.modHub_iff, MemOk.count_iff,
      MemOk.modFchan_iff, h, ite_self]
  · exact h

theorem execOverlapHoldGrant_memOk (tile chan) {s : State} (h : s.MemOk) : MemOkNext (execOverlapHoldGrant tile chan s) := .next <| by
  simp only [MemOk.ite_iff, MemOk.ferryGo, MemOk.modFchan_iff, MemOk.modHub_iff, h, ite_self]

theorem execFerryStepComplete_memOk (tile chan) {s : State} (h : s.MemOk) : MemOkNext (execFerryStepComplete tile chan s) := .next <| by
  have gone := MemOk.ferryGo s tile chan h
  repeat' split
  all_goals simp only [MemOk.complete_iff, MemOk.stepDone_iff, MemOk.notePoison_iff, MemOk.modHub_iff, MemOk.modFchan_iff, gone]

/-! ### Near-bank passes and rebuilds -/

theorem execYieldPoint_memOk (ch) {s : State} (h : s.MemOk) : MemOkNext (execYieldPoint ch s) := .next <| by
  have waits (t : Nat) (qs : List Req) (u : State) : (qs.foldl (fun v q => v.count t 0x0A q.part 1) u).MemOk ↔ u.MemOk :=
    MemOk.keeps (Keeps.foldl _ (fun _ _ => Keeps.count ..) _ _) rfl rfl
  have flipped (u : State) (k offs t event part n) (qs : List Req) (hu : u.MemOk) :
      ((qs.foldl (fun v q => v.count t 0x0A q.part 1) ((u.takeUp k offs).count t event part n)).takeFlips ch).MemOk := by
    simp only [MemOk.takeFlips, waits, MemOk.count_iff, MemOk.takeUp_iff, hu]
  have traced (u : State) (a b c d e f g k) : (u.trace a b c d e f g k).MemOk ↔ u.MemOk := MemOk.keeps (Keeps.trace ..) rfl rfl
  simp only [MemOk.ite_iff, traced, flipped, MemOk.modChan_iff, h, ite_self]

theorem execPassAbandon_memOk (ch) {s : State} (h : s.MemOk) : MemOkNext (execPassAbandon ch s) := .next <| by
  split
  · simp only [MemOk.ite_iff, MemOk.takeFlips, MemOk.modChan_iff, h, ite_self]
  · exact h

theorem execRecomputeDone_memOk (tile) {s : State} (h : s.MemOk) : MemOkNext (execRecomputeDone tile s) := .next <| by
  have read (b part) (ps : List PassRec) : (ps.foldl (fun u p => u.readSpan b part p) s).MemOk :=
    MemOk.foldl _ (fun _ _ hu => MemOk.readSpan _ _ _ _ hu) _ _ h
  split
  · exact h
  extract_lets b free part passes s0 bad int s1 s3 line
  have readAll : s0.MemOk := read ..
  have stored : Keeps [.crus, .hubs] s0 s1 := by
    refine Keeps.foldl _ (fun u g => ?_) _ _
    split <;> simp (disch := decide) only [Keeps.self_iff, Keeps.modHub_iff, Keeps.modCru_iff]
  simp only [MemOk.ite_iff, MemOk.uncorrectable_iff, MemOk.logError_iff, MemOk.modHub_iff, s3, stored.memOk rfl rfl readAll, h, ite_self]

/-! ### Commands of a channel -/

theorem execWr_memOk (ch rank bank col ap data) {s : State} (h : s.MemOk) : MemOkNext (execWr ch rank bank col ap data s) := .next <| by
  have spent (j : Nat) : ((if ap then s.closeRow ch j else s).spend 1 1).MemOk := by
    rw [MemOk.spend_iff]
    split
    · exact (Keeps.closeRow ..).memOk rfl rfl h
    · exact h
  split
  · exact (Keeps.badRank ..).memOk rfl rfl h
  split
  · exact (Keeps.wrongMode ..).memOk rfl rfl h
  split
  · simp only [MemOk.ite_iff, MemOk.uncorrectable_iff, MemOk.storeColumn, MemOk.decodeRow, spent, ite_self]
  · exact h

theorem execAcr_memOk (ch rank bank group buf flips) {s : State} (h : s.MemOk) : MemOkNext (execAcr ch rank bank group buf flips s) := by
  unfold execAcr
  extract_lets j b g c mine dst u n copies s1 s2
  refine .next (ite_memOk ((Keeps.badRank ..).memOk rfl rfl h) (ite_memOk ((Keeps.wrongMode ..).memOk rfl rfl h) (ite_memOk h ?_)))
  have read : s2.MemOk := by
    simp only [s2]
    split <;> simp only [MemOk.handOver_iff, MemOk.modCru_iff, MemOk.modNbu_iff, s1, h]
  simp only [MemOk.answer_iff, MemOk.closePass, MemOk.modChan_iff, read]

theorem execStr_memOk (ch rank flips) {s : State} (h : s.MemOk) : MemOkNext (execStr ch rank flips s) := by
  unfold execStr
  extract_lets js s' copies failed parts s0 s1
  have synced : s'.MemOk := by
    have units : Keeps [.nbus] s (js.foldl (fun u j => u.modNbu (bankOf ch j) (fun n => n.sync s.cyc)) s) :=
      Keeps.foldl _ (fun _ _ => Keeps.modNbu ..) _ _
    simp only [s', MemOk.ite_iff, units.memOk rfl rfl h, h, ite_self]
  refine .next (ite_memOk ((Keeps.badRank ..).memOk rfl rfl synced) (ite_memOk ((Keeps.wrongMode ..).memOk rfl rfl synced) ?_))
  have judged : (((js.filter (fun j => parts.contains j)).foldl (fun s j => s.evaluate ch j failed) s0)).MemOk :=
    (Keeps.foldl _ (fun _ _ => Keeps.evaluate ..) _ _).memOk rfl rfl ((MemOk.modChan_iff ..).2 synced)
  exact (MemOk.answer_iff ..).2 (MemOk.closePass _ _ judged)

theorem runRow_memOk (ch w who) {s : State} (h : s.MemOk) : MemOkNext (runRow ch w who s) := (runRow_keeps ch w who s).memOk rfl rfl h

theorem runColumn_memOk (ch w data) {s : State} (h : s.MemOk) : MemOkNext (runColumn ch w data s) := by
  dsimp only [runColumn]
  split
  · exact (execRd_keeps ..).memOk rfl rfl h
  · exact execWr_memOk _ _ _ _ _ _ h
  · exact (execMrr_keeps ..).memOk rfl rfl h
  · exact (execCcl_keeps ..).memOk rfl rfl h
  · exact (execBbw_keeps ..).memOk rfl rfl h
  · exact (execCfgw_keeps ..).memOk rfl rfl h
  · exact execAcr_memOk _ _ _ _ _ _ h
  · exact (execAcl_keeps ..).memOk rfl rfl h
  · exact execStr_memOk _ _ _ h
  · exact .next h

theorem execCommandReissue_memOk (ch accepted) {s : State} (h : s.MemOk) : MemOkNext (execCommandReissue ch accepted s) := by
  dsimp only [execCommandReissue]
  split
  · exact .next h
  split
  · exact .next ((Keeps.giveUp ..).memOk rfl rfl ((Keeps.reportError ..).memOk rfl rfl h))
  split
  · refine .next ?_
    simp only [MemOk.ite_iff, MemOk.performWrite, MemOk.serve, MemOk.modChan_iff, h, ite_self]
  split
  · exact .next ((MemOk.modChan_iff ..).2 h)
  split
  · exact runColumn_memOk _ _ _ ((MemOk.modChan_iff ..).2 h)
  · exact runRow_memOk _ _ _ ((MemOk.modChan_iff ..).2 h)

theorem execArbitrationPoint_memOk (ch) {s : State} (h : s.MemOk) : MemOkNext (execArbitrationPoint ch s) := .next <| by
  split
  · split
    · exact (MemOk.modChan_iff ..).2 h
    · simp only [MemOk.ite_iff, MemOk.runGrant, MemOk.countGrant_iff, h, ite_self]
  · exact h

theorem execWriteDrain_memOk (ch read) {s : State} (h : s.MemOk) : MemOkNext (execWriteDrain ch read s) := .next <| by
  split
  · split
    · simp only [MemOk.ite_iff, MemOk.drainTo, h, ite_self]
    · split
      · exact h
      · simp only [MemOk.ite_iff, MemOk.serve, h, ite_self]
  · exact h

/-! ### Page code, spares and moves -/

theorem execRecentre_memOk (ch runs sweeps) {s : State} (h : s.MemOk) : MemOkNext (execRecentre ch runs sweeps s) := .next <| by
  simp only [MemOk.ite_iff, MemOk.modChan_iff, MemOk.retireTile, MemOk.modStack_iff, MemOk.noteEye_iff, h, ite_self]

theorem execFullRowDecodeDone_memOk (st) {s : State} (h : s.MemOk) : MemOkNext (execFullRowDecodeDone st s) := .next <| by
  repeat' split
  all_goals simp only [MemOk.answerRead_iff, MemOk.answer_iff, MemOk.decodeRow, MemOk.modStack_iff, h]

theorem State.grantTo_memOk {s g : State} {ch who : Nat} (hg : s.grantTo ch who = some g) (h : s.MemOk) : g.MemOk :=
  (Keeps.grantTo_some hg).memOk rfl rfl h

theorem execScrubRow_memOk (ch) {s : State} (h : s.MemOk) : MemOkNext (execScrubRow ch s) := .next <| by
  split
  · exact h
  · rename_i g hg
    have granted : g.MemOk := by
      split at hg
      · exact State.grantTo_memOk hg h
      · cases hg
    simp only [MemOk.putLogs_iff, MemOk.modHub_iff, MemOk.scrubRow, MemOk.reachRow_iff, MemOk.modChan_iff, granted]

theorem execRepairFlip_memOk (st) {s : State} (h : s.MemOk) : MemOkNext (execRepairFlip st s) := .next <| by
  split
  · exact h
  · simp only [MemOk.ite_iff, MemOk.flipRepair, MemOk.modStack_iff, h, ite_self]

theorem execReencodeRow_memOk (p) {s : State} (h : s.MemOk) : MemOkNext (execReencodeRow p s) := .next <| by
  repeat' split
  all_goals simp only [MemOk.complete_iff, MemOk.modSlot_iff, MemOk.modParcel_iff, MemOk.endReencode_iff, MemOk.reencodeOne, h]

theorem execSlotMove_memOk (slot) {s : State} (h : s.MemOk) : MemOkNext (execSlotMove slot s) := .next <| by
  repeat' split
  all_goals simp only [MemOk.noteCover_iff, MemOk.modSlot_iff, MemOk.copyParcel, MemOk.logError_iff, MemOk.modParcel_iff, h]

theorem execSlotMoveFlip_memOk (slot) {s : State} (h : s.MemOk) : MemOkNext (execSlotMoveFlip slot s) := .next <| by
  simp only [MemOk.ite_iff, MemOk.flipSlot, MemOk.putChans_iff, MemOk.modSlot_iff, MemOk.writeBackSlot, h, ite_self]

theorem execHubLogicFault_memOk (t) {s : State} (h : s.MemOk) : MemOkNext (execHubLogicFault t s) := .next <| by
  simp only [MemOk.ite_iff, MemOk.retireTile, MemOk.modHub_iff, h, ite_self]

/-! ### Translation and remote reads -/

theorem execTranslationEnd_memOk (tile) {s : State} (h : s.MemOk) : MemOkNext (execTranslationEnd tile s) := .next <| by
  split
  · exact h
  · simp only [MemOk.ite_iff, MemOk.complete_iff, MemOk.hostWrite_iff, MemOk.modPart_iff, MemOk.writeImage, MemOk.modTran_iff, h, ite_self]

theorem execRemoteRd_memOk (land hdr) {s : State} (h : s.MemOk) : MemOkNext (execRemoteRd land hdr s) := .next <| by
  have forwarded : (s.forward land hdr []).MemOk := (Keeps.forward ..).memOk rfl rfl h
  repeat' split
  all_goals simp only [MemOk.reply_iff, MemOk.freeRx_iff, MemOk.remoteRead, forwarded, h]

theorem execRdr_memOk (land hdr data) {s : State} (h : s.MemOk) : MemOkNext (execRdr land hdr data s) := .next <| by
  have forwarded (l) : (s.forward land hdr l).MemOk := (Keeps.forward ..).memOk rfl rfl h
  repeat' split
  all_goals simp only [MemOk.ferryFault_iff, MemOk.viaMesh_iff, MemOk.dropXact_iff, MemOk.freeRx_iff, MemOk.ferryGo, MemOk.pump_iff,
    MemOk.modFchan_iff, forwarded, h]

/-! ### Every command and every step -/

theorem exec_memOk (c : Instr) {s : State} (h : s.MemOk) : MemOkNext (exec c s) := by
  cases c with
  | powerOn r => exact execPowerOn_memOk r h
  | crystalQualified t => exact .next (MemOk.clockSettled _ _ _ h)
  | crystalQualifyTimeout t => exact execCrystalQualifyTimeout_memOk t h
  | coolantQualified => exact execCoolantQualified_memOk h
  | powerFail input tokens => exact execPowerFail_memOk input tokens h
  | powerReturn r => exact execPowerReturn_memOk r h
  | inputLoss => exact execInputLoss_memOk h
  | warmReset r => exact execWarmReset_memOk r h
  | watchdogExpiry t r => exact execWatchdogExpiry_memOk t r h
  | hubTempSample t temp => exact execHubTempSample_memOk t temp h
  | cxlMemRead p hpa own => exact execCxlMemRead_memOk p hpa own h
  | biResponse t line data => exact execBiResponse_memOk t line data h
  | biTimeout t line => exact execBiTimeout_memOk t line h
  | peerApertureRead p e off => exact execPeerApertureRead_memOk p e off h
  | portLinkDown p tokens => exact execPortLinkDown_memOk p tokens h
  | hotReset p kind tokens => exact .next (MemOk.hotReset _ _ _ _ h)
  | perstAssert p tokens => exact execPerstAssert_memOk p tokens h
  | partitionReset p => exact execPartitionReset_memOk p h
  | slotClearDone slot => exact execSlotClearDone_memOk slot h
  | pslot page => exact execPslot_memOk page h
  | stepFetch ctx index => exact execStepFetch_memOk ctx index h
  | ferryStepStart tile chan host bad => exact execFerryStepStart_memOk tile chan host bad h
  | overlapHoldGrant tile chan => exact execOverlapHoldGrant_memOk tile chan h
  | ferryStepComplete tile chan => exact execFerryStepComplete_memOk tile chan h
  | yieldPoint ch => exact execYieldPoint_memOk ch h
  | passAbandon ch => exact execPassAbandon_memOk ch h
  | recomputeDone tile => exact execRecomputeDone_memOk tile h
  | wr ch rank bank col ap data => exact execWr_memOk ch rank bank col ap data h
  | acr ch rank bank group buf flips => exact execAcr_memOk ch rank bank group buf flips h
  | str ch rank flips => exact execStr_memOk ch rank flips h
  | commandReissue ch accepted => exact execCommandReissue_memOk ch accepted h
  | arbitrationPoint ch => exact execArbitrationPoint_memOk ch h
  | writeDrain ch read => exact execWriteDrain_memOk ch read h
  | recentre ch runs sweeps => exact execRecentre_memOk ch runs sweeps h
  | fullRowDecodeDone st => exact execFullRowDecodeDone_memOk st h
  | scrubRow ch => exact execScrubRow_memOk ch h
  | repairFlip st => exact execRepairFlip_memOk st h
  | reencodeRow p => exact execReencodeRow_memOk p h
  | slotMove slot => exact execSlotMove_memOk slot h
  | slotMoveFlip slot => exact execSlotMoveFlip_memOk slot h
  | tileRetire t cause readable => exact .next (MemOk.retireTile _ _ _ _ h)
  | translationEnd tile => exact execTranslationEnd_memOk tile h
  | remoteRd land hdr => exact execRemoteRd_memOk land hdr h
  | rdr land hdr data => exact execRdr_memOk land hdr data h
  | hubLogicFault t => exact execHubLogicFault_memOk t h
  | _ => exact (exec_keeps _ s).memOk rfl rfl h

/-- Settles O48: taking the front command leaves the banks, and each command and the idle cycle keep their form. -/
theorem banksStayCanonical : Obligations.BanksStayCanonical := by
  intro s t hs hstep
  cases hp : s.pending with
  | nil =>
    rw [step_of_nil hp] at hstep
    injection hstep with ht
    exact ht ▸ (Keeps.tick s).memOk rfl rfl hs
  | cons c rest =>
    rw [step_of_cons hp] at hstep
    exact (exec_memOk c (s := { s with pending := rest }) ⟨hs.mem, hs.pois⟩).memOk t hstep

end Sys2Proof.Machine
end

section
/-! A landing that is down stays as it is: messages leave only through landings that are up, so nothing that follows a landing's failure
touches the landing again or puts a transaction on it (16 R613, R616, R617). -/

namespace Sys2Proof.Machine

/-- Landing `l` is as it was, and no transaction is on it that was not. -/
structure Shuns (l : Nat) (s t : State) : Prop where
  /-- the landing -/
  landing : t.landing l = s.landing l
  /-- the transactions outstanding on it -/
  xacts : ∀ x ∈ t.xacts, x.land = l → x ∈ s.xacts

section
variable {l : Nat} {s t u : State}

theorem Shuns.refl (l : Nat) (s : State) : Shuns l s s := ⟨rfl, fun _ hx _ => hx⟩

theorem Shuns.trans (h : Shuns l s t) (g : Shuns l t u) : Shuns l s u :=
  ⟨g.landing.trans h.landing, fun x hx hl => h.xacts x (g.xacts x hx hl) hl⟩

/-- The landing is still down. -/
theorem Shuns.down (h : Shuns l s t) (hl : (s.landing l).up = false) : (t.landing l).up = false := by rw [h.landing, hl]

theorem Keeps.landing_eq {L : List Field} (h : Keeps L s t) (hL : L.contains .lands = false) (k : Nat) : t.landing k = s.landing k :=
  congrArg (Tab.get (fun _ => ({} : Landing)) · k) (h.same .lands (by simpa using hL))

theorem Keeps.shuns {L : List Field} (h : Keeps L s t) (hl : L.contains .lands = false) (hx : L.contains .xacts = false) :
    Shuns l s t :=
  ⟨h.landing_eq hl l, fun x hx' _ => by rwa [h.same .xacts (by simpa using hx)] at hx'⟩

/-- A fold whose every step shuns a landing that is down. -/
theorem Shuns.foldl {α : Type} {f : State → α → State} (h : ∀ v a, (v.landing l).up = false → Shuns l v (f v a)) (as : List α) (s : State)
    (hl : (s.landing l).up = false) : Shuns l s (as.foldl f s) := by
  induction as generalizing s with
  | nil => exact .refl ..
  | cons a as ih => exact (h s a hl).trans (ih _ ((h s a hl).down hl))

end

theorem shuns_modLanding {l k : Nat} (s : State) (f : Landing → Landing) (h : l ≠ k) : Shuns l s (s.modLanding k f) :=
  ⟨State.landing_modLanding_ne s k l f h, fun _ hx _ => hx⟩

theorem shuns_putXacts {l : Nat} (s : State) (xs : List Xact) (h : ∀ x ∈ xs, x.land = l → x ∈ s.xacts) : Shuns l s (s.putXacts xs) :=
  ⟨rfl, h⟩

/-! ### Messages leave through other landings -/

section
variable {l : Nat} {s : State}

theorem shuns_grantTx (n k : Nat) (done : List Byte) (s : State) (h : l ≠ k) : Shuns l s (State.grantTx n k done s).1 := by
  induction n generalizing done s with
  | zero => exact .refl ..
  | succ n ih =>
    simp only [State.grantTx]
    split
    · exact .refl ..
    next m hm =>
      have taken : Shuns l s ((s.modLanding k (fun x => x.take m)).putOut { s.out with link := { land := k, hdr := m.hdr, data := m.data } :: s.out.link }) :=
        (shuns_modLanding s _ h).trans ((Keeps.putOut ..).shuns rfl rfl)
      split
      · exact (taken.trans ((Keeps.sendControl ..).shuns rfl rfl)).trans (ih ..)
      · exact taken.trans (ih ..)

theorem shuns_drainTx {k : Nat} (s : State) (h : l ≠ k) : Shuns l s (s.drainTx k) := by
  unfold State.drainTx
  split
  · exact (shuns_grantTx _ k _ _ h).trans ((shuns_modLanding _ _ h).trans ((Keeps.emit ..).shuns rfl rfl))
  · exact .refl ..

theorem shuns_sendMsg {k : Nat} (s : State) (hdr : BitVec 128) (data : List Byte) (h : l ≠ k) : Shuns l s (s.sendMsg k hdr data) :=
  (shuns_modLanding s _ h).trans (shuns_drainTx _ h)

/-- A route chooses a landing that is up (R613, R617). -/
theorem State.up_of_routeOf {src sstr dst k : Nat} (h : s.routeOf src sstr dst = some k) : (s.landing k).up = true := by
  simp only [State.routeOf] at h
  split at h
  · cases h
  · have hk := List.mem_of_getElem? h
    simp only [State.routeLands] at hk
    split at hk
    · exact (List.mem_filter.1 hk).2
    · exact absurd hk List.not_mem_nil

theorem State.up_of_landFor {x : Xact} {k : Nat} (h : s.landFor x = some k) : (s.landing k).up = true := by
  simp only [State.landFor] at h
  split at h
  next y hy =>
    split at h
    next hup => exact (Option.some.inj h) ▸ hup
    next => cases h
  next => exact State.up_of_routeOf h

theorem ne_of_up {k : Nat} (hl : (s.landing l).up = false) (hk : (s.landing k).up = true) : l ≠ k := by
  rintro rfl
  exact Bool.false_ne_true (hl.symm.trans hk)

theorem shuns_sendGop (s : State) (g dst k status fs ls) (hl : (s.landing l).up = false) : Shuns l s (s.sendGop g dst k status fs ls) := by
  simp only [State.sendGop]
  split
  next k hk => exact shuns_sendMsg _ _ _ (ne_of_up hl (State.up_of_routeOf hk))
  next => exact .refl ..

theorem shuns_tellFailed (s : State) (g is) (hl : (s.landing l).up = false) : Shuns l s (s.tellFailed g is) :=
  Shuns.foldl (fun _ _ hu => Shuns.foldl (fun _ _ hv => Shuns.foldl (fun _ _ hw => shuns_sendGop _ _ _ _ _ _ _ hw) _ _ hv) _ _ hu) _ _ hl

theorem shuns_failMeets (s : State) (c : Nat) (hl : (s.landing l).up = false) : Shuns l s (s.failMeets c) :=
  Shuns.foldl (fun u e hu =>
    ((Keeps.modGroup u ..).shuns rfl rfl).trans (shuns_tellFailed _ _ _ (((Keeps.modGroup u ..).shuns rfl rfl).down hu))) _ _ hl

/-! ### Halts and faults -/

/-- A halt drops transactions of the context and begins none (11 R469). -/
theorem shuns_stopEngines (s : State) (c : Nat) : Shuns l s (s.stopEngines c) := by
  unfold State.stopEngines
  extract_lets t s1 chans copies s2 s3 mark s4 s5
  have channels : Keeps [.me, .ve, .fe] s s2 := by
    simp (disch := decide) only [s2, s1, Keeps.foldl_within fun _ _ => Keeps.modFchan .., Keeps.modVec_iff, Keeps.modMat_iff, Keeps.self_iff]
  have dropped : Shuns l s3 s4 := ⟨rfl, fun x hx _ => (List.mem_filter.1 hx).1⟩
  exact (channels.shuns rfl rfl).trans (((Keeps.modHub ..).shuns rfl rfl).trans (dropped.trans (((Keeps.putCrus ..).shuns rfl rfl).trans (((Keeps.putHubs ..).shuns rfl rfl).trans
    (((Keeps.modCtx ..).shuns rfl rfl).trans ((Keeps.copiesStopped ..).shuns rfl rfl))))))

theorem shuns_haltOne (s : State) (c reason fld step) : Shuns l s (s.haltOne c reason fld step) := by
  unfold State.haltOne
  extract_lets x addr s1 status s2 s3
  have stopped : Shuns l s s1 := (shuns_stopEngines s c).trans ((Keeps.modCtx ..).shuns rfl rfl)
  have answered : Shuns l s1 s2 := by
    simp only [s2]
    split
    · exact (Keeps.complete ..).shuns rfl rfl
    · exact .refl ..
  split
  · exact stopped.trans (answered.trans (((Keeps.bbox ..).shuns rfl rfl).trans ((Keeps.trace ..).shuns rfl rfl)))
  · exact .refl ..

theorem shuns_haltMany (n : Nat) (hs : List (Nat × Nat × Nat × Nat)) (s : State) (hl : (s.landing l).up = false) :
    Shuns l s (State.haltMany n hs s) := by
  induction n generalizing hs s with
  | zero => exact .refl ..
  | succ n ih =>
    cases hs with
    | nil => exact .refl ..
    | cons h hs =>
      obtain ⟨c, reason, fld, step⟩ := h
      simp only [State.haltMany]
      split
      · have met := (shuns_failMeets s c hl).trans (shuns_haltOne _ c reason fld step)
        exact met.trans (ih _ _ (met.down hl))
      · exact ih _ _ hl

theorem shuns_halt (s : State) (c reason fld step) (hl : (s.landing l).up = false) : Shuns l s (s.halt c reason fld step) :=
  shuns_haltMany _ _ _ hl

/-- A ferry channel's fault drops the channel's transactions (10 R431). -/
theorem shuns_ferryFault (s : State) (t ch fault fld) (at_ : Nat × Nat × Nat × Nat) (hl : (s.landing l).up = false) :
    Shuns l s (s.ferryFault t ch fault fld at_) := by
  unfold State.ferryFault
  extract_lets k f c copy step tag s1 s2 word s3 s4 s5
  have faulted : Shuns l s s1 := (Keeps.modFchan ..).shuns rfl rfl
  have dropped : Shuns l s1 s2 := ⟨rfl, fun x hx _ => (List.mem_filter.1 hx).1⟩
  have posted : Shuns l s3 s4 := by
    simp only [s4]
    split
    · exact (Keeps.event ..).shuns rfl rfl
    · exact .refl ..
  have stopped : Shuns l s s5 := faulted.trans (dropped.trans (((Keeps.bbox ..).shuns rfl rfl).trans (posted.trans ((Keeps.copiesStopped ..).shuns rfl rfl))))
  split
  · exact stopped
  · exact stopped.trans (shuns_halt _ _ _ _ _ (stopped.down hl))

/-! ### Transactions -/

theorem shuns_sendXact {k : Nat} (s : State) (x : Xact) (h : l ≠ k) : Shuns l s (s.sendXact x k) := by
  refine (shuns_putXacts s _ fun y hy hl => ?_).trans (shuns_sendMsg _ _ _ h)
  rcases List.mem_append.1 hy with hy | hy
  · exact hy
  · rw [List.mem_singleton.1 hy] at hl
    exact absurd hl.symm h

theorem shuns_pump (n t ch : Nat) (s : State) (hl : (s.landing l).up = false) : Shuns l s (State.pump n t ch s) := by
  induction n generalizing s with
  | zero => exact .refl ..
  | succ n ih =>
    simp only [State.pump]
    split
    · exact .refl ..
    split
    · exact .refl ..
    split
    next k hk =>
      have sent (f n x) : Shuns l s (((s.modFchan (16 * t + ch) f).viaMesh t k n).sendXact x k) :=
        (((Keeps.modFchan ..).shuns rfl rfl).trans ((Keeps.viaMesh ..).shuns rfl rfl)).trans (shuns_sendXact _ _ (ne_of_up hl (State.up_of_landFor hk)))
      exact (sent ..).trans (ih _ ((sent ..).down hl))
    next => exact shuns_ferryFault _ _ _ _ _ _ hl

theorem shuns_dropXact (s : State) (x : Xact) : Shuns l s (s.dropXact x) := ⟨rfl, fun _ hy _ => (List.mem_filter.1 hy).1⟩

theorem shuns_of_failXact (s : State) (x : Xact) (hl : (s.landing l).up = false) : Shuns l (s.dropXact x) (s.failXact x) := by
  have down := (shuns_dropXact s x).down hl
  simp only [State.failXact]
  split
  · have failed : Shuns l (s.dropXact x) ((s.dropXact x).lateFail 7 3 x.land (some x.part) x.dst x.addr 0) := (Keeps.lateFail ..).shuns rfl rfl
    exact failed.trans (shuns_pump _ _ _ _ (failed.down down))
  · exact shuns_ferryFault _ _ _ _ _ _ down

end

/-! ### The landing that went down -/

/-- Failing the transactions of `xs` one by one leaves of those on a landing that is down only what `xs` does not name. -/
theorem foldl_failXact_shuns {l : Nat} (xs : List Xact) (s : State) (hl : (s.landing l).up = false) :
    Shuns l s (xs.foldl (fun s x => if s.xacts.contains x then s.failXact x else s) s) ∧
      ∀ y ∈ (xs.foldl (fun s x => if s.xacts.contains x then s.failXact x else s) s).xacts, y.land = l → y ∉ xs := by
  induction xs generalizing s with
  | nil => exact ⟨.refl .., fun _ _ _ => List.not_mem_nil⟩
  | cons x xs ih =>
    rw [List.foldl_cons]
    have first : Shuns l s (if s.xacts.contains x then s.failXact x else s) ∧
        ∀ y ∈ (if s.xacts.contains x then s.failXact x else s).xacts, y.land = l → y ≠ x := by
      split
      next hx =>
        have failed := shuns_of_failXact s x hl
        exact ⟨(shuns_dropXact s x).trans failed, fun y hy hyl => by simpa using (List.mem_filter.1 (failed.xacts y hy hyl)).2⟩
      next hx => exact ⟨.refl .., fun y hy _ hyx => hx (by rw [← hyx]; simpa using hy)⟩
    obtain ⟨rest, gone⟩ := ih _ (first.1.down hl)
    refine ⟨first.1.trans rest, fun y hy hyl hmem => ?_⟩
    rcases List.mem_cons.1 hmem with rfl | hmem
    · exact first.2 y (rest.xacts y hy hyl) hyl rfl
    · exact gone y hy hyl hmem

theorem State.not_mem_routeLands {s : State} {l : Nat} (hl : (s.landing l).up = false) (d : Nat) : l ∉ s.routeLands d := by
  intro h
  simp only [State.routeLands] at h
  split at h
  · exact Bool.false_ne_true (hl.symm.trans (List.mem_filter.1 h).2)
  · exact absurd h List.not_mem_nil

/-- Settles O53: the landing is put down, its transactions fail one by one, and what follows from their failures leaves through
landings that are up (16 R613, R617). -/
theorem landingDownFailsItsTransactions : Obligations.LandingDownFailsItsTransactions := by
  intro s l
  have banks := Keeps.landingDown s l
  unfold State.landingDown State.failLanding at *
  generalize hu : s.modLanding l _ = u at *
  have down : (u.landing l).up = false ∧ (u.landing l).unack = [] := by
    rw [← hu, State.landing_modLanding]
    refine ⟨?_, rfl⟩
    simp only [Landing.up]
    split <;> rfl
  obtain ⟨shuns, gone⟩ := foldl_failXact_shuns (u.xacts.filter (fun x => x.land == l)) u down.1
  refine ⟨shuns.down down.1, by rw [shuns.landing, down.2], fun x hx hxl => ?_, State.not_mem_routeLands (shuns.down down.1),
    banks.same .mem (by decide), banks.same .pois (by decide)⟩
  exact gone x hx hxl (List.mem_filter.2 ⟨shuns.xacts x hx hxl, by simpa using hxl⟩)

end Sys2Proof.Machine
end

section
/-! The hash masks in use: a cold start alone reads them from the configuration store, and none begins in service (02 R69, R70). -/

namespace Sys2Proof.Machine

/-- A meaning's next state has the hash masks of `s`. -/
def KeepsMasks (s : State) (r : Result) : Prop := ∀ t, r = .next t → t.boot.hashMask = s.boot.hashMask

theorem KeepsMasks.next {s t : State} (h : t.boot.hashMask = s.boot.hashMask) : KeepsMasks s (.next t) := by
  rintro _ ⟨⟩
  exact h

theorem Keeps.masks_eq {L : List Field} {s t : State} (h : Keeps L s t) (hL : L.contains .boot = false := by rfl) :
    t.boot.hashMask = s.boot.hashMask := congrArg Boot.hashMask (h.same .boot (by simpa using hL))

theorem KeepsNext.masks {L : List Field} {s : State} {r : Result} (h : KeepsNext L s r) (hL : L.contains .boot = false) : KeepsMasks s r :=
  fun t ht => (h.keeps t ht).masks_eq hL

theorem State.ite_masks {p : Prop} [Decidable p] {s t u : State} (ht : t.boot.hashMask = s.boot.hashMask)
    (hu : u.boot.hashMask = s.boot.hashMask) : (if p then t else u).boot.hashMask = s.boot.hashMask := by
  split <;> assumption

/-! ### The shared operations that write the boot state -/

theorem State.unpowered_masks (s : State) : s.unpowered.boot.hashMask = s.boot.hashMask := (Keeps.settleSpares s).masks_eq

theorem State.overheat_masks (s : State) (t c : Nat) : (s.overheat t c).boot.hashMask = s.boot.hashMask := by
  unfold State.overheat
  extract_lets s1
  have recorded : Keeps [.free, .hubs] s s1 := (Keeps.bbox_iff _ _ _ _ _ _ _ (by decide)).2 ((Keeps.putFree ..).mono (by decide))
  have flushed : Keeps [.hubs] s1 ((List.range 16).foldl (fun s u => s.modHub u (fun h => { h with bb := h.bb.flush u 66 })) s1) :=
    Keeps.foldl _ (fun _ _ => Keeps.modHub ..) _ _
  exact (State.unpowered_masks _).trans (flushed.masks_eq.trans recorded.masks_eq)

theorem State.takeId_masks (s : State) : s.takeId.boot.hashMask = s.boot.hashMask := by
  unfold State.takeId
  split <;> rfl

theorem State.resetHubs_masks (s : State) : s.resetHubs.boot.hashMask = s.boot.hashMask := rfl

theorem State.warmReset_masks (s : State) (cause : Nat) (r : BootReport) : (s.warmReset cause r).boot.hashMask = s.boot.hashMask := by
  have settled : (s.settleAll r).boot.hashMask = s.boot.hashMask := (Keeps.settleAll s r).masks_eq (by decide)
  unfold State.warmReset
  generalize s.settleAll r = u at settled ⊢
  extract_lets s1
  have slept : s1.boot.hashMask = u.boot.hashMask := State.takeId_masks u.resetHubs
  exact State.ite_masks rfl (slept.trans settled)

/-- Retiring a tile moves at most the lead role (18 R698). -/
theorem State.retireTile_masks (s : State) (t cause : Nat) (readable : Bool) :
    (s.retireTile t cause readable).boot.hashMask = s.boot.hashMask := by
  unfold State.retireTile
  extract_lets cs owners slots s0 s1 s2 s3 s4 s5 boot s6
  refine State.ite_masks rfl ?_
  have recorded : Keeps [.hubs] s s0 := Keeps.bbox ..
  have halted := Keeps.foldl_within (L := haltParts) (fun (u : State) c => Keeps.halt u c 0x13 15 (u.ctx c).next) (by decide) cs s s0
  have told := Keeps.foldl_within (L := haltParts) (fun (u : State) p => Keeps.event u p 6 [(16, 1, t), (17, 1, 0)]) (by decide) owners s s1
  have unbound (u : State) (c : Nat) : Keeps [.ctxs, .parts] u ((u.unbindCtx c).modCtx c (fun _ => {})) := by
    simp (disch := decide) only [Keeps.self_iff, Keeps.modCtx_iff, Keeps.unbindCtx_iff]
  have freed := Keeps.foldl_within (L := haltParts) unbound (by decide) cs s s2
  have contexts : Keeps haltParts s s3 := freed.2 (told.2 (halted.2 (recorded.mono (by decide))))
  have landing : Keeps portDownParts s3 s4 := by
    simp (disch := decide) only [s4, Keeps.noteCover_iff, Keeps.landingDown_iff, Keeps.modHub_iff, Keeps.self_iff]
  have port : Keeps portDownParts s4 s5 := .ite (.mono (Keeps.losePort ..) (by decide)) (.refl ..)
  have lead : s6.boot.hashMask = s5.boot.hashMask := State.ite_masks rfl rfl
  have moved (sl : List Nat) (r : Bool) :
      Keeps (.slots :: .parcels :: portDownParts) s6 (sl.foldl (fun u i => u.evacuate r i) s6) :=
    Keeps.foldl _ (fun _ _ => .mono (Keeps.evacuate ..) (by decide)) _ _
  exact (moved ..).masks_eq.trans (lead.trans (port.masks_eq.trans (landing.masks_eq.trans contexts.masks_eq)))

theorem State.specialWrite_masks (s : State) (p off v : Nat) : (s.specialWrite p off v).boot.hashMask = s.boot.hashMask := by
  unfold State.specialWrite
  have group (f : Group → Group) : (s.groupWrite f).boot.hashMask = s.boot.hashMask := (Keeps.groupWrite s f).masks_eq
  exact State.ite_masks (State.ite_masks rfl rfl) (State.ite_masks rfl (State.ite_masks rfl (State.ite_masks (group _) (State.ite_masks (group _) (State.ite_masks (group _)
    (State.ite_masks rfl (State.ite_masks (State.ite_masks rfl rfl) rfl)))))))

/-! ### In service no cold start goes on -/

theorem Boot.awaitsClock_of_inService {b : Boot} (h : b.phase = 15) : b.awaitsClock = false := by
  simp [Boot.awaitsClock, h]

theorem State.clockSettled_of_inService {s : State} (h : s.boot.phase = 15) (t : Nat) (f : Hub → Hub) : s.clockSettled t f = s :=
  if_pos (.inl (Boot.awaitsClock_of_inService h))

/-- Every command keeps the masks in service: those that write the boot state leave its masks, and every other leaves the boot state. -/
theorem exec_masks (c : Instr) {s : State} (h : s.boot.phase = 15) : KeepsMasks s (exec c s) := by
  cases c with
  | powerOn r => exact .next (State.ite_masks rfl s.unpowered_masks)
  | crystalQualified t => exact .next (congrArg (fun u : State => u.boot.hashMask) (State.clockSettled_of_inService h ..))
  | crystalQualifyTimeout t =>
    exact .next (congrArg (fun u : State => u.boot.hashMask) (if_neg fun waits => Bool.false_ne_true ((Boot.awaitsClock_of_inService h).symm.trans waits.1)))
  | coolantQualified => exact .next (congrArg (fun u : State => u.boot.hashMask) (if_pos (.inr (.inl h))))
  | powerReturn r => exact .next (State.ite_masks (State.ite_masks (State.warmReset_masks ..) rfl) rfl)
  | inputLoss => exact .next (State.ite_masks s.unpowered_masks rfl)
  | warmReset r => exact .next (State.ite_masks (State.warmReset_masks ..) rfl)
  | watchdogExpiry t r =>
    refine .next ?_
    split
    · rfl
    refine State.ite_masks ((State.warmReset_masks ..).trans ?_) ?_ <;> refine State.ite_masks ?_ ?_
    all_goals simp only [(Keeps.fwRevert _).masks_eq, State.modTran_boot, (Keeps.bbox ..).masks_eq, State.modHub_boot]
  | timestampCheckpoint => exact .next (State.ite_masks rfl rfl)
  | hubTempSample t temp => exact .next (State.ite_masks (State.overheat_masks ..) rfl)
  | recentre ch runs sweeps =>
    refine .next (State.ite_masks rfl (State.ite_masks rfl (State.ite_masks ((State.retireTile_masks ..).trans ?_) ?_))) <;>
      exact (Keeps.noteEye ..).masks_eq
  | hashRecordWrite masks => exact .next (State.ite_masks rfl rfl)
  | modidDkeyWrite modid dkey => exact .next (State.ite_masks rfl rfl)
  | tileRetire t cause readable => exact .next (State.retireTile_masks ..)
  | registerWrite port vf off value =>
    have special : (((s.storedWrite port off.toNat value.toNat).specialWrite port off.toNat value.toNat)).boot.hashMask = s.boot.hashMask :=
      (State.specialWrite_masks ..).trans (Keeps.storedWrite ..).masks_eq
    exact .next (State.ite_masks rfl (State.ite_masks (State.ite_masks rfl rfl) (State.ite_masks rfl
      (State.ite_masks ((Keeps.reviewAll _).masks_eq.trans special) special))))
  | hubLogicFault t => exact .next (State.ite_masks rfl (State.ite_masks (State.retireTile_masks ..) rfl))
  | _ => exact (exec_keeps _ s).masks rfl

/-- Settles O50: a cold start alone takes the record's masks, and none goes on in service (02 R69, R70). -/
theorem hashMasksFixedInService : Obligations.HashMasksFixedInService := fun c _ t hphase hnext => exec_masks c hphase t hnext

end Sys2Proof.Machine
end

section
/-! What a next state is shown to have, and reads of tables written at many numbers or everywhere. -/

namespace Sys2Proof.Machine

theorem Does.next {c : Instr} {s t : State} {P : State → Prop} (hc : exec c s = .next t) (h : P t) : Does c s P := ⟨t, hc, h⟩

/-! ### Members of the parts an operation keeps -/

section
variable {L : List Field} {s t : State}

theorem Keeps.parcel_eq (h : Keeps L s t) (hL : L.contains .parcels = false) (k : Nat) : t.parcel k = s.parcel k :=
  congrArg (Tab.get (fun _ => ({} : Parcel)) · k) (h.same .parcels (by simpa using hL))

theorem Keeps.bspare_eq (h : Keeps L s t) (hL : L.contains .bspares = false) (k : Nat) : t.bspare k = s.bspare k :=
  congrArg (Tab.get (fun _ => ({} : BankSpares)) · k) (h.same .bspares (by simpa using hL))

theorem Keeps.stack_eq (h : Keeps L s t) (hL : L.contains .stks = false) (k : Nat) : t.stack k = s.stack k :=
  congrArg (Tab.get (fun _ => ({} : StackSpares)) · k) (h.same .stks (by simpa using hL))

theorem Keeps.chan_eq (h : Keeps L s t) (hL : L.contains .chans = false) (k : Nat) : t.chan k = s.chan k :=
  congrArg (Tab.get (fun _ => ({} : Channel)) · k) (h.same .chans (by simpa using hL))

theorem Keeps.nbu_eq (h : Keeps L s t) (hL : L.contains .nbus = false) (k : Nat) : t.nbu k = s.nbu k :=
  congrArg (Tab.get (fun _ => ({} : Nbu)) · k) (h.same .nbus (by simpa using hL))

theorem Keeps.cru_eq (h : Keeps L s t) (hL : L.contains .crus = false) (k : Nat) : t.cru k = s.cru k :=
  congrArg (Tab.get (fun _ => ({} : SumBuf)) · k) (h.same .crus (by simpa using hL))

theorem Keeps.mat_eq (h : Keeps L s t) (hL : L.contains .me = false) (k : Nat) : t.mat k = s.mat k :=
  congrArg (Tab.get (fun _ => ({} : Matrix)) · k) (h.same .me (by simpa using hL))

theorem Keeps.vec_eq (h : Keeps L s t) (hL : L.contains .ve = false) (k : Nat) : t.vec k = s.vec k :=
  congrArg (Tab.get (fun _ => ({} : Vector)) · k) (h.same .ve (by simpa using hL))

theorem Keeps.vfile_eq (h : Keeps L s t) (hL : L.contains .vfiles = false) (k : Nat) : t.vfile k = s.vfile k :=
  congrArg (Tab.get (fun _ => ({} : VFile)) · k) (h.same .vfiles (by simpa using hL))

theorem Keeps.fchan_eq (h : Keeps L s t) (hL : L.contains .fe = false) (k : Nat) : t.fchan k = s.fchan k :=
  congrArg (Tab.get (fun _ => ({} : FeChan)) · k) (h.same .fe (by simpa using hL))

theorem Keeps.ctx_eq (h : Keeps L s t) (hL : L.contains .ctxs = false) (k : Nat) : t.ctx k = s.ctx k :=
  congrArg (Tab.get (fun _ => ({} : Ctx)) · k) (h.same .ctxs (by simpa using hL))

theorem Keeps.part_eq (h : Keeps L s t) (hL : L.contains .parts = false) (k : Nat) : t.part k = s.part k :=
  congrArg (Tab.get (fun _ => ({} : Part)) · k) (h.same .parts (by simpa using hL))

theorem Keeps.page_eq (h : Keeps L s t) (hL : L.contains .pages = false) (k : Nat) : t.page k = s.page k :=
  congrArg (Tab.get (fun _ => ({} : Page)) · k) (h.same .pages (by simpa using hL))

theorem Keeps.stream_eq (h : Keeps L s t) (hL : L.contains .streams = false) (k : Nat) : t.stream k = s.stream k :=
  congrArg (Tab.get (fun _ => ({} : Stream)) · k) (h.same .streams (by simpa using hL))

theorem Keeps.hport_eq (h : Keeps L s t) (hL : L.contains .ports = false) (k : Nat) : t.hport k = s.hport k :=
  congrArg (Tab.get (fun _ => ({} : Port)) · k) (h.same .ports (by simpa using hL))

theorem Keeps.dir_eq (h : Keeps L s t) (hL : L.contains .dirs = false) (k : Nat) : t.dir k = s.dir k :=
  congrArg (Tab.get (fun _ => ([] : List Dir)) · k) (h.same .dirs (by simpa using hL))

theorem Keeps.tran_eq (h : Keeps L s t) (hL : L.contains .trans = false) (k : Nat) : t.tran k = s.tran k :=
  congrArg (Tab.get (fun _ => ({} : Translator)) · k) (h.same .trans (by simpa using hL))

theorem Keeps.group_eq (h : Keeps L s t) (hL : L.contains .groups = false) (k : Nat) : t.group k = s.group k :=
  congrArg (Tab.get (fun _ => ({} : Group)) · k) (h.same .groups (by simpa using hL))

theorem Keeps.counter_eq (h : Keeps L s t) (hL : L.contains .pm = false) (k : Nat) : t.counter k = s.counter k :=
  congrArg (Tab.get (fun _ => ({} : Counter)) · k) (h.same .pm (by simpa using hL))

theorem Keeps.trans {u : State} (h : Keeps L s t) (g : Keeps L t u) : Keeps L s u := h.via g (by simp)

/-- What two operations in a row may change. -/
theorem Keeps.append {M : List Field} {u : State} (h : Keeps L s t) (g : Keeps M t u) : Keeps (L ++ M) s u :=
  ⟨fun f hf => f.same_trans (h.same f fun hm => hf (List.mem_append_left _ hm)) (g.same f fun hm => hf (List.mem_append_right _ hm))⟩

theorem Keeps.slot_eq (h : Keeps L s t) (hL : L.contains .slots = false) (hh : L.contains .half = false) (k : Nat) : t.slot k = s.slot k := by
  have half : t.half = s.half := h.same .half (by simpa using hh)
  have slots : t.slots = s.slots := h.same .slots (by simpa using hL)
  rw [State.slot, State.slot, half, slots]

end

/-! ### Next states -/

theorem next_congr {t u : State} (h : t = u) : (.next t : Result) = .next u := congrArg _ h

section
variable {α : Type} [DecidableEq α] (d : Nat → α)

theorem Tab.get_updMany_ne (f : α → α) (ks : List Nat) (t : Tab α) (j : Nat) (h : j ∉ ks) :
    Tab.get d (Tab.updMany d f ks t) j = Tab.get d t j := by
  induction ks generalizing t with
  | nil => rfl
  | cons k ks ih =>
    obtain ⟨hk, hks⟩ := not_or.1 (List.mem_cons.not.1 h)
    rw [Tab.updMany, ih _ hks, Tab.get_upd_ne _ _ _ _ _ hk]

/-- A property that `f` gives every value, and then leaves it. -/
theorem Tab.get_updMany_has {P : α → Prop} (f : α → α) (hf : ∀ x, P (f x)) (ks : List Nat) (t : Tab α) (j : Nat)
    (h : P (Tab.get d t j) ∨ j ∈ ks) : P (Tab.get d (Tab.updMany d f ks t) j) := by
  induction ks generalizing t with
  | nil => simpa [Tab.updMany] using h
  | cons k ks ih =>
    refine ih _ ?_
    by_cases hk : j = k
    · subst hk
      exact .inl (by rw [Tab.get_upd_same]; exact hf _)
    · rw [Tab.get_upd_ne _ _ _ _ _ hk]
      exact h.imp_right fun hj => (List.mem_cons.1 hj).resolve_left hk

/-- A number written once has `f` of its value. -/
theorem Tab.get_updMany_same (f : α → α) (ks : List Nat) (t : Tab α) (j : Nat) (h : j ∈ ks) (hd : ks.Nodup) :
    Tab.get d (Tab.updMany d f ks t) j = f (Tab.get d t j) := by
  induction ks generalizing t with
  | nil => exact absurd h List.not_mem_nil
  | cons k ks ih =>
    obtain ⟨hk, hks⟩ := List.nodup_cons.1 hd
    rw [Tab.updMany]
    rcases List.mem_cons.1 h with rfl | hj
    · rw [Tab.get_updMany_ne _ _ _ _ _ hk, Tab.get_upd_same]
    · rw [ih _ hj hks, Tab.get_upd_ne _ _ _ _ _ (by rintro rfl; exact hk hj)]

end

end Sys2Proof.Machine
end

section
/-! Commands outside their mode only set SEQERR (06 R231). -/

namespace Sys2Proof.Machine

/-- What a command outside its mode that names the banks `js` of channel `ch` does. -/
def OnlySeqerr (s : State) (ch : Nat) (js : List Nat) (t : State) : Prop :=
  (∀ j ∈ js, (t.nbu (bankOf ch j)).seqerr = true) ∧ (∀ b, (∀ j ∈ js, b ≠ bankOf ch j) → t.nbu b = s.nbu b) ∧ Keeps [.nbus] s t

theorem State.wrongMode_nbu_seqerr (s : State) (ch : Nat) (js : List Nat) (j : Nat) (h : j ∈ js) :
    ((s.wrongMode ch js).nbu (bankOf ch j)).seqerr = true :=
  Tab.get_updMany_has (P := fun n : Nbu => n.seqerr = true) _ _ (fun _ => rfl) _ _ _ (.inr (List.mem_map_of_mem h))

theorem State.wrongMode_nbu_ne (s : State) (ch : Nat) (js : List Nat) (b : Nat) (h : ∀ j ∈ js, b ≠ bankOf ch j) :
    (s.wrongMode ch js).nbu b = s.nbu b :=
  Tab.get_updMany_ne _ _ _ _ _ fun hb => by
    obtain ⟨j, hj, rfl⟩ := List.mem_map.1 hb
    exact h j hj rfl

theorem State.wrongMode_onlySeqerr (s : State) (ch : Nat) (js : List Nat) : OnlySeqerr s ch js (s.wrongMode ch js) :=
  ⟨s.wrongMode_nbu_seqerr ch js, s.wrongMode_nbu_ne ch js, .wrongMode s ch js⟩

theorem does_onlySeqerr {c : Instr} {s : State} {ch : Nat} {js : List Nat} (h : exec c s = .next (s.wrongMode ch js)) :
    Does c s (OnlySeqerr s ch js) := .next h (s.wrongMode_onlySeqerr ch js)

/-- Near-bank commands in another mode, by command. -/
theorem exec_outsideNearBank (s : State) (ch : Fin 1536) (rank : BitVec 5) (bank allr : Bool) (row q : BitVec 16) (data : BitVec 256)
    (beat : BitVec 272) (flips : List (Fin 48 × BitVec 272)) (reads : List (List (Fin 8 × BitVec 272))) (beats : List (BitVec 272))
    (mask : BitVec 8) (col : BitVec 6) (group : BitVec 3) (buf : BitVec 4) (hr : rank.toNat < 24) (hm : (s.chan ch).mode ≠ .nearBank) :
    ∀ p ∈ [(Instr.swt ch, allBanks), (.nrf ch, allBanks), (.bbq ch q, allBanks), (.bbw ch data flips, allBanks),
        (.ccl ch col, allBanks), (.aha ch rank bank row, [2 * rank.toNat + nat bank]), (.nnr ch rank bank, [2 * rank.toNat + nat bank]),
        (.acr ch rank bank group buf reads, [2 * rank.toNat + nat bank]), (.cfgw ch rank beat, rankBanks rank.toNat),
        (.str ch rank beats, rankBanks rank.toNat), (.acl ch rank allr mask, if allr then allBanks else rankBanks rank.toNat)],
      exec p.1 s = .next (s.wrongMode ch p.2) := by
  have hr' : ¬ 24 ≤ rank.toNat := by omega
  simp only [List.forall_mem_cons]
  refine ⟨?_, ?_, ?_, ?_, ?_, ?_, ?_, ?_, ?_, ?_, ?_, List.forall_mem_nil _⟩
  · exact congrArg _ (if_pos hm)
  · exact congrArg _ (if_pos hm)
  · exact congrArg _ (if_pos hm)
  · exact congrArg _ (if_pos hm)
  · exact congrArg _ (if_pos hm)
  · exact congrArg _ ((if_neg hr').trans (if_pos hm))
  · exact congrArg _ ((if_neg hr').trans (if_pos hm))
  · exact congrArg _ ((if_neg hr').trans (if_pos hm))
  · exact congrArg _ ((if_neg hr').trans (if_pos hm))
  · have unsynced : ¬ (rank.toNat < 24 ∧ (s.chan ch).mode = .nearBank) := fun h => hm h.2
    simp only [exec, execStr, if_neg unsynced, if_neg hr', if_pos hm]
  · exact congrArg _ ((if_neg hr').trans (if_pos hm))

theorem mem_allBanks {j : Nat} : j ∈ allBanks ↔ j < 48 := List.mem_range

/-- A bank of another channel is none of the channel's banks. -/
theorem ne_bankOf {b ch j : Nat} (hb : chanOfBank b ≠ ch) (hj : j ∈ allBanks) : b ≠ bankOf ch j := by
  rintro rfl
  have := mem_allBanks.1 hj
  exact hb (by simp only [chanOfBank, bankOf]; omega)

/-- Settles O54: each command is `wrongMode` of the banks it names (06 R231). -/
theorem nearBankCommandsOutsideTheirMode : Obligations.NearBankCommandsOutsideTheirMode := by
  refine ⟨fun s ch rank bank allr row q data beat flips reads beats mask col group buf hr hm p hp => ?_, fun s ch cmd h => ?_⟩
  · exact does_onlySeqerr (exec_outsideNearBank s ch rank bank allr row q data beat flips reads beats mask col group buf hr hm p hp)
  · have run : exec cmd s = .next (s.wrongMode ch allBanks) := by
      rcases h with ⟨rfl, hm⟩ | ⟨rfl, hm⟩ <;> exact congrArg _ (if_pos hm)
    obtain ⟨t, ht, set, rest, keeps⟩ := does_onlySeqerr run
    exact ⟨t, ht, fun j hj => set j (mem_allBanks.2 hj), fun b hb => rest b fun _ hj => ne_bankOf hb hj, keeps⟩

end Sys2Proof.Machine
end

section
/-! The parity of a row is linear in its data, whatever the generator (03 R80, R95). -/

namespace Sys2Proof.Machine

theorem polyMod_xor (g deg n a b : Nat) : polyMod g deg n (a ^^^ b) = polyMod g deg n a ^^^ polyMod g deg n b := by
  induction n generalizing a b with
  | zero => rfl
  | succ n ih =>
    simp only [polyMod, ← ih, Nat.testBit_xor]
    cases a.testBit (deg + n) <;> cases b.testBit (deg + n) <;> congr 1
    · exact Nat.xor_assoc ..
    · exact Nat.xor_right_comm ..
    · show a ^^^ b = a ^^^ g <<< n ^^^ (b ^^^ g <<< n)
      rw [Nat.xor_comm b, Nat.xor_assoc, ← Nat.xor_assoc (g <<< n), Nat.xor_self, Nat.zero_xor]

theorem pageParity_xor (t a b : Nat) : pageParity t (a ^^^ b) = pageParity t a ^^^ pageParity t b := by
  rw [pageParity, Nat.shiftLeft_xor_distrib, polyMod_xor]
  rfl

/-- Settles O55: the parity is linear, so the difference's parity turns the old row's into the new row's (03 R95). -/
theorem parityUpdateEncodesTheRow : Obligations.ParityUpdateEncodesTheRow := by
  intro t old new
  rw [parityUpdate, ← pageParity_xor, ← Nat.xor_assoc, Nat.xor_self, Nat.zero_xor]

end Sys2Proof.Machine
end

section
/-! What a halt leaves of the contexts: the one named is halted, and one that no halt reaches is as it was (11 R468, R469; 16 R631). -/

namespace Sys2Proof.Machine

/-- Of the contexts, a stop touches only the one it stops. -/
theorem State.stopEngines_ctxs (s : State) (c : Nat) : ∃ u : State, (∀ d, u.ctx d = s.ctx d) ∧
    ∀ d, (s.stopEngines c).ctx d = (u.modCtx c (fun x => { x with nbq := [], nbrun := none, gq := none, outst := [], access := none })).ctx d := by
  unfold State.stopEngines
  extract_lets t s1 chans copies s2 s3 mark s4 s5
  have before : Keeps [.me, .ve, .fe, .hubs, .chans, .xacts, .crus] s s5 := by
    simp (disch := decide) only [s5, s4, s3, s2, s1, Keeps.foldl_within fun _ _ => Keeps.modFchan .., Keeps.modVec_iff, Keeps.modMat_iff,
      Keeps.putHubs_iff, Keeps.putCrus_iff, Keeps.putXacts_iff, Keeps.putChans_iff, Keeps.modHub_iff, Keeps.self_iff]
  exact ⟨s5, before.ctx_eq rfl, (Keeps.copiesStopped ..).ctx_eq rfl⟩

theorem State.stopEngines_ctx (s : State) (c : Nat) : (s.stopEngines c).ctx c =
    { s.ctx c with nbq := [], nbrun := none, gq := none, outst := [], access := none } := by
  obtain ⟨u, before, stopped⟩ := s.stopEngines_ctxs c
  rw [stopped, State.ctx_modCtx, before]

theorem State.stopEngines_ctx_ne (s : State) (c d : Nat) (h : d ≠ c) : (s.stopEngines c).ctx d = s.ctx d := by
  obtain ⟨u, before, stopped⟩ := s.stopEngines_ctxs c
  rw [stopped, State.ctx_modCtx_ne _ _ _ _ h, before]

/-- A context halted at `step`, nothing of it outstanding. -/
def Ctx.haltedAt (x : Ctx) (reason fld step : Nat) : Ctx :=
  { x with nbq := [], nbrun := none, gq := none, outst := [], access := none, st := .halted, reason := reason, hfield := fld, hstep := step
           haddr := x.man.steps + 32 * step, start := none, waitCm := false, waitQ := false, waitMb := false }

theorem State.haltOne_ctx (s : State) (c reason fld step : Nat) (h : (s.ctx c).live = true) :
    (s.haltOne c reason fld step).ctx c = (s.ctx c).haltedAt reason fld step := by
  unfold State.haltOne
  extract_lets x addr s1 status s2 s3
  have stopped : s1.ctx c = x.haltedAt reason fld step := by
    rw [State.ctx_modCtx, State.stopEngines_ctx]
    rfl
  have answered : Keeps [.parts, .pages, .ports, .act, .out] s1 s2 := by
    simp only [s2]
    split
    · exact Keeps.complete ..
    · exact .refl ..
  rw [if_pos h, (Keeps.trace ..).ctx_eq rfl, (Keeps.bbox ..).ctx_eq rfl, answered.ctx_eq rfl, stopped]

theorem State.haltOne_ctx_ne (s : State) (c reason fld step d : Nat) (h : d ≠ c) : (s.haltOne c reason fld step).ctx d = s.ctx d := by
  unfold State.haltOne
  extract_lets x addr s1 status s2 s3
  have answered : Keeps [.parts, .pages, .ports, .act, .out] s1 s2 := by
    simp only [s2]
    split
    · exact Keeps.complete ..
    · exact .refl ..
  split
  · rw [(Keeps.trace ..).ctx_eq rfl, (Keeps.bbox ..).ctx_eq rfl, answered.ctx_eq rfl, State.ctx_modCtx_ne _ _ _ _ h,
      State.stopEngines_ctx_ne _ _ _ h]
  · rfl

theorem State.failMeets_ctx (s : State) (c d : Nat) : (s.failMeets c).ctx d = s.ctx d := (Keeps.failMeets s c).ctx_eq rfl d

/-- A context that no halt reaches stays as it is. -/
theorem State.haltMany_ctx_of_dead (n : Nat) (hs : List (Nat × Nat × Nat × Nat)) (s : State) (d : Nat) (h : (s.ctx d).live = false) :
    (State.haltMany n hs s).ctx d = s.ctx d := by
  induction n generalizing hs s with
  | zero => rfl
  | succ n ih =>
    cases hs with
    | nil => rfl
    | cons e hs =>
      obtain ⟨c, reason, fld, step⟩ := e
      rw [State.haltMany]
      split
      next hc =>
        have other : ((s.failMeets c).haltOne c reason fld step).ctx d = s.ctx d := by
          rw [State.haltOne_ctx_ne _ _ _ _ _ _ (by rintro rfl; exact Bool.false_ne_true (h.symm.trans hc)), State.failMeets_ctx]
        rw [ih _ _ (by rwa [other]), other]
      · exact ih _ _ h

theorem Ctx.live_haltedAt (x : Ctx) (reason fld step : Nat) : (x.haltedAt reason fld step).live = false := rfl

/-- A halt of a live context halts it; the halts it causes come after and leave it. -/
theorem State.halt_ctx (s : State) (c reason fld step : Nat) (h : (s.ctx c).live = true) :
    (s.halt c reason fld step).ctx c = (s.ctx c).haltedAt reason fld step := by
  have halted : ((s.failMeets c).haltOne c reason fld step).ctx c = (s.ctx c).haltedAt reason fld step := by
    rw [State.haltOne_ctx _ _ _ _ _ (by rwa [State.failMeets_ctx]), State.failMeets_ctx]
  rw [State.halt, State.haltMany, if_pos h, State.haltMany_ctx_of_dead _ _ _ _ (by rw [halted]; rfl), halted]

theorem State.halt_ctx_of_dead (s : State) (c reason fld step d : Nat) (h : (s.ctx d).live = false) :
    (s.halt c reason fld step).ctx d = s.ctx d := State.haltMany_ctx_of_dead _ _ _ _ h

theorem Ctx.live_of_running {x : Ctx} (h : x.st = .running) : x.live = true := by simp [Ctx.live, h]

/-! ### A step that fails decode -/

section
variable {s : State} {c : Nat} {bw : BitVec 256} {bad : Bool} (hst : (s.ctx c).st = .running) (hp : (s.ctx c).pend = false)
  (ha : (s.ctx c).access = none) (hf : Tab.get (fun _ => none) (s.ctx c).cache (s.ctx c).next = some (bw, bad))
include hst hp ha hf

/-- A poisoned step halts whatever operation is asked (R468). -/
theorem State.issue_of_bad (hb : bad = true) (eng op : Nat) (mb : Nat → Bool) (f : Nat → Nat → State → State) :
    s.issue c eng op mb f = s.halt c 0x0A 15 (s.ctx c).next := by
  simp [State.issue, hst, hp, ha, hf, hb]

theorem State.issue_of_decodeHalt (hb : bad = false) {k : Check} (hk : s.decodeHalt c bw.toNat = some k) (eng op : Nat) (mb : Nat → Bool)
    (f : Nat → Nat → State → State) : s.issue c eng op mb f = s.halt c k.1 k.2 (s.ctx c).next := by
  simp [State.issue, hst, hp, ha, hf, hb, hk]

end

/-- The commands that issue a step are `issue` of their operation. -/
theorem exec_isIssue (s : State) (c : Fin 64) :
    ∀ i ∈ [Instr.nop c, .xset c, .amov c, .cmset c, .split c, .event c, .endStep c, .replay c, .xld c, .xst c, .mbxr c, .mbxw c,
        .mmul c, .mwake c, .vchain c, .fcopy c, .fxpose c, .fgather c, .fscatter c, .nbpass c, .gbar c, .gbcast c, .gred c, .gsnap c],
      ∃ eng op mb f, exec i s = .next (s.issue c eng op mb f) := by
  simp only [List.forall_mem_cons]
  repeat' constructor
  exact List.forall_mem_nil _

/-- Settles O27: every operation's command finds the same halt before it looks at the operation (11 R468, R469). -/
theorem decodeFailureHalts : Obligations.DecodeFailureHalts := by
  intro s c bw bad hst hp ha hf i hi
  obtain ⟨eng, op, mb, f, run⟩ := exec_isIssue s c i hi
  have live := Ctx.live_of_running hst
  refine ⟨fun hb => .next run ?_, fun reason fld hb hk => .next run ?_⟩
  · rw [State.issue_of_bad hst hp ha hf hb, State.halt_ctx _ _ _ _ _ live]
    exact ⟨rfl, rfl, rfl, rfl⟩
  · rw [State.issue_of_decodeHalt hst hp ha hf hb hk, State.halt_ctx _ _ _ _ _ live]
    exact ⟨rfl, rfl, rfl, rfl, rfl⟩

end Sys2Proof.Machine
end

section
/-! The records of the sideband, and channel commands that are ignored (02 R70; 04 R160; 06 R218, R231; 16 R611). -/

namespace Sys2Proof.Machine

/-- Settles O9: each record goes to its own field of the boot state, and only where the sideband answers (02 R70; 16 R611; 20 R738). -/
theorem sidebandRecordsWait : Obligations.SidebandRecordsWait := by
  refine ⟨fun s masks hlen hs => ?_, fun s modid dkey hs => ?_, fun s masks modid dkey image hdown => ?_⟩
  · have nine : (masks.map (fun w => w.toNat &&& 0x03FFFFFE)).length = 9 := by rw [List.length_map, hlen]
    exact .next (next_congr (if_pos ⟨nine, hs⟩)) ⟨rfl, rfl, .putBoot ..⟩
  · exact .next (next_congr (if_pos hs)) ⟨rfl, rfl, rfl, .putBoot ..⟩
  · have silent : s.sideband = false := by
      rcases hdown with h | ⟨h0, h4⟩
      · simp [State.sideband, h]
      · simp [State.sideband, h0, h4]
    have off : ¬ s.sideband = true := by simp [silent]
    exact ⟨next_congr (if_neg fun h => off h.2), next_congr (if_neg off), next_congr (if_neg off)⟩

/-! ### A command in error -/

/-- The channel once the command `x` is reported in error: counted, and held (04 R160, R162). -/
def Channel.reported (c : Channel) (x : BusCmd) (now : Nat) : Channel := (c.countError now).holdError { x with waiting := true }

/-- How often the command `x` has failed once it is reported again (04 R160). -/
def Channel.failsOf (c : Channel) (x : BusCmd) : Nat :=
  match c.caHeld with
  | some y => if y.column = x.column ∧ y.word = x.word ∧ y.line = x.line ∧ y.who = x.who then y.fails + 1 else 1
  | none => 1

/-- What a report in error leaves of a channel. -/
structure Reported (c d : Channel) (x : BusCmd) : Prop where
  /-- it is counted -/
  caerr : d.caerr = satNat 8 (c.caerr + 1)
  /-- the command is held -/
  held : d.caHeld = some { x with waiting := true, fails := c.failsOf x }
  /-- the banks are as they were -/
  banks : d.banks = c.banks
  /-- and the mode registers -/
  mrs : d.mrs = c.mrs
  /-- and the read queue -/
  readQ : d.readQ = c.readQ
  /-- and the write queue -/
  writeQ : d.writeQ = c.writeQ

theorem Channel.reported_spec (c : Channel) (x : BusCmd) (now : Nat) : Reported c (c.reported x now) x := by
  cases hc : c.caHeld <;> constructor <;> simp [Channel.reported, Channel.holdError, Channel.failsOf, Channel.countError, hc]

theorem State.reportError_chan (s : State) (ch : Nat) (x : BusCmd) : Reported (s.chan ch) ((s.reportError ch x).chan ch) x := by
  have h := (s.chan ch).reported_spec x s.cyc
  unfold State.reportError
  extract_lets s1
  have first : s1.chan ch = (s.chan ch).reported x s.cyc := State.chan_modChan ..
  split
  · rw [State.chan_modChan, first]
    exact ⟨h.caerr, h.held, h.banks, h.mrs, h.readQ, h.writeQ⟩
  · rwa [first]

theorem State.reportError_chan_ne (s : State) (ch k : Nat) (x : BusCmd) (h : k ≠ ch) : (s.reportError ch x).chan k = s.chan k := by
  unfold State.reportError
  extract_lets s1
  have first : s1.chan k = s.chan k := State.chan_modChan_ne _ _ _ _ h
  split
  · rw [State.chan_modChan_ne _ _ _ _ h, first]
  · exact first

/-- Commands that name no rank are reported in error, as their word. -/
theorem exec_badRank {s : State} {ch : Fin 1536} {rank : BitVec 5} {bank both ap : Bool} {row : BitVec 16} {col : BitVec 6}
    {who : BitVec 5} {allr : Bool} {reg value : BitVec 8} {data : BitVec 256} (h : 24 ≤ rank.toNat) :
    ∀ c ∈ [Instr.act ch rank bank row who, .pre ch rank bank both, .ref ch rank bank, .mrw ch rank allr reg value,
        .mrr ch rank reg, .rd ch rank bank col ap, .wr ch rank bank col ap data],
      ∃ column word, exec c s = .next (s.badRank ch column word) := by
  simp only [List.forall_mem_cons]
  exact ⟨⟨_, _, next_congr (if_pos h)⟩, ⟨_, _, next_congr (if_pos h)⟩, ⟨_, _, next_congr (if_pos h)⟩, ⟨_, _, next_congr (if_pos h)⟩,
    ⟨_, _, next_congr (if_pos h)⟩, ⟨_, _, next_congr (if_pos h)⟩, ⟨_, _, next_congr (if_pos h)⟩, List.forall_mem_nil _⟩

/-- Conventional commands of one bank in near-bank mode. -/
theorem exec_inNearBank {s : State} {ch : Fin 1536} {rank : BitVec 5} {bank ap : Bool} {row : BitVec 16} {col : BitVec 6} {who : BitVec 5}
    {data : BitVec 256} (hr : rank.toNat < 24) (hm : (s.chan ch).mode = .nearBank) :
    ∀ c ∈ [Instr.act ch rank bank row who, .pre ch rank bank false, .ref ch rank bank, .rd ch rank bank col ap,
        .wr ch rank bank col ap data], exec c s = .next (s.wrongMode ch [2 * rank.toNat + nat bank]) := by
  have named : ¬ 24 ≤ rank.toNat := by omega
  simp only [List.forall_mem_cons]
  exact ⟨next_congr ((if_neg named).trans (if_pos hm)), next_congr ((if_neg named).trans (if_pos hm)),
    next_congr ((if_neg named).trans (if_pos hm)), next_congr ((if_neg named).trans (if_pos hm)),
    next_congr ((if_neg named).trans (if_pos hm)), List.forall_mem_nil _⟩

/-- Settles O3: the first kind is `badRank`, the second `wrongMode` (04 R160; 06 R218, R231). -/
theorem ignoredChannelCommands : Obligations.IgnoredChannelCommands := by
  refine ⟨fun s ch rank bank both ap row col who allr reg value data h c hc => ?_, fun s ch rank bank ap row col who data hr hm c hc => ?_⟩
  · obtain ⟨column, word, run⟩ := exec_badRank h c hc
    have report := s.reportError_chan ch { column := column, word := word, who := 6, path := 8 }
    refine .next run ⟨report.caerr, ⟨_, report.held, rfl, fun h0 => ?_⟩, report.banks, report.mrs,
      fun k hk => State.reportError_chan_ne _ _ _ _ hk, .badRank ..⟩
    simp [Channel.failsOf, h0]
  · obtain ⟨set, rest, keeps⟩ := s.wrongMode_onlySeqerr ch [2 * rank.toNat + nat bank]
    exact .next (exec_inNearBank hr hm c hc) ⟨set _ (List.mem_singleton_self _), fun b hb => rest b (by simpa using hb), keeps⟩

end Sys2Proof.Machine
end

section
/-! Issue of a step: what it leaves of its context, and the steps that move registers (11 R444, R450 to R453). -/

namespace Sys2Proof.Machine

/-! ### Reads of the memory depend on a few parts of the state -/

/-- The parts of the state that a read of the memory goes through. -/
def memoryParts : List Field := [.half, .boot, .slots, .parcels, .mem, .pois, .rows, .chans]

/-- The state with only the parts that a read of the memory goes through. -/
def State.memoryOnly (s : State) : State :=
  { half := s.half, boot := s.boot, slots := s.slots, parcels := s.parcels, mem := s.mem, pois := s.pois, rows := s.rows, chans := s.chans }

theorem Keeps.memoryOnly_eq {L : List Field} {s t : State} (h : Keeps L s t) (hL : memoryParts.all (fun f => !L.contains f) = true) :
    t.memoryOnly = s.memoryOnly := by
  have apart (f : Field) (hf : f ∈ memoryParts) : f ∉ L := by simpa using List.all_eq_true.1 hL f hf
  have half : t.half = s.half := h.same .half (apart _ (by decide))
  have boot : t.boot = s.boot := h.same .boot (apart _ (by decide))
  have slots : t.slots = s.slots := h.same .slots (apart _ (by decide))
  have parcels : t.parcels = s.parcels := h.same .parcels (apart _ (by decide))
  have mem : t.mem = s.mem := h.same .mem (apart _ (by decide))
  have pois : t.pois = s.pois := h.same .pois (apart _ (by decide))
  have rows : t.rows = s.rows := h.same .rows (apart _ (by decide))
  have chans : t.chans = s.chans := h.same .chans (apart _ (by decide))
  simp only [State.memoryOnly, half, boot, slots, parcels, mem, pois, rows, chans]

theorem State.readBytes_memoryOnly (s : State) (sa n : Nat) : s.memoryOnly.readBytes sa n = s.readBytes sa n := rfl

theorem State.readSa_memoryOnly (s : State) (sa : Nat) : s.memoryOnly.readSa sa = s.readSa sa := rfl

theorem State.columnAsks_memoryOnly (s : State) (rk c : Nat) : s.memoryOnly.columnAsks rk c = s.columnAsks rk c := rfl

theorem Keeps.readBytes_eq {L : List Field} {s t : State} (h : Keeps L s t) (hL : memoryParts.all (fun f => !L.contains f) = true) (sa n : Nat) : t.readBytes sa n = s.readBytes sa n := by
  rw [← State.readBytes_memoryOnly, h.memoryOnly_eq hL, State.readBytes_memoryOnly]

/-! ### What an issue leaves of its context -/

/-- The context `x` after the issue of step `w` at sequencer cycle `now` (11 R450, R457). -/
def Ctx.afterIssue (x : Ctx) (w now : Nat) : Ctx :=
  ({ x with
    cm := if flag w 15 then Tab.upd (fun k => (k, 0)) x.cm (field w 12 3) (fun e => (e.1, e.2 + BitVec.ofNat 32 (field w 16 4))) else x.cm
    issues := now :: x.issues.take 14, lastIssue := now + 1
    stall := satNat 32 (x.stall + if x.lastIssue = 0 then 0 else now - x.lastIssue)
    waitCm := false, waitQ := false, waitMb := false }).goOn (afterStep x.stack x.next)

/-- The context `x` with tally `k?` advanced at engine cycle `cyc` (11 R453). -/
def Ctx.advanced (x : Ctx) (t : Option Nat) (cyc : Nat) : Ctx :=
  match t with
  | some k => { x with
      tl := Tab.upd (fun _ => 0) x.tl k (fun v => v + 1)
      fresh := (k, (cyc + 1) / 2 + 1) :: x.fresh.filter (fun e => decide (cyc / 2 < e.2)) }
  | none => x

theorem State.issued_ctx (s : State) (c w : Nat) : (s.issued c w).ctx c = (s.ctx c).afterIssue w s.seqCycle := by
  unfold State.issued
  extract_lets x now lost s1 t
  rw [(Keeps.count ..).ctx_eq rfl, (Keeps.count ..).ctx_eq rfl, (Keeps.trace ..).ctx_eq rfl, State.ctx_modCtx]
  rfl

theorem State.issued_ctx_ne (s : State) (c w d : Nat) (h : d ≠ c) : (s.issued c w).ctx d = s.ctx d := by
  unfold State.issued
  extract_lets x now lost s1 t
  rw [(Keeps.count ..).ctx_eq rfl, (Keeps.count ..).ctx_eq rfl, (Keeps.trace ..).ctx_eq rfl, State.ctx_modCtx_ne _ _ _ _ h]

theorem State.advance_ctx (s : State) (c : Nat) (t : Option Nat) : (s.advance c t).ctx c = (s.ctx c).advanced t s.cyc := by
  cases t with
  | some k => exact State.ctx_modCtx ..
  | none => rfl

theorem State.doneNow_ctx (s : State) (c w step : Nat) : (s.doneNow c w step).ctx c = (s.ctx c).advanced (stepTally w) s.cyc := by
  unfold State.doneNow
  extract_lets s1 a
  rw [(Keeps.trace ..).ctx_eq rfl, State.advance_ctx]

@[simp] theorem Ctx.x_advanced (x : Ctx) (t : Option Nat) (cyc : Nat) : (x.advanced t cyc).x = x.x := by cases t <;> rfl

@[simp] theorem Ctx.a_advanced (x : Ctx) (t : Option Nat) (cyc : Nat) : (x.advanced t cyc).a = x.a := by cases t <;> rfl

@[simp] theorem Ctx.cm_advanced (x : Ctx) (t : Option Nat) (cyc : Nat) : (x.advanced t cyc).cm = x.cm := by cases t <;> rfl

@[simp] theorem Ctx.next_advanced (x : Ctx) (t : Option Nat) (cyc : Nat) : (x.advanced t cyc).next = x.next := by cases t <;> rfl

@[simp] theorem Ctx.st_advanced (x : Ctx) (t : Option Nat) (cyc : Nat) : (x.advanced t cyc).st = x.st := by cases t <;> rfl

@[simp] theorem Ctx.lastIssue_advanced (x : Ctx) (t : Option Nat) (cyc : Nat) : (x.advanced t cyc).lastIssue = x.lastIssue := by
  cases t <;> rfl

@[simp] theorem Ctx.cmp_advanced (x : Ctx) (t : Option Nat) (cyc k : Nat) : (x.advanced t cyc).cmp k = x.cmp k := by
  rw [Ctx.cmp, Ctx.cm_advanced, Ctx.cmp]

theorem Ctx.tally_advanced (x : Ctx) (t : Option Nat) (cyc k : Nat) :
    (x.advanced t cyc).tally k = x.tally k + (if t = some k then 1 else 0) := by
  cases t with
  | none => simp [Ctx.advanced]
  | some j =>
    by_cases hk : k = j
    · subst hk
      simp [Ctx.advanced, Ctx.tally, Tab.get_upd_same]
    · have named : ¬ (some j = some k) := fun h => hk (Option.some.inj h).symm
      simp [Ctx.advanced, Ctx.tally, Tab.get_upd_ne _ _ _ _ _ hk, named]

theorem Ctx.cmp_afterIssue_ne (x : Ctx) (w now k : Nat) (h : flag w 15 = false ∨ k ≠ field w 12 3) :
    (x.afterIssue w now).cmp k = x.cmp k := by
  simp only [Ctx.cmp, Ctx.afterIssue, Ctx.goOn]
  split
  next hw => exact Tab.get_upd_ne _ _ _ _ _ (h.resolve_left (by simp [hw]))
  next => rfl

theorem Ctx.cmp_afterIssue (x : Ctx) (w now : Nat) (h : flag w 15 = true) :
    ((x.afterIssue w now).cmp (field w 12 3)).2 = (x.cmp (field w 12 3)).2 + BitVec.ofNat 32 (field w 16 4) := by
  simp only [Ctx.cmp, Ctx.afterIssue, Ctx.goOn, if_pos h, Tab.get_upd_same]

/-! ### A ready step issues -/

theorem StepReady.issue_eq {s : State} {c eng op w : Nat} (h : StepReady s c eng op w) {mb : Nat → Bool} (hmb : mb w = true)
    (f : Nat → Nat → State → State) : s.issue c eng op mb f = f w (s.ctx c).next (s.issued c w) := by
  obtain ⟨bw, hbw, rfl⟩ := h.cached
  have queued : (eng == 0 || s.sizeZero c bw.toNat || decide (s.share c eng < shareOf eng)) = true := by
    rcases h.room with he | he <;> simp [he]
  have cool : (eng == 0 || !(s.hub (tileOfCtx c)).holdIssue) = true := by
    rcases h.cool with he | he <;> simp [he]
  have sized : ¬ (eng ≠ 0 ∧ s.sizeZero c bw.toNat = true) := by
    rintro ⟨he, hz⟩
    rcases h.sized with h0 | h0
    · exact he h0
    · exact Bool.false_ne_true (h0.symm.trans hz)
  unfold State.issue
  extract_lets x
  have running : ¬ (x.st ≠ .running ∨ x.pend = true ∨ x.access.isSome = true) := by simp [x, h.running, h.pend, h.access]
  simp only [if_neg running, x, hbw, Bool.false_eq_true, if_false, h.decoded, h.isEng, h.isOp, and_self, if_true, h.waited, queued, hmb, cool,
    h.dist, h.cycle, Bool.and_true, decide_true, sized]

/-- A context that issues step `w`, changes nothing of what the issue leaves and completes. -/
theorem issuedNext_of_ctx {s t : State} {c w : Nat}
    (hn : (t.ctx c).next = ((s.ctx c).afterIssue w s.seqCycle).next)
    (hc : (t.ctx c).cmp (field w 12 3) = ((s.ctx c).afterIssue w s.seqCycle).cmp (field w 12 3))
    (hl : (t.ctx c).lastIssue = ((s.ctx c).afterIssue w s.seqCycle).lastIssue) : IssuedNext c w s t :=
  ⟨hn, fun hw => by rw [hc, Ctx.cmp_afterIssue _ _ _ hw], hl⟩

theorem tallyDone_of_ctx {s t : State} {c w cyc : Nat} {x : Ctx} (hx : x.tl = (s.ctx c).tl) (h : t.ctx c = x.advanced (stepTally w) cyc) :
    TallyDone c w s t := by
  intro k
  have tl : x.tally k = (s.ctx c).tally k := by rw [Ctx.tally, hx, Ctx.tally]
  rw [h, Ctx.tally_advanced, tl]

/-! ### Register writes -/

theorem Tab.get_setRun_lt {α : Type} [DecidableEq α] (d : Nat → α) (vs : List α) (t : Tab α) (k j : Nat) (h : j < k) :
    Tab.get d (Tab.setRun d t k vs) j = Tab.get d t j := by
  induction vs generalizing t k with
  | nil => rfl
  | cons v vs ih => rw [Tab.setRun, ih _ _ (by omega), Tab.get_set_ne _ _ _ _ _ (by omega)]

theorem Tab.get_setRun_ge {α : Type} [DecidableEq α] (d : Nat → α) (vs : List α) (t : Tab α) (k j : Nat) (h : k + vs.length ≤ j) :
    Tab.get d (Tab.setRun d t k vs) j = Tab.get d t j := by
  induction vs generalizing t k with
  | nil => rfl
  | cons v vs ih =>
    rw [List.length_cons] at h
    rw [Tab.setRun, ih _ _ (by omega), Tab.get_set_ne _ _ _ _ _ (by omega)]

theorem Tab.get_setRun {α : Type} [DecidableEq α] (d : Nat → α) (vs : List α) (t : Tab α) (k i : Nat) (h : i < vs.length) :
    Tab.get d (Tab.setRun d t k vs) (k + i) = vs[i] := by
  induction vs generalizing t k i with
  | nil => exact absurd h (Nat.not_lt_zero _)
  | cons v vs ih =>
    cases i with
    | zero => exact (Tab.get_setRun_lt d vs _ (k + 1) k (by omega)).trans (Tab.get_set_same ..)
    | succ i => rw [Tab.setRun, show k + (i + 1) = k + 1 + i by omega, ih _ _ _ (by simpa using h)]; rfl

/-- The registers outside the run written are as they were. -/
theorem Ctx.setX_get_ne (x : Ctx) (n : Nat) (vs : List (BitVec 64)) (bad : Bool) (k : Nat) (h : k < n ∨ n + vs.length ≤ k) :
    Tab.get (fun _ => 0) (x.setX n vs bad).x k = Tab.get (fun _ => 0) x.x k := by
  rcases h with h | h
  · exact Tab.get_setRun_lt _ _ _ _ _ h
  · exact Tab.get_setRun_ge _ _ _ _ _ h

theorem Ctx.setX_get (x : Ctx) (n : Nat) (vs : List (BitVec 64)) (bad : Bool) (i : Nat) (h : i < vs.length) :
    Tab.get (fun _ => 0) (x.setX n vs bad).x (n + i) = vs[i] := Tab.get_setRun _ _ _ _ _ h

/-! ### Steps that move registers -/

@[simp] theorem Ctx.x_afterIssue (x : Ctx) (w now : Nat) : (x.afterIssue w now).x = x.x := rfl

@[simp] theorem Ctx.a_afterIssue (x : Ctx) (w now : Nat) : (x.afterIssue w now).a = x.a := rfl

@[simp] theorem Ctx.tl_afterIssue (x : Ctx) (w now : Nat) : (x.afterIssue w now).tl = x.tl := rfl

@[simp] theorem Ctx.man_afterIssue (x : Ctx) (w now : Nat) : (x.afterIssue w now).man = x.man := rfl

@[simp] theorem Ctx.part_afterIssue (x : Ctx) (w now : Nat) : (x.afterIssue w now).part = x.part := rfl

@[simp] theorem Ctx.x_of_setX (x : Ctx) (n : Nat) (vs : List (BitVec 64)) (bad : Bool) : (x.setX n vs bad).x = Tab.setRun (fun _ => 0) x.x n vs := rfl

@[simp] theorem Ctx.a_setX (x : Ctx) (n : Nat) (vs : List (BitVec 64)) (bad : Bool) : (x.setX n vs bad).a = x.a := rfl

@[simp] theorem Ctx.tl_setX (x : Ctx) (n : Nat) (vs : List (BitVec 64)) (bad : Bool) : (x.setX n vs bad).tl = x.tl := rfl

@[simp] theorem State.issued_xreg (s : State) (c w k : Nat) : (s.issued c w).xreg c k = s.xreg c k := by
  rw [State.xreg, State.issued_ctx, Ctx.x_afterIssue, State.xreg]

@[simp] theorem State.issued_areg (s : State) (c w k : Nat) : (s.issued c w).areg c k = s.areg c k := by
  rw [State.areg, State.issued_ctx, Ctx.a_afterIssue, State.areg]

@[simp] theorem State.issued_readBytes (s : State) (c w sa n : Nat) : (s.issued c w).readBytes sa n = s.readBytes sa n :=
  (Keeps.issued s c w).readBytes_eq rfl sa n

@[simp] theorem State.issued_reg (s : State) (c w p off : Nat) : (s.issued c w).reg p off = s.reg p off := by simp [State.reg]

@[simp] theorem State.issued_shiftOf (s : State) (c w : Nat) : (s.issued c w).shiftOf c = s.shiftOf c := by
  simp [State.shiftOf, State.issued_ctx]

@[simp] theorem State.issued_splitEntry (s : State) (c w table b : Nat) : (s.issued c w).splitEntry c table b = s.splitEntry c table b := by
  simp [State.splitEntry, State.issued_ctx]

@[simp] theorem State.issued_cargo (s : State) (c w k : Nat) : (s.issued c w).cargo c k = s.cargo c k := by
  simp [State.cargo, State.issued_ctx]

@[simp] theorem State.issued_cargoIndex (s : State) (c w v : Nat) : (s.issued c w).cargoIndex c v = s.cargoIndex c v := by
  simp [State.cargoIndex]

/-- The context after a step that completes at issue and writes the context by `F`. -/
theorem State.writesThenDone_ctx (s : State) (c w i : Nat) (F : Ctx → Ctx) :
    (((s.issued c w).modCtx c F).doneNow c w i).ctx c = (F ((s.ctx c).afterIssue w s.seqCycle)).advanced (stepTally w) s.cyc := by
  rw [State.doneNow_ctx, State.ctx_modCtx, State.issued_ctx]
  simp

/-- A step that completes at issue and writes the context by `F`. -/
theorem does_writesThenDone {i : Instr} {s : State} {c w k : Nat} {F : Ctx → Ctx} {P : State → Prop}
    (run : exec i s = .next (((s.issued c w).modCtx c F).doneNow c w k))
    (h : ∀ t, t.ctx c = (F ((s.ctx c).afterIssue w s.seqCycle)).advanced (stepTally w) s.cyc → SameBanks s t → P t) : Does i s P :=
  .next run (h _ (s.writesThenDone_ctx c w k F) (by simp [SameBanks]))

section
variable {s : State} {c : Fin 64} {w : Nat}

theorem does_nop (h : StepReady s c 0 0 w) : Does (.nop c) s (fun t => IssuedNext c w s t ∧ TallyDone c w s t ∧
    XSame c (fun _ => False) s t ∧ (t.ctx c).a = (s.ctx c).a ∧ SameBanks s t) := by
  have ctx : ((s.issued c w).doneNow c w (s.ctx c).next).ctx c = ((s.ctx c).afterIssue w s.seqCycle).advanced (stepTally w) s.cyc := by
    rw [State.doneNow_ctx, State.issued_ctx]
    simp
  refine .next (next_congr (h.issue_eq rfl _)) ⟨issuedNext_of_ctx ?_ ?_ ?_, tallyDone_of_ctx ?_ ctx, fun k _ => ?_, ?_, ?_⟩ <;>
    simp [ctx, Ctx.cmp, State.xreg, SameBanks]

theorem does_xset (h : StepReady s c 0 5 w) : Does (.xset c) s (fun t => t.xreg c (body w 0 6) = BitVec.ofNat 64 (body w 64 64) ∧
    XSame c (· = body w 0 6) s t ∧ (t.ctx c).a = (s.ctx c).a ∧ IssuedNext c w s t ∧ TallyDone c w s t ∧ SameBanks s t) := by
  refine does_writesThenDone (next_congr (h.issue_eq rfl _)) fun t ctx banks => ⟨?_, fun k hk => ?_, ?_, issuedNext_of_ctx ?_ ?_ ?_,
    tallyDone_of_ctx ?_ ctx, banks⟩
  · simp [State.xreg, ctx, Tab.setRun, Tab.get_set_same]
  · simp [State.xreg, ctx, Tab.setRun, Tab.get_set_ne _ _ _ _ _ hk]
  all_goals simp [ctx, Ctx.cmp]
  all_goals rfl

theorem does_amov (h : StepReady s c 0 6 w) : Does (.amov c) s (fun t =>
    t.areg c (body w 0 4) = (s.xreg c (body w 4 6)).toNat % 2 ^ 48 ∧ (∀ k, k ≠ body w 0 4 → t.areg c k = s.areg c k) ∧
    XSame c (fun _ => False) s t ∧ IssuedNext c w s t ∧ TallyDone c w s t ∧ SameBanks s t) := by
  refine does_writesThenDone (next_congr (h.issue_eq rfl _)) fun t ctx banks => ⟨?_, fun k hk => ?_, fun k _ => ?_,
    issuedNext_of_ctx ?_ ?_ ?_, tallyDone_of_ctx ?_ ctx, banks⟩
  · simp [State.areg, ctx, Tab.get_set_same]
  · simp [State.areg, ctx, Tab.get_set_ne _ _ _ _ _ hk]
  all_goals simp [State.xreg, ctx, Ctx.cmp]

theorem does_cmset (h : StepReady s c 0 7 w) : Does (.cmset c) s (fun t => (t.ctx c).cmp (body w 0 3) = (body w 3 4,
      (if flag w 77 then (s.ctx c).tally (body w 3 4) else 0) + BitVec.ofNat 32 (s.xreg c (body w 7 6)).toNat) ∧
    (∀ k, k ≠ body w 0 3 → (flag w 15 = false ∨ k ≠ field w 12 3) → (t.ctx c).cmp k = (s.ctx c).cmp k) ∧
    XSame c (fun _ => False) s t ∧ TallyDone c w s t ∧ SameBanks s t) := by
  refine does_writesThenDone (next_congr (h.issue_eq rfl _)) fun t ctx banks => ⟨?_, fun k hk hw => ?_, fun k _ => ?_,
    tallyDone_of_ctx ?_ ctx, banks⟩
  · have tally : ((s.issued c w).ctx c).tally = (s.ctx c).tally := by
      funext k
      simp [State.issued_ctx, Ctx.tally]
    simp only [Ctx.cmp, ctx, Ctx.cm_advanced, Tab.get_set_same, tally, State.issued_xreg]
    split <;> simp
  · rw [← Ctx.cmp_afterIssue_ne (s.ctx c) w s.seqCycle k hw]
    rw [ctx, Ctx.cmp_advanced]
    exact Tab.get_set_ne (fun k => ((k, 0) : Nat × BitVec 32)) _ _ _ _ hk
  · simp [State.xreg, ctx]
  · rfl

/-- SPLIT shares the groups of the manifest's cargo by its table, and moves an address register by what the bank units take (11 R461). -/
theorem does_split (h : StepReady s c 0 8 w) {gb g : Nat} (hg : g = (s.cargo c (s.cargoIndex c w)).g)
    (hgb : gb = bankShare (s.splitEntry c (body w 17 4) ((s.xreg c (body w 21 6)).toNat % 2 ^ 32)) (s.shiftOf c) g (flag w 97)) :
    Does (.split c) s (fun t =>
      (∀ i (hi : i < 4), t.xreg c (body w 27 6 + i) = BitVec.ofNat 64 ([gb, g - gb, 64 * (g - gb), ceilDiv (body w 49 16 + 1) 32 * 2 * (g - gb)][i])) ∧
      XSame c (fun k => body w 27 6 ≤ k ∧ k ≤ body w 27 6 + 3) s t ∧
      (flag w 112 = true → t.areg c (body w 34 4) =
        (s.areg c (body w 38 4) + 64 * gb / 128 * (s.xreg c (body w 42 6)).toNat) % 2 ^ 48) ∧
      (flag w 112 = false → (t.ctx c).a = (s.ctx c).a) ∧ TallyDone c w s t ∧ SameBanks s t) := by
  refine does_writesThenDone (next_congr (h.issue_eq rfl _)) fun t ctx banks => ⟨fun i hi => ?_, fun k hk => ?_, fun hf => ?_, fun hf => ?_,
    tallyDone_of_ctx ?_ ctx, banks⟩ <;>
    simp only [State.issued_cargo, State.issued_cargoIndex, State.issued_splitEntry, State.issued_shiftOf, State.issued_xreg,
      State.issued_areg, Nat.reduceAdd, ← hg, ← hgb] at ctx
  · rw [State.xreg, ctx, Ctx.x_advanced]
    exact (Ctx.setX_get _ _ (List.map (BitVec.ofNat 64) [_, _, _, _]) false i hi).trans (List.getElem_map ..)
  · rw [State.xreg, ctx, Ctx.x_advanced]
    exact Ctx.setX_get_ne _ _ _ false _ (by simp only [List.length_map, List.length_cons, List.length_nil]; omega)
  · rw [State.areg, ctx, Ctx.a_advanced]
    simp only [hf, if_true, Tab.get_set_same, BitVec.toNat_ofNat]
  · rw [ctx, Ctx.a_advanced]
    simp [hf]
  · rfl

end

/-- Settles O24: each step issues, and what it writes of its context is written out word by word (11 R444, R453, R459 to R461). -/
theorem registerStepsComplete : Obligations.RegisterStepsComplete := by
  refine ⟨fun _ _ _ => does_nop, fun _ _ _ => does_xset, fun _ _ _ => does_amov, fun _ _ _ => does_cmset, fun s c w gb h hgb => ?_⟩
  obtain ⟨t, run, regs, rest⟩ := does_split h rfl hgb
  exact ⟨t, run, regs 0 (by decide), regs 1 (by decide), regs 2 (by decide), regs 3 (by decide), rest⟩

end Sys2Proof.Machine
end

section
/-! Row and column commands of a channel in conventional mode (04 R136, R138, R146 to R148; 06 R216, R217). -/

namespace Sys2Proof.Machine

/-! ### A bank of a channel -/

@[simp] theorem Channel.bank_modBank (c : Channel) (j : Nat) (f : Bank → Bank) : (c.modBank j f).bank j = f (c.bank j) :=
  Tab.get_upd_same ..

theorem Channel.bank_modBank_ne (c : Channel) (j i : Nat) (f : Bank → Bank) (h : i ≠ j) : (c.modBank j f).bank i = c.bank i :=
  Tab.get_upd_ne _ _ _ _ _ h

/-- Of the channels only `ch` may differ, and of its banks only `j`. -/
structure OnlyBank (ch j : Nat) (s t : State) : Prop where
  /-- the other channels -/
  chans : ∀ k, k ≠ ch → t.chan k = s.chan k
  /-- the other banks -/
  banks : ∀ i, i ≠ j → (t.chan ch).bank i = (s.chan ch).bank i

theorem OnlyBank.refl (ch j : Nat) (s : State) : OnlyBank ch j s s := ⟨fun _ _ => rfl, fun _ _ => rfl⟩

theorem OnlyBank.trans {ch j : Nat} {s t u : State} (h : OnlyBank ch j s t) (g : OnlyBank ch j t u) : OnlyBank ch j s u :=
  ⟨fun k hk => (g.chans k hk).trans (h.chans k hk), fun i hi => (g.banks i hi).trans (h.banks i hi)⟩

theorem OnlyBank.modBank (ch j : Nat) (s : State) (f : Bank → Bank) : OnlyBank ch j s (s.modChan ch (fun c => c.modBank j f)) :=
  ⟨fun k hk => State.chan_modChan_ne _ _ _ _ hk, fun i hi => by rw [State.chan_modChan, Channel.bank_modBank_ne _ _ _ _ hi]⟩

theorem Keeps.onlyBank {L : List Field} {s t : State} (h : Keeps L s t) (hL : L.contains .chans = false) (ch j : Nat) : OnlyBank ch j s t :=
  ⟨fun k _ => h.chan_eq hL k, fun i _ => by rw [h.chan_eq hL]⟩

/-! ### Refreshes -/

theorem State.clearTallies_tally (s : State) (b : Nat) (ws : List (Nat × Nat)) (w : Nat × Nat) (hw : w ∈ ws) (x : Nat)
    (hx : x ∈ s.rowsAt b w.1 w.2) : ((s.clearTallies b ws).row x).tally = 0 :=
  Tab.get_updMany_has (P := fun m : RowMeta => m.tally = 0) _ _ (fun _ => rfl) _ _ _ (.inr (List.mem_flatMap.2 ⟨w, hw, hx⟩))

theorem State.refreshBank_onlyBank (s : State) (ch j : Nat) : OnlyBank ch j s (s.refreshBank ch j) :=
  ((Keeps.clearTallies ..).onlyBank rfl ch j).trans (.modBank ..)

theorem State.refreshBank_bank (s : State) (ch j : Nat) :
    ((s.refreshBank ch j).chan ch).bank j = { (s.chan ch).bank j with refk := (((s.chan ch).bank j).refk + 1) % 8256 } := by
  rw [State.refreshBank, State.chan_modChan, Channel.bank_modBank, (Keeps.clearTallies ..).chan_eq rfl]

/-- A refresh clears the tallies of the rows on the wordlines that the bank's counter names (04 R136, R146). -/
theorem State.refreshBank_tally (s : State) (ch j : Nat) (w : Nat × Nat) (hw : w ∈ refreshWords ((s.chan ch).bank j).refk) (x : Nat)
    (hx : x ∈ s.rowsAt (bankOf ch j) w.1 w.2) : ((s.refreshBank ch j).row x).tally = 0 := by
  rw [State.refreshBank, (Keeps.modChan ..).row_eq rfl]
  exact s.clearTallies_tally _ _ w hw x hx

theorem State.repay_onlyBank (s : State) (ch j : Nat) : OnlyBank ch j s (s.repay ch j) :=
  (s.refreshBank_onlyBank ch j).trans (.modBank ..)

theorem State.repay_bank (s : State) (ch j : Nat) : ((s.repay ch j).chan ch).bank j =
    { (s.chan ch).bank j with refk := (((s.chan ch).bank j).refk + 1) % 8256, postponed := ((s.chan ch).bank j).postponed - 1 } := by
  rw [State.repay, State.chan_modChan, Channel.bank_modBank, State.refreshBank_bank]

theorem State.repay_tally (s : State) (ch j x : Nat) : ((s.repay ch j).row x) = (s.refreshBank ch j).row x := by
  rw [State.repay, (Keeps.modChan ..).row_eq rfl]

/-! ### Rows closed and opened -/

/-- Repaying refreshes of a bank with no open row opens none. -/
theorem State.foldl_repay (l : List Nat) (s : State) (ch j : Nat) : OnlyBank ch j s (l.foldl (fun s _ => s.repay ch j) s) ∧
    (((l.foldl (fun s _ => s.repay ch j) s).chan ch).bank j).row = ((s.chan ch).bank j).row := by
  induction l generalizing s with
  | nil => exact ⟨.refl .., rfl⟩
  | cons _ l ih =>
    obtain ⟨only, row⟩ := ih (s.repay ch j)
    exact ⟨(s.repay_onlyBank ch j).trans only, row.trans (by rw [State.repay_bank])⟩

theorem State.closeRow_onlyBank (s : State) (ch j : Nat) : OnlyBank ch j s (s.closeRow ch j) :=
  (OnlyBank.modBank ..).trans (State.foldl_repay ..).1

theorem State.closeRow_row (s : State) (ch j : Nat) : (((s.closeRow ch j).chan ch).bank j).row = none :=
  (State.foldl_repay ..).2.trans (by rw [State.chan_modChan, Channel.bank_modBank])

/-- A row that is closed stays closed while others close. -/
theorem State.closeRow_row_none (s : State) (ch j i : Nat) (h : ((s.chan ch).bank i).row = none) :
    (((s.closeRow ch j).chan ch).bank i).row = none := by
  by_cases hi : i = j
  · rw [hi, State.closeRow_row]
  · rw [(s.closeRow_onlyBank ch j).banks i hi, h]

theorem State.foldl_closeRow (js : List Nat) (s : State) (ch : Nat) :
    (∀ i, i ∈ js ∨ ((s.chan ch).bank i).row = none → (((js.foldl (fun s j => s.closeRow ch j) s).chan ch).bank i).row = none) ∧
    (∀ i, i ∉ js → ((js.foldl (fun s j => s.closeRow ch j) s).chan ch).bank i = (s.chan ch).bank i) ∧
    (∀ k, k ≠ ch → (js.foldl (fun s j => s.closeRow ch j) s).chan k = s.chan k) ∧
    Keeps [.rows, .chans] s (js.foldl (fun s j => s.closeRow ch j) s) := by
  induction js generalizing s with
  | nil => exact ⟨fun i hi => hi.resolve_left List.not_mem_nil, fun _ _ => rfl, fun _ _ => rfl, .refl ..⟩
  | cons j js ih =>
    obtain ⟨closed, others, chans, keeps⟩ := ih (s.closeRow ch j)
    have only := s.closeRow_onlyBank ch j
    refine ⟨fun i hi => closed i ?_, fun i hi => ?_, fun k hk => (chans k hk).trans (only.chans k hk), (Keeps.closeRow s ch j).trans keeps⟩
    · rcases hi with hi | hi
      · rcases List.mem_cons.1 hi with rfl | hi
        · exact .inr (s.closeRow_row ch i)
        · exact .inl hi
      · exact .inr (s.closeRow_row_none ch j i hi)
    · obtain ⟨hij, hi⟩ := not_or.1 (List.mem_cons.not.1 hi)
      rw [List.foldl_cons, others i hi, only.banks i hij]

theorem State.tallyRow_chan_ne (s : State) (ch j r who k : Nat) (h : k ≠ ch) : (s.tallyRow ch j r who).chan k = s.chan k := by
  unfold State.tallyRow
  split
  · rfl
  extract_lets rk n s1
  split
  · rw [State.chan_modChan_ne _ _ _ _ h, (Keeps.modRow ..).chan_eq rfl]
  · exact (Keeps.modRow ..).chan_eq rfl k

/-- An activation's count changes at most the alert of its bank. -/
theorem State.tallyRow_bank (s : State) (ch j r who : Nat) :
    ∃ a, ((s.tallyRow ch j r who).chan ch).bank j = { (s.chan ch).bank j with alert := a } := by
  unfold State.tallyRow
  split
  · exact ⟨_, rfl⟩
  extract_lets rk n s1
  have first : s1.chan ch = s.chan ch := (Keeps.modRow ..).chan_eq rfl ch
  split
  · exact ⟨some r, by rw [State.chan_modChan, Channel.bank_modBank, first]⟩
  · exact ⟨_, by rw [first]⟩

theorem State.tallyRow_tally (s : State) (ch j r who : Nat) :
    ((s.tallyRow ch j r who).row (rowKey (bankOf ch j) r)).tally =
      if who = 28 then (s.row (rowKey (bankOf ch j) r)).tally else satNat 16 ((s.row (rowKey (bankOf ch j) r)).tally + 1) := by
  unfold State.tallyRow
  split
  · rfl
  extract_lets rk n s1
  have first : (s1.row rk).tally = n := by rw [State.row_modRow]
  split
  · rw [(Keeps.modChan ..).row_eq rfl, first]
  · exact first

theorem Keeps.sameBanks {L : List Field} {s t : State} (h : Keeps L s t) (hm : L.contains .mem = false) (hp : L.contains .pois = false) : SameBanks s t := ⟨h.same .mem (by simpa using hm), h.same .pois (by simpa using hp)⟩

/-! ### The commands -/

theorem State.mode_of_conventional {s : State} {ch : Nat} (h : s.conventional ch = true) : (s.chan ch).mode = .conv := by
  simp only [State.conventional, Bool.and_eq_true, beq_iff_eq] at h
  exact h.1.1

theorem State.not_nearBank_of_conventional {s : State} {ch : Nat} (h : s.conventional ch = true) : ¬ (s.chan ch).mode = .nearBank := by
  simp [State.mode_of_conventional h]

theorem State.conventional_of_serves {s : State} {ch : Nat} (h : s.serves ch = true) : s.conventional ch = true := by
  simp only [State.serves, Bool.and_eq_true] at h
  exact h.1

/-- A command of a channel in conventional mode that names a rank is past its first two checks. -/
theorem ite_conventional {s u v w : State} {ch : Nat} {rank : BitVec 5} (hr : rank.toNat < 24) (hc : s.conventional ch = true) :
    (if 24 ≤ rank.toNat then u else if (s.chan ch).mode = .nearBank then v else w) = w :=
  (if_neg (Nat.not_le.2 hr)).trans (if_neg (State.not_nearBank_of_conventional hc))

theorem OnlyBank.openRow (s : State) (ch j r who : Nat) (k : Nat) (h : k ≠ ch) : (s.openRow ch j r who).chan k = s.chan k := by
  rw [State.openRow, State.tallyRow_chan_ne _ _ _ _ _ _ h, State.chan_modChan_ne _ _ _ _ h]

section
variable {s : State} {ch : Fin 1536} {rank : BitVec 5} {bank : Bool} {j : Nat} (hj : j = 2 * rank.toNat + nat bank) (hr : rank.toNat < 24)
include hj hr

theorem does_act {row : BitVec 16} {who : BitVec 5} {rk : Nat} (hrk : rk = rowKey (bankOf ch j) row.toNat) (hs : s.serves ch = true)
    (hk : (s.chan ch).rank rank.toNat = .awake) (hopen : ((s.chan ch).bank j).row = none) (hm : s.mayActivate ch j who.toNat = true) :
    Does (.act ch rank bank row who) s (fun t => ((t.chan ch).bank j).row = some row.toNat ∧ ((t.chan ch).bank j).opener = who.toNat ∧
      (t.row rk).tally = (if who.toNat = 28 then (s.row rk).tally else satNat 16 ((s.row rk).tally + 1)) ∧
      (∀ k, k ≠ ch.val → t.chan k = s.chan k) ∧ SameBanks s t) := by
  subst hj hrk
  have run : exec (.act ch rank bank row who) s = .next (s.openRow ch (2 * rank.toNat + nat bank) row.toNat who.toNat) :=
    next_congr ((ite_conventional hr (State.conventional_of_serves hs)).trans (if_pos ⟨hs, hk, hopen, hm⟩))
  obtain ⟨a, ha⟩ := (s.modChan ch (fun c => { c.modBank (2 * rank.toNat + nat bank) (fun b =>
      { b with row := some row.toNat, opener := who.toNat, actAt := s.cyc }) with
    throttles := c.throttles.map (fun t => if t.who = who.toNat ∧ t.bank = 2 * rank.toNat + nat bank then { t with last := s.cyc + 1 } else t) })).tallyRow_bank
      ch (2 * rank.toNat + nat bank) row.toNat who.toNat
  rw [State.chan_modChan] at ha
  have opened : ((s.chan ch).modBank (2 * rank.toNat + nat bank) (fun b =>
      { b with row := some row.toNat, opener := who.toNat, actAt := s.cyc })).bank (2 * rank.toNat + nat bank) = _ := Channel.bank_modBank ..
  refine .next run ⟨(congrArg Bank.row ha).trans (congrArg Bank.row opened), (congrArg Bank.opener ha).trans (congrArg Bank.opener opened), ?_,
    OnlyBank.openRow s _ _ _ _, (Keeps.openRow ..).sameBanks rfl rfl⟩
  rw [State.openRow, State.tallyRow_tally, (Keeps.modChan ..).row_eq rfl]

theorem does_pre {both : Bool} (hc : s.conventional ch = true) (hk : (s.chan ch).rank rank.toNat = .awake) :
    Does (.pre ch rank bank both) s (fun t => ((t.chan ch).bank j).row = none ∧
      (both = true → ∀ j ∈ rankBanks rank.toNat, ((t.chan ch).bank j).row = none) ∧
      (∀ j, j ∉ rankBanks rank.toNat → (t.chan ch).bank j = (s.chan ch).bank j) ∧
      (∀ k, k ≠ ch.val → t.chan k = s.chan k) ∧ SameBanks s t) := by
  have own : j ∈ rankBanks rank.toNat := by cases bank <;> simp [hj, rankBanks, nat]
  obtain ⟨closed, others, chans, keeps⟩ := State.foldl_closeRow (if both then rankBanks rank.toNat else [j]) s ch
  have run : exec (.pre ch rank bank both) s =
      .next ((if both then rankBanks rank.toNat else [j]).foldl (fun s j => s.closeRow ch j) s) := by
    subst hj
    exact next_congr ((ite_conventional hr hc).trans (if_pos ⟨hc, hk⟩))
  refine .next run ⟨closed j (.inl ?_), fun hb i hi => closed i (.inl (by rwa [if_pos hb])), fun i hi => others i fun hm => hi ?_, chans, keeps.sameBanks rfl rfl⟩
  · split
    · exact own
    · exact List.mem_singleton_self j
  · split at hm
    · exact hm
    · exact List.mem_singleton.1 hm ▸ own

theorem does_ref {b : Bank} (hb : b = (s.chan ch).bank j) (hc : s.conventional ch = true) (hk : (s.chan ch).rank rank.toNat = .awake)
    (hopen : b.row = none) (hdue : 0 < b.postponed ∨ b.early < 4) :
    Does (.ref ch rank bank) s (fun t => ((t.chan ch).bank j).refk = (b.refk + 1) % 8256 ∧
      (∀ w ∈ refreshWords b.refk, ∀ x ∈ s.rowsAt (bankOf ch j) w.1 w.2, (t.row x).tally = 0) ∧
      (0 < b.postponed → ((t.chan ch).bank j).postponed = b.postponed - 1 ∧ ((t.chan ch).bank j).early = b.early) ∧
      (b.postponed = 0 → ((t.chan ch).bank j).early = b.early + 1) ∧
      (∀ k, k ≠ ch.val → t.chan k = s.chan k) ∧ SameBanks s t) := by
  have run : exec (.ref ch rank bank) s = .next (if 0 < b.postponed then s.repay ch j
      else (s.refreshBank ch j).modChan ch (fun c => c.modBank j (fun b => { b with early := b.early + 1 }))) := by
    subst hj hb
    exact next_congr ((ite_conventional hr hc).trans (if_pos ⟨hc, hk, hopen, hdue⟩))
  subst hb
  refine .next run ?_
  split
  next hp =>
    rw [State.repay_bank]
    refine ⟨rfl, fun w hw x hx => ?_, fun _ => ⟨rfl, rfl⟩, fun h0 => absurd h0 (by omega), (s.repay_onlyBank ch j).chans, (Keeps.repay ..).sameBanks rfl rfl⟩
    rw [State.repay_tally]
    exact s.refreshBank_tally _ _ w hw x hx
  next hp =>
    rw [State.chan_modChan, Channel.bank_modBank, State.refreshBank_bank]
    refine ⟨rfl, fun w hw x hx => ?_, fun h0 => absurd h0 hp, fun _ => rfl,
      ((s.refreshBank_onlyBank ch j).trans (.modBank ..)).chans, ((Keeps.refreshBank ..).append (Keeps.modChan ..)).sameBanks rfl rfl⟩
    rw [(Keeps.modChan ..).row_eq rfl]
    exact s.refreshBank_tally _ _ w hw x hx

end

/-- A value written to several numbers of a table. -/
theorem Tab.get_foldl_set {α β : Type} [DecidableEq α] (d : Nat → α) (key : β → Nat) (v : α) (l : List β) (t : Tab α) (b : β)
    (h : b ∈ l ∨ Tab.get d t (key b) = v) : Tab.get d (l.foldl (fun t r => Tab.set d t (key r) v) t) (key b) = v := by
  induction l generalizing t with
  | nil => exact h.resolve_left List.not_mem_nil
  | cons a l ih =>
    refine ih _ ?_
    by_cases hab : key b = key a
    · exact .inr (by rw [hab, Tab.get_set_same])
    · refine h.imp (fun hm => (List.mem_cons.1 hm).resolve_left fun e => hab (congrArg key e)) fun hv => ?_
      rw [Tab.get_set_ne _ _ _ _ _ hab, hv]

theorem does_mrw {s : State} {ch : Fin 1536} {rank : BitVec 5} {allr : Bool} {reg value : BitVec 8} (hr : rank.toNat < 24)
    (hc : s.conventional ch = true) : Does (.mrw ch rank allr reg value) s (fun t =>
      Tab.get (fun _ => 0) (t.chan ch).mrs (rank.toNat * 256 + reg.toNat) = value.toNat ∧
      (allr = true → ∀ r < 24, Tab.get (fun _ => 0) (t.chan ch).mrs (r * 256 + reg.toNat) = value.toNat) ∧
      (∀ k, k ≠ ch.val → t.chan k = s.chan k) ∧ Keeps [.chans] s t) := by
  refine .next (next_congr ((ite_conventional hr hc).trans (if_pos hc))) ⟨?_, fun ha r hlt => ?_, fun k hk => State.chan_modChan_ne _ _ _ _ hk, .modChan ..⟩ <;>
    rw [State.chan_modChan] <;> refine Tab.get_foldl_set (fun _ => 0) (fun r => r * 256 + reg.toNat) _ _ _ _ (.inl ?_)
  · split
    · exact List.mem_range.2 hr
    · exact List.mem_singleton_self _
  · rw [if_pos ha]
    exact List.mem_range.2 hlt

theorem exec_rd {s : State} {ch : Fin 1536} {rank : BitVec 5} {bank ap : Bool} {col : BitVec 6} {j r rk : Nat}
    (hj : j = 2 * rank.toNat + nat bank) (hrk : rk = rowKey (bankOf ch j) r) (hr : rank.toNat < 24) (hc : s.conventional ch = true)
    (hopen : ((s.chan ch).bank j).row = some r) : exec (.rd ch rank bank col ap) s =
      .next (if s.columnAsks rk col.toNat then
          ((if ap then s.closeRow ch j else s).spend 1 1).askDecode rk col.toNat 8 none (s.logAddr (rk * 32 + col.toNat / 2)) none
        else
          (((if ap then s.closeRow ch j else s).spend 1 1).noteRead (s.isPoisoned (rk * 32 + col.toNat / 2) || s.badTag rk)
            (rk * 32 + col.toNat / 2) 8 none (s.logAddr (rk * 32 + col.toNat / 2))).answer
            { kind := 1, data := s.rawColumn rk col.toNat, poison := s.isPoisoned (rk * 32 + col.toNat / 2) || s.badTag rk }) := by
  subst hj hrk
  refine next_congr ((ite_conventional hr hc).trans ?_)
  simp only [hc, hopen]

/-- The row closes after a column command with AP. -/
theorem State.ap_spec (s : State) (ch j : Nat) (ap : Bool) : Keeps [.rows, .chans, .act] s ((if ap then s.closeRow ch j else s).spend 1 1) ∧
    OnlyBank ch j s ((if ap then s.closeRow ch j else s).spend 1 1) ∧
    ((((if ap then s.closeRow ch j else s).spend 1 1).chan ch).bank j).row = if ap then none else ((s.chan ch).bank j).row := by
  cases ap with
  | true => exact ⟨(Keeps.closeRow s ch j).append (Keeps.spend ..), (s.closeRow_onlyBank ch j).trans ((Keeps.spend ..).onlyBank rfl ch j), s.closeRow_row ch j⟩
  | false => exact ⟨(Keeps.spend ..).mono rfl, (Keeps.spend ..).onlyBank rfl ch j, rfl⟩

/-- Settles O1: each command is past its checks, and its effect is that of the channel's shared operations (04 R136, R138; 06 R216, R217). -/
theorem conventionalCommandsComplete : Obligations.ConventionalCommandsComplete := by
  refine ⟨fun _ _ => rfl, fun _ _ => rfl, fun s ch rank bank row who j rk hj hrk hr hs hk hopen hm => does_act hj hr hrk hs hk hopen hm,
    fun s ch rank bank both j hj hr hc hk => does_pre hj hr hc hk, fun s ch rank bank j b hj hb hr hc hk hopen hdue => does_ref hj hr hb hc hk hopen hdue,
    fun s ch rank allr reg value hr hc => does_mrw hr hc,
    fun s ch rank reg hr hc => .next (next_congr ((ite_conventional hr hc).trans (if_pos hc))) ⟨rfl, .answer ..⟩,
    fun s ch rank bank ap col j r rk hj hrk hr hc hopen hask => ?_, fun s ch rank bank ap col j r rk hj hrk hr hc hopen hask => ?_⟩ <;>
    have run := exec_rd (col := col) (ap := ap) hj hrk hr hc hopen <;>
    obtain ⟨kept, only, row⟩ := s.ap_spec ch j ap
  · rw [if_neg (by simp [hask])] at run
    have after := (Keeps.noteRead ((if ap then s.closeRow ch j else s).spend 1 1) (s.isPoisoned (rk * 32 + col.toNat / 2) || s.badTag rk)
      (rk * 32 + col.toNat / 2) 8 none (s.logAddr (rk * 32 + col.toNat / 2))).append (Keeps.answer _
        { kind := 1, data := s.rawColumn rk col.toNat, poison := s.isPoisoned (rk * 32 + col.toNat / 2) || s.badTag rk })
    refine .next run ⟨rfl, ?_, (only.trans (after.onlyBank rfl ch j)).chans, (kept.append after).sameBanks rfl rfl⟩
    rw [after.chan_eq rfl, row, hopen]
  · rw [if_pos hask] at run
    have after := Keeps.askDecode ((if ap then s.closeRow ch j else s).spend 1 1) rk col.toNat 8 none (s.logAddr (rk * 32 + col.toNat / 2)) none
    refine .next run ⟨⟨{ row := rk, col := col.toNat, path := 8, part := none, addr := s.logAddr (rk * 32 + col.toNat / 2), req := none }, ?_, rfl, rfl⟩, ?_, (only.trans (after.onlyBank rfl ch j)).chans, (kept.append after).sameBanks rfl rfl⟩
    · rw [State.askDecode, State.stack_modStack, kept.stack_eq rfl]
    · exact congrArg Output.answer ((kept.append after).same .out (by decide))

end Sys2Proof.Machine
end

section
/-! A column write stores its column and nothing else (03 R95; 06 R217). -/

namespace Sys2Proof.Machine

/-! ### Runs of a table -/

section
variable {α : Type} [DecidableEq α] (d : Nat → α)

omit [DecidableEq α] in
theorem Tab.getRun_congr {t u : Tab α} (n k : Nat) (h : ∀ a, k ≤ a → a < k + n → Tab.get d t a = Tab.get d u a) :
    Tab.getRun d t k n = Tab.getRun d u k n := by
  induction n generalizing k with
  | zero => rfl
  | succ n ih => rw [Tab.getRun, Tab.getRun, h k (Nat.le_refl k) (by omega), ih (k + 1) fun a ha hlt => h a (by omega) (by omega)]

theorem Tab.getRun_setRun (vs : List α) (t : Tab α) (k : Nat) : Tab.getRun d (Tab.setRun d t k vs) k vs.length = vs := by
  induction vs generalizing t k with
  | nil => rfl
  | cons v vs ih =>
    have head : Tab.get d (Tab.setRun d (Tab.set d t k v) (k + 1) vs) k = v :=
      (Tab.get_setRun_lt d vs _ (k + 1) k (by omega)).trans (Tab.get_set_same ..)
    rw [List.length_cons, Tab.getRun, Tab.setRun, head, ih]

theorem Tab.get_updMany_rel {R : α → α → Prop} (hr : ∀ x, R x x) (ht : ∀ {x y z}, R x y → R y z → R x z) (f : α → α) (hf : ∀ x, R x (f x))
    (ks : List Nat) (t : Tab α) (j : Nat) : R (Tab.get d t j) (Tab.get d (Tab.updMany d f ks t) j) := by
  induction ks generalizing t with
  | nil => exact hr _
  | cons k ks ih =>
    refine ht ?_ (ih _)
    by_cases hk : j = k
    · subst hk
      rw [Tab.get_upd_same]
      exact hf _
    · rw [Tab.get_upd_ne _ _ _ _ _ hk]
      exact hr _

end

@[simp] theorem leBytes_length (n w : Nat) : (leBytes n w).length = n := by
  induction n generalizing w with
  | zero => rfl
  | succ n ih => rw [leBytes, List.length_cons, ih]

/-! ### The cells of a row -/

theorem filter_toggle (p : Nat → Bool) (e : Nat) (l : List Nat) (h : p e = false) : (toggle e l).filter p = l.filter p := by
  induction l with
  | nil => simp [toggle, h]
  | cons x l ih =>
    unfold toggle
    split
    · rw [List.filter_cons_of_neg (by simp [h])]
    split
    next hx => rw [List.filter_cons_of_neg (by simp [← hx, h])]
    next hx => rw [List.filter_cons, List.filter_cons, ih]

theorem filter_toggleAll (p : Nat → Bool) (es l : List Nat) (h : ∀ e ∈ es, p e = false) : (toggleAll es l).filter p = l.filter p := by
  induction es generalizing l with
  | nil => rfl
  | cons e es ih =>
    have rest := ih (toggle e l) fun x hx => h x (List.mem_cons_of_mem _ hx)
    exact rest.trans (filter_toggle p e l (h e List.mem_cons_self))

/-- The cells of column position `c` that differ from what was written. -/
def RowMeta.errsAt (m : RowMeta) (c : Nat) : List Nat := m.errs.filter (fun e => e / 272 == c)

theorem RowMeta.touched_eq (m : RowMeta) (c : Nat) : m.touched c = !(m.errsAt c).isEmpty := by
  rw [RowMeta.touched, RowMeta.errsAt, Bool.eq_iff_iff]
  simp

theorem RowMeta.flips_eq (m : RowMeta) (c lo n : Nat) :
    m.flips c lo n = bitsAt (((m.errsAt c).filter (fun e => decide (lo ≤ e % 272) && decide (e % 272 < lo + n))).map (fun e => e % 272 - lo)) := by
  rw [RowMeta.flips, RowMeta.errsAt, List.filter_filter]
  congr 3
  funext e
  ac_rfl

theorem State.rawColumn_congr {s t : State} {rk c : Nat} (he : (t.row rk).errsAt c = (s.row rk).errsAt c) (hw : t.written rk c = s.written rk c) :
    t.rawColumn rk c = s.rawColumn rk c := by
  simp only [State.rawColumn, RowMeta.touched_eq, RowMeta.flips_eq, he, hw]

theorem State.rawColumn_of_untouched {s : State} {rk c : Nat} (h : (s.row rk).errsAt c = []) : s.rawColumn rk c = s.written rk c := by
  simp [State.rawColumn, RowMeta.touched_eq, h]

theorem State.columnState_of_untouched {s : State} {rk c : Nat} (h : (s.row rk).errsAt c = []) :
    s.columnState rk c = if s.colBad (colKey rk c) then .complement else .good := by
  simp [State.columnState, RowMeta.touched_eq, h]

/-! ### A column stored -/

section
variable (s : State) (rk c : Nat) (l : List Byte) (comp : Bool)

/-- The cells that differ afterwards: none in the column, none but the parity's elsewhere (R95). -/
theorem State.storeColumn_errsAt (i : Nat) (hi : i < 64) :
    ((s.storeColumn rk c l comp).row rk).errsAt i = if i = c then [] else (s.row rk).errsAt i := by
  unfold State.storeColumn
  extract_lets m old t s1 par
  have first : s1.row rk = m := rfl
  split
  next ht =>
    have parity (par : List Nat) : ∀ e ∈ par.map (fun j => 272 * (64 + j / 256) + j % 256), (e / 272 == i) = false := by
      intro e he
      obtain ⟨j, _, rfl⟩ := List.mem_map.1 he
      rw [beq_eq_false_iff_ne]
      omega
    rw [State.row_modRow, first, RowMeta.errsAt, filter_toggleAll _ _ _ (parity par), List.filter_filter]
    split
    next hc => exact List.filter_eq_nil_iff.2 fun e _ => by subst hc; cases h : e / 272 == i <;> simp [h, bne]
    next hc =>
      refine List.filter_congr fun e _ => ?_
      by_cases he : e / 272 = i <;> simp [he, hc]
  next ht =>
    rw [first]
    split
    next hc =>
      subst hc
      have untouched : (m.errsAt i).isEmpty = true := by simpa [RowMeta.touched_eq] using ht
      exact List.isEmpty_iff.1 untouched
    next => rfl

theorem State.storeColumn_mem : (s.storeColumn rk c l comp).mem = Tab.setRun (fun _ => 0) s.mem (rk * 2048 + c * 32) l := by
  unfold State.storeColumn
  extract_lets m old t s1
  split <;> rfl

theorem State.storeColumn_colBad (k : Nat) : (s.storeColumn rk c l comp).colBad k = if k = colKey rk c then comp else s.colBad k := by
  have stored : (s.storeColumn rk c l comp).colBad k = (s.modColBad (colKey rk c) (fun _ => comp)).colBad k := by
    unfold State.storeColumn
    extract_lets m old t s1
    split <;> rfl
  rw [stored]
  split
  next hk => rw [hk, State.colBad_modColBad]
  next hk => exact State.colBad_modColBad_ne _ _ _ _ hk

variable (hl : l.length = 32)
include hl

theorem State.storeColumn_written : (s.storeColumn rk c l comp).written rk c = l := by
  have run := Tab.getRun_setRun (fun _ => 0) l s.mem (rk * 2048 + c * 32)
  rw [hl] at run
  rw [State.written, State.storeColumn_mem, run]

theorem State.storeColumn_memByte (a : Nat) (ha : a < rk * 2048 + c * 32 ∨ rk * 2048 + c * 32 + 32 ≤ a) :
    (s.storeColumn rk c l comp).memByte a = s.memByte a := by
  rw [State.memByte, State.storeColumn_mem]
  rcases ha with ha | ha
  · exact Tab.get_setRun_lt _ _ _ _ _ ha
  · exact Tab.get_setRun_ge _ _ _ _ _ (by omega)

theorem State.storeColumn_written_ne (i : Nat) (hi : i ≠ c) : (s.storeColumn rk c l comp).written rk i = s.written rk i :=
  Tab.getRun_congr _ _ _ fun a hlo hhi => s.storeColumn_memByte rk c l comp hl a (by omega)

end

/-! ### The row closing behind the write -/

/-- The rows differ in their tallies at most. -/
def TalliesOnly (s t : State) : Prop := ∀ k, ∃ n, t.row k = { s.row k with tally := n }

theorem TalliesOnly.trans {s t u : State} (h : TalliesOnly s t) (g : TalliesOnly t u) : TalliesOnly s u := by
  intro k
  obtain ⟨n, hn⟩ := h k
  obtain ⟨m, hm⟩ := g k
  exact ⟨m, by rw [hm, hn]⟩

theorem Keeps.talliesOnly {L : List Field} {s t : State} (h : Keeps L s t) (hL : L.contains .rows = false) : TalliesOnly s t :=
  fun k => ⟨_, h.row_eq hL k⟩

theorem State.clearTallies_talliesOnly (s : State) (b : Nat) (ws : List (Nat × Nat)) : TalliesOnly s (s.clearTallies b ws) := fun _ =>
  Tab.get_updMany_rel rowDefault (R := fun m r : RowMeta => ∃ n, r = { m with tally := n }) (fun m => ⟨m.tally, rfl⟩)
    (fun ⟨_, hn⟩ ⟨m, hm⟩ => ⟨m, by rw [hm, hn]⟩) _ (fun _ => ⟨0, rfl⟩) _ _ _

theorem State.repay_talliesOnly (s : State) (ch j : Nat) : TalliesOnly s (s.repay ch j) :=
  TalliesOnly.trans (s.clearTallies_talliesOnly _ _) (((Keeps.modChan ..).append (Keeps.modChan ..)).talliesOnly rfl)

theorem State.closeRow_talliesOnly (s : State) (ch j : Nat) : TalliesOnly s (s.closeRow ch j) := by
  have repaid (l : List Nat) (u : State) : TalliesOnly u (l.foldl (fun s _ => s.repay ch j) u) := by
    induction l generalizing u with
    | nil => exact fun k => ⟨_, rfl⟩
    | cons _ l ih => exact TalliesOnly.trans (u.repay_talliesOnly ch j) (ih _)
  exact TalliesOnly.trans ((Keeps.modChan ..).talliesOnly rfl) (repaid _ _)

theorem State.ap_talliesOnly (s : State) (ch j : Nat) (ap : Bool) : TalliesOnly s ((if ap then s.closeRow ch j else s).spend 1 1) := by
  cases ap with
  | true => exact TalliesOnly.trans (s.closeRow_talliesOnly ch j) ((Keeps.spend ..).talliesOnly rfl)
  | false => exact (Keeps.spend ..).talliesOnly rfl

theorem exec_wr {s : State} {ch : Fin 1536} {rank : BitVec 5} {bank ap : Bool} {col : BitVec 6} {data : BitVec 256} {j r rk : Nat}
    (hj : j = 2 * rank.toNat + nat bank) (hrk : rk = rowKey (bankOf ch j) r) (hr : rank.toNat < 24) (hc : s.conventional ch = true)
    (hopen : ((s.chan ch).bank j).row = some r) (ht : s.badTag rk = false) (ha : s.columnAsks rk col.toNat = false) :
    exec (.wr ch rank bank col ap data) s =
      .next (((if ap then s.closeRow ch j else s).spend 1 1).storeColumn rk col.toNat (leBytes 32 data.toNat) false) := by
  subst hj hrk
  refine next_congr ((ite_conventional hr hc).trans ?_)
  simp only [hc, hopen, ht, ha, Bool.false_eq_true, if_false]

/-- Settles O2: a normal check lets the column be stored at once, and storing it touches its 32 bytes, its check and the row's parity
(03 R95; 06 R217). -/
theorem columnWriteStoresOneColumn : Obligations.ColumnWriteStoresOneColumn := by
  intro s ch rank bank ap col data j r rk hj hrk hr hc hopen ht ha
  obtain ⟨kept, only, row⟩ := s.ap_spec ch j ap
  obtain ⟨n, tallies⟩ := s.ap_talliesOnly ch j ap rk
  refine .next (exec_wr hj hrk hr hc hopen ht ha) ?_
  generalize (if ap then s.closeRow ch j else s).spend 1 1 = u at *
  have stored := Keeps.storeColumn u rk col.toNat (leBytes 32 data.toNat) false
  have hlen := leBytes_length 32 data.toNat
  have hcol : col.toNat < 64 := col.isLt
  have clean : ((u.storeColumn rk col.toNat (leBytes 32 data.toNat) false).row rk).errsAt col.toNat = [] := by
    rw [State.storeColumn_errsAt _ _ _ _ _ _ hcol, if_pos rfl]
  refine ⟨?_, ?_, fun a h => ?_, fun c hlt hne => State.rawColumn_congr ?_ ?_, fun k hk => ?_, ?_, (only.trans (stored.onlyBank rfl ch j)).chans,
    (kept.append stored).mono rfl⟩
  · rw [State.rawColumn_of_untouched clean, State.storeColumn_written _ _ _ _ _ hlen]
  · rw [State.columnState_of_untouched clean, State.storeColumn_colBad, if_pos rfl]
    rfl
  · rw [State.storeColumn_memByte _ _ _ _ _ hlen _ h, State.memByte, kept.same .mem (by decide), State.memByte]
  · rw [State.storeColumn_errsAt _ _ _ _ _ _ hlt, if_neg hne, tallies]
    rfl
  · rw [State.storeColumn_written_ne _ _ _ _ _ hlen _ hne, State.written, kept.same .mem (by decide), State.written]
  · rw [State.storeColumn_colBad, if_neg hk, State.colBad, kept.same .pois (by decide), State.colBad]
  · rw [stored.chan_eq rfl, row, hopen]

end Sys2Proof.Machine
end

section
/-! What a halt leaves of a channel: at most its pass is marked to be abandoned (06 R257; 11 R469). -/

namespace Sys2Proof.Machine

/-! ### Numbers that a table lists once -/

section
variable {α : Type}

/-- The table lists number `k` at most once. -/
def Tab.Once (t : Tab α) (k : Nat) : Prop := (t.filter (fun e => e.1 == k)).length ≤ 1

theorem Tab.filter_erase (t : Tab α) (k : Nat) : (Tab.erase t k).filter (fun e => e.1 == k) = [] :=
  List.filter_eq_nil_iff.2 fun e he => by simpa using Tab.mem_erase t k e he

theorem Tab.filter_erase_ne (t : Tab α) (k j : Nat) (h : j ≠ k) :
    (Tab.erase t k).filter (fun e => e.1 == j) = t.filter (fun e => e.1 == j) := by
  induction t with
  | nil => rfl
  | cons e t ih =>
    obtain ⟨i, v⟩ := e
    rw [Tab.erase]
    split
    next hi => rw [ih, List.filter_cons_of_neg (by simpa [hi] using fun e => h e.symm)]
    next hi => rw [List.filter_cons, List.filter_cons, ih]

theorem Tab.filter_put (t : Tab α) (k : Nat) (v : α) (p : Nat × α → Bool) : (Tab.put t k v).filter p =
    (if p (k, v) then (Tab.put t k v).filter p else t.filter p) := by
  split
  · rfl
  next hp =>
    induction t with
    | nil => rw [Tab.put, List.filter_cons_of_neg (by simpa using hp)]
    | cons e t ih =>
      obtain ⟨i, w⟩ := e
      rw [Tab.put]
      split
      · rw [List.filter_cons_of_neg (by simpa using hp)]
      · rw [List.filter_cons, List.filter_cons, ih]

theorem Tab.length_filter_put (t : Tab α) (k : Nat) (v : α) (p : Nat × α → Bool) : ((Tab.put t k v).filter p).length ≤ 1 + (t.filter p).length := by
  induction t with
  | nil => exact (List.length_filter_le ..).trans (by simp [Tab.put])
  | cons e t ih =>
    obtain ⟨i, w⟩ := e
    rw [Tab.put]
    split
    · rw [List.filter_cons]
      split
      · rw [List.length_cons, Nat.add_comm]
      · exact Nat.le_add_left _ _
    · rw [List.filter_cons, List.filter_cons]
      split
      · simp only [List.length_cons]
        omega
      · exact ih

section
variable [DecidableEq α] (d : Nat → α)

theorem Tab.once_set (t : Tab α) (k j : Nat) (v : α) (h : j = k ∨ t.Once j) : (Tab.set d t k v).Once j := by
  unfold Tab.Once Tab.set
  by_cases hj : j = k
  · subst hj
    split
    · simp [Tab.filter_erase]
    · exact (Tab.length_filter_put ..).trans (by simp [Tab.filter_erase])
  · split
    · rw [Tab.filter_erase_ne _ _ _ hj]
      exact h.resolve_left hj
    · rw [Tab.filter_put, if_neg (by simpa using fun e => hj e.symm), Tab.filter_erase_ne _ _ _ hj]
      exact h.resolve_left hj

theorem Tab.once_mapAll (f : Nat → α → α) (t : Tab α) (k : Nat) (h : t.Once k) : (Tab.mapAll d f t).Once k := by
  have fewer : ((Tab.mapAll d f t).filter (fun e => e.1 == k)).length ≤ (t.filter (fun e => e.1 == k)).length := by
    clear h
    induction t with
    | nil => exact Nat.le_refl _
    | cons e t ih =>
      obtain ⟨i, v⟩ := e
      rw [Tab.mapAll, List.filter_cons]
      split
      · exact ih.trans (by split <;> simp)
      · rw [List.filter_cons]
        split <;> simp [ih]
  exact fewer.trans h

omit [DecidableEq α] in
theorem Tab.get_of_filter_nil (t : Tab α) (k : Nat) (h : t.filter (fun e => e.1 == k) = []) : Tab.get d t k = d k := by
  induction t with
  | nil => rfl
  | cons e t ih =>
    obtain ⟨i, v⟩ := e
    by_cases hi : i = k
    · simp [hi] at h
    · rw [List.filter_cons_of_neg (by simpa using hi)] at h
      rw [Tab.get, if_neg hi, ih h]

theorem Tab.get_mapAll (f : Nat → α → α) (t : Tab α) (k : Nat) (hf : f k (d k) = d k) (h : t.Once k) :
    Tab.get d (Tab.mapAll d f t) k = f k (Tab.get d t k) := by
  induction t with
  | nil => exact hf.symm
  | cons e t ih =>
    obtain ⟨i, v⟩ := e
    by_cases hi : i = k
    · subst hi
      have rest : t.filter (fun e => e.1 == i) = [] := List.length_eq_zero_iff.1 (by simpa [Tab.Once] using h)
      rw [Tab.mapAll, Tab.get, if_pos rfl]
      split
      next hv =>
        rw [ih (by simp [Tab.Once, rest]), Tab.get_of_filter_nil d t i rest, hf, hv]
      next => rw [Tab.get, if_pos rfl]
    · have rest : Tab.Once t k := by simpa [Tab.Once, hi] using h
      rw [Tab.mapAll, Tab.get, if_neg hi, ← ih rest]
      split
      · rfl
      · rw [Tab.get, if_neg hi]

/-- A property that `f` gives every value, and that the unlisted value has. -/
theorem Tab.get_mapAll_has {P : α → Prop} (f : Nat → α → α) (t : Tab α) (k : Nat) (hd : P (d k)) (hf : ∀ v, P (f k v)) :
    P (Tab.get d (Tab.mapAll d f t) k) := by
  induction t with
  | nil => exact hd
  | cons e t ih =>
    obtain ⟨i, v⟩ := e
    rw [Tab.mapAll]
    split
    · exact ih
    · rw [Tab.get]
      split
      next hi => exact hi ▸ hf v
      next => exact ih

end

end

/-! ### The channels under halts -/

/-- Channel `k` differs in its pass at most, and is listed at most once where it was. -/
structure PassOnly (k : Nat) (s t : State) : Prop where
  /-- at most the pass differs -/
  chan : ∃ p, t.chan k = { s.chan k with pass := p }
  /-- the channel is still listed at most once -/
  once : t.chans.Once k

theorem PassOnly.refl {k : Nat} {s : State} (h : s.chans.Once k) : PassOnly k s s := ⟨⟨_, rfl⟩, h⟩

theorem PassOnly.trans {k : Nat} {s t u : State} (h : PassOnly k s t) (g : PassOnly k t u) : PassOnly k s u := by
  obtain ⟨p, hp⟩ := h.chan
  obtain ⟨q, hq⟩ := g.chan
  exact ⟨⟨q, by rw [hq, hp]⟩, g.once⟩

theorem Keeps.passOnly {L : List Field} {s t : State} (h : Keeps L s t) (hL : L.contains .chans = false) (k : Nat) (hs : s.chans.Once k) :
    PassOnly k s t := by
  have chans : t.chans = s.chans := h.same .chans (by simpa using hL)
  exact ⟨⟨_, h.chan_eq hL k⟩, by rwa [chans]⟩

theorem State.once_modChan (s : State) (ch : Nat) (f : Channel → Channel) : (s.modChan ch f).chans.Once ch := 
  Tab.once_set (fun _ => ({} : Channel)) s.chans ch ch (f (s.chan ch)) (.inl rfl)

/-- A pass of context `c` is marked to be abandoned (06 R257). -/
def Channel.abandonOf (c : Nat) (ch : Channel) : Channel :=
  match ch.pass with
  | some p => if p.ctx = c then { ch with pass := some { p with abandon := true } } else ch
  | none => ch

theorem Channel.abandonOf_pass (c : Nat) (ch : Channel) : ∃ p, ch.abandonOf c = { ch with pass := p } := by
  unfold Channel.abandonOf
  split
  · split <;> exact ⟨_, rfl⟩
  · exact ⟨_, rfl⟩

section
variable {k : Nat}

theorem State.stopEngines_passOnly (s : State) (c : Nat) (h : s.chans.Once k) : PassOnly k s (s.stopEngines c) := by
  unfold State.stopEngines
  extract_lets t s1 chans copies s2 s3 mark s4 s5
  have before : Keeps [.me, .ve, .fe, .hubs] s s3 := by
    simp (disch := decide) only [s3, s2, s1, Keeps.foldl_within fun _ _ => Keeps.modFchan .., Keeps.modVec_iff, Keeps.modMat_iff,
      Keeps.modHub_iff, Keeps.self_iff]
  have same : s3.chans = s.chans := before.same .chans (by decide)
  have marked : PassOnly k s s4 := by
    obtain ⟨p, hp⟩ := (s.chan k).abandonOf_pass c
    refine ⟨⟨p, ?_⟩, ?_⟩
    · show Tab.get _ (Tab.mapAll _ (fun _ => Channel.abandonOf c) s3.chans) k = _
      rw [Tab.get_mapAll _ _ _ _ rfl (by rwa [same]), same]
      exact hp
    · exact Tab.once_mapAll _ (fun _ => Channel.abandonOf c) _ _ (by rwa [same])
  have rest : PassOnly k s4 s5 := ((Keeps.putCrus ..).append (Keeps.putHubs ..)).passOnly rfl k marked.once
  have stopped : PassOnly k s5 (s5.modCtx c (fun x => { x with nbq := [], nbrun := none, gq := none, outst := [], access := none })) :=
    (Keeps.modCtx ..).passOnly rfl k rest.once
  exact marked.trans (rest.trans (stopped.trans ((Keeps.copiesStopped ..).passOnly rfl k stopped.once)))

theorem State.haltOne_passOnly (s : State) (c reason fld step : Nat) (h : s.chans.Once k) : PassOnly k s (s.haltOne c reason fld step) := by
  unfold State.haltOne
  extract_lets x addr s1 status s2 s3
  have stopped := s.stopEngines_passOnly c h
  have recorded : PassOnly k (s.stopEngines c) s1 := (Keeps.modCtx ..).passOnly rfl k stopped.once
  have answered : Keeps [.parts, .pages, .ports, .act, .out] s1 s2 := by
    simp only [s2]
    split
    · exact Keeps.complete ..
    · exact .refl ..
  have told : PassOnly k s1 (s3.trace 3 x.part c 0 step 0 0 reason) :=
    ((answered.append (Keeps.bbox ..)).append (Keeps.trace ..)).passOnly rfl k recorded.once
  split
  · exact stopped.trans (recorded.trans told)
  · exact .refl h

theorem State.haltMany_passOnly (n : Nat) (hs : List (Nat × Nat × Nat × Nat)) (s : State) (h : s.chans.Once k) :
    PassOnly k s (State.haltMany n hs s) := by
  induction n generalizing hs s with
  | zero => exact .refl h
  | succ n ih =>
    cases hs with
    | nil => exact .refl h
    | cons e hs =>
      obtain ⟨c, reason, fld, step⟩ := e
      rw [State.haltMany]
      split
      · have met := (Keeps.failMeets s c).passOnly rfl k h
        have halted := met.trans (State.haltOne_passOnly _ c reason fld step met.once)
        exact halted.trans (ih _ _ halted.once)
      · exact ih _ _ h

theorem State.halt_passOnly (s : State) (c reason fld step : Nat) (h : s.chans.Once k) : PassOnly k s (s.halt c reason fld step) :=
  State.haltMany_passOnly _ _ _ h

theorem State.ferryFault_passOnly (s : State) (t ch fault fld : Nat) (at_ : Nat × Nat × Nat × Nat) (h : s.chans.Once k) :
    PassOnly k s (s.ferryFault t ch fault fld at_) := by
  unfold State.ferryFault
  extract_lets i f c copy step tag s1 s2 word s3 s4 s5
  have dropped : Keeps [.fe, .hubs, .xacts] s s3 := by
    simp (disch := decide) only [s3, s2, s1, Keeps.bbox_iff, Keeps.putXacts_iff, Keeps.modHub_iff, Keeps.modFchan_iff, Keeps.self_iff]
  have posted : Keeps [.parts, .pages, .ports, .act, .out] s3 s4 := by
    simp only [s4]
    split
    · exact (Keeps.event ..).mono rfl
    · exact .refl ..
  have stopped : PassOnly k s s5 := ((dropped.append posted).append (Keeps.copiesStopped ..)).passOnly rfl k h
  split
  · exact stopped
  · exact stopped.trans (State.halt_passOnly _ _ _ _ _ stopped.once)

end

end Sys2Proof.Machine
end

section
/-! Refresh, row disturbance and command errors of a channel (04 R136, R138, R142, R147, R160 to R162). -/

namespace Sys2Proof.Machine

/-! ### Refreshes that fall due -/

section
variable {s : State} {ch : Fin 1536} {j : Fin 48} {postpone : Bool}

theorem does_refreshDue {b : Bank} (hb : b = (s.chan ch).bank j) (hrank : (s.chan ch).rank (j.val / 2) ≠ .selfRefresh)
    (hsr : (s.stack (ch.val / 16)).sr = false) (hm : (s.chan ch).mode = .conv) : Does (.refreshDue ch j postpone) s (fun t =>
      (0 < b.early → ((t.chan ch).bank j).early = b.early - 1) ∧
      (b.early = 0 → b.row.isSome = true ∨ (postpone = true ∧ b.postponed < 4) →
        ((t.chan ch).bank j).postponed = min 5 (b.postponed + 1)) ∧
      (b.early = 0 → b.row = none → (postpone = false ∨ 4 ≤ b.postponed) →
        ((t.chan ch).bank j).refk = (b.refk + 1) % 8256 ∧
        ∀ w ∈ refreshWords b.refk, ∀ x ∈ s.rowsAt (bankOf ch j) w.1 w.2, (t.row x).tally = 0) ∧
      (∀ k, k ≠ ch.val → t.chan k = s.chan k) ∧ SameBanks s t) := by
  have asleep : ¬ ((s.chan ch).rank (j.val / 2) = .selfRefresh ∨ (s.stack (ch.val / 16)).sr = true) := by simp [hrank, hsr]
  have run : exec (.refreshDue ch j postpone) s = .next (if 0 < b.early then s.modChan ch (fun c => c.modBank j (fun b => { b with early := b.early - 1 }))
      else if (s.chan ch).mode ≠ .conv ∨ b.row.isSome = true ∨ (postpone = true ∧ b.postponed < 4) then
        s.modChan ch (fun c => c.modBank j (fun b => { b with postponed := min 5 (b.postponed + 1) }))
      else s.refreshBank ch j) := by
    subst hb
    exact next_congr (if_neg asleep)
  refine .next run ?_
  subst hb
  split
  next he =>
    refine ⟨fun _ => ?_, fun h0 => absurd h0 (by omega), fun h0 => absurd h0 (by omega), (OnlyBank.modBank ..).chans, (Keeps.modChan ..).sameBanks rfl rfl⟩
    rw [State.chan_modChan, Channel.bank_modBank]
  next he =>
    split
    next hp =>
      refine ⟨fun h0 => absurd h0 he, fun _ _ => ?_, fun _ hrow hpost => ?_, (OnlyBank.modBank ..).chans, (Keeps.modChan ..).sameBanks rfl rfl⟩
      · rw [State.chan_modChan, Channel.bank_modBank]
      · rcases hp with h | h | h
        · exact absurd hm h
        · simp [hrow] at h
        · rcases hpost with hf | hf
          · exact absurd h.1 (by simp [hf])
          · exact absurd h.2 (by omega)
    next hp =>
      refine ⟨fun h0 => absurd h0 he, fun _ h => absurd (Or.inr h) hp, fun _ _ _ => ⟨?_, fun w hw x hx => s.refreshBank_tally _ _ w hw x hx⟩,
        (s.refreshBank_onlyBank ch j).chans, (Keeps.refreshBank ..).sameBanks rfl rfl⟩
      rw [State.refreshBank_bank]

theorem does_refreshDue_asleep (h : (s.chan ch).rank (j.val / 2) = .selfRefresh ∨ (s.stack (ch.val / 16)).sr = true) :
    Does (.refreshDue ch j postpone) s (fun t => ((t.chan ch).bank j).refk = (((s.chan ch).bank j).refk + 1) % 8256 ∧
      (∀ w ∈ refreshWords ((s.chan ch).bank j).refk, ∀ x ∈ s.rowsAt (bankOf ch j) w.1 w.2, (t.row x).tally = 0) ∧
      Keeps [.chans, .rows] s t) :=
  .next (next_congr (if_pos h)) ⟨by rw [State.refreshBank_bank], fun w hw x hx => s.refreshBank_tally _ _ w hw x hx, (Keeps.refreshBank ..).mono rfl⟩

/-! ### Alerts -/

theorem Channel.throttle_bank (c : Channel) (who k now i : Nat) : (c.throttle who k now).bank i = c.bank i := by
  unfold Channel.throttle
  split <;> rfl

theorem Channel.throttle_alerts (c : Channel) (who k now : Nat) : (c.throttle who k now).alerts = c.alerts := by
  unfold Channel.throttle
  split <;> rfl

/-- Where the rows of a bank lie depends on the rows alone. -/
theorem State.rowsAt_rows (s : State) (b u w : Nat) : ({ rows := s.rows } : State).rowsAt b u w = s.rowsAt b u w := rfl

theorem State.wordOf_rows (s : State) (b r : Nat) : ({ rows := s.rows } : State).wordOf b r = s.wordOf b r := rfl

/-- An alert counted and its opener throttled, before the neighbours are refreshed (04 R147, R148). -/
def State.alerted (s : State) (ch j : Nat) : State :=
  (s.modChan ch (fun c => ({ c with alerts := satNat 16 (c.alerts + 1) } : Channel).throttle ((s.chan ch).bank j).opener j s.cyc)).count
    (tileOfChan ch) 0x0C none 1

theorem State.alerted_chan (s : State) (ch j : Nat) : (s.alerted ch j).chan ch =
    ({ s.chan ch with alerts := satNat 16 ((s.chan ch).alerts + 1) } : Channel).throttle ((s.chan ch).bank j).opener j s.cyc := by
  rw [State.alerted, (Keeps.count ..).chan_eq rfl, State.chan_modChan]

theorem State.alerted_keeps (s : State) (ch j : Nat) : Keeps [.chans, .pm] s (s.alerted ch j) := (Keeps.modChan ..).append (Keeps.count ..)

theorem exec_alert {r : Nat} (ha : ((s.chan ch).bank j).alert = some r) : exec (.rowDisturbanceAlert ch j) s =
    .next (if (s.chan ch).mode = .conv then (s.alerted ch j).refreshNeighbours ch j r else s.alerted ch j) := by
  refine next_congr ?_
  simp only [ha]
  rfl

theorem does_alert {r : Nat} (ha : ((s.chan ch).bank j).alert = some r) (hm : (s.chan ch).mode = .conv) :
    Does (.rowDisturbanceAlert ch j) s (fun t => ((t.chan ch).bank j).alert = none ∧
      (t.chan ch).alerts = satNat 16 ((s.chan ch).alerts + 1) ∧
      (((s.chan ch).bank j).opener < 28 → ∃ x ∈ (t.chan ch).throttles,
        x.who = ((s.chan ch).bank j).opener ∧ x.bank = j.val ∧ x.since = s.cyc) ∧
      (∀ w ∈ neighbourWords (s.wordOf (bankOf ch j) r).1 (s.wordOf (bankOf ch j) r).2,
        ∀ x ∈ s.rowsAt (bankOf ch j) w.1 w.2, (t.row x).tally = 0) ∧ SameBanks s t) := by
  have chan : ((s.alerted ch j).refreshNeighbours ch j r).chan ch =
      ((s.alerted ch j).chan ch).modBank j (fun b => { b with alert := none }) := by
    rw [State.refreshNeighbours, State.chan_modChan, (Keeps.clearTallies ..).chan_eq rfl]
  refine .next ((exec_alert ha).trans (next_congr (if_pos hm))) ⟨?_, ?_, fun ho => ?_, fun w hw x hx => ?_,
    ((s.alerted_keeps ch j).append (Keeps.refreshNeighbours ..)).sameBanks rfl rfl⟩
  · rw [chan, Channel.bank_modBank]
  · rw [chan, State.alerted_chan]
    exact Channel.throttle_alerts ..
  · rw [chan, State.alerted_chan]
    refine ⟨{ who := ((s.chan ch).bank j).opener, bank := j, since := s.cyc }, ?_, rfl, rfl, rfl⟩
    rw [Channel.modBank, Channel.throttle, if_neg (Nat.not_le.2 ho)]
    exact List.mem_cons_self
  · have rows : (s.alerted ch j).rows = s.rows := (s.alerted_keeps ch j).same .rows (by decide)
    rw [State.refreshNeighbours, (Keeps.modChan ..).row_eq rfl]
    refine State.clearTallies_tally _ _ _ w ?_ x ?_
    · rwa [← State.wordOf_rows, rows, State.wordOf_rows]
    · rwa [← State.rowsAt_rows, rows, State.rowsAt_rows]

theorem does_alert_nearBank {r : Nat} (ha : ((s.chan ch).bank j).alert = some r) (hm : (s.chan ch).mode ≠ .conv) :
    Does (.rowDisturbanceAlert ch j) s (fun t => ((t.chan ch).bank j).alert = some r ∧
      (t.chan ch).alerts = satNat 16 ((s.chan ch).alerts + 1) ∧ t.rows = s.rows ∧ SameBanks s t) := by
  refine .next ((exec_alert ha).trans (next_congr (if_neg hm))) ⟨?_, ?_, (s.alerted_keeps ch j).same .rows (by decide), (s.alerted_keeps ch j).sameBanks rfl rfl⟩
  · rw [State.alerted_chan, Channel.throttle_bank]
    exact ha
  · rw [State.alerted_chan]
    exact Channel.throttle_alerts ..

end

/-! ### Commands in error -/

theorem State.giveUp_of_few {s : State} {ch : Nat} {x : BusCmd} (h : (s.chan ch).caHeld = some x) (hx : x.fails < 3) : s.giveUp ch = s := by
  rw [State.giveUp, h]
  exact if_pos hx

/-- What the third failure of a command leaves of its channel (04 R161). -/
structure GivenUp (ch : Nat) (s t : State) (x : BusCmd) : Prop where
  /-- no command is held -/
  held : (t.chan ch).caHeld = none
  /-- the errors counted stay -/
  caerr : (t.chan ch).caerr = (s.chan ch).caerr
  /-- its read leaves the queue -/
  readQ : ∀ q, (s.chan ch).servedBy ch x = some q → (t.chan ch).readQ = (s.chan ch).readQ.erase q
  /-- its write leaves the queue -/
  writeQ : ∀ q, (s.chan ch).servedBy ch x = some q → (t.chan ch).writeQ = (s.chan ch).writeQ.erase q
  /-- a read is answered poisoned -/
  answer : x.write = false → ∃ a, t.out.answer = some a ∧ a.poison = true

theorem State.writeDone_passOnly (s : State) (q : Req) (k : Nat) (h : s.chans.Once k) : PassOnly k s (s.writeDone q false) := by
  unfold State.writeDone
  split
  · exact ((Keeps.modStream ..).append (Keeps.reportFail ..)).passOnly rfl k h
  · exact State.ferryFault_passOnly _ _ _ _ _ _ h
  · exact (Keeps.answer ..).passOnly rfl k h

/-- A command given up leaves the channel, and the request it served its queues. -/
def State.released (s : State) (ch : Nat) : Option Req → State
  | some q => (s.modChan ch (fun c => { c with caHeld := none })).modChan ch (fun c =>
      { c with readQ := c.readQ.erase q, writeQ := c.writeQ.erase q })
  | none => s.modChan ch (fun c => { c with caHeld := none })

theorem State.released_once (s : State) (ch : Nat) (q : Option Req) : (s.released ch q).chans.Once ch := by
  cases q <;> exact State.once_modChan ..

@[simp] theorem State.released_caHeld (s : State) (ch : Nat) (q : Option Req) : ((s.released ch q).chan ch).caHeld = none := by
  cases q <;> simp [State.released]

@[simp] theorem State.released_caerr (s : State) (ch : Nat) (q : Option Req) : ((s.released ch q).chan ch).caerr = (s.chan ch).caerr := by
  cases q <;> simp [State.released]

@[simp] theorem State.released_readQ (s : State) (ch : Nat) (q : Req) : ((s.released ch (some q)).chan ch).readQ = (s.chan ch).readQ.erase q := by
  simp [State.released]

@[simp] theorem State.released_writeQ (s : State) (ch : Nat) (q : Req) : ((s.released ch (some q)).chan ch).writeQ = (s.chan ch).writeQ.erase q := by
  simp [State.released]

/-- Giving up releases the command, logs it, and tells its requester. -/
theorem State.giveUp_eq (s : State) (ch : Nat) (x : BusCmd) (h : (s.chan ch).caHeld = some x) (hx : 3 ≤ x.fails) :
    ∃ addr part, s.giveUp ch = if x.write then
        (match (s.chan ch).servedBy ch x with
          | some q => ((s.released ch (some q)).logError x.line 127 3 x.path 127 part addr).writeDone q false
          | none => ((s.released ch none).logError x.line 127 3 x.path 127 part addr).answer { kind := 5 })
      else ((s.released ch ((s.chan ch).servedBy ch x)).logError x.line 127 3 x.path 127 part addr).answer
        { kind := 1, data := List.replicate 64 0, poison := true } := by
  unfold State.giveUp
  simp only [h, if_neg (Nat.not_lt.2 hx)]
  cases (s.chan ch).servedBy ch x <;> exact ⟨_, _, rfl⟩

/-- What follows the release touches at most a pass of the channel. -/
theorem State.giveUp_passOnly (s : State) (ch : Nat) (x : BusCmd) (h : (s.chan ch).caHeld = some x) (hx : 3 ≤ x.fails) :
    PassOnly ch (s.released ch ((s.chan ch).servedBy ch x)) (s.giveUp ch) := by
  obtain ⟨addr, part, eq⟩ := s.giveUp_eq ch x h hx
  rw [eq]
  have logged (q : Option Req) := (Keeps.logError (s.released ch q) x.line 127 3 x.path 127 part addr).passOnly rfl ch (s.released_once ch q)
  split
  · split
    next q hq =>
      rw [hq]
      exact (logged _).trans (State.writeDone_passOnly _ _ _ (logged _).once)
    next hq =>
      rw [hq]
      exact (logged _).trans ((Keeps.answer ..).passOnly rfl ch (logged _).once)
  · exact (logged _).trans ((Keeps.answer ..).passOnly rfl ch (logged _).once)

theorem State.giveUp_spec (s : State) (ch : Nat) (x : BusCmd) (h : (s.chan ch).caHeld = some x) (hx : 3 ≤ x.fails) :
    GivenUp ch s (s.giveUp ch) x := by
  obtain ⟨p, hp⟩ := (s.giveUp_passOnly ch x h hx).chan
  refine ⟨by rw [hp, State.released_caHeld], by rw [hp, State.released_caerr], fun q hq => ?_, fun q hq => ?_, fun hw => ?_⟩
  · rw [hp, hq, State.released_readQ]
  · rw [hp, hq, State.released_writeQ]
  · obtain ⟨addr, part, eq⟩ := s.giveUp_eq ch x h hx
    rw [eq, hw]
    exact ⟨_, rfl, rfl⟩

section
variable {s : State} {ch : Fin 1536} {x : BusCmd}

/-- The same command reported in error again. -/
theorem Channel.failsOf_same {c : Channel} {y : BusCmd} (hy : c.caHeld = some y) (h : y.column = x.column ∧ y.word = x.word ∧ y.line = x.line ∧ y.who = x.who) :
    c.failsOf x = y.fails + 1 := by
  simp only [Channel.failsOf, hy]
  exact if_pos h

/-- A report before the third failure keeps the command to be issued again. -/
theorem State.reported_few (s : State) (ch : Nat) (x : BusCmd) (hn : (s.chan ch).failsOf x < 3) :
    (s.reportError ch x).giveUp ch = s.reportError ch x := State.giveUp_of_few (s.reportError_chan ch x).held hn

/-- The third report gives the command up. -/
theorem State.reported_third (s : State) (ch : Nat) (x : BusCmd) (hn : 3 ≤ (s.chan ch).failsOf x) :
    (((s.reportError ch x).giveUp ch).chan ch).caHeld = none ∧
    (((s.reportError ch x).giveUp ch).chan ch).caerr = satNat 8 ((s.chan ch).caerr + 1) ∧
    (∀ q, (s.chan ch).servedBy ch x = some q → (((s.reportError ch x).giveUp ch).chan ch).readQ = (s.chan ch).readQ.erase q ∧
      (((s.reportError ch x).giveUp ch).chan ch).writeQ = (s.chan ch).writeQ.erase q) ∧
    (x.write = false → ∃ a, ((s.reportError ch x).giveUp ch).out.answer = some a ∧ a.poison = true) ∧
    SameBanks s ((s.reportError ch x).giveUp ch) := by
  have report := s.reportError_chan ch x
  have up := State.giveUp_spec _ ch _ report.held hn
  have served : ((s.reportError ch x).chan ch).servedBy ch { x with waiting := true, fails := (s.chan ch).failsOf x } = (s.chan ch).servedBy ch x := by
    simp only [Channel.servedBy, report.readQ, report.writeQ]
  refine ⟨up.held, up.caerr.trans report.caerr, fun q hq => ⟨?_, ?_⟩, up.answer, ((Keeps.reportError ..).append (Keeps.giveUp ..)).sameBanks rfl rfl⟩
  · rw [up.readQ q (served.trans hq), report.readQ]
  · rw [up.writeQ q (served.trans hq), report.writeQ]

end

/-- Settles O5: refreshes, alerts and reports in error, command by command (04 R136, R138, R147, R160 to R162). -/
theorem refreshAndAlertsComplete : Obligations.RefreshAndAlertsComplete := by
  refine ⟨fun s ch j postpone b hb hrank hsr hm => does_refreshDue hb hrank hsr hm, fun s ch j postpone h => does_refreshDue_asleep h,
    fun s ch j r ha hm => does_alert ha hm, fun s ch j r ha hm => does_alert_nearBank ha hm, fun _ _ _ _ => rfl,
    fun s ch column write word data who line path n h => ?_, fun s ch column word data who line path y hy hf hc hw hl hwho => ?_,
    fun s ch column word data who line path y hy hf hc hw hl hwho => ?_, fun s ch accepted h => ?_, fun s ch x hx hf => ?_,
    fun s ch x q hx hd hq hw hs hv => ?_, fun s ch x q hx hd hq hw hs hb => ?_, fun s ch x s1 hx hd hq hs1 => ?_⟩
  · have fails : (s.chan ch).failsOf { column := column, word := word.toNat, who := who.toNat, write := write, line := line, path := path
                                       data := data } = n ∧ n < 3 := by
      rcases h with ⟨h, rfl⟩ | ⟨y, hy, rfl, hn, hsame⟩
      · exact ⟨by simp [Channel.failsOf, h], by decide⟩
      · exact ⟨Channel.failsOf_same hy hsame, hn⟩
    have report := s.reportError_chan ch { column := column, word := word.toNat, who := who.toNat, write := write, line := line, path := path
                                           data := data }
    refine .next (next_congr (s.reported_few ch _ (by rw [fails.1]; exact fails.2))) ⟨?_, report.caerr, report.readQ, report.writeQ, .reportError ..⟩
    rw [report.held, fails.1]
  · have third := s.reported_third ch { column := column, word := word.toNat, who := who.toNat, write := false, line := line, path := path
                                        data := data } (by rw [Channel.failsOf_same hy ⟨hc, hw, hl, hwho⟩]; omega)
    obtain ⟨held, caerr, queues, answer, banks⟩ := third
    exact .next rfl ⟨held, caerr, answer rfl, fun q hq => (queues q hq).1, banks⟩
  · have third := s.reported_third ch { column := column, word := word.toNat, who := who.toNat, write := true, line := line, path := path
                                        data := data } (by rw [Channel.failsOf_same hy ⟨hc, hw, hl, hwho⟩]; omega)
    obtain ⟨held, caerr, queues, answer, banks⟩ := third
    exact .next rfl ⟨held, fun q hq => (queues q hq).2, banks⟩
  · simp only [exec, execCommandReissue, h]
  · have fails : (s.chan ch).failsOf x = x.fails + 1 := Channel.failsOf_same hx ⟨rfl, rfl, rfl, rfl⟩
    have report := s.reportError_chan ch x
    have run : exec (.commandReissue ch false) s = .next (s.reportError ch x) := by
      simp only [exec, execCommandReissue, hx, true_or, if_true, s.reported_few ch x (by omega)]
    exact .next run ⟨⟨_, report.held, fails, rfl⟩, report.caerr, .reportError ..⟩
  · simp [exec, execCommandReissue, hx, hd, hq, hw, hs, hv]
  · simp [exec, execCommandReissue, hx, hd, hq, hw, hs, hb]
  · simp [exec, execCommandReissue, hx, hd, hq, hs1]

end Sys2Proof.Machine
end

section
/-! Power states and training of a channel (04 R141 to R143, R153 to R158; 05 R209). -/

namespace Sys2Proof.Machine

theorem State.conventional_of_maySleep {s : State} {ch r : Nat} (h : s.maySleep ch r = true) : s.conventional ch = true := by
  simp only [State.maySleep, Bool.and_eq_true] at h
  exact h.1.1.1

@[simp] theorem Channel.rank_setRank (c : Channel) (r : Nat) (p : RankPower) : (c.setRank r p).rank r = p := Tab.get_set_same ..

theorem Channel.rank_setRank_ne (c : Channel) (r i : Nat) (p : RankPower) (h : i ≠ r) : (c.setRank r p).rank i = c.rank i :=
  Tab.get_set_ne _ _ _ _ _ h

/-! ### Ranks and stacks asleep and awake -/

theorem does_powerDownEntry {s : State} {ch : Fin 1536} {rank : Fin 24} (hs : s.maySleep ch rank = true)
    (hk : (s.chan ch).rank rank = .awake) (ht : s.inForce 0 rPWRCFG 0 8 ≠ 0) : Does (.powerDownEntry ch rank) s (fun t =>
      (t.chan ch).rank rank = .down ∧ (∀ r, r ≠ rank.val → (t.chan ch).rank r = (s.chan ch).rank r) ∧ Keeps [.chans] s t) := by
  have near := State.not_nearBank_of_conventional (State.conventional_of_maySleep hs)
  refine .next (next_congr ((if_neg near).trans (if_pos ⟨hs, hk, ht⟩))) ⟨?_, fun r hr => ?_, .modChan ..⟩ <;> rw [State.chan_modChan]
  · exact Channel.rank_setRank ..
  · exact Channel.rank_setRank_ne _ _ _ _ hr

theorem State.loseNbus_nbu (s : State) (bs : List Nat) (b : Nat) (h : b ∈ bs) : (s.loseNbus bs).nbu b = {} :=
  Tab.get_updMany_has (P := fun n : Nbu => n = {}) _ _ (fun _ => rfl) _ _ _ (.inr h)

theorem does_selfRefreshEntry {s : State} {ch : Fin 1536} {rank : Fin 24} (hs : s.maySleep ch rank = true)
    (hk : (s.chan ch).rank rank ≠ .selfRefresh) (ht : s.inForce 0 rPWRCFG 8 8 ≠ 0) : Does (.selfRefreshEntry ch rank) s (fun t =>
      (t.chan ch).rank rank = .selfRefresh ∧ (∀ j ∈ rankBanks rank, t.nbu (bankOf ch j) = {}) ∧ Keeps [.chans, .nbus] s t) := by
  have near := State.not_nearBank_of_conventional (State.conventional_of_maySleep hs)
  refine .next (next_congr ((if_neg near).trans (if_pos ⟨hs, hk, ht⟩))) ⟨?_, fun j hj => State.loseNbus_nbu _ _ _ (List.mem_map_of_mem hj),
    (Keeps.modChan ..).append (Keeps.loseNbus ..)⟩
  rw [(Keeps.loseNbus ..).chan_eq rfl, State.chan_modChan, Channel.rank_setRank]

theorem does_stackSelfRefreshEntry {s : State} {st : Fin 96} (hsr : (s.stack st).sr = false) (ht : s.inForce 0 rPWRCFG 16 8 ≠ 0)
    (hm : ∀ c ∈ stackChans st, (s.chan c).mode ≠ .nearBank)
    (hr : ((stackChans st).all (fun c => (List.range 24).all (fun r => (s.chan c).rank r == .selfRefresh))) = true) :
    Does (.stackSelfRefreshEntry st) s (fun t => (t.stack st).sr = true ∧ Keeps [.stks, .chans, .nbus] s t) := by
  have near : ¬ (stackChans st).filter (fun c => (s.chan c).mode == .nearBank) ≠ [] := by
    simpa [List.filter_eq_nil_iff] using hm
  refine .next (next_congr ((if_neg near).trans (if_pos ⟨hsr, ht, hr⟩))) ⟨?_, .enterStackSr ..⟩
  rw [State.enterStackSr, (Keeps.loseNbus ..).stack_eq rfl, (Keeps.putChans ..).stack_eq rfl, State.stack_modStack]

theorem mem_stackChans {st i : Nat} (h : i < 16) : 16 * st + i ∈ stackChans st := List.mem_map.2 ⟨i, List.mem_range.2 h, rfl⟩

/-- The channels of a stack awake, each to be re-centred first (04 R143, R158). -/
def State.wakeChans (s : State) (st : Nat) : State :=
  s.putChans (Tab.updMany (fun _ => {}) (fun c : Channel => { c with ranks := [], recentreDue := true }) (stackChans st) s.chans)

theorem State.wakeChans_keeps (s : State) (st : Nat) : Keeps [.chans] s (s.wakeChans st) := .putChans ..

theorem State.wakeChans_chan (s : State) (st k : Nat) : (s.wakeChans st).chan k = Tab.get (fun _ => {})
    (Tab.updMany (fun _ => {}) (fun c : Channel => { c with ranks := [], recentreDue := true }) (stackChans st) s.chans) k := by
  rw [State.chan, State.wakeChans, State.putChans]

theorem State.wakeChans_has {P : Channel → Prop} (h : ∀ c : Channel, P { c with ranks := [], recentreDue := true }) (s : State) (st : Nat) {i : Nat}
    (hi : i < 16) : P ((s.wakeChans st).chan (16 * st + i)) := by
  have listed := mem_stackChans (st := st) hi
  rw [State.wakeChans_chan]
  exact Tab.get_updMany_has (P := P) (fun _ => {}) (fun c : Channel => { c with ranks := [], recentreDue := true }) h (stackChans st) s.chans
    (16 * st + i) (.inr listed)

theorem does_stackSelfRefreshExit {s : State} {st : Fin 96} (hsr : (s.stack st).sr = true) (hh : (s.stack st).hold = false)
    (ha : (0, st.val) ∈ (s.hub (st.val / 6)).admitted) : Does (.stackSelfRefreshExit st) s (fun t => (t.stack st).sr = false ∧
      (∀ i < 16, ∀ r, (t.chan (16 * st.val + i)).rank r = .awake) ∧
      (∀ i < 16, (t.chan (16 * st.val + i)).recentreDue = true) ∧ Keeps [.stks, .chans, .hubs] s t) := by
  have run : exec (.stackSelfRefreshExit st) s = .next (((s.modStack st (fun k => { k with sr := false })).modHub (st.val / 6) (fun h =>
      { h with admitted := h.admitted.erase (0, st.val) })).wakeChans st) := next_congr (if_pos ⟨hsr, hh, ha⟩)
  have before : Keeps [.stks, .hubs] s _ := (Keeps.modStack s st (fun k => { k with sr := false })).append (Keeps.modHub _ (st.val / 6) (fun h =>
      { h with admitted := h.admitted.erase (0, st.val) }))
  refine .next run ⟨?_, fun i hi r => ?_, fun i hi => ?_, (before.append (State.wakeChans_keeps ..)).mono rfl⟩
  · rw [(State.wakeChans_keeps ..).stack_eq rfl, (Keeps.modHub ..).stack_eq rfl, State.stack_modStack]
  · exact State.wakeChans_has (P := fun c => c.rank r = .awake) (fun _ => rfl) _ _ hi
  · exact State.wakeChans_has (P := fun c => c.recentreDue = true) (fun _ => rfl) _ _ hi

/-! ### Training -/

/-- A table written at each number of a list by a function of the number. -/
theorem Tab.get_foldl_set_self {α : Type} [DecidableEq α] (d f : Nat → α) (l : List Nat) (t : Tab α) (k : Nat) (h : k ∈ l ∨ Tab.get d t k = f k) :
    Tab.get d (l.foldl (fun t i => Tab.set d t i (f i)) t) k = f k := by
  induction l generalizing t with
  | nil => exact h.resolve_left List.not_mem_nil
  | cons i l ih =>
    refine ih _ ?_
    by_cases hk : k = i
    · exact .inr (by rw [hk, Tab.get_set_same])
    · exact h.imp (fun hm => (List.mem_cons.1 hm).resolve_left hk) fun hv => by rw [Tab.get_set_ne _ _ _ _ _ hk, hv]

theorem Channel.tuned_taps (c : Channel) (l : Sweep) (now d : Nat) (hd : d < 34) :
    Tab.get (fun _ => 31) (c.tuned l now).taps d = centreOf (runOf l d) :=
  Tab.get_foldl_set_self (fun _ => 31) (fun d => centreOf (runOf l d)) _ _ _ (.inl (List.mem_range.2 hd))

section
variable {s : State} {ch : Fin 1536} {runs : Sweep} {sweeps : List Sweep}
  (hawake : ((List.range 24).all (fun r => (s.chan ch).rank r == .selfRefresh)) = false)
  (hyield : (s.chan ch).mode = .nearBank → (s.chan ch).yield = true)
include hawake hyield

/-- A channel that is awake and at a yield point trains. -/
theorem exec_recentre {full lost : Bool} {res : Sweep} (hfull : full = ((s.chan ch).sweepDue || decide (narrowest runs < s.inForce 0 rTRNCFG 8 6) ||
      decide (s.inForce 0 rTRNCFG 20 4 < (s.chan ch).farthest runs)))
    (hres : res = (if full then trained (s.inForce 0 rTRNCFG 8 6) sweeps else runs))
    (hlost : lost = (full && decide (narrowest res < s.inForce 0 rTRNCFG 8 6))) :
    exec (.recentre ch runs sweeps) s = .next (
      let s1 := (s.modChan ch (fun c => if lost then { c with recentreDue := false, sweepDue := false } else c.tuned res s.cyc)).noteEye ch
        (runs :: (if full then sweeps.take 4 else []))
      if lost then (s1.modStack (ch.val / 16) (fun k => { k with down := true })).retireTile (tileOfChan ch) 1 false else s1) := by
  subst hfull hres hlost
  exact next_congr ((if_neg (by simp [hawake])).trans (if_neg fun h => by simp [hyield h.1] at h))

theorem does_recentre {full : Bool} {res : Sweep} (hfull : full = ((s.chan ch).sweepDue || decide (narrowest runs < s.inForce 0 rTRNCFG 8 6) ||
      decide (s.inForce 0 rTRNCFG 20 4 < (s.chan ch).farthest runs)))
    (hres : res = (if full then trained (s.inForce 0 rTRNCFG 8 6) sweeps else runs))
    (hgood : full = true → s.inForce 0 rTRNCFG 8 6 ≤ narrowest res) : Does (.recentre ch runs sweeps) s (fun t => (t.chan ch).trnAt = s.cyc ∧
      (t.chan ch).recentreDue = false ∧ (t.chan ch).sweepDue = false ∧ (t.chan ch).eye = some (satNat 6 (narrowest res)) ∧
      (∀ d, d < 34 → Tab.get (fun _ => 31) (t.chan ch).taps d = centreOf (runOf res d)) ∧
      (∀ k, k ≠ ch.val → t.chan k = s.chan k) ∧ Keeps [.chans, .hubs] s t) := by
  have kept : false = (full && decide (narrowest res < s.inForce 0 rTRNCFG 8 6)) := by
    cases full with
    | false => rfl
    | true => simpa using hgood rfl
  have run := exec_recentre hawake hyield (sweeps := sweeps) hfull hres kept
  simp only [Bool.false_eq_true, if_false] at run
  refine .next run ⟨?_, ?_, ?_, ?_, fun d hd => ?_, fun k hk => ?_, (Keeps.modChan ..).append (Keeps.noteEye ..)⟩ <;>
    rw [(Keeps.noteEye ..).chan_eq rfl]
  on_goal 6 => rw [State.chan_modChan_ne _ _ _ _ hk]
  all_goals rw [State.chan_modChan]
  any_goals rfl
  exact Channel.tuned_taps _ _ _ _ hd

theorem does_recentre_lost
    (hfull : (s.chan ch).sweepDue = true ∨ narrowest runs < s.inForce 0 rTRNCFG 8 6 ∨ s.inForce 0 rTRNCFG 20 4 < (s.chan ch).farthest runs)
    (hbad : narrowest (trained (s.inForce 0 rTRNCFG 8 6) sweeps) < s.inForce 0 rTRNCFG 8 6) : Does (.recentre ch runs sweeps) s (fun t =>
      ∃ u : State, (u.stack (ch.val / 16)).down = true ∧ (u.chan ch).taps = (s.chan ch).taps ∧
        Keeps [.chans, .hubs, .stks] s u ∧ t = u.retireTile (tileOfChan ch) 1 false) := by
  have full : true = ((s.chan ch).sweepDue || decide (narrowest runs < s.inForce 0 rTRNCFG 8 6) ||
      decide (s.inForce 0 rTRNCFG 20 4 < (s.chan ch).farthest runs)) := by
    rcases hfull with h | h | h <;> simp [h]
  have lost : true = (true && decide (narrowest (trained (s.inForce 0 rTRNCFG 8 6) sweeps) < s.inForce 0 rTRNCFG 8 6)) := by simp [hbad]
  have run := exec_recentre hawake hyield (sweeps := sweeps) full rfl lost
  simp only [if_true] at run
  refine .next run ⟨_, ?_, ?_, ((Keeps.modChan ..).append (Keeps.noteEye ..)).append (Keeps.modStack ..), rfl⟩
  · rw [State.stack_modStack]
  · rw [(Keeps.modStack ..).chan_eq rfl, (Keeps.noteEye ..).chan_eq rfl, State.chan_modChan]

end

/-- Settles O6: each command's guard holds and its effect is written out (04 R141 to R143, R153 to R158; 05 R209). -/
theorem powerStatesComplete : Obligations.PowerStatesComplete := by
  refine ⟨fun s ch rank => does_powerDownEntry, fun s ch rank => does_selfRefreshEntry, fun s st => does_stackSelfRefreshEntry,
    fun s st => does_stackSelfRefreshExit, fun s ch runs res sweeps full hawake hyield => does_recentre hawake hyield,
    fun s ch runs sweeps hawake hyield => does_recentre_lost hawake hyield, fun s ch runs sweeps h => ?_⟩
  by_cases hawake : ((List.range 24).all (fun r => (s.chan ch).rank r == .selfRefresh)) = true
  · exact next_congr (if_pos hawake)
  · exact next_congr ((if_neg hawake).trans (if_pos (h.resolve_left hawake)))

end Sys2Proof.Machine
end

section
/-! What a decode of a row looks at, and what the log counts (03 R77, R83 to R89, R115). -/

namespace Sys2Proof.Machine

/-! ### The cells that a decode of row `rk` looks at -/

/-- Two states that a decode of row `rk` does not tell apart: the row's tally may differ, and all that is not about rows. -/
structure SameCells (rk : Nat) (s t : State) : Prop where
  /-- the module's size -/
  half : t.half = s.half
  /-- the slots -/
  slots : t.slots = s.slots
  /-- the parcels -/
  parcels : t.parcels = s.parcels
  /-- the bytes last written -/
  mem : t.mem = s.mem
  /-- the checks complemented -/
  pois : t.pois = s.pois
  /-- the row's outer check area -/
  row : ∃ n, t.row rk = { s.row rk with tally := n }

/-- The binding of parcels to slots depends on the slots alone, and a parcel's strength on the parcels besides. -/
theorem State.slotOfParcel_slots (s : State) (p : Nat) :
    ({ half := s.half, slots := s.slots, parcels := s.parcels } : State).slotOfParcel p = s.slotOfParcel p := rfl

theorem State.parcelCode_slots (s : State) (p : Nat) :
    ({ half := s.half, slots := s.slots, parcels := s.parcels } : State).parcelCode p = s.parcelCode p := rfl

theorem Keeps.sameCells {L : List Field} {s t : State} (h : Keeps L s t) (hL : ([.half, .slots, .parcels, .mem, .pois, .rows] : List Field).all (fun f => !L.contains f) = true) (rk : Nat) : SameCells rk s t := by
  have apart (f : Field) (hf : f ∈ ([.half, .slots, .parcels, .mem, .pois, .rows] : List Field)) : f ∉ L := by
    simpa using List.all_eq_true.1 hL f hf
  have rows : t.rows = s.rows := h.same .rows (apart _ (by decide))
  exact ⟨h.same .half (apart _ (by decide)), h.same .slots (apart _ (by decide)), h.same .parcels (apart _ (by decide)),
    h.same .mem (apart _ (by decide)), h.same .pois (apart _ (by decide)), ⟨(s.row rk).tally, by rw [State.row, rows]; rfl⟩⟩

theorem Keeps.sameCells_of_tallies {L : List Field} {s t : State} (h : Keeps L s t) (hL : ([.half, .slots, .parcels, .mem, .pois] : List Field).all (fun f => !L.contains f) = true) (rk : Nat) (hr : TalliesOnly s t) : SameCells rk s t := by
  have apart (f : Field) (hf : f ∈ ([.half, .slots, .parcels, .mem, .pois] : List Field)) : f ∉ L := by
    simpa using List.all_eq_true.1 hL f hf
  exact ⟨h.same .half (apart _ (by decide)), h.same .slots (apart _ (by decide)), h.same .parcels (apart _ (by decide)),
    h.same .mem (apart _ (by decide)), h.same .pois (apart _ (by decide)), hr rk⟩

namespace SameCells

variable {rk : Nat} {s t : State} (h : SameCells rk s t)
include h

theorem slotOfParcel (p : Nat) : t.slotOfParcel p = s.slotOfParcel p := by
  rw [← State.slotOfParcel_slots, h.half, h.slots, h.parcels, State.slotOfParcel_slots]

theorem parcelCode (p : Nat) : t.parcelCode p = s.parcelCode p := by
  rw [← State.parcelCode_slots, h.half, h.slots, h.parcels, State.parcelCode_slots]

theorem written (c : Nat) : t.written rk c = s.written rk c := by rw [State.written, State.written, h.mem]

theorem rowCode : t.rowCode rk = s.rowCode rk := by
  obtain ⟨n, hn⟩ := h.row
  rw [State.rowCode, State.rowCode, hn, h.parcelCode]

theorem metaFlips : (t.row rk).metaFlips = (s.row rk).metaFlips := by
  obtain ⟨n, hn⟩ := h.row
  rw [hn]
  rfl

theorem errs : (t.row rk).errs = (s.row rk).errs := by
  obtain ⟨n, hn⟩ := h.row
  rw [hn]

theorem touched (c : Nat) : (t.row rk).touched c = (s.row rk).touched c := by rw [RowMeta.touched, h.errs, RowMeta.touched]

theorem flips (c lo n : Nat) : (t.row rk).flips c lo n = (s.row rk).flips c lo n := by rw [RowMeta.flips, h.errs, RowMeta.flips]

theorem metaRead : t.metaRead rk = s.metaRead rk := by
  have low (code : Nat) : (t.row rk).low48 code = (s.row rk).low48 code := by
    obtain ⟨n, hn⟩ := h.row
    rw [hn]
    rfl
  rw [State.metaRead, State.metaRead, low, h.rowCode, h.metaFlips]

theorem mcrcOk : t.mcrcOk rk = s.mcrcOk rk := by rw [State.mcrcOk, State.mcrcOk, h.metaFlips, h.metaRead]

theorem codeRead : t.codeRead rk = s.codeRead rk := by rw [State.codeRead, State.codeRead, h.metaFlips, h.metaRead, h.rowCode]

theorem poisonRead : t.poisonRead rk = s.poisonRead rk := by
  have poison : (t.row rk).poison = (s.row rk).poison := by
    obtain ⟨n, hn⟩ := h.row
    rw [hn]
  rw [State.poisonRead, State.poisonRead, h.metaFlips, h.metaRead, poison]

theorem badTag : t.badTag rk = s.badTag rk := by
  have tag : (t.row rk).tag = (s.row rk).tag := by
    obtain ⟨n, hn⟩ := h.row
    rw [hn]
  rw [State.badTag, State.badTag, State.tagRead, State.tagRead, h.metaFlips, h.metaRead, h.mcrcOk, tag]

theorem rawColumn (c : Nat) : t.rawColumn rk c = s.rawColumn rk c := by
  rw [State.rawColumn, State.rawColumn, h.touched, h.flips, h.written]

theorem colBad (k : Nat) : t.colBad k = s.colBad k := by rw [State.colBad, State.colBad, h.pois]

theorem storedCheck (c : Nat) : t.storedCheck rk c = s.storedCheck rk c := by
  simp only [State.storedCheck, h.written, h.colBad, h.flips]

theorem columnState (c : Nat) : t.columnState rk c = s.columnState rk c := by
  simp only [State.columnState, h.touched, h.rawColumn, h.storedCheck, h.colBad]

theorem lineBad {l : Nat} (hl : l < 32) : t.lineBad (rk * 32 + l) = s.lineBad (rk * 32 + l) := by
  have row : (rk * 32 + l) / 32 = rk := by omega
  simp only [State.lineBad, row, h.columnState]

theorem isPoisoned {l : Nat} (hl : l < 32) : t.isPoisoned (rk * 32 + l) = s.isPoisoned (rk * 32 + l) := by
  have row : (rk * 32 + l) / 32 = rk := by omega
  rw [State.isPoisoned, State.isPoisoned, h.lineBad hl, row, h.poisonRead]

theorem failedColumns : t.failedColumns rk = s.failedColumns rk := by
  refine List.filter_congr fun c hc => ?_
  have hlt := List.mem_range.1 hc
  rw [h.columnState, h.isPoisoned (by omega)]

theorem outerRead : t.outerRead rk = s.outerRead rk := by simp only [State.outerRead, h.flips, h.rowCode, h.mem]

theorem codeErrors (code : Nat) : t.codeErrors rk code = s.codeErrors rk code := by
  simp only [State.codeErrors, h.rowCode, h.errs, h.outerRead, h.mem]

theorem decodeCodes : t.decodeCodes rk = s.decodeCodes rk := by
  simp only [State.decodeCodes, h.mcrcOk, h.codeRead, h.slotOfParcel, h.parcelCode, State.slot, State.parcel, h.slots, h.half, h.parcels]

theorem decoded : t.decoded rk = s.decoded rk := by simp only [State.decoded, h.decodeCodes, h.codeErrors]

theorem writeBack (code : Nat) (fix : List Nat) : SameCells rk (s.writeBack rk code fix) (t.writeBack rk code fix) := by
  refine ⟨h.half, h.slots, h.parcels, h.mem, h.pois, ?_⟩
  obtain ⟨n, hn⟩ := h.row
  refine ⟨n, ?_⟩
  rw [State.writeBack, State.writeBack, State.row_modRow, State.row_modRow, hn, h.codeErrors, h.parcelCode]

theorem suspects (code : Nat) (fix : List Nat) : t.suspects rk code fix = s.suspects rk code fix := by
  have after := h.writeBack code fix
  refine List.filter_congr fun c _ => ?_
  by_cases hc : c < 64
  · rw [after.columnState, after.lineBad (by omega), h.mcrcOk, h.poisonRead]
  · simp [hc]

end SameCells

/-! ### The counts of the error log (03 R117, R118) -/

/-- The counts of corrections and of uncorrectable events stay. -/
structure SameCounts (s t : State) : Prop where
  /-- uncorrectable events -/
  unccnt : t.logs.unccnt = s.logs.unccnt
  /-- corrections -/
  corrcnt : t.logs.corrcnt = s.logs.corrcnt

theorem SameCounts.refl (s : State) : SameCounts s s := ⟨rfl, rfl⟩

theorem SameCounts.trans {s t u : State} (h : SameCounts s t) (g : SameCounts t u) : SameCounts s u :=
  ⟨g.unccnt.trans h.unccnt, g.corrcnt.trans h.corrcnt⟩

theorem Keeps.sameCounts {L : List Field} {s t : State} (h : Keeps L s t) (hL : L.contains .logs = false) : SameCounts s t := by
  have logs : t.logs = s.logs := h.same .logs (by simpa using hL)
  exact ⟨by rw [logs], by rw [logs]⟩

section
variable (s : State) (line col kind path ncorr : Nat) (part : Option Nat) (addr : Nat)

/-- The log after an entry of `kind`: its counts, and all else that concerns the entry. -/
theorem State.logError_counts : (s.logError line col kind path ncorr part addr).logs.unccnt =
      (if kind = 3 ∨ kind = 4 ∨ kind = 5 then satNat 32 (s.logs.unccnt + 1) else s.logs.unccnt) ∧
    (s.logError line col kind path ncorr part addr).logs.corrcnt =
      (if kind = 1 then satNat 32 (s.logs.corrcnt + 1) else s.logs.corrcnt) := by
  unfold State.logError
  extract_lets lg loc correctable prior lg1 code info words s1
  clear_value prior
  cases prior with
  | some e => exact ⟨rfl, rfl⟩
  | none =>
    have boxed : (s1.bbox (locOfLine line).tile 2 part 63 [(24, 8, s.stamp), (32, 8, loc), (40, 8, info), (48, 8, addr)]).logs = s1.logs :=
      (Keeps.bbox ..).same .logs (by decide)
    rw [boxed]
    exact ⟨rfl, rfl⟩

theorem State.logError_sameCounts (h : kind ∉ ([1, 3, 4, 5] : List Nat)) : SameCounts s (s.logError line col kind path ncorr part addr) := by
  obtain ⟨unccnt, corrcnt⟩ := s.logError_counts line col kind path ncorr part addr
  simp only [List.mem_cons, List.not_mem_nil, or_false, not_or] at h
  obtain ⟨h1, h3, h4, h5⟩ := h
  exact ⟨by rw [unccnt, if_neg (by simp [h3, h4, h5])], by rw [corrcnt, if_neg h1]⟩

theorem State.uncorrectable_unccnt (h : kind = 3 ∨ kind = 4 ∨ kind = 5) :
    (s.uncorrectable line col kind path ncorr part addr).logs.unccnt = satNat 32 (s.logs.unccnt + 1) := by
  have logs : (s.uncorrectable line col kind path ncorr part addr).logs = (s.logError line col kind path ncorr part addr).logs :=
    (Keeps.memEvent ..).same .logs (by decide)
  rw [logs, (s.logError_counts line col kind path ncorr part addr).1, if_pos h]

end

/-! ### Operations that only log -/

/-- The hubs differ in their black boxes at most. -/
structure BoxesOnly (s t : State) : Prop where
  /-- at most the black box differs -/
  hub : ∀ i, ∃ b, t.hub i = { s.hub i with bb := b }

theorem BoxesOnly.refl (s : State) : BoxesOnly s s := ⟨fun _ => ⟨_, rfl⟩⟩

theorem BoxesOnly.trans {s t u : State} (h : BoxesOnly s t) (g : BoxesOnly t u) : BoxesOnly s u := by
  refine ⟨fun i => ?_⟩
  obtain ⟨a, ha⟩ := h.hub i
  obtain ⟨b, hb⟩ := g.hub i
  exact ⟨b, by rw [hb, ha]⟩

theorem Keeps.boxesOnly {L : List Field} {s t : State} (h : Keeps L s t) (hL : L.contains .hubs = false) : BoxesOnly s t :=
  ⟨fun i => ⟨_, h.hub_eq hL i⟩⟩

theorem State.bbox_boxesOnly (s : State) (t typ : Nat) (part : Option Nat) (ctx : Nat) (payload : List (Nat × Nat × Nat)) :
    BoxesOnly s (s.bbox t typ part ctx payload) := by
  refine ⟨fun i => ?_⟩
  unfold State.bbox State.bboxPut
  by_cases hi : i = t
  · rw [hi, State.hub_modHub]
    exact ⟨_, rfl⟩
  · rw [State.hub_modHub_ne _ _ _ _ hi]
    exact ⟨_, rfl⟩

theorem State.logError_boxesOnly (s : State) (line col kind path ncorr : Nat) (part : Option Nat) (addr : Nat) :
    BoxesOnly s (s.logError line col kind path ncorr part addr) := by
  unfold State.logError
  extract_lets lg loc correctable prior lg1 code info words s1
  clear_value prior
  cases prior with
  | some e => exact (Keeps.putLogs ..).boxesOnly rfl
  | none => exact .trans ((Keeps.putLogs ..).boxesOnly rfl) (State.bbox_boxesOnly ..)

/-- A relation of states that an operation stays in where it keeps hubs and logs, logs an entry of a kind that no count takes, or notes a
swap test. -/
structure LogRel (R : State → State → Prop) : Prop where
  /-- nothing done -/
  refl : ∀ s, R s s
  /-- one after another -/
  trans : ∀ {s t u}, R s t → R t u → R s u
  /-- hubs and logs kept -/
  keeps : ∀ {L : List Field} {s t}, Keeps L s t → L.contains .hubs = false → L.contains .logs = false → R s t
  /-- an entry logged -/
  log : ∀ s line col kind path ncorr part addr, kind ∉ ([1, 3, 4, 5] : List Nat) → R s (State.logError s line col kind path ncorr part addr)
  /-- a swap test noted -/
  swap : ∀ (s : State) f a, R s (s.putLogs { s.logs with strFailed := f, strActive := a })

theorem SameCounts.logRel : LogRel SameCounts where
  refl := .refl
  trans := .trans
  keeps h _ hl := h.sameCounts hl
  log _ _ _ _ _ _ _ _ := State.logError_sameCounts _ _ _ _ _ _ _ _
  swap _ _ _ := ⟨rfl, rfl⟩

theorem BoxesOnly.logRel : LogRel BoxesOnly where
  refl := .refl
  trans := .trans
  keeps h hh _ := h.boxesOnly hh
  log _ _ _ _ _ _ _ _ _ := State.logError_boxesOnly ..
  swap _ _ _ := (Keeps.putLogs ..).boxesOnly rfl

end Sys2Proof.Machine
end

section
/-! The outcomes of a row's decode (03 R84 to R89, R106, R113, R115). -/

namespace Sys2Proof.Machine

/-! ### Rows retired -/

/-- Row `k` differs in its spare row at most, and is listed once still. -/
structure SpareOnly (k : Nat) (s t : State) : Prop where
  /-- at most the spare row differs -/
  row : ∃ x, t.row k = { s.row k with spare := x }
  /-- the row is still listed at most once -/
  once : t.rows.Once k

section
variable {k : Nat} {s t u : State}

theorem SpareOnly.refl (h : s.rows.Once k) : SpareOnly k s s := ⟨⟨_, rfl⟩, h⟩

theorem SpareOnly.trans (h : SpareOnly k s t) (g : SpareOnly k t u) : SpareOnly k s u := by
  obtain ⟨x, hx⟩ := h.row
  obtain ⟨y, hy⟩ := g.row
  exact ⟨⟨y, by rw [hy, hx]⟩, g.once⟩

theorem Keeps.spareOnly {L : List Field} (h : Keeps L s t) (hL : L.contains .rows = false) (hs : s.rows.Once k) : SpareOnly k s t := by
  have rows : t.rows = s.rows := h.same .rows (by simpa using hL)
  exact ⟨⟨_, h.row_eq hL k⟩, by rwa [rows]⟩

theorem State.once_modRow (s : State) (k : Nat) (f : RowMeta → RowMeta) : (s.modRow k f).rows.Once k :=
  Tab.once_set rowDefault s.rows k k (f (s.row k)) (.inl rfl)

theorem State.modRow_spareOnly (s : State) (e : Nat) (x : Option Nat) (h : s.rows.Once k) :
    SpareOnly k s (s.modRow e (fun m => { m with spare := x })) := by
  by_cases hk : k = e
  · subst hk
    exact ⟨⟨x, State.row_modRow ..⟩, State.once_modRow ..⟩
  · exact ⟨⟨_, State.row_modRow_ne _ _ _ _ hk⟩, Tab.once_set rowDefault s.rows e k _ (.inr h)⟩

theorem State.freshBank_spareOnly (s : State) (b : Nat) (h : s.rows.Once k) : SpareOnly k s (s.freshBank b) := by
  refine ⟨⟨if k / 65536 = b then none else (s.row k).spare, ?_⟩, Tab.once_mapAll _ _ _ _ h⟩
  show Tab.get rowDefault (Tab.mapAll rowDefault (fun k m => if k / 65536 = b then { m with spare := none } else m) s.rows) k = _
  rw [Tab.get_mapAll _ _ _ _ (by split <;> rfl) h]
  split <;> rfl

theorem State.endSwap_spareOnly (s : State) (st : Nat) (x : Nat × Nat × Nat) (stays : Bool) (h : s.rows.Once k) :
    SpareOnly k s (s.endSwap st x stays) := by
  unfold State.endSwap
  extract_lets b e s1 logs s2
  have before : Keeps [.stks, .logs] s s2 := (Keeps.modStack ..).append (Keeps.putLogs ..)
  have kept := before.spareOnly rfl h
  split
  · exact kept.trans ((Keeps.logError ..).spareOnly rfl kept.once)
  · have fresh := kept.trans (State.freshBank_spareOnly s2 b kept.once)
    have table := fresh.trans ((Keeps.modBspare (s2.freshBank b) b (fun _ => e.swapTable)).spareOnly rfl fresh.once)
    have rows (l : List (Nat × Nat)) (v : State) (hv : v.rows.Once k) :
        SpareOnly k v (l.foldl (fun s e => s.modRow e.1 (fun m => { m with spare := some e.2 })) v) := by
      induction l generalizing v with
      | nil => exact .refl hv
      | cons e l ih => exact (v.modRow_spareOnly _ _ hv).trans (ih _ (v.modRow_spareOnly _ _ hv).once)
    exact table.trans (rows _ _ table.once)

theorem State.replaceBank_spareOnly (s : State) (b : Nat) (h : s.rows.Once k) : SpareOnly k s (s.replaceBank b) := by
  have drawn (v : State) (hv : v.rows.Once k) : SpareOnly k v (v.drawBank b) := (Keeps.drawBank ..).spareOnly rfl hv
  unfold State.replaceBank
  extract_lets st dh
  split
  · split
    · exact s.endSwap_spareOnly _ _ _ h
    · split
      · exact (s.endSwap_spareOnly _ _ _ h).trans (drawn _ (s.endSwap_spareOnly _ _ _ h).once)
      · exact drawn s h
  · exact drawn s h

theorem State.retireRow_spareOnly (s : State) (rk : Nat) (wrong : Bool) (h : s.rows.Once k) : SpareOnly k s (s.retireRow rk wrong) := by
  unfold State.retireRow
  extract_lets b
  split
  · exact .refl h
  · split
    · exact s.replaceBank_spareOnly b h
    · exact (((Keeps.modBspare ..).append (Keeps.modStack ..)).append (Keeps.logError ..)).spareOnly rfl h

end

namespace LogRel

variable {R : State → State → Prop} (h : LogRel R)
include h

theorem endSwap (s : State) (st : Nat) (x : Nat × Nat × Nat) (stays : Bool) : R s (s.endSwap st x stays) := by
  unfold State.endSwap
  extract_lets b e s1 logs s2
  have kept : R s s2 := h.trans (h.keeps (Keeps.modStack s st _) rfl rfl) (h.swap ..)
  split
  · exact h.trans kept (h.log _ _ _ _ _ _ _ _ (by decide))
  · have fresh : Keeps [.rows, .bspares] s2 ((s2.freshBank b).modBspare b (fun _ => e.swapTable)) :=
      (Keeps.freshBank ..).trans ((Keeps.modBspare ..).mono rfl)
    exact h.trans kept (h.keeps (fresh.trans ((Keeps.foldl _ (fun _ _ => Keeps.modRow ..) _ _).mono rfl)) rfl rfl)

theorem drawBank (s : State) (b : Nat) : R s (s.drawBank b) := by
  unfold State.drawBank
  extract_lets st e dh
  split
  · exact h.refl s
  split
  · exact h.trans (h.keeps (Keeps.modStack ..) rfl rfl) (h.log _ _ _ _ _ _ _ _ (by decide))
  split
  · exact h.trans (h.keeps (Keeps.modStack ..) rfl rfl) (h.log _ _ _ _ _ _ _ _ (by decide))
  · exact h.keeps (Keeps.modStack ..) rfl rfl

theorem replaceBank (s : State) (b : Nat) : R s (s.replaceBank b) := by
  unfold State.replaceBank
  extract_lets st dh
  split
  · split
    · exact h.endSwap ..
    · split
      · exact h.trans (h.endSwap ..) (h.drawBank ..)
      · exact h.drawBank ..
  · exact h.drawBank ..

theorem retireRow (s : State) (rk : Nat) (wrong : Bool) : R s (s.retireRow rk wrong) := by
  unfold State.retireRow
  extract_lets b
  split
  · exact h.refl s
  · split
    · exact h.replaceBank ..
    · exact h.trans (h.keeps ((Keeps.modBspare ..).append (Keeps.modStack ..)) rfl rfl) (h.log _ _ _ _ _ _ _ _ (by decide))

end LogRel

theorem State.retireRow_sameCounts (s : State) (rk : Nat) (wrong : Bool) : SameCounts s (s.retireRow rk wrong) :=
  SameCounts.logRel.retireRow ..

/-! ### Lines poisoned -/

theorem State.setCheck_colBad (s : State) (rk c : Nat) (comp : Bool) (k : Nat) :
    (s.setCheck rk c comp).colBad k = if k = colKey rk c then comp else s.colBad k := by
  have stored : (s.setCheck rk c comp).colBad k = (s.modColBad (colKey rk c) (fun _ => comp)).colBad k := by
    unfold State.setCheck
    extract_lets d s1
    split <;> rfl
  rw [stored]
  split
  next hk => rw [hk, State.colBad_modColBad]
  next hk => exact State.colBad_modColBad_ne _ _ _ _ hk

theorem State.poisonLine_colBad (s : State) (line k : Nat) : (s.poisonLine line).colBad k =
    (s.colBad k || decide (k = colKey (line / 32) (2 * (line % 32))) || decide (k = colKey (line / 32) (2 * (line % 32) + 1))) := by
  have marked : (s.poisonLine line).colBad k =
      ((s.setCheck (line / 32) (2 * (line % 32)) true).setCheck (line / 32) (2 * (line % 32) + 1) true).colBad k := rfl
  rw [marked, State.setCheck_colBad, State.setCheck_colBad]
  split
  next h => simp [h]
  next h => split <;> simp [*]

/-- The columns of a line poisoned carry complemented checks, and keep them while other lines are poisoned. -/
theorem State.poisonLines_colBad (s : State) (rk : Nat) (ls : List Nat) (c : Nat) (hc : c < 64)
    (h : c / 2 ∈ ls ∨ s.colBad (colKey rk c) = true) : (s.poisonLines rk ls).colBad (colKey rk c) = true := by
  induction ls generalizing s with
  | nil => exact h.resolve_left List.not_mem_nil
  | cons l ls ih =>
    refine ih (s.poisonLine (rk * 32 + l)) ?_
    rcases h with h | h
    · rcases List.mem_cons.1 h with hl | h
      · right
        have row : (rk * 32 + l) / 32 = rk := by omega
        have at_ : (rk * 32 + l) % 32 = l := by omega
        have own : c = 2 * l ∨ c = 2 * l + 1 := by omega
        rw [State.poisonLine_colBad, row, at_]
        rcases own with own | own <;> simp [own]
      · exact .inl h
    · right
      rw [State.poisonLine_colBad, h]
      rfl

/-! ### Failure and correction -/

/-- A row that does not decode is counted once and the lines of its failed columns are poisoned (R115). -/
theorem State.rowFailed_spec (s : State) (rk col kind path ncorr : Nat) (part : Option Nat) (addr : Nat) (also : List Nat)
    (hk : kind = 3 ∨ kind = 4 ∨ kind = 5) : (s.rowFailed rk col kind path ncorr part addr also).logs.unccnt = satNat 32 (s.logs.unccnt + 1) ∧
    ∀ c ∈ s.failedColumns rk, (s.rowFailed rk col kind path ncorr part addr also).colBad (colKey rk c) = true := by
  have told := Keeps.uncorrectable s (rk * 32 + col % 64 / 2) col kind path ncorr part addr
  refine ⟨?_, fun c hc => ?_⟩
  · rw [State.rowFailed, (State.retireRow_sameCounts ..).unccnt, ((Keeps.poisonLines ..).sameCounts rfl).unccnt, State.uncorrectable_unccnt _ _ _ _ _ _ _ _ hk]
  · have lt : c < 64 := List.mem_range.1 (List.mem_filter.1 hc).1
    have pois (u : State) (b : Bool) : (u.retireRow rk b).pois = u.pois := (Keeps.retireRow ..).same .pois (by decide)
    rw [State.rowFailed, State.colBad, pois]
    refine State.poisonLines_colBad _ _ _ _ lt (.inl (List.mem_eraseDups.2 (List.mem_map.2 ⟨c, List.mem_append_left _ ?_, rfl⟩)))
    exact hc

/-- A corrected row: what its outer check area is made of, and what is counted (R88, R89). -/
theorem State.rowCorrected_spec (s : State) (rk col path code : Nat) (fix : List Nat) (part : Option Nat) (addr : Nat) (mark : RowMeta → RowMeta) :
    (∃ m, (s.rowCorrected rk col path code fix part addr mark).row rk = mark m ∧ (0 < fix.length → m.lastCorr = fix.length)) ∧
    (s.rowCorrected rk col path code fix part addr mark).rows.Once rk ∧
    (s.rowCorrected rk col path code fix part addr mark).logs.unccnt = s.logs.unccnt ∧
    (0 < fix.length → (s.rowCorrected rk col path code fix part addr mark).logs.corrcnt = satNat 32 (s.logs.corrcnt + 1)) := by
  unfold State.rowCorrected
  extract_lets n line s1 poisoned worn s2 s3 s4 s5
  have checks : SameCounts s s2 :=
    ((Keeps.writeBack s rk code fix).append (Keeps.foldl _ (fun _ _ => Keeps.setCheck ..) worn s1)).sameCounts rfl
  have rebuilt : SameCounts s2 s3 := by
    simp only [s3]
    split
    · exact .refl _
    · exact ((Keeps.modRow ..).sameCounts rfl).trans (State.logError_sameCounts _ _ _ _ _ _ _ _ (by decide))
  have logged (l : List Nat) (u : State) : SameCounts u (l.foldl (fun s c => s.logError (rk * 32 + c / 2) c 0x0D path n part addr) u) := by
    induction l generalizing u with
    | nil => exact .refl _
    | cons c l ih => exact (State.logError_sameCounts u _ _ _ _ _ _ _ (by decide)).trans (ih _)
  have before : SameCounts s s4 := checks.trans (rebuilt.trans (logged worn s3))
  have counted := s4.logError_counts line col 1 path n part addr
  have after : ∀ f, SameCounts s5 (s5.modRow rk f) := fun f => (Keeps.modRow ..).sameCounts rfl
  refine ⟨⟨_, State.row_modRow .., fun hn => ?_⟩, State.once_modRow .., ?_, fun hn => ?_⟩
  · rw [if_pos (.inl hn)]
  · rw [(after _).unccnt]
    simp only [s5]
    split
    · rw [counted.1, if_neg (by decide), before.unccnt]
    · exact before.unccnt
  · rw [(after _).corrcnt]
    simp only [s5]
    rw [if_pos hn, counted.2, if_pos rfl, before.corrcnt]

/-! ### The decode of a row -/

section
variable {s : State} {rk : Nat} (col path : Nat) (part : Option Nat) (addr : Nat) (mark : RowMeta → RowMeta)

theorem State.decodeRow_of_badTag (h : s.badTag rk = true) :
    (s.decodeRow rk col path part addr mark).pois = s.pois ∧
    (s.decodeRow rk col path part addr mark).logs.unccnt = satNat 32 (s.logs.unccnt + 1) := by
  rw [State.decodeRow, if_pos h]
  refine ⟨((Keeps.uncorrectable ..).append (Keeps.retireRow ..)).same .pois (by decide), ?_⟩
  rw [(State.retireRow_sameCounts ..).unccnt, State.uncorrectable_unccnt _ _ _ _ _ _ _ _ (by decide)]

theorem State.decodeRow_of_failed (h : s.badTag rk = false) (hd : s.decoded rk = none) :
    (s.decodeRow rk col path part addr mark).logs.unccnt = satNat 32 (s.logs.unccnt + 1) ∧
    ∀ c ∈ s.failedColumns rk, (s.decodeRow rk col path part addr mark).colBad (colKey rk c) = true := by
  have eq : s.decodeRow rk col path part addr mark = s.rowFailed rk col 3 path 127 part addr [] := by simp [State.decodeRow, h, hd]
  rw [eq]
  exact s.rowFailed_spec _ _ _ _ _ _ _ _ (by decide)

/-- A decode that corrects, with what follows at the RETIRE threshold. -/
theorem State.decodeRow_of_decoded (h : s.badTag rk = false) {code : Nat} {fix : List Nat} (hd : s.decoded rk = some (code, fix))
    (hs : s.suspects rk code fix = []) : s.decodeRow rk col path part addr mark =
      if thresholdOf (s.cfg rSCRBTHR 8 4) (strengthOf code) ≤ fix.length then (s.rowCorrected rk col path code fix part addr mark).retireRow rk false
      else s.rowCorrected rk col path code fix part addr mark := by simp [State.decodeRow, h, hd, hs]

theorem State.decodeRow_corrected (h : s.badTag rk = false) {code : Nat} {fix : List Nat} (hd : s.decoded rk = some (code, fix))
    (hs : s.suspects rk code fix = []) :
    (∃ m x, (s.decodeRow rk col path part addr mark).row rk = { mark m with spare := x } ∧ (0 < fix.length → m.lastCorr = fix.length)) ∧
    (s.decodeRow rk col path part addr mark).logs.unccnt = s.logs.unccnt ∧
    (0 < fix.length → (s.decodeRow rk col path part addr mark).logs.corrcnt = satNat 32 (s.logs.corrcnt + 1)) := by
  obtain ⟨⟨m, row, last⟩, once, unccnt, corrcnt⟩ := s.rowCorrected_spec rk col path code fix part addr mark
  rw [State.decodeRow_of_decoded col path part addr mark h hd hs]
  split
  · obtain ⟨x, spare⟩ := (State.retireRow_spareOnly _ rk false once).row
    have counts := State.retireRow_sameCounts (s.rowCorrected rk col path code fix part addr mark) rk false
    exact ⟨⟨m, x, by rw [spare, row], last⟩, by rw [counts.unccnt, unccnt], fun hn => by rw [counts.corrcnt, corrcnt hn]⟩
  · exact ⟨⟨m, (mark m).spare, row, last⟩, unccnt, corrcnt⟩

end

/-! ### The hubs through a decode -/

theorem State.uncorrectable_boxesOnly (s : State) (line col kind path ncorr : Nat) (part : Option Nat) (addr : Nat) :
    BoxesOnly s (s.uncorrectable line col kind path ncorr part addr) :=
  .trans (State.logError_boxesOnly ..) ((Keeps.memEvent ..).boxesOnly rfl)

theorem State.rowFailed_boxesOnly (s : State) (rk col kind path ncorr : Nat) (part : Option Nat) (addr : Nat) (also : List Nat) :
    BoxesOnly s (s.rowFailed rk col kind path ncorr part addr also) :=
  .trans (State.uncorrectable_boxesOnly ..) (.trans ((Keeps.poisonLines ..).boxesOnly rfl) (BoxesOnly.logRel.retireRow ..))

theorem State.rowCorrected_boxesOnly (s : State) (rk col path code : Nat) (fix : List Nat) (part : Option Nat) (addr : Nat)
    (mark : RowMeta → RowMeta) : BoxesOnly s (s.rowCorrected rk col path code fix part addr mark) := by
  unfold State.rowCorrected
  extract_lets n line s1 poisoned worn s2 s3 s4 s5
  have checks : BoxesOnly s s2 :=
    ((Keeps.writeBack s rk code fix).append (Keeps.foldl _ (fun _ _ => Keeps.setCheck ..) worn s1)).boxesOnly rfl
  have rebuilt : BoxesOnly s2 s3 := by
    simp only [s3]
    split
    · exact .refl _
    · exact .trans ((Keeps.modRow ..).boxesOnly rfl) (State.logError_boxesOnly ..)
  have logged (l : List Nat) (u : State) : BoxesOnly u (l.foldl (fun s c => s.logError (rk * 32 + c / 2) c 0x0D path n part addr) u) := by
    induction l generalizing u with
    | nil => exact .refl _
    | cons c l ih => exact .trans (State.logError_boxesOnly u ..) (ih _)
  have entered : BoxesOnly s4 s5 := by
    simp only [s5]
    split
    · exact State.logError_boxesOnly ..
    · exact .refl _
  exact .trans checks (.trans rebuilt (.trans (logged worn s3) (.trans entered ((Keeps.modRow ..).boxesOnly rfl))))

theorem State.decodeRow_boxesOnly (s : State) (rk col path : Nat) (part : Option Nat) (addr : Nat) (mark : RowMeta → RowMeta) :
    BoxesOnly s (s.decodeRow rk col path part addr mark) := by
  unfold State.decodeRow
  split
  · exact .trans (State.uncorrectable_boxesOnly ..) (BoxesOnly.logRel.retireRow ..)
  split
  · exact State.rowFailed_boxesOnly ..
  split
  · exact State.rowFailed_boxesOnly ..
  · extract_lets s1
    split
    · exact .trans (State.rowCorrected_boxesOnly ..) (BoxesOnly.logRel.retireRow ..)
    · exact State.rowCorrected_boxesOnly ..

end Sys2Proof.Machine
end

section
/-! Decodes, scrub and re-encode of the page code (03 R84 to R90, R100 to R111). -/

namespace Sys2Proof.Machine

/-! ### Decodes from the queue -/

/-- The answer that a column read gives. -/
def State.answerColumn (s : State) (rk col : Nat) : State :=
  s.answer { kind := 1, data := s.rawColumn rk col, poison := s.isPoisoned (rk * 32 + col / 2) || s.badTag rk }

theorem State.answerColumn_keeps (s : State) (rk col : Nat) : Keeps [.out] s (s.answerColumn rk col) := Keeps.answer ..

theorem State.answerColumn_answer (s : State) (rk col : Nat) : (s.answerColumn rk col).out.answer =
    some { kind := 1, data := (s.answerColumn rk col).rawColumn rk col,
           poison := (s.answerColumn rk col).isPoisoned (rk * 32 + col / 2) || (s.answerColumn rk col).badTag rk } := rfl

theorem State.decodeRow_mem (s : State) (rk col path : Nat) (part : Option Nat) (addr : Nat) (mark : RowMeta → RowMeta) :
    (s.decodeRow rk col path part addr mark).mem = s.mem := (Keeps.decodeRow ..).same .mem (by decide)

theorem exec_fullRowDecodeDone {s : State} {st : Fin 96} {d : Decode} {rest : List Decode} (hd : (s.stack st).decRun = d :: rest) :
    exec (.fullRowDecodeDone st) s = .next (
      let s1 := (s.modStack st (fun k => { k with decRun := rest })).decodeRow d.row d.col d.path d.part d.addr id
      d.req.elim (s1.answerColumn d.row d.col) (fun q => s1.answerRead (chanOfBank (d.row / 65536)) q)) := by
  refine next_congr ?_
  simp only [hd]
  cases d.req <;> rfl

theorem does_fullRowDecodeDone {s : State} {st : Fin 96} {d : Decode} {rest : List Decode} (hd : (s.stack st).decRun = d :: rest) (hq : d.req = none) :
    Does (.fullRowDecodeDone st) s (fun t => t.mem = s.mem ∧
      t.out.answer = some { kind := 1, data := t.rawColumn d.row d.col, poison := t.isPoisoned (d.row * 32 + d.col / 2) || t.badTag d.row } ∧
      (s.badTag d.row = true → t.pois = s.pois ∧ t.logs.unccnt = satNat 32 (s.logs.unccnt + 1)) ∧
      (s.badTag d.row = false → s.decoded d.row = none → t.logs.unccnt = satNat 32 (s.logs.unccnt + 1) ∧
        ∀ c ∈ s.failedColumns d.row, t.colBad (colKey d.row c) = true) ∧
      (∀ code fix, s.badTag d.row = false → s.decoded d.row = some (code, fix) → s.suspects d.row code fix = [] → 0 < fix.length →
        (t.row d.row).lastCorr = fix.length ∧ t.logs.corrcnt = satNat 32 (s.logs.corrcnt + 1) ∧ t.logs.unccnt = s.logs.unccnt)) := by
  have run := exec_fullRowDecodeDone hd
  simp only [hq, Option.elim] at run
  refine .next run ?_
  have before := Keeps.modStack s st (fun k => { k with decRun := rest })
  generalize s.modStack st (fun k => { k with decRun := rest }) = u at before ⊢
  have same := before.sameCells rfl d.row
  have logs := before.same .logs (by decide)
  have decoded := u.decodeRow_mem d.row d.col d.path d.part d.addr id
  have wrong (hb : s.badTag d.row = true) := u.decodeRow_of_badTag d.col d.path d.part d.addr id (same.badTag.trans hb)
  have failed (hb : s.badTag d.row = false) (hn : s.decoded d.row = none) :=
    u.decodeRow_of_failed d.col d.path d.part d.addr id (same.badTag.trans hb) (same.decoded.trans hn)
  have corrected (code fix) (hb : s.badTag d.row = false) (hf : s.decoded d.row = some (code, fix)) (hs : s.suspects d.row code fix = []) :=
    u.decodeRow_corrected d.col d.path d.part d.addr id (same.badTag.trans hb) (same.decoded.trans hf) ((same.suspects code fix).trans hs)
  generalize u.decodeRow d.row d.col d.path d.part d.addr id = v at *
  have answered := v.answerColumn_keeps d.row d.col
  have logs' : (v.answerColumn d.row d.col).logs = v.logs := answered.same .logs (by decide)
  have pois' : (v.answerColumn d.row d.col).pois = v.pois := answered.same .pois (by decide)
  refine ⟨(answered.same .mem (by decide)).trans (decoded.trans same.mem), v.answerColumn_answer _ _, fun hb => ?_, fun hb hn => ?_,
    fun code fix hb hf hs hp => ?_⟩
  · obtain ⟨kept, count⟩ := wrong hb
    exact ⟨pois'.trans (kept.trans same.pois), by rw [logs', count, logs]⟩
  · obtain ⟨count, marked⟩ := failed hb hn
    exact ⟨by rw [logs', count, logs], fun c hc => by rw [State.colBad, pois']; exact marked c (by rwa [same.failedColumns])⟩
  · obtain ⟨⟨m, x, row, last⟩, unccnt, corrcnt⟩ := corrected code fix hb hf hs
    refine ⟨?_, by rw [logs', corrcnt hp, logs], by rw [logs', unccnt, logs]⟩
    rw [answered.row_eq rfl, row]
    exact last hp

theorem State.answerRead_answer (s : State) (ch : Nat) (q : Req) (hq : q.fill ≠ 2) : ∃ a, (s.answerRead ch q).out.answer = some a ∧ a.kind = 1 := by
  unfold State.answerRead
  extract_lets d0 d s1 s2
  rw [if_neg hq]
  exact ⟨_, rfl, rfl⟩

theorem does_fullRowDecodeDone_req {s : State} {st : Fin 96} {d : Decode} {rest : List Decode} {q : Req} (hd : (s.stack st).decRun = d :: rest)
    (hq : d.req = some q) (hf : q.fill ≠ 2) :
    Does (.fullRowDecodeDone st) s (fun t => t.mem = s.mem ∧ ∃ a, t.out.answer = some a ∧ a.kind = 1) := by
  have run := exec_fullRowDecodeDone hd
  simp only [hq, Option.elim] at run
  exact .next run ⟨(((Keeps.modStack s st (fun k => { k with decRun := rest })).append (Keeps.decodeRow ..)).append (Keeps.answerRead ..)).same .mem (by decide),
    State.answerRead_answer _ _ _ hf⟩

/-! ### Scrub passes and wakes -/

theorem does_scrubPassStart (s : State) : Does .scrubPassStart s (fun t =>
    t.logs.passTime = s.stamp ∧ t.logs.progress = 0 ∧ t.logs.scrubPeriod = s.cfg rSCRBCFG 0 8 ∧
    (∀ k < 16, (t.hub k).scrubDone = 0) ∧ (∀ p, (t.parcel p).raised = 0 ∧ (t.parcel p).stepped = false) ∧
    (∀ b, (t.bspare b).colHits = []) ∧ (∀ c, (t.chan c).scrubAt = 0) ∧ SameBanks s t) := by
  refine .next rfl ⟨?_, ?_, ?_, fun k hk => ?_, fun p => ?_, fun b => ?_, fun c => ?_, ?_⟩
  · simp only [State.putChans_logs, State.putBspares_logs, State.putParcels_logs, State.putHubs_logs, State.putLogs_logs]
  · simp only [State.putChans_logs, State.putBspares_logs, State.putParcels_logs, State.putHubs_logs, State.putLogs_logs]
  · simp only [State.putChans_logs, State.putBspares_logs, State.putParcels_logs, State.putHubs_logs, State.putLogs_logs]
  · simp only [State.hub, State.putChans_hubs, State.putBspares_hubs, State.putParcels_hubs, State.putHubs_hubs]
    exact Tab.get_updMany_has (P := fun h : Hub => h.scrubDone = 0) _ _ (fun _ => rfl) (List.range 16) s.hubs k (.inr (List.mem_range.2 hk))
  · simp only [State.parcel, State.putChans_parcels, State.putBspares_parcels, State.putParcels_parcels]
    exact Tab.get_mapAll_has (P := fun x : Parcel => x.raised = 0 ∧ x.stepped = false) _ _ s.parcels p ⟨rfl, rfl⟩ (fun _ => ⟨rfl, rfl⟩)
  · simp only [State.bspare, State.putChans_bspares, State.putBspares_bspares]
    exact Tab.get_mapAll_has (P := fun x : BankSpares => x.colHits = []) _ _ s.bspares b rfl (fun _ => rfl)
  · simp only [State.chan, State.putChans_chans]
    exact Tab.get_mapAll_has (P := fun x : Channel => x.scrubAt = 0) _ _ s.chans c rfl (fun _ => rfl)
  · constructor <;> simp only [State.putChans_mem, State.putBspares_mem, State.putParcels_mem, State.putHubs_mem, State.putLogs_mem,
      State.putChans_pois, State.putBspares_pois, State.putParcels_pois, State.putHubs_pois, State.putLogs_pois]

theorem does_scrubRankWake {s : State} {ch : Fin 1536} {rank : Fin 24} {last : Nat} (hr : (s.chan ch).rank rank = .selfRefresh)
    (hsr : (s.stack (ch.val / 16)).sr = false) (hl : last = Tab.get (fun _ => 0) (s.chan ch).scrubWoke rank.val)
    (ht : last = 0 ∨ last + 16000000000 ≤ s.cyc + 1) : Does (.scrubRankWake ch rank) s (fun t => (t.chan ch).rank rank = .awake ∧
      Tab.get (fun _ => 0) (t.chan ch).scrubWoke rank.val = s.cyc + 1 ∧ (∀ k, k ≠ ch.val → t.chan k = s.chan k) ∧ Keeps [.chans] s t) := by
  subst hl
  have own : 2 * rank.val / 2 = rank.val := by omega
  have woken := Channel.rank_setRank (s.chan ch) (2 * rank.val / 2) .awake
  rw [own] at woken
  refine .next (next_congr (if_pos ⟨hr, hsr, ht⟩)) ⟨?_, ?_, fun k hk => State.chan_modChan_ne _ _ _ _ hk, .modChan ..⟩ <;> rw [State.chan_modChan]
  · exact ((congrArg (fun r => (((s.chan ch).setRank r .awake).rank rank)) own).trans woken :)
  · exact Tab.get_set_same (fun _ => 0) (s.chan ch).scrubWoke rank.val (s.cyc + 1)

/-! ### The row that scrub reads -/

/-- Channel `ch` differs in its banks and throttles at most. -/
structure BanksOnly (ch : Nat) (s t : State) : Prop where
  /-- at most those -/
  chan : ∃ b r, t.chan ch = { s.chan ch with banks := b, throttles := r }

theorem BanksOnly.trans {ch : Nat} {s t u : State} (h : BanksOnly ch s t) (g : BanksOnly ch t u) : BanksOnly ch s u := by
  obtain ⟨b, r, ht⟩ := h.chan
  obtain ⟨c, q, hu⟩ := g.chan
  exact ⟨c, q, by rw [hu, ht]⟩

theorem Keeps.banksOnly {L : List Field} {s t : State} (h : Keeps L s t) (hL : L.contains .chans = false) (ch : Nat) : BanksOnly ch s t :=
  ⟨_, _, h.chan_eq hL ch⟩

theorem BanksOnly.modChan (s : State) (ch k : Nat) (f : Channel → Channel) (hf : ∀ c, ∃ b r, f c = { c with banks := b, throttles := r }) :
    BanksOnly ch s (s.modChan k f) := by
  by_cases hk : ch = k
  · subst hk
    obtain ⟨b, r, h⟩ := hf (s.chan ch)
    exact ⟨b, r, by rw [State.chan_modChan, h]⟩
  · exact ⟨_, _, State.chan_modChan_ne _ _ _ _ hk⟩

theorem BanksOnly.modBank (s : State) (ch k j : Nat) (f : Bank → Bank) : BanksOnly ch s (s.modChan k (fun c => c.modBank j f)) :=
  .modChan _ _ _ _ fun _ => ⟨_, _, rfl⟩

theorem State.repay_banksOnly (s : State) (ch k j : Nat) : BanksOnly ch s (s.repay k j) :=
  ((Keeps.clearTallies ..).banksOnly rfl ch).trans ((BanksOnly.modBank ..).trans (.modBank ..))

theorem State.closeRow_banksOnly (s : State) (ch k j : Nat) : BanksOnly ch s (s.closeRow k j) := by
  have repaid (l : List Nat) (u : State) : BanksOnly ch u (l.foldl (fun s _ => s.repay k j) u) := by
    induction l generalizing u with
    | nil => exact (Keeps.refl [] u).banksOnly rfl ch
    | cons _ l ih => exact (u.repay_banksOnly ch k j).trans (ih _)
  exact (BanksOnly.modBank ..).trans (repaid ..)

theorem State.tallyRow_banksOnly (s : State) (ch k j r who : Nat) : BanksOnly ch s (s.tallyRow k j r who) := by
  unfold State.tallyRow
  split
  · exact (Keeps.refl [] s).banksOnly rfl ch
  extract_lets rk n s1
  split
  · exact ((Keeps.modRow ..).banksOnly rfl ch).trans (.modBank ..)
  · exact (Keeps.modRow ..).banksOnly rfl ch

theorem State.openRow_banksOnly (s : State) (ch k j r who : Nat) : BanksOnly ch s (s.openRow k j r who) :=
  (BanksOnly.modChan _ _ _ _ fun _ => ⟨_, _, rfl⟩).trans (State.tallyRow_banksOnly ..)

theorem State.reachRow_banksOnly (s : State) (ch k j row who : Nat) : BanksOnly ch s (s.reachRow k j row who) := by
  unfold State.reachRow
  split
  · exact (Keeps.refl [] s).banksOnly rfl ch
  · refine BanksOnly.trans ?_ (State.openRow_banksOnly ..)
    split
    · exact State.closeRow_banksOnly ..
    · exact (Keeps.refl [] s).banksOnly rfl ch

theorem State.tallyRow_talliesOnly (s : State) (ch j r who : Nat) : TalliesOnly s (s.tallyRow ch j r who) := by
  unfold State.tallyRow
  split
  · exact fun k => ⟨_, rfl⟩
  extract_lets rk n s1
  have counted : TalliesOnly s s1 := by
    intro k
    by_cases hk : k = rk
    · exact ⟨n, by rw [hk, State.row_modRow]⟩
    · exact ⟨_, State.row_modRow_ne _ _ _ _ hk⟩
  split
  · exact TalliesOnly.trans counted ((Keeps.modChan ..).talliesOnly rfl)
  · exact counted

theorem State.reachRow_talliesOnly (s : State) (ch j row who : Nat) : TalliesOnly s (s.reachRow ch j row who) := by
  have opened (u : State) : TalliesOnly u (u.openRow ch j row who) :=
    TalliesOnly.trans ((Keeps.modChan ..).talliesOnly rfl) (State.tallyRow_talliesOnly _ ch j row who)
  unfold State.reachRow
  split
  · exact fun k => ⟨_, rfl⟩
  · refine TalliesOnly.trans ?_ (opened _)
    split
    · exact s.closeRow_talliesOnly ch j
    · exact fun k => ⟨_, rfl⟩

end Sys2Proof.Machine
end

section
/-! Scrub of a row (03 R100 to R108). -/

namespace Sys2Proof.Machine

theorem State.raiseParcel_boxesOnly (s : State) (p : Nat) : BoxesOnly s (s.raiseParcel p) := by
  have retired : BoxesOnly s (s.retireParcel p) := by
    unfold State.retireParcel
    split
    · exact .trans ((Keeps.modParcel ..).boxesOnly rfl) (State.logError_boxesOnly ..)
    · split
      · exact (Keeps.modParcel ..).boxesOnly rfl
      · exact State.logError_boxesOnly ..
  unfold State.raiseParcel
  extract_lets c s1
  have raised : BoxesOnly s s1 := .trans ((Keeps.modParcel ..).boxesOnly rfl) (State.logError_boxesOnly ..)
  split
  · split
    · exact raised.trans ((Keeps.reviewCode ..).boxesOnly rfl)
    · exact raised.trans ((Keeps.modParcel ..).boxesOnly rfl)
  · exact retired

theorem BoxesOnly.ite {p : Prop} [Decidable p] {s a b : State} (h : BoxesOnly s a) (g : BoxesOnly s b) : BoxesOnly s (if p then a else b) := by
  split
  · exact h
  · exact g

/-- The escalation of a row read by scrub: its parcel's raises counted, its strength raised, the row retired (R105 to R107). -/
theorem State.escalated_boxesOnly (s : State) (rk p n : Nat) (hot raise retire : Prop) [Decidable hot] [Decidable raise] [Decidable retire] :
    let s3 := if hot then s.modParcel p (fun x => { x with raised := n }) else s
    let s4 := if raise then (s3.modParcel p (fun x => { x with stepped := true })).raiseParcel p else s3
    BoxesOnly s (if retire then s4.retireRow rk false else s4) := by
  extract_lets s3 s4
  have tallied : BoxesOnly s s3 := .ite ((Keeps.modParcel ..).boxesOnly rfl) (.refl _)
  have raised : BoxesOnly s s4 := .ite (tallied.trans (.trans ((Keeps.modParcel ..).boxesOnly rfl) (State.raiseParcel_boxesOnly ..))) tallied
  exact .ite (raised.trans (BoxesOnly.logRel.retireRow ..)) raised

theorem State.scrubRow_boxesOnly (s : State) (rk : Nat) : BoxesOnly s (s.scrubRow rk) := by
  rw [State.scrubRow]
  refine .ite (State.decodeRow_boxesOnly ..) ?_
  split
  next => exact State.decodeRow_boxesOnly ..
  next code fix _ =>
    have read := State.decodeRow_boxesOnly s rk 127 6 none (s.logAddr (rk * 32))
    exact .ite (read _) (.trans (read _) (.trans (((Keeps.modRow ..).append (Keeps.countColumns ..)).boxesOnly rfl) (State.escalated_boxesOnly ..)))

section
variable {s : State} {rk : Nat} (hb : s.badTag rk = false)
include hb

theorem State.scrubRow_of_failed (hd : s.decoded rk = none) : s.scrubRow rk = s.decodeRow rk 127 6 none (s.logAddr (rk * 32)) id := by
  simp [State.scrubRow, hb, hd]

variable {code : Nat} {fix : List Nat} (hd : s.decoded rk = some (code, fix)) (hs : s.suspects rk code fix = [])
include hd hs

/-- Below every threshold scrub writes EPOCH, LASTCORR and STRIKES (R103, R104). -/
theorem State.scrubRow_below (h0 : fix.length < thresholdOf (s.cfg rSCRBTHR 0 4) (strengthOf code))
    (h4 : fix.length < thresholdOf (s.cfg rSCRBTHR 4 4) (strengthOf code)) (h12 : 0 < s.cfg rSCRBTHR 12 2) :
    ((s.scrubRow rk).row rk).epoch = s.logs.pass % 65536 ∧ ((s.scrubRow rk).row rk).lastCorr = fix.length ∧ ((s.scrubRow rk).row rk).strikes = 0 := by
  have strike : ¬ thresholdOf (s.cfg rSCRBTHR 0 4) (strengthOf code) ≤ fix.length := by omega
  have hot : ¬ thresholdOf (s.cfg rSCRBTHR 4 4) (strengthOf code) ≤ fix.length := by omega
  have kept : ¬ s.cfg rSCRBTHR 12 2 ≤ 0 := by omega
  obtain ⟨⟨m, x, row, -⟩, -⟩ := State.decodeRow_corrected 127 6 none (s.logAddr (rk * 32))
    (fun m => { m with epoch := s.logs.pass % 65536, lastCorr := fix.length, strikes := 0 }) hb hd hs
  simp only [State.scrubRow, hb, hd, hs, strike, hot, kept, if_false, false_and, ne_eq, not_true_eq_false, Bool.false_eq_true, decide_false]
  rw [(Keeps.countColumns ..).row_eq rfl, State.row_modRow, row]
  exact ⟨rfl, rfl, rfl⟩

end

/-! ### The retirement at the RETIRE threshold (R106) -/

theorem State.stack_retireRow {s : State} {rk x : Nat} {wrong : Bool} (hp : (s.bspare (rk / 65536)).pickRow (rk % 65536) = some x)
    (hn : (s.stack (rk / 65536 / 768)).pendingRepair.any (fun r => r.kind == 0 && r.at_ == rk) = false) :
    { kind := 0, at_ := rk, spare := x, wrong := wrong } ∈ ((s.retireRow rk wrong).stack (rk / 65536 / 768)).pendingRepair := by
  have same : s.retireRow rk wrong = ((s.modBspare (rk / 65536) (fun k => { k with rows := x :: k.rows })).modStack (rk / 65536 / 768) (fun k => { k with
      pendingRepair := k.pendingRepair ++ [{ kind := 0, at_ := rk, spare := x, wrong := wrong }] })).logError (rk * 32) 127 7 8 0 none (s.logAddr (rk * 32)) := by
    simp only [State.retireRow, hn, hp, Bool.false_eq_true, if_false]
  rw [same, (Keeps.logError ..).stack_eq rfl, State.stack_modStack]
  exact List.mem_append_right _ (List.mem_singleton.2 rfl)

theorem State.retireRow_of_pending {s : State} {rk : Nat} {wrong : Bool}
    (h : (s.stack (rk / 65536 / 768)).pendingRepair.any (fun r => r.kind == 0 && r.at_ == rk) = true) : s.retireRow rk wrong = s := by
  simp only [State.retireRow, h, if_true]

/-- Columns counted keep the repairs that wait. -/
theorem State.countColumns_pending (s : State) (b : Nat) (cols : List Nat) (st : Nat) (r : Repair) (h : r ∈ (s.stack st).pendingRepair) :
    r ∈ ((s.countColumns b cols).stack st).pendingRepair := by
  induction cols generalizing s with
  | nil => exact h
  | cons c cols ih =>
    refine ih _ ?_
    dsimp only
    split
    · by_cases hst : st = b / 768
      · subst hst
        rw [State.stack_modStack, (Keeps.modBspare ..).stack_eq rfl]
        exact List.mem_append_left _ h
      · rw [State.stack_modStack_ne _ _ _ _ hst, (Keeps.modBspare ..).stack_eq rfl]
        exact h
    · rw [(Keeps.modBspare ..).stack_eq rfl]
      exact h

/-- A row of which as many bits were corrected as retire it, or whose retirement waits already, has it wait after the escalation. -/
theorem State.escalated_pending {s : State} {rk x : Nat} (p n : Nat) (hot raise retire : Prop) [Decidable hot] [Decidable raise] [Decidable retire]
    (h : { kind := 0, at_ := rk, spare := x } ∈ (s.stack (rk / 65536 / 768)).pendingRepair) :
    let s3 := if hot then s.modParcel p (fun x => { x with raised := n }) else s
    let s4 := if raise then (s3.modParcel p (fun x => { x with stepped := true })).raiseParcel p else s3
    { kind := 0, at_ := rk, spare := x } ∈ ((if retire then s4.retireRow rk false else s4).stack (rk / 65536 / 768)).pendingRepair := by
  extract_lets s3 s4
  have tallied : Keeps [.slots, .parcels, .hubs, .logs] s s3 := .ite ((Keeps.modParcel ..).mono rfl) (.refl ..)
  have raised : Keeps [.slots, .parcels, .hubs, .logs] s s4 := .ite (tallied.trans (((Keeps.modParcel ..).mono rfl).trans (Keeps.raiseParcel ..))) tallied
  have waits : { kind := 0, at_ := rk, spare := x } ∈ (s4.stack (rk / 65536 / 768)).pendingRepair := by rwa [raised.stack_eq rfl]
  have any : (s4.stack (rk / 65536 / 768)).pendingRepair.any (fun r => r.kind == 0 && r.at_ == rk) = true :=
    List.any_eq_true.2 ⟨_, waits, by simp⟩
  rwa [State.retireRow_of_pending any, ite_self]

theorem State.scrubRow_retires {s : State} {rk : Nat} (hb : s.badTag rk = false) {code x : Nat} {fix : List Nat} (hd : s.decoded rk = some (code, fix))
    (hs : s.suspects rk code fix = []) (h8 : thresholdOf (s.cfg rSCRBTHR 8 4) (strengthOf code) ≤ fix.length)
    (hp : (s.bspare (rk / 65536)).pickRow (rk % 65536) = some x)
    (hn : (s.stack (rk / 65536 / 768)).pendingRepair.any (fun r => r.kind == 0 && r.at_ == rk) = false) :
    { kind := 0, at_ := rk, spare := x } ∈ ((s.scrubRow rk).stack (rk / 65536 / 768)).pendingRepair := by
  have retired (mark : RowMeta → RowMeta) : { kind := 0, at_ := rk, spare := x } ∈
      ((s.decodeRow rk 127 6 none (s.logAddr (rk * 32)) mark).stack (rk / 65536 / 768)).pendingRepair := by
    rw [State.decodeRow_of_decoded _ _ _ _ _ hb hd hs, if_pos h8]
    refine State.stack_retireRow ?_ ?_
    · rwa [(Keeps.rowCorrected ..).bspare_eq rfl]
    · rwa [(Keeps.rowCorrected ..).stack_eq rfl]
  simp only [State.scrubRow, hb, hd, hs, ne_eq, not_true_eq_false, Bool.false_eq_true, if_false]
  refine State.escalated_pending _ _ _ _ _ (State.countColumns_pending _ _ _ _ _ ?_)
  rw [(Keeps.modRow ..).stack_eq rfl]
  exact retired _

/-! ### The turn of scrub -/

/-- The row that scrub reads next on a channel, open under its grant. -/
def State.scrubOpened (s : State) (ch j r : Nat) : State :=
  ((s.countGrant ch 7).modChan ch (fun c => { c.wake j with scrubAt := c.scrubAt + 1 })).reachRow ch j r 7

theorem State.scrubOpened_keeps (s : State) (ch j r : Nat) : Keeps [.chans, .rows] s (s.scrubOpened ch j r) :=
  (((Keeps.countGrant ..).trans (Keeps.modChan ..)).mono rfl).trans ((Keeps.reachRow ..).mono rfl)

theorem State.scrubOpened_sameCells (s : State) (ch j r rk : Nat) : SameCells rk s (s.scrubOpened ch j r) :=
  (s.scrubOpened_keeps ch j r).sameCells_of_tallies rfl rk
    (TalliesOnly.trans (((Keeps.countGrant ..).trans (Keeps.modChan ..)).talliesOnly rfl) (State.reachRow_talliesOnly _ ch j r 7))

theorem State.scrubOpened_scrubAt (s : State) (ch j r : Nat) : ((s.scrubOpened ch j r).chan ch).scrubAt = (s.chan ch).scrubAt + 1 := by
  obtain ⟨b, q, h⟩ := (State.reachRow_banksOnly ((s.countGrant ch 7).modChan ch (fun c => { c.wake j with scrubAt := c.scrubAt + 1 })) ch ch j r 7).chan
  rw [State.scrubOpened, h, State.chan_modChan, State.countGrant, State.chan_modChan]

/-- The row read noted: the tile's count, the pass and its progress (R101, R118). -/
def State.scrubNoted (s : State) (tile progress pass : Nat) : State :=
  let s0 := s.modHub tile (fun h => { h with scrubDone := h.scrubDone + 1 })
  s0.putLogs { s0.logs with progress := progress, pass := pass }

theorem State.scrubNoted_keeps (s : State) (tile progress pass : Nat) : Keeps [.hubs, .logs] s (s.scrubNoted tile progress pass) :=
  (Keeps.modHub ..).append (Keeps.putLogs ..)

theorem State.scrubNoted_unccnt (s : State) (tile progress pass : Nat) : (s.scrubNoted tile progress pass).logs.unccnt = s.logs.unccnt := rfl

theorem State.scrubNoted_scrubDone (s : State) (tile progress pass : Nat) :
    ((s.scrubNoted tile progress pass).hub tile).scrubDone = (s.hub tile).scrubDone + 1 := by
  rw [State.scrubNoted, (Keeps.putLogs ..).hub_eq rfl, State.hub_modHub]

theorem exec_scrubRow {s : State} {ch : Fin 1536} {j r : Nat} (hj : j = (s.chan ch).scrubAt / 65536) (hr : r = (s.chan ch).scrubAt % 65536) (hlt : j < 48)
    (hub : (s.hub (tileOfChan ch)).retired = false) (rank : (s.chan ch).rank (j / 2) ≠ .selfRefresh) (free : (s.stack (ch.val / 16)).decRun.length < 4)
    (row : ((s.chan ch).bank j).row = some r ∨ s.mayActivate ch j 7 = true) (grant : s.canGrant ch 7 = true) :
    ∃ progress pass, exec (.scrubRow ch) s =
      .next (((s.scrubOpened ch j r).scrubRow (rowKey (bankOf ch j) r)).scrubNoted (tileOfChan ch) progress pass) := by
  have key : rowKey (bankOf ch j) r % 65536 = r := by rw [rowKey]; omega
  have ready : (decide (j < 48) && !(s.hub (tileOfChan ch)).retired && (s.chan ch).rank (j / 2) != .selfRefresh &&
      decide ((s.stack (ch.val / 16)).decRun.length < 4) &&
      (((s.chan ch).bank j).row == some r || s.mayActivate ch j 7)) = true := by
    simpa [hlt, hub, rank, free] using row
  show ∃ progress pass, execScrubRow ch s = _
  simp only [execScrubRow, ← hj, ← hr, key, ready, if_true, State.grantTo, grant, State.scrubOpened, State.scrubNoted]
  exact ⟨_, _, rfl⟩

end Sys2Proof.Machine
end

section
/-! Scrub's turn and the re-encode of a row (03 R100 to R111). -/

namespace Sys2Proof.Machine

theorem Keeps.reg_eq {L : List Field} {s t : State} (h : Keeps L s t) (hr : L.contains .regs = false) (hh : L.contains .half = false) (port off : Nat) :
    t.reg port off = s.reg port off := by
  rw [State.reg, State.reg, h.same .regs (by simpa using hr), h.same .half (by simpa using hh)]

theorem Keeps.cfg_eq {L : List Field} {s t : State} (h : Keeps L s t) (hr : L.contains .regs = false) (hh : L.contains .half = false) (off lo n : Nat) :
    t.cfg off lo n = s.cfg off lo n := by rw [State.cfg, State.cfg, h.reg_eq hr hh]

theorem does_scrubRow {s : State} {ch : Fin 1536} {at_ j rk : Nat} (hat : at_ = (s.chan ch).scrubAt) (hj : j = at_ / 65536)
    (hrk : rk = rowKey (bankOf ch j) (at_ % 65536)) (hlt : j < 48)
    (hub : (s.hub (tileOfChan ch)).retired = false) (rank : (s.chan ch).rank (j / 2) ≠ .selfRefresh) (free : (s.stack (ch.val / 16)).decRun.length < 4)
    (row : ((s.chan ch).bank j).row = some (at_ % 65536) ∨ s.mayActivate ch j 7 = true) (grant : s.canGrant ch 7 = true) :
    Does (.scrubRow ch) s (fun t => t.mem = s.mem ∧
      (t.chan ch).scrubAt = at_ + 1 ∧ (t.hub (tileOfChan ch)).scrubDone = (s.hub (tileOfChan ch)).scrubDone + 1 ∧
      (s.badTag rk = false → s.decoded rk = none → t.logs.unccnt = satNat 32 (s.logs.unccnt + 1) ∧
        ∀ c ∈ s.failedColumns rk, t.colBad (colKey rk c) = true) ∧
      (∀ code fix x, s.badTag rk = false → s.decoded rk = some (code, fix) → s.suspects rk code fix = [] →
        x = strengthOf code → fix.length < thresholdOf (s.cfg rSCRBTHR 0 4) x → fix.length < thresholdOf (s.cfg rSCRBTHR 4 4) x →
        fix.length < thresholdOf (s.cfg rSCRBTHR 8 4) x → 0 < s.cfg rSCRBTHR 12 2 →
        (t.row rk).epoch = s.logs.pass % 65536 ∧ (t.row rk).lastCorr = fix.length ∧ (t.row rk).strikes = 0) ∧
      (∀ code fix x, s.badTag rk = false → s.decoded rk = some (code, fix) → s.suspects rk code fix = [] →
        thresholdOf (s.cfg rSCRBTHR 8 4) (strengthOf code) ≤ fix.length → (s.bspare (bankOf ch j)).pickRow (at_ % 65536) = some x →
        (s.stack (ch.val / 16)).pendingRepair.any (fun r => r.kind == 0 && r.at_ == rk) = false →
        { kind := 0, at_ := rk, spare := x } ∈ (t.stack (ch.val / 16)).pendingRepair)) := by
  obtain ⟨progress, pass, run⟩ := exec_scrubRow (r := at_ % 65536) (by rw [hj, hat]) (by rw [hat]) hlt hub rank free row grant
  have bank : rk / 65536 = bankOf ch j := by rw [hrk, rowKey]; omega
  have row : rk % 65536 = at_ % 65536 := by rw [hrk, rowKey]; omega
  have stack : rk / 65536 / 768 = ch.val / 16 := by rw [bank, bankOf]; omega
  rw [← hrk] at run
  have opened := s.scrubOpened_keeps ch j (at_ % 65536)
  have same := s.scrubOpened_sameCells ch j (at_ % 65536) rk
  have next := s.scrubOpened_scrubAt ch j (at_ % 65536)
  generalize s.scrubOpened ch j (at_ % 65536) = u at run opened same next
  have logs : u.logs = s.logs := opened.same .logs (by decide)
  have cfg (lo n : Nat) : u.cfg rSCRBTHR lo n = s.cfg rSCRBTHR lo n := opened.cfg_eq rfl rfl _ _ _
  have scrubbed := Keeps.scrubRow u rk
  have boxes := (State.scrubRow_boxesOnly u rk).hub (tileOfChan ch)
  have failed (hb : s.badTag rk = false) (hd : s.decoded rk = none) : (u.scrubRow rk).logs.unccnt = satNat 32 (u.logs.unccnt + 1) ∧
      ∀ c ∈ u.failedColumns rk, (u.scrubRow rk).colBad (colKey rk c) = true := by
    rw [State.scrubRow_of_failed (same.badTag.trans hb) (same.decoded.trans hd)]
    exact State.decodeRow_of_failed _ _ _ _ _ (same.badTag.trans hb) (same.decoded.trans hd)
  have below {code : Nat} {fix : List Nat} (hb : s.badTag rk = false) (hd : s.decoded rk = some (code, fix)) (hs : s.suspects rk code fix = []) :=
    State.scrubRow_below (same.badTag.trans hb) (same.decoded.trans hd) ((same.suspects code fix).trans hs)
  have retires {code x : Nat} {fix : List Nat} (hb : s.badTag rk = false) (hd : s.decoded rk = some (code, fix)) (hs : s.suspects rk code fix = []) :=
    State.scrubRow_retires (x := x) (same.badTag.trans hb) (same.decoded.trans hd) ((same.suspects code fix).trans hs)
  generalize u.scrubRow rk = v at *
  have noted := v.scrubNoted_keeps (tileOfChan ch) progress pass
  have count := v.scrubNoted_unccnt (tileOfChan ch) progress pass
  have done := v.scrubNoted_scrubDone (tileOfChan ch) progress pass
  generalize v.scrubNoted (tileOfChan ch) progress pass = t at *
  refine .next run ⟨?_, ?_, ?_, fun hb hd => ?_, fun code fix x hb hd hs hx h0 h4 _ h12 => ?_, fun code fix x hb hd hs h8 hp hn => ?_⟩
  · rw [noted.same .mem (by decide), scrubbed.same .mem (by decide), opened.same .mem (by decide)]
  · rw [noted.chan_eq rfl, scrubbed.chan_eq rfl, next, hat]
  · obtain ⟨b, hbox⟩ := boxes
    rw [done, hbox, opened.hub_eq rfl]
  · obtain ⟨counted, marked⟩ := failed hb hd
    refine ⟨by rw [count, counted, logs], fun c hc => ?_⟩
    rw [State.colBad, noted.same .pois (by decide)]
    exact marked c (by rwa [same.failedColumns])
  · subst hx
    obtain ⟨epoch, last, strikes⟩ := below hb hd hs (by rwa [cfg]) (by rwa [cfg]) (by rwa [cfg])
    rw [noted.row_eq rfl]
    exact ⟨epoch.trans (by rw [logs]), last, strikes⟩
  · rw [noted.stack_eq rfl, ← stack]
    refine retires hb hd hs (by rwa [cfg]) ?_ ?_
    · rwa [opened.bspare_eq rfl, bank, row]
    · rwa [opened.stack_eq rfl, stack]

/-! ### The re-encode of a row -/

section
variable {s : State} {r : Nat} (x : Nat)

/-- A row under R84 keeps its strength and is counted, as its decode is. -/
theorem State.reencodeOne_of_badTag (h : s.badTag r = true) :
    ((s.reencodeOne r x).row r).code = some (s.rowCode r) ∧ (s.reencodeOne r x).logs.unccnt = satNat 32 (s.logs.unccnt + 1) := by
  rw [State.reencodeOne, if_pos h]
  constructor
  · rw [State.row_modRow]
  · rw [((Keeps.modRow ..).sameCounts rfl).unccnt]
    exact (State.decodeRow_of_badTag _ _ _ _ _ h).2

theorem State.reencodeOne_code (h : s.badTag r = false) : ((s.reencodeOne r x).row r).code = some x := by
  rw [State.reencodeOne, if_neg (by simp [h]), State.row_modRow]

/-- A row whose bits are all as written is only given its strength. -/
theorem State.reencodeOne_clean (h : s.badTag r = false) (he : (s.row r).errs = []) : Keeps [.rows] s (s.reencodeOne r x) := by
  rw [State.reencodeOne, if_neg (by simp [h]), if_pos he]
  exact Keeps.modRow ..

end

section
variable {s : State} {p : Fin 8192} {x n : Nat} (hf : s.noDecoder p n = false)
include hf

theorem exec_reencodeRow_slot {sl : Nat} (hp : s.slotOfParcel p = some sl) (hr : (s.slot sl).reenc = some (x, n)) :
    exec (.reencodeRow p) s = .next (
      if n + 1 < parcelRows then (s.reencodeOne (parcelRow p n) x).modSlot sl (fun k => { k with reenc := some (x, n + 1) })
      else
        let v := ((s.reencodeOne (parcelRow p n) x).endReencode p).modSlot sl (fun k => { k with code := x, reenc := none, codeDesc := none })
        (s.slot sl).codeDesc.elim v (fun d => v.complete d {})) := by
  show execReencodeRow p s = _
  simp only [execReencodeRow, hp, hr, hf, Bool.false_eq_true, if_false]
  cases (s.slot sl).codeDesc <;> rfl

theorem exec_reencodeRow_parcel (hp : s.slotOfParcel p = none) (hr : (s.parcel p).reenc = some (x, n)) :
    exec (.reencodeRow p) s = .next (
      if n + 1 < parcelRows then (s.reencodeOne (parcelRow p n) x).modParcel p (fun k => { k with reenc := some (x, n + 1) })
      else ((s.reencodeOne (parcelRow p n) x).endReencode p).modParcel p (fun k => { k with code := none, reenc := none })) := by
  show execReencodeRow p s = _
  simp only [execReencodeRow, hp, hr, hf, Bool.false_eq_true, if_false]

theorem does_reencodeRow_slot {sl r : Nat} (hp : s.slotOfParcel p = some sl) (hr : (s.slot sl).reenc = some (x, n)) (hrow : r = parcelRow p n) :
    Does (.reencodeRow p) s (fun t => t.mem = s.mem ∧
      (n + 1 < parcelRows → (t.slot sl).reenc = some (x, n + 1) ∧
        (s.badTag r = false → (t.row r).code = some x) ∧
        (s.badTag r = false → (s.row r).errs = [] → Keeps [.rows, .slots] s t) ∧
        (s.badTag r = true → (t.row r).code = some (s.rowCode r) ∧ t.logs.unccnt = satNat 32 (s.logs.unccnt + 1))) ∧
      (n + 1 = parcelRows → (t.slot sl).reenc = none ∧ (t.slot sl).code = x ∧ (t.slot sl).codeDesc = none)) := by
  have run := exec_reencodeRow_slot hf hp hr
  rw [← hrow] at run
  have encoded := Keeps.reencodeOne s r x
  have wrong : s.badTag r = true → _ := State.reencodeOne_of_badTag x
  have coded : s.badTag r = false → _ := State.reencodeOne_code x
  have clean : s.badTag r = false → (s.row r).errs = [] → _ := State.reencodeOne_clean x
  generalize s.reencodeOne r x = u at *
  by_cases hn : n + 1 < parcelRows
  · rw [if_pos hn] at run
    have put := Keeps.modSlot u sl (fun k => { k with reenc := some (x, n + 1) })
    have slot := State.slot_modSlot u sl (fun k => { k with reenc := some (x, n + 1) })
    generalize u.modSlot sl (fun k => { k with reenc := some (x, n + 1) }) = t at *
    refine .next run ⟨(put.same .mem (by decide)).trans (encoded.same .mem (by decide)), fun _ => ⟨by rw [slot], fun hb => ?_, fun hb he => ?_, fun hb => ?_⟩,
      fun h => absurd hn (by omega)⟩
    · rw [put.row_eq rfl, coded hb]
    · exact (clean hb he).append put
    · obtain ⟨code, count⟩ := wrong hb
      exact ⟨by rw [put.row_eq rfl, code], by rw [(put.sameCounts rfl).unccnt, count]⟩
  · rw [if_neg hn] at run
    have put := Keeps.modSlot (u.endReencode p) sl (fun k => { k with code := x, reenc := none, codeDesc := none })
    have slot := State.slot_modSlot (u.endReencode p) sl (fun k => { k with code := x, reenc := none, codeDesc := none })
    generalize (u.endReencode p).modSlot sl (fun k => { k with code := x, reenc := none, codeDesc := none }) = v at *
    have done {t : State} (h : Keeps [.parts, .pages, .ports, .act, .out] v t) : t.mem = s.mem ∧ (t.slot sl).reenc = none ∧ (t.slot sl).code = x ∧
        (t.slot sl).codeDesc = none := by
      refine ⟨?_, ?_⟩
      · rw [h.same .mem (by decide), put.same .mem (by decide), (Keeps.endReencode ..).same .mem (by decide), encoded.same .mem (by decide)]
      · rw [h.slot_eq rfl rfl, slot]
        exact ⟨rfl, rfl, rfl⟩
    cases hd : (s.slot sl).codeDesc with
    | none =>
      rw [hd] at run
      obtain ⟨mem, ended⟩ := done (.refl ..)
      exact .next run ⟨mem, fun h => absurd h hn, fun _ => ended⟩
    | some d =>
      rw [hd] at run
      obtain ⟨mem, ended⟩ := done (Keeps.complete v d {})
      exact .next run ⟨mem, fun h => absurd h hn, fun _ => ended⟩

theorem does_reencodeRow_parcel {r : Nat} (hp : s.slotOfParcel p = none) (hr : (s.parcel p).reenc = some (x, n)) (hrow : r = parcelRow p n) :
    Does (.reencodeRow p) s (fun t => t.mem = s.mem ∧
      (n + 1 < parcelRows → (t.parcel p).reenc = some (x, n + 1) ∧ (s.badTag r = false → (t.row r).code = some x)) ∧
      (n + 1 = parcelRows → (t.parcel p).reenc = none ∧ (t.parcel p).code = none)) := by
  have run := exec_reencodeRow_parcel hf hp hr
  rw [← hrow] at run
  have encoded := Keeps.reencodeOne s r x
  have coded : s.badTag r = false → _ := State.reencodeOne_code x
  generalize s.reencodeOne r x = u at *
  by_cases hn : n + 1 < parcelRows
  · rw [if_pos hn] at run
    refine .next run ⟨?_, fun _ => ⟨by rw [State.parcel_modParcel], fun hb => ?_⟩, fun h => absurd hn (by omega)⟩
    · rw [(Keeps.modParcel ..).same .mem (by decide), encoded.same .mem (by decide)]
    · rw [(Keeps.modParcel ..).row_eq rfl, coded hb]
  · rw [if_neg hn] at run
    refine .next run ⟨?_, fun h => absurd h hn, fun _ => ?_⟩
    · rw [(Keeps.modParcel ..).same .mem (by decide), (Keeps.endReencode ..).same .mem (by decide), encoded.same .mem (by decide)]
    · rw [State.parcel_modParcel]
      exact ⟨rfl, rfl⟩

end

/-- Settles O7: a decode's outcomes are those of the row's cells, which the decoders' queues, a grant and an activation leave alone;
scrub and re-encode go on from the decode. -/
theorem pageCodeCommandsComplete : Obligations.PageCodeCommandsComplete := by
  refine ⟨fun s st d rest hw hr => ?_, fun s st d rest => does_fullRowDecodeDone, fun s st d rest q => does_fullRowDecodeDone_req, does_scrubPassStart,
    fun s ch rank last => does_scrubRankWake, fun s ch rank hw hl => ?_, fun s ch at_ j rk hat hj hrk hlt hub rank free row grant =>
      does_scrubRow hat hj hrk hlt hub rank free row grant, fun s ch hg => ?_, fun s p sl x n r hf hp hr hrow => does_reencodeRow_slot hf hp hr hrow,
    fun s p x n r hf hp hr hrow => does_reencodeRow_parcel hf hp hr hrow, fun s p sl x n hp hr hf => ?_⟩
  · show execFullRowDecode st s = _
    simp only [execFullRowDecode, hw, hr, if_true]
  · refine next_congr (if_neg ?_)
    rintro ⟨-, -, last | last⟩ <;> omega
  · show execScrubRow ch s = _
    simp only [execScrubRow, State.grantTo, hg, Bool.false_eq_true, if_false, ite_self]
  · show execReencodeRow p s = _
    simp only [execReencodeRow, hp, hr, hf, if_true]

end Sys2Proof.Machine
end

section
/-! The power governor and the coolant (13 R512 to R518; 17 R655, R659 to R662). -/

namespace Sys2Proof.Machine

/-! ### Measures 2 and 3 -/

theorem State.setM3_power (s : State) (on : Bool) : ∃ n, (s.setM3 on).power = { s.power with m3 := on, m3cnt := n } ∧
    (s.power.m3 = false → on = true → n = satNat 16 (s.power.m3cnt + 1)) := by
  by_cases h : s.power.m3 = on
  · rw [State.setM3, if_pos h]
    exact ⟨_, by rw [← h], fun hf ht => by rw [hf, ht] at h; cases h⟩
  · rw [State.setM3, if_neg h]
    refine ⟨_, (Keeps.trace ..).same .power (by decide), fun _ ht => if_pos ht⟩

theorem State.setM2_power (s : State) (on : Bool) : (s.setM2 on).power = { s.power with m2 := on } := by
  by_cases h : s.power.m2 = on
  · rw [State.setM2, if_pos h, ← h]
  · rw [State.setM2, if_neg h]
    exact (Keeps.trace ..).same .power (by decide)

theorem Keeps.sameBanks_of {L : List Field} {s t : State} (h : Keeps L s t) (hm : Field.mem ∉ L := by decide) (hp : Field.pois ∉ L := by decide) :
    SameBanks s t := ⟨h.same .mem hm, h.same .pois hp⟩

theorem State.setM3_chans (s : State) (on : Bool) (h : s.power.m3 ≠ on) : (s.setM3 on).chans =
    if on then Tab.updMany (fun _ => {}) (fun c : Channel => { c with nbHold := true }) (List.range 1536) s.chans
    else Tab.mapAll (fun _ => {}) (fun _ c => { c with nbHold := false }) s.chans := by
  rw [State.setM3, if_neg h]
  exact (Keeps.trace ..).same .chans (by decide)

theorem State.setM3_hold {s : State} (h : s.power.m3 = false) {ch : Nat} (hc : ch < 1536) :
    ((s.setM3 true).chan ch).nbHold = true ∧ ((s.setM3 true).chan ch).mode = (s.chan ch).mode := by
  rw [State.chan, State.setM3_chans s true (by simp [h]), if_pos rfl,
    Tab.get_updMany_same (fun _ => ({} : Channel)) _ (List.range 1536) s.chans ch (List.mem_range.2 hc) List.nodup_range]
  exact ⟨rfl, rfl⟩

theorem State.setM3_release {s : State} (h : s.power.m3 = true) (ch : Nat) : ((s.setM3 false).chan ch).nbHold = false := by
  rw [State.chan, State.setM3_chans s false (by simp [h]), if_neg Bool.false_ne_true]
  exact Tab.get_mapAll_has (P := fun c : Channel => c.nbHold = false) _ _ s.chans ch rfl (fun _ => rfl)

theorem does_nearBankHold {s : State} {a : Nat} (ha : s.power.overSince = some a) (hc : a + s.cfg rPGCFG 16 4 * 1600000 ≤ s.cyc)
    (hm : s.power.m3 = false) : Does .nearBankHold s (fun t => t.power.m3 = true ∧ t.power.m3cnt = satNat 16 (s.power.m3cnt + 1) ∧
      (∀ ch, ch < 1536 → (t.chan ch).nbHold = true ∧ (t.chan ch).mode = (s.chan ch).mode) ∧ SameBanks s t) := by
  have run : exec .nearBankHold s = .next (s.setM3 true) := by
    show execNearBankHold s = _
    simp only [execNearBankHold, ha, hc, if_true]
  obtain ⟨n, power, count⟩ := s.setM3_power true
  refine .next run ⟨by rw [power], by rw [power]; exact count hm rfl, fun ch => State.setM3_hold hm, (Keeps.setM3 ..).sameBanks_of⟩

/-- A coolant fault begun, before measure 3 (R662). -/
def State.faulted (s : State) : State := s.putPower { s.power with coolFault := true, capEff := s.faultCap }

theorem does_coolantFault {s : State} (hon : s.power.on = true) (hf : s.power.coolFault = false) :
    Does .coolantFault s (fun t => t.power.coolFault = true ∧ t.power.capEff = (if s.half then 20 else 40) ∧ t.power.m3 = true ∧
      (s.power.m3 = false → ∀ ch, ch < 1536 → (t.chan ch).nbHold = true) ∧ SameBanks s t) := by
  have run : exec .coolantFault s = .next (s.faulted.setM3 true) := next_congr (if_neg (by simp [hon, hf]))
  have kept : Keeps [.power] s s.faulted := .putPower ..
  have fault : s.faulted.power.coolFault = true := rfl
  have cap : s.faulted.power.capEff = (if s.half then 20 else 40) := rfl
  have m3 : s.faulted.power.m3 = s.power.m3 := rfl
  obtain ⟨n, power, -⟩ := s.faulted.setM3_power true
  exact .next run ⟨by rw [power, fault], by rw [power, cap], by rw [power], fun hm ch hc => (State.setM3_hold (m3.trans hm) hc).1,
    (kept.append (Keeps.setM3 ..)).sameBanks_of⟩

/-- A coolant fault ended, before measure 3 is released (R662). -/
def State.recovered (s : State) : State :=
  let s1 := s.putPower { s.power with coolFault := false }
  s1.putPower { s1.power with capEff := s1.capOf s.power.input s.power.tin s.power.flow }

theorem does_coolantRecover {s : State} (hf : s.power.coolFault = true) :
    Does .coolantRecover s (fun t => t.power.coolFault = false ∧ t.power.m3 = false ∧
      (s.power.m3 = true → ∀ ch, (t.chan ch).nbHold = false) ∧ SameBanks s t) := by
  have run : exec .coolantRecover s = .next (s.recovered.setM3 false) := next_congr (if_pos hf)
  have kept : Keeps [.power] s s.recovered := (Keeps.putPower ..).trans (.putPower ..)
  have fault : s.recovered.power.coolFault = false := rfl
  have m3 : s.recovered.power.m3 = s.power.m3 := rfl
  obtain ⟨n, power, -⟩ := s.recovered.setM3_power false
  exact .next run ⟨by rw [power, fault], by rw [power], fun hm => State.setM3_release (m3.trans hm), (kept.append (Keeps.setM3 ..)).sameBanks_of⟩

/-! ### An update of the governor -/

/-- Measure 2 after an update: put in force, released or as before. -/
theorem State.measure2_power (s : State) (p q : Prop) [Decidable p] [Decidable q] :
    (if p then s.setM2 true else if q then s.setM2 false else s).power =
      { s.power with m2 := if p then true else if q then false else s.power.m2 } := by
  by_cases hp : p
  · simp only [if_pos hp, State.setM2_power]
  · by_cases hq : q
    · simp only [if_neg hp, if_pos hq, State.setM2_power]
    · simp only [if_neg hp, if_neg hq]

theorem State.measure3_power (s : State) (p : Prop) [Decidable p] :
    ∃ n, (if p then s.setM3 false else s).power = { s.power with m3 := if p then false else s.power.m3, m3cnt := n } := by
  by_cases hp : p
  · obtain ⟨n, power, -⟩ := s.setM3_power false
    exact ⟨n, by simp only [if_pos hp, power]⟩
  · exact ⟨s.power.m3cnt, by simp only [if_neg hp]⟩

/-- What telemetry measures noted, with the time since when the average is above the limit. -/
def State.measured (s : State) (avg cap input tin tout flow dp : Nat) (since : Option Nat) : State :=
  s.putPower { s.power with avg := avg, capEff := cap, input := input, tin := tin, tout := tout, flow := flow, dp := dp, overSince := since }

/-- The governor's answer to what is measured: measure 2 in force (`p`) or released (`q`), measure 3 released (`r`). -/
def State.governed (s : State) (p q r : Prop) [Decidable p] [Decidable q] [Decidable r] : State :=
  let s2 := if p then s.setM2 true else if q then s.setM2 false else s
  if r then s2.setM3 false else s2

theorem State.governed_keeps (s : State) (p q r : Prop) [Decidable p] [Decidable q] [Decidable r] :
    Keeps [.power, .chans, .parts, .ports, .act, .out] s (s.governed p q r) := by
  have second : Keeps [.power, .chans, .parts, .ports, .act, .out] s (if p then s.setM2 true else if q then s.setM2 false else s) :=
    .ite ((Keeps.setM2 ..).mono rfl) (.ite ((Keeps.setM2 ..).mono rfl) (.refl ..))
  exact .ite (second.trans (Keeps.setM3 ..)) second

theorem State.governed_power (s : State) (p q r : Prop) [Decidable p] [Decidable q] [Decidable r] : ∃ n, (s.governed p q r).power =
    { s.power with m2 := if p then true else if q then false else s.power.m2, m3 := if r then false else s.power.m3, m3cnt := n } := by
  obtain ⟨n, power⟩ := State.measure3_power (if p then s.setM2 true else if q then s.setM2 false else s) r
  exact ⟨n, by rw [State.governed, power, State.measure2_power]⟩

theorem exec_powerAverageUpdate {s : State} (avg : BitVec 16) (input tin tout flow dp : BitVec 10) (hb : s.boot.phase = 15) :
    ∃ since, exec (.powerAverageUpdate avg input tin tout flow dp) s = .next (
      (s.measured avg.toNat (s.capOf input.toNat tin.toNat flow.toNat) input.toNat tin.toNat tout.toNat flow.toNat dp.toNat since).governed
        (s.capOf input.toNat tin.toNat flow.toNat * 50 < avg.toNat * 10 ∧ (s.shiftFull = true ∨ s.inForce 0 rSPLCFG 24 1 = 0))
        (avg.toNat * 10 < s.inForce 0 rSPLCFG 8 8 * 50) (avg.toNat * 10 < s.inForce 0 rSPLCFG 8 8 * 50 ∧ s.power.coolFault = false)) := by
  show ∃ since, execPowerAverageUpdate avg input tin tout flow dp s = _
  simp only [execPowerAverageUpdate, hb, ne_eq, not_true_eq_false, if_false, decide_eq_true_eq, bne_eq_false_iff_eq]
  exact ⟨_, rfl⟩

theorem does_powerAverageUpdate {s : State} (avg : BitVec 16) (input tin tout flow dp : BitVec 10) (hb : s.boot.phase = 15) :
    Does (.powerAverageUpdate avg input tin tout flow dp) s (fun t => t.power.avg = avg.toNat ∧
      t.power.capEff = s.capOf input.toNat tin.toNat flow.toNat ∧ t.power.tin = tin.toNat ∧ t.power.tout = tout.toNat ∧
      t.power.flow = flow.toNat ∧ t.power.dp = dp.toNat ∧ t.power.input = input.toNat ∧
      (t.power.capEff * 50 < avg.toNat * 10 → s.shiftFull = true ∨ s.inForce 0 rSPLCFG 24 1 = 0 → t.power.m2 = true) ∧
      (avg.toNat * 10 < s.inForce 0 rSPLCFG 8 8 * 50 → avg.toNat * 10 ≤ t.power.capEff * 50 → t.power.m2 = false) ∧
      (avg.toNat * 10 < s.inForce 0 rSPLCFG 8 8 * 50 → s.power.coolFault = false → t.power.m3 = false) ∧
      (s.inForce 0 rSPLCFG 8 8 * 50 ≤ avg.toNat * 10 → t.power.m3 = s.power.m3) ∧ SameBanks s t) := by
  obtain ⟨since, run⟩ := exec_powerAverageUpdate avg input tin tout flow dp hb
  generalize s.capOf input.toNat tin.toNat flow.toNat = cap at *
  generalize s.inForce 0 rSPLCFG 8 8 * 50 = low at *
  have noted : Keeps [.power] s (s.measured avg.toNat cap input.toNat tin.toNat tout.toNat flow.toNat dp.toNat since) := .putPower ..
  obtain ⟨n, power⟩ := State.governed_power (s.measured avg.toNat cap input.toNat tin.toNat tout.toNat flow.toNat dp.toNat since)
    (cap * 50 < avg.toNat * 10 ∧ (s.shiftFull = true ∨ s.inForce 0 rSPLCFG 24 1 = 0)) (avg.toNat * 10 < low)
    (avg.toNat * 10 < low ∧ s.power.coolFault = false)
  refine .next run ?_
  rw [power]
  refine ⟨rfl, rfl, rfl, rfl, rfl, rfl, rfl, fun above full => if_pos ⟨above, full⟩, fun below within => ?_, fun below cool => if_pos ⟨below, cool⟩,
    fun above => if_neg fun below => absurd below.1 (by omega), (noted.append (State.governed_keeps ..)).sameBanks_of⟩
  have within : avg.toNat * 10 ≤ cap * 50 := within
  exact (if_neg fun above => absurd above.1 (by omega)).trans (if_pos below)

/-! ### The end of a window -/

theorem mem_liveTiles {s : State} (i : Fin 16) : i.val ∈ s.liveTiles ↔ (s.hub i).retired = false := by
  simp [State.liveTiles]

theorem State.liveTiles_nodup (s : State) : s.liveTiles.Nodup := List.nodup_range.filter _

/-- The tiles' SHIFT moved, each by its own step. -/
def State.shiftMoves (s : State) (moves : List (Nat × Int)) : State :=
  moves.foldl (fun s m => if m.2 = 0 then s else s.modHub m.1 (fun h => { h with shift := h.shift + m.2 })) s

theorem State.shiftMoves_keeps (s : State) (moves : List (Nat × Int)) : Keeps [.hubs] s (s.shiftMoves moves) :=
  .foldl _ (fun _ _ => .ite (.refl ..) (.modHub ..)) _ _

theorem State.shiftMoves_ne (s : State) (moves : List (Nat × Int)) (i : Nat) (h : i ∉ moves.map Prod.fst) : (s.shiftMoves moves).hub i = s.hub i := by
  induction moves generalizing s with
  | nil => rfl
  | cons m moves ih =>
    obtain ⟨hm, hs⟩ := not_or.1 (List.mem_cons.not.1 h)
    refine (ih _ hs).trans ?_
    dsimp only
    split
    · rfl
    · exact State.hub_modHub_ne _ _ _ _ hm

theorem State.shiftMoves_shift (s : State) (step : Nat → Int) (is : List Nat) (hd : is.Nodup) (i : Nat) (h : i ∈ is) :
    ((s.shiftMoves (is.map (fun t => (t, step t)))).hub i).shift = (s.hub i).shift + step i := by
  induction is generalizing s with
  | nil => exact absurd h List.not_mem_nil
  | cons j is ih =>
    obtain ⟨hj, hd⟩ := List.nodup_cons.1 hd
    have rest (u : State) : ((u.shiftMoves (is.map (fun t => (t, step t)))).hub j) = u.hub j :=
      u.shiftMoves_ne _ j (by simpa using hj)
    by_cases hi : i = j
    · subst hi
      refine (congrArg Hub.shift (rest _)).trans ?_
      dsimp only
      split
      next hz => rw [hz, Int.add_zero]
      next => rw [State.hub_modHub]
    · refine (ih _ hd ((List.mem_cons.1 h).resolve_left hi)).trans ?_
      dsimp only
      split
      · rfl
      · rw [State.hub_modHub_ne _ _ _ _ hi]

/-- The SHIFT of every tile at the end of a window, what is counted of it, and SPLCFG taken up (13 R512 to R518). -/
def State.windowEnded (s : State) (move : Nat → Int) (changes atmax : Nat) (changed : Prop) [Decidable changed] : State :=
  let s1 := s.shiftMoves (s.liveTiles.map (fun t => (t, move t)))
  let s2 := s1.putPower { s1.power with pest := s.estimate, changes := changes, atmax := atmax, allMax := s1.shiftFull }
  ((if changed then s2.trace 8 none 0 0 0 0 s.power.avg 1 else s2).takeUp 0 [rSPLCFG]).putAct []

theorem exec_governorWindowEnd {s : State} (hb : s.boot.phase = 15) : ∃ changes atmax changed, exec .governorWindowEnd s = .next (
    s.windowEnded (fun t => if s.inForce 0 rSPLCFG 24 1 ≠ 0 then s.shiftStep t s.estimate else -(s.hub t).shift) changes atmax (changed = true)) := by
  show ∃ changes atmax changed, execGovernorWindowEnd s = _
  simp only [execGovernorWindowEnd, hb, ne_eq, not_true_eq_false, if_false, bne_iff_ne]
  exact ⟨_, _, _, rfl⟩

section
variable (s : State) (move : Nat → Int) (changes atmax : Nat) (changed : Prop) [Decidable changed]

theorem State.windowEnded_hubs : (s.windowEnded move changes atmax changed).hubs = (s.shiftMoves (s.liveTiles.map (fun t => (t, move t)))).hubs := by
  have traced (u : State) : (if changed then u.trace 8 none 0 0 0 0 s.power.avg 1 else u).hubs = u.hubs :=
    (Keeps.ite (Keeps.trace ..) (.refl ..)).same .hubs (by decide)
  rw [State.windowEnded, (Keeps.putAct ..).same .hubs (by decide), (Keeps.takeUp ..).same .hubs (by decide), traced]
  rfl

theorem State.windowEnded_spec : (s.windowEnded move changes atmax changed).power.pest = s.estimate ∧
    (s.windowEnded move changes atmax changed).act = [] ∧
    (∀ i : Fin 16, (s.hub i).retired = false → ((s.windowEnded move changes atmax changed).hub i).shift = (s.hub i).shift + move i) ∧
    (∀ i : Fin 16, (s.hub i).retired = true → (s.windowEnded move changes atmax changed).hub i = s.hub i) ∧
    SameBanks s (s.windowEnded move changes atmax changed) := by
  have hub (i : Nat) : (s.windowEnded move changes atmax changed).hub i = (s.shiftMoves (s.liveTiles.map (fun t => (t, move t)))).hub i :=
    congrArg (Tab.get (fun _ => ({} : Hub)) · i) (State.windowEnded_hubs ..)
  have keys : (s.liveTiles.map (fun t => (t, move t))).map Prod.fst = s.liveTiles := by simp [Function.comp_def]
  refine ⟨?_, rfl, fun i hi => ?_, fun i hi => ?_, ?_⟩
  · have traced (u : State) : (if changed then u.trace 8 none 0 0 0 0 s.power.avg 1 else u).power = u.power :=
      (Keeps.ite (Keeps.trace ..) (.refl ..)).same .power (by decide)
    rw [State.windowEnded, (Keeps.putAct ..).same .power (by decide), (Keeps.takeUp ..).same .power (by decide), traced]
    rfl
  · rw [hub, State.shiftMoves_shift _ _ _ s.liveTiles_nodup _ ((mem_liveTiles i).2 hi)]
  · rw [hub, State.shiftMoves_ne]
    rw [keys, mem_liveTiles, hi]
    exact Bool.noConfusion
  · exact (((((State.shiftMoves_keeps ..).append (Keeps.putPower ..)).append (Keeps.ite (Keeps.trace ..) (.refl ..))).append (Keeps.takeUp ..)).append
      (Keeps.putAct ..)).sameBanks_of

theorem State.windowEnded_regs : SameRegs s (s.windowEnded move changes atmax changed) ∧
    ∀ lo n, (s.windowEnded move changes atmax changed).inForce 0 rSPLCFG lo n = s.cfg rSPLCFG lo n := by
  have before : Keeps [.hubs, .power, .parts, .ports, .act, .out] s (
      let s1 := s.shiftMoves (s.liveTiles.map (fun t => (t, move t)))
      let s2 := s1.putPower { s1.power with pest := s.estimate, changes := changes, atmax := atmax, allMax := s1.shiftFull }
      if changed then s2.trace 8 none 0 0 0 0 s.power.avg 1 else s2) :=
    ((State.shiftMoves_keeps ..).append (Keeps.putPower ..)).append (M := [.parts, .ports, .act, .out]) (.ite (Keeps.trace ..) (.refl ..))
  rw [State.windowEnded]
  dsimp only at before ⊢
  generalize (if changed then _ else _ : State) = u at before ⊢
  have taken (p off : Nat) (hp : p < 4) (ho : off < 0x100000) := u.takeUp_sameRegs 0 [rSPLCFG] p off hp ho
  have forced (lo n : Nat) := u.takeUp_inForce 0 [rSPLCFG] 0 rSPLCFG lo n (by decide) (by decide)
  generalize u.takeUp 0 [rSPLCFG] = v at *
  refine ⟨fun p off hp ho => ?_, fun lo n => ?_⟩
  · rw [(Keeps.putAct ..).reg_eq rfl rfl, taken p off hp ho, before.reg_eq rfl rfl]
  · exact (forced lo n).trans ((if_pos ⟨rfl, List.mem_singleton.2 rfl⟩).trans (before.cfg_eq rfl rfl _ _ _))

end

/-- Settles O41: each command's state is that of its record of power, with measure 3 moved on the channels and SHIFT on the tiles. -/
theorem governorCommandsComplete : Obligations.GovernorCommandsComplete := by
  refine ⟨fun s avg input tin tout flow dp => does_powerAverageUpdate avg input tin tout flow dp, fun s a => does_nearBankHold, fun s hb on => ?_,
    fun s hb off => ?_, fun s => does_coolantFault, fun s => does_coolantRecover⟩
  · obtain ⟨changes, atmax, changed, run⟩ := exec_governorWindowEnd hb
    obtain ⟨pest, act, moved, retired, banks⟩ := s.windowEnded_spec
      (fun t => if s.inForce 0 rSPLCFG 24 1 ≠ 0 then s.shiftStep t s.estimate else -(s.hub t).shift) changes atmax (changed = true)
    obtain ⟨regs, forced⟩ := s.windowEnded_regs
      (fun t => if s.inForce 0 rSPLCFG 24 1 ≠ 0 then s.shiftStep t s.estimate else -(s.hub t).shift) changes atmax (changed = true)
    exact .next run ⟨pest, act, fun i hi => (moved i hi).trans (by rw [if_pos on]), retired, forced, regs, banks⟩
  · obtain ⟨changes, atmax, changed, run⟩ := exec_governorWindowEnd hb
    obtain ⟨pest, act, moved, -, banks⟩ := s.windowEnded_spec
      (fun t => if s.inForce 0 rSPLCFG 24 1 ≠ 0 then s.shiftStep t s.estimate else -(s.hub t).shift) changes atmax (changed = true)
    exact .next run ⟨pest, act, fun i hi => (moved i hi).trans (by rw [if_neg (not_not_intro off), Int.add_right_neg]), banks⟩

end Sys2Proof.Machine
end

section
/-! The hubs under halts and faults (11 R469; 10 R431; 16 R617). -/

namespace Sys2Proof.Machine

/-- Hub `i` differs in its rebuilds, its overlap and its black box at most, and is listed at most once still. -/
structure HaltOnly (i : Nat) (s t : State) : Prop where
  /-- at most those differ -/
  hub : ∃ r o b, t.hub i = { s.hub i with rebuilds := r, overlap := o, bb := b }
  /-- the hub is listed at most once -/
  once : t.hubs.Once i

section
variable {i : Nat}

theorem HaltOnly.refl {s : State} (h : s.hubs.Once i) : HaltOnly i s s := ⟨⟨_, _, _, rfl⟩, h⟩

theorem HaltOnly.trans {s t u : State} (h : HaltOnly i s t) (g : HaltOnly i t u) : HaltOnly i s u := by
  obtain ⟨r, o, b, ht⟩ := h.hub
  obtain ⟨x, y, z, hu⟩ := g.hub
  exact ⟨⟨x, y, z, by rw [hu, ht]⟩, g.once⟩

theorem Keeps.haltOnly {L : List Field} {s t : State} (h : Keeps L s t) (hL : L.contains .hubs = false) (hs : s.hubs.Once i) :
    HaltOnly i s t := by
  have hubs : t.hubs = s.hubs := h.same .hubs (by simpa using hL)
  exact ⟨⟨_, _, _, h.hub_eq hL i⟩, by rwa [hubs]⟩

theorem State.once_modHub (s : State) (k : Nat) (f : Hub → Hub) (h : i = k ∨ s.hubs.Once i) : (s.modHub k f).hubs.Once i :=
  Tab.once_set (fun _ => ({} : Hub)) s.hubs k i (f (s.hub k)) h

theorem State.modHub_haltOnly (s : State) (k : Nat) (f : Hub → Hub) (h : s.hubs.Once i)
    (hf : ∀ x, ∃ r o b, f x = { x with rebuilds := r, overlap := o, bb := b }) : HaltOnly i s (s.modHub k f) := by
  refine ⟨?_, s.once_modHub k f (.inr h)⟩
  by_cases hi : i = k
  · obtain ⟨r, o, b, hx⟩ := hf (s.hub k)
    exact ⟨r, o, b, by rw [hi, State.hub_modHub, hx]⟩
  · exact ⟨_, _, _, State.hub_modHub_ne _ _ _ _ hi⟩

theorem State.bbox_haltOnly (s : State) (t typ : Nat) (part : Option Nat) (ctx : Nat) (payload : List (Nat × Nat × Nat)) (h : s.hubs.Once i) :
    HaltOnly i s (s.bbox t typ part ctx payload) := State.modHub_haltOnly _ _ _ h fun _ => ⟨_, _, _, rfl⟩

theorem State.stopEngines_haltOnly (s : State) (c : Nat) (h : s.hubs.Once i) : HaltOnly i s (s.stopEngines c) := by
  unfold State.stopEngines
  extract_lets t s1 chans copies s2 s3 mark s4 s5
  have before : Keeps [.me, .ve, .fe] s s2 := by
    simp (disch := decide) only [s2, s1, Keeps.foldl_within fun _ _ => Keeps.modFchan .., Keeps.modVec_iff, Keeps.modMat_iff, Keeps.self_iff]
  have overlap : HaltOnly i s s3 := (before.haltOnly rfl h).trans (State.modHub_haltOnly s2 t _ (before.haltOnly rfl h).once fun _ => ⟨_, _, _, rfl⟩)
  have marked : HaltOnly i s s4 := overlap.trans (((Keeps.putChans ..).append (Keeps.putXacts ..)).haltOnly rfl overlap.once)
  have rebuilds : HaltOnly i s4 s5 := by
    have filtered := Tab.get_mapAll (fun _ => ({} : Hub)) (fun _ h => { h with
      rebuilds := h.rebuilds.filter (fun r : Rebuild => !r.groups.any (fun g : RebuildGroup => g.dst.any (fun d : DrainKey => d.ctx == c))) }) s4.hubs i
      rfl marked.once
    exact ⟨⟨_, _, _, filtered⟩, Tab.once_mapAll _ _ _ _ marked.once⟩
  have all := marked.trans rebuilds
  exact all.trans (((Keeps.modCtx ..).append (Keeps.copiesStopped ..)).haltOnly rfl all.once)

theorem State.haltOne_haltOnly (s : State) (c reason fld step : Nat) (h : s.hubs.Once i) : HaltOnly i s (s.haltOne c reason fld step) := by
  unfold State.haltOne
  extract_lets x addr s1 status s2 s3
  have stopped := s.stopEngines_haltOnly c h
  have answered : Keeps [.parts, .pages, .ports, .act, .out] s1 s2 := by
    simp only [s2]
    split
    · exact Keeps.complete ..
    · exact .refl ..
  have recorded : HaltOnly i s s2 := stopped.trans (((Keeps.modCtx ..).append answered).haltOnly rfl stopped.once)
  have told : HaltOnly i s s3 := recorded.trans (s2.bbox_haltOnly _ _ _ _ _ recorded.once)
  split
  · exact told.trans ((Keeps.trace ..).haltOnly rfl told.once)
  · exact .refl h

theorem State.haltMany_haltOnly (n : Nat) (hs : List (Nat × Nat × Nat × Nat)) (s : State) (h : s.hubs.Once i) :
    HaltOnly i s (State.haltMany n hs s) := by
  induction n generalizing hs s with
  | zero => exact .refl h
  | succ n ih =>
    cases hs with
    | nil => exact .refl h
    | cons e hs =>
      obtain ⟨c, reason, fld, step⟩ := e
      rw [State.haltMany]
      split
      · have met := (Keeps.failMeets s c).haltOnly rfl h
        have halted := met.trans (State.haltOne_haltOnly _ c reason fld step met.once)
        exact halted.trans (ih _ _ halted.once)
      · exact ih _ _ h

theorem State.halt_haltOnly (s : State) (c reason fld step : Nat) (h : s.hubs.Once i) : HaltOnly i s (s.halt c reason fld step) :=
  State.haltMany_haltOnly _ _ _ h

theorem State.ferryFault_haltOnly (s : State) (t ch fault fld : Nat) (at_ : Nat × Nat × Nat × Nat) (h : s.hubs.Once i) :
    HaltOnly i s (s.ferryFault t ch fault fld at_) := by
  unfold State.ferryFault
  extract_lets k f c copy step tag s1 s2 word s3 s4 s5
  have faulted : HaltOnly i s s1 := (Keeps.modFchan ..).haltOnly rfl h
  have overlap := faulted.trans (State.modHub_haltOnly s1 t (fun h => { h with overlap := if h.overlap = some ch then none else h.overlap })
    faulted.once fun _ => ⟨_, _, _, rfl⟩)
  have dropped : HaltOnly i s s2 := overlap.trans ((Keeps.putXacts ..).haltOnly rfl overlap.once)
  have recorded : HaltOnly i s s3 := dropped.trans (s2.bbox_haltOnly _ _ _ _ _ dropped.once)
  have posted : Keeps [.parts, .pages, .ports, .act, .out] s3 s4 := by
    simp only [s4]
    split
    · exact (Keeps.event ..).mono rfl
    · exact .refl ..
  have stopped : HaltOnly i s s5 := recorded.trans ((posted.append (Keeps.copiesStopped ..)).haltOnly rfl recorded.once)
  split
  · exact stopped
  · exact stopped.trans (State.halt_haltOnly _ _ _ _ _ stopped.once)

theorem State.lateFail_haltOnly (s : State) (reason srck port : Nat) (part : Option Nat) (modid addr sa : Nat) (h : s.hubs.Once i) :
    HaltOnly i s (s.lateFail reason srck port part modid addr sa) := by
  have logged : HaltOnly i s (s.lateLog reason srck port part modid addr sa) := by
    unfold State.lateLog
    extract_lets lg info words s1 s2
    have entered : HaltOnly i s s1 := (Keeps.putLogs ..).haltOnly rfl h
    have recorded : HaltOnly i s s2 := entered.trans (s1.bbox_haltOnly _ _ _ _ _ entered.once)
    split
    · exact recorded.trans ((Keeps.modHport ..).haltOnly rfl recorded.once)
    · exact recorded
  unfold State.lateFail
  extract_lets s1
  split
  · exact HaltOnly.trans logged ((Keeps.event ..).haltOnly rfl logged.once)
  · exact logged

theorem State.pump_haltOnly (n t ch : Nat) (s : State) (h : s.hubs.Once i) : HaltOnly i s (State.pump n t ch s) := by
  induction n generalizing s with
  | zero => exact .refl h
  | succ n ih =>
    simp only [State.pump]
    split
    · exact .refl h
    split
    · exact .refl h
    split
    · have sent (f : FeChan → FeChan) (k m : Nat) (x : Xact) : HaltOnly i s (((s.modFchan (16 * t + ch) f).viaMesh t k m).sendXact x k) :=
        (((Keeps.modFchan ..).append (Keeps.viaMesh ..)).append (Keeps.sendXact ..)).haltOnly rfl h
      exact (sent ..).trans (ih _ (sent ..).once)
    · exact State.ferryFault_haltOnly _ _ _ _ _ _ h

theorem State.failXact_haltOnly (s : State) (x : Xact) (h : s.hubs.Once i) : HaltOnly i s (s.failXact x) := by
  have dropped : HaltOnly i s (s.dropXact x) := (Keeps.dropXact ..).haltOnly rfl h
  simp only [State.failXact]
  split
  · have failed := dropped.trans (State.lateFail_haltOnly (s.dropXact x) 7 3 x.land (some x.part) x.dst x.addr 0 dropped.once)
    exact failed.trans (State.pump_haltOnly _ _ _ _ failed.once)
  · exact dropped.trans (State.ferryFault_haltOnly _ _ _ _ _ _ dropped.once)

theorem State.landingDown_haltOnly (s : State) (l : Nat) (h : s.hubs.Once i) : HaltOnly i s (s.landingDown l) := by
  have fails (xs : List Xact) (u : State) (hu : u.hubs.Once i) :
      HaltOnly i u (xs.foldl (fun s x => if s.xacts.contains x then s.failXact x else s) u) := by
    induction xs generalizing u with
    | nil => exact .refl hu
    | cons x xs ih =>
      rw [List.foldl_cons]
      split
      · exact (State.failXact_haltOnly u x hu).trans (ih _ (State.failXact_haltOnly u x hu).once)
      · exact ih _ hu
  have down (f : Landing → Landing) : HaltOnly i s (s.modLanding l f) := (Keeps.modLanding s l _).haltOnly rfl h
  exact (down _).trans (fails _ _ (down _).once)

end

end Sys2Proof.Machine
end

section
/-! Loss of the reference, timestamps and host time (17 R638 to R649; 19 R721 to R724). -/

namespace Sys2Proof.Machine

/-! ### Loss of the reference (17 R638, R643, R649) -/

/-- A loss counted by the hub that finds it; nothing else of the hub changes but its black box. -/
theorem State.clockLoss_hub (s : State) (t reason : Nat) :
    ∃ b, (s.clockLoss t reason).hub t = { s.hub t with losses := satNat 16 ((s.hub t).losses + 1), bb := b } := by
  have recorded := (State.bbox_boxesOnly (s.modHub t (fun h => { h with losses := satNat 16 (h.losses + 1) })) t 7 none 63 (s.lossPayload reason t)).hub t
  obtain ⟨b, hb⟩ := recorded
  rw [State.hub_modHub] at hb
  refine ⟨b, ?_⟩
  unfold State.clockLoss
  extract_lets first s1
  have same : s1.hub t = { s.hub t with losses := satNat 16 ((s.hub t).losses + 1), bb := b } := hb
  split
  · rw [(Keeps.eventAll ..).hub_eq rfl, same]
  · exact same

theorem State.loseCrystal_hub {s : State} {t : Nat} (reason : Nat) (hb : s.boot.phase = 15) (hr : (s.hub t).retired = false)
    (hs : (s.hub t).src = .crystal) (hx : (s.hub t).xlost = false) :
    ∃ b, (s.loseCrystal t reason).hub t = { s.hub t with losses := satNat 16 ((s.hub t).losses + 1), bb := b, xlost := true } := by
  obtain ⟨b, hub⟩ := s.clockLoss_hub t reason
  have lost : ¬ (s.boot.phase ≠ 15 ∨ (s.hub t).retired = true ∨ (s.hub t).src ≠ .crystal ∨ (s.hub t).xlost = true) := by simp [hb, hr, hs, hx]
  exact ⟨b, by rw [State.loseCrystal, if_neg lost, State.hub_modHub, hub]⟩

theorem State.loseCrystal_of_not {s : State} {t : Nat} (reason : Nat) (h : s.boot.phase ≠ 15 ∨ (s.hub t).src ≠ .crystal ∨ (s.hub t).xlost = true) :
    s.loseCrystal t reason = s := by
  refine if_pos ?_
  rcases h with h | h | h
  · exact .inl h
  · exact .inr (.inr (.inl h))
  · exact .inr (.inr (.inr h))

theorem does_crystalAmplitudeLost {s : State} {i : Fin 16} (hb : s.boot.phase = 15) (hr : (s.hub i).retired = false) (hs : (s.hub i).src = .crystal)
    (hx : (s.hub i).xlost = false) : Does (.crystalAmplitudeLost i) s (fun t => ((t.hub i).xlost = true ∧
      (t.hub i).losses = satNat 16 ((s.hub i).losses + 1) ∧ (t.hub i).src = .crystal ∧ SameBanks s t) ∧ (t.hub i).xamp = false) := by
  obtain ⟨b, hub⟩ := State.loseCrystal_hub 1 hb hr hs hx
  refine .next (next_congr (if_neg (by simp [hr]))) ?_
  rw [State.hub_modHub, hub]
  exact ⟨⟨rfl, rfl, hs, ((Keeps.loseCrystal s i 1).append (Keeps.modHub ..)).sameBanks_of⟩, rfl⟩

theorem does_edgeCountWindowEnd_lost {s : State} {i : Fin 16} {n : BitVec 11} (hb : s.boot.phase = 15) (hr : (s.hub i).retired = false)
    (hs : (s.hub i).src = .crystal) (hx : (s.hub i).xlost = false) (hn : n.toNat < 963 ∨ 1085 < n.toNat) :
    Does (.edgeCountWindowEnd i n) s (fun t => (t.hub i).xlost = true ∧ (t.hub i).losses = satNat 16 ((s.hub i).losses + 1) ∧
      (t.hub i).src = .crystal ∧ SameBanks s t) := by
  have counted := Keeps.modHub s i (fun h => { h with monLast := n.toNat, monMin := min h.monMin n.toNat, monMax := max h.monMax n.toNat })
  have hub := State.hub_modHub s i (fun h => { h with monLast := n.toNat, monMin := min h.monMin n.toNat, monMax := max h.monMax n.toNat })
  have run : exec (.edgeCountWindowEnd i n) s = .next
      ((s.modHub i (fun h => { h with monLast := n.toNat, monMin := min h.monMin n.toNat, monMax := max h.monMax n.toNat })).loseCrystal i 2) :=
    next_congr ((if_neg (by simp [hr])).trans (if_pos hn))
  generalize s.modHub i (fun h => { h with monLast := n.toNat, monMin := min h.monMin n.toNat, monMax := max h.monMax n.toNat }) = u at *
  have phase : u.boot.phase = 15 := (congrArg Boot.phase (counted.same .boot (by decide))).trans hb
  obtain ⟨b, lost⟩ := State.loseCrystal_hub (s := u) (t := i) 2 phase (by rw [hub, hr]) (by rw [hub, hs]) (by rw [hub, hx])
  refine .next run ?_
  rw [lost, hub]
  exact ⟨rfl, rfl, hs, (counted.append (Keeps.loseCrystal ..)).sameBanks_of⟩

theorem does_forwardedReferenceLost {s : State} {i : Fin 16} (hr : (s.hub i).retired = false) (hf : (s.hub i).fwdLost = false)
    (ho : (s.hub i).src ≠ .own) (hc : (s.hub i).src ≠ .crystal ∨ (s.hub i).xlost = true) :
    Does (.forwardedReferenceLost i) s (fun t => (t.hub i).fwdLost = true ∧ (t.hub i).island = true ∧ (t.hub i).standby = false ∧
      (t.hub i).losses = satNat 16 ((s.hub i).losses + 1) ∧ SameBanks s t) := by
  obtain ⟨b, hub⟩ := s.clockLoss_hub i 3
  refine .next (next_congr (if_pos ⟨hr, hf, ho, hc⟩)) ?_
  rw [State.hub_modHub, hub]
  exact ⟨rfl, rfl, rfl, rfl, ((Keeps.clockLoss s i 3).append (Keeps.modHub ..)).sameBanks_of⟩

/-! ### The switch to the standby PLL (17 R644, R646, R649) -/

theorem State.landingDown_up (s : State) (l : Nat) : ((s.landingDown l).landing l).up = false := (landingDownFailsItsTransactions s l).1

/-- The reference that a hub's domains restart on. -/
def State.nextSrc (s : State) (i : Nat) : ClockSrc := if (s.hub i).fwdLost then .own else if s.hostRef then .host else .internal

/-- The domains of a hub restarted on its standby PLL. -/
def State.restarted (s : State) (i : Nat) : State := s.modHub i (fun h => { h with
  src := s.nextSrc i, lock := true, switched := true, standby := false, xlost := false, fwdLost := false })

theorem State.restarted_hub (s : State) (i : Nat) : (s.restarted i).hub i =
    { s.hub i with src := s.nextSrc i, lock := true, switched := true, standby := false, xlost := false, fwdLost := false } := State.hub_modHub ..

theorem exec_domainSwitch {s : State} {i : Fin 16} (hs : (s.hub i).standby = true)
    (hq : ∀ k, k < 96 → (s.chan (96 * i.val + k)).mode ≠ .nearBank ∨ (s.chan (96 * i.val + k)).yield = true) :
    exec (.domainSwitch i) s = .next (if s.nextSrc i = .host ∨ (s.landing i).up = false then s.restarted i else (s.restarted i).landingDown i) := by
  refine next_congr (if_pos ⟨hs, List.all_eq_true.2 fun k hk => ?_⟩)
  simpa using hq k (List.mem_range.1 hk)

theorem does_domainSwitch {s : State} {i : Fin 16} (hs : (s.hub i).standby = true)
    (hq : ∀ k, k < 96 → (s.chan (96 * i.val + k)).mode ≠ .nearBank ∨ (s.chan (96 * i.val + k)).yield = true) :
    Does (.domainSwitch i) s (fun t => (t.hub i).src = (if (s.hub i).fwdLost then .own else if s.hostRef then .host else .internal) ∧
      (t.hub i).switched = true ∧ (t.hub i).lock = true ∧ (t.hub i).standby = false ∧ (t.hub i).xlost = false ∧
      ((t.hub i).src ≠ .host → (s.landing i).up = true → (t.landing i).up = false) ∧
      ((t.hub i).src = .host → Keeps [.hubs] s t)) := by
  have run := exec_domainSwitch hs hq
  have kept : Keeps [.hubs] s (s.restarted i) := .modHub ..
  have hub := s.restarted_hub i
  have once : (s.restarted i).hubs.Once i := s.once_modHub i _ (.inl rfl)
  generalize s.restarted i = u at *
  by_cases h : s.nextSrc i = .host ∨ (s.landing i).up = false
  · rw [if_pos h] at run
    refine .next run ?_
    rw [hub]
    refine ⟨rfl, rfl, rfl, rfl, rfl, fun away up => ?_, fun _ => kept⟩
    rcases h with h | h
    · exact absurd h away
    · rw [h] at up
      cases up
  · rw [if_neg h] at run
    obtain ⟨away, -⟩ := not_or.1 h
    obtain ⟨r, o, b, down⟩ := (u.landingDown_haltOnly i once).hub
    refine .next run ?_
    rw [down, hub]
    exact ⟨rfl, rfl, rfl, rfl, rfl, fun _ _ => u.landingDown_up i, fun host => absurd host away⟩

/-! ### Host time (19 R722 to R724) -/

theorem clampInt_bounds {lo hi : Int} (x : Int) (h : lo ≤ hi) : lo ≤ clampInt lo hi x ∧ clampInt lo hi x ≤ hi := by
  unfold clampInt
  split
  · exact ⟨Int.le_refl _, h⟩
  · split <;> omega

theorem does_ptmExchange_trim {s : State} {h : BitVec 64} {p : Nat} (hb : s.boot.phase = 15) (hp : s.ptmPort = some p) (hv : s.tmap.valid = true)
    (he : ((h.toNat : Int) - s.tmap.host s.stamp).natAbs ≤ 1000 * s.cfg rTMCFG 8 16) :
    Does (.ptmExchange (some h)) s (fun t => t.tmap.h0 = (s.tmap.host s.stamp).toNat ∧ t.tmap.d0 = s.stamp ∧
      t.tmap.epoch = s.tmap.epoch ∧ t.tmap.valid = true ∧ t.tmap.stale = false ∧ t.tmap.port = p ∧
      -1000000 ≤ t.tmap.rate ∧ t.tmap.rate ≤ 1000000 ∧ Keeps [.tmap] s t) := by
  have run : ∃ r, exec (.ptmExchange (some h)) s = .next (s.putTmap { s.tmap with
      h0 := (s.tmap.host s.stamp).toNat, d0 := s.stamp, rate := clampInt (-1000000) 1000000 r, stale := false, port := p, fails := 0 }) := by
    show ∃ r, execPtmExchange (some h) s = _
    simp only [execPtmExchange, hb, hp, hv, he, ne_eq, not_true_eq_false, if_false, and_self, if_true]
    exact ⟨_, rfl⟩
  obtain ⟨r, run⟩ := run
  obtain ⟨low, high⟩ := clampInt_bounds (lo := -1000000) (hi := 1000000) r (by decide)
  exact .next run ⟨rfl, rfl, rfl, hv, rfl, rfl, low, high, .putTmap ..⟩

theorem does_ptmExchange_jump {s : State} {h : BitVec 64} {p : Nat} (hb : s.boot.phase = 15) (hp : s.ptmPort = some p)
    (he : s.tmap.valid = false ∨ 1000 * s.cfg rTMCFG 8 16 < ((h.toNat : Int) - s.tmap.host s.stamp).natAbs) :
    Does (.ptmExchange (some h)) s (fun t => t.tmap.h0 = h.toNat ∧ t.tmap.d0 = s.stamp ∧ t.tmap.epoch = (s.tmap.epoch + 1) % 2 ^ 24 ∧
      t.tmap.valid = true ∧ t.tmap.rate = s.tmap.rate ∧ SameBanks s t) := by
  have jump : ¬ (s.tmap.valid = true ∧ ((h.toNat : Int) - s.tmap.host s.stamp).natAbs ≤ 1000 * s.cfg rTMCFG 8 16) := by
    rintro ⟨hv, hw⟩
    rcases he with he | he
    · rw [hv] at he
      cases he
    · omega
  have told (u : State) (pl) (lead : Nat) (pm) : Keeps [.parts, .pages, .ports, .act, .out, .hubs] u ((u.eventAll 8 pl).bbox lead 0x0E none 63 pm) :=
    (Keeps.eventAll ..).append (Keeps.bbox ..)
  have run : ∃ pl lead pm, exec (.ptmExchange (some h)) s = .next (((s.putTmap { s.tmap with
      epoch := (s.tmap.epoch + 1) % 2 ^ 24, d0 := s.stamp, h0 := h.toNat, stale := false, port := p, valid := true, fails := 0 }).eventAll 8 pl).bbox
        lead 0x0E none 63 pm) := by
    show ∃ pl lead pm, execPtmExchange (some h) s = _
    simp only [execPtmExchange, hb, hp, jump, ne_eq, not_true_eq_false, if_false]
    exact ⟨_, _, _, rfl⟩
  obtain ⟨pl, lead, pm, run⟩ := run
  refine .next run ?_
  rw [(told _ _ _ _).same .tmap (by decide)]
  exact ⟨rfl, rfl, rfl, rfl, rfl, ((Keeps.putTmap ..).append (told ..)).sameBanks_of⟩

theorem does_ptmExchange_fail {s : State} {h : Option (BitVec 64)} (hb : s.boot.phase = 15) (hn : h = none ∨ s.ptmPort = none) :
    Does (.ptmExchange h) s (fun t => t.tmap.fails = s.tmap.fails + 1 ∧ (10 ≤ t.tmap.fails → t.tmap.stale = true) ∧
      t.tmap.epoch = s.tmap.epoch ∧ Keeps [.tmap] s t) := by
  have run : exec (.ptmExchange h) s = .next (s.putTmap { s.tmap with fails := s.tmap.fails + 1, stale := s.tmap.stale || decide (10 ≤ s.tmap.fails + 1) }) := by
    show execPtmExchange h s = _
    rcases hn with hn | hn
    · simp only [execPtmExchange, hb, hn, ne_eq, not_true_eq_false, if_false]
    · cases h <;> simp only [execPtmExchange, hb, hn, ne_eq, not_true_eq_false, if_false]
  refine .next run ⟨rfl, fun late => ?_, rfl, .putTmap ..⟩
  have late : 10 ≤ s.tmap.fails + 1 := late
  simp [late]

/-- Settles O40: the hub a loss or a switch is about, kept but for its black box by what is logged and by the landing that goes down, and the
time map of each exchange. -/
theorem clockAndTimeComplete : Obligations.ClockAndTimeComplete := by
  refine ⟨fun s i n P hb hr hs hx hP => ?_, fun s i hr hn => ?_, fun s i n hr hl hh => ?_, fun s i hl => ?_, fun s i => does_domainSwitch,
    fun s i => does_forwardedReferenceLost, fun s i diff hi hlead => ?_, fun s hon => ?_, fun s h p => does_ptmExchange_trim,
    fun s h p => does_ptmExchange_jump, fun s h => does_ptmExchange_fail⟩
  · subst hP
    exact ⟨does_crystalAmplitudeLost hb hr hs hx, does_edgeCountWindowEnd_lost hb hr hs hx⟩
  · refine .next (next_congr ((if_neg (by simp [hr])).trans (congrArg (State.modHub · i _) (State.loseCrystal_of_not 1 hn)))) ⟨State.hub_modHub .., .modHub ..⟩
  · refine .next (next_congr ((if_neg (by simp [hr])).trans (if_neg (by omega)))) ?_
    rw [State.hub_modHub]
    exact ⟨rfl, rfl, rfl, rfl, .modHub ..⟩
  · exact .next (next_congr (if_pos hl)) ⟨State.hub_modHub .., .modHub ..⟩
  · by_cases h : (s.hub i).stampAdj ≤ (diff.val : Int) - 2
    · refine .next (next_congr (if_pos ⟨hi, hlead, h⟩)) ?_
      rw [State.hub_modHub]
      exact ⟨(max_eq_right h).symm, .modHub ..⟩
    · refine .next (next_congr (if_neg fun g => h g.2.2)) ⟨(max_eq_left (by omega)).symm, .refl ..⟩
  · exact .next (next_congr (if_pos hon)) ⟨rfl, .putBoot ..⟩

end Sys2Proof.Machine
end

section
/-! Management-core images (18 R702 to R707, R709). -/

namespace Sys2Proof.Machine

/-! ### Records of a hand-over -/

theorem State.fwRecord_mcore (s : State) (t ver k : Nat) : ((s.fwRecord t ver).hub k).mcore = (s.hub k).mcore := by
  obtain ⟨b, h⟩ := (s.bbox_boxesOnly t 0x0B none 63 [(24, 1, s.fw.st), (25, 1, s.fw.result), (26, 2, ver)]).hub k
  rw [State.fwRecord, h]

theorem State.modHub_mcore (s : State) (t k : Nat) (f : Hub → Hub) (hf : ∀ h, (f h).mcore = h.mcore) : ((s.modHub t f).hub k).mcore = (s.hub k).mcore := by
  by_cases h : k = t
  · rw [h, State.hub_modHub, hf]
  · rw [State.hub_modHub_ne _ _ _ _ h]

/-! ### VERIFY (18 R702, R703) -/

theorem exec_verify {s : State} {i im : Image} (hst : s.fw.st = 0) (hb : s.boot.phase = 15)
    (hsrc : s.fw.sideband ≠ none ∨ ((s.slot (s.cfg rFWSRC 0 48 / slotBytes)).owner = none ∧ s.cfg rFWSRC 0 48 / slotBytes < s.slotCount))
    (him : im = s.fw.sideband.getD i) : exec (.verify i) s = .next (
      if s.imageFault im = 0 then s.putFw { s.fw with
        banks := Tab.set (fun _ => {}) s.fw.banks (1 - s.fw.bank) im, staged := true, stgver := im.version, stgsvn := im.svn, sideband := none, result := 0 }
      else s.putFw { s.fw with result := s.imageFault im, sideband := none }) := by
  have reads : ¬ (s.fw.sideband = none ∧ ((s.slot (s.cfg rFWSRC 0 48 / slotBytes)).owner ≠ none ∨ s.slotCount ≤ s.cfg rFWSRC 0 48 / slotBytes)) := by
    rintro ⟨none_, h⟩
    rcases hsrc with hsrc | ⟨owner, lt⟩
    · exact hsrc none_
    · rcases h with h | h
      · exact h owner
      · omega
  rw [him]
  exact next_congr ((if_neg (by simp [hst, hb])).trans (if_neg reads))

theorem Firmware.bank_ne (f : Firmware) : f.bank ≠ 1 - f.bank := by
  unfold Firmware.bank
  split <;> omega

/-! ### The steps of a hand-over (18 R704, R705) -/

section
variable {s : State}

theorem State.fwStep_begin {t0 : Nat} (hst : s.fw.st = 0) (h0 : s.handOrder.head? = some t0) :
    s.fwStep = (s.putFw { s.fw with st := 2, tile := t0, result := 0 }).fwRecord t0 s.nextVersion := by
  obtain ⟨rest, hl⟩ := List.head?_eq_some_iff.1 h0
  simp only [State.fwStep, hl, hst, if_true]

/-- Tile `t` with the new image, its black box committed. -/
def State.fwMoved (s : State) (t : Nat) (f : Firmware) : State :=
  ((s.modHub t (fun h => { h with mcore := s.nextVersion })).putFw f).modHub t (fun h => { h with bb := h.bb.startCommit })

theorem State.fwMoved_mcore (s : State) (t : Nat) (f : Firmware) : ((s.fwMoved t f).hub t).mcore = s.nextVersion := by
  rw [State.fwMoved, State.modHub_mcore, (Keeps.putFw ..).hub_eq rfl, State.hub_modHub]
  exact fun _ => rfl

theorem State.fwMoved_keeps (s : State) (t : Nat) (f : Firmware) : Keeps [.hubs, .fw] s (s.fwMoved t f) :=
  (((Keeps.modHub ..).append (Keeps.putFw ..)).append (Keeps.modHub ..)).mono rfl

theorem State.handOrder_ne_nil (s : State) : s.handOrder ≠ [] := by simp [State.handOrder]

theorem State.fwStep_next (hst : s.fw.st = 2) {u : Nat} {more : List Nat} (hr : (s.handOrder.dropWhile (· != s.fw.tile)).drop 1 = u :: more) :
    s.fwStep = (s.fwMoved s.fw.tile { s.fw with tile := u }).fwRecord u s.nextVersion := by
  obtain ⟨t0, rest, hl⟩ := List.exists_cons_of_ne_nil s.handOrder_ne_nil
  rw [hl] at hr
  have begun : ¬ s.fw.st = 0 := by omega
  have going : ¬ s.fw.st ≠ 2 := by omega
  simp only [State.fwStep, hl, begun, going, hr, if_false]
  rfl

theorem State.fwStep_last (hst : s.fw.st = 2) (hr : (s.handOrder.dropWhile (· != s.fw.tile)).drop 1 = []) :
    s.fwStep = s.handOrder.foldl State.releaseLoads ((s.fwMoved s.fw.tile { s.fw with st := 3 }).fwRecord s.fw.tile s.nextVersion) := by
  obtain ⟨t0, rest, hl⟩ := List.exists_cons_of_ne_nil s.handOrder_ne_nil
  rw [hl] at hr
  have begun : ¬ s.fw.st = 0 := by omega
  have going : ¬ s.fw.st ≠ 2 := by omega
  simp only [State.fwStep, hl, begun, going, hr, if_false]
  rfl

theorem exec_handover (hb : s.boot.phase = 15) (h : s.fw.st = 2 ∨ s.fw.staged = true) : exec .handover s = .next s.fwStep :=
  next_congr (if_pos ⟨hb, h⟩)

theorem exec_revert (hb : s.boot.phase = 15) (h : s.fw.banks.any (fun e => e.1 == 1 - s.fw.bank) = true) : exec .revert s = .next s.fwStep :=
  next_congr (if_pos ⟨hb, h⟩)

end

/-! ### Every tile handed back (18 R705) -/

theorem State.handedBack (ts : List Nat) (s : State) :
    let u := ts.foldl (fun s t => ((s.modHub t (fun h => { h with mcore := s.fw.runver })).fwRecord t s.fw.runver).releaseLoads t) s
    Keeps [.hubs, .parts, .pages, .ports, .trans, .act, .out] s u ∧
    ∀ x, (x ∈ ts ∨ (s.hub x).mcore = s.fw.runver) → (u.hub x).mcore = s.fw.runver := by
  induction ts generalizing s with
  | nil => exact ⟨.refl .., fun x h => h.resolve_left List.not_mem_nil⟩
  | cons t ts ih =>
    have first := ((Keeps.modHub s t (fun h => { h with mcore := s.fw.runver })).append (Keeps.fwRecord _ t s.fw.runver)).append (Keeps.releaseLoads _ t)
    have mcore (x : Nat) (h : x = t ∨ (s.hub x).mcore = s.fw.runver) :
        ((((s.modHub t (fun h => { h with mcore := s.fw.runver })).fwRecord t s.fw.runver).releaseLoads t).hub x).mcore = s.fw.runver := by
      rw [(Keeps.releaseLoads ..).hub_eq rfl, State.fwRecord_mcore]
      by_cases hx : x = t
      · rw [hx, State.hub_modHub]
      · rw [State.hub_modHub_ne _ _ _ _ hx]
        exact h.resolve_left hx
    rw [List.foldl_cons]
    generalize ((s.modHub t (fun h => { h with mcore := s.fw.runver })).fwRecord t s.fw.runver).releaseLoads t = v at first mcore ⊢
    have fw : v.fw = s.fw := first.same .fw (by decide)
    obtain ⟨kept, back⟩ := ih v
    rw [fw] at back
    refine ⟨(first.mono rfl).trans kept, fun x h => back x ?_⟩
    rcases h with h | h
    · exact (List.mem_cons.1 h).symm.imp_right fun h => mcore x (.inl h)
    · exact .inr (mcore x (.inr h))

theorem State.fwRevert_spec (s : State) : s.fwRevert.fw.st = 0 ∧ s.fwRevert.fw.result = 4 ∧ s.fwRevert.fw.active = s.fw.active ∧
    s.fwRevert.fw.svn = s.fw.svn ∧ (∀ x ∈ s.handOrder, (s.fwRevert.hub x).mcore = s.fw.runver) ∧ SameRegs s s.fwRevert ∧ SameBanks s s.fwRevert := by
  obtain ⟨kept, back⟩ := State.handedBack s.handOrder (s.putFw { s.fw with st := 0, result := 4, tile := 0 })
  have same : s.fwRevert = s.handOrder.foldl (fun s t => ((s.modHub t (fun h => { h with mcore := s.fw.runver })).fwRecord t s.fw.runver).releaseLoads t)
      (s.putFw { s.fw with st := 0, result := 4, tile := 0 }) := rfl
  rw [← same] at kept back
  have fw : s.fwRevert.fw = { s.fw with st := 0, result := 4, tile := 0 } := kept.same .fw (by decide)
  have all := Keeps.fwRevert s
  exact ⟨by rw [fw], by rw [fw], by rw [fw], by rw [fw], fun x h => back x (.inl h), fun p off _ _ => all.reg_eq rfl rfl p off, all.sameBanks_of⟩

/-! ### The commands -/

section
variable {s : State}

/-- What ends a step of a hand-over at the first tile, at the next, and after the last. -/
theorem State.fwStep_begin_spec {t0 : Nat} (hst : s.fw.st = 0) (h0 : s.handOrder.head? = some t0) : s.fwStep.fw.st = 2 ∧ s.fwStep.fw.tile = t0 ∧
    s.fwStep.fw.result = 0 ∧ s.fwStep.fw.banks = s.fw.banks ∧ Keeps [.fw, .hubs] s s.fwStep := by
  have fw : s.fwStep.fw = { s.fw with st := 2, tile := t0, result := 0 } := by
    rw [State.fwStep_begin hst h0]
    exact (Keeps.fwRecord ..).same .fw (by decide)
  refine ⟨by rw [fw], by rw [fw], by rw [fw], by rw [fw], ?_⟩
  rw [State.fwStep_begin hst h0]
  exact (Keeps.putFw ..).append (Keeps.fwRecord ..)

theorem State.fwStep_next_spec (hst : s.fw.st = 2) {u : Nat} {more : List Nat} (hr : (s.handOrder.dropWhile (· != s.fw.tile)).drop 1 = u :: more) :
    s.fwStep.fw.st = 2 ∧ s.fwStep.fw.tile = u ∧ (s.fwStep.hub s.fw.tile).mcore = s.nextVersion ∧ s.fwStep.fw.active = s.fw.active ∧
      Keeps [.fw, .hubs] s s.fwStep := by
  have fw : s.fwStep.fw = { s.fw with tile := u } := by
    rw [State.fwStep_next hst hr]
    exact (Keeps.fwRecord ..).same .fw (by decide)
  refine ⟨by rw [fw, hst], by rw [fw], ?_, by rw [fw], ?_⟩ <;> rw [State.fwStep_next hst hr]
  · rw [State.fwRecord_mcore, State.fwMoved_mcore]
  · exact ((State.fwMoved_keeps ..).append (Keeps.fwRecord ..)).mono rfl

theorem State.fwStep_last_spec (hst : s.fw.st = 2) (hr : (s.handOrder.dropWhile (· != s.fw.tile)).drop 1 = []) :
    ∃ u : State, u.fw.st = 3 ∧ (u.hub s.fw.tile).mcore = s.nextVersion ∧ u.fw.active = s.fw.active ∧
      Keeps [.fw, .hubs] s u ∧ s.fwStep = s.handOrder.foldl State.releaseLoads u := by
  have fw : ((s.fwMoved s.fw.tile { s.fw with st := 3 }).fwRecord s.fw.tile s.nextVersion).fw = { s.fw with st := 3 } :=
    (Keeps.fwRecord ..).same .fw (by decide)
  exact ⟨_, by rw [fw], by rw [State.fwRecord_mcore, State.fwMoved_mcore], by rw [fw],
    ((State.fwMoved_keeps ..).append (Keeps.fwRecord ..)).mono rfl, State.fwStep_last hst hr⟩

end

/-- Settles O37: a hand-over's steps move one tile each, and handing back sets every tile of the order. -/
theorem firmwareCommandsComplete : Obligations.FirmwareCommandsComplete := by
  refine ⟨fun s i h => ?_, fun s i im hst hb hsrc him hf => ?_, fun s i im hst hb hsrc him hf => ?_, fun s t0 P hb hst h0 hP => ?_,
    fun s u more P hb hst hr hP => ?_, fun s P hb hst hr hP => ?_, fun s P hst hP => ?_, fun s im hst him => ?_⟩
  · exact .next (next_congr (if_pos h)) ⟨rfl, rfl, rfl, .putFw ..⟩
  · refine .next ((exec_verify hst hb hsrc him).trans (next_congr (if_pos hf))) ⟨Tab.get_set_same .., Tab.get_set_ne _ _ _ _ _ s.fw.bank_ne, rfl, rfl, rfl, rfl,
      rfl, rfl, rfl, .putFw ..⟩
  · exact .next ((exec_verify hst hb hsrc him).trans (next_congr (if_neg hf))) ⟨rfl, rfl, rfl, rfl, rfl, .putFw ..⟩
  · subst hP
    exact ⟨fun h => .next (exec_handover hb (.inr h)) (State.fwStep_begin_spec hst h0), fun h => .next (exec_revert hb h) (State.fwStep_begin_spec hst h0)⟩
  · subst hP
    exact ⟨.next (exec_handover hb (.inl hst)) (State.fwStep_next_spec hst hr), fun h => .next (exec_revert hb h) (State.fwStep_next_spec hst hr)⟩
  · subst hP
    exact ⟨.next (exec_handover hb (.inl hst)) (State.fwStep_last_spec hst hr), fun h => .next (exec_revert hb h) (State.fwStep_last_spec hst hr)⟩
  · subst hP
    exact ⟨.next (next_congr ((if_neg (by simp [hst])).trans (if_pos rfl))) s.fwRevert_spec,
      fun x hx => .next (next_congr (if_pos ⟨hst, hx⟩)) s.fwRevert_spec⟩
  · subst him
    refine .next (next_congr ((if_neg (by simp [hst])).trans (if_neg Bool.false_ne_true))) ?_
    rw [(Keeps.fwRecord ..).same .fw (by decide)]
    exact ⟨rfl, rfl, rfl, rfl, rfl, rfl, (Keeps.putFw ..).append (Keeps.fwRecord ..)⟩

end Sys2Proof.Machine
end

section
/-! What the side effects of operations leave of ports, partitions, pages, contexts and hubs. -/

namespace Sys2Proof.Machine

/-! ### The table of hubs -/

/-- A change of a hub that leaves all but its black box, its overlap, its rebuilds and its queue of wakes. -/
def Hub.Minor (f : Hub → Hub) : Prop := ∀ h, ∃ b o r w, f h = { h with bb := b, overlap := o, rebuilds := r, wakeQ := w }

/-- The table of hubs after changes of that kind, one after another. -/
inductive HubSteps : Tab Hub → Tab Hub → Prop
  /-- none -/
  | refl (t : Tab Hub) : HubSteps t t
  /-- one hub's -/
  | upd {t u : Tab Hub} (k : Nat) (f : Hub → Hub) (hf : Hub.Minor f) (h : HubSteps t u) : HubSteps t (Tab.upd (fun _ => {}) u k f)
  /-- every hub's rebuilds -/
  | rebuilds {t u : Tab Hub} (p : Rebuild → Bool) (h : HubSteps t u) :
    HubSteps t (Tab.mapAll (fun _ => {}) (fun _ h => { h with rebuilds := h.rebuilds.filter p }) u)

theorem HubSteps.trans {t u v : Tab Hub} (h : HubSteps t u) (g : HubSteps u v) : HubSteps t v := by
  induction g with
  | refl => exact h
  | upd k f hf _ ih => exact ih.upd k f hf
  | rebuilds p _ ih => exact ih.rebuilds p

theorem HubSteps.modHub (s : State) (k : Nat) (f : Hub → Hub) (hf : Hub.Minor f) : HubSteps s.hubs (s.modHub k f).hubs := (HubSteps.refl _).upd k f hf

theorem Keeps.hubSteps {L : List Field} {s t : State} (h : Keeps L s t) (hL : L.contains .hubs = false) : HubSteps s.hubs t.hubs := by
  rw [h.same .hubs (by simpa using hL)]
  exact .refl _

/-- A hub listed once keeps all else. -/
theorem HubSteps.get {t u : Tab Hub} {k : Nat} (h : HubSteps t u) (ht : t.Once k) : u.Once k ∧
    ∃ b o r w, Tab.get (fun _ => {}) u k = { Tab.get (fun _ => ({} : Hub)) t k with bb := b, overlap := o, rebuilds := r, wakeQ := w } := by
  induction h with
  | refl => exact ⟨ht, _, _, _, _, rfl⟩
  | @upd u j f hf _ ih =>
    obtain ⟨once, b, o, r, w, same⟩ := ih
    refine ⟨Tab.once_set _ _ _ _ _ (.inr once), ?_⟩
    by_cases hk : k = j
    · subst hk
      obtain ⟨b, o, r, w, hx⟩ := hf (Tab.get (fun _ => {}) u k)
      exact ⟨b, o, r, w, by rw [Tab.get_upd_same, hx, same]⟩
    · exact ⟨b, o, r, w, by rw [Tab.get_upd_ne _ _ _ _ _ hk, same]⟩
  | @rebuilds u p _ ih =>
    obtain ⟨once, b, o, r, w, same⟩ := ih
    have filtered := Tab.get_mapAll (fun _ => ({} : Hub)) (fun _ h => { h with rebuilds := h.rebuilds.filter p }) u k rfl once
    exact ⟨Tab.once_mapAll _ _ _ _ once, b, o, _, w, by rw [filtered, same]⟩

/-! ### Relations that side effects stay in -/

/-- A change of a port that leaves all but its trace and its counts of failures. -/
def Port.Minor (f : Port → Port) : Prop := ∀ h, ∃ tr n m, f h = { h with trace := tr, fails := n, partFails := m }

/-- A change of a partition that leaves all but its mark of a failed write and its held completions. -/
def Part.Minor (f : Part → Part) : Prop := ∀ q, ∃ w l, f q = { q with wfail := w, held := l }

/-- A change of a page that leaves all but its event ring, the tail of its completion ring and its list of descriptors. -/
def Page.Minor (f : Page → Page) : Prop := ∀ g, ∃ e n l m c d, f g =
  { g with eqtail := e, evseq := n, lostNow := l, evlost := m, cqtail := c, fetched := d }

/-- A change of a context that stops its work or halts it. -/
def Ctx.Minor (f : Ctx → Ctx) : Prop := ∀ x, ∃ st q r g o a n fl hs ha sr w1 w2 w3, (st = x.st ∨ st = .halted) ∧ f x =
  { x with st := st, nbq := q, nbrun := r, gq := g, outst := o, access := a, reason := n, hfield := fl, hstep := hs, haddr := ha, start := sr
           waitCm := w1, waitQ := w2, waitMb := w3 }

/-- A relation of states that the side effects of an operation stay in: traces, events, completions, records, halts, and the requests that
they let go on. -/
structure SideRel (R : State → State → Prop) : Prop where
  /-- nothing done -/
  refl : ∀ s, R s s
  /-- one after another -/
  trans : ∀ {s t u}, R s t → R t u → R s u
  /-- ports, partitions, pages and contexts kept, hubs kept but for the records and the like -/
  side : ∀ {L : List Field} {s t}, Keeps L s t → ([.ports, .parts, .pages, .ctxs] : List Field).all (fun f => !L.contains f) = true →
    HubSteps s.hubs t.hubs → R s t
  /-- a port's records -/
  port : ∀ (s : State) k f, Port.Minor f → R s (s.modHport k f)
  /-- the read buffer of a requester that is no port -/
  fill : ∀ (s : State) p sa d, 4 ≤ p → R s (s.fillBuffer p sa d)
  /-- a partition's marks -/
  part : ∀ (s : State) k f, Part.Minor f → R s (s.modPart k f)
  /-- a page's rings -/
  page : ∀ (s : State) k f, Page.Minor f → R s (s.modPage k f)
  /-- a context stopped -/
  ctx : ∀ (s : State) k f, Ctx.Minor f → R s (s.modCtx k f)

namespace SideRel

/-- Either branch of a choice. -/
theorem ite {R : State → State → Prop} (_ : SideRel R) {p : Prop} [Decidable p] {s a b : State} (ha : R s a) (hb : R s b) :
    R s (if p then a else b) := by
  split
  · exact ha
  · exact hb

variable {R : State → State → Prop} (h : SideRel R)
include h

theorem keeps {L : List Field} {s t : State} (k : Keeps L s t)
    (hL : ([.ports, .parts, .pages, .ctxs, .hubs] : List Field).all (fun f => !L.contains f) = true) : R s t := by
  simp only [List.all_cons, List.all_nil, Bool.and_true, Bool.and_eq_true] at hL
  obtain ⟨ports, parts, pages, ctxs, hubs⟩ := hL
  exact h.side k (by simp only [List.all_cons, List.all_nil, ports, parts, pages, ctxs, Bool.and_true]) (k.hubSteps (by simpa using hubs))

theorem hub (s : State) (k : Nat) (f : Hub → Hub) (hf : Hub.Minor f) : R s (s.modHub k f) := h.side (Keeps.modHub s k f) rfl (.modHub s k f hf)

theorem foldl {α : Type} {f : State → α → State} (hf : ∀ s a, R s (f s a)) (as : List α) (s : State) : R s (as.foldl f s) := by
  induction as generalizing s with
  | nil => exact h.refl s
  | cons a as ih => exact h.trans (hf s a) (ih _)

/-! #### Traces, events and completions -/

theorem hostWrite (s : State) (w : HostWrite) : R s (s.hostWrite w) := by
  unfold State.hostWrite
  extract_lets flagged blocked pois w' out s1
  have sent : R s s1 := h.keeps ((Keeps.spend ..).append (Keeps.putOut ..)) rfl
  split
  · exact h.ite (h.trans sent (h.part _ _ _ fun _ => ⟨_, _, rfl⟩)) sent
  · exact sent

theorem traceOn (s : State) (p kind : Nat) (part : Option Nat) (ctx eng step op arg1 arg2 : Nat) : R s (s.traceOn p kind part ctx eng step op arg1 arg2) := by
  unfold State.traceOn
  extract_lets ctl sel tr size data
  exact h.ite (h.ite (h.trans (h.port _ _ _ fun _ => ⟨_, _, _, rfl⟩) (h.hostWrite ..)) (h.port _ _ _ fun _ => ⟨_, _, _, rfl⟩)) (h.refl s)

theorem trace (s : State) (kind : Nat) (part : Option Nat) (ctx eng step op arg1 arg2 : Nat) : R s (s.trace kind part ctx eng step op arg1 arg2) :=
  h.foldl (fun _ _ => h.traceOn ..) _ s

theorem writeControl (s : State) (k : Nat) : R s (s.writeControl k) := h.hostWrite ..

theorem eventOn (s : State) (k typ : Nat) (payload : List (Nat × Nat × Nat)) : R s (s.eventOn k typ payload) := by
  unfold State.eventOn
  extract_lets p i part data s1 s2
  refine h.ite ?_ (h.page _ _ _ fun _ => ⟨_, _, _, _, _, _, rfl⟩)
  exact h.trans (h.hostWrite ..) (h.trans (h.page _ _ _ fun _ => ⟨_, _, _, _, _, _, rfl⟩) (h.trans (h.trace ..) (h.writeControl ..)))

theorem event (s : State) (p typ : Nat) (payload : List (Nat × Nat × Nat)) : R s (s.event p typ payload) := by
  unfold State.event
  split
  · exact h.refl s
  · exact h.refl s
  · exact h.eventOn ..

theorem eventOwner (s : State) (slot typ : Nat) (payload : List (Nat × Nat × Nat)) : R s (s.eventOwner slot typ payload) := by
  unfold State.eventOwner
  split
  · exact h.event ..
  · exact h.refl s

theorem eventAll (s : State) (typ : Nat) (payload : List (Nat × Nat × Nat)) : R s (s.eventAll typ payload) :=
  h.foldl (fun _ _ => h.ite (h.eventOn ..) (h.refl _)) _ s

theorem noteCover (s : State) (was : Bool) : R s (s.noteCover was) := h.ite (h.eventAll ..) (h.refl s)

theorem writeCompletion (s : State) (k : Nat) (c : Completion) : R s (s.writeCompletion k c) := by
  unfold State.writeCompletion
  extract_lets p i part s1 s2
  refine h.ite ?_ ?_
  · exact h.trans (h.hostWrite ..) (h.trans (h.page _ _ _ fun _ => ⟨_, _, _, _, _, _, rfl⟩) (h.trans (h.trace ..) (h.writeControl ..)))
  · split
    · exact h.part _ _ _ fun _ => ⟨_, _, rfl⟩
    · exact h.refl s

theorem complete (s : State) (r : DescRef) (c : Completion) : R s (s.complete r c) := by
  unfold State.complete
  extract_lets c' s1
  have dropped : R s s1 := h.page _ _ _ fun _ => ⟨_, _, _, _, _, _, rfl⟩
  split
  · exact h.ite (h.trans dropped (h.part _ _ _ fun _ => ⟨_, _, rfl⟩)) (h.trans dropped (h.writeCompletion ..))
  · exact h.trans dropped (h.writeCompletion ..)

theorem copiesStopped (s : State) (rs : List DescRef) (c fault : Nat) : R s (s.copiesStopped rs c fault) := h.foldl (fun _ _ => h.complete ..) _ s

/-! #### Records and late failures -/

theorem bbox (s : State) (t typ : Nat) (part : Option Nat) (ctx : Nat) (payload : List (Nat × Nat × Nat)) : R s (s.bbox t typ part ctx payload) :=
  h.hub _ _ _ fun _ => ⟨_, _, _, _, rfl⟩

theorem lateLog (s : State) (reason srck port : Nat) (part : Option Nat) (modid addr sa : Nat) : R s (s.lateLog reason srck port part modid addr sa) := by
  unfold State.lateLog
  extract_lets lg info words s1 s2
  have recorded : R s s2 := h.trans (h.keeps (Keeps.putLogs ..) rfl) (h.bbox ..)
  exact h.ite (h.trans recorded (h.port _ _ _ fun _ => ⟨_, _, _, rfl⟩)) recorded

theorem lateFail (s : State) (reason srck port : Nat) (part : Option Nat) (modid addr sa : Nat) : R s (s.lateFail reason srck port part modid addr sa) := by
  unfold State.lateFail
  extract_lets s1
  split
  · exact h.trans (h.lateLog ..) (h.event ..)
  · exact h.lateLog ..

theorem hostDone (s : State) (w : HostWrite) (ok : Bool) : R s (s.hostDone w ok) := by
  unfold State.hostDone
  extract_lets rest marked anyWait freed out s1 s2
  have answered : R s s1 := h.keeps (Keeps.putOut ..) rfl
  have failed : R s s2 := by
    simp only [s2]
    split
    · exact h.ite (h.trans answered (h.part _ _ _ fun _ => ⟨_, _, rfl⟩)) answered
    · exact answered
  exact h.ite answered (h.ite (h.trans answered (h.lateLog ..)) (h.trans failed (h.lateFail ..)))

/-! #### Halts and faults -/

theorem stopEngines (s : State) (c : Nat) : R s (s.stopEngines c) := by
  unfold State.stopEngines
  extract_lets t s1 chans copies s2 s3 mark s4 s5
  have engines : Keeps [.me, .ve, .fe] s s2 := by
    simp (disch := decide) only [s2, s1, Keeps.foldl_within fun _ _ => Keeps.modFchan .., Keeps.modVec_iff, Keeps.modMat_iff, Keeps.self_iff]
  have overlap : R s2 s3 := h.hub _ _ _ fun _ => ⟨_, _, _, _, rfl⟩
  have dropped : R s3 s4 := h.keeps ((Keeps.putChans ..).append (Keeps.putXacts ..)) rfl
  have rebuilds : R s4 s5 := h.side ((Keeps.putCrus ..).append (Keeps.putHubs ..)) rfl ((HubSteps.refl _).rebuilds _)
  have stopped : Ctx.Minor (fun x => { x with nbq := [], nbrun := none, gq := none, outst := [], access := none }) :=
    fun x => ⟨_, _, _, _, _, _, _, _, _, _, _, _, _, _, .inl rfl, rfl⟩
  exact h.trans (h.keeps engines rfl) (h.trans overlap (h.trans dropped (h.trans rebuilds (h.trans (h.ctx _ _ _ stopped) (h.copiesStopped ..)))))

theorem haltOne (s : State) (c reason fld step : Nat) : R s (s.haltOne c reason fld step) := by
  unfold State.haltOne
  extract_lets x addr s1 status s2 s3
  have halted : R s s1 := h.trans (h.stopEngines ..) (h.ctx _ _ _ fun x => ⟨_, _, _, _, _, _, _, _, _, _, _, _, _, _, .inr rfl, rfl⟩)
  have answered : R s s2 := by
    simp only [s2]
    split
    · exact h.trans halted (h.complete ..)
    · exact halted
  exact h.ite (h.trans answered (h.trans (h.bbox ..) (h.trace ..))) (h.refl s)

theorem haltMany (n : Nat) (hs : List (Nat × Nat × Nat × Nat)) (s : State) : R s (State.haltMany n hs s) := by
  induction n generalizing hs s with
  | zero => exact h.refl s
  | succ n ih =>
    cases hs with
    | nil => exact h.refl s
    | cons e hs =>
      obtain ⟨c, reason, fld, step⟩ := e
      rw [State.haltMany]
      exact h.ite (h.trans (h.keeps (Keeps.failMeets s c) rfl) (h.trans (h.haltOne ..) (ih ..))) (ih ..)

theorem halt (s : State) (c reason fld step : Nat) : R s (s.halt c reason fld step) := h.haltMany ..

theorem ferryFault (s : State) (t ch fault fld : Nat) (at_ : Nat × Nat × Nat × Nat) : R s (s.ferryFault t ch fault fld at_) := by
  unfold State.ferryFault
  extract_lets k f c copy step tag s1 s2 word s3 s4 s5
  have dropped : R s s2 := h.trans (h.keeps (Keeps.modFchan ..) rfl) (h.trans (h.hub s1 t _ fun _ => ⟨_, _, _, _, rfl⟩) (h.keeps (Keeps.putXacts ..) rfl))
  have posted : R s3 s4 := by
    simp only [s4]
    split
    · exact h.event ..
    · exact h.refl _
  have stopped : R s s5 := h.trans dropped (h.trans (h.bbox ..) (h.trans posted (h.copiesStopped ..)))
  exact h.ite stopped (h.trans stopped (h.halt ..))

theorem pump (n t ch : Nat) (s : State) : R s (State.pump n t ch s) := by
  induction n generalizing s with
  | zero => exact h.refl s
  | succ n ih =>
    simp only [State.pump]
    split
    · exact h.refl s
    refine h.ite (h.refl s) ?_
    split
    · exact h.trans (h.keeps (((Keeps.modFchan ..).append (Keeps.viaMesh ..)).append (Keeps.sendXact ..)) rfl) (ih _)
    · exact h.ferryFault ..

theorem failXact (s : State) (x : Xact) : R s (s.failXact x) := by
  have dropped : R s (s.dropXact x) := h.keeps (Keeps.dropXact ..) rfl
  exact h.ite (h.trans dropped (h.trans (h.lateFail ..) (h.pump ..))) (h.trans dropped (h.ferryFault ..))

theorem landingDown (s : State) (l : Nat) : R s (s.landingDown l) :=
  h.trans (h.keeps (Keeps.modLanding ..) rfl) (h.foldl (fun _ _ => h.ite (h.failXact ..) (h.refl _)) _ _)

end SideRel

end Sys2Proof.Machine
end

section
/-! The requests that a side effect lets go on: decodes, reads and writes of lines, queues, snoops and moves. -/

namespace Sys2Proof.Machine

theorem HubSteps.bbox (s : State) (t typ : Nat) (part : Option Nat) (ctx : Nat) (payload : List (Nat × Nat × Nat)) :
    HubSteps s.hubs (s.bbox t typ part ctx payload).hubs := .modHub _ _ _ fun _ => ⟨_, _, _, _, rfl⟩

theorem HubSteps.logError (s : State) (line col kind path ncorr : Nat) (part : Option Nat) (addr : Nat) :
    HubSteps s.hubs (s.logError line col kind path ncorr part addr).hubs := by
  unfold State.logError
  extract_lets lg loc correctable prior lg1 code info words s1
  clear_value prior
  cases prior with
  | some e => exact .refl _
  | none => exact .bbox s1 ..

theorem HubSteps.logRel : LogRel (fun s t => HubSteps s.hubs t.hubs) where
  refl _ := .refl _
  trans := .trans
  keeps h hh _ := h.hubSteps hh
  log _ _ _ _ _ _ _ _ _ := .logError ..
  swap _ _ _ := .refl _

theorem State.pick_who {s : State} {ch who : Nat} {q : Req} (h : s.pick ch who = some q) : q.who = who := by
  have mem : q ∈ (s.chan ch).readQ.filter (fun q => q.who == who && s.canServe ch q) := by
    unfold State.pick at h
    extract_lets c mine cap at h
    rcases hcap : (if cap = 0 then none else mine.find? (fun q => decide (q.at_ + cap * 160 < s.cyc))) with _ | a
    · rcases hit : mine.find? (fun q => (c.bank q.bank).row == some q.row) with _ | b
      · simp only [hcap, hit] at h
        exact List.mem_of_head? h
      · simp only [hcap, hit] at h
        cases h
        exact List.mem_of_find?_eq_some hit
    · simp only [hcap] at h
      cases h
      split at hcap
      · contradiction
      · exact List.mem_of_find?_eq_some hcap
  simp only [List.mem_filter, Bool.and_eq_true, beq_iff_eq] at mem
  exact mem.2.1

namespace SideRel

variable {R : State → State → Prop} (h : SideRel R)
include h

/-! #### Decodes (03 R84 to R89, R115) -/

theorem logError (s : State) (line col kind path ncorr : Nat) (part : Option Nat) (addr : Nat) : R s (s.logError line col kind path ncorr part addr) :=
  h.side (Keeps.logError ..) rfl (.logError ..)

theorem retireRow (s : State) (rk : Nat) (wrong : Bool) : R s (s.retireRow rk wrong) := h.side (Keeps.retireRow ..) rfl (HubSteps.logRel.retireRow ..)

theorem uncorrectable (s : State) (line col kind path ncorr : Nat) (part : Option Nat) (addr : Nat) :
    R s (s.uncorrectable line col kind path ncorr part addr) := by
  refine h.trans (h.logError s line col kind path ncorr part addr) ?_
  unfold State.uncorrectable State.memEvent
  split
  · exact h.eventOwner ..
  · exact h.refl _

theorem rowFailed (s : State) (rk col kind path ncorr : Nat) (part : Option Nat) (addr : Nat) (also : List Nat) :
    R s (s.rowFailed rk col kind path ncorr part addr also) :=
  h.trans (h.uncorrectable ..) (h.trans (h.keeps (Keeps.poisonLines ..) rfl) (h.retireRow ..))

theorem rowCorrected (s : State) (rk col path code : Nat) (fix : List Nat) (part : Option Nat) (addr : Nat) (mark : RowMeta → RowMeta) :
    R s (s.rowCorrected rk col path code fix part addr mark) := by
  unfold State.rowCorrected
  extract_lets n line s1 poisoned worn s2 s3 s4 s5
  have checks : R s s2 := h.trans (h.keeps (Keeps.writeBack ..) rfl) (h.foldl (fun _ _ => h.keeps (Keeps.setCheck ..) rfl) _ _)
  have rebuilt : R s2 s3 := h.ite (h.refl _) (h.trans (h.keeps (Keeps.modRow ..) rfl) (h.logError ..))
  have logged : R s3 s4 := h.foldl (fun _ _ => h.logError ..) _ _
  have entered : R s4 s5 := h.ite (h.logError ..) (h.refl _)
  exact h.trans checks (h.trans rebuilt (h.trans logged (h.trans entered (h.keeps (Keeps.modRow ..) rfl))))

theorem decodeRow (s : State) (rk col path : Nat) (part : Option Nat) (addr : Nat) (mark : RowMeta → RowMeta) :
    R s (s.decodeRow rk col path part addr mark) := by
  unfold State.decodeRow
  refine h.ite (h.trans (h.uncorrectable ..) (h.retireRow ..)) ?_
  split
  · exact h.rowFailed ..
  split
  · exact h.rowFailed ..
  · exact h.ite (h.trans (h.rowCorrected ..) (h.retireRow ..)) (h.rowCorrected ..)

/-! #### Reads and writes of lines -/

theorem noteRead (s : State) (bad : Bool) (k path : Nat) (part : Option Nat) (addr : Nat) : R s (s.noteRead bad k path part addr) :=
  h.ite (h.refl s) (h.ite (h.uncorrectable ..) (h.logError ..))

theorem testLine (s : State) (k path : Nat) (part : Option Nat) (addr : Nat) : R s (s.testLine k path part addr) := h.ite (h.decodeRow ..) (h.refl s)

theorem bankRead (s : State) (who path : Nat) (part : Option Nat) (sa : Nat) : R s (s.bankRead who path part sa).2 := by
  unfold State.bankRead
  extract_lets l ch k j s1 s2 d
  have reached : R s s1 := h.keeps (((Keeps.modChan ..).append (Keeps.reachRow ..)).append (Keeps.spend ..)) rfl
  have tested : R s s2 := h.trans reached (h.testLine ..)
  clear_value s2 d
  exact h.trans tested (h.noteRead ..)

theorem deviceRead (s : State) (who path : Nat) (part : Option Nat) (sa : Nat) : R s (s.deviceRead who path part sa).2 := by
  unfold State.deviceRead
  split
  · exact h.logError ..
  split
  · exact h.refl s
  · exact h.bankRead ..

theorem answerRead (s : State) (ch : Nat) (q : Req) (hf : ∀ u sa d, R u (u.fillBuffer q.who sa d)) : R s (s.answerRead ch q) := by
  unfold State.answerRead
  extract_lets d0 d s1 s2
  have noted : R s s1 := h.noteRead ..
  have filled : R s1 s2 := h.ite (hf ..) (h.refl _)
  exact h.ite (h.trans noted filled) (h.trans noted (h.trans filled (h.keeps (Keeps.answer ..) rfl)))

theorem writeLine (s : State) (k : Nat) (d : Line512) (mask : BitVec 64) (pois : Bool) (path : Nat) (part : Option Nat) (addr : Nat) :
    R s (s.writeLine k d mask pois path part addr).1 := by
  unfold State.writeLine
  extract_lets s0 was full s1
  have stored : R s s1 := h.trans (h.testLine ..) (h.keeps (Keeps.storeLine ..) rfl)
  split
  · exact h.uncorrectable ..
  split
  · exact h.trans stored (h.logError ..)
  · exact stored

theorem reportFail (s : State) (q : Req) (st : Nat) : R s (s.reportFail q st) := by
  unfold State.reportFail
  split
  · exact h.trans (h.lateLog ..) (h.keeps (Keeps.reply ..) rfl)
  · exact h.trans (h.lateFail ..) (h.port _ _ _ fun _ => ⟨_, _, _, rfl⟩)
  · exact h.lateFail ..

theorem writeDone (s : State) (q : Req) (ok : Bool) : R s (s.writeDone q ok) := by
  unfold State.writeDone
  split
  · exact h.ite (h.keeps (Keeps.modStream ..) rfl) (h.trans (h.keeps (Keeps.modStream ..) rfl) (h.reportFail ..))
  · exact h.ite (h.refl s) (h.ferryFault ..)
  · exact h.ite (h.refl s) (h.keeps (Keeps.answer ..) rfl)

theorem performWrite (s : State) (ch : Nat) (q : Req) : R s (s.performWrite ch q) := by
  have written := h.writeLine s (q.spot ch) q.data q.mask q.poison (writePath q.who) q.part (s.addrFor q.who q.addr)
  simp only [State.performWrite]
  revert written
  rcases s.writeLine (q.spot ch) q.data q.mask q.poison (writePath q.who) q.part (s.addrFor q.who q.addr) with ⟨u, ok⟩
  intro written
  refine h.trans ?_ (h.writeDone ..)
  cases s.movingLine q.addr with
  | none => exact written
  | some m => exact h.ite (h.trans written (h.writeLine ..)) written

theorem writeSa (s : State) (sa : Nat) (d : Line512) (mask : BitVec 64) (pois : Bool) (path : Nat) (part : Option Nat) :
    R s (s.writeSa sa d mask pois path part).1 := by
  have written := h.writeLine s (s.lineOfSa sa) d mask pois path part sa
  simp only [State.writeSa]
  revert written
  rcases s.writeLine (s.lineOfSa sa) d mask pois path part sa with ⟨u, ok⟩
  intro written
  rw [apply_ite Prod.fst]
  refine h.ite (h.refl s) ?_
  cases s.movingLine sa with
  | none => exact written
  | some k =>
    have again := h.writeLine u k d mask pois path part sa
    revert again
    dsimp only
    rcases u.writeLine k d mask pois path part sa with ⟨v, more⟩
    intro again
    rw [apply_ite Prod.fst]
    exact h.ite (h.trans written again) written

theorem writeBackSlot (s : State) (slot : Nat) : R s (s.writeBackSlot slot) :=
  h.trans (h.foldl (fun _ _ => h.writeSa ..) _ _) (h.keeps (Keeps.putLines ..) rfl)

theorem writeBackPart (s : State) (p : Nat) : R s (s.writeBackPart p) := h.foldl (fun _ _ => h.writeBackSlot ..) _ _

/-! #### The queues of a channel -/

theorem drainLine (s : State) (ch k : Nat) : R s (s.drainLine ch k) :=
  h.trans (h.keeps (Keeps.modChan ..) rfl) (h.foldl (fun _ _ => h.performWrite ..) _ _)

theorem drainTo (n ch lo : Nat) (s : State) : R s (State.drainTo n ch lo s) := by
  induction n generalizing s with
  | zero => exact h.refl s
  | succ n ih =>
    rw [State.drainTo]
    split
    · exact h.refl s
    · exact h.ite (h.refl s) (h.trans (h.trans (h.keeps (Keeps.modChan ..) rfl) (h.performWrite ..)) (ih _))

theorem readBanks (s : State) (ch : Nat) (q : Req) (hf : ∀ u sa d, R u (u.fillBuffer q.who sa d)) : R s (s.readBanks ch q) := by
  unfold State.readBanks
  extract_lets k s1
  have reached : R s s1 := h.keeps ((Keeps.reachRow ..).append (Keeps.spend ..)) rfl
  exact h.ite (h.trans reached (h.keeps (Keeps.askDecode ..) rfl)) (h.trans reached (h.answerRead _ _ _ hf))

theorem serve (s : State) (ch : Nat) (q : Req) (hf : ∀ u sa d, R u (u.fillBuffer q.who sa d)) : R s (s.serve ch q) := by
  unfold State.serve
  extract_lets m n s0
  have taken : R s s0 := h.keeps (Keeps.modChan ..) rfl
  exact h.ite (h.trans taken (h.answerRead _ _ _ hf)) (h.ite (h.trans taken (h.readBanks _ _ _ hf))
    (h.trans taken (h.trans (h.drainLine ..) (h.trans (h.readBanks _ _ _ hf) (h.drainTo ..)))))

theorem runGrant (n ch who used : Nat) (s : State) (hf : ∀ u sa d, R u (u.fillBuffer who sa d)) : R s (State.runGrant n ch who used s) := by
  induction n generalizing used s with
  | zero => exact h.refl s
  | succ n ih =>
    rw [State.runGrant]
    refine h.ite (h.refl s) ?_
    split
    · next q hq => exact h.trans (h.serve s ch q (by rwa [State.pick_who hq])) (ih ..)
    · exact h.refl s

theorem grantNow (s : State) (ch who : Nat) (hf : ∀ u sa d, R u (u.fillBuffer who sa d)) : R s (s.grantNow ch who) :=
  h.ite (h.trans (h.keeps (Keeps.countGrant ..) rfl) (h.runGrant _ _ _ _ _ hf)) (h.refl s)

theorem enqueueWake (s : State) (t kind member : Nat) : R s (s.enqueueWake t kind member) := h.ite (h.refl s) (h.hub _ _ _ fun _ => ⟨_, _, _, _, rfl⟩)

theorem accept (s : State) (ch : Nat) (q : Req) : R s (s.accept ch q) :=
  h.ite (h.trans (h.keeps (Keeps.modChan ..) rfl) (h.enqueueWake ..)) (h.keeps (Keeps.modChan ..) rfl)

theorem askRead (s : State) (ch : Nat) (q : Req) (hf : ∀ u sa d, R u (u.fillBuffer q.who sa d)) : R s (s.askRead ch q) :=
  h.ite (h.trans (h.accept ..) (h.grantNow _ _ _ hf)) (h.refl s)

/-! #### Accesses that a snoop held -/

theorem sharedHostRead (s : State) (p sa : Nat) (own : Bool) : R s (s.sharedHostRead p sa own) := by
  unfold State.sharedHostRead
  extract_lets t l es ch reply logs
  have home (u : State) (a : Nat) (d : Line512 × Bool) : R u (u.fillBuffer 4 a d) := h.fill u 4 a d (Nat.le_refl 4)
  have replied (u : State) : R u (reply u) := by
    simp only [reply]
    split
    · exact h.keeps (Keeps.answer ..) rfl
    · exact h.ite (h.trans (h.logError ..) (h.keeps (Keeps.answer ..) rfl)) (h.askRead _ _ _ home)
  exact h.ite (h.refl s) (h.ite (h.trans (h.keeps (Keeps.modDir ..) rfl) (replied _))
    (h.ite (h.trans (h.keeps ((Keeps.modDir ..).append (Keeps.noteDir ..)) rfl) (replied _)) (h.keeps ((Keeps.modDir ..).append (Keeps.putLogs ..)) rfl)))

theorem remWriteLine (s : State) (land p : Nat) (hdr : BitVec 128) (sa : Nat) (d : Line512) (pois : Bool) : R s (s.remWriteLine land p hdr sa d pois) := by
  have queued : R s (s.acceptWrite 5 (4 + land) (some p) sa d (BitVec.allOnes 64) pois none (some hdr)) := h.trans (h.keeps (Keeps.modStream ..) rfl) (h.accept ..)
  rw [State.remWriteLine]
  refine h.ite (h.ite (h.keeps (Keeps.modStream ..) rfl) (h.ite (h.keeps (Keeps.homeWrite ..) rfl) (h.keeps (Keeps.modStream ..) rfl))) (h.ite ?_ queued)
  exact h.trans (h.keeps (Keeps.modStream ..) rfl) (h.reportFail ..)

theorem readAll {α : Type} (f : State × α → Nat → State × α) (hf : ∀ x a, R x.1 (f x a).1) (as : List Nat) (x : State × α) : R x.1 (as.foldl f x).1 := by
  induction as generalizing x with
  | nil => exact h.refl _
  | cons a as ih => exact h.trans (hf x a) (ih _)

theorem remoteRead (s : State) (land : Nat) (hdr : BitVec 128) (bad : List Nat) (p : Nat) : R s (s.remoteRead land hdr bad p) := by
  unfold State.remoteRead
  extract_lets r s0 x pois ls pois2
  refine h.ite ?_ ?_
  · split
    next s1 hs => exact h.keeps (Keeps.remSnoop_some hs) rfl
    next =>
      refine h.ite (h.refl s) ?_
      have counted : R s s0 := h.foldl (fun _ _ => h.keeps (Keeps.countGrant ..) rfl) _ _
      have freed : R s0 ((s0.freeRx land hdr 0).readMesh land (s.homeOf r.addr) r.lines) := h.keeps ((Keeps.freeRx ..).append (Keeps.readMesh ..)) rfl
      have read := h.readAll (fun (x : State × List (Line512 × Bool)) a =>
          if a / 64 ∈ bad then (x.1, x.2 ++ [(0, true)])
          else
            let y := x.1.deviceRead 5 9 (some p) a
            (y.2, x.2 ++ [y.1])) (fun x a => by
          split
          · exact h.refl _
          · exact h.deviceRead ..) r.sas (((s0.freeRx land hdr 0).readMesh land (s.homeOf r.addr) r.lines), [])
      exact h.trans counted (h.trans freed (h.trans read (h.keeps (Keeps.reply ..) rfl)))
  · exact h.keeps (((Keeps.freeRx ..).append (Keeps.readMesh ..)).append (Keeps.reply ..)) rfl

theorem remoteWrite (s : State) (land : Nat) (hdr : BitVec 128) (data : List (BitVec 512)) (bad : List Nat) (p : Nat) :
    R s (s.remoteWrite land hdr data bad p) := by
  unfold State.remoteWrite
  extract_lets r pois s1 s2
  refine h.ite ?_ ?_
  · split
    next s1 hs => exact h.keeps (Keeps.remSnoop_some hs) rfl
    next =>
      refine h.ite ?_ (h.refl s)
      refine h.trans (h.trans (h.keeps ((Keeps.freeRx ..).append (Keeps.viaMesh ..)) rfl) (h.foldl (fun _ _ => ?_) _ _)) (h.keeps (Keeps.reply ..) rfl)
      exact h.ite (h.refl _) (h.remWriteLine ..)
  · refine h.trans (h.trans (h.keeps ((Keeps.freeRx ..).append (Keeps.viaMesh ..)) rfl) (h.foldl (fun _ _ => h.keeps (Keeps.spWrite ..) rfl) _ _)) (h.keeps (Keeps.reply ..) rfl)

theorem release (s : State) (w : Waiter) (bad : List Nat) : R s (s.release w bad) := by
  unfold State.release
  split
  · exact h.keeps (Keeps.modFchan ..) rfl
  · exact h.sharedHostRead ..
  · exact h.ite (h.remoteWrite ..) (h.remoteRead ..)
  · exact h.refl s

theorem dropDirs (s : State) (port : Nat) : R s (s.dropDirs port) := by
  refine h.foldl (fun u t => ?_) _ s
  refine h.trans (h.keeps (Keeps.modDir ..) rfl) (h.foldl (fun v e => ?_) _ _)
  split
  · exact h.release ..
  · exact h.refl v

/-! #### Moves of slots (02 R55) -/

theorem reroute (hf : ∀ u p sa d, R u (u.fillBuffer p sa d)) (s : State) (p q : Nat) : R s (s.reroute p q) := by
  unfold State.reroute
  split
  · exact h.refl s
  · refine h.trans (h.keeps (Keeps.putChans ..) rfl) (h.foldl (fun u r => ?_) _ _)
    exact h.ite (h.performWrite ..) (h.ite (h.keeps (Keeps.modChan ..) rfl) (h.answerRead _ _ _ fun _ _ _ => hf ..))

theorem flipSlot (hf : ∀ u p sa d, R u (u.fillBuffer p sa d)) (s : State) (slot : Nat) : R s (s.flipSlot slot) := by
  unfold State.flipSlot
  extract_lets x
  split
  · exact h.refl s
  · extract_lets s1 s2 s3 s4
    have flipped : R s s1 := h.trans (h.reroute hf ..) (h.keeps ((Keeps.modSlot ..).append (Keeps.modParcel ..)) rfl)
    have logged : R s1 s2 := h.ite (h.logError ..) (h.refl _)
    have told : R s2 s3 := h.ite (h.eventOwner ..) (h.refl _)
    have answered : R s3 s4 := by
      refine h.ite ?_ (h.refl _)
      split
      · exact h.trans (h.keeps (Keeps.modSlot ..) rfl) (h.complete ..)
      · exact h.refl _
    exact h.trans flipped (h.trans logged (h.trans told (h.trans answered (h.trans (h.keeps (Keeps.reviewCode ..) rfl) (h.noteCover ..)))))

theorem copyParcel (s : State) (p q : Nat) : R s (s.copyParcel p q) := by
  unfold State.copyParcel
  extract_lets dest s0 s1 m s2 bad s3
  have decoded : R s s0 := h.foldl (fun _ _ => h.ite (h.refl _) (h.decodeRow ..)) _ _
  have copied : R s0 s2 := h.keeps ((Keeps.clearParcel ..).append (Keeps.putMem ..)) rfl
  have stored : R s2 s3 := h.foldl (fun _ _ => h.foldl (fun _ _ => h.keeps (Keeps.storeLine ..) rfl) _ _) _ _
  exact h.trans decoded (h.trans copied (h.trans stored (h.foldl (fun _ _ => h.keeps (Keeps.poisonLine ..) rfl) _ _)))

theorem evacuate (hf : ∀ u p sa d, R u (u.fillBuffer p sa d)) (s : State) (readable : Bool) (i : Nat) : R s (s.evacuate readable i) := by
  unfold State.evacuate
  extract_lets x
  split
  · exact h.trans (h.keeps (Keeps.modSlot ..) rfl) (h.logError ..)
  · extract_lets s1 s2
    have moved : R s s1 := h.trans (h.writeBackSlot ..) (h.keeps (Keeps.modSlot ..) rfl)
    have flipped : R s s2 := h.trans moved (h.trans (h.keeps ((Keeps.clearParcel ..).append (Keeps.poisonParcel ..)) rfl) (h.flipSlot hf ..))
    exact h.ite (h.trans moved (h.trans (h.copyParcel ..) (h.flipSlot hf ..))) (h.trans flipped (h.eventOwner ..))

end SideRel

end Sys2Proof.Machine
end

section
/-! Start-up (18 R666 to R672). -/

namespace Sys2Proof.Machine

/-! ### Start-up over a table that lists a partition twice (18 R671)

`Tab.mapAll` drops an entry that becomes the unlisted value. Where a table lists a number twice, dropping the first entry lets the second be read. -/

theorem State.selfTests_of_default (s : State) (h : s.boot.report = {}) : s.selfTests = s := by
  simp [State.selfTests, State.retireAll, h]

/-- The state with a training recorded now (04 R156). -/
def State.trainingBegun (s : State) : State := s.putBoot { s.boot with trainedAt := s.cyc + 1 }

theorem State.trainStacks_of_default (s : State) (h : s.boot.report = {}) : s.trainStacks = s.trainingBegun := by
  simp [State.trainStacks, State.trainingBegun, h]

theorem State.testSpares_of_default (s : State) (h : s.boot.report = {}) : s.testSpares = s := by
  simp [State.testSpares, h]

/-- Where every partition reads FREE, step 9 marks none PRESERVED: it only empties the handles the table lists (18 R671). -/
theorem State.initMemory_parts_of_free (s : State) (h : ∀ p, (s.part p).st = .free) :
    s.initMemory.parts = Tab.mapAll (fun _ => {}) (fun _ p => { p with handles := [] }) s.parts := by
  have none : (List.range 64).filter (fun p => (s.part p).st != .free) = [] := by simp [h]
  simp only [State.initMemory, none, List.foldl_nil]
  refine (Keeps.foldl (L := [.slots]) _ (fun u i => ?_) (List.range s.slotCount) _).same .parts (by decide)
  exact .ite (Keeps.refl _ u) (Keeps.modSlot ..)

/-- The table of partitions that the refutation starts from: partition 3 listed twice, first with the value an unlisted one has. -/
def partListedTwice : Tab Part := [(3, {}), (3, { st := .active })]

/-- Waiting for the coolant, with that table and an empty report. -/
def waitsForCoolant : State := { State.reset with power := { on := true }, boot := { phase := 5 }, parts := partListedTwice }

/-- The next state of the coolant's qualifying at step 5 of a power-on. -/
def State.cooled (s : State) : State := s.putBoot { s.boot with coolOk := true }

theorem exec_coolantQualified_cold (s : State) (hon : s.power.on = true) (hph : s.boot.phase = 5) (hw : s.boot.warmBusy = false) :
    exec .coolantQualified s = .next s.cooled.coldTail := by
  show execCoolantQualified s = _
  simp [execCoolantQualified, State.cooled, hon, hw, hph]

theorem State.coldTail_part_of_listedTwice (s : State) (hr : s.boot.report = {}) (hp : s.parts = partListedTwice) :
    (s.coldTail.part 3).st = .active := by
  have free (p : Nat) : (s.trainingBegun.part p).st = .free := by
    show (Tab.get _ s.parts p).st = .free
    rw [hp, partListedTwice]
    by_cases h : 3 = p <;> simp [Tab.get, h]
  have emptied : s.trainingBegun.initMemory.parts = [(3, { st := .active })] := by
    rw [State.initMemory_parts_of_free _ free, State.trainingBegun, State.putBoot_parts, hp]
    simp [partListedTwice, Tab.mapAll]
  have parts : s.coldTail.parts = [(3, { st := .active })] := by
    rw [State.coldTail, (Keeps.enterService _).same .parts (by decide), State.selfTests_of_default s hr, State.trainStacks_of_default s hr,
      State.testSpares_of_default s.trainingBegun hr, emptied]
  rw [State.part, parts]
  rfl

theorem State.not_waits_listedTwice (s : State) (hr : s.boot.report = {}) (hp : s.parts = partListedTwice) (hon : s.power.on = true)
    (hph : s.boot.phase = 5) (hw : s.boot.warmBusy = false) :
    ¬ Does .coolantQualified s (fun t => (t.part 3).st = .free ∨ (t.part 3).st = .preserved) := by
  rintro ⟨t, ht, h⟩
  rw [exec_coolantQualified_cold s hon hph hw] at ht
  cases ht
  rcases h with h | h <;> exact absurd ((s.cooled.coldTail_part_of_listedTwice hr hp).symm.trans h) (by decide)

/-- Refutes O38: a table that lists partition 3 twice, FREE first and ACTIVE after, loses its first entry when the start-up empties the
handles, and partition 3 then reads ACTIVE in service. -/
theorem not_powerOnCompletes : ¬ Obligations.PowerOnCompletes := by
  unfold Obligations.PowerOnCompletes
  rintro ⟨-, -, -, -, cooled, -⟩
  obtain ⟨t, ht, -, -, -, -, -, hp, -⟩ := cooled waitsForCoolant rfl rfl rfl
  exact waitsForCoolant.not_waits_listedTwice rfl rfl rfl rfl rfl ⟨t, ht, hp 3⟩

end Sys2Proof.Machine
end

section
/-! Ports that go down, partitions preserved and tiles retired (18 R673 to R678, R698). -/

namespace Sys2Proof.Machine

/-- Something true of each element once it is reached, and kept by the steps for the others, is true of all in the end. -/
theorem foldl_reaches {σ α : Type} {f : σ → α → σ} {P : α → σ → Prop} (here : ∀ s a, P a (f s a)) (kept : ∀ s a b, P b s → P b (f s a))
    (as : List α) (s : σ) {b : α} (hb : b ∈ as ∨ P b s) : P b (as.foldl f s) := by
  induction as generalizing s with
  | nil => simpa using hb
  | cons a as ih =>
    refine ih (f s a) ?_
    rcases hb with hb | hb
    · rcases List.mem_cons.mp hb with rfl | hb
      · exact .inr (here s b)
      · exact .inl hb
    · exact .inr (kept s a b hb)

/-! ### Members that side effects leave alone -/

namespace SideRel

/-- What a relation of that kind keeps. -/
theorem keeping {R : State → State → Prop} (h : SideRel R) {P : State → Prop} (hP : ∀ s t, R s t → P s → P t) : SideRel (fun s t => P s → P t) where
  refl _ := id
  trans f g := g ∘ f
  side k hL hubs := hP _ _ (h.side k hL hubs)
  port s k f hf := hP _ _ (h.port s k f hf)
  fill s p sa d hp := hP _ _ (h.fill s p sa d hp)
  part s k f hf := hP _ _ (h.part s k f hf)
  page s k f hf := hP _ _ (h.page s k f hf)
  ctx s k f hf := hP _ _ (h.ctx s k f hf)

/-- The table of hubs changes only as side effects change it. -/
theorem hubs : SideRel (fun s t => HubSteps s.hubs t.hubs) where
  refl _ := .refl _
  trans := .trans
  side _ _ h := h
  port _ _ _ _ := .refl _
  fill _ _ _ _ _ := .refl _
  part _ _ _ _ := .refl _
  page _ _ _ _ := .refl _
  ctx _ _ _ _ := .refl _

end SideRel

/-- Port `k` is as before but for its trace and its counts of failures. -/
structure PortNear (k : Nat) (s t : State) : Prop where
  /-- the rest of the port -/
  same : ∃ tr n m, t.hport k = { s.hport k with trace := tr, fails := n, partFails := m }

theorem PortNear.trans {k : Nat} {s t u : State} (h : PortNear k s t) (g : PortNear k t u) : PortNear k s u := by
  obtain ⟨tr, n, m, h⟩ := h.same
  obtain ⟨tr', n', m', g⟩ := g.same
  exact ⟨tr', n', m', by rw [g, h]⟩

theorem PortNear.of_eq {k : Nat} {s t : State} (h : t.hport k = s.hport k) : PortNear k s t := ⟨_, _, _, h⟩

theorem SideRel.portNear {k : Nat} (hk : k < 4) : SideRel (PortNear k) where
  refl _ := .of_eq rfl
  trans := .trans
  side h hL _ := .of_eq (h.hport_eq (by simpa using (List.all_eq_true.mp hL _ (by decide : Field.ports ∈ _))) k)
  port s j f hf := by
    by_cases h : k = j
    · subst h
      obtain ⟨tr, n, m, hx⟩ := hf (s.hport k)
      exact ⟨tr, n, m, by rw [State.hport_modHport, hx]⟩
    · exact .of_eq (State.hport_modHport_ne _ _ _ _ h)
  fill s p sa d hp := .of_eq (State.hport_modHport_ne _ _ _ _ (by omega))
  part s j f _ := .of_eq rfl
  page s j f _ := .of_eq rfl
  ctx s j f _ := .of_eq rfl

/-- Partition `q` is as before but for its mark of a failed write and its held completions. -/
structure PartNear (q : Nat) (s t : State) : Prop where
  /-- the rest of the partition -/
  same : ∃ w l, t.part q = { s.part q with wfail := w, held := l }

theorem PartNear.trans {q : Nat} {s t u : State} (h : PartNear q s t) (g : PartNear q t u) : PartNear q s u := by
  obtain ⟨w, l, h⟩ := h.same
  obtain ⟨w', l', g⟩ := g.same
  exact ⟨w', l', by rw [g, h]⟩

theorem PartNear.of_eq {q : Nat} {s t : State} (h : t.part q = s.part q) : PartNear q s t := ⟨_, _, h⟩

theorem SideRel.partNear (q : Nat) : SideRel (PartNear q) where
  refl _ := .of_eq rfl
  trans := .trans
  side h hL _ := .of_eq (h.part_eq (by simpa using (List.all_eq_true.mp hL _ (by decide : Field.parts ∈ _))) q)
  port s j f _ := .of_eq rfl
  fill s p sa d _ := .of_eq rfl
  part s j f hf := by
    by_cases h : q = j
    · subst h
      obtain ⟨w, l, hx⟩ := hf (s.part q)
      exact ⟨w, l, by rw [State.part_modPart, hx]⟩
    · exact .of_eq (State.part_modPart_ne _ _ _ _ h)
  page s j f _ := .of_eq rfl
  ctx s j f _ := .of_eq rfl

/-- Context `c` does not run where it did not. -/
structure CtxStays (c : Nat) (s t : State) : Prop where
  /-- it still does not run -/
  stays : (s.ctx c).st ≠ .running → (t.ctx c).st ≠ .running

theorem CtxStays.of_eq {c : Nat} {s t : State} (h : t.ctx c = s.ctx c) : CtxStays c s t := ⟨by rw [h]; exact id⟩

/-- A change of a context that runs none that did not. -/
theorem CtxStays.modCtx (c : Nat) (s : State) (k : Nat) (f : Ctx → Ctx) (hf : ∀ x : Ctx, x.st ≠ .running → (f x).st ≠ .running) :
    CtxStays c s (s.modCtx k f) := by
  by_cases h : c = k
  · subst h
    exact ⟨fun hx => by rw [State.ctx_modCtx]; exact hf _ hx⟩
  · exact .of_eq (State.ctx_modCtx_ne _ _ _ _ h)

theorem SideRel.ctxStays (c : Nat) : SideRel (CtxStays c) where
  refl _ := .of_eq rfl
  trans h g := ⟨g.stays ∘ h.stays⟩
  side h hL _ := .of_eq (h.ctx_eq (by simpa using (List.all_eq_true.mp hL _ (by decide : Field.ctxs ∈ _))) c)
  port s j f _ := .of_eq rfl
  fill s p sa d _ := .of_eq rfl
  part s j f _ := .of_eq rfl
  page s j f _ := .of_eq rfl
  ctx s j f hf := .modCtx _ _ _ _ fun x hx => by
    obtain ⟨st, q, r, g, o, a, n, fl, hs, ha, sr, w1, w2, w3, hst, he⟩ := hf x
    rw [he]
    rcases hst with rfl | rfl
    · exact hx
    · simp


/-! ### A port that goes down (18 R676, R677) -/

/-- A port with its link down and its read buffer dropped. -/
def Port.isDown (h : Port) : Prop := h.speed = 0 ∧ h.mem = false ∧ h.prb = []

theorem PortNear.isDown {k : Nat} {s t : State} (h : PortNear k s t) (hd : (s.hport k).isDown) : (t.hport k).isDown := by
  obtain ⟨tr, n, m, h⟩ := h.same
  rw [h]
  exact hd

/-- A port with its link taken down: what the model's `portDown` writes first. -/
def Port.unlinked (h : Port) : Port :=
  { h with speed := 0, width := 0, flit := false, cache := false, mem := false, prb := [], lastRead := 0 }

namespace SideRel
variable {R : State → State → Prop} (h : SideRel R)
include h

/-- After its link is taken down, all that a port's going down does are side effects. -/
theorem portDown (s : State) (p : Nat) : R (s.modHport p Port.unlinked) (s.portDown p) := by
  have failed (u : State) (ws : List HostWrite) : R u (ws.foldl (fun s w =>
      match s.out.inflight.find? (fun v => v.id == w.id) with
      | some v =>
        let s1 := s.hostDone v false
        match v.fe with
        | some f => s1.modFchan (16 * f.1 + f.2) (fun c => { c with posted := c.posted - 1 })
        | none => s1
      | none => s) u) := by
    refine h.foldl (fun u w => ?_) _ _
    split
    · next v _ =>
      refine h.trans (h.hostDone u v false) ?_
      cases v.fe with
      | some f => exact h.keeps (Keeps.modFchan ..) rfl
      | none => exact h.refl _
    · exact h.refl u
  exact h.trans (failed _ _) (h.dropDirs ..)

/-- A partition is preserved by side effects and changes of its page, of its contexts and of itself. -/
theorem preserve (s : State) (p cause : Nat) (ts : List (BitVec 64)) (hpage : ∀ u k f, R u (u.modPage k f)) (hpart : ∀ u f, R u (u.modPart p f))
    (hctx : ∀ u k, R u (u.modCtx k (fun x => if x.st = .running then { x with st := .preserved } else x))) : R s (s.preserve p cause ts) := by
  unfold State.preserve
  extract_lets k s1 s2
  have stopped : R s s2 := h.trans (hpage ..) (h.foldl (fun _ _ => hctx ..) _ _)
  have marked (u : State) : R u (u.setPartState p .preserved) :=
    h.ite (hpart ..) (h.trans (hpart ..) (h.keeps (Keeps.raiseVec ..) rfl))
  exact h.trans stopped (h.trans (h.writeBackPart s2 p) (h.trans (marked _) (hpart ..)))

end SideRel

theorem State.portDown_isDown (s : State) {k : Nat} (hk : k < 4) (p : Nat) (h : k = p ∨ (s.hport k).isDown) : ((s.portDown p).hport k).isDown := by
  refine ((SideRel.portNear hk).portDown s p).isDown ?_
  by_cases hp : k = p
  · subst hp
    rw [State.hport_modHport]
    exact ⟨rfl, rfl, rfl⟩
  · rw [State.hport_modHport_ne _ _ _ _ hp]
    exact h.resolve_left hp

theorem State.preserve_portNear (s : State) {k : Nat} (hk : k < 4) (p cause : Nat) (ts : List (BitVec 64)) : PortNear k s (s.preserve p cause ts) :=
  (SideRel.portNear hk).preserve _ _ _ _ (fun _ _ _ => .of_eq rfl) (fun _ _ => .of_eq rfl) (fun _ _ => .of_eq rfl)

/-- Partition `q` is PRESERVED for `cause` with the token drawn for it (18 R678). -/
def State.preservedFor (s : State) (q cause : Nat) (ts : List (BitVec 64)) : Prop :=
  (s.part q).st = .preserved ∧ (s.part q).cause = cause ∧ (s.part q).token = tokenOf ts q

theorem PartNear.preservedFor {q cause : Nat} {ts : List (BitVec 64)} {s t : State} (h : PartNear q s t) (hs : s.preservedFor q cause ts) :
    t.preservedFor q cause ts := by
  obtain ⟨w, l, h⟩ := h.same
  unfold State.preservedFor
  rw [h]
  exact hs

theorem State.preserve_preservedFor (s : State) (p cause : Nat) (ts : List (BitVec 64)) : (s.preserve p cause ts).preservedFor p cause ts := by
  unfold State.preserve State.setPartState
  extract_lets k s1 s2
  refine ⟨?_, ?_, ?_⟩ <;> rw [State.part_modPart]
  rw [apply_ite State.part]
  split
  · rw [State.part_modPart]
  · rw [(Keeps.raiseVec ..).part_eq rfl, State.part_modPart]

theorem State.preserve_preservedFor_of (s : State) (p q cause : Nat) (ts : List (BitVec 64)) (h : s.preservedFor q cause ts) :
    (s.preserve p cause ts).preservedFor q cause ts := by
  by_cases hq : q = p
  · subst hq
    exact s.preserve_preservedFor ..
  · exact ((SideRel.partNear q).preserve _ _ _ _ (fun _ _ _ => .of_eq rfl) (fun _ _ => .of_eq (State.part_modPart_ne _ _ _ _ hq))
      (fun _ _ => .of_eq rfl)).preservedFor h


/-! ### The partitions of a port preserved (18 R674) -/

theorem State.mem_partsOn {s : State} {p q : Nat} : q ∈ s.partsOn p ↔ q < 64 ∧ (s.part q).st = .active ∧ (s.part q).port = p := by
  simp [State.partsOn]

/-- Every partition of a list preserved, one after another. -/
def State.preserveAll (s : State) (qs : List Nat) (cause : Nat) (ts : List (BitVec 64)) : State := qs.foldl (fun s q => s.preserve q cause ts) s

theorem State.preserveAll_preservedFor (s : State) (qs : List Nat) (cause : Nat) (ts : List (BitVec 64)) {q : Nat} (hq : q ∈ qs) :
    (s.preserveAll qs cause ts).preservedFor q cause ts :=
  foldl_reaches (P := fun q (u : State) => u.preservedFor q cause ts) (fun u a => u.preserve_preservedFor a cause ts)
    (fun u a b h => u.preserve_preservedFor_of a b cause ts h) qs s (.inl hq)

theorem State.preserveAll_portNear (s : State) {k : Nat} (hk : k < 4) (qs : List Nat) (cause : Nat) (ts : List (BitVec 64)) :
    PortNear k s (s.preserveAll qs cause ts) :=
  (SideRel.portNear hk).foldl (fun u q => u.preserve_portNear hk q cause ts) qs s

/-! ### A tile retired (18 R698) -/

theorem State.losePort_hubs (s : State) (p : Nat) : HubSteps s.hubs (s.losePort p).hubs := by
  have h := SideRel.hubs
  have down : HubSteps s.hubs (s.portDown p).hubs := h.portDown s p
  unfold State.losePort
  extract_lets s1 lost
  have gone : HubSteps (s.portDown p).hubs s1.hubs := Keeps.hubSteps (Keeps.modHport ..) rfl
  refine (down.trans gone).trans (h.foldl (fun u q => ?_) lost s1)
  exact h.trans (h.foldl (fun v c => h.halt ..) _ u) (Keeps.hubSteps ((Keeps.modPage ..).append (Keeps.modPart ..)) rfl)

theorem State.retireTile_retired (s : State) (t cause : Nat) (readable : Bool) (ht : (s.hub t).retired = false) :
    ((s.retireTile t cause readable).hub t).retired = true := by
  have h := SideRel.hubs
  have marked (u : State) : (u.modHub t (fun h => { h with retired := true })).hubs.Once t ∧
      ((u.modHub t (fun h => { h with retired := true })).hub t).retired = true :=
    ⟨State.once_modHub _ _ _ (.inl rfl), by rw [State.hub_modHub]⟩
  have stays {u v : State} (hs : HubSteps u.hubs v.hubs) (hu : u.hubs.Once t ∧ (u.hub t).retired = true) : (v.hub t).retired = true := by
    obtain ⟨-, b, o, r, w, e⟩ := hs.get hu.1
    rw [State.hub, e]
    exact hu.2
  rw [State.retireTile, if_neg (by simp [ht])]
  extract_lets cs owners slots s0 s1 s2 s3 s4 s5 boot s6
  refine stays ?_ (marked s3)
  have covered : HubSteps (s3.modHub t (fun h => { h with retired := true })).hubs s4.hubs := h.trans (h.landingDown ..) (h.noteCover ..)
  have lost : HubSteps s4.hubs s5.hubs := by
    simp only [s5]
    split
    · exact s4.losePort_hubs _
    · exact .refl _
  have led : HubSteps s5.hubs s6.hubs := by
    simp only [s6]
    split <;> exact .refl _
  exact covered.trans (lost.trans (led.trans (h.foldl (fun u i => h.evacuate (fun _ _ _ _ => .refl _) u _ i) _ _)))

/-! ### The commands -/

theorem does_portLinkDown (s : State) (p : Fin 4) (ts : List (BitVec 64)) (h : (s.hport p).speed ≠ 0) :
    exec (.portLinkDown p ts) s = .next ((s.portDown p).preserveAll (s.partsOn p) 1 ts) := next_congr (if_neg h)

theorem State.hotReset_eq (s : State) (p kind : Nat) (ts : List (BitVec 64)) (h : (s.hport p).gone = false) :
    s.hotReset p kind ts = (if kind = 2 then s else s.portDown p).preserveAll (s.partsOn p) 2 ts := if_neg (by simp [h])

/-- PERST# seen by port `p` (20 R729). -/
def State.contact (s : State) (p : Nat) : State := s.modHport p (fun h => { h with perst := true })

theorem State.contact_spec (s : State) (p : Nat) : ((s.contact p).hport p).gone = (s.hport p).gone ∧ ((s.contact p).hport p).perst = true ∧
    (s.contact p).partsOn p = s.partsOn p := by
  refine ⟨?_, ?_, rfl⟩ <;> rw [State.contact, State.hport_modHport]

/-- Settles O20: `SideRel.portDown` and `State.preserveAll_preservedFor` for the links that go down, `State.retireTile_retired` for the tiles. -/
theorem portsAndTilesComplete : Obligations.PortsAndTilesComplete := by
  unfold Obligations.PortsAndTilesComplete
  refine ⟨fun s p ts hp => .next (does_portLinkDown s p ts hp) ?_, fun s p kind ts hp => .next rfl ?_, fun s p ts hp => ?_, fun s p ts hon hp => ?_,
    fun s p speed width flit cache mem hp hph hf hs => ?_, fun ts p => ?_, fun s t cause readable ht => .next rfl (s.retireTile_retired _ _ _ ht),
    fun s t ht hr => ?_, fun s t a ht ha hc => ?_, fun s t ht => .next (next_congr (if_pos ht)) ?_⟩
  case refine_1 =>
    obtain ⟨speed, mem, prb⟩ := ((s.portDown p).preserveAll_portNear p.isLt (s.partsOn p) 1 ts).isDown (s.portDown_isDown p.isLt p (.inl rfl))
    exact ⟨speed, mem, prb, fun q hq hst hpo => State.preserveAll_preservedFor _ _ _ _ (State.mem_partsOn.mpr ⟨hq, hst, hpo⟩)⟩
  case refine_2 =>
    rw [s.hotReset_eq p kind ts hp]
    refine ⟨fun hk => ?_, fun hk => ?_, fun q hq hst hpo => State.preserveAll_preservedFor _ _ _ _ (State.mem_partsOn.mpr ⟨hq, hst, hpo⟩)⟩
    · have hk' : kind.val ≠ 2 := fun e => hk (Fin.ext e)
      rw [if_neg hk']
      obtain ⟨speed, -, prb⟩ := ((s.portDown p).preserveAll_portNear p.isLt (s.partsOn p) 2 ts).isDown (s.portDown_isDown p.isLt p (.inl rfl))
      exact ⟨speed, prb⟩
    · rw [if_pos (show kind.val = 2 from congrArg Fin.val hk)]
      obtain ⟨tr, n, m, e⟩ := (s.preserveAll_portNear p.isLt (s.partsOn p) 2 ts).same
      rw [e]
  case refine_3 => exact next_congr (if_neg (by simp [hp]))
  case refine_4 =>
    obtain ⟨gone, perst, parts⟩ := s.contact_spec p
    have run : exec (.perstAssert p ts) s = .next ((s.contact p).hotReset p 0 ts) := next_congr (if_pos hon)
    rw [State.hotReset_eq _ _ _ _ (gone.trans hp), parts, if_neg (by decide)] at run
    have near := ((SideRel.portNear p.isLt).portDown (s.contact p) p).trans (State.preserveAll_portNear _ p.isLt (s.partsOn p) 2 ts)
    obtain ⟨tr, n, m, e⟩ := near.same
    refine .next run ⟨?_, ?_, fun q hq hst hpo => State.preserveAll_preservedFor _ _ _ _ (State.mem_partsOn.mpr ⟨hq, hst, hpo⟩)⟩
    · rw [e, State.hport_modHport]
      exact perst
    · rw [e, State.hport_modHport]
      rfl
  case refine_5 => exact next_congr (if_neg (by simp [hp, hph, hf, hs]))
  case refine_6 =>
    unfold tokenOf
    extract_lets w
    split <;> simp_all
  case refine_7 => exact next_congr ((if_neg (by simp [ht])).trans ((if_neg (not_not_intro hr)).trans (by rw [hr])))
  case refine_8 =>
    have recent : (s.hub t).logicAt.filter (fun a => decide (s.cyc < a + hourCycles)) ≠ [] :=
      List.ne_nil_of_mem (List.mem_filter.mpr ⟨ha, decide_eq_true hc⟩)
    refine .next (next_congr ((if_neg (by simp [ht])).trans (if_pos recent))) (State.retireTile_retired _ _ _ _ ?_)
    rw [State.hub_modHub]
    exact ht
  case refine_9 =>
    refine ⟨?_, ?_, Keeps.modHub ..⟩ <;> rw [State.hub_modHub]

end Sys2Proof.Machine
end

section
/-! Loss of the input, warm resets and watchdogs (17 R655, R656; 18 R673, R684 to R690). -/

namespace Sys2Proof.Machine

/-! ### Below 36 V (17 R655; 18 R673) -/

theorem State.halt_stops (s : State) (c reason fld step : Nat) : ((s.halt c reason fld step).ctx c).st ≠ .running := by
  rcases hl : (s.ctx c).live with _ | _
  · rw [State.halt_ctx_of_dead _ _ _ _ _ _ hl]
    exact fun h => by simp [Ctx.live_of_running h] at hl
  · rw [State.halt_ctx _ _ _ _ _ hl]
    exact fun h => by cases h

/-- Every context halted (11 R469). -/
def State.haltAll (s : State) : State := (List.range 64).foldl (fun s c => s.halt c 0x39 15 (s.ctx c).next) s

theorem State.haltAll_stops (s : State) {c : Nat} (hc : c < 64) : (s.haltAll.ctx c).st ≠ .running :=
  foldl_reaches (P := fun c (u : State) => (u.ctx c).st ≠ .running) (fun u a => u.halt_stops a 0x39 15 _)
    (fun u a b h => ((SideRel.ctxStays b).halt u a _ _ _).stays h) _ _ (.inl (List.mem_range.mpr hc))

theorem State.preserveAll_ctxStays (s : State) (c : Nat) (qs : List Nat) (cause : Nat) (ts : List (BitVec 64)) :
    CtxStays c s (s.preserveAll qs cause ts) := by
  refine (SideRel.ctxStays c).foldl (fun u q => ?_) qs s
  refine (SideRel.ctxStays c).preserve _ _ _ _ (fun _ _ _ => .of_eq rfl) (fun _ _ => .of_eq rfl) (fun v k => .modCtx _ _ _ _ fun x hx => ?_)
  rwa [if_neg hx]

/-- The ports whose links are up taken down, their partitions preserved. -/
def State.allPortsDown (s : State) (ts : List (BitVec 64)) : State :=
  (List.range 4).foldl (fun s p => if (s.hport p).speed = 0 then s else (s.portDown p).preserveAll (s.partsOn p) 1 ts) s

theorem State.allPortsDown_ctxStays (s : State) (c : Nat) (ts : List (BitVec 64)) : CtxStays c s (s.allPortsDown ts) := by
  have h := SideRel.ctxStays c
  refine h.foldl (fun u p => h.ite (h.refl u) (h.trans ?_ (State.preserveAll_ctxStays ..))) _ _
  exact h.trans (t := u.modHport p Port.unlinked) (.of_eq rfl) (h.portDown u p)

/-- A port without a link has none after side effects. -/
theorem SideRel.noLink {k : Nat} (hk : k < 4) : SideRel (fun s t => (s.hport k).speed = 0 → (t.hport k).speed = 0) :=
  (SideRel.portNear hk).keeping fun s t near h => by
    obtain ⟨tr, n, m, e⟩ := near.same
    rw [e]
    exact h

theorem State.preserveAll_speed (s : State) {k : Nat} (hk : k < 4) (qs : List Nat) (cause : Nat) (ts : List (BitVec 64)) :
    ((s.preserveAll qs cause ts).hport k).speed = (s.hport k).speed := by
  obtain ⟨tr, n, m, e⟩ := (s.preserveAll_portNear hk qs cause ts).same
  rw [e]

theorem State.allPortsDown_speed (s : State) {k : Nat} (hk : k < 4) (ts : List (BitVec 64)) : ((s.allPortsDown ts).hport k).speed = 0 := by
  have noLink := SideRel.noLink hk
  have down (u : State) (p : Nat) (h : k = p ∨ (u.hport k).speed = 0) : ((u.portDown p).hport k).speed = 0 := by
    refine noLink.portDown u p ?_
    by_cases hp : k = p
    · subst hp
      rw [State.hport_modHport]
      rfl
    · rw [State.hport_modHport_ne _ _ _ _ hp]
      exact h.resolve_left hp
  refine foldl_reaches (P := fun b (u : State) => b = k → (u.hport k).speed = 0) (fun u p hp => ?_) (fun u p b h hb => ?_) _ _
    (.inl (List.mem_range.mpr hk)) rfl
  · subst hp
    split
    · assumption
    · rw [State.preserveAll_speed _ hk]
      exact down u p (.inl rfl)
  · split
    · exact h hb
    · rw [State.preserveAll_speed _ hk]
      exact down u p (.inr (h hb))

/-- Every stack put into stack self-refresh. -/
def State.allStacksAsleep (s : State) : State := (List.range 96).foldl State.enterStackSr s

theorem State.stack_enterStackSr (s : State) (a k : Nat) : (s.enterStackSr a).stack k = (s.modStack a (fun x => { x with sr := true })).stack k :=
  (Keeps.stack_eq (Keeps.loseNbus ..) rfl k).trans (Keeps.stack_eq (Keeps.putChans ..) rfl k)

theorem State.allStacksAsleep_sr (s : State) {k : Nat} (hk : k < 96) : (s.allStacksAsleep.stack k).sr = true := by
  refine foldl_reaches (P := fun b (u : State) => b = k → (u.stack k).sr = true) (fun u a h => ?_) (fun u a b h hb => ?_) _ _
    (.inl (List.mem_range.mpr hk)) rfl
  · rw [State.stack_enterStackSr, ← h, State.stack_modStack]
  · rw [State.stack_enterStackSr]
    by_cases ha : k = a
    · rw [← ha, State.stack_modStack]
    · rw [State.stack_modStack_ne _ _ _ _ ha]
      exact h hb

theorem Keeps.allStacksAsleep (s : State) : Keeps [.stks, .chans, .nbus] s s.allStacksAsleep := Keeps.foldl _ (fun u a => Keeps.enterStackSr u a) _ s

/-- What a power fail in service does (17 R655; 18 R673). -/
def State.failInService (s : State) (input : BitVec 10) (ts : List (BitVec 64)) : State :=
  let s1 := s.haltAll
  ((s1.liveTiles.foldl (fun s t => s.bboxHead t 8 [(24, 2, input.toNat)]) s1).allPortsDown ts).allStacksAsleep

theorem Keeps.failInService (s : State) (input : BitVec 10) (ts : List (BitVec 64)) :
    Keeps [.mem, .pois, .rows, .bspares, .stks, .chans, .nbus, .crus, .hubs, .me, .ve, .fe, .sp, .spPois, .ctxs, .parts, .pages, .streams, .ports,
      .dirs, .lines, .lands, .xacts, .groups, .logs, .pm, .act, .out] s (s.failInService input ts) := by
  have down (u : State) (p : Nat) :
      Keeps portDownParts u (if (u.hport p).speed = 0 then u else (u.portDown p).preserveAll (u.partsOn p) 1 ts) := by
    simp (disch := decide) only [State.preserveAll, Keeps.self_iff, Keeps.ite_iff, ite_self, Keeps.portDown_iff,
      Keeps.foldl_within fun _ _ => Keeps.preserve ..]
  simp (disch := decide) only [State.failInService, State.haltAll, State.allPortsDown, State.allStacksAsleep, Keeps.self_iff,
    Keeps.foldl_within fun _ _ => Keeps.halt .., Keeps.foldl_within fun _ _ => Keeps.bboxHead .., Keeps.foldl_within fun _ _ => Keeps.enterStackSr ..,
    Keeps.foldl_within down]

theorem State.failInService_spec (s : State) (input : BitVec 10) (ts : List (BitVec 64)) :
    (∀ c : Fin 64, ((s.failInService input ts).ctx c).st ≠ .running) ∧ (∀ k : Fin 96, ((s.failInService input ts).stack k).sr = true) ∧
      (∀ p : Fin 4, ((s.failInService input ts).hport p).speed = 0) := by
  refine ⟨fun c => ?_, fun k => State.allStacksAsleep_sr _ k.isLt, fun p => ?_⟩
  · refine ((SideRel.ctxStays c).foldl (fun u t => (SideRel.ctxStays c).keeps (Keeps.enterStackSr ..) rfl) _ _).stays ?_
    refine (State.allPortsDown_ctxStays _ c ts).stays (((SideRel.ctxStays c).foldl (fun u t => ?_) _ _).stays (s.haltAll_stops c.isLt))
    exact .of_eq ((Keeps.bboxHead ..).ctx_eq rfl c)
  · exact (congrArg Port.speed ((Keeps.allStacksAsleep _).hport_eq rfl p)).trans (State.allPortsDown_speed _ p.isLt ts)

/-- The input noted as failed. -/
def State.inputFails (s : State) (input : BitVec 10) : State := s.putPower { s.power with input := input.toNat, failed := true }

theorem State.inputFails_power (s : State) (input : BitVec 10) : (s.inputFails input).power = { s.power with input := input.toNat, failed := true } := rfl

theorem State.inputFails_boot (s : State) (input : BitVec 10) : (s.inputFails input).boot = s.boot := rfl

theorem exec_powerFail_service (s : State) (input : BitVec 10) (ts : List (BitVec 64)) (hon : s.power.on = true) (hf : s.power.failed = false)
    (hph : s.boot.phase = 15) :
    exec (.powerFail input ts) s = .next ((s.inputFails input).failInService input ts) :=
  next_congr ((if_neg (by simp [hon, hf])).trans (if_neg (not_not_intro hph)))

theorem exec_powerFail_out (s : State) (input : BitVec 10) (ts : List (BitVec 64)) (hon : s.power.on = true) (hf : s.power.failed = false)
    (hph : s.boot.phase ≠ 15) :
    exec (.powerFail input ts) s = .next (s.putPower { s.power with input := input.toNat, failed := true }) :=
  next_congr ((if_neg (by simp [hon, hf])).trans (if_pos hph))

/-! ### Below 30 V (17 R655) -/

theorem State.unpowered_spec (s : State) : s.unpowered.power = {} ∧ s.unpowered.boot.phase = 0 ∧ s.unpowered.regs = [] ∧ s.unpowered.mem = [] ∧
    s.unpowered.sp = [] ∧ s.unpowered.nbus = [] ∧ s.unpowered.boot.hashRec = s.boot.hashRec ∧ ∀ c : Fin 64, (s.unpowered.ctx c).st = .unbound := by
  have boot : s.settleSpares.boot = s.boot := (Keeps.settleSpares s).same .boot (by decide)
  refine ⟨rfl, rfl, rfl, rfl, rfl, rfl, (congrArg Boot.hashRec boot :), fun c => ?_⟩
  exact Tab.get_mapAll_has (P := fun x : Ctx => x.st = .unbound) _ _ _ _ rfl fun _ => rfl

/-! ### A warm reset (18 R686) -/

theorem State.resetHubs_stks (s : State) :
    s.resetHubs.stks = Tab.updMany (fun _ => {}) (fun k : StackSpares => { k.kept with sr := true }) (List.range 96) s.stks := by
  rw [State.resetHubs]

theorem State.resetHubs_spec (s : State) : (∀ c : Nat, (s.resetHubs.ctx c).st = .unbound) ∧ (∀ k : Fin 96, (s.resetHubs.stack k).sr = true) ∧
    s.resetHubs.power.failed = false := by
  refine ⟨fun c => ?_, fun k => ?_, rfl⟩
  · exact Tab.get_mapAll_has (P := fun x : Ctx => x.st = .unbound) _ _ _ _ rfl fun _ => rfl
  · rw [State.stack, State.resetHubs_stks]
    exact Tab.get_updMany_has (P := fun x : StackSpares => x.sr = true) _ _ (fun _ => rfl) _ _ _ (.inr (List.mem_range.mpr k.isLt))

/-- What a warm reset of `s` for `cause` leaves (18 R686 to R688). -/
def State.warmFrom (s : State) (cause : Nat) (t : State) : Prop :=
  t.boot.phase = 5 ∧ t.boot.warmBusy = true ∧ t.boot.want = none ∧ t.boot.xtalOk = [] ∧ t.boot.warmCnt = satNat 16 (s.boot.warmCnt + 1) ∧
    t.power.failed = false ∧ (∀ c : Fin 64, (t.ctx c).st = .unbound) ∧ (∀ k : Fin 96, (t.stack k).sr = true) ∧ t.boot.cause = cause

theorem State.warmReset_warmFrom (s : State) (cause : Nat) (r : BootReport) (hon : s.power.on = true) (hph : s.boot.phase = 15) :
    s.warmFrom cause (s.warmReset cause r) := by
  rw [State.warmReset, if_neg (by simp [hon, hph])]
  obtain ⟨ctxs, stks, -⟩ := (s.settleAll r).resetHubs_spec
  have kept := Keeps.takeId (s.settleAll r).resetHubs
  have unbound (c : Fin 64) : ((s.settleAll r).resetHubs.takeId.ctx c).st = .unbound := by rw [kept.ctx_eq rfl]; exact ctxs c
  have asleep (k : Fin 96) : ((s.settleAll r).resetHubs.takeId.stack k).sr = true := by rw [kept.stack_eq rfl]; exact stks k
  generalize (s.settleAll r).resetHubs.takeId = u at unbound asleep
  exact ⟨rfl, rfl, rfl, rfl, rfl, rfl, unbound, asleep, rfl⟩

/-! ### A watchdog (18 R690) -/

/-- The translation that runs on a tile put back to the front of its queue, to start again. -/
def Translator.restarted (x : Translator) : Translator := match x.run with
  | some j => { x with run := none, queue := { j with native := [], nmap := [], status := 0 } :: x.queue }
  | none => x

/-- A watchdog expiry of tile `i` recorded, and its translation made to start again. -/
def State.barked (s : State) (i : Nat) (recent : List Nat) : State :=
  ((s.modHub i (fun h => { h with wdogAt := recent })).bbox i 0x0F none 63 [(24, 1, recent.length)]).modTran i Translator.restarted

theorem Keeps.barked (s : State) (i : Nat) (recent : List Nat) : Keeps [.hubs, .trans] s (s.barked i recent) :=
  (((Keeps.modHub ..).append (Keeps.bbox ..)).append (Keeps.modTran ..)).mono rfl

theorem State.barked_hub (s : State) (i : Nat) (recent : List Nat) : ((s.barked i recent).hub i).wdogAt = recent := by
  rw [State.barked, Keeps.hub_eq (Keeps.modTran ..) rfl, State.bbox, State.bboxPut, State.hub_modHub]
  show (State.hub (s.modHub i _) i).wdogAt = recent
  rw [State.hub_modHub]

theorem State.barked_tran (s : State) (i : Nat) (recent : List Nat) : (s.barked i recent).tran i = (s.tran i).restarted := by
  rw [State.barked, State.tran_modTran, Keeps.tran_eq (Keeps.bbox ..) rfl]
  rfl

theorem Translator.restarted_spec (x : Translator) : x.restarted.run = none ∧
    ∀ j, x.run = some j → x.restarted.queue = { j with native := [], nmap := [], status := 0 } :: x.queue := by
  unfold Translator.restarted
  rcases h : x.run with _ | j
  · exact ⟨h, nofun⟩
  · exact ⟨rfl, fun j hj => by cases hj; rfl⟩

theorem exec_watchdogExpiry (s : State) (i : Fin 16) (r : BootReport) (hph : s.boot.phase = 15) (hi : (s.hub i).retired = false) (recent : List Nat)
    (hr : recent = s.cyc :: (s.hub i).wdogAt.filter (fun a => decide (s.cyc < a + secondCycles))) :
    exec (.watchdogExpiry i r) s = .next (
      let s3 := if s.fw.st = 3 then (s.barked i recent).fwRevert else s.barked i recent
      if i.val = s.boot.lead ∧ flag (s.reg 0 rRCVCFG) 0 = true ∧ 2 ≤ recent.length then s3.warmReset 4 r else s3) := by
  subst hr
  have fw : (s.barked i (s.cyc :: (s.hub i).wdogAt.filter (fun a => decide (s.cyc < a + secondCycles)))).fw = s.fw :=
    (Keeps.barked ..).same .fw (by decide)
  rw [← fw]
  exact next_congr (if_neg (by simp [hph, hi]))

/-- Settles O39: `State.failInService_spec` below 36 V, `State.unpowered_spec` below 30 V, `State.warmReset_warmFrom` for the warm resets, and
`exec_watchdogExpiry` for the watchdog. -/
theorem resetCommandsComplete : Obligations.ResetCommandsComplete := by
  unfold Obligations.ResetCommandsComplete
  refine ⟨fun s input ts hon hf hph => ?_, fun s input ts hon hf hph => .next (exec_powerFail_out s input ts hon hf hph) ⟨rfl, Keeps.putPower ..⟩,
    fun s hon => .next (next_congr (if_pos hon)) s.unpowered_spec, fun s r P hon hph hP => ⟨fun hw => ?_, fun hf => ?_⟩,
    fun s r hf hph => .next (next_congr ((if_pos hf).trans (if_neg hph))) ⟨rfl, Keeps.putPower ..⟩,
    fun s i r recent hph hi hfw hr hw => ?_, fun s i r hph hon hi hl ha' ha => ?_⟩
  case refine_1 =>
    have kept := Keeps.failInService (s.inputFails input) input ts
    obtain ⟨ctxs, stks, ports⟩ := State.failInService_spec (s.inputFails input) input ts
    have power := (kept.same .power (by decide)).trans (s.inputFails_power input)
    have boot := (kept.same .boot (by decide)).trans (s.inputFails_boot input)
    refine .next (exec_powerFail_service s input ts hon hf hph) ⟨?_, ?_, ?_, ctxs, stks, ports⟩
    · rw [power]
    · rw [power]
    · rw [boot, hph]
  case refine_2 =>
    have run : exec (.warmReset r) s = .next (s.warmReset (s.boot.want.getD 2) r) := next_congr (if_pos (by
      rcases hw with hw | hw
      · exact .inl (Option.isSome_iff_ne_none.mpr hw)
      · exact .inr hw))
    obtain ⟨phase, busy, want, xtal, cnt, failed, ctxs, stks, cause⟩ := s.warmReset_warmFrom (s.boot.want.getD 2) r hon hph
    subst hP
    exact .next run ⟨⟨phase, busy, want, xtal, cnt, failed, ctxs, stks⟩, cause⟩
  case refine_3 =>
    have run : exec (.powerReturn r) s = .next ((s.putPower { s.power with failed := false, input := 480 }).warmReset 3 r) :=
      next_congr ((if_pos hf).trans (if_pos hph))
    obtain ⟨phase, busy, want, xtal, cnt, failed, ctxs, stks, cause⟩ :=
      (s.putPower { s.power with failed := false, input := 480 }).warmReset_warmFrom 3 r hon hph
    subst hP
    exact .next run ⟨⟨phase, busy, want, xtal, cnt, failed, ctxs, stks⟩, cause⟩
  case refine_4 =>
    have run := exec_watchdogExpiry s i r hph hi recent hr
    simp only [if_neg hfw, if_neg hw] at run
    obtain ⟨none, restarted⟩ := (s.tran i).restarted_spec
    have kept := Keeps.barked s i recent
    refine .next run ⟨s.barked_hub i recent, ?_, fun j hj => ?_, kept.same .boot (by decide), kept⟩
    · rw [State.barked_tran, none]
    · rw [State.barked_tran, restarted j hj]
  case refine_5 =>
    have run := exec_watchdogExpiry s i r hph hi _ rfl
    have two : 2 ≤ (s.cyc :: (s.hub i).wdogAt.filter (fun a => decide (s.cyc < a + secondCycles))).length := by
      rw [List.length_cons]
      have := List.length_pos_iff.mpr ha
      omega
    simp only [if_pos (⟨hl, ha', two⟩ : _ ∧ _ ∧ _)] at run
    have kept := Keeps.barked s i (s.cyc :: (s.hub i).wdogAt.filter (fun a => decide (s.cyc < a + secondCycles)))
    generalize s.barked i (s.cyc :: (s.hub i).wdogAt.filter (fun a => decide (s.cyc < a + secondCycles))) = u at run kept
    have handed : Keeps [.hubs, .parts, .pages, .ports, .trans, .fw, .act, .out] s (if s.fw.st = 3 then u.fwRevert else u) := by
      split
      · exact (kept.append (Keeps.fwRevert u)).mono rfl
      · exact kept.mono rfl
    generalize (if s.fw.st = 3 then u.fwRevert else u) = v at run handed
    have boot := handed.same .boot (by decide)
    obtain ⟨phase, busy, -, -, -, -, -, -, cause⟩ :=
      v.warmReset_warmFrom 4 r (by rw [handed.same .power (by decide), hon]) (by rw [boot, hph])
    exact .next run ⟨phase, busy, cause⟩

end Sys2Proof.Machine
end

section
/-! Back-invalidates (14 R538 to R541). -/

namespace Sys2Proof.Machine

theorem Tab.find?_put {α : Type} (t : Tab α) (k : Nat) (v : α) (h : ∀ e ∈ t, e.1 ≠ k) : (Tab.put t k v).find? (fun e => e.1 == k) = some (k, v) := by
  induction t with
  | nil => simp [Tab.put]
  | cons e t ih =>
    obtain ⟨j, w⟩ := e
    rw [Tab.put]
    split
    · simp
    · have hj : j ≠ k := h _ List.mem_cons_self
      rw [List.find?_cons_of_neg (by simpa using hj)]
      exact ih fun e he => h e (List.mem_cons_of_mem _ he)

theorem Tab.ne_of_mem_erase {α : Type} (t : Tab α) (k : Nat) : ∀ e ∈ Tab.erase t k, e.1 ≠ k := by
  induction t with
  | nil => exact fun e he => nomatch he
  | cons a t ih =>
    obtain ⟨j, w⟩ := a
    rw [Tab.erase]
    split
    · exact ih
    · next hj =>
      intro e he
      rcases List.mem_cons.mp he with rfl | he
      · exact hj
      · exact ih e he

/-- What was written at a number is the entry found under it. -/
theorem Tab.find?_set {α : Type} [DecidableEq α] (d : Nat → α) (t : Tab α) (k : Nat) (v : α) (hv : v ≠ d k) :
    (Tab.set d t k v).find? (fun e => e.1 == k) = some (k, v) := by
  rw [Tab.set, if_neg hv]
  exact Tab.find?_put _ _ _ (Tab.ne_of_mem_erase t k)

/-! ### The home of a line (14 R538) -/

/-- A whole line written at its home reads back, not poisoned where it came so. -/
theorem State.homeRead_homeWrite_whole (s : State) (sa : Nat) (d : Line512) (pois : Bool) :
    (s.homeWrite sa d (BitVec.allOnes 64) pois).homeRead sa = (mergeLine (BitVec.allOnes 64) (s.homeRead sa).1 d, pois) := by
  have found := Tab.find?_set (fun _ => ({} : Line)) s.lines (sa / 64) { data := mergeLine (BitVec.allOnes 64) (s.homeRead sa).1 d, poison := pois, dirty := true }
    (fun h => Bool.noConfusion (congrArg Line.dirty h))
  have lines : (s.homeWrite sa d (BitVec.allOnes 64) pois).lines =
      Tab.set (fun _ => {}) s.lines (sa / 64) { data := mergeLine (BitVec.allOnes 64) (s.homeRead sa).1 d, poison := pois, dirty := true } := by
    simp [State.homeWrite]
  rw [State.homeRead, lines, found]

/-! ### Answers to snoops (14 R539, R540) -/

/-- The entry of the line answered for, cleared of the snoop, or gone where the host gave the line up. -/
def State.snoopDone (s : State) (t line : Nat) (e : Dir) : State :=
  s.modDir t (fun es =>
    if e.snoop = 2 then es.filter (fun x => x.line != line)
    else es.map (fun x => if x.line == line then { x with modified := false, snoop := 0, wait := none } else x))

theorem State.homeRead_snoopDone (s : State) (t line : Nat) (e : Dir) (sa : Nat) : (s.snoopDone t line e).homeRead sa = s.homeRead sa := rfl

theorem State.dir_snoopDone (s : State) (t line : Nat) (e : Dir) : ∀ x ∈ (s.snoopDone t line e).dir t, x.line = line →
    e.snoop ≠ 2 ∧ x.snoop = 0 ∧ x.modified = false := by
  intro x hx hl
  rw [State.snoopDone, State.dir_modDir] at hx
  split at hx
  · simp [hl] at hx
  · next h2 =>
    obtain ⟨y, -, rfl⟩ := List.mem_map.mp hx
    by_cases hy : y.line = line
    · rw [if_pos (by simpa using hy)]
      exact ⟨h2, rfl, rfl⟩
    · rw [if_neg (by simpa using hy)] at hl
      exact absurd hl hy

section
variable {s : State} {t : Fin 16} {line : BitVec 37} {e : Dir} (he : (s.dir t).find? (fun e => e.line == line.toNat && e.snoop != 0) = some e)
include he

theorem exec_biResponse_data (hw : e.wait = none) (d : BitVec 512) :
    exec (.biResponse t line (some d)) s = .next ((s.homeWrite (line.toNat * 64) d (BitVec.allOnes 64) false).snoopDone t line.toNat e) := by
  show execBiResponse t line (some d) s = _
  simp only [execBiResponse, he, hw]
  rfl

theorem exec_biResponse_none (hw : e.wait = none) : exec (.biResponse t line none) s = .next (s.snoopDone t line.toNat e) := by
  show execBiResponse t line none s = _
  simp only [execBiResponse, he, hw]
  rfl

end

/-! ### Time-outs (14 R541) -/

/-- The time-out counted and logged, the snoop given up. -/
def State.snoopLate (s : State) (t line : Nat) (e : Dir) : State :=
  let s1 := s.modDir t (fun es => es.map (fun x => if x.line == line then { x with snoop := 0, wait := none } else x))
  (s1.putLogs { s1.logs with bitmout := satNat 16 (s1.logs.bitmout + 1) }).logError (s.lineOfSa (line * 64)) 127 3 7 127
    (e.wait.bind (fun w => w.part)) (line * 64)

theorem Keeps.snoopLate (s : State) (t line : Nat) (e : Dir) : Keeps [.dirs, .hubs, .logs] s (s.snoopLate t line e) :=
  (((Keeps.modDir ..).append (Keeps.putLogs ..)).append (Keeps.logError ..)).mono rfl

theorem State.logError_bitmout (s : State) (line col kind path ncorr : Nat) (part : Option Nat) (addr : Nat) :
    (s.logError line col kind path ncorr part addr).logs.bitmout = s.logs.bitmout := by
  unfold State.logError
  extract_lets lg loc correctable prior lg1 code info words s1
  clear_value prior
  cases prior with
  | some e => rfl
  | none =>
    have boxed : (s1.bbox (locOfLine line).tile 2 part 63 [(24, 8, s.stamp), (32, 8, loc), (40, 8, info), (48, 8, addr)]).logs = s1.logs :=
      (Keeps.bbox ..).same .logs (by decide)
    rw [boxed]
    rfl

theorem State.snoopLate_bitmout (s : State) (t line : Nat) (e : Dir) : (s.snoopLate t line e).logs.bitmout = satNat 16 (s.logs.bitmout + 1) :=
  State.logError_bitmout ..

theorem State.dir_snoopLate (s : State) (t line : Nat) (e : Dir) : (∀ x ∈ (s.snoopLate t line e).dir t, x.line = line → x.snoop = 0) ∧
    ((s.snoopLate t line e).dir t).length = (s.dir t).length := by
  have dir : (s.snoopLate t line e).dir t = (s.dir t).map (fun x => if x.line == line then { x with snoop := 0, wait := none } else x) := by
    rw [State.snoopLate, (Keeps.logError ..).dir_eq rfl, (Keeps.putLogs ..).dir_eq rfl, State.dir_modDir]
  rw [dir]
  refine ⟨fun x hx hl => ?_, List.length_map _⟩
  obtain ⟨y, -, rfl⟩ := List.mem_map.mp hx
  by_cases hy : y.line = line
  · rw [if_pos (by simpa using hy)]
  · rw [if_neg (by simpa using hy)] at hl
    exact absurd hl hy

section
variable {s : State} {t : Fin 16} {line : BitVec 37} {e : Dir} (he : (s.dir t).find? (fun e => e.line == line.toNat && e.snoop != 0) = some e)
include he

theorem exec_biTimeout_ferry {w : Waiter} {f : Nat × Nat} (hw : e.wait = some w) (hf : w.ferry = some f) :
    exec (.biTimeout t line) s = .next ((s.snoopLate t line.toNat e).modFchan (16 * f.1 + f.2) (fun c =>
      { c with biWait := false, biBad := line.toNat :: c.biBad })) := by
  show execBiTimeout t line s = _
  simp only [execBiTimeout, he, hw, hf, State.snoopLate]

theorem exec_biTimeout_host {w : Waiter} {h : Nat × Nat × Bool} (hw : e.wait = some w) (hf : w.ferry = none) (hh : w.host = some h) :
    exec (.biTimeout t line) s =
      .next ((s.snoopLate t line.toNat e).answer { kind := 1, data := List.replicate 64 0, poison := true }) := by
  show execBiTimeout t line s = _
  simp only [execBiTimeout, he, hw, hf, hh, State.snoopLate]
end

/-- Settles O18: `State.dir_snoopDone` and `State.homeRead_homeWrite_whole` for the answers, `State.dir_snoopLate` for the time-outs. -/
theorem snoopCommandsComplete : Obligations.SnoopCommandsComplete := by
  unfold Obligations.SnoopCommandsComplete
  refine ⟨fun s t line e d he hw h2 => .next (exec_biResponse_data he hw d) ⟨fun x hx hl => ?_, ?_, ?_⟩,
    fun s t line e he hw h2 => .next (exec_biResponse_none he hw) ⟨fun x hx hl => ?_, ?_, ?_⟩,
    fun s t line e f w he hw hf => .next (exec_biTimeout_ferry he hw hf) ⟨?_, ?_, ?_, ?_, ?_, ?_⟩,
    fun s t line e h w he hw hf hh => .next (exec_biTimeout_host he hw hf hh) ⟨?_, ?_, ?_, ?_⟩⟩
  case refine_1 => exact (State.dir_snoopDone _ _ _ _ x hx hl).1 h2
  case refine_2 =>
    rw [State.homeRead_snoopDone]
    exact s.homeRead_homeWrite_whole (line.toNat * 64) d false
  case refine_3 => exact Keeps.sameBanks_of ((Keeps.homeWrite ..).append (Keeps.modDir ..))
  case refine_4 => exact (State.dir_snoopDone _ _ _ _ x hx hl).2
  case refine_5 => exact (Keeps.modDir ..).same .lines (by decide)
  case refine_6 => exact Keeps.sameBanks_of (Keeps.modDir ..)
  case refine_7 =>
    rw [(Keeps.modFchan ..).dir_eq rfl]
    exact (s.dir_snoopLate t line.toNat e).1
  case refine_8 =>
    rw [(Keeps.modFchan ..).dir_eq rfl]
    exact (s.dir_snoopLate t line.toNat e).2
  case refine_9 => rw [(Keeps.modFchan ..).same .logs (by decide), State.snoopLate_bitmout]
  case refine_10 => rw [State.fchan_modFchan]
  case refine_11 =>
    rw [State.fchan_modFchan]
    exact List.mem_cons_self
  case refine_12 => exact Keeps.sameBanks_of ((Keeps.snoopLate ..).append (Keeps.modFchan ..))
  case refine_13 =>
    rw [(Keeps.answer ..).dir_eq rfl]
    exact (s.dir_snoopLate t line.toNat e).1
  case refine_14 => rw [(Keeps.answer ..).same .logs (by decide), State.snoopLate_bitmout]
  case refine_15 => rfl
  case refine_16 => exact Keeps.sameBanks_of ((Keeps.snoopLate ..).append (Keeps.answer ..))

end Sys2Proof.Machine
end

section
/-! Slices of the matrix engine (08 R326 to R336). -/

namespace Sys2Proof.Machine

/-- A slice retired is listed so, and the test in hand stays. -/
theorem State.retireSlice_mat (s : State) (t sl step : Nat) (part : Option Nat) (ctx : Nat) :
    ((s.retireSlice t sl step part ctx).mat t).testing = (s.mat t).testing ∧ sl ∈ ((s.retireSlice t sl step part ctx).mat t).retired := by
  unfold State.retireSlice
  extract_lets m pos s0 parts
  have same : s0.mat t = s.mat t := (Keeps.bbox ..).mat_eq rfl t
  split
  · rw [State.mat_modMat]
    exact ⟨(congrArg Matrix.testing same :), List.mem_append_right _ List.mem_cons_self⟩
  · rw [State.mat_modMat]
    exact ⟨(congrArg Matrix.testing same :), List.mem_append_right _ List.mem_cons_self⟩
  · extract_lets s1 nw
    rw [(Keeps.foldl (L := [.parts, .pages, .ports, .act, .out]) _ (fun _ _ => Keeps.event ..) parts s1).mat_eq rfl, State.mat_modMat]
    exact ⟨(congrArg Matrix.testing same :), List.mem_append_right _ List.mem_cons_self⟩

/-! ### Mismatches (08 R332, R333) -/

/-- Panels waiting, those of the last wave at a position poisoned: `older` last panels of earlier waves come first. -/
def poisonedAt (pos older : Nat) (l : List (Nat × Panel)) : List (Nat × Panel) :=
  l.zipIdx.map (fun w =>
    if w.1.2.pos = pos ∧ older ≤ ((l.take w.2).filter (fun v => v.2.lastw)).length then (w.1.1, { w.1.2 with poison := true }) else w.1)

/-- The panels that a mismatch reaches, in the run `r` it is found in. -/
def Matrix.struck (m : Matrix) (r : MeRun) (pos : Nat) : Matrix :=
  if r.active then m.modActive (fun r => { r with hit := pos :: r.hit })
  else { m.modLast (fun q => { q with
      waiting := poisonedAt pos ((r.waiting.filter (fun w => w.2.lastw)).length - 1) q.waiting, poison := q.poison || q.st.keep }) with
    res := if r.st.keep then m.res.map (fun q => { q with poison := (pos :: q.poison).eraseDups }) else m.res }

/-- A mismatch counted against the slice that serves the position, its panels poisoned and its black-box record put. -/
def State.mismatched (s : State) (t pos : Nat) (r : MeRun) : State :=
  let sl := (s.mat t).serve.getD pos 0
  ((s.modMat t (fun m => { m with
      faults := satNat 8 (m.faults + 1), faultAt := Tab.set (fun _ => []) m.faultAt sl (s.cyc :: m.recent s.cyc sl) })).modMat t
    (fun m => m.struck r pos)).bbox t 6 (s.ctx r.st.ctx).part r.st.ctx [(24, 1, sl), (25, 1, pos), (26, 1, 0), (27, 3, r.st.step)]

theorem Keeps.mismatched (s : State) (t pos : Nat) (r : MeRun) : Keeps [.me, .hubs] s (s.mismatched t pos r) :=
  (((Keeps.modMat ..).append (Keeps.modMat ..)).append (Keeps.bbox ..)).mono rfl

theorem exec_peMismatch (s : State) (tile : Fin 16) (pos : Fin 20) (r : MeRun)
    (hr : ((s.mat tile).runs.find? (fun r => r.active) <|> (s.mat tile).runs.getLast?) = some r) (hw : 0 < r.wave)
    (hpos : pos.val < (s.mat tile).serve.length) (hx : ∃ x ∈ r.roods (r.wave - 1), x.1 = pos.val) (hfree : (s.mat tile).free ≠ none) :
    exec (.peMismatch tile pos) s = .next ((s.mismatched tile pos r).modMat tile (fun m => { m with swapPos := some pos.val })) := by
  have reached : ¬ (r.wave = 0 ∨ (s.mat tile).serve.length ≤ pos.val ∨ ((r.roods (r.wave - 1)).any (fun x => x.1 == pos.val)) = false) := by
    obtain ⟨x, hx, hxp⟩ := hx
    have any : (r.roods (r.wave - 1)).any (fun x => x.1 == pos.val) = true := List.any_eq_true.mpr ⟨x, hx, by simpa using hxp⟩
    simp only [any, Bool.true_eq_false, or_false]
    omega
  show execPeMismatch tile pos s = _
  simp only [execPeMismatch, hr, if_neg reached, Option.isSome_iff_ne_none.mpr hfree]
  rfl

theorem length_poisonedAt (pos older : Nat) (l : List (Nat × Panel)) : (poisonedAt pos older l).length = l.length := by
  rw [poisonedAt, List.length_map, List.length_zipIdx]

/-- With no earlier wave's panels waiting, every panel of the position is poisoned. -/
theorem poison_of_mem_poisonedAt {pos : Nat} {l : List (Nat × Panel)} : ∀ w ∈ poisonedAt pos 0 l, w.2.pos = pos → w.2.poison = true := by
  intro w hw hp
  obtain ⟨v, -, rfl⟩ := List.mem_map.mp hw
  by_cases h : v.1.2.pos = pos
  · rw [if_pos ⟨h, Nat.zero_le _⟩]
  · rw [if_neg (fun g => h g.1)] at hp
    exact absurd hp h

theorem Matrix.struck_kept (m : Matrix) (r : MeRun) (pos : Nat) : (m.struck r pos).serve = m.serve ∧ (m.struck r pos).faults = m.faults := by
  unfold Matrix.struck Matrix.modActive Matrix.modLast
  split
  · exact ⟨rfl, rfl⟩
  · cases m.runs.getLast? <;> exact ⟨rfl, rfl⟩

theorem Matrix.struck_runs_active (m : Matrix) (r : MeRun) (pos : Nat) (h : r.active = true) : ∀ q ∈ (m.struck r pos).runs, q.active = true → pos ∈ q.hit := by
  rw [Matrix.struck, if_pos h, Matrix.modActive]
  intro q hq ha
  obtain ⟨v, -, rfl⟩ := List.mem_map.mp hq
  by_cases hv : v.active = true
  · rw [if_pos hv]
    exact List.mem_cons_self
  · rw [if_neg hv] at ha
    exact absurd ha hv

theorem Matrix.struck_runs_drains (m : Matrix) (r : MeRun) (front : List MeRun) (pos : Nat) (h : r.active = false) (hr : m.runs = front ++ [r]) :
    (m.struck r pos).runs = front ++ [{ r with
      waiting := poisonedAt pos ((r.waiting.filter (fun w => w.2.lastw)).length - 1) r.waiting, poison := r.poison || r.st.keep }] := by
  simp [Matrix.struck, h, Matrix.modLast, hr]

theorem State.mat_mismatched (s : State) (t pos : Nat) (r : MeRun) : ∃ m : Matrix, (s.mismatched t pos r).mat t = m.struck r pos ∧
    m.serve = (s.mat t).serve ∧ m.faults = satNat 8 ((s.mat t).faults + 1) ∧ m.runs = (s.mat t).runs := by
  unfold State.mismatched
  extract_lets sl
  refine ⟨_, ((Keeps.bbox ..).mat_eq rfl t).trans ((State.mat_modMat ..).trans (congrArg (Matrix.struck · r pos) (State.mat_modMat ..))), rfl, rfl, rfl⟩

/-! ### Slices ungated (08 R328, R329) -/

/-- Slice `sl` of tile `t` ungated by its admission. -/
def State.sliceOpened (s : State) (t sl : Nat) : State :=
  (s.modHub t (fun h => { h with admitted := h.admitted.erase (2, sl) })).modMat t (fun m => { m with
    ungated := if m.ungated.contains sl then m.ungated else sl :: m.ungated
    usedAt := Tab.set (fun _ => 0) m.usedAt sl s.cyc, opened := Tab.set (fun _ => 0) m.opened sl s.cyc })

theorem State.sliceOpened_ungated (s : State) (t sl : Nat) : sl ∈ ((s.sliceOpened t sl).mat t).ungated := by
  rw [State.sliceOpened, State.mat_modMat]
  split
  · next h => simpa using h
  · exact List.mem_cons_self

/-- MWAKE steps that complete leave the slices as they are. -/
theorem State.wakeDone_ungated (s : State) (t : Nat) : ((s.wakeDone t).mat t).ungated = (s.mat t).ungated := by
  unfold State.wakeDone
  extract_lets m
  split
  · rw [(Keeps.foldl (L := [.ctxs, .parts, .ports, .act, .out]) _ (fun _ _ => Keeps.stepDone ..) m.wake _).mat_eq rfl, State.mat_modMat]
  · rfl

/-- Settles O30: `exec_peMismatch` with `State.mat_mismatched` for the mismatches, `State.retireSlice_mat` for the tests. -/
theorem sliceCommandsComplete : Obligations.SliceCommandsComplete := by
  unfold Obligations.SliceCommandsComplete
  refine ⟨fun s tile r hr hruns hq => ?_, fun s tile pos r hr hw hpos hx hfree => ?_, fun s tile pos r front hruns hw ha hpos hx hfree => ?_,
    fun s tile sl ht hworn hserve hfree => ?_, fun s tile sl ht => ?_, fun s tile hi hfree ht hsw hserve => ?_,
    fun s tile slice hu hi hruns hres hidle => ?_, fun s tile slice ha => ?_⟩
  case refine_1 =>
    obtain ⟨e, he, hop, hctx⟩ := hq
    have waits : (s.mat tile).queue.any (fun e => e.op == 0 && e.ctx % 4 != r.ctx) = true :=
      List.any_eq_true.mpr ⟨e, he, by simp [hop, hctx]⟩
    have run : exec (.keepmaxExpiry tile) s = .next (s.modMat tile (fun m => { m with res := none, dropped := r.ctx :: m.dropped.filter (· != r.ctx) })) := by
      show execKeepmaxExpiry tile s = _
      simp only [execKeepmaxExpiry, hr, if_pos (⟨hruns, waits⟩ : _ ∧ _)]
    refine .next run ⟨?_, ?_, Keeps.modMat ..⟩ <;> rw [State.mat_modMat]
    exact List.mem_cons_self
  case refine_2 =>
    obtain ⟨m, same, serve, faults, -⟩ := s.mat_mismatched tile pos r
    have active : r.active = true := List.find?_some hr
    refine .next (exec_peMismatch s tile pos r (by rw [hr]; rfl) hw hpos hx hfree) ⟨?_, ?_, ?_, ?_, ?_⟩
    · rw [State.mat_modMat]
    · rw [State.mat_modMat, same, (m.struck_kept r pos).1, serve]
    · rw [State.mat_modMat, same, (m.struck_kept r pos).2, faults]
    · rw [State.mat_modMat, same]
      exact m.struck_runs_active r pos active
    · exact ((Keeps.mismatched ..).append (Keeps.modMat ..)).sameBanks_of
  case refine_3 =>
    obtain ⟨m, same, serve, faults, runs⟩ := s.mat_mismatched tile pos r
    have idle : (s.mat tile).runs.find? (fun r => r.active) = none := List.find?_eq_none.mpr fun q hq => by simp [ha q hq]
    have last : (s.mat tile).runs.getLast? = some r := by rw [hruns, List.getLast?_concat]
    have drains : r.active = false := ha r (by rw [hruns]; exact List.mem_concat_self)
    refine .next (exec_peMismatch s tile pos r (by rw [idle, last]; rfl) hw hpos hx hfree) ⟨?_, ?_, ?_,
      ⟨{ r with waiting := poisonedAt pos ((r.waiting.filter (fun w => w.2.lastw)).length - 1) r.waiting, poison := r.poison || r.st.keep }, ?_, ?_, ?_⟩, ?_⟩
    · rw [State.mat_modMat]
    · rw [State.mat_modMat, same, (m.struck_kept r pos).1, serve]
    · rw [State.mat_modMat, same, (m.struck_kept r pos).2, faults]
    · rw [State.mat_modMat, same]
      exact m.struck_runs_drains r front pos drains (runs.trans hruns)
    · exact length_poisonedAt ..
    · intro one w hw hp
      simp only [Nat.sub_eq_zero_of_le one] at hw
      exact poison_of_mem_poisonedAt w hw hp
    · exact ((Keeps.mismatched ..).append (Keeps.modMat ..)).sameBanks_of
  case refine_4 =>
    have run : exec (.sliceTestDone tile true) s =
        .next ((s.modMat tile (fun m => { m with testing := none })).modMat tile (fun m => { m with free := some sl })) := by
      show execSliceTestDone tile true s = _
      simp [execSliceTestDone, ht, hworn, hserve, hfree]
    refine .next run ⟨?_, ?_, ?_, ((Keeps.modMat ..).append (Keeps.modMat ..)).mono rfl⟩ <;> rw [State.mat_modMat, State.mat_modMat]
  case refine_5 =>
    have run : exec (.sliceTestDone tile false) s = .next ((s.modMat tile (fun m => { m with testing := none })).retireSlice tile sl 0 none 63) := by
      show execSliceTestDone tile false s = _
      simp [execSliceTestDone, ht]
    obtain ⟨testing, retired⟩ := (s.modMat tile (fun m => { m with testing := none })).retireSlice_mat tile sl 0 none 63
    refine .next run ⟨?_, retired, ((Keeps.modMat ..).append (Keeps.retireSlice ..)).sameBanks_of⟩
    rw [testing, State.mat_modMat]
  case refine_6 =>
    have run : exec (.sliceSwapTest tile) s = .next (s.modMat tile (fun m => { m with
        swapPos := some m.nextSwap, nextSwap := (m.nextSwap + 1) % m.serve.length })) :=
      next_congr (if_pos ⟨hi, Option.isSome_iff_ne_none.mpr hfree, ht, hsw, hserve⟩)
    refine .next run ⟨?_, ?_, Keeps.modMat ..⟩ <;> rw [State.mat_modMat]
  case refine_7 =>
    have run : exec (.sliceGate tile slice) s = .next (s.modMat tile (fun m => { m with ungated := m.ungated.erase slice.val })) :=
      next_congr (if_pos ⟨by simpa using hu, hi, hruns, by simp [hres], hidle⟩)
    refine .next run ⟨?_, Keeps.modMat ..⟩
    rw [State.mat_modMat]
  case refine_8 =>
    have run : exec (.sliceUngate tile slice) s = .next ((s.sliceOpened tile slice).wakeDone tile) := next_congr (if_pos ha)
    refine .next run ⟨?_, ?_, ?_⟩
    · rw [State.wakeDone_ungated]
      exact s.sliceOpened_ungated tile slice
    · rw [Keeps.hub_eq (Keeps.wakeDone ..) rfl, State.sliceOpened, Keeps.hub_eq (Keeps.modMat ..) rfl, State.hub_modHub]
    · exact (((Keeps.modHub ..).append (Keeps.modMat ..)).append (Keeps.wakeDone ..)).sameBanks_of

end Sys2Proof.Machine
end

section
/-! A slot's clear (15 R584). -/

namespace Sys2Proof.Machine

/-! ### A slot's clear over a table that lists a row twice (15 R584)

`Tab.mapAll` drops an entry that reads as an unlisted one. Where the table of rows lists a row of another parcel twice, dropping the first entry lets
the second be read, and with it its cell errors. -/

/-- The state with a slot's parcel cleared, before the clear is reported. -/
def State.slotCleared (s : State) (slot : Nat) : State :=
  ((s.overwrite (s.slot slot).phys).putLines (s.lines.filter (fun e => e.1 * 64 / slotBytes != slot))).clearParcel (s.slot slot).phys

theorem exec_slotClearDone (s : State) (slot : Fin 7168) (hb : (s.slot slot).clearBusy = true) (hm : (s.slot slot).moveTo = none) :
    ∃ t, exec (.slotClearDone slot) s = .next t ∧ Keeps [.slots, .hubs, .parts, .pages, .ports, .act, .out] (s.slotCleared slot) t := by
  refine ⟨_, next_congr (if_pos hb), ?_⟩
  simp only [hm]
  generalize (s.slot slot).owner = o
  cases o <;>
    simp (disch := decide) only [Keeps.self_iff, Keeps.ite_iff, ite_self, Keeps.finishDestroy_iff, Keeps.foldl_within fun _ _ => Keeps.complete ..,
      Keeps.modSlot_iff, Keeps.modHub_iff, State.slotCleared]

theorem State.slotCleared_rows (s : State) (slot : Nat) :
    (s.slotCleared slot).rows = Tab.mapAll rowDefault (clearedRow (s.slot slot).phys) s.rows ∧
      (s.slotCleared slot).pois = s.pois.filter (fun e => parcelOfLine (e.1 / 2) != (s.slot slot).phys) ∧
      (s.slotCleared slot).mem = s.mem.filter (fun e => parcelOfLine (e.1 / 64) != (s.slot slot).phys) := by
  have before := (Keeps.overwrite s (s.slot slot).phys).append (Keeps.putLines _ ((s.lines.filter (fun e => e.1 * 64 / slotBytes != slot))))
  have rows := before.same .rows (by decide)
  have pois := before.same .pois (by decide)
  have mem := before.same .mem (by decide)
  refine ⟨?_, ?_, ?_⟩
  · exact congrArg (Tab.mapAll rowDefault (clearedRow (s.slot slot).phys)) rows
  · exact congrArg (List.filter (fun e : Nat × Bool => parcelOfLine (e.1 / 2) != (s.slot slot).phys)) pois
  · exact congrArg (List.filter (fun e : Nat × Byte => parcelOfLine (e.1 / 64) != (s.slot slot).phys)) mem

/-- Memory alone, as far as the checks of the columns depend on it. -/
def State.cellsOnly (s : State) : State := { State.reset with mem := s.mem, pois := s.pois, rows := s.rows }

theorem State.lineBad_cellsOnly (s : State) (k : Nat) : s.cellsOnly.lineBad k = s.lineBad k := rfl

/-- Row 128 listed twice, as an unlisted row first. -/
def rowListedTwice : Tab RowMeta := [(128, rowDefault 128), (128, { rowDefault 128 with errs := [256] })]

/-- Both columns of line 0 of row 128 poisoned. -/
def linePoisoned : Tab Bool := [(colKey 128 0, true), (colKey 128 1, true)]

/-- Slot 0, bound to parcel 0, at the end of its clear, with that table of rows; row 128 lies in parcel 1. -/
def endsClear : State := { State.reset with slots := [(0, { phys := 0, clearBusy := true })], rows := rowListedTwice, pois := linePoisoned }

theorem lineBad_endsClear : endsClear.lineBad 4096 = true := by decide +kernel

theorem not_lineBad_slotCleared {t : State} (hr : t.rows = (endsClear.slotCleared 0).rows) (hp : t.pois = (endsClear.slotCleared 0).pois)
    (hm : t.mem = (endsClear.slotCleared 0).mem) : t.lineBad 4096 = false := by
  obtain ⟨rows, pois, mem⟩ := endsClear.slotCleared_rows 0
  have cells : t.cellsOnly = { State.reset with rows := [(128, { rowDefault 128 with errs := [256] })], pois := linePoisoned } := by
    rw [State.cellsOnly, hr, hp, hm, rows, pois, mem]
    rfl
  rw [← State.lineBad_cellsOnly, cells]
  decide +kernel

/-- Refutes O19: where row 128 is listed twice, as an unlisted row first, the clear of slot 0 drops the first entry, and line 4096 of another parcel
no longer reads as poisoned. -/
theorem not_clearsAndResetsComplete : ¬ Obligations.ClearsAndResetsComplete := by
  unfold Obligations.ClearsAndResetsComplete
  rintro ⟨-, -, cleared, -⟩
  obtain ⟨t, ht, -, -, -, -, -, -, kept⟩ := cleared endsClear 0 rfl rfl
  obtain ⟨u, hu, keeps⟩ := exec_slotClearDone endsClear 0 rfl rfl
  cases ht.symm.trans hu
  have lost := not_lineBad_slotCleared (keeps.same .rows (by decide)) (keeps.same .pois (by decide)) (keeps.same .mem (by decide))
  have same := kept 4096 (by decide)
  rw [lineBad_endsClear, lost] at same
  exact Bool.false_ne_true same

end Sys2Proof.Machine
end

section
/-! Observation (19 R711 to R727) and the index registers. -/

namespace Sys2Proof.Machine

theorem State.setReg_reg_self (s : State) (p off v : Nat) (h : v < 2 ^ 64) : (s.setReg p off v).reg p off = v := by
  rw [State.setReg_reg, if_pos rfl, Nat.mod_eq_of_lt h]

theorem mod_two_pow_lt (v : Nat) {n : Nat} (h : n ≤ 64) : v % 2 ^ n < 2 ^ 64 :=
  Nat.lt_of_lt_of_le (Nat.mod_lt _ (Nat.two_pow_pos n)) (Nat.pow_le_pow_right (by decide) h)

theorem field_lt (w lo n : Nat) : field w lo n < 2 ^ n := Nat.mod_lt _ (Nat.two_pow_pos n)

/-! ### Black boxes (19 R716) -/

theorem Box.startCommit_kept (b : Box) : b.startCommit.next = b.next ∧ b.startCommit.slots = b.slots := by
  unfold Box.startCommit
  split <;> exact ⟨rfl, rfl⟩

theorem Box.commit_kept (b : Box) (t : Nat) (held : Bool) {h : Happening} {lost : Nat} (hc : b.cur = some (h, lost)) :
    (b.commit t held).next = (b.next + 1) % 2 ^ 48 ∧
      (b.commit t held).slots = Tab.set (fun _ => []) b.slots (b.next % 16384) (recordBytes t b.next lost h) := by
  unfold Box.commit
  rw [hc]
  extract_lets b1
  split
  · exact ⟨rfl, rfl⟩
  · exact b1.startCommit_kept

/-! ### Trace records (19 R711) -/

/-- A write that the host has observed is no longer on its way. -/
theorem State.hostDone_gone (s : State) (w : HostWrite) : ∀ v ∈ (s.hostDone w true).out.inflight, v.id ≠ w.id := by
  intro v hv
  simp only [State.hostDone, Bool.not_true, Bool.false_and, if_true, Bool.false_eq_true, if_false, State.putOut_out] at hv
  obtain ⟨u, hu, rfl⟩ := List.mem_map.mp hv
  simpa using (List.mem_filter.mp hu).2

theorem Keeps.hostDone_observed (s : State) (w : HostWrite) : Keeps [.out] s (s.hostDone w true) := by
  unfold State.hostDone
  extract_lets rest marked anyWait freed out s1 s2
  exact Keeps.putOut ..

theorem trcctlAfter_lt (old v : Nat) : trcctlAfter old v < 2 ^ 64 := by
  unfold trcctlAfter
  extract_lets sz en
  have size : sz < 2 ^ 5 := by
    simp only [sz]
    split <;> exact field_lt ..
  have on : nat en ≤ 1 := by cases en <;> decide
  have stop := field_lt v 8 8
  omega

/-! ### Index registers -/

theorem field_mod (v n : Nat) : field (v % 2 ^ n) 0 n = field v 0 n := by simp [field]

/-- A register that names a tile by its low four bits is ignored for the same values whether the rest is dropped first or not. -/
theorem State.writesAbsent_tile (s : State) (off v : Nat) (h : off ∈ [rMEIDX, rCLKIDX]) : s.writesAbsent off (v % 16) = s.writesAbsent off v := by
  have tile : [rMEIDX, rVEIDX, rFEIDX, rSQIDX, rTRIDX, rCLKIDX, rXLIDX, rPMIDX].contains off = true := by
    simp only [List.mem_cons, List.not_mem_nil, or_false] at h
    rcases h with rfl | rfl <;> rfl
  have low : field (v % 16) 0 4 = field v 0 4 := field_mod v 4
  simp only [State.writesAbsent, tile, if_true, low]

/-- Settles O43: `Box.commit_kept`, `State.hostDone_gone` and `State.setReg_reg_self`; each index register by its own command. -/
theorem observationCommandsComplete : Obligations.ObservationCommandsComplete := by
  unfold Obligations.ObservationCommandsComplete
  refine ⟨fun s i h lost hc => .next rfl ⟨?_, ?_, fun k hk => ?_, Keeps.modHub ..⟩, fun s p w hw => ?_, fun s p v => ?_, fun s => .next rfl ⟨?_, rfl, Keeps.setReg ..⟩,
    fun s => .next rfl ⟨?_, rfl, Keeps.setReg ..⟩, fun s => .next rfl ⟨fun k => ?_, rfl, Keeps.putPm ..⟩, fun s v ha hf => ?_, fun s v ha hf => ?_, fun s v ha => ?_,
    fun s v ha => ?_, fun s v ha => ?_, fun s v ha => ?_, fun s v ha => ?_, fun s v c hc hh ha => ?_⟩
  case refine_1 => rw [State.hub_modHub, (Box.commit_kept _ _ _ hc).1]
  case refine_2 => rw [State.hub_modHub, (Box.commit_kept _ _ _ hc).2, Tab.get_set_same]
  case refine_3 => rw [State.hub_modHub, (Box.commit_kept _ _ _ hc).2, Tab.get_set_ne _ _ _ _ _ hk]
  case refine_4 =>
    have run : exec (.traceRecordObserved p) s = .next ((s.hostDone w true).modHport p (fun h => { h with trace := { h.trace with tail := h.trace.tail + 1 } })) := by
      show execTraceRecordObserved p s = _
      simp only [execTraceRecordObserved, hw]
    have kept := Keeps.hostDone_observed s w
    refine .next run ⟨?_, ?_, (kept.append (Keeps.modHport ..)).sameBanks_of⟩
    · rw [State.hport_modHport, kept.hport_eq rfl]
    · rw [(Keeps.modHport ..).same .out (by decide)]
      exact s.hostDone_gone w
  case refine_5 =>
    have reg : (s.setReg p rTRCCTL (trcctlAfter (s.reg p rTRCCTL) v.toNat)).reg p rTRCCTL = trcctlAfter (s.reg p rTRCCTL) v.toNat :=
      s.setReg_reg_self _ _ _ (trcctlAfter_lt ..)
    by_cases on : flag (trcctlAfter (s.reg p rTRCCTL) v.toNat) 0 = true ∧ flag (s.reg p rTRCCTL) 0 = false
    · refine .next (next_congr (if_pos on)) ⟨((Keeps.modHport ..).reg_eq rfl rfl p _).trans reg, fun _ _ => ?_, ((Keeps.setReg ..).append (Keeps.modHport ..)).mono rfl⟩
      rw [State.hport_modHport]
    · refine .next (next_congr (if_neg on)) ⟨reg, fun off turned => ?_, (Keeps.setReg ..).mono rfl⟩
      rw [reg] at turned
      exact absurd ⟨turned, off⟩ on
  case refine_6 => rw [s.setReg_reg_self _ _ _ (by decide)]; rfl
  case refine_7 => rw [s.setReg_reg_self _ _ _ (by decide)]; rfl
  case refine_8 =>
    refine Tab.get_mapAll_has (P := fun c : Counter => c.count = 0 ∧ flag c.sel.toNat 15 = false) _ _ _ _ ⟨rfl, by decide⟩ fun c => ⟨rfl, ?_⟩
    rw [flag_eq_testBit, BitVec.toNat_and, Nat.testBit_and]
    exact Bool.and_false _
  case refine_9 =>
    refine .next (next_congr ((if_neg (by simp [ha])).trans (if_pos hf))) ⟨s.setReg_reg_self _ _ _ (mod_two_pow_lt _ (by decide)), ?_,
      ((Keeps.setReg ..).append (Keeps.modChan ..)).mono rfl⟩
    rw [State.chan_modChan, (Keeps.setReg ..).chan_eq rfl]
  case refine_10 =>
    exact .next (next_congr ((if_neg (by simp [ha])).trans (if_neg (by omega)))) ⟨s.setReg_reg_self _ _ _ (mod_two_pow_lt _ (by decide)), Keeps.setReg ..⟩
  case refine_11 =>
    rw [← s.writesAbsent_tile _ _ (by decide)] at ha
    refine .next (next_congr (if_neg (by simp [ha]))) ⟨s.setReg_reg_self _ _ _ (mod_two_pow_lt _ (n := 4) (by decide)), ?_,
      ((Keeps.setReg ..).append (Keeps.modMat ..)).mono rfl⟩
    rw [State.mat_modMat, (Keeps.setReg ..).mat_eq rfl]
  case refine_12 =>
    refine .next (next_congr (if_neg (by simp [ha]))) ⟨s.setReg_reg_self _ _ _ (mod_two_pow_lt _ (by decide)), ?_,
      ((Keeps.setReg ..).append (Keeps.modVec ..)).mono rfl⟩
    rw [State.vec_modVec, (Keeps.setReg ..).vec_eq rfl]
  case refine_13 =>
    refine .next (next_congr (if_neg (by simp [ha]))) ⟨s.setReg_reg_self _ _ _ (mod_two_pow_lt _ (by decide)), ?_,
      ((Keeps.setReg ..).append (Keeps.modFchan ..)).mono rfl⟩
    rw [Nat.mul_comm, State.fchan_modFchan, (Keeps.setReg ..).fchan_eq rfl]
  case refine_14 =>
    refine .next (next_congr (if_neg (by simp [ha]))) ⟨s.setReg_reg_self _ _ _ (mod_two_pow_lt _ (by decide)), ?_,
      ((Keeps.setReg ..).append (Keeps.modCtx ..)).mono rfl⟩
    rw [State.ctx_modCtx, (Keeps.setReg ..).ctx_eq rfl]
  case refine_15 =>
    rw [← s.writesAbsent_tile _ _ (by decide)] at ha
    refine .next (next_congr (if_neg (by simp [ha]))) ⟨s.setReg_reg_self _ _ _ (mod_two_pow_lt _ (n := 4) (by decide)), ?_,
      ((Keeps.setReg ..).append (Keeps.modHub ..)).mono rfl⟩
    rw [State.hub_modHub, (Keeps.setReg ..).hub_eq rfl]
  case refine_16 =>
    simp only [List.mem_cons, List.not_mem_nil, or_false] at hc
    rcases hc with rfl | rfl | rfl | rfl | rfl | rfl
    · exact next_congr (if_pos ha)
    · exact next_congr (if_pos ((s.writesAbsent_tile rMEIDX _ (by decide)).trans ha))
    · exact next_congr (if_pos ha)
    · exact next_congr (if_pos ha)
    · exact next_congr (if_pos ha)
    · exact next_congr (if_pos ((s.writesAbsent_tile rCLKIDX _ (by decide)).trans ha))

end Sys2Proof.Machine
end

section
/-! Register writes (00 R12 to R14). -/

namespace Sys2Proof.Machine

/-! ### Stored registers and the others -/

/-- Offsets of the PF region whose writes do what no stored field does. -/
def specialOffsets : List Nat := [0x6010, 0xC02C, 0xC038, 0xC040, 0xC048, 0xF068, 0xE008]

theorem regRow_of_special {off : Nat} (h : off ∈ specialOffsets) : regRow off = none := by
  simp only [specialOffsets, List.mem_cons, List.not_mem_nil, or_false] at h
  rcases h with rfl | rfl | rfl | rfl | rfl | rfl | rfl <;> rfl

theorem State.specialWrite_same (s : State) (p off v : Nat) (h : off ∉ specialOffsets) (hh : off ≠ rHILCFG ∨ flag v 18 = false) :
    s.specialWrite p off v = s := by
  simp only [specialOffsets, List.mem_cons, List.not_mem_nil, or_false, not_or] at h
  obtain ⟨h1, h2, h3, h4, h5, h6, h7⟩ := h
  rw [State.specialWrite, if_neg h1, if_neg h2, if_neg h3, if_neg h4, if_neg h5, if_neg h6, if_neg h7]
  rcases hh with hh | hh
  · rw [if_neg hh]
  · simp [hh]

theorem State.storedWrite_none (s : State) (p off v : Nat) (h : regRow off = none) : s.storedWrite p off v = s := by
  rw [State.storedWrite, h]

theorem State.storedWrite_ignored (s : State) (p off v : Nat)
    (h : takenValue s.half off (s.reg p off) (s.partBits off v) = none ∨ s.writesAbsent off v = true) : s.storedWrite p off v = s := by
  unfold State.storedWrite
  extract_lets fixed
  split
  · next r x _ hx =>
    rcases h with h | h
    · rw [h] at hx
      contradiction
    · exact if_pos (.inl h)
  · rfl

theorem State.storedWrite_taken (s : State) (p off v : Nat) {r : RegRow} {x : Nat} (hr : regRow off = some r)
    (hx : takenValue s.half off (s.reg p off) (s.partBits off v) = some x) (ha : s.writesAbsent off v = false) (ho : ownRow off = false)
    (hh : off = rHILCFG → (s.hport p).commit = false) (ht : off = rTRCBASE → flag (s.reg p rTRCCTL) 0 = false) :
    s.storedWrite p off v = s.setReg p off (rwMerge r (s.reg p off) x) := by
  have free : ((decide (off = rHILCFG) && (s.hport p).commit) || (decide (off = rTRCBASE) && flag (s.reg p rTRCCTL) 0)) = false := by
    by_cases h1 : off = rHILCFG <;> by_cases h2 : off = rTRCBASE <;> simp_all
  rw [State.storedWrite, hr, hx]
  simp only [ha, ho, free, Bool.false_eq_true, or_self, if_false]

theorem regRow_rw_lt {off : Nat} {r : RegRow} (h : regRow off = some r) : r.rw < 2 ^ 64 := by
  have all : ∀ r ∈ regRows, r.rw < 2 ^ 64 := by decide
  exact all r (List.mem_of_find?_eq_some h)

theorem rwMerge_lt {off : Nat} {r : RegRow} (h : regRow off = some r) (w : Word) (x : Nat) : rwMerge r w.toNat x < 2 ^ 64 :=
  Nat.or_lt_two_pow (Nat.lt_of_le_of_lt Nat.and_le_left w.isLt) (Nat.lt_of_le_of_lt Nat.and_le_right (regRow_rw_lt h))

/-- What a write of the PF region outside its set-up page does. -/
def State.pfWrite (s : State) (p o v : Nat) : State :=
  let s1 := (s.storedWrite p o v).specialWrite p o v
  if o = rPCCFG ∧ s1.reg 0 rPCCFG ≠ s.reg 0 rPCCFG then s1.reviewAll else s1

theorem exec_registerWrite_pf (s : State) (p : Fin 4) (o : BitVec 24) (v : BitVec 64) (hg : (s.hport p).gone = false)
    (ho : o.toNat < 0xB100 ∨ 0xB140 ≤ o.toNat) : exec (.registerWrite p 0 o v) s = .next (s.pfWrite p o.toNat v.toNat) :=
  next_congr ((if_neg (by simp [hg])).trans ((if_neg (by simp)).trans (if_neg (by omega))))

theorem State.pfWrite_special (s : State) (p o v : Nat) (h : o ∈ specialOffsets) : s.pfWrite p o v = s.specialWrite p o v := by
  have other : o ≠ rPCCFG := by
    rintro rfl
    exact absurd h (by decide)
  rw [State.pfWrite, State.storedWrite_none _ _ _ _ (regRow_of_special h)]
  exact if_neg fun g => other g.1

theorem State.pfWrite_same (s : State) (p o v : Nat) (hs : s.storedWrite p o v = s) (ho : o ∉ specialOffsets) (hh : o ≠ rHILCFG) : s.pfWrite p o v = s := by
  rw [State.pfWrite, hs, s.specialWrite_same _ _ _ ho (.inl hh)]
  exact if_neg fun g => g.2 rfl

theorem exec_registerWrite_special (s : State) (p : Fin 4) (o : BitVec 24) (v : BitVec 64) (n : Nat) (hg : (s.hport p).gone = false)
    (hn : o.toNat = n) (ho : n ∈ specialOffsets) : exec (.registerWrite p 0 o v) s = .next (s.specialWrite p n v.toNat) := by
  subst hn
  rw [exec_registerWrite_pf s p o v hg ?_, State.pfWrite_special _ _ _ _ ho]
  simp only [specialOffsets, List.mem_cons, List.not_mem_nil, or_false] at ho
  omega

section
variable (s : State) (p v : Nat)

theorem State.specialWrite_vexc : s.specialWrite p 0x6010 v =
    s.modVfile (4 * s.cfg rVEIDX 0 4 + s.cfg rVEIDX 4 2) (fun f => { f with exc := f.exc &&& ~~~ (BitVec.ofNat 7 v) }) := rfl

theorem State.specialWrite_xaddat : s.specialWrite p 0xC02C v = s.modAdmit (s.cfg rXADIDX 0 8) (fun _ => BitVec.ofNat 32 (field v 0 20)) := rfl

theorem State.specialWrite_grpdat0 : s.specialWrite p 0xC038 v = s.groupWrite (fun g => { g with mods := BitVec.ofNat 64 v }) := rfl

theorem State.specialWrite_grpdat1 : s.specialWrite p 0xC040 v =
    s.groupWrite (fun g => { g with ctxs := BitVec.ofNat 64 (if s.half then v % 2 ^ 32 else v) }) := rfl

theorem State.specialWrite_grpdat2 : s.specialWrite p 0xC048 v = s.groupWrite (fun g => { g with dat2 := BitVec.ofNat 32 (field v 0 29) }) := rfl

theorem State.specialWrite_pmsel : s.specialWrite p 0xF068 v =
    s.modCounter (16 * s.cfg rPMIDX 0 4 + s.cfg rPMIDX 4 4) (fun c =>
      { c with sel := BitVec.ofNat 32 (field v 0 15) ||| (c.sel &&& 0x8000#32 &&& ~~~ (BitVec.ofNat 32 v)) }) := rfl

theorem State.specialWrite_rstcmd (hk : field v 0 16 = 0xC35A) (hf : flag v 16 = true) :
    s.specialWrite p 0xE008 v = s.putBoot { s.boot with want := some 2 } := by
  have run : s.specialWrite p 0xE008 v = if field v 0 16 = 0xC35A ∧ flag v 16 = true then (s.putBoot { s.boot with want := some 2 }) else s := rfl
  rw [run, if_pos ⟨hk, hf⟩]
end

/-- A write that a register takes leaves the merged value in it, every other register, and what else its offset writes (02 R73; 03 R110). -/
theorem State.pfWrite_taken (s : State) (p o v : Nat) {r : RegRow} {x : Nat} (hr : regRow o = some r)
    (hs : s.storedWrite p o v = s.setReg p o (rwMerge r (s.reg p o) x)) :
    (s.pfWrite p o v).reg p o = rwMerge r (s.reg p o) x ∧ (∀ q f, regKey q f ≠ regKey p o → (s.pfWrite p o v).reg q f = s.reg q f) ∧
      (o ∉ [rHILCFG, rPCCFG] → Keeps [.regs] s (s.pfWrite p o v)) ∧ (o = rPCCFG → Keeps [.regs, .slots] s (s.pfWrite p o v)) ∧
      (o = rHILCFG → flag v 18 = true → ((s.pfWrite p o v).hport p).misroute = false) := by
  have stored : o ∉ specialOffsets := fun h => by rw [regRow_of_special h] at hr; contradiction
  have special : Keeps [.ports] (s.setReg p o (rwMerge r (s.reg p o) x)) ((s.setReg p o (rwMerge r (s.reg p o) x)).specialWrite p o v) := by
    by_cases hh : o = rHILCFG
    · rw [State.specialWrite, if_pos hh]
      exact .ite (Keeps.modHport ..) (Keeps.refl ..)
    · rw [State.specialWrite_same _ _ _ _ stored (.inl hh)]
      exact Keeps.refl ..
  have after : Keeps [.ports, .slots] (s.setReg p o (rwMerge r (s.reg p o) x)) (s.pfWrite p o v) := by
    rw [State.pfWrite, hs]
    exact .ite ((special.append (Keeps.reviewAll _)).mono rfl) (special.mono rfl)
  have reg (q f : Nat) : (s.pfWrite p o v).reg q f = (s.setReg p o (rwMerge r (s.reg p o) x)).reg q f := after.reg_eq rfl rfl q f
  refine ⟨?_, fun q f hk => ?_, fun ho => ?_, fun ho => ?_, fun ho hm => ?_⟩
  · rw [reg]
    exact State.setReg_reg_self _ _ _ _ (rwMerge_lt hr (Tab.get (regReset s.half) s.regs (regKey p o)) x)
  · rw [reg, State.setReg_reg, if_neg hk]
  · simp only [List.mem_cons, List.not_mem_nil, or_false, not_or] at ho
    rw [State.pfWrite, hs, State.specialWrite_same _ _ _ _ stored (.inl ho.1), if_neg fun g => ho.2 g.1]
    exact Keeps.setReg ..
  · rw [State.pfWrite, hs, State.specialWrite_same _ _ _ _ stored (.inl (by rw [ho]; decide))]
    exact .ite ((Keeps.setReg ..).append (Keeps.reviewAll _)) ((Keeps.setReg ..).mono rfl)
  · have other : ¬ o = rPCCFG := by rw [ho]; decide
    rw [State.pfWrite, hs, if_neg fun g => other g.1, State.specialWrite, if_pos ho, if_pos hm, State.hport_modHport]

/-! ### The group table and the counters (16 R628; 19 R713) -/

/-- The group table's entry written with the counts of its group's rounds started again. -/
def State.groupWritten (s : State) (g : Nat) (f : Group → Group) : State :=
  (s.modGroup g (fun x => { f x with failed := [] })).putCtxs (Tab.mapAll (fun _ => {}) (fun _ c => { c with ginst := Tab.erase c.ginst g }) s.ctxs)

theorem State.groupWrite_of_idle (s : State) (f : Group → Group) (h : (s.group (s.cfg rGRPIDX 0 6)).insts = []) :
    s.groupWrite f = s.groupWritten (s.cfg rGRPIDX 0 6) f := if_pos (by simp [h])

theorem State.groupWrite_of_busy (s : State) (f : Group → Group) (h : (s.group (s.cfg rGRPIDX 0 6)).insts ≠ []) : s.groupWrite f = s :=
  if_neg (by simpa using h)

theorem State.group_groupWritten (s : State) (g : Nat) (f : Group → Group) : (s.groupWritten g f).group g = { f (s.group g) with failed := [] } := by
  rw [State.groupWritten, (Keeps.putCtxs ..).group_eq rfl, State.group_modGroup]

theorem Keeps.groupWritten (s : State) (g : Nat) (f : Group → Group) : Keeps [.groups, .ctxs] s (s.groupWritten g f) :=
  (Keeps.modGroup ..).append (Keeps.putCtxs ..)

/-- PMSEL after a write of `v`: the selection taken, OVF kept unless written 1. -/
def pmselAfter (sel : BitVec 32) (v : Nat) : BitVec 32 := BitVec.ofNat 32 (field v 0 15) ||| (sel &&& 0x8000#32 &&& ~~~ (BitVec.ofNat 32 v))

theorem testBit_field (v n i : Nat) : (field v 0 n).testBit i = (decide (i < n) && v.testBit i) := by
  simp [field, Nat.testBit_mod_two_pow]

theorem getLsbD_pmselAfter (sel : BitVec 32) (v i : Nat) (hi : i < 32) :
    (pmselAfter sel v).getLsbD i = if i < 15 then v.testBit i else decide (i = 15) && (sel.getLsbD i && !v.testBit i) := by
  have mask : (0x8000#32).getLsbD i = decide (i = 15) := by
    have all : ∀ i < 32, (0x8000#32).getLsbD i = decide (i = 15) := by decide
    exact all i hi
  simp only [pmselAfter, BitVec.getLsbD_or, BitVec.getLsbD_and, BitVec.getLsbD_not, BitVec.getLsbD_ofNat, mask, testBit_field, hi, decide_true, Bool.true_and]
  by_cases h : i < 15
  · have ne : i ≠ 15 := by omega
    simp [h, ne]
  · by_cases he : i = 15
    · simp [he]
    · simp [h, he]

theorem field_pmselAfter (sel : BitVec 32) (v : Nat) : field (pmselAfter sel v).toNat 0 15 = field v 0 15 := by
  refine Nat.eq_of_testBit_eq fun i => ?_
  rw [testBit_field, testBit_field]
  by_cases h : i < 15
  · rw [← BitVec.getLsbD, getLsbD_pmselAfter _ _ _ (by omega), if_pos h]
  · simp [h]

theorem flag_pmselAfter (sel : BitVec 32) (v : Nat) : flag (pmselAfter sel v).toNat 15 = (flag sel.toNat 15 && !flag v 15) := by
  rw [flag_eq_testBit, flag_eq_testBit, flag_eq_testBit, ← BitVec.getLsbD, ← BitVec.getLsbD, getLsbD_pmselAfter _ _ _ (by decide)]
  simp

theorem ofNat_lowHalf (half : Bool) (v : BitVec 64) :
    BitVec.ofNat 64 (if half then v.toNat % 2 ^ 32 else v.toNat) = if half then v &&& 0xFFFFFFFF#64 else v := by
  cases half with
  | false => simp
  | true =>
    refine BitVec.eq_of_toNat_eq ?_
    have low : v.toNat &&& 0xFFFFFFFF = v.toNat % 2 ^ 32 := Nat.and_two_pow_sub_one_eq_mod v.toNat 32
    have small : v.toNat % 2 ^ 32 < 2 ^ 64 := mod_two_pow_lt _ (by decide)
    simp only [if_true, BitVec.toNat_ofNat, BitVec.toNat_and, Nat.mod_eq_of_lt small]
    exact low.symm

/-! ### Set-up pages (15 R566) -/

theorem Page.write_of_en {g : Page} (off v : Nat) (h : g.en = true) : g.write off v = g := if_pos h

/-- Settles O44: `State.pfWrite_taken` for the stored registers, the rest by the writes of their own. -/
theorem registerWritesComplete : Obligations.RegisterWritesComplete := by
  unfold Obligations.RegisterWritesComplete
  refine ⟨fun s p o v r x hg ho hr hx ha hown hh ht => .next (exec_registerWrite_pf s p o v hg ho) ?_, fun s p o v hg ho hr hh hx => ?_,
    fun s p o v hg hr ho hs => ?_, fun s p vf o v hg => next_congr (if_pos hg), fun s p v hg => ?_, fun s p v hg => ?_, fun s p v hg hi => ⟨?_, ?_, ?_⟩,
    fun s p o v ho hi => ?_, fun s p v hg hk hf => ?_, fun s p v k hg hk => ?_, fun s p vf o v off hg ho => ?_, fun s p vf o v hv hp => ?_⟩
  case refine_1 => exact s.pfWrite_taken p o.toNat v.toNat hr (s.storedWrite_taken p o.toNat v.toNat hr hx ha hown hh ht)
  case refine_2 =>
    rw [exec_registerWrite_pf s p o v hg ho, s.pfWrite_same _ _ _ (s.storedWrite_ignored _ _ _ hx) (fun h => ?_) hh]
    rw [regRow_of_special h] at hr
    contradiction
  case refine_3 =>
    rw [exec_registerWrite_pf s p o v hg ho, s.pfWrite_same _ _ _ (s.storedWrite_none _ _ _ hr) hs (fun h => ?_)]
    rw [h] at hr
    contradiction
  case refine_4 =>
    rw [Does, exec_registerWrite_special s p _ v 0x6010 hg rfl (by decide), State.specialWrite_vexc]
    refine ⟨_, rfl, ?_, Keeps.modVfile ..⟩
    rw [State.vfile_modVfile]
  case refine_5 =>
    rw [Does, exec_registerWrite_special s p _ v 0xC02C hg rfl (by decide), State.specialWrite_xaddat]
    refine ⟨_, rfl, ?_, Keeps.modAdmit ..⟩
    exact Tab.get_set_same ..
  case refine_6 =>
    rw [Does, exec_registerWrite_special s p _ v 0xC038 hg rfl (by decide), State.specialWrite_grpdat0, s.groupWrite_of_idle _ hi]
    refine ⟨_, rfl, ?_, ?_, Keeps.groupWritten ..⟩ <;> rw [State.group_groupWritten]
    simp
  case refine_7 =>
    rw [Does, exec_registerWrite_special s p _ v 0xC040 hg rfl (by decide), State.specialWrite_grpdat1, s.groupWrite_of_idle _ hi]
    refine ⟨_, rfl, ?_, ?_, Keeps.groupWritten ..⟩ <;> rw [State.group_groupWritten]
    exact ofNat_lowHalf s.half v
  case refine_8 =>
    rw [Does, exec_registerWrite_special s p _ v 0xC048 hg rfl (by decide), State.specialWrite_grpdat2, s.groupWrite_of_idle _ hi]
    refine ⟨_, rfl, ?_, ?_, Keeps.groupWritten ..⟩ <;> rw [State.group_groupWritten]
  case refine_9 =>
    by_cases hg : (s.hport p).gone = true
    · exact next_congr (if_pos hg)
    · have special : o.toNat ∈ specialOffsets := (by decide : [0xC038, 0xC040, 0xC048] ⊆ specialOffsets) ho
      rw [exec_registerWrite_special s p o v _ (by simpa using hg) rfl special]
      simp only [List.mem_cons, List.not_mem_nil, or_false] at ho
      rcases ho with ho | ho | ho <;> rw [ho]
      · rw [State.specialWrite_grpdat0, s.groupWrite_of_busy _ hi]
      · rw [State.specialWrite_grpdat1, s.groupWrite_of_busy _ hi]
      · rw [State.specialWrite_grpdat2, s.groupWrite_of_busy _ hi]
  case refine_10 =>
    rw [Does, exec_registerWrite_special s p _ v 0xE008 hg rfl (by decide), s.specialWrite_rstcmd _ _ hk hf]
    exact ⟨_, rfl, rfl, Keeps.putBoot ..⟩
  case refine_11 =>
    rw [Does, exec_registerWrite_special s p _ v 0xF068 hg rfl (by decide), State.specialWrite_pmsel, ← hk]
    refine ⟨_, rfl, ?_, ?_, ?_, Keeps.modCounter ..⟩ <;> rw [State.counter_modCounter]
    · exact field_pmselAfter ..
    · exact flag_pmselAfter ..
  case refine_12 =>
    have run : exec (.registerWrite p vf o v) s = .next (s.modPage (17 * p.val + vf.val) (fun g => g.write off v.toNat)) := by
      rcases ho with ⟨hv, lo, hi, hoff⟩ | ⟨hv, hp, hoff⟩
      · rw [hoff]
        exact next_congr ((if_neg (by simp [hg])).trans ((if_neg (by simp [hv])).trans (if_pos ⟨lo, hi⟩)))
      · rw [hoff]
        exact next_congr ((if_neg (by simp [hg])).trans ((if_pos hv).trans (if_pos hp)))
    refine .next run ⟨?_, fun he => ?_, Keeps.modPage ..⟩ <;> rw [State.page_modPage]
    exact Page.write_of_en _ _ he
  case refine_13 =>
    by_cases hg : (s.hport p).gone = true
    · exact next_congr (if_pos hg)
    · exact next_congr ((if_neg hg).trans ((if_pos hv).trans (if_neg (by simp [hp]))))

end Sys2Proof.Machine
end

section
/-! Temperature, admission and clock gates (17 R650 to R664). -/

namespace Sys2Proof.Machine

/-! ### Temperatures (17 R663, R664) -/

theorem State.level5_stack (s : State) (st die hot : Nat) : ((s.level5 st die hot).stack st).level = 5 ∧ ((s.level5 st die hot).stack st).hold = true ∧
    ((s.level5 st die hot).stack st).sr = true := by
  have stack : (s.level5 st die hot).stack st = { s.stack st with level := 5, hot16 := true, hold := true, sr := true } := by
    rw [State.level5, (Keeps.bbox ..).stack_eq rfl, State.stack_enterStackSr, State.stack_modStack, State.stack_modStack]
  rw [stack]
  exact ⟨rfl, rfl, rfl⟩

/-- The dies' temperatures noted. -/
def State.dieTemps (s : State) (st : Nat) (ts : List Nat) : State := s.modStack st (fun k => { k with temps := ts })

section
variable {s : State} {st : Fin 96} {ts : List (BitVec 8)}

theorem exec_dieTempSample_level (hne : ts ≠ []) (h5 : (s.stack st).level ≠ 5) (hhot : (ts.map BitVec.toNat).foldl max 0 ≤ 110) :
    exec (.dieTempSample st ts) s = .next ((s.dieTemps st (ts.map BitVec.toNat)).modStack st (fun k =>
      { k with level := thermLevel (s.stack st).level ((ts.map BitVec.toNat).foldl max 0)
               hot16 := decide (1 ≤ thermLevel (s.stack st).level ((ts.map BitVec.toNat).foldl max 0))
               half := k.half && decide (3 ≤ thermLevel (s.stack st).level ((ts.map BitVec.toNat).foldl max 0)) })) :=
  next_congr ((if_neg (by simpa using hne)).trans ((if_neg h5).trans (if_neg (by omega))))

theorem exec_dieTempSample_hot (h5 : (s.stack st).level ≠ 5) (hhot : 110 < (ts.map BitVec.toNat).foldl max 0) :
    exec (.dieTempSample st ts) s = .next ((s.dieTemps st (ts.map BitVec.toNat)).level5 st
      (((ts.map BitVec.toNat).idxOf? ((ts.map BitVec.toNat).foldl max 0)).getD 0) ((ts.map BitVec.toNat).foldl max 0)) := by
  refine next_congr ((if_neg ?_).trans ((if_neg h5).trans (if_pos hhot)))
  intro h
  simp [h] at hhot

theorem exec_dieTempSample_five (hne : ts ≠ []) (h5 : (s.stack st).level = 5) :
    exec (.dieTempSample st ts) s = .next (if (ts.map BitVec.toNat).foldl max 0 ≤ 95 then
      ((s.dieTemps st (ts.map BitVec.toNat)).modStack st (fun k => { k with
        level := thermLevel 4 ((ts.map BitVec.toNat).foldl max 0), hot16 := decide (80 < (ts.map BitVec.toNat).foldl max 0), hold := false })).enqueueWake (st / 6) 0 st
      else s.dieTemps st (ts.map BitVec.toNat)) :=
  next_congr ((if_neg (by simpa using hne)).trans (if_pos h5))
end

/-- Where the converters stop, no record is in commit and none waits: the rail's fall tears what is left (19 R716). -/
theorem State.unpowered_boxes (s : State) (k : Nat) : (s.unpowered.hub k).bb.cur = none ∧ (s.unpowered.hub k).bb.queue = [] := by
  have torn (b : Box) (t : Nat) : (b.tear t).cur = none ∧ (b.tear t).queue = [] := by
    unfold Box.tear
    split
    · exact ⟨rfl, rfl⟩
    · next h => exact ⟨h, rfl⟩
  exact Tab.get_mapAll_has (P := fun h : Hub => h.bb.cur = none ∧ h.bb.queue = []) _ _ _ _ ⟨rfl, rfl⟩ fun h => torn h.bb k

/-- A change everywhere reads as the change of the value, where that is not what an unlisted number reads as. -/
theorem Tab.get_mapAll_of_ne {α : Type} [DecidableEq α] (d : Nat → α) (f : Nat → α → α) (t : Tab α) (k : Nat) (hd : f k (d k) = d k)
    (h : f k (Tab.get d t k) ≠ d k) : Tab.get d (Tab.mapAll d f t) k = f k (Tab.get d t k) := by
  induction t with
  | nil => exact absurd hd h
  | cons e t ih =>
    obtain ⟨j, v⟩ := e
    rw [Tab.get] at h ⊢
    rw [Tab.mapAll]
    by_cases hj : j = k
    · subst hj
      simp only [if_true] at h ⊢
      rw [if_neg h, Tab.get, if_pos rfl]
    · simp only [if_neg hj] at h ⊢
      split
      · exact ih h
      · rw [Tab.get, if_neg hj, ih h]

/-! ### Wakes (17 R657) -/

theorem State.hub_enqueueWake (s : State) (t kind m i : Nat) :
    ∃ w, ((s.enqueueWake t kind m).hub i) = { s.hub i with wakeQ := (s.hub i).wakeQ ++ w } := by
  unfold State.enqueueWake
  extract_lets h
  split
  · exact ⟨[], by rw [List.append_nil]⟩
  · by_cases hi : i = t
    · subst hi
      exact ⟨[(kind, m, s.cyc)], by rw [State.hub_modHub]⟩
    · exact ⟨[], by rw [State.hub_modHub_ne _ _ _ _ hi, List.append_nil]⟩

/-- A wake that is admitted or waits for its admission. -/
def State.asked (s : State) (t kind m : Nat) : Prop := (kind, m) ∈ (s.hub t).admitted ∨ ∃ a, (kind, m, a) ∈ (s.hub t).wakeQ

theorem State.asked_enqueueWake (s : State) (t kind m : Nat) : (s.enqueueWake t kind m).asked t kind m := by
  unfold State.enqueueWake
  extract_lets h
  split
  · next hw =>
    rcases hw with hw | hw
    · obtain ⟨⟨k, n, a⟩, hmem, hk⟩ := List.any_eq_true.mp hw
      simp only [Bool.and_eq_true, beq_iff_eq] at hk
      obtain ⟨rfl, rfl⟩ := hk
      exact .inr ⟨a, hmem⟩
    · exact .inl hw
  · refine .inr ⟨s.cyc, ?_⟩
    rw [State.hub_modHub]
    exact List.mem_append_right _ List.mem_cons_self

theorem State.asked.enqueueWake {s : State} {t kind m : Nat} (h : s.asked t kind m) (u k n : Nat) : (s.enqueueWake u k n).asked t kind m := by
  obtain ⟨w, hub⟩ := s.hub_enqueueWake u k n t
  rw [State.asked, hub]
  rcases h with h | ⟨a, h⟩
  · exact .inl h
  · exact .inr ⟨a, List.mem_append_left _ h⟩

/-- Several wakes of a tile asked for. -/
def State.askWakes (s : State) (t : Nat) (ws : List (Nat × Nat)) : State := ws.foldl (fun s w => s.enqueueWake t w.1 w.2) s

theorem State.askWakes_asked (s : State) (t : Nat) (ws : List (Nat × Nat)) {kind m : Nat} (h : (kind, m) ∈ ws) : (s.askWakes t ws).asked t kind m :=
  foldl_reaches (P := fun (w : Nat × Nat) (u : State) => u.asked t w.1 w.2) (fun u w => u.asked_enqueueWake t w.1 w.2)
    (fun _ _ _ h => h.enqueueWake ..) ws s (b := (kind, m)) (.inl h)

theorem State.hub_askWakes (s : State) (t : Nat) (ws : List (Nat × Nat)) (i : Nat) :
    ∃ w, ((s.askWakes t ws).hub i) = { s.hub i with wakeQ := (s.hub i).wakeQ ++ w } := by
  induction ws generalizing s with
  | nil => exact ⟨[], by rw [List.append_nil]; rfl⟩
  | cons w ws ih =>
    obtain ⟨a, ha⟩ := s.hub_enqueueWake t w.1 w.2 i
    obtain ⟨b, hb⟩ := ih (s.enqueueWake t w.1 w.2)
    exact ⟨a ++ b, by rw [State.askWakes, List.foldl_cons]; exact hb.trans (by rw [ha, List.append_assoc])⟩

theorem Keeps.askWakes (s : State) (t : Nat) (ws : List (Nat × Nat)) : Keeps [.hubs] s (s.askWakes t ws) :=
  Keeps.foldl (fun u (w : Nat × Nat) => u.enqueueWake t w.1 w.2) (fun _ _ => Keeps.enqueueWake ..) ws s

/-! ### Admission (17 R657, R658) -/

theorem State.grantWake_spec (s : State) (t kind m a : Nat) :
    (∀ w ∈ ((s.grantWake t kind m a).hub t).wakeQ, ¬ (w.1 = kind ∧ w.2.1 = m)) ∧ (kind ≠ 3 → (kind, m) ∈ ((s.grantWake t kind m a).hub t).admitted) ∧
      (kind = 3 → m < 4 → m ∈ ((s.grantWake t kind m a).hub t).groups) ∧ (kind = 3 → 4 ≤ m → m - 4 ∈ ((s.grantWake t kind m a).hub t).engines) ∧
      ((s.grantWake t kind m a).hub t).capHeld = false := by
  have left (q : List (Nat × Nat × Nat)) : ∀ w ∈ q.filter (fun w => !(w.1 == kind && w.2.1 == m)), ¬ (w.1 = kind ∧ w.2.1 = m) := by
    rintro w hw ⟨rfl, rfl⟩
    simp at hw
  have opens (l : List Nat) (g : Nat) : g ∈ (if l.contains g then l else g :: l) := by
    split
    · next h => simpa using h
    · exact List.mem_cons_self
  unfold State.grantWake
  extract_lets key s1
  by_cases hk : kind = 3
  · rw [if_pos hk, Keeps.hub_eq (Keeps.finishBinds ..) rfl, State.hub_modHub, State.hub_modHub]
    by_cases hm : m < 4
    · simp only [if_pos hm]
      exact ⟨left _, fun h => absurd hk h, fun _ _ => opens _ m, fun _ h => by omega, trivial⟩
    · simp only [if_neg hm]
      exact ⟨left _, fun h => absurd hk h, fun _ h => absurd h hm, fun _ _ => opens _ (m - 4), trivial⟩
  · rw [if_neg hk, State.hub_modHub, State.hub_modHub]
    exact ⟨left _, fun _ => List.mem_append_right _ List.mem_cons_self, fun h => absurd h hk, fun h => absurd h hk, rfl⟩

theorem exec_admissionGrant (s : State) (i : Fin 16) (kind : Fin 4) (m a : Nat)
    (hw : (s.hub i).wakeQ.find? (fun w => w.1 == kind.val) = some (kind.val, m, a))
    (hb : ((Tab.get (fun _ => []) (s.hub i).grantAt (budgetKey kind m)).filter
      (fun b => decide (s.cyc < b + (wakeBudget kind).2))).length < (wakeBudget kind).1) (hh : s.wakeHeld i kind m = false) :
    exec (.admissionGrant i kind) s = .next (
      if (if kind.val = 1 then 250 else if kind.val = 2 then 1800 else 0) ≠ 0 ∧
        s.commitLimit < s.committedPower + (if kind.val = 1 then 250 else if kind.val = 2 then 1800 else 0) then
        s.modHub i (fun h => { h with capHeld := true })
      else s.grantWake i kind m a) := by
  show execAdmissionGrant i kind s = _
  simp only [execAdmissionGrant, hw]
  exact next_congr (if_neg (by simp only [hh, Bool.false_eq_true, or_false]; omega))

/-- A hold that begins above one temperature and ends at another. -/
theorem ite_held (c hi : Nat) (held : Bool) :
    (if hi < c then true else if c ≤ 95 then false else held) = (decide (hi < c) || (decide (95 < c) && held)) := by
  by_cases h1 : hi < c
  · simp [h1]
  · by_cases h2 : c ≤ 95
    · simp [h1, h2]
    · have : 95 < c := by omega
      simp [h1, h2, this]

/-! ### Gates (17 R650 to R652) -/

/-- The wakes that a gate-on command asks for below its tile. -/
def State.gateWakes (s : State) (lv i g slice : Nat) : List (Nat × Nat) :=
  (if 2 ≤ lv ∧ (s.hub i).groups.contains g = false then [(3, g)] else []) ++
    (if 3 ≤ lv ∧ (s.hub i).engines.contains g = false then [(3, 4 + g)] else []) ++
    (if lv = 4 ∧ (s.mat i).ungated.contains slice = false then [(2, slice)] else [])

/-- The module's node and, from level 1 on, the tile's opened. -/
def State.gateRoots (s : State) (lv i : Nat) : State :=
  let s1 := s.putPower { s.power with modOpen := true }
  if 1 ≤ lv then s1.modHub i (fun h => { h with tileOpen := true }) else s1

theorem State.gateRoots_spec (s : State) (lv i : Nat) : (s.gateRoots lv i).power = { s.power with modOpen := true } ∧
    (1 ≤ lv → ((s.gateRoots lv i).hub i).tileOpen = true) ∧ ((s.gateRoots lv i).hub i).groups = (s.hub i).groups ∧
    Keeps [.power, .hubs] s (s.gateRoots lv i) := by
  unfold State.gateRoots
  extract_lets s1
  split
  · exact ⟨rfl, fun _ => by rw [State.hub_modHub], by rw [State.hub_modHub]; rfl, (Keeps.putPower ..).append (Keeps.modHub ..)⟩
  · next h => exact ⟨rfl, fun g => absurd g h, rfl, (Keeps.putPower ..).mono rfl⟩

theorem exec_gateOn (s : State) (level : BitVec 3) (i : Fin 16) (g : Fin 4) (slice : BitVec 5) (hph : s.boot.phase = 15)
    (hn : s.gateNode level.toNat i slice.toNat = 0) :
    exec (.gateOn level i g slice) s = .next (((s.gateRoots level.toNat i).askWakes i
      (s.gateWakes level.toNat i (if level.toNat = 4 then 0 else g.val) slice.toNat)).gateStatus 0
        ((s.gateWakes level.toNat i (if level.toNat = 4 then 0 else g.val) slice.toNat).getLast?.map (fun w => (i, w.1, w.2)))) :=
  next_congr ((if_neg (not_not_intro hph)).trans (if_neg (not_not_intro hn)))

/-- The node that a gate-off command closes. -/
def State.gateClosed (s : State) (lv i g slice : Nat) : State :=
  match lv with
  | 0 => s.putPower { s.power with modOpen := false }
  | 1 => s.modHub i (fun h => { h with tileOpen := false })
  | 2 => s.modHub i (fun h => { h with groups := h.groups.erase g })
  | 3 => s.modHub i (fun h => { h with engines := h.engines.erase g })
  | _ => s.modMat i (fun m => { m with ungated := m.ungated.erase slice })

theorem State.gateClosed_spec (s : State) (lv i g slice : Nat) : (lv = 0 → (s.gateClosed lv i g slice).power.modOpen = false) ∧
    (lv = 1 → ((s.gateClosed lv i g slice).hub i).tileOpen = false) ∧
    (lv = 2 → ((s.gateClosed lv i g slice).hub i).groups = (s.hub i).groups.erase g) ∧
    (lv = 3 → ((s.gateClosed lv i g slice).hub i).engines = (s.hub i).engines.erase g) ∧
    (lv = 4 → ((s.gateClosed lv i g slice).mat i).ungated = (s.mat i).ungated.erase slice) ∧ Keeps [.power, .hubs, .me] s (s.gateClosed lv i g slice) := by
  refine ⟨?_, ?_, ?_, ?_, ?_, ?_⟩
  · rintro rfl
    rfl
  · rintro rfl
    exact congrArg Hub.tileOpen (State.hub_modHub ..)
  · rintro rfl
    exact congrArg Hub.groups (State.hub_modHub ..)
  · rintro rfl
    exact congrArg Hub.engines (State.hub_modHub ..)
  · rintro rfl
    exact congrArg Matrix.ungated (State.mat_modMat ..)
  · unfold State.gateClosed
    split
    · exact (Keeps.putPower ..).mono rfl
    · exact (Keeps.modHub ..).mono rfl
    · exact (Keeps.modHub ..).mono rfl
    · exact (Keeps.modHub ..).mono rfl
    · exact (Keeps.modMat ..).mono rfl

theorem exec_gateOff (s : State) (level : BitVec 3) (i : Fin 16) (g : Fin 4) (slice : BitVec 5) (hph : s.boot.phase = 15)
    (hn : s.gateOffStatus level.toNat i g slice.toNat = 0) :
    exec (.gateOff level i g slice) s = .next ((s.gateClosed level.toNat i g slice.toNat).gateStatus 0 none) :=
  next_congr ((if_neg (not_not_intro hph)).trans (if_neg (not_not_intro hn)))

/-- Settles O42: `State.level5_stack` and `State.unpowered_boxes` for the temperatures, `State.grantWake_spec` for the admissions, `exec_gateOn` and
`exec_gateOff` for the gates. -/
theorem thermalAndGateCommandsComplete : Obligations.ThermalAndGateCommandsComplete := by
  unfold Obligations.ThermalAndGateCommandsComplete
  refine ⟨fun s st ts hot hne hhot h5 hle => ?_, fun s st ts hhot h5 => ?_, fun s st ts hne h5 => .next (exec_dieTempSample_five hne h5) ?_, fun s st hhot h5 => ?_,
    fun s second => .next rfl ⟨fun st hs hl => ?_, fun st => ?_, Keeps.putStks ..⟩, fun s i c hc hon => ?_, fun s i c hc => ?_,
    fun s i kind m a hw hb hh h1 h2 => ?_, fun s i kind m a hw hb hh hp => ?_, fun s level i g slice hph hn => ?_,
    fun s level i g slice cmd n hph hn hc => ?_, fun s level i g slice hph hn => ?_⟩
  case refine_1 =>
    subst hhot
    refine .next (exec_dieTempSample_level hne h5 hle) ⟨?_, ?_, ?_, ((Keeps.modStack ..).append (Keeps.modStack ..)).mono rfl⟩ <;>
      rw [State.stack_modStack]
    rw [State.dieTemps, State.stack_modStack]
  case refine_2 =>
    obtain ⟨level, hold, sr⟩ := (s.dieTemps st (ts.map BitVec.toNat)).level5_stack st
      (((ts.map BitVec.toNat).idxOf? ((ts.map BitVec.toNat).foldl max 0)).getD 0) ((ts.map BitVec.toNat).foldl max 0)
    exact .next (exec_dieTempSample_hot h5 hhot) ⟨level, hold, sr, ((Keeps.modStack ..).append (Keeps.level5 ..)).sameBanks_of⟩
  case refine_3 =>
    split
    · next hc =>
      refine ⟨?_, ((Keeps.modStack ..).append ((Keeps.modStack ..).append (Keeps.enqueueWake ..))).sameBanks_of, fun _ => ⟨?_, ?_⟩, fun h => absurd hc (by omega)⟩ <;>
        rw [(Keeps.enqueueWake ..).stack_eq rfl, State.stack_modStack]
      rw [State.dieTemps, State.stack_modStack]
    · next hc =>
      refine ⟨?_, (Keeps.modStack ..).sameBanks_of, fun h => absurd h hc, fun _ => ⟨?_, ?_⟩⟩ <;> rw [State.dieTemps, State.stack_modStack]
      exact h5
  case refine_4 =>
    obtain ⟨level, hold, sr⟩ := s.level5_stack st (((s.stack st).temps.idxOf? ((s.stack st).temps.foldl max 0)).getD 0) ((s.stack st).temps.foldl max 0)
    exact .next (next_congr (if_pos ⟨hhot, h5⟩)) ⟨level, hold, sr, (Keeps.level5 ..).sameBanks_of⟩
  case refine_5 =>
    subst hs
    have paused : ({ s.stack st with half := true && decide (3 ≤ (s.stack st).level) } : StackSpares) ≠ {} := fun h => by
      have := congrArg StackSpares.level h
      simp only at this
      omega
    refine (congrArg StackSpares.half (Tab.get_mapAll_of_ne _ _ s.stks st rfl paused)).trans ?_
    exact decide_eq_true hl
  case refine_6 =>
    exact Tab.get_mapAll_has (P := fun k : StackSpares => k.half = true → second = true ∧ 3 ≤ k.level) _ _ _ _ (fun h => by cases h) fun k h => by
      simpa using h
  case refine_7 =>
    exact .next (next_congr (if_pos ⟨hc, hon⟩)) ⟨rfl, rfl, rfl, rfl, fun k => State.unpowered_boxes _ k⟩
  case refine_8 =>
    have cool : ¬ (115 < c.toNat ∧ s.power.on = true) := by
      rintro ⟨h1, h2⟩
      rcases hc with hc | hc
      · omega
      · exact Bool.false_ne_true (hc.symm.trans h2)
    refine .next (next_congr (if_neg cool)) ⟨?_, ?_, ?_, Keeps.modHub ..⟩ <;> rw [State.hub_modHub]
    · exact ite_held ..
    · exact ite_held ..
  case refine_9 =>
    have free : ¬ ((if kind.val = 1 then 250 else if kind.val = 2 then 1800 else 0) ≠ 0 ∧
        s.commitLimit < s.committedPower + (if kind.val = 1 then 250 else if kind.val = 2 then 1800 else 0)) := by
      rintro ⟨h0, hover⟩
      split at hover
      · next hk => exact absurd (h1 hk) (by omega)
      · split at hover
        · next hk => exact absurd (h2 hk) (by omega)
        · simp_all
    have run := exec_admissionGrant s i kind m a hw hb hh
    rw [if_neg free] at run
    obtain ⟨gone, admitted, group, engine, cap⟩ := s.grantWake_spec i kind m a
    exact .next run ⟨gone, admitted, group, engine, cap, (Keeps.grantWake ..).sameBanks_of⟩
  case refine_10 =>
    have short : (if kind.val = 1 then 250 else if kind.val = 2 then 1800 else 0) ≠ 0 ∧
        s.commitLimit < s.committedPower + (if kind.val = 1 then 250 else if kind.val = 2 then 1800 else 0) := by
      rcases hp with ⟨hk, h⟩ | ⟨hk, h⟩ <;> simp only [hk] <;> exact ⟨by decide, h⟩
    have run := exec_admissionGrant s i kind m a hw hb hh
    rw [if_pos short] at run
    refine .next run ⟨?_, Keeps.modHub ..⟩
    rw [State.hub_modHub]
  case refine_11 =>
    obtain ⟨power, tileOpen, groups, kept⟩ := s.gateRoots_spec level.toNat i
    have mat : (s.gateRoots level.toNat i).mat i = s.mat i := kept.mat_eq rfl i
    have run := exec_gateOn s level i g slice hph hn
    generalize hws : s.gateWakes level.toNat i (if level.toNat = 4 then 0 else g.val) slice.toNat = ws at run
    have asked {kind m : Nat} (h : (kind, m) ∈ ws) := (s.gateRoots level.toNat i).askWakes_asked i ws h
    obtain ⟨w, hub⟩ := (s.gateRoots level.toNat i).hub_askWakes i ws i
    have same := Keeps.askWakes (s.gateRoots level.toNat i) i ws
    generalize (s.gateRoots level.toNat i).askWakes i ws = u at run asked hub same
    have last := u.power
    refine .next run ⟨rfl, ?_, fun h => ?_, fun k h hk => ?_, fun h => ?_, ?_⟩
    · exact (congrArg Power.modOpen ((same.same .power (by decide)).trans power) :)
    · exact (congrArg Hub.tileOpen hub).trans (tileOpen h)
    · subst hk
      by_cases listed : (s.hub i).groups.contains (if level.toNat = 4 then 0 else g.val) = true
      · refine .inl ?_
        show _ ∈ (u.hub i).groups
        rw [hub]
        rw [groups]
        simpa using listed
      · refine .inr (asked ?_)
        rw [← hws, State.gateWakes, if_pos ⟨h, by simpa using listed⟩]
        simp
    · by_cases listed : (s.mat i).ungated.contains slice.toNat = true
      · refine .inl ?_
        show _ ∈ (u.mat i).ungated
        rw [same.mat_eq rfl, mat]
        simpa using listed
      · refine .inr (asked ?_)
        rw [← hws, State.gateWakes]
        exact List.mem_append_right _ (by rw [if_pos ⟨h, by simpa using listed⟩]; exact List.mem_cons_self)
    · exact ((kept.append same).append (Keeps.gateStatus ..)).mono rfl
  case refine_12 =>
    have run : exec cmd s = .next (s.gateStatus n none) := by
      rcases hc with ⟨rfl, rfl⟩ | ⟨rfl, rfl⟩
      · exact next_congr ((if_neg (not_not_intro hph)).trans (if_pos hn))
      · exact next_congr ((if_neg (not_not_intro hph)).trans (if_pos hn))
    exact .next run ⟨rfl, Keeps.gateStatus ..⟩
  case refine_13 =>
    obtain ⟨modOpen, tileOpen, groups, engines, ungated, kept⟩ := s.gateClosed_spec level.toNat i g slice.toNat
    have run := exec_gateOff s level i g slice hph hn
    generalize s.gateClosed level.toNat i g slice.toNat = u at run modOpen tileOpen groups engines ungated kept
    exact .next run ⟨rfl, modOpen, tileOpen, groups, engines, ungated, (kept.append (Keeps.gateStatus ..)).mono rfl⟩

end Sys2Proof.Machine
end

section
/-! Reads that a channel grants at once (04 R119 to R134). -/

namespace Sys2Proof.Machine

/-! ### A line of the banks depends on a few parts of the state -/

/-- The state with only the parts that a line of the banks is read from. -/
def State.banksOnly (s : State) : State :=
  { half := s.half, boot := s.boot, slots := s.slots, parcels := s.parcels, mem := s.mem, pois := s.pois, rows := s.rows }

theorem State.readLine_banksOnly (s : State) (k : Nat) : s.banksOnly.readLine k = s.readLine k := rfl

theorem State.lineAsks_banksOnly (s : State) (k : Nat) : s.banksOnly.lineAsks k = s.lineAsks k := rfl

/-- Those parts. -/
def bankParts : List Field := [.half, .boot, .slots, .parcels, .mem, .pois, .rows]

section
variable {L : List Field} {s t : State} (h : Keeps L s t) (hL : bankParts.all (fun f => !L.contains f) = true)
include h hL

theorem Keeps.banksOnly_eq : t.banksOnly = s.banksOnly := by
  have apart (f : Field) (hf : f ∈ bankParts) : f ∉ L := by simpa using List.all_eq_true.1 hL f hf
  have half : t.half = s.half := h.same .half (apart _ (by decide))
  have boot : t.boot = s.boot := h.same .boot (apart _ (by decide))
  have slots : t.slots = s.slots := h.same .slots (apart _ (by decide))
  have parcels : t.parcels = s.parcels := h.same .parcels (apart _ (by decide))
  have mem : t.mem = s.mem := h.same .mem (apart _ (by decide))
  have pois : t.pois = s.pois := h.same .pois (apart _ (by decide))
  have rows : t.rows = s.rows := h.same .rows (apart _ (by decide))
  simp only [State.banksOnly, half, boot, slots, parcels, mem, pois, rows]

theorem Keeps.readLine_eq (k : Nat) : t.readLine k = s.readLine k := by rw [← t.readLine_banksOnly, h.banksOnly_eq hL, s.readLine_banksOnly]

theorem Keeps.lineAsks_eq (k : Nat) : t.lineAsks k = s.lineAsks k := by rw [← t.lineAsks_banksOnly, h.banksOnly_eq hL, s.lineAsks_banksOnly]
end

/-! ### A grant performed at once (04 R125 to R132) -/

/-- Parts on which it depends whether a read is granted at once. -/
def grantParts : List Field := [.half, .regs, .stks, .chans, .ctxs]

theorem Keeps.readsAtOnce {L : List Field} {s t : State} (h : Keeps L s t) (hL : grantParts.all (fun f => !L.contains f) = true) {ch who j row : Nat} (hs : ReadsAtOnce s ch who j row) : ReadsAtOnce t ch who j row := by
  have apart (f : Field) (hf : f ∈ grantParts) : L.contains f = false := by simpa using List.all_eq_true.1 hL f hf
  have chan : t.chan ch = s.chan ch := h.chan_eq (apart _ (by decide)) ch
  have stack : t.stack (ch / 16) = s.stack (ch / 16) := h.stack_eq (apart _ (by decide)) _
  have ctx (c : Nat) : t.ctx c = s.ctx c := h.ctx_eq (apart _ (by decide)) c
  have half : t.half = s.half := h.same .half (by simpa using apart .half (by decide))
  have regs : t.regs = s.regs := h.same .regs (by simpa using apart .regs (by decide))
  have inForce (u off lo n : Nat) : t.inForce u off lo n = s.inForce u off lo n := by rw [State.inForce, State.inForce, half, regs]
  obtain ⟨conv, centred, nbs, reads, writes, waiters, held, quota, burst, isOpen⟩ := hs
  refine ⟨?_, by rwa [chan], ?_, by rwa [chan], by rwa [chan], by rwa [chan], by rwa [stack], ?_, ?_, by rwa [chan]⟩
  · rwa [State.conventional, chan, stack]
  · simp only [State.nbsPending, chan, ctx]
    exact nbs
  · have quotaOf : t.quotaOf who = s.quotaOf who := by simp only [State.quotaOf, inForce]
    rw [State.masked, quotaOf, chan]
    exact quota
  · simpa only [State.burstOf, inForce] using burst

/-- The request as it stands in the queue once it is accepted. -/
def Req.accepted (q : Req) (now seq : Nat) : Req := { q with at_ := now, seq := seq }

/-- The channel with an accepted read alone in its queue. -/
structure Alone (s : State) (ch : Nat) (q : Req) (t : State) : Prop where
  /-- the read queue -/
  reads : (t.chan ch).readQ = [q]
  /-- the rest of what a grant goes by -/
  rest : (t.chan ch).mode = (s.chan ch).mode ∧ (t.chan ch).nbrdy = (s.chan ch).nbrdy ∧ (t.chan ch).recentreDue = (s.chan ch).recentreDue ∧
    (t.chan ch).grant = (s.chan ch).grant ∧ (t.chan ch).nbHold = (s.chan ch).nbHold ∧ (t.chan ch).lock = (s.chan ch).lock ∧
    (t.chan ch).writeQ = (s.chan ch).writeQ ∧ (t.chan ch).waitNbs = (s.chan ch).waitNbs ∧ (t.chan ch).grants = (s.chan ch).grants ∧
    (t.chan ch).banks = (s.chan ch).banks
  /-- all else -/
  kept : Keeps [.chans] s t

section
variable {s : State} {ch : Nat} {q : Req} (h : ReadsAtOnce s ch q.who q.bank q.row)
include h

theorem ReadsAtOnce.awakeStack : (s.stack (ch / 16)).sr = false := by
  have := h.conv
  simp only [State.conventional, Bool.and_eq_true, Bool.not_eq_true'] at this
  exact this.2

theorem ReadsAtOnce.accept (hw : q.write = false) : Alone s ch (q.accepted s.cyc ((s.chan ch).lastSeq + 1)) (s.accept ch q) := by
  have reads := h.reads
  have accepted : s.accept ch q = s.modChan ch (fun c => ((c.wake q.bank).countBank q.bank (s.slotOfLine (q.spot ch))).push { q with at_ := s.cyc }) := by
    rw [State.accept, h.awakeStack]
    rfl
  have push (c : Channel) (r : Req) (hr : r.write = false) : c.push r = { c with readQ := c.readQ ++ [{ r with seq := c.lastSeq + 1 }] } := by
    rw [Channel.push]
    exact if_neg (by simp [hr])
  have chan : (s.accept ch q).chan ch = { (s.chan ch).wake q.bank |>.countBank q.bank (s.slotOfLine (q.spot ch)) with
      readQ := (s.chan ch).readQ ++ [q.accepted s.cyc ((s.chan ch).lastSeq + 1)] } := by
    rw [accepted, State.chan_modChan, push _ { q with at_ := s.cyc } hw]
    rfl
  refine ⟨by rw [chan, reads]; rfl, ?_, by rw [accepted]; exact Keeps.modChan ..⟩
  rw [chan]
  exact ⟨rfl, rfl, rfl, rfl, rfl, rfl, rfl, rfl, rfl, rfl⟩

end

section
variable {s t : State} {ch : Nat} {q : Req} (h : ReadsAtOnce s ch q.who q.bank q.row) (a : Alone s ch q t)
include h a

theorem Alone.chooses (hq : classOf q.who = 0) : t.serves ch = true ∧ t.nbsPending ch = false ∧ t.nextGrant ch [] = some q.who := by
  obtain ⟨mode, nbrdy, centred, grant, hold, lock, writes, waiters, grants, banks⟩ := a.rest
  have stack : t.stack (ch / 16) = s.stack (ch / 16) := a.kept.stack_eq rfl _
  have half : t.half = s.half := a.kept.same .half (by decide)
  have regs : t.regs = s.regs := a.kept.same .regs (by decide)
  have inForce (u off lo n : Nat) : t.inForce u off lo n = s.inForce u off lo n := by rw [State.inForce, State.inForce, half, regs]
  have nbsMay (who : Nat) : (t.chan ch).nbsMay who = (s.chan ch).nbsMay who := by rw [Channel.nbsMay, Channel.nbsMay, hold, lock]
  refine ⟨?_, ?_, ?_⟩
  · rw [State.serves, State.conventional, mode, nbrdy, stack, centred, h.centred, Bool.false_and, Bool.not_false, Bool.and_true]
    exact h.conv
  · have nbs := h.nbs
    simp only [State.nbsPending] at nbs ⊢
    rw [grant]
    simp only [nbsMay, a.kept.ctx_eq rfl]
    exact nbs
  · have waiting : (t.chan ch).waiting = [q.who] := by
      rw [Channel.waiting, a.reads, waiters, h.waiters]
      rfl
    have unmasked : t.masked (t.chan ch) q.who = false := by
      have quotaOf : t.quotaOf q.who = s.quotaOf q.who := by simp only [State.quotaOf, inForce]
      rw [State.masked, quotaOf, grants]
      exact h.quota
    have six : q.who ≠ 6 := fun e => by rw [e] at hq; contradiction
    have seven : q.who ≠ 7 := fun e => by rw [e] at hq; contradiction
    simp only [State.nextGrant, waiting, List.append_nil]
    simp [unmasked, hq, six, seven]

/-- The grant counted, its read is the one to be served. -/
theorem Alone.granted : ((t.countGrant ch q.who).chan ch).readQ = [q] ∧ ((t.countGrant ch q.who).chan ch).writeQ = [] ∧
    ((t.countGrant ch q.who).chan ch).bank q.bank = (s.chan ch).bank q.bank ∧ 0 < (t.countGrant ch q.who).burstOf q.who ∧
    Keeps [.chans] s (t.countGrant ch q.who) := by
  obtain ⟨-, -, -, -, -, -, writes, -, -, banks⟩ := a.rest
  have kept : Keeps [.chans] s (t.countGrant ch q.who) := (a.kept.append (Keeps.countGrant ..)).mono rfl
  have half : (t.countGrant ch q.who).half = s.half := kept.same .half (by decide)
  have regs : (t.countGrant ch q.who).regs = s.regs := kept.same .regs (by decide)
  have inForce (u off lo n : Nat) : (t.countGrant ch q.who).inForce u off lo n = s.inForce u off lo n := by rw [State.inForce, State.inForce, half, regs]
  refine ⟨?_, ?_, ?_, ?_, kept⟩
  · rw [State.countGrant, State.chan_modChan]
    exact a.reads
  · rw [State.countGrant, State.chan_modChan]
    exact writes.trans h.writes
  · rw [State.countGrant, State.chan_modChan]
    exact congrArg (Tab.get (fun _ => ({} : Bank)) · q.bank) banks
  · simp only [State.burstOf, inForce]
    exact h.burst
end

/-- The only read queued for a requester, its row open, is the next to be served. -/
theorem State.pick_only {s : State} {ch : Nat} {q : Req} (hr : (s.chan ch).readQ = [q]) (ho : ((s.chan ch).bank q.bank).row = some q.row) :
    s.pick ch q.who = some q := by
  have mine : (s.chan ch).readQ.filter (fun r => r.who == q.who && s.canServe ch r) = [q] := by
    simp [hr, State.canServe, ho]
  unfold State.pick
  extract_lets c mine' cap
  have same : mine' = [q] := mine
  rw [same]
  have hit : (c.bank q.bank).row == some q.row := by simp [c, ho]
  by_cases hc : cap = 0 <;> by_cases hold : q.at_ + cap * 160 < s.cyc <;> simp [hc, hold, hit]

theorem State.pick_none {s : State} {ch who : Nat} (hr : (s.chan ch).readQ = []) : s.pick ch who = none := by
  unfold State.pick
  extract_lets c mine cap
  have empty : mine = [] := by simp [mine, c, hr]
  rw [empty]
  simp

/-- One grant's only read served. -/
theorem State.runGrant_only {s : State} {ch n : Nat} {q : Req} (hr : (s.chan ch).readQ = [q]) (ho : ((s.chan ch).bank q.bank).row = some q.row)
    (hb : 0 < s.burstOf q.who) (he : ((s.serve ch q).chan ch).readQ = []) : State.runGrant (n + 1) ch q.who 0 s = s.serve ch q := by
  rw [State.runGrant, if_neg (by omega), State.pick_only hr ho]
  show State.runGrant n ch q.who (0 + q.cols) (s.serve ch q) = _
  cases n with
  | zero => rfl
  | succ n =>
    rw [State.runGrant, State.pick_none he]
    exact ite_self _

/-- The state that a read of the open row answers from: the request taken from the queue, its columns counted. -/
def State.takenRead (s : State) (ch : Nat) (q : Req) : State := (s.modChan ch (fun c => { c with readQ := c.readQ.erase q })).spend 1 2

theorem Keeps.takenRead (s : State) (ch : Nat) (q : Req) : Keeps [.chans, .act] s (s.takenRead ch q) := (Keeps.modChan ..).append (Keeps.spend ..)

/-- A read with no write before it, from its open row. -/
theorem State.serve_open {s : State} {ch : Nat} {q : Req} (hw : (s.chan ch).writeQ = []) (ho : ((s.chan ch).bank q.bank).row = some q.row)
    (ha : s.lineAsks (q.spot ch) = false) : s.serve ch q = (s.takenRead ch q).answerRead ch q := by
  have none : (s.chan ch).covered ch q = 0 := by simp [Channel.covered, hw]
  have isOpen : ((s.modChan ch (fun c => { c with readQ := c.readQ.erase q })).chan ch).bank q.bank = (s.chan ch).bank q.bank := by
    rw [State.chan_modChan]
    rfl
  have asks : (s.takenRead ch q).lineAsks (q.spot ch) = false := by rw [(Keeps.takenRead ..).lineAsks_eq rfl, ha]
  unfold State.serve
  extract_lets m n s0
  have m0 : m = 0 := none
  rw [m0, if_neg (by decide), if_pos rfl, State.readBanks, State.reachRow, isOpen, ho, if_pos rfl]
  exact if_neg (by rw [show (s0.spend 1 2).lineAsks (q.spot ch) = false from asks]; decide)

theorem Keeps.answerRead_unfilled (s : State) (ch : Nat) (q : Req) (hf : q.fill = 0) :
    Keeps [.hubs, .parts, .pages, .ports, .logs, .act, .out] s (s.answerRead ch q) := by
  unfold State.answerRead
  extract_lets d0 d s1 s2
  have noted : Keeps [.hubs, .parts, .pages, .ports, .logs, .act, .out] s s1 := Keeps.noteRead ..
  have same : s2 = s1 := if_neg (by rw [hf]; decide)
  rw [same, if_neg (by rw [hf]; decide)]
  exact (noted.append (Keeps.answer ..)).mono rfl

/-- The answer to a read that no buffer takes, from a line with no write queued. -/
theorem State.answerRead_unfilled (s : State) (ch : Nat) (q : Req) (hf : q.fill = 0) (hw : (s.chan ch).writeQ = []) :
    (s.answerRead ch q).out.answer =
      some { kind := 1, data := lineBytes (s.readLine (q.spot ch)).1, poison := (s.readLine (q.spot ch)).2 } := by
  have line : s.overlaid ch (q.spot ch) (fun w => decide (w.seq < q.seq)) = s.readLine (q.spot ch) := by simp [State.overlaid, hw]
  unfold State.answerRead
  extract_lets d0 d s1 s2
  have data : d = s.readLine (q.spot ch) := by simp [d, hf, d0, line]
  rw [if_neg (by rw [hf]; decide), data]
  generalize s2 = u
  rfl

/-- A read that its channel grants at once is answered with its line of the banks, and nothing is stored. -/
theorem ReadsAtOnce.askRead {s : State} {ch : Nat} {q : Req} (h : ReadsAtOnce s ch q.who q.bank q.row) (hq : classOf q.who = 0) (hw : q.write = false)
    (hf : q.fill = 0) (ha : s.lineAsks (q.spot ch) = false) :
    (s.askRead ch q).out.answer = some { kind := 1, data := lineBytes (s.readLine (q.spot ch)).1, poison := (s.readLine (q.spot ch)).2 } ∧
      Keeps [.chans, .hubs, .parts, .pages, .ports, .logs, .act, .out] s (s.askRead ch q) := by
  have room : s.hasRoom ch false = true := by simp [State.hasRoom, h.reads, h.held]
  have a := h.accept hw
  generalize hr : q.accepted s.cyc ((s.chan ch).lastSeq + 1) = r at a
  have who : r.who = q.who := by rw [← hr]; rfl
  have fill : r.fill = 0 := by rw [← hr]; exact hf
  have spot : r.spot ch = q.spot ch := by rw [← hr]; rfl
  have hr' : ReadsAtOnce s ch r.who r.bank r.row := by rw [← hr]; exact h
  have chooses := Alone.chooses hr' a (by rw [who]; exact hq)
  obtain ⟨reads, writes, bank, burst, kept⟩ := Alone.granted hr' a
  rw [State.askRead, if_pos room, State.grantNow, ← who, if_pos chooses]
  generalize (s.accept ch q).countGrant ch r.who = u at reads writes bank burst kept
  have isOpen : ((u.chan ch).bank r.bank).row = some r.row := by rw [bank, hr'.isOpen]
  have asks : u.lineAsks (r.spot ch) = false := by rw [kept.lineAsks_eq rfl, spot, ha]
  have serve := State.serve_open writes isOpen asks
  have taken := Keeps.takenRead u ch r
  have chan : (u.takenRead ch r).chan ch = { u.chan ch with readQ := [] } := by
    rw [State.takenRead, (Keeps.spend ..).chan_eq rfl, State.chan_modChan, reads]
    simp
  have answered := (u.takenRead ch r).answerRead_unfilled ch r fill (by rw [chan]; exact writes)
  have side := Keeps.answerRead_unfilled (u.takenRead ch r) ch r fill
  have line : (u.takenRead ch r).readLine (r.spot ch) = s.readLine (q.spot ch) := by rw [taken.readLine_eq rfl, kept.readLine_eq rfl, spot]
  have done : ((u.serve ch r).chan ch).readQ = [] := by rw [serve, side.chan_eq rfl, chan]
  rw [State.runGrant_only reads isOpen burst done, serve, answered, line]
  exact ⟨rfl, ((kept.append taken).append side).mono rfl⟩

end Sys2Proof.Machine
end

section
/-! The peer aperture and SPDM (14 R555; 18 R708). -/

namespace Sys2Proof.Machine

/-! ### Requests accepted (04 R120, R121) -/

/-- The channel of an accepted request: woken or not, its bank counted, the request put at the end of its queue. -/
theorem State.accept_chan (s : State) (ch : Nat) (q : Req) :
    ∃ ranks, (s.accept ch q).chan ch = { ((s.chan ch).countBank q.bank (s.slotOfLine (q.spot ch))).push { q with at_ := s.cyc } with ranks := ranks } ∧
      (ranks = (s.chan ch).ranks ∨ ranks = ((s.chan ch).wake q.bank).ranks) := by
  have push (c : Channel) (r : Req) (ranks : Tab RankPower) : ({ c with ranks := ranks } : Channel).push r = { c.push r with ranks := ranks } := by
    unfold Channel.push
    cases r.write <;> rfl
  unfold State.accept
  extract_lets q' sl
  split
  · refine ⟨(s.chan ch).ranks, ?_, .inl rfl⟩
    rw [(Keeps.enqueueWake ..).chan_eq rfl, State.chan_modChan, ← push]
    rfl
  · refine ⟨((s.chan ch).wake q.bank).ranks, ?_, .inr rfl⟩
    rw [State.chan_modChan, ← push]
    rfl

theorem State.accept_read (s : State) (ch : Nat) (q : Req) (hw : q.write = false) : ∃ r : Req, ((s.accept ch q).chan ch).readQ = (s.chan ch).readQ ++ [r] ∧
    r.who = q.who ∧ r.addr = q.addr ∧ r.bank = q.bank ∧ r.row = q.row ∧ r.line = q.line := by
  obtain ⟨ranks, chan, -⟩ := s.accept_chan ch q
  rw [chan, Channel.push]
  simp only [hw, Bool.false_eq_true, if_false]
  exact ⟨_, rfl, rfl, rfl, rfl, rfl, rfl⟩

theorem State.accept_write (s : State) (ch : Nat) (q : Req) (hw : q.write = true) : ∃ r : Req, ((s.accept ch q).chan ch).writeQ = (s.chan ch).writeQ ++ [r] ∧
    r.who = q.who ∧ r.bank = q.bank ∧ r.row = q.row ∧ r.line = q.line ∧ r.data = q.data ∧ r.mask = q.mask := by
  obtain ⟨ranks, chan, -⟩ := s.accept_chan ch q
  rw [chan, Channel.push]
  simp only [hw, if_true]
  exact ⟨_, rfl, rfl, rfl, rfl, rfl, rfl, rfl⟩

/-- A channel that serves nothing serves nothing after a request is accepted: its rank is woken at most. -/
theorem State.serves_accept {s : State} {ch : Nat} (q : Req) (h : s.serves ch = false) : (s.accept ch q).serves ch = false := by
  obtain ⟨ranks, chan, woken⟩ := s.accept_chan ch q
  have stack : (s.accept ch q).stack (ch / 16) = s.stack (ch / 16) := (Keeps.accept ..).stack_eq rfl _
  have rest : ((s.accept ch q).chan ch).mode = (s.chan ch).mode ∧ ((s.accept ch q).chan ch).nbrdy = (s.chan ch).nbrdy ∧
      ((s.accept ch q).chan ch).recentreDue = (s.chan ch).recentreDue ∧ ((s.accept ch q).chan ch).ranks = ranks := by
    rw [chan, Channel.push]
    cases q.write <;> exact ⟨rfl, rfl, rfl, rfl⟩
  obtain ⟨mode, nbrdy, due, table⟩ := rest
  have conv : (s.accept ch q).conventional ch = s.conventional ch := by rw [State.conventional, State.conventional, mode, nbrdy, stack]
  have awake (r : Nat) (hr : (s.chan ch).rank r ≠ .selfRefresh) : ((s.accept ch q).chan ch).rank r ≠ .selfRefresh := by
    rw [Channel.rank, table]
    rcases woken with rfl | rfl
    · exact hr
    · by_cases hj : r = q.bank / 2
      · subst hj
        rw [show (Tab.get _ ((s.chan ch).wake q.bank).ranks (q.bank / 2)) = RankPower.awake from Channel.rank_setRank ..]
        decide
      · rw [show (Tab.get _ ((s.chan ch).wake q.bank).ranks r) = (s.chan ch).rank r from Channel.rank_setRank_ne _ _ _ _ hj]
        exact hr
  simp only [State.serves, conv, due] at h ⊢
  rcases Bool.and_eq_false_iff.mp h with h | h
  · rw [h, Bool.false_and]
  · refine Bool.and_eq_false_iff.mpr (.inr ?_)
    simp only [Bool.not_eq_false', Bool.and_eq_true, List.any_eq_true, bne_iff_ne] at h ⊢
    obtain ⟨hd, r, hr, hp⟩ := h
    exact ⟨hd, r, hr, awake r hp⟩

/-- A read asked of a channel that serves nothing waits in its queue. -/
theorem State.askRead_waits {s : State} {ch : Nat} {q : Req} (hroom : s.hasRoom ch false = true) (hs : s.serves ch = false) (hw : q.write = false) :
    (∃ r ∈ ((s.askRead ch q).chan ch).readQ, r.who = q.who ∧ r.addr = q.addr ∧ r.bank = q.bank ∧ r.row = q.row ∧ r.line = q.line) ∧
      Keeps [.chans, .hubs] s (s.askRead ch q) := by
  have waits : s.askRead ch q = s.accept ch q := by
    rw [State.askRead, if_pos hroom, State.grantNow, if_neg]
    rw [State.serves_accept q hs]
    exact fun g => Bool.false_ne_true g.1
  obtain ⟨r, reads, same⟩ := s.accept_read ch q hw
  rw [waits]
  exact ⟨⟨r, by rw [reads]; exact List.mem_append_right _ List.mem_cons_self, same⟩, Keeps.accept ..⟩

/-! ### The request for a service address -/

theorem bankOf_chanOfBank (b : Nat) : bankOf (chanOfBank b) (b % 48) = b := by
  unfold bankOf chanOfBank
  omega

theorem State.spot_readReq (s : State) (who fill : Nat) (part : Option Nat) (sa : Nat) :
    (s.readReq who fill part sa).spot (chanOfBank (s.locate sa).moduleBank) = s.lineOfSa sa := by
  show lineKey (bankOf (chanOfBank (s.locate sa).moduleBank) ((s.locate sa).moduleBank % 48)) _ _ = _
  rw [bankOf_chanOfBank]
  rfl

theorem classOf_port (p : Fin 4) : classOf p = 0 := if_pos (by omega)


theorem State.acceptWrite_writeQ (s : State) (who src : Nat) (part : Option Nat) (sa : Nat) (d : Line512) (mask : BitVec 64) (pois : Bool)
    (peer : Option (Nat × Nat)) (hdr : Option (BitVec 128)) :
    ∃ q : Req, ((s.acceptWrite who src part sa d mask pois peer hdr).chan (chanOfBank (s.locate sa).moduleBank)).writeQ =
        (s.chan (chanOfBank (s.locate sa).moduleBank)).writeQ ++ [q] ∧
      q.who = who ∧ q.bank = (s.locate sa).moduleBank % 48 ∧ q.row = (s.locate sa).row ∧ q.line = (s.locate sa).col / 2 ∧ q.data = d ∧ q.mask = mask := by
  unfold State.acceptWrite
  extract_lets l k s1
  obtain ⟨q, queue, same⟩ := s1.accept_write (chanOfBank l.moduleBank)
    { who := who, part := part, bank := l.moduleBank % 48, row := l.row, line := l.col / 2, write := true, data := d, mask := mask, poison := pois
      peer := peer, hdr := hdr, addr := sa, stream := some k, epoch := (s.stream k).epoch } rfl
  exact ⟨q, queue, same⟩

/-! ### Reads and writes through the aperture (14 R555) -/

/-- A line's way over the mesh from port `p` leaves the request for it as it is. -/
theorem State.locate_readMesh (s : State) (a b n sa : Nat) : (s.readMesh a b n).locate sa = s.locate sa := by
  have kept := Keeps.readMesh s a b n
  rw [State.locate, State.locate, kept.same .boot (by decide), kept.slot_eq rfl rfl]

theorem State.readMesh_answer (s : State) (a b n : Nat) : (s.readMesh a b n).out.answer = s.out.answer := by
  rw [State.readMesh, (Keeps.meshBytes ..).same .out (by decide), State.viaMesh, (Keeps.meshBytes ..).same .out (by decide)]
  rfl

theorem exec_peerApertureRead {s : State} {p : Fin 4} {e : Fin 16} {off : BitVec 25} {sa : Nat} (hsa : s.peerSa p e (off.toNat * 64) = some sa)
    (hd : (s.slot (sa / slotBytes)).dead = false) :
    exec (.peerApertureRead p e off) s = .next ((s.readMesh (4 * p.val) (s.homeOf sa) 1).askRead (chanOfBank (s.locate sa).moduleBank)
      (s.readReq p 0 (s.slot (sa / slotBytes)).owner sa)) := by
  show execPeerApertureRead p e off s = _
  simp only [execPeerApertureRead, hsa, hd, Bool.false_eq_true, if_false]

theorem exec_peerApertureRead_none {s : State} {p : Fin 4} {e : Fin 16} {off : BitVec 25} (hsa : s.peerSa p e (off.toNat * 64) = none) :
    exec (.peerApertureRead p e off) s = .next s.unsupported := by
  show execPeerApertureRead p e off s = _
  simp only [execPeerApertureRead, hsa]

/-- The line at `sa` gone from the read buffer of every port. -/
def State.dropLine (s : State) (sa : Nat) : State :=
  s.putPorts (Tab.updMany (fun _ => {}) (fun h : Port => { h with prb := Tab.erase h.prb (sa / 64) }) (List.range 4) s.ports)

theorem Keeps.dropLine (s : State) (sa : Nat) : Keeps [.ports] s (s.dropLine sa) := Keeps.putPorts ..

theorem State.dropLine_prb (s : State) (sa : Nat) : ∀ k < 4, ∀ x ∈ ((s.dropLine sa).hport k).prb, x.1 ≠ sa / 64 := by
  intro k hk
  rw [State.hport, State.dropLine, State.putPorts_ports]
  exact Tab.get_updMany_has (P := fun h : Port => ∀ x ∈ h.prb, x.1 ≠ sa / 64) _ _ (fun h => Tab.ne_of_mem_erase h.prb (sa / 64)) _ _ _
    (.inr (List.mem_range.mpr hk))

/-- A peer's write accepted: the request queued, and the line gone from every port's read buffer (14 R533). -/
def State.peerWrite (s : State) (p e : Nat) (part : Nat) (sa addr : Nat) (data : BitVec 512) (mask : BitVec 64) : State :=
  ((s.viaMesh (4 * p) (s.homeOf sa) 1).acceptWrite p p (some part) sa data mask false (some (e, addr)) none).dropLine sa

theorem exec_peerApertureWrite {s : State} {p : Fin 4} {e : Fin 16} {off : BitVec 25} {data : BitVec 512} {mask : BitVec 64} {sa : Nat}
    (hsa : s.peerSa p e (off.toNat * 64) = some sa) (hw : flag (Tab.get (fun _ => 0#32) (s.hport p).apt e).toNat 20 = true)
    (hr : s.hasRoom (chanOfBank (s.locate sa).moduleBank) true = true) :
    exec (.peerApertureWrite p e off data mask) s = .next ((s.peerWrite p e (field (Tab.get (fun _ => 0#32) (s.hport p).apt e).toNat 13 6) sa
      (e.val * 2 ^ 31 + off.toNat * 64) data mask).answer { kind := 0 }) := by
  show execPeerApertureWrite p e off data mask s = _
  simp only [execPeerApertureWrite, hsa, hw, hr, Bool.true_eq_false, if_false, if_true]
  rfl

theorem exec_peerApertureWrite_barred {s : State} {p : Fin 4} {e : Fin 16} {off : BitVec 25} {data : BitVec 512} {mask : BitVec 64} {sa : Nat}
    (hsa : s.peerSa p e (off.toNat * 64) = some sa) (hw : flag (Tab.get (fun _ => 0#32) (s.hport p).apt e).toNat 20 = false) :
    exec (.peerApertureWrite p e off data mask) s = .next s.unsupported := by
  show execPeerApertureWrite p e off data mask s = _
  simp only [execPeerApertureWrite, hsa, hw, if_true]

theorem State.peerWrite_spec (s : State) (p e part sa addr : Nat) (data : BitVec 512) (mask : BitVec 64) :
    (∃ q : Req, ((s.peerWrite p e part sa addr data mask).chan (chanOfBank (s.locate sa).moduleBank)).writeQ =
        (s.chan (chanOfBank (s.locate sa).moduleBank)).writeQ ++ [q] ∧ q.bank = (s.locate sa).moduleBank % 48 ∧ q.row = (s.locate sa).row ∧
        q.line = (s.locate sa).col / 2 ∧ q.data = data ∧ q.mask = mask) ∧
      (∀ k < 4, ∀ x ∈ ((s.peerWrite p e part sa addr data mask).hport k).prb, x.1 ≠ sa / 64) ∧
      Keeps [.pm, .act, .out, .chans, .hubs, .streams, .ports] s (s.peerWrite p e part sa addr data mask) := by
  have mesh := Keeps.viaMesh s (4 * p) (s.homeOf sa) 1
  have locate : (s.viaMesh (4 * p) (s.homeOf sa) 1).locate sa = s.locate sa := by
    rw [State.locate, State.locate, mesh.same .boot (by decide), mesh.slot_eq rfl rfl]
  obtain ⟨q, queue, -, bank, row, line, same⟩ := (s.viaMesh (4 * p) (s.homeOf sa) 1).acceptWrite_writeQ p p (some part) sa data mask false (some (e, addr)) none
  rw [locate] at queue bank row line
  refine ⟨⟨q, ?_, bank, row, line, same⟩, fun k hk => ?_, ?_⟩
  · rw [State.peerWrite, (Keeps.dropLine ..).chan_eq rfl, queue, mesh.chan_eq rfl]
  · exact State.dropLine_prb _ sa k hk
  · exact ((mesh.append (Keeps.acceptWrite ..)).append (Keeps.dropLine ..)).mono rfl

/-- Settles O15: `ReadsAtOnce.askRead` and `State.askRead_waits` for a peer's reads, `State.peerWrite_spec` for its writes. -/
theorem peerAndSpdmComplete : Obligations.PeerAndSpdmComplete := by
  unfold Obligations.PeerAndSpdmComplete
  refine ⟨fun s p v ho hc hs => ?_, fun s p v h => ?_, fun s p e off sa l hsa hd hl hr ha => ?_, fun s p e off sa l hsa hd hl hroom hs => ?_,
    fun s p e off hsa => .next (exec_peerApertureRead_none hsa) ⟨⟨_, rfl, rfl⟩, Keeps.unsupported s⟩, fun s p e off data mask sa hsa hw hroom => ?_,
    fun s p e off data mask sa hsa hw => .next (exec_peerApertureWrite_barred hsa hw) ⟨⟨_, rfl, rfl⟩, Keeps.unsupported s⟩,
    fun s p => .next rfl ⟨⟨_, rfl, rfl, rfl⟩, Keeps.answer ..⟩, fun s p => .next rfl ⟨⟨_, rfl, rfl, rfl⟩, Keeps.answer ..⟩⟩
  case refine_1 =>
    refine .next (next_congr (if_pos ⟨ho, hc, hs⟩)) ⟨?_, Keeps.modHport ..⟩
    rw [State.hport_modHport, Tab.get_set_same]
  case refine_2 =>
    refine next_congr (if_neg ?_)
    rintro ⟨ho, hc, -⟩
    exact h.elim (fun h => h ho) (fun h => h hc)
  case refine_3 =>
    subst hl
    have mesh := Keeps.readMesh s (4 * p.val) (s.homeOf sa) 1
    have spot := s.spot_readReq p 0 (s.slot (sa / slotBytes)).owner sa
    obtain ⟨answer, kept⟩ := ReadsAtOnce.askRead (q := s.readReq p 0 (s.slot (sa / slotBytes)).owner sa) (mesh.readsAtOnce rfl hr) (classOf_port p) rfl rfl
      (by rw [mesh.lineAsks_eq rfl, spot, ha])
    rw [mesh.readLine_eq rfl, spot] at answer
    exact .next (exec_peerApertureRead hsa hd) ⟨answer, (mesh.append kept).sameBanks_of⟩
  case refine_4 =>
    subst hl
    have mesh := Keeps.readMesh s (4 * p.val) (s.homeOf sa) 1
    have chan : (s.readMesh (4 * p.val) (s.homeOf sa) 1).chan (chanOfBank (s.locate sa).moduleBank) = s.chan (chanOfBank (s.locate sa).moduleBank) :=
      mesh.chan_eq rfl _
    have stack := mesh.stack_eq rfl (chanOfBank (s.locate sa).moduleBank / 16)
    obtain ⟨queued, kept⟩ := State.askRead_waits (q := s.readReq p 0 (s.slot (sa / slotBytes)).owner sa) (s := s.readMesh (4 * p.val) (s.homeOf sa) 1)
      (by rw [State.hasRoom, chan, stack]; exact hroom) (by rw [State.serves, State.conventional, chan, stack]; exact hs) rfl
    refine .next (exec_peerApertureRead hsa hd) ⟨queued, ?_⟩
    rw [kept.same .out (by decide), State.readMesh_answer]
  case refine_5 =>
    obtain ⟨queued, gone, kept⟩ := s.peerWrite_spec p e (field (Tab.get (fun _ => 0#32) (s.hport p).apt e).toNat 13 6) sa (e.val * 2 ^ 31 + off.toNat * 64) data mask
    refine .next (exec_peerApertureWrite hsa hw hroom) ⟨⟨_, rfl, rfl⟩, ?_, ?_, (kept.append (Keeps.answer ..)).sameBanks_of⟩
    · rw [(Keeps.answer ..).chan_eq rfl]
      exact queued
    · intro k hk
      rw [(Keeps.answer ..).hport_eq rfl]
      exact gone k hk

end Sys2Proof.Machine
end

section
/-! Decoders, flags and drains of the host ports (02 R44 to R50; 14 R544 to R558). -/

namespace Sys2Proof.Machine

/-! ### Commits of the decoders (02 R44 to R46, R50) -/

theorem State.mem_committed {s : State} {q : Nat} : q ∈ s.committed ↔ q < 4 ∧ (s.hport q).commit = true := by simp [State.committed]

/-- The decoder's values taken on port `p`. -/
def State.decoderTaken (s : State) (p iw ig base size : Nat) : State :=
  s.modHport p (fun h => { h with iw := iw, ig := ig, base := base, size := size, commit := true })

/-- AGREE given to every committed port where the last one has committed. -/
def State.agreed (s : State) (w : Nat) : State :=
  s.putPorts (Tab.updMany (fun _ => {}) (fun h : Port => { h with agree := h.agree || decide (s.committed.length = w) }) s.committed s.ports)

theorem State.agreed_hport (s : State) (w q : Nat) : ∃ a, (s.agreed w).hport q = { s.hport q with agree := a } := by
  rw [State.hport, State.agreed, State.putPorts_ports]
  exact Tab.get_updMany_rel (R := fun x y : Port => ∃ a, y = { x with agree := a }) _ (fun x => ⟨x.agree, rfl⟩)
    (fun ⟨_, h⟩ ⟨b, g⟩ => ⟨b, by rw [g, h]⟩) _ (fun x => ⟨_, rfl⟩) _ _ q

theorem State.agreed_all (s : State) (w q : Nat) (hw : s.committed.length = w) (hq : q ∈ s.committed) : ((s.agreed w).hport q).agree = true := by
  rw [State.hport, State.agreed, State.putPorts_ports]
  exact Tab.get_updMany_has (P := fun h : Port => h.agree = true) _ _ (fun h => by simp [hw]) _ _ _ (.inr hq)

theorem State.length_committed_taken (s : State) (p : Fin 4) (iw ig base size : Nat) (hc : (s.hport p).commit = false) :
    (s.decoderTaken p iw ig base size).committed.length = s.committed.length + 1 := by
  have nodup (u : State) : u.committed.Nodup := List.nodup_range.filter _
  have fresh : p.val ∉ s.committed := fun h => by
    rw [State.mem_committed, hc] at h
    exact Bool.false_ne_true h.2
  have perm : (s.decoderTaken p iw ig base size).committed.Perm (p.val :: s.committed) := by
    refine (List.perm_ext_iff_of_nodup (nodup _) (List.nodup_cons.mpr ⟨fresh, nodup s⟩)).mpr fun q => ?_
    rw [List.mem_cons, State.mem_committed, State.mem_committed, State.decoderTaken]
    by_cases hq : q = p.val
    · subst hq
      rw [State.hport_modHport]
      exact ⟨fun _ => .inl rfl, fun _ => ⟨p.isLt, rfl⟩⟩
    · rw [State.hport_modHport_ne _ _ _ _ hq]
      exact ⟨.inr, fun h => h.resolve_left hq⟩
  rw [perm.length_eq, List.length_cons]

/-- What the ports hold of a commit that R46 refuses. -/
def State.commitBad (s : State) (p : Fin 4) (iw ig : BitVec 4) (base : BitVec 24) (size : BitVec 64) : Bool :=
  decide (waysOf iw.toNat = 0) || decide (6 < ig.toNat) || decide (size.toNat * waysOf iw.toNat ≠ s.hdmSize) || decide (waysOf iw.toNat ≤ s.hilPos p) ||
    s.committed.any (fun q => (s.hport q).iw != iw.toNat || (s.hport q).ig != ig.toNat || (s.hport q).base != base.toNat * 2 ^ 28 ||
      (s.hport q).size != size.toNat || s.hilPos q == s.hilPos p)

section
variable {s : State} {p : Fin 4} {iw ig : BitVec 4} {base : BitVec 24} {size : BitVec 64} (hc : (s.hport p).commit = false)
include hc

theorem exec_decoderCommit_good (hb : s.commitBad p iw ig base size = false) : exec (.decoderCommit p iw ig base size) s =
    .next (((s.decoderTaken p iw.toNat ig.toNat (base.toNat * 2 ^ 28) size.toNat).agreed (waysOf iw.toNat)).answer { kind := 3, data := leBytes 1 (nat true) }) :=
  next_congr ((if_neg (by simp [hc])).trans (if_neg (by rw [State.commitBad] at hb; rw [hb]; decide)))

theorem exec_decoderCommit_bad (hb : s.commitBad p iw ig base size = true) : exec (.decoderCommit p iw ig base size) s =
    .next (s.answer { kind := 3, data := leBytes 1 (nat false) }) :=
  next_congr ((if_neg (by simp [hc])).trans (if_pos hb))
end

/-! ### Lines at their home (14 R538, R549) -/

/-- A write at the home reads back merged, poisoned where it came so or left a part of a poisoned line. -/
theorem State.homeRead_homeWrite (s : State) (sa : Nat) (d : Line512) (mask : BitVec 64) (pois : Bool) :
    (s.homeWrite sa d mask pois).homeRead sa =
      (mergeLine mask (s.homeRead sa).1 d, pois || ((s.homeRead sa).2 && decide (mask ≠ BitVec.allOnes 64))) := by
  have found := Tab.find?_set (fun _ => ({} : Line)) s.lines (sa / 64)
    { data := mergeLine mask (s.homeRead sa).1 d, poison := pois || ((s.homeRead sa).2 && decide (mask ≠ BitVec.allOnes 64)), dirty := true }
    (fun h => Bool.noConfusion (congrArg Line.dirty h))
  have lines : (s.homeWrite sa d mask pois).lines = Tab.set (fun _ => {}) s.lines (sa / 64)
      { data := mergeLine mask (s.homeRead sa).1 d, poison := pois || ((s.homeRead sa).2 && decide (mask ≠ BitVec.allOnes 64)), dirty := true } := by
    rw [State.homeWrite, State.putLines_lines]
  rw [State.homeRead, lines, found]

/-- The parts that a read at the home goes through. -/
def homeParts : List Field := .lines :: memoryParts

theorem Keeps.homeRead_eq {L : List Field} {s t : State} (h : Keeps L s t) (hL : homeParts.all (fun f => !L.contains f) = true) (sa : Nat) :
    t.homeRead sa = s.homeRead sa := by
  simp only [homeParts, List.all_cons, Bool.and_eq_true, Bool.not_eq_true'] at hL
  have lines : t.lines = s.lines := h.same .lines (by simpa using hL.1)
  have read : t.readSa sa = s.readSa sa := by rw [← t.readSa_memoryOnly, h.memoryOnly_eq hL.2, s.readSa_memoryOnly]
  rw [State.homeRead, State.homeRead, lines, read]

/-- A flag taken from the head of its stream (14 R549). -/
def State.flagTaken (s : State) (k : Nat) (rest : List FlagWait) : State :=
  s.modStream k (fun t => { t with flags := rest, asked := t.asked && !{ t with flags := rest }.idle })

section
variable {s : State} {src : Fin 20} {part : Option (Fin 64)} {f : FlagWait} {rest : List FlagWait}
  (hf : (s.stream (streamKey src (part.map Fin.val))).flags = f :: rest)
include hf

theorem exec_flagPerform (hw : f.wait = 0) : exec (.flagPerform src part) s =
    .next ((s.flagTaken (streamKey src (part.map Fin.val)) rest).homeWrite f.sa f.data f.mask f.failed) := by
  show execFlagPerform src part s = _
  simp only [execFlagPerform, hf, hw, if_true]
  rfl

theorem exec_flagPerform_waits (hw : f.wait ≠ 0) : exec (.flagPerform src part) s = .next s := by
  show execFlagPerform src part s = _
  simp only [execFlagPerform, hf, if_neg hw]
end

/-! ### Drains (14 R553, R558) -/

section
variable {s : State} {p : Fin 4}

theorem exec_pdrainRead_port (h : ((List.range 65).all (fun q => (s.stream (p.val * 65 + q)).idle)) = true) :
    exec (.pdrainRead p 0) s = .next ((s.modHport p (fun h => { h with fails := 0 })).answer { kind := 3, data := leBytes 8 ((s.hport p).fails + 2 ^ 63) }) :=
  next_congr (if_pos h)

variable {vf : Fin 17} {q : Nat} (hv : vf.val ≠ 0) (hq : s.partOfPage (17 * p.val + vf.val) = some q)
include hv hq

theorem exec_pdrainRead_part (h : (s.stream (streamKey p (some q))).idle = true) :
    exec (.pdrainRead p vf) s = .next ((s.modHport p (fun h => { h with partFails := Tab.set (fun _ => 0) h.partFails q 0 })).answer
      { kind := 3, data := leBytes 8 (Tab.get (fun _ => 0) (s.hport p).partFails q + 2 ^ 63) }) := by
  show execPdrainRead p vf s = _
  simp only [execPdrainRead, if_neg hv, hq, h, if_true]

theorem exec_pdrainRead_waits (h : (s.stream (streamKey p (some q))).idle = false) :
    exec (.pdrainRead p vf) s = .next (s.modStream (streamKey p (some q)) (fun t => { t with asked := !t.idle })) := by
  show execPdrainRead p vf s = _
  simp only [execPdrainRead, if_neg hv, hq, h, Bool.false_eq_true, if_false]
  rfl
end

theorem le_foldl_max {α : Type} (f : α → Nat) (l : List α) (m : Nat) : m ≤ l.foldl (fun m t => max m (f t)) m ∧ ∀ a ∈ l, f a ≤ l.foldl (fun m t => max m (f t)) m := by
  induction l generalizing m with
  | nil => exact ⟨Nat.le_refl m, fun a ha => nomatch ha⟩
  | cons b l ih =>
    obtain ⟨low, all⟩ := ih (max m (f b))
    refine ⟨Nat.le_trans (Nat.le_max_left ..) low, fun a ha => ?_⟩
    rcases List.mem_cons.mp ha with rfl | ha
    · exact Nat.le_trans (Nat.le_max_right ..) low
    · exact all a ha

/-! ### Device writes observed (14 R544, R554) -/

/-- The other writes on their way stay so, with their data. -/
theorem State.hostDone_others (s : State) (w : HostWrite) : ∀ v ∈ s.out.inflight, v.id ≠ w.id →
    ∃ x ∈ (s.hostDone w true).out.inflight, x.id = v.id ∧ x.data = v.data := by
  intro v hv hne
  have rest : v ∈ s.out.inflight.filter (fun v => v.id != w.id) := List.mem_filter.mpr ⟨hv, by simpa using hne⟩
  simp only [State.hostDone, Bool.not_true, Bool.false_and, if_true, Bool.false_eq_true, if_false, State.putOut_out]
  exact ⟨_, List.mem_map_of_mem rest, rfl, rfl⟩

theorem State.lateLog_lfseq (s : State) (reason srck port : Nat) (part : Option Nat) (modid addr sa : Nat) :
    (s.lateLog reason srck port part modid addr sa).logs.lfseq = (s.logs.lfseq + 1) % 65536 := by
  have boxed (u : State) (tile cause : Nat) (p : Option Nat) (sev : Nat) (fs : List (Nat × Nat × Nat)) :
      (u.bbox tile cause p sev fs).logs = u.logs := (Keeps.bbox ..).same .logs (by decide)
  simp only [State.lateLog, apply_ite State.logs, State.modHport_logs, ite_self, boxed, State.putLogs_logs]

theorem State.lateFail_lfseq (s : State) (reason srck port : Nat) (part : Option Nat) (modid addr sa : Nat) :
    (s.lateFail reason srck port part modid addr sa).logs.lfseq = (s.logs.lfseq + 1) % 65536 := by
  unfold State.lateFail
  extract_lets s1
  cases part with
  | some p => rw [(Keeps.event ..).same .logs (by decide), State.lateLog_lfseq]
  | none => exact State.lateLog_lfseq ..

theorem State.hostDone_failed_lfseq (s : State) (w : HostWrite) : (s.hostDone w false).logs.lfseq = (s.logs.lfseq + 1) % 65536 := by
  by_cases hk : w.kind = .event
  · simp only [State.hostDone, Bool.false_eq_true, if_false, hk, if_true, State.lateLog_lfseq, State.putOut_logs]
  · simp only [State.hostDone, Bool.false_eq_true, if_false, hk, State.lateFail_lfseq]
    split <;> try split
    all_goals simp only [State.modPart_logs, State.putOut_logs]

/-! ### The obligation -/

theorem State.decoderTaken_hport (s : State) (p iw ig base size : Nat) : (s.decoderTaken p iw ig base size).hport p =
    { s.hport p with iw := iw, ig := ig, base := base, size := size, commit := true } := State.hport_modHport ..

/-- Decoder `p` released and AGREE taken from every port. -/
def State.uncommitted (s : State) (p : Nat) : State :=
  let s1 := s.modHport p (fun h => { h with commit := false })
  s1.putPorts (Tab.updMany (fun _ => {}) (fun h : Port => { h with agree := false }) (List.range 4) s1.ports)

theorem State.uncommitted_hport (s : State) (p q : Nat) :
    ∃ a, (s.uncommitted p).hport q = { (s.modHport p (fun h => { h with commit := false })).hport q with agree := a } := by
  rw [State.hport, State.uncommitted, State.putPorts_ports]
  exact Tab.get_updMany_rel (R := fun x y : Port => ∃ a, y = { x with agree := a }) _ (fun x => ⟨x.agree, rfl⟩)
    (fun ⟨_, h⟩ ⟨b, g⟩ => ⟨b, by rw [g, h]⟩) _ (fun x => ⟨_, rfl⟩) _ _ q

theorem State.uncommitted_agree (s : State) (p q : Nat) (hq : q < 4) : ((s.uncommitted p).hport q).agree = false := by
  rw [State.hport, State.uncommitted, State.putPorts_ports]
  exact Tab.get_updMany_has (P := fun h : Port => h.agree = false) _ _ (fun h => rfl) _ _ _ (.inr (List.mem_range.mpr hq))

/-- The answer of the host to a write, and the ferry channel that waits for it. -/
def State.observedAs (s : State) (w : HostWrite) (ok : Bool) : State :=
  match w.fe with
  | some f => (s.hostDone w ok).modFchan (16 * f.1 + f.2) (fun c => { c with posted := c.posted - 1 })
  | none => s.hostDone w ok

theorem exec_globallyObserved {s : State} {id : Nat} {w : HostWrite} (ok : Bool)
    (h : s.out.inflight.find? (fun v => v.id == id && v.sent) = some w) : exec (.globallyObserved id ok) s = .next (s.observedAs w ok) := by
  show execGloballyObserved id ok s = _
  simp only [execGloballyObserved, h]
  rfl

theorem Keeps.observedAs (s : State) (w : HostWrite) (ok : Bool) : Keeps [.fe] (s.hostDone w ok) (s.observedAs w ok) := by
  unfold State.observedAs
  cases w.fe with
  | some f => exact .modFchan ..
  | none => exact .refl ..

theorem State.sameBanks_observedAs (s : State) (w : HostWrite) (ok : Bool) : SameBanks s (s.observedAs w ok) :=
  ((Keeps.hostDone s w ok).append (.observedAs s w ok)).sameBanks rfl rfl

/-- Settles O14: `State.agreed_all` once the last port commits, `State.homeRead_homeWrite` for a flag, `State.hostDone_gone` for an observed write. -/
theorem hostPortCommandsComplete : Obligations.HostPortCommandsComplete := by
  refine ⟨fun s p iw ig base size hc hw hg hs hp others => ?_, fun s p iw ig base size hc bad => ?_, fun s p => ?_,
    fun s src part f rest hf hw => ?_, fun s src part f rest hf hw => exec_flagPerform_waits hf hw, fun s p h => ?_,
    fun s p vf q hv hq h => ?_, fun s p vf q hv hq h => ?_, fun s p => ?_, fun s id w h => ?_, fun s id w h => ?_⟩
  · have good : s.commitBad p iw ig base size = false := by
      simp only [State.commitBad, Bool.or_eq_false_iff, decide_eq_false_iff_not, List.any_eq_false, Bool.or_eq_true, not_or, bne_iff_ne,
        beq_iff_eq, not_not]
      exact ⟨⟨⟨⟨hw, by omega⟩, hs⟩, by omega⟩, fun q hq => by
        obtain ⟨hiw, hig, hbase, hsize, hpos⟩ := others q hq
        exact ⟨⟨⟨⟨hiw, hig⟩, hbase⟩, hsize⟩, hpos⟩⟩
    obtain ⟨a, ha⟩ := State.agreed_hport (s.decoderTaken p iw.toNat ig.toNat (base.toNat * 2 ^ 28) size.toNat) (waysOf iw.toNat) p
    rw [State.decoderTaken_hport] at ha
    have kept : Keeps [.ports] s ((s.decoderTaken p iw.toNat ig.toNat (base.toNat * 2 ^ 28) size.toNat).agreed (waysOf iw.toNat)) :=
      (Keeps.modHport ..).trans (.putPorts ..)
    have all (n : s.committed.length + 1 = waysOf iw.toNat) (q : Nat) :=
      State.agreed_all (s.decoderTaken p iw.toNat ig.toNat (base.toNat * 2 ^ 28) size.toNat) (waysOf iw.toNat) q
        ((State.length_committed_taken s p _ _ _ _ hc).trans n)
    have members (q : Nat) (hq : q ∈ ((s.decoderTaken p iw.toNat ig.toNat (base.toNat * 2 ^ 28) size.toNat).agreed (waysOf iw.toNat)).committed) :
        q ∈ (s.decoderTaken p iw.toNat ig.toNat (base.toNat * 2 ^ 28) size.toNat).committed := by
      rw [State.mem_committed] at hq ⊢
      obtain ⟨b, hb⟩ := State.agreed_hport (s.decoderTaken p iw.toNat ig.toNat (base.toNat * 2 ^ 28) size.toNat) (waysOf iw.toNat) q
      rwa [hb] at hq
    refine Does.next (exec_decoderCommit_good hc good) ?_
    generalize (s.decoderTaken p iw.toNat ig.toNat (base.toNat * 2 ^ 28) size.toNat).agreed (waysOf iw.toNat) = u at *
    have ports : (u.answer { kind := 3, data := leBytes 1 (nat true) }).ports = u.ports := (Keeps.answer ..).same .ports (by decide)
    rw [State.hport, ports, ← State.hport, ha]
    exact ⟨rfl, rfl, rfl, rfl, fun n q hq => by
      have hq' : q ∈ u.committed := by
        rw [State.mem_committed, State.hport, ports] at hq
        exact State.mem_committed.mpr hq
      rw [State.hport, ports]
      exact all n q (members q hq'), ⟨_, rfl, rfl⟩, kept.append (.answer ..)⟩
  · have refused : s.commitBad p iw ig base size = true := by
      simp only [State.commitBad, Bool.or_eq_true, decide_eq_true_eq, List.any_eq_true, bne_iff_ne, beq_iff_eq]
      rcases bad with h | h | h | h | ⟨q, hq, h | h⟩
      · exact .inl (.inl (.inl (.inr h)))
      · exact .inl (.inl (.inl (.inl h)))
      · exact .inl (.inl (.inr h))
      · exact .inl (.inr h)
      · exact .inr ⟨q, hq, .inl (.inl (.inr h))⟩
      · exact .inr ⟨q, hq, .inr h⟩
    exact .next (exec_decoderCommit_bad hc refused) ⟨(Keeps.answer ..).same .ports (by decide), ⟨_, rfl, rfl⟩, .answer ..⟩
  · refine Does.next (t := s.uncommitted p) rfl ⟨?_, fun q hq => s.uncommitted_agree p q hq, fun q hq hne => ?_, (Keeps.modHport ..).trans (.putPorts ..)⟩
    · obtain ⟨a, h⟩ := s.uncommitted_hport p p
      rw [h, State.hport_modHport]
    · obtain ⟨a, h⟩ := s.uncommitted_hport p q
      rw [h, State.hport_modHport_ne _ _ _ _ hne]
  · have taken : Keeps [.streams] s (s.flagTaken (streamKey src (part.map Fin.val)) rest) := .modStream ..
    have line := State.homeRead_homeWrite (s.flagTaken (streamKey src (part.map Fin.val)) rest) f.sa f.data f.mask f.failed
    rw [taken.homeRead_eq rfl] at line
    refine Does.next (exec_flagPerform hf hw) ⟨?_, by rw [line], fun failed => by rw [line, failed, Bool.true_or], taken.append (.homeWrite ..)⟩
    rw [(Keeps.homeWrite ..).stream_eq rfl, State.flagTaken, State.stream_modStream]
  · refine Does.next (exec_pdrainRead_port h) ⟨?_, ⟨_, rfl, rfl⟩, (Keeps.modHport ..).append (.answer ..)⟩
    rw [(Keeps.answer ..).hport_eq rfl, State.hport_modHport]
  · refine Does.next (exec_pdrainRead_part hv hq h) ⟨?_, ⟨_, rfl, rfl⟩, (Keeps.modHport ..).append (.answer ..)⟩
    rw [(Keeps.answer ..).hport_eq rfl, State.hport_modHport, Tab.get_set_same]
  · refine Does.next (exec_pdrainRead_waits hv hq h) ⟨?_, .modStream ..⟩
    rw [State.stream_modStream]
    show (!(s.stream _).idle) = true
    rw [h]
    rfl
  · refine Does.next rfl ⟨⟨_, rfl, rfl⟩, fun k hk => ?_, (Keeps.putLogs ..).append (.answer ..)⟩
    exact (le_foldl_max (fun k => (s.dir k).length) (List.range 16) 0).2 k (List.mem_range.mpr hk)
  · have out : (s.observedAs w true).out = (s.hostDone w true).out := (Keeps.observedAs s w true).same .out (by decide)
    refine Does.next (exec_globallyObserved true h) ⟨?_, ?_, fun f hf => ?_, s.sameBanks_observedAs w true⟩
    · rw [out]
      exact s.hostDone_gone w
    · rw [out]
      exact s.hostDone_others w
    · rw [State.observedAs, hf]
      show ((State.modFchan _ _ _).fchan _).posted = _
      rw [State.fchan_modFchan, (Keeps.hostDone_observed s w).fchan_eq rfl]
  · refine Does.next (exec_globallyObserved false h) ⟨?_, s.sameBanks_observedAs w false⟩
    rw [(Keeps.observedAs s w false).same .logs (by decide), s.hostDone_failed_lfseq w]

end Sys2Proof.Machine
end

section
/-! What a grant leaves of the other channels (04 R119 to R134). -/

namespace Sys2Proof.Machine

/-! ### Other channels (04 R119 to R134) -/

/-- Every channel but `ch` differs in its pass at most. -/
structure OthersPass (ch : Nat) (s t : State) : Prop where
  /-- each of them -/
  others : ∀ k, k ≠ ch → s.chans.Once k → PassOnly k s t

namespace OthersPass
variable {ch : Nat}

theorem refl (s : State) : OthersPass ch s s := ⟨fun _ _ h => .refl h⟩

theorem trans {s t u : State} (h : OthersPass ch s t) (g : OthersPass ch t u) : OthersPass ch s u :=
  ⟨fun k hk once => (h.others k hk once).trans (g.others k hk (h.others k hk once).once)⟩

theorem ite {p : Prop} [Decidable p] {s a b : State} (ha : OthersPass ch s a) (hb : OthersPass ch s b) : OthersPass ch s (if p then a else b) := by
  split
  · exact ha
  · exact hb

theorem keeps {L : List Field} {s t : State} (h : Keeps L s t) (hL : L.contains .chans = false) : OthersPass ch s t :=
  ⟨fun k _ once => h.passOnly hL k once⟩

theorem modChan (s : State) (f : Channel → Channel) : OthersPass ch s (s.modChan ch f) := ⟨fun k hk once =>
  ⟨⟨(s.chan k).pass, State.chan_modChan_ne s ch k f hk⟩, Tab.once_set (fun _ => ({} : Channel)) s.chans ch k (f (s.chan ch)) (.inr once)⟩⟩

theorem foldl {α : Type} {f : State → α → State} (hf : ∀ s a, OthersPass ch s (f s a)) (as : List α) (s : State) : OthersPass ch s (as.foldl f s) := by
  induction as generalizing s with
  | nil => exact refl s
  | cons a as ih => exact (hf s a).trans (ih _)

theorem accept (s : State) (q : Req) : OthersPass ch s (s.accept ch q) :=
  ite ((modChan ..).trans (keeps (Keeps.enqueueWake ..) rfl)) (modChan ..)

theorem repay (s : State) (j : Nat) : OthersPass ch s (s.repay ch j) := by
  have refreshed : OthersPass ch s (s.refreshBank ch j) := (keeps (Keeps.clearTallies ..) rfl).trans (modChan ..)
  exact refreshed.trans (modChan ..)

theorem reachRow (s : State) (j row who : Nat) : OthersPass ch s (s.reachRow ch j row who) := by
  have tally (u : State) : OthersPass ch u (u.tallyRow ch j row who) :=
    ite (refl u) (ite ((keeps (Keeps.modRow ..) rfl).trans (modChan ..)) (keeps (Keeps.modRow ..) rfl))
  have close : OthersPass ch s (s.closeRow ch j) := (modChan ..).trans (foldl (fun _ _ => repay ..) _ _)
  exact ite (refl s) ((ite close (refl s)).trans ((modChan ..).trans (tally _)))

theorem writeDone (s : State) (q : Req) (ok : Bool) : OthersPass ch s (s.writeDone q ok) := by
  unfold State.writeDone
  split
  · exact ite (keeps (Keeps.modStream ..) rfl) ((keeps (Keeps.modStream ..) rfl).trans (keeps (Keeps.reportFail ..) rfl))
  · exact ite (refl s) ⟨fun k _ once => State.ferryFault_passOnly _ _ _ _ _ _ once⟩
  · exact ite (refl s) (keeps (Keeps.answer ..) rfl)

theorem performWrite (s : State) (c : Nat) (q : Req) : OthersPass ch s (s.performWrite c q) := by
  have written (u : State) (k : Nat) : OthersPass ch u (u.writeLine k q.data q.mask q.poison (writePath q.who) q.part (s.addrFor q.who q.addr)).1 :=
    keeps (Keeps.writeLine ..) rfl
  have first := written s (q.spot c)
  simp only [State.performWrite]
  revert first
  rcases s.writeLine (q.spot c) q.data q.mask q.poison (writePath q.who) q.part (s.addrFor q.who q.addr) with ⟨u, ok⟩
  intro first
  refine trans ?_ (writeDone ..)
  cases s.movingLine q.addr with
  | none => exact first
  | some m => exact ite (first.trans (written ..)) first

theorem drainLine (s : State) (k : Nat) : OthersPass ch s (s.drainLine ch k) := (modChan ..).trans (foldl (fun _ _ => performWrite ..) _ _)

theorem drainTo (n lo : Nat) (s : State) : OthersPass ch s (State.drainTo n ch lo s) := by
  induction n generalizing s with
  | zero => exact refl s
  | succ n ih =>
    rw [State.drainTo]
    split
    · exact refl s
    · exact ite (refl s) ((modChan ..).trans ((performWrite ..).trans (ih _)))

theorem readBanks (s : State) (q : Req) : OthersPass ch s (s.readBanks ch q) :=
  ((reachRow ..).trans (keeps (Keeps.spend ..) rfl)).trans (ite (keeps (Keeps.askDecode ..) rfl) (keeps (Keeps.answerRead ..) rfl))

theorem serve (s : State) (q : Req) : OthersPass ch s (s.serve ch q) := by
  unfold State.serve
  extract_lets m n s0
  have taken : OthersPass ch s s0 := modChan ..
  exact ite (taken.trans (keeps (Keeps.answerRead ..) rfl))
    (ite (taken.trans (readBanks ..)) (taken.trans ((drainLine ..).trans ((readBanks ..).trans (drainTo ..)))))

theorem runGrant (n who used : Nat) (s : State) : OthersPass ch s (State.runGrant n ch who used s) := by
  induction n generalizing s used with
  | zero => exact refl s
  | succ n ih =>
    rw [State.runGrant]
    refine ite (refl s) ?_
    split
    · exact (serve ..).trans (ih ..)
    · exact refl s

theorem askRead (s : State) (q : Req) : OthersPass ch s (s.askRead ch q) :=
  ite ((accept ..).trans (ite ((modChan ..).trans (runGrant ..)) (refl _))) (refl s)

end OthersPass

end Sys2Proof.Machine
end

section
/-! Host reads and writes of a line (02 R48, R49; 04 R120, R121; 14 R530 to R552). -/

namespace Sys2Proof.Machine

/-! ### Parts that a line's way over the mesh leaves (02 R32) -/

theorem State.viaMesh_answer (s : State) (a b n : Nat) : (s.viaMesh a b n).out.answer = s.out.answer := by
  rw [State.viaMesh, (Keeps.meshBytes ..).same .out (by decide)]
  rfl

theorem Keeps.homeOf_eq {L : List Field} {s t : State} (h : Keeps L s t) (hs : L.contains .slots = false) (hh : L.contains .half = false) (sa : Nat) : t.homeOf sa = s.homeOf sa := by rw [State.homeOf, State.homeOf, h.slot_eq hs hh]

theorem Keeps.locate_eq {L : List Field} {s t : State} (h : Keeps L s t) (hb : L.contains .boot = false) (hs : L.contains .slots = false)
    (hh : L.contains .half = false) (sa : Nat) : t.locate sa = s.locate sa := by
  rw [State.locate, State.locate, h.same .boot (by simpa using hb), h.slot_eq hs hh]

theorem Keeps.hasRoom_eq {L : List Field} {s t : State} (h : Keeps L s t) (hc : L.contains .chans = false)
    (hs : L.contains .stks = false) (ch : Nat) (w : Bool) : t.hasRoom ch w = s.hasRoom ch w := by
  rw [State.hasRoom, State.hasRoom, h.chan_eq hc, h.stack_eq hs]

theorem Keeps.serves_eq {L : List Field} {s t : State} (h : Keeps L s t) (hc : L.contains .chans = false)
    (hs : L.contains .stks = false) (ch : Nat) : t.serves ch = s.serves ch := by
  rw [State.serves, State.serves, State.conventional, State.conventional, h.chan_eq hc, h.stack_eq hs]

/-! ### Reads that wait (04 R120, R121) -/

/-- A read queued where nothing is served stays so while another read is asked. -/
theorem State.askRead_queued {s : State} {k ch : Nat} {q r : Req} (once : s.chans.Once k) (hs : s.serves k = false) (hw : q.write = false)
    (hr : r ∈ (s.chan k).readQ) : r ∈ ((s.askRead ch q).chan k).readQ := by
  by_cases hk : k = ch
  · subst hk
    unfold State.askRead
    split
    · obtain ⟨x, reads, -⟩ := s.accept_read k q hw
      rw [State.grantNow, if_neg (by rw [State.serves_accept q hs]; exact fun g => Bool.false_ne_true g.1), reads]
      exact List.mem_append_left _ hr
    · exact hr
  · obtain ⟨p, same⟩ := ((OthersPass.askRead (ch := ch) s q).others k hk once).chan
    rw [same]
    exact hr

theorem State.once_accept (s : State) (ch : Nat) (q : Req) : (s.accept ch q).chans.Once ch := by
  unfold State.accept
  extract_lets q' sl
  split
  · rw [(Keeps.enqueueWake ..).same .chans (by decide)]
    exact State.once_modChan ..
  · exact State.once_modChan ..

theorem State.askRead_accepts {s : State} {ch : Nat} {q : Req} (hroom : s.hasRoom ch false = true) (hs : s.serves ch = false) :
    s.askRead ch q = s.accept ch q := by
  rw [State.askRead, if_pos hroom, State.grantNow, if_neg]
  rw [State.serves_accept q hs]
  exact fun g => Bool.false_ne_true g.1

/-- A read asked of a channel that serves nothing waits there, also where another is asked with it. -/
theorem State.askRead_askRead_waits {s : State} {k ch : Nat} {q x : Req} {n : Bool} (hroom : s.hasRoom k false = true) (hs : s.serves k = false)
    (hq : q.write = false) (hx : x.write = false) :
    ∃ r ∈ ((if n = true then (s.askRead k q).askRead ch x else s.askRead k q).chan k).readQ,
      r.who = q.who ∧ r.addr = q.addr ∧ r.bank = q.bank ∧ r.row = q.row ∧ r.line = q.line := by
  obtain ⟨r, reads, same⟩ := s.accept_read k q hq
  rw [State.askRead_accepts hroom hs]
  have queued : r ∈ ((s.accept k q).chan k).readQ := by rw [reads]; exact List.mem_append_right _ List.mem_cons_self
  refine ⟨r, ?_, same⟩
  split
  · exact State.askRead_queued (s.once_accept k q) (State.serves_accept q hs) hx queued
  · exact queued

/-- A port's read of a bulk line waits at a channel that serves nothing, also where the next line is asked for with it (14 R537). -/
theorem State.portRead_waits {s : State} {p sa : Nat} (hroom : s.hasRoom (chanOfBank (s.locate sa).moduleBank) false = true)
    (hs : s.serves (chanOfBank (s.locate sa).moduleBank) = false) :
    ∃ q ∈ ((s.portRead p sa).chan (chanOfBank (s.locate sa).moduleBank)).readQ, q.who = p ∧ q.addr = sa ∧
      q.bank = (s.locate sa).moduleBank % 48 ∧ q.row = (s.locate sa).row ∧ q.line = (s.locate sa).col / 2 := by
  unfold State.portRead
  extract_lets l buf ch owner next s1 s2
  have noted : Keeps [.ports] s s1 := .ite (Keeps.modHport ..) (.refl _ s)
  have asked := noted.append (Keeps.readMesh s1 (4 * p) (s.homeOf sa) 1)
  rw [if_neg (by rw [show s.hasRoom (ch sa) false = true from hroom]; decide)]
  exact State.askRead_askRead_waits ((asked.hasRoom_eq rfl rfl _ _).trans hroom) ((asked.serves_eq rfl rfl _).trans hs) rfl rfl

/-! ### Reads of a line (14 R530 to R532, R538 to R540) -/

section
variable {s : State} {p : Fin 4} {hpa : BitVec 46} {own : Bool} (hm : (s.hport p).mem = true) (hb : s.boot.phase = 15)
include hm hb

theorem exec_cxlMemRead_none (hsa : s.hostSa p (hpa.toNat * 64) = none) :
    exec (.cxlMemRead p hpa own) s = .next ((s.misroute p).poisonAnswer p (hpa.toNat * 64) 0) := by
  show execCxlMemRead p hpa own s = _
  simp [execCxlMemRead, hm, hb, hsa]

variable {sa : Nat} (hsa : s.hostSa p (hpa.toNat * 64) = some sa)
include hsa

theorem exec_cxlMemRead_disagreed (ha : (s.hport p).agree = false) :
    exec (.cxlMemRead p hpa own) s = .next (s.poisonAnswer p (hpa.toNat * 64) 0) := by
  show execCxlMemRead p hpa own s = _
  simp [execCxlMemRead, hm, hb, hsa, ha]

variable (ha : (s.hport p).agree = true)
include ha

theorem exec_cxlMemRead_devOnly (hc : (s.slot (sa / slotBytes)).cls = .devOnly) : exec (.cxlMemRead p hpa own) s =
    .next ((s.viaMesh (4 * p) (s.homeOf sa) 0).poisonAnswer p (hpa.toNat * 64) (s.lineOfSa sa)) := by
  show execCxlMemRead p hpa own s = _
  simp [execCxlMemRead, hm, hb, hsa, ha, hc]

theorem exec_cxlMemRead_shared (hc : (s.slot (sa / slotBytes)).cls = .shared) : exec (.cxlMemRead p hpa own) s =
    .next ((s.readMesh (4 * p) (s.homeOf sa) 1).sharedHostRead p sa own) := by
  show execCxlMemRead p hpa own s = _
  simp [execCxlMemRead, hm, hb, hsa, ha, hc]

variable (hc : (s.slot (sa / slotBytes)).cls = .bulk)
include hc

theorem exec_cxlMemRead_buffered {e : Nat × (BitVec 512 × Bool)} (hf : flag (s.reg 0 rCOHCFG) 0 = true)
    (he : (s.hport p).prb.find? (fun e => e.1 == sa / 64) = some e) : exec (.cxlMemRead p hpa own) s =
    .next ((s.modHport p (fun h => { h with lastRead := sa / 64 + 1 })).answer { kind := 1, data := lineBytes e.2.1, poison := e.2.2 }) := by
  show execCxlMemRead p hpa own s = _
  simp [execCxlMemRead, hm, hb, hsa, ha, hc, hf, he]

theorem exec_cxlMemRead_bulk (hd : (s.slot (sa / slotBytes)).dead = false)
    (he : flag (s.reg 0 rCOHCFG) 0 = false ∨ ∀ e ∈ (s.hport p).prb, e.1 ≠ sa / 64) : exec (.cxlMemRead p hpa own) s = .next (s.portRead p sa) := by
  have missed : (if flag (s.reg 0 rCOHCFG) 0 then (s.hport p).prb.find? (fun e => e.1 == sa / 64) else none) = none := by
    rcases he with h | h
    · rw [h]
      rfl
    · rw [List.find?_eq_none.mpr fun e he => by simpa using h e he]
      exact ite_self _
  show execCxlMemRead p hpa own s = _
  simp only [execCxlMemRead, hm, hb, hsa, ha, hc, hd, missed]
  simp
end

/-- A port's read of a bulk line without its buffers. -/
theorem State.portRead_unbuffered {s : State} {p sa : Nat} (hf : flag (s.reg 0 rCOHCFG) 0 = false)
    (hroom : s.hasRoom (chanOfBank (s.locate sa).moduleBank) false = true) : s.portRead p sa =
    (s.readMesh (4 * p) (s.homeOf sa) 1).askRead (chanOfBank (s.locate sa).moduleBank) (s.readReq p 0 (s.slot (sa / slotBytes)).owner sa) := by
  simp [State.portRead, hf, hroom]

/-- A shared line in the line cache is answered from it, and its directory entry stands (14 R538, R539). -/
theorem State.sharedHostRead_cached {s : State} {p sa : Nat} {own : Bool} {e : Nat × Line} (hl : s.lines.find? (fun e => e.1 == sa / 64) = some e)
    (hd : (s.dir (s.homeOf sa)).length < dirSize) : ∃ u : State,
      s.sharedHostRead p sa own = u.answer { kind := 1, data := lineBytes e.2.data, poison := e.2.poison } ∧
      (∃ x ∈ u.dir (s.homeOf sa), x.line = sa / 64 ∧ (own = true → x.modified = true)) ∧ Keeps [.dirs, .logs] s u := by
  obtain ⟨mem, hit⟩ : e ∈ s.lines ∧ e.1 = sa / 64 := ⟨List.mem_of_find?_eq_some hl, by simpa using List.find?_some hl⟩
  have held : ¬(s.lines.all (fun e => e.1 != sa / 64) = true ∧ s.hasRoom (chanOfBank (s.locate sa).moduleBank) false = false) := fun h => by
    simpa [hit] using List.all_eq_true.mp h.1 e mem
  unfold State.sharedHostRead
  extract_lets t l es ch reply logs
  have replies (u : State) (hu : u.lines = s.lines) : reply u = u.answer { kind := 1, data := lineBytes e.2.data, poison := e.2.poison } := by
    simp only [reply, hu, l, hl]
  rw [if_neg held]
  by_cases known : es.any (fun e => e.line == l) = true
  · obtain ⟨x, hx, line⟩ := List.any_eq_true.mp known
    rw [if_pos known, replies (s.modDir t _) (by rw [(Keeps.modDir ..).same .lines (by decide)])]
    refine ⟨_, rfl, ?_, (Keeps.modDir ..).mono rfl⟩
    rw [State.dir_modDir]
    refine ⟨_, List.mem_map_of_mem hx, ?_⟩
    rw [if_pos line]
    exact ⟨by simpa using line, fun ho => by rw [ho, Bool.or_true]⟩
  · rw [if_neg known, if_pos hd, replies (State.noteDir _) (by rw [(Keeps.noteDir ..).same .lines (by decide), (Keeps.modDir ..).same .lines (by decide)])]
    refine ⟨_, rfl, ?_, (Keeps.modDir ..).append (Keeps.noteDir ..)⟩
    rw [State.dir, (Keeps.noteDir ..).same .dirs (by decide)]
    show ∃ x ∈ (State.modDir _ _ _).dir t, _
    rw [State.dir_modDir]
    exact ⟨_, List.mem_append_right _ List.mem_cons_self, rfl, id⟩

/-- With a full directory the oldest entry is snooped and the read held at it (14 R540). -/
def State.snoopOldest (s : State) (p sa : Nat) (own : Bool) : State :=
  (s.modDir (s.homeOf sa) (fun es => match es with
    | e :: r => { e with snoop := 2, wait := some { host := some (p, sa / 64, own) } } :: r
    | [] => [])).putLogs { s.logs with bievict := s.logs.bievict + 1 }

theorem State.sharedHostRead_full {s : State} {p sa : Nat} {own : Bool} (hl : (s.lines.find? (fun e => e.1 == sa / 64)).isSome = true)
    (hd : dirSize ≤ (s.dir (s.homeOf sa)).length) (hn : ∀ x ∈ s.dir (s.homeOf sa), x.line ≠ sa / 64) :
    s.sharedHostRead p sa own = s.snoopOldest p sa own := by
  obtain ⟨e, he, hit⟩ := List.find?_isSome.mp hl
  have held : ¬(s.lines.all (fun e => e.1 != sa / 64) = true ∧ s.hasRoom (chanOfBank (s.locate sa).moduleBank) false = false) := fun h => by
    simpa [show e.1 = sa / 64 by simpa using hit] using List.all_eq_true.mp h.1 e he
  have unknown : ¬(s.dir (s.homeOf sa)).any (fun e => e.line == sa / 64) = true := fun h => by
    obtain ⟨x, hx, line⟩ := List.any_eq_true.mp h
    exact hn x hx (by simpa using line)
  unfold State.sharedHostRead
  extract_lets t l es ch reply logs
  rw [if_neg held, if_neg unknown, if_neg (Nat.not_lt.mpr hd)]
  rfl

/-! ### Writes of a line (14 R547 to R552) -/

/-- A host's write held as a flag of its stream, to wait for the writes it covers (14 R547). -/
def State.flagHeld (s : State) (k sa : Nat) (data : BitVec 512) (mask : BitVec 64) : State :=
  s.modStream k (fun t => { t with
    flags := t.flags ++ [{ epoch := t.epoch, wait := t.open_, failed := t.failed, sa := sa, data := data, mask := mask }]
    epoch := t.epoch + 1, open_ := 0, failed := false })

/-- The line no longer noted as modified by a host (14 R538). -/
def State.unmodified (s : State) (t sa : Nat) : State :=
  s.modDir t (fun es => es.map (fun e => if e.line == sa / 64 then { e with modified := false } else e))

/-- What a misrouted write enters as its partition and address (02 R49; 14 R552). -/
def State.misrouted (s : State) (p a : Nat) : State :=
  (s.misroute p).lateFail 2 0 p (if decide ((s.hport p).base ≤ a) && decide (a - (s.hport p).base < s.space) then
      (s.slot ((a - (s.hport p).base) / slotBytes)).owner else none) 0 (s.hostAddr p a)
    (if decide ((s.hport p).base ≤ a) && decide (a - (s.hport p).base < s.space) then a - (s.hport p).base else 0)

section
variable {s : State} {p : Fin 4} {hpa : BitVec 46} {data : BitVec 512} {mask : BitVec 64} (hm : (s.hport p).mem = true) (hb : s.boot.phase = 15)
include hm hb

theorem exec_cxlMemWrite_none (hsa : s.hostSa p (hpa.toNat * 64) = none) :
    exec (.cxlMemWrite p hpa data mask) s = .next ((s.misrouted p (hpa.toNat * 64)).answer { kind := 0 }) := by
  show execCxlMemWrite p hpa data mask s = _
  simp only [execCxlMemWrite, hm, hb, hsa, Bool.true_eq_false, ne_eq, not_true_eq_false, or_self, if_false]
  rfl

variable {sa : Nat} (hsa : s.hostSa p (hpa.toNat * 64) = some sa)
include hsa

theorem exec_cxlMemWrite_disagreed (ha : (s.hport p).agree = false) : exec (.cxlMemWrite p hpa data mask) s =
    .next ((s.lateFail 2 0 p (s.slot (sa / slotBytes)).owner 0 (s.hostAddr p (hpa.toNat * 64)) sa).answer { kind := 0 }) := by
  show execCxlMemWrite p hpa data mask s = _
  simp [execCxlMemWrite, hm, hb, hsa, ha]

variable (ha : (s.hport p).agree = true)
include ha

theorem exec_cxlMemWrite_devOnly (hc : (s.slot (sa / slotBytes)).cls = .devOnly) : exec (.cxlMemWrite p hpa data mask) s =
    .next (((s.viaMesh (4 * p) (s.homeOf sa) 1).lateFail 3 0 p (s.slot (sa / slotBytes)).owner 0 (s.hostAddr p (hpa.toNat * 64)) sa).answer { kind := 0 }) := by
  show execCxlMemWrite p hpa data mask s = _
  simp [execCxlMemWrite, hm, hb, hsa, ha, hc]

theorem exec_cxlMemWrite_bulk (hc : (s.slot (sa / slotBytes)).cls = .bulk) (hd : (s.slot (sa / slotBytes)).dead = false)
    (hr : s.hasRoom (chanOfBank (s.locate sa).moduleBank) true = true) : exec (.cxlMemWrite p hpa data mask) s =
    .next ((((s.viaMesh (4 * p) (s.homeOf sa) 1).acceptWrite p p (s.slot (sa / slotBytes)).owner sa data mask false none none).bufferWrite p sa data mask).answer
      { kind := 0 }) := by
  show execCxlMemWrite p hpa data mask s = _
  simp [execCxlMemWrite, hm, hb, hsa, ha, hc, hd, hr]

variable (hc : (s.slot (sa / slotBytes)).cls = .shared)
include hc

theorem exec_cxlMemWrite_flag (hf : sa % slotBytes < 0x10000) : exec (.cxlMemWrite p hpa data mask) s =
    .next (((s.viaMesh (4 * p) (s.homeOf sa) 1).flagHeld (streamKey p (s.slot (sa / slotBytes)).owner) sa data mask).answer { kind := 0 }) := by
  show execCxlMemWrite p hpa data mask s = _
  simp only [execCxlMemWrite, hm, hb, hsa, ha, hc, hf, Bool.true_eq_false, ne_eq, not_true_eq_false, or_self, if_false, if_true]
  rfl

theorem exec_cxlMemWrite_home (hf : 0x10000 ≤ sa % slotBytes) (he : (s.stream (streamKey p (s.slot (sa / slotBytes)).owner)).flags = []) :
    exec (.cxlMemWrite p hpa data mask) s =
    .next ((((s.viaMesh (4 * p) (s.homeOf sa) 1).homeWrite sa data mask false).unmodified (s.homeOf sa) sa).answer { kind := 0 }) := by
  have none : ((s.viaMesh (4 * p) (s.homeOf sa) 1).stream (streamKey p (s.slot (sa / slotBytes)).owner)).flags = [] := by
    rw [(Keeps.viaMesh ..).stream_eq rfl, he]
  show execCxlMemWrite p hpa data mask s = _
  simp only [execCxlMemWrite, hm, hb, hsa, ha, hc, Nat.not_lt.mpr hf, none, Bool.true_eq_false, ne_eq, not_true_eq_false, or_self, if_false, if_true]
  rfl

theorem exec_cxlMemWrite_behind (hf : 0x10000 ≤ sa % slotBytes) (he : (s.stream (streamKey p (s.slot (sa / slotBytes)).owner)).flags ≠ []) :
    exec (.cxlMemWrite p hpa data mask) s =
    .next ((((s.viaMesh (4 * p) (s.homeOf sa) 1).modStream (streamKey p (s.slot (sa / slotBytes)).owner) (fun t => t.hold sa data mask false)).unmodified
      (s.homeOf sa) sa).answer { kind := 0 }) := by
  have some : ((s.viaMesh (4 * p) (s.homeOf sa) 1).stream (streamKey p (s.slot (sa / slotBytes)).owner)).flags ≠ [] := by
    rw [(Keeps.viaMesh ..).stream_eq rfl]
    exact he
  show execCxlMemWrite p hpa data mask s = _
  simp only [execCxlMemWrite, hm, hb, hsa, ha, hc, Nat.not_lt.mpr hf, some, Bool.true_eq_false, ne_eq, not_true_eq_false, or_self, if_false]
  rfl
end

theorem State.misrouted_misroute (s : State) (p : Fin 4) (a : Nat) : ((s.misrouted p a).hport p).misroute = true := by
  have near : PortNear p (s.misroute p) (s.misrouted p a) := (SideRel.portNear p.isLt).lateFail ..
  obtain ⟨tr, n, m, h⟩ := near.same
  rw [h, State.misroute, State.hport_modHport]

/-- Settles O13: `State.portRead_waits`, `State.sharedHostRead_cached` and `State.sharedHostRead_full` for the reads; each form of a write by
the part of the state it goes to. -/
theorem hostLineCommandsComplete : Obligations.HostLineCommandsComplete := by
  refine ⟨fun s p hpa own sa l hm hb hsa ha hc hd hf hl hr asks => ?_, fun s p hpa own sa l hm hb hsa ha hc hd he hl hr hs => ?_,
    fun s p hpa own sa e hm hb hsa ha hc hf he => ?_, fun s p hpa own sa hm hb hsa ha hc hl hd => ?_,
    fun s p hpa own sa e rest hm hb hsa ha hc hl hd hn hx => ?_, fun s p hpa own hm hb hsa => ?_, fun s p hpa own sa hm hb hsa hx => ?_,
    fun s p hpa data mask sa l hm hb hsa ha hc hd hl hr => ?_, fun s p hpa data mask sa k hm hb hsa ha hc hf hk => ?_,
    fun s p hpa data mask sa hm hb hsa ha hc hf he => ?_, fun s p hpa data mask sa k hm hb hsa ha hc hf hk he => ?_,
    fun s p hpa data mask hm hb hsa => ?_, fun s p hpa data mask sa hm hb hsa hx => ?_⟩
  case refine_1 =>
    subst hl
    have mesh := Keeps.readMesh s (4 * p.val) (s.homeOf sa) 1
    have spot := s.spot_readReq p 0 (s.slot (sa / slotBytes)).owner sa
    have room : s.hasRoom (chanOfBank (s.locate sa).moduleBank) false = true := by simp [State.hasRoom, hr.reads, hr.held]
    obtain ⟨answer, kept⟩ := ReadsAtOnce.askRead (q := s.readReq p 0 (s.slot (sa / slotBytes)).owner sa) (mesh.readsAtOnce rfl hr) (classOf_port p) rfl rfl
      (by rw [mesh.lineAsks_eq rfl, spot, asks])
    rw [mesh.readLine_eq rfl, spot] at answer
    refine .next ((exec_cxlMemRead_bulk hm hb hsa ha hc hd (.inl hf)).trans (next_congr (State.portRead_unbuffered hf room))) ⟨answer, (mesh.append kept).sameBanks_of⟩
  case refine_2 =>
    subst hl
    exact .next (exec_cxlMemRead_bulk hm hb hsa ha hc hd he) (State.portRead_waits hr hs)
  case refine_3 =>
    have kept := (Keeps.modHport s p (fun h => { h with lastRead := sa / 64 + 1 })).append (Keeps.answer (a := { kind := 1, data := lineBytes e.2.1, poison := e.2.2 }) ..)
    exact .next (exec_cxlMemRead_buffered hm hb hsa ha hc hf he) ⟨rfl, kept.sameBanks_of, kept.same .chans (by decide)⟩
  case refine_4 =>
    have mesh := Keeps.readMesh s (4 * p.val) (s.homeOf sa) 1
    obtain ⟨e, he⟩ := Option.isSome_iff_exists.mp hl
    obtain ⟨u, run, entry, kept⟩ := State.sharedHostRead_cached (s := s.readMesh (4 * p.val) (s.homeOf sa) 1) (p := p) (own := own) (sa := sa) (e := e)
      (by rw [mesh.same .lines (by decide), he]) (by rw [mesh.homeOf_eq rfl rfl, State.dir, mesh.same .dirs (by decide)]; exact hd)
    rw [mesh.homeOf_eq rfl rfl] at entry
    refine .next ((exec_cxlMemRead_shared hm hb hsa ha hc).trans (next_congr run)) ⟨?_, ?_, ((mesh.append kept).append (Keeps.answer ..)).sameBanks_of⟩
    · rw [State.homeRead, he]
      rfl
    · rw [State.dir, (Keeps.answer ..).same .dirs (by decide)]
      exact entry
  case refine_5 =>
    have mesh := Keeps.readMesh s (4 * p.val) (s.homeOf sa) 1
    have home := mesh.homeOf_eq rfl rfl sa
    have dir : (s.readMesh (4 * p.val) (s.homeOf sa) 1).dir (s.homeOf sa) = e :: rest := by rw [State.dir, mesh.same .dirs (by decide)]; exact hd
    have logs : (s.readMesh (4 * p.val) (s.homeOf sa) 1).logs = s.logs := mesh.same .logs (by decide)
    have answer := s.readMesh_answer (4 * p.val) (s.homeOf sa) 1
    have run := State.sharedHostRead_full (s := s.readMesh (4 * p.val) (s.homeOf sa) 1) (p := p) (own := own) (sa := sa)
      (by rw [mesh.same .lines (by decide)]; exact hl) (by rw [home, dir]; exact hn) (by rw [home, dir]; exact hx)
    refine .next ((exec_cxlMemRead_shared hm hb hsa ha hc).trans (next_congr run)) ?_
    generalize s.readMesh (4 * p.val) (s.homeOf sa) 1 = u at *
    have kept : Keeps [.dirs, .logs] u (u.snoopOldest p sa own) := (Keeps.modDir ..).append (Keeps.putLogs ..)
    refine ⟨?_, ?_, ?_, (mesh.append kept).sameBanks_of⟩
    · rw [State.snoopOldest, State.dir, (Keeps.putLogs ..).same .dirs (by decide), ← State.dir, home, State.dir_modDir, dir]
      exact ⟨_, rfl, rfl, rfl, rfl⟩
    · rw [State.snoopOldest, State.putLogs_logs, logs]
    · rw [kept.same .out (by decide), answer]
  case refine_6 =>
    refine .next (exec_cxlMemRead_none hm hb hsa) ⟨rfl, ?_, ((Keeps.modHport ..).append (Keeps.poisonAnswer ..)).sameBanks_of⟩
    rw [(Keeps.poisonAnswer ..).hport_eq rfl, State.misroute, State.hport_modHport]
  case refine_7 =>
    cases hagree : (s.hport p).agree with
    | false =>
      refine .next (exec_cxlMemRead_disagreed hm hb hsa hagree) ⟨rfl, ?_, (Keeps.poisonAnswer ..).sameBanks_of⟩
      rw [(Keeps.poisonAnswer ..).hport_eq rfl]
    | true =>
      have cls := hx.resolve_left (by rw [hagree]; decide)
      refine .next (exec_cxlMemRead_devOnly hm hb hsa hagree cls) ⟨rfl, ?_, ((Keeps.viaMesh ..).append (Keeps.poisonAnswer ..)).sameBanks_of⟩
      rw [(Keeps.poisonAnswer ..).hport_eq rfl, (Keeps.viaMesh ..).hport_eq rfl]
  case refine_8 =>
    subst hl
    have mesh := Keeps.viaMesh s (4 * p.val) (s.homeOf sa) 1
    obtain ⟨q, queue, who, bank, row, line, same, mask'⟩ :=
      (s.viaMesh (4 * p.val) (s.homeOf sa) 1).acceptWrite_writeQ p p (s.slot (sa / slotBytes)).owner sa data mask false none none
    rw [mesh.locate_eq rfl rfl rfl] at queue bank row line
    refine .next (exec_cxlMemWrite_bulk hm hb hsa ha hc hd hr) ⟨⟨_, rfl, rfl⟩, ⟨q, ?_, bank, row, line, same, mask', who⟩,
      (((mesh.append (Keeps.acceptWrite ..)).append (Keeps.bufferWrite ..)).append (Keeps.answer ..)).sameBanks_of⟩
    rw [(Keeps.answer ..).chan_eq rfl, (Keeps.bufferWrite ..).chan_eq rfl, queue, mesh.chan_eq rfl]
  case refine_9 =>
    subst hk
    have mesh := Keeps.viaMesh s (4 * p.val) (s.homeOf sa) 1
    have kept : Keeps _ s _ := (mesh.append (Keeps.modStream (s.viaMesh (4 * p.val) (s.homeOf sa) 1) (streamKey p (s.slot (sa / slotBytes)).owner) (fun t => { t with
      flags := t.flags ++ [{ epoch := t.epoch, wait := t.open_, failed := t.failed, sa := sa, data := data, mask := mask }]
      epoch := t.epoch + 1, open_ := 0, failed := false }))).append (Keeps.answer (a := { kind := 0 }) ..)
    refine .next (exec_cxlMemWrite_flag hm hb hsa ha hc hf) ⟨⟨_, rfl, rfl⟩, ⟨{ epoch := (s.stream (streamKey p (s.slot (sa / slotBytes)).owner)).epoch, wait := (s.stream (streamKey p (s.slot (sa / slotBytes)).owner)).open_, failed := (s.stream (streamKey p (s.slot (sa / slotBytes)).owner)).failed, sa := sa, data := data, mask := mask }, rfl, rfl, rfl, rfl, ?_⟩, kept.same .lines (by decide), kept.sameBanks_of⟩
    rw [(Keeps.answer ..).stream_eq rfl, State.flagHeld, State.stream_modStream, mesh.stream_eq rfl]
  case refine_10 =>
    have mesh := Keeps.viaMesh s (4 * p.val) (s.homeOf sa) 1
    have kept (u : State) := (Keeps.modDir u (s.homeOf sa) (fun es => es.map (fun e => if e.line == sa / 64 then { e with modified := false } else e))).append
      (Keeps.answer (a := { kind := 0 }) ..)
    refine .next (exec_cxlMemWrite_home hm hb hsa ha hc hf he) ⟨⟨_, rfl, rfl⟩, ?_, ((mesh.append (Keeps.homeWrite ..)).append (kept _)).sameBanks_of⟩
    rw [State.unmodified, (kept _).homeRead_eq rfl, State.homeRead_homeWrite, mesh.homeRead_eq rfl]
  case refine_11 =>
    subst hk
    have mesh := Keeps.viaMesh s (4 * p.val) (s.homeOf sa) 1
    have kept (u : State) := (Keeps.modDir u (s.homeOf sa) (fun es => es.map (fun e => if e.line == sa / 64 then { e with modified := false } else e))).append
      (Keeps.answer (a := { kind := 0 }) ..)
    have all := (mesh.append (Keeps.modStream (s.viaMesh (4 * p.val) (s.homeOf sa) 1) (streamKey p (s.slot (sa / slotBytes)).owner)
      (fun t => t.hold sa data mask false))).append (kept _)
    refine .next (exec_cxlMemWrite_behind hm hb hsa ha hc hf he) ⟨⟨_, rfl, rfl⟩, ⟨{ epoch := (s.stream (streamKey p (s.slot (sa / slotBytes)).owner)).epoch, wait := 0, failed := false, sa := sa, data := data, mask := mask }, rfl, rfl, rfl, rfl, rfl, ?_⟩,
      all.same .lines (by decide), all.sameBanks_of⟩
    rw [State.unmodified, (kept _).stream_eq rfl, State.stream_modStream, mesh.stream_eq rfl]
    rfl
  case refine_12 =>
    refine .next (exec_cxlMemWrite_none hm hb hsa) ⟨⟨_, rfl, rfl⟩, ?_, ?_, (((Keeps.modHport ..).append (Keeps.lateFail ..)).append (Keeps.answer ..)).sameBanks_of⟩
    · rw [(Keeps.answer ..).hport_eq rfl, s.misrouted_misroute]
    · rw [(Keeps.answer ..).same .logs (by decide), State.misrouted, State.lateFail_lfseq, State.misroute, State.modHport_logs]
  case refine_13 =>
    cases hagree : (s.hport p).agree with
    | false =>
      have kept := (Keeps.lateFail s 2 0 p (s.slot (sa / slotBytes)).owner 0 (s.hostAddr p (hpa.toNat * 64)) sa).append (Keeps.answer (a := { kind := 0 }) ..)
      refine .next (exec_cxlMemWrite_disagreed hm hb hsa hagree) ⟨⟨_, rfl, rfl⟩, ?_, kept.same .lines (by decide), kept.same .chans (by decide), kept.sameBanks_of⟩
      rw [(Keeps.answer ..).same .logs (by decide), State.lateFail_lfseq]
    | true =>
      have cls := hx.resolve_left (by rw [hagree]; decide)
      have mesh := Keeps.viaMesh s (4 * p.val) (s.homeOf sa) 1
      have kept := (mesh.append (Keeps.lateFail _ 3 0 p (s.slot (sa / slotBytes)).owner 0 (s.hostAddr p (hpa.toNat * 64)) sa)).append (Keeps.answer (a := { kind := 0 }) ..)
      refine .next (exec_cxlMemWrite_devOnly hm hb hsa hagree cls) ⟨⟨_, rfl, rfl⟩, ?_, kept.same .lines (by decide), kept.same .chans (by decide), kept.sameBanks_of⟩
      rw [(Keeps.answer ..).same .logs (by decide), State.lateFail_lfseq, mesh.same .logs (by decide)]


end Sys2Proof.Machine
end

section
/-! Flits, acknowledgements and replay (16 R604 to R610, R615). -/

namespace Sys2Proof.Machine

/-! ### Flits sent (16 R603, R604) -/

theorem State.emit_flits (s : State) (l : Nat) (fs : List (BitVec 2048)) :
    (s.emit l fs).out.flits = (fs.map (fun f => (l, f))).reverse ++ s.out.flits := by
  rw [State.emit, (Keeps.spend ..).same .out (by decide), (Keeps.count ..).same .out (by decide), State.putOut_out]

theorem State.sendControl_flits (s : State) (l : Nat) (nak : Bool) (cls credit : Nat) : (s.sendControl l nak cls credit).out.flits =
    (l, flitWord 0 1 (leBytes 4 (controlUnit (s.landing l).lastIn nak cls credit).toNat)) :: s.out.flits := State.emit_flits ..

theorem State.replay_landing (s : State) (l : Nat) : (s.replay l).landing l = { s.landing l with replays := satNat 16 ((s.landing l).replays + 1) } := by
  rw [State.replay, (Keeps.emit ..).landing_eq rfl, State.landing_modLanding]

theorem State.replay_flits (s : State) (l : Nat) :
    (s.replay l).out.flits = ((s.landing l).unack.map (fun f => (l, flitWord f.1 0 f.2))).reverse ++ s.out.flits := by
  rw [State.replay, State.emit_flits, List.map_map, (Keeps.modLanding ..).same .out (by decide)]
  rfl

/-- With no message waiting nothing leaves. -/
theorem State.drainTx_empty {s : State} {l : Nat} (h : (s.landing l).txQ = []) :
    (∃ seq, (s.drainTx l).landing l = { s.landing l with seq := seq }) ∧ (s.drainTx l).out.flits = s.out.flits := by
  rw [State.drainTx, h]
  split
  · show (∃ seq, (s.sendPayload l []).landing l = _) ∧ (s.sendPayload l []).out.flits = _
    rw [State.sendPayload, (Keeps.emit ..).landing_eq rfl, State.landing_modLanding, State.emit_flits, (Keeps.modLanding ..).same .out (by decide)]
    exact ⟨⟨((s.landing l).seq + 0) % 4096, congrArg (fun us => ({ s.landing l with unack := us, seq := _ } : Landing)) (List.append_nil _)⟩, rfl⟩
  · exact ⟨⟨_, rfl⟩, rfl⟩

/-! ### Flits received (16 R599, R608) -/

/-- Corrected symbols are counted at the lanes and nowhere else. -/
theorem Landing.countFixed_lanes (x : Landing) (fixed : List (Fin 1632)) : ∃ lanes, x.countFixed fixed = { x with lanes := lanes } := by
  have fold (f : Landing → Nat → Landing) (hf : ∀ y i, ∃ lanes, f y i = { y with lanes := lanes }) (is : List Nat) (y : Landing) :
      ∃ lanes, is.foldl f y = { y with lanes := lanes } := by
    induction is generalizing y with
    | nil => exact ⟨_, rfl⟩
    | cons i is ih =>
      obtain ⟨lanes, one⟩ := hf y i
      obtain ⟨lanes', rest⟩ := ih (f y i)
      exact ⟨lanes', by rw [List.foldl_cons, rest, one]⟩
  refine fold _ (fun y i => ?_) _ x
  split
  · exact ⟨_, rfl⟩
  · exact ⟨_, rfl⟩

/-- A flit counted, with what its codewords tell. -/
def State.flitCounted (s : State) (l : Nat) (fixed : List (Fin 1632)) (uncw : Bool) : State :=
  (s.spend 5 1).modLanding l (fun x => let x1 := x.countFixed fixed
    if uncw then { x1 with uncw := satNat 16 (x1.uncw + 1) } else x1)

theorem Keeps.flitCounted (s : State) (l : Nat) (fixed : List (Fin 1632)) (uncw : Bool) : Keeps [.lands, .act] s (s.flitCounted l fixed uncw) :=
  ((Keeps.spend ..).append (Keeps.modLanding ..)).mono rfl

theorem State.flitCounted_landing (s : State) (l : Nat) (fixed : List (Fin 1632)) (uncw : Bool) :
    ∃ lanes n, (s.flitCounted l fixed uncw).landing l = { s.landing l with lanes := lanes, uncw := n } := by
  obtain ⟨lanes, h⟩ := (s.landing l).countFixed_lanes fixed
  rw [State.flitCounted, State.landing_modLanding, (Keeps.spend ..).landing_eq rfl]
  show ∃ lanes n, (if uncw then _ else (s.landing l).countFixed fixed) = _
  rw [h]
  split
  · exact ⟨_, _, rfl⟩
  · exact ⟨_, _, rfl⟩

theorem State.flitCounted_landing_ne (s : State) (l : Nat) (fixed : List (Fin 1632)) (uncw : Bool) (k : Nat) (h : k ≠ l) :
    (s.flitCounted l fixed uncw).landing k = s.landing k := by
  rw [State.flitCounted, State.landing_modLanding_ne _ _ _ _ h, (Keeps.spend ..).landing_eq rfl]

section
variable {s : State} {l : Fin 16} {flit : BitVec 2048} {fixed : List (Fin 1632)} (hup : (s.landing l).up = true)
include hup

section
variable (hk : field flit.toNat 12 4 = 0)
  (hcrc : crc16 ((leBytes 256 flit.toNat).take 254) = BitVec.ofNat 16 (bytesAt (leBytes 256 flit.toNat) 254 2))
include hk hcrc

theorem exec_flitReceive_expected (he : field flit.toNat 0 12 = (s.landing l).exp) : exec (.flitReceive l flit fixed false) s =
    .next ((s.flitCounted l fixed false).modLanding l (fun x => { x with exp := (x.exp + 1) % 4096, nakOut := false, rxSince := x.rxSince + 1 })) := by
  show execFlitReceive l flit fixed false s = _
  simp [execFlitReceive, hup, hk, hcrc, he]
  rfl

theorem exec_flitReceive_before (he : field flit.toNat 0 12 ≠ (s.landing l).exp)
    (hb : ((s.landing l).exp + 4096 - field flit.toNat 0 12) % 4096 ≤ 2048) :
    exec (.flitReceive l flit fixed false) s = .next (s.flitCounted l fixed false) := by
  show execFlitReceive l flit fixed false s = _
  simp [execFlitReceive, hup, hk, hcrc, he, hb]
  rfl
end

theorem exec_flitReceive_bad {uncw : Bool} (bad : uncw = true ∨
    crc16 ((leBytes 256 flit.toNat).take 254) ≠ BitVec.ofNat 16 (bytesAt (leBytes 256 flit.toNat) 254 2) ∨
    (field flit.toNat 12 4 = 0 ∧ field flit.toNat 0 12 ≠ (s.landing l).exp ∧ 2048 < ((s.landing l).exp + 4096 - field flit.toNat 0 12) % 4096)) :
    exec (.flitReceive l flit fixed uncw) s = .next ((s.flitCounted l fixed uncw).nak l) := by
  show execFlitReceive l flit fixed uncw s = _
  by_cases pass : (!uncw && crc16 ((leBytes 256 flit.toNat).take 254) == BitVec.ofNat 16 (bytesAt (leBytes 256 flit.toNat) 254 2)) = true
  · obtain ⟨hu, hc⟩ := Bool.and_eq_true_iff.mp pass
    obtain ⟨hk, he, ha⟩ := (bad.resolve_left (by simpa using hu)).resolve_left (fun h => h (by simpa using hc))
    simp [execFlitReceive, hup, pass, hk, he, Nat.not_le.mpr ha]
    rfl
  · simp [execFlitReceive, hup, pass]
    rfl
end

/-- One NAK until a flit is accepted. -/
theorem State.nak_landing (s : State) (l : Nat) : (s.nak l).landing l = { s.landing l with nakOut := true } := by
  unfold State.nak
  split
  · next h => rw [← h]
  · rw [State.sendControl, (Keeps.emit ..).landing_eq rfl, State.landing_modLanding]

theorem State.nak_flits (s : State) (l : Nat) : (s.nak l).out.flits = if (s.landing l).nakOut then s.out.flits
    else (l, flitWord 0 1 (leBytes 4 (controlUnit (s.landing l).lastIn true 0 0).toNat)) :: s.out.flits := by
  unfold State.nak
  split
  · rfl
  · rw [State.sendControl_flits, State.landing_modLanding, (Keeps.modLanding ..).same .out (by decide)]
    rfl

/-! ### Acknowledgements and credits (16 R605 to R610) -/

/-- The ACK and the credits of a link-control message taken. -/
def State.controlTaken (s : State) (l ack k n : Nat) : State :=
  s.modLanding l (fun x => { x.acked ack with credits := Tab.upd (fun _ => 0) x.credits k (· + n) })

theorem exec_linkControl {s : State} {l : Fin 16} {msg : BitVec 32} {level : Fin 4} (hup : (s.landing l).up = true) (h4 : field msg.toNat 0 4 = 1)
    (h5 : field msg.toNat 27 5 = 0) : exec (.linkControl l msg level) s =
    .next ((if flag msg.toNat 16 then
        (s.controlTaken l (field msg.toNat 4 12) (field msg.toNat 17 2 * 4 + level.val) (field msg.toNat 19 8)).replay l
      else s.controlTaken l (field msg.toNat 4 12) (field msg.toNat 17 2 * 4 + level.val) (field msg.toNat 19 8)).drainTx l) := by
  show execLinkControl l msg level s = _
  simp only [execLinkControl, hup, h4, h5, ne_eq, not_true_eq_false, Bool.true_eq_false, or_self, if_false]
  rfl

theorem Landing.acked_of_found {x : Landing} {a i : Nat} (h : x.unack.findIdx? (fun f => f.1 == a) = some i) :
    x.acked a = { x with unack := x.unack.drop (i + 1), ack := a, resends := 0 } := by simp only [Landing.acked, h]

theorem Landing.acked_of_none {x : Landing} {a : Nat} (h : x.unack.findIdx? (fun f => f.1 == a) = none) : x.acked a = x := by
  simp only [Landing.acked, h]

/-- Settles O16: `State.nak_landing` for a flit refused, `Landing.acked_of_found` for an ACK, `State.replay_flits` for a resend. -/
theorem flitCommandsComplete : Obligations.FlitCommandsComplete := by
  refine ⟨fun s l flit fixed hup hk hc he => ?_, fun s l flit fixed hup hk hc he hb => ?_, fun s l flit fixed uncw hup bad => ?_,
    fun s l msg level i k hup h4 h5 hn hq hk hi => ?_, fun s l msg level hup h4 h5 hn hq hi => ?_, fun s l hup hr => ?_,
    fun s l hup hu hr => ?_, fun s l hup hu hr => ?_⟩
  · obtain ⟨lanes, n, land⟩ := s.flitCounted_landing l fixed false
    refine .next (exec_flitReceive_expected hup hk hc he) ⟨?_, ?_, ?_, fun k hne => ?_, ((Keeps.flitCounted ..).append (Keeps.modLanding ..)).mono rfl⟩
    iterate 3 rw [State.landing_modLanding, land]
    rw [State.landing_modLanding_ne _ _ _ _ hne, s.flitCounted_landing_ne _ _ _ _ hne]
  · obtain ⟨lanes, n, land⟩ := s.flitCounted_landing l fixed false
    refine .next (exec_flitReceive_before hup hk hc he hb) ?_
    rw [land]
    exact ⟨rfl, rfl, rfl, Keeps.flitCounted ..⟩
  · obtain ⟨lanes, n, land⟩ := s.flitCounted_landing l fixed uncw
    have counted := Keeps.flitCounted s l fixed uncw
    refine .next (exec_flitReceive_bad hup bad) ?_
    rw [State.nak_landing, State.nak_flits, land, counted.same .out (by decide)]
    exact ⟨rfl, rfl, rfl, rfl, (counted.append (Keeps.nak ..)).mono rfl⟩
  · subst hk
    have run := exec_linkControl (level := level) hup h4 h5
    have taken : (s.controlTaken l (field msg.toNat 4 12) (field msg.toNat 17 2 * 4 + level.val) (field msg.toNat 19 8)).landing l =
        { s.landing l with unack := (s.landing l).unack.drop (i + 1), ack := field msg.toNat 4 12, resends := 0
                           credits := Tab.upd (fun _ => 0) (s.landing l).credits (field msg.toNat 17 2 * 4 + level.val) (· + field msg.toNat 19 8) } := by
      rw [State.controlTaken, State.landing_modLanding, Landing.acked_of_found hi]
    have kept : Keeps [.lands] s (s.controlTaken l (field msg.toNat 4 12) (field msg.toNat 17 2 * 4 + level.val) (field msg.toNat 19 8)) := Keeps.modLanding ..
    rw [hn, if_neg Bool.false_ne_true] at run
    obtain ⟨⟨seq, land⟩, flits⟩ := State.drainTx_empty (l := l) (by rw [taken]; exact hq)
    have same := Tab.get_upd_same (fun _ => 0) (s.landing l).credits (field msg.toNat 17 2 * 4 + level.val) (· + field msg.toNat 19 8)
    have others (j : Nat) := Tab.get_upd_ne (fun _ => 0) (s.landing l).credits (field msg.toNat 17 2 * 4 + level.val) j (· + field msg.toNat 19 8)
    refine .next run ?_
    rw [land, flits, taken, kept.same .out (by decide)]
    exact ⟨rfl, rfl, rfl, rfl, same, others, (kept.append (Keeps.drainTx ..)).mono rfl⟩
  · have run := exec_linkControl (level := level) hup h4 h5
    have taken : (s.controlTaken l (field msg.toNat 4 12) (field msg.toNat 17 2 * 4 + level.val) (field msg.toNat 19 8)).landing l =
        { s.landing l with credits := Tab.upd (fun _ => 0) (s.landing l).credits (field msg.toNat 17 2 * 4 + level.val) (· + field msg.toNat 19 8) } := by
      rw [State.controlTaken, State.landing_modLanding, Landing.acked_of_none hi]
    have kept : Keeps [.lands] s (s.controlTaken l (field msg.toNat 4 12) (field msg.toNat 17 2 * 4 + level.val) (field msg.toNat 19 8)) := Keeps.modLanding ..
    rw [hn, if_pos rfl] at run
    obtain ⟨⟨seq, land⟩, flits⟩ := State.drainTx_empty (l := l) (by rw [State.replay_landing, taken]; exact hq)
    refine .next run ?_
    rw [land, flits, State.replay_landing, State.replay_flits, taken, kept.same .out (by decide)]
    exact ⟨rfl, rfl, rfl, ((kept.append (Keeps.replay ..)).append (Keeps.drainTx ..)).mono rfl⟩
  · refine .next (next_congr (if_pos ⟨hup, hr⟩)) ⟨?_, ?_, ((Keeps.modLanding ..).append (Keeps.sendControl ..)).mono rfl⟩
    · rw [(Keeps.sendControl ..).landing_eq rfl, State.landing_modLanding]
    · rw [State.sendControl_flits, State.landing_modLanding, (Keeps.modLanding ..).same .out (by decide)]
      rfl
  · have run : exec (.replayTimeout l) s = .next ((s.modLanding l (fun x => { x with resends := x.resends + 1 })).replay l) :=
      next_congr ((if_neg (by simp [hup, hu])).trans (if_pos hr))
    refine .next run ?_
    rw [State.replay_landing, State.replay_flits, State.landing_modLanding, (Keeps.modLanding ..).same .out (by decide)]
    exact ⟨rfl, rfl, rfl, rfl, ((Keeps.modLanding ..).append (Keeps.replay ..)).mono rfl⟩
  · have run : exec (.replayTimeout l) s = .next ((s.landingDown l).modLanding l (fun x => { x with st := 1 })) :=
      next_congr ((if_neg (by simp [hup, hu])).trans (if_neg (Nat.not_lt.mpr hr)))
    refine .next run ?_
    rw [State.landing_modLanding]

end Sys2Proof.Machine
end

section
/-! Near-bank mode and its rows (06 R220 to R249; 05 R204). -/

namespace Sys2Proof.Machine

/-! ### Rows whose tallies are cleared (04 R146) -/

section
variable {α : Type}

theorem Tab.mem_erase_of_ne {t : Tab α} {k : Nat} {e : Nat × α} (h : e ∈ t) (hk : e.1 ≠ k) : e ∈ Tab.erase t k := by
  induction t with
  | nil => exact h
  | cons x t ih =>
    rw [Tab.erase]
    rcases List.mem_cons.mp h with rfl | h
    · rw [if_neg hk]
      exact List.mem_cons_self
    · split
      · exact ih h
      · exact List.mem_cons_of_mem _ (ih h)

theorem Tab.mem_put {t : Tab α} {k : Nat} {v : α} {e : Nat × α} (h : e ∈ t) : e ∈ Tab.put t k v := by
  induction t with
  | nil => exact absurd h List.not_mem_nil
  | cons x t ih =>
    rw [Tab.put]
    split
    · exact List.mem_cons_of_mem _ h
    · rcases List.mem_cons.mp h with rfl | h
      · exact List.mem_cons_self
      · exact List.mem_cons_of_mem _ (ih h)

variable [DecidableEq α] {d : Nat → α}

/-- The entries of other numbers stay listed. -/
theorem Tab.mem_set_of_ne {t : Tab α} {k : Nat} {v : α} {e : Nat × α} (h : e ∈ t) (hk : e.1 ≠ k) : e ∈ Tab.set d t k v := by
  unfold Tab.set
  split
  · exact Tab.mem_erase_of_ne h hk
  · exact Tab.mem_put (Tab.mem_erase_of_ne h hk)
end

/-- Rows changed by clearing tallies: a row whose tally is not zero is listed as before. -/
structure TalliesCleared (s t : State) : Prop where
  /-- nothing but tallies differs -/
  only : TalliesOnly s t
  /-- a tally at zero stays there -/
  zero : ∀ x, (s.row x).tally = 0 → (t.row x).tally = 0
  /-- another row keeps its entries -/
  listed : ∀ x, (t.row x).tally = 0 ∨ ∀ m, (x, m) ∈ s.rows → (x, m) ∈ t.rows

namespace TalliesCleared

theorem refl (s : State) : TalliesCleared s s := ⟨fun _ => ⟨_, rfl⟩, fun _ h => h, fun _ => .inr fun _ h => h⟩

theorem trans {s t u : State} (h : TalliesCleared s t) (g : TalliesCleared t u) : TalliesCleared s u :=
  ⟨h.only.trans g.only, fun x hx => g.zero x (h.zero x hx), fun x => (g.listed x).elim .inl fun next =>
    (h.listed x).elim (fun z => .inl (g.zero x z)) fun first => .inr fun m hm => next m (first m hm)⟩

theorem keeps {L : List Field} {s t : State} (h : Keeps L s t) (hL : L.contains .rows = false) : TalliesCleared s t :=
  ⟨h.talliesOnly hL, fun x hx => by rwa [h.row_eq hL], fun _ => .inr fun _ hm => by rwa [h.same .rows (by simpa using hL)]⟩

theorem updMany (s : State) (ks : List Nat) :
    TalliesCleared s (s.putRows (Tab.updMany rowDefault (fun m : RowMeta => { m with tally := 0 }) ks s.rows)) := by
  refine ⟨fun _ => Tab.get_updMany_rel rowDefault (R := fun m r : RowMeta => ∃ n, r = { m with tally := n }) (fun m => ⟨m.tally, rfl⟩)
    (fun ⟨_, hn⟩ ⟨m, hm⟩ => ⟨m, by rw [hm, hn]⟩) _ (fun _ => ⟨0, rfl⟩) _ _ _,
    fun x hx => Tab.get_updMany_has (P := fun m : RowMeta => m.tally = 0) _ _ (fun _ => rfl) _ _ _ (.inl hx), fun x => ?_⟩
  by_cases hx : x ∈ ks
  · exact .inl (Tab.get_updMany_has (P := fun m : RowMeta => m.tally = 0) _ _ (fun _ => rfl) _ _ _ (.inr hx))
  · refine .inr fun m hm => ?_
    show (x, m) ∈ Tab.updMany rowDefault _ ks s.rows
    generalize s.rows = t at hm
    induction ks generalizing t with
    | nil => exact hm
    | cons k ks ih =>
      obtain ⟨hk, hks⟩ := not_or.1 (List.mem_cons.not.1 hx)
      exact ih hks _ (Tab.mem_set_of_ne hm hk)

/-- A row on a wordline is still on it, or its tally has been cleared. -/
theorem rowsAt {s t : State} (h : TalliesCleared s t) {b u w x : Nat} (hx : x ∈ s.rowsAt b u w) : (t.row x).tally = 0 ∨ x ∈ t.rowsAt b u w := by
  unfold State.rowsAt at hx ⊢
  by_cases hw : w < 1024
  · obtain ⟨n, same⟩ := h.only (rowKey b (w * 64 + u))
    rw [if_pos hw] at hx ⊢
    rw [same]
    exact .inr hx
  · rw [if_neg hw] at hx ⊢
    refine (h.listed x).imp_right fun listed => ?_
    obtain ⟨⟨y, sp⟩, hy, rfl⟩ := List.mem_map.mp hx
    obtain ⟨mem, on⟩ := List.mem_filter.mp hy
    obtain ⟨⟨z, m⟩, hm, key⟩ := List.mem_filterMap.mp mem
    refine List.mem_map.mpr ⟨(y, sp), List.mem_filter.mpr ⟨List.mem_filterMap.mpr ⟨(z, m), ?_, key⟩, on⟩, rfl⟩
    have same : z = y := by
      by_cases hz : z / 65536 = b
      · rw [if_pos hz] at key
        obtain ⟨_, -, pair⟩ := Option.map_eq_some_iff.mp key
        exact congrArg Prod.fst pair
      · rw [if_neg hz] at key
        exact absurd key (by simp)
    subst same
    exact listed m hm

end TalliesCleared

/-! ### Refreshes in near-bank mode (06 R246 to R249) -/

/-- The owed wordlines of bank `j` that a refresh adds: those in a subarray with an open row (06 R247). -/
def State.nrfOwes (s : State) (ch j : Nat) : List Nat :=
  ((refreshWords ((s.chan ch).bank j).refk).filter (fun w => (s.openSubs ch j).contains w.1)).map (fun w => w.2 * 64 + w.1)

/-- One bank's part of NRF on the state `u`, as `s` has its rows open. -/
def State.nrfBank (s u : State) (ch j : Nat) : State :=
  (u.clearTallies (bankOf ch j) ((refreshWords ((s.chan ch).bank j).refk).filter (fun w => !(s.openSubs ch j).contains w.1))).modChan ch
    (fun c => c.modBank j (fun b => { b with refk := (b.refk + 1) % 8256, owed := b.owed ++ s.nrfOwes ch j, postponed := b.postponed - 1 }))

theorem State.nrfBank_cleared (s u : State) (ch j : Nat) : TalliesCleared u (s.nrfBank u ch j) :=
  (TalliesCleared.updMany ..).trans (.keeps (Keeps.modChan ..) rfl)

theorem State.nrfBank_chan (s u : State) (ch j : Nat) : (s.nrfBank u ch j).chan ch = (u.chan ch).modBank j (fun b =>
    { b with refk := (b.refk + 1) % 8256, owed := b.owed ++ s.nrfOwes ch j, postponed := b.postponed - 1 }) := by
  rw [State.nrfBank, State.chan_modChan, (Keeps.clearTallies ..).chan_eq rfl]

theorem State.nrfBank_tally (s u : State) (ch j : Nat) {w : Nat × Nat} (hw : w ∈ refreshWords ((s.chan ch).bank j).refk) (ho : w.1 ∉ s.openSubs ch j)
    {x : Nat} (hx : x ∈ u.rowsAt (bankOf ch j) w.1 w.2) : ((s.nrfBank u ch j).row x).tally = 0 := by
  rw [State.nrfBank, (Keeps.modChan ..).row_eq rfl]
  exact u.clearTallies_tally _ _ w (List.mem_filter.mpr ⟨hw, by simpa using ho⟩) x hx

theorem State.foldl_nrfBank (s : State) (ch : Nat) (js : List Nat) (hd : js.Nodup) (u : State) :
    ((js.foldl (fun u j => s.nrfBank u ch j) u).chan ch).nrfPost = (u.chan ch).nrfPost ∧
    (∀ j, j ∉ js → ((js.foldl (fun u j => s.nrfBank u ch j) u).chan ch).bank j = (u.chan ch).bank j) ∧
    (∀ j ∈ js, ((js.foldl (fun u j => s.nrfBank u ch j) u).chan ch).bank j = { (u.chan ch).bank j with
      refk := (((u.chan ch).bank j).refk + 1) % 8256, owed := ((u.chan ch).bank j).owed ++ s.nrfOwes ch j
      postponed := ((u.chan ch).bank j).postponed - 1 }) ∧
    (∀ j ∈ js, ∀ w ∈ refreshWords ((s.chan ch).bank j).refk, w.1 ∉ s.openSubs ch j → ∀ x ∈ u.rowsAt (bankOf ch j) w.1 w.2,
      ((js.foldl (fun u j => s.nrfBank u ch j) u).row x).tally = 0) ∧
    TalliesCleared u (js.foldl (fun u j => s.nrfBank u ch j) u) ∧ Keeps [.chans, .rows] u (js.foldl (fun u j => s.nrfBank u ch j) u) := by
  induction js generalizing u with
  | nil => exact ⟨rfl, fun _ _ => rfl, fun j hj => absurd hj List.not_mem_nil, fun j hj => absurd hj List.not_mem_nil, .refl u, .refl _ u⟩
  | cons i js ih =>
    obtain ⟨hi, hjs⟩ := List.nodup_cons.1 hd
    obtain ⟨post, others, banks, tallies, cleared, kept⟩ := ih hjs (s.nrfBank u ch i)
    have first := s.nrfBank_cleared u ch i
    have chan := s.nrfBank_chan u ch i
    refine ⟨post.trans (by rw [chan]; rfl), fun j hj => ?_, fun j hj => ?_, fun j hj w hw ho x hx => ?_, first.trans cleared,
      (((Keeps.clearTallies ..).append (Keeps.modChan ..)).mono rfl).trans kept⟩
    · obtain ⟨hji, hj⟩ := not_or.1 (List.mem_cons.not.1 hj)
      rw [List.foldl_cons, others j hj, chan, Channel.bank_modBank_ne _ _ _ _ hji]
    · rcases List.mem_cons.mp hj with rfl | hj
      · rw [List.foldl_cons, others _ hi, chan, Channel.bank_modBank]
      · have hji : j ≠ i := fun h => hi (h ▸ hj)
        rw [List.foldl_cons, banks j hj, chan, Channel.bank_modBank_ne _ _ _ _ hji]
    · rcases List.mem_cons.mp hj with rfl | hj
      · exact cleared.zero x (s.nrfBank_tally u ch _ hw ho hx)
      · rcases first.rowsAt hx with zero | still
        · exact cleared.zero x zero
        · exact tallies j hj w hw ho x still


/-! ### Entering and leaving near-bank mode (06 R220, R230, R237) -/

/-- The channel enters near-bank mode, and its wake is taken. -/
def State.nbeEntered (s : State) (ch : Nat) : State :=
  (s.modChan ch (fun c => { c with mode := .nearBank, nbrdy := false, nbAt := s.cyc, yieldExit := false })).modHub (tileOfChan ch)
    (fun h => { h with admitted := h.admitted.erase (1, ch % 96) })

/-- The channel leaves near-bank mode with every row closed. -/
def State.nbxLeaving (s : State) (ch : Nat) : State :=
  s.modChan ch (fun c => { c with
    mode := .leaving, yield := false, yieldExit := (s.chan ch).pass.isSome, nbxAt := s.cyc
    banks := Tab.mapAll (fun _ => {}) (fun _ b => { b with compute := none, ahead := none, preAt := s.cyc }) c.banks })

section
variable {s : State} {ch : Fin 1536}

theorem exec_nbe (hc : s.conventional ch = true) (hg : (s.chan ch).nbsGranted = true)
    (hb : ∀ j ∈ allBanks, ((s.chan ch).bank j).row = none ∧ ((s.chan ch).bank j).postponed ≤ 2)
    (hr : ∀ r < 24, (s.chan ch).rank r = .awake) (hq : (s.chan ch).writeQ = []) (hl : (s.stack (ch.val / 16)).level < 4)
    (ha : (1, ch.val % 96) ∈ (s.hub (tileOfChan ch)).admitted ∨ ((s.chan ch).yieldExit = true ∧ s.cyc ≤ (s.chan ch).nbxAt + 1600)) :
    exec (.nbe ch) s = .next (s.nbeEntered ch) := by
  have closed : (allBanks.all (fun j => ((s.chan ch).bank j).row.isNone && decide (((s.chan ch).bank j).postponed ≤ 2))) = true :=
    List.all_eq_true.mpr fun j hj => by simp [hb j hj]
  have awake : (List.range 24).all (fun r => (s.chan ch).rank r == .awake) = true :=
    List.all_eq_true.mpr fun r hr' => by simp [hr r (List.mem_range.mp hr')]
  exact next_congr ((if_neg (State.not_nearBank_of_conventional hc)).trans (if_pos ⟨hc, closed, awake, hq, hg, hl, ha⟩))

theorem exec_nbx (hm : (s.chan ch).mode = .nearBank) (hy : (s.chan ch).yield = true ∨ (s.chan ch).pass = none) (hc : s.computing ch = false)
    (hb : ∀ j ∈ allBanks, ((s.chan ch).bank j).compute = none ∧ ((s.chan ch).bank j).ahead = none ∨ ((s.chan ch).bank j).actAt + 45 ≤ s.cyc) :
    exec (.nbx ch) s = .next (s.nbxLeaving ch) := by
  have ripe : allBanks.all (fun j => ((s.chan ch).bank j).compute.isNone && ((s.chan ch).bank j).ahead.isNone ||
      decide (((s.chan ch).bank j).actAt + 45 ≤ s.cyc)) = true :=
    List.all_eq_true.mpr fun j hj => by simpa using hb j hj
  exact next_congr ((if_neg (by rw [hm]; decide)).trans (if_pos ⟨hm, hy, hc, ripe⟩))

theorem State.nbxLeaving_closed (s : State) (ch j : Nat) :
    (((s.nbxLeaving ch).chan ch).bank j).compute = none ∧ (((s.nbxLeaving ch).chan ch).bank j).ahead = none := by
  rw [State.nbxLeaving, State.chan_modChan]
  exact Tab.get_mapAll_has (P := fun b : Bank => b.compute = none ∧ b.ahead = none) _ _ _ _ ⟨rfl, rfl⟩ fun _ => ⟨rfl, rfl⟩
end

/-! ### Ahead rows (06 R233 to R235, R241, R751) -/

theorem State.testHost_chan (s : State) (ch : Nat) : ∃ p, (s.testHost ch).chan ch = { s.chan ch with pass := p } := by
  unfold State.testHost
  split
  · split
    · exact ⟨_, by rw [State.chan_modChan]⟩
    · exact ⟨_, rfl⟩
  · exact ⟨_, rfl⟩

/-- A row opened ahead in bank `j` for requester `who`, at cycle `now`. -/
def State.aheadOpened (s : State) (now ch j row who : Nat) : State :=
  (s.modChan ch (fun c => { c.modBank j (fun b => { b with ahead := some row, opener := who, actAt := now }) with
    throttles := c.throttles.map (fun t => if t.who = who ∧ t.bank = j then { t with last := now + 1 } else t) })).tallyRow ch j row who

theorem Keeps.aheadOpened (s : State) (now ch j row who : Nat) : Keeps [.chans, .rows] s (s.aheadOpened now ch j row who) :=
  ((Keeps.modChan ..).append (Keeps.tallyRow ..)).mono rfl

theorem State.aheadOpened_bank (s : State) (now ch j row who : Nat) : ((((s.aheadOpened now ch j row who).chan ch).bank j).ahead = some row) ∧
    (((s.aheadOpened now ch j row who).chan ch).bank j).compute = ((s.chan ch).bank j).compute := by
  unfold State.aheadOpened
  obtain ⟨a, bank⟩ := (s.modChan ch (fun c => { c.modBank j (fun b => { b with ahead := some row, opener := who, actAt := now }) with
    throttles := c.throttles.map (fun t => if t.who = who ∧ t.bank = j then { t with last := now + 1 } else t) })).tallyRow_bank ch j row who
  have opened : ((s.modChan ch (fun c => { c.modBank j (fun b => { b with ahead := some row, opener := who, actAt := now }) with
      throttles := c.throttles.map (fun t => if t.who = who ∧ t.bank = j then { t with last := now + 1 } else t) })).chan ch).bank j =
      { (s.chan ch).bank j with ahead := some row, opener := who, actAt := now } := by
    rw [State.chan_modChan]
    exact Channel.bank_modBank (s.chan ch) j (fun b => { b with ahead := some row, opener := who, actAt := now })
  rw [bank, opened]
  exact ⟨rfl, rfl⟩

theorem State.aheadOpened_tally (s : State) (now ch j row who : Nat) (hw : who ≠ 28) :
    ((s.aheadOpened now ch j row who).row (rowKey (bankOf ch j) row)).tally = satNat 16 ((s.row (rowKey (bankOf ch j) row)).tally + 1) := by
  rw [State.aheadOpened, State.tallyRow_tally, if_neg hw, (Keeps.modChan ..).row_eq rfl]

/-- The requester of a channel's pass. -/
def Channel.passWho (c : Channel) : Nat := match c.pass with | some p => 8 + p.ctx % 4 | none => 8

/-- What the sequencer does with an AHA that the die takes: it makes the interval's test, and opens the row or not. -/
def State.ahaIssued (s : State) (ch j row : Nat) : State :=
  if (s.testHost ch).ahaMay ch j row (s.chan ch).passWho = false ∨ ((s.chan ch).bank j).owed.any (fun o => o % 64 == s.subOf ch j row) = true then
    s.testHost ch
  else (s.testHost ch).aheadOpened s.cyc ch j row (s.chan ch).passWho

theorem Channel.passWho_ne (c : Channel) : c.passWho ≠ 28 := by
  unfold Channel.passWho
  split <;> omega

section
variable {s : State} {ch : Fin 1536} {rank : BitVec 5} {bank : Bool} {row : BitVec 16} (hr : rank.toNat < 24) (hm : (s.chan ch).mode = .nearBank)
include hr hm

theorem exec_aha_refused (h : ((s.chan ch).bank (2 * rank.toNat + nat bank)).ahead ≠ none ∨ ∃ r,
      ((s.chan ch).bank (2 * rank.toNat + nat bank)).compute = some r ∧ s.subOf ch (2 * rank.toNat + nat bank) r = s.subOf ch (2 * rank.toNat + nat bank) row.toNat) :
    exec (.aha ch rank bank row) s = .next (s.wrongMode ch [2 * rank.toNat + nat bank]) := by
  refine next_congr ((if_neg (Nat.not_le.mpr hr)).trans ((if_neg (fun h => h hm)).trans (if_pos ?_)))
  rcases h with h | ⟨r, hc, same⟩
  · exact .inl (Option.isSome_iff_ne_none.mpr h)
  · refine .inr ?_
    rw [hc]
    exact beq_iff_eq.mpr same

variable (ha : ((s.chan ch).bank (2 * rank.toNat + nat bank)).ahead = none)
  (hsub : ∀ r, ((s.chan ch).bank (2 * rank.toNat + nat bank)).compute = some r →
    s.subOf ch (2 * rank.toNat + nat bank) r ≠ s.subOf ch (2 * rank.toNat + nat bank) row.toNat)
include ha hsub

omit hr hm in
theorem ahead_free : ¬(((s.chan ch).bank (2 * rank.toNat + nat bank)).ahead.isSome = true ∨
    (match ((s.chan ch).bank (2 * rank.toNat + nat bank)).compute with
      | some r => s.subOf ch (2 * rank.toNat + nat bank) r == s.subOf ch (2 * rank.toNat + nat bank) row.toNat | none => false) = true) := by
  rw [ha]
  cases hc : ((s.chan ch).bank (2 * rank.toNat + nat bank)).compute with
  | none => simp
  | some r => simpa using hsub r hc

theorem exec_aha_opens (ho : ∀ o ∈ ((s.chan ch).bank (2 * rank.toNat + nat bank)).owed, o % 64 ≠ s.subOf ch (2 * rank.toNat + nat bank) row.toNat)
    (hmay : (s.testHost ch).ahaMay ch (2 * rank.toNat + nat bank) row.toNat (s.chan ch).passWho = true) :
    exec (.aha ch rank bank row) s = .next ((s.testHost ch).aheadOpened s.cyc ch (2 * rank.toNat + nat bank) row.toNat (s.chan ch).passWho) := by
  have owed : ((s.chan ch).bank (2 * rank.toNat + nat bank)).owed.any (fun o => o % 64 == s.subOf ch (2 * rank.toNat + nat bank) row.toNat) = false := by
    simpa [List.any_eq_false] using ho
  refine next_congr ((if_neg (Nat.not_le.mpr hr)).trans ((if_neg (fun h => h hm)).trans ((if_neg (ahead_free ha hsub)).trans
    (Eq.trans (b := s.ahaIssued ch (2 * rank.toNat + nat bank) row.toNat) rfl (if_neg ?_)))))
  rintro (no | some)
  · exact Bool.false_ne_true (no.symm.trans hmay)
  · exact Bool.false_ne_true (owed.symm.trans some)

theorem exec_aha_waits (hmay : (s.testHost ch).ahaMay ch (2 * rank.toNat + nat bank) row.toNat (s.chan ch).passWho = false) :
    exec (.aha ch rank bank row) s = .next (s.testHost ch) :=
  next_congr ((if_neg (Nat.not_le.mpr hr)).trans ((if_neg (fun h => h hm)).trans ((if_neg (ahead_free ha hsub)).trans
    (Eq.trans (b := s.ahaIssued ch (2 * rank.toNat + nat bank) row.toNat) rfl (if_pos (.inl hmay))))))
end

/-! ### The compute row (06 R234) -/

/-- The ahead row of bank `j` becomes its compute row. -/
def Channel.switched (c : Channel) (now j : Nat) : Channel := c.modBank j (fun b => { b with compute := b.ahead, ahead := none, preAt := now })

theorem Channel.foldl_switched (now : Nat) (js : List Nat) (hd : js.Nodup) (c : Channel) :
    (∀ j ∈ js, (js.foldl (fun c j => c.switched now j) c).bank j = { c.bank j with compute := (c.bank j).ahead, ahead := none, preAt := now }) ∧
    (∀ j, j ∉ js → (js.foldl (fun c j => c.switched now j) c).bank j = c.bank j) := by
  induction js generalizing c with
  | nil => exact ⟨fun j hj => absurd hj List.not_mem_nil, fun _ _ => rfl⟩
  | cons i js ih =>
    obtain ⟨hi, hjs⟩ := List.nodup_cons.1 hd
    obtain ⟨banks, others⟩ := ih hjs (c.switched now i)
    refine ⟨fun j hj => ?_, fun j hj => ?_⟩
    · rcases List.mem_cons.mp hj with rfl | hj
      · rw [List.foldl_cons, others _ hi, Channel.switched, Channel.bank_modBank]
      · have hji : j ≠ i := fun h => hi (h ▸ hj)
        rw [List.foldl_cons, banks j hj, Channel.switched, Channel.bank_modBank_ne _ _ _ _ hji]
    · obtain ⟨hji, hj⟩ := not_or.1 (List.mem_cons.not.1 hj)
      rw [List.foldl_cons, others j hj, Channel.switched, Channel.bank_modBank_ne _ _ _ _ hji]

theorem State.participating_nodup (s : State) (ch : Nat) : (s.participating ch).Nodup := List.nodup_range.filter _

/-- The pass with a row more streamed. -/
def Channel.rowStreamed (c : Channel) : Channel :=
  { c with pass := c.pass.map (fun p => { p with
      rowsDone := p.rowsDone + 1, since := if p.yielded then 1 else p.since + 1, yielded := false, held := if p.yielded then none else p.held }) }

theorem exec_swt {s : State} {ch : Fin 1536} (hm : (s.chan ch).mode = .nearBank) (hy : (s.chan ch).yield = false)
    (hp : ∀ p, (s.chan ch).pass = some p → p.yieldDue = false ∧ p.rowTaken = true)
    (ha : ∀ j ∈ s.participating ch, ((s.chan ch).bank j).ahead ≠ none) (hc : s.computing ch = false) :
    exec (.swt ch) s = .next (s.modChan ch (fun c => (s.participating ch).foldl (fun c j => c.switched s.cyc j) c.rowStreamed)) := by
  have due : (match (s.chan ch).pass with | some p => p.yieldDue || !p.rowTaken | none => false) = false := by
    cases hpass : (s.chan ch).pass with
    | none => rfl
    | some p =>
      obtain ⟨yields, taken⟩ := hp p hpass
      simp [yields, taken]
  have opened : (s.participating ch).all (fun j => ((s.chan ch).bank j).ahead.isSome) = true :=
    List.all_eq_true.mpr fun j hj => Option.isSome_iff_ne_none.mpr (ha j hj)
  exact next_congr ((if_neg (fun h => h hm)).trans (if_pos ⟨hy, due, opened, hc⟩))

/-! ### NRF (06 R245 to R248) -/

section
variable {s : State} {ch : Fin 1536} (hm : (s.chan ch).mode = .nearBank)
include hm

theorem exec_nrf (h : (∀ p, (s.chan ch).pass = some p → p.held ≠ some true) ∨ 4 ≤ (s.chan ch).nrfPost) :
    exec (.nrf ch) s = .next ((allBanks.foldl (fun u j => s.nrfBank u ch j) s).modChan ch (fun c => { c with nrfPost := c.nrfPost - 1 })) := by
  refine next_congr ((if_neg (fun h => h hm)).trans (if_neg ?_))
  rintro ⟨held, few⟩
  rcases h with h | h
  · cases hp : (s.chan ch).pass with
    | none => rw [hp] at held; exact Bool.false_ne_true held
    | some p => rw [hp] at held; exact h p hp (by simpa using held)
  · omega

theorem exec_nrf_postponed {p : Pass} (hp : (s.chan ch).pass = some p) (hh : p.held = some true) (hn : (s.chan ch).nrfPost < 4) :
    exec (.nrf ch) s = .next (s.modChan ch (fun c => { c with nrfPost := c.nrfPost + 1 })) := by
  refine next_congr ((if_neg (fun h => h hm)).trans (if_pos ⟨?_, hn⟩))
  rw [hp]
  exact beq_iff_eq.mpr hh
end

/-- Settles O10: `State.foldl_nrfBank` for NRF, `Channel.foldl_switched` for SWT, `State.aheadOpened_bank` for AHA. -/
theorem nearBankRowsComplete : Obligations.NearBankRowsComplete := by
  refine ⟨fun s ch hc hg hb hr hq hl ha => ?_, fun s ch hm hy hc hb => ?_, fun s ch hm => ?_,
    fun s ch rank bank row j who rk hr hj hrk hm ha hsub ho hwho hmay => ?_, fun s ch rank bank row p hr hm ha hcomp hp hx hh hw => ?_,
    fun s ch rank bank row j hr hj hm h => ?_, fun s ch hm hy hp ha hc => ?_, fun s ch hm h => ?_,
    fun s ch p hm hp hh hn => exec_nrf_postponed hm hp hh hn, fun s ch rank bank r j hr hj hm ha ho hc hah => ?_, fun s ch j r rest ho hs => ?_⟩
  · refine .next (exec_nbe hc hg hb hr hq hl ha) ⟨?_, ?_, fun k hk => ?_, (Keeps.modChan ..).append (Keeps.modHub ..)⟩
    iterate 2 rw [State.nbeEntered, (Keeps.modHub ..).chan_eq rfl, State.chan_modChan]
    rw [State.nbeEntered, (Keeps.modHub ..).chan_eq rfl, State.chan_modChan_ne _ _ _ _ hk]
  · refine .next (exec_nbx hm hy hc hb) ⟨?_, s.nbxLeaving_closed ch, Keeps.modChan ..⟩
    rw [State.nbxLeaving, State.chan_modChan]
  · refine .next (next_congr (if_pos hm)) ?_
    rw [State.chan_modChan]
    exact ⟨rfl, rfl, rfl, rfl, Keeps.modChan ..⟩
  · subst hj hrk
    have named : who = (s.chan ch).passWho := hwho
    subst named
    obtain ⟨p, chan⟩ := s.testHost_chan ch
    obtain ⟨ahead, compute⟩ := (s.testHost ch).aheadOpened_bank s.cyc ch (2 * rank.toNat + nat bank) row.toNat (s.chan ch).passWho
    refine .next (exec_aha_opens hr hm ha hsub ho hmay) ⟨ahead, compute.trans ?_, ?_, ((Keeps.testHost ..).append (Keeps.aheadOpened ..)).mono rfl⟩
    · rw [chan]
      rfl
    · rw [State.aheadOpened_tally _ _ _ _ _ _ (Channel.passWho_ne _), (Keeps.testHost ..).row_eq rfl]
  · have tested : (s.testHost ch).chan ch = { s.chan ch with pass := some { p with held := some true } } := by
      simp only [State.testHost, hp, hx, hh, hw, and_self, if_true, State.chan_modChan, Option.map_some]
    have may : (s.testHost ch).ahaMay ch (2 * rank.toNat + nat bank) row.toNat (s.chan ch).passWho = false := by
      have now : ((s.testHost ch).chan ch).pass = some { p with held := some true } := by rw [tested]
      have crosses : ({ p with held := some true } : Pass).crosses = true := hx
      simp [State.ahaMay, now, crosses]
    refine .next (exec_aha_waits hr hm ha (fun r h => absurd (hcomp.symm.trans h) (by simp)) may) ?_
    rw [tested]
    exact ⟨rfl, rfl, Keeps.testHost ..⟩
  · subst hj
    exact .next (exec_aha_refused hr hm h) ⟨s.wrongMode_nbu_seqerr ch _ _ List.mem_cons_self, Keeps.wrongMode ..⟩
  · obtain ⟨banks, others⟩ := Channel.foldl_switched s.cyc (s.participating ch) (s.participating_nodup ch) (s.chan ch).rowStreamed
    refine .next (exec_swt hm hy hp ha hc) ⟨fun j hj => ?_, fun j hj => ?_, Keeps.modChan ..⟩
    · rw [State.chan_modChan, banks j hj]
      exact ⟨rfl, rfl⟩
    · rw [State.chan_modChan, others j hj]
      rfl
  · obtain ⟨post, -, banks, tallies, -, kept⟩ := s.foldl_nrfBank ch allBanks List.nodup_range s
    have run := exec_nrf hm h
    generalize allBanks.foldl (fun u j => s.nrfBank u ch j) s = u at run post banks tallies kept
    refine .next run ⟨?_, fun j hj b hb => ?_, (kept.append (Keeps.modChan ..)).mono rfl⟩
    · rw [State.chan_modChan, post]
    · subst hb
      rw [State.chan_modChan]
      refine ⟨congrArg Bank.refk (banks j hj), congrArg Bank.postponed (banks j hj), congrArg Bank.owed (banks j hj), fun w hw ho x hx => ?_⟩
      rw [(Keeps.modChan ..).row_eq rfl]
      exact tallies j hj w hw ho x hx
  · subst hj
    have run : exec (.nnr ch rank bank) s = .next (s.refreshNeighbours ch (2 * rank.toNat + nat bank) r) := by
      refine next_congr ((if_neg (Nat.not_le.mpr hr)).trans ((if_neg (fun h => h hm)).trans ?_))
      rw [ha]
      exact if_pos ⟨ho, hc, hah⟩
    refine .next run ⟨?_, fun w hw x hx => ?_, (Keeps.refreshNeighbours ..).mono rfl⟩
    · rw [State.refreshNeighbours, State.chan_modChan, Channel.bank_modBank]
    · rw [State.refreshNeighbours, (Keeps.modChan ..).row_eq rfl]
      exact s.clearTallies_tally _ _ w hw x hx
  · have run : exec (.owedWordlineRefresh ch j) s = .next ((s.clearTallies (bankOf ch j) [(r % 64, r / 64)]).modChan ch
        (fun c => c.modBank j (fun b => { b with owed := rest }))) := by
      show execOwedWordlineRefresh ch j s = _
      simp [execOwedWordlineRefresh, ho, hs]
    refine .next run ⟨?_, fun x hx => ?_, ((Keeps.clearTallies ..).append (Keeps.modChan ..)).mono rfl⟩
    · rw [State.chan_modChan, Channel.bank_modBank]
    · rw [(Keeps.modChan ..).row_eq rfl]
      exact s.clearTallies_tally _ _ (r % 64, r / 64) List.mem_cons_self x hx

end Sys2Proof.Machine
end

section
/-! Near-bank configuration, broadcast and compute-column (05 R165 to R205; 06 R221 to R226). -/

namespace Sys2Proof.Machine

/-! ### Beats (06 R222, R224) -/

theorem ofLe_leBytes (n w : Nat) : ofLe (leBytes n w) = w % 256 ^ n := by
  induction n generalizing w with
  | zero => rw [leBytes, ofLe, Nat.pow_zero, Nat.mod_one]
  | succ n ih =>
    have parts : w % 256 ^ (n + 1) = w % 256 + 256 * (w / 256 % 256 ^ n) := by rw [Nat.pow_succ', Nat.mod_mul]
    rw [leBytes, ofLe, ih, parts, BitVec.toNat_ofNat]

theorem ofLe_lt (l : List Byte) : ofLe l < 256 ^ l.length := by
  induction l with
  | nil => exact Nat.one_pos
  | cons b l ih =>
    have := b.isLt
    rw [ofLe, List.length_cons, Nat.pow_succ']
    omega

theorem leBytes_ofLe (l : List Byte) : leBytes l.length (ofLe l) = l := by
  induction l with
  | nil => rfl
  | cons b l ih =>
    have byte : BitVec.ofNat 8 (b.toNat + 256 * ofLe l) = b := by
      apply BitVec.eq_of_toNat_eq
      rw [BitVec.toNat_ofNat]
      omega
    have rest : (b.toNat + 256 * ofLe l) / 256 = ofLe l := by omega
    rw [ofLe, List.length_cons, leBytes, byte, rest, ih]

theorem beatOf_toNat {d : List Byte} (hd : d.length = 32) (a : List Byte) : (beatOf d a).toNat = ofLe d + (crc16 (d ++ a)).toNat * 2 ^ 256 := by
  have low := ofLe_lt d
  have high := (crc16 (d ++ a)).isLt
  rw [hd] at low
  rw [beatOf, BitVec.toNat_ofNat, Nat.mod_eq_of_lt]
  omega

/-- A beat as it was made passes its check. -/
theorem beatState_beatOf {d : List Byte} (hd : d.length = 32) (a : List Byte) : beatState (beatOf d a) a = .good := by
  have low := ofLe_lt d
  rw [hd] at low
  have nat := beatOf_toNat hd a
  have data : beatData (beatOf d a) = d := by
    rw [beatData, nat, show (ofLe d + (crc16 (d ++ a)).toNat * 2 ^ 256) % 2 ^ 256 = ofLe d by omega, ← hd, leBytes_ofLe]
  have check : BitVec.ofNat 16 ((beatOf d a).toNat / 2 ^ 256) = crc16 (d ++ a) := by
    rw [nat, show (ofLe d + (crc16 (d ++ a)).toNat * 2 ^ 256) / 2 ^ 256 = (crc16 (d ++ a)).toNat by omega, BitVec.ofNat_toNat, BitVec.setWidth_eq]
  simp only [beatState, data, check, if_true]

/-- A beat that nothing changed on the way is received as it was sent. -/
theorem bbwReceived_unflipped {data : BitVec 256} {q j : Nat} {flips : List (Fin 48 × BitVec 272)} (h : ∀ f ∈ flips, f.1.val ≠ j) :
    bbwReceived data q j flips = beatOf (leBytes 32 data.toNat) (bbwAdded q) := by
  rw [bbwReceived, List.filter_eq_nil_iff.mpr fun f hf => by simpa using h f hf]
  rfl

theorem extract_beatOf (data : BitVec 256) (a : List Byte) : (beatOf (leBytes 32 data.toNat) a).extractLsb' 0 256 = data := by
  have := data.isLt
  apply BitVec.eq_of_toNat_eq
  rw [BitVec.extractLsb'_toNat, beatOf_toNat (leBytes_length ..), ofLe_leBytes, Nat.shiftRight_zero]
  omega

/-! ### Units changed bank by bank -/

theorem State.foldl_modNbu (ch : Nat) (f : Nat → Nbu → Nbu) (js : List Nat) (hd : js.Nodup) (s : State) :
    (∀ j ∈ js, (js.foldl (fun s j => s.modNbu (bankOf ch j) (f j)) s).nbu (bankOf ch j) = f j (s.nbu (bankOf ch j))) ∧
    (∀ b, (∀ j ∈ js, b ≠ bankOf ch j) → (js.foldl (fun s j => s.modNbu (bankOf ch j) (f j)) s).nbu b = s.nbu b) := by
  induction js generalizing s with
  | nil => exact ⟨fun j hj => absurd hj List.not_mem_nil, fun _ _ => rfl⟩
  | cons i js ih =>
    obtain ⟨hi, hjs⟩ := List.nodup_cons.1 hd
    obtain ⟨named, others⟩ := ih hjs (s.modNbu (bankOf ch i) (f i))
    have apart {j : Nat} (hj : j ≠ i) : bankOf ch j ≠ bankOf ch i := fun h => hj (Nat.add_left_cancel h)
    refine ⟨fun j hj => ?_, fun b hb => ?_⟩
    · rcases List.mem_cons.mp hj with rfl | hj
      · rw [List.foldl_cons, others _ fun k hk => (apart fun h => hi (h ▸ hk)).symm, State.nbu_modNbu]
      · rw [List.foldl_cons, named j hj, State.nbu_modNbu_ne _ _ _ _ (apart fun h => hi (h ▸ hj))]
    · rw [List.foldl_cons, others b fun k hk => hb k (List.mem_cons_of_mem _ hk), State.nbu_modNbu_ne _ _ _ _ (hb i List.mem_cons_self)]

theorem Keeps.foldl_modNbu (ch : Nat) (f : Nat → Nbu → Nbu) (js : List Nat) (s : State) :
    Keeps [.nbus] s (js.foldl (fun s j => s.modNbu (bankOf ch j) (f j)) s) := Keeps.foldl _ (fun _ _ => Keeps.modNbu ..) js s

/-! ### Broadcast beats (05 R172, R173) -/

/-- What a unit takes of a broadcast beat. -/
def Nbu.takeBeat (n : Nbu) (now q : Nat) (x : BitVec 272) : Nbu :=
  if beatState x (bbwAdded q) ≠ .good ∧ (n.sync now).inWindow q = true then ((n.sync now).stage q (x.extractLsb' 0 256) (now / 3)).poisonSet
  else (n.sync now).stage q (x.extractLsb' 0 256) (now / 3)

theorem Nbu.takeBeat_spec (n : Nbu) (now q : Nat) (x : BitVec 272) : (n.takeBeat now q x).stagedAt = now / 3 ∧
    (n.takeBeat now q x).staged = (n.sync now).staged ++ [(q, x.extractLsb' 0 256)] ∧
    (beatState x (bbwAdded q) = .good → (n.takeBeat now q x).poison = (n.sync now).poison) ∧
    (beatState x (bbwAdded q) ≠ .good → (n.sync now).inWindow q = true → (n.takeBeat now q x).poison = (n.sync now).poisonSet.poison) := by
  unfold Nbu.takeBeat
  split
  · next h => exact ⟨rfl, rfl, fun good => absurd good h.1, fun _ _ => rfl⟩
  · next h => exact ⟨rfl, rfl, fun _ => rfl, fun bad inside => absurd ⟨bad, inside⟩ h⟩

theorem exec_bbw {s : State} {ch : Fin 1536} {data : BitVec 256} {flips : List (Fin 48 × BitVec 272)} (hm : (s.chan ch).mode = .nearBank)
    (hn : ∀ j ∈ allBanks, ((s.nbu (bankOf ch j)).sync s.cyc).staged.length < 6) : exec (.bbw ch data flips) s =
    .next ((allBanks.foldl (fun u j => u.modNbu (bankOf ch j) (fun n => n.takeBeat s.cyc (s.chan ch).beat (bbwReceived data (s.chan ch).beat j flips))) s).modChan ch
      (fun c => { c with beat := (c.beat + 1) % 65536 })) := by
  have room : ¬allBanks.any (fun j => decide (6 ≤ (((s.nbu (bankOf ch j)).sync s.cyc).staged).length)) = true := by
    rw [List.any_eq_true]
    rintro ⟨j, hj, full⟩
    have := hn j hj
    have := of_decide_eq_true full
    omega
  exact next_congr ((if_neg (fun h => h hm)).trans (if_neg room))

/-- A beat is written to the bytes of the window that it covers. -/
theorem Nbu.writeBeat_abuf (n : Nbu) (q : Nat) (data : List Byte) (x : Nat) (hx : x < 4096) :
    Tab.get (fun _ => 0) (n.writeBeat q data).abuf x =
      if 32 * q ≤ 32 * n.woff + x ∧ 32 * n.woff + x < 32 * q + 32 then data.getD (32 * n.woff + x - 32 * q) 0 else Tab.get (fun _ => 0) n.abuf x := by
  have some (m : Nat) : Tab.get (fun _ => 0) ((List.range m).foldl (fun t i =>
      if 32 * n.woff ≤ 32 * q + i ∧ 32 * q + i - 32 * n.woff < 4096 then Tab.set (fun _ => 0) t (32 * q + i - 32 * n.woff) (data.getD i 0) else t) n.abuf) x =
      if 32 * q ≤ 32 * n.woff + x ∧ 32 * n.woff + x < 32 * q + m then data.getD (32 * n.woff + x - 32 * q) 0 else Tab.get (fun _ => 0) n.abuf x := by
    induction m with
    | zero => rw [List.range_zero, List.foldl_nil, if_neg (by omega)]
    | succ m ih =>
      rw [List.range_succ, List.foldl_append, List.foldl_cons, List.foldl_nil]
      by_cases here : 32 * n.woff + x = 32 * q + m
      · rw [if_pos (by omega), if_pos (by omega), show 32 * q + m - 32 * n.woff = x by omega, Tab.get_set_same]
        congr 1
        omega
      · have others : (32 * q ≤ 32 * n.woff + x ∧ 32 * n.woff + x < 32 * q + (m + 1)) ↔ 32 * q ≤ 32 * n.woff + x ∧ 32 * n.woff + x < 32 * q + m := by omega
        simp only [others, ← ih]
        split
        · exact Tab.get_set_ne _ _ _ _ _ (by omega)
        · rfl
  exact some 32

/-! ### Configuration (05 R177 to R179; 06 R221, R225) -/

theorem Nbu.valid_of_cfg {n : Nbu} {w : Nat} (h : n.cfg = BitVec.ofNat 64 (w % 2 ^ 63 + 2 ^ 63)) : n.valid = true ∧ n.cfg.toNat % 2 ^ 63 = w % 2 ^ 63 := by
  have nat : n.cfg.toNat = w % 2 ^ 63 + 2 ^ 63 := by
    rw [h, BitVec.toNat_ofNat]
    omega
  refine ⟨?_, by omega⟩
  simp only [Nbu.valid, flag, nat, beq_iff_eq]
  omega

theorem Nbu.park_valid (n : Nbu) : n.park.valid = false := by
  have nat : n.park.cfg.toNat < 2 ^ 63 := by
    rw [Nbu.park, BitVec.toNat_ofNat]
    omega
  simp only [Nbu.valid, flag, beq_eq_false_iff_ne]
  omega

theorem Nbu.configure_spec (n : Nbu) (w : Nat) : (n.configure w).valid = cfgAccepted w ∧ (n.configure w).cfgerr = !cfgAccepted w ∧
    (cfgAccepted w = true → (n.configure w).cfg.toNat % 2 ^ 63 = w % 2 ^ 63 ∧ (n.configure w).col = 0 ∧ (n.configure w).blk = 0) := by
  unfold Nbu.configure
  split
  · next h =>
    obtain ⟨valid, low⟩ := Nbu.valid_of_cfg (n := { n with
      cfg := BitVec.ofNat 64 (w % 2 ^ 63 + 2 ^ 63), col := 0, blk := 0, sums := [], scale := [], run := none
      cfgerr := false, lost := false, discard := n.discard || n.open_ }) (w := w) rfl
    rw [h]
    exact ⟨valid, rfl, fun _ => ⟨low, rfl, rfl⟩⟩
  · next h =>
    rw [Bool.not_eq_true] at h
    rw [h]
    exact ⟨n.park_valid, rfl, fun h => absurd h Bool.false_ne_true⟩

/-- Settles O11: `State.foldl_modNbu` for the units of a channel, `Nbu.writeBeat_abuf` for a beat's bytes, `Nbu.configure_spec` for CFGW. -/
theorem nearBankOperandsComplete : Obligations.NearBankOperandsComplete := by
  refine ⟨fun s ch q hm => next_congr (if_neg (fun h => h hm)), fun s ch data flips q hq hm hn => ?_,
    fun n q data x _ hx => n.writeBeat_abuf q data x hx, fun s ch rank beat ctl hr hm hctl => ?_, fun s ch col hm hmay => ?_,
    fun s ch col hm hmay => next_congr ((if_neg (fun h => h hm)).trans (if_pos hmay))⟩
  · subst hq
    obtain ⟨named, -⟩ := State.foldl_modNbu ch (fun j n => n.takeBeat s.cyc (s.chan ch).beat (bbwReceived data (s.chan ch).beat j flips)) allBanks
      List.nodup_range s
    have kept := Keeps.foldl_modNbu ch (fun j n => n.takeBeat s.cyc (s.chan ch).beat (bbwReceived data (s.chan ch).beat j flips)) allBanks s
    have run := exec_bbw hm hn (data := data) (flips := flips)
    generalize allBanks.foldl (fun u j => u.modNbu (bankOf ch j) (fun n => n.takeBeat s.cyc (s.chan ch).beat (bbwReceived data (s.chan ch).beat j flips))) s = u
      at run named kept
    refine .next run ⟨?_, fun j hj n x hn hx => ?_, (kept.append (Keeps.modChan ..)).mono rfl⟩
    · rw [State.chan_modChan, kept.chan_eq rfl]
    · subst hn hx
      obtain ⟨at_, staged, good, bad⟩ := (s.nbu (bankOf ch j)).takeBeat_spec s.cyc (s.chan ch).beat (bbwReceived data (s.chan ch).beat j flips)
      rw [(Keeps.modChan ..).nbu_eq rfl, named j hj]
      refine ⟨at_, staged, fun unflipped => ?_, bad⟩
      have received := bbwReceived_unflipped (data := data) (q := (s.chan ch).beat) unflipped
      exact ⟨by rw [received, extract_beatOf], good (by rw [received, beatState_beatOf (leBytes_length ..)])⟩
  · subst hctl
    have run : exec (.cfgw ch rank beat) s = .next ((s.modNbu (bankOf ch (2 * rank.toNat)) (fun n => (n.sync s.cyc).takeCfgw rank.toNat beat 0)).modNbu
        (bankOf ch (2 * rank.toNat + 1)) (fun n => (n.sync s.cyc).takeCfgw rank.toNat beat 1)) :=
      next_congr ((if_neg (Nat.not_le.mpr hr)).trans (if_neg (fun h => h hm)))
    have apart : bankOf ch (2 * rank.toNat) ≠ bankOf ch (2 * rank.toNat + 1) := by unfold bankOf; omega
    refine .next run ⟨fun i hi b n w hb hn hw => ?_, fun b h0 h1 => ?_, ((Keeps.modNbu ..).append (Keeps.modNbu ..)).mono rfl⟩
    · have unit : ((s.modNbu (bankOf ch (2 * rank.toNat)) (fun n => (n.sync s.cyc).takeCfgw rank.toNat beat 0)).modNbu
          (bankOf ch (2 * rank.toNat + 1)) (fun n => (n.sync s.cyc).takeCfgw rank.toNat beat 1)).nbu b = n.takeCfgw rank.toNat beat i := by
        subst hn hb
        match i, hi with
        | 0, _ =>
          simp only [Nat.add_zero]
          rw [State.nbu_modNbu_ne _ _ _ _ apart, State.nbu_modNbu]
        | 1, _ => rw [State.nbu_modNbu, State.nbu_modNbu_ne _ _ _ _ apart.symm]
      rw [unit]
      clear unit
      subst hw
      refine ⟨fun good => ?_, fun bad named => ?_⟩
      · obtain ⟨valid, err, rest⟩ := n.configure_spec (beat.toNat / 2 ^ (64 * i) % 2 ^ 64)
        refine ⟨fun park => ?_, fun park conf => ?_, fun park conf => ?_⟩
        · simp only [Nbu.takeCfgw, good, park, if_true]
        · simp only [Nbu.takeCfgw, good, park, conf, if_true, Bool.false_eq_true, if_false]
          exact ⟨valid, err, rest⟩
        · simp only [Nbu.takeCfgw, good, park, conf, if_true, Bool.false_eq_true, if_false]
      · have refused : n.takeCfgw rank.toNat beat i = n.badCfg := by
          simp only [Nbu.takeCfgw, bad, if_false]
          refine if_pos (Bool.or_eq_true_iff.mpr (.inl (Bool.or_eq_true_iff.mpr named)))
        rw [refused]
        exact ⟨n.park_valid, rfl⟩
    · rw [State.nbu_modNbu_ne _ _ _ _ h1, State.nbu_modNbu_ne _ _ _ _ h0]
  · obtain ⟨named, others⟩ := State.foldl_modNbu ch (fun j => s.takeCcl ch j col.toNat ((s.chan ch).bank j).compute) (s.participating ch)
      (s.participating_nodup ch) s
    have kept := Keeps.foldl_modNbu ch (fun j => s.takeCcl ch j col.toNat ((s.chan ch).bank j).compute) (s.participating ch) s
    have run : ∃ t, exec (.ccl ch col) s = .next t ∧
        Keeps [.chans, .pm, .act] ((s.participating ch).foldl (fun s' j => s'.modNbu (bankOf ch j) (s.takeCcl ch j col.toNat ((s.chan ch).bank j).compute)) s) t :=
      ⟨_, next_congr ((if_neg (fun h => h hm)).trans (if_neg (by rw [hmay]; decide))),
        ((((Keeps.modChan ..).append (Keeps.count ..)).append (Keeps.count ..)).append (Keeps.spend ..)).mono rfl⟩
    obtain ⟨t, run, rest⟩ := run
    refine .next run ⟨fun j hj r n hc hn hb => ?_, fun j hj n hn hb => ?_, fun b hb => ?_, (kept.append rest).mono rfl⟩
    · rw [rest.nbu_eq rfl, named j hj, hc, hn]
      subst hn
      exact if_neg (Nat.not_lt.mpr hb)
    · rw [rest.nbu_eq rfl, named j hj]
      subst hn
      rcases hb with hb | hb
      · rw [hb]
        rfl
      · cases (s.chan ch).bank j |>.compute with
        | none => rfl
        | some r => exact if_pos hb
    · rw [rest.nbu_eq rfl, others b hb]

end Sys2Proof.Machine
end

section
/-! Folds, accumulator reads and clears, status reads (06 R254 to R260). -/

namespace Sys2Proof.Machine

/-! ### A map flip at the end of a pass (02 R55, R56; 06 R254, R257, R260; 10 R431)

An accumulator read whose group goes to the recompute unit may be the last of its channel's pass; the flips due on the channel then take effect. A
write that a flip performs may fail and halt its context, and a halt empties the sum buffers that hold a drain of the context. -/

/-- Channel 0 in near-bank mode, its unit of bank 0 poisoned, a flip of slot 0 due on it. A ferry write of context 0 to row 0 of the slot waits in
its queue, and the row's tag is wrong, so that the write fails. Sum buffer 5 holds a drain of context 0. -/
def flipHalts : State := { State.reset with
  nbus := [(0, { poison := 1 })]
  rows := [(0, { tag := 1 })]
  slots := [(0, { phys := 0, moveTo := some 1 })]
  ctxs := [(0, { st := .running })]
  crus := [(5, { dst := some {} })]
  chans := [(0, { mode := .nearBank, flips := [0], writeQ := [{ write := true, fe := some (0, 0) }] })] }

/-- Group `g` of bank `b` read and handed to the recompute unit, for no drain. -/
def State.acrHanded (s : State) (ch b g buf : Nat) : State :=
  ((s.modNbu b (fun _ => { (s.nbu b).sync s.cyc with seqerr := ((s.nbu b).sync s.cyc).seqerr || ((s.nbu b).sync s.cyc).foldPending g })).handOver
    ch b g buf none).modChan ch (fun c => c.dropReads (fun e => some e == none))

/-- Channel `ch` with its pass ended and no flip due on it. -/
def State.passEnded (s : State) (ch : Nat) : State := (s.modChan ch Channel.endPass).modChan ch (fun c => { c with flips := [] })

/-- A pass that ends with one flip due, on no other channel, flips that slot. -/
theorem State.closePass_one {s : State} {ch f : Nat} (passed : ((s.modChan ch Channel.endPass).chan ch).pass.isSome = false)
    (due : ((s.modChan ch Channel.endPass).chan ch).flips = [f])
    (alone : (s.passEnded ch).chans.any (fun e : Nat × Channel => e.2.flips.contains f) = false) : s.closePass ch = (s.passEnded ch).flipSlot f := by
  rw [State.closePass]
  simp only [passed, Bool.false_eq_true, if_false]
  rw [State.takeFlips]
  simp only [due, List.foldl_cons, List.foldl_nil]
  exact if_neg (fun h => Bool.false_ne_true (alone.symm.trans h))

/-- What a flip does after the queued requests does not touch the sum buffers. -/
theorem State.flipSlot_crus {s : State} {slot q : Nat} (h : (s.slot slot).moveTo = some q) : (s.flipSlot slot).crus = (s.reroute (s.slot slot).phys q).crus := by
  have rest : Keeps [.slots, .parcels, .hubs, .logs, .parts, .pages, .ports, .act, .out] (s.reroute (s.slot slot).phys q) (s.flipSlot slot) := by
    unfold State.flipSlot
    extract_lets x
    split
    · next none => exact nomatch h.symm.trans none
    next r some =>
    cases h.symm.trans some
    extract_lets s1 s2 s3 s4
    have bound : Keeps [.slots, .parcels] (s.reroute (s.slot slot).phys q) s1 := (Keeps.modSlot ..).append (Keeps.modParcel ..)
    have logged : Keeps [.hubs, .logs] s1 s2 := .ite (Keeps.logError ..) (.refl _ _)
    have told : Keeps [.parts, .pages, .ports, .act, .out] s2 s3 := .ite (Keeps.eventOwner ..) (.refl _ _)
    have answered : Keeps [.slots, .parts, .pages, .ports, .act, .out] s3 s4 := by
      refine .ite ?_ (.refl _ _)
      split
      · exact (Keeps.modSlot ..).append (Keeps.complete ..)
      · exact .refl _ _
    exact (((((bound.append logged).append told).append answered).append (Keeps.reviewCode ..)).append (Keeps.noteCover ..)).mono rfl
  exact rest.same .crus (by decide)

theorem State.closePass_one_crus {s : State} {ch f p q : Nat} (passed : ((s.modChan ch Channel.endPass).chan ch).pass.isSome = false)
    (due : ((s.modChan ch Channel.endPass).chan ch).flips = [f])
    (alone : (s.passEnded ch).chans.any (fun e : Nat × Channel => e.2.flips.contains f) = false)
    (at_ : ((s.passEnded ch).slot f).phys = p) (moves : ((s.passEnded ch).slot f).moveTo = some q) :
    (s.closePass ch).crus = ((s.passEnded ch).reroute p q).crus := by
  rw [State.closePass_one passed due alone, State.flipSlot_crus moves, at_]

theorem flipHalts.emptied : ((flipHalts.acrHanded 0 0 0 0).closePass 0).crus = [] := by
  have rerouted : (((flipHalts.acrHanded 0 0 0 0).passEnded 0).reroute 0 1).crus = [] := by decide +kernel
  exact (State.closePass_one_crus (f := 0) (by decide +kernel) (by decide +kernel) (by decide +kernel) (by decide +kernel) (by decide +kernel)).trans rerouted

/-! ### An accumulator read of a poisoned group (06 R224, R260) -/

theorem beatState_complement {d : List Byte} (hd : d.length = 32) (a : List Byte) :
    beatState (beatOf d a ^^^ BitVec.ofNat 272 (0xFFFF * 2 ^ 256)) a = .complement := by
  have low := ofLe_lt d
  rw [hd] at low
  have crc := (crc16 (d ++ a)).isLt
  have nat : (beatOf d a ^^^ BitVec.ofNat 272 (0xFFFF * 2 ^ 256)).toNat = (beatOf d a).toNat ^^^ (0xFFFF * 2 ^ 256) := by
    rw [BitVec.toNat_xor, BitVec.toNat_ofNat]
    rfl
  have data : beatData (beatOf d a ^^^ BitVec.ofNat 272 (0xFFFF * 2 ^ 256)) = d := by
    rw [beatData, nat, Nat.xor_mod_two_pow, Nat.mul_mod_left, Nat.xor_zero, beatOf_toNat hd,
      show (ofLe d + (crc16 (d ++ a)).toNat * 2 ^ 256) % 2 ^ 256 = ofLe d by omega, ← hd, leBytes_ofLe]
  have check : BitVec.ofNat 16 ((beatOf d a ^^^ BitVec.ofNat 272 (0xFFFF * 2 ^ 256)).toNat / 2 ^ 256) = ~~~crc16 (d ++ a) := by
    rw [nat, Nat.xor_div_two_pow, beatOf_toNat hd, show (ofLe d + (crc16 (d ++ a)).toNat * 2 ^ 256) / 2 ^ 256 = (crc16 (d ++ a)).toNat by omega,
      Nat.mul_div_cancel _ (by decide), BitVec.ofNat_xor, BitVec.ofNat_toNat, BitVec.setWidth_eq]
    exact BitVec.xor_allOnes
  have other : ~~~crc16 (d ++ a) ≠ crc16 (d ++ a) := fun h => by
    have bit := congrArg (BitVec.getLsbD · 0) h
    simp at bit
  simp only [beatState, data, check, if_neg other, if_true]

theorem getRun_length {α : Type} (d : Nat → α) (t : Tab α) (k n : Nat) : (Tab.getRun d t k n).length = n := by
  induction n generalizing k with
  | zero => rfl
  | succ n ih => rw [Tab.getRun, List.length_cons, ih]

/-- Every beat of a poisoned group comes with its check complemented. -/
theorem Nbu.acrBeat_poisoned {n : Nbu} {g k : Nat} (hp : n.poison.getLsbD g = true) (hk : k < 8) : beatState (n.acrBeat g k) (acrAdded g k) = .complement := by
  have all : (n.groupVals g).length = 64 := getRun_length ..
  have bytes : ((((n.groupVals g).drop (8 * k)).take 8).flatMap (fun v => leBytes 4 v.toNat)).length = 32 := by
    simp only [List.length_flatMap, leBytes_length, List.map_const', List.sum_replicate, List.length_take, List.length_drop, all, smul_eq_mul]
    omega
  rw [Nbu.acrBeat, if_pos hp]
  exact beatState_complement bytes _

/-- A poisoned group is not taken, however often it is read. -/
theorem acrTaken_poisoned {n : Nbu} {g : Nat} (hp : n.poison.getLsbD g = true) (is : List Nat) : acrTaken g (is.map (fun _ => n.acrCopy g [])) = none := by
  have checks : ((n.acrCopy g []).zip (List.range 8)).map (fun x => beatState x.1 (acrAdded g x.2)) = List.replicate 8 ColState.complement := by
    have beats : n.acrCopy g [] = (List.range 8).map (n.acrBeat g) := rfl
    rw [beats]
    refine List.eq_replicate_iff.mpr ⟨by simp, fun x hx => ?_⟩
    obtain ⟨k, hk, rfl⟩ := List.mem_iff_getElem.mp hx
    have k8 : k < 8 := by simpa using hk
    simpa using Nbu.acrBeat_poisoned hp k8
  cases is with
  | nil => rfl
  | cons i is =>
    unfold acrTaken
    extract_lets st
    have first : st (n.acrCopy g []) = List.replicate 8 ColState.complement := checks
    rw [List.map_cons, List.find?_cons_of_pos (by rw [first]; decide)]
    simp only [first]
    exact if_pos (by decide)

theorem exec_acr_poisoned {s : State} {ch : Fin 1536} {rank : BitVec 5} {bank : Bool} {group : BitVec 3} {buf : BitVec 4} (hr : rank.toNat < 24)
    (hm : (s.chan ch).mode = .nearBank) (hn : (s.chan ch).pass = none)
    (hp : ((s.nbu (bankOf ch (2 * rank.toNat + nat bank))).sync s.cyc).poison.getLsbD group.toNat = true) : ∃ a, exec (.acr ch rank bank group buf []) s =
    .next (((s.acrHanded ch (bankOf ch (2 * rank.toNat + nat bank)) group.toNat buf.toNat).closePass ch).answer a) := by
  show ∃ a, execAcr ch rank bank group buf [] s = _
  have lost := acrTaken_poisoned hp (List.range (s.inForce ch rNBCFG 4 2 + 1))
  simp only [execAcr, hn, List.getD_nil, lost, if_neg (Nat.not_le.mpr hr), hm, ne_eq, not_true_eq_false, if_false, Option.map_none, Option.isSome_none,
    Bool.false_eq_true, false_and]
  exact ⟨_, rfl⟩

/-- Refutes O12: an accumulator read that ends the channel's pass lets a flip halt a context, and the halt empties a sum buffer. -/
theorem not_nearBankResultsComplete : ¬ Obligations.NearBankResultsComplete := by
  unfold Obligations.NearBankResultsComplete
  rintro ⟨-, -, handed, -⟩
  have poisoned : ((flipHalts.nbu (bankOf 0 0)).sync flipHalts.cyc).poison.getLsbD 0 = true := by decide +kernel
  obtain ⟨t, ht, same, -⟩ := handed flipHalts 0 0 false 0 0 (by decide) rfl rfl poisoned
  obtain ⟨a, run⟩ := exec_acr_poisoned (buf := 0) (s := flipHalts) (ch := 0) (rank := 0) (bank := false) (group := 0) (by decide) rfl rfl poisoned
  have result : t = ((flipHalts.acrHanded 0 0 0 0).closePass 0).answer a := Host.Outcome.next.inj (ht.symm.trans run)
  rw [result, (Keeps.answer ..).same .crus (by decide), flipHalts.emptied] at same
  exact absurd same (by decide)

end Sys2Proof.Machine
end

section
/-! Slot moves, repairs and spares (02 R36 to R42, R55, R56; 18 R670, R693 to R696). -/

namespace Sys2Proof.Machine

/-! ### A slot's map flip (02 R55, R56, R58; 03 R110, R114) -/

theorem State.slot_reviewCode (s : State) (sl i : Nat) : ((s.reviewCode sl).slot i).phys = (s.slot i).phys ∧
    ((s.reviewCode sl).slot i).moveTo = (s.slot i).moveTo ∧ ((s.reviewCode sl).slot i).flipping = (s.slot i).flipping := by
  have begun (x : Nat × Nat) : ((s.modSlot sl (fun y => { y with reenc := some x })).slot i).phys = (s.slot i).phys ∧
      ((s.modSlot sl (fun y => { y with reenc := some x })).slot i).moveTo = (s.slot i).moveTo ∧
      ((s.modSlot sl (fun y => { y with reenc := some x })).slot i).flipping = (s.slot i).flipping := by
    by_cases hi : i = sl
    · subst hi; rw [State.slot_modSlot]; exact ⟨rfl, rfl, rfl⟩
    · rw [State.slot_modSlot_ne _ _ _ _ hi]; exact ⟨rfl, rfl, rfl⟩
  unfold State.reviewCode
  extract_lets t
  split <;> split
  · exact ⟨rfl, rfl, rfl⟩
  · exact begun _
  · exact ⟨rfl, rfl, rfl⟩
  · exact begun _

/-- A map flip binds the slot to the parcel it moves to. -/
theorem State.flipSlot_slot {s : State} {slot q : Nat} (h : (s.slot slot).moveTo = some q) :
    ((s.flipSlot slot).slot slot).phys = q ∧ ((s.flipSlot slot).slot slot).moveTo = none ∧
      ((s.flipSlot slot).slot slot).flipping = false := by
  unfold State.flipSlot
  extract_lets x
  split
  · next none => exact nomatch h.symm.trans none
  next r some =>
  cases h.symm.trans some
  extract_lets s1 s2 s3 s4
  have bound : (s1.slot slot).phys = q ∧ (s1.slot slot).moveTo = none ∧ (s1.slot slot).flipping = false := by
    rw [(Keeps.modParcel ..).slot_eq rfl rfl, State.slot_modSlot]
    exact ⟨rfl, rfl, rfl⟩
  have logged : Keeps [.hubs, .logs] s1 s2 := .ite (Keeps.logError ..) (.refl _ _)
  have told : Keeps [.parts, .pages, .ports, .act, .out] s2 s3 := .ite (Keeps.eventOwner ..) (.refl _ _)
  have before : (s3.slot slot).phys = q ∧ (s3.slot slot).moveTo = none ∧ (s3.slot slot).flipping = false := by
    rwa [told.slot_eq rfl rfl, logged.slot_eq rfl rfl]
  have answered : (s4.slot slot).phys = q ∧ (s4.slot slot).moveTo = none ∧ (s4.slot slot).flipping = false := by
    unfold s4
    split
    · split
      · rw [(Keeps.complete ..).slot_eq rfl rfl, State.slot_modSlot]
        exact before
      · exact before
    · exact before
  rw [(Keeps.noteCover ..).slot_eq rfl rfl]
  obtain ⟨phys, moveTo, flipping⟩ := s4.slot_reviewCode slot slot
  obtain ⟨phys', moveTo', flipping'⟩ := answered
  exact ⟨phys.trans phys', moveTo.trans moveTo', flipping.trans flipping'⟩

/-- The channels of a parcel's tile that run a span pass. -/
def State.busyOn (s : State) (p : Nat) : List Nat := ((List.range 96).map (fun i => p / 512 * 96 + i)).filter (fun c => (s.chan c).pass.isSome)

theorem State.busyOn_nil {s : State} {p : Nat} (idle : ∀ i < 96, (s.chan (p / 512 * 96 + i)).pass = none) : s.busyOn p = [] := by
  refine List.filter_eq_nil_iff.2 fun c hc => ?_
  obtain ⟨i, hi, rfl⟩ := List.mem_map.1 hc
  rw [idle i (List.mem_range.1 hi)]
  exact Bool.false_ne_true

theorem State.mem_busyOn {s : State} {p i : Nat} (hi : i < 96) (passes : (s.chan (p / 512 * 96 + i)).pass ≠ none) :
    p / 512 * 96 + i ∈ s.busyOn p :=
  List.mem_filter.2 ⟨List.mem_map.2 ⟨i, List.mem_range.2 hi, rfl⟩, Option.isSome_iff_ne_none.2 passes⟩

/-- A slot's flip noted on the channels that run a pass, for their yield points. -/
def State.flipLater (s : State) (slot : Nat) (busy : List Nat) : State :=
  (s.modSlot slot (fun x => { x with flipping := true })).putChans (Tab.updMany (fun _ => {}) (fun c : Channel =>
    { c with flips := if slot ∈ c.flips then c.flips else c.flips ++ [slot] }) busy s.chans)

theorem State.flipLater_flips (s : State) (slot : Nat) (busy : List Nat) (c : Nat) (hc : c ∈ busy) : slot ∈ ((s.flipLater slot busy).chan c).flips :=
  Tab.get_updMany_has (P := fun c : Channel => slot ∈ c.flips) _ _ (fun x => by
    show slot ∈ (if slot ∈ x.flips then x.flips else x.flips ++ [slot])
    split
    · assumption
    · simp) busy s.chans c (.inr hc)

theorem State.flipLater_slot (s : State) (slot : Nat) (busy : List Nat) :
    (s.flipLater slot busy).slot slot = { s.slot slot with flipping := true } := State.slot_modSlot s slot (fun x => { x with flipping := true })

theorem exec_slotMoveFlip {s : State} {slot : Fin 7168} {q : Nat} (h : (s.slot slot).moveTo = some q) : exec (.slotMoveFlip slot) s =
    .next (if s.busyOn (s.slot slot).phys = [] then (s.writeBackSlot slot).flipSlot slot
      else (s.writeBackSlot slot).flipLater slot (s.busyOn (s.slot slot).phys)) :=
  next_congr (if_neg (by rw [h]; exact nofun))

theorem exec_slotMove {s : State} {slot : Fin 7168} {q : Nat} (h : (s.slot slot).moveTo = none)
    (target : s.moveTarget ((s.slot slot).phys / 512) = some q) : exec (.slotMove slot) s =
    .next (((s.copyParcel (s.slot slot).phys q).modSlot slot (fun x => { x with moveTo := some q })).noteCover s.covered) := by
  refine next_congr ((if_pos h).trans ?_)
  rw [target]

theorem exec_slotMove_stays {s : State} {slot : Fin 7168} (h : (s.slot slot).moveTo = none)
    (target : s.moveTarget ((s.slot slot).phys / 512) = none) (retired : (s.parcel (s.slot slot).phys).retired = true) : exec (.slotMove slot) s =
    .next ((s.modParcel (s.slot slot).phys (fun p => { p with retired := false })).logError (parcelLine (s.slot slot).phys) 127 0x0C 8 0 none 0) := by
  refine next_congr ((if_pos h).trans ?_)
  rw [target]
  exact if_pos retired

/-! ### Rows, banks and spares (02 R36 to R42; 18 R670, R693 to R696) -/

theorem State.poisonLine_spare (s : State) (line k : Nat) : ((s.poisonLine line).row k).spare = (s.row k).spare := by
  have checked (u : State) (rk c : Nat) (comp : Bool) : ((u.setCheck rk c comp).row k).spare = (u.row k).spare := by
    unfold State.setCheck
    extract_lets d u1
    split
    · by_cases hk : k = rk
      · subst hk; rw [State.row_modRow]; rfl
      · rw [State.row_modRow_ne _ _ _ _ hk]; rfl
    · rfl
  rw [State.poisonLine]
  by_cases hk : k = line / 32
  · subst hk
    rw [State.row_modRow]
    exact (checked ..).trans (checked ..)
  · rw [State.row_modRow_ne _ _ _ _ hk]
    exact (checked ..).trans (checked ..)

theorem State.poisonLines_spare (s : State) (rk : Nat) (ls : List Nat) (k : Nat) : ((s.poisonLines rk ls).row k).spare = (s.row k).spare := by
  induction ls generalizing s with
  | nil => rfl
  | cons l ls ih => exact (ih (s.poisonLine (rk * 32 + l))).trans (s.poisonLine_spare ..)

/-- A row repaired is bound to its spare row. -/
theorem State.flipRepair_row (s : State) (r : Repair) (h : r.kind = 0) :
    ((s.flipRepair r).row r.at_).spare = some r.spare ∧ (r.wrong = false → SameBanks s (s.flipRepair r)) := by
  unfold State.flipRepair
  simp only [h, if_true]
  constructor
  · split
    · rw [State.poisonLines_spare, State.row_modRow, State.row_modRow]
    · rw [State.row_modRow]
  · intro right
    rw [right]
    exact ⟨rfl, rfl⟩

theorem State.freshBank_row (s : State) {b k : Nat} (hk : k / 65536 = b) : ((s.freshBank b).row k).spare = none :=
  Tab.get_mapAll_has (P := fun m : RowMeta => m.spare = none) _ _ s.rows k rfl
    (fun v => by rw [if_pos hk])

theorem State.flipRepair_bank (s : State) (r : Repair) (h : r.kind = 1) (k : Nat) (hk : k / 65536 = r.at_) :
    ((s.flipRepair r).row k).spare = none := by
  have fresh : s.flipRepair r = s.freshBank r.at_ := by simp only [State.flipRepair, h, OfNat.one_ne_ofNat, one_ne_zero, if_false, if_true]
  rw [fresh, State.freshBank_row s hk]

theorem State.flipRepair_col (s : State) (r : Repair) {c : Nat} (h : r.kind = 3) (free : (s.bspare r.at_).freeCol = some c)
    (new : (s.bspare r.at_).cols.any (fun e => e.1 == r.spare) = false) :
    ((s.flipRepair r).bspare r.at_).cols = (s.bspare r.at_).cols ++ [(r.spare, c)] := by
  unfold State.flipRepair
  simp only [h, OfNat.ofNat_ne_zero, if_false, if_true]
  rw [State.bspare_modBspare]
  simp only [free, new, Bool.false_eq_true, if_false]

/-- The oldest repair of a stack taken from those that wait. -/
def State.repairTaken (s : State) (st : Nat) (rest : List Repair) : State := s.modStack st (fun k => { k with pendingRepair := rest })

theorem exec_repairFlip {s : State} {st : Fin 96} {r : Repair} {rest : List Repair} (h : (s.stack st).pendingRepair = r :: rest) :
    exec (.repairFlip st) s = .next (if s.repairMay r then (s.repairTaken st rest).flipRepair r else s) := by
  show execRepairFlip st s = _
  rw [execRepairFlip, h]
  rfl

/-! ### Swap tests (02 R40; 18 R694 to R696) -/

/-- A swap test begun: its bank's repairs kept aside, the redirect to the spare bank in force. -/
def State.swapBegun (s : State) (st b : Nat) : State :=
  ((s.modStack st (fun k => { k with
    testing := some ((dieHalf b).1, (dieHalf b).2, bankInHalf b), swapTable := s.bspare b, swapRows := s.rowsOf b })).freshBank b).putLogs
    { s.logs with strActive := true }

theorem exec_swapTestReturn {s : State} {st : Fin 96} {inStack : Fin 768} (on : flag (s.reg 0 rRCVCFG) 1 = true) (idle : (s.stack st).testing = none) :
    exec (.swapTestReturn st inStack) s = .next (if (s.stack st).bankFree (st.val * 768 + inStack.val) then
      if s.repairMay { kind := 1, at_ := st.val * 768 + inStack.val } then s.swapBegun st (st.val * 768 + inStack.val) else s
      else s.putLogs { s.logs with skipped := satNat 16 (s.logs.skipped + 1) }) :=
  next_congr (if_neg (by rw [on, idle]; decide))

theorem State.swapBegun_stack (s : State) (st b : Nat) :
    ((s.swapBegun st b).stack st).testing = some ((dieHalf b).1, (dieHalf b).2, bankInHalf b) ∧ ((s.swapBegun st b).stack st).swapTable = s.bspare b := by
  have kept : Keeps [.rows, .bspares, .logs] (s.modStack st (fun k => { k with
      testing := some ((dieHalf b).1, (dieHalf b).2, bankInHalf b), swapTable := s.bspare b, swapRows := s.rowsOf b })) (s.swapBegun st b) :=
    (Keeps.freshBank ..).append (Keeps.putLogs ..)
  rw [kept.stack_eq rfl, State.stack_modStack]
  exact ⟨rfl, rfl⟩

theorem State.swapBegun_row (s : State) (st : Nat) {b k : Nat} (hk : k / 65536 = b) : ((s.swapBegun st b).row k).spare = none := by
  rw [State.swapBegun, (Keeps.putLogs ..).row_eq rfl, State.freshBank_row _ hk]

theorem State.swapBegun_keeps (s : State) (st b : Nat) : Keeps [.stks, .bspares, .rows, .logs] s (s.swapBegun st b) :=
  (((Keeps.modStack ..).append (Keeps.freshBank ..)).append (Keeps.putLogs ..)).mono rfl

theorem State.logError_strFailed (s : State) (line col kind path ncorr : Nat) (part : Option Nat) (addr : Nat) :
    (s.logError line col kind path ncorr part addr).logs.strFailed = s.logs.strFailed ∧
    (s.logError line col kind path ncorr part addr).logs.tested = s.logs.tested := by
  unfold State.logError
  extract_lets lg loc correctable prior lg1 code info words s1
  clear_value prior
  cases prior with
  | some e => exact ⟨rfl, rfl⟩
  | none =>
    have boxed : (s1.bbox (locOfLine line).tile 2 part 63 [(24, 8, s.stamp), (32, 8, loc), (40, 8, info), (48, 8, addr)]).logs = s1.logs :=
      (Keeps.bbox ..).same .logs (by decide)
    rw [boxed]
    exact ⟨rfl, rfl⟩

/-- The repairs kept aside of a bank's rows put in force again. -/
def State.rowsBack (s : State) (l : List (Nat × Nat)) : State := l.foldl (fun s e => s.modRow e.1 (fun m => { m with spare := some e.2 })) s

theorem Keeps.rowsBack (s : State) (l : List (Nat × Nat)) : Keeps [.rows] s (s.rowsBack l) :=
  Keeps.foldl (fun s (e : Nat × Nat) => s.modRow e.1 (fun m => { m with spare := some e.2 })) (fun s e => Keeps.modRow s e.1 _) l s

/-- A stack's swap test ended, its bank on the spare where it `stays`. -/
def State.swapEnded (s : State) (st : Nat) (x : Nat × Nat × Nat) (stays : Bool) : State :=
  let s1 := s.modStack st (fun k => { k with testing := none, swapTable := {}, swapRows := [], banks := if stays then k.banks ++ [x] else k.banks })
  s1.putLogs { s1.logs with
    strFailed := if stays then satNat 16 (s1.logs.strFailed + 1) else s1.logs.strFailed
    strActive := (List.range 96).any (fun i => (s1.stack i).testing.isSome) }

theorem State.endSwap_eq (s : State) (st : Nat) (x : Nat × Nat × Nat) (stays : Bool) : s.endSwap st x stays =
    if stays then (s.swapEnded st x stays).logError (lineKey (bankOfHalf st x) 0 0) 127 9 8 0 none 0
    else (((s.swapEnded st x stays).freshBank (bankOfHalf st x)).modBspare (bankOfHalf st x) (fun _ => (s.stack st).swapTable)).rowsBack
      (s.stack st).swapRows := rfl

theorem State.swapEnded_stack (s : State) (st : Nat) (x : Nat × Nat × Nat) (stays : Bool) : (s.swapEnded st x stays).stack st =
    { s.stack st with testing := none, swapTable := {}, swapRows := [], banks := if stays then (s.stack st).banks ++ [x] else (s.stack st).banks } :=
  State.stack_modStack s st (fun k => { k with testing := none, swapTable := {}, swapRows := [], banks := if stays then k.banks ++ [x] else k.banks })

theorem State.endSwap_stack (s : State) (st : Nat) (x : Nat × Nat × Nat) (stays : Bool) : (s.endSwap st x stays).stack st =
    { s.stack st with testing := none, swapTable := {}, swapRows := [], banks := if stays then (s.stack st).banks ++ [x] else (s.stack st).banks } := by
  have kept : Keeps [.rows, .bspares, .hubs, .logs] (s.swapEnded st x stays) (s.endSwap st x stays) := by
    rw [State.endSwap_eq]
    split
    · exact (Keeps.logError ..).mono rfl
    · exact (((Keeps.freshBank ..).append (Keeps.modBspare ..)).append (Keeps.rowsBack ..)).mono rfl
  rw [kept.stack_eq rfl, State.swapEnded_stack]

theorem State.endSwap_logs (s : State) (st : Nat) (x : Nat × Nat × Nat) (stays : Bool) : (s.endSwap st x stays).logs.tested = s.logs.tested ∧
    (s.endSwap st x stays).logs.strFailed = (if stays then satNat 16 (s.logs.strFailed + 1) else s.logs.strFailed) := by
  rw [State.endSwap_eq]
  cases stays with
  | true =>
    obtain ⟨failed, tested⟩ := (s.swapEnded st x true).logError_strFailed (lineKey (bankOfHalf st x) 0 0) 127 9 8 0 none 0
    exact ⟨tested, failed⟩
  | false =>
    rw [if_neg Bool.false_ne_true]
    have kept := ((Keeps.freshBank (s.swapEnded st x false) (bankOfHalf st x)).append (Keeps.modBspare _ (bankOfHalf st x) (fun _ => (s.stack st).swapTable))).append
      (Keeps.rowsBack _ (s.stack st).swapRows)
    have logs : (State.rowsBack _ _).logs = _ := kept.same .logs (by decide)
    exact ⟨(congrArg Logs.tested logs :), (congrArg Logs.strFailed logs :)⟩

theorem State.endSwap_returned (s : State) (st : Nat) (x : Nat × Nat × Nat) : (s.endSwap st x false).bspare (bankOfHalf st x) = (s.stack st).swapTable := by
  rw [State.endSwap_eq, if_neg Bool.false_ne_true, (Keeps.rowsBack ..).bspare_eq rfl, State.bspare_modBspare]

/-- One more bank has had its swap test. -/
def State.testCounted (s : State) : State := s.putLogs { s.logs with tested := (s.logs.tested + 1) % 2 ^ 17 }

theorem exec_swapTestDone {s : State} {st : Fin 96} {x : Nat × Nat × Nat} (pass : Bool) (tests : (s.stack st).testing = some x)
    (may : s.repairMay { kind := 1, at_ := bankOfHalf st x } = true) : exec (.swapTestDone st pass) s = .next (s.endSwap st x (!pass)).testCounted := by
  show execSwapTestDone st pass s = _
  rw [execSwapTestDone, tests]
  exact next_congr (if_neg (by rw [may]; decide))

/-! ### The obligation -/

/-- Settles O8: each command is worked out on named states; a slot's binding and a row's spare survive what follows them because the later
operations touch neither (`State.flipSlot_slot`, `State.poisonLines_spare`), and all else is the frame of the operation. -/
theorem movesAndSparesComplete : Obligations.MovesAndSparesComplete := by
  unfold Obligations.MovesAndSparesComplete
  refine ⟨?_, ?_, ?_, ?_, ?_, ?_, ?_, ?_, ?_, ?_, ?_⟩
  · intro s slot q still target
    refine .next (exec_slotMove still target) ?_
    have slots (i : Nat) : (((s.copyParcel (s.slot slot).phys q).modSlot slot (fun x => { x with moveTo := some q })).noteCover s.covered).slot i =
        ((s.copyParcel (s.slot slot).phys q).modSlot slot (fun x => { x with moveTo := some q })).slot i := (Keeps.noteCover ..).slot_eq rfl rfl i
    have copied (i : Nat) : (s.copyParcel (s.slot slot).phys q).slot i = s.slot i := (Keeps.copyParcel ..).slot_eq rfl rfl i
    refine ⟨?_, ?_, fun i hi => ?_⟩
    · rw [slots, State.slot_modSlot]
    · rw [slots, State.slot_modSlot, copied]
    · rw [slots, State.slot_modSlot_ne _ _ _ _ hi, copied]
  · intro s slot still none_ retired
    refine .next (exec_slotMove_stays still none_ retired) ⟨?_, ?_, ?_⟩
    · rw [(Keeps.logError ..).parcel_eq rfl, State.parcel_modParcel]
    · exact (Keeps.logError ..).same .slots (by decide)
    · exact ((Keeps.modParcel ..).append (Keeps.logError ..)).sameBanks rfl rfl
  · intro s slot q moves idle
    refine .next (exec_slotMoveFlip moves) ?_
    rw [if_pos (State.busyOn_nil idle)]
    have due : ((s.writeBackSlot slot).slot slot).moveTo = some q := by rw [(Keeps.writeBackSlot ..).slot_eq rfl rfl, moves]
    obtain ⟨phys, moveTo, -⟩ := State.flipSlot_slot due
    exact ⟨phys, moveTo⟩
  · intro s slot q i moves hi passes
    refine .next (exec_slotMoveFlip moves) ?_
    have busy := State.mem_busyOn hi passes
    rw [if_neg (List.ne_nil_of_mem busy), State.flipLater_slot, (Keeps.writeBackSlot ..).slot_eq rfl rfl]
    exact ⟨State.flipLater_flips _ _ _ _ busy, rfl, moves, rfl⟩
  · intro s st r rest waits may
    refine .next (exec_repairFlip waits) ?_
    rw [if_pos may]
    have kept := Keeps.flipRepair (s.repairTaken st rest) r
    refine ⟨?_, kept.same .mem (by decide), (s.repairTaken st rest).flipRepair_row r, (s.repairTaken st rest).flipRepair_bank r,
      fun c => (s.repairTaken st rest).flipRepair_col r⟩
    rw [kept.stack_eq rfl, State.repairTaken, State.stack_modStack]
  · intro s st r rest waits may
    rw [exec_repairFlip waits, if_neg (by rw [may]; decide)]
  · intro s st kind rank half inStack idx
    exact next_congr (if_pos rfl)
  · intro s st kind rank half inStack idx b hb
    subst hb
    obtain rfl | rfl | rfl | rfl : kind = 0 ∨ kind = 1 ∨ kind = 2 ∨ kind = 3 := by revert kind; decide
    · refine .next (t := (s.modStack st (fun k => { k with spareAt := k.spareAt + 1 })).failSpareDie st) rfl
        ⟨fun _ free => ?_, nofun, nofun, nofun, ((Keeps.modStack ..).append (Keeps.failSpareDie ..)).mono rfl⟩
      rw [State.failSpareDie, if_pos (by rwa [State.stack_modStack]), State.stack_modStack]
    · refine .next (t := (s.modStack st (fun k => { k with spareAt := k.spareAt + 1 })).failSpareBank st rank (nat half)) rfl
        ⟨nofun, fun _ free => ?_, nofun, nofun, ((Keeps.modStack ..).append (Keeps.failSpareBank ..)).mono rfl⟩
      rw [State.failSpareBank, if_neg (by rw [State.stack_modStack]; exact Bool.eq_false_iff.1 free), State.stack_modStack]
      exact List.mem_cons_self
    · refine .next (t := (s.modStack st (fun k => { k with spareAt := k.spareAt + 1 })).failSpareRow (st.val * 768 + inStack.val) idx) rfl
        ⟨nofun, nofun, fun _ free => ?_, nofun, ((Keeps.modStack ..).append (Keeps.failSpareRow ..)).mono rfl⟩
      rw [State.failSpareRow, if_neg (by rwa [(Keeps.modStack ..).bspare_eq rfl]), State.bspare_modBspare]
      exact List.mem_cons_self
    · refine .next (t := (s.modStack st (fun k => { k with spareAt := k.spareAt + 1 })).failSpareCol (st.val * 768 + inStack.val) (idx.val % 4)) rfl
        ⟨nofun, nofun, nofun, fun _ free => ?_, ((Keeps.modStack ..).append (Keeps.failSpareCol ..)).mono rfl⟩
      rw [State.failSpareCol, if_neg (by rw [(Keeps.modStack ..).bspare_eq rfl]; exact Bool.eq_false_iff.1 free), State.bspare_modBspare]
      exact List.mem_cons_self
  · intro s st inStack b hb on idle free may
    subst hb
    refine .next (exec_swapTestReturn on idle) ?_
    rw [if_pos free, if_pos may]
    obtain ⟨testing, table⟩ := s.swapBegun_stack st (st.val * 768 + inStack.val)
    exact ⟨testing, table, fun k hk => s.swapBegun_row st hk, rfl, s.swapBegun_keeps ..⟩
  · intro s st inStack on idle taken
    rw [exec_swapTestReturn on idle, if_neg (by rw [taken]; decide)]
  · intro s st x pass tests may
    refine .next (exec_swapTestDone pass tests may) ?_
    have stack : (s.endSwap st x (!pass)).testCounted.stack st = _ := s.endSwap_stack st x (!pass)
    obtain ⟨tested, failed⟩ := s.endSwap_logs st x (!pass)
    refine ⟨by rw [stack], ?_, ?_, ?_, ?_, ((Keeps.endSwap ..).append (Keeps.putLogs ..)).sameBanks rfl rfl⟩
    · rw [stack]; cases pass <;> rfl
    · rintro rfl; exact s.endSwap_returned st x
    · exact congrArg (fun n => (n + 1) % 2 ^ 17) tested
    · exact failed.trans (by cases pass <;> rfl)

end Sys2Proof.Machine
end

section
/-! Rings, doorbells, watched lines and refused descriptors (15 R566 to R576, R588). -/

namespace Sys2Proof.Machine

/-! ### The rings of a page (15 R567 to R573) -/

/-- Page `k` is as before but for its event ring, the tail of its completion ring, its list of descriptors and whether it has been told of start-up. -/
structure PageNear (k : Nat) (s t : State) : Prop where
  /-- the rest of the page -/
  same : ∃ e n l m c d b, t.page k = { s.page k with eqtail := e, evseq := n, lostNow := l, evlost := m, cqtail := c, fetched := d, told := b }

theorem PageNear.trans {k : Nat} {s t u : State} (h : PageNear k s t) (g : PageNear k t u) : PageNear k s u := by
  obtain ⟨e, n, l, m, c, d, b, h⟩ := h.same
  obtain ⟨e', n', l', m', c', d', b', g⟩ := g.same
  exact ⟨e', n', l', m', c', d', b', by rw [g, h]⟩

theorem PageNear.of_eq {k : Nat} {s t : State} (h : t.page k = s.page k) : PageNear k s t := ⟨_, _, _, _, _, _, _, h⟩

theorem PageNear.modPage (k : Nat) (s : State) (j : Nat) (f : Page → Page) (hf : ∀ g, ∃ e n l m c d b, f g =
    { g with eqtail := e, evseq := n, lostNow := l, evlost := m, cqtail := c, fetched := d, told := b }) : PageNear k s (s.modPage j f) := by
  by_cases h : k = j
  · subst h
    obtain ⟨e, n, l, m, c, d, b, hx⟩ := hf (s.page k)
    exact ⟨e, n, l, m, c, d, b, by rw [State.page_modPage, hx]⟩
  · exact .of_eq (State.page_modPage_ne _ _ _ _ h)

theorem SideRel.pageNear (k : Nat) : SideRel (PageNear k) where
  refl _ := .of_eq rfl
  trans := .trans
  side h hL _ := .of_eq (h.page_eq (by simpa using (List.all_eq_true.mp hL _ (by decide : Field.pages ∈ _))) k)
  port s j f _ := .of_eq rfl
  fill s p sa d _ := .of_eq rfl
  part s j f _ := .of_eq rfl
  page s j f hf := .modPage k s j f fun g => by
    obtain ⟨e, n, l, m, c, d, hx⟩ := hf g
    exact ⟨e, n, l, m, c, d, g.told, hx⟩
  ctx s j f _ := .of_eq rfl

theorem SideRel.writeHeld {R : State → State → Prop} (h : SideRel R) (s : State) (k p : Nat) : R s (s.writeHeld k p) :=
  h.trans (h.part _ _ _ fun _ => ⟨_, _, rfl⟩) (h.foldl (fun _ _ => h.writeCompletion ..) _ _)

theorem State.firstEvents_pageNear (s : State) (k j : Nat) : PageNear j s (s.firstEvents k) := by
  have side := SideRel.pageNear j
  unfold State.firstEvents
  extract_lets s1 s2
  have rehomed : PageNear j s s1 := by
    simp only [s1]
    split
    · exact side.ite (side.trans (.of_eq ((Keeps.modPart ..).page_eq rfl j)) (side.eventOn ..)) (side.refl _)
    · exact side.refl _
  have told : PageNear j s1 s2 := by
    simp only [s2]
    split
    · exact side.ite (side.refl _) (side.trans (.modPage _ _ _ _ fun _ => ⟨_, _, _, _, _, _, _, rfl⟩) (side.eventOn ..))
    · exact side.refl _
  split
  · exact rehomed.trans (told.trans (side.ite (side.writeHeld ..) (side.refl _)))
  · exact rehomed.trans told

theorem State.setErr_page (s : State) (k e : Nat) : (s.setErr k e).page k = { s.page k with err := e } := by
  unfold State.setErr
  extract_lets s1
  split
  · exact State.page_modPage ..
  · rw [(Keeps.raiseVec ..).page_eq rfl]
    exact State.page_modPage ..

/-! ### What is on its way to the host -/

/-- What is on its way to the host is on its way still. -/
structure InflightGrows (s t : State) : Prop where
  /-- no write lost -/
  mem : ∀ w ∈ s.out.inflight, w ∈ t.out.inflight

theorem InflightGrows.trans {s t u : State} (h : InflightGrows s t) (g : InflightGrows t u) : InflightGrows s u := ⟨fun w hw => g.mem w (h.mem w hw)⟩

theorem Keeps.inflightGrows {L : List Field} {s t : State} (h : Keeps L s t) (hL : L.contains .out = false) : InflightGrows s t := by
  have out : t.out = s.out := h.same .out (by simpa using hL)
  exact ⟨fun w hw => by rwa [out]⟩

/-- A device write is the last on its way, with its own address and data. -/
theorem State.hostWrite_inflight (s : State) (w : HostWrite) :
    ∃ i p b, (s.hostWrite w).out.inflight = s.out.inflight ++ [{ w with id := i, poison := p, sent := b }] := by
  unfold State.hostWrite
  extract_lets flagged blocked pois w' out s1
  refine ⟨s.out.nextId, pois, !(decide flagged && blocked), ?_⟩
  split
  · split <;> rfl
  · rfl

theorem State.hostWrite_inflightGrows (s : State) (w : HostWrite) : InflightGrows s (s.hostWrite w) := by
  obtain ⟨i, p, b, h⟩ := s.hostWrite_inflight w
  exact ⟨fun v hv => by rw [h]; exact List.mem_append_left _ hv⟩

theorem State.trace_inflightGrows (s : State) (kind : Nat) (part : Option Nat) (ctx eng step op arg1 arg2 : Nat) :
    InflightGrows s (s.trace kind part ctx eng step op arg1 arg2) := by
  have one (u : State) (p : Nat) : InflightGrows u (u.traceOn p kind part ctx eng step op arg1 arg2) := by
    unfold State.traceOn
    extract_lets ctl sel tr size data
    have noted (f : Port → Port) : InflightGrows u (u.modHport p f) := (Keeps.modHport u p f).inflightGrows rfl
    split
    · split
      · exact (noted _).trans (State.hostWrite_inflightGrows ..)
      · exact noted _
    · exact ⟨fun _ => id⟩
  unfold State.trace
  generalize List.range 4 = ps
  induction ps generalizing s with
  | nil => exact ⟨fun _ => id⟩
  | cons p ps ih => exact (one s p).trans (ih _)

/-- A completion written on running rings: it is on its way to the ring's slot at CQTAIL, and CQTAIL advances. -/
theorem State.writeCompletion_spec (s : State) (k : Nat) (c : Completion) (on : (s.page k).en = true) :
    (s.writeCompletion k c).page k = { s.page k with cqtail := (s.page k).cqtail + 1 } ∧
    ∃ w ∈ (s.writeCompletion k c).out.inflight, w.kind = .completion ∧
      w.addr = (s.page k).cqbase.toNat + 16 * ((s.page k).cqtail.toNat % 2 ^ (s.page k).cqsz) ∧
      w.data = c.bytes (phaseOf (s.page k).cqtail.toNat (s.page k).cqsz) := by
  unfold State.writeCompletion
  extract_lets p i part s1 s2
  rw [if_pos on]
  have later : Keeps [.parts, .ports, .act, .out] s2 ((s2.trace 5 part c.ctx.toNat 0 0 0 c.tag.toNat c.status.toNat).writeControl k) :=
    ((Keeps.trace ..).append (Keeps.writeControl ..)).mono rfl
  constructor
  · have sent : s1.page k = s.page k := (Keeps.hostWrite ..).page_eq rfl k
    rw [later.page_eq rfl, State.page_modPage, sent]
  · obtain ⟨j, q, b, written⟩ := s.hostWrite_inflight
      { port := k / 17, part := part, addr := p.cqbase.toNat + 16 * (i % 2 ^ p.cqsz), data := c.bytes (phaseOf i p.cqsz), kind := .completion
        vec := if c.irq then some 0 else none }
    have grows : InflightGrows s1 ((s2.trace 5 part c.ctx.toNat 0 0 0 c.tag.toNat c.status.toNat).writeControl k) := ((Keeps.modPage s1 k (fun p => { p with cqtail := p.cqtail + 1 })).inflightGrows rfl).trans
      ((s2.trace_inflightGrows 5 part c.ctx.toNat 0 0 0 c.tag.toNat c.status.toNat).trans (State.hostWrite_inflightGrows ..))
    exact ⟨_, grows.mem _ (by rw [written]; exact List.mem_append_right _ (List.mem_singleton.2 rfl)), rfl, rfl, rfl⟩

/-! ### Descriptors started and answered (15 R573, R575, R576, R588) -/

theorem State.startDesc_page (s : State) (k : Nat) (d : Desc) : (s.startDesc k d).page k =
    { s.page k with fetched := (s.page k).fetched.map (fun e => if e.serial == d.serial then { e with started := true } else e) } := by
  unfold State.startDesc
  extract_lets s1
  have later : Keeps [.parts, .ports, .act, .out, .pm] s1
      ((s1.trace 4 (s.partOfPage k) (d.names.getD 0) 0 0 0 (d.f 32 32) 0).count (4 * (k / 17)) 0x10 (s.partOfPage k) 1) :=
    ((Keeps.trace ..).append (Keeps.count ..)).mono rfl
  rw [later.page_eq rfl]
  exact State.page_modPage ..

theorem State.dropDesc_page (s : State) (k n : Nat) :
    (s.dropDesc k n).page k = { s.page k with fetched := (s.page k).fetched.filter (fun d => d.serial != n) } := State.page_modPage ..

/-- A descriptor of running rings started and answered at once: it is fetched no longer, and its completion is on its way to the slot at CQTAIL. -/
theorem State.completeNow_started (s : State) (k : Nat) (d : Desc) (c : Completion) (on : (s.page k).en = true) :
    (((s.startDesc k d).completeNow (d.ref k) c).page k).cqtail = (s.page k).cqtail + 1 ∧
    (∀ e ∈ (((s.startDesc k d).completeNow (d.ref k) c).page k).fetched, e.serial ≠ d.serial) ∧
    ∃ w ∈ ((s.startDesc k d).completeNow (d.ref k) c).out.inflight, w.kind = .completion ∧
      w.addr = (s.page k).cqbase.toNat + 16 * ((s.page k).cqtail.toNat % 2 ^ (s.page k).cqsz) ∧
      w.data = Completion.bytes { c with tag := BitVec.ofNat 32 (d.f 32 32), irq := d.f 9 1 == 1 } (phaseOf (s.page k).cqtail.toNat (s.page k).cqsz) := by
  have page := (s.startDesc k d).dropDesc_page k d.serial
  rw [State.startDesc_page] at page
  have sz : (((s.startDesc k d).dropDesc k d.serial).page k).cqsz = (s.page k).cqsz := by rw [page]; rfl
  obtain ⟨after, w, hw, kind, addr, data⟩ := ((s.startDesc k d).dropDesc k d.serial).writeCompletion_spec k
    { c with tag := BitVec.ofNat 32 (d.f 32 32), irq := d.f 9 1 == 1 } (by rw [page]; exact on)
  refine ⟨?_, ?_, w, hw, kind, ?_, ?_⟩
  · rw [State.completeNow]
    refine (congrArg Page.cqtail after).trans ?_
    rw [page]
  · intro e he
    rw [State.completeNow] at he
    have gone : e ∈ (((s.startDesc k d).dropDesc k d.serial).page k).fetched := (congrArg Page.fetched after ▸ he :)
    rw [page] at gone
    simpa using (List.mem_filter.1 gone).2
  · rw [addr, sz, page]
  · rw [data, sz, page]

theorem State.runDesc_refused {s : State} {k op : Nat} {d : Desc} {st : Nat} (f : Desc → DescRef → State → State)
    (next : nextDesc [] (s.page k).fetched = some d) (free : d.ok = false ∨ s.holds d = false) (refused : s.descRefusal k d = some st) :
    s.runDesc k op f = (s.startDesc k d).completeNow (d.ref k) { status := BitVec.ofNat 8 st, ctx := BitVec.ofNat 6 (d.names.getD 0) } := by
  have may : ¬ (d.ok = true ∧ s.holds d = true) := by
    rintro ⟨ok, holds⟩
    rcases free with h | h
    · exact Bool.false_ne_true (h.symm.trans ok)
    · exact Bool.false_ne_true (h.symm.trans holds)
  rw [State.runDesc, next]
  simp only [if_neg may, refused]

/-! ### The obligation -/

/-- Rings of page `k` set running, before the host is told of it. -/
def State.ringsSet (s : State) (k : Nat) : State :=
  match s.partOfPage k with
  | some p => ((s.setErr k 0).modPage k Page.started).modPart p (fun q => { q with d2hcnt := [] })
  | none => (s.setErr k 0).modPage k Page.started

theorem State.ringsSet_page (s : State) (k : Nat) : (s.ringsSet k).page k = Page.started { s.page k with err := 0 } := by
  have started : ((s.setErr k 0).modPage k Page.started).page k = Page.started { s.page k with err := 0 } := by
    rw [State.page_modPage, State.setErr_page]
  unfold State.ringsSet
  split
  · rw [(Keeps.modPart ..).page_eq rfl, started]
  · exact started

/-- Rings of page `k` started: the ring control line where it changes, the events that the start brings. -/
def State.ringsStarted (s : State) (k : Nat) : State :=
  (if s.controlLine k = (s.ringsSet k).controlLine k then s.ringsSet k else (s.ringsSet k).writeControl k).firstEvents k

theorem State.ringsStarted_pageNear (s : State) (k : Nat) : PageNear k (s.ringsSet k) (s.ringsStarted k) :=
  ((SideRel.pageNear k).ite ((SideRel.pageNear k).refl _) ((SideRel.pageNear k).writeControl ..)).trans (State.firstEvents_pageNear ..)

theorem exec_suctlWrite {s : State} {page : Fin 68} {value : BitVec 32} (here : page.val % 17 = 0 ∨ (s.partOfPage page).isSome = true)
    (linked : (s.hport (page.val / 17)).gone = false) : exec (.suctlWrite page value) s =
    .next (if value.getLsbD 0 = false then s.modPage page (fun g => { g with en := false, rereads := [] })
      else if (s.page page).en then s
      else if (s.page page).badSetup (decide (page.val % 17 = 0)) then s.setErr page 2
      else if 1024 < s.watchedOn (page.val / 17) + (s.page page).watched then s.setErr page 3
      else s.ringsStarted page) :=
  next_congr (if_neg (by
    rw [linked]
    rcases here with h | h <;> simp [h]))

/-- The tail and the heads of a doorbell taken. -/
def State.doorbell (s : State) (k : Nat) (data : BitVec 512) : State :=
  (s.modPage k (fun g => { g with rereads := g.rereads.erase 0 })).modPage k (fun g => { g with
    sqtail := BitVec.ofNat 32 (data.toNat % 2 ^ 32), cqhead := BitVec.ofNat 32 (field data.toNat 32 32), eqhead := BitVec.ofNat 32 (field data.toNat 64 32) })

theorem State.doorbell_page (s : State) (k : Nat) (data : BitVec 512) : (s.doorbell k data).page k = { s.page k with
    rereads := (s.page k).rereads.erase 0, sqtail := BitVec.ofNat 32 (data.toNat % 2 ^ 32), cqhead := BitVec.ofNat 32 (field data.toNat 32 32)
    eqhead := BitVec.ofNat 32 (field data.toNat 64 32) } := by
  rw [State.doorbell, State.page_modPage, State.page_modPage]

theorem exec_doorbellRead {s : State} {page : Fin 68} {data : BitVec 512} (live : s.ringLive page = true) (due : 0 ∈ (s.page page).rereads) :
    exec (.watchedLineRead page 0 data) s = .next (
      if 2 ^ (s.page page).sqsz < (data.toNat % 2 ^ 32 + 2 ^ 32 - (s.page page).sqhead.toNat) % 2 ^ 32 ∧ (s.page page).err ≠ 1 then
        ((s.doorbell page data).setErr page 1).eventOn page 0x0C [(16, 4, data.toNat % 2 ^ 32), (20, 4, (s.page page).sqhead.toNat)]
      else s.doorbell page data) := next_congr ((if_pos ⟨live, due⟩).trans (if_pos rfl))

/-- A slot of the mailbox of page `k` read by partition `p`. -/
def State.slotRead (s : State) (k p line : Nat) (data : BitVec 512) : State :=
  (s.modPage k (fun g => { g with rereads := g.rereads.erase line })).modPart p (fun q => { q with h2d := Tab.set (fun _ => 0) q.h2d (line - 1) data })

theorem exec_slotRead {s : State} {page : Fin 68} {line : Fin 9} {data : BitVec 512} {p : Nat} (live : s.ringLive page = true) (slot : line.val ≠ 0)
    (due : line.val ∈ (s.page page).rereads) (part : s.partOfPage page = some p) :
    exec (.watchedLineRead page line data) s = .next (s.slotRead page p line data) := by
  refine next_congr ((if_pos ⟨live, due⟩).trans ((if_neg slot).trans ?_))
  rw [part]
  rfl

/-- A descriptor taken into page `k`. -/
def State.descTaken (s : State) (k : Nat) (data : BitVec 512) (ok : Bool) : State :=
  ((s.putOut { s.out with nextId := s.out.nextId + 1 }).modPage k (fun g => { g with
    fetched := g.fetched ++ [{ idx := (s.page k).sqhead.toNat, data := data, ok := ok, serial := s.out.nextId }], sqhead := g.sqhead + 1 })).writeControl k

/-- The commands that start the next descriptor of a page answer a refused one alike. -/
theorem exec_refusedDesc {s : State} {page : Fin 68} {tile : Fin 16} {d : Desc} {st : Nat} (next : nextDesc [] (s.page page).fetched = some d)
    (free : d.ok = false ∨ s.holds d = false) (refused : s.descRefusal page d = some st) {c : Instr}
    (hc : c ∈ [Instr.start page, .halt page, .bind page, .unbind page, .load page tile, .discard page, .flush page, .code page,
      .fence page, .reset page, .attach page, .pcreate page, .pdestroy page, .pslot page, .pctx page, .pvf page]) :
    exec c s = .next ((s.startDesc page d).completeNow (d.ref page) { status := BitVec.ofNat 8 st, ctx := BitVec.ofNat 6 (d.names.getD 0) }) := by
  have ran (op : Nat) (f : Desc → DescRef → State → State) : (.next (s.runDesc page op f) : Result) = .next _ :=
    congrArg Host.Outcome.next (State.runDesc_refused f next free refused)
  simp only [List.mem_cons, List.not_mem_nil, or_false] at hc
  rcases hc with rfl | rfl | rfl | rfl | rfl | rfl | rfl | rfl | rfl | rfl | rfl | rfl | rfl | rfl | rfl | rfl <;> exact ran _ _

/-- Settles O21: each command is a named change of the page, and what follows it leaves the words of the rings (`PageNear`); a descriptor refused is
answered alike by every command that starts one (`exec_refusedDesc`), in the slot at CQTAIL (`State.completeNow_started`). -/
theorem ringCommandsComplete : Obligations.RingCommandsComplete := by
  unfold Obligations.RingCommandsComplete
  refine ⟨?_, ?_, ?_, ?_, ?_, ?_, ?_, ?_⟩
  · intro s page value here linked on off good room
    have run : exec (.suctlWrite page value) s = .next (s.ringsStarted page) := by
      rw [exec_suctlWrite here linked, if_neg (by rw [on]; decide), if_neg (by rw [off]; decide), if_neg (by rw [good]; decide), if_neg (by omega)]
    obtain ⟨e, n, l, m, c, d, b, page'⟩ := (s.ringsStarted_pageNear page).same
    rw [State.ringsSet_page] at page'
    have kept := execSuctlWrite_keeps page value s
    rw [show execSuctlWrite page value s = _ from run] at kept
    refine .next run ⟨by rw [page']; rfl, by rw [page']; rfl, by rw [page']; rfl, by rw [page']; rfl, ?_⟩
    exact (kept.keeps _ rfl).sameBanks rfl rfl
  · intro s page value here linked on off bad
    have run : exec (.suctlWrite page value) s = .next (s.setErr page 2) := by
      rw [exec_suctlWrite here linked, if_neg (by rw [on]; decide), if_neg (by rw [off]; decide), if_pos bad]
    refine .next run ?_
    rw [State.setErr_page]
    exact ⟨off, rfl, (Keeps.setErr ..).sameBanks rfl rfl⟩
  · intro s page value here linked off
    refine .next ((exec_suctlWrite here linked).trans (next_congr (if_pos off))) ⟨?_, Keeps.modPage ..⟩
    rw [State.page_modPage]
  · intro s page line live watched room
    refine .next (next_congr (if_pos ⟨live, watched, room⟩)) ⟨?_, Keeps.modPage ..⟩
    rw [State.page_modPage]
  · intro s page data live due
    refine .next (exec_doorbellRead live due) ?_
    have taken := s.doorbell_page page data
    split
    · have near := (SideRel.pageNear page.val).eventOn ((s.doorbell page data).setErr page 1) page 0x0C [(16, 4, data.toNat % 2 ^ 32), (20, 4, (s.page page).sqhead.toNat)]
      obtain ⟨e, n, l, m, c, d, b, page'⟩ := near.same
      rw [State.setErr_page, taken] at page'
      rw [page']
      exact ⟨rfl, rfl, rfl, fun _ => rfl⟩
    · next small =>
      rw [taken]
      exact ⟨rfl, rfl, rfl, fun far => Decidable.not_not.1 fun err => small ⟨far, err⟩⟩
  · intro s page line data p live slot due part
    refine .next (exec_slotRead live slot due part) ⟨?_, (Keeps.modPage ..).append (Keeps.modPart ..)⟩
    rw [State.slotRead, State.part_modPart]
    exact Tab.get_set_same ..
  · intro s page data ok live err some_ few room used
    refine .next (t := s.descTaken page data ok) (next_congr (if_pos ⟨live, err, some_, few, room, used⟩)) ?_
    have page' : (s.descTaken page data ok).page page = { s.page page with
        fetched := (s.page page).fetched ++ [{ idx := (s.page page).sqhead.toNat, data := data, ok := ok, serial := s.out.nextId }]
        sqhead := (s.page page).sqhead + 1 } := by
      rw [State.descTaken, (Keeps.writeControl ..).page_eq rfl, State.page_modPage, (Keeps.putOut ..).page_eq rfl]
    rw [page']
    exact ⟨rfl, _, rfl, rfl, rfl, rfl⟩
  · intro s page tile d st next refused free on c hc
    exact .next (exec_refusedDesc next free refused hc) (s.completeNow_started page d _ on)

end Sys2Proof.Machine
end

section
/-! Descriptors of contexts and handles (15 R575, R580; 12 R493 to R499; 10 R388, R390; 11 R435, R440). -/

namespace Sys2Proof.Machine

theorem SameBanks.trans {s t u : State} (h : SameBanks s t) (g : SameBanks t u) : SameBanks s u := by
  obtain ⟨mem, pois⟩ := h
  obtain ⟨mem', pois'⟩ := g
  exact ⟨mem'.trans mem, pois'.trans pois⟩

theorem Part.handle_modHandle (q : Part) (i : Nat) (f : Handle → Handle) : (q.modHandle i f).handle i = f (q.handle i) := Tab.get_upd_same ..

theorem PortNear.prb {k : Nat} {s t : State} (h : PortNear k s t) : (t.hport k).prb = (s.hport k).prb := by
  obtain ⟨tr, n, m, h⟩ := h.same
  rw [h]

/-! ### A descriptor that starts (15 R573, R575, R580) -/

namespace SideRel
variable {R : State → State → Prop} (h : SideRel R)
include h

theorem startDesc (s : State) (k : Nat) (d : Desc) : R s (s.startDesc k d) := by
  unfold State.startDesc
  extract_lets s1
  exact h.trans (h.page _ _ _ fun _ => ⟨_, _, _, _, _, _, rfl⟩) (h.trans (h.trace ..) (h.keeps (Keeps.count ..) rfl))

theorem completeNow (s : State) (r : DescRef) (c : Completion) : R s (s.completeNow r c) :=
  h.trans (h.page _ _ _ fun _ => ⟨_, _, _, _, _, _, rfl⟩) (h.writeCompletion ..)

end SideRel

theorem PartNear.handle {q : Nat} {s t : State} (h : PartNear q s t) (i : Nat) : (t.part q).handle i = (s.part q).handle i := by
  obtain ⟨w, l, h⟩ := h.same
  rw [h]
  rfl

theorem PartNear.st {q : Nat} {s t : State} (h : PartNear q s t) : (t.part q).st = (s.part q).st := by
  obtain ⟨w, l, h⟩ := h.same
  rw [h]

/-- Which partition a page serves does not depend on failed writes and held completions. -/
theorem State.partOfPage_near {s t : State} (h : ∀ q, PartNear q s t) (k : Nat) : t.partOfPage k = s.partOfPage k := by
  have same : (fun p => (t.part p).st != .free && (t.part p).st != .homeless && t.pageOfPart p == k) =
      (fun p => (s.part p).st != .free && (s.part p).st != .homeless && s.pageOfPart p == k) := by
    funext p
    obtain ⟨w, l, hp⟩ := (h p).same
    rw [State.pageOfPart, State.pageOfPart, hp]
  rw [State.partOfPage, State.partOfPage, same]

section
variable (s : State) (k : Nat) (d : Desc)

theorem State.startDesc_partNear (q : Nat) : PartNear q s (s.startDesc k d) := (SideRel.partNear q).startDesc ..

theorem State.partOfPage_startDesc (j : Nat) : (s.startDesc k d).partOfPage j = s.partOfPage j := State.partOfPage_near (s.startDesc_partNear k d) j

theorem State.handle_startDesc (p i : Nat) : ((s.startDesc k d).part p).handle i = (s.part p).handle i := (s.startDesc_partNear k d p).handle i

theorem State.ctx_startDesc (c : Nat) : (s.startDesc k d).ctx c = s.ctx c := (Keeps.startDesc ..).ctx_eq rfl c

theorem State.slot_startDesc (i : Nat) : (s.startDesc k d).slot i = s.slot i := (Keeps.startDesc ..).slot_eq rfl rfl i

theorem State.ownsCtx_startDesc (j c : Nat) : (s.startDesc k d).ownsCtx j c = s.ownsCtx j c := by
  rw [State.ownsCtx, State.ownsCtx, State.ctx_startDesc, State.partOfPage_startDesc]

theorem State.startDesc_sameBanks : SameBanks s (s.startDesc k d) := (Keeps.startDesc ..).sameBanks rfl rfl

end

theorem DescReady.runDesc {s : State} {k op : Nat} {d : Desc} (h : DescReady s k op d) (f : Desc → DescRef → State → State) :
    s.runDesc k op f = f d (d.ref k) (s.startDesc k d) := by
  obtain ⟨next, free, fits, op_⟩ := h
  have may : ¬ (d.ok = true ∧ s.holds d = true) := fun held => Bool.false_ne_true (free.symm.trans held.2)
  rw [State.runDesc, next]
  simp only [if_neg may, fits]
  exact if_pos op_

/-- A page's next descriptor, free to start, is what its command performs. -/
theorem DescReady.run {s t : State} {k op : Nat} {d : Desc} {c : Instr} {f : Desc → DescRef → State → State} (h : DescReady s k op d)
    (hc : exec c s = .next (s.runDesc k op f)) (ht : f d (d.ref k) (s.startDesc k d) = t) : exec c s = .next t := by
  rw [hc, h.runDesc, ht]

theorem State.ownsCtx_of {s : State} {k c p : Nat} (page : s.partOfPage k = some p) (part : (s.ctx c).part = some p) : s.ownsCtx k c = true := by
  simp [State.ownsCtx, page, part]

/-! ### What binding depends on (12 R488, R497; 10 R388) -/

theorem Tab.get_clear {α : Type} {d : Nat → α} (t : Tab α) {lo hi k : Nat} (h : lo ≤ k) (h' : k < hi) : Tab.get d (Tab.clear t lo hi) k = d k := by
  induction t with
  | nil => rfl
  | cons e t ih =>
    rw [Tab.clear, List.filter_cons]
    split
    · next out =>
      have other : e.1 ≠ k := by simp only [Bool.or_eq_true, decide_eq_true_eq] at out; omega
      rw [Tab.get, if_neg other]
      exact ih
    · exact ih

theorem Keeps.freeWindow_eq {L : List Field} {s t : State} (h : Keeps L s t) (hL : L.contains .ctxs = false) (i n : Nat) :
    t.freeWindow i n = s.freeWindow i n := by
  have ctxs : t.ctx = s.ctx := funext fun c => h.ctx_eq hL c
  rw [State.freeWindow, State.freeWindow, ctxs]

theorem State.bindRefusals_startDesc (s : State) (k : Nat) (d : Desc) (p c win : Nat) (h : Handle) :
    (s.startDesc k d).bindRefusals p c win h = s.bindRefusals p c win h := by
  have kept := Keeps.startDesc s k d
  have ctxs : (s.startDesc k d).ctx = s.ctx := funext fun c => kept.ctx_eq rfl c
  have slots : (s.startDesc k d).slot = s.slot := funext fun c => kept.slot_eq rfl rfl c
  have tag (i : Nat) : (s.startDesc k d).tileTag i = s.tileTag i := by
    rw [State.tileTag, State.tileTag, kept.hub_eq rfl, kept.mat_eq rfl]
  rw [State.bindRefusals, State.bindRefusals, ctxs, slots, kept.hub_eq rfl, tag, kept.freeWindow_eq rfl, (s.startDesc_partNear k d p).st]

/-! ### Contexts started, halted, bound and unbound -/

/-- Context `c` begun by descriptor `d` with the header `m`. -/
def State.begun (s : State) (c : Nat) (m : Manifest) (d : Desc) (r : DescRef) : State :=
  (s.modCtx c (fun x => x.begin m ((List.range 4).map (fun i => BitVec.ofNat 64 (d.f (128 + 64 * i) 64))) r)).modVfile c (fun v => { v with exc := 0 })

theorem exec_start {s : State} {page : Fin 68} {d : Desc} {p i : Nat} (ready : DescReady s page 1 d) (part : s.partOfPage page = some p)
    (own : (s.ctx d.ctx).part = some p) (bound : (s.ctx d.ctx).handle = some i) (idle : (s.ctx d.ctx).st = .idle)
    (clean : (s.readBytes (((s.part p).handle i).slot * slotBytes + ((s.part p).handle i).off) 128).2 = false) :
    exec (.start page) s = .next ((s.startDesc page d).begun d.ctx
      (manifestOf (s.readBytes (((s.part p).handle i).slot * slotBytes + ((s.part p).handle i).off) 128).1) d (d.ref page)) := by
  refine ready.run rfl ?_
  have owns : (s.startDesc page d).ownsCtx page d.ctx = true := by rw [State.ownsCtx_startDesc, State.ownsCtx_of part own]
  simp only [owns, State.ctx_startDesc, idle, own, bound, State.handle_startDesc, (Keeps.startDesc s page d).readBytes_eq rfl, clean, Bool.true_eq_false,
    Bool.false_eq_true, ne_eq, not_true_eq_false, if_false]
  rfl

theorem State.begun_ctx (s : State) (c : Nat) (m : Manifest) (d : Desc) (r : DescRef) : (s.begun c m d r).ctx c =
    (s.ctx c).begin m ((List.range 4).map (fun i => BitVec.ofNat 64 (d.f (128 + 64 * i) 64))) r := by
  rw [State.begun, (Keeps.modVfile ..).ctx_eq rfl, State.ctx_modCtx]

theorem exec_halt {s : State} {page : Fin 68} {d : Desc} (ready : DescReady s page 2 d) (owns : s.ownsCtx page d.ctx = true) :
    exec (.halt page) s = .next (((s.startDesc page d).halt d.ctx 0x38 15 ((s.startDesc page d).ctx d.ctx).next).complete (d.ref page)
      { ctx := BitVec.ofNat 6 d.ctx }) :=
  ready.run rfl (if_neg (by rw [State.ownsCtx_startDesc, owns]; decide))

/-- Context `c` bound to handle `h` of partition `p`, with a window of `win` MiB from MiB `base` on. -/
def State.bound (s : State) (c p h base win : Nat) : State :=
  let t := tileOfCtx c
  let e := (s.part p).handle h
  let s1 := (s.zeroWindow t base win).clearVfile c
  let s2 := s1.modCtx c (fun x => { part := x.part, st := .idle, handle := some h, man := e.man, share := e.share
                                    maint := e.maint, winBase := base, winSize := win, ginst := x.ginst })
  s2.modPart p (fun q => q.modHandle h (fun e => { e with st := .bound, ctx := some c }))

/-- The engines of a bound context's tile asked to open, its ferry channels idle. -/
def State.boundOpen (s : State) (c : Nat) : State :=
  let t := tileOfCtx c
  (List.range 4).foldl (fun s i => s.modFchan (16 * t + 4 * (c % 4) + i) (fun f => { f with st := 0, fault := 0 }))
    ((s.modMat t (fun m => { m with reconf := m.reconf.filter (· != c % 4), dropped := m.dropped.filter (· != c % 4) })).openEngines t)

/-- The bind answered, or held until the engines are open. -/
def State.boundAnswer (s : State) (c : Nat) (r : DescRef) : State :=
  if s.enginesOpen (tileOfCtx c) then s.complete r { ctx := BitVec.ofNat 6 c } else s.modCtx c (fun x => { x with binding := some r })

theorem exec_bind {s : State} {page : Fin 68} {d : Desc} {p base : Nat} (ready : DescReady s page 4 d) (part : s.partOfPage page = some p)
    (own : (s.ctx d.ctx).part = some p) (unbound : (s.ctx d.ctx).st = .unbound)
    (fits : s.bindRefusals p d.ctx (d.f 80 8) ((s.part p).handle d.handle) = []) (window : s.freeWindow (tileOfCtx d.ctx) (d.f 80 8) = some base) :
    exec (.bind page) s = .next ((((s.startDesc page d).bound d.ctx p d.handle base (d.f 80 8)).boundOpen d.ctx).boundAnswer d.ctx (d.ref page)) := by
  refine ready.run rfl ?_
  have owns : (s.startDesc page d).ownsCtx page d.ctx = true := by rw [State.ownsCtx_startDesc, State.ownsCtx_of part own]
  simp only [State.partOfPage_startDesc, part, owns, State.ctx_startDesc, unbound, State.handle_startDesc, State.bindRefusals_startDesc, fits,
    (Keeps.startDesc s page d).freeWindow_eq rfl, window, Bool.true_eq_false, ne_eq, not_true_eq_false, if_false, Option.getD_some]
  rw [State.bound, State.handle_startDesc]
  rfl

/-- Opening the engines and the answer leave the context but for the descriptor held. -/
theorem State.boundAnswer_ctx (s : State) (c : Nat) (r : DescRef) : ∃ b, ((s.boundOpen c).boundAnswer c r).ctx c = { s.ctx c with binding := b } := by
  have opened : Keeps [.me, .hubs, .fe] s (s.boundOpen c) :=
    ((Keeps.modMat ..).append (Keeps.openEngines ..)).append (Keeps.foldl _ (fun s i => Keeps.modFchan s _ _) ..)
  unfold State.boundAnswer
  split
  · exact ⟨_, by rw [(Keeps.complete ..).ctx_eq rfl, opened.ctx_eq rfl]⟩
  · exact ⟨_, by rw [State.ctx_modCtx, opened.ctx_eq rfl]⟩

theorem State.boundAnswer_partNear (s : State) (c : Nat) (r : DescRef) (q : Nat) : PartNear q s ((s.boundOpen c).boundAnswer c r) := by
  have opened : Keeps [.me, .hubs, .fe] s (s.boundOpen c) :=
    ((Keeps.modMat ..).append (Keeps.openEngines ..)).append (Keeps.foldl _ (fun s i => Keeps.modFchan s _ _) ..)
  exact (PartNear.of_eq (opened.part_eq rfl q)).trans
    ((SideRel.partNear q).ite ((SideRel.partNear q).complete ..) (.of_eq ((Keeps.modCtx ..).part_eq rfl q)))

theorem State.boundAnswer_keeps (s : State) (c : Nat) (r : DescRef) :
    Keeps [.me, .hubs, .fe, .ctxs, .parts, .pages, .ports, .act, .out] s ((s.boundOpen c).boundAnswer c r) := by
  have opened : Keeps [.me, .hubs, .fe] s (s.boundOpen c) :=
    ((Keeps.modMat ..).append (Keeps.openEngines ..)).append (Keeps.foldl _ (fun s i => Keeps.modFchan s _ _) ..)
  have answered : Keeps [.ctxs, .parts, .pages, .ports, .act, .out] (s.boundOpen c) ((s.boundOpen c).boundAnswer c r) :=
    .ite ((Keeps.complete ..).mono rfl) ((Keeps.modCtx ..).mono rfl)
  exact (opened.append answered).mono rfl

theorem State.bound_ctx (s : State) (c p h base win : Nat) : (s.bound c p h base win).ctx c =
    { part := (s.ctx c).part, st := .idle, handle := some h, man := ((s.part p).handle h).man, share := ((s.part p).handle h).share
      maint := ((s.part p).handle h).maint, winBase := base, winSize := win, ginst := (s.ctx c).ginst } := by
  have before : ((s.zeroWindow (tileOfCtx c) base win).clearVfile c).ctx c = s.ctx c := ((Keeps.zeroWindow ..).append (Keeps.clearVfile ..)).ctx_eq rfl c
  unfold State.bound
  extract_lets t e s1 s2
  rw [(Keeps.modPart ..).ctx_eq rfl, State.ctx_modCtx, before]

theorem State.bound_handle (s : State) (c p h base win : Nat) : ((s.bound c p h base win).part p).handle h =
    { (s.part p).handle h with st := .bound, ctx := some c } := by
  unfold State.bound
  extract_lets t e s1 s2
  have before : s2.part p = s.part p := (((Keeps.zeroWindow s t base win).append (Keeps.clearVfile ..)).append (Keeps.modCtx s1 c _)).part_eq rfl p
  rw [State.part_modPart, before, Part.handle_modHandle]

theorem State.bound_spByte (s : State) (c p h base win a : Nat) (lo : tileOfCtx c * 2 ^ 27 + base * 2 ^ 20 ≤ a)
    (hi : a < tileOfCtx c * 2 ^ 27 + (base + win) * 2 ^ 20) : (s.bound c p h base win).spByte a = 0 :=
  Tab.get_clear s.sp lo hi

theorem exec_unbind {s : State} {page : Fin 68} {d : Desc} (ready : DescReady s page 5 d) (owns : s.ownsCtx page d.ctx = true)
    (h : (s.ctx d.ctx).st = .idle ∨ (s.ctx d.ctx).st = .halted) : exec (.unbind page) s =
    .next ((((s.startDesc page d).modCtx d.ctx (fun x => { x with unbinding := some (d.ref page) })).unbindCtx d.ctx).clearVfile d.ctx) := by
  refine ready.run rfl ?_
  simp only [State.ownsCtx_startDesc, owns, State.ctx_startDesc, Bool.true_eq_false, if_false]
  rcases h with h | h <;> rw [h]

theorem State.unbindCtx_ctx (s : State) (c : Nat) (h : (s.ctx c).st ≠ .unbound) : (s.unbindCtx c).ctx c =
    { part := (s.ctx c).part, winBase := (s.ctx c).winBase, winSize := (s.ctx c).winSize, winClear := decide (0 < (s.ctx c).winSize)
      binding := (s.ctx c).binding, unbinding := (s.ctx c).unbinding, ginst := (s.ctx c).ginst } := by
  unfold State.unbindCtx
  extract_lets x s1
  rw [if_neg h, State.ctx_modCtx]
  have before : s1.ctx c = s.ctx c := by
    simp only [s1]
    split
    · exact (Keeps.modPart ..).ctx_eq rfl c
    · rfl
  rw [before]

theorem State.unbindCtx_handle (s : State) {c p i : Nat} (h : (s.ctx c).st ≠ .unbound) (part : (s.ctx c).part = some p) (handle : (s.ctx c).handle = some i) :
    (((s.unbindCtx c).part p).handle i).st = .ready := by
  unfold State.unbindCtx
  extract_lets x s1
  rw [if_neg h, (Keeps.modCtx ..).part_eq rfl]
  have handed : s1 = s.modPart p (fun q => q.modHandle i (fun e => { e with st := .ready, ctx := none })) := by simp only [s1, x, part, handle]
  rw [handed, State.part_modPart, Part.handle_modHandle]

/-! ### Loads, handles, slots -/

/-- The load that descriptor `d` of page `k` names for partition `p`. -/
def Desc.load (d : Desc) (k p : Nat) : LoadJob :=
  { part := p, handle := d.handle, desc := d.ref k, report := d.f 256 64, map := d.f 320 64, sa := d.f 80 1 == 1, src := d.f 128 64, len := d.f 192 64 }

theorem exec_load {s : State} {page : Fin 68} {tile : Fin 16} {d : Desc} {p : Nat} (ready : DescReady s page 3 d) (part : s.partOfPage page = some p)
    (stays : (s.hub tile).retired = false) : exec (.load page tile) s = .next (
      if (s.tran tile).queue.length < 16 ∧ (s.tran tile).heldLoads = [] ∧ s.fw.st ≠ 2 then (s.startDesc page d).takeLoad tile (d.load page p)
      else (s.startDesc page d).modTran tile (fun x => { x with heldLoads := x.heldLoads ++ [d.load page p] })) := by
  refine ready.run rfl ?_
  have fw : (s.startDesc page d).fw = s.fw := (Keeps.startDesc ..).same .fw (by decide)
  simp only [State.partOfPage_startDesc, part, (Keeps.startDesc s page d).hub_eq rfl, stays, (Keeps.startDesc s page d).tran_eq rfl, fw,
    Bool.false_eq_true, if_false]
  rfl

theorem State.loadRefusal_startDesc (s : State) (k : Nat) (d : Desc) (j : LoadJob) : (s.startDesc k d).loadRefusal j = s.loadRefusal j := by
  rw [State.loadRefusal, State.loadRefusal, State.handle_startDesc, State.slot_startDesc]

theorem exec_discard {s : State} {page : Fin 68} {d : Desc} {p : Nat} (ready : DescReady s page 6 d) (part : s.partOfPage page = some p)
    (h : ((s.part p).handle d.handle).st = .empty ∨ ((s.part p).handle d.handle).st = .ready) : exec (.discard page) s =
    .next (((s.startDesc page d).modPart p (fun q => q.modHandle d.handle (fun _ => {}))).complete (d.ref page) {}) := by
  refine ready.run rfl ?_
  simp only [State.partOfPage_startDesc, part, State.handle_startDesc]
  rcases h with h | h <;> rw [h]

theorem exec_flush {s : State} {page : Fin 68} {d : Desc} {p : Nat} (ready : DescReady s page 8 d) (part : s.partOfPage page = some p) :
    exec (.flush page) s = .next (((s.startDesc page d).dropBuffers p).complete (d.ref page) {}) := by
  refine ready.run rfl ?_
  simp only [State.partOfPage_startDesc, part]

theorem State.dropBuffers_prb (s : State) (p : Nat) {k : Nat} (hk : k < 4) :
    ∀ e ∈ ((s.dropBuffers p).hport k).prb, (s.slot (e.1 * 64 / slotBytes)).owner ≠ some p := by
  unfold State.dropBuffers
  extract_lets keep
  rw [State.hport, State.putPorts_ports]
  refine Tab.get_updMany_has (P := fun h : Port => ∀ e ∈ h.prb, (s.slot (e.1 * 64 / slotBytes)).owner ≠ some p) _ _ (fun x e he => ?_) _ _ _
    (.inr (List.mem_range.2 hk))
  simpa [keep] using (List.mem_filter.1 he).2

/-- The strength of slot `sl` asked for by descriptor `d`. -/
def State.codeAsked (s : State) (d : Desc) : State := s.modSlot (d.f 64 13) (fun x => { x with codeReq := if d.f 80 3 = 7 then none else some (d.f 80 3) })

theorem exec_code {s : State} {page : Fin 68} {d : Desc} {p : Nat} (ready : DescReady s page 9 d) (part : s.partOfPage page = some p)
    (h5 : d.f 80 3 ≠ 5) (h6 : d.f 80 3 ≠ 6) (lt : d.f 64 13 < s.slotCount) (own : (s.slot (d.f 64 13)).owner = some p) : exec (.code page) s =
    .next (if ((s.startDesc page d).codeAsked d).strengthFor (d.f 64 13) = (((s.startDesc page d).codeAsked d).slot (d.f 64 13)).code then
        ((s.startDesc page d).codeAsked d).complete (d.ref page) {}
      else (((s.startDesc page d).codeAsked d).modSlot (d.f 64 13) (fun x => { x with codeDesc := some (d.ref page) })).reviewCode (d.f 64 13)) := by
  refine ready.run rfl ?_
  have count : (s.startDesc page d).slotCount = s.slotCount := by
    rw [State.slotCount, State.slotCount, (Keeps.startDesc s page d).same .half (by decide)]
  refine (if_neg (by simp [h5, h6])).trans ((if_neg ?_).trans rfl)
  rw [count, State.slot_startDesc, State.partOfPage_startDesc, own, part]
  simp only [reduceCtorEq, ne_eq, not_true_eq_false, or_false]
  omega

/-- A review of a slot's strength leaves its strength in force and the request for it. -/
theorem State.reviewCode_code (s : State) (sl i : Nat) : ((s.reviewCode sl).slot i).codeReq = (s.slot i).codeReq ∧
    ((s.reviewCode sl).slot i).code = (s.slot i).code := by
  have begun (x : Nat × Nat) : ((s.modSlot sl (fun y => { y with reenc := some x })).slot i).codeReq = (s.slot i).codeReq ∧
      ((s.modSlot sl (fun y => { y with reenc := some x })).slot i).code = (s.slot i).code := by
    by_cases hi : i = sl
    · subst hi; rw [State.slot_modSlot]; exact ⟨rfl, rfl⟩
    · rw [State.slot_modSlot_ne _ _ _ _ hi]; exact ⟨rfl, rfl⟩
  unfold State.reviewCode
  extract_lets t
  split <;> split
  · exact ⟨rfl, rfl⟩
  · exact begun _
  · exact ⟨rfl, rfl⟩
  · exact begun _

/-! ### The obligation -/

/-- Settles O22: a descriptor that is ready is performed on the state in which it has started (`DescReady.run`), whose contexts, slots and handles are
as before; its own effect is a named change, and its completion leaves all but the marks of partitions and pages (`PartNear`, `PageNear`). -/
theorem contextDescriptorsComplete : Obligations.ContextDescriptorsComplete := by
  unfold Obligations.ContextDescriptorsComplete
  refine ⟨?_, ?_, ?_, ?_, ?_, ?_, ?_, ?_, ?_, ?_⟩
  · intro s page d p i ready part own bound idle clean
    refine .next (exec_start ready part own bound idle clean) ?_
    rw [State.begun_ctx, State.ctx_startDesc]
    refine ⟨rfl, rfl, rfl, fun j hj => ?_, fun j hj => ?_, rfl, ?_, ?_⟩
    · have at_ := Ctx.setX_get (s.ctx d.ctx) 0 ((List.range 4).map (fun i => BitVec.ofNat 64 (d.f (128 + 64 * i) 64))) false j (by simpa using hj)
      rw [Nat.zero_add, List.getElem_map, List.getElem_range] at at_
      exact at_
    · exact Ctx.setX_get_ne (s.ctx d.ctx) 0 ((List.range 4).map (fun i => BitVec.ofNat 64 (d.f (128 + 64 * i) 64))) false j (.inr (by simpa using hj))
    · rw [State.begun, State.vfile_modVfile]
    · exact (s.startDesc_sameBanks page d).trans (((Keeps.modCtx ..).append (Keeps.modVfile ..)).sameBanks rfl rfl)
  · intro s page d ready owns running
    refine .next (exec_halt ready owns) ?_
    have live : ((s.startDesc page d).ctx d.ctx).live = true := by rw [State.ctx_startDesc]; exact Ctx.live_of_running running
    rw [(Keeps.complete ..).ctx_eq rfl, State.halt_ctx _ _ _ _ _ live]
    exact ⟨rfl, rfl, rfl⟩
  · intro s page d p base ready part own unbound _ fits window
    refine .next (exec_bind ready part own unbound fits window) ?_
    obtain ⟨b, ctx⟩ := ((s.startDesc page d).bound d.ctx p d.handle base (d.f 80 8)).boundAnswer_ctx d.ctx (d.ref page)
    have handle := (((s.startDesc page d).bound d.ctx p d.handle base (d.f 80 8)).boundAnswer_partNear d.ctx (d.ref page) p).handle d.handle
    have kept := ((s.startDesc page d).bound d.ctx p d.handle base (d.f 80 8)).boundAnswer_keeps d.ctx (d.ref page)
    rw [ctx, State.bound_ctx, handle, State.bound_handle]
    refine ⟨rfl, rfl, rfl, rfl, rfl, rfl, rfl, fun a lo hi => ?_, ?_⟩
    · rw [State.spByte, kept.same .sp (by decide)]
      exact State.bound_spByte _ _ _ _ _ _ _ lo hi
    · have bound : Keeps [.sp, .spPois, .vfiles, .ctxs, .parts] (s.startDesc page d) ((s.startDesc page d).bound d.ctx p d.handle base (d.f 80 8)) :=
        (((Keeps.zeroWindow ..).append (Keeps.clearVfile ..)).append (Keeps.modCtx ..)).append (Keeps.modPart ..)
      exact (s.startDesc_sameBanks page d).trans ((bound.sameBanks rfl rfl).trans (kept.sameBanks rfl rfl))
  · intro s page d ready owns h
    refine .next (exec_unbind ready owns h) ?_
    have asked : ((s.startDesc page d).modCtx d.ctx (fun x => { x with unbinding := some (d.ref page) })).ctx d.ctx =
        { s.ctx d.ctx with unbinding := some (d.ref page) } := by rw [State.ctx_modCtx, State.ctx_startDesc]
    have live : ((((s.startDesc page d).modCtx d.ctx (fun x => { x with unbinding := some (d.ref page) })).ctx d.ctx)).st ≠ .unbound := by
      rw [asked]
      rcases h with h | h <;> exact h ▸ nofun
    refine ⟨?_, ?_, ?_, fun p i part handle => ?_, ?_⟩
    · rw [(Keeps.clearVfile ..).ctx_eq rfl, State.unbindCtx_ctx _ _ live]
    · rw [(Keeps.clearVfile ..).ctx_eq rfl, State.unbindCtx_ctx _ _ live, asked]
    · rw [(Keeps.clearVfile ..).ctx_eq rfl, State.unbindCtx_ctx _ _ live, asked]
    · rw [(Keeps.clearVfile ..).part_eq rfl, State.unbindCtx_handle _ live (by rw [asked]; exact part) (by rw [asked]; exact handle)]
    · exact (s.startDesc_sameBanks page d).trans ((((Keeps.modCtx ..).append (Keeps.unbindCtx ..)).append (Keeps.clearVfile ..)).sameBanks rfl rfl)
  · intro s page tile d p ready part inside unbound idle stays room none_ steady
    refine .next (exec_load ready part stays) ?_
    have taken : (s.startDesc page d).loadRefusal (d.load page p) = none := by
      rw [State.loadRefusal_startDesc]
      unfold State.loadRefusal
      extract_lets h sl
      have placed : ¬ ((d.load page p).sa = true ∧ (sl.owner ≠ some (d.load page p).part ∨ sl.cls ≠ .bulk ∨
          slotBytes < (d.load page p).src % slotBytes + (d.load page p).len)) := by
        rintro ⟨sa, out⟩
        obtain ⟨own, bulk, fits⟩ := inside (beq_iff_eq.1 sa)
        rcases out with out | out | out
        · exact out own
        · exact out bulk
        · exact absurd fits (Nat.not_le.2 out)
      rw [if_neg placed, if_neg (show h.st ≠ .bound from unbound), if_neg (show h.st ≠ .translating from idle)]
    rw [if_pos ⟨room, none_, steady⟩, State.takeLoad, taken]
    refine ⟨?_, ⟨d.load page p, ?_, rfl, rfl, rfl, rfl⟩, ?_⟩
    · rw [(Keeps.modTran ..).part_eq rfl]
      show (((State.modPart _ p (fun q => q.modHandle d.handle _)).part p).handle d.handle).st = .translating
      rw [State.part_modPart, Part.handle_modHandle]
    · rw [State.tran_modTran, (Keeps.modPart ..).tran_eq rfl, (Keeps.startDesc ..).tran_eq rfl]
    · exact (s.startDesc_sameBanks page d).trans (((Keeps.modPart ..).append (Keeps.modTran ..)).sameBanks rfl rfl)
  · intro s page tile d p ready part stays held
    refine .next (exec_load ready part stays) ?_
    rw [if_neg (by rintro ⟨room, none_, steady⟩; rcases held with h | h | h; exacts [by omega, h none_, steady h])]
    refine ⟨?_, ⟨d.load page p, ?_, rfl, rfl, rfl, rfl⟩, ?_, ?_⟩
    · rw [(Keeps.modTran ..).part_eq rfl, State.handle_startDesc]
    · rw [State.tran_modTran, (Keeps.startDesc ..).tran_eq rfl]
    · rw [State.tran_modTran, (Keeps.startDesc ..).tran_eq rfl]
    · exact (s.startDesc_sameBanks page d).trans ((Keeps.modTran ..).sameBanks rfl rfl)
  · intro s page d p ready part h
    refine .next (exec_discard ready part h) ⟨?_, ?_⟩
    · rw [((SideRel.partNear p).complete ..).handle, State.part_modPart, Part.handle_modHandle]
    · exact (s.startDesc_sameBanks page d).trans (((Keeps.modPart ..).append (Keeps.complete ..)).sameBanks rfl rfl)
  · intro s page d p ready part
    refine .next (exec_flush ready part) ⟨fun k hk e he => ?_, ?_⟩
    · rw [((SideRel.portNear hk).complete ((s.startDesc page d).dropBuffers p) (d.ref page) {}).prb] at he
      have dropped := (s.startDesc page d).dropBuffers_prb p hk e he
      rwa [State.slot_startDesc] at dropped
    · exact (s.startDesc_sameBanks page d).trans (((Keeps.dropBuffers ..).append (Keeps.complete ..)).sameBanks rfl rfl)
  · intro s page d p ready part h5 h6 lt own
    refine .next (exec_code ready part h5 h6 lt own) ?_
    have asked : ((s.startDesc page d).codeAsked d).slot (d.f 64 13) =
        { s.slot (d.f 64 13) with codeReq := if d.f 80 3 = 7 then none else some (d.f 80 3) } := by
      rw [State.codeAsked, State.slot_modSlot, State.slot_startDesc]
    have kept : Keeps [.slots] (s.startDesc page d) ((s.startDesc page d).codeAsked d) := Keeps.modSlot ..
    split
    · rw [(Keeps.complete ..).slot_eq rfl rfl, asked]
      exact ⟨rfl, rfl, (s.startDesc_sameBanks page d).trans ((kept.append (Keeps.complete ..)).sameBanks rfl rfl)⟩
    · obtain ⟨req, code⟩ := (((s.startDesc page d).codeAsked d).modSlot (d.f 64 13) (fun x => { x with codeDesc := some (d.ref page) })).reviewCode_code
        (d.f 64 13) (d.f 64 13)
      rw [req, code, State.slot_modSlot, asked]
      exact ⟨rfl, rfl, (s.startDesc_sameBanks page d).trans (((kept.append (Keeps.modSlot ..)).append (Keeps.reviewCode ..)).sameBanks rfl rfl)⟩
  · intro s page d ready on
    have run : exec (.fence page) s = .next ((s.startDesc page d).completeNow (d.ref page) {}) := ready.run rfl rfl
    obtain ⟨tail, gone, _⟩ := s.completeNow_started page d {} on
    exact .next run ⟨tail, gone, (s.startDesc_sameBanks page d).trans ((Keeps.completeNow ..).sameBanks rfl rfl)⟩

end Sys2Proof.Machine
end

section
/-! Descriptors of partitions and slots (15 R559 to R563, R582, R586; 18 R682). -/

namespace Sys2Proof.Machine

/-! ### What a descriptor that has started leaves of its partition (15 R561, R586, R589) -/

theorem State.partState_startDesc (s : State) (k : Nat) (d : Desc) (p : Nat) : ((s.startDesc k d).part p).st = (s.part p).st :=
  (s.startDesc_partNear k d p).st

theorem State.portNear_startDesc (s : State) (k : Nat) (d : Desc) {j : Nat} (hj : j < 4) : PortNear j s (s.startDesc k d) :=
  (SideRel.portNear hj).startDesc ..

theorem State.vfTaken_startDesc (s : State) (k : Nat) (d : Desc) {port : Nat} (hp : port < 4) (vf : Nat) :
    (s.startDesc k d).vfTaken port vf = s.vfTaken port vf := by
  obtain ⟨tr, n, m, same⟩ := (s.portNear_startDesc k d hp).same
  rw [State.vfTaken, State.vfTaken, State.partOfPage_startDesc, same]

theorem State.lostTiles_startDesc (s : State) (k : Nat) (d : Desc) : (s.startDesc k d).lostTiles = s.lostTiles := by
  have kept := Keeps.startDesc s k d
  have hubs : (s.startDesc k d).hub = s.hub := funext fun t => kept.hub_eq rfl t
  rw [State.lostTiles, State.lostTiles, State.tiles, State.tiles, kept.same .half (by decide), hubs]

theorem State.partCount_startDesc (s : State) (k : Nat) (d : Desc) : (s.startDesc k d).partCount = s.partCount := by
  rw [State.partCount, State.partCount, (Keeps.startDesc s k d).same .half (by decide)]

theorem State.slotCount_startDesc (s : State) (k : Nat) (d : Desc) : (s.startDesc k d).slotCount = s.slotCount := by
  rw [State.slotCount, State.slotCount, (Keeps.startDesc s k d).same .half (by decide)]

theorem State.slotPinned_startDesc (s : State) (k : Nat) (d : Desc) (p i : Nat) : (s.startDesc k d).slotPinned p i = s.slotPinned p i := by
  obtain ⟨w, l, part⟩ := (s.startDesc_partNear k d p).same
  have apt (q : Nat) (hq : q < 4) : ((s.startDesc k d).hport q).apt = (s.hport q).apt := by
    obtain ⟨tr, n, m, port⟩ := (s.portNear_startDesc k d hq).same
    rw [port]
  have any : (List.range 4).any (fun q => ((s.startDesc k d).hport q).apt.any (fun e => flag e.2.toNat 19 && field e.2.toNat 0 13 == i)) =
      (List.range 4).any (fun q => (s.hport q).apt.any (fun e => flag e.2.toNat 19 && field e.2.toNat 0 13 == i)) := by
    refine Bool.eq_iff_iff.2 ?_
    simp only [List.any_eq_true (l := List.range 4)]
    refine exists_congr fun q => and_congr_right fun hq => ?_
    rw [apt q (List.mem_range.1 hq)]
  rw [State.slotPinned, State.slotPinned, any, part]

theorem State.sharedFull_startDesc (s : State) (k : Nat) (d : Desc) (p : Nat) : (s.startDesc k d).sharedFull p = s.sharedFull p := by
  have slots : (s.startDesc k d).slot = s.slot := funext fun i => s.slot_startDesc k d i
  rw [State.sharedFull, State.sharedFull, State.slotsOf, State.slotsOf, State.slotCount_startDesc, slots, (Keeps.startDesc s k d).same .slots (by decide)]

theorem State.slotRefusal_startDesc (s : State) (k : Nat) (d : Desc) (p i : Nat) (cls : Option SlotClass) (rel : Bool) :
    (s.startDesc k d).slotRefusal p i cls rel = s.slotRefusal p i cls rel := by
  have ctxs : (s.startDesc k d).ctx = s.ctx := funext fun c => s.ctx_startDesc k d c
  rw [State.slotRefusal, State.slotRefusal, State.ctxsOf, State.ctxsOf, ctxs, State.slot_startDesc, State.slotCount_startDesc,
    State.partState_startDesc, State.slotPinned_startDesc, State.sharedFull_startDesc]

/-! ### Partitions that change state (15 R559 to R563, R582; 18 R682) -/

theorem State.part_setPartState (s : State) (p : Nat) (st : PartState) : (s.setPartState p st).part p = { s.part p with st := st } := by
  unfold State.setPartState
  extract_lets s1
  split
  · exact State.part_modPart ..
  · rw [(Keeps.raiseVec ..).part_eq rfl]
    exact State.part_modPart ..

/-- A partition whose reset begins. -/
theorem State.beginReset_part (s : State) (p : Nat) (keep destroy : Bool) (desc : Option DescRef) : (s.beginReset p keep destroy desc).part p =
    { s.part p with st := .resetting, reset := some { keep := keep, desc := desc }, destroy := destroy, held := [], token := 0, cause := 0, lostN := 0 } := by
  unfold State.beginReset
  extract_lets k homeless s1 mine drop s2 s3 cut
  have cleared : Keeps [.pages] s1 s2 := .ite (.refl _ _) (Keeps.modPage ..)
  have left : Keeps [.ctxs] s2 s3 := Keeps.foldl _ (fun s c => Keeps.modCtx s c _) ..
  rw [((Keeps.putFe ..).append (Keeps.putSlots ..)).part_eq rfl, left.part_eq rfl, cleared.part_eq rfl, State.part_modPart, State.part_setPartState]

/-- The preserved contexts among `cs` running again. -/
def State.resumed (s : State) (cs : List Nat) : State :=
  cs.foldl (fun s c => s.modCtx c (fun x => if x.st = .preserved then { x with st := .running } else x)) s

theorem Keeps.resumed (s : State) (cs : List Nat) : Keeps [.ctxs] s (s.resumed cs) := Keeps.foldl _ (fun s c => Keeps.modCtx s c _) ..

theorem State.resumed_ctx (s : State) (cs : List Nat) (c : Nat) (h : (s.ctx c).st = .running ∨ (s.ctx c).st = .preserved ∧ c ∈ cs) :
    ((s.resumed cs).ctx c).st = .running := by
  induction cs generalizing s with
  | nil => exact h.resolve_right fun h => List.not_mem_nil h.2
  | cons a cs ih =>
    refine ih (s.modCtx a (fun x => if x.st = .preserved then { x with st := .running } else x)) ?_
    by_cases ha : c = a
    · subst ha
      left
      rw [State.ctx_modCtx]
      split
      · rfl
      · next still => exact h.resolve_right fun h => still h.1
    · rw [State.ctx_modCtx_ne _ _ _ _ ha]
      exact h.imp_right fun h => ⟨h.1, (List.mem_cons.1 h.2).resolve_left ha⟩

/-- Partition `p` active again, its ATTACH answered and its held completions written. -/
def State.attached (s : State) (k p : Nat) (r : DescRef) (lost : Nat) : State :=
  (((s.modPart p (fun q => { q with token := 0, cause := 0 })).setPartState p .active).completeNow r { value := BitVec.ofNat 32 lost }).writeHeld k p

theorem State.attached_part (s : State) (k p : Nat) (r : DescRef) (lost : Nat) :
    ((s.attached k p r lost).part p).st = .active ∧ ((s.attached k p r lost).part p).token = 0 := by
  have near := ((SideRel.partNear p).completeNow ((s.modPart p (fun q => { q with token := 0, cause := 0 })).setPartState p .active) r
    { value := BitVec.ofNat 32 lost }).trans ((SideRel.partNear p).writeHeld _ k p)
  obtain ⟨w, l, part⟩ := near.same
  rw [State.attached, part, State.part_setPartState, State.part_modPart]
  exact ⟨rfl, rfl⟩

theorem State.attached_keeps (s : State) (k p : Nat) (r : DescRef) (lost : Nat) : Keeps [.parts, .pages, .ports, .act, .out] s (s.attached k p r lost) :=
  ((((Keeps.modPart ..).append (Keeps.setPartState ..)).append (Keeps.completeNow ..)).append (Keeps.writeHeld ..)).mono rfl

theorem exec_attach {s : State} {page : Fin 68} {d : Desc} {p : Nat} (ready : DescReady s page 0x0C d) (part : s.partOfPage page = some p)
    (kept : (s.part p).st = .preserved) (token : (s.part p).token.toNat = d.f 128 64) : exec (.attach page) s =
    .next (((s.startDesc page d).attached page p (d.ref page) ((s.startDesc page d).part p).lostN).resumed ((s.startDesc page d).ctxsOf p)) := by
  refine ready.run rfl ?_
  obtain ⟨w, l, same⟩ := (s.startDesc_partNear page d p).same
  have held : ((s.startDesc page d).part p).st = .preserved ∧ ((s.startDesc page d).part p).token.toNat = d.f 128 64 := by
    rw [same]; exact ⟨kept, token⟩
  simp only [State.partOfPage_startDesc, part, held, and_self, if_true]
  rfl

/-- Partition `p` made on VF `vf` of port `port`. -/
def State.partMade (s : State) (p port vf : Nat) (keep : Bool) : State :=
  ((s.modPart p (fun _ => { port := port, vf := vf, keepflr := keep })).modPage (17 * port + vf + 1) (fun _ => {})).setPartState p .active

theorem State.partMade_part (s : State) (p port vf : Nat) (keep : Bool) :
    (s.partMade p port vf keep).part p = { port := port, vf := vf, keepflr := keep, st := .active } := by
  rw [State.partMade, State.part_setPartState, (Keeps.modPage ..).part_eq rfl, State.part_modPart]

/-- Partition `p` moved to VF `vf` of port `port`. -/
def State.partMoved (s : State) (p port vf : Nat) : State :=
  ((if (s.part p).st = .homeless then s else s.modPage (s.pageOfPart p) (fun _ => {})).modPart p
    (fun q => { q with port := port, vf := vf, rehome := true })).modPage (17 * port + vf + 1) (fun _ => {})

theorem State.partMoved_part (s : State) (p port vf : Nat) : (s.partMoved p port vf).part p = { s.part p with port := port, vf := vf, rehome := true } := by
  have left : Keeps [.pages] s (if (s.part p).st = .homeless then s else s.modPage (s.pageOfPart p) (fun _ => {})) := .ite (.refl _ _) (Keeps.modPage ..)
  rw [State.partMoved, (Keeps.modPage ..).part_eq rfl, State.part_modPart, left.part_eq rfl]

/-- A partition moved is active where it was homeless. -/
def State.partHomed (s : State) (p port vf : Nat) : State :=
  if (s.part p).st = .homeless then (s.partMoved p port vf).setPartState p .active else s.partMoved p port vf

theorem State.partHomed_part (s : State) (p port vf : Nat) : (s.partHomed p port vf).part p =
    { s.part p with port := port, vf := vf, rehome := true, st := if (s.part p).st = .homeless then .active else (s.part p).st } := by
  unfold State.partHomed
  split
  · rw [State.part_setPartState, State.partMoved_part]
  · exact State.partMoved_part ..

theorem Keeps.partHomed (s : State) (p port vf : Nat) : Keeps [.parts, .pages, .out] s (s.partHomed p port vf) := by
  have moved : Keeps [.pages, .parts] s (s.partMoved p port vf) :=
    (((Keeps.ite (.refl _ _) (Keeps.modPage ..)).append (Keeps.modPart ..)).append (Keeps.modPage ..)).mono rfl
  exact .ite ((moved.append (Keeps.setPartState ..)).mono rfl) (moved.mono rfl)

theorem exec_pcreate {s : State} {page : Fin 68} {d : Desc} {port vf : Nat} (ready : DescReady s page 0x20 d) (free : (s.part d.part).st = .free)
    (lt : d.part < s.partCount) (room : s.lostTiles = [] ∨ ((List.range 64).filter (fun q => (s.part q).st != .free)).length < s.partCount - 4)
    (hport : (if d.f 79 1 = 1 then d.f 72 2 else d.part / 16) = port) (hvf : (if d.f 79 1 = 1 then d.f 80 4 else d.part % 16) = vf)
    (open_ : s.vfTaken port vf = false) : exec (.pcreate page) s =
    .next (((s.startDesc page d).partMade d.part port vf (d.f 88 1 == 1)).complete (d.ref page) {}) := by
  refine ready.run rfl ?_
  have four : port < 4 := by
    rw [← hport]
    have part := field_lt d.data.toNat 64 6
    have named := field_lt d.data.toNat 72 2
    split
    · exact named
    · exact Nat.div_lt_of_lt_mul part
  have fits : ¬ (s.partCount ≤ d.part ∨ (s.lostTiles ≠ [] ∧ s.partCount - 4 ≤ ((List.range 64).filter (fun q => (s.part q).st != .free)).length)) := by
    rintro (h | ⟨lost, full⟩)
    · omega
    · rcases room with none_ | room
      · exact lost none_
      · omega
  simp only [State.partState_startDesc, State.partCount_startDesc, State.lostTiles_startDesc, hport, hvf,
    State.vfTaken_startDesc _ _ _ four, free, open_, fits, ne_eq, not_true_eq_false, Bool.false_eq_true, if_false]
  rfl

theorem exec_pvf {s : State} {page : Fin 68} {d : Desc} (ready : DescReady s page 0x24 d) (live : (s.part d.part).st ≠ .free)
    (open_ : s.vfTaken (d.f 72 2) (d.f 80 4) = false) : exec (.pvf page) s =
    .next (((s.startDesc page d).partHomed d.part (d.f 72 2) (d.f 80 4)).complete (d.ref page) {}) := by
  refine ready.run rfl ?_
  have four : d.f 72 2 < 4 := field_lt _ _ 2
  have taken := (State.vfTaken_startDesc s page d four (d.f 80 4)).trans open_
  have there : ((s.startDesc page d).part d.part).st ≠ .free := by rwa [State.partState_startDesc]
  simp only [there, taken, Bool.false_eq_true, if_false, decide_eq_true_eq]
  rfl

/-! ### Slots and contexts granted and taken back (15 R586) -/

/-- Slot `i` granted to partition `p` in class `cls`. -/
def State.slotGranted (s : State) (p i : Nat) (cls : SlotClass) : State :=
  ((if (s.slot i).cls = .shared then s.writeBackSlot i else s).modSlot i
    (fun x => { x with owner := some p, cls := cls, lost := decide (x.owner = some p) && x.lost })).reviewCode i

/-- A review of a slot's strength leaves its owner and its class. -/
theorem State.reviewCode_owner (s : State) (sl i : Nat) : ((s.reviewCode sl).slot i).owner = (s.slot i).owner ∧
    ((s.reviewCode sl).slot i).cls = (s.slot i).cls := by
  have begun (x : Nat × Nat) : ((s.modSlot sl (fun y => { y with reenc := some x })).slot i).owner = (s.slot i).owner ∧
      ((s.modSlot sl (fun y => { y with reenc := some x })).slot i).cls = (s.slot i).cls := by
    by_cases hi : i = sl
    · subst hi; rw [State.slot_modSlot]; exact ⟨rfl, rfl⟩
    · rw [State.slot_modSlot_ne _ _ _ _ hi]; exact ⟨rfl, rfl⟩
  unfold State.reviewCode
  extract_lets t
  split <;> split
  · exact ⟨rfl, rfl⟩
  · exact begun _
  · exact ⟨rfl, rfl⟩
  · exact begun _

theorem exec_pslot {s : State} {page : Fin 68} {d : Desc} {cls : SlotClass} (ready : DescReady s page 0x22 d) (grant : d.f 120 1 = 0)
    (hc : classOfCode (d.f 112 2) = some cls) (fits : s.slotRefusal d.part (d.f 96 13) (some cls) false = none) : exec (.pslot page) s =
    .next (((s.startDesc page d).slotGranted d.part (d.f 96 13) cls).complete (d.ref page) {}) := by
  refine ready.run rfl ?_
  have ok := (State.slotRefusal_startDesc s page d ..).trans fits
  simp only [grant, hc, show ((0 : Nat) == 1) = false from rfl, ok, Bool.false_eq_true, if_false, Option.getD_some]
  rfl

/-- Slot `i` taken back from partition `p`, to be cleared. -/
def State.slotReleased (s : State) (p i : Nat) (r : DescRef) : State :=
  ((s.modPart p (fun q => { q with handles := Tab.mapAll (fun _ => {}) (fun _ h => if h.st = .ready ∧ h.slot = i then {} else h) q.handles })).writeBackSlot i).modSlot i
    (fun x => { x with clearing := true, release := true, slotDesc := some r })

theorem exec_pslot_release {s : State} {page : Fin 68} {d : Desc} (ready : DescReady s page 0x22 d) (release : d.f 120 1 = 1)
    (fits : s.slotRefusal d.part (d.f 96 13) (classOfCode (d.f 112 2)) true = none) : exec (.pslot page) s =
    .next ((s.startDesc page d).slotReleased d.part (d.f 96 13) (d.ref page)) := by
  refine ready.run rfl ?_
  have ok := (State.slotRefusal_startDesc s page d ..).trans fits
  simp only [release, beq_self_eq_true, ok, if_true]
  rfl

theorem exec_pctx {s : State} {page : Fin 68} {d : Desc} (ready : DescReady s page 0x23 d) (live : (s.part d.part).st ≠ .free)
    (grant : d.f 120 1 = 0) (free : (s.ctx (d.f 72 6)).part = none) (stays : (s.hub (tileOfCtx (d.f 72 6))).retired = false) : exec (.pctx page) s =
    .next (((s.startDesc page d).modCtx (d.f 72 6) (fun x => { x with part := some d.part })).complete (d.ref page) { ctx := BitVec.ofNat 6 (d.f 72 6) }) := by
  refine ready.run rfl ?_
  have there : ((s.startDesc page d).part d.part).st ≠ .free := by rwa [State.partState_startDesc]
  refine (if_neg there).trans ((if_neg (by rw [grant]; decide)).trans (if_neg ?_))
  rw [State.ctx_startDesc, free, (Keeps.startDesc ..).hub_eq rfl, stays]
  decide

theorem exec_pctx_back {s : State} {page : Fin 68} {d : Desc} (ready : DescReady s page 0x23 d) (live : (s.part d.part).st ≠ .free)
    (back : d.f 120 1 = 1) (own : (s.ctx (d.f 72 6)).part = some d.part) (unbound : (s.ctx (d.f 72 6)).st = .unbound)
    (clear : (s.ctx (d.f 72 6)).winClear = false) : exec (.pctx page) s =
    .next (((s.startDesc page d).modCtx (d.f 72 6) (fun x => { x with part := none })).complete (d.ref page) { ctx := BitVec.ofNat 6 (d.f 72 6) }) := by
  refine ready.run rfl ?_
  have there : ((s.startDesc page d).part d.part).st ≠ .free := by rwa [State.partState_startDesc]
  refine (if_neg there).trans ((if_pos back).trans ((if_neg ?_).trans (if_neg ?_)))
  · rw [State.ctx_startDesc, own]; exact not_not_intro rfl
  · rw [State.ctx_startDesc, unbound, clear]; decide

/-! ### The obligation -/

/-- Settles O23: a descriptor that is ready is performed on the state in which it has started (`DescReady.run`), in which it meets the refusals it would
have met before; its effect is a named change of its partition, slot or context, which the completion leaves. -/
theorem partitionDescriptorsComplete : Obligations.PartitionDescriptorsComplete := by
  unfold Obligations.PartitionDescriptorsComplete
  refine ⟨?_, ?_, ?_, ?_, ?_, ?_, ?_, ?_, ?_⟩
  · intro s page d p ready part
    have run : exec (.reset page) s = .next ((s.startDesc page d).beginReset p (d.f 64 1 == 1) false (some (d.ref page))) := by
      refine ready.run rfl ?_
      simp only [State.partOfPage_startDesc, part]
    refine .next run ?_
    rw [State.beginReset_part]
    exact ⟨rfl, rfl, rfl, (s.startDesc_sameBanks page d).trans ((Keeps.beginReset ..).sameBanks rfl rfl)⟩
  · intro s page d p ready part kept token
    refine .next (exec_attach ready part kept token) ?_
    have attached := (s.startDesc page d).attached_keeps page p (d.ref page) ((s.startDesc page d).part p).lostN
    obtain ⟨st, tok⟩ := (s.startDesc page d).attached_part page p (d.ref page) ((s.startDesc page d).part p).lostN
    rw [(Keeps.resumed ..).part_eq rfl]
    refine ⟨st, tok, fun c hc own held => State.resumed_ctx _ _ _ (.inr ⟨?_, ?_⟩), ?_⟩
    · rw [attached.ctx_eq rfl, State.ctx_startDesc, held]
    · exact List.mem_filter.2 ⟨List.mem_range.2 hc, by rw [State.ctx_startDesc, own]; exact beq_self_eq_true _⟩
    · exact (s.startDesc_sameBanks page d).trans ((attached.sameBanks rfl rfl).trans ((Keeps.resumed ..).sameBanks rfl rfl))
  · intro s page d ready free lt room open_
    refine .next (exec_pcreate ready free lt room rfl rfl open_) ?_
    generalize (if d.f 79 1 = 1 then d.f 72 2 else d.part / 16) = port
    generalize (if d.f 79 1 = 1 then d.f 80 4 else d.part % 16) = vf
    obtain ⟨w, l, part⟩ := ((SideRel.partNear d.part).complete ((s.startDesc page d).partMade d.part port vf (d.f 88 1 == 1)) (d.ref page) {}).same
    rw [part, State.partMade_part]
    refine ⟨rfl, rfl, rfl, rfl, (s.startDesc_sameBanks page d).trans ?_⟩
    exact ((((Keeps.modPart ..).append (Keeps.modPage ..)).append (Keeps.setPartState ..)).append (Keeps.complete ..)).sameBanks rfl rfl
  · intro s page d ready live _
    have run : exec (.pdestroy page) s = .next ((s.startDesc page d).beginReset d.part false true (some (d.ref page))) :=
      ready.run rfl (if_neg (by rwa [State.partState_startDesc]))
    refine .next run ?_
    rw [State.beginReset_part]
    exact ⟨rfl, rfl, (s.startDesc_sameBanks page d).trans ((Keeps.beginReset ..).sameBanks rfl rfl)⟩
  · intro s page d cls ready _ grant hc fits
    refine .next (exec_pslot ready grant hc fits) ?_
    rw [(Keeps.complete ..).slot_eq rfl rfl, State.slotGranted]
    obtain ⟨owner, class_⟩ := State.reviewCode_owner _ (d.f 96 13) (d.f 96 13)
    rw [owner, class_, State.slot_modSlot]
    exact ⟨rfl, rfl⟩
  · intro s page d ready _ release fits
    refine .next (exec_pslot_release ready release fits) ?_
    rw [State.slotReleased, State.slot_modSlot]
    exact ⟨rfl, rfl, rfl⟩
  · intro s page d ready live _ grant free stays
    refine .next (exec_pctx ready live grant free stays) ⟨?_, fun c hc => ?_, ?_⟩
    · rw [(Keeps.complete ..).ctx_eq rfl, State.ctx_modCtx]
    · rw [(Keeps.complete ..).ctx_eq rfl, State.ctx_modCtx_ne _ _ _ _ hc, State.ctx_startDesc]
    · exact (s.startDesc_sameBanks page d).trans (((Keeps.modCtx ..).append (Keeps.complete ..)).sameBanks rfl rfl)
  · intro s page d ready live _ back own unbound clear
    refine .next (exec_pctx_back ready live back own unbound clear) ⟨?_, fun c hc => ?_, ?_⟩
    · rw [(Keeps.complete ..).ctx_eq rfl, State.ctx_modCtx]
    · rw [(Keeps.complete ..).ctx_eq rfl, State.ctx_modCtx_ne _ _ _ _ hc, State.ctx_startDesc]
    · exact (s.startDesc_sameBanks page d).trans (((Keeps.modCtx ..).append (Keeps.complete ..)).sameBanks rfl rfl)
  · intro s page d ready live _ open_
    refine .next (exec_pvf ready live open_) ?_
    obtain ⟨w, l, part⟩ := ((SideRel.partNear d.part).complete ((s.startDesc page d).partHomed d.part (d.f 72 2) (d.f 80 4)) (d.ref page) {}).same
    rw [part, State.partHomed_part, State.partState_startDesc]
    exact ⟨rfl, rfl, fun homeless => if_pos homeless,
      (s.startDesc_sameBanks page d).trans (((Keeps.partHomed ..).append (Keeps.complete ..)).sameBanks rfl rfl)⟩

end Sys2Proof.Machine
end

section
/-! Steps fetched, END, REPLAY and EVENT (11 R439, R444, R447, R456 to R458; 15 R590). -/

namespace Sys2Proof.Machine

/-! ### A read of the banks under a grant (04 R121, R125, R129) -/

/-- A channel that would grant a port's read at once grants management's, which keeps its request outside the queue. -/
theorem ReadsAtOnce.canGrant {s : State} {ch j row : Nat} (h : ReadsAtOnce s ch 6 j row) : s.canGrant ch 6 = true := by
  have serves : s.serves ch = true := by
    rw [State.serves, h.conv, h.centred]
    rfl
  have waiting : (s.chan ch).waiting = [] := by
    rw [Channel.waiting, h.reads, h.waiters]
    rfl
  have next : s.nextGrant ch [6] = some 6 := by
    simp only [State.nextGrant, waiting, List.nil_append]
    simp [h.quota, classOf, roundRobin, Channel.oldest, List.range_succ]
    have far (n : Nat) : ¬ 12 + n = 6 := by omega
    simp only [far]
    split <;> rfl
  rw [State.canGrant, serves, h.nbs, next]
  rfl

theorem ReadsAtOnce.canRead {s : State} {sa : Nat}
    (h : ReadsAtOnce s (chanOfBank (s.locate sa).moduleBank) 6 ((s.locate sa).moduleBank % 48) (s.locate sa).row) : s.canRead 6 sa = true := by
  unfold State.canRead
  extract_lets l ch j
  have open_ : ((s.chan ch).bank j).row = some l.row := h.isOpen
  rw [show s.canGrant ch 6 = true from h.canGrant, open_]
  simp

/-- A read of a line whose row is open, no write to its channel queued, finds what the banks hold; nothing is stored. -/
theorem State.bankRead_open {s : State} {sa : Nat} (who path : Nat) (part : Option Nat)
    (open_ : ((s.chan (chanOfBank (s.locate sa).moduleBank)).bank ((s.locate sa).moduleBank % 48)).row = some (s.locate sa).row)
    (writes : (s.chan (chanOfBank (s.locate sa).moduleBank)).writeQ = []) (plain : s.lineAsks (s.lineOfSa (sa / 64 * 64)) = false) :
    (s.bankRead who path part sa).1 = s.readLine (s.lineOfSa (sa / 64 * 64)) ∧ SameBanks s (s.bankRead who path part sa).2 := by
  unfold State.bankRead
  extract_lets l ch k j s1 s2 d
  have counted : Keeps [.chans] s (s.modChan ch (fun c => (c.wake j).countBank j (s.slotOfLine k))) := Keeps.modChan ..
  have row : (((s.modChan ch (fun c => (c.wake j).countBank j (s.slotOfLine k))).chan ch).bank j).row = some l.row := by
    rw [State.chan_modChan]
    exact open_
  have reached : s1 = (s.modChan ch (fun c => (c.wake j).countBank j (s.slotOfLine k))).spend 1 2 := by
    simp only [s1]
    rw [State.reachRow, if_pos row]
  have kept : Keeps [.chans, .act] s s1 := by
    rw [reached]
    exact counted.append (Keeps.spend ..)
  have tested : s2 = s1 := if_neg (by rw [kept.lineAsks_eq rfl]; exact Bool.eq_false_iff.1 plain)
  have none_ : (s1.chan ch).writeQ = [] := by
    rw [reached, (Keeps.spend ..).chan_eq rfl, State.chan_modChan]
    exact writes
  have data : d = s.readLine k := by
    simp only [d]
    rw [tested, State.readQueued, State.overlaid, none_, kept.readLine_eq rfl]
    rfl
  have noted : SameBanks s2 (s2.noteRead d.2 k path part (s.addrFor who (sa / 64 * 64))) := (Keeps.noteRead ..).sameBanks rfl rfl
  have banks : SameBanks s s2 := by
    rw [tested]
    exact kept.sameBanks rfl rfl
  clear_value d s2
  exact ⟨data, banks.trans noted⟩

theorem State.deviceRead_bank {s : State} {sa : Nat} (who path : Nat) (part : Option Nat) (live : (s.slot (sa / slotBytes)).dead = false)
    (own : (s.slot (sa / slotBytes)).cls ≠ .shared) : s.deviceRead who path part sa = s.bankRead who path part sa := by
  rw [State.deviceRead, if_neg (by rw [live]; decide), if_neg own]

/-! ### Steps fetched (11 R439, R468) -/

/-- The word of a step that stands in line `d` from byte `sa` on. -/
def stepWord (d : Line512) (sa : Nat) : BitVec 256 := BitVec.ofNat 256 (ofLe (((lineBytes d).drop (sa % 64)).take 32))

/-- A step cache with `v` for step `i`, in place of the step 2048 away. -/
def stepCache (t : Tab (Option (BitVec 256 × Bool))) (i : Nat) (v : BitVec 256 × Bool) : Tab (Option (BitVec 256 × Bool)) :=
  Tab.put ((Tab.erase t i).filter (fun e => e.1 % 2048 != i % 2048)) i (some v)

theorem get_stepCache (t : Tab (Option (BitVec 256 × Bool))) (i : Nat) (v : BitVec 256 × Bool) : Tab.get (fun _ => none) (stepCache t i v) i = some v :=
  Tab.get_put_same _ _ _ _ fun e he => Tab.ne_of_mem_erase _ _ e (List.mem_filter.1 he).1

/-- Step `i` of context `c` in its step cache, with the line `d` that holds it from byte `sa` on. -/
def State.stepCached (s : State) (c i sa : Nat) (d : Line512 × Bool) : State := s.modCtx c (fun x => { x with
  cache := stepCache x.cache i (stepWord d.1 sa, d.2)
  miss := if i = x.next then satNat 32 (x.miss + 1) else x.miss })

theorem State.stepCached_cache (s : State) (c i sa : Nat) (d : Line512 × Bool) : Tab.get (fun _ => none) ((s.stepCached c i sa d).ctx c).cache i =
    some (stepWord d.1 sa, d.2) := by
  rw [State.stepCached, State.ctx_modCtx]
  exact get_stepCache ..

/-- The state in which a step fetch reads: a live slot's channel has granted it, and the request crosses the mesh. -/
def State.fetchGranted (s : State) (c sa : Nat) : State :=
  if (s.slot (sa / slotBytes)).dead then s
  else (s.countGrant (chanOfBank (s.locate sa).moduleBank) 6).readMesh (tileOfCtx c) (s.homeOf sa) 1

theorem exec_stepFetch {s : State} {c : Fin 64} {index : BitVec 24} {sa : Nat} (running : (s.ctx c).st = .running)
    (lt : index.toNat < (s.ctx c).man.nstep) (hsa : sa = (s.ctx c).man.steps + 32 * index.toNat) : exec (.stepFetch c index) s = .next (
      if (s.slot (sa / slotBytes)).dead = false ∧ s.canRead 6 sa = false then s
      else ((s.fetchGranted c sa).deviceRead 6 5 (s.ctx c).part sa).2.stepCached c index.toNat sa
        ((s.fetchGranted c sa).deviceRead 6 5 (s.ctx c).part sa).1) := by
  subst hsa
  exact next_congr ((if_neg (not_not_intro running)).trans (if_neg (Nat.not_le.2 lt)))

/-! ### END, REPLAY and the entries of a repeat (11 R447, R456 to R458) -/

/-- Context `c` idle after its END has issued, its completion to be written. -/
def State.ended (s : State) (c w i : Nat) : State :=
  (((match (s.ctx c).part with | some p => (s.issued c w).dropBuffers p | none => s.issued c w)).doneNow c w i).modCtx c
    (fun x => { x with st := .idle, start := none, stack := [], pend := false })

/-- The completion of an ended context's START written. -/
def State.endTold (s : State) (c w i : Nat) : State :=
  let s3 := if flag w (64 + 6) && (s.issued c w).xbad c (body w 0 6) then (s.ended c w i).notePoison c else s.ended c w i
  match (s.ctx c).start with
  | some r => s3.complete r { s3.statusOf c with
      value := BitVec.ofNat 32 (if flag w (64 + 6) then ((s.issued c w).xreg c (body w 0 6)).toNat % 2 ^ 32 else 0) }
  | none => s.ended c w i

theorem State.ended_ctx (s : State) (c w i : Nat) : ∃ t, (s.ended c w i).ctx c =
    { ((s.ctx c).afterIssue w s.seqCycle).advanced t s.cyc with st := .idle, start := none, stack := [], pend := false } := by
  have dropped (p : Nat) : ((s.issued c w).dropBuffers p).ctx c = (s.issued c w).ctx c := (Keeps.dropBuffers ..).ctx_eq rfl c
  have cycle : (s.issued c w).cyc = s.cyc := (Keeps.issued s c w).same .cyc (by decide)
  refine ⟨stepTally w, ?_⟩
  rw [State.ended, State.ctx_modCtx, State.doneNow_ctx]
  split
  · rw [dropped, State.issued_ctx, State.dropBuffers, State.putPorts_cyc, cycle]
  · rw [State.issued_ctx, cycle]

/-- Nothing of the context but its poisoned result status differs when its completion has been written. -/
theorem State.endTold_ctx (s : State) (c w i : Nat) : ∃ b, (s.endTold c w i).ctx c = { (s.ended c w i).ctx c with poison := b } := by
  unfold State.endTold
  extract_lets s3
  have noted : ∃ b, s3.ctx c = { (s.ended c w i).ctx c with poison := b } := by
    simp only [s3]
    split
    · exact ⟨true, State.ctx_modCtx ..⟩
    · exact ⟨_, rfl⟩
  split
  · rwa [(Keeps.complete ..).ctx_eq rfl]
  · exact ⟨_, rfl⟩

theorem State.endTold_sameBanks (s : State) (c w i : Nat) : SameBanks s (s.endTold c w i) := by
  have dropped : SameBanks (s.issued c w) (match (s.ctx c).part with | some p => (s.issued c w).dropBuffers p | none => s.issued c w) := by
    split
    · exact (Keeps.dropBuffers ..).sameBanks rfl rfl
    · exact ⟨rfl, rfl⟩
  have ended : SameBanks s (s.ended c w i) :=
    ((Keeps.issued ..).sameBanks rfl rfl).trans (dropped.trans (((Keeps.doneNow ..).append (Keeps.modCtx ..)).sameBanks rfl rfl))
  unfold State.endTold
  extract_lets s3
  have noted : SameBanks (s.ended c w i) s3 := by
    simp only [s3]
    split
    · exact (Keeps.notePoison ..).sameBanks rfl rfl
    · exact ⟨rfl, rfl⟩
  split
  · exact ended.trans (noted.trans ((Keeps.complete ..).sameBanks rfl rfl))
  · exact ended

/-- What a REPLAY step writes of its context: a body opened, or skipped. -/
def Ctx.replayed (x : Ctx) (w i n : Nat) : Ctx :=
  if n = 0 then x.goOn (afterStep x.stack (i + body w 0 16))
  else { x with stack := { atStep := i, k := body w 0 16, n := n, word := BitVec.ofNat 256 w } :: x.stack, next := i + 1, pend := hasEntries w 0 }

theorem Ctx.replayed_kept (x : Ctx) (w i n : Nat) : (x.replayed w i n).x = x.x ∧ (x.replayed w i n).tl = x.tl := by
  unfold Ctx.replayed
  split <;> exact ⟨rfl, rfl⟩

theorem does_replay {s : State} {c : Fin 64} {w : Nat} {P : State → Prop} (h : StepReady s c 0 2 w)
    (hP : ∀ t, t.ctx c = (((s.ctx c).afterIssue w s.seqCycle).replayed w (s.ctx c).next (s.sizeOf c w (body w 16 32))).advanced (stepTally w) s.cyc →
      XSame c (fun _ => False) s t → TallyDone c w s t → SameBanks s t → P t) : Does (.replay c) s P := by
  have size : (s.issued c w).sizeOf c w (body w 16 32) = s.sizeOf c w (body w 16 32) := by rw [State.sizeOf, State.sizeOf, State.issued_xreg]
  have run : exec (.replay c) s = .next (((s.issued c w).modCtx c (fun x => x.replayed w (s.ctx c).next (s.sizeOf c w (body w 16 32)))).doneNow c w (s.ctx c).next) := by
    refine next_congr ((h.issue_eq rfl _).trans ?_)
    rw [← size]
    rfl
  refine does_writesThenDone run fun t ctx banks => hP t ctx (fun k _ => ?_) (tallyDone_of_ctx ?_ ctx) banks
  · rw [State.xreg, ctx, Ctx.x_advanced, (Ctx.replayed_kept ..).1]
    rfl
  · rw [(Ctx.replayed_kept ..).2]
    rfl

/-- The entries of repeat `j` of a body with word `w` applied, and the scratchpad reads of its patches. -/
def State.repeated (s : State) (c w j : Nat) : State × Nat :=
  State.applyPats [0, 1, 2, 3] c w j 0 (if 0 < j then [0, 1, 2, 3].foldl (fun s m => s.applyInc c w m) s else s)

/-- A repeat begun: its entries applied, its scratchpad accesses begun. -/
def State.repeatBegun (s : State) (c w j : Nat) : State :=
  (s.repeated c w j).1.modCtx c (fun x => { x with
    pend := false
    access := if 0 < (s.repeated c w j).2 ∧ x.st = .running then
      some { kind := 3, fin := s.seqCycle + 8 * (s.repeated c w j).2
             words := (if 0 < j then [0, 1, 2, 3].foldl (fun s m => s.applyInc c w m) s else s).patchWords c w j }
      else x.access })

theorem exec_replayRepeat {s : State} {c : Fin 64} {r : Replay} {rest : List Replay} (running : (s.ctx c).st = .running) (pend : (s.ctx c).pend = true)
    (idle : (s.ctx c).access = none) (stack : (s.ctx c).stack = r :: rest) :
    exec (.replayRepeat c) s = .next (s.repeatBegun c r.word.toNat r.j) := by
  show execReplayRepeat c s = _
  rw [execReplayRepeat]
  dsimp only
  rw [stack]
  exact next_congr (if_neg (by rw [running, pend, idle]; decide))

theorem State.repeated_keeps (s : State) (c w j : Nat) : SameBanks s (s.repeated c w j).1 := by
  have incs : Keeps [.ctxs] s (if 0 < j then [0, 1, 2, 3].foldl (fun s m => s.applyInc c w m) s else s) :=
    .ite (Keeps.foldl _ (fun s m => Keeps.applyInc s c w m) ..) (.refl _ _)
  exact (incs.append (Keeps.applyPats ..)).sameBanks rfl rfl

theorem State.applyInc_none {s : State} {c w m : Nat} (h : incEntry w m = none) : s.applyInc c w m = s := by rw [State.applyInc, h]

theorem State.applyPats_none {c w j n : Nat} {ms : List Nat} (s : State) (h : ∀ m ∈ ms, patEntry w m = none) : State.applyPats ms c w j n s = (s, n) := by
  induction ms with
  | nil => rfl
  | cons m ms ih =>
    have none_ := h m List.mem_cons_self
    have same : s.applyPat c w m j = s := by rw [State.applyPat, none_]
    rw [State.applyPats, none_, same]
    exact ih fun m hm => h m (List.mem_cons_of_mem _ hm)

/-- Address register `a` of context `c` advanced by register `xs`. -/
def State.incremented (s : State) (c a xs : Nat) : State := s.modCtx c (fun x => { x with
  a := Tab.upd (fun _ => 0) x.a a (fun v => v + BitVec.ofNat 48 (Tab.get (fun _ => 0) x.x xs).toNat) })

theorem State.repeated_inc {s : State} {c w j a xs : Nat} (pos : 0 < j) (inc : incEntry w 0 = some (a, xs))
    (noInc : ∀ m, 0 < m → m < 4 → incEntry w m = none) (noPat : ∀ m < 4, patEntry w m = none) : s.repeated c w j = (s.incremented c a xs, 0) := by
  have first : s.applyInc c w 0 = s.incremented c a xs := by rw [State.applyInc, inc]; rfl
  rw [State.repeated, if_pos pos, State.applyPats_none _ (by simpa using ⟨noPat 0 (by decide), noPat 1 (by decide), noPat 2 (by decide), noPat 3 (by decide)⟩)]
  simp only [List.foldl_cons, List.foldl_nil]
  rw [first, State.applyInc_none (noInc 1 (by decide) (by decide)), State.applyInc_none (noInc 2 (by decide) (by decide)),
    State.applyInc_none (noInc 3 (by decide) (by decide))]

/-- Register `xd` of context `c` advanced by register `src`. -/
def State.patched (s : State) (c xd src : Nat) : State :=
  s.modCtx c (fun x => x.setX xd [s.xreg c xd + s.xreg c src] (s.xbad c xd || s.xbad c src))

theorem State.repeated_pat {s : State} {c w j xd src : Nat} (pos : 0 < j) (pat : patEntry w 0 = some (xd, src, false))
    (noInc : ∀ m < 4, incEntry w m = none) (noPat : ∀ m, 0 < m → m < 4 → patEntry w m = none) : s.repeated c w j = (s.patched c xd src, 0) := by
  have first : s.applyPat c w 0 j = s.patched c xd src := by
    rw [State.applyPat, pat]
    exact if_pos pos
  rw [State.repeated, if_pos pos]
  simp only [List.foldl_cons, List.foldl_nil]
  rw [State.applyInc_none (noInc 0 (by decide)), State.applyInc_none (noInc 1 (by decide)), State.applyInc_none (noInc 2 (by decide)),
    State.applyInc_none (noInc 3 (by decide)), State.applyPats, pat, first]
  exact State.applyPats_none _ (by simpa using ⟨noPat 1 (by decide) (by decide), noPat 2 (by decide) (by decide), noPat 3 (by decide) (by decide)⟩)

/-- Beyond the context, an issue is a trace and counts. -/
theorem SideRel.issued {R : State → State → Prop} (h : SideRel R) (s : State) (c w : Nat) (hc : ∀ f, R s (s.modCtx c f)) : R s (s.issued c w) := by
  unfold State.issued
  extract_lets x now lost k s1 t
  exact h.trans (hc _) (h.trans (h.trace ..) (h.keeps ((Keeps.count ..).append (Keeps.count ..)) rfl))

theorem State.issued_partNear (s : State) (c w p : Nat) : PartNear p s (s.issued c w) :=
  (SideRel.partNear p).issued s c w fun _ => .of_eq ((Keeps.modCtx ..).part_eq rfl p)

/-! ### EVENT (11 R444; 15 R578, R590) -/

/-- An event written on running rings with room: it is on its way to the ring's slot at EQTAIL, and EQTAIL and the count advance. -/
theorem State.eventOn_spec (s : State) (k typ : Nat) (payload : List (Nat × Nat × Nat)) (on : (s.page k).en = true)
    (room : ((s.page k).eqtail.toNat + 2 ^ 32 - (s.page k).eqhead.toNat) % 2 ^ 32 < 2 ^ (s.page k).eqsz) :
    (s.eventOn k typ payload).page k = { s.page k with eqtail := (s.page k).eqtail + 1, evseq := (s.page k).evseq + 1, lostNow := 0 } ∧
    ∃ v ∈ (s.eventOn k typ payload).out.inflight, v.kind = .event ∧
      v.addr = (s.page k).eqbase.toNat + 32 * ((s.page k).eqtail.toNat % 2 ^ (s.page k).eqsz) := by
  unfold State.eventOn
  extract_lets p i part data s1 s2
  rw [if_pos ⟨on, room⟩]
  have later : Keeps [.parts, .ports, .act, .out] s2 ((s2.trace 6 part 0 0 0 0 typ 0).writeControl k) :=
    ((Keeps.trace ..).append (Keeps.writeControl ..)).mono rfl
  constructor
  · have sent : s1.page k = s.page k := (Keeps.hostWrite ..).page_eq rfl k
    rw [later.page_eq rfl, State.page_modPage, sent]
  · obtain ⟨j, q, b, written⟩ := s.hostWrite_inflight
      { port := k / 17, part := part, addr := p.eqbase.toNat + 32 * (i % 2 ^ p.eqsz), data := data, kind := .event, vec := some 1 }
    have grows : InflightGrows s1 ((s2.trace 6 part 0 0 0 0 typ 0).writeControl k) :=
      ((Keeps.modPage s1 k (fun p => { p with eqtail := p.eqtail + 1, evseq := p.evseq + 1, lostNow := 0 })).inflightGrows rfl).trans
        ((s2.trace_inflightGrows 6 part 0 0 0 0 typ 0).trans (State.hostWrite_inflightGrows ..))
    exact ⟨_, grows.mem _ (by rw [written]; exact List.mem_append_right _ (List.mem_singleton.2 rfl)), rfl, rfl⟩

theorem does_event {s : State} {c : Fin 64} {w p : Nat} (ready : StepReady s c 0 11 w) (part : (s.ctx c).part = some p) (live : (s.part p).st ≠ .free)
    (homed : (s.part p).st ≠ .homeless) (on : (s.page (s.pageOfPart p)).en = true)
    (room : ((s.page (s.pageOfPart p)).eqtail.toNat + 2 ^ 32 - (s.page (s.pageOfPart p)).eqhead.toNat) % 2 ^ 32 < 2 ^ (s.page (s.pageOfPart p)).eqsz) :
    Does (.event c) s (fun t => (t.page (s.pageOfPart p)).eqtail = (s.page (s.pageOfPart p)).eqtail + 1 ∧
      (t.page (s.pageOfPart p)).evseq = (s.page (s.pageOfPart p)).evseq + 1 ∧
      (∃ v ∈ t.out.inflight, v.kind = .event ∧
        v.addr = (s.page (s.pageOfPart p)).eqbase.toNat + 32 * ((s.page (s.pageOfPart p)).eqtail.toNat % 2 ^ (s.page (s.pageOfPart p)).eqsz)) ∧
      XSame c (fun _ => False) s t ∧ TallyDone c w s t ∧ SameBanks s t) := by
  have near := s.issued_partNear c w p
  obtain ⟨wf, l, same⟩ := near.same
  have page : (s.issued c w).pageOfPart p = s.pageOfPart p := by rw [State.pageOfPart, State.pageOfPart, same]
  have at_ : (s.issued c w).page (s.pageOfPart p) = s.page (s.pageOfPart p) := (Keeps.issued s c w).page_eq rfl _
  have event (pl : List (Nat × Nat × Nat)) : (s.issued c w).event p 9 pl = (s.issued c w).eventOn (s.pageOfPart p) 9 pl := by
    have st : ((s.issued c w).part p).st = (s.part p).st := near.st
    rw [State.event, st, page]
    split
    · next h => exact absurd h live
    · next h => exact absurd h homed
    · rfl
  have run : exec (.event c) s = .next (((s.issued c w).eventOn (s.pageOfPart p) 9
      [(16, 8, ((s.issued c w).xreg c (body w 0 6)).toNat), (24, 2, body w 6 10), (26, 1, c.val)]).doneNow c w (s.ctx c).next) := by
    refine next_congr ((ready.issue_eq rfl _).trans ?_)
    have own : ((s.issued c w).ctx c).part = some p := by rw [State.issued_ctx, Ctx.part_afterIssue, part]
    dsimp only
    rw [own]
    exact congrArg (·.doneNow c w (s.ctx c).next) (event _)
  generalize [(16, 8, ((s.issued c w).xreg c (body w 0 6)).toNat), (24, 2, body w 6 10), (26, 1, c.val)] = pl at run
  obtain ⟨ring, v, sent, kind, addr⟩ := (s.issued c w).eventOn_spec (s.pageOfPart p) 9 pl (by rw [at_, on]) (by rw [at_]; exact room)
  rw [at_] at ring addr
  have ctx : (((s.issued c w).eventOn (s.pageOfPart p) 9 pl).doneNow c w (s.ctx c).next).ctx c =
      ((s.ctx c).afterIssue w s.seqCycle).advanced (stepTally w) s.cyc := by
    rw [State.doneNow_ctx, (Keeps.eventOn ..).ctx_eq rfl, State.issued_ctx, (Keeps.eventOn ..).same .cyc (by decide), (Keeps.issued ..).same .cyc (by decide)]
  have done : InflightGrows ((s.issued c w).eventOn (s.pageOfPart p) 9 pl) (((s.issued c w).eventOn (s.pageOfPart p) 9 pl).doneNow c w (s.ctx c).next) := by
    unfold State.doneNow
    extract_lets s1 a
    have adv : Keeps [.ctxs] ((s.issued c w).eventOn (s.pageOfPart p) 9 pl) s1 := Keeps.advance ..
    exact (adv.inflightGrows rfl).trans (State.trace_inflightGrows ..)
  refine .next run ⟨?_, ?_, ⟨v, done.mem v sent, kind, addr⟩, fun k _ => ?_, tallyDone_of_ctx (x := (s.ctx c).afterIssue w s.seqCycle) rfl ctx, ?_⟩
  · rw [(Keeps.doneNow ..).page_eq rfl, ring]
  · rw [(Keeps.doneNow ..).page_eq rfl, ring]
  · rw [State.xreg, ctx, Ctx.x_advanced]
    rfl
  · exact (((Keeps.issued ..).append (Keeps.eventOn ..)).append (Keeps.doneNow ..)).sameBanks rfl rfl

/-! ### The obligation -/

/-- Settles O25: a fetch is a read of the banks under the channel's grant (`State.bankRead_open`); a step that is ready issues, and what it writes of its
context is a named change, which its completion leaves; the entries of a repeat are applied one by one. -/
theorem controlStepsComplete : Obligations.ControlStepsComplete := by
  unfold Obligations.ControlStepsComplete
  refine ⟨?_, ?_, ?_, ?_, ?_, ?_, ?_, ?_, ?_, ?_, ?_⟩
  · intro s c index sa l running lt hsa live own hl now plain
    subst hl
    refine .next (exec_stepFetch running lt hsa) ?_
    rw [if_neg (by rw [now.canRead]; exact fun h => Bool.false_ne_true h.2.symm)]
    have granted : s.fetchGranted c sa = (s.countGrant (chanOfBank (s.locate sa).moduleBank) 6).readMesh (tileOfCtx c) (s.homeOf sa) 1 :=
      if_neg (by rw [live]; decide)
    have kept : Keeps [.chans, .pm, .act, .out] s (s.fetchGranted c sa) := by
      rw [granted]
      exact (Keeps.countGrant ..).append (Keeps.readMesh ..)
    have chan : ((s.fetchGranted c sa).chan (chanOfBank (s.locate sa).moduleBank)).banks = (s.chan (chanOfBank (s.locate sa).moduleBank)).banks ∧
        ((s.fetchGranted c sa).chan (chanOfBank (s.locate sa).moduleBank)).writeQ = [] := by
      rw [granted, (Keeps.readMesh ..).chan_eq rfl, State.countGrant, State.chan_modChan]
      exact ⟨rfl, now.writes⟩
    have locate : (s.fetchGranted c sa).locate sa = s.locate sa := kept.locate_eq rfl rfl rfl sa
    have line : (s.fetchGranted c sa).lineOfSa (sa / 64 * 64) = s.lineOfSa (sa / 64 * 64) := by
      rw [State.lineOfSa, State.lineOfSa, kept.locate_eq rfl rfl rfl]
    have read := State.bankRead_open (s := s.fetchGranted c sa) (sa := sa) 6 5 (s.ctx c).part
      (by rw [locate, Channel.bank, chan.1]; exact now.isOpen) (by rw [locate]; exact chan.2) (by rw [line, kept.lineAsks_eq rfl, plain])
    rw [line, kept.readLine_eq rfl] at read
    rw [State.deviceRead_bank _ _ _ (by rwa [kept.slot_eq rfl rfl]) (by rwa [kept.slot_eq rfl rfl]), State.stepCached_cache, read.1]
    exact ⟨rfl, (kept.sameBanks rfl rfl).trans (read.2.trans ((Keeps.modCtx ..).sameBanks rfl rfl))⟩
  · intro s c index sa running lt hsa dead
    refine .next (exec_stepFetch running lt hsa) ?_
    have here : s.fetchGranted c sa = s := if_pos dead
    have read : s.deviceRead 6 5 (s.ctx c).part sa =
        ((0, true), s.logError (s.lineOfSa (sa / 64 * 64)) 127 6 5 0 (s.ctx c).part (s.addrFor 6 (sa / 64 * 64))) := if_pos dead
    rw [if_neg (by rw [dead]; exact fun h => Bool.false_ne_true h.1.symm), here, read, State.stepCached_cache]
    exact ⟨⟨_, rfl⟩, ((Keeps.logError ..).append (Keeps.modCtx ..)).sameBanks rfl rfl⟩
  · intro s c index sa running lt hsa live barred
    rw [exec_stepFetch running lt hsa, if_pos ⟨live, barred⟩]
  · intro s c running past lt
    have at_ : (BitVec.ofNat 24 (s.ctx c).next).toNat = (s.ctx c).next := by
      rw [BitVec.toNat_ofNat]
      exact Nat.mod_eq_of_lt lt
    refine .next (t := s.halt c 0x0B 15 (s.ctx c).next) ?_ ?_
    · exact next_congr ((if_neg (not_not_intro running)).trans ((if_pos (by rwa [at_])).trans (if_pos at_)))
    · rw [State.halt_ctx _ _ _ _ _ (Ctx.live_of_running running)]
      exact ⟨rfl, rfl⟩
  · intro s c w ready done
    have run : exec (.endStep c) s = .next (s.endTold c w (s.ctx c).next) := next_congr (ready.issue_eq (by rw [done]; rfl) _)
    obtain ⟨t, ended⟩ := s.ended_ctx c w (s.ctx c).next
    obtain ⟨b, ctx⟩ := s.endTold_ctx c w (s.ctx c).next
    rw [ended] at ctx
    refine .next run ⟨by rw [ctx], by rw [ctx], by rw [ctx], fun k _ => ?_, State.endTold_sameBanks ..⟩
    rw [State.xreg, ctx, State.xreg]
    simp
  · intro s c w ready some_
    refine does_replay ready fun t ctx xs tally banks => ?_
    rw [Ctx.replayed, if_neg some_] at ctx
    refine ⟨by rw [ctx, Ctx.next_advanced], ?_, xs, tally, banks⟩
    have stack : (t.ctx c).stack = { atStep := (s.ctx c).next, k := body w 0 16, n := s.sizeOf c w (body w 16 32), word := BitVec.ofNat 256 w } ::
        ((s.ctx c).afterIssue w s.seqCycle).stack := by
      rw [ctx]
      cases stepTally w <;> rfl
    exact ⟨_, _, stack, rfl, rfl, rfl, rfl⟩
  · intro s c w ready none_ flat
    refine does_replay ready fun t ctx xs tally banks => ?_
    have issued : ((s.ctx c).afterIssue w s.seqCycle).stack = [] := by
      rw [Ctx.afterIssue, flat]
      rfl
    rw [Ctx.replayed, if_pos none_, issued] at ctx
    refine ⟨by rw [ctx, Ctx.next_advanced]; rfl, ?_, xs, tally, banks⟩
    rw [ctx]
    cases stepTally w <;> rfl
  · intro s c r rest running pend idle stack
    refine .next (exec_replayRepeat running pend idle stack) ⟨?_, (State.repeated_keeps ..).trans ((Keeps.modCtx ..).sameBanks rfl rfl)⟩
    rw [State.repeatBegun, State.ctx_modCtx]
  · intro s c r rest a xs running pend idle stack pos inc noInc noPat
    refine .next (exec_replayRepeat running pend idle stack) ?_
    have ctx : (s.repeatBegun c r.word.toNat r.j).ctx c = { s.ctx c with
        a := Tab.upd (fun _ => 0) (s.ctx c).a a (fun v => v + BitVec.ofNat 48 (Tab.get (fun _ => 0) (s.ctx c).x xs).toNat), pend := false } := by
      rw [State.repeatBegun, State.repeated_inc pos inc noInc noPat, State.ctx_modCtx, State.incremented, State.ctx_modCtx]
      rfl
    refine ⟨?_, fun k hk => ?_, fun k _ => ?_, ?_⟩
    · rw [State.areg, ctx, Tab.get_upd_same, BitVec.toNat_add, BitVec.toNat_ofNat, Nat.add_mod_mod]
      rfl
    · rw [State.areg, ctx, Tab.get_upd_ne _ _ _ _ _ hk]
      rfl
    · rw [State.xreg, ctx]
      rfl
    · rw [ctx]
      exact idle
  · intro s c r rest xd src running pend idle stack pos pat noInc noPat
    refine .next (exec_replayRepeat running pend idle stack) ?_
    have ctx : (s.repeatBegun c r.word.toNat r.j).ctx c =
        { (s.ctx c).setX xd [s.xreg c xd + s.xreg c src] (s.xbad c xd || s.xbad c src) with pend := false } := by
      rw [State.repeatBegun, State.repeated_pat pos pat noInc noPat, State.ctx_modCtx, State.patched, State.ctx_modCtx]
      rfl
    refine ⟨?_, fun k hk => ?_, ?_⟩
    · rw [State.xreg, ctx]
      exact Tab.get_set_same ..
    · rw [State.xreg, ctx]
      exact Tab.get_set_ne _ _ _ _ _ hk
    · rw [ctx]
      rfl
  · intro s c w p
    exact does_event

end Sys2Proof.Machine
end

section
/-! Steps on the scratchpad and the mailboxes (11 R444 to R446; 15 R591, R594). -/

namespace Sys2Proof.Machine

/-! ### What a step that passes decode has passed (11 R468) -/

theorem State.decodeChecks_of_none {s : State} {c w : Nat} (h : s.decodeHalt c w = none) : s.decodeChecks c w = [] := by
  unfold State.decodeHalt at h
  split at h
  · assumption
  · exact nomatch h

theorem chk_eq_nil {b : Bool} {code fld : Nat} : chk b code fld = [] ↔ b = false := by cases b <;> simp [chk]

/-- A ready step of the sequencer meets none of the sequencer's own checks. -/
theorem StepReady.seqChecks {s : State} {c op w : Nat} (h : StepReady s c 0 op w) : s.seqChecks c w = [] := by
  have passed := State.decodeChecks_of_none h.decoded
  unfold State.decodeChecks at passed
  split at passed
  · exact nomatch passed
  · rw [h.isEng] at passed
    exact (List.append_eq_nil_iff.1 passed).2

/-! ### Registers loaded from the scratchpad (11 R444; 00 R6; 10 R394, R395) -/

/-- The registers of a run carry the poison of their data, the others what they carried. -/
theorem Ctx.setX_xpois (x : Ctx) (n : Nat) (vs : List (BitVec 64)) (bad : Bool) (j : Nat) (hj : j < 64) :
    (x.setX n vs bad).xpois.getLsbD j = if n ≤ j ∧ j < n + vs.length then bad else x.xpois.getLsbD j := by
  have mask : (BitVec.ofNat 64 ((2 ^ vs.length - 1) * 2 ^ n)).getLsbD j = decide (n ≤ j ∧ j < n + vs.length) := by
    rw [BitVec.getLsbD_ofNat, Nat.testBit_mul_two_pow, Nat.testBit_two_pow_sub_one]
    rw [decide_eq_true hj, Bool.true_and, ← Bool.decide_and]
    exact decide_eq_decide.2 (by omega)
  have unmasked : (~~~(BitVec.ofNat 64 ((2 ^ vs.length - 1) * 2 ^ n))).getLsbD j = !decide (n ≤ j ∧ j < n + vs.length) := by
    rw [BitVec.getLsbD_not, mask, decide_eq_true hj, Bool.true_and]
  unfold Ctx.setX
  extract_lets m
  cases bad with
  | true =>
    rw [if_pos rfl, BitVec.getLsbD_or, mask]
    by_cases run : n ≤ j ∧ j < n + vs.length
    · rw [if_pos run, decide_eq_true run, Bool.or_true]
    · rw [if_neg run, decide_eq_false run, Bool.or_false]
  | false =>
    rw [if_neg Bool.false_ne_true, BitVec.getLsbD_and, unmasked]
    by_cases run : n ≤ j ∧ j < n + vs.length
    · rw [if_pos run, decide_eq_true run, Bool.not_true, Bool.and_false]
    · rw [if_neg run, decide_eq_false run, Bool.not_false, Bool.and_true]

section
variable (s : State) (c n a : Nat)

theorem State.loadX_eq : s.loadX c n a = if s.spPoisoned (tileOfCtx c) a 8 then
    (s.draw.notePoison c).modCtx c (fun x => x.setX n [Config.freeWord s.free] true)
    else s.modCtx c (fun x => x.setX n [BitVec.ofNat 64 (ofLe (s.spRead (tileOfCtx c) a 8))] false) := rfl

theorem State.loadX_ctx : ∃ v b, (s.loadX c n a).ctx c = { (s.ctx c).setX n [v] (s.spPoisoned (tileOfCtx c) a 8) with poison := b } ∧
    (s.spPoisoned (tileOfCtx c) a 8 = false → v = BitVec.ofNat 64 (ofLe (s.spRead (tileOfCtx c) a 8))) := by
  rw [State.loadX_eq]
  cases bad : s.spPoisoned (tileOfCtx c) a 8 with
  | true =>
    refine ⟨Config.freeWord s.free, true, ?_, nofun⟩
    rw [if_pos rfl, State.ctx_modCtx, State.notePoison, State.ctx_modCtx, State.draw, (Keeps.putFree ..).ctx_eq rfl]
    rfl
  | false => exact ⟨_, _, by rw [if_neg Bool.false_ne_true, State.ctx_modCtx], fun _ => rfl⟩

/-- `m` registers from `n` on loaded from address `a` on. -/
def State.loaded (m : Nat) : State := (List.range m).foldl (fun s k => s.loadX c (n + k) (a + 8 * k)) s

theorem State.loaded_succ (m : Nat) : s.loaded c n a (m + 1) = (s.loaded c n a m).loadX c (n + m) (a + 8 * m) := by
  rw [State.loaded, List.range_succ, List.foldl_append]
  rfl

theorem Keeps.loaded (m : Nat) : Keeps [.free, .ctxs] s (s.loaded c n a m) := Keeps.foldl _ (fun s k => Keeps.loadX s c (n + k) (a + 8 * k)) ..

theorem State.spPoisoned_of_keeps {L : List Field} {s t : State} (h : Keeps L s t) (hL : L.contains .spPois = false) (i a n : Nat) :
    t.spPoisoned i a n = s.spPoisoned i a n := by
  have same : t.spBad = s.spBad := by
    funext k
    rw [State.spBad, State.spBad, h.same .spPois (by simpa using hL)]
  rw [State.spPoisoned, State.spPoisoned, same]

theorem State.spRead_of_keeps {L : List Field} {s t : State} (h : Keeps L s t) (hL : L.contains .sp = false) (i a n : Nat) :
    t.spRead i a n = s.spRead i a n := by rw [State.spRead, State.spRead, h.same .sp (by simpa using hL)]

theorem State.loaded_xreg (m : Nat) : ∀ j, (∀ k < m, j = n + k → s.spPoisoned (tileOfCtx c) (a + 8 * k) 8 = false →
    (s.loaded c n a m).xreg c j = BitVec.ofNat 64 (ofLe (s.spRead (tileOfCtx c) (a + 8 * k) 8))) ∧
    (j < n ∨ n + m ≤ j → (s.loaded c n a m).xreg c j = s.xreg c j) := by
  induction m with
  | zero => exact fun j => ⟨nofun, fun _ => rfl⟩
  | succ m ih =>
    intro j
    obtain ⟨in_, out⟩ := ih j
    obtain ⟨v, b, ctx, value⟩ := (s.loaded c n a m).loadX_ctx c (n + m) (a + 8 * m)
    have here : (s.loaded c n a (m + 1)).xreg c j = Tab.get (fun _ => 0) (((s.loaded c n a m).ctx c).setX (n + m) [v]
        ((s.loaded c n a m).spPoisoned (tileOfCtx c) (a + 8 * m) 8)).x j := by rw [State.loaded_succ, State.xreg, ctx]
    rw [State.spPoisoned_of_keeps (Keeps.loaded s c n a m) rfl, State.spRead_of_keeps (Keeps.loaded s c n a m) rfl] at value
    constructor
    · intro k hk hj clean
      rcases Nat.lt_succ_iff_lt_or_eq.1 hk with hk | rfl
      · rw [here, Ctx.setX_get_ne _ _ _ _ _ (.inl (by omega))]
        exact in_ k hk hj clean
      · rw [here, hj, ← value clean]
        exact Ctx.setX_get _ (n + k) [v] _ 0 Nat.one_pos
    · intro hj
      rw [here, Ctx.setX_get_ne _ _ _ _ _ (by simp only [List.length_cons, List.length_nil]; omega)]
      exact out (by omega)

theorem State.loaded_xbad (m : Nat) (fits : n + m ≤ 64) : ∀ k < m, (s.loaded c n a m).xbad c (n + k) = s.spPoisoned (tileOfCtx c) (a + 8 * k) 8 := by
  induction m with
  | zero => exact nofun
  | succ m ih =>
    intro k hk
    obtain ⟨v, b, ctx, -⟩ := (s.loaded c n a m).loadX_ctx c (n + m) (a + 8 * m)
    rw [State.spPoisoned_of_keeps (Keeps.loaded s c n a m) rfl] at ctx
    rw [State.loaded_succ, State.xbad, ctx]
    refine (Ctx.setX_xpois _ _ _ _ _ (by omega)).trans ?_
    rcases Nat.lt_succ_iff_lt_or_eq.1 hk with hk | rfl
    · rw [if_neg (by omega)]
      exact ih (by omega) k hk
    · rw [if_pos (by simp)]

/-- An access begun leaves its context but for the step outstanding and the access. -/
theorem State.beginAccess_ctx (w i kind len : Nat) : (s.beginAccess c w i kind a len).ctx c = { s.ctx c with
    outst := (s.ctx c).outst ++ [stepKey (stepEng w) (stepOp w) i]
    access := some { kind := kind, tadv := stepTally w, fin := s.seqCycle + 8, step := i, words := spWords (tileOfCtx c) a len } } := by
  rw [State.beginAccess, State.ctx_modCtx, State.outstand, State.ctx_modCtx]

end

theorem State.seqCycle_of_keeps {L : List Field} {s t : State} (h : Keeps L s t) (hL : L.contains .cyc = false) : t.seqCycle = s.seqCycle := by
  rw [State.seqCycle, State.seqCycle, h.same .cyc (by simpa using hL)]

theorem State.seqCycle_issued (s : State) (c w : Nat) : (s.issued c w).seqCycle = s.seqCycle := State.seqCycle_of_keeps (Keeps.issued ..) rfl

theorem State.seqAddr_issued (s : State) (c w addr areg : Nat) (ause : Bool) : (s.issued c w).seqAddr c addr areg ause = s.seqAddr c addr areg ause := by
  rw [State.seqAddr, State.seqAddr, State.issued_areg]

theorem State.xldSpan_issued (s : State) (c w : Nat) : (s.issued c w).xldSpan c w = s.xldSpan c w := by
  rw [State.xldSpan, State.xldSpan, State.seqAddr_issued]

/-! ### Registers stored to the scratchpad (11 R444; 10 R394) -/

theorem Tab.setRun_append {α : Type} [DecidableEq α] (d : Nat → α) (t : Tab α) (k : Nat) (l m : List α) :
    Tab.setRun d t k (l ++ m) = Tab.setRun d (Tab.setRun d t k l) (k + l.length) m := by
  induction l generalizing t k with
  | nil => rfl
  | cons v l ih => rw [List.cons_append, Tab.setRun, ih, Tab.setRun, List.length_cons, Nat.add_assoc, Nat.add_comm 1]

/-- Rows of 8 bytes from `base` on hold `reg`, and nothing else differs from `t`. -/
structure RowsHold (reg : Nat → List Byte) (base m : Nat) (t u : Tab Byte) : Prop where
  /-- the rows -/
  rows : ∀ k < m, ∀ b < 8, Tab.get (fun _ => 0) u (base + 8 * k + b) = (reg k).getD b 0
  /-- all else -/
  rest : ∀ a, a < base ∨ base + 8 * m ≤ a → Tab.get (fun _ => 0) u a = Tab.get (fun _ => 0) t a

section
variable {reg : Nat → List Byte} (eight : ∀ k, (reg k).length = 8) {base m : Nat}
include eight

theorem Tab.get_setRow (u : Tab Byte) (k b : Nat) (hb : b < 8) :
    Tab.get (fun _ => 0) (Tab.setRun (fun _ => 0) u (base + 8 * k) (reg k)) (base + 8 * k + b) = (reg k).getD b 0 := by
  have lt : b < (reg k).length := by rwa [eight]
  rw [Tab.get_setRun _ _ _ _ _ lt, List.getD_eq_getElem _ _ lt]

theorem Tab.get_setRow_ne (u : Tab Byte) (k a : Nat) (h : a < base + 8 * k ∨ base + 8 * k + 8 ≤ a) :
    Tab.get (fun _ => 0) (Tab.setRun (fun _ => 0) u (base + 8 * k) (reg k)) a = Tab.get (fun _ => 0) u a := by
  rcases h with h | h
  · exact Tab.get_setRun_lt _ _ _ _ _ h
  · exact Tab.get_setRun_ge _ _ _ _ _ (by rwa [eight])

/-- A row written again holds what it held. -/
theorem RowsHold.again {t u : Tab Byte} (h : RowsHold reg base m t u) {k : Nat} (hk : k < m) :
    RowsHold reg base m t (Tab.setRun (fun _ => 0) u (base + 8 * k) (reg k)) := by
  refine ⟨fun j hj b hb => ?_, fun a ha => ?_⟩
  · by_cases hjk : j = k
    · subst hjk
      exact Tab.get_setRow eight u j b hb
    · rw [Tab.get_setRow_ne eight u k _ (by omega)]
      exact h.rows j hj b hb
  · rw [Tab.get_setRow_ne eight u k _ (by omega)]
    exact h.rest a ha

theorem RowsHold.setRun (t : Tab Byte) (m : Nat) : RowsHold reg base m t (Tab.setRun (fun _ => 0) t base ((List.range m).flatMap reg)) := by
  induction m with
  | zero => exact ⟨nofun, fun _ _ => rfl⟩
  | succ m ih =>
    have len : ((List.range m).flatMap reg).length = 8 * m := by simp [List.length_flatMap, eight, Nat.mul_comm]
    rw [List.range_succ, List.flatMap_append, List.flatMap_singleton, Tab.setRun_append, len]
    refine ⟨fun k hk b hb => ?_, fun a ha => ?_⟩
    · rcases Nat.lt_succ_iff_lt_or_eq.1 hk with hk | rfl
      · rw [Tab.get_setRow_ne eight _ m _ (by omega)]
        exact ih.rows k hk b hb
      · exact Tab.get_setRow eight _ k b hb
    · rw [Tab.get_setRow_ne eight _ m _ (by omega)]
      exact ih.rest a (by omega)

end

theorem State.spWrite_sp (s : State) (t a : Nat) (l : List Byte) (pois : Bool) :
    (s.spWrite t a l pois).sp = Tab.setRun (fun _ => 0) s.sp (t * spBytes + a) l := by
  unfold State.spWrite
  extract_lets n ws s1
  split
  · next h => rw [h]; rfl
  · have marked : Keeps [.spPois] s1 _ := Keeps.foldl (fun s i =>
      let w := a / 64 + i
      let whole := decide (a ≤ w * 64) && decide (w * 64 + 64 ≤ a + n)
      s.modSpBad (t * 2 ^ 21 + w) (wordPoison whole pois)) (fun s i => Keeps.modSpBad s _ _) ws s1
    exact marked.same .sp (by decide)

/-- The bytes of register `n + k` of context `c`. -/
def State.regBytes (s : State) (c n k : Nat) : List Byte := leBytes 8 (s.xreg c (n + k)).toNat

theorem State.regBytes_length (s : State) (c n k : Nat) : (s.regBytes c n k).length = 8 := leBytes_length ..

/-- The `m` registers from `n` on stored at address `a`, the poisoned ones again with their poison. -/
def State.stored (s : State) (c n a m : Nat) : State :=
  ((List.range m).filter (fun k => s.xbad c (n + k))).foldl (fun u k => (u.spWrite (tileOfCtx c) (a + 8 * k) (s.regBytes c n k) true).notePoison c)
    (s.spWrite (tileOfCtx c) a ((List.range m).flatMap (s.regBytes c n)) false)

theorem State.stored_keeps (s : State) (c n a m : Nat) : Keeps [.sp, .spPois, .ctxs] s (s.stored c n a m) :=
  ((Keeps.spWrite ..).append (Keeps.foldl _ (fun u k => (Keeps.spWrite u (tileOfCtx c) (a + 8 * k) (s.regBytes c n k) true).append (Keeps.notePoison ..)) ..)).mono rfl

theorem State.stored_ctx (s : State) (c n a m : Nat) : ∃ b, (s.stored c n a m).ctx c = { s.ctx c with poison := b } := by
  have again (ks : List Nat) (u : State) : ∃ b, (ks.foldl (fun u k => (u.spWrite (tileOfCtx c) (a + 8 * k) (s.regBytes c n k) true).notePoison c) u).ctx c =
      { u.ctx c with poison := b } := by
    induction ks generalizing u with
    | nil => exact ⟨_, rfl⟩
    | cons k ks ih =>
      obtain ⟨b, h⟩ := ih ((u.spWrite (tileOfCtx c) (a + 8 * k) (s.regBytes c n k) true).notePoison c)
      refine ⟨b, h.trans ?_⟩
      rw [State.notePoison, State.ctx_modCtx, (Keeps.spWrite ..).ctx_eq rfl]
  obtain ⟨b, h⟩ := again ((List.range m).filter (fun k => s.xbad c (n + k)))
    (s.spWrite (tileOfCtx c) a ((List.range m).flatMap (s.regBytes c n)) false)
  exact ⟨b, h.trans (by rw [(Keeps.spWrite ..).ctx_eq rfl])⟩

theorem State.stored_sp (s : State) (c n a m : Nat) : RowsHold (s.regBytes c n) (tileOfCtx c * spBytes + a) m s.sp (s.stored c n a m).sp := by
  have again (ks : List Nat) (hks : ∀ k ∈ ks, k < m) (u : State) (hu : RowsHold (s.regBytes c n) (tileOfCtx c * spBytes + a) m s.sp u.sp) :
      RowsHold (s.regBytes c n) (tileOfCtx c * spBytes + a) m s.sp
        (ks.foldl (fun u k => (u.spWrite (tileOfCtx c) (a + 8 * k) (s.regBytes c n k) true).notePoison c) u).sp := by
    induction ks generalizing u with
    | nil => exact hu
    | cons k ks ih =>
      refine ih (fun j hj => hks j (List.mem_cons_of_mem _ hj)) _ ?_
      have sp : ((u.spWrite (tileOfCtx c) (a + 8 * k) (s.regBytes c n k) true).notePoison c).sp =
          Tab.setRun (fun _ => 0) u.sp (tileOfCtx c * spBytes + a + 8 * k) (s.regBytes c n k) := by
        rw [(Keeps.notePoison ..).same .sp (by decide), State.spWrite_sp, Nat.add_assoc]
      rw [sp]
      exact hu.again (s.regBytes_length c n) (hks k List.mem_cons_self)
  refine again _ (fun k hk => List.mem_range.1 (List.mem_filter.1 hk).1) _ ?_
  rw [State.spWrite_sp]
  exact .setRun (s.regBytes_length c n) s.sp m

/-! ### XLD, XST and the end of an access (11 R444, R445, R453) -/

/-- What an XLD leaves: the registers with their poison, all else of X, the access begun. -/
theorem does_xld {s : State} {c : Fin 64} {w : Nat} (h : StepReady s c 0 3 w) : Does (.xld c) s (fun t =>
    (∀ k ≤ body w 38 6, s.spPoisoned (tileOfCtx c) ((s.xldSpan c w).1 + 8 * k) 8 = false →
      t.xreg c (body w 32 6 + k) = BitVec.ofNat 64 (ofLe (s.spRead (tileOfCtx c) ((s.xldSpan c w).1 + 8 * k) 8))) ∧
    (∀ k ≤ body w 38 6, t.xbad c (body w 32 6 + k) = s.spPoisoned (tileOfCtx c) ((s.xldSpan c w).1 + 8 * k) 8) ∧
    XSame c (fun k => body w 32 6 ≤ k ∧ k ≤ body w 32 6 + body w 38 6) s t ∧
    (∃ a, (t.ctx c).access = some a ∧ a.kind = 0 ∧ a.fin = s.seqCycle + 8 ∧ a.tadv = stepTally w) ∧ t.sp = s.sp ∧ SameBanks s t) := by
  have fits : body w 32 6 + body w 38 6 ≤ 63 := by
    have passed := h.seqChecks
    rw [State.seqChecks, h.isOp] at passed
    have small := chk_eq_nil.1 (List.append_eq_nil_iff.1 passed).1
    simpa using small
  have run : exec (.xld c) s = .next (((s.issued c w).loaded c (body w 32 6) (s.xldSpan c w).1 (body w 38 6 + 1)).beginAccess c w (s.ctx c).next 0
      (s.xldSpan c w).1 (8 * (body w 38 6 + 1))) := by
    refine next_congr ((h.issue_eq rfl _).trans ?_)
    rw [← State.xldSpan_issued]
    rfl
  generalize (s.xldSpan c w).1 = a at run ⊢
  have loaded := Keeps.loaded (s.issued c w) c (body w 32 6) a (body w 38 6 + 1)
  have ctx := ((s.issued c w).loaded c (body w 32 6) a (body w 38 6 + 1)).beginAccess_ctx c a w (s.ctx c).next 0 (8 * (body w 38 6 + 1))
  have x (j : Nat) : (((s.issued c w).loaded c (body w 32 6) a (body w 38 6 + 1)).beginAccess c w (s.ctx c).next 0 a (8 * (body w 38 6 + 1))).xreg c j =
      ((s.issued c w).loaded c (body w 32 6) a (body w 38 6 + 1)).xreg c j := by rw [State.xreg, ctx, State.xreg]
  have bad (j : Nat) : (((s.issued c w).loaded c (body w 32 6) a (body w 38 6 + 1)).beginAccess c w (s.ctx c).next 0 a (8 * (body w 38 6 + 1))).xbad c j =
      ((s.issued c w).loaded c (body w 32 6) a (body w 38 6 + 1)).xbad c j := by rw [State.xbad, ctx, State.xbad]
  refine .next run ⟨fun k hk clean => ?_, fun k hk => ?_, fun k hk => ?_, ⟨_, by rw [ctx], rfl, ?_, rfl⟩, ?_, ?_⟩
  · rw [x, ((s.issued c w).loaded_xreg c (body w 32 6) a _ _).1 k (by omega) rfl (by rwa [State.spPoisoned_of_keeps (Keeps.issued s c w) rfl]),
      State.spRead_of_keeps (Keeps.issued s c w) rfl]
  · rw [bad, (s.issued c w).loaded_xbad c (body w 32 6) a _ (by omega) k (by omega), State.spPoisoned_of_keeps (Keeps.issued s c w) rfl]
  · rw [x, ((s.issued c w).loaded_xreg c (body w 32 6) a _ _).2 (by omega), State.issued_xreg]
  · exact congrArg (· + 8) ((State.seqCycle_of_keeps loaded rfl).trans (State.seqCycle_issued ..))
  · exact (((Keeps.issued s c w).append loaded).append (Keeps.beginAccess ..)).same .sp (by decide)
  · exact (((Keeps.issued s c w).append loaded).append (Keeps.beginAccess ..)).sameBanks rfl rfl

theorem State.xbad_issued (s : State) (c w k : Nat) : (s.issued c w).xbad c k = s.xbad c k := by
  rw [State.xbad, State.issued_ctx]
  rfl

theorem State.regBytes_issued (s : State) (c w n : Nat) : (s.issued c w).regBytes c n = s.regBytes c n := by
  funext k
  rw [State.regBytes, State.issued_xreg, State.regBytes]

theorem exec_xst {s : State} {c : Fin 64} {w : Nat} (h : StepReady s c 0 4 w) : exec (.xst c) s =
    .next (((s.issued c w).stored c (body w 32 6) (s.xldSpan c w).1 (body w 38 6 + 1)).beginAccess c w (s.ctx c).next 1 (s.xldSpan c w).1
      (8 * (body w 38 6 + 1))) := by
  refine next_congr ((h.issue_eq rfl _).trans ?_)
  rw [← State.xldSpan_issued]
  rfl

/-- A step done leaves its context but for the tally, and the step outstanding no longer. -/
theorem State.stepDone_ctx (s : State) (c step eng op : Nat) (t : Option Nat) :
    (s.stepDone c step eng op t).ctx c = ((s.ctx c).advanced t s.cyc).finish (stepKey eng op step) := by
  unfold State.stepDone
  extract_lets s1 a
  rw [(Keeps.trace ..).ctx_eq rfl, State.ctx_modCtx, State.advance_ctx]

theorem exec_scratchpadAccessEnd {s : State} {c : Fin 64} {a : Access} (h : (s.ctx c).access = some a) : exec (.scratchpadAccessEnd c) s =
    .next (if s.seqCycle < a.ends then s
      else if a.kind = 3 then s.modCtx c (fun x => { x with access := none })
      else (s.modCtx c (fun x => { x with access := none })).stepDone c a.step 0 ([3, 4, 10].getD a.kind 0) a.tadv) := by
  show execScratchpadAccessEnd c s = _
  rw [execScratchpadAccessEnd, h]

/-! ### The mailboxes (11 R446; 15 R591, R594) -/

theorem State.doneNow_partNear (s : State) (c w i p : Nat) : PartNear p s (s.doneNow c w i) := by
  unfold State.doneNow
  extract_lets s1 a
  have advanced : PartNear p s s1 := .of_eq ((Keeps.advance ..).part_eq rfl p)
  exact advanced.trans ((SideRel.partNear p).trace ..)

theorem PartNear.h2dack {q : Nat} {s t : State} (h : PartNear q s t) : (t.part q).h2dack = (s.part q).h2dack := by
  obtain ⟨w, l, h⟩ := h.same
  rw [h]

theorem PartNear.d2hcnt {q : Nat} {s t : State} (h : PartNear q s t) : (t.part q).d2hcnt = (s.part q).d2hcnt := by
  obtain ⟨w, l, h⟩ := h.same
  rw [h]

theorem State.h2dSlot_issued (s : State) (c w k : Nat) : (s.issued c w).h2dSlot c k = s.h2dSlot c k := by
  unfold State.h2dSlot
  rw [State.issued_ctx, Ctx.part_afterIssue]
  split
  · rfl
  · next p _ =>
    obtain ⟨wf, l, part⟩ := (s.issued_partNear c w p).same
    have page : (s.issued c w).pageOfPart p = s.pageOfPart p := by rw [State.pageOfPart, State.pageOfPart, part]
    have home (sa : Nat) : (s.issued c w).homeRead sa = s.homeRead sa := (Keeps.issued s c w).homeRead_eq rfl sa
    simp only [page, (Keeps.issued s c w).page_eq rfl, home, part]

/-- The values of the registers that take message `m`: its eight words, or values the spec leaves open where it is poisoned. -/
def mailWords (free : Nat) (m : BitVec 512 × Bool) : List (BitVec 64) :=
  if m.2 then (List.range 8).map (fun n => Config.freeWord (free + n)) else (List.range 8).map (fun n => BitVec.ofNat 64 (field m.1.toNat (64 * n) 64))

theorem mailWords_length (free : Nat) (m : BitVec 512 × Bool) : (mailWords free m).length = 8 := by
  unfold mailWords
  split <;> rfl

/-- Message `m` of slot `k` taken into the registers from `n` on, and shown as taken on the page of partition `p`. -/
def State.mailTaken (s : State) (c n k p : Nat) (m : BitVec 512 × Bool) : State :=
  (((if m.2 then (s.putFree (s.free + 8)).notePoison c else s).modCtx c (fun x => x.setX n (mailWords s.free m) m.2)).modPart p
    (fun q => { q with h2dack := Tab.set (fun _ => 0) q.h2dack k (BitVec.ofNat 32 (field m.1.toNat 480 32)) })).writeControl (s.pageOfPart p)

theorem State.mailTaken_ctx (s : State) (c n k p : Nat) (m : BitVec 512 × Bool) : ∃ b, (s.mailTaken c n k p m).ctx c =
    { (s.ctx c).setX n (mailWords s.free m) m.2 with poison := b } ∧ (m.2 = true → b = true) := by
  have noted : ∃ b, ((if m.2 then (s.putFree (s.free + 8)).notePoison c else s).ctx c) = { s.ctx c with poison := b } ∧ (m.2 = true → b = true) := by
    split
    · exact ⟨true, by rw [State.notePoison, State.ctx_modCtx, (Keeps.putFree ..).ctx_eq rfl], fun _ => rfl⟩
    · next clean => exact ⟨_, rfl, fun bad => absurd bad clean⟩
  obtain ⟨b, ctx, bad⟩ := noted
  refine ⟨b, ?_, bad⟩
  rw [State.mailTaken, (Keeps.writeControl ..).ctx_eq rfl, (Keeps.modPart ..).ctx_eq rfl, State.ctx_modCtx, ctx]
  rfl

theorem State.mailTaken_keeps (s : State) (c n k p : Nat) (m : BitVec 512 × Bool) : Keeps [.free, .ctxs, .parts, .act, .out] s (s.mailTaken c n k p m) := by
  have noted : Keeps [.free, .ctxs] s (if m.2 then (s.putFree (s.free + 8)).notePoison c else s) :=
    .ite ((Keeps.putFree ..).append (Keeps.notePoison ..)) (.refl _ _)
  exact (((noted.append (Keeps.modCtx ..)).append (Keeps.modPart ..)).append (Keeps.writeControl ..)).mono rfl

theorem State.mailTaken_ack (s : State) (c n k p : Nat) (m : BitVec 512 × Bool) :
    Tab.get (fun _ => 0) ((s.mailTaken c n k p m).part p).h2dack k = BitVec.ofNat 32 (field m.1.toNat 480 32) := by
  obtain ⟨w, l, part⟩ := ((SideRel.partNear p).writeControl (((if m.2 then (s.putFree (s.free + 8)).notePoison c else s).modCtx c
    (fun x => x.setX n (mailWords s.free m) m.2)).modPart p
    (fun q => { q with h2dack := Tab.set (fun _ => 0) q.h2dack k (BitVec.ofNat 32 (field m.1.toNat 480 32)) })) (s.pageOfPart p)).same
  rw [State.mailTaken, part, State.part_modPart]
  exact Tab.get_set_same ..

/-- What an MBXR leaves: its registers with their poison, all else of X, the message shown as taken. -/
theorem does_mbxr {s : State} {c : Fin 64} {w p : Nat} (h : StepReady s c 0 9 w) (mail : s.hasMail c (body w 0 3) = true) (part : (s.ctx c).part = some p) :
    Does (.mbxr c) s (fun t =>
      (∀ n (hn : n < 8), t.xreg c (body w 3 6 + n) = (mailWords (s.issued c w).free (s.h2dSlot c (body w 0 3)))[n]'(by rwa [mailWords_length])) ∧
      (∀ n < 8, t.xbad c (body w 3 6 + n) = (s.h2dSlot c (body w 0 3)).2) ∧ ((s.h2dSlot c (body w 0 3)).2 = true → (t.ctx c).poison = true) ∧
      XSame c (fun k => body w 3 6 ≤ k ∧ k < body w 3 6 + 8) s t ∧
      Tab.get (fun _ => 0) (t.part p).h2dack (body w 0 3) = BitVec.ofNat 32 (field (s.h2dSlot c (body w 0 3)).1.toNat 480 32) ∧
      TallyDone c w s t ∧ SameBanks s t) := by
  have fits : body w 3 6 ≤ 56 := by
    have passed := h.seqChecks
    rw [State.seqChecks, h.isOp] at passed
    simpa using chk_eq_nil.1 passed
  have run : exec (.mbxr c) s =
      .next (((s.issued c w).mailTaken c (body w 3 6) (body w 0 3) p (s.h2dSlot c (body w 0 3))).doneNow c w (s.ctx c).next) := by
    refine next_congr ((h.issue_eq mail _).trans ?_)
    dsimp only
    rw [State.h2dSlot_issued, State.issued_ctx, Ctx.part_afterIssue, part]
    rfl
  generalize s.h2dSlot c (body w 0 3) = m at run ⊢
  obtain ⟨b, ctx, bad⟩ := (s.issued c w).mailTaken_ctx c (body w 3 6) (body w 0 3) p m
  have kept := (s.issued c w).mailTaken_keeps c (body w 3 6) (body w 0 3) p m
  have done : (((s.issued c w).mailTaken c (body w 3 6) (body w 0 3) p m).doneNow c w (s.ctx c).next).ctx c =
      ({ ((s.ctx c).afterIssue w s.seqCycle).setX (body w 3 6) (mailWords (s.issued c w).free m) m.2 with poison := b }).advanced (stepTally w)
        ((s.issued c w).mailTaken c (body w 3 6) (body w 0 3) p m).cyc := by
    rw [State.doneNow_ctx, ctx, State.issued_ctx]
  have len := mailWords_length (s.issued c w).free m
  refine .next run ⟨fun n hn => ?_, fun n hn => ?_, fun hb => ?_, fun k hk => ?_, ?_, tallyDone_of_ctx ?_ done, ?_⟩
  · rw [State.xreg, done, Ctx.x_advanced]
    exact Ctx.setX_get _ _ _ m.2 n (by rwa [len])
  · have pois (x : Ctx) (t : Option Nat) (cyc : Nat) : (x.advanced t cyc).xpois = x.xpois := by cases t <;> rfl
    rw [State.xbad, done, pois]
    refine (Ctx.setX_xpois _ _ _ _ _ (by omega)).trans (if_pos ?_)
    omega
  · have pois (x : Ctx) (t : Option Nat) (cyc : Nat) : (x.advanced t cyc).poison = x.poison := by cases t <;> rfl
    rw [done, pois]
    exact bad hb
  · rw [State.xreg, done, Ctx.x_advanced]
    exact Ctx.setX_get_ne _ _ _ m.2 _ (by omega)
  · rw [(State.doneNow_partNear ..).h2dack, State.mailTaken_ack]
  · rfl
  · exact (((Keeps.issued ..).append kept).append (Keeps.doneNow ..)).sameBanks rfl rfl

/-- Message `v` sent by context `c` in slot `k` of partition `p`, its count the next. -/
def State.mailSent (s : State) (c p k a : Nat) : State :=
  let n := nextCount (Tab.get (fun _ => 0) (s.part p).d2hcnt k)
  (s.modPart p (fun q => { q with d2hcnt := Tab.set (fun _ => 0) q.d2hcnt k n })).hostWrite
    { port := (s.part p).port, part := some p, addr := (s.page (s.pageOfPart p)).mbxd2h.toNat + 64 * k
      data := s.spRead (tileOfCtx c) a 60 ++ leBytes 4 n.toNat, kind := .mailbox, poison := s.spPoisoned (tileOfCtx c) a 60
      vec := if flag (s.page (s.pageOfPart p)).mbxcfg.toNat 1 then some 2 else none }

theorem State.mailSent_count (s : State) (c p k a : Nat) :
    Tab.get (fun _ => 0) ((s.mailSent c p k a).part p).d2hcnt k = nextCount (Tab.get (fun _ => 0) (s.part p).d2hcnt k) := by
  unfold State.mailSent
  extract_lets n
  rw [((SideRel.partNear p).hostWrite ..).d2hcnt, State.part_modPart]
  exact Tab.get_set_same ..

theorem State.mailSent_inflight (s : State) (c p k a : Nat) : ∃ v ∈ (s.mailSent c p k a).out.inflight, v.kind = .mailbox ∧
    v.addr = (s.page (s.pageOfPart p)).mbxd2h.toNat + 64 * k ∧
    v.data = s.spRead (tileOfCtx c) a 60 ++ leBytes 4 (nextCount (Tab.get (fun _ => 0) (s.part p).d2hcnt k)).toNat := by
  unfold State.mailSent
  extract_lets n
  obtain ⟨i, q, b, sent⟩ := State.hostWrite_inflight (s.modPart p (fun q => { q with d2hcnt := Tab.set (fun _ => 0) q.d2hcnt k n }))
    { port := (s.part p).port, part := some p, addr := (s.page (s.pageOfPart p)).mbxd2h.toNat + 64 * k
      data := s.spRead (tileOfCtx c) a 60 ++ leBytes 4 n.toNat, kind := .mailbox, poison := s.spPoisoned (tileOfCtx c) a 60
      vec := if flag (s.page (s.pageOfPart p)).mbxcfg.toNat 1 then some 2 else none }
  exact ⟨_, by rw [sent]; exact List.mem_append_right _ (List.mem_singleton.2 rfl), rfl, rfl, rfl⟩

theorem Keeps.mailSent (s : State) (c p k a : Nat) : Keeps [.parts, .act, .out] s (s.mailSent c p k a) := by
  unfold State.mailSent
  extract_lets n
  exact ((Keeps.modPart ..).append (Keeps.hostWrite ..)).mono rfl

theorem exec_mbxw {s : State} {c : Fin 64} {w p : Nat} (h : StepReady s c 0 10 w) (part : (s.ctx c).part = some p)
    (on : (s.page (s.pageOfPart p)).en = true) : exec (.mbxw c) s =
    .next (((s.issued c w).mailSent c p (body w 0 3) (s.mbxwAddr c w)).beginAccess c w (s.ctx c).next 2 (s.mbxwAddr c w) 60) := by
  have runs : (match s.pageOfCtx c with | some k => (s.page k).en | none => false) = true := by
    rw [State.pageOfCtx, part]
    exact on
  have addr : (s.issued c w).mbxwAddr c w = s.mbxwAddr c w := by rw [State.mbxwAddr, State.mbxwAddr, State.seqAddr_issued]
  refine next_congr ((h.issue_eq runs _).trans ?_)
  dsimp only
  rw [State.issued_ctx, Ctx.part_afterIssue, part, addr]
  rfl

/-! ### The obligation -/

/-- Settles O26: a step that is ready issues; the registers loaded and the bytes stored are followed one by one (`State.loaded_xreg`, `RowsHold`), and
the access that each begins ends with its step. -/
theorem scratchpadStepsComplete : Obligations.ScratchpadStepsComplete := by
  unfold Obligations.ScratchpadStepsComplete
  refine ⟨?_, ?_, ?_, ?_, ?_, ?_, ?_, ?_, ?_⟩
  · intro s c w h clean
    obtain ⟨t, run, regs, -, rest, access, sp, banks⟩ := does_xld h
    exact .next run ⟨fun k hk => regs k hk (clean k hk), rest, access, sp, banks⟩
  · intro s c w h
    obtain ⟨t, run, -, bad, rest, ⟨a, access, kind, fin, -⟩, sp, banks⟩ := does_xld h
    exact .next run ⟨bad, rest, ⟨a, access, kind, fin⟩, sp, banks⟩
  · intro s c w h
    refine .next (exec_xst h) ?_
    generalize (s.xldSpan c w).1 = a
    have stored := (s.issued c w).stored_keeps c (body w 32 6) a (body w 38 6 + 1)
    obtain ⟨b, ctx⟩ := (s.issued c w).stored_ctx c (body w 32 6) a (body w 38 6 + 1)
    have rows := (s.issued c w).stored_sp c (body w 32 6) a (body w 38 6 + 1)
    rw [State.regBytes_issued, (Keeps.issued ..).same .sp (by decide)] at rows
    have begun := State.beginAccess_ctx ((s.issued c w).stored c (body w 32 6) a (body w 38 6 + 1)) c a w (s.ctx c).next 1 (8 * (body w 38 6 + 1))
    have byte (i : Nat) : (((s.issued c w).stored c (body w 32 6) a (body w 38 6 + 1)).beginAccess c w (s.ctx c).next 1 a (8 * (body w 38 6 + 1))).spByte i =
        Tab.get (fun _ => 0) ((s.issued c w).stored c (body w 32 6) a (body w 38 6 + 1)).sp i := by
      rw [State.spByte, (Keeps.beginAccess ..).same .sp (by decide)]
    refine ⟨fun k hk i hi => ?_, fun i hi => ?_, fun k _ => ?_, ⟨_, by rw [begun], rfl, ?_⟩, ?_⟩
    · rw [byte]
      exact rows.rows k (by omega) i hi
    · rw [byte]
      exact rows.rest i hi
    · rw [State.xreg, begun, ctx]
      exact State.issued_xreg ..
    · exact congrArg (· + 8) ((State.seqCycle_of_keeps stored rfl).trans (State.seqCycle_issued ..))
    · exact (((Keeps.issued ..).append stored).append (Keeps.beginAccess ..)).sameBanks rfl rfl
  · intro s c a h over_ kind
    refine .next ((exec_scratchpadAccessEnd h).trans (next_congr ((if_neg (by omega)).trans (if_neg (by omega))))) ?_
    have done := (s.modCtx c (fun x => { x with access := none })).stepDone_ctx c a.step 0 ([3, 4, 10].getD a.kind 0) a.tadv
    rw [State.ctx_modCtx] at done
    have adv (x : Ctx) (t : Option Nat) (cyc : Nat) : (x.advanced t cyc).access = x.access ∧ (x.advanced t cyc).outst = x.outst := by
      cases t <;> exact ⟨rfl, rfl⟩
    refine ⟨?_, fun k => ?_, ?_, ((Keeps.modCtx ..).append (Keeps.stepDone ..)).sameBanks rfl rfl⟩
    · rw [done]
      exact (adv ..).1
    · rw [done]
      exact Ctx.tally_advanced ..
    · rw [done]
      exact congrArg (List.erase · _) (adv ..).2
  · intro s c a h over_ kind
    refine .next ((exec_scratchpadAccessEnd h).trans (next_congr ((if_neg (by omega)).trans (if_pos kind)))) ?_
    rw [State.ctx_modCtx]
    exact ⟨rfl, rfl, rfl, Keeps.modCtx ..⟩
  · intro s c a h early
    rw [exec_scratchpadAccessEnd h, if_pos early]
  · intro s c w p h mail part clean
    obtain ⟨t, run, regs, -, -, rest, ack, tally, banks⟩ := does_mbxr h mail part
    refine .next run ⟨fun n hn => ?_, rest, ack, tally, banks⟩
    rw [regs n hn]
    simp [mailWords, clean]
  · intro s c w p h mail part bad
    obtain ⟨t, run, -, pois, noted, rest, -, tally, banks⟩ := does_mbxr h mail part
    exact .next run ⟨fun n hn => (pois n hn).trans bad, noted bad, rest, tally, banks⟩
  · intro s c w p h part on
    refine .next (exec_mbxw h part on) ?_
    generalize s.mbxwAddr c w = a
    obtain ⟨wf, l, same⟩ := (s.issued_partNear c w p).same
    have page : (s.issued c w).pageOfPart p = s.pageOfPart p := by rw [State.pageOfPart, State.pageOfPart, same]
    have count := (s.issued c w).mailSent_count c p (body w 0 3) a
    obtain ⟨v, sent, kind, addr, data⟩ := (s.issued c w).mailSent_inflight c p (body w 0 3) a
    rw [page, (Keeps.issued s c w).page_eq rfl] at addr
    rw [(s.issued_partNear c w p).d2hcnt] at count data
    rw [State.spRead_of_keeps (Keeps.issued s c w) rfl] at data
    have begun := State.beginAccess_ctx ((s.issued c w).mailSent c p (body w 0 3) a) c a w (s.ctx c).next 2 60
    rw [(Keeps.mailSent ..).ctx_eq rfl] at begun
    refine ⟨?_, ⟨v, ?_, kind, addr, data⟩, ⟨_, by rw [begun], rfl, ?_⟩, fun k _ => ?_, ?_⟩
    · rw [(Keeps.beginAccess ..).part_eq rfl, count]
    · rwa [(Keeps.beginAccess ..).same .out (by decide)]
    · exact congrArg (· + 8) ((State.seqCycle_of_keeps (Keeps.mailSent ..) rfl).trans (State.seqCycle_issued ..))
    · rw [State.xreg, begun]
      exact State.issued_xreg ..
    · exact (((Keeps.issued ..).append (Keeps.mailSent ..)).append (Keeps.beginAccess ..)).sameBanks rfl rfl

end Sys2Proof.Machine
end

section
/-! The recompute unit (05 R196 to R200; 06 R261, R264). -/

namespace Sys2Proof.Machine

/-! ### The rows of a rebuild (05 R196, R198) -/

/-- A span in which no column asks for a decode is read without one. -/
theorem State.readSpan_plain {s : State} {b : Nat} {p : PassRec} (part : Option Nat)
    (h : ∀ rk ∈ p.rowKeys b, ∀ c ∈ p.columns b rk, s.columnAsks rk c = false) : s.readSpan b part p = s := by
  unfold State.readSpan
  generalize p.rowKeys b = rks at h
  induction rks with
  | nil => rfl
  | cons rk rks ih =>
    have none_ : (p.columns b rk).find? (fun c => s.columnAsks rk c) = none :=
      List.find?_eq_none.2 fun c hc => Bool.eq_false_iff.1 (h rk List.mem_cons_self c hc)
    rw [List.foldl_cons, none_]
    exact ih fun rk hrk => h rk (List.mem_cons_of_mem _ hrk)

theorem State.readSpans_plain {s : State} {b : Nat} {ps : List PassRec} (part : Option Nat)
    (h : ∀ p ∈ ps, ∀ rk ∈ p.rowKeys b, ∀ c ∈ p.columns b rk, s.columnAsks rk c = false) : ps.foldl (fun s p => s.readSpan b part p) s = s := by
  induction ps with
  | nil => rfl
  | cons p ps ih =>
    rw [List.foldl_cons, State.readSpan_plain part (h p List.mem_cons_self)]
    exact ih fun p hp => h p (List.mem_cons_of_mem _ hp)

/-- The passes of a rebuild's groups. -/
def Rebuild.passes (r : Rebuild) : List PassRec := (r.groups.flatMap RebuildGroup.passes).eraseDups

theorem Rebuild.mem_passes {r : Rebuild} {p : PassRec} : p ∈ r.passes ↔ ∃ g ∈ r.groups, p ∈ g.passes := by
  rw [Rebuild.passes, List.mem_eraseDups, List.mem_flatMap]

/-! ### The groups of a rebuild (05 R196; 06 R261, R264) -/

/-- Group `g` of a rebuild is of the type INT32. -/
def State.groupInt (s : State) (b : Nat) (g : RebuildGroup) : Bool :=
  match g.passes.getLast? with | some p => field p.cfg 0 3 == 4 | none => (s.nbu b).accInt.getLsbD g.group

/-- Group `g` given to sum buffer `key`, with its value or none; a value is kept by the unit of tile `t`. -/
def State.groupGiven (u : State) (t key b : Nat) (int : Bool) (v : Option (List (BitVec 32))) (g : RebuildGroup) (now : Nat) : State :=
  match v with
  | some l => (u.modCru key (fun x => x.takeRebuilt int v g.dst now)).modHub t (fun h => h.keep b g l)
  | none => u.modCru key (fun x => x.takeRebuilt int v g.dst now)

/-- The groups of a rebuild given, with the value `v` gives each. -/
def State.groupsGiven (s u : State) (t b : Nat) (chan : Nat) (v : RebuildGroup → Option (List (BitVec 32))) (gs : List RebuildGroup) : State :=
  gs.foldl (fun u g => u.groupGiven t (chan * 16 + g.buf) b (s.groupInt b g) (v g) g s.cyc) u

section
variable (u : State) (t key b : Nat) (int : Bool) (v : Option (List (BitVec 32))) (g : RebuildGroup) (now : Nat)

theorem Keeps.groupGiven : Keeps [.crus, .hubs] u (u.groupGiven t key b int v g now) := by
  unfold State.groupGiven
  split
  · exact (Keeps.modCru ..).append (Keeps.modHub ..)
  · exact (Keeps.modCru ..).mono rfl

theorem State.groupGiven_cru : (u.groupGiven t key b int v g now).cru key = (u.cru key).takeRebuilt int v g.dst now := by
  unfold State.groupGiven
  split
  · rw [(Keeps.modHub ..).cru_eq rfl, State.cru_modCru]
  · rw [State.cru_modCru]

theorem State.groupGiven_cru_ne {i : Nat} (hi : i ≠ key) : (u.groupGiven t key b int v g now).cru i = u.cru i := by
  unfold State.groupGiven
  split
  · rw [(Keeps.modHub ..).cru_eq rfl, State.cru_modCru_ne _ _ _ _ hi]
  · rw [State.cru_modCru_ne _ _ _ _ hi]

theorem SumBuf.takeRebuilt_busy (x : SumBuf) (dst : Option DrainKey) : (x.takeRebuilt int v dst now).busy = true := by cases v <;> rfl

theorem State.groupGiven_rebuilt (l : List (BitVec 32)) (fresh : g.cleared = false) :
    Tab.get (fun _ => []) ((u.groupGiven t key b int (some l) g now).hub t).rebuilt (b * 8 + g.group) = l := by
  unfold State.groupGiven
  rw [State.hub_modHub, Hub.keep, if_neg (by rw [fresh]; decide)]
  exact Tab.get_put_same _ _ _ _ (Tab.ne_of_mem_erase _ _)

theorem State.groupGiven_rebuilt_ne {j : Nat} (hj : j ≠ b * 8 + g.group) :
    Tab.get (fun _ => []) ((u.groupGiven t key b int v g now).hub t).rebuilt j = Tab.get (fun _ => []) (u.hub t).rebuilt j := by
  unfold State.groupGiven
  split
  · rw [State.hub_modHub, (Keeps.modCru ..).hub_eq rfl, Hub.keep]
    split
    · rfl
    · exact (Tab.get_put_ne _ _ _ _ _ hj).trans (Tab.get_erase_ne _ _ _ _ hj)
  · rw [(Keeps.modCru ..).hub_eq rfl]

end

section
variable (s u : State) (t b chan : Nat) (v : RebuildGroup → Option (List (BitVec 32))) (gs : List RebuildGroup)

theorem Keeps.groupsGiven : Keeps [.crus, .hubs] u (s.groupsGiven u t b chan v gs) := Keeps.foldl _ (fun _ _ => Keeps.groupGiven ..) ..

/-- Each group's buffer is busy. -/
theorem State.groupsGiven_busy {g : RebuildGroup} (hg : g ∈ gs) : ((s.groupsGiven u t b chan v gs).cru (chan * 16 + g.buf)).busy = true := by
  refine foldl_reaches (P := fun g (w : State) => (w.cru (chan * 16 + g.buf)).busy = true) (fun w g => ?_) (fun w a g hw => ?_) gs u (.inl hg)
  · rw [State.groupGiven_cru]
    exact SumBuf.takeRebuilt_busy ..
  · by_cases same : chan * 16 + g.buf = chan * 16 + a.buf
    · rw [same, State.groupGiven_cru]
      exact SumBuf.takeRebuilt_busy ..
    · rw [State.groupGiven_cru_ne _ _ _ _ _ _ _ _ same]
      exact hw

/-- The buffers of groups without a value are poisoned. -/
theorem State.groupsGiven_pois {g : RebuildGroup} (hg : g ∈ gs) :
    ((s.groupsGiven u t b chan (fun _ => none) gs).cru (chan * 16 + g.buf)).pois = true := by
  refine foldl_reaches (P := fun g (w : State) => (w.cru (chan * 16 + g.buf)).pois = true) (fun w g => ?_) (fun w a g hw => ?_) gs u (.inl hg)
  · rw [State.groupGiven_cru]
    rfl
  · by_cases same : chan * 16 + g.buf = chan * 16 + a.buf
    · rw [same, State.groupGiven_cru]
      rfl
    · rw [State.groupGiven_cru_ne _ _ _ _ _ _ _ _ same]
      exact hw

/-- The values of different groups are kept side by side. -/
theorem State.groupsGiven_rebuilt (value : RebuildGroup → List (BitVec 32)) (distinct : (gs.map RebuildGroup.group).Nodup) {g : RebuildGroup}
    (hg : g ∈ gs) (fresh : g.cleared = false) :
    Tab.get (fun _ => []) ((s.groupsGiven u t b chan (fun g => some (value g)) gs).hub t).rebuilt (b * 8 + g.group) = value g := by
  have later (ks : List RebuildGroup) (w : State) (hk : g.group ∉ ks.map RebuildGroup.group) :
      Tab.get (fun _ => []) ((s.groupsGiven w t b chan (fun g => some (value g)) ks).hub t).rebuilt (b * 8 + g.group) =
        Tab.get (fun _ => []) (w.hub t).rebuilt (b * 8 + g.group) := by
    induction ks generalizing w with
    | nil => rfl
    | cons a ks ih =>
      obtain ⟨ha, hks⟩ := not_or.1 (List.mem_cons.not.1 hk)
      exact (ih _ hks).trans (State.groupGiven_rebuilt_ne _ _ _ _ _ _ _ _ (by omega))
  induction gs generalizing u with
  | nil => exact absurd hg List.not_mem_nil
  | cons a gs ih =>
    obtain ⟨ha, hgs⟩ := List.nodup_cons.1 distinct
    rcases List.mem_cons.1 hg with rfl | hg
    · exact (later gs _ ha).trans (State.groupGiven_rebuilt _ _ _ _ _ _ _ _ fresh)
    · exact ih _ hgs hg

end

/-! ### A rebuild ends (05 R198 to R200) -/

/-- Each of a rebuild's sum buffers is free, or holds a sum of the same drain (06 R264). -/
def State.rebuildFits (s : State) (r : Rebuild) : Bool := r.groups.all (fun g => !(s.cru (r.chan * 16 + g.buf)).busy || (s.cru (r.chan * 16 + g.buf)).dst == g.dst)

theorem State.rebuildFits_of {s : State} {r : Rebuild}
    (h : ∀ g ∈ r.groups, (s.cru (r.chan * 16 + g.buf)).busy = false ∨ (s.cru (r.chan * 16 + g.buf)).dst = g.dst) : s.rebuildFits r = true := by
  refine List.all_eq_true.2 fun g hg => ?_
  rcases h g hg with free | same
  · rw [free]; rfl
  · rw [same, beq_self_eq_true, Bool.or_true]

/-- The value that a rebuild gives a group: none where the rebuild is `bad`. -/
def State.rebuildValue (s : State) (b : Nat) (bad : Bool) (g : RebuildGroup) : Option (List (BitVec 32)) := if bad then none else some (s.rebuiltValue b g)

/-- Tile `t` with the groups of its rebuild `r` given, the rebuild gone from the list. -/
def State.rebuildGiven (s : State) (t : Nat) (r : Rebuild) (rest : List Rebuild) (bad : Bool) : State :=
  (s.groupsGiven s t (bankOf r.chan r.bank) r.chan (s.rebuildValue (bankOf r.chan r.bank) bad) r.groups).modHub t (fun h => { h with rebuilds := rest })

/-- The line in which rebuild `r` met its first poison. -/
def Rebuild.line (r : Rebuild) : Nat := lineKey (bankOf r.chan r.bank) r.row (r.col / 2)

/-- The result of rebuild `r` logged, its line at address `addr`. -/
def State.rebuildLogged (s : State) (r : Rebuild) (part : Option Nat) (addr : Nat) (bad : Bool) : State :=
  if bad then s.uncorrectable r.line r.col 3 2 127 part addr else s.logError r.line r.col 1 2 0 part addr

/-- Tile `t` with its rebuild `r` ended. -/
def State.rebuildEnded (s : State) (t : Nat) (r : Rebuild) (rest : List Rebuild) (part : Option Nat) (bad : Bool) : State :=
  (s.rebuildGiven t r rest bad).rebuildLogged r part (s.logAddr r.line) bad

theorem exec_recomputeDone {s : State} {tile : Fin 16} {r : Rebuild} {rest : List Rebuild} (h : (s.hub tile).rebuilds = r :: rest)
    (started : r.started = true) (fits : s.rebuildFits r = true)
    (plain : ∀ g ∈ r.groups, ∀ p ∈ g.passes, ∀ rk ∈ p.rowKeys (bankOf r.chan r.bank), ∀ c ∈ p.columns (bankOf r.chan r.bank) rk, s.columnAsks rk c = false) :
    exec (.recomputeDone tile) s = .next (s.rebuildEnded tile r rest ((r.groups.head?.bind RebuildGroup.dst).bind (fun d : DrainKey => (s.ctx d.ctx).part))
      (r.passes.any (fun p => !s.passClean (bankOf r.chan r.bank) p))) := by
  have read (part : Option Nat) : r.passes.foldl (fun s p => s.readSpan (bankOf r.chan r.bank) part p) s = s := by
    refine State.readSpans_plain part fun p hp => ?_
    obtain ⟨g, hg, hp⟩ := Rebuild.mem_passes.1 hp
    exact plain g hg p hp
  show execRecomputeDone tile s = _
  rw [execRecomputeDone]
  dsimp only
  rw [h]
  refine next_congr ((if_neg ?_).trans ?_)
  · rintro (late | busy)
    · exact Bool.false_ne_true (late.symm.trans started)
    · exact Bool.false_ne_true (busy.symm.trans fits)
  · rw [show (r.groups.flatMap RebuildGroup.passes).eraseDups = r.passes from rfl, read]
    generalize r.passes.any (fun p => !s.passClean (bankOf r.chan r.bank) p) = bad
    generalize (r.groups.head?.bind RebuildGroup.dst).bind (fun d : DrainKey => (s.ctx d.ctx).part) = part
    cases bad <;> rfl

section
variable (s : State) (t : Nat) (r : Rebuild) (rest : List Rebuild) (part : Option Nat) (addr : Nat) (bad : Bool)

theorem Keeps.rebuildGiven : Keeps [.crus, .hubs] s (s.rebuildGiven t r rest bad) := ((Keeps.groupsGiven ..).append (Keeps.modHub ..)).mono rfl

theorem Keeps.rebuildLogged : Keeps [.hubs, .parts, .pages, .ports, .logs, .act, .out] s (s.rebuildLogged r part addr bad) :=
  .ite (Keeps.uncorrectable ..) ((Keeps.logError ..).mono rfl)

theorem State.rebuildEnded_sameBanks : SameBanks s (s.rebuildEnded t r rest part bad) :=
  ((Keeps.rebuildGiven ..).append (Keeps.rebuildLogged ..)).sameBanks rfl rfl

theorem State.rebuildEnded_cru (i : Nat) : (s.rebuildEnded t r rest part bad).cru i =
    (s.groupsGiven s t (bankOf r.chan r.bank) r.chan (s.rebuildValue (bankOf r.chan r.bank) bad) r.groups).cru i := by
  rw [State.rebuildEnded, (Keeps.rebuildLogged ..).cru_eq rfl, State.rebuildGiven, (Keeps.modHub ..).cru_eq rfl]

theorem State.rebuildLogged_boxesOnly : BoxesOnly s (s.rebuildLogged r part addr bad) := by
  unfold State.rebuildLogged
  split
  · exact State.uncorrectable_boxesOnly ..
  · exact State.logError_boxesOnly ..

theorem State.rebuildEnded_hub : ∃ bb, (s.rebuildEnded t r rest part bad).hub t =
    { (s.groupsGiven s t (bankOf r.chan r.bank) r.chan (s.rebuildValue (bankOf r.chan r.bank) bad) r.groups).hub t with rebuilds := rest, bb := bb } := by
  obtain ⟨bb, hub⟩ := ((s.rebuildGiven t r rest bad).rebuildLogged_boxesOnly r part (s.logAddr r.line) bad).hub t
  exact ⟨bb, by rw [State.rebuildEnded, hub, State.rebuildGiven, State.hub_modHub]⟩

theorem State.rebuildEnded_counts : (s.rebuildEnded t r rest part true).logs.unccnt = satNat 32 (s.logs.unccnt + 1) ∧
    (s.rebuildEnded t r rest part false).logs.corrcnt = satNat 32 (s.logs.corrcnt + 1) := by
  have logs (bad : Bool) : (s.rebuildGiven t r rest bad).logs = s.logs := (Keeps.rebuildGiven ..).same .logs (by decide)
  constructor
  · rw [State.rebuildEnded, State.rebuildLogged, if_pos rfl, State.uncorrectable_unccnt _ _ _ _ _ _ _ _ (.inl rfl), logs]
  · rw [State.rebuildEnded, State.rebuildLogged, if_neg Bool.false_ne_true, (State.logError_counts ..).2, if_pos rfl, logs]

end

/-! ### The obligation -/

/-- Settles O32: the rows of the span are read as they are (`State.readSpans_plain`); the groups are given one by one, each to its buffer, the values of
different groups side by side (`State.groupsGiven_rebuilt`), and the result is logged. -/
theorem recomputeComplete : Obligations.RecomputeComplete := by
  unfold Obligations.RecomputeComplete
  refine ⟨?_, ?_, ?_, ?_⟩
  · intro s tile r rest h waits
    have run : exec (.recomputeRebuild tile) s = .next (s.modHub tile (fun h => { h with rebuilds := { r with started := true } :: rest })) := by
      show execRecomputeRebuild tile s = _
      rw [execRecomputeRebuild, h]
      exact next_congr (if_neg (by rw [waits]; decide))
    refine .next run ⟨?_, Keeps.modHub ..⟩
    rw [State.hub_modHub]
  · intro s tile r rest b h started hb free plain bad
    subst hb
    have failed : r.passes.any (fun p => !s.passClean (bankOf r.chan r.bank) p) = true := by
      obtain ⟨g, hg, p, hp, poisoned⟩ := bad
      exact List.any_eq_true.2 ⟨p, Rebuild.mem_passes.2 ⟨g, hg, hp⟩, by rw [poisoned]; rfl⟩
    refine .next (exec_recomputeDone h started (State.rebuildFits_of free) plain) ?_
    rw [failed]
    generalize (r.groups.head?.bind RebuildGroup.dst).bind (fun d : DrainKey => (s.ctx d.ctx).part) = part
    obtain ⟨bb, hub⟩ := s.rebuildEnded_hub tile r rest part true
    refine ⟨by rw [hub], fun g hg => ?_, (s.rebuildEnded_counts tile r rest part).1, State.rebuildEnded_sameBanks ..⟩
    rw [State.rebuildEnded_cru]
    exact ⟨State.groupsGiven_pois _ _ _ _ _ _ hg, State.groupsGiven_busy _ _ _ _ _ _ _ hg⟩
  · intro s tile r rest b h started hb distinct _ free plain clean
    subst hb
    have passed : r.passes.any (fun p => !s.passClean (bankOf r.chan r.bank) p) = false := by
      refine List.any_eq_false.2 fun p hp => ?_
      obtain ⟨g, hg, hp⟩ := Rebuild.mem_passes.1 hp
      rw [clean g hg p hp]
      exact Bool.false_ne_true
    refine .next (exec_recomputeDone h started (State.rebuildFits_of free) plain) ?_
    rw [passed]
    generalize (r.groups.head?.bind RebuildGroup.dst).bind (fun d : DrainKey => (s.ctx d.ctx).part) = part
    obtain ⟨bb, hub⟩ := s.rebuildEnded_hub tile r rest part false
    refine ⟨by rw [hub], fun g hg => ⟨?_, fun fresh => ?_⟩, (s.rebuildEnded_counts tile r rest part).2, State.rebuildEnded_sameBanks ..⟩
    · rw [State.rebuildEnded_cru]
      exact State.groupsGiven_busy _ _ _ _ _ _ _ hg
    · rw [hub]
      exact State.groupsGiven_rebuilt _ _ _ _ _ _ _ distinct hg fresh
  · intro s tile r rest h started held
    obtain ⟨g, hg, busy, other⟩ := held
    have waits : s.rebuildFits r = false := by
      refine List.all_eq_false.2 ⟨g, hg, ?_⟩
      rw [busy, Bool.not_true, Bool.false_or, beq_iff_eq]
      exact other
    show execRecomputeDone tile s = _
    rw [execRecomputeDone]
    dsimp only
    rw [h]
    exact next_congr (if_pos (.inr waits))

end Sys2Proof.Machine
end

section
/-! The vector engine (09 R347, R364, R371 to R378; 10 R386, R387; 11 R451). -/

namespace Sys2Proof.Machine

/-! ### Words refused by their banks (09 R376; 10 R386, R387) -/

/-- A word of the present cycle that its bank refuses holds every run of the engine for the cycle. -/
theorem State.veCycle_held {s : State} {t : Nat} {taken : List Nat} (busy : (s.vec t).runs ≠ []) (asked : (s.vec t).words ≠ [])
    (refused : (grantWords taken (s.vec t).words).2 ≠ []) : ((s.veCycle t taken).1.vec t).conflict = satNat 32 ((s.vec t).conflict + 1) ∧
      ((s.veCycle t taken).1.vec t).runs = (s.vec t).runs.map (fun r => r.shift s.cyc) := by
  unfold State.veCycle
  extract_lets v stores g
  have same : g = grantWords taken (s.vec t).words := congrArg (grantWords taken) (if_neg asked)
  rw [if_neg busy, if_neg (by rw [same]; exact refused), (Keeps.count ..).vec_eq rfl, State.vec_modVec]
  exact ⟨rfl, rfl⟩

theorem VeRun.shift_nextEntry (r : VeRun) {now : Nat} (h : now < r.nextEntry) : (r.shift now).nextEntry = r.nextEntry + 1 := if_pos h

/-! ### A step enters the queue and starts (09 R364, R372, R378; 11 R451) -/

/-- Step `w` of context `c` in the vector queue, outstanding. -/
def State.chainQueued (s : State) (c w : Nat) : State :=
  ((s.issued c w).modVec (tileOfCtx c) (fun v => { v with queue := v.queue ++ [{ s.veStep c w with step := (s.ctx c).next }] })).outstand c w (s.ctx c).next

theorem State.outstand_ctx (s : State) (c w i : Nat) : (s.outstand c w i).ctx c =
    { s.ctx c with outst := (s.ctx c).outst ++ [stepKey (stepEng w) (stepOp w) i] } := State.ctx_modCtx ..

theorem State.chainQueued_ctx (s : State) (c w : Nat) : (s.chainQueued c w).ctx c = { (s.ctx c).afterIssue w s.seqCycle with
    outst := ((s.ctx c).afterIssue w s.seqCycle).outst ++ [stepKey (stepEng w) (stepOp w) (s.ctx c).next] } := by
  rw [State.chainQueued, State.outstand_ctx, (Keeps.modVec ..).ctx_eq rfl, State.issued_ctx]

theorem exec_vchain {s : State} {c : Fin 64} {w : Nat} (h : StepReady s c 2 0 w) : exec (.vchain c) s = .next (s.chainQueued c w) :=
  next_congr (h.issue_eq rfl _)

/-- Step `e` started with its first entry in cycle `f`. -/
def State.chainStarted (s : State) (t : Nat) (e : VeStep) (f : Nat) : State := s.modVec t (fun v => { v with
  queue := v.queue.erase e, rr := e.ctx % 4, headAt := Tab.set (fun _ => 0) v.headAt (e.ctx % 4) f, runs := v.runs ++ [{ st := e, f := f, nextEntry := f }] })

theorem exec_veStepStart {s : State} {tile : Fin 16} {e : VeStep} {more : List VeStep} {f : Nat} (heads : (s.vec tile).heads = e :: more)
    (open_ : (s.hub tile).engines.contains 1 = true) (entered : e.entry ≤ s.cyc) (start : (s.vec tile).startCycle e s.cyc = some f) :
    exec (.veStepStart tile) s = .next (s.chainStarted tile e f) := by
  show execVeStepStart tile s = _
  rw [execVeStepStart, heads]
  refine next_congr ((if_neg ?_).trans ?_)
  · rintro (closed | early)
    · exact Bool.false_ne_true (closed.symm.trans open_)
    · omega
  · rw [start]
    rfl

/-! ### A panel enters the chain (09 R347, R371, R377) -/

/-- What a panel entry adds to its run: the panel in its chain, the next entry, the side vector read. -/
structure PanelEntry where
  /-- the panel -/
  flight : Flight
  /-- the next entry's cycle -/
  next : Nat
  /-- the part of the side vector read last -/
  key : Option Nat
  /-- its values -/
  side : Loaded
  /-- the words to be read -/
  loads : List (List Nat)
  /-- cycles the entry waited for a panel -/
  held : Nat
  /-- exceptions of its loads -/
  exc : BitVec 7
  /-- port cycles -/
  ports : Nat

/-- The run after a panel entry in cycle `now`. -/
def VeRun.entered (r : VeRun) (p : PanelEntry) (now : Nat) : VeRun := { r with
  panel := r.panel + 1, lastEntry := now, nextEntry := p.next, flights := r.flights ++ [p.flight], svKey := p.key, sv := p.side.vals, svp := p.side.pois }

/-- The engine of tile `t` after a panel entry of its last run `r`. -/
def State.panelEntered (s : State) (t : Nat) (r : VeRun) (p : PanelEntry) : State :=
  let s1 := s.modVec t (fun v => { v with
    runs := v.runs.dropLast ++ [r.entered p s.cyc], fpqHold := satNat 32 (v.fpqHold + p.held), loads := p.loads })
  let s2 := if r.st.src = 1 then s1.modMat t (fun m => { m with fpq := Tab.upd (fun _ => []) m.fpq (r.st.ctx % 4) (fun l => l.drop 1) }) else s1
  (((s2.modVfile r.st.ctx (fun v => v.raise p.exc)).count t 0x05 (s.ctx r.st.ctx).part 1).count t 0x06 (s.ctx r.st.ctx).part p.held).spend 3 p.ports

theorem State.panelEntered_keeps (s : State) (t : Nat) (r : VeRun) (p : PanelEntry) :
    Keeps [.ve, .me, .vfiles, .pm, .act] s (s.panelEntered t r p) := by
  unfold State.panelEntered
  extract_lets s1 s2
  have run : Keeps [.ve] s s1 := Keeps.modVec ..
  have popped : Keeps [.me] s1 s2 := .ite (Keeps.modMat ..) (.refl _ _)
  exact ((((run.append popped).append (Keeps.modVfile ..)).append ((Keeps.count ..).append (Keeps.count ..))).append (Keeps.spend ..)).mono rfl

theorem State.panelEntered_runs (s : State) (t : Nat) (r : VeRun) (p : PanelEntry) :
    ((s.panelEntered t r p).vec t).runs = (s.vec t).runs.dropLast ++ [r.entered p s.cyc] := by
  unfold State.panelEntered
  extract_lets s1 s2
  have popped : Keeps [.me] s1 s2 := .ite (Keeps.modMat ..) (.refl _ _)
  have later : Keeps [.vfiles, .pm, .act] s2 ((((s2.modVfile r.st.ctx (fun v => v.raise p.exc)).count t 0x05 (s.ctx r.st.ctx).part 1).count t 0x06
      (s.ctx r.st.ctx).part p.held).spend 3 p.ports) :=
    (((Keeps.modVfile ..).append ((Keeps.count ..).append (Keeps.count ..))).append (Keeps.spend ..)).mono rfl
  rw [later.vec_eq rfl, popped.vec_eq rfl, State.vec_modVec]

theorem State.panelEntered_mat (s : State) (t : Nat) (r : VeRun) (p : PanelEntry) :
    (r.st.src = 1 → Tab.get (fun _ => []) ((s.panelEntered t r p).mat t).fpq (r.st.ctx % 4) = (Tab.get (fun _ => []) (s.mat t).fpq (r.st.ctx % 4)).drop 1) ∧
    (r.st.src ≠ 1 → (s.panelEntered t r p).me = s.me) := by
  unfold State.panelEntered
  extract_lets s1 s2
  have run : Keeps [.ve] s s1 := Keeps.modVec ..
  have later : Keeps [.vfiles, .pm, .act] s2 ((((s2.modVfile r.st.ctx (fun v => v.raise p.exc)).count t 0x05 (s.ctx r.st.ctx).part 1).count t 0x06
      (s.ctx r.st.ctx).part p.held).spend 3 p.ports) :=
    (((Keeps.modVfile ..).append ((Keeps.count ..).append (Keeps.count ..))).append (Keeps.spend ..)).mono rfl
  constructor
  · intro one
    have popped : s2 = s1.modMat t (fun m => { m with fpq := Tab.upd (fun _ => []) m.fpq (r.st.ctx % 4) (fun l => l.drop 1) }) := if_pos one
    rw [later.mat_eq rfl, popped, State.mat_modMat, run.mat_eq rfl]
    exact Tab.get_upd_same ..
  · intro other
    have kept : s2 = s1 := if_neg other
    exact (later.same .me (by decide)).trans ((congrArg State.me kept).trans (run.same .me (by decide)))

theorem exec_vePanelEntry {s u : State} {tile : Fin 16} {r : VeRun} {front : List VeRun} {i : Intake} (hu : u = s.veAdvance tile)
    (runs : (u.vec tile).runs = front ++ [r]) (more : r.panel < r.st.panels) (due : r.nextEntry ≤ u.cyc) (taken : u.intake tile r = some i) :
    ∃ p : PanelEntry, exec (.vePanelEntry tile) s = .next (u.panelEntered tile r p) ∧ p.flight.row = i.row ∧ p.flight.col = i.col ∧
      p.flight.ld0 = i.ld0.vals ∧ p.flight.ld0p = i.ld0.pois ∧ p.flight.entry = u.cyc := by
  subst hu
  have last : ((s.veAdvance tile).vec tile).runs.getLast? = some r := by rw [runs, List.getLast?_concat]
  refine ⟨⟨?flight, ?next, ?key, ?side, ?loads, ?held, ?exc, ?ports⟩, ?run, ?entered⟩
  case run =>
    show execVePanelEntry tile s = _
    rw [execVePanelEntry]
    dsimp only
    rw [last]
    refine next_congr ((if_neg (by omega)).trans ?_)
    rw [taken]
    rfl
  case entered => exact ⟨rfl, rfl, rfl, rfl, rfl⟩

theorem exec_vePanelEntry_starved {s u : State} {tile : Fin 16} {r : VeRun} {front : List VeRun} (hu : u = s.veAdvance tile)
    (runs : (u.vec tile).runs = front ++ [r]) (more : r.panel < r.st.panels) (due : r.nextEntry ≤ u.cyc) (none_ : u.intake tile r = none)
    (idle : (u.mat tile).hasWork r.st.ctx = false) : exec (.vePanelEntry tile) s = .next (u.halt r.st.ctx 0x19 15 r.st.step) := by
  subst hu
  have last : ((s.veAdvance tile).vec tile).runs.getLast? = some r := by rw [runs, List.getLast?_concat]
  show execVePanelEntry tile s = _
  rw [execVePanelEntry]
  dsimp only
  rw [last]
  refine next_congr ((if_neg (by omega)).trans ?_)
  rw [none_]
  exact if_neg (by rw [idle]; decide)

/-! ### A step completes (09 R369, R373, R375, R381) -/

/-- Run `r` of tile `t` gone from the engine, its stores visible and its poison noted. -/
def State.chainEnded (s : State) (t : Nat) (r : VeRun) : State :=
  let s1 := s.modVec t (fun v => { v with runs := v.runs.erase r, eprev := s.cyc })
  let s2 := if r.st.stmode = 2 then s1.spWrite t r.st.count (leBytes 4 r.appended) false else s1
  if r.poison then s2.notePoison r.st.ctx else s2

theorem exec_veStepComplete {s u : State} {tile : Fin 16} {r : VeRun} (hu : u = s.veAdvance tile)
    (ended : (u.vec tile).runs.find? (fun r => r.ended u.cyc) = some r) :
    exec (.veStepComplete tile) s = .next ((u.chainEnded tile r).stepDone r.st.ctx r.st.step 2 0 r.st.tadv) := by
  subst hu
  show execVeStepComplete tile s = _
  rw [execVeStepComplete]
  dsimp only
  rw [ended]
  rfl

section
variable (s : State) (t : Nat) (r : VeRun)

theorem State.chainEnded_keeps : Keeps [.ve, .sp, .spPois, .ctxs] s (s.chainEnded t r) := by
  unfold State.chainEnded
  extract_lets s1 s2
  have erased : Keeps [.ve] s s1 := Keeps.modVec ..
  have written : Keeps [.sp, .spPois] s1 s2 := .ite (Keeps.spWrite ..) (.refl _ _)
  exact ((erased.append written).append (.ite (Keeps.notePoison ..) (.refl _ _))).mono rfl

theorem State.chainEnded_runs : ((s.chainEnded t r).vec t).runs = (s.vec t).runs.erase r := by
  unfold State.chainEnded
  extract_lets s1 s2
  have written : Keeps [.sp, .spPois] s1 s2 := .ite (Keeps.spWrite ..) (.refl _ _)
  have noted : Keeps [.ctxs] s2 (if r.poison then s2.notePoison r.st.ctx else s2) := .ite (Keeps.notePoison ..) (.refl _ _)
  rw [noted.vec_eq rfl, written.vec_eq rfl, State.vec_modVec]

theorem State.chainEnded_ctx : ∃ b, (s.chainEnded t r).ctx r.st.ctx = { s.ctx r.st.ctx with poison := b } ∧ (r.poison = true → b = true) := by
  unfold State.chainEnded
  extract_lets s1 s2
  have erased : Keeps [.ve] s s1 := Keeps.modVec ..
  have written : Keeps [.sp, .spPois] s1 s2 := .ite (Keeps.spWrite ..) (.refl _ _)
  have before : s2.ctx r.st.ctx = s.ctx r.st.ctx := (written.ctx_eq rfl _).trans (erased.ctx_eq rfl _)
  split
  · exact ⟨true, by rw [State.notePoison, State.ctx_modCtx, before], fun _ => rfl⟩
  · next clean => exact ⟨_, by rw [before], fun bad => absurd bad clean⟩

theorem State.chainEnded_sp : (r.st.stmode = 2 → (s.chainEnded t r).spRead t r.st.count 4 = leBytes 4 r.appended) ∧
    (r.st.stmode ≠ 2 → (s.chainEnded t r).sp = s.sp) := by
  unfold State.chainEnded
  extract_lets s1 s2
  have erased : Keeps [.ve] s s1 := Keeps.modVec ..
  have noted : (if r.poison then s2.notePoison r.st.ctx else s2).sp = s2.sp :=
    (show Keeps [.ctxs] s2 _ from .ite (Keeps.notePoison ..) (.refl _ _)).same .sp (by decide)
  constructor
  · intro two
    have written : s2 = s1.spWrite t r.st.count (leBytes 4 r.appended) false := if_pos two
    rw [State.spRead, noted, written, State.spWrite_sp]
    exact Tab.getRun_setRun ..
  · intro other
    have kept : s2 = s1 := if_neg other
    rw [noted, kept]
    exact erased.same .sp (by decide)

end

/-! ### The obligation -/

/-- Settles O33: each event of the engine is a named change of its queue and its runs, made on the engine advanced to the present cycle; what is
read, popped and counted with it is a frame. -/
theorem vectorStepsComplete : Obligations.VectorStepsComplete := by
  unfold Obligations.VectorStepsComplete
  refine ⟨?_, ?_, ?_, ?_, ?_, ?_⟩
  · intro s tile taken i r run asked refused
    have busy : (s.vec tile).runs ≠ [] := fun none_ => by rw [none_] at run; exact nomatch run
    obtain ⟨conflict, runs⟩ := State.veCycle_held busy asked refused
    refine ⟨conflict, r.shift s.cyc, by rw [runs, List.getElem?_map, run]; rfl, rfl, rfl, r.shift_nextEntry⟩
  · intro s c w h
    have ctx := s.chainQueued_ctx c w
    refine .next (exec_vchain h) ⟨⟨{ s.veStep c w with step := (s.ctx c).next }, ?_, rfl, rfl, rfl, rfl⟩, ?_, issuedNext_of_ctx ?_ ?_ ?_, fun k _ => ?_, ?_⟩
    · rw [State.chainQueued, (show Keeps [.ctxs] _ (State.outstand _ _ _ _) from Keeps.outstand ..).vec_eq rfl, State.vec_modVec, (Keeps.issued ..).vec_eq rfl]
    · rw [ctx, h.isEng, h.isOp]
      rfl
    · rw [ctx]
    · rw [ctx]
      rfl
    · rw [ctx]
    · rw [State.xreg, ctx]
      rfl
    · exact (((Keeps.issued ..).append (Keeps.modVec ..)).append (Keeps.outstand ..)).sameBanks rfl rfl
  · intro s tile e more f heads open_ entered start
    refine .next (exec_veStepStart heads open_ entered start) ?_
    rw [State.chainStarted, State.vec_modVec]
    exact ⟨rfl, rfl, ⟨_, rfl, rfl, rfl, rfl, rfl⟩, Keeps.modVec ..⟩
  · intro s u tile r front i hu runs more due taken
    obtain ⟨p, run, row, col, ld0, pois, entry⟩ := exec_vePanelEntry hu runs more due taken
    obtain ⟨popped, kept⟩ := u.panelEntered_mat tile r p
    have banks : SameBanks s u := by
      rw [hu]
      exact (Keeps.veAdvance ..).sameBanks rfl rfl
    refine .next run ⟨⟨r.entered p u.cyc, p.flight, ?_, rfl, rfl, rfl, rfl, row, col, ld0, pois, entry⟩, popped, kept,
      banks.trans ((State.panelEntered_keeps ..).sameBanks rfl rfl)⟩
    rw [State.panelEntered_runs, runs, List.dropLast_concat]
  · intro s u tile r front hu runs more due one empty idle running
    have none_ : u.intake tile r = none := by
      unfold State.intake
      extract_lets e g row col
      have src : e.src = 1 := one
      rw [src]
      rw [show Tab.get (fun _ => []) (u.mat tile).fpq (e.ctx % 4) = [] from empty]
      rfl
    refine .next (exec_vePanelEntry_starved hu runs more due none_ idle) ?_
    rw [State.halt_ctx _ _ _ _ _ (Ctx.live_of_running running)]
    exact ⟨rfl, rfl⟩
  · intro s u tile r hu ended
    refine .next (exec_veStepComplete hu ended) ?_
    obtain ⟨b, ctx, poison⟩ := u.chainEnded_ctx tile r
    obtain ⟨count, none_⟩ := u.chainEnded_sp tile r
    have done := (u.chainEnded tile r).stepDone_ctx r.st.ctx r.st.step 2 0 r.st.tadv
    rw [ctx] at done
    have kept := Keeps.stepDone (u.chainEnded tile r) r.st.ctx r.st.step 2 0 r.st.tadv
    have banks : SameBanks s u := by
      rw [hu]
      exact (Keeps.veAdvance ..).sameBanks rfl rfl
    have adv (x : Ctx) (t : Option Nat) (cyc : Nat) : (x.advanced t cyc).outst = x.outst ∧ (x.advanced t cyc).poison = x.poison := by
      cases t <;> exact ⟨rfl, rfl⟩
    refine ⟨?_, ?_, fun k => ?_, fun bad => ?_, fun two => ?_, fun other => ?_, banks.trans ?_⟩
    · rw [kept.vec_eq rfl, State.chainEnded_runs]
    · rw [done]
      exact congrArg (List.erase · _) (adv ..).1
    · rw [done]
      exact Ctx.tally_advanced ..
    · rw [done]
      exact (adv ..).2.trans (poison bad)
    · rw [State.spRead_of_keeps kept rfl, count two]
    · rw [kept.same .sp (by decide), none_ other]
    · exact ((State.chainEnded_keeps ..).append kept).sameBanks rfl rfl

end Sys2Proof.Machine
end

section
/-! The translator: a load begun, ended and taken up. -/

namespace Sys2Proof.Machine

/-! ### A load's translation begins -/

/-- What the translator keeps of load `j`, read into `j1`, while it translates it. -/
def State.translated (s : State) (j1 : LoadJob) (native : Option (List (BitVec 256))) (map : List (BitVec 32)) : LoadJob :=
  let h := pheader j1.image
  let nat := native.getD []
  let j2 := match s.loadFault j1 native with
    | some f => { j1 with status := f.tstat, section_ := f.sec, case_ := f.case_, hcode := f.hcode, index := f.index }
    | none => { j1 with
        native := nat, nmap := map.map BitVec.toNat, tag0 := BitVec.ofNat 64 (s.tileTag h.tile)
        berths := s.fillBands ((j1.image.drop (h.sec 4)).take (96 * h.nberth)) h.nberth
        place := (s.placeImage j1.part h.tile (h.native j1.image nat.length)).getD 0 }
  { j2 with tag0 := BitVec.ofNat 64 (s.tileTag h.tile) }

/-- The translator of tile `t` busy with load `j`, with `rest` waiting. -/
def State.translatorRuns (s : State) (t : Nat) (j : LoadJob) (rest : List LoadJob) : State :=
  s.modTran t (fun y => { y with run := some j, queue := rest })

theorem State.translatorRuns_tran (s : State) (t : Nat) (j : LoadJob) (rest : List LoadJob) :
    (s.translatorRuns t j rest).tran t = { s.tran t with run := some j, queue := rest } := State.tran_modTran ..

section
variable {s : State} {native : Option (List (BitVec 256))} {map : List (BitVec 32)} {j1 : LoadJob}

theorem State.translated_fault {f : TFail} (fault : s.loadFault j1 native = some f) : (s.translated j1 native map).status = f.tstat ∧
    (s.translated j1 native map).handle = j1.handle ∧ (s.translated j1 native map).part = j1.part ∧
    (s.translated j1 native map).image = j1.image := by
  unfold State.translated
  rw [fault]
  exact ⟨rfl, rfl, rfl, rfl⟩

theorem State.translated_native {nat : List (BitVec 256)} (fine : s.loadFault j1 (some nat) = none) :
    (s.translated j1 (some nat) map).status = j1.status ∧ (s.translated j1 (some nat) map).native = nat ∧
    (s.translated j1 (some nat) map).nmap = map.map BitVec.toNat ∧ (s.translated j1 (some nat) map).handle = j1.handle ∧
    (s.translated j1 (some nat) map).part = j1.part := by
  unfold State.translated
  rw [fine]
  exact ⟨rfl, rfl, rfl, rfl, rfl⟩

/-- Native steps that the translator may give, or a fault that needs none, are taken. -/
theorem exec_translate {tile : Fin 16} {image : List (BitVec 8)} {ok : Bool} {j : LoadJob} {rest : List LoadJob} {src : List (BitVec 8) × Bool}
    (run : (s.tran tile).run = none) (queue : (s.tran tile).queue = j :: rest)
    (read : src = if j.sa then s.readBytes j.src j.len else (image, !ok)) (job : j1 = { j with image := src.1, bad := src.2, at_ := s.cyc })
    (taken : s.loadFault j1 native = none ∨ (s.loadFault j1 native = some { tstat := 8 } ∧ native = none) →
      s.orderingOk j1 native (map.map BitVec.toNat) = true) :
    exec (.translate tile image ok native map) s =
      .next ((s.translatorRuns tile (s.translated j1 native map) rest).releaseLoads tile) := by
  show execTranslate tile image ok native map s = _
  rw [execTranslate]
  dsimp only
  rw [run, queue]
  dsimp only
  rw [← read, ← job, if_neg (fun h => Bool.false_ne_true (h.2.symm.trans (taken h.1)))]
  subst job
  rfl

end

/-! ### A load's translation ends -/

/-- A load's image written and its handle made ready. -/
def State.loadReady (s : State) (t : Nat) (j : LoadJob) : State :=
  let h := pheader j.image
  let img := nativeImage h j.image j.native j.berths j.tag0.toNat j.place
  ((s.modTran t (fun x => { x with run := none, done := satNat 32 (x.done + 1) })).writeImage j.place img).modPart j.part
    (fun q => q.modHandle j.handle (fun _ =>
      { st := .ready, slot := j.place / slotBytes, off := j.place % slotBytes, size := h.native j.image j.native.length / 4096
        man := manifestOf (img.take 128), share := h.share, maint := h.maint, winmin := h.winmin
        berths := (recordsAt j.berths 0 96 h.nberth).flatMap (fun r => (berthOf r).tiles.map (fun e => (e.1, e.2.1))) }))

/-- A load that failed, its handle left as it was before the load. -/
def State.loadFailed (s : State) (t : Nat) (j : LoadJob) : State :=
  (s.modTran t (fun x => { x with run := none, failed := satNat 14 (x.failed + 1) })).modPart j.part
    (fun q => q.modHandle j.handle (fun e => if e.old then { e with st := .ready, old := false } else {}))

section
variable {s : State} {tile : Fin 16} {j : LoadJob} (run : (s.tran tile).run = some j)
include run

theorem exec_translationEnd_ready (status : j.status = 0) (tag : BitVec.ofNat 64 (s.tileTag (pheader j.image).tile) = j.tag0) :
    ∃ w v c, exec (.translationEnd tile) s = .next ((((s.loadReady tile j).hostWrite w).hostWrite v).complete j.desc c) := by
  refine ⟨?_, ?_, ?_, ?run⟩
  case run =>
    show execTranslationEnd tile s = _
    rw [execTranslationEnd]
    dsimp only
    rw [run]
    dsimp only
    have same : ¬ (j.status = 0 ∧ BitVec.ofNat 64 (s.tileTag (pheader j.image).tile) ≠ j.tag0) := fun h => h.2 tag
    rw [if_neg same]
    simp only [if_pos status]
    rfl

theorem exec_translationEnd_failed (status : j.status ≠ 0) :
    ∃ w c, exec (.translationEnd tile) s = .next (((s.loadFailed tile j).hostWrite w).complete j.desc c) := by
  refine ⟨?_, ?_, ?run⟩
  case run =>
    show execTranslationEnd tile s = _
    rw [execTranslationEnd]
    dsimp only
    rw [run]
    dsimp only
    have same : ¬ (j.status = 0 ∧ BitVec.ofNat 64 (s.tileTag (pheader j.image).tile) ≠ j.tag0) := fun h => status h.1
    rw [if_neg same]
    simp only [if_neg status]
    rfl

end

theorem State.loadReady_tran (s : State) (t : Nat) (j : LoadJob) :
    (s.loadReady t j).tran t = { s.tran t with run := none, done := satNat 32 ((s.tran t).done + 1) } := by
  rw [State.loadReady, (Keeps.modPart ..).tran_eq rfl, (Keeps.writeImage ..).tran_eq rfl, State.tran_modTran]

theorem State.loadFailed_tran (s : State) (t : Nat) (j : LoadJob) :
    (s.loadFailed t j).tran t = { s.tran t with run := none, failed := satNat 14 ((s.tran t).failed + 1) } := by
  rw [State.loadFailed, (Keeps.modPart ..).tran_eq rfl, State.tran_modTran]

theorem State.loadReady_handle (s : State) (t : Nat) (j : LoadJob) : ∃ size man share maint winmin berths,
    ((s.loadReady t j).part j.part).handle j.handle = { st := .ready, slot := j.place / slotBytes, off := j.place % slotBytes, size := size
                                                        man := man, share := share, maint := maint, winmin := winmin, berths := berths } :=
  ⟨_, _, _, _, _, _, by rw [State.loadReady, State.part_modPart, Part.handle_modHandle]⟩

theorem State.loadFailed_handle (s : State) (t : Nat) (j : LoadJob) : ((s.loadFailed t j).part j.part).handle j.handle =
    if ((s.part j.part).handle j.handle).old then { (s.part j.part).handle j.handle with st := .ready, old := false } else {} := by
  rw [State.loadFailed, State.part_modPart, Part.handle_modHandle, (Keeps.modTran ..).part_eq rfl]

/-! ### A held load follows -/

theorem State.releaseLoads_one {s : State} {t : Nat} {x : LoadJob} (held : (s.tran t).heldLoads = [x]) (room : (s.tran t).queue.length < 16)
    (steady : s.fw.st ≠ 2) : s.releaseLoads t = (s.modTran t (fun y => { y with heldLoads := y.heldLoads.drop 1 })).takeLoad t x := by
  rw [State.releaseLoads, held]
  exact if_pos ⟨room, steady⟩

theorem State.takeLoad_fine {s : State} {t : Nat} {j : LoadJob} (fine : s.loadRefusal j = none) :
    (s.takeLoad t j).tran t = { s.tran t with queue := (s.tran t).queue ++ [j] } ∧
      (((s.takeLoad t j).part j.part).handle j.handle).st = .translating := by
  rw [State.takeLoad, fine]
  refine ⟨?_, ?_⟩
  · rw [State.tran_modTran, (Keeps.modPart ..).tran_eq rfl]
  · rw [(Keeps.modTran ..).part_eq rfl]
    show (((State.modPart _ _ (fun q => q.modHandle j.handle _)).part _).handle _).st = _
    rw [State.part_modPart, Part.handle_modHandle]

/-- Settles O34: a load read is kept with the fault its checks find or with its native steps (`State.translated`), a held load is tested
against a state that differs in the translator alone, and the writes that report a load's end leave translators and handles. -/
theorem translationComplete : Obligations.TranslationComplete := by
  unfold Obligations.TranslationComplete
  refine ⟨?_, ?_, ?_, ?_, ?_⟩
  · intro s tile image ok native map j j1 rest src f run queue read job fault ordered
    have taken (h : s.loadFault j1 native = none ∨ (s.loadFault j1 native = some { tstat := 8 } ∧ native = none)) :
        s.orderingOk j1 native (map.map BitVec.toNat) = true := by
      rcases h with h | ⟨h, none_⟩
      · exact absurd (h.symm.trans fault) (Option.some_ne_none f).symm
      · exact ordered (Option.some.inj (fault.symm.trans h)) none_
    refine .next (exec_translate run queue read job taken) ⟨s.translatorRuns tile (s.translated j1 native map) rest, ⟨s.translated j1 native map, ?_, ?_⟩, ?_, ?_, Keeps.modTran .., rfl⟩
    · rw [State.translatorRuns_tran]
    · subst job
      exact State.translated_fault fault
    · rw [State.translatorRuns_tran]
    · rw [State.translatorRuns_tran]
  · intro s tile image ok native map j j1 rest src run queue read job fine ordered
    refine .next (exec_translate run queue read job fun _ => ordered) ⟨s.translatorRuns tile (s.translated j1 (some native) map) rest, ⟨s.translated j1 (some native) map, ?_, ?_⟩, ?_, ?_, Keeps.modTran .., rfl⟩
    · rw [State.translatorRuns_tran]
    · subst job
      exact State.translated_native fine
    · rw [State.translatorRuns_tran]
    · rw [State.translatorRuns_tran]
  · intro s tile x held room steady fine
    obtain ⟨tran, handle⟩ := State.takeLoad_fine (s := s.modTran tile (fun y => { y with heldLoads := y.heldLoads.drop 1 })) (t := tile) fine
    rw [State.releaseLoads_one held room steady]
    rw [State.tran_modTran] at tran
    exact ⟨by rw [tran], by rw [tran, held]; rfl, handle⟩
  · intro s tile j run status tag
    obtain ⟨w, v, c, ends⟩ := exec_translationEnd_ready run status tag
    have kept := ((Keeps.hostWrite (s.loadReady tile j) w).append (Keeps.hostWrite _ v)).append (Keeps.complete _ j.desc c)
    have near : PartNear j.part (s.loadReady tile j) ((((s.loadReady tile j).hostWrite w).hostWrite v).complete j.desc c) :=
      have side := SideRel.partNear j.part
      side.trans (side.hostWrite ..) (side.trans (side.hostWrite ..) (side.complete ..))
    obtain ⟨size, man, share, maint, winmin, berths, ready⟩ := s.loadReady_handle tile j
    refine .next ends ?_
    rw [near.handle, ready, kept.tran_eq rfl, State.loadReady_tran]
    exact ⟨rfl, rfl, rfl, rfl, rfl, rfl⟩
  · intro s tile j run status
    obtain ⟨w, c, ends⟩ := exec_translationEnd_failed run status
    have kept := (Keeps.hostWrite (s.loadFailed tile j) w).append (Keeps.complete _ j.desc c)
    have near : PartNear j.part (s.loadFailed tile j) (((s.loadFailed tile j).hostWrite w).complete j.desc c) :=
      have side := SideRel.partNear j.part
      side.trans (side.hostWrite ..) (side.complete ..)
    refine .next ends ?_
    rw [near.handle, State.loadFailed_handle, kept.tran_eq rfl, State.loadFailed_tran]
    refine ⟨rfl, rfl, rfl, fun old => ?_, fun new => ?_, ?_⟩
    · rw [if_pos old]
    · rw [new]
      rfl
    · exact (((Keeps.modTran ..).append (Keeps.modPart ..)).append kept).sameBanks rfl rfl

end Sys2Proof.Machine
end

section
/-! The matrix engine (08 R303 to R332; 11 R451). -/

namespace Sys2Proof.Machine

/-! ### Steps enter the matrix queue (08 R308, R329; 11 R451) -/

/-- Step `w` of context `c` queued at its matrix engine as `f` says, outstanding. -/
def State.meQueued (s : State) (c w : Nat) (f : Matrix → Matrix) : State :=
  ((s.issued c w).modMat (tileOfCtx c) f).outstand c w (s.ctx c).next

section
variable {s : State} {c w : Nat} (f : Matrix → Matrix)

theorem State.meQueued_mat : (s.meQueued c w f).mat (tileOfCtx c) = f (s.mat (tileOfCtx c)) := by
  rw [State.meQueued, (show Keeps [.ctxs] _ (State.outstand _ _ _ _) from Keeps.outstand ..).mat_eq rfl, State.mat_modMat, (Keeps.issued ..).mat_eq rfl]

theorem State.meQueued_ctx : (s.meQueued c w f).ctx c = { (s.ctx c).afterIssue w s.seqCycle with
    outst := ((s.ctx c).afterIssue w s.seqCycle).outst ++ [stepKey (stepEng w) (stepOp w) (s.ctx c).next] } := by
  rw [State.meQueued, State.outstand_ctx, (Keeps.modMat ..).ctx_eq rfl, State.issued_ctx]

/-- The issue of a matrix step, whatever it queues. -/
theorem StepReady.meQueued {op : Nat} (h : StepReady s c 1 op w) : ((s.meQueued c w f).ctx c).outst = (s.ctx c).outst ++ [stepKey 1 op (s.ctx c).next] ∧
    IssuedNext c w s (s.meQueued c w f) ∧ XSame c (fun _ => False) s (s.meQueued c w f) ∧ SameBanks s (s.meQueued c w f) := by
  have ctx := s.meQueued_ctx (c := c) (w := w) f
  refine ⟨?_, issuedNext_of_ctx ?_ ?_ ?_, fun k _ => ?_, ?_⟩
  · rw [ctx, h.isEng, h.isOp]
    rfl
  · rw [ctx]
  · rw [ctx]
    rfl
  · rw [ctx]
  · rw [State.xreg, ctx]
    rfl
  · exact (((Keeps.issued ..).append (Keeps.modMat ..)).append (Keeps.outstand ..)).sameBanks rfl rfl

end

theorem exec_mmul {s : State} {c : Fin 64} {w : Nat} (h : StepReady s c 1 0 w) : exec (.mmul c) s = .next (s.meQueued c w (fun m => { m with
    queue := m.queue ++ [{ s.meStep c w with step := (s.ctx c).next }], dropped := m.dropped.filter (· != c.val % 4) })) :=
  next_congr (h.issue_eq rfl _)

theorem exec_mwake {s : State} {c : Fin 64} {w : Nat} (h : StepReady s c 1 1 w) : exec (.mwake c) s = .next (s.meQueued c w (fun m => { m with
    queue := m.queue ++ [{ ctx := c, step := (s.ctx c).next, op := 1, tadv := stepTally w, entry := s.cyc + 4 + nat (flag w 52) }] })) :=
  next_congr (h.issue_eq rfl _)

/-! ### A step reaches the queue's head (08 R312, R325, R328, R329) -/

/-- MWAKE step `e` gone from the queue, waiting for the slices. -/
def State.mwakeTaken (s : State) (t : Nat) (e : MeStep) : State :=
  s.modMat t (fun m => { m with queue := m.queue.erase e, wake := m.wake ++ [e] })

/-- The serving slices of tile `t` that are gated. -/
def Matrix.asleep (m : Matrix) : List Nat := m.serve.filter (fun sl => !m.ungated.contains sl)

theorem exec_meStepStart_mwake {s : State} {tile : Fin 16} {e : MeStep} (open_ : (s.hub tile).engines.contains 0 = true)
    (head : (s.mat tile).heads.find? (fun e => e.op == 1 && decide (e.entry ≤ s.cyc)) = some e) : exec (.meStepStart tile) s =
      .next (((s.mwakeTaken tile e).askWakes tile ((s.mat tile).asleep.map (fun sl => (2, sl)))).wakeDone tile) := by
  show execMeStepStart tile s = _
  rw [execMeStepStart]
  refine next_congr ((if_neg (by rw [open_]; decide)).trans ?_)
  rw [head, State.askWakes, List.foldl_map]
  rfl

theorem Matrix.asleep_of_awake {m : Matrix} (h : m.awake = true) : m.asleep = [] :=
  List.filter_eq_nil_iff.2 fun sl hsl => by rw [List.all_eq_true.1 h sl hsl]; decide

theorem State.wakeDone_of_asleep {s : State} {t : Nat} (h : (s.mat t).awake = false) : s.wakeDone t = s := if_neg (by rw [h]; decide)

theorem State.wakeDone_of_awake {s : State} {t : Nat} {e : MeStep} (h : (s.mat t).awake = true) (one : (s.mat t).wake = [e]) :
    s.wakeDone t = (s.modMat t (fun m => { m with wake := [] })).stepDone e.ctx e.step 1 1 e.tadv := by
  refine (if_pos h).trans ?_
  rw [one]
  rfl

/-- MMUL step `e` started, its first operand cycle `s0`. -/
def State.mmulStarted (s : State) (t : Nat) (e : MeStep) (s0 : Nat) : State :=
  let nw := (s.mat t).serve.length
  (s.modMat t (fun m => { m with
    queue := m.queue.erase e, rr := e.ctx % 4, headAt := Tab.set (fun _ => 0) m.headAt (e.ctx % 4) s0
    runs := m.runs ++ [{ st := e, s0 := s0, start := s0, nw := nw, gb := nw / max 1 (gaOf e.arr) }] })).takeUp t [rMECFG]

theorem exec_meStepStart_mmul {s : State} {tile : Fin 16} {e : MeStep} {s0 : Nat} (open_ : (s.hub tile).engines.contains 0 = true)
    (none_ : (s.mat tile).heads.find? (fun e => e.op == 1 && decide (e.entry ≤ s.cyc)) = none)
    (head : (s.mat tile).heads.find? (fun e => e.op == 0 && (match (s.mat tile).holder with | some q => e.ctx % 4 == q | none => true)) = some e)
    (entered : e.entry ≤ s.cyc) (follows : e.cont = true → (s.mat tile).res ≠ none ∨ (s.mat tile).runs ≠ [])
    (ungated : ∀ sl ∈ (s.mat tile).used e, sl ∈ (s.mat tile).ungated) (start : (s.mat tile).startCycle e s.cyc = some s0) :
    exec (.meStepStart tile) s = .next (s.mmulStarted tile e s0) := by
  have gated : ((s.mat tile).used e).filter (fun sl => !(s.mat tile).ungated.contains sl) = [] :=
    List.filter_eq_nil_iff.2 fun sl hsl => by rw [List.contains_iff_mem.2 (ungated sl hsl)]; decide
  show execMeStepStart tile s = _
  rw [execMeStepStart]
  refine next_congr ((if_neg (by rw [open_]; decide)).trans ?_)
  rw [none_]
  dsimp only
  split
  · next other => exact absurd (other.symm.trans head) (Option.some_ne_none e).symm
  next e' found =>
  obtain rfl : e' = e := Option.some.inj (found.symm.trans head)
  refine (if_neg (by omega)).trans ((if_neg ?_).trans ?_)
  · rintro ⟨cont, res, runs⟩
    rcases follows cont with h | h
    · exact h res
    · exact h runs
  · rw [gated, start]
    rfl

/-- A boundary of MECFG on tile `t`: in force as it is stored, registers as they are stored. -/
theorem State.takeUp_mecfg (s : State) (t : Nat) : SameRegs s (s.takeUp t [rMECFG]) ∧
    ∀ lo n, (s.takeUp t [rMECFG]).inForce t rMECFG lo n = s.cfg rMECFG lo n :=
  ⟨s.takeUp_sameRegs t _, fun lo n => (s.takeUp_inForce t [rMECFG] t rMECFG lo n (by decide) (by decide)).trans
    (if_pos ⟨rfl, List.mem_singleton.2 rfl⟩)⟩

theorem Keeps.sameRegs {L : List Field} {s t : State} (h : Keeps L s t) (hr : L.contains .regs = false) (hh : L.contains .half = false) :
    SameRegs s t := fun p off _ _ => h.reg_eq hr hh p off

theorem SameRegs.trans {s t u : State} (h : SameRegs s t) (g : SameRegs t u) : SameRegs s u := fun p off hp ho => (g p off hp ho).trans (h p off hp ho)

/-! ### A wave starts, and a cycle is held (08 R303, R306, R314) -/

/-- The last run `r` of tile `t` with its next wave begun. -/
def State.waveStarted (s : State) (t : Nat) (r : MeRun) (first : Tab (List (BitVec 8) × Bool)) : State :=
  s.modMat t (fun m => m.modLast (fun q => { q with
    wave := q.wave + 1, lastStart := s.cyc, start := s.cyc + max r.st.kc (r.pw r.wave)
    active := true, op := 0, todo := [], got := first, ahead := [], hit := [] }))

theorem exec_meWaveStart {s : State} {tile : Fin 16} {r : MeRun} {front : List MeRun} (runs : (s.mat tile).runs = front ++ [r])
    (more : r.wave < r.waves) (due : r.start ≤ s.cyc) (free : (s.mat tile).held s.cyc = false)
    (idle : ∀ q ∈ (s.mat tile).runs, q.active = false) (none_ : (s.mat tile).swapPos = none) :
    ∃ first, exec (.meWaveStart tile) s = .next (s.waveStarted tile r first) := by
  have last : (s.mat tile).runs.getLast? = some r := by rw [runs, List.getLast?_concat]
  have quiet : ¬ (s.mat tile).runs.any (fun r => r.active) = true := fun h => by
    obtain ⟨q, hq, active⟩ := List.any_eq_true.1 h
    exact Bool.false_ne_true ((idle q hq).symm.trans active)
  have stays (fresh : List Nat) : s.takeOver tile fresh = s := by
    rw [State.takeOver, none_]
  refine ⟨if r.wave = 0 then s.setupScales tile r else r.ahead, ?_⟩
  show execMeWaveStart tile s = _
  rw [execMeWaveStart]
  dsimp only
  rw [last]
  refine next_congr ((if_neg ?_).trans ?_)
  · rintro (h | h | h | h)
    · omega
    · omega
    · exact Bool.false_ne_true (free.symm.trans h)
    · exact quiet h
  · rw [stays, ite_self]
    rfl

/-- A word of the operand cycle that its bank refuses holds the streams for the cycle. -/
theorem State.meCycle_held {s : State} {t : Nat} {r : MeRun} (free : (s.mat t).held s.cyc = false)
    (active : (s.mat t).runs.find? (fun q => q.active) = some r)
    (refused : (grantWords [] (if r.todo = [] then r.words (s.mat t).chained t else r.todo)).2 ≠ []) :
    ((s.meCycle t).1.mat t).conflict = satNat 32 ((s.mat t).conflict + 1) ∧ ((s.meCycle t).1.mat t).runs =
      (s.mat t).runs.map (fun q => q.slip (grantWords [] (if r.todo = [] then r.words (s.mat t).chained t else r.todo)).2) := by
  unfold State.meCycle
  dsimp only
  rw [if_neg (by rw [free]; decide), active]
  dsimp only
  rw [if_pos refused, (Keeps.count ..).mat_eq rfl, State.mat_modMat]
  exact ⟨rfl, rfl⟩

/-! ### Panels enter the queue, and a step completes (08 R315, R318, R332) -/

theorem State.mmulDone_spec (s : State) (t : Nat) (r : MeRun) (pois : Bool) :
    (s.mmulDone t r pois).mat t = { s.mat t with runs := (s.mat t).runs.drop 1, eprev := s.cyc } ∧
    (∃ b, (s.mmulDone t r pois).ctx r.st.ctx =
      (({ s.ctx r.st.ctx with poison := b } : Ctx).advanced r.st.tadv s.cyc).finish (stepKey 1 0 r.st.step) ∧ (pois = true → b = true)) ∧
    (∀ lo n, (s.mmulDone t r pois).inForce t rMECFG lo n = s.cfg rMECFG lo n) ∧ SameRegs s (s.mmulDone t r pois) ∧ SameBanks s (s.mmulDone t r pois) := by
  unfold State.mmulDone
  extract_lets s1 s2
  have ended : Keeps [.me] s (s.modMat t (fun m => { m with runs := m.runs.drop 1, eprev := s.cyc })) := Keeps.modMat ..
  obtain ⟨regs, forced⟩ := (s.modMat t (fun m => { m with runs := m.runs.drop 1, eprev := s.cyc })).takeUp_mecfg t
  have taken : Keeps [.regs] _ s1 := Keeps.takeUp _ t [rMECFG]
  have noted : Keeps [.ctxs] s1 s2 := .ite (Keeps.notePoison ..) (.refl _ _)
  have done := noted.append (Keeps.stepDone s2 r.st.ctx r.st.step 1 0 r.st.tadv)
  refine ⟨?_, ?_, fun lo n => ?_, ?_, ?_⟩
  · rw [done.mat_eq rfl, taken.mat_eq rfl, State.mat_modMat]
  · have before : s1.ctx r.st.ctx = s.ctx r.st.ctx := (taken.ctx_eq rfl _).trans (ended.ctx_eq rfl _)
    have cyc : s2.cyc = s.cyc := (noted.same .cyc (by decide)).trans ((taken.same .cyc (by decide)).trans (ended.same .cyc (by decide)))
    have marked : ∃ b, s2.ctx r.st.ctx = { s.ctx r.st.ctx with poison := b } ∧ (pois = true → b = true) := by
      simp only [s2]
      split
      · exact ⟨true, by rw [State.notePoison, State.ctx_modCtx, before], fun _ => rfl⟩
      · next clean => exact ⟨_, by rw [before], fun bad => absurd bad clean⟩
    obtain ⟨b, ctx, poison⟩ := marked
    exact ⟨b, by rw [State.stepDone_ctx, ctx, cyc], poison⟩
  · rw [State.inForce, done.same .regs (by decide), done.same .half (by decide)]
    exact (forced lo n).trans (ended.cfg_eq rfl rfl _ _ _)
  · exact (ended.sameRegs rfl rfl).trans (SameRegs.trans regs (done.sameRegs rfl rfl))
  · exact ((ended.append taken).append done).sameBanks rfl rfl

/-- A completed step's context: outstanding no longer, its tally advanced, its poison kept. -/
theorem Ctx.finished_spec {x : Ctx} {b : Bool} {t : Option Nat} {cyc key : Nat} {y : Ctx}
    (h : y = (({ x with poison := b } : Ctx).advanced t cyc).finish key) :
    y.outst = x.outst.erase key ∧ (∀ k, y.tally k = x.tally k + (if t = some k then 1 else 0)) ∧ y.poison = b := by
  subst h
  refine ⟨?_, fun k => Ctx.tally_advanced ({ x with poison := b } : Ctx) t cyc k, ?_⟩
  · cases t <;> rfl
  · cases t <;> rfl

/-- Panel `p` of run `r` in its context's share, `more` waiting behind it. -/
def State.panelTaken (s : State) (t : Nat) (r : MeRun) (rest : List MeRun) (p : Panel) (more : List (Nat × Panel)) : State :=
  s.modMat t (fun m => { m with
    runs := { r with waiting := more, due := s.cyc + 1, poison := r.poison || p.poison } :: rest
    fpq := Tab.upd (fun _ => []) m.fpq p.ctx (fun l => l ++ [p]) })

theorem State.panelTaken_mat (s : State) (t : Nat) (r : MeRun) (rest : List MeRun) (p : Panel) (more : List (Nat × Panel)) :
    Tab.get (fun _ => []) ((s.panelTaken t r rest p more).mat t).fpq p.ctx = Tab.get (fun _ => []) (s.mat t).fpq p.ctx ++ [p] ∧
    ((s.panelTaken t r rest p more).mat t).runs = { r with waiting := more, due := s.cyc + 1, poison := r.poison || p.poison } :: rest := by
  rw [State.panelTaken, State.mat_modMat]
  exact ⟨Tab.get_upd_same (fun _ => []) (s.mat t).fpq p.ctx (fun l => l ++ [p]), rfl⟩

theorem exec_fpqPanelEntry {s : State} {tile : Fin 16} {r : MeRun} {rest : List MeRun} {n : Nat} {p : Panel} {more : List (Nat × Panel)}
    (runs : (s.mat tile).runs = r :: rest) (waiting : r.waiting = (n, p) :: more) (ready : n ≤ s.cyc) (due : r.due ≤ s.cyc)
    (room : (Tab.get (fun _ => []) (s.mat tile).fpq p.ctx).length < 16) : exec (.fpqPanelEntry tile) s = .next (
      if p.last then (s.panelTaken tile r rest p more).mmulDone tile
        { r with waiting := more, due := s.cyc + 1, poison := r.poison || p.poison } (r.poison || p.poison)
      else s.panelTaken tile r rest p more) := by
  show execFpqPanelEntry tile s = _
  rw [execFpqPanelEntry, runs]
  dsimp only
  rw [waiting]
  exact next_congr (if_neg (by omega))

theorem exec_mmulKeepCompletion {s : State} {tile : Fin 16} {r : MeRun} {rest : List MeRun} (runs : (s.mat tile).runs = r :: rest)
    (keep : r.st.keep = true) (waves : r.wave = r.waves) (quiet : r.active = false) (due : r.lastStart + r.st.kc + 260 ≤ s.cyc) :
    ∃ pois, exec (.mmulKeepCompletion tile) s = .next (s.mmulDone tile r pois) := by
  show ∃ pois, execMmulKeepCompletion tile s = .next (s.mmulDone tile r pois)
  rw [execMmulKeepCompletion, runs]
  dsimp only
  rw [if_pos ⟨keep, waves, quiet, due⟩]
  exact ⟨_, rfl⟩

/-- Settles O29: each event of the engine is a named change of its queue and runs; the completion of a step is the same one (`State.mmulDone`)
whether its last panel or its cycle E ends it. -/
theorem matrixStepsComplete : Obligations.MatrixStepsComplete := by
  unfold Obligations.MatrixStepsComplete
  refine ⟨?_, ?_, ?_, ?_, ?_, ?_, ?_, ?_, ?_⟩
  · intro s c w h
    refine .next (exec_mmul h) ⟨⟨{ s.meStep c w with step := (s.ctx c).next }, ?_, rfl, rfl, rfl, rfl, rfl, ?_, rfl, rfl, rfl⟩,
      h.meQueued _⟩
    · rw [State.meQueued_mat]
    · rfl
  · intro s c w h
    refine .next (exec_mwake h) ⟨⟨_, congrArg Matrix.queue (s.meQueued_mat _), rfl, rfl, rfl⟩, h.meQueued _⟩
  · intro s tile e open_ head awake none_
    have taken : (s.mwakeTaken tile e).mat tile = { s.mat tile with queue := (s.mat tile).queue.erase e, wake := [e] } := by
      rw [State.mwakeTaken, State.mat_modMat, none_]
      rfl
    have run := exec_meStepStart_mwake open_ head
    rw [Matrix.asleep_of_awake awake, List.map_nil, State.askWakes, List.foldl_nil,
      State.wakeDone_of_awake (by rw [taken]; exact awake) (by rw [taken])] at run
    have before : Keeps [.me] s ((s.mwakeTaken tile e).modMat tile (fun m => { m with wake := [] })) :=
      ((Keeps.modMat ..).append (Keeps.modMat ..)).mono rfl
    have done := Keeps.stepDone ((s.mwakeTaken tile e).modMat tile (fun m => { m with wake := [] })) e.ctx e.step 1 1 e.tadv
    have ctx := State.stepDone_ctx ((s.mwakeTaken tile e).modMat tile (fun m => { m with wake := [] })) e.ctx e.step 1 1 e.tadv
    rw [before.ctx_eq rfl] at ctx
    obtain ⟨outst, tally, -⟩ := Ctx.finished_spec (b := (s.ctx e.ctx).poison) ctx
    refine .next run ⟨?_, ?_, outst, tally, (before.append done).sameBanks rfl rfl⟩
    · rw [done.mat_eq rfl, State.mat_modMat, taken]
    · rw [done.mat_eq rfl, State.mat_modMat]
  · intro s tile e open_ head asleep
    have asks : Keeps [.hubs] (s.mwakeTaken tile e) ((s.mwakeTaken tile e).askWakes tile ((s.mat tile).asleep.map (fun sl => (2, sl)))) :=
      .foldl _ (fun _ _ => Keeps.enqueueWake ..) ..
    have taken : (s.mwakeTaken tile e).mat tile = { s.mat tile with queue := (s.mat tile).queue.erase e, wake := (s.mat tile).wake ++ [e] } :=
      State.mat_modMat ..
    have run := exec_meStepStart_mwake open_ head
    rw [State.wakeDone_of_asleep (by rw [asks.mat_eq rfl, taken]; exact asleep)] at run
    refine .next run ⟨?_, ?_, fun sl serves gated => ?_, ((Keeps.modMat ..).append asks).sameBanks rfl rfl⟩
    · rw [asks.mat_eq rfl, taken]
    · rw [asks.mat_eq rfl, taken]
    · refine State.askWakes_asked _ _ _ (List.mem_map_of_mem (List.mem_filter.2 ⟨serves, ?_⟩))
      simpa using gated
  · intro s tile e s0 open_ none_ head entered follows ungated start
    obtain ⟨regs, forced⟩ := State.takeUp_mecfg (s.modMat tile (fun m => { m with
      queue := m.queue.erase e, rr := e.ctx % 4, headAt := Tab.set (fun _ => 0) m.headAt (e.ctx % 4) s0
      runs := m.runs ++ [{ st := e, s0 := s0, start := s0, nw := (s.mat tile).serve.length, gb := (s.mat tile).serve.length / max 1 (gaOf e.arr) }] })) tile
    refine .next (exec_meStepStart_mmul open_ none_ head entered follows ungated start) ?_
    rw [State.mmulStarted, (Keeps.takeUp ..).mat_eq rfl, State.mat_modMat]
    exact ⟨rfl, rfl, ⟨_, rfl, rfl, rfl, rfl, rfl⟩, forced, regs, (Keeps.modMat ..).append (L := [.me]) (Keeps.takeUp ..) |>.mono rfl⟩
  · intro s tile r front runs more due free idle none_
    obtain ⟨first, run⟩ := exec_meWaveStart runs more due free idle none_
    refine .next run ?_
    rw [State.waveStarted, State.mat_modMat, Matrix.modLast, runs, List.getLast?_concat, List.dropLast_concat]
    exact ⟨⟨_, rfl, rfl, rfl, rfl, rfl, rfl, rfl, rfl⟩, rfl, Keeps.modMat ..⟩
  · intro s tile r i free active run refused
    obtain ⟨conflict, runs⟩ := State.meCycle_held free active refused
    have slips : r.slip (grantWords [] (if r.todo = [] then r.words (s.mat tile).chained tile else r.todo)).2 = _ := if_pos (List.find?_some active)
    have held : ((s.meCycle tile).1.mat tile).runs[i]? = _ := congrArg (·[i]?) runs
    rw [List.getElem?_map, run] at held
    exact ⟨conflict, _, held.trans (congrArg some slips), rfl, rfl, rfl, rfl⟩
  · intro s tile r rest n p more runs waiting ready due room
    obtain ⟨fpq, left⟩ := s.panelTaken_mat tile r rest p more
    have kept : Keeps [.me] s (s.panelTaken tile r rest p more) := Keeps.modMat ..
    have run := exec_fpqPanelEntry runs waiting ready due room
    cases last : p.last with
    | false =>
      rw [if_neg (by rw [last]; decide)] at run
      refine .next run ⟨fpq, fun _ => ⟨_, left, rfl, rfl⟩, fun h => absurd h Bool.false_ne_true, kept.sameRegs rfl rfl, kept.sameBanks rfl rfl⟩
    | true =>
      rw [if_pos last] at run
      obtain ⟨mat, ⟨b, ctx, poison⟩, forced, regs, banks⟩ := (s.panelTaken tile r rest p more).mmulDone_spec tile
        { r with waiting := more, due := s.cyc + 1, poison := r.poison || p.poison } (r.poison || p.poison)
      rw [kept.ctx_eq rfl] at ctx
      obtain ⟨outst, tally, marked⟩ := Ctx.finished_spec ctx
      refine .next run ⟨?_, fun h => absurd h.symm Bool.false_ne_true, fun _ => ⟨?_, outst, tally, fun lo m => ?_, fun bad => marked.trans (poison bad)⟩,
        (kept.sameRegs rfl rfl).trans regs, (kept.sameBanks rfl rfl).trans banks⟩
      · rw [mat, fpq]
      · rw [mat, left]
        rfl
      · rw [forced, kept.cfg_eq rfl rfl]
  · intro s tile r rest runs keep waves quiet due
    obtain ⟨pois, run⟩ := exec_mmulKeepCompletion runs keep waves quiet due
    obtain ⟨mat, ⟨b, ctx, -⟩, forced, regs, banks⟩ := s.mmulDone_spec tile r pois
    obtain ⟨outst, tally, -⟩ := Ctx.finished_spec ctx
    refine .next run ⟨?_, ?_, outst, tally, forced, regs, banks⟩
    · rw [mat, runs]
      rfl
    · rw [mat]

end Sys2Proof.Machine
end

section
/-! The near-bank sequencer (06 R239 to R257, R263 to R265; 11 R451, R462, R464). -/

namespace Sys2Proof.Machine

/-! ### A near-bank step enters its context's share (11 R451, R462) -/

/-- Near-bank step `e` of context `c` in its share, outstanding. -/
def State.nbQueued (s : State) (c w : Nat) (e : NbStep) : State :=
  ((s.issued c w).outstand c w (s.ctx c).next).modCtx c (fun x => { x with nbq := x.nbq ++ [e] })

theorem State.nbQueued_ctx (s : State) (c w : Nat) (e : NbStep) : (s.nbQueued c w e).ctx c = { (s.ctx c).afterIssue w s.seqCycle with
    outst := ((s.ctx c).afterIssue w s.seqCycle).outst ++ [stepKey (stepEng w) (stepOp w) (s.ctx c).next]
    nbq := ((s.ctx c).afterIssue w s.seqCycle).nbq ++ [e] } := by
  rw [State.nbQueued, State.ctx_modCtx, State.outstand_ctx, State.issued_ctx]

theorem exec_nbpass {s : State} {c : Fin 64} {w : Nat} (h : StepReady s c 4 0 w) :
    exec (.nbpass c) s = .next (s.nbQueued c w { (s.issued c w).nbStep c w with step := (s.ctx c).next }) :=
  next_congr (h.issue_eq rfl _)

/-! ### A pass begins, asks for the mode or finds its slot gone (06 R243, R252, R254) -/

/-- With a step at work nothing is taken from the share. -/
theorem State.nbBegin_of_run {s : State} {c : Nat} {r : NbRun} (run : (s.ctx c).nbrun = some r) : s.nbBegin c = s := by
  unfold State.nbBegin
  dsimp only
  rw [run]

section
variable {s : State} {ch : Fin 1536} {c : Fin 64} {entry : BitVec 16} {round : Fin 8} {cell span : BitVec 16} {r : NbRun} {e : Nat × Nat} {id : PassId}
  (same : id = { entry := entry.toNat, round := round, cell := cell.toNat, span := span.toNat }) (run : (s.ctx c).nbrun = some r)
  (found : r.entries.find? (fun e => e.1 == entry.toNat) = some e) (slots : 8 * round.val < r.st.b)
  (within : span.toNat < (s.passPlan ch r.st e.2 id).spans) (live : (s.ctx c).live = true)
include same run found slots within live

theorem exec_nbPass_stale {x : Nat × Nat} (stale : (s.passPlan ch r.st e.2 id).stale = some x) : exec (.nbPass ch c entry round cell span) s =
    .next ((match (s.ctx c).part with | some p => s.event p 3 [(16, 2, x.1), (20, 4, x.2)] | none => s).halt c 0x29 15 r.st.step) := by
  subst same
  show execNbPass ch c entry round cell span s = _
  rw [execNbPass]
  dsimp only
  rw [State.nbBegin_of_run run, run]
  dsimp only
  rw [found]
  refine next_congr ((if_neg ?_).trans ?_)
  · rintro (h | h | h)
    · exact absurd slots (Nat.not_lt.2 h)
    · exact absurd within (Nat.not_lt.2 h)
    · exact Bool.false_ne_true (h.symm.trans live)
  · rw [stale] <;> rfl

/-- A pass whose slot is on its tile goes on to ask for the channel. -/
theorem exec_nbPass_placed (stale : (s.passPlan ch r.st e.2 id).stale = none) (members : (s.passPlan ch r.st e.2 id).members ≠ [])
    (next : r.inOrder ch id (fun ro => ceilDiv (s.cargo c r.st.cargo).blocks (128 / pitchOf (min 8 (r.st.b - 8 * ro)))) = true) :
    exec (.nbPass ch c entry round cell span) s = .next (
      if (s.chan ch).mode ≠ .nearBank then s.askNbe ch c
      else if (s.chan ch).pass.isSome ∨ (s.chan ch).lock.isSome ∨ (s.chan ch).yield = true ∨ (s.chan ch).nbHold = true ∨
        (span.toNat = 0 ∧ (s.chan ch).needAcl ≠ []) then s
      else s.beginPass ch c r id (s.passPlan ch r.st e.2 id)) := by
  subst same
  show execNbPass ch c entry round cell span s = _
  rw [execNbPass]
  dsimp only
  rw [State.nbBegin_of_run run, run]
  dsimp only
  rw [found]
  refine next_congr ((if_neg ?_).trans ?_)
  · rintro (h | h | h)
    · exact absurd slots (Nat.not_lt.2 h)
    · exact absurd within (Nat.not_lt.2 h)
    · exact Bool.false_ne_true (h.symm.trans live)
  · rw [stale]
    refine if_neg ?_
    rintro (h | h)
    · exact members h
    · exact Bool.false_ne_true (h.symm.trans next)

end

theorem State.askNbe_chan (s : State) (ch c : Nat) : (∃ w ∈ ((s.askNbe ch c).chan ch).waitNbs, w.1 = 8 + c % 4) ∧
    ((s.askNbe ch c).chan ch).mode = (s.chan ch).mode ∧ ((s.askNbe ch c).chan ch).pass = (s.chan ch).pass := by
  unfold State.askNbe
  extract_lets who s1
  have kept : Keeps [.hubs] s1 (if (s.chan ch).yieldExit = true ∧ s.cyc ≤ (s.chan ch).nbxAt + 1600 then s1
    else s1.enqueueWake (tileOfChan ch) 1 (ch % 96)) := .ite (.refl _ _) (Keeps.enqueueWake ..)
  rw [kept.chan_eq rfl, State.chan_modChan]
  refine ⟨?_, rfl, rfl⟩
  show ∃ w ∈ (if (s.chan ch).waitNbs.any (fun w => w.1 == who) then (s.chan ch).waitNbs else (s.chan ch).waitNbs ++ [(who, s.cyc)]), _
  split
  · next waits =>
    obtain ⟨w, hw, is⟩ := List.any_eq_true.1 waits
    exact ⟨w, hw, beq_iff_eq.1 is⟩
  · exact ⟨(who, s.cyc), List.mem_append_right _ List.mem_cons_self, rfl⟩

theorem State.beginPass_spec (s : State) (ch c : Nat) (r : NbRun) (id : PassId) (pl : PassPlan) :
    ((s.beginPass ch c r id pl).chan ch).lock = some c ∧ ((s.beginPass ch c r id pl).chan ch).owner = some c ∧
    (∃ p : Pass, ((s.beginPass ch c r id pl).chan ch).pass = some p ∧ p.ctx = c ∧ p.step = r.st.step ∧ p.rowsDone = 0 ∧ p.abandon = false ∧
      p.banks.map Prod.fst = pl.members.map Member.bank) ∧
    (∃ q, ((s.beginPass ch c r id pl).ctx c).nbrun = some q ∧ (ch, id.entry, id.round, id.cell, id.span) ∈ q.begun) := by
  unfold State.beginPass
  extract_lets st t src p s0 woff member set clears qs beats one s1 s2 rec1 s3 bad taint s3' s4
  clear_value s3' beats woff
  rw [State.chan_modChan, (Keeps.modChan ..).ctx_eq rfl, State.ctx_modCtx]
  refine ⟨rfl, rfl, ⟨_, rfl, rfl, rfl, rfl, rfl, ?_⟩, _, rfl, List.mem_append_right _ List.mem_cons_self⟩
  rw [List.map_map]
  rfl

/-! ### Yield points (06 R239, R240, R269; 02 R56) -/

/-- Channel `c` at a yield point in cycle `now`: it leaves, or its pass goes on with an interval of `rows`. -/
def Channel.atYield (c : Channel) (leave : Bool) (now rows : Nat) : Channel := { c with
  yields := (c.yields + 1) % 65536, yield := leave, yieldAt := now + 1
  grant := if leave then none else c.grant.map (fun g => (g.1, g.2 + 1))
  waitNbs := match leave, c.pass with
    | true, some p => if p.abandon || c.waitNbs.any (fun w => w.1 == 8 + p.ctx % 4) then c.waitNbs else c.waitNbs ++ [(8 + p.ctx % 4, now)]
    | _, _ => c.waitNbs
  pass := c.pass.map (fun p : Pass => { p with yielded := p.yielded || p.yieldDue, interval := rows }) }

/-- The yield point of channel `ch` before map flips: its channel changed and NBCFG in force. -/
def State.atYield (s : State) (ch : Nat) : State :=
  (s.modChan ch (fun c => c.atYield (s.leavesAtYield ch) s.cyc (max 1 (s.cfg rNBCFG 0 4)))).takeUp ch [rNBCFG]

theorem State.atYield_keeps (s : State) (ch : Nat) : Keeps [.chans, .regs] s (s.atYield ch) := (Keeps.modChan ..).append (Keeps.takeUp ..)

theorem State.atYield_chan (s : State) (ch : Nat) :
    (s.atYield ch).chan ch = (s.chan ch).atYield (s.leavesAtYield ch) s.cyc (max 1 (s.cfg rNBCFG 0 4)) := by
  rw [State.atYield, (Keeps.takeUp ..).chan_eq rfl, State.chan_modChan]

theorem exec_yieldPoint {s : State} {ch : Fin 1536} {p : Pass} (mode : (s.chan ch).mode = .nearBank) (on : (s.chan ch).yield = false)
    (pass : (s.chan ch).pass = some p) (due : p.yieldDue = true) (still : s.computing ch = false)
    (may : s.leavesAtYield ch = true ∨ (s.stack (ch.val / 16)).half = false) :
    ∃ u v, exec (.yieldPoint ch) s = .next v ∧ Keeps [.pm] (s.atYield ch) u ∧ Keeps [.parts, .ports, .act, .out] (u.takeFlips ch) v := by
  have goes : ¬ (s.leavesAtYield ch = false ∧ (s.stack (ch / 16)).half = true) := by
    rintro ⟨stays, half⟩
    rcases may with leaves | full
    · exact Bool.false_ne_true (stays.symm.trans leaves)
    · exact Bool.false_ne_true (full.symm.trans half)
  show ∃ u v, execYieldPoint ch s = .next v ∧ _
  unfold execYieldPoint
  extract_lets c t part due' boundary repair hosts leave s1 s2
  have at_ : s1.takeUp ch [rNBCFG] = s.atYield ch := rfl
  have cond : c.mode = .nearBank ∧ c.yield = false ∧ (due' = true ∨ repair = true) ∧ s.computing ch = false := by
    refine ⟨mode, on, .inl ?_, still⟩
    simp only [due', c, pass, due, Bool.true_or]
  have counted : Keeps [.pm] (s.atYield ch) ((if leave then hosts else []).foldl (fun s q => s.count t 0x0A q.part 1)
      ((s1.takeUp ch [rNBCFG]).count t 0x09 part 1)) := by
    rw [at_]
    exact ((Keeps.count ..).append (.foldl _ (fun _ _ => Keeps.count ..) ..)).mono rfl
  rw [if_pos cond, if_neg goes]
  exact ⟨_, _, rfl, counted, .ite (Keeps.trace ..) (.refl _ _)⟩

theorem State.takeFlips_none {s : State} {ch : Nat} (none_ : (s.chan ch).flips = []) :
    s.takeFlips ch = s.modChan ch (fun c => { c with flips := [] }) := by
  rw [State.takeFlips, none_]
  rfl

theorem State.takeFlips_one {s : State} {ch f : Nat} (due : (s.chan ch).flips = [f])
    (alone : (s.modChan ch (fun c => { c with flips := [] })).chans.any (fun e : Nat × Channel => e.2.flips.contains f) = false) :
    s.takeFlips ch = (s.modChan ch (fun c => { c with flips := [] })).flipSlot f := by
  rw [State.takeFlips, due]
  exact if_neg (fun h => Bool.false_ne_true (alone.symm.trans h))

/-- The numbers listed above a number are greater. -/
theorem Tab.lt_of_above {α : Type} {t : Tab α} {j : Nat} (rising : Tab.above j t = true) {e : Nat × α} (h : e ∈ t) : j < e.1 := by
  induction t with
  | nil => exact absurd h List.not_mem_nil
  | cons x t ih =>
    obtain ⟨k, w⟩ := x
    simp only [Tab.above, Bool.and_eq_true, decide_eq_true_eq] at rising
    rcases List.mem_cons.1 h with rfl | later
    · exact rising.1
    · exact ih rising.2 later

/-- A listed entry of a table in canonical form is what the table reads. -/
theorem Tab.get_of_mem {α : Type} [DecidableEq α] {d : Nat → α} {t : Tab α} (wf : Tab.wf d t = true) {k : Nat} {v : α} (h : (k, v) ∈ t) :
    Tab.get d t k = v := by
  induction t with
  | nil => exact absurd h List.not_mem_nil
  | cons e t ih =>
    obtain ⟨j, w⟩ := e
    simp only [Tab.wf, Bool.and_eq_true] at wf
    obtain ⟨⟨-, rising⟩, rest⟩ := wf
    rcases List.mem_cons.1 h with first | later
    · cases first
      exact if_pos rfl
    · have greater := Tab.lt_of_above rising later
      exact (if_neg (by omega)).trans (ih rest later)

theorem State.wf_modChan {s : State} (wf : Tab.wf (fun _ => ({} : Channel)) s.chans = true) (ch : Nat) (f : Channel → Channel) :
    Tab.wf (fun _ => ({} : Channel)) (s.modChan ch f).chans = true := Tab.wf_upd (fun _ => {}) s.chans ch f wf

/-- A flip due on one channel alone is due on none once that one has taken it. -/
theorem State.flips_alone {s : State} {ch f : Nat} (wf : Tab.wf (fun _ => ({} : Channel)) s.chans = true) (alone : ∀ k, k ≠ ch → f ∉ (s.chan k).flips) :
    (s.modChan ch (fun c => { c with flips := [] })).chans.any (fun e : Nat × Channel => e.2.flips.contains f) = false := by
  refine List.any_eq_false.2 fun e he => ?_
  have reads : (s.modChan ch (fun c => { c with flips := [] })).chan e.1 = e.2 := Tab.get_of_mem (State.wf_modChan wf ..) he
  rw [← reads, List.contains_iff_mem]
  by_cases at_ : e.1 = ch
  · rw [at_, State.chan_modChan]
    exact List.not_mem_nil
  · rw [State.chan_modChan_ne _ _ _ _ at_]
    exact alone e.1 at_

/-! ### An abandoned pass (06 R257) -/

/-- Channel `c` with its pass abandoned in cycle `now`. -/
def Channel.abandoned (c : Channel) (now : Nat) : Channel := { c with
  pass := none, lock := none, yield := false, yieldExit := false, nbxAt := if c.mode = .nearBank then now else c.nbxAt
  mode := if c.mode = .nearBank then .leaving else c.mode
  banks := if c.mode = .nearBank then Tab.mapAll (fun _ => {}) (fun _ b => { b with compute := none, ahead := none, preAt := now }) c.banks else c.banks }

theorem exec_passAbandon {s : State} {ch : Fin 1536} {p : Pass} (pass : (s.chan ch).pass = some p) (dropped : p.abandon = true)
    (point : (s.chan ch).mode ≠ .nearBank ∨ (s.chan ch).yield = true ∨ p.rowsDone = 0 ∨ p.rows ≤ p.rowsDone ∨ p.yieldDue = true) :
    exec (.passAbandon ch) s = .next ((s.modChan ch (fun c => c.abandoned s.cyc)).takeFlips ch) := by
  show execPassAbandon ch s = _
  rw [execPassAbandon, pass]
  exact next_congr (if_pos ⟨dropped, point⟩)

theorem Channel.abandoned_mode (c : Channel) (now : Nat) : (c.abandoned now).mode ≠ .nearBank := by
  show (if c.mode = .nearBank then ChanMode.leaving else c.mode) ≠ .nearBank
  split
  · exact nofun
  · assumption

/-! ### Drains and the completion (06 R263 to R265; 11 R453, R464) -/

/-- What the drain of sum buffer `u` into `d` gives run `r`. -/
def SumBuf.drainTo (u : SumBuf) (d : DrainKey) (r : NbRun) : NbRun :=
  let vals := (List.range 64).map (fun l => (Tab.get (fun _ => {}) u.lanes l).drain u.int)
  { r with
    drains := r.drains ++ [{ key := d, lanes := vals.map Prod.fst, poison := u.pois || r.tainted.contains d }]
    poison := r.poison || u.pois || r.tainted.contains d
    sat := r.sat || vals.any Prod.snd }

theorem exec_cruDrain {s : State} {ch : Fin 1536} {buf : Fin 16} {d : DrainKey} (busy : (s.cru (ch.val * 16 + buf.val)).busy = true)
    (ready : (s.cru (ch.val * 16 + buf.val)).lastAt + 4 ≤ s.cyc) (dst : (s.cru (ch.val * 16 + buf.val)).dst = some d)
    (closed : s.drainOpen ch (some d) = false) : exec (.cruDrain ch buf) s = .next ((s.modCru (ch.val * 16 + buf.val) (fun _ => {})).modCtx d.ctx
      (fun x => { x with nbrun := x.nbrun.map ((s.cru (ch.val * 16 + buf.val)).drainTo d) })) := by
  show execCruDrain ch buf s = _
  rw [execCruDrain]
  dsimp only
  rw [dst]
  exact next_congr (if_pos ⟨busy, ready, closed⟩)

theorem exec_nbpassComplete {s : State} {c : Fin 64} {r : NbRun} (run : (s.ctx c).nbrun = some r) (live : (s.ctx c).live = true)
    (drained : (s.nbNeeds r).all (fun k => r.drains.any (fun d => d.key == k)) = true) :
    ∃ (u : State) (sat : Bool), exec (.nbpassComplete c) s = .next ((u.modCtx c (fun x => { x with
        nbrun := none, poison := x.poison || r.poison, sat := x.sat || r.sat || sat, range := x.range || r.range })).stepDone c r.st.step 4 0 r.st.tadv) ∧
      Keeps [.hubs, .sp, .spPois, .pm, .act] s u ∧ (s.nbNeeds r = [] → u.sp = s.sp) := by
  refine ⟨?u, ?sat, ?run, ?keeps, ?sp⟩
  case run =>
    show execNbpassComplete c s = _
    rw [execNbpassComplete]
    dsimp only
    rw [State.nbBegin_of_run run, run]
    dsimp only
    rw [if_pos ⟨live, drained⟩]
  case keeps =>
    simp (disch := decide) only [Keeps.nbTakes_iff]
    refine (Keeps.foldl_fst_iff _ _ _ _ fun p o => ?_).2 (.mono (.foldl _ (fun _ _ => Keeps.meshBytes ..) ..) rfl)
    refine (Keeps.foldl_fst_iff _ _ _ _ fun q l => ?_).2 (Keeps.refl ..)
    split <;> simp (disch := decide) only [Keeps.self_iff, Keeps.spWrite_iff]
  case sp =>
    intro none_
    simp only [none_, List.map_nil, List.dedup_nil, List.foldl_nil]
    rw [(Keeps.nbTakes ..).same .sp (by decide)]
    rfl

/-- Settles O31: each event of the near-bank sequencer is a named change of its channel, its context or its sum buffer; a map flip due on one
channel is made once that channel has taken it (`State.flips_alone`). -/
theorem nearBankStepsComplete : Obligations.NearBankStepsComplete := by
  unfold Obligations.NearBankStepsComplete
  refine ⟨?_, ?_, ?_, ?_, ?_, ?_, ?_, ?_, ?_⟩
  · intro s c w h
    have ctx := s.nbQueued_ctx c w { (s.issued c w).nbStep c w with step := (s.ctx c).next }
    refine .next (exec_nbpass h) ⟨⟨{ (s.issued c w).nbStep c w with step := (s.ctx c).next }, ?_, rfl, rfl, ?_, rfl, ?_, rfl⟩, ?_,
      issuedNext_of_ctx ?_ ?_ ?_, fun k _ => ?_, ?_⟩
    · rw [ctx]
      rfl
    · show (s.issued c w).cargoIndex c w = s.cargoIndex c w
      rw [State.cargoIndex, State.issued_areg, State.cargoIndex]
    · show (s.issued c w).sizeOf c w _ = s.sizeOf c w _
      rw [State.sizeOf, State.issued_xreg, State.sizeOf]
    · rw [ctx, h.isEng, h.isOp]
      rfl
    · rw [ctx]
    · rw [ctx]
      rfl
    · rw [ctx]
    · rw [State.xreg, ctx]
      rfl
    · exact (((Keeps.issued ..).append (Keeps.outstand ..)).append (Keeps.modCtx ..)).sameBanks rfl rfl
  · intro s ch c entry round cell span r e id same run found slots within live stale members next mode pass lock on hold clean
    refine .next (exec_nbPass_placed same run found slots within live stale members next) ?_
    rw [if_neg (not_not_intro mode), if_neg]
    · obtain ⟨locked, owner, began, noted⟩ := s.beginPass_spec ch c r id (s.passPlan ch r.st e.2 id)
      subst same
      exact ⟨locked, owner, began, noted, (Keeps.beginPass ..).sameBanks rfl rfl⟩
    · rintro (h | h | h | h | h)
      · exact Bool.false_ne_true ((congrArg Option.isSome pass).symm.trans h)
      · exact Bool.false_ne_true ((congrArg Option.isSome lock).symm.trans h)
      · exact Bool.false_ne_true (on.symm.trans h)
      · exact Bool.false_ne_true (hold.symm.trans h)
      · rcases clean with later | none_
        · exact later h.1
        · exact h.2 none_
  · intro s ch c entry round cell span r e id same run found slots within live stale members next mode
    refine .next (exec_nbPass_placed same run found slots within live stale members next) ?_
    rw [if_pos mode]
    obtain ⟨waits, sameMode, samePass⟩ := s.askNbe_chan ch c
    exact ⟨waits, sameMode, samePass, Keeps.askNbe ..⟩
  · intro s ch c entry round cell span r e id x same run found slots within live stale
    refine .next (exec_nbPass_stale same run found slots within live stale) ?_
    have told : Keeps [.parts, .pages, .ports, .act, .out] s
        (match (s.ctx c).part with | some p => s.event p 3 [(16, 2, x.1), (20, 4, x.2)] | none => s) := by
      split
      · exact Keeps.event ..
      · exact .refl _ _
    rw [State.halt_ctx _ _ _ _ _ (by rw [told.ctx_eq rfl]; exact live)]
    exact ⟨rfl, rfl, (told.append (Keeps.halt ..)).sameBanks rfl rfl⟩
  · intro s ch p f q mode on pass due still may flips wf alone moves
    obtain ⟨u, v, run, counted, traced⟩ := exec_yieldPoint mode on pass due still may
    have before := (s.atYield_keeps ch).append counted
    have chans : u.chans = (s.atYield ch).chans := counted.same .chans (by decide)
    have changed : (s.atYield ch).chans = (s.modChan ch (fun c => c.atYield (s.leavesAtYield ch) s.cyc (max 1 (s.cfg rNBCFG 0 4)))).chans :=
      (Keeps.takeUp ..).same .chans (by decide)
    have due_ : (u.chan ch).flips = [f] := by
      rw [counted.chan_eq rfl, State.atYield_chan]
      exact flips
    have wf' : Tab.wf (fun _ => ({} : Channel)) u.chans = true := by
      rw [chans, changed]
      exact State.wf_modChan wf ..
    have alone' (k : Nat) (hk : k ≠ ch) : f ∉ (u.chan k).flips := by
      rw [State.chan, chans, changed]
      show f ∉ ((State.modChan ..).chan k).flips
      rw [State.chan_modChan_ne _ _ _ _ hk]
      exact alone k hk
    refine .next run ?_
    rw [traced.slot_eq rfl rfl, State.takeFlips_one due_ (State.flips_alone wf' alone')]
    exact State.flipSlot_slot (by rw [(Keeps.modChan ..).slot_eq rfl rfl, before.slot_eq rfl rfl, moves])
  · intro s ch p mode on pass due still may flips
    obtain ⟨u, v, run, counted, traced⟩ := exec_yieldPoint mode on pass due still may
    have none_ : (u.chan ch).flips = [] := by
      rw [counted.chan_eq rfl, State.atYield_chan]
      exact flips
    rw [State.takeFlips_none none_] at traced
    have cleared : Keeps [.chans] u (u.modChan ch (fun c => { c with flips := [] })) := Keeps.modChan ..
    have later := (counted.append cleared).append traced
    have changed : Keeps [.chans] s (s.modChan ch (fun c => c.atYield (s.leavesAtYield ch) s.cyc (max 1 (s.cfg rNBCFG 0 4)))) := Keeps.modChan ..
    have chan : v.chan ch = { (s.chan ch).atYield (s.leavesAtYield ch) s.cyc (max 1 (s.cfg rNBCFG 0 4)) with flips := [] } := by
      rw [traced.chan_eq rfl, State.chan_modChan, counted.chan_eq rfl, State.atYield_chan]
    refine .next run ?_
    rw [chan]
    refine ⟨rfl, rfl, mode, ?_, fun lo n => ?_, ?_, ((s.atYield_keeps ch).append later).sameBanks rfl rfl⟩
    · show ∃ q, Option.map _ (s.chan ch).pass = some q ∧ _
      rw [pass]
      exact ⟨_, rfl, by simp [due], rfl, rfl⟩
    · rw [State.inForce, later.same .regs (by decide), later.same .half (by decide)]
      exact (State.takeUp_inForce _ ch [rNBCFG] ch rNBCFG lo n (by decide) (by decide)).trans
        ((if_pos ⟨rfl, List.mem_singleton.2 rfl⟩).trans (changed.cfg_eq rfl rfl _ _ _))
    · exact (changed.sameRegs rfl rfl).trans (SameRegs.trans (State.takeUp_sameRegs _ _ _) (later.sameRegs rfl rfl))
  · intro s ch p pass dropped point flips
    have none_ : ((s.modChan ch (fun c => c.abandoned s.cyc)).chan ch).flips = [] := by
      rw [State.chan_modChan]
      exact flips
    have run := exec_passAbandon pass dropped point
    rw [State.takeFlips_none none_] at run
    refine .next run ?_
    rw [State.chan_modChan, State.chan_modChan]
    exact ⟨rfl, rfl, (s.chan ch).abandoned_mode s.cyc, rfl, ((Keeps.modChan ..).append (Keeps.modChan ..)).sameBanks rfl rfl⟩
  · intro s ch buf d r busy ready dst closed run
    refine .next (exec_cruDrain busy ready dst closed) ⟨?_, ⟨(s.cru (ch.val * 16 + buf.val)).drainTo d r, _, ?_, rfl, rfl, fun l hl => ?_, fun bad => ?_⟩,
      (Keeps.modCru ..).append (Keeps.modCtx ..)⟩
    · rw [(Keeps.modCtx ..).cru_eq rfl, State.cru_modCru]
    · rw [State.ctx_modCtx, (Keeps.modCru ..).ctx_eq rfl, run]
      rfl
    · simp [List.getD, hl]
    · simp [bad]
  · intro s c r run live drained own
    obtain ⟨u, sat, completes, kept, nothing⟩ := exec_nbpassComplete run live drained
    have noted : Keeps [.ctxs] u (u.modCtx c (fun x => { x with
        nbrun := none, poison := x.poison || r.poison, sat := x.sat || r.sat || sat, range := x.range || r.range })) := Keeps.modCtx ..
    have done := Keeps.stepDone (u.modCtx c (fun x => { x with
        nbrun := none, poison := x.poison || r.poison, sat := x.sat || r.sat || sat, range := x.range || r.range })) c r.st.step 4 0 r.st.tadv
    have ctx := State.stepDone_ctx (u.modCtx c (fun x => { x with
        nbrun := none, poison := x.poison || r.poison, sat := x.sat || r.sat || sat, range := x.range || r.range })) c r.st.step 4 0 r.st.tadv
    rw [State.ctx_modCtx, kept.ctx_eq rfl] at ctx
    refine .next completes ?_
    rw [ctx]
    refine ⟨?_, ?_, fun k => ?_, fun bad => ?_, fun none_ => ?_, ((kept.append noted).append done).sameBanks rfl rfl⟩
    · cases r.st.tadv <;> rfl
    · cases r.st.tadv <;> rfl
    · exact Ctx.tally_advanced ..
    · cases r.st.tadv <;> simp [Ctx.advanced, Ctx.finish, bad]
    · rw [(noted.append done).same .sp (by decide), nothing none_]

end Sys2Proof.Machine
end

section
/-! Global operations: instances that grow and end, and the halts of their participants (16 R626 to R631). -/

namespace Sys2Proof.Machine

/-! ### Instances (16 R628 to R630) -/

theorem Keeps.inst_eq {L : List Field} {s t : State} (h : Keeps L s t) (hL : L.contains .groups = false) (g k : Nat) : t.inst g k = s.inst g k := by
  rw [State.inst, h.group_eq hL, State.inst]

theorem State.inst_k {s : State} {g k : Nat} {i : Inst} (h : s.inst g k = some i) : i.k = k :=
  beq_iff_eq.1 (List.find?_some (p := fun i : Inst => i.k == k) h)

/-- A change of round `k` of a group, one occurrence of its operation (R627), that keeps its number. -/
theorem State.inst_modInst (s : State) (g k : Nat) (f : Inst → Inst) (hf : ∀ i, i.k = k → (f i).k = k) :
    (s.modInst g k f).inst g k = (s.inst g k).map f := by
  unfold State.inst State.modInst
  rw [State.group_modGroup]
  show ((s.group g).insts.map _).find? _ = _
  rw [List.find?_map]
  have same : ((fun i : Inst => i.k == k) ∘ fun i => if i.k = k then f i else i) = fun i => i.k == k := by
    funext i
    by_cases h : i.k = k <;> simp [h, hf]
  rw [same]
  cases found : (s.group g).insts.find? (fun i => i.k == k) with
  | none => rfl
  | some i => exact congrArg some (if_pos (beq_iff_eq.1 (List.find?_some (p := fun i : Inst => i.k == k) found)))

/-- A round that begins. -/
theorem State.inst_begun {s : State} {g : Nat} {i : Inst} (none_ : s.inst g i.k = none) :
    (s.modGroup g (fun x => { x with insts := x.insts ++ [i] })).inst g i.k = some i := by
  rw [State.inst] at none_
  rw [State.inst, State.group_modGroup]
  show List.find? _ ((s.group g).insts ++ [i]) = _
  rw [List.find?_append, none_]
  simp

/-- What a round keeps as it moves on. -/
structure Inst.Grown (i j : Inst) : Prop where
  /-- its participants -/
  ctxs : j.ctxs = i.ctxs
  /-- its saturation -/
  sat : i.sat = true → j.sat = true
  /-- the partials heard -/
  parts : ∀ p ∈ i.parts, p ∈ j.parts
  /-- its result -/
  result : ∀ r, i.result = some r → j.result = some r

theorem Inst.Grown.refl (i : Inst) : i.Grown i := ⟨rfl, id, fun _ h => h, fun _ h => h⟩

theorem Inst.Grown.trans {i j l : Inst} (h : i.Grown j) (g : j.Grown l) : i.Grown l :=
  ⟨g.ctxs.trans h.ctxs, fun b => g.sat (h.sat b), fun p hp => g.parts p (h.parts p hp), fun r hr => g.result r (h.result r hr)⟩

/-- Instance `k` of group `g`, where there is one, is still there and keeps what it had. -/
structure State.InstGrown (s t : State) (g k : Nat) : Prop where
  /-- the round after -/
  grown : ∀ i, s.inst g k = some i → ∃ j, t.inst g k = some j ∧ i.Grown j

theorem State.InstGrown.refl (s : State) (g k : Nat) : s.InstGrown s g k := ⟨fun i h => ⟨i, h, .refl i⟩⟩

theorem State.InstGrown.trans {s t u : State} {g k : Nat} (h : s.InstGrown t g k) (h' : t.InstGrown u g k) : s.InstGrown u g k := ⟨fun i hi =>
  have ⟨j, hj, grown⟩ := h.grown i hi
  have ⟨l, hl, grown'⟩ := h'.grown j hj
  ⟨l, hl, grown.trans grown'⟩⟩

theorem State.InstGrown.keeps {L : List Field} {s t : State} (h : Keeps L s t) (hL : L.contains .groups = false) (g k : Nat) : s.InstGrown t g k :=
  ⟨fun i hi => ⟨i, (h.inst_eq hL g k).trans hi, .refl i⟩⟩

/-- A change of the round that keeps what it had. -/
theorem State.InstGrown.modInst {s : State} {g k : Nat} {i : Inst} (h : s.inst g k = some i) {f : Inst → Inst} (hf : ∀ i, i.k = k → (f i).k = k)
    (grown : i.Grown (f i)) : s.InstGrown (s.modInst g k f) g k := by
  refine ⟨fun j hj => ?_⟩
  cases h.symm.trans hj
  exact ⟨f i, by rw [s.inst_modInst g k f hf, h]; rfl, grown⟩

theorem State.makePart_grown (s : State) (g k : Nat) : s.InstGrown (s.makePart g k) g k := by
  unfold State.makePart
  extract_lets gr
  split
  · next i found =>
    split
    · have number : i.k = k := State.inst_k found
      extract_lets p j s1
      have made : s.InstGrown s1 g k := .modInst (f := fun _ => j) found (fun _ _ => number)
        ⟨rfl, fun h => by simp only [j, h, Bool.true_or], fun _ h => List.mem_append_left _ h, fun _ h => h⟩
      have sends (st : Nat) (res : Bool) (d : Strip) : s1.InstGrown (s1.sendAll g j st res d) g k := .keeps (Keeps.sendAll ..) rfl g k
      split
      · exact made
      · split
        · split
          · exact made.trans (sends ..)
          · exact made
        · exact made.trans (sends ..)
    · exact .refl ..
  · exact .refl ..

theorem State.settle_grown (s : State) (g k : Nat) : s.InstGrown (s.settle g k) g k := by
  unfold State.settle
  extract_lets gr
  split
  · exact .refl ..
  next i found =>
  split
  · exact .refl ..
  next open_ =>
  have fresh (r : Strip) : i.result ≠ some r := fun h => open_ (.inr (by rw [h]; rfl))
  have number : i.k = k := State.inst_k found
  extract_lets ms part have_ r kids t j s1
  have summed : i.Grown j := ⟨rfl, fun h => by simp only [j, h, Bool.true_or], fun _ h => h, fun _ h => h⟩
  have given (x : Option Strip) : i.Grown { i with result := x } := ⟨rfl, id, fun _ h => h, fun r h => absurd h (fresh r)⟩
  have summedGiven (x : Option Strip) : i.Grown { j with result := x } := ⟨rfl, summed.sat, fun _ h => h, fun r h => absurd h (fresh r)⟩
  split
  · split
    · exact .refl ..
    · split
      · have made : s.InstGrown s1 g k := .modInst found (fun _ _ => number) (summedGiven (some t.1))
        split
        · exact made.trans (.keeps (Keeps.sendAll ..) rfl g k)
        · exact made
      · exact (State.InstGrown.modInst (f := fun _ => j) found (fun _ _ => number) summed).trans (.keeps (Keeps.sendPart ..) rfl g k)
  · split
    · split
      · exact .modInst found (fun _ h => h) (given _)
      · exact .refl ..
    · split
      · exact .modInst found (fun _ h => h) (given _)
      · exact .refl ..

theorem State.advanceInst_grown (s : State) (g k : Nat) : s.InstGrown (s.advanceInst g k) g k := 
  (s.makePart_grown g k).trans ((s.makePart g k).settle_grown g k)

/-! ### A global step joins its round (16 R627, R628, R631) -/

/-- Step `q` in its context, the context's count past its round. -/
def State.joining (s : State) (c : Nat) (q : GStep) : State :=
  s.modCtx c (fun x => { x with gq := some q, ginst := Tab.set (fun _ => 0) x.ginst q.group (q.inst + 1) })

/-- The round that step `q` of context `c` begins. -/
def GStep.begins (q : GStep) (c now : Nat) : Inst :=
  { k := q.inst, op := q.op, scope := q.scope, rtype := q.rtype, bytes := q.bytes, ctxs := [c], firstAt := now }

theorem GlobalFits.of_eq {s t : State} {c : Nat} {q : GStep} (groups : t.groups = s.groups) (boot : t.boot = s.boot)
    (part : (t.ctx c).part = (s.ctx c).part) : GlobalFits t c q ↔ GlobalFits s c q := by
  have group : t.group q.group = s.group q.group := by rw [State.group, groups, State.group]
  have inst : t.inst q.group q.inst = s.inst q.group q.inst := by rw [State.inst, group, State.inst]
  have bad : t.globalBad c q = s.globalBad c q := by simp only [State.globalBad, group, boot, part]
  constructor
  · rintro ⟨good, alive, agrees⟩
    exact ⟨bad ▸ good, group ▸ alive, inst ▸ agrees⟩
  · rintro ⟨good, alive, agrees⟩
    exact ⟨bad ▸ good, group ▸ alive, inst ▸ agrees⟩

section
variable {s : State} {c : Nat} {q : GStep}

theorem State.joinGlobal_fails (h : ¬ GlobalFits s c q) : s.joinGlobal c q = (s.joining c q).halt c 0x30 15 q.step := by
  unfold State.joinGlobal
  extract_lets s1
  split
  · rfl
  next fine =>
  rw [not_or, Bool.not_eq_true, Bool.not_eq_true] at fine
  obtain ⟨good, alive⟩ := fine
  split
  · next i found =>
    refine if_neg fun agrees => h ⟨good, alive, .inr ⟨i, found, agrees⟩⟩
  · next none_ => exact absurd ⟨good, alive, .inl none_⟩ h

/-- A step that fits joins a round that it begins or meets, which then moves on. -/
theorem State.joinGlobal_fits (h : GlobalFits s c q) : ∃ u, s.joinGlobal c q = u.advanceInst q.group q.inst ∧ Keeps [.groups] (s.joining c q) u ∧
    ∃ i, u.inst q.group q.inst = some i ∧ c ∈ i.ctxs := by
  obtain ⟨good, alive, agrees⟩ := h
  have kept (g k : Nat) : (s.joining c q).inst g k = s.inst g k := (show Keeps [.ctxs] s (s.joining c q) from Keeps.modCtx ..).inst_eq rfl g k
  unfold State.joinGlobal
  extract_lets s1
  rw [if_neg (by rw [good, alive]; decide)]
  rcases agrees with none_ | ⟨i, found, same⟩
  · rw [none_]
    refine ⟨_, rfl, Keeps.modGroup .., q.begins c s.cyc, ?_, List.mem_cons_self⟩
    exact State.inst_begun (s := s.joining c q) (i := q.begins c s.cyc) ((kept ..).trans none_)
  · rw [found]
    refine ⟨_, if_pos same, Keeps.modInst .., { i with ctxs := c :: i.ctxs }, ?_, List.mem_cons_self⟩
    have met := s1.inst_modInst q.group q.inst (fun i => { i with ctxs := c :: i.ctxs }) (fun _ h => h)
    exact met.trans (congrArg (Option.map _) ((kept ..).trans found))

end

/-! ### Halts of many contexts (16 R631) -/

/-- A context in the list of contexts to halt, within the fuel, halts with the list's reason. -/
theorem State.haltMany_halts {c : Nat} (n : Nat) (hs : List (Nat × Nat × Nat × Nat)) (s : State) (reasons : ∀ e ∈ hs, e.2.1 = 0x30)
    (listed : ∃ j < n, ∃ e, hs[j]? = some e ∧ e.1 = c) (live : (s.ctx c).live = true) :
    ((State.haltMany n hs s).ctx c).st = .halted ∧ ((State.haltMany n hs s).ctx c).reason = 0x30 := by
  induction n generalizing hs s with
  | zero =>
    obtain ⟨j, hj, -⟩ := listed
    exact absurd hj (Nat.not_lt_zero j)
  | succ n ih =>
    obtain ⟨j, hj, e, found, is⟩ := listed
    cases hs with
    | nil => exact nomatch found
    | cons x hs =>
      obtain ⟨d, reason, fld, step⟩ := x
      obtain rfl : reason = 0x30 := reasons _ List.mem_cons_self
      rw [State.haltMany]
      by_cases own : d = c
      · subst own
        have halted : (((s.failMeets d).haltOne d 0x30 fld step).ctx d) = (s.ctx d).haltedAt 0x30 fld step := by
          rw [State.haltOne_ctx _ _ _ _ _ (by rwa [State.failMeets_ctx]), State.failMeets_ctx]
        rw [if_pos live, State.haltMany_ctx_of_dead _ _ _ _ (by rw [halted]; rfl), halted]
        exact ⟨rfl, rfl⟩
      · have later : ∃ k < n, ∃ e, hs[k]? = some e ∧ e.1 = c := by
          cases j with
          | zero => exact absurd ((congrArg Prod.fst (Option.some.inj found)).trans is) own
          | succ k => exact ⟨k, Nat.lt_of_succ_lt_succ hj, e, found, is⟩
        split
        · obtain ⟨k, hk, e, found, is⟩ := later
          have other : ((s.failMeets d).haltOne d 0x30 fld step).ctx c = s.ctx c := by
            rw [State.haltOne_ctx_ne _ _ _ _ _ _ (Ne.symm own), State.failMeets_ctx]
          refine ih _ _ (fun x hx => ?_) ⟨k, hk, e, ?_, is⟩ (by rw [other]; exact live)
          · rcases List.mem_append.1 hx with hx | hx
            · exact reasons x (List.mem_cons_of_mem _ hx)
            · obtain ⟨d, -, rfl⟩ := List.mem_map.1 hx
              rfl
          · rw [List.getElem?_append_left (List.getElem?_eq_some_iff.1 found).1]
            exact found
        · exact ih _ _ (fun x hx => reasons x (List.mem_cons_of_mem _ hx)) later live

/-- Contexts of a short list halt. -/
theorem State.haltMany_map {cs : List Nat} {c : Nat} (step : Nat → Nat) (s : State) (short : cs.length ≤ 64) (listed : c ∈ cs)
    (running : (s.ctx c).st = .running) : ((State.haltMany 4096 (cs.map (fun c => (c, 0x30, 15, step c))) s).ctx c).st = .halted ∧
      ((State.haltMany 4096 (cs.map (fun c => (c, 0x30, 15, step c))) s).ctx c).reason = 0x30 := by
  obtain ⟨j, found⟩ := List.mem_iff_getElem?.1 listed
  have bound := (List.getElem?_eq_some_iff.1 found).1
  refine State.haltMany_halts _ _ _ (fun e he => ?_) ⟨j, by omega, _, by rw [List.getElem?_map, found]; rfl, rfl⟩ (Ctx.live_of_running running)
  obtain ⟨d, -, rfl⟩ := List.mem_map.1 he
  rfl

/-- Instances of group `g` only end, and those that failed stay so. -/
structure MeetsEnd (g : Nat) (s t : State) : Prop where
  /-- none begins -/
  insts : ∀ i ∈ (t.group g).insts, i ∈ (s.group g).insts
  /-- those that failed -/
  failed : ∀ k ∈ (s.group g).failed, k ∈ (t.group g).failed

theorem MeetsEnd.refl (g : Nat) (s : State) : MeetsEnd g s s := ⟨fun _ h => h, fun _ h => h⟩

theorem MeetsEnd.trans {g : Nat} {s t u : State} (h : MeetsEnd g s t) (h' : MeetsEnd g t u) : MeetsEnd g s u :=
  ⟨fun i hi => h.insts i (h'.insts i hi), fun k hk => h'.failed k (h.failed k hk)⟩

theorem MeetsEnd.keeps {L : List Field} {g : Nat} {s t : State} (h : Keeps L s t) (hL : L.contains .groups = false) : MeetsEnd g s t := by
  have group := h.group_eq hL g
  exact ⟨fun i hi => group ▸ hi, fun k hk => group ▸ hk⟩

theorem State.failMeets_meetsEnd (s : State) (c g : Nat) : MeetsEnd g s (s.failMeets c) := by
  unfold State.failMeets
  generalize s.meets c = es
  induction es generalizing s with
  | nil => exact .refl ..
  | cons e es ih =>
    refine MeetsEnd.trans ?_ (ih _)
    refine MeetsEnd.trans ?_ (.keeps (Keeps.tellFailed ..) rfl)
    by_cases own : g = e.1
    · subst own
      constructor
      · rw [State.group_modGroup]
        exact fun i hi => (List.mem_filter.1 hi).1
      · rw [State.group_modGroup]
        exact fun k hk => List.mem_append_left _ hk
    · have same := State.group_modGroup_ne s e.1 g (fun g =>
        { g with failed := g.failed ++ (e.2.insts.filter (fun i => !i.done.contains c)).map (fun i => i.k)
                 insts := g.insts.filter (fun i => i.done.contains c) }) own
      exact ⟨fun i hi => same ▸ hi, fun k hk => same ▸ hk⟩

theorem State.haltMany_meetsEnd (g n : Nat) (hs : List (Nat × Nat × Nat × Nat)) (s : State) : MeetsEnd g s (State.haltMany n hs s) := by
  induction n generalizing hs s with
  | zero => exact .refl ..
  | succ n ih =>
    cases hs with
    | nil => exact .refl ..
    | cons e hs =>
      obtain ⟨c, reason, fld, step⟩ := e
      rw [State.haltMany]
      split
      · exact (s.failMeets_meetsEnd c g).trans ((MeetsEnd.keeps (Keeps.haltOne ..) rfl).trans (ih ..))
      · exact ih ..

/-- Instance `k` of group `g` recorded as failed and gone. -/
def State.instFailed (s : State) (g k : Nat) : State :=
  s.modGroup g (fun x => { x with failed := k :: x.failed, insts := x.insts.filter (fun i => i.k != k) })

theorem State.instFailed_group {s t : State} {g k : Nat} (h : MeetsEnd g (s.instFailed g k) t) :
    (∀ j ∈ (t.group g).insts, j.k ≠ k) ∧ (t.group g).failed.contains k = true := by
  have group := State.group_modGroup s g (fun x => { x with failed := k :: x.failed, insts := x.insts.filter (fun i => i.k != k) })
  constructor
  · intro j hj
    have kept := h.insts j hj
    rw [State.instFailed, group] at kept
    exact bne_iff_ne.1 (List.mem_filter.1 kept).2
  · refine List.contains_iff_mem.2 (h.failed k ?_)
    rw [State.instFailed, group]
    exact List.mem_cons_self

theorem State.failInst_spec (s : State) (g k : Nat) : ((s.failInst g k).group g).failed.contains k = true ∧
    ∀ c ∈ (s.group g).locals, (s.ctx c).st = .running → ((s.failInst g k).ctx c).st = .halted ∧ ((s.failInst g k).ctx c).reason = 0x30 := by
  refine ⟨(State.instFailed_group (State.haltMany_meetsEnd ..)).2, fun c hc running => ?_⟩
  refine State.haltMany_map (fun c => ((s.instFailed g k).ctx c).globalStep) _ ((List.length_filter_le ..).trans (List.length_range).le) ?_ running
  rw [State.group_modGroup]
  exact hc

end Sys2Proof.Machine
end

section
/-! Global operations: issue, completion, messages and time-outs (16 R626 to R631; 11 R449, R453). -/

namespace Sys2Proof.Machine

/-! ### A global step issued (11 R449, R450) -/

section
variable {s : State} {c op w : Nat} {q : GStep}

/-- The state in which the global unit meets step `w` of context `c`: issued and outstanding. -/
def State.globalIssued (s : State) (c w : Nat) : State := (s.issued c w).outstand c w (s.ctx c).next

theorem State.globalIssued_keeps (s : State) (c w : Nat) : Keeps [.ctxs, .parts, .ports, .pm, .act, .out] s (s.globalIssued c w) :=
  ((Keeps.issued ..).append (Keeps.outstand ..)).mono rfl

theorem State.globalIssued_ctx (s : State) (c w : Nat) : (s.globalIssued c w).ctx c = { (s.ctx c).afterIssue w s.seqCycle with
    outst := ((s.ctx c).afterIssue w s.seqCycle).outst ++ [stepKey (stepEng w) (stepOp w) (s.ctx c).next] } := by
  rw [State.globalIssued, State.outstand_ctx, State.issued_ctx]

theorem State.issueGlobal_ready (h : GlobalNext s c op w q) : s.issueGlobal c op = (s.globalIssued c w).joinGlobal c q := by
  rw [State.issueGlobal, h.ready.issue_eq rfl, ← h.step]
  rfl

theorem GlobalFits.issued : GlobalFits (s.globalIssued c w) c q ↔ GlobalFits s c q :=
  GlobalFits.of_eq ((s.globalIssued_keeps c w).same .groups (by decide)) ((s.globalIssued_keeps c w).same .boot (by decide))
    (by rw [State.globalIssued_ctx]; rfl)

/-- A step that fits has joined its round. -/
theorem GlobalNext.joined (h : GlobalNext s c op w q) (fits : GlobalFits s c q) : GlobalJoined c op w q s (s.issueGlobal c op) := by
  rw [State.issueGlobal_ready h]
  obtain ⟨u, joins, entered, i, met, takes⟩ := State.joinGlobal_fits (GlobalFits.issued.2 fits)
  rw [joins]
  have joining : Keeps [.ctxs] (s.globalIssued c w) ((s.globalIssued c w).joining c q) := Keeps.modCtx ..
  have later := entered.append (Keeps.advanceInst u q.group q.inst)
  have ctx : (u.advanceInst q.group q.inst).ctx c = { (s.globalIssued c w).ctx c with
      gq := some q, ginst := Tab.set (fun _ => 0) ((s.globalIssued c w).ctx c).ginst q.group (q.inst + 1) } := by
    rw [later.ctx_eq rfl]
    exact State.ctx_modCtx ..
  rw [State.globalIssued_ctx] at ctx
  have inst : q.inst = Tab.get (fun _ => 0) (s.ctx c).ginst q.group := by
    rw [h.step, State.globalStep, State.issued_ctx]
    rfl
  obtain ⟨j, moved, grown⟩ := (u.advanceInst_grown q.group q.inst).grown i met
  refine ⟨?_, ?_, ?_, ?_, ?_, ⟨j, moved, grown.ctxs ▸ takes⟩, ?_, issuedNext_of_ctx ?_ ?_ ?_, fun k _ => ?_, ?_, ?_⟩
  · rw [ctx]
  · rw [h.step]
    exact h.ready.isOp
  · rw [h.step]
    rfl
  · rw [h.step]
    rfl
  · rw [ctx, ← inst]
    exact Tab.get_set_same (fun _ => 0) (s.ctx c).ginst q.group (q.inst + 1)
  · rw [ctx, h.ready.isEng, h.ready.isOp]
    rfl
  · rw [ctx]
  · rw [ctx]
    rfl
  · rw [ctx]
  · rw [State.xreg, ctx]
    rfl
  · rw [ctx]
    exact h.ready.running
  · exact (((s.globalIssued_keeps c w).append joining).append later).sameBanks rfl rfl

/-- A step that does not fit halts its context. -/
theorem GlobalNext.halts (h : GlobalNext s c op w q) (misfit : ¬ GlobalFits s c q) : ((s.issueGlobal c op).ctx c).st = .halted ∧
    ((s.issueGlobal c op).ctx c).reason = 0x30 ∧ ((s.issueGlobal c op).ctx c).hstep = (s.ctx c).next ∧ SameBanks s (s.issueGlobal c op) := by
  rw [State.issueGlobal_ready h, State.joinGlobal_fails (fun fits => misfit (GlobalFits.issued.1 fits))]
  have joining : Keeps [.ctxs] (s.globalIssued c w) ((s.globalIssued c w).joining c q) := Keeps.modCtx ..
  have running : (((s.globalIssued c w).joining c q).ctx c).st = .running := by
    rw [State.joining, State.ctx_modCtx, State.globalIssued_ctx]
    exact h.ready.running
  rw [State.halt_ctx _ _ _ _ _ (Ctx.live_of_running running)]
  refine ⟨rfl, rfl, ?_, (((s.globalIssued_keeps c w).append joining).append (Keeps.halt ..)).sameBanks rfl rfl⟩
  show q.step = _
  rw [h.step]
  rfl

end

/-! ### A global operation completes (16 R629, R630; 11 R453) -/

/-- The result of step `q` in its DST, where it has one and is a broadcast or a reduction. -/
def State.globalWritten (s : State) (c : Nat) (q : GStep) (r : Strip) : State :=
  match q.op, q.dst with
  | 1, some o => s.unpackOperand (tileOfCtx c) o r
  | 2, some o => s.unpackOperand (tileOfCtx c) o r
  | _, _ => s

theorem State.globalWritten_some {s : State} {c : Nat} {q : GStep} {r : Strip} {o : Operand} (dst : q.dst = some o) (op : q.op = 1 ∨ q.op = 2) :
    s.globalWritten c q r = s.unpackOperand (tileOfCtx c) o r := by
  unfold State.globalWritten
  rcases op with op | op
  · rw [op, dst]
    rfl
  · rw [op, dst]
    rfl

theorem State.globalWritten_none {s : State} {c : Nat} {q : GStep} {r : Strip} (h : q.dst = none ∨ (q.op ≠ 1 ∧ q.op ≠ 2)) :
    s.globalWritten c q r = s := by
  unfold State.globalWritten
  split
  · next op dst =>
    rcases h with h | h
    · exact nomatch h.symm.trans dst
    · exact absurd op h.1
  · next op dst =>
    rcases h with h | h
    · exact nomatch h.symm.trans dst
    · exact absurd op h.2
  · rfl

theorem State.globalWritten_keeps (s : State) (c : Nat) (q : GStep) (r : Strip) : Keeps [.sp, .spPois] s (s.globalWritten c q r) := by
  unfold State.globalWritten
  split
  · exact Keeps.unpackOperand ..
  · exact Keeps.unpackOperand ..
  · exact .refl ..

/-- Step `q` of context `c` ended with result `r` of round `i`. -/
def State.globalEnded (s : State) (c : Nat) (q : GStep) (i : Inst) (r : Strip) : State :=
  (s.globalWritten c q r).modCtx c (fun x => { x with gq := none, sat := x.sat || i.sat, poison := x.poison || r.any (fun b => b.2) })

theorem exec_globalOpComplete {s s0 : State} {c : Fin 64} {q : GStep} {i : Inst} {r : Strip} (step : (s.ctx c).gq = some q)
    (moved : s0 = s.advanceInst q.group q.inst) (inst : s0.inst q.group q.inst = some i) (sent : i.sent = true) (result : i.result = some r) :
    ∃ t, exec (.globalOpComplete c) s = .next t ∧ Keeps [.groups] ((s0.globalEnded c q i r).stepDone c q.step 5 q.op q.tadv) t := by
  subst moved
  show ∃ t, execGlobalOpComplete c s = .next t ∧ _
  rw [execGlobalOpComplete]
  dsimp only
  rw [step]
  dsimp only
  rw [inst]
  dsimp only
  rw [sent, result]
  exact ⟨_, rfl, .ite (Keeps.modGroup ..) (Keeps.modInst ..)⟩

/-! ### Overdue instances and messages (16 R628, R630, R631) -/

theorem exec_globalTimeout {s : State} {g : Fin 64} {i : Inst}
    (overdue : (s.group g).insts.find? (fun i => i.ctxs != [] && decide (i.firstAt + s.cfg rXLCFG 20 8 * 1600000 ≤ s.cyc)) = some i) :
    exec (.globalTimeout g) s = .next (State.haltMany 4096
      ((i.ctxs.filter (fun c => !i.done.contains c)).map (fun c => (c, 0x30, 15, ((s.instFailed g i.k).ctx c).globalStep))) (s.instFailed g i.k)) := by
  show execGlobalTimeout g s = _
  rw [execGlobalTimeout]
  dsimp only
  rw [overdue]
  rfl

/-- The bytes of a message with the marks of their lines. -/
def gopStrip (data : List (BitVec 8)) (bytes : BitVec 21) (pois : List Bool) : Strip :=
  (data.take bytes.toNat).zipIdx.map (fun p => (p.1, pois.getD (p.2 / 64) false))

/-- Instance `i` told a partial of module `src`, or the result. -/
def Inst.hear (i : Inst) (src : Nat) (strip : Strip) (result sat : Bool) : Inst := { i with
  sat := i.sat || sat
  parts := if result ∨ i.parts.any (fun p => p.1 == src) then i.parts else i.parts ++ [(src, strip)]
  result := if result ∧ i.result.isNone then some strip else i.result }

section
variable {s u : State} {land : Fin 16} {hdr : BitVec 128} {g : Fin 64} {inst : BitVec 32} {op rtype : Fin 4} {scope result sat : Bool}
  {bytes : BitVec 21} {mods : BitVec 64} {gkey : BitVec 16} {root : BitVec 6} {data : List (BitVec 8)} {pois : List Bool} {i : Inst}
  (freed : u = s.freeRx land hdr (64 * field hdr.toNat 4 3)) (up : (s.landing land).up = true) (kind : field hdr.toNat 0 4 = 7)
  (here : field hdr.toNat 8 6 = s.boot.modid)
include freed up kind here

/-- A message for an entry that differs is answered with STATUS 1. -/
theorem exec_gop_differs (good : field hdr.toNat 101 4 = 0)
    (differs : (u.group g).valid = false ∨ (u.group g).mods ≠ mods ∨ (u.group g).gkey ≠ gkey.toNat ∨ (u.group g).root ≠ root.toNat) :
    exec (.gop land hdr g inst op scope rtype bytes mods gkey root result sat data pois) s = .next (u.sendPart g
      { k := inst.toNat, op := op.val, scope := scope, rtype := rtype.val, bytes := bytes.toNat } (field hdr.toNat 14 6) 1 false []) := by
  subst freed
  have taken : ¬ ((s.landing land).up = false ∨ field hdr.toNat 0 4 ≠ 7) := by
    rintro (h | h)
    · exact Bool.false_ne_true (h.symm.trans up)
    · exact h kind
  exact next_congr ((if_neg taken).trans ((if_neg (not_not_intro here)).trans ((if_neg (not_not_intro good)).trans (if_pos differs))))

/-- A message that agrees with its entry and its round is heard. -/
theorem exec_gop_agrees (good : field hdr.toNat 101 4 = 0) (valid : (u.group g).valid = true) (members : (u.group g).mods = mods)
    (key : (u.group g).gkey = gkey.toNat) (rooted : (u.group g).root = root.toNat) (alive : (u.group g).failed.contains inst.toNat = false)
    (found : u.inst g inst.toNat = some i) (agrees : i.op = op.val ∧ i.scope = scope ∧ i.rtype = rtype.val ∧ i.bytes = bytes.toNat) :
    exec (.gop land hdr g inst op scope rtype bytes mods gkey root result sat data pois) s = .next ((u.modInst g inst.toNat
      (fun i => i.hear (field hdr.toNat 14 6) (gopStrip data bytes pois) result sat)).advanceInst g inst.toNat) := by
  subst freed
  have taken : ¬ ((s.landing land).up = false ∨ field hdr.toNat 0 4 ≠ 7) := by
    rintro (h | h)
    · exact Bool.false_ne_true (h.symm.trans up)
    · exact h kind
  have same : ¬ (((s.freeRx land hdr (64 * field hdr.toNat 4 3)).group g).valid = false ∨ ((s.freeRx land hdr (64 * field hdr.toNat 4 3)).group g).mods ≠ mods ∨
      ((s.freeRx land hdr (64 * field hdr.toNat 4 3)).group g).gkey ≠ gkey.toNat ∨
      ((s.freeRx land hdr (64 * field hdr.toNat 4 3)).group g).root ≠ root.toNat) := by
    rintro (h | h | h | h)
    · exact Bool.false_ne_true (h.symm.trans valid)
    · exact h members
    · exact h key
    · exact h rooted
  refine next_congr ((if_neg taken).trans ((if_neg (not_not_intro here)).trans ((if_neg (not_not_intro good)).trans ((if_neg same).trans
    ((if_neg ?_).trans ?_)))))
  · rintro (h | h)
    · rw [found, Option.isNone_some, Bool.and_false] at h
      exact Bool.false_ne_true h
    · exact Bool.false_ne_true (alive.symm.trans h)
  · rw [found, Option.isSome_some, if_pos rfl]
    dsimp only
    rw [found]
    exact if_pos agrees

/-- A message that reports a failure fails its round. -/
theorem exec_gop_fails (bad : field hdr.toNat 101 4 ≠ 0) (alive : (u.group g).failed.contains inst.toNat = false)
    (found : u.inst g inst.toNat = some i) : exec (.gop land hdr g inst op scope rtype bytes mods gkey root result sat data pois) s =
      .next ((if field hdr.toNat 101 4 = 1 then u.tellFailed g [i] else u).failInst g inst.toNat) := by
  subst freed
  have taken : ¬ ((s.landing land).up = false ∨ field hdr.toNat 0 4 ≠ 7) := by
    rintro (h | h)
    · exact Bool.false_ne_true (h.symm.trans up)
    · exact h kind
  refine next_congr ((if_neg taken).trans ((if_neg (not_not_intro here)).trans ((if_pos bad).trans ((if_neg ?_).trans ?_))))
  · rintro (h | h)
    · rw [found, Option.isNone_some, Bool.and_false] at h
      exact Bool.false_ne_true h
    · exact Bool.false_ne_true (alive.symm.trans h)
  · rw [found]

end

/-- Settles O35: a step that fits joins a round, and a round only grows as it moves on (`State.advanceInst_grown`); a round that fails is
gone, and its participants halt within the fuel of the halts (`State.haltMany_halts`). -/
theorem globalOperationsComplete : Obligations.GlobalOperationsComplete := by
  unfold Obligations.GlobalOperationsComplete
  refine ⟨fun s c w q h fits => .next rfl (h.joined fits), fun s c w q h fits => .next rfl (h.joined fits),
    fun s c w q h fits => .next rfl (h.joined fits), fun s c w q h fits => .next rfl (h.joined fits), ?_, ?_, ?_, ?_, ?_, ?_⟩
  · intro s c w op cmd q listed h misfit
    have run : exec cmd s = .next (s.issueGlobal c op) := by
      simp only [List.mem_cons, List.not_mem_nil, or_false, Prod.mk.injEq] at listed
      rcases listed with ⟨rfl, rfl⟩ | ⟨rfl, rfl⟩ | ⟨rfl, rfl⟩ | ⟨rfl, rfl⟩
      all_goals rfl
    exact .next run (h.halts misfit)
  · intro s s0 c q i r step moved inst sent result
    obtain ⟨t, run, later⟩ := exec_globalOpComplete step moved inst sent result
    have advanced : Keeps [.lands, .groups, .pm, .act, .out] s s0 := moved ▸ Keeps.advanceInst ..
    have written := s0.globalWritten_keeps c q r
    have noted : Keeps [.ctxs] (s0.globalWritten c q r) (s0.globalEnded c q i r) := Keeps.modCtx ..
    have done := Keeps.stepDone (s0.globalEnded c q i r) c q.step 5 q.op q.tadv
    have ctx := (s0.globalEnded c q i r).stepDone_ctx c q.step 5 q.op q.tadv
    rw [State.globalEnded, State.ctx_modCtx, written.ctx_eq rfl, advanced.ctx_eq rfl] at ctx
    have sp : t.sp = (s0.globalWritten c q r).sp := ((noted.append done).append later).same .sp (by decide)
    refine .next run ?_
    rw [later.ctx_eq rfl, State.globalEnded, ctx, sp]
    refine ⟨?_, ?_, fun k => ?_, fun sat => ?_, fun bad => ?_, fun o dst op => ?_, fun none_ => ?_,
      ((((advanced.append written).append noted).append done).append later).sameBanks rfl rfl⟩
    · cases q.tadv <;> rfl
    · cases q.tadv <;> rfl
    · exact Ctx.tally_advanced ..
    · cases q.tadv <;> simp [Ctx.advanced, Ctx.finish, sat]
    · cases q.tadv <;> simp [Ctx.advanced, Ctx.finish, bad]
    · rw [State.globalWritten_some dst op]
    · rw [State.globalWritten_none none_]
      exact advanced.same .sp (by decide)
  · intro s g i overdue short
    obtain ⟨gone, failed⟩ := State.instFailed_group (State.haltMany_meetsEnd g 4096
      ((i.ctxs.filter (fun c => !i.done.contains c)).map (fun c => (c, 0x30, 15, ((s.instFailed g i.k).ctx c).globalStep))) (s.instFailed g i.k))
    refine .next (exec_globalTimeout overdue) ⟨gone, failed, fun c issued going running => ?_,
      ((Keeps.modGroup ..).append (Keeps.haltMany ..)).sameBanks rfl rfl⟩
    refine State.haltMany_map (fun c => ((s.instFailed g i.k).ctx c).globalStep) _ ((List.length_filter_le ..).trans short) (List.mem_filter.2 ⟨issued, ?_⟩) running
    simpa using going
  · intro s land hdr g inst op rtype scope result sat bytes mods gkey root data pois i up kind here good valid members key rooted alive found
      isOp isScope isType isBytes
    have freed := Keeps.freeRx s land hdr (64 * field hdr.toNat 4 3)
    have group := freed.group_eq rfl g
    have met := (freed.inst_eq rfl g inst.toNat).trans found
    have run := exec_gop_agrees (result := result) (sat := sat) (data := data) (pois := pois) rfl up kind here good (by rw [group, valid])
      (by rw [group, members]) (by rw [group, key]) (by rw [group, rooted]) (by rw [group, alive]) met ⟨isOp, isScope, isType, isBytes⟩
    have heard : ((s.freeRx land hdr (64 * field hdr.toNat 4 3)).modInst g inst.toNat
        (fun i => i.hear (field hdr.toNat 14 6) (gopStrip data bytes pois) result sat)).inst g inst.toNat =
        some (i.hear (field hdr.toNat 14 6) (gopStrip data bytes pois) result sat) := by
      rw [State.inst_modInst _ _ _ (fun i => i.hear (field hdr.toNat 14 6) (gopStrip data bytes pois) result sat) (fun _ h => h), met]
      rfl
    obtain ⟨j, moved, grown⟩ := (State.advanceInst_grown ..).grown _ heard
    refine .next run ⟨⟨j, moved, fun saturated => grown.sat ?_, fun partial_ fresh => grown.parts _ ?_, fun whole none_ => grown.result _ ?_⟩,
      ((freed.append (Keeps.modInst ..)).append (Keeps.advanceInst ..)).mono rfl⟩
    · simp [Inst.hear, saturated]
    · have unheard : ¬ (result = true ∨ i.parts.any (fun p => p.1 == field hdr.toNat 14 6) = true) := by
        rintro (h | h)
        · exact Bool.false_ne_true (partial_.symm.trans h)
        · obtain ⟨p, hp, is⟩ := List.any_eq_true.1 h
          exact fresh p hp (beq_iff_eq.1 is)
      show _ ∈ if _ then _ else _
      rw [if_neg unheard]
      exact List.mem_append_right _ List.mem_cons_self
    · exact if_pos ⟨whole, by rw [none_]; rfl⟩
  · intro s land hdr g inst op rtype scope result sat bytes mods gkey root data pois i up kind here bad alive found
    have freed := Keeps.freeRx s land hdr (64 * field hdr.toNat 4 3)
    have run := exec_gop_fails (op := op) (rtype := rtype) (scope := scope) (result := result) (sat := sat) (bytes := bytes) (mods := mods)
      (gkey := gkey) (root := root) (data := data) (pois := pois) rfl up kind here bad (by rw [freed.group_eq rfl, alive])
      ((freed.inst_eq rfl g inst.toNat).trans found)
    have told : Keeps [.lands, .pm, .act, .out] (s.freeRx land hdr (64 * field hdr.toNat 4 3)) (if field hdr.toNat 101 4 = 1 then
        (s.freeRx land hdr (64 * field hdr.toNat 4 3)).tellFailed g [i] else s.freeRx land hdr (64 * field hdr.toNat 4 3)) :=
      .ite (Keeps.tellFailed ..) (.refl ..)
    have before := freed.append told
    obtain ⟨failed, halts⟩ := State.failInst_spec (if field hdr.toNat 101 4 = 1 then
        (s.freeRx land hdr (64 * field hdr.toNat 4 3)).tellFailed g [i] else s.freeRx land hdr (64 * field hdr.toNat 4 3)) g inst.toNat
    refine .next run ⟨failed, fun c local_ running => halts c ?_ ?_, (before.append (Keeps.failInst ..)).sameBanks rfl rfl⟩
    · rwa [before.group_eq rfl]
    · rwa [before.ctx_eq rfl]
  · intro s land hdr g inst op rtype scope result sat bytes mods gkey root data pois up kind here good differs
    have group := (Keeps.freeRx s land hdr (64 * field hdr.toNat 4 3)).group_eq rfl g
    exact .next (exec_gop_differs rfl up kind here good (by rwa [group])) rfl

end Sys2Proof.Machine
end

section
/-! Messages that leave a landing, and what leaves the links as they are (16 R607, R613 to R615, R618). -/

namespace Sys2Proof.Machine

/-! ### Messages given to a landing (16 R607, R615, R625) -/

theorem clsOf_lt (mk : Nat) : clsOf mk < 3 := by
  unfold clsOf
  split
  · decide
  · split <;> decide

section
variable {l : Landing} {m : TxMsg} (one : l.txQ = [m])
include one

theorem Landing.ready_one (n cls : Nat) : l.ready n cls = if m.cls = cls ∧ l.sendable n m = true then [m] else [] := by
  unfold Landing.ready
  extract_lets q
  by_cases own : m.cls = cls
  · have queue : q = [m] := by
      simp only [q, one]
      rw [List.filter_singleton, show (m.cls == cls) = true from beq_iff_eq.2 own]
      rfl
    rw [queue]
    by_cases may : l.sendable n m = true
    · rw [if_pos ⟨own, may⟩]
      simp [List.eraseDups_cons, may]
    · rw [if_neg (fun h => may h.2)]
      simp [List.eraseDups_cons, may]
  · have queue : q = [] := by
      simp only [q, one]
      rw [List.filter_singleton, show (m.cls == cls) = false from beq_eq_false_iff_ne.2 own]
      rfl
    rw [queue, if_neg (fun h => own h.1)]
    rfl

/-- A message alone in its queue is granted where it may leave. -/
theorem Landing.pickTx_one {n : Nat} (cls : m.cls < 3) (may : l.sendable n m = true) : l.pickTx n = some m := by
  unfold Landing.pickTx
  have turn : (l.lastCls + 1) % 3 = m.cls ∨ (l.lastCls + 2) % 3 = m.cls ∨ (l.lastCls + 3) % 3 = m.cls := by omega
  simp only [Landing.ready_one one, may, and_true, List.findSome?_cons]
  by_cases h1 : (l.lastCls + 1) % 3 = m.cls
  · rw [if_pos h1.symm]
    rfl
  · rw [if_neg (Ne.symm h1)]
    by_cases h2 : (l.lastCls + 2) % 3 = m.cls
    · rw [if_pos h2.symm]
      rfl
    · rw [if_neg (Ne.symm h2), if_pos ((turn.resolve_left h1).resolve_left h2).symm]
      rfl

theorem Landing.pickTx_none {n : Nat} (waits : l.sendable n m = false) : l.pickTx n = none := by
  unfold Landing.pickTx
  simp [Landing.ready_one one, waits]

end

theorem State.sendPayload_spec (s : State) (l : Nat) (d : List Byte) : (s.sendPayload l d).out.link = s.out.link ∧
    ∃ us seq, (s.sendPayload l d).landing l = { s.landing l with unack := us, seq := seq } := by
  refine ⟨?_, ?us, ?seq, ?landing⟩
  · show (State.emit ..).out.link = _
    rw [State.emit, (Keeps.spend ..).same .out (by decide), (Keeps.count ..).same .out (by decide)]
    rfl
  case landing =>
    show (State.emit (State.modLanding ..) ..).landing l = _
    rw [(Keeps.emit ..).landing_eq rfl, State.landing_modLanding]

/-- The message of a transaction given to a landing. -/
def txMsg (hdr : BitVec 128) (data : List Byte) : TxMsg :=
  { hdr := hdr, data := data, cls := clsOf (field hdr.toNat 0 4), via := none, src := field hdr.toNat 28 8 }

/-- Message `m` granted at landing `l` and gone. -/
def State.linked (s : State) (l : Nat) (m : TxMsg) : State :=
  (s.modLanding l (fun l => l.take m)).putOut { s.out with link := { land := l, hdr := m.hdr, data := m.data } :: s.out.link }

section
variable {s : State} {l : Nat} {hdr : BitVec 128} {data : List Byte} (up : (s.landing l).up = true) (none_ : (s.landing l).txQ = [])
include up none_

theorem State.sendMsg_up : s.sendMsg l hdr data =
    (State.grantTx 1 l [] (s.modLanding l (fun l => { l with txQ := l.txQ ++ [txMsg hdr data] }))).1.sendPayload l
      (State.grantTx 1 l [] (s.modLanding l (fun l => { l with txQ := l.txQ ++ [txMsg hdr data] }))).2 := by
  have queued : (s.modLanding l (fun l => { l with txQ := l.txQ ++ [txMsg hdr data] })).landing l = { s.landing l with txQ := [txMsg hdr data] } := by
    rw [State.landing_modLanding, none_]
    rfl
  show (s.modLanding l (fun l => { l with txQ := l.txQ ++ [txMsg hdr data] })).drainTx l = _
  rw [State.drainTx, queued]
  exact if_pos up

/-- A message that may leave leaves at once. -/
theorem State.sendMsg_leaves (may : ({ s.landing l with txQ := [txMsg hdr data] } : Landing).sendable 0 (txMsg hdr data) = true) :
    (s.sendMsg l hdr data).out.link = { land := l, hdr := hdr, data := data } :: s.out.link ∧
    ((s.sendMsg l hdr data).landing l).txQ = [] ∧
    ((s.sendMsg l hdr data).landing l).credits =
      Tab.upd (fun _ => 0) (s.landing l).credits (txMsg hdr data).pool (· - creditsOf (txMsg hdr data).size) := by
  have queued : (s.modLanding l (fun l => { l with txQ := l.txQ ++ [txMsg hdr data] })).landing l = { s.landing l with txQ := [txMsg hdr data] } := by
    rw [State.landing_modLanding, none_]
    rfl
  have picked := Landing.pickTx_one (l := { s.landing l with txQ := [txMsg hdr data] }) (n := 0) rfl (clsOf_lt _) may
  have run : ∃ d, State.grantTx 1 l [] (s.modLanding l (fun l => { l with txQ := l.txQ ++ [txMsg hdr data] })) =
      ((s.modLanding l (fun l => { l with txQ := l.txQ ++ [txMsg hdr data] })).linked l (txMsg hdr data), d) := by
    rw [State.grantTx, queued, List.length_nil, picked]
    exact ⟨_, rfl⟩
  obtain ⟨d, run⟩ := run
  obtain ⟨sent, us, seq, kept⟩ := ((s.modLanding l (fun l => { l with txQ := l.txQ ++ [txMsg hdr data] })).linked l (txMsg hdr data)).sendPayload_spec l d
  rw [State.sendMsg_up up none_, run, kept, sent, State.linked, (Keeps.putOut ..).landing_eq rfl, State.landing_modLanding, queued]
  refine ⟨rfl, ?_, rfl⟩
  show [txMsg hdr data].erase (txMsg hdr data) = []
  rw [List.erase_cons_head]

/-- A message that may not leave waits. -/
theorem State.sendMsg_waits (waits : ({ s.landing l with txQ := [txMsg hdr data] } : Landing).sendable 0 (txMsg hdr data) = false) :
    (s.sendMsg l hdr data).out.link = s.out.link ∧ ((s.sendMsg l hdr data).landing l).txQ = [txMsg hdr data] := by
  have queued : (s.modLanding l (fun l => { l with txQ := l.txQ ++ [txMsg hdr data] })).landing l = { s.landing l with txQ := [txMsg hdr data] } := by
    rw [State.landing_modLanding, none_]
    rfl
  have run : State.grantTx 1 l [] (s.modLanding l (fun l => { l with txQ := l.txQ ++ [txMsg hdr data] })) =
      (s.modLanding l (fun l => { l with txQ := l.txQ ++ [txMsg hdr data] }), []) := by
    rw [State.grantTx, queued, List.length_nil, Landing.pickTx_none (l := { s.landing l with txQ := [txMsg hdr data] }) rfl waits]
  obtain ⟨sent, us, seq, kept⟩ := (s.modLanding l (fun l => { l with txQ := l.txQ ++ [txMsg hdr data] })).sendPayload_spec l []
  rw [State.sendMsg_up up none_, run, kept, sent, queued]
  exact ⟨rfl, rfl⟩

end

/-! ### What leaves the links as they are -/

/-- No message has left through a landing. -/
structure LinkKept (s t : State) : Prop where
  /-- the messages that have left -/
  link : t.out.link = s.out.link

theorem LinkKept.refl (s : State) : LinkKept s s := ⟨rfl⟩

theorem LinkKept.trans {s t u : State} (h : LinkKept s t) (g : LinkKept t u) : LinkKept s u := ⟨g.link.trans h.link⟩

theorem LinkKept.ite {p : Prop} [Decidable p] {s a b : State} (ha : LinkKept s a) (hb : LinkKept s b) : LinkKept s (if p then a else b) := by
  split
  · exact ha
  · exact hb

theorem Keeps.linkKept {L : List Field} {s t : State} (h : Keeps L s t) (hL : L.contains .out = false) : LinkKept s t :=
  ⟨congrArg Output.link (h.same .out (by simpa using hL))⟩

theorem State.freeRx_linkKept (s : State) (land : Nat) (hdr : BitVec 128) (n : Nat) : LinkKept s (s.freeRx land hdr n) := by
  constructor
  show (State.emit ..).out.link = _
  rw [State.emit, (Keeps.spend ..).same .out (by decide), (Keeps.count ..).same .out (by decide)]
  rfl

theorem State.viaMesh_linkKept (s : State) (a b n : Nat) : LinkKept s (s.viaMesh a b n) := by
  constructor
  rw [State.viaMesh, (Keeps.meshBytes ..).same .out (by decide)]
  rfl

theorem State.readMesh_linkKept (s : State) (a b n : Nat) : LinkKept s (s.readMesh a b n) :=
  (s.viaMesh_linkKept a b 0).trans ((Keeps.meshBytes ..).linkKept rfl)

theorem State.hostWrite_linkKept (s : State) (w : HostWrite) : LinkKept s (s.hostWrite w) := by
  unfold State.hostWrite
  extract_lets flagged blocked pois w' out s1
  have sent : LinkKept s s1 := ⟨rfl⟩
  split
  · exact .ite (sent.trans ((Keeps.modPart ..).linkKept rfl)) sent
  · exact sent

theorem State.trace_linkKept (s : State) (kind : Nat) (part : Option Nat) (ctx eng step op arg1 arg2 : Nat) :
    LinkKept s (s.trace kind part ctx eng step op arg1 arg2) := by
  have one (u : State) (p : Nat) : LinkKept u (u.traceOn p kind part ctx eng step op arg1 arg2) := by
    unfold State.traceOn
    extract_lets ctl sel tr size data
    have noted (f : Port → Port) : LinkKept u (u.modHport p f) := (Keeps.modHport u p f).linkKept rfl
    exact .ite (.ite ((noted _).trans (State.hostWrite_linkKept ..)) (noted _)) (.refl u)
  unfold State.trace
  generalize List.range 4 = ps
  induction ps generalizing s with
  | nil => exact .refl s
  | cons p ps ih => exact (one s p).trans (ih _)

theorem State.event_linkKept (s : State) (p typ : Nat) (payload : List (Nat × Nat × Nat)) : LinkKept s (s.event p typ payload) := by
  have on (k : Nat) : LinkKept s (s.eventOn k typ payload) := by
    unfold State.eventOn
    extract_lets p i part data s1 s2
    have written : LinkKept s s1 := State.hostWrite_linkKept ..
    have moved : LinkKept s1 s2 := (Keeps.modPage ..).linkKept rfl
    exact .ite (written.trans (moved.trans ((s2.trace_linkKept ..).trans (State.hostWrite_linkKept ..)))) ((Keeps.modPage ..).linkKept rfl)
  unfold State.event
  split
  · exact .refl s
  · exact .refl s
  · exact on _

/-! ### Bits of a count (16 R618) -/

/-- The number whose first `n` bits are those of `f`. -/
def bitsOf (f : Nat → Bool) (n : Nat) : Nat := (List.range n).foldl (fun a i => a + nat (f i) * 2 ^ i) 0

theorem bitsOf_succ (f : Nat → Bool) (n : Nat) : bitsOf f (n + 1) = bitsOf f n + nat (f n) * 2 ^ n := by
  rw [bitsOf, List.range_succ, List.foldl_append]
  rfl

theorem bitsOf_lt (f : Nat → Bool) (n : Nat) : bitsOf f n < 2 ^ n := by
  induction n with
  | zero => exact Nat.one_pos
  | succ n ih =>
    rw [bitsOf_succ, Nat.pow_succ]
    cases f n <;> simp only [nat] <;> simp <;> omega

theorem flag_bitsOf (f : Nat → Bool) {n i : Nat} (h : i < n) : flag (bitsOf f n) i = f i := by
  rw [flag_eq_testBit]
  induction n with
  | zero => exact absurd h (Nat.not_lt_zero i)
  | succ n ih =>
    rw [bitsOf_succ, Nat.add_comm, Nat.mul_comm]
    by_cases last : i = n
    · subst last
      cases f i <;> simp [nat, Nat.testBit_two_pow_add_eq, Nat.testBit_lt_two_pow (bitsOf_lt f i)]
    · rw [Nat.testBit_two_pow_mul_add _ (bitsOf_lt f n), if_pos (by omega)]
      exact ih (by omega)

end Sys2Proof.Machine
end

section
/-! Requests of other modules: admitted reads (16 R613, R620, R621, R624). -/

namespace Sys2Proof.Machine

/-! ### A line read for another module (16 R621; 04 R121, R125) -/

theorem State.noteRead_linkKept (s : State) (bad : Bool) (k path : Nat) (part : Option Nat) (addr : Nat) : LinkKept s (s.noteRead bad k path part addr) := by
  unfold State.noteRead
  refine .ite (.refl s) (.ite ?_ ((Keeps.logError ..).linkKept rfl))
  have logged : LinkKept s (s.logError k 127 5 path 127 part addr) := (Keeps.logError ..).linkKept rfl
  unfold State.uncorrectable State.memEvent
  refine logged.trans ?_
  split
  · unfold State.eventOwner
    split
    · exact State.event_linkKept ..
    · exact .refl _
  · exact .refl _

/-- A read of a line that asks for no decoder sends no message. -/
theorem State.bankRead_linkKept {s : State} {sa : Nat} (who path : Nat) (part : Option Nat) (plain : s.lineAsks (s.lineOfSa (sa / 64 * 64)) = false)
    (open_ : ((s.chan (chanOfBank (s.locate sa).moduleBank)).bank ((s.locate sa).moduleBank % 48)).row = some (s.locate sa).row) :
    LinkKept s (s.bankRead who path part sa).2 := by
  unfold State.bankRead
  extract_lets l ch k j s1 s2 d
  have row : (((s.modChan ch (fun c => (c.wake j).countBank j (s.slotOfLine k))).chan ch).bank j).row = some l.row := by
    rw [State.chan_modChan]
    exact open_
  have reached : s1 = (s.modChan ch (fun c => (c.wake j).countBank j (s.slotOfLine k))).spend 1 2 := by
    simp only [s1]
    rw [State.reachRow, if_pos row]
  have kept : Keeps [.chans, .act] s s1 := by
    rw [reached]
    exact (Keeps.modChan ..).append (Keeps.spend ..)
  have tested : s2 = s1 := if_neg (by rw [kept.lineAsks_eq rfl]; exact Bool.eq_false_iff.1 plain)
  have before : LinkKept s s2 := by
    rw [tested]
    exact kept.linkKept rfl
  clear_value d s2
  exact before.trans (State.noteRead_linkKept ..)

/-- A channel that would grant a host-class read at once grants a landing's, which keeps its request outside the queue. -/
theorem ReadsAtOnce.canGrant_host {s : State} {ch who j row : Nat} (h : ReadsAtOnce s ch who j row) (host : who ≤ 5) : s.canGrant ch who = true := by
  have serves : s.serves ch = true := by
    rw [State.serves, h.conv, h.centred]
    rfl
  have waiting : (s.chan ch).waiting = [] := by
    rw [Channel.waiting, h.reads, h.waiters]
    rfl
  have cls : classOf who = 0 := if_pos host
  have next : s.nextGrant ch [who] = some who := by
    simp only [State.nextGrant, waiting, List.nil_append]
    have not6 : (who == 6) = false := beq_eq_false_iff_ne.2 (by omega)
    have not7 : (who == 7) = false := beq_eq_false_iff_ne.2 (by omega)
    simp [h.quota, cls, not6, not7]
  rw [State.canGrant, serves, h.nbs, next]
  simp

theorem ReadsAtOnce.canRead_host {s : State} {who sa : Nat} (host : who ≤ 5)
    (h : ReadsAtOnce s (chanOfBank (s.locate sa).moduleBank) who ((s.locate sa).moduleBank % 48) (s.locate sa).row) : s.canRead who sa = true := by
  unfold State.canRead
  extract_lets l ch j
  have open_ : ((s.chan ch).bank j).row = some l.row := h.isOpen
  rw [show s.canGrant ch who = true from h.canGrant_host host, open_]
  simp

/-! ### A request admitted (16 R613, R620, R621, R624) -/

/-- The state in which an admitted read request reads: its channels have granted it, its buffer is free and it crosses the mesh. -/
def State.remServed (s : State) (land : Nat) (hdr : BitVec 128) : State :=
  (((s.remChans (remReq hdr)).eraseDups.foldl (fun s ch => s.countGrant ch 5) s).freeRx land hdr 0).readMesh land (s.homeOf (remReq hdr).addr) (remReq hdr).lines

theorem State.remServed_keeps (s : State) (land : Nat) (hdr : BitVec 128) : Keeps [.chans, .pm, .act, .out] s (s.remServed land hdr) :=
  (((Keeps.foldl _ (fun _ _ => Keeps.countGrant ..) _ s).append (Keeps.freeRx ..)).append (Keeps.readMesh ..)).mono rfl

theorem State.remServed_linkKept (s : State) (land : Nat) (hdr : BitVec 128) : LinkKept s (s.remServed land hdr) :=
  (((Keeps.foldl _ (fun _ _ => Keeps.countGrant ..) _ s).linkKept rfl).trans (State.freeRx_linkKept ..)).trans (State.readMesh_linkKept ..)

/-- Grants counted leave the banks' open rows and the write queue. -/
theorem State.remServed_chan (s : State) (land : Nat) (hdr : BitVec 128) (ch : Nat) :
    ((s.remServed land hdr).chan ch).banks = (s.chan ch).banks ∧ ((s.remServed land hdr).chan ch).writeQ = (s.chan ch).writeQ := by
  have counted (chs : List Nat) (u : State) : ((chs.foldl (fun s ch => s.countGrant ch 5) u).chan ch).banks = (u.chan ch).banks ∧
      ((chs.foldl (fun s ch => s.countGrant ch 5) u).chan ch).writeQ = (u.chan ch).writeQ := by
    induction chs generalizing u with
    | nil => exact ⟨rfl, rfl⟩
    | cons c chs ih =>
      obtain ⟨banks, writes⟩ := ih (u.countGrant c 5)
      rw [List.foldl_cons, banks, writes, State.countGrant]
      by_cases own : ch = c
      · subst own
        rw [State.chan_modChan]
        exact ⟨rfl, rfl⟩
      · rw [State.chan_modChan_ne _ _ _ _ own]
        exact ⟨rfl, rfl⟩
  rw [State.remServed, (Keeps.readMesh ..).chan_eq rfl, (Keeps.freeRx ..).chan_eq rfl]
  exact counted _ s

section
variable {s : State} {land : Fin 16} {hdr : BitVec 128} {p : Nat} {data : List (BitVec 512)}

/-- An admitted read of memory waits while a channel it reads from grants it nothing. -/
theorem State.remoteRead_waits (memory : (remReq hdr).sp = true) (quiet : s.remSnoop hdr land (remReq hdr) false p [] [] = none)
    (barred : ∃ a ∈ s.remLines (remReq hdr), s.canRead 5 a = false) : s.remoteRead land hdr [] p = s := by
  unfold State.remoteRead
  extract_lets r
  rw [if_pos memory]
  simp only [r, quiet]
  refine if_pos ?_
  obtain ⟨a, ha, no⟩ := barred
  exact Bool.eq_false_iff.2 fun all => Bool.false_ne_true (no.symm.trans (List.all_eq_true.1 all a ha))

/-- An admitted read of one line of memory answers what a device read of the line gives. -/
theorem State.remoteRead_one (memory : (remReq hdr).sp = true) (one : (remReq hdr).lines = 1)
    (quiet : s.remSnoop hdr land (remReq hdr) false p [] [] = none) (may : ∀ a ∈ s.remLines (remReq hdr), s.canRead 5 a = true) :
    let y := (s.remServed land hdr).deviceRead 5 9 (some p) ((remReq hdr).addr / 64 * 64)
    s.remoteRead land hdr [] p = y.2.reply hdr 4 1 (if y.1.2 then 2 else 0) (nat y.1.2) (lineBytes y.1.1) := by
  unfold State.remoteRead
  extract_lets y r s0 x pois
  have sas : r.sas = [r.addr / 64 * 64] := by
    show (List.range r.lines).map _ = _
    rw [show r.lines = 1 from one]
    rfl
  have read : x = (y.2, [y.1]) := by
    simp only [x, sas]
    rfl
  have bits : pois = nat y.1.2 := by
    simp only [pois, read, List.length_singleton, List.range_one, List.foldl_cons, List.foldl_nil, List.getD_cons_zero]
    rw [Nat.pow_zero, Nat.mul_one, Nat.zero_add]
  rw [if_pos memory]
  simp only [r, quiet]
  rw [if_neg (by rw [List.all_eq_true.2 may]; decide), bits, read, one]
  simp only [List.flatMap_cons, List.flatMap_nil, List.append_nil]
  clear_value y
  cases y.1.2 <;> rfl

theorem RemReq.one_sas {r : RemReq} (one : r.lines = 1) : r.sas = [r.addr / 64 * 64] := by
  rw [RemReq.sas, one]
  rfl

/-- A request for lines that are not of a shared class needs no snoop. -/
theorem State.remSnoop_bulk {write : Bool} {bad : List Nat} (one : (remReq hdr).lines = 1)
    (bulk : (s.slot ((remReq hdr).addr / 64 * 64 / slotBytes)).cls = .bulk) : s.remSnoop hdr land (remReq hdr) write p data bad = none := by
  rw [State.remSnoop, RemReq.one_sas one, List.findSome?_cons, if_neg (by rw [bulk]; exact fun h => nomatch h.1)]
  rfl

theorem State.mem_remLines {a : Nat} (one : (remReq hdr).lines = 1) (h : a ∈ s.remLines (remReq hdr)) :
    a = (remReq hdr).addr / 64 * 64 ∧ (s.slot (a / slotBytes)).cls ≠ .shared := by
  obtain ⟨listed, plain⟩ := List.mem_filter.1 h
  rw [RemReq.one_sas one, List.mem_singleton] at listed
  simp only [Bool.and_eq_true, bne_iff_ne] at plain
  exact ⟨listed, plain.1⟩

/-- An admitted read of a scratchpad answers its bytes, with the marks of their words. -/
theorem State.remoteRead_scratchpad (scratch : (remReq hdr).sp = false) :
    let bits := bitsOf (fun i => s.spPoisoned (remReq hdr).tile ((remReq hdr).sp0 + 64 * i) 64) (remReq hdr).lines
    s.remoteRead land hdr [] p = ((s.freeRx land hdr 0).readMesh land (remReq hdr).tile (remReq hdr).lines).reply hdr 4 (remReq hdr).lines
      (if bits = 0 then 0 else 2) bits ((List.range (remReq hdr).lines).flatMap (fun i => s.spRead (remReq hdr).tile ((remReq hdr).sp0 + 64 * i) 64)) := by
  unfold State.remoteRead
  extract_lets bits r _ _ _ ls pois
  have same : pois = bits := by
    simp only [pois, bits, bitsOf, ls, List.length_map, List.length_range]
    refine List.foldl_ext _ _ _ fun a i hi => ?_
    simp [List.getD, List.mem_range.1 hi, r]
  rw [if_neg (by rw [scratch]; decide), same]
  simp only [ls, List.flatMap_map]
  rfl

end

end Sys2Proof.Machine
end

section
/-! Requests of other modules: admitted writes, refusals and forwarding (16 R613, R614, R620 to R623). -/

namespace Sys2Proof.Machine

/-! ### An admitted write (16 R620 to R623) -/

/-- `n` lines of a request written to tile `t`'s scratchpad from address `a` on. -/
def State.linesWritten (s : State) (t a : Nat) (line : Nat → Line512) (pois : Nat → Bool) (n : Nat) : State :=
  (List.range n).foldl (fun s i => s.spWrite t (a + 64 * i) (lineBytes (line i)) (pois i)) s

section
variable (s : State) (t a : Nat) (line : Nat → Line512) (pois : Nat → Bool)

theorem State.linesWritten_succ (n : Nat) : s.linesWritten t a line pois (n + 1) =
    (s.linesWritten t a line pois n).spWrite t (a + 64 * n) (lineBytes (line n)) (pois n) := by
  rw [State.linesWritten, List.range_succ, List.foldl_append]
  rfl

theorem State.linesWritten_keeps (n : Nat) : Keeps [.sp, .spPois] s (s.linesWritten t a line pois n) := .foldl _ (fun _ _ => Keeps.spWrite ..) ..

/-- A write of a line leaves the bytes of other places. -/
theorem State.spRead_spWrite_apart (u : State) (b : Nat) (d : Line512) (p : Bool) (c m : Nat)
    (apart : ∀ x, c ≤ x → x < c + m → x < b ∨ b + 64 ≤ x) : (u.spWrite t b (lineBytes d) p).spRead t c m = u.spRead t c m := by
  rw [State.spRead, State.spRead, State.spWrite_sp]
  refine Tab.getRun_congr (d := fun _ => (0 : Byte)) m _ fun x low high => ?_
  rcases apart (x - t * spBytes) (by omega) (by omega) with before | after
  · exact Tab.get_setRun_lt _ _ _ _ _ (by omega)
  · exact Tab.get_setRun_ge _ _ _ _ _ (by rw [lineBytes, leBytes_length]; omega)

theorem State.spRead_linesWritten (n i : Nat) (h : i < n) : (s.linesWritten t a line pois n).spRead t (a + 64 * i) 64 = lineBytes (line i) := by
  induction n with
  | zero => exact absurd h (Nat.not_lt_zero i)
  | succ n ih =>
    rw [State.linesWritten_succ]
    by_cases last : i = n
    · subst last
      have run := Tab.getRun_setRun (d := fun _ => (0 : Byte)) (lineBytes (line i)) (s.linesWritten t a line pois i).sp (t * spBytes + (a + 64 * i))
      rw [show (lineBytes (line i)).length = 64 from leBytes_length ..] at run
      rw [State.spRead, State.spWrite_sp]
      exact run
    · rw [State.spRead_spWrite_apart _ _ _ _ _ _ _ fun x low high => by omega]
      exact ih (by omega)

theorem State.spRead_linesWritten_apart (n c m : Nat) (apart : ∀ x, c ≤ x → x < c + m → x < a ∨ a + 64 * n ≤ x) :
    (s.linesWritten t a line pois n).spRead t c m = s.spRead t c m := by
  induction n with
  | zero => rfl
  | succ n ih =>
    rw [State.linesWritten_succ, State.spRead_spWrite_apart _ _ _ _ _ _ _ fun x low high => ?_]
    · exact ih fun x low high => by
        have := apart x low high
        omega
    · have := apart x low high
      omega

end

/-- An accepted write keeps its mark. -/
theorem State.accept_write_poison (s : State) (ch : Nat) (q : Req) (hw : q.write = true) :
    ∃ r : Req, ((s.accept ch q).chan ch).writeQ = (s.chan ch).writeQ ++ [r] ∧ r.poison = q.poison := by
  obtain ⟨ranks, chan, -⟩ := s.accept_chan ch q
  rw [chan, Channel.push]
  simp only [hw, if_true]
  exact ⟨_, rfl, rfl⟩

theorem State.acceptWrite_queued (s : State) (who src : Nat) (part : Option Nat) (sa : Nat) (d : Line512) (mask : BitVec 64) (pois : Bool)
    (peer : Option (Nat × Nat)) (hdr : Option (BitVec 128)) :
    ∃ q : Req, ((s.acceptWrite who src part sa d mask pois peer hdr).chan (chanOfBank (s.locate sa).moduleBank)).writeQ =
        (s.chan (chanOfBank (s.locate sa).moduleBank)).writeQ ++ [q] ∧ q.bank = (s.locate sa).moduleBank % 48 ∧ q.row = (s.locate sa).row ∧
      q.line = (s.locate sa).col / 2 ∧ q.data = d ∧ q.mask = mask ∧ q.poison = pois ∧ q.who = who := by
  obtain ⟨q, queue, who', bank, row, line, data, mask'⟩ := s.acceptWrite_writeQ who src part sa d mask pois peer hdr
  have marked : ∃ r : Req, ((s.acceptWrite who src part sa d mask pois peer hdr).chan (chanOfBank (s.locate sa).moduleBank)).writeQ =
      (s.chan (chanOfBank (s.locate sa).moduleBank)).writeQ ++ [r] ∧ r.poison = pois := by
    unfold State.acceptWrite
    extract_lets l k s1
    exact s1.accept_write_poison (chanOfBank l.moduleBank) _ rfl
  obtain ⟨r, queue', poison⟩ := marked
  obtain rfl : q = r := List.singleton_inj.1 (List.append_cancel_left (queue.symm.trans queue'))
  exact ⟨q, queue, bank, row, line, data, mask', poison, who'⟩

section
variable {s : State} {land : Fin 16} {hdr : BitVec 128} {p : Nat} {data : List (BitVec 512)}

theorem State.remoteWrite_scratchpad (scratch : (remReq hdr).sp = false) : s.remoteWrite land hdr data [] p =
    (((s.freeRx land hdr (64 * (remReq hdr).lines)).viaMesh land (remReq hdr).tile (remReq hdr).lines).linesWritten (remReq hdr).tile (remReq hdr).sp0
      (fun i => data.getD i 0) (fun i => flag hdr.toNat (105 + i)) (remReq hdr).lines).reply hdr 5 0 0 0 [] :=
  if_neg (by rw [scratch]; decide)

/-- An admitted write of one line of a bulk slot is queued on its channel and acknowledged. -/
theorem State.remoteWrite_bulk (memory : (remReq hdr).sp = true) (one : (remReq hdr).lines = 1)
    (bulk : (s.slot ((remReq hdr).addr / 64 * 64 / slotBytes)).cls = .bulk) (live : (s.slot ((remReq hdr).addr / 64 * 64 / slotBytes)).dead = false)
    (room : s.hasRoom (chanOfBank (s.locate ((remReq hdr).addr / 64 * 64)).moduleBank) true = true) : s.remoteWrite land hdr data [] p =
    (((s.freeRx land hdr 64).viaMesh land (s.homeOf (remReq hdr).addr) 1).acceptWrite 5 (4 + land) (some p) ((remReq hdr).addr / 64 * 64) (data.getD 0 0)
      (BitVec.allOnes 64) (flag hdr.toNat 105) none (some hdr)).reply hdr 5 0 0 0 [] := by
  unfold State.remoteWrite
  extract_lets r pois s1
  have sas : r.sas = [r.addr / 64 * 64] := RemReq.one_sas one
  have chans : s.remChans r = [chanOfBank (s.locate (r.addr / 64 * 64)).moduleBank] := by
    rw [State.remChans, State.remLines, sas, List.filter_singleton]
    simp only [r, bulk, live]
    rfl
  have roomy : s.remRoom r = true := by
    have space : s.hasRoom (chanOfBank (s.locate (r.addr / 64 * 64)).moduleBank) true = true := room
    have short := space
    rw [State.hasRoom, if_pos rfl] at short
    simp only [Bool.and_eq_true, decide_eq_true_eq] at short
    rw [State.remRoom]
    simp only [chans, List.all_cons, List.all_nil, space, List.filter_singleton, beq_self_eq_true, Bool.true_and,
      Bool.and_true, decide_eq_true_eq]
    exact short.1
  have kept : Keeps [.pm, .act, .out] s ((s.freeRx land hdr (64 * r.lines)).viaMesh land (s.homeOf r.addr) r.lines) :=
    ((Keeps.freeRx ..).append (Keeps.viaMesh ..)).mono rfl
  have quiet : s.remSnoop hdr land r true p data [] = none := State.remSnoop_bulk one bulk
  have first : s1 = ((s.freeRx land hdr (64 * r.lines)).viaMesh land (s.homeOf r.addr) r.lines).remWriteLine land p hdr (r.addr / 64 * 64)
      (data.getD 0 0) (pois 0) := by
    simp only [s1, sas, List.zipIdx_cons, List.zipIdx_nil, List.foldl_cons, List.foldl_nil, List.not_mem_nil, if_false]
  rw [if_pos memory, quiet]
  dsimp only
  rw [if_pos roomy, first]
  have written : ((s.freeRx land hdr (64 * r.lines)).viaMesh land (s.homeOf r.addr) r.lines).remWriteLine land p hdr (r.addr / 64 * 64) (data.getD 0 0) (pois 0) =
      ((s.freeRx land hdr (64 * r.lines)).viaMesh land (s.homeOf r.addr) r.lines).acceptWrite 5 (4 + land) (some p) (r.addr / 64 * 64) (data.getD 0 0)
        (BitVec.allOnes 64) (pois 0) none (some hdr) := by
    have slot := kept.slot_eq rfl rfl (r.addr / 64 * 64 / slotBytes)
    unfold State.remWriteLine
    dsimp only
    rw [slot, if_neg (by rw [bulk]; decide), if_neg (by rw [live]; decide)]
  have lines : r.lines = 1 := one
  rw [lines] at written ⊢
  exact congrArg (fun u : State => u.reply hdr 5 0 0 0 []) written

end

/-! ### Requests admitted, refused and forwarded (16 R613, R614, R620) -/

section
variable {s : State} {land : Fin 16} {hdr : BitVec 128} (up : (s.landing land).up = true)
include up

section
variable (some_ : 1 ≤ (remReq hdr).lines) (few : (remReq hdr).lines ≤ 4) (here : field hdr.toNat 8 6 = s.boot.modid)
include some_ few here

theorem exec_remoteRd_admitted {p : Nat} (kind : field hdr.toNat 0 4 = 2) (lets : s.admitted (remReq hdr) false = some p) :
    exec (.remoteRd land hdr) s = .next (s.remoteRead land hdr [] p) := by
  refine next_congr ((if_neg ?_).trans ((if_neg (not_not_intro here)).trans ?_))
  · rintro (h | h | h | h)
    · exact Bool.false_ne_true (h.symm.trans up)
    · exact h kind
    · omega
    · omega
  · rw [lets]

theorem exec_remoteRd_refused (kind : field hdr.toNat 0 4 = 2) (bars : s.admitted (remReq hdr) false = none) :
    exec (.remoteRd land hdr) s = .next ((s.freeRx land hdr 0).reply hdr 4 0 1 0 []) := by
  refine next_congr ((if_neg ?_).trans ((if_neg (not_not_intro here)).trans ?_))
  · rintro (h | h | h | h)
    · exact Bool.false_ne_true (h.symm.trans up)
    · exact h kind
    · omega
    · omega
  · rw [bars]

theorem exec_remoteWr_admitted {data : List (BitVec 512)} {p : Nat} (kind : field hdr.toNat 0 4 = 3) (lets : s.admitted (remReq hdr) true = some p) :
    exec (.remoteWr land hdr data) s = .next (s.remoteWrite land hdr data [] p) := by
  refine next_congr ((if_neg ?_).trans ((if_neg (not_not_intro here)).trans ?_))
  · rintro (h | h | h | h)
    · exact Bool.false_ne_true (h.symm.trans up)
    · exact h kind
    · omega
    · omega
  · rw [lets]

theorem exec_remoteWr_refused {data : List (BitVec 512)} (kind : field hdr.toNat 0 4 = 3) (bars : s.admitted (remReq hdr) true = none) :
    exec (.remoteWr land hdr data) s = .next ((s.freeRx land hdr (64 * (remReq hdr).lines)).reply hdr 5 0 1 0 []) := by
  refine next_congr ((if_neg ?_).trans ((if_neg (not_not_intro here)).trans ?_))
  · rintro (h | h | h | h)
    · exact Bool.false_ne_true (h.symm.trans up)
    · exact h kind
    · omega
    · omega
  · rw [bars]

end

/-- Message command `cmd` of kind `kind` with the bytes `bytes` behind its header. -/
inductive MessageOf (land : Fin 16) (hdr : BitVec 128) (data : List (BitVec 512)) (target : BitVec 6) : Nat → Instr → List Byte → Prop
  /-- a read request -/
  | read : MessageOf land hdr data target 2 (.remoteRd land hdr) []
  /-- a write request -/
  | write : MessageOf land hdr data target 3 (.remoteWr land hdr data) ((data.take (remReq hdr).lines).flatMap lineBytes)
  /-- a read answer -/
  | answer : MessageOf land hdr data target 4 (.rdr land hdr data) (data.flatMap lineBytes)
  /-- an acknowledgement -/
  | ack : MessageOf land hdr data target 5 (.wack land hdr) []
  /-- a notice -/
  | notice : MessageOf land hdr data target 6 (.lfn land hdr target) []

/-- A message of any kind that names another module is forwarded. -/
theorem exec_forward {data : List (BitVec 512)} {target : BitVec 6} {kind : Nat} {cmd : Instr} {bytes : List Byte}
    (m : MessageOf land hdr data target kind cmd bytes) (isKind : field hdr.toNat 0 4 = kind)
    (lines : kind ≤ 3 → 1 ≤ (remReq hdr).lines ∧ (remReq hdr).lines ≤ 4) (away : field hdr.toNat 8 6 ≠ s.boot.modid) :
    exec cmd s = .next (s.forward land hdr bytes) := by
  have taken (n : Nat) (h : field hdr.toNat 0 4 = n) : ¬ ((s.landing land).up = false ∨ field hdr.toNat 0 4 ≠ n) := by
    rintro (down | other)
    · exact Bool.false_ne_true (down.symm.trans up)
    · exact other h
  have requested (n : Nat) (h : field hdr.toNat 0 4 = n) (hl : 1 ≤ (remReq hdr).lines ∧ (remReq hdr).lines ≤ 4) :
      ¬ ((s.landing land).up = false ∨ field hdr.toNat 0 4 ≠ n ∨ (remReq hdr).lines = 0 ∨ 4 < (remReq hdr).lines) := by
    rintro (down | other | none_ | many)
    · exact Bool.false_ne_true (down.symm.trans up)
    · exact other h
    · omega
    · omega
  cases m with
  | read => exact next_congr ((if_neg (requested 2 isKind (lines (by decide)))).trans (if_pos away))
  | write => exact next_congr ((if_neg (requested 3 isKind (lines (by decide)))).trans (if_pos away))
  | answer => exact next_congr ((if_neg (taken 4 isKind)).trans (if_pos away))
  | ack => exact next_congr ((if_neg (taken 5 isKind)).trans (if_pos away))
  | notice => exact next_congr ((if_neg (taken 6 isKind)).trans (if_pos away))

end

theorem State.forward_on {s : State} {land l : Nat} {hdr : BitVec 128} {data : List Byte} (hops : field hdr.toNat 26 2 < 3)
    (route : s.routeOf (field hdr.toNat 14 6) (field hdr.toNat 28 8) (field hdr.toNat 8 6) = some l) : s.forward land hdr data =
      (s.viaMesh land l ((data.length + 63) / 64)).queueMsg l (hdr + BitVec.ofNat 128 (2 ^ 26)) data (some land) := by
  unfold State.forward
  dsimp only
  rw [if_neg (by omega), route]

theorem State.forward_far {s : State} {land : Nat} {hdr : BitVec 128} {data : List Byte} (hops : field hdr.toNat 26 2 = 3) : s.forward land hdr data =
    (s.freeRx land hdr data.length).lateLog 7 2 land (some (field hdr.toNat 20 6)) (field hdr.toNat 14 6) (field hdr.toNat 52 48) 0 := if_pos hops

end Sys2Proof.Machine
end

section
/-! Answers of other modules, late failures and time-outs (10 R431 to R433; 14 R551; 16 R620, R622, R624). -/

namespace Sys2Proof.Machine

/-! ### Ferry channels that halts leave stopped (10 R431 to R433) -/

/-- What stopping engines leaves of ferry channel `k`, once it has no step, and of the outstanding transactions. -/
structure FerryStopped (k : Nat) (s t : State) : Prop where
  /-- no transaction begins -/
  xacts : ∀ y ∈ t.xacts, y ∈ s.xacts
  /-- a channel without a step keeps what it recorded -/
  chan : (s.fchan k).cur = none → (t.fchan k).cur = none ∧ (t.fchan k).st = (s.fchan k).st ∧ (t.fchan k).fault = (s.fchan k).fault ∧
    (t.fchan k).addr = (s.fchan k).addr ∧ (t.fchan k).module = (s.fchan k).module

namespace FerryStopped

variable {k : Nat} {s t u : State}

theorem refl (k : Nat) (s : State) : FerryStopped k s s := ⟨fun _ h => h, fun h => ⟨h, rfl, rfl, rfl, rfl⟩⟩

theorem trans (h : FerryStopped k s t) (g : FerryStopped k t u) : FerryStopped k s u := by
  refine ⟨fun y hy => h.xacts y (g.xacts y hy), fun none_ => ?_⟩
  obtain ⟨cur, st, fault, addr, module_⟩ := h.chan none_
  obtain ⟨cur', st', fault', addr', module_'⟩ := g.chan cur
  exact ⟨cur', st'.trans st, fault'.trans fault, addr'.trans addr, module_'.trans module_⟩

theorem keeps {L : List Field} (h : Keeps L s t) (hf : L.contains .fe = false) (hx : L.contains .xacts = false) : FerryStopped k s t := by
  have chan := h.fchan_eq hf k
  have xacts : t.xacts = s.xacts := h.same .xacts (by simpa using hx)
  exact ⟨fun y hy => xacts ▸ hy, fun none_ => by rw [chan]; exact ⟨none_, rfl, rfl, rfl, rfl⟩⟩

theorem stop (i : Nat) (s : State) : FerryStopped k s (s.modFchan i FeChan.stop) := by
  refine ⟨fun _ h => h, fun none_ => ?_⟩
  by_cases own : k = i
  · subst own
    rw [State.fchan_modFchan, FeChan.stop, none_]
    exact ⟨rfl, rfl, rfl, rfl, rfl⟩
  · rw [State.fchan_modFchan_ne _ _ _ _ own]
    exact ⟨none_, rfl, rfl, rfl, rfl⟩

theorem stops (is : List Nat) (s : State) : FerryStopped k s (is.foldl (fun s i => s.modFchan i FeChan.stop) s) := by
  induction is generalizing s with
  | nil => exact .refl k s
  | cons i is ih => exact (stop i s).trans (ih _)

theorem putXacts (s : State) (p : Xact → Bool) : FerryStopped k s (s.putXacts (s.xacts.filter p)) :=
  ⟨fun _ h => (List.mem_filter.1 h).1, fun h => ⟨h, rfl, rfl, rfl, rfl⟩⟩

theorem stopEngines (s : State) (c : Nat) : FerryStopped k s (s.stopEngines c) := by
  unfold State.stopEngines
  extract_lets t s1 chans copies s2 s3 mark s4 s5
  have engines : FerryStopped k s s1 := keeps ((Keeps.modMat ..).append (Keeps.modVec ..)) rfl rfl
  have overlap : FerryStopped k s2 s3 := keeps (Keeps.modHub ..) rfl rfl
  have marked : FerryStopped k s3 (s3.putChans (Tab.mapAll (fun _ => {}) mark s3.chans)) := keeps (Keeps.putChans ..) rfl rfl
  have dropped : FerryStopped k (s3.putChans (Tab.mapAll (fun _ => {}) mark s3.chans)) s4 := putXacts _ _
  have rebuilds : FerryStopped k s4 s5 := keeps ((Keeps.putCrus ..).append (Keeps.putHubs ..)) rfl rfl
  exact engines.trans ((stops chans s1).trans (overlap.trans (marked.trans (dropped.trans (rebuilds.trans
    (keeps ((Keeps.modCtx ..).append (Keeps.copiesStopped ..)) rfl rfl))))))

theorem haltOne (s : State) (c reason fld step : Nat) : FerryStopped k s (s.haltOne c reason fld step) := by
  unfold State.haltOne
  extract_lets x addr s1 status s2 s3
  have halted : FerryStopped k s s1 := (stopEngines s c).trans (keeps (Keeps.modCtx ..) rfl rfl)
  have answered : FerryStopped k s1 s2 := by
    simp only [s2]
    split
    · exact keeps (Keeps.complete ..) rfl rfl
    · exact .refl ..
  split
  · exact halted.trans (answered.trans (keeps ((Keeps.bbox ..).append (Keeps.trace ..)) rfl rfl))
  · exact .refl ..

theorem haltMany (n : Nat) (hs : List (Nat × Nat × Nat × Nat)) (s : State) : FerryStopped k s (State.haltMany n hs s) := by
  induction n generalizing hs s with
  | zero => exact .refl ..
  | succ n ih =>
    cases hs with
    | nil => exact .refl ..
    | cons e hs =>
      obtain ⟨c, reason, fld, step⟩ := e
      rw [State.haltMany]
      split
      · exact (keeps (Keeps.failMeets s c) rfl rfl).trans ((haltOne ..).trans (ih ..))
      · exact ih ..

end FerryStopped

/-- A fault halts its channel, with the fault and its place, and ends the channel's transactions. -/
theorem State.ferryFault_spec (s : State) (t ch fault fld : Nat) (at_ : Nat × Nat × Nat × Nat) :
    ((s.ferryFault t ch fault fld at_).fchan (16 * t + ch)).st = 2 ∧ ((s.ferryFault t ch fault fld at_).fchan (16 * t + ch)).fault = fault ∧
    ((s.ferryFault t ch fault fld at_).fchan (16 * t + ch)).addr = at_.1 ∧
    ((s.ferryFault t ch fault fld at_).fchan (16 * t + ch)).module = at_.2.2.2 ∧
    ∀ y ∈ (s.ferryFault t ch fault fld at_).xacts, ¬ (y.tile = t ∧ y.ch = ch) := by
  unfold State.ferryFault
  extract_lets k f c copy step tag s1 s2 word s3 s4 s5
  have chan : s2.fchan k = { (s.fchan k).stop with
      st := 2, fault := fault, addr := at_.1, space := at_.2.1, tile := at_.2.2.1, module := at_.2.2.2, tag := tag } := by
    have noted : Keeps [.hubs, .xacts] s1 s2 := (Keeps.modHub ..).append (Keeps.putXacts ..)
    rw [noted.fchan_eq rfl]
    exact State.fchan_modFchan ..
  have gone : ∀ y ∈ s2.xacts, ¬ (y.tile = t ∧ y.ch = ch) := by
    rintro y hy ⟨ht, hch⟩
    have kept := (List.mem_filter.1 hy).2
    simp [ht, hch] at kept
  have told : FerryStopped k s3 s4 := by
    simp only [s4]
    split
    · exact .keeps (Keeps.event ..) rfl rfl
    · exact .refl ..
  have stopped : FerryStopped k s2 s5 := (FerryStopped.keeps (Keeps.bbox ..) rfl rfl).trans (told.trans (.keeps (Keeps.copiesStopped ..) rfl rfl))
  have ends : FerryStopped k s2 (if copy then s5 else s5.halt c 0x21 fld step) := by
    split
    · exact stopped
    · exact stopped.trans (.haltMany ..)
  generalize (if copy then s5 else s5.halt c 0x21 fld step) = v at ends
  obtain ⟨-, st, fault', addr, module_⟩ := ends.chan (by rw [chan]; rfl)
  rw [chan] at st fault' addr module_
  exact ⟨st, fault', addr, module_, fun y hy => gone y (ends.xacts y hy)⟩

/-! ### Answers (16 R620, R622, R624) -/

theorem State.pump_idle {s : State} {t ch n : Nat} (idle : (s.fchan (16 * t + ch)).todo = []) : State.pump n t ch s = s := by
  cases n with
  | zero => rfl
  | succ n => rw [State.pump, idle]

/-- A channel whose step still waits for a line stays where it is. -/
theorem State.ferryGo_waits {s : State} {t ch : Nat} (moved : (s.fchan (16 * t + ch)).moved = false) (waits : s.outstanding t ch ≠ []) :
    s.ferryGo t ch = s := by
  unfold State.ferryGo
  dsimp only
  split
  · rfl
  · exact if_pos (.inr (.inr (.inr ⟨moved, .inr waits⟩)))

/-- The state in which a read's answer is taken in or refused: its transaction over, its lines brought over the mesh. -/
def State.rdrTaken (s : State) (land : Nat) (hdr : BitVec 128) (n : Nat) (x : Xact) : State :=
  ((s.freeRx land hdr (64 * n)).dropXact x).viaMesh land x.tile x.lines

section
variable {s : State} {land : Fin 16} {hdr : BitVec 128} {data : List (BitVec 512)} (up : (s.landing land).up = true)
  (here : field hdr.toNat 8 6 = s.boot.modid)
include up here

theorem exec_rdr_stray (kind : field hdr.toNat 0 4 = 4) (none_ : s.answered hdr false = none) :
    exec (.rdr land hdr data) s = .next (s.freeRx land hdr (64 * data.length)) := by
  refine next_congr ((if_neg ?_).trans ((if_neg (not_not_intro here)).trans ?_))
  · rintro (h | h)
    · exact Bool.false_ne_true (h.symm.trans up)
    · exact h kind
  · rw [none_]

theorem exec_rdr_taken {x : Xact} (kind : field hdr.toNat 0 4 = 4) (answers : s.answered hdr false = some x)
    (granted : field hdr.toNat 101 4 ≠ 1) (reached : field hdr.toNat 101 4 ≠ 3) : exec (.rdr land hdr data) s =
      .next ((State.pump 64 x.tile x.ch ((s.rdrTaken land hdr data.length x).modFchan (16 * x.tile + x.ch)
        (fun f => x.taken f data (field hdr.toNat 105 4)))).ferryGo x.tile x.ch) := by
  refine next_congr ((if_neg ?_).trans ((if_neg (not_not_intro here)).trans ?_))
  · rintro (h | h)
    · exact Bool.false_ne_true (h.symm.trans up)
    · exact h kind
  · rw [answers]
    exact (if_neg granted).trans (if_neg reached)

theorem exec_rdr_fails {x : Xact} (kind : field hdr.toNat 0 4 = 4) (answers : s.answered hdr false = some x)
    (bad : field hdr.toNat 101 4 = 1 ∨ field hdr.toNat 101 4 = 3) : exec (.rdr land hdr data) s =
      .next ((s.rdrTaken land hdr data.length x).ferryFault x.tile x.ch (if field hdr.toNat 101 4 = 1 then 4 else 5) 1 x.fc) := by
  refine next_congr ((if_neg ?_).trans ((if_neg (not_not_intro here)).trans ?_))
  · rintro (h | h)
    · exact Bool.false_ne_true (h.symm.trans up)
    · exact h kind
  · rw [answers]
    rcases bad with bad | bad
    · exact (if_pos bad).trans (by rw [if_pos bad]; rfl)
    · have not1 : ¬ field hdr.toNat 101 4 = 1 := by omega
      exact (if_neg not1).trans ((if_pos bad).trans (by rw [if_neg not1]; rfl))

theorem exec_wack_stray (kind : field hdr.toNat 0 4 = 5) (none_ : s.answered hdr true = none) :
    exec (.wack land hdr) s = .next (s.freeRx land hdr 0) := by
  refine next_congr ((if_neg ?_).trans ((if_neg (not_not_intro here)).trans ?_))
  · rintro (h | h)
    · exact Bool.false_ne_true (h.symm.trans up)
    · exact h kind
  · rw [none_]

theorem exec_wack {x : Xact} (kind : field hdr.toNat 0 4 = 5) (answers : s.answered hdr true = some x) : exec (.wack land hdr) s = .next (
    if field hdr.toNat 101 4 = 1 then
      (((s.freeRx land hdr 0).dropXact x).lateFail 6 3 land (some x.part) x.dst x.addr 0).ferryFault x.tile x.ch 4 2 x.fc
    else State.pump 64 x.tile x.ch ((s.freeRx land hdr 0).dropXact x)) := by
  refine next_congr ((if_neg ?_).trans ((if_neg (not_not_intro here)).trans ?_))
  · rintro (h | h)
    · exact Bool.false_ne_true (h.symm.trans up)
    · exact h kind
  · rw [answers]

theorem exec_lfn {target : BitVec 6} (kind : field hdr.toNat 0 4 = 6) : exec (.lfn land hdr target) s =
    .next ((s.freeRx land hdr 0).lateFail 1 3 land (some (field hdr.toNat 20 6)) target.toNat (field hdr.toNat 52 48) 0) := by
  refine next_congr ((if_neg ?_).trans (if_neg (not_not_intro here)))
  rintro (h | h)
  · exact Bool.false_ne_true (h.symm.trans up)
  · exact h kind

end

/-! ### Late failures and time-outs (14 R551; 16 R622, R624) -/

/-- The third word of a late failure's entry. -/
def lateInfo (reason srck port : Nat) (part : Option Nat) (modid seq : Nat) : Nat :=
  srck + port * 16 + (match part with | some p => p * 2 ^ 8 + 2 ^ 14 | none => 0) + modid * 2 ^ 15 + reason * 2 ^ 21 + seq * 2 ^ 32

theorem State.lateLog_entry (s : State) (reason srck port : Nat) (part : Option Nat) (modid addr sa : Nat) :
    (s.lateLog reason srck port part modid addr sa).logs.lfhead = (s.logs.lfhead + 1) % 1024 ∧
    Tab.get (fun _ => []) (s.lateLog reason srck port part modid addr sa).logs.lflog s.logs.lfhead =
      [BitVec.ofNat 64 s.stamp, BitVec.ofNat 64 addr, BitVec.ofNat 64 (lateInfo reason srck port part modid s.logs.lfseq), BitVec.ofNat 64 sa] := by
  unfold State.lateLog
  extract_lets lg info words s1 s2
  have recorded : Keeps [.hubs] s1 s2 := Keeps.bbox ..
  have logs : ∀ f, (if srck = 0 ∨ srck = 1 ∨ srck = 5 then s2.modHport port f else s2).logs = s1.logs := fun f =>
    (show Keeps [.ports] s2 (if srck = 0 ∨ srck = 1 ∨ srck = 5 then s2.modHport port f else s2) from .ite (Keeps.modHport ..) (.refl _ _)).same .logs
      (by decide) |>.trans (recorded.same .logs (by decide))
  rw [logs]
  exact ⟨rfl, Tab.get_set_same (fun _ => []) s.logs.lflog s.logs.lfhead words⟩

/-- The fields of a notice's entry. -/
theorem lateInfo_notice {port part modid : Nat} (seq : Nat) (hp : port < 16) (hq : part < 64) (hm : modid < 64) :
    field (BitVec.ofNat 64 (lateInfo 1 3 port (some part) modid seq)).toNat 0 4 = 3 ∧
    field (BitVec.ofNat 64 (lateInfo 1 3 port (some part) modid seq)).toNat 8 6 = part ∧
    field (BitVec.ofNat 64 (lateInfo 1 3 port (some part) modid seq)).toNat 15 6 = modid ∧
    field (BitVec.ofNat 64 (lateInfo 1 3 port (some part) modid seq)).toNat 21 4 = 1 := by
  simp only [lateInfo, field, BitVec.toNat_ofNat]
  norm_num
  omega

theorem State.lateFail_logs (s : State) (reason srck port : Nat) (part : Option Nat) (modid addr sa : Nat) :
    (s.lateFail reason srck port part modid addr sa).logs = (s.lateLog reason srck port part modid addr sa).logs := by
  unfold State.lateFail
  extract_lets s1
  split
  · exact (Keeps.event ..).same .logs (by decide)
  · rfl

theorem exec_transactionTimeout {s : State} {tile ch : Fin 16} {tag : BitVec 16} {x : Xact}
    (found : (s.outstanding tile ch).find? (fun x => x.tag == tag.toNat) = some x) (late : x.issued + s.cfg rXLCFG 12 8 * 16000 ≤ s.cyc) :
    exec (.transactionTimeout tile ch tag) s = .next (s.failXact x) := by
  show execTransactionTimeout tile ch tag s = _
  rw [execTransactionTimeout, found]
  exact next_congr (if_pos late)

/-- A transaction of a channel names it. -/
theorem State.mem_outstanding {s : State} {t ch : Nat} {x : Xact} (h : x ∈ s.outstanding t ch) : x.tile = t ∧ x.ch = ch := by
  have named := (List.mem_filter.1 h).2
  simpa using named

theorem State.not_mem_dropXact (s : State) (x : Xact) : x ∉ (s.dropXact x).xacts := fun h => by
  have other := (List.mem_filter.1 h).2
  simp at other

end Sys2Proof.Machine
end

section
/-! Messages, requests and answers of other modules settled (16 R607, R613 to R624). -/

namespace Sys2Proof.Machine

/-! ### Reads and writes served (16 R613, R620 to R623) -/

section
variable {s : State} {land : Fin 16} {hdr : BitVec 128} {p : Nat}

/-- The line of a bulk slot that a request reads under its grant. -/
theorem State.remServed_deviceRead {a : Nat} (whole : a / 64 * 64 = a) (bulk : (s.slot (a / slotBytes)).cls = .bulk)
    (live : (s.slot (a / slotBytes)).dead = false)
    (now : ReadsAtOnce s (chanOfBank (s.locate a).moduleBank) 5 ((s.locate a).moduleBank % 48) (s.locate a).row)
    (plain : s.lineAsks (s.lineOfSa a) = false) :
    let y := (s.remServed land hdr).deviceRead 5 9 (some p) a
    y.1 = s.readLine (s.lineOfSa a) ∧ SameBanks s y.2 ∧ LinkKept s y.2 := by
  intro y
  have kept := s.remServed_keeps land hdr
  have locate : (s.remServed land hdr).locate a = s.locate a := kept.locate_eq rfl rfl rfl a
  have line : (s.remServed land hdr).lineOfSa (a / 64 * 64) = s.lineOfSa a := by
    rw [whole, State.lineOfSa, State.lineOfSa, locate]
  obtain ⟨banks, writes⟩ := s.remServed_chan land hdr (chanOfBank (s.locate a).moduleBank)
  have isOpen : (((s.remServed land hdr).chan (chanOfBank ((s.remServed land hdr).locate a).moduleBank)).bank
      (((s.remServed land hdr).locate a).moduleBank % 48)).row = some ((s.remServed land hdr).locate a).row := by
    rw [locate, Channel.bank, banks]
    exact now.isOpen
  have asks : (s.remServed land hdr).lineAsks ((s.remServed land hdr).lineOfSa (a / 64 * 64)) = false := by rw [line, kept.lineAsks_eq rfl, plain]
  have read := State.bankRead_open 5 9 (some p) isOpen (by rw [locate, writes]; exact now.writes) asks
  have quiet := State.bankRead_linkKept 5 9 (some p) asks isOpen
  rw [line, kept.readLine_eq rfl] at read
  have slot : (s.remServed land hdr).slot (a / slotBytes) = s.slot (a / slotBytes) := kept.slot_eq rfl rfl _
  have bank : y = (s.remServed land hdr).bankRead 5 9 (some p) a :=
    State.deviceRead_bank 5 9 (some p) (slot ▸ live) (by rw [slot, bulk]; decide)
  clear_value y
  subst bank
  obtain ⟨line, banks⟩ := read
  exact ⟨line, (kept.sameBanks rfl rfl).trans banks, (s.remServed_linkKept land hdr).trans quiet⟩

/-- A line at its home in a tile is read there. -/
theorem State.remServed_deviceRead_home {a : Nat} {e : Nat × Line} (shared : (s.slot (a / slotBytes)).cls = .shared)
    (live : (s.slot (a / slotBytes)).dead = false) (home : s.lines.find? (fun e => e.1 == a / 64) = some e) :
    (s.remServed land hdr).deviceRead 5 9 (some p) a = ((e.2.data, e.2.poison), s.remServed land hdr) := by
  have kept := s.remServed_keeps land hdr
  have lines : (s.remServed land hdr).lines = s.lines := kept.same .lines (by decide)
  rw [State.deviceRead, kept.slot_eq rfl rfl, if_neg (by rw [live]; decide), if_pos shared, lines, home]

end

/-! ### Transactions that end (16 R617, R622, R624) -/

section
variable {s : State} {x : Xact}

theorem State.not_mem_of_channel {t : State} {a b : Nat} (gone : ∀ y ∈ t.xacts, ¬ (y.tile = a ∧ y.ch = b)) (ha : x.tile = a) (hb : x.ch = b) :
    x ∉ t.xacts := fun h => gone x h ⟨ha, hb⟩

theorem State.rdrTaken_keeps (s : State) (land : Nat) (hdr : BitVec 128) (n : Nat) (x : Xact) :
    Keeps [.xacts, .out, .pm, .act] s (s.rdrTaken land hdr n x) :=
  ((Keeps.freeRx ..).append ((Keeps.dropXact ..).append (Keeps.viaMesh ..))).mono (by decide)

theorem State.rdrTaken_xacts (s : State) (land : Nat) (hdr : BitVec 128) (n : Nat) (x : Xact) :
    (s.rdrTaken land hdr n x).xacts = s.xacts.filter (fun y => y != x) := by
  rw [State.rdrTaken, (Keeps.viaMesh ..).same .xacts (by decide), State.dropXact, State.putXacts_xacts, (Keeps.freeRx ..).same .xacts (by decide)]

theorem State.failXact_read (read : x.write = false) : s.failXact x = (s.dropXact x).ferryFault x.tile x.ch 5 1 x.fc := by
  rw [State.failXact, read]
  rfl

theorem State.failXact_write (write : x.write = true) (idle : (s.fchan (16 * x.tile + x.ch)).todo = []) :
    s.failXact x = (s.dropXact x).lateFail 7 3 x.land (some x.part) x.dst x.addr 0 := by
  have kept : Keeps [.xacts, .hubs, .parts, .pages, .ports, .logs, .act, .out] s ((s.dropXact x).lateFail 7 3 x.land (some x.part) x.dst x.addr 0) :=
    (Keeps.dropXact ..).append (Keeps.lateFail ..)
  rw [State.failXact, write, if_pos rfl, State.pump_idle (by rw [kept.fchan_eq rfl, idle])]

end

/-! ### The obligation -/

theorem messageOf_of_mem {land : Fin 16} {hdr : BitVec 128} {data : List (BitVec 512)} {target : BitVec 6} {kind : Nat} {cmd : Instr} {bytes : List Byte}
    (h : (kind, cmd, bytes) ∈ [(2, Instr.remoteRd land hdr, []), (3, Instr.remoteWr land hdr data, (data.take (remReq hdr).lines).flatMap lineBytes),
      (4, Instr.rdr land hdr data, data.flatMap lineBytes), (5, Instr.wack land hdr, []), (6, Instr.lfn land hdr target, [])]) :
    MessageOf land hdr data target kind cmd bytes := by
  simp only [List.mem_cons, Prod.mk.injEq, List.not_mem_nil, or_false] at h
  obtain ⟨rfl, rfl, rfl⟩ | ⟨rfl, rfl, rfl⟩ | ⟨rfl, rfl, rfl⟩ | ⟨rfl, rfl, rfl⟩ | ⟨rfl, rfl, rfl⟩ := h
  exacts [.read, .write, .answer, .ack, .notice]

theorem messageOf_of_mem_commands {land : Fin 16} {hdr : BitVec 128} {data : List (BitVec 512)} {target : BitVec 6} {kind : Nat} {cmd : Instr}
    (h : (kind, cmd) ∈ [(2, Instr.remoteRd land hdr), (3, Instr.remoteWr land hdr data), (4, Instr.rdr land hdr data), (5, Instr.wack land hdr),
      (6, Instr.lfn land hdr target)]) : ∃ bytes, MessageOf land hdr data target kind cmd bytes := by
  simp only [List.mem_cons, Prod.mk.injEq, List.not_mem_nil, or_false] at h
  obtain ⟨rfl, rfl⟩ | ⟨rfl, rfl⟩ | ⟨rfl, rfl⟩ | ⟨rfl, rfl⟩ | ⟨rfl, rfl⟩ := h
  exacts [⟨_, .read⟩, ⟨_, .write⟩, ⟨_, .answer⟩, ⟨_, .ack⟩, ⟨_, .notice⟩]

/-- Settles O36: a message leaves or waits as `State.sendMsg_leaves` and `State.sendMsg_waits` say; each command is an equation on its header's kind,
and what serves a request changes neither the links nor the banks (`LinkKept`, `Keeps`); a fault leaves its channel as `State.ferryFault_spec` says. -/
theorem remoteCommandsComplete : Obligations.RemoteCommandsComplete := by
  unfold Obligations.RemoteCommandsComplete
  refine ⟨?_, ?_, ?_, ?_, ?_, ?_, ?_, ?_, ?_, ?_, ?_, ?_, ?_, ?_, ?_, ?_, ?_, ?_, ?_, ?_, ?_⟩
  · rintro s l hdr data k c up none_ rfl rfl paid room
    have may : ({ s.landing l with txQ := [txMsg hdr data] } : Landing).sendable 0 (txMsg hdr data) = true := by
      rw [Landing.sendable, Bool.and_eq_true]
      exact ⟨decide_eq_true paid, decide_eq_true (by rw [Nat.zero_add]; exact room)⟩
    obtain ⟨sent, gone, credits⟩ := State.sendMsg_leaves up none_ may
    refine ⟨sent, gone, ?_⟩
    rw [credits]
    exact Tab.get_upd_same ..
  · intro s l hdr data up none_ short
    have waits : ({ s.landing l with txQ := [txMsg hdr data] } : Landing).sendable 0 (txMsg hdr data) = false := by
      rw [Landing.sendable, Bool.and_eq_false_iff]
      exact .inl (decide_eq_false (Nat.not_le.2 short))
    obtain ⟨unsent, queued⟩ := State.sendMsg_waits up none_ waits
    exact ⟨unsent, _, queued, rfl, rfl⟩
  · intro s land hdr p up kind some_ few here lets scratch
    refine .next (exec_remoteRd_admitted up some_ few here kind lets) ⟨(s.freeRx land hdr 0).readMesh land (remReq hdr).tile (remReq hdr).lines,
      bitsOf (fun i => s.spPoisoned (remReq hdr).tile ((remReq hdr).sp0 + 64 * i) 64) (remReq hdr).lines, State.remoteRead_scratchpad scratch,
      fun i hi => flag_bitsOf _ hi, ?_, ?_⟩
    · exact ((State.freeRx_linkKept ..).trans (State.readMesh_linkKept ..)).link
    · exact ((Keeps.freeRx ..).append (Keeps.readMesh ..)).mono (by decide)
  · rintro s land hdr p a l up kind one here lets memory rfl bulk live rfl now plain
    have may : ∀ a ∈ s.remLines (remReq hdr), s.canRead 5 a = true := fun a ha => by
      rw [(State.mem_remLines one ha).1]
      exact now.canRead_host (by decide)
    have quiet := State.remSnoop_bulk (s := s) (land := land) (p := p) (data := []) (write := false) (bad := []) one bulk
    obtain ⟨line, banks, kept⟩ := State.remServed_deviceRead (land := land) (hdr := hdr) (p := p) (by rw [Nat.mul_div_cancel _ (by decide)]) bulk live now plain
    refine .next (exec_remoteRd_admitted up (by omega) (by omega) here kind lets) ⟨_, kept.link, ?_, banks, ?_⟩
    · exact ((State.remServed_keeps ..).append (Keeps.deviceRead ..)).same .lands (by decide)
    · rw [State.remoteRead_one memory one quiet may, line]
  · rintro s land hdr p a e up kind one here lets memory rfl shared live quiet home
    have may : ∀ a ∈ s.remLines (remReq hdr), s.canRead 5 a = true := fun a ha =>
      absurd ((State.mem_remLines one ha).1 ▸ shared) (State.mem_remLines one ha).2
    have kept := s.remServed_keeps land hdr
    refine .next (exec_remoteRd_admitted up (by omega) (by omega) here kind lets) ⟨s.remServed land hdr, (s.remServed_linkKept land hdr).link,
      kept.same .lands (by decide), kept.sameBanks rfl rfl, ?_⟩
    rw [State.remoteRead_one memory one quiet may, State.remServed_deviceRead_home shared live home]
  · intro s land hdr p up kind some_ few here lets memory quiet barred
    rw [exec_remoteRd_admitted up some_ few here kind lets, State.remoteRead_waits memory quiet barred]
  · intro s land hdr up kind some_ few here bars
    have kept : Keeps [.pm, .act, .out, .lands] s ((s.freeRx land hdr 0).reply hdr 4 0 1 0 []) := ((Keeps.freeRx ..).append (Keeps.reply ..)).mono (by decide)
    exact .next (exec_remoteRd_refused up some_ few here kind bars) ⟨rfl, kept.same .sp (by decide), kept.sameBanks rfl rfl⟩
  · intro s land hdr data up kind some_ few here bars
    have kept : Keeps [.pm, .act, .out, .lands] s ((s.freeRx land hdr (64 * (remReq hdr).lines)).reply hdr 5 0 1 0 []) :=
      ((Keeps.freeRx ..).append (Keeps.reply ..)).mono (by decide)
    exact .next (exec_remoteWr_refused up some_ few here kind bars) ⟨rfl, kept.same .sp (by decide), kept.sameBanks rfl rfl⟩
  · intro s land hdr data p up kind some_ few here lets scratch
    have run := exec_remoteWr_admitted (data := data) up some_ few here kind lets
    rw [State.remoteWrite_scratchpad scratch] at run
    have before : Keeps [.pm, .act, .out] s ((s.freeRx land hdr (64 * (remReq hdr).lines)).viaMesh land (remReq hdr).tile (remReq hdr).lines) :=
      ((Keeps.freeRx ..).append (Keeps.viaMesh ..)).mono (by decide)
    have quiet := (State.freeRx_linkKept s land hdr (64 * (remReq hdr).lines)).trans (State.viaMesh_linkKept _ land (remReq hdr).tile (remReq hdr).lines)
    have written := State.linesWritten_keeps ((s.freeRx land hdr (64 * (remReq hdr).lines)).viaMesh land (remReq hdr).tile (remReq hdr).lines)
      (remReq hdr).tile (remReq hdr).sp0 (fun i => data.getD i 0) (fun i => flag hdr.toNat (105 + i)) (remReq hdr).lines
    refine .next run ⟨⟨_, (quiet.trans (written.linkKept rfl)).link, (before.append written).same .lands (by decide), rfl⟩, ?_, ?_, ?_⟩
    · intro i hi
      rw [State.spRead_of_keeps (Keeps.reply ..) rfl, State.spRead_linesWritten _ _ _ _ _ _ _ hi]
    · intro a n apart
      rw [State.spRead_of_keeps (Keeps.reply ..) rfl, State.spRead_linesWritten_apart _ _ _ _ _ _ _ _ apart, State.spRead_of_keeps before rfl]
    · exact (before.append (written.append (Keeps.reply ..))).sameBanks rfl rfl
  · rintro s land hdr data p sa up kind one here lets memory rfl bulk live room
    have run := exec_remoteWr_admitted (data := data) up (by omega) (by omega) here kind lets
    rw [State.remoteWrite_bulk memory one bulk live room] at run
    have before : Keeps [.pm, .act, .out] s ((s.freeRx land hdr 64).viaMesh land (s.homeOf (remReq hdr).addr) 1) :=
      ((Keeps.freeRx ..).append (Keeps.viaMesh ..)).mono (by decide)
    have quiet := (State.freeRx_linkKept s land hdr 64).trans (State.viaMesh_linkKept _ land (s.homeOf (remReq hdr).addr) 1)
    have accepted := Keeps.acceptWrite ((s.freeRx land hdr 64).viaMesh land (s.homeOf (remReq hdr).addr) 1) 5 (4 + land) (some p)
      ((remReq hdr).addr / 64 * 64) (data.getD 0 0) (BitVec.allOnes 64) (flag hdr.toNat 105) none (some hdr)
    obtain ⟨q, queue, rest⟩ := State.acceptWrite_queued ((s.freeRx land hdr 64).viaMesh land (s.homeOf (remReq hdr).addr) 1) 5 (4 + land) (some p)
      ((remReq hdr).addr / 64 * 64) (data.getD 0 0) (BitVec.allOnes 64) (flag hdr.toNat 105) none (some hdr)
    rw [before.locate_eq rfl rfl rfl] at queue rest
    rw [before.chan_eq rfl] at queue
    refine .next run ⟨⟨_, (quiet.trans (accepted.linkKept rfl)).link, (before.append accepted).same .lands (by decide), rfl⟩, ⟨q, ?_, rest⟩, ?_⟩
    · rw [(Keeps.reply ..).chan_eq rfl, queue]
    · exact (before.append (accepted.append (Keeps.reply ..))).sameBanks rfl rfl
  · intro s land hdr data target l kind cmd bytes which up isKind lines away hops route
    have run := exec_forward up (messageOf_of_mem which) isKind lines away
    rw [State.forward_on hops route] at run
    exact .next run ⟨_, (State.viaMesh_linkKept ..).link, (Keeps.viaMesh ..).same .lands (by decide), (Keeps.viaMesh ..).sameBanks rfl rfl, rfl⟩
  · intro s land hdr data target kind cmd which up isKind lines away hops
    obtain ⟨bytes, m⟩ := messageOf_of_mem_commands which
    have run := exec_forward up m isKind lines away
    rw [State.forward_far hops] at run
    refine .next run ⟨?_, ?_, ((Keeps.freeRx ..).append (Keeps.lateLog ..)).sameBanks rfl rfl⟩
    · exact ((State.freeRx_linkKept ..).trans ((Keeps.lateLog ..).linkKept rfl)).link
    · rw [State.lateLog_lfseq, (Keeps.freeRx ..).same .logs (by decide)]
  · intro s land hdr data up kind here none_
    exact .next (exec_rdr_stray up here kind none_) ⟨rfl, (Keeps.freeRx ..).mono (by decide)⟩
  · intro s land hdr up kind here none_
    exact .next (exec_wack_stray up here kind none_) ⟨rfl, (Keeps.freeRx ..).mono (by decide)⟩
  · intro s land hdr data x up kind here answers granted reached idle moved waits
    have run := exec_rdr_taken (data := data) up here kind answers granted reached
    have kept : Keeps [.xacts, .out, .pm, .act] s (s.rdrTaken land hdr data.length x) := State.rdrTaken_keeps ..
    have xacts := s.rdrTaken_xacts land hdr data.length x
    have chan : ((s.rdrTaken land hdr data.length x).modFchan (16 * x.tile + x.ch) (fun f => x.taken f data (field hdr.toNat 105 4))).fchan
        (16 * x.tile + x.ch) = x.taken (s.fchan (16 * x.tile + x.ch)) data (field hdr.toNat 105 4) := by
      rw [State.fchan_modFchan, kept.fchan_eq rfl]
    rw [State.pump_idle (by rw [chan]; exact idle), State.ferryGo_waits (by rw [chan]; exact moved)
      (by rw [State.outstanding, State.modFchan_xacts, xacts]; exact waits)] at run
    refine .next run ⟨xacts, by rw [chan], (kept.append (Keeps.modFchan ..)).mono (by decide)⟩
  · intro s land hdr data x e up kind here answers bad cur
    obtain ⟨st, fault, addr, module_, gone⟩ := (s.rdrTaken land hdr data.length x).ferryFault_spec x.tile x.ch
      (if field hdr.toNat 101 4 = 1 then 4 else 5) 1 x.fc
    exact .next (exec_rdr_fails up here kind answers bad)
      ⟨State.not_mem_of_channel gone rfl rfl, st, fault, addr, module_, ((State.rdrTaken_keeps ..).append (Keeps.ferryFault ..)).sameBanks rfl rfl⟩
  · intro s land hdr x up kind here answers granted idle
    have run := exec_wack up here kind answers
    have kept : Keeps [.pm, .act, .out, .xacts] s ((s.freeRx land hdr 0).dropXact x) := ((Keeps.freeRx ..).append (Keeps.dropXact ..)).mono (by decide)
    rw [if_neg granted, State.pump_idle (by rw [kept.fchan_eq rfl, idle])] at run
    refine .next run ⟨?_, kept.mono (by decide)⟩
    rw [State.dropXact, State.putXacts_xacts, (Keeps.freeRx ..).same .xacts (by decide)]
  · intro s land hdr x e up kind here answers refused cur
    have run := exec_wack up here kind answers
    rw [if_pos refused] at run
    have before : Keeps [.pm, .act, .out, .xacts] s ((s.freeRx land hdr 0).dropXact x) := ((Keeps.freeRx ..).append (Keeps.dropXact ..)).mono (by decide)
    obtain ⟨st, fault, -, -, gone⟩ := (((s.freeRx land hdr 0).dropXact x).lateFail 6 3 land (some x.part) x.dst x.addr 0).ferryFault_spec x.tile x.ch
      4 2 x.fc
    refine .next run ⟨State.not_mem_of_channel gone rfl rfl, st, fault, ?_,
      (before.append ((Keeps.lateFail ..).append (Keeps.ferryFault ..))).sameBanks rfl rfl⟩
    rw [(Keeps.ferryFault ..).same .logs (by decide), State.lateFail_lfseq, before.same .logs (by decide)]
  · intro s land hdr target up kind here
    have same : (s.freeRx land hdr 0).logs = s.logs := (Keeps.freeRx ..).same .logs (by decide)
    have logs := (s.freeRx land hdr 0).lateFail_logs 1 3 land (some (field hdr.toNat 20 6)) target.toNat (field hdr.toNat 52 48) 0
    obtain ⟨head, entry⟩ := (s.freeRx land hdr 0).lateLog_entry 1 3 land (some (field hdr.toNat 20 6)) target.toNat (field hdr.toNat 52 48) 0
    rw [← logs, same] at head entry
    refine .next (exec_lfn up here kind) ⟨?_, head, ⟨_, _, _, _, entry, ?_, lateInfo_notice _ land.isLt (field_lt ..) target.isLt⟩, ?_⟩
    · rw [State.lateFail_lfseq, same]
    · rw [BitVec.toNat_ofNat]
      exact Nat.mod_eq_of_lt ((field_lt ..).trans (by decide))
    · exact ((Keeps.freeRx ..).append (Keeps.lateFail ..)).sameBanks rfl rfl
  · intro s tile ch tag x e found late read cur
    obtain ⟨ht, hc⟩ := State.mem_outstanding (List.mem_of_find?_eq_some found)
    have run := exec_transactionTimeout found late
    rw [State.failXact_read read, ht, hc] at run
    obtain ⟨st, fault, -, -, gone⟩ := (s.dropXact x).ferryFault_spec tile ch 5 1 x.fc
    exact .next run ⟨State.not_mem_of_channel gone ht hc, st, fault, ((Keeps.dropXact ..).append (Keeps.ferryFault ..)).sameBanks rfl rfl⟩
  · intro s tile ch tag x found late write idle
    obtain ⟨ht, hc⟩ := State.mem_outstanding (List.mem_of_find?_eq_some found)
    have run := exec_transactionTimeout found late
    rw [State.failXact_write write (by rw [ht, hc]; exact idle)] at run
    refine .next run ⟨?_, ?_, ((Keeps.dropXact ..).append (Keeps.lateFail ..)).sameBanks rfl rfl⟩
    · rw [(Keeps.lateFail ..).same .xacts (by decide)]
      exact State.not_mem_dropXact s x
    · rw [State.lateFail_lfseq, (Keeps.dropXact ..).same .logs (by decide)]

end Sys2Proof.Machine
end
